-- ==== Sys2Proof/Word.lean ====
section
/-!
DEFINITION. The widths the manual counts in (R11, R12): bytes, half-words, register words, shot words and the 48-bit
slate.
-/

namespace Sys2Proof

/-- A byte. -/
abbrev Byte := BitVec 8
/-- A 16-bit value: a generation, an epoch, a fault code. -/
abbrev Half := BitVec 16
/-- A register word, little-endian, 32 bits (R11). -/
abbrev Word := BitVec 32
/-- The slate: 48 bits at 12.5 ns (R35). -/
abbrev Slate := BitVec 48
/-- A 64-bit word: a shot word, the accumulator. -/
abbrev DWord := BitVec 64

end Sys2Proof
end

