-- ==== Sys2Proof/Syntax.lean ====
section
/-!
DEFINITION. The commands of the block: one constructor per row of spec/opcode_table.json, in its order, with the
row's operands. The operand types stand first.
-/
namespace Sys2Proof

/-- A crossing between islands (R29 to R31): the sending and the receiving unit. Units 0 to 6 are the islands D0 to D6;
units 10 to 18 are the engines E0 to E7 and ES, each with queues of its own (R110). -/
structure Xing where
  src : Nat
  dst : Nat
  deriving DecidableEq, Repr

/-- What the code of a memory word finds when it is read (R134, R507): nothing, a corrected single-bit error, a
single-bit error that comes back after the write-back, or an uncorrectable error. -/
inductive Ecc where
  | clean | corr | stuck | uncorr
  deriving DecidableEq, Repr

/-- What port A does with a word of the mailbox (R519, R521): it writes the word, or sets or clears the bits of a mask
in one operation of the bank, of which the code of the word is told. -/
inductive PortAOp where
  | write (v : Word)
  | atomic (set : Bool) (mask : Word) (ecc : Ecc)
  deriving DecidableEq, Repr

/-- What a crossing delivers (R31): the oldest word that was launched into it, or, toward the input area of the list
of an engine, a management command word that D1 launches (R141). -/
inductive Delivery where
  | oldest (x : Xing)
  | mgmt (e : Fin 8) (w : Word)
  deriving DecidableEq, Repr

/-- The START of an engine (R119): the engine, and what the code of the two header words that it reads finds (R134). -/
structure Start where
  eng : Fin 9
  lo : Ecc := .clean
  hi : Ecc := .clean
  deriving DecidableEq, Repr

/-- The clock of a host frame at its end (R449, R458): its SCK cycles, and the wait cycles driven for a word that is still
held then (R54, R455). -/
structure FrameClock where
  cycles : Nat
  waited : Nat := 0
  deriving DecidableEq, Repr

/-- What is detected of an engine: a fault, its code counting from 0x0401 (R132), a failed engine test, or an FLL that has
not locked 40 us after a restart (R541). -/
inductive EngCause where
  | fault (c : Fin 11)
  | testFail
  | noLock
  deriving DecidableEq, Repr

/-- A detection of D1, with those of other engines in the same cycle (R542). -/
structure Detection where
  cause : EngCause
  also : List (Fin 9 × EngCause) := []
  deriving DecidableEq, Repr

/-- The loading of a reel at the end of BOOT: how many ticks later than slate 120 000 it ends where a slot had to be
rejected (R594), and whether a copy outside the banks does not read back with its check (R85). -/
structure LoadEnd where
  late : Nat := 0
  bad : Bool := false
  deriving DecidableEq, Repr

/-- The end of a dead time (R250): the half-bridge of the axis, and whether its gate driver holds the turn-on back, the
other gate being at 1.5 V or above (R318). -/
structure TurnOn where
  k : Fin 4
  held : Bool := false
  deriving DecidableEq, Repr

/-- What the fetch of a shot meets: bits of the shot word that read wrong and that no code notices (R133), what the code
of its two 32-bit words and of the constants it reads finds (R134), and errors that have arisen in bank words before the
access, by host address. The word itself stands in the page that the engine executes (R111). -/
structure Fetch where
  flip : DWord := 0
  lo : Ecc := .clean
  hi : Ecc := .clean
  consts : List Ecc := []
  bank : List (Nat × Ecc) := []
  deriving DecidableEq, Repr


/-- The output voltages of an axis at the end of an off-state diagnosis, in millivolts (R335). -/
structure DiagVolts where
  aPlus : Nat
  aMinus : Nat
  bPlus : Nat
  bMinus : Nat
  deriving DecidableEq, Repr
/-- A latch that shows a 32-bit stamp (R40): a position latch, a CAN receive buffer, or HPB. -/
inductive Stamped where
  | latch (j : Fin 8)
  | rb (n : Fin 16)
  | hpb
  deriving DecidableEq, Repr

/-- What one access of the host meets: what the code of a memory or flash word finds, the value that port A writes to the
same mailbox word in the same cycle (R461, R507, R555), and how far the island's slate lags behind the generator for a
stamp that it takes (R36). -/
structure Access where
  ecc : Ecc := .clean
  coll : Option Word := none
  lag : Nat := 0
  deriving DecidableEq, Repr

/-- A frame on the bus (R408, R445): its identifier, a base one in bits 28:18, and its data bytes. -/
structure CanFrame where
  id : BitVec 29
  ide : Bool := false
  rtr : Bool := false
  fdf : Bool := false
  brs : Bool := false
  esi : Bool := false
  dlc : Fin 16 := 0
  data : List Byte := []
  deriving DecidableEq, Repr

/-- An error that the node detects (R426): in a frame, with its type less 1 as CAN_ERRLOG.LEC codes it, whether it falls
in the data phase, and whether ISO 11898-1 exempts it from the count; a bit error while the node sends its own active
error or overload flag; a dominant bit seen first after its error flag; eight more dominant bits in a row after the
flags; or an overload condition, which is no error (R408). -/
inductive CanErr where
  | frame (lec : Fin 6) (data exempt : Bool)
  | flag
  | first
  | run
  | overload
  deriving DecidableEq, Repr

/-- How a transmit attempt ends (R412, R419): acknowledged; arbitration lost, which falls before the bit at which the
transmitter measures its delay; or an error. An attempt that reached that bit brings the delay measured. -/
inductive CanEnd where
  | ok (tdcv : Option (BitVec 7))
  | lost
  | error (lec : Fin 6) (data exempt : Bool) (tdcv : Option (BitVec 7))
  deriving DecidableEq, Repr


/-- The commands (spec/opcode_table.json). -/
inductive Instr where
  /-- SLATE_WRAP (R37): The 48-bit slate wraps to zero and EPOCH increments. -/
  | slateWrap
  /-- CROSSING_DELIVER (R31): A word launched into an island crossing becomes usable in the receiving island. -/
  | crossingDeliver (d : Delivery)
  /-- CUT_CLOSE (R47): At C − 92 all shot lists must have ended, frame-path launches stop and host accesses start to
  be held. -/
  | cutClose
  /-- DRAIN_CHECK (R52): At C − 28, D5 records every island that has not reported its queues empty. -/
  | drainCheck (late : BitVec 12)
  /-- CUT_APPLY (R49): Pending disables, handovers, repairs, splices and CUT-register values are applied in order. -/
  | cutApply
  /-- CUT_SEAL (R47): Queues, operand slots and input tags are cleared, and ownership and section pointers are fixed. -/
  | cutSeal
  /-- CUT (R47): At the cut the frame counter increments, the last cut is captured and per-cut work of every block
  runs. -/
  | cut
  /-- ENGINE_START (R120): An engine, or ES, begins its shot list when its sampled slate reaches C + 2. -/
  | engineStart (b : Start)
  /-- HOST_HOLD_RELEASE (R54): Host register accesses held in the cut window are released at C + 4. -/
  | hostHoldRelease
  /-- CUT_MISSED (R55): A cut not seen 8 ticks after its due time raises 0x0208. -/
  | cutMissed
  /-- SLATE_DECODE (R55): A sampled slate unchanged for 16 ticks raises 0x0206, makes every axis safe and enters SAFE. -/
  | slateDecode
  /-- XTAL_MONITOR_WINDOW (R57): A 1 µs monitor window of the crystal against the RC ends and is judged good or not. -/
  | xtalMonitorWindow (periods : Nat)
  /-- XTAL_QUALIFIED (R56): The crystal reaches 1024 consecutive good windows and REF switches at the next cut. -/
  | xtalQualified
  /-- XTAL_LOST (R58): The crystal is declared lost, the FLLs hold over and fault 0x0201 is raised. -/
  | xtalLost
  /-- REF_SWITCH (R58): REF switches glitch-free to RC / 3 after a crystal loss. -/
  | refSwitch
  /-- FLL_RELOCK (R62): An FLL back within ±0.5 % for 40 µs counts as locked again. -/
  | fllRelock (isl : Fin 12)
  /-- FLL_UNLOCK (R62): An island FLL leaves ±0.5 %, raising 0x0204 and clearing its ISL_OK bit. -/
  | fllUnlock (isls : BitVec 12)
  /-- XTAL_START (R64): The crystal is not qualified within 10 ms and fault 0x0202 is raised. -/
  | xtalStart
  /-- RC_LOST (R61): The RC oscillator is lost, leading to DEGRADED or holdover and SAFE. -/
  | rcLost
  /-- REF_ABSENT_RESET (R61): No reference returns within 10 ms and the device resets with cause CLOCK. -/
  | refAbsentReset
  /-- LPO_MEASURE (R43): MC starts the periodic 60 s measurement of the LPO against REF. -/
  | lpoMeasure
  /-- LPO_CAL (R65): A host write starts an LPO measurement over 1024 LPO periods. -/
  | lpoCal
  /-- LPO_MEASURE_DONE (R63): An LPO measurement ends, updating CLK_LPO_PER and judging the range. -/
  | lpoMeasureDone (per : Word)
  /-- XTAL_ENABLE (R56): A write of XTAL_EN starts the oscillator and qualification, or switches REF to the RC. -/
  | xtalEnable (en : Bool)
  /-- XTAL_RETRY (R59): A write restarts the count of 1024 good windows for a return to the crystal. -/
  | xtalRetry
  /-- FRAME_LEN_WRITE (R67): A write of CLK_FRAME_LEN is checked and buffered for the next cut. -/
  | frameLenWrite (v : Word)
  /-- CLK_FAULT_CLEAR (R66): A write clears CLK_FAULT flags, refused while their condition holds. -/
  | clkFaultClear (mask : Word)
  /-- SLEEP_SAT (R44): The sleep counter saturates at 2^40 − 1 LPO periods. -/
  | sleepSat
  /-- STAMP_STALE (R40): A latched stamp reaches an age of 2^31 ticks and STALE is set. -/
  | stampStale (x : Stamped)
  /-- RESIDENT_RECHECK (R86): MC recomputes the resident checks of all loaded behavioural sections. -/
  | residentRecheck (mismatch : Bool)
  /-- RELOAD_DONE (R86): Reloading of the active take into staged copies ends and the switch waits for the next cut. -/
  | reloadDone (bad : Bool)
  /-- RECHECK (R86): REEL_CTRL.RECHECK starts a resident recheck pass at once. -/
  | recheck
  /-- REEL_SPLICE (R93): A write of REEL_SPLICE is checked and starts staging a splice. -/
  | reelSplice (v : Word)
  /-- STAGING_END (R96): Staging of the source reel ends and the splice becomes ARMED or REFUSED. -/
  | stagingEnd (bad : Bool)
  /-- STAGED_RECHECK (R96): After a repair in its bank, a staged copy is read back and checked again. -/
  | stagedRecheck (bad : Bool)
  /-- CONFIRM (R103): REEL_CTRL.CONFIRM ends a trial and programs the slot GOOD. -/
  | confirm
  /-- CANCEL (R94): REEL_CTRL.CANCEL refuses a STAGING or ARMED splice with reason 0x0D. -/
  | cancel
  /-- TRIAL_PROGRAM (R102): Within 1 ms of a splice cut the new slot is programmed TRIAL. -/
  | trialProgram
  /-- TRIAL_FRAMES_EXPIRE (R103): TRIAL_FRAMES fault-free cuts pass and the slot is programmed GOOD. -/
  | trialFramesExpire
  /-- BOOT_START (R594): BOOT begins: RC and slate start, pins are sampled and the regulators start. -/
  | bootStart (cascM : Bool) (test : Bool)
  /-- REGULATORS_READY (R594): Rails are in range and D1–D6 are clocked with locked FLLs. -/
  | regulatorsReady (bad : List (Fin 17 × Fin 256))
  /-- FIRMWARE_SELECT (R558): The boot ROM selects and checks a firmware slot. -/
  | firmwareSelect
  /-- REEL_SELECT (R87): MC selects a reel slot, verifies it and loads it. -/
  | reelSelect
  /-- BOOT_END (R91): Structural and behavioural sections, parameters and REG_INIT are applied before the first cut. -/
  | bootEnd (x : LoadEnd)
  /-- NO_START (R132): An engine with no first shot 8 cycles after C + 2 raises NO_START. -/
  | noStart (e : Fin 9)
  /-- FORCE (R137): ENG_CTRL.FORCE injects a FORCED fault into an engine at the next START. -/
  | force (m : BitVec 8)
  /-- FORCE_ES (R137): ENG_CTRL.FORCE_ES injects a FORCED fault into ES. -/
  | forceEs
  /-- RESTORE (R541): ENG_CTRL.RESTORE requests the return of a covered engine from ES. -/
  | restore (m : BitVec 8)
  /-- RETURN_RELOAD_DONE (R541): The returning engine's page reload ends and its test is scheduled. -/
  | returnReloadDone
  /-- PAD (R149): The PAD shot occupies COUNT cycles. -/
  | pad (e : Fin 9) (f : Fetch)
  /-- LDK (R149): The LDK shot loads a constant into an operand slot. -/
  | ldk (e : Fin 9) (f : Fetch)
  /-- MOV (R150): The MOV shot moves a value, optionally indexed. -/
  | mov (e : Fin 9) (f : Fetch)
  /-- TAGM (R151): The TAGM shot writes a mask from input tags and validity. -/
  | tagm (e : Fin 9) (f : Fetch)
  /-- BLD (R166): The BLD shot loads and verifies a context block. -/
  | bld (e : Fin 9) (f : Fetch)
  /-- BST (R167): The BST shot stores a context block with read-back and a new check. -/
  | bst (e : Fin 9) (f : Fetch)
  /-- ACPT (R169): The ACPT shot accepts a checked datum into a record block. -/
  | acpt (e : Fin 9) (f : Fetch)
  /-- ADD (R152): The ADD shot adds or subtracts, wrapping or saturating. -/
  | add (e : Fin 9) (f : Fetch)
  /-- MUL (R152): The MUL shot multiplies into the accumulator. -/
  | mul (e : Fin 9) (f : Fetch)
  /-- ACCX (R152): The ACCX shot extracts a shifted accumulator value. -/
  | accx (e : Fin 9) (f : Fetch)
  /-- LOGIC (R152): The LOGIC shot computes a bitwise operation. -/
  | logic (e : Fin 9) (f : Fetch)
  /-- SHIFT (R152): The SHIFT shot shifts or rotates. -/
  | shift (e : Fin 9) (f : Fetch)
  /-- CMP (R152): The CMP shot writes a comparison mask. -/
  | cmp (e : Fin 9) (f : Fetch)
  /-- SEL (R152): The SEL shot selects under a mask. -/
  | sel (e : Fin 9) (f : Fetch)
  /-- CLAMP (R152): The CLAMP shot clamps a value between limits. -/
  | clamp (e : Fin 9) (f : Fetch)
  /-- ABSN (R152): The ABSN shot computes absolute value, negation or sign. -/
  | absn (e : Fin 9) (f : Fetch)
  /-- DIV (R153): The DIV shot divides with a shift. -/
  | div (e : Fin 9) (f : Fetch)
  /-- ISQRT (R154): The ISQRT shot computes an integer square root. -/
  | isqrt (e : Fin 9) (f : Fetch)
  /-- TBL (R156): The TBL shot reads or interpolates a table. -/
  | tbl (e : Fin 9) (f : Fetch)
  /-- ROT (R157): The ROT shot runs a 16-iteration CORDIC vector or rotation. -/
  | rot (e : Fin 9) (f : Fetch)
  /-- OBSV (R158): The OBSV shot updates the four observer states. -/
  | obsv (e : Fin 9) (f : Fetch)
  /-- PLAN (R160): The PLAN shot selects a command and computes the frame's acceleration, limit, flags and distance. -/
  | plan (e : Fin 9) (f : Fetch)
  /-- RAMP (R161): The RAMP shot advances position and velocity by one frame. -/
  | ramp (e : Fin 9) (f : Fetch)
  /-- CAMI (R162): The CAMI shot evaluates a cam keyframe table. -/
  | cami (e : Fin 9) (f : Fetch)
  /-- STEPI (R163): The STEPI shot interpolates a step count to microsteps. -/
  | stepi (e : Fin 9) (f : Fetch)
  /-- SETP (R172): The SETP shot builds and launches the two set-point words. -/
  | setp (e : Fin 9) (f : Fetch)
  /-- STAT (R175): The STAT shot launches status words toward D1 or D2. -/
  | stat (e : Fin 9) (f : Fetch)
  /-- MIRR (R175): The MIRR shot launches mirror words toward D11. -/
  | mirr (e : Fin 9) (f : Fetch)
  /-- ENGINE_FAULT (R535): An engine fault reaches D6, D11 and D1 over the fault line and is handled by takeover, park
  or cover loss. -/
  | engineFault (e : Fin 9) (d : Detection)
  /-- PARAM_WRITE (R179): A write to an axis parameter register is checked and marked pending. -/
  | paramWrite (n : Fin 12) (i : Fin 31) (v : Word)
  /-- AX_SETPOS (R181): A write of AXn_SETPOS sets the position and target at the next frame. -/
  | axSetpos (n : Fin 12) (v : Word)
  /-- HOMING_REQUEST (R302): A write of MODE = HOMING is checked and starts a homing. -/
  | homingRequest (n : Fin 12) (v : Word)
  /-- CAM_ENGAGE (R231): A write of CAM_AXn_CTRL engages or disengages a cam. -/
  | camEngage (n : Fin 12) (v : Word)
  /-- CAM_BIND (R233): A write of CAM_AXn_BIND sets the master source at the next cut. -/
  | camBind (n : Fin 12) (v : Word)
  /-- STEP_EDGE (R239): A recognised STEP edge changes a step channel's count and is timestamped. -/
  | stepEdge (k : Fin 4) (rising : Bool) (dir : Bool) (late : Bool) (lag : Nat)
  /-- STEP_CLEAR (R248): CAM_SIk_CFG.CLR clears a step channel's count and timing history at the next cut. -/
  | stepClear (k : Fin 4)
  /-- SETPOINT_ARRIVE (R263): A set-point pair reaches D6 and is stored with a resident check. -/
  | setpointArrive (e : Fin 9)
  /-- CARRIER_START (R252): A carrier period of an axis starts and latches polarity. -/
  | carrierStart (n : Fin 12)
  /-- CARRIER_EDGE (R258): An on-interval edge of a phase is taken at its compare point. -/
  | carrierEdge (n : Fin 12) (b : Bool)
  /-- DEAD_TIME_EXPIRE (R250, R318): The pending turn-on of a half-bridge switch occurs after DT. -/
  | deadTimeExpire (n : Fin 12) (t : TurnOn)
  /-- CURRENT_SAMPLE (R257): A current-loop sample reaches D6 and the phase PI runs. -/
  | currentSample (n : Fin 12) (b : Bool) (w : Word)
  /-- SAMPLE_HOLDOFF (R262): A phase is held in DECAY for a voltage slot from GUARD ticks before it. -/
  | sampleHoldoff (n : Fin 12) (b : Bool) (begins : Bool)
  /-- MOD_COMMIT (R271): A write of MOD_COMMIT arms the CMT buffers of the named axes. -/
  | modCommit (v : Word)
  /-- MOD_FORCE (R276): A write of MOD_AXn_FORCE replaces the carrier's switch commands. -/
  | modForce (n : Fin 12) (v : Word)
  /-- TRIP (R327): A filtered comparator, GATE condition or exhaustion turns off the axis and isolates the half-bridge. -/
  | trip (n : Fin 12) (src : Fin 18)
  /-- BST_UV_ASSERT (R321): Bootstrap undervoltage of a half-bridge is asserted. -/
  | bstUvAssert (n : Fin 12) (k : Fin 4)
  /-- BST_UV_RELEASE (R321): Bootstrap undervoltage of a half-bridge is released. -/
  | bstUvRelease (n : Fin 12) (k : Fin 4)
  /-- BST_EXHAUST (R323): BST_UV still asserted after four refresh periods isolates the half-bridge. -/
  | bstExhaust (n : Fin 12) (k : Fin 4)
  /-- TRIP_CLEAR (R331): A write to PWR_AXn_TRIP clears trip bits or is answered CLEAR_REFUSED. -/
  | tripClear (n : Fin 12) (mask : Word)
  /-- DIAG_START (R335): PWR_AXn_DIAG.START begins the off-state diagnosis. -/
  | diagStart (n : Fin 12)
  /-- DIAG_DONE (R335): After 2 ms the diagnosis classifies each phase. -/
  | diagDone (n : Fin 12) (v : DiagVolts)
  /-- SELFTEST_START (R336): PWR_ST_CTRL.START begins the comparator self-test. -/
  | selftestStart (sel : BitVec 12)
  /-- SELFTEST_DONE (R337): The self-test of an axis ends with pass or failure. -/
  | selftestDone (fail : Option (Fin 18))
  /-- OT_SHUT (R339): An analog thermal comparator trips and the device heads for SAFE. -/
  | otShut
  /-- OT_SHUT_RELEASE (R339): Every sensor falls below 160 °C and OT_SHUT releases. -/
  | otShutRelease
  /-- SUPPLY_GATE (R345): VGL below 70 % for 2 µs puts every heavy axis into its safe state. -/
  | supplyGate
  /-- QD_EDGE (R351): A recognised quadrature state change counts up or down. -/
  | qdEdge (k : Fin 4) (a : Bool) (b : Bool) (i : Bool) (lag : Nat)
  /-- QD_INDEX (R357): An index event computes the deviation and may snap the counter. -/
  | qdIndex (k : Fin 4) (i : Bool) (lag : Nat)
  /-- QD_PRESET (R383): A write of POS_QDk_SET presets the counter at the next cut. -/
  | qdPreset (k : Fin 4) (v : Word)
  /-- SENT_FRAME (R360): A SENT frame is decoded, checked and used. -/
  | sentFrame (k : Fin 4) (back : Nat) (cal : Nat) (ivs : List Nat)
  /-- SENT_TIMEOUT (R364): No used SENT frame within TMO clears VALID. -/
  | sentTimeout (k : Fin 4)
  /-- LIMIT_EDGE (R368): A limit input's debounced level changes. -/
  | limitEdge (n : Fin 12) (positive : Bool) (level : Bool)
  /-- CAP_EDGE (R371): A filtered capture-input edge triggers the latches that name it. -/
  | capEdge (c : Fin 4) (rising : Bool) (lag : Nat)
  /-- LATCH_HOST_TRIG (R371): A write of POS_LT_TRIG triggers host-triggered latches. -/
  | latchHostTrig (m : BitVec 8) (lag : Nat)
  /-- LATCH_READ (R372): A read of POS_LTj_POS latches TIME and STAT and clears FULL and the overrun count. -/
  | latchRead (j : Fin 8)
  /-- COMPARE_VAL_WRITE (R375): A write of POS_CPm_VAL sets or clears BEHIND. -/
  | compareValWrite (m : Fin 4) (v : Word)
  /-- CMP_PULSE_END (R374): A CMP_OUT pulse of WIDTH × 100 ns ends. -/
  | cmpPulseEnd (m : Fin 4)
  /-- EMU_THETA_SAMPLE (R376): D4 receives an angle sample and updates the emulation target. -/
  | emuThetaSample (e : Fin 2)
  /-- EMU_STEP (R376): The emulated output count moves one count after MIN_GAP. -/
  | emuStep (e : Fin 2)
  /-- EMU_CLEAR (R383): POS_EEe_CFG.CLR zeroes the output count and accumulator at the next cut. -/
  | emuClear (e : Fin 2)
  /-- OUT_MISMATCH (R385): An output pin reads back a wrong level for 1 µs. -/
  | outMismatch (p : Fin 15) (level : Bool)
  /-- ADC_SLOT (R389): A scheduled conversion slot runs and its result is corrected, filtered, tagged and delivered. -/
  | adcSlot (i : Fin 256) (partner : Bool) (r : Option (BitVec 12))
  /-- REF_CHECK (R402): A core converts a reference in its free window and the result is judged. -/
  | refCheck (k : Fin 6) (r : Option (BitVec 12))
  /-- INJECT (R399): ADC_INJ.START requests one injected conversion. -/
  | inject (v : Word)
  /-- INJECT_RUN (R399): The injected conversion runs in the first free window and its result is stored. -/
  | injectRun (r : Option (BitVec 12))
  /-- CAL_REQUEST (R400): ADC_CAL.START requests the calibration of a core. -/
  | calRequest (m : BitVec 6)
  /-- CAL_DONE (R401): Calibration conversions end and the trims are computed and judged. -/
  | calDone (k : Fin 6) (mid : Nat) (hi : Nat)
  /-- STANDBY_CONVERSION (R405): A standby conversion of VBAT or a die temperature runs on AD4. -/
  | standbyConversion (j : Fin 5) (r : Option (BitVec 12))
  /-- CAN_RX_FRAME (R423): A valid CAN frame is stored into the destination of the first matching filter. -/
  | canRxFrame (f : CanFrame) (back : Nat)
  /-- CAN_ARBITRATION (R418): The node selects a pending buffer and starts an attempt. -/
  | canArbitration (lag : Nat)
  /-- CAN_TX_END (R419): A transmit attempt ends in success, lost arbitration or error. -/
  | canTxEnd (o : CanEnd)
  /-- CAN_ERROR (R426): A protocol error is signalled and TEC or REC change by ISO 11898-1. -/
  | canError (x : CanErr)
  /-- BO_REQ (R428): CAN_CTRL.BO_REQ starts recovery from bus-off. -/
  | boReq
  /-- BUS_OFF_RECOVERED (R428): 128 occurrences of 11 recessive bits end recovery. -/
  | busOffRecovered
  /-- CAN_INTEGRATED (R415): After enable the node sees 11 recessive bits and joins the bus. -/
  | canIntegrated
  /-- CAN_TXREQ (R417): A write of CAN_TXREQ requests transmission of a host buffer. -/
  | canTxreq (m : BitVec 3)
  /-- CAN_TXABORT (R420): A write of CAN_TXABORT aborts a request. -/
  | canTxabort (m : BitVec 3)
  /-- CAN_RXF_ACK (R424): A write of CAN_RXF_ACK releases the FIFO head. -/
  | canRxfAck
  /-- RX_BUFFER_READ (R424): A read of a receive buffer's ID word copies the buffer into its shadow. -/
  | rxBufferRead (n : Fin 17)
  /-- RX_MAP_TIMEOUT (R435): A receive entry sees no accepted datum for TMO frames. -/
  | rxMapTimeout (m : Fin 32)
  /-- SERVICE_REQUEST (R437): A request reaching the SERVICE entry is stored and checked. -/
  | serviceRequest (l : List Byte)
  /-- SVC_READ (R436): Service operation READ reads a register. -/
  | svcRead
  /-- SVC_WRITE (R436): Service operation WRITE writes a register. -/
  | svcWrite
  /-- LOG_READ (R575): Management operation LOG_READ returns one word of a log record. -/
  | logRead
  /-- UPD_WRITE (R575): Management operation UPD_WRITE stores an update word at an offset. -/
  | updWrite
  /-- UPD_CMD (R575): Management operation UPD_CMD writes MGT_UPD_CTRL. -/
  | updCmd
  /-- SERVICE_RESPONSE (R437): The response to a completed service access is sent from the SVC buffer. -/
  | serviceResponse
  /-- DOM_TIMEOUT (R409): The transmitter dominant time-out releases the bus. -/
  | domTimeout
  /-- CAN_RESUME (R413): On the crystal the node resumes OPMODE at the next bus idle. -/
  | canResume
  /-- WAKE_PIN (R439): A qualified edge on WAKE is a wake event. -/
  | wakePin (rising : Bool) (n : Nat)
  /-- BUS_WAKE (R439): A complete wake-up pattern on the bus is a wake event. -/
  | busWake (n : Nat)
  /-- WAKE_TIMER (R591): The sleep counter reaches the timer period and wakes the device. -/
  | wakeTimer
  /-- NOP (R450): Host command NOP carries only the status byte. -/
  | nop (cmd : Byte)
  /-- STATUS (R450): Host command STATUS returns SPI_STAT. -/
  | status (addr : BitVec 24) (n : Fin 16)
  /-- WRITE (R450): Host command WRITE writes N words at increasing addresses. -/
  | write (addr : BitVec 24) (n : Fin 16) (data : List Word) (ev : List Access)
  /-- READ (R450): Host command READ reads N words at increasing addresses. -/
  | read (addr : BitVec 24) (n : Fin 16) (take : Nat) (begun : Bool) (waits : List Nat) (ev : List Access)
  /-- WRITE_FIX (R450): Host command WRITE_FIX writes N words to one address. -/
  | writeFix (addr : BitVec 24) (n : Fin 16) (data : List Word) (ev : List Access)
  /-- READ_FIX (R450): Host command READ_FIX reads N words from one address. -/
  | readFix (addr : BitVec 24) (n : Fin 16) (take : Nat) (begun : Bool) (waits : List Nat) (ev : List Access)
  /-- HOST_FRAME_END (R458): SEL0_N rises and the frame length is judged. -/
  | hostFrameEnd (k : FrameClock)
  /-- LATE_ARRIVAL (R455): The value of a late word arrives and is placed in the late buffer. -/
  | lateArrival
  /-- DAISY_FRAME (R460): A daisy-chain frame of 64·k cycles is latched and carried out. -/
  | daisyFrame (cycles : Nat) (v : Nat) (late : Bool) (x : Access)
  /-- BUSY_N_RELEASE (R461): BUSY_N is released after SEL0_N rises and 200 ns. -/
  | busyNRelease
  /-- MW_APERTURE_READ (R462): A host read of the memory-window aperture. -/
  | mwApertureRead (o : Fin 512)
  /-- MW_APERTURE_WRITE (R462): A host write of the aperture collects in the write buffer. -/
  | mwApertureWrite (o : Fin 512) (v : Word)
  /-- MW_BASE_WRITE (R462): A write of SPI_MW_BASE moves the window and invalidates the line buffer. -/
  | mwBaseWrite (v : Word)
  /-- MW_LINE_READ (R462): After SEL0_N rises the external line is read into the late buffer. -/
  | mwLineRead (l : BitVec 256)
  /-- MW_WRITE_OUT (R464): Buffered aperture writes are sent as external write commands. -/
  | mwWriteOut
  /-- MW_POLL (R464): A status poll of the external memory is made every POLL_GAP. -/
  | mwPoll (st : Byte)
  /-- MW_TIMEOUT (R464): A poll still busy after TMO ends the transaction. -/
  | mwTimeout
  /-- MW_RAW_GO (R466): SPI_MW_RAW.GO sends one raw external command. -/
  | mwRawGo (v : Word)
  /-- MM_FAULT (R468): SEL0_N falls while the port masters the bus. -/
  | mmFault
  /-- CLAP (R477): The chain master raises CLAP 128 ticks before its cut. -/
  | clap
  /-- CLAP_EDGE (R478): A slave recognises a clap and places its next cut. -/
  | clapEdge
  /-- CLAP_MISS (R480): A LOCKED slave sees no clap by P − 92 and enters HOLDOVER. -/
  | clapMiss
  /-- CLAP_LOST (R480): HOLDOVER lasts CLAP_HOLD frames and the slave enters LOST. -/
  | clapLost
  /-- CHAIN_WINDOW (R484): The master opens the chain window after the cut. -/
  | chainWindow (changed : BitVec 4)
  /-- CHAIN_RECORD (R490): A 16-byte chain record is received and checked. -/
  | chainRecord (k : Fin 8) (l : List Byte)
  /-- POS_CONFLICT (R486): Lanes differ from the levels driven and the device stops transmitting. -/
  | posConflict
  /-- HOST_IN_WINDOW (R494): SEL0_N falls on a slave during the chain window. -/
  | hostInWindow
  /-- Q_TIMEOUT (R489): No valid record of a device for 1024 frames discards its reconstructed positions. -/
  | qTimeout (k : Fin 8)
  /-- REPAIR_COPY_DONE (R509): A faulty row's copy to its spare ends and the mapping waits for the next cut. -/
  | repairCopyDone (b : Fin 17)
  /-- TEST_WINDOW (R513): A background test window starts on a row. -/
  | testWindow (b : Fin 17)
  /-- TEST_WINDOW_END (R512): A test window completes its patterns and restore and is judged. -/
  | testWindowEnd (b : Fin 17) (mismatch : Bool)
  /-- TEST_WINDOW_TIMEOUT (R513): A window not ended 1 ms after its start is aborted. -/
  | testWindowTimeout (b : Fin 17)
  /-- BANK_WAKE (R517): A retained bank finishes waking after 2 µs and the access proceeds. -/
  | bankWake (b : Fin 17)
  /-- BANK_RETAIN (R517): A woken bank returns to retention after 100 µs without access. -/
  | bankRetain (b : Fin 17)
  /-- AT_SET (R519): A write of MEM_AT_SET ORs a mask into a word atomically. -/
  | atSet (mask : Word) (x : Access)
  /-- AT_CLR (R519): A write of MEM_AT_CLR clears mask bits of a word atomically. -/
  | atClr (mask : Word) (x : Access)
  /-- OWN_WRITE (R502): A write of MEM_Bb_OWN requests a handover at the next cut. -/
  | ownWrite (b : Fin 17) (v : Word)
  /-- MB_PORT_A_WRITE (R519, R521): Port A writes a mailbox word, or sets or clears bits of it atomically. -/
  | mbPortAWrite (addr : Nat) (op : PortAOp)
  /-- AX_SAFE (R545): A write of INT_AX_SAFE puts an axis into its safe state. -/
  | axSafe (m : BitVec 12)
  /-- AX_RELEASE (R546): A write of INT_AX_RELEASE releases an axis from its safe state at the next cut. -/
  | axRelease (m : BitVec 12)
  /-- PIN_HOLD_END (R551): FAULT_N or IRQ_N is released after its minimum 1 µs assertion. -/
  | pinHoldEnd (irq : Bool)
  /-- UPD_ERASE (R559): Update command ERASE erases a slot. -/
  | updErase (k : Fin 4)
  /-- ERASE_DONE (R559): The slot erase ends and the state becomes ERASED. -/
  | eraseDone (fail : Option Nat)
  /-- UPD_OPEN (R559): Update command OPEN opens a transfer into an erased slot. -/
  | updOpen (k : Fin 4)
  /-- UPD_DATA (R560): A write of MGT_UPD_DATA stores a word in a page buffer. -/
  | updData (v : Word)
  /-- PAGE_PROGRAMMED (R560): A page buffer is programmed and read back. -/
  | pageProgrammed (fail : Bool)
  /-- UPD_FLUSH (R559): Update command FLUSH programs remaining buffers and ends the transfer. -/
  | updFlush (k : Fin 4)
  /-- UPD_VERIFY (R561): Update command VERIFY checks a slot and sets its state. -/
  | updVerify (k : Fin 4)
  /-- UPD_FW_SPLICE (R563): Update command FW_SPLICE switches the firmware at the next cut. -/
  | updFwSplice (k : Fin 4)
  /-- UPD_FW_CONFIRM (R564): Update command FW_CONFIRM ends a firmware trial. -/
  | updFwConfirm (k : Fin 4)
  /-- UPD_ABORT (R559): Update command ABORT ends an open transfer. -/
  | updAbort (k : Fin 4)
  /-- MC_RESTART (R563): MC restarts from its new or other firmware slot. -/
  | mcRestart
  /-- FW_TRIAL_EXPIRE (R564): FW_TRIAL seconds pass without MC restart and the slot becomes GOOD. -/
  | fwTrialExpire
  /-- MC_WATCHDOG (R567): MC unserved for 1 ms is restarted by the watchdog. -/
  | mcWatchdog
  /-- SCRUB (R566): Every 10 min MC checks every inactive GOOD slot. -/
  | scrub
  /-- LOG_RECORD_WRITE (R572): A queued log record is programmed and read back. -/
  | logRecordWrite (fail : Bool)
  /-- FLASH_WINDOW_READ (R555): A host read of the flash window, refused during program or erase. -/
  | flashWindowRead (o : BitVec 19) (ecc : Ecc)
  /-- MODE_REQ_STANDBY (R586): Request STANDBY through SYS_MODE_REQ. -/
  | modeReqStandby (key : Byte)
  /-- MODE_REQ_RUN (R586): Request RUN through SYS_MODE_REQ. -/
  | modeReqRun (key : Byte)
  /-- MODE_REQ_SAFE (R586): Request SAFE through SYS_MODE_REQ. -/
  | modeReqSafe (key : Byte)
  /-- MODE_REQ_SERVICE (R586): Request SERVICE through SYS_MODE_REQ. -/
  | modeReqService (key : Byte)
  /-- MODE_REQ_SLEEP (R586): Request SLEEP through SYS_MODE_REQ. -/
  | modeReqSleep (key : Byte)
  /-- MODE_REQ_RESET (R586): Request an immediate software reset with KEY 0xA5. -/
  | modeReqReset (key : Byte)
  /-- SLEEP_ENTRY_DONE (R589): D0 has acknowledged every kept item and all other islands are unclocked. -/
  | sleepEntryDone
  /-- POWER_ON (R587): VBAT rises above 2.0 V and D0 starts in reset. -/
  | powerOn
  /-- VBAT_OFF (R581): VBAT falls below 2.0 V and everything D0 keeps is lost. -/
  | vbatOff
  /-- BROWNOUT (R598): VBOR asserts and the device resets. -/
  | brownout
  /-- REGULATOR (R598): VDD5 or VDD11 leaves its range and the device resets. -/
  | regulator
  /-- PIN_RESET (R597): RESET_N held low for 2 µs resets the device. -/
  | pinReset
  /-- LOW_VOLTAGE (R600): VLV asserts and LOW_VOLTAGE is raised. -/
  | lowVoltage
  /-- OVERVOLTAGE (R583): VOV asserts and all outputs are held off. -/
  | overvoltage
  /-- OVERVOLTAGE_RELEASE (R583): VOV releases and axes resume at their first commit. -/
  | overvoltageRelease
  /-- VIO_LOW (R584): VIO_UV asserts and the VIO pins become high-impedance. -/
  | vioLow
  /-- VIO_RELEASE (R584): VIO_UV releases and the VIO pins resume. -/
  | vioRelease
  /-- REGISTER_WRITE (R19): A write to a register with no row of its own, checked and applied by its access code. -/
  | registerWrite (addr : BitVec 24) (v : Word)
  /-- LOW_VOLTAGE_RELEASE (R582): VLV releases 0.2 V above its threshold, SYS_STAT.LV clears and the LOW_VOLTAGE
  episode ends. -/
  | lowVoltageRelease
  /-- RC_RETURN (R61): The RC oscillator comes back within range, ending the RC_BACKUP cause of DEGRADED or supplying
  the missing reference before the 10 ms reset. -/
  | rcReturn
  /-- SUPPLY_GATE_RELEASE (R544): VGL returns within range, VGL_OK becomes 1 and INT_SAFE_CAUSE bit 6 ends. -/
  | supplyGateRelease
  /-- CHARGE_PUMP_READY (R344): After the device leaves STANDBY with CP_STBY = 0, the charge pump reaches its range
  within 400 µs and the bootstrap trickle resumes. -/
  | chargePumpReady
  /-- HV (R317): VBAT rises above 40 V, PWR_STAT.HV sets and the bootstrap trickle turns off. -/
  | hv
  /-- HV_RELEASE (R320): VBAT falls back below 40 V, PWR_STAT.HV clears and the bootstrap trickle turns on again. -/
  | hvRelease
  /-- PROTOCOL_EXC (R408): With PEX enabled, a received frame shows a protocol exception, so the node raises 0x0C0A
  and returns to bus integration. -/
  | protocolExc
  /-- LOG_SECTOR_ERASE (R573): The erase of the next continuity-log sector ends, and a failed erase retires the sector
  with LOG_SECTOR. -/
  | logSectorErase (fail : Bool)
  /-- SOURCE_INACTIVE (R331): The filtered source of a trip bit becomes inactive, which starts the inactive time that
  a later trip clear requires and updates PWR_AXn_LIVE. -/
  | sourceInactive (n : Fin 12) (src : Fin 18)
  deriving DecidableEq, Repr

end Sys2Proof
end

