-- ==== Sys2Proof/Config.lean ====
section
/-!
DEFINITION. What the manual leaves open, as constants without a body: nothing can be proved of them, so a claim about the
block holds whatever they are.
-/
namespace Sys2Proof

/-- The open values: the `n`-th value drawn where the manual states no value (log entry 3). `State.drawn` counts them. -/
opaque Config.openBits : Nat → DWord

/-- Whether Solalsan's signature over a firmware image verifies against the key in the boot ROM (R556): the bytes signed
and the 64 bytes of AUTH (log entry 4). -/
opaque Config.authOk : List Byte → List Byte → Bool

/-- The number of frames that the closed form of R185 takes for a fall in speed of so many units with a deceleration of 0,
a parameter that has not been delivered: the manual divides by it and states no result (log entry 5). -/
opaque Config.brakeFrames : Nat → Nat

/-- How many ticks behind the generator the stamp of a log record stands, within the bounds of the raising island (R36,
R38, log entry 98): the time, the record's kind, its code and its AUX byte. -/
opaque Config.recordLag : Nat → Nat → Nat → Nat → BitVec 2

/-- The reel constants DEVMAX and DEVDEB of the follow check of an axis in a take (R367, log entry 101): they stand in its
shot list, at no place that the manual names. -/
opaque Config.devMax : Nat → Nat → Nat
opaque Config.devDeb : Nat → Nat → Nat

/-- The reel constant SOFS of an axis in a take (R285, log entry 113): the mean start of its voltage slots, in slate ticks
after the cut. It stands in the shot list, at no place that the manual names. -/
opaque Config.sofs : Nat → Nat → Nat

/-- The factory trim of a converter channel, or of sensor `T(k)` at 56 + k, as ADC_CHn_CORR holds it at the end of BOOT
(R395): each device has its own (log entry 6). -/
opaque Config.factoryTrim : Nat → Word

end Sys2Proof
end

