-- ==== Sys2Proof/Machine/Arith.lean ====
section
/-!
DEFINITION. Arithmetic the chapters share: signed values and saturation (R11), rounding shifts, the integer square root,
the CRCs (R71, R171, R174, R490), byte order, and 16-bit generations (R41).
-/
namespace Sys2Proof.Machine

/-- A word as a signed number (R11). -/
def sgn (w : Word) : Int := w.toInt

/-- A number as a 32-bit word, wrapping (R11). -/
def wrd (z : Int) : Word := BitVec.ofInt 32 z

/-- A natural number as a 32-bit word, wrapping. -/
def u32 (n : Nat) : Word := BitVec.ofNat 32 n

/-- `z` held within `lo` and `hi`. -/
def clampZ (lo hi z : Int) : Int := if z < lo then lo else if hi < z then hi else z

/-- The largest and the least signed number of `n` bits. -/
def maxS (n : Nat) : Int := 2 ^ (n - 1) - 1
def minS (n : Nat) : Int := -(2 ^ (n - 1))

/-- `z` saturated to a signed field of `n` bits. -/
def satS (n : Nat) (z : Int) : Int := clampZ (minS n) (maxS n) z

/-- Whether `z` lies outside a signed field of `n` bits. -/
def outS (n : Nat) (z : Int) : Bool := decide (z < minS n) || decide (maxS n < z)

/-- `z` saturated to an unsigned field of `n` bits. -/
def satU (n : Nat) (z : Int) : Int := clampZ 0 (2 ^ n - 1) z

/-- Whether `z` lies outside an unsigned field of `n` bits. -/
def outU (n : Nat) (z : Int) : Bool := decide (z < 0) || decide ((2 : Int) ^ n - 1 < z)

/-- An arithmetic right shift: the quotient by `2 ^ n`, rounded down. -/
def shr (z : Int) (n : Nat) : Int := z / 2 ^ n

/-- Truncation toward zero of `a / b` (0 for `b = 0`). -/
def quotZ (a b : Int) : Int := Int.tdiv a b

/-- The low `n` bits of a number, read as signed. -/
def lowS (n : Nat) (z : Int) : Int := Int.bmod z (2 ^ n)

/-- One step of the bitwise integer square root: bit `k` of the root is set when the square still fits. -/
def isqrtFrom (n : Nat) : Nat → Nat → Nat
  | 0, r => r
  | k + 1, r => if (r + 2 ^ k) * (r + 2 ^ k) ≤ n then isqrtFrom n k (r + 2 ^ k) else isqrtFrom n k r

/-- The integer square root of a number below 2^96. -/
def isqrt (n : Nat) : Nat := isqrtFrom n 48 0

/-- Generation `a` is newer than generation `b` (R41). -/
def newer (a b : Half) : Bool := decide (1 ≤ (a - b).toNat) && decide ((a - b).toNat ≤ 0x7FFF)

/-- The bytes of a word, least significant first (R11). -/
def wordBytes (w : Word) : List Byte :=
  [w.extractLsb' 0 8, w.extractLsb' 8 8, w.extractLsb' 16 8, w.extractLsb' 24 8]

/-- The little-endian word of the first four bytes of a list; missing bytes read 0. -/
def bytesWord (l : List Byte) : Word :=
  ((l.getD 3 0) ++ (l.getD 2 0) ++ (l.getD 1 0) ++ (l.getD 0 0) : BitVec 32)

/-- The bytes of a shot word, least significant first. -/
def dwordBytes (w : DWord) : List Byte :=
  wordBytes (w.extractLsb' 0 32) ++ wordBytes (w.extractLsb' 32 32)

/-- One bit step of the reflected CRC-32C register. -/
def crc32Bit : Nat → Nat → Nat
  | 0, c => c
  | k + 1, c => crc32Bit k (if c % 2 = 1 then (c / 2) ^^^ 0x82F63B78 else c / 2)

/-- The CRC-32C register after one byte (R71). -/
def crc32Byte (c : Nat) (b : Byte) : Nat := crc32Bit 8 (c ^^^ b.toNat)

/-- The CRC-32C register after a list of bytes. -/
def crc32Reg (c : Nat) (l : List Byte) : Nat := l.foldl crc32Byte c

/-- CRC-32C of a list of bytes (R71). -/
def crc32c (l : List Byte) : Word := u32 (crc32Reg 0xFFFFFFFF l ^^^ 0xFFFFFFFF)

/-- CRC-32C of a list of words in ascending address order. -/
def crc32cWords (l : List Word) : Word := crc32c (l.flatMap wordBytes)

/-- One bit step of a CRC register of width `n` that shifts toward its top bit. -/
def crcMsbBit (n poly : Nat) : Nat → Nat → Nat
  | 0, c => c
  | k + 1, c =>
    crcMsbBit n poly k
      (if c / 2 ^ (n - 1) % 2 = 1 then ((2 * c) % 2 ^ n) ^^^ poly else (2 * c) % 2 ^ n)

/-- A CRC register of width `n`, fed most significant bit first, after one byte. -/
def crcMsbByte (n poly c : Nat) (b : Byte) : Nat := crcMsbBit n poly 8 (c ^^^ (b.toNat * 2 ^ (n - 8)))

/-- A CRC register of width `n`, fed most significant bit first, after a list of bytes. -/
def crcMsb (n poly init : Nat) (l : List Byte) : Nat := l.foldl (crcMsbByte n poly) init

/-- The index of address `a` in a group of `count` registers at `base + stride * i`. -/
def groupIx (base stride count a : Nat) : Option Nat :=
  if base ≤ a && (a - base) % stride == 0 && decide ((a - base) / stride < count) then some ((a - base) / stride) else none

/-- Whether the register at `a` belongs to a group and its index meets `p`. -/
def inGroup (base stride count a : Nat) (p : Nat → Bool) : Bool :=
  match groupIx base stride count a with
  | some i => p i
  | none => false

end Sys2Proof.Machine
end

