-- ==== Sys2Proof/Machine/Store.lean ====
section
/-!
DEFINITION. Sparse stores: a list of key and value pairs in one canonical form, keys strictly rising and no entry equal
to what an unlisted key reads as. Memory, the register file and every other sparse table of the state are such lists.
-/
namespace Sys2Proof.Machine

/-- The value at `k`: the entry if there is one, else `d k`, what an unlisted key reads as. -/
def Store.get {β : Type} (d : Nat → β) : List (Nat × β) → Nat → β
  | [], k => d k
  | (a, x) :: t, k => if k = a then x else Store.get d t k

/-- The list without `k`. -/
def Store.del {β : Type} : List (Nat × β) → Nat → List (Nat × β)
  | [], _ => []
  | (a, x) :: t, k => if k = a then Store.del t k else (a, x) :: Store.del t k

/-- The list with an entry for `k` put before the first larger key. -/
def Store.ins {β : Type} : List (Nat × β) → Nat → β → List (Nat × β)
  | [], k, v => [(k, v)]
  | (a, x) :: t, k, v => if k < a then (k, v) :: (a, x) :: t else (a, x) :: Store.ins t k v

/-- The list with `k` holding `v`: sorted, and without an entry for a value that `k` reads as anyway. -/
def Store.put {β : Type} [DecidableEq β] (d : Nat → β) (m : List (Nat × β)) (k : Nat) (v : β) : List (Nat × β) :=
  if v = d k then Store.del m k else Store.ins (Store.del m k) k v

/-- The values of `n` keys in a row from `k` on, read off a list whose entries all lie at `k` or above. -/
def Store.run {β : Type} (d : Nat → β) : Nat → Nat → List (Nat × β) → List β
  | 0, _, _ => []
  | n + 1, k, [] => d k :: Store.run d n (k + 1) []
  | n + 1, k, (a, x) :: t =>
    if a = k then x :: Store.run d n (k + 1) t else d k :: Store.run d n (k + 1) ((a, x) :: t)

/-- The values of `n` keys in a row from `k` on. -/
def Store.slice {β : Type} (d : Nat → β) (m : List (Nat × β)) (k n : Nat) : List β :=
  Store.run d n k (m.dropWhile (fun p => decide (p.1 < k)))

/-- Every key of the list lies above `lo`, the keys rise strictly, and no entry holds the unlisted value. -/
def Store.above {β : Type} [DecidableEq β] (d : Nat → β) : Option Nat → List (Nat × β) → Bool
  | _, [] => true
  | lo, (a, x) :: t =>
    (match lo with | none => true | some l => decide (l < a)) && decide (x ≠ d a) && Store.above d (some a) t

/-- The canonical form. -/
def Store.wf {β : Type} [DecidableEq β] (d : Nat → β) (m : List (Nat × β)) : Bool := Store.above d none m

/-- An association list without order, read with `none` for an unlisted key. -/
def Assoc.get {κ β : Type} [DecidableEq κ] : List (κ × β) → κ → Option β
  | [], _ => none
  | (a, x) :: t, k => if k = a then some x else Assoc.get t k

/-- The association list with `k` holding `v`, replacing in place or appending. -/
def Assoc.put {κ β : Type} [DecidableEq κ] : List (κ × β) → κ → β → List (κ × β)
  | [], k, v => [(k, v)]
  | (a, x) :: t, k, v => if k = a then (k, v) :: t else (a, x) :: Assoc.put t k v

/-- The association list without `k`. -/
def Assoc.del {κ β : Type} [DecidableEq κ] (m : List (κ × β)) (k : κ) : List (κ × β) :=
  m.filter (fun p => decide (p.1 ≠ k))

/-- The list with each element kept at its first place only. -/
def onceEach {β : Type} [DecidableEq β] (l : List β) : List β := l.foldl (fun r x => if x ∈ r then r else r ++ [x]) []

/-- Element `i` of a fixed-length table, or `d` beyond its end. -/
def Tbl.get {β : Type} (d : β) : List β → Nat → β
  | [], _ => d
  | x :: _, 0 => x
  | _ :: t, i + 1 => Tbl.get d t i

/-- The table with element `i` replaced by `f` of it; a table without element `i` stays as it is. -/
def Tbl.mod {β : Type} : List β → Nat → (β → β) → List β
  | [], _, _ => []
  | x :: t, 0, f => f x :: t
  | x :: t, i + 1, f => x :: Tbl.mod t i f

end Sys2Proof.Machine
end

