-- ==== Sys2Proof/Machine/Regs.lean ====
section
/-!
DEFINITION. The register map of R15 and of the register tables of every block, as data: the address of each
register, the place of each field, what a register holds at reset, and how a write treats each bit (R20).
Names are the manual's, the index letter of a register group becoming an argument.
-/
namespace Sys2Proof.Machine

/-- A field of a register (R20): the register's host address (R15), the lowest bit and the width. -/
structure Fld where
  addr : Nat
  lo : Nat
  w : Nat
  deriving DecidableEq, Repr

/-- How a write treats the bits of one register group (R20): `rw` bits take the written value at once, `cut` bits at
the next cut, `cmt` bits at the next MOD_COMMIT, `w1c` bits clear where 1 is written, and `act` bits (W1S, WO) start an
action. The group stands at `base + stride * i` for `i < count`. -/
structure RegRow where
  base : Nat
  stride : Nat
  count : Nat
  reset : Nat
  rw : Nat
  cut : Nat
  cmt : Nat
  w1c : Nat
  act : Nat
  deriving DecidableEq, Repr

/-! SYS (R601) -/

def SYS_ID : Nat := 0x100000
def SYS_ID.PART : Fld := ⟨SYS_ID, 0, 16⟩
def SYS_ID.DIE_REV : Fld := ⟨SYS_ID, 16, 4⟩
def SYS_MODE : Nat := 0x100004
def SYS_MODE.MODE : Fld := ⟨SYS_MODE, 0, 3⟩
def SYS_MODE.PREV : Fld := ⟨SYS_MODE, 4, 3⟩
def SYS_MODE.PEND : Fld := ⟨SYS_MODE, 8, 3⟩
def SYS_MODE.REASON : Fld := ⟨SYS_MODE, 12, 4⟩
def SYS_MODE.CAUSE : Fld := ⟨SYS_MODE, 16, 8⟩
def SYS_MODE_REQ : Nat := 0x100008
def SYS_MODE_REQ.REQ : Fld := ⟨SYS_MODE_REQ, 0, 3⟩
def SYS_MODE_REQ.KEY : Fld := ⟨SYS_MODE_REQ, 8, 8⟩
def SYS_STAT : Nat := 0x10000C
def SYS_STAT.LV : Fld := ⟨SYS_STAT, 0, 1⟩
def SYS_STAT.OV : Fld := ⟨SYS_STAT, 1, 1⟩
def SYS_STAT.VIO_OK : Fld := ⟨SYS_STAT, 2, 1⟩
def SYS_STAT.TEST : Fld := ⟨SYS_STAT, 3, 1⟩
def SYS_STAT.RESTORED : Fld := ⟨SYS_STAT, 4, 1⟩
def SYS_RESET : Nat := 0x100010
def SYS_RESET.CAUSE : Fld := ⟨SYS_RESET, 0, 4⟩
def SYS_RESET.ALL : Fld := ⟨SYS_RESET, 8, 8⟩
def SYS_RESET.COUNT : Fld := ⟨SYS_RESET, 16, 16⟩
def SYS_WAKE : Nat := 0x100014
def SYS_WAKE.TIMER_EN : Fld := ⟨SYS_WAKE, 0, 1⟩
def SYS_WAKE.SRC : Fld := ⟨SYS_WAKE, 8, 3⟩
def SYS_WAKE.SEEN : Fld := ⟨SYS_WAKE, 12, 3⟩
def SYS_WAKE_TIMER : Nat := 0x100018
def SYS_WAKE_TIMER.PERIOD : Fld := ⟨SYS_WAKE_TIMER, 0, 24⟩
def SYS_KEEP : Nat := 0x10001C
def SYS_KEEP.KEPT : Fld := ⟨SYS_KEEP, 0, 12⟩
def SYS_KEEP.REST : Fld := ⟨SYS_KEEP, 16, 12⟩
def SYS_FAULT : Nat := 0x100020
def SYS_FAULT.FLAGS : Fld := ⟨SYS_FAULT, 0, 7⟩
def SYS_FAULT_CODE : Nat := 0x100024
def SYS_FAULT_CODE.LAST : Fld := ⟨SYS_FAULT_CODE, 0, 16⟩
def SYS_FAULT_CODE.COUNT : Fld := ⟨SYS_FAULT_CODE, 16, 16⟩

/-! CLK (R65) -/

def CLK_CTRL : Nat := 0x101000
def CLK_CTRL.XTAL_EN : Fld := ⟨CLK_CTRL, 0, 1⟩
def CLK_CTRL.XTAL_RETRY : Fld := ⟨CLK_CTRL, 1, 1⟩
def CLK_CTRL.LPO_CAL : Fld := ⟨CLK_CTRL, 2, 1⟩
def CLK_STAT : Nat := 0x101004
def CLK_STAT.REF_XTAL : Fld := ⟨CLK_STAT, 0, 1⟩
def CLK_STAT.XTAL_GOOD : Fld := ⟨CLK_STAT, 1, 1⟩
def CLK_STAT.HOLDOVER : Fld := ⟨CLK_STAT, 2, 1⟩
def CLK_STAT.QUALIFYING : Fld := ⟨CLK_STAT, 3, 1⟩
def CLK_STAT.LPO_BUSY : Fld := ⟨CLK_STAT, 4, 1⟩
def CLK_STAT.SLATE_EST : Fld := ⟨CLK_STAT, 5, 1⟩
def CLK_STAT.SLEEP_SAT : Fld := ⟨CLK_STAT, 6, 1⟩
def CLK_STAT.ISL_OK : Fld := ⟨CLK_STAT, 8, 12⟩
def CLK_FAULT : Nat := 0x101008
def CLK_FAULT.FLAGS : Fld := ⟨CLK_FAULT, 0, 9⟩
def CLK_FAULT_CODE : Nat := 0x10100C
def CLK_FAULT_CODE.LAST : Fld := ⟨CLK_FAULT_CODE, 0, 16⟩
def CLK_FAULT_CODE.COUNT : Fld := ⟨CLK_FAULT_CODE, 16, 16⟩
def CLK_SLATE_LO : Nat := 0x101010
def CLK_SLATE_LO.SLATE : Fld := ⟨CLK_SLATE_LO, 0, 32⟩
def CLK_SLATE_HI : Nat := 0x101014
def CLK_SLATE_HI.SLATE : Fld := ⟨CLK_SLATE_HI, 0, 16⟩
def CLK_SLATE_HI.EPOCH : Fld := ⟨CLK_SLATE_HI, 16, 16⟩
def CLK_FRAME_LEN : Nat := 0x101018
def CLK_FRAME_LEN.LEN : Fld := ⟨CLK_FRAME_LEN, 0, 14⟩
def CLK_FRAME_LEN.NEXT_LEN : Fld := ⟨CLK_FRAME_LEN, 16, 14⟩
def CLK_FRAME_CNT : Nat := 0x10101C
def CLK_FRAME_CNT.COUNT : Fld := ⟨CLK_FRAME_CNT, 0, 32⟩
def CLK_LAST_CUT_LO : Nat := 0x101020
def CLK_LAST_CUT_LO.CUT : Fld := ⟨CLK_LAST_CUT_LO, 0, 32⟩
def CLK_LAST_CUT_HI : Nat := 0x101024
def CLK_LAST_CUT_HI.CUT : Fld := ⟨CLK_LAST_CUT_HI, 0, 16⟩
def CLK_LAST_CUT_HI.EPOCH : Fld := ⟨CLK_LAST_CUT_HI, 16, 16⟩
def CLK_CUT_STAT : Nat := 0x101028
def CLK_CUT_STAT.LATE_ISL : Fld := ⟨CLK_CUT_STAT, 0, 12⟩
def CLK_CUT_STAT.APPLY_WAIT : Fld := ⟨CLK_CUT_STAT, 16, 1⟩
def CLK_CUT_ERR : Nat := 0x10102C
def CLK_CUT_ERR.DISCARD_CNT : Fld := ⟨CLK_CUT_ERR, 0, 16⟩
def CLK_CUT_ERR.QOVF_CNT : Fld := ⟨CLK_CUT_ERR, 16, 16⟩
def CLK_LPO_PER : Nat := 0x101030
def CLK_LPO_PER.PER : Fld := ⟨CLK_LPO_PER, 0, 32⟩
def CLK_SLEEP_LO : Nat := 0x101034
def CLK_SLEEP_LO.COUNT : Fld := ⟨CLK_SLEEP_LO, 0, 32⟩
def CLK_SLEEP_HI : Nat := 0x101038
def CLK_SLEEP_HI.COUNT : Fld := ⟨CLK_SLEEP_HI, 0, 8⟩

/-! REEL (R108) -/

def REEL_CTRL : Nat := 0x102000
def REEL_CTRL.CONFIRM : Fld := ⟨REEL_CTRL, 0, 1⟩
def REEL_CTRL.CANCEL : Fld := ⟨REEL_CTRL, 1, 1⟩
def REEL_CTRL.RECHECK : Fld := ⟨REEL_CTRL, 2, 1⟩
def REEL_STAT : Nat := 0x102004
def REEL_STAT.ACTIVE_SLOT : Fld := ⟨REEL_STAT, 0, 1⟩
def REEL_STAT.IMAGE : Fld := ⟨REEL_STAT, 1, 1⟩
def REEL_STAT.TRIAL : Fld := ⟨REEL_STAT, 2, 1⟩
def REEL_STAT.SPLICE_STATE : Fld := ⟨REEL_STAT, 4, 3⟩
def REEL_STAT.REASON : Fld := ⟨REEL_STAT, 8, 8⟩
def REEL_STAT.ACTIVE_TAKE : Fld := ⟨REEL_STAT, 16, 16⟩
def REEL_SLOT_A : Nat := 0x102008
def REEL_SLOT_A.STATE : Fld := ⟨REEL_SLOT_A, 0, 3⟩
def REEL_SLOT_A.TAKE : Fld := ⟨REEL_SLOT_A, 16, 16⟩
def REEL_SLOT_B : Nat := 0x10200C
def REEL_SLOT_B.STATE : Fld := ⟨REEL_SLOT_B, 0, 3⟩
def REEL_SLOT_B.TAKE : Fld := ⟨REEL_SLOT_B, 16, 16⟩
def REEL_SPLICE : Nat := 0x102010
def REEL_SPLICE.SLOT : Fld := ⟨REEL_SPLICE, 0, 1⟩
def REEL_SPLICE.BACK : Fld := ⟨REEL_SPLICE, 1, 1⟩
def REEL_SPLICE.AT_EN : Fld := ⟨REEL_SPLICE, 2, 1⟩
def REEL_SPLICE.TAKE : Fld := ⟨REEL_SPLICE, 16, 16⟩
def REEL_SPLICE_AT : Nat := 0x102014
def REEL_SPLICE_AT.FRAME : Fld := ⟨REEL_SPLICE_AT, 0, 32⟩
def REEL_LAST_SPLICE_LO : Nat := 0x102018
def REEL_LAST_SPLICE_LO.SLATE : Fld := ⟨REEL_LAST_SPLICE_LO, 0, 32⟩
def REEL_LAST_SPLICE_HI : Nat := 0x10201C
def REEL_LAST_SPLICE_HI.SLATE : Fld := ⟨REEL_LAST_SPLICE_HI, 0, 16⟩
def REEL_LAST_SPLICE_HI.EPOCH : Fld := ⟨REEL_LAST_SPLICE_HI, 16, 16⟩
def REEL_SPLICE_CNT : Nat := 0x102020
def REEL_SPLICE_CNT.DONE : Fld := ⟨REEL_SPLICE_CNT, 0, 16⟩
def REEL_SPLICE_CNT.REFUSED : Fld := ⟨REEL_SPLICE_CNT, 16, 16⟩
def REEL_STRUCT_SIG : Nat := 0x102024
def REEL_STRUCT_SIG.SIG : Fld := ⟨REEL_STRUCT_SIG, 0, 32⟩
def REEL_STATE_SIG : Nat := 0x102028
def REEL_STATE_SIG.SIG : Fld := ⟨REEL_STATE_SIG, 0, 32⟩
def REEL_LEN : Nat := 0x10202C
def REEL_LEN.MIN_LEN : Fld := ⟨REEL_LEN, 0, 14⟩
def REEL_LEN.FRAME_LEN : Fld := ⟨REEL_LEN, 16, 14⟩
def REEL_CHECK : Nat := 0x102030
def REEL_CHECK.PASSES : Fld := ⟨REEL_CHECK, 0, 16⟩
def REEL_CHECK.MISMATCH : Fld := ⟨REEL_CHECK, 16, 16⟩
def REEL_FAULT : Nat := 0x102034
def REEL_FAULT.FLAGS : Fld := ⟨REEL_FAULT, 0, 16⟩
def REEL_FAULT_CODE : Nat := 0x102038
def REEL_FAULT_CODE.LAST : Fld := ⟨REEL_FAULT_CODE, 0, 16⟩
def REEL_FAULT_CODE.COUNT : Fld := ⟨REEL_FAULT_CODE, 16, 16⟩

/-! ENG (R137) -/

def ENG_STAT : Nat := 0x103000
def ENG_STAT.USED : Fld := ⟨ENG_STAT, 0, 8⟩
def ENG_STAT.FAULTED : Fld := ⟨ENG_STAT, 8, 8⟩
def ENG_STAT.ES_COVER : Fld := ⟨ENG_STAT, 16, 3⟩
def ENG_STAT.ES_BUSY : Fld := ⟨ENG_STAT, 19, 1⟩
def ENG_STAT.ES_OK : Fld := ⟨ENG_STAT, 20, 1⟩
def ENG_CTRL : Nat := 0x103004
def ENG_CTRL.FORCE : Fld := ⟨ENG_CTRL, 0, 8⟩
def ENG_CTRL.FORCE_ES : Fld := ⟨ENG_CTRL, 8, 1⟩
def ENG_CTRL.RESTORE : Fld := ⟨ENG_CTRL, 16, 8⟩
def ENG_FAULT : Nat := 0x103008
def ENG_FAULT.FLAGS : Fld := ⟨ENG_FAULT, 0, 11⟩
def ENG_FAULT_CODE : Nat := 0x10300C
def ENG_FAULT_CODE.LAST : Fld := ⟨ENG_FAULT_CODE, 0, 16⟩
def ENG_FAULT_CODE.COUNT : Fld := ⟨ENG_FAULT_CODE, 16, 16⟩
def ENG_AXMAP_LO : Nat := 0x103010
def ENG_AXMAP_LO.MAP : Fld := ⟨ENG_AXMAP_LO, 0, 32⟩
def ENG_AXMAP_HI : Nat := 0x103014
def ENG_AXMAP_HI.MAP : Fld := ⟨ENG_AXMAP_HI, 0, 16⟩
def ENG_AXPOS : Nat := 0x103018
def ENG_AXPOS.POS : Fld := ⟨ENG_AXPOS, 0, 24⟩
def ENG_BUDGET : Nat := 0x10301C
def ENG_BUDGET.BUDGET : Fld := ⟨ENG_BUDGET, 0, 16⟩
def ENG_BUDGET.MIN_BUDGET : Fld := ⟨ENG_BUDGET, 16, 16⟩
def ENG_E_STAT (n : Nat) : Nat := 0x103100 + 0x20 * n
def ENG_E_STAT.STATE (n : Nat) : Fld := ⟨(ENG_E_STAT n), 0, 3⟩
def ENG_E_STAT.PAGE (n : Nat) : Fld := ⟨(ENG_E_STAT n), 3, 1⟩
def ENG_E_STAT.AXES (n : Nat) : Fld := ⟨(ENG_E_STAT n), 4, 2⟩
def ENG_E_STAT.CAUSE (n : Nat) : Fld := ⟨(ENG_E_STAT n), 8, 8⟩
def ENG_E_STAT.COVER (n : Nat) : Fld := ⟨(ENG_E_STAT n), 16, 3⟩
def ENG_E_STAT.COVER_VALID (n : Nat) : Fld := ⟨(ENG_E_STAT n), 19, 1⟩
def ENG_E_LIST (n : Nat) : Nat := 0x103104 + 0x20 * n
def ENG_E_LIST.SHOTS (n : Nat) : Fld := ⟨(ENG_E_LIST n), 0, 9⟩
def ENG_E_LIST.CYCLES (n : Nat) : Fld := ⟨(ENG_E_LIST n), 16, 16⟩
def ENG_E_WATCH (n : Nat) : Nat := 0x103108 + 0x20 * n
def ENG_E_WATCH.SHOTS_DONE (n : Nat) : Fld := ⟨(ENG_E_WATCH n), 0, 9⟩
def ENG_E_WATCH.CYC_DONE (n : Nat) : Fld := ⟨(ENG_E_WATCH n), 16, 16⟩
def ENG_E_FETCH_CHK (n : Nat) : Nat := 0x10310C + 0x20 * n
def ENG_E_FETCH_CHK.CHK (n : Nat) : Fld := ⟨(ENG_E_FETCH_CHK n), 0, 32⟩
def ENG_E_CNT (n : Nat) : Nat := 0x103110 + 0x20 * n
def ENG_E_CNT.CORR (n : Nat) : Fld := ⟨(ENG_E_CNT n), 0, 16⟩
def ENG_E_CNT.SAT (n : Nat) : Fld := ⟨(ENG_E_CNT n), 16, 16⟩
def ENG_E_MISS (n : Nat) : Nat := 0x103114 + 0x20 * n
def ENG_E_MISS.MISS (n : Nat) : Fld := ⟨(ENG_E_MISS n), 0, 16⟩
def ENG_E_MISS.FAULTS (n : Nat) : Fld := ⟨(ENG_E_MISS n), 16, 16⟩

/-! AX (R212) -/

def AX_CTRL (n : Nat) : Nat := 0x104000 + 0x100 * n
def AX_CTRL.MODE (n : Nat) : Fld := ⟨(AX_CTRL n), 0, 2⟩
def AX_CTRL.STOP (n : Nat) : Fld := ⟨(AX_CTRL n), 2, 1⟩
def AX_CTRL.HALT (n : Nat) : Fld := ⟨(AX_CTRL n), 3, 1⟩
def AX_CTRL.SRC (n : Nat) : Fld := ⟨(AX_CTRL n), 4, 1⟩
def AX_CTRL.SOFT_EN (n : Nat) : Fld := ⟨(AX_CTRL n), 5, 1⟩
def AX_STAT (n : Nat) : Nat := 0x104004 + 0x100 * n
def AX_STAT.ARM (n : Nat) : Fld := ⟨(AX_STAT n), 0, 4⟩
def AX_STAT.AT_REST (n : Nat) : Fld := ⟨(AX_STAT n), 4, 1⟩
def AX_STAT.AT_TARGET (n : Nat) : Fld := ⟨(AX_STAT n), 5, 1⟩
def AX_STAT.STANDSTILL (n : Nat) : Fld := ⟨(AX_STAT n), 6, 1⟩
def AX_STAT.UNCERTAIN (n : Nat) : Fld := ⟨(AX_STAT n), 7, 1⟩
def AX_STAT.REV_SEEN (n : Nat) : Fld := ⟨(AX_STAT n), 8, 1⟩
def AX_STAT.TGT_BLOCKED (n : Nat) : Fld := ⟨(AX_STAT n), 9, 1⟩
def AX_STAT.TGT_CLAMP (n : Nat) : Fld := ⟨(AX_STAT n), 10, 1⟩
def AX_STAT.SOFT_STOP (n : Nat) : Fld := ⟨(AX_STAT n), 11, 1⟩
def AX_STAT.OVERSPEED (n : Nat) : Fld := ⟨(AX_STAT n), 12, 1⟩
def AX_STAT.PARAM_ORDER (n : Nat) : Fld := ⟨(AX_STAT n), 13, 1⟩
def AX_STAT.FROZEN (n : Nat) : Fld := ⟨(AX_STAT n), 14, 1⟩
def AX_TARGET (n : Nat) : Nat := 0x104008 + 0x100 * n
def AX_VTARGET (n : Nat) : Nat := 0x10400C + 0x100 * n
def AX_POS (n : Nat) : Nat := 0x104010 + 0x100 * n
def AX_VEL (n : Nat) : Nat := 0x104014 + 0x100 * n
def AX_DIST (n : Nat) : Nat := 0x104018 + 0x100 * n
def AX_PLAN (n : Nat) : Nat := 0x10401C + 0x100 * n
def AX_VSTART (n : Nat) : Nat := 0x104020 + 0x100 * n
def AX_A1 (n : Nat) : Nat := 0x104024 + 0x100 * n
def AX_VSWITCH (n : Nat) : Nat := 0x104028 + 0x100 * n
def AX_A2 (n : Nat) : Nat := 0x10402C + 0x100 * n
def AX_VMAX (n : Nat) : Nat := 0x104030 + 0x100 * n
def AX_D2 (n : Nat) : Nat := 0x104034 + 0x100 * n
def AX_D1 (n : Nat) : Nat := 0x104038 + 0x100 * n
def AX_VSTOP (n : Nat) : Nat := 0x10403C + 0x100 * n
def AX_IRUN (n : Nat) : Nat := 0x104040 + 0x100 * n
def AX_IRUN.IRUN (n : Nat) : Fld := ⟨(AX_IRUN n), 0, 12⟩
def AX_IHOLD (n : Nat) : Nat := 0x104044 + 0x100 * n
def AX_IHOLD.IHOLD (n : Nat) : Fld := ⟨(AX_IHOLD n), 0, 12⟩
def AX_SS_CFG (n : Nat) : Nat := 0x104048 + 0x100 * n
def AX_SS_CFG.DELAY (n : Nat) : Fld := ⟨(AX_SS_CFG n), 0, 16⟩
def AX_SS_CFG.MODE (n : Nat) : Fld := ⟨(AX_SS_CFG n), 16, 2⟩
def AX_SOFT_MIN (n : Nat) : Nat := 0x10404C + 0x100 * n
def AX_SOFT_MAX (n : Nat) : Nat := 0x104050 + 0x100 * n
def AX_STOP_CFG (n : Nat) : Nat := 0x104054 + 0x100 * n
def AX_STOP_CFG.LIMIT_HALT (n : Nat) : Fld := ⟨(AX_STOP_CFG n), 0, 1⟩
def AX_PARAM_STAT (n : Nat) : Nat := 0x104058 + 0x100 * n
def AX_PARAM_STAT.PEND (n : Nat) : Fld := ⟨(AX_PARAM_STAT n), 0, 31⟩
def AX_PARAM_STAT.SETPOS_PEND (n : Nat) : Fld := ⟨(AX_PARAM_STAT n), 31, 1⟩
def AX_SETPOS (n : Nat) : Nat := 0x10405C + 0x100 * n
def AX_FAULT (n : Nat) : Nat := 0x104060 + 0x100 * n
def AX_FAULT.FLAGS (n : Nat) : Fld := ⟨(AX_FAULT n), 0, 4⟩
def AX_FAULT_CODE (n : Nat) : Nat := 0x104064 + 0x100 * n
def AX_FAULT_CODE.LAST (n : Nat) : Fld := ⟨(AX_FAULT_CODE n), 0, 16⟩
def AX_FAULT_CODE.COUNT (n : Nat) : Fld := ⟨(AX_FAULT_CODE n), 16, 16⟩

/-! CAM (R248) -/

def CAM_TBL : Nat := 0x105000
def CAM_TBL.LOADED : Fld := ⟨CAM_TBL, 0, 16⟩
def CAM_FAULT : Nat := 0x105004
def CAM_FAULT.FLAGS : Fld := ⟨CAM_FAULT, 0, 5⟩
def CAM_FAULT_CODE : Nat := 0x105008
def CAM_FAULT_CODE.LAST : Fld := ⟨CAM_FAULT_CODE, 0, 16⟩
def CAM_FAULT_CODE.COUNT : Fld := ⟨CAM_FAULT_CODE, 16, 16⟩
def CAM_AX_CTRL (n : Nat) : Nat := 0x105100 + 0x40 * n
def CAM_AX_CTRL.ENGAGE (n : Nat) : Fld := ⟨(CAM_AX_CTRL n), 0, 1⟩
def CAM_AX_CTRL.SEL (n : Nat) : Fld := ⟨(CAM_AX_CTRL n), 1, 2⟩
def CAM_AX_CTRL.ENG_REL (n : Nat) : Fld := ⟨(CAM_AX_CTRL n), 3, 1⟩
def CAM_AX_CTRL.DIS_TARGET (n : Nat) : Fld := ⟨(CAM_AX_CTRL n), 4, 1⟩
def CAM_AX_CTRL.AUTO_RELOCK (n : Nat) : Fld := ⟨(CAM_AX_CTRL n), 5, 1⟩
def CAM_AX_BIND (n : Nat) : Nat := 0x105104 + 0x40 * n
def CAM_AX_BIND.SRC (n : Nat) : Fld := ⟨(CAM_AX_BIND n), 0, 2⟩
def CAM_AX_BIND.AXIS (n : Nat) : Fld := ⟨(CAM_AX_BIND n), 4, 4⟩
def CAM_AX_BIND.DEV (n : Nat) : Fld := ⟨(CAM_AX_BIND n), 8, 3⟩
def CAM_AX_BIND.IDENT (n : Nat) : Fld := ⟨(CAM_AX_BIND n), 12, 1⟩
def CAM_AX_SET (n : Nat) : Nat := 0x105108 + 0x40 * n
def CAM_AX_SET.SLOTS (n : Nat) : Fld := ⟨(CAM_AX_SET n), 0, 32⟩
def CAM_AX_STAT (n : Nat) : Nat := 0x10510C + 0x40 * n
def CAM_AX_STAT.STATE (n : Nat) : Fld := ⟨(CAM_AX_STAT n), 0, 3⟩
def CAM_AX_STAT.LAG_SEEN (n : Nat) : Fld := ⟨(CAM_AX_STAT n), 4, 1⟩
def CAM_AX_STAT.JUMP_SEEN (n : Nat) : Fld := ⟨(CAM_AX_STAT n), 5, 1⟩
def CAM_AX_STAT.MISS (n : Nat) : Fld := ⟨(CAM_AX_STAT n), 8, 8⟩
def CAM_AX_STAT.CRC_ERR (n : Nat) : Fld := ⟨(CAM_AX_STAT n), 16, 8⟩
def CAM_AX_STAT.STALE (n : Nat) : Fld := ⟨(CAM_AX_STAT n), 24, 8⟩
def CAM_AX_ERR (n : Nat) : Nat := 0x105110 + 0x40 * n
def CAM_AX_MPOS (n : Nat) : Nat := 0x105114 + 0x40 * n
def CAM_AX_OFF_EFF (n : Nat) : Nat := 0x105118 + 0x40 * n
def CAM_AX_SOFF (n : Nat) : Nat := 0x10511C + 0x40 * n
def CAM_AX_MOFF (n : Nat) : Nat := 0x105120 + 0x40 * n
def CAM_AX_TOL (n : Nat) : Nat := 0x105124 + 0x40 * n
def CAM_AX_TOL.TOL (n : Nat) : Fld := ⟨(CAM_AX_TOL n), 0, 16⟩
def CAM_AX_SCALE (n : Nat) : Nat := 0x105128 + 0x40 * n
def CAM_AX_SCALE.SCALE (n : Nat) : Fld := ⟨(CAM_AX_SCALE n), 0, 11⟩
def CAM_AX_HOLD (n : Nat) : Nat := 0x10512C + 0x40 * n
def CAM_AX_HOLD.HOLD (n : Nat) : Fld := ⟨(CAM_AX_HOLD n), 0, 4⟩
def CAM_SI_CFG (n : Nat) : Nat := 0x105400 + 0x10 * n
def CAM_SI_CFG.EN (n : Nat) : Fld := ⟨(CAM_SI_CFG n), 0, 1⟩
def CAM_SI_CFG.DELAYED (n : Nat) : Fld := ⟨(CAM_SI_CFG n), 1, 1⟩
def CAM_SI_CFG.DIR_INV (n : Nat) : Fld := ⟨(CAM_SI_CFG n), 2, 1⟩
def CAM_SI_CFG.EDGE (n : Nat) : Fld := ⟨(CAM_SI_CFG n), 3, 1⟩
def CAM_SI_CFG.FILT (n : Nat) : Fld := ⟨(CAM_SI_CFG n), 4, 4⟩
def CAM_SI_CFG.CLR (n : Nat) : Fld := ⟨(CAM_SI_CFG n), 8, 1⟩
def CAM_SI_COUNT (n : Nat) : Nat := 0x105404 + 0x10 * n
def CAM_SI_COUNT.COUNT (n : Nat) : Fld := ⟨(CAM_SI_COUNT n), 0, 32⟩
def CAM_SI_TIME (n : Nat) : Nat := 0x105408 + 0x10 * n
def CAM_SI_TIME.TIME (n : Nat) : Fld := ⟨(CAM_SI_TIME n), 0, 32⟩
def CAM_SI_ERR (n : Nat) : Nat := 0x10540C + 0x10 * n
def CAM_SI_ERR.TIMING (n : Nat) : Fld := ⟨(CAM_SI_ERR n), 0, 16⟩
def CAM_SI_ERR.REVERSALS (n : Nat) : Fld := ⟨(CAM_SI_ERR n), 16, 16⟩

/-! MOD (R283) -/

def MOD_CTRL : Nat := 0x106000
def MOD_CTRL.FORCE_EN : Fld := ⟨MOD_CTRL, 0, 1⟩
def MOD_STAT : Nat := 0x106004
def MOD_STAT.COASTING : Fld := ⟨MOD_STAT, 0, 12⟩
def MOD_STAT.SAFE : Fld := ⟨MOD_STAT, 12, 12⟩
def MOD_STAT.FORCE_ACTIVE : Fld := ⟨MOD_STAT, 24, 1⟩
def MOD_COMMIT : Nat := 0x106008
def MOD_COMMIT.AX : Fld := ⟨MOD_COMMIT, 0, 12⟩
def MOD_COMMIT.ALL : Fld := ⟨MOD_COMMIT, 16, 1⟩
def MOD_CMT_PEND : Nat := 0x10600C
def MOD_CMT_PEND.ARMED : Fld := ⟨MOD_CMT_PEND, 0, 12⟩
def MOD_FAULT : Nat := 0x106010
def MOD_FAULT.FLAGS : Fld := ⟨MOD_FAULT, 0, 12⟩
def MOD_FAULT_CODE : Nat := 0x106014
def MOD_FAULT_CODE.LAST : Fld := ⟨MOD_FAULT_CODE, 0, 16⟩
def MOD_FAULT_CODE.COUNT : Fld := ⟨MOD_FAULT_CODE, 16, 16⟩
def MOD_ILOCK_CNT : Nat := 0x106018
def MOD_ILOCK_CNT.EVENTS : Fld := ⟨MOD_ILOCK_CNT, 0, 16⟩
def MOD_ILOCK_CNT.LAST_HB : Fld := ⟨MOD_ILOCK_CNT, 16, 8⟩
def MOD_AX_CFG (n : Nat) : Nat := 0x106100 + 0x40 * n
def MOD_AX_CFG.CMODE (n : Nat) : Fld := ⟨(MOD_AX_CFG n), 0, 2⟩
def MOD_AX_CFG.DECAY (n : Nat) : Fld := ⟨(MOD_AX_CFG n), 2, 2⟩
def MOD_AX_CFG.LOOP (n : Nat) : Fld := ⟨(MOD_AX_CFG n), 4, 1⟩
def MOD_AX_CFG.SHO_EN (n : Nat) : Fld := ⟨(MOD_AX_CFG n), 6, 1⟩
def MOD_AX_CFG.GUARD (n : Nat) : Fld := ⟨(MOD_AX_CFG n), 8, 8⟩
def MOD_AX_PER (n : Nat) : Nat := 0x106104 + 0x40 * n
def MOD_AX_PER.PER (n : Nat) : Fld := ⟨(MOD_AX_PER n), 0, 16⟩
def MOD_AX_DUTYA (n : Nat) : Nat := 0x106108 + 0x40 * n
def MOD_AX_DUTYA.CEIL (n : Nat) : Fld := ⟨(MOD_AX_DUTYA n), 0, 16⟩
def MOD_AX_DUTYB (n : Nat) : Nat := 0x10610C + 0x40 * n
def MOD_AX_DUTYB.CEIL (n : Nat) : Fld := ⟨(MOD_AX_DUTYB n), 0, 16⟩
def MOD_AX_TOFF (n : Nat) : Nat := 0x106110 + 0x40 * n
def MOD_AX_TOFF.TOFF (n : Nat) : Fld := ⟨(MOD_AX_TOFF n), 0, 16⟩
def MOD_AX_TOFF.TOFF_MIN (n : Nat) : Fld := ⟨(MOD_AX_TOFF n), 16, 16⟩
def MOD_AX_TON (n : Nat) : Nat := 0x106114 + 0x40 * n
def MOD_AX_TON.TON (n : Nat) : Fld := ⟨(MOD_AX_TON n), 0, 16⟩
def MOD_AX_TON.PHASE (n : Nat) : Fld := ⟨(MOD_AX_TON n), 16, 16⟩
def MOD_AX_DT (n : Nat) : Nat := 0x106118 + 0x40 * n
def MOD_AX_DT.DT (n : Nat) : Fld := ⟨(MOD_AX_DT n), 0, 10⟩
def MOD_AX_GAIN (n : Nat) : Nat := 0x10611C + 0x40 * n
def MOD_AX_GAIN.KP (n : Nat) : Fld := ⟨(MOD_AX_GAIN n), 0, 16⟩
def MOD_AX_GAIN.KI (n : Nat) : Fld := ⟨(MOD_AX_GAIN n), 16, 16⟩
def MOD_AX_SCALE (n : Nat) : Nat := 0x106120 + 0x40 * n
def MOD_AX_SCALE.ISCALE (n : Nat) : Fld := ⟨(MOD_AX_SCALE n), 0, 16⟩
def MOD_AX_SCALE.VNOM (n : Nat) : Fld := ⟨(MOD_AX_SCALE n), 16, 16⟩
def MOD_AX_SPW0 (n : Nat) : Nat := 0x106124 + 0x40 * n
def MOD_AX_SPW1 (n : Nat) : Nat := 0x106128 + 0x40 * n
def MOD_AX_ANGLE (n : Nat) : Nat := 0x10612C + 0x40 * n
def MOD_AX_ANGLE.THETA (n : Nat) : Fld := ⟨(MOD_AX_ANGLE n), 0, 20⟩
def MOD_AX_ANGLE.COAST (n : Nat) : Fld := ⟨(MOD_AX_ANGLE n), 20, 4⟩
def MOD_AX_STAT (n : Nat) : Nat := 0x106130 + 0x40 * n
def MOD_AX_STAT.COAST (n : Nat) : Fld := ⟨(MOD_AX_STAT n), 0, 4⟩
def MOD_AX_STAT.FIRST_WAIT (n : Nat) : Fld := ⟨(MOD_AX_STAT n), 4, 1⟩
def MOD_AX_STAT.SAFE (n : Nat) : Fld := ⟨(MOD_AX_STAT n), 5, 1⟩
def MOD_AX_STAT.DUTY_CLAMP (n : Nat) : Fld := ⟨(MOD_AX_STAT n), 6, 1⟩
def MOD_AX_STAT.CEIL (n : Nat) : Fld := ⟨(MOD_AX_STAT n), 7, 1⟩
def MOD_AX_STAT.JUMP (n : Nat) : Fld := ⟨(MOD_AX_STAT n), 8, 8⟩
def MOD_AX_STAT.ILK (n : Nat) : Fld := ⟨(MOD_AX_STAT n), 16, 8⟩
def MOD_AX_LOOP (n : Nat) : Nat := 0x106134 + 0x40 * n
def MOD_AX_FORCE (n : Nat) : Nat := 0x106138 + 0x40 * n
def MOD_AX_FORCE.SW (n : Nat) : Fld := ⟨(MOD_AX_FORCE n), 0, 8⟩
def MOD_AX_FORCE.ACTIVE (n : Nat) : Fld := ⟨(MOD_AX_FORCE n), 8, 1⟩
def MOD_AX_CNT (n : Nat) : Nat := 0x10613C + 0x40 * n
def MOD_AX_CNT.MISS (n : Nat) : Fld := ⟨(MOD_AX_CNT n), 0, 8⟩
def MOD_AX_CNT.SHO (n : Nat) : Fld := ⟨(MOD_AX_CNT n), 8, 8⟩
def MOD_AX_CNT.DISCARD (n : Nat) : Fld := ⟨(MOD_AX_CNT n), 16, 16⟩

/-! PWR (R346) -/

def PWR_CTRL : Nat := 0x107000
def PWR_CTRL.CP_STBY : Fld := ⟨PWR_CTRL, 0, 1⟩
def PWR_STAT : Nat := 0x107004
def PWR_STAT.VCP_OK : Fld := ⟨PWR_STAT, 0, 1⟩
def PWR_STAT.VGL_OK : Fld := ⟨PWR_STAT, 1, 1⟩
def PWR_STAT.LV : Fld := ⟨PWR_STAT, 2, 1⟩
def PWR_STAT.HV : Fld := ⟨PWR_STAT, 3, 1⟩
def PWR_STAT.OT_WARN : Fld := ⟨PWR_STAT, 4, 1⟩
def PWR_STAT.OT_SHUT : Fld := ⟨PWR_STAT, 5, 1⟩
def PWR_STAT.ROW : Fld := ⟨PWR_STAT, 8, 4⟩
def PWR_STAT.ADMIT : Fld := ⟨PWR_STAT, 16, 8⟩
def PWR_STAT.CAPPED : Fld := ⟨PWR_STAT, 24, 8⟩
def PWR_FAULT : Nat := 0x107008
def PWR_FAULT.FLAGS : Fld := ⟨PWR_FAULT, 0, 15⟩
def PWR_FAULT_CODE : Nat := 0x10700C
def PWR_FAULT_CODE.LAST : Fld := ⟨PWR_FAULT_CODE, 0, 16⟩
def PWR_FAULT_CODE.AXIS : Fld := ⟨PWR_FAULT_CODE, 16, 4⟩
def PWR_FAULT_CODE.COUNT : Fld := ⟨PWR_FAULT_CODE, 20, 12⟩
def PWR_THERM : Nat := 0x107010
def PWR_THERM.TMAX : Fld := ⟨PWR_THERM, 0, 16⟩
def PWR_THERM.SENS_OK : Fld := ⟨PWR_THERM, 16, 4⟩
def PWR_ST_CTRL : Nat := 0x107014
def PWR_ST_CTRL.SEL : Fld := ⟨PWR_ST_CTRL, 0, 12⟩
def PWR_ST_CTRL.START : Fld := ⟨PWR_ST_CTRL, 16, 1⟩
def PWR_ST_RESULT : Nat := 0x107018
def PWR_ST_RESULT.PASS : Fld := ⟨PWR_ST_RESULT, 0, 12⟩
def PWR_ST_RESULT.CMP : Fld := ⟨PWR_ST_RESULT, 16, 5⟩
def PWR_ST_RESULT.AXIS : Fld := ⟨PWR_ST_RESULT, 24, 4⟩
def PWR_ST_RESULT.BUSY : Fld := ⟨PWR_ST_RESULT, 28, 1⟩
def PWR_ST_RESULT.FAILED : Fld := ⟨PWR_ST_RESULT, 29, 1⟩
def PWR_AX_CFG (n : Nat) : Nat := 0x107100 + 0x40 * n
def PWR_AX_CFG.IDRV_HS (n : Nat) : Fld := ⟨(PWR_AX_CFG n), 0, 4⟩
def PWR_AX_CFG.IDRV_LS (n : Nat) : Fld := ⟨(PWR_AX_CFG n), 4, 4⟩
def PWR_AX_CFG.VDS_TH (n : Nat) : Fld := ⟨(PWR_AX_CFG n), 8, 4⟩
def PWR_AX_CFG.TBLANK (n : Nat) : Fld := ⟨(PWR_AX_CFG n), 12, 3⟩
def PWR_AX_CFG.TFILT (n : Nat) : Fld := ⟨(PWR_AX_CFG n), 16, 3⟩
def PWR_AX_CFG.LOC_TH (n : Nat) : Fld := ⟨(PWR_AX_CFG n), 20, 2⟩
def PWR_AX_CFG.SLEW (n : Nat) : Fld := ⟨(PWR_AX_CFG n), 22, 2⟩
def PWR_AX_CFG.OL_EN (n : Nat) : Fld := ⟨(PWR_AX_CFG n), 24, 1⟩
def PWR_AX_CFG.OL_SAFE (n : Nat) : Fld := ⟨(PWR_AX_CFG n), 25, 1⟩
def PWR_AX_OC (n : Nat) : Nat := 0x107104 + 0x40 * n
def PWR_AX_OC.OC_TH_A (n : Nat) : Fld := ⟨(PWR_AX_OC n), 0, 6⟩
def PWR_AX_OC.OC_TH_B (n : Nat) : Fld := ⟨(PWR_AX_OC n), 8, 6⟩
def PWR_AX_TRIP (n : Nat) : Nat := 0x107108 + 0x40 * n
def PWR_AX_TRIP.HB (n : Nat) : Fld := ⟨(PWR_AX_TRIP n), 0, 16⟩
def PWR_AX_TRIP.OC_A (n : Nat) : Fld := ⟨(PWR_AX_TRIP n), 16, 1⟩
def PWR_AX_TRIP.OC_B (n : Nat) : Fld := ⟨(PWR_AX_TRIP n), 17, 1⟩
def PWR_AX_TRIP.OT (n : Nat) : Fld := ⟨(PWR_AX_TRIP n), 18, 1⟩
def PWR_AX_LIVE (n : Nat) : Nat := 0x10710C + 0x40 * n
def PWR_AX_LIVE.SRC (n : Nat) : Fld := ⟨(PWR_AX_LIVE n), 0, 18⟩
def PWR_AX_STAT (n : Nat) : Nat := 0x107110 + 0x40 * n
def PWR_AX_STAT.BST_UV (n : Nat) : Fld := ⟨(PWR_AX_STAT n), 0, 4⟩
def PWR_AX_STAT.ISOL (n : Nat) : Fld := ⟨(PWR_AX_STAT n), 4, 4⟩
def PWR_AX_STAT.REF_CNT (n : Nat) : Fld := ⟨(PWR_AX_STAT n), 8, 3⟩
def PWR_AX_STAT.ADMITTED (n : Nat) : Fld := ⟨(PWR_AX_STAT n), 11, 1⟩
def PWR_AX_STAT.CAPPED (n : Nat) : Fld := ⟨(PWR_AX_STAT n), 12, 1⟩
def PWR_AX_STAT.OL_A (n : Nat) : Fld := ⟨(PWR_AX_STAT n), 13, 1⟩
def PWR_AX_STAT.OL_B (n : Nat) : Fld := ⟨(PWR_AX_STAT n), 14, 1⟩
def PWR_AX_STAT.ST_HOLD (n : Nat) : Fld := ⟨(PWR_AX_STAT n), 15, 1⟩
def PWR_AX_CNT (n : Nat) : Nat := 0x107114 + 0x40 * n
def PWR_AX_CNT.TRIPS (n : Nat) : Fld := ⟨(PWR_AX_CNT n), 0, 16⟩
def PWR_AX_CNT.REFRESH (n : Nat) : Fld := ⟨(PWR_AX_CNT n), 16, 16⟩
def PWR_AX_TRIP_MAX (n : Nat) : Nat := 0x107118 + 0x40 * n
def PWR_AX_TRIP_MAX.MAX (n : Nat) : Fld := ⟨(PWR_AX_TRIP_MAX n), 0, 8⟩
def PWR_AX_DIAG (n : Nat) : Nat := 0x10711C + 0x40 * n
def PWR_AX_DIAG.START (n : Nat) : Fld := ⟨(PWR_AX_DIAG n), 0, 1⟩
def PWR_AX_DIAG.BUSY (n : Nat) : Fld := ⟨(PWR_AX_DIAG n), 1, 1⟩
def PWR_AX_DIAG.RESULT_A (n : Nat) : Fld := ⟨(PWR_AX_DIAG n), 4, 3⟩
def PWR_AX_DIAG.RESULT_B (n : Nat) : Fld := ⟨(PWR_AX_DIAG n), 8, 3⟩

/-! LAS (R314) -/

def LAS_STAT : Nat := 0x108000
def LAS_STAT.VALID : Fld := ⟨LAS_STAT, 0, 12⟩
def LAS_STAT.HOMING : Fld := ⟨LAS_STAT, 16, 12⟩
def LAS_FAULT : Nat := 0x108004
def LAS_FAULT.FLAGS : Fld := ⟨LAS_FAULT, 0, 6⟩
def LAS_FAULT_CODE : Nat := 0x108008
def LAS_FAULT_CODE.LAST : Fld := ⟨LAS_FAULT_CODE, 0, 16⟩
def LAS_FAULT_CODE.AXIS : Fld := ⟨LAS_FAULT_CODE, 16, 4⟩
def LAS_FAULT_CODE.COUNT : Fld := ⟨LAS_FAULT_CODE, 20, 12⟩
def LAS_AX_CTRL (n : Nat) : Nat := 0x108100 + 0x80 * n
def LAS_AX_CTRL.STALL_EN (n : Nat) : Fld := ⟨(LAS_AX_CTRL n), 0, 1⟩
def LAS_AX_CTRL.STALL_STOP (n : Nat) : Fld := ⟨(LAS_AX_CTRL n), 1, 1⟩
def LAS_AX_CTRL.CORR_EN (n : Nat) : Fld := ⟨(LAS_AX_CTRL n), 2, 1⟩
def LAS_AX_CTRL.CR_EN (n : Nat) : Fld := ⟨(LAS_AX_CTRL n), 3, 1⟩
def LAS_AX_STAT (n : Nat) : Nat := 0x108104 + 0x80 * n
def LAS_AX_STAT.VALID (n : Nat) : Fld := ⟨(LAS_AX_STAT n), 0, 1⟩
def LAS_AX_STAT.ELIG (n : Nat) : Fld := ⟨(LAS_AX_STAT n), 1, 1⟩
def LAS_AX_STAT.STALL (n : Nat) : Fld := ⟨(LAS_AX_STAT n), 2, 1⟩
def LAS_AX_STAT.STALL_SEEN (n : Nat) : Fld := ⟨(LAS_AX_STAT n), 3, 1⟩
def LAS_AX_STAT.SLIP_SEEN (n : Nat) : Fld := ⟨(LAS_AX_STAT n), 4, 1⟩
def LAS_AX_STAT.LOSS_CONF (n : Nat) : Fld := ⟨(LAS_AX_STAT n), 5, 1⟩
def LAS_AX_STAT.LOSS_BUSY (n : Nat) : Fld := ⟨(LAS_AX_STAT n), 6, 1⟩
def LAS_AX_STAT.SETTLE (n : Nat) : Fld := ⟨(LAS_AX_STAT n), 8, 8⟩
def LAS_AX_STAT.DEB (n : Nat) : Fld := ⟨(LAS_AX_STAT n), 16, 8⟩
def LAS_AX_ANGLE (n : Nat) : Nat := 0x108108 + 0x80 * n
def LAS_AX_ANGLE.LAMBDA (n : Nat) : Fld := ⟨(LAS_AX_ANGLE n), 0, 16⟩
def LAS_AX_ANGLE.CRF (n : Nat) : Fld := ⟨(LAS_AX_ANGLE n), 16, 16⟩
def LAS_AX_EMF (n : Nat) : Nat := 0x10810C + 0x80 * n
def LAS_AX_EMF.MAG (n : Nat) : Fld := ⟨(LAS_AX_EMF n), 0, 16⟩
def LAS_AX_EMF.EXPECT (n : Nat) : Fld := ⟨(LAS_AX_EMF n), 16, 16⟩
def LAS_AX_SLIP (n : Nat) : Nat := 0x108110 + 0x80 * n
def LAS_AX_SLIP.EPISODE (n : Nat) : Fld := ⟨(LAS_AX_SLIP n), 0, 8⟩
def LAS_AX_SLIP.TOTAL (n : Nat) : Fld := ⟨(LAS_AX_SLIP n), 16, 16⟩
def LAS_AX_LOSS (n : Nat) : Nat := 0x108114 + 0x80 * n
def LAS_AX_HOME (n : Nat) : Nat := 0x108118 + 0x80 * n
def LAS_AX_HOME.STATE (n : Nat) : Fld := ⟨(LAS_AX_HOME n), 0, 3⟩
def LAS_AX_HOME.CAUSE_STALL (n : Nat) : Fld := ⟨(LAS_AX_HOME n), 4, 1⟩
def LAS_AX_HOME.CAUSE_LIMIT (n : Nat) : Fld := ⟨(LAS_AX_HOME n), 5, 1⟩
def LAS_AX_HOME.REASON (n : Nat) : Fld := ⟨(LAS_AX_HOME n), 8, 3⟩
def LAS_AX_HOME.LA (n : Nat) : Fld := ⟨(LAS_AX_HOME n), 16, 16⟩
def LAS_AX_HOME_RAW (n : Nat) : Nat := 0x10811C + 0x80 * n
def LAS_AX_EOFS (n : Nat) : Nat := 0x108120 + 0x80 * n
def LAS_AX_EOFS.EOFS (n : Nat) : Fld := ⟨(LAS_AX_EOFS n), 0, 12⟩
def LAS_AX_VLAS_MIN (n : Nat) : Nat := 0x108128 + 0x80 * n
def LAS_AX_STALL_TH (n : Nat) : Nat := 0x10812C + 0x80 * n
def LAS_AX_STALL_TH.V (n : Nat) : Fld := ⟨(LAS_AX_STALL_TH n), 0, 11⟩
def LAS_AX_STALL_DEB (n : Nat) : Nat := 0x108130 + 0x80 * n
def LAS_AX_STALL_DEB.V (n : Nat) : Fld := ⟨(LAS_AX_STALL_DEB n), 0, 8⟩
def LAS_AX_CORR_MAX (n : Nat) : Nat := 0x108134 + 0x80 * n
def LAS_AX_CORR_MAX.V (n : Nat) : Fld := ⟨(LAS_AX_CORR_MAX n), 0, 3⟩
def LAS_AX_CR_LO (n : Nat) : Nat := 0x108138 + 0x80 * n
def LAS_AX_CR_LO.V (n : Nat) : Fld := ⟨(LAS_AX_CR_LO n), 0, 11⟩
def LAS_AX_CR_CFG (n : Nat) : Nat := 0x10813C + 0x80 * n
def LAS_AX_CR_CFG.MIN (n : Nat) : Fld := ⟨(LAS_AX_CR_CFG n), 0, 12⟩
def LAS_AX_CR_CFG.SPAN (n : Nat) : Fld := ⟨(LAS_AX_CR_CFG n), 16, 4⟩
def LAS_AX_HOME_CFG (n : Nat) : Nat := 0x108140 + 0x80 * n
def LAS_AX_HOME_CFG.METHOD (n : Nat) : Fld := ⟨(LAS_AX_HOME_CFG n), 0, 2⟩
def LAS_AX_HOME_CFG.DIR (n : Nat) : Fld := ⟨(LAS_AX_HOME_CFG n), 2, 1⟩
def LAS_AX_HOME_VEL (n : Nat) : Nat := 0x108144 + 0x80 * n
def LAS_AX_HOME_OFFSET (n : Nat) : Nat := 0x108148 + 0x80 * n
def LAS_AX_HOME_BACKOFF (n : Nat) : Nat := 0x10814C + 0x80 * n
def LAS_AX_HOME_MAXDIST (n : Nat) : Nat := 0x108150 + 0x80 * n
def LAS_AX_HOME_BLANK (n : Nat) : Nat := 0x108154 + 0x80 * n
def LAS_AX_HOME_BLANK.V (n : Nat) : Fld := ⟨(LAS_AX_HOME_BLANK n), 0, 16⟩

/-! POS (R383) -/

def POS_STAT : Nat := 0x109000
def POS_STAT.QD_EN : Fld := ⟨POS_STAT, 0, 4⟩
def POS_STAT.SN_VALID : Fld := ⟨POS_STAT, 4, 4⟩
def POS_STAT.LT_FULL : Fld := ⟨POS_STAT, 8, 8⟩
def POS_STAT.EE_EN : Fld := ⟨POS_STAT, 16, 2⟩
def POS_FAULT : Nat := 0x109004
def POS_FAULT.FLAGS : Fld := ⟨POS_FAULT, 0, 13⟩
def POS_FAULT_CODE : Nat := 0x109008
def POS_FAULT_CODE.LAST : Fld := ⟨POS_FAULT_CODE, 0, 16⟩
def POS_FAULT_CODE.UNIT : Fld := ⟨POS_FAULT_CODE, 16, 4⟩
def POS_FAULT_CODE.COUNT : Fld := ⟨POS_FAULT_CODE, 20, 12⟩
def POS_LIM : Nat := 0x10900C
def POS_LIM.POS_ACT : Fld := ⟨POS_LIM, 0, 12⟩
def POS_LIM.NEG_ACT : Fld := ⟨POS_LIM, 16, 12⟩
def POS_LIM_SEEN : Nat := 0x109010
def POS_LIM_SEEN.POS : Fld := ⟨POS_LIM_SEEN, 0, 12⟩
def POS_LIM_SEEN.NEG : Fld := ⟨POS_LIM_SEEN, 16, 12⟩
def POS_LT_TRIG : Nat := 0x109014
def POS_LT_TRIG.TRIG : Fld := ⟨POS_LT_TRIG, 0, 8⟩
def POS_QD_CFG (n : Nat) : Nat := 0x109100 + 0x40 * n
def POS_QD_CFG.EN (n : Nat) : Fld := ⟨(POS_QD_CFG n), 0, 1⟩
def POS_QD_CFG.DIR_INV (n : Nat) : Fld := ⟨(POS_QD_CFG n), 1, 1⟩
def POS_QD_CFG.FILT (n : Nat) : Fld := ⟨(POS_QD_CFG n), 2, 4⟩
def POS_QD_CFG.IPOL (n : Nat) : Fld := ⟨(POS_QD_CFG n), 6, 1⟩
def POS_QD_CFG.IGATE (n : Nat) : Fld := ⟨(POS_QD_CFG n), 7, 3⟩
def POS_QD_CFG.SNAP (n : Nat) : Fld := ⟨(POS_QD_CFG n), 10, 1⟩
def POS_QD_CFG.FIRST_SNAP (n : Nat) : Fld := ⟨(POS_QD_CFG n), 11, 1⟩
def POS_QD_CPR (n : Nat) : Nat := 0x109104 + 0x40 * n
def POS_QD_CPR.CPR (n : Nat) : Fld := ⟨(POS_QD_CPR n), 0, 20⟩
def POS_QD_IDX (n : Nat) : Nat := 0x109108 + 0x40 * n
def POS_QD_IDX.IPOS (n : Nat) : Fld := ⟨(POS_QD_IDX n), 0, 20⟩
def POS_QD_IDX.TOL (n : Nat) : Fld := ⟨(POS_QD_IDX n), 20, 12⟩
def POS_QD_COUNT (n : Nat) : Nat := 0x10910C + 0x40 * n
def POS_QD_ANGLE (n : Nat) : Nat := 0x109110 + 0x40 * n
def POS_QD_ANGLE.ANGLE (n : Nat) : Fld := ⟨(POS_QD_ANGLE n), 0, 20⟩
def POS_QD_TURNS (n : Nat) : Nat := 0x109114 + 0x40 * n
def POS_QD_TIME (n : Nat) : Nat := 0x109118 + 0x40 * n
def POS_QD_IDXDEV (n : Nat) : Nat := 0x10911C + 0x40 * n
def POS_QD_IDXDEV.DEV (n : Nat) : Fld := ⟨(POS_QD_IDXDEV n), 0, 20⟩
def POS_QD_STAT (n : Nat) : Nat := 0x109120 + 0x40 * n
def POS_QD_STAT.REFD (n : Nat) : Fld := ⟨(POS_QD_STAT n), 0, 1⟩
def POS_QD_STAT.ILLEGAL_SEEN (n : Nat) : Fld := ⟨(POS_QD_STAT n), 1, 1⟩
def POS_QD_STAT.INDEX_ERR (n : Nat) : Fld := ⟨(POS_QD_STAT n), 2, 1⟩
def POS_QD_STAT.SNAPPED (n : Nat) : Fld := ⟨(POS_QD_STAT n), 3, 1⟩
def POS_QD_STAT.IDX_FAULT (n : Nat) : Fld := ⟨(POS_QD_STAT n), 4, 1⟩
def POS_QD_STAT.DIR (n : Nat) : Fld := ⟨(POS_QD_STAT n), 5, 1⟩
def POS_QD_STAT.INDEX (n : Nat) : Fld := ⟨(POS_QD_STAT n), 16, 16⟩
def POS_QD_ERR (n : Nat) : Nat := 0x109124 + 0x40 * n
def POS_QD_ERR.ILLEGAL (n : Nat) : Fld := ⟨(POS_QD_ERR n), 0, 16⟩
def POS_QD_ERR.REVERSALS (n : Nat) : Fld := ⟨(POS_QD_ERR n), 16, 16⟩
def POS_QD_SET (n : Nat) : Nat := 0x109128 + 0x40 * n
def POS_SN_CFG (n : Nat) : Nat := 0x109200 + 0x40 * n
def POS_SN_CFG.EN (n : Nat) : Fld := ⟨(POS_SN_CFG n), 0, 1⟩
def POS_SN_CFG.CRC_LEGACY (n : Nat) : Fld := ⟨(POS_SN_CFG n), 1, 1⟩
def POS_SN_CFG.PAUSE (n : Nat) : Fld := ⟨(POS_SN_CFG n), 2, 1⟩
def POS_SN_CFG.WRAP (n : Nat) : Fld := ⟨(POS_SN_CFG n), 3, 1⟩
def POS_SN_CFG.NIB (n : Nat) : Fld := ⟨(POS_SN_CFG n), 4, 3⟩
def POS_SN_CFG.PNIB (n : Nat) : Fld := ⟨(POS_SN_CFG n), 7, 3⟩
def POS_SN_CFG.SER (n : Nat) : Fld := ⟨(POS_SN_CFG n), 10, 2⟩
def POS_SN_CFG.STERR (n : Nat) : Fld := ⟨(POS_SN_CFG n), 12, 2⟩
def POS_SN_CFG.TICK (n : Nat) : Fld := ⟨(POS_SN_CFG n), 16, 10⟩
def POS_SN_TMO (n : Nat) : Nat := 0x109204 + 0x40 * n
def POS_SN_TMO.TMO (n : Nat) : Fld := ⟨(POS_SN_TMO n), 0, 12⟩
def POS_SN_DATA (n : Nat) : Nat := 0x109208 + 0x40 * n
def POS_SN_DATA.DATA (n : Nat) : Fld := ⟨(POS_SN_DATA n), 0, 24⟩
def POS_SN_DATA.STATUS (n : Nat) : Fld := ⟨(POS_SN_DATA n), 24, 4⟩
def POS_SN_DATA.CRC (n : Nat) : Fld := ⟨(POS_SN_DATA n), 28, 4⟩
def POS_SN_COUNT (n : Nat) : Nat := 0x10920C + 0x40 * n
def POS_SN_TIME (n : Nat) : Nat := 0x109210 + 0x40 * n
def POS_SN_SER (n : Nat) : Nat := 0x109214 + 0x40 * n
def POS_SN_SER.DATA (n : Nat) : Fld := ⟨(POS_SN_SER n), 0, 16⟩
def POS_SN_SER.ID (n : Nat) : Fld := ⟨(POS_SN_SER n), 16, 8⟩
def POS_SN_SER.ENH (n : Nat) : Fld := ⟨(POS_SN_SER n), 24, 1⟩
def POS_SN_SER.NEW (n : Nat) : Fld := ⟨(POS_SN_SER n), 25, 1⟩
def POS_SN_STAT (n : Nat) : Nat := 0x109218 + 0x40 * n
def POS_SN_STAT.VALID (n : Nat) : Fld := ⟨(POS_SN_STAT n), 0, 1⟩
def POS_SN_STAT.TIMEOUT (n : Nat) : Fld := ⟨(POS_SN_STAT n), 1, 1⟩
def POS_SN_STAT.CRC_SEEN (n : Nat) : Fld := ⟨(POS_SN_STAT n), 2, 1⟩
def POS_SN_STAT.FORMAT_SEEN (n : Nat) : Fld := ⟨(POS_SN_STAT n), 3, 1⟩
def POS_SN_STAT.STATUS_SEEN (n : Nat) : Fld := ⟨(POS_SN_STAT n), 4, 1⟩
def POS_SN_STAT.JUMP_SEEN (n : Nat) : Fld := ⟨(POS_SN_STAT n), 5, 1⟩
def POS_SN_STAT.SER_CRC_SEEN (n : Nat) : Fld := ⟨(POS_SN_STAT n), 6, 1⟩
def POS_SN_ERR (n : Nat) : Nat := 0x10921C + 0x40 * n
def POS_SN_ERR.CRC (n : Nat) : Fld := ⟨(POS_SN_ERR n), 0, 16⟩
def POS_SN_ERR.FORMAT (n : Nat) : Fld := ⟨(POS_SN_ERR n), 16, 16⟩
def POS_AX_FB (n : Nat) : Nat := 0x109300 + 0x10 * n
def POS_AX_FB.SRC (n : Nat) : Fld := ⟨(POS_AX_FB n), 0, 2⟩
def POS_AX_FB.CH (n : Nat) : Fld := ⟨(POS_AX_FB n), 2, 2⟩
def POS_AX_FBSCALE (n : Nat) : Nat := 0x109304 + 0x10 * n
def POS_AX_FBSCALE.NUM (n : Nat) : Fld := ⟨(POS_AX_FBSCALE n), 0, 16⟩
def POS_AX_FBSCALE.DEN (n : Nat) : Fld := ⟨(POS_AX_FBSCALE n), 16, 16⟩
def POS_AX_LIMCFG (n : Nat) : Nat := 0x109308 + 0x10 * n
def POS_AX_LIMCFG.DEB (n : Nat) : Fld := ⟨(POS_AX_LIMCFG n), 0, 10⟩
def POS_AX_LIMCFG.POL_POS (n : Nat) : Fld := ⟨(POS_AX_LIMCFG n), 10, 1⟩
def POS_AX_LIMCFG.POL_NEG (n : Nat) : Fld := ⟨(POS_AX_LIMCFG n), 11, 1⟩
def POS_AX_DEV (n : Nat) : Nat := 0x10930C + 0x10 * n
def POS_LT_CFG (n : Nat) : Nat := 0x109400 + 0x10 * n
def POS_LT_CFG.SRC (n : Nat) : Fld := ⟨(POS_LT_CFG n), 0, 4⟩
def POS_LT_CFG.TRIG (n : Nat) : Fld := ⟨(POS_LT_CFG n), 4, 3⟩
def POS_LT_CFG.TINST (n : Nat) : Fld := ⟨(POS_LT_CFG n), 8, 2⟩
def POS_LT_CFG.EDGE (n : Nat) : Fld := ⟨(POS_LT_CFG n), 10, 2⟩
def POS_LT_CFG.OVW (n : Nat) : Fld := ⟨(POS_LT_CFG n), 12, 1⟩
def POS_LT_POS (n : Nat) : Nat := 0x109404 + 0x10 * n
def POS_LT_POS.POS (n : Nat) : Fld := ⟨(POS_LT_POS n), 0, 32⟩
def POS_LT_TIME (n : Nat) : Nat := 0x109408 + 0x10 * n
def POS_LT_STAT (n : Nat) : Nat := 0x10940C + 0x10 * n
def POS_LT_STAT.FULL (n : Nat) : Fld := ⟨(POS_LT_STAT n), 0, 1⟩
def POS_LT_STAT.STALE (n : Nat) : Fld := ⟨(POS_LT_STAT n), 1, 1⟩
def POS_LT_STAT.OVR (n : Nat) : Fld := ⟨(POS_LT_STAT n), 8, 8⟩
def POS_LT_STAT.PERIOD (n : Nat) : Fld := ⟨(POS_LT_STAT n), 16, 15⟩
def POS_LT_STAT.DIR (n : Nat) : Fld := ⟨(POS_LT_STAT n), 31, 1⟩
def POS_CP_CFG (n : Nat) : Nat := 0x109500 + 0x10 * n
def POS_CP_CFG.EN (n : Nat) : Fld := ⟨(POS_CP_CFG n), 0, 1⟩
def POS_CP_CFG.SRC (n : Nat) : Fld := ⟨(POS_CP_CFG n), 1, 4⟩
def POS_CP_CFG.DIRSEL (n : Nat) : Fld := ⟨(POS_CP_CFG n), 5, 2⟩
def POS_CP_CFG.AUTO (n : Nat) : Fld := ⟨(POS_CP_CFG n), 7, 1⟩
def POS_CP_CFG.WIDTH (n : Nat) : Fld := ⟨(POS_CP_CFG n), 8, 8⟩
def POS_CP_VAL (n : Nat) : Nat := 0x109504 + 0x10 * n
def POS_CP_STEP (n : Nat) : Nat := 0x109508 + 0x10 * n
def POS_CP_STAT (n : Nat) : Nat := 0x10950C + 0x10 * n
def POS_CP_STAT.BEHIND (n : Nat) : Fld := ⟨(POS_CP_STAT n), 0, 1⟩
def POS_CP_STAT.FIRED (n : Nat) : Fld := ⟨(POS_CP_STAT n), 1, 1⟩
def POS_CP_STAT.FIRES (n : Nat) : Fld := ⟨(POS_CP_STAT n), 16, 16⟩
def POS_EE_CFG (n : Nat) : Nat := 0x109600 + 0x10 * n
def POS_EE_CFG.EN (n : Nat) : Fld := ⟨(POS_EE_CFG n), 0, 1⟩
def POS_EE_CFG.SRC (n : Nat) : Fld := ⟨(POS_EE_CFG n), 1, 1⟩
def POS_EE_CFG.NUM (n : Nat) : Fld := ⟨(POS_EE_CFG n), 2, 4⟩
def POS_EE_CFG.DIR_INV (n : Nat) : Fld := ⟨(POS_EE_CFG n), 6, 1⟩
def POS_EE_CFG.CLR (n : Nat) : Fld := ⟨(POS_EE_CFG n), 7, 1⟩
def POS_EE_CFG.MIN_GAP (n : Nat) : Fld := ⟨(POS_EE_CFG n), 8, 8⟩
def POS_EE_RES (n : Nat) : Nat := 0x109604 + 0x10 * n
def POS_EE_RES.RES (n : Nat) : Fld := ⟨(POS_EE_RES n), 0, 11⟩
def POS_EE_RES.IPER (n : Nat) : Fld := ⟨(POS_EE_RES n), 16, 16⟩
def POS_EE_COUNT (n : Nat) : Nat := 0x109608 + 0x10 * n
def POS_EE_STAT (n : Nat) : Nat := 0x10960C + 0x10 * n
def POS_EE_STAT.BACKLOG (n : Nat) : Fld := ⟨(POS_EE_STAT n), 0, 13⟩
def POS_EE_STAT.LOST (n : Nat) : Fld := ⟨(POS_EE_STAT n), 16, 1⟩

/-! ADC (R407) -/

def ADC_CTRL : Nat := 0x10A000
def ADC_CTRL.LP_STBY : Fld := ⟨ADC_CTRL, 0, 1⟩
def ADC_STAT : Nat := 0x10A004
def ADC_STAT.CORE_OK : Fld := ⟨ADC_STAT, 0, 6⟩
def ADC_STAT.SUB_FOR : Fld := ⟨ADC_STAT, 8, 3⟩
def ADC_STAT.SUB : Fld := ⟨ADC_STAT, 11, 1⟩
def ADC_STAT.CAL_STANDIN : Fld := ⟨ADC_STAT, 12, 1⟩
def ADC_STAT.CAL_BUSY : Fld := ⟨ADC_STAT, 16, 6⟩
def ADC_FAULT : Nat := 0x10A008
def ADC_FAULT.FLAGS : Fld := ⟨ADC_FAULT, 0, 6⟩
def ADC_FAULT_CODE : Nat := 0x10A00C
def ADC_FAULT_CODE.LAST : Fld := ⟨ADC_FAULT_CODE, 0, 16⟩
def ADC_FAULT_CODE.SRC : Fld := ⟨ADC_FAULT_CODE, 16, 6⟩
def ADC_FAULT_CODE.COUNT : Fld := ⟨ADC_FAULT_CODE, 22, 10⟩
def ADC_INJ : Nat := 0x10A010
def ADC_INJ.CHANNEL : Fld := ⟨ADC_INJ, 0, 6⟩
def ADC_INJ.MEMBER : Fld := ⟨ADC_INJ, 8, 2⟩
def ADC_INJ.CORE : Fld := ⟨ADC_INJ, 12, 3⟩
def ADC_INJ.START : Fld := ⟨ADC_INJ, 16, 1⟩
def ADC_INJ.BUSY : Fld := ⟨ADC_INJ, 17, 1⟩
def ADC_INJ.DONE : Fld := ⟨ADC_INJ, 18, 1⟩
def ADC_INJ_RES : Nat := 0x10A014
def ADC_INJ_RES.RESULT : Fld := ⟨ADC_INJ_RES, 0, 32⟩
def ADC_CAL : Nat := 0x10A018
def ADC_CAL.START : Fld := ⟨ADC_CAL, 0, 6⟩
def ADC_CAL.DONE : Fld := ⟨ADC_CAL, 16, 6⟩
def ADC_CORE_TRIM (n : Nat) : Nat := 0x10A100 + 0x10 * n
def ADC_CORE_TRIM.OFS (n : Nat) : Fld := ⟨(ADC_CORE_TRIM n), 0, 16⟩
def ADC_CORE_TRIM.GAIN (n : Nat) : Fld := ⟨(ADC_CORE_TRIM n), 16, 16⟩
def ADC_CORE_CHK (n : Nat) : Nat := 0x10A104 + 0x10 * n
def ADC_CORE_CHK.LAST (n : Nat) : Fld := ⟨(ADC_CORE_CHK n), 0, 16⟩
def ADC_CORE_CHK.FAILS (n : Nat) : Fld := ⟨(ADC_CORE_CHK n), 16, 2⟩
def ADC_CORE_CHK.FAILED (n : Nat) : Fld := ⟨(ADC_CORE_CHK n), 18, 1⟩
def ADC_CORE_CHK.TOTAL (n : Nat) : Fld := ⟨(ADC_CORE_CHK n), 24, 8⟩
def ADC_CH_CFG (n : Nat) : Nat := 0x10A200 + 0x10 * n
def ADC_CH_CFG.EN (n : Nat) : Fld := ⟨(ADC_CH_CFG n), 0, 1⟩
def ADC_CH_CFG.GAIN (n : Nat) : Fld := ⟨(ADC_CH_CFG n), 1, 2⟩
def ADC_CH_CFG.FILT (n : Nat) : Fld := ⟨(ADC_CH_CFG n), 4, 5⟩
def ADC_CH_CORR (n : Nat) : Nat := 0x10A204 + 0x10 * n
def ADC_CH_CORR.OFS (n : Nat) : Fld := ⟨(ADC_CH_CORR n), 0, 16⟩
def ADC_CH_CORR.GAIN (n : Nat) : Fld := ⟨(ADC_CH_CORR n), 16, 16⟩
def ADC_CH_LAST (n : Nat) : Nat := 0x10A208 + 0x10 * n
def ADC_CH_LAST.RESULT (n : Nat) : Fld := ⟨(ADC_CH_LAST n), 0, 32⟩
def ADC_CH_CNT (n : Nat) : Nat := 0x10A20C + 0x10 * n
def ADC_CH_CNT.SETTLE (n : Nat) : Fld := ⟨(ADC_CH_CNT n), 0, 5⟩
def ADC_CH_CNT.CLIP (n : Nat) : Fld := ⟨(ADC_CH_CNT n), 16, 16⟩
def ADC_TS_CORR (n : Nat) : Nat := 0x10A600 + 0x10 * n
def ADC_TS_CORR.OFS (n : Nat) : Fld := ⟨(ADC_TS_CORR n), 0, 16⟩
def ADC_TS_CORR.GAIN (n : Nat) : Fld := ⟨(ADC_TS_CORR n), 16, 16⟩
def ADC_TS_LAST (n : Nat) : Nat := 0x10A604 + 0x10 * n
def ADC_TS_CFG (n : Nat) : Nat := 0x10A608 + 0x10 * n
def ADC_TS_CFG.FILT (n : Nat) : Fld := ⟨(ADC_TS_CFG n), 4, 5⟩

/-! CAN (R444) -/

def CAN_CTRL : Nat := 0x10B000
def CAN_CTRL.EN : Fld := ⟨CAN_CTRL, 0, 1⟩
def CAN_CTRL.OPMODE : Fld := ⟨CAN_CTRL, 1, 2⟩
def CAN_CTRL.ONESHOT : Fld := ⟨CAN_CTRL, 3, 1⟩
def CAN_CTRL.PRIO : Fld := ⟨CAN_CTRL, 4, 1⟩
def CAN_CTRL.BO_AUTO : Fld := ⟨CAN_CTRL, 5, 1⟩
def CAN_CTRL.BO_REQ : Fld := ⟨CAN_CTRL, 6, 1⟩
def CAN_STAT : Nat := 0x10B004
def CAN_STAT.STATE : Fld := ⟨CAN_STAT, 0, 3⟩
def CAN_STAT.EWARN : Fld := ⟨CAN_STAT, 3, 1⟩
def CAN_STAT.ALONE : Fld := ⟨CAN_STAT, 4, 1⟩
def CAN_STAT.RC_RESTRICT : Fld := ⟨CAN_STAT, 5, 1⟩
def CAN_STAT.TX_BUSY : Fld := ⟨CAN_STAT, 6, 1⟩
def CAN_STAT.RX_BUSY : Fld := ⟨CAN_STAT, 7, 1⟩
def CAN_ERR : Nat := 0x10B008
def CAN_ERR.TEC : Fld := ⟨CAN_ERR, 0, 9⟩
def CAN_ERR.REC : Fld := ⟨CAN_ERR, 16, 8⟩
def CAN_ERR.ACKERR : Fld := ⟨CAN_ERR, 24, 5⟩
def CAN_ERRLOG : Nat := 0x10B00C
def CAN_ERRLOG.LEC : Fld := ⟨CAN_ERRLOG, 0, 3⟩
def CAN_ERRLOG.DATA : Fld := ⟨CAN_ERRLOG, 3, 1⟩
def CAN_ERRLOG.COUNT : Fld := ⟨CAN_ERRLOG, 16, 16⟩
def CAN_IRQ : Nat := 0x10B010
def CAN_IRQ.RXNEW : Fld := ⟨CAN_IRQ, 0, 1⟩
def CAN_IRQ.HPB : Fld := ⟨CAN_IRQ, 1, 1⟩
def CAN_IRQ.FIFO : Fld := ⟨CAN_IRQ, 2, 1⟩
def CAN_IRQ.RXOVR : Fld := ⟨CAN_IRQ, 3, 1⟩
def CAN_IRQ.TXDONE : Fld := ⟨CAN_IRQ, 4, 1⟩
def CAN_IRQ.TXFAIL : Fld := ⟨CAN_IRQ, 5, 1⟩
def CAN_IRQ.EWARN : Fld := ⟨CAN_IRQ, 6, 1⟩
def CAN_IRQ.EPASS : Fld := ⟨CAN_IRQ, 7, 1⟩
def CAN_IRQ.BUSOFF : Fld := ⟨CAN_IRQ, 8, 1⟩
def CAN_IRQ.RECOVERED : Fld := ⟨CAN_IRQ, 9, 1⟩
def CAN_IRQ.ALONE : Fld := ⟨CAN_IRQ, 10, 1⟩
def CAN_IRQ.MAP : Fld := ⟨CAN_IRQ, 11, 1⟩
def CAN_IRQ.WAKE : Fld := ⟨CAN_IRQ, 12, 1⟩
def CAN_IRQ_EN : Nat := 0x10B014
def CAN_IRQ_EN.EN : Fld := ⟨CAN_IRQ_EN, 0, 13⟩
def CAN_FAULT : Nat := 0x10B018
def CAN_FAULT.FLAGS : Fld := ⟨CAN_FAULT, 0, 13⟩
def CAN_FAULT_CODE : Nat := 0x10B01C
def CAN_FAULT_CODE.LAST : Fld := ⟨CAN_FAULT_CODE, 0, 16⟩
def CAN_FAULT_CODE.COUNT : Fld := ⟨CAN_FAULT_CODE, 16, 16⟩
def CAN_NBT : Nat := 0x10B020
def CAN_NBT.NBRP : Fld := ⟨CAN_NBT, 0, 5⟩
def CAN_NBT.NTSEG1 : Fld := ⟨CAN_NBT, 8, 8⟩
def CAN_NBT.NTSEG2 : Fld := ⟨CAN_NBT, 16, 7⟩
def CAN_NBT.NSJW : Fld := ⟨CAN_NBT, 24, 7⟩
def CAN_DBT : Nat := 0x10B024
def CAN_DBT.DBRP : Fld := ⟨CAN_DBT, 0, 5⟩
def CAN_DBT.DTSEG1 : Fld := ⟨CAN_DBT, 8, 5⟩
def CAN_DBT.DTSEG2 : Fld := ⟨CAN_DBT, 16, 4⟩
def CAN_DBT.DSJW : Fld := ⟨CAN_DBT, 24, 4⟩
def CAN_TDC : Nat := 0x10B028
def CAN_TDC.TDCO : Fld := ⟨CAN_TDC, 0, 7⟩
def CAN_TDC.TDCF : Fld := ⟨CAN_TDC, 8, 7⟩
def CAN_TDC.TDCV : Fld := ⟨CAN_TDC, 16, 7⟩
def CAN_TDC.FLAGS : Fld := ⟨CAN_TDC, 24, 3⟩
def CAN_TXREQ : Nat := 0x10B02C
def CAN_TXREQ.TB : Fld := ⟨CAN_TXREQ, 0, 3⟩
def CAN_TXABORT : Nat := 0x10B030
def CAN_TXABORT.TB : Fld := ⟨CAN_TXABORT, 0, 3⟩
def CAN_TXSTAT : Nat := 0x10B034
def CAN_TXSTAT.ST : Fld := ⟨CAN_TXSTAT, 0, 12⟩
def CAN_TXSTAT.OWN_TB0 : Fld := ⟨CAN_TXSTAT, 16, 2⟩
def CAN_TXSTAT.OWN_TB1 : Fld := ⟨CAN_TXSTAT, 18, 2⟩
def CAN_TXSTAT.OWN_TB2 : Fld := ⟨CAN_TXSTAT, 20, 2⟩
def CAN_TXSTAT.CAUSE : Fld := ⟨CAN_TXSTAT, 22, 3⟩
def CAN_TXSTAT.CBUF : Fld := ⟨CAN_TXSTAT, 25, 2⟩
def CAN_RXNEW : Nat := 0x10B038
def CAN_RXNEW.RB : Fld := ⟨CAN_RXNEW, 0, 16⟩
def CAN_RXNEW.HPB : Fld := ⟨CAN_RXNEW, 16, 1⟩
def CAN_RXOVR : Nat := 0x10B03C
def CAN_RXOVR.RB : Fld := ⟨CAN_RXOVR, 0, 16⟩
def CAN_RXOVR.HPB : Fld := ⟨CAN_RXOVR, 16, 1⟩
def CAN_RXF : Nat := 0x10B040
def CAN_RXF.HEAD : Fld := ⟨CAN_RXF, 0, 4⟩
def CAN_RXF.LEVEL : Fld := ⟨CAN_RXF, 4, 5⟩
def CAN_RXF.OVR : Fld := ⟨CAN_RXF, 16, 16⟩
def CAN_RXF_ACK : Nat := 0x10B044
def CAN_RXF_ACK.ACK : Fld := ⟨CAN_RXF_ACK, 0, 1⟩
def CAN_CNT : Nat := 0x10B048
def CAN_CNT.RX : Fld := ⟨CAN_CNT, 0, 16⟩
def CAN_CNT.TX : Fld := ⟨CAN_CNT, 16, 16⟩
def CAN_DROP : Nat := 0x10B04C
def CAN_DROP.UNMATCHED : Fld := ⟨CAN_DROP, 0, 16⟩
def CAN_DROP.TX : Fld := ⟨CAN_DROP, 16, 16⟩
def CAN_MAP_ERR : Nat := 0x10B050
def CAN_MAP_ERR.CHECK : Fld := ⟨CAN_MAP_ERR, 0, 16⟩
def CAN_MAP_ERR.STALE : Fld := ⟨CAN_MAP_ERR, 16, 16⟩
def CAN_WAKE : Nat := 0x10B054
def CAN_WAKE.PIN_EN : Fld := ⟨CAN_WAKE, 0, 1⟩
def CAN_WAKE.PIN_EDGE : Fld := ⟨CAN_WAKE, 1, 2⟩
def CAN_WAKE.BUS_EN : Fld := ⟨CAN_WAKE, 3, 1⟩
def CAN_WAKE.SRC : Fld := ⟨CAN_WAKE, 8, 2⟩
def CAN_WAKE.LEVEL : Fld := ⟨CAN_WAKE, 10, 1⟩

/-! SPI (R474) -/

def SPI_CTRL : Nat := 0x10C000
def SPI_CTRL.HOST_EN : Fld := ⟨SPI_CTRL, 0, 1⟩
def SPI_CTRL.MW_EN : Fld := ⟨SPI_CTRL, 1, 1⟩
def SPI_CFG : Nat := 0x10C004
def SPI_CFG.HLANE : Fld := ⟨SPI_CFG, 0, 2⟩
def SPI_CFG.DAISY : Fld := ⟨SPI_CFG, 2, 1⟩
def SPI_CFG.RDUMMY : Fld := ⟨SPI_CFG, 8, 6⟩
def SPI_CFG.WMAX : Fld := ⟨SPI_CFG, 16, 10⟩
def SPI_STAT : Nat := 0x10C008
def SPI_STAT.HOST_ACT : Fld := ⟨SPI_STAT, 0, 1⟩
def SPI_STAT.MASTERING : Fld := ⟨SPI_STAT, 1, 1⟩
def SPI_STAT.MW_BUSY : Fld := ⟨SPI_STAT, 2, 1⟩
def SPI_STAT.LATE_VALID : Fld := ⟨SPI_STAT, 3, 1⟩
def SPI_STAT.FRAME_ERR : Fld := ⟨SPI_STAT, 4, 1⟩
def SPI_STAT.MM_FAULT : Fld := ⟨SPI_STAT, 5, 1⟩
def SPI_STAT.BUSY_N : Fld := ⟨SPI_STAT, 6, 1⟩
def SPI_FAULT : Nat := 0x10C00C
def SPI_FAULT.FLAGS : Fld := ⟨SPI_FAULT, 0, 8⟩
def SPI_FAULT_CODE : Nat := 0x10C010
def SPI_FAULT_CODE.LAST : Fld := ⟨SPI_FAULT_CODE, 0, 16⟩
def SPI_FAULT_CODE.COUNT : Fld := ⟨SPI_FAULT_CODE, 16, 16⟩
def SPI_LATE : Nat := 0x10C014
def SPI_LATE.ADDR : Fld := ⟨SPI_LATE, 0, 24⟩
def SPI_LATE.VALID : Fld := ⟨SPI_LATE, 31, 1⟩
def SPI_HCNT : Nat := 0x10C018
def SPI_HCNT.FRAMES : Fld := ⟨SPI_HCNT, 0, 16⟩
def SPI_HCNT.DISCARDS : Fld := ⟨SPI_HCNT, 16, 16⟩
def SPI_HERR : Nat := 0x10C01C
def SPI_HERR.LATE : Fld := ⟨SPI_HERR, 0, 8⟩
def SPI_HERR.LOST : Fld := ⟨SPI_HERR, 8, 8⟩
def SPI_HERR.MB_COLL : Fld := ⟨SPI_HERR, 16, 8⟩
def SPI_HERR.ILLEGAL : Fld := ⟨SPI_HERR, 24, 8⟩
def SPI_MW_CFG : Nat := 0x10C020
def SPI_MW_CFG.SEL : Fld := ⟨SPI_MW_CFG, 0, 1⟩
def SPI_MW_CFG.CPOL : Fld := ⟨SPI_MW_CFG, 1, 1⟩
def SPI_MW_CFG.SELW : Fld := ⟨SPI_MW_CFG, 2, 1⟩
def SPI_MW_CFG.POLL : Fld := ⟨SPI_MW_CFG, 3, 1⟩
def SPI_MW_CFG.SDLY : Fld := ⟨SPI_MW_CFG, 4, 2⟩
def SPI_MW_CFG.DIV : Fld := ⟨SPI_MW_CFG, 8, 8⟩
def SPI_MW_CFG.PAGE : Fld := ⟨SPI_MW_CFG, 16, 3⟩
def SPI_MW_CFG.ERR_EN : Fld := ⟨SPI_MW_CFG, 19, 1⟩
def SPI_MW_CFG.BUSY_BIT : Fld := ⟨SPI_MW_CFG, 20, 3⟩
def SPI_MW_CFG.BUSY_POL : Fld := ⟨SPI_MW_CFG, 23, 1⟩
def SPI_MW_CFG.ERR_BIT : Fld := ⟨SPI_MW_CFG, 24, 3⟩
def SPI_MW_OPS : Nat := 0x10C024
def SPI_MW_OPS.RD : Fld := ⟨SPI_MW_OPS, 0, 8⟩
def SPI_MW_OPS.WR : Fld := ⟨SPI_MW_OPS, 8, 8⟩
def SPI_MW_OPS.WREN : Fld := ⟨SPI_MW_OPS, 16, 8⟩
def SPI_MW_OPS.RDSR : Fld := ⟨SPI_MW_OPS, 24, 8⟩
def SPI_MW_FMT : Nat := 0x10C028
def SPI_MW_FMT.CMD_LANE : Fld := ⟨SPI_MW_FMT, 0, 2⟩
def SPI_MW_FMT.ADDR_LANE : Fld := ⟨SPI_MW_FMT, 2, 2⟩
def SPI_MW_FMT.RD_LANE : Fld := ⟨SPI_MW_FMT, 4, 2⟩
def SPI_MW_FMT.RD_DUMMY : Fld := ⟨SPI_MW_FMT, 8, 6⟩
def SPI_MW_FMT.WR_LANE : Fld := ⟨SPI_MW_FMT, 16, 2⟩
def SPI_MW_BASE : Nat := 0x10C02C
def SPI_MW_BASE.BASE : Fld := ⟨SPI_MW_BASE, 11, 13⟩
def SPI_MW_STAT : Nat := 0x10C030
def SPI_MW_STAT.BUSY : Fld := ⟨SPI_MW_STAT, 0, 1⟩
def SPI_MW_STAT.DONE : Fld := ⟨SPI_MW_STAT, 1, 1⟩
def SPI_MW_STAT.LINE_VALID : Fld := ⟨SPI_MW_STAT, 2, 1⟩
def SPI_MW_STAT.ERR : Fld := ⟨SPI_MW_STAT, 4, 3⟩
def SPI_MW_STAT.FAIL_ADDR : Fld := ⟨SPI_MW_STAT, 8, 24⟩
def SPI_MW_TMO : Nat := 0x10C034
def SPI_MW_TMO.POLL_GAP : Fld := ⟨SPI_MW_TMO, 0, 8⟩
def SPI_MW_TMO.TMO : Fld := ⟨SPI_MW_TMO, 16, 16⟩
def SPI_MW_RAW : Nat := 0x10C038
def SPI_MW_RAW.OP : Fld := ⟨SPI_MW_RAW, 0, 8⟩
def SPI_MW_RAW.ADDR_EN : Fld := ⟨SPI_MW_RAW, 8, 1⟩
def SPI_MW_RAW.WREN_EN : Fld := ⟨SPI_MW_RAW, 9, 1⟩
def SPI_MW_RAW.POLL : Fld := ⟨SPI_MW_RAW, 10, 1⟩
def SPI_MW_RAW.GO : Fld := ⟨SPI_MW_RAW, 11, 1⟩
def SPI_MW_RAWADDR : Nat := 0x10C03C
def SPI_MW_RAWADDR.ADDR : Fld := ⟨SPI_MW_RAWADDR, 0, 24⟩

/-! MEM (R526) -/

def MEM_STAT : Nat := 0x10D000
def MEM_STAT.RET : Fld := ⟨MEM_STAT, 0, 17⟩
def MEM_FAULT : Nat := 0x10D004
def MEM_FAULT.FLAGS : Fld := ⟨MEM_FAULT, 0, 5⟩
def MEM_FAULT_CODE : Nat := 0x10D008
def MEM_FAULT_CODE.LAST : Fld := ⟨MEM_FAULT_CODE, 0, 16⟩
def MEM_FAULT_CODE.BANK : Fld := ⟨MEM_FAULT_CODE, 16, 5⟩
def MEM_FAULT_CODE.COUNT : Fld := ⟨MEM_FAULT_CODE, 21, 11⟩
def MEM_TEST_CTRL : Nat := 0x10D00C
def MEM_TEST_CTRL.EN : Fld := ⟨MEM_TEST_CTRL, 0, 1⟩
def MEM_TEST_CTRL.PERIOD : Fld := ⟨MEM_TEST_CTRL, 8, 8⟩
def MEM_AT_ADDR : Nat := 0x10D010
def MEM_AT_ADDR.ADDR : Fld := ⟨MEM_AT_ADDR, 0, 24⟩
def MEM_AT_SET : Nat := 0x10D014
def MEM_AT_SET.MASK : Fld := ⟨MEM_AT_SET, 0, 32⟩
def MEM_AT_CLR : Nat := 0x10D018
def MEM_AT_CLR.MASK : Fld := ⟨MEM_AT_CLR, 0, 32⟩
def MEM_AT_OLD : Nat := 0x10D01C
def MEM_AT_OLD.OLD : Fld := ⟨MEM_AT_OLD, 0, 32⟩
def MEM_MB_CNT : Nat := 0x10D020
def MEM_MB_CNT.A_WR : Fld := ⟨MEM_MB_CNT, 0, 16⟩
def MEM_MB_CNT.B_WR : Fld := ⟨MEM_MB_CNT, 16, 16⟩
def MEM_B_OWN (n : Nat) : Nat := 0x10D100 + 0x10 * n
def MEM_B_OWN.OWNER (n : Nat) : Fld := ⟨(MEM_B_OWN n), 0, 4⟩
def MEM_B_OWN.RETAIN (n : Nat) : Fld := ⟨(MEM_B_OWN n), 8, 1⟩
def MEM_B_OWN.TEST_EN (n : Nat) : Fld := ⟨(MEM_B_OWN n), 9, 1⟩
def MEM_B_OWN.IMAGE (n : Nat) : Fld := ⟨(MEM_B_OWN n), 10, 1⟩
def MEM_B_OWN.NEXT (n : Nat) : Fld := ⟨(MEM_B_OWN n), 16, 4⟩
def MEM_B_STAT (n : Nat) : Nat := 0x10D104 + 0x10 * n
def MEM_B_STAT.PWR (n : Nat) : Fld := ⟨(MEM_B_STAT n), 0, 2⟩
def MEM_B_STAT.TEST_BUSY (n : Nat) : Fld := ⟨(MEM_B_STAT n), 2, 1⟩
def MEM_B_STAT.SAVE_HELD (n : Nat) : Fld := ⟨(MEM_B_STAT n), 3, 1⟩
def MEM_B_STAT.LENT (n : Nat) : Fld := ⟨(MEM_B_STAT n), 4, 1⟩
def MEM_B_STAT.REPAIR_PEND (n : Nat) : Fld := ⟨(MEM_B_STAT n), 5, 1⟩
def MEM_B_STAT.SPARES_USED (n : Nat) : Fld := ⟨(MEM_B_STAT n), 6, 2⟩
def MEM_B_STAT.TEST_ROW (n : Nat) : Fld := ⟨(MEM_B_STAT n), 8, 8⟩
def MEM_B_STAT.PEND_ROW (n : Nat) : Fld := ⟨(MEM_B_STAT n), 16, 8⟩
def MEM_B_ECC (n : Nat) : Nat := 0x10D108 + 0x10 * n
def MEM_B_ECC.CORR (n : Nat) : Fld := ⟨(MEM_B_ECC n), 0, 12⟩
def MEM_B_ECC.UNCORR (n : Nat) : Fld := ⟨(MEM_B_ECC n), 12, 4⟩
def MEM_B_ECC.LAST_ROW (n : Nat) : Fld := ⟨(MEM_B_ECC n), 16, 8⟩
def MEM_B_ECC.ABORTS (n : Nat) : Fld := ⟨(MEM_B_ECC n), 24, 8⟩
def MEM_B_REPAIR (n : Nat) : Nat := 0x10D10C + 0x10 * n
def MEM_B_REPAIR.ROW0 (n : Nat) : Fld := ⟨(MEM_B_REPAIR n), 0, 8⟩
def MEM_B_REPAIR.USED0 (n : Nat) : Fld := ⟨(MEM_B_REPAIR n), 8, 1⟩
def MEM_B_REPAIR.ROW1 (n : Nat) : Fld := ⟨(MEM_B_REPAIR n), 16, 8⟩
def MEM_B_REPAIR.USED1 (n : Nat) : Fld := ⟨(MEM_B_REPAIR n), 24, 1⟩

/-! INT (R553) -/

def INT_STAT : Nat := 0x10E000
def INT_STAT.PARKED : Fld := ⟨INT_STAT, 0, 8⟩
def INT_STAT.WINDOW : Fld := ⟨INT_STAT, 8, 1⟩
def INT_STAT.FAULT_N : Fld := ⟨INT_STAT, 9, 1⟩
def INT_STAT.IRQ_N : Fld := ⟨INT_STAT, 10, 1⟩
def INT_STAT.REC_EVT : Fld := ⟨INT_STAT, 11, 1⟩
def INT_STAT.PARKED_AX : Fld := ⟨INT_STAT, 12, 12⟩
def INT_FAULT : Nat := 0x10E004
def INT_FAULT.FLAGS : Fld := ⟨INT_FAULT, 0, 9⟩
def INT_FAULT_CODE : Nat := 0x10E008
def INT_FAULT_CODE.LAST : Fld := ⟨INT_FAULT_CODE, 0, 16⟩
def INT_FAULT_CODE.COUNT : Fld := ⟨INT_FAULT_CODE, 16, 16⟩
def INT_REC : Nat := 0x10E00C
def INT_REC.ENGINE : Fld := ⟨INT_REC, 0, 3⟩
def INT_REC.VALID : Fld := ⟨INT_REC, 3, 1⟩
def INT_REC.PHASE : Fld := ⟨INT_REC, 4, 3⟩
def INT_REC.WFRAMES : Fld := ⟨INT_REC, 8, 3⟩
def INT_REC.AXES : Fld := ⟨INT_REC, 12, 12⟩
def INT_REC_CNT : Nat := 0x10E010
def INT_REC_CNT.TAKEOVERS : Fld := ⟨INT_REC_CNT, 0, 8⟩
def INT_REC_CNT.INVISIBLE : Fld := ⟨INT_REC_CNT, 8, 8⟩
def INT_REC_CNT.VISIBLE : Fld := ⟨INT_REC_CNT, 16, 8⟩
def INT_REC_CNT.PARKS : Fld := ⟨INT_REC_CNT, 24, 8⟩
def INT_CHK_CNT : Nat := 0x10E014
def INT_CHK_CNT.MIRROR : Fld := ⟨INT_CHK_CNT, 0, 16⟩
def INT_DEG_CAUSE : Nat := 0x10E018
def INT_DEG_CAUSE.CAUSE : Fld := ⟨INT_DEG_CAUSE, 0, 8⟩
def INT_SAFE_CAUSE : Nat := 0x10E01C
def INT_SAFE_CAUSE.CAUSE : Fld := ⟨INT_SAFE_CAUSE, 0, 8⟩
def INT_AXCAUSE_LO : Nat := 0x10E020
def INT_AXCAUSE_LO.CAUSE : Fld := ⟨INT_AXCAUSE_LO, 0, 32⟩
def INT_AXCAUSE_HI : Nat := 0x10E024
def INT_AXCAUSE_HI.CAUSE : Fld := ⟨INT_AXCAUSE_HI, 0, 16⟩
def INT_AX_SAFE : Nat := 0x10E028
def INT_AX_SAFE.AX : Fld := ⟨INT_AX_SAFE, 0, 12⟩
def INT_AX_RELEASE : Nat := 0x10E02C
def INT_AX_RELEASE.AX : Fld := ⟨INT_AX_RELEASE, 0, 12⟩
def INT_IRQ_SRC : Nat := 0x10E030
def INT_IRQ_SRC.BLK : Fld := ⟨INT_IRQ_SRC, 0, 20⟩
def INT_IRQ_SRC.CAN : Fld := ⟨INT_IRQ_SRC, 20, 1⟩
def INT_IRQ_SRC.CAN_HPB : Fld := ⟨INT_IRQ_SRC, 21, 1⟩
def INT_IRQ_SRC.MW_DONE : Fld := ⟨INT_IRQ_SRC, 22, 1⟩
def INT_IRQ_SRC.INJ_DONE : Fld := ⟨INT_IRQ_SRC, 23, 1⟩
def INT_IRQ_SRC.REC : Fld := ⟨INT_IRQ_SRC, 24, 1⟩
def INT_IRQ_EN : Nat := 0x10E034
def INT_IRQ_EN.BLK : Fld := ⟨INT_IRQ_EN, 0, 20⟩
def INT_IRQ_EN.CAN : Fld := ⟨INT_IRQ_EN, 20, 1⟩
def INT_IRQ_EN.CAN_HPB : Fld := ⟨INT_IRQ_EN, 21, 1⟩
def INT_IRQ_EN.MW_DONE : Fld := ⟨INT_IRQ_EN, 22, 1⟩
def INT_IRQ_EN.INJ_DONE : Fld := ⟨INT_IRQ_EN, 23, 1⟩
def INT_IRQ_EN.REC : Fld := ⟨INT_IRQ_EN, 24, 1⟩
def INT_FLT_EN : Nat := 0x10E038
def INT_FLT_EN.BLK : Fld := ⟨INT_FLT_EN, 0, 20⟩
def INT_FLT_EN.DEG : Fld := ⟨INT_FLT_EN, 24, 1⟩
def INT_EVT_CNT : Nat := 0x10E03C
def INT_EVT_CNT.TOTAL : Fld := ⟨INT_EVT_CNT, 0, 16⟩
def INT_EVT_CNT.NEWEST : Fld := ⟨INT_EVT_CNT, 16, 3⟩
def INT_EVT_A (n : Nat) : Nat := 0x10E100 + 0x8 * n
def INT_EVT_A.EVENT (n : Nat) : Fld := ⟨(INT_EVT_A n), 0, 8⟩
def INT_EVT_A.ENGINE (n : Nat) : Fld := ⟨(INT_EVT_A n), 8, 4⟩
def INT_EVT_A.AXES (n : Nat) : Fld := ⟨(INT_EVT_A n), 12, 12⟩
def INT_EVT_A.CAUSE (n : Nat) : Fld := ⟨(INT_EVT_A n), 24, 8⟩
def INT_EVT_T (n : Nat) : Nat := 0x10E104 + 0x8 * n

/-! MGT (R579) -/

def MGT_STAT : Nat := 0x10F000
def MGT_STAT.MC_OK : Fld := ⟨MGT_STAT, 0, 1⟩
def MGT_STAT.FLASH_BUSY : Fld := ⟨MGT_STAT, 1, 1⟩
def MGT_STAT.QUEUE_FULL : Fld := ⟨MGT_STAT, 2, 1⟩
def MGT_STAT.FALLBACK_PEND : Fld := ⟨MGT_STAT, 3, 1⟩
def MGT_STAT.QUEUE : Fld := ⟨MGT_STAT, 8, 8⟩
def MGT_STAT.MC_RESETS : Fld := ⟨MGT_STAT, 16, 8⟩
def MGT_FAULT : Nat := 0x10F004
def MGT_FAULT.FLAGS : Fld := ⟨MGT_FAULT, 0, 8⟩
def MGT_FAULT.FLS : Fld := ⟨MGT_FAULT, 16, 5⟩
def MGT_FAULT_CODE : Nat := 0x10F008
def MGT_FAULT_CODE.LAST : Fld := ⟨MGT_FAULT_CODE, 0, 16⟩
def MGT_FAULT_CODE.COUNT : Fld := ⟨MGT_FAULT_CODE, 16, 16⟩
def MGT_FW : Nat := 0x10F00C
def MGT_FW.ACTIVE_SLOT : Fld := ⟨MGT_FW, 0, 1⟩
def MGT_FW.TRIAL : Fld := ⟨MGT_FW, 1, 1⟩
def MGT_FW.VERSION : Fld := ⟨MGT_FW, 16, 16⟩
def MGT_FW_SLOT_A : Nat := 0x10F010
def MGT_FW_SLOT_A.STATE : Fld := ⟨MGT_FW_SLOT_A, 0, 3⟩
def MGT_FW_SLOT_A.VERSION : Fld := ⟨MGT_FW_SLOT_A, 16, 16⟩
def MGT_FW_SLOT_B : Nat := 0x10F014
def MGT_FW_SLOT_B.STATE : Fld := ⟨MGT_FW_SLOT_B, 0, 3⟩
def MGT_FW_SLOT_B.VERSION : Fld := ⟨MGT_FW_SLOT_B, 16, 16⟩
def MGT_UPD_CTRL : Nat := 0x10F018
def MGT_UPD_CTRL.CMD : Fld := ⟨MGT_UPD_CTRL, 0, 3⟩
def MGT_UPD_CTRL.TARGET : Fld := ⟨MGT_UPD_CTRL, 4, 2⟩
def MGT_UPD_STAT : Nat := 0x10F01C
def MGT_UPD_STAT.LAST_CMD : Fld := ⟨MGT_UPD_STAT, 0, 3⟩
def MGT_UPD_STAT.BUSY : Fld := ⟨MGT_UPD_STAT, 3, 1⟩
def MGT_UPD_STAT.TARGET : Fld := ⟨MGT_UPD_STAT, 4, 2⟩
def MGT_UPD_STAT.FREE : Fld := ⟨MGT_UPD_STAT, 6, 2⟩
def MGT_UPD_STAT.RESULT : Fld := ⟨MGT_UPD_STAT, 8, 4⟩
def MGT_UPD_STAT.REASON : Fld := ⟨MGT_UPD_STAT, 12, 4⟩
def MGT_UPD_STAT.PAGES : Fld := ⟨MGT_UPD_STAT, 16, 16⟩
def MGT_UPD_ADDR : Nat := 0x10F020
def MGT_UPD_ADDR.ADDR : Fld := ⟨MGT_UPD_ADDR, 0, 19⟩
def MGT_UPD_DATA : Nat := 0x10F024
def MGT_UPD_DATA.DATA : Fld := ⟨MGT_UPD_DATA, 0, 32⟩
def MGT_LOG_SEQ : Nat := 0x10F028
def MGT_LOG_SEQ.NEWEST : Fld := ⟨MGT_LOG_SEQ, 0, 32⟩
def MGT_LOG_STAT : Nat := 0x10F02C
def MGT_LOG_STAT.HELD : Fld := ⟨MGT_LOG_STAT, 0, 11⟩
def MGT_LOG_STAT.SECTOR : Fld := ⟨MGT_LOG_STAT, 16, 4⟩
def MGT_LOG_STAT.DROPPED : Fld := ⟨MGT_LOG_STAT, 24, 8⟩
def MGT_LOG_SEL : Nat := 0x10F030
def MGT_LOG_SEL.BACK : Fld := ⟨MGT_LOG_SEL, 0, 11⟩
def MGT_LOG_W (n : Nat) : Nat := 0x10F034 + 0x4 * n
def MGT_LOG_W.WORD (n : Nat) : Fld := ⟨(MGT_LOG_W n), 0, 32⟩
def MGT_POLICY : Nat := 0x10F054
def MGT_POLICY.FALLBACK : Fld := ⟨MGT_POLICY, 0, 1⟩
def MGT_POLICY.ST_BOOT : Fld := ⟨MGT_POLICY, 1, 1⟩
def MGT_POLICY.FW_TRIAL : Fld := ⟨MGT_POLICY, 8, 8⟩
def MGT_SVC_PERMIT : Nat := 0x10F058
def MGT_SVC_PERMIT.AX : Fld := ⟨MGT_SVC_PERMIT, 0, 12⟩
def MGT_FWIN : Nat := 0x10F05C
def MGT_FWIN.PAGE : Fld := ⟨MGT_FWIN, 0, 1⟩

/-! CHN (R498) -/

def CHN_CTRL : Nat := 0x110000
def CHN_CTRL.EN : Fld := ⟨CHN_CTRL, 0, 1⟩
def CHN_CTRL.CLAP_HOLD : Fld := ⟨CHN_CTRL, 8, 8⟩
def CHN_CFG : Nat := 0x110004
def CHN_CFG.NDEV : Fld := ⟨CHN_CFG, 0, 3⟩
def CHN_CFG.POS : Fld := ⟨CHN_CFG, 4, 3⟩
def CHN_CFG.WSEL : Fld := ⟨CHN_CFG, 7, 1⟩
def CHN_CFG.DIV : Fld := ⟨CHN_CFG, 8, 2⟩
def CHN_CFG.ADJ : Fld := ⟨CHN_CFG, 10, 6⟩
def CHN_CFG.WIN_OFS : Fld := ⟨CHN_CFG, 16, 10⟩
def CHN_CFG.DLY : Fld := ⟨CHN_CFG, 26, 4⟩
def CHN_PUB : Nat := 0x110008
def CHN_PUB.SLOT : Fld := ⟨CHN_PUB, 0, 16⟩
def CHN_STAT : Nat := 0x11000C
def CHN_STAT.MASTER : Fld := ⟨CHN_STAT, 0, 1⟩
def CHN_STAT.STATE : Fld := ⟨CHN_STAT, 1, 3⟩
def CHN_STAT.REC_OK : Fld := ⟨CHN_STAT, 8, 8⟩
def CHN_STAT.SEEN : Fld := ⟨CHN_STAT, 16, 8⟩
def CHN_STAT.TX_OFF : Fld := ⟨CHN_STAT, 24, 1⟩
def CHN_PHASE : Nat := 0x110010
def CHN_PHASE.E : Fld := ⟨CHN_PHASE, 0, 16⟩
def CHN_PHASE.APPLIED : Fld := ⟨CHN_PHASE, 16, 16⟩
def CHN_CNT : Nat := 0x110014
def CHN_CNT.CRC : Fld := ⟨CHN_CNT, 0, 16⟩
def CHN_CNT.ABORT : Fld := ⟨CHN_CNT, 16, 8⟩
def CHN_CNT.ABSENT : Fld := ⟨CHN_CNT, 24, 8⟩
def CHN_FAULT : Nat := 0x110018
def CHN_FAULT.FLAGS : Fld := ⟨CHN_FAULT, 0, 9⟩
def CHN_FAULT_CODE : Nat := 0x11001C
def CHN_FAULT_CODE.LAST : Fld := ⟨CHN_FAULT_CODE, 0, 16⟩
def CHN_FAULT_CODE.COUNT : Fld := ⟨CHN_FAULT_CODE, 16, 16⟩
def CHN_RMAP (n : Nat) : Nat := 0x110020 + 0x4 * n
def CHN_RMAP.DEV2r (n : Nat) : Fld := ⟨(CHN_RMAP n), 0, 16⟩
def CHN_RMAP.DEV2r1 (n : Nat) : Fld := ⟨(CHN_RMAP n), 16, 16⟩

/-! GPM (R384) -/

def GPM_LEVEL : Nat := 0x111000
def GPM_LEVEL.LEVEL : Fld := ⟨GPM_LEVEL, 0, 15⟩
def GPM_OUT : Nat := 0x111004
def GPM_OUT.OUT : Fld := ⟨GPM_OUT, 0, 15⟩
def GPM_FAULT : Nat := 0x111008
def GPM_FAULT.OUT_MISMATCH : Fld := ⟨GPM_FAULT, 0, 1⟩
def GPM_FAULT_CODE : Nat := 0x11100C
def GPM_FAULT_CODE.LAST : Fld := ⟨GPM_FAULT_CODE, 0, 16⟩
def GPM_FAULT_CODE.COUNT : Fld := ⟨GPM_FAULT_CODE, 16, 16⟩
def GPM_PIN (n : Nat) : Nat := 0x111100 + 0x4 * n
def GPM_PIN.ENTRY (n : Nat) : Fld := ⟨(GPM_PIN n), 0, 24⟩

/-- The rows of SYS (R601). -/
def regRowsSYS : List RegRow := [
  ⟨0x100000, 0x0, 1, 0x11216, 0, 0, 0, 0, 0⟩,
  ⟨0x100004, 0x0, 1, 0x2, 0, 0, 0, 0, 0⟩,
  ⟨0x100008, 0x0, 1, 0, 0, 0, 0, 0, 0xFF07⟩,
  ⟨0x10000C, 0x0, 1, 0, 0, 0, 0, 0, 0⟩,
  ⟨0x100010, 0x0, 1, 0, 0, 0, 0, 0, 0⟩,
  ⟨0x100014, 0x0, 1, 0, 0x1, 0, 0, 0, 0⟩,
  ⟨0x100018, 0x0, 1, 0, 0xFFFFFF, 0, 0, 0, 0⟩,
  ⟨0x10001C, 0x0, 1, 0, 0, 0, 0, 0, 0⟩,
  ⟨0x100020, 0x0, 1, 0, 0, 0, 0, 0x7F, 0⟩,
  ⟨0x100024, 0x0, 1, 0, 0, 0, 0, 0, 0⟩]

/-- The rows of CLK (R65). -/
def regRowsCLK : List RegRow := [
  ⟨0x101000, 0x0, 1, 0, 0x1, 0, 0, 0, 0x6⟩,
  ⟨0x101004, 0x0, 1, 0xF8100, 0, 0, 0, 0x60, 0⟩,
  ⟨0x101008, 0x0, 1, 0, 0, 0, 0, 0x1FF, 0⟩,
  ⟨0x10100C, 0x0, 1, 0, 0, 0, 0, 0, 0⟩,
  ⟨0x101010, 0x0, 1, 0, 0, 0, 0, 0, 0⟩,
  ⟨0x101014, 0x0, 1, 0, 0, 0, 0, 0, 0⟩,
  ⟨0x101018, 0x0, 1, 0x7D007D0, 0, 0x3FFF, 0, 0, 0⟩,
  ⟨0x10101C, 0x0, 1, 0, 0, 0, 0, 0, 0⟩,
  ⟨0x101020, 0x0, 1, 0, 0, 0, 0, 0, 0⟩,
  ⟨0x101024, 0x0, 1, 0, 0, 0, 0, 0, 0⟩,
  ⟨0x101028, 0x0, 1, 0, 0, 0, 0, 0, 0⟩,
  ⟨0x10102C, 0x0, 1, 0, 0, 0, 0, 0, 0⟩,
  ⟨0x101030, 0x0, 1, 0x9896800, 0, 0, 0, 0, 0⟩,
  ⟨0x101034, 0x0, 1, 0, 0, 0, 0, 0, 0⟩,
  ⟨0x101038, 0x0, 1, 0, 0, 0, 0, 0, 0⟩]

/-- The rows of REEL (R108). -/
def regRowsREEL : List RegRow := [
  ⟨0x102000, 0x0, 1, 0, 0, 0, 0, 0, 0x7⟩,
  ⟨0x102004, 0x0, 1, 0, 0, 0, 0, 0, 0⟩,
  ⟨0x102008, 0x0, 1, 0, 0, 0, 0, 0, 0⟩,
  ⟨0x10200C, 0x0, 1, 0, 0, 0, 0, 0, 0⟩,
  ⟨0x102010, 0x0, 1, 0, 0xFFFF0007, 0, 0, 0, 0⟩,
  ⟨0x102014, 0x0, 1, 0, 0xFFFFFFFF, 0, 0, 0, 0⟩,
  ⟨0x102018, 0x0, 1, 0, 0, 0, 0, 0, 0⟩,
  ⟨0x10201C, 0x0, 1, 0, 0, 0, 0, 0, 0⟩,
  ⟨0x102020, 0x0, 1, 0, 0, 0, 0, 0, 0⟩,
  ⟨0x102024, 0x0, 1, 0, 0, 0, 0, 0, 0⟩,
  ⟨0x102028, 0x0, 1, 0, 0, 0, 0, 0, 0⟩,
  ⟨0x10202C, 0x0, 1, 0, 0, 0, 0, 0, 0⟩,
  ⟨0x102030, 0x0, 1, 0, 0, 0, 0, 0, 0⟩,
  ⟨0x102034, 0x0, 1, 0, 0, 0, 0, 0xFFFF, 0⟩,
  ⟨0x102038, 0x0, 1, 0, 0, 0, 0, 0, 0⟩]

/-- The rows of ENG (R137). -/
def regRowsENG : List RegRow := [
  ⟨0x103000, 0x0, 1, 0, 0, 0, 0, 0, 0⟩,
  ⟨0x103004, 0x0, 1, 0, 0, 0, 0, 0, 0xFF01FF⟩,
  ⟨0x103008, 0x0, 1, 0, 0, 0, 0, 0x7FF, 0⟩,
  ⟨0x10300C, 0x0, 1, 0, 0, 0, 0, 0, 0⟩,
  ⟨0x103010, 0x0, 1, 0, 0, 0, 0, 0, 0⟩,
  ⟨0x103014, 0x0, 1, 0, 0, 0, 0, 0, 0⟩,
  ⟨0x103018, 0x0, 1, 0, 0, 0, 0, 0, 0⟩,
  ⟨0x10301C, 0x0, 1, 0, 0, 0, 0, 0, 0⟩,
  ⟨0x103100, 0x20, 9, 0, 0, 0, 0, 0, 0⟩,
  ⟨0x103104, 0x20, 9, 0, 0, 0, 0, 0, 0⟩,
  ⟨0x103108, 0x20, 9, 0, 0, 0, 0, 0, 0⟩,
  ⟨0x10310C, 0x20, 9, 0, 0, 0, 0, 0, 0⟩,
  ⟨0x103110, 0x20, 9, 0, 0, 0, 0, 0, 0⟩,
  ⟨0x103114, 0x20, 9, 0, 0, 0, 0, 0, 0⟩]

/-- The rows of AX (R212). -/
def regRowsAX : List RegRow := [
  ⟨0x104000, 0x100, 12, 0, 0x3F, 0, 0, 0, 0⟩,
  ⟨0x104004, 0x100, 12, 0, 0, 0, 0, 0x100, 0⟩,
  ⟨0x104008, 0x100, 12, 0, 0xFFFFFFFF, 0, 0, 0, 0⟩,
  ⟨0x10400C, 0x100, 12, 0, 0xFFFFFFFF, 0, 0, 0, 0⟩,
  ⟨0x104010, 0x100, 12, 0, 0, 0, 0, 0, 0⟩,
  ⟨0x104014, 0x100, 12, 0, 0, 0, 0, 0, 0⟩,
  ⟨0x104018, 0x100, 12, 0, 0, 0, 0, 0, 0⟩,
  ⟨0x10401C, 0x100, 12, 0, 0, 0, 0, 0, 0⟩,
  ⟨0x104020, 0x100, 12, 0, 0xFFFFFFFF, 0, 0, 0, 0⟩,
  ⟨0x104024, 0x100, 12, 0, 0xFFFFFFFF, 0, 0, 0, 0⟩,
  ⟨0x104028, 0x100, 12, 0, 0xFFFFFFFF, 0, 0, 0, 0⟩,
  ⟨0x10402C, 0x100, 12, 0, 0xFFFFFFFF, 0, 0, 0, 0⟩,
  ⟨0x104030, 0x100, 12, 0, 0xFFFFFFFF, 0, 0, 0, 0⟩,
  ⟨0x104034, 0x100, 12, 0, 0xFFFFFFFF, 0, 0, 0, 0⟩,
  ⟨0x104038, 0x100, 12, 0, 0xFFFFFFFF, 0, 0, 0, 0⟩,
  ⟨0x10403C, 0x100, 12, 0, 0xFFFFFFFF, 0, 0, 0, 0⟩,
  ⟨0x104040, 0x100, 12, 0, 0xFFF, 0, 0, 0, 0⟩,
  ⟨0x104044, 0x100, 12, 0, 0xFFF, 0, 0, 0, 0⟩,
  ⟨0x104048, 0x100, 12, 0x1, 0x3FFFF, 0, 0, 0, 0⟩,
  ⟨0x10404C, 0x100, 12, 0x80000000, 0xFFFFFFFF, 0, 0, 0, 0⟩,
  ⟨0x104050, 0x100, 12, 0x7FFFFFFF, 0xFFFFFFFF, 0, 0, 0, 0⟩,
  ⟨0x104054, 0x100, 12, 0, 0x1, 0, 0, 0, 0⟩,
  ⟨0x104058, 0x100, 12, 0, 0, 0, 0, 0, 0⟩,
  ⟨0x10405C, 0x100, 12, 0, 0, 0, 0, 0, 0xFFFFFFFF⟩,
  ⟨0x104060, 0x100, 12, 0, 0, 0, 0, 0xF, 0⟩,
  ⟨0x104064, 0x100, 12, 0, 0, 0, 0, 0, 0⟩]

/-- The rows of CAM (R248). -/
def regRowsCAM : List RegRow := [
  ⟨0x105000, 0x0, 1, 0, 0, 0, 0, 0, 0⟩,
  ⟨0x105004, 0x0, 1, 0, 0, 0, 0, 0x1F, 0⟩,
  ⟨0x105008, 0x0, 1, 0, 0, 0, 0, 0, 0⟩,
  ⟨0x105100, 0x40, 12, 0, 0x3F, 0, 0, 0, 0⟩,
  ⟨0x105104, 0x40, 12, 0, 0, 0x17F3, 0, 0, 0⟩,
  ⟨0x105108, 0x40, 12, 0, 0, 0, 0, 0, 0⟩,
  ⟨0x10510C, 0x40, 12, 0, 0, 0, 0, 0x30, 0⟩,
  ⟨0x105110, 0x40, 12, 0, 0, 0, 0, 0, 0⟩,
  ⟨0x105114, 0x40, 12, 0, 0, 0, 0, 0, 0⟩,
  ⟨0x105118, 0x40, 12, 0, 0, 0, 0, 0, 0⟩,
  ⟨0x10511C, 0x40, 12, 0, 0xFFFFFFFF, 0, 0, 0, 0⟩,
  ⟨0x105120, 0x40, 12, 0, 0xFFFFFFFF, 0, 0, 0, 0⟩,
  ⟨0x105124, 0x40, 12, 0x40, 0xFFFF, 0, 0, 0, 0⟩,
  ⟨0x105128, 0x40, 12, 0x400, 0x7FF, 0, 0, 0, 0⟩,
  ⟨0x10512C, 0x40, 12, 0x4, 0xF, 0, 0, 0, 0⟩,
  ⟨0x105400, 0x10, 4, 0x2, 0, 0xFF, 0, 0, 0x100⟩,
  ⟨0x105404, 0x10, 4, 0, 0, 0, 0, 0, 0⟩,
  ⟨0x105408, 0x10, 4, 0, 0, 0, 0, 0, 0⟩,
  ⟨0x10540C, 0x10, 4, 0, 0, 0, 0, 0, 0⟩]

/-- The rows of MOD (R283). -/
def regRowsMOD : List RegRow := [
  ⟨0x106000, 0x0, 1, 0, 0x1, 0, 0, 0, 0⟩,
  ⟨0x106004, 0x0, 1, 0, 0, 0, 0, 0, 0⟩,
  ⟨0x106008, 0x0, 1, 0, 0, 0, 0, 0, 0x10FFF⟩,
  ⟨0x10600C, 0x0, 1, 0, 0, 0, 0, 0, 0⟩,
  ⟨0x106010, 0x0, 1, 0, 0, 0, 0, 0xFFF, 0⟩,
  ⟨0x106014, 0x0, 1, 0, 0, 0, 0, 0, 0⟩,
  ⟨0x106018, 0x0, 1, 0, 0, 0, 0, 0, 0⟩,
  ⟨0x106100, 0x40, 12, 0, 0, 0, 0xFF5F, 0, 0⟩,
  ⟨0x106104, 0x40, 12, 0x1F40, 0, 0, 0xFFFF, 0, 0⟩,
  ⟨0x106108, 0x40, 12, 0x1F00, 0, 0, 0xFFFF, 0, 0⟩,
  ⟨0x10610C, 0x40, 12, 0x1F00, 0, 0, 0xFFFF, 0, 0⟩,
  ⟨0x106110, 0x40, 12, 0x400200, 0, 0, 0xFFFFFFFF, 0, 0⟩,
  ⟨0x106114, 0x40, 12, 0x400, 0, 0, 0xFFFFFFFF, 0, 0⟩,
  ⟨0x106118, 0x40, 12, 0x40, 0, 0, 0x3FF, 0, 0⟩,
  ⟨0x10611C, 0x40, 12, 0, 0, 0xFFFFFFFF, 0, 0, 0⟩,
  ⟨0x106120, 0x40, 12, 0, 0, 0xFFFFFFFF, 0, 0, 0⟩,
  ⟨0x106124, 0x40, 12, 0, 0, 0, 0, 0, 0⟩,
  ⟨0x106128, 0x40, 12, 0, 0, 0, 0, 0, 0⟩,
  ⟨0x10612C, 0x40, 12, 0, 0, 0, 0, 0, 0⟩,
  ⟨0x106130, 0x40, 12, 0x10, 0, 0, 0, 0x40, 0⟩,
  ⟨0x106134, 0x40, 12, 0, 0, 0, 0, 0, 0⟩,
  ⟨0x106138, 0x40, 12, 0, 0x1FF, 0, 0, 0, 0⟩,
  ⟨0x10613C, 0x40, 12, 0, 0, 0, 0, 0, 0⟩]

/-- The rows of PWR (R346). -/
def regRowsPWR : List RegRow := [
  ⟨0x107000, 0x0, 1, 0, 0x1, 0, 0, 0, 0⟩,
  ⟨0x107004, 0x0, 1, 0, 0, 0, 0, 0, 0⟩,
  ⟨0x107008, 0x0, 1, 0, 0, 0, 0, 0x7FFF, 0⟩,
  ⟨0x10700C, 0x0, 1, 0, 0, 0, 0, 0, 0⟩,
  ⟨0x107010, 0x0, 1, 0, 0, 0, 0, 0, 0⟩,
  ⟨0x107014, 0x0, 1, 0, 0xFFF, 0, 0, 0, 0x10000⟩,
  ⟨0x107018, 0x0, 1, 0, 0, 0, 0, 0, 0⟩,
  ⟨0x107100, 0x40, 12, 0, 0, 0x3F77FFF, 0, 0, 0⟩,
  ⟨0x107104, 0x40, 12, 0x3F3F, 0, 0x3F3F, 0, 0, 0⟩,
  ⟨0x107108, 0x40, 12, 0, 0, 0, 0, 0x7FFFF, 0⟩,
  ⟨0x10710C, 0x40, 12, 0, 0, 0, 0, 0, 0⟩,
  ⟨0x107110, 0x40, 12, 0, 0, 0, 0, 0, 0⟩,
  ⟨0x107114, 0x40, 12, 0, 0, 0, 0, 0, 0⟩,
  ⟨0x107118, 0x40, 12, 0, 0xFF, 0, 0, 0, 0⟩,
  ⟨0x10711C, 0x40, 12, 0, 0, 0, 0, 0, 0x1⟩]

/-- The rows of LAS (R314). -/
def regRowsLAS : List RegRow := [
  ⟨0x108000, 0x0, 1, 0, 0, 0, 0, 0, 0⟩,
  ⟨0x108004, 0x0, 1, 0, 0, 0, 0, 0x3F, 0⟩,
  ⟨0x108008, 0x0, 1, 0, 0, 0, 0, 0, 0⟩,
  ⟨0x108100, 0x80, 12, 0, 0xF, 0, 0, 0, 0⟩,
  ⟨0x108104, 0x80, 12, 0, 0, 0, 0, 0x18, 0⟩,
  ⟨0x108108, 0x80, 12, 0, 0, 0, 0, 0, 0⟩,
  ⟨0x10810C, 0x80, 12, 0, 0, 0, 0, 0, 0⟩,
  ⟨0x108110, 0x80, 12, 0, 0, 0, 0, 0, 0⟩,
  ⟨0x108114, 0x80, 12, 0, 0, 0, 0, 0, 0⟩,
  ⟨0x108118, 0x80, 12, 0, 0, 0, 0, 0, 0⟩,
  ⟨0x10811C, 0x80, 12, 0, 0, 0, 0, 0, 0⟩,
  ⟨0x108120, 0x80, 12, 0, 0, 0, 0, 0, 0⟩,
  ⟨0x108128, 0x80, 12, 0x10000, 0xFFFFFFFF, 0, 0, 0, 0⟩,
  ⟨0x10812C, 0x80, 12, 0x300, 0x7FF, 0, 0, 0, 0⟩,
  ⟨0x108130, 0x80, 12, 0x4, 0xFF, 0, 0, 0, 0⟩,
  ⟨0x108134, 0x80, 12, 0, 0x7, 0, 0, 0, 0⟩,
  ⟨0x108138, 0x80, 12, 0x100, 0x7FF, 0, 0, 0, 0⟩,
  ⟨0x10813C, 0x80, 12, 0x80800, 0xF0FFF, 0, 0, 0, 0⟩,
  ⟨0x108140, 0x80, 12, 0, 0x7, 0, 0, 0, 0⟩,
  ⟨0x108144, 0x80, 12, 0x20000, 0xFFFFFFFF, 0, 0, 0, 0⟩,
  ⟨0x108148, 0x80, 12, 0, 0xFFFFFFFF, 0, 0, 0, 0⟩,
  ⟨0x10814C, 0x80, 12, 0x400, 0xFFFFFFFF, 0, 0, 0, 0⟩,
  ⟨0x108150, 0x80, 12, 0x7FFFFFFF, 0xFFFFFFFF, 0, 0, 0, 0⟩,
  ⟨0x108154, 0x80, 12, 0x40, 0xFFFF, 0, 0, 0, 0⟩]

/-- The rows of POS (R383). -/
def regRowsPOS : List RegRow := [
  ⟨0x109000, 0x0, 1, 0, 0, 0, 0, 0, 0⟩,
  ⟨0x109004, 0x0, 1, 0, 0, 0, 0, 0x1FFF, 0⟩,
  ⟨0x109008, 0x0, 1, 0, 0, 0, 0, 0, 0⟩,
  ⟨0x10900C, 0x0, 1, 0, 0, 0, 0, 0, 0⟩,
  ⟨0x109010, 0x0, 1, 0, 0, 0, 0, 0xFFF0FFF, 0⟩,
  ⟨0x109014, 0x0, 1, 0, 0, 0, 0, 0, 0xFF⟩,
  ⟨0x109100, 0x40, 4, 0, 0, 0xFFF, 0, 0, 0⟩,
  ⟨0x109104, 0x40, 4, 0, 0, 0xFFFFF, 0, 0, 0⟩,
  ⟨0x109108, 0x40, 4, 0, 0, 0xFFFFFFFF, 0, 0, 0⟩,
  ⟨0x10910C, 0x40, 4, 0, 0, 0, 0, 0, 0⟩,
  ⟨0x109110, 0x40, 4, 0, 0, 0, 0, 0, 0⟩,
  ⟨0x109114, 0x40, 4, 0, 0, 0, 0, 0, 0⟩,
  ⟨0x109118, 0x40, 4, 0, 0, 0, 0, 0, 0⟩,
  ⟨0x10911C, 0x40, 4, 0, 0, 0, 0, 0, 0⟩,
  ⟨0x109120, 0x40, 4, 0, 0, 0, 0, 0x1E, 0⟩,
  ⟨0x109124, 0x40, 4, 0, 0, 0, 0, 0, 0⟩,
  ⟨0x109128, 0x40, 4, 0, 0, 0, 0, 0, 0xFFFFFFFF⟩,
  ⟨0x109200, 0x40, 4, 0x1E01B0, 0, 0x3FF3FFF, 0, 0, 0⟩,
  ⟨0x109204, 0x40, 4, 0xC8, 0, 0xFFF, 0, 0, 0⟩,
  ⟨0x109208, 0x40, 4, 0, 0, 0, 0, 0, 0⟩,
  ⟨0x10920C, 0x40, 4, 0, 0, 0, 0, 0, 0⟩,
  ⟨0x109210, 0x40, 4, 0, 0, 0, 0, 0, 0⟩,
  ⟨0x109214, 0x40, 4, 0, 0, 0, 0, 0x2000000, 0⟩,
  ⟨0x109218, 0x40, 4, 0, 0, 0, 0, 0x7E, 0⟩,
  ⟨0x10921C, 0x40, 4, 0, 0, 0, 0, 0, 0⟩,
  ⟨0x109300, 0x10, 12, 0, 0, 0xF, 0, 0, 0⟩,
  ⟨0x109304, 0x10, 12, 0x10001, 0, 0xFFFFFFFF, 0, 0, 0⟩,
  ⟨0x109308, 0x10, 12, 0, 0, 0xFFF, 0, 0, 0⟩,
  ⟨0x10930C, 0x10, 12, 0, 0, 0, 0, 0, 0⟩,
  ⟨0x109400, 0x10, 8, 0, 0x1F7F, 0, 0, 0, 0⟩,
  ⟨0x109404, 0x10, 8, 0, 0, 0, 0, 0, 0⟩,
  ⟨0x109408, 0x10, 8, 0, 0, 0, 0, 0, 0⟩,
  ⟨0x10940C, 0x10, 8, 0, 0, 0, 0, 0, 0⟩,
  ⟨0x109500, 0x10, 4, 0, 0xFFFF, 0, 0, 0, 0⟩,
  ⟨0x109504, 0x10, 4, 0, 0xFFFFFFFF, 0, 0, 0, 0⟩,
  ⟨0x109508, 0x10, 4, 0, 0xFFFFFFFF, 0, 0, 0, 0⟩,
  ⟨0x10950C, 0x10, 4, 0, 0, 0, 0, 0x2, 0⟩,
  ⟨0x109600, 0x10, 2, 0x800, 0, 0xFF7F, 0, 0, 0x80⟩,
  ⟨0x109604, 0x10, 2, 0x400, 0, 0xFFFF07FF, 0, 0, 0⟩,
  ⟨0x109608, 0x10, 2, 0, 0, 0, 0, 0, 0⟩,
  ⟨0x10960C, 0x10, 2, 0, 0, 0, 0, 0x10000, 0⟩]

/-- The rows of ADC (R407). -/
def regRowsADC : List RegRow := [
  ⟨0x10A000, 0x0, 1, 0x1, 0x1, 0, 0, 0, 0⟩,
  ⟨0x10A004, 0x0, 1, 0, 0, 0, 0, 0, 0⟩,
  ⟨0x10A008, 0x0, 1, 0, 0, 0, 0, 0x3F, 0⟩,
  ⟨0x10A00C, 0x0, 1, 0, 0, 0, 0, 0, 0⟩,
  ⟨0x10A010, 0x0, 1, 0, 0x733F, 0, 0, 0x40000, 0x10000⟩,
  ⟨0x10A014, 0x0, 1, 0, 0, 0, 0, 0, 0⟩,
  ⟨0x10A018, 0x0, 1, 0, 0, 0, 0, 0x3F0000, 0x3F⟩,
  ⟨0x10A100, 0x10, 6, 0x40000000, 0, 0, 0, 0, 0⟩,
  ⟨0x10A104, 0x10, 6, 0, 0, 0, 0, 0, 0⟩,
  ⟨0x10A200, 0x10, 56, 0x1, 0, 0x1F7, 0, 0, 0⟩,
  ⟨0x10A204, 0x10, 56, 0, 0, 0xFFFFFFFF, 0, 0, 0⟩,
  ⟨0x10A208, 0x10, 56, 0, 0, 0, 0, 0, 0⟩,
  ⟨0x10A20C, 0x10, 56, 0, 0, 0, 0, 0, 0⟩,
  ⟨0x10A600, 0x10, 4, 0, 0, 0xFFFFFFFF, 0, 0, 0⟩,
  ⟨0x10A604, 0x10, 4, 0, 0, 0, 0, 0, 0⟩,
  ⟨0x10A608, 0x10, 4, 0, 0, 0x1F0, 0, 0, 0⟩]

/-- The rows of CAN (R444). -/
def regRowsCAN : List RegRow := [
  ⟨0x10B000, 0x0, 1, 0x20, 0x3E, 0x1, 0, 0, 0x40⟩,
  ⟨0x10B004, 0x0, 1, 0, 0, 0, 0, 0, 0⟩,
  ⟨0x10B008, 0x0, 1, 0, 0, 0, 0, 0, 0⟩,
  ⟨0x10B00C, 0x0, 1, 0, 0, 0, 0, 0, 0⟩,
  ⟨0x10B010, 0x0, 1, 0, 0, 0, 0, 0x1FFF, 0⟩,
  ⟨0x10B014, 0x0, 1, 0, 0x1FFF, 0, 0, 0, 0⟩,
  ⟨0x10B018, 0x0, 1, 0, 0, 0, 0, 0x1FFF, 0⟩,
  ⟨0x10B01C, 0x0, 1, 0, 0, 0, 0, 0, 0⟩,
  ⟨0x10B020, 0x0, 1, 0, 0, 0, 0, 0, 0⟩,
  ⟨0x10B024, 0x0, 1, 0, 0, 0, 0, 0, 0⟩,
  ⟨0x10B028, 0x0, 1, 0, 0, 0, 0, 0, 0⟩,
  ⟨0x10B02C, 0x0, 1, 0, 0, 0, 0, 0, 0x7⟩,
  ⟨0x10B030, 0x0, 1, 0, 0, 0, 0, 0, 0x7⟩,
  ⟨0x10B034, 0x0, 1, 0, 0, 0, 0, 0, 0⟩,
  ⟨0x10B038, 0x0, 1, 0, 0, 0, 0, 0x1FFFF, 0⟩,
  ⟨0x10B03C, 0x0, 1, 0, 0, 0, 0, 0x1FFFF, 0⟩,
  ⟨0x10B040, 0x0, 1, 0, 0, 0, 0, 0, 0⟩,
  ⟨0x10B044, 0x0, 1, 0, 0, 0, 0, 0, 0x1⟩,
  ⟨0x10B048, 0x0, 1, 0, 0, 0, 0, 0, 0⟩,
  ⟨0x10B04C, 0x0, 1, 0, 0, 0, 0, 0, 0⟩,
  ⟨0x10B050, 0x0, 1, 0, 0, 0, 0, 0, 0⟩,
  ⟨0x10B054, 0x0, 1, 0, 0xF, 0, 0, 0, 0⟩]

/-- The rows of SPI (R474). -/
def regRowsSPI : List RegRow := [
  ⟨0x10C000, 0x0, 1, 0x1, 0, 0x3, 0, 0, 0⟩,
  ⟨0x10C004, 0x0, 1, 0xFF0800, 0, 0x3FF3F07, 0, 0, 0⟩,
  ⟨0x10C008, 0x0, 1, 0, 0, 0, 0, 0x30, 0⟩,
  ⟨0x10C00C, 0x0, 1, 0, 0, 0, 0, 0xFF, 0⟩,
  ⟨0x10C010, 0x0, 1, 0, 0, 0, 0, 0, 0⟩,
  ⟨0x10C014, 0x0, 1, 0, 0, 0, 0, 0, 0⟩,
  ⟨0x10C018, 0x0, 1, 0, 0, 0, 0, 0, 0⟩,
  ⟨0x10C01C, 0x0, 1, 0, 0, 0, 0, 0, 0⟩,
  ⟨0x10C020, 0x0, 1, 0x30208, 0, 0x7FFFF3F, 0, 0, 0⟩,
  ⟨0x10C024, 0x0, 1, 0x5060203, 0, 0xFFFFFFFF, 0, 0, 0⟩,
  ⟨0x10C028, 0x0, 1, 0x10015, 0, 0x33F3F, 0, 0, 0⟩,
  ⟨0x10C02C, 0x0, 1, 0, 0xFFF800, 0, 0, 0, 0⟩,
  ⟨0x10C030, 0x0, 1, 0, 0, 0, 0, 0x2, 0⟩,
  ⟨0x10C034, 0x0, 1, 0x64000A, 0xFFFF00FF, 0, 0, 0, 0⟩,
  ⟨0x10C038, 0x0, 1, 0, 0x7FF, 0, 0, 0, 0x800⟩,
  ⟨0x10C03C, 0x0, 1, 0, 0xFFFFFF, 0, 0, 0, 0⟩]

/-- The rows of MEM (R526). -/
def regRowsMEM : List RegRow := [
  ⟨0x10D000, 0x0, 1, 0, 0, 0, 0, 0, 0⟩,
  ⟨0x10D004, 0x0, 1, 0, 0, 0, 0, 0x1F, 0⟩,
  ⟨0x10D008, 0x0, 1, 0, 0, 0, 0, 0, 0⟩,
  ⟨0x10D00C, 0x0, 1, 0x3201, 0xFF01, 0, 0, 0, 0⟩,
  ⟨0x10D010, 0x0, 1, 0, 0xFFFFFF, 0, 0, 0, 0⟩,
  ⟨0x10D014, 0x0, 1, 0, 0, 0, 0, 0, 0xFFFFFFFF⟩,
  ⟨0x10D018, 0x0, 1, 0, 0, 0, 0, 0, 0xFFFFFFFF⟩,
  ⟨0x10D01C, 0x0, 1, 0, 0, 0, 0, 0, 0⟩,
  ⟨0x10D020, 0x0, 1, 0, 0, 0, 0, 0, 0⟩,
  ⟨0x10D100, 0x10, 17, 0x10001, 0, 0x30F, 0, 0, 0⟩,
  ⟨0x10D104, 0x10, 17, 0, 0, 0, 0, 0, 0⟩,
  ⟨0x10D108, 0x10, 17, 0, 0, 0, 0, 0, 0⟩,
  ⟨0x10D10C, 0x10, 17, 0, 0, 0, 0, 0, 0⟩]

/-- The rows of INT (R553). -/
def regRowsINT : List RegRow := [
  ⟨0x10E000, 0x0, 1, 0, 0, 0, 0, 0x800, 0⟩,
  ⟨0x10E004, 0x0, 1, 0, 0, 0, 0, 0x1FF, 0⟩,
  ⟨0x10E008, 0x0, 1, 0, 0, 0, 0, 0, 0⟩,
  ⟨0x10E00C, 0x0, 1, 0, 0, 0, 0, 0, 0⟩,
  ⟨0x10E010, 0x0, 1, 0, 0, 0, 0, 0, 0⟩,
  ⟨0x10E014, 0x0, 1, 0, 0, 0, 0, 0, 0⟩,
  ⟨0x10E018, 0x0, 1, 0, 0, 0, 0, 0, 0⟩,
  ⟨0x10E01C, 0x0, 1, 0, 0, 0, 0, 0, 0⟩,
  ⟨0x10E020, 0x0, 1, 0, 0, 0, 0, 0, 0⟩,
  ⟨0x10E024, 0x0, 1, 0, 0, 0, 0, 0, 0⟩,
  ⟨0x10E028, 0x0, 1, 0, 0, 0, 0, 0, 0xFFF⟩,
  ⟨0x10E02C, 0x0, 1, 0, 0, 0, 0, 0, 0xFFF⟩,
  ⟨0x10E030, 0x0, 1, 0, 0, 0, 0, 0, 0⟩,
  ⟨0x10E034, 0x0, 1, 0, 0x1FFFFFF, 0, 0, 0, 0⟩,
  ⟨0x10E038, 0x0, 1, 0x1000080, 0x10FFFFF, 0, 0, 0, 0⟩,
  ⟨0x10E03C, 0x0, 1, 0, 0, 0, 0, 0, 0⟩,
  ⟨0x10E100, 0x8, 8, 0, 0, 0, 0, 0, 0⟩,
  ⟨0x10E104, 0x8, 8, 0, 0, 0, 0, 0, 0⟩]

/-- The rows of MGT (R579). -/
def regRowsMGT : List RegRow := [
  ⟨0x10F000, 0x0, 1, 0, 0, 0, 0, 0, 0⟩,
  ⟨0x10F004, 0x0, 1, 0, 0, 0, 0, 0x1F00FF, 0⟩,
  ⟨0x10F008, 0x0, 1, 0, 0, 0, 0, 0, 0⟩,
  ⟨0x10F00C, 0x0, 1, 0, 0, 0, 0, 0, 0⟩,
  ⟨0x10F010, 0x0, 1, 0, 0, 0, 0, 0, 0⟩,
  ⟨0x10F014, 0x0, 1, 0, 0, 0, 0, 0, 0⟩,
  ⟨0x10F018, 0x0, 1, 0, 0x37, 0, 0, 0, 0⟩,
  ⟨0x10F01C, 0x0, 1, 0, 0, 0, 0, 0, 0⟩,
  ⟨0x10F020, 0x0, 1, 0, 0x7FFFF, 0, 0, 0, 0⟩,
  ⟨0x10F024, 0x0, 1, 0, 0, 0, 0, 0, 0xFFFFFFFF⟩,
  ⟨0x10F028, 0x0, 1, 0, 0, 0, 0, 0, 0⟩,
  ⟨0x10F02C, 0x0, 1, 0, 0, 0, 0, 0, 0⟩,
  ⟨0x10F030, 0x0, 1, 0, 0x7FF, 0, 0, 0, 0⟩,
  ⟨0x10F034, 0x4, 8, 0, 0, 0, 0, 0, 0⟩,
  ⟨0x10F054, 0x0, 1, 0x3C01, 0xFF03, 0, 0, 0, 0⟩,
  ⟨0x10F058, 0x0, 1, 0, 0xFFF, 0, 0, 0, 0⟩,
  ⟨0x10F05C, 0x0, 1, 0, 0x1, 0, 0, 0, 0⟩]

/-- The rows of CHN (R498). -/
def regRowsCHN : List RegRow := [
  ⟨0x110000, 0x0, 1, 0x800, 0xFF00, 0x1, 0, 0, 0⟩,
  ⟨0x110004, 0x0, 1, 0x8282100, 0, 0x3FFFFFF7, 0, 0, 0⟩,
  ⟨0x110008, 0x0, 1, 0xFFFF, 0, 0xFFFF, 0, 0, 0⟩,
  ⟨0x11000C, 0x0, 1, 0, 0, 0, 0, 0, 0⟩,
  ⟨0x110010, 0x0, 1, 0, 0, 0, 0, 0, 0⟩,
  ⟨0x110014, 0x0, 1, 0, 0, 0, 0, 0, 0⟩,
  ⟨0x110018, 0x0, 1, 0, 0, 0, 0, 0x1FF, 0⟩,
  ⟨0x11001C, 0x0, 1, 0, 0, 0, 0, 0, 0⟩,
  ⟨0x110020, 0x4, 4, 0xFFFFFFFF, 0, 0, 0, 0, 0⟩]

/-- The rows of GPM (R384). -/
def regRowsGPM : List RegRow := [
  ⟨0x111000, 0x0, 1, 0, 0, 0, 0, 0, 0⟩,
  ⟨0x111004, 0x0, 1, 0, 0x7FFF, 0, 0, 0, 0⟩,
  ⟨0x111008, 0x0, 1, 0, 0, 0, 0, 0x1, 0⟩,
  ⟨0x11100C, 0x0, 1, 0, 0, 0, 0, 0, 0⟩,
  ⟨0x111100, 0x4, 15, 0, 0, 0, 0, 0, 0⟩]

/-- The rows of the block that holds address `a` (R15). -/
def blockRows (a : Nat) : List RegRow :=
  match a / 0x1000 with
  | 0x100 => regRowsSYS
  | 0x101 => regRowsCLK
  | 0x102 => regRowsREEL
  | 0x103 => regRowsENG
  | 0x104 => regRowsAX
  | 0x105 => regRowsCAM
  | 0x106 => regRowsMOD
  | 0x107 => regRowsPWR
  | 0x108 => regRowsLAS
  | 0x109 => regRowsPOS
  | 0x10A => regRowsADC
  | 0x10B => regRowsCAN
  | 0x10C => regRowsSPI
  | 0x10D => regRowsMEM
  | 0x10E => regRowsINT
  | 0x10F => regRowsMGT
  | 0x110 => regRowsCHN
  | 0x111 => regRowsGPM
  | _ => []

/-- Whether row `r` holds address `a`. -/
def RegRow.holds (r : RegRow) (a : Nat) : Bool :=
  if r.stride = 0 then a == r.base
  else r.base ≤ a && (a - r.base) % r.stride == 0 && decide ((a - r.base) / r.stride < r.count)

/-- The row of address `a`, if the map implements it (R16). -/
def regRow (a : Nat) : Option RegRow := (blockRows a).find? (fun r => r.holds a)

/-- What the register at `a` holds at reset. -/
def regReset (a : Nat) : BitVec 32 :=
  match regRow a with
  | some r => if r.base = 0x107104 && decide (4 ≤ (a - 0x107104) / 0x40) then 0 else BitVec.ofNat 32 r.reset
  | none => 0

end Sys2Proof.Machine
end

