-- ==== Sys2Proof/Machine/State.lean ====
section
/-!
DEFINITION. What the block holds, as plain data: the register file, and for each block of the manual the state its rules
name beside its registers. A register has one home: a value of the register tables stands in `State.regs` under its host
address, unless a named field below holds it and the read operation shows it.
-/
namespace Sys2Proof.Machine

/-- Why the block stops with a fault. No command of this hardware does: every operand of every command has an effect in
the manual or is discarded by it, so the type has no constructor (safe: nothing can be proved from it). -/
inductive Fault where
  deriving DecidableEq, Repr

/-- Why a command has no meaning. -/
inductive Refusal where
  /-- The command's meaning is not in the model. Raised by the dispatch alone (safe). -/
  | notModelled (mnemonic : String)
  deriving DecidableEq, Repr

/-- The eight modes (R6). While the device is held in reset the mode reads BOOT, as SYS_MODE's reset value does. -/
inductive Mode where
  | off | sleep | boot | standby | run | degraded | safe | service
  deriving DecidableEq, Repr

/-- The code of a mode in SYS_MODE (R601). -/
def Mode.code : Mode → Nat
  | .off => 0 | .sleep => 1 | .boot => 2 | .standby => 3 | .run => 4 | .degraded => 5 | .safe => 6 | .service => 7

/-- The three parts (R2). -/
inductive Part where
  | itx1216 | itx1208l | itx1204h
  deriving DecidableEq, Repr

/-- The cut-phase code that travels with the slate (R47). -/
inductive CutPhase where
  | frame | close | drained | applied | sealed | start
  deriving DecidableEq, Repr

/-- Who reads or writes a register (R528, R586). -/
inductive Path where
  | host | can | mc
  deriving DecidableEq, Repr

/-- A word in flight over a crossing. -/
inductive Msg where
  /-- Word `idx` (0 or 1) of the set-point of an axis, from an engine (R172). -/
  | setpoint (eng axis idx : Nat) (w : Word)
  /-- The END word: engine, low 16 bits of the frame count, shots executed (R121). -/
  | endWord (eng : Nat) (frame : Half) (shots : Nat)
  /-- A status word of an axis toward D1 or D2 (R175). -/
  | status (eng axis idx : Nat) (w : Word)
  /-- A mirror word of an axis toward D11 (R175). -/
  | mirror (eng axis idx : Nat) (w : Word)
  /-- A word for an engine's input area, with its tag (R141). -/
  | input (idx : Nat) (w : Word)
  /-- A current sample for the current loop: axis, phase, converter word (R256). -/
  | sample (axis phase : Nat) (w : Word)
  /-- A supply or temperature result for D6 (R392). -/
  | power (channel : Nat) (w : Word)
  deriving DecidableEq, Repr

/-! ### Clocks, slate and cut -/

/-- The slate generator, the cut coordinator and the clock monitors (chapter 01). -/
structure Clk where
  /-- The slate (R35). -/
  slate : Slate := 0
  /-- The slate epoch (R37). -/
  epoch : Half := 0
  /-- The slate of the coming cut (R46). -/
  nextCut : Slate := 0
  /-- Whether cuts recur: from the end of BOOT (R46, R55). -/
  cutsOn : Bool := false
  /-- Where the frame stands in its cut window (R47). -/
  phase : CutPhase := .frame
  /-- Slate and epoch of the last cut, shown in CLK_LAST_CUT. -/
  lastCut : Slate := 0
  lastEpoch : Half := 0
  /-- Cuts since the end of BOOT (CLK_FRAME_CNT). -/
  frames : Word := 0
  /-- The crystal oscillator runs (R56). -/
  xtalRun : Bool := false
  /-- Consecutive good monitor windows of the present qualification, up to 1024 (R56). -/
  goodRun : Nat := 0
  /-- Consecutive monitor windows that were not good (R57). -/
  badRun : Nat := 0
  /-- The qualification is complete; REF switches to the crystal at the next cut (R56). -/
  qualified : Bool := false
  /-- XTAL_EN was written 0 while REF is the crystal; REF switches to the RC at the next cut (R65). -/
  toRc : Bool := false
  /-- The RC oscillator is within range (R61). -/
  rcOk : Bool := true
  /-- The last LPO measurement was within range (R63). -/
  lpoOk : Bool := true
  /-- Islands whose FLL is in holdover (R58). -/
  holdover : BitVec 12 := 0
  /-- Engine islands whose clock stops at the next cut because they were declared faulty (R62, R130). -/
  faulty : BitVec 12 := 0
  /-- Engine islands whose clock has been stopped because they were declared faulty (R62). -/
  stopped : BitVec 12 := 0
  /-- Islands that drained late at the last cut (R52). -/
  lastLate : BitVec 12 := 0
  deriving DecidableEq, Repr

/-! ### Supply, modes and position keep -/

/-- How far BOOT has come (R594). -/
inductive BootStep where
  | none | started | rails | firmware | reel | ended | stuck
  deriving DecidableEq, Repr

/-- What the transceiver drives on CANH and CANL (R7, R441, R599): nothing, as an unpowered one; recessive, with the node
offline; or what the node sends. -/
inductive CanDrive where
  | unpowered | recessive | normal
  deriving DecidableEq, Repr

/-- CANH and CANL (R7, R441, R599): what is driven on them, and whether the receiver stays in low-power mode with
autonomous biasing, as in SLEEP. -/
structure CanPins where
  drive : CanDrive
  autoBias : Bool := false
  deriving DecidableEq, Repr

/-- An output pin that may float (R599). -/
inductive PinLevel where
  | hiZ | low | high
  deriving DecidableEq, Repr

/-- Modes, reset and start-up (chapter 18). -/
structure Sys where
  mode : Mode := .boot
  /-- The device is held in reset (R597, R598). -/
  inReset : Bool := true
  boot : BootStep := .none
  /-- VBAT has not been seen above VBOR since POWER_ON or BROWNOUT (R581, R599). -/
  vborLow : Bool := false
  /-- Reset causes present: bit c - 1 for cause c (R598). -/
  causes : BitVec 8 := 0
  /-- The path of the pending mode request (R586). -/
  pendPath : Path := .host
  /-- SAFE causes that arose since the last cut (R544). -/
  safeNew : BitVec 8 := 0
  /-- The mode of the ending frame, from an entry to another one in APPLY until the cut (R49, R585). -/
  cutFrom : Option Mode := none
  /-- This BOOT has its RESET record (R598). -/
  resetLogged : Bool := false
  /-- This BOOT is a wake from SLEEP (R595). -/
  wake : Bool := false
  /-- The chain role strap CASC_M as sampled at BOOT (R475). -/
  cascM : Bool := false
  /-- Cuts since the device last entered STANDBY from BOOT, while AUTO_RUN is due (R587). -/
  autoRun : Option Nat := none
  /-- Overvoltage asserted since the last cut (R583). -/
  ovNew : Bool := false
  /-- A request of SLEEP was accepted: D0 takes the kept items until SLEEP_ENTRY_DONE (R589). -/
  sleepEntry : Bool := false
  /-- VIO_UV is asserted (R584). -/
  vioLow : Bool := false
  /-- VBAT stands in the 40 V to 48 V row of the gate supply (R317). -/
  hvRow : Bool := false
  /-- The level of the WAKE pin (CAN_WAKE.LEVEL). -/
  wakeLevel : Bool := false
  deriving DecidableEq, Repr

/-- What D0 keeps (R590), and its sleep counter and wake latches (R593). -/
structure Keep where
  valid : Bool := false
  used : BitVec 12 := 0
  pos : List Word := List.replicate 12 0
  eofs : List (BitVec 12) := List.replicate 12 0
  rest : BitVec 12 := 0
  slot : Nat := 0
  take : Half := 0
  stateSig : Word := 0
  slate : Slate := 0
  epoch : Half := 0
  lpoPer : Word := 0x09896800
  /-- The sleep counter, saturating at 2^40 - 1 (R44), and whether it saturated. -/
  count : BitVec 40 := 0
  sat : Bool := false
  /-- Wake sources recognised since C_s: bit s - 1 for source s (R593). -/
  seen : BitVec 3 := 0
  /-- CAN_WAKE at C_s, and the timer period if the timer is enabled, as D0 watches them (R591). -/
  wakeCfg : Word := 0
  timer : Option Nat := none
  /-- Resets since the last POWER_ON (SYS_RESET.COUNT). -/
  resets : Half := 0
  deriving DecidableEq, Repr

/-! ### Reels -/

/-- The fields of a reel header that the device uses (R73). -/
structure ReelHdr where
  take : Half := 0
  length : Nat := 0
  axes : BitVec 12 := 0
  frameLen : Nat := 0
  minLen : Nat := 0
  xtalEn : Bool := false
  standalone : Bool := false
  autoRun : Bool := false
  structSig : Word := 0
  stateSig : Word := 0
  imageDelta : Nat := 0
  fwMin : Nat := 0
  trialFrames : Nat := 0
  deriving DecidableEq, Repr

/-- One BRIDGE_MAP entry (R79). -/
structure Bridge where
  axis : Nat
  light : Bool
  /-- Half-bridge codes of phase A+, A-, B+, B-. -/
  hb : List Nat
  sense : Nat
  /-- Safe pattern: 0 short to the low sides, 1 short to the high sides, 2 all off. -/
  safe : Nat
  deriving DecidableEq, Repr

/-- One PIN_MAP entry (R79): function code, instance, and pull and filter options of a pin. -/
structure PinEntry where
  fn : Nat
  inst : Nat
  opt : Nat
  deriving DecidableEq, Repr

/-- One slot of ADC_SLOTS (R79). -/
structure Slot where
  offset : Nat
  core : Nat
  channel : Nat
  gain : Nat
  filter : Nat
  dest : Nat
  interleave : Bool
  deriving DecidableEq, Repr

/-- One BANK_MAP entry (R79), for B0 to B15 and MB. -/
structure BankEntry where
  owner : Nat
  retain : Bool
  test : Bool
  image : Bool
  deriving DecidableEq, Repr

/-- One ENGINE_MAP entry (R79). -/
structure EngineEntry where
  axis : Nat
  engine : Nat
  pos : Nat
  deriving DecidableEq, Repr

/-- A CAN bit timing (chapter 12): the words of CAN_TIMING. -/
structure CanTiming where
  words : List Word := []
  deriving DecidableEq, Repr

/-- The structural sections in force (R77, R84). -/
structure Struct where
  bridges : List Bridge := []
  pins : List PinEntry := []
  slots : List Slot := []
  banks : List BankEntry := []
  engines : List EngineEntry := []
  canTiming : List Word := []
  deriving DecidableEq, Repr

/-- One loaded shot list (R79): the shot words, the constants, CYCLES and the fetch check (R133). -/
structure Page where
  shots : List DWord := []
  consts : List Word := []
  cycles : Nat := 0
  check : Word := 0
  deriving DecidableEq, Repr

/-- A bank-loaded section (R74, R85). -/
structure Table where
  typ : Nat
  inst : Nat
  at0 : Nat
  bytes : List Byte
  crc : Word
  deriving DecidableEq, Repr

/-- The eight header bytes of a SHOT_LIST as stored: SHOTS, CYCLES, CONSTS and zero (R79). -/
def Page.header (p : Page) : List Byte :=
  [p.shots.length, p.cycles, p.consts.length, 0].flatMap (fun n => [BitVec.ofNat 8 n, BitVec.ofNat 8 (n / 256)])

/-- The behavioural sections of a take, in their active or their staged copy (R83). -/
structure Copy where
  hdr : ReelHdr := {}
  /-- The pages of E0 to E7, and the copies ES holds. -/
  pages : List Page := List.replicate 8 {}
  esPages : List Page := List.replicate 8 {}
  /-- CAN_MAP and THERMAL payload words. -/
  canMap : List Word := []
  thermal : List Word := []
  /-- AXIS_PARAM payload words by axis; an empty list where the reel has none. -/
  axisParam : List (List Word) := List.replicate 12 []
  regInit : List (Nat × Word) := []
  /-- The bank-loaded sections (R83). -/
  tables : List Table := []
  deriving DecidableEq, Repr

/-- The reel block (chapter 02). -/
structure Reel where
  struct : Struct := {}
  active : Copy := {}
  /-- The staged copy of a splice, with its structural sections. -/
  staged : Option (Copy × Struct) := none
  /-- A reload of the active take (R86): the copies are being loaded, or loaded and switched at the next cut. -/
  reloading : Bool := false
  reloaded : Bool := false
  /-- A resident recheck pass runs (R108). -/
  rechecking : Bool := false
  /-- REEL_SPLICE_AT as read at the REEL_SPLICE write (R108), when AT_EN is 1. -/
  spliceAt : Option Word := none
  /-- A staged copy lies in a bank repaired since it was checked (R96). -/
  repairCheck : Bool := false
  /-- The slot states to program after a splice (R102): the new slot to TRIAL, the slot left by BACK to REJECTED. -/
  toTrial : Option Nat := none
  toReject : Option Nat := none
  /-- Cuts since the splice whose take is in trial, and whether an ENG, ES or REEL fault was raised (R103). -/
  trialCuts : Nat := 0
  trialFault : Bool := false
  /-- A fallback of R565 is due, and the splice in progress is one. -/
  fallbackWait : Bool := false
  fallback : Bool := false
  /-- Slate and epoch of the last splice (REEL_LAST_SPLICE). -/
  lastSplice : Slate := 0
  lastSpliceEpoch : Half := 0
  deriving DecidableEq, Repr

/-! ### Engines -/

/-- One word of the input area with its tag (R110). -/
structure InWord where
  w : Word := 0
  tag : Bool := false
  deriving DecidableEq, Repr

/-- A block undo buffer (R532): the bank address of the block and its eight words. -/
structure Undo where
  addr : Nat
  words : List Word
  deriving DecidableEq, Repr

/-- One engine, E0 to E7 or ES (R110). -/
structure Eng where
  /-- Operand slots OP0 to OP31. -/
  ops : List Word := List.replicate 32 0
  /-- The accumulator. -/
  acc : DWord := 0
  sat : Bool := false
  miss : Bool := false
  /-- The input area IN0 to IN63. -/
  inp : List InWord := List.replicate 64 {}
  /-- The committed VEL of the axis at each position, delivered with its committed-state word (R286). -/
  vels : List Word := List.replicate 3 0
  /-- A list runs: from its start to the END word or a fault. -/
  exec : Bool := false
  /-- The END word of this frame was launched. -/
  ended : Bool := false
  /-- The list was started in this frame (R132, NO_START). -/
  started : Bool := false
  /-- Shots executed and cycles spent since the start. -/
  shots : Nat := 0
  cycles : Nat := 0
  /-- The running fetch check over the words fetched (R133), before the final inversion. -/
  fetch : Word := 0xFFFFFFFF
  /-- FORCED is injected at the START of the next frame (R137). -/
  force : Bool := false
  /-- The engine test of a return runs, and the reload of its page has ended (R541). -/
  testing : Bool := false
  reloaded : Bool := false
  /-- The block undo buffer (R532), held from the first write of a BST or ACPT to the shot's last cycle. -/
  undo : Option Undo := none
  deriving DecidableEq, Repr

/-! ### Integrity and recovery -/

/-- A mirror set of one axis (R530): the four MIRR words, the SPW0 and SPW1 copy, the resident check over the stored
form, and the frame it belongs to. -/
structure MirrorSet where
  words : List (Option Word) := List.replicate 4 none
  spw0 : Option Word := none
  spw1 : Option Word := none
  check : Word := 0
  frame : Word := 0
  deriving DecidableEq, Repr

/-- The integrity block, D11's mirrors and the recovery of an engine (chapter 16). -/
structure Intg where
  /-- FAULT_N and IRQ_N as driven: a pin once asserted stays so for at least 1 us (R551). -/
  pinFault : Bool := false
  pinIrq : Bool := false
  /-- Axes left out of the window's judgement (R538), axes that have committed a set-point from ES since C1, and whether
  a fault was raised in the window that makes the takeover visible. -/
  excluded : BitVec 12 := 0
  committed : BitVec 12 := 0
  visible : BitVec 12 := 0
  /-- The axes of the present takeover (R538), and the cuts since the detection (R534). -/
  recAxes : BitVec 12 := 0
  windowCuts : Nat := 0
  /-- An axis has committed from ES since C1: FIRST_COMMIT is recorded (R552). -/
  firstCommit : Bool := false
  /-- A takeover waits for its first cut (R536): the engine. -/
  takeover : Option Nat := none
  /-- This frame is the restore frame (R536). -/
  restoring : Bool := false
  /-- An accepted RESTORE waits for a cut with no window open (R541): the engine. -/
  restoreReq : Option Nat := none
  /-- Axes whose release takes effect at the next cut (R546). -/
  release : BitVec 12 := 0
  /-- The parameter index that D1 delivered last to each axis, until the cut after (R204, R536), and the axes for which
  D2 launches the last RX_TARGET datum again (R433, R536). -/
  lastParam : List (Option Nat) := List.replicate 12 none
  relaunch : BitVec 12 := 0
  /-- Axes for which D1 sets UNCERTAIN at the next cut: parked ones (R539), and those that lost their engine above
  VSTOP; and axes that entered their safe state above VSTOP since the last cut (R199). -/
  parkUncertain : BitVec 12 := 0
  safeFast : BitVec 12 := 0
  /-- Axes parked in this frame by a fault that came after their engine's END word: the frame's words stay in force
  (R135). And the engine that ES covered in this frame, where ES lost cover after its own END word. -/
  lastWords : BitVec 12 := 0
  esLast : Option Nat := none
  /-- Mirror sets per axis (R530), and whether MIRROR_REJ was raised in this frame. -/
  pend : List MirrorSet := List.replicate 12 {}
  kept : List MirrorSet := List.replicate 12 {}
  /-- END words of this frame received in D6, D1 and D11, by engine (R122). -/
  endD6 : BitVec 9 := 0
  endD1 : BitVec 9 := 0
  endD11 : BitVec 9 := 0
  /-- Status words received in D1 and D2 since the last cut: engine, axis, index, word (R118, R175). -/
  statusD1 : List (Nat × Nat × Nat × Word) := []
  statusD2 : List (Nat × Nat × Nat × Word) := []
  deriving DecidableEq, Repr

/-! ### Management -/

/-- A continuity-log record before its SEQ and CRC are given (R569). -/
structure LogRec where
  epoch : Half := 0
  slate : Slate := 0
  code : Nat := 0
  kind : Nat := 0
  aux : Nat := 0xFF
  data0 : Word := 0
  data1 : Word := 0
  data2 : Word := 0
  deriving DecidableEq, Repr

/-- When a fault code was last recorded, as EPOCH and slate in one number, and how often it was only counted since
(R571). -/
structure Recent where
  code : Nat
  time : Option Nat
  count : Nat
  deriving DecidableEq, Repr

/-- A 256-byte page buffer of the update path (R560): the page of the slot it collects, its words, and whether it is
being programmed. -/
structure PageBuf where
  page : Nat
  words : List Word := List.replicate 64 0xFFFFFFFF
  closing : Bool := false
  deriving DecidableEq, Repr

/-- The management core, the update path and the continuity log (chapter 17). -/
structure Mgt where
  /-- MC runs firmware (MGT_STAT.MC_OK); the boot ROM serves in its place when no slot passed (R558). -/
  mcOk : Bool := false
  bootRom : Bool := false
  /-- MC is stopped: from the cut of a firmware splice, or the end of a failed trial, to its restart (R563, R564). -/
  stopped : Bool := false
  /-- Records waiting for programming, and how many were dropped since the last OVERFLOW record (R572). -/
  queue : List LogRec := []
  dropped : Nat := 0
  recent : List Recent := []
  /-- A firmware splice to slot 2 or 3 waits for the next cut or for the restart (R563). -/
  fwSplice : Option Nat := none
  /-- The command that runs, and its slot (R559). -/
  running : Option (Nat × Nat) := none
  /-- The open transfer's slot, the page buffers, and the pages programmed since OPEN (R559, R560). -/
  opened : Option Nat := none
  bufs : List PageBuf := []
  pages : List Nat := []
  /-- Writes to the block that wait for the restart of MC (R563): path, address, value. -/
  held : List (Path × Nat × Word) := []
  /-- The log has a present sector: MC has scanned it since BOOT. The sector, the records it holds, the sequence number of
  its header, the erase count for the header of the next sector once that stands erased, and the sectors retired (R568,
  R573). -/
  logOpen : Bool := false
  logSector : Nat := 0
  logCount : Nat := 0
  logSectorSeq : Word := 0
  logNext : Option Word := none
  logRetired : BitVec 16 := 0
  deriving DecidableEq, Repr

/-! ### CAN -/

/-- A transmit or receive buffer (R445): the words ID, CTL and STAMP, and the 16 data words. -/
structure CanBuf where
  id : Word := 0
  ctl : Word := 0
  stamp : Word := 0
  data : List Word := List.replicate 16 0
  deriving DecidableEq, Repr

/-- What D2 keeps of a map entry (R432 to R435): the datum pending for the next cut and one that waits for the cut after,
the datum launched last, each as value and check word; the generation accepted last; the frames since the last accepted
datum; and whether the time-out of this episode was raised. -/
structure MapStore where
  pend : Option (Word × Word) := none
  later : Option (Word × Word) := none
  launched : Option (Word × Word) := none
  gen : Half := 0
  age : Nat := 0
  timedOut : Bool := false
  deriving DecidableEq, Repr

/-- A service request (R436): its 16 bytes, whether its access waits for a hold to end, the answer once it is known,
STATUS and the value, and the buffer that its response has been put into. -/
structure SvcReq where
  bytes : List Byte
  held : Bool := false
  answer : Option (Nat × Word) := none
  sent : Option Nat := none
  deriving DecidableEq, Repr

/-- The flag that the node drives on the bus (R408, R414): none, an error flag as an error-active or an error-passive node
sends it, or an overload flag. -/
inductive CanFlag where
  | none | active | passive | overload
  deriving DecidableEq, Repr

/-- The CAN node beside its registers (chapter 12). -/
structure Can where
  /-- The node waits for 11 recessive bits (R415). -/
  integrating : Bool := false
  /-- Error-passive, bus-off, and recovery from it (R427, R428). -/
  passive : Bool := false
  busOff : Bool := false
  recovering : Bool := false
  /-- TB0 to TB2, aborts of ACTIVE buffers (R420), the map entry whose message each holds, and the stamp of the running
  attempt (R425). -/
  tbs : List CanBuf := List.replicate 3 {}
  abort : BitVec 3 := 0
  msgs : List (Option Nat) := List.replicate 3 none
  txStamp : Word := 0
  /-- The node was the transmitter of the frame that ended last, and the buffer of an attempt that ended in an error and
  waits for the next one (R421, R426). -/
  lastTx : Bool := false
  retry : Option Nat := none
  /-- A frame of another node is being received (R415); the flag that the node drives (R408, R414); whether it has
  acknowledged the frame received last (R413, R414). -/
  receiving : Bool := false
  flag : CanFlag := .none
  acked : Bool := false
  /-- A disable has waited at a cut for the frame in progress (R415); the dominant time-out keeps the transmitter
  recessive (R443). -/
  leaving : Bool := false
  domOut : Bool := false
  /-- RB0 to RB15 and, at index 16, HPB; and the shadows of each path (R424, R528). -/
  rbs : List CanBuf := List.replicate 17 {}
  shadows : List ((Path × Nat) × CanBuf) := []
  /-- Map messages that wait for a free buffer, oldest first: entry and message (R435). -/
  waitMsgs : List (Nat × CanBuf) := []
  entries : List MapStore := List.replicate 32 {}
  /-- The service request that awaits its response (R437), and RX_REG data that wait for a hold to end: entry and
  value. -/
  svc : Option SvcReq := none
  heldRegs : List (Nat × Word) := []
  /-- The fault code raised last, and how many were raised since the last TX_FAULT message, up to 0xFFFF (R435). -/
  faultLast : Nat := 0
  faultCount : Nat := 0
  deriving DecidableEq, Repr

/-! ### Memory banks -/

/-- The errors that a stored word carries, as its SECDED code tells them apart (R499, R507): a flipped bit, a bit that
flips back after every write, or more than the code can correct, with the data that then stand there, and whether one of
the bits is of the second kind. -/
inductive Flaw where
  | soft
  | stuck
  | dead (raw : Word) (stuck : Bool)
  deriving DecidableEq, Repr

/-- The error that a 64-bit word of flash carries (R555): one that its code corrects, or one that it cannot correct,
with the data that stand there. -/
inductive FlashFlaw where
  | soft
  | dead (raw : DWord)
  deriving DecidableEq, Repr

/-- One bank, B0 to B15 or MB, beside its registers (chapter 15). -/
structure Bank where
  /-- Words of the row under test that the save buffer of the open window holds corrected, though the row has a stuck bit
  there, which shows again when the window is over (R514). -/
  healed : List Nat := []
  /-- Repairs, the running one first: the faulty row and its spare (R509, R510). -/
  repairs : List (Nat × Nat) := []
  /-- The copy of the running repair has ended (R509). -/
  copied : Bool := false
  /-- The row that found both spares in use (R511). -/
  exhaust : Option Nat := none
  /-- Rows declared faulty after that, each raising ROW_FAULT once (R511). -/
  late : List Nat := []
  deriving DecidableEq, Repr

/-- The banks and the mailbox (chapter 15). -/
structure Mem where
  /-- The bytes of B0 to B15 and MB at their host addresses, unlisted ones 0 (R15, R524). -/
  cells : List Host.Cell := []
  /-- Words that carry an error, by address. -/
  flaws : List (Nat × Flaw) := []
  /-- Words whose last read found a correctable error, with no write since (R508). -/
  corrected : List Nat := []
  /-- ECC_CORR was raised in this frame (R507). -/
  corrSeen : Bool := false
  /-- What port A's last atomic operation read: its own alias of MEM_AT_OLD (R519). -/
  oldA : Word := 0
  banks : List Bank := List.replicate 17 {}
  deriving DecidableEq, Repr

/-! ### Serial port -/
/-- A word of a read that the host has asked for: its address, what it meets, and its value once the access is carried
out (R454, R455). -/
structure Asked where
  addr : Nat
  acc : Access := {}
  val : Option Word := none
  deriving DecidableEq, Repr

/-- The lane mode of a phase of a frame (R447). -/
inductive Lane where
  | single | pair | dual
  deriving DecidableEq, Repr

/-- What an open host frame carries after its address (R449, R450): nothing, the words of a WRITE, the word of a STATUS,
or the words of a READ. -/
inductive FrameKind where
  | bare | write | status | read
  deriving DecidableEq, Repr

/-- The open host frame (R449): what it carries and how many words; whether the host has clocked all of them, whether its
command or address is illegal (R451), and the place of a word that came too late (R455); after how many wait cycles each
word of a read reaches D3 (R454); and the words that wait for a hold to end with their wait cycles, the first one issued
(R54), of which the host clocks the first `left` in full. -/
structure HostFrame where
  kind : FrameKind := .bare
  words : Nat := 0
  whole : Bool := true
  illegal : Bool := false
  lateAt : Option Nat := none
  waits : List Nat := []
  wait : List (Asked × Nat) := []
  left : Nat := 0
  deriving DecidableEq, Repr

/-- A command on the memory window's bus (R446 to R448, R464 to R466): its select output, the idle level of SCK, its
opcode with the lanes of the command phase, its address if it has one with the lanes of that phase, the dummy cycles,
and the lanes of its data phase with the data words it sends. -/
structure MwCmd where
  sel : Nat
  idle : Bool
  op : Nat
  opLane : Lane
  addr : Option Nat := none
  addrLane : Lane
  dummy : Nat := 0
  dataLane : Lane
  data : List Word := []
  deriving DecidableEq, Repr

/-- A window transaction (R462 to R466): the read of the line that holds external address `ext`, for a late word at a
host address, asked for by the host or over CAN; the writing out of the buffered words; or a raw command. -/
inductive MwJob where
  | line (ext host : Nat) (can : Bool)
  | writes
  | raw
  deriving DecidableEq, Repr

/-- The serial port beside its registers (chapter 13). -/
structure Spi where
  /-- The highest outcome code known since the last status byte: 0 OK, 1 REFUSED, 2 CLEAR_REFUSED, 3 LATE (R453). -/
  result : Nat := 0
  /-- MW_ERR and FRAME_ERR of the next status byte (R453), and a host frame that is ignored until SEL0_N rises (R494). -/
  mwErr : Bool := false
  frameErr : Bool := false
  ignored : Bool := false
  /-- The status byte of the last frame, and the words that the device drove in it (R449, R454, R455). -/
  status : Byte := 0
  out : List Word := []
  /-- The open host frame. -/
  frame : Option HostFrame := none
  /-- Accesses that D3 holds in a cut window, in order: address, value of a write, and what each meets (R54, R459). -/
  held : List (Nat × Option Word × Access) := []
  /-- Late words that have not arrived (R455), and the word in the late buffer (R456). -/
  late : List Asked := []
  lateWord : Word := 0
  /-- What the device drove on SIO1 and SIO0 in the data phases of the last frame that ended, cycle by cycle (R447,
  R454). -/
  driven : List (Option Bool × Option Bool) := []
  /-- BUSY_N is driven low (R461). -/
  busyN : Bool := false
  /-- Daisy chain: the bits shifted out in the last frame, in their order, the address of the previous frame, and its
  read or STATUS word; `none` while a word has not arrived (R460). -/
  daisy : List Bool := []
  prevAddr : BitVec 24 := 0
  prevWord : Option Word := some 0
  /-- The memory window: the line buffer's address and words, the write buffer by address, the transaction pending or
  running, the run whose status is polled, and the commands that the last step sent (R462 to R466). -/
  line : Option (Nat × List Word) := none
  writes : List (Nat × Word) := []
  job : Option MwJob := none
  polling : Option Nat := none
  sent : List MwCmd := []
  deriving DecidableEq, Repr
/-! ### Modulator -/

/-- The gates of one half-bridge, its pending turn-on, and its interlock (R250, R276). -/
structure HalfBridge where
  hi : Bool := false
  lo : Bool := false
  /-- A switch waits for the dead time: the high side for true. -/
  turnOn : Option Bool := none
  /-- Its dead time is over, and the gate driver holds the turn-on back until the other gate is low (R318). -/
  waits : Bool := false
  conflict : Bool := false
  /-- Interlock events since the last cut (R277). -/
  events : Nat := 0
  deriving DecidableEq, Repr

/-- One phase channel (R249 to R260). -/
structure Phase where
  integ : Int := 0
  u : Int := 0
  /-- The compensated output (R256). -/
  uc : Int := 0
  /-- The latest duty in ticks, and the edges placed from it (R257, R258). -/
  d : Nat := 0
  rise : Nat := 0
  fall : Nat := 0
  /-- The polarity latched at the carrier start (R259), whether u_c has taken the other sign since, and the polarity of
  the on-interval that began last (R249). -/
  positive : Bool := true
  crossed : Bool := false
  last : Bool := true
  /-- Edges taken in this period; the on-interval runs between them. -/
  risen : Bool := false
  fallen : Bool := false
  /-- A sample hold-off keeps the phase in DECAY (R262). -/
  hold : Bool := false
  /-- The present period is a refresh period, and it stands in its low-side part (R322). -/
  refreshing : Bool := false
  refresh : Bool := false
  /-- The length that the phase gives the present carrier period, in D6 ticks (R251 to R253). -/
  len : Nat := 0
  /-- A valid sample arrived in this frame; updates of u in this frame, and how many saturated (R279). -/
  sampled : Bool := false
  updates : Nat := 0
  saturated : Nat := 0
  /-- Consecutive frames without a valid sample, and the run of saturated frames (R279). -/
  missRun : Nat := 0
  ceilRun : Nat := 0
  /-- The open-load count (R334). -/
  openCount : Nat := 0
  /-- Carrier periods since BST_UV was asserted, and consecutive refresh periods (R322, R323). -/
  uvPeriods : Nat := 0
  refreshes : Nat := 0
  deriving DecidableEq, Repr

/-- The values of the CMT registers of an axis that stand or fall together (R271). -/
structure Cmt where
  cfg : Word := 0
  per : Word := 0x1F40
  dutyA : Word := 0x1F00
  dutyB : Word := 0x1F00
  toff : Word := 0x00400200
  ton : Word := 0x400
  dt : Word := 0x40
  deriving DecidableEq, Repr

/-- A set-point pair as D6 stored it (R263): the sending engine, the words, the resident check and its comparison. -/
structure SpPair where
  eng : Nat
  w0 : Word
  w1 : Option Word := none
  resident : Nat := 0
  ok : Bool := false
  deriving DecidableEq, Repr

/-- The modulator's hold of one axis (chapter 07). -/
structure ModAx where
  /-- The active and the armed CMT values (R271). The buffers are the registers. -/
  act : Cmt := {}
  armed : Option Cmt := none
  /-- Set-point words of this frame (R263), and the resident check of the committed pair (R269). -/
  pairs : List SpPair := []
  resident : Nat := 0
  /-- The committed values in force: amplitude, bridge mode, velocity, base angle (R255, R264). -/
  iamp : Nat := 0
  bmode : Nat := 1
  /-- The amplitude that thermal admission imposes on a capped axis in this frame (R343). -/
  cap : Option Nat := none
  vel : Int := 0
  beta : Nat := 0
  /-- The slate of the last commit instant (R255). -/
  since : Slate := 0
  pa : Phase := {}
  pb : Phase := {}
  hbs : List HalfBridge := List.replicate 4 {}
  /-- The carrier runs; the present start, in D6 ticks: four to a slate tick (R252, R253). -/
  carrier : Bool := false
  startAt : BitVec 50 := 0
  /-- The nominal instant of that start: the slate of the cut that anchors its sequence, and the D6 ticks since (R252). -/
  seqCut : Slate := 0
  nominal : Nat := 0
  /-- Copies of AXn_SS_CFG.MODE and IHOLD_e that D1 delivered at the last cut (R269). -/
  ssMode : Nat := 0
  ihold : Nat := 0
  /-- Hold-off interruptions in this frame (R262). -/
  sho : Nat := 0
  /-- Outputs stay off from an overvoltage until the first commit after it (R583). -/
  ovHold : Bool := false
  /-- PER does not divide the frame (R252). -/
  misfit : Bool := false
  deriving DecidableEq, Repr

/-- The modulator beside its axes. -/
structure ModG where
  /-- The most recent valid VBAT result delivered to D6 since entry to RUN (R256). -/
  vbat : Option Int := none
  /-- Axes whose ILOCK or NO_SAMPLE flag may not clear while they are in the safe state (R283). -/
  ilock : BitVec 12 := 0
  noSample : BitVec 12 := 0
  deriving DecidableEq, Repr

/-! ### Power stage -/

/-- The power stage and its thermal supervision beside the registers (chapter 09). -/
structure Pwr where
  /-- When a trip source became inactive, by axis and bit of PWR_AXn_TRIP (R331). -/
  off : List ((Nat × Nat) × Nat) := []
  /-- When an axis tripped last, and which of its sources were active then: another trip of the same D6 cycle still comes
  from one of these (R330). -/
  cycle : List (Nat × (Nat × BitVec 18)) := []
  /-- The axes of the running self-test that are still to be tested, the present one first (R336). -/
  selfTest : List Nat := []
  /-- The latest valid results of T0 to T3 delivered to D6, the sensors heard since the last cut, and the frames in a
  row without a valid result of each (R338, R340). -/
  temps : List (Option Int) := List.replicate 4 none
  fresh : BitVec 4 := 0
  silent : List Nat := List.replicate 4 0
  /-- The latest valid VBAT result delivered to D6 (R342). -/
  vbat : Option Int := none
  deriving DecidableEq, Repr


/-! ### Position feedback and the step channels -/

/-- The timing history of a counter (R242, R354): how many edges since EN became 1, up to two; EPOCH and slate, as one
number, at the recognition of the last edge and as its stamp shows them; its direction; and the rate word. -/
structure EdgeTime where
  edges : Nat := 0
  seenAt : Nat := 0
  stamp : Nat := 0
  neg : Bool := false
  period : Nat := 0x7FFF
  deriving DecidableEq, Repr

/-- A step channel (R239). -/
structure SiCh where
  count : Word := 0
  hist : EdgeTime := {}
  /-- The direction of the last counted edge since EN became 1 (R375): true is negative. -/
  dir : Option Bool := none
  /-- CLR waits for the cut (R248); a timing violation was raised in this frame (R241). -/
  clear : Bool := false
  timing : Bool := false
  deriving DecidableEq, Repr

/-- A quadrature channel (R351 to R357). -/
structure QdCh where
  /-- The recognised levels of A, B and I. -/
  a : Bool := false
  b : Bool := false
  i : Bool := false
  count : Word := 0
  angle : Nat := 0
  turns : Word := 0
  hist : EdgeTime := {}
  /-- The direction of the last counted edge since EN became 1 (R354, R375): true is negative. -/
  dir : Option Bool := none
  /-- A preset waits for the cut (R383); QD_ILLEGAL was raised in this frame (R352). -/
  preset : Option Word := none
  illegal : Bool := false
  deriving DecidableEq, Repr

/-- A SENT channel (R360 to R365). -/
structure SnCh where
  /-- The calibration pulse that the next one is held against, in D4 cycles (R360). -/
  cal : Option Nat := none
  /-- A frame was used since EN became 1, and the last position value (R363). -/
  started : Bool := false
  last : Nat := 0
  /-- The direction of the last change of COUNT: true is negative (R375). -/
  dir : Option Bool := none
  /-- A frame was used since the last cut (R366). -/
  fresh : Bool := false
  /-- Status bits 3 and 2 of the valid frames of the message in progress, oldest first (R365). -/
  serial : List (Bool × Bool) := []
  /-- SENT_CRC and SENT_FORMAT were raised in this frame (R361, R382). -/
  crcSeen : Bool := false
  formatSeen : Bool := false
  /-- EPOCH and slate, as one number, of the stamp of the last used frame (R366). -/
  stamp : Nat := 0
  deriving DecidableEq, Repr

/-- An emulation output (R376): the accumulated source, in 1/256 microstep or in counts; the last angle sample; the
output count; and when it changed last, as EPOCH and slate in one number. -/
structure EeCh where
  acc : Int := 0
  theta : Option Nat := none
  out : Int := 0
  moved : Option Nat := none
  clear : Bool := false
  deriving DecidableEq, Repr

/-- The POS block beside its registers (chapter 10), and the step channels (chapter 06). -/
structure Pos where
  si : List SiCh := List.replicate 4 {}
  qd : List QdCh := List.replicate 4 {}
  sn : List SnCh := List.replicate 4 {}
  ee : List EeCh := List.replicate 2 {}
  /-- Latches that raised LATCH_OVERRUN in this frame (R372), and latches that hold a stamp (R40). -/
  overrun : BitVec 8 := 0
  stamped : BitVec 8 := 0
  /-- CMP_OUT pulses in progress (R374). -/
  pulse : BitVec 4 := 0
  /-- The pins have taken their functions (R350), and the pins that are high-impedance because a splice changes their
  function in this cut. -/
  pinsOn : Bool := false
  moving : BitVec 15 := 0
  /-- The output pins that something outside holds, and the level it holds them at (R384, R385). -/
  held : BitVec 15 := 0
  heldHigh : BitVec 15 := 0
  deriving DecidableEq, Repr

/-! ### Axes as D1 serves them -/

/-- What D1 keeps of an axis beside its registers (chapters 05, 06 and 08). -/
structure MotAx where
  /-- A SETPOS waits for its frame (R181). -/
  setpos : Option Word := none
  /-- The next snapshot carries MARK_UNC (R627). -/
  markUnc : Bool := false
  /-- TARGET_BLOCKED was raised for the target that the frame decides on, and another target waits for the next snapshot
  (R198, R211). -/
  blocked : Bool := false
  fresh : Bool := false
  /-- Indices of the BOOT delivery still to come (R205). -/
  bootLeft : Nat := 0
  /-- SNAP1 as last delivered. -/
  snap1 : Word := 0
  /-- IRUN and IHOLD as the engine holds them (R180, R204). -/
  irun : Nat := 0
  ihold : Nat := 0
  /-- The CORR_MAX that the engine holds (R294), and an uncorrected slip in the present episode (R295). -/
  corrMax : Nat := 0
  unbounded : Bool := false
  /-- When the frame opened, the axis was in its safe state or BMODE was OFF or SHORT; or it had committed DRIVE,
  which ends the drift; and ROTOR_DRIFT was raised since it last had (R298). -/
  idle : Bool := false
  driving : Bool := false
  drifted : Bool := false
  /-- The commanded angle at the samples of the frame that opened, and its VEL (R286); the rotor's angle in microsteps
  that the last published frame gave; and the drift D (R298). -/
  opened : Nat × Int := (0, 0)
  rotor : Option Int := none
  drift : Int := 0
  /-- Consecutive tagged frames with a deviation above DEVMAX (R367). -/
  devRun : Nat := 0
  /-- An accepted homing waits for its first frame (R302). -/
  homeStart : Bool := false
  /-- LIM_REF waits, or has been delivered; LIM_OPP waits (R306). -/
  limRef : Bool := false
  limDone : Bool := false
  limOpp : Bool := false
  /-- Debounced edges of LIM_POS and LIM_NEG since the last cut (R368). -/
  edgePos : Bool := false
  edgeNeg : Bool := false
  /-- DONE or FAILED has become visible, and D1 has yet to write the axis registers (R308). -/
  homeEnd : Bool := false
  /-- The host has written AXn_TARGET since ENGAGE became 0 (R229). -/
  tgtWritten : Bool := false
  /-- A splice left the slot of SEL empty (R236). -/
  setEmpty : Bool := false
  deriving DecidableEq, Repr

/-! ### Converters -/

/-- A converter core (chapter 11). -/
structure AdcCore where
  /-- It was declared failed in the present frame (R398, R402). -/
  failedNow : Bool := false
  /-- It failed while no spare was left: its slots deliver nothing valid (R403). -/
  uncovered : Bool := false
  /-- A calibration is requested, and runs (R400). -/
  calWaits : Bool := false
  calRuns : Bool := false
  /-- The trims that a calibration found, until they take effect (R400, R401). -/
  trim : Option (Int × Int) := none
  deriving DecidableEq, Repr

/-- The filter of a channel, or of a die-temperature sensor (R396, R397): its history, oldest first, and the conversions
left of the settling interval, those of a gain change first. -/
structure AdcUnit where
  hist : List Int := []
  gainLeft : Nat := 0
  filtLeft : Nat := 0
  deriving DecidableEq, Repr

/-- An injected conversion as it was requested (R399): its channel, sensor and core. One requested behind a calibration of
its core waits until the core has resumed its slots (R400). -/
structure AdcInj where
  channel : Nat
  sensor : Nat
  core : Nat
  after : Bool
  deriving DecidableEq, Repr

/-- The converters beside their registers (chapter 11). -/
structure Adc where
  cores : List AdcCore := List.replicate 6 {}
  /-- Channels 0 to 55, then T0 to T3. -/
  units : List AdcUnit := List.replicate 60 {}
  /-- The core whose slots AD5 carries while it calibrates (R400). -/
  standFor : Option Nat := none
  /-- The injected conversion that is requested and not complete (R399). -/
  inj : Option AdcInj := none
  /-- CLIP was raised in this frame (R406). -/
  clipSeen : Bool := false
  /-- The result of an interleaved slot's scheduled conversion, until the partner's end: slot and word (R394). -/
  half : List (Nat × Word) := []
  deriving DecidableEq, Repr

/-! ### Chain -/

/-- What a receiver keeps of another device of the chain (R489): the reconstructed position of each slot, the cuts since
its last valid record, and GEN and VALID of its record in the present frame. -/
structure ChnDev where
  q : List (Option Word) := List.replicate 4 none
  silent : Nat := 0
  gen : Half := 0
  valid : BitVec 4 := 0
  deriving DecidableEq, Repr

/-- The Edduwin chain beside its registers (chapter 14). -/
structure Chn where
  devs : List ChnDev := List.replicate 8 {}
  /-- Positions whose record was valid in the present frame, and GEN of the master's last valid record (R493). -/
  recOk : BitVec 8 := 0
  masterGen : Half := 0
  /-- Claps in a row with a phase error of at most 2 ticks, and the frames that HOLDOVER has lasted (R480). -/
  good : Nat := 0
  held : Nat := 0
  /-- The state has been LOST and not LOCKED since (R543). -/
  lost : Bool := false
  /-- A clap was recognised in the present frame; the correction that the next cut takes from it (R478). -/
  clapped : Bool := false
  applied : Int := 0
  /-- The slate of the last clap recognised, and the last intervals between claps, the latest first (R482). -/
  lastClap : Option Slate := none
  intervals : List Nat := []
  /-- The slate at which the master raised CLAP last (R477). -/
  clapAt : Option Slate := none
  /-- Bytes 0 to 14 of the device's own record of the frame, the record as sent, and the slate at which the open chain
  window ends (R484, R487). -/
  record : List Byte := []
  sent : List Byte := []
  windowEnd : Option Slate := none
  /-- RECORD_CRC and WINDOW_ABORT were raised in this frame (R497). -/
  crcSeen : Bool := false
  abortSeen : Bool := false
  deriving DecidableEq, Repr
/-! ### The whole block -/

/-- The state of the block. -/
structure State where
  /-- The variant (R2). -/
  part : Part := .itx1216
  /-- The registers: (host address, value in effect), listed where it differs from the reset value (R15, R20). -/
  regs : List (Nat × Word) := []
  /-- Values written to CUT registers and waiting for the cut (R20, R23): address, value, and the mask of written bits. -/
  waiting : List (Nat × Word) := []
  /-- Words latched by read-snapshot reads, by path and address (R20, R528). -/
  latched : List ((Path × Nat) × Word) := []
  clk : Clk := {}
  sys : Sys := {}
  keep : Keep := {}
  reel : Reel := {}
  /-- E0 to E7 and, at index 8, ES. -/
  engs : List Eng := List.replicate 9 {}
  intg : Intg := {}
  mgt : Mgt := {}
  can : Can := {}
  mem : Mem := {}
  spi : Spi := {}
  mods : List ModAx := List.replicate 12 {}
  modg : ModG := {}
  pwr : Pwr := {}
  adc : Adc := {}
  pos : Pos := {}
  mots : List MotAx := List.replicate 12 {}
  chn : Chn := {}
  /-- Words in flight, by crossing, oldest first (R29, R31). -/
  queues : List (Xing × List Msg) := []
  /-- The embedded flash: (offset, byte), unlisted offsets erased, 0xFF (R554, R88). -/
  flash : List Host.Cell := []
  /-- 64-bit words of flash that carry an error, by offset (R555). -/
  flashFlaws : List (Nat × FlashFlaw) := []
  /-- The model's own field: how many open values have been drawn (see `Config.openBits`). -/
  drawn : Nat := 0
  /-- The commands that wait, first in, first out. -/
  pending : List Instr := []
  deriving DecidableEq, Repr

/-- The block right after reset: held in reset with cause POWER_ON and FAULT_N asserted (R599), nothing in flash, nothing
written and no command waiting. -/
def State.reset : State := { sys := { causes := 1 }, intg := { pinFault := true } }

end Sys2Proof.Machine
end

