-- ==== Sys2Proof/Machine/Ops.lean ====
section
/-!
DEFINITION. The named operations every meaning is written over: reading and writing registers and their fields, the
slate and its stamps, drawing an open value, the crossings, and the axis and engine assignment in force.
-/
namespace Sys2Proof.Machine

/-- What a meaning answers. -/
abbrev Out := Host.Outcome State Fault Refusal

/-! ### Registers and fields -/

/-- The value in effect of the register at `a`. -/
def State.word (s : State) (a : Nat) : Word := Store.get regReset s.regs a

/-- The state with the register at `a` holding `v`. -/
def State.setWord (s : State) (a : Nat) (v : Word) : State :=
  { s with regs := Store.put regReset s.regs a v }

/-- The bits of a field, at its place in the word. -/
def Fld.mask (f : Fld) : Word := (BitVec.ofNat 32 (2 ^ f.w - 1)) <<< f.lo

/-- The field's value in a word. -/
def Fld.of (f : Fld) (w : Word) : Nat := (w >>> f.lo).toNat % 2 ^ f.w

/-- The word with the field holding `v`. -/
def Fld.into (f : Fld) (w : Word) (v : Nat) : Word :=
  (w &&& ~~~f.mask) ||| ((BitVec.ofNat 32 v <<< f.lo) &&& f.mask)

/-- The value of a field of the register file. -/
def State.fld (s : State) (f : Fld) : Nat := f.of (s.word f.addr)

/-- The state with a field holding `v`, wrapped to its width. -/
def State.put (s : State) (f : Fld) (v : Nat) : State := s.setWord f.addr (f.into (s.word f.addr) v)

/-- Bit `i` of a field. -/
def State.bitOf (s : State) (f : Fld) (i : Nat) : Bool := (s.fld f).testBit i

/-- A one-bit field as a truth value. -/
def State.flag (s : State) (f : Fld) : Bool := s.fld f == 1

/-- The state with bit `i` of a field set to `b`. -/
def State.putBit (s : State) (f : Fld) (i : Nat) (b : Bool) : State :=
  s.put ⟨f.addr, f.lo + i, 1⟩ b.toNat

/-- The field increased by `n`, saturating at its largest value. -/
def State.bump (s : State) (f : Fld) (n : Nat) : State := s.put f (min (s.fld f + n) (2 ^ f.w - 1))

/-- The field increased by one, wrapping. -/
def State.incr (s : State) (f : Fld) : State := s.put f (s.fld f + 1)

/-- Apply `f` to the state when `b` holds. -/
def State.when (s : State) (b : Bool) (f : State → State) : State := if b then f s else s

/-- Apply `f` for every element of a list in turn. -/
def State.each {β : Type} (s : State) (l : List β) (f : State → β → State) : State := l.foldl f s

/-! ### Written values -/

/-- The bits of the register at `a` that a write takes at once (R18, R20). -/
def rwMask (a : Nat) : Word := match regRow a with | some r => BitVec.ofNat 32 r.rw | none => 0

/-- The bits that a write to the register at `a` buffers for the next cut. -/
def cutMask (a : Nat) : Word :=
  match regRow a with
  | some r => BitVec.ofNat 32 r.cut
  | none => 0

/-- A value waits for the next cut; the last one written stands (R20, R23). -/
def State.await (s : State) (a : Nat) (v : Word) : State :=
  { s with waiting := Assoc.put s.waiting a (v &&& cutMask a) }

/-- The register at `a` as last written: what waits for the cut, over the value in effect (R20). -/
def State.lastWritten (s : State) (a : Nat) : Word :=
  match Assoc.get s.waiting a with
  | some v => (s.word a &&& ~~~cutMask a) ||| v
  | none => s.word a

/-! ### Time -/

/-- Slate and EPOCH as one 64-bit number (R42). -/
def State.time (s : State) : Nat := s.clk.epoch.toNat * 2 ^ 48 + s.clk.slate.toNat

/-- The slate moved on to `t` where `t` lies ahead, EPOCH counting a wrap (R35, R37); else the slate as it is. -/
def State.advanceTo (s : State) (t : Slate) : State :=
  if (t - s.clk.slate).toNat < 2 ^ 47 then
    { s with clk := { s.clk with
        slate := t
        epoch := if t.toNat < s.clk.slate.toNat then s.clk.epoch + 1 else s.clk.epoch } }
  else s

/-- The slate that the generator showed `n` ticks ago: never one from before BOOT, where it counts from 0 (R35, R36). -/
def State.slateBack (s : State) (n : Nat) : Slate := BitVec.ofNat 48 (s.time - n)

/-- The slate an island samples `lag` ticks behind the generator, the lag held within the island's bounds (R36). -/
def State.sampled (s : State) (lo hi lag : Nat) : Slate := s.slateBack (max lo (min hi lag))

/-- A 32-bit stamp as D2 takes it: 1 to 3 ticks behind the generator (R36, R38). -/
def State.stampD2 (s : State) (lag : Nat) : Word := (s.sampled 1 3 lag).setWidth 32

/-- The sampled slate of an event that was recognised in the past, `back` ticks behind the generator's count of now: the
time since then with the island's lag in it, which is one tick at least (R36, R38). -/
def State.sampledBack (s : State) (back : Nat) : Slate := s.slateBack (max 1 back)

/-- A 32-bit stamp as D4 takes it: 1 to 2 ticks behind the generator (R36, R38). -/
def State.stampD4 (s : State) (lag : Nat) : Word := (s.sampled 1 2 lag).setWidth 32

/-- The 32-bit stamp of an event that an island recognised in the past (R36, R38). -/
def State.stampBack (s : State) (back : Nat) : Word := (s.sampledBack back).setWidth 32

/-! ### Open values -/

/-- An open value, and the state that has drawn it. -/
def State.draw (s : State) : DWord × State := (Config.openBits s.drawn, { s with drawn := s.drawn + 1 })

/-! ### Modes -/

/-- The islands besides D0 are powered: neither OFF, nor SLEEP, nor reset. -/
def State.powered (s : State) : Bool :=
  !s.sys.inReset && (match s.sys.mode with | .off => false | .sleep => false | _ => true)

/-- The modes in which the engine islands are clocked (R27). -/
def Mode.lists : Mode → Bool
  | .run => true | .degraded => true | .safe => true | .service => true | _ => false

/-- The modes in which MC does the work of R566. -/
def Mode.supervises : Mode → Bool
  | .standby => true | .run => true | .degraded => true | .safe => true | .service => true | _ => false

/-- MC runs firmware and is not stopped. -/
def State.mcRuns (s : State) : Bool := s.mgt.mcOk && !s.mgt.stopped

/-- VIO is in range: the GP, serial-port and CLAP pins are alive (R584). -/
def State.vioOk (s : State) : Bool := !s.sys.vioLow

/-! ### Axes and engines -/

/-- The ENGINE_MAP entry of axis `n`. -/
def State.axisEntry (s : State) (n : Nat) : Option EngineEntry :=
  s.reel.struct.engines.find? (fun x => x.axis == n)

/-- Axis `n` is used: an engine serves it (R77). -/
def State.axisUsed (s : State) (n : Nat) : Bool := (s.axisEntry n).isSome

/-- The used axes, in order. -/
def State.usedAxes (s : State) : List Nat := (List.range 12).filter s.axisUsed

/-- What D1 keeps of axis `n`. -/
def State.mot (s : State) (n : Nat) : MotAx := Tbl.get {} s.mots n

/-- The axis at position `pos` of engine `e`. -/
def State.axisAt (s : State) (e pos : Nat) : Option Nat :=
  (s.reel.struct.engines.find? (fun x => x.engine == e && x.pos == pos)).map EngineEntry.axis

/-- The axes of engine `e` in POS order. -/
def State.engineAxes (s : State) (e : Nat) : List Nat := (List.range 3).filterMap (s.axisAt e)

/-- The engine of axis `n`. -/
def State.engineOf (s : State) (n : Nat) : Option Nat := (s.axisEntry n).map EngineEntry.engine

/-- The bridge of axis `n`. -/
def State.bridgeOf (s : State) (n : Nat) : Option Bridge :=
  s.reel.struct.bridges.find? (fun x => x.axis == n)

/-- Axis `n` exists on the variant (R2). -/
def Part.hasAxis : Part → Nat → Bool
  | .itx1216, n => n < 12
  | .itx1208l, n => 4 ≤ n && n < 12
  | .itx1204h, n => n < 4

/-- Axis `n` is a heavy axis. -/
def heavy (n : Nat) : Bool := n < 4

/-- A set of axes as a mask. -/
def axisMask (l : List Nat) : BitVec 12 := l.foldl (fun m n => m ||| (1#12 <<< n)) 0

/-- Whether axis `n` stands in a mask. -/
def inMask (m : BitVec 12) (n : Nat) : Bool := m.getLsbD n

/-! ### Engine states -/

/-- The codes of ENG_En_STAT.STATE (R137). -/
def stUnused : Nat := 0
def stGated : Nat := 1
def stRunning : Nat := 2
def stFaulted : Nat := 3
def stCovered : Nat := 4
def stReturning : Nat := 5

/-- Engine `e` of the engine table. -/
def State.eng (s : State) (e : Nat) : Eng := Tbl.get {} s.engs e

/-- The state with engine `e` changed by `f`. -/
def State.modEng (s : State) (e : Nat) (f : Eng → Eng) : State := { s with engs := Tbl.mod s.engs e f }

/-- The engine whose list engine `e` runs: itself, or for ES the engine it covers (R127). -/
def State.serves (s : State) (e : Nat) : Nat :=
  if e = 8 then s.fld INT_REC.ENGINE else e

/-- The island of engine `e`: D7 to D10 in pairs, D11 for ES. -/
def engIsland (e : Nat) : Nat := if e = 8 then 11 else 7 + e / 2

/-- The unit number of engine `e` on the crossings. -/
def engUnit (e : Nat) : Nat := 10 + e

/-! ### Crossings -/

/-- The words in flight on a crossing. -/
def State.queue (s : State) (x : Xing) : List Msg := (Assoc.get s.queues x).getD []

/-- The state with `l` in flight on a crossing. -/
def State.setQueue (s : State) (x : Xing) (l : List Msg) : State :=
  { s with queues := if l.isEmpty then Assoc.del s.queues x else Assoc.put s.queues x l }

end Sys2Proof.Machine
end

