-- ==== Sys2Proof/Machine/Flags.lean ====
section
/-!
DEFINITION. Fault flags and fault codes (R24 to R26, R547), the records the continuity log takes of them (R571, R572),
the recovery events (R552), and the pins FAULT_N and IRQ_N (R549 to R551).
-/
namespace Sys2Proof.Machine

/-! ### The continuity log's queue -/

/-- The bounds of the lag of the island that raises a code (R26, R27, R36): a FAULT record by its source block, every
other record by D1. A fault of MOT carries the slate of its cut (R211). Of SYS, CLK, MEM and GPM the manual names no one
island: they have the widest bounds (log entry 98). -/
def recLags (kind code : Nat) : Nat × Nat :=
  if kind ≠ 1 then (1, 2)
  else
    match code / 256 with
    | 0x05 => (0, 0) | 0x0B => (0, 0)
    | 0x0C => (1, 3) | 0x0D => (1, 3) | 0x13 => (1, 3)
    | 0x01 => (0, 3) | 0x02 => (0, 3) | 0x0E => (0, 3) | 0x14 => (0, 3)
    | _ => (1, 2)

/-- The time of a record, EPOCH and slate as one number (R42): the slate that the raising island samples (R38, R569). -/
def State.recTime (s : State) (kind code aux : Nat) : Nat :=
  let b := recLags kind code
  s.time - max b.1 (min b.2 (Config.recordLag s.time kind code aux).toNat)

/-- A record with the slate and EPOCH of the event (R569). -/
def State.mkRec (s : State) (kind code aux : Nat) (d0 d1 d2 : Word) : LogRec :=
  let t := s.recTime kind code aux
  { epoch := BitVec.ofNat 16 (t / 2 ^ 48), slate := BitVec.ofNat 48 t, code := code, kind := kind, aux := aux,
    data0 := d0, data1 := d1, data2 := d2 }

/-- A record at the tail of the log queue, or, where that is full, dropped and counted (R572); whether it entered. -/
def State.pushRec (s : State) (r : LogRec) : Bool × State :=
  if 64 ≤ s.mgt.queue.length then
    (false, ({ s with mgt := { s.mgt with dropped := s.mgt.dropped + 1 } }).bump MGT_LOG_STAT.DROPPED 1)
  else (true, { s with mgt := { s.mgt with queue := s.mgt.queue ++ [r] } })

/-- A fault flag, with LAST and COUNT of its block, before any record is made of it; the code waits for the next fault
message (R435). -/
def State.setFault (s : State) (flagReg bit codeReg unitBits code unit : Nat) : State :=
  let s := s.setWord flagReg (s.word flagReg ||| (1#32 <<< bit))
  let s := s.put ⟨codeReg, 0, 16⟩ code
  let s := s.put ⟨codeReg, 16, unitBits⟩ unit
  let s := s.bump ⟨codeReg, 16 + unitBits, 16 - unitBits⟩ 1
  { s with can := { s.can with faultLast := code, faultCount := min 0xFFFF (s.can.faultCount + 1) } }

/-- When a code was last recorded. -/
def State.recentOf (s : State) (code : Nat) : Recent :=
  (s.mgt.recent.find? (fun r => r.code == code)).getD { code := code, time := none, count := 0 }

/-- The state with a code's last record noted. -/
def State.setRecent (s : State) (r : Recent) : State :=
  { s with mgt := { s.mgt with recent := s.mgt.recent.filter (fun q => q.code != r.code) ++ [r] } }

/-- The FAULT record of a code (R570, R571), entered by `enter`: a code recorded in the last 80 000 000 ticks is only
counted, and so is one whose record is dropped. -/
def State.faultRec (s : State) (enter : State → LogRec → Bool × State) (code aux : Nat) : State :=
  let now := s.time
  let q := s.recentOf code
  let soon := match q.time with | some t => decide (now < t + 80000000) | none => false
  if soon then s.setRecent { q with count := q.count + 1 }
  else
    let r := enter s (s.mkRec 0x01 code aux (u32 q.count) (u32 s.sys.mode.code) 0)
    if r.1 then r.2.setRecent { q with time := some now, count := 0 } else r.2.setRecent { q with count := q.count + 1 }

/-- A record that arrives at the log queue, and whether it entered (R572). The first one that enters after a drop is
preceded by an OVERFLOW record, and LOG_OVERFLOW is raised with its own record. The boot ROM keeps no log (R558). -/
def State.enterRec (s : State) (r : LogRec) : Bool × State :=
  if s.mgt.bootRom then (false, s)
  else if 64 ≤ s.mgt.queue.length || s.mgt.dropped = 0 then s.pushRec r
  else
    let n := s.mgt.dropped
    let s := { s with mgt := { s.mgt with dropped := 0 } }
    let s := (s.pushRec (s.mkRec 0x09 0 0 (u32 n) 0 0)).2
    let s := s.setFault MGT_FAULT 1 MGT_FAULT_CODE 0 0x1002 0
    (s.faultRec State.pushRec 0x1002 0xFF).pushRec r

/-- A record that arrives at the log queue (R572). -/
def State.logRec (s : State) (r : LogRec) : State := (s.enterRec r).2

/-- The FAULT record of a code (R571). -/
def State.logFault (s : State) (code aux : Nat) : State := s.faultRec State.enterRec code aux

/-! ### Raising a fault -/

/-- The register that holds the flags of source block `b` (R547), for MOT of axis `unit`. -/
def faultReg (b unit : Nat) : Nat :=
  match b with
  | 0x01 => SYS_FAULT | 0x02 => CLK_FAULT | 0x03 => REEL_FAULT | 0x04 => ENG_FAULT | 0x05 => AX_FAULT unit
  | 0x06 => CAM_FAULT | 0x07 => MOD_FAULT | 0x08 => PWR_FAULT | 0x09 => LAS_FAULT | 0x0A => POS_FAULT
  | 0x0B => ADC_FAULT | 0x0C => CAN_FAULT | 0x0D => SPI_FAULT | 0x0E => MEM_FAULT | 0x0F => INT_FAULT
  | 0x10 => MGT_FAULT | 0x11 => ENG_FAULT | 0x12 => MGT_FAULT | 0x13 => CHN_FAULT | _ => GPM_FAULT

/-- The width of the unit or axis field of a block's FAULT_CODE register. -/
def faultUnitBits (b : Nat) : Nat :=
  match b with
  | 0x08 => 4 | 0x09 => 4 | 0x0A => 4 | 0x0B => 6 | 0x0E => 5 | _ => 0

/-- A fault after which MC falls back from a take in trial (R565): an ENG or ES fault other than FORCED, LOADED_CRC or
STAGE_CRC. -/
def fallbackCode (code : Nat) : Bool :=
  ((code / 256 == 0x04 || code / 256 == 0x11) && code % 256 != 0x0B) || code == 0x030D || code == 0x030E

/-- Raise a fault code (R24): the flag of its cause, LAST and COUNT of its block, and its log record (R571). An ENG, ES
or REEL fault also marks a running reel trial (R103), and some make MC fall back from it (R565). -/
def State.raise (s : State) (code : Nat) (unit : Nat := 0) : State :=
  let b := code / 256
  let r := faultReg b unit
  let bit := code % 256 - 1 + (if b = 0x12 then 16 else 0)
  let ub := faultUnitBits b
  let s := s.setFault r bit (r + 4) ub code unit
  let s := if b = 0x03 || b = 0x04 || b = 0x11 then { s with reel := { s.reel with
      trialFault := true
      fallbackWait := s.reel.fallbackWait || (fallbackCode code && s.flag REEL_STAT.TRIAL && s.flag MGT_POLICY.FALLBACK) } }
    else s
  s.logFault code (if ub = 0 then 0xFF else unit)

/-! ### Crossings that overflow -/

/-- A word launched over a crossing (R32): the queue holds four words, and a word that meets a full queue is discarded,
counted in QOVF_CNT, and raises QUEUE_OVF. -/
def State.launch (s : State) (x : Xing) (m : Msg) : State :=
  if 4 ≤ (s.queue x).length then (s.bump CLK_CUT_ERR.QOVF_CNT 1).raise 0x0209
  else s.setQueue x (s.queue x ++ [m])

/-! ### Mode changes and recovery events -/

/-- The device enters mode `m` (R601): PREV and CAUSE, and the MODE record (R570). -/
def State.enter (s : State) (m : Mode) (cause : Nat) : State :=
  let old := s.sys.mode
  let s := { s with sys := { s.sys with mode := m } }
  let s := (s.put SYS_MODE.PREV old.code).put SYS_MODE.CAUSE cause
  s.logRec (s.mkRec 0x02 0 m.code (u32 old.code) (u32 cause) 0)

/-- A recovery event in the ring of eight records (R552), and its RECOVERY record in the log (R570). `t` is the time of
the step, EPOCH and slate as one number (R42). -/
def State.event (s : State) (ev eng : Nat) (axes : BitVec 12) (cause t : Nat) : State :=
  let i := s.fld INT_EVT_CNT.TOTAL % 8
  let a : Word := u32 (ev + eng * 2 ^ 8 + axes.toNat * 2 ^ 12 + cause * 2 ^ 24)
  let s := (s.setWord (INT_EVT_A i) a).setWord (INT_EVT_T i) (u32 t)
  let s := ((s.incr INT_EVT_CNT.TOTAL).put INT_EVT_CNT.NEWEST i).put INT_STAT.REC_EVT 1
  s.logRec { s.mkRec 0x03 0 i a (u32 (t / 2 ^ 32)) 0 with epoch := BitVec.ofNat 16 (t / 2 ^ 48), slate := BitVec.ofNat 48 t }

/-! ### FAULT_N and IRQ_N -/

/-- The fault flags of source block `b` are not all 0 (R550). -/
def State.blockFaults (s : State) (b : Nat) : Bool :=
  match b with
  | 0x05 => (List.range 12).any (fun n => s.word (AX_FAULT n) != 0)
  | 0x10 => s.fld MGT_FAULT.FLAGS != 0
  | 0x11 => false
  | 0x12 => s.fld MGT_FAULT.FLS != 0
  | _ => s.word (faultReg b 0) != 0

/-- The source bits of INT_IRQ_SRC (R550, R553). -/
def State.irqSrc (s : State) : Word :=
  let blk := (List.range 20).foldl (fun m k => if s.blockFaults (k + 1) then m + 2 ^ k else m) 0
  let c := s.word CAN_IRQ &&& s.word CAN_IRQ_EN
  u32 (blk + (if c &&& ~~~2#32 != 0 then 2 ^ 20 else 0) + (if c &&& 2#32 != 0 then 2 ^ 21 else 0)
    + s.fld SPI_MW_STAT.DONE * 2 ^ 22 + s.fld ADC_INJ.DONE * 2 ^ 23 + s.fld INT_STAT.REC_EVT * 2 ^ 24)

/-- FAULT_N and IRQ_N are driven (R551, R589, R599): not in OFF, and in SLEEP only until D0 has acknowledged the last
item. -/
def State.pinsLive (s : State) : Bool :=
  match s.sys.mode with
  | .off => false
  | .sleep => s.sys.sleepEntry
  | _ => true

/-- The condition of FAULT_N (R549). -/
def State.faultCond (s : State) : Bool :=
  s.pinsLive && match s.sys.mode with
  | .boot => true
  | .safe => true
  | m =>
    s.fld MOD_STAT.SAFE != 0 || (m == .degraded && s.flag INT_FLT_EN.DEG)
      || (List.range 20).any (fun k => s.bitOf INT_FLT_EN.BLK k && s.blockFaults (k + 1))

/-- The condition of IRQ_N (R550). In OFF, SLEEP and BOOT the pin is high-impedance (R551). -/
def State.irqCond (s : State) : Bool :=
  s.pinsLive && s.sys.mode != .boot && s.irqSrc &&& s.word INT_IRQ_EN != 0

/-- Both pins after a command: a condition asserts its pin, and an asserted pin stays until PIN_HOLD_END releases it
(R551). Where they are not driven both are high-impedance. -/
def State.settle (s : State) : State :=
  { s with intg := { s.intg with
      pinFault := s.pinsLive && (s.intg.pinFault || s.faultCond)
      pinIrq := s.pinsLive && (s.intg.pinIrq || s.irqCond) } }

/-- A command's next state, the pins settled. -/
def done (s : State) : Out := .next s.settle

/-- A command that the block answers only while its islands are powered; otherwise nothing happens. -/
def whenPowered (s : State) (f : State → State) : Out := if s.powered then done (f s) else .next s

/-! ### Accesses of the host -/

/-- D3 holds host accesses: from C - 92 to C + 4 (R54). -/
def State.holding (s : State) : Bool := s.clk.cutsOn && s.clk.phase != .frame

/-- D3 holds a host access: a write of `v`, or a read (R54). -/
def State.hold (s : State) (a : Nat) (v : Option Word) (x : Access) : State :=
  { s with spi := { s.spi with held := s.spi.held ++ [(a, v, x)] } }

/-- D3 is clocked: in BOOT from the moment the regulators are in range (R472, R594). -/
def State.clockedD3 (s : State) : Bool := s.sys.mode != .boot || !(s.sys.boot == .none || s.sys.boot == .started)

/-- The host link is on and served (R471, R472, R584). -/
def State.hostLink (s : State) : Bool := s.clockedD3 && s.flag SPI_CTRL.HOST_EN && s.vioOk

/-- A host access of the register at `a` over the link reaches D3 (R54): `f` is its effect, at once or at the end of the
hold. A link that is off carries none (R471). -/
def hostAccess (s : State) (a : Nat) (v : Option Word) (f : State → State) (x : Access := {}) : Out :=
  whenPowered s fun s => if !s.hostLink then s else if s.holding then s.hold a v x else f s

/-! ### Refused writes -/

/-- An access outcome that the next status byte reports, the highest code of several (R453). -/
def State.outcome (s : State) (code : Nat) : State := { s with spi := { s.spi with result := max s.spi.result code } }

/-- A host write refused by R19: nothing is written, and the next status byte reads REFUSED. -/
def State.refuse (s : State) : State := s.outcome 1

/-- An access of another path than the host's: its outcome, 0, 1 REFUSED or 2 CLEAR_REFUSED, of which the next status byte
of the host hears nothing. -/
def State.apart (s : State) (f : State → State) : Nat × State :=
  let keep := s.spi.result
  let r := f { s with spi := { s.spi with result := 0 } }
  (r.spi.result, { r with spi := { r.spi with result := keep } })

end Sys2Proof.Machine
end

