-- ==== Sys2Proof/Machine/Mem.lean ====
section
/-!
DEFINITION. The banks and the mailbox (chapter 15): words at host addresses, the code over each word and what a read of
an erroneous word does, row repair, the background test, retention, ownership and the atomic operations.
-/
namespace Sys2Proof.Machine

/-! ### Addresses -/

/-- The bank that holds a host address: 0 to 15, or 16 for MB (R499). -/
def bankOf (a : Nat) : Option Nat :=
  if a < 0x40000 then some (a / 0x4000) else if a < 0x41000 then some 16 else none

/-- The row of a bank address: 64 bytes each (R499). -/
def rowOf (a : Nat) : Nat := a % 0x4000 / 64

/-- How many rows a bank has: 256, or 64 for MB (R499). -/
def bankRows (b : Nat) : Nat := if b = 16 then 64 else 256

/-- The host address of row `r` of bank `b`. -/
def rowAddr (b r : Nat) : Nat := 0x4000 * b + 64 * r

/-! ### Bytes and words -/

/-- The byte at a host address of the banks; an unlisted address reads 0 (R524). -/
def memByte (c : List Host.Cell) (a : Nat) : Byte := Store.get (fun _ => 0) c a

/-- The word at `a`, little-endian (R11). -/
def memWord (c : List Host.Cell) (a : Nat) : Word :=
  bytesWord [memByte c a, memByte c (a + 1), memByte c (a + 2), memByte c (a + 3)]

/-- The cells with byte `v` at `a`. -/
def putByte (c : List Host.Cell) (a : Nat) (v : Byte) : List Host.Cell := Store.put (fun _ => 0) c a v

/-- The cells with the bytes `l` from `a` on. -/
def putBytes (c : List Host.Cell) : Nat → List Byte → List Host.Cell
  | _, [] => c
  | a, b :: t => putBytes (putByte c a b) (a + 1) t

/-- The cells with the word `v` at `a`. -/
def putWord (c : List Host.Cell) (a : Nat) (v : Word) : List Host.Cell := putBytes c a (wordBytes v)

/-- The memory's canonical form: addresses strictly rising, no entry equal to 0. -/
abbrev Memory.wf (s : State) : Bool := Store.wf (fun _ => (0 : Byte)) s.mem.cells

/-! ### Banks -/

/-- Bank `b` beside its registers. -/
def State.bank (s : State) (b : Nat) : Bank := Tbl.get {} s.mem.banks b

/-- The state with bank `b` changed by `f`. -/
def State.modBank (s : State) (b : Nat) (f : Bank → Bank) : State :=
  { s with mem := { s.mem with banks := Tbl.mod s.mem.banks b f } }

/-- A fault of the MEM block, with its bank (R525). -/
def State.memFault (s : State) (code b : Nat) : State := s.raise code b

/-! ### Errors -/

/-- The code finds an error that it cannot correct (R507). -/
def Flaw.isDead : Flaw → Bool
  | .dead _ _ => true
  | _ => false

/-- One of the wrong bits flips back after every write (R508). -/
def Flaw.isStuck : Flaw → Bool
  | .stuck => true
  | .dead _ k => k
  | .soft => false

/-- The word at `a` carries the error `f`. -/
def State.putFlaw (s : State) (a : Nat) (f : Flaw) : State :=
  { s with mem := { s.mem with flaws := Assoc.put s.mem.flaws a f } }

/-- The word at `a` carries more errors than its code can correct; the data that then stand there are open. -/
def State.putDead (s : State) (a : Nat) (stuck : Bool) : State :=
  let d := s.draw
  d.2.putFlaw a (.dead (d.1.setWidth 32) stuck)

/-- An error that has arisen in the word at `a` before an access. The code corrects one wrong bit: a second error in a
word that has one makes it uncorrectable, and no error makes it better (R499, R507). -/
def State.plant (s : State) (a : Nat) (e : Ecc) : State :=
  let old := Assoc.get s.mem.flaws a
  match e with
  | .clean => s
  | _ =>
    match old with
    | none => if e == .corr then s.putFlaw a .soft else if e == .stuck then s.putFlaw a .stuck else s.putDead a false
    | some (.dead w k) => s.putFlaw a (.dead w (k || e == .stuck))
    | some f => s.putDead a (f.isStuck || e == .stuck)

/-! ### Retention -/

/-- Bank `b` is ON (R517). -/
def State.bankOn (s : State) (b : Nat) : Bool := s.fld (MEM_B_STAT.PWR b) == 0

/-- An access to a retained bank wakes it (R517). -/
def State.wakeBank (s : State) (b : Nat) : State :=
  if s.fld (MEM_B_STAT.PWR b) = 1 then s.put (MEM_B_STAT.PWR b) 2 else s

/-- No test window is open in bank `b`: its row stands as the save buffer had it, and a stuck bit shows again (R512,
R515). -/
def State.closeWindow (s : State) (b : Nat) : State :=
  let l := (s.bank b).healed
  ((s.put (MEM_B_STAT.TEST_BUSY b) 0).modBank b (fun k => { k with healed := [] })).each l (fun s a => s.plant a .stuck)

/-- Bank `b` is held in retention: RETAIN, with no repair pending in it (R517). It runs no background test. -/
def State.retainBank (s : State) (b : Nat) : State :=
  if s.flag (MEM_B_OWN.RETAIN b) && !s.flag (MEM_B_STAT.REPAIR_PEND b)
  then (s.put (MEM_B_STAT.PWR b) 1).closeWindow b else s

/-- Banks go into retention in STANDBY, but not while a request to leave it is pending (R517, R518). -/
def State.retaining (s : State) : Bool :=
  s.sys.mode == .standby && (s.fld SYS_MODE.PEND == 0 || s.fld SYS_MODE.PEND == 5)

/-! ### Row repair -/

/-- Abort the open test window of bank `b`: its row is restored and tested again at the next period (R515). -/
def State.abortWindow (s : State) (b : Nat) : State :=
  if s.flag (MEM_B_STAT.TEST_BUSY b) then (s.closeWindow b).bump (MEM_B_ECC.ABORTS b) 1 else s

/-- The window of bank `b` is over, and the next one takes the next row (R513). -/
def State.windowOver (s : State) (b : Nat) : State :=
  (s.closeWindow b).put (MEM_B_STAT.TEST_ROW b) ((s.fld (MEM_B_STAT.TEST_ROW b) + 1) % bankRows b)

/-- The save buffer of bank `b` leaves an open test window for the repair of row `r`: a window on that row ends with the
buffer attached (R509, R516), one on another row is aborted (DEDUCED: log entry 63). -/
def State.leaveWindow (s : State) (b r : Nat) : State :=
  if s.flag (MEM_B_STAT.TEST_BUSY b) && s.fld (MEM_B_STAT.TEST_ROW b) == r then s.windowOver b else s.abortWindow b

/-- What the save buffer holds of a word with an error (R509): a correctable word is stored corrected. -/
def Flaw.saved : Flaw → Option Flaw
  | .dead w _ => some (.dead w false)
  | _ => none

/-- What a write of the whole word leaves of an error (R507). -/
def Flaw.rewritten (f : Flaw) : Option Flaw := if f.isStuck then some .stuck else none

/-- The row's words taken into the save buffer (R509): correctable words are stored corrected, uncorrectable ones stay
so. From then on the buffer serves the row. -/
def State.attachSave (s : State) (b r : Nat) : State :=
  let s := s.leaveWindow b r
  let inRow (a : Nat) : Bool := bankOf a == some b && rowOf a == r
  let s := { s with mem := { s.mem with
    flaws := s.mem.flaws.filterMap (fun (p : Nat × Flaw) => if inRow p.1 then p.2.saved.map (fun f => (p.1, f)) else some p)
    corrected := s.mem.corrected.filter (fun a => !inRow a) } }
  s.put (MEM_B_STAT.SAVE_HELD b) 1

/-- Start the first waiting repair of bank `b` (R509 step 1), or attach the buffer to the row that found no spare
(R511), or leave the buffer free. -/
def State.nextRepair (s : State) (b : Nat) : State :=
  match (s.bank b).repairs with
  | (r, _) :: _ =>
    let s := s.modBank b (fun k => { k with copied := false })
    ((s.attachSave b r).put (MEM_B_STAT.REPAIR_PEND b) 1).put (MEM_B_STAT.PEND_ROW b) r
  | [] =>
    let s := (s.modBank b (fun k => { k with copied := false })).put (MEM_B_STAT.REPAIR_PEND b) 0
    match (s.bank b).exhaust with
    | some r => s.attachSave b r
    | none => s.put (MEM_B_STAT.SAVE_HELD b) 0

/-- Row `r` of bank `b` is declared faulty (R508, R510, R511). -/
def State.rowFault (s : State) (b r : Nat) : State :=
  let k := s.bank b
  let known := k.repairs.any (fun p => p.1 == r) || k.exhaust == some r || k.late.contains r
  if known then s
  else
    let s := s.memFault 0x0E03 b
    let used0 := s.flag (MEM_B_REPAIR.USED0 b)
    let used1 := s.flag (MEM_B_REPAIR.USED1 b)
    if !used0 || !used1 then
      let sp := if !used0 then 0 else 1
      let s := if sp = 0 then (s.put (MEM_B_REPAIR.ROW0 b) r).put (MEM_B_REPAIR.USED0 b) 1
               else (s.put (MEM_B_REPAIR.ROW1 b) r).put (MEM_B_REPAIR.USED1 b) 1
      let s := s.modBank b (fun k => { k with repairs := k.repairs ++ [(r, sp)] })
      if k.repairs.isEmpty then s.nextRepair b else s
    else if k.exhaust.isSome then s.modBank b (fun k => { k with late := r :: k.late })
    else
      let s := s.memFault 0x0E05 b
      let s := (s.modBank b (fun k => { k with exhaust := some r })).putBit INT_DEG_CAUSE.CAUSE 6 true
      if k.repairs.isEmpty then s.nextRepair b else s

/-- The bank address of a table in image 0 or 1 (R83). -/
def Table.at (t : Table) (c : Copy) (image : Nat) : Nat := t.at0 + image * c.hdr.imageDelta

/-- Bank `b` holds a table of the staged copy, of a splice or of a reload (R86, R96). -/
def State.stagedIn (s : State) (b : Nat) : Bool :=
  let c : Option Copy := match s.reel.staged with
    | some p => some p.1
    | none => if s.reel.reloaded then some s.reel.active else none
  match c with
  | some c => c.tables.any (fun t =>
      let a := t.at c (1 - s.fld REEL_STAT.IMAGE)
      decide (a < 0x4000 * (b + 1)) && decide (0x4000 * b < a + t.bytes.length))
  | none => false

/-- A repair whose copy has ended is mapped (R509 step 4), and the next one starts (R510). A staged copy in the bank is
checked again (R96), and in STANDBY a bank with no repair left goes into the retention that it put off (R517). -/
def State.mapRepair (s : State) (b : Nat) : State :=
  let k := s.bank b
  match k.repairs, k.copied with
  | (r, sp) :: rest, true =>
    let s := s.modBank b (fun k => { k with repairs := rest })
    let s := (s.bump (MEM_B_STAT.SPARES_USED b) 1).memFault 0x0E04 b
    let s := s.logRec (s.mkRec 0x06 0 b (u32 r) (u32 sp) 0)
    let s := if s.stagedIn b then { s with reel := { s.reel with repairCheck := true } } else s
    let s := s.nextRepair b
    if s.retaining then s.retainBank b else s
  | _, _ => s

/-! ### Reading and writing words -/

/-- Count an error of bank `b` in row `r` (R507). -/
def State.countEcc (s : State) (b r : Nat) (dead : Bool) : State :=
  let s := s.put (MEM_B_ECC.LAST_ROW b) r
  if dead then (s.bump (MEM_B_ECC.UNCORR b) 1).memFault 0x0E02 b
  else
    let s := s.bump (MEM_B_ECC.CORR b) 1
    if s.mem.corrSeen then s
    else ({ s with mem := { s.mem with corrSeen := true } }).memFault 0x0E01 b

/-- The save buffer serves row `r` of bank `b` in an open test window (R514). -/
def State.testServes (s : State) (b r : Nat) : Bool :=
  s.flag (MEM_B_STAT.TEST_BUSY b) && s.fld (MEM_B_STAT.TEST_ROW b) == r

/-- The error that a read of the word at `a` meets. -/
def State.flawAt (s : State) (a : Nat) : Option Flaw := Assoc.get s.mem.flaws a

/-- The corrected word at `a` is written back (R507): into the save buffer where one serves its row, so that a stuck bit
does not show there until the window is over (R514). -/
def State.writeBack (s : State) (a : Nat) (f : Flaw) : State :=
  let b := (bankOf a).getD 0
  let fixed : State := { s with mem := { s.mem with flaws := Assoc.del s.mem.flaws a } }
  if f = .soft then fixed
  else if s.testServes b (rowOf a) then fixed.modBank b (fun k => { k with healed := a :: k.healed.filter (fun x => x != a) })
  else s

/-- Read the word at `a` of the banks: the word, the raw data where its code found it uncorrectable, whether it did, and
the state after the write-back, the counts, the fault and the row's fate (R507, R508). -/
def State.readMem (s : State) (a : Nat) : Word × Bool × State :=
  let w := memWord s.mem.cells a
  let b := (bankOf a).getD 0
  let r := rowOf a
  match s.flawAt a with
  | none => (w, false, { s with mem := { s.mem with corrected := s.mem.corrected.filter (fun x => x != a) } })
  | some (.dead raw _) => (raw, true, (s.countEcc b r true).rowFault b r)
  | some fl =>
    let again := s.mem.corrected.contains a
    let s := (s.countEcc b r false).writeBack a fl
    let s := { s with mem := { s.mem with corrected := if again then s.mem.corrected else a :: s.mem.corrected } }
    (w, false, if again then s.rowFault b r else s)

/-- Write the word `v` at `a` of the banks: data and check bits are replaced (R507), and a test window open on the row
is aborted (R515). -/
def State.writeMem (s : State) (a : Nat) (v : Word) : State :=
  let s := { s with mem := { s.mem with
    cells := putWord s.mem.cells a v
    flaws := s.mem.flaws.filterMap (fun (p : Nat × Flaw) => if p.1 = a then p.2.rewritten.map (fun f => (p.1, f)) else some p)
    corrected := s.mem.corrected.filter (fun x => x != a) } }
  match bankOf a with
  | some b => if s.fld (MEM_B_STAT.TEST_ROW b) = rowOf a then s.abortWindow b else s
  | none => s

/-- The loader writes the `n` bytes from `a` on of bank `b`: a retained bank wakes (R517), and a test window open on one
of the rows is aborted (R515). -/
def State.loaderTouch (s : State) (a n b : Nat) : State :=
  let row := rowAddr b (s.fld (MEM_B_STAT.TEST_ROW b))
  let s := s.wakeBank b
  if decide (a < row + 64) && decide (row < a + n) then s.abortWindow b else s

/-- The bytes `l` stand from `a` on, with their check bits (R507). -/
def State.placeBytes (s : State) (a : Nat) (l : List Byte) : State :=
  { s with mem := { s.mem with
    cells := putBytes s.mem.cells a l
    flaws := s.mem.flaws.filterMap (fun (p : Nat × Flaw) =>
      if decide (a ≤ p.1) && decide (p.1 < a + l.length) then p.2.rewritten.map (fun f => (p.1, f)) else some p)
    corrected := s.mem.corrected.filter (fun x => !(decide (a ≤ x) && decide (x < a + l.length))) } }

/-- The banks that hold some of the `n` bytes from `a` on. -/
def bankSpan (a n : Nat) : List Nat :=
  (List.range 17).filter (fun b => decide (a < rowAddr b 256) && decide (rowAddr b 0 < a + n))

/-- Bytes placed by the loader, whatever the owner (R524); a partial last word is completed with what it held. -/
def State.loadBytes (s : State) (a : Nat) (l : List Byte) : State :=
  (s.each (bankSpan a l.length) (fun s b => s.loaderTouch a l.length b)).placeBytes a l

/-! ### Retention of all banks -/

/-- Every retained bank starts to wake (R518). -/
def State.wakeAll (s : State) : State := s.each (List.range 17) State.wakeBank

/-- Every bank is ON (R518). -/
def State.allOn (s : State) : Bool := (List.range 17).all s.bankOn

/-- The banks that RETAIN names enter retention at the cut that enters STANDBY, but not with a repair pending (R517). -/
def State.retainAll (s : State) : State := s.each (List.range 17) State.retainBank

/-- A bank whose RETAIN a cut has cleared wakes, since it stays ON (R517). -/
def State.retainCut (s : State) : State :=
  s.each (List.range 17) (fun s b => if s.flag (MEM_B_OWN.RETAIN b) then s else s.wakeBank b)

/-! ### Ownership -/

/-- Engine `e` may access bank `b`: its island owns the bank, or ES holds the lent slot of the engine it covers
(R112, R114, R503). -/
def State.mayAccess (s : State) (e b : Nat) : Bool :=
  let o := s.fld (MEM_B_OWN.OWNER b)
  o == engIsland e || (e == 8 && s.flag (MEM_B_STAT.LENT b) && o == engIsland (s.fld INT_REC.ENGINE))

/-- Lend or return the access slot of engine `n` in every bank its island owns (R503). -/
def State.lend (s : State) (n : Nat) (on : Bool) : State :=
  s.each (List.range 17) (fun s b =>
    if s.fld (MEM_B_OWN.OWNER b) = engIsland n then s.put (MEM_B_STAT.LENT b) on.toNat else s)

/-- The island that BANK_MAP of the active take names for bank `b`, with its IMAGE bit. -/
def State.bankMap (s : State) (b : Nat) : Option BankEntry := s.reel.struct.banks[b]?

/-- A write of `v` to MEM_Bb_OWN is refused (R502). -/
def State.ownRefused (s : State) (b : Nat) (v : Word) : Bool :=
  let o := (MEM_B_OWN.OWNER b).of v
  decide (o ≠ s.fld (MEM_B_OWN.OWNER b)) &&
    (o == 0 || decide (7 ≤ o) || s.sys.mode == .boot ||
      (match s.bankMap b with
       | some m => decide (7 ≤ m.owner) || m.image
       | none => false))

/-! ### Atomic bit operations -/

/-- A collision of a mailbox access with port A (R461). BUSY_N is high-impedance in BOOT (R599). -/
def State.collide (s : State) : State :=
  (({ s with spi := { s.spi with busyN := s.spi.busyN || s.sys.mode != Mode.boot } }).bump SPI_HERR.MB_COLL 1).raise 0x0D07

/-- Port A writes a word of the mailbox (R521, R522). -/
def State.portA (s : State) (a : Nat) (v : Word) : State := (s.writeMem a v).incr MEM_MB_CNT.A_WR

/-- The owner's processor writes a word of its bank: of MB through port A, which counts it (R500, R521, R522). -/
def State.ownerWrite (s : State) (a : Nat) (v : Word) : State :=
  if bankOf a = some 16 then s.portA a v else s.writeMem a v

/-- Port A's write of `v` to the word of an access to MB goes first, and the access counts as a collision (R461, R521). -/
def State.collided (s : State) (a : Nat) (v : Option Word) : State :=
  match v with
  | some v => if bankOf a = some 16 then (s.portA a v).collide else s
  | none => s

/-- Read, modify and write one word in one bank operation (R519). A read that finds an uncorrectable error writes
nothing, and the write is reported REFUSED. One that meets a write of port A works on port A's value (R521). -/
def State.atomic (s : State) (f : Word → Word) (x : Access) : State :=
  let a := s.fld MEM_AT_ADDR.ADDR
  let s := match bankOf a with | some b => s.wakeBank b | none => s
  let s := (s.plant a x.ecc).collided a x.coll
  match s.readMem a with
  | (w, true, s) => (s.setWord MEM_AT_OLD w).refuse
  | (w, false, s) =>
    let s := (s.setWord MEM_AT_OLD w).writeMem a (f w)
    if 0x40000 ≤ a then s.incr MEM_MB_CNT.B_WR else s

/-- The same operation by port A on a word of MB (R519): what it reads goes to its own alias of MEM_AT_OLD. -/
def State.atomicA (s : State) (a : Nat) (f : Word → Word) (e : Ecc) : State :=
  match (s.plant a e).readMem a with
  | (w, dead, s) =>
    let s := { s with mem := { s.mem with oldA := w } }
    if dead then s else s.portA a (f w)

/-- Every word of the banks and MB is written 0 with valid check bits (R524). -/
def State.clearBanks (s : State) : State :=
  { s with mem := { s.mem with
      cells := [], corrected := []
      flaws := s.mem.flaws.filterMap (fun (p : Nat × Flaw) => p.2.rewritten.map (fun f => (p.1, f))) } }

/-- The rows with a stuck bit: bank and row. Such a row fails its read-back (R524). -/
def State.stuckRows (s : State) : List (Nat × Nat) :=
  s.mem.flaws.filterMap (fun p => if p.2.isStuck then (bankOf p.1).map (fun b => (b, rowOf p.1)) else none)

/-- The patterns of a test window find a fault in row `r` of bank `b` (R512, R516): each writes and reads back both values
of every bit, so a bit that flips back fails one of them. A wrong bit of another kind is restored as it was saved. -/
def State.patternsFail (s : State) (b r : Nat) : Bool :=
  s.mem.flaws.any (fun p => bankOf p.1 == some b && rowOf p.1 == r && p.2.isStuck)
    || (s.bank b).healed.any (fun a => rowOf a == r)

/-! ### Meanings -/

/-- REPAIR_COPY_DONE: the copy to the spare row has ended; the mapping follows in APPLY (R509). -/
def execRepairCopyDone (b : Fin 17) (s : State) : Out :=
  whenPowered s fun s =>
    if (s.bank b).repairs.isEmpty then s else s.modBank b (fun k => { k with copied := true })

/-- TEST_WINDOW: a window opens in a bank that is under test, ON, and holds no save buffer (R513). -/
def execTestWindow (b : Fin 17) (s : State) : Out :=
  whenPowered s fun s =>
    if s.sys.mode != .boot && s.flag MEM_TEST_CTRL.EN && s.flag (MEM_B_OWN.TEST_EN b) && s.bankOn b
        && !s.flag (MEM_B_STAT.SAVE_HELD b) && (s.bank b).exhaust.isNone
    then s.put (MEM_B_STAT.TEST_BUSY b) 1 else s

/-- TEST_WINDOW_END: the window has run its patterns and its restore; a mismatch makes the row faulty (R512, R516): at a
stuck bit that an access has met, or at one that none has, which `mismatch` tells. -/
def execTestWindowEnd (b : Fin 17) (mismatch : Bool) (s : State) : Out :=
  whenPowered s fun s =>
    if s.flag (MEM_B_STAT.TEST_BUSY b) then
      let r := s.fld (MEM_B_STAT.TEST_ROW b)
      let bad := mismatch || s.patternsFail b r
      let s := s.windowOver b
      if bad then s.rowFault b r else s
    else s

/-- TEST_WINDOW_TIMEOUT: a window that has not ended after 1 ms is aborted and counted (R513). -/
def execTestWindowTimeout (b : Fin 17) (s : State) : Out := whenPowered s fun s => s.abortWindow b

/-- BANK_WAKE: a waking bank is ON (R517, R518). -/
def execBankWake (b : Fin 17) (s : State) : Out :=
  whenPowered s fun s => if s.fld (MEM_B_STAT.PWR b) = 2 then s.put (MEM_B_STAT.PWR b) 0 else s

/-- BANK_RETAIN: 100 us without an access return a bank with RETAIN to retention in STANDBY (R517). -/
def execBankRetain (b : Fin 17) (s : State) : Out :=
  whenPowered s fun s =>
    if s.retaining && s.bankOn b then s.retainBank b else s

/-- AT_SET: word OR mask (R519). `x` tells what the code of the word finds, and what port A writes there in the same
cycle, if it does (R521). -/
def execAtSet (mask : Word) (x : Access) (s : State) : Out :=
  hostAccess s MEM_AT_SET (some mask) (fun s => s.atomic (fun w => w ||| mask) x) x

/-- AT_CLR: word AND NOT mask (R519), with `x` as at AT_SET. -/
def execAtClr (mask : Word) (x : Access) (s : State) : Out :=
  hostAccess s MEM_AT_CLR (some mask) (fun s => s.atomic (fun w => w &&& ~~~mask) x) x

/-- MB_PORT_A_WRITE: port A writes a word of the mailbox, or sets or clears bits of it in one operation (R519, R521,
R522). An address outside MB is no word of port A. -/
def execMbPortAWrite (addr : Nat) (op : PortAOp) (s : State) : Out :=
  whenPowered s fun s =>
    let a := addr / 4 * 4
    if bankOf a = some 16 then
      match op with
      | .write v => (s.wakeBank 16).portA a v
      | .atomic set mask e => (s.wakeBank 16).atomicA a (fun w => if set then w ||| mask else w &&& ~~~mask) e
    else s

end Sys2Proof.Machine
end

