-- ==== Sys2Proof/Machine/Mod.lean ====
section
/-!
DEFINITION. The modulator (chapter 07): phases and half-bridges, the dead time and the interlock, the carriers, the
current loop, the safe state, CMT registers and their commit, set-points and coasting.
-/
namespace Sys2Proof.Machine

/-! ### Access -/

/-- The modulator's axis `n`. -/
def State.mod (s : State) (n : Nat) : ModAx := Tbl.get {} s.mods n

/-- The state with the modulator's axis `n` changed by `f`. -/
def State.modMod (s : State) (n : Nat) (f : ModAx → ModAx) : State := { s with mods := Tbl.mod s.mods n f }

/-- Phase A, or phase B for true. -/
def ModAx.phase (m : ModAx) (b : Bool) : Phase := if b then m.pb else m.pa

/-- The axis with a phase changed by `f`. -/
def ModAx.modPhase (m : ModAx) (b : Bool) (f : Phase → Phase) : ModAx :=
  if b then { m with pb := f m.pb } else { m with pa := f m.pa }

/-- The state with a phase of axis `n` changed by `f`. -/
def State.modPhase (s : State) (n : Nat) (b : Bool) (f : Phase → Phase) : State :=
  s.modMod n (fun m => m.modPhase b f)

/-- Axis `n` is in its safe state (R278). -/
def State.isSafe (s : State) (n : Nat) : Bool := s.flag (MOD_AX_STAT.SAFE n)

/-- Axis `n` waits for its first commit (R265). -/
def State.firstWait (s : State) (n : Nat) : Bool := s.flag (MOD_AX_STAT.FIRST_WAIT n)

/-- The phases of axis `n` are in DRIVE: committed so, and neither in the safe state nor waiting for a first commit (R249,
R265, R278, R280). -/
def State.inDrive (s : State) (n : Nat) : Bool :=
  (s.mod n).bmode == 0 && s.sys.mode.lists && !s.firstWait n && !s.isSafe n

/-- Fields of the active CMT values (R251, R283). -/
def Cmt.cmode (c : Cmt) : Nat := c.cfg.toNat % 4
def Cmt.decay (c : Cmt) : Nat := c.cfg.toNat / 4 % 4
def Cmt.voltage (c : Cmt) : Bool := c.cfg.toNat / 16 % 2 == 1
def Cmt.shoEn (c : Cmt) : Bool := c.cfg.toNat / 64 % 2 == 1
def Cmt.guard (c : Cmt) : Nat := c.cfg.toNat / 256 % 256
def Cmt.period (c : Cmt) : Nat := c.per.toNat % 65536
def Cmt.ceil (c : Cmt) (b : Bool) : Nat := (if b then c.dutyB else c.dutyA).toNat % 65536
def Cmt.toffTicks (c : Cmt) : Nat := c.toff.toNat % 65536
def Cmt.toffMin (c : Cmt) : Nat := c.toff.toNat / 65536
def Cmt.tonTicks (c : Cmt) : Nat := c.ton.toNat % 65536
def Cmt.phase (c : Cmt) : Nat := c.ton.toNat / 65536
def Cmt.dtTicks (c : Cmt) : Nat := c.dt.toNat % 1024
def Cmt.fixed (c : Cmt) : Bool := c.cmode < 2

/-! ### Switch commands -/

/-- The condition of trip cause SUPPLY_GATE holds for the heavy axes (R333, R544). -/
def State.supplyGated (s : State) : Bool := s.bitOf INT_SAFE_CAUSE.CAUSE 6

/-- The safe pattern of half-bridge `k` of axis `n`, high and low side, with the exceptions of R333. -/
def State.safePattern (s : State) (n k : Nat) : Bool × Bool :=
  if !heavy n && s.flag PWR_STAT.OT_SHUT then (false, false)
  else if heavy n && s.supplyGated then (false, false)
  else match (s.bridgeOf n).map Bridge.safe with
    | some 0 => (false, true)
    | some 1 => if heavy n && s.bitOf (PWR_AX_STAT.BST_UV n) k then (false, true) else (true, false)
    | _ => (false, false)

/-- The state commanded on a phase in BMODE `m.bmode`, on its plus and its minus half-bridge (R249). FAST decay opposes
the on-interval that began last. -/
def ModAx.phaseCommand (m : ModAx) (b : Bool) : (Bool × Bool) × (Bool × Bool) :=
  let p := m.phase b
  let pos : (Bool × Bool) × (Bool × Bool) := ((true, false), (false, true))
  let neg : (Bool × Bool) × (Bool × Bool) := ((false, true), (true, false))
  match m.bmode with
  | 1 => ((false, false), (false, false))
  | 2 => ((false, true), (false, true))
  | _ =>
    if p.refresh then ((false, true), (false, true))
    else if p.risen && !p.fallen && !p.hold then (if p.positive then pos else neg)
    else match m.act.decay with
      | 0 => ((false, true), (false, true))
      | 1 => ((true, false), (true, false))
      | _ => if p.last then neg else pos

/-- What is requested of half-bridge `k` (A+, A-, B+, B-) of axis `n`: everything off under an overvoltage (R583), in BOOT
and STANDBY (R280, R344) and during a diagnosis of the axis (R335); then the safe pattern, then FORCE, then OPEN before
the first commit, then the carrier (R265, R276, R278). -/
def State.request (s : State) (n k : Nat) : Bool × Bool :=
  if s.flag SYS_STAT.OV || !s.sys.mode.lists || s.flag (PWR_AX_DIAG.BUSY n) then (false, false)
  else if s.isSafe n then s.safePattern n k
  else if s.flag (MOD_AX_FORCE.ACTIVE n) then
    (s.bitOf (MOD_AX_FORCE.SW n) (2 * k), s.bitOf (MOD_AX_FORCE.SW n) (2 * k + 1))
  else if s.firstWait n || (s.mod n).ovHold then (false, false)
  else
    let c := (s.mod n).phaseCommand (2 ≤ k)
    if k % 2 = 0 then c.1 else c.2

/-- One half-bridge under a request (R250, R276): both sides requested drive both off; a change of side turns the other
switch off at once and waits for the dead time `dt` before the requested one turns on, and in any case until the other
gate is low (R318). -/
def HalfBridge.apply (h : HalfBridge) (isolated : Bool) (dt : Nat) (req : Bool × Bool) : HalfBridge :=
  if isolated then { h with hi := false, lo := false, turnOn := none, conflict := false }
  else match req with
    | (true, true) => { h with hi := false, lo := false, turnOn := none, conflict := true }
    | (false, false) => { h with hi := false, lo := false, turnOn := none, conflict := false }
    | (hi, _) =>
      let held := h.waits && h.turnOn == some hi
      if (if hi then h.hi else h.lo) then { h with hi := hi, lo := !hi, turnOn := none, conflict := false }
      else if dt = 0 && !(if hi then h.lo else h.hi) && !held then
        { h with hi := hi, lo := !hi, turnOn := none, conflict := false }
      else { h with hi := false, lo := false, turnOn := some hi, waits := held || dt == 0, conflict := false }

/-- Half-bridge `k` of axis `n`. -/
def State.hb (s : State) (n k : Nat) : HalfBridge := Tbl.get {} (s.mod n).hbs k

/-- The state with a half-bridge changed by `f`. -/
def State.modHb (s : State) (n k : Nat) (f : HalfBridge → HalfBridge) : State :=
  s.modMod n (fun m => { m with hbs := Tbl.mod m.hbs k f })

/-- The half-bridge is isolated by a trip (R327). -/
def State.isolated (s : State) (n k : Nat) : Bool := s.bitOf (PWR_AX_STAT.ISOL n) k

/-- The code of half-bridge `k` of axis `n` in BRIDGE_MAP (R79). -/
def State.hbCode (s : State) (n k : Nat) : Nat :=
  match s.bridgeOf n with
  | some b => b.hb.getD k 0
  | none => 0

/-- A trip source of axis `n` is inactive from now on (R331). -/
def State.sourceOff (s : State) (n src : Nat) : State :=
  let s := s.putBit (PWR_AX_LIVE.SRC n) src false
  { s with pwr := { s.pwr with off := Assoc.put s.pwr.off (n, src) s.time } }

/-- A comparator on the switches of half-bridge `h` is active (R325): side 0 and 1 while the high or the low side is on,
the GATE condition (2) while a switch has been turned on or its turn-on is held back (R318). -/
def HalfBridge.watched (h : HalfBridge) (c : Nat) : Bool :=
  match c with
  | 0 => h.hi
  | 1 => h.lo
  | _ => h.hi || h.lo || (h.waits && h.turnOn.isSome)

/-- The comparators on the switches of half-bridge `k` of axis `n` read inactive once they are not active (R325). -/
def State.switchSourcesOff (s : State) (n k : Nat) : State :=
  s.each ((List.range 3).filter (fun c => !(s.hb n k).watched c && s.bitOf (PWR_AX_LIVE.SRC n) (4 * k + c)))
    (fun s c => s.sourceOff n (4 * k + c))

/-- The command of one half-bridge renewed from the requests (R249, R276). -/
def State.driveHb (s : State) (n k : Nat) : State :=
  (s.modHb n k (fun h => h.apply (s.isolated n k) (s.mod n).act.dtTicks (s.request n k))).switchSourcesOff n k

/-- The commands of all four half-bridges of axis `n` renewed. -/
def State.drive (s : State) (n : Nat) : State := s.each [0, 1, 2, 3] (fun s k => s.driveHb n k)

/-! ### The safe state -/

/-- The recorded cause of axis `n`'s latest entry to its safe state (R545, R553). -/
def State.axCause (s : State) (n : Nat) : Nat :=
  if n < 8 then s.fld ⟨INT_AXCAUSE_LO, 4 * n, 4⟩ else s.fld ⟨INT_AXCAUSE_HI, 4 * (n - 8), 4⟩

/-- The state with that cause recorded. -/
def State.setAxCause (s : State) (n c : Nat) : State :=
  if n < 8 then s.put ⟨INT_AXCAUSE_LO, 4 * n, 4⟩ c else s.put ⟨INT_AXCAUSE_HI, 4 * (n - 8), 4⟩ c

/-- Axis `n` no longer coasts. -/
def State.setCoast (s : State) (n c : Nat) : State :=
  (s.put (MOD_AX_STAT.COAST n) c).putBit MOD_STAT.COASTING n (c != 0)

/-- The fields of the set-point words (R173). -/
def spAngle (w0 : Word) : Nat := w0.toNat % 4096
def spIamp (w0 : Word) : Nat := w0.toNat / 2 ^ 12 % 4096
def spAxis (w0 : Word) : Nat := w0.toNat / 2 ^ 24 % 16
def spBmode (w0 : Word) : Nat := w0.toNat / 2 ^ 28 % 4
def spVel (w1 : Word) : Int := lowS 21 w1.toNat
def spFcnt (w1 : Word) : Nat := w1.toNat / 2 ^ 21 % 8
def spCheck (w1 : Word) : Nat := w1.toNat / 2 ^ 24

/-- The committed pair of axis `n` (SPW0 and SPW1 registers). -/
def State.committed (s : State) (n : Nat) : Word × Word := (s.word (MOD_AX_SPW0 n), s.word (MOD_AX_SPW1 n))

/-- D1 sets UNCERTAIN of axis `n` at the next cut. -/
def State.loseTrack (s : State) (n : Nat) : State :=
  { s with intg := { s.intg with parkUncertain := s.intg.parkUncertain ||| (1#12 <<< n) } }

/-- The last committed speed of axis `n` exceeds VSTOP (R199, R539). An axis in FIRST_WAIT does not move. -/
def State.aboveStop (s : State) (n : Nat) : Bool :=
  decide (s.fld ⟨AX_VSTOP n, 8, 24⟩ < (spVel (s.committed n).2).natAbs) && !s.firstWait n

/-- Axis `n` enters its safe state for cause `c` (R278, R545): the pattern of BRIDGE_MAP.SAFE, at once. An axis that
enters during a recovery window is left out of its judgement (R538). An axis already there stays as it is; an unused
axis has no safe state. -/
def State.enterSafe (s : State) (n c : Nat) : State :=
  if !s.axisUsed n then s
  else if s.isSafe n then
    if inMask s.intg.release n
    then { s with intg := { s.intg with release := s.intg.release &&& ~~~(1#12 <<< n) } }.setAxCause n c else s
  else
    let s := s.when (s.aboveStop n) (fun s =>
      { s with intg := { s.intg with safeFast := s.intg.safeFast ||| (1#12 <<< n) } })
    let s := (s.put (MOD_AX_STAT.SAFE n) 1).putBit MOD_STAT.SAFE n true
    let s := (s.setCoast n 0).setAxCause n c
    let s := if s.flag INT_STAT.WINDOW
             then { s with intg := { s.intg with excluded := s.intg.excluded ||| (1#12 <<< n) } } else s
    s.drive n

/-- Every used axis enters its safe state. -/
def State.allSafe (s : State) (c : Nat) : State := s.each s.usedAxes (fun s n => s.enterSafe n c)

/-! ### Interlock -/

/-- An interlock event on half-bridge `k` of axis `n` (R276, R277). -/
def State.interlock (s : State) (n k : Nat) : State :=
  let s := s.modHb n k (fun h => { h with events := h.events + 1 })
  let s := (s.bump MOD_ILOCK_CNT.EVENTS 1).put MOD_ILOCK_CNT.LAST_HB (s.hbCode n k)
  if (s.hb n k).events = 16 then
    let s := s.raise 0x0708
    let s := { s with modg := { s.modg with ilock := s.modg.ilock ||| (1#12 <<< n) } }
    let s := (s.put (MOD_AX_FORCE.ACTIVE n) 0).put MOD_STAT.FORCE_ACTIVE
      ((List.range 12).any (fun j => j != n && s.flag (MOD_AX_FORCE.ACTIVE j))).toNat
    s.enterSafe n 2
  else s

/-- Renew the commands of axis `n` and count each start of a conflict (R276). -/
def State.driveChecked (s : State) (n : Nat) : State :=
  s.each [0, 1, 2, 3] (fun s k =>
    let before := (s.hb n k).conflict
    let s := s.driveHb n k
    if (s.hb n k).conflict && !before then s.interlock n k else s)

/-! ### Angle and references -/

/-- The quarter-wave table T[k] = round(32767 sin(pi k / 2048)) in rows of 41 (R254). -/
def sineRows : List (List Int) :=
  [[0, 50, 101, 151, 201, 251, 302, 352, 402, 452, 503, 553, 603, 653, 704, 754, 804, 854, 905, 955, 1005, 1055,
    1106, 1156, 1206, 1256, 1307, 1357, 1407, 1457, 1507, 1558, 1608, 1658, 1708, 1758, 1809, 1859, 1909, 1959, 2009]]
    ++
  [[2059, 2110, 2160, 2210, 2260, 2310, 2360, 2410, 2461, 2511, 2561, 2611, 2661, 2711, 2761, 2811, 2861, 2911,
    2962, 3012, 3062, 3112, 3162, 3212, 3262, 3312, 3362, 3412, 3462, 3512, 3562, 3612, 3662, 3712, 3761, 3811, 3861,
    3911, 3961, 4011, 4061]] ++
  [[4111, 4161, 4210, 4260, 4310, 4360, 4410, 4460, 4509, 4559, 4609, 4659, 4708, 4758, 4808, 4858, 4907, 4957,
    5007, 5056, 5106, 5156, 5205, 5255, 5305, 5354, 5404, 5453, 5503, 5552, 5602, 5651, 5701, 5750, 5800, 5849, 5899,
    5948, 5998, 6047, 6096]] ++
  [[6146, 6195, 6245, 6294, 6343, 6393, 6442, 6491, 6540, 6590, 6639, 6688, 6737, 6786, 6836, 6885, 6934, 6983,
    7032, 7081, 7130, 7179, 7228, 7277, 7326, 7375, 7424, 7473, 7522, 7571, 7620, 7669, 7718, 7767, 7815, 7864, 7913,
    7962, 8010, 8059, 8108]] ++
  [[8157, 8205, 8254, 8303, 8351, 8400, 8448, 8497, 8545, 8594, 8642, 8691, 8739, 8788, 8836, 8885, 8933, 8981,
    9030, 9078, 9126, 9175, 9223, 9271, 9319, 9367, 9416, 9464, 9512, 9560, 9608, 9656, 9704, 9752, 9800, 9848, 9896,
    9944, 9992, 10039, 10087]] ++
  [[10135, 10183, 10231, 10278, 10326, 10374, 10421, 10469, 10517, 10564, 10612, 10659, 10707, 10754, 10802, 10849,
    10897, 10944, 10992, 11039, 11086, 11133, 11181, 11228, 11275, 11322, 11370, 11417, 11464, 11511, 11558, 11605,
    11652, 11699, 11746, 11793, 11840, 11886, 11933, 11980, 12027]] ++
  [[12074, 12120, 12167, 12214, 12260, 12307, 12353, 12400, 12446, 12493, 12539, 12586, 12632, 12679, 12725, 12771,
    12817, 12864, 12910, 12956, 13002, 13048, 13094, 13141, 13187, 13233, 13279, 13324, 13370, 13416, 13462, 13508,
    13554, 13599, 13645, 13691, 13736, 13782, 13828, 13873, 13919]] ++
  [[13964, 14010, 14055, 14101, 14146, 14191, 14236, 14282, 14327, 14372, 14417, 14462, 14507, 14553, 14598, 14643,
    14688, 14732, 14777, 14822, 14867, 14912, 14956, 15001, 15046, 15090, 15135, 15180, 15224, 15269, 15313, 15358,
    15402, 15446, 15491, 15535, 15579, 15623, 15667, 15712, 15756]] ++
  [[15800, 15844, 15888, 15932, 15976, 16019, 16063, 16107, 16151, 16195, 16238, 16282, 16325, 16369, 16413, 16456,
    16499, 16543, 16586, 16630, 16673, 16716, 16759, 16802, 16846, 16889, 16932, 16975, 17018, 17061, 17104, 17146,
    17189, 17232, 17275, 17317, 17360, 17403, 17445, 17488, 17530]] ++
  [[17573, 17615, 17657, 17700, 17742, 17784, 17827, 17869, 17911, 17953, 17995, 18037, 18079, 18121, 18163, 18204,
    18246, 18288, 18330, 18371, 18413, 18454, 18496, 18537, 18579, 18620, 18661, 18703, 18744, 18785, 18826, 18868,
    18909, 18950, 18991, 19032, 19072, 19113, 19154, 19195, 19236]] ++
  [[19276, 19317, 19357, 19398, 19438, 19479, 19519, 19560, 19600, 19640, 19680, 19721, 19761, 19801, 19841, 19881,
    19921, 19961, 20000, 20040, 20080, 20120, 20159, 20199, 20238, 20278, 20317, 20357, 20396, 20436, 20475, 20514,
    20553, 20592, 20631, 20670, 20709, 20748, 20787, 20826, 20865]] ++
  [[20904, 20942, 20981, 21019, 21058, 21096, 21135, 21173, 21212, 21250, 21288, 21326, 21364, 21403, 21441, 21479,
    21516, 21554, 21592, 21630, 21668, 21705, 21743, 21781, 21818, 21856, 21893, 21930, 21968, 22005, 22042, 22079,
    22116, 22154, 22191, 22227, 22264, 22301, 22338, 22375, 22411]] ++
  [[22448, 22485, 22521, 22558, 22594, 22631, 22667, 22703, 22739, 22776, 22812, 22848, 22884, 22920, 22956, 22991,
    23027, 23063, 23099, 23134, 23170, 23205, 23241, 23276, 23311, 23347, 23382, 23417, 23452, 23487, 23522, 23557,
    23592, 23627, 23662, 23697, 23731, 23766, 23801, 23835, 23870]] ++
  [[23904, 23938, 23973, 24007, 24041, 24075, 24109, 24143, 24177, 24211, 24245, 24279, 24312, 24346, 24380, 24413,
    24447, 24480, 24514, 24547, 24580, 24613, 24647, 24680, 24713, 24746, 24779, 24811, 24844, 24877, 24910, 24942,
    24975, 25007, 25040, 25072, 25105, 25137, 25169, 25201, 25233]] ++
  [[25265, 25297, 25329, 25361, 25393, 25425, 25456, 25488, 25519, 25551, 25582, 25614, 25645, 25676, 25708, 25739,
    25770, 25801, 25832, 25863, 25893, 25924, 25955, 25986, 26016, 26047, 26077, 26108, 26138, 26168, 26198, 26229,
    26259, 26289, 26319, 26349, 26378, 26408, 26438, 26468, 26497]] ++
  [[26527, 26556, 26586, 26615, 26644, 26674, 26703, 26732, 26761, 26790, 26819, 26848, 26876, 26905, 26934, 26962,
    26991, 27019, 27048, 27076, 27104, 27133, 27161, 27189, 27217, 27245, 27273, 27300, 27328, 27356, 27384, 27411,
    27439, 27466, 27493, 27521, 27548, 27575, 27602, 27629, 27656]] ++
  [[27683, 27710, 27737, 27764, 27790, 27817, 27843, 27870, 27896, 27923, 27949, 27975, 28001, 28027, 28053, 28079,
    28105, 28131, 28157, 28182, 28208, 28234, 28259, 28284, 28310, 28335, 28360, 28385, 28411, 28436, 28460, 28485,
    28510, 28535, 28560, 28584, 28609, 28633, 28658, 28682, 28706]] ++
  [[28730, 28755, 28779, 28803, 28827, 28850, 28874, 28898, 28922, 28945, 28969, 28992, 29016, 29039, 29062, 29085,
    29108, 29131, 29154, 29177, 29200, 29223, 29246, 29268, 29291, 29313, 29336, 29358, 29380, 29403, 29425, 29447,
    29469, 29491, 29513, 29534, 29556, 29578, 29599, 29621, 29642]] ++
  [[29664, 29685, 29706, 29728, 29749, 29770, 29791, 29812, 29832, 29853, 29874, 29894, 29915, 29936, 29956, 29976,
    29997, 30017, 30037, 30057, 30077, 30097, 30117, 30136, 30156, 30176, 30195, 30215, 30234, 30253, 30273, 30292,
    30311, 30330, 30349, 30368, 30387, 30406, 30424, 30443, 30462]] ++
  [[30480, 30498, 30517, 30535, 30553, 30571, 30589, 30607, 30625, 30643, 30661, 30679, 30696, 30714, 30731, 30749,
    30766, 30783, 30800, 30818, 30835, 30852, 30868, 30885, 30902, 30919, 30935, 30952, 30968, 30985, 31001, 31017,
    31033, 31050, 31066, 31082, 31097, 31113, 31129, 31145, 31160]] ++
  [[31176, 31191, 31206, 31222, 31237, 31252, 31267, 31282, 31297, 31312, 31327, 31341, 31356, 31371, 31385, 31400,
    31414, 31428, 31442, 31456, 31470, 31484, 31498, 31512, 31526, 31539, 31553, 31567, 31580, 31593, 31607, 31620,
    31633, 31646, 31659, 31672, 31685, 31698, 31710, 31723, 31736]] ++
  [[31748, 31760, 31773, 31785, 31797, 31809, 31821, 31833, 31845, 31857, 31869, 31880, 31892, 31903, 31915, 31926,
    31937, 31949, 31960, 31971, 31982, 31993, 32004, 32014, 32025, 32036, 32046, 32057, 32067, 32077, 32087, 32098,
    32108, 32118, 32128, 32137, 32147, 32157, 32166, 32176, 32185]] ++
  [[32195, 32204, 32213, 32223, 32232, 32241, 32250, 32258, 32267, 32276, 32285, 32293, 32302, 32310, 32318, 32327,
    32335, 32343, 32351, 32359, 32367, 32375, 32382, 32390, 32397, 32405, 32412, 32420, 32427, 32434, 32441, 32448,
    32455, 32462, 32469, 32476, 32482, 32489, 32495, 32502, 32508]] ++
  [[32514, 32521, 32527, 32533, 32539, 32545, 32550, 32556, 32562, 32567, 32573, 32578, 32584, 32589, 32594, 32599,
    32604, 32609, 32614, 32619, 32624, 32628, 32633, 32637, 32642, 32646, 32650, 32655, 32659, 32663, 32667, 32671,
    32674, 32678, 32682, 32685, 32689, 32692, 32696, 32699, 32702]] ++
  [[32705, 32708, 32711, 32714, 32717, 32720, 32722, 32725, 32728, 32730, 32732, 32735, 32737, 32739, 32741, 32743,
    32745, 32747, 32748, 32750, 32752, 32753, 32755, 32756, 32757, 32758, 32759, 32760, 32761, 32762, 32763, 32764,
    32765, 32765, 32766, 32766, 32766, 32767, 32767, 32767, 32767]]

/-- T[k] of R254. -/
def sineT (k : Nat) : Int := Tbl.get 0 (Tbl.get [] sineRows (k / 41)) (k % 41)

/-- sin(a) for an angle of 4096 microsteps (R254). -/
def sinM (a : Nat) : Int :=
  let r := a % 1024
  match a / 1024 % 4 with
  | 0 => sineT r
  | 1 => sineT (1024 - r)
  | 2 => -sineT r
  | _ => -sineT (1024 - r)

/-- cos(a) (R254). -/
def cosM (a : Nat) : Int := sinM ((a + 1024) % 4096)

/-- The frame length in effect, in slate ticks (R45). -/
def State.frameLen (s : State) : Nat := s.fld CLK_FRAME_LEN.LEN

/-- The angle theta of axis `n` at `e` D6 cycles after its commit instant, in Q12.8 (R255). -/
def State.thetaAt (s : State) (n e : Nat) : Nat :=
  let m := s.mod n
  let f := 4 * s.frameLen
  ((m.beta + m.vel * min e f / max f 1) % 2 ^ 20).toNat

/-- The present angle theta (R255): four D6 cycles run in each slate tick. -/
def State.theta (s : State) (n : Nat) : Nat :=
  s.thetaAt n (4 * (s.clk.slate - (s.mod n).since).toNat)

/-- The angle in microsteps that the references use (R255). -/
def microAngle (theta : Nat) : Nat := (theta + 128) / 256 % 4096

/-- The sine or cosine of the present angle that phase A or B follows (R255). -/
def State.trig (s : State) (n : Nat) (b : Bool) : Int :=
  let a := microAngle (s.theta n)
  if b then sinM a else cosM a

/-- The amplitude an axis runs with: its own, or the cap of thermal admission (R343). -/
def ModAx.ampl (m : ModAx) : Nat := m.cap.getD m.iamp

/-- The phase reference (R256). -/
def State.phaseRef (s : State) (n : Nat) (b : Bool) : Int :=
  satRef (shr ((s.mod n).ampl * s.trig n b * s.fld (MOD_AX_SCALE.ISCALE n)) 28)
where satRef (z : Int) : Int := clampZ (-32767) 32767 z

/-- The compensated output u_c (R256). -/
def State.compensate (s : State) (n : Nat) (u : Int) : Int :=
  let vnom : Int := s.fld (MOD_AX_SCALE.VNOM n)
  match s.modg.vbat with
  | none => u
  | some vb =>
    if vnom = 0 then u else clampZ (-32767) 32767 (quotZ (u * vnom) (max vb ((vnom + 3) / 4)))

/-! ### Duty and edges -/

/-- TOFF' of a phase under BST_UV (R322). -/
def Cmt.toffUv (c : Cmt) : Nat := max c.toffMin 64

/-- BST_UV stands on a half-bridge of the phase (R322). -/
def State.phaseUv (s : State) (n : Nat) (b : Bool) : Bool :=
  let k := if b then 2 else 0
  s.bitOf (PWR_AX_STAT.BST_UV n) k || s.bitOf (PWR_AX_STAT.BST_UV n) (k + 1)

/-- The first of the nominal instants PHASE + k·PER after `t`, counted from the anchor in D6 ticks (R252). -/
def Cmt.instantAfter (c : Cmt) (t : Nat) : Nat :=
  if t < c.phase then c.phase else c.phase + ((t - c.phase) / c.period + 1) * c.period

/-- The D6 ticks from cut `c` to the last cut (R252). -/
def State.sinceCut (s : State) (c : Slate) : Nat := 4 * (s.clk.lastCut - c).toNat

/-- Where the sequence of nominal instants that cut `c` anchors ends: at the first start of the next frame, counted from
the anchor (R252). -/
def State.sequenceEnd (s : State) (n : Nat) (c : Slate) : Nat :=
  (if c = s.clk.lastCut then 4 * s.frameLen else s.sinceCut c) + (s.mod n).act.phase

/-- The next nominal instant of axis `n` in a FIXED mode: the cut that anchors it, and the D6 ticks since. The sequence of
the frame before runs on up to the first start of this one (R252). -/
def State.nextNominal (s : State) (n : Nat) : Slate × Nat :=
  let m := s.mod n
  let t := m.act.instantAfter m.nominal
  if !m.carrier || (m.seqCut != s.clk.lastCut && decide (s.sequenceEnd n m.seqCut ≤ t)) then (s.clk.lastCut, m.act.phase)
  else (m.seqCut, t)

/-- The length of the present carrier period in a FIXED mode: up to the next nominal instant, or to the re-anchor of the
next cut (R252). -/
def State.fixedLen (s : State) (n : Nat) : Nat :=
  let m := s.mod n
  min (m.act.instantAfter m.nominal) (s.sequenceEnd n m.seqCut) - m.nominal

/-- How far a refresh period pushes the on-interval back (R322). -/
def State.refreshHead (s : State) (n : Nat) (b : Bool) : Nat :=
  if ((s.mod n).phase b).refreshing then 128 + 2 * (s.mod n).act.dtTicks else 0

/-- The duty ceiling of a phase: BST_UV limits it to PER less TOFF' (R251, R322). -/
def State.ceiling (s : State) (n : Nat) (b : Bool) : Nat :=
  let c := (s.mod n).act
  if s.phaseUv n b then min (c.ceil b) (c.period - c.toffUv) else c.ceil b

/-- The longest on-interval of the present period: a period of a FIXED mode that is cut short keeps TOFF_MIN (R252), and
a refresh period leaves room for its low-side part (R322). -/
def State.dutyLimit (s : State) (n : Nat) (b : Bool) : Nat :=
  let c := (s.mod n).act
  let p := (s.mod n).phase b
  let l := if c.fixed && decide (p.len < c.period) then p.len - c.toffMin - s.refreshHead n b else c.period
  if p.refreshing then min l (c.period - c.toffUv - s.refreshHead n b) else l

/-- The duty in ticks from |u_c| (R251, R253, R257). -/
def State.dutyOf (s : State) (n : Nat) (b : Bool) (uc : Int) : Nat :=
  let c := (s.mod n).act
  let m := uc.natAbs
  let cap := s.ceiling n b
  let d := match c.cmode with
    | 2 => min (min (c.toffTicks * m / (32768 - m)) cap) (c.period - c.toffTicks)
    | 3 => if m = 0 then 0 else min c.tonTicks cap
    | _ => m * cap / 2 ^ 15
  min d (s.dutyLimit n b)

/-- The length that a phase with |u_c| = `m` and on-time `t` gives the present period: in CONST_OFF the on-time and TOFF,
in CONST_ON the on-time and the off-time of R253; in a FIXED mode it stays as it was set at the start. -/
def State.constLen (s : State) (n m t len : Nat) : Nat :=
  let c := (s.mod n).act
  match c.cmode with
  | 2 => t + c.toffTicks
  | 3 => if m = 0 then c.period else t + max c.toffMin (min (t * (32768 - m) / m) (c.period - t))
  | _ => len

/-- The edges of the on-interval from duty `d` (R251, R258, R322). -/
def State.edges (s : State) (n : Nat) (b : Bool) (d : Nat) : Nat × Nat :=
  let c := (s.mod n).act
  let h := s.refreshHead n b
  let r := if c.cmode = 1 then h + (c.period - h - d) / 2 else h
  (r, r + d)

/-- The slate in D6 ticks, four to a slate tick. -/
def State.ticksD6 (s : State) : BitVec 50 := BitVec.ofNat 50 (4 * s.clk.slate.toNat)

/-- The present count within the carrier period, in D6 ticks (R258). -/
def State.carrierCount (s : State) (n : Nat) : Nat := (s.ticksD6 - (s.mod n).startAt).toNat

/-- The rising edge of a phase is taken (R249, R258). An on-interval that begins in a hold is interrupted from its start
(R262). -/
def State.rise (s : State) (n : Nat) (b : Bool) : State :=
  s.modMod n (fun m =>
    let p := m.phase b
    ({ m with sho := if p.hold && m.bmode = 0 then m.sho + 1 else m.sho }).modPhase b (fun p =>
      { p with risen := true, last := p.positive }))

/-- Take every untaken edge that an update has moved to or before the present count, each once per period (R258). -/
def State.takePassed (s : State) (n : Nat) (b : Bool) : State :=
  let t := s.carrierCount n
  let p := (s.mod n).phase b
  let s := s.when (!p.risen && p.d != 0 && decide (p.rise ≤ t)) (fun s => s.rise n b)
  s.modPhase n b (fun p => if p.risen && decide (p.fall ≤ t) then { p with fallen := true } else p)

/-- The on-time stands for the rest of the period: in CONST_OFF and CONST_ON it is taken at the start, and again only
during the on-interval (R253). -/
def State.onTimeStands (s : State) (n : Nat) (b start : Bool) : Bool :=
  let p := (s.mod n).phase b
  !start && !(s.mod n).act.fixed && !(p.risen && !p.fallen)

/-- Place the phase's edges from its output (R253, R257 to R259), at the start of the period or at an update: u_c, the
duty, the edges, and an edge that has been passed. With u_c on the other side of the latched polarity the duty is 0 for
the rest of the period. In a CONST mode a period in which u_c takes the other sign keeps its length (DESIGN CHOICE: log
entry 123). -/
def State.place (s : State) (n : Nat) (b start : Bool) : State :=
  let uc := s.compensate n ((s.mod n).phase b).u
  let s := s.modPhase n b (fun p => { p with uc := uc })
  let p := (s.mod n).phase b
  let cross := p.crossed || (p.positive != decide (0 ≤ uc))
  let stands := s.onTimeStands n b start
  let d := if cross then 0 else if stands then p.d else s.dutyOf n b uc
  let e := s.edges n b d
  let len := if stands || cross then p.len else s.constLen n uc.natAbs d p.len
  let s := s.modPhase n b (fun p => { p with crossed := cross, d := d, rise := e.1, fall := e.2, len := len })
  s.takePassed n b

/-- In LOOP = VOLTAGE the output follows the angle (R256); under an overvoltage u stays 0 (R583). -/
def State.voltageOut (s : State) (n : Nat) (b : Bool) : State :=
  let m := s.mod n
  if m.act.voltage && m.bmode = 0 && !s.flag SYS_STAT.OV then
    s.modPhase n b (fun p => { p with u := quotZ (m.ampl * s.trig n b) 4095 })
  else s

/-- In LOOP = VOLTAGE a commit and every change of the angle recompute u, which places the edges anew (R256, R258). -/
def State.follow (s : State) (n : Nat) : State :=
  let m := s.mod n
  if m.act.voltage && m.bmode = 0 && m.carrier then
    (s.each [false, true] (fun s b => (s.voltageOut n b).place n b false)).driveChecked n
  else s

/-! ### Set-points -/

/-- CRC-8 of R174 over SPW0 and the low three bytes of SPW1. -/
def spCrc (w0 w1 : Word) : Nat := crcMsb 8 0x1D 0xFF (wordBytes w0 ++ (wordBytes w1).take 3) ^^^ 0xFF

/-- A set-point word arrives in D6 (R263): SPW0 opens a pair in the pending buffer of the axis it names, SPW1 completes
the sender's open pair, whose resident check is then computed over the stored words and compared. -/
def State.takeSetpoint (s : State) (eng axis idx : Nat) (w : Word) : State :=
  s.modMod axis (fun m =>
    if idx = 0 then { m with pairs := m.pairs ++ [{ eng := eng, w0 := w }] }
    else { m with pairs := close m.pairs eng w })
where
  close : List SpPair → Nat → Word → List SpPair
    | [], _, _ => []
    | p :: t, e, w =>
      if p.eng = e && p.w1.isNone then
        { p with w1 := some w, resident := spCrc p.w0 w, ok := spCrc p.w0 w == spCheck w } :: t
      else p :: close t e w

/-- The engine that serves axis `n` in this frame: its own, or ES where ES covers that engine (R127) or covered it until
its END word had gone out (R135). -/
def State.servingEngine (s : State) (n : Nat) : Option Nat :=
  match s.engineOf n with
  | none => none
  | some e =>
    if s.flag ENG_STAT.ES_BUSY && s.fld ENG_STAT.ES_COVER == e
        && (s.fld (ENG_E_STAT.STATE e) == stCovered || s.fld (ENG_E_STAT.STATE e) == stReturning) then some 8
    else if s.intg.esLast == some e then some 8
    else some e

/-- Axis `n` is parked, and none of its words is in force any more (R135, R539). -/
def State.parkedOut (s : State) (n : Nat) : Bool := s.bitOf INT_STAT.PARKED_AX n && !inMask s.intg.lastWords n

/-- A takeover of axis `n`'s engine is in its window (R534). -/
def State.inWindow (s : State) (n : Nat) : Bool := s.flag INT_STAT.WINDOW && inMask s.intg.recAxes n

/-- A fault that makes a takeover visible when it falls on an axis of the window (R538). -/
def State.raiseVisible (s : State) (n code : Nat) : State :=
  let s := s.raise code
  if s.inWindow n && !inMask s.intg.excluded n
  then { s with intg := { s.intg with visible := s.intg.visible ||| (1#12 <<< n) } } else s

/-- integ and u of both phases of axis `n` cleared (R266). -/
def State.clearLoops (s : State) (n : Nat) : State :=
  let z (p : Phase) : Phase := { p with integ := 0, u := 0, uc := 0, d := 0 }
  s.modMod n (fun m => { m with pa := z m.pa, pb := z m.pb })

/-- The standstill row that D6 holds for axis `n`: BMODE and amplitude (R200, R269). -/
def ModAx.standstillRow (m : ModAx) : Nat × Nat :=
  match m.ssMode with
  | 0 => (0, m.ihold)
  | 1 => (1, 0)
  | _ => (2, 0)

/-- A coast stop of axis `n` (R269): the angle holds, the standstill row stands, COAST reads 0xF. An axis without a
committed set-point, or in its safe state, has nothing to stop. -/
def State.coastStop (s : State) (n : Nat) : State :=
  if s.firstWait n || s.isSafe n then s
  else
    let th := s.theta n
    let row := (s.mod n).standstillRow
    let s := if (s.mod n).bmode = 0 && row.1 != 0 then s.clearLoops n else s
    let s := s.modMod n (fun m => { m with beta := th, vel := 0, bmode := row.1, iamp := row.2, since := s.clk.slate })
    (((s.setCoast n 15).raiseVisible n 0x0706).driveChecked n).follow n

/-- A commit of a pair that passed every check (R264 to R266, R270), at the cut. A phase that enters DRIVE starts from
integ = 0. -/
def State.commitAxis (s : State) (n : Nat) (p : SpPair) : State :=
  let w1 := p.w1.getD 0
  let m := s.mod n
  let c := s.fld (MOD_AX_STAT.COAST n)
  let th := if c = 0 then 0 else s.thetaAt n (4 * s.frameLen)
  let j : Int := lowS 20 ((spAngle p.w0 * 256 : Nat) - (th : Int))
  let s := if c = 0 then s
           else
             let s := s.put (MOD_AX_STAT.JUMP n) (min 255 (j.natAbs * 16 / 256))
             if 1024 < j.natAbs then s.raiseVisible n 0x0707 else s
  let enters := (m.bmode != 0 || s.firstWait n) && spBmode p.w0 = 0
  let s := if (m.bmode = 0 && spBmode p.w0 != 0) || enters then s.clearLoops n else s
  let s := s.modMod n (fun m => { m with
    iamp := spIamp p.w0, bmode := spBmode p.w0, vel := spVel w1, beta := spAngle p.w0 * 256
    since := s.clk.slate, resident := p.resident
    ovHold := m.ovHold && s.flag SYS_STAT.OV })
  let s := (s.setWord (MOD_AX_SPW0 n) p.w0).setWord (MOD_AX_SPW1 n) w1
  let s := (s.put (MOD_AX_STAT.FIRST_WAIT n) 0).setCoast n 0
  let s := if spBmode p.w0 != 1 && s.flag (PWR_AX_DIAG.BUSY n)
           then ((s.put (PWR_AX_DIAG.BUSY n) 0).put (PWR_AX_DIAG.RESULT_A n) 0).put (PWR_AX_DIAG.RESULT_B n) 0 else s
  let s := if s.inWindow n && p.eng = 8
           then { s with intg := { s.intg with committed := s.intg.committed ||| (1#12 <<< n) } } else s
  (s.driveChecked n).follow n

/-- The set-points of axis `n` are checked but never committed: it is in its safe state, or leaves it at this cut (R265,
R546). -/
def State.checksOnly (s : State) (n : Nat) : Bool := s.isSafe n || inMask s.intg.release n

/-- The pairs of axis `n` discarded (R264). Those of an axis in its safe state do not count (R265). -/
def State.discardPairs (s : State) (n : Nat) : State :=
  if s.checksOnly n then s else s.bump (MOD_AX_CNT.DISCARD n) 1

/-- An axis that does not commit at this cut (R268, R269): it begins or goes on coasting, or coast-stops. A committed pair
that fails its resident check counts as discarded (R527). -/
def State.coastAxis (s : State) (n : Nat) : State :=
  let c := s.fld (MOD_AX_STAT.COAST n)
  if s.firstWait n || s.isSafe n then s
  else if c = 15 then s
  else
    let w := s.committed n
    if c != 0 && spCrc w.1 w.2 != (s.mod n).resident
    then ((s.bump (MOD_AX_CNT.DISCARD n) 1).raise 0x0704).coastStop n
    else if c = 8 then s.coastStop n
    else
      let s := s.modMod n (fun m => { m with beta := s.thetaAt n (4 * s.frameLen), since := s.clk.slate })
      let s := s.setCoast n (c + 1)
      if c = 0 then s.raise 0x0705 else s

/-- D6's judgement of the pairs `ps` that it holds for axis `n` (R264, R265). -/
def State.judgePairs (s : State) (n : Nat) (fcnt : Nat) (ps : List SpPair) : State :=
  match ps with
  | [] => s.coastAxis n
  | p :: rest =>
    let serving := s.servingEngine n
    let ended := s.intg.endD6.getLsbD p.eng && serving == some p.eng
    if !s.intg.endD6.getLsbD p.eng || (p.eng = 8 && serving != some 8) then (s.discardPairs n).coastAxis n
    else if !rest.isEmpty || p.w1.isNone || !ended then ((s.discardPairs n).raise 0x0703).coastAxis n
    else if !p.ok then ((s.discardPairs n).raise 0x0701).coastAxis n
    else if spCrc p.w0 (p.w1.getD 0) != p.resident then ((s.discardPairs n).raise 0x0704).coastAxis n
    else if spFcnt (p.w1.getD 0) != fcnt then ((s.discardPairs n).raise 0x0702).coastAxis n
    else if s.checksOnly n then s
    else s.commitAxis n p

/-- D6's commit decision for used axis `n` at a cut (R264, R265). `fcnt` is FCNT of the ending frame. A parked axis
commits the words that are still in force, and stands in its standstill row again (R135, R539). -/
def State.commitDecision (s : State) (n : Nat) (fcnt : Nat) : State :=
  let ps := (s.mod n).pairs
  let s := s.modMod n (fun m => { m with pairs := [] })
  if s.parkedOut n then s
  else
    let s := s.judgePairs n fcnt ps
    if s.bitOf INT_STAT.PARKED_AX n && s.fld (MOD_AX_STAT.COAST n) != 15 then s.coastStop n else s

/-! ### Frame bookkeeping of the loops -/

/-- A phase at the cut: samples missed and saturation (R279). The answer names the faults: NO_SAMPLE, CEILING. After its
fault the run of saturated frames counts from 0 again (DESIGN CHOICE: log entry 100). -/
def Phase.frameEnd (p : Phase) (driven : Bool) : Phase × Bool × Bool :=
  let p' := { p with sampled := false, updates := 0, saturated := 0 }
  if !driven then ({ p' with missRun := 0, ceilRun := 0 }, false, false)
  else
    let miss := if p.sampled then 0 else min (p.missRun + 1) 255
    let ceilR := if p.updates = 0 then p.ceilRun else if p.saturated = p.updates then p.ceilRun + 1 else 0
    ({ p' with missRun := miss, ceilRun := if ceilR = 8 then 0 else ceilR }, miss == 4, ceilR == 8)

/-- D6's per-frame work for axis `n` at a cut: sample misses, ceilings, interlock counts, hold-offs (R262, R277, R279).
While VOV is asserted neither NO_SAMPLE nor CEILING is raised (R583). -/
def State.modFrameEnd (s : State) (n : Nat) : State :=
  let m := s.mod n
  let driven := s.inDrive n && !m.act.voltage && !s.flag SYS_STAT.OV && !m.ovHold
  let a := m.pa.frameEnd driven
  let b := m.pb.frameEnd driven
  let sat := m.pa.saturated + m.pb.saturated
  let ilk := m.hbs.foldl (fun x h => max x h.events) 0
  let s := s.modMod n (fun m => { m with
    pa := a.1, pb := b.1, sho := 0, hbs := m.hbs.map (fun h => { h with events := 0 }) })
  let s := s.put (MOD_AX_CNT.MISS n) (max a.1.missRun b.1.missRun)
  let s := (s.put (MOD_AX_CNT.SHO n) (min m.sho 255)).put (MOD_AX_STAT.ILK n) (min ilk 255)
  let s := s.put (MOD_AX_STAT.CEIL n) (0 < sat : Bool).toNat
  let s := if a.2.2 || b.2.2 then s.raiseVisible n 0x070B else s
  if a.2.1 || b.2.1 then
    let s := s.raiseVisible n 0x0709
    let s := { s with modg := { s.modg with noSample := s.modg.noSample ||| (1#12 <<< n) } }
    s.enterSafe n 3
  else s

/-- PER_MISFIT (R252): raised at the cut at which the period of a FIXED mode comes not to divide the frame, a change of
LEN in STANDBY included. -/
def State.misfitCheck (s : State) (n : Nat) : State :=
  let c := (s.mod n).act
  let now := c.fixed && decide (c.period = 0 ∨ 4 * s.frameLen % c.period ≠ 0)
  let was := (s.mod n).misfit
  let s := s.modMod n (fun m => { m with misfit := now })
  if now && !was then s.raise 0x070C else s

/-- The committed-state word of axis `n` (R267). -/
def State.committedWord (s : State) (n : Nat) : Word :=
  let m := s.mod n
  let noSample := 0 < max m.pa.missRun m.pb.missRun
  u32 (m.beta % 2 ^ 20 + s.fld (MOD_AX_STAT.COAST n) * 2 ^ 20 + m.bmode * 2 ^ 24 + (s.isSafe n).toNat * 2 ^ 26
    + s.fld (MOD_AX_STAT.CEIL n) * 2 ^ 27 + (noSample : Bool).toNat * 2 ^ 28 + (s.firstWait n).toNat * 2 ^ 29)

/-! ### CMT registers -/

/-- The CMT buffers of axis `n` (R271): the registers. -/
def State.cmtBuffer (s : State) (n : Nat) : Cmt :=
  { cfg := s.word (MOD_AX_CFG n), per := s.word (MOD_AX_PER n), dutyA := s.word (MOD_AX_DUTYA n),
    dutyB := s.word (MOD_AX_DUTYB n), toff := s.word (MOD_AX_TOFF n), ton := s.word (MOD_AX_TON n),
    dt := s.word (MOD_AX_DT n) }

/-- A duty ceiling as it becomes active (R273). -/
def Cmt.clampCeil (c : Cmt) (w : Word) : Word := if c.period - c.toffMin < w.toNat then u32 (c.period - c.toffMin) else w

/-- The armed copy of axis `n` becomes active as a whole (R271 to R273). A change of the carrier mode clears the loops
(R266), and with SHO_EN 0 no phase is held (R262). -/
def State.cmtTransfer (s : State) (n : Nat) : State :=
  match (s.mod n).armed with
  | none => s
  | some c =>
    let clamped := decide (c.period - c.toffMin < c.dutyA.toNat) || decide (c.period - c.toffMin < c.dutyB.toNat)
    let s := if c.cmode != (s.mod n).act.cmode then s.clearLoops n else s
    let free (p : Phase) : Phase := if c.shoEn then p else { p with hold := false }
    let s := s.modMod n (fun m => { m with
      armed := none, act := { c with dutyA := c.clampCeil c.dutyA, dutyB := c.clampCeil c.dutyB }
      pa := free m.pa, pb := free m.pb })
    let s := s.putBit MOD_CMT_PEND.ARMED n false
    if clamped then (s.put (MOD_AX_STAT.DUTY_CLAMP n) 1).raise 0x070A else s

/-- D6 on entering STANDBY, and in BOOT: phases OPEN, carriers stopped, integ cleared, FIRST_WAIT; a commit that waits
for its transfer takes effect at once (R272, R280). -/
def State.modStandby (s : State) (n : Nat) : State :=
  let s := s.cmtTransfer n
  let s := ((s.clearLoops n).setCoast n 0).put (MOD_AX_STAT.FIRST_WAIT n) 1
  let q (p : Phase) : Phase := { p with risen := false, fallen := false, hold := false, refresh := false, refreshing := false }
  let s := s.modMod n (fun m => { m with carrier := false, pa := q m.pa, pb := q m.pb, bmode := 1, vel := 0 })
  s.driveChecked n

/-- A COMMIT of axis `n` is armed (R271); in BOOT and STANDBY the transfer is immediate (R272). -/
def State.arm (s : State) (n : Nat) : State :=
  let s := s.modMod n (fun m => { m with armed := some (s.cmtBuffer n) })
  let s := s.putBit MOD_CMT_PEND.ARMED n true
  if s.sys.mode.lists then s else s.cmtTransfer n

/-- COMMIT of axis `n` is refused (R274). -/
def State.commitRefused (s : State) (n : Nat) : Bool :=
  let c := s.cmtBuffer n
  !s.axisUsed n || !s.part.hasAxis n ||
  (match c.cmode with
   | 2 => decide (c.toffTicks < c.toffMin) || decide (c.period ≤ c.toffTicks)
   | 3 => decide (c.tonTicks < 32) || decide (c.period - c.toffMin < c.tonTicks)
   | _ => decide (c.period = 0 ∨ 4 * s.frameLen % c.period ≠ 0) || decide (c.period ≤ c.phase))

/-- A write to MOD_COMMIT (R271, R274): refused as a whole, or every named axis armed. -/
def State.writeCommit (s : State) (v : Word) : State :=
  let named := if v.getLsbD 16 then s.usedAxes ++ (List.range 12).filter (fun n => v.getLsbD n && !s.axisUsed n)
               else (List.range 12).filter (fun n => v.getLsbD n)
  if named.any s.commitRefused then s.refuse else s.each named State.arm

/-- A write to MOD_AXn_FORCE (R276, R283): ACTIVE needs FORCE_EN and an axis outside its safe state. -/
def State.writeForce (s : State) (n : Nat) (v : Word) : State :=
  if v.getLsbD 8 && (!s.flag MOD_CTRL.FORCE_EN || s.isSafe n) then s.refuse
  else
    let s := s.setWord (MOD_AX_FORCE n) (v &&& 0x1FF)
    let s := s.put MOD_STAT.FORCE_ACTIVE ((List.range 12).any (fun j => s.flag (MOD_AX_FORCE.ACTIVE j))).toNat
    s.driveChecked n

/-! ### Meanings -/

/-- SETPOINT_ARRIVE: the set-point words at the head of engine `e`'s crossing arrive in D6 (R263). -/
def execSetpointArrive (e : Fin 9) (s : State) : Out :=
  whenPowered s fun s =>
    let x : Xing := ⟨engUnit e, 6⟩
    match s.queue x with
    | .setpoint g0 a0 i0 w0 :: .setpoint g1 a1 i1 w1 :: t =>
      ((s.setQueue x t).takeSetpoint g0 a0 i0 w0).takeSetpoint g1 a1 i1 w1
    | .setpoint g0 a0 i0 w0 :: t => (s.setQueue x t).takeSetpoint g0 a0 i0 w0
    | _ => s

/-- REF_CNT of axis `n`: the higher count of its phases (R323). -/
def State.showRefreshes (s : State) (n : Nat) : State :=
  s.put (PWR_AX_STAT.REF_CNT n) (max (s.mod n).pa.refreshes (s.mod n).pb.refreshes)

/-- When the next carrier period of axis `n` is due, in D6 ticks: in a FIXED mode at its nominal instant (R252); in a
CONST mode at the last cut for the first period, and for a later one at the end of the one before (R253), which is taken
from the phase that ends its period first. -/
def State.carrierDue (s : State) (n : Nat) : BitVec 50 :=
  let m := s.mod n
  if m.act.fixed then
    let x := s.nextNominal n
    BitVec.ofNat 50 (4 * x.1.toNat + x.2)
  else if !m.carrier then BitVec.ofNat 50 (4 * s.clk.lastCut.toNat)
  else m.startAt + BitVec.ofNat 50 (min m.pa.len m.pb.len)

/-- The nominal instant of the start that is due, as `nextNominal` gives it: in a CONST mode the D6 ticks since the last
cut. -/
def State.dueNominal (s : State) (n : Nat) : Slate × Nat :=
  if (s.mod n).act.fixed then s.nextNominal n
  else
    let t := (s.carrierDue n - BitVec.ofNat 50 (4 * s.clk.lastCut.toNat)).toNat
    (s.clk.lastCut, if t < 2 ^ 49 then t else 0)

/-- The frame has a further carrier start: in a FIXED mode the starts end before the first one of the next frame (R252).
-/
def State.carrierLeft (s : State) (n : Nat) : Bool :=
  let x := s.nextNominal n
  !(s.mod n).act.fixed || decide (x.2 < s.sequenceEnd n x.1)

/-- The slate at the start of the carrier period that is due: D6 takes a nominal instant from its sampled slate, at least
one tick behind the generator (R36, R252). -/
def State.toCarrier (s : State) (n : Nat) : State :=
  let d := ((s.carrierDue n).toNat + 3) / 4
  let lag := if (s.mod n).act.fixed || !(s.mod n).carrier then 1 else 0
  s.advanceTo (BitVec.ofNat 48 (d + lag))

/-- One phase at a carrier start (R252, R253, R259, R322). The starts count from the assertion of BST_UV; only a phase in
DRIVE is refreshed. -/
def State.phaseStart (s : State) (n : Nat) (b : Bool) : State :=
  let uv := s.phaseUv n b
  let s := s.modPhase n b (fun p => { p with
    uvPeriods := if uv then p.uvPeriods + 1 else 0, risen := false, fallen := false, crossed := false
    len := s.fixedLen n })
  let refresh := uv && s.inDrive n && ((s.mod n).phase b).uvPeriods % 32 == 0
  let s := if refresh then s.bump (PWR_AX_CNT.REFRESH n) 1 else s
  let s := if refresh then s.modPhase n b (fun p => { p with refreshes := min 4 (p.refreshes + 1) }) else s
  let s := s.showRefreshes n
  let s := (s.modPhase n b (fun p => { p with refreshing := refresh, refresh := refresh })).voltageOut n b
  let uc := s.compensate n ((s.mod n).phase b).u
  let s := (s.modPhase n b (fun p => { p with positive := decide (0 ≤ uc) })).place n b true
  if (s.mod n).act.cmode = 1 || refresh || ((s.mod n).phase b).risen || ((s.mod n).phase b).d = 0 then s else s.rise n b

/-- A carrier period of axis `n` starts (R252, R253, R259, R271, R276, R322). A start taken from the sampled slate falls
one tick after its nominal instant. -/
def State.carrierStart (s : State) (n : Nat) : State :=
  let due := s.carrierDue n
  let x := s.dueNominal n
  let timed := !(s.mod n).act.fixed && (s.mod n).carrier
  let s := (s.toCarrier n).cmtTransfer n
  let s := s.modMod n (fun m => { m with
    carrier := true, startAt := if timed then due else due + 4, seqCut := x.1, nominal := x.2 })
  let s := s.each [false, true] (fun s b => s.phaseStart n b)
  let s := s.each [0, 1, 2, 3] (fun s k => if (s.hb n k).conflict then s.interlock n k else s)
  s.driveChecked n

/-- CARRIER_START: a carrier period of axis `n` starts. Carriers run in RUN, DEGRADED, SAFE and SERVICE (R280). -/
def execCarrierStart (n : Fin 12) (s : State) : Out :=
  whenPowered s fun s => if s.sys.mode.lists && s.axisUsed n && s.carrierLeft n then s.carrierStart n else s

/-- CARRIER_EDGE: the next edge of a phase is taken, each at most once per period (R258): in a refresh period first the
end of its low-side part, 128 + DT ticks after the start (R322), then the rising and the falling edge of the on-interval.
In LOOP = VOLTAGE the edges follow the angle up to here (R256); where that takes an edge of the phase, it is this one. -/
def execCarrierEdge (n : Fin 12) (b : Bool) (s : State) : Out :=
  whenPowered s fun s =>
    if !s.sys.mode.lists || !(s.mod n).carrier then s
    else
      let p := (s.mod n).phase b
      let s := s.follow n
      let q := (s.mod n).phase b
      if q.risen != p.risen || q.fallen != p.fallen then s
      else if q.refresh then (s.modPhase n b (fun p => { p with refresh := false })).driveChecked n
      else if !q.risen then if q.d = 0 then s else (s.rise n b).driveChecked n
      else if !q.fallen then (s.modPhase n b (fun p => { p with fallen := true })).driveChecked n
      else s

/-- The dead time of the pending turn-on has passed (R250). The gate driver turns the switch on only with the other gate
low; until then the turn-on is held back (R318). -/
def HalfBridge.expire (h : HalfBridge) (held : Bool) : HalfBridge :=
  match h.turnOn with
  | some hi =>
    if held || (if hi then h.lo else h.hi) then { h with waits := true }
    else if hi then { h with hi := true, turnOn := none } else { h with lo := true, turnOn := none }
  | none => h

/-- DEAD_TIME_EXPIRE: the pending turn-on of a half-bridge switch occurs after DT (R250), or is held back by the gate
driver while the voltage of the other gate stands at 1.5 V or above, as `t.held` has it (R318). A turn-on held back
occurs when the command comes again without it. -/
def execDeadTimeExpire (n : Fin 12) (b : TurnOn) (s : State) : Out :=
  whenPowered s fun s => s.modHb n b.k (fun h => h.expire b.held)

/-- The open-load flag of a phase of axis `n`. -/
def State.showOpen (s : State) (n : Nat) (b : Bool) (v : Nat) : State :=
  if b then s.put (PWR_AX_STAT.OL_B n) v else s.put (PWR_AX_STAT.OL_A n) v

/-- The open-load test of a phase at a valid sample (R334). -/
def State.openLoad (s : State) (n : Nat) (b : Bool) (ref value : Int) : State :=
  if !s.flag (PWR_AX_CFG.OL_EN n) || decide (ref.natAbs < 8192) then s
  else if 8 * value.natAbs < ref.natAbs then
    let s := s.modPhase n b (fun p => { p with openCount := p.openCount + 1 })
    if ((s.mod n).phase b).openCount = 64 then
      let s := (s.showOpen n b 1).raise 0x0807 n
      if s.flag (PWR_AX_CFG.OL_SAFE n) then s.enterSafe n 4 else s
    else s
  else
    (s.modPhase n b (fun p => { p with openCount := 0 })).showOpen n b 0

/-- A current-loop sample of a phase reaches D6 (R257): the PI runs when the phase is in DRIVE with LOOP = CURRENT and
the result may be used; otherwise u and integ stay. While VOV is asserted integ and u are held at 0 (R583); the
open-load test goes on (R334). -/
def State.currentSample (s : State) (n : Nat) (b : Bool) (w : Word) : State :=
  let m := s.mod n
  let usable := w.getLsbD 16 && !w.getLsbD 17 && !w.getLsbD 18
  let value : Int := (w.extractLsb' 0 16).toInt
  let ref := s.phaseRef n b
  if !(usable && s.inDrive n && !m.act.voltage) then s
  else if s.flag SYS_STAT.OV then (s.openLoad n b ref value).driveChecked n
  else
    let p := m.phase b
    let e := ref - value
    let raw := shr (s.fld (MOD_AX_GAIN.KP n) * e + p.integ) 12
    let u := clampZ (-32767) 32767 raw
    let integ := if u = raw || decide (e.sign ≠ u.sign)
                 then satS 32 (p.integ + s.fld (MOD_AX_GAIN.KI n) * e) else p.integ
    let s := s.modPhase n b (fun p => { p with
      u := u, integ := integ, sampled := true, updates := p.updates + 1
      saturated := if u = raw then p.saturated else p.saturated + 1 })
    ((s.place n b false).openLoad n b ref value).driveChecked n

/-- CURRENT_SAMPLE: a current-loop sample of a phase of axis `n` reaches D6 (R257). The sample stands at the head of the
crossing from D5, or arrives there with nothing queued ahead of it. -/
def execCurrentSample (n : Fin 12) (b : Bool) (w : Word) (s : State) : Out :=
  whenPowered s fun s =>
    let x : Xing := ⟨5, 6⟩
    match s.queue x with
    | .sample n' b' w' :: t =>
      if n' = n.val && (b' == 1) = b && w' = w then (s.setQueue x t).currentSample n b w else s.currentSample n b w
    | _ => s.currentSample n b w

/-- The slots that sample a voltage of a phase: their channel is the divider between the phase's half-bridges (R262,
R386). -/
def State.voltageSlots (s : State) (n : Nat) (b : Bool) : List Slot :=
  let ch := (if heavy n then 24 + 2 * n else 32 + 2 * (n - 4)) + b.toNat
  s.reel.struct.slots.filter (fun x => x.channel == ch)

/-- The slate at which the hold for a slot begins: GUARD ticks of D6 before the slot (R262, R389). -/
def State.holdAt (s : State) (n : Nat) (x : Slot) : Slate :=
  s.clk.lastCut + BitVec.ofNat 48 x.offset - BitVec.ofNat 48 (((s.mod n).act.guard + 3) / 4)

/-- The slate at the next hold of a phase, where one of the slots still lies ahead. -/
def State.toHold (s : State) (n : Nat) (b : Bool) : State :=
  let ahead := (s.voltageSlots n b).filter (fun x => decide ((s.holdAt n x - s.clk.slate).toNat < 2 ^ 47))
  match ahead with
  | [] => s
  | x :: l => s.advanceTo (s.holdAt n (l.foldl (fun y z => if z.offset < y.offset then z else y) x))

/-- The hold of a phase begins: an on-interval that is on is interrupted, and counted (R262). -/
def State.holdBegin (s : State) (n : Nat) (b : Bool) : State :=
  let m := s.mod n
  let p := m.phase b
  let cut := !p.hold && p.risen && !p.fallen && m.bmode = 0
  (s.modMod n (fun m => { m with sho := if cut then m.sho + 1 else m.sho })).modPhase n b (fun p => { p with hold := true })

/-- SAMPLE_HOLDOFF: the hold of a phase in DECAY for a voltage slot begins, with SHO_EN 1, or ends (R262). -/
def execSampleHoldoff (n : Fin 12) (b : Bool) (begins : Bool) (s : State) : Out :=
  whenPowered s fun s =>
    if !begins then (s.modPhase n b (fun p => { p with hold := false })).driveChecked n
    else if !(s.mod n).act.shoEn || (s.voltageSlots n b).isEmpty then s
    else ((s.toHold n b).holdBegin n b).driveChecked n

/-- MOD_COMMIT: a write to MOD_COMMIT (R271 to R274). -/
def execModCommit (v : Word) (s : State) : Out := hostAccess s MOD_COMMIT (some v) (fun s => s.writeCommit v)

/-- MOD_FORCE: a write to MOD_AXn_FORCE (R276). On a variant without the axis the write is discarded (R281). -/
def execModForce (n : Fin 12) (v : Word) (s : State) : Out :=
  hostAccess s (MOD_AX_FORCE n) (some v) (fun s => if s.part.hasAxis n then s.writeForce n v else s)

end Sys2Proof.Machine
end

