-- ==== Sys2Proof/Machine/Pwr.lean ====
section
/-!
DEFINITION. The power stage (chapter 09): trips and isolation, bootstrap undervoltage, the off-state diagnosis, the
comparator self-test, thermal shutdown, thermal supervision and admission, and the gate supply.
-/
namespace Sys2Proof.Machine

/-- A cause of the device state SAFE arises (R544): its bit of INT_SAFE_CAUSE, and the entry to SAFE at the next cut. -/
def State.safeCause (s : State) (bit : Nat) : State :=
  let s := s.putBit INT_SAFE_CAUSE.CAUSE bit true
  { s with sys := { s.sys with safeNew := s.sys.safeNew ||| (1#8 <<< bit) } }

/-- A cause of SAFE ends (R544). -/
def State.safeCauseEnd (s : State) (bit : Nat) : State := s.putBit INT_SAFE_CAUSE.CAUSE bit false

/-! ### Trips -/

/-- A trip source that axis `n` has (R325): OC, GATE and BST are heavy only. -/
def tripExists (n src : Nat) : Bool := heavy n || (src < 16 && src % 4 < 2)

/-- The half-bridges that a source isolates (R327). -/
def tripBridges (src : Nat) : List Nat :=
  if src = 16 then [0, 1] else if src = 17 then [2, 3] else [src / 4]

/-- The fault code of a trip (R345). -/
def tripCode (src : Nat) : Nat :=
  if 16 ≤ src then 0x0803
  else match src % 4 with
    | 0 => 0x0801 | 1 => 0x0802 | 2 => 0x0804 | _ => 0x0806

/-- Whether a trip bit of half-bridge `k` stands (R327, R332). -/
def tripHolds (w : Word) (k : Nat) : Bool :=
  (List.range 18).any (fun src => w.getLsbD src && (tripBridges src).contains k)

/-- ISOL of axis `n` from its trip bits (R327, R332). -/
def State.showIsolation (s : State) (n : Nat) : State :=
  let w := s.word (PWR_AX_TRIP n)
  s.put (PWR_AX_STAT.ISOL n)
    ((List.range 4).foldl (fun m k => if tripHolds w k then m + 2 ^ k else m) 0)

/-- Half-bridge `k` of axis `n` is exhausted: BST_UV still stands after the fourth consecutive refresh period (R323). -/
def State.exhausted (s : State) (n k : Nat) : Bool :=
  s.bitOf (PWR_AX_STAT.BST_UV n) k && decide (4 ≤ ((s.mod n).phase (2 ≤ k)).refreshes)

/-- A source of axis `n` can trip now (R325): a comparator on a switch and the GATE condition of a turn-on while that
switch is on, an exhaustion where the carriers run (R344), OC always. -/
def State.sourceActive (s : State) (n src : Nat) : Bool :=
  if 16 ≤ src then true
  else if src % 4 = 3 then s.sys.mode.lists && s.exhausted n (src / 4)
  else (s.hb n (src / 4)).watched (src % 4)

/-- The trip of a source falls in the D6 cycle of the last trip of axis `n`, before which it was active (R330). -/
def State.sameCycle (s : State) (n src : Nat) : Bool :=
  match Assoc.get s.pwr.cycle n with
  | some (t, m) => t == s.time && m.getLsbD src
  | none => false

/-- The sources of axis `n` that are active at its trip, or were at one of the same D6 cycle (R330). -/
def State.noteCycle (s : State) (n : Nat) : State :=
  let m := (List.range 18).foldl (fun m src =>
    if s.sourceActive n src || s.sameCycle n src then m ||| (1#18 <<< src) else m) 0#18
  { s with pwr := { s.pwr with cycle := Assoc.put s.pwr.cycle n (s.time, m) } }

/-- Every switch of axis `n` off, and every pending turn-on cancelled (R327, R329). -/
def State.allOff (s : State) (n : Nat) : State :=
  (s.modMod n (fun m => { m with hbs := m.hbs.map (fun h => { h with hi := false, lo := false, turnOn := none }) })).each
    [0, 1, 2, 3] (fun s k => s.switchSourcesOff n k)

/-- Axis `n` is under self-test: its trips act only through the thermal shutdown (R336). -/
def State.underTest (s : State) (n : Nat) : Bool := s.pwr.selfTest.head? == some n

/-- A trip of axis `n` (R327, R329, R330). The pattern of the safe state engages after DT. -/
def State.trip (s : State) (n src : Nat) : State :=
  if s.underTest n then s
  else
    let s := (s.putBit ⟨PWR_AX_TRIP n, 0, 18⟩ src true).showIsolation n
    let s := ((s.noteCycle n).allOff n).bump (PWR_AX_CNT.TRIPS n) 1
    let s := s.raise (tripCode src) n
    (s.enterSafe n 1).driveChecked n

/-- TRIP: a filtered comparator, a GATE condition or an exhaustion trips axis `n` (R327). A comparator that is not active
reads inactive (R325). Two trips of one D6 cycle both count, though the first turns the switches off (R330). -/
def execTrip (n : Fin 12) (src : Fin 18) (s : State) : Out :=
  whenPowered s fun s =>
    if !s.axisUsed n || !tripExists n src || !(s.sourceActive n src || s.sameCycle n src) then s
    else (s.putBit (PWR_AX_LIVE.SRC n) src true).trip n src

/-- SOURCE_INACTIVE: a trip source of axis `n` becomes inactive, and its inactive time starts (R331). -/
def execSourceInactive (n : Fin 12) (src : Fin 18) (s : State) : Out :=
  whenPowered s fun s =>
    if !s.axisUsed n || !tripExists n src then s else s.sourceOff n src

/-- The inactive time that clearing a trip bit requires, in slate ticks: TFILT, or 1 us for GATE and BST (R326, R331). -/
def State.quietTicks (s : State) (n src : Nat) : Nat :=
  if src < 16 && 2 ≤ src % 4 then 80 else 4 * 2 ^ s.fld (PWR_AX_CFG.TFILT n)

/-- Any die-temperature sensor stands at 160 degC or above (R339). -/
def State.anyHot (s : State) : Bool :=
  s.flag PWR_STAT.OT_SHUT || s.pwr.temps.any (fun t => decide (2560 ≤ t.getD 0))

/-- The source of a trip bit of axis `n` is active: its comparator, for a BST bit the undervoltage of its half-bridge
(R323), and for OT a sensor at 160 degC or above (R346). -/
def State.tripStands (s : State) (n src : Nat) : Bool :=
  if src = 18 then s.anyHot
  else s.bitOf (PWR_AX_LIVE.SRC n) src
    || (decide (src < 16) && src % 4 == 3 && s.bitOf (PWR_AX_STAT.BST_UV n) (src / 4))

/-- TRIPS of axis `n` has reached TRIP_MAX (R331). -/
def State.tripLocked (s : State) (n : Nat) : Bool :=
  let max := s.fld (PWR_AX_TRIP_MAX.MAX n)
  max != 0 && decide (max ≤ s.fld (PWR_AX_CNT.TRIPS n))

/-- A trip bit of axis `n` may clear (R331, R346). -/
def State.tripMayClear (s : State) (n src : Nat) : Bool :=
  !s.tripStands n src
    && (match Assoc.get s.pwr.off (n, src) with
        | some t => decide (t + s.quietTicks n src ≤ s.time)
        | none => true)
    && !s.tripLocked n

/-- The time from which on the OT bits of the axes have no source, where the last sensor has cooled since `old` (R331). -/
def State.cooledSince (s old : State) : State :=
  if old.anyHot && !s.anyHot then
    { s with pwr := { s.pwr with
      off := (List.range 12).foldl (fun l n => Assoc.put l (n, 18) s.time) s.pwr.off } }
  else s

/-- A write of `mask` to PWR_AXn_TRIP (R331, R332): all named bits clear, or none and CLEAR_REFUSED; each write has its
TRIP_CLEAR record (R570, R571). -/
def State.tripClear (s : State) (n : Nat) (mask : Word) : State :=
  let named := (List.range 19).filter (fun b => mask.getLsbD b)
  let ok := named.all (s.tripMayClear n)
  let s := s.logRec (s.mkRec 0x07 0 n mask (if ok then 0 else 2) (s.word (PWR_AX_LIVE n)))
  if ok then
    let s := s.setWord (PWR_AX_TRIP n) (s.word (PWR_AX_TRIP n) &&& ~~~mask)
    let s := { s with pwr := { s.pwr with cycle := Assoc.del s.pwr.cycle n } }
    (s.showIsolation n).driveChecked n
  else
    (s.when (s.tripLocked n) (fun s => s.raise 0x080F n)).outcome 2

/-- TRIP_CLEAR: a write to PWR_AXn_TRIP reaches the power stage (R331). -/
def execTripClear (n : Fin 12) (mask : Word) (s : State) : Out :=
  hostAccess s (PWR_AX_TRIP n) (some mask) (fun s => if s.part.hasAxis n then s.tripClear n mask else s)

/-! ### Bootstrap -/

/-- BST_UV_ASSERT: bootstrap undervoltage of half-bridge `k` (R321). The first assertion of an episode raises BST_UV, and
the carrier starts of the phase count from it (R322). -/
def execBstUvAssert (n : Fin 12) (k : Fin 4) (s : State) : Out :=
  whenPowered s fun s =>
    if !s.axisUsed n || !heavy n || s.bitOf (PWR_AX_STAT.BST_UV n) k then s
    else
      let s := s.when (!s.phaseUv n (2 ≤ k.val)) (fun s => s.modPhase n (2 ≤ k.val) (fun p => { p with uvPeriods := 0 }))
      ((s.putBit (PWR_AX_STAT.BST_UV n) k true).raise 0x0805 n).when (s.isSafe n) (fun s => s.driveChecked n)

/-- BST_UV_RELEASE: the undervoltage has ended: the refresh count returns to 0, and the inactive time of a BST trip starts
(R321, R323, R331). -/
def execBstUvRelease (n : Fin 12) (k : Fin 4) (s : State) : Out :=
  whenPowered s fun s =>
    if !s.bitOf (PWR_AX_STAT.BST_UV n) k then s
    else
      let s := (s.putBit (PWR_AX_STAT.BST_UV n) k false).sourceOff n (4 * k + 3)
      let s := s.modPhase n (2 ≤ k.val) (fun p => { p with refreshes := 0 })
      (s.showRefreshes n).when (s.isSafe n) (fun s => s.driveChecked n)

/-- BST_EXHAUST: the fourth consecutive refresh period has ended with BST_UV asserted (R323). -/
def execBstExhaust (n : Fin 12) (k : Fin 4) (s : State) : Out :=
  whenPowered s fun s =>
    if s.axisUsed n && s.sys.mode.lists && s.exhausted n k
    then (s.putBit (PWR_AX_LIVE.SRC n) (4 * k + 3) true).trip n (4 * k + 3) else s

/-! ### Off-state diagnosis -/

/-- Every switch of axis `n` is off. -/
def State.phasesOpen (s : State) (n : Nat) : Bool :=
  (s.mod n).hbs.all (fun h => !h.hi && !h.lo && h.turnOn.isNone)

/-- A write of PWR_AXn_DIAG.START (R335). VBAT below 6 V shows in PWR_STAT.LV. -/
def State.diagStart (s : State) (n : Nat) : State :=
  if !s.phasesOpen n || s.fld (PWR_AX_STAT.ISOL n) != 0 || s.flag PWR_STAT.LV || s.flag (PWR_AX_DIAG.BUSY n)
      || s.pwr.selfTest.contains n then s.refuse
  else ((s.put (PWR_AX_DIAG.BUSY n) 1).put (PWR_AX_DIAG.RESULT_A n) 0).put (PWR_AX_DIAG.RESULT_B n) 0

/-- DIAG_START: a write of PWR_AXn_DIAG.START (R335). -/
def execDiagStart (n : Fin 12) (s : State) : Out :=
  hostAccess s (PWR_AX_DIAG n) (some 1#32) (fun s => if s.part.hasAxis n then s.diagStart n else s)

/-- The class of a phase from its plus and minus output in millivolts (R335). -/
def diagClass (p m : Nat) : Nat :=
  if 1000 ≤ p && p ≤ 4000 && 1000 ≤ m && m ≤ 4000 && p ≤ m + 500 && m ≤ p + 500 then 1
  else if 4000 < p && m < 1000 then 2
  else if p < 1000 && m < 1000 then 3
  else if 4000 < p && 4000 < m then 4
  else 5

/-- DIAG_DONE: after 2 ms each phase is classified (R335), and the switches take what is requested of them again. -/
def execDiagDone (n : Fin 12) (v : DiagVolts) (s : State) : Out :=
  whenPowered s fun s =>
    if !s.flag (PWR_AX_DIAG.BUSY n) then s
    else
      let a := diagClass v.aPlus v.aMinus
      let b := diagClass v.bPlus v.bMinus
      let s := ((s.put (PWR_AX_DIAG.BUSY n) 0).put (PWR_AX_DIAG.RESULT_A n) a).put (PWR_AX_DIAG.RESULT_B n) b
      (s.when (a != 1 || b != 1) (fun s => s.raise 0x0808 n)).driveChecked n

/-! ### Self-test -/

/-- A write of PWR_ST_CTRL with START (R336): SEL is the value the same write carries. Outside STANDBY the axes must be in
their safe state, and the mode SERVICE (R576). -/
def State.selftestStart (s : State) (sel : BitVec 12) : State :=
  let axes := (List.range 12).filter (fun n => inMask sel n)
  if s.flag PWR_ST_RESULT.BUSY || axes.any (fun n => !s.axisUsed n)
      || (s.sys.mode != .standby && (s.sys.mode != .service || axes.any (fun n => !s.isSafe n))) then s.refuse
  else
    let s := s.put PWR_ST_CTRL.SEL sel.toNat
    let s := (((s.put PWR_ST_RESULT.FAILED 0).put PWR_ST_RESULT.CMP 0).put PWR_ST_RESULT.AXIS 0)
    let s := s.put PWR_ST_RESULT.BUSY (!axes.isEmpty).toNat
    { s with pwr := { s.pwr with selfTest := axes } }

/-- SELFTEST_START: a write of PWR_ST_CTRL.START (R336). -/
def execSelftestStart (sel : BitVec 12) (s : State) : Out :=
  hostAccess s PWR_ST_CTRL (some (sel.setWidth 32 ||| 0x10000#32)) (fun s => s.selftestStart sel)

/-- SELFTEST_DONE: the self-test of the present axis ends, with its first failing comparator if any (R337). -/
def execSelftestDone (fail : Option (Fin 18)) (s : State) : Out :=
  whenPowered s fun s =>
    match s.pwr.selfTest with
    | [] => s
    | n :: rest =>
      let s := { s with pwr := { s.pwr with selfTest := rest } }
      let s := s.put PWR_ST_RESULT.BUSY (!rest.isEmpty).toNat
      match fail with
      | none => (s.putBit PWR_ST_RESULT.PASS n true).put (PWR_AX_STAT.ST_HOLD n) 0
      | some c =>
        let s := if s.flag PWR_ST_RESULT.FAILED then s
                 else (s.put PWR_ST_RESULT.CMP c.val).put PWR_ST_RESULT.AXIS n
        let s := (s.put PWR_ST_RESULT.FAILED 1).putBit PWR_ST_RESULT.PASS n false
        ((s.raise 0x0809 n).enterSafe n 5).put (PWR_AX_STAT.ST_HOLD n) 1

/-! ### Thermal shutdown and gate supply -/

/-- OT_SHUT: an analog comparator trips (R339, R544): every axis in its safe state, the light ones with all switches
off, and SAFE at the next cut. -/
def execOtShut (s : State) : Out :=
  whenPowered s fun s =>
    if s.flag PWR_STAT.OT_SHUT then s
    else
      let s := ((s.put PWR_STAT.OT_SHUT 1).raise 0x080C).safeCause 5
      s.each s.usedAxes (fun s n => (((s.put (PWR_AX_TRIP.OT n) 1).enterSafe n 6).driveChecked n))

/-- OT_SHUT_RELEASE: every sensor is below 160 degC (R339, R544). -/
def execOtShutRelease (s : State) : Out :=
  whenPowered s fun s =>
    if !s.flag PWR_STAT.OT_SHUT then s
    else (((s.put PWR_STAT.OT_SHUT 0).cooledSince s).safeCauseEnd 5).each s.usedAxes (fun s n => s.driveChecked n)

/-- The used heavy axes. -/
def State.heavyAxes (s : State) : List Nat := s.usedAxes.filter heavy

/-- SUPPLY_GATE: VGL has been below 70 % for 2 us (R345, R544). -/
def execSupplyGate (s : State) : Out :=
  whenPowered s fun s =>
    let s := ((s.put PWR_STAT.VGL_OK 0).raise 0x080E).safeCause 6
    s.each s.heavyAxes (fun s n => (s.enterSafe n 7).driveChecked n)

/-- SUPPLY_GATE_RELEASE: VGL is within range again (R544). -/
def execSupplyGateRelease (s : State) : Out :=
  whenPowered s fun s =>
    ((s.put PWR_STAT.VGL_OK 1).safeCauseEnd 6).each s.heavyAxes (fun s n => s.driveChecked n)

/-- CHARGE_PUMP_READY: the charge pump has reached its range (R344). It runs outside STANDBY, and in STANDBY with
CP_STBY. -/
def execChargePumpReady (s : State) : Out :=
  whenPowered s fun s =>
    if s.sys.mode != .standby || s.flag PWR_CTRL.CP_STBY then s.put PWR_STAT.VCP_OK 1 else s

/-- The bootstrap trickle runs: the charge pump is in range and VBAT is at or below 40 V (R317). -/
def State.trickle (s : State) : Bool := s.flag PWR_STAT.VCP_OK && !s.flag PWR_STAT.HV

/-- The 40 V to 48 V row of the gate supply, while the power stage is powered (R317). -/
def State.gateHigh (s : State) (high : Bool) : State := s.when s.powered (fun s => s.put PWR_STAT.HV high.toNat)

/-- VBAT enters or leaves the 40 V to 48 V row of the gate supply (R317). -/
def State.highVoltage (s : State) (high : Bool) : State :=
  ({ s with sys := { s.sys with hvRow := high } }).gateHigh high

/-- HV: VBAT rises above 40 V (R317). -/
def execHv (s : State) : Out := if s.sys.mode = .off then .next s else done (s.highVoltage true)

/-- HV_RELEASE: VBAT is back at or below 40 V (R317, R320). -/
def execHvRelease (s : State) : Out := if s.sys.mode = .off then .next s else done (s.highVoltage false)

/-- The charge pump at a cut that enters mode `m` (R344): off in STANDBY without CP_STBY. -/
def State.pumpEnter (s : State) (m : Mode) : State :=
  if m = .standby && !s.flag PWR_CTRL.CP_STBY then s.put PWR_STAT.VCP_OK 0 else s

/-! ### Thermal supervision -/

/-- TMAX from the latest valid results (R338), or 0x7FFF while a sensor is missing (R340). -/
def State.tmaxNow (s : State) : Int :=
  if s.pwr.silent.any (fun k => 4 ≤ k) then 0x7FFF
  else
    match s.pwr.temps.filterMap id with
    | [] => 0
    | t :: l => l.foldl max t

/-- TMAX as PWR_THERM shows it, and OT_WARN (R338 to R340). -/
def State.thermalLook (s : State) : State :=
  let t := s.tmaxNow
  let s := s.put PWR_THERM.TMAX (wrd t).toNat
  if !s.flag PWR_STAT.OT_WARN && decide (2560 ≤ t) then (s.put PWR_STAT.OT_WARN 1).raise 0x080B
  else if t < 2480 then s.put PWR_STAT.OT_WARN 0
  else s

/-- A VBAT or die-temperature result delivered to D6 (R256, R338, R342, R346). D6 uses no other channel's result here
(R392). -/
def State.powerResult (s : State) (channel : Nat) (w : Word) : State :=
  if !w.getLsbD 16 then s
  else
    let v : Int := (w.extractLsb' 0 16).toInt
    if channel = 48 then
      let mv := v * (if s.fld (ADC_CH_CFG.GAIN 48) = 0 then 1 else 4)
      let s := { s with pwr := { s.pwr with vbat := some v } }
      let s := if s.sys.mode.lists then { s with modg := { s.modg with vbat := some v } } else s
      s.put PWR_STAT.LV (decide (mv < 12000)).toNat
    else if channel < 49 || 52 < channel then s
    else
      let i := channel - 49
      let old := s
      let s := { s with pwr := { s.pwr with
        temps := Tbl.mod s.pwr.temps i (fun _ => some v), fresh := s.pwr.fresh ||| (1#4 <<< i)
        silent := Tbl.mod s.pwr.silent i (fun _ => 0) } }
      ((s.putBit PWR_THERM.SENS_OK i true).thermalLook).cooledSince old

/-- The per-frame watch over the sensors (R340). -/
def State.sensorWatch (s : State) : State :=
  let s := s.each [0, 1, 2, 3] (fun s i =>
    if s.pwr.fresh.getLsbD i then s
    else
      let s := { s with pwr := { s.pwr with silent := Tbl.mod s.pwr.silent i (fun k => min (k + 1) 5) } }
      if Tbl.get 0 s.pwr.silent i = 4 then (s.putBit PWR_THERM.SENS_OK i false).raise 0x080D else s)
  ({ s with pwr := { s.pwr with fresh := 0 } }).thermalLook

/-- A row of the THERMAL section (R341). -/
structure ThermRow where
  enter : Int
  hyst : Int
  nFull : Nat
  nFullLv : Nat
  cap : Nat
  capLv : Nat
  vlv : Int
  deriving DecidableEq, Repr

/-- The half-word at byte `i` of a list of words. -/
def halfAt (l : List Word) (i : Nat) : Nat := (Tbl.get 0 l (i / 4)).toNat / 2 ^ (8 * (i % 4)) % 65536

/-- The byte at byte `i` of a list of words. -/
def byteAt (l : List Word) (i : Nat) : Nat := (Tbl.get 0 l (i / 4)).toNat / 2 ^ (8 * (i % 4)) % 256

/-- Row `r` of a THERMAL payload (R341). -/
def thermRow (l : List Word) (r : Nat) : ThermRow :=
  let o := 4 + 16 * r
  { enter := lowS 16 (halfAt l o), hyst := halfAt l (o + 2), nFull := byteAt l (o + 4), nFullLv := byteAt l (o + 5)
    cap := halfAt l (o + 6), capLv := halfAt l (o + 8), vlv := lowS 16 (halfAt l (o + 10)) }

/-- The highest row of the table whose T_ENTER lies at or below `t` (R342). -/
def thermTop (l : List Word) (t : Int) : Nat :=
  (List.range (halfAt l 0)).foldl (fun r k => if (thermRow l k).enter ≤ t then k else r) 0

/-- The thermal row at the end of BOOT (R342). -/
def State.thermalBoot (s : State) : State :=
  let s := s.thermalLook
  s.put PWR_STAT.ROW (thermTop s.reel.active.thermal s.tmaxNow)

/-- The row at a cut (R342). -/
def State.thermalRow (s : State) : State :=
  let l := s.reel.active.thermal
  let t := s.tmaxNow
  let r := s.fld PWR_STAT.ROW
  let top := thermTop l t
  if l.isEmpty then s.put PWR_STAT.ROW 0
  else if r < top then s.put PWR_STAT.ROW top
  else if t < (thermRow l r).enter - (thermRow l r).hyst then s.put PWR_STAT.ROW (r - 1)
  else s

/-- Thermal admission at a cut, after the commit decisions (R343). A light axis in its safe state counts with its last
committed values (DESIGN CHOICE: log entry 124). -/
def State.admission (s : State) : State :=
  let l := s.reel.active.thermal
  let row := thermRow l (s.fld PWR_STAT.ROW)
  let low := match s.pwr.vbat with | some v => decide (v < row.vlv) | none => false
  let n := if low then row.nFullLv else row.nFull
  let cap := if low then row.capLv else row.cap
  let cands := (List.range 12).filter (fun a => !heavy a && s.axisUsed a && !s.firstWait a && !l.isEmpty
    && (s.mod a).bmode == 0 && decide (halfAt l 2 ≤ (s.mod a).iamp))
  let kept := (cands.filter (fun a => s.flag (PWR_AX_STAT.ADMITTED a))).take n
  let added := (cands.filter (fun a => !s.flag (PWR_AX_STAT.ADMITTED a))).take (n - kept.length)
  let adm := kept ++ added
  let s := s.each ((List.range 12).filter (fun a => !heavy a)) (fun s a =>
    let isAdm := adm.contains a
    let capped := cands.contains a && !isAdm
    let first := capped && !s.flag (PWR_AX_STAT.CAPPED a)
    let s := s.modMod a (fun m => { m with cap := if capped then some cap else none })
    let s := (s.put (PWR_AX_STAT.ADMITTED a) isAdm.toNat).put (PWR_AX_STAT.CAPPED a) capped.toNat
    let s := (s.putBit PWR_STAT.ADMIT (a - 4) isAdm).putBit PWR_STAT.CAPPED (a - 4) capped
    s.when first (fun s => s.raise 0x080A a))
  s

end Sys2Proof.Machine
end

