-- ==== Sys2Proof/Machine/Intg.lean ====
section
/-!
DEFINITION. Integrity and recovery (chapter 16), with the states of the engines (chapter 03): engine faults and their
outcome, mirrors, takeover, parking, cover loss, the return of an engine, release, and the pins.
-/
namespace Sys2Proof.Machine

/-! ### Engine states -/

/-- The state of engine `e` becomes `st` (R137). -/
def State.setEngState (s : State) (e st : Nat) : State :=
  let s := s.put (ENG_E_STAT.STATE e) st
  if e < 8 then s.putBit ENG_STAT.FAULTED e (st == stFaulted || st == stCovered) else s

/-- The state of engine `e` (R137). -/
def State.engState (s : State) (e : Nat) : Nat := s.fld (ENG_E_STAT.STATE e)

/-- ES covers an engine. -/
def State.covering (s : State) : Bool := s.flag ENG_STAT.ES_BUSY

/-- The index of the engine table whose input area a word for the list of engine `e` reaches: `e`, or ES while it covers
`e` (R127). -/
def State.listTable (s : State) (e : Nat) : Nat := if s.covering && s.fld ENG_STAT.ES_COVER == e then 8 else e

/-- The axes that engine `e` serves, as a mask; for ES, those of the takeover. -/
def State.axesOf (s : State) (e : Nat) : BitVec 12 :=
  if e = 8 then s.intg.recAxes else axisMask (s.engineAxes e)

/-- A time as D1 samples it, EPOCH and slate as one number: 1 or 2 ticks behind the generator, which of them is open
(R36, R38, R42). -/
def State.stampD1 (s : State) : Nat × State :=
  let d := s.draw
  (s.time - 1 - d.1.toNat % 2, d.2)

/-- A shot list of engine `e` runs in the frame that a cut opens (R136): it is RUNNING, or it is ES, covers, and does not
restore. -/
def State.willRun (s : State) (e : Nat) : Bool :=
  s.sys.mode.lists &&
    (if e = 8 then s.covering && !s.intg.restoring && s.engState 8 == stRunning else s.engState e == stRunning)

/-! ### Bank accesses of an engine -/

/-- The engine fault of an access of engine `e` to the word at `a`, if the island may not make it (R112, R114). -/
def State.ownerFault (s : State) (e a : Nat) : Option Nat :=
  match bankOf a with
  | some b => if s.mayAccess e b then none else some 7
  | none => some 7

/-- Read `n` words from `a` on for engine `e`: the words, and the first fault met (R114, R132). -/
def State.engReads (s : State) (e : Nat) : Nat → Nat → List Word × Option Nat × State
  | _, 0 => ([], none, s)
  | a, n + 1 =>
    match s.ownerFault e a with
    | some c => ([], some c, s)
    | none =>
      match s.readMem a with
      | (w, true, s) => ([w], some 8, s)
      | (w, false, s) =>
        match s.engReads e (a + 4) n with
        | (l, c, s) => (w :: l, c, s)

/-- Write words from `a` on for engine `e`, or the fault of an access it may not make. -/
def State.engWrites (s : State) (e : Nat) : Nat → List Word → Option Nat × State
  | _, [] => (none, s)
  | a, w :: t =>
    match s.ownerFault e a with
    | some c => (some c, s)
    | none => (s.ownerWrite a w).engWrites e (a + 4) t

/-- The island of engine `e` writes the words of a block undo buffer back (R532), counted as its other writes (R522). A
word that it does not own it has not written either (R114). -/
def State.undoBack (s : State) (e : Nat) : Nat → List Word → State
  | _, [] => s
  | a, w :: t => (s.when (s.ownerFault e a).isNone (fun s => s.ownerWrite a w)).undoBack e (a + 4) t

/-- A block is consistent: word 7 is the CRC-32C of words 0 to 6, or all eight words are 0 (R164 to R166). -/
def blockOk (l : List Word) : Bool := l.all (fun w => w == 0) || Tbl.get 0 l 7 == crc32cWords (l.take 7)

/-- Write words 0 to 6 of a block, read them back, and write word 7 over the read-back words (R167). The fault is
CONTEXT_CHECK where the read-back differs. -/
def State.storeBlock (s : State) (e a : Nat) (l : List Word) : Option Nat × State :=
  match s.engWrites e a (l.take 7) with
  | (some c, s) => (some c, s)
  | (none, s) =>
    match s.engReads e a 7 with
    | (_, some c, s) => (some c, s)
    | (r, none, s) => if r = l.take 7 then s.engWrites e (a + 28) [crc32cWords r] else (some 6, s)

/-! ### Parking -/

/-- Axis `n` is parked (R539). -/
def State.axisParked (s : State) (n : Nat) : Bool := s.bitOf INT_STAT.PARKED_AX n

/-- One axis is parked (R539): the coast stop command at once, and UNCERTAIN at the next cut where its last committed
speed exceeded VSTOP. -/
def State.parkAxis (s : State) (n : Nat) : State :=
  ((s.putBit INT_STAT.PARKED_AX n true).when (s.aboveStop n) (fun s => s.loseTrack n)).coastStop n

/-- Axes `axes` of engine `e` are parked (R539): PARK, its count, its event, and the cause of DEGRADED. -/
def State.park (s : State) (e : Nat) (axes : List Nat) (cause : Nat) (t : Nat) : State :=
  let s := s.each axes State.parkAxis
  let s := (s.bump INT_REC_CNT.PARKS 1).raise 0x0F02
  (s.putBit INT_DEG_CAUSE.CAUSE 1 true).event 0x07 e (axisMask axes) cause t

/-- What the registers of ES show while it covers no engine (R137). -/
def State.notCovering (s : State) : State :=
  let s := ((s.put (ENG_E_STAT.COVER_VALID 8) 0).put (ENG_E_STAT.COVER 8) 0).put (ENG_E_STAT.AXES 8) 0
  (s.setWord (ENG_E_LIST 8) 0).setWord (ENG_E_FETCH_CHK 8) 0

/-- Cover is lost (R540): the axes that ES covers or restores enter their safe state, the device enters SAFE at the next
cut, and the covered engine stays FAULTED. -/
def State.coverLost (s : State) : State :=
  let axes := (List.range 12).filter (fun n => inMask s.intg.recAxes n && !s.axisParked n)
  let s := s.each axes (fun s n => (s.when (s.aboveStop n && !s.isSafe n) (fun s => s.loseTrack n)).enterSafe n 8)
  let s := (s.raise 0x0F03).safeCause 0
  let d := s.stampD1
  let s := d.2.event 0x08 8 (axisMask axes) 0 d.1
  let eng := match s.intg.takeover with | some e => e | none => s.fld INT_REC.ENGINE
  let s := if s.covering || s.intg.takeover.isSome then s.setEngState eng stFaulted else s
  let s := ((s.lend eng false).put ENG_STAT.ES_BUSY 0).notCovering
  let s := s.put INT_STAT.WINDOW 0
  let s := (s.putBit INT_DEG_CAUSE.CAUSE 0 false).setWord INT_REC 0
  { s with intg := { s.intg with takeover := none, restoring := false, restoreReq := none, recAxes := 0 } }

/-- A return that failed (R541, R542): the engine is COVERED again, and ES goes on covering, with the engine's slot, also
where APPLY has given that back already. -/
def State.returnFail (s : State) (e : Nat) (t : Nat) : State :=
  let s := ((s.setEngState e stCovered).lend e true).put INT_REC.PHASE 3
  let s := s.modEng e (fun g => { g with testing := false, reloaded := false })
  (s.raise 0x0F07).event 0x0B e (s.axesOf e) 0 t

/-- The engine test of a return fails, or the island's FLL has not locked in time (R541 step 4). -/
def State.returnFailSeen (s : State) (e : Nat) : State :=
  if s.engState e = stReturning then let d := s.stampD1; d.2.returnFail e d.1 else s

/-! ### Engine faults -/

/-- An engine fault opens a recovery window (R534 to R536). -/
def State.takeOver (s : State) (e cause t : Nat) : State :=
  let axes := s.axesOf e
  let safe := axisMask ((List.range 12).filter (fun n => s.isSafe n))
  let s := (s.put INT_STAT.WINDOW 1).bump INT_REC_CNT.TAKEOVERS 1
  let s := { s with intg := { s.intg with
    takeover := some e, recAxes := axes, windowCuts := 0, firstCommit := false
    excluded := safe, committed := 0, visible := 0 } }
  (s.raise 0x0F01).event 0x01 e axes cause t

/-- Engine `e` faults with cause `c`, the low byte of its code (R132, R135, R535). The undo buffer is written back
(R532). An engine whose clock is stopped raises no fault. Words of a frame whose END word has gone out stay in force
(R135). -/
def State.engineFault (s : State) (e c : Nat) : State :=
  let st := s.engState e
  if st != stRunning && st != stReturning then s
  else
    let s := match (s.eng e).undo with
      | some u => s.undoBack e u.addr u.words
      | none => s
    let ended := (s.eng e).ended
    let s := s.modEng e (fun g => { g with exec := false, undo := none })
    let s := s.put (ENG_E_STAT.CAUSE e) c
    let s := (s.bump (ENG_E_MISS.FAULTS e) 1).raise ((if e = 8 then 0x1100 else 0x0400) + c)
    if e = 8 then
      let s := (s.put ENG_STAT.ES_OK 0).setEngState 8 stFaulted
      let s := if ended && s.covering then { s with intg := { s.intg with esLast := some (s.fld INT_REC.ENGINE) } } else s
      if s.covering || s.flag INT_STAT.WINDOW then s.coverLost
      else (s.raise 0x0F08).putBit INT_DEG_CAUSE.CAUSE 2 true
    else
      let d := s.stampD1
      let s := d.2
      if st = stReturning then s.returnFail e d.1
      else
        let s := s.setEngState e stFaulted
        if s.flag INT_STAT.WINDOW || s.covering || !s.flag ENG_STAT.ES_OK then
          let late := if ended then axisMask (s.engineAxes e) else 0
          let s := { s with intg := { s.intg with lastWords := s.intg.lastWords ||| late } }
          (s.putBit INT_STAT.PARKED e true).park e (s.engineAxes e) c d.1
        else s.takeOver e c d.1

/-- What ENG_En_WATCH reads after a fault with cause `c` of an engine that runs (R137): nothing executed for NO_START and
FORCED, the cycles up to C - 92 for OVERRUN, and otherwise the shots and cycles before the shot at hand. -/
def State.faultWatch (s : State) (e c : Nat) : Word :=
  let g := s.eng e
  if c = 9 || c = 11 then 0
  else if c = 2 then u32 (g.shots % 512 + 3 * ((s.clk.nextCut - s.clk.lastCut).toNat - 96) * 65536)
  else u32 (g.shots % 512 + g.cycles * 65536)

/-- One fault of engine `e` is detected, `c` being the low byte of its code, with its WATCH (R132, R137). -/
def State.faultSeen (s : State) (e c : Nat) : State :=
  let w := s.faultWatch e c
  (s.when (s.engState e = stRunning) (fun s => s.setWord (ENG_E_WATCH e) w)).engineFault e c

/-- What is detected of engine `e`: a fault of R132, or the failure of its return (R541 step 4), which only a RETURNING
engine has, the engine test in the frame that runs it. -/
def State.detected (s : State) (e : Nat) (c : EngCause) : State :=
  match c with
  | .fault c => s.faultSeen e (c.val + 1)
  | .testFail => if (s.eng e).testing then s.returnFailSeen e else s
  | .noLock => s.returnFailSeen e

/-- ENGINE_FAULT: D1 detects a fault of engine `e` (R132, R135, R541), and in the same cycle those of `d.also`, where the
islands are clocked (R136). Of faults detected in one cycle the lower-numbered engine counts as the first (R542). -/
def execEngineFault (e : Fin 9) (d : Detection) (s : State) : Out :=
  whenPowered s fun s =>
    let all := (e, d.cause) :: d.also
    if !s.sys.mode.lists then s
    else s.each (List.range 9) (fun s k => s.each (all.filter (fun p => p.1.val == k)) (fun s p => s.detected p.1 p.2))

/-- NO_START: an engine that should run in this frame has begun no shot (R132). SHOTS_DONE and CYC_DONE read 0. -/
def execNoStart (e : Fin 9) (s : State) : Out :=
  whenPowered s fun s =>
    if s.clk.cutsOn && (s.clk.phase == .start || s.clk.phase == .frame) && s.willRun e && !(s.eng e).started
    then (s.setWord (ENG_E_WATCH e) 0).engineFault e 9 else s

/-! ### ENG_CTRL -/

/-- The engines that a mask names. -/
def engList (m : BitVec 8) : List Nat := (List.range 8).filter (fun e => m.getLsbD e)

/-- A write of FORCE (R137). -/
def State.forceRefused (s : State) (m : BitVec 8) : Bool :=
  m != 0 && (s.sys.mode != .service || (engList m).any (fun e => s.engState e == stUnused))

/-- A write of FORCE_ES (R137). -/
def State.forceEsRefused (s : State) : Bool := s.sys.mode != .service || !s.covering

/-- A write of RESTORE (R137). -/
def State.restoreRefused (s : State) (m : BitVec 8) : Bool := (engList m).any (fun e => s.engState e != stCovered)

/-- FORCED waits for the START of the next frame (R137). -/
def State.forceEngines (s : State) (m : BitVec 8) : State :=
  s.each (engList m) (fun s e => s.modEng e (fun g => { g with force := true }))

/-- RESTORE is accepted: the return begins at the next cut with no window open (R541). -/
def State.restoreEngines (s : State) (m : BitVec 8) : State :=
  match engList m with
  | e :: _ => { s with intg := { s.intg with restoreReq := some e } }
  | [] => s

/-- A write of ENG_CTRL (R137): refused as a whole, or each request taken. The bits read 0 while a request waits (DESIGN
CHOICE: log entry 81). -/
def State.writeEngCtrl (s : State) (v : Word) : State :=
  let f := v.extractLsb' 0 8
  let r := v.extractLsb' 16 8
  if s.forceRefused f || (v.getLsbD 8 && s.forceEsRefused) || s.restoreRefused r then s.refuse
  else ((s.forceEngines f).when (v.getLsbD 8) (fun s => s.modEng 8 (fun g => { g with force := true }))).restoreEngines r

/-- FORCE: a write of ENG_CTRL.FORCE (R137). -/
def execForce (m : BitVec 8) (s : State) : Out :=
  hostAccess s ENG_CTRL (some (m.setWidth 32)) (fun s => s.writeEngCtrl (m.setWidth 32))

/-- FORCE_ES: a write of ENG_CTRL.FORCE_ES (R137). -/
def execForceEs (s : State) : Out := hostAccess s ENG_CTRL (some 0x100) (fun s => s.writeEngCtrl 0x100)

/-- RESTORE: a write of ENG_CTRL.RESTORE (R137, R541). -/
def execRestore (m : BitVec 8) (s : State) : Out :=
  hostAccess s ENG_CTRL (some (m.setWidth 32 <<< 16)) (fun s => s.writeEngCtrl (m.setWidth 32 <<< 16))

/-- RETURN_RELOAD_DONE: the reload of the returning engine's page has ended; its test runs in the next frame (R541). -/
def execReturnReloadDone (s : State) : Out :=
  whenPowered s fun s =>
    let e := s.fld INT_REC.ENGINE
    if s.flag INT_REC.VALID && s.engState e == stReturning then s.modEng e (fun g => { g with reloaded := true }) else s

/-! ### Mirrors -/

/-- A MIRR word of axis `n` arrives in D11 (R530). -/
def State.takeMirror (s : State) (n i : Nat) (w : Word) : State :=
  { s with intg := { s.intg with
    pend := Tbl.mod s.intg.pend n (fun (m : MirrorSet) => { m with words := Tbl.mod m.words i (fun _ => some w) }) } }

/-- A word of the set-point copy of axis `n` arrives in D11 (R530). -/
def State.takeCopy (s : State) (n i : Nat) (w : Word) : State :=
  { s with intg := { s.intg with
    pend := Tbl.mod s.intg.pend n (fun (m : MirrorSet) =>
      if i = 0 then { m with spw0 := some w } else { m with spw1 := some w }) } }

/-- The six words of a mirror set, if all have arrived (R530). -/
def MirrorSet.all (m : MirrorSet) : Option (List Word) :=
  match m.words, m.spw0, m.spw1 with
  | [some a, some b, some c, some d], some x, some y => some [a, b, c, d, x, y]
  | _, _, _ => none

/-- The mirror sets at a cut (R530): kept where the END word arrived, all six words are there and CRC8 matches. -/
def State.mirrorCut (s : State) : State :=
  let judged := s.usedAxes.filter (fun n => !s.parkedOut n &&
    (match s.servingEngine n with | some e => s.intg.endD11.getLsbD e | none => false))
  let step (s : State) (n : Nat) : State :=
    let m := Tbl.get {} s.intg.pend n
    match m.all with
    | some l =>
      if spCrc (Tbl.get 0 l 4) (Tbl.get 0 l 5) = spCheck (Tbl.get 0 l 5) then
        { s with intg := { s.intg with
          kept := Tbl.mod s.intg.kept n (fun _ => { m with check := crc32cWords l, frame := s.clk.frames }) } }
      else s.bump INT_CHK_CNT.MIRROR 1
    | none => s.bump INT_CHK_CNT.MIRROR 1
  let before := s.fld INT_CHK_CNT.MIRROR
  let bad := judged.any (fun n =>
    match (Tbl.get {} s.intg.pend n : MirrorSet).all with
    | some l => spCrc (Tbl.get 0 l 4) (Tbl.get 0 l 5) != spCheck (Tbl.get 0 l 5)
    | none => true)
  let s := s.each judged step
  let s := s.when (bad || decide (before < s.fld INT_CHK_CNT.MIRROR)) (fun s => s.raise 0x0F09)
  { s with intg := { s.intg with pend := List.replicate 12 {} } }

/-! ### The restore -/

/-- Position and velocity in the internal units of RAMP from a motion block's words (R147, R161). -/
def motionIn (w0 w1 w2 : Word) : Int × Int :=
  (sgn w0 * 2 ^ 24 + (w2.toNat / 256 : Nat), sgn w1 * 256 + (w2.toNat % 256 : Nat))

/-- The words of a motion block from position and velocity (R161). -/
def motionOut (p v : Int) : Word × Word × Word :=
  (wrd (shr p 24), wrd (shr v 8), wrd ((p % 2 ^ 24) * 256 + v % 256))

/-- The blocks of the context of the axis at position `pos` in a page: one more than the highest block that a BLD, BST
or ACPT shot of its CTX names (R164). -/
def Page.blocks (p : Page) (pos : Nat) : Nat :=
  p.shots.foldl (fun m w =>
    let b (i : Nat) : Nat := (w.extractLsb' (8 * i) 8).toNat
    if b 1 % 4 = pos then
      match b 0 with
      | 0x05 => max m (b 3 % 64 + 1) | 0x06 => max m (b 3 % 64 + 1) | 0x07 => max m (b 4 % 64 + 1) | _ => m
    else m) 1

/-- The banks that the contexts of the first `axes` axes of a page reach: the banks that hold their state (R80, R164). -/
def Page.stateBanks (p : Page) (axes : Nat) : List Nat :=
  (List.range (min axes p.consts.length)).flatMap (fun pos =>
    (List.range (p.blocks pos)).filterMap (fun b => bankOf ((Tbl.get 0 p.consts pos).toNat + 32 * b)))

/-- The page from which ES runs engine `e`'s list (R83, R127). -/
def State.esPage (s : State) (e : Nat) : Page := Tbl.get {} s.reel.active.esPages e

/-- The check of blocks `b` on of a context, for the restore (R537 step 1): the words of block 0, or the fault met, or a
block that is not consistent. -/
def State.checkBlocks (s : State) (base : Nat) : Nat → Nat → Option Nat × Bool × State
  | _, 0 => (none, true, s)
  | b, n + 1 =>
    match s.engReads 8 (base + 32 * b) 8 with
    | (_, some c, s) => (some c, false, s)
    | (l, none, s) => if blockOk l then s.checkBlocks base (b + 1) n else (none, false, s)

/-- The kept set of axis `n` passes steps 2 and 3 of R537. -/
def MirrorSet.sound (m : MirrorSet) (l : List Word) : Bool :=
  let w (i : Nat) : Word := Tbl.get 0 l i
  crc32cWords l == m.check
    && ((w 0).toNat + (w 3).toNat % 4096) % 4096 == spAngle (w 4)
    && satS 21 (shr (sgn (w 1)) 8) == spVel (w 5)

/-- ES restores the axis at position `pos` of engine `e` (R537): 0 done, 1 not taken over, 2 ES faulted. The kept set is
advanced from the cut that kept it to the cut that ends the restore frame. -/
def State.restoreAxis (s : State) (e pos n : Nat) : Nat × State :=
  let page := s.esPage e
  let base := (Tbl.get 0 page.consts pos).toNat
  match s.checkBlocks base 0 (page.blocks pos) with
  | (some c, _, s) => (2, s.engineFault 8 c)
  | (none, false, s) => (1, s)
  | (none, true, s) =>
    let m : MirrorSet := Tbl.get {} s.intg.kept n
    let age := (s.clk.frames - m.frame).toNat + 1
    match m.all with
    | none => (1, s)
    | some l =>
      if !m.sound l || decide (4 < age) then (1, s)
      else
        let w (i : Nat) : Word := Tbl.get 0 l i
        let pv := motionIn (w 0) (w 1) (w 2)
        let out := motionOut (pv.1 + age * pv.2) pv.2
        let rest := if pv.2 = 0 then min ((w 3).toNat / 65536 + age) 65535 else 0
        let old := (s.engReads 8 base 7).1
        let words := [out.1, out.2.1, out.2.2, u32 ((w 3).toNat % 4096 + rest * 65536)] ++ (old.drop 4).take 3
        match s.storeBlock 8 base words with
        | (some c, s) => (2, s.engineFault 8 c)
        | (none, s) => (0, s)

/-- ES restores the axes of the engine it has taken over, in the restore frame (R536, R537). -/
def State.restoreAll (s : State) : State :=
  let e := s.fld INT_REC.ENGINE
  let s := { s with intg := { s.intg with restoring := false } }
  go e 0 s (s.engineAxes e)
where
  go (e pos : Nat) (s : State) : List Nat → State
    | [] => s
    | n :: t =>
      match s.restoreAxis e pos n with
      | (0, s) => go e (pos + 1) s t
      | (1, s) =>
        let d := s.stampD1
        let s := ((d.2.raise 0x0F04).park e [n] 0 d.1).putBit INT_REC.AXES n false
        go e (pos + 1) { s with intg := { s.intg with recAxes := s.intg.recAxes &&& ~~~(1#12 <<< n) } } t
      | (_, s) => s

/-! ### Recovery at a cut -/

/-- APPLY step 2 (R536, R541): the access slot of a taken-over engine goes to D11, that of a tested one back. -/
def State.recoveryApply (s : State) : State :=
  match s.intg.takeover with
  | some e => s.lend e true
  | none =>
    let e := s.fld INT_REC.ENGINE
    if s.flag INT_REC.VALID && (s.eng e).testing then s.lend e false else s

/-- The first cut after a detection (R536). The registers of ES show the covered engine's axes and fetch check (DESIGN
CHOICE: log entry 82). -/
def State.takeoverCut (s : State) (e : Nat) (t : Nat) : State :=
  let axes := s.intg.recAxes
  let page := s.esPage e
  let s := ((s.lend e true).setEngState e stCovered).put ENG_STAT.ES_COVER e
  let s := (s.put ENG_STAT.ES_BUSY 1).putBit INT_DEG_CAUSE.CAUSE 0 true
  let s := (s.put (ENG_E_STAT.COVER 8) e).put (ENG_E_STAT.COVER_VALID 8) 1
  let s := (s.put (ENG_E_STAT.AXES 8) (s.engineAxes e).length)
  let s := (s.setWord (ENG_E_LIST 8) (u32 (page.shots.length + page.cycles * 65536))).setWord (ENG_E_FETCH_CHK 8) page.check
  let s := s.setWord INT_REC (u32 (e + 8 + 1 * 16 + 4 * 256 + axes.toNat * 4096))
  let s := { s with intg := { s.intg with takeover := none, restoring := true, windowCuts := 1, relaunch := axes } }
  let s := s.each (s.engineAxes e) (fun s n =>
    match Tbl.get none s.intg.lastParam n with
    | some i => s.putBit (AX_PARAM_STAT.PEND n) i true
    | none => s)
  (s.event 0x02 e axes 0 t).event 0x03 e axes 0 t

/-- The window closes (R538). -/
def State.windowClose (s : State) (t : Nat) : State :=
  let e := s.fld INT_REC.ENGINE
  let axes := s.intg.recAxes
  let judged := (List.range 12).filter (fun n => inMask axes n && !inMask s.intg.excluded n && !s.axisParked n)
  let late := judged.filter (fun n => !inMask s.intg.committed n)
  let s := ((s.put INT_STAT.WINDOW 0).put INT_REC.WFRAMES 0).put INT_REC.PHASE 3
  let s := if judged.isEmpty then s
           else if late.isEmpty && !judged.any (inMask s.intg.visible) then s.bump INT_REC_CNT.INVISIBLE 1
           else (s.bump INT_REC_CNT.VISIBLE 1).raise 0x0F06
  let s := if late.isEmpty then s
           else ((s.raise 0x0F05).event 0x0C e (axisMask late) 0 t).park e late 0 t
  s.event 0x06 e axes 0 t

/-- A later cut of an open window (R534, R536, R538). -/
def State.windowCut (s : State) (t : Nat) : State :=
  let e := s.fld INT_REC.ENGINE
  let k := s.intg.windowCuts + 1
  let s := { s with intg := { s.intg with windowCuts := k } }
  let s := (s.put INT_REC.WFRAMES (5 - k)).put INT_REC.PHASE 2
  let s := if k = 2 then s.event 0x04 e s.intg.recAxes 0 t else s
  let s := if s.intg.committed != 0 && !s.intg.firstCommit then
             let s := { s with intg := { s.intg with firstCommit := true } }
             s.event 0x05 e s.intg.committed 0 t
           else s
  if 5 ≤ k then s.windowClose t else s

/-- The engine test has passed: the engine runs its list again, and ES is free (R541). -/
def State.returnDone (s : State) (e : Nat) (t : Nat) : State :=
  let s := (s.setEngState e stRunning).put ENG_STAT.ES_BUSY 0
  let s := (s.notCovering.putBit INT_DEG_CAUSE.CAUSE 0 false).setWord INT_REC 0
  let s := s.modEng e (fun g => { g with testing := false, reloaded := false })
  let s := { s with intg := { s.intg with recAxes := 0 } }
  s.event 0x0A e (axisMask (s.engineAxes e)) 0 t

/-- The clock of the island of engine `e` starts again for a return, where it was stopped (R62, R541): its FLL counts as
locked once FLL_RELOCK says so. -/
def State.restartIsland (s : State) (e : Nat) : State :=
  let isl := if e = 8 then 11 else 7 + e / 2
  if s.clk.stopped.getLsbD isl then
    ({ s with clk := { s.clk with stopped := s.clk.stopped &&& ~~~(1#12 <<< isl) } }).putBit CLK_STAT.ISL_OK isl false
  else s

/-- The recovery's part of a cut, after the commit decisions (R536 to R541). `t` is the cut's slate. The engine test runs
in a frame in which the engine islands are clocked (R27, R136, R541). -/
def State.recoveryCut (s : State) (t : Nat) : State :=
  match s.intg.takeover with
  | some e => s.takeoverCut e t
  | none =>
    if s.flag INT_STAT.WINDOW then s.windowCut t
    else if s.flag INT_REC.VALID then
      let e := s.fld INT_REC.ENGINE
      if s.engState e = stReturning then
        if (s.eng e).testing then s.returnDone e t
        else if (s.eng e).reloaded && s.sys.mode.lists then s.modEng e (fun g => { g with testing := true })
        else s
      else match s.intg.restoreReq with
        | some _ =>
          let s := { s with intg := { s.intg with restoreReq := none } }
          (((s.setEngState e stReturning).restartIsland e).put INT_REC.PHASE 4).event 0x09 e s.intg.recAxes 0 t
        | none => s
    else s

/-! ### Safe entries and release by register -/

/-- A write of INT_AX_SAFE (R545, R553). -/
def State.writeAxSafe (s : State) (m : BitVec 12) : State :=
  let axes := (List.range 12).filter (fun n => inMask m n)
  if axes.any (fun n => !s.axisUsed n) then s.refuse else s.each axes (fun s n => s.enterSafe n 10)

/-- AX_SAFE: a write of INT_AX_SAFE (R545). -/
def execAxSafe (m : BitVec 12) (s : State) : Out :=
  hostAccess s INT_AX_SAFE (some (m.setWidth 32)) (fun s => s.writeAxSafe m)

/-- A release of axis `n` is refused (R546). -/
def State.releaseRefused (s : State) (n : Nat) : Bool :=
  let st := match s.engineOf n with | some e => s.engState e | none => stUnused
  !s.isSafe n || s.word (PWR_AX_TRIP n) != 0 || s.flag (PWR_AX_STAT.ST_HOLD n)
    || !(st == stGated || st == stRunning || st == stCovered || st == stReturning)
    || s.axisParked n || s.axCause n == 8 || (s.axCause n == 9 && s.sys.mode == .safe)

/-- A write of INT_AX_RELEASE (R546). -/
def State.writeAxRelease (s : State) (m : BitVec 12) : State :=
  if (List.range 12).any (fun n => inMask m n && s.releaseRefused n) then s.refuse
  else { s with intg := { s.intg with release := s.intg.release ||| m } }

/-- AX_RELEASE: a write of INT_AX_RELEASE (R546). -/
def execAxRelease (m : BitVec 12) (s : State) : Out :=
  hostAccess s INT_AX_RELEASE (some (m.setWidth 32)) (fun s => s.writeAxRelease m)

/-- The releases of a cut, after the commit decisions (R546): the axis waits with FIRST_WAIT. -/
def State.releaseCut (s : State) : State :=
  let m := s.intg.release
  let s := { s with
    intg := { s.intg with release := 0 }
    modg := { s.modg with ilock := s.modg.ilock &&& ~~~m, noSample := s.modg.noSample &&& ~~~m } }
  s.each ((List.range 12).filter (fun n => inMask m n)) (fun s n =>
    let s := (s.put (MOD_AX_STAT.SAFE n) 0).putBit MOD_STAT.SAFE n false
    ((s.put (MOD_AX_STAT.FIRST_WAIT n) 1).setCoast n 0).driveChecked n)

/-! ### Pins -/

/-- PIN_HOLD_END: a pin that has been asserted for 1 us is released if its condition has ended (R551). -/
def execPinHoldEnd (irq : Bool) (s : State) : Out :=
  if !(s.powered || s.sys.sleepEntry) then .next s
  else if irq then done { s with intg := { s.intg with pinIrq := s.irqCond } }
  else done { s with intg := { s.intg with pinFault := s.faultCond } }

end Sys2Proof.Machine
end

