-- ==== Sys2Proof/Machine/Operands.lean ====
section
/-!
DEFINITION. The operand forms of the shots (R138 to R143): the fields of a shot word, the selectors, the words that raise
ILLEGAL_SHOT, and the table reads of TBL, PLAN and CAMI (R155, R156).
-/
namespace Sys2Proof.Machine

/-- One shot under execution: the engine, the axis position it names, its word, the constants of the active page, and
what is added to a table address (R155). -/
structure Shot where
  e : Nat
  ctx : Nat
  w : DWord
  consts : List Word
  delta : Nat
  deriving DecidableEq, Repr

/-- Byte `i` of the shot word (R119). -/
def Shot.b (c : Shot) (i : Nat) : Nat := (c.w.extractLsb' (8 * i) 8).toNat

/-- The constant index at bytes `i` and `i + 1` (R138). -/
def Shot.kidx (c : Shot) (i : Nat) : Nat := c.b i + 256 * c.b (i + 1)

/-- Constant `i`. -/
def Shot.k (c : Shot) (i : Nat) : Word := Tbl.get 0 c.consts i

/-- The input word that a selector names (R139). -/
def Shot.inputOf (c : Shot) (v : Nat) : Option Nat :=
  if 0x40 ≤ v && v ≤ 0x4E then some (16 * c.ctx + (v - 0x40))
  else if 0x50 ≤ v && v ≤ 0x5A then some (48 + (v - 0x50))
  else none

/-- An input word, or an untagged one beyond the input area. -/
def Eng.input (g : Eng) (i : Nat) : InWord := Tbl.get {} g.inp i

/-- An operand slot. -/
def Eng.op (g : Eng) (i : Nat) : Word := Tbl.get 0 g.ops i

/-- The engine with operand slot `i` holding `v`. -/
def Eng.setOp (g : Eng) (i : Nat) (v : Word) : Eng := { g with ops := Tbl.mod g.ops i (fun _ => v) }

/-- Several slots written in ascending order (R144). -/
def Eng.setOps (g : Eng) : Nat → List Word → Eng
  | _, [] => g
  | i, v :: t => (g.setOp i v).setOps (i + 1) t

/-- SAT set when `b` holds (R124). -/
def Eng.satIf (g : Eng) (b : Bool) : Eng := { g with sat := g.sat || b }

/-- MISS set when `b` holds (R123). -/
def Eng.missIf (g : Eng) (b : Bool) : Eng := { g with miss := g.miss || b }

/-- The word that a selector yields (R139, R143): an untagged input word yields 0. -/
def Shot.src (c : Shot) (g : Eng) (v : Nat) : Word :=
  if v < 0x20 then g.op v
  else match c.inputOf v with
    | some i => if (g.input i).tag then (g.input i).w else 0
    | none => c.k (v - 0x80)

/-- The selector names an untagged input word (R143). -/
def Shot.untagged (c : Shot) (g : Eng) (v : Nat) : Bool :=
  match c.inputOf v with
  | some i => !(g.input i).tag
  | none => false

/-- A mask (R147). -/
def maskOf (b : Bool) : Word := if b then 0xFFFFFFFF else 0

/-! ### Legal words -/

/-- A selector that is neither reserved nor a constant out of range (R139, R140). -/
def Shot.sel (c : Shot) (i : Nat) : Bool :=
  let v := c.b i
  v < 0x20 || (c.inputOf v).isSome || (0x80 ≤ v && v - 0x80 < c.consts.length)

/-- The bytes are zero (R138). -/
def Shot.zeros (c : Shot) (l : List Nat) : Bool := l.all (fun i => c.b i == 0)

/-- A constant index below CONSTS (R138, R140). -/
def Shot.kOk (c : Shot) (i : Nat) : Bool := c.kidx i < 4096 && c.kidx i < c.consts.length

/-- `n` slots from the one named at byte `i` stay within OP0 to OP31 (R138, R140). -/
def Shot.slots (c : Shot) (i n : Nat) : Bool := c.b i + n ≤ 32 && c.b i < 32

/-- Slot ranges that do not overlap. -/
def apart (a n b m : Nat) : Bool := a + n ≤ b || b + m ≤ a

/-- The operand bytes of opcode `op` are legal (R138 to R140, R149 to R175). The region of TAGM holds the words that a
selector names, so that a run of words ends at the last of them (DEDUCED: log entry 103). -/
def Shot.legal (c : Shot) (op : Nat) : Bool :=
  match op with
  | 0x01 => c.b 3 < 4 && c.zeros [4, 5, 6, 7]
  | 0x02 => c.slots 2 1 && c.kOk 3 && c.zeros [5, 6, 7]
  | 0x03 => c.slots 2 1 && c.sel 3 && c.zeros [7] &&
      ((c.b 4 == 0 && c.zeros [5, 6]) ||
       (c.b 4 == 1 && c.slots 5 1 && 1 ≤ c.b 6 && c.b 6 ≤ 16 && c.slots 2 (c.b 6)))
  | 0x04 => c.slots 2 1 && c.b 4 ≤ 1 && 1 ≤ c.b 5 && c.b 5 ≤ 4 && c.zeros [6, 7] &&
      ((0x40 ≤ c.b 3 && c.b 3 + c.b 5 ≤ 0x4F) || (0x50 ≤ c.b 3 && c.b 3 + c.b 5 ≤ 0x5B))
  | 0x05 => c.slots 2 7 && c.b 3 < 64 && c.zeros [4, 5, 6, 7] && c.ctx < c.consts.length
  | 0x06 => c.slots 2 7 && c.b 3 < 64 && c.zeros [4, 5, 6, 7] && c.ctx < c.consts.length
  | 0x07 => c.slots 2 2 && c.b 4 < 64 && c.zeros [5, 6, 7] && c.ctx < c.consts.length &&
      ((0x4A ≤ c.b 3 && c.b 3 ≤ 0x4C) || c.b 3 == 0x59)
  | 0x08 => c.slots 2 1 && c.sel 3 && c.sel 4 && c.b 5 < 6 && c.zeros [6, 7]
  | 0x09 => c.sel 2 && c.sel 3 && c.b 4 < 8 && c.zeros [5, 6, 7]
  | 0x0A => c.slots 2 1 && c.b 3 < 64 && c.b 4 < 4 && c.zeros [5, 6, 7]
  | 0x0B => c.slots 2 1 && c.sel 3 && c.sel 4 && c.b 5 < 4 && c.zeros [6, 7]
  | 0x0C => c.slots 2 1 && c.sel 3 && c.sel 4 && c.b 5 < 4 && c.zeros [6, 7]
  | 0x0D => c.slots 2 1 && c.sel 3 && c.sel 4 && c.b 5 < 9 && c.zeros [6, 7]
  | 0x0E => c.slots 2 1 && c.slots 3 1 && c.sel 4 && c.sel 5 && c.zeros [6, 7]
  | 0x0F => c.slots 2 1 && c.sel 3 && c.sel 4 && c.sel 5 && c.zeros [6, 7]
  | 0x10 => c.slots 2 1 && c.sel 3 && c.b 4 < 3 && c.zeros [5, 6, 7]
  | 0x11 => c.slots 2 1 && c.sel 3 && c.sel 4 && c.b 5 < 32 && c.zeros [6, 7]
  | 0x12 => c.slots 2 1 && c.sel 3 && c.b 4 ≤ 30 && c.b 4 % 2 == 0 && c.zeros [5, 6, 7]
  | 0x13 => c.slots 2 1 && c.sel 3 && c.kOk 4 && c.b 6 < 2 && c.zeros [7]
  | 0x14 => c.slots 2 2 && c.sel 3 && c.sel 4 && c.zeros [7] &&
      ((c.b 6 == 0 && c.b 5 == 0) || (c.b 6 == 1 && c.sel 5))
  | 0x15 => c.slots 2 4 && c.slots 3 1 && c.kOk 4 && c.zeros [6, 7] && apart (c.b 2) 4 (c.b 3) 1
  | 0x16 => c.slots 2 4 && c.slots 3 10 && c.slots 4 4 && c.sel 5 && c.kOk 6 &&
      apart (c.b 2) 4 (c.b 3) 10 && apart (c.b 2) 4 (c.b 4) 4 && apart (c.b 3) 10 (c.b 4) 4
  | 0x17 => c.slots 2 3 && c.sel 3 && c.sel 4 && c.slots 5 1 && c.zeros [6, 7]
  | 0x18 => c.slots 2 2 && c.sel 3 && c.kOk 4 && c.zeros [6, 7]
  | 0x19 => c.slots 2 1 && c.sel 3 && c.zeros [4, 5, 6, 7]
  | 0x1A => c.slots 2 4 && c.zeros [3, 4, 5, 6, 7]
  | 0x1B => 1 ≤ c.b 3 && c.b 3 ≤ 4 && c.slots 2 (c.b 3) && c.b 4 < 2 && c.b 5 + c.b 3 ≤ 16 && c.zeros [6, 7]
  | 0x1C => 1 ≤ c.b 3 && c.b 3 ≤ 4 && c.slots 2 (c.b 3) && c.b 4 + c.b 3 ≤ 16 && c.zeros [5, 6, 7]
  | _ => false

/-- The bytes of opcode `op` that are selectors (R139, R149 to R175). -/
def Shot.selectors (c : Shot) (op : Nat) : List Nat :=
  match op with
  | 0x03 => [3]
  | 0x09 => [2, 3]
  | 0x0E => [4, 5]
  | 0x0F => [3, 4, 5]
  | 0x14 => if c.b 6 = 1 then [3, 4, 5] else [3, 4]
  | 0x16 => [5]
  | 0x08 => [3, 4] | 0x0B => [3, 4] | 0x0C => [3, 4] | 0x0D => [3, 4] | 0x11 => [3, 4] | 0x17 => [3, 4]
  | 0x10 => [3] | 0x12 => [3] | 0x13 => [3] | 0x18 => [3] | 0x19 => [3]
  | _ => []

/-- The constants of the page that a shot of opcode `op` reads (R111): one for each selector at 0x80 or above, and one
by a constant index or as its context base. -/
def Shot.constReads (c : Shot) (op : Nat) : Nat :=
  ((c.selectors op).filter (fun i => 0x80 ≤ c.b i)).length +
    (if op ∈ [0x02, 0x05, 0x06, 0x07, 0x13, 0x15, 0x16, 0x18] then 1 else 0)

/-- The cycles a shot occupies (R145, R148). -/
def Shot.cycles (c : Shot) (op : Nat) : Nat :=
  match op with
  | 0x01 => c.b 2 + 256 * (c.b 3 % 4) + 1
  | 0x02 => 2 | 0x03 => 2 | 0x04 => 2 | 0x05 => 24 | 0x06 => 40 | 0x07 => 48 | 0x08 => 1 | 0x09 => 3 | 0x0A => 2
  | 0x0B => 1 | 0x0C => 1 | 0x0D => 1 | 0x0E => 1 | 0x0F => 2 | 0x10 => 1 | 0x11 => 36 | 0x12 => 20 | 0x13 => 12
  | 0x14 => 32 | 0x15 => 128 | 0x16 => 176 | 0x17 => 12 | 0x18 => 64 | 0x19 => 24 | 0x1A => 8
  | 0x1B => 2 + c.b 3 | 0x1C => 2 + c.b 3
  | _ => 0

/-! ### Tables -/

/-- The bank address of the table that constant `i` names (R155). -/
def Shot.table (c : Shot) (i : Nat) : Nat := (c.k i).toNat + c.delta

/-- One table word for engine `e`: the word and the fault met. -/
def State.tableWord (s : State) (e a : Nat) : Int × Option Nat × State :=
  match s.engReads e a 1 with
  | (w :: _, c, s) => (sgn w, c, s)
  | ([], c, s) => (0, c, s)

/-- Table words at several addresses in turn, until a fault. -/
def State.tableWords (s : State) (e : Nat) : List Nat → List Int × Option Nat × State
  | [] => ([], none, s)
  | a :: t =>
    match s.tableWord e a with
    | (_, some c, s) => ([], some c, s)
    | (w, none, s) =>
      match s.tableWords e t with
      | (l, c, s) => (w :: l, c, s)

/-- The constant that holds the table address of a shot that reads a table, which is a multiple of 4 (R155). -/
def Shot.tableConst (c : Shot) : Option Word :=
  match c.b 0 with
  | 0x13 => some (c.k (c.kidx 4)) | 0x15 => some (c.k (c.kidx 4)) | 0x18 => some (c.k (c.kidx 4))
  | 0x16 => some (c.k (c.kidx 6)) | _ => none

/-- Read or interpolate a TBL table at `a` (R156), each entry taken as `entry` of it (R201): the result before saturation
to 32 bits, SAT, and the fault met. -/
def State.tbl (s : State) (e base : Nat) (a : Int) (interp : Bool) (entry : Int → Int) :
    Int × Bool × Option Nat × State :=
  match s.tableWords e [base, base + 4] with
  | (_, some c, s) => (0, false, some c, s)
  | (l, none, s) =>
    let h := ((Tbl.get 0 l 0 : Int) % 4294967296).toNat
    let n0 := h % 2048
    let f0 := h / 65536 % 32
    let n := if 2 ≤ n0 && n0 ≤ 1024 then n0 else 2
    let f := min f0 16
    let bad := n != n0 || f != f0
    let x := a - Tbl.get 0 l 1
    let i := shr x f
    let g := x - i * 2 ^ f
    let j := (clampZ 0 ((n : Int) - 1) i).toNat
    match s.tableWords e [base + 8 + 4 * j, base + 8 + 4 * min (j + 1) (n - 1)] with
    | (_, some c, s) => (0, false, some c, s)
    | (v, none, s) =>
      let ej := entry (Tbl.get 0 v 0)
      let ek := entry (Tbl.get 0 v 1)
      if i < 0 then (ej, true, none, s)
      else if (n : Int) - 1 < i || (i == (n : Int) - 1 && decide (0 < g)) then (ej, true, none, s)
      else if i = (n : Int) - 1 || !interp then (ej, bad, none, s)
      else (ej + shr ((ek - ej) * g) f, bad, none, s)

/-- The bisection of R162 over the keyframes of a table from `base`: probes with steps 128 to 1, a probe past the last
keyframe counting as above `m`. -/
def State.probes (s : State) (e base n : Nat) (m : Int) : Nat → Nat → Nat × Option Nat × State
  | 0, i => (i, none, s)
  | k + 1, i =>
    let j := i + 2 ^ k
    match s.tableWord e (base + 4 + 8 * min j (n - 1)) with
    | (_, some c, s) => (i, some c, s)
    | (w, none, s) => if j ≤ n - 1 && decide (w ≤ m) then s.probes e base n m k j else s.probes e base n m k i

/-- Evaluate a CAMI table at `m` (R162): the result before saturation, the index, SAT, and the fault met. -/
def State.cami (s : State) (e base : Nat) (a : Int) : Int × Nat × Bool × Option Nat × State :=
  match s.tableWord e base with
  | (_, some c, s) => (0, 0, false, some c, s)
  | (h, none, s) =>
    let h := ((h : Int) % 4294967296).toNat
    let n0 := h % 512
    let n := if n0 < 2 then 2 else min n0 256
    match s.tableWords e [base + 4, base + 4 + 8 * (n - 1)] with
    | (_, some c, s) => (0, 0, false, some c, s)
    | (ends, none, s) =>
      let m0 := Tbl.get 0 ends 0
      let ml := Tbl.get 0 ends 1
      let per := h / 65536 % 2 == 1
      let len := ml - m0
      let m := if per && decide (0 < len) then m0 + (a - m0) % len else a
      let bad := n != n0 || (per && decide (len ≤ 0))
      match s.probes e base n m 8 0 with
      | (_, some c, s) => (0, 0, false, some c, s)
      | (i, none, s) =>
        let j := min (i + 1) (n - 1)
        match s.tableWords e [base + 4, base + 8, base + 4 + 8 * i, base + 8 + 8 * i, base + 4 + 8 * j, base + 8 + 8 * j,
            base + 8 + 8 * (n - 1)] with
        | (_, some c, s) => (0, 0, false, some c, s)
        | (v, none, s) =>
          let at_ (q : Nat) : Int := Tbl.get 0 v q
          if m < m0 then (at_ 1, 0, true, none, s)
          else if ml < m then (at_ 6, n - 1, true, none, s)
          else if i = n - 1 then (at_ 6, i, bad, none, s)
          else if at_ 4 - at_ 2 = 0 then (at_ 3, i, true, none, s)
          else (at_ 3 + quotZ ((at_ 5 - at_ 3) * (m - at_ 2)) (at_ 4 - at_ 2), i, bad, none, s)

end Sys2Proof.Machine
end

