-- ==== Sys2Proof/Machine/Plan.lean ====
section
/-!
DEFINITION. The motion profile generator (chapter 05): the closed forms that PLAN evaluates in every call (R180 to R194,
R209), on exact integers. Speeds and positions stand in units of 2^-24 microstep.
-/
namespace Sys2Proof.Machine

/-- The parameters as PLAN works with them: effective speeds (R180) and accelerations derated at the present speed
(R202). -/
structure PlanPar where
  vmax : Int
  w1 : Int
  w0 : Int
  vstart : Int
  acc1 : Int
  acc2 : Int
  d2 : Int
  d1 : Int
  softMin : Int
  softMax : Int
  deriving DecidableEq, Repr

/-- What one plan yields: the signed new speed, ARM, and the other flags as bits of the plan flag word (R209); the
distance to the stopping place where SNAP is set. -/
structure PlanOut where
  v : Int
  arm : Nat
  flags : Nat
  snap : Option Int
  deriving DecidableEq, Repr

/-- up(u, t) of R184. -/
def PlanPar.up (q : PlanPar) (u t : Int) : Int :=
  if u < q.vstart then min q.vstart t
  else if u < q.w1 then min (min (u + q.acc1) q.w1) t
  else min (u + q.acc2) t

/-- down(u, t) of R184. -/
def PlanPar.down (q : PlanPar) (u t : Int) : Int :=
  if u ≤ q.w0 then t
  else if q.w1 < u then max (max (u - q.d2) q.w1) t
  else max (max (u - q.d1) q.w0) t

/-- One form of R185 in units of 2^-25: the distance while the speed falls from `u` to `w` by `d` each frame. -/
def brakeForm (u w d : Int) : Int :=
  if u ≤ w then 0
  else
    let k : Int := if d = 0 then Config.brakeFrames (u - w).toNat else (u - w + d - 1) / d
    2 * k * u - d * k * (k - 1) - (u - w)

/-- The braking distance b(u), rounded up to a whole 2^-24 microstep (R185, R186). -/
def PlanPar.brake (q : PlanPar) (u : Int) : Int :=
  if u ≤ q.w0 then 0
  else if u ≤ q.w1 then (brakeForm u q.w0 q.d1 + 1) / 2
  else (brakeForm u q.w1 q.d2 + brakeForm q.w1 q.w0 q.d1 + 1) / 2

/-- ARM of a change of speed from `u` to `u'` (R209). -/
def PlanPar.armOf (q : PlanPar) (u u' : Int) : Nat :=
  if u < u' then (if u < q.vstart then 1 else if u < q.w1 then 2 else 3)
  else if u' = u then (if u = 0 then 0 else 4)
  else if u' = 0 && decide (u ≤ q.w0) then 7
  else if q.w1 < u then 5 else 6

/-- The bits of the plan flag word above ARM (R209). -/
def fSnap : Nat := 0x10
def fReversal : Nat := 0x20
def fAtTarget : Nat := 0x40
def fAtVlimit : Nat := 0x80
def fTgtClamp : Nat := 0x100
def fTgtBlocked : Nat := 0x200
def fOverspeed : Nat := 0x400
def fParamOrder : Nat := 0x800
def fSoftStop : Nat := 0x1000
def fUncMark : Nat := 0x2000

/-- The sign of `v`, or of `d` when `v` is 0. -/
def signOf (v d : Int) : Int := if v = 0 then d.sign else v.sign

/-- The position plan (R187 to R189): `v` the signed speed, `d` the signed distance, `whole` the distance in whole
microsteps. -/
def PlanPar.position (q : PlanPar) (v d whole : Int) : PlanOut :=
  let u : Int := v.natAbs
  let s := signOf v d
  let a : Int := d.natAbs
  if u = 0 && d = 0 then ⟨0, 0, fAtTarget, none⟩
  else if u ≤ q.w0 && a ≤ q.w0 && (u ≠ 0 || a ≤ q.vstart) then ⟨0, 8, fSnap + fAtTarget, some whole⟩
  else if v ≠ 0 && (d.sign ≠ s || d = 0) then
    let u' := q.down u 0
    ⟨s * u', q.armOf u u', fReversal, none⟩
  else
    let cru := if u ≤ q.vmax then u else q.down u q.vmax
    let acc := if u < q.vmax then q.up u q.vmax else cru
    let dec := if u ≤ q.w0 then u else q.down u q.w0
    let feasible (c : Int) : Bool := decide (q.brake c ≤ s * (d - shr (v + s * c) 1))
    let u' := if feasible acc then acc else if feasible cru then cru else dec
    ⟨s * u', q.armOf u u', 0, none⟩

/-- The velocity plan (R190). -/
def PlanPar.velocity (q : PlanPar) (v w : Int) : PlanOut :=
  let u : Int := v.natAbs
  let t : Int := w.natAbs
  let s := signOf v w
  let u' :=
    if v ≠ 0 && (w = 0 || w.sign ≠ s) then q.down u 0
    else if u < t then q.up u t
    else if t < u then q.down u t
    else u
  ⟨s * u', q.armOf u u', 0, none⟩

/-- The distance from position `p` (in 2^-24 microstep) to a target, modulo 2^56 and signed. -/
def distTo (target p : Int) : Int := lowS 56 (target * 2 ^ 24 - p)

/-- The velocity plan under soft limits (R191): `p` the position, `pw` its word. SOFT_STOP is set in the frame that
arrives at the limit, not while the axis goes on standing there, and AT_TARGET is not set by a limit (DESIGN CHOICE: log
entry 118). -/
def PlanPar.soft (q : PlanPar) (v w p pw : Int) : PlanOut :=
  let s := signOf v w
  if s = 0 then q.velocity v w
  else
    let l := if 0 < s then q.softMax else q.softMin
    let d := distTo l p
    let w := if decide (s * d ≤ 0) && w.sign == s then 0 else w
    let a := q.velocity v w
    let b := q.position v d (lowS 32 (l - pw))
    if b.v.natAbs ≤ a.v.natAbs then
      { b with flags := if b.arm = 8 then fSnap + fSoftStop else b.flags - (if b.flags.testBit 6 then fAtTarget else 0) }
    else a

/-- The command word C of PLAN (R160), taken apart: the mode and CMD after the corrections of R160, and whether a
correction was made. -/
def planCommand (c : Word) : Nat × Nat × Bool :=
  let n := c.toNat
  let m := n % 4
  let k := n / 512 % 8
  let mode := if m = 3 then 0 else m
  let cmd := if 4 < k || (k = 4 && mode ≠ 2) then 0 else k
  (mode, cmd, m == 3 || cmd != k || n / 4096 != 0 || n / 64 % 4 != 0)

/-- PLAN's whole evaluation (R160, R180 to R183, R192 to R194, R198, R209), `scale` being the entry of the ramp table at
the present speed: the four output words and SAT. AT_VLIMIT is also set by a velocity plan that a homing or cam state
commands, and the plan toward speed 0 under HALT sets it only by the speed VMAX (DEDUCED, log 87). PARAM_ORDER is judged
here by the four speeds; the shot adds the hold current (DEDUCED: log entry 104).

The model's choices: CMD 2 clamps w to VMAX_e in every mode, though R190 and R224 state the clamp for their own (DESIGN
CHOICE: log entry 114). A REST frame with STOP reports AT_TARGET 0 (DESIGN CHOICE: log entry 115). Outside a snap
OP[D+3] is the target as commanded less the position, also where the plan goes to a soft limit (DESIGN CHOICE: log entry
116). AT_TARGET is set by the position plan of CMD 1 in HOMING too (DEDUCED: log entry 117). -/
def planEval (pos vel frac target : Word) (par : List Word) (c : Word) (scale : Int) : List Word × Bool :=
  let p : Int := sgn pos * 2 ^ 24 + (frac.toNat / 256 : Nat)
  let v : Int := sgn vel * 256 + (frac.toNat % 256 : Nat)
  let par_ (i : Nat) : Int := (Tbl.get 0 par i).toNat
  let sc := clampZ 0 65536 scale
  let vmax := par_ 4 * 256
  let w1 := min (par_ 2 * 256) vmax
  let w0 := min (par_ 7 * 256) w1
  let q : PlanPar := {
    vmax := vmax, w1 := w1, w0 := w0, vstart := min (par_ 0 * 256) w0
    acc1 := shr (par_ 1 * sc) 16, acc2 := shr (par_ 3 * sc) 16, d2 := par_ 5, d1 := par_ 6
    softMin := sgn (Tbl.get 0 par 8), softMax := sgn (Tbl.get 0 par 9) }
  let order := q.w1 ≠ par_ 2 * 256 || q.w0 ≠ par_ 7 * 256 || q.vstart ≠ par_ 0 * 256
  let u : Int := v.natAbs
  let n := c.toNat
  let cm := planCommand c
  let stop := n.testBit 2
  let halt := n.testBit 3
  let soft := n.testBit 5
  let uncertain := n.testBit 8
  let pw := sgn pos
  let tgt := sgn target
  let toSpeed (w : Int) (lim : Bool) : PlanOut := if lim then q.soft v w p pw else q.velocity v w
  let toTarget : PlanOut :=
    let t := if soft then clampZ q.softMin q.softMax tgt else tgt
    let r := q.position v (distTo t p) (lowS 32 (t - pw))
    { r with flags := r.flags + (if t ≠ tgt then fTgtClamp else 0) }
  let toW (lim : Bool) : PlanOut :=
    let w := clampZ (-q.vmax) q.vmax (tgt * 256)
    let r := toSpeed w lim
    { r with flags := r.flags + (if r.v = w && r.v.natAbs ≠ q.vmax then fAtVlimit else 0) }
  let freeze (unc : Bool) : PlanOut := ⟨0, 9, fSnap + (if unc then fUncMark else 0), some 0⟩
  let r : PlanOut :=
    if stop then (if u = 0 && frac.toNat / 256 = 0 then ⟨0, 0, 0, none⟩ else freeze (decide (q.w0 < u)))
    else if halt then toSpeed 0 soft
    else match cm.1, cm.2.1 with
      | 2, 1 => toTarget
      | 2, 2 => toW false
      | 2, 4 => freeze false
      | 2, _ => toSpeed 0 false
      | 1, _ => toW soft
      | _, k =>
        if uncertain then
          let r := toSpeed 0 false
          { r with flags := r.flags + (if target ≠ pos then fTgtBlocked else 0) }
        else match k with
          | 2 => toW soft
          | 3 => toSpeed 0 soft
          | _ => toTarget
  let acc := r.v - v
  let lim : Int := if r.arm = 9 then 0
    else if v < r.v then -(shr (-r.v) 8) else if r.v < v then shr r.v 8 else shr v 8
  let flags := r.arm + r.flags + (if (r.v.natAbs : Int) = q.vmax then fAtVlimit else 0)
    + (if q.vmax < u then fOverspeed else 0) + (if order then fParamOrder else 0)
  let dist : Int := match r.snap with | some k => k | none => tgt - pw
  ([wrd (satS 32 acc), wrd lim, u32 flags, wrd dist], cm.2.2 || outS 32 acc)

/-- One frame of RAMP (R161): position, velocity and fraction words, and whether the velocity reached its limit; SAT. -/
def rampEval (pos vel frac : Word) (a b : Word) : List Word × Bool × Bool :=
  let v : Int := sgn vel * 256 + (frac.toNat % 256 : Nat)
  let p : Int := sgn pos * 2 ^ 24 + (frac.toNat / 256 : Nat)
  let acc := sgn a
  let vl := sgn b * 256
  let vn := v + acc
  let vn := if (decide (0 < acc) && decide (vl < vn)) || (decide (acc < 0) && decide (vn < vl)) then vl else vn
  let vs := satS 40 vn
  let p := p + shr (v + vs) 1
  ([wrd (shr p 24), wrd (shr vs 8), wrd ((p % 2 ^ 24) * 256 + vs % 256)], vs == vl, outS 40 vn)

end Sys2Proof.Machine
end

