-- ==== Sys2Proof/Machine/Shots.lean ====
section
/-!
DEFINITION. The 28 shots (chapter 04) and the execution of a shot list (R119 to R127, R132 to R135): fetch, decode, the
shot's effect, the cycle count, the checks of the last shot, and the END word.
-/
namespace Sys2Proof.Machine

/-- The page that engine `e` executes: its own, or ES's copy of the covered engine's (R111, R127). -/
def State.pageOf (s : State) (e : Nat) : Page :=
  if e = 8 then s.esPage (s.serves 8) else Tbl.get {} s.reel.active.pages e

/-- A fault of engine `e` found by the shot at hand: ENG_En_WATCH reads the shots completed before it and the cycle at
which it began (R137). -/
def State.shotFault (s : State) (e c : Nat) : State :=
  let g := s.eng e
  (s.setWord (ENG_E_WATCH e) (u32 (g.shots % 512 + g.cycles * 65536))).engineFault e c

/-- An END word arrives in the unit `dst` (R121, R122). -/
def State.takeEnd (s : State) (dst eng : Nat) : State :=
  let b : BitVec 9 := 1#9 <<< eng
  if dst = 6 then { s with intg := { s.intg with endD6 := s.intg.endD6 ||| b } }
  else if dst = 1 then { s with intg := { s.intg with endD1 := s.intg.endD1 ||| b } }
  else { s with intg := { s.intg with endD11 := s.intg.endD11 ||| b } }

/-- A word arrives in D11: a mirror word, a copy of a set-point word, or an END word (R121, R530). -/
def State.takeD11 (s : State) (m : Msg) : State :=
  match m with
  | .setpoint _ axis i w => s.takeCopy axis i w
  | .endWord eng _ _ => s.takeEnd 18 eng
  | .mirror _ axis i w => s.takeMirror axis i w
  | _ => s

/-- A word of engine `e` toward D11: ES stands there itself and has no crossing to it (R27, R30). -/
def State.launchD11 (s : State) (e : Nat) (m : Msg) : State :=
  if e = 8 then s.takeD11 m else s.launch ⟨engUnit e, 18⟩ m

/-- The END word of engine `e` toward D6, D1 and D11 (R121). -/
def State.launchEnd (s : State) (e : Nat) : State :=
  let m := Msg.endWord e (s.clk.frames.setWidth 16) (s.eng e).shots
  ((s.launch ⟨engUnit e, 6⟩ m).launch ⟨engUnit e, 1⟩ m).launchD11 e m

/-- The end of a shot's last cycle: the counts, and after the last shot the checks of R132 and the END word (R121,
R125). -/
def State.shotEnd (s : State) (e cycles : Nat) : State :=
  let g := s.eng e
  let p := s.pageOf e
  if g.shots + 1 < p.shots.length then
    s.modEng e (fun g => { g with shots := g.shots + 1, cycles := g.cycles + cycles })
  else if g.shots + 1 ≠ p.shots.length || g.cycles + cycles ≠ p.cycles then s.shotFault e 3
  else if u32 (g.fetch.toNat ^^^ 0xFFFFFFFF) ≠ p.check then s.shotFault e 4
  else
    let s := s.modEng e (fun g => { g with shots := g.shots + 1, cycles := g.cycles + cycles, exec := false, ended := true })
    s.launchEnd e

/-- The effect of a shot: a fault it raises, or none, and the state. -/
abbrev Effect := Shot → State → Option Nat × State

/-- The shot word that engine `e` fetches next: the next of the page in store order (R111, R120), with the bits that the
store changed unseen. -/
def State.fetched (s : State) (e : Nat) (f : Fetch) : DWord :=
  Tbl.get 0 (s.pageOf e).shots (s.eng e).shots ^^^ f.flip

/-- The shot that the fetch `f` brings to engine `e` (R119). -/
def State.shotOf (s : State) (e : Nat) (f : Fetch) : Shot :=
  { e := e, ctx := ((s.fetched e f).extractLsb' 8 8).toNat % 4, w := s.fetched e f, consts := (s.pageOf e).consts
    delta := if s.flag REEL_STAT.IMAGE then s.reel.active.hdr.imageDelta else 0 }

/-- The corrected words among `l`, each counted in ENG_En_CNT.CORR (R134). -/
def State.corrected (s : State) (e : Nat) (l : List Ecc) : State :=
  s.each (l.filter (fun x => x != .clean && x != .uncorr)) (fun s _ => s.bump (ENG_E_CNT.CORR e) 1)

/-- One shot of opcode `op` on engine `e` (R119, R120, R132 to R134). A fetched word of another legal opcode is not this
command's, and nothing happens; nor does anything while no list runs. -/
def State.runShot (s : State) (op : Nat) (e : Nat) (f : Fetch) (eff : Effect) : State :=
  let g := s.eng e
  let c := s.shotOf e f
  let code := c.b 0
  if !g.exec then s
  else if f.lo == .uncorr || f.hi == .uncorr then (s.corrected e [f.lo, f.hi]).shotFault e 5
  else if code ≠ op && 1 ≤ code && code ≤ 0x1C then s
  else
    let consts := f.consts.take (c.constReads op)
    let s := s.corrected e [f.lo, f.hi]
    let s := s.modEng e (fun g => { g with fetch := u32 (crc32Reg g.fetch.toNat (dwordBytes c.w)) })
    let axes := (s.engineAxes (s.serves e)).length
    if code ≠ op || 4 ≤ c.b 1 || axes ≤ c.ctx || !c.legal op then s.shotFault e 1
    else if consts.any (· == .uncorr) then (s.corrected e consts).shotFault e 5
    else
      let s := s.corrected e consts
      let s := s.each f.bank (fun s p => s.plant p.1 p.2)
      match eff c s with
      | (some k, s) => s.shotFault e k
      | (none, s) => s.shotEnd e (c.cycles op)

/-- A shot that only touches its engine. -/
def inner (f : Shot → Eng → Eng) : Effect := fun c s => (none, s.modEng c.e (f c))

/-- A shot that writes one value computed from up to three selectors, with SAT. -/
def compute (sels : List Nat) (f : Shot → Eng → List Word → Word × Bool) : Effect :=
  inner fun c g =>
    let r := f c g (sels.map (fun i => c.src g (c.b i)))
    ((g.setOp (c.b 2) r.1).satIf r.2).missIf (sels.any (fun i => c.untagged g (c.b i)))

/-- A value of 32 signed bits, saturated, with SAT. -/
def sat32 (z : Int) : Word × Bool := (wrd (satS 32 z), outS 32 z)

/-! ### Moving values -/

/-- PAD (R149). -/
def shotPad : Effect := fun _ s => (none, s)

/-- LDK (R149). -/
def shotLdk : Effect := inner fun c g => g.setOp (c.b 2) (c.k (c.kidx 3))

/-- MOV (R150). -/
def shotMov : Effect := inner fun c g =>
  let a := c.src g (c.b 3)
  let i := (g.op (c.b 5)).toNat % 32
  let g := g.missIf (c.untagged g (c.b 3))
  if c.b 4 = 0 then g.setOp (c.b 2) a else if i < c.b 6 then g.setOp (c.b 2 + i) a else g

/-- The input word may be used (R151, R159): tagged, VALID = 1 and DISABLED = 0. -/
def InWord.valid (x : InWord) : Bool := x.tag && x.w.getLsbD 16 && !x.w.getLsbD 18

/-- TAGM (R151). -/
def shotTagm : Effect := inner fun c g =>
  let i := (c.inputOf (c.b 3)).getD 0
  let ok (k : Nat) : Bool := if c.b 4 = 0 then (g.input (i + k)).tag else (g.input (i + k)).valid
  g.setOp (c.b 2) (maskOf ((List.range (c.b 5)).all ok))

/-! ### Arithmetic and selection (R152 to R154) -/

/-- ADD. -/
def shotAdd : Effect := compute [3, 4] fun c _ l =>
  let a := Tbl.get 0 l 0
  let b := Tbl.get 0 l 1
  let fn := c.b 5
  let sub := fn.testBit 0
  if fn.testBit 2 then
    let r : Int := if sub then (a.toNat : Int) - b.toNat else (a.toNat : Int) + b.toNat
    (wrd (satU 32 r), outU 32 r)
  else
    let r : Int := if sub then sgn a - sgn b else sgn a + sgn b
    if fn.testBit 1 then sat32 r else (wrd r, false)

/-- MUL. The rule saturates the sum; a product of unsigned operands that leaves the signed 64 bits of ACC without a sum
saturates as well and sets SAT (DESIGN CHOICE, log 85). -/
def shotMul : Effect := inner fun c g =>
  let a := c.src g (c.b 2)
  let b := c.src g (c.b 3)
  let fn := c.b 4
  let p : Int := if fn.testBit 2 then (a.toNat : Int) * b.toNat else sgn a * sgn b
  let p := if fn.testBit 1 then -p else p
  let r := if fn.testBit 0 then g.acc.toInt + p else p
  (({ g with acc := BitVec.ofInt 64 (satS 64 r) }).satIf (outS 64 r)).missIf
    (c.untagged g (c.b 2) || c.untagged g (c.b 3))

/-- ACCX. -/
def shotAccx : Effect := inner fun c g =>
  let sh := c.b 3
  let fn := c.b 4
  let r := shr (g.acc.toInt + (if fn.testBit 0 && 0 < sh then 2 ^ (sh - 1) else 0)) sh
  if fn.testBit 1 then (g.setOp (c.b 2) (wrd (satU 32 r))).satIf (outU 32 r)
  else (g.setOp (c.b 2) (wrd (satS 32 r))).satIf (outS 32 r)

/-- LOGIC. -/
def shotLogic : Effect := compute [3, 4] fun c _ l =>
  let a := Tbl.get 0 l 0
  let b := Tbl.get 0 l 1
  (match c.b 5 with | 0 => a &&& b | 1 => a ||| b | 2 => a ^^^ b | _ => a &&& ~~~b, false)

/-- SHIFT. -/
def shotShift : Effect := compute [3, 4] fun c _ l =>
  let a := Tbl.get 0 l 0
  let k := (Tbl.get 0 l 1).toNat % 64
  (match c.b 5 with | 0 => a <<< k | 1 => a >>> k | 2 => a.sshiftRight k | _ => a.rotateRight (k % 32), false)

/-- CMP. -/
def shotCmp : Effect := compute [3, 4] fun c _ l =>
  let a := Tbl.get 0 l 0
  let b := Tbl.get 0 l 1
  let r : Bool := match c.b 5 with
    | 0 => a == b | 1 => a != b | 2 => decide (sgn a < sgn b) | 3 => decide (sgn a ≤ sgn b)
    | 4 => decide (sgn b < sgn a) | 5 => decide (sgn b ≤ sgn a) | 6 => decide (a.toNat < b.toNat)
    | 7 => decide (b.toNat ≤ a.toNat) | _ => a.msb == b.msb
  (maskOf r, false)

/-- SEL. -/
def shotSel : Effect := compute [4, 5] fun c g l =>
  let m := g.op (c.b 3)
  ((Tbl.get 0 l 0 &&& m) ||| (Tbl.get 0 l 1 &&& ~~~m), false)

/-- CLAMP. -/
def shotClamp : Effect := compute [3, 4, 5] fun _ _ l =>
  let a := sgn (Tbl.get 0 l 0)
  let r := min (max a (sgn (Tbl.get 0 l 1))) (sgn (Tbl.get 0 l 2))
  (wrd r, r != a)

/-- ABSN. -/
def shotAbsn : Effect := compute [3] fun c _ l =>
  let a := sgn (Tbl.get 0 l 0)
  match c.b 4 with
  | 0 => sat32 a.natAbs
  | 1 => sat32 (-a)
  | _ => (wrd a.sign, false)

/-- DIV (R153). -/
def shotDiv : Effect := compute [3, 4] fun c _ l =>
  let a := sgn (Tbl.get 0 l 0)
  let b := sgn (Tbl.get 0 l 1)
  if b = 0 then (wrd (if 0 < a then 0x7FFFFFFF else if a < 0 then -0x80000000 else 0), true)
  else sat32 (quotZ (a * 2 ^ c.b 5) b)

/-- ISQRT (R154). -/
def shotIsqrt : Effect := compute [3] fun c _ l => (u32 (isqrt ((Tbl.get 0 l 0).toNat * 2 ^ c.b 4)), false)

/-! ### Tables and rotation -/

/-- TBL (R155, R156). -/
def shotTbl : Effect := fun c s =>
  let g := s.eng c.e
  let a := c.src g (c.b 3)
  match s.tbl c.e (c.table (c.kidx 4)) (sgn a) (c.b 6 == 1) id with
  | (_, _, some k, s) => (some k, s)
  | (r, st, none, s) =>
    (none, s.modEng c.e (fun g =>
      ((g.setOp (c.b 2) (wrd (satS 32 r))).satIf (st || outS 32 r)).missIf (c.untagged g (c.b 3))))

/-- The arctangent table of R157. -/
def arctans : List Int :=
  [0x20000000, 0x12E4051E, 0x09FB385B, 0x051111D4, 0x028B0D43, 0x0145D7E1, 0x00A2F61E, 0x00517C55, 0x0028BE53,
   0x00145F2F, 0x000A2F98, 0x000517CC, 0x00028BE6, 0x000145F3, 0x0000A2F9, 0x0000517C]

/-- The iterations of VECTOR from index `i`. -/
def cordicVector : List Int → Nat → Int → Int → Int → Int × Int
  | [], _, x, _, z => (x, z)
  | t :: l, i, x, y, z =>
    if 0 ≤ y then cordicVector l (i + 1) (x + shr y i) (y - shr x i) (z + t)
    else cordicVector l (i + 1) (x - shr y i) (y + shr x i) (z - t)

/-- The iterations of ROTATE from index `i`; the angle is read as a signed 32-bit number. -/
def cordicRotate : List Int → Nat → Int → Int → Int → Int × Int
  | [], _, x, y, _ => (x, y)
  | t :: l, i, x, y, z =>
    if 0 ≤ lowS 32 z then cordicRotate l (i + 1) (x - shr y i) (y + shr x i) (z - t)
    else cordicRotate l (i + 1) (x + shr y i) (y - shr x i) (z + t)

/-- The gain correction of R157. -/
def cordicScale (x : Int) : Int := shr (x * 0x9B74EDA8) 32

/-- ROT (R157). -/
def shotRot : Effect := inner fun c g =>
  let a := sgn (c.src g (c.b 3))
  let b := sgn (c.src g (c.b 4))
  let d := c.b 2
  let g := g.missIf (c.untagged g (c.b 3) || c.untagged g (c.b 4) || (c.b 6 == 1 && c.untagged g (c.b 5)))
  if c.b 6 = 0 then
    let r := if a < 0 then cordicVector arctans 0 (-a) (-b) 0x80000000 else cordicVector arctans 0 a b 0
    let m := cordicScale r.1
    (g.setOps d [wrd r.2, wrd (satS 32 m)]).satIf (outS 32 m)
  else
    let z : Int := (c.src g (c.b 5)).toNat
    let r := if 0x40000000 ≤ z && z < 0xC0000000 then cordicRotate arctans 0 (-a) (-b) (z - 0x80000000)
             else cordicRotate arctans 0 a b z
    let x := cordicScale r.1
    let y := cordicScale r.2
    (g.setOps d [wrd (satS 32 x), wrd (satS 32 y)]).satIf (outS 32 x || outS 32 y)

/-! ### Observer, planning and ramping -/

/-- The words from `a` on that OBSV reads as coefficients. -/
def wordAddrs (a n : Nat) : List Nat := (List.range n).map (fun k => a + 4 * k)

/-- One phase of OBSV (R158): two states, two inputs and eight coefficients. -/
def observe (x0 x1 u0 u1 : Int) (k : Nat → Int) : Int × Int :=
  (shr (k 0 * x0 + k 1 * x1 + k 4 * u0 + k 5 * u1 + 2 ^ 29) 30,
   shr (k 2 * x0 + k 3 * x1 + k 6 * u0 + k 7 * u1 + 2 ^ 29) 30)

/-- OBSV (R158, R159). -/
def shotObsv : Effect := fun c s =>
  match s.tableWords c.e (wordAddrs (c.table (c.kidx 4)) 16) with
  | (_, some k, s) => (some k, s)
  | (t, none, s) =>
    (none, s.modEng c.e (fun g =>
      let inp (i : Nat) : InWord := g.input (16 * c.ctx + i)
      let val (i : Nat) : Int := (((inp i).w.extractLsb' 0 16).toInt) * 2 ^ 15
      let phase (g : Eng) (b : Nat) : Eng × Bool :=
        let i := 4 + b
        let v := 6 + b
        if (inp i).valid && (inp v).valid then
          let d := c.b 2 + 2 * b
          let r := observe (sgn (g.op d)) (sgn (g.op (d + 1))) (val i) (val v) (fun j => Tbl.get 0 t (8 * b + j))
          ((g.setOps d [wrd (satS 32 r.1), wrd (satS 32 r.2)]).satIf (outS 32 r.1 || outS 32 r.2), true)
        else (g, false)
      let a := phase g 0
      let b := phase a.1 1
      (b.1.setOp (c.b 3) (maskOf (a.2 && b.2))).missIf ([4, 5, 6, 7].any (fun i => !(inp i).tag))))

/-- The axis that a shot of engine `e` with position `ctx` names (R173, R177). -/
def State.shotAxis (s : State) (e ctx : Nat) : Nat := (s.axisAt (s.serves e) ctx).getD 0

/-- The IHOLD that the engine of axis `n` holds lies above its IRUN, so that IHOLD_e differs from it (R180). -/
def State.holdAbove (s : State) (n : Nat) : Bool := decide ((s.mot n).irun < (s.mot n).ihold)

/-- PLAN (R160): the ramp table is read at the present speed in every call, each of its entries taken within 0 to 65536
(R201). -/
def shotPlan : Effect := fun c s =>
  let g := s.eng c.e
  let o (i : Nat) : Word := g.op (c.b 2 + i)
  let speed : Int := ((sgn (o 1) * 256 + ((o 2).toNat % 256 : Nat)).natAbs / 256 : Nat)
  match s.tbl c.e (c.table (c.kidx 6)) speed true (clampZ 0 65536) with
  | (_, _, some k, s) => (some k, s)
  | (sc, st, none, s) =>
    (none, s.modEng c.e (fun g =>
      let par := (List.range 10).map (fun i => g.op (c.b 3 + i))
      let r := planEval (o 0) (o 1) (o 2) (o 3) par (c.src g (c.b 5)) sc
      let order := s.holdAbove (s.shotAxis c.e c.ctx)
      let l := Tbl.mod r.1 2 (fun w => if order then w ||| u32 fParamOrder else w)
      ((g.setOps (c.b 4) l).satIf (st || r.2)).missIf (c.untagged g (c.b 5))))

/-- RAMP (R161). -/
def shotRamp : Effect := inner fun c g =>
  let d := c.b 2
  let r := rampEval (g.op d) (g.op (d + 1)) (g.op (d + 2)) (c.src g (c.b 3)) (c.src g (c.b 4))
  let g := g.missIf (c.untagged g (c.b 3) || c.untagged g (c.b 4))
  ((g.setOps d r.1).setOp (c.b 5) (maskOf r.2.1)).satIf r.2.2

/-- CAMI (R162). -/
def shotCami : Effect := fun c s =>
  let g := s.eng c.e
  match s.cami c.e (c.table (c.kidx 4)) (sgn (c.src g (c.b 3))) with
  | (_, _, _, some k, s) => (some k, s)
  | (r, i, st, none, s) =>
    (none, s.modEng c.e (fun g =>
      ((g.setOps (c.b 2) [wrd (satS 32 r), u32 i]).satIf (st || outS 32 r)).missIf (c.untagged g (c.b 3))))

/-- STEPI (R163). -/
def shotStepi : Effect := inner fun c g =>
  let fb (i : Nat) : Word := let x := g.input (16 * c.ctx + i); if x.tag then x.w else 0
  let s0 := (c.src g (c.b 3)).toNat % 2048
  let scale : Int := if s0 = 0 || 1024 < s0 then 1024 else (s0 : Int)
  let t := (fb 9).toNat
  let age : Int := (t % 65536 : Nat)
  let period : Int := (t / 65536 % 32768 : Nat)
  let e : Int := if period = 0x7FFF || period = 0 then 0 else min (quotZ (scale * age) period) (scale - 1)
  let both := (g.input (16 * c.ctx + 8)).tag && (g.input (16 * c.ctx + 9)).tag
  let r := sgn (fb 8) * scale + (if !both then 0 else if t.testBit 31 then -e else e)
  (g.setOp (c.b 2) (wrd r)).missIf (c.untagged g (c.b 3) || !both)

/-! ### Checked blocks -/

/-- The bank address of the block that byte `i` names (R164). -/
def Shot.block (c : Shot) (i : Nat) : Nat := (c.k c.ctx).toNat + 32 * c.b i

/-- BLD (R166). -/
def shotBld : Effect := fun c s =>
  match s.engReads c.e (c.block 3) 8 with
  | (_, some k, s) => (some k, s)
  | (l, none, s) =>
    if blockOk l then (none, s.modEng c.e (fun g => g.setOps (c.b 2) (l.take 7))) else (some 6, s)

/-- The undo buffer takes the block's words before its first write (R532). -/
def State.openUndo (s : State) (e a : Nat) : State :=
  let l := (List.range 8).map (fun k => memWord s.mem.cells (a + 4 * k))
  s.modEng e (fun g => { g with undo := some ⟨a, l⟩ })

/-- The undo buffer is released in the shot's last cycle (R532). -/
def State.closeUndo (s : State) (e : Nat) : State := s.modEng e (fun g => { g with undo := none })

/-- BST (R167). -/
def shotBst : Effect := fun c s =>
  let g := s.eng c.e
  let a := c.block 3
  let l := (List.range 7).map (fun i => g.op (c.b 2 + i))
  match s.ownerFault c.e a with
  | some k => (some k, s)
  | none =>
    match (s.openUndo c.e a).storeBlock c.e a l with
    | (some k, s) => (some k, s)
    | (none, s) => (none, s.closeUndo c.e)

/-- The CRC-16 of R171 over a value and a generation. -/
def crc16 (v : Word) (gen : Nat) : Nat :=
  crcMsb 16 0x1021 0xFFFF (wordBytes v ++ [BitVec.ofNat 8 gen, BitVec.ofNat 8 (gen / 256)])

/-- Words 4 of a record block after step 6 of R169. -/
def acptWord4 (w : Word) (ok crcErr stale : Bool) : Word :=
  let n := w.toNat
  let a := n % 2
  let ce := n / 256 % 256
  let sl := n / 65536 % 256
  u32 ((if ok then 1 - a else a) + n / 2 % 128 * 2 + (if crcErr then min 255 (ce + 1) else ce) * 256
    + (if stale then min 255 (sl + 1) else sl) * 65536 + n / 2 ^ 24 * 2 ^ 24)

/-- ACPT (R168 to R170). -/
def shotAcpt : Effect := fun c s =>
  let g := s.eng c.e
  let a := c.block 4
  let i := (c.inputOf (c.b 3)).getD 0
  let x := g.input i
  let y := g.input (i + 1)
  let both := x.tag && y.tag
  match s.engReads c.e a 8 with
  | (_, some k, s) => (some k, s)
  | (l, none, s) =>
    if !blockOk l then (some 6, s)
    else
      let s := s.openUndo c.e a
      let act := (Tbl.get 0 l 4).toNat % 2
      let j := 2 * (1 - act)
      let v := if both then x.w else Tbl.get 0 l j
      let gen := if both then u32 (y.w.toNat % 65536) else Tbl.get 0 l (j + 1)
      match s.engWrites c.e (a + 4 * j) [v, gen] with
      | (some k, s) => (some k, s)
      | (none, s) =>
        match s.engReads c.e (a + 4 * j) 2 with
        | (_, some k, s) => (some k, s)
        | (r, none, s) =>
          let rv := Tbl.get 0 r 0
          let rg := (Tbl.get 0 r 1).toNat % 65536
          let stored := Tbl.mod (Tbl.mod l j (fun _ => rv)) (j + 1) (fun _ => Tbl.get 0 r 1)
          match s.engWrites c.e (a + 28) [crc32cWords (stored.take 7)] with
          | (some k, s) => (some k, s)
          | (none, s) =>
            let hit := crc16 rv rg == y.w.toNat / 65536
            let old : Half := BitVec.ofNat 16 (Tbl.get 0 l (2 * act + 1)).toNat
            let new : Half := BitVec.ofNat 16 rg
            let ok := both && hit && newer new old
            let w4 := acptWord4 (Tbl.get 0 l 4) ok (both && !hit) (both && hit && !newer new old && new != old)
            let final := Tbl.mod stored 4 (fun _ => w4)
            match s.engWrites c.e (a + 16) [w4] with
            | (some k, s) => (some k, s)
            | (none, s) =>
              match s.engWrites c.e (a + 28) [crc32cWords (final.take 7)] with
              | (some k, s) => (some k, s)
              | (none, s) =>
                let cur := w4.toNat % 2
                (none, (s.closeUndo c.e).modEng c.e (fun g =>
                  (g.setOps (c.b 2) [Tbl.get 0 final (2 * cur), maskOf ok]).missIf (x.tag != y.tag)))

/-! ### Output shots -/

/-- SPW0 of axis `axis`: position, amplitude and mode (R172, R173). The slot words of amplitude and mode are read as
signed for the clamp (DEDUCED, log 86). -/
def setpW0 (axis : Nat) (pos amp mode : Word) : Word :=
  u32 (pos.toNat % 4096 + (clampZ 0 4095 (sgn amp)).toNat * 2 ^ 12 + axis * 2 ^ 24
    + (clampZ 0 2 (sgn mode)).toNat * 2 ^ 28)

/-- SPW1 beside `w0`: velocity, frame count and check (R173, R174). -/
def setpW1 (w0 vel frames : Word) : Word :=
  let low := u32 ((satS 21 (shr (sgn vel) 8) % 2 ^ 21).toNat + frames.toNat % 8 * 2 ^ 21)
  low ||| (u32 (spCrc w0 low) <<< 24)

/-- SETP (R172 to R174, R176). -/
def shotSetp : Effect := fun c s =>
  let g := s.eng c.e
  let o (i : Nat) : Word := g.op (c.b 2 + i)
  let axis := s.shotAxis c.e c.ctx
  let amp := sgn (o 2)
  let mode := sgn (o 3)
  let vel := shr (sgn (o 1)) 8
  let sat := clampZ 0 4095 amp != amp || clampZ 0 2 mode != mode || outS 21 vel
  let w0 := setpW0 axis (o 0) (o 2) (o 3)
  let w1 := setpW1 w0 (o 1) s.clk.frames
  let s := s.modEng c.e (fun g => g.satIf sat)
  let m0 := Msg.setpoint c.e axis 0 w0
  let m1 := Msg.setpoint c.e axis 1 w1
  (none, (((s.launch ⟨engUnit c.e, 6⟩ m0).launch ⟨engUnit c.e, 6⟩ m1).launchD11 c.e m0).launchD11 c.e m1)

/-- STAT (R175, R176). -/
def shotStat : Effect := fun c s =>
  let g := s.eng c.e
  let axis := s.shotAxis c.e c.ctx
  let d := if c.b 4 = 0 then 1 else 2
  (none, s.each (List.range (c.b 3)) (fun s k =>
    s.launch ⟨engUnit c.e, d⟩ (.status c.e axis (c.b 5 + k) (g.op (c.b 2 + k)))))

/-- MIRR (R175, R176). -/
def shotMirr : Effect := fun c s =>
  let g := s.eng c.e
  let axis := s.shotAxis c.e c.ctx
  (none, s.each (List.range (c.b 3)) (fun s k =>
    s.launchD11 c.e (.mirror c.e axis (c.b 4 + k) (g.op (c.b 2 + k)))))

/-! ### Meanings -/

/-- PAD (R149): opcode 0x01. -/
def execPad (e : Fin 9) (f : Fetch) (s : State) : Out :=
  whenPowered s fun s => s.runShot 0x01 e f shotPad

/-- LDK (R149): opcode 0x02. -/
def execLdk (e : Fin 9) (f : Fetch) (s : State) : Out :=
  whenPowered s fun s => s.runShot 0x02 e f shotLdk

/-- MOV (R150): opcode 0x03. -/
def execMov (e : Fin 9) (f : Fetch) (s : State) : Out :=
  whenPowered s fun s => s.runShot 0x03 e f shotMov

/-- TAGM (R151): opcode 0x04. -/
def execTagm (e : Fin 9) (f : Fetch) (s : State) : Out :=
  whenPowered s fun s => s.runShot 0x04 e f shotTagm

/-- BLD (R166): opcode 0x05. -/
def execBld (e : Fin 9) (f : Fetch) (s : State) : Out :=
  whenPowered s fun s => s.runShot 0x05 e f shotBld

/-- BST (R167): opcode 0x06. -/
def execBst (e : Fin 9) (f : Fetch) (s : State) : Out :=
  whenPowered s fun s => s.runShot 0x06 e f shotBst

/-- ACPT (R169): opcode 0x07. -/
def execAcpt (e : Fin 9) (f : Fetch) (s : State) : Out :=
  whenPowered s fun s => s.runShot 0x07 e f shotAcpt

/-- ADD (R152): opcode 0x08. -/
def execAdd (e : Fin 9) (f : Fetch) (s : State) : Out :=
  whenPowered s fun s => s.runShot 0x08 e f shotAdd

/-- MUL (R152): opcode 0x09. -/
def execMul (e : Fin 9) (f : Fetch) (s : State) : Out :=
  whenPowered s fun s => s.runShot 0x09 e f shotMul

/-- ACCX (R152): opcode 0x0A. -/
def execAccx (e : Fin 9) (f : Fetch) (s : State) : Out :=
  whenPowered s fun s => s.runShot 0x0A e f shotAccx

/-- LOGIC (R152): opcode 0x0B. -/
def execLogic (e : Fin 9) (f : Fetch) (s : State) : Out :=
  whenPowered s fun s => s.runShot 0x0B e f shotLogic

/-- SHIFT (R152): opcode 0x0C. -/
def execShift (e : Fin 9) (f : Fetch) (s : State) : Out :=
  whenPowered s fun s => s.runShot 0x0C e f shotShift

/-- CMP (R152): opcode 0x0D. -/
def execCmp (e : Fin 9) (f : Fetch) (s : State) : Out :=
  whenPowered s fun s => s.runShot 0x0D e f shotCmp

/-- SEL (R152): opcode 0x0E. -/
def execSel (e : Fin 9) (f : Fetch) (s : State) : Out :=
  whenPowered s fun s => s.runShot 0x0E e f shotSel

/-- CLAMP (R152): opcode 0x0F. -/
def execClamp (e : Fin 9) (f : Fetch) (s : State) : Out :=
  whenPowered s fun s => s.runShot 0x0F e f shotClamp

/-- ABSN (R152): opcode 0x10. -/
def execAbsn (e : Fin 9) (f : Fetch) (s : State) : Out :=
  whenPowered s fun s => s.runShot 0x10 e f shotAbsn

/-- DIV (R153): opcode 0x11. -/
def execDiv (e : Fin 9) (f : Fetch) (s : State) : Out :=
  whenPowered s fun s => s.runShot 0x11 e f shotDiv

/-- ISQRT (R154): opcode 0x12. -/
def execIsqrt (e : Fin 9) (f : Fetch) (s : State) : Out :=
  whenPowered s fun s => s.runShot 0x12 e f shotIsqrt

/-- TBL (R156): opcode 0x13. -/
def execTbl (e : Fin 9) (f : Fetch) (s : State) : Out :=
  whenPowered s fun s => s.runShot 0x13 e f shotTbl

/-- ROT (R157): opcode 0x14. -/
def execRot (e : Fin 9) (f : Fetch) (s : State) : Out :=
  whenPowered s fun s => s.runShot 0x14 e f shotRot

/-- OBSV (R158): opcode 0x15. -/
def execObsv (e : Fin 9) (f : Fetch) (s : State) : Out :=
  whenPowered s fun s => s.runShot 0x15 e f shotObsv

/-- PLAN (R160): opcode 0x16. -/
def execPlan (e : Fin 9) (f : Fetch) (s : State) : Out :=
  whenPowered s fun s => s.runShot 0x16 e f shotPlan

/-- RAMP (R161): opcode 0x17. -/
def execRamp (e : Fin 9) (f : Fetch) (s : State) : Out :=
  whenPowered s fun s => s.runShot 0x17 e f shotRamp

/-- CAMI (R162): opcode 0x18. -/
def execCami (e : Fin 9) (f : Fetch) (s : State) : Out :=
  whenPowered s fun s => s.runShot 0x18 e f shotCami

/-- STEPI (R163): opcode 0x19. -/
def execStepi (e : Fin 9) (f : Fetch) (s : State) : Out :=
  whenPowered s fun s => s.runShot 0x19 e f shotStepi

/-- SETP (R172): opcode 0x1A. -/
def execSetp (e : Fin 9) (f : Fetch) (s : State) : Out :=
  whenPowered s fun s => s.runShot 0x1A e f shotSetp

/-- STAT (R175): opcode 0x1B. -/
def execStat (e : Fin 9) (f : Fetch) (s : State) : Out :=
  whenPowered s fun s => s.runShot 0x1B e f shotStat

/-- MIRR (R175): opcode 0x1C. -/
def execMirr (e : Fin 9) (f : Fetch) (s : State) : Out :=
  whenPowered s fun s => s.runShot 0x1C e f shotMirr

end Sys2Proof.Machine
end

