-- ==== Sys2Proof/Machine/Clk.lean ====
section
/-!
DEFINITION. The slate generator, the crossings, the start of the shot lists, and the reference clock with its monitors
(chapter 01).
-/
namespace Sys2Proof.Machine

/-! ### Slate and crossings -/

/-- SLATE_WRAP: the slate wraps to zero and EPOCH counts it (R37). -/
def execSlateWrap (s : State) : Out :=
  whenPowered s fun s => { s with clk := { s.clk with slate := 0, epoch := s.clk.epoch + 1 } }

/-- A word arrives in an engine's input area and sets its tag (R141). -/
def State.takeInput (s : State) (e i : Nat) (w : Word) : State :=
  s.modEng e (fun g => { g with inp := Tbl.mod g.inp i (fun _ => { w := w, tag := true }) })

/-- A word that has crossed into unit `dst` is usable there (R31). -/
def State.receive (s : State) (dst : Nat) (m : Msg) : State :=
  match m with
  | .setpoint eng axis i w => if dst = 6 then s.takeSetpoint eng axis i w else s.takeCopy axis i w
  | .endWord eng _ _ => s.takeEnd dst eng
  | .status eng axis i w =>
    if dst = 1 then { s with intg := { s.intg with statusD1 := s.intg.statusD1 ++ [(eng, axis, i, w)] } }
    else { s with intg := { s.intg with statusD2 := s.intg.statusD2 ++ [(eng, axis, i, w)] } }
  | .mirror _ axis i w => s.takeMirror axis i w
  | .input i w => s.takeInput (dst - 10) i w
  | .sample axis ph w => s.currentSample axis (ph == 1) w
  | .power ch w => s.powerResult ch w

/-- The oldest word of a crossing is delivered. -/
def State.deliver (s : State) (x : Xing) : State :=
  match s.queue x with
  | m :: t => (s.setQueue x t).receive x.dst m
  | [] => s

/-- The management command word `w` of D1 reaches the input area of the list of engine `e` (R141). What D1 puts into the
word, and when it sends one, the manual does not say: both come with the command (log 88). -/
def State.mgmtDelivery (s : State) (e : Nat) (w : Word) : State := s.takeInput (s.listTable e) 57 w

/-- CROSSING_DELIVER: a word that was launched into a crossing becomes usable in the receiving island (R31). -/
def execCrossingDeliver (d : Delivery) (s : State) : Out :=
  whenPowered s fun s =>
    match d with
    | .oldest x => s.deliver x
    | .mgmt e w => s.mgmtDelivery e w

/-- Deliver everything that a crossing holds. -/
def State.drain (s : State) (x : Xing) : State := s.each (s.queue x) (fun s _ => s.deliver x)

/-! ### The start of a shot list -/

/-- Engine `e` begins its list (R120): the counts start, FORCED is injected if it waits (R137), and the code of the two
header words of the page is checked (R133, R134). -/
def State.engineStart (s : State) (e : Nat) (lo hi : Ecc) : State :=
  if (s.eng e).started then s
  else if (s.eng e).force && (s.engState e == stRunning || s.engState e == stReturning) && s.sys.mode.lists then
    ((s.modEng e (fun g => { g with force := false, started := true })).setWord (ENG_E_WATCH e) 0).engineFault e 0x0B
  else if !s.willRun e then s
  else
    let ok := lo != .uncorr && hi != .uncorr
    let s := s.modEng e (fun g => { g with
      exec := ok, started := true, ended := false, shots := 0, cycles := 0
      fetch := u32 (crc32Reg 0xFFFFFFFF (s.pageOf e).header) })
    let s := s.corrected e [lo, hi]
    if ok then s else s.shotFault e 5

/-- ENGINE_START: engine `e` begins its shot list in the START phase (R47, R120); `b` tells what the code of the
page's header words finds. -/
def execEngineStart (b : Start) (s : State) : Out :=
  whenPowered s fun s => if s.clk.cutsOn && s.clk.phase == .start then s.engineStart b.eng b.lo b.hi else s

/-! ### Monitors of slate and cut -/

/-- CUT_MISSED: a cut has not occurred 8 ticks after its due time (R55). The safe state and SAFE of R55 follow
SLATE_DECODE alone (DEDUCED: log entry 99). -/
def execCutMissed (s : State) : Out := whenPowered s fun s => s.raise 0x0208

/-- SLATE_DECODE: an island has seen its sampled slate unchanged for 16 ticks (R55, R544). -/
def execSlateDecode (s : State) : Out := whenPowered s fun s => ((s.raise 0x0206).safeCause 2).allSafe 9

/-! ### The crystal -/

/-- Every FLL of D1 to D11 in holdover (R58, R61). -/
def State.holdover (s : State) : State :=
  ({ s with clk := { s.clk with holdover := 0xFFE } }).put CLK_STAT.HOLDOVER 1

/-- The crystal is declared lost while it is REF (R58, R61, R543). XTAL_GOOD clears at once, also where no window has
ended (DESIGN CHOICE: log entry 79). -/
def State.xtalLoss (s : State) : State :=
  if !s.flag CLK_STAT.REF_XTAL then s
  else
    let s := (s.put CLK_STAT.XTAL_GOOD 0).holdover
    let s := { s with clk := { s.clk with goodRun := 0, badRun := 0, qualified := false, toRc := false } }
    let s := s.raise 0x0201
    if s.clk.rcOk then s.putBit INT_DEG_CAUSE.CAUSE 3 true else s.safeCause 3

/-- The crystal has passed its qualification: REF switches at the next cut (R56, R59). -/
def State.xtalPass (s : State) : State :=
  if s.flag CLK_STAT.QUALIFYING && !s.flag CLK_STAT.REF_XTAL then
    ({ s with clk := { s.clk with qualified := true } }).put CLK_STAT.QUALIFYING 0
  else s

/-- XTAL_MONITOR_WINDOW: a monitor window ends with so many crystal periods counted (R56, R57). -/
def execXtalMonitorWindow (periods : Nat) (s : State) : Out :=
  whenPowered s fun s =>
    if !s.clk.xtalRun then s
    else
      let good := 15 ≤ periods && periods ≤ 17
      let s := s.put CLK_STAT.XTAL_GOOD good.toNat
      if good then
        let n := min 1024 (s.clk.goodRun + 1)
        let s := { s with clk := { s.clk with badRun := 0, goodRun := n } }
        if n = 1024 then s.xtalPass else s
      else
        let n := s.clk.badRun + 1
        let s := { s with clk := { s.clk with badRun := min n 2, goodRun := 0 } }
        if 2 ≤ n then s.xtalLoss else s

/-- XTAL_QUALIFIED: 1024 consecutive windows were good (R56). -/
def execXtalQualified (s : State) : Out :=
  whenPowered s fun s =>
    if s.clk.xtalRun then (({ s with clk := { s.clk with goodRun := 1024 } }).put CLK_STAT.XTAL_GOOD 1).xtalPass else s

/-- XTAL_LOST: the crystal is declared lost (R57, R58). -/
def execXtalLost (s : State) : Out := whenPowered s State.xtalLoss

/-- The CAN node's data rate exceeds 1 Mbit/s (R410, R413). -/
def State.canFast (s : State) : Bool :=
  let l := s.reel.struct.canTiming
  (byteAt l 10).testBit 0 && decide ((byteAt l 4 + 1) * (byteAt l 5 + byteAt l 6 + 3) < 80)

/-- REF has become the RC: the node is restricted while its data rate asks for a crystal; after a crystal loss this
raises RC_RESTRICT (R413). -/
def State.canRestrict (s : State) (fault : Bool) : State :=
  if s.flag CLK_STAT.REF_XTAL || !s.canFast || s.flag CAN_STAT.RC_RESTRICT then s
  else (s.put CAN_STAT.RC_RESTRICT 1).when fault (fun s => s.raise 0x0C09)

/-- REF_SWITCH: REF switches to RC / 3 after a crystal loss, while the RC is within range (R58, log entry 79). -/
def execRefSwitch (s : State) : Out :=
  whenPowered s fun s =>
    if s.flag CLK_STAT.REF_XTAL && s.flag CLK_STAT.HOLDOVER && s.clk.rcOk then
      (s.put CLK_STAT.REF_XTAL 0).canRestrict true
    else s

/-- XTAL_START: the crystal has not qualified within 10 ms (R64). A restricted CAN node raises RC_RESTRICT with it
(R413). -/
def execXtalStart (s : State) : Out :=
  whenPowered s fun s =>
    if s.flag CLK_CTRL.XTAL_EN && s.flag CLK_STAT.QUALIFYING then
      (s.raise 0x0202).when (s.flag CAN_STAT.RC_RESTRICT) (fun s => s.raise 0x0C09)
    else s

/-- The crystal oscillator stops, with its qualification (R56). -/
def State.xtalStop (s : State) : State :=
  let s := { s with clk := { s.clk with xtalRun := false, goodRun := 0, badRun := 0, qualified := false } }
  (s.put CLK_STAT.QUALIFYING 0).put CLK_STAT.XTAL_GOOD 0

/-- A write of XTAL_EN (R56, R65); one that changes nothing has no effect. Written 1 while REF is still the crystal, it
takes back a pending switch to the RC and starts no qualification (DESIGN CHOICE: log entry 79). -/
def State.writeXtalEn (s : State) (en : Bool) : State :=
  if en then
    if s.flag CLK_CTRL.XTAL_EN then s
    else
      let s := (s.put CLK_CTRL.XTAL_EN 1).put CLK_STAT.QUALIFYING (!s.flag CLK_STAT.REF_XTAL).toNat
      { s with clk := { s.clk with xtalRun := true, goodRun := 0, badRun := 0, qualified := false, toRc := false } }
  else if !s.flag CLK_CTRL.XTAL_EN then s
  else
    let ref := s.flag CLK_STAT.REF_XTAL
    let s := (s.put CLK_CTRL.XTAL_EN 0).put CLK_STAT.QUALIFYING 0
    if ref then { s with clk := { s.clk with toRc := true, qualified := false } }
    else s.xtalStop

/-- XTAL_EN as the header of the reel gives it at the end of BOOT (R56, R91): a crystal that runs since BOOT started keeps
its count. -/
def State.bootXtal (s : State) (en : Bool) : State :=
  if !en then (s.put CLK_CTRL.XTAL_EN 0).xtalStop
  else if s.clk.xtalRun then s.put CLK_CTRL.XTAL_EN 1
  else s.writeXtalEn true

/-- XTAL_ENABLE: a write of CLK_CTRL.XTAL_EN (R56). -/
def execXtalEnable (en : Bool) (s : State) : Out :=
  hostAccess s CLK_CTRL (some (u32 en.toNat)) (fun s => s.writeXtalEn en)

/-- A write of XTAL_RETRY (R59, R65). -/
def State.writeXtalRetry (s : State) : State :=
  if !s.flag CLK_CTRL.XTAL_EN then s.refuse
  else if s.flag CLK_STAT.REF_XTAL then s
  else ({ s with clk := { s.clk with goodRun := 0, badRun := 0, qualified := false } }).put CLK_STAT.QUALIFYING 1

/-- XTAL_RETRY: a write of CLK_CTRL.XTAL_RETRY (R59). -/
def execXtalRetry (s : State) : Out := hostAccess s CLK_CTRL (some (s.word CLK_CTRL ||| 2#32)) State.writeXtalRetry

/-! ### FLLs and the RC -/

/-- FLL_RELOCK: an island's FLL counts as locked again (R58, R62). D0 has none. -/
def execFllRelock (isl : Fin 12) (s : State) : Out :=
  whenPowered s fun s =>
    if isl.val = 0 then s
    else
      let h := s.clk.holdover &&& ~~~(1#12 <<< isl.val)
      let s := { s with clk := { s.clk with holdover := h } }
      (s.putBit CLK_STAT.ISL_OK isl true).put CLK_STAT.HOLDOVER (h != 0).toNat

/-- A fault of an engine island: both of its engines, the lower-numbered first (R130); D11 holds ES. -/
def State.islandFault (s : State) (isl : Nat) : State :=
  let s := { s with clk := { s.clk with faulty := s.clk.faulty ||| (1#12 <<< isl) } }
  let stop (s : State) (e : Nat) : State :=
    let g := s.eng e
    let st := s.engState e
    let s := if st = stRunning then s.setWord (ENG_E_WATCH e) (u32 (g.shots % 512 + g.cycles * 65536)) else s
    s.engineFault e 0x0A
  if isl = 11 then stop s 8 else stop (stop s (2 * (isl - 7))) (2 * (isl - 7) + 1)

/-- The clock of engine island `isl`, 7 to 11, is stopped: by the mode (R27), because its engines serve no axis (R129), or
because it was declared faulty (R62). -/
def State.islandStopped (s : State) (isl : Nat) : Bool :=
  !s.sys.mode.lists || s.clk.stopped.getLsbD isl
    || (decide (isl < 11) && s.engState (2 * (isl - 7)) == stUnused && s.engState (2 * (isl - 7) + 1) == stUnused)

/-- An island's FLL leaves its range (R62). That of an engine island whose clock is stopped is not judged. -/
def State.fllUnlock (s : State) (isl : Nat) : State :=
  if isl = 0 || (7 ≤ isl && s.islandStopped isl) then s
  else
    let s := (s.putBit CLK_STAT.ISL_OK isl false).raise 0x0204
    if 7 ≤ isl then s.islandFault isl else s.safeCause 1

/-- FLL_UNLOCK: the FLLs of the islands `isls` leave their ranges in one cycle of D1, the lower-numbered first (R62,
R542). -/
def execFllUnlock (isls : BitVec 12) (s : State) : Out :=
  whenPowered s fun s => s.each ((List.range 12).filter (fun i => isls.getLsbD i)) State.fllUnlock

/-- RC_LOST: the RC oscillator is lost (R61, R543, R544). -/
def execRcLost (s : State) : Out :=
  whenPowered s fun s =>
    if !s.clk.rcOk then s
    else
      let s := ({ s with clk := { s.clk with rcOk := false } }).raise 0x0203
      if s.flag CLK_STAT.REF_XTAL && !s.flag CLK_STAT.HOLDOVER then s.putBit INT_DEG_CAUSE.CAUSE 4 true
      else s.holdover.safeCause 3

/-- RC_RETURN: the RC is back within range (R61, R543). -/
def execRcReturn (s : State) : Out :=
  whenPowered s fun s => ({ s with clk := { s.clk with rcOk := true } }).putBit INT_DEG_CAUSE.CAUSE 4 false

/-! ### The LPO -/

/-- LPO_MEASURE: MC starts its periodic measurement (R43, R566). -/
def execLpoMeasure (s : State) : Out :=
  whenPowered s fun s => if s.sys.mode.supervises && s.mcRuns then s.put CLK_STAT.LPO_BUSY 1 else s

/-- LPO_CAL: a write of CLK_CTRL.LPO_CAL starts a measurement; while one runs it has no effect (R65). -/
def execLpoCal (s : State) : Out :=
  hostAccess s CLK_CTRL (some (s.word CLK_CTRL ||| 4#32)) (fun s => s.put CLK_STAT.LPO_BUSY 1)

/-- A period lies within 10 % of that of 32.768 kHz (R63): 160 000 000 units of 2^-16 tick. -/
def lpoInRange (per : Word) : Bool := 9 * per.toNat ≤ 1600000000 && 1600000000 ≤ 11 * per.toNat

/-- LPO_MEASURE_DONE: a measurement ends with the period it found (R43, R63). -/
def execLpoMeasureDone (per : Word) (s : State) : Out :=
  whenPowered s fun s =>
    if !s.flag CLK_STAT.LPO_BUSY then s
    else
      let s := (s.put CLK_STAT.LPO_BUSY 0).setWord CLK_LPO_PER per
      let s := { s with clk := { s.clk with lpoOk := lpoInRange per } }
      s.when (!lpoInRange per) (fun s => s.raise 0x0205)

/-! ### Frame length and flags -/

/-- The device is a chain slave: CASC_M was low at the start of BOOT (R475). -/
def State.chainSlave (s : State) : Bool := !s.sys.cascM

/-- A write to CLK_FRAME_LEN is refused (R67). -/
def State.frameLenRefused (s : State) (v : Word) : Bool :=
  let l := CLK_FRAME_LEN.LEN.of v
  decide (l < 800) || decide (16000 < l) || decide (l < s.fld REEL_LEN.MIN_LEN)
    || !(s.sys.mode == .standby || s.sys.mode == .service) || s.chainSlave

/-- FRAME_LEN_WRITE: a write of CLK_FRAME_LEN (R67). -/
def execFrameLenWrite (v : Word) (s : State) : Out :=
  hostAccess s CLK_FRAME_LEN (some v) (fun s => if s.frameLenRefused v then s.refuse else s.await CLK_FRAME_LEN v)

/-- A CLK_FAULT flag's condition is still present (R66). -/
def State.clkCondition (s : State) (bit : Nat) : Bool :=
  match bit with
  | 0 => !s.flag CLK_STAT.XTAL_GOOD
  | 2 => !s.clk.rcOk
  | 3 => s.fld CLK_STAT.ISL_OK != 0xFFF
  | 4 => !s.clk.lpoOk
  | _ => false

/-- A write of `mask` to CLK_FAULT (R66): a write that names a flag whose condition is present is refused as a whole. -/
def State.clearClkFault (s : State) (mask : Word) : State :=
  if (List.range 9).any (fun b => mask.getLsbD b && (s.word CLK_FAULT).getLsbD b && s.clkCondition b) then s.refuse
  else s.setWord CLK_FAULT (s.word CLK_FAULT &&& ~~~mask)

/-- CLK_FAULT_CLEAR: a write to CLK_FAULT (R66). -/
def execClkFaultClear (mask : Word) (s : State) : Out :=
  hostAccess s CLK_FAULT (some mask) (fun s => s.clearClkFault mask)

/-- SLEEP_SAT: the sleep counter saturates in SLEEP (R44). -/
def execSleepSat (s : State) : Out :=
  if s.sys.mode = .sleep && !s.sys.inReset then
    done { s with keep := { s.keep with count := 0xFFFFFFFFFF, sat := true } }
  else .next s

/-! ### The reference at a cut -/

/-- The part of the reference clock at a cut (R56, R65): a qualified crystal becomes REF, or REF returns to the RC. A
crystal that has passed its 1024 windows stays qualified through a later window that is not good, and REF switches at the
first cut at which XTAL_GOOD is 1; a switch to the RC waits while the RC is lost (DESIGN CHOICE: log entry 79). -/
def State.refCut (s : State) : State :=
  let s :=
    if s.clk.qualified && s.flag CLK_CTRL.XTAL_EN && s.flag CLK_STAT.XTAL_GOOD then
      let s := { s with clk := { s.clk with qualified := false } }
      (s.put CLK_STAT.REF_XTAL 1).putBit INT_DEG_CAUSE.CAUSE 3 false
    else if s.clk.toRc && s.clk.rcOk then
      let s := { s with clk := { s.clk with toRc := false, xtalRun := false, goodRun := 0 } }
      ((s.put CLK_STAT.REF_XTAL 0).put CLK_STAT.XTAL_GOOD 0).canRestrict false
    else s
  let s := s.each (List.range 12) (fun s i => if s.clk.faulty.getLsbD i then s.putBit CLK_STAT.ISL_OK i true else s)
  { s with clk := { s.clk with stopped := s.clk.stopped ||| s.clk.faulty, faulty := 0 } }

end Sys2Proof.Machine
end

