-- ==== Sys2Proof/Machine/Pos.lean ====
section
/-!
DEFINITION. Position feedback (chapter 10): the quadrature, SENT and step channels, limit inputs, latches, compare units,
encoder emulation, and the general-purpose pins; with the step channels of chapter 06.
-/
namespace Sys2Proof.Machine

/-! ### Pins -/

/-- Some pin has the function `fn` with instance `inst` (R347). -/
def State.hasPin (s : State) (fn inst : Nat) : Bool := s.reel.struct.pins.any (fun p => p.fn == fn && p.inst == inst)

/-- Pin `p` of the active reel. -/
def State.pin (s : State) (p : Nat) : PinEntry := Tbl.get ⟨0, 0, 0⟩ s.reel.struct.pins p

/-- Pin `p` is connected to its function: it has taken it (R350), and VIO is there (R584). -/
def State.pinOn (s : State) (p : Nat) : Bool := s.pos.pinsOn && s.vioOk && !s.pos.moving.getLsbD p

/-- An input of function `fn` and instance `inst` is connected to its pin. -/
def State.inputOn (s : State) (fn inst : Nat) : Bool :=
  (List.range 15).any (fun p => (s.pin p).fn == fn && (s.pin p).inst == inst && s.pinOn p)

/-! ### The channels -/

def State.si (s : State) (k : Nat) : SiCh := Tbl.get {} s.pos.si k
def State.qd (s : State) (k : Nat) : QdCh := Tbl.get {} s.pos.qd k
def State.sn (s : State) (k : Nat) : SnCh := Tbl.get {} s.pos.sn k
def State.ee (s : State) (e : Nat) : EeCh := Tbl.get {} s.pos.ee e
def State.modSi (s : State) (k : Nat) (f : SiCh → SiCh) : State := { s with pos := { s.pos with si := Tbl.mod s.pos.si k f } }
def State.modQd (s : State) (k : Nat) (f : QdCh → QdCh) : State := { s with pos := { s.pos with qd := Tbl.mod s.pos.qd k f } }
def State.modSn (s : State) (k : Nat) (f : SnCh → SnCh) : State := { s with pos := { s.pos with sn := Tbl.mod s.pos.sn k f } }
def State.modEe (s : State) (e : Nat) (f : EeCh → EeCh) : State := { s with pos := { s.pos with ee := Tbl.mod s.pos.ee e f } }
def State.modMot (s : State) (n : Nat) (f : MotAx → MotAx) : State := { s with mots := Tbl.mod s.mots n f }

/-! ### Timing words -/

/-- The history after an edge recognised at `now` with stamp `stamp` (R242). -/
def EdgeTime.next (h : EdgeTime) (now stamp : Nat) (neg : Bool) : EdgeTime :=
  let rev := h.edges != 0 && h.neg != neg
  let gap := stamp - h.stamp
  { edges := min 2 (h.edges + 1), seenAt := now, stamp := stamp, neg := neg
    period := if h.edges = 0 || rev || decide (0x7FFE < gap) then 0x7FFF else max 1 gap }

/-- AGE of a timing word formed at time `t` (R242). -/
def EdgeTime.age (h : EdgeTime) (t : Nat) : Nat := min 0xFFFF (t - h.seenAt)

/-- PERIOD of a timing word formed at time `t` (R242). -/
def EdgeTime.rate (h : EdgeTime) (t : Nat) : Nat :=
  if decide (2 * h.period < h.age t) || h.age t = 0xFFFF then 0x7FFF else h.period

/-- The timing word of R163 formed at time `t` (R242, R354). Without an edge, AGE and DIR are open. -/
def State.timeWord (s : State) (h : EdgeTime) (t : Nat) : Word × State :=
  if h.edges = 0 then
    let d := s.draw
    (u32 ((d.1.setWidth 16).toNat + 0x7FFF * 2 ^ 16 + ((d.1 >>> 16).setWidth 1).toNat * 2 ^ 31), d.2)
  else (u32 (h.age t + h.rate t * 2 ^ 16 + h.neg.toNat * 2 ^ 31), s)

/-! ### Latches -/

/-- COUNT of a latch or compare source (R370, R383): QD0 to QD3, SN0 to SN3, SI0 to SI3. -/
def State.srcCount (s : State) (src : Nat) : Word :=
  if src < 4 then (s.qd src).count else if src < 8 then s.word (POS_SN_COUNT (src - 4)) else (s.si (src - 8)).count

/-- PERIOD and DIR of a latch source at the trigger (R370). -/
def State.srcTime (s : State) (src : Nat) : Word × State :=
  if src < 4 then s.timeWord (s.qd src).hist s.time
  else if src < 8 then (0x7FFF0000, s)
  else s.timeWord (s.si (src - 8)).hist s.time

/-- Latch `j` is triggered with the stamp `stamp` (R370, R372). -/
def State.capture (s : State) (j : Nat) (stamp : Word) : State :=
  let full := s.flag (POS_LT_STAT.FULL j)
  let s := if full then
      let s := s.bump (POS_LT_STAT.OVR j) 1
      if s.pos.overrun.getLsbD j then s
      else ({ s with pos := { s.pos with overrun := s.pos.overrun ||| (1#8 <<< j) } }).raise 0x0A0B j
    else s
  if full && !s.flag (POS_LT_CFG.OVW j) then s
  else
    let src := s.fld (POS_LT_CFG.SRC j)
    let tw := s.srcTime src
    let s := tw.2
    let s := (s.setWord (POS_LT_POS j) (s.srcCount src)).setWord (POS_LT_TIME j)
      (if 4 ≤ src && src < 8 then s.word (POS_SN_TIME (src - 4)) else stamp)
    let s := (s.put (POS_LT_STAT.FULL j) 1).put (POS_LT_STAT.STALE j) 0
    let s := { s with pos := { s.pos with stamped := s.pos.stamped ||| (1#8 <<< j) } }
    (s.put (POS_LT_STAT.PERIOD j) ((tw.1 >>> 16).toNat % 2 ^ 15)).put (POS_LT_STAT.DIR j) (tw.1.toNat / 2 ^ 31)

/-- FULL and the overrun count of latch `j` are cleared: at a read of its position and at a write of its configuration
(R372, R383). -/
def State.emptyLatch (s : State) (j : Nat) : State := (s.put (POS_LT_STAT.FULL j) 0).put (POS_LT_STAT.OVR j) 0

/-- Every latch whose configuration `p` accepts is triggered (R371). -/
def State.trigger (s : State) (stamp : Word) (p : Nat → Bool) : State :=
  s.each ((List.range 8).filter p) (fun s j => s.capture j stamp)

/-! ### Compare units -/

/-- Compare unit `m` fires (R374). -/
def State.fire (s : State) (m : Nat) (stamp : Word) : State :=
  let s := (s.incr (POS_CP_STAT.FIRES m)).put (POS_CP_STAT.FIRED m) 1
  let s := s.trigger stamp (fun j => s.fld (POS_LT_CFG.TRIG j) == 3 && s.fld (POS_LT_CFG.TINST j) == m)
  let s := if s.fld (POS_CP_CFG.WIDTH m) = 0 then s
           else { s with pos := { s.pos with pulse := s.pos.pulse ||| (1#4 <<< m) } }
  if s.flag (POS_CP_CFG.AUTO m) then s.setWord (POS_CP_VAL m) (s.word (POS_CP_VAL m) + s.word (POS_CP_STEP m)) else s

/-- A unit that watches a change from `before` to `after` fires (R373). -/
def State.fires (s : State) (m : Nat) (before after : Word) : Bool :=
  let d0 := (sgn (before - s.word (POS_CP_VAL m))).sign
  let d1 := (sgn (after - s.word (POS_CP_VAL m))).sign
  let dir := (sgn (after - before)).sign
  d0 != 0 && (d1 == 0 || d1 == -d0)
    && (match s.fld (POS_CP_CFG.DIRSEL m) with | 0 => true | 1 => decide (0 < dir) | 2 => decide (dir < 0) | _ => false)

/-- A change of COUNT of source `src` (R373). -/
def State.compareChange (s : State) (src : Nat) (before after : Word) (stamp : Word) : State :=
  s.each (List.range 4) (fun s m =>
    if s.flag (POS_CP_CFG.EN m) && s.fld (POS_CP_CFG.SRC m) == src && s.fires m before after then s.fire m stamp else s)

/-- The last counted direction of a source, if it is known (R375): true is negative. -/
def State.srcDir (s : State) (src : Nat) : Option Bool :=
  if src < 4 then (s.qd src).dir else if src < 8 then (s.sn (src - 4)).dir else (s.si (src - 8)).dir

/-- A write of VAL (R373, R375). -/
def State.writeVal (s : State) (m : Nat) (v : Word) : State :=
  let s := s.setWord (POS_CP_VAL m) v
  let src := s.fld (POS_CP_CFG.SRC m)
  let d := (sgn (s.srcCount src - v)).sign
  let behind := match s.srcDir src with | some neg => d == (if neg then -1 else 1) | none => false
  let s := s.put (POS_CP_STAT.BEHIND m) behind.toNat
  s.when behind (fun s => s.raise 0x0A0A m)

/-- COMPARE_VAL_WRITE: a write of POS_CPm_VAL (R375). -/
def execCompareValWrite (m : Fin 4) (v : Word) (s : State) : Out :=
  hostAccess s (POS_CP_VAL m) (some v) (fun s => s.writeVal m v)

/-- CMP_PULSE_END: a CMP_OUT pulse ends (R374). -/
def execCmpPulseEnd (m : Fin 4) (s : State) : Out :=
  whenPowered s fun s => { s with pos := { s.pos with pulse := s.pos.pulse &&& ~~~(1#4 <<< m.val) } }

/-! ### Encoder emulation -/

/-- The target count of output `e` (R376). -/
def State.eeTarget (s : State) (e : Nat) : Int :=
  let res : Int := s.fld (POS_EE_RES.RES e)
  (s.ee e).acc / (if s.flag (POS_EE_CFG.SRC e) then res else 256 * res)

/-- The registers of output `e`, and a backlog above 4096 counts (R378). -/
def State.eeLook (s : State) (e : Nat) : State :=
  let t := s.eeTarget e
  let s := if 4096 < (t - (s.ee e).out).natAbs then
      ((s.modEe e (fun x => { x with out := t })).put (POS_EE_STAT.LOST e) 1).raise 0x0A0C e
    else s
  (s.setWord (POS_EE_COUNT e) (wrd (s.ee e).out)).put (POS_EE_STAT.BACKLOG e) (min 4097 (t - (s.ee e).out).natAbs)

/-- The source of output `e` has moved by `d` (R376). -/
def State.eeMove (s : State) (e : Nat) (d : Int) : State := (s.modEe e (fun x => { x with acc := x.acc + d })).eeLook e

/-- COUNT of quadrature channel `k` has changed by `d`: outputs that follow it (R376). -/
def State.eeFollow (s : State) (k : Nat) (d : Int) : State :=
  s.each [0, 1] (fun s e =>
    if s.flag (POS_EE_CFG.EN e) && s.flag (POS_EE_CFG.SRC e) && s.fld (POS_EE_CFG.NUM e) == k then s.eeMove e d else s)

/-- EMU_THETA_SAMPLE: an angle sample of D6 reaches D4 (R376). The first one after an enable is only the base. -/
def execEmuThetaSample (e : Fin 2) (s : State) : Out :=
  whenPowered s fun s =>
    if !s.flag (POS_EE_CFG.EN e) || s.flag (POS_EE_CFG.SRC e) then s
    else
      let th := s.theta (s.fld (POS_EE_CFG.NUM e))
      let d := match (s.ee e).theta with | some p => lowS 20 ((th : Int) - p) | none => 0
      (s.modEe e (fun x => { x with theta := some th })).eeMove e d

/-- EMU_STEP: the output count moves one count toward the target, no sooner than MIN_GAP D4 cycles after its last change
(R376). Two D4 cycles run in each slate tick. -/
def execEmuStep (e : Fin 2) (s : State) : Out :=
  whenPowered s fun s =>
    let x := s.ee e
    let t := s.eeTarget e
    let early := match x.moved with | some m => decide (2 * (s.time - m) < s.fld (POS_EE_CFG.MIN_GAP e)) | none => false
    if !s.flag (POS_EE_CFG.EN e) || t == x.out || early then s
    else
      let out := if x.out < t then x.out + 1 else x.out - 1
      (s.modEe e (fun x => { x with out := out, moved := some s.time })).eeLook e

/-- EMU_CLEAR: a write of 1 to POS_EEe_CFG.CLR (R383). -/
def execEmuClear (e : Fin 2) (s : State) : Out :=
  hostAccess s (POS_EE_CFG e) (some (s.lastWritten (POS_EE_CFG e) ||| 0x80#32)) (fun s => s.modEe e (fun x => { x with clear := true }))

/-! ### Quadrature channels -/

/-- ANGLE and TURNS after a change of COUNT by `d` (R355). -/
def QdCh.turn (q : QdCh) (cpr : Nat) (d : Int) : QdCh :=
  if cpr = 0 then q
  else
    let a : Int := q.angle + d
    { q with angle := (a % cpr).toNat, turns := q.turns + wrd (a / cpr) }

/-- Channel `k` counts one edge (R351, R354, R355). -/
def State.qdCount (s : State) (k : Nat) (neg : Bool) (lag : Nat) : State :=
  let q := s.qd k
  let d : Int := if neg then -1 else 1
  let h := q.hist.next s.time (s.time - max 1 (min 2 lag)) neg
  let s := s.modQd k (fun q =>
    { (q.turn (s.fld (POS_QD_CPR.CPR k)) d) with count := q.count + wrd d, hist := h, dir := some neg })
  let s := (s.put (POS_QD_STAT.DIR k) neg.toNat).when (q.dir == some !neg) (fun s => s.bump (POS_QD_ERR.REVERSALS k) 1)
  (s.compareChange k q.count (q.count + wrd d) (s.stampD4 lag)).eeFollow k d

/-- An illegal transition of channel `k` (R352). -/
def State.qdIllegal (s : State) (k : Nat) : State :=
  let s := (s.put (POS_QD_STAT.ILLEGAL_SEEN k) 1).bump (POS_QD_ERR.ILLEGAL k) 1
  if (s.qd k).illegal then s else (s.modQd k (fun q => { q with illegal := true })).raise 0x0A01 k

/-- The next snapshot of every axis whose feedback source is the channel carries MARK_UNC (R358, R363). -/
def State.markFeedback (s : State) (src ch : Nat) : State :=
  s.each s.usedAxes (fun s n =>
    if s.fld (POS_AX_FB.SRC n) == src && s.fld (POS_AX_FB.CH n) == ch then s.modMot n (fun m => { m with markUnc := true })
    else s)

/-- The deviation of ANGLE from IPOS, modulo CPR and signed (R357). -/
def idxDev (angle ipos cpr : Nat) : Int :=
  let d : Int := ((angle : Int) - ipos) % cpr
  if (cpr / 2 : Nat) ≤ d then d - cpr else d

/-- A snap subtracts the deviation from COUNT and ANGLE (R357). -/
def State.qdSnap (s : State) (k : Nat) (dev : Int) (lag : Nat) : State :=
  let c := (s.qd k).count
  let s := s.modQd k (fun q => { (q.turn (s.fld (POS_QD_CPR.CPR k)) (-dev)) with count := q.count - wrd dev })
  let s := s.put (POS_QD_STAT.SNAPPED k) 1
  if dev = 0 then s else (s.compareChange k c (c - wrd dev) (s.stampD4 lag)).eeFollow k (-dev)

/-- A deviation found at an index after the reference (R357). -/
def State.qdJudge (s : State) (k : Nat) (dev : Int) (lag : Nat) : State :=
  if dev = 0 then s
  else
    let s := ((s.put (POS_QD_STAT.INDEX_ERR k) 1).setWord (POS_QD_IDXDEV k) (wrd dev &&& 0xFFFFF)).raise 0x0A02 k
    if s.fld (POS_QD_IDX.TOL k) < dev.natAbs then
      ((s.put (POS_QD_STAT.IDX_FAULT k) 1).raise 0x0A03 k).markFeedback 1 k
    else if s.flag (POS_QD_CFG.SNAP k) then s.qdSnap k dev lag else s

/-- An index event of channel `k` (R356, R357, R371). With CPR 0 only INDEX counts it. -/
def State.qdIndexEvent (s : State) (k lag : Nat) : State :=
  let s := s.incr (POS_QD_STAT.INDEX k)
  let cpr := s.fld (POS_QD_CPR.CPR k)
  if cpr = 0 then s
  else
    let s := s.trigger (s.stampD4 lag) (fun j => s.fld (POS_LT_CFG.TRIG j) == 2 && s.fld (POS_LT_CFG.SRC j) == k)
    let dev := idxDev (s.qd k).angle (s.fld (POS_QD_IDX.IPOS k)) cpr
    let first := !s.flag (POS_QD_STAT.REFD k)
    let s := s.put (POS_QD_STAT.REFD k) 1
    if first && s.flag (POS_QD_CFG.FIRST_SNAP k) then s.qdSnap k dev lag else s.qdJudge k dev lag

/-- The recognised I input becomes active while (A, B) stands in the gate state (R356). -/
def State.qdGate (s : State) (k : Nat) (was now : Bool) : Bool :=
  let low := s.flag (POS_QD_CFG.IPOL k)
  let q := s.qd k
  let g := s.fld (POS_QD_CFG.IGATE k)
  (was == low) && (now != low) && (g == 0 || g == 4 + 2 * q.a.toNat + q.b.toNat)

/-- The number of a state of (A, B) in the order of R351. -/
def qdPlace (a b : Bool) : Nat := match a, b with | false, false => 0 | true, false => 1 | true, true => 2 | false, true => 3

/-- QD_EDGE: the recognised levels of A, B and I of a channel in a D4 cycle in which (A, B) may have changed (R351,
R352, R356). A counted edge comes before an index event of the same cycle; an illegal transition makes the event void.
Without a QD_I pin there is no level of I (R349). -/
def execQdEdge (k : Fin 4) (a b i : Bool) (lag : Nat) (s : State) : Out :=
  whenPowered s fun s =>
    let q := s.qd k
    let i := i && s.inputOn 0x03 k
    let s := s.modQd k (fun q => { q with a := a, b := b, i := i })
    if !s.flag (POS_QD_CFG.EN k) || !s.vioOk then s
    else
      let step := (qdPlace a b + 4 - qdPlace q.a q.b) % 4
      let inv := s.flag (POS_QD_CFG.DIR_INV k)
      if step = 2 then s.qdIllegal k
      else
        let s := if step = 1 then s.qdCount k inv lag else if step = 3 then s.qdCount k (!inv) lag else s
        if s.qdGate k q.i i then s.qdIndexEvent k lag else s

/-- QD_INDEX: the recognised level of I changes with (A, B) steady (R356, R357). A channel without a QD_I pin counts
without an index (R349). -/
def execQdIndex (k : Fin 4) (i : Bool) (lag : Nat) (s : State) : Out :=
  whenPowered s fun s =>
    let was := (s.qd k).i
    if !s.inputOn 0x03 k then s
    else
      let s := s.modQd k (fun q => { q with i := i })
      if s.flag (POS_QD_CFG.EN k) && s.qdGate k was i then s.qdIndexEvent k lag else s

/-- A preset of channel `k` is refused outside STANDBY while the channel feeds an axis (R383). -/
def State.presetRefused (s : State) (k : Nat) : Bool :=
  s.sys.mode != .standby && (List.range 12).any (fun n => s.fld (POS_AX_FB.SRC n) == 1 && s.fld (POS_AX_FB.CH n) == k)

/-- A write of POS_QDk_SET (R383). -/
def State.writePreset (s : State) (k : Nat) (v : Word) : State :=
  if s.presetRefused k then s.refuse else s.modQd k (fun q => { q with preset := some v })

/-- QD_PRESET: a write of POS_QDk_SET (R383). -/
def execQdPreset (k : Fin 4) (v : Word) (s : State) : Out :=
  hostAccess s (POS_QD_SET k) (some v) (fun s => s.writePreset k v)

/-! ### Step channels -/

/-- Step channel `k` counts one active edge (R239, R242). -/
def State.siCount (s : State) (k : Nat) (neg : Bool) (lag : Nat) : State :=
  let c := (s.si k).count
  let d : Int := if neg then -1 else 1
  let h := (s.si k).hist.next s.time (s.time - max 1 (min 2 lag)) neg
  let rev := (s.si k).dir == some !neg
  let s := s.modSi k (fun x => { x with count := c + wrd d, hist := h, dir := some neg })
  let s := s.when rev (fun s => s.bump (CAM_SI_ERR.REVERSALS k) 1)
  s.compareChange (8 + k) c (c + wrd d) (s.stampD4 lag)

/-- A pulse or a DIR change of step channel `k` has broken the timing limits (R241). -/
def State.siLate (s : State) (k : Nat) : State :=
  let s := s.bump (CAM_SI_ERR.TIMING k) 1
  if (s.si k).timing then s else (s.modSi k (fun x => { x with timing := true })).raise 0x0605

/-- STEP_EDGE: a STEP edge is recognised, with the filtered DIR level; `late` when the time since the edge before it, or
a DIR change since then, broke the timing limits (R239 to R241). Channels count in the modes of R246. -/
def execStepEdge (k : Fin 4) (rising dir late : Bool) (lag : Nat) (s : State) : Out :=
  whenPowered s fun s =>
    if !s.flag (CAM_SI_CFG.EN k) || !s.vioOk || s.sys.mode == .boot then s
    else
      let s := if rising == s.flag (CAM_SI_CFG.EDGE k) then s
               else s.siCount k (dir != s.flag (CAM_SI_CFG.DIR_INV k)) lag
      s.when late (fun s => s.siLate k)

/-- STEP_CLEAR: a write of 1 to CAM_SIk_CFG.CLR (R248). -/
def execStepClear (k : Fin 4) (s : State) : Out :=
  hostAccess s (CAM_SI_CFG k) (some (s.lastWritten (CAM_SI_CFG k) ||| 0x100#32)) (fun s => s.modSi k (fun x => { x with clear := true }))

/-! ### SENT channels -/

/-- A format error of channel `k` (R360, R382). -/
def State.snFormat (s : State) (k : Nat) : State :=
  let s := (s.put (POS_SN_STAT.FORMAT_SEEN k) 1).bump (POS_SN_ERR.FORMAT k) 1
  let s := if (s.sn k).formatSeen then s else s.raise 0x0A05 k
  s.modSn k (fun c => { c with cal := none, serial := [], formatSeen := true })

/-- The value of a nibble interval (R360): `round(interval / t_m) - 12`. A tie between two values is open. -/
def State.snNibble (s : State) (cal iv : Nat) : Int × State :=
  let q := (112 * iv + cal) / (2 * cal)
  if (112 * iv + cal) % (2 * cal) = 0 then
    let d := s.draw
    ((q : Int) - 12 - (d.1.setWidth 1).toNat, d.2)
  else ((q : Int) - 12, s)

/-- The values of several nibble intervals. -/
def State.snNibbles (s : State) (cal : Nat) : List Nat → List Int × State
  | [] => ([], s)
  | iv :: t =>
    match s.snNibble cal iv with
    | (v, s) => match s.snNibbles cal t with | (l, s) => (v :: l, s)

/-- The table T of R361. -/
def sentT : List Nat := [0, 13, 7, 10, 14, 3, 9, 4, 1, 12, 6, 11, 15, 2, 8, 5]

/-- The fast-channel CRC (R361). -/
def sentCrc (legacy : Bool) (l : List Nat) : Nat :=
  let c := l.foldl (fun c n => (Tbl.get 0 sentT c) ^^^ n) 5
  if legacy then c else Tbl.get 0 sentT c

/-- Nibbles as one number, the first the most significant. -/
def nibbles (l : List Nat) : Nat := l.foldl (fun v n => v * 16 + n) 0

/-- Bits as one number, the first the most significant. -/
def bitsNat (l : List Bool) : Nat := l.foldl (fun v b => 2 * v + b.toNat) 0

/-- A good serial message of channel `k` (R365, R383). -/
def State.snMessage (s : State) (k id data : Nat) (enh : Bool) : State :=
  s.setWord (POS_SN_SER k) (u32 (data + id * 2 ^ 16 + enh.toNat * 2 ^ 24 + 2 ^ 25))

/-- A serial message of channel `k` that fails its CRC (R365). -/
def State.snSerialBad (s : State) (k : Nat) : State := (s.put (POS_SN_STAT.SER_CRC_SEEN k) 1).raise 0x0A08 k

/-- The message in progress begins as a short message may: bit 3 is 1 in its first frame alone (SAE J2716). -/
def shortFits : List (Bool × Bool) → Bool
  | [] => true
  | x :: t => x.1 && t.all (fun y => !y.1)

/-- Bit 3 of frame `i` of an enhanced message, where SAE J2716 fixes it. -/
def enhBit (i : Nat) : Option Bool :=
  if i < 6 then some true else if i = 6 || i = 12 || i = 17 then some false else none

/-- The message in progress begins as an enhanced message may (SAE J2716), counting frames from `i`. -/
def enhFits : Nat → List (Bool × Bool) → Bool
  | _, [] => true
  | i, x :: t => (match enhBit i with | some b => x.1 == b | none => true) && enhFits (i + 1) t

/-- Drop frames from the front until the rest may begin a message. -/
def dropUntil (p : List (Bool × Bool) → Bool) : List (Bool × Bool) → List (Bool × Bool)
  | [] => []
  | x :: t => if p (x :: t) then x :: t else dropUntil p t

/-- The 6-bit CRC of an enhanced message (SAE J2716): polynomial x^6 + x^4 + x^3 + 1, seed 0b010101, over the message
bits and six zeros. -/
def crc6 (l : List Bool) : Nat :=
  (l ++ List.replicate 6 false).foldl (fun c b =>
    let x := (2 * c + b.toNat) % 64
    if 32 ≤ c then x ^^^ 0x19 else x) 0x15

/-- A complete short message (SAE J2716): identifier, data and CRC nibbles in bit 2 of sixteen frames. -/
def State.snShort (s : State) (k : Nat) (l : List (Bool × Bool)) : State :=
  let b := l.map Prod.snd
  let n (i : Nat) : Nat := bitsNat ((b.drop (4 * i)).take 4)
  if sentCrc false [n 0, n 1, n 2] = n 3 then s.snMessage k (n 0) (16 * n 1 + n 2) false else s.snSerialBad k

/-- A complete enhanced message (SAE J2716), of either configuration. -/
def State.snEnhanced (s : State) (k : Nat) (l : List (Bool × Bool)) : State :=
  let two := l.map Prod.snd
  let three := l.map Prod.fst
  let data := bitsNat (two.drop 6)
  let hi := bitsNat ((three.drop 8).take 4)
  let lo := bitsNat ((three.drop 13).take 4)
  if crc6 ((l.drop 6).flatMap (fun x => [x.2, x.1])) ≠ bitsNat (two.take 6) then s.snSerialBad k
  else if three.getD 7 false then s.snMessage k hi (lo * 4096 + data) true
  else s.snMessage k (16 * hi + lo) data true

/-- Status bits 3 and 2 of a valid frame join the message in progress (R365). -/
def State.snSerial (s : State) (k status : Nat) : State :=
  let mode := s.fld (POS_SN_CFG.SER k)
  let l := (s.sn k).serial ++ [(status.testBit 3, status.testBit 2)]
  let put (s : State) (l : List (Bool × Bool)) : State := s.modSn k (fun c => { c with serial := l })
  if mode = 1 then
    let l := dropUntil shortFits l
    if l.length = 16 then (put s []).snShort k l else put s l
  else if mode = 2 then
    let l := dropUntil (enhFits 0) l
    if l.length = 18 then (put s []).snEnhanced k l else put s l
  else s

/-- A used frame of channel `k` with position value `v` (R363). -/
def State.snUse (s : State) (k : Nat) (start : Slate) (v : Nat) (data status crc : Nat) : State :=
  let c := s.sn k
  let bits := 4 * s.fld (POS_SN_CFG.PNIB k)
  let old := s.word (POS_SN_COUNT k)
  let d := lowS bits ((v : Int) - c.last)
  let wrap := s.flag (POS_SN_CFG.WRAP k)
  let new := if c.started && wrap then old + wrd d else u32 v
  let jump := c.started && wrap && decide (2 ^ (bits - 2) ≤ d.natAbs)
  let dir := if !c.started || new = old then c.dir else some (decide (sgn (new - old) < 0))
  let at_ := s.time - (s.clk.slate - start).toNat
  let s := ((s.setWord (POS_SN_COUNT k) new).setWord (POS_SN_TIME k) (start.setWidth 32)).setWord (POS_SN_DATA k)
    (u32 (data + status * 2 ^ 24 + crc * 2 ^ 28))
  let s := (s.put (POS_SN_STAT.VALID k) 1).modSn k (fun c => { c with
    started := true, last := v, dir := dir, fresh := true, stamp := at_ })
  let s := s.compareChange (4 + k) old new (start.setWidth 32)
  s.when jump (fun s => ((s.put (POS_SN_STAT.JUMP_SEEN k) 1).raise 0x0A09 k).markFeedback 2 k)

/-- A frame of channel `k` whose nibbles are in range (R361 to R365): status, data and CRC. `use` tells whether its
calibration pulse had an accepted predecessor. -/
def State.snDecode (s : State) (k : Nat) (start : Slate) (l : List Nat) (use : Bool) : State :=
  let nib := s.fld (POS_SN_CFG.NIB k)
  let status := Tbl.get 0 l 0
  let data := (l.drop 1).take nib
  let crc := Tbl.get 0 l (nib + 1)
  if sentCrc (s.flag (POS_SN_CFG.CRC_LEGACY k)) data ≠ crc then
    let s := (s.put (POS_SN_STAT.CRC_SEEN k) 1).bump (POS_SN_ERR.CRC k) 1
    let s := if (s.sn k).crcSeen then s else s.raise 0x0A04 k
    s.modSn k (fun c => { c with crcSeen := true, serial := [] })
  else
    let s := s.snSerial k status
    if status % 4 &&& s.fld (POS_SN_CFG.STERR k) ≠ 0 then (s.put (POS_SN_STAT.STATUS_SEEN k) 1).raise 0x0A07 k
    else if use then s.snUse k start (nibbles (data.take (s.fld (POS_SN_CFG.PNIB k)))) (nibbles data) status crc
    else s

/-- A SENT frame as its intervals in D4 cycles: the calibration pulse, then status, data and CRC nibbles and, with
PAUSE, the pause pulse (R360). -/
def State.sentFrame (s : State) (k : Nat) (start : Slate) (cal : Nat) (ivs : List Nat) : State :=
  let nom := 56 * 16 * s.fld (POS_SN_CFG.TICK k)
  let n := s.fld (POS_SN_CFG.NIB k) + 2
  let pause := s.flag (POS_SN_CFG.PAUSE k)
  let old := (s.sn k).cal
  if ivs.length < n + pause.toNat then s
  else if decide (4 * cal + nom < 4 * nom) || decide (5 * nom < 4 * cal) || cal = 0 then s.snFormat k
  else if (match old with | some p => decide (p < 64 * (max cal p - min cal p)) | none => false) then s.snFormat k
  else
    match s.snNibbles cal (ivs.take n) with
    | (l, s) =>
      if l.any (fun v => decide (v < 0) || decide (15 < v)) then s.snFormat k
      else
        let s := (s.modSn k (fun c => { c with cal := some cal })).snDecode k start (l.map Int.toNat) old.isSome
        let p := 56 * Tbl.get 0 ivs n
        if pause && (decide (p < 12 * cal) || decide (768 * cal < p)) then s.snFormat k else s

/-- SENT_FRAME: a SENT frame is received, the slate that D4 sampled as its calibration pulse began lying
`back` ticks behind the generator's count of now (R36, R38, R360). -/
def execSentFrame (k : Fin 4) (back : Nat) (cal : Nat) (ivs : List Nat) (s : State) : Out :=
  whenPowered s fun s => if s.flag (POS_SN_CFG.EN k) && s.vioOk then s.sentFrame k (s.sampledBack back) cal ivs else s

/-- SENT_TIMEOUT: no used frame has arrived for TMO x 10 us (R364). -/
def execSentTimeout (k : Fin 4) (s : State) : Out :=
  whenPowered s fun s =>
    if !s.flag (POS_SN_CFG.EN k) then s
    else
      let s := s.modSn k (fun c => { c with cal := none })
      (((s.put (POS_SN_STAT.VALID k) 0).put (POS_SN_STAT.TIMEOUT k) 1).raise 0x0A06 k)

/-! ### Limits and capture inputs -/

/-- The pin function of a limit input (R347). -/
def limitFn (positive : Bool) : Nat := if positive then 0x07 else 0x08

/-- The debounced level of a limit input of axis `n` reads active or inactive (R368). -/
def State.putLimit (s : State) (n : Nat) (positive active : Bool) : State :=
  if positive then s.putBit POS_LIM.POS_ACT n active else s.putBit POS_LIM.NEG_ACT n active

/-- LIMIT_EDGE: the debounced level of a limit input of axis `n` becomes `level` (R368). A change to the active level is
a limit edge. -/
def execLimitEdge (n : Fin 12) (positive level : Bool) (s : State) : Out :=
  whenPowered s fun s =>
    let active := level != s.flag (if positive then POS_AX_LIMCFG.POL_POS n else POS_AX_LIMCFG.POL_NEG n)
    let was := if positive then s.bitOf POS_LIM.POS_ACT n else s.bitOf POS_LIM.NEG_ACT n
    if !s.inputOn (limitFn positive) n then s
    else
      let s := s.putLimit n positive active
      if !active || was then s
      else
        let s := if positive then s.putBit POS_LIM_SEEN.POS n true else s.putBit POS_LIM_SEEN.NEG n true
        s.modMot n (fun m => if positive then { m with edgePos := true } else { m with edgeNeg := true })

/-- CAP_EDGE: a filtered edge of capture input `c` (R371). -/
def execCapEdge (c : Fin 4) (rising : Bool) (lag : Nat) (s : State) : Out :=
  whenPowered s fun s =>
    if !s.inputOn 0x09 c then s
    else s.trigger (s.stampD4 lag) (fun j => s.fld (POS_LT_CFG.TRIG j) == 1 && s.fld (POS_LT_CFG.TINST j) == c.val
      && (match s.fld (POS_LT_CFG.EDGE j) with | 0 => rising | 1 => !rising | 2 => true | _ => false))

/-- A write of POS_LT_TRIG (R371, R383). -/
def State.writeLtTrig (s : State) (m : BitVec 8) (lag : Nat) : State :=
  s.trigger (s.stampD4 lag) (fun j => m.getLsbD j && s.fld (POS_LT_CFG.TRIG j) == 4)

/-- LATCH_HOST_TRIG: a write of POS_LT_TRIG (R371). -/
def execLatchHostTrig (m : BitVec 8) (lag : Nat) (s : State) : Out :=
  hostAccess s POS_LT_TRIG (some (m.setWidth 32)) (fun s => s.writeLtTrig m lag) { lag := lag }

/-- A read of POS_LTj_POS on a path latches TIME and STAT, then clears FULL and the overrun count (R372). -/
def State.readLatch (s : State) (p : Path) (j : Nat) : State :=
  let l := Assoc.put s.latched (p, POS_LT_TIME j) (s.word (POS_LT_TIME j))
  let s := { s with latched := Assoc.put l (p, POS_LT_STAT j) (s.word (POS_LT_STAT j)) }
  s.emptyLatch j

/-- LATCH_READ: a host read of POS_LTj_POS (R372). -/
def execLatchRead (j : Fin 8) (s : State) : Out := hostAccess s (POS_LT_POS j) none (fun s => s.readLatch .host j)

/-! ### Output pins -/

/-- The level that the function of an output pin gives (R374, R377, R384); none for a pin of another function. -/
def State.pinLevel (s : State) (p : Nat) : Option Bool :=
  let e := s.pin p
  let o := (s.ee e.inst).out
  let ab : Bool × Bool := match (o % 4).toNat with | 0 => (false, false) | 1 => (true, false) | 2 => (true, true) | _ => (false, true)
  let ab := if s.flag (POS_EE_CFG.DIR_INV e.inst) then (ab.2, ab.1) else ab
  let iper := s.fld (POS_EE_RES.IPER e.inst)
  match e.fn with
  | 0x0A => some (s.pos.pulse.getLsbD e.inst)
  | 0x0B => some ab.1
  | 0x0C => some ab.2
  | 0x0D => some (iper != 0 && o % iper == 0)
  | 0x10 => some (s.bitOf GPM_OUT.OUT p)
  | _ => none

/-- The level that pin `p` drives: none for an input, for a high-impedance pin (R350, R584), and for an open-drain pin
that is released (R348). -/
def State.driven (s : State) (p : Nat) : Option Bool :=
  match s.pinLevel p with
  | some d => if !s.pinOn p || ((s.pin p).opt.testBit 7 && d) then none else some d
  | none => none

/-- OUT_MISMATCH: an output pin has read back `level` for 1 us (R385). A level other than the one it drives is a
mismatch, and the pin is held at that level until it reads back what it drives. An open-drain pin is checked only while
it drives low. -/
def execOutMismatch (p : Fin 15) (level : Bool) (s : State) : Out :=
  whenPowered s fun s =>
    match s.driven p with
    | none => s
    | some d =>
      let b := 1#15 <<< p.val
      let s := { s with pos := { s.pos with
        held := if level == d then s.pos.held &&& ~~~b else s.pos.held ||| b
        heldHigh := if level then s.pos.heldHigh ||| b else s.pos.heldHigh &&& ~~~b } }
      s.when (level != d) (fun s => s.raise 0x1401)

/-! ### The part of D4 at a cut -/

/-- A write to a CUT register of the block has taken effect in APPLY: channels that were enabled by it start anew (R242,
R381), a disabled emulation output holds, and a limit whose polarity changes reads the other way (R368), and a target
that a new resolution moves is looked at (R378, R383). `old` is the value before. An enable forgets the last direction,
so the first edge after it counts no reversal (DESIGN CHOICE: log entry 121). -/
def State.posApplied (s : State) (a : Nat) (old : Word) : State :=
  let on (x : Nat) : Bool := a == x && !old.getLsbD 0 && (s.word x).getLsbD 0
  let s := s.each (List.range 4) (fun s k =>
    let s := if on (CAM_SI_CFG k) then s.modSi k (fun c => { c with hist := {}, dir := none }) else s
    let s := if on (POS_QD_CFG k) then
        ((s.modQd k (fun q => { q with count := 0, angle := 0, turns := 0, hist := {}, dir := none })).put (POS_QD_STAT.REFD k) 0).put
          (POS_QD_STAT.INDEX k) 0
      else s
    if on (POS_SN_CFG k) then
      ((s.modSn k (fun _ => {})).setWord (POS_SN_COUNT k) 0).put (POS_SN_STAT.VALID k) 0
    else s)
  let s := s.each [0, 1] (fun s e =>
    let s := if on (POS_EE_CFG e) then (s.modEe e (fun _ => {})).setWord (POS_EE_COUNT e) 0 else s
    s.when ((a == POS_EE_CFG e || a == POS_EE_RES e) && s.flag (POS_EE_CFG.EN e)) (fun s => s.eeLook e))
  match groupIx (POS_AX_LIMCFG 0) 0x10 12 a with
  | none => s
  | some n =>
    let flip (x : Nat) : Bool := old.getLsbD x != (s.word a).getLsbD x
    let s := s.when (flip 10 && s.inputOn 0x07 n) (fun s => s.putLimit n true (!s.bitOf POS_LIM.POS_ACT n))
    s.when (flip 11 && s.inputOn 0x08 n) (fun s => s.putLimit n false (!s.bitOf POS_LIM.NEG_ACT n))

/-- Presets and clears that wait take effect (R248, R383). A CLR of a step channel keeps the last direction, against
which the next edge can count a reversal (DESIGN CHOICE: log entry 121). -/
def State.posClears (s : State) : State :=
  let s := s.each (List.range 4) (fun s k =>
    let s := if (s.si k).clear then s.modSi k (fun c => { dir := c.dir }) else s
    match (s.qd k).preset with
    | none => s
    | some v =>
      let cpr := s.fld (POS_QD_CPR.CPR k)
      let d := sgn (v - (s.qd k).count)
      let s := s.modQd k (fun q => { q with
        count := v, preset := none, hist := {}
        angle := if cpr = 0 then 0 else (sgn v % cpr).toNat
        turns := if cpr = 0 then 0 else wrd (sgn v / cpr) })
      (s.put (POS_QD_STAT.REFD k) 0).eeFollow k d)
  s.each [0, 1] (fun s e =>
    if (s.ee e).clear then (s.modEe e (fun x => { x with acc := 0, out := 0, clear := false })).eeLook e else s)

/-- D4 at its first edge at or after the cut: the values of the cut, and the latches that every cut triggers (R242, R354,
R371, R383). -/
def State.posCut (s : State) : State :=
  let t := s.time
  let s := s.each (List.range 4) (fun s k =>
    let s := s.setWord (CAM_SI_COUNT k) (s.si k).count
    let w := s.timeWord (s.si k).hist t
    let s := w.2.setWord (CAM_SI_TIME k) w.1
    let q := s.qd k
    let s := ((s.setWord (POS_QD_COUNT k) q.count).setWord (POS_QD_ANGLE k) (u32 q.angle)).setWord (POS_QD_TURNS k) q.turns
    if s.flag (POS_QD_CFG.EN k) then (let w := s.timeWord q.hist t; w.2.setWord (POS_QD_TIME k) w.1) else s)
  let s := s.trigger (s.clk.slate.setWidth 32) (fun j => s.fld (POS_LT_CFG.TRIG j) == 5)
  { s with pos := { s.pos with
      overrun := 0
      si := s.pos.si.map (fun (c : SiCh) => { c with timing := false })
      qd := s.pos.qd.map (fun (c : QdCh) => { c with illegal := false })
      sn := s.pos.sn.map (fun (c : SnCh) => { c with crcSeen := false, formatSeen := false }) } }

/-- FB0 and FB1 of axis `n` as D4 takes them at the cut (R213, R234, R243, R366); none where its source delivers
nothing. -/
def State.feedback (s : State) (n : Nat) : Option (Word × Word) :=
  let ch := s.fld (POS_AX_FB.CH n)
  let scale (c : Word) : Word := wrd (sgn c * s.fld (POS_AX_FBSCALE.NUM n) / s.fld (POS_AX_FBSCALE.DEN n))
  if s.fld (CAM_AX_BIND.SRC n) = 3 then
    let k := s.fld (CAM_AX_BIND.AXIS n)
    let w := s.word (CAM_SI_TIME k)
    let c := s.word (CAM_SI_COUNT k)
    let back : Int := if (w >>> 16).toNat % 2 ^ 15 = 0x7FFF || !s.flag (CAM_SI_CFG.DELAYED k) then 0
                      else if w.getLsbD 31 then 1 else -1
    some (c + wrd back, w)
  else if s.fld (POS_AX_FB.SRC n) = 1 then
    if s.flag (POS_QD_CFG.EN ch) then some (scale (s.word (POS_QD_COUNT ch)), s.word (POS_QD_TIME ch)) else none
  else if s.fld (POS_AX_FB.SRC n) = 2 then
    if s.flag (POS_SN_CFG.EN ch) && s.flag (POS_SN_STAT.VALID ch) then
      let age := min 0xFFFF ((s.time - (s.sn ch).stamp) / 80)
      some (scale (s.word (POS_SN_COUNT ch)),
        u32 (age + s.fld (POS_SN_DATA.STATUS ch) * 2 ^ 16 + (s.sn ch).fresh.toNat * 2 ^ 20))
    else none
  else none

/-- FRESH ends with the delivery (R366). -/
def State.feedbackTaken (s : State) : State :=
  { s with pos := { s.pos with sn := s.pos.sn.map (fun (c : SnCh) => { c with fresh := false }) } }

/-- POS_STAT as it reads (R383). -/
def State.posStat (s : State) : Word :=
  let bits (n : Nat) (p : Nat → Bool) : Nat := (List.range n).foldl (fun v i => v + (p i).toNat * 2 ^ i) 0
  u32 (bits 4 (fun k => s.flag (POS_QD_CFG.EN k)) + bits 4 (fun k => s.flag (POS_SN_STAT.VALID k)) * 2 ^ 4
    + bits 8 (fun j => s.flag (POS_LT_STAT.FULL j)) * 2 ^ 8 + bits 2 (fun e => s.flag (POS_EE_CFG.EN e)) * 2 ^ 16)

/-- GPM_LEVEL as it reads (R384): the level at each pin after its input buffer, NONE and AIN pins 0. A pin that drives is
at the level it drives, or at the one at which it is held; the level of any other pin comes from outside and is open.
While VIO is low every input is taken as inactive (R584). -/
def State.gpmLevel (s : State) : Word × State :=
  let d := s.draw
  let bit (p : Nat) : Bool :=
    match (s.pin p).fn with
    | 0x00 => false
    | 0x0E => false
    | _ => s.vioOk && (match s.driven p with
      | some l => if s.pos.held.getLsbD p then s.pos.heldHigh.getLsbD p else l
      | none => d.1.getLsbD p)
  (u32 ((List.range 15).foldl (fun v p => v + (bit p).toNat * 2 ^ p) 0), d.2)

end Sys2Proof.Machine
end

