-- ==== Sys2Proof/Machine/Mot.lean ====
section
/-!
DEFINITION. What D1, D2 and D3 do for an axis: parameters and their delivery, the register snapshot, the status words
and the faults read from them, limits, homing and cams (chapters 05, 06 and 08), and the parts of the CAN map that name
an axis (chapter 12).
-/
namespace Sys2Proof.Machine

/-! ### The CAN map -/

/-- A map entry (R429, R430). -/
structure MapEntry where
  kind : Nat
  axis : Nat
  off : Nat
  flags : Nat
  addr : Nat
  per : Nat
  dlc : Nat
  deriving DecidableEq, Repr

/-- NFILT and NMAP of a CAN_MAP payload (R429). -/
def mapFilters (l : List Word) : Nat := byteAt l 0
def mapCount (l : List Word) : Nat := byteAt l 1

/-- Map entry `m` of a CAN_MAP payload (R429). -/
def mapEntry (l : List Word) (m : Nat) : MapEntry :=
  let o := 4 + 12 * mapFilters l + 16 * m
  { kind := byteAt l o, axis := byteAt l (o + 1), off := byteAt l (o + 2), flags := byteAt l (o + 3)
    addr := (Tbl.get 0 l ((o + 4) / 4)).toNat, per := halfAt l (o + 8), dlc := byteAt l (o + 10) }

/-- The map entries of the active take. -/
def State.mapEntries (s : State) : List MapEntry :=
  (List.range (mapCount s.reel.active.canMap)).map (mapEntry s.reel.active.canMap)

/-- The CAN map holds a target for axis `n` (R430). -/
def State.hasTarget (s : State) (n : Nat) : Bool := s.mapEntries.any (fun e => e.kind == 1 && e.axis == n)

/-- A check word over a value and its generation (R168, R217, R432). -/
def checkWord (v : Word) (gen : Nat) : Word := u32 (gen % 65536 + crc16 v (gen % 65536) * 65536)

/-! ### Parameters -/

/-- The register of parameter `i` of axis `n` (R178, R237, R310). -/
def paramReg (n i : Nat) : Nat :=
  if i < 8 then AX_VSTART n + 4 * i
  else match i with
    | 8 => AX_IRUN n | 9 => AX_IHOLD n | 10 => AX_SS_CFG n | 11 => AX_SOFT_MIN n | 12 => AX_SOFT_MAX n
    | 13 => AX_STOP_CFG n
    | 24 => CAM_AX_SOFF n | 25 => CAM_AX_MOFF n | 26 => CAM_AX_TOL n | 27 => CAM_AX_SCALE n | 28 => CAM_AX_HOLD n
    | 29 => LAS_AX_HOME_MAXDIST n | 30 => LAS_AX_HOME_BLANK n
    | _ => LAS_AX_VLAS_MIN n + 4 * (i - 14)

/-- The value of parameter `i` of axis `n` as last written. -/
def State.param (s : State) (n i : Nat) : Nat := (s.word (paramReg n i)).toNat

/-- Value `v` breaks a range of R178, R237 or R310, held against the values of the other parameters as last written
(R179). -/
def State.paramRefused (s : State) (n i : Nat) (v : Word) : Bool :=
  let x := v.toNat
  let out (lo hi : Nat) : Bool := decide (x < lo) || decide (hi < x)
  match i with
  | 0 => decide (s.param n 7 < x)
  | 1 => out 1 0x7FFFFFFF
  | 2 => out (s.param n 7) (s.param n 4)
  | 3 => out 1 0x7FFFFFFF
  | 4 => out (s.param n 2) 0x07FFFFFF
  | 5 => out 1 0x7FFFFFFF
  | 6 => out 1 0x7FFFFFFF
  | 7 => out 0x100 (min (s.param n 2) 0x007FFFFF) || decide (x < s.param n 0)
  | 8 => decide (x < s.param n 9)
  | 9 => decide (s.param n 8 < x)
  | 10 => x % 65536 == 0 || x / 65536 % 4 == 3
  | 11 => decide ((s.word (AX_SOFT_MAX n)).toInt ≤ v.toInt)
  | 12 => decide (v.toInt ≤ (s.word (AX_SOFT_MIN n)).toInt)
  | 14 => out 0x100 0x07FFFFFF
  | 15 => out 256 2047
  | 16 => out 1 255
  | 19 => decide (x % 4096 < 256) || decide (x / 65536 % 16 < 4) || decide (10 < x / 65536 % 16)
  | 20 => x % 4 == 3
  | 21 => out 0x100 0x07FFFFFF
  | 23 => decide (0x100000 < x)
  | 26 => decide (x < 2)
  | 27 => out 1 1024
  | 29 => out 1 0x7FFFFFFF
  | _ => false

/-- Index `i` of axis `n` becomes pending (R204). -/
def State.markParam (s : State) (n i : Nat) : State := s.putBit (AX_PARAM_STAT.PEND n) i true

/-- A write to a parameter register (R179, R204). -/
def State.writeParam (s : State) (n i : Nat) (v : Word) : State :=
  let v := v &&& rwMask (paramReg n i)
  if s.paramRefused n i v then s.refuse else (s.setWord (paramReg n i) v).markParam n i

/-- The MOT registers of axis `n` take writes: the variant has the axis (R4). -/
def State.hasAxis (s : State) (n : Nat) : Bool := s.part.hasAxis n

/-- PARAM_WRITE: a write to parameter register `i` of axis `n` (R179). -/
def execParamWrite (n : Fin 12) (i : Fin 31) (v : Word) (s : State) : Out :=
  hostAccess s (paramReg n i) (some v) (fun s =>
    if s.hasAxis n || (24 ≤ i.val && i.val ≤ 28) then s.writeParam n i v else s)

/-! ### Control and targets -/

/-- A write of AXn_TARGET: from the snapshot that delivers it, TARGET_BLOCKED may be raised again (R198, R211). A target
of the CAN record is no target written (DEDUCED: log entry 105). -/
def State.setTarget (s : State) (n : Nat) (v : Word) : State :=
  (s.setWord (AX_TARGET n) v).modMot n (fun m => { m with fresh := true })

/-- A host write of AXn_TARGET (R229). -/
def State.writeTarget (s : State) (n : Nat) (v : Word) : State :=
  (s.setTarget n v).modMot n (fun m => { m with tgtWritten := true })

/-- A write of MODE = HOMING is refused (R205, R302). `v` is the word written. -/
def State.homingRefused (s : State) (n : Nat) (v : Word) : Bool :=
  let vel := s.param n 21
  let method := s.fld (LAS_AX_HOME_CFG.METHOD n)
  let stall := method == 0 || method == 2
  let limit := method == 1 || method == 2
  !s.flag (AX_STAT.AT_REST n) || v.getLsbD 2 || v.getLsbD 3 || s.flag (AX_CTRL.STOP n) || s.flag (AX_CTRL.HALT n)
    || (s.mot n).bootLeft != 0
    || vel == 0 || decide (s.param n 4 < vel)
    || (stall && decide (vel < s.param n 14))
    || (stall && decide (1536 ≤ s.param n 15 + s.param n 16 * ((vel + 65535) / 65536)))
    || (limit && !s.hasPin (if s.flag (LAS_AX_HOME_CFG.DIR n) then 0x08 else 0x07) n)

/-- A write of AXn_CTRL is refused (R212, R232, R302). -/
def State.ctrlRefused (s : State) (n : Nat) (v : Word) : Bool :=
  let mode := v.toNat % 4
  mode == 3 || (v.getLsbD 4 && !s.hasTarget n)
    || (s.flag (CAM_AX_CTRL.ENGAGE n) && mode != 0)
    || (mode == 2 && s.homingRefused n v)

/-- A write of AXn_CTRL (R212). An accepted MODE = HOMING starts a homing in the next frame (R302, R306). -/
def State.writeAxCtrl (s : State) (n : Nat) (v : Word) : State :=
  if s.ctrlRefused n v then s.refuse
  else
    let s := s.setWord (AX_CTRL n) (v &&& rwMask (AX_CTRL n))
    if v.toNat % 4 = 2 then
      s.modMot n (fun m => { m with
        homeStart := true, homeEnd := false, limRef := false, limDone := false, limOpp := false })
    else s

/-- HOMING_REQUEST: a write of AXn_CTRL with MODE = HOMING (R302); `v` holds the other bits of the word. -/
def execHomingRequest (n : Fin 12) (v : Word) (s : State) : Out :=
  hostAccess s (AX_CTRL n) (some ((v &&& ~~~3#32) ||| 2#32)) (fun s =>
    if s.hasAxis n then s.writeAxCtrl n ((v &&& ~~~3#32) ||| 2#32) else s)

/-- A write of AXn_VTARGET (R212). -/
def State.vtargetRefused (v : Word) : Bool := decide (0x07FFFFFF < (sgn v).natAbs)

/-- A write of AXn_SETPOS is refused (R212). -/
def State.setposRefused (s : State) (n : Nat) : Bool :=
  !s.flag (AX_STAT.AT_REST n) || s.fld (AX_CTRL.MODE n) != 0 || (s.mot n).setpos.isSome

/-- A SETPOS waits for its frame (R181, R199). -/
def State.issueSetpos (s : State) (n : Nat) (v : Word) : State :=
  (s.modMot n (fun m => { m with setpos := some v })).put (AX_PARAM_STAT.SETPOS_PEND n) 1

/-- A write of AXn_SETPOS (R181). -/
def State.writeSetpos (s : State) (n : Nat) (v : Word) : State :=
  if s.setposRefused n then s.refuse else s.issueSetpos n v

/-- AX_SETPOS: a write of AXn_SETPOS (R181). -/
def execAxSetpos (n : Fin 12) (v : Word) (s : State) : Out :=
  hostAccess s (AX_SETPOS n) (some v) (fun s => if s.hasAxis n then s.writeSetpos n v else s)

/-! ### Cams -/

/-- Slot `k` of the set of axis `n` holds a table (R216). -/
def State.camSlot (s : State) (n k : Nat) : Bool := (s.word (CAM_AX_SET n)).getLsbD (8 * k + 7)

/-- A write of CAM_AXn_CTRL is refused (R205, R216, R231). The delivery of R205 counts as running from the end of BOOT on
(DEDUCED: log entry 107). -/
def State.camCtrlRefused (s : State) (n : Nat) (v : Word) : Bool :=
  !s.camSlot n (v.toNat / 2 % 4)
    || (v.getLsbD 0 && (s.fld (AX_CTRL.MODE n) != 0 || s.fld (CAM_AX_BIND.SRC n) == 0
        || (Assoc.get s.waiting (CAM_AX_BIND n)).isSome || !s.axisUsed n || (s.mot n).bootLeft != 0))

/-- A write of CAM_AXn_CTRL (R231). -/
def State.writeCamCtrl (s : State) (n : Nat) (v : Word) : State :=
  if s.camCtrlRefused n v then s.refuse
  else
    let was := s.flag (CAM_AX_CTRL.ENGAGE n)
    let s := s.setWord (CAM_AX_CTRL n) (v &&& rwMask (CAM_AX_CTRL n))
    if was && !v.getLsbD 0 then s.modMot n (fun m => { m with tgtWritten := false }) else s

/-- CAM_ENGAGE: a write of CAM_AXn_CTRL (R231). -/
def execCamEngage (n : Fin 12) (v : Word) (s : State) : Out :=
  hostAccess s (CAM_AX_CTRL n) (some v) (fun s => s.writeCamCtrl n v)

/-- The binding of axis `n` as last written. -/
def State.bindWord (s : State) (n : Nat) : Word := (Assoc.get s.waiting (CAM_AX_BIND n)).getD (s.word (CAM_AX_BIND n))

/-- Local bindings lead from axis `m` to axis `n` within so many steps (R233). -/
def State.bindLeads (s : State) (n : Nat) : Nat → Nat → Bool
  | 0, m => m == n
  | k + 1, m =>
    m == n || (CAM_AX_BIND.SRC m |>.of (s.bindWord m)) == 1 && s.bindLeads n k (CAM_AX_BIND.AXIS m |>.of (s.bindWord m))

/-- The chain position of the device (R475). -/
def State.chainPos (s : State) : Nat := if s.sys.cascM then 0 else s.fld CHN_CFG.POS

/-- A write of CAM_AXn_BIND is refused (R233, R248). -/
def State.bindRefused (s : State) (n : Nat) (v : Word) : Bool :=
  let src := v.toNat % 4
  let axis := v.toNat / 16 % 16
  let dev := v.toNat / 256 % 8
  decide (11 < axis) || (src == 3 && decide (3 < axis)) || (src != 2 && dev != 0)
    || s.flag (CAM_AX_CTRL.ENGAGE n) || s.fld (CAM_AX_STAT.STATE n) != 0
    || (src == 1 && (axis == n || !s.axisUsed axis || s.bindLeads n 12 axis))
    || (src == 2 && (!s.flag CHN_CTRL.EN || dev == s.chainPos))
    || (src == 3 && (!s.hasPin 0x05 axis || !s.hasPin 0x06 axis || s.fld (POS_AX_FB.SRC n) != 0))

/-- A write of CAM_AXn_BIND (R233). -/
def State.writeBind (s : State) (n : Nat) (v : Word) : State :=
  if s.bindRefused n v then s.refuse else s.await (CAM_AX_BIND n) v

/-- CAM_BIND: a write of CAM_AXn_BIND (R233). -/
def execCamBind (n : Fin 12) (v : Word) (s : State) : Out :=
  hostAccess s (CAM_AX_BIND n) (some v) (fun s => s.writeBind n v)

/-! ### Status words at the cut -/

/-- The status word of index `i` that D1 took for axis `n` in the frame just ended, the last one received. -/
def lookWord (l : List (Nat × Word)) (i : Nat) : Option Word := (l.filter (fun p => p.1 == i)).getLast?.map Prod.snd

/-- The words that D1 publishes for axis `n` (R122, R628): those of the engine that serves it, if its END word came. -/
def State.published (s : State) (n : Nat) : List (Nat × Word) :=
  match s.servingEngine n with
  | some e =>
    if s.intg.endD1.getLsbD e && !s.parkedOut n then
      (s.intg.statusD1.filter (fun p => p.1 == e && p.2.1 == n)).map (fun p => (p.2.2.1, p.2.2.2))
    else []
  | none => []

/-- Bit `i` of an optional word. -/
def wbit (w : Option Word) (i : Nat) : Bool := (w.getD 0).getLsbD i

/-- The MOT faults of a frame, from the plan flag word (R211). `overSeen` is OVERSPEED as published before. -/
def State.motFaults (s : State) (n : Nat) (plan : Option Word) (overSeen : Bool) : State :=
  let s := s.when (wbit plan 13) (fun s => s.raise 0x0501 n)
  let s := s.when (wbit plan 9 && !(s.mot n).blocked)
    (fun s => (s.raise 0x0502 n).modMot n (fun m => { m with blocked := true }))
  s.when (wbit plan 10 && !overSeen) (fun s => s.raise 0x0504 n)

/-- A slip of the frame (R294, R295): corrected, or unbounded for the rest of its episode. -/
def State.slipFault (s : State) (n : Nat) (e : Int) : State :=
  let m := s.mot n
  if m.snap1.getLsbD 26 && decide (e.natAbs ≤ m.corrMax) && !m.unbounded then s.raise 0x0902 n
  else (s.raise 0x0903 n).modMot n (fun m => { m with unbounded := true })

/-- The frame just ended was one of a homing: its snapshot had MODE = HOMING. -/
def MotAx.homing (m : MotAx) : Bool := m.snap1.toNat % 4 == 2

/-- The registers that status words feed (R628), with sticky bits and counts; no faults. Reserved
bits of a register stay 0 whatever the word holds there (R18). A stall of a homing sets no STALL_SEEN (R291). -/
def State.publishWord (s : State) (n i : Nat) (w : Word) : State :=
  match i with
  | 0 => s.setWord (AX_POS n) w
  | 1 => s.setWord (AX_VEL n) w
  | 2 => s.setWord (AX_DIST n) w
  | 3 =>
    let b (k : Nat) : Nat := (w.getLsbD k).toNat
    let s := (s.setWord (AX_PLAN n) w).put (AX_STAT.ARM n) (w.toNat % 16)
    let s := (s.put (AX_STAT.AT_TARGET n) (b 6)).when (w.getLsbD 5) (fun s => s.put (AX_STAT.REV_SEEN n) 1)
    let s := (s.put (AX_STAT.TGT_BLOCKED n) (b 9)).put (AX_STAT.TGT_CLAMP n) (b 8)
    ((s.put (AX_STAT.SOFT_STOP n) (b 12)).put (AX_STAT.OVERSPEED n) (b 10)).put (AX_STAT.PARAM_ORDER n) (b 11)
  | 4 =>
    let b (k : Nat) : Nat := (w.getLsbD k).toNat
    let s := ((s.put (AX_STAT.AT_REST n) (b 0)).put (AX_STAT.STANDSTILL n) (b 1)).put (AX_STAT.UNCERTAIN n) (b 2)
    let s := (s.put (AX_STAT.FROZEN n) (b 3)).put (LAS_AX_SLIP.EPISODE n) (w.toNat / 256 % 256)
    let s := s.put (LAS_AX_EOFS.EOFS n) (w.toNat / 2 ^ 16 % 4096)
    s.when (w.getLsbD 4) (fun s => (s.bump (LAS_AX_SLIP.TOTAL n) 1).put (LAS_AX_STAT.SLIP_SEEN n) 1)
  | 5 => s.setWord (LAS_AX_ANGLE n) w
  | 6 => s.setWord (LAS_AX_EMF n) w
  | 7 =>
    let w' := w &&& 0x00FFFF67#32
    let s := s.setWord (LAS_AX_STAT n) ((s.word (LAS_AX_STAT n) &&& 0x18) ||| w')
    (s.when (w.getLsbD 2 && !(s.mot n).homing) (fun s => s.put (LAS_AX_STAT.STALL_SEEN n) 1)).putBit LAS_STAT.VALID n (w.getLsbD 0)
  | 8 => s.setWord (LAS_AX_LOSS n) w
  | 9 =>
    let st := w.toNat % 8
    (s.setWord (LAS_AX_HOME n) (w &&& 0xFFFF0737#32)).putBit LAS_STAT.HOMING n (1 ≤ st && st ≤ 3)
  | 10 => s.setWord (LAS_AX_HOME_RAW n) w
  | 11 => s.setWord (POS_AX_DEV n) w
  | 12 => s.setWord (CAM_AX_STAT n) ((s.word (CAM_AX_STAT n) &&& 0x30) ||| (w &&& 0xFFFFFF37#32))
  | 13 => s.setWord (CAM_AX_ERR n) w
  | 14 => s.setWord (CAM_AX_MPOS n) w
  | 15 => s.setWord (CAM_AX_OFF_EFF n) w
  | _ => s

/-- The rotor's angle in microsteps in a published frame, from its lam and the commanded angle at the samples (R286). -/
def MotAx.rotorNow (m : MotAx) (l : List (Nat × Word)) : Option Int :=
  (lookWord l 5).map (fun w => (m.opened.1 / 256 : Nat) - (if m.opened.2 < 0 then -1 else 1) * lowS 16 w.toNat)

/-- The drift D with a frame's change of the rotor angle (R298): it counts while mag is at least 256 and the coils are not
in DRIVE, and returns to 0 once DRIVE is committed; in FIRST_WAIT it stays. -/
def MotAx.driftNow (m : MotAx) (l : List (Nat × Word)) : Int :=
  if m.driving then 0
  else if !m.idle then m.drift
  else
    match m.rotor, m.rotorNow l with
    | some a, some b =>
      if 256 ≤ ((lookWord l 6).getD 0).toNat % 65536 then m.drift + lowS 12 ((b - a) % 4096).toNat else m.drift
    | _, _ => m.drift

/-- The axis with the rotor angle and the drift of a published frame (R298). -/
def MotAx.track (m : MotAx) (l : List (Nat × Word)) : MotAx :=
  { m with drift := m.driftNow l, rotor := m.rotorNow l, drifted := m.drifted && !m.driving }

/-- LOSS and ROTOR_DRIFT of a frame (R297, R298), as D1 sees them in the words `l` of R628. A stop's estimate stands at
the end of its tracking. A drift of half a period shows in the angles published, or as a new estimate, while the coils
are not in DRIVE, once until they are again. -/
def State.lossFaults (s : State) (n : Nat) (l : List (Nat × Word)) (old : State) : State :=
  let loss := (lookWord l 8).getD 0
  let ended := old.flag (LAS_AX_STAT.LOSS_BUSY n) && !s.flag (LAS_AX_STAT.LOSS_BUSY n)
  let news := loss != 0 && loss != old.word (LAS_AX_LOSS n)
  let s := s.modMot n (fun m => m.track l)
  let m := s.mot n
  if (ended && loss != 0) || (news && !m.idle) then s.raise 0x0904 n
  else if m.idle && !m.drifted && (news || decide (2048 ≤ m.drift.natAbs)) then
    (s.raise 0x0906 n).modMot n (fun m => { m with drifted := true })
  else s

/-- DONE or FAILED becomes visible in this cut's publication (R307, R308): `st` is the state's code. -/
def State.homeShows (s : State) (n st : Nat) (old : State) : Bool :=
  (lookWord (old.published n) 9).isSome && s.fld (LAS_AX_HOME.STATE n) == st
    && (old.fld (LAS_AX_HOME.STATE n) != st || (s.mot n).snap1.getLsbD 30)

/-- The LAS faults of a frame (R313): `old` is the state before its words were published. -/
def State.lasFaults (s : State) (n : Nat) (l : List (Nat × Word)) (old : State) : State :=
  let m := s.mot n
  let motion := lookWord l 4
  let status := lookWord l 7
  let stall := wbit status 2 && !m.homing
  let s := s.when stall (fun s =>
    (s.raise 0x0901 n).when (m.snap1.getLsbD 25) (fun s => s.put (AX_CTRL.STOP n) 1))
  let s := s.when (old.flag (AX_STAT.AT_REST n) && !s.flag (AX_STAT.AT_REST n))
    (fun s => s.modMot n (fun m => { m with unbounded := false }))
  let s := s.when (wbit motion 4) (fun s => s.slipFault n (lowS 8 ((motion.getD 0).toNat / 256 : Nat)))
  let s := s.lossFaults n l old
  s.when (s.homeShows n 5 old) (fun s => s.raise 0x0905 n)

/-- The CAM faults of a frame (R247), and a cam that has become DISENGAGED (R229). -/
def State.camFaults (s : State) (n : Nat) (l : List (Nat × Word)) (old : State) : State :=
  let w := lookWord l 12
  let was := old.fld (CAM_AX_STAT.STATE n)
  let st := s.fld (CAM_AX_STAT.STATE n)
  let s := s.when (wbit w 4) (fun s => s.raise 0x0601)
  let s := s.when (st == 4 && was != 4) (fun s => s.raise 0x0602)
  let s := s.when (wbit w 5) (fun s => s.raise 0x0603)
  s.when (was == 5 && st == 0 && !s.flag (CAM_AX_CTRL.DIS_TARGET n) && !(s.mot n).tgtWritten)
    (fun s => s.setTarget n (s.word (AX_POS n)))

/-- FOLLOW_ERR (R367): the deviation reported has exceeded DEVMAX in DEVDEB consecutive tagged frames, which is raised
once in such a run. A frame that reports none leaves the count. -/
def State.followFault (s : State) (n : Nat) (l : List (Nat × Word)) : State :=
  let take := s.fld REEL_STAT.ACTIVE_TAKE
  match lookWord l 11 with
  | none => s
  | some w =>
    let s := s.modMot n (fun m =>
      { m with devRun := if Config.devMax take n < w.toInt.natAbs then min (m.devRun + 1) 65536 else 0 })
    s.when ((s.mot n).devRun == Config.devDeb take n && 0 < (s.mot n).devRun) (fun s => s.raise 0x0A0D n)

/-- D1 publishes the frame just ended for axis `n` and raises its faults (R118, R211, R628). -/
def State.publishAxis (s : State) (n : Nat) : State :=
  let l := s.published n
  let old := s
  let s := s.each l (fun s p => s.publishWord n p.1 p.2)
  let s := s.motFaults n (lookWord l 3) (old.flag (AX_STAT.OVERSPEED n))
  ((s.lasFaults n l old).camFaults n l old).followFault n l

/-- D1 ends a homing (R308), from the cut after the one at which DONE or FAILED became visible. -/
def State.homeFinish (s : State) (n : Nat) : State :=
  let st := s.fld (LAS_AX_HOME.STATE n)
  let ends (s : State) (target : Word) : State :=
    ((s.put (AX_CTRL.MODE n) 0).setTarget n target).modMot n (fun m => { m with homeEnd := false })
  if !(s.mot n).homeEnd then s
  else if st = 4 then
    let back := s.word (LAS_AX_HOME_BACKOFF n)
    let off := s.word (LAS_AX_HOME_OFFSET n)
    ends s (if s.flag (LAS_AX_HOME_CFG.DIR n) then off + back else off - back)
  else if st ≠ 5 then s.modMot n (fun m => { m with homeEnd := false })
  else if s.flag (AX_STAT.AT_REST n) then ends s (s.word (AX_POS n))
  else s

/-- D1 notes a DONE or FAILED that this cut's publication shows (R308): `old` is the state before it. -/
def State.homeNote (s : State) (n : Nat) (old : State) : State :=
  s.when (s.homeShows n 4 old || s.homeShows n 5 old) (fun s => s.modMot n (fun m => { m with homeEnd := true }))

/-- The limits of axis `n` at a cut (R197, R306, R369): a stop outside homing, or a reference event of a homing. -/
def State.limitCut (s : State) (n : Nat) : State :=
  let m := s.mot n
  let pos := s.bitOf POS_LIM.POS_ACT n
  let neg := s.bitOf POS_LIM.NEG_ACT n
  let s := s.modMot n (fun m => { m with edgePos := false, edgeNeg := false })
  if s.fld (AX_CTRL.MODE n) = 2 then
    let down := s.flag (LAS_AX_HOME_CFG.DIR n)
    let ref := (if down then m.edgeNeg else m.edgePos) || (m.homeStart && (if down then neg else pos))
    let opp := if down then m.edgePos else m.edgeNeg
    s.modMot n (fun m => { m with limRef := m.limRef || (ref && !m.limDone), limOpp := m.limOpp || opp })
  else
    let halt := s.flag (AX_STOP_CFG.LIMIT_HALT n)
    let set := s.flag (if halt then AX_CTRL.HALT n else AX_CTRL.STOP n)
    let v := sgn (s.word (AX_VEL n))
    let into := (pos && decide (0 < v)) || (neg && decide (v < 0))
    if m.edgePos || m.edgeNeg || (into && !set) then
      (if halt then s.put (AX_CTRL.HALT n) 1 else s.put (AX_CTRL.STOP n) 1).raise 0x0503 n
    else s

/-- D1's work for axis `n` on the frame just ended (R118, R197, R211, R229, R308). The registers of a parked axis do not
act (R539). -/
def State.axisCut (s : State) (n : Nat) : State :=
  if s.parkedOut n then s else (((s.publishAxis n).homeFinish n).homeNote n s).limitCut n

/-- ENGAGE of axis `n` clears at the cut after its slot was left empty (R236), parked axes apart (R539). -/
def State.camRelease (s : State) (n : Nat) : State :=
  if !(s.mot n).setEmpty || s.parkedOut n then s
  else ((s.modMot n (fun m => { m with setEmpty := false, tgtWritten := false })).put (CAM_AX_CTRL.ENGAGE n) 0).raise 0x0604

/-- D1's work at a cut for the used axes, and for every axis that a cam was to lead. -/
def State.axesCut (s : State) : State := (s.each s.usedAxes State.axisCut).each (List.range 12) State.camRelease

/-! ### The snapshot -/

/-- The table index of the engine whose list serves axis `n` in the frame that the cut opens, if it runs one. -/
def State.runner (s : State) (n : Nat) : Option Nat :=
  match s.servingEngine n with
  | some e => if s.willRun e && !s.axisParked n then some e else none
  | none => none

/-- A word for the axis's input words reaches its engine (R141). -/
def State.giveInput (s : State) (n i : Nat) (w : Word) : State :=
  match s.runner n, s.axisEntry n with
  | some e, some x => s.takeInput e (16 * x.pos + i) w
  | _, _ => s

/-- The lowest index that a mask of pending indices holds (R204). -/
def lowestIndex (m : Nat) : Option Nat := (List.range 31).find? (fun i => m.testBit i)

/-- SNAP1.STOP of axis `n` (R195). -/
def State.stopRequest (s : State) (n : Nat) : Bool :=
  s.flag (AX_CTRL.STOP n) || s.isSafe n || (s.sys.mode == .service && !s.bitOf MGT_SVC_PERMIT.AX n)

/-- SNAP1 of axis `n` (R203, R205, R238, R311). -/
def State.snap1 (s : State) (n : Nat) : Word :=
  let m := s.mot n
  let b (x : Bool) (k : Nat) : Nat := x.toNat * 2 ^ k
  u32 (s.fld (AX_CTRL.MODE n) + b (s.stopRequest n) 2 + b (s.flag (AX_CTRL.HALT n) || m.bootLeft != 0) 3
    + b (s.flag (AX_CTRL.SRC n)) 4 + b (s.flag (AX_CTRL.SOFT_EN n)) 5 + b m.setpos.isSome 6 + b m.markUnc 7
    + (s.word (CAM_AX_CTRL n)).toNat % 256 * 2 ^ 16 + (s.word (LAS_AX_CTRL n)).toNat % 16 * 2 ^ 24
    + b (m.limRef && !m.limDone) 28 + b m.limOpp 29 + b m.homeStart 30)

/-- No engine serves axis `n` any more: it is parked (R539), or its engine stays FAULTED (R540). -/
def State.engineGone (s : State) (n : Nat) : Bool :=
  s.axisParked n || (match s.servingEngine n with | some e => s.engState e == stFaulted | none => false)

/-- The register snapshot of axis `n` for the frame that the cut opens (R116, R203, R204, R627). AXn_TARGET takes the
value of a SETPOS in the snapshot that delivers it (DEDUCED: log entry 106). -/
def State.snapshot (s : State) (n : Nat) : State :=
  let m := s.mot n
  match s.runner n with
  | none =>
    let s := { s with intg := { s.intg with lastParam := Tbl.mod s.intg.lastParam n (fun _ => none) } }
    if m.markUnc && s.engineGone n then
      (s.put (AX_STAT.UNCERTAIN n) 1).modMot n (fun m => { m with markUnc := false })
    else s
  | some _ =>
    let w1 := s.snap1 n
    let w0 := match m.setpos with
      | some v => v
      | none => if s.fld (AX_CTRL.MODE n) = 1 then s.word (AX_VTARGET n) else s.word (AX_TARGET n)
    let ix := lowestIndex (s.fld (AX_PARAM_STAT.PEND n))
    let w3 := match ix with | some i => s.word (paramReg n i) | none => 0
    let s := ((s.giveInput n 0 w0).giveInput n 1 w1).giveInput n 2 (u32 (ix.getD 0x1F)) |>.giveInput n 3 w3
    let s := match m.setpos with
      | some v => (s.setTarget n v).put (AX_PARAM_STAT.SETPOS_PEND n) 0
      | none => s
    let s := match ix with | some i => s.putBit (AX_PARAM_STAT.PEND n) i false | none => s
    let s := { s with intg := { s.intg with lastParam := Tbl.mod s.intg.lastParam n (fun _ => ix) } }
    s.modMot n (fun m => { m with
      snap1 := w1, setpos := none, markUnc := false, homeStart := false, limOpp := false
      blocked := m.blocked && !m.fresh, fresh := false, idle := s.isSafe n || (s.mod n).bmode != 0
      driving := !s.isSafe n && (s.mod n).bmode == 0 && !s.firstWait n
      irun := if ix = some 8 then w3.toNat % 4096 else m.irun
      ihold := if ix = some 9 then w3.toNat % 4096 else m.ihold
      limDone := m.limDone || m.limRef
      corrMax := if ix = some 17 then w3.toNat % 8 else m.corrMax
      bootLeft := match ix with
        | some i => if m.bootLeft.testBit i then m.bootLeft - 2 ^ i else m.bootLeft
        | none => m.bootLeft })

/-! ### Master values and feedback -/

/-- A local master's value for slave `n` (R217, R218). -/
def State.masterDelivery (s : State) (n : Nat) : State :=
  if s.fld (CAM_AX_BIND.SRC n) = 1 then
    let a := s.fld (CAM_AX_BIND.AXIS n)
    if s.flag (AX_STAT.UNCERTAIN a) then s
    else (s.giveInput n 12 (s.word (AX_POS a))).giveInput n 13 (checkWord (s.word (AX_POS a)) s.clk.frames.toNat)
  else s

/-- D4's two words for axis `n` (R366). While VIO is low they stay untagged (R584). -/
def State.feedbackDelivery (s : State) (n : Nat) : State :=
  match s.feedback n with
  | some (a, b) => if s.vioOk then (s.giveInput n 8 a).giveInput n 9 b else s
  | none => s

/-- The committed VEL of axis `n` reaches its engine, sign-extended, with the committed state (R286). -/
def State.giveVel (s : State) (n : Nat) : State :=
  match s.runner n, s.axisEntry n with
  | some e, some x => s.modEng e (fun g => { g with vels := Tbl.mod g.vels x.pos (fun _ => wrd (s.mod n).vel) })
  | _, _ => s

/-- The commanded angle of axis `n` at the samples of the frame that opens, and its VEL (R286). -/
def State.sampleAngle (s : State) (n : Nat) : Nat × Int :=
  let v := (s.mod n).vel
  (((((s.mod n).beta : Int) + v * Config.sofs s.reel.active.hdr.take.toNat n / s.frameLen) % 2 ^ 20).toNat, v)

/-- D6's committed-state word for axis `n`, and the VEL that goes with it (R267, R286). -/
def State.committedDelivery (s : State) (n : Nat) : State :=
  ((s.giveInput n 14 (s.committedWord n)).giveVel n).modMot n (fun m => { m with opened := s.sampleAngle n })

end Sys2Proof.Machine
end

