-- ==== Sys2Proof/Machine/Adc.lean ====
section
/-!
DEFINITION. The converters and their sampling slots (chapter 11).
-/
namespace Sys2Proof.Machine

/-! ### Cores and channels -/

def State.core (s : State) (k : Nat) : AdcCore := Tbl.get {} s.adc.cores k
def State.modCore (s : State) (k : Nat) (f : AdcCore → AdcCore) : State :=
  { s with adc := { s.adc with cores := Tbl.mod s.adc.cores k f } }
def State.unit (s : State) (u : Nat) : AdcUnit := Tbl.get {} s.adc.units u
def State.modUnit (s : State) (u : Nat) (f : AdcUnit → AdcUnit) : State :=
  { s with adc := { s.adc with units := Tbl.mod s.adc.units u f } }

/-- The filter unit of a channel: the channel itself, or sensor `sensor` for channel 49 (R396). -/
def adcUnit (ch sensor : Nat) : Nat := if ch = 49 then 56 + sensor else ch

/-- The filter length in effect of a unit (R396, R407). -/
def State.unitFilt (s : State) (u : Nat) : Nat :=
  if u < 56 then s.fld (ADC_CH_CFG.FILT u) else s.fld (ADC_TS_CFG.FILT (u - 56))

/-- ADC_CHn_CNT.SETTLE of a unit (R407): for channel 49 the highest over the sensors. -/
def State.showSettle (s : State) (u : Nat) : State :=
  let left (v : Nat) : Nat := (s.unit v).gainLeft + (s.unit v).filtLeft
  if u < 56 then s.put (ADC_CH_CNT.SETTLE u) (left u)
  else s.put (ADC_CH_CNT.SETTLE 49) (max (max (left 56) (left 57)) (max (left 58) (left 59)))

/-- Core `k` is declared failed (R402, R403): a calibration that it waits for does not come. With AD5 substituting or
failed, no spare is left. -/
def State.coreFail (s : State) (k : Nat) : State :=
  if s.flag (ADC_CORE_CHK.FAILED k) then s
  else
    let s := ((s.put (ADC_CORE_CHK.FAILED k) 1).putBit ADC_STAT.CORE_OK k false).modCore k
      (fun c => { c with failedNow := true, calWaits := false })
    let s := s.putBit ADC_STAT.CAL_BUSY k (s.core k).calRuns
    if s.flag ADC_STAT.SUB then
      let j := if k = 5 then s.fld ADC_STAT.SUB_FOR else k
      ((s.raise 0x0B03 k).safeCause 4).modCore j (fun c => { c with uncovered := true })
    else if k < 5 && s.flag (ADC_CORE_CHK.FAILED 5) then
      ((s.raise 0x0B03 k).safeCause 4).modCore k (fun c => { c with uncovered := true })
    else s

/-- Core `k` was declared failed in a frame before this one: it is never used again (R402). -/
def State.coreGone (s : State) (k : Nat) : Bool := s.flag (ADC_CORE_CHK.FAILED k) && !(s.core k).failedNow

/-- The core that carries the slots of core `k` (R400, R403). -/
def State.carrier (s : State) (k : Nat) : Nat :=
  if (s.flag ADC_STAT.SUB && s.fld ADC_STAT.SUB_FOR == k) || s.adc.standFor == some k then 5 else k

/-! ### Results -/

/-- The correction of a raw code (R395): the value, and whether it saturated. -/
def State.correct (s : State) (core ch sensor : Nat) (r : Nat) : Int × Bool :=
  let x : Int := ((r : Int) - 2048) * 16
  let t := s.word (ADC_CORE_TRIM core)
  let y := shr ((x - (t.extractLsb' 0 16).toInt) * (t.extractLsb' 16 16).toInt) 14
  let c : Word := if ch = 54 || ch = 55 then 0x40000000 else if ch = 49 then s.word (ADC_TS_CORR sensor)
                  else s.word (ADC_CH_CORR ch)
  let v := shr ((y - (c.extractLsb' 0 16).toInt) * (c.extractLsb' 16 16).toInt + 8192) 14
  (clampZ (-32767) 32767 v, decide (v < -32767) || decide (32767 < v))

/-- A saturated result (R395, R406). -/
def State.clip (s : State) (ch : Nat) : State :=
  let s := s.bump (ADC_CH_CNT.CLIP ch) 1
  if s.adc.clipSeen then s else ({ s with adc := { s.adc with clipSeen := true } }).raise 0x0B06 ch

/-- The result word of R142. -/
def resultWord (v : Int) (valid settle disabled : Bool) : Word :=
  ((BitVec.ofInt 16 v).setWidth 32) ||| u32 (valid.toNat * 2 ^ 16 + settle.toNat * 2 ^ 17 + disabled.toNat * 2 ^ 18)

/-- A result without a stated VALUE, and with VALID = 0. -/
def State.openResult (s : State) (settle disabled : Bool) : Word × State :=
  let d := s.draw
  (resultWord (d.1.setWidth 16).toInt false settle disabled, d.2)

/-- A corrected scheduled conversion enters the filter of its unit (R396, R397): the delivered word. A gain change's
conversions do not enter the history; with an empty history the mean has no stated value. -/
def State.filter (s : State) (u : Nat) (v : Int) (ok : Bool) : Word × State :=
  let n := s.unitFilt u
  let x := s.unit u
  let settle := decide (0 < x.gainLeft) || decide (0 < x.filtLeft)
  let h := if 0 < x.gainLeft then x.hist else (x.hist ++ [v]).drop ((x.hist.length + 1) - max 1 n)
  let s := (s.modUnit u (fun y =>
    if 0 < y.gainLeft then { y with gainLeft := y.gainLeft - 1 }
    else { y with hist := h, filtLeft := y.filtLeft - 1 })).showSettle u
  if n ≤ 1 then (resultWord v (ok && !settle) settle false, s)
  else if h.isEmpty then s.openResult settle false
  else
    let k := h.length
    (resultWord ((h.foldl (· + ·) 0 + (k / 2 : Nat)) / k) (ok && !settle) settle false, s)

/-- A scheduled conversion of a channel on core `core` ends with raw code `r`, or does not complete (R389, R395 to R398,
R402): the result word. -/
def State.convert (s : State) (core ch sensor : Nat) (r : Option (BitVec 12)) : Word × State :=
  let u := adcUnit ch sensor
  match r with
  | none =>
    let s := (s.raise 0x0B04 core).coreFail core
    let settle := decide (0 < (s.unit u).gainLeft) || decide (0 < (s.unit u).filtLeft)
    s.openResult settle false
  | some r =>
    let v := s.correct core ch sensor r.toNat
    (s.when v.2 (fun s => s.clip ch)).filter u v.1 (!(s.core core).failedNow)

/-- The last result of a channel or sensor (R392, R407). -/
def State.setLast (s : State) (ch sensor : Nat) (w : Word) : State :=
  if ch = 49 then s.setWord (ADC_TS_LAST sensor) w else s.setWord (ADC_CH_LAST ch) w

/-! ### Delivery -/

/-- The axis, phase and kind of a current or phase-voltage channel (R79, R386): true for phase B, true for a voltage. -/
def State.channelAxis (s : State) (ch : Nat) : Option (Nat × Bool × Bool) :=
  if ch < 8 then
    match s.reel.struct.bridges.find? (fun b => !b.light && (b.sense % 16 == ch || b.sense / 16 == ch)) with
    | some b => some (b.axis, b.sense % 16 != ch, false)
    | none => none
  else if ch < 24 then some (4 + (ch - 8) / 2, (ch - 8) % 2 == 1, false)
  else if ch < 32 then some ((ch - 24) / 2, (ch - 24) % 2 == 1, true)
  else if ch < 48 then some (4 + (ch - 32) / 2, (ch - 32) % 2 == 1, true)
  else none

/-- The unit to which a word for the list of engine `e` goes (R127). -/
def State.listUnit (s : State) (e : Nat) : Nat := engUnit (s.listTable e)

/-- A result is launched toward the engines (R141, R392). -/
def State.toEngines (s : State) (ch sensor : Nat) (w : Word) : State :=
  match s.channelAxis ch with
  | some (n, b, volt) =>
    match s.axisEntry n with
    | some x => s.launch ⟨5, s.listUnit x.engine⟩ (.input (16 * x.pos + 4 + (if volt then 2 else 0) + b.toNat) w)
    | none => s
  | none =>
    let i := if ch = 48 then 48 else if ch = 49 then 49 + sensor else 53 + (ch - 50)
    let used := (List.range 8).filter (fun e => s.reel.struct.engines.any (fun x => x.engine == e))
    if ch < 48 then s else s.each used (fun s e => s.launch ⟨5, s.listUnit e⟩ (.input i w))

/-- A result is launched toward D6 (R392). A shunt of no bridge has no current loop there. -/
def State.toD6 (s : State) (ch sensor : Nat) (w : Word) : State :=
  match s.channelAxis ch with
  | some (n, b, _) => s.launch ⟨5, 6⟩ (.sample n b.toNat w)
  | none => if ch = 48 || ch = 49 then s.launch ⟨5, 6⟩ (.power (if ch = 49 then 49 + sensor else ch) w) else s

/-- The word that an interleaved slot delivers to an engine (R394). -/
def pairWord (a b : Word) : Word :=
  let v (w : Word) : Int := (w.extractLsb' 0 16).toInt
  resultWord ((v a + v b) / 2) (a.getLsbD 16 && b.getLsbD 16) (a.getLsbD 17 || b.getLsbD 17) (a.getLsbD 18 || b.getLsbD 18)

/-- Slot `i`'s scheduled or partner conversion ends (R389 to R398). A disabled channel's slots are not converted, and
the slots of a core without a spare deliver results that are not valid (R403, R404). -/
def State.slotEnd (s : State) (i : Nat) (t : Slot) (partner : Bool) (r : Option (BitVec 12)) : State :=
  if !s.flag (ADC_CH_CFG.EN t.channel) || (partner && !t.interleave) then s
  else
    let own := if partner then t.core + 1 else t.core
    let core := s.carrier own
    let p := if (s.core own).uncovered || s.coreGone core then s.openResult false false
             else s.convert core t.channel t.gain r
    let w := p.1
    let s := p.2.setLast t.channel t.gain w
    let s := if t.dest = 0 then s else s.toD6 t.channel t.gain w
    if t.dest = 1 then s
    else if !t.interleave then s.toEngines t.channel t.gain w
    else if !partner then { s with adc := { s.adc with half := Assoc.put s.adc.half i w } }
    else
      match Assoc.get s.adc.half i with
      | some a => ({ s with adc := { s.adc with half := Assoc.del s.adc.half i } }).toEngines t.channel t.gain (pairWord a w)
      | none => s

/-- ADC_SLOT: a conversion of slot `i` of the schedule ends with raw code `r`, or is not complete at its slot end
(R389). -/
def execAdcSlot (i : Fin 256) (partner : Bool) (r : Option (BitVec 12)) (s : State) : Out :=
  whenPowered s fun s =>
    match s.reel.struct.slots[i.val]? with
    | some t => if s.sys.mode.lists then s.slotEnd i t partner r else s
    | none => s

/-- STANDBY_CONVERSION: VBAT, then T0 to T3, on AD4 in STANDBY (R405), delivered to D6 only. -/
def execStandbyConversion (j : Fin 5) (r : Option (BitVec 12)) (s : State) : Out :=
  whenPowered s fun s =>
    let ch := if j.val = 0 then 48 else 49
    let sensor := j.val - 1
    let core := s.carrier 4
    if s.sys.mode != .standby || !s.flag (ADC_CH_CFG.EN ch) then s
    else
      let p := if (s.core 4).uncovered || s.coreGone core then s.openResult false false else s.convert core ch sensor r
      (p.2.setLast ch sensor p.1).toD6 ch sensor p.1

/-! ### Reference checks -/

/-- A reference check of core `k` ends with value `v` (R402). -/
def State.refJudge (s : State) (k : Nat) (v : Int) (expected : Int) : State :=
  let s := s.put (ADC_CORE_CHK.LAST k) (BitVec.ofInt 16 v).toNat
  if 64 < (v - expected).natAbs then
    let s := ((s.bump (ADC_CORE_CHK.TOTAL k) 1).put (ADC_CORE_CHK.FAILS k) (min 2 (s.fld (ADC_CORE_CHK.FAILS k) + 1))).raise
      0x0B01 k
    if s.fld (ADC_CORE_CHK.FAILS k) = 2 then s.coreFail k else s
  else s.put (ADC_CORE_CHK.FAILS k) 0

/-- REF_CHECK: core `k` converts a reference in its free window (R402). -/
def execRefCheck (k : Fin 6) (r : Option (BitVec 12)) (s : State) : Out :=
  whenPowered s fun s =>
    let f := s.clk.frames.toNat
    let c := s.core k
    if !s.sys.mode.lists || f % 64 != k.val || s.flag (ADC_CORE_CHK.FAILED k) || c.calRuns
        || (k.val == 5 && !s.flag ADC_STAT.SUB) then s
    else
      match r with
      | none => (s.raise 0x0B04 k).coreFail k
      | some r =>
        let hi := f / 64 % 2 == 1
        let ch := if hi then 55 else 54
        let v := s.correct k ch 0 r.toNat
        (s.when v.2 (fun s => s.clip ch)).refJudge k v.1 (if hi then 24576 else 0)

/-! ### Injected conversions -/

/-- The channel is absent on the variant (R387). -/
def State.channelAbsent (s : State) (ch : Nat) : Bool :=
  match s.part with
  | .itx1216 => false
  | .itx1208l => ch < 8 || (24 ≤ ch && ch < 32)
  | .itx1204h => (8 ≤ ch && ch < 24) || (32 ≤ ch && ch < 48)

/-- A write of ADC_INJ is refused (R399, R407). -/
def State.injectRefused (s : State) (v : Word) : Bool :=
  let ch := v.toNat % 64
  let core := v.toNat / 4096 % 8
  decide (55 < ch) || s.channelAbsent ch || (ch != 49 && v.toNat / 256 % 4 != 0) || decide (5 < core)
    || (v.getLsbD 16 && (s.flag ADC_INJ.BUSY || !s.flag (ADC_CH_CFG.EN ch) || s.flag (ADC_CORE_CHK.FAILED core)
        || (core == 5 && s.flag ADC_STAT.SUB)))

/-- A calibration of core `k` waits, runs, or has ended without the core serving its slots again yet (R400). -/
def State.calHolds (s : State) (k : Nat) : Bool :=
  let c := s.core k
  c.calWaits || c.calRuns || c.trim.isSome || s.adc.standFor == some k

/-- An injected conversion for core `k` is pending, before a calibration of the core that waits (R400). -/
def State.injFirst (s : State) (k : Nat) : Bool :=
  match s.adc.inj with
  | some x => x.core == k && !x.after
  | none => false

/-- The calibration of core `k` starts (R400). -/
def State.calStart (s : State) (k : Nat) : State := s.modCore k (fun c => { c with calWaits := false, calRuns := true })

/-- A write of ADC_INJ (R399, R407). -/
def State.writeInj (s : State) (v : Word) : State :=
  if s.injectRefused v then s.refuse
  else
    let s := ((s.put ADC_INJ.CHANNEL (v.toNat % 64)).put ADC_INJ.MEMBER (v.toNat / 256 % 4)).put ADC_INJ.CORE
      (v.toNat / 4096 % 8)
    let s := s.when (v.getLsbD 18) (fun s => s.put ADC_INJ.DONE 0)
    if v.getLsbD 16 then
      let core := v.toNat / 4096 % 8
      ({ s with adc := { s.adc with
        inj := some ⟨v.toNat % 64, v.toNat / 256 % 4, core, s.calHolds core⟩ } }).put ADC_INJ.BUSY 1
    else s

/-- INJECT: a write of ADC_INJ with START (R399); `v` holds the other bits of the word. -/
def execInject (v : Word) (s : State) : Out :=
  hostAccess s ADC_INJ (some (v ||| 0x10000#32)) (fun s => s.writeInj (v ||| 0x10000#32))

/-- The injected conversion `x` ends (R399): the result, and AD5's calibration that waited for it (R400). -/
def State.injDone (s : State) (x : AdcInj) (r : Option (BitVec 12)) : State :=
  let u := s.unit (adcUnit x.channel x.sensor)
  let settle := decide (0 < u.gainLeft) || decide (0 < u.filtLeft)
  let off := !s.flag (ADC_CH_CFG.EN x.channel)
  let p := match r with
    | none => ((s.raise 0x0B04 x.core).coreFail x.core).openResult settle off
    | some r =>
      let v := s.correct x.core x.channel x.sensor r.toNat
      let ok := !s.flag (ADC_CORE_CHK.FAILED x.core) && !settle && !off
      (resultWord v.1 ok settle off, s.when v.2 (fun s => s.clip x.channel))
  let s := ((p.2.setWord ADC_INJ_RES p.1).put ADC_INJ.DONE 1).put ADC_INJ.BUSY 0
  let s := { s with adc := { s.adc with inj := none } }
  s.when (x.core == 5 && (s.core 5).calWaits) (fun s => s.calStart 5)

/-- INJECT_RUN: the injected conversion runs in the first free window of its core (R399). One that was requested behind a
calibration waits until the core serves its slots again (R400), and a core that failed before is not used (R402). -/
def execInjectRun (r : Option (BitVec 12)) (s : State) : Out :=
  whenPowered s fun s =>
    match s.adc.inj with
    | some x => if (x.after && s.calHolds x.core) || s.coreGone x.core then s else s.injDone x r
    | none => s

/-! ### Calibration -/

/-- A calibration of core `k` waits or runs. -/
def AdcCore.calBusy (c : AdcCore) : Bool := c.calWaits || c.calRuns

/-- A write to ADC_CAL.START is refused (R400). -/
def State.calRefused (s : State) (m : Nat) : Bool :=
  (List.range 5).any (fun k => m.testBit k && !(s.core k).calBusy
    && (s.flag ADC_STAT.SUB || (s.adc.standFor.isSome && s.adc.standFor != some k)))

/-- A write to ADC_CAL (R400, R407). A failed core is never used again (R402). AD5 calibrates in its next free window,
whether or not it carries slots: that is at once, but for an injected conversion of its own. -/
def State.writeCal (s : State) (v : Word) : State :=
  let m := v.toNat % 64
  if s.calRefused m then s.refuse
  else
    let s := s.put ADC_CAL.DONE (s.fld ADC_CAL.DONE &&& (63 - v.toNat / 2 ^ 16 % 64))
    s.each ((List.range 6).filter (fun k => m.testBit k && !(s.core k).calBusy && !s.flag (ADC_CORE_CHK.FAILED k)))
      (fun s k =>
        let s := (s.modCore k (fun c => { c with calWaits := true })).putBit ADC_STAT.CAL_BUSY k true
        if k = 5 && !s.adc.inj.any (fun x => x.core == 5) then s.calStart 5 else s)

/-- CAL_REQUEST: a write to ADC_CAL.START (R400). -/
def execCalRequest (m : BitVec 6) (s : State) : Out :=
  hostAccess s ADC_CAL (some (m.setWidth 32)) (fun s => s.writeCal (m.setWidth 32))

/-- The quotient `a / b` of a positive divisor, rounded to the nearest integer; a tie is open. -/
def State.roundQ (s : State) (a b : Int) : Int × State :=
  let q := (2 * a + b) / (2 * b)
  if (2 * a + b) % (2 * b) = 0 then
    let d := s.draw
    (q - (d.1.setWidth 1).toNat, d.2)
  else (q, s)

/-- The trims of a calibration from the sums of 32 raw codes of REF_MID and of REF_HI (R401): none outside the limits.
The mean of REF_MID is kept to the nearest whole unit. -/
def State.calTrims (s : State) (mid hi : Nat) : Option (Int × Int) × State :=
  let sumX (m : Nat) : Int := ((m : Int) - 32 * 2048) * 16
  let ofs := s.roundQ (sumX mid) 32
  let s := ofs.2
  let span := sumX hi - 32 * ofs.1
  if 512 < ofs.1.natAbs || decide (span ≤ 0) then (none, s)
  else
    let g := s.roundQ (16384 * 24576 * 32) span
    (if 15565 ≤ g.1 && g.1 ≤ 17203 then some (ofs.1, g.1) else none, g.2)

/-- An injected conversion that waited for the calibration of core `k` may run (R400), unless another one runs. -/
def State.injRelease (s : State) (k : Nat) : State :=
  if (s.core k).calRuns then s
  else { s with adc := { s.adc with inj := s.adc.inj.map (fun x => if x.core = k then { x with after := false } else x) } }

/-- New trims of core `k` take effect, and it serves its own slots again (R400): not one declared failed meanwhile
(R402). -/
def State.calEffect (s : State) (k : Nat) : State :=
  let s := match (s.core k).trim with
    | some (o, g) =>
      let s := s.when (!s.flag (ADC_CORE_CHK.FAILED k)) (fun s =>
        ((s.put (ADC_CORE_TRIM.OFS k) (BitVec.ofInt 16 o).toNat).put (ADC_CORE_TRIM.GAIN k) (BitVec.ofInt 16 g).toNat).putBit
          ADC_STAT.CORE_OK k true)
      s.modCore k (fun c => { c with trim := none })
    | none => s
  s.injRelease k

/-- CAL_DONE: the 64 conversions of a calibration have ended; `mid` and `hi` are the sums of the raw codes (R401). In
BOOT the trims take effect at once. -/
def execCalDone (k : Fin 6) (mid hi : Nat) (s : State) : Out :=
  whenPowered s fun s =>
    if !(s.core k).calRuns then s
    else
      let s := ((s.modCore k (fun c => { c with calRuns := false })).putBit ADC_STAT.CAL_BUSY k false).putBit ADC_CAL.DONE k true
      let t := s.calTrims mid hi
      match t.1 with
      | none => (t.2.raise 0x0B05 k).coreFail k
      | some x =>
        let s := t.2.modCore k (fun c => { c with trim := some x })
        if s.sys.mode = .boot then s.calEffect k else s

/-- Every core is calibrated in parallel in BOOT (R401). -/
def State.calBoot (s : State) : State :=
  s.each (List.range 6) (fun s k => (s.calStart k).putBit ADC_STAT.CAL_BUSY k true)

/-! ### The converters at a cut -/

/-- Core `k` serves its own slots again after a calibration that has ended (R400): its new trims take effect, and an
injected conversion that waited for this may run. -/
def State.calResume (s : State) (k : Nat) : State :=
  let ended := s.adc.standFor == some k && !(s.core k).calRuns
  if !(s.core k).trim.isSome && !ended then s
  else (s.calEffect k).when ended
    (fun s => ({ s with adc := { s.adc with standFor := none } }).put ADC_STAT.CAL_STANDIN 0)

/-- AD5 takes over the slots of core `k` if it has failed (R403), or no spare is left for it. -/
def State.takeCore (s : State) (k : Nat) : State :=
  if !s.flag (ADC_CORE_CHK.FAILED k) || (s.core k).uncovered || (s.flag ADC_STAT.SUB && s.fld ADC_STAT.SUB_FOR == k) then s
  else if s.flag ADC_STAT.SUB || s.flag (ADC_CORE_CHK.FAILED 5) then
    ((s.raise 0x0B03 k).safeCause 4).modCore k (fun c => { c with uncovered := true })
  else (((s.put ADC_STAT.SUB 1).put ADC_STAT.SUB_FOR k).raise 0x0B02 k).putBit INT_DEG_CAUSE.CAUSE 5 true

/-- AD5 stands in for core `k`, whose calibration starts (R400), if it waits and nothing comes before it. -/
def State.calNext (s : State) (k : Nat) : State :=
  if (s.core k).calWaits && !s.injFirst k && s.adc.standFor.isNone && !s.flag ADC_STAT.SUB && !(s.core 5).calRuns
      && !s.flag (ADC_CORE_CHK.FAILED 5) && !s.flag (ADC_CORE_CHK.FAILED k) then
    (({ s with adc := { s.adc with standFor := some k } }).put ADC_STAT.CAL_STANDIN 1).calStart k
  else s

/-- APPLY step 3 (R400, R403): trims take effect, AD5 takes over a failed core or stands in for a calibration. -/
def State.adcApply (s : State) : State :=
  let s := s.each (List.range 6) State.calResume
  (s.each (List.range 5) State.takeCore).each (List.range 5) State.calNext

/-- A new frame begins for the converters. -/
def State.adcFrame (s : State) : State :=
  { s with adc := { s.adc with
      clipSeen := false, half := []
      cores := s.adc.cores.map (fun (c : AdcCore) => { c with failedNow := false }) } }

/-- A unit's history is cleared and a settling interval starts (R397, R404). -/
def State.resettle (s : State) (u gain filt : Nat) : State :=
  (s.modUnit u (fun _ => { hist := [], gainLeft := gain, filtLeft := filt })).showSettle u

/-- A settling interval after ADC_CHn_CFG or ADC_TSk_CFG has changed in APPLY (R397, R404). `old` is the value before.
Conversions that a change of gain made while the channel was disabled has left are still to come. -/
def State.adcApplied (s : State) (a : Nat) (old : Word) : State :=
  let new := s.word a
  let filt (w : Word) : Nat := w.toNat / 16 % 32
  if 0x10A200 ≤ a && a < 0x10A580 && a % 16 = 0 then
    let ch := (a - 0x10A200) / 16
    let scaled := ch < 8 || (24 ≤ ch && ch < 48)
    let g := decide (old.toNat / 2 % 4 ≠ new.toNat / 2 % 4)
    if !old.getLsbD 0 && new.getLsbD 0 then
      if ch = 49 then s.each [56, 57, 58, 59] (fun s u => s.resettle u 0 (s.unitFilt u))
      else s.resettle ch (if scaled || g then 2 else (s.unit ch).gainLeft) (filt new)
    else if ch = 49 then s
    else
      let f := decide (filt old ≠ filt new)
      if !g && !f then s
      else s.resettle ch (if g then 2 else (s.unit ch).gainLeft) (if f then filt new else (s.unit ch).filtLeft)
  else if 0x10A600 ≤ a && a < 0x10A640 && a % 16 = 8 then
    let u := 56 + (a - 0x10A600) / 16
    if filt old = filt new then s else s.resettle u (s.unit u).gainLeft (filt new)
  else s

/-- On entry to STANDBY every history but those of VBAT and the sensors is cleared (R405). -/
def State.adcStandby (s : State) : State :=
  s.each ((List.range 56).filter (fun u => u != 48)) (fun s u => s.modUnit u (fun x => { x with hist := [] }))

/-- The filter settings of the slots, loaded at the end of BOOT (R407), and the factory trims (R395). -/
def State.adcLoad (s : State) : State :=
  let s := s.each s.reel.struct.slots (fun s t =>
    if t.channel = 49 then s.put (ADC_TS_CFG.FILT t.gain) t.filter
    else (s.put (ADC_CH_CFG.GAIN t.channel) t.gain).put (ADC_CH_CFG.FILT t.channel) t.filter)
  let chs := (List.range 56).filter (fun c => c != 49 && !s.channelAbsent c)
  let s := s.each chs (fun s c => s.setWord (ADC_CH_CORR c) (Config.factoryTrim c))
  s.each (List.range 4) (fun s k => s.setWord (ADC_TS_CORR k) (Config.factoryTrim (56 + k)))

end Sys2Proof.Machine
end

