-- ==== Sys2Proof/Machine/Chn.lean ====
section
/-!
DEFINITION. The Edduwin chain: the clap and the placing of a slave's cut, the chain window, the records and their
checks, and the delivery of remote master values (chapter 14).
-/
namespace Sys2Proof.Machine

/-- The codes of CHN_STAT.STATE (R480). -/
def chOff : Nat := 0
def chAcquire : Nat := 1
def chLocked : Nat := 2
def chHoldover : Nat := 3
def chLost : Nat := 4

/-- The chain state (R480). -/
def State.chState (s : State) : Nat := s.fld CHN_STAT.STATE

/-- The device transmits and receives records (R480); a chain master does so while enabled. -/
def State.chActive (s : State) : Bool := s.vioOk && (s.chState == chLocked || s.chState == chHoldover)

/-- The cause CHAIN of DEGRADED (R543). -/
def State.chainCause (s : State) (b : Bool) : State := s.putBit INT_DEG_CAUSE.CAUSE 7 b

/-! ### Claps -/

/-- The predicted cut of the frame (R478). -/
def State.chPredicted (s : State) : Slate := s.clk.lastCut + BitVec.ofNat 48 s.frameLen

/-- The clap correction limit ADJ, in ticks (R478). -/
def State.chAdj (s : State) : Nat := s.fld CHN_CFG.ADJ

/-- CLAP: the master raises its pin 128 ticks before its cut (R477). -/
def execClap (s : State) : Out :=
  whenPowered s fun s =>
    if s.clk.cutsOn && s.sys.cascM && s.flag CHN_CTRL.EN && s.vioOk then
      let s := s.advanceTo (s.clk.nextCut - 128)
      { s with chn := { s.chn with clapAt := some s.clk.slate } }
    else s

/-- The pin CLAP (R477, R496, R599): driven by the master of a device that is powered, high for 32 ticks from each clap
and low else; high-impedance in OFF, reset and SLEEP, and for a slave, whose input it is. -/
def State.clapPin (s : State) : PinLevel :=
  if s.sys.inReset || !s.pinsLive || !s.sys.cascM then .hiZ
  else match s.chn.clapAt with
    | some t => if (s.clk.slate - t).toNat < 32 then .high else .low
    | none => .low

/-- A slave becomes LOCKED (R480, R543). -/
def State.chLock (s : State) : State :=
  let s := s.put CHN_STAT.STATE chLocked
  let s := { s with chn := { s.chn with lost := false } }
  if s.flag CHN_STAT.TX_OFF then s else s.chainCause false

/-- The state that a clap with phase error `e` leads to (R480). -/
def State.chJudge (s : State) (e : Int) : State :=
  let fits := decide (e.natAbs ≤ 2)
  let far := decide (s.chAdj < e.natAbs)
  let s := { s with chn := { s.chn with good := if fits then min 8 (s.chn.good + 1) else 0 } }
  let st := s.chState
  if st = chAcquire then (if s.chn.good = 8 then s.chLock else s)
  else if st = chLocked then (if far then (s.put CHN_STAT.STATE chAcquire).raise 0x1303 else s)
  else if st = chHoldover && far then (s.put CHN_STAT.STATE chAcquire).raise 0x1303
  else if fits then s.chLock
  else s.put CHN_STAT.STATE chAcquire

/-- The interval from the last clap, and LEN adopted from four that agree (R482). Where they differ by up to 2 ticks,
which of them is "the measured interval" is open. -/
def State.chMeasure (s : State) : State :=
  let now := s.clk.slate
  let ivs := match s.chn.lastClap with
    | some t => ((now - t).toNat :: s.chn.intervals).take 4
    | none => []
  let s := { s with chn := { s.chn with lastClap := some now, intervals := ivs } }
  let len := s.frameLen
  let top := ivs.foldl max 0
  let low := ivs.foldl min top
  let apart (i : Nat) : Bool := decide (len + s.chAdj < i) || decide (i + s.chAdj < len)
  if s.chState = chAcquire && s.sys.mode == .standby && ivs.length = 4 && ivs.all apart && top ≤ low + 2 then
    let d := s.draw
    let iv := Tbl.get 0 ivs (d.1.toNat % 4)
    let s := d.2
    if 800 ≤ iv && iv ≤ 16000 && s.fld REEL_LEN.MIN_LEN + s.chAdj ≤ iv then s.await CLK_FRAME_LEN (u32 iv) else s
  else s

/-- A slave places its next cut on a clap (R478). A clap recognised after P - 92 comes too late for the cut of its
frame. A jump that would come less than 800 ticks after the last cut leaves the cut at P, and the next clap is used. -/
def State.chPlace (s : State) (e : Int) (cut : Slate) (jump : Bool) : State :=
  let p := s.chPredicted
  if !(s.clk.phase == .frame || s.clk.phase == .start) || s.chn.clapped then s
  else
    let far := 800 ≤ (cut - s.clk.lastCut).toNat && (cut - s.clk.lastCut).toNat < 2 ^ 47
    let adj : Int := s.chAdj
    let d := if jump then (if far then e else 0) else clampZ (-adj) adj e
    { s with
      clk := { s.clk with nextCut := p + BitVec.ofInt 48 d }
      chn := { s.chn with clapped := !jump || far, applied := d } }

/-- CLAP_EDGE: a slave recognises a clap at its own slate (R478, R480, R482). -/
def execClapEdge (s : State) : Out :=
  whenPowered s fun s =>
    if !s.clk.cutsOn || s.sys.cascM || s.chState = chOff || !s.vioOk then s
    else
      let cut := s.clk.slate + 128 - BitVec.ofNat 48 (s.fld CHN_CFG.DLY)
      let e := (cut - s.chPredicted).toInt
      let jump := s.chState == chAcquire && s.sys.mode == .standby
      let s := (s.put CHN_PHASE.E (BitVec.ofInt 16 (satS 16 e)).toNat).chMeasure
      (s.chPlace e cut jump).chJudge e

/-- CLAP_MISS: a LOCKED slave has recognised no clap by P - 92 (R480). -/
def execClapMiss (s : State) : Out :=
  whenPowered s fun s =>
    if s.sys.cascM || s.chState ≠ chLocked || s.chn.clapped then s
    else
      let s := { s with chn := { s.chn with held := 0 } }
      (s.put CHN_STAT.STATE chHoldover).raise 0x1301

/-- CLAP_LOST: HOLDOVER has lasted CLAP_HOLD frames (R480, R543). -/
def execClapLost (s : State) : Out :=
  whenPowered s fun s =>
    if s.sys.cascM || s.chState ≠ chHoldover || s.chn.held < s.fld CHN_CTRL.CLAP_HOLD then s
    else
      let s := { s with chn := { s.chn with lost := true } }
      ((s.put CHN_STAT.STATE chLost).raise 0x1302).chainCause true

/-! ### The window and the records -/

/-- The ticks that a chain window lasts, rounded up, by a CHN_CFG word (R485): 68 N_D + 2 periods of 20 ns times DIV. -/
def chWindowTicks (cfg : Word) : Nat :=
  let n := CHN_CFG.NDEV.of cfg + 1
  let div := CHN_CFG.DIV.of cfg
  ((68 * n + 2) * (if div = 3 then 4 else div) * 8 + 4) / 5

/-- The check of a record (R487). -/
def recordCrc (l : List Byte) : Byte := BitVec.ofNat 8 (crcMsb 8 0x1D 0xFF l ^^^ 0xFF)

/-- The axis of slot `k` in a word of slots; none for 0xF. -/
def slotAxis (w : Word) (k : Nat) : Option Nat :=
  let a := w.toNat / 16 ^ k % 16
  if a < 12 then some a else none

/-- Bytes 0 to 14 of the device's record of the frame that a cut opens (R487, R488). -/
def State.buildRecord (s : State) : List Byte :=
  let g := s.clk.frames.toNat % 65536
  let pub := s.word CHN_PUB
  let ok (k : Nat) : Bool := match slotAxis pub k with
    | some a => !s.flag (AX_STAT.UNCERTAIN a)
    | none => false
  let valid := (List.range 4).foldl (fun v k => if ok k then v + 2 ^ k else v) 0
  let pos (k : Nat) : List Byte := match slotAxis pub k with
    | some a => if ok k then (wordBytes (s.word (AX_POS a))).take 3 else [0, 0, 0]
    | none => [0, 0, 0]
  [BitVec.ofNat 8 (g % 256), BitVec.ofNat 8 (g / 256), BitVec.ofNat 8 (valid + 16 * (pub.toNat / 16 ^ (g % 4) % 16))]
    ++ pos 0 ++ pos 1 ++ pos 2 ++ pos 3

/-- The record with slot `k` made invalid (R490). -/
def dropSlot (l : List Byte) (k : Nat) : List Byte :=
  let l := Tbl.mod l 2 (fun b => b &&& ~~~(1#8 <<< k))
  [0, 1, 2].foldl (fun l i => Tbl.mod l (3 + 3 * k + i) (fun _ => 0)) l

/-- CHAIN_WINDOW: the chain window opens (R484), and the device sends its record in its slot. `changed` names the slots
whose position arrived at D3 with a failing check (R490). A slave in ACQUIRE or LOST sends nothing, but the window is
open (R480, R494). -/
def execChainWindow (changed : BitVec 4) (s : State) : Out :=
  whenPowered s fun s =>
    if !s.clk.cutsOn || s.chState == chOff || !s.vioOk then s
    else
      let s := if s.sys.cascM then s.advanceTo (s.clk.lastCut + BitVec.ofNat 48 (s.fld CHN_CFG.WIN_OFS)) else s
      let s := { s with chn := { s.chn with
        sent := [], windowEnd := some (s.clk.slate + BitVec.ofNat 48 (chWindowTicks (s.word CHN_CFG))) } }
      if !s.chActive then s
      else
        let bad := (List.range 4).filter (fun k => changed.getLsbD k && (slotAxis (s.word CHN_PUB) k).isSome)
        let l := bad.foldl dropSlot s.chn.record
        let s := s.when (!bad.isEmpty) (fun s => s.raise 0x1309)
        let sends := !s.flag CHN_STAT.TX_OFF && s.chainPos ≤ s.fld CHN_CFG.NDEV
        { s with chn := { s.chn with sent := if sends then l ++ [recordCrc l] else [] } }

/-- A chain window is open (R484, R485). -/
def State.inChainWindow (s : State) : Bool :=
  match s.chn.windowEnd with
  | some t => decide (0 < (t - s.clk.slate).toNat && (t - s.clk.slate).toNat < 2 ^ 47)
  | none => false

/-- The select output that the chain master holds low: SEL2_N or SEL1_N, in its window (R446, R476, R484). -/
def State.windowSelect (s : State) : Option Nat :=
  if s.sys.cascM && s.flag CHN_CTRL.EN && s.inChainWindow && s.vioOk then
    some (if s.flag CHN_CFG.WSEL then 1 else 2)
  else none

/-- The frame length that a take must fit (R94, R481): the frame of a slave whose chain is enabled can end up
to ADJ ticks early. -/
def State.safeLen (s : State) : Nat :=
  if s.chainSlave && s.flag CHN_CTRL.EN then s.frameLen - s.chAdj else s.frameLen

/-- What is kept of device `k`. -/
def State.chDev (s : State) (k : Nat) : ChnDev := Tbl.get {} s.chn.devs k

/-- The state with what is kept of device `k` changed. -/
def State.modChDev (s : State) (k : Nat) (f : ChnDev → ChnDev) : State :=
  { s with chn := { s.chn with devs := Tbl.mod s.chn.devs k f } }

/-- The learned axis of slot `j` of device `k`, 0xF for none (R488). -/
def State.learned (s : State) (k j : Nat) : Nat := s.fld ⟨CHN_RMAP (k / 2), 16 * (k % 2) + 4 * j, 4⟩

/-- AXID of a valid record is learned for slot `j` of device `k` (R488, R489). -/
def State.learn (s : State) (k j id : Nat) : State :=
  let old := s.learned k j
  let s := s.put ⟨CHN_RMAP (k / 2), 16 * (k % 2) + 4 * j, 4⟩ id
  if old = 0xF || old = id then s
  else (s.modChDev k (fun d => { d with q := Tbl.mod d.q j (fun _ => none) })).raise 0x1308

/-- The reconstructed position after a slot's value has arrived (R489). -/
def rebuild (q : Option Word) (p : Nat) : Word :=
  match q with
  | some q => q + wrd (lowS 24 ((p : Int) - q.toNat))
  | none => wrd (lowS 24 p)

/-- A record whose check holds (R488, R489, R490). -/
def State.takeRecord (s : State) (k : Nat) (l : List Byte) : State :=
  let b (i : Nat) : Nat := (Tbl.get 0 l i).toNat
  let gen := b 0 + 256 * b 1
  let s := s.learn k (gen % 4) (b 2 / 16)
  let p (j : Nat) : Nat := b (3 + 3 * j) + 256 * b (4 + 3 * j) + 65536 * b (5 + 3 * j)
  let step (q : Option Word) (j : Nat) : Option Word := if (b 2).testBit j then some (rebuild q (p j)) else none
  let s := s.modChDev k (fun d =>
    { q := (List.range 4).map (fun j => step (Tbl.get none d.q j) j), silent := 0, gen := BitVec.ofNat 16 gen
      valid := BitVec.ofNat 4 (b 2) })
  let s := { s with chn := { s.chn with
      recOk := s.chn.recOk ||| (1#8 <<< k)
      masterGen := if k = 0 then BitVec.ofNat 16 gen else s.chn.masterGen } }
  s.putBit CHN_STAT.SEEN k true

/-- CHAIN_RECORD: the record of position `k` is received and checked (R490, R491); fewer than 16 bytes are a record
that the select cut off. -/
def execChainRecord (k : Fin 8) (l : List Byte) (s : State) : Out :=
  whenPowered s fun s =>
    if !s.clk.cutsOn || !s.chActive || s.fld CHN_CFG.NDEV < k.val then s
    else if l.length < 16 then
      let s := s.bump CHN_CNT.ABORT 1
      if s.chn.abortSeen then s else ({ s with chn := { s.chn with abortSeen := true } }).raise 0x1305
    else if recordCrc (l.take 15) = Tbl.get 0 l 15 then s.takeRecord k l
    else if !s.bitOf CHN_STAT.SEEN k then s.bump CHN_CNT.ABSENT 1
    else
      let s := s.bump CHN_CNT.CRC 1
      if s.chn.crcSeen then s else ({ s with chn := { s.chn with crcSeen := true } }).raise 0x1304

/-- POS_CONFLICT: the lanes differ from what the device drives in its slot (R486, R543). -/
def execPosConflict (s : State) : Out :=
  whenPowered s fun s =>
    if !s.chActive || s.flag CHN_STAT.TX_OFF then s
    else
      let s := { s with chn := { s.chn with sent := [] } }
      ((s.put CHN_STAT.TX_OFF 1).raise 0x1306).chainCause true

/-- HOST_IN_WINDOW: SEL0_N falls on a slave during the window (R494): the host frame is ignored. -/
def State.hostInWindow (s : State) : State :=
  if s.sys.cascM || !s.flag CHN_CTRL.EN || !s.vioOk then s
  else ({ s with spi := { s.spi with frameErr := true, ignored := true } }).raise 0x1307

/-- HOST_IN_WINDOW (R494). -/
def execHostInWindow (s : State) : Out := whenPowered s State.hostInWindow

/-- Q_TIMEOUT: no valid record of a device has arrived for 1024 frames (R489). -/
def execQTimeout (k : Fin 8) (s : State) : Out :=
  whenPowered s fun s =>
    if 1024 ≤ (s.chDev k).silent then s.modChDev k (fun d => { d with q := List.replicate 4 none }) else s

/-! ### The chain at a cut -/

/-- A value of CHN_CTRL has taken effect; `old` is the one before (R480, R486, R495). -/
def State.chnApplied (s : State) (a : Nat) (old : Word) : State :=
  if a ≠ CHN_CTRL then s
  else
    let now := s.flag CHN_CTRL.EN
    if now && !old.getLsbD 0 then
      let s := (s.put CHN_STAT.STATE (if s.sys.cascM then chLocked else chAcquire)).put CHN_STAT.SEEN 0
      let s := (s.put CHN_STAT.TX_OFF 0).chainCause s.chn.lost
      { s with chn := { s.chn with good := 0, held := 0, lastClap := none, intervals := [] } }
    else if !now && old.getLsbD 0 then
      let s := s.put CHN_STAT.STATE chOff
      { s with chn := { s.chn with recOk := 0, clapAt := none, windowEnd := none } }
    else s

/-- The engines that some axis of the take assigns an axis to. -/
def State.usedEngines (s : State) : List Nat :=
  (List.range 8).filter (fun e => s.reel.struct.engines.any (fun x => x.engine == e))

/-- The chain status word (R493). -/
def State.chainWord (s : State) : Word :=
  u32 (s.fld CHN_STAT.REC_OK + s.chainPos * 2 ^ 8 + (s.sys.cascM || s.chState == chLocked).toNat * 2 ^ 11
    + s.chn.masterGen.toNat * 2 ^ 16)

/-- The value that D3 delivers to slave axis `n` (R492). -/
def State.remoteMaster (s : State) (n : Nat) : Option (Word × Word) :=
  if s.fld (CAM_AX_BIND.SRC n) ≠ 2 then none
  else
    let k := s.fld (CAM_AX_BIND.DEV n)
    let a := s.fld (CAM_AX_BIND.AXIS n)
    let d := s.chDev k
    if !s.bitOf CHN_STAT.REC_OK k then none
    else
      match (List.range 4).find? (fun j => s.learned k j == a && d.valid.getLsbD j) with
      | some j =>
        match Tbl.get none d.q j with
        | some q => some (q, checkWord q d.gen.toNat)
        | none => none
      | none => none

/-- A remote master's value and check word reach the engine of slave axis `n` (R492). -/
def State.remoteDelivery (s : State) (n : Nat) : State :=
  match s.remoteMaster n with
  | some (q, c) => (s.giveInput n 12 q).giveInput n 13 c
  | none => s

/-- What the chain does at a cut (R478, R480, R488, R489, R492, R493). -/
def State.chnCut (s : State) : State :=
  let c := s.chn
  let s := s.put CHN_PHASE.APPLIED (BitVec.ofInt 16 (satS 16 c.applied)).toNat
  let s := s.put CHN_STAT.REC_OK c.recOk.toNat
  let s := s.each (List.range 8) (fun s k =>
    s.modChDev k (fun d => { d with silent := if c.recOk.getLsbD k then 0 else min 1024 (d.silent + 1) }))
  let s := { s with chn := { s.chn with
      recOk := 0, clapped := false, applied := 0, windowEnd := none, crcSeen := false, abortSeen := false
      held := if s.chState = chHoldover then c.held + 1 else c.held
      record := s.buildRecord, sent := [] } }
  let s := s.each s.usedAxes State.remoteDelivery
  s.each s.usedEngines (fun s e => if s.willRun (s.listTable e) then s.takeInput (s.listTable e) 58 s.chainWord else s)

/-! ### Writes -/

/-- Write words `ctrl` and `cfg` leave the chain enabled with values that R481, R485, R476 or the tables of R498
exclude. -/
def State.chainIllegal (s : State) (cfg : Word) : Bool :=
  let n := CHN_CFG.NDEV.of cfg
  n == 0 || (if s.sys.cascM then
      s.lastWritten SPI_CTRL |>.getLsbD 1 |> (· || decide (s.frameLen < 200 + CHN_CFG.WIN_OFS.of cfg + chWindowTicks cfg))
    else CHN_CFG.POS.of cfg == 0 || decide (n < CHN_CFG.POS.of cfg))

/-- A write of CHN_CTRL is refused (R481, R485, R498). -/
def State.chnCtrlRefused (s : State) (v : Word) : Bool :=
  CHN_CTRL.CLAP_HOLD.of v == 0 ||
    (v.getLsbD 0 && (s.chainIllegal (s.lastWritten CHN_CFG) ||
      (!s.sys.cascM && decide (s.frameLen < s.fld REEL_LEN.MIN_LEN + CHN_CFG.ADJ.of (s.lastWritten CHN_CFG)))))

/-- A write of CHN_CFG is refused (R485, R498). -/
def State.chnCfgRefused (s : State) (v : Word) : Bool :=
  CHN_CFG.DIV.of v == 0 || CHN_CFG.ADJ.of v == 0 || decide (CHN_CFG.WIN_OFS.of v < 40)
    || ((s.lastWritten CHN_CTRL).getLsbD 0 && s.chainIllegal v)

/-- A write of CHN_PUB is refused (R498): a slot names an axis that is not used, or two slots one axis. -/
def State.chnPubRefused (s : State) (v : Word) : Bool :=
  let a (k : Nat) : Nat := v.toNat / 16 ^ k % 16
  (List.range 4).any (fun k => a k != 0xF && (!s.axisUsed (a k) || (List.range k).any (fun j => a j == a k)))

end Sys2Proof.Machine
end

