-- ==== Sys2Proof/Machine/Rules.lean ====
section
/-!
DEFINITION. The illegal values of the registers that take a written value as it is (R19): for each block, which writes
its register descriptions exclude.
-/
namespace Sys2Proof.Machine

/-- A number outside `lo` to `hi`. -/
def outside (lo hi x : Nat) : Bool := decide (x < lo) || decide (hi < x)

/-- Step channels: EN needs both pins (R239). -/
def State.badCam (s : State) (a : Nat) (v : Word) : Bool :=
  inGroup (CAM_SI_CFG 0) 0x10 4 a (fun k => v.getLsbD 0 && !(s.hasPin 0x05 k && s.hasPin 0x06 k))

/-- Modulator: FORCE_EN outside SERVICE (R280), and the ranges of the CMT and CUT registers. -/
def State.badMod (s : State) (a : Nat) (v : Word) : Bool :=
  let g (o : Nat) (p : Nat → Bool) : Bool := inGroup (0x106100 + o) 0x40 12 a p
  (a == MOD_CTRL && v.getLsbD 0 && s.sys.mode != .service)
    || g 0x00 (fun _ => v.toNat / 4 % 4 == 3)
    || g 0x04 (fun _ => decide (v.toNat % 65536 < 1600))
    || g 0x10 (fun _ => outside 32 4096 (v.toNat / 65536))
    || g 0x18 (fun n => decide (640 < v.toNat % 1024) || (!heavy n && decide (v.toNat % 1024 < 32)))
    || g 0x20 (fun _ => decide (32767 < v.toNat / 65536))

/-- Power stage: fields of the other kind of axis (R346). -/
def badPwr (a : Nat) (v : Word) : Bool :=
  inGroup (PWR_AX_CFG 0) 0x40 12 a (fun n => if heavy n then v &&& 0x00F00000 != 0 else v &&& 0x00007FFF != 0)
    || inGroup (PWR_AX_OC 0) 0x40 12 a (fun n => !heavy n && v &&& 0x3F3F != 0)

/-- Quadrature channels (R351 to R357). -/
def State.badQd (s : State) (a : Nat) (v : Word) : Bool :=
  let igate := v.toNat / 128 % 8
  inGroup (POS_QD_CFG 0) 0x40 4 a (fun k =>
      (v.getLsbD 0 && !(s.hasPin 0x01 k && s.hasPin 0x02 k)) || (1 ≤ igate && igate ≤ 3)
        || (!s.hasPin 0x03 k && (v.getLsbD 6 || igate != 0 || v.getLsbD 10 || v.getLsbD 11)))
    || inGroup (POS_QD_CPR 0) 0x40 4 a (fun k =>
      (1 ≤ v.toNat % 2 ^ 20 && v.toNat % 2 ^ 20 ≤ 3) || s.flag (POS_QD_CFG.EN k))
    || inGroup (POS_QD_IDX 0) 0x40 4 a (fun k =>
      decide ((s.lastWritten (POS_QD_CPR k)).toNat % 2 ^ 20 ≤ v.toNat % 2 ^ 20))

/-- SENT channels (R360 to R365). -/
def State.badSn (s : State) (a : Nat) (v : Word) : Bool :=
  let nib := v.toNat / 16 % 8
  inGroup (POS_SN_CFG 0) 0x40 4 a (fun k =>
      (v.getLsbD 0 && !s.hasPin 0x04 k) || outside 1 6 nib || outside 1 nib (v.toNat / 128 % 8)
        || v.toNat / 1024 % 4 == 3 || outside 30 900 (v.toNat / 65536 % 1024))
    || inGroup (POS_SN_TMO 0) 0x40 4 a (fun _ => v.toNat % 4096 == 0)

/-- The assignment of feedback to axes (R366). The loader's writes at the end of BOOT belong to the cut that enters
STANDBY. -/
def State.badFb (s : State) (p : Path) (a : Nat) (v : Word) : Bool :=
  let standby := s.sys.mode == .standby || (p == .mc && s.sys.mode == .boot)
  inGroup (POS_AX_FB 0) 0x10 12 a (fun n => v.toNat % 4 == 3 || !standby || s.fld (CAM_AX_BIND.SRC n) == 3)
    || inGroup (POS_AX_FBSCALE 0) 0x10 12 a (fun _ => v.toNat % 65536 == 0 || v.toNat / 65536 == 0)

/-- Latches, compare units and emulation outputs (R370 to R378). -/
def State.badLatch (s : State) (a : Nat) (v : Word) : Bool :=
  let x := v.toNat
  inGroup (POS_LT_CFG 0) 0x10 8 a (fun _ =>
      decide (11 < x % 16) || decide (5 < x / 16 % 8) || x / 1024 % 4 == 3 || (x / 16 % 8 == 2 && decide (3 < x % 16))
        || (x / 16 % 8 == 1 && !s.hasPin 0x09 (x / 256 % 4)))
    || inGroup (POS_CP_CFG 0) 0x10 4 a (fun _ => decide (11 < x / 2 % 16) || x / 32 % 4 == 3)
    || inGroup (POS_EE_CFG 0) 0x10 2 a (fun e =>
      (v.getLsbD 0 && !(s.hasPin 0x0B e && s.hasPin 0x0C e)) || decide (x / 256 % 256 < 8)
        || (if v.getLsbD 1 then decide (3 < x / 4 % 16) || !s.flag (POS_QD_CFG.EN (x / 4 % 16))
            else decide (11 < x / 4 % 16) || !s.axisUsed (x / 4 % 16)))
    || inGroup (POS_EE_RES 0) 0x10 2 a (fun _ => outside 1 1024 (x % 2048))

/-- A GAIN code that the table of R386 does not list for the channel. -/
def badGain (ch g : Nat) : Bool :=
  if ch < 8 then decide (3 < g)
  else if ch < 24 then g != 0
  else if ch ≤ 48 then decide (1 < g)
  else if ch = 49 then decide (3 < g)
  else g != 0

/-- Converters (R386, R396, R407). -/
def badAdc (a : Nat) (v : Word) : Bool :=
  inGroup (ADC_CH_CFG 0) 0x10 56 a (fun ch =>
      (ch != 49 && badGain ch (v.toNat / 2 % 4)) || (ch != 49 && decide (16 < v.toNat / 16 % 32)))
    || inGroup (ADC_CH_CORR 0) 0x10 56 a (fun _ => v.toNat / 65536 == 0)
    || inGroup (ADC_TS_CORR 0) 0x10 4 a (fun _ => v.toNat / 65536 == 0)
    || inGroup (ADC_TS_CFG 0) 0x10 4 a (fun _ => decide (16 < v.toNat / 16 % 32))

/-- CAN: EN needs a CAN_TIMING section (R444); OPMODE and PIN_EDGE. -/
def State.badCan (s : State) (a : Nat) (v : Word) : Bool :=
  (a == CAN_CTRL && ((v.getLsbD 0 && s.reel.struct.canTiming.isEmpty) || v.toNat / 2 % 4 == 3))
    || (a == CAN_WAKE && v.toNat / 2 % 4 == 3)

/-- Serial port (R474). SEL1_N or SEL2_N is assigned to the chain on an enabled chain master (R476). -/
def State.badSpi (s : State) (a : Nat) (v : Word) : Bool :=
  let x := v.toNat
  (a == SPI_CTRL && v.getLsbD 1 && s.sys.cascM)
    || (a == SPI_CFG && (decide (1 < x % 4) || (v.getLsbD 2 && x % 4 == 1) || (x % 4 == 1 && decide (x / 256 % 64 < 2))
        || decide (x / 65536 % 1024 < 16)))
    || (a == SPI_MW_CFG && x / 256 % 256 == 0)
    || (a == SPI_MW_FMT && (x % 4 == 3 || x / 4 % 4 == 3 || x / 16 % 4 == 3 || x / 65536 % 4 == 3))
    || (a == SPI_MW_TMO && (x % 256 == 0 || x / 65536 == 0))

/-- Banks (R502, R513, R520). -/
def State.badMem (s : State) (a : Nat) (v : Word) : Bool :=
  (a == MEM_TEST_CTRL && outside 10 255 (v.toNat / 256 % 256))
    || (a == MEM_AT_ADDR && (decide (0x40FFF < v.toNat % 2 ^ 24) || v.toNat % 4 != 0))
    || inGroup (MEM_B_OWN 0) 0x10 17 a (fun b => s.ownRefused b v)

/-- Management (R576, R579). -/
def State.badMgt (s : State) (p : Path) (a : Nat) (v : Word) : Bool :=
  (a == MGT_UPD_ADDR && v.toNat % 4 != 0)
    || (a == MGT_LOG_SEL && decide (s.fld MGT_LOG_STAT.HELD ≤ v.toNat % 2048))
    || (a == MGT_SVC_PERMIT && s.sys.mode != .standby && !(p == .mc && s.sys.mode == .boot))

/-- A value that the register at `a` does not take from path `p` (R19). -/
def State.illegal (s : State) (p : Path) (a : Nat) (v : Word) : Bool :=
  match a / 0x1000 with
  | 0x100 => a == SYS_WAKE && v.getLsbD 0 && s.fld SYS_WAKE_TIMER.PERIOD == 0
  | 0x101 => a == CLK_FRAME_LEN && s.frameLenRefused v
  | 0x105 => s.badCam a v
  | 0x106 => s.badMod a v
  | 0x107 => badPwr a v
  | 0x109 => s.badQd a v || s.badSn a v || s.badFb p a v || s.badLatch a v
  | 0x10A => badAdc a v
  | 0x10B => s.badCan a v
  | 0x10C => s.badSpi a v
  | 0x10D => s.badMem a v
  | 0x10F => s.badMgt p a v
  | 0x110 => (a == CHN_CTRL && s.chnCtrlRefused v) || (a == CHN_CFG && s.chnCfgRefused v) || (a == CHN_PUB && s.chnPubRefused v)
  | _ => false

/-- The register at `a` belongs to an axis or a function that the variant does not have (R4, R281): its writes are
discarded and it reads 0. -/
def State.absent (s : State) (a : Nat) : Bool :=
  let ax (base stride : Nat) : Bool := !s.part.hasAxis ((a - base) / stride)
  match a / 0x1000 with
  | 0x104 => ax 0x104000 0x100
  | 0x106 => decide (0x106100 ≤ a) && ax 0x106100 0x40
  | 0x107 => decide (0x107100 ≤ a) && ax 0x107100 0x40
  | 0x108 => decide (0x108100 ≤ a) && ax 0x108100 0x80
  | 0x10A => decide (0x10A200 ≤ a) && decide (a < 0x10A580) && s.channelAbsent ((a - 0x10A200) / 16)
  | _ => false

end Sys2Proof.Machine
end

