-- ==== Sys2Proof/Machine/Verify.lean ====
section
/-!
DEFINITION. The flash as stored (R68, R69, R554, R557), the reel container and the checks of R88 over it (chapter 02 and
the chapters that define the sections), and the checks of a firmware image (R556, R558).
-/
namespace Sys2Proof.Machine

/-! ### Flash -/

/-- The byte at a flash offset: an erased byte reads 0xFF (R88). -/
def State.flashByte (s : State) (o : Nat) : Byte := Store.get (fun _ => 0xFF) s.flash o

/-- `n` bytes of flash from offset `o` on. -/
def State.flashBytes (s : State) (o n : Nat) : List Byte := Store.slice (fun _ => 0xFF) s.flash o n

/-- The flash offset of a slot: reel A, reel B, firmware A, firmware B (R554, R559). -/
def slotBase (k : Nat) : Nat :=
  match k with
  | 0 => 0 | 1 => 0x60000 | 2 => 0xC0000 | _ => 0xD8000

/-- The size of a slot without its status area (R68, R554). -/
def slotRoom (k : Nat) : Nat := if k < 2 then 0x5FF00 else 0x17F00

/-- Program bits from 1 to 0 (R69): the byte at `o` becomes its AND with `b`. -/
def State.programByte (s : State) (o : Nat) (b : Byte) : State :=
  { s with flash := Store.put (fun _ => 0xFF) s.flash o (s.flashByte o &&& b) }

/-- Program the bytes `l` from `o` on. -/
def State.program (s : State) : Nat → List Byte → State
  | _, [] => s
  | o, b :: t => (s.programByte o b).program (o + 1) t

/-- Erase `n` bytes of flash from `o` on. -/
def State.eraseFlash (s : State) (o n : Nat) : State :=
  { s with
    flash := s.flash.filter (fun p => decide (p.1 < o) || decide (o + n ≤ p.1))
    flashFlaws := s.flashFlaws.filter (fun p => decide (p.1 < o) || decide (o + n ≤ p.1)) }

/-- Some 64-bit word of the `n` bytes of flash from `o` on carries an error of the kind `f`. -/
def State.flashFlawIn (s : State) (f : FlashFlaw → Bool) (o n : Nat) : Bool :=
  s.flashFlaws.any (fun p => f p.2 && decide (p.1 < o + n) && decide (o < p.1 + 8))

/-- The error cannot be corrected (R555). -/
def FlashFlaw.isDead : FlashFlaw → Bool
  | .soft => false
  | .dead _ => true

/-- Some 64-bit word of the `n` bytes of flash from `o` on is uncorrectable: what is read there fails its check (R507,
R555). -/
def State.flashDeadIn (s : State) (o n : Nat) : Bool := s.flashFlawIn FlashFlaw.isDead o n

/-- The management core or the boot ROM reads the `n` bytes of flash from `o` on (R555): FLASH_CORR for a corrected word
and FLASH_UNCORR for an uncorrectable one, each once for the whole read (DEDUCED: log entry 74). -/
def State.flashNotice (s : State) (o n : Nat) : State :=
  (s.when (s.flashFlawIn (fun f => !f.isDead) o n) (fun s => s.raise 0x1203)).when (s.flashDeadIn o n) (fun s => s.raise 0x1204)

/-- The codes of a slot state (R69, R108). -/
def slErased : Nat := 1
def slWritten : Nat := 2
def slVerified : Nat := 3
def slTrial : Nat := 4
def slGood : Nat := 5
def slRejected : Nat := 6
def slInvalid : Nat := 7

/-- The state that a slot state word reads as (R69). -/
def slotCode (w : Word) : Nat :=
  if w = 0xFFFFFFFF then slErased else if w = 0xFFFFFF5A then slWritten else if w = 0xFFFF5A5A then slVerified
  else if w = 0xFF5A5A5A then slTrial else if w = 0x5A5A5A5A then slGood else if w = 0 then slRejected else slInvalid

/-- The slot state word of a state (R69). -/
def slotWord (st : Nat) : Word :=
  if st = slWritten then 0xFFFFFF5A else if st = slVerified then 0xFFFF5A5A else if st = slTrial then 0xFF5A5A5A
  else if st = slGood then 0x5A5A5A5A else if st = slRejected then 0 else 0xFFFFFFFF

/-- The state of slot `k` as its state word reads (R69, R557). -/
def State.slotState (s : State) (k : Nat) : Nat := slotCode (bytesWord (s.flashBytes (slotBase k + slotRoom k) 4))

/-! ### Little-endian fields of byte lists -/

/-- Byte `i` of a list as a number. -/
def b8 (l : List Byte) (i : Nat) : Nat := (Tbl.get 0 l i).toNat

/-- The half-word at byte `i`. -/
def le16 (l : List Byte) (i : Nat) : Nat := b8 l i + 256 * b8 l (i + 1)

/-- The word at byte `i`. -/
def le32 (l : List Byte) (i : Nat) : Word := bytesWord (l.drop i)

/-- `k` pieces of `n` elements each. -/
def chunks {β : Type} : Nat → Nat → List β → List (List β)
  | 0, _, _ => []
  | k + 1, n, l => l.take n :: chunks k n (l.drop n)

/-- The entries of `n` bytes that a payload holds. -/
def entries (n : Nat) (l : List Byte) : List (List Byte) := chunks (l.length / n) n l

/-- The words of a payload. -/
def wordsOf (l : List Byte) : List Word := (entries 4 l).map bytesWord

/-! ### The container -/

/-- One directory entry with its payload (R74). -/
structure Sect where
  typ : Nat
  inst : Nat
  flags : Nat
  off : Nat
  len : Nat
  load : Nat
  crc : Word
  rsv : Word
  data : List Byte
  deriving DecidableEq, Repr

/-- A reel as read: its header bytes and its sections. -/
structure Container where
  head : List Byte
  sects : List Sect
  deriving DecidableEq, Repr

/-- The header fields that the device uses (R73). -/
def reelHdr (h : List Byte) : ReelHdr :=
  let fl := le16 h 0x16
  { take := BitVec.ofNat 16 (le16 h 0x08), length := (le32 h 0x0C).toNat, axes := BitVec.ofNat 12 (le16 h 0x10)
    frameLen := le16 h 0x12, minLen := le16 h 0x14, xtalEn := fl.testBit 0, standalone := fl.testBit 1
    autoRun := fl.testBit 2, structSig := le32 h 0x18, stateSig := le32 h 0x1C, imageDelta := (le32 h 0x20).toNat
    fwMin := le16 h 0x24, trialFrames := (le32 h 0x28).toNat }

/-- Check 1 of R88 over a header. -/
def hdrFormatOk (h : List Byte) : Bool :=
  let len := (le32 h 0x0C).toNat
  le32 h 0 == 0x4C455253 && le16 h 4 == 1 && le16 h 6 == 0x80 && len % 4 == 0 && decide (len ≤ 0x5FF00)
    && decide (1 ≤ le16 h 0x0A) && decide (le16 h 0x0A ≤ 64) && le16 h 0x08 != 0

/-- Check 2 of R88 over a header. -/
def hdrCrcOk (h : List Byte) : Bool := crc32c (h.take 0x7C) == le32 h 0x7C

/-- A directory entry read from its 24 bytes, with its payload from the reel's bytes. -/
def readSect (reel : List Byte) (d : List Byte) : Sect :=
  { typ := b8 d 0, inst := b8 d 1, flags := le16 d 2, off := (le32 d 4).toNat, len := (le32 d 8).toNat
    load := (le32 d 0x0C).toNat, crc := le32 d 0x10, rsv := le32 d 0x14
    data := (reel.drop (le32 d 4).toNat).take (le32 d 8).toNat }

/-- The payloads follow one another without gaps from `o` to `last`, each a non-zero multiple of 4 bytes (R72, R76). -/
def layoutOk (last : Nat) : Nat → List Sect → Bool
  | o, [] => o == last
  | o, x :: t => x.off == o && decide (0 < x.len) && x.len % 4 == 0 && decide (o + x.len ≤ last)
      && layoutOk last (o + x.len) t

/-- No two entries carry the same pair (TYPE, INST) (R76). -/
def pairsOk : List Sect → Bool
  | [] => true
  | x :: t => !t.any (fun y => y.typ == x.typ && y.inst == x.inst) && pairsOk t

/-- Checks 1 to 5 of R88 over a reel slot's bytes: the container, or the fault code of the first check that fails. -/
def readContainer (slot : List Byte) : Except Nat Container :=
  let h := slot.take 0x80
  if !hdrFormatOk h then .error 0x0303
  else if !hdrCrcOk h then .error 0x0302
  else
    let n := le16 h 0x0A
    let len := (le32 h 0x0C).toNat
    let dirEnd := 0x80 + 24 * n
    let reel := slot.take len
    let dir := (slot.drop 0x80).take (24 * n)
    if len < dirEnd + 8 || crc32c dir != le32 slot dirEnd then .error 0x0304
    else
      let ss := (chunks n 24 dir).map (readSect reel)
      if !layoutOk (len - 4) (dirEnd + 4) ss || !pairsOk ss then .error 0x0304
      else if crc32c (reel.take (len - 4)) != le32 reel (len - 4) then .error 0x0306
      else if ss.any (fun x => crc32c x.data != x.crc) then .error 0x0305
      else if crc32c ((ss.filter (fun x => decide (1 ≤ x.typ) && decide (x.typ ≤ 6))).flatMap Sect.data) != le32 h 0x18
      then .error 0x0305
      else .ok { head := h, sects := ss }

/-- The header of reel slot `k` (R73). -/
def State.slotHead (s : State) (k : Nat) : List Byte := s.flashBytes (slotBase k) 0x80

/-! ### Sections -/

/-- The section of a type and instance. -/
def Container.find (c : Container) (t i : Nat) : Option Sect := c.sects.find? (fun x => x.typ == t && x.inst == i)

/-- Some section has the type. -/
def Container.has (c : Container) (t : Nat) : Bool := c.sects.any (fun x => x.typ == t)

/-- The payload of the first section of a type, or nothing. -/
def Container.payload (c : Container) (t : Nat) : List Byte :=
  match c.sects.find? (fun x => x.typ == t) with
  | some x => x.data
  | none => []

/-- The instances of a type. -/
def Container.insts (c : Container) (t : Nat) : List Nat := (c.sects.filter (fun x => x.typ == t)).map Sect.inst

/-- The used axes as AXES names them (R73). -/
def Container.axes (c : Container) : List Nat := (List.range 12).filter (fun n => (le16 c.head 0x10).testBit n)

/-- BRIDGE_MAP (R79). -/
def Container.bridges (c : Container) : List Bridge :=
  (entries 8 (c.payload 0x01)).map (fun e =>
    { axis := b8 e 0, light := b8 e 1 == 1, hb := [b8 e 2, b8 e 3, b8 e 4, b8 e 5], sense := b8 e 6, safe := b8 e 7 })

/-- PIN_MAP (R79). -/
def Container.pins (c : Container) : List PinEntry :=
  (entries 4 (c.payload 0x02)).map (fun e => { fn := b8 e 1, inst := b8 e 2, opt := b8 e 3 })

/-- ADC_SLOTS (R79). -/
def Container.slots (c : Container) : List Slot :=
  (entries 8 ((c.payload 0x03).drop 4)).map (fun e =>
    { offset := le16 e 0, core := b8 e 2, channel := b8 e 3, gain := b8 e 4, filter := b8 e 5, dest := b8 e 6
      interleave := (b8 e 7).testBit 0 })

/-- BANK_MAP (R79). -/
def Container.banks (c : Container) : List BankEntry :=
  (entries 4 (c.payload 0x04)).map (fun e =>
    { owner := b8 e 1, retain := (b8 e 2).testBit 0, test := (b8 e 3).testBit 0, image := (b8 e 3).testBit 1 })

/-- ENGINE_MAP (R79). -/
def Container.engines (c : Container) : List EngineEntry :=
  (entries 4 (c.payload 0x05)).map (fun e => { axis := b8 e 0, engine := b8 e 1, pos := b8 e 2 })

/-- The axes that engine `e` serves (R128). -/
def Container.serves (c : Container) (e : Nat) : List Nat :=
  (c.engines.filter (fun x => x.engine == e)).map EngineEntry.axis

/-- The shot list of a SHOT_LIST payload (R79), with the check of R133. -/
def readPage (l : List Byte) : Page :=
  let n := le16 l 0
  { shots := (chunks n 8 ((l.drop 8).take (8 * n))).map (fun e => (le32 e 4 ++ le32 e 0 : BitVec 64))
    consts := wordsOf (l.drop (8 + 8 * n)), cycles := le16 l 2, check := crc32c (l.take (8 + 8 * n)) }

/-- The address and value pairs of a payload. -/
def readPairs (l : List Byte) : List (Nat × Word) := (entries 8 l).map (fun e => ((le32 e 0).toNat, le32 e 4))

/-- The structural sections of a reel (R77). -/
def Container.struct (c : Container) : Struct :=
  { bridges := c.bridges, pins := c.pins, slots := c.slots, banks := c.banks, engines := c.engines
    canTiming := wordsOf (c.payload 0x06) }

/-- The behavioural sections of a reel as loading stores them (R77, R83). -/
def Container.copy (c : Container) : Copy :=
  let pages := (List.range 8).map (fun e => match c.find 0x10 e with | some x => readPage x.data | none => {})
  { hdr := reelHdr c.head, pages := pages, esPages := pages
    canMap := wordsOf (c.payload 0x15), thermal := wordsOf (c.payload 0x16)
    axisParam := (List.range 12).map (fun n => match c.find 0x14 n with | some x => wordsOf x.data | none => [])
    regInit := readPairs (c.payload 0x17)
    tables := (c.sects.filter (fun x => decide (0x11 ≤ x.typ) && decide (x.typ ≤ 0x13))).map (fun x =>
      { typ := x.typ, inst := x.inst, at0 := x.load, bytes := x.data, crc := x.crc }) }

/-! ### Required sections and the variant (checks 7 and 8) -/

/-- A section that R77 requires is missing (check 7). -/
def Container.missing (c : Container) : Bool :=
  [0x01, 0x02, 0x03, 0x04, 0x05].any (fun t => !c.has t)
    || ((c.has 0x15 || (le16 c.head 0x16).testBit 1) && !c.has 0x06)
    || (c.axes.any (fun n => !heavy n) && !c.has 0x16)
    || c.axes.any (fun n => [0x11, 0x13, 0x14].any (fun t => (c.find t n).isNone))
    || c.engines.any (fun x => c.axes.contains x.axis && decide (x.engine < 8) && (c.find 0x10 x.engine).isNone)

/-- Converter channel `ch` is absent on a part (R387). -/
def Part.lacksChannel : Part → Nat → Bool
  | .itx1216, _ => false
  | .itx1208l, ch => decide (ch < 8) || (decide (24 ≤ ch) && decide (ch < 32))
  | .itx1204h, ch => (decide (8 ≤ ch) && decide (ch < 24)) || (decide (32 ≤ ch) && decide (ch < 48))

/-- A half-bridge code names a bridge that the part lacks (R2). -/
def Part.lacksBridge : Part → Nat → Bool
  | .itx1216, _ => false
  | .itx1208l, h => decide (h < 16)
  | .itx1204h, h => decide (32 ≤ h) && decide (h < 64)

/-- The reel names an axis, half-bridge, shunt amplifier or sensor that the part lacks (R82, check 8). -/
def Container.namesAbsent (c : Container) (p : Part) : Bool :=
  let gone (n : Nat) : Bool := decide (n < 12) && !p.hasAxis n
  let cm := wordsOf (c.payload 0x15)
  c.axes.any gone
    || [0x11, 0x13, 0x14].any (fun t => (c.insts t).any gone)
    || c.bridges.any (fun b => gone b.axis || b.hb.any p.lacksBridge || (p == .itx1208l && b.sense != 0xFF))
    || c.engines.any (fun x => gone x.axis)
    || c.slots.any (fun x => p.lacksChannel x.channel)
    || c.pins.any (fun x => (x.fn == 0x07 || x.fn == 0x08) && gone x.inst)
    || c.sects.any (fun x => x.typ == 0x12 && (List.range 12).any (fun n => (le16 x.data 0).testBit n && gone n))
    || (c.has 0x15 && (List.range (mapCount cm)).any (fun m =>
        let e := mapEntry cm m
        (e.kind == 1 || e.kind == 3) && gone e.axis))

/-! ### Field and assignment rules (check 9) -/

/-- No element occurs twice. -/
def distinct (l : List Nat) : Bool :=
  match l with
  | [] => true
  | x :: t => !t.contains x && distinct t

/-- Two lists name the same set. -/
def sameSet (a b : List Nat) : Bool := a.all (fun x => b.contains x) && b.all (fun x => a.contains x)

/-- The header fields that check 1 does not judge (R73). -/
def hdrFieldsOk (h : List Byte) : Bool :=
  let r := reelHdr h
  le16 h 0x10 / 4096 == 0 && !outside 800 16000 r.frameLen && !outside 800 r.frameLen r.minLen && le16 h 0x16 / 8 == 0
    && r.imageDelta % 0x4000 == 0 && !outside 0x4000 0x20000 r.imageDelta && ((h.drop 0x30).take 76).all (fun b => b == 0)

/-- BRIDGE_MAP (R79, R80). -/
def Container.bridgesOk (c : Container) : Bool :=
  let l := c.payload 0x01
  let bs := c.bridges
  l.length % 8 == 0
    && (entries 8 l).all (fun e => b8 e 0 < 12 && b8 e 1 == (if heavy (b8 e 0) then 0 else 1) && b8 e 7 ≤ 2)
    && bs.all (fun b =>
      if heavy b.axis then
        b.hb.all (fun h => decide (4 * b.axis ≤ h) && decide (h ≤ 4 * b.axis + 3)) && b.sense % 16 < 8 && b.sense / 16 < 8
      else b.hb.all (fun h => decide (0x20 ≤ h) && decide (h ≤ 0x3F)) && b.sense == 0xFF)
    && distinct (bs.map Bridge.axis) && distinct (bs.flatMap Bridge.hb)
    && distinct ((bs.filter (fun b => heavy b.axis)).flatMap (fun b => [b.sense % 16, b.sense / 16]))

/-- The highest instance of a pin function (R347). -/
def pinInsts : List Nat := [0, 3, 3, 3, 3, 3, 3, 11, 11, 3, 3, 1, 1, 1, 3, 0, 0]

/-- PIN_MAP (R79, R347 to R349). -/
def Container.pinsOk (c : Container) : Bool :=
  let l := c.payload 0x02
  let ps := c.pins
  let named (fn i : Nat) : Bool := ps.any (fun p => p.fn == fn && p.inst == i)
  let needs (a b : Nat) : Bool := ps.all (fun p => p.fn != a || named b p.inst)
  l.length == 60
    && (List.range 15).all (fun k =>
      let p : PinEntry := Tbl.get ⟨0, 0, 0⟩ ps k
      let out := p.fn == 0x0A || p.fn == 0x0B || p.fn == 0x0C || p.fn == 0x0D || p.fn == 0x10
      b8 l (4 * k) == k && p.fn ≤ 0x10 && p.inst ≤ Tbl.get 0 pinInsts p.fn
        && p.opt % 4 != 3 && !p.opt.testBit 6 && (p.opt / 4 % 16 == 0 || p.fn == 0x09 || p.fn == 0x0F)
        && (!p.opt.testBit 7 || out)
        && ((p.fn != 0x07 && p.fn != 0x08) || c.axes.contains p.inst)
        && (p.fn != 0x0E || k == 11 + p.inst))
    && distinct ((ps.filter (fun p => p.fn != 0x00 && p.fn != 0x0F && p.fn != 0x10)).map (fun p => p.fn * 256 + p.inst))
    && needs 0x03 0x01 && needs 0x03 0x02 && needs 0x05 0x06 && needs 0x06 0x05 && needs 0x0B 0x0C && needs 0x0C 0x0B

/-- The used axis to which a current or phase-voltage channel belongs (R386, R390). -/
def Container.channelUsed (c : Container) (ch : Nat) : Bool :=
  let used (n : Nat) : Bool := c.axes.contains n
  if ch < 8 then c.bridges.any (fun b => heavy b.axis && (b.sense % 16 == ch || b.sense / 16 == ch) && used b.axis)
  else if ch < 24 then used (4 + (ch - 8) / 2)
  else if ch < 32 then used ((ch - 24) / 2)
  else used (4 + (ch - 32) / 2)

/-- ADC_SLOTS (R79, R338, R390). -/
def Container.slotsOk (c : Container) : Bool :=
  let l := c.payload 0x03
  let ss := c.slots
  let n := le16 l 0
  !outside 1 256 n && le16 l 2 == 0 && l.length == 4 + 8 * n
    && (entries 8 (l.drop 4)).all (fun e => b8 e 7 < 2)
    && ss.all (fun x => x.core < 5 && x.channel < 54 && !badGain x.channel x.gain && x.filter ≤ 16 && x.dest ≤ 2
      && (!x.interleave || x.core == 0 || x.core == 2)
      && (x.dest == 0 || x.channel < 24 || x.channel == 48 || x.channel == 49)
      && (x.dest == 1 || 48 ≤ x.channel || c.channelUsed x.channel))
    && ss.all (fun x => ss.all (fun y =>
      x.channel != y.channel || (if x.channel = 49 then x.gain != y.gain || x.filter == y.filter
        else x.gain == y.gain && x.filter == y.filter)))
    && (!c.has 0x16 || [0, 1, 2, 3].all (fun k => ss.any (fun x => x.channel == 49 && x.gain == k && x.dest != 0)))

/-- BANK_MAP (R79). -/
def Container.banksOk (c : Container) : Bool :=
  let l := c.payload 0x04
  l.length == 68 && (List.range 17).all (fun b =>
    let e := (l.drop (4 * b)).take 4
    b8 e 0 == b && !outside 1 11 (b8 e 1) && b8 e 2 < 2 && b8 e 3 < 4)

/-- ENGINE_MAP (R79, R80, R128). -/
def Container.enginesOk (c : Container) : Bool :=
  let l := c.payload 0x05
  (entries 4 l).all (fun e => b8 e 3 == 0)
    && c.engines.all (fun x => x.axis < 12 && x.engine < 8 && x.pos < 3)
    && distinct (c.engines.map EngineEntry.axis)
    && (List.range 8).all (fun e =>
      let ps := (c.engines.filter (fun x => x.engine == e)).map EngineEntry.pos
      distinct ps && ps.all (fun p => p < ps.length))

/-- CAN_TIMING (R410, R411). -/
def Container.timingOk (c : Container) : Bool :=
  let l := c.payload 0x06
  let v (i : Nat) : Nat := b8 l i + 1
  let pn := v 0 * (1 + v 1 + v 2)
  let pd := v 4 * (1 + v 5 + v 6)
  let fd := (b8 l 10).testBit 0
  l.length == 16 && b8 l 0 ≤ 31 && 1 ≤ b8 l 1 && b8 l 2 ≤ 127 && b8 l 3 ≤ 127 && b8 l 4 ≤ 31 && b8 l 5 ≤ 31
    && b8 l 6 ≤ 15 && b8 l 7 ≤ 15 && b8 l 8 ≤ 127 && b8 l 9 ≤ 127 && b8 l 10 < 8 && (l.drop 11).all (fun b => b == 0)
    && v 3 ≤ v 2 && !outside 80 3200 pn
    && (!fd || (v 7 ≤ v 6 && pd ≤ pn && 16 ≤ pd && (80 ≤ pd || (le16 c.head 0x16).testBit 0)
      && (!(b8 l 10).testBit 1 || (v 4 ≤ 2 && b8 l 8 ≤ 127 - b8 l 9))))

/-- A SHOT_LIST section (R79, R126, R128, R138). The context bases of the axes served are multiples of 32
(R164), the table addresses of its shots multiples of 4 (R155). -/
def Container.listOk (c : Container) (x : Sect) : Bool :=
  let l := x.data
  let n := le16 l 0
  let k := le16 l 4
  let p := readPage l
  let axes := (c.serves x.inst).length
  x.inst < 8 && 8 ≤ l.length && !outside 1 510 n && le16 l 6 == 0 && l.length == 8 + 8 * n + 4 * k && l.length ≤ 4096
    && axes != 0
    && (p.consts.take (min axes 3)).all (fun k => k.toNat % 32 == 0)
    && p.shots.all (fun w =>
      let ctx := (w.extractLsb' 8 8).toNat
      let s : Shot := { e := x.inst, ctx := ctx, w := w, consts := p.consts, delta := 0 }
      ctx < axes && s.legal (s.b 0) && s.tableConst.all (fun k => k.toNat % 4 == 0))

/-- A RAMP_TABLE section (R156, R201). -/
def rampOk (x : Sect) : Bool :=
  let h := (le32 x.data 0).toNat
  x.inst < 12 && x.data.length == 1032 && h % 2048 == 256 && h / 65536 % 32 ≤ 16 && h / 2048 % 32 == 0 && h / 2 ^ 21 == 0

/-- The values of a list rise strictly. -/
def rises : List Int → Bool
  | a :: b :: t => decide (a < b) && rises (b :: t)
  | _ => true

/-- A CAM_TABLE section on its own (R214, R215). -/
def Container.camOk (c : Container) (x : Sect) : Bool :=
  let l := x.data
  let users := (le32 l 0).toNat
  let h := (le32 l 8).toNat
  let n := h % 512
  let us := (List.range 12).filter (fun a => users.testBit a)
  let isl (a : Nat) : Nat := match c.engines.find? (fun e => e.axis == a) with | some e => e.engine / 2 | none => 99
  x.inst < 16 && users / 4096 == 0 && (le32 l 4).toNat / 2 ^ 24 == 0 && h / 512 % 128 == 0 && h / 2 ^ 17 == 0
    && !outside 2 256 n && l.length == 12 + 8 * n && rises ((entries 8 (l.drop 12)).map (fun e => (le32 e 0).toInt))
    && us.all (fun a => c.axes.contains a && isl a != 99) && us.all (fun a => us.all (fun b => isl a == isl b))

/-- The slots of axes that a CAM_TABLE section claims (R214). -/
def camClaims (x : Sect) : List Nat :=
  ((List.range 12).filter (fun a => (le32 x.data 0).toNat.testBit a)).map (fun a =>
    4 * a + (le32 x.data 4).toNat / 4 ^ a % 4)

/-- THERMAL (R341). -/
def thermalOk (l : List Byte) : Bool :=
  let n := le16 l 0
  let full := le16 l 2
  let rows := entries 16 (l.drop 4)
  !outside 1 16 n && l.length == 4 + 16 * n && !outside 1 4095 full
    && le16 l 4 == 0x8000 && rises (rows.map (fun e => lowS 16 (le16 e 0)))
    && rows.all (fun e => le16 e 2 ≤ 0x640 && b8 e 4 ≤ 8 && b8 e 5 ≤ b8 e 4 && le16 e 6 < full && le16 e 8 ≤ le16 e 6
      && le32 e 12 == 0)

/-- A register address that a reel may write (R80, R431). -/
def regAddrOk (a : Nat) : Bool :=
  a % 4 == 0 && decide (0x101000 ≤ a) && decide (a ≤ 0x111FFF) && a / 0x1000 != 0x102 && a / 0x1000 != 0x10E

/-- CAN_MAP (R429 to R431). -/
def Container.mapOk (c : Container) : Bool :=
  let l := c.payload 0x15
  let nf := b8 l 0
  let nm := b8 l 1
  let own (k : Nat) : Nat := b8 l 2 / 4 ^ k % 4
  let owned (o : Nat) : Bool := own 0 == o || own 1 == o || own 2 == o
  let maps := chunks nm 16 (l.drop (4 + 12 * nf))
  let kind (m : Nat) : Nat := b8 (Tbl.get [] maps m) 0
  let fd := (b8 (c.payload 0x06) 10).testBit 0
  nf ≤ 32 && nm ≤ 32 && b8 l 2 < 64 && !owned 3 && b8 l 3 ≤ 16 && l.length == 4 + 12 * nf + 16 * nm
    && (chunks nf 12 (l.drop 4)).all (fun e =>
      let d := b8 e 8
      (le32 e 0).toNat < 2 ^ 30 && (le32 e 4).toNat < 2 ^ 30 && b8 e 9 < 4 && le16 e 10 == 0
        && (if d < 0x10 then decide (d < b8 l 3)
            else if d < 0x20 then d == 0x10 || d == 0x11
            else d == 0xFF || (d - 0x20 < nm && kind (d - 0x20) != 3 && kind (d - 0x20) != 4)))
    && maps.all (fun e =>
      let k := b8 e 0
      let fl := b8 e 3
      let a := (le32 e 4).toNat
      let used := c.axes.contains (b8 e 1)
      !outside 1 5 k && b8 e 1 < 12 && fl < 32 && b8 e 10 < 16 && (e.drop 11).all (fun b => b == 0)
        && (k != 1 || used) && (2 < k || (b8 e 2 % 4 == 0 && b8 e 2 ≤ 56)) && (k != 2 || regAddrOk a)
        && (k != 3 || (b8 e 2 < 16 && le16 e 8 != 0 && used)) && (k < 3 || a < 2 ^ 29)
        && ((k != 3 && k != 4) || (8 ≤ b8 e 10 && owned 1)) && (k != 5 || (10 ≤ b8 e 10 && owned 2))
        && (fl.testBit 3 || (b8 e 10 ≤ 8 && !fl.testBit 2)) && (!fl.testBit 2 || fd))
    && distinct ((maps.filter (fun e => b8 e 0 == 1)).map (fun e => b8 e 1))
    && (maps.filter (fun e => b8 e 0 == 4)).length ≤ 1 && (maps.filter (fun e => b8 e 0 == 5)).length ≤ 1

/-- The CAN map of the reel holds a target for axis `n` (R208, R430). -/
def Container.rxTarget (c : Container) (n : Nat) : Bool :=
  let cm := wordsOf (c.payload 0x15)
  (List.range (mapCount cm)).any (fun m => (mapEntry cm m).kind == 1 && (mapEntry cm m).axis == n)

/-- The parameter of axis `n` whose register stands at `a` in the LAS block. -/
def lasParam (n a : Nat) : Option Nat :=
  ([14, 15, 16, 17, 18, 19, 20, 21, 22, 23, 29, 30] : List Nat).find? (fun i => paramReg n i == a)

/-- A value that the register at `a` of axis `n`, in LAS or PWR, does not take (R208, R310, R346). -/
def State.pairRefused (s : State) (n a : Nat) (v : Word) : Bool :=
  match lasParam n a with
  | some i => s.paramRefused n i (v &&& rwMask a)
  | none => badPwr a v

/-- A value of AXIS_PARAM carries no bit beside the fields that can be written of its register, where the register has
such fields: R18 lets a register write pass with reserved bits, but not a reel (DEDUCED: log entry 119). -/
def reservedClear (a : Nat) (v : Word) : Bool := rwMask a == 0 || v &&& ~~~rwMask a == 0

/-- An AXIS_PARAM section (R178, R208): every value under the rule of its register, held against the other values of the
section. -/
def Container.paramOk (c : Container) (x : Sect) : Bool :=
  let n := x.inst
  let ws := wordsOf (x.data.take 64)
  let w (i : Nat) : Word := Tbl.get 0 ws i
  let s : State := (List.range 14).foldl (fun s i => s.setWord (paramReg n i) (w i)) {}
  let m := (w 15).toNat
  n < 12 && 64 ≤ x.data.length && m ≤ 32 && x.data.length == 64 + 8 * m
    && (List.range 14).all (fun i => !s.paramRefused n i (w i) && reservedClear (paramReg n i) (w i))
    && reservedClear (AX_CTRL n) (w 14) && (w 14).toNat % 4 < 2 && !(w 14).getLsbD 2 && !(w 14).getLsbD 3 && (!(w 14).getLsbD 4 || c.rxTarget n)
    && (readPairs (x.data.drop 64)).all (fun p =>
      p.1 % 4 == 0 && ((0x108100 + 0x80 * n ≤ p.1 && p.1 < 0x108180 + 0x80 * n)
          || (0x107100 + 0x40 * n ≤ p.1 && p.1 < 0x107140 + 0x40 * n))
        && (regRow p.1).isSome && reservedClear p.1 p.2 && !s.pairRefused n p.1 p.2)

/-- A section on its own (R79, R80). -/
def Container.sectOk (c : Container) (x : Sect) : Bool :=
  match x.typ with
  | 0x01 => c.bridgesOk
  | 0x02 => c.pinsOk
  | 0x03 => c.slotsOk
  | 0x04 => c.banksOk
  | 0x05 => c.enginesOk
  | 0x06 => c.timingOk
  | 0x10 => c.listOk x
  | 0x11 => rampOk x
  | 0x12 => c.camOk x
  | 0x13 => x.inst < 12 && x.data.length == 64
  | 0x14 => c.paramOk x
  | 0x15 => c.mapOk
  | 0x16 => thermalOk x.data
  | 0x17 => x.data.length % 8 == 0 && (readPairs x.data).all (fun p => regAddrOk p.1)
  | _ => true

/-- The types of the table of R77. -/
def knownType (t : Nat) : Bool := outside 1 6 t == false || outside 0x10 0x17 t == false || t == 0x7F

/-- The types with one instance, coded 0 (R77). -/
def singleType (t : Nat) : Bool := outside 1 6 t == false || outside 0x15 0x17 t == false

/-- A directory entry (R74, R78). -/
def dirOk (x : Sect) : Bool :=
  x.flags % 32768 == 0 && x.rsv == 0
    && (if knownType x.typ then
          (!singleType x.typ || x.inst == 0) && (x.load == 0 || (0x11 ≤ x.typ && x.typ ≤ 0x13))
        else x.flags == 32768)

/-- The bytes from `a` on lie in banks that hold a table image (R80), at a multiple of 4 (R155). -/
def Container.inImage (c : Container) (a n : Nat) : Bool :=
  let isImage (b : Nat) : Bool := match c.banks[b]? with | some e => e.image | none => false
  let ok (x : Nat) : Bool := match bankOf x with | some b => isImage b | none => false
  a % 4 == 0 && (List.range (n / 4)).all (fun i => ok (a + 4 * i))

/-- A block of an axis context lies in a bank that holds a table image (R80, R164). -/
def Container.contextInImage (c : Container) : Bool :=
  (List.range 8).any (fun e =>
    match c.find 0x10 e with
    | none => false
    | some x =>
      ((readPage x.data).stateBanks (c.serves e).length).any (fun k =>
        match c.banks[k]? with | some m => m.image | none => false))

/-- The rules between sections (R80, R215). -/
def Container.crossOk (c : Container) : Bool :=
  sameSet c.axes (c.bridges.map Bridge.axis) && sameSet c.axes (c.engines.map EngineEntry.axis)
    && [0x11, 0x13, 0x14].all (fun t => sameSet c.axes (c.insts t))
    && c.sects.all (fun x => !(0x11 ≤ x.typ && x.typ ≤ 0x13) ||
      (c.inImage x.load x.data.length && c.inImage (x.load + (reelHdr c.head).imageDelta) x.data.length))
    && distinct ((c.sects.filter (fun x => x.typ == 0x12)).flatMap camClaims)
    && !c.contextInImage

/-- Check 9 of R88 (R78, R80). -/
def Container.fieldsOk (c : Container) : Bool :=
  hdrFieldsOk c.head && c.sects.all dirOk && c.sects.all c.sectOk && c.crossOk

/-! ### Schedule (check 10) -/

/-- A conversion: its start in ticks after the cut, its core, its channel (a sensor counting as one), its destination. -/
structure Conv where
  t : Nat
  core : Nat
  ch : Nat
  dest : Nat
  deriving DecidableEq, Repr

/-- The conversions of the schedule, the partners of R393 included. -/
def Container.convs (c : Container) : List Conv :=
  c.slots.flatMap (fun x =>
    let k : Conv := { t := x.offset, core := x.core, ch := x.channel * 4 + (if x.channel = 49 then x.gain else 0)
                      dest := x.dest }
    if x.interleave then [k, { k with t := k.t + 8, core := k.core + 1 }] else [k])

/-- Two starts closer than `n`. -/
def near (n a b : Nat) : Bool := decide (a < b + n) && decide (b < a + n)

/-- `p` holds of no two elements. -/
def noPair {β : Type} (p : β → β → Bool) : List β → Bool
  | [] => true
  | x :: t => !t.any (p x) && noPair p t

/-- Some core of AD0 to AD4 keeps a free window of 16 ticks between C + 4 and MIN_LEN − 92 (R391). A window that begins
at C + 4 or right after a conversion is enough to look at. -/
def freeWindow (starts : List Nat) (close : Nat) : Bool :=
  (4 :: starts.map (fun t => t + 16)).any (fun f =>
    decide (4 ≤ f) && decide (f + 16 ≤ close) && starts.all (fun t => !near 16 f t))

/-- Check 10 of R88 (R81, R261, R391). -/
def Container.scheduleOk (c : Container) : Bool :=
  let minLen := (reelHdr c.head).minLen
  let close := minLen - 92
  let cs := c.convs
  let ends := (cs.filter (fun k => k.dest != 0)).map Conv.t
  c.sects.all (fun x => x.typ != 0x10 ||
      let p := readPage x.data
      let n := p.shots.foldl (fun n w =>
        let s : Shot := { e := 0, ctx := 0, w := w, consts := p.consts, delta := 0 }
        n + s.cycles (s.b 0)) 0
      p.cycles == n && p.cycles ≤ 3 * (minLen - 96))
    && cs.all (fun k => k.t + 16 ≤ close)
    && noPair (fun a b => a.core == b.core && near 16 a.t b.t) cs
    && noPair (fun a b => a.ch == b.ch && near 5 a.t b.t) cs
    && ends.all (fun t => (ends.filter (fun u => t ≤ u && u < t + 12)).length < 4)
    && (List.range 5).all (fun k => freeWindow ((cs.filter (fun x => x.core == k)).map Conv.t) close)

/-! ### Verification -/

/-- Checks 6 to 10 of R88 against a running firmware version and a part: the fault code of the first that fails. -/
def Container.judge (c : Container) (fw : Nat) (p : Part) : Option Nat :=
  if fw < (reelHdr c.head).fwMin then some 0x030B
  else if c.missing then some 0x0308
  else if c.namesAbsent p then some 0x0307
  else if !c.fieldsOk then some 0x0309
  else if !c.scheduleOk then some 0x030A
  else none

/-- The bytes of reel slot `k` as stored (R88), up to its status area. -/
def State.slotBytes (s : State) (k : Nat) : List Byte := s.flashBytes (slotBase k) (slotRoom k)

/-- The fault codes of the integrity checks in the order of R88. -/
def integrityChecks : List Nat := [0x0303, 0x0302, 0x0304, 0x0306, 0x0305]

/-- The check of R88 that an uncorrectable word of reel slot `k` fails (R555): the header's, the directory's or the
trailer's, as it lies. -/
def State.deadCheck (s : State) (k : Nat) : Option Nat :=
  let h := s.slotHead k
  let dirEnd := 0x84 + 24 * le16 h 0x0A
  let dead (a b : Nat) : Bool := s.flashDeadIn (slotBase k + a) (b - a)
  if dead 0 0x80 then some 0x0302
  else if dead 0x80 dirEnd then some 0x0304
  else if dead dirEnd (le32 h 0x0C).toNat then some 0x0306
  else none

/-- Reel slot `k` under the integrity checks 1 to 5 of R88: the container, or the fault code of the first that fails. -/
def State.readReel (s : State) (k : Nat) : Except Nat Container :=
  match readContainer (s.slotBytes k), s.deadCheck k with
  | r, none => r
  | .ok _, some f => .error f
  | .error g, some f => .error (if integrityChecks.idxOf g ≤ integrityChecks.idxOf f then g else f)

/-- How much of reel slot `k` the integrity checks read before they end (R88): the header, the directory with it, or the
whole reel. -/
def State.reelSpan (s : State) (k : Nat) : Nat :=
  match s.readReel k with
  | .error f => if f = 0x0303 || f = 0x0302 then 0x80 else if f = 0x0304 then 0x84 + 24 * le16 (s.slotHead k) 0x0A
    else (le32 (s.slotHead k) 0x0C).toNat
  | .ok _ => (le32 (s.slotHead k) 0x0C).toNat

/-- Reel slot `k` is read for the checks of R88 (R555). -/
def State.reelNotice (s : State) (k : Nat) : State := s.flashNotice (slotBase k) (s.reelSpan k)

/-- The reel in slot `k` under checks 1 to 10 of R88: the container, or the failing check's fault code and whether it is
an integrity check. -/
def State.verifyReel (s : State) (k : Nat) : Except (Nat × Bool) Container :=
  match s.readReel k with
  | .error f => .error (f, true)
  | .ok c =>
    match c.judge (s.fld MGT_FW.VERSION) s.part with
    | some f => .error (f, false)
    | none => .ok c

/-- The code of the first check that the reel of slot `k` fails, and whether it is an integrity check (R88, R89). -/
def State.reelFault (s : State) (k : Nat) : Option (Nat × Bool) :=
  match s.verifyReel k with
  | .error f => some f
  | .ok _ => none

/-- Checks 1 and 2 hold over the header of reel slot `k`: the candidate rule of R87. -/
def State.headOk (s : State) (k : Nat) : Bool :=
  let h := s.slotHead k
  hdrFormatOk h && hdrCrcOk h && !s.flashDeadIn (slotBase k) 0x80

/-- TAKE of slot `k` for REEL_SLOT_x: 0 when the header fails its check (R108). -/
def State.slotTake (s : State) (k : Nat) : Half :=
  let h := s.slotHead k
  if hdrCrcOk h && !s.flashDeadIn (slotBase k) 0x80 then BitVec.ofNat 16 (le16 h 0x08) else 0

/-! ### Firmware images -/

/-- The bit of PARTS that stands for a part (R556). -/
def Part.bit : Part → Nat
  | .itx1216 => 0 | .itx1208l => 1 | .itx1204h => 2

/-- The header of firmware slot `k` (R556). -/
def State.fwHead (s : State) (k : Nat) : List Byte := s.flashBytes (slotBase k) 0x80

/-- HDR_CRC of a firmware header holds (R556). -/
def fwCrcOk (h : List Byte) : Bool := crc32c (h.take 0x3C) == le32 h 0x3C

/-- The header of firmware slot `k` passes its checks, the first ones of R558: MAGIC, FORMAT, LENGTH, HDR_CRC and PARTS.
-/
def State.fwHeadOk (s : State) (k : Nat) : Bool :=
  let h := s.fwHead k
  let len := (le32 h 8).toNat
  le32 h 0 == 0x49574653 && le16 h 4 == 1 && len % 4 == 0 && !outside 0x100 0x17F00 len
    && fwCrcOk h && !s.flashDeadIn (slotBase k) 0x80 && (le32 h 0x0C).getLsbD s.part.bit && (le32 h 0x0C).toNat < 8

/-- Firmware slot `k` is read for the checks of R558 (R555): its header, and the image where the header passes. -/
def State.fwNotice (s : State) (k : Nat) : State :=
  s.flashNotice (slotBase k) (if s.fwHeadOk k then (le32 (s.fwHead k) 8).toNat else 0x80)

/-- The image in firmware slot `k` passes the checks of R558. -/
def State.fwOk (s : State) (k : Nat) : Bool :=
  let h := s.fwHead k
  let len := (le32 h 8).toNat
  let img := s.flashBytes (slotBase k) (min len 0x17F00)
  s.fwHeadOk k && !s.flashDeadIn (slotBase k) len
    && crc32c (img.drop 0x80) == le32 h 0x10
    && Config.authOk (img.take 0x40 ++ img.drop 0x80) ((h.drop 0x40).take 64)

/-- VERSION of firmware slot `k` (R556); 0 when the header fails its check. -/
def State.fwVersion (s : State) (k : Nat) : Nat :=
  if fwCrcOk (s.fwHead k) && !s.flashDeadIn (slotBase k) 0x80 then le16 (s.fwHead k) 6 else 0

end Sys2Proof.Machine
end

