-- ==== Sys2Proof/Machine/Mgt.lean ====
section
/-!
DEFINITION. The management core: slot states, the continuity log in flash, the update path, the firmware splice and its
trial, and the work MC does on its own (chapter 17).
-/
namespace Sys2Proof.Machine

/-! ### Open bytes -/

/-- `n` open bytes, and the state that has drawn them. -/
def State.drawBytes (s : State) : Nat → List Byte × State
  | 0 => ([], s)
  | n + 1 =>
    let d := s.draw
    let r := d.2.drawBytes n
    (d.1.setWidth 8 :: r.1, r.2)

/-- The bytes `l` stand in flash from `o` on, whatever stood there. -/
def State.setFlash (s : State) : Nat → List Byte → State
  | _, [] => s
  | o, b :: t => ({ s with flash := Store.put (fun _ => 0xFF) s.flash o b }).setFlash (o + 1) t

/-! ### Slot states -/

/-- Show slot `k` in its register: its state, and the take or version of its header (R108, R579). -/
def State.readSlot (s : State) (k : Nat) : State :=
  match k with
  | 0 => (s.put REEL_SLOT_A.STATE (s.slotState 0)).put REEL_SLOT_A.TAKE (s.slotTake 0).toNat
  | 1 => (s.put REEL_SLOT_B.STATE (s.slotState 1)).put REEL_SLOT_B.TAKE (s.slotTake 1).toNat
  | 2 => (s.put MGT_FW_SLOT_A.STATE (s.slotState 2)).put MGT_FW_SLOT_A.VERSION (s.fwVersion 2)
  | _ => (s.put MGT_FW_SLOT_B.STATE (s.slotState 3)).put MGT_FW_SLOT_B.VERSION (s.fwVersion 3)

/-- Program the state word of slot `k` (R69). -/
def State.setSlot (s : State) (k st : Nat) : State :=
  (s.program (slotBase k + slotRoom k) (wordBytes (slotWord st))).readSlot k

/-- The active reel slot. -/
def State.activeReel (s : State) : Nat := s.fld REEL_STAT.ACTIVE_SLOT

/-- The active firmware slot, 2 or 3. -/
def State.activeFw (s : State) : Nat := 2 + s.fld MGT_FW.ACTIVE_SLOT

/-- A reel is loaded (ACTIVE_TAKE is 0x0000 before the first load, R108). -/
def State.hasTake (s : State) : Bool := s.fld REEL_STAT.ACTIVE_TAKE != 0

/-- A splice is STAGING or ARMED (R93). -/
def State.splicing (s : State) : Bool := s.fld REEL_STAT.SPLICE_STATE == 1 || s.fld REEL_STAT.SPLICE_STATE == 2

/-- Slot `k` is active, or the source of a splice in progress (R70). -/
def State.slotHeld (s : State) (k : Nat) : Bool :=
  (decide (k < 2) && s.hasTake && k == s.activeReel)
    || (decide (2 ≤ k) && s.mgt.mcOk && k == s.activeFw)
    || (s.splicing && k == s.fld REEL_SPLICE.SLOT)
    || s.mgt.fwSplice == some k

/-! ### The continuity log -/

/-- The flash offset of log sector `i` (R554, R568). -/
def logBase (i : Nat) : Nat := 0xF0000 + 0x1000 * i

/-- The bytes of a record with its SEQ and its check (R569). -/
def LogRec.bytes (r : LogRec) (seq : Word) : List Byte :=
  let half (h : Half) : List Byte := [h.extractLsb' 0 8, h.extractLsb' 8 8]
  let b := wordBytes seq ++ half r.epoch ++ wordBytes (r.slate.setWidth 32) ++ half (r.slate.extractLsb' 32 16)
    ++ half (BitVec.ofNat 16 r.code) ++ [BitVec.ofNat 8 r.kind, BitVec.ofNat 8 r.aux]
    ++ wordBytes r.data0 ++ wordBytes r.data1 ++ wordBytes r.data2
  b ++ wordBytes (crc32c b)

/-- The header of a log sector (R568). -/
def sectorHeader (seq erases : Word) : List Byte :=
  let b := wordBytes 0x474F4C53 ++ wordBytes seq ++ wordBytes erases ++ List.replicate 16 0
  b ++ wordBytes (crc32c b)

/-- The sequence number and the erase count of a valid sector header. -/
def State.sectorSeq (s : State) (i : Nat) : Option (Word × Word) :=
  let h := s.flashBytes (logBase i) 32
  if le32 h 0 = 0x474F4C53 && crc32c (h.take 28) = le32 h 28 && !s.flashDeadIn (logBase i) 32 then some (le32 h 4, le32 h 8) else none

/-- The places of a sector that hold a valid record, each with its record (R573). -/
def State.sectorPlaces (s : State) (i : Nat) : List (List Byte × Nat) :=
  (chunks 127 32 (s.flashBytes (logBase i + 32) (127 * 32))).zipIdx.filter (fun r =>
    crc32c (r.1.take 28) == le32 r.1 28 && !s.flashDeadIn (logBase i + 32 + 32 * r.2) 32)

/-- The valid records of a sector, the newest first (R573). -/
def State.sectorRecs (s : State) (i : Nat) : List (List Byte) :=
  match s.sectorSeq i with
  | none => []
  | some _ => ((s.sectorPlaces i).map Prod.fst).reverse

/-- The records of the log, the newest first: sector by sector backwards round the ring. -/
def State.logAll (s : State) : List (List Byte) :=
  (List.range 16).flatMap (fun k => s.sectorRecs ((s.mgt.logSector + 16 - k) % 16))

/-- Word `k` of the selected record (R574, R579). -/
def State.logWord (s : State) (back k : Nat) : Word :=
  match s.logAll[back]? with
  | some r => le32 r (4 * k)
  | none => 0

/-- The next sector of the ring after `i` that is not retired (R568, R573). -/
def State.nextSector (s : State) (i : Nat) : Nat :=
  match (List.range 16).find? (fun k => !s.mgt.logRetired.getLsbD ((i + 1 + k) % 16)) with
  | some k => (i + 1 + k) % 16
  | none => i

/-- Sector `i` stands erased. -/
def State.sectorBlank (s : State) (i : Nat) : Bool := (s.flashBytes (logBase i) 0x1000).all (fun b => b == 0xFF)

/-- An open word, and the state that has drawn it. -/
def State.drawWord (s : State) : Word × State := let d := s.draw; (d.1.setWidth 32, d.2)

/-- MC scans the log at BOOT (R573): the present sector, its last valid record, the newest SEQ and the records held. A
log without a valid sector begins with sector 0; the number of its first sector, and the erase count of a sector that
stands erased already, the manual does not give. -/
def State.logScan (s : State) : State :=
  let s := s.flashNotice 0xF0000 0x10000
  let heads := (List.range 16).filterMap (fun i => (s.sectorSeq i).map (fun q => (i, q.1)))
  let d := s.drawWord
  let best := heads.foldl (fun (b : Option (Nat × Word)) x => match b with
    | some y => if y.2.toNat < x.2.toNat then some x else some y
    | none => some x) none
  let used (i : Nat) : Nat := (s.sectorPlaces i).foldl (fun m r => max m (r.2 + 1)) 0
  let (sect, seq, cnt, s) := match best with
    | some (i, q) => (i, q, used i, s)
    | none => (15, d.1, 127, d.2)
  let s := { s with mgt := { s.mgt with
      logOpen := true, logSector := sect, logCount := cnt, logSectorSeq := seq, logNext := none, logRetired := 0 } }
  let all := s.logAll
  let s := (s.put MGT_LOG_STAT.HELD all.length).put MGT_LOG_STAT.SECTOR sect
  let s := s.setWord MGT_LOG_SEQ (match all.head? with | some r => le32 r 0 | none => 0)
  if s.sectorBlank (s.nextSector sect) then
    let d := s.drawWord
    { d.2 with mgt := { d.2.mgt with logNext := some d.1 } }
  else s

/-- The present sector is full: the next one, which stands erased, takes its place with its header (R568). While its
erase still runs, nothing happens. -/
def State.turnSector (s : State) : State :=
  if s.mgt.logCount < 127 then s
  else
    match s.mgt.logNext with
    | none => s
    | some er =>
      let i := s.nextSector s.mgt.logSector
      let q := s.mgt.logSectorSeq + 1
      let s := { s with mgt := { s.mgt with logSector := i, logCount := 0, logSectorSeq := q, logNext := none } }
      (s.program (logBase i) (sectorHeader q er)).put MGT_LOG_STAT.SECTOR i

/-- The SEQ of the next record (R573). -/
def State.nextSeq (s : State) : Word := if s.word MGT_LOG_SEQ + 1 = 0 then 1 else s.word MGT_LOG_SEQ + 1

/-- The oldest waiting record is programmed in the next place and read back; where it reads back wrong, as `fail` has it
or because the place was not blank, it is left in place and stays the next one to be written (R572). -/
def State.writeRecord (s : State) (fail : Bool) : State :=
  match s.mgt.queue with
  | [] => s
  | r :: t =>
    let s := s.turnSector
    if 127 ≤ s.mgt.logCount then s
    else
      let o := logBase s.mgt.logSector + 32 + 32 * s.mgt.logCount
      let l := r.bytes s.nextSeq
      let s := { s with mgt := { s.mgt with logCount := s.mgt.logCount + 1 } }
      if fail then
        let d := s.drawBytes 32
        (d.2.setFlash o d.1).raise 0x1003
      else
        let s := s.program o l
        if s.flashBytes o 32 != l then s.raise 0x1003
        else (({ s with mgt := { s.mgt with queue := t } }).setWord MGT_LOG_SEQ s.nextSeq).bump MGT_LOG_STAT.HELD 1

/-- MC writes the log: it runs, and has scanned it (R558, R573). -/
def State.logging (s : State) : Bool := s.mcRuns && s.mgt.logOpen

/-- LOG_RECORD_WRITE: the oldest waiting record is programmed and read back (R572). -/
def execLogRecordWrite (fail : Bool) (s : State) : Out :=
  whenPowered s fun s => if s.logging then s.writeRecord fail else s

/-- LOG_SECTOR_ERASE: the erase of the next log sector ends; a failed one retires the sector (R568, R573). -/
def execLogSectorErase (fail : Bool) (s : State) : Out :=
  whenPowered s fun s =>
    if !s.mcRuns || !s.mgt.logOpen || s.mgt.logNext.isSome then s
    else
      let i := s.nextSector s.mgt.logSector
      let old := (s.sectorRecs i).length
      let erases := s.sectorSeq i
      let s := s.put MGT_LOG_STAT.HELD (s.fld MGT_LOG_STAT.HELD - old)
      if fail then
        let d := s.drawBytes 0x1000
        let s := d.2.setFlash (logBase i) d.1
        ({ s with mgt := { s.mgt with logRetired := s.mgt.logRetired ||| (1#16 <<< i) } }).raise 0x1205
      else
        let s := s.eraseFlash (logBase i) 0x1000
        match erases with
        | some q => { s with mgt := { s.mgt with logNext := some (q.2 + 1) } }
        | none => let d := s.drawWord; { d.2 with mgt := { d.2.mgt with logNext := some d.1 } }

/-! ### The update path -/

/-- FREE: the page buffers that hold nothing (R560, R579). -/
def State.updFree (s : State) : Nat := if s.mcRuns || s.mgt.bootRom then 2 - s.mgt.bufs.length else 0

/-- The take or version concerned, or ADDR, in the UPDATE record of a command (R570). -/
def State.updInfo (s : State) (cmd k : Nat) : Word :=
  if cmd = 4 || cmd = 5 || cmd = 6 then u32 (if k < 2 then (s.slotTake k).toNat else s.fwVersion k)
  else u32 (s.fld MGT_UPD_ADDR.ADDR)

/-- The outcome of an update command, with its record (R562, R570): 1 OK, 2 REFUSED, 3 FAILED. -/
def State.updOutcome (s : State) (cmd k result reason : Nat) : State :=
  let s := (s.put MGT_UPD_STAT.RESULT result).put MGT_UPD_STAT.REASON reason
  s.logRec (s.mkRec 0x04 0 cmd (u32 (k + result * 2 ^ 8 + reason * 2 ^ 12)) (s.updInfo cmd k)
    (u32 (s.fld MGT_UPD_STAT.PAGES)))

/-- A command that ran has ended. -/
def State.updDone (s : State) (cmd k result : Nat) : State :=
  ({ s with mgt := { s.mgt with running := none } }).updOutcome cmd k result 0

/-- A command or data write that is refused (R562). -/
def State.updRefuse (s : State) (cmd k reason : Nat) : State := (s.updOutcome cmd k 2 reason).refuse

/-- The open transfer ends, and its buffers with it (R559). -/
def State.closeTransfer (s : State) : State := { s with mgt := { s.mgt with opened := none, bufs := [] } }

/-- FW_SPLICE to slot `k` is excluded (R563). -/
def State.fwSpliceExcluded (s : State) (k : Nat) : Bool :=
  s.sys.mode == .boot || decide (s.fwVersion k < s.reel.active.hdr.fwMin) || s.splicing
    || s.flag REEL_STAT.TRIAL || s.flag MGT_FW.TRIAL || s.flag INT_STAT.WINDOW

/-- The reason for which command `cmd` on slot `k` is refused, 0 for none (R562): the first of the table that holds. -/
def State.updReason (s : State) (cmd k : Nat) : Nat :=
  let st := s.slotState k
  let open_ := s.mgt.opened
  if cmd != 6 && s.slotHeld k then 1
  else if cmd = 2 && st != slErased then 2
  else if (cmd = 3 || cmd = 7) && open_ != some k then 3
  else if s.mgt.running.isSome then 5
  else if (cmd = 4 && st != slWritten) || (cmd = 5 && (k < 2 || (st != slVerified && st != slGood))) then 6
  else if (cmd = 5 && s.fwSpliceExcluded k) || (cmd = 6 && (!s.flag MGT_FW.TRIAL || k != s.activeFw)) then 7
  else if (cmd = 1 || cmd = 2 || cmd = 4 || cmd = 5) && open_.isSome then 8
  else 0

/-- A slot made GOOD in BOOT starts the selection again (R561), but that of a reel not with TEST high: no reel is loaded
(R596). -/
def State.selectAgain (s : State) (k : Nat) : State :=
  let reel := decide (k < 2) && s.mgt.mcOk
  if s.sys.mode = .boot && !(reel && s.flag SYS_STAT.TEST) then
    { s with sys := { s.sys with boot := if reel then .firmware else .rails } }
  else s

/-- VERIFY of slot `k` (R561). -/
def State.updVerify (s : State) (k : Nat) : State :=
  let kin := if k < 2 then 1 - k else 5 - k
  let pass (s : State) : State :=
    let good := s.slotState kin != slGood
    let s := (s.setSlot k (if good then slGood else slVerified)).updOutcome 4 k 1 0
    s.when good (fun s => s.selectAgain k)
  let s := if k < 2 then s.reelNotice k else s.fwNotice k
  if k < 2 then
    match s.verifyReel k with
    | .ok _ => pass s
    | .error (code, integrity) =>
      let s := s.when integrity (fun s => s.setSlot k slRejected)
      (s.raise code).updOutcome 4 k 3 0
  else if s.fwOk k then pass s
  else (s.setSlot k slRejected).updOutcome 4 k 3 0

/-- Every buffer is to be programmed (R559). -/
def State.closeBufs (s : State) : State :=
  { s with mgt := { s.mgt with bufs := s.mgt.bufs.map (fun b => { b with closing := true }) } }

/-- An accepted command (R559). -/
def State.updStart (s : State) (cmd k : Nat) : State :=
  let s := s.put MGT_UPD_STAT.LAST_CMD cmd
  let s := s.put MGT_UPD_STAT.TARGET k
  let s := (s.put MGT_UPD_STAT.RESULT 0).put MGT_UPD_STAT.REASON 0
  let run (s : State) : State := { s with mgt := { s.mgt with running := some (cmd, k) } }
  match cmd with
  | 1 => run s
  | 2 =>
    let s := { s with mgt := { s.mgt with opened := some k, bufs := [], pages := [] } }
    ((s.put MGT_UPD_ADDR.ADDR 0).put MGT_UPD_STAT.PAGES 0).updOutcome 2 k 1 0
  | 3 => if s.mgt.bufs.isEmpty then s.closeTransfer.updOutcome 3 k 1 0 else run s.closeBufs
  | 4 => s.updVerify k
  | 5 => run { s with mgt := { s.mgt with fwSplice := some k } }
  | 6 => ((s.put MGT_FW.TRIAL 0).setSlot k slGood).updOutcome 6 k 1 0
  | 7 => s.closeTransfer.updOutcome 7 k 1 0
  | _ => s

/-- A write of MGT_UPD_CTRL that reaches MC (R559, R562). A CMD of 0 starts nothing. -/
def State.updCtrl (s : State) (v : Word) : State :=
  let cmd := MGT_UPD_CTRL.CMD.of v
  let k := MGT_UPD_CTRL.TARGET.of v
  let keep (s : State) : State := (s.put MGT_UPD_CTRL.CMD cmd).put MGT_UPD_CTRL.TARGET k
  if cmd = 0 then keep s
  else
    let r := s.updReason cmd k
    if r = 0 then (keep s).updStart cmd k else s.updRefuse cmd k r

/-- The reason for which a data word at slot offset `a` is refused, 0 for none (R562). -/
def State.dataReason (s : State) (a : Nat) : Nat :=
  match s.mgt.opened with
  | none => 3
  | some k =>
    if slotRoom k ≤ a then 4
    else if s.mgt.running.isSome || (!s.mgt.bufs.any (fun b => b.page == a / 256) && s.updFree = 0) then 5
    else 0

/-- A word stored at slot offset `a` (R560): into the buffer that holds its page, or into a new one, while a buffer that
collected another page is programmed. -/
def State.storeWord (s : State) (a : Nat) (v : Word) : State :=
  let p := a / 256
  let put (b : PageBuf) : PageBuf := { b with words := Tbl.mod b.words (a % 256 / 4) (fun _ => v) }
  let bufs := s.mgt.bufs.map (fun b => if b.page = p then put b else { b with closing := true })
  let bufs := if bufs.any (fun b => b.page == p) then bufs else bufs ++ [put { page := p }]
  { s with mgt := { s.mgt with bufs := bufs } }

/-- A write of MGT_UPD_DATA that reaches MC (R560, R562). -/
def State.updData (s : State) (v : Word) : State :=
  let a := s.fld MGT_UPD_ADDR.ADDR
  let r := s.dataReason a
  if r = 0 then (s.storeWord a v).put MGT_UPD_ADDR.ADDR (a + 4)
  else ((s.put MGT_UPD_STAT.RESULT 2).put MGT_UPD_STAT.REASON r).refuse

/-- UPD_WRITE over CAN (R575): a data word at a named offset; whether it was taken. A repeat on a page that has been
programmed has REASON 4, before a REASON 5. -/
def State.updWriteAt (s : State) (a : Nat) (v : Word) : Bool × State :=
  let r := if s.dataReason a != 3 && s.mgt.pages.contains (a / 256) then 4 else s.dataReason a
  if r = 0 && a % 4 = 0 then (true, s.storeWord a v)
  else (false, (s.put MGT_UPD_STAT.RESULT 2).put MGT_UPD_STAT.REASON r)

/-- A write to a register of the MGT block that reaches MC (R19, R20, R579). -/
def State.mgtReach (s : State) (p : Path) (a : Nat) (v : Word) : State :=
  if a = MGT_UPD_CTRL then s.updCtrl v
  else if a = MGT_UPD_DATA then s.updData v
  else if a = MGT_FAULT then s.setWord a (s.word a &&& ~~~v)
  else if s.illegal p a v then s.refuse
  else s.setWord a ((s.word a &&& ~~~rwMask a) ||| (v &&& rwMask a))

/-- A write to a register of the MGT block (R563): while MC is stopped it waits for the restart. -/
def State.mgtWrite (s : State) (p : Path) (a : Nat) (v : Word) : State :=
  if s.mgt.stopped then { s with mgt := { s.mgt with held := s.mgt.held ++ [(p, a, v)] } } else s.mgtReach p a v

/-- The word that starts command `cmd` on slot `k`. -/
def updWord (cmd : Nat) (k : Fin 4) : Word := u32 (cmd + 16 * k.val)

/-- A write of MGT_UPD_CTRL by the host. -/
def State.hostUpd (s : State) (cmd : Nat) (k : Fin 4) : State := s.mgtWrite .host MGT_UPD_CTRL (updWord cmd k)

/-- UPD_ERASE (R559). -/
def execUpdErase (k : Fin 4) (s : State) : Out :=
  hostAccess s MGT_UPD_CTRL (some (updWord 1 k)) (fun s => s.hostUpd 1 k)

/-- UPD_OPEN (R559). -/
def execUpdOpen (k : Fin 4) (s : State) : Out :=
  hostAccess s MGT_UPD_CTRL (some (updWord 2 k)) (fun s => s.hostUpd 2 k)

/-- UPD_FLUSH (R559). -/
def execUpdFlush (k : Fin 4) (s : State) : Out :=
  hostAccess s MGT_UPD_CTRL (some (updWord 3 k)) (fun s => s.hostUpd 3 k)

/-- UPD_VERIFY (R561). -/
def execUpdVerify (k : Fin 4) (s : State) : Out :=
  hostAccess s MGT_UPD_CTRL (some (updWord 4 k)) (fun s => s.hostUpd 4 k)

/-- UPD_FW_SPLICE (R563). -/
def execUpdFwSplice (k : Fin 4) (s : State) : Out :=
  hostAccess s MGT_UPD_CTRL (some (updWord 5 k)) (fun s => s.hostUpd 5 k)

/-- UPD_FW_CONFIRM (R564). -/
def execUpdFwConfirm (k : Fin 4) (s : State) : Out :=
  hostAccess s MGT_UPD_CTRL (some (updWord 6 k)) (fun s => s.hostUpd 6 k)

/-- UPD_ABORT (R559). -/
def execUpdAbort (k : Fin 4) (s : State) : Out :=
  hostAccess s MGT_UPD_CTRL (some (updWord 7 k)) (fun s => s.hostUpd 7 k)

/-- UPD_DATA: a write of MGT_UPD_DATA (R560). -/
def execUpdData (v : Word) (s : State) : Out :=
  hostAccess s MGT_UPD_DATA (some v) (fun s => s.mgtWrite .host MGT_UPD_DATA v)

/-- ERASE_DONE: the erase of a slot ends (R559); `fail` names the sector whose erase failed, if one did. The sectors
before it stand erased, its own bytes are open, and those after it were not erased. -/
def execEraseDone (fail : Option Nat) (s : State) : Out :=
  whenPowered s fun s =>
    match s.mgt.running with
    | some (1, k) =>
      let n := (slotRoom k + 0x100) / 0x1000
      match fail with
      | none => ((s.eraseFlash (slotBase k) (0x1000 * n)).readSlot k).updDone 1 k 1
      | some i =>
        let i := min i (n - 1)
        let s := s.eraseFlash (slotBase k) (0x1000 * i)
        let d := s.drawBytes 0x1000
        ((d.2.setFlash (slotBase k + 0x1000 * i) d.1).readSlot k |>.raise 0x1201).updDone 1 k 3
    | _ => s

/-- PAGE_PROGRAMMED: a page buffer is programmed and read back (R560); `fail` is a page that reads back wrong, whose bytes
are open. -/
def execPageProgrammed (fail : Bool) (s : State) : Out :=
  whenPowered s fun s =>
    match s.mgt.opened, s.mgt.bufs.find? PageBuf.closing with
    | some k, some b =>
      let o := slotBase k + 256 * b.page
      let l := b.words.flatMap wordBytes
      let s := if fail then (let d := s.drawBytes 256; d.2.setFlash o d.1) else s.program o l
      let s := if s.slotState k = slErased then s.setSlot k slWritten else s.readSlot k
      let s := { s with mgt := { s.mgt with
          bufs := s.mgt.bufs.filter (fun x => x.page != b.page), pages := b.page :: s.mgt.pages } }
      let s := s.put MGT_UPD_STAT.PAGES (s.fld MGT_UPD_STAT.PAGES + 1)
      if fail || s.flashBytes o 256 != l then
        let cmd := match s.mgt.running with | some (c, _) => c | none => 2
        (s.closeTransfer.raise 0x1202).updDone cmd k 3
      else
        match s.mgt.running with
        | some (3, k) => if s.mgt.bufs.isEmpty then s.closeTransfer.updDone 3 k 1 else s
        | _ => s
    | _, _ => s

/-! ### Restarts and the firmware trial -/

/-- What a restart of MC ends (R559, R567): the open transfer, and the update command in progress. -/
def State.mcEnds (s : State) : State :=
  let s := { s.closeTransfer with reel := { s.reel with rechecking := false } }
  match s.mgt.running with
  | some (c, k) => ({ s with mgt := { s.mgt with fwSplice := none } }).updDone c k 3
  | none => s

/-- The writes that waited for MC reach it (R563). The host's status byte hears only of its own (R453); a refused write of
an RX_REG datum is counted (R434). -/
def State.mcDeliver (s : State) : State :=
  let l := s.mgt.held
  ({ s with mgt := { s.mgt with held := [] } }).each l (fun s h =>
    if h.1 = Path.host then s.mgtReach h.1 h.2.1 h.2.2
    else
      let r := s.apart (fun s => s.mgtReach h.1 h.2.1 h.2.2)
      r.2.when (r.1 != 0) (fun s => s.bump CAN_MAP_ERR.STALE 1))

/-- MC runs from firmware slot `k` from now on. -/
def State.mcFrom (s : State) (k : Nat) : State :=
  let s := { s with mgt := { s.mgt with stopped := false } }
  (s.put MGT_FW.ACTIVE_SLOT (k - 2)).put MGT_FW.VERSION (s.fwVersion k)

/-- The end of a failed firmware trial: MC restarts from the other slot (R564). -/
def State.fwTrialFail (s : State) : State :=
  let k := s.activeFw
  let s := (s.mcEnds.put MGT_FW.TRIAL 0).setSlot k slRejected
  let s := (s.raise 0x1004).mcFrom (5 - k)
  (s.logRec (s.mkRec 0x0A 0 3 (u32 (s.fld MGT_FW.VERSION)) 0 0)).mcDeliver

/-- MC restarts from the slot of a firmware splice (R563). -/
def State.fwSpliceDone (s : State) (k : Nat) : State :=
  let old := s.fld MGT_FW.VERSION
  let s := { s.closeTransfer with mgt := { s.closeTransfer.mgt with fwSplice := none } }
  let s := s.mcFrom k
  let s := if s.slotState k = slVerified then (s.setSlot k slTrial).put MGT_FW.TRIAL 1 else s
  let s := s.logRec (s.mkRec 0x05 0 1 (u32 (s.fld MGT_FW.VERSION)) (u32 old) (s.word REEL_STAT))
  let s := s.logRec (s.mkRec 0x0A 0 2 (u32 (s.fld MGT_FW.VERSION)) 0 0)
  (s.updDone 5 k 1).mcDeliver

/-- MC restarts from its new slot after a firmware splice, or from the other one after a watchdog restart or
a failed self-check in a trial (R563, R564). -/
def State.mcRestart (s : State) : State :=
  match s.mgt.stopped, s.mgt.fwSplice with
  | true, some k => s.fwSpliceDone k
  | _, _ => if s.flag MGT_FW.TRIAL then s.fwTrialFail else s

/-- FW_TRIAL_EXPIRE: FW_TRIAL seconds have passed without an MC restart (R564). -/
def execFwTrialExpire (s : State) : Out :=
  whenPowered s fun s =>
    if s.flag MGT_FW.TRIAL && s.mcRuns && s.fld MGT_POLICY.FW_TRIAL != 0 then
      (s.put MGT_FW.TRIAL 0).setSlot s.activeFw slGood
    else s

/-- MC_WATCHDOG: MC has not served its watchdog for 1 ms (R567). In a trial it stops until it restarts from the other
slot (R564). -/
def execMcWatchdog (s : State) : Out :=
  whenPowered s fun s =>
    if !s.mcRuns then s
    else
      let s := ((s.raise 0x1001).bump MGT_STAT.MC_RESETS 1).mcEnds
      if s.flag MGT_FW.TRIAL then { s with mgt := { s.mgt with stopped := true } }
      else s.logRec (s.mkRec 0x0A 0 1 (u32 (s.fld MGT_FW.VERSION)) 0 0)

/-- The scrub of slot `k` (R566). -/
def State.scrubSlot (s : State) (k : Nat) : State :=
  let bad := if k < 2 then (match s.readReel k with | .error _ => true | .ok _ => false) else !s.fwOk k
  let active := if k < 2 then k == s.activeReel else k == s.activeFw
  if s.slotState k != slGood || active then s
  else
    let s := if k < 2 then s.reelNotice k else s.fwNotice k
    if bad then (s.setSlot k slRejected).raise 0x1007 else s

/-- SCRUB: MC checks every inactive GOOD slot (R566). -/
def execScrub (s : State) : Out :=
  whenPowered s fun s => if s.mcRuns && s.sys.mode.supervises then s.each [0, 1, 2, 3] State.scrubSlot else s

/-! ### The flash window -/

/-- A program or erase runs in the region of flash offset `o` (R554, R555). -/
def State.regionBusy (s : State) (o : Nat) : Bool :=
  let slot : Option Nat := if o < 0x60000 then some 0 else if o < 0xC0000 then some 1 else if o < 0xD8000 then some 2
    else if o < 0xF0000 then some 3 else none
  match slot with
  | some k => s.mgt.running == some (1, k) || (s.mgt.opened == some k && s.mgt.bufs.any PageBuf.closing)
  | none => s.mcRuns && s.mgt.logOpen && (!s.mgt.queue.isEmpty || s.mgt.logNext.isNone)

/-- FLASH_BUSY: a program or erase runs (R579). -/
def State.flashBusy (s : State) : Bool := [0, 0x60000, 0xC0000, 0xD8000, 0xF0000].any s.regionBusy

/-- The double word of flash at offset `k` turns uncorrectable, its raw data open (R555, log 74). -/
def State.flashKill (s : State) (k : Nat) : State :=
  let d := s.draw
  { d.2 with flashFlaws := Assoc.put d.2.flashFlaws k (.dead d.1) }

/-- The 64-bit word of flash at offset `o` carries an error of a kind from now on, until its sector is erased (R555): a
single one is corrected at every read, a second one beside it is more than the code corrects, and the data that then stand
there are open (DEDUCED: log entry 74). -/
def State.flashSpoil (s : State) (o : Nat) (ecc : Ecc) : State :=
  let k := o / 8 * 8
  match Assoc.get s.flashFlaws k with
  | some (.dead _) => s
  | some .soft => s.when (ecc != .clean) (fun s => s.flashKill k)
  | none =>
    if ecc = .clean then s
    else if ecc = .uncorr then s.flashKill k
    else { s with flashFlaws := Assoc.put s.flashFlaws k .soft }

/-- A read of the flash window at host address `a` (R555): the word, and the state after faults and outcome. -/
def State.flashRead (s : State) (a : Nat) (ecc : Ecc) : Word × State :=
  let o := 0x80000 * s.fld MGT_FWIN.PAGE + a % 0x80000
  if s.regionBusy o then (0, s.refuse)
  else
    let w := bytesWord (s.flashBytes (o / 4 * 4) 4)
    let s := s.flashSpoil o ecc
    match Assoc.get s.flashFlaws (o / 8 * 8) with
    | some (.dead d) => (d.extractLsb' (o / 4 % 2 * 32) 32, s.raise 0x1204)
    | some .soft => (w, s.raise 0x1203)
    | none => (w, s)

/-! ### The registers that show MC's state -/

/-- MGT_STAT as read (R579). -/
def State.mgtStat (s : State) : Word :=
  u32 (s.mcRuns.toNat + s.flashBusy.toNat * 2 + (decide (64 ≤ s.mgt.queue.length)).toNat * 4
    + ((s.reel.fallback && s.splicing) || s.reel.fallbackWait).toNat * 8 + min 64 s.mgt.queue.length * 2 ^ 8
    + s.fld MGT_STAT.MC_RESETS * 2 ^ 16)

/-- MGT_UPD_STAT as read (R579). -/
def State.updStat (s : State) : Word :=
  s.word MGT_UPD_STAT ||| u32 (s.mgt.running.isSome.toNat * 8 + s.updFree * 2 ^ 6)

end Sys2Proof.Machine
end

