-- ==== Sys2Proof/Machine/Window.lean ====
section
/-!
DEFINITION. The end of a host frame, the late buffer, and the memory window of the serial port (R455, R456, R458, R462 to
R468): an ordinary read or write of the aperture becomes a command on the bus of an external memory.
-/
namespace Sys2Proof.Machine

/-! ### Host frames and the late buffer -/

/-- A word is placed in the late buffer (R455). One that it held is lost (R456). -/
def State.placeLate (s : State) (a : Nat) (w : Word) : State :=
  let s := s.when (s.flag SPI_LATE.VALID) (fun s => (s.bump SPI_HERR.LOST 1).raise 0x0D06)
  ({ s with spi := { s.spi with lateWord := w } }).setWord SPI_LATE (u32 (a % 2 ^ 24 + 2 ^ 31))

/-- The late buffer is emptied without delivery (R456). -/
def State.dropLate (s : State) : State :=
  if s.flag SPI_LATE.VALID then ((s.setWord SPI_LATE 0).bump SPI_HERR.LOST 1).raise 0x0D06 else s

/-- A window transaction begins: it is pending until the port can master the bus (R463). -/
def State.mwBegin (s : State) (j : MwJob) : State :=
  ({ s with spi := { s.spi with job := some j } }).put SPI_MW_STAT.BUSY 1

/-- SEL0_N rises on the open host frame (R449, R458): it is discarded, or completed. A value that was issued but not
delivered goes on to the late buffer, and words in the write buffer become a transaction (R462). -/
def State.frameClose (s : State) (discard : Bool) : State :=
  match s.spi.frame with
  | none => s
  | some f =>
    let s := { s with spi := { s.spi with frame := none, late := s.spi.late ++ (f.wait.take 1).map Prod.fst } }
    let s := s.when (!s.spi.writes.isEmpty && s.spi.job.isNone) (fun s => s.mwBegin .writes)
    if discard then
      let s := ({ s with spi := { s.spi with frameErr := true } }).put SPI_STAT.FRAME_ERR 1
      (s.bump SPI_HCNT.DISCARDS 1).raise 0x0D01
    else s.bump SPI_HCNT.FRAMES 1

/-! ### Accesses of the window -/

/-- The window is on and no transaction is pending or running (R463). -/
def State.mwFree (s : State) : Bool := s.flag SPI_CTRL.MW_EN && !s.flag SPI_MW_STAT.BUSY

/-- The external address of aperture word `o` (R462). -/
def State.mwExt (s : State) (o : Nat) : Nat := ((s.word SPI_MW_BASE).toNat + 4 * o) % 2 ^ 24

/-- The host address of aperture word `o` (R474). -/
def aperture (o : Nat) : Nat := 0x10C800 + 4 * o

/-- The line buffer is invalidated (R462). -/
def State.mwForget (s : State) : State := ({ s with spi := { s.spi with line := none } }).put SPI_MW_STAT.LINE_VALID 0

/-- A read of aperture word `o` by the host or over CAN (R462): its value, or none where the word becomes late. A refused
read yields 0. -/
def State.mwRead (s : State) (o : Nat) (can : Bool) : Option Word × State :=
  let e := s.mwExt o
  if !s.mwFree then (some 0, s.refuse)
  else
    match s.spi.line with
    | some (a, l) =>
      if a = e / 32 * 32 then (some (Tbl.get 0 l (e % 32 / 4)), s) else (none, s.mwBegin (.line e (aperture o) can))
    | none => (none, s.mwBegin (.line e (aperture o) can))

/-- A write of aperture word `o` (R462): it joins the write buffer, and the line buffer is invalidated. -/
def State.mwWrite (s : State) (o : Nat) (v : Word) : State :=
  if !s.mwFree then s.refuse
  else ({ s with spi := { s.spi with writes := Assoc.put s.spi.writes (s.mwExt o) v } }).mwForget

/-- With SEL0_N high, words in the write buffer are written out as soon as no other transaction runs (R462). -/
def State.mwFlush (s : State) : State :=
  s.when (!s.spi.writes.isEmpty && s.spi.frame.isNone && s.spi.job.isNone) (fun s => s.mwBegin .writes)

/-- A write of SPI_MW_BASE (R463, R474). -/
def State.mwBase (s : State) (v : Word) : State :=
  if s.mwFree then (s.setWord SPI_MW_BASE (v &&& rwMask SPI_MW_BASE)).mwForget else s.refuse

/-- A write of SPI_MW_RAW (R463, R466). -/
def State.mwRaw (s : State) (v : Word) : State :=
  if v.getLsbD 11 then (if s.mwFree then (s.setWord SPI_MW_RAW (v &&& rwMask SPI_MW_RAW)).mwBegin .raw else s.refuse)
  else s.setWord SPI_MW_RAW (v &&& rwMask SPI_MW_RAW)

/-! ### Transactions -/

/-- The port may master the bus for the window (R467, R584). -/
def State.mayMaster (s : State) : Bool := s.spi.frame.isNone && !s.spi.ignored && !s.inChainWindow && s.vioOk

/-- A transaction ends (R463): 0 for success, else an error with the address of the failing run (R464, R468). Words of a
frame that ended while another transaction ran are written out next (R462). -/
def State.mwEnd (s : State) (err : Nat) (addr : Nat) : State :=
  let own := s.spi.job == some .writes
  let s := { s with spi := { s.spi with
    job := none, polling := none, writes := if own then [] else s.spi.writes, mwErr := s.spi.mwErr || err != 0 } }
  let s := ((s.put SPI_MW_STAT.BUSY 0).put SPI_MW_STAT.DONE 1).put SPI_MW_STAT.ERR err
  let s := s.when (err != 0) (fun s => s.put SPI_MW_STAT.FAIL_ADDR addr)
  s.when (!s.spi.writes.isEmpty && s.spi.frame.isNone) (fun s => s.mwBegin .writes)

/-- The address that a raw command's failure shows: its own, or none that the manual gives. -/
def State.rawAddr (s : State) : Nat × State :=
  if s.flag SPI_MW_RAW.ADDR_EN then (s.fld SPI_MW_RAWADDR.ADDR, s) else let d := s.draw; (d.1.toNat % 2 ^ 24, d.2)

/-- The first run of the words waiting to be written, in address order (R462, R465): consecutive addresses within one
page, or a single word with SELW. -/
def firstRun (selw : Bool) (page : Nat) : List (Nat × Word) → List (Nat × Word)
  | [] => []
  | (a, v) :: t =>
    match firstRun selw page t with
    | [] => [(a, v)]
    | (b, w) :: r => if !selw && b == a + 4 && b / page == a / page then (a, v) :: (b, w) :: r else [(a, v)]

/-- The words of the write buffer in address order. -/
def sortWrites : List (Nat × Word) → List (Nat × Word)
  | [] => []
  | p :: t => let l := sortWrites t; l.takeWhile (fun q => decide (q.1 < p.1)) ++ p :: l.dropWhile (fun q => decide (q.1 < p.1))

/-- The commands that the port sends in this step. -/
def State.mwSend (s : State) (l : List MwCmd) : State := { s with spi := { s.spi with sent := l } }

/-- The lane mode of a code of SPI_MW_FMT (R474); 3 is illegal. -/
def laneOf (n : Nat) : Lane := match n with | 0 => .single | 1 => .pair | _ => .dual

/-- A window command of opcode `op` in the formats of SPI_MW_CFG and SPI_MW_FMT (R464, R474). -/
def State.mwCmd (s : State) (op : Nat) (addr : Option Nat) (reads : Bool) (dummy : Nat) (data : List Word) : MwCmd :=
  { sel := if s.flag SPI_MW_CFG.SEL then 2 else 1, idle := s.flag SPI_MW_CFG.CPOL
    op := op, opLane := laneOf (s.fld SPI_MW_FMT.CMD_LANE), addr := addr, addrLane := laneOf (s.fld SPI_MW_FMT.ADDR_LANE)
    dummy := dummy, data := data
    dataLane := laneOf (if reads then s.fld SPI_MW_FMT.RD_LANE else s.fld SPI_MW_FMT.WR_LANE) }

/-- The WREN command, where the opcode is not zero (R464). -/
def State.wren (s : State) : List MwCmd :=
  if s.fld SPI_MW_OPS.WREN = 0 then [] else [s.mwCmd (s.fld SPI_MW_OPS.WREN) none false 0 []]

/-- The bits of a number of `n` bits, the most significant first (R447). -/
def msbFirst (n v : Nat) : List Bool := (List.range n).map (fun i => v.testBit (n - 1 - i))

/-- The levels that a driver puts on SIO1 and SIO0 in each cycle of a phase (R447): in PAIR the master drives SIO0 and the
slave SIO1, and in DUAL SIO1 carries the higher bit of each two. -/
def Lane.levels (l : Lane) (master : Bool) : List Bool → List (Option Bool × Option Bool)
  | [] => []
  | b :: t =>
    match l with
    | .single => (none, some b) :: l.levels master t
    | .pair => (if master then (none, some b) else (some b, none)) :: l.levels master t
    | .dual =>
      match t with
      | [] => [(some b, none)]
      | c :: u => (some b, some c) :: l.levels master u

/-- What the port drives on SIO1 and SIO0 in a window command: opcode, address and data (R447, R464). External bytes go in
the order of their addresses (R474). -/
def MwCmd.levels (c : MwCmd) : List (Option Bool × Option Bool) :=
  let addr := match c.addr with | some a => c.addrLane.levels true (msbFirst 24 a) | none => []
  c.opLane.levels true (msbFirst 8 c.op) ++ addr ++ List.replicate c.dummy (none, none) ++
    c.data.flatMap (fun w => c.dataLane.levels true ((wordBytes w).flatMap (fun b => msbFirst 8 b.toNat)))

/-- The next external command of the transaction (R464 to R466): one run of the write buffer, or the raw command. -/
def State.mwNext (s : State) : State :=
  match s.spi.job with
  | some .writes =>
    match firstRun (s.flag SPI_MW_CFG.SELW) (2 ^ (s.fld SPI_MW_CFG.PAGE + 5)) (sortWrites s.spi.writes) with
    | [] => s.mwEnd 0 0
    | (a, v) :: t =>
      let s := s.mwSend (s.wren ++ [s.mwCmd (s.fld SPI_MW_OPS.WR) (some a) false 0 (v :: t.map Prod.snd)])
      let rest := s.spi.writes.filter (fun p => !(decide (a ≤ p.1) && decide (p.1 ≤ a + 4 * t.length)))
      let s := { s with spi := { s.spi with writes := rest } }
      if s.flag SPI_MW_CFG.POLL then { s with spi := { s.spi with polling := some a } }
      else if rest.isEmpty then s.mwEnd 0 0 else s
  | some .raw =>
    let addr := if s.flag SPI_MW_RAW.ADDR_EN then some (s.fld SPI_MW_RAWADDR.ADDR) else none
    let pre := if s.flag SPI_MW_RAW.WREN_EN then s.wren else []
    let s := s.mwSend (pre ++ [s.mwCmd (s.fld SPI_MW_RAW.OP) addr false 0 []])
    if s.flag SPI_MW_RAW.POLL then
      let r := s.rawAddr
      { r.2 with spi := { r.2.spi with polling := some r.1 } }
    else s.mwEnd 0 0
  | _ => s

/-- MW_WRITE_OUT: the port masters the bus and sends the next write command of the transaction (R464), or the raw command
that waited for the end of a frame (R466). -/
def execMwWriteOut (s : State) : Out :=
  whenPowered s fun s => if s.mayMaster && s.spi.polling.isNone then s.mwNext else s

/-- MW_POLL: a status byte of the external memory is read (R464). -/
def execMwPoll (st : Byte) (s : State) : Out :=
  whenPowered s fun s =>
    match s.spi.polling with
    | none => s
    | some a =>
      if !s.mayMaster then s
      else
        let s := s.mwSend [s.mwCmd (s.fld SPI_MW_OPS.RDSR) none true 0 []]
        let busy := st.getLsbD (s.fld SPI_MW_CFG.BUSY_BIT) != s.flag SPI_MW_CFG.BUSY_POL
        if busy then s
        else if s.flag SPI_MW_CFG.ERR_EN && st.getLsbD (s.fld SPI_MW_CFG.ERR_BIT) then (s.mwEnd 2 a).raise 0x0D05
        else
          let s := { s with spi := { s.spi with polling := none } }
          if s.spi.job = some .raw || s.spi.writes.isEmpty then s.mwEnd 0 0 else s

/-- MW_TIMEOUT: the status poll is still busy after TMO (R464). -/
def execMwTimeout (s : State) : Out :=
  whenPowered s fun s =>
    match s.spi.polling with
    | some a => (s.mwEnd 1 a).raise 0x0D04
    | none => s

/-- The commands that read a line (R462, R465): one, or with SELW one for each word. -/
def State.lineCmds (s : State) (a : Nat) : List MwCmd :=
  let read (a : Nat) : MwCmd := s.mwCmd (s.fld SPI_MW_OPS.RD) (some a) true (s.fld SPI_MW_FMT.RD_DUMMY) []
  if s.flag SPI_MW_CFG.SELW then (List.range 8).map (fun i => read (a + 4 * i)) else [read a]

/-- The service request in hand is answered `a`: STATUS and value (R437). -/
def State.svcAnswer (s : State) (a : Nat × Word) : State :=
  { s with can := { s.can with svc := s.can.svc.map (fun (r : SvcReq) => { r with answer := some a }) } }

/-- The line buffer holds the line just read from `a` (R461). -/
def State.keepLine (s : State) (a : Nat) (ws : List Word) : State :=
  let s := s.mwSend (s.lineCmds a)
  ({ s with spi := { s.spi with line := some (a, ws) } }).put SPI_MW_STAT.LINE_VALID 1

/-- The word of a missed aperture read takes the place of a late word kept for the same address (R462). -/
def State.lateAnew (s : State) (host : Nat) (w : Word) : State :=
  let s := { s with spi := { s.spi with late := s.spi.late.filter (fun q => q.addr != host) } }
  s.placeLate host w

/-- MW_LINE_READ: the line that a late word waits for is read from the external memory (R462), as `l`, its lowest byte
first. The word goes to the late buffer, or answers the service request over CAN. -/
def execMwLineRead (l : BitVec 256) (s : State) : Out :=
  whenPowered s fun s =>
    match s.spi.job with
    | some (.line ext host can) =>
      if !s.mayMaster then s
      else
        let a := ext / 32 * 32
        let ws := (List.range 8).map (fun i => l.extractLsb' (32 * i) 32)
        let w : Word := Tbl.get 0 ws (ext % 32 / 4)
        let s := (s.keepLine a ws).mwEnd 0 0
        if can then s.svcAnswer (0, w) else s.lateAnew host w
    | _ => s

/-- MW_APERTURE_READ: a host read of aperture word `o` outside a frame of its own (R462). A missed word is late. -/
def execMwApertureRead (o : Fin 512) (s : State) : Out :=
  hostAccess s (aperture o) none (fun s =>
    match s.mwRead o false with
    | (none, s) => ((s.outcome 3).bump SPI_HERR.LATE 1).raise 0x0D08
    | (some w, s) => { s with spi := { s.spi with out := [w] } })

/-- MW_APERTURE_WRITE: a host write of aperture word `o` (R462). Outside a frame it is written out at once. -/
def execMwApertureWrite (o : Fin 512) (v : Word) (s : State) : Out :=
  hostAccess s (aperture o) (some v) (fun s => (s.mwWrite o v).mwFlush)

/-- MW_BASE_WRITE: a write of SPI_MW_BASE (R462, R463). -/
def execMwBaseWrite (v : Word) (s : State) : Out := hostAccess s SPI_MW_BASE (some v) (fun s => s.mwBase v)

/-- MW_RAW_GO: a write of SPI_MW_RAW with GO (R466): the command goes out as soon as the port masters the bus. -/
def execMwRawGo (v : Word) (s : State) : Out :=
  hostAccess s SPI_MW_RAW (some (v ||| 0x800#32)) (fun s =>
    let free := s.mwFree
    let s := s.mwRaw (v ||| 0x800#32)
    s.when (free && s.mayMaster) State.mwNext)

/-! ### SEL0_N while the port masters -/

/-- The port masters the bus: for the window, or as chain master in its window (R467, R468). -/
def State.mastering (s : State) : Bool :=
  (s.spi.job.isSome && s.mayMaster) || s.windowSelect.isSome

/-- SEL0_N falls while the port masters the bus (R468, R494): a window transaction and the chain window end, and the host
frame that begins is ignored. A service request that waits for a line is answered REFUSED, with an open value. -/
def State.mmFault (s : State) : State :=
  let run := match s.spi.polling with
    | some a => a
    | none => match s.spi.job with
      | some (.line e _ _) => e / 32 * 32
      | _ => (sortWrites s.spi.writes).head?.elim 0 Prod.fst
  let s := match s.spi.job, s.mayMaster with
    | some (.line _ _ true), true =>
      let d := (s.mwEnd 3 run).drawWord
      d.2.svcAnswer (1, d.1)
    | some .raw, true => if s.spi.polling.isSome then s.mwEnd 3 run else let r := s.rawAddr; r.2.mwEnd 3 r.1
    | some _, true => s.mwEnd 3 run
    | _, _ => s
  let s := { s with chn := { s.chn with windowEnd := none } }
  let s := { s with spi := { s.spi with frameErr := true, ignored := true } }
  (s.put SPI_STAT.MM_FAULT 1).raise 0x0D03

/-- MM_FAULT: SEL0_N falls while the port masters the bus (R468, R494). -/
def execMmFault (s : State) : Out := whenPowered s fun s => if s.mastering then s.mmFault else s

end Sys2Proof.Machine
end

