-- ==== Sys2Proof/Machine/Sys.lean ====
section
/-!
DEFINITION. Supply, operating modes and start-up (chapter 18): resets, the first steps of BOOT, mode requests and the
changes of mode at a cut, SLEEP and its wake events, and the supply comparators.
-/
namespace Sys2Proof.Machine

/-! ### What a loss of power or of clock leaves -/

/-- The state with every island but D0 as it comes up (R589, R598): what D0 keeps, the part, the flash, the outputs of the
supply comparators and the level of the WAKE pin remain. -/
def State.wiped (s : State) : State :=
  let r : State := { part := s.part, keep := s.keep, flash := s.flash, flashFlaws := s.flashFlaws
                     drawn := s.drawn, pending := s.pending }
  let r := { r with sys := { r.sys with
      causes := s.sys.causes, vioLow := s.sys.vioLow, hvRow := s.sys.hvRow, wakeLevel := s.sys.wakeLevel } }
  (r.put SYS_STAT.LV (s.fld SYS_STAT.LV)).put SYS_STAT.OV (s.fld SYS_STAT.OV)

/-- What D0 keeps without the position keep (R598): the sleep counter, slate, EPOCH and the other items stand (R27). -/
def Keep.discarded (k : Keep) : Keep :=
  { k with valid := false, used := 0, pos := List.replicate 12 0, eofs := List.replicate 12 0, rest := 0 }

/-- A reset by cause `c` (R598): every island except D0 stops, and D0 discards its position keep; in SLEEP it holds every
item down to 2.0 V (R590), and discards the positions when BOOT starts (DEDUCED: log entry 49). A cause that appears while
the device is held in reset is added to those present. -/
def State.resetBy (s : State) (c : Nat) : State :=
  let bit : BitVec 8 := 1#8 <<< (c - 1)
  if s.sys.inReset then { s with sys := { s.sys with
      causes := s.sys.causes ||| bit, vborLow := s.sys.vborLow || c == 2 } }
  else
    let r := s.wiped
    { r with
      keep := if s.sys.mode == .sleep then s.keep else s.keep.discarded
      sys := { r.sys with causes := bit, vborLow := c == 2 } }

/-! ### Mode requests -/

/-- A mode request refused or discarded (R585). -/
def State.modeRefuse (s : State) (reason : Nat) : State := (s.put SYS_MODE.REASON reason).raise 0x0106

/-- STRUCT_SIG of the splice in progress differs from that of the active take (R104). -/
def State.structChange (s : State) : Bool :=
  s.splicing && s.sys.mode == .standby
    && le32 (s.slotHead (s.fld REEL_SPLICE.SLOT)) 0x18 != s.reel.active.hdr.structSig

/-- A slave of an enabled chain that is not LOCKED does not leave STANDBY by request (R483). -/
def State.chainHolds (s : State) : Bool :=
  s.sys.mode == .standby && !s.sys.cascM && s.flag CHN_CTRL.EN && s.chState != chLocked

/-- Every used axis that is not parked is at rest (R586). -/
def State.allAtRest (s : State) : Bool := s.usedAxes.all (fun n => s.axisParked n || s.flag (AX_STAT.AT_REST n))

/-- A bit of INT_SAFE_CAUSE[6:0] is 1 (R544). -/
def State.safeHolds (s : State) : Bool := s.fld INT_SAFE_CAUSE.CAUSE % 128 != 0

/-- A reel or firmware trial runs (R103, R564). -/
def State.inTrial (s : State) : Bool := s.flag REEL_STAT.TRIAL || s.flag MGT_FW.TRIAL

/-- A wake source is enabled (R591). -/
def State.wakeEnabled (s : State) : Bool :=
  s.flag CAN_WAKE.PIN_EN || s.flag CAN_WAKE.BUS_EN || s.flag SYS_WAKE.TIMER_EN

/-- The reason for which request `req` is refused in the present state, 0 for none (R586). A request of SAFE is never
refused, also where R104 would refuse every request to leave STANDBY (DESIGN CHOICE: log entry 80). -/
def State.modeReason (s : State) (req : Nat) : Nat :=
  let m := s.sys.mode
  match req with
  | 1 =>
    if !(m == .run || m == .degraded || m == .safe || m == .service) then 1
    else if !s.allAtRest then 2 else if m == .safe && s.safeHolds then 4 else 0
  | 2 =>
    if !(m == .standby || m == .safe || m == .service) then 1
    else if s.structChange then 5 else if s.chainHolds then 6 else if m == .safe && s.safeHolds then 4 else 0
  | 3 => if m == .standby || m == .run || m == .degraded || m == .service then 0 else 1
  | 4 =>
    if !(m == .standby || m == .run || m == .degraded) then 1
    else if s.flag INT_STAT.WINDOW || s.splicing || s.inTrial then 7 else if s.chainHolds then 6 else 0
  | _ =>
    if m != .standby then 1
    else if (s.word CLK_FAULT).getLsbD 4 then 8 else if s.inTrial then 3 else if s.splicing then 5
    else if s.chainHolds then 6 else if !s.wakeEnabled then 9 else 0

/-- A write of SYS_MODE_REQ over a path (R585, R601). An accepted request waits for its cut, and one that leaves STANDBY
wakes the banks (R518). -/
def State.modeRequest (s : State) (p : Path) (v : Word) : State :=
  let req := SYS_MODE_REQ.REQ.of v
  let key := SYS_MODE_REQ.KEY.of v
  if req = 0 || req = 7 || (req != 6 && key != 0) then s.refuse
  else if req = 6 then (if key = 0xA5 then s.resetBy 6 else s.modeRefuse 10)
  else
    let r := s.modeReason req
    if r != 0 then s.modeRefuse r
    else
      let s := s.put SYS_MODE.PEND req
      let s := { s with sys := { s.sys with pendPath := p } }
      if s.sys.mode == .standby && req != 5 then s.wakeAll else s

/-- The word of a request with its key. -/
def reqWord (req : Nat) (key : Byte) : Word := u32 (req + 256 * key.toNat)

/-- A host request with its code and key. -/
def State.hostRequest (s : State) (req : Nat) (key : Byte) : State := s.modeRequest .host (reqWord req key)

/-- MODE_REQ_STANDBY (R586). -/
def execModeReqStandby (key : Byte) (s : State) : Out :=
  hostAccess s SYS_MODE_REQ (some (reqWord 1 key)) (fun s => s.hostRequest 1 key)

/-- MODE_REQ_RUN (R586). -/
def execModeReqRun (key : Byte) (s : State) : Out :=
  hostAccess s SYS_MODE_REQ (some (reqWord 2 key)) (fun s => s.hostRequest 2 key)

/-- MODE_REQ_SAFE (R586). -/
def execModeReqSafe (key : Byte) (s : State) : Out :=
  hostAccess s SYS_MODE_REQ (some (reqWord 3 key)) (fun s => s.hostRequest 3 key)

/-- MODE_REQ_SERVICE (R586). -/
def execModeReqService (key : Byte) (s : State) : Out :=
  hostAccess s SYS_MODE_REQ (some (reqWord 4 key)) (fun s => s.hostRequest 4 key)

/-- MODE_REQ_SLEEP (R586). -/
def execModeReqSleep (key : Byte) (s : State) : Out :=
  hostAccess s SYS_MODE_REQ (some (reqWord 5 key)) (fun s => s.hostRequest 5 key)

/-- MODE_REQ_RESET: at once, with the key (R586). -/
def execModeReqReset (key : Byte) (s : State) : Out :=
  hostAccess s SYS_MODE_REQ (some (reqWord 6 key)) (fun s => s.hostRequest 6 key)

/-! ### Changes of mode at a cut -/

/-- The device passes to mode `m` at this cut, with its cause (R601). HOST of INT_SAFE_CAUSE ends when SAFE is left
(R544), and AUTO_RUN with STANDBY. What the islands do for the change follows at the cut. -/
def State.changeMode (s : State) (m : Mode) (cause : Nat) : State :=
  let old := s.sys.mode
  let s := if old == .safe then s.safeCauseEnd 7 else s
  let s := { s with sys := { s.sys with
      cutFrom := some (s.sys.cutFrom.getD old)
      autoRun := if m == Mode.standby then s.sys.autoRun else none } }
  s.enter m cause

/-- The lowest bit of a value of `w` bits. -/
def lowestBit (w v : Nat) : Nat := ((List.range w).find? (fun i => v.testBit i)).getD 0

/-- A cause of SAFE that has arisen takes the device to SAFE and discards a pending request (R544, R588). -/
def State.safeEntry (s : State) : State :=
  let m := s.sys.mode
  if s.sys.safeNew = 0 || !(m == .standby || m == .run || m == .degraded || m == .service) then s
  else
    let s := if s.fld SYS_MODE.PEND != 0 then (s.put SYS_MODE.PEND 0).modeRefuse 4 else s
    s.changeMode .safe (0x20 + lowestBit 8 s.sys.safeNew.toNat)

/-- The mode that the device has in place of RUN while a cause of R543 holds. -/
def State.runMode (s : State) : Mode := if s.fld INT_DEG_CAUSE.CAUSE = 0 then .run else .degraded

/-- A change whose precondition is not met waits for a later cut (R50). -/
def State.applyWaits (s : State) : State := s.put CLK_CUT_STAT.APPLY_WAIT 1

/-- What D0 takes at C_s (R589, R590), and the end of every other island's frames. -/
def State.sleepItems (s : State) : State :=
  let at0 := s.clk.nextCut
  let pos := (List.range 12).map (fun n => s.word (AX_POS n))
  let eofs := (List.range 12).map (fun n => BitVec.ofNat 12 (s.word (LAS_AX_EOFS n)).toNat)
  let rest := axisMask (s.usedAxes.filter (fun n => s.flag (AX_STAT.AT_REST n)
    && ((s.word (AX_POS n)).toNat + (s.word (LAS_AX_EOFS n)).toNat % 4096) % 4096 == 0))
  let k : Keep :=
    { valid := true, used := axisMask s.usedAxes, pos := pos, eofs := eofs, rest := rest, slot := s.activeReel
      take := s.reel.active.hdr.take, stateSig := s.reel.active.hdr.stateSig, slate := at0
      epoch := if at0.toNat < s.clk.slate.toNat then s.clk.epoch + 1 else s.clk.epoch
      lpoPer := s.word CLK_LPO_PER, wakeCfg := s.word CAN_WAKE
      timer := if s.flag SYS_WAKE.TIMER_EN then some (s.fld SYS_WAKE_TIMER.PERIOD) else none
      resets := s.keep.resets }
  { s with keep := k, sys := { s.sys with sleepEntry := true }, clk := { s.clk with cutsOn := false } }

/-- SLEEP is entered at C_s: MC writes the record of the change, the last one of its queue, within the entry (R571, R572;
DEDUCED: log entry 18). -/
def State.sleepApply (s : State) (cause : Nat) : State :=
  let s := s.sleepItems.enter .sleep cause
  s.when s.logging (fun s => s.writeRecord false)

/-- The pending request in APPLY step 1 (R585, R586): its conditions are checked again; one that leaves STANDBY waits
until every bank is ON, and SLEEP until the log queue is empty. -/
def State.requestApply (s : State) : State :=
  let req := s.fld SYS_MODE.PEND
  if req = 0 then s
  else
    let r := s.modeReason req
    let cause := if s.sys.pendPath == .can then 0x02 else 0x01
    if r != 0 then (s.put SYS_MODE.PEND 0).modeRefuse r
    else if s.sys.mode == .standby && req != 5 && !s.allOn then s.applyWaits
    else if req = 5 && !s.mgt.queue.isEmpty then s.applyWaits
    else
      let s := s.put SYS_MODE.PEND 0
      match req with
      | 1 => s.changeMode .standby cause
      | 2 => s.changeMode s.runMode cause
      | 3 => (s.safeCause 7).changeMode .safe cause
      | 4 => s.changeMode .service cause
      | _ => s.sleepApply cause

/-- The mode in APPLY step 1: a cause of SAFE goes before a request (R588). -/
def State.modeApply (s : State) : State := s.safeEntry.requestApply

/-- The causes of DEGRADED at a cut, judged once every step of APPLY and the recovery at the cut have acted (R543). -/
def State.degradeCut (s : State) : State :=
  let c := s.fld INT_DEG_CAUSE.CAUSE
  if s.sys.mode == .run && c != 0 then s.changeMode .degraded (0x10 + lowestBit 8 c)
  else if s.sys.mode == .degraded && c = 0 then s.changeMode .run 0x30
  else s

/-- AUTO_RUN at a cut (R73, R587, R588): from the second cut on the device passes to RUN where a RUN request would be
accepted; the banks wake before it. -/
def State.autoRunCut (s : State) : State :=
  match s.sys.autoRun with
  | none => s
  | some k =>
    let s := { s with sys := { s.sys with autoRun := some (min (k + 1) 2) } }
    if s.sys.mode != .standby || s.fld SYS_MODE.PEND != 0 then s
    else if 1 ≤ k && s.modeReason 2 = 0 && s.allOn then s.changeMode s.runMode 0x03
    else s.wakeAll

/-- Overvoltage at the first cut after its assertion (R583): the axes that moved lose their position. -/
def State.ovCut (s : State) : State :=
  if !s.sys.ovNew then s
  else
    let fast := s.usedAxes.filter s.aboveStop
    { s with
      sys := { s.sys with ovNew := false }
      intg := { s.intg with parkUncertain := s.intg.parkUncertain ||| axisMask fast } }

/-- The axes that a cause of SAFE puts into their safe state at the cut: all of them for ISLAND, REF and HOST (R544); the
other causes acted when they arose. -/
def State.safeAxes (s : State) : State :=
  let m := s.sys.safeNew
  let s := { s with sys := { s.sys with safeNew := 0 } }
  if m.getLsbD 1 || m.getLsbD 3 || m.getLsbD 7 then s.allSafe 9 else s

/-- The engines whose state is `a` pass to `b`. -/
def State.engStates (s : State) (a b : Nat) : State :=
  s.each (List.range 9) (fun s e => if s.engState e = a then s.setEngState e b else s)

/-- STANDBY is entered at the cut: the engine islands stop, their bits of ISL_OK reading 1 (R27, R62), every phase
opens, retained banks go into retention (R136, R280, R344, R405, R517). -/
def State.enterStandby (s : State) : State :=
  let s := (s.engStates stRunning stGated).each (List.range 12) State.modStandby
  let s := s.put ⟨CLK_STAT, 15, 5⟩ 31
  (s.adcStandby.pumpEnter .standby).retainAll

/-- STANDBY is left at the cut: the engine islands run, an axis in its safe state takes its pattern, and every other one
waits for its first commit (R136, R265, R278). A cause of SAFE does not wait for the banks, which wake from here on
(R524; DEDUCED: log entry 52). The VBAT result of R256 is awaited anew from here on, and not at an
entry to RUN from SAFE or SERVICE (DESIGN CHOICE: log entry 122). -/
def State.leaveStandby (s : State) : State :=
  let s := (s.wakeAll.engStates stGated stRunning).each (List.range 12) (fun s n =>
    (s.put (MOD_AX_STAT.FIRST_WAIT n) 1).driveChecked n)
  { s with modg := { s.modg with vbat := none } }

/-- SERVICE is left at the cut: FORCE_EN is cleared, and no forced switch remains (R276, R283). -/
def State.leaveService (s : State) : State :=
  let s := (s.put MOD_CTRL.FORCE_EN 0).put MOD_STAT.FORCE_ACTIVE 0
  s.each (List.range 12) (fun s n => if s.flag (MOD_AX_FORCE.ACTIVE n) then (s.put (MOD_AX_FORCE.ACTIVE n) 0).driveChecked n else s)

/-- What the islands do at the cut for a change of mode. -/
def State.modeEffects (s : State) : State :=
  match s.sys.cutFrom with
  | none => s
  | some old =>
    let new := s.sys.mode
    let s := { s with sys := { s.sys with cutFrom := none } }
    let s := if old == .service && new != .service then s.leaveService else s
    if !old.lists && new.lists then s.leaveStandby
    else if new == .standby && old != .standby then s.enterStandby
    else s

/-! ### SLEEP -/

/-- INH is driven high (R438, R599): not in OFF, in SLEEP from the last item of R589 on, and in reset only while VBAT is
above VBOR. -/
def State.inh (s : State) : Bool :=
  match s.sys.mode with
  | .off => false
  | .sleep => s.sys.sleepEntry
  | _ => !(s.sys.inReset && s.sys.vborLow)

/-- What CANH and CANL do in each mode (R7, R441, R599). In SLEEP they are driven as by an unpowered transceiver (R7),
and the receiver in low-power mode biases the bus autonomously (R441): the meeting of the two rules is the model's
choice (DESIGN CHOICE: log entry 112). The state is taken with the last item of R589; until then the transceiver is
normal. -/
def State.canPins (s : State) : CanPins :=
  match s.sys.mode with
  | .off => { drive := .unpowered }
  | .sleep => if s.sys.sleepEntry then { drive := .normal } else { drive := .unpowered, autoBias := true }
  | .boot => if s.sys.inReset then { drive := .unpowered } else { drive := .recessive }
  | _ => { drive := .normal }

/-- SLEEP_ENTRY_DONE: D0 has acknowledged every item; every other island is unclocked (R589). -/
def execSleepEntryDone (s : State) : Out :=
  if s.sys.mode = .sleep && s.sys.sleepEntry then
    let r := s.wiped
    done { r with sys := { r.sys with mode := .sleep, inReset := false } }
  else .next s

/-- A wake event of source `src` (1 WAKE pin, 2 bus, 3 timer) recognised `n` LPO periods after C_s (R591, R593). The
first edge with an event is the wake edge. -/
def State.wakeEvent (s : State) (src n : Nat) : State :=
  let n : BitVec 40 := BitVec.ofNat 40 (min n 0xFFFFFFFFFF)
  let bit : BitVec 3 := 1#3 <<< (src - 1)
  if s.keep.seen = 0 then { s with keep := { s.keep with seen := bit, count := if s.keep.sat then s.keep.count else n } }
  else if n = s.keep.count then { s with keep := { s.keep with seen := s.keep.seen ||| bit } }
  else s

/-- D0 watches for wake events: from C_s on (R593). -/
def State.watching (s : State) : Bool := s.sys.mode == .sleep && !s.sys.inReset

/-- WAKE_PIN: the level of WAKE has changed and held (R439); `n` is the sleep count at its LPO edge. -/
def execWakePin (rising : Bool) (n : Nat) (s : State) : Out :=
  let s := { s with sys := { s.sys with wakeLevel := rising } }
  let edge := CAN_WAKE.PIN_EDGE.of s.keep.wakeCfg
  if s.watching && s.keep.wakeCfg.getLsbD 0 && (edge == 2 || (edge == 0) == rising) then done (s.wakeEvent 1 n)
  else .next s

/-- BUS_WAKE: a wake-up pattern is complete on the bus (R439). -/
def execBusWake (n : Nat) (s : State) : Out :=
  if s.watching && s.keep.wakeCfg.getLsbD 3 then done (s.wakeEvent 2 n) else .next s

/-- WAKE_TIMER: the sleep counter reaches 1024 x PERIOD (R591). -/
def execWakeTimer (s : State) : Out :=
  match s.keep.timer with
  | some p => if s.watching then done (s.wakeEvent 3 (1024 * p)) else .next s
  | none => .next s

/-! ### Resets and the supply -/

/-- POWER_ON: VBAT rises above 2.0 V, and D0 starts (R587, R598). -/
def execPowerOn (s : State) : Out :=
  if s.sys.mode = .off then
    let r := s.wiped
    done { r with keep := {}, sys := { r.sys with causes := 1, vborLow := true } }
  else .next s

/-- VBAT_OFF: VBAT falls below 2.0 V; everything D0 keeps is lost (R581). -/
def execVbatOff (s : State) : Out :=
  let r := s.wiped
  let r := (r.put SYS_STAT.LV 0).put SYS_STAT.OV 0
  done { r with keep := {}, sys := { r.sys with
      mode := .off, inReset := false, causes := 0, vborLow := false, vioLow := false, hvRow := false } }

/-- BROWNOUT: VBOR asserts (R581, R598). -/
def execBrownout (s : State) : Out := if s.sys.mode = .off then .next s else done (s.resetBy 2)

/-- The regulators and RESET_N are not watched in OFF and SLEEP (R589, R591). -/
def State.watchesReset (s : State) : Bool := s.sys.inReset || s.powered

/-- REGULATOR: VDD5 or VDD11 leaves its range (R582, R598). -/
def execRegulator (s : State) : Out := if s.watchesReset then done (s.resetBy 3) else .next s

/-- PIN_RESET: RESET_N has been low for 2 us (R597). -/
def execPinReset (s : State) : Out := if s.watchesReset then done (s.resetBy 4) else .next s

/-- REF_ABSENT_RESET: no reference has returned within 10 ms (R61). -/
def execRefAbsentReset (s : State) : Out :=
  whenPowered s fun s => if !s.clk.rcOk && s.flag CLK_STAT.HOLDOVER then s.resetBy 5 else s

/-- VLV is asserted: its fault, once per episode (R600). -/
def State.lowVoltage (s : State) : State := if s.powered then s.raise 0x0101 else s

/-- VOV is asserted (R583): outputs off, integ and u at 0, the fault, and UNCERTAIN at the next cut. -/
def State.overvoltage (s : State) : State :=
  if !s.powered then s
  else
    let s := { s.raise 0x0102 with sys := { (s.raise 0x0102).sys with ovNew := true } }
    s.each (List.range 12) (fun s n => ((s.clearLoops n).modMod n (fun m => { m with ovHold := true })).driveChecked n)

/-- VIO_UV is asserted (R584): the inputs of its pins are taken as inactive, and an open host frame ends as it stands. -/
def State.vioLost (s : State) : State :=
  if !s.powered then s
  else
    let s := ((s.raise 0x0103).setWord POS_LIM 0)
    let s := { s with spi := { s.spi with busyN := false } }
    ({ s with chn := { s.chn with windowEnd := none, clapAt := none } }).frameClose true

/-- The row of the gate supply that VBAT selects, while the power stage is powered (R317). -/
def State.gateSupply (s : State) (low : Bool) : State := s.when s.powered (fun s => s.put PWR_STAT.LV low.toNat)

/-- LOW_VOLTAGE: VLV asserts (R582), and the gate supply takes its low-voltage row (R317). -/
def execLowVoltage (s : State) : Out :=
  if s.sys.mode = .off || s.flag SYS_STAT.LV then .next s
  else done ((s.put SYS_STAT.LV 1).gateSupply true).lowVoltage

/-- LOW_VOLTAGE_RELEASE: VLV releases (R582), and the gate supply takes its full row (R317). -/
def execLowVoltageRelease (s : State) : Out :=
  if s.sys.mode = .off then .next s else done ((s.put SYS_STAT.LV 0).gateSupply false)

/-- OVERVOLTAGE: VOV asserts (R583). -/
def execOvervoltage (s : State) : Out :=
  if s.sys.mode = .off || s.flag SYS_STAT.OV then .next s else done (s.put SYS_STAT.OV 1).overvoltage

/-- OVERVOLTAGE_RELEASE: VOV releases; each axis resumes at its first commit (R583). -/
def execOvervoltageRelease (s : State) : Out :=
  if s.sys.mode = .off then .next s
  else done ((s.put SYS_STAT.OV 0).each (List.range 12) (fun s n => s.driveChecked n))

/-- VIO_LOW: VIO_UV asserts (R584). -/
def execVioLow (s : State) : Out :=
  if s.sys.mode = .off || s.sys.vioLow then .next s
  else done ({ s with sys := { s.sys with vioLow := true } }).vioLost

/-- VIO_RELEASE: VIO_UV releases (R584). -/
def execVioRelease (s : State) : Out :=
  if s.sys.mode = .off then .next s else done { s with sys := { s.sys with vioLow := false } }

/-! ### The first steps of BOOT -/

/-- BOOT starts (R594): the slate counts from 0, the straps are sampled, the crystal oscillator starts, and D0 reports
the reset cause. Comparators that stand asserted raise their faults. The record of the change names SLEEP as the old
mode at a wake; a reset has no code, and 0 stands for it (DEDUCED: log entry 18). -/
def State.bootStart (s : State) (cascM test : Bool) : State :=
  let causes := s.sys.causes
  let count : Half := if causes.getLsbD 0 then 0 else if s.keep.resets = 0xFFFF then 0xFFFF else s.keep.resets + 1
  let s := { s with keep := { (if s.sys.wake then s.keep else s.keep.discarded) with resets := count } }
  let s := { s with
    sys := { s.sys with
      mode := .boot, inReset := false, vborLow := false, causes := 0, cascM := cascM, boot := .started }
    clk := { s.clk with xtalRun := true } }
  let s := s.logRec (s.mkRec 0x02 0 Mode.boot.code (if s.sys.wake then u32 Mode.sleep.code else 0) 0 0)
  let s := ((s.put CLK_STAT.QUALIFYING 1).put SYS_STAT.TEST test.toNat).put CHN_STAT.MASTER cascM.toNat
  let s := ((s.put SYS_RESET.CAUSE (lowestBit 8 causes.toNat + 1)).put SYS_RESET.ALL causes.toNat).put SYS_RESET.COUNT count.toNat
  let s := s.when test (fun s => s.raise 0x0107)
  let s := (s.gateHigh s.sys.hvRow).when (s.flag SYS_STAT.LV) (fun s => (s.gateSupply true).lowVoltage)
  let s := s.when (s.flag SYS_STAT.OV) State.overvoltage
  s.when s.sys.vioLow State.vioLost

/-- The RESET record of this BOOT (R570, R598). -/
def State.resetRecord (s : State) : State :=
  if s.sys.resetLogged then s
  else
    let r := s.mkRec 0x08 0 0 (u32 (s.fld SYS_RESET.CAUSE)) (u32 (s.fld MGT_FW.VERSION)) (u32 (s.fld REEL_STAT.ACTIVE_TAKE))
    { s.logRec r with sys := { (s.logRec r).sys with resetLogged := true } }

/-- BOOT goes no further (R88, R596). -/
def State.bootStuck (s : State) : State := { s with sys := { s.sys with boot := .stuck } }

/-- A BOOT that is a wake (R43, R590, R591): D0 reports the source, the kept axes and the sleep count. -/
def State.wakeStart (s : State) (cascM test : Bool) : State :=
  let k := s.keep
  let src := lowestBit 3 k.seen.toNat + 1
  let s := { s with sys := { s.sys with causes := 0x40, wake := true } }
  let s := (s.bootStart cascM test).put SYS_MODE.PREV Mode.sleep.code
  let s := (s.put SYS_WAKE.SRC src).put SYS_WAKE.SEEN k.seen.toNat
  let s := ((s.put CAN_WAKE.SRC src).put SYS_KEEP.KEPT k.used.toNat).put SYS_KEEP.REST k.rest.toNat
  let s := s.put CAN_IRQ.WAKE 1
  ((s.setWord CLK_SLEEP_LO (k.count.setWidth 32)).setWord CLK_SLEEP_HI ((k.count >>> 32).setWidth 32)).setWord CLK_LPO_PER k.lpoPer

/-- BOOT_START: BOOT begins when every reset condition has ended, or at a wake event once the entry to SLEEP is complete
(R587, R593, R594). -/
def execBootStart (cascM test : Bool) (s : State) : Out :=
  if s.sys.inReset && s.sys.mode != .off then done (s.bootStart cascM test)
  else if s.sys.mode = .sleep && !s.sys.sleepEntry && s.keep.seen != 0 then done (s.wakeStart cascM test)
  else .next s

/-- A row that fails its read-back in BOOT is repaired at once (R524). -/
def State.bootRow (s : State) (b r : Nat) : State :=
  let s := s.rowFault b r
  (s.modBank b (fun k => { k with copied := true })).mapRepair b

/-- REGULATORS_READY: the rails are in range and D1 to D6 are clocked; the banks are cleared, the rows that fail their
read-back (those of `bad`, and every one with a stuck bit) are repaired, and the converters calibrate (R524, R594). -/
def execRegulatorsReady (bad : List (Fin 17 × Fin 256)) (s : State) : Out :=
  whenPowered s fun s =>
    if s.sys.boot != .started then s
    else
      let s := { s with sys := { s.sys with boot := .rails } }
      let s := ((s.put CLK_STAT.ISL_OK 0xFFF).put PWR_STAT.VCP_OK 1).put PWR_STAT.VGL_OK 1
      let rows := bad.map (fun x => (x.1.val, x.2.val % bankRows x.1.val)) ++ s.stuckRows
      (s.clearBanks.each (onceEach rows) (fun s x => s.bootRow x.1 x.2)).calBoot

/-- Firmware slot `k` is a candidate (R87, R558): GOOD, with a header that passes its format check and HDR_CRC. -/
def State.fwCandidate (s : State) (k : Nat) : Bool :=
  let h := s.fwHead k
  let len := (le32 h 8).toNat
  s.slotState k == slGood && le32 h 0 == 0x49574653 && le16 h 4 == 1 && len % 4 == 0 && !outside 0x100 0x17F00 len && fwCrcOk h
    && !s.flashDeadIn (slotBase k) 0x80

/-- A slot found in TRIAL at BOOT is programmed REJECTED (R87); `code` is the fault of its kind. -/
def State.rejectTrial (s : State) (code k : Nat) : State :=
  if s.slotState k = slTrial then (s.setSlot k slRejected).raise code else s

/-- The order in which two slots are tried: the newer one first, else the first (R87). -/
def trySlots (a b : Nat) (ca cb : Bool) (newerB : Bool) : List Nat :=
  match ca, cb with
  | true, true => if newerB then [b, a] else [a, b]
  | true, false => [a]
  | false, true => [b]
  | false, false => []

/-- The first slot of `l` whose image passes; the ones before it are programmed REJECTED (R558). -/
def State.pickFw (s : State) : List Nat → Option Nat × State
  | [] => (none, s)
  | k :: t =>
    let s := s.fwNotice k
    if s.fwOk k then (some k, s) else (s.setSlot k slRejected).pickFw t

/-- No firmware image passed its checks: the boot ROM keeps the management core (R558). -/
def State.noFirmware (s : State) : State :=
  { s with mgt := { s.mgt with mcOk := false, bootRom := true }, sys := { s.sys with boot := .stuck } }

/-- The management core runs a firmware image. -/
def State.firmwareFound (s : State) : State :=
  { s with mgt := { s.mgt with mcOk := true, bootRom := false }, sys := { s.sys with boot := .firmware } }

/-- FIRMWARE_SELECT: the boot ROM selects and checks a firmware slot (R558). MC then runs and scans the log; with no slot
that passes, the boot ROM serves in its place. The slot registers are read here in either case, a moment that R108 leaves
open (DESIGN CHOICE: log entry 84). With TEST high no reel is loaded, and BOOT goes no further (R596). -/
def execFirmwareSelect (s : State) : Out :=
  whenPowered s fun s =>
    if s.sys.boot != .rails then s
    else
      let s := (s.rejectTrial 0x1004 2).rejectTrial 0x1004 3
      let nb := newer (BitVec.ofNat 16 (s.fwVersion 3)) (BitVec.ofNat 16 (s.fwVersion 2))
      let r := s.pickFw (trySlots 2 3 (s.fwCandidate 2) (s.fwCandidate 3) nb)
      let s := r.2.each [0, 1, 2, 3] State.readSlot
      match r.1 with
      | none =>
        s.noFirmware.raise 0x1008
      | some k =>
        let s := ((s.firmwareFound.put MGT_FW.ACTIVE_SLOT (k - 2)).put MGT_FW.VERSION (s.fwVersion k)).logScan
        s.when (s.flag SYS_STAT.TEST) (fun s => s.resetRecord.bootStuck)

end Sys2Proof.Machine
end

