-- ==== Sys2Proof/Machine/Can.lean ====
section
/-!
DEFINITION. The CAN FD node (chapter 12): its state on the bus, error confinement by ISO 11898-1, the transmit buffers,
and the buffers as registers. What a received frame does is in CanMap.
-/
namespace Sys2Proof.Machine

/-! ### Buffers and their states -/

/-- Transmit buffer `i`. -/
def State.tb (s : State) (i : Nat) : CanBuf := Tbl.get {} s.can.tbs i

/-- The codes of CAN_TXSTAT.ST (R444). -/
def txIdle : Nat := 0
def txPending : Nat := 1
def txActive : Nat := 2
def txDone : Nat := 3
def txAborted : Nat := 4
def txFailed : Nat := 5
def txHeld : Nat := 6

/-- The state of transmit buffer `i`. -/
def State.tbSt (s : State) (i : Nat) : Nat := s.fld ⟨CAN_TXSTAT, 4 * i, 4⟩

/-- The state of transmit buffer `i` becomes `st`. -/
def State.setTbSt (s : State) (i st : Nat) : State := s.put ⟨CAN_TXSTAT, 4 * i, 4⟩ st

/-- The owner of transmit buffer `i` (R416): 0 HOST, 1 MAP, 2 SVC. -/
def State.tbOwner (s : State) (i : Nat) : Nat := s.fld ⟨CAN_TXSTAT, 16 + 2 * i, 2⟩

/-- Buffer `i` holds a request: PENDING, ACTIVE or HELD. -/
def State.tbBusy (s : State) (i : Nat) : Bool :=
  s.tbSt i == txPending || s.tbSt i == txActive || s.tbSt i == txHeld

/-- The buffer that is being transmitted. -/
def State.activeTb (s : State) : Option Nat := [0, 1, 2].find? (fun i => s.tbSt i == txActive)

/-- The bytes of a frame (R408): 0 to 8, or by the FD table up to 64; a remote frame has none. -/
def canLen (dlc : Nat) (fdf rtr : Bool) : Nat :=
  if rtr then 0
  else if dlc ≤ 8 then dlc
  else if !fdf then 8
  else match dlc with
    | 9 => 12 | 10 => 16 | 11 => 20 | 12 => 24 | 13 => 32 | 14 => 48 | _ => 64

/-- The bytes that a buffer's DLC names. -/
def CanBuf.len (b : CanBuf) : Nat := canLen (b.ctl.toNat % 16) (b.ctl.getLsbD 4) (b.id.getLsbD 30)

/-- Word `off` of a buffer as it reads (R445): data bytes beyond the DLC read 0. -/
def CanBuf.read (b : CanBuf) (off : Nat) : Word :=
  match off with
  | 0 => b.id
  | 4 => b.ctl
  | 8 => b.stamp
  | 12 => 0
  | _ =>
    let j := (off - 16) / 4
    let w := Tbl.get 0 b.data j
    let n := b.len - 4 * j
    if 4 ≤ n then w else w &&& BitVec.ofNat 32 (2 ^ (8 * n) - 1)

/-! ### The state on the bus -/

/-- CAN_STAT.STATE (R444). -/
def State.canState (s : State) : Nat :=
  if !s.flag CAN_CTRL.EN then 0
  else if s.can.integrating then 1
  else if s.can.busOff then (if s.can.recovering then 5 else 4)
  else if s.can.passive then 3 else 2

/-- The node takes part in the traffic: error-active or error-passive. -/
def State.onBus (s : State) : Bool := s.canState == 2 || s.canState == 3

/-- The node sends frames and flags, and its counters count: NORMAL, and not restricted by the reference (R413, R414). -/
def State.canNormal (s : State) : Bool := s.fld CAN_CTRL.OPMODE == 0 && !s.flag CAN_STAT.RC_RESTRICT

/-- The node acknowledges valid frames (R413, R414): on the bus, except in MONITOR, and in restricted operation whatever
OPMODE holds. A transmitter that its dominant time-out holds recessive acknowledges nothing (R443). -/
def State.canAcks (s : State) : Bool :=
  s.onBus && (s.flag CAN_STAT.RC_RESTRICT || s.fld CAN_CTRL.OPMODE != 2) && !s.can.domOut

/-- The node drives a flag onto the bus, where its mode sends flags (R413, R414). -/
def State.sendFlag (s : State) (f : CanFlag) : State :=
  { s with can := { s.can with flag := if s.canNormal && !s.can.domOut then f else .none } }

/-- The error flag of the node's state (R408). -/
def State.errorFlag (s : State) : State := s.sendFlag (if s.can.passive then .passive else .active)

/-- The secondary sample point of the data phase of a frame sent with BRS (R412): D2 clock periods after the start of a
bit. -/
def State.secondarySample (s : State) : Nat := s.fld CAN_TDC.TDCV + s.fld CAN_TDC.TDCO

/-- CAN_STAT as read. -/
def State.canStat (s : State) : Word :=
  CAN_STAT.RX_BUSY.into
    (CAN_STAT.TX_BUSY.into (CAN_STAT.STATE.into (s.word CAN_STAT) s.canState) s.activeTb.isSome.toNat)
    s.can.receiving.toNat

/-- Bus-off is entered (R421, R427, R428): `held` is the buffer whose attempt caused it. -/
def State.busOff (s : State) (held : Option Nat) : State :=
  let s := { s with can := { s.can with busOff := true, recovering := s.flag CAN_CTRL.BO_AUTO } }
  let s := (s.raise 0x0C03).put CAN_IRQ.BUSOFF 1
  match held with
  | some i => if s.tbSt i = txPending || s.tbSt i = txActive then s.setTbSt i txHeld else s
  | none => s

/-- The error state judged after a change of the counters (R427). -/
def State.canJudge (s : State) (held : Option Nat) : State :=
  let top := max (s.fld CAN_ERR.TEC) (s.fld CAN_ERR.REC)
  let ew := decide (96 ≤ top)
  let ep := decide (127 < top)
  let s :=
    if ew == s.flag CAN_STAT.EWARN then s
    else ((s.put CAN_STAT.EWARN ew.toNat).put CAN_IRQ.EWARN 1).when ew (fun s => s.raise 0x0C01)
  let s :=
    if ep == s.can.passive then s
    else
      let s := ({ s with can := { s.can with passive := ep } }).put CAN_IRQ.EPASS 1
      s.when ep (fun s => s.raise 0x0C02)
  if 255 < s.fld CAN_ERR.TEC && !s.can.busOff then s.busOff held else s

/-- TEC or REC rises while the counters count (R426). -/
def State.addTec (s : State) (n : Nat) : State := if s.canNormal then s.bump CAN_ERR.TEC n else s
def State.addRec (s : State) (n : Nat) : State := if s.canNormal then s.bump CAN_ERR.REC n else s

/-- An error in CAN_ERRLOG. -/
def State.errLog (s : State) (lec : Nat) (data : Bool) : State :=
  ((s.put CAN_ERRLOG.LEC lec).put CAN_ERRLOG.DATA data.toNat).bump CAN_ERRLOG.COUNT 1

/-- ALONE ends with an acknowledged transmission or a valid frame (R427). -/
def State.notAlone (s : State) : State := s.put CAN_STAT.ALONE 0

/-! ### The map's messages -/

/-- MAP owns buffer `i` and it holds no request. -/
def State.mapFree (s : State) (i : Nat) : Bool := s.tbOwner i == 1 && !s.tbBusy i

/-- Message `b` of map entry `m` is loaded into buffer `i`, and its request is set. -/
def State.loadTb (s : State) (i m : Nat) (b : CanBuf) : State :=
  let s := { s with can := { s.can with
      tbs := Tbl.mod s.can.tbs i (fun _ => b), msgs := Tbl.mod s.can.msgs i (fun _ => some m) } }
  s.setTbSt i txPending

/-- Waiting messages go into buffers that have become free, the oldest first; not from bus-off to the end of recovery
(R421, R435). -/
def State.loadWaiting (s : State) : State :=
  s.each [0, 1, 2] (fun s i =>
    match s.can.waitMsgs with
    | [] => s
    | (m, b) :: t =>
      if s.mapFree i && !s.can.busOff then ({ s with can := { s.can with waitMsgs := t } }).loadTb i m b else s)

/-- A message that the map has built (R421, R435): into a free buffer, or in the place of an unsent message of the same
entry, or at the end of those that wait; dropped from bus-off to the end of recovery. -/
def State.mapMessage (s : State) (m : Nat) (b : CanBuf) : State :=
  if s.can.busOff then (s.bump CAN_DROP.TX 1).raise 0x0C0B
  else
    match [0, 1, 2].find? s.mapFree with
    | some i => s.loadTb i m b
    | none =>
      let same (i : Nat) : Bool := s.tbOwner i == 1 && s.tbSt i == txPending && Tbl.get none s.can.msgs i == some m
      match [0, 1, 2].find? same with
      | some i => s.loadTb i m b
      | none =>
        let l := s.can.waitMsgs
        let l := if l.any (fun q => q.1 == m) then l.map (fun q => if q.1 == m then (m, b) else q) else l ++ [(m, b)]
        { s with can := { s.can with waitMsgs := l } }

/-! ### Transmission -/

/-- The place of a buffer's frame in arbitration: the lower one wins (R418). A base identifier is followed by RTR and a
dominant IDE, an extended one by two recessive bits, its other 18 bits and RTR. -/
def CanBuf.arb (b : CanBuf) : Nat :=
  let id := b.id.toNat % 2 ^ 29
  let rtr := (b.id.getLsbD 30).toNat
  if b.id.getLsbD 29 then id / 2 ^ 18 * 2 ^ 21 + 2 ^ 20 + 2 ^ 19 + id % 2 ^ 18 * 2 + rtr
  else id / 2 ^ 18 * 2 ^ 21 + rtr * 2 ^ 20

/-- The buffer that the next arbitration selects (R418, R421): the HELD one first. -/
def State.selectTb (s : State) : Option Nat :=
  match [0, 1, 2].find? (fun i => s.tbSt i == txHeld) with
  | some i => some i
  | none =>
    let l := [0, 1, 2].filter (fun i => s.tbSt i == txPending)
    if s.flag CAN_CTRL.PRIO then l.head?
    else l.foldl (fun (b : Option Nat) i => match b with
      | none => some i
      | some j => if (s.tb i).arb < (s.tb j).arb then some i else some j) none

/-- A disable of the node has waited at a cut for the frame in progress: no new attempt follows (R415). -/
def State.disabling (s : State) : Bool :=
  s.can.leaving && (match Assoc.get s.waiting CAN_CTRL with
    | some v => !v.getLsbD 0
    | none => false)

/-- The buffer of the attempt that the next frame on the bus starts, if the node starts one. -/
def State.nextTb (s : State) : Option Nat := if s.canNormal && !s.disabling then s.selectTb else none

/-- CAN_ARBITRATION: a frame starts on the idle bus. The node selects a buffer and starts an attempt, stamped with the
slate that D2 samples at the SOF bit, `lag` ticks behind the generator (R36, R418, R425); with nothing to send it
receives the frame of another node. Its controller stands recessive before (R443). -/
def execCanArbitration (lag : Nat) (s : State) : Out :=
  whenPowered s fun s =>
    if !s.onBus || s.activeTb.isSome then s
    else
      let s := { s with can := { s.can with domOut := false, lastTx := false, retry := none, flag := .none } }
      match s.nextTb with
      | some i =>
        ({ s with can := { s.can with txStamp := s.stampD2 lag, receiving := false } }).setTbSt i txActive
      | none => { s with can := { s.can with receiving := true } }

/-- The request of buffer `i` ends in state `st`: what belonged to it is free again, a service request with the response
that the buffer held (R437). -/
def State.tbEnd (s : State) (i st : Nat) : State :=
  let done := match s.can.svc with | some r => r.sent == some i | none => false
  let s := { s with can := { s.can with
      abort := s.can.abort &&& ~~~(1#3 <<< i)
      msgs := Tbl.mod s.can.msgs i (fun _ => none)
      retry := if s.can.retry = some i then none else s.can.retry
      svc := if done then none else s.can.svc } }
  (s.setTbSt i st).loadWaiting

/-- An attempt of buffer `i` that did not succeed (R418 to R420): aborted, failed in one-shot mode, or pending again. -/
def State.attemptEnds (s : State) (i lec : Nat) : State :=
  if s.can.abort.getLsbD i then s.tbEnd i txAborted
  else if s.flag CAN_CTRL.ONESHOT then
    let s := ((s.put CAN_TXSTAT.CAUSE lec).put CAN_TXSTAT.CBUF i).put CAN_IRQ.TXFAIL 1
    (s.raise 0x0C08).tbEnd i txFailed
  else s.setTbSt i txPending

/-- An error as an acknowledgement error of the node's own attempts (R427). -/
def State.ackError (s : State) : State :=
  let s := s.bump CAN_ERR.ACKERR 1
  if 16 ≤ s.fld CAN_ERR.ACKERR && !s.flag CAN_STAT.ALONE then
    ((s.put CAN_STAT.ALONE 1).put CAN_IRQ.ALONE 1).raise 0x0C04
  else s

/-- The measurement of the transmitter's delay in an attempt of buffer `i` (R412): in an FD frame with TDC_EN, unless it
lies below TDCF. -/
def State.delay (s : State) (i : Nat) (tdcv : Option (BitVec 7)) : State :=
  match tdcv with
  | some v =>
    if (s.tb i).ctl.getLsbD 4 && (s.fld CAN_TDC.FLAGS).testBit 1 && decide (s.fld CAN_TDC.TDCF ≤ v.toNat)
    then s.put CAN_TDC.TDCV v.toNat else s
  | none => s

/-- An error that ends the attempt of buffer `i` (R419, R426, R427): the counts and the error state first, so that a
bus-off loads no message into the buffer; a request that stays is HELD from bus-off on (R421). -/
def State.txError (s : State) (i : Nat) (lec : Nat) (data exempt : Bool) : State :=
  let free := exempt && (lec == 1 || (lec == 3 && s.can.passive))
  let s := ((s.errLog lec data).errorFlag).when (lec = 3) State.ackError
  let s := (s.when (!free) (fun s => s.addTec 8)).canJudge none
  let s := s.attemptEnds i lec
  let s := { s with can := { s.can with domOut := false, lastTx := true, retry := if s.tbSt i = txPending then some i else none } }
  if s.can.busOff && s.tbSt i = txPending && s.can.retry = some i then s.setTbSt i txHeld else s

/-- The attempt of buffer `i` is acknowledged (R412, R419, R425). -/
def State.txOk (s : State) (i : Nat) (tdcv : Option (BitVec 7)) : State :=
  let s := { s with can := { s.can with
    tbs := Tbl.mod s.can.tbs i (fun b => { b with stamp := s.can.txStamp }), domOut := false, lastTx := true, retry := none } }
  let s := (((s.delay i tdcv).bump CAN_CNT.TX 1).put CAN_ERR.ACKERR 0).notAlone
  let s := if s.canNormal then s.put CAN_ERR.TEC (s.fld CAN_ERR.TEC - 1) else s
  ((s.canJudge none).put CAN_IRQ.TXDONE 1).tbEnd i txDone

/-- The attempt of buffer `i` has lost arbitration: the node receives the frame that won (R419, R420). -/
def State.txLost (s : State) (i : Nat) : State :=
  let s := { s with can := { s.can with domOut := false, lastTx := false, retry := none, receiving := true } }
  s.attemptEnds i 0

/-- CAN_TX_END: the attempt ends (R418 to R421). -/
def execCanTxEnd (o : CanEnd) (s : State) : Out :=
  whenPowered s fun s =>
    match s.activeTb with
    | none => s
    | some i =>
      match o with
      | .ok v => s.txOk i v
      | .lost => s.txLost i
      | .error lec data exempt v => (s.delay i v).txError i (lec.val + 1) data exempt

/-! ### Errors -/

/-- The node was the transmitter: TEC rises by 8, and a bus-off holds the buffer that waits for its next attempt; else
REC rises (R421, R426). -/
def State.flagError (s : State) : State :=
  if s.can.lastTx then (s.addTec 8).canJudge s.can.retry else (s.addRec 8).canJudge none

/-- An error in a frame that the node receives (R426): the frame is not acknowledged. -/
def State.rxError (s : State) (lec : Nat) (data : Bool) : State :=
  let s := (s.errLog lec data).errorFlag.addRec 1
  ({ s with can := { s.can with lastTx := false, retry := none, receiving := false, acked := false } }).canJudge none

/-- CAN_ERROR: an error is detected, the flags that follow one are disturbed, or an overload condition is answered, which
changes no count (R408, R426). -/
def execCanError (x : CanErr) (s : State) : Out :=
  whenPowered s fun s =>
    if !s.onBus then s
    else
      match x with
      | .frame lec data exempt =>
        match s.activeTb with
        | some i => s.txError i (lec.val + 1) data exempt
        | none => s.rxError (lec.val + 1) data
      | .flag => if s.canNormal then (s.errLog 5 false).flagError else s
      | .first => if s.can.lastTx then s else s.flagError
      | .run => s.flagError
      | .overload => s.sendFlag .overload

/-- DOM_TIMEOUT: the transmitter has been dominant too long and releases the bus (R409, R443). It stays recessive until
the controller releases it: the end of the attempt, or the next start of a frame. -/
def execDomTimeout (s : State) : Out :=
  whenPowered s fun s =>
    if s.flag CAN_CTRL.EN then
      ({ s with can := { s.can with domOut := true, flag := .none } }).raise 0x0C0C
    else s

/-- PROTOCOL_EXC: a protocol exception, where PEX enables them (R408): the node integrates again. -/
def execProtocolExc (s : State) : Out :=
  whenPowered s fun s =>
    if s.onBus && (s.fld CAN_TDC.FLAGS).testBit 2 then
      ({ s with can := { s.can with integrating := true, receiving := false } }).raise 0x0C0A
    else s

/-! ### Joining, leaving and recovering -/

/-- Recovery from bus-off starts (R428). -/
def State.startRecovery (s : State) : State :=
  if s.canState = 4 then { s with can := { s.can with recovering := true } } else s

/-- CAN_INTEGRATED: 11 recessive bits have been seen after an enable or a protocol exception (R415). A bus-off kept across
a disable recovers at once with BO_AUTO (R428). -/
def execCanIntegrated (s : State) : Out :=
  whenPowered s fun s =>
    if s.canState = 1 then
      ({ s with can := { s.can with integrating := false } }).when (s.flag CAN_CTRL.BO_AUTO) State.startRecovery
    else s

/-- BO_REQ: a write of CAN_CTRL.BO_REQ (R428). -/
def execBoReq (s : State) : Out :=
  hostAccess s CAN_CTRL (some (s.lastWritten CAN_CTRL ||| 0x40#32)) State.startRecovery

/-- A write of CAN_CTRL has stored its RW bits (R428, R444). One with EN 1 takes a waiting disable back. -/
def State.canCtrlWritten (s : State) (v : Word) : State :=
  let s := s.when (v.getLsbD 0) (fun s => { s with can := { s.can with leaving := false } })
  if v.getLsbD 6 || s.flag CAN_CTRL.BO_AUTO then s.startRecovery else s

/-- BUS_OFF_RECOVERED: 128 occurrences of 11 recessive bits have been counted (R428). -/
def execBusOffRecovered (s : State) : Out :=
  whenPowered s fun s =>
    if s.canState != 5 then s
    else
      let s := { s with can := { s.can with busOff := false, recovering := false, lastTx := false, retry := none } }
      let s := ((s.put CAN_ERR.TEC 0).put CAN_ERR.REC 0).canJudge none
      (s.put CAN_IRQ.RECOVERED 1).loadWaiting

/-- CAN_RESUME: REF is the crystal again, and the bus is idle (R413). -/
def execCanResume (s : State) : Out :=
  whenPowered s fun s => if s.flag CLK_STAT.REF_XTAL then s.put CAN_STAT.RC_RESTRICT 0 else s

/-- A value of CAN_CTRL has taken effect at a cut; `old` is the one before (R415). A disabled node drives nothing. -/
def State.canApplied (s : State) (a : Nat) (old : Word) : State :=
  if a ≠ CAN_CTRL then s
  else
    let s := { s with can := { s.can with leaving := false } }
    if s.flag CAN_CTRL.EN == old.getLsbD 0 then s
    else { s with can := { s.can with
      integrating := s.flag CAN_CTRL.EN, lastTx := false, retry := none, receiving := false, flag := .none, domOut := false } }

/-- A disable waits while a frame is transmitted or received (R50, R415). -/
def State.canWaits (s : State) (a : Nat) (v : Word) : Bool :=
  a == CAN_CTRL && s.flag CAN_CTRL.EN && !v.getLsbD 0 && (s.activeTb.isSome || s.can.receiving)

/-! ### Requests by register -/

/-- A write of CAN_TXREQ (R417). -/
def State.writeTxreq (s : State) (m : BitVec 3) : State :=
  let l := [0, 1, 2].filter (fun i => m.getLsbD i)
  if l.any (fun i => s.tbOwner i != 0) then s.refuse
  else s.each l (fun s i => if s.tbBusy i then s else s.setTbSt i txPending)

/-- CAN_TXREQ (R417). -/
def execCanTxreq (m : BitVec 3) (s : State) : Out :=
  hostAccess s CAN_TXREQ (some (m.setWidth 32)) (fun s => s.writeTxreq m)

/-- A write of CAN_TXABORT (R420). -/
def State.writeTxabort (s : State) (m : BitVec 3) : State :=
  s.each ([0, 1, 2].filter (fun i => m.getLsbD i)) (fun s i =>
    if s.tbSt i = txPending || s.tbSt i = txHeld then s.tbEnd i txAborted
    else if s.tbSt i = txActive then { s with can := { s.can with abort := s.can.abort ||| (1#3 <<< i) } }
    else s)

/-- CAN_TXABORT (R420). -/
def execCanTxabort (m : BitVec 3) (s : State) : Out :=
  hostAccess s CAN_TXABORT (some (m.setWidth 32)) (fun s => s.writeTxabort m)

/-- FIFO_BASE (R422, R429): 0 without a CAN_MAP section. -/
def State.fifoBase (s : State) : Nat := if s.reel.active.canMap.isEmpty then 0 else byteAt s.reel.active.canMap 3

/-- The buffer after `i` in the FIFO's ring. -/
def State.fifoNext (s : State) (i : Nat) : Nat := if 15 ≤ i then s.fifoBase else i + 1

/-- A write of CAN_RXF_ACK (R424). -/
def State.writeRxfAck (s : State) : State :=
  if s.fld CAN_RXF.LEVEL = 0 then s
  else (s.put CAN_RXF.HEAD (s.fifoNext (s.fld CAN_RXF.HEAD))).put CAN_RXF.LEVEL (s.fld CAN_RXF.LEVEL - 1)

/-- CAN_RXF_ACK (R424). -/
def execCanRxfAck (s : State) : Out := hostAccess s CAN_RXF_ACK (some 1) State.writeRxfAck

/-! ### The buffers as registers -/

/-- Change transmit buffer `i`. -/
def State.modTb (s : State) (i : Nat) (f : CanBuf → CanBuf) : State :=
  { s with can := { s.can with tbs := Tbl.mod s.can.tbs i f } }

/-- A write of word `off` of transmit buffer `i` (R417, R445). -/
def State.writeTb (s : State) (i off : Nat) (v : Word) : State :=
  let b := s.tb i
  if s.tbOwner i != 0 || s.tbBusy i then s.refuse
  else
    match off with
    | 0 => if v.getLsbD 30 && b.ctl.getLsbD 4 then s.refuse else s.modTb i (fun b => { b with id := v &&& 0x7FFFFFFF })
    | 4 =>
      if (v.getLsbD 5 && !v.getLsbD 4) || (v.getLsbD 4 && b.id.getLsbD 30) then s.refuse
      else s.modTb i (fun b => { b with ctl := v &&& 0x3F })
    | 8 => s.modTb i (fun b => { b with stamp := v })
    | 12 => s
    | _ => s.modTb i (fun b => { b with data := Tbl.mod b.data ((off - 16) / 4) (fun _ => v) })

/-- The address of receive buffer `n`, 16 for HPB (R444). -/
def rbAddr (n : Nat) : Nat := 0x10B400 + 0x50 * n

/-- A read of the ID word of receive buffer `n`, 16 for HPB: the whole buffer goes into the path's shadow (R424, R528). -/
def State.readRbId (s : State) (p : Path) (n : Nat) : State :=
  { s with can := { s.can with shadows := Assoc.put s.can.shadows (p, n) (Tbl.get {} s.can.rbs n) } }

/-- The shadow of receive buffer `n` on a path. -/
def State.shadow (s : State) (p : Path) (n : Nat) : CanBuf := (Assoc.get s.can.shadows (p, n)).getD {}

/-- RX_BUFFER_READ: a host read of a receive buffer's ID word (R424). -/
def execRxBufferRead (n : Fin 17) (s : State) : Out := hostAccess s (rbAddr n) none (fun s => s.readRbId .host n)

/-! ### What a take loads -/

/-- The restriction judged anew for the timing and the reference in force (R413). It raises no fault. -/
def State.canRejudge (s : State) : State := if s.canFast then s.canRestrict false else s.put CAN_STAT.RC_RESTRICT 0

/-- CAN_TIMING in the registers (R410, R444). -/
def State.canTimingLoad (s : State) : State :=
  let l := s.reel.struct.canTiming
  let b (i : Nat) : Nat := byteAt l i
  let s := s.setWord CAN_NBT (u32 (b 0 + b 1 * 2 ^ 8 + b 2 * 2 ^ 16 + b 3 * 2 ^ 24))
  let s := s.setWord CAN_DBT (u32 (b 4 + b 5 * 2 ^ 8 + b 6 * 2 ^ 16 + b 7 * 2 ^ 24))
  ((s.put CAN_TDC.TDCO (b 8)).put CAN_TDC.TDCF (b 9)).put CAN_TDC.FLAGS (b 10)

/-- A CAN_MAP in force: the owners of the transmit buffers (R416), and the entries without data; a message already in a
buffer stays there, whatever entry the new map has at its index (R442). A FIFO that starts at another buffer starts
empty. -/
def State.canMapLoad (s : State) (oldBase : Option Nat) : State :=
  let o := byteAt s.reel.active.canMap 2
  let s := ((s.put CAN_TXSTAT.OWN_TB0 o).put CAN_TXSTAT.OWN_TB1 (o / 4)).put CAN_TXSTAT.OWN_TB2 (o / 16)
  let s := { s with can := { s.can with
      entries := List.replicate 32 {}, waitMsgs := [], heldRegs := [], svc := none, msgs := List.replicate 3 none } }
  if oldBase = some s.fifoBase then s
  else (s.put CAN_RXF.HEAD s.fifoBase).put CAN_RXF.LEVEL 0

/-- CAN_TIMING and CAN_MAP load in BOOT (R441): the node stays offline. -/
def State.canBoot (s : State) : State := s.canTimingLoad.canMapLoad none

/-- The node at the end of BOOT (R413, R441): it is enabled where the take has a CAN_TIMING. -/
def State.canStart (s : State) : State :=
  if s.reel.struct.canTiming.isEmpty then s
  else (({ s with can := { s.can with integrating := true } }).put CAN_CTRL.EN 1).canRestrict false

end Sys2Proof.Machine
end

