-- ==== Sys2Proof/Machine/Splice.lean ====
section
/-!
DEFINITION. The request, staging and trial of a splice, and the resident checks (R86, R93 to R96, R102, R103). What a
splice does at its cut is in Reel.
-/
namespace Sys2Proof.Machine

/-! ### Images and resident checks -/

/-- The table image that is not active (R83). -/
def State.otherImage (s : State) : Nat := 1 - s.fld REEL_STAT.IMAGE

/-- The tables of a copy loaded into an image (R83, R85). -/
def State.loadTables (s : State) (c : Copy) (image : Nat) : State :=
  s.each c.tables (fun s t => s.loadBytes (t.at c image) t.bytes)

/-- MC reads back `n` bytes of the banks from `a` on: whether they still have the check `crc`, and what their reads do
(R85, R507). A retained bank wakes for its DMA (R517). -/
def State.readBack (s : State) (a n : Nat) (crc : Word) : Bool × State :=
  let s := s.each (bankSpan a n) State.wakeBank
  let inside (x : Nat) : Bool := decide (a ≤ x) && decide (x < a + n)
  let bad := (s.mem.flaws.filter (fun p => inside p.1)).map Prod.fst
  let dead := s.mem.flaws.any (fun p => inside p.1 && p.2.isDead)
  let ok := !dead && crc32c (Store.slice (fun _ => (0 : Byte)) s.mem.cells a n) == crc
  let s := { s with mem := { s.mem with
      corrected := s.mem.corrected.filter (fun x => !inside x || bad.contains x) } }
  (ok, s.each bad (fun s x => (s.readMem x).2.2))

/-- Every table of a copy in an image, read back. -/
def State.tablesOk (s : State) (c : Copy) (image : Nat) : Bool × State :=
  c.tables.foldl (fun r t =>
    let q := r.2.readBack (t.at c image) t.bytes.length t.crc
    (r.1 && q.1, q.2)) (true, s)

/-! ### Requests -/

/-- The reason for which a splice with the request `v` is refused at its write, 0 for none (R94): in BOOT 0x09 (R106),
else the first of the table that holds. -/
def State.spliceReason (s : State) (v : Word) : Nat :=
  let k := REEL_SPLICE.SLOT.of v
  let back := REEL_SPLICE.BACK.of v == 1
  let st := s.slotState k
  let h := s.slotHead k
  let a := s.reel.active.hdr
  let standby := s.sys.mode == .standby
  let left := s.word REEL_SPLICE_AT - s.clk.frames
  if s.sys.mode == .boot then 0x09
  else if st != slVerified && st != slGood then 0x01
  else if k == s.activeReel then 0x02
  else if REEL_SPLICE.TAKE.of v != (s.slotTake k).toNat then 0x03
  else if !newer (s.slotTake k) a.take && !back then 0x04
  else if le32 h 0x18 != a.structSig && !standby then 0x05
  else if le32 h 0x1C != a.stateSig && !standby then 0x06
  else if s.safeLen < le16 h 0x14 then 0x07
  else if s.fld MGT_FW.VERSION < le16 h 0x24 then 0x08
  else if s.slotState s.activeReel == slTrial && !back then 0x0A
  else if REEL_SPLICE.AT_EN.of v == 1 && (left == 0 || left.getLsbD 31) then 0x0C
  else 0

/-- A splice is refused with a reason (R94, R95): `first` is the fault code that goes before SPLICE_REFUSED. A refused
fallback blocks it (R565). -/
def State.spliceRefuse (s : State) (reason : Nat) (first : Option Nat := none) : State :=
  let fb := s.reel.fallback
  let s := { s with reel := { s.reel with staged := none, spliceAt := none, repairCheck := false, fallback := false } }
  let s := ((s.put REEL_STAT.SPLICE_STATE 4).put REEL_STAT.REASON reason).bump REEL_SPLICE_CNT.REFUSED 1
  let s := match first with | some c => s.raise c | none => s
  let s := s.raise 0x030C
  if fb then ({ s with reel := { s.reel with fallbackWait := false } }).raise 0x1006 else s

/-- A splice that is accepted starts staging (R93). A reload in progress gives up the staged copies and starts again
later. -/
def State.spliceStart (s : State) (v : Word) : State :=
  let at_ := if REEL_SPLICE.AT_EN.of v = 1 then some (s.word REEL_SPLICE_AT) else none
  let s := { s with reel := { s.reel with
      staged := none, spliceAt := at_, repairCheck := false
      reloading := s.reel.reloading || s.reel.reloaded, reloaded := false } }
  (s.setWord REEL_SPLICE v).put REEL_STAT.SPLICE_STATE 1

/-- A write of REEL_SPLICE (R93, R94, R109). A TAKE of 0x0000 is an illegal value. -/
def State.writeSplice (s : State) (v : Word) : State :=
  let v := v &&& rwMask REEL_SPLICE
  if s.splicing || REEL_SPLICE.TAKE.of v = 0 then s.refuse
  else if s.spliceReason v = 0 then s.spliceStart v
  else s.spliceRefuse (s.spliceReason v)

/-- REEL_SPLICE: a write of REEL_SPLICE (R93). -/
def execReelSplice (v : Word) (s : State) : Out := hostAccess s REEL_SPLICE (some v) (fun s => s.writeSplice v)

/-- A fallback that is due starts (R565): MC runs, no splice is in progress, and the other slot is GOOD. Its request
stands in REEL_SPLICE like one of the host (DESIGN CHOICE, log 83). -/
def State.fallbackStart (s : State) : State :=
  let k := 1 - s.activeReel
  if !s.reel.fallbackWait || !s.flag REEL_STAT.TRIAL || !s.flag MGT_POLICY.FALLBACK || s.splicing || !s.mcRuns
      || s.slotState k != slGood then s
  else
    let v := u32 (k + 2 + (s.slotTake k).toNat * 2 ^ 16)
    let r := s.spliceReason v
    let s := { s with reel := { s.reel with fallbackWait := false, fallback := true } }
    if r = 0 then (s.spliceStart v).raise 0x1005 else s.spliceRefuse r

/-! ### Staging -/

/-- STAGING_END: staging ends (R94 to R96). The reel is verified, loaded into the staged copies and read back (R85);
`bad` tells of a copy outside the banks that does not read back with its check. -/
def execStagingEnd (bad : Bool) (s : State) : Out :=
  whenPowered s fun s =>
    if s.fld REEL_STAT.SPLICE_STATE != 1 || !s.mcRuns then s
    else
      let k := s.fld REEL_SPLICE.SLOT
      let s := s.reelNotice k
      match s.verifyReel k with
      | .error (code, integrity) => (s.when integrity (fun s => s.setSlot k slRejected)).spliceRefuse 0x0E (some code)
      | .ok c =>
        let s := s.loadTables c.copy s.otherImage
        let r := s.tablesOk c.copy s.otherImage
        let s := r.2
        if bad || !r.1 then s.spliceRefuse 0x0B (some 0x030D)
        else
          let s := { s with reel := { s.reel with staged := some (c.copy, c.struct) } }
          s.put REEL_STAT.SPLICE_STATE 2

/-- STAGED_RECHECK: a staged copy in a repaired bank has been read back (R96). -/
def execStagedRecheck (bad : Bool) (s : State) : Out :=
  whenPowered s fun s =>
    if !s.reel.repairCheck || !s.mcRuns then s
    else
      let c := match s.reel.staged with | some p => p.1 | none => s.reel.active
      let r := s.tablesOk c s.otherImage
      let ok := r.1 && !bad
      let s := { r.2 with reel := { r.2.reel with repairCheck := false } }
      if ok then s
      else if s.reel.staged.isSome then s.spliceRefuse 0x0B (some 0x030D)
      else { s with reel := { s.reel with reloading := true, reloaded := false } }

/-! ### Trials -/

/-- The active take's trial ends with its slot GOOD (R103). -/
def State.trialGood (s : State) : State :=
  let s := { s with reel := { s.reel with fallbackWait := false } }
  (s.setSlot s.activeReel slGood).put REEL_STAT.TRIAL 0

/-- A write of REEL_CTRL (R103, R108). RECHECK reads 0 while its pass runs (DESIGN CHOICE: log entry 81). -/
def State.writeReelCtrl (s : State) (v : Word) : State :=
  let s := s.when (v.getLsbD 0 && s.flag REEL_STAT.TRIAL) State.trialGood
  let s := s.when (v.getLsbD 1 && s.splicing) (fun s => s.spliceRefuse 0x0D)
  if v.getLsbD 2 then { s with reel := { s.reel with rechecking := true } } else s

/-- CONFIRM: a write of REEL_CTRL.CONFIRM (R103). -/
def execConfirm (s : State) : Out := hostAccess s REEL_CTRL (some 1) (fun s => s.writeReelCtrl 1)

/-- CANCEL: a write of REEL_CTRL.CANCEL (R94). -/
def execCancel (s : State) : Out := hostAccess s REEL_CTRL (some 2) (fun s => s.writeReelCtrl 2)

/-- RECHECK: a write of REEL_CTRL.RECHECK (R86). -/
def execRecheck (s : State) : Out := hostAccess s REEL_CTRL (some 4) (fun s => s.writeReelCtrl 4)

/-- TRIAL_PROGRAM: MC programs the slots after a splice (R102): the one left by a BACK splice out of its trial to
REJECTED, the new one from VERIFIED to TRIAL. -/
def execTrialProgram (s : State) : Out :=
  whenPowered s fun s =>
    if !s.mcRuns then s
    else
      let r := s.reel
      let s := { s with reel := { s.reel with toTrial := none, toReject := none } }
      let s := match r.toReject with | some k => s.setSlot k slRejected | none => s
      match r.toTrial with
      | some k => if s.slotState k = slVerified then (s.setSlot k slTrial).put REEL_STAT.TRIAL 1 else s
      | none => s

/-- TRIAL_FRAMES_EXPIRE: TRIAL_FRAMES cuts have followed the splice without an ENG, ES or REEL fault (R103). -/
def execTrialFramesExpire (s : State) : Out :=
  whenPowered s fun s =>
    let n := s.reel.active.hdr.trialFrames
    if s.flag REEL_STAT.TRIAL && n != 0 && decide (n ≤ s.reel.trialCuts) && !s.reel.trialFault && s.mcRuns then s.trialGood
    else s

/-! ### The resident recheck -/

/-- RESIDENT_RECHECK: MC has recomputed the resident check of every loaded behavioural section (R86); `mismatch` tells of
one outside the banks. Every mismatch raises LOADED_CRC; a reload follows it, unless one is under way. -/
def execResidentRecheck (mismatch : Bool) (s : State) : Out :=
  whenPowered s fun s =>
    if !s.mcRuns || !s.sys.mode.supervises || !s.hasTake then s
    else
      let r := s.tablesOk s.reel.active (s.fld REEL_STAT.IMAGE)
      let bad := mismatch || !r.1
      let s := ({ r.2 with reel := { r.2.reel with rechecking := false } }).bump REEL_CHECK.PASSES 1
      if !bad then s
      else ({ s with reel := { s.reel with reloading := !s.reel.reloaded } }).raise 0x030E

/-- RELOAD_DONE: every behavioural section of the active take has been loaded into the staged copies (R86) and is read
back; `bad` tells of a copy outside the banks that does not read back with its check. Copies that fail are not used
(R85). While a splice holds the staged copies, a reload waits. -/
def execReloadDone (bad : Bool) (s : State) : Out :=
  whenPowered s fun s =>
    if !s.reel.reloading || s.splicing || !s.mcRuns then s
    else
      let s := s.loadTables s.reel.active s.otherImage
      let r := s.tablesOk s.reel.active s.otherImage
      { r.2 with reel := { r.2.reel with reloading := false, reloaded := r.1 && !bad } }

end Sys2Proof.Machine
end

