-- ==== Sys2Proof/Machine/Bus.lean ====
section
/-!
DEFINITION. Reads and writes of the host address space (R15 to R23, R452, R500, R528): what each address shows, what a
write of each register does, the snapshot latches of each path, and the accesses that D3 holds around a cut (R54).
-/
namespace Sys2Proof.Machine

/-! ### What registers show -/

/-- Bits `p 0` to `p (n - 1)` as a number. -/
def bitSum (n : Nat) (p : Nat → Bool) : Nat := (List.range n).foldl (fun v i => v + (p i).toNat * 2 ^ i) 0

/-- The code of a part in SYS_ID (R601). -/
def Part.code : Part → Nat
  | .itx1216 => 0x1216 | .itx1208l => 0x1208 | .itx1204h => 0x1204

/-- A slate and its EPOCH as the words of an RS pair: the low word, or the high bits with EPOCH. -/
def slateLo (t : Slate) : Word := t.setWidth 32
def slateHi (t : Slate) (ep : Half) : Word := u32 (t.toNat / 2 ^ 32 + ep.toNat * 2 ^ 16)

/-- Registers of SYS, CLK and REEL that show state held elsewhere. -/
def State.shownTop (s : State) (a : Nat) : Option Word :=
  if a = SYS_ID then some (SYS_ID.PART.into (s.word a) s.part.code)
  else if a = SYS_MODE then some (SYS_MODE.MODE.into (s.word a) s.sys.mode.code)
  else if a = SYS_STAT then some (SYS_STAT.VIO_OK.into (s.word a) (!s.sys.vioLow).toNat)
  else if a = CLK_SLATE_LO then some (slateLo s.clk.slate)
  else if a = CLK_SLATE_HI then some (slateHi s.clk.slate s.clk.epoch)
  else if a = CLK_LAST_CUT_LO then some (slateLo s.clk.lastCut)
  else if a = CLK_LAST_CUT_HI then some (slateHi s.clk.lastCut s.clk.lastEpoch)
  else if a = CLK_FRAME_CNT then some s.clk.frames
  else if a = CLK_FRAME_LEN then
    some (CLK_FRAME_LEN.NEXT_LEN.into (s.word a) (CLK_FRAME_LEN.LEN.of (s.lastWritten a)))
  else if a = REEL_LAST_SPLICE_LO then some (slateLo s.reel.lastSplice)
  else if a = REEL_LAST_SPLICE_HI then some (slateHi s.reel.lastSplice s.reel.lastSpliceEpoch)
  else none

/-- Registers of ENG, CAM and MOD that show state held elsewhere. ENG_BUDGET shows its reset column until a take is active
(DESIGN CHOICE: log entry 102). -/
def State.shownMotion (s : State) (a : Nat) : Option Word :=
  let nib (n : Nat) : Nat := match s.axisEntry n with | some e => 8 + e.engine | none => 0
  if a = ENG_STAT then some (ENG_STAT.USED.into (s.word a) (bitSum 8 (fun e => !(s.engineAxes e).isEmpty)))
  else if a = ENG_AXMAP_LO then some (u32 ((List.range 8).foldl (fun v n => v + nib n * 2 ^ (4 * n)) 0))
  else if a = ENG_AXMAP_HI then some (u32 ((List.range 4).foldl (fun v n => v + nib (8 + n) * 2 ^ (4 * n)) 0))
  else if a = ENG_AXPOS then
    some (u32 ((s.reel.struct.engines).foldl (fun v e => v + e.pos * 2 ^ (2 * e.axis)) 0))
  else if a = ENG_BUDGET then
    if s.hasTake then some (u32 (3 * (s.frameLen - 96) + 3 * (s.fld REEL_LEN.MIN_LEN - 96) * 2 ^ 16)) else some 0
  else if a = CAM_TBL then
    some (u32 (bitSum 16 (fun i => s.reel.active.tables.any (fun t => t.typ == 0x12 && t.inst == i))))
  else
    match groupIx (ENG_E_STAT 0) 0x20 9 a with
    | some e =>
      let w := (ENG_E_STAT.PAGE e).into (s.word a) (s.fld REEL_STAT.IMAGE)
      some (if e < 8 then (ENG_E_STAT.AXES e).into w (s.engineAxes e).length else w)
    | none =>
      match groupIx (MOD_AX_ANGLE 0) 0x40 12 a, groupIx (MOD_AX_LOOP 0) 0x40 12 a with
      | some n, _ => some (u32 (s.theta n % 2 ^ 20 + s.fld (MOD_AX_STAT.COAST n) * 2 ^ 20))
      | none, some n =>
        let half (z : Int) : Nat := (z % 65536).toNat
        some (u32 (half (s.mod n).pa.uc + half (s.mod n).pb.uc * 2 ^ 16))
      | none, none => none

/-- Registers of the other blocks that show state held elsewhere. -/
def State.shownRest (s : State) (a : Nat) : Option Word :=
  if a = POS_STAT then some s.posStat
  else if a = CAN_STAT then some s.canStat
  else if a = CAN_WAKE then some (CAN_WAKE.LEVEL.into (s.word a) s.sys.wakeLevel.toNat)
  else if a = SPI_STAT then
    some (u32 ((s.spi.frame.isSome || s.spi.ignored).toNat + s.mastering.toNat * 2
      + s.fld SPI_MW_STAT.BUSY * 4 + s.fld SPI_LATE.VALID * 8 + s.fld SPI_STAT.FRAME_ERR * 16
      + s.fld SPI_STAT.MM_FAULT * 32 + s.spi.busyN.toNat * 64))
  else if a = MEM_STAT then some (MEM_STAT.RET.into 0 (bitSum 17 (fun b => !s.bankOn b)))
  else if a = INT_STAT then
    some (INT_STAT.IRQ_N.into (INT_STAT.FAULT_N.into (s.word a) s.intg.pinFault.toNat) s.intg.pinIrq.toNat)
  else if a = INT_IRQ_SRC then some s.irqSrc
  else if a = MGT_STAT then some s.mgtStat
  else if a = MGT_UPD_STAT then some s.updStat
  else
    match groupIx (MEM_B_OWN 0) 0x10 17 a, groupIx (MGT_LOG_W 0) 4 8 a, groupIx (GPM_PIN 0) 4 15 a with
    | some b, _, _ => some ((MEM_B_OWN.NEXT b).into (s.word a) ((MEM_B_OWN.OWNER b).of (s.lastWritten a)))
    | _, some k, _ => some (s.logWord (s.fld MGT_LOG_SEL.BACK) k)
    | _, _, some p =>
      let e : PinEntry := Tbl.get ⟨0, 0, 0⟩ s.reel.struct.pins p
      some (u32 (e.fn + e.inst * 2 ^ 8 + e.opt * 2 ^ 16))
    | _, _, _ => none

/-- The value that the register at `a` shows at this moment (R21, R22). -/
def State.shown (s : State) (a : Nat) : Word × State :=
  if s.absent a then (0, s)
  else if a = GPM_LEVEL then s.gpmLevel
  else
    match s.shownTop a, s.shownMotion a, s.shownRest a with
    | some w, _, _ => (w, s)
    | _, some w, _ => (w, s)
    | _, _, some w => (w, s)
    | _, _, _ => (s.word a, s)

/-! ### Snapshot latches -/

/-- The RS groups (R20): base of the low word, stride, count, and how many words follow it in the group. -/
def rsGroups : List (Nat × Nat × Nat × Nat) := [
  (CLK_SLATE_LO, 0x1000, 1, 1), (CLK_LAST_CUT_LO, 0x1000, 1, 1), (CLK_SLEEP_LO, 0x1000, 1, 1),
  (REEL_LAST_SPLICE_LO, 0x1000, 1, 1), (AX_POS 0, 0x100, 12, 3), (CAM_AX_ERR 0, 0x40, 12, 2), (CAM_SI_COUNT 0, 0x10, 4, 1),
  (MOD_AX_SPW0 0, 0x40, 12, 2), (LAS_AX_ANGLE 0, 0x80, 12, 1), (POS_QD_COUNT 0, 0x40, 4, 3), (POS_SN_DATA 0, 0x40, 4, 2),
  (POS_LT_POS 0, 0x10, 8, 2), (INT_EVT_A 0, 8, 8, 1), (MGT_LOG_W 0, 0x1000, 1, 7)]

/-- The place of a register in its RS group: the address of the low word, its index in the group, and how many words
follow the low one. -/
def rsPlace (a : Nat) : Option (Nat × Nat × Nat) :=
  rsGroups.findSome? (fun g =>
    let d := a - g.1
    let i := d / g.2.1
    let r := d % g.2.1
    if g.1 ≤ a && i < g.2.2.1 && r % 4 == 0 && r / 4 ≤ g.2.2.2 then some (g.1 + g.2.1 * i, r / 4, g.2.2.2) else none)

/-- The words after the low one of a group latched for a path (R528). -/
def State.latchGroup (s : State) (p : Path) (head n : Nat) : State :=
  s.each (List.range n) (fun s i =>
    let a := head + 4 * (i + 1)
    let r := s.shown a
    { r.2 with latched := Assoc.put r.2.latched (p, a) r.1 })

/-- A register read over a path (R20, R372, R528). -/
def State.readReg (s : State) (p : Path) (a : Nat) : Word × State :=
  match rsPlace a with
  | some (head, i, n) =>
    if i = 0 then
      let r := s.shown a
      match groupIx (POS_LT_POS 0) 0x10 8 a with
      | some j => (r.1, r.2.readLatch p j)
      | none => (r.1, r.2.latchGroup p head n)
    else ((Assoc.get s.latched (p, a)).getD 0, s)
  | none => s.shown a

/-- The block with the slate as D3 samples it, `lag` ticks behind the generator, and EPOCH with it (R36, R65). -/
def State.laggedSlate (s : State) (lag : Nat) : State :=
  let t := s.sampled 1 3 lag
  { s with clk := { s.clk with
    slate := t, epoch := if s.clk.slate.toNat < t.toNat then s.clk.epoch - 1 else s.clk.epoch } }

/-- A read of CLK_SLATE_LO over a path: the slate that D3 samples, with its high bits latched (R36, R65). -/
def State.readSlate (s : State) (p : Path) (lag : Nat) : Word × State :=
  let r := (s.laggedSlate lag).readReg p CLK_SLATE_LO
  (r.1, { s with latched := r.2.latched })

/-! ### Reads -/

/-- The index of a CAN buffer at `a` among `count` of them from `base`, and the offset of the word in it (R445). -/
def canWord (base count a : Nat) : Option (Nat × Nat) :=
  if base ≤ a && decide ((a - base) / 0x50 < count) then some ((a - base) / 0x50, (a - base) % 0x50) else none

/-- A read of a bank word (R461, R507, R517). A colliding read returns the value before port A's write. -/
def State.readBank (s : State) (b a : Nat) (x : Access) : Word × State :=
  let r := ((s.plant a x.ecc).wakeBank b).readMem a
  match x.coll with
  | some v => if b = 16 then (r.1, (r.2.2.portA a v).collide) else (r.1, r.2.2)
  | none => (r.1, r.2.2)

/-- A read of host address `a` over a path (R15, R16): the word, none where an aperture word becomes late (R462), and the
state after it. -/
def State.busRead (s : State) (p : Path) (a : Nat) (x : Access) : Option Word × State :=
  let some_ (r : Word × State) : Option Word × State := (some r.1, r.2)
  match bankOf a with
  | some b => some_ (s.readBank b a x)
  | none =>
    if 0x80000 ≤ a && a < 0x100000 then some_ (s.flashRead a x.ecc)
    else if 0x10C800 ≤ a && a < 0x10D000 then s.mwRead ((a - 0x10C800) / 4) (p != .host)
    else
      match canWord 0x10B100 3 a, canWord 0x10B400 17 a with
      | some (i, off), _ => some_ ((s.tb i).read off, s)
      | none, some (n, off) =>
        let s := if off = 0 then s.readRbId p n else s
        some_ ((s.shadow p n).read off, s)
      | none, none =>
        if a = CLK_SLATE_LO then some_ (s.readSlate p x.lag)
        else if (regRow a).isSome then some_ (s.readReg p a) else some_ (0, s)

/-! ### Writes -/

/-- The parameter that the register at `a` holds: axis and index (R178, R237, R310). -/
def paramAt (a : Nat) : Option (Nat × Nat) :=
  let n := match a / 0x1000 with
    | 0x104 => (a - 0x104000) / 0x100
    | 0x105 => (a - 0x105100) / 0x40
    | 0x108 => (a - 0x108100) / 0x80
    | _ => 12
  if n < 12 then ((List.range 31).find? (fun i => paramReg n i == a)).map (fun i => (n, i)) else none

/-- A flag of the fault register at `a` whose condition is still present, so that it refuses clearing (R66, R283, R346,
R443, R497, R600). -/
def State.flagHolds (s : State) (a bit : Nat) : Bool :=
  if a = SYS_FAULT then (bit == 1 && s.flag SYS_STAT.OV) || (bit == 2 && s.sys.vioLow)
  else if a = CLK_FAULT then s.clkCondition bit
  else if a = MOD_FAULT then
    (bit == 7 && (List.range 12).any (fun n => inMask s.modg.ilock n && s.isSafe n))
      || (bit == 8 && (List.range 12).any (fun n => inMask s.modg.noSample n && s.isSafe n))
  else if a = PWR_FAULT then (bit == 11 && s.anyHot) || (bit == 13 && !s.flag PWR_STAT.VGL_OK)
  else if a = CAN_FAULT then bit == 2 && (s.canState == 4 || s.canState == 5)
  else if a = CHN_FAULT then bit == 1 && s.chState == chLost
  else false

/-- The write of `v` names a flag that refuses clearing: the whole write is refused (R19). -/
def State.clearHeld (s : State) (a : Nat) (v : Word) : Bool :=
  (List.range 32).any (fun b => v.getLsbD b && (s.word a).getLsbD b && s.flagHolds a b)

/-- A write by the access codes (R18 to R20): RW and CMT bits take the value, W1C bits clear, CUT bits wait. -/
def State.plainWrite (s : State) (r : RegRow) (a : Nat) (v : Word) : State :=
  let now := BitVec.ofNat 32 (r.rw + r.cmt)
  let w := ((s.word a &&& ~~~now) ||| (v &&& now)) &&& ~~~(v &&& BitVec.ofNat 32 r.w1c)
  let s := s.setWord a w
  if r.cut = 0 then s else s.await a v

/-- A checked write by the access codes: refused where the value is illegal or a flag refuses clearing. -/
def State.checkedWrite (s : State) (p : Path) (a : Nat) (v : Word) : State :=
  match regRow a with
  | none => s
  | some r => if s.illegal p a v || s.clearHeld a v then s.refuse else s.plainWrite r a v

/-- A write that the rules may refuse, followed by an action unless it was. -/
def State.thenDo (s : State) (p : Path) (a : Nat) (v : Word) (f : State → State) : State :=
  if s.illegal p a v then s.refuse else f (s.checkedWrite p a v)

/-- A write of CLK_CTRL (R56, R59, R65). XTAL_RETRY is judged on XTAL_EN as it stands. -/
def State.writeClkCtrl (s : State) (v : Word) : State :=
  if v.getLsbD 1 && !s.flag CLK_CTRL.XTAL_EN then s.refuse
  else
    let s := s.when (v.getLsbD 1) State.writeXtalRetry
    let s := if v.getLsbD 0 == s.flag CLK_CTRL.XTAL_EN then s else s.writeXtalEn (v.getLsbD 0)
    s.when (v.getLsbD 2) (fun s => s.put CLK_STAT.LPO_BUSY 1)

/-- A write of MOD_FAULT that clears ILOCK or NO_SAMPLE forgets their axes (R283). -/
def State.writeModFault (s : State) (p : Path) (v : Word) : State :=
  let s := s.checkedWrite p MOD_FAULT v
  let i := if (s.word MOD_FAULT).getLsbD 7 then s.modg.ilock else 0
  let n := if (s.word MOD_FAULT).getLsbD 8 then s.modg.noSample else 0
  { s with modg := { s.modg with ilock := i, noSample := n } }

/-- Registers with an action of their own in SYS, CLK, REEL and ENG. -/
def State.actTop (s : State) (p : Path) (a : Nat) (v : Word) : Option State :=
  if a = SYS_MODE_REQ then some (s.modeRequest p v)
  else if a = CLK_CTRL then some (s.writeClkCtrl v)
  else if a = CLK_FAULT then some (s.clearClkFault v)
  else if a = REEL_CTRL then some (s.writeReelCtrl v)
  else if a = REEL_SPLICE then some (s.writeSplice v)
  else if a = ENG_CTRL then some (s.writeEngCtrl v)
  else none

/-- Registers with an action of their own in MOT, CAM and LAS (R178, R181, R212, R229 to R233). -/
def State.actMotion (s : State) (p : Path) (a : Nat) (v : Word) : Option State :=
  match paramAt a with
  | some (n, i) => some (s.writeParam n i v)
  | none =>
    match a / 0x1000 with
    | 0x104 =>
      let n := (a - 0x104000) / 0x100
      if a = AX_CTRL n then some (s.writeAxCtrl n v)
      else if a = AX_TARGET n then some (s.writeTarget n v)
      else if a = AX_VTARGET n then some (if vtargetRefused v then s.refuse else s.setWord a v)
      else if a = AX_SETPOS n then some (s.writeSetpos n v)
      else none
    | 0x105 =>
      match groupIx (CAM_AX_CTRL 0) 0x40 12 a, groupIx (CAM_AX_BIND 0) 0x40 12 a, groupIx (CAM_SI_CFG 0) 0x10 4 a with
      | some n, _, _ => some (s.writeCamCtrl n v)
      | _, some n, _ => some (s.writeBind n v)
      | _, _, some k =>
        some (s.thenDo p a v (fun s => s.when (v.getLsbD 8) (fun s => s.modSi k (fun x => { x with clear := true }))))
      | _, _, _ => none
    | _ => none

/-- Registers with an action of their own in MOD, PWR, POS and ADC. -/
def State.actAnalog (s : State) (p : Path) (a : Nat) (v : Word) (x : Access) : Option State :=
  match a / 0x1000 with
  | 0x106 =>
    if a = MOD_COMMIT then some (s.writeCommit v)
    else if a = MOD_FAULT then some (s.writeModFault p v)
    else (groupIx (MOD_AX_FORCE 0) 0x40 12 a).map (fun n => s.writeForce n v)
  | 0x107 =>
    if a = PWR_ST_CTRL then
      some (if v.getLsbD 16 then s.selftestStart (v.setWidth 12) else s.checkedWrite p a v)
    else if a = PWR_CTRL then
      some ((s.checkedWrite p a v).when (s.sys.mode == .standby && !v.getLsbD 0) (fun s => s.put PWR_STAT.VCP_OK 0))
    else
      match groupIx (PWR_AX_TRIP 0) 0x40 12 a, groupIx (PWR_AX_DIAG 0) 0x40 12 a with
      | some n, _ => some (s.tripClear n v)
      | _, some n => some (s.when (v.getLsbD 0) (fun s => s.diagStart n))
      | _, _ => none
  | 0x109 =>
    if a = POS_LT_TRIG then some (s.writeLtTrig (v.setWidth 8) x.lag)
    else
      match groupIx (POS_QD_SET 0) 0x40 4 a, groupIx (POS_CP_VAL 0) 0x10 4 a, groupIx (POS_EE_CFG 0) 0x10 2 a,
        groupIx (POS_LT_CFG 0) 0x10 8 a with
      | some k, _, _, _ => some (s.writePreset k v)
      | _, some m, _, _ => some (s.writeVal m v)
      | _, _, some e, _ =>
        some (s.thenDo p a v (fun s => s.when (v.getLsbD 7) (fun s => s.modEe e (fun y => { y with clear := true }))))
      | _, _, _, some j => some (s.thenDo p a v (fun s => s.emptyLatch j))
      | _, _, _, _ => none
  | 0x10A =>
    if a = ADC_INJ then some (s.writeInj v)
    else if a = ADC_CAL then some (s.writeCal v)
    else
      match groupIx (ADC_CH_CFG 0) 0x10 56 a, groupIx (ADC_CH_CORR 0) 0x10 56 a with
      | some ch, _ =>
        if 54 ≤ ch then some s else if ch = 49 then some (s.checkedWrite p a (v &&& 1#32)) else none
      | _, some ch => if ch = 49 then some s else none
      | _, _ => none
  | _ => none

/-- Registers with an action of their own in CAN, SPI, MEM, INT and MGT. -/
def State.actLinks (s : State) (p : Path) (a : Nat) (v : Word) (x : Access) : Option State :=
  match a / 0x1000 with
  | 0x10B =>
    if a = CAN_CTRL then some (s.thenDo p a v (fun s => s.canCtrlWritten v))
    else if a = CAN_TXREQ then some (s.writeTxreq (v.setWidth 3))
    else if a = CAN_TXABORT then some (s.writeTxabort (v.setWidth 3))
    else if a = CAN_RXF_ACK then some (s.when (v.getLsbD 0) State.writeRxfAck)
    else
      match canWord 0x10B100 3 a with
      | some (i, off) => some (s.writeTb i off v)
      | none => none
  | 0x10C =>
    if a = SPI_MW_BASE then some (s.mwBase v)
    else if a = SPI_MW_RAW then some (s.mwRaw v)
    else if 0x10C800 ≤ a then some (s.mwWrite ((a - 0x10C800) / 4) v)
    else none
  | 0x10D =>
    if a = MEM_AT_SET then some (s.atomic (fun w => w ||| v) x)
    else if a = MEM_AT_CLR then some (s.atomic (fun w => w &&& ~~~v) x)
    else none
  | 0x10E =>
    if a = INT_AX_SAFE then some (s.writeAxSafe (v.setWidth 12))
    else if a = INT_AX_RELEASE then some (s.writeAxRelease (v.setWidth 12))
    else none
  | 0x10F => some (s.mgtWrite p a v)
  | _ => none

/-- A write of a register over a path. One of an axis or a function that the variant lacks is discarded (R4). -/
def State.writeReg (s : State) (p : Path) (a : Nat) (v : Word) (x : Access) : State :=
  if s.absent a then s
  else
    match s.actTop p a v, s.actMotion p a v, s.actAnalog p a v x, s.actLinks p a v x with
    | some s, _, _, _ => s
    | _, some s, _, _ => s
    | _, _, some s, _ => s
    | _, _, _, some s => s
    | _, _, _, _ => s.checkedWrite p a v

/-- A write of a bank word (R461, R507, R517, R522). A colliding write takes effect after port A's. -/
def State.writeBank (s : State) (b a : Nat) (v : Word) (x : Access) : State :=
  let s := ((s.wakeBank b).collided a x.coll).writeMem a v
  if b = 16 then s.incr MEM_MB_CNT.B_WR else s

/-- A write of host address `a` over a path (R15 to R17). -/
def State.busWrite (s : State) (p : Path) (a : Nat) (v : Word) (x : Access) : State :=
  match bankOf a with
  | some b => s.writeBank b a v x
  | none => if a < 0x100000 then s else s.writeReg p a v x

/-! ### Meanings -/

/-- REGISTER_WRITE: a host write (R19). Outside a frame, a word of the aperture is written out at once (R462). -/
def execRegisterWrite (addr : BitVec 24) (v : Word) (s : State) : Out :=
  let a := addr.toNat / 4 * 4
  hostAccess s a (some v) (fun s => (s.busWrite .host a v {}).mwFlush)

/-- OWN_WRITE: a host write of MEM_Bb_OWN (R502). -/
def execOwnWrite (b : Fin 17) (v : Word) (s : State) : Out :=
  hostAccess s (MEM_B_OWN b) (some v) (fun s => s.checkedWrite .host (MEM_B_OWN b) v)

/-- STAMP_STALE: a latched stamp is 2^31 ticks old (R40). A position latch keeps its stamp after a read. -/
def execStampStale (x : Stamped) (s : State) : Out :=
  whenPowered s fun s =>
    match x with
    | .latch j => if s.pos.stamped.getLsbD j then s.put (POS_LT_STAT.STALE j) 1 else s
    | .rb n => { s with can := { s.can with rbs := Tbl.mod s.can.rbs n (fun b => { b with ctl := b.ctl ||| 0x80 }) } }
    | .hpb => { s with can := { s.can with rbs := Tbl.mod s.can.rbs 16 (fun b => { b with ctl := b.ctl ||| 0x80 }) } }

end Sys2Proof.Machine
end

