-- ==== Sys2Proof/Machine/Spi.lean ====
section
/-!
DEFINITION. The host link of the serial port (R449 to R461): its frames, their commands, late words and the daisy chain.
A frame command stands for the frame up to its last clock; HOST_FRAME_END is the rise of SEL0_N.
-/
namespace Sys2Proof.Machine

/-! ### Frames -/

/-- The status byte (R453). -/
def State.statusByte (s : State) : Byte :=
  BitVec.ofNat 8 (0x80 + s.intg.pinFault.toNat * 0x20 + s.intg.pinIrq.toNat * 0x10 + s.spi.mwErr.toNat * 8
    + s.spi.frameErr.toNat * 4 + s.spi.result % 4)

/-- A host frame opens: its status byte is taken, and what it reports is reported no more (R453). -/
def State.frameOpen (s : State) : State :=
  { s with spi := { s.spi with
      status := s.statusByte, mwErr := false, frameErr := false, result := 0, out := [], driven := [], frame := some {} } }

/-- SEL0_N falls. A host link that is off, or a frame already open, sees no new frame (R471); a fall while the port
masters the bus, or in a slave's chain window, is ignored (R468, R494). Otherwise the frame opens and `f` is its
content. -/
def State.hostFrame (s : State) (f : State → State) : State :=
  if s.spi.frame.isSome || s.spi.ignored || !s.hostLink then s
  else if s.mastering then s.mmFault
  else if s.inChainWindow then s.hostInWindow
  else f s.frameOpen

/-- The open frame changed by `f`. -/
def State.modFrame (s : State) (f : HostFrame → HostFrame) : State :=
  { s with spi := { s.spi with frame := s.spi.frame.map f } }

/-- An illegal command or address (R451). -/
def State.illegalFrame (s : State) : State :=
  (((s.modFrame (fun f => { f with illegal := true })).bump SPI_HERR.ILLEGAL 1).raise 0x0D02).outcome 1

/-- The lane mode of the phases after the command (R449). -/
def State.hostLane (s : State) : Lane := if s.fld SPI_CFG.HLANE = 1 then .dual else .pair

/-- Bits in a cycle of a lane mode (R447). -/
def Lane.width : Lane → Nat
  | .dual => 2
  | _ => 1

/-- The wait cycles that the device drives before word `i` of the open frame (R454, R455): those after which it reached
D3, for the first late word SPI_CFG.WMAX, and none for those after it. -/
def State.waitOf (s : State) (f : HostFrame) (i : Nat) : Nat :=
  match f.lateAt with
  | some k => if i < k then Tbl.get 0 f.waits i else if i = k then s.fld SPI_CFG.WMAX else 0
  | none => Tbl.get 0 f.waits i

/-- The exact length of the open frame, in SCK cycles (R458), its command in PAIR, the address, the dummy cycles of a
reading command, and the words, each of a read after its wait and start cycles. -/
def State.exactLength (s : State) (f : HostFrame) : Nat :=
  let lane := s.hostLane.width
  let head := 8 + 24 / lane
  match f.kind with
  | .bare => head
  | .write => head + f.words * (32 / lane)
  | .status => head + 1 + 32 / lane
  | .read => head + s.fld SPI_CFG.RDUMMY + (List.range f.words).foldl (fun n i => n + (s.waitOf f i + 1 + 32 / lane)) 0

/-- What the device drives on SIO1 and SIO0 for a word of a read (R447). -/
def State.wordLevels (s : State) (w : Word) : List (Option Bool × Option Bool) :=
  s.hostLane.levels false (msbFirst 32 w.toNat)

/-- One cycle with every lane that the device drives in the data phase at level `b` (R454). -/
def State.flatCycle (s : State) (b : Bool) : List (Option Bool × Option Bool) :=
  s.hostLane.levels false (List.replicate s.hostLane.width b)

/-- What the device drives in the wait phase of `w` wait cycles and for the word `v` after it (R454). -/
def State.waitedWord (s : State) (w : Nat) (v : Word) : List (Option Bool × Option Bool) :=
  (List.replicate w (s.flatCycle false)).flatten ++ s.flatCycle true ++ s.wordLevels v

/-- What the device drove in the data phases of the open frame: each word that it gave after its wait phase (R454,
R455). A writing command has none. -/
def State.dataLevels (s : State) (f : HostFrame) : List (Option Bool × Option Bool) :=
  match f.kind with
  | .status => (s.spi.out.map (s.waitedWord 0)).flatten
  | .read => (s.spi.out.zipIdx.map (fun p => s.waitedWord (s.waitOf f p.2) p.1)).flatten
  | _ => []

/-- A command byte of R450: its OP, and the words that its frame carries; none where it is illegal. -/
def hostOp (c : Byte) : Option (Nat × Nat) :=
  let op := c.toNat / 16
  let n := c.toNat % 16
  if 6 ≤ op || (op ≤ 1 && n ≠ 0) then none else some (op, n + 1)

/-- The command byte is one of those of R450. -/
def hostCommand (c : Byte) : Bool := (hostOp c).isSome

/-- SPI_STAT as at the command's last bit (R450). -/
def State.spiStat (s : State) : Word := (s.shown SPI_STAT).1

/-! ### Reads -/

/-- An access of a register of MGT or of the flash window waits for the restart of MC (R563). -/
def State.mcAway (s : State) (a : Nat) : Bool :=
  s.mgt.stopped && ((decide (0x80000 ≤ a) && decide (a < 0x100000)) || a / 0x1000 == 0x10F)

/-- A word of a read is not there in time (R455). -/
def State.readLate (s : State) : State := ((s.outcome 3).bump SPI_HERR.LATE 1).raise 0x0D08

/-- The word `w` is driven to the host, or, where the host does not clock it in full, goes on to the late buffer (R458).
-/
def State.giveWord (s : State) (clocked : Bool) (a : Nat) (w : Word) : State :=
  if clocked then { s with spi := { s.spi with out := s.spi.out ++ [w] } }
  else { s with spi := { s.spi with late := s.spi.late ++ [{ addr := a, val := some w }] } }

/-- From a late word on, `left` words are driven as 0 (R455). -/
def State.giveZeros (s : State) (left : Nat) : State :=
  let k := s.spi.out.length
  let s := { s with spi := { s.spi with out := s.spi.out ++ List.replicate left 0 } }
  s.modFrame (fun f => { f with lateAt := some k })

/-- The words `l` of a read, each with the wait cycles after which its value reaches D3, of which the host clocks the
first `left` in full (R454, R455). A word that needs more than SPI_CFG.WMAX of them is late; no access is issued for the
words after it. Words that D3 or MC holds wait. -/
def State.readWords (s : State) : List (Asked × Nat) → (left : Nat) → State
  | [], _ => s
  | (q, w) :: t, left =>
    if s.fld SPI_CFG.WMAX < w then
      let s := { s.readLate with spi := { s.readLate.spi with late := s.readLate.spi.late ++ [q] } }
      s.giveZeros left
    else if s.holding || s.mcAway q.addr then s.modFrame (fun f => { f with wait := (q, w) :: t, left := left })
    else
      match s.busRead .host q.addr q.acc with
      | (some w, s) => (s.giveWord (decide (0 < left)) q.addr w).readWords t (left - 1)
      | (none, s) => s.readLate.giveZeros left

/-- The words of an open frame's read that waited, as soon as nothing holds them. -/
def State.frameResume (s : State) : State :=
  match s.spi.frame with
  | some f =>
    if f.wait.isEmpty then s
    else ({ s with spi := { s.spi with frame := some { f with wait := [] } } }).readWords f.wait f.left
  | none => s

/-- The word that the open frame waits for is still held after the `waited` wait cycles driven for it: from SPI_CFG.WMAX
of them on it is late, and no access is issued for the words after it (R455). -/
def State.waitedOut (s : State) (waited : Nat) : State :=
  match s.spi.frame with
  | some f =>
    match f.wait with
    | [] => s
    | (q, _) :: _ =>
      if waited < s.fld SPI_CFG.WMAX then s
      else
        let s := s.readLate.modFrame (fun f => { f with wait := [] })
        ({ s with spi := { s.spi with late := s.spi.late ++ [q] } }).giveZeros f.left
  | none => s

/-- A reading command (R454 to R456): `n` words from `a`, the address rising by `step`, of which the host clocks `take` in
full, and with `begun` the first bit of the next one; `waits` are the wait cycles after which each word reaches D3. -/
def State.readFrame (s : State) (a step n take : Nat) (begun : Bool) (waits : List Nat) (ev : List Access) : State :=
  if a % 4 ≠ 0 then s.illegalFrame
  else
    let hit := s.flag SPI_LATE.VALID && s.fld SPI_LATE.ADDR == a
    let waits := if hit then 0 :: waits.drop 1 else waits
    let s := s.modFrame (fun f => { f with kind := .read, words := n, whole := decide (n ≤ take), waits := waits })
    let issued := min n (take + 1 + begun.toNat)
    let ws : List (Asked × Nat) := (List.range issued).map (fun i =>
      ({ addr := (a + step * i) % 2 ^ 24, acc := Tbl.get {} ev i }, Tbl.get 0 waits i))
    let left := min n take
    if hit then
      let w := s.spi.lateWord
      ((s.setWord SPI_LATE 0).giveWord (decide (0 < left)) a w).readWords (ws.drop 1) (left - 1)
    else s.dropLate.readWords ws left

/-! ### Writes -/

/-- A write of the host reaches D3 (R54, R459). -/
def State.hostWrite (s : State) (a : Nat) (v : Word) (x : Access) : State :=
  if s.holding then s.hold a (some v) x else s.busWrite .host a v x

/-- A writing command (R459): the words `l` that the host clocked, `n` at most, from `a`, the address rising by `step`. -/
def State.writeFrame (s : State) (a step n : Nat) (l : List Word) (ev : List Access) : State :=
  if a % 4 ≠ 0 then s.illegalFrame
  else
    let s := (s.modFrame (fun f => { f with kind := .write, words := n, whole := decide (n ≤ l.length) })).dropLate
    s.each (List.range (min n l.length)) (fun s i => s.hostWrite ((a + step * i) % 2 ^ 24) (Tbl.get 0 l i) (Tbl.get {} ev i))

/-! ### Meanings -/

/-- NOP: a frame whose command byte is `cmd` and carries no data (R450, R451). The bytes of the other commands are spelled
by their own rows, and do nothing here. -/
def execNop (cmd : Byte) (s : State) : Out :=
  whenPowered s fun s =>
    if s.flag SPI_CFG.DAISY || (cmd != 0 && hostCommand cmd) then s
    else s.hostFrame (fun s => if cmd = 0 then s else s.illegalFrame)

/-- STATUS: SPI_STAT as at the command's last bit (R450). `n` is the N field; one that is not 0 is illegal. -/
def execStatus (addr : BitVec 24) (n : Fin 16) (s : State) : Out :=
  whenPowered s fun s =>
    if s.flag SPI_CFG.DAISY then s
    else
      s.hostFrame (fun s =>
        if n.val ≠ 0 || addr.toNat % 4 ≠ 0 then s.illegalFrame
        else (s.modFrame (fun f => { f with kind := .status, words := 1 })).giveWord true addr.toNat s.spiStat)

/-- WRITE: N words to rising addresses (R450, R459). -/
def execWrite (addr : BitVec 24) (n : Fin 16) (data : List Word) (ev : List Access) (s : State) : Out :=
  whenPowered s fun s =>
    if s.flag SPI_CFG.DAISY then s else s.hostFrame (fun s => s.writeFrame addr.toNat 4 (n + 1) data ev)

/-- READ: N words from rising addresses (R450, R454). -/
def execRead (addr : BitVec 24) (n : Fin 16) (take : Nat) (begun : Bool) (waits : List Nat) (ev : List Access)
    (s : State) : Out :=
  whenPowered s fun s =>
    if s.flag SPI_CFG.DAISY then s
    else s.hostFrame (fun s => s.readFrame addr.toNat 4 (n + 1) take begun waits ev)

/-- WRITE_FIX: N words to one address (R450, R459). -/
def execWriteFix (addr : BitVec 24) (n : Fin 16) (data : List Word) (ev : List Access) (s : State) : Out :=
  whenPowered s fun s =>
    if s.flag SPI_CFG.DAISY then s else s.hostFrame (fun s => s.writeFrame addr.toNat 0 (n + 1) data ev)

/-- READ_FIX: N words from one address (R450, R454). -/
def execReadFix (addr : BitVec 24) (n : Fin 16) (take : Nat) (begun : Bool) (waits : List Nat) (ev : List Access)
    (s : State) : Out :=
  whenPowered s fun s =>
    if s.flag SPI_CFG.DAISY then s
    else s.hostFrame (fun s => s.readFrame addr.toNat 0 (n + 1) take begun waits ev)

/-- The frame `f` that ends after the cycles of `k` had the exact length of its command, and every word was there
(R458). -/
def State.frameExact (s : State) (f : HostFrame) (k : FrameClock) : Bool :=
  k.cycles == s.exactLength f && f.whole && f.wait.isEmpty

/-- HOST_FRAME_END: SEL0_N rises after the cycles of SCK that `k` counts, with the wait cycles driven for a word that is
still held (R455, R457, R458). An illegal frame's length is not judged (R451). -/
def execHostFrameEnd (k : FrameClock) (s : State) : Out :=
  whenPowered s fun s =>
    if s.spi.ignored then { s with spi := { s.spi with ignored := false } }
    else
      let s := s.waitedOut k.waited
      match s.spi.frame with
      | some f =>
        let s := { s with spi := { s.spi with driven := s.dataLevels f } }
        s.frameClose (!f.illegal && !s.frameExact f k)
      | none => s

/-- A late word of address `a` arrives: with DAISY=1 it is the previous run's response where that run waits for it, else
it goes into the late buffer (R455, R460). -/
def State.lateArrive (s : State) (a : Nat) (w : Word) : State :=
  if s.flag SPI_CFG.DAISY && s.spi.prevWord.isNone && s.spi.prevAddr.toNat == a then
    { s with spi := { s.spi with prevWord := some w } }
  else s.placeLate a w

/-- LATE_ARRIVAL: the value of the late word asked for first arrives (R455). In the daisy chain, one that arrives before
the next frame goes into its response (R460). -/
def execLateArrival (s : State) : Out :=
  whenPowered s fun s =>
    match s.spi.late with
    | [] => s
    | q :: t =>
      match q.val with
      | some w => ({ s with spi := { s.spi with late := t } }).lateArrive q.addr w
      | none =>
        if s.holding || s.mcAway q.addr then s
        else
          match ({ s with spi := { s.spi with late := t } }).busRead .host q.addr q.acc with
          | (some w, s) => s.lateArrive q.addr w
          | (none, s) => s

/-- What a daisy frame does (R460): the words `cmd`, `a` and `v` of the frame latched. -/
def State.daisyRun (s : State) (cmd : Byte) (a : Nat) (v : Word) (late : Bool) (x : Access) : State :=
  let s := { s with spi := { s.spi with prevAddr := BitVec.ofNat 24 a, prevWord := some 0 } }
  let known (w : Word) (s : State) : State := { s with spi := { s.spi with prevWord := some w } }
  match hostOp cmd with
  | some (op, 1) =>
    if op ≠ 0 && a % 4 ≠ 0 then s.illegalFrame
    else if op = 0 then s
    else if op = 1 then known s.spiStat s
    else if op = 2 || op = 4 then s.dropLate.hostWrite a v x
    else if s.flag SPI_LATE.VALID && s.fld SPI_LATE.ADDR == a then known s.spi.lateWord (s.setWord SPI_LATE 0)
    else
      let s := s.dropLate
      if late || s.holding || s.mcAway a then
        { s with spi := { s.spi with prevWord := none, late := s.spi.late ++ [{ addr := a, acc := x }] } }
      else
        match s.busRead .host a x with
        | (some w, s) => known w s
        | (none, s) => { s with spi := { s.spi with prevWord := none } }
  | _ => s.illegalFrame

/-- A number from its bits, the most significant first. -/
def fromMsb (l : List Bool) : Nat := l.foldl (fun v b => 2 * v + b.toNat) 0

/-- DAISY_FRAME: a whole frame of the daisy chain: in `cycles` cycles the device received the bits of `v` on SIO0, the
most significant first (R460). The response goes out on SIO1 first, then what came in 64 cycles before; the last 64 bits
are the frame latched, and a count that is no multiple of 64 latches nothing. -/
def execDaisyFrame (cycles v : Nat) (late : Bool) (x : Access) (s : State) : Out :=
  whenPowered s fun s =>
    let bits := msbFirst cycles v
    if !s.flag SPI_CFG.DAISY then s
    else
      s.hostFrame (fun s =>
        let s := if s.spi.prevWord.isNone then
            let s := (s.bump SPI_HERR.LATE 1).raise 0x0D08
            { s with spi := { s.spi with status := s.spi.status ||| 3 } }
          else s
        let word := s.spi.prevWord.getD 0
        let reply := msbFirst 8 s.spi.status.toNat ++ msbFirst 24 s.spi.prevAddr.toNat ++ msbFirst 32 word.toNat
        let s := { s with spi := { s.spi with daisy := (reply ++ bits).take bits.length, prevWord := some word } }
        let w : DWord := BitVec.ofNat 64 (fromMsb (bits.drop (bits.length - 64)))
        if bits.isEmpty || bits.length % 64 ≠ 0 then s.frameClose true
        else (s.daisyRun (w.extractLsb' 56 8) (w.extractLsb' 32 24).toNat (w.setWidth 32) late x).frameClose false)

/-- BUSY_N_RELEASE: SEL0_N is high, and 200 ns have passed (R461). -/
def execBusyNRelease (s : State) : Out :=
  whenPowered s fun s => if s.spi.frame.isNone && !s.spi.ignored then { s with spi := { s.spi with busyN := false } } else s

/-- FLASH_WINDOW_READ: a host read of the word at offset `o` of the flash window outside a frame of its own (R555). One
that MC cannot serve because it is stopped is late (R563). -/
def execFlashWindowRead (o : BitVec 19) (ecc : Ecc) (s : State) : Out :=
  let a := 0x80000 + o.toNat / 4 * 4
  hostAccess s a none (fun s =>
    if s.mcAway a then
      let s := s.readLate
      { s with spi := { s.spi with late := s.spi.late ++ [{ addr := a, acc := { ecc := ecc } }] } }
    else let r := s.flashRead a ecc; { r.2 with spi := { r.2.spi with out := [r.1] } }) { ecc := ecc }

end Sys2Proof.Machine
end

