-- ==== Sys2Proof/Machine/CanMap.lean ====
section
/-!
DEFINITION. Received frames and what they reach (R422 to R424), the entries of the CAN map (R429 to R435), and the service
channel with its management operations (R436, R437, R575).
-/
namespace Sys2Proof.Machine

/-! ### Frames and messages -/

/-- The bytes of a list as words, the missing ones 0. -/
def packWords (n : Nat) (l : List Byte) : List Word := (List.range n).map (fun i => bytesWord (l.drop (4 * i)))

/-- A received frame as a buffer holds it (R445): a base identifier stands in bits 28:18, and `flt` is the filter. -/
def frameBuf (f : CanFrame) (flt : Nat) (stamp : Word) : CanBuf :=
  let id := if f.ide then f.id.toNat else f.id.toNat / 2 ^ 18 * 2 ^ 18
  let b : CanBuf := { id := u32 (id + f.ide.toNat * 2 ^ 29 + f.rtr.toNat * 2 ^ 30)
                      ctl := u32 (f.dlc + f.fdf.toNat * 16 + f.brs.toNat * 32 + f.esi.toNat * 64 + flt % 32 * 256)
                      stamp := stamp }
  { b with data := packWords 16 (f.data.take b.len) }

/-- The data bytes of a received frame. -/
def frameBytes (f : CanFrame) : List Byte :=
  let n := canLen f.dlc f.fdf f.rtr
  (f.data ++ List.replicate 64 0).take n

/-- A message of a map entry (R430, R435, R437): its data bytes, zero to the end of its DLC. -/
def MapEntry.msg (e : MapEntry) (l : List Byte) : CanBuf :=
  { id := u32 (e.addr % 2 ^ 29 + (e.flags / 16 % 2) * 2 ^ 29)
    ctl := u32 (e.dlc % 16 + (e.flags / 8 % 2) * 16 + (e.flags / 4 % 2) * 32)
    data := packWords 16 l }

/-- Filter `i` of the CAN map matches a frame (R422): identifier, IDE and format. -/
def filterMatches (l : List Word) (f : CanFrame) (i : Nat) : Bool :=
  let o := 4 + 12 * i
  let idw : Word := Tbl.get 0 l (o / 4)
  let mask : Word := Tbl.get 0 l (o / 4 + 1)
  let id : Word := (frameBuf f 0 0).id
  let fmt := byteAt l (o + 9)
  ((id ^^^ idw) &&& mask &&& 0x1FFFFFFF == 0) && (!mask.getLsbD 29 || f.ide == idw.getLsbD 29)
    && (fmt % 2 == 0 || f.fdf) && (fmt / 2 % 2 == 0 || !f.fdf)

/-! ### Receive buffers -/

/-- RX_OVERRUN (R423). -/
def State.rxOverrun (s : State) : State := (s.put CAN_IRQ.RXOVR 1).raise 0x0C07

/-- A frame goes into dedicated buffer `n`, 16 for HPB (R423). -/
def State.storeBuf (s : State) (n : Nat) (b : CanBuf) : State :=
  let old := (s.word CAN_RXNEW).getLsbD n
  let s := { s with can := { s.can with rbs := Tbl.mod s.can.rbs n (fun _ => b) } }
  let s := (s.setWord CAN_RXNEW (s.word CAN_RXNEW ||| (1#32 <<< n))).put CAN_IRQ.RXNEW 1
  let s := s.when (n = 16) (fun s => s.put CAN_IRQ.HPB 1)
  let s := s.bump CAN_CNT.RX 1
  s.when old (fun s => (s.setWord CAN_RXOVR (s.word CAN_RXOVR ||| (1#32 <<< n))).rxOverrun)

/-- A frame goes to the FIFO (R422, R423). -/
def State.storeFifo (s : State) (b : CanBuf) : State :=
  let base := s.fifoBase
  let size := 16 - base
  let level := s.fld CAN_RXF.LEVEL
  if size ≤ level then (s.bump CAN_RXF.OVR 1).rxOverrun
  else
    let n := base + (s.fld CAN_RXF.HEAD - base + level) % size
    let s := { s with can := { s.can with rbs := Tbl.mod s.can.rbs n (fun _ => b) } }
    ((s.put CAN_RXF.LEVEL (level + 1)).put CAN_IRQ.FIFO 1).bump CAN_CNT.RX 1

/-! ### Map entries that receive -/

/-- What D2 keeps of map entry `m`, and the state with it changed. -/
def State.store (s : State) (m : Nat) : MapStore := Tbl.get {} s.can.entries m
def State.modStore (s : State) (m : Nat) (f : MapStore → MapStore) : State :=
  { s with can := { s.can with entries := Tbl.mod s.can.entries m f } }

/-- A datum or a request fails its check or length (R432, R437). -/
def State.rxCheck (s : State) : State := ((s.bump CAN_MAP_ERR.CHECK 1).put CAN_IRQ.MAP 1).raise 0x0C05

/-- The write of an accepted RX_REG datum (R434): refused, it is counted. One of an aperture word goes out as a host's
would (R462). -/
def State.writeRxReg (s : State) (m : Nat) (v : Word) : State :=
  let a := (mapEntry s.reel.active.canMap m).addr
  let r := s.apart (fun s => s.busWrite .can a v {})
  (if r.1 = 0 then r.2 else r.2.bump CAN_MAP_ERR.STALE 1).mwFlush

/-- A frame reaches RX_TARGET or RX_REG entry `m` (R432 to R434). -/
def State.rxDatum (s : State) (m : Nat) (e : MapEntry) (l : List Byte) : State :=
  let v := bytesWord (l.drop e.off)
  let ck := bytesWord (l.drop (e.off + 4))
  let gen := ck.toNat % 2 ^ 16
  if l.length < e.off + 8 || checkWord v gen != ck then s.rxCheck
  else
    let s := s.bump CAN_CNT.RX 1
    if e.kind = 1 then
      let d : Word × Word := (v, checkWord v gen)
      let closed := s.holding && s.clk.phase != .start
      s.modStore m (fun x => { x with
        age := 0, timedOut := false
        pend := if closed then x.pend else some d
        later := if closed then some d else x.later })
    else if newer (BitVec.ofNat 16 gen) (s.store m).gen then
      let s := s.modStore m (fun x => { x with gen := BitVec.ofNat 16 gen, age := 0, timedOut := false })
      if s.holding then { s with can := { s.can with heldRegs := s.can.heldRegs ++ [(m, v)] } } else s.writeRxReg m v
    else ((s.bump CAN_MAP_ERR.STALE 1).put CAN_IRQ.MAP 1).raise 0x0C0D

/-! ### The service channel -/

/-- The SERVICE entry of the map (R430, R431). -/
def State.serviceEntry (s : State) : Option MapEntry := s.mapEntries.find? (fun e => e.kind == 5)

/-- The answer to the request that awaits one: STATUS and value (R436, R437). -/
def State.answer (s : State) (st : Nat) (v : Word) : State :=
  { s with can := { s.can with svc := s.can.svc.map (fun r => { r with held := false, answer := some (st, v) }) } }

/-- An answer whose value the manual does not state. -/
def State.answerOpen (s : State) (st : Nat) : State := s.drawWord.2.answer st s.drawWord.1

/-- The operations of the service channel (R436, R575). -/
def serviceOps : List Nat := [0x01, 0x02, 0x10, 0x11, 0x12]

/-- A service request is stored and checked (R437). One with an illegal OP is answered at once. -/
def State.serviceRequest (s : State) (l : List Byte) : State :=
  let crc := crcMsb 16 0x1021 0xFFFF (l.take 12)
  let got := (bytesWord (l.drop 12)).toNat % 2 ^ 16
  if s.can.svc.isSome || l.length < 16 || crc ≠ got then s.rxCheck
  else
    let s := { s with can := { s.can with svc := some { bytes := l.take 16 } } }
    let s := s.bump CAN_CNT.RX 1
    if serviceOps.contains (Tbl.get 0 l 0).toNat then s else s.answerOpen 1

/-- A read over the service channel of address `a` (R436, R437). A word that a memory window must fetch is answered when
its line is there. -/
def State.svcRead (s : State) (a : Nat) : State :=
  if a % 4 ≠ 0 then s.answerOpen 4
  else
    let keep := s.spi.result
    match ({ s with spi := { s.spi with result := 0 } }).busRead .can a {} with
    | (w, r) =>
      let st := r.spi.result
      let r := { r with spi := { r.spi with result := keep } }
      match w with | some w => r.answer st w | none => r

/-- A write over the service channel (R436, R437). -/
def State.svcWrite (s : State) (en : Bool) (a : Nat) (v : Word) : State :=
  if !en then s.answerOpen 3
  else if a % 4 ≠ 0 then s.answerOpen 4
  else
    let r := s.apart (fun s => s.busWrite .can a v {})
    if r.1 = 0 then r.2.mwFlush.answer 0 v else r.2.mwFlush.answerOpen r.1

/-- LOG_READ (R575): a word of a record; one above 7 is refused. -/
def State.svcLogRead (s : State) (a : Nat) (v : Word) : State :=
  if 7 < v.toNat % 256 then s.answerOpen 1 else s.answer 0 (s.logWord (a % 2 ^ 11) (v.toNat % 256))

/-- UPD_WRITE (R560, R575). -/
def State.svcUpdWrite (s : State) (en : Bool) (a : Nat) (v : Word) : State :=
  if !en then s.answerOpen 3
  else if a % 4 ≠ 0 then s.answerOpen 4
  else
    let r := s.updWriteAt a v
    if r.1 then r.2.answer 0 v else r.2.answerOpen 1

/-- UPD_CMD (R559, R575). -/
def State.svcUpdCmd (s : State) (en : Bool) (v : Word) : State :=
  if !en then s.answerOpen 3
  else
    let r := s.apart (fun s => s.updCtrl v)
    if r.1 = 0 then r.2.answer 0 r.2.updStat else r.2.answerOpen r.1

/-- What a service request does by its OP (R436, R575). -/
def State.svcDo (s : State) (op : Nat) (en : Bool) (a : Nat) (v : Word) : State :=
  match op with
  | 0x01 => s.svcRead a
  | 0x02 => s.svcWrite en a v
  | 0x10 => s.svcLogRead a v
  | 0x11 => s.svcUpdWrite en a v
  | _ => s.svcUpdCmd en v

/-- The port masters the bus for a service access. -/
def State.svcFetching (s : State) : Bool :=
  match s.spi.job with
  | some (.line _ _ c) => c
  | _ => false

/-- Carry out the request that waits, if its operation is `op` (R437): at once, or at the end of a hold (R54) or of a stop
of MC (R563). -/
def State.serve (s : State) (op : Nat) : State :=
  match s.can.svc with
  | some ⟨l, _, none, _⟩ =>
    let a := (bytesWord (l.drop 4)).toNat % 2 ^ 24
    let v := bytesWord (l.drop 8)
    let en := (s.serviceEntry.map (fun e => e.flags.testBit 1)).getD false
    if (Tbl.get 0 l 0).toNat ≠ op || s.svcFetching then s
    else if s.holding || s.mcAway a || (0x10 ≤ op && s.mgt.stopped) then
      { s with can := { s.can with svc := some { bytes := l, held := true } } }
    else s.svcDo op en a v
  | _ => s

/-- A held request goes on. -/
def State.serveHeld (s : State) : State :=
  match s.can.svc with
  | some ⟨l, true, none, _⟩ => s.serve (Tbl.get 0 l 0).toNat
  | _ => s

/-- The response to a request (R436): its 16 bytes. -/
def responseBytes (l : List Byte) (st : Nat) (v : Word) : List Byte :=
  let b := [Tbl.get 0 l 0 + 0x80, Tbl.get 0 l 1, BitVec.ofNat 8 st, 0, Tbl.get 0 l 4, Tbl.get 0 l 5, Tbl.get 0 l 6, 0] ++ wordBytes v
  let c := crcMsb 16 0x1021 0xFFFF b
  b ++ [BitVec.ofNat 8 c, BitVec.ofNat 8 (c / 256), 0, 0]

/-! ### Meanings -/

/-- A valid frame lowers REC, where the counters count (ISO 11898-1); above 127 it becomes a value from 119 to 127. -/
def State.recDown (s : State) : State :=
  if !s.canNormal then s
  else if s.fld CAN_ERR.REC ≤ 127 then s.put CAN_ERR.REC (s.fld CAN_ERR.REC - 1)
  else let d := s.draw; d.2.put CAN_ERR.REC (119 + d.1.toNat % 9)

/-- A frame reaches the destination of a filter (R423, R429). A remote frame reaches no map entry. -/
def State.reach (s : State) (f : CanFrame) (flt dest : Nat) (stamp : Word) : State :=
  let b := frameBuf f flt stamp
  if dest ≤ 0x10 then s.storeBuf dest b
  else if dest = 0x11 then s.storeFifo b
  else if 0x20 ≤ dest && dest < 0x40 && !f.rtr then
    let e := mapEntry s.reel.active.canMap (dest - 0x20)
    if e.kind = 5 then s.serviceRequest (frameBytes f) else s.rxDatum (dest - 0x20) e (frameBytes f)
  else s

/-- CAN_RX_FRAME: a valid frame of another node has ended; the slate that D2 sampled at its SOF bit lies `back` ticks
behind the generator's count of now (R36, R38, R422, R423, R425). The node acknowledges it where its mode does (R414).
Formats that the node does not support are no valid frames. -/
def execCanRxFrame (f : CanFrame) (back : Nat) (s : State) : Out :=
  whenPowered s fun s =>
    if !s.onBus || s.activeTb.isSome || (f.fdf && (f.rtr || !(s.fld CAN_TDC.FLAGS).testBit 0)) then s
    else
      let s := { s with can := { s.can with
        acked := s.canAcks, receiving := false, lastTx := false, retry := none, flag := .none } }
      let s := (s.notAlone.recDown).canJudge none
      let l := s.reel.active.canMap
      let stamp := s.stampBack back
      if l.isEmpty then
        let d := s.draw
        d.2.storeFifo (frameBuf f (d.1.toNat % 32) stamp)
      else
        match (List.range (mapFilters l)).find? (filterMatches l f) with
        | some i => s.reach f i (byteAt l (4 + 12 * i + 8)) stamp
        | none => s.bump CAN_DROP.UNMATCHED 1

/-- RX_MAP_TIMEOUT: TMO frames have passed without an accepted datum of entry `m` (R435). -/
def execRxMapTimeout (m : Fin 32) (s : State) : Out :=
  whenPowered s fun s =>
    let e := mapEntry s.reel.active.canMap m
    let x := s.store m
    if mapCount s.reel.active.canMap ≤ m || (e.kind ≠ 1 && e.kind ≠ 2) || e.per = 0 || x.timedOut || x.age < e.per then s
    else
      let s := ((s.modStore m (fun x => { x with timedOut := true })).put CAN_IRQ.MAP 1).raise 0x0C06
      s.when (e.kind = 1 && e.flags.testBit 0) (fun s => s.put (AX_CTRL.HALT e.axis) 1)

/-- SERVICE_REQUEST: a request of bytes `l` reaches the SERVICE entry (R437). -/
def execServiceRequest (l : List Byte) (s : State) : Out :=
  whenPowered s fun s => if s.onBus && s.serviceEntry.isSome then s.serviceRequest l else s

/-- SVC_READ (R436). -/
def execSvcRead (s : State) : Out := whenPowered s fun s => s.serve 0x01

/-- SVC_WRITE (R436). -/
def execSvcWrite (s : State) : Out := whenPowered s fun s => s.serve 0x02

/-- LOG_READ (R575). -/
def execLogRead (s : State) : Out := whenPowered s fun s => s.serve 0x10

/-- UPD_WRITE (R575). -/
def execUpdWrite (s : State) : Out := whenPowered s fun s => s.serve 0x11

/-- UPD_CMD (R575). -/
def execUpdCmd (s : State) : Out := whenPowered s fun s => s.serve 0x12

/-- SERVICE_RESPONSE: the response goes into the SVC-owned buffer, and its request is set (R436). The request stands until
that buffer's request ends. -/
def execServiceResponse (s : State) : Out :=
  whenPowered s fun s =>
    match s.can.svc with
    | some ⟨l, h, some (st, v), none⟩ =>
      match s.serviceEntry, [0, 1, 2].find? (fun i => s.tbOwner i == 2 && !s.tbBusy i) with
      | some e, some i =>
        let b := e.msg (responseBytes l st v)
        let s := { s with can := { s.can with svc := some ⟨l, h, some (st, v), some i⟩ } }
        (s.modTb i (fun _ => b)).setTbSt i txPending
      | _, _ => s
    | _ => s

/-- MC_RESTART: MC restarts from its new slot after a firmware splice, or from the other one after a watchdog restart or
a failed self-check in a trial (R563, R564); accesses that waited for it go on. -/
def execMcRestart (s : State) : Out := whenPowered s fun s => s.mcRestart.frameResume.serveHeld

/-! ### The map at a cut -/

/-- An RX_TARGET entry at a cut (R433): its pending datum is launched where the device runs frame steps, or, at the cut
that opens ES's first list after a takeover, the one launched last (R536). -/
def State.targetCut (s : State) (m : Nat) (e : MapEntry) : State :=
  let x := s.store m
  let give (d : Word × Word) (s : State) : State := (s.giveInput e.axis 10 d.1).giveInput e.axis 11 d.2
  if s.sys.mode.lists then
    match x.pend with
    | some d => (give d s).modStore m (fun x => { x with pend := x.later, later := none, launched := some d })
    | none =>
      let s := s.modStore m (fun x => { x with pend := x.later, later := none })
      match x.launched with
      | some d => s.when (inMask s.intg.relaunch e.axis && !s.intg.restoring) (give d)
      | none => s
  else s.modStore m (fun x => { x with pend := (x.later.map some).getD x.pend, later := none })

/-- The eight data bytes of a map message: value and check word (R435). -/
def msgBytes (v : Word) (gen : Nat) : List Byte := wordBytes v ++ wordBytes (checkWord v gen)

/-- A TX_STATUS entry at a cut (R435, R441); `lists`: the frame just ended ran lists. -/
def State.txStatus (s : State) (m : Nat) (e : MapEntry) (lists : Bool) : State :=
  if !lists || e.per = 0 || s.clk.frames.toNat % e.per ≠ 0 then s
  else
    match (s.intg.statusD2.filter (fun q => q.2.1 == e.axis && q.2.2.1 == e.off)).getLast? with
    | some q => s.mapMessage m (e.msg (msgBytes q.2.2.2 s.clk.frames.toNat))
    | none => (s.bump CAN_DROP.TX 1).raise 0x0C0B

/-- A TX_FAULT entry at a cut (R435). -/
def State.txFault (s : State) (m : Nat) (e : MapEntry) : State :=
  if s.can.faultCount = 0 then s
  else
    let v : Word := u32 (s.can.faultLast + min 0xFFFF s.can.faultCount * 2 ^ 16)
    let s := { s with can := { s.can with faultCount := 0 } }
    s.mapMessage m (e.msg (msgBytes v s.clk.frames.toNat))

/-- The map entries at a cut (R433, R435); `lists`: the frame just ended ran lists. -/
def State.mapCut (s : State) (lists : Bool) : State :=
  let l := s.mapEntries
  let s := s.each (List.range l.length) (fun s m =>
    match l[m]? with
    | some e =>
      if e.kind = 1 then (s.targetCut m e).modStore m (fun x => { x with age := x.age + 1 })
      else if e.kind = 2 then s.modStore m (fun x => { x with age := x.age + 1 })
      else if e.kind = 3 then s.txStatus m e lists
      else if e.kind = 4 then s.txFault m e
      else s
    | none => s)
  if s.intg.restoring then s else { s with intg := { s.intg with relaunch := 0 } }

/-- What D3 and D2 held for the end of the cut window (R54, R434, R437): accesses outside frames and written words in
their order, the words of an open frame's read, data of RX_REG entries, and a service request. -/
def State.releaseHeld (s : State) : State :=
  let l := s.spi.held
  let s := ({ s with spi := { s.spi with held := [] } }).each l (fun s q =>
    match q.2.1 with
    | some v => s.busWrite .host q.1 v q.2.2
    | none =>
      match s.busRead .host q.1 q.2.2 with
      | (some _, s) => s
      | (none, s) => s.readLate)
  let s := s.mwFlush
  let r := s.can.heldRegs
  let s := s.frameResume
  let s := ({ s with can := { s.can with heldRegs := [] } }).each r (fun s q => s.writeRxReg q.1 q.2)
  s.serveHeld

end Sys2Proof.Machine
end

