-- ==== Sys2Proof/Machine/Reel.lean ====
section
/-!
DEFINITION. Selecting, loading and applying a reel: the end of BOOT (R87 to R91), and what a splice or a reload does in
APPLY (R83, R84, R86, R97 to R101, R275).
-/
namespace Sys2Proof.Machine

/-! ### Values that wait for the cut -/

/-- A value of a CUT register takes effect in APPLY: `old` is the word before. -/
def State.applied (s : State) (a : Nat) (old : Word) : State :=
  (((s.posApplied a old).adcApplied a old).chnApplied a old).canApplied a old

/-- A change of the serial port whose precondition is not met (R471): a host frame or a window transaction in progress. -/
def State.spiWaits (s : State) (a : Nat) (v : Word) : Bool :=
  let low := s.spi.frame.isSome || s.spi.ignored
  (a == SPI_CTRL && ((low && s.flag SPI_CTRL.HOST_EN && !v.getLsbD 0)
      || (s.spi.job.isSome && s.flag SPI_CTRL.MW_EN && !v.getLsbD 1)))
    || (a == SPI_CFG && low)

/-- A disable of the chain waits for a chain window in progress (R50, R495). -/
def State.chnWaits (s : State) (a : Nat) (v : Word) : Bool :=
  a == CHN_CTRL && s.flag CHN_CTRL.EN && !v.getLsbD 0 && s.inChainWindow

/-- The precondition of a value that waits for the register at `a` is not met (R50). -/
def State.notYet (s : State) (a : Nat) (v : Word) : Bool := s.canWaits a v || s.spiWaits a v || s.chnWaits a v

/-- The bits of a CUT register whose clearing is a disable (R381, R404, R415, R471, R495). -/
def enableBits (a : Nat) : Word :=
  if a = SPI_CTRL then 3
  else if a = CAN_CTRL || a = CHN_CTRL then 1
  else if (groupIx (CAM_SI_CFG 0) 0x10 4 a).isSome || (groupIx (POS_QD_CFG 0) 0x40 4 a).isSome
      || (groupIx (POS_SN_CFG 0) 0x40 4 a).isSome || (groupIx (POS_EE_CFG 0) 0x10 2 a).isSome
      || (groupIx (ADC_CH_CFG 0) 0x10 56 a).isSome then 1
  else 0

/-- A disable in the value that waits for the register at `a` takes effect in APPLY step 1 (R49); the rest of the value
waits for step 5. -/
def State.disableNow (s : State) (a : Nat) : State :=
  match Assoc.get s.waiting a with
  | none => s
  | some v =>
    let old := s.word a
    let off := enableBits a &&& old &&& ~~~v
    if off = 0 || s.notYet a v then s else (s.setWord a (old &&& ~~~off)).applied a old

/-- Every disable that waits (R49 step 1). -/
def State.disableAll (s : State) : State := s.each (s.waiting.map Prod.fst) State.disableNow

/-- A disable of the node that has to wait lets no further attempt begin (R415). -/
def State.heldBack (s : State) (a : Nat) : State :=
  if a = CAN_CTRL then { s with can := { s.can with leaving := true } } else s

/-- The value that waits for the register at `a` takes effect (R20, R49 step 5), or goes on waiting (R50). -/
def State.takeWaiting (s : State) (a : Nat) : State :=
  match Assoc.get s.waiting a with
  | none => s
  | some v =>
    if s.notYet a v then s.applyWaits.heldBack a
    else
      let old := s.word a
      let m := cutMask a
      (({ s with waiting := Assoc.del s.waiting a }).setWord a ((old &&& ~~~m) ||| (v &&& m))).applied a old

/-- Every value that waits takes effect, in the order of the writes. -/
def State.takeAllWaiting (s : State) : State := s.each (s.waiting.map Prod.fst) State.takeWaiting

/-! ### Registers that a take loads -/

/-- A bank of the word at `a` holds axis state in the active take (R80, R164). -/
def State.holdsAxisState (s : State) (a : Nat) : Bool :=
  (List.range 8).any (fun e =>
    ((Tbl.get {} s.reel.active.pages e).stateBanks (s.engineAxes e).length).any (fun b => bankOf a == some b))

/-- A write to the register at `a` would change an axis's target, velocity set-point or position, or a bank that holds
axis state, which no splice does (R99). -/
def State.keptBySplice (s : State) (a : Nat) : Bool :=
  (List.range 12).any (fun n => a == AX_TARGET n || a == AX_VTARGET n || a == AX_SETPOS n)
    || ((a == MEM_AT_SET || a == MEM_AT_CLR) && s.holdsAxisState (s.fld MEM_AT_ADDR.ADDR))

/-- The value that a reel's pair brings to the register at `a`: at a splice the mode of an axis stays as it is (R99),
and the owner of a bank at any time, for it changes by BANK_MAP, a hand-over or a host write alone (R501). -/
def State.pairValue (s : State) (splice : Bool) (a : Nat) (v : Word) : Word :=
  let keep (m : Word) : Word := (v &&& ~~~m) ||| (s.word a &&& m)
  if splice && (List.range 12).any (fun n => a == AX_CTRL n) then keep 3
  else if (List.range 17).any (fun b => a == MEM_B_OWN b) then keep 15
  else v

/-- A splice's pair for AXn_CTRL (R99): the mode stays, so neither a homing begins nor are its conditions judged; a SRC
without a target is refused as ever (R19). -/
def State.spliceCtrl (s : State) (n : Nat) (v : Word) : State :=
  if s.absent (AX_CTRL n) then s
  else if v.getLsbD 4 && !s.hasTarget n then s.refuse
  else s.setWord (AX_CTRL n) (s.pairValue true (AX_CTRL n) v &&& rwMask (AX_CTRL n))

/-- MC writes the value `v` of a reel's pair at `a`. -/
def State.pairWrite (s : State) (splice : Bool) (a : Nat) (v : Word) : State :=
  match splice, groupIx (AX_CTRL 0) 0x100 12 a with
  | true, some n => s.spliceCtrl n v
  | _, _ => s.busWrite .mc a (s.pairValue splice a v) {}

/-- One address and value pair of a reel (R79, R208), written by MC; whether its register took it. At a splice a CUT
register takes the value in APPLY, a host write that waits for the cut goes before it (R100), and nothing of what R99
keeps is written. -/
def State.loadPair (s : State) (splice : Bool) (a : Nat) (v : Word) : Bool × State :=
  if splice && s.keptBySplice a then (true, s) else
  let mine := Assoc.get s.waiting a
  let r := s.apart (fun s => s.pairWrite splice a v)
  if r.1 ≠ 0 then (false, r.2)
  else if !splice then (true, r.2)
  else
    let s := if cutMask a = 0 then r.2 else r.2.takeWaiting a
    match mine with
    | some w => (true, { s with waiting := Assoc.put s.waiting a w })
    | none => (true, s)

/-- The axis whose CMT register stands at `a` (R275). -/
def cmtAxis (a : Nat) : Option Nat :=
  match regRow a with
  | some r => if r.cmt = 0 then none else some ((a - 0x106100) / 0x40)
  | none => none

/-- Address and value pairs of a reel (R91, R100): at a splice one that is refused is skipped with INIT_SKIP. The answer
tells whether all were taken, and the axes whose CMT registers were written. -/
def State.loadPairs (s : State) (splice : Bool) : List (Nat × Word) → Bool × BitVec 12 × State
  | [] => (true, 0, s)
  | (a, v) :: t =>
    let r := s.loadPair splice a v
    let s := if !r.1 && splice then r.2.raise 0x030F else r.2
    let q := s.loadPairs splice t
    let m : BitVec 12 := match cmtAxis a with | some n => if r.1 then 1#12 <<< n else 0 | none => 0
    (r.1 && q.1, m ||| q.2.1, q.2.2)

/-- The AXIS_PARAM section `l` of axis `n` (R91, R205, R206, R208). At a splice only a value that differs becomes pending,
and the initial AXn_CTRL is not written (R99, R208). -/
def State.loadParams (s : State) (splice : Bool) (n : Nat) (l : List Word) : Bool × BitVec 12 × State :=
  let w (i : Nat) : Word := Tbl.get 0 l i
  let s := s.each (List.range 14) (fun s i =>
    let a := paramReg n i
    let v := w i &&& rwMask a
    if !splice then s.setWord a v else if s.word a = v then s else (s.setWord a v).markParam n i)
  let c := AX_CTRL.SRC n
  let s := if splice then s
    else
      let s := s.setWord (AX_CTRL n) (w 14 &&& 0x33)
      s.when (s.reel.active.hdr.standalone && s.hasTarget n) (fun s => s.put c 1)
  let pairs := (List.range ((w 15).toNat % 256)).map (fun j => ((w (16 + 2 * j)).toNat, w (17 + 2 * j)))
  s.loadPairs splice (pairs.filter (fun p => !(splice && (paramAt p.1).isSome && s.word p.1 == p.2)))

/-- The AXIS_PARAM sections of the axes `l`: whether all were taken, and the axes of the CMT registers written. -/
def State.loadAxes (s : State) (splice : Bool) : List Nat → Bool × BitVec 12 × State
  | [] => (true, 0, s)
  | n :: t =>
    let q := s.loadParams splice n (Tbl.get [] s.reel.active.axisParam n)
    let r := q.2.2.loadAxes splice t
    (q.1 && r.1, q.2.1 ||| r.2.1, r.2.2)

/-- Every AXIS_PARAM section, then REG_INIT (R91 steps 3 and 4, R98), and a COMMIT of every axis whose CMT registers were
written (R275): whether all were taken. R274 judges writes of MOD_COMMIT, which this is none (R275). -/
def State.loadRegs (s : State) (splice : Bool) : Bool × State :=
  let r := s.loadAxes splice s.usedAxes
  let q := r.2.2.loadPairs splice r.2.2.reel.active.regInit
  let axes := (List.range 12).filter (fun n => inMask (r.2.1 ||| q.2.1) n && s.part.hasAxis n)
  (r.1 && q.1, q.2.2.each axes State.arm)

/-! ### Sections in force -/

/-- CAM_AXn_SET of axis `n` (R214, R216): byte k is 0x80 and the table that claims slot k. -/
def State.camSet (s : State) (n : Nat) : Word :=
  u32 ((s.reel.active.tables.filter (fun t => t.typ == 0x12 && (le32 t.bytes 0).getLsbD n)).foldl
    (fun v t => v + (0x80 + t.inst) * 256 ^ ((le32 t.bytes 4).toNat / 4 ^ n % 4)) 0)

/-- What the registers show of the behavioural sections in force (R98, R108, R137, R216). -/
def State.showTake (s : State) : State :=
  let h := s.reel.active.hdr
  let s := (s.setWord REEL_STRUCT_SIG h.structSig).setWord REEL_STATE_SIG h.stateSig
  let s := (s.put REEL_LEN.MIN_LEN h.minLen).put REEL_LEN.FRAME_LEN h.frameLen
  let s := s.put REEL_STAT.ACTIVE_TAKE h.take.toNat
  let list (s : State) (e : Nat) (p : Page) : State :=
    (s.setWord (ENG_E_LIST e) (u32 (p.shots.length + p.cycles * 2 ^ 16))).setWord (ENG_E_FETCH_CHK e) p.check
  let s := s.each (List.range 8) (fun s e => list s e (Tbl.get {} s.reel.active.pages e))
  let s := s.when s.covering (fun s => list s 8 (s.esPage (s.fld ENG_STAT.ES_COVER)))
  s.each (List.range 12) (fun s n => s.setWord (CAM_AX_SET n) (s.camSet n))

/-- The owners that a BANK_MAP names (R77, R501). -/
def State.loadOwners (s : State) (st : Struct) : State :=
  s.each (List.range 17) (fun s b =>
    match st.banks[b]? with | some x => s.put (MEM_B_OWN.OWNER b) x.owner | none => s)

/-- BANK_MAP in the bank registers (R77, R526), but for the owners. -/
def State.loadBanks (s : State) : State :=
  s.each (List.range 17) (fun s b =>
    match s.bankMap b with
    | some x =>
      ((s.put (MEM_B_OWN.RETAIN b) x.retain.toNat).put (MEM_B_OWN.TEST_EN b) x.test.toNat).put (MEM_B_OWN.IMAGE b)
        x.image.toNat
    | none => s)

/-- A value that a write in BOOT left waiting for MEM_Bb_OWN holds the owner that BANK_MAP names (R501, R502). -/
def State.ownersWait (s : State) : State :=
  s.each (List.range 17) (fun s b =>
    match Assoc.get s.waiting (MEM_B_OWN b) with
    | some v => { s with waiting := Assoc.put s.waiting (MEM_B_OWN b) ((v &&& ~~~15) ||| (s.word (MEM_B_OWN b) &&& 15)) }
    | none => s)

/-- Engines that come to serve axes are GATED, those that serve none UNUSED (R129, R137); ES stands ready. -/
def State.loadEngines (s : State) : State :=
  let s := s.each (List.range 8) (fun s e =>
    if (s.engineAxes e).isEmpty then s.setEngState e stUnused
    else if s.engState e = stUnused then s.setEngState e stGated else s)
  let s := if s.engState 8 = stUnused then s.setEngState 8 stGated else s
  s.put ENG_STAT.ES_OK (s.engState 8 != stFaulted).toNat

/-! ### The end of BOOT -/

/-- The reel of container `c` from slot `k` is active (R89): its slot and take show at once, and its signatures and
lengths when its sections are applied at the end of BOOT (DESIGN CHOICE, log 84). -/
def State.reelLoaded (s : State) (c : Container) (k : Nat) : State :=
  let s := { s with reel := { s.reel with active := c.copy, struct := c.struct }, sys := { s.sys with boot := .reel } }
  ((s.put REEL_STAT.ACTIVE_SLOT k).put REEL_STAT.IMAGE 0).put REEL_STAT.ACTIVE_TAKE c.copy.hdr.take.toNat

/-- The first slot of `l` whose reel passes (R88, R89): it is loaded. A slot that fails an integrity check is programmed
REJECTED and the next one tried; a content check leaves the device in BOOT. -/
def State.pickReel (s : State) : List Nat → State
  | [] => (s.raise 0x0301).bootStuck
  | k :: t =>
    let s := s.reelNotice k
    match s.verifyReel k with
    | .error (code, true) => ((s.setSlot k slRejected).raise code).pickReel t
    | .error (code, false) => (s.raise code).bootStuck
    | .ok c =>
      let s := s.loadTables c.copy 0
      let r := s.tablesOk c.copy 0
      if !r.1 then ((r.2.setSlot k slRejected).raise 0x0305).pickReel t
      else
        r.2.reelLoaded c k

/-- Slot `k` may be tried at BOOT: GOOD, with a header that passes (R87). -/
def State.bootCandidate (s : State) (k : Nat) : Bool := s.slotState k == slGood && s.headOk k

/-- The header of a GOOD slot is read for the selection (R87, R555). -/
def State.headNotice (s : State) (k : Nat) : State :=
  s.when (s.slotState k == slGood) (fun s => s.flashNotice (slotBase k) 0x80)

/-- A copy of the active reel outside the banks does not read back with its check (R85): its slot is programmed REJECTED,
none of it is used, and the other slot is tried (R88, R89). -/
def State.reelDropped (s : State) : State :=
  let k := s.activeReel
  let s := (s.setSlot k slRejected).raise 0x0305
  let s := { s with reel := { s.reel with active := {}, struct := {} } }
  let s := (s.put REEL_STAT.ACTIVE_SLOT 0).put REEL_STAT.ACTIVE_TAKE 0
  let s := s.pickReel (if s.bootCandidate (1 - k) then [1 - k] else [])
  s.when (s.sys.boot == .stuck) State.resetRecord

/-- REEL_SELECT: MC selects a reel slot, verifies it and loads it (R87 to R89). -/
def execReelSelect (s : State) : Out :=
  whenPowered s fun s =>
    if s.sys.boot != .firmware then s
    else
      let s := ((s.rejectTrial 0x0310 0).rejectTrial 0x0310 1).each [0, 1] State.headNotice
      let cand := s.bootCandidate
      let order := trySlots 0 1 (cand 0) (cand 1) (newer (s.slotTake 1) (s.slotTake 0))
      let order := if s.sys.wake && cand s.keep.slot then s.keep.slot :: order.filter (fun k => k != s.keep.slot) else order
      let s := s.pickReel order
      s.when (s.sys.boot == .stuck) State.resetRecord

/-- The sections of the reel reach what they configure (R91 steps 1 to 4). -/
def State.bootLoad (s : State) : State :=
  let s := (s.loadOwners s.reel.struct).ownersWait.loadBanks.loadEngines
  let s := s.adcLoad.showTake.canBoot.thermalBoot
  s.each (List.range 12) State.modStandby

/-- The header of the reel gives the frame length and the reference, every parameter of a used axis waits for the first
frame (of an axis that the reel does not use none, for no engine takes them: DESIGN CHOICE, log entry 120), and the
first cut is due at slate `first` (R91 step 5, R594). -/
def State.bootHeader (s : State) (first : Nat) : State :=
  let h := s.reel.active.hdr
  let s := s.put CLK_FRAME_LEN.LEN h.frameLen
  let s := s.bootXtal h.xtalEn
  let s := s.each s.usedAxes (fun s n =>
    (s.put (AX_PARAM_STAT.PEND n) 0x7FFFFFFF).modMot n (fun m => { m with bootLeft := 0x7FFFFFFF }))
  { s with
    sys := { s.sys with boot := .ended, autoRun := if h.autoRun then some 0 else none }
    clk := { s.clk with cutsOn := true, nextCut := BitVec.ofNat 48 first } }

/-- BOOT_END: the sections are applied before the first cut (R91 steps 1 to 5), `x.late` ticks after slate 120 000 where a
slot had to be rejected (R594), unless one of them does not read back (R85). A pair that its register refuses fails the
reel. -/
def execBootEnd (x : LoadEnd) (s : State) : Out :=
  whenPowered s fun s =>
    if s.sys.boot != .reel then s
    else if x.bad then s.reelDropped
    else
      let r := s.bootLoad.loadRegs false
      if !r.1 then (r.2.raise 0x0309).bootStuck.resetRecord
      else r.2.bootHeader (max (120000 + x.late) r.2.clk.slate.toNat)

/-! ### A splice in APPLY -/

/-- EPOCH at the coming cut. -/
def State.cutEpoch (s : State) : Half := if s.clk.nextCut.toNat < s.clk.slate.toNat then s.clk.epoch + 1 else s.clk.epoch

/-- The SPLICE record (R570). -/
def State.spliceRecord (s : State) (aux new old : Nat) : State :=
  s.logRec (s.mkRec 0x05 0 aux (u32 new) (u32 old) (s.word REEL_STAT))

/-- The pins whose function differs between two reels (R350). -/
def Struct.movedPins (a b : Struct) : BitVec 15 :=
  let f (x : Struct) (p : Nat) : Nat × Nat := let e : PinEntry := Tbl.get ⟨0, 0, 0⟩ x.pins p; (e.fn, e.inst)
  (List.range 15).foldl (fun m p => if f a p = f b p then m else m ||| (1#15 <<< p)) 0

/-- The structural sections of a splice made in STANDBY replace those in force (R84, R98). Pins whose function changes
are high-impedance until SEAL (R350), and the restriction of the CAN node is judged anew (R413). -/
def State.replaceStruct (s : State) (st : Struct) : State :=
  let s := { s with pos := { s.pos with moving := s.reel.struct.movedPins st } }
  let s := ({ s with reel := { s.reel with struct := st } }).loadBanks.loadEngines.canTimingLoad.canRejudge
  let s := s.each st.slots (fun s t =>
    let a := if t.channel = 49 then ADC_TS_CFG t.gain else ADC_CH_CFG t.channel
    let old := s.word a
    let s := if t.channel = 49 then s.put (ADC_TS_CFG.FILT t.gain) t.filter
      else (s.put (ADC_CH_CFG.GAIN t.channel) t.gain).put (ADC_CH_CFG.FILT t.channel) t.filter
    s.adcApplied a old)
  s.each (List.range 12) State.modStandby

/-- An armed splice takes place (R98 to R102). -/
def State.spliceApply (s : State) (c : Copy) (st : Struct) : State :=
  let old := s.reel.active.hdr
  let base := s.fifoBase
  let standby := s.sys.mode == .standby
  let fb := s.reel.fallback
  let new := s.fld REEL_SPLICE.SLOT
  let left := s.activeReel
  let out := s.flag REEL_SPLICE.BACK && s.slotState left == slTrial
  let image := s.otherImage
  let s := { s with reel := { s.reel with
      active := c, staged := none, spliceAt := none, repairCheck := false, reloading := false, reloaded := false
      toTrial := some new, toReject := if out then some left else none
      trialCuts := 0, trialFault := false, fallbackWait := false, fallback := false
      lastSplice := s.clk.nextCut, lastSpliceEpoch := s.cutEpoch } }
  let s := if standby then s.replaceStruct st else s
  let s := ((s.put REEL_STAT.IMAGE image).put REEL_STAT.ACTIVE_SLOT new).put REEL_STAT.SPLICE_STATE 3
  let s := ((s.put REEL_STAT.TRIAL 0).bump REEL_SPLICE_CNT.DONE 1).showTake
  let s := s.canMapLoad (some base)
  let s := s.when (!c.thermal.isEmpty) (fun s =>
    s.put PWR_STAT.ROW (min (s.fld PWR_STAT.ROW) (halfAt c.thermal 0 - 1)))
  let s := (s.loadRegs true).2
  let s := s.when (c.hdr.stateSig != old.stateSig) (fun s =>
    s.each s.usedAxes (fun s n => s.modMot n (fun m => { m with markUnc := true })))
  s.spliceRecord (if fb then 2 else 0) c.hdr.take.toNat old.take.toNat

/-- The switch to the reloaded copies of the active take (R86): every behavioural section, the register values of
AXIS_PARAM and REG_INIT among them, as a splice writes them (R83, R98). -/
def State.reloadApply (s : State) : State :=
  let t := s.reel.active.hdr.take.toNat
  let s := { s with reel := { s.reel with reloaded := false } }
  let s := (s.put REEL_STAT.IMAGE s.otherImage).bump REEL_CHECK.MISMATCH 1
  (s.loadRegs true).2.spliceRecord 3 t t

/-- What holds a switch of the copies back at a cut: an open recovery window, or a copy that must be read back (R96,
R97). -/
def State.switchHeld (s : State) : Bool := s.flag INT_STAT.WINDOW || s.reel.repairCheck

/-- The frames still to pass before the armed splice is due (R93). -/
def State.spliceWait (s : State) : Word :=
  match s.reel.spliceAt with | some f => f - s.clk.frames - 1 | none => 0

/-- The reason for which the armed splice to a take with header `h` is refused at its cut, 0 for none (R94). -/
def State.spliceFault (s : State) (h : ReelHdr) : Nat :=
  let standby := s.sys.mode == .standby
  let a := s.reel.active.hdr
  if !standby && h.structSig != a.structSig then 0x05
  else if !standby && h.stateSig != a.stateSig then 0x06
  else if s.safeLen < h.minLen then 0x07
  else if s.spliceWait.getLsbD 31 then 0x0C
  else 0

/-- The armed splice that takes place at this cut. -/
def State.spliceNow (s : State) : Option (Copy × Struct) :=
  match s.reel.staged with
  | some p => if s.spliceFault p.1.hdr = 0 && !s.switchHeld && s.spliceWait == 0 then some p else none
  | none => none

/-- APPLY step 4 (R49, R94, R97): an armed splice is refused, waits or takes place; or a reload is switched to. -/
def State.spliceStep (s : State) : State :=
  match s.reel.staged with
  | some (c, st) =>
    if s.spliceFault c.hdr ≠ 0 then s.spliceRefuse (s.spliceFault c.hdr)
    else if s.switchHeld || s.spliceWait != 0 then s.applyWaits
    else s.spliceApply c st
  | none =>
    if !s.reel.reloaded then s else if s.switchHeld then s.applyWaits else s.reloadApply

end Sys2Proof.Machine
end

