-- ==== Sys2Proof/Machine/Cut.lean ====
section
/-!
DEFINITION. The cut window (R47): CLOSE, the DRAIN check, APPLY, SEAL, the cut itself with the work that every block does
at it, and the release of held accesses in START.
-/
namespace Sys2Proof.Machine

/-- The cut window is kept: cuts recur (R46). -/
def State.atPhase (s : State) (p : CutPhase) : Bool := s.clk.cutsOn && s.sys.mode != .boot && s.clk.phase == p

/-- The slate moved to `n` ticks before the coming cut, and the cut-phase code `p` (R47). -/
def State.toPhase (s : State) (n : Nat) (p : CutPhase) : State :=
  let s := s.advanceTo (s.clk.nextCut - BitVec.ofNat 48 n)
  { s with clk := { s.clk with phase := p } }

/-! ### CLOSE and DRAIN -/

/-- An engine still executing at C - 92 has overrun (R53, R132). WATCH shows the shots executed and the cycles up to
C - 92 (R48, R137). -/
def State.overrun (s : State) (e : Nat) : State :=
  if !(s.eng e).exec then s
  else
    let cyc := 3 * ((s.clk.nextCut - s.clk.lastCut).toNat - 96)
    (s.setWord (ENG_E_WATCH e) (u32 ((s.eng e).shots % 512 + cyc * 65536))).engineFault e 2

/-- CUT_CLOSE: C - 92. Every shot list must have ended, and D3 starts to hold host accesses (R47, R53). -/
def execCutClose (s : State) : Out :=
  whenPowered s fun s =>
    if s.atPhase .frame then (s.toPhase 92 .close).each (List.range 9) State.overrun else s

/-- The island of a crossing's unit: 0 to 6 themselves, and the engines in D7 to D11. -/
def unitIsland (u : Nat) : Nat := if u < 10 then u else engIsland (u - 10)

/-- The islands that take part in the DRAIN: not D0 (R34), and the engine islands in the modes that clock them (R27). -/
def State.drains (s : State) : BitVec 12 := if s.sys.mode.lists then 0xFFE else 0x07E

/-- An island that is late is recorded and raises DRAIN_LATE; the second time in a row it is declared faulty (R52). -/
def State.lateIsland (s : State) (again : Bool) (i : Nat) : State :=
  let s := s.raise 0x0207
  if !again then s else if 7 ≤ i then s.islandFault i else s.safeCause 1

/-- The DRAIN check with the islands `late` (R52): every other island's queues are delivered, and the words left in a late
island's queues are discarded. -/
def State.drainAll (s : State) (late : BitVec 12) : State :=
  let s := s.each (s.queues.map Prod.fst) (fun s x => if late.getLsbD (unitIsland x.dst) then s else s.drain x)
  let left := s.queues.foldl (fun n q => n + q.2.length) 0
  let s := ({ s with queues := [] }).bump CLK_CUT_ERR.DISCARD_CNT left
  let s := s.when (late != 0) (fun s => s.put CLK_CUT_STAT.LATE_ISL late.toNat)
  let before := s.clk.lastLate
  let s := s.each ((List.range 12).filter (fun i => late.getLsbD i)) (fun s i => s.lateIsland (before.getLsbD i) i)
  { s with clk := { s.clk with lastLate := late } }

/-- DRAIN_CHECK: C - 28 (R52). -/
def execDrainCheck (late : BitVec 12) (s : State) : Out :=
  whenPowered s fun s =>
    if s.atPhase .close then (s.toPhase 28 .drained).drainAll (late &&& s.drains) else s

/-! ### APPLY -/

/-- The bank handovers of APPLY step 2 (R501): the owners of the BANK_MAP that a splice in STANDBY brings at this cut (log
entry 43), the owners that wait, and the slot of a taken-over or returning engine. -/
def State.handover (s : State) (map : Option Struct) : State :=
  let s := match map with | some st => s.loadOwners st | none => s
  let s := s.each (List.range 17) (fun s b =>
    match Assoc.get s.waiting (MEM_B_OWN b) with
    | some v => s.put (MEM_B_OWN.OWNER b) ((MEM_B_OWN.OWNER b).of v)
    | none => s)
  s.recoveryApply

/-- A firmware splice that waits takes place: MC stops after APPLY (R563). -/
def State.firmwareStop (s : State) : State :=
  if s.mgt.fwSplice.isSome && s.mcRuns then
    { s with mgt := { s.mgt with stopped := true }, reel := { s.reel with rechecking := false } }
  else s

/-- APPLY steps 2 and 3 (R49), and the cores of the converters (R400, R403). -/
def State.applyMiddle (s : State) (map : Option Struct) : State :=
  ((s.handover map).each (List.range 17) State.mapRepair).adcApply

/-- APPLY steps 1 to 5 (R49). A splice that step 4 will make in STANDBY hands the banks over in step 2. -/
def State.applySteps (s : State) : State :=
  let s := s.disableAll
  let next := if s.sys.mode == .standby then (s.applyMiddle none).spliceNow else none
  let s := s.applyMiddle (next.map Prod.snd)
  (s.spliceStep.takeAllWaiting).retainCut.firmwareStop

/-- CUT_APPLY: C - 28 to C - 12 (R49). At a cut that enters SLEEP, D0 takes what it keeps, and no frame follows (R589). -/
def execCutApply (s : State) : Out :=
  whenPowered s fun s =>
    if !s.atPhase .drained then s
    else
      let s := ((s.toPhase 28 .applied).put CLK_CUT_STAT.APPLY_WAIT 0).modeApply
      if s.sys.mode = .sleep then s else s.applySteps

/-! ### SEAL -/

/-- One engine at SEAL (R51, R110): SAT and MISS are counted, and nothing else crosses the cut in it. -/
def State.sealEngine (s : State) (e : Nat) : State :=
  let g := s.eng e
  let s := s.when g.sat (fun s => s.bump (ENG_E_CNT.SAT e) 1)
  let s := s.when g.miss (fun s => s.bump (ENG_E_MISS.MISS e) 1)
  s.modEng e (fun g => { g with
    ops := List.replicate 32 0, acc := 0, sat := false, miss := false, inp := List.replicate 64 {}
    vels := List.replicate 3 0 })

/-- CUT_SEAL: C - 12 to C (R47, R51). Pins whose function a splice has changed take the new one (R350). -/
def execCutSeal (s : State) : Out :=
  whenPowered s fun s =>
    if !s.atPhase .applied then s
    else
      let s := { s with pos := { s.pos with moving := 0 } }
      ({ s.toPhase 12 .sealed with queues := [] }).each (List.range 9) State.sealEngine

/-! ### The cut -/

/-- The frame just ended ran lists: the mode before a change in this APPLY (R49, R136). -/
def State.ranLists (s : State) : Bool := (s.sys.cutFrom.getD s.sys.mode).lists

/-- The frame counter and the cut's slate (R46, R47), at the slate that stands. -/
def State.countCut (s : State) : State :=
  { s with clk := { s.clk with
      frames := s.clk.frames + 1, lastCut := s.clk.slate, lastEpoch := s.clk.epoch
      nextCut := s.clk.slate + BitVec.ofNat 48 s.frameLen, phase := .start } }

/-- D1 sets UNCERTAIN for axes that lost their engine, for those that an overvoltage left moving, and for those that
entered their safe state above VSTOP and leave it at this cut, before their list has seen it (R199, R539, R583). -/
def State.uncertainCut (s : State) : State :=
  let s := s.ovCut
  let m := s.intg.parkUncertain ||| (s.intg.safeFast &&& s.intg.release)
  let s := { s with intg := { s.intg with parkUncertain := 0, safeFast := 0 } }
  s.each ((List.range 12).filter (inMask m)) (fun s n => s.modMot n (fun x => { x with markUnc := true }))

/-- D1's copies of the standstill mode and of IHOLD_e for D6 (R180, R269). -/
def State.standstillCopy (s : State) (n : Nat) : State :=
  s.modMod n (fun m => { m with
    ssMode := s.fld (AX_SS_CFG.MODE n), ihold := min (s.fld (AX_IHOLD.IHOLD n)) (s.fld (AX_IRUN.IRUN n)) })

/-- D6 on the frame just ended (R264 to R270, R279): its bookkeeping, then the commit decisions. At a cut that enters
STANDBY the pairs are dropped with the phases (R280). -/
def State.modulatorCut (s : State) (lists : Bool) (fcnt : Nat) : State :=
  let s := (s.each s.usedAxes State.modFrameEnd).each s.usedAxes State.standstillCopy
  let s := s.safeAxes
  if lists && s.sys.mode.lists then s.each s.usedAxes (fun s n => s.commitDecision n fcnt)
  else s.each (List.range 12) (fun s n => s.modMod n (fun m => { m with pairs := [] }))

/-- Engines at a cut: WATCH of the lists that ended (R125), and a frame's start yet to come. -/
def State.engineCut (s : State) (e : Nat) : State :=
  let g := s.eng e
  let s := s.when g.ended (fun s => s.setWord (ENG_E_WATCH e) (u32 (g.shots % 512 + g.cycles * 65536)))
  s.modEng e (fun g => { g with exec := false, ended := false, started := false })

/-- A cam that follows a slot the take leaves empty: ENGAGE clears at the following cut (R236). -/
def State.camEmpty (s : State) (n : Nat) : State :=
  s.when (s.flag (CAM_AX_CTRL.ENGAGE n) && !s.camSlot n (s.fld (CAM_AX_CTRL.SEL n)))
    (fun s => s.modMot n (fun m => { m with setEmpty := true }))

/-- The work on the frame just ended (R118, R264, R530, R536 to R546, R585): D6's decisions, D11's mirrors, D1's
publication, the recovery, the releases, and the modes that follow from them. -/
def State.endFrame (s : State) (lists : Bool) (fcnt : Nat) : State :=
  let s := (s.uncertainCut.modulatorCut lists fcnt).when lists State.mirrorCut
  let s := s.axesCut.each (List.range 12) State.camEmpty
  let s := (s.each (List.range 9) State.engineCut).recoveryCut s.time
  (s.releaseCut.degradeCut.autoRunCut).modeEffects

/-- The converters, the sensors and the modulator for the frame that opens (R248, R252, R340 to R343, R383). -/
def State.openBlocks (s : State) : State :=
  let s := s.posClears.posCut.each s.usedAxes State.misfitCheck
  (s.thermalRow.admission).adcFrame

/-- The words for the frame that opens (R116, R141, R203, R217, R267, R366, R433, R492). -/
def State.openWords (s : State) (lists : Bool) : State :=
  let s := s.each s.usedAxes State.snapshot
  let s := (s.each s.usedAxes State.feedbackDelivery).feedbackTaken
  let s := (s.each s.usedAxes State.masterDelivery).chnCut
  (s.mapCut lists).each s.usedAxes State.committedDelivery

/-- What is counted or raised once in a frame starts anew (R122, R507), and a trial counts the cut (R103). -/
def State.newFrame (s : State) : State :=
  let spliced := s.reel.lastSplice == s.clk.lastCut && s.reel.lastSpliceEpoch == s.clk.lastEpoch
  { s with
    intg := { s.intg with lastWords := 0, esLast := none, endD6 := 0, endD1 := 0, endD11 := 0, statusD1 := [], statusD2 := [] }
    mem := { s.mem with corrSeen := false }
    reel := { s.reel with trialCuts := if spliced then s.reel.trialCuts else s.reel.trialCuts + 1 } }

/-- A cut in a mode of R46. -/
def State.frameCut (s : State) : State :=
  let lists := s.ranLists
  let fcnt := s.clk.frames.toNat % 8
  let s := (s.advanceTo s.clk.nextCut).safeEntry.countCut.refCut
  let s := (s.endFrame lists fcnt).sensorWatch.openBlocks
  (s.openWords lists).fallbackStart.newFrame

/-! ### The first cut -/

/-- A wake that has not ended at slate 120 000 is abandoned (R595). -/
def State.abandonWake (s : State) : State :=
  let s := { s with sys := { s.sys with wake := false } }
  ((s.put SYS_RESET.CAUSE 8).putBit SYS_RESET.ALL 7 true).raise 0x0104

/-- The slate at the end of a wake (R43), EPOCH counting each wrap (R37), and SLEEP_SAT (R44). -/
def State.resumeSlate (s : State) : State :=
  let k := s.keep
  let sum := k.slate.toNat + k.count.toNat * k.lpoPer.toNat / 65536 + 120000
  let s := { s with clk := { s.clk with
    slate := BitVec.ofNat 48 sum, epoch := k.epoch + BitVec.ofNat 16 (sum / 2 ^ 48) } }
  (s.put CLK_STAT.SLATE_EST 1).when k.sat (fun s => s.put CLK_STAT.SLEEP_SAT 1)

/-- The take loaded is the one active at SLEEP entry, with its STATE_SIG (R92). -/
def State.sameTake (s : State) : Bool :=
  s.keep.valid && s.activeReel == s.keep.slot && s.reel.active.hdr.take == s.keep.take
    && s.reel.active.hdr.stateSig == s.keep.stateSig

/-- Positions at the end of BOOT (R199, R595): a wake restores the axes with REST, and every other used axis is
uncertain. -/
def State.bootPositions (s : State) (restore : Bool) : State :=
  let s := s.when restore (fun s => s.put SYS_STAT.RESTORED 1)
  s.each s.usedAxes (fun s n =>
    if restore && inMask s.keep.rest n && inMask s.keep.used n then
      let v := Tbl.get 0 s.keep.pos n
      (s.issueSetpos n v).setTarget n v
    else s.modMot n (fun m => { m with markUnc := true }))

/-- The comparator self-test of every used axis, which MC starts once when BOOT passes to STANDBY (R566). -/
def State.bootSelfTest (s : State) : State :=
  s.when (s.mcRuns && s.flag MGT_POLICY.ST_BOOT) (fun s => s.selftestStart (axisMask s.usedAxes))

/-- The first cut: BOOT passes to STANDBY (R46, R91, R594, R595). A core that failed in BOOT is taken over (R403), and the
CAN node starts (R441). -/
def State.firstCut (s : State) : State :=
  let s := s.advanceTo s.clk.nextCut
  let s := if s.sys.wake && decide (120000 < s.clk.slate.toNat) then s.abandonWake else s
  let wake := s.sys.wake
  let s := s.when wake State.resumeSlate
  let s := s.when (s.fld SYS_RESET.ALL / 2 % 32 != 0) (fun s => s.raise 0x0105)
  let s := s.resetRecord
  let s := { s with pos := { s.pos with pinsOn := true } }
  let s := ((s.bootPositions (wake && s.sameTake)).adcApply.canStart.takeAllWaiting.countCut).enter .standby (if wake then 5 else 4)
  let s := { s with keep := { resets := s.keep.resets }, sys := { s.sys with wake := false, cutFrom := none } }
  let s := (s.enterStandby.bootSelfTest.axesCut.refCut.autoRunCut.openBlocks).openWords false
  let s := { s with can := { s.can with entries := s.can.entries.map (fun (x : MapStore) => { x with age := 0 }) } }
  s.newFrame

/-- CUT: at C the frame counter increments, the last cut is captured, and every block does its work of the cut (R47). In
BOOT this is the first cut. -/
def execCut (s : State) : Out :=
  whenPowered s fun s =>
    if s.atPhase .sealed then s.frameCut
    else if s.clk.cutsOn && s.sys.mode == .boot && s.sys.boot == .ended then s.firstCut
    else s

/-! ### START -/

/-- HOST_HOLD_RELEASE: C + 4, the end of START. What D3 and D2 held goes on (R47, R54), and a forced fault that found no
start to meet is gone (R132). A restore that no ENGINE_START of ES has begun by then begins (R536). -/
def execHostHoldRelease (s : State) : Out :=
  whenPowered s fun s =>
    if s.atPhase .start then
      let s := s.advanceTo (s.clk.lastCut + 4)
      let s := s.each (List.range 9) (fun s k => s.modEng k (fun g => { g with force := false }))
      let s := ({ s with clk := { s.clk with phase := .frame } }).releaseHeld
      s.when (s.covering && s.intg.restoring) State.restoreAll
    else s

/-! ### The slate between commands -/

/-- One tick of the slate (R35, R37): the regulators whose reference follows an angle take the present one (R256). A wake
that has not ended at slate 120 000 is abandoned (R595). -/
def tick (s : State) : Out :=
  whenPowered s fun s =>
    let s := s.advanceTo (s.clk.slate + 1)
    let s := s.when s.sys.mode.lists (fun s => s.each s.usedAxes State.follow)
    s.when (s.sys.wake && s.sys.mode == .boot && decide (120000 < s.clk.slate.toNat)) State.abandonWake

end Sys2Proof.Machine
end

