-- ==== Sys2Proof/Machine/Dispatch.lean ====
section
/-!
DEFINITION. One arm per constructor of `Instr`: the command's meaning, by one direct call.
-/
namespace Sys2Proof.Machine

def exec (i : Instr) (s : State) : Host.Outcome State Fault Refusal :=
  match i with
  | .slateWrap => Sys2Proof.Machine.execSlateWrap s
  | .crossingDeliver d => Sys2Proof.Machine.execCrossingDeliver d s
  | .cutClose => Sys2Proof.Machine.execCutClose s
  | .drainCheck late => Sys2Proof.Machine.execDrainCheck late s
  | .cutApply => Sys2Proof.Machine.execCutApply s
  | .cutSeal => Sys2Proof.Machine.execCutSeal s
  | .cut => Sys2Proof.Machine.execCut s
  | .engineStart b => Sys2Proof.Machine.execEngineStart b s
  | .hostHoldRelease => Sys2Proof.Machine.execHostHoldRelease s
  | .cutMissed => Sys2Proof.Machine.execCutMissed s
  | .slateDecode => Sys2Proof.Machine.execSlateDecode s
  | .xtalMonitorWindow periods => Sys2Proof.Machine.execXtalMonitorWindow periods s
  | .xtalQualified => Sys2Proof.Machine.execXtalQualified s
  | .xtalLost => Sys2Proof.Machine.execXtalLost s
  | .refSwitch => Sys2Proof.Machine.execRefSwitch s
  | .fllRelock isl => Sys2Proof.Machine.execFllRelock isl s
  | .fllUnlock isls => Sys2Proof.Machine.execFllUnlock isls s
  | .xtalStart => Sys2Proof.Machine.execXtalStart s
  | .rcLost => Sys2Proof.Machine.execRcLost s
  | .refAbsentReset => Sys2Proof.Machine.execRefAbsentReset s
  | .lpoMeasure => Sys2Proof.Machine.execLpoMeasure s
  | .lpoCal => Sys2Proof.Machine.execLpoCal s
  | .lpoMeasureDone per => Sys2Proof.Machine.execLpoMeasureDone per s
  | .xtalEnable en => Sys2Proof.Machine.execXtalEnable en s
  | .xtalRetry => Sys2Proof.Machine.execXtalRetry s
  | .frameLenWrite v => Sys2Proof.Machine.execFrameLenWrite v s
  | .clkFaultClear mask => Sys2Proof.Machine.execClkFaultClear mask s
  | .sleepSat => Sys2Proof.Machine.execSleepSat s
  | .stampStale x => Sys2Proof.Machine.execStampStale x s
  | .residentRecheck mismatch => Sys2Proof.Machine.execResidentRecheck mismatch s
  | .reloadDone bad => Sys2Proof.Machine.execReloadDone bad s
  | .recheck => Sys2Proof.Machine.execRecheck s
  | .reelSplice v => Sys2Proof.Machine.execReelSplice v s
  | .stagingEnd bad => Sys2Proof.Machine.execStagingEnd bad s
  | .stagedRecheck bad => Sys2Proof.Machine.execStagedRecheck bad s
  | .confirm => Sys2Proof.Machine.execConfirm s
  | .cancel => Sys2Proof.Machine.execCancel s
  | .trialProgram => Sys2Proof.Machine.execTrialProgram s
  | .trialFramesExpire => Sys2Proof.Machine.execTrialFramesExpire s
  | .bootStart cascM test => Sys2Proof.Machine.execBootStart cascM test s
  | .regulatorsReady bad => Sys2Proof.Machine.execRegulatorsReady bad s
  | .firmwareSelect => Sys2Proof.Machine.execFirmwareSelect s
  | .reelSelect => Sys2Proof.Machine.execReelSelect s
  | .bootEnd x => Sys2Proof.Machine.execBootEnd x s
  | .noStart e => Sys2Proof.Machine.execNoStart e s
  | .force m => Sys2Proof.Machine.execForce m s
  | .forceEs => Sys2Proof.Machine.execForceEs s
  | .restore m => Sys2Proof.Machine.execRestore m s
  | .returnReloadDone => Sys2Proof.Machine.execReturnReloadDone s
  | .pad e f => Sys2Proof.Machine.execPad e f s
  | .ldk e f => Sys2Proof.Machine.execLdk e f s
  | .mov e f => Sys2Proof.Machine.execMov e f s
  | .tagm e f => Sys2Proof.Machine.execTagm e f s
  | .bld e f => Sys2Proof.Machine.execBld e f s
  | .bst e f => Sys2Proof.Machine.execBst e f s
  | .acpt e f => Sys2Proof.Machine.execAcpt e f s
  | .add e f => Sys2Proof.Machine.execAdd e f s
  | .mul e f => Sys2Proof.Machine.execMul e f s
  | .accx e f => Sys2Proof.Machine.execAccx e f s
  | .logic e f => Sys2Proof.Machine.execLogic e f s
  | .shift e f => Sys2Proof.Machine.execShift e f s
  | .cmp e f => Sys2Proof.Machine.execCmp e f s
  | .sel e f => Sys2Proof.Machine.execSel e f s
  | .clamp e f => Sys2Proof.Machine.execClamp e f s
  | .absn e f => Sys2Proof.Machine.execAbsn e f s
  | .div e f => Sys2Proof.Machine.execDiv e f s
  | .isqrt e f => Sys2Proof.Machine.execIsqrt e f s
  | .tbl e f => Sys2Proof.Machine.execTbl e f s
  | .rot e f => Sys2Proof.Machine.execRot e f s
  | .obsv e f => Sys2Proof.Machine.execObsv e f s
  | .plan e f => Sys2Proof.Machine.execPlan e f s
  | .ramp e f => Sys2Proof.Machine.execRamp e f s
  | .cami e f => Sys2Proof.Machine.execCami e f s
  | .stepi e f => Sys2Proof.Machine.execStepi e f s
  | .setp e f => Sys2Proof.Machine.execSetp e f s
  | .stat e f => Sys2Proof.Machine.execStat e f s
  | .mirr e f => Sys2Proof.Machine.execMirr e f s
  | .engineFault e d => Sys2Proof.Machine.execEngineFault e d s
  | .paramWrite n x v => Sys2Proof.Machine.execParamWrite n x v s
  | .axSetpos n v => Sys2Proof.Machine.execAxSetpos n v s
  | .homingRequest n v => Sys2Proof.Machine.execHomingRequest n v s
  | .camEngage n v => Sys2Proof.Machine.execCamEngage n v s
  | .camBind n v => Sys2Proof.Machine.execCamBind n v s
  | .stepEdge k rising dir late lag => Sys2Proof.Machine.execStepEdge k rising dir late lag s
  | .stepClear k => Sys2Proof.Machine.execStepClear k s
  | .setpointArrive e => Sys2Proof.Machine.execSetpointArrive e s
  | .carrierStart n => Sys2Proof.Machine.execCarrierStart n s
  | .carrierEdge n b => Sys2Proof.Machine.execCarrierEdge n b s
  | .deadTimeExpire n t => Sys2Proof.Machine.execDeadTimeExpire n t s
  | .currentSample n b w => Sys2Proof.Machine.execCurrentSample n b w s
  | .sampleHoldoff n b begins => Sys2Proof.Machine.execSampleHoldoff n b begins s
  | .modCommit v => Sys2Proof.Machine.execModCommit v s
  | .modForce n v => Sys2Proof.Machine.execModForce n v s
  | .trip n src => Sys2Proof.Machine.execTrip n src s
  | .bstUvAssert n k => Sys2Proof.Machine.execBstUvAssert n k s
  | .bstUvRelease n k => Sys2Proof.Machine.execBstUvRelease n k s
  | .bstExhaust n k => Sys2Proof.Machine.execBstExhaust n k s
  | .tripClear n mask => Sys2Proof.Machine.execTripClear n mask s
  | .diagStart n => Sys2Proof.Machine.execDiagStart n s
  | .diagDone n v => Sys2Proof.Machine.execDiagDone n v s
  | .selftestStart sel => Sys2Proof.Machine.execSelftestStart sel s
  | .selftestDone fail => Sys2Proof.Machine.execSelftestDone fail s
  | .otShut => Sys2Proof.Machine.execOtShut s
  | .otShutRelease => Sys2Proof.Machine.execOtShutRelease s
  | .supplyGate => Sys2Proof.Machine.execSupplyGate s
  | .qdEdge k a b x lag => Sys2Proof.Machine.execQdEdge k a b x lag s
  | .qdIndex k x lag => Sys2Proof.Machine.execQdIndex k x lag s
  | .qdPreset k v => Sys2Proof.Machine.execQdPreset k v s
  | .sentFrame k back cal ivs => Sys2Proof.Machine.execSentFrame k back cal ivs s
  | .sentTimeout k => Sys2Proof.Machine.execSentTimeout k s
  | .limitEdge n positive level => Sys2Proof.Machine.execLimitEdge n positive level s
  | .capEdge c rising lag => Sys2Proof.Machine.execCapEdge c rising lag s
  | .latchHostTrig m lag => Sys2Proof.Machine.execLatchHostTrig m lag s
  | .latchRead j => Sys2Proof.Machine.execLatchRead j s
  | .compareValWrite m v => Sys2Proof.Machine.execCompareValWrite m v s
  | .cmpPulseEnd m => Sys2Proof.Machine.execCmpPulseEnd m s
  | .emuThetaSample e => Sys2Proof.Machine.execEmuThetaSample e s
  | .emuStep e => Sys2Proof.Machine.execEmuStep e s
  | .emuClear e => Sys2Proof.Machine.execEmuClear e s
  | .outMismatch p level => Sys2Proof.Machine.execOutMismatch p level s
  | .adcSlot x partner r => Sys2Proof.Machine.execAdcSlot x partner r s
  | .refCheck k r => Sys2Proof.Machine.execRefCheck k r s
  | .inject v => Sys2Proof.Machine.execInject v s
  | .injectRun r => Sys2Proof.Machine.execInjectRun r s
  | .calRequest m => Sys2Proof.Machine.execCalRequest m s
  | .calDone k mid hi => Sys2Proof.Machine.execCalDone k mid hi s
  | .standbyConversion j r => Sys2Proof.Machine.execStandbyConversion j r s
  | .canRxFrame f back => Sys2Proof.Machine.execCanRxFrame f back s
  | .canArbitration lag => Sys2Proof.Machine.execCanArbitration lag s
  | .canTxEnd o => Sys2Proof.Machine.execCanTxEnd o s
  | .canError x => Sys2Proof.Machine.execCanError x s
  | .boReq => Sys2Proof.Machine.execBoReq s
  | .busOffRecovered => Sys2Proof.Machine.execBusOffRecovered s
  | .canIntegrated => Sys2Proof.Machine.execCanIntegrated s
  | .canTxreq m => Sys2Proof.Machine.execCanTxreq m s
  | .canTxabort m => Sys2Proof.Machine.execCanTxabort m s
  | .canRxfAck => Sys2Proof.Machine.execCanRxfAck s
  | .rxBufferRead n => Sys2Proof.Machine.execRxBufferRead n s
  | .rxMapTimeout m => Sys2Proof.Machine.execRxMapTimeout m s
  | .serviceRequest l => Sys2Proof.Machine.execServiceRequest l s
  | .svcRead => Sys2Proof.Machine.execSvcRead s
  | .svcWrite => Sys2Proof.Machine.execSvcWrite s
  | .logRead => Sys2Proof.Machine.execLogRead s
  | .updWrite => Sys2Proof.Machine.execUpdWrite s
  | .updCmd => Sys2Proof.Machine.execUpdCmd s
  | .serviceResponse => Sys2Proof.Machine.execServiceResponse s
  | .domTimeout => Sys2Proof.Machine.execDomTimeout s
  | .canResume => Sys2Proof.Machine.execCanResume s
  | .wakePin rising n => Sys2Proof.Machine.execWakePin rising n s
  | .busWake n => Sys2Proof.Machine.execBusWake n s
  | .wakeTimer => Sys2Proof.Machine.execWakeTimer s
  | .nop cmd => Sys2Proof.Machine.execNop cmd s
  | .status addr n => Sys2Proof.Machine.execStatus addr n s
  | .write addr n data ev => Sys2Proof.Machine.execWrite addr n data ev s
  | .read addr n take begun waits ev => Sys2Proof.Machine.execRead addr n take begun waits ev s
  | .writeFix addr n data ev => Sys2Proof.Machine.execWriteFix addr n data ev s
  | .readFix addr n take begun waits ev => Sys2Proof.Machine.execReadFix addr n take begun waits ev s
  | .hostFrameEnd k => Sys2Proof.Machine.execHostFrameEnd k s
  | .lateArrival => Sys2Proof.Machine.execLateArrival s
  | .daisyFrame cycles v late x => Sys2Proof.Machine.execDaisyFrame cycles v late x s
  | .busyNRelease => Sys2Proof.Machine.execBusyNRelease s
  | .mwApertureRead o => Sys2Proof.Machine.execMwApertureRead o s
  | .mwApertureWrite o v => Sys2Proof.Machine.execMwApertureWrite o v s
  | .mwBaseWrite v => Sys2Proof.Machine.execMwBaseWrite v s
  | .mwLineRead l => Sys2Proof.Machine.execMwLineRead l s
  | .mwWriteOut => Sys2Proof.Machine.execMwWriteOut s
  | .mwPoll st => Sys2Proof.Machine.execMwPoll st s
  | .mwTimeout => Sys2Proof.Machine.execMwTimeout s
  | .mwRawGo v => Sys2Proof.Machine.execMwRawGo v s
  | .mmFault => Sys2Proof.Machine.execMmFault s
  | .clap => Sys2Proof.Machine.execClap s
  | .clapEdge => Sys2Proof.Machine.execClapEdge s
  | .clapMiss => Sys2Proof.Machine.execClapMiss s
  | .clapLost => Sys2Proof.Machine.execClapLost s
  | .chainWindow changed => Sys2Proof.Machine.execChainWindow changed s
  | .chainRecord k l => Sys2Proof.Machine.execChainRecord k l s
  | .posConflict => Sys2Proof.Machine.execPosConflict s
  | .hostInWindow => Sys2Proof.Machine.execHostInWindow s
  | .qTimeout k => Sys2Proof.Machine.execQTimeout k s
  | .repairCopyDone b => Sys2Proof.Machine.execRepairCopyDone b s
  | .testWindow b => Sys2Proof.Machine.execTestWindow b s
  | .testWindowEnd b mismatch => Sys2Proof.Machine.execTestWindowEnd b mismatch s
  | .testWindowTimeout b => Sys2Proof.Machine.execTestWindowTimeout b s
  | .bankWake b => Sys2Proof.Machine.execBankWake b s
  | .bankRetain b => Sys2Proof.Machine.execBankRetain b s
  | .atSet mask x => Sys2Proof.Machine.execAtSet mask x s
  | .atClr mask x => Sys2Proof.Machine.execAtClr mask x s
  | .ownWrite b v => Sys2Proof.Machine.execOwnWrite b v s
  | .mbPortAWrite addr op => Sys2Proof.Machine.execMbPortAWrite addr op s
  | .axSafe m => Sys2Proof.Machine.execAxSafe m s
  | .axRelease m => Sys2Proof.Machine.execAxRelease m s
  | .pinHoldEnd irq => Sys2Proof.Machine.execPinHoldEnd irq s
  | .updErase k => Sys2Proof.Machine.execUpdErase k s
  | .eraseDone fail => Sys2Proof.Machine.execEraseDone fail s
  | .updOpen k => Sys2Proof.Machine.execUpdOpen k s
  | .updData v => Sys2Proof.Machine.execUpdData v s
  | .pageProgrammed fail => Sys2Proof.Machine.execPageProgrammed fail s
  | .updFlush k => Sys2Proof.Machine.execUpdFlush k s
  | .updVerify k => Sys2Proof.Machine.execUpdVerify k s
  | .updFwSplice k => Sys2Proof.Machine.execUpdFwSplice k s
  | .updFwConfirm k => Sys2Proof.Machine.execUpdFwConfirm k s
  | .updAbort k => Sys2Proof.Machine.execUpdAbort k s
  | .mcRestart => Sys2Proof.Machine.execMcRestart s
  | .fwTrialExpire => Sys2Proof.Machine.execFwTrialExpire s
  | .mcWatchdog => Sys2Proof.Machine.execMcWatchdog s
  | .scrub => Sys2Proof.Machine.execScrub s
  | .logRecordWrite fail => Sys2Proof.Machine.execLogRecordWrite fail s
  | .flashWindowRead o ecc => Sys2Proof.Machine.execFlashWindowRead o ecc s
  | .modeReqStandby key => Sys2Proof.Machine.execModeReqStandby key s
  | .modeReqRun key => Sys2Proof.Machine.execModeReqRun key s
  | .modeReqSafe key => Sys2Proof.Machine.execModeReqSafe key s
  | .modeReqService key => Sys2Proof.Machine.execModeReqService key s
  | .modeReqSleep key => Sys2Proof.Machine.execModeReqSleep key s
  | .modeReqReset key => Sys2Proof.Machine.execModeReqReset key s
  | .sleepEntryDone => Sys2Proof.Machine.execSleepEntryDone s
  | .powerOn => Sys2Proof.Machine.execPowerOn s
  | .vbatOff => Sys2Proof.Machine.execVbatOff s
  | .brownout => Sys2Proof.Machine.execBrownout s
  | .regulator => Sys2Proof.Machine.execRegulator s
  | .pinReset => Sys2Proof.Machine.execPinReset s
  | .lowVoltage => Sys2Proof.Machine.execLowVoltage s
  | .overvoltage => Sys2Proof.Machine.execOvervoltage s
  | .overvoltageRelease => Sys2Proof.Machine.execOvervoltageRelease s
  | .vioLow => Sys2Proof.Machine.execVioLow s
  | .vioRelease => Sys2Proof.Machine.execVioRelease s
  | .registerWrite addr v => Sys2Proof.Machine.execRegisterWrite addr v s
  | .lowVoltageRelease => Sys2Proof.Machine.execLowVoltageRelease s
  | .rcReturn => Sys2Proof.Machine.execRcReturn s
  | .supplyGateRelease => Sys2Proof.Machine.execSupplyGateRelease s
  | .chargePumpReady => Sys2Proof.Machine.execChargePumpReady s
  | .hv => Sys2Proof.Machine.execHv s
  | .hvRelease => Sys2Proof.Machine.execHvRelease s
  | .protocolExc => Sys2Proof.Machine.execProtocolExc s
  | .logSectorErase fail => Sys2Proof.Machine.execLogSectorErase fail s
  | .sourceInactive n src => Sys2Proof.Machine.execSourceInactive n src s

end Sys2Proof.Machine
end

