-- ==== Sys2Proof/Machine/Step.lean ====
section
/-!
DEFINITION. One step: the command at the front of the queue, or, on an empty queue, one tick of the slate.
-/
namespace Sys2Proof.Machine

/-- The queue after a step has taken the command at its front. -/
def State.withPending (s : State) (l : List Instr) : State := { s with pending := l }

/-- One step of the block: the front command's meaning on the state with the queue's rest; on an empty queue one tick of
the slate passes (R35). DESIGN CHOICE (log entry 1): time passes on an empty queue alone. -/
def step (s : State) : Host.Outcome State Fault Refusal :=
  match s.pending with
  | c :: rest => exec c (s.withPending rest)
  | [] => Sys2Proof.Machine.tick s

/-- The state with the command that a table word spells at the front of its queue; no word spells one. -/
def State.withFetchWord (s : State) (nbits w : Nat) : State :=
  match decodeTableWord nbits w with
  | some c => s.withPending (c :: s.pending)
  | none => s

end Sys2Proof.Machine
end

