-- ==== Sys2Proof/WellFormed.lean ====
section
/-!
DEFINITION. Well-formed commands: operands that the hardware can produce. A check stands here where the spec bounds what
an event can carry and the operand's type does not say so already; a command that fails one names no event of the device.
`exec` is total, so an ill-formed command does something too, about which nothing is claimed.
-/
namespace Sys2Proof

/-- The units between which words cross: the islands D0 to D6, and the nine engines (R27, R29). -/
def isUnit (u : Nat) : Bool := decide (u ≤ 6) || (decide (10 ≤ u) && decide (u ≤ 18))

/-- A crossing joins two different units. -/
def Xing.wf (x : Xing) : Bool := isUnit x.src && isUnit x.dst && x.src != x.dst

/-- The rows of a memory bank: 256 of 64 bytes, 64 in the mailbox (R499). -/
def rowsOf (b : Nat) : Nat := if b = 16 then 64 else 256

/-- A word of the banks or the mailbox: below 0x4_1000 and aligned (R15, R499). -/
def isBankWord (a : Nat) : Bool := decide (a < 0x41000) && a % 4 == 0

/-- Errors arise in bank words only. -/
def Fetch.wf (f : Fetch) : Bool := f.bank.all (fun p => isBankWord p.1)

/-- D3 samples a slate at most three ticks behind the generator (R36). -/
def Access.wf (x : Access) : Bool := decide (x.lag ≤ 3)

/-- The data bytes that a DLC names (R408). -/
def CanFrame.bytes (f : CanFrame) : Nat :=
  if f.rtr then 0
  else if f.dlc.val ≤ 8 then f.dlc.val
  else if f.fdf then [12, 16, 20, 24, 32, 48, 64].getD (f.dlc.val - 9) 64 else 8

/-- A frame holds the bytes of its DLC, a base identifier stands in bits 28:18, and BRS and ESI belong to FD frames, which
are never remote frames (R408). -/
def CanFrame.wf (f : CanFrame) : Bool :=
  f.data.length == f.bytes && (f.ide || f.id.extractLsb' 0 18 == 0#18) && (f.fdf || !(f.brs || f.esi)) && !(f.fdf && f.rtr)

/-- The checks of a command's operands. -/
def Instr.wf (i : Instr) : Bool :=
  match i with
  | .slateWrap => true
  | .crossingDeliver (.oldest x) => x.wf
  | .crossingDeliver (.mgmt _ _) => true
  | .cutClose => true
  | .drainCheck _ => true
  | .cutApply => true
  | .cutSeal => true
  | .cut => true
  | .engineStart _ => true
  | .hostHoldRelease => true
  | .cutMissed => true
  | .slateDecode => true
  | .xtalMonitorWindow _ => true
  | .xtalQualified => true
  | .xtalLost => true
  | .refSwitch => true
  | .fllRelock _ => true
  | .fllUnlock _ => true
  | .xtalStart => true
  | .rcLost => true
  | .refAbsentReset => true
  | .lpoMeasure => true
  | .lpoCal => true
  | .lpoMeasureDone _ => true
  | .xtalEnable _ => true
  | .xtalRetry => true
  | .frameLenWrite _ => true
  | .clkFaultClear _ => true
  | .sleepSat => true
  | .stampStale _ => true
  | .residentRecheck _ => true
  | .reloadDone _ => true
  | .recheck => true
  | .reelSplice _ => true
  | .stagingEnd _ => true
  | .stagedRecheck _ => true
  | .confirm => true
  | .cancel => true
  | .trialProgram => true
  | .trialFramesExpire => true
  | .bootStart _ _ => true
  | .regulatorsReady bad => bad.all (fun p => decide (p.2.val < rowsOf p.1.val))
  | .firmwareSelect => true
  | .reelSelect => true
  | .bootEnd _ => true
  | .noStart _ => true
  | .force _ => true
  | .forceEs => true
  | .restore _ => true
  | .returnReloadDone => true
  | .pad _ f => f.wf
  | .ldk _ f => f.wf
  | .mov _ f => f.wf
  | .tagm _ f => f.wf
  | .bld _ f => f.wf
  | .bst _ f => f.wf
  | .acpt _ f => f.wf
  | .add _ f => f.wf
  | .mul _ f => f.wf
  | .accx _ f => f.wf
  | .logic _ f => f.wf
  | .shift _ f => f.wf
  | .cmp _ f => f.wf
  | .sel _ f => f.wf
  | .clamp _ f => f.wf
  | .absn _ f => f.wf
  | .div _ f => f.wf
  | .isqrt _ f => f.wf
  | .tbl _ f => f.wf
  | .rot _ f => f.wf
  | .obsv _ f => f.wf
  | .plan _ f => f.wf
  | .ramp _ f => f.wf
  | .cami _ f => f.wf
  | .stepi _ f => f.wf
  | .setp _ f => f.wf
  | .stat _ f => f.wf
  | .mirr _ f => f.wf
  | .engineFault _ _ => true
  | .paramWrite _ _ _ => true
  | .axSetpos _ _ => true
  | .homingRequest _ _ => true
  | .camEngage _ _ => true
  | .camBind _ _ => true
  | .stepEdge _ _ _ _ lag => lag ≤ 3
  | .stepClear _ => true
  | .setpointArrive _ => true
  | .carrierStart _ => true
  | .carrierEdge _ _ => true
  | .deadTimeExpire _ _ => true
  | .currentSample _ _ _ => true
  | .sampleHoldoff _ _ _ => true
  | .modCommit _ => true
  | .modForce _ _ => true
  | .trip _ _ => true
  | .bstUvAssert _ _ => true
  | .bstUvRelease _ _ => true
  | .bstExhaust _ _ => true
  | .tripClear _ _ => true
  | .diagStart _ => true
  | .diagDone _ _ => true
  | .selftestStart _ => true
  | .selftestDone _ => true
  | .otShut => true
  | .otShutRelease => true
  | .supplyGate => true
  | .qdEdge _ _ _ _ lag => lag ≤ 3
  | .qdIndex _ _ lag => lag ≤ 3
  | .qdPreset _ _ => true
  | .sentFrame _ _ cal ivs => decide (0 < cal) && decide (ivs.length ≤ 11) && ivs.all (fun v => decide (0 < v))
  | .sentTimeout _ => true
  | .limitEdge _ _ _ => true
  | .capEdge _ _ lag => lag ≤ 3
  | .latchHostTrig _ lag => lag ≤ 3
  | .latchRead _ => true
  | .compareValWrite _ _ => true
  | .cmpPulseEnd _ => true
  | .emuThetaSample _ => true
  | .emuStep _ => true
  | .emuClear _ => true
  | .outMismatch _ _ => true
  | .adcSlot _ _ _ => true
  | .refCheck _ _ => true
  | .inject _ => true
  | .injectRun _ => true
  | .calRequest _ => true
  | .calDone _ mid hi => decide (mid ≤ 32 * 4095) && decide (hi ≤ 32 * 4095)
  | .standbyConversion _ _ => true
  | .canRxFrame f _ => f.wf
  | .canArbitration _ => true
  | .canTxEnd _ => true
  | .canError _ => true
  | .boReq => true
  | .busOffRecovered => true
  | .canIntegrated => true
  | .canTxreq _ => true
  | .canTxabort _ => true
  | .canRxfAck => true
  | .rxBufferRead _ => true
  | .rxMapTimeout _ => true
  | .serviceRequest l => l.length ≤ 64
  | .svcRead => true
  | .svcWrite => true
  | .logRead => true
  | .updWrite => true
  | .updCmd => true
  | .serviceResponse => true
  | .domTimeout => true
  | .canResume => true
  | .wakePin _ n => n < 2 ^ 40
  | .busWake n => n < 2 ^ 40
  | .wakeTimer => true
  | .nop _ => true
  | .status _ _ => true
  | .write _ n data ev => decide (data.length ≤ n.val + 1) && decide (ev.length ≤ n.val + 1) && ev.all Access.wf
  | .read _ n take begun waits ev => decide (take ≤ n.val + 1) && decide (waits.length ≤ n.val + 1) && (!begun || decide (take ≤ n.val)) && decide (ev.length ≤ n.val + 1) && ev.all Access.wf
  | .writeFix _ n data ev => decide (data.length ≤ n.val + 1) && decide (ev.length ≤ n.val + 1) && ev.all Access.wf
  | .readFix _ n take begun waits ev => decide (take ≤ n.val + 1) && decide (waits.length ≤ n.val + 1) && (!begun || decide (take ≤ n.val)) && decide (ev.length ≤ n.val + 1) && ev.all Access.wf
  | .hostFrameEnd _ => true
  | .lateArrival => true
  | .daisyFrame cycles v _ x => v < 2 ^ cycles && x.wf
  | .busyNRelease => true
  | .mwApertureRead _ => true
  | .mwApertureWrite _ _ => true
  | .mwBaseWrite _ => true
  | .mwLineRead _ => true
  | .mwWriteOut => true
  | .mwPoll _ => true
  | .mwTimeout => true
  | .mwRawGo _ => true
  | .mmFault => true
  | .clap => true
  | .clapEdge => true
  | .clapMiss => true
  | .clapLost => true
  | .chainWindow _ => true
  | .chainRecord _ l => l.length ≤ 16
  | .posConflict => true
  | .hostInWindow => true
  | .qTimeout _ => true
  | .repairCopyDone _ => true
  | .testWindow _ => true
  | .testWindowEnd _ _ => true
  | .testWindowTimeout _ => true
  | .bankWake _ => true
  | .bankRetain _ => true
  | .atSet _ x => x.wf
  | .atClr _ x => x.wf
  | .ownWrite _ _ => true
  | .mbPortAWrite addr _ => decide (0x40000 ≤ addr) && decide (addr < 0x41000) && addr % 4 == 0
  | .axSafe _ => true
  | .axRelease _ => true
  | .pinHoldEnd _ => true
  | .updErase _ => true
  | .eraseDone fail => (match fail with | some k => decide (k < 96) | none => true)
  | .updOpen _ => true
  | .updData _ => true
  | .pageProgrammed _ => true
  | .updFlush _ => true
  | .updVerify _ => true
  | .updFwSplice _ => true
  | .updFwConfirm _ => true
  | .updAbort _ => true
  | .mcRestart => true
  | .fwTrialExpire => true
  | .mcWatchdog => true
  | .scrub => true
  | .logRecordWrite _ => true
  | .flashWindowRead _ _ => true
  | .modeReqStandby _ => true
  | .modeReqRun _ => true
  | .modeReqSafe _ => true
  | .modeReqService _ => true
  | .modeReqSleep _ => true
  | .modeReqReset _ => true
  | .sleepEntryDone => true
  | .powerOn => true
  | .vbatOff => true
  | .brownout => true
  | .regulator => true
  | .pinReset => true
  | .lowVoltage => true
  | .overvoltage => true
  | .overvoltageRelease => true
  | .vioLow => true
  | .vioRelease => true
  | .registerWrite _ _ => true
  | .lowVoltageRelease => true
  | .rcReturn => true
  | .supplyGateRelease => true
  | .chargePumpReady => true
  | .hv => true
  | .hvRelease => true
  | .protocolExc => true
  | .logSectorErase _ => true
  | .sourceInactive _ _ => true

end Sys2Proof
end

