-- ==== Sys2Proof/Safety.lean ====
section
/-!
DEFINITION. The terms that claims use: the parts of the state and what it means that only some of them change, the bytes
that memory and flash hold, and the invariant that every step keeps.
-/
namespace Sys2Proof.Machine

/-! ### What changes -/

/-- The parts of the state that a frame names: the fields of `State`, its registers by group, and the bytes of its memory
apart from the other contents of `mem`. -/
inductive Field where
  | part | waiting | latched | clk | sys | keep | reel | engs | intg | mgt | can | mem | cells | spi | mods | modg | pwr | adc
  | pos | mots | chn | queues | flash | flashFlaws | drawn | pending
  /-- Every register. -/
  | regs
  /-- The registers at `base + stride * n`. -/
  | reg (base stride : Nat)
  /-- The fault flags and the fault code registers of every block (R24, R547). -/
  | faults
  deriving DecidableEq, Repr

/-- The register at `a`. -/
abbrev Field.one (a : Nat) : Field := .reg a 0

/-- The registers of the group `f`. -/
abbrev Field.row (f : Nat → Nat) : Field := .reg (f 0) (f 1 - f 0)

/-- The register at `a` belongs to the part. -/
def Field.has (k : Field) (a : Nat) : Prop :=
  match k with
  | .regs => True
  | .reg b d => ∃ n, a = b + d * n
  | .faults => ∃ b u, a = faultReg b u ∨ a = faultReg b u + 4
  | _ => False

/-- Two states agree in a part other than registers. -/
def Field.same (k : Field) (s t : State) : Prop :=
  match k with
  | .part => t.part = s.part
  | .waiting => t.waiting = s.waiting
  | .latched => t.latched = s.latched
  | .clk => t.clk = s.clk
  | .sys => t.sys = s.sys
  | .keep => t.keep = s.keep
  | .reel => t.reel = s.reel
  | .engs => t.engs = s.engs
  | .intg => t.intg = s.intg
  | .mgt => t.mgt = s.mgt
  | .can => t.can = s.can
  | .mem => { t.mem with cells := [] } = { s.mem with cells := [] }
  | .cells => t.mem.cells = s.mem.cells
  | .spi => t.spi = s.spi
  | .mods => t.mods = s.mods
  | .modg => t.modg = s.modg
  | .pwr => t.pwr = s.pwr
  | .adc => t.adc = s.adc
  | .pos => t.pos = s.pos
  | .mots => t.mots = s.mots
  | .chn => t.chn = s.chn
  | .queues => t.queues = s.queues
  | .flash => t.flash = s.flash
  | .flashFlaws => t.flashFlaws = s.flashFlaws
  | .drawn => t.drawn = s.drawn
  | .pending => t.pending = s.pending
  | .regs | .reg _ _ | .faults => True

/-- From `s` to `t` nothing changes but the parts `l`: no other field of the state, and no register outside them. -/
def Only (l : List Field) (s t : State) : Prop :=
  (∀ k, k ∉ l → k.same s t) ∧ ∀ a, (∀ k ∈ l, ¬k.has a) → t.word a = s.word a

/-- At `s` the command `i` answers a next state in which only the parts `l` have changed and `P` holds. -/
def Runs (i : Instr) (s : State) (l : List Field) (P : State → Prop) : Prop :=
  ∃ t, exec i s = .next t ∧ Only l s t ∧ P t

/-! ### What a state shows -/

/-- The block is powered, the host link is on and served, and D3 holds no host access back: a host access takes effect at
once (R54, R471). -/
abbrev State.hostOpen (s : State) : Prop := s.powered = true ∧ s.hostLink = true ∧ s.holding = false

/-- The flag of the fault `code` is set in the fault register of its block (R24, R547), for MOT of axis `unit`. -/
def State.raised (s : State) (code : Nat) (unit : Nat := 0) : Bool :=
  (s.word (faultReg (code / 256) unit)).getLsbD (code % 256 - 1 + (if code / 256 = 0x12 then 16 else 0))

/-- The byte of the banks or the mailbox at host address `a` (R499). -/
def State.byteAt (s : State) (a : Nat) : Byte := memByte s.mem.cells a

/-- Engine `e` runs a list, and the next shot of its page is a legal one of opcode `op` that is not the last; the fetch
`f` meets no error in the store (R111, R119, R120). -/
def State.shotReady (s : State) (op : Nat) (e : Fin 9) (f : Fetch) : Bool :=
  let c := s.shotOf e f
  s.powered && s.engs.length == 9 && (s.eng e).exec && (s.eng e).ops.length == 32 && f == {}
    && c.b 0 == op && decide (c.b 1 < 4) && decide (c.ctx < (s.engineAxes (s.serves e)).length) && c.legal op
    && decide ((s.eng e).shots + 1 < (s.pageOf e).shots.length)

/-- The engine with the shot word of `f` in its fetch check (R133), as a shot's effect finds it. -/
def State.reading (s : State) (e : Fin 9) (f : Fetch) : State :=
  s.modEng e (fun g => { g with fetch := u32 (crc32Reg g.fetch.toNat (dwordBytes (s.fetched e f))) })

/-- The commands that can change a byte of flash: accesses of the bus, which reach the update commands, the update path,
the log, the slot states, and the cut that splices (R69, R559, R560, R572). Every other command leaves flash alone. -/
def mayWriteFlash : Instr → Bool
  | .cutApply | .hostHoldRelease | .recheck | .stagingEnd .. | .confirm | .cancel | .trialProgram
  | .trialFramesExpire | .firmwareSelect | .reelSelect | .bootEnd .. | .canRxFrame .. | .svcRead | .svcWrite
  | .logRead | .updWrite | .updCmd | .write .. | .writeFix .. | .daisyFrame .. | .updErase .. | .eraseDone ..
  | .updOpen .. | .updData .. | .pageProgrammed .. | .updFlush .. | .updVerify .. | .updFwSplice ..
  | .updFwConfirm .. | .updAbort .. | .mcRestart | .fwTrialExpire | .scrub | .logRecordWrite .. | .registerWrite ..
  | .logSectorErase .. => true
  | _ => false

/-! ### The invariant -/

/-- An engine holds 32 operand slots and 64 input words (R138, R139). -/
def Eng.Shaped (g : Eng) : Prop := g.ops.length = 32 ∧ g.inp.length = 64

/-- Never are both switches on, and a pending turn-on finds the other switch off (R250, R276). -/
def HalfBridge.Sound (h : HalfBridge) : Prop :=
  ¬(h.hi = true ∧ h.lo = true) ∧ (h.turnOn = some true → h.lo = false) ∧ (h.turnOn = some false → h.hi = false)

/-- An axis has four half-bridges (R249), and each is sound. -/
def ModAx.Shaped (m : ModAx) : Prop := m.hbs.length = 4 ∧ ∀ h ∈ m.hbs, h.Sound

/-- What every step keeps: registers, memory and flash stay in their canonical form, and every table keeps the entries
that the device has, and no half-bridge has both switches on. -/
structure State.Inv (s : State) : Prop where
  regs : Store.wf regReset s.regs = true
  cells : Memory.wf s = true
  flash : Store.wf (fun _ => (0xFF : Byte)) s.flash = true
  engs : s.engs.length = 9
  eng : ∀ g ∈ s.engs, g.Shaped
  mods : s.mods.length = 12
  mod : ∀ m ∈ s.mods, m.Shaped
  mots : s.mots.length = 12
  banks : s.mem.banks.length = 17
  tbs : s.can.tbs.length = 3
  rbs : s.can.rbs.length = 17
  entries : s.can.entries.length = 32
  si : s.pos.si.length = 4
  qd : s.pos.qd.length = 4
  sn : s.pos.sn.length = 4
  ee : s.pos.ee.length = 2
  cores : s.adc.cores.length = 6
  units : s.adc.units.length = 60
  devs : s.chn.devs.length = 8

/-- A step is safe when it answers a next state: the block has no fault and no refusal of its own, so every step is. -/
def State.stepSafe (s : State) : Prop := ∃ t, step s = .next t

end Sys2Proof.Machine
end

