-- ==== Sys2Proof/Frames.lean ====
section
/-!
DEFINITION. The parts of the state that each of the larger commands may change, where the list is long: the frames that
statements about them name.
-/
namespace Sys2Proof.Machine

/-- What `execQdEdge` may change. -/
def Parts.qdEdge : List Field :=
  [.row POS_QD_IDXDEV, .row POS_QD_STAT, .row POS_QD_ERR, .row POS_LT_POS, .row POS_LT_TIME, .row POS_LT_STAT,
    .row POS_CP_VAL, .row POS_CP_STAT, .row POS_EE_COUNT, .row POS_EE_STAT, .one MGT_LOG_STAT, .faults, .reel, .intg,
    .mgt, .can, .pos, .mots, .drawn]

/-- What `execSupplyGate` may change. -/
def Parts.supplyGate : List Field :=
  [.one MOD_STAT, .one MOD_ILOCK_CNT, .row MOD_AX_STAT, .row MOD_AX_FORCE, .one PWR_STAT, .row PWR_AX_LIVE,
    .one INT_SAFE_CAUSE, .one INT_AXCAUSE_LO, .one INT_AXCAUSE_HI, .one MGT_LOG_STAT, .faults, .sys, .reel, .intg, .mgt,
    .can, .mods, .modg, .pwr]

/-- What `execBstExhaust`, `execTrip` may change. -/
def Parts.bstExhaust : List Field :=
  [.one MOD_STAT, .one MOD_ILOCK_CNT, .row MOD_AX_STAT, .row MOD_AX_FORCE, .row PWR_AX_TRIP, .row PWR_AX_LIVE,
    .row PWR_AX_STAT, .row PWR_AX_CNT, .one INT_AXCAUSE_LO, .one INT_AXCAUSE_HI, .one MGT_LOG_STAT, .faults, .reel,
    .intg, .mgt, .can, .mods, .modg, .pwr]

/-- What `execTripClear` may change. -/
def Parts.tripClear : List Field :=
  [.one MOD_STAT, .one MOD_ILOCK_CNT, .row MOD_AX_STAT, .row MOD_AX_FORCE, .row PWR_AX_TRIP, .row PWR_AX_LIVE,
    .row PWR_AX_STAT, .one INT_AXCAUSE_LO, .one INT_AXCAUSE_HI, .one MGT_LOG_STAT, .faults, .reel, .intg, .mgt, .can,
    .spi, .mods, .modg, .pwr]

/-- What `execCut` may change. -/
def Parts.cut : List Field :=
  [.regs, .waiting, .clk, .sys, .keep, .reel, .engs, .intg, .mgt, .can, .mem, .spi, .mods, .modg, .pwr, .adc, .pos,
    .mots, .chn, .drawn]

/-- What `execOtShut` may change. -/
def Parts.otShut : List Field :=
  [.one MOD_STAT, .one MOD_ILOCK_CNT, .row MOD_AX_STAT, .row MOD_AX_FORCE, .one PWR_STAT, .row PWR_AX_TRIP,
    .row PWR_AX_LIVE, .one INT_SAFE_CAUSE, .one INT_AXCAUSE_LO, .one INT_AXCAUSE_HI, .one MGT_LOG_STAT, .faults, .sys,
    .reel, .intg, .mgt, .can, .mods, .modg, .pwr]

/-- What `execReelSelect` may change. -/
def Parts.reelSelect : List Field :=
  [.one REEL_STAT, .one REEL_SLOT_A, .one REEL_SLOT_B, .row MEM_B_STAT, .row MEM_B_ECC, .row MEM_B_REPAIR,
    .one INT_DEG_CAUSE, .one MGT_FW_SLOT_A, .one MGT_FW_SLOT_B, .one MGT_LOG_STAT, .faults, .sys, .reel, .intg, .mgt,
    .can, .mem, .flash, .drawn, .cells]

/-- What `execStagingEnd` may change. -/
def Parts.stagingEnd : List Field :=
  [.one REEL_STAT, .one REEL_SLOT_A, .one REEL_SLOT_B, .one REEL_SPLICE_CNT, .row MEM_B_STAT, .row MEM_B_ECC,
    .row MEM_B_REPAIR, .one INT_DEG_CAUSE, .one MGT_FW_SLOT_A, .one MGT_FW_SLOT_B, .one MGT_LOG_STAT, .faults, .reel,
    .intg, .mgt, .can, .mem, .flash, .drawn, .cells]

/-- What `execCarrierStart` may change. -/
def Parts.carrierStart : List Field :=
  [.one MOD_STAT, .one MOD_CMT_PEND, .one MOD_ILOCK_CNT, .row MOD_AX_STAT, .row MOD_AX_FORCE, .row PWR_AX_LIVE,
    .row PWR_AX_STAT, .row PWR_AX_CNT, .one INT_AXCAUSE_LO, .one INT_AXCAUSE_HI, .one MGT_LOG_STAT, .faults, .clk, .reel,
    .intg, .mgt, .can, .mods, .modg, .pwr]

/-- What `execSentFrame` may change. -/
def Parts.sentFrame : List Field :=
  [.row POS_SN_DATA, .row POS_SN_COUNT, .row POS_SN_TIME, .row POS_SN_SER, .row POS_SN_STAT, .row POS_SN_ERR,
    .row POS_LT_POS, .row POS_LT_TIME, .row POS_LT_STAT, .row POS_CP_VAL, .row POS_CP_STAT, .one MGT_LOG_STAT, .faults,
    .reel, .intg, .mgt, .can, .pos, .mots, .drawn]

/-- What `execCrossingDeliver` may change. -/
def Parts.crossingDeliver : List Field :=
  [.one MOD_STAT, .one MOD_ILOCK_CNT, .row MOD_AX_STAT, .row MOD_AX_FORCE, .one PWR_STAT, .one PWR_THERM,
    .row PWR_AX_LIVE, .row PWR_AX_STAT, .one INT_AXCAUSE_LO, .one INT_AXCAUSE_HI, .one MGT_LOG_STAT, .faults, .reel,
    .engs, .intg, .mgt, .can, .mods, .modg, .pwr, .queues]

/-- What `execSleepEntryDone` may change. -/
def Parts.sleepEntryDone : List Field :=
  [.regs, .waiting, .latched, .clk, .sys, .reel, .engs, .intg, .mgt, .can, .mem, .spi, .mods, .modg, .pwr, .adc, .pos,
    .mots, .chn, .queues, .cells]

/-- What `execModeReqService`, `execModeReqReset`, `execModeReqSleep`, `execModeReqSafe`, `execModeReqRun`,
`execPowerOn`, `execRefAbsentReset`, `execRegulator`, `execPinReset`, `execModeReqStandby`, `execBrownout`,
`execVbatOff` may change. -/
def Parts.reset : List Field :=
  [.regs, .waiting, .latched, .clk, .sys, .keep, .reel, .engs, .intg, .mgt, .can, .mem, .spi, .mods, .modg, .pwr, .adc,
    .pos, .mots, .chn, .queues, .cells]

/-- What `execLateArrival` may change. -/
def Parts.lateArrival : List Field :=
  [.row POS_LT_STAT, .one SPI_LATE, .one SPI_HERR, .one SPI_MW_STAT, .one MEM_MB_CNT, .row MEM_B_STAT, .row MEM_B_ECC,
    .row MEM_B_REPAIR, .one INT_DEG_CAUSE, .one MGT_LOG_STAT, .faults, .latched, .clk, .reel, .intg, .mgt, .can, .mem,
    .spi, .flashFlaws, .drawn, .cells]

/-- What `execWrite`, `execCutApply`, `execWriteFix`, `execBootEnd`, `execCanRxFrame`, `execRegisterWrite` may change.
-/
def Parts.bus : List Field :=
  [.regs, .waiting, .latched, .clk, .sys, .keep, .reel, .engs, .intg, .mgt, .can, .mem, .spi, .mods, .modg, .pwr, .adc,
    .pos, .mots, .chn, .queues, .flash, .drawn, .cells]

/-- What `execReadFix`, `execRead` may change. -/
def Parts.read : List Field :=
  [.row POS_LT_STAT, .one SPI_STAT, .one SPI_LATE, .one SPI_HERR, .one SPI_MW_STAT, .one MEM_MB_CNT, .row MEM_B_STAT,
    .row MEM_B_ECC, .row MEM_B_REPAIR, .one INT_DEG_CAUSE, .one MGT_LOG_STAT, .faults, .latched, .clk, .reel, .intg,
    .mgt, .can, .mem, .spi, .chn, .flashFlaws, .drawn, .cells]

/-- What `execDaisyFrame`, `execLogRead`, `execHostHoldRelease`, `execMcRestart`, `execUpdCmd`, `execSvcRead`,
`execUpdWrite`, `execSvcWrite` may change. -/
def Parts.daisyFrame : List Field :=
  [.regs, .waiting, .latched, .clk, .sys, .keep, .reel, .engs, .intg, .mgt, .can, .mem, .spi, .mods, .modg, .pwr, .adc,
    .pos, .mots, .chn, .queues, .flash, .flashFlaws, .drawn, .cells]

/-- What `execBootStart` may change. -/
def Parts.bootStart : List Field :=
  [.one SYS_MODE, .one SYS_STAT, .one SYS_RESET, .one SYS_WAKE, .one SYS_KEEP, .one CLK_STAT, .one CLK_LPO_PER,
    .one CLK_SLEEP_LO, .one CLK_SLEEP_HI, .one MOD_STAT, .one MOD_ILOCK_CNT, .row MOD_AX_STAT, .row MOD_AX_FORCE,
    .one PWR_STAT, .row PWR_AX_LIVE, .one POS_LIM, .one CAN_IRQ, .one CAN_WAKE, .one SPI_STAT, .one SPI_HCNT,
    .one SPI_MW_STAT, .one INT_AXCAUSE_LO, .one INT_AXCAUSE_HI, .one MGT_LOG_STAT, .one CHN_STAT, .faults, .clk, .sys,
    .keep, .reel, .intg, .mgt, .can, .spi, .mods, .modg, .pwr, .chn]

/-- What `execEngineFault`, `execNoStart` may change. -/
def Parts.engineFault : List Field :=
  [.one ENG_STAT, .row ENG_E_STAT, .row ENG_E_LIST, .row ENG_E_WATCH, .row ENG_E_FETCH_CHK, .row ENG_E_MISS,
    .one MOD_STAT, .one MOD_ILOCK_CNT, .row MOD_AX_STAT, .row MOD_AX_FORCE, .row PWR_AX_LIVE, .one MEM_MB_CNT,
    .row MEM_B_STAT, .row MEM_B_ECC, .one INT_STAT, .one INT_REC, .one INT_REC_CNT, .one INT_DEG_CAUSE,
    .one INT_SAFE_CAUSE, .one INT_AXCAUSE_LO, .one INT_AXCAUSE_HI, .one INT_EVT_CNT, .row INT_EVT_A, .row INT_EVT_T,
    .one MGT_LOG_STAT, .faults, .sys, .reel, .engs, .intg, .mgt, .can, .mem, .mods, .modg, .pwr, .drawn, .cells]

/-- What `execEngineStart` may change. -/
def Parts.engineStart : List Field :=
  [.one ENG_STAT, .row ENG_E_STAT, .row ENG_E_LIST, .row ENG_E_WATCH, .row ENG_E_FETCH_CHK, .row ENG_E_CNT,
    .row ENG_E_MISS, .one MOD_STAT, .one MOD_ILOCK_CNT, .row MOD_AX_STAT, .row MOD_AX_FORCE, .row PWR_AX_LIVE,
    .one MEM_MB_CNT, .row MEM_B_STAT, .row MEM_B_ECC, .one INT_STAT, .one INT_REC, .one INT_REC_CNT, .one INT_DEG_CAUSE,
    .one INT_SAFE_CAUSE, .one INT_AXCAUSE_LO, .one INT_AXCAUSE_HI, .one INT_EVT_CNT, .row INT_EVT_A, .row INT_EVT_T,
    .one MGT_LOG_STAT, .faults, .sys, .reel, .engs, .intg, .mgt, .can, .mem, .mods, .modg, .pwr, .drawn, .cells]

/-- What `execCutClose` may change. -/
def Parts.cutClose : List Field :=
  [.one ENG_STAT, .row ENG_E_STAT, .row ENG_E_LIST, .row ENG_E_WATCH, .row ENG_E_FETCH_CHK, .row ENG_E_MISS,
    .one MOD_STAT, .one MOD_ILOCK_CNT, .row MOD_AX_STAT, .row MOD_AX_FORCE, .row PWR_AX_LIVE, .one MEM_MB_CNT,
    .row MEM_B_STAT, .row MEM_B_ECC, .one INT_STAT, .one INT_REC, .one INT_REC_CNT, .one INT_DEG_CAUSE,
    .one INT_SAFE_CAUSE, .one INT_AXCAUSE_LO, .one INT_AXCAUSE_HI, .one INT_EVT_CNT, .row INT_EVT_A, .row INT_EVT_T,
    .one MGT_LOG_STAT, .faults, .clk, .sys, .reel, .engs, .intg, .mgt, .can, .mem, .mods, .modg, .pwr, .drawn, .cells]

/-- What `execFllUnlock` may change. -/
def Parts.fllUnlock : List Field :=
  [.one CLK_STAT, .one ENG_STAT, .row ENG_E_STAT, .row ENG_E_LIST, .row ENG_E_WATCH, .row ENG_E_FETCH_CHK,
    .row ENG_E_MISS, .one MOD_STAT, .one MOD_ILOCK_CNT, .row MOD_AX_STAT, .row MOD_AX_FORCE, .row PWR_AX_LIVE,
    .one MEM_MB_CNT, .row MEM_B_STAT, .row MEM_B_ECC, .one INT_STAT, .one INT_REC, .one INT_REC_CNT, .one INT_DEG_CAUSE,
    .one INT_SAFE_CAUSE, .one INT_AXCAUSE_LO, .one INT_AXCAUSE_HI, .one INT_EVT_CNT, .row INT_EVT_A, .row INT_EVT_T,
    .one MGT_LOG_STAT, .faults, .clk, .sys, .reel, .engs, .intg, .mgt, .can, .mem, .mods, .modg, .pwr, .drawn, .cells]

/-- What `execMov`, `execAbsn`, `execMirr`, `execSel`, `execStat`, `execSetp`, `execMul`, `execDiv`, `execCmp`,
`execLdk`, `execTagm`, `execShift`, `execRot`, `execAdd`, `execAccx`, `execRamp`, `execStepi`, `execLogic`, `execPad`,
`execClamp`, `execIsqrt` may change. -/
def Parts.shot : List Field :=
  [.one CLK_CUT_ERR, .one ENG_STAT, .row ENG_E_STAT, .row ENG_E_LIST, .row ENG_E_WATCH, .row ENG_E_FETCH_CHK,
    .row ENG_E_CNT, .row ENG_E_MISS, .one MOD_STAT, .one MOD_ILOCK_CNT, .row MOD_AX_STAT, .row MOD_AX_FORCE,
    .row PWR_AX_LIVE, .one MEM_MB_CNT, .row MEM_B_STAT, .row MEM_B_ECC, .one INT_STAT, .one INT_REC, .one INT_REC_CNT,
    .one INT_DEG_CAUSE, .one INT_SAFE_CAUSE, .one INT_AXCAUSE_LO, .one INT_AXCAUSE_HI, .one INT_EVT_CNT, .row INT_EVT_A,
    .row INT_EVT_T, .one MGT_LOG_STAT, .faults, .sys, .reel, .engs, .intg, .mgt, .can, .mem, .mods, .modg, .pwr, .queues,
    .drawn, .cells]

/-- What `execObsv`, `execCami`, `execTbl`, `execBld`, `execPlan`, `execBst`, `execAcpt` may change. -/
def Parts.shotStore : List Field :=
  [.one CLK_CUT_ERR, .one ENG_STAT, .row ENG_E_STAT, .row ENG_E_LIST, .row ENG_E_WATCH, .row ENG_E_FETCH_CHK,
    .row ENG_E_CNT, .row ENG_E_MISS, .one MOD_STAT, .one MOD_ILOCK_CNT, .row MOD_AX_STAT, .row MOD_AX_FORCE,
    .row PWR_AX_LIVE, .one MEM_MB_CNT, .row MEM_B_STAT, .row MEM_B_ECC, .row MEM_B_REPAIR, .one INT_STAT, .one INT_REC,
    .one INT_REC_CNT, .one INT_DEG_CAUSE, .one INT_SAFE_CAUSE, .one INT_AXCAUSE_LO, .one INT_AXCAUSE_HI,
    .one INT_EVT_CNT, .row INT_EVT_A, .row INT_EVT_T, .one MGT_LOG_STAT, .faults, .sys, .reel, .engs, .intg, .mgt, .can,
    .mem, .mods, .modg, .pwr, .queues, .drawn, .cells]

/-- What `execDrainCheck` may change. -/
def Parts.drainCheck : List Field :=
  [.one CLK_CUT_STAT, .one CLK_CUT_ERR, .one ENG_STAT, .row ENG_E_STAT, .row ENG_E_LIST, .row ENG_E_WATCH,
    .row ENG_E_FETCH_CHK, .row ENG_E_MISS, .one MOD_STAT, .one MOD_ILOCK_CNT, .row MOD_AX_STAT, .row MOD_AX_FORCE,
    .one PWR_STAT, .one PWR_THERM, .row PWR_AX_LIVE, .row PWR_AX_STAT, .one MEM_MB_CNT, .row MEM_B_STAT, .row MEM_B_ECC,
    .one INT_STAT, .one INT_REC, .one INT_REC_CNT, .one INT_DEG_CAUSE, .one INT_SAFE_CAUSE, .one INT_AXCAUSE_LO,
    .one INT_AXCAUSE_HI, .one INT_EVT_CNT, .row INT_EVT_A, .row INT_EVT_T, .one MGT_LOG_STAT, .faults, .clk, .sys, .reel,
    .engs, .intg, .mgt, .can, .mem, .mods, .modg, .pwr, .queues, .drawn, .cells]

end Sys2Proof.Machine
end

