-- ==== Sys2Proof/Certificates/Slice0/Obligations.lean ====
section
/-!
DEFINITION. The statements about the block, each a `Prop` for the provers. `Runs i s l P` says that the command `i` at the
state `s` answers a next state in which only the parts `l` have changed and `P` holds.
-/
open Sys2Proof Sys2Proof.Machine

/-- When the slate wraps, it reads 0, EPOCH counts one more, and nothing but the clock and the interrupt pins can
change. -/
def Obligations.SlateWrapsToZero : Prop :=
  ∀ (s : State), s.powered = true → Runs .slateWrap s [.clk, .intg] (fun t => t.clk.slate = 0 ∧
    t.clk.epoch = s.clk.epoch + 1)

/-- A good window of the crystal counts toward the 1024 and ends a run of bad ones; a first bad window restarts the
count. XTAL_QUALIFIED qualifies the crystal. A crystal lost while it is the reference puts every FLL into holdover and
raises XTAL_LOST. After the loss the reference moves to the RC, and a crystal not qualified in time raises XTAL_START.
That XTAL_GOOD falls at once with the loss is the model's choice (log entry 79). -/
def Obligations.CrystalMonitorJudges : Prop :=
  (∀ (p : Nat) (s : State), s.powered = true → s.clk.xtalRun = true → 15 ≤ p → p ≤ 17 → s.clk.goodRun < 1023 →
    Runs (.xtalMonitorWindow p) s [.one CLK_STAT, .one INT_DEG_CAUSE, .one INT_SAFE_CAUSE, .one MGT_LOG_STAT, .faults,
    .clk, .sys, .reel, .intg, .mgt, .can] (fun t => t.flag CLK_STAT.XTAL_GOOD = true ∧
    t.clk.goodRun = s.clk.goodRun + 1 ∧ t.clk.badRun = 0)) ∧
  (∀ (p : Nat) (s : State), s.powered = true → s.clk.xtalRun = true → (p < 15 ∨ 17 < p) → s.clk.badRun = 0 →
    Runs (.xtalMonitorWindow p) s [.one CLK_STAT, .one INT_DEG_CAUSE, .one INT_SAFE_CAUSE, .one MGT_LOG_STAT, .faults,
    .clk, .sys, .reel, .intg, .mgt, .can] (fun t => t.flag CLK_STAT.XTAL_GOOD = false ∧ t.clk.goodRun = 0 ∧
    t.clk.badRun = 1)) ∧
  (∀ (s : State), s.powered = true → s.clk.xtalRun = true → s.flag CLK_STAT.QUALIFYING = true →
    s.flag CLK_STAT.REF_XTAL = false →
    Runs .xtalQualified s [.one CLK_STAT, .clk, .intg] (fun t => t.clk.qualified = true ∧
    t.flag CLK_STAT.QUALIFYING = false)) ∧
  (∀ (s : State), s.powered = true → s.flag CLK_STAT.REF_XTAL = true →
    Runs .xtalLost s [.one CLK_STAT, .one INT_DEG_CAUSE, .one INT_SAFE_CAUSE, .one MGT_LOG_STAT, .faults, .clk, .sys,
    .reel, .intg, .mgt, .can] (fun t => t.raised 0x0201 = true ∧ t.flag CLK_STAT.XTAL_GOOD = false ∧
    t.flag CLK_STAT.HOLDOVER = true ∧ t.clk.holdover = 0xFFE)) ∧
  (∀ (s : State), s.powered = true → s.flag CLK_STAT.REF_XTAL = true → s.flag CLK_STAT.HOLDOVER = true →
    s.clk.rcOk = true → Runs .refSwitch s [.one CLK_STAT, .one CAN_STAT, .one MGT_LOG_STAT, .faults, .reel, .intg,
    .mgt, .can] (fun t => t.flag CLK_STAT.REF_XTAL = false)) ∧
  (∀ (s : State), s.powered = true → s.flag CLK_CTRL.XTAL_EN = true → s.flag CLK_STAT.QUALIFYING = true →
    Runs .xtalStart s [.one MGT_LOG_STAT, .faults, .reel, .intg, .mgt, .can] (fun t => t.raised 0x0202 = true))

/-- An FLL of D1 to D6 that leaves its range loses its ISL_OK bit, raises FLL_UNLOCK and is a SAFE cause; one of an
engine island loses its bit and raises FLL_UNLOCK, its clock counts as faulty, and each of its running engines faults
with CLOCK, ES (D11) with 0x110A; an engine island that stands still, stopped, unused or in a mode without lists, is not
judged. An FLL that locks again gets its bit back, in D11 as in D1. A lost RC raises RC_LOST, and its return ends that.
MC and a host write start an LPO measurement, whose end gives the period and judges it. In SLEEP the sleep counter
saturates. -/
def Obligations.ClockIslandsJudged : Prop :=
  (∀ (isls : BitVec 12) (isl : Fin 12) (s : State), s.powered = true → isls.getLsbD isl = true → 1 ≤ isl.val →
    isl.val ≤ 6 → Runs (.fllUnlock isls) s Parts.fllUnlock (fun t => t.raised 0x0204 = true ∧
    t.bitOf CLK_STAT.ISL_OK isl = false ∧ t.bitOf INT_SAFE_CAUSE.CAUSE 1 = true)) ∧
  (∀ (isls : BitVec 12) (isl e : Nat) (s : State), s.powered = true → isls.getLsbD isl = true → 7 ≤ isl → isl ≤ 10 →
    isl = 7 + e / 2 → s.islandStopped isl = false → s.engState e = stRunning → s.engs.length = 9 →
    Runs (.fllUnlock isls) s Parts.fllUnlock (fun t => t.raised 0x0204 = true ∧ t.bitOf CLK_STAT.ISL_OK isl = false ∧
    t.clk.faulty.getLsbD isl = true ∧ t.engState e = stFaulted ∧ t.fld (ENG_E_STAT.CAUSE e) = 0x0A ∧
    (t.eng e).exec = false ∧ t.raised 0x040A = true)) ∧
  (∀ (isls : BitVec 12) (s : State), s.powered = true → isls.getLsbD 11 = true → s.islandStopped 11 = false →
    s.engState 8 = stRunning → s.engs.length = 9 →
    Runs (.fllUnlock isls) s Parts.fllUnlock (fun t => t.raised 0x0204 = true ∧ t.bitOf CLK_STAT.ISL_OK 11 = false ∧
    t.clk.faulty.getLsbD 11 = true ∧ t.engState 8 = stFaulted ∧ t.flag ENG_STAT.ES_OK = false ∧
    (t.eng 8).exec = false ∧ t.raised 0x110A = true)) ∧
  (∀ (isls : BitVec 12) (s : State), s.powered = true → (∀ i < 12, isls.getLsbD i = true → 7 ≤ i ∧
    s.islandStopped i = true) → Runs (.fllUnlock isls) s Parts.fllUnlock (fun t => t.regs = s.regs ∧ t.clk = s.clk ∧
    t.engs = s.engs)) ∧
  (∀ (isl : Fin 12) (s : State), s.powered = true → 1 ≤ isl.val →
    Runs (.fllRelock isl) s [.one CLK_STAT, .clk, .intg] (fun t => t.bitOf CLK_STAT.ISL_OK isl = true ∧
    t.clk.holdover = s.clk.holdover &&& ~~~(1#12 <<< isl.val))) ∧
  (∀ (s : State), s.powered = true → s.clk.rcOk = true →
    Runs .rcLost s [.one CLK_STAT, .one INT_DEG_CAUSE, .one INT_SAFE_CAUSE, .one MGT_LOG_STAT, .faults, .clk, .sys,
    .reel, .intg, .mgt, .can] (fun t => t.raised 0x0203 = true ∧ t.clk.rcOk = false)) ∧
  (∀ (s : State), s.powered = true → Runs .rcReturn s [.one INT_DEG_CAUSE, .clk, .intg] (fun t => t.clk.rcOk = true ∧
    t.bitOf INT_DEG_CAUSE.CAUSE 4 = false)) ∧
  (∀ (s : State), s.powered = true → s.sys.mode = .standby → s.mgt.mcOk = true → s.mgt.stopped = false →
    Runs .lpoMeasure s [.one CLK_STAT, .intg] (fun t => t.flag CLK_STAT.LPO_BUSY = true)) ∧
  (∀ (s : State), s.hostOpen → Runs .lpoCal s [.one CLK_STAT, .intg, .spi] (fun t => t.flag CLK_STAT.LPO_BUSY = true)) ∧
  (∀ (per : Word) (s : State), s.powered = true → s.flag CLK_STAT.LPO_BUSY = true →
    Runs (.lpoMeasureDone per) s [.one CLK_STAT, .one CLK_LPO_PER, .one MGT_LOG_STAT, .faults, .clk, .reel, .intg,
    .mgt, .can] (fun t => t.flag CLK_STAT.LPO_BUSY = false ∧ t.word CLK_LPO_PER = per ∧ t.clk.lpoOk = lpoInRange per ∧
    (lpoInRange per = false → t.raised 0x0205 = true))) ∧
  (∀ (s : State), s.sys.mode = .sleep → s.sys.inReset = false →
    Runs .sleepSat s [.keep, .intg] (fun t => t.keep.count = 0xFFFFFFFFFF ∧ t.keep.sat = true))

/-- A write of XTAL_EN 1 starts the crystal and its qualification where it was 0 (with REF still the crystal it starts
none: log entry 79, the model's choice); XTAL_EN 0 stops the crystal, or, while it is the reference, lets REF switch to
the RC; a write that changes nothing has no effect. XTAL_RETRY starts the count anew with the crystal on and REF at the
RC, and is refused with XTAL_EN 0. A frame length that no rule refuses waits for the next cut; one that a rule refuses
changes no register. A write to CLK_FAULT clears the flags it names, or none where the condition of one of them stands.
CUT_MISSED raises 0x0208; that this command raises it alone, the decode fault after it being SLATE_DECODE, is the
model's choice (log entry 99). SLATE_DECODE raises 0x0206, is a SAFE cause and makes every used axis safe. -/
def Obligations.ClockRegisterWrites : Prop :=
  (∀ (s : State), s.hostOpen → s.flag CLK_CTRL.XTAL_EN = false →
    Runs (.xtalEnable true) s [.one CLK_CTRL, .one CLK_STAT, .clk, .intg, .spi] (fun t => t.flag CLK_CTRL.XTAL_EN =
    true ∧ t.flag CLK_STAT.QUALIFYING = !s.flag CLK_STAT.REF_XTAL ∧ t.clk.xtalRun = true ∧ t.clk.goodRun = 0)) ∧
  (∀ (s : State), s.hostOpen → s.flag CLK_CTRL.XTAL_EN = true →
    Runs (.xtalEnable true) s [.one CLK_CTRL, .one CLK_STAT, .clk, .intg, .spi] (fun t => t.regs = s.regs ∧
    t.clk = s.clk)) ∧
  (∀ (s : State), s.hostOpen → s.flag CLK_CTRL.XTAL_EN = false →
    Runs (.xtalEnable false) s [.one CLK_CTRL, .one CLK_STAT, .clk, .intg, .spi] (fun t => t.regs = s.regs ∧
    t.clk = s.clk)) ∧
  (∀ (s : State), s.hostOpen → s.flag CLK_CTRL.XTAL_EN = true → s.flag CLK_STAT.REF_XTAL = false →
    Runs (.xtalEnable false) s [.one CLK_CTRL, .one CLK_STAT, .clk, .intg, .spi] (fun t => t.flag CLK_CTRL.XTAL_EN =
    false ∧ t.flag CLK_STAT.QUALIFYING = false ∧ t.flag CLK_STAT.XTAL_GOOD = false ∧ t.clk.xtalRun = false)) ∧
  (∀ (s : State), s.hostOpen → s.flag CLK_CTRL.XTAL_EN = true → s.flag CLK_STAT.REF_XTAL = true →
    Runs (.xtalEnable false) s [.one CLK_CTRL, .one CLK_STAT, .clk, .intg, .spi] (fun t => t.flag CLK_CTRL.XTAL_EN =
    false ∧ t.clk.toRc = true)) ∧
  (∀ (s : State), s.hostOpen → s.flag CLK_CTRL.XTAL_EN = true → s.flag CLK_STAT.REF_XTAL = false →
    Runs .xtalRetry s [.one CLK_STAT, .clk, .intg, .spi] (fun t => t.flag CLK_STAT.QUALIFYING = true ∧
    t.clk.goodRun = 0)) ∧
  (∀ (s : State), s.hostOpen → s.flag CLK_CTRL.XTAL_EN = true → s.flag CLK_STAT.REF_XTAL = true →
    Runs .xtalRetry s [.one CLK_STAT, .clk, .intg, .spi] (fun t => t.regs = s.regs ∧ t.clk = s.clk)) ∧
  (∀ (s : State), s.hostOpen → s.flag CLK_CTRL.XTAL_EN = false →
    Runs .xtalRetry s [.one CLK_STAT, .clk, .intg, .spi] (fun t => t.regs = s.regs ∧ t.clk = s.clk ∧
    t.spi.result = max s.spi.result 1)) ∧
  (∀ (v : Word) (s : State), s.hostOpen → s.frameLenRefused v = false →
    Runs (.frameLenWrite v) s [.waiting, .intg, .spi] (fun t => t.waiting =
    Assoc.put s.waiting CLK_FRAME_LEN (v &&& cutMask CLK_FRAME_LEN))) ∧
  (∀ (v : Word) (s : State), s.hostOpen → s.frameLenRefused v = true →
    Runs (.frameLenWrite v) s [.waiting, .intg, .spi] (fun t => t.waiting = s.waiting ∧ t.regs = s.regs ∧
    t.spi.result = max s.spi.result 1)) ∧
  (∀ (v : Word) (s : State), s.hostOpen → (∀ b < 9, s.clkCondition b = false) →
    Runs (.clkFaultClear v) s [.one CLK_FAULT, .intg, .spi] (fun t => t.word CLK_FAULT = s.word CLK_FAULT &&& ~~~v)) ∧
  (∀ (v : Word) (b : Nat) (s : State), s.hostOpen → b < 9 → v.getLsbD b = true → (s.word CLK_FAULT).getLsbD b = true →
    s.clkCondition b = true → Runs (.clkFaultClear v) s [.one CLK_FAULT, .intg, .spi] (fun t => t.regs = s.regs ∧
    t.spi.result = max s.spi.result 1)) ∧
  (∀ (s : State), s.powered = true → Runs .cutMissed s [.one MGT_LOG_STAT, .faults, .reel, .intg, .mgt,
    .can] (fun t => t.raised 0x0208 = true)) ∧
  (∀ (s : State), s.powered = true → Runs .slateDecode s [.one MOD_STAT, .row MOD_AX_STAT, .row PWR_AX_LIVE,
    .one INT_SAFE_CAUSE, .one INT_AXCAUSE_LO, .one INT_AXCAUSE_HI, .one MGT_LOG_STAT, .faults, .sys, .reel, .intg,
    .mgt, .can, .mods, .pwr] (fun t => t.raised 0x0206 = true ∧ t.bitOf INT_SAFE_CAUSE.CAUSE 2 = true ∧
    (∀ n < 12, s.axisUsed n = true → t.isSafe n = true)))

/-- At CLOSE the window begins. At the DRAIN check with no island late every queue is delivered and empty. APPLY gives a
waiting frame length its effect; takes, refuses or puts off the mode change, splice or reload that is due, by the
conditions of the moment; and hands banks over. SEAL clears queues, operand slots and input words. At the cut the frame
counter counts, and START begins, whose end lets the host in. A crossing delivers its oldest word, and a management
command word of D1 is tagged in the input area of its list, that of ES while it covers the engine. A SAFE cause takes
the device to SAFE and discards a pending request with REASON 4 (R544, R588), also from STANDBY without waiting for
banks (log entry 52); a due reload takes effect at a cut without a cover window (log entry 46); SLEEP is entered with no
cut after it (R589); the banks of a covered engine are lent (R503, R536). These log entries, which islands the check of
a late cut masks (log entry 12) and word 57 for management words (log entry 88) are the model's choices. -/
def Obligations.CutWindowPhases : Prop :=
  (∀ (s : State), s.powered = true → s.atPhase .frame = true →
    Runs .cutClose s Parts.cutClose (fun t => t.clk.phase = CutPhase.close ∧
    t.clk.slate = (s.toPhase 92 .close).clk.slate)) ∧
  (∀ (late : BitVec 12) (s : State), s.powered = true → s.atPhase .close = true → late &&& s.drains = 0#12 →
    Runs (.drainCheck late) s Parts.drainCheck (fun t => t.clk.phase = CutPhase.drained ∧ t.queues = [] ∧
    t.clk.lastLate = 0#12)) ∧
  (∀ (s : State), s.powered = true → s.atPhase .drained = true → s.sys.safeNew = 0 → s.fld SYS_MODE.PEND = 0 →
    s.reel.staged = none → s.reel.reloaded = false →
    Runs .cutApply s Parts.bus (fun t => t.clk.phase = CutPhase.applied)) ∧
  (∀ (v : Word) (s : State), s.powered = true → s.atPhase .drained = true → s.sys.safeNew = 0 →
    s.fld SYS_MODE.PEND = 0 → s.reel.staged = none → s.reel.reloaded = false → s.waiting = [(CLK_FRAME_LEN, v)] →
    Runs .cutApply s Parts.bus (fun t => t.word CLK_FRAME_LEN =
    (s.word CLK_FRAME_LEN &&& ~~~cutMask CLK_FRAME_LEN) ||| (v &&& cutMask CLK_FRAME_LEN) ∧ t.waiting = [] ∧
    t.clk.phase = CutPhase.applied)) ∧
  (∀ (r : Nat) (m : Mode) (s : State), s.powered = true → s.atPhase .drained = true → s.sys.safeNew = 0 →
    r = s.fld SYS_MODE.PEND → (r = 1 ∧ m = .standby) ∨ (r = 2 ∧ m = s.runMode) ∨ (r = 3 ∧ m = .safe) ∨ (r = 4 ∧
    m = .service) → s.modeReason r = 0 → (s.sys.mode = .standby → s.allOn = true) →
    Runs .cutApply s Parts.bus (fun t => t.sys.mode = m ∧ t.fld SYS_MODE.PEND = 0 ∧
    t.fld SYS_MODE.PREV = s.sys.mode.code ∧ t.clk.phase = CutPhase.applied)) ∧
  (∀ (s : State), s.powered = true → s.atPhase .drained = true → s.sys.safeNew = 0 → s.fld SYS_MODE.PEND ≠ 0 →
    s.modeReason (s.fld SYS_MODE.PEND) ≠ 0 → Runs .cutApply s Parts.bus (fun t => t.sys.mode = s.sys.mode ∧
    t.fld SYS_MODE.PEND = 0 ∧ t.fld SYS_MODE.REASON = s.modeReason (s.fld SYS_MODE.PEND) ∧ t.raised 0x0106 = true)) ∧
  (∀ (s : State), s.powered = true → s.atPhase .drained = true → s.sys.safeNew = 0 → s.sys.mode = .standby →
    2 ≤ s.fld SYS_MODE.PEND → s.fld SYS_MODE.PEND ≤ 4 → s.modeReason (s.fld SYS_MODE.PEND) = 0 → s.allOn = false →
    Runs .cutApply s Parts.bus (fun t => t.sys.mode = .standby ∧ t.fld SYS_MODE.PEND = s.fld SYS_MODE.PEND ∧
    t.flag CLK_CUT_STAT.APPLY_WAIT = true)) ∧
  (∀ (s : State), s.powered = true → s.atPhase .drained = true → s.sys.safeNew ≠ 0 →
    s.sys.mode = .standby ∨ s.sys.mode = .run ∨ s.sys.mode = .degraded ∨ s.sys.mode = .service →
    Runs .cutApply s Parts.bus (fun t => t.sys.mode = .safe ∧ t.fld SYS_MODE.PREV = s.sys.mode.code ∧
    t.fld SYS_MODE.PEND = 0 ∧ (s.fld SYS_MODE.PEND ≠ 0 → t.fld SYS_MODE.REASON = 4 ∧ t.raised 0x0106 = true))) ∧
  (∀ (s : State), s.powered = true → s.atPhase .drained = true → s.sys.safeNew = 0 → s.fld SYS_MODE.PEND = 5 →
    s.modeReason 5 = 0 → s.mgt.queue = [] → Runs .cutApply s Parts.bus (fun t => t.sys.mode = .sleep ∧
    t.sys.sleepEntry = true ∧ t.fld SYS_MODE.PEND = 0 ∧ t.clk.cutsOn = false)) ∧
  (∀ (c : Copy) (st : Struct) (s : State), s.powered = true → s.atPhase .drained = true → s.sys.safeNew = 0 →
    s.fld SYS_MODE.PEND = 0 → s.reel.staged = some (c, st) → s.waiting = [] → s.sys.mode ≠ .standby →
    s.spliceFault c.hdr = 0 → s.switchHeld = false → s.spliceWait = 0 → c.regInit = [] →
    (∀ n < 12, Tbl.get [] c.axisParam n = []) → Runs .cutApply s Parts.bus (fun t => t.reel.active = c ∧
    t.reel.staged = none ∧ t.reel.struct = s.reel.struct ∧ t.fld REEL_STAT.SPLICE_STATE = 3 ∧
    t.fld REEL_STAT.ACTIVE_SLOT = s.fld REEL_SPLICE.SLOT ∧ t.fld REEL_STAT.ACTIVE_TAKE = c.hdr.take.toNat ∧
    t.reel.toTrial = some (s.fld REEL_SPLICE.SLOT) ∧ t.word REEL_STATE_SIG = c.hdr.stateSig)) ∧
  (∀ (c : Copy) (st : Struct) (s : State), s.powered = true → s.atPhase .drained = true → s.sys.safeNew = 0 →
    s.fld SYS_MODE.PEND = 0 → s.reel.staged = some (c, st) → s.waiting = [] → s.spliceFault c.hdr ≠ 0 →
    Runs .cutApply s Parts.bus (fun t => t.reel.active = s.reel.active ∧ t.reel.staged = none ∧
    t.fld REEL_STAT.SPLICE_STATE = 4 ∧ t.fld REEL_STAT.REASON = s.spliceFault c.hdr ∧ t.raised 0x030C = true)) ∧
  (∀ (c : Copy) (st : Struct) (s : State), s.powered = true → s.atPhase .drained = true → s.sys.safeNew = 0 →
    s.fld SYS_MODE.PEND = 0 → s.reel.staged = some (c, st) → s.waiting = [] → s.spliceFault c.hdr = 0 →
    s.switchHeld = true ∨ s.spliceWait ≠ 0 → Runs .cutApply s Parts.bus (fun t => t.reel.active = s.reel.active ∧
    t.reel.staged = some (c, st) ∧ t.fld REEL_STAT.SPLICE_STATE = s.fld REEL_STAT.SPLICE_STATE ∧
    t.flag CLK_CUT_STAT.APPLY_WAIT = true)) ∧
  (∀ (s : State), s.powered = true → s.atPhase .drained = true → s.sys.safeNew = 0 → s.fld SYS_MODE.PEND = 0 →
    s.reel.staged = none → s.reel.reloaded = true → s.switchHeld = false → s.waiting = [] →
    s.reel.active.regInit = [] → (∀ n < 12, Tbl.get [] s.reel.active.axisParam n = []) →
    Runs .cutApply s Parts.bus (fun t => t.reel.reloaded = false ∧ t.reel.active = s.reel.active ∧
    t.fld REEL_STAT.IMAGE = s.otherImage ∧
    t.fld REEL_CHECK.MISMATCH = min (s.fld REEL_CHECK.MISMATCH + 1) (2 ^ REEL_CHECK.MISMATCH.w - 1))) ∧
  (∀ (b : Fin 17) (v : Word) (s : State), s.powered = true → s.atPhase .drained = true → s.sys.safeNew = 0 →
    s.fld SYS_MODE.PEND = 0 → s.reel.staged = none → s.reel.reloaded = false → s.intg.takeover = none →
    s.flag INT_REC.VALID = false → s.waiting = [(MEM_B_OWN b, v)] →
    Runs .cutApply s Parts.bus (fun t => t.word (MEM_B_OWN b) =
    (s.word (MEM_B_OWN b) &&& ~~~cutMask (MEM_B_OWN b)) ||| (v &&& cutMask (MEM_B_OWN b)) ∧ t.waiting = [])) ∧
  (∀ (e : Nat) (s : State), s.powered = true → s.atPhase .drained = true → s.sys.safeNew = 0 →
    s.fld SYS_MODE.PEND = 0 → s.reel.staged = none → s.reel.reloaded = false → s.intg.takeover = some e →
    s.waiting = [] → Runs .cutApply s Parts.bus (fun t => (∀ b < 17, s.fld (MEM_B_OWN.OWNER b) = engIsland e →
    t.flag (MEM_B_STAT.LENT b) = true))) ∧
  (∀ (s : State), s.powered = true → s.atPhase .applied = true → s.engs.length = 9 →
    Runs .cutSeal s [.row ENG_E_CNT, .row ENG_E_MISS, .clk, .engs, .intg, .pos, .queues] (fun t => t.clk.phase =
    CutPhase.sealed ∧ t.queues = [] ∧ (∀ e < 9, (t.eng e).ops = List.replicate 32 0 ∧
    (t.eng e).inp = List.replicate 64 ({} : InWord) ∧ (t.eng e).acc = 0))) ∧
  (∀ (s : State), s.powered = true → s.atPhase .sealed = true →
    Runs .cut s Parts.cut (fun t => t.clk.phase = CutPhase.start ∧ t.clk.frames = s.clk.frames + 1 ∧
    t.clk.lastCut = (s.advanceTo s.clk.nextCut).clk.slate)) ∧
  (∀ (s : State), s.powered = true → s.atPhase .start = true → s.spi.held = [] → s.spi.writes = [] →
    s.can.heldRegs = [] → s.can.svc = none → s.spi.frame = none →
    Runs .hostHoldRelease s Parts.daisyFrame (fun t => t.clk.phase = CutPhase.frame ∧
    t.clk.slate = (s.advanceTo (s.clk.lastCut + 4)).clk.slate)) ∧
  (∀ (x : Xing) (e b : Nat) (a : Half) (rest : List Msg) (s : State), s.powered = true →
    s.queue x = .endWord e a b :: rest → x.dst = 6 →
    Runs (.crossingDeliver (.oldest x)) s Parts.crossingDeliver (fun t => t.queue x = rest ∧
    t.intg.endD6 = s.intg.endD6 ||| (1#9 <<< e))) ∧
  (∀ (x : Xing) (e i : Nat) (w : Word) (rest : List Msg) (s : State), s.powered = true → s.engs.length = 9 →
    (s.eng e).inp.length = 64 → e < 9 → i < 64 → x.dst = 10 + e → s.queue x = .input i w :: rest →
    Runs (.crossingDeliver (.oldest x)) s Parts.crossingDeliver (fun t => t.queue x = rest ∧
    Tbl.get {} (t.eng e).inp i = { w := w, tag := true })) ∧
  (∀ (e : Fin 8) (w : Word) (s : State), s.powered = true → s.engs.length = 9 → (s.eng e).inp.length = 64 →
    s.covering = false → Runs (.crossingDeliver (.mgmt e w)) s Parts.crossingDeliver (fun t =>
    Tbl.get {} (t.eng e).inp 57 = { w := w, tag := true } ∧ t.queues = s.queues)) ∧
  (∀ (e : Fin 8) (w : Word) (s : State), s.powered = true → s.engs.length = 9 → (s.eng 8).inp.length = 64 →
    s.covering = true → s.fld ENG_STAT.ES_COVER = e.val →
    Runs (.crossingDeliver (.mgmt e w)) s Parts.crossingDeliver (fun t => Tbl.get {} (t.eng 8).inp 57 =
    { w := w, tag := true } ∧ t.eng e = s.eng e))

/-- A fault of a running engine shows its code in ENG_En_STAT.CAUSE, raises it, ends the list and counts. With ES ready
and no recovery open it also raises TAKEOVER and opens a recovery window: INT_STAT.WINDOW reads 1, the takeover waits
for the first cut, and INT_REC changes there: that cut shows the engine COVERED, ES busy with it, and in INT_REC the
engine, VALID, PHASE 1, four window frames and its axes. With a window open, or ES not ready, the engine is parked
instead, with PARK raised. A fault of ES that covers no engine raises ES_LOST and clears ES_OK. Of two engines that
fault in one D1 cycle the lower-numbered one is taken over and the other parked. A list that has begun no shot in time
faults with NO_START. -/
def Obligations.EngineFaultTakesOver : Prop :=
  (∀ (e : Fin 9) (c : Fin 11) (s : State), s.powered = true → s.sys.mode.lists = true → e.val < 8 →
    s.engState e = stRunning → s.engs.length = 9 → (s.eng e).undo = none → s.flag INT_STAT.WINDOW = false →
    s.covering = false → s.flag ENG_STAT.ES_OK = true →
    Runs (.engineFault e ⟨.fault c, []⟩) s Parts.engineFault (fun t => t.raised (0x0400 + (c.val + 1)) = true ∧
    t.fld (ENG_E_STAT.CAUSE e) = (c.val + 1) ∧ t.engState e = stFaulted ∧ (t.eng e).exec = false ∧
    t.fld (ENG_E_MISS.FAULTS e) = min (s.fld (ENG_E_MISS.FAULTS e) + 1) 0xFFFF ∧ t.raised 0x0F01 = true ∧
    t.intg.takeover = some e.val ∧ t.intg.recAxes = s.axesOf e ∧ t.flag INT_STAT.WINDOW = true ∧
    t.word INT_REC = s.word INT_REC ∧ t.fld INT_REC_CNT.TAKEOVERS = min (s.fld INT_REC_CNT.TAKEOVERS + 1) 0xFF ∧
    (∀ k < 9, k ≠ e.val → t.eng k = s.eng k))) ∧
  (∀ (e : Fin 9) (c : Fin 11) (s : State), s.powered = true → s.sys.mode.lists = true → e.val < 8 →
    s.engState e = stRunning → s.engs.length = 9 → (s.eng e).undo = none →
    s.flag INT_STAT.WINDOW = true ∨ s.covering = true ∨ s.flag ENG_STAT.ES_OK = false →
    Runs (.engineFault e ⟨.fault c, []⟩) s Parts.engineFault (fun t => t.raised (0x0400 + (c.val + 1)) = true ∧
    t.fld (ENG_E_STAT.CAUSE e) = (c.val + 1) ∧ t.engState e = stFaulted ∧ (t.eng e).exec = false ∧
    t.fld (ENG_E_MISS.FAULTS e) = min (s.fld (ENG_E_MISS.FAULTS e) + 1) 0xFFFF ∧ t.bitOf INT_STAT.PARKED e = true ∧
    t.raised 0x0F02 = true ∧ t.intg.takeover = s.intg.takeover ∧ (∀ k < 9, k ≠ e.val → t.eng k = s.eng k))) ∧
  (∀ (e : Fin 9) (c : Fin 11) (s : State), s.powered = true → s.sys.mode.lists = true → e.val = 8 →
    s.engState 8 = stRunning → s.engs.length = 9 → (s.eng 8).undo = none → s.flag INT_STAT.WINDOW = false →
    s.covering = false → Runs (.engineFault e ⟨.fault c, []⟩) s Parts.engineFault (fun t =>
    t.raised (0x1100 + (c.val + 1)) = true ∧ t.fld (ENG_E_STAT.CAUSE 8) = c.val + 1 ∧ t.engState 8 = stFaulted ∧
    (t.eng 8).exec = false ∧ t.flag ENG_STAT.ES_OK = false ∧ t.raised 0x0F08 = true ∧ (∀ k < 9, k ≠ e.val →
    t.eng k = s.eng k))) ∧
  (∀ (e e2 : Fin 9) (c c2 : Fin 11) (s : State), s.powered = true → s.sys.mode.lists = true → e.val < 8 →
    s.engState e = stRunning → s.engs.length = 9 → (s.eng e).undo = none → e2.val < e.val →
    s.engState e2 = stRunning → s.intg.takeover = none → (s.eng e2).undo = none → s.flag INT_STAT.WINDOW = false →
    s.covering = false → s.flag ENG_STAT.ES_OK = true →
    Runs (.engineFault e ⟨.fault c, [(e2, .fault c2)]⟩) s Parts.engineFault (fun t => t.intg.takeover = some e2.val ∧
    t.engState e2 = stFaulted ∧ t.engState e = stFaulted ∧ t.fld (ENG_E_STAT.CAUSE e) = c.val + 1 ∧
    t.fld (ENG_E_STAT.CAUSE e2) = c2.val + 1 ∧ (t.eng e).exec = false ∧ (t.eng e2).exec = false ∧
    t.flag INT_STAT.WINDOW = true ∧ t.bitOf INT_STAT.PARKED e = true ∧ t.raised (0x0401 + c.val) = true ∧
    t.raised (0x0401 + c2.val) = true ∧ (∀ k < 9, k ≠ e.val → k ≠ e2.val → t.eng k = s.eng k))) ∧
  (∀ (e : Fin 9) (s : State), s.powered = true → e.val < 8 → s.engs.length = 9 → s.clk.cutsOn = true →
    s.clk.phase = .start → s.sys.mode.lists = true → (s.eng e).started = false → s.engState e = stRunning →
    (s.eng e).undo = none → s.flag INT_STAT.WINDOW = false → s.covering = false → s.flag ENG_STAT.ES_OK = true →
    Runs (.noStart e) s Parts.engineFault (fun t => t.raised (0x0400 + 9) = true ∧ t.fld (ENG_E_STAT.CAUSE e) = 9 ∧
    t.engState e = stFaulted ∧ (t.eng e).exec = false ∧
    t.fld (ENG_E_MISS.FAULTS e) = min (s.fld (ENG_E_MISS.FAULTS e) + 1) 0xFFFF ∧ t.raised 0x0F01 = true ∧
    t.intg.takeover = some e.val ∧ t.intg.recAxes = s.axesOf e ∧ t.flag INT_STAT.WINDOW = true ∧
    t.word INT_REC = s.word INT_REC ∧ t.fld INT_REC_CNT.TAKEOVERS = min (s.fld INT_REC_CNT.TAKEOVERS + 1) 0xFF ∧
    t.word (ENG_E_WATCH e) = 0 ∧ (∀ k < 9, k ≠ e.val → t.eng k = s.eng k))) ∧
  (∀ (e : Nat) (s : State), s.powered = true → s.atPhase .sealed = true → s.intg.takeover = some e → e < 8 →
    s.sys.mode.lists = true → s.sys.cutFrom = none → s.sys.safeNew = 0 →
    Runs .cut s Parts.cut (fun t => t.engState e = stCovered ∧ t.intg.takeover = none ∧
    t.flag ENG_STAT.ES_BUSY = true ∧ t.fld ENG_STAT.ES_COVER = e ∧ t.bitOf INT_DEG_CAUSE.CAUSE 0 = true ∧
    t.fld INT_REC.ENGINE = e ∧ t.flag INT_REC.VALID = true ∧ t.fld INT_REC.PHASE = 1 ∧ t.fld INT_REC.WFRAMES = 4 ∧
    t.fld INT_REC.AXES = s.intg.recAxes.toNat))

/-- An engine that runs in the frame starts its list with its counts at 0. FORCE and FORCE_ES make an engine fault at
its next START, RESTORE asks for the return of a covered engine, and the end of the reload makes its test due. -/
def Obligations.EngineRecoveryRequests : Prop :=
  (∀ (e : Fin 9) (lo hi : Ecc) (s : State), s.powered = true → e.val < 8 → s.engs.length = 9 → s.clk.cutsOn = true →
    s.clk.phase = .start → s.sys.mode.lists = true → s.engState e = stRunning → (s.eng e).started = false →
    (s.eng e).force = false → lo ≠ .uncorr → hi ≠ .uncorr →
    Runs (.engineStart ⟨e, lo, hi⟩) s Parts.engineStart (fun t => (t.eng e).exec = true ∧ (t.eng e).started = true ∧
    (t.eng e).shots = 0 ∧ (t.eng e).cycles = 0 ∧ (∀ k < 9, k ≠ e.val → t.eng k = s.eng k))) ∧
  (∀ (m : BitVec 8) (s : State), s.hostOpen → s.sys.mode = .service → s.engs.length = 9 →
    (∀ e < 8, s.engState e ≠ stUnused) → Runs (.force m) s [.engs, .intg, .spi] (fun t => (∀ e < 8, m.getLsbD e =
    true → (t.eng e).force = true))) ∧
  (∀ (s : State), s.hostOpen → s.sys.mode = .service → s.engs.length = 9 → s.covering = true →
    Runs .forceEs s [.engs, .intg, .spi] (fun t => (t.eng 8).force = true)) ∧
  (∀ (m : BitVec 8) (s : State), s.hostOpen → (∀ e < 8, m.getLsbD e = true → s.engState e = stCovered) → m ≠ 0#8 →
    Runs (.restore m) s [.engs, .intg, .spi] (fun t => t.intg.restoreReq = (List.range 8).find? (fun e =>
    m.getLsbD e))) ∧
  (∀ (s : State), s.powered = true → s.flag INT_REC.VALID = true → s.engState (s.fld INT_REC.ENGINE) = stReturning →
    s.engs.length = 9 → s.fld INT_REC.ENGINE < 9 →
    Runs .returnReloadDone s [.engs, .intg] (fun t => (t.eng (s.fld INT_REC.ENGINE)).reloaded = true))

/-- Of one candidate (GOOD, with a header whose HDR_CRC and FORMAT hold) that passes R88, BOOT loads the reel: its copy
is the active one, and slot and take are shown. Of two, the one of the newer take by R41 is loaded, else slot A; at a
wake the slot that was active at SLEEP entry. An integrity failure makes the slot REJECTED and raises its code, and the
other candidate is loaded, or NO_REEL raised; a content failure raises its code, leaves the slot as it was, and BOOT
stands still. A TRIAL slot becomes REJECTED with TRIAL_REJECT. BOOT_END, with a reel loaded whose registers take their
values, shows the frame length of the take and starts the cuts; one that a register refuses raises 0x0309 and BOOT
stands still; where a copy does not read back with its check, the slot becomes REJECTED with 0x0305 and the other
candidate is loaded, or none. Flash without read errors is a hypothesis of the selection. -/
def Obligations.ReelSelectedAtBoot : Prop :=
  (∀ (k : Fin 2) (s : State), s.powered = true → s.sys.boot = .firmware → s.flashFlaws = [] →
    (∀ j < 2, s.slotState j ≠ slTrial) → s.slotState k = slGood → s.headOk k = true →
    s.slotState (1 - k.val) ≠ slGood ∨ s.headOk (1 - k.val) = false →
    (((s.verifyReel k).toOption.map fun c => ((s.loadTables c.copy 0).tablesOk c.copy 0).1) = some true) →
    Runs .reelSelect s Parts.reelSelect (fun t => t.sys.boot = .reel ∧
    (s.verifyReel k).toOption.map (fun c => (c.copy, c.struct, c.copy.hdr.take.toNat)) = some (t.reel.active,
    t.reel.struct, t.fld REEL_STAT.ACTIVE_TAKE) ∧ t.fld REEL_STAT.ACTIVE_SLOT = k ∧ t.fld REEL_STAT.IMAGE = 0)) ∧
  (∀ (k d : Nat) (s : State), s.powered = true → s.sys.boot = .firmware → s.flashFlaws = [] →
    (∀ j < 2, s.slotState j ≠ slTrial) → s.sys.wake = false → s.slotState 0 = slGood → s.headOk 0 = true →
    s.slotState 1 = slGood → s.headOk 1 = true →
    d = (BitVec.ofNat 16 (le16 (s.slotHead 1) 8) - BitVec.ofNat 16 (le16 (s.slotHead 0) 8)).toNat → (k = if 1 ≤ d ∧
    d ≤ 0x7FFF then 1 else 0) → Runs .reelSelect s Parts.reelSelect (fun t => (((s.verifyReel k).toOption.map fun c =>
    ((s.loadTables c.copy 0).tablesOk c.copy 0).1) = some true → t.sys.boot = .reel ∧
    (s.verifyReel k).toOption.map (fun c => (c.copy, c.struct, c.copy.hdr.take.toNat)) = some (t.reel.active,
    t.reel.struct, t.fld REEL_STAT.ACTIVE_TAKE) ∧ t.fld REEL_STAT.ACTIVE_SLOT = k ∧ t.fld REEL_STAT.IMAGE = 0))) ∧
  (∀ (k : Nat) (s : State), s.powered = true → s.sys.boot = .firmware → s.flashFlaws = [] →
    (∀ j < 2, s.slotState j ≠ slTrial) → s.sys.wake = true → s.keep.slot = k → k < 2 → s.slotState 0 = slGood →
    s.headOk 0 = true → s.slotState 1 = slGood → s.headOk 1 = true →
    Runs .reelSelect s Parts.reelSelect (fun t => (((s.verifyReel k).toOption.map fun c =>
    ((s.loadTables c.copy 0).tablesOk c.copy 0).1) = some true → t.sys.boot = .reel ∧
    (s.verifyReel k).toOption.map (fun c => (c.copy, c.struct, c.copy.hdr.take.toNat)) = some (t.reel.active,
    t.reel.struct, t.fld REEL_STAT.ACTIVE_TAKE) ∧ t.fld REEL_STAT.ACTIVE_SLOT = k ∧ t.fld REEL_STAT.IMAGE = 0))) ∧
  (∀ (k : Fin 2) (code : Nat) (s : State), s.powered = true → s.sys.boot = .firmware → s.flashFlaws = [] →
    (∀ j < 2, s.slotState j ≠ slTrial) → Store.wf (fun _ => (0xFF : Byte)) s.flash = true → s.slotState k = slGood →
    s.headOk k = true → s.slotState (1 - k.val) ≠ slGood ∨ s.headOk (1 - k.val) = false →
    s.reelFault k = some (code, true) → Runs .reelSelect s Parts.reelSelect (fun t => t.slotState k = slRejected ∧
    t.raised code = true ∧ t.raised 0x0301 = true ∧ t.sys.boot = .stuck)) ∧
  (∀ (k d code : Nat) (s : State), s.powered = true → s.sys.boot = .firmware → s.flashFlaws = [] →
    (∀ j < 2, s.slotState j ≠ slTrial) → Store.wf (fun _ => (0xFF : Byte)) s.flash = true → s.sys.wake = false →
    s.slotState 0 = slGood → s.headOk 0 = true → s.slotState 1 = slGood → s.headOk 1 = true →
    d = (BitVec.ofNat 16 (le16 (s.slotHead 1) 8) - BitVec.ofNat 16 (le16 (s.slotHead 0) 8)).toNat → (k = if 1 ≤ d ∧
    d ≤ 0x7FFF then 1 else 0) → s.reelFault k = some (code, true) →
    (((s.verifyReel (1 - k)).toOption.map fun c => ((s.loadTables c.copy 0).tablesOk c.copy 0).1) = some true) →
    Runs .reelSelect s Parts.reelSelect (fun t => t.slotState k = slRejected ∧ t.raised code = true ∧
    t.sys.boot = .reel ∧ (s.verifyReel (1 - k)).toOption.map (fun c => (c.copy, c.struct, c.copy.hdr.take.toNat)) =
    some (t.reel.active, t.reel.struct, t.fld REEL_STAT.ACTIVE_TAKE) ∧ t.fld REEL_STAT.ACTIVE_SLOT = (1 - k) ∧
    t.fld REEL_STAT.IMAGE = 0)) ∧
  (∀ (k : Fin 2) (s : State), s.powered = true → s.sys.boot = .firmware → s.flashFlaws = [] →
    (∀ j < 2, s.slotState j ≠ slTrial) → s.slotState k = slGood → s.headOk k = true →
    s.slotState (1 - k.val) ≠ slGood ∨ s.headOk (1 - k.val) = false →
    Runs .reelSelect s Parts.reelSelect (fun t => ((s.reelFault k).map Prod.snd = some false → t.sys.boot = .stuck ∧
    t.slotState k = s.slotState k ∧ t.flash = s.flash) ∧
    (∀ code ∈ [0x0307, 0x0308, 0x0309, 0x030A, 0x030B], s.reelFault k = some (code, false) → t.raised code = true))) ∧
  (∀ (k : Fin 2) (s : State), s.powered = true → s.sys.boot = .firmware →
    Store.wf (fun _ => (0xFF : Byte)) s.flash = true → s.slotState k = slTrial →
    Runs .reelSelect s Parts.reelSelect (fun t => t.slotState k = slRejected ∧ t.raised 0x0310 = true)) ∧
  (∀ (s : State), s.powered = true → s.sys.boot = .firmware → (∀ k < 2, s.slotState k ≠ slGood ∧
    s.slotState k ≠ slTrial) → Runs .reelSelect s Parts.reelSelect (fun t => t.sys.boot = .stuck ∧
    t.raised 0x0301 = true)) ∧
  (∀ (late : Nat) (s : State), s.powered = true → s.sys.boot = .reel → (s.bootLoad.loadRegs false).1 = true →
    Runs (.bootEnd ⟨late, false⟩) s Parts.bus (fun t => t.sys.boot = .ended ∧ t.clk.cutsOn = true ∧
    t.fld CLK_FRAME_LEN.LEN = s.reel.active.hdr.frameLen % 2 ^ CLK_FRAME_LEN.LEN.w ∧ t.reel.active = s.reel.active)) ∧
  (∀ (late : Nat) (s : State), s.powered = true → s.sys.boot = .reel → (s.bootLoad.loadRegs false).1 = false →
    Runs (.bootEnd ⟨late, false⟩) s Parts.bus (fun t => t.sys.boot = .stuck ∧ t.raised 0x0309 = true)) ∧
  (∀ (late k : Nat) (s : State), s.powered = true → s.sys.boot = .reel → s.flashFlaws = [] →
    Store.wf (fun _ => (0xFF : Byte)) s.flash = true → k = s.activeReel → s.slotState k = slGood →
    s.slotState (1 - k) ≠ slGood ∨ s.headOk (1 - k) = false →
    Runs (.bootEnd ⟨late, true⟩) s Parts.bus (fun t => t.slotState k = slRejected ∧ t.raised 0x0305 = true ∧
    t.raised 0x0301 = true ∧ t.sys.boot = .stuck)) ∧
  (∀ (late k : Nat) (s : State), s.powered = true → s.sys.boot = .reel → s.flashFlaws = [] →
    Store.wf (fun _ => (0xFF : Byte)) s.flash = true → k = s.activeReel → s.slotState k = slGood →
    s.slotState (1 - k) = slGood → s.headOk (1 - k) = true →
    Runs (.bootEnd ⟨late, true⟩) s Parts.bus (fun t => t.slotState k = slRejected ∧ t.raised 0x0305 = true ∧
    (((s.verifyReel (1 - k)).toOption.map fun c => ((s.loadTables c.copy 0).tablesOk c.copy 0).1) = some true →
    t.sys.boot = .reel ∧ (s.verifyReel (1 - k)).toOption.map (fun c => (c.copy, c.struct, c.copy.hdr.take.toNat)) =
    some (t.reel.active, t.reel.struct, t.fld REEL_STAT.ACTIVE_TAKE) ∧ t.fld REEL_STAT.ACTIVE_SLOT = (1 - k) ∧
    t.fld REEL_STAT.IMAGE = 0)))

/-- A REEL_SPLICE write that no reason forbids starts STAGING, and one with a reason ends in REFUSED with it and
SPLICE_REFUSED; during a splice, or with TAKE 0, the write is refused and changes no register. Staging ends ARMED or
REFUSED. A staged copy that no longer reads back refuses the splice, and CANCEL refuses it with 0x0D. -/
def Obligations.SpliceStagesOrRefuses : Prop :=
  (∀ (v : Word) (s : State), s.hostOpen → s.splicing = false → REEL_SPLICE.TAKE.of v ≠ 0 →
    s.spliceReason (v &&& rwMask REEL_SPLICE) = 0 →
    Runs (.reelSplice v) s [.one REEL_STAT, .one REEL_SPLICE, .one REEL_SPLICE_CNT, .one MGT_LOG_STAT, .faults, .reel,
    .intg, .mgt, .can, .spi] (fun t => t.fld REEL_STAT.SPLICE_STATE = 1)) ∧
  (∀ (v : Word) (s : State), s.hostOpen → s.splicing = false → REEL_SPLICE.TAKE.of v ≠ 0 →
    s.spliceReason (v &&& rwMask REEL_SPLICE) ≠ 0 →
    Runs (.reelSplice v) s [.one REEL_STAT, .one REEL_SPLICE, .one REEL_SPLICE_CNT, .one MGT_LOG_STAT, .faults, .reel,
    .intg, .mgt, .can, .spi] (fun t => t.fld REEL_STAT.SPLICE_STATE = 4 ∧
    t.fld REEL_STAT.REASON = s.spliceReason (v &&& rwMask REEL_SPLICE) ∧ t.raised 0x030C = true)) ∧
  (∀ (v : Word) (s : State), s.hostOpen → s.splicing = true ∨ REEL_SPLICE.TAKE.of v = 0 →
    Runs (.reelSplice v) s [.one REEL_STAT, .one REEL_SPLICE, .one REEL_SPLICE_CNT, .one MGT_LOG_STAT, .faults, .reel,
    .intg, .mgt, .can, .spi] (fun t => t.regs = s.regs ∧ t.reel = s.reel ∧ t.spi.result = max s.spi.result 1)) ∧
  (∀ (bad : Bool) (s : State), s.powered = true → s.mgt.mcOk = true → s.mgt.stopped = false →
    s.fld REEL_STAT.SPLICE_STATE = 1 →
    Runs (.stagingEnd bad) s Parts.stagingEnd (fun t => ((t.fld REEL_STAT.SPLICE_STATE = 2 ∧
    t.reel.staged.isSome = true) ∨ (t.fld REEL_STAT.SPLICE_STATE = 4 ∧ t.raised 0x030C = true)))) ∧
  (∀ (s : State), s.powered = true → s.mgt.mcOk = true → s.mgt.stopped = false → s.reel.repairCheck = true →
    s.reel.staged.isSome = true → Runs (.stagedRecheck true) s [.one REEL_STAT, .one REEL_SPLICE_CNT, .row MEM_B_STAT,
    .row MEM_B_ECC, .row MEM_B_REPAIR, .one INT_DEG_CAUSE, .one MGT_LOG_STAT, .faults, .reel, .intg, .mgt, .can, .mem,
    .drawn] (fun t => t.fld REEL_STAT.SPLICE_STATE = 4 ∧ t.fld REEL_STAT.REASON = 0x0B ∧ t.raised 0x030D = true)) ∧
  (∀ (s : State), s.powered = true → s.mgt.mcOk = true → s.mgt.stopped = false → s.reel.repairCheck = true →
    s.reel.staged = none → Runs (.stagedRecheck true) s [.one REEL_STAT, .one REEL_SPLICE_CNT, .row MEM_B_STAT,
    .row MEM_B_ECC, .row MEM_B_REPAIR, .one INT_DEG_CAUSE, .one MGT_LOG_STAT, .faults, .reel, .intg, .mgt, .can, .mem,
    .drawn] (fun t => t.reel.reloading = true ∧ t.reel.repairCheck = false)) ∧
  (∀ (s : State), s.hostOpen → s.splicing = true →
    Runs .cancel s [.one REEL_STAT, .one REEL_SLOT_A, .one REEL_SLOT_B, .one REEL_SPLICE_CNT, .one MGT_FW_SLOT_A,
    .one MGT_FW_SLOT_B, .one MGT_LOG_STAT, .faults, .reel, .intg, .mgt, .can, .spi, .flash] (fun t =>
    t.fld REEL_STAT.SPLICE_STATE = 4 ∧ t.fld REEL_STAT.REASON = 0x0D ∧ t.raised 0x030C = true))

/-- CONFIRM or the trial frames end a trial with the slot GOOD; MC starts a trial by programming the slot, A or B.
RECHECK asks for a pass over the loaded sections, a pass with a mismatch, in any mode from STANDBY to SERVICE, is
counted, raises LOADED_CRC and starts a reload, and the end of a good reload leaves the copies to be switched to. -/
def Obligations.TrialEnds : Prop :=
  (∀ (s : State), s.hostOpen → s.flag REEL_STAT.TRIAL = true → Store.wf (fun _ => (0xFF : Byte)) s.flash = true →
    s.slotState s.activeReel = slTrial →
    Runs .confirm s [.one REEL_STAT, .one REEL_SLOT_A, .one REEL_SLOT_B, .one REEL_SPLICE_CNT, .one MGT_FW_SLOT_A,
    .one MGT_FW_SLOT_B, .one MGT_LOG_STAT, .faults, .reel, .intg, .mgt, .can, .spi, .flash] (fun t =>
    t.flag REEL_STAT.TRIAL = false ∧ t.slotState s.activeReel = slGood ∧ t.reel.fallbackWait = false)) ∧
  (∀ (s : State), s.hostOpen → s.flag REEL_STAT.TRIAL = true →
    Runs .confirm s [.one REEL_STAT, .one REEL_SLOT_A, .one REEL_SLOT_B, .one REEL_SPLICE_CNT, .one MGT_FW_SLOT_A,
    .one MGT_FW_SLOT_B, .one MGT_LOG_STAT, .faults, .reel, .intg, .mgt, .can, .spi, .flash] (fun t =>
    t.flag REEL_STAT.TRIAL = false ∧ t.reel.fallbackWait = false)) ∧
  (∀ (s : State), s.hostOpen → Runs .recheck s [.one REEL_STAT, .one REEL_SLOT_A, .one REEL_SLOT_B,
    .one REEL_SPLICE_CNT, .one MGT_FW_SLOT_A, .one MGT_FW_SLOT_B, .one MGT_LOG_STAT, .faults, .reel, .intg, .mgt,
    .can, .spi, .flash] (fun t => t.reel.rechecking = true)) ∧
  (∀ (s : State), s.powered = true → s.mgt.mcOk = true → s.mgt.stopped = false → s.reel.toTrial = some 1 →
    s.reel.toReject = none → s.slotState 1 = slVerified → Store.wf (fun _ => (0xFF : Byte)) s.flash = true →
    Runs .trialProgram s [.one REEL_STAT, .one REEL_SLOT_A, .one REEL_SLOT_B, .one MGT_FW_SLOT_A, .one MGT_FW_SLOT_B,
    .reel, .intg, .flash] (fun t => t.flag REEL_STAT.TRIAL = true ∧ t.slotState 1 = slTrial ∧
    t.fld REEL_SLOT_B.STATE = slTrial ∧ t.reel.toTrial = none)) ∧
  (∀ (s : State), s.powered = true → s.mgt.mcOk = true → s.mgt.stopped = false → s.reel.toTrial = some 0 →
    s.reel.toReject = none → s.slotState 0 = slVerified → Store.wf (fun _ => (0xFF : Byte)) s.flash = true →
    Runs .trialProgram s [.one REEL_STAT, .one REEL_SLOT_A, .one REEL_SLOT_B, .one MGT_FW_SLOT_A, .one MGT_FW_SLOT_B,
    .reel, .intg, .flash] (fun t => t.flag REEL_STAT.TRIAL = true ∧ t.slotState 0 = slTrial ∧
    t.fld REEL_SLOT_A.STATE = slTrial ∧ t.reel.toTrial = none)) ∧
  (∀ (s : State), s.powered = true → s.mgt.mcOk = true → s.mgt.stopped = false → s.flag REEL_STAT.TRIAL = true →
    s.reel.active.hdr.trialFrames ≠ 0 → s.reel.active.hdr.trialFrames ≤ s.reel.trialCuts → s.reel.trialFault = false →
    Store.wf (fun _ => (0xFF : Byte)) s.flash = true → s.slotState s.activeReel = slTrial →
    Runs .trialFramesExpire s [.one REEL_STAT, .one REEL_SLOT_A, .one REEL_SLOT_B, .one MGT_FW_SLOT_A,
    .one MGT_FW_SLOT_B, .reel, .intg, .flash] (fun t => t.flag REEL_STAT.TRIAL = false ∧
    t.slotState s.activeReel = slGood)) ∧
  (∀ (s : State), s.powered = true → s.mgt.mcOk = true → s.mgt.stopped = false →
    s.sys.mode = .standby ∨ s.sys.mode = .run ∨ s.sys.mode = .degraded ∨ s.sys.mode = .safe ∨ s.sys.mode = .service →
    s.hasTake = true → s.reel.reloading = false → s.reel.reloaded = false →
    Runs (.residentRecheck true) s [.one REEL_CHECK, .row MEM_B_STAT, .row MEM_B_ECC, .row MEM_B_REPAIR,
    .one INT_DEG_CAUSE, .one MGT_LOG_STAT, .faults, .reel, .intg, .mgt, .can, .mem, .drawn] (fun t =>
    t.raised 0x030E = true ∧ t.reel.reloading = true ∧
    t.fld REEL_CHECK.PASSES = min (s.fld REEL_CHECK.PASSES + 1) 0xFFFF)) ∧
  (∀ (bad : Bool) (s : State), s.powered = true → s.mgt.mcOk = true → s.mgt.stopped = false →
    s.reel.reloading = true → s.splicing = false →
    Runs (.reloadDone bad) s [.row MEM_B_STAT, .row MEM_B_ECC, .row MEM_B_REPAIR, .one INT_DEG_CAUSE,
    .one MGT_LOG_STAT, .faults, .reel, .intg, .mgt, .can, .mem, .drawn, .cells] (fun t => t.reel.reloading = false ∧
    t.reel.reloaded = !bad))

/-- A request of STANDBY, RUN, SAFE, SERVICE or SLEEP with KEY 0 and no reason against it becomes the pending request.
With a reason, the reason is shown, MODE_REFUSED is raised, and neither the mode nor the pending request changes. With
another KEY the write is illegal and nothing of the request is done. RESET with key 0xA5 resets the device with cause
SOFTWARE; with another one it is refused with reason 10. -/
def Obligations.ModeRequestTaken : Prop :=
  (∀ (s : State), s.hostOpen → s.modeReason 1 = 0 →
    Runs (.modeReqStandby 0) s Parts.reset (fun t => t.fld SYS_MODE.PEND = 1 ∧ t.sys.pendPath = .host ∧
    t.sys.mode = s.sys.mode)) ∧
  (∀ (s : State), s.hostOpen → s.modeReason 2 = 0 →
    Runs (.modeReqRun 0) s Parts.reset (fun t => t.fld SYS_MODE.PEND = 2 ∧ t.sys.pendPath = .host ∧
    t.sys.mode = s.sys.mode)) ∧
  (∀ (s : State), s.hostOpen → s.modeReason 3 = 0 →
    Runs (.modeReqSafe 0) s Parts.reset (fun t => t.fld SYS_MODE.PEND = 3 ∧ t.sys.pendPath = .host ∧
    t.sys.mode = s.sys.mode)) ∧
  (∀ (s : State), s.hostOpen → s.modeReason 4 = 0 →
    Runs (.modeReqService 0) s Parts.reset (fun t => t.fld SYS_MODE.PEND = 4 ∧ t.sys.pendPath = .host ∧
    t.sys.mode = s.sys.mode)) ∧
  (∀ (s : State), s.hostOpen → s.modeReason 5 = 0 →
    Runs (.modeReqSleep 0) s Parts.reset (fun t => t.fld SYS_MODE.PEND = 5 ∧ t.sys.pendPath = .host ∧
    t.sys.mode = s.sys.mode)) ∧
  (∀ (s : State), s.hostOpen → s.modeReason 1 ≠ 0 →
    Runs (.modeReqStandby 0) s Parts.reset (fun t => t.fld SYS_MODE.REASON = s.modeReason 1 % 16 ∧
    t.raised 0x0106 = true ∧ t.sys = s.sys ∧ t.fld SYS_MODE.PEND = s.fld SYS_MODE.PEND)) ∧
  (∀ (s : State), s.hostOpen → s.modeReason 2 ≠ 0 →
    Runs (.modeReqRun 0) s Parts.reset (fun t => t.fld SYS_MODE.REASON = s.modeReason 2 % 16 ∧
    t.raised 0x0106 = true ∧ t.sys = s.sys ∧ t.fld SYS_MODE.PEND = s.fld SYS_MODE.PEND)) ∧
  (∀ (s : State), s.hostOpen → s.modeReason 3 ≠ 0 →
    Runs (.modeReqSafe 0) s Parts.reset (fun t => t.fld SYS_MODE.REASON = s.modeReason 3 % 16 ∧
    t.raised 0x0106 = true ∧ t.sys = s.sys ∧ t.fld SYS_MODE.PEND = s.fld SYS_MODE.PEND)) ∧
  (∀ (s : State), s.hostOpen → s.modeReason 4 ≠ 0 →
    Runs (.modeReqService 0) s Parts.reset (fun t => t.fld SYS_MODE.REASON = s.modeReason 4 % 16 ∧
    t.raised 0x0106 = true ∧ t.sys = s.sys ∧ t.fld SYS_MODE.PEND = s.fld SYS_MODE.PEND)) ∧
  (∀ (s : State), s.hostOpen → s.modeReason 5 ≠ 0 →
    Runs (.modeReqSleep 0) s Parts.reset (fun t => t.fld SYS_MODE.REASON = s.modeReason 5 % 16 ∧
    t.raised 0x0106 = true ∧ t.sys = s.sys ∧ t.fld SYS_MODE.PEND = s.fld SYS_MODE.PEND)) ∧
  (∀ (key : Byte) (s : State), s.hostOpen → key ≠ 0 →
    Runs (.modeReqStandby key) s Parts.reset (fun t => t.sys = s.sys ∧ t.word SYS_MODE = s.word SYS_MODE ∧
    t.raised 0x0106 = s.raised 0x0106 ∧ s.spi.result ≤ t.spi.result ∧ 1 ≤ t.spi.result)) ∧
  (∀ (key : Byte) (s : State), s.hostOpen → key ≠ 0 → Runs (.modeReqRun key) s Parts.reset (fun t => t.sys = s.sys ∧
    t.word SYS_MODE = s.word SYS_MODE ∧ t.raised 0x0106 = s.raised 0x0106 ∧ s.spi.result ≤ t.spi.result ∧
    1 ≤ t.spi.result)) ∧
  (∀ (key : Byte) (s : State), s.hostOpen → key ≠ 0 → Runs (.modeReqSafe key) s Parts.reset (fun t => t.sys = s.sys ∧
    t.word SYS_MODE = s.word SYS_MODE ∧ t.raised 0x0106 = s.raised 0x0106 ∧ s.spi.result ≤ t.spi.result ∧
    1 ≤ t.spi.result)) ∧
  (∀ (key : Byte) (s : State), s.hostOpen → key ≠ 0 →
    Runs (.modeReqService key) s Parts.reset (fun t => t.sys = s.sys ∧ t.word SYS_MODE = s.word SYS_MODE ∧
    t.raised 0x0106 = s.raised 0x0106 ∧ s.spi.result ≤ t.spi.result ∧ 1 ≤ t.spi.result)) ∧
  (∀ (key : Byte) (s : State), s.hostOpen → key ≠ 0 → Runs (.modeReqSleep key) s Parts.reset (fun t => t.sys = s.sys ∧
    t.word SYS_MODE = s.word SYS_MODE ∧ t.raised 0x0106 = s.raised 0x0106 ∧ s.spi.result ≤ t.spi.result ∧
    1 ≤ t.spi.result)) ∧
  (∀ (key : Byte) (s : State), s.hostOpen → key ≠ 0xA5#8 →
    Runs (.modeReqReset key) s Parts.reset (fun t => t.fld SYS_MODE.REASON = 10 ∧ t.raised 0x0106 = true ∧
    t.sys = s.sys ∧ t.fld SYS_MODE.PEND = s.fld SYS_MODE.PEND)) ∧
  (∀ (s : State), s.hostOpen → Runs (.modeReqReset 0xA5) s Parts.reset (fun t => t.sys.inReset = true ∧
    t.sys.causes = 0x20 ∧ t.keep.resets = s.keep.resets))

/-- A brownout, a regulator out of range, the reset pin and a missing reference each put the device into reset, empty
its queues, discard the positions that D0 keeps, and record their cause; in SLEEP D0 loses nothing. A brownout,
regulator or pin cause that appears while the device is in reset is added. Power on starts in reset with cause POWER_ON.
Below 2.0 V the device is OFF: every register reads its reset value, and of what it holds only flash stays. The model's
choices: memory lists nothing after a reset (log entry 8), a brownout resets in SLEEP too (log entry 49), and what D0
keeps beside the positions (log entry 50). -/
def Obligations.ResetCausesRecorded : Prop :=
  (∀ (s : State), s.sys.mode ≠ .off → s.sys.mode ≠ .sleep → s.sys.inReset = false →
    Runs .brownout s Parts.reset (fun t => t.sys.inReset = true ∧ t.sys.causes = 0x02 ∧
    t.keep =
    { s.keep with valid := false, used := 0, pos := List.replicate 12 0, eofs := List.replicate 12 0, rest := 0 } ∧
    t.queues = [] ∧ t.mem = {})) ∧
  (∀ (s : State), s.powered = true → Runs .regulator s Parts.reset (fun t => t.sys.inReset = true ∧
    t.sys.causes = 0x04 ∧ t.keep =
    { s.keep with valid := false, used := 0, pos := List.replicate 12 0, eofs := List.replicate 12 0, rest := 0 } ∧
    t.queues = [] ∧ t.mem = {})) ∧
  (∀ (s : State), s.powered = true → Runs .pinReset s Parts.reset (fun t => t.sys.inReset = true ∧
    t.sys.causes = 0x08 ∧ t.keep =
    { s.keep with valid := false, used := 0, pos := List.replicate 12 0, eofs := List.replicate 12 0, rest := 0 } ∧
    t.queues = [] ∧ t.mem = {})) ∧
  (∀ (s : State), s.powered = true → s.clk.rcOk = false → s.flag CLK_STAT.HOLDOVER = true →
    Runs .refAbsentReset s Parts.reset (fun t => t.sys.inReset = true ∧ t.sys.causes = 0x10 ∧
    t.keep =
    { s.keep with valid := false, used := 0, pos := List.replicate 12 0, eofs := List.replicate 12 0, rest := 0 } ∧
    t.queues = [] ∧ t.mem = {})) ∧
  (∀ (s : State), s.sys.mode = .sleep → s.sys.inReset = false →
    Runs .brownout s Parts.reset (fun t => t.sys.inReset = true ∧ t.sys.causes = 0x02 ∧ t.keep = s.keep ∧
    t.queues = [] ∧ t.mem = {})) ∧
  (∀ (s : State), s.sys.mode ≠ .off → s.sys.inReset = true →
    Runs .brownout s Parts.reset (fun t => t.sys.inReset = true ∧ t.sys.causes = s.sys.causes ||| 0x02)) ∧
  (∀ (s : State), s.sys.inReset = true → Runs .regulator s Parts.reset (fun t => t.sys.inReset = true ∧
    t.sys.causes = s.sys.causes ||| 0x04)) ∧
  (∀ (s : State), s.sys.inReset = true → Runs .pinReset s Parts.reset (fun t => t.sys.inReset = true ∧
    t.sys.causes = s.sys.causes ||| 0x08)) ∧
  (∀ (s : State), s.sys.mode = .off → Runs .powerOn s Parts.reset (fun t => t.sys.inReset = true ∧ t.sys.causes = 1 ∧
    t.sys.mode = .boot ∧ t.keep = {})) ∧
  (∀ (s : State), Runs .vbatOff s Parts.reset (fun t => t.sys.mode = .off ∧ t.sys.causes = 0 ∧ t.keep = {} ∧
    t.queues = [] ∧ t.flash = s.flash ∧ (∀ x : Nat, t.word x = regReset x) ∧ t.mem = {} ∧ t.waiting = []))

/-- VLV sets LV, in PWR_STAT too (that PWR_STAT.LV follows the comparator at once, in both directions, is the model's
choice, log entry 62), and raises LOW_VOLTAGE, VOV sets OV, raises OVERVOLTAGE, puts the loops of every axis at 0 and
holds its outputs, VIO_UV raises VIO_LOW and takes every limit input as inactive; at their release the flags clear, and
POS_LIM reads 0 after VIO_UV. -/
def Obligations.SupplyMonitors : Prop :=
  (∀ (s : State), s.powered = true → s.flag SYS_STAT.LV = false →
    Runs .lowVoltage s [.one SYS_STAT, .one PWR_STAT, .one MGT_LOG_STAT, .faults, .reel, .intg, .mgt, .can] (fun t =>
    t.flag SYS_STAT.LV = true ∧ t.flag PWR_STAT.LV = true ∧ t.raised 0x0101 = true)) ∧
  (∀ (s : State), s.powered = true → Runs .lowVoltageRelease s [.one SYS_STAT, .one PWR_STAT, .intg] (fun t =>
    t.flag SYS_STAT.LV = false ∧ t.flag PWR_STAT.LV = false)) ∧
  (∀ (s : State), s.powered = true → s.flag SYS_STAT.OV = false → s.mods.length = 12 →
    Runs .overvoltage s [.one SYS_STAT, .one MOD_STAT, .one MOD_ILOCK_CNT, .row MOD_AX_STAT, .row MOD_AX_FORCE,
    .row PWR_AX_LIVE, .one INT_AXCAUSE_LO, .one INT_AXCAUSE_HI, .one MGT_LOG_STAT, .faults, .sys, .reel, .intg, .mgt,
    .can, .mods, .modg, .pwr] (fun t => t.flag SYS_STAT.OV = true ∧ t.raised 0x0102 = true ∧ t.sys.ovNew = true ∧
    (∀ n < 12, (t.mod n).ovHold = true ∧ (t.mod n).pa.integ = 0 ∧ (t.mod n).pa.u = 0 ∧ (t.mod n).pb.integ = 0 ∧
    (t.mod n).pb.u = 0))) ∧
  (∀ (s : State), s.powered = true → Runs .overvoltageRelease s [.one SYS_STAT, .one MOD_STAT, .one MOD_ILOCK_CNT,
    .row MOD_AX_STAT, .row MOD_AX_FORCE, .row PWR_AX_LIVE, .one INT_AXCAUSE_LO, .one INT_AXCAUSE_HI,
    .one MGT_LOG_STAT, .faults, .reel, .intg, .mgt, .can, .mods, .modg, .pwr] (fun t => t.flag SYS_STAT.OV = false)) ∧
  (∀ (s : State), s.powered = true → s.sys.vioLow = false →
    Runs .vioLow s [.one POS_LIM, .one SPI_STAT, .one SPI_HCNT, .one SPI_MW_STAT, .one MGT_LOG_STAT, .faults, .sys,
    .reel, .intg, .mgt, .can, .spi, .chn] (fun t => t.sys.vioLow = true ∧ t.raised 0x0103 = true ∧
    t.word POS_LIM = 0)) ∧
  (∀ (s : State), s.powered = true → Runs .vioRelease s [.sys, .intg] (fun t => t.sys.vioLow = false))

/-- Once D0 has what it keeps, the other islands hold nothing: queues, memory and waiting values are empty, INH is low,
and every register but SYS_STAT reads its reset value. In SLEEP an enabled wake source records itself and the sleep
count at the first event. BOOT starts with the highest reset cause, or with cause WAKE and the first source in table
order. What the entry empties beside the registers is the model's choice (log entries 7, 8, 49, 51). -/
def Obligations.SleepAndWake : Prop :=
  (∀ (s : State), s.sys.mode = .sleep → s.sys.sleepEntry = true →
    Runs .sleepEntryDone s Parts.sleepEntryDone (fun t => t.sys.mode = .sleep ∧ t.sys.sleepEntry = false ∧
    t.sys.inReset = false ∧ t.keep = s.keep ∧ t.queues = [] ∧ t.mem = {} ∧ t.waiting = [] ∧ t.clk = {} ∧
    t.mods = State.reset.mods ∧ t.inh = false ∧ (∀ x : Nat, x ≠ SYS_STAT → t.word x = regReset x))) ∧
  (∀ (n : Nat) (s : State), s.sys.mode = .sleep → s.sys.inReset = false → s.keep.wakeCfg = 1 → s.keep.seen = 0 →
    s.keep.sat = false → n < 2 ^ 40 → Runs (.wakePin true n) s [.sys, .keep, .intg] (fun t => t.keep.seen = 1 ∧
    t.keep.count = BitVec.ofNat 40 n ∧ t.sys.wakeLevel = true)) ∧
  (∀ (rising : Bool) (n : Nat) (s : State), s.powered = true →
    Runs (.wakePin rising n) s [.sys, .keep, .intg] (fun t => t.sys.wakeLevel = rising)) ∧
  (∀ (n : Nat) (s : State), s.sys.mode = .sleep → s.sys.inReset = false → s.keep.wakeCfg = 8 → s.keep.seen = 0 →
    s.keep.sat = false → n < 2 ^ 40 → Runs (.busWake n) s [.keep, .intg] (fun t => t.keep.seen = 2 ∧
    t.keep.count = BitVec.ofNat 40 n)) ∧
  (∀ (p : Nat) (s : State), s.sys.mode = .sleep → s.sys.inReset = false → s.keep.timer = some p → s.keep.seen = 0 →
    s.keep.sat = false → p < 2 ^ 30 → Runs .wakeTimer s [.keep, .intg] (fun t => t.keep.seen = 4 ∧
    t.keep.count = BitVec.ofNat 40 (1024 * p))) ∧
  (∀ (cascM : Bool) (s : State), s.sys.inReset = true → s.sys.mode ≠ .off → s.flag SYS_STAT.LV = false →
    s.flag SYS_STAT.OV = false → s.sys.vioLow = false →
    Runs (.bootStart cascM false) s Parts.bootStart (fun t => t.sys.mode = .boot ∧ t.inh = true ∧
    t.canPins = { drive := .recessive } ∧ t.sys.inReset = false ∧ t.sys.boot = .started ∧ t.sys.cascM = cascM ∧
    t.fld SYS_RESET.CAUSE = lowestBit 8 s.sys.causes.toNat + 1 ∧ t.fld SYS_RESET.ALL = s.sys.causes.toNat)) ∧
  (∀ (cascM : Bool) (s : State), s.sys.mode = .sleep → s.sys.inReset = false → s.sys.sleepEntry = false →
    s.keep.seen ≠ 0 → s.flag SYS_STAT.LV = false → s.flag SYS_STAT.OV = false → s.sys.vioLow = false →
    Runs (.bootStart cascM false) s Parts.bootStart (fun t => t.sys.mode = .boot ∧ t.sys.wake = true ∧
    t.fld SYS_RESET.CAUSE = 7 ∧ t.fld SYS_WAKE.SRC = lowestBit 3 s.keep.seen.toNat + 1))

/-- When the rails are in range every island is locked, the charge pump and VGL are up, and the calibration of every
converter core runs; every bank word is 0. With TEST high BOOT goes no further than the firmware. Of one firmware
candidate whose image passes its checks, firmware selection loads that slot, shows it and its version, and MC runs; of
two it loads the one of the newer version, else slot A. A candidate that fails becomes REJECTED. With none left BOOT
goes no further and NO_FIRMWARE is raised. Whether an image authenticates is open to the model (a Config value), so each
clause says both cases. -/
def Obligations.BootSteps : Prop :=
  (∀ (bad : List (Fin 17 × Fin 256)) (s : State), s.powered = true → s.sys.boot = .started →
    Runs (.regulatorsReady bad) s [.one CLK_STAT, .one PWR_STAT, .one ADC_STAT, .row MEM_B_STAT, .row MEM_B_ECC,
    .row MEM_B_REPAIR, .one INT_DEG_CAUSE, .one MGT_LOG_STAT, .faults, .sys, .reel, .intg, .mgt, .can, .mem, .adc,
    .drawn, .cells] (fun t => t.sys.boot = .rails ∧ t.mem.cells = [] ∧ t.fld CLK_STAT.ISL_OK = 0xFFF ∧
    t.flag PWR_STAT.VCP_OK = true ∧ t.flag PWR_STAT.VGL_OK = true ∧ t.fld ADC_STAT.CAL_BUSY = 63)) ∧
  (∀ (s : State), s.powered = true → s.sys.boot = .rails → s.flag SYS_STAT.TEST = true →
    Runs .firmwareSelect s [.one REEL_SLOT_A, .one REEL_SLOT_B, .one MGT_FW, .one MGT_FW_SLOT_A, .one MGT_FW_SLOT_B,
    .one MGT_LOG_SEQ, .one MGT_LOG_STAT, .faults, .sys, .reel, .intg, .mgt, .can, .flash, .drawn] (fun t =>
    t.sys.boot = .stuck)) ∧
  (∀ (k : Fin 4) (s : State), s.powered = true → s.sys.boot = .rails → s.flag SYS_STAT.TEST = false →
    s.flashFlaws = [] → (∀ j < 4, 2 ≤ j → s.slotState j ≠ slTrial) →
    Store.wf (fun _ => (0xFF : Byte)) s.flash = true → 2 ≤ k.val → s.fwCandidate k = true →
    s.fwCandidate (5 - k.val) = false → Runs .firmwareSelect s [.one REEL_SLOT_A, .one REEL_SLOT_B, .one MGT_FW,
    .one MGT_FW_SLOT_A, .one MGT_FW_SLOT_B, .one MGT_LOG_SEQ, .one MGT_LOG_STAT, .faults, .sys, .reel, .intg, .mgt,
    .can, .flash, .drawn] (fun t => (s.fwOk k = true → t.sys.boot = .firmware ∧ t.mgt.mcOk = true ∧
    t.fld MGT_FW.ACTIVE_SLOT = k - 2 ∧ t.fld MGT_FW.VERSION = s.fwVersion k) ∧ (s.fwOk k = false →
    t.slotState k = slRejected ∧ t.sys.boot = .stuck ∧ t.mgt.mcOk = false ∧ t.raised 0x1008 = true))) ∧
  (∀ (k d : Nat) (s : State), s.powered = true → s.sys.boot = .rails → s.flag SYS_STAT.TEST = false →
    s.flashFlaws = [] → (∀ j < 4, 2 ≤ j → s.slotState j ≠ slTrial) → s.fwCandidate 2 = true → s.fwCandidate 3 = true →
    d = (BitVec.ofNat 16 (s.fwVersion 3) - BitVec.ofNat 16 (s.fwVersion 2)).toNat → (k = if 1 ≤ d ∧
    d ≤ 0x7FFF then 3 else 2) → Runs .firmwareSelect s [.one REEL_SLOT_A, .one REEL_SLOT_B, .one MGT_FW,
    .one MGT_FW_SLOT_A, .one MGT_FW_SLOT_B, .one MGT_LOG_SEQ, .one MGT_LOG_STAT, .faults, .sys, .reel, .intg, .mgt,
    .can, .flash, .drawn] (fun t => (s.fwOk k = true → t.sys.boot = .firmware ∧ t.mgt.mcOk = true ∧
    t.fld MGT_FW.ACTIVE_SLOT = k - 2 ∧ t.fld MGT_FW.VERSION = s.fwVersion k) ∧ (s.fwOk k = false →
    s.fwOk (5 - k) = false → t.sys.boot = .stuck ∧ t.mgt.mcOk = false ∧ t.raised 0x1008 = true) ∧ (s.fwOk k = false →
    s.fwOk (5 - k) = true → t.sys.boot = .firmware ∧ t.mgt.mcOk = true ∧ t.fld MGT_FW.ACTIVE_SLOT = 3 - k))) ∧
  (∀ (s : State), s.powered = true → s.sys.boot = .rails → s.flag SYS_STAT.TEST = false → (∀ k < 4, 2 ≤ k →
    s.slotState k ≠ slGood ∧ s.slotState k ≠ slTrial) →
    Runs .firmwareSelect s [.one REEL_SLOT_A, .one REEL_SLOT_B, .one MGT_FW, .one MGT_FW_SLOT_A, .one MGT_FW_SLOT_B,
    .one MGT_LOG_SEQ, .one MGT_LOG_STAT, .faults, .sys, .reel, .intg, .mgt, .can, .flash, .drawn] (fun t =>
    t.sys.boot = .stuck ∧ t.mgt.mcOk = false ∧ t.raised 0x1008 = true))

/-- A write of a register that no rule refuses, and whose write starts no action of its own, sets its RW and CMT bits,
clears the W1C bits written 1 and lets its CUT bits wait for the cut; a refused one changes no register. REEL_SPLICE_AT
is such a register. A word written to a bank or the mailbox is there byte by byte, and no other byte changes. An
accepted write of the ownership word of a bank waits for the cut, and a refused one changes no register. A stamp that is
2^31 ticks old is marked STALE. -/
def Obligations.RegisterWrites : Prop :=
  (∀ (v : Word) (s : State), s.hostOpen →
    Runs (.registerWrite 0x102014#24 v) s Parts.bus (fun t => t.word REEL_SPLICE_AT = v ∧ t.waiting = s.waiting)) ∧
  (∀ (a : BitVec 24) (v : Word) (x : Nat) (r : RegRow) (s : State), s.hostOpen → x = a.toNat / 4 * 4 → 0x100000 ≤ x →
    s.absent x = false → s.actTop .host x v = none → s.actMotion .host x v = none → s.actAnalog .host x v {} = none →
    s.actLinks .host x v {} = none → regRow x = some r → s.spi.writes = [] → s.illegal .host x v = false →
    s.clearHeld x v = false → Runs (.registerWrite a v) s Parts.bus (fun t => t.word x =
    ((s.word x &&& ~~~BitVec.ofNat 32 (r.rw + r.cmt)) ||| (v &&& BitVec.ofNat 32 (r.rw + r.cmt))) &&& ~~~(v &&&
    BitVec.ofNat 32 r.w1c) ∧ (t.waiting = if r.cut =
    0 then s.waiting else Assoc.put s.waiting x (v &&& BitVec.ofNat 32 r.cut)) ∧ (∀ y : Nat, y ≠ x →
    t.word y = s.word y))) ∧
  (∀ (a : BitVec 24) (v : Word) (x : Nat) (r : RegRow) (s : State), s.hostOpen → x = a.toNat / 4 * 4 → 0x100000 ≤ x →
    s.absent x = false → s.actTop .host x v = none → s.actMotion .host x v = none → s.actAnalog .host x v {} = none →
    s.actLinks .host x v {} = none → regRow x = some r → s.spi.writes = [] →
    s.illegal .host x v = true ∨ s.clearHeld x v = true →
    Runs (.registerWrite a v) s Parts.bus (fun t => t.regs = s.regs ∧ t.waiting = s.waiting ∧
    t.spi.result = max s.spi.result 1)) ∧
  (∀ (a : BitVec 24) (v : Word) (s : State), s.hostOpen → a.toNat < 0x41000 →
    Runs (.registerWrite a v) s Parts.bus (fun t => memWord t.mem.cells (a.toNat / 4 * 4) = v ∧
    (∀ x : Nat, (x < a.toNat / 4 * 4 ∨ a.toNat / 4 * 4 + 4 ≤ x) → t.byteAt x = s.byteAt x))) ∧
  (∀ (b : Fin 17) (v : Word) (s : State), s.hostOpen → s.illegal .host (MEM_B_OWN b) v = false →
    Runs (.ownWrite b v) s [.regs, .waiting, .intg, .spi] (fun t => t.waiting =
    Assoc.put s.waiting (MEM_B_OWN b) (v &&& cutMask (MEM_B_OWN b)) ∧ t.word (MEM_B_OWN b) = s.word (MEM_B_OWN b))) ∧
  (∀ (b : Fin 17) (v : Word) (s : State), s.hostOpen → s.illegal .host (MEM_B_OWN b) v = true →
    Runs (.ownWrite b v) s [.regs, .waiting, .intg, .spi] (fun t => t.waiting = s.waiting ∧ t.regs = s.regs ∧
    t.spi.result = max s.spi.result 1)) ∧
  (∀ (j : Fin 8) (s : State), s.powered = true → s.pos.stamped.getLsbD j = true →
    Runs (.stampStale (.latch j)) s [.row POS_LT_STAT, .intg, .can] (fun t => t.flag (POS_LT_STAT.STALE j) = true)) ∧
  (∀ (n : Fin 16) (s : State), s.powered = true → s.can.rbs.length = 17 →
    Runs (.stampStale (.rb n)) s [.row POS_LT_STAT, .intg, .can] (fun t =>
    (Tbl.get {} t.can.rbs n.val).ctl.getLsbD 7 = true)) ∧
  (∀ (s : State), s.powered = true → s.can.rbs.length = 17 →
    Runs (.stampStale .hpb) s [.row POS_LT_STAT, .intg, .can] (fun t => (Tbl.get {} t.can.rbs 16).ctl.getLsbD 7 =
    true))

/-- PAD leaves every operand slot as it is and takes its count of cycles. LDK loads its constant. MOV writes its source,
or writes it at an index below N and nothing otherwise. TAGM tests the tags of its words, and with MODE 1 also VALID and
DISABLED. -/
def Obligations.ShotsMoveValues : Prop :=
  (∀ (e : Fin 9) (f : Fetch) (c : Shot) (g : Eng) (s : State), s.shotReady 0x01 e f = true → c = s.shotOf e f →
    g = s.eng e → Runs (.pad e f) s Parts.shot (fun t => (t.eng e).ops = g.ops ∧
    (t.eng e).cycles = g.cycles + (c.b 2 + 256 * (c.b 3 % 4) + 1) ∧ (t.eng e).shots = g.shots + 1 ∧
    (∀ k < 9, k ≠ e.val → t.eng k = s.eng k) ∧ (t.eng e).inp = g.inp ∧ (t.eng e).acc = g.acc)) ∧
  (∀ (e : Fin 9) (f : Fetch) (c : Shot) (g : Eng) (s : State), s.shotReady 0x02 e f = true → c = s.shotOf e f →
    g = s.eng e → Runs (.ldk e f) s Parts.shot (fun t => ((t.eng e).op (c.b 2)) = c.k (c.kidx 3) ∧
    (t.eng e).shots = g.shots + 1 ∧ (∀ k < 9, k ≠ e.val → t.eng k = s.eng k) ∧ (t.eng e).inp = g.inp ∧
    (t.eng e).acc = g.acc ∧ (∀ j < 32, j ≠ c.b 2 → (t.eng e).op j = g.op j))) ∧
  (∀ (e : Fin 9) (f : Fetch) (c : Shot) (g : Eng) (s : State), s.shotReady 0x03 e f = true → c = s.shotOf e f →
    g = s.eng e → c.b 4 = 0 → Runs (.mov e f) s Parts.shot (fun t => ((t.eng e).op (c.b 2)) = (c.src g (c.b 3)) ∧
    (t.eng e).miss = (g.miss || c.untagged g (c.b 3)) ∧ (t.eng e).shots = g.shots + 1 ∧ (∀ k < 9, k ≠ e.val →
    t.eng k = s.eng k) ∧ (t.eng e).inp = g.inp ∧ (t.eng e).acc = g.acc ∧ (∀ j < 32, j ≠ c.b 2 →
    (t.eng e).op j = g.op j))) ∧
  (∀ (e : Fin 9) (f : Fetch) (c : Shot) (g : Eng) (i : Nat) (s : State), s.shotReady 0x03 e f = true →
    c = s.shotOf e f → g = s.eng e → c.b 4 = 1 → i = (g.op (c.b 5)).toNat % 32 → i < c.b 6 →
    Runs (.mov e f) s Parts.shot (fun t => (t.eng e).op (c.b 2 + i) = (c.src g (c.b 3)) ∧
    (t.eng e).shots = g.shots + 1 ∧ (∀ k < 9, k ≠ e.val → t.eng k = s.eng k) ∧ (t.eng e).inp = g.inp ∧
    (t.eng e).acc = g.acc ∧ (∀ j < 32, j ≠ c.b 2 + i → (t.eng e).op j = g.op j))) ∧
  (∀ (e : Fin 9) (f : Fetch) (c : Shot) (g : Eng) (i : Nat) (s : State), s.shotReady 0x03 e f = true →
    c = s.shotOf e f → g = s.eng e → c.b 4 = 1 → i = (g.op (c.b 5)).toNat % 32 → c.b 6 ≤ i →
    Runs (.mov e f) s Parts.shot (fun t => (t.eng e).ops = g.ops ∧ (t.eng e).shots = g.shots + 1 ∧
    (∀ k < 9, k ≠ e.val → t.eng k = s.eng k) ∧ (t.eng e).inp = g.inp ∧ (t.eng e).acc = g.acc)) ∧
  (∀ (e : Fin 9) (f : Fetch) (c : Shot) (g : Eng) (i : Nat) (s : State), s.shotReady 0x04 e f = true →
    c = s.shotOf e f → g = s.eng e → c.inputOf (c.b 3) = some i →
    Runs (.tagm e f) s Parts.shot (fun t => (((t.eng e).op (c.b 2)) = maskOf ((List.range (c.b 5)).all fun k =>
    (g.input (i + k)).tag && (c.b 4 == 0 || ((g.input (i + k)).w.getLsbD 16 && !(g.input (i + k)).w.getLsbD 18)))) ∧
    (t.eng e).miss = g.miss ∧ (t.eng e).shots = g.shots + 1 ∧ (∀ k < 9, k ≠ e.val → t.eng k = s.eng k) ∧
    (t.eng e).inp = g.inp ∧ (t.eng e).acc = g.acc ∧ (∀ j < 32, j ≠ c.b 2 → (t.eng e).op j = g.op j)))

/-- ADD adds or subtracts with wrap, with signed saturation or with unsigned saturation. MUL sets the accumulator to the
signed or unsigned product, negated by FN bit 1, or adds it, saturated to 64 bits. ACCX rounds, shifts and saturates it
into a slot, as signed or as unsigned. CLAMP bounds its operand, and ABSN takes absolute value, negation or sign. SAT is
set when a result was saturated, or a bound took effect, and else stays. That the MUL sum is saturated once, from the
exact product and accumulator, also where the product itself leaves 64 bits, is the model's choice (log entry 85). -/
def Obligations.ShotsCompute : Prop :=
  (∀ (e : Fin 9) (f : Fetch) (c : Shot) (g : Eng) (s : State), s.shotReady 0x08 e f = true → c = s.shotOf e f →
    g = s.eng e → c.b 5 = 0 → Runs (.add e f) s Parts.shot (fun t => ((t.eng e).op (c.b 2)) =
    (c.src g (c.b 3)) + (c.src g (c.b 4)) ∧ (t.eng e).sat = g.sat ∧ (t.eng e).shots = g.shots + 1 ∧
    (∀ k < 9, k ≠ e.val → t.eng k = s.eng k) ∧ (t.eng e).inp = g.inp ∧ (t.eng e).acc = g.acc ∧ (∀ j < 32, j ≠ c.b 2 →
    (t.eng e).op j = g.op j))) ∧
  (∀ (e : Fin 9) (f : Fetch) (c : Shot) (g : Eng) (s : State), s.shotReady 0x08 e f = true → c = s.shotOf e f →
    g = s.eng e → c.b 5 = 1 → Runs (.add e f) s Parts.shot (fun t => ((t.eng e).op (c.b 2)) =
    (c.src g (c.b 3)) - (c.src g (c.b 4)) ∧ (t.eng e).sat = g.sat ∧ (t.eng e).shots = g.shots + 1 ∧
    (∀ k < 9, k ≠ e.val → t.eng k = s.eng k) ∧ (t.eng e).inp = g.inp ∧ (t.eng e).acc = g.acc ∧ (∀ j < 32, j ≠ c.b 2 →
    (t.eng e).op j = g.op j))) ∧
  (∀ (e : Fin 9) (f : Fetch) (c : Shot) (g : Eng) (s : State), s.shotReady 0x08 e f = true → c = s.shotOf e f →
    g = s.eng e → c.b 5 = 2 → Runs (.add e f) s Parts.shot (fun t => ((t.eng e).op (c.b 2)) =
    BitVec.ofInt 32 (satS 32 ((c.src g (c.b 3)).toInt + (c.src g (c.b 4)).toInt)) ∧
    (t.eng e).sat = (g.sat || outS 32 ((c.src g (c.b 3)).toInt + (c.src g (c.b 4)).toInt)) ∧
    (t.eng e).shots = g.shots + 1 ∧ (∀ k < 9, k ≠ e.val → t.eng k = s.eng k) ∧ (t.eng e).inp = g.inp ∧
    (t.eng e).acc = g.acc ∧ (∀ j < 32, j ≠ c.b 2 → (t.eng e).op j = g.op j))) ∧
  (∀ (e : Fin 9) (f : Fetch) (c : Shot) (g : Eng) (s : State), s.shotReady 0x08 e f = true → c = s.shotOf e f →
    g = s.eng e → c.b 5 = 3 → Runs (.add e f) s Parts.shot (fun t => ((t.eng e).op (c.b 2)) =
    BitVec.ofInt 32 (satS 32 ((c.src g (c.b 3)).toInt - (c.src g (c.b 4)).toInt)) ∧
    (t.eng e).sat = (g.sat || outS 32 ((c.src g (c.b 3)).toInt - (c.src g (c.b 4)).toInt)) ∧
    (t.eng e).shots = g.shots + 1 ∧ (∀ k < 9, k ≠ e.val → t.eng k = s.eng k) ∧ (t.eng e).inp = g.inp ∧
    (t.eng e).acc = g.acc ∧ (∀ j < 32, j ≠ c.b 2 → (t.eng e).op j = g.op j))) ∧
  (∀ (e : Fin 9) (f : Fetch) (c : Shot) (g : Eng) (s : State), s.shotReady 0x08 e f = true → c = s.shotOf e f →
    g = s.eng e → c.b 5 = 4 → Runs (.add e f) s Parts.shot (fun t => ((t.eng e).op (c.b 2)) =
    BitVec.ofNat 32 (min ((c.src g (c.b 3)).toNat + (c.src g (c.b 4)).toNat) 0xFFFFFFFF) ∧
    (t.eng e).sat = (g.sat || decide (0xFFFFFFFF < (c.src g (c.b 3)).toNat + (c.src g (c.b 4)).toNat)) ∧
    (t.eng e).shots = g.shots + 1 ∧ (∀ k < 9, k ≠ e.val → t.eng k = s.eng k) ∧ (t.eng e).inp = g.inp ∧
    (t.eng e).acc = g.acc ∧ (∀ j < 32, j ≠ c.b 2 → (t.eng e).op j = g.op j))) ∧
  (∀ (e : Fin 9) (f : Fetch) (c : Shot) (g : Eng) (s : State), s.shotReady 0x08 e f = true → c = s.shotOf e f →
    g = s.eng e → c.b 5 = 5 → Runs (.add e f) s Parts.shot (fun t => ((t.eng e).op (c.b 2)) =
    BitVec.ofNat 32 ((c.src g (c.b 3)).toNat - (c.src g (c.b 4)).toNat) ∧
    (t.eng e).sat = (g.sat || decide ((c.src g (c.b 3)).toNat < (c.src g (c.b 4)).toNat)) ∧
    (t.eng e).shots = g.shots + 1 ∧ (∀ k < 9, k ≠ e.val → t.eng k = s.eng k) ∧ (t.eng e).inp = g.inp ∧
    (t.eng e).acc = g.acc ∧ (∀ j < 32, j ≠ c.b 2 → (t.eng e).op j = g.op j))) ∧
  (∀ (e : Fin 9) (f : Fetch) (c : Shot) (g : Eng) (s : State), s.shotReady 0x09 e f = true → c = s.shotOf e f →
    g = s.eng e → c.b 4 = 0 → Runs (.mul e f) s Parts.shot (fun t => (t.eng e).acc =
    BitVec.ofInt 64 (satS 64 ((c.src g (c.b 2)).toInt * (c.src g (c.b 3)).toInt)) ∧ (t.eng e).shots = g.shots + 1 ∧
    (∀ k < 9, k ≠ e.val → t.eng k = s.eng k) ∧ (t.eng e).inp = g.inp ∧ (t.eng e).ops = g.ops)) ∧
  (∀ (e : Fin 9) (f : Fetch) (c : Shot) (g : Eng) (s : State), s.shotReady 0x09 e f = true → c = s.shotOf e f →
    g = s.eng e → c.b 4 = 7 → Runs (.mul e f) s Parts.shot (fun t => (t.eng e).acc =
    BitVec.ofInt 64 (satS 64 (g.acc.toInt - (c.src g (c.b 2)).toNat * (c.src g (c.b 3)).toNat)) ∧
    (t.eng e).shots = g.shots + 1 ∧ (∀ k < 9, k ≠ e.val → t.eng k = s.eng k) ∧ (t.eng e).inp = g.inp ∧
    (t.eng e).ops = g.ops)) ∧
  (∀ (e : Fin 9) (f : Fetch) (c : Shot) (g : Eng) (p r : Int) (s : State), s.shotReady 0x09 e f = true →
    c = s.shotOf e f → g = s.eng e → (p =
    if (c.b 4).testBit 2 then ((c.src g (c.b 2)).toNat * (c.src g (c.b 3)).toNat : Int) else (c.src g (c.b 2)).toInt *
    (c.src g (c.b 3)).toInt) → r =
    (if (c.b 4).testBit 0 then g.acc.toInt else 0) + (if (c.b 4).testBit 1 then -p else p) →
    Runs (.mul e f) s Parts.shot (fun t => (t.eng e).acc = BitVec.ofInt 64 (satS 64 r) ∧
    (t.eng e).sat = (g.sat || outS 64 r) ∧ (t.eng e).shots = g.shots + 1 ∧ (∀ k < 9, k ≠ e.val → t.eng k = s.eng k) ∧
    (t.eng e).inp = g.inp ∧ (t.eng e).ops = g.ops)) ∧
  (∀ (e : Fin 9) (f : Fetch) (c : Shot) (g : Eng) (s : State), s.shotReady 0x0A e f = true → c = s.shotOf e f →
    g = s.eng e → c.b 4 = 0 → Runs (.accx e f) s Parts.shot (fun t => ((t.eng e).op (c.b 2)) =
    BitVec.ofInt 32 (satS 32 (g.acc.toInt >>> (c.b 3))) ∧ (t.eng e).acc = g.acc ∧
    (t.eng e).sat = (g.sat || outS 32 (g.acc.toInt >>> (c.b 3))) ∧ (t.eng e).shots = g.shots + 1 ∧
    (∀ k < 9, k ≠ e.val → t.eng k = s.eng k) ∧ (t.eng e).inp = g.inp ∧ (∀ j < 32, j ≠ c.b 2 →
    (t.eng e).op j = g.op j))) ∧
  (∀ (e : Fin 9) (f : Fetch) (c : Shot) (g : Eng) (s : State), s.shotReady 0x0A e f = true → c = s.shotOf e f →
    g = s.eng e → c.b 4 = 1 → 0 < c.b 3 → Runs (.accx e f) s Parts.shot (fun t => ((t.eng e).op (c.b 2)) =
    BitVec.ofInt 32 (satS 32 ((g.acc.toInt + 2 ^ (c.b 3 - 1)) >>> (c.b 3))) ∧
    (t.eng e).sat = (g.sat || outS 32 ((g.acc.toInt + 2 ^ (c.b 3 - 1)) >>> (c.b 3))) ∧ (t.eng e).shots = g.shots + 1 ∧
    (∀ k < 9, k ≠ e.val → t.eng k = s.eng k) ∧ (t.eng e).inp = g.inp ∧ (t.eng e).acc = g.acc ∧ (∀ j < 32, j ≠ c.b 2 →
    (t.eng e).op j = g.op j))) ∧
  (∀ (e : Fin 9) (f : Fetch) (c : Shot) (g : Eng) (s : State), s.shotReady 0x0A e f = true → c = s.shotOf e f →
    g = s.eng e → c.b 4 = 1 → c.b 3 = 0 → Runs (.accx e f) s Parts.shot (fun t => ((t.eng e).op (c.b 2)) =
    BitVec.ofInt 32 (satS 32 g.acc.toInt) ∧ (t.eng e).sat = (g.sat || outS 32 g.acc.toInt) ∧
    (t.eng e).shots = g.shots + 1 ∧ (∀ k < 9, k ≠ e.val → t.eng k = s.eng k) ∧ (t.eng e).inp = g.inp ∧
    (t.eng e).acc = g.acc ∧ (∀ j < 32, j ≠ c.b 2 → (t.eng e).op j = g.op j))) ∧
  (∀ (e : Fin 9) (f : Fetch) (c : Shot) (g : Eng) (r : Int) (s : State), s.shotReady 0x0A e f = true →
    c = s.shotOf e f → g = s.eng e → c.b 4 = 2 ∨ c.b 4 = 3 → (r = (g.acc.toInt + if c.b 4 = 3 ∧
    0 < c.b 3 then 2 ^ (c.b 3 - 1) else 0) >>> (c.b 3)) →
    Runs (.accx e f) s Parts.shot (fun t => ((t.eng e).op (c.b 2)) = BitVec.ofInt 32 (max 0 (min r 0xFFFFFFFF)) ∧
    (t.eng e).sat = (g.sat || decide (r < 0) || decide (0xFFFFFFFF < r)) ∧ (t.eng e).acc = g.acc ∧
    (t.eng e).shots = g.shots + 1 ∧ (∀ k < 9, k ≠ e.val → t.eng k = s.eng k) ∧ (t.eng e).inp = g.inp ∧
    (∀ j < 32, j ≠ c.b 2 → (t.eng e).op j = g.op j))) ∧
  (∀ (e : Fin 9) (f : Fetch) (c : Shot) (g : Eng) (s : State), s.shotReady 0x0F e f = true → c = s.shotOf e f →
    g = s.eng e → Runs (.clamp e f) s Parts.shot (fun t => ((t.eng e).op (c.b 2)) =
    BitVec.ofInt 32 (min (max (c.src g (c.b 3)).toInt (c.src g (c.b 4)).toInt) (c.src g (c.b 5)).toInt) ∧
    (t.eng e).sat = (g.sat ||
    decide (min (max (c.src g (c.b 3)).toInt (c.src g (c.b 4)).toInt) (c.src g (c.b 5)).toInt ≠ (c.src g (c.b
    3)).toInt)) ∧ (t.eng e).shots = g.shots + 1 ∧ (∀ k < 9, k ≠ e.val → t.eng k = s.eng k) ∧ (t.eng e).inp = g.inp ∧
    (t.eng e).acc = g.acc ∧ (∀ j < 32, j ≠ c.b 2 → (t.eng e).op j = g.op j))) ∧
  (∀ (e : Fin 9) (f : Fetch) (c : Shot) (g : Eng) (s : State), s.shotReady 0x10 e f = true → c = s.shotOf e f →
    g = s.eng e → c.b 4 = 0 → Runs (.absn e f) s Parts.shot (fun t => ((t.eng e).op (c.b 2)) =
    BitVec.ofInt 32 (satS 32 (c.src g (c.b 3)).toInt.natAbs) ∧
    (t.eng e).sat = (g.sat || outS 32 (c.src g (c.b 3)).toInt.natAbs) ∧ (t.eng e).shots = g.shots + 1 ∧
    (∀ k < 9, k ≠ e.val → t.eng k = s.eng k) ∧ (t.eng e).inp = g.inp ∧ (t.eng e).acc = g.acc ∧ (∀ j < 32, j ≠ c.b 2 →
    (t.eng e).op j = g.op j))) ∧
  (∀ (e : Fin 9) (f : Fetch) (c : Shot) (g : Eng) (s : State), s.shotReady 0x10 e f = true → c = s.shotOf e f →
    g = s.eng e → c.b 4 = 1 → Runs (.absn e f) s Parts.shot (fun t => ((t.eng e).op (c.b 2)) =
    BitVec.ofInt 32 (satS 32 (-(c.src g (c.b 3)).toInt)) ∧
    (t.eng e).sat = (g.sat || outS 32 (-(c.src g (c.b 3)).toInt)) ∧ (t.eng e).shots = g.shots + 1 ∧
    (∀ k < 9, k ≠ e.val → t.eng k = s.eng k) ∧ (t.eng e).inp = g.inp ∧ (t.eng e).acc = g.acc ∧ (∀ j < 32, j ≠ c.b 2 →
    (t.eng e).op j = g.op j))) ∧
  (∀ (e : Fin 9) (f : Fetch) (c : Shot) (g : Eng) (s : State), s.shotReady 0x10 e f = true → c = s.shotOf e f →
    g = s.eng e → c.b 4 = 2 → Runs (.absn e f) s Parts.shot (fun t => ((t.eng e).op (c.b 2)) =
    BitVec.ofInt 32 (c.src g (c.b 3)).toInt.sign ∧ (t.eng e).sat = g.sat ∧ (t.eng e).shots = g.shots + 1 ∧
    (∀ k < 9, k ≠ e.val → t.eng k = s.eng k) ∧ (t.eng e).inp = g.inp ∧ (t.eng e).acc = g.acc ∧ (∀ j < 32, j ≠ c.b 2 →
    (t.eng e).op j = g.op j)))

/-- The quotient of A times 2^SH by B is computed exactly, truncated toward zero and saturated. With B = 0 it is the
largest number of the sign of A, or 0, and SAT is set. -/
def Obligations.DivTruncates : Prop :=
  (∀ (e : Fin 9) (f : Fetch) (c : Shot) (g : Eng) (s : State), s.shotReady 0x11 e f = true → c = s.shotOf e f →
    g = s.eng e → (c.src g (c.b 4)) ≠ 0 → Runs (.div e f) s Parts.shot (fun t => ((t.eng e).op (c.b 2)) =
    BitVec.ofInt 32 (satS 32 (Int.tdiv ((c.src g (c.b 3)).toInt * 2 ^ (c.b 5)) (c.src g (c.b 4)).toInt)) ∧
    (t.eng e).sat = (g.sat || outS 32 (Int.tdiv ((c.src g (c.b 3)).toInt * 2 ^ (c.b 5)) (c.src g (c.b 4)).toInt)) ∧
    (t.eng e).shots = g.shots + 1 ∧ (∀ k < 9, k ≠ e.val → t.eng k = s.eng k) ∧ (t.eng e).inp = g.inp ∧
    (t.eng e).acc = g.acc ∧ (∀ j < 32, j ≠ c.b 2 → (t.eng e).op j = g.op j))) ∧
  (∀ (e : Fin 9) (f : Fetch) (c : Shot) (g : Eng) (s : State), s.shotReady 0x11 e f = true → c = s.shotOf e f →
    g = s.eng e → (c.src g (c.b 4)) = 0 → Runs (.div e f) s Parts.shot (fun t => (((t.eng e).op (c.b 2)) =
    if 0 < (c.src g (c.b 3)).toInt then 0x7FFFFFFF else if (c.src g (c.b 3)).toInt < 0 then 0x80000000 else 0) ∧
    (t.eng e).sat = true ∧ (t.eng e).shots = g.shots + 1 ∧ (∀ k < 9, k ≠ e.val → t.eng k = s.eng k) ∧
    (t.eng e).inp = g.inp ∧ (t.eng e).acc = g.acc ∧ (∀ j < 32, j ≠ c.b 2 → (t.eng e).op j = g.op j)))

/-- The result r of ISQRT has r^2 at most A times 2^SH, which is below (r + 1)^2, and r is below 2^31. An odd SH raises
ILLEGAL_SHOT. -/
def Obligations.IsqrtFloor : Prop :=
  (∀ (e : Fin 9) (f : Fetch) (c : Shot) (g : Eng) (s : State), s.shotReady 0x12 e f = true → c = s.shotOf e f →
    g = s.eng e → Runs (.isqrt e f) s Parts.shot (fun t =>
    ((t.eng e).op (c.b 2)).toNat ^ 2 ≤ (c.src g (c.b 3)).toNat * 2 ^ (c.b 4) ∧
    (c.src g (c.b 3)).toNat * 2 ^ (c.b 4) < (((t.eng e).op (c.b 2)).toNat + 1) ^ 2 ∧
    ((t.eng e).op (c.b 2)).toNat < 2 ^ 31 ∧ (t.eng e).shots = g.shots + 1 ∧ (∀ k < 9, k ≠ e.val → t.eng k = s.eng k) ∧
    (t.eng e).inp = g.inp ∧ (t.eng e).acc = g.acc ∧ (∀ j < 32, j ≠ c.b 2 → (t.eng e).op j = g.op j))) ∧
  (∀ (e : Fin 9) (f : Fetch) (s : State), s.powered = true → (s.eng e).exec = true → s.engState e = stRunning →
    f.lo ≠ .uncorr → f.hi ≠ .uncorr → (s.shotOf e f).b 0 = 0x12 → (s.shotOf e f).b 4 % 2 = 1 → e.val < 8 →
    Runs (.isqrt e f) s Parts.shot (fun t => t.raised 0x0401 = true ∧ (t.eng e).exec = false))

/-- LOGIC, SHIFT, CMP and SEL write the result that their function field names, and no other slot. -/
def Obligations.ShotsSelect : Prop :=
  (∀ (e : Fin 9) (f : Fetch) (c : Shot) (g : Eng) (s : State), s.shotReady 0x0B e f = true → c = s.shotOf e f →
    g = s.eng e → Runs (.logic e f) s Parts.shot (fun t => (((t.eng e).op (c.b 2)) = if c.b 5 =
    0 then (c.src g (c.b 3)) &&& (c.src g (c.b 4)) else if c.b 5 =
    1 then (c.src g (c.b 3)) ||| (c.src g (c.b 4)) else if c.b 5 =
    2 then (c.src g (c.b 3)) ^^^ (c.src g (c.b 4)) else (c.src g (c.b 3)) &&& ~~~(c.src g (c.b 4))) ∧
    (t.eng e).shots = g.shots + 1 ∧ (∀ k < 9, k ≠ e.val → t.eng k = s.eng k) ∧ (t.eng e).inp = g.inp ∧
    (t.eng e).acc = g.acc ∧ (∀ j < 32, j ≠ c.b 2 → (t.eng e).op j = g.op j))) ∧
  (∀ (e : Fin 9) (f : Fetch) (c : Shot) (g : Eng) (s : State), s.shotReady 0x0C e f = true → c = s.shotOf e f →
    g = s.eng e → Runs (.shift e f) s Parts.shot (fun t => (((t.eng e).op (c.b 2)) = if c.b 5 =
    0 then (c.src g (c.b 3)) <<< ((c.src g (c.b 4)).toNat % 64) else if c.b 5 =
    1 then (c.src g (c.b 3)) >>> ((c.src g (c.b 4)).toNat % 64) else if c.b 5 =
    2 then (c.src g (c.b 3)).sshiftRight ((c.src g (c.b 4)).toNat % 64) else (c.src g (c.b 3)).rotateRight ((c.src g
    (c.b 4)).toNat % 32)) ∧ (t.eng e).shots = g.shots + 1 ∧ (∀ k < 9, k ≠ e.val → t.eng k = s.eng k) ∧
    (t.eng e).inp = g.inp ∧ (t.eng e).acc = g.acc ∧ (∀ j < 32, j ≠ c.b 2 → (t.eng e).op j = g.op j))) ∧
  (∀ (e : Fin 9) (f : Fetch) (c : Shot) (g : Eng) (s : State), s.shotReady 0x0D e f = true → c = s.shotOf e f →
    g = s.eng e → Runs (.cmp e f) s Parts.shot (fun t => (((t.eng e).op (c.b 2)) = maskOf (if c.b 5 =
    0 then (c.src g (c.b 3)) == (c.src g (c.b 4)) else if c.b 5 =
    1 then (c.src g (c.b 3)) != (c.src g (c.b 4)) else if c.b 5 =
    2 then (c.src g (c.b 3)).slt (c.src g (c.b 4)) else if c.b 5 =
    3 then (c.src g (c.b 3)).sle (c.src g (c.b 4)) else if c.b 5 =
    4 then (c.src g (c.b 4)).slt (c.src g (c.b 3)) else if c.b 5 =
    5 then (c.src g (c.b 4)).sle (c.src g (c.b 3)) else if c.b 5 =
    6 then (c.src g (c.b 3)).ult (c.src g (c.b 4)) else if c.b 5 =
    7 then (c.src g (c.b 4)).ule (c.src g (c.b 3)) else (c.src g (c.b 3)).msb == (c.src g (c.b 4)).msb)) ∧
    (t.eng e).shots = g.shots + 1 ∧ (∀ k < 9, k ≠ e.val → t.eng k = s.eng k) ∧ (t.eng e).inp = g.inp ∧
    (t.eng e).acc = g.acc ∧ (∀ j < 32, j ≠ c.b 2 → (t.eng e).op j = g.op j))) ∧
  (∀ (e : Fin 9) (f : Fetch) (c : Shot) (g : Eng) (s : State), s.shotReady 0x0E e f = true → c = s.shotOf e f →
    g = s.eng e → Runs (.sel e f) s Parts.shot (fun t => ((t.eng e).op (c.b 2)) =
    ((c.src g (c.b 4)) &&& g.op (c.b 3)) ||| ((c.src g (c.b 5)) &&& ~~~g.op (c.b 3)) ∧ (t.eng e).shots = g.shots + 1 ∧
    (∀ k < 9, k ≠ e.val → t.eng k = s.eng k) ∧ (t.eng e).inp = g.inp ∧ (t.eng e).acc = g.acc ∧ (∀ j < 32, j ≠ c.b 2 →
    (t.eng e).op j = g.op j)))

/-- ROT writes angle and magnitude of a vector by 16 CORDIC iterations over the table of arctangents, or the rotated
vector. RAMP adds the acceleration to the velocity, holds it at the limit, saturates it to 40 bits, advances the
position by the mean of both velocities and writes the mask of the limit. STEPI interpolates the step count by the age
of the last step over its period; with both words untagged it writes 0 and sets MISS. -/
def Obligations.ShotsRotateAndRamp : Prop :=
  (arctans = [0x20000000, 0x12E4051E, 0x09FB385B, 0x051111D4, 0x028B0D43, 0x0145D7E1, 0x00A2F61E, 0x00517C55,
    0x0028BE53, 0x00145F2F, 0x000A2F98, 0x000517CC, 0x00028BE6, 0x000145F3, 0x0000A2F9, 0x0000517C]) ∧
  (∀ (a : Int) (l : List Int) (i : Nat) (x y z : Int), cordicVector [] i x y z = (x, z) ∧ (0 ≤ y →
    cordicVector (a :: l) i x y z = cordicVector l (i + 1) (x + y >>> i) (y - x >>> i) (z + a)) ∧ (y < 0 →
    cordicVector (a :: l) i x y z = cordicVector l (i + 1) (x - y >>> i) (y + x >>> i) (z - a))) ∧
  (∀ (a : Int) (l : List Int) (i : Nat) (x y z : Int), cordicRotate [] i x y z = (x, y) ∧
    (0 ≤ (BitVec.ofInt 32 z).toInt → cordicRotate (a :: l) i x y z =
    cordicRotate l (i + 1) (x - y >>> i) (y + x >>> i) (z - a)) ∧ ((BitVec.ofInt 32 z).toInt < 0 →
    cordicRotate (a :: l) i x y z = cordicRotate l (i + 1) (x + y >>> i) (y - x >>> i) (z + a))) ∧
  (∀ (e : Fin 9) (f : Fetch) (c : Shot) (g : Eng) (s : State), s.shotReady 0x14 e f = true → c = s.shotOf e f →
    g = s.eng e → c.b 6 = 0 → 0 ≤ (c.src g (c.b 3)).toInt →
    Runs (.rot e f) s Parts.shot (fun t => ((t.eng e).op (c.b 2)) =
    BitVec.ofInt 32 (cordicVector arctans 0 (c.src g (c.b 3)).toInt (c.src g (c.b 4)).toInt 0).2 ∧
    (t.eng e).op (c.b 2 + 1) =
    BitVec.ofInt 32 (satS 32 (((cordicVector arctans 0 (c.src g (c.b 3)).toInt (c.src g (c.b 4)).toInt 0).1 *
    0x9B74EDA8) >>> (32 : Nat))) ∧ (t.eng e).shots = g.shots + 1 ∧ (∀ k < 9, k ≠ e.val → t.eng k = s.eng k) ∧
    (t.eng e).inp = g.inp ∧ (t.eng e).acc = g.acc ∧ (∀ j < 32, j ≠ c.b 2 → j ≠ c.b 2 + 1 → (t.eng e).op j = g.op j))) ∧
  (∀ (e : Fin 9) (f : Fetch) (c : Shot) (g : Eng) (s : State), s.shotReady 0x14 e f = true → c = s.shotOf e f →
    g = s.eng e → c.b 6 = 0 → (c.src g (c.b 3)).toInt < 0 →
    Runs (.rot e f) s Parts.shot (fun t => ((t.eng e).op (c.b 2)) =
    BitVec.ofInt 32 (cordicVector arctans 0 (-(c.src g (c.b 3)).toInt) (-(c.src g (c.b 4)).toInt) 0x80000000).2 ∧
    (t.eng e).op (c.b 2 + 1) =
    BitVec.ofInt 32 (satS 32 (((cordicVector arctans 0 (-(c.src g (c.b 3)).toInt) (-(c.src g (c.b 4)).toInt)
    0x80000000).1 * 0x9B74EDA8) >>> (32 : Nat))) ∧ (t.eng e).shots = g.shots + 1 ∧ (∀ k < 9, k ≠ e.val →
    t.eng k = s.eng k) ∧ (t.eng e).inp = g.inp ∧ (t.eng e).acc = g.acc ∧ (∀ j < 32, j ≠ c.b 2 → j ≠ c.b 2 + 1 →
    (t.eng e).op j = g.op j))) ∧
  (∀ (e : Fin 9) (f : Fetch) (c : Shot) (g : Eng) (r : Int × Int) (s : State), s.shotReady 0x14 e f = true →
    c = s.shotOf e f → g = s.eng e → c.b 6 = 1 → 0x40000000 ≤ (c.src g (c.b 5)).toNat →
    (c.src g (c.b 5)).toNat < 0xC0000000 →
    r =
    cordicRotate arctans 0 (-(c.src g (c.b 3)).toInt) (-(c.src g (c.b 4)).toInt) (((c.src g (c.b 5)).toNat : Int) -
    0x80000000) → Runs (.rot e f) s Parts.shot (fun t => ((t.eng e).op (c.b 2)) =
    BitVec.ofInt 32 (satS 32 ((r.1 * 0x9B74EDA8) >>> (32 : Nat))) ∧
    (t.eng e).op (c.b 2 + 1) = BitVec.ofInt 32 (satS 32 ((r.2 * 0x9B74EDA8) >>> (32 : Nat))) ∧
    (t.eng e).shots = g.shots + 1 ∧ (∀ k < 9, k ≠ e.val → t.eng k = s.eng k) ∧ (t.eng e).inp = g.inp ∧
    (t.eng e).acc = g.acc ∧ (∀ j < 32, j ≠ c.b 2 → j ≠ c.b 2 + 1 → (t.eng e).op j = g.op j))) ∧
  (∀ (e : Fin 9) (f : Fetch) (c : Shot) (g : Eng) (s : State), s.shotReady 0x14 e f = true → c = s.shotOf e f →
    g = s.eng e → c.b 6 = 1 → (c.src g (c.b 5)).toNat < 0x40000000 ∨ 0xC0000000 ≤ (c.src g (c.b 5)).toNat →
    Runs (.rot e f) s Parts.shot (fun t => ((t.eng e).op (c.b 2)) =
    BitVec.ofInt 32 (satS 32 (((cordicRotate arctans 0 (c.src g (c.b 3)).toInt (c.src g (c.b 4)).toInt (c.src g (c.b
    5)).toNat).1 * 0x9B74EDA8) >>> (32 : Nat))) ∧
    (t.eng e).op (c.b 2 + 1) =
    BitVec.ofInt 32 (satS 32 (((cordicRotate arctans 0 (c.src g (c.b 3)).toInt (c.src g (c.b 4)).toInt (c.src g (c.b
    5)).toNat).2 * 0x9B74EDA8) >>> (32 : Nat))) ∧ (t.eng e).shots = g.shots + 1 ∧ (∀ k < 9, k ≠ e.val →
    t.eng k = s.eng k) ∧ (t.eng e).inp = g.inp ∧ (t.eng e).acc = g.acc ∧ (∀ j < 32, j ≠ c.b 2 → j ≠ c.b 2 + 1 →
    (t.eng e).op j = g.op j))) ∧
  (∀ (e : Fin 9) (f : Fetch) (c : Shot) (g : Eng) (v p l x y q : Int) (s : State), s.shotReady 0x17 e f = true →
    c = s.shotOf e f → g = s.eng e → c.b 5 < c.b 2 ∨ c.b 2 + 3 ≤ c.b 5 →
    v = (g.op (c.b 2 + 1)).toInt * 256 + ((g.op (c.b 2 + 2)).toNat % 256 : Nat) →
    p = (g.op (c.b 2)).toInt * 2 ^ 24 + ((g.op (c.b 2 + 2)).toNat / 256 : Nat) → l = (c.src g (c.b 4)).toInt * 256 →
    (x = if (0 < (c.src g (c.b 3)).toInt ∧ l < v + (c.src g (c.b 3)).toInt) ∨ ((c.src g (c.b 3)).toInt < 0 ∧
    v + (c.src g (c.b 3)).toInt < l) then l else v + (c.src g (c.b 3)).toInt) → y = satS 40 x →
    q = p + (v + y) >>> (1 : Nat) → Runs (.ramp e f) s Parts.shot (fun t => ((t.eng e).op (c.b 2)) =
    BitVec.ofInt 32 (q >>> (24 : Nat)) ∧ (t.eng e).op (c.b 2 + 1) = BitVec.ofInt 32 (y >>> (8 : Nat)) ∧
    (t.eng e).op (c.b 2 + 2) = BitVec.ofInt 32 (q % 2 ^ 24 * 256 + y % 256) ∧ (t.eng e).op (c.b 5) = maskOf (y == l) ∧
    (t.eng e).sat = (g.sat || outS 40 x) ∧ (t.eng e).shots = g.shots + 1 ∧ (∀ k < 9, k ≠ e.val → t.eng k = s.eng k) ∧
    (t.eng e).inp = g.inp ∧ (t.eng e).acc = g.acc ∧ (∀ j < 32, (j < c.b 2 ∨ c.b 2 + 3 ≤ j) → j ≠ c.b 5 →
    (t.eng e).op j = g.op j))) ∧
  (∀ (e : Fin 9) (f : Fetch) (c : Shot) (g : Eng) (s : State), s.shotReady 0x19 e f = true → c = s.shotOf e f →
    g = s.eng e → (g.input (16 * c.ctx + 8)).tag = false → (g.input (16 * c.ctx + 9)).tag = false →
    Runs (.stepi e f) s Parts.shot (fun t => ((t.eng e).op (c.b 2)) = 0 ∧ (t.eng e).miss = true ∧
    (t.eng e).shots = g.shots + 1 ∧ (∀ k < 9, k ≠ e.val → t.eng k = s.eng k) ∧ (t.eng e).inp = g.inp ∧
    (t.eng e).acc = g.acc ∧ (∀ j < 32, j ≠ c.b 2 → (t.eng e).op j = g.op j))) ∧
  (∀ (e : Fin 9) (f : Fetch) (c : Shot) (g : Eng) (s : State), s.shotReady 0x19 e f = true → c = s.shotOf e f →
    g = s.eng e → (g.input (16 * c.ctx + 8)).tag = true → (g.input (16 * c.ctx + 9)).tag = true →
    (g.input (16 * c.ctx + 9)).w.toNat / 65536 % 32768 = 0x7FFF → (c.src g (c.b 3)) = 0 →
    Runs (.stepi e f) s Parts.shot (fun t => ((t.eng e).op (c.b 2)) =
    BitVec.ofInt 32 ((g.input (16 * c.ctx + 8)).w.toInt * 1024) ∧ (t.eng e).shots = g.shots + 1 ∧
    (∀ k < 9, k ≠ e.val → t.eng k = s.eng k) ∧ (t.eng e).inp = g.inp ∧ (t.eng e).acc = g.acc ∧ (∀ j < 32, j ≠ c.b 2 →
    (t.eng e).op j = g.op j))) ∧
  (∀ (e : Fin 9) (f : Fetch) (c : Shot) (g : Eng) (tw p sc : Nat) (s : State), s.shotReady 0x19 e f = true →
    c = s.shotOf e f → g = s.eng e → (g.input (16 * c.ctx + 8)).tag = true → (g.input (16 * c.ctx + 9)).tag = true →
    tw = (g.input (16 * c.ctx + 9)).w.toNat → p = tw / 65536 % 32768 → p ≠ 0 → p ≠ 0x7FFF →
    (sc = if (c.src g (c.b 3)).toNat % 2048 =
    0 ∨ 1024 < (c.src g (c.b 3)).toNat % 2048 then 1024 else (c.src g (c.b 3)).toNat % 2048) →
    Runs (.stepi e f) s Parts.shot (fun t => ((t.eng e).op (c.b 2)) =
    BitVec.ofInt 32 ((g.input (16 * c.ctx + 8)).w.toInt * sc + (if 32768 ≤ tw / 65536 then -1 else 1) * (min (sc * (tw
    % 65536) / p) (sc - 1) : Nat)) ∧ (t.eng e).shots = g.shots + 1 ∧ (∀ k < 9, k ≠ e.val → t.eng k = s.eng k) ∧
    (t.eng e).inp = g.inp ∧ (t.eng e).acc = g.acc ∧ (∀ j < 32, j ≠ c.b 2 → (t.eng e).op j = g.op j)))

/-- TBL reads or interpolates its entries by R156, CAMI its ascending keyframes by R162, over the words of their tables,
saturated; CAMI also writes the index. OBSV moves the two states of each phase whose samples are valid by the eight
coefficients of its row, rounded and saturated, and leaves those of another; its mask is all ones when both moved. PLAN
writes the four words of the plan, with the accelerations derated by its ramp table, whose entries count as 0 to 65536,
and with PARAM_ORDER also where IHOLD is above IRUN (log entry 104, the model's choice). The plan: with STOP a FREEZE
frame, or REST for an axis that stands on a whole microstep; toward a target REST, ARRIVE, braking in the wrong
direction, or the fastest of three arms that can still stop in time; toward a speed the ramp of R190. A REST frame with
STOP reports AT_TARGET 0 (log entry 115), outside a snap the distance is the target as commanded less the position (log
entry 116), and CMD 1 in HOMING plans and reports as POSITION (log entry 117): the model's choices. -/
def Obligations.ShotsReadTables : Prop :=
  (∀ (e : Fin 9) (f : Fetch) (c : Shot) (g : Eng) (T h N F : Nat) (x i y : Int) (s : State), s.shotReady 0x13 e f =
    true → c = s.shotOf e f → g = s.eng e → s.mem.flaws = [] → T = c.table (c.kidx 4) →
    h = (memWord s.mem.cells (T + 0)).toNat → (N = if 2 ≤ h % 2048 ∧ h % 2048 ≤ 1024 then h % 2048 else 2) →
    F = min (h / 65536 % 32) 16 → (∀ k < N + 2, s.ownerFault e (T + 4 * k) = none) →
    x = (c.src g (c.b 3)).toInt - (memWord s.mem.cells (T + 4)).toInt → i = x >>> F →
    (y =
    if i < 0 then (memWord s.mem.cells (T + 8 + 4 * 0)).toInt else if N - 1 ≤ i then (memWord s.mem.cells (T + 8 + 4 *
    (N - 1))).toInt else if c.b 6 =
    1 then (memWord s.mem.cells (T + 8 + 4 * i.toNat)).toInt + (((memWord s.mem.cells (T + 8 + 4 * (i.toNat +
    1))).toInt - (memWord s.mem.cells (T + 8 + 4 * i.toNat)).toInt) * (x - i * 2 ^ F)) >>> F else (memWord s.mem.cells
    (T + 8 + 4 * i.toNat)).toInt) → Runs (.tbl e f) s Parts.shotStore (fun t => ((t.eng e).op (c.b 2)) =
    BitVec.ofInt 32 (satS 32 y) ∧ (t.eng e).sat = (g.sat || decide (i < 0 ∨ (N : Int) - 1 < i ∨ (i = (N : Int) - 1 ∧
    i * 2 ^ F < x)) || outS 32 y || decide (N ≠ h % 2048 ∨ F ≠ h / 65536 % 32)) ∧ (t.eng e).shots = g.shots + 1 ∧
    (∀ k < 9, k ≠ e.val → t.eng k = s.eng k) ∧ (t.eng e).inp = g.inp ∧ (t.eng e).acc = g.acc ∧ (∀ j < 32, j ≠ c.b 2 →
    (t.eng e).op j = g.op j))) ∧
  (∀ (e : Fin 9) (f : Fetch) (c : Shot) (g : Eng) (T h N i : Nat) (m y : Int) (s : State), s.shotReady 0x18 e f =
    true → c = s.shotOf e f → g = s.eng e → s.mem.flaws = [] → T = c.table (c.kidx 4) →
    h = (memWord s.mem.cells (T + 0)).toNat → (N = if h % 512 < 2 then 2 else min (h % 512) 256) →
    (∀ k < 2 * N + 1, s.ownerFault e (T + 4 * k) = none) →
    (∀ k < N - 1, (memWord s.mem.cells (T + 4 + 8 * k)).toInt < (memWord s.mem.cells (T + 4 + 8 * (k + 1))).toInt) →
    (m = if h / 65536 % 2 =
    1 then (memWord s.mem.cells (T + 4 + 8 * 0)).toInt + ((c.src g (c.b 3)).toInt - (memWord s.mem.cells (T + 4 + 8 *
    0)).toInt) % ((memWord s.mem.cells (T + 4 + 8 * (N - 1))).toInt - (memWord s.mem.cells (T + 4 + 8 * 0)).toInt)
    else (c.src g (c.b 3)).toInt) → i < N → (m < (memWord s.mem.cells (T + 4 + 8 * 0)).toInt → i = 0) →
    ((memWord s.mem.cells (T + 4 + 8 * 0)).toInt ≤ m → (memWord s.mem.cells (T + 4 + 8 * i)).toInt ≤ m) → (i + 1 < N →
    m < (memWord s.mem.cells (T + 4 + 8 * (i + 1))).toInt) →
    (y =
    if m < (memWord s.mem.cells (T + 4 + 8 * 0)).toInt then (memWord s.mem.cells (T + 8 + 8 * 0)).toInt else if (memWord
    s.mem.cells (T + 4 + 8 * (N - 1))).toInt ≤ m then (memWord s.mem.cells (T + 8 + 8 * (N - 1))).toInt else (memWord
    s.mem.cells (T + 8 + 8 * i)).toInt + Int.tdiv (((memWord s.mem.cells (T + 8 + 8 * (i + 1))).toInt - (memWord
    s.mem.cells (T + 8 + 8 * i)).toInt) * (m - (memWord s.mem.cells (T + 4 + 8 * i)).toInt)) ((memWord s.mem.cells (T
    + 4 + 8 * (i + 1))).toInt - (memWord s.mem.cells (T + 4 + 8 * i)).toInt)) →
    Runs (.cami e f) s Parts.shotStore (fun t => ((t.eng e).op (c.b 2)) = BitVec.ofInt 32 (satS 32 y) ∧
    (t.eng e).op (c.b 2 + 1) = BitVec.ofNat 32 i ∧
    (t.eng e).sat = (g.sat ||
    decide (m < (memWord s.mem.cells (T + 4 + 8 * 0)).toInt ∨ (memWord s.mem.cells (T + 4 + 8 * (N - 1))).toInt < m)
    || outS 32 y || decide (N ≠ h % 512)) ∧ (t.eng e).shots = g.shots + 1 ∧ (∀ k < 9, k ≠ e.val → t.eng k = s.eng k) ∧
    (t.eng e).inp = g.inp ∧ (t.eng e).acc = g.acc ∧ (∀ j < 32, j ≠ c.b 2 → j ≠ c.b 2 + 1 → (t.eng e).op j = g.op j))) ∧
  (∀ (e : Fin 9) (f : Fetch) (c : Shot) (g : Eng) (T : Nat) (r0 r1 r2 r3 : Int) (s : State), s.shotReady 0x15 e f =
    true → c = s.shotOf e f → g = s.eng e → s.mem.flaws = [] → T = c.table (c.kidx 4) →
    (∀ k < 16, s.ownerFault e (T + 4 * k) = none) →
    r0 =
    ((memWord s.mem.cells (T + 0)).toInt * (g.op (c.b 2 + 0)).toInt + (memWord s.mem.cells (T + 4)).toInt * (g.op (c.b
    2 + 1)).toInt + (memWord s.mem.cells (T + 16)).toInt * (((g.input (16 * c.ctx + 4)).w.extractLsb' 0 16).toInt * 2
    ^ 15) + (memWord s.mem.cells (T + 20)).toInt * (((g.input (16 * c.ctx + 6)).w.extractLsb' 0 16).toInt * 2 ^ 15) +
    2 ^ 29) >>> (30 : Nat) → r1 =
    ((memWord s.mem.cells (T + 8)).toInt * (g.op (c.b 2 + 0)).toInt + (memWord s.mem.cells (T + 12)).toInt * (g.op
    (c.b 2 + 1)).toInt + (memWord s.mem.cells (T + 24)).toInt * (((g.input (16 * c.ctx + 4)).w.extractLsb' 0 16).toInt
    * 2 ^ 15) + (memWord s.mem.cells (T + 28)).toInt * (((g.input (16 * c.ctx + 6)).w.extractLsb' 0 16).toInt * 2 ^
    15) + 2 ^ 29) >>> (30 : Nat) → r2 =
    ((memWord s.mem.cells (T + 32)).toInt * (g.op (c.b 2 + 2)).toInt + (memWord s.mem.cells (T + 36)).toInt * (g.op
    (c.b 2 + 3)).toInt + (memWord s.mem.cells (T + 48)).toInt * (((g.input (16 * c.ctx + 5)).w.extractLsb' 0 16).toInt
    * 2 ^ 15) + (memWord s.mem.cells (T + 52)).toInt * (((g.input (16 * c.ctx + 7)).w.extractLsb' 0 16).toInt * 2 ^
    15) + 2 ^ 29) >>> (30 : Nat) → r3 =
    ((memWord s.mem.cells (T + 40)).toInt * (g.op (c.b 2 + 2)).toInt + (memWord s.mem.cells (T + 44)).toInt * (g.op
    (c.b 2 + 3)).toInt + (memWord s.mem.cells (T + 56)).toInt * (((g.input (16 * c.ctx + 5)).w.extractLsb' 0 16).toInt
    * 2 ^ 15) + (memWord s.mem.cells (T + 60)).toInt * (((g.input (16 * c.ctx + 7)).w.extractLsb' 0 16).toInt * 2 ^
    15) + 2 ^ 29) >>> (30 : Nat) → Runs (.obsv e f) s Parts.shotStore (fun t => ((t.eng e).op (c.b 2 + 0) =
    if (g.input (16 * c.ctx + 4)).valid &&
    (g.input (16 * c.ctx + 6)).valid then BitVec.ofInt 32 (satS 32 r0) else g.op (c.b 2 + 0)) ∧
    ((t.eng e).op (c.b 2 + 1) = if (g.input (16 * c.ctx + 4)).valid &&
    (g.input (16 * c.ctx + 6)).valid then BitVec.ofInt 32 (satS 32 r1) else g.op (c.b 2 + 1)) ∧
    ((t.eng e).op (c.b 2 + 2) = if (g.input (16 * c.ctx + 5)).valid &&
    (g.input (16 * c.ctx + 7)).valid then BitVec.ofInt 32 (satS 32 r2) else g.op (c.b 2 + 2)) ∧
    ((t.eng e).op (c.b 2 + 3) = if (g.input (16 * c.ctx + 5)).valid &&
    (g.input (16 * c.ctx + 7)).valid then BitVec.ofInt 32 (satS 32 r3) else g.op (c.b 2 + 3)) ∧
    ((t.eng e).op (c.b 3) = maskOf ([4, 5, 6, 7].all fun j => (g.input (16 * c.ctx + j)).valid)) ∧
    (t.eng e).shots = g.shots + 1 ∧ (∀ k < 9, k ≠ e.val → t.eng k = s.eng k) ∧ (t.eng e).inp = g.inp ∧
    (t.eng e).acc = g.acc ∧ (∀ j < 32, (j < c.b 2 ∨ c.b 2 + 4 ≤ j) → j ≠ c.b 3 → (t.eng e).op j = g.op j))) ∧
  (∀ (e : Fin 9) (f : Fetch) (c : Shot) (g : Eng) (n T h N F : Nat) (v x i y : Int) (l : List Word) (s : State),
    s.shotReady 0x16 e f = true → c = s.shotOf e f → g = s.eng e → s.mem.flaws = [] → n = s.shotAxis e c.ctx →
    T = c.table (c.kidx 6) → v = (g.op (c.b 2 + 1)).toInt * 256 + ((g.op (c.b 2 + 2)).toNat % 256 : Nat) →
    h = (memWord s.mem.cells (T + 0)).toNat → (N = if 2 ≤ h % 2048 ∧ h % 2048 ≤ 1024 then h % 2048 else 2) →
    F = min (h / 65536 % 32) 16 → (∀ k < N + 2, s.ownerFault e (T + 4 * k) = none) →
    x = ((v.natAbs / 256 : Nat) : Int) - (memWord s.mem.cells (T + 4)).toInt → i = x >>> F →
    (y =
    if i < 0 then (max 0 (min (memWord s.mem.cells (T + 8 + 4 * 0)).toInt 65536)) else if N - 1 ≤ i then (max 0 (min
    (memWord s.mem.cells (T + 8 + 4 * (N - 1))).toInt 65536)) else (max 0 (min (memWord s.mem.cells (T + 8 + 4 *
    i.toNat)).toInt 65536)) + (((max 0 (min (memWord s.mem.cells (T + 8 + 4 * (i.toNat + 1))).toInt 65536)) - (max 0
    (min (memWord s.mem.cells (T + 8 + 4 * i.toNat)).toInt 65536))) * (x - i * 2 ^ F)) >>> F) →
    (l =
    (planEval (g.op (c.b 2)) (g.op (c.b 2 + 1)) (g.op (c.b 2 + 2)) (g.op (c.b 2 + 3)) ((List.range 10).map fun i =>
    g.op (c.b 3 + i)) (c.src g (c.b 5)) y).1) →
    Runs (.plan e f) s Parts.shotStore (fun t => (∀ k < 4, (t.eng e).op (c.b 4 + k) = Tbl.get 0 l k ||| (if k = 2 ∧
    (s.mot n).irun < (s.mot n).ihold then 0x800 else 0)) ∧ (t.eng e).shots = g.shots + 1 ∧ (∀ k < 9, k ≠ e.val →
    t.eng k = s.eng k) ∧ (t.eng e).inp = g.inp ∧ (t.eng e).acc = g.acc ∧ (∀ j < 32, (j < c.b 4 ∨ c.b 4 + 4 ≤ j) →
    (t.eng e).op j = g.op j))) ∧
  (∀ (pos vel frac tgt c : Word) (p l : List Word) (sc v vm w1 w0 : Int), v =
    vel.toInt * 256 + (frac.toNat % 256 : Nat) → vm = ((Tbl.get 0 p 4).toNat : Int) * 256 →
    w1 = min (((Tbl.get 0 p 2).toNat : Int) * 256) vm → w0 = min (((Tbl.get 0 p 7).toNat : Int) * 256) w1 →
    l = (planEval pos vel frac tgt p c sc).1 → c.getLsbD 2 = true → v ≠ 0 ∨ frac.toNat / 256 ≠ 0 →
    Tbl.get 0 l 0 = BitVec.ofInt 32 (satS 32 (-v)) ∧ Tbl.get 0 l 1 = 0 ∧ (Tbl.get 0 l 2).toNat % 64 = 0x19 ∧
    (Tbl.get 0 l 2).getLsbD 13 = decide (w0 < v.natAbs) ∧ Tbl.get 0 l 3 = 0) ∧
  (∀ (pos vel frac tgt c : Word) (p l : List Word) (sc v vm w1 w0 : Int), v =
    vel.toInt * 256 + (frac.toNat % 256 : Nat) → vm = ((Tbl.get 0 p 4).toNat : Int) * 256 →
    w1 = min (((Tbl.get 0 p 2).toNat : Int) * 256) vm → w0 = min (((Tbl.get 0 p 7).toNat : Int) * 256) w1 →
    l = (planEval pos vel frac tgt p c sc).1 → c.getLsbD 2 = true → v = 0 → frac.toNat / 256 = 0 → Tbl.get 0 l 0 = 0 ∧
    Tbl.get 0 l 1 = 0 ∧ (Tbl.get 0 l 2).toNat % 128 = 0 ∧ Tbl.get 0 l 3 = tgt - pos) ∧
  (∀ (pos vel frac tgt c : Word) (p l : List Word) (sc v vm w1 w0 : Int), v =
    vel.toInt * 256 + (frac.toNat % 256 : Nat) → vm = ((Tbl.get 0 p 4).toNat : Int) * 256 →
    w1 = min (((Tbl.get 0 p 2).toNat : Int) * 256) vm → w0 = min (((Tbl.get 0 p 7).toNat : Int) * 256) w1 →
    l = (planEval pos vel frac tgt p c sc).1 → c.getLsbD 2 = false → c.getLsbD 3 = false → c.toNat % 4 = 2 →
    c.toNat / 512 % 8 = 4 → Tbl.get 0 l 0 = BitVec.ofInt 32 (satS 32 (-v)) ∧ Tbl.get 0 l 1 = 0 ∧
    (Tbl.get 0 l 2).toNat % 64 = 0x19 ∧ (Tbl.get 0 l 2).getLsbD 13 = false ∧ Tbl.get 0 l 3 = 0) ∧
  (∀ (pos vel frac tgt c : Word) (p l : List Word) (sc v vm w1 w0 : Int) (g d : Int), v =
    vel.toInt * 256 + (frac.toNat % 256 : Nat) → vm = ((Tbl.get 0 p 4).toNat : Int) * 256 →
    w1 = min (((Tbl.get 0 p 2).toNat : Int) * 256) vm → w0 = min (((Tbl.get 0 p 7).toNat : Int) * 256) w1 →
    l = (planEval pos vel frac tgt p c sc).1 → c.getLsbD 2 = false → c.getLsbD 3 = false →
    (c.toNat % 4 = 0 ∨ c.toNat % 4 = 3) ∧ c.getLsbD 8 = false ∧ c.toNat / 512 % 8 ≠ 2 ∧
    c.toNat / 512 % 8 ≠ 3 ∨ c.toNat % 4 = 2 ∧ c.toNat / 512 % 8 = 1 → (Tbl.get 0 p 8).toInt ≤ (Tbl.get 0 p 9).toInt →
    (g = if c.getLsbD 5 then max (Tbl.get 0 p 8).toInt (min tgt.toInt (Tbl.get 0 p 9).toInt) else tgt.toInt) →
    d = Int.bmod (g * 2 ^ 24 - (pos.toInt * 2 ^ 24 + (frac.toNat / 256 : Nat))) (2 ^ 56) → v = 0 → d = 0 →
    Tbl.get 0 l 0 = 0 ∧ Tbl.get 0 l 1 = 0 ∧ (Tbl.get 0 l 2).toNat % 128 = 0x40 ∧ Tbl.get 0 l 3 = tgt - pos ∧
    (Tbl.get 0 l 2).getLsbD 8 = decide (g ≠ tgt.toInt)) ∧
  (∀ (pos vel frac tgt c : Word) (p l : List Word) (sc v vm w1 w0 : Int) (g d : Int), v =
    vel.toInt * 256 + (frac.toNat % 256 : Nat) → vm = ((Tbl.get 0 p 4).toNat : Int) * 256 →
    w1 = min (((Tbl.get 0 p 2).toNat : Int) * 256) vm → w0 = min (((Tbl.get 0 p 7).toNat : Int) * 256) w1 →
    l = (planEval pos vel frac tgt p c sc).1 → c.getLsbD 2 = false → c.getLsbD 3 = false →
    (c.toNat % 4 = 0 ∨ c.toNat % 4 = 3) ∧ c.getLsbD 8 = false ∧ c.toNat / 512 % 8 ≠ 2 ∧
    c.toNat / 512 % 8 ≠ 3 ∨ c.toNat % 4 = 2 ∧ c.toNat / 512 % 8 = 1 → (Tbl.get 0 p 8).toInt ≤ (Tbl.get 0 p 9).toInt →
    (g = if c.getLsbD 5 then max (Tbl.get 0 p 8).toInt (min tgt.toInt (Tbl.get 0 p 9).toInt) else tgt.toInt) →
    d = Int.bmod (g * 2 ^ 24 - (pos.toInt * 2 ^ 24 + (frac.toNat / 256 : Nat))) (2 ^ 56) → v ≠ 0 ∨ d ≠ 0 →
    ((v.natAbs : Int) ≤ w0 ∧ (d.natAbs : Int) ≤ w0 ∧ (v = 0 →
    (d.natAbs : Int) ≤ ((Tbl.get 0 p 0).toNat : Int) * 256)) → Tbl.get 0 l 0 = BitVec.ofInt 32 (satS 32 (-v)) ∧
    Tbl.get 0 l 1 = 0 ∧ (Tbl.get 0 l 2).toNat % 128 = 0x58 ∧ Tbl.get 0 l 3 = BitVec.ofInt 32 (g - pos.toInt) ∧
    (Tbl.get 0 l 2).getLsbD 8 = decide (g ≠ tgt.toInt)) ∧
  (∀ (pos vel frac tgt c : Word) (p l : List Word) (sc v vm w1 w0 : Int) (g d v' : Int), v =
    vel.toInt * 256 + (frac.toNat % 256 : Nat) → vm = ((Tbl.get 0 p 4).toNat : Int) * 256 →
    w1 = min (((Tbl.get 0 p 2).toNat : Int) * 256) vm → w0 = min (((Tbl.get 0 p 7).toNat : Int) * 256) w1 →
    l = (planEval pos vel frac tgt p c sc).1 → c.getLsbD 2 = false → c.getLsbD 3 = false →
    (c.toNat % 4 = 0 ∨ c.toNat % 4 = 3) ∧ c.getLsbD 8 = false ∧ c.toNat / 512 % 8 ≠ 2 ∧
    c.toNat / 512 % 8 ≠ 3 ∨ c.toNat % 4 = 2 ∧ c.toNat / 512 % 8 = 1 → (Tbl.get 0 p 8).toInt ≤ (Tbl.get 0 p 9).toInt →
    (g = if c.getLsbD 5 then max (Tbl.get 0 p 8).toInt (min tgt.toInt (Tbl.get 0 p 9).toInt) else tgt.toInt) →
    d = Int.bmod (g * 2 ^ 24 - (pos.toInt * 2 ^ 24 + (frac.toNat / 256 : Nat))) (2 ^ 56) → (¬ ((v.natAbs : Int) ≤ w0 ∧
    (d.natAbs : Int) ≤ w0 ∧ (v = 0 → (d.natAbs : Int) ≤ ((Tbl.get 0 p 0).toNat : Int) * 256))) → v ≠ 0 →
    d.sign ≠ v.sign → (v' =
    v.sign * (if (v.natAbs : Int) ≤ w0 then 0 else if w1 < (v.natAbs : Int) then max (max ((v.natAbs : Int) -
    ((Tbl.get 0 p 5).toNat : Int)) w1) 0 else max (max ((v.natAbs : Int) - ((Tbl.get 0 p 6).toNat : Int)) w0) 0)) →
    Tbl.get 0 l 0 = BitVec.ofInt 32 (satS 32 (v' - v)) ∧
    (Tbl.get 0 l 1 =
    BitVec.ofInt 32 (if v < v' then -((-v') >>> (8 : Nat)) else if v' < v then v' >>> (8 : Nat) else v >>> (8 : Nat)))
    ∧ Tbl.get 0 l 3 = tgt - pos ∧ (Tbl.get 0 l 2).getLsbD 5 = true ∧
    (Tbl.get 0 l 2).getLsbD 8 = decide (g ≠ tgt.toInt)) ∧
  (∀ (pos vel frac tgt c : Word) (p l : List Word) (sc v vm w1 w0 : Int) (g d vs a1 a2 u s cru acc dec ba bc u' v' :
    Int), v = vel.toInt * 256 + (frac.toNat % 256 : Nat) → vm = ((Tbl.get 0 p 4).toNat : Int) * 256 →
    w1 = min (((Tbl.get 0 p 2).toNat : Int) * 256) vm → w0 = min (((Tbl.get 0 p 7).toNat : Int) * 256) w1 →
    l = (planEval pos vel frac tgt p c sc).1 → c.getLsbD 2 = false → c.getLsbD 3 = false →
    (c.toNat % 4 = 0 ∨ c.toNat % 4 = 3) ∧ c.getLsbD 8 = false ∧ c.toNat / 512 % 8 ≠ 2 ∧
    c.toNat / 512 % 8 ≠ 3 ∨ c.toNat % 4 = 2 ∧ c.toNat / 512 % 8 = 1 → (Tbl.get 0 p 8).toInt ≤ (Tbl.get 0 p 9).toInt →
    (g = if c.getLsbD 5 then max (Tbl.get 0 p 8).toInt (min tgt.toInt (Tbl.get 0 p 9).toInt) else tgt.toInt) →
    d = Int.bmod (g * 2 ^ 24 - (pos.toInt * 2 ^ 24 + (frac.toNat / 256 : Nat))) (2 ^ 56) → (¬ ((v.natAbs : Int) ≤ w0 ∧
    (d.natAbs : Int) ≤ w0 ∧ (v = 0 → (d.natAbs : Int) ≤ ((Tbl.get 0 p 0).toNat : Int) * 256))) → d ≠ 0 →
    v = 0 ∨ d.sign = v.sign → 0 < ((Tbl.get 0 p 5).toNat : Int) → 0 < ((Tbl.get 0 p 6).toNat : Int) →
    vs = min (((Tbl.get 0 p 0).toNat : Int) * 256) w0 →
    a1 = (((Tbl.get 0 p 1).toNat : Int) * (max 0 (min sc 65536))) >>> (16 : Nat) →
    a2 = (((Tbl.get 0 p 3).toNat : Int) * (max 0 (min sc 65536))) >>> (16 : Nat) → u = v.natAbs →
    (s = if v = 0 then d.sign else v.sign) →
    (cru =
    if u ≤ vm then u else if u ≤ w0 then vm else if w1 < u then max (max (u - ((Tbl.get 0 p 5).toNat : Int)) w1) vm
    else max (max (u - ((Tbl.get 0 p 6).toNat : Int)) w0) vm) →
    (acc =
    if u < vm then (if u < vs then min vs vm else if u < w1 then min (min (u + a1) w1) vm else min (u + a2) vm) else
    cru) → (dec =
    if u ≤ w0 then u else if u ≤ w0 then w0 else if w1 < u then max (max (u - ((Tbl.get 0 p 5).toNat : Int)) w1) w0
    else max (max (u - ((Tbl.get 0 p 6).toNat : Int)) w0) w0) →
    (ba = if acc ≤ w0 then 0 else if acc ≤ w1 then ((fun k : Int =>
    2 * k * acc - ((Tbl.get 0 p 6).toNat : Int) * k * (k - 1) - (acc - w0)) ((acc - w0 + ((Tbl.get 0 p 6).toNat : Int)
    - 1) / ((Tbl.get 0 p 6).toNat : Int)) + 1) / 2 else ((fun k : Int =>
    2 * k * acc - ((Tbl.get 0 p 5).toNat : Int) * k * (k - 1) - (acc - w1)) ((acc - w1 + ((Tbl.get 0 p 5).toNat : Int)
    - 1) / ((Tbl.get 0 p 5).toNat : Int)) + (fun k : Int =>
    2 * k * w1 - ((Tbl.get 0 p 6).toNat : Int) * k * (k - 1) - (w1 - w0)) ((w1 - w0 + ((Tbl.get 0 p 6).toNat : Int) -
    1) / ((Tbl.get 0 p 6).toNat : Int)) + 1) / 2) →
    (bc = if cru ≤ w0 then 0 else if cru ≤ w1 then ((fun k : Int =>
    2 * k * cru - ((Tbl.get 0 p 6).toNat : Int) * k * (k - 1) - (cru - w0)) ((cru - w0 + ((Tbl.get 0 p 6).toNat : Int)
    - 1) / ((Tbl.get 0 p 6).toNat : Int)) + 1) / 2 else ((fun k : Int =>
    2 * k * cru - ((Tbl.get 0 p 5).toNat : Int) * k * (k - 1) - (cru - w1)) ((cru - w1 + ((Tbl.get 0 p 5).toNat : Int)
    - 1) / ((Tbl.get 0 p 5).toNat : Int)) + (fun k : Int =>
    2 * k * w1 - ((Tbl.get 0 p 6).toNat : Int) * k * (k - 1) - (w1 - w0)) ((w1 - w0 + ((Tbl.get 0 p 6).toNat : Int) -
    1) / ((Tbl.get 0 p 6).toNat : Int)) + 1) / 2) →
    (u' =
    if ba ≤ s * (d - (v + s * acc) >>> (1 : Nat)) then acc else if bc ≤ s * (d - (v + s * cru) >>> (1 : Nat)) then cru
    else dec) → v' = s * u' → Tbl.get 0 l 0 = BitVec.ofInt 32 (satS 32 (v' - v)) ∧
    (Tbl.get 0 l 1 =
    BitVec.ofInt 32 (if v < v' then -((-v') >>> (8 : Nat)) else if v' < v then v' >>> (8 : Nat) else v >>> (8 : Nat)))
    ∧ Tbl.get 0 l 3 = tgt - pos ∧ (Tbl.get 0 l 2).getLsbD 5 = false ∧
    (Tbl.get 0 l 2).getLsbD 8 = decide (g ≠ tgt.toInt) ∧
    ((Tbl.get 0 l 2).toNat % 16 = if u < u' then (if u < vs then 1 else if u < w1 then 2 else 3) else if u' =
    u then (if u = 0 then 0 else 4) else if u' = 0 ∧ u ≤ w0 then 7 else if w1 < u then 5 else 6)) ∧
  (∀ (pos vel frac tgt c : Word) (p l : List Word) (sc v vm w1 w0 : Int) (vs a1 a2 u w u' v' : Int), v =
    vel.toInt * 256 + (frac.toNat % 256 : Nat) → vm = ((Tbl.get 0 p 4).toNat : Int) * 256 →
    w1 = min (((Tbl.get 0 p 2).toNat : Int) * 256) vm → w0 = min (((Tbl.get 0 p 7).toNat : Int) * 256) w1 →
    l = (planEval pos vel frac tgt p c sc).1 → c.getLsbD 2 = false → c.getLsbD 5 = false →
    vs = min (((Tbl.get 0 p 0).toNat : Int) * 256) w0 →
    a1 = (((Tbl.get 0 p 1).toNat : Int) * (max 0 (min sc 65536))) >>> (16 : Nat) →
    a2 = (((Tbl.get 0 p 3).toNat : Int) * (max 0 (min sc 65536))) >>> (16 : Nat) → u = v.natAbs →
    (w = if c.getLsbD 3 = false ∧ c.toNat % 4 = 1 then max (-vm) (min vm (tgt.toInt * 256)) else 0) →
    c.getLsbD 3 = true ∨ c.toNat % 4 = 1 ∨ c.toNat % 4 = 2 ∧ c.toNat / 512 % 8 ≠ 1 ∧ c.toNat / 512 % 8 ≠ 2 ∧
    c.toNat / 512 % 8 ≠ 4 ∨ c.toNat % 4 ≠ 2 ∧ c.getLsbD 8 = true → (u' = if v ≠ 0 ∧
    w.sign ≠ v.sign then (if u ≤ w0 then 0 else if w1 < u then max (max (u - ((Tbl.get 0 p 5).toNat : Int)) w1) 0 else
    max (max (u - ((Tbl.get 0 p 6).toNat : Int)) w0) 0) else if u < w.natAbs then (if u < vs then min vs (w.natAbs :
    Int) else if u < w1 then min (min (u + a1) w1) (w.natAbs : Int) else min (u + a2) (w.natAbs : Int)) else if
    (w.natAbs : Int) < u then (if u ≤ w0 then (w.natAbs : Int) else if w1 < u then max (max (u - ((Tbl.get 0 p
    5).toNat : Int)) w1) (w.natAbs : Int) else max (max (u - ((Tbl.get 0 p 6).toNat : Int)) w0) (w.natAbs : Int)) else
    u) → v' = (if v = 0 then w.sign else v.sign) * u' → Tbl.get 0 l 0 = BitVec.ofInt 32 (satS 32 (v' - v)) ∧
    (Tbl.get 0 l 1 =
    BitVec.ofInt 32 (if v < v' then -((-v') >>> (8 : Nat)) else if v' < v then v' >>> (8 : Nat) else v >>> (8 : Nat)))
    ∧ Tbl.get 0 l 3 = tgt - pos ∧ (Tbl.get 0 l 2).getLsbD 5 = false ∧
    ((Tbl.get 0 l 2).toNat % 16 = if u < u' then (if u < vs then 1 else if u < w1 then 2 else 3) else if u' =
    u then (if u = 0 then 0 else 4) else if u' = 0 ∧ u ≤ w0 then 7 else if w1 < u then 5 else 6))

/-- BLD loads the seven words of a consistent or empty block. BST stores seven slots and their CRC-32C. ACPT takes a
value whose check and generation hold into the block. No byte outside the block changes. -/
def Obligations.BlocksLoadAndStore : Prop :=
  (∀ (e : Fin 9) (f : Fetch) (c : Shot) (g : Eng) (a : Nat) (s : State), s.shotReady 0x05 e f = true →
    c = s.shotOf e f → g = s.eng e → s.mem.flaws = [] → a = c.block 3 → (∀ k < 8, s.ownerFault e (a + 4 * k) = none) →
    (blockOk ((List.range 8).map fun k => memWord s.mem.cells (a + 4 * k)) = true) →
    Runs (.bld e f) s Parts.shotStore (fun t => (∀ k < 7, (t.eng e).op (c.b 2 + k) =
    memWord s.mem.cells (a + 4 * k)) ∧ t.mem.cells = s.mem.cells ∧ (t.eng e).shots = g.shots + 1 ∧
    (∀ k < 9, k ≠ e.val → t.eng k = s.eng k) ∧ (t.eng e).inp = g.inp ∧ (t.eng e).acc = g.acc)) ∧
  (∀ (e : Fin 9) (f : Fetch) (c : Shot) (g : Eng) (a : Nat) (s : State), s.shotReady 0x06 e f = true →
    c = s.shotOf e f → g = s.eng e → s.mem.flaws = [] → a = c.block 3 → (∀ k < 8, s.ownerFault e (a + 4 * k) = none) →
    Runs (.bst e f) s Parts.shotStore (fun t => (∀ k < 7, memWord t.mem.cells (a + 4 * k) = g.op (c.b 2 + k)) ∧
    (memWord t.mem.cells (a + 28) = crc32cWords ((List.range 7).map fun i => g.op (c.b 2 + i))) ∧
    (∀ x : Nat, x < a ∨ a + 32 ≤ x → t.byteAt x = s.byteAt x) ∧ (t.eng e).shots = g.shots + 1 ∧ (∀ k < 9, k ≠ e.val →
    t.eng k = s.eng k) ∧ (t.eng e).inp = g.inp ∧ (t.eng e).acc = g.acc ∧ (t.eng e).ops = g.ops)) ∧
  (∀ (e : Fin 9) (f : Fetch) (c : Shot) (g : Eng) (a i : Nat) (x : InWord) (l : List Word) (s : State),
    s.shotReady 0x07 e f = true → c = s.shotOf e f → g = s.eng e → s.mem.flaws = [] → a = c.block 4 →
    (∀ k < 8, s.ownerFault e (a + 4 * k) = none) → (l = (List.range 8).map fun k => memWord s.mem.cells (a + 4 * k)) →
    blockOk l = true → c.inputOf (c.b 3) = some i → x = g.input i → x.tag = true → (g.input (i + 1)).tag = true →
    crc16 x.w ((g.input (i + 1)).w.toNat % 65536) = (g.input (i + 1)).w.toNat / 65536 →
    newer (BitVec.ofNat 16 (g.input (i + 1)).w.toNat) (BitVec.ofNat 16 (Tbl.get 0 l (2 * ((Tbl.get 0 l 4).toNat % 2) +
    1)).toNat) = true → Runs (.acpt e f) s Parts.shotStore (fun t => (t.eng e).op (c.b 2) = x.w ∧
    (t.eng e).op (c.b 2 + 1) = 0xFFFFFFFF ∧ memWord t.mem.cells (a + 8 * (1 - (Tbl.get 0 l 4).toNat % 2)) = x.w ∧
    (∀ x : Nat, x < a ∨ a + 32 ≤ x → t.byteAt x = s.byteAt x) ∧ (t.eng e).shots = g.shots + 1 ∧ (∀ k < 9, k ≠ e.val →
    t.eng k = s.eng k) ∧ (t.eng e).inp = g.inp ∧ (t.eng e).acc = g.acc ∧ (∀ j < 32, j ≠ c.b 2 → j ≠ c.b 2 + 1 →
    (t.eng e).op j = g.op j)))

/-- SETP launches both set-point words toward D6 and copies toward D11, in order. STAT launches its slots toward D1 or
D2 and MIRR toward D11, each with engine, axis and index. -/
def Obligations.ShotsLaunchWords : Prop :=
  (∀ (e : Fin 9) (f : Fetch) (c : Shot) (g : Eng) (n : Nat) (w : Word) (s : State), s.shotReady 0x1A e f = true →
    c = s.shotOf e f → g = s.eng e → n = s.shotAxis e c.ctx →
    w = setpW0 n (g.op (c.b 2)) (g.op (c.b 2 + 2)) (g.op (c.b 2 + 3)) → (s.queue ⟨engUnit e, 6⟩).length ≤ 2 →
    (s.queue ⟨engUnit e, 18⟩).length ≤ 2 →
    Runs (.setp e f) s Parts.shot (fun t => t.queue ⟨engUnit e, 6⟩ = s.queue ⟨engUnit e, 6⟩ ++ [.setpoint e n 0 w,
    .setpoint e n 1 (setpW1 w (g.op (c.b 2 + 1)) s.clk.frames)] ∧
    t.queue ⟨engUnit e, 18⟩ = s.queue ⟨engUnit e, 18⟩ ++ [.setpoint e n 0 w,
    .setpoint e n 1 (setpW1 w (g.op (c.b 2 + 1)) s.clk.frames)] ∧ (t.eng e).shots = g.shots + 1 ∧
    (∀ k < 9, k ≠ e.val → t.eng k = s.eng k) ∧ (t.eng e).inp = g.inp ∧ (t.eng e).acc = g.acc ∧ (t.eng e).ops = g.ops)) ∧
  (∀ (e : Fin 9) (f : Fetch) (c : Shot) (g : Eng) (x : Xing) (s : State), s.shotReady 0x1B e f = true →
    c = s.shotOf e f → g = s.eng e → (x = ⟨engUnit e, if c.b 4 = 0 then 1 else 2⟩) → (s.queue x).length + c.b 3 ≤ 4 →
    Runs (.stat e f) s Parts.shot (fun t => (t.queue x = s.queue x ++ (List.range (c.b 3)).map fun k =>
    .status e (s.shotAxis e c.ctx) (c.b 5 + k) (g.op (c.b 2 + k))) ∧ (t.eng e).shots = g.shots + 1 ∧
    (∀ k < 9, k ≠ e.val → t.eng k = s.eng k) ∧ (t.eng e).inp = g.inp ∧ (t.eng e).acc = g.acc ∧ (t.eng e).ops = g.ops)) ∧
  (∀ (e : Fin 9) (f : Fetch) (c : Shot) (g : Eng) (x : Xing) (s : State), s.shotReady 0x1C e f = true →
    c = s.shotOf e f → g = s.eng e → x = ⟨engUnit e, 18⟩ → (s.queue x).length + c.b 3 ≤ 4 →
    Runs (.mirr e f) s Parts.shot (fun t => (t.queue x = s.queue x ++ (List.range (c.b 3)).map fun k =>
    .mirror e (s.shotAxis e c.ctx) (c.b 4 + k) (g.op (c.b 2 + k))) ∧ (t.eng e).shots = g.shots + 1 ∧
    (∀ k < 9, k ≠ e.val → t.eng k = s.eng k) ∧ (t.eng e).inp = g.inp ∧ (t.eng e).acc = g.acc ∧ (t.eng e).ops = g.ops))

/-- A write within the range of R178 sets the register and marks the index pending; one outside it changes no register.
An AXn_SETPOS at rest waits for the next frame and shows pending. An accepted homing request sets MODE and starts a
homing. A write of CAM_AXn_CTRL that is not refused takes effect at once, a binding that is not refused waits for the
cut. A refused one of these changes no register. -/
def Obligations.ParametersTaken : Prop :=
  (∀ (n : Fin 12) (i : Fin 31) (v w : Word) (s : State), s.hostOpen → s.hasAxis n = true →
    w = v &&& rwMask (paramReg n i) → s.paramRefused n i w = false →
    Runs (.paramWrite n i v) s [.regs, .intg, .spi] (fun t => t.word (paramReg n i) = w ∧
    t.bitOf (AX_PARAM_STAT.PEND n) i = true)) ∧
  (∀ (n : Fin 12) (i : Fin 31) (v : Word) (s : State), s.hostOpen → s.hasAxis n = true →
    s.paramRefused n i (v &&& rwMask (paramReg n i)) = true →
    Runs (.paramWrite n i v) s [.regs, .intg, .spi] (fun t => t.regs = s.regs ∧ t.spi.result = max s.spi.result 1)) ∧
  (∀ (n : Fin 12) (v : Word) (s : State), s.hostOpen → s.hasAxis n = true → s.mots.length = 12 →
    s.setposRefused n = false → Runs (.axSetpos n v) s [.row AX_PARAM_STAT, .intg, .spi, .mots] (fun t =>
    (t.mot n).setpos = some v ∧ t.flag (AX_PARAM_STAT.SETPOS_PEND n) = true ∧ (∀ m < 12, m ≠ n.val →
    t.mot m = s.mot m))) ∧
  (∀ (n : Fin 12) (v : Word) (s : State), s.hostOpen → s.hasAxis n = true → s.mots.length = 12 →
    s.ctrlRefused n ((v &&& ~~~3#32) ||| 2#32) = false →
    Runs (.homingRequest n v) s [.row AX_CTRL, .intg, .spi, .mots] (fun t => t.fld (AX_CTRL.MODE n) = 2 ∧
    (t.mot n).homeStart = true ∧ (∀ m < 12, m ≠ n.val → t.mot m = s.mot m))) ∧
  (∀ (n : Fin 12) (v : Word) (s : State), s.hostOpen → s.hasAxis n = true → s.setposRefused n = true →
    Runs (.axSetpos n v) s [.row AX_PARAM_STAT, .intg, .spi, .mots] (fun t => t.regs = s.regs ∧
    t.spi.result = max s.spi.result 1 ∧ t.mots = s.mots ∧ (∀ m < 12, m ≠ n.val → t.mot m = s.mot m))) ∧
  (∀ (n : Fin 12) (v : Word) (s : State), s.hostOpen → s.hasAxis n = true →
    s.ctrlRefused n ((v &&& ~~~3#32) ||| 2#32) = true →
    Runs (.homingRequest n v) s [.row AX_CTRL, .intg, .spi, .mots] (fun t => t.regs = s.regs ∧
    t.spi.result = max s.spi.result 1 ∧ t.mots = s.mots ∧ (∀ m < 12, m ≠ n.val → t.mot m = s.mot m))) ∧
  (∀ (n : Fin 12) (v : Word) (s : State), s.hostOpen → s.camCtrlRefused n v = true →
    Runs (.camEngage n v) s [.row CAM_AX_CTRL, .intg, .spi, .mots] (fun t => t.regs = s.regs ∧
    t.spi.result = max s.spi.result 1 ∧ t.mots = s.mots ∧ (∀ m < 12, m ≠ n.val → t.mot m = s.mot m))) ∧
  (∀ (n : Fin 12) (v : Word) (s : State), s.hostOpen → s.mots.length = 12 → s.camCtrlRefused n v = false →
    Runs (.camEngage n v) s [.row CAM_AX_CTRL, .intg, .spi, .mots] (fun t => t.word (CAM_AX_CTRL n) =
    v &&& rwMask (CAM_AX_CTRL n) ∧ (∀ m < 12, m ≠ n.val → t.mot m = s.mot m))) ∧
  (∀ (n : Fin 12) (v : Word) (s : State), s.hostOpen → s.bindRefused n v = false →
    Runs (.camBind n v) s [.waiting, .intg, .spi] (fun t => t.waiting =
    Assoc.put s.waiting (CAM_AX_BIND n) (v &&& cutMask (CAM_AX_BIND n)))) ∧
  (∀ (n : Fin 12) (v : Word) (s : State), s.hostOpen → s.bindRefused n v = true →
    Runs (.camBind n v) s [.waiting, .intg, .spi] (fun t => t.waiting = s.waiting ∧ t.regs = s.regs ∧
    t.spi.result = max s.spi.result 1))

/-- When the two words of an axis arrive, they form a pair whose resident check is the CRC-8 over the words as stored,
held against the check that came with them. At the cut an axis with one good pair, whose END came, which reads back as
stored and carries the count of the frame, is committed: its words, mode, current, angle and velocity are the pair's and
it no longer coasts or waits. With END missing, more or less than one whole pair, a wrong check, a wrong word or a wrong
count the pair is discarded and counted, with the code of its cause (END missing has none), and the axis coasts.
Coasting counts cuts, raises 0x0705 at the first and keeps the committed words; after eight, or where the words no
longer read back, the axis stops in its standstill row with 0x0706. A safe axis keeps what was committed. -/
def Obligations.SetpointPairStored : Prop :=
  (∀ (n : Fin 12) (p : SpPair) (w1 : Word) (s : State), s.powered = true → s.atPhase .sealed = true →
    s.mods.length = 12 → s.axisUsed n = true → s.ranLists = true → s.sys.mode = .run → s.sys.safeNew = 0 →
    s.sys.cutFrom = none → s.intg.release = 0 → s.firstWait n = true → s.isSafe n = false →
    s.bitOf INT_STAT.PARKED_AX n = false → (s.mod n).pairs = [p] → p.w1 = some w1 →
    s.intg.endD6.getLsbD p.eng = true → s.servingEngine n = some p.eng → p.ok = true → spCrc p.w0 w1 = p.resident →
    spFcnt w1 = s.clk.frames.toNat % 8 → Runs .cut s Parts.cut (fun t => t.word (MOD_AX_SPW0 n) = p.w0 ∧
    t.word (MOD_AX_SPW1 n) = w1 ∧ t.firstWait n = false ∧ (t.mod n).pairs = [])) ∧
  (∀ (s : State) (n fcnt : Nat) (p : SpPair) (w1 : Word), s.mods.length = 12 → n < 12 → s.parkedOut n = false →
    s.bitOf INT_STAT.PARKED_AX n = false → (s.mod n).pairs = [p] → p.w1 = some w1 →
    s.intg.endD6.getLsbD p.eng = true → s.servingEngine n = some p.eng → p.ok = true → spCrc p.w0 w1 = p.resident →
    spFcnt w1 = fcnt → s.checksOnly n = false → (s.commitDecision n fcnt).committed n = (p.w0, w1) ∧
    (s.commitDecision n fcnt).fld (MOD_AX_STAT.COAST n) = 0 ∧ (s.commitDecision n fcnt).firstWait n = false ∧
    ((s.commitDecision n fcnt).mod n).bmode = spBmode p.w0 ∧ ((s.commitDecision n fcnt).mod n).iamp = spIamp p.w0 ∧
    ((s.commitDecision n fcnt).mod n).vel = spVel w1 ∧ ((s.commitDecision n fcnt).mod n).beta = spAngle p.w0 * 256 ∧
    ((s.commitDecision n fcnt).mod n).pairs = []) ∧
  (∀ (s : State) (n fcnt : Nat) (c : Nat), s.mods.length = 12 → n < 12 → s.parkedOut n = false →
    s.bitOf INT_STAT.PARKED_AX n = false → (s.mod n).pairs = [] → s.firstWait n = false → s.checksOnly n = false →
    c = s.fld (MOD_AX_STAT.COAST n) → c < 8 → c = 0 ∨ spCrc (s.committed n).1 (s.committed n).2 = (s.mod n).resident →
    (s.commitDecision n fcnt).committed n = s.committed n ∧
    (s.commitDecision n fcnt).fld (MOD_AX_STAT.COAST n) = c + 1 ∧ (c = 0 →
    (s.commitDecision n fcnt).raised 0x0705 = true) ∧ ((s.commitDecision n fcnt).mod n).vel = (s.mod n).vel ∧
    ((s.commitDecision n fcnt).mod n).bmode = (s.mod n).bmode ∧
    ((s.commitDecision n fcnt).mod n).iamp = (s.mod n).iamp ∧
    ((s.commitDecision n fcnt).mod n).beta = s.thetaAt n (4 * s.frameLen)) ∧
  (∀ (s : State) (n fcnt : Nat) (c : Nat), s.mods.length = 12 → n < 12 → s.parkedOut n = false →
    s.bitOf INT_STAT.PARKED_AX n = false → (s.mod n).pairs = [] → s.firstWait n = false → s.checksOnly n = false →
    c = s.fld (MOD_AX_STAT.COAST n) → c ≠ 0 → c ≤ 8 →
    c = 8 ∨ spCrc (s.committed n).1 (s.committed n).2 ≠ (s.mod n).resident → (s.mod n).hbs.length = 4 →
    (∀ k < 4, (s.hb n k).events < 15) → (s.commitDecision n fcnt).committed n = s.committed n ∧
    (s.commitDecision n fcnt).fld (MOD_AX_STAT.COAST n) = 15 ∧ (s.commitDecision n fcnt).raised 0x0706 = true ∧
    ((s.commitDecision n fcnt).mod n).vel = 0 ∧ ((s.commitDecision n fcnt).mod n).beta = s.theta n ∧
    (((s.commitDecision n fcnt).mod n).bmode, ((s.commitDecision n fcnt).mod n).iamp) = (s.mod n).standstillRow ∧
    (spCrc (s.committed n).1 (s.committed n).2 ≠ (s.mod n).resident → (s.commitDecision n fcnt).raised 0x0704 = true ∧
    (s.commitDecision n fcnt).fld (MOD_AX_CNT.DISCARD n) =
    min (s.fld (MOD_AX_CNT.DISCARD n) + 1) (2 ^ (MOD_AX_CNT.DISCARD n).w - 1))) ∧
  (∀ (s : State) (n fcnt : Nat) (p : SpPair) (w1 : Word), s.mods.length = 12 → n < 12 → s.parkedOut n = false →
    s.bitOf INT_STAT.PARKED_AX n = false → (s.mod n).pairs = [p] → p.w1 = some w1 →
    s.intg.endD6.getLsbD p.eng = true → s.servingEngine n = some p.eng → p.ok = true → spCrc p.w0 w1 = p.resident →
    spFcnt w1 = fcnt → s.checksOnly n = true → (s.commitDecision n fcnt).committed n = s.committed n ∧
    (s.commitDecision n fcnt).word (MOD_AX_STAT n) = s.word (MOD_AX_STAT n) ∧
    ((s.commitDecision n fcnt).mod n).pairs = []) ∧
  (∀ (n : Fin 12) (s : State), s.powered = true → s.atPhase .sealed = true → s.mods.length = 12 →
    s.axisUsed n = true → s.ranLists = true → s.sys.mode = .run → s.sys.safeNew = 0 → s.sys.cutFrom = none →
    s.intg.release = 0 → s.isSafe n = false → s.bitOf INT_STAT.PARKED_AX n = false → (s.mod n).pairs = [] →
    s.firstWait n = true ∨ s.fld (MOD_AX_STAT.COAST n) = 15 →
    Runs .cut s Parts.cut (fun t => t.committed n = s.committed n ∧
    t.fld (MOD_AX_STAT.COAST n) = s.fld (MOD_AX_STAT.COAST n) ∧ t.firstWait n = s.firstWait n)) ∧
  (∀ (n : Fin 12) (p : SpPair) (rest : List SpPair) (s : State), s.powered = true → s.atPhase .sealed = true →
    s.mods.length = 12 → s.axisUsed n = true → s.ranLists = true → s.sys.mode = .run → s.sys.safeNew = 0 →
    s.sys.cutFrom = none → s.intg.release = 0 → s.isSafe n = false → s.bitOf INT_STAT.PARKED_AX n = false →
    (s.mod n).pairs = p :: rest → s.intg.endD6.getLsbD p.eng = false → s.firstWait n = false →
    s.checksOnly n = false → s.fld (MOD_AX_STAT.COAST n) = 0 →
    Runs .cut s Parts.cut (fun t => t.committed n = s.committed n ∧
    t.fld (MOD_AX_CNT.DISCARD n) = min (s.fld (MOD_AX_CNT.DISCARD n) + 1) (2 ^ (MOD_AX_CNT.DISCARD n).w - 1) ∧
    t.fld (MOD_AX_STAT.COAST n) = 1 ∧ t.raised 0x0705 = true ∧ (t.mod n).pairs = [])) ∧
  (∀ (n : Fin 12) (p : SpPair) (rest : List SpPair) (s : State), s.powered = true → s.atPhase .sealed = true →
    s.mods.length = 12 → s.axisUsed n = true → s.ranLists = true → s.sys.mode = .run → s.sys.safeNew = 0 →
    s.sys.cutFrom = none → s.intg.release = 0 → s.isSafe n = false → s.bitOf INT_STAT.PARKED_AX n = false →
    (s.mod n).pairs = p :: rest → s.intg.endD6.getLsbD p.eng = true → s.servingEngine n = some p.eng →
    rest ≠ [] ∨ p.w1 = none → s.firstWait n = false → s.checksOnly n = false → s.fld (MOD_AX_STAT.COAST n) = 0 →
    Runs .cut s Parts.cut (fun t => t.committed n = s.committed n ∧
    t.fld (MOD_AX_CNT.DISCARD n) = min (s.fld (MOD_AX_CNT.DISCARD n) + 1) (2 ^ (MOD_AX_CNT.DISCARD n).w - 1) ∧
    t.raised 0x0703 = true ∧ t.fld (MOD_AX_STAT.COAST n) = 1)) ∧
  (∀ (n : Fin 12) (p : SpPair) (w1 : Word) (s : State), s.powered = true → s.atPhase .sealed = true →
    s.mods.length = 12 → s.axisUsed n = true → s.ranLists = true → s.sys.mode = .run → s.sys.safeNew = 0 →
    s.sys.cutFrom = none → s.intg.release = 0 → s.isSafe n = false → s.bitOf INT_STAT.PARKED_AX n = false →
    (s.mod n).pairs = [p] → p.w1 = some w1 → s.intg.endD6.getLsbD p.eng = true → s.servingEngine n = some p.eng →
    p.ok = false → s.firstWait n = false → s.checksOnly n = false → s.fld (MOD_AX_STAT.COAST n) = 0 →
    Runs .cut s Parts.cut (fun t => t.committed n = s.committed n ∧
    t.fld (MOD_AX_CNT.DISCARD n) = min (s.fld (MOD_AX_CNT.DISCARD n) + 1) (2 ^ (MOD_AX_CNT.DISCARD n).w - 1) ∧
    t.raised 0x0701 = true ∧ t.fld (MOD_AX_STAT.COAST n) = 1)) ∧
  (∀ (n : Fin 12) (p : SpPair) (w1 : Word) (s : State), s.powered = true → s.atPhase .sealed = true →
    s.mods.length = 12 → s.axisUsed n = true → s.ranLists = true → s.sys.mode = .run → s.sys.safeNew = 0 →
    s.sys.cutFrom = none → s.intg.release = 0 → s.isSafe n = false → s.bitOf INT_STAT.PARKED_AX n = false →
    (s.mod n).pairs = [p] → p.w1 = some w1 → s.intg.endD6.getLsbD p.eng = true → s.servingEngine n = some p.eng →
    p.ok = true → spCrc p.w0 w1 ≠ p.resident → s.firstWait n = false → s.checksOnly n = false →
    s.fld (MOD_AX_STAT.COAST n) = 0 → Runs .cut s Parts.cut (fun t => t.committed n = s.committed n ∧
    t.fld (MOD_AX_CNT.DISCARD n) = min (s.fld (MOD_AX_CNT.DISCARD n) + 1) (2 ^ (MOD_AX_CNT.DISCARD n).w - 1) ∧
    t.raised 0x0704 = true ∧ t.fld (MOD_AX_STAT.COAST n) = 1)) ∧
  (∀ (n : Fin 12) (p : SpPair) (w1 : Word) (s : State), s.powered = true → s.atPhase .sealed = true →
    s.mods.length = 12 → s.axisUsed n = true → s.ranLists = true → s.sys.mode = .run → s.sys.safeNew = 0 →
    s.sys.cutFrom = none → s.intg.release = 0 → s.isSafe n = false → s.bitOf INT_STAT.PARKED_AX n = false →
    (s.mod n).pairs = [p] → p.w1 = some w1 → s.intg.endD6.getLsbD p.eng = true → s.servingEngine n = some p.eng →
    p.ok = true → spCrc p.w0 w1 = p.resident → spFcnt w1 ≠ s.clk.frames.toNat % 8 → s.firstWait n = false →
    s.checksOnly n = false → s.fld (MOD_AX_STAT.COAST n) = 0 →
    Runs .cut s Parts.cut (fun t => t.committed n = s.committed n ∧
    t.fld (MOD_AX_CNT.DISCARD n) = min (s.fld (MOD_AX_CNT.DISCARD n) + 1) (2 ^ (MOD_AX_CNT.DISCARD n).w - 1) ∧
    t.raised 0x0702 = true ∧ t.fld (MOD_AX_STAT.COAST n) = 1)) ∧
  (∀ (n : Fin 12) (c : Nat) (s : State), s.powered = true → s.atPhase .sealed = true → s.mods.length = 12 →
    s.axisUsed n = true → s.ranLists = true → s.sys.mode = .run → s.sys.safeNew = 0 → s.sys.cutFrom = none →
    s.intg.release = 0 → s.isSafe n = false → s.bitOf INT_STAT.PARKED_AX n = false → (s.mod n).pairs = [] →
    s.firstWait n = false → s.checksOnly n = false → c = s.fld (MOD_AX_STAT.COAST n) → c < 8 →
    c = 0 ∨ spCrc (s.committed n).1 (s.committed n).2 = (s.mod n).resident →
    Runs .cut s Parts.cut (fun t => t.committed n = s.committed n ∧ t.fld (MOD_AX_STAT.COAST n) = c + 1 ∧ (c = 0 →
    t.raised 0x0705 = true) ∧ (t.mod n).vel = (s.mod n).vel ∧ (t.mod n).bmode = (s.mod n).bmode ∧
    (t.mod n).iamp = (s.mod n).iamp)) ∧
  (∀ (n : Fin 12) (c : Nat) (s : State), s.powered = true → s.atPhase .sealed = true → s.mods.length = 12 →
    s.axisUsed n = true → s.ranLists = true → s.sys.mode = .run → s.sys.safeNew = 0 → s.sys.cutFrom = none →
    s.intg.release = 0 → s.isSafe n = false → s.bitOf INT_STAT.PARKED_AX n = false → (s.mod n).pairs = [] →
    s.firstWait n = false → s.checksOnly n = false → c = s.fld (MOD_AX_STAT.COAST n) → c ≠ 0 → c ≤ 8 →
    c = 8 ∨ spCrc (s.committed n).1 (s.committed n).2 ≠ (s.mod n).resident →
    Runs .cut s Parts.cut (fun t => t.committed n = s.committed n ∧ t.fld (MOD_AX_STAT.COAST n) = 15 ∧
    t.raised 0x0706 = true ∧ (t.mod n).vel = 0 ∧ ((t.mod n).bmode, (t.mod n).iamp) = (t.mod n).standstillRow ∧
    (spCrc (s.committed n).1 (s.committed n).2 ≠ (s.mod n).resident → t.raised 0x0704 = true ∧
    t.fld (MOD_AX_CNT.DISCARD n) = min (s.fld (MOD_AX_CNT.DISCARD n) + 1) (2 ^ (MOD_AX_CNT.DISCARD n).w - 1)))) ∧
  (∀ (n : Fin 12) (s : State), s.powered = true → s.atPhase .sealed = true → s.mods.length = 12 →
    s.axisUsed n = true → s.sys.safeNew = 0 → s.intg.release = 0 → s.isSafe n = true →
    Runs .cut s Parts.cut (fun t => t.committed n = s.committed n ∧ (t.mod n).pairs = [] ∧ t.isSafe n = true)) ∧
  (∀ (e : Fin 9) (a : Nat) (w0 w1 : Word) (rest : List Msg) (s : State), s.powered = true → s.mods.length = 12 →
    a < 12 → s.queue ⟨engUnit e, 6⟩ = .setpoint e a 0 w0 :: .setpoint e a 1 w1 :: rest → (s.mod a).pairs = [] →
    Runs (.setpointArrive e) s [.intg, .mods, .queues] (fun t => t.queue ⟨engUnit e, 6⟩ = rest ∧
    (t.mod a).pairs =
    [{ eng := e, w0 := w0, w1 := some w1, resident := (spCrc w0 w1), ok := (spCrc w0 w1 == spCheck w1) }]))

/-- A carrier start begins a period at its point of R252; that a start from the slate falls one tick after that point is
the model's choice (log entry 89). An edge due is taken once. A pending turn-on takes place when its dead time has
passed. A usable sample moves the PI of its phase by the closed form of R257, and a hold for a voltage slot counts the
on-interval that it interrupts. -/
def Obligations.CarrierAndCurrentLoop : Prop :=
  (∀ (n : Fin 12) (s : State), s.powered = true → s.mods.length = 12 → s.sys.mode.lists = true → s.axisUsed n = true →
    s.carrierLeft n = true → Runs (.carrierStart n) s Parts.carrierStart (fun t => (t.mod n).carrier = true ∧
    ((t.mod n).seqCut, (t.mod n).nominal) = s.dueNominal n ∧
    ((t.mod n).startAt = s.carrierDue n + if (s.mod n).act.fixed = false ∧ (s.mod n).carrier = true then 0 else 4) ∧
    (∀ m < 12, m ≠ n.val → t.mod m = s.mod m))) ∧
  (∀ (n : Fin 12) (b : Bool) (s : State), s.powered = true → s.mods.length = 12 → s.sys.mode.lists = true →
    (s.mod n).carrier = true → ((s.mod n).phase b).refresh = false → ((s.mod n).phase b).d ≠ 0 →
    ((s.mod n).phase b).risen = false →
    Runs (.carrierEdge n b) s [.one MOD_STAT, .one MOD_ILOCK_CNT, .row MOD_AX_STAT, .row MOD_AX_FORCE,
    .row PWR_AX_LIVE, .one INT_AXCAUSE_LO, .one INT_AXCAUSE_HI, .one MGT_LOG_STAT, .faults, .reel, .intg, .mgt, .can,
    .mods, .modg, .pwr] (fun t => ((t.mod n).phase b).risen = true ∧ (∀ m < 12, m ≠ n.val → t.mod m = s.mod m))) ∧
  (∀ (n : Fin 12) (b : Bool) (s : State), s.powered = true → s.mods.length = 12 → s.sys.mode.lists = true →
    (s.mod n).carrier = true → ((s.mod n).phase b).risen = true → ((s.mod n).phase b).fallen = false →
    Runs (.carrierEdge n b) s [.one MOD_STAT, .one MOD_ILOCK_CNT, .row MOD_AX_STAT, .row MOD_AX_FORCE,
    .row PWR_AX_LIVE, .one INT_AXCAUSE_LO, .one INT_AXCAUSE_HI, .one MGT_LOG_STAT, .faults, .reel, .intg, .mgt, .can,
    .mods, .modg, .pwr] (fun t => ((t.mod n).phase b).fallen = true ∧ (∀ m < 12, m ≠ n.val → t.mod m = s.mod m))) ∧
  (∀ (n : Fin 12) (b : TurnOn) (s : State), s.powered = true → s.mods.length = 12 → (s.mod n).hbs.length = 4 →
    (s.hb n b.k).turnOn = some true → b.held = false → (s.hb n b.k).lo = false →
    Runs (.deadTimeExpire n b) s [.intg, .mods] (fun t => (t.hb n b.k).hi = true ∧ (t.hb n b.k).turnOn = none ∧
    (t.hb n b.k).lo = false ∧ (∀ m < 12, m ≠ n.val → t.mod m = s.mod m))) ∧
  (∀ (n : Fin 12) (b : TurnOn) (s : State), s.powered = true → s.mods.length = 12 → (s.mod n).hbs.length = 4 →
    (s.hb n b.k).turnOn = some false → b.held = false → (s.hb n b.k).hi = false →
    Runs (.deadTimeExpire n b) s [.intg, .mods] (fun t => (t.hb n b.k).lo = true ∧ (t.hb n b.k).turnOn = none ∧
    (t.hb n b.k).hi = false ∧ (∀ m < 12, m ≠ n.val → t.mod m = s.mod m))) ∧
  (∀ (n : Fin 12) (b : TurnOn) (hi : Bool) (s : State), s.powered = true → s.mods.length = 12 →
    (s.mod n).hbs.length = 4 → (s.hb n b.k).turnOn = some hi →
    b.held = true ∨ (if hi = true then (s.hb n b.k).lo else (s.hb n b.k).hi) = true →
    Runs (.deadTimeExpire n b) s [.intg, .mods] (fun t => (t.hb n b.k).turnOn = some hi ∧ (t.hb n b.k).waits = true ∧
    (t.hb n b.k).hi = (s.hb n b.k).hi ∧ (t.hb n b.k).lo = (s.hb n b.k).lo ∧ (∀ m < 12, m ≠ n.val →
    t.mod m = s.mod m))) ∧
  (∀ (n : Fin 12) (b : Bool) (w : Word) (e raw : Int) (s : State), s.powered = true → s.mods.length = 12 →
    s.queue ⟨5, 6⟩ = [] → w.getLsbD 16 = true → w.getLsbD 17 = false → w.getLsbD 18 = false → (s.mod n).bmode = 0 →
    (s.mod n).act.voltage = false → s.sys.mode.lists = true → s.firstWait n = false → s.isSafe n = false →
    s.flag SYS_STAT.OV = false → e = s.phaseRef n b - (w.extractLsb' 0 16).toInt →
    raw = (s.fld (MOD_AX_GAIN.KP n) * e + ((s.mod n).phase b).integ) >>> (12 : Nat) →
    Runs (.currentSample n b w) s [.one MOD_STAT, .one MOD_ILOCK_CNT, .row MOD_AX_STAT, .row MOD_AX_FORCE,
    .row PWR_AX_LIVE, .row PWR_AX_STAT, .one INT_AXCAUSE_LO, .one INT_AXCAUSE_HI, .one MGT_LOG_STAT, .faults, .reel,
    .intg, .mgt, .can, .mods, .modg, .pwr, .queues] (fun t => ((t.mod n).phase b).u = clampZ (-32767) 32767 raw ∧
    (((t.mod n).phase b).integ = if clampZ (-32767) 32767 raw =
    raw ∨ e.sign ≠ (clampZ (-32767) 32767 raw).sign then satS 32 (((s.mod n).phase b).integ + s.fld (MOD_AX_GAIN.KI n)
    * e) else ((s.mod n).phase b).integ) ∧ ((t.mod n).phase b).updates = ((s.mod n).phase b).updates + 1 ∧
    (∀ m < 12, m ≠ n.val → t.mod m = s.mod m))) ∧
  (∀ (n : Fin 12) (b : Bool) (s : State), s.powered = true → s.mods.length = 12 → s.voltageSlots n b ≠ [] →
    (s.mod n).act.shoEn = true → (s.mod n).bmode = 0 → ((s.mod n).phase b).hold = false →
    ((s.mod n).phase b).risen = true → ((s.mod n).phase b).fallen = false →
    Runs (.sampleHoldoff n b true) s [.one MOD_STAT, .one MOD_ILOCK_CNT, .row MOD_AX_STAT, .row MOD_AX_FORCE,
    .row PWR_AX_LIVE, .one INT_AXCAUSE_LO, .one INT_AXCAUSE_HI, .one MGT_LOG_STAT, .faults, .clk, .reel, .intg, .mgt,
    .can, .mods, .modg, .pwr] (fun t => ((t.mod n).phase b).hold = true ∧ (t.mod n).sho = (s.mod n).sho + 1 ∧
    (∀ m < 12, m ≠ n.val → t.mod m = s.mod m)))

/-- A MOD_COMMIT names the axes of its bits, and with ALL every used axis. One that no named axis refuses copies the
buffers of every named axis into its armed copy and touches no other axis; in STANDBY and BOOT they become active at
once, a duty ceiling above PER - TOFF_MIN as that bound, with DUTY_CLAMP set and raised. A refused one arms nothing.
MOD_AXn_FORCE with ACTIVE alone is shown where the axis may be forced, and refused where it may not; a request of both
switches of every half-bridge leaves both off and is counted. -/
def Obligations.ModulatorWrites : Prop :=
  (∀ (v : Word) (s : State), s.hostOpen → s.mods.length = 12 → s.sys.mode.lists = true →
    (∀ n < 12, (v.getLsbD n = true ∨ (v.getLsbD 16 = true ∧ s.axisUsed n = true)) → s.commitRefused n = false) →
    Runs (.modCommit v) s [.one MOD_CMT_PEND, .row MOD_AX_STAT, .one MGT_LOG_STAT, .faults, .reel, .intg, .mgt, .can,
    .spi, .mods] (fun t => (∀ n < 12, if (v.getLsbD n = true ∨ (v.getLsbD 16 = true ∧
    s.axisUsed n = true)) then (t.mod n).armed = some (s.cmtBuffer n) ∧
    t.bitOf MOD_CMT_PEND.ARMED n = true else t.mod n = s.mod n))) ∧
  (∀ (v : Word) (s : State), s.hostOpen → s.mods.length = 12 → s.sys.mode.lists = false →
    (∀ n < 12, (v.getLsbD n = true ∨ (v.getLsbD 16 = true ∧ s.axisUsed n = true)) → s.commitRefused n = false) →
    Runs (.modCommit v) s [.one MOD_CMT_PEND, .row MOD_AX_STAT, .one MGT_LOG_STAT, .faults, .reel, .intg, .mgt, .can,
    .spi, .mods] (fun t => (∀ n < 12, if (v.getLsbD n = true ∨ (v.getLsbD 16 = true ∧
    s.axisUsed n = true)) then (t.mod n).armed = none ∧ t.bitOf MOD_CMT_PEND.ARMED n = false ∧
    (t.mod n).act.per = s.word (MOD_AX_PER n) ∧ (t.mod n).act.cfg = s.word (MOD_AX_CFG n) ∧
    (t.mod n).act.toff = s.word (MOD_AX_TOFF n) ∧ (t.mod n).act.ton = s.word (MOD_AX_TON n) ∧
    (t.mod n).act.dt = s.word (MOD_AX_DT n) ∧
    ((t.mod n).act.dutyA).toNat =
    min (s.word (MOD_AX_DUTYA n)).toNat ((s.cmtBuffer n).period - (s.cmtBuffer n).toffMin) ∧
    ((t.mod n).act.dutyB).toNat =
    min (s.word (MOD_AX_DUTYB n)).toNat ((s.cmtBuffer n).period - (s.cmtBuffer n).toffMin) else t.mod n = s.mod n) ∧
    (∀ n < 12, (v.getLsbD n = true ∨ (v.getLsbD 16 = true ∧ s.axisUsed n = true)) →
    (s.cmtBuffer n).period - (s.cmtBuffer n).toffMin < (s.word (MOD_AX_DUTYA n)).toNat ∨ (s.cmtBuffer n).period -
    (s.cmtBuffer n).toffMin < (s.word (MOD_AX_DUTYB n)).toNat → t.flag (MOD_AX_STAT.DUTY_CLAMP n) = true ∧
    t.raised 0x070A = true))) ∧
  (∀ (v : Word) (s : State), s.hostOpen → (∃ n < 12, (v.getLsbD n = true ∨ (v.getLsbD 16 = true ∧
    s.axisUsed n = true)) ∧ s.commitRefused n = true) →
    Runs (.modCommit v) s [.one MOD_CMT_PEND, .row MOD_AX_STAT, .one MGT_LOG_STAT, .faults, .reel, .intg, .mgt, .can,
    .spi, .mods] (fun t => t.mods = s.mods ∧ t.spi.result = max s.spi.result 1)) ∧
  (∀ (n : Fin 12) (s : State), s.hostOpen → s.part.hasAxis n = true → s.flag MOD_CTRL.FORCE_EN = true →
    s.isSafe n = false → s.mods.length = 12 →
    Runs (.modForce n 0x100) s [.one MOD_STAT, .one MOD_ILOCK_CNT, .row MOD_AX_STAT, .row MOD_AX_FORCE,
    .row PWR_AX_LIVE, .one INT_AXCAUSE_LO, .one INT_AXCAUSE_HI, .one MGT_LOG_STAT, .faults, .reel, .intg, .mgt, .can,
    .spi, .mods, .modg, .pwr] (fun t => t.word (MOD_AX_FORCE n) = 0x100 ∧ t.flag MOD_STAT.FORCE_ACTIVE = true ∧
    (∀ m < 12, m ≠ n.val → t.mod m = s.mod m))) ∧
  (∀ (n : Fin 12) (v : Word) (s : State), s.hostOpen → s.part.hasAxis n = true → v.getLsbD 8 = true →
    s.flag MOD_CTRL.FORCE_EN = false ∨ s.isSafe n = true →
    Runs (.modForce n v) s [.one MOD_STAT, .one MOD_ILOCK_CNT, .row MOD_AX_STAT, .row MOD_AX_FORCE, .row PWR_AX_LIVE,
    .one INT_AXCAUSE_LO, .one INT_AXCAUSE_HI, .one MGT_LOG_STAT, .faults, .reel, .intg, .mgt, .can, .spi, .mods,
    .modg, .pwr] (fun t => t.regs = s.regs ∧ t.spi.result = max s.spi.result 1 ∧ t.mods = s.mods ∧
    (∀ m < 12, m ≠ n.val → t.mod m = s.mod m))) ∧
  (∀ (n : Fin 12) (s : State), s.hostOpen → s.part.hasAxis n = true → s.sys.mode.lists = true →
    s.flag (PWR_AX_DIAG.BUSY n) = false → s.flag MOD_CTRL.FORCE_EN = true → s.isSafe n = false →
    s.flag SYS_STAT.OV = false → s.mods.length = 12 → (s.mod n).hbs.length = 4 → (∀ k < 4, s.isolated n k = false ∧
    (s.hb n k).conflict = false ∧ (s.hb n k).events < 15) →
    Runs (.modForce n 0x1FF) s [.one MOD_STAT, .one MOD_ILOCK_CNT, .row MOD_AX_STAT, .row MOD_AX_FORCE,
    .row PWR_AX_LIVE, .one INT_AXCAUSE_LO, .one INT_AXCAUSE_HI, .one MGT_LOG_STAT, .faults, .reel, .intg, .mgt, .can,
    .spi, .mods, .modg, .pwr] (fun t => (∀ k < 4, (t.hb n k).hi = false ∧ (t.hb n k).lo = false ∧
    (t.hb n k).conflict = true ∧ (t.hb n k).events = (s.hb n k).events + 1) ∧ (∀ m < 12, m ≠ n.val →
    t.mod m = s.mod m)))

/-- A trip of a used axis, of a comparator that is active or whose switch the first trip of the same D6 cycle turned
off, sets its bit, counts, raises its code and puts the axis into its safe state; every half-bridge it names is
isolated, and every switch it isolates is off. A comparator that is not active trips nothing, and in BOOT and STANDBY no
switch is asked on. BST_EXHAUST, after four refreshes with BST_UV still asserted in a mode with carriers, is the trip of
the source BST: its bit, the count, the isolation, 0x0806 and the safe state; else it changes nothing. That a D6 cycle
is one slate tick, and GATE active while its switch was on before the first trip of that cycle, is the model's choice
(log entry 109). A clear works only where every named bit may clear, and else nothing clears and the frame answers
CLEAR_REFUSED. -/
def Obligations.TripIsolates : Prop :=
  (∀ (n : Fin 12) (src : Fin 18) (s : State), s.powered = true → s.axisUsed n = true → tripExists n src = true →
    s.sourceActive n src = true ∨ s.sameCycle n src = true → s.underTest n = false → s.mods.length = 12 →
    (s.mod n).hbs.length = 4 → Runs (.trip n src) s Parts.bstExhaust (fun t => (t.word (PWR_AX_TRIP n)).getLsbD src =
    true ∧ t.fld (PWR_AX_CNT.TRIPS n) = min (s.fld (PWR_AX_CNT.TRIPS n) + 1) (2 ^ (PWR_AX_CNT.TRIPS n).w - 1) ∧
    t.raised (tripCode src) n = true ∧ t.isSafe n = true ∧ (∀ k < 4, (tripBridges src).contains k = true →
    t.isolated n k = true ∧ (t.hb n k).hi = false ∧ (t.hb n k).lo = false ∧ (t.hb n k).turnOn = none) ∧
    (∀ m < 12, m ≠ n.val → t.mod m = s.mod m))) ∧
  (∀ (n : Fin 12) (src : Fin 18) (s : State), s.powered = true → s.sourceActive n src = false →
    s.sameCycle n src = false → Runs (.trip n src) s Parts.bstExhaust (fun t => t.regs = s.regs ∧ t.mods = s.mods ∧
    (∀ m < 12, m ≠ n.val → t.mod m = s.mod m))) ∧
  (∀ (s : State) (n k : Nat), s.sys.mode.lists = false → s.request n k = (false, false)) ∧
  (∀ (n : Fin 12) (src : Fin 18) (s : State), s.powered = true → s.axisUsed n = true → tripExists n src = true →
    Runs (.sourceInactive n src) s [.row PWR_AX_LIVE, .intg, .pwr] (fun t => t.bitOf (PWR_AX_LIVE.SRC n) src = false ∧
    Assoc.get t.pwr.off (n.val, src.val) = some s.time)) ∧
  (∀ (n : Fin 12) (m : Word) (s : State), s.hostOpen → s.part.hasAxis n = true → (∀ b < 19, m.getLsbD b = true →
    s.tripMayClear n b = true) → Runs (.tripClear n m) s Parts.tripClear (fun t => t.word (PWR_AX_TRIP n) =
    s.word (PWR_AX_TRIP n) &&& ~~~m ∧ (∀ m < 12, m ≠ n.val → t.mod m = s.mod m))) ∧
  (∀ (n : Fin 12) (m : Word) (s : State), s.hostOpen → s.part.hasAxis n = true → (∃ b < 19, m.getLsbD b = true ∧
    s.tripMayClear n b = false) → Runs (.tripClear n m) s Parts.tripClear (fun t => t.word (PWR_AX_TRIP n) =
    s.word (PWR_AX_TRIP n) ∧ t.spi.result = max s.spi.result 2 ∧ (∀ m < 12, m ≠ n.val → t.mod m = s.mod m))) ∧
  (∀ (n : Fin 12) (k : Fin 4) (s : State), s.powered = true → s.axisUsed n = true → s.sys.mode.lists = true →
    s.bitOf (PWR_AX_STAT.BST_UV n) k = true → 4 ≤ ((s.mod n).phase (2 ≤ k.val)).refreshes → s.underTest n = false →
    s.mods.length = 12 → (s.mod n).hbs.length = 4 →
    Runs (.bstExhaust n k) s Parts.bstExhaust (fun t => (t.word (PWR_AX_TRIP n)).getLsbD (4 * k + 3) = true ∧
    t.fld (PWR_AX_CNT.TRIPS n) = min (s.fld (PWR_AX_CNT.TRIPS n) + 1) (2 ^ (PWR_AX_CNT.TRIPS n).w - 1) ∧
    t.raised 0x0806 n = true ∧ t.isSafe n = true ∧ t.isolated n k = true ∧ (t.hb n k).hi = false ∧
    (t.hb n k).lo = false ∧ (t.hb n k).turnOn = none ∧ (∀ m < 12, m ≠ n.val → t.mod m = s.mod m))) ∧
  (∀ (n : Fin 12) (k : Fin 4) (s : State), s.powered = true →
    s.sys.mode.lists = false ∨ s.bitOf (PWR_AX_STAT.BST_UV n) k =
    false ∨ ((s.mod n).phase (2 ≤ k.val)).refreshes < 4 →
    Runs (.bstExhaust n k) s Parts.bstExhaust (fun t => t.regs = s.regs ∧ t.mods = s.mods ∧ t.pwr = s.pwr ∧
    (∀ m < 12, m ≠ n.val → t.mod m = s.mod m))) ∧
  (∀ (n : Fin 12) (src : Fin 18) (s : State), s.powered = true → s.axisUsed n = false ∨ tripExists n src = false →
    Runs (.sourceInactive n src) s [.row PWR_AX_LIVE, .intg, .pwr] (fun t => t.regs = s.regs ∧ t.pwr = s.pwr))

/-- The first BST_UV of a heavy half-bridge raises its fault, and its release returns the refresh count to 0. A
diagnosis that may start runs, and its end classifies each phase. A self-test that may start runs over the axes named,
and each axis passes, or fails with SELFTEST and ST_HOLD set. -/
def Obligations.BootstrapAndDiagnosis : Prop :=
  (∀ (n : Fin 12) (k : Fin 4) (s : State), s.powered = true → s.axisUsed n = true → heavy n = true →
    s.bitOf (PWR_AX_STAT.BST_UV n) k = false →
    Runs (.bstUvAssert n k) s [.one MOD_STAT, .one MOD_ILOCK_CNT, .row MOD_AX_STAT, .row MOD_AX_FORCE,
    .row PWR_AX_LIVE, .row PWR_AX_STAT, .one INT_AXCAUSE_LO, .one INT_AXCAUSE_HI, .one MGT_LOG_STAT, .faults, .reel,
    .intg, .mgt, .can, .mods, .modg, .pwr] (fun t => t.bitOf (PWR_AX_STAT.BST_UV n) k = true ∧
    t.raised 0x0805 n = true ∧ (∀ m < 12, m ≠ n.val → t.mod m = s.mod m))) ∧
  (∀ (n : Fin 12) (k : Fin 4) (s : State), s.powered = true → s.mods.length = 12 →
    s.bitOf (PWR_AX_STAT.BST_UV n) k = true →
    Runs (.bstUvRelease n k) s [.one MOD_STAT, .one MOD_ILOCK_CNT, .row MOD_AX_STAT, .row MOD_AX_FORCE,
    .row PWR_AX_LIVE, .row PWR_AX_STAT, .one INT_AXCAUSE_LO, .one INT_AXCAUSE_HI, .one MGT_LOG_STAT, .faults, .reel,
    .intg, .mgt, .can, .mods, .modg, .pwr] (fun t => t.bitOf (PWR_AX_STAT.BST_UV n) k = false ∧
    ((t.mod n).phase (2 ≤ k.val)).refreshes = 0 ∧ (∀ m < 12, m ≠ n.val → t.mod m = s.mod m))) ∧
  (∀ (n : Fin 12) (s : State), s.hostOpen → s.part.hasAxis n = true → s.phasesOpen n = true →
    s.fld (PWR_AX_STAT.ISOL n) = 0 → s.flag PWR_STAT.LV = false → s.flag (PWR_AX_DIAG.BUSY n) = false →
    s.pwr.selfTest.contains n.val = false →
    Runs (.diagStart n) s [.row PWR_AX_DIAG, .intg, .spi] (fun t => t.flag (PWR_AX_DIAG.BUSY n) = true)) ∧
  (∀ (n : Fin 12) (v : DiagVolts) (s : State), s.powered = true → s.flag (PWR_AX_DIAG.BUSY n) = true →
    Runs (.diagDone n v) s [.one MOD_STAT, .one MOD_ILOCK_CNT, .row MOD_AX_STAT, .row MOD_AX_FORCE, .row PWR_AX_LIVE,
    .row PWR_AX_DIAG, .one INT_AXCAUSE_LO, .one INT_AXCAUSE_HI, .one MGT_LOG_STAT, .faults, .reel, .intg, .mgt, .can,
    .mods, .modg, .pwr] (fun t => t.flag (PWR_AX_DIAG.BUSY n) = false ∧
    t.fld (PWR_AX_DIAG.RESULT_A n) = diagClass v.aPlus v.aMinus ∧
    t.fld (PWR_AX_DIAG.RESULT_B n) = diagClass v.bPlus v.bMinus ∧ (diagClass v.aPlus v.aMinus ≠ 1 →
    t.raised 0x0808 n = true) ∧ (∀ m < 12, m ≠ n.val → t.mod m = s.mod m))) ∧
  (∀ (m : BitVec 12) (s : State), s.hostOpen → s.flag PWR_ST_RESULT.BUSY = false → (∀ n < 12, m.getLsbD n = true →
    s.axisUsed n = true ∧ (s.sys.mode = .standby ∨ (s.sys.mode = .service ∧ s.isSafe n = true))) → m ≠ 0#12 →
    Runs (.selftestStart m) s [.one PWR_ST_CTRL, .one PWR_ST_RESULT, .intg, .spi, .pwr] (fun t =>
    t.flag PWR_ST_RESULT.BUSY = true ∧ t.pwr.selfTest = (List.range 12).filter (fun n => m.getLsbD n))) ∧
  (∀ (n : Fin 12) (rest : List Nat) (s : State), s.powered = true → s.pwr.selfTest = n.val :: rest →
    Runs (.selftestDone none) s [.one MOD_STAT, .row MOD_AX_STAT, .one PWR_ST_RESULT, .row PWR_AX_LIVE,
    .row PWR_AX_STAT, .one INT_AXCAUSE_LO, .one INT_AXCAUSE_HI, .one MGT_LOG_STAT, .faults, .reel, .intg, .mgt, .can,
    .mods, .pwr] (fun t => t.pwr.selfTest = rest ∧ t.bitOf PWR_ST_RESULT.PASS n = true ∧
    t.flag (PWR_AX_STAT.ST_HOLD n) = false ∧ t.flag PWR_ST_RESULT.BUSY = !rest.isEmpty)) ∧
  (∀ (n : Fin 12) (c : Fin 18) (rest : List Nat) (s : State), s.powered = true → s.pwr.selfTest = n.val :: rest →
    Runs (.selftestDone (some c)) s [.one MOD_STAT, .row MOD_AX_STAT, .one PWR_ST_RESULT, .row PWR_AX_LIVE,
    .row PWR_AX_STAT, .one INT_AXCAUSE_LO, .one INT_AXCAUSE_HI, .one MGT_LOG_STAT, .faults, .reel, .intg, .mgt, .can,
    .mods, .pwr] (fun t => t.pwr.selfTest = rest ∧ t.bitOf PWR_ST_RESULT.PASS n = false ∧
    t.flag (PWR_AX_STAT.ST_HOLD n) = true ∧ t.raised 0x0809 n = true))

/-- OT_SHUT raises its fault, is a SAFE cause and puts every used axis into its safe state; SUPPLY_GATE does so for the
heavy axes. Their releases end the cause. The end of the charge pump start, and HV, show in PWR_STAT. -/
def Obligations.SupplyAndThermalShutdown : Prop :=
  (∀ (s : State), s.powered = true → s.flag PWR_STAT.OT_SHUT = false →
    Runs .otShut s Parts.otShut (fun t => t.flag PWR_STAT.OT_SHUT = true ∧ t.raised 0x080C = true ∧
    t.bitOf INT_SAFE_CAUSE.CAUSE 5 = true ∧ (∀ n < 12, s.axisUsed n = true → t.isSafe n = true))) ∧
  (∀ (s : State), s.powered = true → s.flag PWR_STAT.OT_SHUT = true →
    Runs .otShutRelease s [.one MOD_STAT, .one MOD_ILOCK_CNT, .row MOD_AX_STAT, .row MOD_AX_FORCE, .one PWR_STAT,
    .row PWR_AX_LIVE, .one INT_SAFE_CAUSE, .one INT_AXCAUSE_LO, .one INT_AXCAUSE_HI, .one MGT_LOG_STAT, .faults,
    .reel, .intg, .mgt, .can, .mods, .modg, .pwr] (fun t => t.flag PWR_STAT.OT_SHUT = false ∧
    t.bitOf INT_SAFE_CAUSE.CAUSE 5 = false)) ∧
  (∀ (s : State), s.powered = true → Runs .supplyGate s Parts.supplyGate (fun t => t.flag PWR_STAT.VGL_OK = false ∧
    t.raised 0x080E = true ∧ t.bitOf INT_SAFE_CAUSE.CAUSE 6 = true ∧ (∀ n < 12, s.axisUsed n = true → heavy n = true →
    t.isSafe n = true))) ∧
  (∀ (s : State), s.powered = true → Runs .supplyGateRelease s [.one MOD_STAT, .one MOD_ILOCK_CNT, .row MOD_AX_STAT,
    .row MOD_AX_FORCE, .one PWR_STAT, .row PWR_AX_LIVE, .one INT_SAFE_CAUSE, .one INT_AXCAUSE_LO, .one INT_AXCAUSE_HI,
    .one MGT_LOG_STAT, .faults, .reel, .intg, .mgt, .can, .mods, .modg, .pwr] (fun t => t.flag PWR_STAT.VGL_OK =
    true ∧ t.bitOf INT_SAFE_CAUSE.CAUSE 6 = false)) ∧
  (∀ (s : State), s.powered = true → s.sys.mode ≠ .standby →
    Runs .chargePumpReady s [.one PWR_STAT, .intg] (fun t => t.flag PWR_STAT.VCP_OK = true)) ∧
  (∀ (s : State), s.powered = true → Runs .hv s [.one PWR_STAT, .sys, .intg] (fun t => t.flag PWR_STAT.HV = true)) ∧
  (∀ (s : State), s.powered = true → Runs .hvRelease s [.one PWR_STAT, .sys, .intg] (fun t => t.flag PWR_STAT.HV =
    false))

/-- A slot of the schedule, and a conversion of STANDBY, show the corrected and filtered word of their channel. A
reference within 64 of its value returns the failure count to 0. An injected conversion answers in its own register. A
calibration request makes every named core wait; its end shows DONE and gives new trims: the offset is the rounded mean
at REF_MID and the gain the rounded quotient of R401. With an offset above 512 or a gain outside 15 565 to 17 203 the
old trims stay, CAL_FAIL is raised and the core is declared failed. -/
def Obligations.ConversionsDelivered : Prop :=
  (∀ (i : Fin 256) (r : BitVec 12) (x : Slot) (s : State), s.powered = true → s.sys.mode.lists = true →
    s.reel.struct.slots[i.val]? = some x → s.flag (ADC_CH_CFG.EN x.channel) = true → s.carrier x.core = x.core →
    (s.core x.core).uncovered = false → s.flag (ADC_CORE_CHK.FAILED x.core) = false → x.interleave = false →
    x.channel < 48 → Runs (.adcSlot i false (some r)) s [.one CLK_CUT_ERR, .one ADC_STAT, .row ADC_CORE_CHK,
    .row ADC_CH_LAST, .row ADC_CH_CNT, .row ADC_TS_LAST, .one INT_SAFE_CAUSE, .one MGT_LOG_STAT, .faults, .sys, .reel,
    .intg, .mgt, .can, .adc, .queues, .drawn] (fun t => t.word (ADC_CH_LAST x.channel) =
    (s.convert x.core x.channel x.gain (some r)).1)) ∧
  (∀ (r : BitVec 12) (s : State), s.powered = true → s.sys.mode = .standby → s.flag (ADC_CH_CFG.EN 48) = true →
    s.carrier 4 = 4 → (s.core 4).uncovered = false → s.flag (ADC_CORE_CHK.FAILED 4) = false →
    Runs (.standbyConversion 0 (some r)) s [.one CLK_CUT_ERR, .one ADC_STAT, .row ADC_CORE_CHK, .row ADC_CH_LAST,
    .row ADC_CH_CNT, .row ADC_TS_LAST, .one INT_SAFE_CAUSE, .one MGT_LOG_STAT, .faults, .sys, .reel, .intg, .mgt,
    .can, .adc, .queues, .drawn] (fun t => t.word (ADC_CH_LAST 48) = (s.convert 4 48 0 (some r)).1)) ∧
  (∀ (k : Fin 6) (r : BitVec 12) (v : Int) (s : State), s.powered = true → s.sys.mode.lists = true →
    s.clk.frames.toNat % 128 = k.val → s.flag (ADC_CORE_CHK.FAILED k) = false → (s.core k).calRuns = false →
    k.val < 5 → v = (s.correct k 54 0 r.toNat).1 → v.natAbs ≤ 64 →
    Runs (.refCheck k (some r)) s [.one ADC_STAT, .row ADC_CORE_CHK, .row ADC_CH_CNT, .one INT_SAFE_CAUSE,
    .one MGT_LOG_STAT, .faults, .sys, .reel, .intg, .mgt, .can, .adc] (fun t => t.fld (ADC_CORE_CHK.FAILS k) = 0 ∧
    t.fld (ADC_CORE_CHK.LAST k) = (BitVec.ofInt 16 v).toNat ∧ (∀ j < 6, j ≠ k.val → t.core j = s.core j))) ∧
  (∀ (k : Fin 6) (s : State), s.powered = true → s.sys.mode.lists = true → s.clk.frames.toNat % 64 = k.val →
    s.flag (ADC_CORE_CHK.FAILED k) = false → (s.core k).calRuns = false → k.val < 5 →
    Runs (.refCheck k none) s [.one ADC_STAT, .row ADC_CORE_CHK, .row ADC_CH_CNT, .one INT_SAFE_CAUSE,
    .one MGT_LOG_STAT, .faults, .sys, .reel, .intg, .mgt, .can, .adc] (fun t => t.raised 0x0B04 k = true ∧
    t.flag (ADC_CORE_CHK.FAILED k) = true ∧ (∀ j < 6, j ≠ k.val → t.core j = s.core j))) ∧
  (∀ (v : Word) (s : State), s.hostOpen → s.injectRefused (v ||| 0x10000#32) = false →
    Runs (.inject v) s [.one ADC_INJ, .intg, .spi, .adc] (fun t => t.flag ADC_INJ.BUSY = true ∧
    t.fld ADC_INJ.CHANNEL = v.toNat % 64 ∧ t.fld ADC_INJ.CORE = v.toNat / 4096 % 8 ∧ t.adc.inj.isSome = true)) ∧
  (∀ (r : BitVec 12) (k core : Nat) (s : State), s.powered = true → s.adc.inj = some ⟨48, k, core, false⟩ →
    s.flag (ADC_CH_CFG.EN 48) = true → s.flag (ADC_CORE_CHK.FAILED core) = false →
    (s.unit (adcUnit 48 k)).gainLeft = 0 → (s.unit (adcUnit 48 k)).filtLeft = 0 →
    Runs (.injectRun (some r)) s [.one ADC_STAT, .one ADC_INJ, .one ADC_INJ_RES, .row ADC_CORE_CHK, .row ADC_CH_CNT,
    .one INT_SAFE_CAUSE, .one MGT_LOG_STAT, .faults, .sys, .reel, .intg, .mgt, .can, .adc, .drawn] (fun t =>
    t.flag ADC_INJ.BUSY = false ∧ t.flag ADC_INJ.DONE = true ∧
    t.word ADC_INJ_RES = resultWord (s.correct core 48 k r.toNat).1 true false false)) ∧
  (∀ (m : BitVec 6) (s : State), s.hostOpen → s.adc.cores.length = 6 → s.calRefused m.toNat = false →
    Runs (.calRequest m) s [.one ADC_STAT, .one ADC_CAL, .intg, .spi, .adc] (fun t => (∀ k < 5, m.getLsbD k = true →
    (s.core k).calBusy = false → s.flag (ADC_CORE_CHK.FAILED k) = false → (t.core k).calWaits = true ∧
    t.bitOf ADC_STAT.CAL_BUSY k = true))) ∧
  (∀ (k : Fin 6) (mid hi : Nat) (s : State), s.powered = true → s.sys.mode ≠ .boot → s.adc.cores.length = 6 →
    (s.core k).calRuns = true → Runs (.calDone k mid hi) s [.one ADC_STAT, .one ADC_CAL, .row ADC_CORE_TRIM,
    .row ADC_CORE_CHK, .one INT_SAFE_CAUSE, .one MGT_LOG_STAT, .faults, .sys, .reel, .intg, .mgt, .can, .adc,
    .drawn] (fun t => (t.core k).calRuns = false ∧ t.bitOf ADC_STAT.CAL_BUSY k = false ∧
    t.bitOf ADC_CAL.DONE k = true ∧ (∀ x, (s.calTrims mid hi).1 = some x → (t.core k).trim = some x ∧
    t.flag (ADC_CORE_CHK.FAILED k) = s.flag (ADC_CORE_CHK.FAILED k)) ∧ ((s.calTrims mid hi).1 = none →
    t.raised 0x0B05 k = true ∧ t.flag (ADC_CORE_CHK.FAILED k) = true ∧ (t.core k).trim = (s.core k).trim) ∧
    (∀ j < 6, j ≠ k.val → t.core j = s.core j))) ∧
  (∀ (s : State) (mid hi : Nat) (o g : Int), (s.calTrims mid hi).1 = some (o, g) →
    (32 * o - 16 * ((mid : Int) - 65536)).natAbs ≤ 16 ∧ o.natAbs ≤ 512 ∧
    2 * (g * (16 * ((hi : Int) - 65536) - 32 * o) - 16384 * 24576 * 32).natAbs ≤ (16 * ((hi : Int) - 65536) - 32 *
    o).natAbs ∧ 15565 ≤ g ∧ g ≤ 17203) ∧
  (∀ (s : State) (mid hi : Nat), (s.calTrims mid hi).1 = none →
    ∃ o g : Int, (32 * o - 16 * ((mid : Int) - 65536)).natAbs ≤ 16 ∧
    (512 < o.natAbs ∨ 16 * ((hi : Int) - 65536) ≤ 32 * o ∨ (2 * (g * (16 * ((hi : Int) - 65536) - 32 * o) - 16384 *
    24576 * 32).natAbs ≤ (16 * ((hi : Int) - 65536) - 32 * o).natAbs ∧ (g < 15565 ∨ 17203 < g))))

/-- A line that changes in the forward order adds one to COUNT and one in the opposite order subtracts one; DIR_INV
exchanges them. An index event is counted. With CPR above 0 it gives the deviation of ANGLE from IPOS and, by the first
row of R357 that holds, a snap of COUNT, ANGLE and TURNS, nothing, or INDEX_ERR with the deviation latched, and above
TOL also IDX_FAULT. A preset waits for the cut. -/
def Obligations.QuadratureCounts : Prop :=
  (∀ (k : Fin 4) (a b i : Bool) (lag : Nat) (s : State), s.powered = true → s.pos.qd.length = 4 →
    s.flag (POS_QD_CFG.EN k) = true → s.vioOk = true → s.flag (POS_QD_CFG.DIR_INV k) = false →
    (i && s.inputOn 0x03 k) = (s.qd k).i → (qdPlace a b + 4 - qdPlace (s.qd k).a (s.qd k).b) % 4 = 1 →
    Runs (.qdEdge k a b i lag) s Parts.qdEdge (fun t => (t.qd k).count = (s.qd k).count + 1 ∧ (t.qd k).a = a ∧
    (t.qd k).b = b ∧ (∀ j < 4, j ≠ k.val → t.qd j = s.qd j) ∧ t.pos.si = s.pos.si ∧ t.pos.sn = s.pos.sn ∧
    t.pos.ee = s.pos.ee)) ∧
  (∀ (k : Fin 4) (a b i : Bool) (lag : Nat) (s : State), s.powered = true → s.pos.qd.length = 4 →
    s.flag (POS_QD_CFG.EN k) = true → s.vioOk = true → s.flag (POS_QD_CFG.DIR_INV k) = true →
    (i && s.inputOn 0x03 k) = (s.qd k).i → (qdPlace a b + 4 - qdPlace (s.qd k).a (s.qd k).b) % 4 = 1 →
    Runs (.qdEdge k a b i lag) s Parts.qdEdge (fun t => (t.qd k).count = (s.qd k).count - 1 ∧ (∀ j < 4, j ≠ k.val →
    t.qd j = s.qd j) ∧ t.pos.si = s.pos.si ∧ t.pos.sn = s.pos.sn ∧ t.pos.ee = s.pos.ee)) ∧
  (∀ (k : Fin 4) (a b i : Bool) (lag : Nat) (s : State), s.powered = true → s.pos.qd.length = 4 →
    s.flag (POS_QD_CFG.EN k) = true → s.vioOk = true → s.flag (POS_QD_CFG.DIR_INV k) = false →
    (i && s.inputOn 0x03 k) = (s.qd k).i → (qdPlace a b + 4 - qdPlace (s.qd k).a (s.qd k).b) % 4 = 3 →
    Runs (.qdEdge k a b i lag) s Parts.qdEdge (fun t => (t.qd k).count = (s.qd k).count - 1 ∧ (∀ j < 4, j ≠ k.val →
    t.qd j = s.qd j) ∧ t.pos.si = s.pos.si ∧ t.pos.sn = s.pos.sn ∧ t.pos.ee = s.pos.ee)) ∧
  (∀ (k : Fin 4) (a b i : Bool) (lag : Nat) (s : State), s.powered = true → s.pos.qd.length = 4 →
    s.flag (POS_QD_CFG.EN k) = true → s.vioOk = true → s.flag (POS_QD_CFG.DIR_INV k) = true →
    (i && s.inputOn 0x03 k) = (s.qd k).i → (qdPlace a b + 4 - qdPlace (s.qd k).a (s.qd k).b) % 4 = 3 →
    Runs (.qdEdge k a b i lag) s Parts.qdEdge (fun t => (t.qd k).count = (s.qd k).count + 1 ∧ (∀ j < 4, j ≠ k.val →
    t.qd j = s.qd j) ∧ t.pos.si = s.pos.si ∧ t.pos.sn = s.pos.sn ∧ t.pos.ee = s.pos.ee)) ∧
  (∀ (k : Fin 4) (i : Bool) (lag : Nat) (s : State), s.powered = true → s.pos.qd.length = 4 →
    s.flag (POS_QD_CFG.EN k) = true → s.vioOk = true → s.inputOn 0x03 k = true → s.qdGate k (s.qd k).i i = true →
    s.fld (POS_QD_CPR.CPR k) = 0 → Runs (.qdIndex k i lag) s [.row POS_QD_IDXDEV, .row POS_QD_STAT, .row POS_LT_POS,
    .row POS_LT_TIME, .row POS_LT_STAT, .row POS_CP_VAL, .row POS_CP_STAT, .row POS_EE_COUNT, .row POS_EE_STAT,
    .one MGT_LOG_STAT, .faults, .reel, .intg, .mgt, .can, .pos, .mots, .drawn] (fun t => t.fld (POS_QD_STAT.INDEX k) =
    (s.fld (POS_QD_STAT.INDEX k) + 1) % 65536 ∧ (t.qd k).i = i ∧ (t.qd k).count = (s.qd k).count ∧
    (∀ j < 4, j ≠ k.val → t.qd j = s.qd j) ∧ t.pos.si = s.pos.si ∧ t.pos.sn = s.pos.sn ∧ t.pos.ee = s.pos.ee)) ∧
  (∀ (k : Fin 4) (i : Bool) (lag c : Nat) (x d : Int) (s : State), s.powered = true → s.pos.qd.length = 4 →
    s.flag (POS_QD_CFG.EN k) = true → s.vioOk = true → s.inputOn 0x03 k = true → s.qdGate k (s.qd k).i i = true →
    c = s.fld (POS_QD_CPR.CPR k) → 0 < c → x = (((s.qd k).angle : Int) - s.fld (POS_QD_IDX.IPOS k)) % c →
    (d = if (c / 2 : Nat) ≤ x then x - c else x) → s.flag (POS_QD_STAT.REFD k) = false →
    s.flag (POS_QD_CFG.FIRST_SNAP k) = true →
    Runs (.qdIndex k i lag) s [.row POS_QD_IDXDEV, .row POS_QD_STAT, .row POS_LT_POS, .row POS_LT_TIME,
    .row POS_LT_STAT, .row POS_CP_VAL, .row POS_CP_STAT, .row POS_EE_COUNT, .row POS_EE_STAT, .one MGT_LOG_STAT,
    .faults, .reel, .intg, .mgt, .can, .pos, .mots, .drawn] (fun t => (t.qd k).count = (s.qd k).count - wrd d ∧
    (t.qd k).angle = (((s.qd k).angle - d) % c).toNat ∧
    (t.qd k).turns = (s.qd k).turns + wrd (((s.qd k).angle - d) / c) ∧ t.flag (POS_QD_STAT.SNAPPED k) = true ∧
    t.flag (POS_QD_STAT.REFD k) = true ∧ t.flag (POS_QD_STAT.INDEX_ERR k) = s.flag (POS_QD_STAT.INDEX_ERR k) ∧
    (∀ j < 4, j ≠ k.val → t.qd j = s.qd j) ∧ t.pos.si = s.pos.si ∧ t.pos.sn = s.pos.sn ∧ t.pos.ee = s.pos.ee)) ∧
  (∀ (k : Fin 4) (i : Bool) (lag c : Nat) (x d : Int) (s : State), s.powered = true → s.pos.qd.length = 4 →
    s.flag (POS_QD_CFG.EN k) = true → s.vioOk = true → s.inputOn 0x03 k = true → s.qdGate k (s.qd k).i i = true →
    c = s.fld (POS_QD_CPR.CPR k) → 0 < c → x = (((s.qd k).angle : Int) - s.fld (POS_QD_IDX.IPOS k)) % c →
    (d = if (c / 2 : Nat) ≤ x then x - c else x) →
    s.flag (POS_QD_STAT.REFD k) = true ∨ s.flag (POS_QD_CFG.FIRST_SNAP k) = false → d = 0 →
    Runs (.qdIndex k i lag) s [.row POS_QD_IDXDEV, .row POS_QD_STAT, .row POS_LT_POS, .row POS_LT_TIME,
    .row POS_LT_STAT, .row POS_CP_VAL, .row POS_CP_STAT, .row POS_EE_COUNT, .row POS_EE_STAT, .one MGT_LOG_STAT,
    .faults, .reel, .intg, .mgt, .can, .pos, .mots, .drawn] (fun t => (t.qd k).count = (s.qd k).count ∧
    (t.qd k).angle = (s.qd k).angle ∧ (t.qd k).turns = (s.qd k).turns ∧ t.flag (POS_QD_STAT.REFD k) = true ∧
    t.flag (POS_QD_STAT.INDEX_ERR k) = s.flag (POS_QD_STAT.INDEX_ERR k) ∧
    t.flag (POS_QD_STAT.IDX_FAULT k) = s.flag (POS_QD_STAT.IDX_FAULT k) ∧
    t.word (POS_QD_IDXDEV k) = s.word (POS_QD_IDXDEV k) ∧ (∀ j < 4, j ≠ k.val → t.qd j = s.qd j) ∧
    t.pos.si = s.pos.si ∧ t.pos.sn = s.pos.sn ∧ t.pos.ee = s.pos.ee)) ∧
  (∀ (k : Fin 4) (i : Bool) (lag c : Nat) (x d : Int) (s : State), s.powered = true → s.pos.qd.length = 4 →
    s.flag (POS_QD_CFG.EN k) = true → s.vioOk = true → s.inputOn 0x03 k = true → s.qdGate k (s.qd k).i i = true →
    c = s.fld (POS_QD_CPR.CPR k) → 0 < c → x = (((s.qd k).angle : Int) - s.fld (POS_QD_IDX.IPOS k)) % c →
    (d = if (c / 2 : Nat) ≤ x then x - c else x) →
    s.flag (POS_QD_STAT.REFD k) = true ∨ s.flag (POS_QD_CFG.FIRST_SNAP k) = false → d ≠ 0 →
    d.natAbs ≤ s.fld (POS_QD_IDX.TOL k) → s.flag (POS_QD_CFG.SNAP k) = true →
    Runs (.qdIndex k i lag) s [.row POS_QD_IDXDEV, .row POS_QD_STAT, .row POS_LT_POS, .row POS_LT_TIME,
    .row POS_LT_STAT, .row POS_CP_VAL, .row POS_CP_STAT, .row POS_EE_COUNT, .row POS_EE_STAT, .one MGT_LOG_STAT,
    .faults, .reel, .intg, .mgt, .can, .pos, .mots, .drawn] (fun t => (t.qd k).count = (s.qd k).count - wrd d ∧
    (t.qd k).angle = (((s.qd k).angle - d) % c).toNat ∧
    (t.qd k).turns = (s.qd k).turns + wrd (((s.qd k).angle - d) / c) ∧ t.flag (POS_QD_STAT.SNAPPED k) = true ∧
    t.flag (POS_QD_STAT.REFD k) = true ∧ t.flag (POS_QD_STAT.INDEX_ERR k) = true ∧
    t.word (POS_QD_IDXDEV k) = wrd d &&& 0xFFFFF ∧ t.raised 0x0A02 k = true ∧ (∀ j < 4, j ≠ k.val → t.qd j = s.qd j) ∧
    t.pos.si = s.pos.si ∧ t.pos.sn = s.pos.sn ∧ t.pos.ee = s.pos.ee)) ∧
  (∀ (k : Fin 4) (i : Bool) (lag c : Nat) (x d : Int) (s : State), s.powered = true → s.pos.qd.length = 4 →
    s.flag (POS_QD_CFG.EN k) = true → s.vioOk = true → s.inputOn 0x03 k = true → s.qdGate k (s.qd k).i i = true →
    c = s.fld (POS_QD_CPR.CPR k) → 0 < c → x = (((s.qd k).angle : Int) - s.fld (POS_QD_IDX.IPOS k)) % c →
    (d = if (c / 2 : Nat) ≤ x then x - c else x) →
    s.flag (POS_QD_STAT.REFD k) = true ∨ s.flag (POS_QD_CFG.FIRST_SNAP k) = false → d ≠ 0 →
    d.natAbs ≤ s.fld (POS_QD_IDX.TOL k) → s.flag (POS_QD_CFG.SNAP k) = false →
    Runs (.qdIndex k i lag) s [.row POS_QD_IDXDEV, .row POS_QD_STAT, .row POS_LT_POS, .row POS_LT_TIME,
    .row POS_LT_STAT, .row POS_CP_VAL, .row POS_CP_STAT, .row POS_EE_COUNT, .row POS_EE_STAT, .one MGT_LOG_STAT,
    .faults, .reel, .intg, .mgt, .can, .pos, .mots, .drawn] (fun t => (t.qd k).count = (s.qd k).count ∧
    (t.qd k).angle = (s.qd k).angle ∧ (t.qd k).turns = (s.qd k).turns ∧ t.flag (POS_QD_STAT.REFD k) = true ∧
    t.flag (POS_QD_STAT.INDEX_ERR k) = true ∧ t.word (POS_QD_IDXDEV k) = wrd d &&& 0xFFFFF ∧
    t.raised 0x0A02 k = true ∧ t.flag (POS_QD_STAT.IDX_FAULT k) = s.flag (POS_QD_STAT.IDX_FAULT k) ∧
    (∀ j < 4, j ≠ k.val → t.qd j = s.qd j) ∧ t.pos.si = s.pos.si ∧ t.pos.sn = s.pos.sn ∧ t.pos.ee = s.pos.ee)) ∧
  (∀ (k : Fin 4) (i : Bool) (lag c : Nat) (x d : Int) (s : State), s.powered = true → s.pos.qd.length = 4 →
    s.flag (POS_QD_CFG.EN k) = true → s.vioOk = true → s.inputOn 0x03 k = true → s.qdGate k (s.qd k).i i = true →
    c = s.fld (POS_QD_CPR.CPR k) → 0 < c → x = (((s.qd k).angle : Int) - s.fld (POS_QD_IDX.IPOS k)) % c →
    (d = if (c / 2 : Nat) ≤ x then x - c else x) →
    s.flag (POS_QD_STAT.REFD k) = true ∨ s.flag (POS_QD_CFG.FIRST_SNAP k) = false → d ≠ 0 →
    s.fld (POS_QD_IDX.TOL k) < d.natAbs →
    Runs (.qdIndex k i lag) s [.row POS_QD_IDXDEV, .row POS_QD_STAT, .row POS_LT_POS, .row POS_LT_TIME,
    .row POS_LT_STAT, .row POS_CP_VAL, .row POS_CP_STAT, .row POS_EE_COUNT, .row POS_EE_STAT, .one MGT_LOG_STAT,
    .faults, .reel, .intg, .mgt, .can, .pos, .mots, .drawn] (fun t => (t.qd k).count = (s.qd k).count ∧
    (t.qd k).angle = (s.qd k).angle ∧ (t.qd k).turns = (s.qd k).turns ∧ t.flag (POS_QD_STAT.REFD k) = true ∧
    t.flag (POS_QD_STAT.INDEX_ERR k) = true ∧ t.word (POS_QD_IDXDEV k) = wrd d &&& 0xFFFFF ∧
    t.raised 0x0A02 k = true ∧ t.flag (POS_QD_STAT.IDX_FAULT k) = true ∧ t.raised 0x0A03 k = true ∧
    (∀ j < 4, j ≠ k.val → t.qd j = s.qd j) ∧ t.pos.si = s.pos.si ∧ t.pos.sn = s.pos.sn ∧ t.pos.ee = s.pos.ee)) ∧
  (∀ (k : Fin 4) (i : Bool) (lag : Nat) (s : State), s.powered = true → s.inputOn 0x03 k = false →
    Runs (.qdIndex k i lag) s [.row POS_QD_IDXDEV, .row POS_QD_STAT, .row POS_LT_POS, .row POS_LT_TIME,
    .row POS_LT_STAT, .row POS_CP_VAL, .row POS_CP_STAT, .row POS_EE_COUNT, .row POS_EE_STAT, .one MGT_LOG_STAT,
    .faults, .reel, .intg, .mgt, .can, .pos, .mots, .drawn] (fun t => t.regs = s.regs ∧ t.pos = s.pos ∧
    (∀ j < 4, j ≠ k.val → t.qd j = s.qd j) ∧ t.pos.si = s.pos.si ∧ t.pos.sn = s.pos.sn ∧ t.pos.ee = s.pos.ee)) ∧
  (∀ (k : Fin 4) (v : Word) (s : State), s.hostOpen → s.pos.qd.length = 4 → s.presetRefused k = false →
    Runs (.qdPreset k v) s [.intg, .spi, .pos] (fun t => (t.qd k).preset = some v ∧ (∀ j < 4, j ≠ k.val →
    t.qd j = s.qd j) ∧ t.pos.si = s.pos.si ∧ t.pos.sn = s.pos.sn ∧ t.pos.ee = s.pos.ee))

/-- When both lines change in one cycle, COUNT, ANGLE and TURNS stay, the new levels are the reference, ILLEGAL_SEEN is
set and ILLEGAL counts. QD_ILLEGAL is raised unless it was raised in the same frame, and an index event of the same
cycle is ignored. -/
def Obligations.IllegalTransitionIgnored : Prop :=
  ∀ (k : Fin 4) (a b i : Bool) (lag : Nat) (s : State), s.powered = true → s.pos.qd.length = 4 →
    s.flag (POS_QD_CFG.EN k) = true → s.vioOk = true → (qdPlace a b + 4 - qdPlace (s.qd k).a (s.qd k).b) % 4 = 2 →
    Runs (.qdEdge k a b i lag) s Parts.qdEdge (fun t => (t.qd k).count = (s.qd k).count ∧
    (t.qd k).angle = (s.qd k).angle ∧ (t.qd k).turns = (s.qd k).turns ∧ (t.qd k).a = a ∧ (t.qd k).b = b ∧
    t.flag (POS_QD_STAT.ILLEGAL_SEEN k) = true ∧
    t.fld (POS_QD_ERR.ILLEGAL k) = min (s.fld (POS_QD_ERR.ILLEGAL k) + 1) 0xFFFF ∧
    t.fld (POS_QD_STAT.INDEX k) = s.fld (POS_QD_STAT.INDEX k) ∧ ((s.qd k).illegal = false → t.raised 0x0A01 k = true ∧
    (t.qd k).illegal = true) ∧ ((s.qd k).illegal = true → t.word POS_FAULT = s.word POS_FAULT ∧
    t.word POS_FAULT_CODE = s.word POS_FAULT_CODE) ∧ (∀ j < 4, j ≠ k.val → t.qd j = s.qd j) ∧ t.pos.si = s.pos.si ∧
    t.pos.sn = s.pos.sn ∧ t.pos.ee = s.pos.ee)

/-- An active STEP edge counts by the level of DIR. A frame without an accepted predecessor is decoded and not used, a
good frame with one makes the channel valid, and a timeout ends that and raises SENT_TIMEOUT. Clears wait for the cut.
-/
def Obligations.StepsAndSentReceived : Prop :=
  (∀ (k : Fin 4) (rising dir : Bool) (lag : Nat) (s : State), s.powered = true → s.pos.si.length = 4 →
    s.flag (CAM_SI_CFG.EN k) = true → s.vioOk = true → s.sys.mode ≠ .boot → rising ≠ s.flag (CAM_SI_CFG.EDGE k) →
    Runs (.stepEdge k rising dir false lag) s [.row CAM_SI_ERR, .row POS_LT_POS, .row POS_LT_TIME, .row POS_LT_STAT,
    .row POS_CP_VAL, .row POS_CP_STAT, .one MGT_LOG_STAT, .faults, .reel, .intg, .mgt, .can, .pos, .drawn] (fun t =>
    (t.si k).count = (s.si k).count + (if dir = s.flag (CAM_SI_CFG.DIR_INV k) then 1 else 0xFFFFFFFF) ∧
    (∀ j < 4, j ≠ k.val → t.si j = s.si j) ∧ t.pos.qd = s.pos.qd ∧ t.pos.sn = s.pos.sn ∧ t.pos.ee = s.pos.ee)) ∧
  (∀ (k : Fin 4) (s : State), s.hostOpen → s.pos.si.length = 4 →
    Runs (.stepClear k) s [.intg, .spi, .pos] (fun t => (t.si k).clear = true ∧ (∀ j < 4, j ≠ k.val →
    t.si j = s.si j) ∧ t.pos.qd = s.pos.qd ∧ t.pos.sn = s.pos.sn ∧ t.pos.ee = s.pos.ee)) ∧
  (∀ (k : Fin 4) (back cal n : Nat) (ivs : List Nat) (s : State), s.powered = true → s.pos.sn.length = 4 →
    s.flag (POS_SN_CFG.EN k) = true → s.vioOk = true → s.flag (POS_SN_CFG.PAUSE k) = false →
    n = s.fld (POS_SN_CFG.NIB k) + 2 → n ≤ ivs.length → 3 * (896 * s.fld (POS_SN_CFG.TICK k)) ≤ 4 * cal →
    4 * cal ≤ 5 * (896 * s.fld (POS_SN_CFG.TICK k)) → 0 < cal → (s.sn k).cal = none →
    (∀ v ∈ (s.snNibbles cal (ivs.take n)).1, 0 ≤ v ∧ v ≤ 15) →
    Runs (.sentFrame k back cal ivs) s Parts.sentFrame (fun t => (t.sn k).cal = some cal ∧
    t.word (POS_SN_COUNT k) = s.word (POS_SN_COUNT k) ∧ t.word (POS_SN_DATA k) = s.word (POS_SN_DATA k) ∧
    (∀ j < 4, j ≠ k.val → t.sn j = s.sn j) ∧ t.pos.si = s.pos.si ∧ t.pos.qd = s.pos.qd ∧ t.pos.ee = s.pos.ee)) ∧
  (∀ (k : Fin 4) (back cal n : Nat) (ivs : List Nat) (l : List Int) (s : State), s.powered = true →
    s.pos.sn.length = 4 → s.flag (POS_SN_CFG.EN k) = true → s.vioOk = true → s.flag (POS_SN_CFG.PAUSE k) = false →
    n = s.fld (POS_SN_CFG.NIB k) + 2 → n ≤ ivs.length → 3 * (896 * s.fld (POS_SN_CFG.TICK k)) ≤ 4 * cal →
    4 * cal ≤ 5 * (896 * s.fld (POS_SN_CFG.TICK k)) → 0 < cal → (s.sn k).cal = some cal →
    l = (s.snNibbles cal (ivs.take n)).1 → (∀ v ∈ l, 0 ≤ v ∧ v ≤ 15) →
    sentCrc (s.flag (POS_SN_CFG.CRC_LEGACY k)) (((l.map Int.toNat).drop 1).take (n - 2)) =
    (Tbl.get 0 l (n - 1)).toNat → s.fld (POS_SN_CFG.STERR k) = 0 →
    Runs (.sentFrame k back cal ivs) s Parts.sentFrame (fun t => t.flag (POS_SN_STAT.VALID k) = true ∧
    (∀ j < 4, j ≠ k.val → t.sn j = s.sn j) ∧ t.pos.si = s.pos.si ∧ t.pos.qd = s.pos.qd ∧ t.pos.ee = s.pos.ee)) ∧
  (∀ (k : Fin 4) (s : State), s.powered = true → s.flag (POS_SN_CFG.EN k) = true →
    Runs (.sentTimeout k) s [.row POS_SN_STAT, .one MGT_LOG_STAT, .faults, .reel, .intg, .mgt, .can, .pos] (fun t =>
    t.flag (POS_SN_STAT.VALID k) = false ∧ t.flag (POS_SN_STAT.TIMEOUT k) = true ∧ t.raised 0x0A06 k = true ∧
    (∀ j < 4, j ≠ k.val → t.sn j = s.sn j) ∧ t.pos.si = s.pos.si ∧ t.pos.qd = s.pos.qd ∧ t.pos.ee = s.pos.ee)) ∧
  (∀ (e : Fin 2) (s : State), s.hostOpen → s.pos.ee.length = 2 →
    Runs (.emuClear e) s [.intg, .spi, .pos] (fun t => (t.ee e).clear = true ∧ (∀ j < 2, j ≠ e.val →
    t.ee j = s.ee j) ∧ t.pos.si = s.pos.si ∧ t.pos.qd = s.pos.qd ∧ t.pos.sn = s.pos.sn))

/-- An angle sample moves the accumulator by the difference to the one before. The output count moves by one toward its
target. A compare pulse ends, and a write of the compare value sets BEHIND where the source already moves away from it.
-/
def Obligations.EmulationMoves : Prop :=
  (∀ (e : Fin 2) (p n : Nat) (s : State), s.powered = true → s.pos.ee.length = 2 → s.flag (POS_EE_CFG.EN e) = true →
    s.flag (POS_EE_CFG.SRC e) = false → (s.ee e).theta = some p → n = s.theta (s.fld (POS_EE_CFG.NUM e)) →
    Runs (.emuThetaSample e) s [.row POS_EE_COUNT, .row POS_EE_STAT, .one MGT_LOG_STAT, .faults, .reel, .intg, .mgt,
    .can, .pos] (fun t => (t.ee e).theta = some n ∧ (t.ee e).acc = (s.ee e).acc + lowS 20 ((n : Int) - p) ∧
    (∀ j < 2, j ≠ e.val → t.ee j = s.ee j) ∧ t.pos.si = s.pos.si ∧ t.pos.qd = s.pos.qd ∧ t.pos.sn = s.pos.sn)) ∧
  (∀ (e : Fin 2) (s : State), s.powered = true → s.pos.ee.length = 2 → s.flag (POS_EE_CFG.EN e) = true →
    (s.ee e).moved = none → (s.ee e).out < s.eeTarget e → s.eeTarget e - (s.ee e).out ≤ 4096 →
    Runs (.emuStep e) s [.row POS_EE_COUNT, .row POS_EE_STAT, .one MGT_LOG_STAT, .faults, .reel, .intg, .mgt, .can,
    .pos] (fun t => (t.ee e).out = (s.ee e).out + 1 ∧ (t.ee e).moved = some s.time ∧ (∀ j < 2, j ≠ e.val →
    t.ee j = s.ee j) ∧ t.pos.si = s.pos.si ∧ t.pos.qd = s.pos.qd ∧ t.pos.sn = s.pos.sn)) ∧
  (∀ (e : Fin 2) (s : State), s.powered = true → s.pos.ee.length = 2 → s.flag (POS_EE_CFG.EN e) = true →
    (s.ee e).moved = none → s.eeTarget e < (s.ee e).out → (s.ee e).out - s.eeTarget e ≤ 4096 →
    Runs (.emuStep e) s [.row POS_EE_COUNT, .row POS_EE_STAT, .one MGT_LOG_STAT, .faults, .reel, .intg, .mgt, .can,
    .pos] (fun t => (t.ee e).out = (s.ee e).out - 1 ∧ (t.ee e).moved = some s.time ∧ (∀ j < 2, j ≠ e.val →
    t.ee j = s.ee j) ∧ t.pos.si = s.pos.si ∧ t.pos.qd = s.pos.qd ∧ t.pos.sn = s.pos.sn)) ∧
  (∀ (m : Fin 4) (s : State), s.powered = true →
    Runs (.cmpPulseEnd m) s [.intg, .pos] (fun t => t.pos.pulse.getLsbD m = false ∧ (∀ j < 4, j ≠ m.val →
    t.pos.pulse.getLsbD j = s.pos.pulse.getLsbD j))) ∧
  (∀ (m : Fin 4) (v : Word) (s : State), s.hostOpen →
    Runs (.compareValWrite m v) s [.row POS_CP_VAL, .row POS_CP_STAT, .one MGT_LOG_STAT, .faults, .reel, .intg, .mgt,
    .can, .spi] (fun t => t.word (POS_CP_VAL m) = v ∧
    t.flag (POS_CP_STAT.BEHIND m) = (s.srcDir (s.fld (POS_CP_CFG.SRC m))).any (fun neg =>
    (sgn (s.srcCount (s.fld (POS_CP_CFG.SRC m)) - v)).sign == (if neg then -1 else 1))))

/-- A debounced limit edge shows its level and is seen. A trigger of an empty latch captures the position and sets FULL.
A read of the position latches stamp and status as they stood and clears FULL. An output that reads back another level
than it drives raises OUT_MISMATCH. -/
def Obligations.LimitsAndLatches : Prop :=
  (∀ (n : Fin 12) (level : Bool) (s : State), s.powered = true → s.inputOn 0x07 n = true →
    Runs (.limitEdge n true level) s [.one POS_LIM, .one POS_LIM_SEEN, .intg, .mots] (fun t =>
    t.bitOf POS_LIM.POS_ACT n = (level != s.flag (POS_AX_LIMCFG.POL_POS n)) ∧
    (level ≠ s.flag (POS_AX_LIMCFG.POL_POS n) → s.bitOf POS_LIM.POS_ACT n = false →
    t.bitOf POS_LIM_SEEN.POS n = true) ∧ (∀ m < 12, m ≠ n.val → t.mot m = s.mot m))) ∧
  (∀ (n : Fin 12) (level : Bool) (s : State), s.powered = true → s.inputOn 0x08 n = true →
    Runs (.limitEdge n false level) s [.one POS_LIM, .one POS_LIM_SEEN, .intg, .mots] (fun t =>
    t.bitOf POS_LIM.NEG_ACT n = (level != s.flag (POS_AX_LIMCFG.POL_NEG n)) ∧
    (level ≠ s.flag (POS_AX_LIMCFG.POL_NEG n) → s.bitOf POS_LIM.NEG_ACT n = false →
    t.bitOf POS_LIM_SEEN.NEG n = true) ∧ (∀ m < 12, m ≠ n.val → t.mot m = s.mot m))) ∧
  (∀ (c : Fin 4) (rising : Bool) (lag : Nat) (j : Fin 8) (s : State), s.powered = true → s.inputOn 0x09 c = true →
    s.fld (POS_LT_CFG.TRIG j) = 1 → s.fld (POS_LT_CFG.TINST j) = c.val → s.fld (POS_LT_CFG.EDGE j) = 2 →
    s.flag (POS_LT_STAT.FULL j) = false →
    Runs (.capEdge c rising lag) s [.row POS_LT_POS, .row POS_LT_TIME, .row POS_LT_STAT, .one MGT_LOG_STAT, .faults,
    .reel, .intg, .mgt, .can, .pos, .drawn] (fun t => t.flag (POS_LT_STAT.FULL j) = true ∧
    t.word (POS_LT_POS j) = s.srcCount (s.fld (POS_LT_CFG.SRC j)))) ∧
  (∀ (m : BitVec 8) (lag : Nat) (j : Fin 8) (s : State), s.hostOpen → m.getLsbD j = true →
    s.fld (POS_LT_CFG.TRIG j) = 4 → s.flag (POS_LT_STAT.FULL j) = false →
    Runs (.latchHostTrig m lag) s [.row POS_LT_POS, .row POS_LT_TIME, .row POS_LT_STAT, .one MGT_LOG_STAT, .faults,
    .reel, .intg, .mgt, .can, .spi, .pos, .drawn] (fun t => t.flag (POS_LT_STAT.FULL j) = true ∧
    t.word (POS_LT_POS j) = s.srcCount (s.fld (POS_LT_CFG.SRC j)))) ∧
  (∀ (j : Fin 8) (s : State), s.hostOpen →
    Runs (.latchRead j) s [.row POS_LT_STAT, .latched, .intg, .spi] (fun t => t.flag (POS_LT_STAT.FULL j) = false ∧
    t.fld (POS_LT_STAT.OVR j) = 0 ∧ Assoc.get t.latched (.host, POS_LT_TIME j) = some (s.word (POS_LT_TIME j)) ∧
    Assoc.get t.latched (.host, POS_LT_STAT j) = some (s.word (POS_LT_STAT j)))) ∧
  (∀ (p : Fin 15) (level : Bool) (s : State), s.powered = true → s.pos.pinsOn = true → s.vioOk = true →
    s.driven p = some !level → (Tbl.get (⟨0, 0, 0⟩ : PinEntry) s.reel.struct.pins p).opt.testBit 7 = false →
    Runs (.outMismatch p level) s [.one MGT_LOG_STAT, .faults, .reel, .intg, .mgt, .can, .pos] (fun t =>
    t.raised 0x1401 = true))

/-- The node on the bus selects the HELD buffer first, then by PRIO the lowest PENDING one or the one whose arbitration
field wins, ties to the lowest number. An acknowledged attempt ends DONE and lowers TEC. A lost one is PENDING again,
FAILED in one-shot mode, ABORTED where an abort waits. An error counts 8 into TEC, and above 255 the buffer is HELD and
the node is bus-off. That TEC rises by 8 for any transmit error and falls by one on success is the step of ISO 11898-1,
which the model takes from outside the spec (log entry 35, PRESUMED: the model's choice). -/
def Obligations.CanTransmits : Prop :=
  (∀ (lag : Nat) (i : Fin 3) (s : State), s.powered = true → s.onBus = true → s.canNormal = true →
    (∀ j < 3, s.tbSt j ≠ txActive) → s.disabling = false → s.tbSt i = txHeld → (∀ j < i.val, s.tbSt j ≠ txHeld) →
    Runs (.canArbitration lag) s [.one CAN_TXSTAT, .intg, .can] (fun t => t.tbSt i = txActive ∧ (∀ j < 3, j ≠ i.val →
    t.tbSt j = s.tbSt j) ∧ t.can.txStamp = s.stampD2 lag)) ∧
  (∀ (lag : Nat) (i : Fin 3) (s : State), s.powered = true → s.onBus = true → s.canNormal = true →
    (∀ j < 3, s.tbSt j ≠ txActive) → s.disabling = false → s.flag CAN_CTRL.PRIO = true →
    (∀ j < 3, s.tbSt j ≠ txHeld) → s.tbSt i = txPending → (∀ j < i.val, s.tbSt j ≠ txPending) →
    Runs (.canArbitration lag) s [.one CAN_TXSTAT, .intg, .can] (fun t => t.tbSt i = txActive ∧ (∀ j < 3, j ≠ i.val →
    t.tbSt j = s.tbSt j) ∧ t.can.txStamp = s.stampD2 lag)) ∧
  (∀ (lag : Nat) (i : Fin 3) (s : State), s.powered = true → s.onBus = true → s.canNormal = true →
    (∀ j < 3, s.tbSt j ≠ txActive) → s.disabling = false → s.flag CAN_CTRL.PRIO = false →
    (∀ j < 3, s.tbSt j ≠ txHeld) → s.tbSt i = txPending → (∀ j < 3, s.tbSt j = txPending →
    (s.tb i).arb < (s.tb j).arb ∨ ((s.tb i).arb = (s.tb j).arb ∧ i.val ≤ j)) →
    Runs (.canArbitration lag) s [.one CAN_TXSTAT, .intg, .can] (fun t => t.tbSt i = txActive ∧ (∀ j < 3, j ≠ i.val →
    t.tbSt j = s.tbSt j) ∧ t.can.txStamp = s.stampD2 lag)) ∧
  (∀ (i : Fin 3) (v : Option (BitVec 7)) (s : State), s.powered = true → s.canNormal = true → s.can.tbs.length = 3 →
    (∀ j < 3, (s.tbSt j = txActive ↔ j = i.val)) → (s.tbOwner i = 1 → s.can.waitMsgs = []) →
    Runs (.canTxEnd (.ok v)) s [.one CAN_STAT, .one CAN_ERR, .one CAN_ERRLOG, .one CAN_IRQ, .one CAN_TDC,
    .one CAN_TXSTAT, .one CAN_CNT, .one MGT_LOG_STAT, .faults, .reel, .intg, .mgt, .can] (fun t => t.tbSt i = txDone ∧
    (t.tb i).stamp = s.can.txStamp ∧ t.fld CAN_CNT.TX = min (s.fld CAN_CNT.TX + 1) 0xFFFF ∧ t.fld CAN_ERR.ACKERR = 0 ∧
    t.flag CAN_STAT.ALONE = false ∧ t.fld CAN_ERR.TEC = s.fld CAN_ERR.TEC - 1 ∧ t.flag CAN_IRQ.TXDONE = true)) ∧
  (∀ (i : Fin 3) (s : State), s.powered = true → (∀ j < 3, (s.tbSt j = txActive ↔ j = i.val)) →
    s.can.abort.getLsbD i = false → s.flag CAN_CTRL.ONESHOT = false →
    Runs (.canTxEnd .lost) s [.one CAN_STAT, .one CAN_ERR, .one CAN_ERRLOG, .one CAN_IRQ, .one CAN_TDC,
    .one CAN_TXSTAT, .one CAN_CNT, .one MGT_LOG_STAT, .faults, .reel, .intg, .mgt, .can] (fun t => t.tbSt i =
    txPending ∧ (∀ j < 3, j ≠ i.val → t.tbSt j = s.tbSt j))) ∧
  (∀ (i : Fin 3) (s : State), s.powered = true → (∀ j < 3, (s.tbSt j = txActive ↔ j = i.val)) →
    s.can.abort.getLsbD i = false → s.flag CAN_CTRL.ONESHOT = true → (s.tbOwner i = 1 → s.can.waitMsgs = []) →
    Runs (.canTxEnd .lost) s [.one CAN_STAT, .one CAN_ERR, .one CAN_ERRLOG, .one CAN_IRQ, .one CAN_TDC,
    .one CAN_TXSTAT, .one CAN_CNT, .one MGT_LOG_STAT, .faults, .reel, .intg, .mgt, .can] (fun t => t.tbSt i =
    txFailed ∧ t.fld CAN_TXSTAT.CAUSE = 0 ∧ t.fld CAN_TXSTAT.CBUF = i.val ∧ t.flag CAN_IRQ.TXFAIL = true ∧
    t.raised 0x0C08 = true)) ∧
  (∀ (i : Fin 3) (s : State), s.powered = true → (∀ j < 3, (s.tbSt j = txActive ↔ j = i.val)) →
    s.can.abort.getLsbD i = true → (s.tbOwner i = 1 → s.can.waitMsgs = []) →
    Runs (.canTxEnd .lost) s [.one CAN_STAT, .one CAN_ERR, .one CAN_ERRLOG, .one CAN_IRQ, .one CAN_TDC,
    .one CAN_TXSTAT, .one CAN_CNT, .one MGT_LOG_STAT, .faults, .reel, .intg, .mgt, .can] (fun t => t.tbSt i =
    txAborted ∧ t.can.abort.getLsbD i = false)) ∧
  (∀ (i : Fin 3) (lec : Fin 6) (data : Bool) (v : Option (BitVec 7)) (s : State), s.powered = true → s.onBus = true →
    s.canNormal = true → (∀ j < 3, (s.tbSt j = txActive ↔ j = i.val)) → s.can.abort.getLsbD i = false →
    s.flag CAN_CTRL.ONESHOT = false → s.fld CAN_ERR.TEC + 8 ≤ 255 →
    Runs (.canTxEnd (.error lec data false v)) s [.one CAN_STAT, .one CAN_ERR, .one CAN_ERRLOG, .one CAN_IRQ,
    .one CAN_TDC, .one CAN_TXSTAT, .one CAN_CNT, .one MGT_LOG_STAT, .faults, .reel, .intg, .mgt, .can] (fun t =>
    t.tbSt i = txPending ∧ t.fld CAN_ERRLOG.LEC = lec.val + 1 ∧ t.flag CAN_ERRLOG.DATA = data ∧
    t.fld CAN_ERR.TEC = s.fld CAN_ERR.TEC + 8)) ∧
  (∀ (i : Fin 3) (lec : Fin 6) (data : Bool) (v : Option (BitVec 7)) (s : State), s.powered = true → s.onBus = true →
    s.canNormal = true → (∀ j < 3, (s.tbSt j = txActive ↔ j = i.val)) → s.can.abort.getLsbD i = false →
    s.flag CAN_CTRL.ONESHOT = false → 255 < s.fld CAN_ERR.TEC + 8 →
    Runs (.canTxEnd (.error lec data false v)) s [.one CAN_STAT, .one CAN_ERR, .one CAN_ERRLOG, .one CAN_IRQ,
    .one CAN_TDC, .one CAN_TXSTAT, .one CAN_CNT, .one MGT_LOG_STAT, .faults, .reel, .intg, .mgt, .can] (fun t =>
    t.tbSt i = txHeld ∧ t.raised 0x0C03 = true ∧ t.flag CAN_IRQ.BUSOFF = true ∧
    (t.canState = if s.flag CAN_CTRL.BO_AUTO then 5 else 4))) ∧
  (∀ (m : BitVec 3) (s : State), s.hostOpen → (∀ i < 3, m.getLsbD i = true → s.tbOwner i = 0) →
    Runs (.canTxreq m) s [.one CAN_TXSTAT, .intg, .spi] (fun t => (∀ i < 3, t.tbSt i = if m.getLsbD i &&
    !s.tbBusy i then txPending else s.tbSt i))) ∧
  (∀ (m : BitVec 3) (s : State), s.hostOpen → s.can.waitMsgs = [] →
    Runs (.canTxabort m) s [.one CAN_TXSTAT, .intg, .can, .spi] (fun t => (∀ i < 3, m.getLsbD i = true →
    s.tbSt i = txPending ∨ s.tbSt i = txHeld → t.tbSt i = txAborted) ∧ (∀ i < 3, m.getLsbD i = true →
    s.tbSt i = txActive → t.tbSt i = txActive ∧ t.can.abort.getLsbD i = true) ∧ (∀ i < 3, m.getLsbD i = false →
    t.tbSt i = s.tbSt i))) ∧
  (∀ (l : List Byte) (held : Bool) (st : Nat) (v : Word) (e : MapEntry) (i : Fin 3) (s : State), s.powered = true →
    s.can.tbs.length = 3 → s.can.svc = some ⟨l, held, some (st, v), none⟩ → s.serviceEntry = some e →
    s.tbOwner i = 2 → s.tbBusy i = false → (∀ j < i.val, s.tbOwner j ≠ 2 ∨ s.tbBusy j = true) →
    Runs .serviceResponse s [.one CAN_TXSTAT, .intg, .can] (fun t => t.tbSt i = txPending ∧
    t.tb i = e.msg (responseBytes l st v) ∧ t.can.svc = some ⟨l, held, some (st, v), some i⟩))

/-- A receive error counts one into REC, a disturbed flag and a run of dominant bits 8 into the counter of the role the
node has. A dominant time-out and a protocol exception raise their codes. A node joins after integration, starts
recovery by BO_REQ and ends it error-active with both counters 0. The steps of the counters are those of ISO 11898-1,
which the model takes from outside the spec (log entry 35, PRESUMED). -/
def Obligations.CanErrorsAndStates : Prop :=
  (∀ (lec : Fin 6) (data x : Bool) (s : State), s.powered = true → s.onBus = true → s.canNormal = true →
    (∀ j < 3, s.tbSt j ≠ txActive) → s.fld CAN_ERR.REC < 255 →
    Runs (.canError (.frame lec data x)) s [.one CAN_STAT, .one CAN_ERR, .one CAN_ERRLOG, .one CAN_IRQ,
    .one CAN_TXSTAT, .one MGT_LOG_STAT, .faults, .reel, .intg, .mgt, .can] (fun t => t.fld CAN_ERR.REC =
    s.fld CAN_ERR.REC + 1 ∧ t.fld CAN_ERR.TEC = s.fld CAN_ERR.TEC ∧ t.fld CAN_ERRLOG.LEC = lec.val + 1 ∧
    t.flag CAN_ERRLOG.DATA = data ∧ (t.flag CAN_STAT.EWARN =
    decide (96 ≤ max (t.fld CAN_ERR.TEC) (t.fld CAN_ERR.REC))) ∧
    t.can.passive = decide (127 < max (t.fld CAN_ERR.TEC) (t.fld CAN_ERR.REC)))) ∧
  (∀ (s : State), s.powered = true → s.onBus = true → s.canNormal = true → s.can.lastTx = false →
    s.fld CAN_ERR.REC ≤ 247 → Runs (.canError .flag) s [.one CAN_STAT, .one CAN_ERR, .one CAN_ERRLOG, .one CAN_IRQ,
    .one CAN_TXSTAT, .one MGT_LOG_STAT, .faults, .reel, .intg, .mgt, .can] (fun t => t.fld CAN_ERR.REC =
    s.fld CAN_ERR.REC + 8 ∧ t.fld CAN_ERR.TEC = s.fld CAN_ERR.TEC)) ∧
  (∀ (s : State), s.powered = true → s.onBus = true → s.canNormal = true → s.can.lastTx = false →
    s.fld CAN_ERR.REC ≤ 247 → Runs (.canError .first) s [.one CAN_STAT, .one CAN_ERR, .one CAN_ERRLOG, .one CAN_IRQ,
    .one CAN_TXSTAT, .one MGT_LOG_STAT, .faults, .reel, .intg, .mgt, .can] (fun t => t.fld CAN_ERR.REC =
    s.fld CAN_ERR.REC + 8)) ∧
  (∀ (s : State), s.powered = true → s.onBus = true → s.canNormal = true → s.can.lastTx = true →
    s.fld CAN_ERR.TEC + 8 ≤ 255 → Runs (.canError .run) s [.one CAN_STAT, .one CAN_ERR, .one CAN_ERRLOG, .one CAN_IRQ,
    .one CAN_TXSTAT, .one MGT_LOG_STAT, .faults, .reel, .intg, .mgt, .can] (fun t => t.fld CAN_ERR.TEC =
    s.fld CAN_ERR.TEC + 8 ∧ t.fld CAN_ERR.REC = s.fld CAN_ERR.REC)) ∧
  (∀ (s : State), s.powered = true → s.flag CAN_CTRL.EN = true →
    Runs .domTimeout s [.one MGT_LOG_STAT, .faults, .reel, .intg, .mgt, .can] (fun t => t.raised 0x0C0C = true)) ∧
  (∀ (s : State), s.powered = true → s.onBus = true → s.bitOf CAN_TDC.FLAGS 2 = true →
    Runs .protocolExc s [.one MGT_LOG_STAT, .faults, .reel, .intg, .mgt, .can] (fun t => t.canState = 1 ∧
    t.raised 0x0C0A = true)) ∧
  (∀ (s : State), s.powered = true → s.canState = 1 →
    Runs .canIntegrated s [.intg, .can] (fun t => t.can.integrating = false ∧
    (t.canState = if s.can.busOff then (if s.can.recovering ||
    s.flag CAN_CTRL.BO_AUTO then 5 else 4) else if s.can.passive then 3 else 2))) ∧
  (∀ (s : State), s.hostOpen → s.canState = 4 → Runs .boReq s [.intg, .can, .spi] (fun t => t.canState = 5)) ∧
  (∀ (s : State), s.hostOpen → s.canState ≠ 4 → Runs .boReq s [.intg, .can, .spi] (fun t => t.can = s.can)) ∧
  (∀ (s : State), s.powered = true → s.canState = 5 →
    Runs .busOffRecovered s [.one CAN_STAT, .one CAN_ERR, .one CAN_IRQ, .one CAN_TXSTAT, .one MGT_LOG_STAT, .faults,
    .reel, .intg, .mgt, .can] (fun t => t.fld CAN_ERR.TEC = 0 ∧ t.fld CAN_ERR.REC = 0 ∧ t.canState = 2 ∧
    t.flag CAN_IRQ.RECOVERED = true)) ∧
  (∀ (s : State), s.powered = true → s.flag CLK_STAT.REF_XTAL = true →
    Runs .canResume s [.one CAN_STAT, .intg] (fun t => t.flag CAN_STAT.RC_RESTRICT = false))

/-- The first filter that matches names a dedicated buffer, HPB or the FIFO: NEW is set, an unread buffer counts as
overrun, a full FIFO discards. A frame that none matches is counted. A read of the ID word takes the whole buffer into
the shadow, and an acknowledge advances the head. A mapped entry without a datum for TMO frames times out. That a store
into HPB sets RXNEW and HPB (log entry 33), and the age and immediate HALT of a time-out (log entry 39), are the model's
choices. -/
def Obligations.CanReceives : Prop :=
  (∀ (f : CanFrame) (back i n : Nat) (s : State), s.powered = true → s.onBus = true → (∀ j < 3, s.tbSt j ≠ txActive) →
    (f.fdf = true → f.rtr = false ∧ s.bitOf CAN_TDC.FLAGS 0 = true) → s.can.rbs.length = 17 →
    i < mapFilters s.reel.active.canMap → filterMatches s.reel.active.canMap f i = true →
    (∀ j < i, filterMatches s.reel.active.canMap f j = false) → n ≤ 16 →
    byteAt s.reel.active.canMap (4 + 12 * i + 8) = n →
    Runs (.canRxFrame f back) s Parts.bus (fun t => Tbl.get {} t.can.rbs n = frameBuf f i (s.stampBack back) ∧
    (t.word CAN_RXNEW).getLsbD n = true ∧ (∀ k < 17, k ≠ n →
    (t.word CAN_RXNEW).getLsbD k = (s.word CAN_RXNEW).getLsbD k ∧ Tbl.get {} t.can.rbs k = Tbl.get {} s.can.rbs k) ∧
    t.flag CAN_IRQ.RXNEW = true ∧ (n = 16 → t.flag CAN_IRQ.HPB = true) ∧ ((s.word CAN_RXNEW).getLsbD n = true →
    (t.word CAN_RXOVR).getLsbD n = true ∧ t.raised 0x0C07 = true) ∧ t.flag CAN_STAT.ALONE = false)) ∧
  (∀ (f : CanFrame) (back i n : Nat) (s : State), s.powered = true → s.onBus = true → (∀ j < 3, s.tbSt j ≠ txActive) →
    (f.fdf = true → f.rtr = false ∧ s.bitOf CAN_TDC.FLAGS 0 = true) → s.can.rbs.length = 17 →
    i < mapFilters s.reel.active.canMap → filterMatches s.reel.active.canMap f i = true →
    (∀ j < i, filterMatches s.reel.active.canMap f j = false) → byteAt s.reel.active.canMap (4 + 12 * i + 8) = 0x11 →
    s.fld CAN_RXF.LEVEL < 16 - s.fifoBase →
    n = s.fifoBase + (s.fld CAN_RXF.HEAD - s.fifoBase + s.fld CAN_RXF.LEVEL) % (16 - s.fifoBase) →
    Runs (.canRxFrame f back) s Parts.bus (fun t => Tbl.get {} t.can.rbs n = frameBuf f i (s.stampBack back) ∧
    t.fld CAN_RXF.LEVEL = s.fld CAN_RXF.LEVEL + 1 ∧ t.fld CAN_RXF.HEAD = s.fld CAN_RXF.HEAD ∧
    t.flag CAN_IRQ.FIFO = true)) ∧
  (∀ (f : CanFrame) (back i : Nat) (s : State), s.powered = true → s.onBus = true → (∀ j < 3, s.tbSt j ≠ txActive) →
    (f.fdf = true → f.rtr = false ∧ s.bitOf CAN_TDC.FLAGS 0 = true) → i < mapFilters s.reel.active.canMap →
    filterMatches s.reel.active.canMap f i = true → (∀ j < i, filterMatches s.reel.active.canMap f j = false) →
    byteAt s.reel.active.canMap (4 + 12 * i + 8) = 0x11 → 16 - s.fifoBase ≤ s.fld CAN_RXF.LEVEL →
    Runs (.canRxFrame f back) s Parts.bus (fun t => t.can.rbs = s.can.rbs ∧
    t.fld CAN_RXF.LEVEL = s.fld CAN_RXF.LEVEL ∧ t.fld CAN_RXF.OVR = min (s.fld CAN_RXF.OVR + 1) 0xFFFF ∧
    t.raised 0x0C07 = true)) ∧
  (∀ (f : CanFrame) (back : Nat) (s : State), s.powered = true → s.onBus = true → (∀ j < 3, s.tbSt j ≠ txActive) →
    (f.fdf = true → f.rtr = false ∧ s.bitOf CAN_TDC.FLAGS 0 = true) → s.reel.active.canMap ≠ [] →
    (∀ j < mapFilters s.reel.active.canMap, filterMatches s.reel.active.canMap f j = false) →
    Runs (.canRxFrame f back) s Parts.bus (fun t => t.can.rbs = s.can.rbs ∧
    t.fld CAN_DROP.UNMATCHED = min (s.fld CAN_DROP.UNMATCHED + 1) 0xFFFF)) ∧
  (∀ (s : State), s.hostOpen → 0 < s.fld CAN_RXF.LEVEL →
    Runs .canRxfAck s [.one CAN_RXF, .intg, .spi] (fun t => t.fld CAN_RXF.LEVEL = s.fld CAN_RXF.LEVEL - 1 ∧
    (t.fld CAN_RXF.HEAD = if 15 ≤ s.fld CAN_RXF.HEAD then s.fifoBase % 16 else s.fld CAN_RXF.HEAD + 1))) ∧
  (∀ (n : Fin 17) (s : State), s.hostOpen →
    Runs (.rxBufferRead n) s [.intg, .can, .spi] (fun t => t.shadow .host n = Tbl.get {} s.can.rbs n ∧
    t.shadow .can n = s.shadow .can n ∧ t.shadow .mc n = s.shadow .mc n ∧ t.can.rbs = s.can.rbs)) ∧
  (∀ (m : Fin 32) (e : MapEntry) (s : State), s.powered = true → m.val < mapCount s.reel.active.canMap →
    e = mapEntry s.reel.active.canMap m → e.kind = 1 ∨ e.kind = 2 → 0 < e.per → e.axis < 12 →
    s.can.entries.length = 32 → (s.store m).timedOut = false → e.per ≤ (s.store m).age →
    Runs (.rxMapTimeout m) s [.row AX_CTRL, .one CAN_IRQ, .one MGT_LOG_STAT, .faults, .reel, .intg, .mgt,
    .can] (fun t => (t.store m).timedOut = true ∧ t.raised 0x0C06 = true ∧ t.flag CAN_IRQ.MAP = true ∧ (e.kind = 1 ∧
    e.flags.testBit 0 = true → t.flag (AX_CTRL.HALT e.axis) = true)))

/-- A request with a good check and none waiting is stored, another is discarded and counted; that one shorter than 16
bytes counts as a failed check is the model's choice (log entry 36). A read, write, log read and update command is
answered with its STATUS: done, refused, denied without WRITE_EN, or an address that is no multiple of 4; that a denied
request answers 3 also where its address is misaligned is the model's choice (log entry 37). READ answers any stored
register and WRITE reaches any register that no rule refuses. A firmware core that stopped restarts. -/
def Obligations.CanServiceChannel : Prop :=
  (∀ (l : List Byte) (e : MapEntry) (op : Byte) (s : State), s.powered = true → s.onBus = true →
    s.serviceEntry = some e → s.can.svc = none → 16 ≤ l.length →
    crcMsb 16 0x1021 0xFFFF (l.take 12) = (bytesWord (l.drop 12)).toNat % 2 ^ 16 → Tbl.get 0 l 0 = op →
    serviceOps.contains op.toNat = true →
    Runs (.serviceRequest l) s [.one CAN_IRQ, .one CAN_CNT, .one CAN_MAP_ERR, .one MGT_LOG_STAT, .faults, .reel,
    .intg, .mgt, .can, .drawn] (fun t => t.can.svc = some ⟨l.take 16, false, none, none⟩)) ∧
  (∀ (l : List Byte) (e : MapEntry) (s : State), s.powered = true → s.onBus = true → s.serviceEntry = some e →
    s.can.svc ≠ none ∨ l.length < 16 ∨ crcMsb 16 0x1021 0xFFFF (l.take 12) ≠ (bytesWord (l.drop 12)).toNat % 2 ^ 16 →
    Runs (.serviceRequest l) s [.one CAN_IRQ, .one CAN_CNT, .one CAN_MAP_ERR, .one MGT_LOG_STAT, .faults, .reel,
    .intg, .mgt, .can, .drawn] (fun t => t.can.svc = s.can.svc ∧ t.raised 0x0C05 = true ∧
    t.fld CAN_MAP_ERR.CHECK = min (s.fld CAN_MAP_ERR.CHECK + 1) 0xFFFF)) ∧
  (∀ (l : List Byte) (held : Bool) (a : Nat) (s : State), s.powered = true → s.can.svc = some ⟨l, held, none, none⟩ →
    Tbl.get 0 l 0 = 0x01 → s.svcFetching = false → s.holding = false → a = (bytesWord (l.drop 4)).toNat % 2 ^ 24 →
    s.mcAway a = false → a = CAN_NBT → Runs .svcRead s Parts.daisyFrame (fun t => t.can.svc = some ⟨l, false, some (0,
    s.word CAN_NBT), none⟩)) ∧
  (∀ (l : List Byte) (held : Bool) (a : Nat) (s : State), s.powered = true → s.can.svc = some ⟨l, held, none, none⟩ →
    Tbl.get 0 l 0 = 0x01 → s.svcFetching = false → s.holding = false → a = (bytesWord (l.drop 4)).toNat % 2 ^ 24 →
    s.mcAway a = false → 0x100000 ≤ a → a % 4 = 0 → (a < 0x10C800 ∨ 0x10D000 ≤ a) → canWord 0x10B100 3 a = none →
    canWord 0x10B400 17 a = none → rsPlace a = none → a ≠ CLK_SLATE_LO → (regRow a).isSome = true →
    Runs .svcRead s Parts.daisyFrame (fun t => t.can.svc = some ⟨l, false, some (0, (s.shown a).1), none⟩)) ∧
  (∀ (l : List Byte) (held : Bool) (a : Nat) (s : State), s.powered = true → s.can.svc = some ⟨l, held, none, none⟩ →
    Tbl.get 0 l 0 = 0x01 → s.svcFetching = false → s.holding = false → a = (bytesWord (l.drop 4)).toNat % 2 ^ 24 →
    s.mcAway a = false → a % 4 ≠ 0 → Runs .svcRead s Parts.daisyFrame (fun t =>
    (t.can.svc.bind SvcReq.answer).map Prod.fst = some 4)) ∧
  (∀ (l : List Byte) (held : Bool) (a : Nat) (s : State), s.powered = true → s.can.svc = some ⟨l, held, none, none⟩ →
    Tbl.get 0 l 0 = 0x02 → s.svcFetching = false → s.holding = false → a = (bytesWord (l.drop 4)).toNat % 2 ^ 24 →
    s.mcAway a = false → s.serviceEntry.any (fun e => e.flags.testBit 1) = false →
    Runs .svcWrite s Parts.daisyFrame (fun t => (t.can.svc.bind SvcReq.answer).map Prod.fst = some 3 ∧
    t.regs = s.regs)) ∧
  (∀ (l : List Byte) (held : Bool) (a : Nat) (s : State), s.powered = true → s.can.svc = some ⟨l, held, none, none⟩ →
    Tbl.get 0 l 0 = 0x02 → s.svcFetching = false → s.holding = false → a = (bytesWord (l.drop 4)).toNat % 2 ^ 24 →
    s.mcAway a = false → s.serviceEntry.any (fun e => e.flags.testBit 1) = true → a % 4 ≠ 0 →
    Runs .svcWrite s Parts.daisyFrame (fun t => (t.can.svc.bind SvcReq.answer).map Prod.fst = some 4 ∧
    t.regs = s.regs)) ∧
  (∀ (l : List Byte) (held : Bool) (a : Nat) (s : State), s.powered = true → s.can.svc = some ⟨l, held, none, none⟩ →
    Tbl.get 0 l 0 = 0x02 → s.svcFetching = false → s.holding = false → a = (bytesWord (l.drop 4)).toNat % 2 ^ 24 →
    s.mcAway a = false → s.serviceEntry.any (fun e => e.flags.testBit 1) = true → a = CAN_IRQ_EN → s.spi.writes = [] →
    Runs .svcWrite s Parts.daisyFrame (fun t => t.can.svc = some ⟨l, false, some (0, bytesWord (l.drop 8)), none⟩ ∧
    t.fld CAN_IRQ_EN.EN = (bytesWord (l.drop 8)).toNat % 2 ^ 13)) ∧
  (∀ (l : List Byte) (held : Bool) (a : Nat) (v : Word) (r : RegRow) (s : State), s.powered = true →
    s.can.svc = some ⟨l, held, none, none⟩ → Tbl.get 0 l 0 = 0x02 → s.svcFetching = false → s.holding = false →
    a = (bytesWord (l.drop 4)).toNat % 2 ^ 24 → s.mcAway a = false →
    s.serviceEntry.any (fun e => e.flags.testBit 1) = true → 0x100000 ≤ a → a % 4 = 0 → v = bytesWord (l.drop 8) →
    s.absent a = false → s.actTop .can a v = none → s.actMotion .can a v = none → s.actAnalog .can a v {} = none →
    s.actLinks .can a v {} = none → regRow a = some r → s.spi.writes = [] → s.illegal .can a v = false →
    s.clearHeld a v = false → Runs .svcWrite s Parts.daisyFrame (fun t => t.can.svc = some ⟨l, false, some (0, v),
    none⟩ ∧ t.word a =
    ((s.word a &&& ~~~BitVec.ofNat 32 (r.rw + r.cmt)) ||| (v &&& BitVec.ofNat 32 (r.rw + r.cmt))) &&& ~~~(v &&&
    BitVec.ofNat 32 r.w1c))) ∧
  (∀ (l : List Byte) (held : Bool) (a : Nat) (s : State), s.powered = true → s.can.svc = some ⟨l, held, none, none⟩ →
    Tbl.get 0 l 0 = 0x02 → s.svcFetching = false → s.holding = false → a = (bytesWord (l.drop 4)).toNat % 2 ^ 24 →
    s.mcAway a = false → s.serviceEntry.any (fun e => e.flags.testBit 1) = true → a = CLK_FRAME_LEN →
    s.frameLenRefused (bytesWord (l.drop 8)) = true → s.spi.writes = [] →
    Runs .svcWrite s Parts.daisyFrame (fun t => (t.can.svc.bind SvcReq.answer).map Prod.fst = some 1 ∧
    t.waiting = s.waiting ∧ t.regs = s.regs)) ∧
  (∀ (l : List Byte) (held : Bool) (a : Nat) (s : State), s.powered = true → s.can.svc = some ⟨l, held, none, none⟩ →
    Tbl.get 0 l 0 = 0x10 → s.svcFetching = false → s.holding = false → s.mgt.stopped = false →
    a = (bytesWord (l.drop 4)).toNat % 2 ^ 24 → s.mcAway a = false → (bytesWord (l.drop 8)).toNat % 256 ≤ 7 →
    Runs .logRead s Parts.daisyFrame (fun t => t.can.svc = some ⟨l, false, some (0,
    s.logWord (a % 2 ^ 11) ((bytesWord (l.drop 8)).toNat % 256)), none⟩)) ∧
  (∀ (l : List Byte) (held : Bool) (a : Nat) (s : State), s.powered = true → s.can.svc = some ⟨l, held, none, none⟩ →
    Tbl.get 0 l 0 = 0x11 → s.svcFetching = false → s.holding = false → s.mgt.stopped = false →
    a = (bytesWord (l.drop 4)).toNat % 2 ^ 24 → s.mcAway a = false →
    s.serviceEntry.any (fun e => e.flags.testBit 1) = true → a % 4 = 0 → s.dataReason a = 0 →
    s.mgt.pages.contains (a / 256) = false →
    Runs .updWrite s Parts.daisyFrame (fun t => t.mgt.bufs.any (fun b => b.page == a / 256 &&
    Tbl.get 0 b.words (a % 256 / 4) == bytesWord (l.drop 8)) = true ∧
    t.can.svc = some ⟨l, false, some (0, bytesWord (l.drop 8)), none⟩)) ∧
  (∀ (l : List Byte) (held : Bool) (a : Nat) (s : State), s.powered = true → s.can.svc = some ⟨l, held, none, none⟩ →
    Tbl.get 0 l 0 = 0x11 → s.svcFetching = false → s.holding = false → s.mgt.stopped = false →
    a = (bytesWord (l.drop 4)).toNat % 2 ^ 24 → s.mcAway a = false →
    s.serviceEntry.any (fun e => e.flags.testBit 1) = false →
    Runs .updWrite s Parts.daisyFrame (fun t => (t.can.svc.bind SvcReq.answer).map Prod.fst = some 3 ∧ t.mgt = s.mgt)) ∧
  (∀ (l : List Byte) (held : Bool) (a : Nat) (s : State), s.powered = true → s.can.svc = some ⟨l, held, none, none⟩ →
    Tbl.get 0 l 0 = 0x12 → s.svcFetching = false → s.holding = false → s.mgt.stopped = false →
    a = (bytesWord (l.drop 4)).toNat % 2 ^ 24 → s.mcAway a = false →
    s.serviceEntry.any (fun e => e.flags.testBit 1) = true →
    ((s.apart fun s => s.updCtrl (bytesWord (l.drop 8))).1 = 0) →
    Runs .updCmd s Parts.daisyFrame (fun t => t.can.svc = some ⟨l, false, some (0, t.updStat), none⟩)) ∧
  (∀ (l : List Byte) (held : Bool) (a : Nat) (s : State), s.powered = true → s.can.svc = some ⟨l, held, none, none⟩ →
    Tbl.get 0 l 0 = 0x12 → s.svcFetching = false → s.holding = false → s.mgt.stopped = false →
    a = (bytesWord (l.drop 4)).toNat % 2 ^ 24 → s.mcAway a = false →
    s.serviceEntry.any (fun e => e.flags.testBit 1) = false →
    Runs .updCmd s Parts.daisyFrame (fun t => (t.can.svc.bind SvcReq.answer).map Prod.fst = some 3 ∧ t.mgt = s.mgt)) ∧
  (∀ (k : Nat) (s : State), s.powered = true → s.mgt.stopped = true → s.mgt.fwSplice = some k → k = 2 ∨ k = 3 →
    s.mgt.held = [] → s.spi.frame = none → s.can.svc = none →
    Runs .mcRestart s Parts.daisyFrame (fun t => t.mgt.stopped = false ∧ t.mgt.fwSplice = none ∧ t.mgt.opened = none ∧
    t.fld MGT_FW.ACTIVE_SLOT = k - 2))

/-- A frame answers the status byte, whose bits show both lines, the errors and the outcome, and reports each once. READ
answers N words from addresses that rise by 4, READ_FIX N times one address: each word of a bank, or the register shown.
WRITE writes N words to addresses that rise by 4, in their order, WRITE_FIX to one address, whose last word stands: in
the banks no other byte changes, and a register that no rule refuses and whose write starts no action takes its RW, CMT,
W1C and CUT bits by R18. The first word of a snapshot group takes the others with it, and each of those answers what was
taken, or 0 before any was taken (log entry 22, the model's choice). A word that needs more than WMAX wait cycles is
late. An illegal command or address makes no access and raises ILLEGAL_CMD. -/
def Obligations.HostFramesOpen : Prop :=
  (∀ s : State, s.statusByte.getLsbD 7 = true ∧ s.statusByte.getLsbD 6 = false ∧
    s.statusByte.getLsbD 5 = s.intg.pinFault ∧ s.statusByte.getLsbD 4 = s.intg.pinIrq ∧
    s.statusByte.getLsbD 3 = s.spi.mwErr ∧ s.statusByte.getLsbD 2 = s.spi.frameErr ∧
    s.statusByte.toNat % 4 = s.spi.result % 4) ∧
  (∀ (s : State), s.powered = true → s.flag SPI_CFG.DAISY = false → s.spi.frame = none → s.spi.ignored = false →
    s.hostLink = true → s.mastering = false → s.inChainWindow = false →
    Runs (.nop 0) s [.one SPI_STAT, .one SPI_HERR, .one SPI_MW_STAT, .one MGT_LOG_STAT, .faults, .reel, .intg, .mgt,
    .can, .spi, .chn, .drawn] (fun t => t.spi.frame = some {} ∧ t.spi.status = s.statusByte ∧ t.spi.result = 0 ∧
    t.spi.mwErr = false ∧ t.spi.frameErr = false)) ∧
  (∀ (c : Byte) (s : State), s.powered = true → s.flag SPI_CFG.DAISY = false → s.spi.frame = none →
    s.spi.ignored = false → s.hostLink = true → s.mastering = false → s.inChainWindow = false →
    hostCommand c = false → Runs (.nop c) s [.one SPI_STAT, .one SPI_HERR, .one SPI_MW_STAT, .one MGT_LOG_STAT,
    .faults, .reel, .intg, .mgt, .can, .spi, .chn, .drawn] (fun t => t.spi.frame.any (fun f => f.illegal) = true ∧
    t.raised 0x0D02 = true ∧ t.spi.result = 1 ∧ t.fld SPI_HERR.ILLEGAL = min (s.fld SPI_HERR.ILLEGAL + 1) 255 ∧
    t.spi.status = s.statusByte)) ∧
  (∀ (a : BitVec 24) (n : Fin 16) (s : State), s.powered = true → s.flag SPI_CFG.DAISY = false → s.spi.frame = none →
    s.spi.ignored = false → s.hostLink = true → s.mastering = false → s.inChainWindow = false → n = 0 →
    a.toNat % 4 = 0 → Runs (.status a n) s [.one SPI_STAT, .one SPI_HERR, .one SPI_MW_STAT, .one MGT_LOG_STAT,
    .faults, .reel, .intg, .mgt, .can, .spi, .chn, .drawn] (fun t => t.spi.out = [s.frameOpen.spiStat] ∧
    t.spi.status = s.statusByte ∧ t.spi.result = 0 ∧ t.spi.mwErr = false ∧ t.spi.frameErr = false)) ∧
  (∀ (a : BitVec 24) (n : Fin 16) (s : State), s.powered = true → s.flag SPI_CFG.DAISY = false → s.spi.frame = none →
    s.spi.ignored = false → s.hostLink = true → s.mastering = false → s.inChainWindow = false →
    n ≠ 0 ∨ a.toNat % 4 ≠ 0 → Runs (.status a n) s [.one SPI_STAT, .one SPI_HERR, .one SPI_MW_STAT, .one MGT_LOG_STAT,
    .faults, .reel, .intg, .mgt, .can, .spi, .chn, .drawn] (fun t => t.spi.frame.any (fun f => f.illegal) = true ∧
    t.raised 0x0D02 = true ∧ t.spi.result = 1 ∧ t.fld SPI_HERR.ILLEGAL = min (s.fld SPI_HERR.ILLEGAL + 1) 255)) ∧
  (∀ (a : BitVec 24) (n : Fin 16) (take : Nat) (begun : Bool) (ws : List Nat) (ev : List Access) (s : State),
    s.powered = true → s.flag SPI_CFG.DAISY = false → s.spi.frame = none → s.spi.ignored = false → s.hostLink = true →
    s.mastering = false → s.inChainWindow = false → s.holding = false → s.flag SPI_LATE.VALID = false →
    a.toNat % 4 = 0 → n.val < take → (∀ i ≤ n.val, Tbl.get 0 ws i ≤ s.fld SPI_CFG.WMAX) → 0x100000 ≤ a.toNat →
    a.toNat + 4 * n.val < 2 ^ 24 → (∀ i ≤ n.val, (a.toNat + 4 * i < 0x10C800 ∨ 0x10D000 ≤ a.toNat + 4 * i)) →
    (∀ i ≤ n.val, canWord 0x10B100 3 (a.toNat + 4 * i) = none) →
    (∀ i ≤ n.val, canWord 0x10B400 17 (a.toNat + 4 * i) = none) → (∀ i ≤ n.val, a.toNat + 4 * i ≠ CLK_SLATE_LO) →
    (∀ i ≤ n.val, (regRow (a.toNat + 4 * i)).isSome = true) → (∀ i ≤ n.val, s.mcAway (a.toNat + 4 * i) = false) →
    (∀ i ≤ n.val, rsPlace (a.toNat + 4 * i) = none) → (∀ i ≤ n.val, n.val = 0 ∨ a.toNat + 4 * i ≠ GPM_LEVEL) →
    Runs (.read a n take begun ws ev) s Parts.read (fun t => (t.spi.out = (List.range (n.val + 1)).map fun i =>
    (s.frameOpen.shown (a.toNat + 4 * i)).1) ∧ t.spi.late = s.spi.late ∧ t.spi.frame.any (fun f => f.whole) = true ∧
    t.spi.status = s.statusByte ∧ t.spi.result = 0 ∧ t.spi.mwErr = false ∧ t.spi.frameErr = false)) ∧
  (∀ (a : BitVec 24) (n : Fin 16) (take : Nat) (begun : Bool) (ws : List Nat) (s : State), s.powered = true →
    s.flag SPI_CFG.DAISY = false → s.spi.frame = none → s.spi.ignored = false → s.hostLink = true →
    s.mastering = false → s.inChainWindow = false → s.holding = false → s.flag SPI_LATE.VALID = false →
    a.toNat % 4 = 0 → n.val < take → (∀ i ≤ n.val, Tbl.get 0 ws i ≤ s.fld SPI_CFG.WMAX) →
    a.toNat + 4 * n.val < 0x41000 → s.mem.flaws = [] →
    Runs (.read a n take begun ws []) s Parts.read (fun t => (t.spi.out = (List.range (n.val + 1)).map fun i =>
    memWord s.mem.cells (a.toNat + 4 * i)) ∧ t.spi.frame.any (fun f => f.whole) = true ∧ t.spi.status = s.statusByte ∧
    t.spi.result = 0 ∧ t.spi.mwErr = false ∧ t.spi.frameErr = false)) ∧
  (∀ (a : BitVec 24) (h m : Nat) (ws : List Nat) (ev : List Access) (s : State), s.powered = true →
    s.flag SPI_CFG.DAISY = false → s.spi.frame = none → s.spi.ignored = false → s.hostLink = true →
    s.mastering = false → s.inChainWindow = false → s.holding = false → s.flag SPI_LATE.VALID = false →
    Tbl.get 0 ws 0 ≤ s.fld SPI_CFG.WMAX → 0x100000 ≤ a.toNat → a.toNat % 4 = 0 →
    (a.toNat < 0x10C800 ∨ 0x10D000 ≤ a.toNat) → canWord 0x10B100 3 a.toNat = none →
    canWord 0x10B400 17 (a.toNat) = none → a.toNat ≠ CLK_SLATE_LO → (regRow (a.toNat)).isSome = true →
    s.mcAway (a.toNat) = false → rsPlace a.toNat = some (h, 0, m) → groupIx (POS_LT_POS 0) 0x10 8 a.toNat = none →
    Runs (.read a 0 1 false ws ev) s Parts.read (fun t => t.spi.out = [(s.frameOpen.shown a.toNat).1] ∧
    (∀ j < m, Assoc.get t.latched (.host, h + 4 * (j + 1)) = some (s.frameOpen.shown (h + 4 * (j + 1))).1) ∧
    t.spi.status = s.statusByte ∧ t.spi.result = 0 ∧ t.spi.mwErr = false ∧ t.spi.frameErr = false)) ∧
  (∀ (a : BitVec 24) (h j m : Nat) (ws : List Nat) (ev : List Access) (s : State), s.powered = true →
    s.flag SPI_CFG.DAISY = false → s.spi.frame = none → s.spi.ignored = false → s.hostLink = true →
    s.mastering = false → s.inChainWindow = false → s.holding = false → s.flag SPI_LATE.VALID = false →
    Tbl.get 0 ws 0 ≤ s.fld SPI_CFG.WMAX → 0x100000 ≤ a.toNat → a.toNat % 4 = 0 →
    (a.toNat < 0x10C800 ∨ 0x10D000 ≤ a.toNat) → canWord 0x10B100 3 a.toNat = none →
    canWord 0x10B400 17 (a.toNat) = none → a.toNat ≠ CLK_SLATE_LO → (regRow (a.toNat)).isSome = true →
    s.mcAway (a.toNat) = false → rsPlace a.toNat = some (h, j, m) → 0 < j →
    Runs (.read a 0 1 false ws ev) s Parts.read (fun t => t.spi.out = [(Assoc.get s.latched (.host,
    a.toNat)).getD 0] ∧ t.latched = s.latched ∧ t.spi.status = s.statusByte ∧ t.spi.result = 0 ∧ t.spi.mwErr = false ∧
    t.spi.frameErr = false)) ∧
  (∀ (a : BitVec 24) (n : Fin 16) (take : Nat) (begun : Bool) (ws : List Nat) (ev : List Access) (s : State),
    s.powered = true → s.flag SPI_CFG.DAISY = false → s.spi.frame = none → s.spi.ignored = false → s.hostLink = true →
    s.mastering = false → s.inChainWindow = false → a.toNat % 4 ≠ 0 →
    Runs (.read a n take begun ws ev) s Parts.read (fun t => t.spi.frame.any (fun f => f.illegal) = true ∧
    t.raised 0x0D02 = true ∧ t.spi.result = 1 ∧ t.fld SPI_HERR.ILLEGAL = min (s.fld SPI_HERR.ILLEGAL + 1) 255 ∧
    t.spi.out = [])) ∧
  (∀ (a : BitVec 24) (take : Nat) (begun : Bool) (ws : List Nat) (ev : List Access) (s : State), s.powered = true →
    s.flag SPI_CFG.DAISY = false → s.spi.frame = none → s.spi.ignored = false → s.hostLink = true →
    s.mastering = false → s.inChainWindow = false → a.toNat % 4 = 0 → 0 < take → s.flag SPI_LATE.VALID = false →
    s.fld SPI_CFG.WMAX < Tbl.get 0 ws 0 → Runs (.read a 0 take begun ws ev) s Parts.read (fun t => t.spi.out = [0] ∧
    t.raised 0x0D08 = true ∧ t.spi.result = 3 ∧
    t.spi.late = s.spi.late ++ [{ addr := a.toNat, acc := Tbl.get {} ev 0 }])) ∧
  (∀ (a : BitVec 24) (ws : List Nat) (ev : List Access) (s : State), s.powered = true → s.flag SPI_CFG.DAISY = false →
    s.spi.frame = none → s.spi.ignored = false → s.hostLink = true → s.mastering = false → s.inChainWindow = false →
    a.toNat % 4 = 0 → s.flag SPI_LATE.VALID = true → s.fld SPI_LATE.ADDR = a.toNat →
    Runs (.read a 0 1 false ws ev) s Parts.read (fun t => t.spi.out = [s.spi.lateWord] ∧
    t.flag SPI_LATE.VALID = false ∧ t.spi.late = s.spi.late)) ∧
  (∀ (a : BitVec 24) (n : Fin 16) (take : Nat) (begun : Bool) (ws : List Nat) (ev : List Access) (s : State),
    s.powered = true → s.flag SPI_CFG.DAISY = false → s.spi.frame = none → s.spi.ignored = false → s.hostLink = true →
    s.mastering = false → s.inChainWindow = false → s.holding = false → s.flag SPI_LATE.VALID = false → n.val < take →
    (∀ i ≤ n.val, Tbl.get 0 ws i ≤ s.fld SPI_CFG.WMAX) → 0x100000 ≤ a.toNat → a.toNat % 4 = 0 →
    (a.toNat < 0x10C800 ∨ 0x10D000 ≤ a.toNat) → canWord 0x10B100 3 a.toNat = none →
    canWord 0x10B400 17 (a.toNat) = none → a.toNat ≠ CLK_SLATE_LO → (regRow (a.toNat)).isSome = true →
    s.mcAway (a.toNat) = false → rsPlace a.toNat = none → n.val = 0 ∨ a.toNat ≠ GPM_LEVEL →
    Runs (.readFix a n take begun ws ev) s Parts.read (fun t => t.spi.out =
    List.replicate (n.val + 1) (s.frameOpen.shown a.toNat).1 ∧ t.spi.late = s.spi.late ∧ t.spi.status = s.statusByte ∧
    t.spi.result = 0 ∧ t.spi.mwErr = false ∧ t.spi.frameErr = false)) ∧
  (∀ (a : BitVec 24) (n : Fin 16) (take : Nat) (begun : Bool) (ws : List Nat) (ev : List Access) (s : State),
    s.powered = true → s.flag SPI_CFG.DAISY = false → s.spi.frame = none → s.spi.ignored = false → s.hostLink = true →
    s.mastering = false → s.inChainWindow = false → a.toNat % 4 ≠ 0 →
    Runs (.readFix a n take begun ws ev) s Parts.read (fun t => t.spi.frame.any (fun f => f.illegal) = true ∧
    t.raised 0x0D02 = true ∧ t.spi.result = 1 ∧ t.fld SPI_HERR.ILLEGAL = min (s.fld SPI_HERR.ILLEGAL + 1) 255 ∧
    t.spi.out = [])) ∧
  (∀ (v : Word) (ev : List Access) (s : State), s.powered = true → s.flag SPI_CFG.DAISY = false → s.spi.frame = none →
    s.spi.ignored = false → s.hostLink = true → s.mastering = false → s.inChainWindow = false → s.holding = false →
    Runs (.write 0x10B014 0 [v] ev) s Parts.bus (fun t => t.fld CAN_IRQ_EN.EN = v.toNat % 2 ^ 13 ∧
    t.spi.frame.any (fun f => f.whole) = true ∧ (s.flag SPI_LATE.VALID = true → t.raised 0x0D06 = true ∧
    t.flag SPI_LATE.VALID = false) ∧ t.spi.status = s.statusByte ∧ t.spi.result = 0 ∧ t.spi.mwErr = false ∧
    t.spi.frameErr = false)) ∧
  (∀ (a : BitVec 24) (n : Fin 16) (l : List Word) (ev : List Access) (s : State), s.powered = true →
    s.flag SPI_CFG.DAISY = false → s.spi.frame = none → s.spi.ignored = false → s.hostLink = true →
    s.mastering = false → s.inChainWindow = false → s.holding = false → a.toNat % 4 = 0 → n.val < l.length →
    a.toNat + 4 * n.val < 0x41000 → Runs (.write a n l ev) s Parts.bus (fun t => (∀ i ≤ n.val,
    memWord t.mem.cells (a.toNat + 4 * i) = Tbl.get 0 l i) ∧ (∀ x : Nat, (x < a.toNat ∨ a.toNat + 4 * n.val + 4 ≤ x) →
    t.byteAt x = s.byteAt x) ∧ t.spi.status = s.statusByte ∧ t.spi.result = 0 ∧ t.spi.mwErr = false ∧
    t.spi.frameErr = false)) ∧
  (∀ (a : BitVec 24) (v : Word) (ev : List Access) (x : Nat) (r : RegRow) (s : State), s.powered = true →
    s.flag SPI_CFG.DAISY = false → s.spi.frame = none → s.spi.ignored = false → s.hostLink = true →
    s.mastering = false → s.inChainWindow = false → s.holding = false → s.flag SPI_LATE.VALID = false → x = a.toNat →
    0x100000 ≤ x → x % 4 = 0 → s.frameOpen.absent x = false → s.frameOpen.actTop .host x v = none →
    s.frameOpen.actMotion .host x v = none → s.frameOpen.actAnalog .host x v (Tbl.get {} ev 0) = none →
    s.frameOpen.actLinks .host x v (Tbl.get {} ev 0) = none → regRow x = some r →
    s.frameOpen.illegal .host x v = false → s.frameOpen.clearHeld x v = false →
    Runs (.write a 0 [v] ev) s Parts.bus (fun t => t.word x =
    ((s.word x &&& ~~~BitVec.ofNat 32 (r.rw + r.cmt)) ||| (v &&& BitVec.ofNat 32 (r.rw + r.cmt))) &&& ~~~(v &&&
    BitVec.ofNat 32 r.w1c) ∧ (t.waiting = if r.cut =
    0 then s.waiting else Assoc.put s.waiting x (v &&& BitVec.ofNat 32 r.cut)) ∧ (∀ y : Nat, y ≠ x →
    t.word y = s.word y) ∧ t.spi.status = s.statusByte ∧ t.spi.result = 0 ∧ t.spi.mwErr = false ∧
    t.spi.frameErr = false)) ∧
  (∀ (a : BitVec 24) (n : Fin 16) (l : List Word) (ev : List Access) (s : State), s.powered = true →
    s.flag SPI_CFG.DAISY = false → s.spi.frame = none → s.spi.ignored = false → s.hostLink = true →
    s.mastering = false → s.inChainWindow = false → s.holding = false → s.flag SPI_LATE.VALID = false →
    a.toNat % 4 = 0 → n.val < l.length → Runs (.write a n l ev) s Parts.bus (fun t => (t =
    State.settle ((List.range (n.val + 1)).foldl (fun u i =>
    u.busWrite .host ((a.toNat + 4 * i) % 2 ^ 24) (Tbl.get 0 l i) (Tbl.get {} ev i)) (s.frameOpen.modFrame fun f =>
    { f with kind := .write, words := n.val + 1, whole := true }))))) ∧
  (∀ (a : BitVec 24) (n : Fin 16) (l : List Word) (ev : List Access) (s : State), s.powered = true →
    s.flag SPI_CFG.DAISY = false → s.spi.frame = none → s.spi.ignored = false → s.hostLink = true →
    s.mastering = false → s.inChainWindow = false → a.toNat % 4 ≠ 0 →
    Runs (.write a n l ev) s Parts.bus (fun t => t.spi.frame.any (fun f => f.illegal) = true ∧
    t.raised 0x0D02 = true ∧ t.spi.result = 1 ∧ t.fld SPI_HERR.ILLEGAL = min (s.fld SPI_HERR.ILLEGAL + 1) 255)) ∧
  (∀ (v w : Word) (ev : List Access) (s : State), s.powered = true → s.flag SPI_CFG.DAISY = false →
    s.spi.frame = none → s.spi.ignored = false → s.hostLink = true → s.mastering = false → s.inChainWindow = false →
    s.holding = false → Runs (.writeFix 0x10B014 1 [v, w] ev) s Parts.bus (fun t => t.fld CAN_IRQ_EN.EN =
    w.toNat % 2 ^ 13 ∧ t.spi.status = s.statusByte ∧ t.spi.result = 0 ∧ t.spi.mwErr = false ∧ t.spi.frameErr = false)) ∧
  (∀ (a : BitVec 24) (n : Fin 16) (l : List Word) (ev : List Access) (s : State), s.powered = true →
    s.flag SPI_CFG.DAISY = false → s.spi.frame = none → s.spi.ignored = false → s.hostLink = true →
    s.mastering = false → s.inChainWindow = false → s.holding = false → a.toNat % 4 = 0 → n.val < l.length →
    a.toNat < 0x41000 → Runs (.writeFix a n l ev) s Parts.bus (fun t => memWord t.mem.cells a.toNat =
    Tbl.get 0 l n.val ∧ (∀ x : Nat, (x < a.toNat ∨ a.toNat + 4 ≤ x) → t.byteAt x = s.byteAt x) ∧
    t.spi.status = s.statusByte ∧ t.spi.result = 0 ∧ t.spi.mwErr = false ∧ t.spi.frameErr = false)) ∧
  (∀ (a : BitVec 24) (v : Word) (ev : List Access) (x : Nat) (r : RegRow) (s : State), s.powered = true →
    s.flag SPI_CFG.DAISY = false → s.spi.frame = none → s.spi.ignored = false → s.hostLink = true →
    s.mastering = false → s.inChainWindow = false → s.holding = false → s.flag SPI_LATE.VALID = false → x = a.toNat →
    0x100000 ≤ x → x % 4 = 0 → s.frameOpen.absent x = false → s.frameOpen.actTop .host x v = none →
    s.frameOpen.actMotion .host x v = none → s.frameOpen.actAnalog .host x v (Tbl.get {} ev 0) = none →
    s.frameOpen.actLinks .host x v (Tbl.get {} ev 0) = none → regRow x = some r →
    s.frameOpen.illegal .host x v = false → s.frameOpen.clearHeld x v = false →
    Runs (.writeFix a 0 [v] ev) s Parts.bus (fun t => t.word x =
    ((s.word x &&& ~~~BitVec.ofNat 32 (r.rw + r.cmt)) ||| (v &&& BitVec.ofNat 32 (r.rw + r.cmt))) &&& ~~~(v &&&
    BitVec.ofNat 32 r.w1c) ∧ (t.waiting = if r.cut =
    0 then s.waiting else Assoc.put s.waiting x (v &&& BitVec.ofNat 32 r.cut)) ∧ (∀ y : Nat, y ≠ x →
    t.word y = s.word y) ∧ t.spi.status = s.statusByte ∧ t.spi.result = 0 ∧ t.spi.mwErr = false ∧
    t.spi.frameErr = false)) ∧
  (∀ (a : BitVec 24) (n : Fin 16) (l : List Word) (ev : List Access) (s : State), s.powered = true →
    s.flag SPI_CFG.DAISY = false → s.spi.frame = none → s.spi.ignored = false → s.hostLink = true →
    s.mastering = false → s.inChainWindow = false → s.holding = false → s.flag SPI_LATE.VALID = false →
    a.toNat % 4 = 0 → n.val < l.length → Runs (.writeFix a n l ev) s Parts.bus (fun t => (t =
    State.settle ((List.range (n.val + 1)).foldl (fun u i =>
    u.busWrite .host (a.toNat) (Tbl.get 0 l i) (Tbl.get {} ev i)) (s.frameOpen.modFrame fun f =>
    { f with kind := .write, words := n.val + 1, whole := true }))))) ∧
  (∀ (a : BitVec 24) (n : Fin 16) (l : List Word) (ev : List Access) (s : State), s.powered = true →
    s.flag SPI_CFG.DAISY = false → s.spi.frame = none → s.spi.ignored = false → s.hostLink = true →
    s.mastering = false → s.inChainWindow = false → a.toNat % 4 ≠ 0 →
    Runs (.writeFix a n l ev) s Parts.bus (fun t => t.spi.frame.any (fun f => f.illegal) = true ∧
    t.raised 0x0D02 = true ∧ t.spi.result = 1 ∧ t.fld SPI_HERR.ILLEGAL = min (s.fld SPI_HERR.ILLEGAL + 1) 255))

/-- A frame of its exact length, or an illegal one (log entry 26, the model's choice), counts as completed, another is
discarded: FRAME_ERR is set and raised and no frame is open. A late word goes into the late buffer with its address. A
frame while the port masters is ignored and ends the mastering: in the chain window the window, in a transaction the
transaction with ERR 3. In daisy mode the answer is shifted out first, and only a frame of whole 64-bit units makes its
access. A read of the flash window answers the word of flash, or is late while MC is stopped (log entry 28, the model's
choice). That a discarded daisy frame keeps the response to repeat is log entry 30. BUSY_N is released while no frame is
open. -/
def Obligations.HostFramesEnd : Prop :=
  (∀ (k : FrameClock) (f : HostFrame) (s : State), s.powered = true → s.spi.ignored = false → s.spi.frame = some f →
    f.wait = [] → f.illegal = true ∨ (k.cycles = s.exactLength f ∧ f.whole = true) →
    Runs (.hostFrameEnd k) s [.one SPI_STAT, .one SPI_HCNT, .one SPI_HERR, .one SPI_MW_STAT, .one MGT_LOG_STAT,
    .faults, .reel, .intg, .mgt, .can, .spi] (fun t => t.spi.frame = none ∧
    t.fld SPI_HCNT.FRAMES = min (s.fld SPI_HCNT.FRAMES + 1) 0xFFFF ∧
    t.flag SPI_STAT.FRAME_ERR = s.flag SPI_STAT.FRAME_ERR)) ∧
  (∀ (k : FrameClock) (f : HostFrame) (s : State), s.powered = true → s.spi.ignored = false → s.spi.frame = some f →
    f.illegal = false → f.wait = [] → k.cycles ≠ s.exactLength f ∨ f.whole = false →
    Runs (.hostFrameEnd k) s [.one SPI_STAT, .one SPI_HCNT, .one SPI_HERR, .one SPI_MW_STAT, .one MGT_LOG_STAT,
    .faults, .reel, .intg, .mgt, .can, .spi] (fun t => t.spi.frame = none ∧ t.flag SPI_STAT.FRAME_ERR = true ∧
    t.spi.frameErr = true ∧ t.raised 0x0D01 = true ∧
    t.fld SPI_HCNT.DISCARDS = min (s.fld SPI_HCNT.DISCARDS + 1) 0xFFFF ∧ t.spi.late = s.spi.late)) ∧
  (∀ (k : FrameClock) (f : HostFrame) (q : Asked) (w : Nat) (r : List (Asked × Nat)) (s : State), s.powered = true →
    s.spi.ignored = false → s.spi.frame = some f → f.illegal = false → f.wait = (q, w) :: r →
    k.waited < s.fld SPI_CFG.WMAX → Runs (.hostFrameEnd k) s [.one SPI_STAT, .one SPI_HCNT, .one SPI_HERR,
    .one SPI_MW_STAT, .one MGT_LOG_STAT, .faults, .reel, .intg, .mgt, .can, .spi] (fun t => t.spi.frame = none ∧
    t.flag SPI_STAT.FRAME_ERR = true ∧ t.spi.frameErr = true ∧ t.raised 0x0D01 = true ∧
    t.fld SPI_HCNT.DISCARDS = min (s.fld SPI_HCNT.DISCARDS + 1) 0xFFFF ∧ t.spi.late = s.spi.late ++ [q])) ∧
  (∀ (k : FrameClock) (f : HostFrame) (q : Asked) (w : Nat) (r : List (Asked × Nat)) (s : State), s.powered = true →
    s.spi.ignored = false → s.spi.frame = some f → f.wait = (q, w) :: r → s.fld SPI_CFG.WMAX ≤ k.waited →
    Runs (.hostFrameEnd k) s [.one SPI_STAT, .one SPI_HCNT, .one SPI_HERR, .one SPI_MW_STAT, .one MGT_LOG_STAT,
    .faults, .reel, .intg, .mgt, .can, .spi] (fun t => t.spi.frame = none ∧ t.spi.late = s.spi.late ++ [q] ∧
    t.raised 0x0D08 = true ∧ t.fld SPI_HERR.LATE = min (s.fld SPI_HERR.LATE + 1) (2 ^ SPI_HERR.LATE.w - 1))) ∧
  (∀ (k : FrameClock) (s : State), s.powered = true → s.spi.ignored = true →
    Runs (.hostFrameEnd k) s [.one SPI_STAT, .one SPI_HCNT, .one SPI_HERR, .one SPI_MW_STAT, .one MGT_LOG_STAT,
    .faults, .reel, .intg, .mgt, .can, .spi] (fun t => t.spi.ignored = false ∧
    t.fld SPI_HCNT.FRAMES = s.fld SPI_HCNT.FRAMES ∧ t.fld SPI_HCNT.DISCARDS = s.fld SPI_HCNT.DISCARDS)) ∧
  (∀ (a : Nat) (x : Access) (w : Word) (rest : List Asked) (s : State), s.powered = true →
    s.flag SPI_CFG.DAISY = false → s.spi.late = ⟨a, x, some w⟩ :: rest → a < 2 ^ 24 →
    Runs .lateArrival s Parts.lateArrival (fun t => t.spi.late = rest ∧ t.spi.lateWord = w ∧
    t.flag SPI_LATE.VALID = true ∧ t.fld SPI_LATE.ADDR = a ∧ (s.flag SPI_LATE.VALID = true → t.raised 0x0D06 = true ∧
    t.fld SPI_HERR.LOST = min (s.fld SPI_HERR.LOST + 1) 255))) ∧
  (∀ (x : Access) (rest : List Asked) (s : State), s.powered = true → s.flag SPI_CFG.DAISY = false →
    s.spi.late = ⟨CAN_NBT, x, none⟩ :: rest → s.holding = false →
    Runs .lateArrival s Parts.lateArrival (fun t => t.spi.late = rest ∧ t.spi.lateWord = s.word CAN_NBT ∧
    t.fld SPI_LATE.ADDR = CAN_NBT)) ∧
  (∀ (o : BitVec 19) (a : Nat) (s : State), s.hostOpen → s.mgt.stopped = false →
    a = 0x80000 * s.fld MGT_FWIN.PAGE + o.toNat / 4 * 4 → s.regionBusy a = false →
    Assoc.get s.flashFlaws (a / 8 * 8) = none →
    Runs (.flashWindowRead o .clean) s [.one SPI_HERR, .one MGT_LOG_STAT, .faults, .reel, .intg, .mgt, .can, .spi,
    .flashFlaws, .drawn] (fun t => t.spi.out = [bytesWord (s.flashBytes a 4)] ∧ t.flash = s.flash)) ∧
  (∀ (o : BitVec 19) (ecc : Ecc) (s : State), s.hostOpen → s.mgt.stopped = true →
    Runs (.flashWindowRead o ecc) s [.one SPI_HERR, .one MGT_LOG_STAT, .faults, .reel, .intg, .mgt, .can, .spi,
    .flashFlaws, .drawn] (fun t => t.raised 0x0D08 = true ∧ t.spi.result = max s.spi.result 3 ∧
    t.spi.late.length = s.spi.late.length + 1)) ∧
  (∀ (s : State), s.powered = true → s.spi.frame = none → s.spi.ignored = false →
    Runs .busyNRelease s [.intg, .spi] (fun t => t.spi.busyN = false)) ∧
  (∀ (n v : Nat) (bits : List Bool) (late : Bool) (x : Access) (p : Word) (s : State), s.powered = true →
    bits = msbFirst n v → s.flag SPI_CFG.DAISY = true → s.spi.frame = none → s.spi.ignored = false →
    s.hostLink = true → s.mastering = false → s.inChainWindow = false → s.spi.prevWord = some p →
    bits = [] ∨ bits.length % 64 ≠ 0 → Runs (.daisyFrame n v late x) s Parts.daisyFrame (fun t => t.spi.daisy =
    ((msbFirst 8 s.statusByte.toNat ++ msbFirst 24 s.spi.prevAddr.toNat ++ msbFirst 32 p.toNat) ++
    bits).take bits.length ∧ t.raised 0x0D01 = true ∧ t.spi.prevAddr = s.spi.prevAddr ∧ t.spi.prevWord = some p ∧
    t.spi.frame = none)) ∧
  (∀ (n v : Nat) (bits : List Bool) (w : DWord) (late : Bool) (x : Access) (p : Word) (s : State), s.powered = true →
    bits = msbFirst n v → s.flag SPI_CFG.DAISY = true → s.spi.frame = none → s.spi.ignored = false →
    s.hostLink = true → s.mastering = false → s.inChainWindow = false → s.spi.prevWord = some p → bits ≠ [] →
    bits.length % 64 = 0 → w = BitVec.ofNat 64 v → w.extractLsb' 56 8 = 0x30#8 → w.extractLsb' 32 24 = 0x10B020#24 →
    s.holding = false → late = false → s.flag SPI_LATE.VALID = false →
    Runs (.daisyFrame n v late x) s Parts.daisyFrame (fun t => t.spi.daisy = ((msbFirst 8 s.statusByte.toNat ++
    msbFirst 24 s.spi.prevAddr.toNat ++ msbFirst 32 p.toNat) ++ bits).take bits.length ∧
    t.spi.prevAddr = 0x10B020#24 ∧ t.spi.prevWord = some (s.word CAN_NBT) ∧
    t.fld SPI_HCNT.FRAMES = min (s.fld SPI_HCNT.FRAMES + 1) 0xFFFF)) ∧
  (∀ (s : State), s.powered = true → s.mastering = true → s.spi.job = none →
    Runs .mmFault s [.one SPI_STAT, .one SPI_MW_STAT, .one MGT_LOG_STAT, .faults, .reel, .intg, .mgt, .can, .spi,
    .chn, .drawn] (fun t => t.chn.windowEnd = none ∧ t.flag SPI_STAT.MM_FAULT = true ∧ t.raised 0x0D03 = true ∧
    t.spi.frameErr = true ∧ t.spi.ignored = true)) ∧
  (∀ (a : Nat) (s : State), s.powered = true → s.mastering = true → s.spi.job = some .writes →
    s.spi.polling = some a → a < 2 ^ 24 → s.mayMaster = true →
    Runs .mmFault s [.one SPI_STAT, .one SPI_MW_STAT, .one MGT_LOG_STAT, .faults, .reel, .intg, .mgt, .can, .spi,
    .chn, .drawn] (fun t => t.flag SPI_STAT.MM_FAULT = true ∧ t.raised 0x0D03 = true ∧ t.spi.frameErr = true ∧
    t.spi.ignored = true ∧ t.spi.job = none ∧ t.fld SPI_MW_STAT.ERR = 3 ∧ t.fld SPI_MW_STAT.FAIL_ADDR = a))

/-- A read of the line in the buffer answers it, and another makes a transaction and is late. A write joins the write
buffer and forgets the line. A run goes out with its commands and ends the transaction, where it is not polled. A poll
ends at not busy, at an error or at the time-out. While a transaction runs every access is refused. -/
def Obligations.MemoryWindow : Prop :=
  (∀ (o : Fin 512) (l : List Word) (s : State), s.hostOpen → s.mwFree = true →
    s.spi.line = some (s.mwExt o / 32 * 32, l) →
    Runs (.mwApertureRead o) s [.one SPI_HERR, .one SPI_MW_STAT, .one MGT_LOG_STAT, .faults, .reel, .intg, .mgt, .can,
    .spi] (fun t => t.spi.out = [Tbl.get 0 l (s.mwExt o % 32 / 4)] ∧ t.spi.job = s.spi.job ∧
    t.spi.result = s.spi.result ∧ t.flag SPI_MW_STAT.BUSY = false)) ∧
  (∀ (o : Fin 512) (s : State), s.hostOpen → s.mwFree = true → s.spi.line = none →
    Runs (.mwApertureRead o) s [.one SPI_HERR, .one SPI_MW_STAT, .one MGT_LOG_STAT, .faults, .reel, .intg, .mgt, .can,
    .spi] (fun t => t.spi.job = some (.line (s.mwExt o) (0x10C800 + 4 * o.val) false) ∧
    t.flag SPI_MW_STAT.BUSY = true ∧ t.raised 0x0D08 = true ∧ t.spi.result = max s.spi.result 3)) ∧
  (∀ (o : Fin 512) (s : State), s.hostOpen → s.mwFree = false →
    Runs (.mwApertureRead o) s [.one SPI_HERR, .one SPI_MW_STAT, .one MGT_LOG_STAT, .faults, .reel, .intg, .mgt, .can,
    .spi] (fun t => t.spi.job = s.spi.job ∧ t.spi.result = max s.spi.result 1)) ∧
  (∀ (d : BitVec 256) (ext host : Nat) (s : State), s.powered = true → s.spi.job = some (.line ext host false) →
    s.spi.writes = [] → s.mayMaster = true → host < 2 ^ 24 → ext < 2 ^ 24 →
    Runs (.mwLineRead d) s [.one SPI_LATE, .one SPI_HERR, .one SPI_MW_STAT, .one MGT_LOG_STAT, .faults, .reel, .intg,
    .mgt, .can, .spi] (fun t => (t.spi.line = some (ext / 32 * 32, (List.range 8).map fun i =>
    d.extractLsb' (32 * i) 32)) ∧ t.flag SPI_MW_STAT.LINE_VALID = true ∧
    t.spi.lateWord = d.extractLsb' (32 * (ext % 32 / 4)) 32 ∧ t.fld SPI_LATE.ADDR = host ∧
    t.flag SPI_LATE.VALID = true ∧ t.spi.job = none ∧ t.flag SPI_MW_STAT.BUSY = false ∧
    t.flag SPI_MW_STAT.DONE = true ∧ t.fld SPI_MW_STAT.ERR = 0)) ∧
  (∀ (o : Fin 512) (v : Word) (s : State), s.hostOpen → s.mwFree = true → s.spi.frame = none → s.spi.job = none →
    Runs (.mwApertureWrite o v) s [.one SPI_MW_STAT, .intg, .spi] (fun t => Assoc.get t.spi.writes (s.mwExt o) =
    some v ∧ t.spi.job = some .writes ∧ t.flag SPI_MW_STAT.BUSY = true ∧ t.spi.line = none ∧
    t.flag SPI_MW_STAT.LINE_VALID = false)) ∧
  (∀ (o : Fin 512) (v : Word) (s : State), s.hostOpen → s.mwFree = false →
    Runs (.mwApertureWrite o v) s [.one SPI_MW_STAT, .intg, .spi] (fun t => t.spi.writes = s.spi.writes ∧
    t.spi.result = max s.spi.result 1)) ∧
  (∀ (v : Word) (s : State), s.hostOpen → s.mwFree = true →
    Runs (.mwBaseWrite v) s [.one SPI_MW_BASE, .one SPI_MW_STAT, .intg, .spi] (fun t => t.word SPI_MW_BASE =
    v &&& rwMask SPI_MW_BASE ∧ t.spi.line = none)) ∧
  (∀ (v : Word) (s : State), s.hostOpen → s.mwFree = false →
    Runs (.mwBaseWrite v) s [.one SPI_MW_BASE, .one SPI_MW_STAT, .intg, .spi] (fun t => t.word SPI_MW_BASE =
    s.word SPI_MW_BASE ∧ t.spi.result = max s.spi.result 1)) ∧
  (∀ (v : Word) (s : State), s.hostOpen → s.mwFree = true → s.mayMaster = true → s.spi.writes = [] →
    v.getLsbD 10 = false → v.getLsbD 9 = false → v.getLsbD 8 = true →
    Runs (.mwRawGo v) s [.one SPI_MW_STAT, .one SPI_MW_RAW, .intg, .spi, .drawn] (fun t => t.spi.sent =
    [s.mwCmd (v.toNat % 256) (some (s.fld SPI_MW_RAWADDR.ADDR)) false 0 []] ∧ t.spi.job = none ∧
    t.flag SPI_MW_STAT.DONE = true ∧ t.flag SPI_MW_STAT.BUSY = false ∧ t.fld SPI_MW_STAT.ERR = 0)) ∧
  (∀ (v : Word) (s : State), s.hostOpen → s.mwFree = false →
    Runs (.mwRawGo v) s [.one SPI_MW_STAT, .one SPI_MW_RAW, .intg, .spi, .drawn] (fun t => t.spi.sent = s.spi.sent ∧
    t.word SPI_MW_RAW = s.word SPI_MW_RAW ∧ t.spi.result = max s.spi.result 1)) ∧
  (∀ (a : Nat) (v : Word) (s : State), s.powered = true → s.mayMaster = true → s.spi.polling = none →
    s.spi.job = some .writes → s.spi.writes = [(a, v)] → s.flag SPI_MW_CFG.POLL = false → s.fld SPI_MW_OPS.WREN ≠ 0 →
    Runs .mwWriteOut s [.one SPI_MW_STAT, .intg, .spi, .drawn] (fun t => t.spi.sent =
    [s.mwCmd (s.fld SPI_MW_OPS.WREN) none false 0 [], s.mwCmd (s.fld SPI_MW_OPS.WR) (some a) false 0 [v]] ∧
    t.spi.job = none ∧ t.spi.writes = [] ∧ t.flag SPI_MW_STAT.DONE = true ∧ t.flag SPI_MW_STAT.BUSY = false)) ∧
  (∀ (a : Nat) (v w : Word) (s : State), s.powered = true → s.mayMaster = true → s.spi.polling = none →
    s.spi.job = some .writes → s.spi.writes = [(a + 4, w), (a, v)] →
    (a + 4) / 2 ^ (s.fld SPI_MW_CFG.PAGE + 5) = a / 2 ^ (s.fld SPI_MW_CFG.PAGE + 5) → s.flag SPI_MW_CFG.SELW = false →
    s.flag SPI_MW_CFG.POLL = true → s.fld SPI_MW_OPS.WREN = 0 →
    Runs .mwWriteOut s [.one SPI_MW_STAT, .intg, .spi, .drawn] (fun t => t.spi.sent =
    [s.mwCmd (s.fld SPI_MW_OPS.WR) (some a) false 0 [v, w]] ∧ t.spi.polling = some a ∧ t.spi.writes = [] ∧
    t.spi.job = some .writes)) ∧
  (∀ (st : Byte) (a : Nat) (s : State), s.powered = true → s.mayMaster = true → s.spi.polling = some a →
    st.getLsbD (s.fld SPI_MW_CFG.BUSY_BIT) ≠ s.flag SPI_MW_CFG.BUSY_POL →
    Runs (.mwPoll st) s [.one SPI_MW_STAT, .one MGT_LOG_STAT, .faults, .reel, .intg, .mgt, .can, .spi] (fun t =>
    t.spi.polling = some a ∧ t.spi.job = s.spi.job ∧ t.word SPI_MW_STAT = s.word SPI_MW_STAT)) ∧
  (∀ (st : Byte) (a : Nat) (s : State), s.powered = true → s.mayMaster = true → s.spi.polling = some a → a < 2 ^ 24 →
    s.spi.job = some .writes ∨ s.spi.writes = [] →
    st.getLsbD (s.fld SPI_MW_CFG.BUSY_BIT) = s.flag SPI_MW_CFG.BUSY_POL → s.flag SPI_MW_CFG.ERR_EN = true →
    st.getLsbD (s.fld SPI_MW_CFG.ERR_BIT) = true →
    Runs (.mwPoll st) s [.one SPI_MW_STAT, .one MGT_LOG_STAT, .faults, .reel, .intg, .mgt, .can, .spi] (fun t =>
    t.spi.polling = none ∧ t.spi.job = none ∧ t.spi.writes = [] ∧ t.fld SPI_MW_STAT.ERR = 2 ∧
    t.fld SPI_MW_STAT.FAIL_ADDR = a ∧ t.raised 0x0D05 = true ∧ t.spi.mwErr = true)) ∧
  (∀ (st : Byte) (a : Nat) (s : State), s.powered = true → s.mayMaster = true → s.spi.polling = some a →
    st.getLsbD (s.fld SPI_MW_CFG.BUSY_BIT) = s.flag SPI_MW_CFG.BUSY_POL → s.flag SPI_MW_CFG.ERR_EN = false →
    s.spi.writes = [] → Runs (.mwPoll st) s [.one SPI_MW_STAT, .one MGT_LOG_STAT, .faults, .reel, .intg, .mgt, .can,
    .spi] (fun t => t.spi.polling = none ∧ t.spi.job = none ∧ t.fld SPI_MW_STAT.ERR = 0 ∧
    t.flag SPI_MW_STAT.DONE = true ∧ t.flag SPI_MW_STAT.BUSY = false)) ∧
  (∀ (s : State) (op : Nat) (a : Option Nat) (r : Bool) (d : Nat) (l : List Word), (s.mwCmd op a r d l).sel =
    (if s.flag SPI_MW_CFG.SEL then 2 else 1) ∧ (s.mwCmd op a r d l).idle = s.flag SPI_MW_CFG.CPOL ∧
    (s.mwCmd op a r d l).op = op ∧ (s.mwCmd op a r d l).addr = a ∧ (s.mwCmd op a r d l).data = l ∧
    (s.mwCmd op a r d l).dummy = d ∧ (s.mwCmd op a r d l).opLane = laneOf (s.fld SPI_MW_FMT.CMD_LANE) ∧
    (s.mwCmd op a r d l).addrLane = laneOf (s.fld SPI_MW_FMT.ADDR_LANE) ∧
    (s.mwCmd op a r d l).dataLane = laneOf (if r then s.fld SPI_MW_FMT.RD_LANE else s.fld SPI_MW_FMT.WR_LANE)) ∧
  (∀ (a : Nat) (s : State), s.powered = true → s.spi.polling = some a → a < 2 ^ 24 →
    s.spi.job = some .writes ∨ s.spi.writes = [] →
    Runs .mwTimeout s [.one SPI_MW_STAT, .one MGT_LOG_STAT, .faults, .reel, .intg, .mgt, .can, .spi] (fun t =>
    t.spi.polling = none ∧ t.spi.job = none ∧ t.fld SPI_MW_STAT.ERR = 1 ∧ t.fld SPI_MW_STAT.FAIL_ADDR = a ∧
    t.raised 0x0D04 = true ∧ t.spi.mwErr = true))

/-- The master claps 128 ticks before its cut. A clap that a locked slave recognises within ADJ places the next cut at S
+ 128 - DLY, and one beyond it at ADJ from the prediction, with UNLOCK. Eight claps within 2 ticks lock. A miss leads to
HOLDOVER and CLAP_HOLD frames of it to LOST. -/
def Obligations.ChainClaps : Prop :=
  (∀ (s : State), s.powered = true → s.clk.cutsOn = true → s.sys.cascM = true → s.flag CHN_CTRL.EN = true →
    s.vioOk = true → Runs .clap s [.clk, .intg, .chn] (fun t => t.chn.clapAt = some t.clk.slate ∧
    t.clk.slate = (s.advanceTo (s.clk.nextCut - 128)).clk.slate)) ∧
  (∀ (cut : Slate) (e : Int) (s : State), s.powered = true → s.clk.cutsOn = true → s.sys.cascM = false →
    s.vioOk = true → s.clk.phase = .frame → s.chn.clapped = false →
    cut = s.clk.slate + 128 - BitVec.ofNat 48 (s.fld CHN_CFG.DLY) → e = (cut - s.chPredicted).toInt →
    s.chState = chLocked → e.natAbs ≤ s.fld CHN_CFG.ADJ →
    Runs .clapEdge s [.one INT_DEG_CAUSE, .one MGT_LOG_STAT, .one CHN_STAT, .one CHN_PHASE, .faults, .waiting, .clk,
    .reel, .intg, .mgt, .can, .chn, .drawn] (fun t => t.clk.nextCut = cut ∧ t.chState = chLocked ∧
    t.chn.clapped = true)) ∧
  (∀ (cut : Slate) (e : Int) (s : State), s.powered = true → s.clk.cutsOn = true → s.sys.cascM = false →
    s.vioOk = true → s.clk.phase = .frame → s.chn.clapped = false →
    cut = s.clk.slate + 128 - BitVec.ofNat 48 (s.fld CHN_CFG.DLY) → e = (cut - s.chPredicted).toInt →
    s.chState = chLocked → s.fld CHN_CFG.ADJ < e.natAbs →
    Runs .clapEdge s [.one INT_DEG_CAUSE, .one MGT_LOG_STAT, .one CHN_STAT, .one CHN_PHASE, .faults, .waiting, .clk,
    .reel, .intg, .mgt, .can, .chn, .drawn] (fun t => t.clk.nextCut =
    s.chPredicted + BitVec.ofInt 48 (if 0 < e then (s.fld CHN_CFG.ADJ : Int) else -(s.fld CHN_CFG.ADJ : Int)) ∧
    t.chState = chAcquire ∧ t.raised 0x1303 = true)) ∧
  (∀ (cut : Slate) (e : Int) (s : State), s.powered = true → s.clk.cutsOn = true → s.sys.cascM = false →
    s.vioOk = true → s.clk.phase = .frame → s.chn.clapped = false →
    cut = s.clk.slate + 128 - BitVec.ofNat 48 (s.fld CHN_CFG.DLY) → e = (cut - s.chPredicted).toInt →
    s.chState = chAcquire → s.sys.mode ≠ .standby → e.natAbs ≤ 2 → s.chn.good = 7 →
    Runs .clapEdge s [.one INT_DEG_CAUSE, .one MGT_LOG_STAT, .one CHN_STAT, .one CHN_PHASE, .faults, .waiting, .clk,
    .reel, .intg, .mgt, .can, .chn, .drawn] (fun t => t.chState = chLocked ∧
    t.clk.nextCut = s.chPredicted + BitVec.ofInt 48 (clampZ (-(s.fld CHN_CFG.ADJ : Int)) (s.fld CHN_CFG.ADJ) e) ∧
    t.chn.good = 8)) ∧
  (∀ (cut : Slate) (e : Int) (s : State), s.powered = true → s.clk.cutsOn = true → s.sys.cascM = false →
    s.vioOk = true → s.clk.phase = .frame → s.chn.clapped = false →
    cut = s.clk.slate + 128 - BitVec.ofNat 48 (s.fld CHN_CFG.DLY) → e = (cut - s.chPredicted).toInt →
    s.chState = chAcquire → s.sys.mode = .standby → s.chn.intervals = [] → s.chn.lastClap = none →
    800 ≤ (cut - s.clk.lastCut).toNat → (cut - s.clk.lastCut).toNat < 2 ^ 47 →
    Runs .clapEdge s [.one INT_DEG_CAUSE, .one MGT_LOG_STAT, .one CHN_STAT, .one CHN_PHASE, .faults, .waiting, .clk,
    .reel, .intg, .mgt, .can, .chn, .drawn] (fun t => t.clk.nextCut = cut)) ∧
  (∀ (cut : Slate) (e : Int) (s : State), s.powered = true → s.clk.cutsOn = true → s.sys.cascM = false →
    s.vioOk = true → s.clk.phase = .frame → s.chn.clapped = false →
    cut = s.clk.slate + 128 - BitVec.ofNat 48 (s.fld CHN_CFG.DLY) → e = (cut - s.chPredicted).toInt →
    s.chState = chHoldover ∨ s.chState = chLost → 2 < e.natAbs →
    Runs .clapEdge s [.one INT_DEG_CAUSE, .one MGT_LOG_STAT, .one CHN_STAT, .one CHN_PHASE, .faults, .waiting, .clk,
    .reel, .intg, .mgt, .can, .chn, .drawn] (fun t => t.chState = chAcquire ∧ (s.chState = chHoldover ∧
    s.fld CHN_CFG.ADJ < e.natAbs → t.raised 0x1303 = true))) ∧
  (∀ (cut : Slate) (e : Int) (s : State), s.powered = true → s.clk.cutsOn = true → s.sys.cascM = false →
    s.vioOk = true → s.clk.phase = .frame → s.chn.clapped = false →
    cut = s.clk.slate + 128 - BitVec.ofNat 48 (s.fld CHN_CFG.DLY) → e = (cut - s.chPredicted).toInt →
    s.chState = chHoldover ∨ s.chState = chLost → e.natAbs ≤ 2 →
    Runs .clapEdge s [.one INT_DEG_CAUSE, .one MGT_LOG_STAT, .one CHN_STAT, .one CHN_PHASE, .faults, .waiting, .clk,
    .reel, .intg, .mgt, .can, .chn, .drawn] (fun t => t.chState = chLocked)) ∧
  (∀ (s : State), s.powered = true → s.sys.cascM = false → s.chState = chLocked → s.chn.clapped = false →
    Runs .clapMiss s [.one MGT_LOG_STAT, .one CHN_STAT, .faults, .reel, .intg, .mgt, .can, .chn] (fun t => t.chState =
    chHoldover ∧ t.raised 0x1301 = true ∧ t.chn.held = 0)) ∧
  (∀ (s : State), s.powered = true → s.sys.cascM = false → s.chState = chHoldover →
    s.fld CHN_CTRL.CLAP_HOLD ≤ s.chn.held →
    Runs .clapLost s [.one INT_DEG_CAUSE, .one MGT_LOG_STAT, .one CHN_STAT, .faults, .reel, .intg, .mgt, .can,
    .chn] (fun t => t.chState = chLost ∧ t.raised 0x1302 = true ∧ t.bitOf INT_DEG_CAUSE.CAUSE 7 = true))

/-- In the window a device sends its record and its check. A record of another whose check holds is learned: each valid
slot moves its position by the signed 24-bit difference. One that fails is counted, CRC or ABSENT, and changes no
position; one cut off counts as ABORT. A mismatch in the own slot stops sending: TX_OFF is set and POS_CONFLICT raised.
A host frame in the window is ignored with 0x1307, and a device silent for 1024 frames loses its positions. -/
def Obligations.ChainRecords : Prop :=
  (∀ (s : State), s.powered = true → s.clk.cutsOn = true → s.chActive = true → s.flag CHN_STAT.TX_OFF = false →
    s.chainPos ≤ s.fld CHN_CFG.NDEV → Runs (.chainWindow 0) s [.one MGT_LOG_STAT, .faults, .clk, .reel, .intg, .mgt,
    .can, .chn] (fun t => t.chn.sent = s.chn.record ++ [recordCrc s.chn.record] ∧
    t.chn.windowEnd = some (t.clk.slate + BitVec.ofNat 48 (chWindowTicks (s.word CHN_CFG))))) ∧
  (∀ (c : BitVec 4) (k : Fin 4) (n : Nat) (s : State), s.powered = true → s.clk.cutsOn = true → s.chActive = true →
    c.getLsbD k = true → slotAxis (s.word CHN_PUB) k = some n → s.flag CHN_STAT.TX_OFF = false →
    s.chainPos ≤ s.fld CHN_CFG.NDEV → s.chn.record.length = 15 →
    Runs (.chainWindow c) s [.one MGT_LOG_STAT, .faults, .clk, .reel, .intg, .mgt, .can, .chn] (fun t =>
    t.raised 0x1309 = true ∧ (Tbl.get 0 t.chn.sent 2).getLsbD k = false ∧
    (∀ i < 3, Tbl.get 0 t.chn.sent (3 + 3 * k.val + i) = 0) ∧
    Tbl.get 0 t.chn.sent 15 = recordCrc (t.chn.sent.take 15))) ∧
  (∀ (k : Fin 8) (l : List Byte) (s : State), s.powered = true → s.clk.cutsOn = true → s.chActive = true →
    k.val ≤ s.fld CHN_CFG.NDEV → l.length < 16 →
    Runs (.chainRecord k l) s [.one MGT_LOG_STAT, .one CHN_STAT, .one CHN_CNT, .row CHN_RMAP, .faults, .reel, .intg,
    .mgt, .can, .chn] (fun t => t.fld CHN_CNT.ABORT = min (s.fld CHN_CNT.ABORT + 1) (2 ^ CHN_CNT.ABORT.w - 1) ∧
    (s.chn.abortSeen = false → t.raised 0x1305 = true) ∧ t.chn.devs = s.chn.devs)) ∧
  (∀ (k : Fin 8) (l : List Byte) (s : State), s.powered = true → s.clk.cutsOn = true → s.chActive = true →
    k.val ≤ s.fld CHN_CFG.NDEV → l.length = 16 → recordCrc (l.take 15) = Tbl.get 0 l 15 → s.chn.devs.length = 8 →
    Runs (.chainRecord k l) s [.one MGT_LOG_STAT, .one CHN_STAT, .one CHN_CNT, .row CHN_RMAP, .faults, .reel, .intg,
    .mgt, .can, .chn] (fun t => (t.chDev k).silent = 0 ∧ (∀ j < 4, (Tbl.get 0 l 2).getLsbD j = false →
    Tbl.get none (t.chDev k).q j = none) ∧ t.bitOf CHN_STAT.SEEN k = true ∧ t.chn.recOk.getLsbD k = true ∧
    (∀ i < 8, i ≠ k.val → t.chDev i = s.chDev i))) ∧
  (∀ (k : Fin 8) (l : List Byte) (j p : Nat) (q : Option Word) (s : State), s.powered = true → s.clk.cutsOn = true →
    s.chActive = true → k.val ≤ s.fld CHN_CFG.NDEV → l.length = 16 → recordCrc (l.take 15) = Tbl.get 0 l 15 →
    s.chn.devs.length = 8 → j < 4 → (Tbl.get 0 l 2).getLsbD j = true → Tbl.get none (s.chDev k).q j = q →
    p =
    (Tbl.get 0 l (3 + 3 * j)).toNat + 256 * (Tbl.get 0 l (4 + 3 * j)).toNat + 65536 * (Tbl.get 0 l (5 + 3 * j)).toNat
    → (Tbl.get 0 l 0).toNat % 4 ≠ j ∨ s.learned k j = 0xF ∨ s.learned k j = (Tbl.get 0 l 2).toNat / 16 →
    Runs (.chainRecord k l) s [.one MGT_LOG_STAT, .one CHN_STAT, .one CHN_CNT, .row CHN_RMAP, .faults, .reel, .intg,
    .mgt, .can, .chn] (fun t => Tbl.get none (t.chDev k).q j = some (rebuild q p))) ∧
  (∀ (k : Fin 8) (l : List Byte) (s : State), s.powered = true → s.clk.cutsOn = true → s.chActive = true →
    k.val ≤ s.fld CHN_CFG.NDEV → l.length = 16 → recordCrc (l.take 15) ≠ Tbl.get 0 l 15 →
    s.bitOf CHN_STAT.SEEN k = true → Runs (.chainRecord k l) s [.one MGT_LOG_STAT, .one CHN_STAT, .one CHN_CNT,
    .row CHN_RMAP, .faults, .reel, .intg, .mgt, .can, .chn] (fun t => t.fld CHN_CNT.CRC =
    min (s.fld CHN_CNT.CRC + 1) (2 ^ CHN_CNT.CRC.w - 1) ∧ (s.chn.crcSeen = false → t.raised 0x1304 = true) ∧
    t.chn.devs = s.chn.devs ∧ t.word (CHN_RMAP (k.val / 2)) = s.word (CHN_RMAP (k.val / 2)))) ∧
  (∀ (k : Fin 8) (l : List Byte) (s : State), s.powered = true → s.clk.cutsOn = true → s.chActive = true →
    k.val ≤ s.fld CHN_CFG.NDEV → l.length = 16 → recordCrc (l.take 15) ≠ Tbl.get 0 l 15 →
    s.bitOf CHN_STAT.SEEN k = false → Runs (.chainRecord k l) s [.one MGT_LOG_STAT, .one CHN_STAT, .one CHN_CNT,
    .row CHN_RMAP, .faults, .reel, .intg, .mgt, .can, .chn] (fun t => t.fld CHN_CNT.ABSENT =
    min (s.fld CHN_CNT.ABSENT + 1) (2 ^ CHN_CNT.ABSENT.w - 1) ∧ t.fld CHN_CNT.CRC = s.fld CHN_CNT.CRC ∧
    t.chn.devs = s.chn.devs)) ∧
  (∀ (s : State), s.powered = true → s.chActive = true → s.flag CHN_STAT.TX_OFF = false →
    Runs .posConflict s [.one INT_DEG_CAUSE, .one MGT_LOG_STAT, .one CHN_STAT, .faults, .reel, .intg, .mgt, .can,
    .chn] (fun t => t.flag CHN_STAT.TX_OFF = true ∧ t.raised 0x1306 = true ∧ t.chn.sent = [] ∧
    t.bitOf INT_DEG_CAUSE.CAUSE 7 = true)) ∧
  (∀ (s : State), s.powered = true → s.sys.cascM = false → s.flag CHN_CTRL.EN = true → s.vioOk = true →
    Runs .hostInWindow s [.one MGT_LOG_STAT, .faults, .reel, .intg, .mgt, .can, .spi] (fun t => t.spi.ignored = true ∧
    t.spi.frameErr = true ∧ t.raised 0x1307 = true)) ∧
  (∀ (k : Fin 8) (s : State), s.powered = true → s.chn.devs.length = 8 → 1024 ≤ (s.chDev k).silent →
    Runs (.qTimeout k) s [.intg, .chn] (fun t => (∀ j < 4, Tbl.get none (t.chDev k).q j = none) ∧
    (∀ i < 8, i ≠ k.val → t.chDev i = s.chDev i)))

/-- A window opens in a bank under test that is ON and holds no save buffer, ends at the next row, and a mismatch, one
that the row's own stuck bits give or another, declares the row faulty: ROW_FAULT, a free spare assigned to it, and its
repair pending. A window that runs too long is aborted and counted. The end of the copy lets APPLY map the row. That
USED and ROW are written at the assignment and that the save buffer is taken at once are the model's choices (log entry
63). -/
def Obligations.BankTestsAndRepairs : Prop :=
  (∀ (b : Fin 17) (s : State), s.powered = true → s.mem.banks.length = 17 → (s.bank b).repairs ≠ [] →
    Runs (.repairCopyDone b) s [.intg, .mem] (fun t => (t.bank b).copied = true ∧
    (t.bank b).repairs = (s.bank b).repairs ∧ (∀ i < 17, i ≠ b.val → t.bank i = s.bank i))) ∧
  (∀ (b : Fin 17) (s : State), s.powered = true → s.sys.mode ≠ .boot → s.flag MEM_TEST_CTRL.EN = true →
    s.flag (MEM_B_OWN.TEST_EN b) = true → s.bankOn b = true → s.flag (MEM_B_STAT.SAVE_HELD b) = false →
    (s.bank b).exhaust = none → Runs (.testWindow b) s [.row MEM_B_STAT, .intg] (fun t =>
    t.flag (MEM_B_STAT.TEST_BUSY b) = true)) ∧
  (∀ (b : Fin 17) (s : State), s.powered = true → s.flag (MEM_B_STAT.TEST_BUSY b) = true →
    s.patternsFail b (s.fld (MEM_B_STAT.TEST_ROW b)) = false →
    Runs (.testWindowEnd b false) s [.row MEM_B_STAT, .row MEM_B_ECC, .row MEM_B_REPAIR, .one INT_DEG_CAUSE,
    .one MGT_LOG_STAT, .faults, .reel, .intg, .mgt, .can, .mem, .drawn] (fun t => t.flag (MEM_B_STAT.TEST_BUSY b) =
    false ∧ t.fld (MEM_B_STAT.TEST_ROW b) = (s.fld (MEM_B_STAT.TEST_ROW b) + 1) % bankRows b ∧
    t.fld (MEM_B_ECC.ABORTS b) = s.fld (MEM_B_ECC.ABORTS b) ∧ (∀ i < 17, i ≠ b.val → t.bank i = s.bank i))) ∧
  (∀ (b : Fin 17) (bad : Bool) (s : State), s.powered = true → s.mem.banks.length = 17 →
    s.flag (MEM_B_STAT.TEST_BUSY b) = true → bad = true ∨ s.patternsFail b (s.fld (MEM_B_STAT.TEST_ROW b)) = true →
    s.bank b = {} → s.flag (MEM_B_REPAIR.USED0 b) = false →
    Runs (.testWindowEnd b bad) s [.row MEM_B_STAT, .row MEM_B_ECC, .row MEM_B_REPAIR, .one INT_DEG_CAUSE,
    .one MGT_LOG_STAT, .faults, .reel, .intg, .mgt, .can, .mem, .drawn] (fun t => t.raised 0x0E03 = true ∧
    t.flag (MEM_B_REPAIR.USED0 b) = true ∧ t.fld (MEM_B_REPAIR.ROW0 b) = s.fld (MEM_B_STAT.TEST_ROW b) ∧
    (t.bank b).repairs = [(s.fld (MEM_B_STAT.TEST_ROW b), 0)] ∧ t.flag (MEM_B_STAT.REPAIR_PEND b) = true ∧
    t.flag (MEM_B_STAT.SAVE_HELD b) = true ∧ (∀ i < 17, i ≠ b.val → t.bank i = s.bank i))) ∧
  (∀ (b : Fin 17) (bad : Bool) (s : State), s.powered = true → s.mem.banks.length = 17 →
    s.flag (MEM_B_STAT.TEST_BUSY b) = true → bad = true ∨ s.patternsFail b (s.fld (MEM_B_STAT.TEST_ROW b)) = true →
    s.bank b = {} → s.flag (MEM_B_REPAIR.USED0 b) = true → s.flag (MEM_B_REPAIR.USED1 b) = true →
    Runs (.testWindowEnd b bad) s [.row MEM_B_STAT, .row MEM_B_ECC, .row MEM_B_REPAIR, .one INT_DEG_CAUSE,
    .one MGT_LOG_STAT, .faults, .reel, .intg, .mgt, .can, .mem, .drawn] (fun t => t.raised 0x0E03 = true ∧
    t.raised 0x0E05 = true ∧ (t.bank b).exhaust = some (s.fld (MEM_B_STAT.TEST_ROW b)) ∧
    t.flag (MEM_B_STAT.SAVE_HELD b) = true ∧ t.bitOf INT_DEG_CAUSE.CAUSE 6 = true ∧ (∀ i < 17, i ≠ b.val →
    t.bank i = s.bank i))) ∧
  (∀ (b : Fin 17) (s : State), s.powered = true → s.flag (MEM_B_STAT.TEST_BUSY b) = true →
    Runs (.testWindowTimeout b) s [.row MEM_B_STAT, .row MEM_B_ECC, .intg, .mem, .drawn] (fun t =>
    t.flag (MEM_B_STAT.TEST_BUSY b) = false ∧ t.fld (MEM_B_STAT.TEST_ROW b) = s.fld (MEM_B_STAT.TEST_ROW b) ∧
    t.fld (MEM_B_ECC.ABORTS b) = min (s.fld (MEM_B_ECC.ABORTS b) + 1) (2 ^ (MEM_B_ECC.ABORTS b).w - 1))) ∧
  (∀ (b : Fin 17) (s : State), s.powered = true → s.fld (MEM_B_STAT.PWR b) = 2 →
    Runs (.bankWake b) s [.row MEM_B_STAT, .intg] (fun t => t.bankOn b = true)) ∧
  (∀ (b : Fin 17) (s : State), s.powered = true → s.retaining = true → s.flag (MEM_B_OWN.RETAIN b) = true →
    s.bankOn b = true → s.flag (MEM_B_STAT.REPAIR_PEND b) = false →
    Runs (.bankRetain b) s [.row MEM_B_STAT, .intg, .mem, .drawn] (fun t => t.fld (MEM_B_STAT.PWR b) = 1 ∧
    t.flag (MEM_B_STAT.TEST_BUSY b) = false))

/-- AT_SET stores the word OR its mask, AT_CLR the word AND NOT its mask, and the old word stands in MEM_AT_OLD. A word
that its code finds uncorrectable is not written, the write is refused and ECC_UNCORR is raised. Port A stores its word,
or sets or clears its mask in it; that its atomic keeps the old word in an alias of its own and counts in A_WR is the
model's choice (log entry 111). Every other byte keeps its value. -/
def Obligations.BankWordsStored : Prop :=
  (∀ (m : Word) (a : Nat) (s : State), s.hostOpen → a = s.fld MEM_AT_ADDR.ADDR → Assoc.get s.mem.flaws a = none →
    Runs (.atSet m {}) s [.one SPI_HERR, .one MEM_AT_OLD, .one MEM_MB_CNT, .row MEM_B_STAT, .row MEM_B_ECC,
    .row MEM_B_REPAIR, .one INT_DEG_CAUSE, .one MGT_LOG_STAT, .faults, .reel, .intg, .mgt, .can, .mem, .spi, .drawn,
    .cells] (fun t => memWord t.mem.cells a = memWord s.mem.cells a ||| m ∧
    t.word MEM_AT_OLD = memWord s.mem.cells a ∧ (∀ x : Nat, (x < a ∨ a + 4 ≤ x) → t.byteAt x = s.byteAt x))) ∧
  (∀ (m : Word) (a : Nat) (s : State), s.hostOpen → a = s.fld MEM_AT_ADDR.ADDR → Assoc.get s.mem.flaws a = none →
    Runs (.atClr m {}) s [.one SPI_HERR, .one MEM_AT_OLD, .one MEM_MB_CNT, .row MEM_B_STAT, .row MEM_B_ECC,
    .row MEM_B_REPAIR, .one INT_DEG_CAUSE, .one MGT_LOG_STAT, .faults, .reel, .intg, .mgt, .can, .mem, .spi, .drawn,
    .cells] (fun t => memWord t.mem.cells a = memWord s.mem.cells a &&& ~~~m ∧
    t.word MEM_AT_OLD = memWord s.mem.cells a ∧ (∀ x : Nat, (x < a ∨ a + 4 ≤ x) → t.byteAt x = s.byteAt x))) ∧
  (∀ (m : Word) (a : Nat) (s : State), s.hostOpen → a = s.fld MEM_AT_ADDR.ADDR → a < 0x41000 →
    s.fld (MEM_B_STAT.TEST_BUSY ((bankOf a).getD 0)) = 0 →
    Runs (.atSet m { ecc := .uncorr }) s [.one SPI_HERR, .one MEM_AT_OLD, .one MEM_MB_CNT, .row MEM_B_STAT,
    .row MEM_B_ECC, .row MEM_B_REPAIR, .one INT_DEG_CAUSE, .one MGT_LOG_STAT, .faults, .reel, .intg, .mgt, .can, .mem,
    .spi, .drawn, .cells] (fun t => t.mem.cells = s.mem.cells ∧ t.raised 0x0E02 = true ∧ 1 ≤ t.spi.result)) ∧
  (∀ (m : Word) (a : Nat) (s : State), s.hostOpen → a = s.fld MEM_AT_ADDR.ADDR → a < 0x41000 →
    s.fld (MEM_B_STAT.TEST_BUSY ((bankOf a).getD 0)) = 0 →
    Runs (.atClr m { ecc := .uncorr }) s [.one SPI_HERR, .one MEM_AT_OLD, .one MEM_MB_CNT, .row MEM_B_STAT,
    .row MEM_B_ECC, .row MEM_B_REPAIR, .one INT_DEG_CAUSE, .one MGT_LOG_STAT, .faults, .reel, .intg, .mgt, .can, .mem,
    .spi, .drawn, .cells] (fun t => t.mem.cells = s.mem.cells ∧ t.raised 0x0E02 = true ∧ 1 ≤ t.spi.result)) ∧
  (∀ (a : Nat) (v : Word) (s : State), s.powered = true → 0x40000 ≤ a → a < 0x41000 →
    Runs (.mbPortAWrite a (.write v)) s [.one MEM_MB_CNT, .row MEM_B_STAT, .row MEM_B_ECC, .row MEM_B_REPAIR,
    .one INT_DEG_CAUSE, .one MGT_LOG_STAT, .faults, .reel, .intg, .mgt, .can, .mem, .drawn, .cells] (fun t =>
    memWord t.mem.cells (a / 4 * 4) = v ∧ t.fld MEM_MB_CNT.A_WR =
    (s.fld MEM_MB_CNT.A_WR + 1) % 2 ^ MEM_MB_CNT.A_WR.w ∧ (∀ x : Nat, (x < a / 4 * 4 ∨ a / 4 * 4 + 4 ≤ x) →
    t.byteAt x = s.byteAt x))) ∧
  (∀ (a : Nat) (set : Bool) (m w : Word) (s : State), s.powered = true → 0x40000 ≤ a → a < 0x41000 →
    s.mem.flaws = [] → w = memWord s.mem.cells (a / 4 * 4) →
    Runs (.mbPortAWrite a (.atomic set m .clean)) s [.one MEM_MB_CNT, .row MEM_B_STAT, .row MEM_B_ECC,
    .row MEM_B_REPAIR, .one INT_DEG_CAUSE, .one MGT_LOG_STAT, .faults, .reel, .intg, .mgt, .can, .mem, .drawn,
    .cells] (fun t => (memWord t.mem.cells (a / 4 * 4) = if set then w ||| m else w &&& ~~~m) ∧ t.mem.oldA = w ∧
    t.fld MEM_MB_CNT.A_WR = (s.fld MEM_MB_CNT.A_WR + 1) % 2 ^ MEM_MB_CNT.A_WR.w ∧
    (∀ x : Nat, (x < a / 4 * 4 ∨ a / 4 * 4 + 4 ≤ x) → t.byteAt x = s.byteAt x))) ∧
  (∀ (a : Nat) (op : PortAOp) (s : State), s.powered = true → a < 0x40000 ∨ 0x41000 ≤ a →
    Runs (.mbPortAWrite a op) s [.one MEM_MB_CNT, .row MEM_B_STAT, .row MEM_B_ECC, .row MEM_B_REPAIR,
    .one INT_DEG_CAUSE, .one MGT_LOG_STAT, .faults, .reel, .intg, .mgt, .can, .mem, .drawn, .cells] (fun t => t.mem =
    s.mem))

/-- A write of INT_AX_SAFE makes every named used axis safe at once, with its cause. A release that no named axis
excludes waits for the next cut. At the end of its hold a pin shows its condition. -/
def Obligations.AxisSafeRequests : Prop :=
  (∀ (m : BitVec 12) (s : State), s.hostOpen → (∀ n < 12, m.getLsbD n = true → s.axisUsed n = true) →
    Runs (.axSafe m) s [.one MOD_STAT, .row MOD_AX_STAT, .row PWR_AX_LIVE, .one INT_AXCAUSE_LO, .one INT_AXCAUSE_HI,
    .intg, .spi, .mods, .pwr] (fun t => (∀ n < 12, m.getLsbD n = true → t.isSafe n = true) ∧
    (∀ n < 12, m.getLsbD n = true → s.isSafe n = false → t.axCause n = 10) ∧ (∀ n < 12, m.getLsbD n = false →
    t.isSafe n = s.isSafe n ∧ t.axCause n = s.axCause n))) ∧
  (∀ (m : BitVec 12) (n : Fin 12) (s : State), s.hostOpen → m.getLsbD n = true → s.axisUsed n = false →
    Runs (.axSafe m) s [.one MOD_STAT, .row MOD_AX_STAT, .row PWR_AX_LIVE, .one INT_AXCAUSE_LO, .one INT_AXCAUSE_HI,
    .intg, .spi, .mods, .pwr] (fun t => (∀ n < 12, t.isSafe n = s.isSafe n) ∧ 1 ≤ t.spi.result)) ∧
  (∀ (m : BitVec 12) (s : State), s.hostOpen → (∀ n < 12, m.getLsbD n = true → s.releaseRefused n = false) →
    Runs (.axRelease m) s [.intg, .spi] (fun t => t.intg.release = s.intg.release ||| m)) ∧
  (∀ (m : BitVec 12) (n : Fin 12) (s : State), s.hostOpen → m.getLsbD n = true → s.releaseRefused n = true →
    Runs (.axRelease m) s [.intg, .spi] (fun t => t.intg.release = s.intg.release ∧ 1 ≤ t.spi.result)) ∧
  (∀ (s : State), s.powered = true → Runs (.pinHoldEnd true) s [.intg] (fun t => t.intg.pinIrq = s.irqCond)) ∧
  (∀ (s : State), s.powered = true → Runs (.pinHoldEnd false) s [.intg] (fun t => t.intg.pinFault = s.faultCond))

/-- ERASE runs, OPEN selects its slot, FLUSH and ABORT end the transfer, VERIFY makes a slot that passes VERIFIED or
GOOD, FW_SPLICE waits for the cut, and FW_CONFIRM makes the trial slot GOOD. A refused command records its reason and
changes neither the transfer nor the flash. That VERIFY acts at once, that FW_CONFIRM asks for a running trial and the
active slot, and the order among reasons are the model's choices (log entry 55). -/
def Obligations.UpdateCommands : Prop :=
  (∀ (s : State) (k : Nat), (s.updReason 1 k = 0 → s.slotHeld k = false ∧ s.mgt.running = none ∧
    s.mgt.opened = none) ∧ (s.updReason 2 k = 0 → s.slotState k = slErased ∧ s.mgt.running = none ∧
    s.mgt.opened = none) ∧ (s.updReason 3 k = 0 → s.mgt.opened = some k ∧ s.mgt.running = none) ∧
    (s.updReason 4 k = 0 → s.slotState k = slWritten) ∧ (s.updReason 5 k = 0 → 2 ≤ k ∧ s.fwSpliceExcluded k = false) ∧
    (s.updReason 6 k = 0 → s.flag MGT_FW.TRIAL = true ∧ k = s.activeFw)) ∧
  (∀ (k : Fin 4) (s : State), s.hostOpen → s.mgt.stopped = false → s.updReason 1 k = 0 →
    Runs (.updErase k) s [.regs, .sys, .reel, .intg, .mgt, .can, .spi, .flash] (fun t => t.mgt.running = some (1,
    k.val) ∧ t.flash = s.flash ∧ t.fld MGT_UPD_STAT.LAST_CMD = 1 ∧ t.fld MGT_UPD_STAT.TARGET = k.val)) ∧
  (∀ (k : Fin 4) (s : State), s.hostOpen → s.mgt.stopped = false → s.updReason 2 k = 0 →
    Runs (.updOpen k) s [.regs, .sys, .reel, .intg, .mgt, .can, .spi, .flash] (fun t => t.mgt.opened = some k.val ∧
    t.mgt.bufs = [] ∧ t.mgt.pages = [] ∧ t.fld MGT_UPD_ADDR.ADDR = 0 ∧ t.fld MGT_UPD_STAT.PAGES = 0 ∧
    t.fld MGT_UPD_STAT.RESULT = 1 ∧ t.fld MGT_UPD_STAT.LAST_CMD = 2 ∧ t.fld MGT_UPD_STAT.TARGET = k.val)) ∧
  (∀ (k : Fin 4) (s : State), s.hostOpen → s.mgt.stopped = false → s.updReason 3 k = 0 → s.mgt.bufs = [] →
    Runs (.updFlush k) s [.regs, .sys, .reel, .intg, .mgt, .can, .spi, .flash] (fun t => t.mgt.opened = none ∧
    t.fld MGT_UPD_STAT.RESULT = 1 ∧ t.mgt.running = none ∧ t.fld MGT_UPD_STAT.LAST_CMD = 3 ∧
    t.fld MGT_UPD_STAT.TARGET = k.val)) ∧
  (∀ (k : Fin 4) (s : State), s.hostOpen → s.mgt.stopped = false → s.updReason 3 k = 0 → s.mgt.bufs ≠ [] →
    Runs (.updFlush k) s [.regs, .sys, .reel, .intg, .mgt, .can, .spi, .flash] (fun t => t.mgt.opened = some k.val ∧
    t.mgt.running = some (3, k.val) ∧ (∀ b ∈ t.mgt.bufs, b.closing = true) ∧ t.fld MGT_UPD_STAT.LAST_CMD = 3 ∧
    t.fld MGT_UPD_STAT.TARGET = k.val)) ∧
  (∀ (k : Fin 4) (s : State), s.hostOpen → s.mgt.stopped = false → s.updReason 7 k = 0 →
    Runs (.updAbort k) s [.regs, .sys, .reel, .intg, .mgt, .can, .spi, .flash] (fun t => t.mgt.opened = none ∧
    t.mgt.bufs = [] ∧ t.fld MGT_UPD_STAT.RESULT = 1 ∧ t.flash = s.flash ∧ t.fld MGT_UPD_STAT.LAST_CMD = 7 ∧
    t.fld MGT_UPD_STAT.TARGET = k.val)) ∧
  (∀ (k : Fin 4) (s : State), s.hostOpen → s.mgt.stopped = false → s.updReason 4 k = 0 →
    Store.wf (fun _ => (0xFF : Byte)) s.flash = true → k.val < 2 →
    Runs (.updVerify k) s [.regs, .sys, .reel, .intg, .mgt, .can, .spi, .flash] (fun t => ((s.verifyReel k).isOk =
    true → t.fld MGT_UPD_STAT.RESULT = 1 ∧
    t.slotState k = if s.slotState (1 - k.val) = slGood then slVerified else slGood) ∧
    ((s.verifyReel k).isOk = false → t.fld MGT_UPD_STAT.RESULT = 3))) ∧
  (∀ (k : Fin 4) (s : State), s.hostOpen → s.mgt.stopped = false → s.updReason 4 k = 0 →
    Store.wf (fun _ => (0xFF : Byte)) s.flash = true → 2 ≤ k.val →
    Runs (.updVerify k) s [.regs, .sys, .reel, .intg, .mgt, .can, .spi, .flash] (fun t => (s.fwOk k = true →
    t.fld MGT_UPD_STAT.RESULT = 1 ∧ t.slotState k = if s.slotState (5 - k.val) = slGood then slVerified else slGood) ∧
    (s.fwOk k = false → t.fld MGT_UPD_STAT.RESULT = 3 ∧ t.slotState k = slRejected))) ∧
  (∀ (k : Fin 4) (s : State), s.hostOpen → s.mgt.stopped = false → s.updReason 5 k = 0 →
    Runs (.updFwSplice k) s [.regs, .sys, .reel, .intg, .mgt, .can, .spi, .flash] (fun t => t.mgt.fwSplice =
    some k.val ∧ t.mgt.running = some (5, k.val) ∧ t.fld MGT_UPD_STAT.LAST_CMD = 5 ∧
    t.fld MGT_UPD_STAT.TARGET = k.val)) ∧
  (∀ (k : Fin 4) (s : State), s.hostOpen → s.mgt.stopped = false → s.updReason 6 k = 0 →
    Store.wf (fun _ => (0xFF : Byte)) s.flash = true → s.slotState k = slTrial →
    Runs (.updFwConfirm k) s [.regs, .sys, .reel, .intg, .mgt, .can, .spi, .flash] (fun t => t.flag MGT_FW.TRIAL =
    false ∧ t.slotState k = slGood ∧ t.fld MGT_UPD_STAT.RESULT = 1 ∧ t.fld MGT_UPD_STAT.LAST_CMD = 6 ∧
    t.fld MGT_UPD_STAT.TARGET = k.val)) ∧
  (∀ (k : Fin 4) (s : State), s.hostOpen → s.mgt.stopped = false → s.updReason 1 k ≠ 0 →
    Runs (.updErase k) s [.regs, .sys, .reel, .intg, .mgt, .can, .spi, .flash] (fun t => t.fld MGT_UPD_STAT.RESULT =
    2 ∧ t.fld MGT_UPD_STAT.REASON = s.updReason 1 k ∧ 1 ≤ t.spi.result ∧ t.mgt.running = s.mgt.running ∧
    t.mgt.opened = s.mgt.opened ∧ t.flash = s.flash)) ∧
  (∀ (k : Fin 4) (s : State), s.hostOpen → s.mgt.stopped = false → s.updReason 2 k ≠ 0 →
    Runs (.updOpen k) s [.regs, .sys, .reel, .intg, .mgt, .can, .spi, .flash] (fun t => t.fld MGT_UPD_STAT.RESULT =
    2 ∧ t.fld MGT_UPD_STAT.REASON = s.updReason 2 k ∧ 1 ≤ t.spi.result ∧ t.mgt.running = s.mgt.running ∧
    t.mgt.opened = s.mgt.opened ∧ t.flash = s.flash)) ∧
  (∀ (k : Fin 4) (s : State), s.hostOpen → s.mgt.stopped = false → s.updReason 3 k ≠ 0 →
    Runs (.updFlush k) s [.regs, .sys, .reel, .intg, .mgt, .can, .spi, .flash] (fun t => t.fld MGT_UPD_STAT.RESULT =
    2 ∧ t.fld MGT_UPD_STAT.REASON = s.updReason 3 k ∧ 1 ≤ t.spi.result ∧ t.mgt.running = s.mgt.running ∧
    t.mgt.opened = s.mgt.opened ∧ t.flash = s.flash)) ∧
  (∀ (k : Fin 4) (s : State), s.hostOpen → s.mgt.stopped = false → s.updReason 4 k ≠ 0 →
    Runs (.updVerify k) s [.regs, .sys, .reel, .intg, .mgt, .can, .spi, .flash] (fun t => t.fld MGT_UPD_STAT.RESULT =
    2 ∧ t.fld MGT_UPD_STAT.REASON = s.updReason 4 k ∧ 1 ≤ t.spi.result ∧ t.mgt.running = s.mgt.running ∧
    t.mgt.opened = s.mgt.opened ∧ t.flash = s.flash)) ∧
  (∀ (k : Fin 4) (s : State), s.hostOpen → s.mgt.stopped = false → s.updReason 5 k ≠ 0 →
    Runs (.updFwSplice k) s [.regs, .sys, .reel, .intg, .mgt, .can, .spi, .flash] (fun t =>
    t.fld MGT_UPD_STAT.RESULT = 2 ∧ t.fld MGT_UPD_STAT.REASON = s.updReason 5 k ∧ 1 ≤ t.spi.result ∧
    t.mgt.running = s.mgt.running ∧ t.mgt.opened = s.mgt.opened ∧ t.flash = s.flash)) ∧
  (∀ (k : Fin 4) (s : State), s.hostOpen → s.mgt.stopped = false → s.updReason 6 k ≠ 0 →
    Runs (.updFwConfirm k) s [.regs, .sys, .reel, .intg, .mgt, .can, .spi, .flash] (fun t =>
    t.fld MGT_UPD_STAT.RESULT = 2 ∧ t.fld MGT_UPD_STAT.REASON = s.updReason 6 k ∧ 1 ≤ t.spi.result ∧
    t.mgt.running = s.mgt.running ∧ t.mgt.opened = s.mgt.opened ∧ t.flash = s.flash)) ∧
  (∀ (k : Fin 4) (s : State), s.hostOpen → s.mgt.stopped = false → s.updReason 7 k ≠ 0 →
    Runs (.updAbort k) s [.regs, .sys, .reel, .intg, .mgt, .can, .spi, .flash] (fun t => t.fld MGT_UPD_STAT.RESULT =
    2 ∧ t.fld MGT_UPD_STAT.REASON = s.updReason 7 k ∧ 1 ≤ t.spi.result ∧ t.mgt.running = s.mgt.running ∧
    t.mgt.opened = s.mgt.opened ∧ t.flash = s.flash))

/-- A data word goes into the buffer of its page and ADDR rises by 4, or is refused with its reason. A full page is
programmed, one bits becoming zero alone, and the first one makes the slot WRITTEN. The end of an erase leaves every
byte of the slot 0xFF and no other changed; a failed one ends FAILED. Where a failed erase stops and what a failed page
leaves are the model's choices (log entry 56). -/
def Obligations.UpdateTransfers : Prop :=
  (∀ (v : Word) (a : Nat) (s : State), s.hostOpen → s.mgt.stopped = false → a = s.fld MGT_UPD_ADDR.ADDR →
    s.dataReason a = 0 → Runs (.updData v) s [.regs, .sys, .reel, .intg, .mgt, .can, .spi, .flash] (fun t =>
    t.mgt.bufs.any (fun b => b.page == a / 256 && Tbl.get 0 b.words (a % 256 / 4) == v) = true ∧
    t.fld MGT_UPD_ADDR.ADDR = (a + 4) % 2 ^ MGT_UPD_ADDR.ADDR.w ∧ t.mgt.opened = s.mgt.opened)) ∧
  (∀ (v : Word) (s : State), s.hostOpen → s.mgt.stopped = false → s.dataReason (s.fld MGT_UPD_ADDR.ADDR) ≠ 0 →
    Runs (.updData v) s [.regs, .sys, .reel, .intg, .mgt, .can, .spi, .flash] (fun t => t.mgt = s.mgt ∧
    t.fld MGT_UPD_STAT.REASON = s.dataReason (s.fld MGT_UPD_ADDR.ADDR) ∧ t.fld MGT_UPD_STAT.RESULT = 2 ∧
    1 ≤ t.spi.result ∧ t.fld MGT_UPD_ADDR.ADDR = s.fld MGT_UPD_ADDR.ADDR)) ∧
  (∀ (k : Fin 4) (s : State), s.powered = true → Store.wf (fun _ => (0xFF : Byte)) s.flash = true →
    s.mgt.running = some (1, k.val) → Runs (.eraseDone none) s [.one REEL_SLOT_A, .one REEL_SLOT_B,
    .one MGT_FW_SLOT_A, .one MGT_FW_SLOT_B, .one MGT_UPD_STAT, .one MGT_LOG_STAT, .faults, .reel, .intg, .mgt, .can,
    .flash, .flashFlaws, .drawn] (fun t => t.mgt.running = none ∧ t.fld MGT_UPD_STAT.RESULT = 1 ∧
    (∀ o : Nat, slotBase k ≤ o → o < slotBase k + slotRoom k + 0x100 → t.flashByte o = 0xFF) ∧
    (∀ o : Nat, (o < slotBase k ∨ slotBase k + slotRoom k + 0x100 ≤ o) → t.flashByte o = s.flashByte o) ∧
    t.slotState k = slErased)) ∧
  (∀ (k : Fin 4) (i : Nat) (s : State), s.powered = true → s.mgt.running = some (1, k.val) →
    i < (slotRoom k + 0x100) / 0x1000 → Runs (.eraseDone (some i)) s [.one REEL_SLOT_A, .one REEL_SLOT_B,
    .one MGT_FW_SLOT_A, .one MGT_FW_SLOT_B, .one MGT_UPD_STAT, .one MGT_LOG_STAT, .faults, .reel, .intg, .mgt, .can,
    .flash, .flashFlaws, .drawn] (fun t => t.mgt.running = none ∧ t.fld MGT_UPD_STAT.RESULT = 3 ∧
    t.raised 0x1201 = true ∧ (∀ o : Nat, slotBase k ≤ o → o < slotBase k + 0x1000 * i → t.flashByte o = 0xFF) ∧
    (∀ o : Nat, (o < slotBase k ∨ slotBase k + 0x1000 * (i + 1) ≤ o) → t.flashByte o = s.flashByte o))) ∧
  (∀ (k : Fin 4) (p : Nat) (l : List Word) (s : State), s.powered = true →
    Store.wf (fun _ => (0xFF : Byte)) s.flash = true → s.mgt.opened = some k.val → s.mgt.bufs = [⟨p, l, true⟩] →
    s.mgt.running = none → l.length = 64 → 256 * p + 256 ≤ slotRoom k →
    (∀ j < 256, s.flashByte (slotBase k + 256 * p + j) = 0xFF) → s.slotState k = slErased →
    Runs (.pageProgrammed false) s [.one REEL_SLOT_A, .one REEL_SLOT_B, .one MGT_FW_SLOT_A, .one MGT_FW_SLOT_B,
    .one MGT_UPD_STAT, .one MGT_LOG_STAT, .faults, .reel, .intg, .mgt, .can, .flash, .drawn] (fun t => (∀ j < 256,
    t.flashByte (slotBase k + 256 * p + j) = Tbl.get 0 (l.flatMap wordBytes) j) ∧ t.slotState k = slWritten ∧
    t.mgt.opened = some k.val ∧ t.mgt.bufs = [] ∧ t.mgt.pages = p :: s.mgt.pages ∧
    t.fld MGT_UPD_STAT.PAGES = (s.fld MGT_UPD_STAT.PAGES + 1) % 2 ^ MGT_UPD_STAT.PAGES.w ∧
    (∀ o : Nat, (o < slotBase k + 256 * p ∨ slotBase k + 256 * p + 256 ≤ o) →
    (o < slotBase k + slotRoom k ∨ slotBase k + slotRoom k + 4 ≤ o) → t.flashByte o = s.flashByte o))) ∧
  (∀ (k : Fin 4) (p : Nat) (l : List Word) (s : State), s.powered = true → s.mgt.opened = some k.val →
    s.mgt.bufs = [⟨p, l, true⟩] → s.mgt.running = none →
    Runs (.pageProgrammed true) s [.one REEL_SLOT_A, .one REEL_SLOT_B, .one MGT_FW_SLOT_A, .one MGT_FW_SLOT_B,
    .one MGT_UPD_STAT, .one MGT_LOG_STAT, .faults, .reel, .intg, .mgt, .can, .flash, .drawn] (fun t => t.mgt.opened =
    none ∧ t.mgt.bufs = [] ∧ t.fld MGT_UPD_STAT.RESULT = 3 ∧ t.raised 0x1202 = true))

/-- The oldest waiting record is programmed at the next place with the next sequence number, and one that reads back
wrong keeps its place in the queue. The erase of the next sector leaves it 0xFF, a failed one retires it. An expired
trial makes the slot GOOD, a watchdog restart is counted and raised, and fails the command that ran, and the scrub
rejects a failing inactive GOOD slot. -/
def Obligations.LogAndManagementWork : Prop :=
  (∀ (r : LogRec) (rest : List LogRec) (q : Word) (s : State), s.powered = true → s.mcRuns = true →
    s.mgt.logOpen = true → s.mgt.queue = r :: rest → s.mgt.logCount < 127 → s.mgt.logSector < 16 →
    q = s.word MGT_LOG_SEQ + 1 → q ≠ 0 → (∀ j < 32,
    s.flashByte (logBase s.mgt.logSector + 32 + 32 * s.mgt.logCount + j) = 0xFF) →
    Runs (.logRecordWrite false) s [.one MGT_LOG_SEQ, .one MGT_LOG_STAT, .faults, .reel, .intg, .mgt, .can, .flash,
    .drawn] (fun t => t.mgt.queue = rest ∧ t.word MGT_LOG_SEQ = q ∧ t.mgt.logCount = s.mgt.logCount + 1 ∧
    (∀ j < 32, t.flashByte (logBase s.mgt.logSector + 32 + 32 * s.mgt.logCount + j) = Tbl.get 0 (r.bytes q) j) ∧
    (∀ o : Nat,
    (o < logBase s.mgt.logSector + 32 + 32 * s.mgt.logCount ∨ logBase s.mgt.logSector + 64 + 32 * s.mgt.logCount ≤ o)
    → t.flashByte o = s.flashByte o))) ∧
  (∀ (r : LogRec) (rest : List LogRec) (s : State), s.powered = true → s.mcRuns = true → s.mgt.logOpen = true →
    s.mgt.queue = r :: rest → s.mgt.logCount < 127 →
    Runs (.logRecordWrite true) s [.one MGT_LOG_SEQ, .one MGT_LOG_STAT, .faults, .reel, .intg, .mgt, .can, .flash,
    .drawn] (fun t => t.mgt.queue.head? = some r ∧ t.word MGT_LOG_SEQ = s.word MGT_LOG_SEQ ∧
    t.mgt.logCount = s.mgt.logCount + 1 ∧ t.raised 0x1003 = true)) ∧
  (∀ (i : Nat) (s : State), s.powered = true → s.mcRuns = true → s.mgt.logOpen = true → s.mgt.logNext = none →
    i = s.nextSector s.mgt.logSector →
    Runs (.logSectorErase false) s [.one MGT_LOG_STAT, .faults, .reel, .intg, .mgt, .can, .flash, .flashFlaws,
    .drawn] (fun t => (∀ o : Nat, logBase i ≤ o → o < logBase i + 0x1000 → t.flashByte o = 0xFF) ∧
    (∀ o : Nat, (o < logBase i ∨ logBase i + 0x1000 ≤ o) → t.flashByte o = s.flashByte o) ∧
    t.mgt.logNext.isSome = true)) ∧
  (∀ (i : Nat) (s : State), s.powered = true → s.mcRuns = true → s.mgt.logOpen = true → s.mgt.logNext = none →
    i = s.nextSector s.mgt.logSector → i < 16 →
    Runs (.logSectorErase true) s [.one MGT_LOG_STAT, .faults, .reel, .intg, .mgt, .can, .flash, .flashFlaws,
    .drawn] (fun t => t.mgt.logRetired = s.mgt.logRetired ||| (1#16 <<< i) ∧ t.raised 0x1205 = true ∧
    t.mgt.logNext = none ∧ (∀ o : Nat, (o < logBase i ∨ logBase i + 0x1000 ≤ o) → t.flashByte o = s.flashByte o))) ∧
  (∀ (s : State), s.powered = true → s.mcRuns = true → Store.wf (fun _ => (0xFF : Byte)) s.flash = true →
    s.flag MGT_FW.TRIAL = true → s.fld MGT_POLICY.FW_TRIAL ≠ 0 → s.slotState s.activeFw = slTrial →
    Runs .fwTrialExpire s [.one REEL_SLOT_A, .one REEL_SLOT_B, .one MGT_FW, .one MGT_FW_SLOT_A, .one MGT_FW_SLOT_B,
    .intg, .flash] (fun t => t.flag MGT_FW.TRIAL = false ∧ t.slotState s.activeFw = slGood)) ∧
  (∀ (s : State), s.powered = true → s.mcRuns = true → s.flag MGT_FW.TRIAL = false → s.mgt.running = none →
    Runs .mcWatchdog s [.one MGT_STAT, .one MGT_UPD_STAT, .one MGT_LOG_STAT, .faults, .reel, .intg, .mgt,
    .can] (fun t => t.raised 0x1001 = true ∧
    t.fld MGT_STAT.MC_RESETS = min (s.fld MGT_STAT.MC_RESETS + 1) (2 ^ MGT_STAT.MC_RESETS.w - 1) ∧
    t.mgt.opened = none ∧ t.mgt.stopped = false)) ∧
  (∀ (s : State), s.powered = true → s.mcRuns = true → s.flag MGT_FW.TRIAL = true →
    Runs .mcWatchdog s [.one MGT_STAT, .one MGT_UPD_STAT, .one MGT_LOG_STAT, .faults, .reel, .intg, .mgt,
    .can] (fun t => t.raised 0x1001 = true ∧ t.mgt.stopped = true)) ∧
  (∀ (c k : Nat) (s : State), s.powered = true → s.mcRuns = true → s.flag MGT_FW.TRIAL = false →
    s.mgt.running = some (c, k) → Runs .mcWatchdog s [.one MGT_STAT, .one MGT_UPD_STAT, .one MGT_LOG_STAT, .faults,
    .reel, .intg, .mgt, .can] (fun t => t.raised 0x1001 = true ∧ t.mgt.running = none ∧
    t.fld MGT_UPD_STAT.RESULT = 3)) ∧
  (∀ (k : Nat) (s : State), s.powered = true → s.mcRuns = true → Store.wf (fun _ => (0xFF : Byte)) s.flash = true →
    s.sys.mode.supervises = true → k < 4 → s.slotState k = slGood → (if k < 2 then s.activeReel else s.activeFw) ≠ k →
    (if k < 2 then (s.readReel k).isOk else s.fwOk k) = false →
    Runs .scrub s [.one REEL_SLOT_A, .one REEL_SLOT_B, .one MGT_FW_SLOT_A, .one MGT_FW_SLOT_B, .one MGT_LOG_STAT,
    .faults, .reel, .intg, .mgt, .can, .flash] (fun t => t.slotState k = slRejected ∧ t.raised 0x1007 = true))

/-- The step of a state whose queue has a command at its front is exec of that command on the state with the queue's
rest. -/
def Obligations.StepRunsFront : Prop :=
  ∀ (c : Instr) (s : State), step { s with pending := c :: s.pending } = exec c s

/-- The model's choice, log entry 1: on an empty queue a powered block lets one tick pass. The slate advances by one,
EPOCH counts its wrap, and no command, register, memory or flash byte changes, unless a wake from SLEEP is abandoned. -/
def Obligations.EmptyQueueTicks : Prop :=
  ∀ s : State, s.pending = [] → s.powered = true → s.sys.wake = false → ∃ t, step s = .next t ∧
    t.clk.slate = s.clk.slate + 1 ∧ t.clk.epoch = s.clk.epoch + (if s.clk.slate + 1 = 0 then 1 else 0) ∧
    t.pending = [] ∧ t.regs = s.regs ∧ t.mem = s.mem ∧ t.flash = s.flash

/-- For every command and every state, exec answers a next state: none ends in a fault or a refusal. The queue of
waiting commands and the variant of the part stay as they were. -/
def Obligations.EveryCommandAnswers : Prop :=
  ∀ (i : Instr) (s : State), ∃ t, exec i s = .next t ∧ t.pending = s.pending ∧ t.part = s.part

/-- From every state in which registers, memory and flash are in canonical form, every table has its entries, and every
half-bridge is sound, a step leads to a state of that kind. -/
def Obligations.StepKeepsInv : Prop :=
  ∀ s t : State, s.Inv → step s = .next t → t.Inv

/-- From every state that meets the invariant, after any step no half-bridge of any axis has both its switches on, and a
turn-on that waits for the dead time finds the other switch off. -/
def Obligations.NoShootThrough : Prop :=
  ∀ (s t : State) (n k : Nat), s.Inv → step s = .next t → ¬((t.hb n k).hi = true ∧ (t.hb n k).lo = true) ∧
    ((t.hb n k).turnOn = some true → (t.hb n k).lo = false) ∧ ((t.hb n k).turnOn = some false → (t.hb n k).hi = false)

/-- A command outside the list (bus accesses that can reach the update commands, the update path, the log, slot states
and the cut that splices) leaves all of flash as it was: no shot, motion, modulator, power, converter, encoder, chain or
test command writes flash. -/
def Obligations.FlashHasFewWriters : Prop :=
  ∀ (i : Instr) (s t : State), mayWriteFlash i = false → exec i s = .next t → t.flash = s.flash

/-- After reset the mode is BOOT with the reset held, the queue is empty, the slate is 0, every register reads its reset
value, memory and flash list nothing, no switch is on, and the invariant holds. No word spells a command. Reset values
the spec leaves open are the model's choice (log entries 7 and 8). -/
def Obligations.ResetMeetsInv : Prop :=
  State.reset.Inv ∧ State.reset.sys.mode = .boot ∧ State.reset.sys.inReset = true ∧ State.reset.pending = [] ∧
    State.reset.clk.slate = 0 ∧ State.reset.mem.cells = [] ∧ State.reset.regs = [] ∧
    (∀ n w : Nat, decodeTableWord n w = none) ∧ (∀ n < 12, ∀ k < 4, (State.reset.hb n k).hi = false ∧
    (State.reset.hb n k).lo = false)
end

