-- ==== Sys2Proof/Laws/Store.lean ====
section
/-!
SUPPORT. Sparse stores and tables: reading after writing, the canonical form, and lengths.
-/

-- One proof after the other: as one text the package would otherwise ask for more threads than there is memory for.
set_option Elab.async false

namespace Sys2Proof.Machine
variable {β : Type}

theorem Store.get_del_same (d : Nat → β) (m : List (Nat × β)) (k : Nat) : Store.get d (Store.del m k) k = d k := by
  induction m with
  | nil => rfl
  | cons p t ih =>
    simp only [Store.del]
    split
    · exact ih
    · simp [Store.get, *]

theorem Store.get_del_other (d : Nat → β) (m : List (Nat × β)) {k j : Nat} (h : j ≠ k) :
    Store.get d (Store.del m k) j = Store.get d m j := by
  induction m with
  | nil => rfl
  | cons p t ih =>
    simp only [Store.del]
    split
    · rename_i e
      simp [Store.get, ih, e ▸ h]
    · simp [Store.get, ih]

theorem Store.get_ins_other (d : Nat → β) (m : List (Nat × β)) {k j : Nat} (v : β) (h : j ≠ k) :
    Store.get d (Store.ins m k v) j = Store.get d m j := by
  induction m with
  | nil => simp [Store.ins, Store.get, h]
  | cons p t ih =>
    simp only [Store.ins]
    split
    · simp [Store.get, h]
    · simp [Store.get, ih]

theorem Store.get_ins_del (d : Nat → β) (m : List (Nat × β)) (k : Nat) (v : β) :
    Store.get d (Store.ins (Store.del m k) k v) k = v := by
  induction m with
  | nil => simp [Store.ins, Store.del, Store.get]
  | cons p t ih =>
    simp only [Store.del]
    split
    · exact ih
    · rename_i e
      simp only [Store.ins]
      split
      · simp [Store.get]
      · simp only [Store.get, if_neg e, ih]

variable [DecidableEq β]

/-- A key reads as it was last written. -/
@[simp] theorem Store.get_put_same (d : Nat → β) (m : List (Nat × β)) (k : Nat) (v : β) :
    Store.get d (Store.put d m k v) k = v := by
  unfold Store.put
  split
  · rename_i h; rw [Store.get_del_same, h]
  · exact Store.get_ins_del d m k v

/-- A write leaves every other key alone. -/
theorem Store.get_put_other (d : Nat → β) (m : List (Nat × β)) {k j : Nat} (v : β) (h : j ≠ k) :
    Store.get d (Store.put d m k v) j = Store.get d m j := by
  unfold Store.put
  split
  · exact Store.get_del_other d m h
  · rw [Store.get_ins_other _ _ _ h, Store.get_del_other d m h]

theorem Store.get_put (d : Nat → β) (m : List (Nat × β)) (k j : Nat) (v : β) :
    Store.get d (Store.put d m k v) j = if j = k then v else Store.get d m j := by
  split
  · rename_i h; rw [h, Store.get_put_same]
  · rename_i h; exact Store.get_put_other d m v h

theorem Store.above_del (d : Nat → β) (m : List (Nat × β)) (k : Nat) :
    ∀ lo, Store.above d lo m = true → Store.above d lo (Store.del m k) = true := by
  induction m with
  | nil => intro lo h; exact h
  | cons p t ih =>
    intro lo h
    simp only [Store.above, Bool.and_eq_true] at h
    simp only [Store.del]
    split
    · apply ih
      cases t with
      | nil => rfl
      | cons q u =>
        have h2 := h.2
        simp only [Store.above, Bool.and_eq_true, decide_eq_true_eq] at h2 ⊢
        refine ⟨⟨?_, h2.1.2⟩, h2.2⟩
        cases lo with
        | none => rfl
        | some l =>
          have h1 := h.1.1
          simp only [decide_eq_true_eq] at h1 ⊢
          omega
    · simp only [Store.above, Bool.and_eq_true]
      exact ⟨h.1, ih _ h.2⟩

theorem Store.above_ins (d : Nat → β) (m : List (Nat × β)) (k : Nat) (v : β) (hv : v ≠ d k)
    (hk : ∀ p ∈ m, p.1 ≠ k) : ∀ lo : Option Nat, (∀ l ∈ lo, l < k) → Store.above d lo m = true →
    Store.above d lo (Store.ins m k v) = true := by
  induction m with
  | nil =>
    intro lo hl _
    cases lo <;> simp_all [Store.ins, Store.above]
  | cons p t ih =>
    intro lo hl h
    simp only [Store.above, Bool.and_eq_true] at h
    simp only [Store.ins]
    split
    · rename_i hlt
      simp only [Store.above, Bool.and_eq_true]
      refine ⟨⟨?_, by simpa using hv⟩, ⟨by simpa using hlt, h.1.2⟩, h.2⟩
      cases lo <;> simp_all
    · rename_i hlt
      simp only [Store.above, Bool.and_eq_true]
      refine ⟨h.1, ih (fun q hq => hk q (List.mem_cons_of_mem _ hq)) _ ?_ h.2⟩
      intro l hl'
      have := hk p List.mem_cons_self
      simp only [Option.mem_def, Option.some.injEq] at hl'
      omega

omit [DecidableEq β] in
theorem Store.mem_del {m : List (Nat × β)} {k : Nat} : ∀ p ∈ Store.del m k, p.1 ≠ k := by
  induction m with
  | nil => intro p h; cases h
  | cons q t ih =>
    intro p h
    simp only [Store.del] at h
    split at h
    · exact ih p h
    · rename_i e
      rcases List.mem_cons.mp h with rfl | h
      · exact fun h => e h.symm
      · exact ih p h

/-- A write keeps the canonical form. -/
theorem Store.wf_put (d : Nat → β) (m : List (Nat × β)) (k : Nat) (v : β) (h : Store.wf d m = true) :
    Store.wf d (Store.put d m k v) = true := by
  have h1 := Store.above_del d m k none h
  unfold Store.put
  split
  · exact h1
  · rename_i hv
    exact Store.above_ins d _ k v hv Store.mem_del none (by simp) h1

theorem Store.above_mono (d : Nat → β) (m : List (Nat × β)) :
    ∀ lo hi : Option Nat, (∀ l ∈ lo, ∃ h ∈ hi, l ≤ h) → Store.above d hi m = true → Store.above d lo m = true := by
  intro lo hi hle h
  cases m with
  | nil => rfl
  | cons p t =>
    simp only [Store.above, Bool.and_eq_true] at h ⊢
    refine ⟨⟨?_, h.1.2⟩, h.2⟩
    cases lo with
    | none => rfl
    | some l =>
      obtain ⟨b, hb, hl⟩ := hle l rfl
      simp only [Option.mem_def] at hb
      subst hb
      have := h.1.1
      simp only [decide_eq_true_eq] at this ⊢
      omega

/-- Leaving entries out keeps the canonical form. -/
theorem Store.above_filter (d : Nat → β) (f : Nat × β → Bool) (m : List (Nat × β)) :
    ∀ lo, Store.above d lo m = true → Store.above d lo (m.filter f) = true := by
  induction m with
  | nil => intro lo h; exact h
  | cons p t ih =>
    intro lo h
    simp only [Store.above, Bool.and_eq_true] at h
    by_cases hf : f p = true
    · simp only [List.filter_cons_of_pos hf, Store.above, Bool.and_eq_true]
      exact ⟨h.1, ih _ h.2⟩
    · rw [List.filter_cons_of_neg hf]
      refine ih _ (Store.above_mono d t lo (some p.1) ?_ h.2)
      intro l hl
      simp only [Option.mem_def] at hl
      subst hl
      have := h.1.1
      simp only [decide_eq_true_eq] at this
      exact ⟨p.1, rfl, by omega⟩

theorem Store.wf_filter (d : Nat → β) (f : Nat × β → Bool) (m : List (Nat × β)) (h : Store.wf d m = true) :
    Store.wf d (m.filter f) = true := Store.above_filter d f m none h

omit [DecidableEq β]

@[simp] theorem Tbl.length_mod (l : List β) (i : Nat) (f : β → β) : (Tbl.mod l i f).length = l.length := by
  induction l generalizing i with
  | nil => rfl
  | cons a t ih => cases i <;> simp [Tbl.mod, ih]

/-- An element of a changed table is an element of the table, or the change of one. -/
theorem Tbl.mem_mod {l : List β} {i : Nat} {f : β → β} {x : β} (h : x ∈ Tbl.mod l i f) : x ∈ l ∨ ∃ y ∈ l, x = f y := by
  induction l generalizing i with
  | nil => cases h
  | cons a t ih =>
    cases i with
    | zero =>
      rcases List.mem_cons.mp h with h | h
      · exact .inr ⟨a, List.mem_cons_self, h⟩
      · exact .inl (List.mem_cons_of_mem _ h)
    | succ i =>
      rcases List.mem_cons.mp h with h | h
      · exact .inl (h ▸ List.mem_cons_self)
      · rcases ih h with h | ⟨y, hy, h⟩
        · exact .inl (List.mem_cons_of_mem _ h)
        · exact .inr ⟨y, List.mem_cons_of_mem _ hy, h⟩

theorem Tbl.all_mod {P : β → Prop} {l : List β} (i : Nat) {f : β → β} (h : ∀ x ∈ l, P x) (hf : ∀ x, P x → P (f x)) :
    ∀ x ∈ Tbl.mod l i f, P x := by
  intro x hx
  rcases Tbl.mem_mod hx with hx | ⟨y, hy, rfl⟩
  · exact h x hx
  · exact hf y (h y hy)

theorem Tbl.get_mod_same (d : β) (l : List β) (i : Nat) (f : β → β) (h : i < l.length) :
    Tbl.get d (Tbl.mod l i f) i = f (Tbl.get d l i) := by
  induction l generalizing i with
  | nil => exact absurd h (by simp)
  | cons a t ih =>
    cases i with
    | zero => rfl
    | succ i => exact ih i (by simpa using h)

theorem Tbl.get_mod_other (d : β) (l : List β) {i j : Nat} (f : β → β) (h : j ≠ i) :
    Tbl.get d (Tbl.mod l i f) j = Tbl.get d l j := by
  induction l generalizing i j with
  | nil => rfl
  | cons a t ih =>
    cases i with
    | zero => cases j with
      | zero => exact absurd rfl h
      | succ j => rfl
    | succ i => cases j with
      | zero => rfl
      | succ j => exact ih (by omega)

variable {κ : Type} [DecidableEq κ]

@[simp] theorem Assoc.get_put_same (m : List (κ × β)) (k : κ) (v : β) : Assoc.get (Assoc.put m k v) k = some v := by
  induction m with
  | nil => simp [Assoc.put, Assoc.get]
  | cons p t ih =>
    simp only [Assoc.put]
    split
    · simp [Assoc.get]
    · rename_i h; simp [Assoc.get, h, ih]

theorem Assoc.get_put_other (m : List (κ × β)) {k j : κ} (v : β) (h : j ≠ k) :
    Assoc.get (Assoc.put m k v) j = Assoc.get m j := by
  induction m with
  | nil => simp [Assoc.put, Assoc.get, h]
  | cons p t ih =>
    simp only [Assoc.put]
    split
    · rename_i e; simp [Assoc.get, h, ← e]
    · simp [Assoc.get, ih]

end Sys2Proof.Machine
end

