-- ==== Sys2Proof/Laws/Does.lean ====
section
/-!
SUPPORT. What an operation can do at most: the fields of the state that it changes, and that it keeps the invariant. One
such lemma per operation follows in the files of this folder, each from those of the operations it calls.
-/

-- One proof after the other: as one text the package would otherwise ask for more threads than there is memory for.
set_option Elab.async false

namespace Sys2Proof.Machine

/-- From `s` to `t` only the parts `l` change, and the invariant stays. -/
def Does (l : List Field) (s t : State) : Prop := Only l s t ∧ (s.Inv → t.Inv)

/-- The part is among `l`, or a part of all registers that is. -/
def Field.within (l : List Field) (k : Field) : Bool :=
  decide (k ∈ l) || (match k with | .reg _ _ | .faults => decide (.regs ∈ l) | _ => false)

/-- Every part of `k` is within `l`. -/
def fits (k l : List Field) : Bool := k.all (fun x => x.within l)

variable {l k : List Field} {s t u : State}

theorem Field.mem_of_within {x : Field} (h : x.within l = true) : x ∈ l ∨ (.regs ∈ l ∧ ((∃ b d, x = .reg b d) ∨ x = .faults)) := by
  unfold Field.within at h
  rcases (Bool.or_eq_true _ _).mp h with h | h
  · exact .inl (of_decide_eq_true h)
  · cases x <;> first | exact absurd h Bool.false_ne_true | exact .inr ⟨of_decide_eq_true h, .inl ⟨_, _, rfl⟩⟩ |
      exact .inr ⟨of_decide_eq_true h, .inr rfl⟩

theorem Field.within_trans {x : Field} (h : x.within k = true) (hk : fits k l = true) : x.within l = true := by
  rcases Field.mem_of_within h with h | ⟨h, h'⟩
  · exact List.all_eq_true.mp hk x h
  · have hr : (.regs : Field) ∈ l := by
      rcases Field.mem_of_within (List.all_eq_true.mp hk _ h) with h | ⟨h, -⟩ <;> exact h
    rcases h' with ⟨b, d, rfl⟩ | rfl <;> simp [Field.within, hr]

theorem fits_trans {j : List Field} (h : fits j k = true) (hk : fits k l = true) : fits j l = true :=
  List.all_eq_true.mpr (fun x hx => Field.within_trans (List.all_eq_true.mp h x hx) hk)

theorem Only.refl (l : List Field) (s : State) : Only l s s :=
  ⟨fun k _ => by cases k <;> first | rfl | trivial, fun _ _ => rfl⟩

theorem Only.trans (h : Only l s t) (h' : Only l t u) : Only l s u := by
  refine ⟨fun k hk => ?_, fun a ha => (h'.2 a ha).trans (h.2 a ha)⟩
  have a := h.1 k hk
  have b := h'.1 k hk
  cases k <;> first | exact Eq.trans b a | trivial

theorem Only.weaken (h : Only k s t) (hk : fits k l = true) : Only l s t := by
  refine ⟨fun x hx => ?_, fun a ha => h.2 a (fun x hx hh => ?_)⟩
  · by_cases hm : x ∈ k
    · rcases Field.mem_of_within (List.all_eq_true.mp hk x hm) with h | ⟨-, ⟨b, d, rfl⟩ | rfl⟩
      · exact absurd h hx
      · trivial
      · trivial
    · exact h.1 x hm
  · rcases Field.mem_of_within (List.all_eq_true.mp hk x hx) with h | ⟨h, -⟩
    · exact ha x h hh
    · exact ha _ h trivial

theorem Does.refl (l : List Field) (s : State) : Does l s s := ⟨Only.refl l s, id⟩

theorem Does.weaken (h : Does k s t) (hk : fits k l = true) : Does l s t :=
  ⟨h.1.weaken hk, h.2⟩

theorem Does.trans (h : Does l s t) (h' : Does l t u) : Does l s u := ⟨h.1.trans h'.1, fun x => h'.2 (h.2 x)⟩

/-- One more operation after what has been done. -/
theorem Does.step (h : Does k t u) (hk : fits k l = true) (h' : Does l s t) : Does l s u :=
  h'.trans (h.weaken hk)

/-- Give an intermediate state a name, keeping what was done up to it. -/
theorem Does.bind {P : Prop} {x e : State} (hx : x = e) (h : Does l s e) (hp : Does l s x → P) : P := hp (hx ▸ h)

theorem Does.bindSnd {P : Prop} {α : Type} {x e : α × State} (hx : x = e) (h : Does l s e.2) (hp : Does l s x.2 → P) : P :=
  hp (hx ▸ h)

theorem Does.bindFst {P : Prop} {α : Type} {x e : State × α} (hx : x = e) (h : Does l s e.1) (hp : Does l s x.1 → P) : P :=
  hp (hx ▸ h)

theorem Does.bindThird {P : Prop} {α β : Type} {x e : α × β × State} (hx : x = e) (h : Does l s e.2.2)
    (hp : Does l s x.2.2 → P) : P := hp (hx ▸ h)

theorem Does.bindFun {P : Prop} {x e : State → State} (hx : x = e) (h : ∀ s, Does l s (e s))
    (hp : (∀ s, Does l s (x s)) → P) : P := hp (hx ▸ h)

theorem Does.bindFun2 {P : Prop} {α : Type} {x e : State → α → State} (hx : x = e) (h : ∀ s a, Does l s (e s a))
    (hp : (∀ s a, Does l s (x s a)) → P) : P := hp (hx ▸ h)

theorem Does.bindFun2' {P : Prop} {α : Type} {x e : α → State → State} (hx : x = e) (h : ∀ a s, Does l s (e a s))
    (hp : (∀ a s, Does l s (x a s)) → P) : P := hp (hx ▸ h)

theorem Does.bindFun3 {P : Prop} {α β : Type} {x e : State → α → β → State} (hx : x = e) (h : ∀ s a b, Does l s (e s a b))
    (hp : (∀ s a b, Does l s (x s a b)) → P) : P := hp (hx ▸ h)

/-- The state in a pair, a triple and so on, that a match took apart. -/
theorem Does.ofPair {α : Type} {e : α × State} {a : α} {x : State} (h : e = (a, x)) (h1 : Does l s e.2) : Does l s x := by
  subst h; exact h1

theorem Does.ofTriple {α β : Type} {e : α × β × State} {a : α} {b : β} {x : State} (h : e = (a, b, x))
    (h1 : Does l s e.2.2) : Does l s x := by
  subst h; exact h1

theorem Does.ofFour {α β γ : Type} {e : α × β × γ × State} {a : α} {b : β} {c : γ} {x : State} (h : e = (a, b, c, x))
    (h1 : Does l s e.2.2.2) : Does l s x := by
  subst h; exact h1

theorem Does.ofFive {α β γ δ : Type} {e : α × β × γ × δ × State} {a : α} {b : β} {c : γ} {d : δ} {x : State}
    (h : e = (a, b, c, d, x)) (h1 : Does l s e.2.2.2.2) : Does l s x := by
  subst h; exact h1

theorem Does.ite {c : Prop} [Decidable c] (h : Does l s t) (h' : Does l s u) : Does l s (if c then t else u) := by
  split <;> assumption

theorem Does.iteSnd {α : Type} {c : Prop} [Decidable c] {x y : α × State} (h : Does l s x.2) (h' : Does l s y.2) :
    Does l s (if c then x else y).2 := by
  split <;> assumption

/-! ### One field at a time -/

theorem Does.ofOnly (h : ∀ k, k ∉ l → k.same s t) (hr : ∀ a, (∀ k ∈ l, ¬k.has a) → t.word a = s.word a)
    (hi : s.Inv → t.Inv) : Does l s t := ⟨⟨h, hr⟩, hi⟩

theorem Does.waiting (s : State) (x : List (Nat × Word)) : Does [.waiting] s { s with waiting := x } := by
  refine ⟨⟨?_, fun _ _ => rfl⟩, fun h => { h with }⟩
  rintro ⟨⟩ hk <;> first | rfl | trivial | exact absurd List.mem_cons_self hk

theorem Does.latched (s : State) (x : List ((Path × Nat) × Word)) : Does [.latched] s { s with latched := x } := by
  refine ⟨⟨?_, fun _ _ => rfl⟩, fun h => { h with }⟩
  rintro ⟨⟩ hk <;> first | rfl | trivial | exact absurd List.mem_cons_self hk

theorem Does.clk (s : State) (x : Clk) : Does [.clk] s { s with clk := x } := by
  refine ⟨⟨?_, fun _ _ => rfl⟩, fun h => { h with }⟩
  rintro ⟨⟩ hk <;> first | rfl | trivial | exact absurd List.mem_cons_self hk

theorem Does.sys (s : State) (x : Sys) : Does [.sys] s { s with sys := x } := by
  refine ⟨⟨?_, fun _ _ => rfl⟩, fun h => { h with }⟩
  rintro ⟨⟩ hk <;> first | rfl | trivial | exact absurd List.mem_cons_self hk

theorem Does.keep (s : State) (x : Keep) : Does [.keep] s { s with keep := x } := by
  refine ⟨⟨?_, fun _ _ => rfl⟩, fun h => { h with }⟩
  rintro ⟨⟩ hk <;> first | rfl | trivial | exact absurd List.mem_cons_self hk

theorem Does.reel (s : State) (x : Reel) : Does [.reel] s { s with reel := x } := by
  refine ⟨⟨?_, fun _ _ => rfl⟩, fun h => { h with }⟩
  rintro ⟨⟩ hk <;> first | rfl | trivial | exact absurd List.mem_cons_self hk

theorem Does.intg (s : State) (x : Intg) : Does [.intg] s { s with intg := x } := by
  refine ⟨⟨?_, fun _ _ => rfl⟩, fun h => { h with }⟩
  rintro ⟨⟩ hk <;> first | rfl | trivial | exact absurd List.mem_cons_self hk

theorem Does.mgt (s : State) (x : Mgt) : Does [.mgt] s { s with mgt := x } := by
  refine ⟨⟨?_, fun _ _ => rfl⟩, fun h => { h with }⟩
  rintro ⟨⟩ hk <;> first | rfl | trivial | exact absurd List.mem_cons_self hk

theorem Does.spi (s : State) (x : Spi) : Does [.spi] s { s with spi := x } := by
  refine ⟨⟨?_, fun _ _ => rfl⟩, fun h => { h with }⟩
  rintro ⟨⟩ hk <;> first | rfl | trivial | exact absurd List.mem_cons_self hk

theorem Does.modg (s : State) (x : ModG) : Does [.modg] s { s with modg := x } := by
  refine ⟨⟨?_, fun _ _ => rfl⟩, fun h => { h with }⟩
  rintro ⟨⟩ hk <;> first | rfl | trivial | exact absurd List.mem_cons_self hk

theorem Does.pwr (s : State) (x : Pwr) : Does [.pwr] s { s with pwr := x } := by
  refine ⟨⟨?_, fun _ _ => rfl⟩, fun h => { h with }⟩
  rintro ⟨⟩ hk <;> first | rfl | trivial | exact absurd List.mem_cons_self hk

theorem Does.queues (s : State) (x : List (Xing × List Msg)) : Does [.queues] s { s with queues := x } := by
  refine ⟨⟨?_, fun _ _ => rfl⟩, fun h => { h with }⟩
  rintro ⟨⟩ hk <;> first | rfl | trivial | exact absurd List.mem_cons_self hk

theorem Does.flashFlaws (s : State) (x : List (Nat × FlashFlaw)) : Does [.flashFlaws] s { s with flashFlaws := x } := by
  refine ⟨⟨?_, fun _ _ => rfl⟩, fun h => { h with }⟩
  rintro ⟨⟩ hk <;> first | rfl | trivial | exact absurd List.mem_cons_self hk

theorem Does.drawn (s : State) (x : Nat) : Does [.drawn] s { s with drawn := x } := by
  refine ⟨⟨?_, fun _ _ => rfl⟩, fun h => { h with }⟩
  rintro ⟨⟩ hk <;> first | rfl | trivial | exact absurd List.mem_cons_self hk

theorem Does.pending (s : State) (x : List Instr) : Does [.pending] s { s with pending := x } := by
  refine ⟨⟨?_, fun _ _ => rfl⟩, fun h => { h with }⟩
  rintro ⟨⟩ hk <;> first | rfl | trivial | exact absurd List.mem_cons_self hk

/-- A register written. -/
theorem State.setWord_does (s : State) (a : Nat) (v : Word) {x : Field} (h : x.has a) : Does [x] s (s.setWord a v) := by
  refine ⟨⟨?_, fun b hb => ?_⟩, fun i => { i with regs := Store.wf_put _ _ _ _ i.regs }⟩
  · cases x <;> first | exact h.elim | (rintro ⟨⟩ hk <;> first | rfl | trivial)
  · refine Store.get_put_other _ _ _ (fun e => hb x List.mem_cons_self (e ▸ h))

theorem State.put_does (s : State) (f : Fld) (v : Nat) {x : Field} (h : x.has f.addr) : Does [x] s (s.put f v) :=
  s.setWord_does _ _ h

theorem State.putBit_does (s : State) (f : Fld) (i : Nat) (b : Bool) {x : Field} (h : x.has f.addr) :
    Does [x] s (s.putBit f i b) := s.setWord_does _ _ h

theorem State.bump_does (s : State) (f : Fld) (n : Nat) {x : Field} (h : x.has f.addr) : Does [x] s (s.bump f n) :=
  s.setWord_does _ _ h

theorem State.incr_does (s : State) (f : Fld) {x : Field} (h : x.has f.addr) : Does [x] s (s.incr f) :=
  s.setWord_does _ _ h

theorem Field.has_one (a : Nat) : (Field.one a).has a := ⟨0, by omega⟩

theorem Field.has_row (f : Nat → Nat) {b d : Nat} (h : ∀ n, f n = b + d * n) (n : Nat) : (Field.row f).has (f n) :=
  ⟨n, by rw [h, h, h]; simp⟩

theorem Does.flash (s : State) (x : List Host.Cell) (h1 : Store.wf (fun _ => (0xFF : Byte)) s.flash = true → Store.wf (fun _ => (0xFF : Byte)) x = true) :
    Does [.flash] s { s with flash := x } := by
  refine ⟨⟨?_, fun _ _ => rfl⟩, fun h => { h with flash := h1 h.flash }⟩
  rintro ⟨⟩ hk <;> first | rfl | trivial | exact absurd List.mem_cons_self hk

theorem Does.engs (s : State) (x : List Eng) (h1 : x.length = s.engs.length) (h2 : (∀ g ∈ s.engs, g.Shaped) → ∀ g ∈ x, g.Shaped) :
    Does [.engs] s { s with engs := x } := by
  refine ⟨⟨?_, fun _ _ => rfl⟩, fun h => { h with engs := h1.trans h.engs, eng := h2 h.eng }⟩
  rintro ⟨⟩ hk <;> first | rfl | trivial | exact absurd List.mem_cons_self hk

theorem Does.mods (s : State) (x : List ModAx) (h1 : x.length = s.mods.length) (h2 : (∀ m ∈ s.mods, m.Shaped) → ∀ m ∈ x, m.Shaped) :
    Does [.mods] s { s with mods := x } := by
  refine ⟨⟨?_, fun _ _ => rfl⟩, fun h => { h with mods := h1.trans h.mods, mod := h2 h.mod }⟩
  rintro ⟨⟩ hk <;> first | rfl | trivial | exact absurd List.mem_cons_self hk

theorem Does.mots (s : State) (x : List MotAx) (h1 : x.length = s.mots.length) :
    Does [.mots] s { s with mots := x } := by
  refine ⟨⟨?_, fun _ _ => rfl⟩, fun h => { h with mots := h1.trans h.mots }⟩
  rintro ⟨⟩ hk <;> first | rfl | trivial | exact absurd List.mem_cons_self hk

theorem Does.mem (s : State) (x : Mem) (h1 : x.cells = s.mem.cells) (h2 : x.banks.length = s.mem.banks.length) :
    Does [.mem] s { s with mem := x } := by
  refine ⟨⟨?_, fun _ _ => rfl⟩, fun h => { h with cells := by have := h.cells; unfold Memory.wf at *; rw [← h1] at this; exact this, banks := h2.trans h.banks }⟩
  rintro ⟨⟩ hk <;> first | rfl | trivial | exact h1 | exact absurd List.mem_cons_self hk

theorem Does.memCells (s : State) (x : Mem) (h1 : Store.wf (fun _ => (0 : Byte)) s.mem.cells = true → Store.wf (fun _ => (0 : Byte)) x.cells = true)
    (h2 : x.banks.length = s.mem.banks.length) : Does [.mem, .cells] s { s with mem := x } := by
  refine ⟨⟨?_, fun _ _ => rfl⟩, fun h => { h with cells := h1 h.cells, banks := h2.trans h.banks }⟩
  rintro ⟨⟩ hk <;> first | rfl | trivial | exact absurd (by decide) hk

theorem Does.can (s : State) (x : Can) (h1 : x.tbs.length = s.can.tbs.length) (h2 : x.rbs.length = s.can.rbs.length) (h3 : s.can.entries.length = 32 → x.entries.length = 32) :
    Does [.can] s { s with can := x } := by
  refine ⟨⟨?_, fun _ _ => rfl⟩, fun h => { h with tbs := h1.trans h.tbs, rbs := h2.trans h.rbs, entries := h3 h.entries }⟩
  rintro ⟨⟩ hk <;> first | rfl | trivial | exact absurd List.mem_cons_self hk

theorem Does.pos (s : State) (x : Pos) (h1 : x.si.length = s.pos.si.length) (h2 : x.qd.length = s.pos.qd.length) (h3 : x.sn.length = s.pos.sn.length) (h4 : x.ee.length = s.pos.ee.length) :
    Does [.pos] s { s with pos := x } := by
  refine ⟨⟨?_, fun _ _ => rfl⟩, fun h => { h with si := h1.trans h.si, qd := h2.trans h.qd, sn := h3.trans h.sn, ee := h4.trans h.ee }⟩
  rintro ⟨⟩ hk <;> first | rfl | trivial | exact absurd List.mem_cons_self hk

theorem Does.adc (s : State) (x : Adc) (h1 : x.cores.length = s.adc.cores.length) (h2 : x.units.length = s.adc.units.length) :
    Does [.adc] s { s with adc := x } := by
  refine ⟨⟨?_, fun _ _ => rfl⟩, fun h => { h with cores := h1.trans h.cores, units := h2.trans h.units }⟩
  rintro ⟨⟩ hk <;> first | rfl | trivial | exact absurd List.mem_cons_self hk

theorem Does.chn (s : State) (x : Chn) (h1 : x.devs.length = s.chn.devs.length) :
    Does [.chn] s { s with chn := x } := by
  refine ⟨⟨?_, fun _ _ => rfl⟩, fun h => { h with devs := h1.trans h.devs }⟩
  rintro ⟨⟩ hk <;> first | rfl | trivial | exact absurd List.mem_cons_self hk

/-- Every element of a list in turn. -/
theorem State.each_does {β : Type} {m : List β} {f : State → β → State} (h : ∀ s b, Does l s (f s b)) (h' : Does l s t) :
    Does l s (t.each m f) := by
  unfold State.each
  induction m generalizing t with
  | nil => exact h'
  | cons b m ih => exact ih (h'.trans (h t b))

theorem State.when_does {b : Bool} {f : State → State} (h : ∀ s, Does l s (f s)) (h' : Does l s t) :
    Does l s (t.when b f) := by
  unfold State.when
  split
  · exact h'.trans (h t)
  · exact h'

/-- The same of an operation that may not apply. -/
def DoesOpt (l : List Field) (s : State) (o : Option State) : Prop := ∀ t, o = some t → Does l s t

theorem DoesOpt.some (h : Does l s t) : DoesOpt l s (some t) := by
  rintro u ⟨⟩
  exact h

theorem DoesOpt.none : DoesOpt l s none := by rintro u ⟨⟩

theorem DoesOpt.ite {c : Prop} [Decidable c] {x y : Option State} (h : DoesOpt l s x) (h' : DoesOpt l s y) :
    DoesOpt l s (if c then x else y) := by
  split <;> assumption

theorem DoesOpt.map {α : Type} {o : Option α} {f : α → State} (h : ∀ a, Does l s (f a)) : DoesOpt l s (o.map f) := by
  intro t ht
  obtain ⟨a, -, rfl⟩ := Option.map_eq_some_iff.mp ht
  exact h a

/-- A list folded over the state. -/
theorem Does.foldl {β : Type} {m : List β} {f : State → β → State} (h : ∀ s b, Does l s (f s b)) (h' : Does l s t) :
    Does l s (m.foldl f t) := by
  induction m generalizing t with
  | nil => exact h'
  | cons b m ih => exact ih (h'.trans (h t b))

theorem Does.foldlSnd {α β : Type} {m : List β} {f : α × State → β → α × State} {r : α × State}
    (h : ∀ r b, Does l r.2 (f r b).2) (h' : Does l s r.2) : Does l s (m.foldl f r).2 := by
  induction m generalizing r with
  | nil => exact h'
  | cons b m ih => exact ih (h'.trans (h r b))

/-! ### Registers outside a frame -/

/-- The register at `a` is a fault register. -/
def faultAddr (a : Nat) : Bool :=
  [SYS_FAULT, CLK_FAULT, REEL_FAULT, ENG_FAULT, CAM_FAULT, MOD_FAULT, PWR_FAULT, LAS_FAULT, POS_FAULT, ADC_FAULT,
    CAN_FAULT, SPI_FAULT, MEM_FAULT, INT_FAULT, MGT_FAULT, CHN_FAULT, GPM_FAULT].any (fun r => a == r || a == r + 4)
    || (decide (AX_FAULT 0 ≤ a) && ((a - AX_FAULT 0) % 0x100 == 0 || (a - AX_FAULT 0) % 0x100 == 4))

/-- `Field.has`, computed. -/
def Field.covers (k : Field) (a : Nat) : Bool :=
  match k with
  | .regs => true
  | .reg b d => decide (b ≤ a) && (if d = 0 then a == b else (a - b) % d == 0)
  | .faults => faultAddr a
  | _ => false

theorem faultAddr_of {b u : Nat} : faultAddr (faultReg b u) = true ∧ faultAddr (faultReg b u + 4) = true := by
  unfold faultReg
  split
  case h_5 =>
    have e : AX_FAULT u = AX_FAULT 0 + 0x100 * u := by simp [AX_FAULT]
    constructor <;> (rw [faultAddr, Bool.or_eq_true]; right; simp [e]; try omega)
  all_goals exact ⟨by decide, by decide⟩

theorem Field.covers_of_has {k : Field} {a : Nat} (h : k.has a) : k.covers a = true := by
  cases k
  case reg b d =>
    obtain ⟨n, rfl⟩ := h
    by_cases hd : d = 0 <;> simp [Field.covers, hd]
  case faults =>
    obtain ⟨b, u, rfl | rfl⟩ := h
    · exact faultAddr_of.1
    · exact faultAddr_of.2
  case regs => rfl
  all_goals exact h.elim

/-- A register outside what an operation may change reads as before. -/
theorem Only.word (h : Only l s t) {a : Nat} (ha : l.all (fun k => !k.covers a) = true) : t.word a = s.word a :=
  h.2 a (fun k hk hh => by simpa [Field.covers_of_has hh] using List.all_eq_true.mp ha k hk)

theorem Does.word (h : Does l s t) {a : Nat} (ha : l.all (fun k => !k.covers a) = true) : t.word a = s.word a := h.1.word ha

theorem Does.fld (h : Does l s t) {f : Fld} (ha : l.all (fun k => !k.covers f.addr) = true) : t.fld f = s.fld f := by
  unfold State.fld
  rw [h.word ha]

theorem Does.flag (h : Does l s t) {f : Fld} (ha : l.all (fun k => !k.covers f.addr) = true) : t.flag f = s.flag f := by
  unfold State.flag
  rw [h.fld ha]

end Sys2Proof.Machine
end

