-- ==== Sys2Proof/Laws/Ops.lean ====
section
/-!
SUPPORT. What each operation of Sys2Proof/Machine/Ops.lean can do at most.
-/

-- One proof after the other: as one text the package would otherwise ask for more threads than there is memory for.
set_option Elab.async false
namespace Sys2Proof.Machine

theorem State.await_does (s a v) : Does [.waiting] s (State.await s a v) := by
  unfold State.await
  repeat' with_reducible first
    | assumption
    | decide
    | exact Does.refl _ _
    | (intro x; first | (have _h : State := x; clear _h; clear_value (hx : x = _); refine Does.bind (l := [.waiting]) (s := s) hx ?_ (fun _ => ?_)) | clear_value x)
    | lift_lets
    | (apply Does.step; on_goal 1 => first | apply Does.waiting)
    | dsimp only

theorem State.advanceTo_does (s t) : Does [.clk] s (State.advanceTo s t) := by
  unfold State.advanceTo
  repeat' with_reducible first
    | assumption
    | decide
    | exact Does.refl _ _
    | (intro x; first | (have _h : State := x; clear _h; clear_value (hx : x = _); refine Does.bind (l := [.clk]) (s := s) hx ?_ (fun _ => ?_)) | clear_value x)
    | lift_lets
    | refine Does.ite ?_ ?_
    | refine Does.iteSnd ?_ ?_
    | (apply Does.step; on_goal 1 => first | apply Does.clk)
    | dsimp only

theorem State.draw_does (s) : Does [.drawn] s (State.draw s).2 := by
  unfold State.draw
  repeat' with_reducible first
    | assumption
    | decide
    | exact Does.refl _ _
    | (intro x; first | (have _h : State := x; clear _h; clear_value (hx : x = _); refine Does.bind (l := [.drawn]) (s := s) hx ?_ (fun _ => ?_)) | clear_value x)
    | lift_lets
    | (apply Does.step; on_goal 1 => first | apply Does.drawn)
    | dsimp only

theorem State.modEng_does (s e) {f : Eng → Eng} (hf : ∀ g, g.Shaped → (f g).Shaped) : Does [.engs] s (State.modEng s e f) :=
  Does.engs s _ (by simp) (fun h => Tbl.all_mod e h hf)

theorem State.setQueue_does (s x l) : Does [.queues] s (State.setQueue s x l) := by
  unfold State.setQueue
  repeat' with_reducible first
    | assumption
    | decide
    | exact Does.refl _ _
    | (intro x; first | (have _h : State := x; clear _h; clear_value (hx : x = _); refine Does.bind (l := [.queues]) (s := s) hx ?_ (fun _ => ?_)) | clear_value x)
    | lift_lets
    | refine Does.ite ?_ ?_
    | refine Does.iteSnd ?_ ?_
    | (apply Does.step; on_goal 1 => first | apply Does.queues)
    | dsimp only

end Sys2Proof.Machine
end

