-- ==== Sys2Proof/Laws/Flags.lean ====
section
/-!
SUPPORT. What each operation of Sys2Proof/Machine/Flags.lean can do at most.
-/

-- One proof after the other: as one text the package would otherwise ask for more threads than there is memory for.
set_option Elab.async false
namespace Sys2Proof.Machine

theorem State.pushRec_does (s r) : Does [.one MGT_LOG_STAT, .mgt] s (State.pushRec s r).2 := by
  unfold State.pushRec
  repeat' with_reducible first
    | assumption
    | decide
    | exact Does.refl _ _
    | (intro x; first | (have _h : State := x; clear _h; clear_value (hx : x = _); refine Does.bind (l := [.one MGT_LOG_STAT, .mgt]) (s := s) hx ?_ (fun _ => ?_)) | clear_value x)
    | lift_lets
    | (apply Does.step; on_goal 1 => first | exact State.bump_does _ MGT_LOG_STAT.DROPPED _ (by with_unfolding_all exact Field.has_one MGT_LOG_STAT))
    | refine Does.ite ?_ ?_
    | refine Does.iteSnd ?_ ?_
    | (apply Does.step; on_goal 1 => first | apply Does.mgt)
    | dsimp only

theorem State.setFault_does (s flagReg bit codeReg unitBits code unit) (h : Field.faults.has flagReg)
    (h' : Field.faults.has codeReg) : Does [.faults, .can] s (State.setFault s flagReg bit codeReg unitBits code unit) := by
  unfold State.setFault
  exact Does.step (Does.can _ _ rfl rfl id) rfl (Does.step (State.bump_does _ _ _ h') rfl (Does.step (State.put_does _ _ _ h') rfl
    (Does.step (State.put_does _ _ _ h') rfl (Does.weaken (State.setWord_does _ _ _ h) rfl))))

theorem State.setRecent_does (s r) : Does [.mgt] s (State.setRecent s r) := by
  unfold State.setRecent
  repeat' with_reducible first
    | assumption
    | decide
    | exact Does.refl _ _
    | (intro x; first | (have _h : State := x; clear _h; clear_value (hx : x = _); refine Does.bind (l := [.mgt]) (s := s) hx ?_ (fun _ => ?_)) | clear_value x)
    | lift_lets
    | (apply Does.step; on_goal 1 => first | apply Does.mgt)
    | dsimp only

theorem State.faultRec_does {l s} {enter : State → LogRec → Bool × State} {code aux} (h : ∀ s r, Does l s (enter s r).2)
    (hk : fits [Field.mgt] l = true) : Does l s (State.faultRec s enter code aux) := by
  unfold State.faultRec
  repeat' first
    | assumption
    | exact h _ _
    | (intro x; first | (have _h : _ × State := x; clear _h; clear_value (hx : x = _); refine Does.bindSnd (l := l) (s := s) hx ?_ (fun _ => ?_)) | clear_value x)
    | refine Does.step (State.setRecent_does ..) hk ?_
    | refine Does.ite ?_ ?_
    | exact Does.refl _ _
    | lift_lets

theorem State.enterRec_does (s r) : Does [.one MGT_LOG_STAT, .faults, .mgt, .can] s (State.enterRec s r).2 := by
  have p := fun s r => Does.weaken (l := [.one MGT_LOG_STAT, .faults, .mgt, .can]) (State.pushRec_does s r) rfl
  unfold State.enterRec
  refine Does.iteSnd (Does.refl _ _) (Does.iteSnd (p ..) ?_)
  refine Does.trans (Does.trans ?_ (State.faultRec_does (s := State.setFault _ MGT_FAULT 1 MGT_FAULT_CODE 0 0x1002 0) p rfl)) (p ..)
  refine Does.trans ?_ (Does.weaken (State.setFault_does _ MGT_FAULT _ MGT_FAULT_CODE _ _ _ ⟨0x10, 0, .inl rfl⟩ ⟨0x10, 0, .inr rfl⟩) rfl)
  exact Does.trans (Does.weaken (Does.mgt _ _) rfl) (p ..)

theorem State.logRec_does (s r) : Does [.one MGT_LOG_STAT, .faults, .mgt, .can] s (State.logRec s r) := by
  unfold State.logRec
  repeat' with_reducible first
    | assumption
    | decide
    | exact Does.refl _ _
    | (apply Does.step; on_goal 1 => first | apply State.enterRec_does)
    | dsimp only

theorem State.logFault_does (s code aux) : Does [.one MGT_LOG_STAT, .faults, .mgt, .can] s (State.logFault s code aux) := by
  unfold State.logFault
  repeat' with_reducible first
    | assumption
    | decide
    | exact Does.refl _ _
    | (apply Does.step; on_goal 1 => first | refine State.faultRec_does (l := [.one MGT_LOG_STAT, .faults, .mgt, .can]) (fun s r => (by first | exact Does.weaken (State.pushRec_does ..) (by decide) | exact Does.weaken (State.enterRec_does ..) (by decide))) (by decide) | apply State.enterRec_does)
    | dsimp only

theorem State.raise_does (s code unit) : Does [.one MGT_LOG_STAT, .faults, .reel, .mgt, .can] s (State.raise s code unit) := by
  unfold State.raise
  refine Does.step (State.logFault_does ..) rfl ?_
  have h := State.setFault_does s (faultReg (code / 256) unit) (code % 256 - 1 + (if code / 256 = 0x12 then 16 else 0))
    (faultReg (code / 256) unit + 4) (faultUnitBits (code / 256)) code unit ⟨_, _, .inl rfl⟩ ⟨_, _, .inr rfl⟩
  exact Does.ite (Does.step (Does.reel _ _) rfl (Does.weaken h rfl)) (Does.weaken h rfl)

theorem State.launch_does (s x m) : Does [.one CLK_CUT_ERR, .one MGT_LOG_STAT, .faults, .reel, .mgt, .can, .queues] s (State.launch s x m) := by
  unfold State.launch
  repeat' with_reducible first
    | assumption
    | decide
    | exact Does.refl _ _
    | (apply Does.step; on_goal 1 => first | exact State.bump_does _ CLK_CUT_ERR.QOVF_CNT _ (by with_unfolding_all exact Field.has_one CLK_CUT_ERR) | apply State.raise_does | apply State.setQueue_does)
    | refine Does.ite ?_ ?_
    | refine Does.iteSnd ?_ ?_
    | dsimp only

theorem State.enter_does (s m cause) : Does [.one SYS_MODE, .one MGT_LOG_STAT, .faults, .sys, .mgt, .can] s (State.enter s m cause) := by
  unfold State.enter
  repeat' with_reducible first
    | assumption
    | decide
    | exact Does.refl _ _
    | (intro x; first | (have _h : State := x; clear _h; clear_value (hx : x = _); refine Does.bind (l := [.one SYS_MODE, .one MGT_LOG_STAT, .faults, .sys, .mgt, .can]) (s := s) hx ?_ (fun _ => ?_)) | clear_value x)
    | lift_lets
    | (apply Does.step; on_goal 1 => first | exact State.put_does _ SYS_MODE.CAUSE _ (by with_unfolding_all exact Field.has_one SYS_MODE) | exact State.put_does _ SYS_MODE.PREV _ (by with_unfolding_all exact Field.has_one SYS_MODE) | apply State.logRec_does)
    | (apply Does.step; on_goal 1 => first | apply Does.sys)
    | dsimp only

theorem State.event_does (s ev eng axes cause t) : Does [.one INT_STAT, .one INT_EVT_CNT, .row INT_EVT_A, .row INT_EVT_T, .one MGT_LOG_STAT, .faults, .mgt, .can] s (State.event s ev eng axes cause t) := by
  unfold State.event
  repeat' with_reducible first
    | assumption
    | decide
    | exact Does.refl _ _
    | (intro x; first | (have _h : State := x; clear _h; clear_value (hx : x = _); refine Does.bind (l := [.one INT_STAT, .one INT_EVT_CNT, .row INT_EVT_A, .row INT_EVT_T, .one MGT_LOG_STAT, .faults, .mgt, .can]) (s := s) hx ?_ (fun _ => ?_)) | clear_value x)
    | lift_lets
    | (apply Does.step; on_goal 1 => first | exact State.setWord_does _ (INT_EVT_T _) _ (by with_unfolding_all exact Field.has_row INT_EVT_T (fun _ => rfl) _) | exact State.setWord_does _ (INT_EVT_A _) _ (by with_unfolding_all exact Field.has_row INT_EVT_A (fun _ => rfl) _) | exact State.put_does _ INT_STAT.REC_EVT _ (by with_unfolding_all exact Field.has_one INT_STAT) | exact State.put_does _ INT_EVT_CNT.NEWEST _ (by with_unfolding_all exact Field.has_one INT_EVT_CNT) | exact State.incr_does _ INT_EVT_CNT.TOTAL (by with_unfolding_all exact Field.has_one INT_EVT_CNT) | apply State.logRec_does)
    | dsimp only

theorem State.settle_does (s) : Does [.intg] s (State.settle s) := Does.intg s _

theorem done_does {l s u} (h : Does l s u) (hk : fits [Field.intg] l = true := by rfl) :
    ∀ t, done u = .next t → Does l s t := by
  intro t e
  cases e
  exact Does.step (State.settle_does _) hk h

theorem whenPowered_does {l s} {f : State → State} (h : Does l s (f s))
    (hk : fits [Field.intg] l = true := by rfl) : ∀ t, whenPowered s f = .next t → Does l s t := by
  unfold whenPowered
  split
  · exact done_does h hk
  · intro t e
    cases e
    exact Does.refl _ _

theorem State.hold_does (s a v x) : Does [.spi] s (State.hold s a v x) := Does.spi s _

theorem hostAccess_does {l s a v} {f : State → State} {x} (h : Does l s (f s))
    (hk : fits [Field.intg, Field.spi] l = true := by rfl) :
    ∀ t, hostAccess s a v f x = .next t → Does l s t := by
  unfold hostAccess
  have h1 : fits [Field.intg] l = true := fits_trans (by decide) hk
  have h2 : fits [Field.spi] l = true := fits_trans (by decide) hk
  refine whenPowered_does (Does.ite (Does.refl _ _) (Does.ite ?_ h)) h1
  exact Does.step (State.hold_does ..) h2 (Does.refl _ _)

theorem State.outcome_does (s code) : Does [.spi] s (State.outcome s code) := by
  unfold State.outcome
  repeat' with_reducible first
    | assumption
    | decide
    | exact Does.refl _ _
    | (intro x; first | (have _h : State := x; clear _h; clear_value (hx : x = _); refine Does.bind (l := [.spi]) (s := s) hx ?_ (fun _ => ?_)) | clear_value x)
    | lift_lets
    | (apply Does.step; on_goal 1 => first | apply Does.spi)
    | dsimp only

theorem State.refuse_does (s) : Does [.spi] s (State.refuse s) := by
  unfold State.refuse
  repeat' with_reducible first
    | assumption
    | decide
    | exact Does.refl _ _
    | (apply Does.step; on_goal 1 => first | apply State.outcome_does)
    | dsimp only

theorem State.apart_does {l s} {f : State → State} (h : ∀ s, Does l s (f s))
    (hk : fits [Field.spi] l = true) : Does l s (State.apart s f).2 :=
  Does.step (Does.spi _ _) hk (Does.trans (Does.step (Does.spi _ _) hk (Does.refl _ _)) (h _))

end Sys2Proof.Machine
end

