-- ==== Sys2Proof/Laws/Mem.lean ====
section
/-!
SUPPORT. What each operation of Sys2Proof/Machine/Mem.lean can do at most.
-/

-- One proof after the other: as one text the package would otherwise ask for more threads than there is memory for.
set_option Elab.async false
namespace Sys2Proof.Machine

theorem State.modBank_does (s b f) : Does [.mem] s (State.modBank s b f) := by
  unfold State.modBank
  repeat' with_reducible first
    | assumption
    | decide
    | exact Does.refl _ _
    | (intro x; first | (have _h : State := x; clear _h; clear_value (hx : x = _); refine Does.bind (l := [.mem]) (s := s) hx ?_ (fun _ => ?_)) | (have _h : Mem := x; clear _h; clear_value (hx : x = _); subst hx) | clear_value x)
    | lift_lets
    | (apply Does.step; on_goal 1 => first | (apply Does.mem <;> first | rfl | exact id | simp))
    | dsimp only

theorem State.memFault_does (s code b) : Does [.one MGT_LOG_STAT, .faults, .reel, .mgt, .can] s (State.memFault s code b) := by
  unfold State.memFault
  repeat' with_reducible first
    | assumption
    | decide
    | exact Does.refl _ _
    | (apply Does.step; on_goal 1 => first | apply State.raise_does)
    | dsimp only

theorem State.putFlaw_does (s a f) : Does [.mem] s (State.putFlaw s a f) := by
  unfold State.putFlaw
  repeat' with_reducible first
    | assumption
    | decide
    | exact Does.refl _ _
    | (intro x; first | (have _h : State := x; clear _h; clear_value (hx : x = _); refine Does.bind (l := [.mem]) (s := s) hx ?_ (fun _ => ?_)) | (have _h : Mem := x; clear _h; clear_value (hx : x = _); subst hx) | clear_value x)
    | lift_lets
    | (apply Does.step; on_goal 1 => first | (apply Does.mem <;> first | rfl | exact id | simp))
    | dsimp only

theorem State.putDead_does (s a stuck) : Does [.mem, .drawn] s (State.putDead s a stuck) := by
  unfold State.putDead
  repeat' with_reducible first
    | assumption
    | decide
    | exact Does.refl _ _
    | (intro x; first | (have _h : State := x; clear _h; clear_value (hx : x = _); refine Does.bind (l := [.mem, .drawn]) (s := s) hx ?_ (fun _ => ?_)) | (have _h : _ × State := x; clear _h; clear_value (hx : x = _); refine Does.bindSnd (l := [.mem, .drawn]) (s := s) hx ?_ (fun _ => ?_)) | clear_value x)
    | lift_lets
    | (apply Does.step; on_goal 1 => first | apply State.draw_does | apply State.putFlaw_does)
    | dsimp only

theorem State.plant_does (s a e) : Does [.mem, .drawn] s (State.plant s a e) := by
  unfold State.plant
  repeat' with_reducible first
    | assumption
    | decide
    | exact Does.refl _ _
    | (intro x; first | (have _h : State := x; clear _h; clear_value (hx : x = _); refine Does.bind (l := [.mem, .drawn]) (s := s) hx ?_ (fun _ => ?_)) | clear_value x)
    | lift_lets
    | (apply Does.step; on_goal 1 => first | apply State.putFlaw_does | apply State.putDead_does)
    | refine Does.ite ?_ ?_
    | refine Does.iteSnd ?_ ?_
    | split
    | dsimp only

theorem State.wakeBank_does (s b) : Does [.row MEM_B_STAT] s (State.wakeBank s b) := by
  unfold State.wakeBank
  repeat' with_reducible first
    | assumption
    | decide
    | exact Does.refl _ _
    | (apply Does.step; on_goal 1 => first | exact State.put_does _ (MEM_B_STAT.PWR _) _ (by with_unfolding_all exact Field.has_row MEM_B_STAT (fun _ => rfl) _))
    | refine Does.ite ?_ ?_
    | refine Does.iteSnd ?_ ?_
    | dsimp only

theorem State.closeWindow_does (s b) : Does [.row MEM_B_STAT, .mem, .drawn] s (State.closeWindow s b) := by
  unfold State.closeWindow
  repeat' with_reducible first
    | assumption
    | decide
    | exact Does.refl _ _
    | (intro x; first | (have _h : State := x; clear _h; clear_value (hx : x = _); refine Does.bind (l := [.row MEM_B_STAT, .mem, .drawn]) (s := s) hx ?_ (fun _ => ?_)) | clear_value x)
    | lift_lets
    | (apply Does.step; on_goal 1 => first | exact State.put_does _ (MEM_B_STAT.TEST_BUSY _) _ (by with_unfolding_all exact Field.has_row MEM_B_STAT (fun _ => rfl) _) | apply State.modBank_does | apply State.plant_does)
    | refine State.each_does (fun s b => ?_) ?_
    | dsimp only

theorem State.retainBank_does (s b) : Does [.row MEM_B_STAT, .mem, .drawn] s (State.retainBank s b) := by
  unfold State.retainBank
  repeat' with_reducible first
    | assumption
    | decide
    | exact Does.refl _ _
    | (apply Does.step; on_goal 1 => first | exact State.put_does _ (MEM_B_STAT.PWR _) _ (by with_unfolding_all exact Field.has_row MEM_B_STAT (fun _ => rfl) _) | apply State.closeWindow_does)
    | refine Does.ite ?_ ?_
    | refine Does.iteSnd ?_ ?_
    | dsimp only

theorem State.abortWindow_does (s b) : Does [.row MEM_B_STAT, .row MEM_B_ECC, .mem, .drawn] s (State.abortWindow s b) := by
  unfold State.abortWindow
  repeat' with_reducible first
    | assumption
    | decide
    | exact Does.refl _ _
    | (apply Does.step; on_goal 1 => first | exact State.bump_does _ (MEM_B_ECC.ABORTS _) _ (by with_unfolding_all exact Field.has_row MEM_B_ECC (fun _ => rfl) _) | apply State.closeWindow_does)
    | refine Does.ite ?_ ?_
    | refine Does.iteSnd ?_ ?_
    | dsimp only

theorem State.windowOver_does (s b) : Does [.row MEM_B_STAT, .mem, .drawn] s (State.windowOver s b) := by
  unfold State.windowOver
  repeat' with_reducible first
    | assumption
    | decide
    | exact Does.refl _ _
    | (apply Does.step; on_goal 1 => first | exact State.put_does _ (MEM_B_STAT.TEST_ROW _) _ (by with_unfolding_all exact Field.has_row MEM_B_STAT (fun _ => rfl) _) | apply State.closeWindow_does)
    | dsimp only

theorem State.leaveWindow_does (s b r) : Does [.row MEM_B_STAT, .row MEM_B_ECC, .mem, .drawn] s (State.leaveWindow s b r) := by
  unfold State.leaveWindow
  repeat' with_reducible first
    | assumption
    | decide
    | exact Does.refl _ _
    | (apply Does.step; on_goal 1 => first | apply State.windowOver_does | apply State.abortWindow_does)
    | refine Does.ite ?_ ?_
    | refine Does.iteSnd ?_ ?_
    | dsimp only

theorem State.attachSave_does (s b r) : Does [.row MEM_B_STAT, .row MEM_B_ECC, .mem, .drawn] s (State.attachSave s b r) := by
  unfold State.attachSave
  repeat' with_reducible first
    | assumption
    | decide
    | exact Does.refl _ _
    | (intro x; first | (have _h : State := x; clear _h; clear_value (hx : x = _); refine Does.bind (l := [.row MEM_B_STAT, .row MEM_B_ECC, .mem, .drawn]) (s := s) hx ?_ (fun _ => ?_)) | (have _h : Mem := x; clear _h; clear_value (hx : x = _); subst hx) | clear_value x)
    | lift_lets
    | (apply Does.step; on_goal 1 => first | exact State.put_does _ (MEM_B_STAT.SAVE_HELD _) _ (by with_unfolding_all exact Field.has_row MEM_B_STAT (fun _ => rfl) _) | apply State.leaveWindow_does)
    | refine Does.ite ?_ ?_
    | refine Does.iteSnd ?_ ?_
    | (apply Does.step; on_goal 1 => first | (apply Does.mem <;> first | rfl | exact id | simp))
    | dsimp only

theorem State.nextRepair_does (s b) : Does [.row MEM_B_STAT, .row MEM_B_ECC, .mem, .drawn] s (State.nextRepair s b) := by
  unfold State.nextRepair
  repeat' with_reducible first
    | assumption
    | decide
    | exact Does.refl _ _
    | (intro x; first | (have _h : State := x; clear _h; clear_value (hx : x = _); refine Does.bind (l := [.row MEM_B_STAT, .row MEM_B_ECC, .mem, .drawn]) (s := s) hx ?_ (fun _ => ?_)) | clear_value x)
    | lift_lets
    | (apply Does.step; on_goal 1 => first | exact State.put_does _ (MEM_B_STAT.PEND_ROW _) _ (by with_unfolding_all exact Field.has_row MEM_B_STAT (fun _ => rfl) _) | exact State.put_does _ (MEM_B_STAT.REPAIR_PEND _) _ (by with_unfolding_all exact Field.has_row MEM_B_STAT (fun _ => rfl) _) | exact State.put_does _ (MEM_B_STAT.SAVE_HELD _) _ (by with_unfolding_all exact Field.has_row MEM_B_STAT (fun _ => rfl) _) | apply State.modBank_does | apply State.attachSave_does)
    | split
    | dsimp only

theorem State.rowFault_does (s b r) : Does [.row MEM_B_STAT, .row MEM_B_ECC, .row MEM_B_REPAIR, .one INT_DEG_CAUSE, .one MGT_LOG_STAT, .faults, .reel, .mgt, .can, .mem, .drawn] s (State.rowFault s b r) := by
  unfold State.rowFault
  repeat' with_reducible first
    | assumption
    | decide
    | exact Does.refl _ _
    | (intro x; first | (have _h : State := x; clear _h; clear_value (hx : x = _); refine Does.bind (l := [.row MEM_B_STAT, .row MEM_B_ECC, .row MEM_B_REPAIR, .one INT_DEG_CAUSE, .one MGT_LOG_STAT, .faults, .reel, .mgt, .can, .mem, .drawn]) (s := s) hx ?_ (fun _ => ?_)) | clear_value x)
    | (apply Does.step; on_goal 1 => first | exact State.put_does _ (MEM_B_REPAIR.USED0 _) _ (by with_unfolding_all exact Field.has_row MEM_B_REPAIR (fun _ => rfl) _) | exact State.put_does _ (MEM_B_REPAIR.ROW0 _) _ (by with_unfolding_all exact Field.has_row MEM_B_REPAIR (fun _ => rfl) _) | exact State.put_does _ (MEM_B_REPAIR.USED1 _) _ (by with_unfolding_all exact Field.has_row MEM_B_REPAIR (fun _ => rfl) _) | exact State.put_does _ (MEM_B_REPAIR.ROW1 _) _ (by with_unfolding_all exact Field.has_row MEM_B_REPAIR (fun _ => rfl) _) | exact State.putBit_does _ INT_DEG_CAUSE.CAUSE _ _ (by with_unfolding_all exact Field.has_one INT_DEG_CAUSE) | apply State.memFault_does | apply State.modBank_does | apply State.nextRepair_does)
    | refine Does.ite ?_ ?_
    | refine Does.iteSnd ?_ ?_
    | lift_lets
    | dsimp only

theorem State.mapRepair_does (s b) : Does [.row MEM_B_STAT, .row MEM_B_ECC, .one MGT_LOG_STAT, .faults, .reel, .mgt, .can, .mem, .drawn] s (State.mapRepair s b) := by
  unfold State.mapRepair
  repeat' with_reducible first
    | assumption
    | decide
    | exact Does.refl _ _
    | (intro x; first | (have _h : State := x; clear _h; clear_value (hx : x = _); refine Does.bind (l := [.row MEM_B_STAT, .row MEM_B_ECC, .one MGT_LOG_STAT, .faults, .reel, .mgt, .can, .mem, .drawn]) (s := s) hx ?_ (fun _ => ?_)) | clear_value x)
    | lift_lets
    | (apply Does.step; on_goal 1 => first | exact State.bump_does _ (MEM_B_STAT.SPARES_USED _) _ (by with_unfolding_all exact Field.has_row MEM_B_STAT (fun _ => rfl) _) | apply State.modBank_does | apply State.memFault_does | apply State.logRec_does | apply State.nextRepair_does | apply State.retainBank_does)
    | refine Does.ite ?_ ?_
    | refine Does.iteSnd ?_ ?_
    | split
    | (apply Does.step; on_goal 1 => first | apply Does.reel)
    | dsimp only

theorem State.countEcc_does (s b r dead) : Does [.row MEM_B_ECC, .one MGT_LOG_STAT, .faults, .reel, .mgt, .can, .mem] s (State.countEcc s b r dead) := by
  unfold State.countEcc
  repeat' with_reducible first
    | assumption
    | decide
    | exact Does.refl _ _
    | (intro x; first | (have _h : State := x; clear _h; clear_value (hx : x = _); refine Does.bind (l := [.row MEM_B_ECC, .one MGT_LOG_STAT, .faults, .reel, .mgt, .can, .mem]) (s := s) hx ?_ (fun _ => ?_)) | (have _h : Mem := x; clear _h; clear_value (hx : x = _); subst hx) | clear_value x)
    | lift_lets
    | (apply Does.step; on_goal 1 => first | exact State.put_does _ (MEM_B_ECC.LAST_ROW _) _ (by with_unfolding_all exact Field.has_row MEM_B_ECC (fun _ => rfl) _) | exact State.bump_does _ (MEM_B_ECC.UNCORR _) _ (by with_unfolding_all exact Field.has_row MEM_B_ECC (fun _ => rfl) _) | exact State.bump_does _ (MEM_B_ECC.CORR _) _ (by with_unfolding_all exact Field.has_row MEM_B_ECC (fun _ => rfl) _) | apply State.memFault_does)
    | refine Does.ite ?_ ?_
    | refine Does.iteSnd ?_ ?_
    | (apply Does.step; on_goal 1 => first | (apply Does.mem <;> first | rfl | exact id | simp))
    | dsimp only

theorem State.writeBack_does (s a f) : Does [.mem] s (State.writeBack s a f) := by
  unfold State.writeBack
  repeat' with_reducible first
    | assumption
    | decide
    | exact Does.refl _ _
    | (intro x; first | (have _h : State := x; clear _h; clear_value (hx : x = _); refine Does.bind (l := [.mem]) (s := s) hx ?_ (fun _ => ?_)) | (have _h : Mem := x; clear _h; clear_value (hx : x = _); subst hx) | clear_value x)
    | lift_lets
    | (apply Does.step; on_goal 1 => first | apply State.modBank_does)
    | refine Does.ite ?_ ?_
    | refine Does.iteSnd ?_ ?_
    | (apply Does.step; on_goal 1 => first | (apply Does.mem <;> first | rfl | exact id | simp))
    | dsimp only

theorem State.readMem_does (s a) : Does [.row MEM_B_STAT, .row MEM_B_ECC, .row MEM_B_REPAIR, .one INT_DEG_CAUSE, .one MGT_LOG_STAT, .faults, .reel, .mgt, .can, .mem, .drawn] s (State.readMem s a).2.2 := by
  unfold State.readMem
  repeat' with_reducible first
    | assumption
    | decide
    | exact Does.refl _ _
    | (intro x; first | (have _h : State := x; clear _h; clear_value (hx : x = _); refine Does.bind (l := [.row MEM_B_STAT, .row MEM_B_ECC, .row MEM_B_REPAIR, .one INT_DEG_CAUSE, .one MGT_LOG_STAT, .faults, .reel, .mgt, .can, .mem, .drawn]) (s := s) hx ?_ (fun _ => ?_)) | (have _h : Mem := x; clear _h; clear_value (hx : x = _); subst hx) | clear_value x)
    | lift_lets
    | (apply Does.step; on_goal 1 => first | apply State.rowFault_does | apply State.countEcc_does | apply State.writeBack_does)
    | refine Does.ite ?_ ?_
    | refine Does.iteSnd ?_ ?_
    | split
    | (apply Does.step; on_goal 1 => first | (apply Does.mem <;> first | rfl | exact id | simp))
    | dsimp only

theorem putBytes_wf (c : List Host.Cell) (a : Nat) (l : List Byte) (h : Store.wf (fun _ => (0 : Byte)) c = true) :
    Store.wf (fun _ => (0 : Byte)) (putBytes c a l) = true := by
  induction l generalizing c a with
  | nil => exact h
  | cons b t ih => exact ih _ _ (Store.wf_put _ _ _ _ h)

theorem State.writeMem_does (s a v) : Does [.row MEM_B_STAT, .row MEM_B_ECC, .mem, .drawn, .cells] s (State.writeMem s a v) := by
  unfold State.writeMem
  have h : Does [.row MEM_B_STAT, .row MEM_B_ECC, .mem, .drawn, .cells] s { s with mem := { s.mem with
      cells := putWord s.mem.cells a v
      flaws := s.mem.flaws.filterMap
        (fun (p : Nat × Flaw) => if p.1 = a then p.2.rewritten.map (fun f => (p.1, f)) else some p)
      corrected := s.mem.corrected.filter (fun x => x != a) } } :=
    Does.weaken (Does.memCells s _ (putBytes_wf _ _ _) rfl) (by decide)
  dsimp only
  split
  · split
    · exact Does.step (State.abortWindow_does ..) (by decide) h
    · exact h
  · exact h

theorem State.loaderTouch_does (s a n b) : Does [.row MEM_B_STAT, .row MEM_B_ECC, .mem, .drawn] s (State.loaderTouch s a n b) := by
  unfold State.loaderTouch
  repeat' with_reducible first
    | assumption
    | decide
    | exact Does.refl _ _
    | (intro x; first | (have _h : State := x; clear _h; clear_value (hx : x = _); refine Does.bind (l := [.row MEM_B_STAT, .row MEM_B_ECC, .mem, .drawn]) (s := s) hx ?_ (fun _ => ?_)) | clear_value x)
    | lift_lets
    | (apply Does.step; on_goal 1 => first | apply State.wakeBank_does | apply State.abortWindow_does)
    | refine Does.ite ?_ ?_
    | refine Does.iteSnd ?_ ?_
    | dsimp only

theorem State.placeBytes_does (s a l) : Does [.mem, .cells] s (State.placeBytes s a l) :=
  Does.memCells s _ (putBytes_wf _ _ _) rfl

theorem State.loadBytes_does (s a l) : Does [.row MEM_B_STAT, .row MEM_B_ECC, .mem, .drawn, .cells] s (State.loadBytes s a l) := by
  unfold State.loadBytes
  repeat' with_reducible first
    | assumption
    | decide
    | exact Does.refl _ _
    | (apply Does.step; on_goal 1 => first | apply State.placeBytes_does | apply State.loaderTouch_does)
    | refine State.each_does (fun s b => ?_) ?_
    | dsimp only

theorem State.wakeAll_does (s) : Does [.row MEM_B_STAT] s (State.wakeAll s) := by
  unfold State.wakeAll
  repeat' with_reducible first
    | assumption
    | decide
    | exact Does.refl _ _
    | (apply Does.step; on_goal 1 => first | apply State.wakeBank_does)
    | refine State.each_does (fun s b => ?_) ?_
    | dsimp only

theorem State.retainAll_does (s) : Does [.row MEM_B_STAT, .mem, .drawn] s (State.retainAll s) := by
  unfold State.retainAll
  repeat' with_reducible first
    | assumption
    | decide
    | exact Does.refl _ _
    | (apply Does.step; on_goal 1 => first | apply State.retainBank_does)
    | refine State.each_does (fun s b => ?_) ?_
    | dsimp only

theorem State.retainCut_does (s) : Does [.row MEM_B_STAT] s (State.retainCut s) := by
  unfold State.retainCut
  repeat' with_reducible first
    | assumption
    | decide
    | exact Does.refl _ _
    | (apply Does.step; on_goal 1 => first | apply State.wakeBank_does)
    | refine State.each_does (fun s b => ?_) ?_
    | refine Does.ite ?_ ?_
    | refine Does.iteSnd ?_ ?_
    | dsimp only

theorem State.lend_does (s n on) : Does [.row MEM_B_STAT] s (State.lend s n on) := by
  unfold State.lend
  repeat' with_reducible first
    | assumption
    | decide
    | exact Does.refl _ _
    | (apply Does.step; on_goal 1 => first | exact State.put_does _ (MEM_B_STAT.LENT _) _ (by with_unfolding_all exact Field.has_row MEM_B_STAT (fun _ => rfl) _))
    | refine State.each_does (fun s b => ?_) ?_
    | refine Does.ite ?_ ?_
    | refine Does.iteSnd ?_ ?_
    | dsimp only

theorem State.collide_does (s) : Does [.one SPI_HERR, .one MGT_LOG_STAT, .faults, .reel, .mgt, .can, .spi] s (State.collide s) := by
  unfold State.collide
  repeat' with_reducible first
    | assumption
    | decide
    | exact Does.refl _ _
    | (intro x; first | (have _h : State := x; clear _h; clear_value (hx : x = _); refine Does.bind (l := [.one SPI_HERR, .one MGT_LOG_STAT, .faults, .reel, .mgt, .can, .spi]) (s := s) hx ?_ (fun _ => ?_)) | clear_value x)
    | lift_lets
    | (apply Does.step; on_goal 1 => first | exact State.bump_does _ SPI_HERR.MB_COLL _ (by with_unfolding_all exact Field.has_one SPI_HERR) | apply State.raise_does)
    | (apply Does.step; on_goal 1 => first | apply Does.spi)
    | dsimp only

theorem State.portA_does (s a v) : Does [.one MEM_MB_CNT, .row MEM_B_STAT, .row MEM_B_ECC, .mem, .drawn, .cells] s (State.portA s a v) := by
  unfold State.portA
  repeat' with_reducible first
    | assumption
    | decide
    | exact Does.refl _ _
    | (apply Does.step; on_goal 1 => first | exact State.incr_does _ MEM_MB_CNT.A_WR (by with_unfolding_all exact Field.has_one MEM_MB_CNT) | apply State.writeMem_does)
    | dsimp only

theorem State.ownerWrite_does (s a v) : Does [.one MEM_MB_CNT, .row MEM_B_STAT, .row MEM_B_ECC, .mem, .drawn, .cells] s (State.ownerWrite s a v) := by
  unfold State.ownerWrite
  repeat' with_reducible first
    | assumption
    | decide
    | exact Does.refl _ _
    | (apply Does.step; on_goal 1 => first | apply State.portA_does | apply State.writeMem_does)
    | refine Does.ite ?_ ?_
    | refine Does.iteSnd ?_ ?_
    | dsimp only

theorem State.collided_does (s a v) : Does [.one SPI_HERR, .one MEM_MB_CNT, .row MEM_B_STAT, .row MEM_B_ECC, .one MGT_LOG_STAT, .faults, .reel, .mgt, .can, .mem, .spi, .drawn, .cells] s (State.collided s a v) := by
  unfold State.collided
  repeat' with_reducible first
    | assumption
    | decide
    | exact Does.refl _ _
    | (apply Does.step; on_goal 1 => first | apply State.collide_does | apply State.portA_does)
    | refine Does.ite ?_ ?_
    | refine Does.iteSnd ?_ ?_
    | split
    | dsimp only

theorem State.atomic_does (s f x) : Does [.one SPI_HERR, .one MEM_AT_OLD, .one MEM_MB_CNT, .row MEM_B_STAT, .row MEM_B_ECC, .row MEM_B_REPAIR, .one INT_DEG_CAUSE, .one MGT_LOG_STAT, .faults, .reel, .mgt, .can, .mem, .spi, .drawn, .cells] s (State.atomic s f x) := by
  unfold State.atomic
  repeat' with_reducible first
    | assumption
    | decide
    | exact Does.refl _ _
    | (intro x; first | (have _h : State := x; clear _h; clear_value (hx : x = _); refine Does.bind (l := [.one SPI_HERR, .one MEM_AT_OLD, .one MEM_MB_CNT, .row MEM_B_STAT, .row MEM_B_ECC, .row MEM_B_REPAIR, .one INT_DEG_CAUSE, .one MGT_LOG_STAT, .faults, .reel, .mgt, .can, .mem, .spi, .drawn, .cells]) (s := s) hx ?_ (fun _ => ?_)) | (have _h : _ × _ × State := x; clear _h; clear_value (hx : x = _); refine Does.bindThird (l := [.one SPI_HERR, .one MEM_AT_OLD, .one MEM_MB_CNT, .row MEM_B_STAT, .row MEM_B_ECC, .row MEM_B_REPAIR, .one INT_DEG_CAUSE, .one MGT_LOG_STAT, .faults, .reel, .mgt, .can, .mem, .spi, .drawn, .cells]) (s := s) hx ?_ (fun _ => ?_)) | clear_value x)
    | lift_lets
    | (apply Does.step; on_goal 1 => first | exact State.setWord_does _ MEM_AT_OLD _ (by with_unfolding_all exact Field.has_one MEM_AT_OLD) | exact State.incr_does _ MEM_MB_CNT.B_WR (by with_unfolding_all exact Field.has_one MEM_MB_CNT) | apply State.wakeBank_does | apply State.collided_does | apply State.plant_does | apply State.readMem_does | apply State.refuse_does | apply State.writeMem_does)
    | refine Does.ite ?_ ?_
    | refine Does.iteSnd ?_ ?_
    | split
    | refine Does.ofTriple (by assumption) ?_
    | dsimp only

theorem State.atomicA_does (s a f e) : Does [.one MEM_MB_CNT, .row MEM_B_STAT, .row MEM_B_ECC, .row MEM_B_REPAIR, .one INT_DEG_CAUSE, .one MGT_LOG_STAT, .faults, .reel, .mgt, .can, .mem, .drawn, .cells] s (State.atomicA s a f e) := by
  unfold State.atomicA
  repeat' with_reducible first
    | assumption
    | decide
    | exact Does.refl _ _
    | (intro x; first | (have _h : State := x; clear _h; clear_value (hx : x = _); refine Does.bind (l := [.one MEM_MB_CNT, .row MEM_B_STAT, .row MEM_B_ECC, .row MEM_B_REPAIR, .one INT_DEG_CAUSE, .one MGT_LOG_STAT, .faults, .reel, .mgt, .can, .mem, .drawn, .cells]) (s := s) hx ?_ (fun _ => ?_)) | (have _h : _ × _ × State := x; clear _h; clear_value (hx : x = _); refine Does.bindThird (l := [.one MEM_MB_CNT, .row MEM_B_STAT, .row MEM_B_ECC, .row MEM_B_REPAIR, .one INT_DEG_CAUSE, .one MGT_LOG_STAT, .faults, .reel, .mgt, .can, .mem, .drawn, .cells]) (s := s) hx ?_ (fun _ => ?_)) | (have _h : Mem := x; clear _h; clear_value (hx : x = _); subst hx) | clear_value x)
    | lift_lets
    | (apply Does.step; on_goal 1 => first | apply State.readMem_does | apply State.plant_does | apply State.portA_does)
    | refine Does.ite ?_ ?_
    | refine Does.iteSnd ?_ ?_
    | split
    | refine Does.ofTriple (by assumption) ?_
    | (apply Does.step; on_goal 1 => first | (apply Does.mem <;> first | rfl | exact id | simp) | (apply Does.memCells <;> first | rfl | exact id | simp))
    | dsimp only

theorem State.clearBanks_does (s) : Does [.mem, .cells] s (State.clearBanks s) :=
  Does.weaken (Does.memCells s _ (fun _ => rfl) rfl) (by decide)

theorem execRepairCopyDone_does (b s) : ∀ t, execRepairCopyDone b s = .next t → Does [.intg, .mem] s t := by
  unfold execRepairCopyDone
  refine whenPowered_does ?_
  repeat' with_reducible first
    | assumption
    | decide
    | exact Does.refl _ _
    | (intro x; first | (have _h : State := x; clear _h; clear_value (hx : x = _); refine Does.bind (l := [.intg, .mem]) (s := s) hx ?_ (fun _ => ?_)) | clear_value x)
    | lift_lets
    | (apply Does.step; on_goal 1 => first | apply State.modBank_does)
    | refine State.when_does (fun s => ?_) ?_
    | refine Does.ite ?_ ?_
    | refine Does.iteSnd ?_ ?_
    | dsimp only

theorem execTestWindow_does (b s) : ∀ t, execTestWindow b s = .next t → Does [.row MEM_B_STAT, .intg] s t := by
  unfold execTestWindow
  refine whenPowered_does ?_
  repeat' with_reducible first
    | assumption
    | decide
    | exact Does.refl _ _
    | (apply Does.step; on_goal 1 => first | exact State.put_does _ (MEM_B_STAT.TEST_BUSY _) _ (by with_unfolding_all exact Field.has_row MEM_B_STAT (fun _ => rfl) _))
    | refine State.when_does (fun s => ?_) ?_
    | refine Does.ite ?_ ?_
    | refine Does.iteSnd ?_ ?_
    | dsimp only

theorem execTestWindowEnd_does (b mismatch s) : ∀ t, execTestWindowEnd b mismatch s = .next t → Does [.row MEM_B_STAT, .row MEM_B_ECC, .row MEM_B_REPAIR, .one INT_DEG_CAUSE, .one MGT_LOG_STAT, .faults, .reel, .intg, .mgt, .can, .mem, .drawn] s t := by
  unfold execTestWindowEnd
  refine whenPowered_does ?_
  repeat' with_reducible first
    | assumption
    | decide
    | exact Does.refl _ _
    | (intro x; first | (have _h : State := x; clear _h; clear_value (hx : x = _); refine Does.bind (l := [.row MEM_B_STAT, .row MEM_B_ECC, .row MEM_B_REPAIR, .one INT_DEG_CAUSE, .one MGT_LOG_STAT, .faults, .reel, .intg, .mgt, .can, .mem, .drawn]) (s := s) hx ?_ (fun _ => ?_)) | clear_value x)
    | lift_lets
    | (apply Does.step; on_goal 1 => first | apply State.windowOver_does | apply State.rowFault_does)
    | refine State.when_does (fun s => ?_) ?_
    | refine Does.ite ?_ ?_
    | refine Does.iteSnd ?_ ?_
    | split
    | dsimp only

theorem execTestWindowTimeout_does (b s) : ∀ t, execTestWindowTimeout b s = .next t → Does [.row MEM_B_STAT, .row MEM_B_ECC, .intg, .mem, .drawn] s t := by
  unfold execTestWindowTimeout
  refine whenPowered_does ?_
  repeat' with_reducible first
    | assumption
    | decide
    | exact Does.refl _ _
    | (apply Does.step; on_goal 1 => first | apply State.abortWindow_does)
    | refine State.when_does (fun s => ?_) ?_
    | dsimp only

theorem execBankWake_does (b s) : ∀ t, execBankWake b s = .next t → Does [.row MEM_B_STAT, .intg] s t := by
  unfold execBankWake
  refine whenPowered_does ?_
  repeat' with_reducible first
    | assumption
    | decide
    | exact Does.refl _ _
    | (apply Does.step; on_goal 1 => first | exact State.put_does _ (MEM_B_STAT.PWR _) _ (by with_unfolding_all exact Field.has_row MEM_B_STAT (fun _ => rfl) _))
    | refine State.when_does (fun s => ?_) ?_
    | refine Does.ite ?_ ?_
    | refine Does.iteSnd ?_ ?_
    | dsimp only

theorem execBankRetain_does (b s) : ∀ t, execBankRetain b s = .next t → Does [.row MEM_B_STAT, .intg, .mem, .drawn] s t := by
  unfold execBankRetain
  refine whenPowered_does ?_
  repeat' with_reducible first
    | assumption
    | decide
    | exact Does.refl _ _
    | (apply Does.step; on_goal 1 => first | apply State.retainBank_does)
    | refine State.when_does (fun s => ?_) ?_
    | refine Does.ite ?_ ?_
    | refine Does.iteSnd ?_ ?_
    | dsimp only

theorem execAtSet_does (mask x s) : ∀ t, execAtSet mask x s = .next t → Does [.one SPI_HERR, .one MEM_AT_OLD, .one MEM_MB_CNT, .row MEM_B_STAT, .row MEM_B_ECC, .row MEM_B_REPAIR, .one INT_DEG_CAUSE, .one MGT_LOG_STAT, .faults, .reel, .intg, .mgt, .can, .mem, .spi, .drawn, .cells] s t := by
  unfold execAtSet
  refine hostAccess_does ?_
  repeat' with_reducible first
    | assumption
    | decide
    | exact Does.refl _ _
    | (apply Does.step; on_goal 1 => first | apply State.atomic_does)
    | dsimp only

theorem execAtClr_does (mask x s) : ∀ t, execAtClr mask x s = .next t → Does [.one SPI_HERR, .one MEM_AT_OLD, .one MEM_MB_CNT, .row MEM_B_STAT, .row MEM_B_ECC, .row MEM_B_REPAIR, .one INT_DEG_CAUSE, .one MGT_LOG_STAT, .faults, .reel, .intg, .mgt, .can, .mem, .spi, .drawn, .cells] s t := by
  unfold execAtClr
  refine hostAccess_does ?_
  repeat' with_reducible first
    | assumption
    | decide
    | exact Does.refl _ _
    | (apply Does.step; on_goal 1 => first | apply State.atomic_does)
    | dsimp only

theorem execMbPortAWrite_does (addr op s) : ∀ t, execMbPortAWrite addr op s = .next t → Does [.one MEM_MB_CNT, .row MEM_B_STAT, .row MEM_B_ECC, .row MEM_B_REPAIR, .one INT_DEG_CAUSE, .one MGT_LOG_STAT, .faults, .reel, .intg, .mgt, .can, .mem, .drawn, .cells] s t := by
  unfold execMbPortAWrite
  refine whenPowered_does ?_
  repeat' with_reducible first
    | assumption
    | decide
    | exact Does.refl _ _
    | (intro x; first | (have _h : State := x; clear _h; clear_value (hx : x = _); refine Does.bind (l := [.one MEM_MB_CNT, .row MEM_B_STAT, .row MEM_B_ECC, .row MEM_B_REPAIR, .one INT_DEG_CAUSE, .one MGT_LOG_STAT, .faults, .reel, .intg, .mgt, .can, .mem, .drawn, .cells]) (s := s) hx ?_ (fun _ => ?_)) | clear_value x)
    | lift_lets
    | (apply Does.step; on_goal 1 => first | apply State.portA_does | apply State.wakeBank_does | apply State.atomicA_does)
    | refine State.when_does (fun s => ?_) ?_
    | refine Does.ite ?_ ?_
    | refine Does.iteSnd ?_ ?_
    | split
    | dsimp only

end Sys2Proof.Machine
end

