-- ==== Sys2Proof/Laws/Mod.lean ====
section
/-!
SUPPORT. What each operation of Sys2Proof/Machine/Mod.lean can do at most.
-/

-- One proof after the other: as one text the package would otherwise ask for more threads than there is memory for.
set_option Elab.async false
namespace Sys2Proof.Machine

theorem State.modMod_does (s n) {f : ModAx → ModAx} (hf : ∀ m, m.Shaped → (f m).Shaped) : Does [.mods] s (State.modMod s n f) :=
  Does.mods s _ (by simp) (fun h => Tbl.all_mod n h hf)

theorem ModAx.shaped_of {m m' : ModAx} (hm : m.Shaped) (h : m'.hbs = m.hbs) : m'.Shaped := by
  unfold ModAx.Shaped; rw [h]; exact hm

theorem HalfBridge.sound_of {h h' : HalfBridge} (hs : h.Sound) (a : h'.hi = h.hi) (b : h'.lo = h.lo) (c : h'.turnOn = h.turnOn) : h'.Sound := by
  unfold HalfBridge.Sound; rw [a, b, c]; exact hs

theorem HalfBridge.sound_off {h : HalfBridge} (a : h.hi = false) (b : h.lo = false) (c : h.turnOn = none) : h.Sound := by
  unfold HalfBridge.Sound; rw [a, b, c]; simp

theorem HalfBridge.expire_sound (h : HalfBridge) (held : Bool) (hs : h.Sound) : (h.expire held).Sound := by
  obtain ⟨h1, h2, h3⟩ := hs
  unfold HalfBridge.expire
  split
  · rename_i hi e
    cases hi <;> (repeat' split) <;> first | exact ⟨h1, h2, h3⟩ | (refine ⟨?_, ?_, ?_⟩ <;> simp_all)
  · exact ⟨h1, h2, h3⟩

theorem ModAx.Shaped.map {m : ModAx} (h : m.Shaped) {f : HalfBridge → HalfBridge} (hf : ∀ x, x.Sound → (f x).Sound) :
    (m.hbs.map f).length = 4 ∧ ∀ x ∈ m.hbs.map f, x.Sound :=
  ⟨by simpa using h.1, fun _ hx => by obtain ⟨y, hy, rfl⟩ := List.mem_map.mp hx; exact hf y (h.2 y hy)⟩

theorem ModAx.shaped_map {m m' : ModAx} {f : HalfBridge → HalfBridge} (h : m.Shaped) (e : m'.hbs = m.hbs.map f)
    (hf : ∀ x, x.Sound → (f x).Sound) : m'.Shaped := by
  unfold ModAx.Shaped; rw [e]; exact h.map hf

theorem State.modPhase_does (s n b f) : Does [.mods] s (State.modPhase s n b f) :=
  State.modMod_does s n (fun m hm => by unfold ModAx.modPhase; split <;> exact ModAx.shaped_of hm rfl)

theorem State.modHb_does (s n k) {f : HalfBridge → HalfBridge} (hf : ∀ h, h.Sound → (f h).Sound) : Does [.mods] s (State.modHb s n k f) :=
  State.modMod_does s n (fun m hm => ⟨(Tbl.length_mod m.hbs k f).trans hm.1, Tbl.all_mod k hm.2 hf⟩)

theorem HalfBridge.apply_sound (h : HalfBridge) (i : Bool) (dt : Nat) (r : Bool × Bool) (hs : h.Sound) : (h.apply i dt r).Sound := by
  obtain ⟨h1, h2, h3⟩ := hs
  unfold HalfBridge.apply
  repeat' split
  all_goals
    try dsimp only
    first |  (refine ⟨?_, ?_, ?_⟩ <;> simp_all; done) | (split <;> refine ⟨?_, ?_, ?_⟩ <;> simp_all)

theorem State.sourceOff_does (s n src) : Does [.row PWR_AX_LIVE, .pwr] s (State.sourceOff s n src) := by
  unfold State.sourceOff
  repeat' with_reducible first
    | assumption
    | decide
    | exact Does.refl _ _
    | (intro x; first | (have _h : State := x; clear _h; clear_value (hx : x = _); refine Does.bind (l := [.row PWR_AX_LIVE, .pwr]) (s := s) hx ?_ (fun _ => ?_)) | clear_value x)
    | lift_lets
    | (apply Does.step; on_goal 1 => first | exact State.putBit_does _ (PWR_AX_LIVE.SRC _) _ _ (by with_unfolding_all exact Field.has_row PWR_AX_LIVE (fun _ => rfl) _))
    | (apply Does.step; on_goal 1 => first | apply Does.pwr)
    | dsimp only

theorem State.switchSourcesOff_does (s n k) : Does [.row PWR_AX_LIVE, .pwr] s (State.switchSourcesOff s n k) := by
  unfold State.switchSourcesOff
  repeat' with_reducible first
    | assumption
    | decide
    | exact Does.refl _ _
    | (apply Does.step; on_goal 1 => first | apply State.sourceOff_does)
    | refine State.each_does (fun s b => ?_) ?_
    | dsimp only

theorem State.driveHb_does (s n k) : Does [.row PWR_AX_LIVE, .mods, .pwr] s (State.driveHb s n k) := by
  unfold State.driveHb
  repeat' with_reducible first
    | assumption
    | decide
    | exact Does.refl _ _
    | (apply Does.step; on_goal 1 => first | apply State.switchSourcesOff_does | refine State.modHb_does _ _ _ (fun h hs => by first | exact HalfBridge.apply_sound _ _ _ _ hs | exact HalfBridge.sound_of hs rfl rfl rfl | exact HalfBridge.expire_sound h _ hs))
    | dsimp only

theorem State.drive_does (s n) : Does [.row PWR_AX_LIVE, .mods, .pwr] s (State.drive s n) := by
  unfold State.drive
  repeat' with_reducible first
    | assumption
    | decide
    | exact Does.refl _ _
    | (apply Does.step; on_goal 1 => first | apply State.driveHb_does)
    | refine State.each_does (fun s b => ?_) ?_
    | dsimp only

theorem State.setAxCause_does (s n c) : Does [.one INT_AXCAUSE_LO, .one INT_AXCAUSE_HI] s (State.setAxCause s n c) := by
  unfold State.setAxCause
  repeat' with_reducible first
    | assumption
    | decide
    | exact Does.refl _ _
    | (apply Does.step; on_goal 1 => first | exact State.put_does _ ⟨INT_AXCAUSE_LO, _, _⟩ _ (by with_unfolding_all exact Field.has_one INT_AXCAUSE_LO) | exact State.put_does _ ⟨INT_AXCAUSE_HI, _, _⟩ _ (by with_unfolding_all exact Field.has_one INT_AXCAUSE_HI))
    | refine Does.ite ?_ ?_
    | refine Does.iteSnd ?_ ?_
    | dsimp only

theorem State.setCoast_does (s n c) : Does [.one MOD_STAT, .row MOD_AX_STAT] s (State.setCoast s n c) := by
  unfold State.setCoast
  repeat' with_reducible first
    | assumption
    | decide
    | exact Does.refl _ _
    | (apply Does.step; on_goal 1 => first | exact State.putBit_does _ MOD_STAT.COASTING _ _ (by with_unfolding_all exact Field.has_one MOD_STAT) | exact State.put_does _ (MOD_AX_STAT.COAST _) _ (by with_unfolding_all exact Field.has_row MOD_AX_STAT (fun _ => rfl) _))
    | dsimp only

theorem State.loseTrack_does (s n) : Does [.intg] s (State.loseTrack s n) := by
  unfold State.loseTrack
  repeat' with_reducible first
    | assumption
    | decide
    | exact Does.refl _ _
    | (intro x; first | (have _h : State := x; clear _h; clear_value (hx : x = _); refine Does.bind (l := [.intg]) (s := s) hx ?_ (fun _ => ?_)) | clear_value x)
    | lift_lets
    | (apply Does.step; on_goal 1 => first | apply Does.intg)
    | dsimp only

theorem State.enterSafe_does (s n c) : Does [.one MOD_STAT, .row MOD_AX_STAT, .row PWR_AX_LIVE, .one INT_AXCAUSE_LO, .one INT_AXCAUSE_HI, .intg, .mods, .pwr] s (State.enterSafe s n c) := by
  unfold State.enterSafe
  repeat' with_reducible first
    | assumption
    | decide
    | exact Does.refl _ _
    | (intro x; first | (have _h : State := x; clear _h; clear_value (hx : x = _); refine Does.bind (l := [.one MOD_STAT, .row MOD_AX_STAT, .row PWR_AX_LIVE, .one INT_AXCAUSE_LO, .one INT_AXCAUSE_HI, .intg, .mods, .pwr]) (s := s) hx ?_ (fun _ => ?_)) | clear_value x)
    | lift_lets
    | (apply Does.step; on_goal 1 => first | exact State.putBit_does _ MOD_STAT.SAFE _ _ (by with_unfolding_all exact Field.has_one MOD_STAT) | exact State.put_does _ (MOD_AX_STAT.SAFE _) _ (by with_unfolding_all exact Field.has_row MOD_AX_STAT (fun _ => rfl) _) | apply State.setAxCause_does | apply State.setCoast_does | apply State.drive_does)
    | refine State.when_does (fun s => ?_) ?_
    | refine Does.ite ?_ ?_
    | refine Does.iteSnd ?_ ?_
    | (apply Does.step; on_goal 1 => first | apply Does.intg)
    | dsimp only

theorem State.allSafe_does (s c) : Does [.one MOD_STAT, .row MOD_AX_STAT, .row PWR_AX_LIVE, .one INT_AXCAUSE_LO, .one INT_AXCAUSE_HI, .intg, .mods, .pwr] s (State.allSafe s c) := by
  unfold State.allSafe
  repeat' with_reducible first
    | assumption
    | decide
    | exact Does.refl _ _
    | (apply Does.step; on_goal 1 => first | apply State.enterSafe_does)
    | refine State.each_does (fun s b => ?_) ?_
    | dsimp only

theorem State.interlock_does (s n k) : Does [.one MOD_STAT, .one MOD_ILOCK_CNT, .row MOD_AX_STAT, .row MOD_AX_FORCE, .row PWR_AX_LIVE, .one INT_AXCAUSE_LO, .one INT_AXCAUSE_HI, .one MGT_LOG_STAT, .faults, .reel, .intg, .mgt, .can, .mods, .modg, .pwr] s (State.interlock s n k) := by
  unfold State.interlock
  repeat' with_reducible first
    | assumption
    | decide
    | exact Does.refl _ _
    | (intro x; first | (have _h : State := x; clear _h; clear_value (hx : x = _); refine Does.bind (l := [.one MOD_STAT, .one MOD_ILOCK_CNT, .row MOD_AX_STAT, .row MOD_AX_FORCE, .row PWR_AX_LIVE, .one INT_AXCAUSE_LO, .one INT_AXCAUSE_HI, .one MGT_LOG_STAT, .faults, .reel, .intg, .mgt, .can, .mods, .modg, .pwr]) (s := s) hx ?_ (fun _ => ?_)) | clear_value x)
    | lift_lets
    | (apply Does.step; on_goal 1 => first | exact State.put_does _ MOD_ILOCK_CNT.LAST_HB _ (by with_unfolding_all exact Field.has_one MOD_ILOCK_CNT) | exact State.bump_does _ MOD_ILOCK_CNT.EVENTS _ (by with_unfolding_all exact Field.has_one MOD_ILOCK_CNT) | exact State.put_does _ MOD_STAT.FORCE_ACTIVE _ (by with_unfolding_all exact Field.has_one MOD_STAT) | exact State.put_does _ (MOD_AX_FORCE.ACTIVE _) _ (by with_unfolding_all exact Field.has_row MOD_AX_FORCE (fun _ => rfl) _) | refine State.modHb_does _ _ _ (fun h hs => by first | exact HalfBridge.apply_sound _ _ _ _ hs | exact HalfBridge.sound_of hs rfl rfl rfl | exact HalfBridge.expire_sound h _ hs) | apply State.raise_does | apply State.enterSafe_does)
    | refine Does.ite ?_ ?_
    | refine Does.iteSnd ?_ ?_
    | (apply Does.step; on_goal 1 => first | apply Does.modg)
    | dsimp only

theorem State.driveChecked_does (s n) : Does [.one MOD_STAT, .one MOD_ILOCK_CNT, .row MOD_AX_STAT, .row MOD_AX_FORCE, .row PWR_AX_LIVE, .one INT_AXCAUSE_LO, .one INT_AXCAUSE_HI, .one MGT_LOG_STAT, .faults, .reel, .intg, .mgt, .can, .mods, .modg, .pwr] s (State.driveChecked s n) := by
  unfold State.driveChecked
  repeat' with_reducible first
    | assumption
    | decide
    | exact Does.refl _ _
    | (intro x; first | (have _h : State := x; clear _h; clear_value (hx : x = _); refine Does.bind (l := [.one MOD_STAT, .one MOD_ILOCK_CNT, .row MOD_AX_STAT, .row MOD_AX_FORCE, .row PWR_AX_LIVE, .one INT_AXCAUSE_LO, .one INT_AXCAUSE_HI, .one MGT_LOG_STAT, .faults, .reel, .intg, .mgt, .can, .mods, .modg, .pwr]) (s := s) hx ?_ (fun _ => ?_)) | clear_value x)
    | lift_lets
    | (apply Does.step; on_goal 1 => first | apply State.driveHb_does | apply State.interlock_does)
    | refine State.each_does (fun s b => ?_) ?_
    | refine Does.ite ?_ ?_
    | refine Does.iteSnd ?_ ?_
    | dsimp only

theorem State.rise_does (s n b) : Does [.mods] s (State.rise s n b) := by
  unfold State.rise
  repeat' with_reducible first
    | assumption
    | decide
    | exact Does.refl _ _
    | (intro x; first | (have _h : State := x; clear _h; clear_value (hx : x = _); refine Does.bind (l := [.mods]) (s := s) hx ?_ (fun _ => ?_)) | clear_value x)
    | lift_lets
    | (apply Does.step; on_goal 1 => first | refine State.modMod_does _ _ (fun m hm => by first | exact ModAx.shaped_of hm rfl | (split <;> exact ModAx.shaped_of hm rfl) | (unfold ModAx.modPhase; split <;> exact ModAx.shaped_of hm rfl) | exact ModAx.shaped_map hm rfl (fun x hx => by first | exact HalfBridge.sound_of hx rfl rfl rfl | exact HalfBridge.sound_off rfl rfl rfl)))
    | refine Does.ite ?_ ?_
    | refine Does.iteSnd ?_ ?_
    | dsimp only

theorem State.takePassed_does (s n b) : Does [.mods] s (State.takePassed s n b) := by
  unfold State.takePassed
  repeat' with_reducible first
    | assumption
    | decide
    | exact Does.refl _ _
    | (intro x; first | (have _h : State := x; clear _h; clear_value (hx : x = _); refine Does.bind (l := [.mods]) (s := s) hx ?_ (fun _ => ?_)) | clear_value x)
    | lift_lets
    | (apply Does.step; on_goal 1 => first | apply State.rise_does | apply State.modPhase_does)
    | refine State.when_does (fun s => ?_) ?_
    | refine Does.ite ?_ ?_
    | refine Does.iteSnd ?_ ?_
    | dsimp only

theorem State.place_does (s n b start) : Does [.mods] s (State.place s n b start) := by
  unfold State.place
  repeat' with_reducible first
    | assumption
    | decide
    | exact Does.refl _ _
    | (intro x; first | (have _h : State := x; clear _h; clear_value (hx : x = _); refine Does.bind (l := [.mods]) (s := s) hx ?_ (fun _ => ?_)) | clear_value x)
    | lift_lets
    | (apply Does.step; on_goal 1 => first | apply State.modPhase_does | apply State.takePassed_does)
    | refine Does.ite ?_ ?_
    | refine Does.iteSnd ?_ ?_
    | dsimp only

theorem State.voltageOut_does (s n b) : Does [.mods] s (State.voltageOut s n b) := by
  unfold State.voltageOut
  repeat' with_reducible first
    | assumption
    | decide
    | exact Does.refl _ _
    | (intro x; first | (have _h : State := x; clear _h; clear_value (hx : x = _); refine Does.bind (l := [.mods]) (s := s) hx ?_ (fun _ => ?_)) | clear_value x)
    | lift_lets
    | (apply Does.step; on_goal 1 => first | apply State.modPhase_does)
    | refine Does.ite ?_ ?_
    | refine Does.iteSnd ?_ ?_
    | dsimp only

theorem State.follow_does (s n) : Does [.one MOD_STAT, .one MOD_ILOCK_CNT, .row MOD_AX_STAT, .row MOD_AX_FORCE, .row PWR_AX_LIVE, .one INT_AXCAUSE_LO, .one INT_AXCAUSE_HI, .one MGT_LOG_STAT, .faults, .reel, .intg, .mgt, .can, .mods, .modg, .pwr] s (State.follow s n) := by
  unfold State.follow
  repeat' with_reducible first
    | assumption
    | decide
    | exact Does.refl _ _
    | (intro x; first | (have _h : State := x; clear _h; clear_value (hx : x = _); refine Does.bind (l := [.one MOD_STAT, .one MOD_ILOCK_CNT, .row MOD_AX_STAT, .row MOD_AX_FORCE, .row PWR_AX_LIVE, .one INT_AXCAUSE_LO, .one INT_AXCAUSE_HI, .one MGT_LOG_STAT, .faults, .reel, .intg, .mgt, .can, .mods, .modg, .pwr]) (s := s) hx ?_ (fun _ => ?_)) | clear_value x)
    | lift_lets
    | (apply Does.step; on_goal 1 => first | apply State.driveChecked_does | apply State.place_does | apply State.voltageOut_does)
    | refine State.each_does (fun s b => ?_) ?_
    | refine Does.ite ?_ ?_
    | refine Does.iteSnd ?_ ?_
    | dsimp only

theorem State.takeSetpoint_does (s eng axis idx w) : Does [.mods] s (State.takeSetpoint s eng axis idx w) := by
  unfold State.takeSetpoint
  repeat' with_reducible first
    | assumption
    | decide
    | exact Does.refl _ _
    | (intro x; first | (have _h : State := x; clear _h; clear_value (hx : x = _); refine Does.bind (l := [.mods]) (s := s) hx ?_ (fun _ => ?_)) | clear_value x)
    | lift_lets
    | (apply Does.step; on_goal 1 => first | refine State.modMod_does _ _ (fun m hm => by first | exact ModAx.shaped_of hm rfl | (split <;> exact ModAx.shaped_of hm rfl) | (unfold ModAx.modPhase; split <;> exact ModAx.shaped_of hm rfl) | exact ModAx.shaped_map hm rfl (fun x hx => by first | exact HalfBridge.sound_of hx rfl rfl rfl | exact HalfBridge.sound_off rfl rfl rfl)))
    | refine Does.ite ?_ ?_
    | refine Does.iteSnd ?_ ?_
    | dsimp only

theorem State.raiseVisible_does (s n code) : Does [.one MGT_LOG_STAT, .faults, .reel, .intg, .mgt, .can] s (State.raiseVisible s n code) := by
  unfold State.raiseVisible
  repeat' with_reducible first
    | assumption
    | decide
    | exact Does.refl _ _
    | (intro x; first | (have _h : State := x; clear _h; clear_value (hx : x = _); refine Does.bind (l := [.one MGT_LOG_STAT, .faults, .reel, .intg, .mgt, .can]) (s := s) hx ?_ (fun _ => ?_)) | clear_value x)
    | lift_lets
    | (apply Does.step; on_goal 1 => first | apply State.raise_does)
    | refine Does.ite ?_ ?_
    | refine Does.iteSnd ?_ ?_
    | (apply Does.step; on_goal 1 => first | apply Does.intg)
    | dsimp only

theorem State.clearLoops_does (s n) : Does [.mods] s (State.clearLoops s n) := by
  unfold State.clearLoops
  repeat' with_reducible first
    | assumption
    | decide
    | exact Does.refl _ _
    | (intro x; first | (have _h : State := x; clear _h; clear_value (hx : x = _); refine Does.bind (l := [.mods]) (s := s) hx ?_ (fun _ => ?_)) | clear_value x)
    | lift_lets
    | (apply Does.step; on_goal 1 => first | refine State.modMod_does _ _ (fun m hm => by first | exact ModAx.shaped_of hm rfl | (split <;> exact ModAx.shaped_of hm rfl) | (unfold ModAx.modPhase; split <;> exact ModAx.shaped_of hm rfl) | exact ModAx.shaped_map hm rfl (fun x hx => by first | exact HalfBridge.sound_of hx rfl rfl rfl | exact HalfBridge.sound_off rfl rfl rfl)))
    | dsimp only

theorem State.coastStop_does (s n) : Does [.one MOD_STAT, .one MOD_ILOCK_CNT, .row MOD_AX_STAT, .row MOD_AX_FORCE, .row PWR_AX_LIVE, .one INT_AXCAUSE_LO, .one INT_AXCAUSE_HI, .one MGT_LOG_STAT, .faults, .reel, .intg, .mgt, .can, .mods, .modg, .pwr] s (State.coastStop s n) := by
  unfold State.coastStop
  repeat' with_reducible first
    | assumption
    | decide
    | exact Does.refl _ _
    | (intro x; first | (have _h : State := x; clear _h; clear_value (hx : x = _); refine Does.bind (l := [.one MOD_STAT, .one MOD_ILOCK_CNT, .row MOD_AX_STAT, .row MOD_AX_FORCE, .row PWR_AX_LIVE, .one INT_AXCAUSE_LO, .one INT_AXCAUSE_HI, .one MGT_LOG_STAT, .faults, .reel, .intg, .mgt, .can, .mods, .modg, .pwr]) (s := s) hx ?_ (fun _ => ?_)) | clear_value x)
    | lift_lets
    | (apply Does.step; on_goal 1 => first | apply State.clearLoops_does | refine State.modMod_does _ _ (fun m hm => by first | exact ModAx.shaped_of hm rfl | (split <;> exact ModAx.shaped_of hm rfl) | (unfold ModAx.modPhase; split <;> exact ModAx.shaped_of hm rfl) | exact ModAx.shaped_map hm rfl (fun x hx => by first | exact HalfBridge.sound_of hx rfl rfl rfl | exact HalfBridge.sound_off rfl rfl rfl)) | apply State.follow_does | apply State.driveChecked_does | apply State.raiseVisible_does | apply State.setCoast_does)
    | refine Does.ite ?_ ?_
    | refine Does.iteSnd ?_ ?_
    | dsimp only

/-- What `State.commitAxis` and its like may change. -/
def Parts.ofCommitAxis : List Field :=
  [.one MOD_STAT, .one MOD_ILOCK_CNT, .row MOD_AX_SPW0, .row MOD_AX_SPW1, .row MOD_AX_STAT, .row MOD_AX_FORCE,
    .row PWR_AX_LIVE, .row PWR_AX_DIAG, .one INT_AXCAUSE_LO, .one INT_AXCAUSE_HI, .one MGT_LOG_STAT, .faults, .reel,
    .intg, .mgt, .can, .mods, .modg, .pwr]

theorem State.commitAxis_does (s n p) : Does Parts.ofCommitAxis s (State.commitAxis s n p) := by
  unfold State.commitAxis
  repeat' with_reducible first
    | assumption
    | decide
    | exact Does.refl _ _
    | (intro x; first | (have _h : State := x; clear _h; clear_value (hx : x = _); refine Does.bind (l := Parts.ofCommitAxis) (s := s) hx ?_ (fun _ => ?_)) | clear_value x)
    | lift_lets
    | (apply Does.step; on_goal 1 => first | exact State.put_does _ (MOD_AX_STAT.JUMP _) _ (by with_unfolding_all exact Field.has_row MOD_AX_STAT (fun _ => rfl) _) | exact State.setWord_does _ (MOD_AX_SPW1 _) _ (by with_unfolding_all exact Field.has_row MOD_AX_SPW1 (fun _ => rfl) _) | exact State.setWord_does _ (MOD_AX_SPW0 _) _ (by with_unfolding_all exact Field.has_row MOD_AX_SPW0 (fun _ => rfl) _) | exact State.put_does _ (MOD_AX_STAT.FIRST_WAIT _) _ (by with_unfolding_all exact Field.has_row MOD_AX_STAT (fun _ => rfl) _) | exact State.put_does _ (PWR_AX_DIAG.RESULT_B _) _ (by with_unfolding_all exact Field.has_row PWR_AX_DIAG (fun _ => rfl) _) | exact State.put_does _ (PWR_AX_DIAG.RESULT_A _) _ (by with_unfolding_all exact Field.has_row PWR_AX_DIAG (fun _ => rfl) _) | exact State.put_does _ (PWR_AX_DIAG.BUSY _) _ (by with_unfolding_all exact Field.has_row PWR_AX_DIAG (fun _ => rfl) _) | apply State.raiseVisible_does | apply State.clearLoops_does | refine State.modMod_does _ _ (fun m hm => by first | exact ModAx.shaped_of hm rfl | (split <;> exact ModAx.shaped_of hm rfl) | (unfold ModAx.modPhase; split <;> exact ModAx.shaped_of hm rfl) | exact ModAx.shaped_map hm rfl (fun x hx => by first | exact HalfBridge.sound_of hx rfl rfl rfl | exact HalfBridge.sound_off rfl rfl rfl)) | apply State.setCoast_does | apply State.follow_does | apply State.driveChecked_does)
    | refine Does.ite ?_ ?_
    | refine Does.iteSnd ?_ ?_
    | (apply Does.step; on_goal 1 => first | apply Does.intg)
    | dsimp only

theorem State.discardPairs_does (s n) : Does [.row MOD_AX_CNT] s (State.discardPairs s n) := by
  unfold State.discardPairs
  repeat' with_reducible first
    | assumption
    | decide
    | exact Does.refl _ _
    | (apply Does.step; on_goal 1 => first | exact State.bump_does _ (MOD_AX_CNT.DISCARD _) _ (by with_unfolding_all exact Field.has_row MOD_AX_CNT (fun _ => rfl) _))
    | refine Does.ite ?_ ?_
    | refine Does.iteSnd ?_ ?_
    | dsimp only

theorem State.coastAxis_does (s n) : Does [.one MOD_STAT, .one MOD_ILOCK_CNT, .row MOD_AX_STAT, .row MOD_AX_FORCE, .row MOD_AX_CNT, .row PWR_AX_LIVE, .one INT_AXCAUSE_LO, .one INT_AXCAUSE_HI, .one MGT_LOG_STAT, .faults, .reel, .intg, .mgt, .can, .mods, .modg, .pwr] s (State.coastAxis s n) := by
  unfold State.coastAxis
  repeat' with_reducible first
    | assumption
    | decide
    | exact Does.refl _ _
    | (intro x; first | (have _h : State := x; clear _h; clear_value (hx : x = _); refine Does.bind (l := [.one MOD_STAT, .one MOD_ILOCK_CNT, .row MOD_AX_STAT, .row MOD_AX_FORCE, .row MOD_AX_CNT, .row PWR_AX_LIVE, .one INT_AXCAUSE_LO, .one INT_AXCAUSE_HI, .one MGT_LOG_STAT, .faults, .reel, .intg, .mgt, .can, .mods, .modg, .pwr]) (s := s) hx ?_ (fun _ => ?_)) | clear_value x)
    | lift_lets
    | (apply Does.step; on_goal 1 => first | exact State.bump_does _ (MOD_AX_CNT.DISCARD _) _ (by with_unfolding_all exact Field.has_row MOD_AX_CNT (fun _ => rfl) _) | apply State.coastStop_does | apply State.raise_does | refine State.modMod_does _ _ (fun m hm => by first | exact ModAx.shaped_of hm rfl | (split <;> exact ModAx.shaped_of hm rfl) | (unfold ModAx.modPhase; split <;> exact ModAx.shaped_of hm rfl) | exact ModAx.shaped_map hm rfl (fun x hx => by first | exact HalfBridge.sound_of hx rfl rfl rfl | exact HalfBridge.sound_off rfl rfl rfl)) | apply State.setCoast_does)
    | refine Does.ite ?_ ?_
    | refine Does.iteSnd ?_ ?_
    | dsimp only

/-- What `State.judgePairs` and its like may change. -/
def Parts.ofJudgePairs : List Field :=
  [.one MOD_STAT, .one MOD_ILOCK_CNT, .row MOD_AX_SPW0, .row MOD_AX_SPW1, .row MOD_AX_STAT, .row MOD_AX_FORCE,
    .row MOD_AX_CNT, .row PWR_AX_LIVE, .row PWR_AX_DIAG, .one INT_AXCAUSE_LO, .one INT_AXCAUSE_HI, .one MGT_LOG_STAT,
    .faults, .reel, .intg, .mgt, .can, .mods, .modg, .pwr]

theorem State.judgePairs_does (s n fcnt ps) : Does Parts.ofJudgePairs s (State.judgePairs s n fcnt ps) := by
  unfold State.judgePairs
  repeat' with_reducible first
    | assumption
    | decide
    | exact Does.refl _ _
    | (intro x; first | (have _h : State := x; clear _h; clear_value (hx : x = _); refine Does.bind (l := Parts.ofJudgePairs) (s := s) hx ?_ (fun _ => ?_)) | clear_value x)
    | lift_lets
    | (apply Does.step; on_goal 1 => first | apply State.coastAxis_does | apply State.discardPairs_does | apply State.raise_does | apply State.commitAxis_does)
    | refine Does.ite ?_ ?_
    | refine Does.iteSnd ?_ ?_
    | split
    | dsimp only

theorem State.commitDecision_does (s n fcnt) : Does Parts.ofJudgePairs s (State.commitDecision s n fcnt) := by
  unfold State.commitDecision
  repeat' with_reducible first
    | assumption
    | decide
    | exact Does.refl _ _
    | (intro x; first | (have _h : State := x; clear _h; clear_value (hx : x = _); refine Does.bind (l := Parts.ofJudgePairs) (s := s) hx ?_ (fun _ => ?_)) | clear_value x)
    | lift_lets
    | (apply Does.step; on_goal 1 => first | refine State.modMod_does _ _ (fun m hm => by first | exact ModAx.shaped_of hm rfl | (split <;> exact ModAx.shaped_of hm rfl) | (unfold ModAx.modPhase; split <;> exact ModAx.shaped_of hm rfl) | exact ModAx.shaped_map hm rfl (fun x hx => by first | exact HalfBridge.sound_of hx rfl rfl rfl | exact HalfBridge.sound_off rfl rfl rfl)) | apply State.judgePairs_does | apply State.coastStop_does)
    | refine Does.ite ?_ ?_
    | refine Does.iteSnd ?_ ?_
    | dsimp only

theorem State.modFrameEnd_does (s n) : Does [.one MOD_STAT, .row MOD_AX_STAT, .row MOD_AX_CNT, .row PWR_AX_LIVE, .one INT_AXCAUSE_LO, .one INT_AXCAUSE_HI, .one MGT_LOG_STAT, .faults, .reel, .intg, .mgt, .can, .mods, .modg, .pwr] s (State.modFrameEnd s n) := by
  unfold State.modFrameEnd
  repeat' with_reducible first
    | assumption
    | decide
    | exact Does.refl _ _
    | (intro x; first | (have _h : State := x; clear _h; clear_value (hx : x = _); refine Does.bind (l := [.one MOD_STAT, .row MOD_AX_STAT, .row MOD_AX_CNT, .row PWR_AX_LIVE, .one INT_AXCAUSE_LO, .one INT_AXCAUSE_HI, .one MGT_LOG_STAT, .faults, .reel, .intg, .mgt, .can, .mods, .modg, .pwr]) (s := s) hx ?_ (fun _ => ?_)) | clear_value x)
    | lift_lets
    | (apply Does.step; on_goal 1 => first | exact State.put_does _ (MOD_AX_CNT.MISS _) _ (by with_unfolding_all exact Field.has_row MOD_AX_CNT (fun _ => rfl) _) | exact State.put_does _ (MOD_AX_STAT.ILK _) _ (by with_unfolding_all exact Field.has_row MOD_AX_STAT (fun _ => rfl) _) | exact State.put_does _ (MOD_AX_CNT.SHO _) _ (by with_unfolding_all exact Field.has_row MOD_AX_CNT (fun _ => rfl) _) | exact State.put_does _ (MOD_AX_STAT.CEIL _) _ (by with_unfolding_all exact Field.has_row MOD_AX_STAT (fun _ => rfl) _) | refine State.modMod_does _ _ (fun m hm => by first | exact ModAx.shaped_of hm rfl | (split <;> exact ModAx.shaped_of hm rfl) | (unfold ModAx.modPhase; split <;> exact ModAx.shaped_of hm rfl) | exact ModAx.shaped_map hm rfl (fun x hx => by first | exact HalfBridge.sound_of hx rfl rfl rfl | exact HalfBridge.sound_off rfl rfl rfl)) | apply State.raiseVisible_does | apply State.enterSafe_does)
    | refine Does.ite ?_ ?_
    | refine Does.iteSnd ?_ ?_
    | (apply Does.step; on_goal 1 => first | apply Does.modg)
    | dsimp only

theorem State.misfitCheck_does (s n) : Does [.one MGT_LOG_STAT, .faults, .reel, .mgt, .can, .mods] s (State.misfitCheck s n) := by
  unfold State.misfitCheck
  repeat' with_reducible first
    | assumption
    | decide
    | exact Does.refl _ _
    | (intro x; first | (have _h : State := x; clear _h; clear_value (hx : x = _); refine Does.bind (l := [.one MGT_LOG_STAT, .faults, .reel, .mgt, .can, .mods]) (s := s) hx ?_ (fun _ => ?_)) | clear_value x)
    | lift_lets
    | (apply Does.step; on_goal 1 => first | refine State.modMod_does _ _ (fun m hm => by first | exact ModAx.shaped_of hm rfl | (split <;> exact ModAx.shaped_of hm rfl) | (unfold ModAx.modPhase; split <;> exact ModAx.shaped_of hm rfl) | exact ModAx.shaped_map hm rfl (fun x hx => by first | exact HalfBridge.sound_of hx rfl rfl rfl | exact HalfBridge.sound_off rfl rfl rfl)) | apply State.raise_does)
    | refine Does.ite ?_ ?_
    | refine Does.iteSnd ?_ ?_
    | dsimp only

theorem State.cmtTransfer_does (s n) : Does [.one MOD_CMT_PEND, .row MOD_AX_STAT, .one MGT_LOG_STAT, .faults, .reel, .mgt, .can, .mods] s (State.cmtTransfer s n) := by
  unfold State.cmtTransfer
  repeat' with_reducible first
    | assumption
    | decide
    | exact Does.refl _ _
    | (intro x; first | (have _h : State := x; clear _h; clear_value (hx : x = _); refine Does.bind (l := [.one MOD_CMT_PEND, .row MOD_AX_STAT, .one MGT_LOG_STAT, .faults, .reel, .mgt, .can, .mods]) (s := s) hx ?_ (fun _ => ?_)) | clear_value x)
    | lift_lets
    | (apply Does.step; on_goal 1 => first | exact State.putBit_does _ MOD_CMT_PEND.ARMED _ _ (by with_unfolding_all exact Field.has_one MOD_CMT_PEND) | exact State.put_does _ (MOD_AX_STAT.DUTY_CLAMP _) _ (by with_unfolding_all exact Field.has_row MOD_AX_STAT (fun _ => rfl) _) | apply State.clearLoops_does | refine State.modMod_does _ _ (fun m hm => by first | exact ModAx.shaped_of hm rfl | (split <;> exact ModAx.shaped_of hm rfl) | (unfold ModAx.modPhase; split <;> exact ModAx.shaped_of hm rfl) | exact ModAx.shaped_map hm rfl (fun x hx => by first | exact HalfBridge.sound_of hx rfl rfl rfl | exact HalfBridge.sound_off rfl rfl rfl)) | apply State.raise_does)
    | refine Does.ite ?_ ?_
    | refine Does.iteSnd ?_ ?_
    | split
    | dsimp only

theorem State.modStandby_does (s n) : Does [.one MOD_STAT, .one MOD_CMT_PEND, .one MOD_ILOCK_CNT, .row MOD_AX_STAT, .row MOD_AX_FORCE, .row PWR_AX_LIVE, .one INT_AXCAUSE_LO, .one INT_AXCAUSE_HI, .one MGT_LOG_STAT, .faults, .reel, .intg, .mgt, .can, .mods, .modg, .pwr] s (State.modStandby s n) := by
  unfold State.modStandby
  repeat' with_reducible first
    | assumption
    | decide
    | exact Does.refl _ _
    | (intro x; first | (have _h : State := x; clear _h; clear_value (hx : x = _); refine Does.bind (l := [.one MOD_STAT, .one MOD_CMT_PEND, .one MOD_ILOCK_CNT, .row MOD_AX_STAT, .row MOD_AX_FORCE, .row PWR_AX_LIVE, .one INT_AXCAUSE_LO, .one INT_AXCAUSE_HI, .one MGT_LOG_STAT, .faults, .reel, .intg, .mgt, .can, .mods, .modg, .pwr]) (s := s) hx ?_ (fun _ => ?_)) | clear_value x)
    | lift_lets
    | (apply Does.step; on_goal 1 => first | exact State.put_does _ (MOD_AX_STAT.FIRST_WAIT _) _ (by with_unfolding_all exact Field.has_row MOD_AX_STAT (fun _ => rfl) _) | apply State.cmtTransfer_does | apply State.setCoast_does | apply State.clearLoops_does | refine State.modMod_does _ _ (fun m hm => by first | exact ModAx.shaped_of hm rfl | (split <;> exact ModAx.shaped_of hm rfl) | (unfold ModAx.modPhase; split <;> exact ModAx.shaped_of hm rfl) | exact ModAx.shaped_map hm rfl (fun x hx => by first | exact HalfBridge.sound_of hx rfl rfl rfl | exact HalfBridge.sound_off rfl rfl rfl)) | apply State.driveChecked_does)
    | dsimp only

theorem State.arm_does (s n) : Does [.one MOD_CMT_PEND, .row MOD_AX_STAT, .one MGT_LOG_STAT, .faults, .reel, .mgt, .can, .mods] s (State.arm s n) := by
  unfold State.arm
  repeat' with_reducible first
    | assumption
    | decide
    | exact Does.refl _ _
    | (intro x; first | (have _h : State := x; clear _h; clear_value (hx : x = _); refine Does.bind (l := [.one MOD_CMT_PEND, .row MOD_AX_STAT, .one MGT_LOG_STAT, .faults, .reel, .mgt, .can, .mods]) (s := s) hx ?_ (fun _ => ?_)) | clear_value x)
    | lift_lets
    | (apply Does.step; on_goal 1 => first | exact State.putBit_does _ MOD_CMT_PEND.ARMED _ _ (by with_unfolding_all exact Field.has_one MOD_CMT_PEND) | refine State.modMod_does _ _ (fun m hm => by first | exact ModAx.shaped_of hm rfl | (split <;> exact ModAx.shaped_of hm rfl) | (unfold ModAx.modPhase; split <;> exact ModAx.shaped_of hm rfl) | exact ModAx.shaped_map hm rfl (fun x hx => by first | exact HalfBridge.sound_of hx rfl rfl rfl | exact HalfBridge.sound_off rfl rfl rfl)) | apply State.cmtTransfer_does)
    | refine Does.ite ?_ ?_
    | refine Does.iteSnd ?_ ?_
    | dsimp only

theorem State.writeCommit_does (s v) : Does [.one MOD_CMT_PEND, .row MOD_AX_STAT, .one MGT_LOG_STAT, .faults, .reel, .mgt, .can, .spi, .mods] s (State.writeCommit s v) := by
  unfold State.writeCommit
  repeat' with_reducible first
    | assumption
    | decide
    | exact Does.refl _ _
    | (intro x; first | (have _h : State := x; clear _h; clear_value (hx : x = _); refine Does.bind (l := [.one MOD_CMT_PEND, .row MOD_AX_STAT, .one MGT_LOG_STAT, .faults, .reel, .mgt, .can, .spi, .mods]) (s := s) hx ?_ (fun _ => ?_)) | clear_value x)
    | lift_lets
    | (apply Does.step; on_goal 1 => first | apply State.refuse_does | apply State.arm_does)
    | refine State.each_does (fun s b => ?_) ?_
    | refine Does.ite ?_ ?_
    | refine Does.iteSnd ?_ ?_
    | dsimp only

theorem State.writeForce_does (s n v) : Does [.one MOD_STAT, .one MOD_ILOCK_CNT, .row MOD_AX_STAT, .row MOD_AX_FORCE, .row PWR_AX_LIVE, .one INT_AXCAUSE_LO, .one INT_AXCAUSE_HI, .one MGT_LOG_STAT, .faults, .reel, .intg, .mgt, .can, .spi, .mods, .modg, .pwr] s (State.writeForce s n v) := by
  unfold State.writeForce
  repeat' with_reducible first
    | assumption
    | decide
    | exact Does.refl _ _
    | (intro x; first | (have _h : State := x; clear _h; clear_value (hx : x = _); refine Does.bind (l := [.one MOD_STAT, .one MOD_ILOCK_CNT, .row MOD_AX_STAT, .row MOD_AX_FORCE, .row PWR_AX_LIVE, .one INT_AXCAUSE_LO, .one INT_AXCAUSE_HI, .one MGT_LOG_STAT, .faults, .reel, .intg, .mgt, .can, .spi, .mods, .modg, .pwr]) (s := s) hx ?_ (fun _ => ?_)) | clear_value x)
    | lift_lets
    | (apply Does.step; on_goal 1 => first | exact State.setWord_does _ (MOD_AX_FORCE _) _ (by with_unfolding_all exact Field.has_row MOD_AX_FORCE (fun _ => rfl) _) | exact State.put_does _ MOD_STAT.FORCE_ACTIVE _ (by with_unfolding_all exact Field.has_one MOD_STAT) | apply State.refuse_does | apply State.driveChecked_does)
    | refine Does.ite ?_ ?_
    | refine Does.iteSnd ?_ ?_
    | dsimp only

theorem execSetpointArrive_does (e s) : ∀ t, execSetpointArrive e s = .next t → Does [.intg, .mods, .queues] s t := by
  unfold execSetpointArrive
  refine whenPowered_does ?_
  repeat' with_reducible first
    | assumption
    | decide
    | exact Does.refl _ _
    | (intro x; first | (have _h : State := x; clear _h; clear_value (hx : x = _); refine Does.bind (l := [.intg, .mods, .queues]) (s := s) hx ?_ (fun _ => ?_)) | clear_value x)
    | lift_lets
    | (apply Does.step; on_goal 1 => first | apply State.takeSetpoint_does | apply State.setQueue_does)
    | refine State.when_does (fun s => ?_) ?_
    | split
    | dsimp only

theorem State.showRefreshes_does (s n) : Does [.row PWR_AX_STAT] s (State.showRefreshes s n) := by
  unfold State.showRefreshes
  repeat' with_reducible first
    | assumption
    | decide
    | exact Does.refl _ _
    | (apply Does.step; on_goal 1 => first | exact State.put_does _ (PWR_AX_STAT.REF_CNT _) _ (by with_unfolding_all exact Field.has_row PWR_AX_STAT (fun _ => rfl) _))
    | dsimp only

theorem State.toCarrier_does (s n) : Does [.clk] s (State.toCarrier s n) := by
  unfold State.toCarrier
  repeat' with_reducible first
    | assumption
    | decide
    | exact Does.refl _ _
    | (intro x; first | (have _h : State := x; clear _h; clear_value (hx : x = _); refine Does.bind (l := [.clk]) (s := s) hx ?_ (fun _ => ?_)) | clear_value x)
    | lift_lets
    | (apply Does.step; on_goal 1 => first | apply State.advanceTo_does)
    | refine Does.ite ?_ ?_
    | refine Does.iteSnd ?_ ?_
    | dsimp only

theorem State.phaseStart_does (s n b) : Does [.row PWR_AX_STAT, .row PWR_AX_CNT, .mods] s (State.phaseStart s n b) := by
  unfold State.phaseStart
  repeat' with_reducible first
    | assumption
    | decide
    | exact Does.refl _ _
    | (intro x; first | (have _h : State := x; clear _h; clear_value (hx : x = _); refine Does.bind (l := [.row PWR_AX_STAT, .row PWR_AX_CNT, .mods]) (s := s) hx ?_ (fun _ => ?_)) | clear_value x)
    | lift_lets
    | (apply Does.step; on_goal 1 => first | exact State.bump_does _ (PWR_AX_CNT.REFRESH _) _ (by with_unfolding_all exact Field.has_row PWR_AX_CNT (fun _ => rfl) _) | apply State.modPhase_does | apply State.showRefreshes_does | apply State.voltageOut_does | apply State.place_does | apply State.rise_does)
    | refine Does.ite ?_ ?_
    | refine Does.iteSnd ?_ ?_
    | dsimp only

theorem State.carrierStart_does (s n) : Does Parts.carrierStart s (State.carrierStart s n) := by
  unfold State.carrierStart
  repeat' with_reducible first
    | assumption
    | decide
    | exact Does.refl _ _
    | (intro x; first | (have _h : State := x; clear _h; clear_value (hx : x = _); refine Does.bind (l := Parts.carrierStart) (s := s) hx ?_ (fun _ => ?_)) | clear_value x)
    | lift_lets
    | (apply Does.step; on_goal 1 => first | apply State.cmtTransfer_does | apply State.toCarrier_does | refine State.modMod_does _ _ (fun m hm => by first | exact ModAx.shaped_of hm rfl | (split <;> exact ModAx.shaped_of hm rfl) | (unfold ModAx.modPhase; split <;> exact ModAx.shaped_of hm rfl) | exact ModAx.shaped_map hm rfl (fun x hx => by first | exact HalfBridge.sound_of hx rfl rfl rfl | exact HalfBridge.sound_off rfl rfl rfl)) | apply State.phaseStart_does | apply State.interlock_does | apply State.driveChecked_does)
    | refine State.each_does (fun s b => ?_) ?_
    | refine Does.ite ?_ ?_
    | refine Does.iteSnd ?_ ?_
    | dsimp only

theorem execCarrierStart_does (n s) : ∀ t, execCarrierStart n s = .next t → Does Parts.carrierStart s t := by
  unfold execCarrierStart
  refine whenPowered_does ?_
  repeat' with_reducible first
    | assumption
    | decide
    | exact Does.refl _ _
    | (apply Does.step; on_goal 1 => first | apply State.carrierStart_does)
    | refine State.when_does (fun s => ?_) ?_
    | refine Does.ite ?_ ?_
    | refine Does.iteSnd ?_ ?_
    | dsimp only

theorem execCarrierEdge_does (n b s) : ∀ t, execCarrierEdge n b s = .next t → Does [.one MOD_STAT, .one MOD_ILOCK_CNT, .row MOD_AX_STAT, .row MOD_AX_FORCE, .row PWR_AX_LIVE, .one INT_AXCAUSE_LO, .one INT_AXCAUSE_HI, .one MGT_LOG_STAT, .faults, .reel, .intg, .mgt, .can, .mods, .modg, .pwr] s t := by
  unfold execCarrierEdge
  refine whenPowered_does ?_
  repeat' with_reducible first
    | assumption
    | decide
    | exact Does.refl _ _
    | (intro x; first | (have _h : State := x; clear _h; clear_value (hx : x = _); refine Does.bind (l := [.one MOD_STAT, .one MOD_ILOCK_CNT, .row MOD_AX_STAT, .row MOD_AX_FORCE, .row PWR_AX_LIVE, .one INT_AXCAUSE_LO, .one INT_AXCAUSE_HI, .one MGT_LOG_STAT, .faults, .reel, .intg, .mgt, .can, .mods, .modg, .pwr]) (s := s) hx ?_ (fun _ => ?_)) | clear_value x)
    | lift_lets
    | (apply Does.step; on_goal 1 => first | apply State.follow_does | apply State.driveChecked_does | apply State.modPhase_does | apply State.rise_does)
    | refine State.when_does (fun s => ?_) ?_
    | refine Does.ite ?_ ?_
    | refine Does.iteSnd ?_ ?_
    | dsimp only

theorem execDeadTimeExpire_does (n b s) : ∀ t, execDeadTimeExpire n b s = .next t → Does [.intg, .mods] s t := by
  unfold execDeadTimeExpire
  refine whenPowered_does ?_
  repeat' with_reducible first
    | assumption
    | decide
    | exact Does.refl _ _
    | (apply Does.step; on_goal 1 => first | refine State.modHb_does _ _ _ (fun h hs => by first | exact HalfBridge.apply_sound _ _ _ _ hs | exact HalfBridge.sound_of hs rfl rfl rfl | exact HalfBridge.expire_sound h _ hs))
    | refine State.when_does (fun s => ?_) ?_
    | dsimp only

theorem State.showOpen_does (s n b v) : Does [.row PWR_AX_STAT] s (State.showOpen s n b v) := by
  unfold State.showOpen
  repeat' with_reducible first
    | assumption
    | decide
    | exact Does.refl _ _
    | (apply Does.step; on_goal 1 => first | exact State.put_does _ (PWR_AX_STAT.OL_B _) _ (by with_unfolding_all exact Field.has_row PWR_AX_STAT (fun _ => rfl) _) | exact State.put_does _ (PWR_AX_STAT.OL_A _) _ (by with_unfolding_all exact Field.has_row PWR_AX_STAT (fun _ => rfl) _))
    | refine Does.ite ?_ ?_
    | refine Does.iteSnd ?_ ?_
    | dsimp only

theorem State.openLoad_does (s n b ref value) : Does [.one MOD_STAT, .row MOD_AX_STAT, .row PWR_AX_LIVE, .row PWR_AX_STAT, .one INT_AXCAUSE_LO, .one INT_AXCAUSE_HI, .one MGT_LOG_STAT, .faults, .reel, .intg, .mgt, .can, .mods, .pwr] s (State.openLoad s n b ref value) := by
  unfold State.openLoad
  repeat' with_reducible first
    | assumption
    | decide
    | exact Does.refl _ _
    | (intro x; first | (have _h : State := x; clear _h; clear_value (hx : x = _); refine Does.bind (l := [.one MOD_STAT, .row MOD_AX_STAT, .row PWR_AX_LIVE, .row PWR_AX_STAT, .one INT_AXCAUSE_LO, .one INT_AXCAUSE_HI, .one MGT_LOG_STAT, .faults, .reel, .intg, .mgt, .can, .mods, .pwr]) (s := s) hx ?_ (fun _ => ?_)) | clear_value x)
    | lift_lets
    | (apply Does.step; on_goal 1 => first | apply State.modPhase_does | apply State.raise_does | apply State.showOpen_does | apply State.enterSafe_does)
    | refine Does.ite ?_ ?_
    | refine Does.iteSnd ?_ ?_
    | dsimp only

theorem State.currentSample_does (s n b w) : Does [.one MOD_STAT, .one MOD_ILOCK_CNT, .row MOD_AX_STAT, .row MOD_AX_FORCE, .row PWR_AX_LIVE, .row PWR_AX_STAT, .one INT_AXCAUSE_LO, .one INT_AXCAUSE_HI, .one MGT_LOG_STAT, .faults, .reel, .intg, .mgt, .can, .mods, .modg, .pwr] s (State.currentSample s n b w) := by
  unfold State.currentSample
  repeat' with_reducible first
    | assumption
    | decide
    | exact Does.refl _ _
    | (intro x; first | (have _h : State := x; clear _h; clear_value (hx : x = _); refine Does.bind (l := [.one MOD_STAT, .one MOD_ILOCK_CNT, .row MOD_AX_STAT, .row MOD_AX_FORCE, .row PWR_AX_LIVE, .row PWR_AX_STAT, .one INT_AXCAUSE_LO, .one INT_AXCAUSE_HI, .one MGT_LOG_STAT, .faults, .reel, .intg, .mgt, .can, .mods, .modg, .pwr]) (s := s) hx ?_ (fun _ => ?_)) | clear_value x)
    | lift_lets
    | (apply Does.step; on_goal 1 => first | apply State.driveChecked_does | apply State.openLoad_does | apply State.modPhase_does | apply State.place_does)
    | refine Does.ite ?_ ?_
    | refine Does.iteSnd ?_ ?_
    | dsimp only

theorem execCurrentSample_does (n b w s) : ∀ t, execCurrentSample n b w s = .next t → Does [.one MOD_STAT, .one MOD_ILOCK_CNT, .row MOD_AX_STAT, .row MOD_AX_FORCE, .row PWR_AX_LIVE, .row PWR_AX_STAT, .one INT_AXCAUSE_LO, .one INT_AXCAUSE_HI, .one MGT_LOG_STAT, .faults, .reel, .intg, .mgt, .can, .mods, .modg, .pwr, .queues] s t := by
  unfold execCurrentSample
  refine whenPowered_does ?_
  repeat' with_reducible first
    | assumption
    | decide
    | exact Does.refl _ _
    | (intro x; first | (have _h : State := x; clear _h; clear_value (hx : x = _); refine Does.bind (l := [.one MOD_STAT, .one MOD_ILOCK_CNT, .row MOD_AX_STAT, .row MOD_AX_FORCE, .row PWR_AX_LIVE, .row PWR_AX_STAT, .one INT_AXCAUSE_LO, .one INT_AXCAUSE_HI, .one MGT_LOG_STAT, .faults, .reel, .intg, .mgt, .can, .mods, .modg, .pwr, .queues]) (s := s) hx ?_ (fun _ => ?_)) | clear_value x)
    | lift_lets
    | (apply Does.step; on_goal 1 => first | apply State.currentSample_does | apply State.setQueue_does)
    | refine State.when_does (fun s => ?_) ?_
    | refine Does.ite ?_ ?_
    | refine Does.iteSnd ?_ ?_
    | split
    | dsimp only

theorem State.toHold_does (s n b) : Does [.clk] s (State.toHold s n b) := by
  unfold State.toHold
  repeat' with_reducible first
    | assumption
    | decide
    | exact Does.refl _ _
    | (intro x; first | (have _h : State := x; clear _h; clear_value (hx : x = _); refine Does.bind (l := [.clk]) (s := s) hx ?_ (fun _ => ?_)) | clear_value x)
    | lift_lets
    | (apply Does.step; on_goal 1 => first | apply State.advanceTo_does)
    | refine Does.ite ?_ ?_
    | refine Does.iteSnd ?_ ?_
    | split
    | dsimp only

theorem State.holdBegin_does (s n b) : Does [.mods] s (State.holdBegin s n b) := by
  unfold State.holdBegin
  repeat' with_reducible first
    | assumption
    | decide
    | exact Does.refl _ _
    | (intro x; first | (have _h : State := x; clear _h; clear_value (hx : x = _); refine Does.bind (l := [.mods]) (s := s) hx ?_ (fun _ => ?_)) | clear_value x)
    | lift_lets
    | (apply Does.step; on_goal 1 => first | apply State.modPhase_does | refine State.modMod_does _ _ (fun m hm => by first | exact ModAx.shaped_of hm rfl | (split <;> exact ModAx.shaped_of hm rfl) | (unfold ModAx.modPhase; split <;> exact ModAx.shaped_of hm rfl) | exact ModAx.shaped_map hm rfl (fun x hx => by first | exact HalfBridge.sound_of hx rfl rfl rfl | exact HalfBridge.sound_off rfl rfl rfl)))
    | refine Does.ite ?_ ?_
    | refine Does.iteSnd ?_ ?_
    | dsimp only

theorem execSampleHoldoff_does (n b begins s) : ∀ t, execSampleHoldoff n b begins s = .next t → Does [.one MOD_STAT, .one MOD_ILOCK_CNT, .row MOD_AX_STAT, .row MOD_AX_FORCE, .row PWR_AX_LIVE, .one INT_AXCAUSE_LO, .one INT_AXCAUSE_HI, .one MGT_LOG_STAT, .faults, .clk, .reel, .intg, .mgt, .can, .mods, .modg, .pwr] s t := by
  unfold execSampleHoldoff
  refine whenPowered_does ?_
  repeat' with_reducible first
    | assumption
    | decide
    | exact Does.refl _ _
    | (intro x; first | (have _h : State := x; clear _h; clear_value (hx : x = _); refine Does.bind (l := [.one MOD_STAT, .one MOD_ILOCK_CNT, .row MOD_AX_STAT, .row MOD_AX_FORCE, .row PWR_AX_LIVE, .one INT_AXCAUSE_LO, .one INT_AXCAUSE_HI, .one MGT_LOG_STAT, .faults, .clk, .reel, .intg, .mgt, .can, .mods, .modg, .pwr]) (s := s) hx ?_ (fun _ => ?_)) | clear_value x)
    | lift_lets
    | (apply Does.step; on_goal 1 => first | apply State.driveChecked_does | apply State.modPhase_does | apply State.holdBegin_does | apply State.toHold_does)
    | refine State.when_does (fun s => ?_) ?_
    | refine Does.ite ?_ ?_
    | refine Does.iteSnd ?_ ?_
    | dsimp only

theorem execModCommit_does (v s) : ∀ t, execModCommit v s = .next t → Does [.one MOD_CMT_PEND, .row MOD_AX_STAT, .one MGT_LOG_STAT, .faults, .reel, .intg, .mgt, .can, .spi, .mods] s t := by
  unfold execModCommit
  refine hostAccess_does ?_
  repeat' with_reducible first
    | assumption
    | decide
    | exact Does.refl _ _
    | (apply Does.step; on_goal 1 => first | apply State.writeCommit_does)
    | dsimp only

theorem execModForce_does (n v s) : ∀ t, execModForce n v s = .next t → Does [.one MOD_STAT, .one MOD_ILOCK_CNT, .row MOD_AX_STAT, .row MOD_AX_FORCE, .row PWR_AX_LIVE, .one INT_AXCAUSE_LO, .one INT_AXCAUSE_HI, .one MGT_LOG_STAT, .faults, .reel, .intg, .mgt, .can, .spi, .mods, .modg, .pwr] s t := by
  unfold execModForce
  refine hostAccess_does ?_
  repeat' with_reducible first
    | assumption
    | decide
    | exact Does.refl _ _
    | (apply Does.step; on_goal 1 => first | apply State.writeForce_does)
    | refine Does.ite ?_ ?_
    | refine Does.iteSnd ?_ ?_
    | dsimp only

end Sys2Proof.Machine
end

