-- ==== Sys2Proof/Laws/Pwr.lean ====
section
/-!
SUPPORT. What each operation of Sys2Proof/Machine/Pwr.lean can do at most.
-/

-- One proof after the other: as one text the package would otherwise ask for more threads than there is memory for.
set_option Elab.async false
namespace Sys2Proof.Machine

theorem State.safeCause_does (s bit) : Does [.one INT_SAFE_CAUSE, .sys] s (State.safeCause s bit) := by
  unfold State.safeCause
  repeat' with_reducible first
    | assumption
    | decide
    | exact Does.refl _ _
    | (intro x; first | (have _h : State := x; clear _h; clear_value (hx : x = _); refine Does.bind (l := [.one INT_SAFE_CAUSE, .sys]) (s := s) hx ?_ (fun _ => ?_)) | clear_value x)
    | lift_lets
    | (apply Does.step; on_goal 1 => first | exact State.putBit_does _ INT_SAFE_CAUSE.CAUSE _ _ (by with_unfolding_all exact Field.has_one INT_SAFE_CAUSE))
    | (apply Does.step; on_goal 1 => first | apply Does.sys)
    | dsimp only

theorem State.safeCauseEnd_does (s bit) : Does [.one INT_SAFE_CAUSE] s (State.safeCauseEnd s bit) := by
  unfold State.safeCauseEnd
  repeat' with_reducible first
    | assumption
    | decide
    | exact Does.refl _ _
    | (apply Does.step; on_goal 1 => first | exact State.putBit_does _ INT_SAFE_CAUSE.CAUSE _ _ (by with_unfolding_all exact Field.has_one INT_SAFE_CAUSE))
    | dsimp only

theorem State.showIsolation_does (s n) : Does [.row PWR_AX_STAT] s (State.showIsolation s n) := by
  unfold State.showIsolation
  repeat' with_reducible first
    | assumption
    | decide
    | exact Does.refl _ _
    | (intro x; first | (have _h : State := x; clear _h; clear_value (hx : x = _); refine Does.bind (l := [.row PWR_AX_STAT]) (s := s) hx ?_ (fun _ => ?_)) | clear_value x)
    | lift_lets
    | (apply Does.step; on_goal 1 => first | exact State.put_does _ (PWR_AX_STAT.ISOL _) _ (by with_unfolding_all exact Field.has_row PWR_AX_STAT (fun _ => rfl) _))
    | refine Does.ite ?_ ?_
    | refine Does.iteSnd ?_ ?_
    | dsimp only

theorem State.noteCycle_does (s n) : Does [.pwr] s (State.noteCycle s n) := by
  unfold State.noteCycle
  repeat' with_reducible first
    | assumption
    | decide
    | exact Does.refl _ _
    | (intro x; first | (have _h : State := x; clear _h; clear_value (hx : x = _); refine Does.bind (l := [.pwr]) (s := s) hx ?_ (fun _ => ?_)) | clear_value x)
    | lift_lets
    | refine Does.ite ?_ ?_
    | refine Does.iteSnd ?_ ?_
    | (apply Does.step; on_goal 1 => first | apply Does.pwr)
    | dsimp only

theorem State.allOff_does (s n) : Does [.row PWR_AX_LIVE, .mods, .pwr] s (State.allOff s n) := by
  unfold State.allOff
  repeat' with_reducible first
    | assumption
    | decide
    | exact Does.refl _ _
    | (intro x; first | (have _h : State := x; clear _h; clear_value (hx : x = _); refine Does.bind (l := [.row PWR_AX_LIVE, .mods, .pwr]) (s := s) hx ?_ (fun _ => ?_)) | clear_value x)
    | lift_lets
    | (apply Does.step; on_goal 1 => first | refine State.modMod_does _ _ (fun m hm => by first | exact ModAx.shaped_of hm rfl | (split <;> exact ModAx.shaped_of hm rfl) | (unfold ModAx.modPhase; split <;> exact ModAx.shaped_of hm rfl) | exact ModAx.shaped_map hm rfl (fun x hx => by first | exact HalfBridge.sound_of hx rfl rfl rfl | exact HalfBridge.sound_off rfl rfl rfl)) | apply State.switchSourcesOff_does)
    | refine State.each_does (fun s b => ?_) ?_
    | dsimp only

theorem State.trip_does (s n src) : Does Parts.bstExhaust s (State.trip s n src) := by
  unfold State.trip
  repeat' with_reducible first
    | assumption
    | decide
    | exact Does.refl _ _
    | (intro x; first | (have _h : State := x; clear _h; clear_value (hx : x = _); refine Does.bind (l := Parts.bstExhaust) (s := s) hx ?_ (fun _ => ?_)) | clear_value x)
    | lift_lets
    | (apply Does.step; on_goal 1 => first | exact State.putBit_does _ ⟨(PWR_AX_TRIP _), _, _⟩ _ _ (by with_unfolding_all exact Field.has_row PWR_AX_TRIP (fun _ => rfl) _) | exact State.bump_does _ (PWR_AX_CNT.TRIPS _) _ (by with_unfolding_all exact Field.has_row PWR_AX_CNT (fun _ => rfl) _) | apply State.showIsolation_does | apply State.allOff_does | apply State.noteCycle_does | apply State.raise_does | apply State.driveChecked_does | apply State.enterSafe_does)
    | refine Does.ite ?_ ?_
    | refine Does.iteSnd ?_ ?_
    | dsimp only

theorem execTrip_does (n src s) : ∀ t, execTrip n src s = .next t → Does Parts.bstExhaust s t := by
  unfold execTrip
  refine whenPowered_does ?_
  repeat' with_reducible first
    | assumption
    | decide
    | exact Does.refl _ _
    | (apply Does.step; on_goal 1 => first | exact State.putBit_does _ (PWR_AX_LIVE.SRC _) _ _ (by with_unfolding_all exact Field.has_row PWR_AX_LIVE (fun _ => rfl) _) | apply State.trip_does)
    | refine State.when_does (fun s => ?_) ?_
    | refine Does.ite ?_ ?_
    | refine Does.iteSnd ?_ ?_
    | dsimp only

theorem execSourceInactive_does (n src s) : ∀ t, execSourceInactive n src s = .next t → Does [.row PWR_AX_LIVE, .intg, .pwr] s t := by
  unfold execSourceInactive
  refine whenPowered_does ?_
  repeat' with_reducible first
    | assumption
    | decide
    | exact Does.refl _ _
    | (apply Does.step; on_goal 1 => first | apply State.sourceOff_does)
    | refine State.when_does (fun s => ?_) ?_
    | refine Does.ite ?_ ?_
    | refine Does.iteSnd ?_ ?_
    | dsimp only

theorem State.cooledSince_does (s old) : Does [.pwr] s (State.cooledSince s old) := by
  unfold State.cooledSince
  repeat' with_reducible first
    | assumption
    | decide
    | exact Does.refl _ _
    | (intro x; first | (have _h : State := x; clear _h; clear_value (hx : x = _); refine Does.bind (l := [.pwr]) (s := s) hx ?_ (fun _ => ?_)) | clear_value x)
    | lift_lets
    | refine Does.ite ?_ ?_
    | refine Does.iteSnd ?_ ?_
    | (apply Does.step; on_goal 1 => first | apply Does.pwr)
    | dsimp only

theorem State.tripClear_does (s n mask) : Does Parts.tripClear s (State.tripClear s n mask) := by
  unfold State.tripClear
  repeat' with_reducible first
    | assumption
    | decide
    | exact Does.refl _ _
    | (intro x; first | (have _h : State := x; clear _h; clear_value (hx : x = _); refine Does.bind (l := Parts.tripClear) (s := s) hx ?_ (fun _ => ?_)) | clear_value x)
    | lift_lets
    | (apply Does.step; on_goal 1 => first | exact State.setWord_does _ (PWR_AX_TRIP _) _ (by with_unfolding_all exact Field.has_row PWR_AX_TRIP (fun _ => rfl) _) | apply State.logRec_does | apply State.driveChecked_does | apply State.showIsolation_does | apply State.outcome_does | apply State.raise_does)
    | refine State.when_does (fun s => ?_) ?_
    | refine Does.ite ?_ ?_
    | refine Does.iteSnd ?_ ?_
    | (apply Does.step; on_goal 1 => first | apply Does.pwr)
    | dsimp only

theorem execTripClear_does (n mask s) : ∀ t, execTripClear n mask s = .next t → Does Parts.tripClear s t := by
  unfold execTripClear
  refine hostAccess_does ?_
  repeat' with_reducible first
    | assumption
    | decide
    | exact Does.refl _ _
    | (apply Does.step; on_goal 1 => first | apply State.tripClear_does)
    | refine Does.ite ?_ ?_
    | refine Does.iteSnd ?_ ?_
    | dsimp only

theorem execBstUvAssert_does (n k s) : ∀ t, execBstUvAssert n k s = .next t → Does [.one MOD_STAT, .one MOD_ILOCK_CNT, .row MOD_AX_STAT, .row MOD_AX_FORCE, .row PWR_AX_LIVE, .row PWR_AX_STAT, .one INT_AXCAUSE_LO, .one INT_AXCAUSE_HI, .one MGT_LOG_STAT, .faults, .reel, .intg, .mgt, .can, .mods, .modg, .pwr] s t := by
  unfold execBstUvAssert
  refine whenPowered_does ?_
  repeat' with_reducible first
    | assumption
    | decide
    | exact Does.refl _ _
    | (intro x; first | (have _h : State := x; clear _h; clear_value (hx : x = _); refine Does.bind (l := [.one MOD_STAT, .one MOD_ILOCK_CNT, .row MOD_AX_STAT, .row MOD_AX_FORCE, .row PWR_AX_LIVE, .row PWR_AX_STAT, .one INT_AXCAUSE_LO, .one INT_AXCAUSE_HI, .one MGT_LOG_STAT, .faults, .reel, .intg, .mgt, .can, .mods, .modg, .pwr]) (s := s) hx ?_ (fun _ => ?_)) | clear_value x)
    | lift_lets
    | (apply Does.step; on_goal 1 => first | exact State.putBit_does _ (PWR_AX_STAT.BST_UV _) _ _ (by with_unfolding_all exact Field.has_row PWR_AX_STAT (fun _ => rfl) _) | apply State.modPhase_does | apply State.raise_does | apply State.driveChecked_does)
    | refine State.when_does (fun s => ?_) ?_
    | refine Does.ite ?_ ?_
    | refine Does.iteSnd ?_ ?_
    | dsimp only

theorem execBstUvRelease_does (n k s) : ∀ t, execBstUvRelease n k s = .next t → Does [.one MOD_STAT, .one MOD_ILOCK_CNT, .row MOD_AX_STAT, .row MOD_AX_FORCE, .row PWR_AX_LIVE, .row PWR_AX_STAT, .one INT_AXCAUSE_LO, .one INT_AXCAUSE_HI, .one MGT_LOG_STAT, .faults, .reel, .intg, .mgt, .can, .mods, .modg, .pwr] s t := by
  unfold execBstUvRelease
  refine whenPowered_does ?_
  repeat' with_reducible first
    | assumption
    | decide
    | exact Does.refl _ _
    | (intro x; first | (have _h : State := x; clear _h; clear_value (hx : x = _); refine Does.bind (l := [.one MOD_STAT, .one MOD_ILOCK_CNT, .row MOD_AX_STAT, .row MOD_AX_FORCE, .row PWR_AX_LIVE, .row PWR_AX_STAT, .one INT_AXCAUSE_LO, .one INT_AXCAUSE_HI, .one MGT_LOG_STAT, .faults, .reel, .intg, .mgt, .can, .mods, .modg, .pwr]) (s := s) hx ?_ (fun _ => ?_)) | clear_value x)
    | lift_lets
    | (apply Does.step; on_goal 1 => first | exact State.putBit_does _ (PWR_AX_STAT.BST_UV _) _ _ (by with_unfolding_all exact Field.has_row PWR_AX_STAT (fun _ => rfl) _) | apply State.sourceOff_does | apply State.modPhase_does | apply State.showRefreshes_does | apply State.driveChecked_does)
    | refine State.when_does (fun s => ?_) ?_
    | refine Does.ite ?_ ?_
    | refine Does.iteSnd ?_ ?_
    | dsimp only

theorem execBstExhaust_does (n k s) : ∀ t, execBstExhaust n k s = .next t → Does Parts.bstExhaust s t := by
  unfold execBstExhaust
  refine whenPowered_does ?_
  repeat' with_reducible first
    | assumption
    | decide
    | exact Does.refl _ _
    | (apply Does.step; on_goal 1 => first | exact State.putBit_does _ (PWR_AX_LIVE.SRC _) _ _ (by with_unfolding_all exact Field.has_row PWR_AX_LIVE (fun _ => rfl) _) | apply State.trip_does)
    | refine State.when_does (fun s => ?_) ?_
    | refine Does.ite ?_ ?_
    | refine Does.iteSnd ?_ ?_
    | dsimp only

theorem State.diagStart_does (s n) : Does [.row PWR_AX_DIAG, .spi] s (State.diagStart s n) := by
  unfold State.diagStart
  repeat' with_reducible first
    | assumption
    | decide
    | exact Does.refl _ _
    | (apply Does.step; on_goal 1 => first | exact State.put_does _ (PWR_AX_DIAG.RESULT_B _) _ (by with_unfolding_all exact Field.has_row PWR_AX_DIAG (fun _ => rfl) _) | exact State.put_does _ (PWR_AX_DIAG.RESULT_A _) _ (by with_unfolding_all exact Field.has_row PWR_AX_DIAG (fun _ => rfl) _) | exact State.put_does _ (PWR_AX_DIAG.BUSY _) _ (by with_unfolding_all exact Field.has_row PWR_AX_DIAG (fun _ => rfl) _) | apply State.refuse_does)
    | refine Does.ite ?_ ?_
    | refine Does.iteSnd ?_ ?_
    | dsimp only

theorem execDiagStart_does (n s) : ∀ t, execDiagStart n s = .next t → Does [.row PWR_AX_DIAG, .intg, .spi] s t := by
  unfold execDiagStart
  refine hostAccess_does ?_
  repeat' with_reducible first
    | assumption
    | decide
    | exact Does.refl _ _
    | (apply Does.step; on_goal 1 => first | apply State.diagStart_does)
    | refine Does.ite ?_ ?_
    | refine Does.iteSnd ?_ ?_
    | dsimp only

theorem execDiagDone_does (n v s) : ∀ t, execDiagDone n v s = .next t → Does [.one MOD_STAT, .one MOD_ILOCK_CNT, .row MOD_AX_STAT, .row MOD_AX_FORCE, .row PWR_AX_LIVE, .row PWR_AX_DIAG, .one INT_AXCAUSE_LO, .one INT_AXCAUSE_HI, .one MGT_LOG_STAT, .faults, .reel, .intg, .mgt, .can, .mods, .modg, .pwr] s t := by
  unfold execDiagDone
  refine whenPowered_does ?_
  repeat' with_reducible first
    | assumption
    | decide
    | exact Does.refl _ _
    | (intro x; first | (have _h : State := x; clear _h; clear_value (hx : x = _); refine Does.bind (l := [.one MOD_STAT, .one MOD_ILOCK_CNT, .row MOD_AX_STAT, .row MOD_AX_FORCE, .row PWR_AX_LIVE, .row PWR_AX_DIAG, .one INT_AXCAUSE_LO, .one INT_AXCAUSE_HI, .one MGT_LOG_STAT, .faults, .reel, .intg, .mgt, .can, .mods, .modg, .pwr]) (s := s) hx ?_ (fun _ => ?_)) | clear_value x)
    | lift_lets
    | (apply Does.step; on_goal 1 => first | exact State.put_does _ (PWR_AX_DIAG.RESULT_B _) _ (by with_unfolding_all exact Field.has_row PWR_AX_DIAG (fun _ => rfl) _) | exact State.put_does _ (PWR_AX_DIAG.RESULT_A _) _ (by with_unfolding_all exact Field.has_row PWR_AX_DIAG (fun _ => rfl) _) | exact State.put_does _ (PWR_AX_DIAG.BUSY _) _ (by with_unfolding_all exact Field.has_row PWR_AX_DIAG (fun _ => rfl) _) | apply State.driveChecked_does | apply State.raise_does)
    | refine State.when_does (fun s => ?_) ?_
    | refine Does.ite ?_ ?_
    | refine Does.iteSnd ?_ ?_
    | dsimp only

theorem State.selftestStart_does (s sel) : Does [.one PWR_ST_CTRL, .one PWR_ST_RESULT, .spi, .pwr] s (State.selftestStart s sel) := by
  unfold State.selftestStart
  repeat' with_reducible first
    | assumption
    | decide
    | exact Does.refl _ _
    | (intro x; first | (have _h : State := x; clear _h; clear_value (hx : x = _); refine Does.bind (l := [.one PWR_ST_CTRL, .one PWR_ST_RESULT, .spi, .pwr]) (s := s) hx ?_ (fun _ => ?_)) | clear_value x)
    | lift_lets
    | (apply Does.step; on_goal 1 => first | exact State.put_does _ PWR_ST_CTRL.SEL _ (by with_unfolding_all exact Field.has_one PWR_ST_CTRL) | exact State.put_does _ PWR_ST_RESULT.AXIS _ (by with_unfolding_all exact Field.has_one PWR_ST_RESULT) | exact State.put_does _ PWR_ST_RESULT.CMP _ (by with_unfolding_all exact Field.has_one PWR_ST_RESULT) | exact State.put_does _ PWR_ST_RESULT.FAILED _ (by with_unfolding_all exact Field.has_one PWR_ST_RESULT) | exact State.put_does _ PWR_ST_RESULT.BUSY _ (by with_unfolding_all exact Field.has_one PWR_ST_RESULT) | apply State.refuse_does)
    | refine Does.ite ?_ ?_
    | refine Does.iteSnd ?_ ?_
    | (apply Does.step; on_goal 1 => first | apply Does.pwr)
    | dsimp only

theorem execSelftestStart_does (sel s) : ∀ t, execSelftestStart sel s = .next t → Does [.one PWR_ST_CTRL, .one PWR_ST_RESULT, .intg, .spi, .pwr] s t := by
  unfold execSelftestStart
  refine hostAccess_does ?_
  repeat' with_reducible first
    | assumption
    | decide
    | exact Does.refl _ _
    | (apply Does.step; on_goal 1 => first | apply State.selftestStart_does)
    | dsimp only

theorem execSelftestDone_does (fail s) : ∀ t, execSelftestDone fail s = .next t → Does [.one MOD_STAT, .row MOD_AX_STAT, .one PWR_ST_RESULT, .row PWR_AX_LIVE, .row PWR_AX_STAT, .one INT_AXCAUSE_LO, .one INT_AXCAUSE_HI, .one MGT_LOG_STAT, .faults, .reel, .intg, .mgt, .can, .mods, .pwr] s t := by
  unfold execSelftestDone
  refine whenPowered_does ?_
  repeat' with_reducible first
    | assumption
    | decide
    | exact Does.refl _ _
    | (intro x; first | (have _h : State := x; clear _h; clear_value (hx : x = _); refine Does.bind (l := [.one MOD_STAT, .row MOD_AX_STAT, .one PWR_ST_RESULT, .row PWR_AX_LIVE, .row PWR_AX_STAT, .one INT_AXCAUSE_LO, .one INT_AXCAUSE_HI, .one MGT_LOG_STAT, .faults, .reel, .intg, .mgt, .can, .mods, .pwr]) (s := s) hx ?_ (fun _ => ?_)) | clear_value x)
    | lift_lets
    | (apply Does.step; on_goal 1 => first | exact State.put_does _ PWR_ST_RESULT.BUSY _ (by with_unfolding_all exact Field.has_one PWR_ST_RESULT) | exact State.put_does _ (PWR_AX_STAT.ST_HOLD _) _ (by with_unfolding_all exact Field.has_row PWR_AX_STAT (fun _ => rfl) _) | exact State.putBit_does _ PWR_ST_RESULT.PASS _ _ (by with_unfolding_all exact Field.has_one PWR_ST_RESULT) | exact State.put_does _ PWR_ST_RESULT.AXIS _ (by with_unfolding_all exact Field.has_one PWR_ST_RESULT) | exact State.put_does _ PWR_ST_RESULT.CMP _ (by with_unfolding_all exact Field.has_one PWR_ST_RESULT) | exact State.put_does _ PWR_ST_RESULT.FAILED _ (by with_unfolding_all exact Field.has_one PWR_ST_RESULT) | apply State.enterSafe_does | apply State.raise_does)
    | refine State.when_does (fun s => ?_) ?_
    | refine Does.ite ?_ ?_
    | refine Does.iteSnd ?_ ?_
    | split
    | (apply Does.step; on_goal 1 => first | apply Does.pwr)
    | dsimp only

theorem execOtShut_does (s) : ∀ t, execOtShut s = .next t → Does Parts.otShut s t := by
  unfold execOtShut
  refine whenPowered_does ?_
  repeat' with_reducible first
    | assumption
    | decide
    | exact Does.refl _ _
    | (intro x; first | (have _h : State := x; clear _h; clear_value (hx : x = _); refine Does.bind (l := Parts.otShut) (s := s) hx ?_ (fun _ => ?_)) | clear_value x)
    | lift_lets
    | (apply Does.step; on_goal 1 => first | exact State.put_does _ PWR_STAT.OT_SHUT _ (by with_unfolding_all exact Field.has_one PWR_STAT) | exact State.put_does _ (PWR_AX_TRIP.OT _) _ (by with_unfolding_all exact Field.has_row PWR_AX_TRIP (fun _ => rfl) _) | apply State.safeCause_does | apply State.raise_does | apply State.driveChecked_does | apply State.enterSafe_does)
    | refine State.when_does (fun s => ?_) ?_
    | refine State.each_does (fun s b => ?_) ?_
    | refine Does.ite ?_ ?_
    | refine Does.iteSnd ?_ ?_
    | dsimp only

theorem execOtShutRelease_does (s) : ∀ t, execOtShutRelease s = .next t → Does [.one MOD_STAT, .one MOD_ILOCK_CNT, .row MOD_AX_STAT, .row MOD_AX_FORCE, .one PWR_STAT, .row PWR_AX_LIVE, .one INT_SAFE_CAUSE, .one INT_AXCAUSE_LO, .one INT_AXCAUSE_HI, .one MGT_LOG_STAT, .faults, .reel, .intg, .mgt, .can, .mods, .modg, .pwr] s t := by
  unfold execOtShutRelease
  refine whenPowered_does ?_
  repeat' with_reducible first
    | assumption
    | decide
    | exact Does.refl _ _
    | (apply Does.step; on_goal 1 => first | exact State.put_does _ PWR_STAT.OT_SHUT _ (by with_unfolding_all exact Field.has_one PWR_STAT) | apply State.safeCauseEnd_does | apply State.cooledSince_does | apply State.driveChecked_does)
    | refine State.when_does (fun s => ?_) ?_
    | refine State.each_does (fun s b => ?_) ?_
    | refine Does.ite ?_ ?_
    | refine Does.iteSnd ?_ ?_
    | dsimp only

theorem execSupplyGate_does (s) : ∀ t, execSupplyGate s = .next t → Does Parts.supplyGate s t := by
  unfold execSupplyGate
  refine whenPowered_does ?_
  repeat' with_reducible first
    | assumption
    | decide
    | exact Does.refl _ _
    | (intro x; first | (have _h : State := x; clear _h; clear_value (hx : x = _); refine Does.bind (l := Parts.supplyGate) (s := s) hx ?_ (fun _ => ?_)) | clear_value x)
    | lift_lets
    | (apply Does.step; on_goal 1 => first | exact State.put_does _ PWR_STAT.VGL_OK _ (by with_unfolding_all exact Field.has_one PWR_STAT) | apply State.safeCause_does | apply State.raise_does | apply State.driveChecked_does | apply State.enterSafe_does)
    | refine State.when_does (fun s => ?_) ?_
    | refine State.each_does (fun s b => ?_) ?_
    | dsimp only

theorem execSupplyGateRelease_does (s) : ∀ t, execSupplyGateRelease s = .next t → Does [.one MOD_STAT, .one MOD_ILOCK_CNT, .row MOD_AX_STAT, .row MOD_AX_FORCE, .one PWR_STAT, .row PWR_AX_LIVE, .one INT_SAFE_CAUSE, .one INT_AXCAUSE_LO, .one INT_AXCAUSE_HI, .one MGT_LOG_STAT, .faults, .reel, .intg, .mgt, .can, .mods, .modg, .pwr] s t := by
  unfold execSupplyGateRelease
  refine whenPowered_does ?_
  repeat' with_reducible first
    | assumption
    | decide
    | exact Does.refl _ _
    | (apply Does.step; on_goal 1 => first | exact State.put_does _ PWR_STAT.VGL_OK _ (by with_unfolding_all exact Field.has_one PWR_STAT) | apply State.safeCauseEnd_does | apply State.driveChecked_does)
    | refine State.when_does (fun s => ?_) ?_
    | refine State.each_does (fun s b => ?_) ?_
    | dsimp only

theorem execChargePumpReady_does (s) : ∀ t, execChargePumpReady s = .next t → Does [.one PWR_STAT, .intg] s t := by
  unfold execChargePumpReady
  refine whenPowered_does ?_
  repeat' with_reducible first
    | assumption
    | decide
    | exact Does.refl _ _
    | (apply Does.step; on_goal 1 => first | exact State.put_does _ PWR_STAT.VCP_OK _ (by with_unfolding_all exact Field.has_one PWR_STAT))
    | refine State.when_does (fun s => ?_) ?_
    | refine Does.ite ?_ ?_
    | refine Does.iteSnd ?_ ?_
    | dsimp only

theorem State.gateHigh_does (s high) : Does [.one PWR_STAT] s (State.gateHigh s high) := by
  unfold State.gateHigh
  repeat' with_reducible first
    | assumption
    | decide
    | exact Does.refl _ _
    | (apply Does.step; on_goal 1 => first | exact State.put_does _ PWR_STAT.HV _ (by with_unfolding_all exact Field.has_one PWR_STAT))
    | refine State.when_does (fun s => ?_) ?_
    | dsimp only

theorem State.highVoltage_does (s high) : Does [.one PWR_STAT, .sys] s (State.highVoltage s high) := by
  unfold State.highVoltage
  repeat' with_reducible first
    | assumption
    | decide
    | exact Does.refl _ _
    | (intro x; first | (have _h : State := x; clear _h; clear_value (hx : x = _); refine Does.bind (l := [.one PWR_STAT, .sys]) (s := s) hx ?_ (fun _ => ?_)) | clear_value x)
    | lift_lets
    | (apply Does.step; on_goal 1 => first | apply State.gateHigh_does)
    | (apply Does.step; on_goal 1 => first | apply Does.sys)
    | dsimp only

theorem execHv_does (s) : ∀ t, execHv s = .next t → Does [.one PWR_STAT, .sys, .intg] s t := by
  unfold execHv
  repeat' with_reducible first
    | assumption
    | decide
    | exact Does.refl _ _
    | (apply Does.step; on_goal 1 => first | apply State.highVoltage_does)
    | refine Does.ite ?_ ?_
    | refine Does.iteSnd ?_ ?_
    | dsimp only
    | refine done_does ?_ ?_
    | refine whenPowered_does ?_ ?_
    | split
    | (intro t ht; cases ht; exact Does.refl _ _)

theorem execHvRelease_does (s) : ∀ t, execHvRelease s = .next t → Does [.one PWR_STAT, .sys, .intg] s t := by
  unfold execHvRelease
  repeat' with_reducible first
    | assumption
    | decide
    | exact Does.refl _ _
    | (apply Does.step; on_goal 1 => first | apply State.highVoltage_does)
    | refine Does.ite ?_ ?_
    | refine Does.iteSnd ?_ ?_
    | dsimp only
    | refine done_does ?_ ?_
    | refine whenPowered_does ?_ ?_
    | split
    | (intro t ht; cases ht; exact Does.refl _ _)

theorem State.pumpEnter_does (s m) : Does [.one PWR_STAT] s (State.pumpEnter s m) := by
  unfold State.pumpEnter
  repeat' with_reducible first
    | assumption
    | decide
    | exact Does.refl _ _
    | (apply Does.step; on_goal 1 => first | exact State.put_does _ PWR_STAT.VCP_OK _ (by with_unfolding_all exact Field.has_one PWR_STAT))
    | refine Does.ite ?_ ?_
    | refine Does.iteSnd ?_ ?_
    | dsimp only

theorem State.thermalLook_does (s) : Does [.one PWR_STAT, .one PWR_THERM, .one MGT_LOG_STAT, .faults, .reel, .mgt, .can] s (State.thermalLook s) := by
  unfold State.thermalLook
  repeat' with_reducible first
    | assumption
    | decide
    | exact Does.refl _ _
    | (intro x; first | (have _h : State := x; clear _h; clear_value (hx : x = _); refine Does.bind (l := [.one PWR_STAT, .one PWR_THERM, .one MGT_LOG_STAT, .faults, .reel, .mgt, .can]) (s := s) hx ?_ (fun _ => ?_)) | clear_value x)
    | lift_lets
    | (apply Does.step; on_goal 1 => first | exact State.put_does _ PWR_THERM.TMAX _ (by with_unfolding_all exact Field.has_one PWR_THERM) | exact State.put_does _ PWR_STAT.OT_WARN _ (by with_unfolding_all exact Field.has_one PWR_STAT) | apply State.raise_does)
    | refine Does.ite ?_ ?_
    | refine Does.iteSnd ?_ ?_
    | dsimp only

theorem State.powerResult_does (s channel w) : Does [.one PWR_STAT, .one PWR_THERM, .one MGT_LOG_STAT, .faults, .reel, .mgt, .can, .modg, .pwr] s (State.powerResult s channel w) := by
  unfold State.powerResult
  repeat' with_reducible first
    | assumption
    | decide
    | exact Does.refl _ _
    | (intro x; first | (have _h : State := x; clear _h; clear_value (hx : x = _); refine Does.bind (l := [.one PWR_STAT, .one PWR_THERM, .one MGT_LOG_STAT, .faults, .reel, .mgt, .can, .modg, .pwr]) (s := s) hx ?_ (fun _ => ?_)) | clear_value x)
    | lift_lets
    | (apply Does.step; on_goal 1 => first | exact State.put_does _ PWR_STAT.LV _ (by with_unfolding_all exact Field.has_one PWR_STAT) | exact State.putBit_does _ PWR_THERM.SENS_OK _ _ (by with_unfolding_all exact Field.has_one PWR_THERM) | apply State.cooledSince_does | apply State.thermalLook_does)
    | refine Does.ite ?_ ?_
    | refine Does.iteSnd ?_ ?_
    | (apply Does.step; on_goal 1 => first | apply Does.modg | apply Does.pwr)
    | with_unfolding_all exact Does.ofOnly (by rintro ⟨⟩ hk <;> first | rfl | trivial | exact absurd (by decide) hk) (fun _ _ => rfl) (fun h => { h with })
    | (refine Does.trans (by assumption) ?_; with_unfolding_all exact Does.ofOnly (by rintro ⟨⟩ hk <;> first | rfl | trivial | exact absurd (by decide) hk) (fun _ _ => rfl) (fun h => { h with }))
    | dsimp only

theorem State.sensorWatch_does (s) : Does [.one PWR_STAT, .one PWR_THERM, .one MGT_LOG_STAT, .faults, .reel, .mgt, .can, .pwr] s (State.sensorWatch s) := by
  unfold State.sensorWatch
  repeat' with_reducible first
    | assumption
    | decide
    | exact Does.refl _ _
    | (intro x; first | (have _h : State := x; clear _h; clear_value (hx : x = _); refine Does.bind (l := [.one PWR_STAT, .one PWR_THERM, .one MGT_LOG_STAT, .faults, .reel, .mgt, .can, .pwr]) (s := s) hx ?_ (fun _ => ?_)) | clear_value x)
    | lift_lets
    | (apply Does.step; on_goal 1 => first | exact State.putBit_does _ PWR_THERM.SENS_OK _ _ (by with_unfolding_all exact Field.has_one PWR_THERM) | apply State.raise_does | apply State.thermalLook_does)
    | refine State.each_does (fun s b => ?_) ?_
    | refine Does.ite ?_ ?_
    | refine Does.iteSnd ?_ ?_
    | (apply Does.step; on_goal 1 => first | apply Does.pwr)
    | dsimp only

theorem State.thermalBoot_does (s) : Does [.one PWR_STAT, .one PWR_THERM, .one MGT_LOG_STAT, .faults, .reel, .mgt, .can] s (State.thermalBoot s) := by
  unfold State.thermalBoot
  repeat' with_reducible first
    | assumption
    | decide
    | exact Does.refl _ _
    | (intro x; first | (have _h : State := x; clear _h; clear_value (hx : x = _); refine Does.bind (l := [.one PWR_STAT, .one PWR_THERM, .one MGT_LOG_STAT, .faults, .reel, .mgt, .can]) (s := s) hx ?_ (fun _ => ?_)) | clear_value x)
    | lift_lets
    | (apply Does.step; on_goal 1 => first | exact State.put_does _ PWR_STAT.ROW _ (by with_unfolding_all exact Field.has_one PWR_STAT) | apply State.thermalLook_does)
    | dsimp only

theorem State.thermalRow_does (s) : Does [.one PWR_STAT] s (State.thermalRow s) := by
  unfold State.thermalRow
  repeat' with_reducible first
    | assumption
    | decide
    | exact Does.refl _ _
    | (intro x; first | (have _h : State := x; clear _h; clear_value (hx : x = _); refine Does.bind (l := [.one PWR_STAT]) (s := s) hx ?_ (fun _ => ?_)) | clear_value x)
    | lift_lets
    | (apply Does.step; on_goal 1 => first | exact State.put_does _ PWR_STAT.ROW _ (by with_unfolding_all exact Field.has_one PWR_STAT))
    | refine Does.ite ?_ ?_
    | refine Does.iteSnd ?_ ?_
    | dsimp only

theorem State.admission_does (s) : Does [.one PWR_STAT, .row PWR_AX_STAT, .one MGT_LOG_STAT, .faults, .reel, .mgt, .can, .mods] s (State.admission s) := by
  unfold State.admission
  repeat' with_reducible first
    | assumption
    | decide
    | exact Does.refl _ _
    | (intro x; first | (have _h : State := x; clear _h; clear_value (hx : x = _); refine Does.bind (l := [.one PWR_STAT, .row PWR_AX_STAT, .one MGT_LOG_STAT, .faults, .reel, .mgt, .can, .mods]) (s := s) hx ?_ (fun _ => ?_)) | clear_value x)
    | lift_lets
    | (apply Does.step; on_goal 1 => first | exact State.put_does _ (PWR_AX_STAT.CAPPED _) _ (by with_unfolding_all exact Field.has_row PWR_AX_STAT (fun _ => rfl) _) | exact State.put_does _ (PWR_AX_STAT.ADMITTED _) _ (by with_unfolding_all exact Field.has_row PWR_AX_STAT (fun _ => rfl) _) | exact State.putBit_does _ PWR_STAT.CAPPED _ _ (by with_unfolding_all exact Field.has_one PWR_STAT) | exact State.putBit_does _ PWR_STAT.ADMIT _ _ (by with_unfolding_all exact Field.has_one PWR_STAT) | refine State.modMod_does _ _ (fun m hm => by first | exact ModAx.shaped_of hm rfl | (split <;> exact ModAx.shaped_of hm rfl) | (unfold ModAx.modPhase; split <;> exact ModAx.shaped_of hm rfl) | exact ModAx.shaped_map hm rfl (fun x hx => by first | exact HalfBridge.sound_of hx rfl rfl rfl | exact HalfBridge.sound_off rfl rfl rfl)) | apply State.raise_does)
    | refine State.when_does (fun s => ?_) ?_
    | refine State.each_does (fun s b => ?_) ?_
    | refine Does.ite ?_ ?_
    | refine Does.iteSnd ?_ ?_
    | split
    | dsimp only

end Sys2Proof.Machine
end

