-- ==== Sys2Proof/Laws/Intg.lean ====
section
/-!
SUPPORT. What each operation of Sys2Proof/Machine/Intg.lean can do at most.
-/

-- One proof after the other: as one text the package would otherwise ask for more threads than there is memory for.
set_option Elab.async false
namespace Sys2Proof.Machine

theorem State.setEngState_does (s e st) : Does [.one ENG_STAT, .row ENG_E_STAT] s (State.setEngState s e st) := by
  unfold State.setEngState
  repeat' with_reducible first
    | assumption
    | decide
    | exact Does.refl _ _
    | (intro x; first | (have _h : State := x; clear _h; clear_value (hx : x = _); refine Does.bind (l := [.one ENG_STAT, .row ENG_E_STAT]) (s := s) hx ?_ (fun _ => ?_)) | clear_value x)
    | lift_lets
    | (apply Does.step; on_goal 1 => first | exact State.put_does _ (ENG_E_STAT.STATE _) _ (by with_unfolding_all exact Field.has_row ENG_E_STAT (fun _ => rfl) _) | exact State.putBit_does _ ENG_STAT.FAULTED _ _ (by with_unfolding_all exact Field.has_one ENG_STAT))
    | refine Does.ite ?_ ?_
    | refine Does.iteSnd ?_ ?_
    | dsimp only

theorem State.stampD1_does (s) : Does [.drawn] s (State.stampD1 s).2 := by
  unfold State.stampD1
  repeat' with_reducible first
    | assumption
    | decide
    | exact Does.refl _ _
    | (intro x; first | (have _h : State := x; clear _h; clear_value (hx : x = _); refine Does.bind (l := [.drawn]) (s := s) hx ?_ (fun _ => ?_)) | (have _h : _ × State := x; clear _h; clear_value (hx : x = _); refine Does.bindSnd (l := [.drawn]) (s := s) hx ?_ (fun _ => ?_)) | clear_value x)
    | lift_lets
    | (apply Does.step; on_goal 1 => first | apply State.draw_does)
    | dsimp only

theorem State.engReads_does (s e a1 a2) : Does [.row MEM_B_STAT, .row MEM_B_ECC, .row MEM_B_REPAIR, .one INT_DEG_CAUSE, .one MGT_LOG_STAT, .faults, .reel, .mgt, .can, .mem, .drawn] s (State.engReads s e a1 a2).2.2 := by
  induction a2 generalizing s a1 with
  | zero => exact Does.refl _ _
  | succ n ih =>
    unfold State.engReads
    repeat' with_reducible first
      | assumption
      | decide
      | exact Does.refl _ _
      | (apply Does.trans; on_goal 2 => apply ih)
      | (apply Does.step; on_goal 1 => first | apply State.readMem_does)
      | split
      | refine Does.ofTriple (by assumption) ?_
      | dsimp only

theorem State.engWrites_does (s e a1 a2) : Does [.one MEM_MB_CNT, .row MEM_B_STAT, .row MEM_B_ECC, .mem, .drawn, .cells] s (State.engWrites s e a1 a2).2 := by
  induction a2 generalizing s a1 with
  | nil => exact Does.refl _ _
  | cons w t ih =>
    unfold State.engWrites
    repeat' with_reducible first
      | assumption
      | decide
      | exact Does.refl _ _
      | (apply Does.trans; on_goal 2 => apply ih)
      | (apply Does.step; on_goal 1 => first | apply State.ownerWrite_does)
      | split
      | dsimp only

theorem State.undoBack_does (s e a1 a2) : Does [.one MEM_MB_CNT, .row MEM_B_STAT, .row MEM_B_ECC, .mem, .drawn, .cells] s (State.undoBack s e a1 a2) := by
  induction a2 generalizing s a1 with
  | nil => exact Does.refl _ _
  | cons w t ih =>
    unfold State.undoBack
    repeat' with_reducible first
      | assumption
      | decide
      | exact Does.refl _ _
      | (apply Does.trans; on_goal 2 => apply ih)
      | (apply Does.step; on_goal 1 => first | apply State.ownerWrite_does)
      | refine State.when_does (fun s => ?_) ?_
      | dsimp only

theorem State.storeBlock_does (s e a l) : Does [.one MEM_MB_CNT, .row MEM_B_STAT, .row MEM_B_ECC, .row MEM_B_REPAIR, .one INT_DEG_CAUSE, .one MGT_LOG_STAT, .faults, .reel, .mgt, .can, .mem, .drawn, .cells] s (State.storeBlock s e a l).2 := by
  unfold State.storeBlock
  repeat' with_reducible first
    | assumption
    | decide
    | exact Does.refl _ _
    | (apply Does.step; on_goal 1 => first | apply State.engWrites_does | apply State.engReads_does)
    | refine Does.ite ?_ ?_
    | refine Does.iteSnd ?_ ?_
    | split
    | refine Does.ofPair (by assumption) ?_
    | refine Does.ofTriple (by assumption) ?_
    | dsimp only

theorem State.parkAxis_does (s n) : Does [.one MOD_STAT, .one MOD_ILOCK_CNT, .row MOD_AX_STAT, .row MOD_AX_FORCE, .row PWR_AX_LIVE, .one INT_STAT, .one INT_AXCAUSE_LO, .one INT_AXCAUSE_HI, .one MGT_LOG_STAT, .faults, .reel, .intg, .mgt, .can, .mods, .modg, .pwr] s (State.parkAxis s n) := by
  unfold State.parkAxis
  repeat' with_reducible first
    | assumption
    | decide
    | exact Does.refl _ _
    | (apply Does.step; on_goal 1 => first | exact State.putBit_does _ INT_STAT.PARKED_AX _ _ (by with_unfolding_all exact Field.has_one INT_STAT) | apply State.coastStop_does | apply State.loseTrack_does)
    | refine State.when_does (fun s => ?_) ?_
    | dsimp only

/-- What `State.park` and its like may change. -/
def Parts.ofPark : List Field :=
  [.one MOD_STAT, .one MOD_ILOCK_CNT, .row MOD_AX_STAT, .row MOD_AX_FORCE, .row PWR_AX_LIVE, .one INT_STAT,
    .one INT_REC_CNT, .one INT_DEG_CAUSE, .one INT_AXCAUSE_LO, .one INT_AXCAUSE_HI, .one INT_EVT_CNT, .row INT_EVT_A,
    .row INT_EVT_T, .one MGT_LOG_STAT, .faults, .reel, .intg, .mgt, .can, .mods, .modg, .pwr]

theorem State.park_does (s e axes cause t) : Does Parts.ofPark s (State.park s e axes cause t) := by
  unfold State.park
  repeat' with_reducible first
    | assumption
    | decide
    | exact Does.refl _ _
    | (intro x; first | (have _h : State := x; clear _h; clear_value (hx : x = _); refine Does.bind (l := Parts.ofPark) (s := s) hx ?_ (fun _ => ?_)) | clear_value x)
    | lift_lets
    | (apply Does.step; on_goal 1 => first | exact State.bump_does _ INT_REC_CNT.PARKS _ (by with_unfolding_all exact Field.has_one INT_REC_CNT) | exact State.putBit_does _ INT_DEG_CAUSE.CAUSE _ _ (by with_unfolding_all exact Field.has_one INT_DEG_CAUSE) | apply State.parkAxis_does | apply State.raise_does | apply State.event_does)
    | refine State.each_does (fun s b => ?_) ?_
    | dsimp only

theorem State.notCovering_does (s) : Does [.row ENG_E_STAT, .row ENG_E_LIST, .row ENG_E_FETCH_CHK] s (State.notCovering s) := by
  unfold State.notCovering
  repeat' with_reducible first
    | assumption
    | decide
    | exact Does.refl _ _
    | (intro x; first | (have _h : State := x; clear _h; clear_value (hx : x = _); refine Does.bind (l := [.row ENG_E_STAT, .row ENG_E_LIST, .row ENG_E_FETCH_CHK]) (s := s) hx ?_ (fun _ => ?_)) | clear_value x)
    | lift_lets
    | (apply Does.step; on_goal 1 => first | exact State.put_does _ (ENG_E_STAT.AXES _) _ (by with_unfolding_all exact Field.has_row ENG_E_STAT (fun _ => rfl) _) | exact State.put_does _ (ENG_E_STAT.COVER _) _ (by with_unfolding_all exact Field.has_row ENG_E_STAT (fun _ => rfl) _) | exact State.put_does _ (ENG_E_STAT.COVER_VALID _) _ (by with_unfolding_all exact Field.has_row ENG_E_STAT (fun _ => rfl) _) | exact State.setWord_does _ (ENG_E_FETCH_CHK _) _ (by with_unfolding_all exact Field.has_row ENG_E_FETCH_CHK (fun _ => rfl) _) | exact State.setWord_does _ (ENG_E_LIST _) _ (by with_unfolding_all exact Field.has_row ENG_E_LIST (fun _ => rfl) _))
    | dsimp only

/-- What `State.coverLost` and its like may change. -/
def Parts.ofCoverLost : List Field :=
  [.one ENG_STAT, .row ENG_E_STAT, .row ENG_E_LIST, .row ENG_E_FETCH_CHK, .one MOD_STAT, .row MOD_AX_STAT,
    .row PWR_AX_LIVE, .row MEM_B_STAT, .one INT_STAT, .one INT_REC, .one INT_DEG_CAUSE, .one INT_SAFE_CAUSE,
    .one INT_AXCAUSE_LO, .one INT_AXCAUSE_HI, .one INT_EVT_CNT, .row INT_EVT_A, .row INT_EVT_T, .one MGT_LOG_STAT,
    .faults, .sys, .reel, .intg, .mgt, .can, .mods, .pwr, .drawn]

theorem State.coverLost_does (s) : Does Parts.ofCoverLost s (State.coverLost s) := by
  unfold State.coverLost
  repeat' with_reducible first
    | assumption
    | decide
    | exact Does.refl _ _
    | (intro x; first | (have _h : State := x; clear _h; clear_value (hx : x = _); refine Does.bind (l := Parts.ofCoverLost) (s := s) hx ?_ (fun _ => ?_)) | (have _h : _ × State := x; clear _h; clear_value (hx : x = _); refine Does.bindSnd (l := Parts.ofCoverLost) (s := s) hx ?_ (fun _ => ?_)) | clear_value x)
    | lift_lets
    | (apply Does.step; on_goal 1 => first | exact State.put_does _ ENG_STAT.ES_BUSY _ (by with_unfolding_all exact Field.has_one ENG_STAT) | exact State.put_does _ INT_STAT.WINDOW _ (by with_unfolding_all exact Field.has_one INT_STAT) | exact State.setWord_does _ INT_REC _ (by with_unfolding_all exact Field.has_one INT_REC) | exact State.putBit_does _ INT_DEG_CAUSE.CAUSE _ _ (by with_unfolding_all exact Field.has_one INT_DEG_CAUSE) | apply State.enterSafe_does | apply State.loseTrack_does | apply State.safeCause_does | apply State.raise_does | apply State.stampD1_does | apply State.event_does | apply State.setEngState_does | apply State.notCovering_does | apply State.lend_does)
    | refine State.when_does (fun s => ?_) ?_
    | refine State.each_does (fun s b => ?_) ?_
    | refine Does.ite ?_ ?_
    | refine Does.iteSnd ?_ ?_
    | split
    | (apply Does.step; on_goal 1 => first | apply Does.intg)
    | dsimp only

theorem State.returnFail_does (s e t) : Does [.one ENG_STAT, .row ENG_E_STAT, .row MEM_B_STAT, .one INT_STAT, .one INT_REC, .one INT_EVT_CNT, .row INT_EVT_A, .row INT_EVT_T, .one MGT_LOG_STAT, .faults, .reel, .engs, .mgt, .can] s (State.returnFail s e t) := by
  unfold State.returnFail
  repeat' with_reducible first
    | assumption
    | decide
    | exact Does.refl _ _
    | (intro x; first | (have _h : State := x; clear _h; clear_value (hx : x = _); refine Does.bind (l := [.one ENG_STAT, .row ENG_E_STAT, .row MEM_B_STAT, .one INT_STAT, .one INT_REC, .one INT_EVT_CNT, .row INT_EVT_A, .row INT_EVT_T, .one MGT_LOG_STAT, .faults, .reel, .engs, .mgt, .can]) (s := s) hx ?_ (fun _ => ?_)) | clear_value x)
    | lift_lets
    | (apply Does.step; on_goal 1 => first | exact State.put_does _ INT_REC.PHASE _ (by with_unfolding_all exact Field.has_one INT_REC) | apply State.lend_does | apply State.setEngState_does | refine State.modEng_does _ _ (fun g hg => by first | exact ⟨hg.1, hg.2⟩ | exact ⟨rfl, rfl⟩ | simpa using hg | simpa [Eng.Shaped] using hg) | apply State.event_does | apply State.raise_does)
    | dsimp only

theorem State.returnFailSeen_does (s e) : Does [.one ENG_STAT, .row ENG_E_STAT, .row MEM_B_STAT, .one INT_STAT, .one INT_REC, .one INT_EVT_CNT, .row INT_EVT_A, .row INT_EVT_T, .one MGT_LOG_STAT, .faults, .reel, .engs, .mgt, .can, .drawn] s (State.returnFailSeen s e) := by
  unfold State.returnFailSeen
  repeat' with_reducible first
    | assumption
    | decide
    | exact Does.refl _ _
    | (intro x; first | (have _h : State := x; clear _h; clear_value (hx : x = _); refine Does.bind (l := [.one ENG_STAT, .row ENG_E_STAT, .row MEM_B_STAT, .one INT_STAT, .one INT_REC, .one INT_EVT_CNT, .row INT_EVT_A, .row INT_EVT_T, .one MGT_LOG_STAT, .faults, .reel, .engs, .mgt, .can, .drawn]) (s := s) hx ?_ (fun _ => ?_)) | (have _h : _ × State := x; clear _h; clear_value (hx : x = _); refine Does.bindSnd (l := [.one ENG_STAT, .row ENG_E_STAT, .row MEM_B_STAT, .one INT_STAT, .one INT_REC, .one INT_EVT_CNT, .row INT_EVT_A, .row INT_EVT_T, .one MGT_LOG_STAT, .faults, .reel, .engs, .mgt, .can, .drawn]) (s := s) hx ?_ (fun _ => ?_)) | clear_value x)
    | lift_lets
    | (apply Does.step; on_goal 1 => first | apply State.stampD1_does | apply State.returnFail_does)
    | refine Does.ite ?_ ?_
    | refine Does.iteSnd ?_ ?_
    | dsimp only

theorem State.takeOver_does (s e cause t) : Does [.one INT_STAT, .one INT_REC_CNT, .one INT_EVT_CNT, .row INT_EVT_A, .row INT_EVT_T, .one MGT_LOG_STAT, .faults, .reel, .intg, .mgt, .can] s (State.takeOver s e cause t) := by
  unfold State.takeOver
  repeat' with_reducible first
    | assumption
    | decide
    | exact Does.refl _ _
    | (intro x; first | (have _h : State := x; clear _h; clear_value (hx : x = _); refine Does.bind (l := [.one INT_STAT, .one INT_REC_CNT, .one INT_EVT_CNT, .row INT_EVT_A, .row INT_EVT_T, .one MGT_LOG_STAT, .faults, .reel, .intg, .mgt, .can]) (s := s) hx ?_ (fun _ => ?_)) | clear_value x)
    | lift_lets
    | (apply Does.step; on_goal 1 => first | exact State.bump_does _ INT_REC_CNT.TAKEOVERS _ (by with_unfolding_all exact Field.has_one INT_REC_CNT) | exact State.put_does _ INT_STAT.WINDOW _ (by with_unfolding_all exact Field.has_one INT_STAT) | apply State.event_does | apply State.raise_does)
    | (apply Does.step; on_goal 1 => first | apply Does.intg)
    | dsimp only

/-- What `State.engineFault` and its like may change. -/
def Parts.ofEngineFault : List Field :=
  [.one ENG_STAT, .row ENG_E_STAT, .row ENG_E_LIST, .row ENG_E_FETCH_CHK, .row ENG_E_MISS, .one MOD_STAT,
    .one MOD_ILOCK_CNT, .row MOD_AX_STAT, .row MOD_AX_FORCE, .row PWR_AX_LIVE, .one MEM_MB_CNT, .row MEM_B_STAT,
    .row MEM_B_ECC, .one INT_STAT, .one INT_REC, .one INT_REC_CNT, .one INT_DEG_CAUSE, .one INT_SAFE_CAUSE,
    .one INT_AXCAUSE_LO, .one INT_AXCAUSE_HI, .one INT_EVT_CNT, .row INT_EVT_A, .row INT_EVT_T, .one MGT_LOG_STAT,
    .faults, .sys, .reel, .engs, .intg, .mgt, .can, .mem, .mods, .modg, .pwr, .drawn, .cells]

theorem State.engineFault_does (s e c) : Does Parts.ofEngineFault s (State.engineFault s e c) := by
  unfold State.engineFault
  repeat' with_reducible first
    | assumption
    | decide
    | exact Does.refl _ _
    | (intro x; first | (have _h : State := x; clear _h; clear_value (hx : x = _); refine Does.bind (l := Parts.ofEngineFault) (s := s) hx ?_ (fun _ => ?_)) | (have _h : _ × State := x; clear _h; clear_value (hx : x = _); refine Does.bindSnd (l := Parts.ofEngineFault) (s := s) hx ?_ (fun _ => ?_)) | clear_value x)
    | lift_lets
    | (apply Does.step; on_goal 1 => first | exact State.put_does _ (ENG_E_STAT.CAUSE _) _ (by with_unfolding_all exact Field.has_row ENG_E_STAT (fun _ => rfl) _) | exact State.bump_does _ (ENG_E_MISS.FAULTS _) _ (by with_unfolding_all exact Field.has_row ENG_E_MISS (fun _ => rfl) _) | exact State.put_does _ ENG_STAT.ES_OK _ (by with_unfolding_all exact Field.has_one ENG_STAT) | exact State.putBit_does _ INT_DEG_CAUSE.CAUSE _ _ (by with_unfolding_all exact Field.has_one INT_DEG_CAUSE) | exact State.putBit_does _ INT_STAT.PARKED _ _ (by with_unfolding_all exact Field.has_one INT_STAT) | apply State.undoBack_does | refine State.modEng_does _ _ (fun g hg => by first | exact ⟨hg.1, hg.2⟩ | exact ⟨rfl, rfl⟩ | simpa using hg | simpa [Eng.Shaped] using hg) | apply State.raise_does | apply State.setEngState_does | apply State.coverLost_does | apply State.stampD1_does | apply State.returnFail_does | apply State.park_does | apply State.takeOver_does)
    | refine Does.ite ?_ ?_
    | refine Does.iteSnd ?_ ?_
    | split
    | (apply Does.step; on_goal 1 => first | apply Does.intg)
    | dsimp only

theorem State.faultSeen_does (s e c) : Does Parts.engineFault s (State.faultSeen s e c) := by
  unfold State.faultSeen
  repeat' with_reducible first
    | assumption
    | decide
    | exact Does.refl _ _
    | (intro x; first | (have _h : State := x; clear _h; clear_value (hx : x = _); refine Does.bind (l := Parts.engineFault) (s := s) hx ?_ (fun _ => ?_)) | clear_value x)
    | lift_lets
    | (apply Does.step; on_goal 1 => first | exact State.setWord_does _ (ENG_E_WATCH _) _ (by with_unfolding_all exact Field.has_row ENG_E_WATCH (fun _ => rfl) _) | apply State.engineFault_does)
    | refine State.when_does (fun s => ?_) ?_
    | dsimp only

theorem State.detected_does (s e c) : Does Parts.engineFault s (State.detected s e c) := by
  unfold State.detected
  repeat' with_reducible first
    | assumption
    | decide
    | exact Does.refl _ _
    | (apply Does.step; on_goal 1 => first | apply State.faultSeen_does | apply State.returnFailSeen_does)
    | refine Does.ite ?_ ?_
    | refine Does.iteSnd ?_ ?_
    | split
    | dsimp only

theorem execEngineFault_does (e d s) : ∀ t, execEngineFault e d s = .next t → Does Parts.engineFault s t := by
  unfold execEngineFault
  refine whenPowered_does ?_
  repeat' with_reducible first
    | assumption
    | decide
    | exact Does.refl _ _
    | (intro x; first | (have _h : State := x; clear _h; clear_value (hx : x = _); refine Does.bind (l := Parts.engineFault) (s := s) hx ?_ (fun _ => ?_)) | clear_value x)
    | lift_lets
    | (apply Does.step; on_goal 1 => first | apply State.detected_does)
    | refine State.when_does (fun s => ?_) ?_
    | refine State.each_does (fun s b => ?_) ?_
    | refine Does.ite ?_ ?_
    | refine Does.iteSnd ?_ ?_
    | dsimp only

theorem execNoStart_does (e s) : ∀ t, execNoStart e s = .next t → Does Parts.engineFault s t := by
  unfold execNoStart
  refine whenPowered_does ?_
  repeat' with_reducible first
    | assumption
    | decide
    | exact Does.refl _ _
    | (apply Does.step; on_goal 1 => first | exact State.setWord_does _ (ENG_E_WATCH _) _ (by with_unfolding_all exact Field.has_row ENG_E_WATCH (fun _ => rfl) _) | apply State.engineFault_does)
    | refine State.when_does (fun s => ?_) ?_
    | refine Does.ite ?_ ?_
    | refine Does.iteSnd ?_ ?_
    | dsimp only

theorem State.forceEngines_does (s m) : Does [.engs] s (State.forceEngines s m) := by
  unfold State.forceEngines
  repeat' with_reducible first
    | assumption
    | decide
    | exact Does.refl _ _
    | (intro x; first | (have _h : State := x; clear _h; clear_value (hx : x = _); refine Does.bind (l := [.engs]) (s := s) hx ?_ (fun _ => ?_)) | clear_value x)
    | lift_lets
    | (apply Does.step; on_goal 1 => first | refine State.modEng_does _ _ (fun g hg => by first | exact ⟨hg.1, hg.2⟩ | exact ⟨rfl, rfl⟩ | simpa using hg | simpa [Eng.Shaped] using hg))
    | refine State.each_does (fun s b => ?_) ?_
    | dsimp only

theorem State.restoreEngines_does (s m) : Does [.intg] s (State.restoreEngines s m) := by
  unfold State.restoreEngines
  repeat' with_reducible first
    | assumption
    | decide
    | exact Does.refl _ _
    | (intro x; first | (have _h : State := x; clear _h; clear_value (hx : x = _); refine Does.bind (l := [.intg]) (s := s) hx ?_ (fun _ => ?_)) | clear_value x)
    | lift_lets
    | split
    | (apply Does.step; on_goal 1 => first | apply Does.intg)
    | dsimp only

theorem State.writeEngCtrl_does (s v) : Does [.engs, .intg, .spi] s (State.writeEngCtrl s v) := by
  unfold State.writeEngCtrl
  repeat' with_reducible first
    | assumption
    | decide
    | exact Does.refl _ _
    | (intro x; first | (have _h : State := x; clear _h; clear_value (hx : x = _); refine Does.bind (l := [.engs, .intg, .spi]) (s := s) hx ?_ (fun _ => ?_)) | clear_value x)
    | lift_lets
    | (apply Does.step; on_goal 1 => first | apply State.refuse_does | apply State.restoreEngines_does | apply State.forceEngines_does | refine State.modEng_does _ _ (fun g hg => by first | exact ⟨hg.1, hg.2⟩ | exact ⟨rfl, rfl⟩ | simpa using hg | simpa [Eng.Shaped] using hg))
    | refine State.when_does (fun s => ?_) ?_
    | refine Does.ite ?_ ?_
    | refine Does.iteSnd ?_ ?_
    | dsimp only

theorem execForce_does (m s) : ∀ t, execForce m s = .next t → Does [.engs, .intg, .spi] s t := by
  unfold execForce
  refine hostAccess_does ?_
  repeat' with_reducible first
    | assumption
    | decide
    | exact Does.refl _ _
    | (apply Does.step; on_goal 1 => first | apply State.writeEngCtrl_does)
    | dsimp only

theorem execForceEs_does (s) : ∀ t, execForceEs s = .next t → Does [.engs, .intg, .spi] s t := by
  unfold execForceEs
  refine hostAccess_does ?_
  repeat' with_reducible first
    | assumption
    | decide
    | exact Does.refl _ _
    | (apply Does.step; on_goal 1 => first | apply State.writeEngCtrl_does)
    | dsimp only

theorem execRestore_does (m s) : ∀ t, execRestore m s = .next t → Does [.engs, .intg, .spi] s t := by
  unfold execRestore
  refine hostAccess_does ?_
  repeat' with_reducible first
    | assumption
    | decide
    | exact Does.refl _ _
    | (apply Does.step; on_goal 1 => first | apply State.writeEngCtrl_does)
    | dsimp only

theorem execReturnReloadDone_does (s) : ∀ t, execReturnReloadDone s = .next t → Does [.engs, .intg] s t := by
  unfold execReturnReloadDone
  refine whenPowered_does ?_
  repeat' with_reducible first
    | assumption
    | decide
    | exact Does.refl _ _
    | (intro x; first | (have _h : State := x; clear _h; clear_value (hx : x = _); refine Does.bind (l := [.engs, .intg]) (s := s) hx ?_ (fun _ => ?_)) | clear_value x)
    | lift_lets
    | (apply Does.step; on_goal 1 => first | refine State.modEng_does _ _ (fun g hg => by first | exact ⟨hg.1, hg.2⟩ | exact ⟨rfl, rfl⟩ | simpa using hg | simpa [Eng.Shaped] using hg))
    | refine State.when_does (fun s => ?_) ?_
    | refine Does.ite ?_ ?_
    | refine Does.iteSnd ?_ ?_
    | dsimp only

theorem State.takeMirror_does (s n i w) : Does [.intg] s (State.takeMirror s n i w) := by
  unfold State.takeMirror
  repeat' with_reducible first
    | assumption
    | decide
    | exact Does.refl _ _
    | (intro x; first | (have _h : State := x; clear _h; clear_value (hx : x = _); refine Does.bind (l := [.intg]) (s := s) hx ?_ (fun _ => ?_)) | clear_value x)
    | lift_lets
    | (apply Does.step; on_goal 1 => first | apply Does.intg)
    | dsimp only

theorem State.takeCopy_does (s n i w) : Does [.intg] s (State.takeCopy s n i w) := by
  unfold State.takeCopy
  repeat' with_reducible first
    | assumption
    | decide
    | exact Does.refl _ _
    | (intro x; first | (have _h : State := x; clear _h; clear_value (hx : x = _); refine Does.bind (l := [.intg]) (s := s) hx ?_ (fun _ => ?_)) | clear_value x)
    | lift_lets
    | refine Does.ite ?_ ?_
    | refine Does.iteSnd ?_ ?_
    | (apply Does.step; on_goal 1 => first | apply Does.intg)
    | dsimp only

theorem State.mirrorCut_does (s) : Does [.one INT_CHK_CNT, .one MGT_LOG_STAT, .faults, .reel, .intg, .mgt, .can] s (State.mirrorCut s) := by
  unfold State.mirrorCut
  dsimp only
  refine Does.step (Does.intg _ _) rfl (State.when_does (fun s => Does.weaken (State.raise_does ..) rfl) (State.each_does (fun s n => ?_) (Does.refl _ _)))
  split
  · split
    · exact Does.weaken (Does.intg _ _) rfl
    · exact Does.weaken (State.bump_does _ INT_CHK_CNT.MIRROR _ (Field.has_one _)) rfl
  · exact Does.weaken (State.bump_does _ INT_CHK_CNT.MIRROR _ (Field.has_one _)) rfl

theorem State.checkBlocks_does (s base a1 a2) : Does [.row MEM_B_STAT, .row MEM_B_ECC, .row MEM_B_REPAIR, .one INT_DEG_CAUSE, .one MGT_LOG_STAT, .faults, .reel, .mgt, .can, .mem, .drawn] s (State.checkBlocks s base a1 a2).2.2 := by
  induction a2 generalizing s a1 with
  | zero => exact Does.refl _ _
  | succ n ih =>
    unfold State.checkBlocks
    repeat' with_reducible first
      | assumption
      | decide
      | exact Does.refl _ _
      | (apply Does.trans; on_goal 2 => apply ih)
      | (apply Does.step; on_goal 1 => first | apply State.engReads_does)
      | refine Does.ite ?_ ?_
      | refine Does.iteSnd ?_ ?_
      | split
      | refine Does.ofTriple (by assumption) ?_
      | dsimp only

/-- What `State.restoreAxis` and its like may change. -/
def Parts.ofRestoreAxis : List Field :=
  [.one ENG_STAT, .row ENG_E_STAT, .row ENG_E_LIST, .row ENG_E_FETCH_CHK, .row ENG_E_MISS, .one MOD_STAT,
    .one MOD_ILOCK_CNT, .row MOD_AX_STAT, .row MOD_AX_FORCE, .row PWR_AX_LIVE, .one MEM_MB_CNT, .row MEM_B_STAT,
    .row MEM_B_ECC, .row MEM_B_REPAIR, .one INT_STAT, .one INT_REC, .one INT_REC_CNT, .one INT_DEG_CAUSE,
    .one INT_SAFE_CAUSE, .one INT_AXCAUSE_LO, .one INT_AXCAUSE_HI, .one INT_EVT_CNT, .row INT_EVT_A, .row INT_EVT_T,
    .one MGT_LOG_STAT, .faults, .sys, .reel, .engs, .intg, .mgt, .can, .mem, .mods, .modg, .pwr, .drawn, .cells]

theorem State.restoreAxis_does (s e pos n) : Does Parts.ofRestoreAxis s (State.restoreAxis s e pos n).2 := by
  unfold State.restoreAxis
  repeat' with_reducible first
    | assumption
    | decide
    | exact Does.refl _ _
    | (intro x; first | (have _h : State := x; clear _h; clear_value (hx : x = _); refine Does.bind (l := Parts.ofRestoreAxis) (s := s) hx ?_ (fun _ => ?_)) | (have _h : _ × State := x; clear _h; clear_value (hx : x = _); refine Does.bindSnd (l := Parts.ofRestoreAxis) (s := s) hx ?_ (fun _ => ?_)) | (have _h : _ × _ × State := x; clear _h; clear_value (hx : x = _); refine Does.bindThird (l := Parts.ofRestoreAxis) (s := s) hx ?_ (fun _ => ?_)) | clear_value x)
    | lift_lets
    | (apply Does.step; on_goal 1 => first | apply State.checkBlocks_does | apply State.engineFault_does | apply State.engReads_does | apply State.storeBlock_does)
    | refine Does.ite ?_ ?_
    | refine Does.iteSnd ?_ ?_
    | split
    | refine Does.ofPair (by assumption) ?_
    | refine Does.ofTriple (by assumption) ?_
    | dsimp only

theorem State.restoreAll.go_does (e pos s l) : Does Parts.ofRestoreAxis s (State.restoreAll.go e pos s l) := by
  induction l generalizing pos s with
  | nil => exact Does.refl _ _
  | cons n t ih =>
    unfold State.restoreAll.go
    have h := State.restoreAxis_does s e pos n
    split
    · rename_i x e; rw [e] at h
      exact (Does.weaken h rfl).trans (ih _ _)
    · rename_i x e; rw [e] at h
      refine Does.trans ?_ (ih _ _)
      dsimp only
      exact Does.step (Does.intg _ _) rfl (Does.step (State.putBit_does _ INT_REC.AXES _ _ (Field.has_one _)) rfl (Does.step (State.park_does ..) rfl
        (Does.step (State.raise_does ..) rfl (Does.step (State.stampD1_does ..) rfl (Does.weaken h rfl)))))
    · rename_i x e; rw [e] at h
      exact Does.weaken h rfl

theorem State.restoreAll_does (s) : Does Parts.ofRestoreAxis s (State.restoreAll s) := by
  unfold State.restoreAll
  exact Does.trans (Does.weaken (Does.intg _ _) rfl) (State.restoreAll.go_does ..)

theorem State.recoveryApply_does (s) : Does [.row MEM_B_STAT] s (State.recoveryApply s) := by
  unfold State.recoveryApply
  repeat' with_reducible first
    | assumption
    | decide
    | exact Does.refl _ _
    | (intro x; first | (have _h : State := x; clear _h; clear_value (hx : x = _); refine Does.bind (l := [.row MEM_B_STAT]) (s := s) hx ?_ (fun _ => ?_)) | clear_value x)
    | lift_lets
    | (apply Does.step; on_goal 1 => first | apply State.lend_does)
    | refine Does.ite ?_ ?_
    | refine Does.iteSnd ?_ ?_
    | split
    | dsimp only

theorem State.takeoverCut_does (s e t) : Does [.one ENG_STAT, .row ENG_E_STAT, .row ENG_E_LIST, .row ENG_E_FETCH_CHK, .row AX_PARAM_STAT, .row MEM_B_STAT, .one INT_STAT, .one INT_REC, .one INT_DEG_CAUSE, .one INT_EVT_CNT, .row INT_EVT_A, .row INT_EVT_T, .one MGT_LOG_STAT, .faults, .intg, .mgt, .can] s (State.takeoverCut s e t) := by
  unfold State.takeoverCut
  repeat' with_reducible first
    | assumption
    | decide
    | exact Does.refl _ _
    | (intro x; first | (have _h : State := x; clear _h; clear_value (hx : x = _); refine Does.bind (l := [.one ENG_STAT, .row ENG_E_STAT, .row ENG_E_LIST, .row ENG_E_FETCH_CHK, .row AX_PARAM_STAT, .row MEM_B_STAT, .one INT_STAT, .one INT_REC, .one INT_DEG_CAUSE, .one INT_EVT_CNT, .row INT_EVT_A, .row INT_EVT_T, .one MGT_LOG_STAT, .faults, .intg, .mgt, .can]) (s := s) hx ?_ (fun _ => ?_)) | clear_value x)
    | lift_lets
    | (apply Does.step; on_goal 1 => first | exact State.put_does _ ENG_STAT.ES_COVER _ (by with_unfolding_all exact Field.has_one ENG_STAT) | exact State.putBit_does _ INT_DEG_CAUSE.CAUSE _ _ (by with_unfolding_all exact Field.has_one INT_DEG_CAUSE) | exact State.put_does _ ENG_STAT.ES_BUSY _ (by with_unfolding_all exact Field.has_one ENG_STAT) | exact State.put_does _ (ENG_E_STAT.COVER_VALID _) _ (by with_unfolding_all exact Field.has_row ENG_E_STAT (fun _ => rfl) _) | exact State.put_does _ (ENG_E_STAT.COVER _) _ (by with_unfolding_all exact Field.has_row ENG_E_STAT (fun _ => rfl) _) | exact State.put_does _ (ENG_E_STAT.AXES _) _ (by with_unfolding_all exact Field.has_row ENG_E_STAT (fun _ => rfl) _) | exact State.setWord_does _ (ENG_E_FETCH_CHK _) _ (by with_unfolding_all exact Field.has_row ENG_E_FETCH_CHK (fun _ => rfl) _) | exact State.setWord_does _ (ENG_E_LIST _) _ (by with_unfolding_all exact Field.has_row ENG_E_LIST (fun _ => rfl) _) | exact State.setWord_does _ INT_REC _ (by with_unfolding_all exact Field.has_one INT_REC) | exact State.putBit_does _ (AX_PARAM_STAT.PEND _) _ _ (by with_unfolding_all exact Field.has_row AX_PARAM_STAT (fun _ => rfl) _) | apply State.setEngState_does | apply State.lend_does | apply State.event_does)
    | refine State.each_does (fun s b => ?_) ?_
    | split
    | (apply Does.step; on_goal 1 => first | apply Does.intg)
    | dsimp only

/-- What `State.windowClose` and its like may change. -/
def Parts.ofWindowClose : List Field :=
  [.one MOD_STAT, .one MOD_ILOCK_CNT, .row MOD_AX_STAT, .row MOD_AX_FORCE, .row PWR_AX_LIVE, .one INT_STAT, .one INT_REC,
    .one INT_REC_CNT, .one INT_DEG_CAUSE, .one INT_AXCAUSE_LO, .one INT_AXCAUSE_HI, .one INT_EVT_CNT, .row INT_EVT_A,
    .row INT_EVT_T, .one MGT_LOG_STAT, .faults, .reel, .intg, .mgt, .can, .mods, .modg, .pwr]

theorem State.windowClose_does (s t) : Does Parts.ofWindowClose s (State.windowClose s t) := by
  unfold State.windowClose
  repeat' with_reducible first
    | assumption
    | decide
    | exact Does.refl _ _
    | (intro x; first | (have _h : State := x; clear _h; clear_value (hx : x = _); refine Does.bind (l := Parts.ofWindowClose) (s := s) hx ?_ (fun _ => ?_)) | clear_value x)
    | lift_lets
    | (apply Does.step; on_goal 1 => first | exact State.put_does _ INT_REC.PHASE _ (by with_unfolding_all exact Field.has_one INT_REC) | exact State.put_does _ INT_REC.WFRAMES _ (by with_unfolding_all exact Field.has_one INT_REC) | exact State.put_does _ INT_STAT.WINDOW _ (by with_unfolding_all exact Field.has_one INT_STAT) | exact State.bump_does _ INT_REC_CNT.INVISIBLE _ (by with_unfolding_all exact Field.has_one INT_REC_CNT) | exact State.bump_does _ INT_REC_CNT.VISIBLE _ (by with_unfolding_all exact Field.has_one INT_REC_CNT) | apply State.raise_does | apply State.park_does | apply State.event_does)
    | refine Does.ite ?_ ?_
    | refine Does.iteSnd ?_ ?_
    | dsimp only

theorem State.windowCut_does (s t) : Does Parts.ofWindowClose s (State.windowCut s t) := by
  unfold State.windowCut
  repeat' with_reducible first
    | assumption
    | decide
    | exact Does.refl _ _
    | (intro x; first | (have _h : State := x; clear _h; clear_value (hx : x = _); refine Does.bind (l := Parts.ofWindowClose) (s := s) hx ?_ (fun _ => ?_)) | clear_value x)
    | lift_lets
    | (apply Does.step; on_goal 1 => first | exact State.put_does _ INT_REC.PHASE _ (by with_unfolding_all exact Field.has_one INT_REC) | exact State.put_does _ INT_REC.WFRAMES _ (by with_unfolding_all exact Field.has_one INT_REC) | apply State.event_does | apply State.windowClose_does)
    | refine Does.ite ?_ ?_
    | refine Does.iteSnd ?_ ?_
    | (apply Does.step; on_goal 1 => first | apply Does.intg)
    | dsimp only

theorem State.returnDone_does (s e t) : Does [.one ENG_STAT, .row ENG_E_STAT, .row ENG_E_LIST, .row ENG_E_FETCH_CHK, .one INT_STAT, .one INT_REC, .one INT_DEG_CAUSE, .one INT_EVT_CNT, .row INT_EVT_A, .row INT_EVT_T, .one MGT_LOG_STAT, .faults, .engs, .intg, .mgt, .can] s (State.returnDone s e t) := by
  unfold State.returnDone
  repeat' with_reducible first
    | assumption
    | decide
    | exact Does.refl _ _
    | (intro x; first | (have _h : State := x; clear _h; clear_value (hx : x = _); refine Does.bind (l := [.one ENG_STAT, .row ENG_E_STAT, .row ENG_E_LIST, .row ENG_E_FETCH_CHK, .one INT_STAT, .one INT_REC, .one INT_DEG_CAUSE, .one INT_EVT_CNT, .row INT_EVT_A, .row INT_EVT_T, .one MGT_LOG_STAT, .faults, .engs, .intg, .mgt, .can]) (s := s) hx ?_ (fun _ => ?_)) | clear_value x)
    | lift_lets
    | (apply Does.step; on_goal 1 => first | exact State.put_does _ ENG_STAT.ES_BUSY _ (by with_unfolding_all exact Field.has_one ENG_STAT) | exact State.setWord_does _ INT_REC _ (by with_unfolding_all exact Field.has_one INT_REC) | exact State.putBit_does _ INT_DEG_CAUSE.CAUSE _ _ (by with_unfolding_all exact Field.has_one INT_DEG_CAUSE) | apply State.setEngState_does | apply State.notCovering_does | refine State.modEng_does _ _ (fun g hg => by first | exact ⟨hg.1, hg.2⟩ | exact ⟨rfl, rfl⟩ | simpa using hg | simpa [Eng.Shaped] using hg) | apply State.event_does)
    | (apply Does.step; on_goal 1 => first | apply Does.intg)
    | dsimp only

theorem State.restartIsland_does (s e) : Does [.one CLK_STAT, .clk] s (State.restartIsland s e) := by
  unfold State.restartIsland
  repeat' with_reducible first
    | assumption
    | decide
    | exact Does.refl _ _
    | (intro x; first | (have _h : State := x; clear _h; clear_value (hx : x = _); refine Does.bind (l := [.one CLK_STAT, .clk]) (s := s) hx ?_ (fun _ => ?_)) | clear_value x)
    | lift_lets
    | (apply Does.step; on_goal 1 => first | exact State.putBit_does _ CLK_STAT.ISL_OK _ _ (by with_unfolding_all exact Field.has_one CLK_STAT))
    | refine Does.ite ?_ ?_
    | refine Does.iteSnd ?_ ?_
    | (apply Does.step; on_goal 1 => first | apply Does.clk)
    | dsimp only

/-- What `State.recoveryCut` and its like may change. -/
def Parts.ofRecoveryCut : List Field :=
  [.one CLK_STAT, .one ENG_STAT, .row ENG_E_STAT, .row ENG_E_LIST, .row ENG_E_FETCH_CHK, .row AX_PARAM_STAT,
    .one MOD_STAT, .one MOD_ILOCK_CNT, .row MOD_AX_STAT, .row MOD_AX_FORCE, .row PWR_AX_LIVE, .row MEM_B_STAT,
    .one INT_STAT, .one INT_REC, .one INT_REC_CNT, .one INT_DEG_CAUSE, .one INT_AXCAUSE_LO, .one INT_AXCAUSE_HI,
    .one INT_EVT_CNT, .row INT_EVT_A, .row INT_EVT_T, .one MGT_LOG_STAT, .faults, .clk, .reel, .engs, .intg, .mgt, .can,
    .mods, .modg, .pwr]

theorem State.recoveryCut_does (s t) : Does Parts.ofRecoveryCut s (State.recoveryCut s t) := by
  unfold State.recoveryCut
  repeat' with_reducible first
    | assumption
    | decide
    | exact Does.refl _ _
    | (intro x; first | (have _h : State := x; clear _h; clear_value (hx : x = _); refine Does.bind (l := Parts.ofRecoveryCut) (s := s) hx ?_ (fun _ => ?_)) | clear_value x)
    | lift_lets
    | (apply Does.step; on_goal 1 => first | exact State.put_does _ INT_REC.PHASE _ (by with_unfolding_all exact Field.has_one INT_REC) | apply State.takeoverCut_does | apply State.windowCut_does | apply State.returnDone_does | refine State.modEng_does _ _ (fun g hg => by first | exact ⟨hg.1, hg.2⟩ | exact ⟨rfl, rfl⟩ | simpa using hg | simpa [Eng.Shaped] using hg) | apply State.event_does | apply State.restartIsland_does | apply State.setEngState_does)
    | refine Does.ite ?_ ?_
    | refine Does.iteSnd ?_ ?_
    | split
    | (apply Does.step; on_goal 1 => first | apply Does.intg)
    | dsimp only

theorem State.writeAxSafe_does (s m) : Does [.one MOD_STAT, .row MOD_AX_STAT, .row PWR_AX_LIVE, .one INT_AXCAUSE_LO, .one INT_AXCAUSE_HI, .intg, .spi, .mods, .pwr] s (State.writeAxSafe s m) := by
  unfold State.writeAxSafe
  repeat' with_reducible first
    | assumption
    | decide
    | exact Does.refl _ _
    | (intro x; first | (have _h : State := x; clear _h; clear_value (hx : x = _); refine Does.bind (l := [.one MOD_STAT, .row MOD_AX_STAT, .row PWR_AX_LIVE, .one INT_AXCAUSE_LO, .one INT_AXCAUSE_HI, .intg, .spi, .mods, .pwr]) (s := s) hx ?_ (fun _ => ?_)) | clear_value x)
    | lift_lets
    | (apply Does.step; on_goal 1 => first | apply State.refuse_does | apply State.enterSafe_does)
    | refine State.each_does (fun s b => ?_) ?_
    | refine Does.ite ?_ ?_
    | refine Does.iteSnd ?_ ?_
    | dsimp only

theorem execAxSafe_does (m s) : ∀ t, execAxSafe m s = .next t → Does [.one MOD_STAT, .row MOD_AX_STAT, .row PWR_AX_LIVE, .one INT_AXCAUSE_LO, .one INT_AXCAUSE_HI, .intg, .spi, .mods, .pwr] s t := by
  unfold execAxSafe
  refine hostAccess_does ?_
  repeat' with_reducible first
    | assumption
    | decide
    | exact Does.refl _ _
    | (apply Does.step; on_goal 1 => first | apply State.writeAxSafe_does)
    | dsimp only

theorem State.writeAxRelease_does (s m) : Does [.intg, .spi] s (State.writeAxRelease s m) := by
  unfold State.writeAxRelease
  repeat' with_reducible first
    | assumption
    | decide
    | exact Does.refl _ _
    | (intro x; first | (have _h : State := x; clear _h; clear_value (hx : x = _); refine Does.bind (l := [.intg, .spi]) (s := s) hx ?_ (fun _ => ?_)) | clear_value x)
    | lift_lets
    | (apply Does.step; on_goal 1 => first | apply State.refuse_does)
    | refine Does.ite ?_ ?_
    | refine Does.iteSnd ?_ ?_
    | (apply Does.step; on_goal 1 => first | apply Does.intg)
    | dsimp only

theorem execAxRelease_does (m s) : ∀ t, execAxRelease m s = .next t → Does [.intg, .spi] s t := by
  unfold execAxRelease
  refine hostAccess_does ?_
  repeat' with_reducible first
    | assumption
    | decide
    | exact Does.refl _ _
    | (apply Does.step; on_goal 1 => first | apply State.writeAxRelease_does)
    | dsimp only

theorem State.releaseCut_does (s) : Does [.one MOD_STAT, .one MOD_ILOCK_CNT, .row MOD_AX_STAT, .row MOD_AX_FORCE, .row PWR_AX_LIVE, .one INT_AXCAUSE_LO, .one INT_AXCAUSE_HI, .one MGT_LOG_STAT, .faults, .reel, .intg, .mgt, .can, .mods, .modg, .pwr] s (State.releaseCut s) := by
  unfold State.releaseCut
  repeat' with_reducible first
    | assumption
    | decide
    | exact Does.refl _ _
    | (intro x; first | (have _h : State := x; clear _h; clear_value (hx : x = _); refine Does.bind (l := [.one MOD_STAT, .one MOD_ILOCK_CNT, .row MOD_AX_STAT, .row MOD_AX_FORCE, .row PWR_AX_LIVE, .one INT_AXCAUSE_LO, .one INT_AXCAUSE_HI, .one MGT_LOG_STAT, .faults, .reel, .intg, .mgt, .can, .mods, .modg, .pwr]) (s := s) hx ?_ (fun _ => ?_)) | clear_value x)
    | lift_lets
    | (apply Does.step; on_goal 1 => first | exact State.putBit_does _ MOD_STAT.SAFE _ _ (by with_unfolding_all exact Field.has_one MOD_STAT) | exact State.put_does _ (MOD_AX_STAT.SAFE _) _ (by with_unfolding_all exact Field.has_row MOD_AX_STAT (fun _ => rfl) _) | exact State.put_does _ (MOD_AX_STAT.FIRST_WAIT _) _ (by with_unfolding_all exact Field.has_row MOD_AX_STAT (fun _ => rfl) _) | apply State.driveChecked_does | apply State.setCoast_does)
    | refine State.each_does (fun s b => ?_) ?_
    | (apply Does.step; on_goal 1 => first | apply Does.intg | apply Does.modg)
    | with_unfolding_all exact Does.ofOnly (by rintro ⟨⟩ hk <;> first | rfl | trivial | exact absurd (by decide) hk) (fun _ _ => rfl) (fun h => { h with })
    | (refine Does.trans (by assumption) ?_; with_unfolding_all exact Does.ofOnly (by rintro ⟨⟩ hk <;> first | rfl | trivial | exact absurd (by decide) hk) (fun _ _ => rfl) (fun h => { h with }))
    | dsimp only

theorem execPinHoldEnd_does (irq s) : ∀ t, execPinHoldEnd irq s = .next t → Does [.intg] s t := by
  unfold execPinHoldEnd
  repeat' with_reducible first
    | assumption
    | decide
    | exact Does.refl _ _
    | (intro x; first | (have _h : State := x; clear _h; clear_value (hx : x = _); refine Does.bind (l := [.intg]) (s := s) hx ?_ (fun _ => ?_)) | clear_value x)
    | lift_lets
    | refine Does.ite ?_ ?_
    | refine Does.iteSnd ?_ ?_
    | (apply Does.step; on_goal 1 => first | apply Does.intg)
    | dsimp only
    | refine done_does ?_ ?_
    | refine whenPowered_does ?_ ?_
    | split
    | (intro t ht; cases ht; exact Does.refl _ _)

end Sys2Proof.Machine
end

