-- ==== Sys2Proof/Laws/Operands.lean ====
section
/-!
SUPPORT. What each operation of Sys2Proof/Machine/Operands.lean can do at most.
-/

-- One proof after the other: as one text the package would otherwise ask for more threads than there is memory for.
set_option Elab.async false
namespace Sys2Proof.Machine

theorem State.tableWord_does (s e a) : Does [.row MEM_B_STAT, .row MEM_B_ECC, .row MEM_B_REPAIR, .one INT_DEG_CAUSE, .one MGT_LOG_STAT, .faults, .reel, .mgt, .can, .mem, .drawn] s (State.tableWord s e a).2.2 := by
  unfold State.tableWord
  repeat' with_reducible first
    | assumption
    | decide
    | exact Does.refl _ _
    | (apply Does.step; on_goal 1 => first | apply State.engReads_does)
    | split
    | refine Does.ofTriple (by assumption) ?_
    | dsimp only

theorem State.tableWords_does (s e a1) : Does [.row MEM_B_STAT, .row MEM_B_ECC, .row MEM_B_REPAIR, .one INT_DEG_CAUSE, .one MGT_LOG_STAT, .faults, .reel, .mgt, .can, .mem, .drawn] s (State.tableWords s e a1).2.2 := by
  induction a1 generalizing s with
  | nil => exact Does.refl _ _
  | cons w t ih =>
    unfold State.tableWords
    repeat' with_reducible first
      | assumption
      | decide
      | exact Does.refl _ _
      | (apply Does.trans; on_goal 2 => apply ih)
      | (apply Does.step; on_goal 1 => first | apply State.tableWord_does)
      | split
      | refine Does.ofTriple (by assumption) ?_
      | dsimp only

theorem State.tbl_does (s e base a interp entry) : Does [.row MEM_B_STAT, .row MEM_B_ECC, .row MEM_B_REPAIR, .one INT_DEG_CAUSE, .one MGT_LOG_STAT, .faults, .reel, .mgt, .can, .mem, .drawn] s (State.tbl s e base a interp entry).2.2.2 := by
  unfold State.tbl
  repeat' with_reducible first
    | assumption
    | decide
    | exact Does.refl _ _
    | (intro x; first | (have _h : State := x; clear _h; clear_value (hx : x = _); refine Does.bind (l := [.row MEM_B_STAT, .row MEM_B_ECC, .row MEM_B_REPAIR, .one INT_DEG_CAUSE, .one MGT_LOG_STAT, .faults, .reel, .mgt, .can, .mem, .drawn]) (s := s) hx ?_ (fun _ => ?_)) | (have _h : _ × _ × State := x; clear _h; clear_value (hx : x = _); refine Does.bindThird (l := [.row MEM_B_STAT, .row MEM_B_ECC, .row MEM_B_REPAIR, .one INT_DEG_CAUSE, .one MGT_LOG_STAT, .faults, .reel, .mgt, .can, .mem, .drawn]) (s := s) hx ?_ (fun _ => ?_)) | clear_value x)
    | lift_lets
    | (apply Does.step; on_goal 1 => first | apply State.tableWords_does)
    | refine Does.ite ?_ ?_
    | refine Does.iteSnd ?_ ?_
    | split
    | refine Does.ofTriple (by assumption) ?_
    | dsimp only

theorem State.probes_does (s e base n m a1 a2) : Does [.row MEM_B_STAT, .row MEM_B_ECC, .row MEM_B_REPAIR, .one INT_DEG_CAUSE, .one MGT_LOG_STAT, .faults, .reel, .mgt, .can, .mem, .drawn] s (State.probes s e base n m a1 a2).2.2 := by
  induction a1 generalizing s a2 with
  | zero => exact Does.refl _ _
  | succ n ih =>
    unfold State.probes
    repeat' with_reducible first
      | assumption
      | decide
      | exact Does.refl _ _
      | (intro x; first | (have _h : State := x; clear _h; clear_value (hx : x = _); refine Does.bind (l := [.row MEM_B_STAT, .row MEM_B_ECC, .row MEM_B_REPAIR, .one INT_DEG_CAUSE, .one MGT_LOG_STAT, .faults, .reel, .mgt, .can, .mem, .drawn]) (s := s) hx ?_ (fun _ => ?_)) | (have _h : _ × _ × State := x; clear _h; clear_value (hx : x = _); refine Does.bindThird (l := [.row MEM_B_STAT, .row MEM_B_ECC, .row MEM_B_REPAIR, .one INT_DEG_CAUSE, .one MGT_LOG_STAT, .faults, .reel, .mgt, .can, .mem, .drawn]) (s := s) hx ?_ (fun _ => ?_)) | clear_value x)
      | (apply Does.trans; on_goal 2 => apply ih)
      | lift_lets
      | (apply Does.step; on_goal 1 => first | apply State.tableWord_does)
      | refine Does.ite ?_ ?_
      | refine Does.iteSnd ?_ ?_
      | split
      | refine Does.ofTriple (by assumption) ?_
      | dsimp only

theorem State.cami_does (s e base a) : Does [.row MEM_B_STAT, .row MEM_B_ECC, .row MEM_B_REPAIR, .one INT_DEG_CAUSE, .one MGT_LOG_STAT, .faults, .reel, .mgt, .can, .mem, .drawn] s (State.cami s e base a).2.2.2.2 := by
  unfold State.cami
  repeat' with_reducible first
    | assumption
    | decide
    | exact Does.refl _ _
    | (intro x; first | (have _h : State := x; clear _h; clear_value (hx : x = _); refine Does.bind (l := [.row MEM_B_STAT, .row MEM_B_ECC, .row MEM_B_REPAIR, .one INT_DEG_CAUSE, .one MGT_LOG_STAT, .faults, .reel, .mgt, .can, .mem, .drawn]) (s := s) hx ?_ (fun _ => ?_)) | (have _h : _ × _ × State := x; clear _h; clear_value (hx : x = _); refine Does.bindThird (l := [.row MEM_B_STAT, .row MEM_B_ECC, .row MEM_B_REPAIR, .one INT_DEG_CAUSE, .one MGT_LOG_STAT, .faults, .reel, .mgt, .can, .mem, .drawn]) (s := s) hx ?_ (fun _ => ?_)) | clear_value x)
    | lift_lets
    | (apply Does.step; on_goal 1 => first | apply State.tableWord_does | apply State.tableWords_does | apply State.probes_does)
    | refine Does.ite ?_ ?_
    | refine Does.iteSnd ?_ ?_
    | split
    | refine Does.ofTriple (by assumption) ?_
    | dsimp only

end Sys2Proof.Machine
end

