-- ==== Sys2Proof/Laws/Shots.lean ====
section
/-!
SUPPORT. What each operation of Sys2Proof/Machine/Shots.lean can do at most.
-/

-- One proof after the other: as one text the package would otherwise ask for more threads than there is memory for.
set_option Elab.async false
namespace Sys2Proof.Machine

theorem State.shotFault_does (s e c) : Does Parts.engineFault s (State.shotFault s e c) := by
  unfold State.shotFault
  repeat' with_reducible first
    | assumption
    | decide
    | exact Does.refl _ _
    | (intro x; first | (have _h : State := x; clear _h; clear_value (hx : x = _); refine Does.bind (l := Parts.engineFault) (s := s) hx ?_ (fun _ => ?_)) | clear_value x)
    | lift_lets
    | (apply Does.step; on_goal 1 => first | exact State.setWord_does _ (ENG_E_WATCH _) _ (by with_unfolding_all exact Field.has_row ENG_E_WATCH (fun _ => rfl) _) | apply State.engineFault_does)
    | dsimp only

theorem State.takeEnd_does (s dst eng) : Does [.intg] s (State.takeEnd s dst eng) := by
  unfold State.takeEnd
  repeat' with_reducible first
    | assumption
    | decide
    | exact Does.refl _ _
    | (intro x; first | (have _h : State := x; clear _h; clear_value (hx : x = _); refine Does.bind (l := [.intg]) (s := s) hx ?_ (fun _ => ?_)) | clear_value x)
    | lift_lets
    | refine Does.ite ?_ ?_
    | refine Does.iteSnd ?_ ?_
    | (apply Does.step; on_goal 1 => first | apply Does.intg)
    | dsimp only

theorem State.takeD11_does (s m) : Does [.intg] s (State.takeD11 s m) := by
  unfold State.takeD11
  repeat' with_reducible first
    | assumption
    | decide
    | exact Does.refl _ _
    | (apply Does.step; on_goal 1 => first | apply State.takeCopy_does | apply State.takeEnd_does | apply State.takeMirror_does)
    | split
    | dsimp only

theorem State.launchD11_does (s e m) : Does [.one CLK_CUT_ERR, .one MGT_LOG_STAT, .faults, .reel, .intg, .mgt, .can, .queues] s (State.launchD11 s e m) := by
  unfold State.launchD11
  repeat' with_reducible first
    | assumption
    | decide
    | exact Does.refl _ _
    | (apply Does.step; on_goal 1 => first | apply State.takeD11_does | apply State.launch_does)
    | refine Does.ite ?_ ?_
    | refine Does.iteSnd ?_ ?_
    | dsimp only

theorem State.launchEnd_does (s e) : Does [.one CLK_CUT_ERR, .one MGT_LOG_STAT, .faults, .reel, .intg, .mgt, .can, .queues] s (State.launchEnd s e) := by
  unfold State.launchEnd
  repeat' with_reducible first
    | assumption
    | decide
    | exact Does.refl _ _
    | (intro x; first | (have _h : State := x; clear _h; clear_value (hx : x = _); refine Does.bind (l := [.one CLK_CUT_ERR, .one MGT_LOG_STAT, .faults, .reel, .intg, .mgt, .can, .queues]) (s := s) hx ?_ (fun _ => ?_)) | clear_value x)
    | lift_lets
    | (apply Does.step; on_goal 1 => first | apply State.launchD11_does | apply State.launch_does)
    | dsimp only

/-- What `State.shotEnd` and its like may change. -/
def Parts.ofShotEnd : List Field :=
  [.one CLK_CUT_ERR, .one ENG_STAT, .row ENG_E_STAT, .row ENG_E_LIST, .row ENG_E_WATCH, .row ENG_E_FETCH_CHK,
    .row ENG_E_MISS, .one MOD_STAT, .one MOD_ILOCK_CNT, .row MOD_AX_STAT, .row MOD_AX_FORCE, .row PWR_AX_LIVE,
    .one MEM_MB_CNT, .row MEM_B_STAT, .row MEM_B_ECC, .one INT_STAT, .one INT_REC, .one INT_REC_CNT, .one INT_DEG_CAUSE,
    .one INT_SAFE_CAUSE, .one INT_AXCAUSE_LO, .one INT_AXCAUSE_HI, .one INT_EVT_CNT, .row INT_EVT_A, .row INT_EVT_T,
    .one MGT_LOG_STAT, .faults, .sys, .reel, .engs, .intg, .mgt, .can, .mem, .mods, .modg, .pwr, .queues, .drawn, .cells]

theorem State.shotEnd_does (s e cycles) : Does Parts.ofShotEnd s (State.shotEnd s e cycles) := by
  unfold State.shotEnd
  repeat' with_reducible first
    | assumption
    | decide
    | exact Does.refl _ _
    | (intro x; first | (have _h : State := x; clear _h; clear_value (hx : x = _); refine Does.bind (l := Parts.ofShotEnd) (s := s) hx ?_ (fun _ => ?_)) | clear_value x)
    | lift_lets
    | (apply Does.step; on_goal 1 => first | refine State.modEng_does _ _ (fun g hg => by first | exact ⟨hg.1, hg.2⟩ | exact ⟨rfl, rfl⟩ | simpa using hg | simpa [Eng.Shaped] using hg) | apply State.shotFault_does | apply State.launchEnd_does)
    | refine Does.ite ?_ ?_
    | refine Does.iteSnd ?_ ?_
    | dsimp only

theorem State.corrected_does (s e l) : Does [.row ENG_E_CNT] s (State.corrected s e l) := by
  unfold State.corrected
  repeat' with_reducible first
    | assumption
    | decide
    | exact Does.refl _ _
    | (apply Does.step; on_goal 1 => first | exact State.bump_does _ (ENG_E_CNT.CORR _) _ (by with_unfolding_all exact Field.has_row ENG_E_CNT (fun _ => rfl) _))
    | refine State.each_does (fun s b => ?_) ?_
    | dsimp only

@[simp] theorem Eng.setOp_shaped (g : Eng) (i v) : (g.setOp i v).Shaped ↔ g.Shaped := by simp [Eng.setOp, Eng.Shaped]
@[simp] theorem Eng.satIf_shaped (g : Eng) (b) : (g.satIf b).Shaped ↔ g.Shaped := Iff.rfl
@[simp] theorem Eng.missIf_shaped (g : Eng) (b) : (g.missIf b).Shaped ↔ g.Shaped := Iff.rfl
@[simp] theorem Eng.setOps_shaped (g : Eng) (i l) : (g.setOps i l).Shaped ↔ g.Shaped := by
  induction l generalizing g i with
  | nil => rfl
  | cons v t ih => rw [Eng.setOps, ih, Eng.setOp_shaped]

theorem State.runShot_does {l s op e f} {eff : Effect} (h : ∀ c s, Does l s (eff c s).2)
    (hk : fits Parts.shot l = true := by rfl) : Does l s (State.runShot s op e f eff) := by
  unfold State.runShot
  repeat' with_reducible first
    | assumption
    | decide
    | exact Does.refl _ _
    | (intro x; first | (have _h : State := x; clear _h; clear_value (hx : x = _); refine Does.bind (l := l) (s := s) hx ?_ (fun _ => ?_)) | clear_value x)
    | exact fits_trans (by decide) hk
    | lift_lets
    | (apply Does.step; on_goal 1 => first | apply State.shotFault_does | apply State.corrected_does | exact State.bump_does _ (ENG_E_CNT.CORR _) _ (by with_unfolding_all exact Field.has_row ENG_E_CNT (fun _ => rfl) _) | apply State.plant_does | apply State.shotEnd_does | refine State.modEng_does _ _ (fun g hg => by first | exact ⟨hg.1, hg.2⟩ | exact ⟨rfl, rfl⟩ | simpa [Eng.Shaped] using hg))
    | refine State.when_does (fun s => ?_) ?_
    | refine State.each_does (fun s b => ?_) ?_
    | refine Does.ite ?_ ?_
    | (apply Does.trans; on_goal 2 => apply h)
    | split
    | refine Does.ofPair (by assumption) ?_

theorem inner_does {f : Shot → Eng → Eng} (h : ∀ c g, g.Shaped → (f c g).Shaped) (c s) : Does [.engs] s (inner f c s).2 :=
  State.modEng_does _ _ (h c)

theorem compute_does (sels f c s) : Does [.engs] s (compute sels f c s).2 :=
  inner_does (fun c g h => by simpa using h) c s

theorem shotPad_does (c s) : Does [.engs] s (shotPad c s).2 := Does.refl _ _

theorem shotLdk_does (c s) : Does [.engs] s (shotLdk c s).2 :=
  inner_does (fun c g h => by
    skip
    repeat' first
      | exact h
      | split
      | simpa using h) c s

theorem shotMov_does (c s) : Does [.engs] s (shotMov c s).2 :=
  inner_does (fun c g h => by
    dsimp only
    repeat' first
      | exact h
      | split
      | simpa using h) c s

theorem shotTagm_does (c s) : Does [.engs] s (shotTagm c s).2 :=
  inner_does (fun c g h => by
    dsimp only
    repeat' first
      | exact h
      | split
      | simpa using h) c s

theorem shotAdd_does (c s) : Does [.engs] s (shotAdd c s).2 := compute_does _ _ c s

theorem shotMul_does (c s) : Does [.engs] s (shotMul c s).2 :=
  inner_does (fun c g h => by
    dsimp only
    repeat' first
      | exact h
      | split
      | simpa using h) c s

theorem shotAccx_does (c s) : Does [.engs] s (shotAccx c s).2 :=
  inner_does (fun c g h => by
    dsimp only
    repeat' first
      | exact h
      | split
      | simpa using h) c s

theorem shotLogic_does (c s) : Does [.engs] s (shotLogic c s).2 := compute_does _ _ c s

theorem shotShift_does (c s) : Does [.engs] s (shotShift c s).2 := compute_does _ _ c s

theorem shotCmp_does (c s) : Does [.engs] s (shotCmp c s).2 := compute_does _ _ c s

theorem shotSel_does (c s) : Does [.engs] s (shotSel c s).2 := compute_does _ _ c s

theorem shotClamp_does (c s) : Does [.engs] s (shotClamp c s).2 := compute_does _ _ c s

theorem shotAbsn_does (c s) : Does [.engs] s (shotAbsn c s).2 := compute_does _ _ c s

theorem shotDiv_does (c s) : Does [.engs] s (shotDiv c s).2 := compute_does _ _ c s

theorem shotIsqrt_does (c s) : Does [.engs] s (shotIsqrt c s).2 := compute_does _ _ c s

theorem shotTbl_does (c s) : Does [.row MEM_B_STAT, .row MEM_B_ECC, .row MEM_B_REPAIR, .one INT_DEG_CAUSE, .one MGT_LOG_STAT, .faults, .reel, .engs, .mgt, .can, .mem, .drawn] s (shotTbl c s).2 := by
  unfold shotTbl
  dsimp only
  repeat' with_reducible first
    | decide
    | exact Does.refl _ _
    | split
    | (apply Does.step; on_goal 1 => first | apply State.tbl_does | refine State.modEng_does _ _ (fun g hg => by first | simpa using hg | (repeat' (first | split | simpa using hg))))
    | refine Does.ofTriple (by assumption) ?_
    | refine Does.ofFour (by assumption) ?_
    | refine Does.ofFive (by assumption) ?_
    | dsimp only

theorem shotRot_does (c s) : Does [.engs] s (shotRot c s).2 :=
  inner_does (fun c g h => by
    dsimp only
    repeat' first
      | exact h
      | split
      | simpa using h) c s

theorem shotObsv_does (c s) : Does [.row MEM_B_STAT, .row MEM_B_ECC, .row MEM_B_REPAIR, .one INT_DEG_CAUSE, .one MGT_LOG_STAT, .faults, .reel, .engs, .mgt, .can, .mem, .drawn] s (shotObsv c s).2 := by
  unfold shotObsv
  dsimp only
  repeat' with_reducible first
    | decide
    | exact Does.refl _ _
    | split
    | (apply Does.step; on_goal 1 => first | apply State.tableWords_does | refine State.modEng_does _ _ (fun g hg => by first | simpa using hg | (repeat' (first | split | simpa using hg))))
    | refine Does.ofTriple (by assumption) ?_
    | refine Does.ofFour (by assumption) ?_
    | refine Does.ofFive (by assumption) ?_
    | dsimp only

theorem shotPlan_does (c s) : Does [.row MEM_B_STAT, .row MEM_B_ECC, .row MEM_B_REPAIR, .one INT_DEG_CAUSE, .one MGT_LOG_STAT, .faults, .reel, .engs, .mgt, .can, .mem, .drawn] s (shotPlan c s).2 := by
  unfold shotPlan
  dsimp only
  repeat' with_reducible first
    | decide
    | exact Does.refl _ _
    | split
    | (apply Does.step; on_goal 1 => first | apply State.tbl_does | refine State.modEng_does _ _ (fun g hg => by first | simpa using hg | (repeat' (first | split | simpa using hg))))
    | refine Does.ofTriple (by assumption) ?_
    | refine Does.ofFour (by assumption) ?_
    | refine Does.ofFive (by assumption) ?_
    | dsimp only

theorem shotRamp_does (c s) : Does [.engs] s (shotRamp c s).2 :=
  inner_does (fun c g h => by
    dsimp only
    repeat' first
      | exact h
      | split
      | simpa using h) c s

theorem shotCami_does (c s) : Does [.row MEM_B_STAT, .row MEM_B_ECC, .row MEM_B_REPAIR, .one INT_DEG_CAUSE, .one MGT_LOG_STAT, .faults, .reel, .engs, .mgt, .can, .mem, .drawn] s (shotCami c s).2 := by
  unfold shotCami
  dsimp only
  repeat' with_reducible first
    | decide
    | exact Does.refl _ _
    | split
    | (apply Does.step; on_goal 1 => first | apply State.cami_does | refine State.modEng_does _ _ (fun g hg => by first | simpa using hg | (repeat' (first | split | simpa using hg))))
    | refine Does.ofTriple (by assumption) ?_
    | refine Does.ofFour (by assumption) ?_
    | refine Does.ofFive (by assumption) ?_
    | dsimp only

theorem shotStepi_does (c s) : Does [.engs] s (shotStepi c s).2 :=
  inner_does (fun c g h => by
    dsimp only
    repeat' first
      | exact h
      | split
      | simpa using h) c s

theorem shotBld_does (c s) : Does [.row MEM_B_STAT, .row MEM_B_ECC, .row MEM_B_REPAIR, .one INT_DEG_CAUSE, .one MGT_LOG_STAT, .faults, .reel, .engs, .mgt, .can, .mem, .drawn] s (shotBld c s).2 := by
  unfold shotBld
  skip
  repeat' with_reducible first
    | decide
    | exact Does.refl _ _
    | split
    | (apply Does.step; on_goal 1 => first | apply State.engReads_does | refine State.modEng_does _ _ (fun g hg => by first | simpa using hg | (repeat' (first | split | simpa using hg))))
    | refine Does.ofTriple (by assumption) ?_
    | refine Does.ofFour (by assumption) ?_
    | refine Does.ofFive (by assumption) ?_
    | dsimp only

theorem State.openUndo_does (s e a) : Does [.engs] s (State.openUndo s e a) := by
  unfold State.openUndo
  repeat' with_reducible first
    | assumption
    | decide
    | exact Does.refl _ _
    | (intro x; first | (have _h : State := x; clear _h; clear_value (hx : x = _); refine Does.bind (l := [.engs]) (s := s) hx ?_ (fun _ => ?_)) | clear_value x)
    | lift_lets
    | (apply Does.step; on_goal 1 => first | refine State.modEng_does _ _ (fun g hg => by first | exact ⟨hg.1, hg.2⟩ | exact ⟨rfl, rfl⟩ | simpa using hg | simpa [Eng.Shaped] using hg))
    | dsimp only

theorem State.closeUndo_does (s e) : Does [.engs] s (State.closeUndo s e) := by
  unfold State.closeUndo
  repeat' with_reducible first
    | assumption
    | decide
    | exact Does.refl _ _
    | (intro x; first | (have _h : State := x; clear _h; clear_value (hx : x = _); refine Does.bind (l := [.engs]) (s := s) hx ?_ (fun _ => ?_)) | clear_value x)
    | lift_lets
    | (apply Does.step; on_goal 1 => first | refine State.modEng_does _ _ (fun g hg => by first | exact ⟨hg.1, hg.2⟩ | exact ⟨rfl, rfl⟩ | simpa using hg | simpa [Eng.Shaped] using hg))
    | dsimp only

theorem shotBst_does (c s) : Does [.one MEM_MB_CNT, .row MEM_B_STAT, .row MEM_B_ECC, .row MEM_B_REPAIR, .one INT_DEG_CAUSE, .one MGT_LOG_STAT, .faults, .reel, .engs, .mgt, .can, .mem, .drawn, .cells] s (shotBst c s).2 := by
  unfold shotBst
  repeat' with_reducible first
    | assumption
    | decide
    | exact Does.refl _ _
    | (intro x; first | (have _h : State := x; clear _h; clear_value (hx : x = _); refine Does.bind (l := [.one MEM_MB_CNT, .row MEM_B_STAT, .row MEM_B_ECC, .row MEM_B_REPAIR, .one INT_DEG_CAUSE, .one MGT_LOG_STAT, .faults, .reel, .engs, .mgt, .can, .mem, .drawn, .cells]) (s := s) hx ?_ (fun _ => ?_)) | (have _h : _ × State := x; clear _h; clear_value (hx : x = _); refine Does.bindSnd (l := [.one MEM_MB_CNT, .row MEM_B_STAT, .row MEM_B_ECC, .row MEM_B_REPAIR, .one INT_DEG_CAUSE, .one MGT_LOG_STAT, .faults, .reel, .engs, .mgt, .can, .mem, .drawn, .cells]) (s := s) hx ?_ (fun _ => ?_)) | clear_value x)
    | lift_lets
    | (apply Does.step; on_goal 1 => first | apply State.storeBlock_does | apply State.openUndo_does | apply State.closeUndo_does)
    | split
    | refine Does.ofPair (by assumption) ?_
    | dsimp only

theorem shotAcpt_does (c s) : Does [.one MEM_MB_CNT, .row MEM_B_STAT, .row MEM_B_ECC, .row MEM_B_REPAIR, .one INT_DEG_CAUSE, .one MGT_LOG_STAT, .faults, .reel, .engs, .mgt, .can, .mem, .drawn, .cells] s (shotAcpt c s).2 := by
  unfold shotAcpt
  repeat' with_reducible first
    | assumption
    | decide
    | exact Does.refl _ _
    | (intro x; first | (have _h : State := x; clear _h; clear_value (hx : x = _); refine Does.bind (l := [.one MEM_MB_CNT, .row MEM_B_STAT, .row MEM_B_ECC, .row MEM_B_REPAIR, .one INT_DEG_CAUSE, .one MGT_LOG_STAT, .faults, .reel, .engs, .mgt, .can, .mem, .drawn, .cells]) (s := s) hx ?_ (fun _ => ?_)) | (have _h : _ × State := x; clear _h; clear_value (hx : x = _); refine Does.bindSnd (l := [.one MEM_MB_CNT, .row MEM_B_STAT, .row MEM_B_ECC, .row MEM_B_REPAIR, .one INT_DEG_CAUSE, .one MGT_LOG_STAT, .faults, .reel, .engs, .mgt, .can, .mem, .drawn, .cells]) (s := s) hx ?_ (fun _ => ?_)) | (have _h : _ × _ × State := x; clear _h; clear_value (hx : x = _); refine Does.bindThird (l := [.one MEM_MB_CNT, .row MEM_B_STAT, .row MEM_B_ECC, .row MEM_B_REPAIR, .one INT_DEG_CAUSE, .one MGT_LOG_STAT, .faults, .reel, .engs, .mgt, .can, .mem, .drawn, .cells]) (s := s) hx ?_ (fun _ => ?_)) | clear_value x)
    | lift_lets
    | (apply Does.step; on_goal 1 => first | apply State.engReads_does | apply State.openUndo_does | apply State.engWrites_does | refine State.modEng_does _ _ (fun g hg => by first | exact ⟨hg.1, hg.2⟩ | exact ⟨rfl, rfl⟩ | simpa using hg | simpa [Eng.Shaped] using hg) | apply State.closeUndo_does)
    | refine Does.ite ?_ ?_
    | refine Does.iteSnd ?_ ?_
    | split
    | refine Does.ofPair (by assumption) ?_
    | refine Does.ofTriple (by assumption) ?_
    | dsimp only

theorem shotSetp_does (c s) : Does [.one CLK_CUT_ERR, .one MGT_LOG_STAT, .faults, .reel, .engs, .intg, .mgt, .can, .queues] s (shotSetp c s).2 := by
  unfold shotSetp
  repeat' with_reducible first
    | assumption
    | decide
    | exact Does.refl _ _
    | (intro x; first | (have _h : State := x; clear _h; clear_value (hx : x = _); refine Does.bind (l := [.one CLK_CUT_ERR, .one MGT_LOG_STAT, .faults, .reel, .engs, .intg, .mgt, .can, .queues]) (s := s) hx ?_ (fun _ => ?_)) | clear_value x)
    | lift_lets
    | (apply Does.step; on_goal 1 => first | refine State.modEng_does _ _ (fun g hg => by first | exact ⟨hg.1, hg.2⟩ | exact ⟨rfl, rfl⟩ | simpa using hg | simpa [Eng.Shaped] using hg) | apply State.launchD11_does | apply State.launch_does)
    | dsimp only

theorem shotStat_does (c s) : Does [.one CLK_CUT_ERR, .one MGT_LOG_STAT, .faults, .reel, .mgt, .can, .queues] s (shotStat c s).2 := by
  unfold shotStat
  repeat' with_reducible first
    | assumption
    | decide
    | exact Does.refl _ _
    | (intro x; first | (have _h : State := x; clear _h; clear_value (hx : x = _); refine Does.bind (l := [.one CLK_CUT_ERR, .one MGT_LOG_STAT, .faults, .reel, .mgt, .can, .queues]) (s := s) hx ?_ (fun _ => ?_)) | clear_value x)
    | lift_lets
    | (apply Does.step; on_goal 1 => first | apply State.launch_does)
    | refine State.each_does (fun s b => ?_) ?_
    | refine Does.ite ?_ ?_
    | refine Does.iteSnd ?_ ?_
    | dsimp only

theorem shotMirr_does (c s) : Does [.one CLK_CUT_ERR, .one MGT_LOG_STAT, .faults, .reel, .intg, .mgt, .can, .queues] s (shotMirr c s).2 := by
  unfold shotMirr
  repeat' with_reducible first
    | assumption
    | decide
    | exact Does.refl _ _
    | (intro x; first | (have _h : State := x; clear _h; clear_value (hx : x = _); refine Does.bind (l := [.one CLK_CUT_ERR, .one MGT_LOG_STAT, .faults, .reel, .intg, .mgt, .can, .queues]) (s := s) hx ?_ (fun _ => ?_)) | clear_value x)
    | lift_lets
    | (apply Does.step; on_goal 1 => first | apply State.launchD11_does)
    | refine State.each_does (fun s b => ?_) ?_
    | dsimp only

theorem execPad_does (e f s) : ∀ t, execPad e f s = .next t → Does Parts.shot s t :=
  whenPowered_does (State.runShot_does (fun c s => Does.weaken (shotPad_does c s) rfl))

theorem execLdk_does (e f s) : ∀ t, execLdk e f s = .next t → Does Parts.shot s t :=
  whenPowered_does (State.runShot_does (fun c s => Does.weaken (shotLdk_does c s) rfl))

theorem execMov_does (e f s) : ∀ t, execMov e f s = .next t → Does Parts.shot s t :=
  whenPowered_does (State.runShot_does (fun c s => Does.weaken (shotMov_does c s) rfl))

theorem execTagm_does (e f s) : ∀ t, execTagm e f s = .next t → Does Parts.shot s t :=
  whenPowered_does (State.runShot_does (fun c s => Does.weaken (shotTagm_does c s) rfl))

theorem execBld_does (e f s) : ∀ t, execBld e f s = .next t → Does Parts.shotStore s t :=
  whenPowered_does (State.runShot_does (fun c s => Does.weaken (shotBld_does c s) rfl))

theorem execBst_does (e f s) : ∀ t, execBst e f s = .next t → Does Parts.shotStore s t :=
  whenPowered_does (State.runShot_does (fun c s => Does.weaken (shotBst_does c s) rfl))

theorem execAcpt_does (e f s) : ∀ t, execAcpt e f s = .next t → Does Parts.shotStore s t :=
  whenPowered_does (State.runShot_does (fun c s => Does.weaken (shotAcpt_does c s) rfl))

theorem execAdd_does (e f s) : ∀ t, execAdd e f s = .next t → Does Parts.shot s t :=
  whenPowered_does (State.runShot_does (fun c s => Does.weaken (shotAdd_does c s) rfl))

theorem execMul_does (e f s) : ∀ t, execMul e f s = .next t → Does Parts.shot s t :=
  whenPowered_does (State.runShot_does (fun c s => Does.weaken (shotMul_does c s) rfl))

theorem execAccx_does (e f s) : ∀ t, execAccx e f s = .next t → Does Parts.shot s t :=
  whenPowered_does (State.runShot_does (fun c s => Does.weaken (shotAccx_does c s) rfl))

theorem execLogic_does (e f s) : ∀ t, execLogic e f s = .next t → Does Parts.shot s t :=
  whenPowered_does (State.runShot_does (fun c s => Does.weaken (shotLogic_does c s) rfl))

theorem execShift_does (e f s) : ∀ t, execShift e f s = .next t → Does Parts.shot s t :=
  whenPowered_does (State.runShot_does (fun c s => Does.weaken (shotShift_does c s) rfl))

theorem execCmp_does (e f s) : ∀ t, execCmp e f s = .next t → Does Parts.shot s t :=
  whenPowered_does (State.runShot_does (fun c s => Does.weaken (shotCmp_does c s) rfl))

theorem execSel_does (e f s) : ∀ t, execSel e f s = .next t → Does Parts.shot s t :=
  whenPowered_does (State.runShot_does (fun c s => Does.weaken (shotSel_does c s) rfl))

theorem execClamp_does (e f s) : ∀ t, execClamp e f s = .next t → Does Parts.shot s t :=
  whenPowered_does (State.runShot_does (fun c s => Does.weaken (shotClamp_does c s) rfl))

theorem execAbsn_does (e f s) : ∀ t, execAbsn e f s = .next t → Does Parts.shot s t :=
  whenPowered_does (State.runShot_does (fun c s => Does.weaken (shotAbsn_does c s) rfl))

theorem execDiv_does (e f s) : ∀ t, execDiv e f s = .next t → Does Parts.shot s t :=
  whenPowered_does (State.runShot_does (fun c s => Does.weaken (shotDiv_does c s) rfl))

theorem execIsqrt_does (e f s) : ∀ t, execIsqrt e f s = .next t → Does Parts.shot s t :=
  whenPowered_does (State.runShot_does (fun c s => Does.weaken (shotIsqrt_does c s) rfl))

theorem execTbl_does (e f s) : ∀ t, execTbl e f s = .next t → Does Parts.shotStore s t :=
  whenPowered_does (State.runShot_does (fun c s => Does.weaken (shotTbl_does c s) rfl))

theorem execRot_does (e f s) : ∀ t, execRot e f s = .next t → Does Parts.shot s t :=
  whenPowered_does (State.runShot_does (fun c s => Does.weaken (shotRot_does c s) rfl))

theorem execObsv_does (e f s) : ∀ t, execObsv e f s = .next t → Does Parts.shotStore s t :=
  whenPowered_does (State.runShot_does (fun c s => Does.weaken (shotObsv_does c s) rfl))

theorem execPlan_does (e f s) : ∀ t, execPlan e f s = .next t → Does Parts.shotStore s t :=
  whenPowered_does (State.runShot_does (fun c s => Does.weaken (shotPlan_does c s) rfl))

theorem execRamp_does (e f s) : ∀ t, execRamp e f s = .next t → Does Parts.shot s t :=
  whenPowered_does (State.runShot_does (fun c s => Does.weaken (shotRamp_does c s) rfl))

theorem execCami_does (e f s) : ∀ t, execCami e f s = .next t → Does Parts.shotStore s t :=
  whenPowered_does (State.runShot_does (fun c s => Does.weaken (shotCami_does c s) rfl))

theorem execStepi_does (e f s) : ∀ t, execStepi e f s = .next t → Does Parts.shot s t :=
  whenPowered_does (State.runShot_does (fun c s => Does.weaken (shotStepi_does c s) rfl))

theorem execSetp_does (e f s) : ∀ t, execSetp e f s = .next t → Does Parts.shot s t :=
  whenPowered_does (State.runShot_does (fun c s => Does.weaken (shotSetp_does c s) rfl))

theorem execStat_does (e f s) : ∀ t, execStat e f s = .next t → Does Parts.shot s t :=
  whenPowered_does (State.runShot_does (fun c s => Does.weaken (shotStat_does c s) rfl))

theorem execMirr_does (e f s) : ∀ t, execMirr e f s = .next t → Does Parts.shot s t :=
  whenPowered_does (State.runShot_does (fun c s => Does.weaken (shotMirr_does c s) rfl))

end Sys2Proof.Machine
end

