-- ==== Sys2Proof/Laws/Clk.lean ====
section
/-!
SUPPORT. What each operation of Sys2Proof/Machine/Clk.lean can do at most.
-/

-- One proof after the other: as one text the package would otherwise ask for more threads than there is memory for.
set_option Elab.async false
namespace Sys2Proof.Machine

theorem execSlateWrap_does (s) : ∀ t, execSlateWrap s = .next t → Does [.clk, .intg] s t := by
  unfold execSlateWrap
  refine whenPowered_does ?_
  repeat' with_reducible first
    | assumption
    | decide
    | exact Does.refl _ _
    | (intro x; first | (have _h : State := x; clear _h; clear_value (hx : x = _); refine Does.bind (l := [.clk, .intg]) (s := s) hx ?_ (fun _ => ?_)) | clear_value x)
    | lift_lets
    | refine State.when_does (fun s => ?_) ?_
    | (apply Does.step; on_goal 1 => first | apply Does.clk)
    | dsimp only

theorem State.takeInput_does (s e i w) : Does [.engs] s (State.takeInput s e i w) := by
  unfold State.takeInput
  repeat' with_reducible first
    | assumption
    | decide
    | exact Does.refl _ _
    | (intro x; first | (have _h : State := x; clear _h; clear_value (hx : x = _); refine Does.bind (l := [.engs]) (s := s) hx ?_ (fun _ => ?_)) | clear_value x)
    | lift_lets
    | (apply Does.step; on_goal 1 => first | refine State.modEng_does _ _ (fun g hg => by first | exact ⟨hg.1, hg.2⟩ | exact ⟨rfl, rfl⟩ | simpa using hg | simpa [Eng.Shaped] using hg))
    | dsimp only

/-- What `State.receive` and its like may change. -/
def Parts.ofReceive : List Field :=
  [.one MOD_STAT, .one MOD_ILOCK_CNT, .row MOD_AX_STAT, .row MOD_AX_FORCE, .one PWR_STAT, .one PWR_THERM,
    .row PWR_AX_LIVE, .row PWR_AX_STAT, .one INT_AXCAUSE_LO, .one INT_AXCAUSE_HI, .one MGT_LOG_STAT, .faults, .reel,
    .engs, .intg, .mgt, .can, .mods, .modg, .pwr]

theorem State.receive_does (s dst m) : Does Parts.ofReceive s (State.receive s dst m) := by
  unfold State.receive
  repeat' with_reducible first
    | assumption
    | decide
    | exact Does.refl _ _
    | (intro x; first | (have _h : State := x; clear _h; clear_value (hx : x = _); refine Does.bind (l := Parts.ofReceive) (s := s) hx ?_ (fun _ => ?_)) | clear_value x)
    | lift_lets
    | (apply Does.step; on_goal 1 => first | apply State.takeSetpoint_does | apply State.takeCopy_does | apply State.takeEnd_does | apply State.takeMirror_does | apply State.takeInput_does | apply State.currentSample_does | apply State.powerResult_does)
    | refine Does.ite ?_ ?_
    | refine Does.iteSnd ?_ ?_
    | split
    | (apply Does.step; on_goal 1 => first | apply Does.intg)
    | dsimp only

theorem State.deliver_does (s x) : Does Parts.crossingDeliver s (State.deliver s x) := by
  unfold State.deliver
  repeat' with_reducible first
    | assumption
    | decide
    | exact Does.refl _ _
    | (apply Does.step; on_goal 1 => first | apply State.receive_does | apply State.setQueue_does)
    | split
    | dsimp only

theorem State.mgmtDelivery_does (s e w) : Does [.engs] s (State.mgmtDelivery s e w) := by
  unfold State.mgmtDelivery
  repeat' with_reducible first
    | assumption
    | decide
    | exact Does.refl _ _
    | (apply Does.step; on_goal 1 => first | apply State.takeInput_does)
    | dsimp only

theorem execCrossingDeliver_does (d s) : ∀ t, execCrossingDeliver d s = .next t → Does Parts.crossingDeliver s t := by
  unfold execCrossingDeliver
  refine whenPowered_does ?_
  repeat' with_reducible first
    | assumption
    | decide
    | exact Does.refl _ _
    | (apply Does.step; on_goal 1 => first | apply State.deliver_does | apply State.mgmtDelivery_does)
    | refine State.when_does (fun s => ?_) ?_
    | split
    | dsimp only

theorem State.drain_does (s x) : Does Parts.crossingDeliver s (State.drain s x) := by
  unfold State.drain
  repeat' with_reducible first
    | assumption
    | decide
    | exact Does.refl _ _
    | (apply Does.step; on_goal 1 => first | apply State.deliver_does)
    | refine State.each_does (fun s b => ?_) ?_
    | dsimp only

theorem State.engineStart_does (s e lo hi) : Does Parts.engineStart s (State.engineStart s e lo hi) := by
  unfold State.engineStart
  repeat' with_reducible first
    | assumption
    | decide
    | exact Does.refl _ _
    | (intro x; first | (have _h : State := x; clear _h; clear_value (hx : x = _); refine Does.bind (l := Parts.engineStart) (s := s) hx ?_ (fun _ => ?_)) | clear_value x)
    | lift_lets
    | (apply Does.step; on_goal 1 => first | exact State.setWord_does _ (ENG_E_WATCH _) _ (by with_unfolding_all exact Field.has_row ENG_E_WATCH (fun _ => rfl) _) | apply State.engineFault_does | refine State.modEng_does _ _ (fun g hg => by first | exact ⟨hg.1, hg.2⟩ | exact ⟨rfl, rfl⟩ | simpa using hg | simpa [Eng.Shaped] using hg) | apply State.corrected_does | apply State.shotFault_does)
    | refine Does.ite ?_ ?_
    | refine Does.iteSnd ?_ ?_
    | dsimp only

theorem execEngineStart_does (b s) : ∀ t, execEngineStart b s = .next t → Does Parts.engineStart s t := by
  unfold execEngineStart
  refine whenPowered_does ?_
  repeat' with_reducible first
    | assumption
    | decide
    | exact Does.refl _ _
    | (apply Does.step; on_goal 1 => first | apply State.engineStart_does)
    | refine State.when_does (fun s => ?_) ?_
    | refine Does.ite ?_ ?_
    | refine Does.iteSnd ?_ ?_
    | dsimp only

theorem execCutMissed_does (s) : ∀ t, execCutMissed s = .next t → Does [.one MGT_LOG_STAT, .faults, .reel, .intg, .mgt, .can] s t := by
  unfold execCutMissed
  refine whenPowered_does ?_
  repeat' with_reducible first
    | assumption
    | decide
    | exact Does.refl _ _
    | (apply Does.step; on_goal 1 => first | apply State.raise_does)
    | refine State.when_does (fun s => ?_) ?_
    | dsimp only

theorem execSlateDecode_does (s) : ∀ t, execSlateDecode s = .next t → Does [.one MOD_STAT, .row MOD_AX_STAT, .row PWR_AX_LIVE, .one INT_SAFE_CAUSE, .one INT_AXCAUSE_LO, .one INT_AXCAUSE_HI, .one MGT_LOG_STAT, .faults, .sys, .reel, .intg, .mgt, .can, .mods, .pwr] s t := by
  unfold execSlateDecode
  refine whenPowered_does ?_
  repeat' with_reducible first
    | assumption
    | decide
    | exact Does.refl _ _
    | (apply Does.step; on_goal 1 => first | apply State.allSafe_does | apply State.safeCause_does | apply State.raise_does)
    | refine State.when_does (fun s => ?_) ?_
    | dsimp only

theorem State.holdover_does (s) : Does [.one CLK_STAT, .clk] s (State.holdover s) := by
  unfold State.holdover
  repeat' with_reducible first
    | assumption
    | decide
    | exact Does.refl _ _
    | (intro x; first | (have _h : State := x; clear _h; clear_value (hx : x = _); refine Does.bind (l := [.one CLK_STAT, .clk]) (s := s) hx ?_ (fun _ => ?_)) | clear_value x)
    | lift_lets
    | (apply Does.step; on_goal 1 => first | exact State.put_does _ CLK_STAT.HOLDOVER _ (by with_unfolding_all exact Field.has_one CLK_STAT))
    | (apply Does.step; on_goal 1 => first | apply Does.clk)
    | dsimp only

theorem State.xtalLoss_does (s) : Does [.one CLK_STAT, .one INT_DEG_CAUSE, .one INT_SAFE_CAUSE, .one MGT_LOG_STAT, .faults, .clk, .sys, .reel, .mgt, .can] s (State.xtalLoss s) := by
  unfold State.xtalLoss
  repeat' with_reducible first
    | assumption
    | decide
    | exact Does.refl _ _
    | (intro x; first | (have _h : State := x; clear _h; clear_value (hx : x = _); refine Does.bind (l := [.one CLK_STAT, .one INT_DEG_CAUSE, .one INT_SAFE_CAUSE, .one MGT_LOG_STAT, .faults, .clk, .sys, .reel, .mgt, .can]) (s := s) hx ?_ (fun _ => ?_)) | clear_value x)
    | lift_lets
    | (apply Does.step; on_goal 1 => first | exact State.put_does _ CLK_STAT.XTAL_GOOD _ (by with_unfolding_all exact Field.has_one CLK_STAT) | exact State.putBit_does _ INT_DEG_CAUSE.CAUSE _ _ (by with_unfolding_all exact Field.has_one INT_DEG_CAUSE) | apply State.holdover_does | apply State.raise_does | apply State.safeCause_does)
    | refine Does.ite ?_ ?_
    | refine Does.iteSnd ?_ ?_
    | (apply Does.step; on_goal 1 => first | apply Does.clk)
    | dsimp only

theorem State.xtalPass_does (s) : Does [.one CLK_STAT, .clk] s (State.xtalPass s) := by
  unfold State.xtalPass
  repeat' with_reducible first
    | assumption
    | decide
    | exact Does.refl _ _
    | (intro x; first | (have _h : State := x; clear _h; clear_value (hx : x = _); refine Does.bind (l := [.one CLK_STAT, .clk]) (s := s) hx ?_ (fun _ => ?_)) | clear_value x)
    | lift_lets
    | (apply Does.step; on_goal 1 => first | exact State.put_does _ CLK_STAT.QUALIFYING _ (by with_unfolding_all exact Field.has_one CLK_STAT))
    | refine Does.ite ?_ ?_
    | refine Does.iteSnd ?_ ?_
    | (apply Does.step; on_goal 1 => first | apply Does.clk)
    | dsimp only

theorem execXtalMonitorWindow_does (periods s) : ∀ t, execXtalMonitorWindow periods s = .next t → Does [.one CLK_STAT, .one INT_DEG_CAUSE, .one INT_SAFE_CAUSE, .one MGT_LOG_STAT, .faults, .clk, .sys, .reel, .intg, .mgt, .can] s t := by
  unfold execXtalMonitorWindow
  refine whenPowered_does ?_
  repeat' with_reducible first
    | assumption
    | decide
    | exact Does.refl _ _
    | (intro x; first | (have _h : State := x; clear _h; clear_value (hx : x = _); refine Does.bind (l := [.one CLK_STAT, .one INT_DEG_CAUSE, .one INT_SAFE_CAUSE, .one MGT_LOG_STAT, .faults, .clk, .sys, .reel, .intg, .mgt, .can]) (s := s) hx ?_ (fun _ => ?_)) | clear_value x)
    | lift_lets
    | (apply Does.step; on_goal 1 => first | exact State.put_does _ CLK_STAT.XTAL_GOOD _ (by with_unfolding_all exact Field.has_one CLK_STAT) | apply State.xtalPass_does | apply State.xtalLoss_does)
    | refine State.when_does (fun s => ?_) ?_
    | refine Does.ite ?_ ?_
    | refine Does.iteSnd ?_ ?_
    | (apply Does.step; on_goal 1 => first | apply Does.clk)
    | dsimp only

theorem execXtalQualified_does (s) : ∀ t, execXtalQualified s = .next t → Does [.one CLK_STAT, .clk, .intg] s t := by
  unfold execXtalQualified
  refine whenPowered_does ?_
  repeat' with_reducible first
    | assumption
    | decide
    | exact Does.refl _ _
    | (intro x; first | (have _h : State := x; clear _h; clear_value (hx : x = _); refine Does.bind (l := [.one CLK_STAT, .clk, .intg]) (s := s) hx ?_ (fun _ => ?_)) | clear_value x)
    | lift_lets
    | (apply Does.step; on_goal 1 => first | exact State.put_does _ CLK_STAT.XTAL_GOOD _ (by with_unfolding_all exact Field.has_one CLK_STAT) | apply State.xtalPass_does)
    | refine State.when_does (fun s => ?_) ?_
    | refine Does.ite ?_ ?_
    | refine Does.iteSnd ?_ ?_
    | (apply Does.step; on_goal 1 => first | apply Does.clk)
    | dsimp only

theorem execXtalLost_does (s) : ∀ t, execXtalLost s = .next t → Does [.one CLK_STAT, .one INT_DEG_CAUSE, .one INT_SAFE_CAUSE, .one MGT_LOG_STAT, .faults, .clk, .sys, .reel, .intg, .mgt, .can] s t := by
  unfold execXtalLost
  refine whenPowered_does ?_
  repeat' with_reducible first
    | assumption
    | decide
    | exact Does.refl _ _
    | (apply Does.step; on_goal 1 => first | apply State.xtalLoss_does)
    | refine State.when_does (fun s => ?_) ?_
    | dsimp only

theorem State.canRestrict_does (s fault) : Does [.one CAN_STAT, .one MGT_LOG_STAT, .faults, .reel, .mgt, .can] s (State.canRestrict s fault) := by
  unfold State.canRestrict
  repeat' with_reducible first
    | assumption
    | decide
    | exact Does.refl _ _
    | (apply Does.step; on_goal 1 => first | exact State.put_does _ CAN_STAT.RC_RESTRICT _ (by with_unfolding_all exact Field.has_one CAN_STAT) | apply State.raise_does)
    | refine State.when_does (fun s => ?_) ?_
    | refine Does.ite ?_ ?_
    | refine Does.iteSnd ?_ ?_
    | dsimp only

theorem execRefSwitch_does (s) : ∀ t, execRefSwitch s = .next t → Does [.one CLK_STAT, .one CAN_STAT, .one MGT_LOG_STAT, .faults, .reel, .intg, .mgt, .can] s t := by
  unfold execRefSwitch
  refine whenPowered_does ?_
  repeat' with_reducible first
    | assumption
    | decide
    | exact Does.refl _ _
    | (apply Does.step; on_goal 1 => first | exact State.put_does _ CLK_STAT.REF_XTAL _ (by with_unfolding_all exact Field.has_one CLK_STAT) | apply State.canRestrict_does)
    | refine State.when_does (fun s => ?_) ?_
    | refine Does.ite ?_ ?_
    | refine Does.iteSnd ?_ ?_
    | dsimp only

theorem execXtalStart_does (s) : ∀ t, execXtalStart s = .next t → Does [.one MGT_LOG_STAT, .faults, .reel, .intg, .mgt, .can] s t := by
  unfold execXtalStart
  refine whenPowered_does ?_
  repeat' with_reducible first
    | assumption
    | decide
    | exact Does.refl _ _
    | (apply Does.step; on_goal 1 => first | apply State.raise_does)
    | refine State.when_does (fun s => ?_) ?_
    | refine Does.ite ?_ ?_
    | refine Does.iteSnd ?_ ?_
    | dsimp only

theorem State.xtalStop_does (s) : Does [.one CLK_STAT, .clk] s (State.xtalStop s) := by
  unfold State.xtalStop
  repeat' with_reducible first
    | assumption
    | decide
    | exact Does.refl _ _
    | (intro x; first | (have _h : State := x; clear _h; clear_value (hx : x = _); refine Does.bind (l := [.one CLK_STAT, .clk]) (s := s) hx ?_ (fun _ => ?_)) | clear_value x)
    | lift_lets
    | (apply Does.step; on_goal 1 => first | exact State.put_does _ CLK_STAT.XTAL_GOOD _ (by with_unfolding_all exact Field.has_one CLK_STAT) | exact State.put_does _ CLK_STAT.QUALIFYING _ (by with_unfolding_all exact Field.has_one CLK_STAT))
    | (apply Does.step; on_goal 1 => first | apply Does.clk)
    | dsimp only

theorem State.writeXtalEn_does (s en) : Does [.one CLK_CTRL, .one CLK_STAT, .clk] s (State.writeXtalEn s en) := by
  unfold State.writeXtalEn
  repeat' with_reducible first
    | assumption
    | decide
    | exact Does.refl _ _
    | (intro x; first | (have _h : State := x; clear _h; clear_value (hx : x = _); refine Does.bind (l := [.one CLK_CTRL, .one CLK_STAT, .clk]) (s := s) hx ?_ (fun _ => ?_)) | clear_value x)
    | lift_lets
    | (apply Does.step; on_goal 1 => first | exact State.put_does _ CLK_STAT.QUALIFYING _ (by with_unfolding_all exact Field.has_one CLK_STAT) | exact State.put_does _ CLK_CTRL.XTAL_EN _ (by with_unfolding_all exact Field.has_one CLK_CTRL) | apply State.xtalStop_does)
    | refine Does.ite ?_ ?_
    | refine Does.iteSnd ?_ ?_
    | (apply Does.step; on_goal 1 => first | apply Does.clk)
    | dsimp only

theorem State.bootXtal_does (s en) : Does [.one CLK_CTRL, .one CLK_STAT, .clk] s (State.bootXtal s en) := by
  unfold State.bootXtal
  repeat' with_reducible first
    | assumption
    | decide
    | exact Does.refl _ _
    | (apply Does.step; on_goal 1 => first | exact State.put_does _ CLK_CTRL.XTAL_EN _ (by with_unfolding_all exact Field.has_one CLK_CTRL) | apply State.xtalStop_does | apply State.writeXtalEn_does)
    | refine Does.ite ?_ ?_
    | refine Does.iteSnd ?_ ?_
    | dsimp only

theorem execXtalEnable_does (en s) : ∀ t, execXtalEnable en s = .next t → Does [.one CLK_CTRL, .one CLK_STAT, .clk, .intg, .spi] s t := by
  unfold execXtalEnable
  refine hostAccess_does ?_
  repeat' with_reducible first
    | assumption
    | decide
    | exact Does.refl _ _
    | (apply Does.step; on_goal 1 => first | apply State.writeXtalEn_does)
    | dsimp only

theorem State.writeXtalRetry_does (s) : Does [.one CLK_STAT, .clk, .spi] s (State.writeXtalRetry s) := by
  unfold State.writeXtalRetry
  repeat' with_reducible first
    | assumption
    | decide
    | exact Does.refl _ _
    | (intro x; first | (have _h : State := x; clear _h; clear_value (hx : x = _); refine Does.bind (l := [.one CLK_STAT, .clk, .spi]) (s := s) hx ?_ (fun _ => ?_)) | clear_value x)
    | lift_lets
    | (apply Does.step; on_goal 1 => first | exact State.put_does _ CLK_STAT.QUALIFYING _ (by with_unfolding_all exact Field.has_one CLK_STAT) | apply State.refuse_does)
    | refine Does.ite ?_ ?_
    | refine Does.iteSnd ?_ ?_
    | (apply Does.step; on_goal 1 => first | apply Does.clk)
    | dsimp only

theorem execXtalRetry_does (s) : ∀ t, execXtalRetry s = .next t → Does [.one CLK_STAT, .clk, .intg, .spi] s t := by
  unfold execXtalRetry
  refine hostAccess_does ?_
  repeat' with_reducible first
    | assumption
    | decide
    | exact Does.refl _ _
    | (apply Does.step; on_goal 1 => first | apply State.writeXtalRetry_does)
    | dsimp only

theorem execFllRelock_does (isl s) : ∀ t, execFllRelock isl s = .next t → Does [.one CLK_STAT, .clk, .intg] s t := by
  unfold execFllRelock
  refine whenPowered_does ?_
  repeat' with_reducible first
    | assumption
    | decide
    | exact Does.refl _ _
    | (intro x; first | (have _h : State := x; clear _h; clear_value (hx : x = _); refine Does.bind (l := [.one CLK_STAT, .clk, .intg]) (s := s) hx ?_ (fun _ => ?_)) | clear_value x)
    | lift_lets
    | (apply Does.step; on_goal 1 => first | exact State.put_does _ CLK_STAT.HOLDOVER _ (by with_unfolding_all exact Field.has_one CLK_STAT) | exact State.putBit_does _ CLK_STAT.ISL_OK _ _ (by with_unfolding_all exact Field.has_one CLK_STAT))
    | refine State.when_does (fun s => ?_) ?_
    | refine Does.ite ?_ ?_
    | refine Does.iteSnd ?_ ?_
    | (apply Does.step; on_goal 1 => first | apply Does.clk)
    | dsimp only

theorem State.islandFault_does (s isl) : Does Parts.cutClose s (State.islandFault s isl) := by
  unfold State.islandFault
  repeat' with_reducible first
    | assumption
    | decide
    | exact Does.refl _ _
    | (intro x; first | (have _h : State := x; clear _h; clear_value (hx : x = _); refine Does.bind (l := Parts.cutClose) (s := s) hx ?_ (fun _ => ?_)) | (have _h : State → _ → State := x; clear _h; clear_value (hx : x = _); refine Does.bindFun2 (l := Parts.cutClose) hx (fun s b => ?_) (fun hf => ?_)) | clear_value x)
    | lift_lets
    | (apply Does.trans; on_goal 2 => apply hf)
    | (apply Does.step; on_goal 1 => first | exact State.setWord_does _ (ENG_E_WATCH _) _ (by with_unfolding_all exact Field.has_row ENG_E_WATCH (fun _ => rfl) _) | apply State.engineFault_does)
    | refine Does.ite ?_ ?_
    | refine Does.iteSnd ?_ ?_
    | (apply Does.step; on_goal 1 => first | apply Does.clk)
    | dsimp only

theorem State.fllUnlock_does (s isl) : Does Parts.fllUnlock s (State.fllUnlock s isl) := by
  unfold State.fllUnlock
  repeat' with_reducible first
    | assumption
    | decide
    | exact Does.refl _ _
    | (intro x; first | (have _h : State := x; clear _h; clear_value (hx : x = _); refine Does.bind (l := Parts.fllUnlock) (s := s) hx ?_ (fun _ => ?_)) | clear_value x)
    | lift_lets
    | (apply Does.step; on_goal 1 => first | exact State.putBit_does _ CLK_STAT.ISL_OK _ _ (by with_unfolding_all exact Field.has_one CLK_STAT) | apply State.raise_does | apply State.islandFault_does | apply State.safeCause_does)
    | refine Does.ite ?_ ?_
    | refine Does.iteSnd ?_ ?_
    | dsimp only

theorem execFllUnlock_does (isls s) : ∀ t, execFllUnlock isls s = .next t → Does Parts.fllUnlock s t := by
  unfold execFllUnlock
  refine whenPowered_does ?_
  repeat' with_reducible first
    | assumption
    | decide
    | exact Does.refl _ _
    | (apply Does.step; on_goal 1 => first | apply State.fllUnlock_does)
    | refine State.when_does (fun s => ?_) ?_
    | refine State.each_does (fun s b => ?_) ?_
    | dsimp only

theorem execRcLost_does (s) : ∀ t, execRcLost s = .next t → Does [.one CLK_STAT, .one INT_DEG_CAUSE, .one INT_SAFE_CAUSE, .one MGT_LOG_STAT, .faults, .clk, .sys, .reel, .intg, .mgt, .can] s t := by
  unfold execRcLost
  refine whenPowered_does ?_
  repeat' with_reducible first
    | assumption
    | decide
    | exact Does.refl _ _
    | (intro x; first | (have _h : State := x; clear _h; clear_value (hx : x = _); refine Does.bind (l := [.one CLK_STAT, .one INT_DEG_CAUSE, .one INT_SAFE_CAUSE, .one MGT_LOG_STAT, .faults, .clk, .sys, .reel, .intg, .mgt, .can]) (s := s) hx ?_ (fun _ => ?_)) | clear_value x)
    | lift_lets
    | (apply Does.step; on_goal 1 => first | exact State.putBit_does _ INT_DEG_CAUSE.CAUSE _ _ (by with_unfolding_all exact Field.has_one INT_DEG_CAUSE) | apply State.raise_does | apply State.safeCause_does | apply State.holdover_does)
    | refine State.when_does (fun s => ?_) ?_
    | refine Does.ite ?_ ?_
    | refine Does.iteSnd ?_ ?_
    | (apply Does.step; on_goal 1 => first | apply Does.clk)
    | dsimp only

theorem execRcReturn_does (s) : ∀ t, execRcReturn s = .next t → Does [.one INT_DEG_CAUSE, .clk, .intg] s t := by
  unfold execRcReturn
  refine whenPowered_does ?_
  repeat' with_reducible first
    | assumption
    | decide
    | exact Does.refl _ _
    | (intro x; first | (have _h : State := x; clear _h; clear_value (hx : x = _); refine Does.bind (l := [.one INT_DEG_CAUSE, .clk, .intg]) (s := s) hx ?_ (fun _ => ?_)) | clear_value x)
    | lift_lets
    | (apply Does.step; on_goal 1 => first | exact State.putBit_does _ INT_DEG_CAUSE.CAUSE _ _ (by with_unfolding_all exact Field.has_one INT_DEG_CAUSE))
    | refine State.when_does (fun s => ?_) ?_
    | (apply Does.step; on_goal 1 => first | apply Does.clk)
    | dsimp only

theorem execLpoMeasure_does (s) : ∀ t, execLpoMeasure s = .next t → Does [.one CLK_STAT, .intg] s t := by
  unfold execLpoMeasure
  refine whenPowered_does ?_
  repeat' with_reducible first
    | assumption
    | decide
    | exact Does.refl _ _
    | (apply Does.step; on_goal 1 => first | exact State.put_does _ CLK_STAT.LPO_BUSY _ (by with_unfolding_all exact Field.has_one CLK_STAT))
    | refine State.when_does (fun s => ?_) ?_
    | refine Does.ite ?_ ?_
    | refine Does.iteSnd ?_ ?_
    | dsimp only

theorem execLpoCal_does (s) : ∀ t, execLpoCal s = .next t → Does [.one CLK_STAT, .intg, .spi] s t := by
  unfold execLpoCal
  refine hostAccess_does ?_
  repeat' with_reducible first
    | assumption
    | decide
    | exact Does.refl _ _
    | (apply Does.step; on_goal 1 => first | exact State.put_does _ CLK_STAT.LPO_BUSY _ (by with_unfolding_all exact Field.has_one CLK_STAT))
    | dsimp only

theorem execLpoMeasureDone_does (per s) : ∀ t, execLpoMeasureDone per s = .next t → Does [.one CLK_STAT, .one CLK_LPO_PER, .one MGT_LOG_STAT, .faults, .clk, .reel, .intg, .mgt, .can] s t := by
  unfold execLpoMeasureDone
  refine whenPowered_does ?_
  repeat' with_reducible first
    | assumption
    | decide
    | exact Does.refl _ _
    | (intro x; first | (have _h : State := x; clear _h; clear_value (hx : x = _); refine Does.bind (l := [.one CLK_STAT, .one CLK_LPO_PER, .one MGT_LOG_STAT, .faults, .clk, .reel, .intg, .mgt, .can]) (s := s) hx ?_ (fun _ => ?_)) | clear_value x)
    | lift_lets
    | (apply Does.step; on_goal 1 => first | exact State.setWord_does _ CLK_LPO_PER _ (by with_unfolding_all exact Field.has_one CLK_LPO_PER) | exact State.put_does _ CLK_STAT.LPO_BUSY _ (by with_unfolding_all exact Field.has_one CLK_STAT) | apply State.raise_does)
    | refine State.when_does (fun s => ?_) ?_
    | refine Does.ite ?_ ?_
    | refine Does.iteSnd ?_ ?_
    | (apply Does.step; on_goal 1 => first | apply Does.clk)
    | dsimp only

theorem execFrameLenWrite_does (v s) : ∀ t, execFrameLenWrite v s = .next t → Does [.waiting, .intg, .spi] s t := by
  unfold execFrameLenWrite
  refine hostAccess_does ?_
  repeat' with_reducible first
    | assumption
    | decide
    | exact Does.refl _ _
    | (apply Does.step; on_goal 1 => first | apply State.refuse_does | apply State.await_does)
    | refine Does.ite ?_ ?_
    | refine Does.iteSnd ?_ ?_
    | dsimp only

theorem State.clearClkFault_does (s mask) : Does [.one CLK_FAULT, .spi] s (State.clearClkFault s mask) := by
  unfold State.clearClkFault
  repeat' with_reducible first
    | assumption
    | decide
    | exact Does.refl _ _
    | (apply Does.step; on_goal 1 => first | exact State.setWord_does _ CLK_FAULT _ (by with_unfolding_all exact Field.has_one CLK_FAULT) | apply State.refuse_does)
    | refine Does.ite ?_ ?_
    | refine Does.iteSnd ?_ ?_
    | dsimp only

theorem execClkFaultClear_does (mask s) : ∀ t, execClkFaultClear mask s = .next t → Does [.one CLK_FAULT, .intg, .spi] s t := by
  unfold execClkFaultClear
  refine hostAccess_does ?_
  repeat' with_reducible first
    | assumption
    | decide
    | exact Does.refl _ _
    | (apply Does.step; on_goal 1 => first | apply State.clearClkFault_does)
    | dsimp only

theorem execSleepSat_does (s) : ∀ t, execSleepSat s = .next t → Does [.keep, .intg] s t := by
  unfold execSleepSat
  repeat' with_reducible first
    | assumption
    | decide
    | exact Does.refl _ _
    | (intro x; first | (have _h : State := x; clear _h; clear_value (hx : x = _); refine Does.bind (l := [.keep, .intg]) (s := s) hx ?_ (fun _ => ?_)) | clear_value x)
    | lift_lets
    | refine Does.ite ?_ ?_
    | refine Does.iteSnd ?_ ?_
    | (apply Does.step; on_goal 1 => first | apply Does.keep)
    | dsimp only
    | refine done_does ?_ ?_
    | refine whenPowered_does ?_ ?_
    | split
    | (intro t ht; cases ht; exact Does.refl _ _)

theorem State.refCut_does (s) : Does [.one CLK_STAT, .one CAN_STAT, .one INT_DEG_CAUSE, .one MGT_LOG_STAT, .faults, .clk, .reel, .mgt, .can] s (State.refCut s) := by
  unfold State.refCut
  repeat' with_reducible first
    | assumption
    | decide
    | exact Does.refl _ _
    | (intro x; first | (have _h : State := x; clear _h; clear_value (hx : x = _); refine Does.bind (l := [.one CLK_STAT, .one CAN_STAT, .one INT_DEG_CAUSE, .one MGT_LOG_STAT, .faults, .clk, .reel, .mgt, .can]) (s := s) hx ?_ (fun _ => ?_)) | clear_value x)
    | lift_lets
    | (apply Does.step; on_goal 1 => first | exact State.putBit_does _ INT_DEG_CAUSE.CAUSE _ _ (by with_unfolding_all exact Field.has_one INT_DEG_CAUSE) | exact State.put_does _ CLK_STAT.REF_XTAL _ (by with_unfolding_all exact Field.has_one CLK_STAT) | exact State.put_does _ CLK_STAT.XTAL_GOOD _ (by with_unfolding_all exact Field.has_one CLK_STAT) | exact State.putBit_does _ CLK_STAT.ISL_OK _ _ (by with_unfolding_all exact Field.has_one CLK_STAT) | apply State.canRestrict_does)
    | refine State.each_does (fun s b => ?_) ?_
    | refine Does.ite ?_ ?_
    | refine Does.iteSnd ?_ ?_
    | (apply Does.step; on_goal 1 => first | apply Does.clk)
    | dsimp only

end Sys2Proof.Machine
end

