-- ==== Sys2Proof/Laws/Pos.lean ====
section
/-!
SUPPORT. What each operation of Sys2Proof/Machine/Pos.lean can do at most.
-/

-- One proof after the other: as one text the package would otherwise ask for more threads than there is memory for.
set_option Elab.async false
namespace Sys2Proof.Machine

theorem State.modSi_does (s k f) : Does [.pos] s (State.modSi s k f) := by
  unfold State.modSi
  repeat' with_reducible first
    | assumption
    | decide
    | exact Does.refl _ _
    | (intro x; first | (have _h : State := x; clear _h; clear_value (hx : x = _); refine Does.bind (l := [.pos]) (s := s) hx ?_ (fun _ => ?_)) | (have _h : Pos := x; clear _h; clear_value (hx : x = _); subst hx) | clear_value x)
    | lift_lets
    | (apply Does.step; on_goal 1 => first | (apply Does.pos <;> first | rfl | exact id | simp))
    | dsimp only

theorem State.modQd_does (s k f) : Does [.pos] s (State.modQd s k f) := by
  unfold State.modQd
  repeat' with_reducible first
    | assumption
    | decide
    | exact Does.refl _ _
    | (intro x; first | (have _h : State := x; clear _h; clear_value (hx : x = _); refine Does.bind (l := [.pos]) (s := s) hx ?_ (fun _ => ?_)) | (have _h : Pos := x; clear _h; clear_value (hx : x = _); subst hx) | clear_value x)
    | lift_lets
    | (apply Does.step; on_goal 1 => first | (apply Does.pos <;> first | rfl | exact id | simp))
    | dsimp only

theorem State.modSn_does (s k f) : Does [.pos] s (State.modSn s k f) := by
  unfold State.modSn
  repeat' with_reducible first
    | assumption
    | decide
    | exact Does.refl _ _
    | (intro x; first | (have _h : State := x; clear _h; clear_value (hx : x = _); refine Does.bind (l := [.pos]) (s := s) hx ?_ (fun _ => ?_)) | (have _h : Pos := x; clear _h; clear_value (hx : x = _); subst hx) | clear_value x)
    | lift_lets
    | (apply Does.step; on_goal 1 => first | (apply Does.pos <;> first | rfl | exact id | simp))
    | dsimp only

theorem State.modEe_does (s e f) : Does [.pos] s (State.modEe s e f) := by
  unfold State.modEe
  repeat' with_reducible first
    | assumption
    | decide
    | exact Does.refl _ _
    | (intro x; first | (have _h : State := x; clear _h; clear_value (hx : x = _); refine Does.bind (l := [.pos]) (s := s) hx ?_ (fun _ => ?_)) | (have _h : Pos := x; clear _h; clear_value (hx : x = _); subst hx) | clear_value x)
    | lift_lets
    | (apply Does.step; on_goal 1 => first | (apply Does.pos <;> first | rfl | exact id | simp))
    | dsimp only

theorem State.modMot_does (s n f) : Does [.mots] s (State.modMot s n f) := by
  unfold State.modMot
  repeat' with_reducible first
    | assumption
    | decide
    | exact Does.refl _ _
    | (intro x; first | (have _h : State := x; clear _h; clear_value (hx : x = _); refine Does.bind (l := [.mots]) (s := s) hx ?_ (fun _ => ?_)) | clear_value x)
    | lift_lets
    | (apply Does.step; on_goal 1 => first | (apply Does.mots <;> first | rfl | exact id | simp))
    | dsimp only

theorem State.timeWord_does (s h t) : Does [.drawn] s (State.timeWord s h t).2 := by
  unfold State.timeWord
  repeat' with_reducible first
    | assumption
    | decide
    | exact Does.refl _ _
    | (intro x; first | (have _h : State := x; clear _h; clear_value (hx : x = _); refine Does.bind (l := [.drawn]) (s := s) hx ?_ (fun _ => ?_)) | (have _h : _ × State := x; clear _h; clear_value (hx : x = _); refine Does.bindSnd (l := [.drawn]) (s := s) hx ?_ (fun _ => ?_)) | clear_value x)
    | lift_lets
    | (apply Does.step; on_goal 1 => first | apply State.draw_does)
    | refine Does.ite ?_ ?_
    | refine Does.iteSnd ?_ ?_
    | dsimp only

theorem State.srcTime_does (s src) : Does [.drawn] s (State.srcTime s src).2 := by
  unfold State.srcTime
  repeat' with_reducible first
    | assumption
    | decide
    | exact Does.refl _ _
    | (apply Does.step; on_goal 1 => first | apply State.timeWord_does)
    | refine Does.ite ?_ ?_
    | refine Does.iteSnd ?_ ?_
    | dsimp only

theorem State.capture_does (s j stamp) : Does [.row POS_LT_POS, .row POS_LT_TIME, .row POS_LT_STAT, .one MGT_LOG_STAT, .faults, .reel, .mgt, .can, .pos, .drawn] s (State.capture s j stamp) := by
  unfold State.capture
  repeat' with_reducible first
    | assumption
    | decide
    | exact Does.refl _ _
    | (intro x; first | (have _h : State := x; clear _h; clear_value (hx : x = _); refine Does.bind (l := [.row POS_LT_POS, .row POS_LT_TIME, .row POS_LT_STAT, .one MGT_LOG_STAT, .faults, .reel, .mgt, .can, .pos, .drawn]) (s := s) hx ?_ (fun _ => ?_)) | (have _h : _ × State := x; clear _h; clear_value (hx : x = _); refine Does.bindSnd (l := [.row POS_LT_POS, .row POS_LT_TIME, .row POS_LT_STAT, .one MGT_LOG_STAT, .faults, .reel, .mgt, .can, .pos, .drawn]) (s := s) hx ?_ (fun _ => ?_)) | (have _h : Pos := x; clear _h; clear_value (hx : x = _); subst hx) | clear_value x)
    | lift_lets
    | (apply Does.step; on_goal 1 => first | exact State.bump_does _ (POS_LT_STAT.OVR _) _ (by with_unfolding_all exact Field.has_row POS_LT_STAT (fun _ => rfl) _) | exact State.setWord_does _ (POS_LT_TIME _) _ (by with_unfolding_all exact Field.has_row POS_LT_TIME (fun _ => rfl) _) | exact State.setWord_does _ (POS_LT_POS _) _ (by with_unfolding_all exact Field.has_row POS_LT_POS (fun _ => rfl) _) | exact State.put_does _ (POS_LT_STAT.STALE _) _ (by with_unfolding_all exact Field.has_row POS_LT_STAT (fun _ => rfl) _) | exact State.put_does _ (POS_LT_STAT.FULL _) _ (by with_unfolding_all exact Field.has_row POS_LT_STAT (fun _ => rfl) _) | exact State.put_does _ (POS_LT_STAT.DIR _) _ (by with_unfolding_all exact Field.has_row POS_LT_STAT (fun _ => rfl) _) | exact State.put_does _ (POS_LT_STAT.PERIOD _) _ (by with_unfolding_all exact Field.has_row POS_LT_STAT (fun _ => rfl) _) | apply State.raise_does | apply State.srcTime_does)
    | refine Does.ite ?_ ?_
    | refine Does.iteSnd ?_ ?_
    | (apply Does.step; on_goal 1 => first | (apply Does.pos <;> first | rfl | exact id | simp))
    | dsimp only

theorem State.emptyLatch_does (s j) : Does [.row POS_LT_STAT] s (State.emptyLatch s j) := by
  unfold State.emptyLatch
  repeat' with_reducible first
    | assumption
    | decide
    | exact Does.refl _ _
    | (apply Does.step; on_goal 1 => first | exact State.put_does _ (POS_LT_STAT.OVR _) _ (by with_unfolding_all exact Field.has_row POS_LT_STAT (fun _ => rfl) _) | exact State.put_does _ (POS_LT_STAT.FULL _) _ (by with_unfolding_all exact Field.has_row POS_LT_STAT (fun _ => rfl) _))
    | dsimp only

theorem State.trigger_does (s stamp p) : Does [.row POS_LT_POS, .row POS_LT_TIME, .row POS_LT_STAT, .one MGT_LOG_STAT, .faults, .reel, .mgt, .can, .pos, .drawn] s (State.trigger s stamp p) := by
  unfold State.trigger
  repeat' with_reducible first
    | assumption
    | decide
    | exact Does.refl _ _
    | (apply Does.step; on_goal 1 => first | apply State.capture_does)
    | refine State.each_does (fun s b => ?_) ?_
    | dsimp only

theorem State.fire_does (s m stamp) : Does [.row POS_LT_POS, .row POS_LT_TIME, .row POS_LT_STAT, .row POS_CP_VAL, .row POS_CP_STAT, .one MGT_LOG_STAT, .faults, .reel, .mgt, .can, .pos, .drawn] s (State.fire s m stamp) := by
  unfold State.fire
  repeat' with_reducible first
    | assumption
    | decide
    | exact Does.refl _ _
    | (intro x; first | (have _h : State := x; clear _h; clear_value (hx : x = _); refine Does.bind (l := [.row POS_LT_POS, .row POS_LT_TIME, .row POS_LT_STAT, .row POS_CP_VAL, .row POS_CP_STAT, .one MGT_LOG_STAT, .faults, .reel, .mgt, .can, .pos, .drawn]) (s := s) hx ?_ (fun _ => ?_)) | (have _h : Pos := x; clear _h; clear_value (hx : x = _); subst hx) | clear_value x)
    | lift_lets
    | (apply Does.step; on_goal 1 => first | exact State.put_does _ (POS_CP_STAT.FIRED _) _ (by with_unfolding_all exact Field.has_row POS_CP_STAT (fun _ => rfl) _) | exact State.incr_does _ (POS_CP_STAT.FIRES _) (by with_unfolding_all exact Field.has_row POS_CP_STAT (fun _ => rfl) _) | exact State.setWord_does _ (POS_CP_VAL _) _ (by with_unfolding_all exact Field.has_row POS_CP_VAL (fun _ => rfl) _) | apply State.trigger_does)
    | refine Does.ite ?_ ?_
    | refine Does.iteSnd ?_ ?_
    | (apply Does.step; on_goal 1 => first | (apply Does.pos <;> first | rfl | exact id | simp))
    | dsimp only

theorem State.compareChange_does (s src before after stamp) : Does [.row POS_LT_POS, .row POS_LT_TIME, .row POS_LT_STAT, .row POS_CP_VAL, .row POS_CP_STAT, .one MGT_LOG_STAT, .faults, .reel, .mgt, .can, .pos, .drawn] s (State.compareChange s src before after stamp) := by
  unfold State.compareChange
  repeat' with_reducible first
    | assumption
    | decide
    | exact Does.refl _ _
    | (apply Does.step; on_goal 1 => first | apply State.fire_does)
    | refine State.each_does (fun s b => ?_) ?_
    | refine Does.ite ?_ ?_
    | refine Does.iteSnd ?_ ?_
    | dsimp only

theorem State.writeVal_does (s m v) : Does [.row POS_CP_VAL, .row POS_CP_STAT, .one MGT_LOG_STAT, .faults, .reel, .mgt, .can] s (State.writeVal s m v) := by
  unfold State.writeVal
  repeat' with_reducible first
    | assumption
    | decide
    | exact Does.refl _ _
    | (intro x; first | (have _h : State := x; clear _h; clear_value (hx : x = _); refine Does.bind (l := [.row POS_CP_VAL, .row POS_CP_STAT, .one MGT_LOG_STAT, .faults, .reel, .mgt, .can]) (s := s) hx ?_ (fun _ => ?_)) | clear_value x)
    | lift_lets
    | (apply Does.step; on_goal 1 => first | exact State.setWord_does _ (POS_CP_VAL _) _ (by with_unfolding_all exact Field.has_row POS_CP_VAL (fun _ => rfl) _) | exact State.put_does _ (POS_CP_STAT.BEHIND _) _ (by with_unfolding_all exact Field.has_row POS_CP_STAT (fun _ => rfl) _) | apply State.raise_does)
    | refine State.when_does (fun s => ?_) ?_
    | refine Does.ite ?_ ?_
    | refine Does.iteSnd ?_ ?_
    | split
    | dsimp only

theorem execCompareValWrite_does (m v s) : ∀ t, execCompareValWrite m v s = .next t → Does [.row POS_CP_VAL, .row POS_CP_STAT, .one MGT_LOG_STAT, .faults, .reel, .intg, .mgt, .can, .spi] s t := by
  unfold execCompareValWrite
  refine hostAccess_does ?_
  repeat' with_reducible first
    | assumption
    | decide
    | exact Does.refl _ _
    | (apply Does.step; on_goal 1 => first | apply State.writeVal_does)
    | dsimp only

theorem execCmpPulseEnd_does (m s) : ∀ t, execCmpPulseEnd m s = .next t → Does [.intg, .pos] s t := by
  unfold execCmpPulseEnd
  refine whenPowered_does ?_
  repeat' with_reducible first
    | assumption
    | decide
    | exact Does.refl _ _
    | (intro x; first | (have _h : State := x; clear _h; clear_value (hx : x = _); refine Does.bind (l := [.intg, .pos]) (s := s) hx ?_ (fun _ => ?_)) | (have _h : Pos := x; clear _h; clear_value (hx : x = _); subst hx) | clear_value x)
    | lift_lets
    | refine State.when_does (fun s => ?_) ?_
    | (apply Does.step; on_goal 1 => first | (apply Does.pos <;> first | rfl | exact id | simp))
    | dsimp only

theorem State.eeLook_does (s e) : Does [.row POS_EE_COUNT, .row POS_EE_STAT, .one MGT_LOG_STAT, .faults, .reel, .mgt, .can, .pos] s (State.eeLook s e) := by
  unfold State.eeLook
  repeat' with_reducible first
    | assumption
    | decide
    | exact Does.refl _ _
    | (intro x; first | (have _h : State := x; clear _h; clear_value (hx : x = _); refine Does.bind (l := [.row POS_EE_COUNT, .row POS_EE_STAT, .one MGT_LOG_STAT, .faults, .reel, .mgt, .can, .pos]) (s := s) hx ?_ (fun _ => ?_)) | clear_value x)
    | lift_lets
    | (apply Does.step; on_goal 1 => first | exact State.put_does _ (POS_EE_STAT.LOST _) _ (by with_unfolding_all exact Field.has_row POS_EE_STAT (fun _ => rfl) _) | exact State.put_does _ (POS_EE_STAT.BACKLOG _) _ (by with_unfolding_all exact Field.has_row POS_EE_STAT (fun _ => rfl) _) | exact State.setWord_does _ (POS_EE_COUNT _) _ (by with_unfolding_all exact Field.has_row POS_EE_COUNT (fun _ => rfl) _) | apply State.raise_does | apply State.modEe_does)
    | refine Does.ite ?_ ?_
    | refine Does.iteSnd ?_ ?_
    | dsimp only

theorem State.eeMove_does (s e d) : Does [.row POS_EE_COUNT, .row POS_EE_STAT, .one MGT_LOG_STAT, .faults, .reel, .mgt, .can, .pos] s (State.eeMove s e d) := by
  unfold State.eeMove
  repeat' with_reducible first
    | assumption
    | decide
    | exact Does.refl _ _
    | (intro x; first | (have _h : State := x; clear _h; clear_value (hx : x = _); refine Does.bind (l := [.row POS_EE_COUNT, .row POS_EE_STAT, .one MGT_LOG_STAT, .faults, .reel, .mgt, .can, .pos]) (s := s) hx ?_ (fun _ => ?_)) | clear_value x)
    | lift_lets
    | (apply Does.step; on_goal 1 => first | apply State.eeLook_does | apply State.modEe_does)
    | dsimp only

theorem State.eeFollow_does (s k d) : Does [.row POS_EE_COUNT, .row POS_EE_STAT, .one MGT_LOG_STAT, .faults, .reel, .mgt, .can, .pos] s (State.eeFollow s k d) := by
  unfold State.eeFollow
  repeat' with_reducible first
    | assumption
    | decide
    | exact Does.refl _ _
    | (apply Does.step; on_goal 1 => first | apply State.eeMove_does)
    | refine State.each_does (fun s b => ?_) ?_
    | refine Does.ite ?_ ?_
    | refine Does.iteSnd ?_ ?_
    | dsimp only

theorem execEmuThetaSample_does (e s) : ∀ t, execEmuThetaSample e s = .next t → Does [.row POS_EE_COUNT, .row POS_EE_STAT, .one MGT_LOG_STAT, .faults, .reel, .intg, .mgt, .can, .pos] s t := by
  unfold execEmuThetaSample
  refine whenPowered_does ?_
  repeat' with_reducible first
    | assumption
    | decide
    | exact Does.refl _ _
    | (intro x; first | (have _h : State := x; clear _h; clear_value (hx : x = _); refine Does.bind (l := [.row POS_EE_COUNT, .row POS_EE_STAT, .one MGT_LOG_STAT, .faults, .reel, .intg, .mgt, .can, .pos]) (s := s) hx ?_ (fun _ => ?_)) | clear_value x)
    | lift_lets
    | (apply Does.step; on_goal 1 => first | apply State.eeMove_does | apply State.modEe_does)
    | refine State.when_does (fun s => ?_) ?_
    | refine Does.ite ?_ ?_
    | refine Does.iteSnd ?_ ?_
    | split
    | dsimp only

theorem execEmuStep_does (e s) : ∀ t, execEmuStep e s = .next t → Does [.row POS_EE_COUNT, .row POS_EE_STAT, .one MGT_LOG_STAT, .faults, .reel, .intg, .mgt, .can, .pos] s t := by
  unfold execEmuStep
  refine whenPowered_does ?_
  repeat' with_reducible first
    | assumption
    | decide
    | exact Does.refl _ _
    | (intro x; first | (have _h : State := x; clear _h; clear_value (hx : x = _); refine Does.bind (l := [.row POS_EE_COUNT, .row POS_EE_STAT, .one MGT_LOG_STAT, .faults, .reel, .intg, .mgt, .can, .pos]) (s := s) hx ?_ (fun _ => ?_)) | clear_value x)
    | lift_lets
    | (apply Does.step; on_goal 1 => first | apply State.eeLook_does | apply State.modEe_does)
    | refine State.when_does (fun s => ?_) ?_
    | refine Does.ite ?_ ?_
    | refine Does.iteSnd ?_ ?_
    | split
    | dsimp only

theorem execEmuClear_does (e s) : ∀ t, execEmuClear e s = .next t → Does [.intg, .spi, .pos] s t := by
  unfold execEmuClear
  refine hostAccess_does ?_
  repeat' with_reducible first
    | assumption
    | decide
    | exact Does.refl _ _
    | (intro x; first | (have _h : State := x; clear _h; clear_value (hx : x = _); refine Does.bind (l := [.intg, .spi, .pos]) (s := s) hx ?_ (fun _ => ?_)) | clear_value x)
    | lift_lets
    | (apply Does.step; on_goal 1 => first | apply State.modEe_does)
    | dsimp only

theorem State.qdCount_does (s k neg lag) : Does [.row POS_QD_STAT, .row POS_QD_ERR, .row POS_LT_POS, .row POS_LT_TIME, .row POS_LT_STAT, .row POS_CP_VAL, .row POS_CP_STAT, .row POS_EE_COUNT, .row POS_EE_STAT, .one MGT_LOG_STAT, .faults, .reel, .mgt, .can, .pos, .drawn] s (State.qdCount s k neg lag) := by
  unfold State.qdCount
  repeat' with_reducible first
    | assumption
    | decide
    | exact Does.refl _ _
    | (intro x; first | (have _h : State := x; clear _h; clear_value (hx : x = _); refine Does.bind (l := [.row POS_QD_STAT, .row POS_QD_ERR, .row POS_LT_POS, .row POS_LT_TIME, .row POS_LT_STAT, .row POS_CP_VAL, .row POS_CP_STAT, .row POS_EE_COUNT, .row POS_EE_STAT, .one MGT_LOG_STAT, .faults, .reel, .mgt, .can, .pos, .drawn]) (s := s) hx ?_ (fun _ => ?_)) | clear_value x)
    | lift_lets
    | (apply Does.step; on_goal 1 => first | exact State.put_does _ (POS_QD_STAT.DIR _) _ (by with_unfolding_all exact Field.has_row POS_QD_STAT (fun _ => rfl) _) | exact State.bump_does _ (POS_QD_ERR.REVERSALS _) _ (by with_unfolding_all exact Field.has_row POS_QD_ERR (fun _ => rfl) _) | apply State.modQd_does | apply State.eeFollow_does | apply State.compareChange_does)
    | refine State.when_does (fun s => ?_) ?_
    | refine Does.ite ?_ ?_
    | refine Does.iteSnd ?_ ?_
    | dsimp only

theorem State.qdIllegal_does (s k) : Does [.row POS_QD_STAT, .row POS_QD_ERR, .one MGT_LOG_STAT, .faults, .reel, .mgt, .can, .pos] s (State.qdIllegal s k) := by
  unfold State.qdIllegal
  repeat' with_reducible first
    | assumption
    | decide
    | exact Does.refl _ _
    | (intro x; first | (have _h : State := x; clear _h; clear_value (hx : x = _); refine Does.bind (l := [.row POS_QD_STAT, .row POS_QD_ERR, .one MGT_LOG_STAT, .faults, .reel, .mgt, .can, .pos]) (s := s) hx ?_ (fun _ => ?_)) | clear_value x)
    | lift_lets
    | (apply Does.step; on_goal 1 => first | exact State.bump_does _ (POS_QD_ERR.ILLEGAL _) _ (by with_unfolding_all exact Field.has_row POS_QD_ERR (fun _ => rfl) _) | exact State.put_does _ (POS_QD_STAT.ILLEGAL_SEEN _) _ (by with_unfolding_all exact Field.has_row POS_QD_STAT (fun _ => rfl) _) | apply State.raise_does | apply State.modQd_does)
    | refine Does.ite ?_ ?_
    | refine Does.iteSnd ?_ ?_
    | dsimp only

theorem State.markFeedback_does (s src ch) : Does [.mots] s (State.markFeedback s src ch) := by
  unfold State.markFeedback
  repeat' with_reducible first
    | assumption
    | decide
    | exact Does.refl _ _
    | (intro x; first | (have _h : State := x; clear _h; clear_value (hx : x = _); refine Does.bind (l := [.mots]) (s := s) hx ?_ (fun _ => ?_)) | clear_value x)
    | lift_lets
    | (apply Does.step; on_goal 1 => first | apply State.modMot_does)
    | refine State.each_does (fun s b => ?_) ?_
    | refine Does.ite ?_ ?_
    | refine Does.iteSnd ?_ ?_
    | dsimp only

theorem State.qdSnap_does (s k dev lag) : Does [.row POS_QD_STAT, .row POS_LT_POS, .row POS_LT_TIME, .row POS_LT_STAT, .row POS_CP_VAL, .row POS_CP_STAT, .row POS_EE_COUNT, .row POS_EE_STAT, .one MGT_LOG_STAT, .faults, .reel, .mgt, .can, .pos, .drawn] s (State.qdSnap s k dev lag) := by
  unfold State.qdSnap
  repeat' with_reducible first
    | assumption
    | decide
    | exact Does.refl _ _
    | (intro x; first | (have _h : State := x; clear _h; clear_value (hx : x = _); refine Does.bind (l := [.row POS_QD_STAT, .row POS_LT_POS, .row POS_LT_TIME, .row POS_LT_STAT, .row POS_CP_VAL, .row POS_CP_STAT, .row POS_EE_COUNT, .row POS_EE_STAT, .one MGT_LOG_STAT, .faults, .reel, .mgt, .can, .pos, .drawn]) (s := s) hx ?_ (fun _ => ?_)) | clear_value x)
    | lift_lets
    | (apply Does.step; on_goal 1 => first | exact State.put_does _ (POS_QD_STAT.SNAPPED _) _ (by with_unfolding_all exact Field.has_row POS_QD_STAT (fun _ => rfl) _) | apply State.modQd_does | apply State.eeFollow_does | apply State.compareChange_does)
    | refine Does.ite ?_ ?_
    | refine Does.iteSnd ?_ ?_
    | dsimp only

theorem State.qdJudge_does (s k dev lag) : Does [.row POS_QD_IDXDEV, .row POS_QD_STAT, .row POS_LT_POS, .row POS_LT_TIME, .row POS_LT_STAT, .row POS_CP_VAL, .row POS_CP_STAT, .row POS_EE_COUNT, .row POS_EE_STAT, .one MGT_LOG_STAT, .faults, .reel, .mgt, .can, .pos, .mots, .drawn] s (State.qdJudge s k dev lag) := by
  unfold State.qdJudge
  repeat' with_reducible first
    | assumption
    | decide
    | exact Does.refl _ _
    | (intro x; first | (have _h : State := x; clear _h; clear_value (hx : x = _); refine Does.bind (l := [.row POS_QD_IDXDEV, .row POS_QD_STAT, .row POS_LT_POS, .row POS_LT_TIME, .row POS_LT_STAT, .row POS_CP_VAL, .row POS_CP_STAT, .row POS_EE_COUNT, .row POS_EE_STAT, .one MGT_LOG_STAT, .faults, .reel, .mgt, .can, .pos, .mots, .drawn]) (s := s) hx ?_ (fun _ => ?_)) | clear_value x)
    | lift_lets
    | (apply Does.step; on_goal 1 => first | exact State.setWord_does _ (POS_QD_IDXDEV _) _ (by with_unfolding_all exact Field.has_row POS_QD_IDXDEV (fun _ => rfl) _) | exact State.put_does _ (POS_QD_STAT.INDEX_ERR _) _ (by with_unfolding_all exact Field.has_row POS_QD_STAT (fun _ => rfl) _) | exact State.put_does _ (POS_QD_STAT.IDX_FAULT _) _ (by with_unfolding_all exact Field.has_row POS_QD_STAT (fun _ => rfl) _) | apply State.raise_does | apply State.markFeedback_does | apply State.qdSnap_does)
    | refine Does.ite ?_ ?_
    | refine Does.iteSnd ?_ ?_
    | dsimp only

theorem State.qdIndexEvent_does (s k lag) : Does [.row POS_QD_IDXDEV, .row POS_QD_STAT, .row POS_LT_POS, .row POS_LT_TIME, .row POS_LT_STAT, .row POS_CP_VAL, .row POS_CP_STAT, .row POS_EE_COUNT, .row POS_EE_STAT, .one MGT_LOG_STAT, .faults, .reel, .mgt, .can, .pos, .mots, .drawn] s (State.qdIndexEvent s k lag) := by
  unfold State.qdIndexEvent
  repeat' with_reducible first
    | assumption
    | decide
    | exact Does.refl _ _
    | (intro x; first | (have _h : State := x; clear _h; clear_value (hx : x = _); refine Does.bind (l := [.row POS_QD_IDXDEV, .row POS_QD_STAT, .row POS_LT_POS, .row POS_LT_TIME, .row POS_LT_STAT, .row POS_CP_VAL, .row POS_CP_STAT, .row POS_EE_COUNT, .row POS_EE_STAT, .one MGT_LOG_STAT, .faults, .reel, .mgt, .can, .pos, .mots, .drawn]) (s := s) hx ?_ (fun _ => ?_)) | clear_value x)
    | lift_lets
    | (apply Does.step; on_goal 1 => first | exact State.incr_does _ (POS_QD_STAT.INDEX _) (by with_unfolding_all exact Field.has_row POS_QD_STAT (fun _ => rfl) _) | exact State.put_does _ (POS_QD_STAT.REFD _) _ (by with_unfolding_all exact Field.has_row POS_QD_STAT (fun _ => rfl) _) | apply State.trigger_does | apply State.qdSnap_does | apply State.qdJudge_does)
    | refine Does.ite ?_ ?_
    | refine Does.iteSnd ?_ ?_
    | dsimp only

theorem execQdEdge_does (k a b i lag s) : ∀ t, execQdEdge k a b i lag s = .next t → Does Parts.qdEdge s t := by
  unfold execQdEdge
  refine whenPowered_does ?_
  repeat' with_reducible first
    | assumption
    | decide
    | exact Does.refl _ _
    | (intro x; first | (have _h : State := x; clear _h; clear_value (hx : x = _); refine Does.bind (l := Parts.qdEdge) (s := s) hx ?_ (fun _ => ?_)) | clear_value x)
    | lift_lets
    | (apply Does.step; on_goal 1 => first | apply State.modQd_does | apply State.qdIllegal_does | apply State.qdCount_does | apply State.qdIndexEvent_does)
    | refine State.when_does (fun s => ?_) ?_
    | refine Does.ite ?_ ?_
    | refine Does.iteSnd ?_ ?_
    | dsimp only

theorem execQdIndex_does (k i lag s) : ∀ t, execQdIndex k i lag s = .next t → Does [.row POS_QD_IDXDEV, .row POS_QD_STAT, .row POS_LT_POS, .row POS_LT_TIME, .row POS_LT_STAT, .row POS_CP_VAL, .row POS_CP_STAT, .row POS_EE_COUNT, .row POS_EE_STAT, .one MGT_LOG_STAT, .faults, .reel, .intg, .mgt, .can, .pos, .mots, .drawn] s t := by
  unfold execQdIndex
  refine whenPowered_does ?_
  repeat' with_reducible first
    | assumption
    | decide
    | exact Does.refl _ _
    | (intro x; first | (have _h : State := x; clear _h; clear_value (hx : x = _); refine Does.bind (l := [.row POS_QD_IDXDEV, .row POS_QD_STAT, .row POS_LT_POS, .row POS_LT_TIME, .row POS_LT_STAT, .row POS_CP_VAL, .row POS_CP_STAT, .row POS_EE_COUNT, .row POS_EE_STAT, .one MGT_LOG_STAT, .faults, .reel, .intg, .mgt, .can, .pos, .mots, .drawn]) (s := s) hx ?_ (fun _ => ?_)) | clear_value x)
    | lift_lets
    | (apply Does.step; on_goal 1 => first | apply State.modQd_does | apply State.qdIndexEvent_does)
    | refine State.when_does (fun s => ?_) ?_
    | refine Does.ite ?_ ?_
    | refine Does.iteSnd ?_ ?_
    | dsimp only

theorem State.writePreset_does (s k v) : Does [.spi, .pos] s (State.writePreset s k v) := by
  unfold State.writePreset
  repeat' with_reducible first
    | assumption
    | decide
    | exact Does.refl _ _
    | (intro x; first | (have _h : State := x; clear _h; clear_value (hx : x = _); refine Does.bind (l := [.spi, .pos]) (s := s) hx ?_ (fun _ => ?_)) | clear_value x)
    | lift_lets
    | (apply Does.step; on_goal 1 => first | apply State.refuse_does | apply State.modQd_does)
    | refine Does.ite ?_ ?_
    | refine Does.iteSnd ?_ ?_
    | dsimp only

theorem execQdPreset_does (k v s) : ∀ t, execQdPreset k v s = .next t → Does [.intg, .spi, .pos] s t := by
  unfold execQdPreset
  refine hostAccess_does ?_
  repeat' with_reducible first
    | assumption
    | decide
    | exact Does.refl _ _
    | (apply Does.step; on_goal 1 => first | apply State.writePreset_does)
    | dsimp only

theorem State.siCount_does (s k neg lag) : Does [.row CAM_SI_ERR, .row POS_LT_POS, .row POS_LT_TIME, .row POS_LT_STAT, .row POS_CP_VAL, .row POS_CP_STAT, .one MGT_LOG_STAT, .faults, .reel, .mgt, .can, .pos, .drawn] s (State.siCount s k neg lag) := by
  unfold State.siCount
  repeat' with_reducible first
    | assumption
    | decide
    | exact Does.refl _ _
    | (intro x; first | (have _h : State := x; clear _h; clear_value (hx : x = _); refine Does.bind (l := [.row CAM_SI_ERR, .row POS_LT_POS, .row POS_LT_TIME, .row POS_LT_STAT, .row POS_CP_VAL, .row POS_CP_STAT, .one MGT_LOG_STAT, .faults, .reel, .mgt, .can, .pos, .drawn]) (s := s) hx ?_ (fun _ => ?_)) | clear_value x)
    | lift_lets
    | (apply Does.step; on_goal 1 => first | exact State.bump_does _ (CAM_SI_ERR.REVERSALS _) _ (by with_unfolding_all exact Field.has_row CAM_SI_ERR (fun _ => rfl) _) | apply State.modSi_does | apply State.compareChange_does)
    | refine State.when_does (fun s => ?_) ?_
    | refine Does.ite ?_ ?_
    | refine Does.iteSnd ?_ ?_
    | dsimp only

theorem State.siLate_does (s k) : Does [.row CAM_SI_ERR, .one MGT_LOG_STAT, .faults, .reel, .mgt, .can, .pos] s (State.siLate s k) := by
  unfold State.siLate
  repeat' with_reducible first
    | assumption
    | decide
    | exact Does.refl _ _
    | (intro x; first | (have _h : State := x; clear _h; clear_value (hx : x = _); refine Does.bind (l := [.row CAM_SI_ERR, .one MGT_LOG_STAT, .faults, .reel, .mgt, .can, .pos]) (s := s) hx ?_ (fun _ => ?_)) | clear_value x)
    | lift_lets
    | (apply Does.step; on_goal 1 => first | exact State.bump_does _ (CAM_SI_ERR.TIMING _) _ (by with_unfolding_all exact Field.has_row CAM_SI_ERR (fun _ => rfl) _) | apply State.raise_does | apply State.modSi_does)
    | refine Does.ite ?_ ?_
    | refine Does.iteSnd ?_ ?_
    | dsimp only

theorem execStepEdge_does (k rising dir late lag s) : ∀ t, execStepEdge k rising dir late lag s = .next t → Does [.row CAM_SI_ERR, .row POS_LT_POS, .row POS_LT_TIME, .row POS_LT_STAT, .row POS_CP_VAL, .row POS_CP_STAT, .one MGT_LOG_STAT, .faults, .reel, .intg, .mgt, .can, .pos, .drawn] s t := by
  unfold execStepEdge
  refine whenPowered_does ?_
  repeat' with_reducible first
    | assumption
    | decide
    | exact Does.refl _ _
    | (intro x; first | (have _h : State := x; clear _h; clear_value (hx : x = _); refine Does.bind (l := [.row CAM_SI_ERR, .row POS_LT_POS, .row POS_LT_TIME, .row POS_LT_STAT, .row POS_CP_VAL, .row POS_CP_STAT, .one MGT_LOG_STAT, .faults, .reel, .intg, .mgt, .can, .pos, .drawn]) (s := s) hx ?_ (fun _ => ?_)) | clear_value x)
    | lift_lets
    | (apply Does.step; on_goal 1 => first | apply State.siCount_does | apply State.siLate_does)
    | refine State.when_does (fun s => ?_) ?_
    | refine Does.ite ?_ ?_
    | refine Does.iteSnd ?_ ?_
    | dsimp only

theorem execStepClear_does (k s) : ∀ t, execStepClear k s = .next t → Does [.intg, .spi, .pos] s t := by
  unfold execStepClear
  refine hostAccess_does ?_
  repeat' with_reducible first
    | assumption
    | decide
    | exact Does.refl _ _
    | (intro x; first | (have _h : State := x; clear _h; clear_value (hx : x = _); refine Does.bind (l := [.intg, .spi, .pos]) (s := s) hx ?_ (fun _ => ?_)) | clear_value x)
    | lift_lets
    | (apply Does.step; on_goal 1 => first | apply State.modSi_does)
    | dsimp only

theorem State.snFormat_does (s k) : Does [.row POS_SN_STAT, .row POS_SN_ERR, .one MGT_LOG_STAT, .faults, .reel, .mgt, .can, .pos] s (State.snFormat s k) := by
  unfold State.snFormat
  repeat' with_reducible first
    | assumption
    | decide
    | exact Does.refl _ _
    | (intro x; first | (have _h : State := x; clear _h; clear_value (hx : x = _); refine Does.bind (l := [.row POS_SN_STAT, .row POS_SN_ERR, .one MGT_LOG_STAT, .faults, .reel, .mgt, .can, .pos]) (s := s) hx ?_ (fun _ => ?_)) | clear_value x)
    | lift_lets
    | (apply Does.step; on_goal 1 => first | exact State.bump_does _ (POS_SN_ERR.FORMAT _) _ (by with_unfolding_all exact Field.has_row POS_SN_ERR (fun _ => rfl) _) | exact State.put_does _ (POS_SN_STAT.FORMAT_SEEN _) _ (by with_unfolding_all exact Field.has_row POS_SN_STAT (fun _ => rfl) _) | apply State.raise_does | apply State.modSn_does)
    | refine Does.ite ?_ ?_
    | refine Does.iteSnd ?_ ?_
    | dsimp only

theorem State.snNibble_does (s cal iv) : Does [.drawn] s (State.snNibble s cal iv).2 := by
  unfold State.snNibble
  repeat' with_reducible first
    | assumption
    | decide
    | exact Does.refl _ _
    | (intro x; first | (have _h : State := x; clear _h; clear_value (hx : x = _); refine Does.bind (l := [.drawn]) (s := s) hx ?_ (fun _ => ?_)) | (have _h : _ × State := x; clear _h; clear_value (hx : x = _); refine Does.bindSnd (l := [.drawn]) (s := s) hx ?_ (fun _ => ?_)) | clear_value x)
    | lift_lets
    | (apply Does.step; on_goal 1 => first | apply State.draw_does)
    | refine Does.ite ?_ ?_
    | refine Does.iteSnd ?_ ?_
    | dsimp only

theorem State.snNibbles_does (s cal a1) : Does [.drawn] s (State.snNibbles s cal a1).2 := by
  induction a1 generalizing s with
  | nil => exact Does.refl _ _
  | cons w t ih =>
    unfold State.snNibbles
    repeat' with_reducible first
      | assumption
      | decide
      | exact Does.refl _ _
      | (apply Does.trans; on_goal 2 => apply ih)
      | (apply Does.step; on_goal 1 => first | apply State.snNibble_does)
      | split
      | refine Does.ofPair (by assumption) ?_
      | dsimp only

theorem State.snMessage_does (s k id data enh) : Does [.row POS_SN_SER] s (State.snMessage s k id data enh) := by
  unfold State.snMessage
  repeat' with_reducible first
    | assumption
    | decide
    | exact Does.refl _ _
    | (apply Does.step; on_goal 1 => first | exact State.setWord_does _ (POS_SN_SER _) _ (by with_unfolding_all exact Field.has_row POS_SN_SER (fun _ => rfl) _))
    | dsimp only

theorem State.snSerialBad_does (s k) : Does [.row POS_SN_STAT, .one MGT_LOG_STAT, .faults, .reel, .mgt, .can] s (State.snSerialBad s k) := by
  unfold State.snSerialBad
  repeat' with_reducible first
    | assumption
    | decide
    | exact Does.refl _ _
    | (apply Does.step; on_goal 1 => first | exact State.put_does _ (POS_SN_STAT.SER_CRC_SEEN _) _ (by with_unfolding_all exact Field.has_row POS_SN_STAT (fun _ => rfl) _) | apply State.raise_does)
    | dsimp only

theorem State.snShort_does (s k l) : Does [.row POS_SN_SER, .row POS_SN_STAT, .one MGT_LOG_STAT, .faults, .reel, .mgt, .can] s (State.snShort s k l) := by
  unfold State.snShort
  repeat' with_reducible first
    | assumption
    | decide
    | exact Does.refl _ _
    | (intro x; first | (have _h : State := x; clear _h; clear_value (hx : x = _); refine Does.bind (l := [.row POS_SN_SER, .row POS_SN_STAT, .one MGT_LOG_STAT, .faults, .reel, .mgt, .can]) (s := s) hx ?_ (fun _ => ?_)) | clear_value x)
    | lift_lets
    | (apply Does.step; on_goal 1 => first | apply State.snMessage_does | apply State.snSerialBad_does)
    | refine Does.ite ?_ ?_
    | refine Does.iteSnd ?_ ?_
    | dsimp only

theorem State.snEnhanced_does (s k l) : Does [.row POS_SN_SER, .row POS_SN_STAT, .one MGT_LOG_STAT, .faults, .reel, .mgt, .can] s (State.snEnhanced s k l) := by
  unfold State.snEnhanced
  repeat' with_reducible first
    | assumption
    | decide
    | exact Does.refl _ _
    | (intro x; first | (have _h : State := x; clear _h; clear_value (hx : x = _); refine Does.bind (l := [.row POS_SN_SER, .row POS_SN_STAT, .one MGT_LOG_STAT, .faults, .reel, .mgt, .can]) (s := s) hx ?_ (fun _ => ?_)) | clear_value x)
    | lift_lets
    | (apply Does.step; on_goal 1 => first | apply State.snSerialBad_does | apply State.snMessage_does)
    | refine Does.ite ?_ ?_
    | refine Does.iteSnd ?_ ?_
    | dsimp only

theorem State.snSerial_does (s k status) : Does [.row POS_SN_SER, .row POS_SN_STAT, .one MGT_LOG_STAT, .faults, .reel, .mgt, .can, .pos] s (State.snSerial s k status) := by
  unfold State.snSerial
  repeat' with_reducible first
    | assumption
    | decide
    | exact Does.refl _ _
    | (intro x; first | (have _h : State := x; clear _h; clear_value (hx : x = _); refine Does.bind (l := [.row POS_SN_SER, .row POS_SN_STAT, .one MGT_LOG_STAT, .faults, .reel, .mgt, .can, .pos]) (s := s) hx ?_ (fun _ => ?_)) | (have _h : State → _ → State := x; clear _h; clear_value (hx : x = _); refine Does.bindFun2 (l := [.row POS_SN_SER, .row POS_SN_STAT, .one MGT_LOG_STAT, .faults, .reel, .mgt, .can, .pos]) hx (fun s b => ?_) (fun hf => ?_)) | clear_value x)
    | lift_lets
    | (apply Does.trans; on_goal 2 => apply hf)
    | (apply Does.step; on_goal 1 => first | apply State.modSn_does | apply State.snShort_does | apply State.snEnhanced_does)
    | refine Does.ite ?_ ?_
    | refine Does.iteSnd ?_ ?_
    | dsimp only

theorem State.snUse_does (s k start v data status crc) : Does [.row POS_SN_DATA, .row POS_SN_COUNT, .row POS_SN_TIME, .row POS_SN_STAT, .row POS_LT_POS, .row POS_LT_TIME, .row POS_LT_STAT, .row POS_CP_VAL, .row POS_CP_STAT, .one MGT_LOG_STAT, .faults, .reel, .mgt, .can, .pos, .mots, .drawn] s (State.snUse s k start v data status crc) := by
  unfold State.snUse
  repeat' with_reducible first
    | assumption
    | decide
    | exact Does.refl _ _
    | (intro x; first | (have _h : State := x; clear _h; clear_value (hx : x = _); refine Does.bind (l := [.row POS_SN_DATA, .row POS_SN_COUNT, .row POS_SN_TIME, .row POS_SN_STAT, .row POS_LT_POS, .row POS_LT_TIME, .row POS_LT_STAT, .row POS_CP_VAL, .row POS_CP_STAT, .one MGT_LOG_STAT, .faults, .reel, .mgt, .can, .pos, .mots, .drawn]) (s := s) hx ?_ (fun _ => ?_)) | clear_value x)
    | lift_lets
    | (apply Does.step; on_goal 1 => first | exact State.setWord_does _ (POS_SN_DATA _) _ (by with_unfolding_all exact Field.has_row POS_SN_DATA (fun _ => rfl) _) | exact State.setWord_does _ (POS_SN_TIME _) _ (by with_unfolding_all exact Field.has_row POS_SN_TIME (fun _ => rfl) _) | exact State.setWord_does _ (POS_SN_COUNT _) _ (by with_unfolding_all exact Field.has_row POS_SN_COUNT (fun _ => rfl) _) | exact State.put_does _ (POS_SN_STAT.VALID _) _ (by with_unfolding_all exact Field.has_row POS_SN_STAT (fun _ => rfl) _) | exact State.put_does _ (POS_SN_STAT.JUMP_SEEN _) _ (by with_unfolding_all exact Field.has_row POS_SN_STAT (fun _ => rfl) _) | apply State.modSn_does | apply State.compareChange_does | apply State.markFeedback_does | apply State.raise_does)
    | refine State.when_does (fun s => ?_) ?_
    | refine Does.ite ?_ ?_
    | refine Does.iteSnd ?_ ?_
    | dsimp only

/-- What `State.snDecode` and its like may change. -/
def Parts.ofSnDecode : List Field :=
  [.row POS_SN_DATA, .row POS_SN_COUNT, .row POS_SN_TIME, .row POS_SN_SER, .row POS_SN_STAT, .row POS_SN_ERR,
    .row POS_LT_POS, .row POS_LT_TIME, .row POS_LT_STAT, .row POS_CP_VAL, .row POS_CP_STAT, .one MGT_LOG_STAT, .faults,
    .reel, .mgt, .can, .pos, .mots, .drawn]

theorem State.snDecode_does (s k start l use) : Does Parts.ofSnDecode s (State.snDecode s k start l use) := by
  unfold State.snDecode
  repeat' with_reducible first
    | assumption
    | decide
    | exact Does.refl _ _
    | (intro x; first | (have _h : State := x; clear _h; clear_value (hx : x = _); refine Does.bind (l := Parts.ofSnDecode) (s := s) hx ?_ (fun _ => ?_)) | clear_value x)
    | lift_lets
    | (apply Does.step; on_goal 1 => first | exact State.bump_does _ (POS_SN_ERR.CRC _) _ (by with_unfolding_all exact Field.has_row POS_SN_ERR (fun _ => rfl) _) | exact State.put_does _ (POS_SN_STAT.CRC_SEEN _) _ (by with_unfolding_all exact Field.has_row POS_SN_STAT (fun _ => rfl) _) | exact State.put_does _ (POS_SN_STAT.STATUS_SEEN _) _ (by with_unfolding_all exact Field.has_row POS_SN_STAT (fun _ => rfl) _) | apply State.raise_does | apply State.modSn_does | apply State.snSerial_does | apply State.snUse_does)
    | refine Does.ite ?_ ?_
    | refine Does.iteSnd ?_ ?_
    | dsimp only

theorem State.sentFrame_does (s k start cal ivs) : Does Parts.ofSnDecode s (State.sentFrame s k start cal ivs) := by
  unfold State.sentFrame
  repeat' with_reducible first
    | assumption
    | decide
    | exact Does.refl _ _
    | (intro x; first | (have _h : State := x; clear _h; clear_value (hx : x = _); refine Does.bind (l := Parts.ofSnDecode) (s := s) hx ?_ (fun _ => ?_)) | (have _h : _ × State := x; clear _h; clear_value (hx : x = _); refine Does.bindSnd (l := Parts.ofSnDecode) (s := s) hx ?_ (fun _ => ?_)) | clear_value x)
    | lift_lets
    | (apply Does.step; on_goal 1 => first | apply State.snFormat_does | apply State.snNibbles_does | apply State.snDecode_does | apply State.modSn_does)
    | refine Does.ite ?_ ?_
    | refine Does.iteSnd ?_ ?_
    | split
    | refine Does.ofPair (by assumption) ?_
    | dsimp only

theorem execSentFrame_does (k back cal ivs s) : ∀ t, execSentFrame k back cal ivs s = .next t → Does Parts.sentFrame s t := by
  unfold execSentFrame
  refine whenPowered_does ?_
  repeat' with_reducible first
    | assumption
    | decide
    | exact Does.refl _ _
    | (apply Does.step; on_goal 1 => first | apply State.sentFrame_does)
    | refine State.when_does (fun s => ?_) ?_
    | refine Does.ite ?_ ?_
    | refine Does.iteSnd ?_ ?_
    | dsimp only

theorem execSentTimeout_does (k s) : ∀ t, execSentTimeout k s = .next t → Does [.row POS_SN_STAT, .one MGT_LOG_STAT, .faults, .reel, .intg, .mgt, .can, .pos] s t := by
  unfold execSentTimeout
  refine whenPowered_does ?_
  repeat' with_reducible first
    | assumption
    | decide
    | exact Does.refl _ _
    | (intro x; first | (have _h : State := x; clear _h; clear_value (hx : x = _); refine Does.bind (l := [.row POS_SN_STAT, .one MGT_LOG_STAT, .faults, .reel, .intg, .mgt, .can, .pos]) (s := s) hx ?_ (fun _ => ?_)) | clear_value x)
    | lift_lets
    | (apply Does.step; on_goal 1 => first | exact State.put_does _ (POS_SN_STAT.TIMEOUT _) _ (by with_unfolding_all exact Field.has_row POS_SN_STAT (fun _ => rfl) _) | exact State.put_does _ (POS_SN_STAT.VALID _) _ (by with_unfolding_all exact Field.has_row POS_SN_STAT (fun _ => rfl) _) | apply State.modSn_does | apply State.raise_does)
    | refine State.when_does (fun s => ?_) ?_
    | refine Does.ite ?_ ?_
    | refine Does.iteSnd ?_ ?_
    | dsimp only

theorem State.putLimit_does (s n positive active) : Does [.one POS_LIM] s (State.putLimit s n positive active) := by
  unfold State.putLimit
  repeat' with_reducible first
    | assumption
    | decide
    | exact Does.refl _ _
    | (apply Does.step; on_goal 1 => first | exact State.putBit_does _ POS_LIM.POS_ACT _ _ (by with_unfolding_all exact Field.has_one POS_LIM) | exact State.putBit_does _ POS_LIM.NEG_ACT _ _ (by with_unfolding_all exact Field.has_one POS_LIM))
    | refine Does.ite ?_ ?_
    | refine Does.iteSnd ?_ ?_
    | dsimp only

theorem execLimitEdge_does (n positive level s) : ∀ t, execLimitEdge n positive level s = .next t → Does [.one POS_LIM, .one POS_LIM_SEEN, .intg, .mots] s t := by
  unfold execLimitEdge
  refine whenPowered_does ?_
  repeat' with_reducible first
    | assumption
    | decide
    | exact Does.refl _ _
    | (intro x; first | (have _h : State := x; clear _h; clear_value (hx : x = _); refine Does.bind (l := [.one POS_LIM, .one POS_LIM_SEEN, .intg, .mots]) (s := s) hx ?_ (fun _ => ?_)) | clear_value x)
    | lift_lets
    | (apply Does.step; on_goal 1 => first | exact State.putBit_does _ POS_LIM_SEEN.POS _ _ (by with_unfolding_all exact Field.has_one POS_LIM_SEEN) | exact State.putBit_does _ POS_LIM_SEEN.NEG _ _ (by with_unfolding_all exact Field.has_one POS_LIM_SEEN) | apply State.putLimit_does | apply State.modMot_does)
    | refine State.when_does (fun s => ?_) ?_
    | refine Does.ite ?_ ?_
    | refine Does.iteSnd ?_ ?_
    | dsimp only

theorem execCapEdge_does (c rising lag s) : ∀ t, execCapEdge c rising lag s = .next t → Does [.row POS_LT_POS, .row POS_LT_TIME, .row POS_LT_STAT, .one MGT_LOG_STAT, .faults, .reel, .intg, .mgt, .can, .pos, .drawn] s t := by
  unfold execCapEdge
  refine whenPowered_does ?_
  repeat' with_reducible first
    | assumption
    | decide
    | exact Does.refl _ _
    | (apply Does.step; on_goal 1 => first | apply State.trigger_does)
    | refine State.when_does (fun s => ?_) ?_
    | refine Does.ite ?_ ?_
    | refine Does.iteSnd ?_ ?_
    | split
    | dsimp only

theorem State.writeLtTrig_does (s m lag) : Does [.row POS_LT_POS, .row POS_LT_TIME, .row POS_LT_STAT, .one MGT_LOG_STAT, .faults, .reel, .mgt, .can, .pos, .drawn] s (State.writeLtTrig s m lag) := by
  unfold State.writeLtTrig
  repeat' with_reducible first
    | assumption
    | decide
    | exact Does.refl _ _
    | (apply Does.step; on_goal 1 => first | apply State.trigger_does)
    | dsimp only

theorem execLatchHostTrig_does (m lag s) : ∀ t, execLatchHostTrig m lag s = .next t → Does [.row POS_LT_POS, .row POS_LT_TIME, .row POS_LT_STAT, .one MGT_LOG_STAT, .faults, .reel, .intg, .mgt, .can, .spi, .pos, .drawn] s t := by
  unfold execLatchHostTrig
  refine hostAccess_does ?_
  repeat' with_reducible first
    | assumption
    | decide
    | exact Does.refl _ _
    | (intro x; first | (have _h : State := x; clear _h; clear_value (hx : x = _); refine Does.bind (l := [.row POS_LT_POS, .row POS_LT_TIME, .row POS_LT_STAT, .one MGT_LOG_STAT, .faults, .reel, .intg, .mgt, .can, .spi, .pos, .drawn]) (s := s) hx ?_ (fun _ => ?_)) | clear_value x)
    | lift_lets
    | (apply Does.step; on_goal 1 => first | apply State.writeLtTrig_does)
    | dsimp only

theorem State.readLatch_does (s p j) : Does [.row POS_LT_STAT, .latched] s (State.readLatch s p j) := by
  unfold State.readLatch
  repeat' with_reducible first
    | assumption
    | decide
    | exact Does.refl _ _
    | (intro x; first | (have _h : State := x; clear _h; clear_value (hx : x = _); refine Does.bind (l := [.row POS_LT_STAT, .latched]) (s := s) hx ?_ (fun _ => ?_)) | clear_value x)
    | lift_lets
    | (apply Does.step; on_goal 1 => first | apply State.emptyLatch_does)
    | (apply Does.step; on_goal 1 => first | apply Does.latched)
    | dsimp only

theorem execLatchRead_does (j s) : ∀ t, execLatchRead j s = .next t → Does [.row POS_LT_STAT, .latched, .intg, .spi] s t := by
  unfold execLatchRead
  refine hostAccess_does ?_
  repeat' with_reducible first
    | assumption
    | decide
    | exact Does.refl _ _
    | (apply Does.step; on_goal 1 => first | apply State.readLatch_does)
    | dsimp only

theorem execOutMismatch_does (p level s) : ∀ t, execOutMismatch p level s = .next t → Does [.one MGT_LOG_STAT, .faults, .reel, .intg, .mgt, .can, .pos] s t := by
  unfold execOutMismatch
  refine whenPowered_does ?_
  repeat' with_reducible first
    | assumption
    | decide
    | exact Does.refl _ _
    | (intro x; first | (have _h : State := x; clear _h; clear_value (hx : x = _); refine Does.bind (l := [.one MGT_LOG_STAT, .faults, .reel, .intg, .mgt, .can, .pos]) (s := s) hx ?_ (fun _ => ?_)) | (have _h : Pos := x; clear _h; clear_value (hx : x = _); subst hx) | clear_value x)
    | lift_lets
    | (apply Does.step; on_goal 1 => first | apply State.raise_does)
    | refine State.when_does (fun s => ?_) ?_
    | refine Does.ite ?_ ?_
    | refine Does.iteSnd ?_ ?_
    | split
    | (apply Does.step; on_goal 1 => first | (apply Does.pos <;> first | rfl | exact id | simp))
    | dsimp only

theorem State.posApplied_does (s a old) : Does [.one POS_LIM, .row POS_QD_STAT, .row POS_SN_COUNT, .row POS_SN_STAT, .row POS_EE_COUNT, .row POS_EE_STAT, .one MGT_LOG_STAT, .faults, .reel, .mgt, .can, .pos] s (State.posApplied s a old) := by
  unfold State.posApplied
  repeat' with_reducible first
    | assumption
    | decide
    | exact Does.refl _ _
    | (intro x; first | (have _h : State := x; clear _h; clear_value (hx : x = _); refine Does.bind (l := [.one POS_LIM, .row POS_QD_STAT, .row POS_SN_COUNT, .row POS_SN_STAT, .row POS_EE_COUNT, .row POS_EE_STAT, .one MGT_LOG_STAT, .faults, .reel, .mgt, .can, .pos]) (s := s) hx ?_ (fun _ => ?_)) | clear_value x)
    | lift_lets
    | (apply Does.step; on_goal 1 => first | exact State.put_does _ (POS_QD_STAT.INDEX _) _ (by with_unfolding_all exact Field.has_row POS_QD_STAT (fun _ => rfl) _) | exact State.put_does _ (POS_QD_STAT.REFD _) _ (by with_unfolding_all exact Field.has_row POS_QD_STAT (fun _ => rfl) _) | exact State.put_does _ (POS_SN_STAT.VALID _) _ (by with_unfolding_all exact Field.has_row POS_SN_STAT (fun _ => rfl) _) | exact State.setWord_does _ (POS_SN_COUNT _) _ (by with_unfolding_all exact Field.has_row POS_SN_COUNT (fun _ => rfl) _) | exact State.setWord_does _ (POS_EE_COUNT _) _ (by with_unfolding_all exact Field.has_row POS_EE_COUNT (fun _ => rfl) _) | apply State.modSi_does | apply State.modQd_does | apply State.modSn_does | apply State.modEe_does | apply State.eeLook_does | apply State.putLimit_does)
    | refine State.when_does (fun s => ?_) ?_
    | refine State.each_does (fun s b => ?_) ?_
    | refine Does.ite ?_ ?_
    | refine Does.iteSnd ?_ ?_
    | split
    | dsimp only

theorem State.posClears_does (s) : Does [.row POS_QD_STAT, .row POS_EE_COUNT, .row POS_EE_STAT, .one MGT_LOG_STAT, .faults, .reel, .mgt, .can, .pos] s (State.posClears s) := by
  unfold State.posClears
  repeat' with_reducible first
    | assumption
    | decide
    | exact Does.refl _ _
    | (intro x; first | (have _h : State := x; clear _h; clear_value (hx : x = _); refine Does.bind (l := [.row POS_QD_STAT, .row POS_EE_COUNT, .row POS_EE_STAT, .one MGT_LOG_STAT, .faults, .reel, .mgt, .can, .pos]) (s := s) hx ?_ (fun _ => ?_)) | clear_value x)
    | lift_lets
    | (apply Does.step; on_goal 1 => first | exact State.put_does _ (POS_QD_STAT.REFD _) _ (by with_unfolding_all exact Field.has_row POS_QD_STAT (fun _ => rfl) _) | apply State.modSi_does | apply State.modQd_does | apply State.eeFollow_does | apply State.eeLook_does | apply State.modEe_does)
    | refine State.each_does (fun s b => ?_) ?_
    | refine Does.ite ?_ ?_
    | refine Does.iteSnd ?_ ?_
    | split
    | dsimp only

theorem State.posCut_does (s) : Does [.row CAM_SI_COUNT, .row CAM_SI_TIME, .row POS_QD_COUNT, .row POS_QD_ANGLE, .row POS_QD_TURNS, .row POS_QD_TIME, .row POS_LT_POS, .row POS_LT_TIME, .row POS_LT_STAT, .one MGT_LOG_STAT, .faults, .reel, .mgt, .can, .pos, .drawn] s (State.posCut s) := by
  unfold State.posCut
  repeat' with_reducible first
    | assumption
    | decide
    | exact Does.refl _ _
    | (intro x; first | (have _h : State := x; clear _h; clear_value (hx : x = _); refine Does.bind (l := [.row CAM_SI_COUNT, .row CAM_SI_TIME, .row POS_QD_COUNT, .row POS_QD_ANGLE, .row POS_QD_TURNS, .row POS_QD_TIME, .row POS_LT_POS, .row POS_LT_TIME, .row POS_LT_STAT, .one MGT_LOG_STAT, .faults, .reel, .mgt, .can, .pos, .drawn]) (s := s) hx ?_ (fun _ => ?_)) | (have _h : _ × State := x; clear _h; clear_value (hx : x = _); refine Does.bindSnd (l := [.row CAM_SI_COUNT, .row CAM_SI_TIME, .row POS_QD_COUNT, .row POS_QD_ANGLE, .row POS_QD_TURNS, .row POS_QD_TIME, .row POS_LT_POS, .row POS_LT_TIME, .row POS_LT_STAT, .one MGT_LOG_STAT, .faults, .reel, .mgt, .can, .pos, .drawn]) (s := s) hx ?_ (fun _ => ?_)) | (have _h : Pos := x; clear _h; clear_value (hx : x = _); subst hx) | clear_value x)
    | lift_lets
    | (apply Does.step; on_goal 1 => first | exact State.setWord_does _ (CAM_SI_COUNT _) _ (by with_unfolding_all exact Field.has_row CAM_SI_COUNT (fun _ => rfl) _) | exact State.setWord_does _ (CAM_SI_TIME _) _ (by with_unfolding_all exact Field.has_row CAM_SI_TIME (fun _ => rfl) _) | exact State.setWord_does _ (POS_QD_TURNS _) _ (by with_unfolding_all exact Field.has_row POS_QD_TURNS (fun _ => rfl) _) | exact State.setWord_does _ (POS_QD_ANGLE _) _ (by with_unfolding_all exact Field.has_row POS_QD_ANGLE (fun _ => rfl) _) | exact State.setWord_does _ (POS_QD_COUNT _) _ (by with_unfolding_all exact Field.has_row POS_QD_COUNT (fun _ => rfl) _) | exact State.setWord_does _ (POS_QD_TIME _) _ (by with_unfolding_all exact Field.has_row POS_QD_TIME (fun _ => rfl) _) | apply State.timeWord_does | apply State.trigger_does)
    | refine State.each_does (fun s b => ?_) ?_
    | refine Does.ite ?_ ?_
    | refine Does.iteSnd ?_ ?_
    | (apply Does.step; on_goal 1 => first | (apply Does.pos <;> first | rfl | exact id | simp))
    | dsimp only

theorem State.feedbackTaken_does (s) : Does [.pos] s (State.feedbackTaken s) := by
  unfold State.feedbackTaken
  repeat' with_reducible first
    | assumption
    | decide
    | exact Does.refl _ _
    | (intro x; first | (have _h : State := x; clear _h; clear_value (hx : x = _); refine Does.bind (l := [.pos]) (s := s) hx ?_ (fun _ => ?_)) | (have _h : Pos := x; clear _h; clear_value (hx : x = _); subst hx) | clear_value x)
    | lift_lets
    | (apply Does.step; on_goal 1 => first | (apply Does.pos <;> first | rfl | exact id | simp))
    | dsimp only

theorem State.gpmLevel_does (s) : Does [.drawn] s (State.gpmLevel s).2 := by
  unfold State.gpmLevel
  repeat' with_reducible first
    | assumption
    | decide
    | exact Does.refl _ _
    | (intro x; first | (have _h : State := x; clear _h; clear_value (hx : x = _); refine Does.bind (l := [.drawn]) (s := s) hx ?_ (fun _ => ?_)) | (have _h : _ × State := x; clear _h; clear_value (hx : x = _); refine Does.bindSnd (l := [.drawn]) (s := s) hx ?_ (fun _ => ?_)) | clear_value x)
    | lift_lets
    | (apply Does.step; on_goal 1 => first | apply State.draw_does)
    | refine Does.ite ?_ ?_
    | refine Does.iteSnd ?_ ?_
    | split
    | dsimp only

end Sys2Proof.Machine
end

