-- ==== Sys2Proof/Laws/Mot.lean ====
section
/-!
SUPPORT. What each operation of Sys2Proof/Machine/Mot.lean can do at most.
-/

-- One proof after the other: as one text the package would otherwise ask for more threads than there is memory for.
set_option Elab.async false
namespace Sys2Proof.Machine

theorem State.markParam_does (s n i) : Does [.row AX_PARAM_STAT] s (State.markParam s n i) := by
  unfold State.markParam
  repeat' with_reducible first
    | assumption
    | decide
    | exact Does.refl _ _
    | (apply Does.step; on_goal 1 => first | exact State.putBit_does _ (AX_PARAM_STAT.PEND _) _ _ (by with_unfolding_all exact Field.has_row AX_PARAM_STAT (fun _ => rfl) _))
    | dsimp only

theorem State.writeParam_does (s n i v) : Does [.regs, .spi] s (State.writeParam s n i v) := by
  unfold State.writeParam
  repeat' with_reducible first
    | assumption
    | decide
    | exact Does.refl _ _
    | (intro x; first | (have _h : State := x; clear _h; clear_value (hx : x = _); refine Does.bind (l := [.regs, .spi]) (s := s) hx ?_ (fun _ => ?_)) | clear_value x)
    | lift_lets
    | (apply Does.step; on_goal 1 => first | exact State.setWord_does (x := .regs) _ (paramReg _ _) _ (by with_unfolding_all exact trivial) | apply State.refuse_does | apply State.markParam_does)
    | refine Does.ite ?_ ?_
    | refine Does.iteSnd ?_ ?_
    | dsimp only

theorem execParamWrite_does (n i v s) : ∀ t, execParamWrite n i v s = .next t → Does [.regs, .intg, .spi] s t := by
  unfold execParamWrite
  refine hostAccess_does ?_
  repeat' with_reducible first
    | assumption
    | decide
    | exact Does.refl _ _
    | (apply Does.step; on_goal 1 => first | apply State.writeParam_does)
    | refine Does.ite ?_ ?_
    | refine Does.iteSnd ?_ ?_
    | dsimp only

theorem State.setTarget_does (s n v) : Does [.row AX_TARGET, .mots] s (State.setTarget s n v) := by
  unfold State.setTarget
  repeat' with_reducible first
    | assumption
    | decide
    | exact Does.refl _ _
    | (intro x; first | (have _h : State := x; clear _h; clear_value (hx : x = _); refine Does.bind (l := [.row AX_TARGET, .mots]) (s := s) hx ?_ (fun _ => ?_)) | clear_value x)
    | lift_lets
    | (apply Does.step; on_goal 1 => first | exact State.setWord_does _ (AX_TARGET _) _ (by with_unfolding_all exact Field.has_row AX_TARGET (fun _ => rfl) _) | apply State.modMot_does)
    | dsimp only

theorem State.writeTarget_does (s n v) : Does [.row AX_TARGET, .mots] s (State.writeTarget s n v) := by
  unfold State.writeTarget
  repeat' with_reducible first
    | assumption
    | decide
    | exact Does.refl _ _
    | (intro x; first | (have _h : State := x; clear _h; clear_value (hx : x = _); refine Does.bind (l := [.row AX_TARGET, .mots]) (s := s) hx ?_ (fun _ => ?_)) | clear_value x)
    | lift_lets
    | (apply Does.step; on_goal 1 => first | apply State.modMot_does | apply State.setTarget_does)
    | dsimp only

theorem State.writeAxCtrl_does (s n v) : Does [.row AX_CTRL, .spi, .mots] s (State.writeAxCtrl s n v) := by
  unfold State.writeAxCtrl
  repeat' with_reducible first
    | assumption
    | decide
    | exact Does.refl _ _
    | (intro x; first | (have _h : State := x; clear _h; clear_value (hx : x = _); refine Does.bind (l := [.row AX_CTRL, .spi, .mots]) (s := s) hx ?_ (fun _ => ?_)) | clear_value x)
    | lift_lets
    | (apply Does.step; on_goal 1 => first | exact State.setWord_does _ (AX_CTRL _) _ (by with_unfolding_all exact Field.has_row AX_CTRL (fun _ => rfl) _) | apply State.refuse_does | apply State.modMot_does)
    | refine Does.ite ?_ ?_
    | refine Does.iteSnd ?_ ?_
    | dsimp only

theorem execHomingRequest_does (n v s) : ∀ t, execHomingRequest n v s = .next t → Does [.row AX_CTRL, .intg, .spi, .mots] s t := by
  unfold execHomingRequest
  refine hostAccess_does ?_
  repeat' with_reducible first
    | assumption
    | decide
    | exact Does.refl _ _
    | (apply Does.step; on_goal 1 => first | apply State.writeAxCtrl_does)
    | refine Does.ite ?_ ?_
    | refine Does.iteSnd ?_ ?_
    | dsimp only

theorem State.issueSetpos_does (s n v) : Does [.row AX_PARAM_STAT, .mots] s (State.issueSetpos s n v) := by
  unfold State.issueSetpos
  repeat' with_reducible first
    | assumption
    | decide
    | exact Does.refl _ _
    | (intro x; first | (have _h : State := x; clear _h; clear_value (hx : x = _); refine Does.bind (l := [.row AX_PARAM_STAT, .mots]) (s := s) hx ?_ (fun _ => ?_)) | clear_value x)
    | lift_lets
    | (apply Does.step; on_goal 1 => first | exact State.put_does _ (AX_PARAM_STAT.SETPOS_PEND _) _ (by with_unfolding_all exact Field.has_row AX_PARAM_STAT (fun _ => rfl) _) | apply State.modMot_does)
    | dsimp only

theorem State.writeSetpos_does (s n v) : Does [.row AX_PARAM_STAT, .spi, .mots] s (State.writeSetpos s n v) := by
  unfold State.writeSetpos
  repeat' with_reducible first
    | assumption
    | decide
    | exact Does.refl _ _
    | (apply Does.step; on_goal 1 => first | apply State.refuse_does | apply State.issueSetpos_does)
    | refine Does.ite ?_ ?_
    | refine Does.iteSnd ?_ ?_
    | dsimp only

theorem execAxSetpos_does (n v s) : ∀ t, execAxSetpos n v s = .next t → Does [.row AX_PARAM_STAT, .intg, .spi, .mots] s t := by
  unfold execAxSetpos
  refine hostAccess_does ?_
  repeat' with_reducible first
    | assumption
    | decide
    | exact Does.refl _ _
    | (apply Does.step; on_goal 1 => first | apply State.writeSetpos_does)
    | refine Does.ite ?_ ?_
    | refine Does.iteSnd ?_ ?_
    | dsimp only

theorem State.writeCamCtrl_does (s n v) : Does [.row CAM_AX_CTRL, .spi, .mots] s (State.writeCamCtrl s n v) := by
  unfold State.writeCamCtrl
  repeat' with_reducible first
    | assumption
    | decide
    | exact Does.refl _ _
    | (intro x; first | (have _h : State := x; clear _h; clear_value (hx : x = _); refine Does.bind (l := [.row CAM_AX_CTRL, .spi, .mots]) (s := s) hx ?_ (fun _ => ?_)) | clear_value x)
    | lift_lets
    | (apply Does.step; on_goal 1 => first | exact State.setWord_does _ (CAM_AX_CTRL _) _ (by with_unfolding_all exact Field.has_row CAM_AX_CTRL (fun _ => rfl) _) | apply State.refuse_does | apply State.modMot_does)
    | refine Does.ite ?_ ?_
    | refine Does.iteSnd ?_ ?_
    | dsimp only

theorem execCamEngage_does (n v s) : ∀ t, execCamEngage n v s = .next t → Does [.row CAM_AX_CTRL, .intg, .spi, .mots] s t := by
  unfold execCamEngage
  refine hostAccess_does ?_
  repeat' with_reducible first
    | assumption
    | decide
    | exact Does.refl _ _
    | (apply Does.step; on_goal 1 => first | apply State.writeCamCtrl_does)
    | dsimp only

theorem State.writeBind_does (s n v) : Does [.waiting, .spi] s (State.writeBind s n v) := by
  unfold State.writeBind
  repeat' with_reducible first
    | assumption
    | decide
    | exact Does.refl _ _
    | (apply Does.step; on_goal 1 => first | apply State.refuse_does | apply State.await_does)
    | refine Does.ite ?_ ?_
    | refine Does.iteSnd ?_ ?_
    | dsimp only

theorem execCamBind_does (n v s) : ∀ t, execCamBind n v s = .next t → Does [.waiting, .intg, .spi] s t := by
  unfold execCamBind
  refine hostAccess_does ?_
  repeat' with_reducible first
    | assumption
    | decide
    | exact Does.refl _ _
    | (apply Does.step; on_goal 1 => first | apply State.writeBind_does)
    | dsimp only

theorem State.motFaults_does (s n plan overSeen) : Does [.one MGT_LOG_STAT, .faults, .reel, .mgt, .can, .mots] s (State.motFaults s n plan overSeen) := by
  unfold State.motFaults
  repeat' with_reducible first
    | assumption
    | decide
    | exact Does.refl _ _
    | (intro x; first | (have _h : State := x; clear _h; clear_value (hx : x = _); refine Does.bind (l := [.one MGT_LOG_STAT, .faults, .reel, .mgt, .can, .mots]) (s := s) hx ?_ (fun _ => ?_)) | clear_value x)
    | lift_lets
    | (apply Does.step; on_goal 1 => first | apply State.raise_does | apply State.modMot_does)
    | refine State.when_does (fun s => ?_) ?_
    | dsimp only

theorem State.slipFault_does (s n e) : Does [.one MGT_LOG_STAT, .faults, .reel, .mgt, .can, .mots] s (State.slipFault s n e) := by
  unfold State.slipFault
  repeat' with_reducible first
    | assumption
    | decide
    | exact Does.refl _ _
    | (intro x; first | (have _h : State := x; clear _h; clear_value (hx : x = _); refine Does.bind (l := [.one MGT_LOG_STAT, .faults, .reel, .mgt, .can, .mots]) (s := s) hx ?_ (fun _ => ?_)) | clear_value x)
    | lift_lets
    | (apply Does.step; on_goal 1 => first | apply State.raise_does | apply State.modMot_does)
    | refine Does.ite ?_ ?_
    | refine Does.iteSnd ?_ ?_
    | dsimp only

/-- What `State.publishWord` and its like may change. -/
def Parts.ofPublishWord : List Field :=
  [.row AX_STAT, .row AX_POS, .row AX_VEL, .row AX_DIST, .row AX_PLAN, .row CAM_AX_STAT, .row CAM_AX_ERR,
    .row CAM_AX_MPOS, .row CAM_AX_OFF_EFF, .one LAS_STAT, .row LAS_AX_STAT, .row LAS_AX_ANGLE, .row LAS_AX_EMF,
    .row LAS_AX_SLIP, .row LAS_AX_LOSS, .row LAS_AX_HOME, .row LAS_AX_HOME_RAW, .row LAS_AX_EOFS, .row POS_AX_DEV]

theorem State.publishWord_does (s n i w) : Does Parts.ofPublishWord s (State.publishWord s n i w) := by
  unfold State.publishWord
  repeat' with_reducible first
    | assumption
    | decide
    | exact Does.refl _ _
    | (intro x; first | (have _h : State := x; clear _h; clear_value (hx : x = _); refine Does.bind (l := Parts.ofPublishWord) (s := s) hx ?_ (fun _ => ?_)) | clear_value x)
    | lift_lets
    | (apply Does.step; on_goal 1 => first | exact State.setWord_does _ (AX_POS _) _ (by with_unfolding_all exact Field.has_row AX_POS (fun _ => rfl) _) | exact State.setWord_does _ (AX_VEL _) _ (by with_unfolding_all exact Field.has_row AX_VEL (fun _ => rfl) _) | exact State.setWord_does _ (AX_DIST _) _ (by with_unfolding_all exact Field.has_row AX_DIST (fun _ => rfl) _) | exact State.put_does _ (AX_STAT.ARM _) _ (by with_unfolding_all exact Field.has_row AX_STAT (fun _ => rfl) _) | exact State.setWord_does _ (AX_PLAN _) _ (by with_unfolding_all exact Field.has_row AX_PLAN (fun _ => rfl) _) | exact State.put_does _ (AX_STAT.AT_TARGET _) _ (by with_unfolding_all exact Field.has_row AX_STAT (fun _ => rfl) _) | exact State.put_does _ (AX_STAT.REV_SEEN _) _ (by with_unfolding_all exact Field.has_row AX_STAT (fun _ => rfl) _) | exact State.put_does _ (AX_STAT.TGT_CLAMP _) _ (by with_unfolding_all exact Field.has_row AX_STAT (fun _ => rfl) _) | exact State.put_does _ (AX_STAT.TGT_BLOCKED _) _ (by with_unfolding_all exact Field.has_row AX_STAT (fun _ => rfl) _) | exact State.put_does _ (AX_STAT.PARAM_ORDER _) _ (by with_unfolding_all exact Field.has_row AX_STAT (fun _ => rfl) _) | exact State.put_does _ (AX_STAT.OVERSPEED _) _ (by with_unfolding_all exact Field.has_row AX_STAT (fun _ => rfl) _) | exact State.put_does _ (AX_STAT.SOFT_STOP _) _ (by with_unfolding_all exact Field.has_row AX_STAT (fun _ => rfl) _) | exact State.put_does _ (AX_STAT.UNCERTAIN _) _ (by with_unfolding_all exact Field.has_row AX_STAT (fun _ => rfl) _) | exact State.put_does _ (AX_STAT.STANDSTILL _) _ (by with_unfolding_all exact Field.has_row AX_STAT (fun _ => rfl) _) | exact State.put_does _ (AX_STAT.AT_REST _) _ (by with_unfolding_all exact Field.has_row AX_STAT (fun _ => rfl) _) | exact State.put_does _ (LAS_AX_SLIP.EPISODE _) _ (by with_unfolding_all exact Field.has_row LAS_AX_SLIP (fun _ => rfl) _) | exact State.put_does _ (AX_STAT.FROZEN _) _ (by with_unfolding_all exact Field.has_row AX_STAT (fun _ => rfl) _) | exact State.put_does _ (LAS_AX_EOFS.EOFS _) _ (by with_unfolding_all exact Field.has_row LAS_AX_EOFS (fun _ => rfl) _) | exact State.put_does _ (LAS_AX_STAT.SLIP_SEEN _) _ (by with_unfolding_all exact Field.has_row LAS_AX_STAT (fun _ => rfl) _) | exact State.bump_does _ (LAS_AX_SLIP.TOTAL _) _ (by with_unfolding_all exact Field.has_row LAS_AX_SLIP (fun _ => rfl) _) | exact State.setWord_does _ (LAS_AX_ANGLE _) _ (by with_unfolding_all exact Field.has_row LAS_AX_ANGLE (fun _ => rfl) _) | exact State.setWord_does _ (LAS_AX_EMF _) _ (by with_unfolding_all exact Field.has_row LAS_AX_EMF (fun _ => rfl) _) | exact State.setWord_does _ (LAS_AX_STAT _) _ (by with_unfolding_all exact Field.has_row LAS_AX_STAT (fun _ => rfl) _) | exact State.putBit_does _ LAS_STAT.VALID _ _ (by with_unfolding_all exact Field.has_one LAS_STAT) | exact State.put_does _ (LAS_AX_STAT.STALL_SEEN _) _ (by with_unfolding_all exact Field.has_row LAS_AX_STAT (fun _ => rfl) _) | exact State.setWord_does _ (LAS_AX_LOSS _) _ (by with_unfolding_all exact Field.has_row LAS_AX_LOSS (fun _ => rfl) _) | exact State.putBit_does _ LAS_STAT.HOMING _ _ (by with_unfolding_all exact Field.has_one LAS_STAT) | exact State.setWord_does _ (LAS_AX_HOME _) _ (by with_unfolding_all exact Field.has_row LAS_AX_HOME (fun _ => rfl) _) | exact State.setWord_does _ (LAS_AX_HOME_RAW _) _ (by with_unfolding_all exact Field.has_row LAS_AX_HOME_RAW (fun _ => rfl) _) | exact State.setWord_does _ (POS_AX_DEV _) _ (by with_unfolding_all exact Field.has_row POS_AX_DEV (fun _ => rfl) _) | exact State.setWord_does _ (CAM_AX_STAT _) _ (by with_unfolding_all exact Field.has_row CAM_AX_STAT (fun _ => rfl) _) | exact State.setWord_does _ (CAM_AX_ERR _) _ (by with_unfolding_all exact Field.has_row CAM_AX_ERR (fun _ => rfl) _) | exact State.setWord_does _ (CAM_AX_MPOS _) _ (by with_unfolding_all exact Field.has_row CAM_AX_MPOS (fun _ => rfl) _) | exact State.setWord_does _ (CAM_AX_OFF_EFF _) _ (by with_unfolding_all exact Field.has_row CAM_AX_OFF_EFF (fun _ => rfl) _))
    | refine State.when_does (fun s => ?_) ?_
    | split
    | dsimp only

theorem State.lossFaults_does (s n l old) : Does [.one MGT_LOG_STAT, .faults, .reel, .mgt, .can, .mots] s (State.lossFaults s n l old) := by
  unfold State.lossFaults
  repeat' with_reducible first
    | assumption
    | decide
    | exact Does.refl _ _
    | (intro x; first | (have _h : State := x; clear _h; clear_value (hx : x = _); refine Does.bind (l := [.one MGT_LOG_STAT, .faults, .reel, .mgt, .can, .mots]) (s := s) hx ?_ (fun _ => ?_)) | clear_value x)
    | lift_lets
    | (apply Does.step; on_goal 1 => first | apply State.modMot_does | apply State.raise_does)
    | refine Does.ite ?_ ?_
    | refine Does.iteSnd ?_ ?_
    | dsimp only

theorem State.lasFaults_does (s n l old) : Does [.row AX_CTRL, .one MGT_LOG_STAT, .faults, .reel, .mgt, .can, .mots] s (State.lasFaults s n l old) := by
  unfold State.lasFaults
  repeat' with_reducible first
    | assumption
    | decide
    | exact Does.refl _ _
    | (intro x; first | (have _h : State := x; clear _h; clear_value (hx : x = _); refine Does.bind (l := [.row AX_CTRL, .one MGT_LOG_STAT, .faults, .reel, .mgt, .can, .mots]) (s := s) hx ?_ (fun _ => ?_)) | clear_value x)
    | lift_lets
    | (apply Does.step; on_goal 1 => first | exact State.put_does _ (AX_CTRL.STOP _) _ (by with_unfolding_all exact Field.has_row AX_CTRL (fun _ => rfl) _) | apply State.raise_does | apply State.modMot_does | apply State.slipFault_does | apply State.lossFaults_does)
    | refine State.when_does (fun s => ?_) ?_
    | dsimp only

theorem State.camFaults_does (s n l old) : Does [.row AX_TARGET, .one MGT_LOG_STAT, .faults, .reel, .mgt, .can, .mots] s (State.camFaults s n l old) := by
  unfold State.camFaults
  repeat' with_reducible first
    | assumption
    | decide
    | exact Does.refl _ _
    | (intro x; first | (have _h : State := x; clear _h; clear_value (hx : x = _); refine Does.bind (l := [.row AX_TARGET, .one MGT_LOG_STAT, .faults, .reel, .mgt, .can, .mots]) (s := s) hx ?_ (fun _ => ?_)) | clear_value x)
    | lift_lets
    | (apply Does.step; on_goal 1 => first | apply State.raise_does | apply State.setTarget_does)
    | refine State.when_does (fun s => ?_) ?_
    | dsimp only

theorem State.followFault_does (s n l) : Does [.one MGT_LOG_STAT, .faults, .reel, .mgt, .can, .mots] s (State.followFault s n l) := by
  unfold State.followFault
  repeat' with_reducible first
    | assumption
    | decide
    | exact Does.refl _ _
    | (intro x; first | (have _h : State := x; clear _h; clear_value (hx : x = _); refine Does.bind (l := [.one MGT_LOG_STAT, .faults, .reel, .mgt, .can, .mots]) (s := s) hx ?_ (fun _ => ?_)) | clear_value x)
    | lift_lets
    | (apply Does.step; on_goal 1 => first | apply State.modMot_does | apply State.raise_does)
    | refine State.when_does (fun s => ?_) ?_
    | refine Does.ite ?_ ?_
    | refine Does.iteSnd ?_ ?_
    | split
    | dsimp only

/-- What `State.publishAxis` and its like may change. -/
def Parts.ofPublishAxis : List Field :=
  [.row AX_CTRL, .row AX_STAT, .row AX_TARGET, .row AX_POS, .row AX_VEL, .row AX_DIST, .row AX_PLAN, .row CAM_AX_STAT,
    .row CAM_AX_ERR, .row CAM_AX_MPOS, .row CAM_AX_OFF_EFF, .one LAS_STAT, .row LAS_AX_STAT, .row LAS_AX_ANGLE,
    .row LAS_AX_EMF, .row LAS_AX_SLIP, .row LAS_AX_LOSS, .row LAS_AX_HOME, .row LAS_AX_HOME_RAW, .row LAS_AX_EOFS,
    .row POS_AX_DEV, .one MGT_LOG_STAT, .faults, .reel, .mgt, .can, .mots]

theorem State.publishAxis_does (s n) : Does Parts.ofPublishAxis s (State.publishAxis s n) := by
  unfold State.publishAxis
  repeat' with_reducible first
    | assumption
    | decide
    | exact Does.refl _ _
    | (intro x; first | (have _h : State := x; clear _h; clear_value (hx : x = _); refine Does.bind (l := Parts.ofPublishAxis) (s := s) hx ?_ (fun _ => ?_)) | clear_value x)
    | lift_lets
    | (apply Does.step; on_goal 1 => first | apply State.publishWord_does | apply State.motFaults_does | apply State.followFault_does | apply State.camFaults_does | apply State.lasFaults_does)
    | refine State.each_does (fun s b => ?_) ?_
    | dsimp only

theorem State.homeFinish_does (s n) : Does [.row AX_CTRL, .row AX_TARGET, .mots] s (State.homeFinish s n) := by
  unfold State.homeFinish
  repeat' with_reducible first
    | assumption
    | decide
    | exact Does.refl _ _
    | (intro x; first | (have _h : State := x; clear _h; clear_value (hx : x = _); refine Does.bind (l := [.row AX_CTRL, .row AX_TARGET, .mots]) (s := s) hx ?_ (fun _ => ?_)) | (have _h : State → _ → State := x; clear _h; clear_value (hx : x = _); refine Does.bindFun2 (l := [.row AX_CTRL, .row AX_TARGET, .mots]) hx (fun s b => ?_) (fun hf => ?_)) | clear_value x)
    | lift_lets
    | (apply Does.trans; on_goal 2 => apply hf)
    | (apply Does.step; on_goal 1 => first | exact State.put_does _ (AX_CTRL.MODE _) _ (by with_unfolding_all exact Field.has_row AX_CTRL (fun _ => rfl) _) | apply State.modMot_does | apply State.setTarget_does)
    | refine Does.ite ?_ ?_
    | refine Does.iteSnd ?_ ?_
    | dsimp only

theorem State.homeNote_does (s n old) : Does [.mots] s (State.homeNote s n old) := by
  unfold State.homeNote
  repeat' with_reducible first
    | assumption
    | decide
    | exact Does.refl _ _
    | (intro x; first | (have _h : State := x; clear _h; clear_value (hx : x = _); refine Does.bind (l := [.mots]) (s := s) hx ?_ (fun _ => ?_)) | clear_value x)
    | lift_lets
    | (apply Does.step; on_goal 1 => first | apply State.modMot_does)
    | refine State.when_does (fun s => ?_) ?_
    | dsimp only

theorem State.limitCut_does (s n) : Does [.row AX_CTRL, .one MGT_LOG_STAT, .faults, .reel, .mgt, .can, .mots] s (State.limitCut s n) := by
  unfold State.limitCut
  repeat' with_reducible first
    | assumption
    | decide
    | exact Does.refl _ _
    | (intro x; first | (have _h : State := x; clear _h; clear_value (hx : x = _); refine Does.bind (l := [.row AX_CTRL, .one MGT_LOG_STAT, .faults, .reel, .mgt, .can, .mots]) (s := s) hx ?_ (fun _ => ?_)) | clear_value x)
    | lift_lets
    | (apply Does.step; on_goal 1 => first | exact State.put_does _ (AX_CTRL.HALT _) _ (by with_unfolding_all exact Field.has_row AX_CTRL (fun _ => rfl) _) | exact State.put_does _ (AX_CTRL.STOP _) _ (by with_unfolding_all exact Field.has_row AX_CTRL (fun _ => rfl) _) | apply State.modMot_does | apply State.raise_does)
    | refine Does.ite ?_ ?_
    | refine Does.iteSnd ?_ ?_
    | dsimp only

theorem State.axisCut_does (s n) : Does Parts.ofPublishAxis s (State.axisCut s n) := by
  unfold State.axisCut
  repeat' with_reducible first
    | assumption
    | decide
    | exact Does.refl _ _
    | (apply Does.step; on_goal 1 => first | apply State.limitCut_does | apply State.homeNote_does | apply State.homeFinish_does | apply State.publishAxis_does)
    | refine Does.ite ?_ ?_
    | refine Does.iteSnd ?_ ?_
    | dsimp only

theorem State.camRelease_does (s n) : Does [.row CAM_AX_CTRL, .one MGT_LOG_STAT, .faults, .reel, .mgt, .can, .mots] s (State.camRelease s n) := by
  unfold State.camRelease
  repeat' with_reducible first
    | assumption
    | decide
    | exact Does.refl _ _
    | (intro x; first | (have _h : State := x; clear _h; clear_value (hx : x = _); refine Does.bind (l := [.row CAM_AX_CTRL, .one MGT_LOG_STAT, .faults, .reel, .mgt, .can, .mots]) (s := s) hx ?_ (fun _ => ?_)) | clear_value x)
    | lift_lets
    | (apply Does.step; on_goal 1 => first | exact State.put_does _ (CAM_AX_CTRL.ENGAGE _) _ (by with_unfolding_all exact Field.has_row CAM_AX_CTRL (fun _ => rfl) _) | apply State.raise_does | apply State.modMot_does)
    | refine Does.ite ?_ ?_
    | refine Does.iteSnd ?_ ?_
    | dsimp only

/-- What `State.axesCut` and its like may change. -/
def Parts.ofAxesCut : List Field :=
  [.row AX_CTRL, .row AX_STAT, .row AX_TARGET, .row AX_POS, .row AX_VEL, .row AX_DIST, .row AX_PLAN, .row CAM_AX_CTRL,
    .row CAM_AX_STAT, .row CAM_AX_ERR, .row CAM_AX_MPOS, .row CAM_AX_OFF_EFF, .one LAS_STAT, .row LAS_AX_STAT,
    .row LAS_AX_ANGLE, .row LAS_AX_EMF, .row LAS_AX_SLIP, .row LAS_AX_LOSS, .row LAS_AX_HOME, .row LAS_AX_HOME_RAW,
    .row LAS_AX_EOFS, .row POS_AX_DEV, .one MGT_LOG_STAT, .faults, .reel, .mgt, .can, .mots]

theorem State.axesCut_does (s) : Does Parts.ofAxesCut s (State.axesCut s) := by
  unfold State.axesCut
  repeat' with_reducible first
    | assumption
    | decide
    | exact Does.refl _ _
    | (apply Does.step; on_goal 1 => first | apply State.axisCut_does | apply State.camRelease_does)
    | refine State.each_does (fun s b => ?_) ?_
    | dsimp only

theorem State.giveInput_does (s n i w) : Does [.engs] s (State.giveInput s n i w) := by
  unfold State.giveInput
  repeat' with_reducible first
    | assumption
    | decide
    | exact Does.refl _ _
    | (apply Does.step; on_goal 1 => first | apply State.takeInput_does)
    | split
    | dsimp only

theorem State.snapshot_does (s n) : Does [.row AX_STAT, .row AX_TARGET, .row AX_PARAM_STAT, .engs, .intg, .mots] s (State.snapshot s n) := by
  unfold State.snapshot
  repeat' with_reducible first
    | assumption
    | decide
    | exact Does.refl _ _
    | (intro x; first | (have _h : State := x; clear _h; clear_value (hx : x = _); refine Does.bind (l := [.row AX_STAT, .row AX_TARGET, .row AX_PARAM_STAT, .engs, .intg, .mots]) (s := s) hx ?_ (fun _ => ?_)) | clear_value x)
    | lift_lets
    | (apply Does.step; on_goal 1 => first | exact State.put_does _ (AX_STAT.UNCERTAIN _) _ (by with_unfolding_all exact Field.has_row AX_STAT (fun _ => rfl) _) | exact State.put_does _ (AX_PARAM_STAT.SETPOS_PEND _) _ (by with_unfolding_all exact Field.has_row AX_PARAM_STAT (fun _ => rfl) _) | exact State.putBit_does _ (AX_PARAM_STAT.PEND _) _ _ (by with_unfolding_all exact Field.has_row AX_PARAM_STAT (fun _ => rfl) _) | apply State.modMot_does | apply State.giveInput_does | apply State.setTarget_does)
    | refine Does.ite ?_ ?_
    | refine Does.iteSnd ?_ ?_
    | split
    | (apply Does.step; on_goal 1 => first | apply Does.intg)
    | dsimp only

theorem State.masterDelivery_does (s n) : Does [.engs] s (State.masterDelivery s n) := by
  unfold State.masterDelivery
  repeat' with_reducible first
    | assumption
    | decide
    | exact Does.refl _ _
    | (intro x; first | (have _h : State := x; clear _h; clear_value (hx : x = _); refine Does.bind (l := [.engs]) (s := s) hx ?_ (fun _ => ?_)) | clear_value x)
    | lift_lets
    | (apply Does.step; on_goal 1 => first | apply State.giveInput_does)
    | refine Does.ite ?_ ?_
    | refine Does.iteSnd ?_ ?_
    | dsimp only

theorem State.feedbackDelivery_does (s n) : Does [.engs] s (State.feedbackDelivery s n) := by
  unfold State.feedbackDelivery
  repeat' with_reducible first
    | assumption
    | decide
    | exact Does.refl _ _
    | (apply Does.step; on_goal 1 => first | apply State.giveInput_does)
    | refine Does.ite ?_ ?_
    | refine Does.iteSnd ?_ ?_
    | split
    | dsimp only

theorem State.giveVel_does (s n) : Does [.engs] s (State.giveVel s n) := by
  unfold State.giveVel
  repeat' with_reducible first
    | assumption
    | decide
    | exact Does.refl _ _
    | (intro x; first | (have _h : State := x; clear _h; clear_value (hx : x = _); refine Does.bind (l := [.engs]) (s := s) hx ?_ (fun _ => ?_)) | clear_value x)
    | lift_lets
    | (apply Does.step; on_goal 1 => first | refine State.modEng_does _ _ (fun g hg => by first | exact ⟨hg.1, hg.2⟩ | exact ⟨rfl, rfl⟩ | simpa using hg | simpa [Eng.Shaped] using hg))
    | split
    | dsimp only

theorem State.committedDelivery_does (s n) : Does [.engs, .mots] s (State.committedDelivery s n) := by
  unfold State.committedDelivery
  repeat' with_reducible first
    | assumption
    | decide
    | exact Does.refl _ _
    | (intro x; first | (have _h : State := x; clear _h; clear_value (hx : x = _); refine Does.bind (l := [.engs, .mots]) (s := s) hx ?_ (fun _ => ?_)) | clear_value x)
    | lift_lets
    | (apply Does.step; on_goal 1 => first | apply State.modMot_does | apply State.giveVel_does | apply State.giveInput_does)
    | dsimp only

end Sys2Proof.Machine
end

