-- ==== Sys2Proof/Laws/Adc.lean ====
section
/-!
SUPPORT. What each operation of Sys2Proof/Machine/Adc.lean can do at most.
-/

-- One proof after the other: as one text the package would otherwise ask for more threads than there is memory for.
set_option Elab.async false
namespace Sys2Proof.Machine

theorem State.modCore_does (s k f) : Does [.adc] s (State.modCore s k f) := by
  unfold State.modCore
  repeat' with_reducible first
    | assumption
    | decide
    | exact Does.refl _ _
    | (intro x; first | (have _h : State := x; clear _h; clear_value (hx : x = _); refine Does.bind (l := [.adc]) (s := s) hx ?_ (fun _ => ?_)) | (have _h : Adc := x; clear _h; clear_value (hx : x = _); subst hx) | clear_value x)
    | lift_lets
    | (apply Does.step; on_goal 1 => first | (apply Does.adc <;> first | rfl | exact id | simp))
    | dsimp only

theorem State.modUnit_does (s u f) : Does [.adc] s (State.modUnit s u f) := by
  unfold State.modUnit
  repeat' with_reducible first
    | assumption
    | decide
    | exact Does.refl _ _
    | (intro x; first | (have _h : State := x; clear _h; clear_value (hx : x = _); refine Does.bind (l := [.adc]) (s := s) hx ?_ (fun _ => ?_)) | (have _h : Adc := x; clear _h; clear_value (hx : x = _); subst hx) | clear_value x)
    | lift_lets
    | (apply Does.step; on_goal 1 => first | (apply Does.adc <;> first | rfl | exact id | simp))
    | dsimp only

theorem State.showSettle_does (s u) : Does [.row ADC_CH_CNT] s (State.showSettle s u) := by
  unfold State.showSettle
  repeat' with_reducible first
    | assumption
    | decide
    | exact Does.refl _ _
    | (intro x; first | (have _h : State := x; clear _h; clear_value (hx : x = _); refine Does.bind (l := [.row ADC_CH_CNT]) (s := s) hx ?_ (fun _ => ?_)) | clear_value x)
    | lift_lets
    | (apply Does.step; on_goal 1 => first | exact State.put_does _ (ADC_CH_CNT.SETTLE _) _ (by with_unfolding_all exact Field.has_row ADC_CH_CNT (fun _ => rfl) _))
    | refine Does.ite ?_ ?_
    | refine Does.iteSnd ?_ ?_
    | dsimp only

theorem State.coreFail_does (s k) : Does [.one ADC_STAT, .row ADC_CORE_CHK, .one INT_SAFE_CAUSE, .one MGT_LOG_STAT, .faults, .sys, .reel, .mgt, .can, .adc] s (State.coreFail s k) := by
  unfold State.coreFail
  repeat' with_reducible first
    | assumption
    | decide
    | exact Does.refl _ _
    | (intro x; first | (have _h : State := x; clear _h; clear_value (hx : x = _); refine Does.bind (l := [.one ADC_STAT, .row ADC_CORE_CHK, .one INT_SAFE_CAUSE, .one MGT_LOG_STAT, .faults, .sys, .reel, .mgt, .can, .adc]) (s := s) hx ?_ (fun _ => ?_)) | clear_value x)
    | lift_lets
    | (apply Does.step; on_goal 1 => first | exact State.putBit_does _ ADC_STAT.CORE_OK _ _ (by with_unfolding_all exact Field.has_one ADC_STAT) | exact State.put_does _ (ADC_CORE_CHK.FAILED _) _ (by with_unfolding_all exact Field.has_row ADC_CORE_CHK (fun _ => rfl) _) | exact State.putBit_does _ ADC_STAT.CAL_BUSY _ _ (by with_unfolding_all exact Field.has_one ADC_STAT) | apply State.modCore_does | apply State.safeCause_does | apply State.raise_does)
    | refine Does.ite ?_ ?_
    | refine Does.iteSnd ?_ ?_
    | dsimp only

theorem State.clip_does (s ch) : Does [.row ADC_CH_CNT, .one MGT_LOG_STAT, .faults, .reel, .mgt, .can, .adc] s (State.clip s ch) := by
  unfold State.clip
  repeat' with_reducible first
    | assumption
    | decide
    | exact Does.refl _ _
    | (intro x; first | (have _h : State := x; clear _h; clear_value (hx : x = _); refine Does.bind (l := [.row ADC_CH_CNT, .one MGT_LOG_STAT, .faults, .reel, .mgt, .can, .adc]) (s := s) hx ?_ (fun _ => ?_)) | (have _h : Adc := x; clear _h; clear_value (hx : x = _); subst hx) | clear_value x)
    | lift_lets
    | (apply Does.step; on_goal 1 => first | exact State.bump_does _ (ADC_CH_CNT.CLIP _) _ (by with_unfolding_all exact Field.has_row ADC_CH_CNT (fun _ => rfl) _) | apply State.raise_does)
    | refine Does.ite ?_ ?_
    | refine Does.iteSnd ?_ ?_
    | (apply Does.step; on_goal 1 => first | (apply Does.adc <;> first | rfl | exact id | simp))
    | dsimp only

theorem State.openResult_does (s settle disabled) : Does [.drawn] s (State.openResult s settle disabled).2 := by
  unfold State.openResult
  repeat' with_reducible first
    | assumption
    | decide
    | exact Does.refl _ _
    | (intro x; first | (have _h : State := x; clear _h; clear_value (hx : x = _); refine Does.bind (l := [.drawn]) (s := s) hx ?_ (fun _ => ?_)) | (have _h : _ × State := x; clear _h; clear_value (hx : x = _); refine Does.bindSnd (l := [.drawn]) (s := s) hx ?_ (fun _ => ?_)) | clear_value x)
    | lift_lets
    | (apply Does.step; on_goal 1 => first | apply State.draw_does)
    | dsimp only

theorem State.filter_does (s u v ok) : Does [.row ADC_CH_CNT, .adc, .drawn] s (State.filter s u v ok).2 := by
  unfold State.filter
  repeat' with_reducible first
    | assumption
    | decide
    | exact Does.refl _ _
    | (intro x; first | (have _h : State := x; clear _h; clear_value (hx : x = _); refine Does.bind (l := [.row ADC_CH_CNT, .adc, .drawn]) (s := s) hx ?_ (fun _ => ?_)) | (have _h : _ × State := x; clear _h; clear_value (hx : x = _); refine Does.bindSnd (l := [.row ADC_CH_CNT, .adc, .drawn]) (s := s) hx ?_ (fun _ => ?_)) | clear_value x)
    | lift_lets
    | (apply Does.step; on_goal 1 => first | apply State.showSettle_does | apply State.modUnit_does | apply State.openResult_does)
    | refine Does.ite ?_ ?_
    | refine Does.iteSnd ?_ ?_
    | dsimp only

theorem State.convert_does (s core ch sensor r) : Does [.one ADC_STAT, .row ADC_CORE_CHK, .row ADC_CH_CNT, .one INT_SAFE_CAUSE, .one MGT_LOG_STAT, .faults, .sys, .reel, .mgt, .can, .adc, .drawn] s (State.convert s core ch sensor r).2 := by
  unfold State.convert
  repeat' with_reducible first
    | assumption
    | decide
    | exact Does.refl _ _
    | (intro x; first | (have _h : State := x; clear _h; clear_value (hx : x = _); refine Does.bind (l := [.one ADC_STAT, .row ADC_CORE_CHK, .row ADC_CH_CNT, .one INT_SAFE_CAUSE, .one MGT_LOG_STAT, .faults, .sys, .reel, .mgt, .can, .adc, .drawn]) (s := s) hx ?_ (fun _ => ?_)) | (have _h : _ × State := x; clear _h; clear_value (hx : x = _); refine Does.bindSnd (l := [.one ADC_STAT, .row ADC_CORE_CHK, .row ADC_CH_CNT, .one INT_SAFE_CAUSE, .one MGT_LOG_STAT, .faults, .sys, .reel, .mgt, .can, .adc, .drawn]) (s := s) hx ?_ (fun _ => ?_)) | clear_value x)
    | lift_lets
    | (apply Does.step; on_goal 1 => first | apply State.coreFail_does | apply State.raise_does | apply State.openResult_does | apply State.filter_does | apply State.clip_does)
    | refine State.when_does (fun s => ?_) ?_
    | split
    | dsimp only

theorem State.setLast_does (s ch sensor w) : Does [.row ADC_CH_LAST, .row ADC_TS_LAST] s (State.setLast s ch sensor w) := by
  unfold State.setLast
  repeat' with_reducible first
    | assumption
    | decide
    | exact Does.refl _ _
    | (apply Does.step; on_goal 1 => first | exact State.setWord_does _ (ADC_TS_LAST _) _ (by with_unfolding_all exact Field.has_row ADC_TS_LAST (fun _ => rfl) _) | exact State.setWord_does _ (ADC_CH_LAST _) _ (by with_unfolding_all exact Field.has_row ADC_CH_LAST (fun _ => rfl) _))
    | refine Does.ite ?_ ?_
    | refine Does.iteSnd ?_ ?_
    | dsimp only

theorem State.toEngines_does (s ch sensor w) : Does [.one CLK_CUT_ERR, .one MGT_LOG_STAT, .faults, .reel, .mgt, .can, .queues] s (State.toEngines s ch sensor w) := by
  unfold State.toEngines
  repeat' with_reducible first
    | assumption
    | decide
    | exact Does.refl _ _
    | (intro x; first | (have _h : State := x; clear _h; clear_value (hx : x = _); refine Does.bind (l := [.one CLK_CUT_ERR, .one MGT_LOG_STAT, .faults, .reel, .mgt, .can, .queues]) (s := s) hx ?_ (fun _ => ?_)) | clear_value x)
    | lift_lets
    | (apply Does.step; on_goal 1 => first | apply State.launch_does)
    | refine State.each_does (fun s b => ?_) ?_
    | refine Does.ite ?_ ?_
    | refine Does.iteSnd ?_ ?_
    | split
    | dsimp only

theorem State.toD6_does (s ch sensor w) : Does [.one CLK_CUT_ERR, .one MGT_LOG_STAT, .faults, .reel, .mgt, .can, .queues] s (State.toD6 s ch sensor w) := by
  unfold State.toD6
  repeat' with_reducible first
    | assumption
    | decide
    | exact Does.refl _ _
    | (apply Does.step; on_goal 1 => first | apply State.launch_does)
    | refine Does.ite ?_ ?_
    | refine Does.iteSnd ?_ ?_
    | split
    | dsimp only

theorem State.slotEnd_does (s i t partner r) : Does [.one CLK_CUT_ERR, .one ADC_STAT, .row ADC_CORE_CHK, .row ADC_CH_LAST, .row ADC_CH_CNT, .row ADC_TS_LAST, .one INT_SAFE_CAUSE, .one MGT_LOG_STAT, .faults, .sys, .reel, .mgt, .can, .adc, .queues, .drawn] s (State.slotEnd s i t partner r) := by
  unfold State.slotEnd
  repeat' with_reducible first
    | assumption
    | decide
    | exact Does.refl _ _
    | (intro x; first | (have _h : State := x; clear _h; clear_value (hx : x = _); refine Does.bind (l := [.one CLK_CUT_ERR, .one ADC_STAT, .row ADC_CORE_CHK, .row ADC_CH_LAST, .row ADC_CH_CNT, .row ADC_TS_LAST, .one INT_SAFE_CAUSE, .one MGT_LOG_STAT, .faults, .sys, .reel, .mgt, .can, .adc, .queues, .drawn]) (s := s) hx ?_ (fun _ => ?_)) | (have _h : _ × State := x; clear _h; clear_value (hx : x = _); refine Does.bindSnd (l := [.one CLK_CUT_ERR, .one ADC_STAT, .row ADC_CORE_CHK, .row ADC_CH_LAST, .row ADC_CH_CNT, .row ADC_TS_LAST, .one INT_SAFE_CAUSE, .one MGT_LOG_STAT, .faults, .sys, .reel, .mgt, .can, .adc, .queues, .drawn]) (s := s) hx ?_ (fun _ => ?_)) | (have _h : Adc := x; clear _h; clear_value (hx : x = _); subst hx) | clear_value x)
    | lift_lets
    | (apply Does.step; on_goal 1 => first | apply State.openResult_does | apply State.convert_does | apply State.setLast_does | apply State.toD6_does | apply State.toEngines_does)
    | refine Does.ite ?_ ?_
    | refine Does.iteSnd ?_ ?_
    | split
    | (apply Does.step; on_goal 1 => first | (apply Does.adc <;> first | rfl | exact id | simp))
    | dsimp only

theorem execAdcSlot_does (i partner r s) : ∀ t, execAdcSlot i partner r s = .next t → Does [.one CLK_CUT_ERR, .one ADC_STAT, .row ADC_CORE_CHK, .row ADC_CH_LAST, .row ADC_CH_CNT, .row ADC_TS_LAST, .one INT_SAFE_CAUSE, .one MGT_LOG_STAT, .faults, .sys, .reel, .intg, .mgt, .can, .adc, .queues, .drawn] s t := by
  unfold execAdcSlot
  refine whenPowered_does ?_
  repeat' with_reducible first
    | assumption
    | decide
    | exact Does.refl _ _
    | (apply Does.step; on_goal 1 => first | apply State.slotEnd_does)
    | refine State.when_does (fun s => ?_) ?_
    | refine Does.ite ?_ ?_
    | refine Does.iteSnd ?_ ?_
    | split
    | dsimp only

theorem execStandbyConversion_does (j r s) : ∀ t, execStandbyConversion j r s = .next t → Does [.one CLK_CUT_ERR, .one ADC_STAT, .row ADC_CORE_CHK, .row ADC_CH_LAST, .row ADC_CH_CNT, .row ADC_TS_LAST, .one INT_SAFE_CAUSE, .one MGT_LOG_STAT, .faults, .sys, .reel, .intg, .mgt, .can, .adc, .queues, .drawn] s t := by
  unfold execStandbyConversion
  refine whenPowered_does ?_
  repeat' with_reducible first
    | assumption
    | decide
    | exact Does.refl _ _
    | (intro x; first | (have _h : State := x; clear _h; clear_value (hx : x = _); refine Does.bind (l := [.one CLK_CUT_ERR, .one ADC_STAT, .row ADC_CORE_CHK, .row ADC_CH_LAST, .row ADC_CH_CNT, .row ADC_TS_LAST, .one INT_SAFE_CAUSE, .one MGT_LOG_STAT, .faults, .sys, .reel, .intg, .mgt, .can, .adc, .queues, .drawn]) (s := s) hx ?_ (fun _ => ?_)) | (have _h : _ × State := x; clear _h; clear_value (hx : x = _); refine Does.bindSnd (l := [.one CLK_CUT_ERR, .one ADC_STAT, .row ADC_CORE_CHK, .row ADC_CH_LAST, .row ADC_CH_CNT, .row ADC_TS_LAST, .one INT_SAFE_CAUSE, .one MGT_LOG_STAT, .faults, .sys, .reel, .intg, .mgt, .can, .adc, .queues, .drawn]) (s := s) hx ?_ (fun _ => ?_)) | clear_value x)
    | lift_lets
    | (apply Does.step; on_goal 1 => first | apply State.openResult_does | apply State.convert_does | apply State.toD6_does | apply State.setLast_does)
    | refine State.when_does (fun s => ?_) ?_
    | refine Does.ite ?_ ?_
    | refine Does.iteSnd ?_ ?_
    | dsimp only

theorem State.refJudge_does (s k v expected) : Does [.one ADC_STAT, .row ADC_CORE_CHK, .one INT_SAFE_CAUSE, .one MGT_LOG_STAT, .faults, .sys, .reel, .mgt, .can, .adc] s (State.refJudge s k v expected) := by
  unfold State.refJudge
  repeat' with_reducible first
    | assumption
    | decide
    | exact Does.refl _ _
    | (intro x; first | (have _h : State := x; clear _h; clear_value (hx : x = _); refine Does.bind (l := [.one ADC_STAT, .row ADC_CORE_CHK, .one INT_SAFE_CAUSE, .one MGT_LOG_STAT, .faults, .sys, .reel, .mgt, .can, .adc]) (s := s) hx ?_ (fun _ => ?_)) | clear_value x)
    | lift_lets
    | (apply Does.step; on_goal 1 => first | exact State.put_does _ (ADC_CORE_CHK.LAST _) _ (by with_unfolding_all exact Field.has_row ADC_CORE_CHK (fun _ => rfl) _) | exact State.put_does _ (ADC_CORE_CHK.FAILS _) _ (by with_unfolding_all exact Field.has_row ADC_CORE_CHK (fun _ => rfl) _) | exact State.bump_does _ (ADC_CORE_CHK.TOTAL _) _ (by with_unfolding_all exact Field.has_row ADC_CORE_CHK (fun _ => rfl) _) | apply State.raise_does | apply State.coreFail_does)
    | refine Does.ite ?_ ?_
    | refine Does.iteSnd ?_ ?_
    | dsimp only

theorem execRefCheck_does (k r s) : ∀ t, execRefCheck k r s = .next t → Does [.one ADC_STAT, .row ADC_CORE_CHK, .row ADC_CH_CNT, .one INT_SAFE_CAUSE, .one MGT_LOG_STAT, .faults, .sys, .reel, .intg, .mgt, .can, .adc] s t := by
  unfold execRefCheck
  refine whenPowered_does ?_
  repeat' with_reducible first
    | assumption
    | decide
    | exact Does.refl _ _
    | (intro x; first | (have _h : State := x; clear _h; clear_value (hx : x = _); refine Does.bind (l := [.one ADC_STAT, .row ADC_CORE_CHK, .row ADC_CH_CNT, .one INT_SAFE_CAUSE, .one MGT_LOG_STAT, .faults, .sys, .reel, .intg, .mgt, .can, .adc]) (s := s) hx ?_ (fun _ => ?_)) | clear_value x)
    | lift_lets
    | (apply Does.step; on_goal 1 => first | apply State.coreFail_does | apply State.raise_does | apply State.refJudge_does | apply State.clip_does)
    | refine State.when_does (fun s => ?_) ?_
    | refine Does.ite ?_ ?_
    | refine Does.iteSnd ?_ ?_
    | split
    | dsimp only

theorem State.calStart_does (s k) : Does [.adc] s (State.calStart s k) := by
  unfold State.calStart
  repeat' with_reducible first
    | assumption
    | decide
    | exact Does.refl _ _
    | (intro x; first | (have _h : State := x; clear _h; clear_value (hx : x = _); refine Does.bind (l := [.adc]) (s := s) hx ?_ (fun _ => ?_)) | clear_value x)
    | lift_lets
    | (apply Does.step; on_goal 1 => first | apply State.modCore_does)
    | dsimp only

theorem State.writeInj_does (s v) : Does [.one ADC_INJ, .spi, .adc] s (State.writeInj s v) := by
  unfold State.writeInj
  repeat' with_reducible first
    | assumption
    | decide
    | exact Does.refl _ _
    | (intro x; first | (have _h : State := x; clear _h; clear_value (hx : x = _); refine Does.bind (l := [.one ADC_INJ, .spi, .adc]) (s := s) hx ?_ (fun _ => ?_)) | (have _h : Adc := x; clear _h; clear_value (hx : x = _); subst hx) | clear_value x)
    | lift_lets
    | (apply Does.step; on_goal 1 => first | exact State.put_does _ ADC_INJ.CORE _ (by with_unfolding_all exact Field.has_one ADC_INJ) | exact State.put_does _ ADC_INJ.MEMBER _ (by with_unfolding_all exact Field.has_one ADC_INJ) | exact State.put_does _ ADC_INJ.CHANNEL _ (by with_unfolding_all exact Field.has_one ADC_INJ) | exact State.put_does _ ADC_INJ.DONE _ (by with_unfolding_all exact Field.has_one ADC_INJ) | exact State.put_does _ ADC_INJ.BUSY _ (by with_unfolding_all exact Field.has_one ADC_INJ) | apply State.refuse_does)
    | refine State.when_does (fun s => ?_) ?_
    | refine Does.ite ?_ ?_
    | refine Does.iteSnd ?_ ?_
    | (apply Does.step; on_goal 1 => first | (apply Does.adc <;> first | rfl | exact id | simp))
    | dsimp only

theorem execInject_does (v s) : ∀ t, execInject v s = .next t → Does [.one ADC_INJ, .intg, .spi, .adc] s t := by
  unfold execInject
  refine hostAccess_does ?_
  repeat' with_reducible first
    | assumption
    | decide
    | exact Does.refl _ _
    | (apply Does.step; on_goal 1 => first | apply State.writeInj_does)
    | dsimp only

theorem State.injDone_does (s x r) : Does [.one ADC_STAT, .one ADC_INJ, .one ADC_INJ_RES, .row ADC_CORE_CHK, .row ADC_CH_CNT, .one INT_SAFE_CAUSE, .one MGT_LOG_STAT, .faults, .sys, .reel, .mgt, .can, .adc, .drawn] s (State.injDone s x r) := by
  unfold State.injDone
  repeat' with_reducible first
    | assumption
    | decide
    | exact Does.refl _ _
    | (intro x; first | (have _h : State := x; clear _h; clear_value (hx : x = _); refine Does.bind (l := [.one ADC_STAT, .one ADC_INJ, .one ADC_INJ_RES, .row ADC_CORE_CHK, .row ADC_CH_CNT, .one INT_SAFE_CAUSE, .one MGT_LOG_STAT, .faults, .sys, .reel, .mgt, .can, .adc, .drawn]) (s := s) hx ?_ (fun _ => ?_)) | (have _h : _ × State := x; clear _h; clear_value (hx : x = _); refine Does.bindSnd (l := [.one ADC_STAT, .one ADC_INJ, .one ADC_INJ_RES, .row ADC_CORE_CHK, .row ADC_CH_CNT, .one INT_SAFE_CAUSE, .one MGT_LOG_STAT, .faults, .sys, .reel, .mgt, .can, .adc, .drawn]) (s := s) hx ?_ (fun _ => ?_)) | (have _h : Adc := x; clear _h; clear_value (hx : x = _); subst hx) | clear_value x)
    | lift_lets
    | (apply Does.step; on_goal 1 => first | exact State.put_does _ ADC_INJ.BUSY _ (by with_unfolding_all exact Field.has_one ADC_INJ) | exact State.put_does _ ADC_INJ.DONE _ (by with_unfolding_all exact Field.has_one ADC_INJ) | exact State.setWord_does _ ADC_INJ_RES _ (by with_unfolding_all exact Field.has_one ADC_INJ_RES) | apply State.openResult_does | apply State.coreFail_does | apply State.raise_does | apply State.clip_does | apply State.calStart_does)
    | refine State.when_does (fun s => ?_) ?_
    | split
    | (apply Does.step; on_goal 1 => first | (apply Does.adc <;> first | rfl | exact id | simp))
    | dsimp only

theorem execInjectRun_does (r s) : ∀ t, execInjectRun r s = .next t → Does [.one ADC_STAT, .one ADC_INJ, .one ADC_INJ_RES, .row ADC_CORE_CHK, .row ADC_CH_CNT, .one INT_SAFE_CAUSE, .one MGT_LOG_STAT, .faults, .sys, .reel, .intg, .mgt, .can, .adc, .drawn] s t := by
  unfold execInjectRun
  refine whenPowered_does ?_
  repeat' with_reducible first
    | assumption
    | decide
    | exact Does.refl _ _
    | (apply Does.step; on_goal 1 => first | apply State.injDone_does)
    | refine State.when_does (fun s => ?_) ?_
    | refine Does.ite ?_ ?_
    | refine Does.iteSnd ?_ ?_
    | split
    | dsimp only

theorem State.writeCal_does (s v) : Does [.one ADC_STAT, .one ADC_CAL, .spi, .adc] s (State.writeCal s v) := by
  unfold State.writeCal
  repeat' with_reducible first
    | assumption
    | decide
    | exact Does.refl _ _
    | (intro x; first | (have _h : State := x; clear _h; clear_value (hx : x = _); refine Does.bind (l := [.one ADC_STAT, .one ADC_CAL, .spi, .adc]) (s := s) hx ?_ (fun _ => ?_)) | clear_value x)
    | lift_lets
    | (apply Does.step; on_goal 1 => first | exact State.put_does _ ADC_CAL.DONE _ (by with_unfolding_all exact Field.has_one ADC_CAL) | exact State.putBit_does _ ADC_STAT.CAL_BUSY _ _ (by with_unfolding_all exact Field.has_one ADC_STAT) | apply State.refuse_does | apply State.modCore_does | apply State.calStart_does)
    | refine State.each_does (fun s b => ?_) ?_
    | refine Does.ite ?_ ?_
    | refine Does.iteSnd ?_ ?_
    | dsimp only

theorem execCalRequest_does (m s) : ∀ t, execCalRequest m s = .next t → Does [.one ADC_STAT, .one ADC_CAL, .intg, .spi, .adc] s t := by
  unfold execCalRequest
  refine hostAccess_does ?_
  repeat' with_reducible first
    | assumption
    | decide
    | exact Does.refl _ _
    | (apply Does.step; on_goal 1 => first | apply State.writeCal_does)
    | dsimp only

theorem State.roundQ_does (s a b) : Does [.drawn] s (State.roundQ s a b).2 := by
  unfold State.roundQ
  repeat' with_reducible first
    | assumption
    | decide
    | exact Does.refl _ _
    | (intro x; first | (have _h : State := x; clear _h; clear_value (hx : x = _); refine Does.bind (l := [.drawn]) (s := s) hx ?_ (fun _ => ?_)) | (have _h : _ × State := x; clear _h; clear_value (hx : x = _); refine Does.bindSnd (l := [.drawn]) (s := s) hx ?_ (fun _ => ?_)) | clear_value x)
    | lift_lets
    | (apply Does.step; on_goal 1 => first | apply State.draw_does)
    | refine Does.ite ?_ ?_
    | refine Does.iteSnd ?_ ?_
    | dsimp only

theorem State.calTrims_does (s mid hi) : Does [.drawn] s (State.calTrims s mid hi).2 := by
  unfold State.calTrims
  repeat' with_reducible first
    | assumption
    | decide
    | exact Does.refl _ _
    | (intro x; first | (have _h : State := x; clear _h; clear_value (hx : x = _); refine Does.bind (l := [.drawn]) (s := s) hx ?_ (fun _ => ?_)) | (have _h : _ × State := x; clear _h; clear_value (hx : x = _); refine Does.bindSnd (l := [.drawn]) (s := s) hx ?_ (fun _ => ?_)) | clear_value x)
    | lift_lets
    | (apply Does.step; on_goal 1 => first | apply State.roundQ_does)
    | refine Does.ite ?_ ?_
    | refine Does.iteSnd ?_ ?_
    | dsimp only

theorem State.injRelease_does (s k) : Does [.adc] s (State.injRelease s k) := by
  unfold State.injRelease
  repeat' with_reducible first
    | assumption
    | decide
    | exact Does.refl _ _
    | (intro x; first | (have _h : State := x; clear _h; clear_value (hx : x = _); refine Does.bind (l := [.adc]) (s := s) hx ?_ (fun _ => ?_)) | (have _h : Adc := x; clear _h; clear_value (hx : x = _); subst hx) | clear_value x)
    | lift_lets
    | refine Does.ite ?_ ?_
    | refine Does.iteSnd ?_ ?_
    | (apply Does.step; on_goal 1 => first | (apply Does.adc <;> first | rfl | exact id | simp))
    | dsimp only

theorem State.calEffect_does (s k) : Does [.one ADC_STAT, .row ADC_CORE_TRIM, .adc] s (State.calEffect s k) := by
  unfold State.calEffect
  repeat' with_reducible first
    | assumption
    | decide
    | exact Does.refl _ _
    | (intro x; first | (have _h : State := x; clear _h; clear_value (hx : x = _); refine Does.bind (l := [.one ADC_STAT, .row ADC_CORE_TRIM, .adc]) (s := s) hx ?_ (fun _ => ?_)) | clear_value x)
    | lift_lets
    | (apply Does.step; on_goal 1 => first | exact State.putBit_does _ ADC_STAT.CORE_OK _ _ (by with_unfolding_all exact Field.has_one ADC_STAT) | exact State.put_does _ (ADC_CORE_TRIM.GAIN _) _ (by with_unfolding_all exact Field.has_row ADC_CORE_TRIM (fun _ => rfl) _) | exact State.put_does _ (ADC_CORE_TRIM.OFS _) _ (by with_unfolding_all exact Field.has_row ADC_CORE_TRIM (fun _ => rfl) _) | apply State.modCore_does | apply State.injRelease_does)
    | refine State.when_does (fun s => ?_) ?_
    | split
    | dsimp only

theorem execCalDone_does (k mid hi s) : ∀ t, execCalDone k mid hi s = .next t → Does [.one ADC_STAT, .one ADC_CAL, .row ADC_CORE_TRIM, .row ADC_CORE_CHK, .one INT_SAFE_CAUSE, .one MGT_LOG_STAT, .faults, .sys, .reel, .intg, .mgt, .can, .adc, .drawn] s t := by
  unfold execCalDone
  refine whenPowered_does ?_
  repeat' with_reducible first
    | assumption
    | decide
    | exact Does.refl _ _
    | (intro x; first | (have _h : State := x; clear _h; clear_value (hx : x = _); refine Does.bind (l := [.one ADC_STAT, .one ADC_CAL, .row ADC_CORE_TRIM, .row ADC_CORE_CHK, .one INT_SAFE_CAUSE, .one MGT_LOG_STAT, .faults, .sys, .reel, .intg, .mgt, .can, .adc, .drawn]) (s := s) hx ?_ (fun _ => ?_)) | (have _h : _ × State := x; clear _h; clear_value (hx : x = _); refine Does.bindSnd (l := [.one ADC_STAT, .one ADC_CAL, .row ADC_CORE_TRIM, .row ADC_CORE_CHK, .one INT_SAFE_CAUSE, .one MGT_LOG_STAT, .faults, .sys, .reel, .intg, .mgt, .can, .adc, .drawn]) (s := s) hx ?_ (fun _ => ?_)) | clear_value x)
    | lift_lets
    | (apply Does.step; on_goal 1 => first | exact State.putBit_does _ ADC_CAL.DONE _ _ (by with_unfolding_all exact Field.has_one ADC_CAL) | exact State.putBit_does _ ADC_STAT.CAL_BUSY _ _ (by with_unfolding_all exact Field.has_one ADC_STAT) | apply State.modCore_does | apply State.calTrims_does | apply State.coreFail_does | apply State.raise_does | apply State.calEffect_does)
    | refine State.when_does (fun s => ?_) ?_
    | refine Does.ite ?_ ?_
    | refine Does.iteSnd ?_ ?_
    | split
    | dsimp only

theorem State.calBoot_does (s) : Does [.one ADC_STAT, .adc] s (State.calBoot s) := by
  unfold State.calBoot
  repeat' with_reducible first
    | assumption
    | decide
    | exact Does.refl _ _
    | (apply Does.step; on_goal 1 => first | exact State.putBit_does _ ADC_STAT.CAL_BUSY _ _ (by with_unfolding_all exact Field.has_one ADC_STAT) | apply State.calStart_does)
    | refine State.each_does (fun s b => ?_) ?_
    | dsimp only

theorem State.calResume_does (s k) : Does [.one ADC_STAT, .row ADC_CORE_TRIM, .adc] s (State.calResume s k) := by
  unfold State.calResume
  repeat' with_reducible first
    | assumption
    | decide
    | exact Does.refl _ _
    | (intro x; first | (have _h : State := x; clear _h; clear_value (hx : x = _); refine Does.bind (l := [.one ADC_STAT, .row ADC_CORE_TRIM, .adc]) (s := s) hx ?_ (fun _ => ?_)) | (have _h : Adc := x; clear _h; clear_value (hx : x = _); subst hx) | clear_value x)
    | lift_lets
    | (apply Does.step; on_goal 1 => first | exact State.put_does _ ADC_STAT.CAL_STANDIN _ (by with_unfolding_all exact Field.has_one ADC_STAT) | apply State.calEffect_does)
    | refine State.when_does (fun s => ?_) ?_
    | refine Does.ite ?_ ?_
    | refine Does.iteSnd ?_ ?_
    | (apply Does.step; on_goal 1 => first | (apply Does.adc <;> first | rfl | exact id | simp))
    | dsimp only

theorem State.takeCore_does (s k) : Does [.one ADC_STAT, .one INT_DEG_CAUSE, .one INT_SAFE_CAUSE, .one MGT_LOG_STAT, .faults, .sys, .reel, .mgt, .can, .adc] s (State.takeCore s k) := by
  unfold State.takeCore
  repeat' with_reducible first
    | assumption
    | decide
    | exact Does.refl _ _
    | (intro x; first | (have _h : State := x; clear _h; clear_value (hx : x = _); refine Does.bind (l := [.one ADC_STAT, .one INT_DEG_CAUSE, .one INT_SAFE_CAUSE, .one MGT_LOG_STAT, .faults, .sys, .reel, .mgt, .can, .adc]) (s := s) hx ?_ (fun _ => ?_)) | clear_value x)
    | lift_lets
    | (apply Does.step; on_goal 1 => first | exact State.putBit_does _ INT_DEG_CAUSE.CAUSE _ _ (by with_unfolding_all exact Field.has_one INT_DEG_CAUSE) | exact State.put_does _ ADC_STAT.SUB_FOR _ (by with_unfolding_all exact Field.has_one ADC_STAT) | exact State.put_does _ ADC_STAT.SUB _ (by with_unfolding_all exact Field.has_one ADC_STAT) | apply State.modCore_does | apply State.safeCause_does | apply State.raise_does)
    | refine Does.ite ?_ ?_
    | refine Does.iteSnd ?_ ?_
    | dsimp only

theorem State.calNext_does (s k) : Does [.one ADC_STAT, .adc] s (State.calNext s k) := by
  unfold State.calNext
  repeat' with_reducible first
    | assumption
    | decide
    | exact Does.refl _ _
    | (intro x; first | (have _h : State := x; clear _h; clear_value (hx : x = _); refine Does.bind (l := [.one ADC_STAT, .adc]) (s := s) hx ?_ (fun _ => ?_)) | (have _h : Adc := x; clear _h; clear_value (hx : x = _); subst hx) | clear_value x)
    | lift_lets
    | (apply Does.step; on_goal 1 => first | exact State.put_does _ ADC_STAT.CAL_STANDIN _ (by with_unfolding_all exact Field.has_one ADC_STAT) | apply State.calStart_does)
    | refine Does.ite ?_ ?_
    | refine Does.iteSnd ?_ ?_
    | (apply Does.step; on_goal 1 => first | (apply Does.adc <;> first | rfl | exact id | simp))
    | dsimp only

theorem State.adcApply_does (s) : Does [.one ADC_STAT, .row ADC_CORE_TRIM, .one INT_DEG_CAUSE, .one INT_SAFE_CAUSE, .one MGT_LOG_STAT, .faults, .sys, .reel, .mgt, .can, .adc] s (State.adcApply s) := by
  unfold State.adcApply
  repeat' with_reducible first
    | assumption
    | decide
    | exact Does.refl _ _
    | (intro x; first | (have _h : State := x; clear _h; clear_value (hx : x = _); refine Does.bind (l := [.one ADC_STAT, .row ADC_CORE_TRIM, .one INT_DEG_CAUSE, .one INT_SAFE_CAUSE, .one MGT_LOG_STAT, .faults, .sys, .reel, .mgt, .can, .adc]) (s := s) hx ?_ (fun _ => ?_)) | clear_value x)
    | lift_lets
    | (apply Does.step; on_goal 1 => first | apply State.calResume_does | apply State.takeCore_does | apply State.calNext_does)
    | refine State.each_does (fun s b => ?_) ?_
    | dsimp only

theorem State.adcFrame_does (s) : Does [.adc] s (State.adcFrame s) := by
  unfold State.adcFrame
  repeat' with_reducible first
    | assumption
    | decide
    | exact Does.refl _ _
    | (intro x; first | (have _h : State := x; clear _h; clear_value (hx : x = _); refine Does.bind (l := [.adc]) (s := s) hx ?_ (fun _ => ?_)) | (have _h : Adc := x; clear _h; clear_value (hx : x = _); subst hx) | clear_value x)
    | lift_lets
    | (apply Does.step; on_goal 1 => first | (apply Does.adc <;> first | rfl | exact id | simp))
    | dsimp only

theorem State.resettle_does (s u gain filt) : Does [.row ADC_CH_CNT, .adc] s (State.resettle s u gain filt) := by
  unfold State.resettle
  repeat' with_reducible first
    | assumption
    | decide
    | exact Does.refl _ _
    | (intro x; first | (have _h : State := x; clear _h; clear_value (hx : x = _); refine Does.bind (l := [.row ADC_CH_CNT, .adc]) (s := s) hx ?_ (fun _ => ?_)) | clear_value x)
    | lift_lets
    | (apply Does.step; on_goal 1 => first | apply State.showSettle_does | apply State.modUnit_does)
    | dsimp only

theorem State.adcApplied_does (s a old) : Does [.row ADC_CH_CNT, .adc] s (State.adcApplied s a old) := by
  unfold State.adcApplied
  repeat' with_reducible first
    | assumption
    | decide
    | exact Does.refl _ _
    | (intro x; first | (have _h : State := x; clear _h; clear_value (hx : x = _); refine Does.bind (l := [.row ADC_CH_CNT, .adc]) (s := s) hx ?_ (fun _ => ?_)) | clear_value x)
    | lift_lets
    | (apply Does.step; on_goal 1 => first | apply State.resettle_does)
    | refine State.each_does (fun s b => ?_) ?_
    | refine Does.ite ?_ ?_
    | refine Does.iteSnd ?_ ?_
    | dsimp only

theorem State.adcStandby_does (s) : Does [.adc] s (State.adcStandby s) := by
  unfold State.adcStandby
  repeat' with_reducible first
    | assumption
    | decide
    | exact Does.refl _ _
    | (intro x; first | (have _h : State := x; clear _h; clear_value (hx : x = _); refine Does.bind (l := [.adc]) (s := s) hx ?_ (fun _ => ?_)) | clear_value x)
    | lift_lets
    | (apply Does.step; on_goal 1 => first | apply State.modUnit_does)
    | refine State.each_does (fun s b => ?_) ?_
    | dsimp only

theorem State.adcLoad_does (s) : Does [.row ADC_CH_CFG, .row ADC_CH_CORR, .row ADC_TS_CORR, .row ADC_TS_CFG] s (State.adcLoad s) := by
  unfold State.adcLoad
  repeat' with_reducible first
    | assumption
    | decide
    | exact Does.refl _ _
    | (intro x; first | (have _h : State := x; clear _h; clear_value (hx : x = _); refine Does.bind (l := [.row ADC_CH_CFG, .row ADC_CH_CORR, .row ADC_TS_CORR, .row ADC_TS_CFG]) (s := s) hx ?_ (fun _ => ?_)) | clear_value x)
    | lift_lets
    | (apply Does.step; on_goal 1 => first | exact State.put_does _ (ADC_TS_CFG.FILT _) _ (by with_unfolding_all exact Field.has_row ADC_TS_CFG (fun _ => rfl) _) | exact State.put_does _ (ADC_CH_CFG.FILT _) _ (by with_unfolding_all exact Field.has_row ADC_CH_CFG (fun _ => rfl) _) | exact State.put_does _ (ADC_CH_CFG.GAIN _) _ (by with_unfolding_all exact Field.has_row ADC_CH_CFG (fun _ => rfl) _) | exact State.setWord_does _ (ADC_CH_CORR _) _ (by with_unfolding_all exact Field.has_row ADC_CH_CORR (fun _ => rfl) _) | exact State.setWord_does _ (ADC_TS_CORR _) _ (by with_unfolding_all exact Field.has_row ADC_TS_CORR (fun _ => rfl) _))
    | refine State.each_does (fun s b => ?_) ?_
    | refine Does.ite ?_ ?_
    | refine Does.iteSnd ?_ ?_
    | dsimp only

end Sys2Proof.Machine
end

