-- ==== Sys2Proof/Laws/Chn.lean ====
section
/-!
SUPPORT. What each operation of Sys2Proof/Machine/Chn.lean can do at most.
-/

-- One proof after the other: as one text the package would otherwise ask for more threads than there is memory for.
set_option Elab.async false
namespace Sys2Proof.Machine

theorem State.chainCause_does (s b) : Does [.one INT_DEG_CAUSE] s (State.chainCause s b) := by
  unfold State.chainCause
  repeat' with_reducible first
    | assumption
    | decide
    | exact Does.refl _ _
    | (apply Does.step; on_goal 1 => first | exact State.putBit_does _ INT_DEG_CAUSE.CAUSE _ _ (by with_unfolding_all exact Field.has_one INT_DEG_CAUSE))
    | dsimp only

theorem execClap_does (s) : ∀ t, execClap s = .next t → Does [.clk, .intg, .chn] s t := by
  unfold execClap
  refine whenPowered_does ?_
  repeat' with_reducible first
    | assumption
    | decide
    | exact Does.refl _ _
    | (intro x; first | (have _h : State := x; clear _h; clear_value (hx : x = _); refine Does.bind (l := [.clk, .intg, .chn]) (s := s) hx ?_ (fun _ => ?_)) | (have _h : Chn := x; clear _h; clear_value (hx : x = _); subst hx) | clear_value x)
    | lift_lets
    | (apply Does.step; on_goal 1 => first | apply State.advanceTo_does)
    | refine State.when_does (fun s => ?_) ?_
    | refine Does.ite ?_ ?_
    | refine Does.iteSnd ?_ ?_
    | (apply Does.step; on_goal 1 => first | (apply Does.chn <;> first | rfl | exact id | simp))
    | dsimp only

theorem State.chLock_does (s) : Does [.one INT_DEG_CAUSE, .one CHN_STAT, .chn] s (State.chLock s) := by
  unfold State.chLock
  repeat' with_reducible first
    | assumption
    | decide
    | exact Does.refl _ _
    | (intro x; first | (have _h : State := x; clear _h; clear_value (hx : x = _); refine Does.bind (l := [.one INT_DEG_CAUSE, .one CHN_STAT, .chn]) (s := s) hx ?_ (fun _ => ?_)) | (have _h : Chn := x; clear _h; clear_value (hx : x = _); subst hx) | clear_value x)
    | lift_lets
    | (apply Does.step; on_goal 1 => first | exact State.put_does _ CHN_STAT.STATE _ (by with_unfolding_all exact Field.has_one CHN_STAT) | apply State.chainCause_does)
    | refine Does.ite ?_ ?_
    | refine Does.iteSnd ?_ ?_
    | (apply Does.step; on_goal 1 => first | (apply Does.chn <;> first | rfl | exact id | simp))
    | dsimp only

theorem State.chJudge_does (s e) : Does [.one INT_DEG_CAUSE, .one MGT_LOG_STAT, .one CHN_STAT, .faults, .reel, .mgt, .can, .chn] s (State.chJudge s e) := by
  unfold State.chJudge
  repeat' with_reducible first
    | assumption
    | decide
    | exact Does.refl _ _
    | (intro x; first | (have _h : State := x; clear _h; clear_value (hx : x = _); refine Does.bind (l := [.one INT_DEG_CAUSE, .one MGT_LOG_STAT, .one CHN_STAT, .faults, .reel, .mgt, .can, .chn]) (s := s) hx ?_ (fun _ => ?_)) | (have _h : Chn := x; clear _h; clear_value (hx : x = _); subst hx) | clear_value x)
    | lift_lets
    | (apply Does.step; on_goal 1 => first | exact State.put_does _ CHN_STAT.STATE _ (by with_unfolding_all exact Field.has_one CHN_STAT) | apply State.chLock_does | apply State.raise_does)
    | refine Does.ite ?_ ?_
    | refine Does.iteSnd ?_ ?_
    | (apply Does.step; on_goal 1 => first | (apply Does.chn <;> first | rfl | exact id | simp))
    | dsimp only

theorem State.chMeasure_does (s) : Does [.waiting, .chn, .drawn] s (State.chMeasure s) := by
  unfold State.chMeasure
  repeat' with_reducible first
    | assumption
    | decide
    | exact Does.refl _ _
    | (intro x; first | (have _h : State := x; clear _h; clear_value (hx : x = _); refine Does.bind (l := [.waiting, .chn, .drawn]) (s := s) hx ?_ (fun _ => ?_)) | (have _h : _ × State := x; clear _h; clear_value (hx : x = _); refine Does.bindSnd (l := [.waiting, .chn, .drawn]) (s := s) hx ?_ (fun _ => ?_)) | (have _h : Chn := x; clear _h; clear_value (hx : x = _); subst hx) | clear_value x)
    | lift_lets
    | (apply Does.step; on_goal 1 => first | apply State.draw_does | apply State.await_does)
    | refine Does.ite ?_ ?_
    | refine Does.iteSnd ?_ ?_
    | split
    | (apply Does.step; on_goal 1 => first | (apply Does.chn <;> first | rfl | exact id | simp))
    | dsimp only

theorem State.chPlace_does (s e cut jump) : Does [.clk, .chn] s (State.chPlace s e cut jump) := by
  unfold State.chPlace
  repeat' with_reducible first
    | assumption
    | decide
    | exact Does.refl _ _
    | (intro x; first | (have _h : State := x; clear _h; clear_value (hx : x = _); refine Does.bind (l := [.clk, .chn]) (s := s) hx ?_ (fun _ => ?_)) | (have _h : Chn := x; clear _h; clear_value (hx : x = _); subst hx) | clear_value x)
    | lift_lets
    | refine Does.ite ?_ ?_
    | refine Does.iteSnd ?_ ?_
    | (apply Does.step; on_goal 1 => first | apply Does.clk | (apply Does.chn <;> first | rfl | exact id | simp))
    | with_unfolding_all exact Does.ofOnly (by rintro ⟨⟩ hk <;> first | rfl | trivial | exact absurd (by decide) hk) (fun _ _ => rfl) (fun h => { h with })
    | (refine Does.trans (by assumption) ?_; with_unfolding_all exact Does.ofOnly (by rintro ⟨⟩ hk <;> first | rfl | trivial | exact absurd (by decide) hk) (fun _ _ => rfl) (fun h => { h with }))
    | dsimp only

theorem execClapEdge_does (s) : ∀ t, execClapEdge s = .next t → Does [.one INT_DEG_CAUSE, .one MGT_LOG_STAT, .one CHN_STAT, .one CHN_PHASE, .faults, .waiting, .clk, .reel, .intg, .mgt, .can, .chn, .drawn] s t := by
  unfold execClapEdge
  refine whenPowered_does ?_
  repeat' with_reducible first
    | assumption
    | decide
    | exact Does.refl _ _
    | (intro x; first | (have _h : State := x; clear _h; clear_value (hx : x = _); refine Does.bind (l := [.one INT_DEG_CAUSE, .one MGT_LOG_STAT, .one CHN_STAT, .one CHN_PHASE, .faults, .waiting, .clk, .reel, .intg, .mgt, .can, .chn, .drawn]) (s := s) hx ?_ (fun _ => ?_)) | clear_value x)
    | lift_lets
    | (apply Does.step; on_goal 1 => first | exact State.put_does _ CHN_PHASE.E _ (by with_unfolding_all exact Field.has_one CHN_PHASE) | apply State.chMeasure_does | apply State.chJudge_does | apply State.chPlace_does)
    | refine State.when_does (fun s => ?_) ?_
    | refine Does.ite ?_ ?_
    | refine Does.iteSnd ?_ ?_
    | dsimp only

theorem execClapMiss_does (s) : ∀ t, execClapMiss s = .next t → Does [.one MGT_LOG_STAT, .one CHN_STAT, .faults, .reel, .intg, .mgt, .can, .chn] s t := by
  unfold execClapMiss
  refine whenPowered_does ?_
  repeat' with_reducible first
    | assumption
    | decide
    | exact Does.refl _ _
    | (intro x; first | (have _h : State := x; clear _h; clear_value (hx : x = _); refine Does.bind (l := [.one MGT_LOG_STAT, .one CHN_STAT, .faults, .reel, .intg, .mgt, .can, .chn]) (s := s) hx ?_ (fun _ => ?_)) | (have _h : Chn := x; clear _h; clear_value (hx : x = _); subst hx) | clear_value x)
    | lift_lets
    | (apply Does.step; on_goal 1 => first | exact State.put_does _ CHN_STAT.STATE _ (by with_unfolding_all exact Field.has_one CHN_STAT) | apply State.raise_does)
    | refine State.when_does (fun s => ?_) ?_
    | refine Does.ite ?_ ?_
    | refine Does.iteSnd ?_ ?_
    | (apply Does.step; on_goal 1 => first | (apply Does.chn <;> first | rfl | exact id | simp))
    | dsimp only

theorem execClapLost_does (s) : ∀ t, execClapLost s = .next t → Does [.one INT_DEG_CAUSE, .one MGT_LOG_STAT, .one CHN_STAT, .faults, .reel, .intg, .mgt, .can, .chn] s t := by
  unfold execClapLost
  refine whenPowered_does ?_
  repeat' with_reducible first
    | assumption
    | decide
    | exact Does.refl _ _
    | (intro x; first | (have _h : State := x; clear _h; clear_value (hx : x = _); refine Does.bind (l := [.one INT_DEG_CAUSE, .one MGT_LOG_STAT, .one CHN_STAT, .faults, .reel, .intg, .mgt, .can, .chn]) (s := s) hx ?_ (fun _ => ?_)) | (have _h : Chn := x; clear _h; clear_value (hx : x = _); subst hx) | clear_value x)
    | lift_lets
    | (apply Does.step; on_goal 1 => first | exact State.put_does _ CHN_STAT.STATE _ (by with_unfolding_all exact Field.has_one CHN_STAT) | apply State.chainCause_does | apply State.raise_does)
    | refine State.when_does (fun s => ?_) ?_
    | refine Does.ite ?_ ?_
    | refine Does.iteSnd ?_ ?_
    | (apply Does.step; on_goal 1 => first | (apply Does.chn <;> first | rfl | exact id | simp))
    | dsimp only

theorem execChainWindow_does (changed s) : ∀ t, execChainWindow changed s = .next t → Does [.one MGT_LOG_STAT, .faults, .clk, .reel, .intg, .mgt, .can, .chn] s t := by
  unfold execChainWindow
  refine whenPowered_does ?_
  repeat' with_reducible first
    | assumption
    | decide
    | exact Does.refl _ _
    | (intro x; first | (have _h : State := x; clear _h; clear_value (hx : x = _); refine Does.bind (l := [.one MGT_LOG_STAT, .faults, .clk, .reel, .intg, .mgt, .can, .chn]) (s := s) hx ?_ (fun _ => ?_)) | (have _h : Chn := x; clear _h; clear_value (hx : x = _); subst hx) | clear_value x)
    | lift_lets
    | (apply Does.step; on_goal 1 => first | apply State.advanceTo_does | apply State.raise_does)
    | refine State.when_does (fun s => ?_) ?_
    | refine Does.ite ?_ ?_
    | refine Does.iteSnd ?_ ?_
    | (apply Does.step; on_goal 1 => first | (apply Does.chn <;> first | rfl | exact id | simp))
    | dsimp only

theorem State.modChDev_does (s k f) : Does [.chn] s (State.modChDev s k f) := by
  unfold State.modChDev
  repeat' with_reducible first
    | assumption
    | decide
    | exact Does.refl _ _
    | (intro x; first | (have _h : State := x; clear _h; clear_value (hx : x = _); refine Does.bind (l := [.chn]) (s := s) hx ?_ (fun _ => ?_)) | (have _h : Chn := x; clear _h; clear_value (hx : x = _); subst hx) | clear_value x)
    | lift_lets
    | (apply Does.step; on_goal 1 => first | (apply Does.chn <;> first | rfl | exact id | simp))
    | dsimp only

theorem State.learn_does (s k j id) : Does [.one MGT_LOG_STAT, .row CHN_RMAP, .faults, .reel, .mgt, .can, .chn] s (State.learn s k j id) := by
  unfold State.learn
  repeat' with_reducible first
    | assumption
    | decide
    | exact Does.refl _ _
    | (intro x; first | (have _h : State := x; clear _h; clear_value (hx : x = _); refine Does.bind (l := [.one MGT_LOG_STAT, .row CHN_RMAP, .faults, .reel, .mgt, .can, .chn]) (s := s) hx ?_ (fun _ => ?_)) | clear_value x)
    | lift_lets
    | (apply Does.step; on_goal 1 => first | exact State.put_does _ ⟨(CHN_RMAP _), _, _⟩ _ (by with_unfolding_all exact Field.has_row CHN_RMAP (fun _ => rfl) _) | apply State.raise_does | apply State.modChDev_does)
    | refine Does.ite ?_ ?_
    | refine Does.iteSnd ?_ ?_
    | dsimp only

theorem State.takeRecord_does (s k l) : Does [.one MGT_LOG_STAT, .one CHN_STAT, .row CHN_RMAP, .faults, .reel, .mgt, .can, .chn] s (State.takeRecord s k l) := by
  unfold State.takeRecord
  repeat' with_reducible first
    | assumption
    | decide
    | exact Does.refl _ _
    | (intro x; first | (have _h : State := x; clear _h; clear_value (hx : x = _); refine Does.bind (l := [.one MGT_LOG_STAT, .one CHN_STAT, .row CHN_RMAP, .faults, .reel, .mgt, .can, .chn]) (s := s) hx ?_ (fun _ => ?_)) | (have _h : Chn := x; clear _h; clear_value (hx : x = _); subst hx) | clear_value x)
    | lift_lets
    | (apply Does.step; on_goal 1 => first | exact State.putBit_does _ CHN_STAT.SEEN _ _ (by with_unfolding_all exact Field.has_one CHN_STAT) | apply State.learn_does | apply State.modChDev_does)
    | refine Does.ite ?_ ?_
    | refine Does.iteSnd ?_ ?_
    | (apply Does.step; on_goal 1 => first | (apply Does.chn <;> first | rfl | exact id | simp))
    | dsimp only

theorem execChainRecord_does (k l s) : ∀ t, execChainRecord k l s = .next t → Does [.one MGT_LOG_STAT, .one CHN_STAT, .one CHN_CNT, .row CHN_RMAP, .faults, .reel, .intg, .mgt, .can, .chn] s t := by
  unfold execChainRecord
  refine whenPowered_does ?_
  repeat' with_reducible first
    | assumption
    | decide
    | exact Does.refl _ _
    | (intro x; first | (have _h : State := x; clear _h; clear_value (hx : x = _); refine Does.bind (l := [.one MGT_LOG_STAT, .one CHN_STAT, .one CHN_CNT, .row CHN_RMAP, .faults, .reel, .intg, .mgt, .can, .chn]) (s := s) hx ?_ (fun _ => ?_)) | (have _h : Chn := x; clear _h; clear_value (hx : x = _); subst hx) | clear_value x)
    | lift_lets
    | (apply Does.step; on_goal 1 => first | exact State.bump_does _ CHN_CNT.ABORT _ (by with_unfolding_all exact Field.has_one CHN_CNT) | exact State.bump_does _ CHN_CNT.ABSENT _ (by with_unfolding_all exact Field.has_one CHN_CNT) | exact State.bump_does _ CHN_CNT.CRC _ (by with_unfolding_all exact Field.has_one CHN_CNT) | apply State.raise_does | apply State.takeRecord_does)
    | refine State.when_does (fun s => ?_) ?_
    | refine Does.ite ?_ ?_
    | refine Does.iteSnd ?_ ?_
    | (apply Does.step; on_goal 1 => first | (apply Does.chn <;> first | rfl | exact id | simp))
    | dsimp only

theorem execPosConflict_does (s) : ∀ t, execPosConflict s = .next t → Does [.one INT_DEG_CAUSE, .one MGT_LOG_STAT, .one CHN_STAT, .faults, .reel, .intg, .mgt, .can, .chn] s t := by
  unfold execPosConflict
  refine whenPowered_does ?_
  repeat' with_reducible first
    | assumption
    | decide
    | exact Does.refl _ _
    | (intro x; first | (have _h : State := x; clear _h; clear_value (hx : x = _); refine Does.bind (l := [.one INT_DEG_CAUSE, .one MGT_LOG_STAT, .one CHN_STAT, .faults, .reel, .intg, .mgt, .can, .chn]) (s := s) hx ?_ (fun _ => ?_)) | (have _h : Chn := x; clear _h; clear_value (hx : x = _); subst hx) | clear_value x)
    | lift_lets
    | (apply Does.step; on_goal 1 => first | exact State.put_does _ CHN_STAT.TX_OFF _ (by with_unfolding_all exact Field.has_one CHN_STAT) | apply State.chainCause_does | apply State.raise_does)
    | refine State.when_does (fun s => ?_) ?_
    | refine Does.ite ?_ ?_
    | refine Does.iteSnd ?_ ?_
    | (apply Does.step; on_goal 1 => first | (apply Does.chn <;> first | rfl | exact id | simp))
    | dsimp only

theorem State.hostInWindow_does (s) : Does [.one MGT_LOG_STAT, .faults, .reel, .mgt, .can, .spi] s (State.hostInWindow s) := by
  unfold State.hostInWindow
  repeat' with_reducible first
    | assumption
    | decide
    | exact Does.refl _ _
    | (intro x; first | (have _h : State := x; clear _h; clear_value (hx : x = _); refine Does.bind (l := [.one MGT_LOG_STAT, .faults, .reel, .mgt, .can, .spi]) (s := s) hx ?_ (fun _ => ?_)) | clear_value x)
    | lift_lets
    | (apply Does.step; on_goal 1 => first | apply State.raise_does)
    | refine Does.ite ?_ ?_
    | refine Does.iteSnd ?_ ?_
    | (apply Does.step; on_goal 1 => first | apply Does.spi)
    | dsimp only

theorem execHostInWindow_does (s) : ∀ t, execHostInWindow s = .next t → Does [.one MGT_LOG_STAT, .faults, .reel, .intg, .mgt, .can, .spi] s t := by
  unfold execHostInWindow
  refine whenPowered_does ?_
  repeat' with_reducible first
    | assumption
    | decide
    | exact Does.refl _ _
    | (apply Does.step; on_goal 1 => first | apply State.hostInWindow_does)
    | refine State.when_does (fun s => ?_) ?_
    | dsimp only

theorem execQTimeout_does (k s) : ∀ t, execQTimeout k s = .next t → Does [.intg, .chn] s t := by
  unfold execQTimeout
  refine whenPowered_does ?_
  repeat' with_reducible first
    | assumption
    | decide
    | exact Does.refl _ _
    | (intro x; first | (have _h : State := x; clear _h; clear_value (hx : x = _); refine Does.bind (l := [.intg, .chn]) (s := s) hx ?_ (fun _ => ?_)) | clear_value x)
    | lift_lets
    | (apply Does.step; on_goal 1 => first | apply State.modChDev_does)
    | refine State.when_does (fun s => ?_) ?_
    | refine Does.ite ?_ ?_
    | refine Does.iteSnd ?_ ?_
    | dsimp only

theorem State.chnApplied_does (s a old) : Does [.one INT_DEG_CAUSE, .one CHN_STAT, .chn] s (State.chnApplied s a old) := by
  unfold State.chnApplied
  repeat' with_reducible first
    | assumption
    | decide
    | exact Does.refl _ _
    | (intro x; first | (have _h : State := x; clear _h; clear_value (hx : x = _); refine Does.bind (l := [.one INT_DEG_CAUSE, .one CHN_STAT, .chn]) (s := s) hx ?_ (fun _ => ?_)) | (have _h : Chn := x; clear _h; clear_value (hx : x = _); subst hx) | clear_value x)
    | lift_lets
    | (apply Does.step; on_goal 1 => first | exact State.put_does _ CHN_STAT.SEEN _ (by with_unfolding_all exact Field.has_one CHN_STAT) | exact State.put_does _ CHN_STAT.STATE _ (by with_unfolding_all exact Field.has_one CHN_STAT) | exact State.put_does _ CHN_STAT.TX_OFF _ (by with_unfolding_all exact Field.has_one CHN_STAT) | apply State.chainCause_does)
    | refine Does.ite ?_ ?_
    | refine Does.iteSnd ?_ ?_
    | (apply Does.step; on_goal 1 => first | (apply Does.chn <;> first | rfl | exact id | simp))
    | dsimp only

theorem State.remoteDelivery_does (s n) : Does [.engs] s (State.remoteDelivery s n) := by
  unfold State.remoteDelivery
  repeat' with_reducible first
    | assumption
    | decide
    | exact Does.refl _ _
    | (apply Does.step; on_goal 1 => first | apply State.giveInput_does)
    | split
    | dsimp only

theorem State.chnCut_does (s) : Does [.one CHN_STAT, .one CHN_PHASE, .engs, .chn] s (State.chnCut s) := by
  unfold State.chnCut
  repeat' with_reducible first
    | assumption
    | decide
    | exact Does.refl _ _
    | (intro x; first | (have _h : State := x; clear _h; clear_value (hx : x = _); refine Does.bind (l := [.one CHN_STAT, .one CHN_PHASE, .engs, .chn]) (s := s) hx ?_ (fun _ => ?_)) | (have _h : Chn := x; clear _h; clear_value (hx : x = _); subst hx) | clear_value x)
    | lift_lets
    | (apply Does.step; on_goal 1 => first | exact State.put_does _ CHN_PHASE.APPLIED _ (by with_unfolding_all exact Field.has_one CHN_PHASE) | exact State.put_does _ CHN_STAT.REC_OK _ (by with_unfolding_all exact Field.has_one CHN_STAT) | apply State.modChDev_does | apply State.remoteDelivery_does | apply State.takeInput_does)
    | refine State.each_does (fun s b => ?_) ?_
    | refine Does.ite ?_ ?_
    | refine Does.iteSnd ?_ ?_
    | (apply Does.step; on_goal 1 => first | (apply Does.chn <;> first | rfl | exact id | simp))
    | dsimp only

end Sys2Proof.Machine
end

