-- ==== Sys2Proof/Laws/Verify.lean ====
section
/-!
SUPPORT. What each operation of Sys2Proof/Machine/Verify.lean can do at most.
-/

-- One proof after the other: as one text the package would otherwise ask for more threads than there is memory for.
set_option Elab.async false
namespace Sys2Proof.Machine

theorem State.programByte_does (s o b) : Does [.flash] s (State.programByte s o b) :=
  Does.flash s _ (Store.wf_put _ _ _ _)

theorem State.program_does (s a1 a2) : Does [.flash] s (State.program s a1 a2) := by
  induction a2 generalizing s a1 with
  | nil => exact Does.refl _ _
  | cons w t ih =>
    unfold State.program
    repeat' with_reducible first
      | assumption
      | decide
      | exact Does.refl _ _
      | (apply Does.trans; on_goal 2 => apply ih)
      | (apply Does.step; on_goal 1 => first | apply State.programByte_does)
      | dsimp only

theorem State.eraseFlash_does (s o n) : Does [.flash, .flashFlaws] s (State.eraseFlash s o n) :=
  Does.trans (Does.weaken (Does.flash s _ (Store.wf_filter _ _ _)) (by decide)) (Does.weaken (Does.flashFlaws _ _) (by decide))

theorem State.flashNotice_does (s o n) : Does [.one MGT_LOG_STAT, .faults, .reel, .mgt, .can] s (State.flashNotice s o n) := by
  unfold State.flashNotice
  repeat' with_reducible first
    | assumption
    | decide
    | exact Does.refl _ _
    | (apply Does.step; on_goal 1 => first | apply State.raise_does)
    | refine State.when_does (fun s => ?_) ?_
    | dsimp only

theorem State.reelNotice_does (s k) : Does [.one MGT_LOG_STAT, .faults, .reel, .mgt, .can] s (State.reelNotice s k) := by
  unfold State.reelNotice
  repeat' with_reducible first
    | assumption
    | decide
    | exact Does.refl _ _
    | (apply Does.step; on_goal 1 => first | apply State.flashNotice_does)
    | dsimp only

theorem State.fwNotice_does (s k) : Does [.one MGT_LOG_STAT, .faults, .reel, .mgt, .can] s (State.fwNotice s k) := by
  unfold State.fwNotice
  repeat' with_reducible first
    | assumption
    | decide
    | exact Does.refl _ _
    | (apply Does.step; on_goal 1 => first | apply State.flashNotice_does)
    | refine Does.ite ?_ ?_
    | refine Does.iteSnd ?_ ?_
    | dsimp only

end Sys2Proof.Machine
end

