-- ==== Sys2Proof/Laws/Mgt.lean ====
section
/-!
SUPPORT. What each operation of Sys2Proof/Machine/Mgt.lean can do at most.
-/

-- One proof after the other: as one text the package would otherwise ask for more threads than there is memory for.
set_option Elab.async false
namespace Sys2Proof.Machine

theorem State.drawBytes_does (s a1) : Does [.drawn] s (State.drawBytes s a1).2 := by
  induction a1 generalizing s with
  | zero => exact Does.refl _ _
  | succ n ih =>
    unfold State.drawBytes
    repeat' with_reducible first
      | assumption
      | decide
      | exact Does.refl _ _
      | (intro x; first | (have _h : State := x; clear _h; clear_value (hx : x = _); refine Does.bind (l := [.drawn]) (s := s) hx ?_ (fun _ => ?_)) | (have _h : _ × State := x; clear _h; clear_value (hx : x = _); refine Does.bindSnd (l := [.drawn]) (s := s) hx ?_ (fun _ => ?_)) | clear_value x)
      | (apply Does.trans; on_goal 2 => apply ih)
      | lift_lets
      | (apply Does.step; on_goal 1 => first | apply State.draw_does)
      | dsimp only

theorem State.setFlash_does (s o l) : Does [.flash] s (State.setFlash s o l) := by
  induction l generalizing s o with
  | nil => exact Does.refl _ _
  | cons b t ih => exact (Does.flash s _ (Store.wf_put _ _ _ _)).trans (ih _ _)

theorem State.readSlot_does (s k) : Does [.one REEL_SLOT_A, .one REEL_SLOT_B, .one MGT_FW_SLOT_A, .one MGT_FW_SLOT_B] s (State.readSlot s k) := by
  unfold State.readSlot
  repeat' with_reducible first
    | assumption
    | decide
    | exact Does.refl _ _
    | (apply Does.step; on_goal 1 => first | exact State.put_does _ REEL_SLOT_A.TAKE _ (by with_unfolding_all exact Field.has_one REEL_SLOT_A) | exact State.put_does _ REEL_SLOT_A.STATE _ (by with_unfolding_all exact Field.has_one REEL_SLOT_A) | exact State.put_does _ REEL_SLOT_B.TAKE _ (by with_unfolding_all exact Field.has_one REEL_SLOT_B) | exact State.put_does _ REEL_SLOT_B.STATE _ (by with_unfolding_all exact Field.has_one REEL_SLOT_B) | exact State.put_does _ MGT_FW_SLOT_A.VERSION _ (by with_unfolding_all exact Field.has_one MGT_FW_SLOT_A) | exact State.put_does _ MGT_FW_SLOT_A.STATE _ (by with_unfolding_all exact Field.has_one MGT_FW_SLOT_A) | exact State.put_does _ MGT_FW_SLOT_B.VERSION _ (by with_unfolding_all exact Field.has_one MGT_FW_SLOT_B) | exact State.put_does _ MGT_FW_SLOT_B.STATE _ (by with_unfolding_all exact Field.has_one MGT_FW_SLOT_B))
    | split
    | dsimp only

theorem State.setSlot_does (s k st) : Does [.one REEL_SLOT_A, .one REEL_SLOT_B, .one MGT_FW_SLOT_A, .one MGT_FW_SLOT_B, .flash] s (State.setSlot s k st) := by
  unfold State.setSlot
  repeat' with_reducible first
    | assumption
    | decide
    | exact Does.refl _ _
    | (apply Does.step; on_goal 1 => first | apply State.readSlot_does | apply State.program_does)
    | dsimp only

theorem State.drawWord_does (s) : Does [.drawn] s (State.drawWord s).2 := by
  unfold State.drawWord
  repeat' with_reducible first
    | assumption
    | decide
    | exact Does.refl _ _
    | (intro x; first | (have _h : State := x; clear _h; clear_value (hx : x = _); refine Does.bind (l := [.drawn]) (s := s) hx ?_ (fun _ => ?_)) | (have _h : _ × State := x; clear _h; clear_value (hx : x = _); refine Does.bindSnd (l := [.drawn]) (s := s) hx ?_ (fun _ => ?_)) | clear_value x)
    | lift_lets
    | (apply Does.step; on_goal 1 => first | apply State.draw_does)
    | dsimp only

theorem State.logScan_does (s) : Does [.one MGT_LOG_SEQ, .one MGT_LOG_STAT, .faults, .reel, .mgt, .can, .drawn] s (State.logScan s) := by
  unfold State.logScan
  repeat' with_reducible first
    | assumption
    | decide
    | exact Does.refl _ _
    | (intro x; first | (have _h : State := x; clear _h; clear_value (hx : x = _); refine Does.bind (l := [.one MGT_LOG_SEQ, .one MGT_LOG_STAT, .faults, .reel, .mgt, .can, .drawn]) (s := s) hx ?_ (fun _ => ?_)) | (have _h : _ × State := x; clear _h; clear_value (hx : x = _); refine Does.bindSnd (l := [.one MGT_LOG_SEQ, .one MGT_LOG_STAT, .faults, .reel, .mgt, .can, .drawn]) (s := s) hx ?_ (fun _ => ?_)) | clear_value x)
    | lift_lets
    | (apply Does.step; on_goal 1 => first | exact State.put_does _ MGT_LOG_STAT.SECTOR _ (by with_unfolding_all exact Field.has_one MGT_LOG_STAT) | exact State.put_does _ MGT_LOG_STAT.HELD _ (by with_unfolding_all exact Field.has_one MGT_LOG_STAT) | exact State.setWord_does _ MGT_LOG_SEQ _ (by with_unfolding_all exact Field.has_one MGT_LOG_SEQ) | apply State.flashNotice_does | apply State.drawWord_does)
    | refine Does.ite ?_ ?_
    | refine Does.iteSnd ?_ ?_
    | split
    | refine Does.ofFour (by assumption) ?_
    | (apply Does.step; on_goal 1 => first | apply Does.mgt)
    | dsimp only

theorem State.turnSector_does (s) : Does [.one MGT_LOG_STAT, .mgt, .flash] s (State.turnSector s) := by
  unfold State.turnSector
  repeat' with_reducible first
    | assumption
    | decide
    | exact Does.refl _ _
    | (intro x; first | (have _h : State := x; clear _h; clear_value (hx : x = _); refine Does.bind (l := [.one MGT_LOG_STAT, .mgt, .flash]) (s := s) hx ?_ (fun _ => ?_)) | clear_value x)
    | lift_lets
    | (apply Does.step; on_goal 1 => first | exact State.put_does _ MGT_LOG_STAT.SECTOR _ (by with_unfolding_all exact Field.has_one MGT_LOG_STAT) | apply State.program_does)
    | refine Does.ite ?_ ?_
    | refine Does.iteSnd ?_ ?_
    | split
    | (apply Does.step; on_goal 1 => first | apply Does.mgt)
    | dsimp only

theorem State.writeRecord_does (s fail) : Does [.one MGT_LOG_SEQ, .one MGT_LOG_STAT, .faults, .reel, .mgt, .can, .flash, .drawn] s (State.writeRecord s fail) := by
  unfold State.writeRecord
  split
  · exact Does.refl _ _
  · refine Does.bind (l := [.one MGT_LOG_SEQ, .one MGT_LOG_STAT, .faults, .reel, .mgt, .can, .flash, .drawn]) (Eq.refl _) (Does.weaken (State.turnSector_does s) (by decide)) (fun h => ?_)
    generalize s.turnSector = u at h ⊢
    dsimp only
    split
    · exact h
    · split
      · refine Does.step (State.raise_does ..) (by decide) (Does.step (State.setFlash_does ..) (by decide)
          (Does.step (State.drawBytes_does ..) (by decide) (Does.step (Does.mgt ..) (by decide) h)))
      · rename_i r _ _ _ _
        have h' : Does [.one MGT_LOG_SEQ, .one MGT_LOG_STAT, .faults, .reel, .mgt, .can, .flash, .drawn] s (({ u with mgt := { u.mgt with logCount := u.mgt.logCount + 1 } } : State).program
            (logBase u.mgt.logSector + 32 + 32 * u.mgt.logCount) (r.bytes u.nextSeq)) :=
          Does.step (State.program_does ..) (by decide) (Does.step (Does.mgt ..) (by decide) h)
        generalize ({ u with mgt := { u.mgt with logCount := u.mgt.logCount + 1 } } : State).program
            (logBase u.mgt.logSector + 32 + 32 * u.mgt.logCount) (r.bytes u.nextSeq) = w at h' ⊢
        split
        · exact Does.step (State.raise_does ..) (by decide) h'
        · exact Does.step (State.bump_does _ MGT_LOG_STAT.HELD _ (by with_unfolding_all exact Field.has_one MGT_LOG_STAT)) (by decide)
            (Does.step (State.setWord_does _ MGT_LOG_SEQ _ (by with_unfolding_all exact Field.has_one MGT_LOG_SEQ)) (by decide)
              (Does.step (Does.mgt ..) (by decide) h'))

theorem execLogRecordWrite_does (fail s) : ∀ t, execLogRecordWrite fail s = .next t → Does [.one MGT_LOG_SEQ, .one MGT_LOG_STAT, .faults, .reel, .intg, .mgt, .can, .flash, .drawn] s t := by
  unfold execLogRecordWrite
  refine whenPowered_does ?_
  repeat' with_reducible first
    | assumption
    | decide
    | exact Does.refl _ _
    | (apply Does.step; on_goal 1 => first | apply State.writeRecord_does)
    | refine State.when_does (fun s => ?_) ?_
    | refine Does.ite ?_ ?_
    | refine Does.iteSnd ?_ ?_
    | dsimp only

theorem execLogSectorErase_does (fail s) : ∀ t, execLogSectorErase fail s = .next t → Does [.one MGT_LOG_STAT, .faults, .reel, .intg, .mgt, .can, .flash, .flashFlaws, .drawn] s t := by
  unfold execLogSectorErase
  refine whenPowered_does ?_
  repeat' with_reducible first
    | assumption
    | decide
    | exact Does.refl _ _
    | (intro x; first | (have _h : State := x; clear _h; clear_value (hx : x = _); refine Does.bind (l := [.one MGT_LOG_STAT, .faults, .reel, .intg, .mgt, .can, .flash, .flashFlaws, .drawn]) (s := s) hx ?_ (fun _ => ?_)) | (have _h : _ × State := x; clear _h; clear_value (hx : x = _); refine Does.bindSnd (l := [.one MGT_LOG_STAT, .faults, .reel, .intg, .mgt, .can, .flash, .flashFlaws, .drawn]) (s := s) hx ?_ (fun _ => ?_)) | clear_value x)
    | lift_lets
    | (apply Does.step; on_goal 1 => first | exact State.put_does _ MGT_LOG_STAT.HELD _ (by with_unfolding_all exact Field.has_one MGT_LOG_STAT) | apply State.drawBytes_does | apply State.setFlash_does | apply State.raise_does | apply State.eraseFlash_does | apply State.drawWord_does)
    | refine State.when_does (fun s => ?_) ?_
    | refine Does.ite ?_ ?_
    | refine Does.iteSnd ?_ ?_
    | split
    | (apply Does.step; on_goal 1 => first | apply Does.mgt)
    | dsimp only

theorem State.updOutcome_does (s cmd k result reason) : Does [.one MGT_UPD_STAT, .one MGT_LOG_STAT, .faults, .mgt, .can] s (State.updOutcome s cmd k result reason) := by
  unfold State.updOutcome
  repeat' with_reducible first
    | assumption
    | decide
    | exact Does.refl _ _
    | (intro x; first | (have _h : State := x; clear _h; clear_value (hx : x = _); refine Does.bind (l := [.one MGT_UPD_STAT, .one MGT_LOG_STAT, .faults, .mgt, .can]) (s := s) hx ?_ (fun _ => ?_)) | clear_value x)
    | lift_lets
    | (apply Does.step; on_goal 1 => first | exact State.put_does _ MGT_UPD_STAT.REASON _ (by with_unfolding_all exact Field.has_one MGT_UPD_STAT) | exact State.put_does _ MGT_UPD_STAT.RESULT _ (by with_unfolding_all exact Field.has_one MGT_UPD_STAT) | apply State.logRec_does)
    | dsimp only

theorem State.updDone_does (s cmd k result) : Does [.one MGT_UPD_STAT, .one MGT_LOG_STAT, .faults, .mgt, .can] s (State.updDone s cmd k result) := by
  unfold State.updDone
  repeat' with_reducible first
    | assumption
    | decide
    | exact Does.refl _ _
    | (intro x; first | (have _h : State := x; clear _h; clear_value (hx : x = _); refine Does.bind (l := [.one MGT_UPD_STAT, .one MGT_LOG_STAT, .faults, .mgt, .can]) (s := s) hx ?_ (fun _ => ?_)) | clear_value x)
    | lift_lets
    | (apply Does.step; on_goal 1 => first | apply State.updOutcome_does)
    | (apply Does.step; on_goal 1 => first | apply Does.mgt)
    | dsimp only

theorem State.updRefuse_does (s cmd k reason) : Does [.one MGT_UPD_STAT, .one MGT_LOG_STAT, .faults, .mgt, .can, .spi] s (State.updRefuse s cmd k reason) := by
  unfold State.updRefuse
  repeat' with_reducible first
    | assumption
    | decide
    | exact Does.refl _ _
    | (apply Does.step; on_goal 1 => first | apply State.refuse_does | apply State.updOutcome_does)
    | dsimp only

theorem State.closeTransfer_does (s) : Does [.mgt] s (State.closeTransfer s) := by
  unfold State.closeTransfer
  repeat' with_reducible first
    | assumption
    | decide
    | exact Does.refl _ _
    | (intro x; first | (have _h : State := x; clear _h; clear_value (hx : x = _); refine Does.bind (l := [.mgt]) (s := s) hx ?_ (fun _ => ?_)) | clear_value x)
    | lift_lets
    | (apply Does.step; on_goal 1 => first | apply Does.mgt)
    | dsimp only

theorem State.selectAgain_does (s k) : Does [.sys] s (State.selectAgain s k) := by
  unfold State.selectAgain
  repeat' with_reducible first
    | assumption
    | decide
    | exact Does.refl _ _
    | (intro x; first | (have _h : State := x; clear _h; clear_value (hx : x = _); refine Does.bind (l := [.sys]) (s := s) hx ?_ (fun _ => ?_)) | clear_value x)
    | lift_lets
    | refine Does.ite ?_ ?_
    | refine Does.iteSnd ?_ ?_
    | (apply Does.step; on_goal 1 => first | apply Does.sys)
    | dsimp only

theorem State.updVerify_does (s k) : Does [.one REEL_SLOT_A, .one REEL_SLOT_B, .one MGT_FW_SLOT_A, .one MGT_FW_SLOT_B, .one MGT_UPD_STAT, .one MGT_LOG_STAT, .faults, .sys, .reel, .mgt, .can, .flash] s (State.updVerify s k) := by
  unfold State.updVerify
  repeat' with_reducible first
    | assumption
    | decide
    | exact Does.refl _ _
    | (intro x; first | (have _h : State := x; clear _h; clear_value (hx : x = _); refine Does.bind (l := [.one REEL_SLOT_A, .one REEL_SLOT_B, .one MGT_FW_SLOT_A, .one MGT_FW_SLOT_B, .one MGT_UPD_STAT, .one MGT_LOG_STAT, .faults, .sys, .reel, .mgt, .can, .flash]) (s := s) hx ?_ (fun _ => ?_)) | (have _h : State → State := x; clear _h; clear_value (hx : x = _); refine Does.bindFun (l := [.one REEL_SLOT_A, .one REEL_SLOT_B, .one MGT_FW_SLOT_A, .one MGT_FW_SLOT_B, .one MGT_UPD_STAT, .one MGT_LOG_STAT, .faults, .sys, .reel, .mgt, .can, .flash]) hx (fun s => ?_) (fun hf => ?_)) | clear_value x)
    | lift_lets
    | (apply Does.trans; on_goal 2 => apply hf)
    | (apply Does.step; on_goal 1 => first | apply State.updOutcome_does | apply State.setSlot_does | apply State.selectAgain_does | apply State.reelNotice_does | apply State.fwNotice_does | apply State.raise_does)
    | refine State.when_does (fun s => ?_) ?_
    | refine Does.ite ?_ ?_
    | refine Does.iteSnd ?_ ?_
    | split
    | dsimp only

theorem State.closeBufs_does (s) : Does [.mgt] s (State.closeBufs s) := by
  unfold State.closeBufs
  repeat' with_reducible first
    | assumption
    | decide
    | exact Does.refl _ _
    | (intro x; first | (have _h : State := x; clear _h; clear_value (hx : x = _); refine Does.bind (l := [.mgt]) (s := s) hx ?_ (fun _ => ?_)) | clear_value x)
    | lift_lets
    | (apply Does.step; on_goal 1 => first | apply Does.mgt)
    | dsimp only

theorem State.updStart_does (s cmd k) : Does [.one REEL_SLOT_A, .one REEL_SLOT_B, .one MGT_FW, .one MGT_FW_SLOT_A, .one MGT_FW_SLOT_B, .one MGT_UPD_STAT, .one MGT_UPD_ADDR, .one MGT_LOG_STAT, .faults, .sys, .reel, .mgt, .can, .flash] s (State.updStart s cmd k) := by
  unfold State.updStart
  repeat' with_reducible first
    | assumption
    | decide
    | exact Does.refl _ _
    | (intro x; first | (have _h : State := x; clear _h; clear_value (hx : x = _); refine Does.bind (l := [.one REEL_SLOT_A, .one REEL_SLOT_B, .one MGT_FW, .one MGT_FW_SLOT_A, .one MGT_FW_SLOT_B, .one MGT_UPD_STAT, .one MGT_UPD_ADDR, .one MGT_LOG_STAT, .faults, .sys, .reel, .mgt, .can, .flash]) (s := s) hx ?_ (fun _ => ?_)) | (have _h : State → State := x; clear _h; clear_value (hx : x = _); refine Does.bindFun (l := [.one REEL_SLOT_A, .one REEL_SLOT_B, .one MGT_FW, .one MGT_FW_SLOT_A, .one MGT_FW_SLOT_B, .one MGT_UPD_STAT, .one MGT_UPD_ADDR, .one MGT_LOG_STAT, .faults, .sys, .reel, .mgt, .can, .flash]) hx (fun s => ?_) (fun hf => ?_)) | clear_value x)
    | lift_lets
    | (apply Does.trans; on_goal 2 => apply hf)
    | (apply Does.step; on_goal 1 => first | exact State.put_does _ MGT_UPD_STAT.LAST_CMD _ (by with_unfolding_all exact Field.has_one MGT_UPD_STAT) | exact State.put_does _ MGT_UPD_STAT.TARGET _ (by with_unfolding_all exact Field.has_one MGT_UPD_STAT) | exact State.put_does _ MGT_UPD_STAT.REASON _ (by with_unfolding_all exact Field.has_one MGT_UPD_STAT) | exact State.put_does _ MGT_UPD_STAT.RESULT _ (by with_unfolding_all exact Field.has_one MGT_UPD_STAT) | exact State.put_does _ MGT_UPD_STAT.PAGES _ (by with_unfolding_all exact Field.has_one MGT_UPD_STAT) | exact State.put_does _ MGT_UPD_ADDR.ADDR _ (by with_unfolding_all exact Field.has_one MGT_UPD_ADDR) | exact State.put_does _ MGT_FW.TRIAL _ (by with_unfolding_all exact Field.has_one MGT_FW) | apply State.updOutcome_does | apply State.closeTransfer_does | apply State.closeBufs_does | apply State.updVerify_does | apply State.setSlot_does)
    | refine Does.ite ?_ ?_
    | refine Does.iteSnd ?_ ?_
    | split
    | (apply Does.step; on_goal 1 => first | apply Does.mgt)
    | dsimp only

theorem State.updCtrl_does (s v) : Does [.one REEL_SLOT_A, .one REEL_SLOT_B, .one MGT_FW, .one MGT_FW_SLOT_A, .one MGT_FW_SLOT_B, .one MGT_UPD_CTRL, .one MGT_UPD_STAT, .one MGT_UPD_ADDR, .one MGT_LOG_STAT, .faults, .sys, .reel, .mgt, .can, .spi, .flash] s (State.updCtrl s v) := by
  unfold State.updCtrl
  repeat' with_reducible first
    | assumption
    | decide
    | exact Does.refl _ _
    | (intro x; first | (have _h : State := x; clear _h; clear_value (hx : x = _); refine Does.bind (l := [.one REEL_SLOT_A, .one REEL_SLOT_B, .one MGT_FW, .one MGT_FW_SLOT_A, .one MGT_FW_SLOT_B, .one MGT_UPD_CTRL, .one MGT_UPD_STAT, .one MGT_UPD_ADDR, .one MGT_LOG_STAT, .faults, .sys, .reel, .mgt, .can, .spi, .flash]) (s := s) hx ?_ (fun _ => ?_)) | (have _h : State → State := x; clear _h; clear_value (hx : x = _); refine Does.bindFun (l := [.one REEL_SLOT_A, .one REEL_SLOT_B, .one MGT_FW, .one MGT_FW_SLOT_A, .one MGT_FW_SLOT_B, .one MGT_UPD_CTRL, .one MGT_UPD_STAT, .one MGT_UPD_ADDR, .one MGT_LOG_STAT, .faults, .sys, .reel, .mgt, .can, .spi, .flash]) hx (fun s => ?_) (fun hf => ?_)) | clear_value x)
    | lift_lets
    | (apply Does.trans; on_goal 2 => apply hf)
    | (apply Does.step; on_goal 1 => first | exact State.put_does _ MGT_UPD_CTRL.TARGET _ (by with_unfolding_all exact Field.has_one MGT_UPD_CTRL) | exact State.put_does _ MGT_UPD_CTRL.CMD _ (by with_unfolding_all exact Field.has_one MGT_UPD_CTRL) | apply State.updStart_does | apply State.updRefuse_does)
    | refine Does.ite ?_ ?_
    | refine Does.iteSnd ?_ ?_
    | dsimp only

theorem State.storeWord_does (s a v) : Does [.mgt] s (State.storeWord s a v) := by
  unfold State.storeWord
  repeat' with_reducible first
    | assumption
    | decide
    | exact Does.refl _ _
    | (intro x; first | (have _h : State := x; clear _h; clear_value (hx : x = _); refine Does.bind (l := [.mgt]) (s := s) hx ?_ (fun _ => ?_)) | clear_value x)
    | lift_lets
    | refine Does.ite ?_ ?_
    | refine Does.iteSnd ?_ ?_
    | (apply Does.step; on_goal 1 => first | apply Does.mgt)
    | dsimp only

theorem State.updData_does (s v) : Does [.one MGT_UPD_STAT, .one MGT_UPD_ADDR, .mgt, .spi] s (State.updData s v) := by
  unfold State.updData
  repeat' with_reducible first
    | assumption
    | decide
    | exact Does.refl _ _
    | (intro x; first | (have _h : State := x; clear _h; clear_value (hx : x = _); refine Does.bind (l := [.one MGT_UPD_STAT, .one MGT_UPD_ADDR, .mgt, .spi]) (s := s) hx ?_ (fun _ => ?_)) | clear_value x)
    | lift_lets
    | (apply Does.step; on_goal 1 => first | exact State.put_does _ MGT_UPD_ADDR.ADDR _ (by with_unfolding_all exact Field.has_one MGT_UPD_ADDR) | exact State.put_does _ MGT_UPD_STAT.REASON _ (by with_unfolding_all exact Field.has_one MGT_UPD_STAT) | exact State.put_does _ MGT_UPD_STAT.RESULT _ (by with_unfolding_all exact Field.has_one MGT_UPD_STAT) | apply State.storeWord_does | apply State.refuse_does)
    | refine Does.ite ?_ ?_
    | refine Does.iteSnd ?_ ?_
    | dsimp only

theorem State.updWriteAt_does (s a v) : Does [.one MGT_UPD_STAT, .mgt] s (State.updWriteAt s a v).2 := by
  unfold State.updWriteAt
  repeat' with_reducible first
    | assumption
    | decide
    | exact Does.refl _ _
    | (intro x; first | (have _h : State := x; clear _h; clear_value (hx : x = _); refine Does.bind (l := [.one MGT_UPD_STAT, .mgt]) (s := s) hx ?_ (fun _ => ?_)) | clear_value x)
    | lift_lets
    | (apply Does.step; on_goal 1 => first | exact State.put_does _ MGT_UPD_STAT.REASON _ (by with_unfolding_all exact Field.has_one MGT_UPD_STAT) | exact State.put_does _ MGT_UPD_STAT.RESULT _ (by with_unfolding_all exact Field.has_one MGT_UPD_STAT) | apply State.storeWord_does)
    | refine Does.ite ?_ ?_
    | refine Does.iteSnd ?_ ?_
    | dsimp only

theorem State.mgtReach_does (s p a v) : Does [.regs, .sys, .reel, .mgt, .can, .spi, .flash] s (State.mgtReach s p a v) := by
  unfold State.mgtReach
  repeat' with_reducible first
    | assumption
    | decide
    | exact Does.refl _ _
    | (apply Does.step; on_goal 1 => first | exact State.setWord_does (x := .regs) _ _ _ (by with_unfolding_all exact trivial) | apply State.updCtrl_does | apply State.updData_does | apply State.refuse_does)
    | refine State.each_does (fun s b => ?_) ?_
    | refine Does.ite ?_ ?_
    | refine Does.iteSnd ?_ ?_
    | dsimp only

theorem State.mgtWrite_does (s p a v) : Does [.regs, .sys, .reel, .mgt, .can, .spi, .flash] s (State.mgtWrite s p a v) := by
  unfold State.mgtWrite
  repeat' with_reducible first
    | assumption
    | decide
    | exact Does.refl _ _
    | (intro x; first | (have _h : State := x; clear _h; clear_value (hx : x = _); refine Does.bind (l := [.regs, .sys, .reel, .mgt, .can, .spi, .flash]) (s := s) hx ?_ (fun _ => ?_)) | clear_value x)
    | lift_lets
    | (apply Does.step; on_goal 1 => first | apply State.mgtReach_does)
    | refine State.each_does (fun s b => ?_) ?_
    | refine Does.ite ?_ ?_
    | refine Does.iteSnd ?_ ?_
    | (apply Does.step; on_goal 1 => first | apply Does.mgt)
    | dsimp only

theorem State.hostUpd_does (s cmd k) : Does [.regs, .sys, .reel, .mgt, .can, .spi, .flash] s (State.hostUpd s cmd k) := by
  unfold State.hostUpd
  repeat' with_reducible first
    | assumption
    | decide
    | exact Does.refl _ _
    | (apply Does.step; on_goal 1 => first | apply State.mgtWrite_does)
    | dsimp only

theorem execUpdErase_does (k s) : ∀ t, execUpdErase k s = .next t → Does [.regs, .sys, .reel, .intg, .mgt, .can, .spi, .flash] s t := by
  unfold execUpdErase
  refine hostAccess_does ?_
  repeat' with_reducible first
    | assumption
    | decide
    | exact Does.refl _ _
    | (apply Does.step; on_goal 1 => first | apply State.hostUpd_does)
    | dsimp only

theorem execUpdOpen_does (k s) : ∀ t, execUpdOpen k s = .next t → Does [.regs, .sys, .reel, .intg, .mgt, .can, .spi, .flash] s t := by
  unfold execUpdOpen
  refine hostAccess_does ?_
  repeat' with_reducible first
    | assumption
    | decide
    | exact Does.refl _ _
    | (apply Does.step; on_goal 1 => first | apply State.hostUpd_does)
    | dsimp only

theorem execUpdFlush_does (k s) : ∀ t, execUpdFlush k s = .next t → Does [.regs, .sys, .reel, .intg, .mgt, .can, .spi, .flash] s t := by
  unfold execUpdFlush
  refine hostAccess_does ?_
  repeat' with_reducible first
    | assumption
    | decide
    | exact Does.refl _ _
    | (apply Does.step; on_goal 1 => first | apply State.hostUpd_does)
    | dsimp only

theorem execUpdVerify_does (k s) : ∀ t, execUpdVerify k s = .next t → Does [.regs, .sys, .reel, .intg, .mgt, .can, .spi, .flash] s t := by
  unfold execUpdVerify
  refine hostAccess_does ?_
  repeat' with_reducible first
    | assumption
    | decide
    | exact Does.refl _ _
    | (apply Does.step; on_goal 1 => first | apply State.hostUpd_does)
    | dsimp only

theorem execUpdFwSplice_does (k s) : ∀ t, execUpdFwSplice k s = .next t → Does [.regs, .sys, .reel, .intg, .mgt, .can, .spi, .flash] s t := by
  unfold execUpdFwSplice
  refine hostAccess_does ?_
  repeat' with_reducible first
    | assumption
    | decide
    | exact Does.refl _ _
    | (apply Does.step; on_goal 1 => first | apply State.hostUpd_does)
    | dsimp only

theorem execUpdFwConfirm_does (k s) : ∀ t, execUpdFwConfirm k s = .next t → Does [.regs, .sys, .reel, .intg, .mgt, .can, .spi, .flash] s t := by
  unfold execUpdFwConfirm
  refine hostAccess_does ?_
  repeat' with_reducible first
    | assumption
    | decide
    | exact Does.refl _ _
    | (apply Does.step; on_goal 1 => first | apply State.hostUpd_does)
    | dsimp only

theorem execUpdAbort_does (k s) : ∀ t, execUpdAbort k s = .next t → Does [.regs, .sys, .reel, .intg, .mgt, .can, .spi, .flash] s t := by
  unfold execUpdAbort
  refine hostAccess_does ?_
  repeat' with_reducible first
    | assumption
    | decide
    | exact Does.refl _ _
    | (apply Does.step; on_goal 1 => first | apply State.hostUpd_does)
    | dsimp only

theorem execUpdData_does (v s) : ∀ t, execUpdData v s = .next t → Does [.regs, .sys, .reel, .intg, .mgt, .can, .spi, .flash] s t := by
  unfold execUpdData
  refine hostAccess_does ?_
  repeat' with_reducible first
    | assumption
    | decide
    | exact Does.refl _ _
    | (apply Does.step; on_goal 1 => first | apply State.mgtWrite_does)
    | dsimp only

theorem execEraseDone_does (fail s) : ∀ t, execEraseDone fail s = .next t → Does [.one REEL_SLOT_A, .one REEL_SLOT_B, .one MGT_FW_SLOT_A, .one MGT_FW_SLOT_B, .one MGT_UPD_STAT, .one MGT_LOG_STAT, .faults, .reel, .intg, .mgt, .can, .flash, .flashFlaws, .drawn] s t := by
  unfold execEraseDone
  refine whenPowered_does ?_
  repeat' with_reducible first
    | assumption
    | decide
    | exact Does.refl _ _
    | (intro x; first | (have _h : State := x; clear _h; clear_value (hx : x = _); refine Does.bind (l := [.one REEL_SLOT_A, .one REEL_SLOT_B, .one MGT_FW_SLOT_A, .one MGT_FW_SLOT_B, .one MGT_UPD_STAT, .one MGT_LOG_STAT, .faults, .reel, .intg, .mgt, .can, .flash, .flashFlaws, .drawn]) (s := s) hx ?_ (fun _ => ?_)) | (have _h : _ × State := x; clear _h; clear_value (hx : x = _); refine Does.bindSnd (l := [.one REEL_SLOT_A, .one REEL_SLOT_B, .one MGT_FW_SLOT_A, .one MGT_FW_SLOT_B, .one MGT_UPD_STAT, .one MGT_LOG_STAT, .faults, .reel, .intg, .mgt, .can, .flash, .flashFlaws, .drawn]) (s := s) hx ?_ (fun _ => ?_)) | clear_value x)
    | lift_lets
    | (apply Does.step; on_goal 1 => first | apply State.updDone_does | apply State.readSlot_does | apply State.eraseFlash_does | apply State.drawBytes_does | apply State.raise_does | apply State.setFlash_does)
    | refine State.when_does (fun s => ?_) ?_
    | split
    | dsimp only

theorem execPageProgrammed_does (fail s) : ∀ t, execPageProgrammed fail s = .next t → Does [.one REEL_SLOT_A, .one REEL_SLOT_B, .one MGT_FW_SLOT_A, .one MGT_FW_SLOT_B, .one MGT_UPD_STAT, .one MGT_LOG_STAT, .faults, .reel, .intg, .mgt, .can, .flash, .drawn] s t := by
  unfold execPageProgrammed
  refine whenPowered_does ?_
  repeat' with_reducible first
    | assumption
    | decide
    | exact Does.refl _ _
    | (intro x; first | (have _h : State := x; clear _h; clear_value (hx : x = _); refine Does.bind (l := [.one REEL_SLOT_A, .one REEL_SLOT_B, .one MGT_FW_SLOT_A, .one MGT_FW_SLOT_B, .one MGT_UPD_STAT, .one MGT_LOG_STAT, .faults, .reel, .intg, .mgt, .can, .flash, .drawn]) (s := s) hx ?_ (fun _ => ?_)) | (have _h : _ × State := x; clear _h; clear_value (hx : x = _); refine Does.bindSnd (l := [.one REEL_SLOT_A, .one REEL_SLOT_B, .one MGT_FW_SLOT_A, .one MGT_FW_SLOT_B, .one MGT_UPD_STAT, .one MGT_LOG_STAT, .faults, .reel, .intg, .mgt, .can, .flash, .drawn]) (s := s) hx ?_ (fun _ => ?_)) | clear_value x)
    | lift_lets
    | (apply Does.step; on_goal 1 => first | exact State.put_does _ MGT_UPD_STAT.PAGES _ (by with_unfolding_all exact Field.has_one MGT_UPD_STAT) | apply State.drawBytes_does | apply State.setFlash_does | apply State.program_does | apply State.setSlot_does | apply State.readSlot_does | apply State.updDone_does | apply State.raise_does | apply State.closeTransfer_does)
    | refine State.when_does (fun s => ?_) ?_
    | refine Does.ite ?_ ?_
    | refine Does.iteSnd ?_ ?_
    | split
    | (apply Does.step; on_goal 1 => first | apply Does.mgt)
    | dsimp only

theorem State.mcEnds_does (s) : Does [.one MGT_UPD_STAT, .one MGT_LOG_STAT, .faults, .reel, .mgt, .can] s (State.mcEnds s) := by
  unfold State.mcEnds
  repeat' with_reducible first
    | assumption
    | decide
    | exact Does.refl _ _
    | (intro x; first | (have _h : State := x; clear _h; clear_value (hx : x = _); refine Does.bind (l := [.one MGT_UPD_STAT, .one MGT_LOG_STAT, .faults, .reel, .mgt, .can]) (s := s) hx ?_ (fun _ => ?_)) | clear_value x)
    | lift_lets
    | (apply Does.step; on_goal 1 => first | apply State.closeTransfer_does | apply State.updDone_does)
    | split
    | (apply Does.step; on_goal 1 => first | apply Does.reel | apply Does.mgt)
    | with_unfolding_all exact Does.ofOnly (by rintro ⟨⟩ hk <;> first | rfl | trivial | exact absurd (by decide) hk) (fun _ _ => rfl) (fun h => { h with })
    | (refine Does.trans (by assumption) ?_; with_unfolding_all exact Does.ofOnly (by rintro ⟨⟩ hk <;> first | rfl | trivial | exact absurd (by decide) hk) (fun _ _ => rfl) (fun h => { h with }))
    | dsimp only

theorem State.mcDeliver_does (s) : Does [.regs, .sys, .reel, .mgt, .can, .spi, .flash] s (State.mcDeliver s) := by
  unfold State.mcDeliver
  repeat' with_reducible first
    | assumption
    | decide
    | exact Does.refl _ _
    | (intro x; first | (have _h : State := x; clear _h; clear_value (hx : x = _); refine Does.bind (l := [.regs, .sys, .reel, .mgt, .can, .spi, .flash]) (s := s) hx ?_ (fun _ => ?_)) | (have _h : _ × State := x; clear _h; clear_value (hx : x = _); refine Does.bindSnd (l := [.regs, .sys, .reel, .mgt, .can, .spi, .flash]) (s := s) hx ?_ (fun _ => ?_)) | clear_value x)
    | lift_lets
    | (apply Does.step; on_goal 1 => first | exact State.bump_does _ CAN_MAP_ERR.STALE _ (by with_unfolding_all exact Field.has_one CAN_MAP_ERR) | apply State.mgtReach_does | refine State.apart_does (l := [.regs, .sys, .reel, .mgt, .can, .spi, .flash]) (fun s => ?_) (by decide))
    | refine State.when_does (fun s => ?_) ?_
    | refine State.each_does (fun s b => ?_) ?_
    | refine Does.ite ?_ ?_
    | refine Does.iteSnd ?_ ?_
    | (apply Does.step; on_goal 1 => first | apply Does.mgt)
    | dsimp only

theorem State.mcFrom_does (s k) : Does [.one MGT_FW, .mgt] s (State.mcFrom s k) := by
  unfold State.mcFrom
  repeat' with_reducible first
    | assumption
    | decide
    | exact Does.refl _ _
    | (intro x; first | (have _h : State := x; clear _h; clear_value (hx : x = _); refine Does.bind (l := [.one MGT_FW, .mgt]) (s := s) hx ?_ (fun _ => ?_)) | clear_value x)
    | lift_lets
    | (apply Does.step; on_goal 1 => first | exact State.put_does _ MGT_FW.VERSION _ (by with_unfolding_all exact Field.has_one MGT_FW) | exact State.put_does _ MGT_FW.ACTIVE_SLOT _ (by with_unfolding_all exact Field.has_one MGT_FW))
    | (apply Does.step; on_goal 1 => first | apply Does.mgt)
    | dsimp only

theorem State.fwTrialFail_does (s) : Does [.regs, .sys, .reel, .mgt, .can, .spi, .flash] s (State.fwTrialFail s) := by
  unfold State.fwTrialFail
  repeat' with_reducible first
    | assumption
    | decide
    | exact Does.refl _ _
    | (intro x; first | (have _h : State := x; clear _h; clear_value (hx : x = _); refine Does.bind (l := [.regs, .sys, .reel, .mgt, .can, .spi, .flash]) (s := s) hx ?_ (fun _ => ?_)) | clear_value x)
    | lift_lets
    | (apply Does.step; on_goal 1 => first | exact State.put_does _ MGT_FW.TRIAL _ (by with_unfolding_all exact Field.has_one MGT_FW) | apply State.setSlot_does | apply State.mcEnds_does | apply State.mcFrom_does | apply State.raise_does | apply State.mcDeliver_does | apply State.logRec_does)
    | dsimp only

theorem State.fwSpliceDone_does (s k) : Does [.regs, .sys, .reel, .mgt, .can, .spi, .flash] s (State.fwSpliceDone s k) := by
  unfold State.fwSpliceDone
  repeat' with_reducible first
    | assumption
    | decide
    | exact Does.refl _ _
    | (intro x; first | (have _h : State := x; clear _h; clear_value (hx : x = _); refine Does.bind (l := [.regs, .sys, .reel, .mgt, .can, .spi, .flash]) (s := s) hx ?_ (fun _ => ?_)) | clear_value x)
    | lift_lets
    | (apply Does.step; on_goal 1 => first | exact State.put_does _ MGT_FW.TRIAL _ (by with_unfolding_all exact Field.has_one MGT_FW) | apply State.closeTransfer_does | apply State.mcFrom_does | apply State.setSlot_does | apply State.logRec_does | apply State.mcDeliver_does | apply State.updDone_does)
    | refine Does.ite ?_ ?_
    | refine Does.iteSnd ?_ ?_
    | (apply Does.step; on_goal 1 => first | apply Does.mgt)
    | dsimp only

theorem State.mcRestart_does (s) : Does [.regs, .sys, .reel, .mgt, .can, .spi, .flash] s (State.mcRestart s) := by
  unfold State.mcRestart
  repeat' with_reducible first
    | assumption
    | decide
    | exact Does.refl _ _
    | (apply Does.step; on_goal 1 => first | apply State.fwSpliceDone_does | apply State.fwTrialFail_does)
    | refine Does.ite ?_ ?_
    | refine Does.iteSnd ?_ ?_
    | split
    | dsimp only

theorem execFwTrialExpire_does (s) : ∀ t, execFwTrialExpire s = .next t → Does [.one REEL_SLOT_A, .one REEL_SLOT_B, .one MGT_FW, .one MGT_FW_SLOT_A, .one MGT_FW_SLOT_B, .intg, .flash] s t := by
  unfold execFwTrialExpire
  refine whenPowered_does ?_
  repeat' with_reducible first
    | assumption
    | decide
    | exact Does.refl _ _
    | (apply Does.step; on_goal 1 => first | exact State.put_does _ MGT_FW.TRIAL _ (by with_unfolding_all exact Field.has_one MGT_FW) | apply State.setSlot_does)
    | refine State.when_does (fun s => ?_) ?_
    | refine Does.ite ?_ ?_
    | refine Does.iteSnd ?_ ?_
    | dsimp only

theorem execMcWatchdog_does (s) : ∀ t, execMcWatchdog s = .next t → Does [.one MGT_STAT, .one MGT_UPD_STAT, .one MGT_LOG_STAT, .faults, .reel, .intg, .mgt, .can] s t := by
  unfold execMcWatchdog
  refine whenPowered_does ?_
  repeat' with_reducible first
    | assumption
    | decide
    | exact Does.refl _ _
    | (intro x; first | (have _h : State := x; clear _h; clear_value (hx : x = _); refine Does.bind (l := [.one MGT_STAT, .one MGT_UPD_STAT, .one MGT_LOG_STAT, .faults, .reel, .intg, .mgt, .can]) (s := s) hx ?_ (fun _ => ?_)) | clear_value x)
    | lift_lets
    | (apply Does.step; on_goal 1 => first | exact State.bump_does _ MGT_STAT.MC_RESETS _ (by with_unfolding_all exact Field.has_one MGT_STAT) | apply State.mcEnds_does | apply State.raise_does | apply State.logRec_does)
    | refine State.when_does (fun s => ?_) ?_
    | refine Does.ite ?_ ?_
    | refine Does.iteSnd ?_ ?_
    | (apply Does.step; on_goal 1 => first | apply Does.mgt)
    | dsimp only

theorem State.scrubSlot_does (s k) : Does [.one REEL_SLOT_A, .one REEL_SLOT_B, .one MGT_FW_SLOT_A, .one MGT_FW_SLOT_B, .one MGT_LOG_STAT, .faults, .reel, .mgt, .can, .flash] s (State.scrubSlot s k) := by
  unfold State.scrubSlot
  repeat' with_reducible first
    | assumption
    | decide
    | exact Does.refl _ _
    | (intro x; first | (have _h : State := x; clear _h; clear_value (hx : x = _); refine Does.bind (l := [.one REEL_SLOT_A, .one REEL_SLOT_B, .one MGT_FW_SLOT_A, .one MGT_FW_SLOT_B, .one MGT_LOG_STAT, .faults, .reel, .mgt, .can, .flash]) (s := s) hx ?_ (fun _ => ?_)) | clear_value x)
    | lift_lets
    | (apply Does.step; on_goal 1 => first | apply State.reelNotice_does | apply State.fwNotice_does | apply State.raise_does | apply State.setSlot_does)
    | refine Does.ite ?_ ?_
    | refine Does.iteSnd ?_ ?_
    | split
    | dsimp only

theorem execScrub_does (s) : ∀ t, execScrub s = .next t → Does [.one REEL_SLOT_A, .one REEL_SLOT_B, .one MGT_FW_SLOT_A, .one MGT_FW_SLOT_B, .one MGT_LOG_STAT, .faults, .reel, .intg, .mgt, .can, .flash] s t := by
  unfold execScrub
  refine whenPowered_does ?_
  repeat' with_reducible first
    | assumption
    | decide
    | exact Does.refl _ _
    | (apply Does.step; on_goal 1 => first | apply State.scrubSlot_does)
    | refine State.when_does (fun s => ?_) ?_
    | refine State.each_does (fun s b => ?_) ?_
    | refine Does.ite ?_ ?_
    | refine Does.iteSnd ?_ ?_
    | dsimp only

theorem State.flashKill_does (s k) : Does [.flashFlaws, .drawn] s (State.flashKill s k) := by
  unfold State.flashKill
  repeat' with_reducible first
    | assumption
    | decide
    | exact Does.refl _ _
    | (intro x; first | (have _h : State := x; clear _h; clear_value (hx : x = _); refine Does.bind (l := [.flashFlaws, .drawn]) (s := s) hx ?_ (fun _ => ?_)) | (have _h : _ × State := x; clear _h; clear_value (hx : x = _); refine Does.bindSnd (l := [.flashFlaws, .drawn]) (s := s) hx ?_ (fun _ => ?_)) | clear_value x)
    | lift_lets
    | (apply Does.step; on_goal 1 => first | apply State.draw_does)
    | (apply Does.step; on_goal 1 => first | apply Does.flashFlaws)
    | dsimp only

theorem State.flashSpoil_does (s o ecc) : Does [.flashFlaws, .drawn] s (State.flashSpoil s o ecc) := by
  unfold State.flashSpoil
  repeat' with_reducible first
    | assumption
    | decide
    | exact Does.refl _ _
    | (intro x; first | (have _h : State := x; clear _h; clear_value (hx : x = _); refine Does.bind (l := [.flashFlaws, .drawn]) (s := s) hx ?_ (fun _ => ?_)) | clear_value x)
    | lift_lets
    | (apply Does.step; on_goal 1 => first | apply State.flashKill_does)
    | refine State.when_does (fun s => ?_) ?_
    | refine Does.ite ?_ ?_
    | refine Does.iteSnd ?_ ?_
    | split
    | (apply Does.step; on_goal 1 => first | apply Does.flashFlaws)
    | dsimp only

theorem State.flashRead_does (s a ecc) : Does [.one MGT_LOG_STAT, .faults, .reel, .mgt, .can, .spi, .flashFlaws, .drawn] s (State.flashRead s a ecc).2 := by
  unfold State.flashRead
  repeat' with_reducible first
    | assumption
    | decide
    | exact Does.refl _ _
    | (intro x; first | (have _h : State := x; clear _h; clear_value (hx : x = _); refine Does.bind (l := [.one MGT_LOG_STAT, .faults, .reel, .mgt, .can, .spi, .flashFlaws, .drawn]) (s := s) hx ?_ (fun _ => ?_)) | clear_value x)
    | lift_lets
    | (apply Does.step; on_goal 1 => first | apply State.refuse_does | apply State.flashSpoil_does | apply State.raise_does)
    | refine Does.ite ?_ ?_
    | refine Does.iteSnd ?_ ?_
    | split
    | dsimp only

end Sys2Proof.Machine
end

