-- ==== Sys2Proof/Laws/Window.lean ====
section
/-!
SUPPORT. What each operation of Sys2Proof/Machine/Window.lean can do at most.
-/

-- One proof after the other: as one text the package would otherwise ask for more threads than there is memory for.
set_option Elab.async false
namespace Sys2Proof.Machine

theorem State.placeLate_does (s a w) : Does [.one SPI_LATE, .one SPI_HERR, .one MGT_LOG_STAT, .faults, .reel, .mgt, .can, .spi] s (State.placeLate s a w) := by
  unfold State.placeLate
  repeat' with_reducible first
    | assumption
    | decide
    | exact Does.refl _ _
    | (intro x; first | (have _h : State := x; clear _h; clear_value (hx : x = _); refine Does.bind (l := [.one SPI_LATE, .one SPI_HERR, .one MGT_LOG_STAT, .faults, .reel, .mgt, .can, .spi]) (s := s) hx ?_ (fun _ => ?_)) | clear_value x)
    | lift_lets
    | (apply Does.step; on_goal 1 => first | exact State.bump_does _ SPI_HERR.LOST _ (by with_unfolding_all exact Field.has_one SPI_HERR) | exact State.setWord_does _ SPI_LATE _ (by with_unfolding_all exact Field.has_one SPI_LATE) | apply State.raise_does)
    | refine State.when_does (fun s => ?_) ?_
    | (apply Does.step; on_goal 1 => first | apply Does.spi)
    | dsimp only

theorem State.dropLate_does (s) : Does [.one SPI_LATE, .one SPI_HERR, .one MGT_LOG_STAT, .faults, .reel, .mgt, .can] s (State.dropLate s) := by
  unfold State.dropLate
  repeat' with_reducible first
    | assumption
    | decide
    | exact Does.refl _ _
    | (apply Does.step; on_goal 1 => first | exact State.bump_does _ SPI_HERR.LOST _ (by with_unfolding_all exact Field.has_one SPI_HERR) | exact State.setWord_does _ SPI_LATE _ (by with_unfolding_all exact Field.has_one SPI_LATE) | apply State.raise_does)
    | refine Does.ite ?_ ?_
    | refine Does.iteSnd ?_ ?_
    | dsimp only

theorem State.mwBegin_does (s j) : Does [.one SPI_MW_STAT, .spi] s (State.mwBegin s j) := by
  unfold State.mwBegin
  repeat' with_reducible first
    | assumption
    | decide
    | exact Does.refl _ _
    | (intro x; first | (have _h : State := x; clear _h; clear_value (hx : x = _); refine Does.bind (l := [.one SPI_MW_STAT, .spi]) (s := s) hx ?_ (fun _ => ?_)) | clear_value x)
    | lift_lets
    | (apply Does.step; on_goal 1 => first | exact State.put_does _ SPI_MW_STAT.BUSY _ (by with_unfolding_all exact Field.has_one SPI_MW_STAT))
    | (apply Does.step; on_goal 1 => first | apply Does.spi)
    | dsimp only

theorem State.frameClose_does (s discard) : Does [.one SPI_STAT, .one SPI_HCNT, .one SPI_MW_STAT, .one MGT_LOG_STAT, .faults, .reel, .mgt, .can, .spi] s (State.frameClose s discard) := by
  unfold State.frameClose
  repeat' with_reducible first
    | assumption
    | decide
    | exact Does.refl _ _
    | (intro x; first | (have _h : State := x; clear _h; clear_value (hx : x = _); refine Does.bind (l := [.one SPI_STAT, .one SPI_HCNT, .one SPI_MW_STAT, .one MGT_LOG_STAT, .faults, .reel, .mgt, .can, .spi]) (s := s) hx ?_ (fun _ => ?_)) | clear_value x)
    | lift_lets
    | (apply Does.step; on_goal 1 => first | exact State.put_does _ SPI_STAT.FRAME_ERR _ (by with_unfolding_all exact Field.has_one SPI_STAT) | exact State.bump_does _ SPI_HCNT.DISCARDS _ (by with_unfolding_all exact Field.has_one SPI_HCNT) | exact State.bump_does _ SPI_HCNT.FRAMES _ (by with_unfolding_all exact Field.has_one SPI_HCNT) | apply State.mwBegin_does | apply State.raise_does)
    | refine State.when_does (fun s => ?_) ?_
    | refine Does.ite ?_ ?_
    | refine Does.iteSnd ?_ ?_
    | split
    | (apply Does.step; on_goal 1 => first | apply Does.spi)
    | dsimp only

theorem State.mwForget_does (s) : Does [.one SPI_MW_STAT, .spi] s (State.mwForget s) := by
  unfold State.mwForget
  repeat' with_reducible first
    | assumption
    | decide
    | exact Does.refl _ _
    | (intro x; first | (have _h : State := x; clear _h; clear_value (hx : x = _); refine Does.bind (l := [.one SPI_MW_STAT, .spi]) (s := s) hx ?_ (fun _ => ?_)) | clear_value x)
    | lift_lets
    | (apply Does.step; on_goal 1 => first | exact State.put_does _ SPI_MW_STAT.LINE_VALID _ (by with_unfolding_all exact Field.has_one SPI_MW_STAT))
    | (apply Does.step; on_goal 1 => first | apply Does.spi)
    | dsimp only

theorem State.mwRead_does (s o can) : Does [.one SPI_MW_STAT, .spi] s (State.mwRead s o can).2 := by
  unfold State.mwRead
  repeat' with_reducible first
    | assumption
    | decide
    | exact Does.refl _ _
    | (intro x; first | (have _h : State := x; clear _h; clear_value (hx : x = _); refine Does.bind (l := [.one SPI_MW_STAT, .spi]) (s := s) hx ?_ (fun _ => ?_)) | clear_value x)
    | lift_lets
    | (apply Does.step; on_goal 1 => first | apply State.refuse_does | apply State.mwBegin_does)
    | refine Does.ite ?_ ?_
    | refine Does.iteSnd ?_ ?_
    | split
    | dsimp only

theorem State.mwWrite_does (s o v) : Does [.one SPI_MW_STAT, .spi] s (State.mwWrite s o v) := by
  unfold State.mwWrite
  repeat' with_reducible first
    | assumption
    | decide
    | exact Does.refl _ _
    | (intro x; first | (have _h : State := x; clear _h; clear_value (hx : x = _); refine Does.bind (l := [.one SPI_MW_STAT, .spi]) (s := s) hx ?_ (fun _ => ?_)) | clear_value x)
    | lift_lets
    | (apply Does.step; on_goal 1 => first | apply State.refuse_does | apply State.mwForget_does)
    | refine Does.ite ?_ ?_
    | refine Does.iteSnd ?_ ?_
    | (apply Does.step; on_goal 1 => first | apply Does.spi)
    | dsimp only

theorem State.mwFlush_does (s) : Does [.one SPI_MW_STAT, .spi] s (State.mwFlush s) := by
  unfold State.mwFlush
  repeat' with_reducible first
    | assumption
    | decide
    | exact Does.refl _ _
    | (apply Does.step; on_goal 1 => first | apply State.mwBegin_does)
    | refine State.when_does (fun s => ?_) ?_
    | dsimp only

theorem State.mwBase_does (s v) : Does [.one SPI_MW_BASE, .one SPI_MW_STAT, .spi] s (State.mwBase s v) := by
  unfold State.mwBase
  repeat' with_reducible first
    | assumption
    | decide
    | exact Does.refl _ _
    | (apply Does.step; on_goal 1 => first | exact State.setWord_does _ SPI_MW_BASE _ (by with_unfolding_all exact Field.has_one SPI_MW_BASE) | apply State.mwForget_does | apply State.refuse_does)
    | refine Does.ite ?_ ?_
    | refine Does.iteSnd ?_ ?_
    | dsimp only

theorem State.mwRaw_does (s v) : Does [.one SPI_MW_STAT, .one SPI_MW_RAW, .spi] s (State.mwRaw s v) := by
  unfold State.mwRaw
  repeat' with_reducible first
    | assumption
    | decide
    | exact Does.refl _ _
    | (apply Does.step; on_goal 1 => first | exact State.setWord_does _ SPI_MW_RAW _ (by with_unfolding_all exact Field.has_one SPI_MW_RAW) | apply State.mwBegin_does | apply State.refuse_does)
    | refine Does.ite ?_ ?_
    | refine Does.iteSnd ?_ ?_
    | dsimp only

theorem State.mwEnd_does (s err addr) : Does [.one SPI_MW_STAT, .spi] s (State.mwEnd s err addr) := by
  unfold State.mwEnd
  repeat' with_reducible first
    | assumption
    | decide
    | exact Does.refl _ _
    | (intro x; first | (have _h : State := x; clear _h; clear_value (hx : x = _); refine Does.bind (l := [.one SPI_MW_STAT, .spi]) (s := s) hx ?_ (fun _ => ?_)) | clear_value x)
    | lift_lets
    | (apply Does.step; on_goal 1 => first | exact State.put_does _ SPI_MW_STAT.ERR _ (by with_unfolding_all exact Field.has_one SPI_MW_STAT) | exact State.put_does _ SPI_MW_STAT.DONE _ (by with_unfolding_all exact Field.has_one SPI_MW_STAT) | exact State.put_does _ SPI_MW_STAT.BUSY _ (by with_unfolding_all exact Field.has_one SPI_MW_STAT) | exact State.put_does _ SPI_MW_STAT.FAIL_ADDR _ (by with_unfolding_all exact Field.has_one SPI_MW_STAT) | apply State.mwBegin_does)
    | refine State.when_does (fun s => ?_) ?_
    | refine Does.ite ?_ ?_
    | refine Does.iteSnd ?_ ?_
    | (apply Does.step; on_goal 1 => first | apply Does.spi)
    | dsimp only

theorem State.rawAddr_does (s) : Does [.drawn] s (State.rawAddr s).2 := by
  unfold State.rawAddr
  repeat' with_reducible first
    | assumption
    | decide
    | exact Does.refl _ _
    | (intro x; first | (have _h : State := x; clear _h; clear_value (hx : x = _); refine Does.bind (l := [.drawn]) (s := s) hx ?_ (fun _ => ?_)) | (have _h : _ × State := x; clear _h; clear_value (hx : x = _); refine Does.bindSnd (l := [.drawn]) (s := s) hx ?_ (fun _ => ?_)) | clear_value x)
    | lift_lets
    | (apply Does.step; on_goal 1 => first | apply State.draw_does)
    | refine Does.ite ?_ ?_
    | refine Does.iteSnd ?_ ?_
    | dsimp only

theorem State.mwSend_does (s l) : Does [.spi] s (State.mwSend s l) := by
  unfold State.mwSend
  repeat' with_reducible first
    | assumption
    | decide
    | exact Does.refl _ _
    | (intro x; first | (have _h : State := x; clear _h; clear_value (hx : x = _); refine Does.bind (l := [.spi]) (s := s) hx ?_ (fun _ => ?_)) | clear_value x)
    | lift_lets
    | (apply Does.step; on_goal 1 => first | apply Does.spi)
    | dsimp only

theorem State.mwNext_does (s) : Does [.one SPI_MW_STAT, .spi, .drawn] s (State.mwNext s) := by
  unfold State.mwNext
  repeat' with_reducible first
    | assumption
    | decide
    | exact Does.refl _ _
    | (intro x; first | (have _h : State := x; clear _h; clear_value (hx : x = _); refine Does.bind (l := [.one SPI_MW_STAT, .spi, .drawn]) (s := s) hx ?_ (fun _ => ?_)) | (have _h : _ × State := x; clear _h; clear_value (hx : x = _); refine Does.bindSnd (l := [.one SPI_MW_STAT, .spi, .drawn]) (s := s) hx ?_ (fun _ => ?_)) | clear_value x)
    | lift_lets
    | (apply Does.step; on_goal 1 => first | apply State.mwEnd_does | apply State.mwSend_does | apply State.rawAddr_does)
    | refine Does.ite ?_ ?_
    | refine Does.iteSnd ?_ ?_
    | split
    | (apply Does.step; on_goal 1 => first | apply Does.spi)
    | dsimp only

theorem execMwWriteOut_does (s) : ∀ t, execMwWriteOut s = .next t → Does [.one SPI_MW_STAT, .intg, .spi, .drawn] s t := by
  unfold execMwWriteOut
  refine whenPowered_does ?_
  repeat' with_reducible first
    | assumption
    | decide
    | exact Does.refl _ _
    | (apply Does.step; on_goal 1 => first | apply State.mwNext_does)
    | refine State.when_does (fun s => ?_) ?_
    | refine Does.ite ?_ ?_
    | refine Does.iteSnd ?_ ?_
    | dsimp only

theorem execMwPoll_does (st s) : ∀ t, execMwPoll st s = .next t → Does [.one SPI_MW_STAT, .one MGT_LOG_STAT, .faults, .reel, .intg, .mgt, .can, .spi] s t := by
  unfold execMwPoll
  refine whenPowered_does ?_
  repeat' with_reducible first
    | assumption
    | decide
    | exact Does.refl _ _
    | (intro x; first | (have _h : State := x; clear _h; clear_value (hx : x = _); refine Does.bind (l := [.one SPI_MW_STAT, .one MGT_LOG_STAT, .faults, .reel, .intg, .mgt, .can, .spi]) (s := s) hx ?_ (fun _ => ?_)) | clear_value x)
    | lift_lets
    | (apply Does.step; on_goal 1 => first | apply State.mwSend_does | apply State.raise_does | apply State.mwEnd_does)
    | refine State.when_does (fun s => ?_) ?_
    | refine Does.ite ?_ ?_
    | refine Does.iteSnd ?_ ?_
    | split
    | (apply Does.step; on_goal 1 => first | apply Does.spi)
    | dsimp only

theorem execMwTimeout_does (s) : ∀ t, execMwTimeout s = .next t → Does [.one SPI_MW_STAT, .one MGT_LOG_STAT, .faults, .reel, .intg, .mgt, .can, .spi] s t := by
  unfold execMwTimeout
  refine whenPowered_does ?_
  repeat' with_reducible first
    | assumption
    | decide
    | exact Does.refl _ _
    | (apply Does.step; on_goal 1 => first | apply State.raise_does | apply State.mwEnd_does)
    | refine State.when_does (fun s => ?_) ?_
    | split
    | dsimp only

theorem State.svcAnswer_does (s a) : Does [.can] s (State.svcAnswer s a) := by
  unfold State.svcAnswer
  repeat' with_reducible first
    | assumption
    | decide
    | exact Does.refl _ _
    | (intro x; first | (have _h : State := x; clear _h; clear_value (hx : x = _); refine Does.bind (l := [.can]) (s := s) hx ?_ (fun _ => ?_)) | (have _h : Can := x; clear _h; clear_value (hx : x = _); subst hx) | clear_value x)
    | lift_lets
    | (apply Does.step; on_goal 1 => first | (apply Does.can <;> first | rfl | exact id | simp))
    | dsimp only

theorem State.keepLine_does (s a ws) : Does [.one SPI_MW_STAT, .spi] s (State.keepLine s a ws) := by
  unfold State.keepLine
  repeat' with_reducible first
    | assumption
    | decide
    | exact Does.refl _ _
    | (intro x; first | (have _h : State := x; clear _h; clear_value (hx : x = _); refine Does.bind (l := [.one SPI_MW_STAT, .spi]) (s := s) hx ?_ (fun _ => ?_)) | clear_value x)
    | lift_lets
    | (apply Does.step; on_goal 1 => first | exact State.put_does _ SPI_MW_STAT.LINE_VALID _ (by with_unfolding_all exact Field.has_one SPI_MW_STAT) | apply State.mwSend_does)
    | (apply Does.step; on_goal 1 => first | apply Does.spi)
    | dsimp only

theorem State.lateAnew_does (s host w) : Does [.one SPI_LATE, .one SPI_HERR, .one MGT_LOG_STAT, .faults, .reel, .mgt, .can, .spi] s (State.lateAnew s host w) := by
  unfold State.lateAnew
  repeat' with_reducible first
    | assumption
    | decide
    | exact Does.refl _ _
    | (intro x; first | (have _h : State := x; clear _h; clear_value (hx : x = _); refine Does.bind (l := [.one SPI_LATE, .one SPI_HERR, .one MGT_LOG_STAT, .faults, .reel, .mgt, .can, .spi]) (s := s) hx ?_ (fun _ => ?_)) | clear_value x)
    | lift_lets
    | (apply Does.step; on_goal 1 => first | apply State.placeLate_does)
    | (apply Does.step; on_goal 1 => first | apply Does.spi)
    | dsimp only

theorem execMwLineRead_does (l s) : ∀ t, execMwLineRead l s = .next t → Does [.one SPI_LATE, .one SPI_HERR, .one SPI_MW_STAT, .one MGT_LOG_STAT, .faults, .reel, .intg, .mgt, .can, .spi] s t := by
  unfold execMwLineRead
  refine whenPowered_does ?_
  repeat' with_reducible first
    | assumption
    | decide
    | exact Does.refl _ _
    | (intro x; first | (have _h : State := x; clear _h; clear_value (hx : x = _); refine Does.bind (l := [.one SPI_LATE, .one SPI_HERR, .one SPI_MW_STAT, .one MGT_LOG_STAT, .faults, .reel, .intg, .mgt, .can, .spi]) (s := s) hx ?_ (fun _ => ?_)) | clear_value x)
    | lift_lets
    | (apply Does.step; on_goal 1 => first | apply State.mwEnd_does | apply State.keepLine_does | apply State.svcAnswer_does | apply State.lateAnew_does)
    | refine State.when_does (fun s => ?_) ?_
    | refine Does.ite ?_ ?_
    | refine Does.iteSnd ?_ ?_
    | split
    | dsimp only

theorem execMwApertureRead_does (o s) : ∀ t, execMwApertureRead o s = .next t → Does [.one SPI_HERR, .one SPI_MW_STAT, .one MGT_LOG_STAT, .faults, .reel, .intg, .mgt, .can, .spi] s t := by
  unfold execMwApertureRead
  refine hostAccess_does ?_
  repeat' with_reducible first
    | assumption
    | decide
    | exact Does.refl _ _
    | (intro x; first | (have _h : State := x; clear _h; clear_value (hx : x = _); refine Does.bind (l := [.one SPI_HERR, .one SPI_MW_STAT, .one MGT_LOG_STAT, .faults, .reel, .intg, .mgt, .can, .spi]) (s := s) hx ?_ (fun _ => ?_)) | (have _h : _ × State := x; clear _h; clear_value (hx : x = _); refine Does.bindSnd (l := [.one SPI_HERR, .one SPI_MW_STAT, .one MGT_LOG_STAT, .faults, .reel, .intg, .mgt, .can, .spi]) (s := s) hx ?_ (fun _ => ?_)) | clear_value x)
    | lift_lets
    | (apply Does.step; on_goal 1 => first | exact State.bump_does _ SPI_HERR.LATE _ (by with_unfolding_all exact Field.has_one SPI_HERR) | apply State.mwRead_does | apply State.raise_does | apply State.outcome_does)
    | split
    | refine Does.ofPair (by assumption) ?_
    | (apply Does.step; on_goal 1 => first | apply Does.spi)
    | dsimp only

theorem execMwApertureWrite_does (o v s) : ∀ t, execMwApertureWrite o v s = .next t → Does [.one SPI_MW_STAT, .intg, .spi] s t := by
  unfold execMwApertureWrite
  refine hostAccess_does ?_
  repeat' with_reducible first
    | assumption
    | decide
    | exact Does.refl _ _
    | (apply Does.step; on_goal 1 => first | apply State.mwFlush_does | apply State.mwWrite_does)
    | dsimp only

theorem execMwBaseWrite_does (v s) : ∀ t, execMwBaseWrite v s = .next t → Does [.one SPI_MW_BASE, .one SPI_MW_STAT, .intg, .spi] s t := by
  unfold execMwBaseWrite
  refine hostAccess_does ?_
  repeat' with_reducible first
    | assumption
    | decide
    | exact Does.refl _ _
    | (apply Does.step; on_goal 1 => first | apply State.mwBase_does)
    | dsimp only

theorem execMwRawGo_does (v s) : ∀ t, execMwRawGo v s = .next t → Does [.one SPI_MW_STAT, .one SPI_MW_RAW, .intg, .spi, .drawn] s t := by
  unfold execMwRawGo
  refine hostAccess_does ?_
  repeat' with_reducible first
    | assumption
    | decide
    | exact Does.refl _ _
    | (intro x; first | (have _h : State := x; clear _h; clear_value (hx : x = _); refine Does.bind (l := [.one SPI_MW_STAT, .one SPI_MW_RAW, .intg, .spi, .drawn]) (s := s) hx ?_ (fun _ => ?_)) | clear_value x)
    | lift_lets
    | (apply Does.step; on_goal 1 => first | apply State.mwRaw_does | apply State.mwNext_does)
    | refine State.when_does (fun s => ?_) ?_
    | dsimp only

theorem State.mmFault_does (s) : Does [.one SPI_STAT, .one SPI_MW_STAT, .one MGT_LOG_STAT, .faults, .reel, .mgt, .can, .spi, .chn, .drawn] s (State.mmFault s) := by
  unfold State.mmFault
  repeat' with_reducible first
    | assumption
    | decide
    | exact Does.refl _ _
    | (intro x; first | (have _h : State := x; clear _h; clear_value (hx : x = _); refine Does.bind (l := [.one SPI_STAT, .one SPI_MW_STAT, .one MGT_LOG_STAT, .faults, .reel, .mgt, .can, .spi, .chn, .drawn]) (s := s) hx ?_ (fun _ => ?_)) | (have _h : _ × State := x; clear _h; clear_value (hx : x = _); refine Does.bindSnd (l := [.one SPI_STAT, .one SPI_MW_STAT, .one MGT_LOG_STAT, .faults, .reel, .mgt, .can, .spi, .chn, .drawn]) (s := s) hx ?_ (fun _ => ?_)) | (have _h : Chn := x; clear _h; clear_value (hx : x = _); subst hx) | clear_value x)
    | lift_lets
    | (apply Does.step; on_goal 1 => first | exact State.put_does _ SPI_STAT.MM_FAULT _ (by with_unfolding_all exact Field.has_one SPI_STAT) | apply State.drawWord_does | apply State.mwEnd_does | apply State.svcAnswer_does | apply State.rawAddr_does | apply State.raise_does)
    | refine Does.ite ?_ ?_
    | refine Does.iteSnd ?_ ?_
    | split
    | (apply Does.step; on_goal 1 => first | apply Does.spi | (apply Does.chn <;> first | rfl | exact id | simp))
    | with_unfolding_all exact Does.ofOnly (by rintro ⟨⟩ hk <;> first | rfl | trivial | exact absurd (by decide) hk) (fun _ _ => rfl) (fun h => { h with })
    | (refine Does.trans (by assumption) ?_; with_unfolding_all exact Does.ofOnly (by rintro ⟨⟩ hk <;> first | rfl | trivial | exact absurd (by decide) hk) (fun _ _ => rfl) (fun h => { h with }))
    | dsimp only

theorem execMmFault_does (s) : ∀ t, execMmFault s = .next t → Does [.one SPI_STAT, .one SPI_MW_STAT, .one MGT_LOG_STAT, .faults, .reel, .intg, .mgt, .can, .spi, .chn, .drawn] s t := by
  unfold execMmFault
  refine whenPowered_does ?_
  repeat' with_reducible first
    | assumption
    | decide
    | exact Does.refl _ _
    | (apply Does.step; on_goal 1 => first | apply State.mmFault_does)
    | refine State.when_does (fun s => ?_) ?_
    | refine Does.ite ?_ ?_
    | refine Does.iteSnd ?_ ?_
    | dsimp only

end Sys2Proof.Machine
end

