-- ==== Sys2Proof/Laws/Sys.lean ====
section
/-!
SUPPORT. What each operation of Sys2Proof/Machine/Sys.lean can do at most.
-/

-- One proof after the other: as one text the package would otherwise ask for more threads than there is memory for.
set_option Elab.async false
namespace Sys2Proof.Machine

theorem State.wiped_does (s) : Does Parts.sleepEntryDone s (State.wiped s) := by
  unfold State.wiped
  have h : Does Parts.sleepEntryDone s { part := s.part, keep := s.keep, flash := s.flash, flashFlaws := s.flashFlaws, drawn := s.drawn, pending := s.pending } :=
    Does.ofOnly (by rintro ⟨⟩ hk <;> first | rfl | trivial | exact absurd (by decide) hk) (fun a ha => (ha .regs (by decide) trivial).elim) (fun h => by
      constructor <;> first | exact h.flash | rfl | (dsimp only; decide) | (intro g hg; obtain rfl := List.eq_of_mem_replicate hg; exact ⟨rfl, rfl⟩) | (intro m hm; obtain rfl := List.eq_of_mem_replicate hm; exact ⟨rfl, fun h hh => by obtain rfl := List.eq_of_mem_replicate hh; exact ⟨by decide, by decide, by decide⟩⟩))
  exact Does.step (State.put_does _ SYS_STAT.OV _ (Field.has_one _)) rfl (Does.step (State.put_does _ SYS_STAT.LV _ (Field.has_one _)) rfl (Does.step (Does.sys _ _) rfl h))

theorem State.resetBy_does (s c) : Does Parts.reset s (State.resetBy s c) := by
  unfold State.resetBy
  repeat' with_reducible first
    | assumption
    | decide
    | exact Does.refl _ _
    | (intro x; first | (have _h : State := x; clear _h; clear_value (hx : x = _); refine Does.bind (l := Parts.reset) (s := s) hx ?_ (fun _ => ?_)) | clear_value x)
    | lift_lets
    | (apply Does.step; on_goal 1 => first | apply State.wiped_does)
    | refine Does.ite ?_ ?_
    | refine Does.iteSnd ?_ ?_
    | (apply Does.step; on_goal 1 => first | apply Does.sys | apply Does.keep)
    | with_unfolding_all exact Does.ofOnly (by rintro ⟨⟩ hk <;> first | rfl | trivial | exact absurd (by decide) hk) (fun _ _ => rfl) (fun h => { h with })
    | (refine Does.trans (by assumption) ?_; with_unfolding_all exact Does.ofOnly (by rintro ⟨⟩ hk <;> first | rfl | trivial | exact absurd (by decide) hk) (fun _ _ => rfl) (fun h => { h with }))
    | dsimp only

theorem State.modeRefuse_does (s reason) : Does [.one SYS_MODE, .one MGT_LOG_STAT, .faults, .reel, .mgt, .can] s (State.modeRefuse s reason) := by
  unfold State.modeRefuse
  repeat' with_reducible first
    | assumption
    | decide
    | exact Does.refl _ _
    | (apply Does.step; on_goal 1 => first | exact State.put_does _ SYS_MODE.REASON _ (by with_unfolding_all exact Field.has_one SYS_MODE) | apply State.raise_does)
    | dsimp only

theorem State.modeRequest_does (s p v) : Does Parts.reset s (State.modeRequest s p v) := by
  unfold State.modeRequest
  repeat' with_reducible first
    | assumption
    | decide
    | exact Does.refl _ _
    | (intro x; first | (have _h : State := x; clear _h; clear_value (hx : x = _); refine Does.bind (l := Parts.reset) (s := s) hx ?_ (fun _ => ?_)) | clear_value x)
    | lift_lets
    | (apply Does.step; on_goal 1 => first | exact State.put_does _ SYS_MODE.PEND _ (by with_unfolding_all exact Field.has_one SYS_MODE) | apply State.refuse_does | apply State.resetBy_does | apply State.modeRefuse_does | apply State.wakeAll_does)
    | refine Does.ite ?_ ?_
    | refine Does.iteSnd ?_ ?_
    | (apply Does.step; on_goal 1 => first | apply Does.sys)
    | dsimp only

theorem State.hostRequest_does (s req key) : Does Parts.reset s (State.hostRequest s req key) := by
  unfold State.hostRequest
  repeat' with_reducible first
    | assumption
    | decide
    | exact Does.refl _ _
    | (apply Does.step; on_goal 1 => first | apply State.modeRequest_does)
    | dsimp only

theorem execModeReqStandby_does (key s) : ∀ t, execModeReqStandby key s = .next t → Does Parts.reset s t := by
  unfold execModeReqStandby
  refine hostAccess_does ?_
  repeat' with_reducible first
    | assumption
    | decide
    | exact Does.refl _ _
    | (apply Does.step; on_goal 1 => first | apply State.hostRequest_does)
    | dsimp only

theorem execModeReqRun_does (key s) : ∀ t, execModeReqRun key s = .next t → Does Parts.reset s t := by
  unfold execModeReqRun
  refine hostAccess_does ?_
  repeat' with_reducible first
    | assumption
    | decide
    | exact Does.refl _ _
    | (apply Does.step; on_goal 1 => first | apply State.hostRequest_does)
    | dsimp only

theorem execModeReqSafe_does (key s) : ∀ t, execModeReqSafe key s = .next t → Does Parts.reset s t := by
  unfold execModeReqSafe
  refine hostAccess_does ?_
  repeat' with_reducible first
    | assumption
    | decide
    | exact Does.refl _ _
    | (apply Does.step; on_goal 1 => first | apply State.hostRequest_does)
    | dsimp only

theorem execModeReqService_does (key s) : ∀ t, execModeReqService key s = .next t → Does Parts.reset s t := by
  unfold execModeReqService
  refine hostAccess_does ?_
  repeat' with_reducible first
    | assumption
    | decide
    | exact Does.refl _ _
    | (apply Does.step; on_goal 1 => first | apply State.hostRequest_does)
    | dsimp only

theorem execModeReqSleep_does (key s) : ∀ t, execModeReqSleep key s = .next t → Does Parts.reset s t := by
  unfold execModeReqSleep
  refine hostAccess_does ?_
  repeat' with_reducible first
    | assumption
    | decide
    | exact Does.refl _ _
    | (apply Does.step; on_goal 1 => first | apply State.hostRequest_does)
    | dsimp only

theorem execModeReqReset_does (key s) : ∀ t, execModeReqReset key s = .next t → Does Parts.reset s t := by
  unfold execModeReqReset
  refine hostAccess_does ?_
  repeat' with_reducible first
    | assumption
    | decide
    | exact Does.refl _ _
    | (apply Does.step; on_goal 1 => first | apply State.hostRequest_does)
    | dsimp only

theorem State.changeMode_does (s m cause) : Does [.one SYS_MODE, .one INT_SAFE_CAUSE, .one MGT_LOG_STAT, .faults, .sys, .mgt, .can] s (State.changeMode s m cause) := by
  unfold State.changeMode
  repeat' with_reducible first
    | assumption
    | decide
    | exact Does.refl _ _
    | (intro x; first | (have _h : State := x; clear _h; clear_value (hx : x = _); refine Does.bind (l := [.one SYS_MODE, .one INT_SAFE_CAUSE, .one MGT_LOG_STAT, .faults, .sys, .mgt, .can]) (s := s) hx ?_ (fun _ => ?_)) | clear_value x)
    | lift_lets
    | (apply Does.step; on_goal 1 => first | apply State.safeCauseEnd_does | apply State.enter_does)
    | refine Does.ite ?_ ?_
    | refine Does.iteSnd ?_ ?_
    | (apply Does.step; on_goal 1 => first | apply Does.sys)
    | dsimp only

theorem State.safeEntry_does (s) : Does [.one SYS_MODE, .one INT_SAFE_CAUSE, .one MGT_LOG_STAT, .faults, .sys, .reel, .mgt, .can] s (State.safeEntry s) := by
  unfold State.safeEntry
  repeat' with_reducible first
    | assumption
    | decide
    | exact Does.refl _ _
    | (intro x; first | (have _h : State := x; clear _h; clear_value (hx : x = _); refine Does.bind (l := [.one SYS_MODE, .one INT_SAFE_CAUSE, .one MGT_LOG_STAT, .faults, .sys, .reel, .mgt, .can]) (s := s) hx ?_ (fun _ => ?_)) | clear_value x)
    | lift_lets
    | (apply Does.step; on_goal 1 => first | exact State.put_does _ SYS_MODE.PEND _ (by with_unfolding_all exact Field.has_one SYS_MODE) | apply State.modeRefuse_does | apply State.changeMode_does)
    | refine Does.ite ?_ ?_
    | refine Does.iteSnd ?_ ?_
    | dsimp only

theorem State.applyWaits_does (s) : Does [.one CLK_CUT_STAT] s (State.applyWaits s) := by
  unfold State.applyWaits
  repeat' with_reducible first
    | assumption
    | decide
    | exact Does.refl _ _
    | (apply Does.step; on_goal 1 => first | exact State.put_does _ CLK_CUT_STAT.APPLY_WAIT _ (by with_unfolding_all exact Field.has_one CLK_CUT_STAT))
    | dsimp only

theorem State.sleepItems_does (s) : Does [.clk, .sys, .keep] s (State.sleepItems s) := by
  unfold State.sleepItems
  repeat' with_reducible first
    | assumption
    | decide
    | exact Does.refl _ _
    | (intro x; first | (have _h : State := x; clear _h; clear_value (hx : x = _); refine Does.bind (l := [.clk, .sys, .keep]) (s := s) hx ?_ (fun _ => ?_)) | clear_value x)
    | lift_lets
    | refine Does.ite ?_ ?_
    | refine Does.iteSnd ?_ ?_
    | (apply Does.step; on_goal 1 => first | apply Does.clk | apply Does.sys | apply Does.keep)
    | with_unfolding_all exact Does.ofOnly (by rintro ⟨⟩ hk <;> first | rfl | trivial | exact absurd (by decide) hk) (fun _ _ => rfl) (fun h => { h with })
    | (refine Does.trans (by assumption) ?_; with_unfolding_all exact Does.ofOnly (by rintro ⟨⟩ hk <;> first | rfl | trivial | exact absurd (by decide) hk) (fun _ _ => rfl) (fun h => { h with }))
    | dsimp only

theorem State.sleepApply_does (s cause) : Does [.one SYS_MODE, .one MGT_LOG_SEQ, .one MGT_LOG_STAT, .faults, .clk, .sys, .keep, .reel, .mgt, .can, .flash, .drawn] s (State.sleepApply s cause) := by
  unfold State.sleepApply
  repeat' with_reducible first
    | assumption
    | decide
    | exact Does.refl _ _
    | (intro x; first | (have _h : State := x; clear _h; clear_value (hx : x = _); refine Does.bind (l := [.one SYS_MODE, .one MGT_LOG_SEQ, .one MGT_LOG_STAT, .faults, .clk, .sys, .keep, .reel, .mgt, .can, .flash, .drawn]) (s := s) hx ?_ (fun _ => ?_)) | clear_value x)
    | lift_lets
    | (apply Does.step; on_goal 1 => first | apply State.enter_does | apply State.sleepItems_does | apply State.writeRecord_does)
    | refine State.when_does (fun s => ?_) ?_
    | dsimp only

theorem State.requestApply_does (s) : Does [.one SYS_MODE, .one CLK_CUT_STAT, .one INT_SAFE_CAUSE, .one MGT_LOG_SEQ, .one MGT_LOG_STAT, .faults, .clk, .sys, .keep, .reel, .mgt, .can, .flash, .drawn] s (State.requestApply s) := by
  unfold State.requestApply
  repeat' with_reducible first
    | assumption
    | decide
    | exact Does.refl _ _
    | (intro x; first | (have _h : State := x; clear _h; clear_value (hx : x = _); refine Does.bind (l := [.one SYS_MODE, .one CLK_CUT_STAT, .one INT_SAFE_CAUSE, .one MGT_LOG_SEQ, .one MGT_LOG_STAT, .faults, .clk, .sys, .keep, .reel, .mgt, .can, .flash, .drawn]) (s := s) hx ?_ (fun _ => ?_)) | clear_value x)
    | lift_lets
    | (apply Does.step; on_goal 1 => first | exact State.put_does _ SYS_MODE.PEND _ (by with_unfolding_all exact Field.has_one SYS_MODE) | apply State.modeRefuse_does | apply State.applyWaits_does | apply State.changeMode_does | apply State.safeCause_does | apply State.sleepApply_does)
    | refine Does.ite ?_ ?_
    | refine Does.iteSnd ?_ ?_
    | split
    | dsimp only

theorem State.modeApply_does (s) : Does [.one SYS_MODE, .one CLK_CUT_STAT, .one INT_SAFE_CAUSE, .one MGT_LOG_SEQ, .one MGT_LOG_STAT, .faults, .clk, .sys, .keep, .reel, .mgt, .can, .flash, .drawn] s (State.modeApply s) := by
  unfold State.modeApply
  repeat' with_reducible first
    | assumption
    | decide
    | exact Does.refl _ _
    | (apply Does.step; on_goal 1 => first | apply State.requestApply_does | apply State.safeEntry_does)
    | dsimp only

theorem State.degradeCut_does (s) : Does [.one SYS_MODE, .one INT_SAFE_CAUSE, .one MGT_LOG_STAT, .faults, .sys, .mgt, .can] s (State.degradeCut s) := by
  unfold State.degradeCut
  repeat' with_reducible first
    | assumption
    | decide
    | exact Does.refl _ _
    | (intro x; first | (have _h : State := x; clear _h; clear_value (hx : x = _); refine Does.bind (l := [.one SYS_MODE, .one INT_SAFE_CAUSE, .one MGT_LOG_STAT, .faults, .sys, .mgt, .can]) (s := s) hx ?_ (fun _ => ?_)) | clear_value x)
    | lift_lets
    | (apply Does.step; on_goal 1 => first | apply State.changeMode_does)
    | refine Does.ite ?_ ?_
    | refine Does.iteSnd ?_ ?_
    | dsimp only

theorem State.autoRunCut_does (s) : Does [.one SYS_MODE, .row MEM_B_STAT, .one INT_SAFE_CAUSE, .one MGT_LOG_STAT, .faults, .sys, .mgt, .can] s (State.autoRunCut s) := by
  unfold State.autoRunCut
  repeat' with_reducible first
    | assumption
    | decide
    | exact Does.refl _ _
    | (intro x; first | (have _h : State := x; clear _h; clear_value (hx : x = _); refine Does.bind (l := [.one SYS_MODE, .row MEM_B_STAT, .one INT_SAFE_CAUSE, .one MGT_LOG_STAT, .faults, .sys, .mgt, .can]) (s := s) hx ?_ (fun _ => ?_)) | clear_value x)
    | lift_lets
    | (apply Does.step; on_goal 1 => first | apply State.changeMode_does | apply State.wakeAll_does)
    | refine Does.ite ?_ ?_
    | refine Does.iteSnd ?_ ?_
    | split
    | (apply Does.step; on_goal 1 => first | apply Does.sys)
    | dsimp only

theorem State.ovCut_does (s) : Does [.sys, .intg] s (State.ovCut s) := by
  unfold State.ovCut
  repeat' with_reducible first
    | assumption
    | decide
    | exact Does.refl _ _
    | (intro x; first | (have _h : State := x; clear _h; clear_value (hx : x = _); refine Does.bind (l := [.sys, .intg]) (s := s) hx ?_ (fun _ => ?_)) | clear_value x)
    | lift_lets
    | refine Does.ite ?_ ?_
    | refine Does.iteSnd ?_ ?_
    | (apply Does.step; on_goal 1 => first | apply Does.sys | apply Does.intg)
    | with_unfolding_all exact Does.ofOnly (by rintro ⟨⟩ hk <;> first | rfl | trivial | exact absurd (by decide) hk) (fun _ _ => rfl) (fun h => { h with })
    | (refine Does.trans (by assumption) ?_; with_unfolding_all exact Does.ofOnly (by rintro ⟨⟩ hk <;> first | rfl | trivial | exact absurd (by decide) hk) (fun _ _ => rfl) (fun h => { h with }))
    | dsimp only

theorem State.safeAxes_does (s) : Does [.one MOD_STAT, .row MOD_AX_STAT, .row PWR_AX_LIVE, .one INT_AXCAUSE_LO, .one INT_AXCAUSE_HI, .sys, .intg, .mods, .pwr] s (State.safeAxes s) := by
  unfold State.safeAxes
  repeat' with_reducible first
    | assumption
    | decide
    | exact Does.refl _ _
    | (intro x; first | (have _h : State := x; clear _h; clear_value (hx : x = _); refine Does.bind (l := [.one MOD_STAT, .row MOD_AX_STAT, .row PWR_AX_LIVE, .one INT_AXCAUSE_LO, .one INT_AXCAUSE_HI, .sys, .intg, .mods, .pwr]) (s := s) hx ?_ (fun _ => ?_)) | clear_value x)
    | lift_lets
    | (apply Does.step; on_goal 1 => first | apply State.allSafe_does)
    | refine Does.ite ?_ ?_
    | refine Does.iteSnd ?_ ?_
    | (apply Does.step; on_goal 1 => first | apply Does.sys)
    | dsimp only

theorem State.engStates_does (s a b) : Does [.one ENG_STAT, .row ENG_E_STAT] s (State.engStates s a b) := by
  unfold State.engStates
  repeat' with_reducible first
    | assumption
    | decide
    | exact Does.refl _ _
    | (apply Does.step; on_goal 1 => first | apply State.setEngState_does)
    | refine State.each_does (fun s b => ?_) ?_
    | refine Does.ite ?_ ?_
    | refine Does.iteSnd ?_ ?_
    | dsimp only

/-- What `State.enterStandby` and its like may change. -/
def Parts.ofEnterStandby : List Field :=
  [.one CLK_STAT, .one ENG_STAT, .row ENG_E_STAT, .one MOD_STAT, .one MOD_CMT_PEND, .one MOD_ILOCK_CNT, .row MOD_AX_STAT,
    .row MOD_AX_FORCE, .one PWR_STAT, .row PWR_AX_LIVE, .row MEM_B_STAT, .one INT_AXCAUSE_LO, .one INT_AXCAUSE_HI,
    .one MGT_LOG_STAT, .faults, .reel, .intg, .mgt, .can, .mem, .mods, .modg, .pwr, .adc, .drawn]

theorem State.enterStandby_does (s) : Does Parts.ofEnterStandby s (State.enterStandby s) := by
  unfold State.enterStandby
  repeat' with_reducible first
    | assumption
    | decide
    | exact Does.refl _ _
    | (intro x; first | (have _h : State := x; clear _h; clear_value (hx : x = _); refine Does.bind (l := Parts.ofEnterStandby) (s := s) hx ?_ (fun _ => ?_)) | clear_value x)
    | lift_lets
    | (apply Does.step; on_goal 1 => first | exact State.put_does _ ⟨CLK_STAT, _, _⟩ _ (by with_unfolding_all exact Field.has_one CLK_STAT) | apply State.engStates_does | apply State.modStandby_does | apply State.retainAll_does | apply State.pumpEnter_does | apply State.adcStandby_does)
    | refine State.each_does (fun s b => ?_) ?_
    | dsimp only

/-- What `State.leaveStandby` and its like may change. -/
def Parts.ofLeaveStandby : List Field :=
  [.one ENG_STAT, .row ENG_E_STAT, .one MOD_STAT, .one MOD_ILOCK_CNT, .row MOD_AX_STAT, .row MOD_AX_FORCE,
    .row PWR_AX_LIVE, .row MEM_B_STAT, .one INT_AXCAUSE_LO, .one INT_AXCAUSE_HI, .one MGT_LOG_STAT, .faults, .reel,
    .intg, .mgt, .can, .mods, .modg, .pwr]

theorem State.leaveStandby_does (s) : Does Parts.ofLeaveStandby s (State.leaveStandby s) := by
  unfold State.leaveStandby
  repeat' with_reducible first
    | assumption
    | decide
    | exact Does.refl _ _
    | (intro x; first | (have _h : State := x; clear _h; clear_value (hx : x = _); refine Does.bind (l := Parts.ofLeaveStandby) (s := s) hx ?_ (fun _ => ?_)) | clear_value x)
    | lift_lets
    | (apply Does.step; on_goal 1 => first | exact State.put_does _ (MOD_AX_STAT.FIRST_WAIT _) _ (by with_unfolding_all exact Field.has_row MOD_AX_STAT (fun _ => rfl) _) | apply State.engStates_does | apply State.wakeAll_does | apply State.driveChecked_does)
    | refine State.each_does (fun s b => ?_) ?_
    | (apply Does.step; on_goal 1 => first | apply Does.modg)
    | dsimp only

theorem State.leaveService_does (s) : Does [.one MOD_CTRL, .one MOD_STAT, .one MOD_ILOCK_CNT, .row MOD_AX_STAT, .row MOD_AX_FORCE, .row PWR_AX_LIVE, .one INT_AXCAUSE_LO, .one INT_AXCAUSE_HI, .one MGT_LOG_STAT, .faults, .reel, .intg, .mgt, .can, .mods, .modg, .pwr] s (State.leaveService s) := by
  unfold State.leaveService
  repeat' with_reducible first
    | assumption
    | decide
    | exact Does.refl _ _
    | (intro x; first | (have _h : State := x; clear _h; clear_value (hx : x = _); refine Does.bind (l := [.one MOD_CTRL, .one MOD_STAT, .one MOD_ILOCK_CNT, .row MOD_AX_STAT, .row MOD_AX_FORCE, .row PWR_AX_LIVE, .one INT_AXCAUSE_LO, .one INT_AXCAUSE_HI, .one MGT_LOG_STAT, .faults, .reel, .intg, .mgt, .can, .mods, .modg, .pwr]) (s := s) hx ?_ (fun _ => ?_)) | clear_value x)
    | lift_lets
    | (apply Does.step; on_goal 1 => first | exact State.put_does _ MOD_STAT.FORCE_ACTIVE _ (by with_unfolding_all exact Field.has_one MOD_STAT) | exact State.put_does _ MOD_CTRL.FORCE_EN _ (by with_unfolding_all exact Field.has_one MOD_CTRL) | exact State.put_does _ (MOD_AX_FORCE.ACTIVE _) _ (by with_unfolding_all exact Field.has_row MOD_AX_FORCE (fun _ => rfl) _) | apply State.driveChecked_does)
    | refine State.each_does (fun s b => ?_) ?_
    | refine Does.ite ?_ ?_
    | refine Does.iteSnd ?_ ?_
    | dsimp only

/-- What `State.modeEffects` and its like may change. -/
def Parts.ofModeEffects : List Field :=
  [.one CLK_STAT, .one ENG_STAT, .row ENG_E_STAT, .one MOD_CTRL, .one MOD_STAT, .one MOD_CMT_PEND, .one MOD_ILOCK_CNT,
    .row MOD_AX_STAT, .row MOD_AX_FORCE, .one PWR_STAT, .row PWR_AX_LIVE, .row MEM_B_STAT, .one INT_AXCAUSE_LO,
    .one INT_AXCAUSE_HI, .one MGT_LOG_STAT, .faults, .sys, .reel, .intg, .mgt, .can, .mem, .mods, .modg, .pwr, .adc,
    .drawn]

theorem State.modeEffects_does (s) : Does Parts.ofModeEffects s (State.modeEffects s) := by
  unfold State.modeEffects
  repeat' with_reducible first
    | assumption
    | decide
    | exact Does.refl _ _
    | (intro x; first | (have _h : State := x; clear _h; clear_value (hx : x = _); refine Does.bind (l := Parts.ofModeEffects) (s := s) hx ?_ (fun _ => ?_)) | clear_value x)
    | lift_lets
    | (apply Does.step; on_goal 1 => first | apply State.leaveService_does | apply State.leaveStandby_does | apply State.enterStandby_does)
    | refine Does.ite ?_ ?_
    | refine Does.iteSnd ?_ ?_
    | split
    | (apply Does.step; on_goal 1 => first | apply Does.sys)
    | dsimp only

theorem execSleepEntryDone_does (s) : ∀ t, execSleepEntryDone s = .next t → Does Parts.sleepEntryDone s t := by
  unfold execSleepEntryDone
  repeat' with_reducible first
    | assumption
    | decide
    | exact Does.refl _ _
    | (intro x; first | (have _h : State := x; clear _h; clear_value (hx : x = _); refine Does.bind (l := Parts.sleepEntryDone) (s := s) hx ?_ (fun _ => ?_)) | clear_value x)
    | lift_lets
    | (apply Does.step; on_goal 1 => first | apply State.wiped_does)
    | refine Does.ite ?_ ?_
    | refine Does.iteSnd ?_ ?_
    | (apply Does.step; on_goal 1 => first | apply Does.sys)
    | dsimp only
    | refine done_does ?_ ?_
    | refine whenPowered_does ?_ ?_
    | split
    | (intro t ht; cases ht; exact Does.refl _ _)

theorem State.wakeEvent_does (s src n) : Does [.keep] s (State.wakeEvent s src n) := by
  unfold State.wakeEvent
  repeat' with_reducible first
    | assumption
    | decide
    | exact Does.refl _ _
    | (intro x; first | (have _h : State := x; clear _h; clear_value (hx : x = _); refine Does.bind (l := [.keep]) (s := s) hx ?_ (fun _ => ?_)) | clear_value x)
    | lift_lets
    | refine Does.ite ?_ ?_
    | refine Does.iteSnd ?_ ?_
    | (apply Does.step; on_goal 1 => first | apply Does.keep)
    | dsimp only

theorem execWakePin_does (rising n s) : ∀ t, execWakePin rising n s = .next t → Does [.sys, .keep, .intg] s t := by
  unfold execWakePin
  dsimp only
  split
  · exact done_does (Does.step (State.wakeEvent_does ..) rfl (Does.weaken (Does.sys _ _) rfl))
  · intro t e
    cases e
    exact Does.weaken (Does.sys _ _) rfl

theorem execBusWake_does (n s) : ∀ t, execBusWake n s = .next t → Does [.keep, .intg] s t := by
  unfold execBusWake
  repeat' with_reducible first
    | assumption
    | decide
    | exact Does.refl _ _
    | (apply Does.step; on_goal 1 => first | apply State.wakeEvent_does)
    | refine Does.ite ?_ ?_
    | refine Does.iteSnd ?_ ?_
    | dsimp only
    | refine done_does ?_ ?_
    | refine whenPowered_does ?_ ?_
    | split
    | (intro t ht; cases ht; exact Does.refl _ _)

theorem execWakeTimer_does (s) : ∀ t, execWakeTimer s = .next t → Does [.keep, .intg] s t := by
  unfold execWakeTimer
  repeat' with_reducible first
    | assumption
    | decide
    | exact Does.refl _ _
    | (apply Does.step; on_goal 1 => first | apply State.wakeEvent_does)
    | refine Does.ite ?_ ?_
    | refine Does.iteSnd ?_ ?_
    | split
    | dsimp only
    | refine done_does ?_ ?_
    | refine whenPowered_does ?_ ?_
    | split
    | (intro t ht; cases ht; exact Does.refl _ _)

theorem execPowerOn_does (s) : ∀ t, execPowerOn s = .next t → Does Parts.reset s t := by
  unfold execPowerOn
  repeat' with_reducible first
    | assumption
    | decide
    | exact Does.refl _ _
    | (intro x; first | (have _h : State := x; clear _h; clear_value (hx : x = _); refine Does.bind (l := Parts.reset) (s := s) hx ?_ (fun _ => ?_)) | clear_value x)
    | lift_lets
    | (apply Does.step; on_goal 1 => first | apply State.wiped_does)
    | refine Does.ite ?_ ?_
    | refine Does.iteSnd ?_ ?_
    | (apply Does.step; on_goal 1 => first | apply Does.sys | apply Does.keep)
    | dsimp only
    | refine done_does ?_ ?_
    | refine whenPowered_does ?_ ?_
    | split
    | with_unfolding_all exact Does.ofOnly (by rintro ⟨⟩ hk <;> first | rfl | trivial | exact absurd (by decide) hk) (fun _ _ => rfl) (fun h => { h with })
    | (refine Does.trans (by assumption) ?_; with_unfolding_all exact Does.ofOnly (by rintro ⟨⟩ hk <;> first | rfl | trivial | exact absurd (by decide) hk) (fun _ _ => rfl) (fun h => { h with }))
    | (intro t ht; cases ht; exact Does.refl _ _)

theorem execVbatOff_does (s) : ∀ t, execVbatOff s = .next t → Does Parts.reset s t := by
  unfold execVbatOff
  repeat' with_reducible first
    | assumption
    | decide
    | exact Does.refl _ _
    | (intro x; first | (have _h : State := x; clear _h; clear_value (hx : x = _); refine Does.bind (l := Parts.reset) (s := s) hx ?_ (fun _ => ?_)) | clear_value x)
    | lift_lets
    | (apply Does.step; on_goal 1 => first | exact State.put_does _ SYS_STAT.OV _ (by with_unfolding_all exact Field.has_one SYS_STAT) | exact State.put_does _ SYS_STAT.LV _ (by with_unfolding_all exact Field.has_one SYS_STAT) | apply State.wiped_does)
    | (apply Does.step; on_goal 1 => first | apply Does.sys | apply Does.keep)
    | dsimp only
    | refine done_does ?_ ?_
    | refine whenPowered_does ?_ ?_
    | split
    | with_unfolding_all exact Does.ofOnly (by rintro ⟨⟩ hk <;> first | rfl | trivial | exact absurd (by decide) hk) (fun _ _ => rfl) (fun h => { h with })
    | (refine Does.trans (by assumption) ?_; with_unfolding_all exact Does.ofOnly (by rintro ⟨⟩ hk <;> first | rfl | trivial | exact absurd (by decide) hk) (fun _ _ => rfl) (fun h => { h with }))
    | (intro t ht; cases ht; exact Does.refl _ _)

theorem execBrownout_does (s) : ∀ t, execBrownout s = .next t → Does Parts.reset s t := by
  unfold execBrownout
  repeat' with_reducible first
    | assumption
    | decide
    | exact Does.refl _ _
    | (apply Does.step; on_goal 1 => first | apply State.resetBy_does)
    | refine Does.ite ?_ ?_
    | refine Does.iteSnd ?_ ?_
    | dsimp only
    | refine done_does ?_ ?_
    | refine whenPowered_does ?_ ?_
    | split
    | (intro t ht; cases ht; exact Does.refl _ _)

theorem execRegulator_does (s) : ∀ t, execRegulator s = .next t → Does Parts.reset s t := by
  unfold execRegulator
  repeat' with_reducible first
    | assumption
    | decide
    | exact Does.refl _ _
    | (apply Does.step; on_goal 1 => first | apply State.resetBy_does)
    | refine Does.ite ?_ ?_
    | refine Does.iteSnd ?_ ?_
    | dsimp only
    | refine done_does ?_ ?_
    | refine whenPowered_does ?_ ?_
    | split
    | (intro t ht; cases ht; exact Does.refl _ _)

theorem execPinReset_does (s) : ∀ t, execPinReset s = .next t → Does Parts.reset s t := by
  unfold execPinReset
  repeat' with_reducible first
    | assumption
    | decide
    | exact Does.refl _ _
    | (apply Does.step; on_goal 1 => first | apply State.resetBy_does)
    | refine Does.ite ?_ ?_
    | refine Does.iteSnd ?_ ?_
    | dsimp only
    | refine done_does ?_ ?_
    | refine whenPowered_does ?_ ?_
    | split
    | (intro t ht; cases ht; exact Does.refl _ _)

theorem execRefAbsentReset_does (s) : ∀ t, execRefAbsentReset s = .next t → Does Parts.reset s t := by
  unfold execRefAbsentReset
  refine whenPowered_does ?_
  repeat' with_reducible first
    | assumption
    | decide
    | exact Does.refl _ _
    | (apply Does.step; on_goal 1 => first | apply State.resetBy_does)
    | refine State.when_does (fun s => ?_) ?_
    | refine Does.ite ?_ ?_
    | refine Does.iteSnd ?_ ?_
    | dsimp only

theorem State.lowVoltage_does (s) : Does [.one MGT_LOG_STAT, .faults, .reel, .mgt, .can] s (State.lowVoltage s) := by
  unfold State.lowVoltage
  repeat' with_reducible first
    | assumption
    | decide
    | exact Does.refl _ _
    | (apply Does.step; on_goal 1 => first | apply State.raise_does)
    | refine Does.ite ?_ ?_
    | refine Does.iteSnd ?_ ?_
    | dsimp only

theorem State.overvoltage_does (s) : Does [.one MOD_STAT, .one MOD_ILOCK_CNT, .row MOD_AX_STAT, .row MOD_AX_FORCE, .row PWR_AX_LIVE, .one INT_AXCAUSE_LO, .one INT_AXCAUSE_HI, .one MGT_LOG_STAT, .faults, .sys, .reel, .intg, .mgt, .can, .mods, .modg, .pwr] s (State.overvoltage s) := by
  unfold State.overvoltage
  repeat' with_reducible first
    | assumption
    | decide
    | exact Does.refl _ _
    | (intro x; first | (have _h : State := x; clear _h; clear_value (hx : x = _); refine Does.bind (l := [.one MOD_STAT, .one MOD_ILOCK_CNT, .row MOD_AX_STAT, .row MOD_AX_FORCE, .row PWR_AX_LIVE, .one INT_AXCAUSE_LO, .one INT_AXCAUSE_HI, .one MGT_LOG_STAT, .faults, .sys, .reel, .intg, .mgt, .can, .mods, .modg, .pwr]) (s := s) hx ?_ (fun _ => ?_)) | clear_value x)
    | lift_lets
    | (apply Does.step; on_goal 1 => first | apply State.raise_does | apply State.driveChecked_does | refine State.modMod_does _ _ (fun m hm => by first | exact ModAx.shaped_of hm rfl | (split <;> exact ModAx.shaped_of hm rfl) | (unfold ModAx.modPhase; split <;> exact ModAx.shaped_of hm rfl) | exact ModAx.shaped_map hm rfl (fun x hx => by first | exact HalfBridge.sound_of hx rfl rfl rfl | exact HalfBridge.sound_off rfl rfl rfl)) | apply State.clearLoops_does)
    | refine State.each_does (fun s b => ?_) ?_
    | refine Does.ite ?_ ?_
    | refine Does.iteSnd ?_ ?_
    | (apply Does.step; on_goal 1 => first | apply Does.sys)
    | dsimp only

theorem State.vioLost_does (s) : Does [.one POS_LIM, .one SPI_STAT, .one SPI_HCNT, .one SPI_MW_STAT, .one MGT_LOG_STAT, .faults, .reel, .mgt, .can, .spi, .chn] s (State.vioLost s) := by
  unfold State.vioLost
  repeat' with_reducible first
    | assumption
    | decide
    | exact Does.refl _ _
    | (intro x; first | (have _h : State := x; clear _h; clear_value (hx : x = _); refine Does.bind (l := [.one POS_LIM, .one SPI_STAT, .one SPI_HCNT, .one SPI_MW_STAT, .one MGT_LOG_STAT, .faults, .reel, .mgt, .can, .spi, .chn]) (s := s) hx ?_ (fun _ => ?_)) | (have _h : Chn := x; clear _h; clear_value (hx : x = _); subst hx) | clear_value x)
    | lift_lets
    | (apply Does.step; on_goal 1 => first | exact State.setWord_does _ POS_LIM _ (by with_unfolding_all exact Field.has_one POS_LIM) | apply State.raise_does | apply State.frameClose_does)
    | refine Does.ite ?_ ?_
    | refine Does.iteSnd ?_ ?_
    | (apply Does.step; on_goal 1 => first | apply Does.spi | (apply Does.chn <;> first | rfl | exact id | simp))
    | with_unfolding_all exact Does.ofOnly (by rintro ⟨⟩ hk <;> first | rfl | trivial | exact absurd (by decide) hk) (fun _ _ => rfl) (fun h => { h with })
    | (refine Does.trans (by assumption) ?_; with_unfolding_all exact Does.ofOnly (by rintro ⟨⟩ hk <;> first | rfl | trivial | exact absurd (by decide) hk) (fun _ _ => rfl) (fun h => { h with }))
    | dsimp only

theorem State.gateSupply_does (s low) : Does [.one PWR_STAT] s (State.gateSupply s low) := by
  unfold State.gateSupply
  repeat' with_reducible first
    | assumption
    | decide
    | exact Does.refl _ _
    | (apply Does.step; on_goal 1 => first | exact State.put_does _ PWR_STAT.LV _ (by with_unfolding_all exact Field.has_one PWR_STAT))
    | refine State.when_does (fun s => ?_) ?_
    | dsimp only

theorem execLowVoltage_does (s) : ∀ t, execLowVoltage s = .next t → Does [.one SYS_STAT, .one PWR_STAT, .one MGT_LOG_STAT, .faults, .reel, .intg, .mgt, .can] s t := by
  unfold execLowVoltage
  repeat' with_reducible first
    | assumption
    | decide
    | exact Does.refl _ _
    | (apply Does.step; on_goal 1 => first | exact State.put_does _ SYS_STAT.LV _ (by with_unfolding_all exact Field.has_one SYS_STAT) | apply State.lowVoltage_does | apply State.gateSupply_does)
    | refine Does.ite ?_ ?_
    | refine Does.iteSnd ?_ ?_
    | dsimp only
    | refine done_does ?_ ?_
    | refine whenPowered_does ?_ ?_
    | split
    | (intro t ht; cases ht; exact Does.refl _ _)

theorem execLowVoltageRelease_does (s) : ∀ t, execLowVoltageRelease s = .next t → Does [.one SYS_STAT, .one PWR_STAT, .intg] s t := by
  unfold execLowVoltageRelease
  repeat' with_reducible first
    | assumption
    | decide
    | exact Does.refl _ _
    | (apply Does.step; on_goal 1 => first | exact State.put_does _ SYS_STAT.LV _ (by with_unfolding_all exact Field.has_one SYS_STAT) | apply State.gateSupply_does)
    | refine Does.ite ?_ ?_
    | refine Does.iteSnd ?_ ?_
    | dsimp only
    | refine done_does ?_ ?_
    | refine whenPowered_does ?_ ?_
    | split
    | (intro t ht; cases ht; exact Does.refl _ _)

theorem execOvervoltage_does (s) : ∀ t, execOvervoltage s = .next t → Does [.one SYS_STAT, .one MOD_STAT, .one MOD_ILOCK_CNT, .row MOD_AX_STAT, .row MOD_AX_FORCE, .row PWR_AX_LIVE, .one INT_AXCAUSE_LO, .one INT_AXCAUSE_HI, .one MGT_LOG_STAT, .faults, .sys, .reel, .intg, .mgt, .can, .mods, .modg, .pwr] s t := by
  unfold execOvervoltage
  repeat' with_reducible first
    | assumption
    | decide
    | exact Does.refl _ _
    | (apply Does.step; on_goal 1 => first | exact State.put_does _ SYS_STAT.OV _ (by with_unfolding_all exact Field.has_one SYS_STAT) | apply State.overvoltage_does)
    | refine Does.ite ?_ ?_
    | refine Does.iteSnd ?_ ?_
    | dsimp only
    | refine done_does ?_ ?_
    | refine whenPowered_does ?_ ?_
    | split
    | (intro t ht; cases ht; exact Does.refl _ _)

theorem execOvervoltageRelease_does (s) : ∀ t, execOvervoltageRelease s = .next t → Does [.one SYS_STAT, .one MOD_STAT, .one MOD_ILOCK_CNT, .row MOD_AX_STAT, .row MOD_AX_FORCE, .row PWR_AX_LIVE, .one INT_AXCAUSE_LO, .one INT_AXCAUSE_HI, .one MGT_LOG_STAT, .faults, .reel, .intg, .mgt, .can, .mods, .modg, .pwr] s t := by
  unfold execOvervoltageRelease
  repeat' with_reducible first
    | assumption
    | decide
    | exact Does.refl _ _
    | (apply Does.step; on_goal 1 => first | exact State.put_does _ SYS_STAT.OV _ (by with_unfolding_all exact Field.has_one SYS_STAT) | apply State.driveChecked_does)
    | refine State.each_does (fun s b => ?_) ?_
    | refine Does.ite ?_ ?_
    | refine Does.iteSnd ?_ ?_
    | dsimp only
    | refine done_does ?_ ?_
    | refine whenPowered_does ?_ ?_
    | split
    | (intro t ht; cases ht; exact Does.refl _ _)

theorem execVioLow_does (s) : ∀ t, execVioLow s = .next t → Does [.one POS_LIM, .one SPI_STAT, .one SPI_HCNT, .one SPI_MW_STAT, .one MGT_LOG_STAT, .faults, .sys, .reel, .intg, .mgt, .can, .spi, .chn] s t := by
  unfold execVioLow
  repeat' with_reducible first
    | assumption
    | decide
    | exact Does.refl _ _
    | (intro x; first | (have _h : State := x; clear _h; clear_value (hx : x = _); refine Does.bind (l := [.one POS_LIM, .one SPI_STAT, .one SPI_HCNT, .one SPI_MW_STAT, .one MGT_LOG_STAT, .faults, .sys, .reel, .intg, .mgt, .can, .spi, .chn]) (s := s) hx ?_ (fun _ => ?_)) | clear_value x)
    | lift_lets
    | (apply Does.step; on_goal 1 => first | apply State.vioLost_does)
    | refine Does.ite ?_ ?_
    | refine Does.iteSnd ?_ ?_
    | (apply Does.step; on_goal 1 => first | apply Does.sys)
    | dsimp only
    | refine done_does ?_ ?_
    | refine whenPowered_does ?_ ?_
    | split
    | (intro t ht; cases ht; exact Does.refl _ _)

theorem execVioRelease_does (s) : ∀ t, execVioRelease s = .next t → Does [.sys, .intg] s t := by
  unfold execVioRelease
  repeat' with_reducible first
    | assumption
    | decide
    | exact Does.refl _ _
    | (intro x; first | (have _h : State := x; clear _h; clear_value (hx : x = _); refine Does.bind (l := [.sys, .intg]) (s := s) hx ?_ (fun _ => ?_)) | clear_value x)
    | lift_lets
    | refine Does.ite ?_ ?_
    | refine Does.iteSnd ?_ ?_
    | (apply Does.step; on_goal 1 => first | apply Does.sys)
    | dsimp only
    | refine done_does ?_ ?_
    | refine whenPowered_does ?_ ?_
    | split
    | (intro t ht; cases ht; exact Does.refl _ _)

/-- What `State.bootStart` and its like may change. -/
def Parts.ofBootStart : List Field :=
  [.one SYS_STAT, .one SYS_RESET, .one CLK_STAT, .one MOD_STAT, .one MOD_ILOCK_CNT, .row MOD_AX_STAT, .row MOD_AX_FORCE,
    .one PWR_STAT, .row PWR_AX_LIVE, .one POS_LIM, .one SPI_STAT, .one SPI_HCNT, .one SPI_MW_STAT, .one INT_AXCAUSE_LO,
    .one INT_AXCAUSE_HI, .one MGT_LOG_STAT, .one CHN_STAT, .faults, .clk, .sys, .keep, .reel, .intg, .mgt, .can, .spi,
    .mods, .modg, .pwr, .chn]

theorem State.bootStart_does (s cascM test) : Does Parts.ofBootStart s (State.bootStart s cascM test) := by
  unfold State.bootStart
  repeat' with_reducible first
    | assumption
    | decide
    | exact Does.refl _ _
    | (intro x; first | (have _h : State := x; clear _h; clear_value (hx : x = _); refine Does.bind (l := Parts.ofBootStart) (s := s) hx ?_ (fun _ => ?_)) | clear_value x)
    | lift_lets
    | (apply Does.step; on_goal 1 => first | exact State.put_does _ CHN_STAT.MASTER _ (by with_unfolding_all exact Field.has_one CHN_STAT) | exact State.put_does _ SYS_STAT.TEST _ (by with_unfolding_all exact Field.has_one SYS_STAT) | exact State.put_does _ CLK_STAT.QUALIFYING _ (by with_unfolding_all exact Field.has_one CLK_STAT) | exact State.put_does _ SYS_RESET.COUNT _ (by with_unfolding_all exact Field.has_one SYS_RESET) | exact State.put_does _ SYS_RESET.ALL _ (by with_unfolding_all exact Field.has_one SYS_RESET) | exact State.put_does _ SYS_RESET.CAUSE _ (by with_unfolding_all exact Field.has_one SYS_RESET) | apply State.logRec_does | apply State.raise_does | apply State.gateHigh_does | apply State.lowVoltage_does | apply State.gateSupply_does | apply State.overvoltage_does | apply State.vioLost_does)
    | refine State.when_does (fun s => ?_) ?_
    | refine Does.ite ?_ ?_
    | refine Does.iteSnd ?_ ?_
    | (apply Does.step; on_goal 1 => first | apply Does.clk | apply Does.sys | apply Does.keep)
    | with_unfolding_all exact Does.ofOnly (by rintro ⟨⟩ hk <;> first | rfl | trivial | exact absurd (by decide) hk) (fun _ _ => rfl) (fun h => { h with })
    | (refine Does.trans (by assumption) ?_; with_unfolding_all exact Does.ofOnly (by rintro ⟨⟩ hk <;> first | rfl | trivial | exact absurd (by decide) hk) (fun _ _ => rfl) (fun h => { h with }))
    | dsimp only

theorem State.resetRecord_does (s) : Does [.one MGT_LOG_STAT, .faults, .sys, .mgt, .can] s (State.resetRecord s) := by
  unfold State.resetRecord
  repeat' with_reducible first
    | assumption
    | decide
    | exact Does.refl _ _
    | (intro x; first | (have _h : State := x; clear _h; clear_value (hx : x = _); refine Does.bind (l := [.one MGT_LOG_STAT, .faults, .sys, .mgt, .can]) (s := s) hx ?_ (fun _ => ?_)) | clear_value x)
    | lift_lets
    | (apply Does.step; on_goal 1 => first | apply State.logRec_does)
    | refine Does.ite ?_ ?_
    | refine Does.iteSnd ?_ ?_
    | (apply Does.step; on_goal 1 => first | apply Does.sys)
    | dsimp only

theorem State.bootStuck_does (s) : Does [.sys] s (State.bootStuck s) := by
  unfold State.bootStuck
  repeat' with_reducible first
    | assumption
    | decide
    | exact Does.refl _ _
    | (intro x; first | (have _h : State := x; clear _h; clear_value (hx : x = _); refine Does.bind (l := [.sys]) (s := s) hx ?_ (fun _ => ?_)) | clear_value x)
    | lift_lets
    | (apply Does.step; on_goal 1 => first | apply Does.sys)
    | dsimp only

theorem State.wakeStart_does (s cascM test) : Does Parts.bootStart s (State.wakeStart s cascM test) := by
  unfold State.wakeStart
  repeat' with_reducible first
    | assumption
    | decide
    | exact Does.refl _ _
    | (intro x; first | (have _h : State := x; clear _h; clear_value (hx : x = _); refine Does.bind (l := Parts.bootStart) (s := s) hx ?_ (fun _ => ?_)) | clear_value x)
    | lift_lets
    | (apply Does.step; on_goal 1 => first | exact State.put_does _ SYS_MODE.PREV _ (by with_unfolding_all exact Field.has_one SYS_MODE) | exact State.put_does _ SYS_WAKE.SEEN _ (by with_unfolding_all exact Field.has_one SYS_WAKE) | exact State.put_does _ SYS_WAKE.SRC _ (by with_unfolding_all exact Field.has_one SYS_WAKE) | exact State.put_does _ SYS_KEEP.REST _ (by with_unfolding_all exact Field.has_one SYS_KEEP) | exact State.put_does _ SYS_KEEP.KEPT _ (by with_unfolding_all exact Field.has_one SYS_KEEP) | exact State.put_does _ CAN_WAKE.SRC _ (by with_unfolding_all exact Field.has_one CAN_WAKE) | exact State.put_does _ CAN_IRQ.WAKE _ (by with_unfolding_all exact Field.has_one CAN_IRQ) | exact State.setWord_does _ CLK_LPO_PER _ (by with_unfolding_all exact Field.has_one CLK_LPO_PER) | exact State.setWord_does _ CLK_SLEEP_HI _ (by with_unfolding_all exact Field.has_one CLK_SLEEP_HI) | exact State.setWord_does _ CLK_SLEEP_LO _ (by with_unfolding_all exact Field.has_one CLK_SLEEP_LO) | apply State.bootStart_does)
    | (apply Does.step; on_goal 1 => first | apply Does.sys)
    | dsimp only

theorem execBootStart_does (cascM test s) : ∀ t, execBootStart cascM test s = .next t → Does Parts.bootStart s t := by
  unfold execBootStart
  repeat' with_reducible first
    | assumption
    | decide
    | exact Does.refl _ _
    | (apply Does.step; on_goal 1 => first | apply State.bootStart_does | apply State.wakeStart_does)
    | refine Does.ite ?_ ?_
    | refine Does.iteSnd ?_ ?_
    | dsimp only
    | refine done_does ?_ ?_
    | refine whenPowered_does ?_ ?_
    | split
    | (intro t ht; cases ht; exact Does.refl _ _)

theorem State.bootRow_does (s b r) : Does [.row MEM_B_STAT, .row MEM_B_ECC, .row MEM_B_REPAIR, .one INT_DEG_CAUSE, .one MGT_LOG_STAT, .faults, .reel, .mgt, .can, .mem, .drawn] s (State.bootRow s b r) := by
  unfold State.bootRow
  repeat' with_reducible first
    | assumption
    | decide
    | exact Does.refl _ _
    | (intro x; first | (have _h : State := x; clear _h; clear_value (hx : x = _); refine Does.bind (l := [.row MEM_B_STAT, .row MEM_B_ECC, .row MEM_B_REPAIR, .one INT_DEG_CAUSE, .one MGT_LOG_STAT, .faults, .reel, .mgt, .can, .mem, .drawn]) (s := s) hx ?_ (fun _ => ?_)) | clear_value x)
    | lift_lets
    | (apply Does.step; on_goal 1 => first | apply State.rowFault_does | apply State.mapRepair_does | apply State.modBank_does)
    | dsimp only

theorem execRegulatorsReady_does (bad s) : ∀ t, execRegulatorsReady bad s = .next t → Does [.one CLK_STAT, .one PWR_STAT, .one ADC_STAT, .row MEM_B_STAT, .row MEM_B_ECC, .row MEM_B_REPAIR, .one INT_DEG_CAUSE, .one MGT_LOG_STAT, .faults, .sys, .reel, .intg, .mgt, .can, .mem, .adc, .drawn, .cells] s t := by
  unfold execRegulatorsReady
  refine whenPowered_does ?_
  repeat' with_reducible first
    | assumption
    | decide
    | exact Does.refl _ _
    | (intro x; first | (have _h : State := x; clear _h; clear_value (hx : x = _); refine Does.bind (l := [.one CLK_STAT, .one PWR_STAT, .one ADC_STAT, .row MEM_B_STAT, .row MEM_B_ECC, .row MEM_B_REPAIR, .one INT_DEG_CAUSE, .one MGT_LOG_STAT, .faults, .sys, .reel, .intg, .mgt, .can, .mem, .adc, .drawn, .cells]) (s := s) hx ?_ (fun _ => ?_)) | clear_value x)
    | lift_lets
    | (apply Does.step; on_goal 1 => first | exact State.put_does _ PWR_STAT.VGL_OK _ (by with_unfolding_all exact Field.has_one PWR_STAT) | exact State.put_does _ PWR_STAT.VCP_OK _ (by with_unfolding_all exact Field.has_one PWR_STAT) | exact State.put_does _ CLK_STAT.ISL_OK _ (by with_unfolding_all exact Field.has_one CLK_STAT) | apply State.calBoot_does | apply State.clearBanks_does | apply State.bootRow_does)
    | refine State.when_does (fun s => ?_) ?_
    | refine State.each_does (fun s b => ?_) ?_
    | refine Does.ite ?_ ?_
    | refine Does.iteSnd ?_ ?_
    | (apply Does.step; on_goal 1 => first | apply Does.sys)
    | dsimp only

theorem State.rejectTrial_does (s code k) : Does [.one REEL_SLOT_A, .one REEL_SLOT_B, .one MGT_FW_SLOT_A, .one MGT_FW_SLOT_B, .one MGT_LOG_STAT, .faults, .reel, .mgt, .can, .flash] s (State.rejectTrial s code k) := by
  unfold State.rejectTrial
  repeat' with_reducible first
    | assumption
    | decide
    | exact Does.refl _ _
    | (apply Does.step; on_goal 1 => first | apply State.raise_does | apply State.setSlot_does)
    | refine Does.ite ?_ ?_
    | refine Does.iteSnd ?_ ?_
    | dsimp only

theorem State.pickFw_does (s a1) : Does [.one REEL_SLOT_A, .one REEL_SLOT_B, .one MGT_FW_SLOT_A, .one MGT_FW_SLOT_B, .one MGT_LOG_STAT, .faults, .reel, .mgt, .can, .flash] s (State.pickFw s a1).2 := by
  induction a1 generalizing s with
  | nil => exact Does.refl _ _
  | cons w t ih =>
    unfold State.pickFw
    repeat' with_reducible first
      | assumption
      | decide
      | exact Does.refl _ _
      | (intro x; first | (have _h : State := x; clear _h; clear_value (hx : x = _); refine Does.bind (l := [.one REEL_SLOT_A, .one REEL_SLOT_B, .one MGT_FW_SLOT_A, .one MGT_FW_SLOT_B, .one MGT_LOG_STAT, .faults, .reel, .mgt, .can, .flash]) (s := s) hx ?_ (fun _ => ?_)) | clear_value x)
      | (apply Does.trans; on_goal 2 => apply ih)
      | lift_lets
      | (apply Does.step; on_goal 1 => first | apply State.fwNotice_does | apply State.setSlot_does)
      | refine Does.ite ?_ ?_
      | refine Does.iteSnd ?_ ?_
      | dsimp only

theorem State.noFirmware_does (s) : Does [.sys, .mgt] s (State.noFirmware s) := by
  unfold State.noFirmware
  repeat' with_reducible first
    | assumption
    | decide
    | exact Does.refl _ _
    | (intro x; first | (have _h : State := x; clear _h; clear_value (hx : x = _); refine Does.bind (l := [.sys, .mgt]) (s := s) hx ?_ (fun _ => ?_)) | clear_value x)
    | lift_lets
    | (apply Does.step; on_goal 1 => first | apply Does.sys | apply Does.mgt)
    | with_unfolding_all exact Does.ofOnly (by rintro ⟨⟩ hk <;> first | rfl | trivial | exact absurd (by decide) hk) (fun _ _ => rfl) (fun h => { h with })
    | (refine Does.trans (by assumption) ?_; with_unfolding_all exact Does.ofOnly (by rintro ⟨⟩ hk <;> first | rfl | trivial | exact absurd (by decide) hk) (fun _ _ => rfl) (fun h => { h with }))
    | dsimp only

theorem State.firmwareFound_does (s) : Does [.sys, .mgt] s (State.firmwareFound s) := by
  unfold State.firmwareFound
  repeat' with_reducible first
    | assumption
    | decide
    | exact Does.refl _ _
    | (intro x; first | (have _h : State := x; clear _h; clear_value (hx : x = _); refine Does.bind (l := [.sys, .mgt]) (s := s) hx ?_ (fun _ => ?_)) | clear_value x)
    | lift_lets
    | (apply Does.step; on_goal 1 => first | apply Does.sys | apply Does.mgt)
    | with_unfolding_all exact Does.ofOnly (by rintro ⟨⟩ hk <;> first | rfl | trivial | exact absurd (by decide) hk) (fun _ _ => rfl) (fun h => { h with })
    | (refine Does.trans (by assumption) ?_; with_unfolding_all exact Does.ofOnly (by rintro ⟨⟩ hk <;> first | rfl | trivial | exact absurd (by decide) hk) (fun _ _ => rfl) (fun h => { h with }))
    | dsimp only

theorem execFirmwareSelect_does (s) : ∀ t, execFirmwareSelect s = .next t → Does [.one REEL_SLOT_A, .one REEL_SLOT_B, .one MGT_FW, .one MGT_FW_SLOT_A, .one MGT_FW_SLOT_B, .one MGT_LOG_SEQ, .one MGT_LOG_STAT, .faults, .sys, .reel, .intg, .mgt, .can, .flash, .drawn] s t := by
  unfold execFirmwareSelect
  refine whenPowered_does ?_
  repeat' with_reducible first
    | assumption
    | decide
    | exact Does.refl _ _
    | (intro x; first | (have _h : State := x; clear _h; clear_value (hx : x = _); refine Does.bind (l := [.one REEL_SLOT_A, .one REEL_SLOT_B, .one MGT_FW, .one MGT_FW_SLOT_A, .one MGT_FW_SLOT_B, .one MGT_LOG_SEQ, .one MGT_LOG_STAT, .faults, .sys, .reel, .intg, .mgt, .can, .flash, .drawn]) (s := s) hx ?_ (fun _ => ?_)) | (have _h : _ × State := x; clear _h; clear_value (hx : x = _); refine Does.bindSnd (l := [.one REEL_SLOT_A, .one REEL_SLOT_B, .one MGT_FW, .one MGT_FW_SLOT_A, .one MGT_FW_SLOT_B, .one MGT_LOG_SEQ, .one MGT_LOG_STAT, .faults, .sys, .reel, .intg, .mgt, .can, .flash, .drawn]) (s := s) hx ?_ (fun _ => ?_)) | clear_value x)
    | lift_lets
    | (apply Does.step; on_goal 1 => first | exact State.put_does _ MGT_FW.VERSION _ (by with_unfolding_all exact Field.has_one MGT_FW) | exact State.put_does _ MGT_FW.ACTIVE_SLOT _ (by with_unfolding_all exact Field.has_one MGT_FW) | apply State.rejectTrial_does | apply State.pickFw_does | apply State.readSlot_does | apply State.raise_does | apply State.noFirmware_does | apply State.logScan_does | apply State.firmwareFound_does | apply State.bootStuck_does | apply State.resetRecord_does)
    | refine State.when_does (fun s => ?_) ?_
    | refine State.each_does (fun s b => ?_) ?_
    | refine Does.ite ?_ ?_
    | refine Does.iteSnd ?_ ?_
    | split
    | dsimp only

end Sys2Proof.Machine
end

