-- ==== Sys2Proof/Laws/Can.lean ====
section
/-!
SUPPORT. What each operation of Sys2Proof/Machine/Can.lean can do at most.
-/

-- One proof after the other: as one text the package would otherwise ask for more threads than there is memory for.
set_option Elab.async false
namespace Sys2Proof.Machine

theorem State.setTbSt_does (s i st) : Does [.one CAN_TXSTAT] s (State.setTbSt s i st) := by
  unfold State.setTbSt
  repeat' with_reducible first
    | assumption
    | decide
    | exact Does.refl _ _
    | (apply Does.step; on_goal 1 => first | exact State.put_does _ ⟨CAN_TXSTAT, _, _⟩ _ (by with_unfolding_all exact Field.has_one CAN_TXSTAT))
    | dsimp only

theorem State.sendFlag_does (s f) : Does [.can] s (State.sendFlag s f) := by
  unfold State.sendFlag
  repeat' with_reducible first
    | assumption
    | decide
    | exact Does.refl _ _
    | (intro x; first | (have _h : State := x; clear _h; clear_value (hx : x = _); refine Does.bind (l := [.can]) (s := s) hx ?_ (fun _ => ?_)) | (have _h : Can := x; clear _h; clear_value (hx : x = _); subst hx) | clear_value x)
    | lift_lets
    | refine Does.ite ?_ ?_
    | refine Does.iteSnd ?_ ?_
    | (apply Does.step; on_goal 1 => first | (apply Does.can <;> first | rfl | exact id | simp))
    | dsimp only

theorem State.errorFlag_does (s) : Does [.can] s (State.errorFlag s) := by
  unfold State.errorFlag
  repeat' with_reducible first
    | assumption
    | decide
    | exact Does.refl _ _
    | (apply Does.step; on_goal 1 => first | apply State.sendFlag_does)
    | refine Does.ite ?_ ?_
    | refine Does.iteSnd ?_ ?_
    | dsimp only

theorem State.busOff_does (s held) : Does [.one CAN_IRQ, .one CAN_TXSTAT, .one MGT_LOG_STAT, .faults, .reel, .mgt, .can] s (State.busOff s held) := by
  unfold State.busOff
  repeat' with_reducible first
    | assumption
    | decide
    | exact Does.refl _ _
    | (intro x; first | (have _h : State := x; clear _h; clear_value (hx : x = _); refine Does.bind (l := [.one CAN_IRQ, .one CAN_TXSTAT, .one MGT_LOG_STAT, .faults, .reel, .mgt, .can]) (s := s) hx ?_ (fun _ => ?_)) | (have _h : Can := x; clear _h; clear_value (hx : x = _); subst hx) | clear_value x)
    | lift_lets
    | (apply Does.step; on_goal 1 => first | exact State.put_does _ CAN_IRQ.BUSOFF _ (by with_unfolding_all exact Field.has_one CAN_IRQ) | apply State.raise_does | apply State.setTbSt_does)
    | refine Does.ite ?_ ?_
    | refine Does.iteSnd ?_ ?_
    | split
    | (apply Does.step; on_goal 1 => first | (apply Does.can <;> first | rfl | exact id | simp))
    | dsimp only

theorem State.canJudge_does (s held) : Does [.one CAN_STAT, .one CAN_IRQ, .one CAN_TXSTAT, .one MGT_LOG_STAT, .faults, .reel, .mgt, .can] s (State.canJudge s held) := by
  unfold State.canJudge
  repeat' with_reducible first
    | assumption
    | decide
    | exact Does.refl _ _
    | (intro x; first | (have _h : State := x; clear _h; clear_value (hx : x = _); refine Does.bind (l := [.one CAN_STAT, .one CAN_IRQ, .one CAN_TXSTAT, .one MGT_LOG_STAT, .faults, .reel, .mgt, .can]) (s := s) hx ?_ (fun _ => ?_)) | (have _h : Can := x; clear _h; clear_value (hx : x = _); subst hx) | clear_value x)
    | lift_lets
    | (apply Does.step; on_goal 1 => first | exact State.put_does _ CAN_IRQ.EWARN _ (by with_unfolding_all exact Field.has_one CAN_IRQ) | exact State.put_does _ CAN_STAT.EWARN _ (by with_unfolding_all exact Field.has_one CAN_STAT) | exact State.put_does _ CAN_IRQ.EPASS _ (by with_unfolding_all exact Field.has_one CAN_IRQ) | apply State.raise_does | apply State.busOff_does)
    | refine State.when_does (fun s => ?_) ?_
    | refine Does.ite ?_ ?_
    | refine Does.iteSnd ?_ ?_
    | (apply Does.step; on_goal 1 => first | (apply Does.can <;> first | rfl | exact id | simp))
    | dsimp only

theorem State.addTec_does (s n) : Does [.one CAN_ERR] s (State.addTec s n) := by
  unfold State.addTec
  repeat' with_reducible first
    | assumption
    | decide
    | exact Does.refl _ _
    | (apply Does.step; on_goal 1 => first | exact State.bump_does _ CAN_ERR.TEC _ (by with_unfolding_all exact Field.has_one CAN_ERR))
    | refine Does.ite ?_ ?_
    | refine Does.iteSnd ?_ ?_
    | dsimp only

theorem State.addRec_does (s n) : Does [.one CAN_ERR] s (State.addRec s n) := by
  unfold State.addRec
  repeat' with_reducible first
    | assumption
    | decide
    | exact Does.refl _ _
    | (apply Does.step; on_goal 1 => first | exact State.bump_does _ CAN_ERR.REC _ (by with_unfolding_all exact Field.has_one CAN_ERR))
    | refine Does.ite ?_ ?_
    | refine Does.iteSnd ?_ ?_
    | dsimp only

theorem State.errLog_does (s lec data) : Does [.one CAN_ERRLOG] s (State.errLog s lec data) := by
  unfold State.errLog
  repeat' with_reducible first
    | assumption
    | decide
    | exact Does.refl _ _
    | (apply Does.step; on_goal 1 => first | exact State.bump_does _ CAN_ERRLOG.COUNT _ (by with_unfolding_all exact Field.has_one CAN_ERRLOG) | exact State.put_does _ CAN_ERRLOG.DATA _ (by with_unfolding_all exact Field.has_one CAN_ERRLOG) | exact State.put_does _ CAN_ERRLOG.LEC _ (by with_unfolding_all exact Field.has_one CAN_ERRLOG))
    | dsimp only

theorem State.notAlone_does (s) : Does [.one CAN_STAT] s (State.notAlone s) := by
  unfold State.notAlone
  repeat' with_reducible first
    | assumption
    | decide
    | exact Does.refl _ _
    | (apply Does.step; on_goal 1 => first | exact State.put_does _ CAN_STAT.ALONE _ (by with_unfolding_all exact Field.has_one CAN_STAT))
    | dsimp only

theorem State.loadTb_does (s i m b) : Does [.one CAN_TXSTAT, .can] s (State.loadTb s i m b) := by
  unfold State.loadTb
  repeat' with_reducible first
    | assumption
    | decide
    | exact Does.refl _ _
    | (intro x; first | (have _h : State := x; clear _h; clear_value (hx : x = _); refine Does.bind (l := [.one CAN_TXSTAT, .can]) (s := s) hx ?_ (fun _ => ?_)) | (have _h : Can := x; clear _h; clear_value (hx : x = _); subst hx) | clear_value x)
    | lift_lets
    | (apply Does.step; on_goal 1 => first | apply State.setTbSt_does)
    | (apply Does.step; on_goal 1 => first | (apply Does.can <;> first | rfl | exact id | simp))
    | dsimp only

theorem State.loadWaiting_does (s) : Does [.one CAN_TXSTAT, .can] s (State.loadWaiting s) := by
  unfold State.loadWaiting
  repeat' with_reducible first
    | assumption
    | decide
    | exact Does.refl _ _
    | (intro x; first | (have _h : State := x; clear _h; clear_value (hx : x = _); refine Does.bind (l := [.one CAN_TXSTAT, .can]) (s := s) hx ?_ (fun _ => ?_)) | (have _h : Can := x; clear _h; clear_value (hx : x = _); subst hx) | clear_value x)
    | lift_lets
    | (apply Does.step; on_goal 1 => first | apply State.loadTb_does)
    | refine State.each_does (fun s b => ?_) ?_
    | refine Does.ite ?_ ?_
    | refine Does.iteSnd ?_ ?_
    | split
    | (apply Does.step; on_goal 1 => first | (apply Does.can <;> first | rfl | exact id | simp))
    | dsimp only

theorem State.mapMessage_does (s m b) : Does [.one CAN_TXSTAT, .one CAN_DROP, .one MGT_LOG_STAT, .faults, .reel, .mgt, .can] s (State.mapMessage s m b) := by
  unfold State.mapMessage
  repeat' with_reducible first
    | assumption
    | decide
    | exact Does.refl _ _
    | (intro x; first | (have _h : State := x; clear _h; clear_value (hx : x = _); refine Does.bind (l := [.one CAN_TXSTAT, .one CAN_DROP, .one MGT_LOG_STAT, .faults, .reel, .mgt, .can]) (s := s) hx ?_ (fun _ => ?_)) | (have _h : Can := x; clear _h; clear_value (hx : x = _); subst hx) | clear_value x)
    | lift_lets
    | (apply Does.step; on_goal 1 => first | exact State.bump_does _ CAN_DROP.TX _ (by with_unfolding_all exact Field.has_one CAN_DROP) | apply State.raise_does | apply State.loadTb_does)
    | refine Does.ite ?_ ?_
    | refine Does.iteSnd ?_ ?_
    | split
    | (apply Does.step; on_goal 1 => first | (apply Does.can <;> first | rfl | exact id | simp))
    | dsimp only

theorem execCanArbitration_does (lag s) : ∀ t, execCanArbitration lag s = .next t → Does [.one CAN_TXSTAT, .intg, .can] s t := by
  unfold execCanArbitration
  refine whenPowered_does ?_
  repeat' with_reducible first
    | assumption
    | decide
    | exact Does.refl _ _
    | (intro x; first | (have _h : State := x; clear _h; clear_value (hx : x = _); refine Does.bind (l := [.one CAN_TXSTAT, .intg, .can]) (s := s) hx ?_ (fun _ => ?_)) | (have _h : Can := x; clear _h; clear_value (hx : x = _); subst hx) | clear_value x)
    | lift_lets
    | (apply Does.step; on_goal 1 => first | apply State.setTbSt_does)
    | refine State.when_does (fun s => ?_) ?_
    | refine Does.ite ?_ ?_
    | refine Does.iteSnd ?_ ?_
    | split
    | (apply Does.step; on_goal 1 => first | (apply Does.can <;> first | rfl | exact id | simp))
    | dsimp only

theorem State.tbEnd_does (s i st) : Does [.one CAN_TXSTAT, .can] s (State.tbEnd s i st) := by
  unfold State.tbEnd
  repeat' with_reducible first
    | assumption
    | decide
    | exact Does.refl _ _
    | (intro x; first | (have _h : State := x; clear _h; clear_value (hx : x = _); refine Does.bind (l := [.one CAN_TXSTAT, .can]) (s := s) hx ?_ (fun _ => ?_)) | (have _h : Can := x; clear _h; clear_value (hx : x = _); subst hx) | clear_value x)
    | lift_lets
    | (apply Does.step; on_goal 1 => first | apply State.loadWaiting_does | apply State.setTbSt_does)
    | refine Does.ite ?_ ?_
    | refine Does.iteSnd ?_ ?_
    | split
    | (apply Does.step; on_goal 1 => first | (apply Does.can <;> first | rfl | exact id | simp))
    | dsimp only

theorem State.attemptEnds_does (s i lec) : Does [.one CAN_IRQ, .one CAN_TXSTAT, .one MGT_LOG_STAT, .faults, .reel, .mgt, .can] s (State.attemptEnds s i lec) := by
  unfold State.attemptEnds
  repeat' with_reducible first
    | assumption
    | decide
    | exact Does.refl _ _
    | (intro x; first | (have _h : State := x; clear _h; clear_value (hx : x = _); refine Does.bind (l := [.one CAN_IRQ, .one CAN_TXSTAT, .one MGT_LOG_STAT, .faults, .reel, .mgt, .can]) (s := s) hx ?_ (fun _ => ?_)) | clear_value x)
    | lift_lets
    | (apply Does.step; on_goal 1 => first | exact State.put_does _ CAN_IRQ.TXFAIL _ (by with_unfolding_all exact Field.has_one CAN_IRQ) | exact State.put_does _ CAN_TXSTAT.CBUF _ (by with_unfolding_all exact Field.has_one CAN_TXSTAT) | exact State.put_does _ CAN_TXSTAT.CAUSE _ (by with_unfolding_all exact Field.has_one CAN_TXSTAT) | apply State.tbEnd_does | apply State.raise_does | apply State.setTbSt_does)
    | refine Does.ite ?_ ?_
    | refine Does.iteSnd ?_ ?_
    | dsimp only

theorem State.ackError_does (s) : Does [.one CAN_STAT, .one CAN_ERR, .one CAN_IRQ, .one MGT_LOG_STAT, .faults, .reel, .mgt, .can] s (State.ackError s) := by
  unfold State.ackError
  repeat' with_reducible first
    | assumption
    | decide
    | exact Does.refl _ _
    | (intro x; first | (have _h : State := x; clear _h; clear_value (hx : x = _); refine Does.bind (l := [.one CAN_STAT, .one CAN_ERR, .one CAN_IRQ, .one MGT_LOG_STAT, .faults, .reel, .mgt, .can]) (s := s) hx ?_ (fun _ => ?_)) | clear_value x)
    | lift_lets
    | (apply Does.step; on_goal 1 => first | exact State.bump_does _ CAN_ERR.ACKERR _ (by with_unfolding_all exact Field.has_one CAN_ERR) | exact State.put_does _ CAN_IRQ.ALONE _ (by with_unfolding_all exact Field.has_one CAN_IRQ) | exact State.put_does _ CAN_STAT.ALONE _ (by with_unfolding_all exact Field.has_one CAN_STAT) | apply State.raise_does)
    | refine Does.ite ?_ ?_
    | refine Does.iteSnd ?_ ?_
    | dsimp only

theorem State.delay_does (s i tdcv) : Does [.one CAN_TDC] s (State.delay s i tdcv) := by
  unfold State.delay
  repeat' with_reducible first
    | assumption
    | decide
    | exact Does.refl _ _
    | (apply Does.step; on_goal 1 => first | exact State.put_does _ CAN_TDC.TDCV _ (by with_unfolding_all exact Field.has_one CAN_TDC))
    | refine Does.ite ?_ ?_
    | refine Does.iteSnd ?_ ?_
    | split
    | dsimp only

theorem State.txError_does (s i lec data exempt) : Does [.one CAN_STAT, .one CAN_ERR, .one CAN_ERRLOG, .one CAN_IRQ, .one CAN_TXSTAT, .one MGT_LOG_STAT, .faults, .reel, .mgt, .can] s (State.txError s i lec data exempt) := by
  unfold State.txError
  repeat' with_reducible first
    | assumption
    | decide
    | exact Does.refl _ _
    | (intro x; first | (have _h : State := x; clear _h; clear_value (hx : x = _); refine Does.bind (l := [.one CAN_STAT, .one CAN_ERR, .one CAN_ERRLOG, .one CAN_IRQ, .one CAN_TXSTAT, .one MGT_LOG_STAT, .faults, .reel, .mgt, .can]) (s := s) hx ?_ (fun _ => ?_)) | (have _h : Can := x; clear _h; clear_value (hx : x = _); subst hx) | clear_value x)
    | lift_lets
    | (apply Does.step; on_goal 1 => first | apply State.errorFlag_does | apply State.errLog_does | apply State.ackError_does | apply State.canJudge_does | apply State.addTec_does | apply State.attemptEnds_does | apply State.setTbSt_does)
    | refine State.when_does (fun s => ?_) ?_
    | refine Does.ite ?_ ?_
    | refine Does.iteSnd ?_ ?_
    | (apply Does.step; on_goal 1 => first | (apply Does.can <;> first | rfl | exact id | simp))
    | dsimp only

theorem State.txOk_does (s i tdcv) : Does [.one CAN_STAT, .one CAN_ERR, .one CAN_IRQ, .one CAN_TDC, .one CAN_TXSTAT, .one CAN_CNT, .one MGT_LOG_STAT, .faults, .reel, .mgt, .can] s (State.txOk s i tdcv) := by
  unfold State.txOk
  repeat' with_reducible first
    | assumption
    | decide
    | exact Does.refl _ _
    | (intro x; first | (have _h : State := x; clear _h; clear_value (hx : x = _); refine Does.bind (l := [.one CAN_STAT, .one CAN_ERR, .one CAN_IRQ, .one CAN_TDC, .one CAN_TXSTAT, .one CAN_CNT, .one MGT_LOG_STAT, .faults, .reel, .mgt, .can]) (s := s) hx ?_ (fun _ => ?_)) | (have _h : Can := x; clear _h; clear_value (hx : x = _); subst hx) | clear_value x)
    | lift_lets
    | (apply Does.step; on_goal 1 => first | exact State.put_does _ CAN_ERR.ACKERR _ (by with_unfolding_all exact Field.has_one CAN_ERR) | exact State.bump_does _ CAN_CNT.TX _ (by with_unfolding_all exact Field.has_one CAN_CNT) | exact State.put_does _ CAN_ERR.TEC _ (by with_unfolding_all exact Field.has_one CAN_ERR) | exact State.put_does _ CAN_IRQ.TXDONE _ (by with_unfolding_all exact Field.has_one CAN_IRQ) | apply State.notAlone_does | apply State.delay_does | apply State.tbEnd_does | apply State.canJudge_does)
    | refine Does.ite ?_ ?_
    | refine Does.iteSnd ?_ ?_
    | (apply Does.step; on_goal 1 => first | (apply Does.can <;> first | rfl | exact id | simp))
    | dsimp only

theorem State.txLost_does (s i) : Does [.one CAN_IRQ, .one CAN_TXSTAT, .one MGT_LOG_STAT, .faults, .reel, .mgt, .can] s (State.txLost s i) := by
  unfold State.txLost
  repeat' with_reducible first
    | assumption
    | decide
    | exact Does.refl _ _
    | (intro x; first | (have _h : State := x; clear _h; clear_value (hx : x = _); refine Does.bind (l := [.one CAN_IRQ, .one CAN_TXSTAT, .one MGT_LOG_STAT, .faults, .reel, .mgt, .can]) (s := s) hx ?_ (fun _ => ?_)) | (have _h : Can := x; clear _h; clear_value (hx : x = _); subst hx) | clear_value x)
    | lift_lets
    | (apply Does.step; on_goal 1 => first | apply State.attemptEnds_does)
    | (apply Does.step; on_goal 1 => first | (apply Does.can <;> first | rfl | exact id | simp))
    | dsimp only

theorem execCanTxEnd_does (o s) : ∀ t, execCanTxEnd o s = .next t → Does [.one CAN_STAT, .one CAN_ERR, .one CAN_ERRLOG, .one CAN_IRQ, .one CAN_TDC, .one CAN_TXSTAT, .one CAN_CNT, .one MGT_LOG_STAT, .faults, .reel, .intg, .mgt, .can] s t := by
  unfold execCanTxEnd
  refine whenPowered_does ?_
  repeat' with_reducible first
    | assumption
    | decide
    | exact Does.refl _ _
    | (apply Does.step; on_goal 1 => first | apply State.txOk_does | apply State.txLost_does | apply State.txError_does | apply State.delay_does)
    | refine State.when_does (fun s => ?_) ?_
    | split
    | dsimp only

theorem State.flagError_does (s) : Does [.one CAN_STAT, .one CAN_ERR, .one CAN_IRQ, .one CAN_TXSTAT, .one MGT_LOG_STAT, .faults, .reel, .mgt, .can] s (State.flagError s) := by
  unfold State.flagError
  repeat' with_reducible first
    | assumption
    | decide
    | exact Does.refl _ _
    | (apply Does.step; on_goal 1 => first | apply State.canJudge_does | apply State.addTec_does | apply State.addRec_does)
    | refine Does.ite ?_ ?_
    | refine Does.iteSnd ?_ ?_
    | dsimp only

theorem State.rxError_does (s lec data) : Does [.one CAN_STAT, .one CAN_ERR, .one CAN_ERRLOG, .one CAN_IRQ, .one CAN_TXSTAT, .one MGT_LOG_STAT, .faults, .reel, .mgt, .can] s (State.rxError s lec data) := by
  unfold State.rxError
  repeat' with_reducible first
    | assumption
    | decide
    | exact Does.refl _ _
    | (intro x; first | (have _h : State := x; clear _h; clear_value (hx : x = _); refine Does.bind (l := [.one CAN_STAT, .one CAN_ERR, .one CAN_ERRLOG, .one CAN_IRQ, .one CAN_TXSTAT, .one MGT_LOG_STAT, .faults, .reel, .mgt, .can]) (s := s) hx ?_ (fun _ => ?_)) | (have _h : Can := x; clear _h; clear_value (hx : x = _); subst hx) | clear_value x)
    | lift_lets
    | (apply Does.step; on_goal 1 => first | apply State.addRec_does | apply State.errorFlag_does | apply State.errLog_does | apply State.canJudge_does)
    | (apply Does.step; on_goal 1 => first | (apply Does.can <;> first | rfl | exact id | simp))
    | dsimp only

theorem execCanError_does (x s) : ∀ t, execCanError x s = .next t → Does [.one CAN_STAT, .one CAN_ERR, .one CAN_ERRLOG, .one CAN_IRQ, .one CAN_TXSTAT, .one MGT_LOG_STAT, .faults, .reel, .intg, .mgt, .can] s t := by
  unfold execCanError
  refine whenPowered_does ?_
  repeat' with_reducible first
    | assumption
    | decide
    | exact Does.refl _ _
    | (apply Does.step; on_goal 1 => first | apply State.txError_does | apply State.rxError_does | apply State.flagError_does | apply State.errLog_does | apply State.sendFlag_does)
    | refine State.when_does (fun s => ?_) ?_
    | refine Does.ite ?_ ?_
    | refine Does.iteSnd ?_ ?_
    | split
    | dsimp only

theorem execDomTimeout_does (s) : ∀ t, execDomTimeout s = .next t → Does [.one MGT_LOG_STAT, .faults, .reel, .intg, .mgt, .can] s t := by
  unfold execDomTimeout
  refine whenPowered_does ?_
  repeat' with_reducible first
    | assumption
    | decide
    | exact Does.refl _ _
    | (intro x; first | (have _h : State := x; clear _h; clear_value (hx : x = _); refine Does.bind (l := [.one MGT_LOG_STAT, .faults, .reel, .intg, .mgt, .can]) (s := s) hx ?_ (fun _ => ?_)) | (have _h : Can := x; clear _h; clear_value (hx : x = _); subst hx) | clear_value x)
    | lift_lets
    | (apply Does.step; on_goal 1 => first | apply State.raise_does)
    | refine State.when_does (fun s => ?_) ?_
    | refine Does.ite ?_ ?_
    | refine Does.iteSnd ?_ ?_
    | (apply Does.step; on_goal 1 => first | (apply Does.can <;> first | rfl | exact id | simp))
    | dsimp only

theorem execProtocolExc_does (s) : ∀ t, execProtocolExc s = .next t → Does [.one MGT_LOG_STAT, .faults, .reel, .intg, .mgt, .can] s t := by
  unfold execProtocolExc
  refine whenPowered_does ?_
  repeat' with_reducible first
    | assumption
    | decide
    | exact Does.refl _ _
    | (intro x; first | (have _h : State := x; clear _h; clear_value (hx : x = _); refine Does.bind (l := [.one MGT_LOG_STAT, .faults, .reel, .intg, .mgt, .can]) (s := s) hx ?_ (fun _ => ?_)) | (have _h : Can := x; clear _h; clear_value (hx : x = _); subst hx) | clear_value x)
    | lift_lets
    | (apply Does.step; on_goal 1 => first | apply State.raise_does)
    | refine State.when_does (fun s => ?_) ?_
    | refine Does.ite ?_ ?_
    | refine Does.iteSnd ?_ ?_
    | (apply Does.step; on_goal 1 => first | (apply Does.can <;> first | rfl | exact id | simp))
    | dsimp only

theorem State.startRecovery_does (s) : Does [.can] s (State.startRecovery s) := by
  unfold State.startRecovery
  repeat' with_reducible first
    | assumption
    | decide
    | exact Does.refl _ _
    | (intro x; first | (have _h : State := x; clear _h; clear_value (hx : x = _); refine Does.bind (l := [.can]) (s := s) hx ?_ (fun _ => ?_)) | (have _h : Can := x; clear _h; clear_value (hx : x = _); subst hx) | clear_value x)
    | lift_lets
    | refine Does.ite ?_ ?_
    | refine Does.iteSnd ?_ ?_
    | (apply Does.step; on_goal 1 => first | (apply Does.can <;> first | rfl | exact id | simp))
    | dsimp only

theorem execCanIntegrated_does (s) : ∀ t, execCanIntegrated s = .next t → Does [.intg, .can] s t := by
  unfold execCanIntegrated
  refine whenPowered_does ?_
  repeat' with_reducible first
    | assumption
    | decide
    | exact Does.refl _ _
    | (intro x; first | (have _h : State := x; clear _h; clear_value (hx : x = _); refine Does.bind (l := [.intg, .can]) (s := s) hx ?_ (fun _ => ?_)) | (have _h : Can := x; clear _h; clear_value (hx : x = _); subst hx) | clear_value x)
    | lift_lets
    | (apply Does.step; on_goal 1 => first | apply State.startRecovery_does)
    | refine State.when_does (fun s => ?_) ?_
    | refine Does.ite ?_ ?_
    | refine Does.iteSnd ?_ ?_
    | (apply Does.step; on_goal 1 => first | (apply Does.can <;> first | rfl | exact id | simp))
    | dsimp only

theorem execBoReq_does (s) : ∀ t, execBoReq s = .next t → Does [.intg, .can, .spi] s t := by
  unfold execBoReq
  refine hostAccess_does ?_
  repeat' with_reducible first
    | assumption
    | decide
    | exact Does.refl _ _
    | (apply Does.step; on_goal 1 => first | apply State.startRecovery_does)
    | dsimp only

theorem State.canCtrlWritten_does (s v) : Does [.can] s (State.canCtrlWritten s v) := by
  unfold State.canCtrlWritten
  repeat' with_reducible first
    | assumption
    | decide
    | exact Does.refl _ _
    | (intro x; first | (have _h : State := x; clear _h; clear_value (hx : x = _); refine Does.bind (l := [.can]) (s := s) hx ?_ (fun _ => ?_)) | (have _h : Can := x; clear _h; clear_value (hx : x = _); subst hx) | clear_value x)
    | lift_lets
    | (apply Does.step; on_goal 1 => first | apply State.startRecovery_does)
    | refine State.when_does (fun s => ?_) ?_
    | refine Does.ite ?_ ?_
    | refine Does.iteSnd ?_ ?_
    | (apply Does.step; on_goal 1 => first | (apply Does.can <;> first | rfl | exact id | simp))
    | dsimp only

theorem execBusOffRecovered_does (s) : ∀ t, execBusOffRecovered s = .next t → Does [.one CAN_STAT, .one CAN_ERR, .one CAN_IRQ, .one CAN_TXSTAT, .one MGT_LOG_STAT, .faults, .reel, .intg, .mgt, .can] s t := by
  unfold execBusOffRecovered
  refine whenPowered_does ?_
  repeat' with_reducible first
    | assumption
    | decide
    | exact Does.refl _ _
    | (intro x; first | (have _h : State := x; clear _h; clear_value (hx : x = _); refine Does.bind (l := [.one CAN_STAT, .one CAN_ERR, .one CAN_IRQ, .one CAN_TXSTAT, .one MGT_LOG_STAT, .faults, .reel, .intg, .mgt, .can]) (s := s) hx ?_ (fun _ => ?_)) | (have _h : Can := x; clear _h; clear_value (hx : x = _); subst hx) | clear_value x)
    | lift_lets
    | (apply Does.step; on_goal 1 => first | exact State.put_does _ CAN_ERR.REC _ (by with_unfolding_all exact Field.has_one CAN_ERR) | exact State.put_does _ CAN_ERR.TEC _ (by with_unfolding_all exact Field.has_one CAN_ERR) | exact State.put_does _ CAN_IRQ.RECOVERED _ (by with_unfolding_all exact Field.has_one CAN_IRQ) | apply State.canJudge_does | apply State.loadWaiting_does)
    | refine State.when_does (fun s => ?_) ?_
    | refine Does.ite ?_ ?_
    | refine Does.iteSnd ?_ ?_
    | (apply Does.step; on_goal 1 => first | (apply Does.can <;> first | rfl | exact id | simp))
    | dsimp only

theorem execCanResume_does (s) : ∀ t, execCanResume s = .next t → Does [.one CAN_STAT, .intg] s t := by
  unfold execCanResume
  refine whenPowered_does ?_
  repeat' with_reducible first
    | assumption
    | decide
    | exact Does.refl _ _
    | (apply Does.step; on_goal 1 => first | exact State.put_does _ CAN_STAT.RC_RESTRICT _ (by with_unfolding_all exact Field.has_one CAN_STAT))
    | refine State.when_does (fun s => ?_) ?_
    | refine Does.ite ?_ ?_
    | refine Does.iteSnd ?_ ?_
    | dsimp only

theorem State.canApplied_does (s a old) : Does [.can] s (State.canApplied s a old) := by
  unfold State.canApplied
  repeat' with_reducible first
    | assumption
    | decide
    | exact Does.refl _ _
    | (intro x; first | (have _h : State := x; clear _h; clear_value (hx : x = _); refine Does.bind (l := [.can]) (s := s) hx ?_ (fun _ => ?_)) | (have _h : Can := x; clear _h; clear_value (hx : x = _); subst hx) | clear_value x)
    | lift_lets
    | refine Does.ite ?_ ?_
    | refine Does.iteSnd ?_ ?_
    | (apply Does.step; on_goal 1 => first | (apply Does.can <;> first | rfl | exact id | simp))
    | dsimp only

theorem State.writeTxreq_does (s m) : Does [.one CAN_TXSTAT, .spi] s (State.writeTxreq s m) := by
  unfold State.writeTxreq
  repeat' with_reducible first
    | assumption
    | decide
    | exact Does.refl _ _
    | (intro x; first | (have _h : State := x; clear _h; clear_value (hx : x = _); refine Does.bind (l := [.one CAN_TXSTAT, .spi]) (s := s) hx ?_ (fun _ => ?_)) | clear_value x)
    | lift_lets
    | (apply Does.step; on_goal 1 => first | apply State.refuse_does | apply State.setTbSt_does)
    | refine State.each_does (fun s b => ?_) ?_
    | refine Does.ite ?_ ?_
    | refine Does.iteSnd ?_ ?_
    | dsimp only

theorem execCanTxreq_does (m s) : ∀ t, execCanTxreq m s = .next t → Does [.one CAN_TXSTAT, .intg, .spi] s t := by
  unfold execCanTxreq
  refine hostAccess_does ?_
  repeat' with_reducible first
    | assumption
    | decide
    | exact Does.refl _ _
    | (apply Does.step; on_goal 1 => first | apply State.writeTxreq_does)
    | dsimp only

theorem State.writeTxabort_does (s m) : Does [.one CAN_TXSTAT, .can] s (State.writeTxabort s m) := by
  unfold State.writeTxabort
  repeat' with_reducible first
    | assumption
    | decide
    | exact Does.refl _ _
    | (intro x; first | (have _h : State := x; clear _h; clear_value (hx : x = _); refine Does.bind (l := [.one CAN_TXSTAT, .can]) (s := s) hx ?_ (fun _ => ?_)) | (have _h : Can := x; clear _h; clear_value (hx : x = _); subst hx) | clear_value x)
    | lift_lets
    | (apply Does.step; on_goal 1 => first | apply State.tbEnd_does)
    | refine State.each_does (fun s b => ?_) ?_
    | refine Does.ite ?_ ?_
    | refine Does.iteSnd ?_ ?_
    | (apply Does.step; on_goal 1 => first | (apply Does.can <;> first | rfl | exact id | simp))
    | dsimp only

theorem execCanTxabort_does (m s) : ∀ t, execCanTxabort m s = .next t → Does [.one CAN_TXSTAT, .intg, .can, .spi] s t := by
  unfold execCanTxabort
  refine hostAccess_does ?_
  repeat' with_reducible first
    | assumption
    | decide
    | exact Does.refl _ _
    | (apply Does.step; on_goal 1 => first | apply State.writeTxabort_does)
    | dsimp only

theorem State.writeRxfAck_does (s) : Does [.one CAN_RXF] s (State.writeRxfAck s) := by
  unfold State.writeRxfAck
  repeat' with_reducible first
    | assumption
    | decide
    | exact Does.refl _ _
    | (apply Does.step; on_goal 1 => first | exact State.put_does _ CAN_RXF.LEVEL _ (by with_unfolding_all exact Field.has_one CAN_RXF) | exact State.put_does _ CAN_RXF.HEAD _ (by with_unfolding_all exact Field.has_one CAN_RXF))
    | refine Does.ite ?_ ?_
    | refine Does.iteSnd ?_ ?_
    | dsimp only

theorem execCanRxfAck_does (s) : ∀ t, execCanRxfAck s = .next t → Does [.one CAN_RXF, .intg, .spi] s t := by
  unfold execCanRxfAck
  refine hostAccess_does ?_
  repeat' with_reducible first
    | assumption
    | decide
    | exact Does.refl _ _
    | (apply Does.step; on_goal 1 => first | apply State.writeRxfAck_does)
    | dsimp only

theorem State.modTb_does (s i f) : Does [.can] s (State.modTb s i f) :=
  Does.can s _ (by simp) rfl id

theorem State.writeTb_does (s i off v) : Does [.can, .spi] s (State.writeTb s i off v) := by
  unfold State.writeTb
  repeat' with_reducible first
    | assumption
    | decide
    | exact Does.refl _ _
    | (intro x; first | (have _h : State := x; clear _h; clear_value (hx : x = _); refine Does.bind (l := [.can, .spi]) (s := s) hx ?_ (fun _ => ?_)) | clear_value x)
    | lift_lets
    | (apply Does.step; on_goal 1 => first | apply State.refuse_does | apply State.modTb_does)
    | refine Does.ite ?_ ?_
    | refine Does.iteSnd ?_ ?_
    | split
    | dsimp only

theorem State.readRbId_does (s p n) : Does [.can] s (State.readRbId s p n) := by
  unfold State.readRbId
  repeat' with_reducible first
    | assumption
    | decide
    | exact Does.refl _ _
    | (intro x; first | (have _h : State := x; clear _h; clear_value (hx : x = _); refine Does.bind (l := [.can]) (s := s) hx ?_ (fun _ => ?_)) | (have _h : Can := x; clear _h; clear_value (hx : x = _); subst hx) | clear_value x)
    | lift_lets
    | (apply Does.step; on_goal 1 => first | (apply Does.can <;> first | rfl | exact id | simp))
    | dsimp only

theorem execRxBufferRead_does (n s) : ∀ t, execRxBufferRead n s = .next t → Does [.intg, .can, .spi] s t := by
  unfold execRxBufferRead
  refine hostAccess_does ?_
  repeat' with_reducible first
    | assumption
    | decide
    | exact Does.refl _ _
    | (apply Does.step; on_goal 1 => first | apply State.readRbId_does)
    | dsimp only

theorem State.canRejudge_does (s) : Does [.one CAN_STAT, .one MGT_LOG_STAT, .faults, .reel, .mgt, .can] s (State.canRejudge s) := by
  unfold State.canRejudge
  repeat' with_reducible first
    | assumption
    | decide
    | exact Does.refl _ _
    | (apply Does.step; on_goal 1 => first | exact State.put_does _ CAN_STAT.RC_RESTRICT _ (by with_unfolding_all exact Field.has_one CAN_STAT) | apply State.canRestrict_does)
    | refine Does.ite ?_ ?_
    | refine Does.iteSnd ?_ ?_
    | dsimp only

theorem State.canTimingLoad_does (s) : Does [.one CAN_NBT, .one CAN_DBT, .one CAN_TDC] s (State.canTimingLoad s) := by
  unfold State.canTimingLoad
  repeat' with_reducible first
    | assumption
    | decide
    | exact Does.refl _ _
    | (intro x; first | (have _h : State := x; clear _h; clear_value (hx : x = _); refine Does.bind (l := [.one CAN_NBT, .one CAN_DBT, .one CAN_TDC]) (s := s) hx ?_ (fun _ => ?_)) | clear_value x)
    | lift_lets
    | (apply Does.step; on_goal 1 => first | exact State.setWord_does _ CAN_NBT _ (by with_unfolding_all exact Field.has_one CAN_NBT) | exact State.setWord_does _ CAN_DBT _ (by with_unfolding_all exact Field.has_one CAN_DBT) | exact State.put_does _ CAN_TDC.FLAGS _ (by with_unfolding_all exact Field.has_one CAN_TDC) | exact State.put_does _ CAN_TDC.TDCF _ (by with_unfolding_all exact Field.has_one CAN_TDC) | exact State.put_does _ CAN_TDC.TDCO _ (by with_unfolding_all exact Field.has_one CAN_TDC))
    | dsimp only

theorem State.canMapLoad_does (s oldBase) : Does [.one CAN_TXSTAT, .one CAN_RXF, .can] s (State.canMapLoad s oldBase) := by
  unfold State.canMapLoad
  repeat' with_reducible first
    | assumption
    | decide
    | exact Does.refl _ _
    | (intro x; first | (have _h : State := x; clear _h; clear_value (hx : x = _); refine Does.bind (l := [.one CAN_TXSTAT, .one CAN_RXF, .can]) (s := s) hx ?_ (fun _ => ?_)) | (have _h : Can := x; clear _h; clear_value (hx : x = _); subst hx) | clear_value x)
    | lift_lets
    | (apply Does.step; on_goal 1 => first | exact State.put_does _ CAN_TXSTAT.OWN_TB2 _ (by with_unfolding_all exact Field.has_one CAN_TXSTAT) | exact State.put_does _ CAN_TXSTAT.OWN_TB1 _ (by with_unfolding_all exact Field.has_one CAN_TXSTAT) | exact State.put_does _ CAN_TXSTAT.OWN_TB0 _ (by with_unfolding_all exact Field.has_one CAN_TXSTAT) | exact State.put_does _ CAN_RXF.LEVEL _ (by with_unfolding_all exact Field.has_one CAN_RXF) | exact State.put_does _ CAN_RXF.HEAD _ (by with_unfolding_all exact Field.has_one CAN_RXF))
    | refine Does.ite ?_ ?_
    | refine Does.iteSnd ?_ ?_
    | (apply Does.step; on_goal 1 => first | (apply Does.can <;> first | rfl | exact id | simp))
    | dsimp only

theorem State.canBoot_does (s) : Does [.one CAN_NBT, .one CAN_DBT, .one CAN_TDC, .one CAN_TXSTAT, .one CAN_RXF, .can] s (State.canBoot s) := by
  unfold State.canBoot
  repeat' with_reducible first
    | assumption
    | decide
    | exact Does.refl _ _
    | (apply Does.step; on_goal 1 => first | apply State.canMapLoad_does | apply State.canTimingLoad_does)
    | dsimp only

theorem State.canStart_does (s) : Does [.one CAN_CTRL, .one CAN_STAT, .one MGT_LOG_STAT, .faults, .reel, .mgt, .can] s (State.canStart s) := by
  unfold State.canStart
  repeat' with_reducible first
    | assumption
    | decide
    | exact Does.refl _ _
    | (intro x; first | (have _h : State := x; clear _h; clear_value (hx : x = _); refine Does.bind (l := [.one CAN_CTRL, .one CAN_STAT, .one MGT_LOG_STAT, .faults, .reel, .mgt, .can]) (s := s) hx ?_ (fun _ => ?_)) | (have _h : Can := x; clear _h; clear_value (hx : x = _); subst hx) | clear_value x)
    | lift_lets
    | (apply Does.step; on_goal 1 => first | exact State.put_does _ CAN_CTRL.EN _ (by with_unfolding_all exact Field.has_one CAN_CTRL) | apply State.canRestrict_does)
    | refine Does.ite ?_ ?_
    | refine Does.iteSnd ?_ ?_
    | (apply Does.step; on_goal 1 => first | (apply Does.can <;> first | rfl | exact id | simp))
    | dsimp only

end Sys2Proof.Machine
end

