-- ==== Sys2Proof/Laws/Splice.lean ====
section
/-!
SUPPORT. What each operation of Sys2Proof/Machine/Splice.lean can do at most.
-/

-- One proof after the other: as one text the package would otherwise ask for more threads than there is memory for.
set_option Elab.async false
namespace Sys2Proof.Machine

theorem State.loadTables_does (s c image) : Does [.row MEM_B_STAT, .row MEM_B_ECC, .mem, .drawn, .cells] s (State.loadTables s c image) := by
  unfold State.loadTables
  repeat' with_reducible first
    | assumption
    | decide
    | exact Does.refl _ _
    | (apply Does.step; on_goal 1 => first | apply State.loadBytes_does)
    | refine State.each_does (fun s b => ?_) ?_
    | dsimp only

theorem State.readBack_does (s a n crc) : Does [.row MEM_B_STAT, .row MEM_B_ECC, .row MEM_B_REPAIR, .one INT_DEG_CAUSE, .one MGT_LOG_STAT, .faults, .reel, .mgt, .can, .mem, .drawn] s (State.readBack s a n crc).2 := by
  unfold State.readBack
  repeat' with_reducible first
    | assumption
    | decide
    | exact Does.refl _ _
    | (intro x; first | (have _h : State := x; clear _h; clear_value (hx : x = _); refine Does.bind (l := [.row MEM_B_STAT, .row MEM_B_ECC, .row MEM_B_REPAIR, .one INT_DEG_CAUSE, .one MGT_LOG_STAT, .faults, .reel, .mgt, .can, .mem, .drawn]) (s := s) hx ?_ (fun _ => ?_)) | (have _h : _ × _ × State := x; clear _h; clear_value (hx : x = _); refine Does.bindThird (l := [.row MEM_B_STAT, .row MEM_B_ECC, .row MEM_B_REPAIR, .one INT_DEG_CAUSE, .one MGT_LOG_STAT, .faults, .reel, .mgt, .can, .mem, .drawn]) (s := s) hx ?_ (fun _ => ?_)) | (have _h : Mem := x; clear _h; clear_value (hx : x = _); subst hx) | clear_value x)
    | lift_lets
    | (apply Does.step; on_goal 1 => first | apply State.wakeBank_does | apply State.readMem_does)
    | refine State.each_does (fun s b => ?_) ?_
    | (apply Does.step; on_goal 1 => first | (apply Does.mem <;> first | rfl | exact id | simp))
    | dsimp only

theorem State.tablesOk_does (s c image) : Does [.row MEM_B_STAT, .row MEM_B_ECC, .row MEM_B_REPAIR, .one INT_DEG_CAUSE, .one MGT_LOG_STAT, .faults, .reel, .mgt, .can, .mem, .drawn] s (State.tablesOk s c image).2 :=
  Does.foldlSnd (fun r t => State.readBack_does r.2 (t.at c image) t.bytes.length t.crc) (Does.refl _ _)

theorem State.spliceRefuse_does (s reason first) : Does [.one REEL_STAT, .one REEL_SPLICE_CNT, .one MGT_LOG_STAT, .faults, .reel, .mgt, .can] s (State.spliceRefuse s reason first) := by
  unfold State.spliceRefuse
  repeat' with_reducible first
    | assumption
    | decide
    | exact Does.refl _ _
    | (intro x; first | (have _h : State := x; clear _h; clear_value (hx : x = _); refine Does.bind (l := [.one REEL_STAT, .one REEL_SPLICE_CNT, .one MGT_LOG_STAT, .faults, .reel, .mgt, .can]) (s := s) hx ?_ (fun _ => ?_)) | clear_value x)
    | lift_lets
    | (apply Does.step; on_goal 1 => first | exact State.bump_does _ REEL_SPLICE_CNT.REFUSED _ (by with_unfolding_all exact Field.has_one REEL_SPLICE_CNT) | exact State.put_does _ REEL_STAT.REASON _ (by with_unfolding_all exact Field.has_one REEL_STAT) | exact State.put_does _ REEL_STAT.SPLICE_STATE _ (by with_unfolding_all exact Field.has_one REEL_STAT) | apply State.raise_does)
    | refine Does.ite ?_ ?_
    | refine Does.iteSnd ?_ ?_
    | split
    | (apply Does.step; on_goal 1 => first | apply Does.reel)
    | dsimp only

theorem State.spliceStart_does (s v) : Does [.one REEL_STAT, .one REEL_SPLICE, .reel] s (State.spliceStart s v) := by
  unfold State.spliceStart
  repeat' with_reducible first
    | assumption
    | decide
    | exact Does.refl _ _
    | (intro x; first | (have _h : State := x; clear _h; clear_value (hx : x = _); refine Does.bind (l := [.one REEL_STAT, .one REEL_SPLICE, .reel]) (s := s) hx ?_ (fun _ => ?_)) | clear_value x)
    | lift_lets
    | (apply Does.step; on_goal 1 => first | exact State.put_does _ REEL_STAT.SPLICE_STATE _ (by with_unfolding_all exact Field.has_one REEL_STAT) | exact State.setWord_does _ REEL_SPLICE _ (by with_unfolding_all exact Field.has_one REEL_SPLICE))
    | refine Does.ite ?_ ?_
    | refine Does.iteSnd ?_ ?_
    | (apply Does.step; on_goal 1 => first | apply Does.reel)
    | dsimp only

theorem State.writeSplice_does (s v) : Does [.one REEL_STAT, .one REEL_SPLICE, .one REEL_SPLICE_CNT, .one MGT_LOG_STAT, .faults, .reel, .mgt, .can, .spi] s (State.writeSplice s v) := by
  unfold State.writeSplice
  repeat' with_reducible first
    | assumption
    | decide
    | exact Does.refl _ _
    | (intro x; first | (have _h : State := x; clear _h; clear_value (hx : x = _); refine Does.bind (l := [.one REEL_STAT, .one REEL_SPLICE, .one REEL_SPLICE_CNT, .one MGT_LOG_STAT, .faults, .reel, .mgt, .can, .spi]) (s := s) hx ?_ (fun _ => ?_)) | clear_value x)
    | lift_lets
    | (apply Does.step; on_goal 1 => first | apply State.refuse_does | apply State.spliceStart_does | apply State.spliceRefuse_does)
    | refine Does.ite ?_ ?_
    | refine Does.iteSnd ?_ ?_
    | dsimp only

theorem execReelSplice_does (v s) : ∀ t, execReelSplice v s = .next t → Does [.one REEL_STAT, .one REEL_SPLICE, .one REEL_SPLICE_CNT, .one MGT_LOG_STAT, .faults, .reel, .intg, .mgt, .can, .spi] s t := by
  unfold execReelSplice
  refine hostAccess_does ?_
  repeat' with_reducible first
    | assumption
    | decide
    | exact Does.refl _ _
    | (apply Does.step; on_goal 1 => first | apply State.writeSplice_does)
    | dsimp only

theorem State.fallbackStart_does (s) : Does [.one REEL_STAT, .one REEL_SPLICE, .one REEL_SPLICE_CNT, .one MGT_LOG_STAT, .faults, .reel, .mgt, .can] s (State.fallbackStart s) := by
  unfold State.fallbackStart
  repeat' with_reducible first
    | assumption
    | decide
    | exact Does.refl _ _
    | (intro x; first | (have _h : State := x; clear _h; clear_value (hx : x = _); refine Does.bind (l := [.one REEL_STAT, .one REEL_SPLICE, .one REEL_SPLICE_CNT, .one MGT_LOG_STAT, .faults, .reel, .mgt, .can]) (s := s) hx ?_ (fun _ => ?_)) | clear_value x)
    | lift_lets
    | (apply Does.step; on_goal 1 => first | apply State.raise_does | apply State.spliceStart_does | apply State.spliceRefuse_does)
    | refine Does.ite ?_ ?_
    | refine Does.iteSnd ?_ ?_
    | (apply Does.step; on_goal 1 => first | apply Does.reel)
    | dsimp only

theorem execStagingEnd_does (bad s) : ∀ t, execStagingEnd bad s = .next t → Does Parts.stagingEnd s t := by
  unfold execStagingEnd
  refine whenPowered_does ?_
  repeat' with_reducible first
    | assumption
    | decide
    | exact Does.refl _ _
    | (intro x; first | (have _h : State := x; clear _h; clear_value (hx : x = _); refine Does.bind (l := Parts.stagingEnd) (s := s) hx ?_ (fun _ => ?_)) | (have _h : _ × State := x; clear _h; clear_value (hx : x = _); refine Does.bindSnd (l := Parts.stagingEnd) (s := s) hx ?_ (fun _ => ?_)) | clear_value x)
    | lift_lets
    | (apply Does.step; on_goal 1 => first | exact State.put_does _ REEL_STAT.SPLICE_STATE _ (by with_unfolding_all exact Field.has_one REEL_STAT) | apply State.reelNotice_does | apply State.spliceRefuse_does | apply State.setSlot_does | apply State.loadTables_does | apply State.tablesOk_does)
    | refine State.when_does (fun s => ?_) ?_
    | refine Does.ite ?_ ?_
    | refine Does.iteSnd ?_ ?_
    | split
    | (apply Does.step; on_goal 1 => first | apply Does.reel)
    | dsimp only

theorem execStagedRecheck_does (bad s) : ∀ t, execStagedRecheck bad s = .next t → Does [.one REEL_STAT, .one REEL_SPLICE_CNT, .row MEM_B_STAT, .row MEM_B_ECC, .row MEM_B_REPAIR, .one INT_DEG_CAUSE, .one MGT_LOG_STAT, .faults, .reel, .intg, .mgt, .can, .mem, .drawn] s t := by
  unfold execStagedRecheck
  refine whenPowered_does ?_
  repeat' with_reducible first
    | assumption
    | decide
    | exact Does.refl _ _
    | (intro x; first | (have _h : State := x; clear _h; clear_value (hx : x = _); refine Does.bind (l := [.one REEL_STAT, .one REEL_SPLICE_CNT, .row MEM_B_STAT, .row MEM_B_ECC, .row MEM_B_REPAIR, .one INT_DEG_CAUSE, .one MGT_LOG_STAT, .faults, .reel, .intg, .mgt, .can, .mem, .drawn]) (s := s) hx ?_ (fun _ => ?_)) | (have _h : _ × State := x; clear _h; clear_value (hx : x = _); refine Does.bindSnd (l := [.one REEL_STAT, .one REEL_SPLICE_CNT, .row MEM_B_STAT, .row MEM_B_ECC, .row MEM_B_REPAIR, .one INT_DEG_CAUSE, .one MGT_LOG_STAT, .faults, .reel, .intg, .mgt, .can, .mem, .drawn]) (s := s) hx ?_ (fun _ => ?_)) | clear_value x)
    | lift_lets
    | (apply Does.step; on_goal 1 => first | apply State.tablesOk_does | apply State.spliceRefuse_does)
    | refine State.when_does (fun s => ?_) ?_
    | refine Does.ite ?_ ?_
    | refine Does.iteSnd ?_ ?_
    | split
    | (apply Does.step; on_goal 1 => first | apply Does.reel)
    | dsimp only

theorem State.trialGood_does (s) : Does [.one REEL_STAT, .one REEL_SLOT_A, .one REEL_SLOT_B, .one MGT_FW_SLOT_A, .one MGT_FW_SLOT_B, .reel, .flash] s (State.trialGood s) := by
  unfold State.trialGood
  repeat' with_reducible first
    | assumption
    | decide
    | exact Does.refl _ _
    | (intro x; first | (have _h : State := x; clear _h; clear_value (hx : x = _); refine Does.bind (l := [.one REEL_STAT, .one REEL_SLOT_A, .one REEL_SLOT_B, .one MGT_FW_SLOT_A, .one MGT_FW_SLOT_B, .reel, .flash]) (s := s) hx ?_ (fun _ => ?_)) | clear_value x)
    | lift_lets
    | (apply Does.step; on_goal 1 => first | exact State.put_does _ REEL_STAT.TRIAL _ (by with_unfolding_all exact Field.has_one REEL_STAT) | apply State.setSlot_does)
    | (apply Does.step; on_goal 1 => first | apply Does.reel)
    | dsimp only

theorem State.writeReelCtrl_does (s v) : Does [.one REEL_STAT, .one REEL_SLOT_A, .one REEL_SLOT_B, .one REEL_SPLICE_CNT, .one MGT_FW_SLOT_A, .one MGT_FW_SLOT_B, .one MGT_LOG_STAT, .faults, .reel, .mgt, .can, .flash] s (State.writeReelCtrl s v) := by
  unfold State.writeReelCtrl
  repeat' with_reducible first
    | assumption
    | decide
    | exact Does.refl _ _
    | (intro x; first | (have _h : State := x; clear _h; clear_value (hx : x = _); refine Does.bind (l := [.one REEL_STAT, .one REEL_SLOT_A, .one REEL_SLOT_B, .one REEL_SPLICE_CNT, .one MGT_FW_SLOT_A, .one MGT_FW_SLOT_B, .one MGT_LOG_STAT, .faults, .reel, .mgt, .can, .flash]) (s := s) hx ?_ (fun _ => ?_)) | clear_value x)
    | lift_lets
    | (apply Does.step; on_goal 1 => first | apply State.trialGood_does | apply State.spliceRefuse_does)
    | refine State.when_does (fun s => ?_) ?_
    | refine Does.ite ?_ ?_
    | refine Does.iteSnd ?_ ?_
    | (apply Does.step; on_goal 1 => first | apply Does.reel)
    | dsimp only

theorem execConfirm_does (s) : ∀ t, execConfirm s = .next t → Does [.one REEL_STAT, .one REEL_SLOT_A, .one REEL_SLOT_B, .one REEL_SPLICE_CNT, .one MGT_FW_SLOT_A, .one MGT_FW_SLOT_B, .one MGT_LOG_STAT, .faults, .reel, .intg, .mgt, .can, .spi, .flash] s t := by
  unfold execConfirm
  refine hostAccess_does ?_
  repeat' with_reducible first
    | assumption
    | decide
    | exact Does.refl _ _
    | (apply Does.step; on_goal 1 => first | apply State.writeReelCtrl_does)
    | dsimp only

theorem execCancel_does (s) : ∀ t, execCancel s = .next t → Does [.one REEL_STAT, .one REEL_SLOT_A, .one REEL_SLOT_B, .one REEL_SPLICE_CNT, .one MGT_FW_SLOT_A, .one MGT_FW_SLOT_B, .one MGT_LOG_STAT, .faults, .reel, .intg, .mgt, .can, .spi, .flash] s t := by
  unfold execCancel
  refine hostAccess_does ?_
  repeat' with_reducible first
    | assumption
    | decide
    | exact Does.refl _ _
    | (apply Does.step; on_goal 1 => first | apply State.writeReelCtrl_does)
    | dsimp only

theorem execRecheck_does (s) : ∀ t, execRecheck s = .next t → Does [.one REEL_STAT, .one REEL_SLOT_A, .one REEL_SLOT_B, .one REEL_SPLICE_CNT, .one MGT_FW_SLOT_A, .one MGT_FW_SLOT_B, .one MGT_LOG_STAT, .faults, .reel, .intg, .mgt, .can, .spi, .flash] s t := by
  unfold execRecheck
  refine hostAccess_does ?_
  repeat' with_reducible first
    | assumption
    | decide
    | exact Does.refl _ _
    | (apply Does.step; on_goal 1 => first | apply State.writeReelCtrl_does)
    | dsimp only

theorem execTrialProgram_does (s) : ∀ t, execTrialProgram s = .next t → Does [.one REEL_STAT, .one REEL_SLOT_A, .one REEL_SLOT_B, .one MGT_FW_SLOT_A, .one MGT_FW_SLOT_B, .reel, .intg, .flash] s t := by
  unfold execTrialProgram
  refine whenPowered_does ?_
  repeat' with_reducible first
    | assumption
    | decide
    | exact Does.refl _ _
    | (intro x; first | (have _h : State := x; clear _h; clear_value (hx : x = _); refine Does.bind (l := [.one REEL_STAT, .one REEL_SLOT_A, .one REEL_SLOT_B, .one MGT_FW_SLOT_A, .one MGT_FW_SLOT_B, .reel, .intg, .flash]) (s := s) hx ?_ (fun _ => ?_)) | clear_value x)
    | lift_lets
    | (apply Does.step; on_goal 1 => first | exact State.put_does _ REEL_STAT.TRIAL _ (by with_unfolding_all exact Field.has_one REEL_STAT) | apply State.setSlot_does)
    | refine State.when_does (fun s => ?_) ?_
    | refine Does.ite ?_ ?_
    | refine Does.iteSnd ?_ ?_
    | split
    | (apply Does.step; on_goal 1 => first | apply Does.reel)
    | dsimp only

theorem execTrialFramesExpire_does (s) : ∀ t, execTrialFramesExpire s = .next t → Does [.one REEL_STAT, .one REEL_SLOT_A, .one REEL_SLOT_B, .one MGT_FW_SLOT_A, .one MGT_FW_SLOT_B, .reel, .intg, .flash] s t := by
  unfold execTrialFramesExpire
  refine whenPowered_does ?_
  repeat' with_reducible first
    | assumption
    | decide
    | exact Does.refl _ _
    | (intro x; first | (have _h : State := x; clear _h; clear_value (hx : x = _); refine Does.bind (l := [.one REEL_STAT, .one REEL_SLOT_A, .one REEL_SLOT_B, .one MGT_FW_SLOT_A, .one MGT_FW_SLOT_B, .reel, .intg, .flash]) (s := s) hx ?_ (fun _ => ?_)) | clear_value x)
    | lift_lets
    | (apply Does.step; on_goal 1 => first | apply State.trialGood_does)
    | refine State.when_does (fun s => ?_) ?_
    | refine Does.ite ?_ ?_
    | refine Does.iteSnd ?_ ?_
    | dsimp only

theorem execResidentRecheck_does (mismatch s) : ∀ t, execResidentRecheck mismatch s = .next t → Does [.one REEL_CHECK, .row MEM_B_STAT, .row MEM_B_ECC, .row MEM_B_REPAIR, .one INT_DEG_CAUSE, .one MGT_LOG_STAT, .faults, .reel, .intg, .mgt, .can, .mem, .drawn] s t := by
  unfold execResidentRecheck
  refine whenPowered_does ?_
  repeat' with_reducible first
    | assumption
    | decide
    | exact Does.refl _ _
    | (intro x; first | (have _h : State := x; clear _h; clear_value (hx : x = _); refine Does.bind (l := [.one REEL_CHECK, .row MEM_B_STAT, .row MEM_B_ECC, .row MEM_B_REPAIR, .one INT_DEG_CAUSE, .one MGT_LOG_STAT, .faults, .reel, .intg, .mgt, .can, .mem, .drawn]) (s := s) hx ?_ (fun _ => ?_)) | (have _h : _ × State := x; clear _h; clear_value (hx : x = _); refine Does.bindSnd (l := [.one REEL_CHECK, .row MEM_B_STAT, .row MEM_B_ECC, .row MEM_B_REPAIR, .one INT_DEG_CAUSE, .one MGT_LOG_STAT, .faults, .reel, .intg, .mgt, .can, .mem, .drawn]) (s := s) hx ?_ (fun _ => ?_)) | clear_value x)
    | lift_lets
    | (apply Does.step; on_goal 1 => first | exact State.bump_does _ REEL_CHECK.PASSES _ (by with_unfolding_all exact Field.has_one REEL_CHECK) | apply State.tablesOk_does | apply State.raise_does)
    | refine State.when_does (fun s => ?_) ?_
    | refine Does.ite ?_ ?_
    | refine Does.iteSnd ?_ ?_
    | split
    | (apply Does.step; on_goal 1 => first | apply Does.reel)
    | dsimp only

theorem execReloadDone_does (bad s) : ∀ t, execReloadDone bad s = .next t → Does [.row MEM_B_STAT, .row MEM_B_ECC, .row MEM_B_REPAIR, .one INT_DEG_CAUSE, .one MGT_LOG_STAT, .faults, .reel, .intg, .mgt, .can, .mem, .drawn, .cells] s t := by
  unfold execReloadDone
  refine whenPowered_does ?_
  repeat' with_reducible first
    | assumption
    | decide
    | exact Does.refl _ _
    | (intro x; first | (have _h : State := x; clear _h; clear_value (hx : x = _); refine Does.bind (l := [.row MEM_B_STAT, .row MEM_B_ECC, .row MEM_B_REPAIR, .one INT_DEG_CAUSE, .one MGT_LOG_STAT, .faults, .reel, .intg, .mgt, .can, .mem, .drawn, .cells]) (s := s) hx ?_ (fun _ => ?_)) | (have _h : _ × State := x; clear _h; clear_value (hx : x = _); refine Does.bindSnd (l := [.row MEM_B_STAT, .row MEM_B_ECC, .row MEM_B_REPAIR, .one INT_DEG_CAUSE, .one MGT_LOG_STAT, .faults, .reel, .intg, .mgt, .can, .mem, .drawn, .cells]) (s := s) hx ?_ (fun _ => ?_)) | clear_value x)
    | lift_lets
    | (apply Does.step; on_goal 1 => first | apply State.loadTables_does | apply State.tablesOk_does)
    | refine State.when_does (fun s => ?_) ?_
    | refine Does.ite ?_ ?_
    | refine Does.iteSnd ?_ ?_
    | (apply Does.step; on_goal 1 => first | apply Does.reel)
    | dsimp only

end Sys2Proof.Machine
end

