-- ==== Sys2Proof/Laws/Bus.lean ====
section
/-!
SUPPORT. What each operation of Sys2Proof/Machine/Bus.lean can do at most.
-/

-- One proof after the other: as one text the package would otherwise ask for more threads than there is memory for.
set_option Elab.async false
namespace Sys2Proof.Machine

theorem State.shown_does (s a) : Does [.drawn] s (State.shown s a).2 := by
  unfold State.shown
  repeat' with_reducible first
    | assumption
    | decide
    | exact Does.refl _ _
    | (apply Does.step; on_goal 1 => first | apply State.gpmLevel_does)
    | refine Does.ite ?_ ?_
    | refine Does.iteSnd ?_ ?_
    | split
    | dsimp only

theorem State.latchGroup_does (s p head n) : Does [.latched, .drawn] s (State.latchGroup s p head n) := by
  unfold State.latchGroup
  repeat' with_reducible first
    | assumption
    | decide
    | exact Does.refl _ _
    | (intro x; first | (have _h : State := x; clear _h; clear_value (hx : x = _); refine Does.bind (l := [.latched, .drawn]) (s := s) hx ?_ (fun _ => ?_)) | (have _h : _ × State := x; clear _h; clear_value (hx : x = _); refine Does.bindSnd (l := [.latched, .drawn]) (s := s) hx ?_ (fun _ => ?_)) | clear_value x)
    | lift_lets
    | (apply Does.step; on_goal 1 => first | apply State.shown_does)
    | refine State.each_does (fun s b => ?_) ?_
    | (apply Does.step; on_goal 1 => first | apply Does.latched)
    | dsimp only

theorem State.readReg_does (s p a) : Does [.row POS_LT_STAT, .latched, .drawn] s (State.readReg s p a).2 := by
  unfold State.readReg
  repeat' with_reducible first
    | assumption
    | decide
    | exact Does.refl _ _
    | (intro x; first | (have _h : State := x; clear _h; clear_value (hx : x = _); refine Does.bind (l := [.row POS_LT_STAT, .latched, .drawn]) (s := s) hx ?_ (fun _ => ?_)) | (have _h : _ × State := x; clear _h; clear_value (hx : x = _); refine Does.bindSnd (l := [.row POS_LT_STAT, .latched, .drawn]) (s := s) hx ?_ (fun _ => ?_)) | clear_value x)
    | lift_lets
    | (apply Does.step; on_goal 1 => first | apply State.shown_does | apply State.readLatch_does | apply State.latchGroup_does)
    | refine Does.ite ?_ ?_
    | refine Does.iteSnd ?_ ?_
    | split
    | dsimp only

theorem State.laggedSlate_does (s lag) : Does [.clk] s (State.laggedSlate s lag) := by
  unfold State.laggedSlate
  repeat' with_reducible first
    | assumption
    | decide
    | exact Does.refl _ _
    | (intro x; first | (have _h : State := x; clear _h; clear_value (hx : x = _); refine Does.bind (l := [.clk]) (s := s) hx ?_ (fun _ => ?_)) | clear_value x)
    | lift_lets
    | refine Does.ite ?_ ?_
    | refine Does.iteSnd ?_ ?_
    | (apply Does.step; on_goal 1 => first | apply Does.clk)
    | dsimp only

theorem State.readSlate_does (s p lag) : Does [.row POS_LT_STAT, .latched, .clk, .drawn] s (State.readSlate s p lag).2 := by
  unfold State.readSlate
  repeat' with_reducible first
    | assumption
    | decide
    | exact Does.refl _ _
    | (intro x; first | (have _h : State := x; clear _h; clear_value (hx : x = _); refine Does.bind (l := [.row POS_LT_STAT, .latched, .clk, .drawn]) (s := s) hx ?_ (fun _ => ?_)) | (have _h : _ × State := x; clear _h; clear_value (hx : x = _); refine Does.bindSnd (l := [.row POS_LT_STAT, .latched, .clk, .drawn]) (s := s) hx ?_ (fun _ => ?_)) | clear_value x)
    | lift_lets
    | (apply Does.step; on_goal 1 => first | apply State.readReg_does | apply State.laggedSlate_does)
    | (apply Does.step; on_goal 1 => first | apply Does.latched)
    | dsimp only

theorem State.readBank_does (s b a x) : Does [.one SPI_HERR, .one MEM_MB_CNT, .row MEM_B_STAT, .row MEM_B_ECC, .row MEM_B_REPAIR, .one INT_DEG_CAUSE, .one MGT_LOG_STAT, .faults, .reel, .mgt, .can, .mem, .spi, .drawn, .cells] s (State.readBank s b a x).2 := by
  unfold State.readBank
  repeat' with_reducible first
    | assumption
    | decide
    | exact Does.refl _ _
    | (intro x; first | (have _h : State := x; clear _h; clear_value (hx : x = _); refine Does.bind (l := [.one SPI_HERR, .one MEM_MB_CNT, .row MEM_B_STAT, .row MEM_B_ECC, .row MEM_B_REPAIR, .one INT_DEG_CAUSE, .one MGT_LOG_STAT, .faults, .reel, .mgt, .can, .mem, .spi, .drawn, .cells]) (s := s) hx ?_ (fun _ => ?_)) | (have _h : _ × _ × State := x; clear _h; clear_value (hx : x = _); refine Does.bindThird (l := [.one SPI_HERR, .one MEM_MB_CNT, .row MEM_B_STAT, .row MEM_B_ECC, .row MEM_B_REPAIR, .one INT_DEG_CAUSE, .one MGT_LOG_STAT, .faults, .reel, .mgt, .can, .mem, .spi, .drawn, .cells]) (s := s) hx ?_ (fun _ => ?_)) | clear_value x)
    | lift_lets
    | (apply Does.step; on_goal 1 => first | apply State.readMem_does | apply State.wakeBank_does | apply State.plant_does | apply State.collide_does | apply State.portA_does)
    | refine Does.ite ?_ ?_
    | refine Does.iteSnd ?_ ?_
    | split
    | dsimp only

/-- What `State.busRead` and its like may change. -/
def Parts.ofBusRead : List Field :=
  [.row POS_LT_STAT, .one SPI_HERR, .one SPI_MW_STAT, .one MEM_MB_CNT, .row MEM_B_STAT, .row MEM_B_ECC,
    .row MEM_B_REPAIR, .one INT_DEG_CAUSE, .one MGT_LOG_STAT, .faults, .latched, .clk, .reel, .mgt, .can, .mem, .spi,
    .flashFlaws, .drawn, .cells]

theorem State.busRead_does (s p a x) : Does Parts.ofBusRead s (State.busRead s p a x).2 := by
  unfold State.busRead
  dsimp only
  split
  · exact Does.weaken (State.readBank_does ..) rfl
  · split
    · exact Does.weaken (State.flashRead_does ..) rfl
    · split
      · exact Does.weaken (State.mwRead_does ..) rfl
      · split
        · exact Does.refl _ _
        · split
          · exact Does.weaken (State.readRbId_does ..) rfl
          · exact Does.refl _ _
        · split
          · exact Does.weaken (State.readSlate_does ..) rfl
          · split
            · exact Does.weaken (State.readReg_does ..) rfl
            · exact Does.refl _ _

theorem State.plainWrite_does (s r a v) : Does [.regs, .waiting] s (State.plainWrite s r a v) := by
  unfold State.plainWrite
  repeat' with_reducible first
    | assumption
    | decide
    | exact Does.refl _ _
    | (intro x; first | (have _h : State := x; clear _h; clear_value (hx : x = _); refine Does.bind (l := [.regs, .waiting]) (s := s) hx ?_ (fun _ => ?_)) | clear_value x)
    | lift_lets
    | (apply Does.step; on_goal 1 => first | exact State.setWord_does (x := .regs) _ _ _ (by with_unfolding_all exact trivial) | apply State.await_does)
    | refine Does.ite ?_ ?_
    | refine Does.iteSnd ?_ ?_
    | dsimp only

theorem State.checkedWrite_does (s p a v) : Does [.regs, .waiting, .spi] s (State.checkedWrite s p a v) := by
  unfold State.checkedWrite
  repeat' with_reducible first
    | assumption
    | decide
    | exact Does.refl _ _
    | (apply Does.step; on_goal 1 => first | apply State.refuse_does | apply State.plainWrite_does)
    | refine Does.ite ?_ ?_
    | refine Does.iteSnd ?_ ?_
    | split
    | dsimp only

theorem State.thenDo_does {l s p a v} {f : State → State} (h : ∀ s, Does l s (f s))
    (hk : fits [.regs, .waiting, .spi] l = true := by rfl) : Does l s (State.thenDo s p a v f) := by
  unfold State.thenDo
  refine Does.ite (Does.weaken (State.refuse_does ..) ?_) (Does.trans (Does.weaken (State.checkedWrite_does ..) hk) (h _))
  exact fits_trans (by decide) hk

theorem State.writeClkCtrl_does (s v) : Does [.one CLK_CTRL, .one CLK_STAT, .clk, .spi] s (State.writeClkCtrl s v) := by
  unfold State.writeClkCtrl
  repeat' with_reducible first
    | assumption
    | decide
    | exact Does.refl _ _
    | (intro x; first | (have _h : State := x; clear _h; clear_value (hx : x = _); refine Does.bind (l := [.one CLK_CTRL, .one CLK_STAT, .clk, .spi]) (s := s) hx ?_ (fun _ => ?_)) | clear_value x)
    | lift_lets
    | (apply Does.step; on_goal 1 => first | exact State.put_does _ CLK_STAT.LPO_BUSY _ (by with_unfolding_all exact Field.has_one CLK_STAT) | apply State.refuse_does | apply State.writeXtalRetry_does | apply State.writeXtalEn_does)
    | refine State.when_does (fun s => ?_) ?_
    | refine Does.ite ?_ ?_
    | refine Does.iteSnd ?_ ?_
    | dsimp only

theorem State.writeModFault_does (s p v) : Does [.regs, .waiting, .spi, .modg] s (State.writeModFault s p v) := by
  unfold State.writeModFault
  repeat' with_reducible first
    | assumption
    | decide
    | exact Does.refl _ _
    | (intro x; first | (have _h : State := x; clear _h; clear_value (hx : x = _); refine Does.bind (l := [.regs, .waiting, .spi, .modg]) (s := s) hx ?_ (fun _ => ?_)) | clear_value x)
    | lift_lets
    | (apply Does.step; on_goal 1 => first | apply State.checkedWrite_does)
    | refine Does.ite ?_ ?_
    | refine Does.iteSnd ?_ ?_
    | (apply Does.step; on_goal 1 => first | apply Does.modg)
    | dsimp only

/-- What `State.actTop` and its like may change. -/
def Parts.ofActTop : List Field :=
  [.regs, .waiting, .latched, .clk, .sys, .keep, .reel, .engs, .intg, .mgt, .can, .mem, .spi, .mods, .modg, .pwr, .adc,
    .pos, .mots, .chn, .queues, .flash, .cells]

theorem State.actTop_does (s p a v) : DoesOpt Parts.ofActTop s (State.actTop s p a v) := by
  unfold State.actTop
  repeat' with_reducible first
    | assumption
    | decide
    | exact Does.refl _ _
    | exact DoesOpt.none
    | refine DoesOpt.some ?_
    | refine DoesOpt.ite ?_ ?_
    | refine DoesOpt.map (fun _ => ?_)
    | (apply Does.step; on_goal 1 => first | apply State.modeRequest_does | apply State.writeClkCtrl_does | apply State.clearClkFault_does | apply State.writeReelCtrl_does | apply State.writeSplice_does | apply State.writeEngCtrl_does)
    | refine Does.ite ?_ ?_
    | refine Does.iteSnd ?_ ?_
    | dsimp only

theorem State.actMotion_does (s p a v) : DoesOpt [.regs, .waiting, .spi, .pos, .mots] s (State.actMotion s p a v) := by
  unfold State.actMotion
  repeat' with_reducible first
    | assumption
    | decide
    | exact Does.refl _ _
    | exact DoesOpt.none
    | refine DoesOpt.some ?_
    | refine DoesOpt.ite ?_ ?_
    | refine DoesOpt.map (fun _ => ?_)
    | (intro x; first | (have _h : State := x; clear _h; clear_value (hx : x = _); refine Does.bind (l := [.regs, .waiting, .spi, .pos, .mots]) (s := s) hx ?_ (fun _ => ?_)) | clear_value x)
    | lift_lets
    | (apply Does.step; on_goal 1 => first | exact State.setWord_does (x := .regs) _ _ _ (by with_unfolding_all exact trivial) | apply State.writeParam_does | apply State.writeAxCtrl_does | apply State.writeTarget_does | apply State.refuse_does | apply State.writeSetpos_does | apply State.writeCamCtrl_does | apply State.writeBind_does | (first | exact State.thenDo_does (l := [.regs, .waiting, .spi]) (fun s => Does.weaken (State.emptyLatch_does ..) (by decide)) (by decide) | (refine State.thenDo_does (l := [.regs, .waiting, .spi, .pos]) (fun s => State.when_does (fun s => ?_) (Does.refl _ _) ) (by decide); first | exact Does.weaken (State.modSi_does ..) (by decide) | exact Does.weaken (State.modEe_does ..) (by decide)) | exact State.thenDo_does (l := [.regs, .waiting, .spi, .can]) (fun s => Does.weaken (State.canCtrlWritten_does ..) (by decide)) (by decide)) | apply State.modSi_does)
    | refine State.when_does (fun s => ?_) ?_
    | refine Does.ite ?_ ?_
    | refine Does.iteSnd ?_ ?_
    | split
    | dsimp only

theorem State.actAnalog_does (s p a v x) : DoesOpt [.regs, .waiting, .reel, .intg, .mgt, .can, .spi, .mods, .modg, .pwr, .adc, .pos, .drawn] s (State.actAnalog s p a v x) := by
  unfold State.actAnalog
  repeat' with_reducible first
    | assumption
    | decide
    | exact Does.refl _ _
    | exact DoesOpt.none
    | refine DoesOpt.some ?_
    | refine DoesOpt.ite ?_ ?_
    | refine DoesOpt.map (fun _ => ?_)
    | (intro x; first | (have _h : State := x; clear _h; clear_value (hx : x = _); refine Does.bind (l := [.regs, .waiting, .reel, .intg, .mgt, .can, .spi, .mods, .modg, .pwr, .adc, .pos, .drawn]) (s := s) hx ?_ (fun _ => ?_)) | clear_value x)
    | lift_lets
    | (apply Does.step; on_goal 1 => first | exact State.put_does _ PWR_STAT.VCP_OK _ (by with_unfolding_all exact Field.has_one PWR_STAT) | apply State.writeCommit_does | apply State.writeModFault_does | apply State.writeForce_does | apply State.selftestStart_does | apply State.checkedWrite_does | apply State.tripClear_does | apply State.diagStart_does | apply State.writeLtTrig_does | apply State.writePreset_does | apply State.writeVal_does | (first | exact State.thenDo_does (l := [.regs, .waiting, .spi]) (fun s => Does.weaken (State.emptyLatch_does ..) (by decide)) (by decide) | (refine State.thenDo_does (l := [.regs, .waiting, .spi, .pos]) (fun s => State.when_does (fun s => ?_) (Does.refl _ _) ) (by decide); first | exact Does.weaken (State.modSi_does ..) (by decide) | exact Does.weaken (State.modEe_does ..) (by decide)) | exact State.thenDo_does (l := [.regs, .waiting, .spi, .can]) (fun s => Does.weaken (State.canCtrlWritten_does ..) (by decide)) (by decide)) | apply State.modEe_does | apply State.emptyLatch_does | apply State.writeInj_does | apply State.writeCal_does)
    | refine State.when_does (fun s => ?_) ?_
    | refine Does.ite ?_ ?_
    | refine Does.iteSnd ?_ ?_
    | split
    | dsimp only

theorem State.actLinks_does (s p a v x) : DoesOpt [.regs, .waiting, .sys, .reel, .intg, .mgt, .can, .mem, .spi, .mods, .pwr, .flash, .drawn, .cells] s (State.actLinks s p a v x) := by
  unfold State.actLinks
  repeat' with_reducible first
    | assumption
    | decide
    | exact Does.refl _ _
    | exact DoesOpt.none
    | refine DoesOpt.some ?_
    | refine DoesOpt.ite ?_ ?_
    | refine DoesOpt.map (fun _ => ?_)
    | (apply Does.step; on_goal 1 => first | (first | exact State.thenDo_does (l := [.regs, .waiting, .spi]) (fun s => Does.weaken (State.emptyLatch_does ..) (by decide)) (by decide) | (refine State.thenDo_does (l := [.regs, .waiting, .spi, .pos]) (fun s => State.when_does (fun s => ?_) (Does.refl _ _) ) (by decide); first | exact Does.weaken (State.modSi_does ..) (by decide) | exact Does.weaken (State.modEe_does ..) (by decide)) | exact State.thenDo_does (l := [.regs, .waiting, .spi, .can]) (fun s => Does.weaken (State.canCtrlWritten_does ..) (by decide)) (by decide)) | apply State.canCtrlWritten_does | apply State.writeTxreq_does | apply State.writeTxabort_does | apply State.writeRxfAck_does | apply State.writeTb_does | apply State.mwBase_does | apply State.mwRaw_does | apply State.mwWrite_does | apply State.atomic_does | apply State.writeAxSafe_does | apply State.writeAxRelease_does | apply State.mgtWrite_does)
    | refine State.when_does (fun s => ?_) ?_
    | refine Does.ite ?_ ?_
    | refine Does.iteSnd ?_ ?_
    | split
    | dsimp only

theorem State.writeReg_does (s p a v x) : Does Parts.bus s (State.writeReg s p a v x) := by
  unfold State.writeReg
  split
  · exact Does.refl _ _
  · split
    · exact Does.weaken (State.actTop_does s p a v _ (by assumption)) rfl
    · exact Does.weaken (State.actMotion_does s p a v _ (by assumption)) rfl
    · exact Does.weaken (State.actAnalog_does s p a v x _ (by assumption)) rfl
    · exact Does.weaken (State.actLinks_does s p a v x _ (by assumption)) rfl
    · exact Does.weaken (State.checkedWrite_does ..) rfl

theorem State.writeBank_does (s b a v x) : Does [.one SPI_HERR, .one MEM_MB_CNT, .row MEM_B_STAT, .row MEM_B_ECC, .one MGT_LOG_STAT, .faults, .reel, .mgt, .can, .mem, .spi, .drawn, .cells] s (State.writeBank s b a v x) := by
  unfold State.writeBank
  repeat' with_reducible first
    | assumption
    | decide
    | exact Does.refl _ _
    | (intro x; first | (have _h : State := x; clear _h; clear_value (hx : x = _); refine Does.bind (l := [.one SPI_HERR, .one MEM_MB_CNT, .row MEM_B_STAT, .row MEM_B_ECC, .one MGT_LOG_STAT, .faults, .reel, .mgt, .can, .mem, .spi, .drawn, .cells]) (s := s) hx ?_ (fun _ => ?_)) | clear_value x)
    | lift_lets
    | (apply Does.step; on_goal 1 => first | exact State.incr_does _ MEM_MB_CNT.B_WR (by with_unfolding_all exact Field.has_one MEM_MB_CNT) | apply State.writeMem_does | apply State.collided_does | apply State.wakeBank_does)
    | refine Does.ite ?_ ?_
    | refine Does.iteSnd ?_ ?_
    | dsimp only

theorem State.busWrite_does (s p a v x) : Does Parts.bus s (State.busWrite s p a v x) := by
  unfold State.busWrite
  repeat' with_reducible first
    | assumption
    | decide
    | exact Does.refl _ _
    | (apply Does.step; on_goal 1 => first | apply State.writeBank_does | apply State.writeReg_does)
    | refine Does.ite ?_ ?_
    | refine Does.iteSnd ?_ ?_
    | split
    | dsimp only

theorem execRegisterWrite_does (addr v s) : ∀ t, execRegisterWrite addr v s = .next t → Does Parts.bus s t := by
  unfold execRegisterWrite
  refine hostAccess_does ?_
  repeat' with_reducible first
    | assumption
    | decide
    | exact Does.refl _ _
    | (intro x; first | (have _h : State := x; clear _h; clear_value (hx : x = _); refine Does.bind (l := Parts.bus) (s := s) hx ?_ (fun _ => ?_)) | clear_value x)
    | lift_lets
    | (apply Does.step; on_goal 1 => first | apply State.mwFlush_does | apply State.busWrite_does)
    | dsimp only

theorem execOwnWrite_does (b v s) : ∀ t, execOwnWrite b v s = .next t → Does [.regs, .waiting, .intg, .spi] s t := by
  unfold execOwnWrite
  refine hostAccess_does ?_
  repeat' with_reducible first
    | assumption
    | decide
    | exact Does.refl _ _
    | (apply Does.step; on_goal 1 => first | apply State.checkedWrite_does)
    | dsimp only

theorem execStampStale_does (x s) : ∀ t, execStampStale x s = .next t → Does [.row POS_LT_STAT, .intg, .can] s t := by
  unfold execStampStale
  refine whenPowered_does ?_
  repeat' with_reducible first
    | assumption
    | decide
    | exact Does.refl _ _
    | (intro x; first | (have _h : State := x; clear _h; clear_value (hx : x = _); refine Does.bind (l := [.row POS_LT_STAT, .intg, .can]) (s := s) hx ?_ (fun _ => ?_)) | (have _h : Can := x; clear _h; clear_value (hx : x = _); subst hx) | clear_value x)
    | lift_lets
    | (apply Does.step; on_goal 1 => first | exact State.put_does _ (POS_LT_STAT.STALE _) _ (by with_unfolding_all exact Field.has_row POS_LT_STAT (fun _ => rfl) _))
    | refine State.when_does (fun s => ?_) ?_
    | refine Does.ite ?_ ?_
    | refine Does.iteSnd ?_ ?_
    | split
    | (apply Does.step; on_goal 1 => first | (apply Does.can <;> first | rfl | exact id | simp))
    | dsimp only

end Sys2Proof.Machine
end

