-- ==== Sys2Proof/Laws/Spi.lean ====
section
/-!
SUPPORT. What each operation of Sys2Proof/Machine/Spi.lean can do at most.
-/

-- One proof after the other: as one text the package would otherwise ask for more threads than there is memory for.
set_option Elab.async false
namespace Sys2Proof.Machine

theorem State.frameOpen_does (s) : Does [.spi] s (State.frameOpen s) := by
  unfold State.frameOpen
  repeat' with_reducible first
    | assumption
    | decide
    | exact Does.refl _ _
    | (intro x; first | (have _h : State := x; clear _h; clear_value (hx : x = _); refine Does.bind (l := [.spi]) (s := s) hx ?_ (fun _ => ?_)) | clear_value x)
    | lift_lets
    | (apply Does.step; on_goal 1 => first | apply Does.spi)
    | dsimp only

theorem State.hostFrame_does {l s} {f : State → State} (h : ∀ s, Does l s (f s))
    (hk : fits [.one SPI_STAT, .one SPI_MW_STAT, .one MGT_LOG_STAT, .faults, .reel, .mgt, .can, .spi, .chn, .drawn] l = true := by rfl) : Does l s (State.hostFrame s f) := by
  unfold State.hostFrame
  refine Does.ite (Does.refl _ _) (Does.ite (Does.trans (Does.weaken (State.mmFault_does ..) ?_) (Does.refl _ _))
    (Does.ite (Does.weaken (State.hostInWindow_does ..) ?_) (Does.trans (Does.weaken (State.frameOpen_does ..) ?_) (h _)))) <;> exact fits_trans (by decide) hk

theorem State.modFrame_does (s f) : Does [.spi] s (State.modFrame s f) := by
  unfold State.modFrame
  repeat' with_reducible first
    | assumption
    | decide
    | exact Does.refl _ _
    | (intro x; first | (have _h : State := x; clear _h; clear_value (hx : x = _); refine Does.bind (l := [.spi]) (s := s) hx ?_ (fun _ => ?_)) | clear_value x)
    | lift_lets
    | (apply Does.step; on_goal 1 => first | apply Does.spi)
    | dsimp only

theorem State.illegalFrame_does (s) : Does [.one SPI_HERR, .one MGT_LOG_STAT, .faults, .reel, .mgt, .can, .spi] s (State.illegalFrame s) := by
  unfold State.illegalFrame
  repeat' with_reducible first
    | assumption
    | decide
    | exact Does.refl _ _
    | (intro x; first | (have _h : State := x; clear _h; clear_value (hx : x = _); refine Does.bind (l := [.one SPI_HERR, .one MGT_LOG_STAT, .faults, .reel, .mgt, .can, .spi]) (s := s) hx ?_ (fun _ => ?_)) | clear_value x)
    | lift_lets
    | (apply Does.step; on_goal 1 => first | exact State.bump_does _ SPI_HERR.ILLEGAL _ (by with_unfolding_all exact Field.has_one SPI_HERR) | apply State.outcome_does | apply State.raise_does | apply State.modFrame_does)
    | dsimp only

theorem State.readLate_does (s) : Does [.one SPI_HERR, .one MGT_LOG_STAT, .faults, .reel, .mgt, .can, .spi] s (State.readLate s) := by
  unfold State.readLate
  repeat' with_reducible first
    | assumption
    | decide
    | exact Does.refl _ _
    | (apply Does.step; on_goal 1 => first | exact State.bump_does _ SPI_HERR.LATE _ (by with_unfolding_all exact Field.has_one SPI_HERR) | apply State.raise_does | apply State.outcome_does)
    | dsimp only

theorem State.giveWord_does (s clocked a w) : Does [.spi] s (State.giveWord s clocked a w) := by
  unfold State.giveWord
  repeat' with_reducible first
    | assumption
    | decide
    | exact Does.refl _ _
    | (intro x; first | (have _h : State := x; clear _h; clear_value (hx : x = _); refine Does.bind (l := [.spi]) (s := s) hx ?_ (fun _ => ?_)) | clear_value x)
    | lift_lets
    | refine Does.ite ?_ ?_
    | refine Does.iteSnd ?_ ?_
    | (apply Does.step; on_goal 1 => first | apply Does.spi)
    | dsimp only

theorem State.giveZeros_does (s left) : Does [.spi] s (State.giveZeros s left) := by
  unfold State.giveZeros
  repeat' with_reducible first
    | assumption
    | decide
    | exact Does.refl _ _
    | (intro x; first | (have _h : State := x; clear _h; clear_value (hx : x = _); refine Does.bind (l := [.spi]) (s := s) hx ?_ (fun _ => ?_)) | clear_value x)
    | lift_lets
    | (apply Does.step; on_goal 1 => first | apply State.modFrame_does)
    | (apply Does.step; on_goal 1 => first | apply Does.spi)
    | dsimp only

theorem State.readWords_does (s a1 left) : Does Parts.ofBusRead s (State.readWords s a1 left) := by
  induction a1 generalizing s left with
  | nil => exact Does.refl _ _
  | cons w t ih =>
    unfold State.readWords
    repeat' with_reducible first
      | assumption
      | decide
      | exact Does.refl _ _
      | (intro x; first | (have _h : State := x; clear _h; clear_value (hx : x = _); refine Does.bind (l := Parts.ofBusRead) (s := s) hx ?_ (fun _ => ?_)) | (have _h : _ × State := x; clear _h; clear_value (hx : x = _); refine Does.bindSnd (l := Parts.ofBusRead) (s := s) hx ?_ (fun _ => ?_)) | clear_value x)
      | (apply Does.trans; on_goal 2 => apply ih)
      | lift_lets
      | (apply Does.step; on_goal 1 => first | apply State.readLate_does | apply State.giveZeros_does | apply State.modFrame_does | apply State.busRead_does | apply State.giveWord_does)
      | refine Does.ite ?_ ?_
      | refine Does.iteSnd ?_ ?_
      | split
      | refine Does.ofPair (by assumption) ?_
      | (apply Does.step; on_goal 1 => first | apply Does.spi)
      | dsimp only

theorem State.frameResume_does (s) : Does Parts.ofBusRead s (State.frameResume s) := by
  unfold State.frameResume
  repeat' with_reducible first
    | assumption
    | decide
    | exact Does.refl _ _
    | (intro x; first | (have _h : State := x; clear _h; clear_value (hx : x = _); refine Does.bind (l := Parts.ofBusRead) (s := s) hx ?_ (fun _ => ?_)) | clear_value x)
    | lift_lets
    | (apply Does.step; on_goal 1 => first | apply State.readWords_does)
    | refine Does.ite ?_ ?_
    | refine Does.iteSnd ?_ ?_
    | split
    | (apply Does.step; on_goal 1 => first | apply Does.spi)
    | dsimp only

theorem State.waitedOut_does (s waited) : Does [.one SPI_HERR, .one MGT_LOG_STAT, .faults, .reel, .mgt, .can, .spi] s (State.waitedOut s waited) := by
  unfold State.waitedOut
  repeat' with_reducible first
    | assumption
    | decide
    | exact Does.refl _ _
    | (intro x; first | (have _h : State := x; clear _h; clear_value (hx : x = _); refine Does.bind (l := [.one SPI_HERR, .one MGT_LOG_STAT, .faults, .reel, .mgt, .can, .spi]) (s := s) hx ?_ (fun _ => ?_)) | clear_value x)
    | lift_lets
    | (apply Does.step; on_goal 1 => first | apply State.modFrame_does | apply State.readLate_does | apply State.giveZeros_does)
    | refine Does.ite ?_ ?_
    | refine Does.iteSnd ?_ ?_
    | split
    | (apply Does.step; on_goal 1 => first | apply Does.spi)
    | dsimp only

/-- What `State.readFrame` and its like may change. -/
def Parts.ofReadFrame : List Field :=
  [.row POS_LT_STAT, .one SPI_LATE, .one SPI_HERR, .one SPI_MW_STAT, .one MEM_MB_CNT, .row MEM_B_STAT, .row MEM_B_ECC,
    .row MEM_B_REPAIR, .one INT_DEG_CAUSE, .one MGT_LOG_STAT, .faults, .latched, .clk, .reel, .mgt, .can, .mem, .spi,
    .flashFlaws, .drawn, .cells]

theorem State.readFrame_does (s a step n take begun waits ev) : Does Parts.ofReadFrame s (State.readFrame s a step n take begun waits ev) := by
  unfold State.readFrame
  repeat' with_reducible first
    | assumption
    | decide
    | exact Does.refl _ _
    | (intro x; first | (have _h : State := x; clear _h; clear_value (hx : x = _); refine Does.bind (l := Parts.ofReadFrame) (s := s) hx ?_ (fun _ => ?_)) | clear_value x)
    | lift_lets
    | (apply Does.step; on_goal 1 => first | exact State.setWord_does _ SPI_LATE _ (by with_unfolding_all exact Field.has_one SPI_LATE) | apply State.illegalFrame_does | apply State.modFrame_does | apply State.readWords_does | apply State.giveWord_does | apply State.dropLate_does)
    | refine Does.ite ?_ ?_
    | refine Does.iteSnd ?_ ?_
    | dsimp only

theorem State.hostWrite_does (s a v x) : Does Parts.bus s (State.hostWrite s a v x) := by
  unfold State.hostWrite
  repeat' with_reducible first
    | assumption
    | decide
    | exact Does.refl _ _
    | (apply Does.step; on_goal 1 => first | apply State.hold_does | apply State.busWrite_does)
    | refine Does.ite ?_ ?_
    | refine Does.iteSnd ?_ ?_
    | dsimp only

theorem State.writeFrame_does (s a step n l ev) : Does Parts.bus s (State.writeFrame s a step n l ev) := by
  unfold State.writeFrame
  repeat' with_reducible first
    | assumption
    | decide
    | exact Does.refl _ _
    | (intro x; first | (have _h : State := x; clear _h; clear_value (hx : x = _); refine Does.bind (l := Parts.bus) (s := s) hx ?_ (fun _ => ?_)) | clear_value x)
    | lift_lets
    | (apply Does.step; on_goal 1 => first | apply State.illegalFrame_does | apply State.dropLate_does | apply State.modFrame_does | apply State.hostWrite_does)
    | refine State.each_does (fun s b => ?_) ?_
    | refine Does.ite ?_ ?_
    | refine Does.iteSnd ?_ ?_
    | dsimp only

theorem execNop_does (cmd s) : ∀ t, execNop cmd s = .next t → Does [.one SPI_STAT, .one SPI_HERR, .one SPI_MW_STAT, .one MGT_LOG_STAT, .faults, .reel, .intg, .mgt, .can, .spi, .chn, .drawn] s t := by
  unfold execNop
  refine whenPowered_does ?_
  repeat' with_reducible first
    | assumption
    | decide
    | exact Does.refl _ _
    | refine State.hostFrame_does (fun s => ?_) (by decide)
    | (apply Does.step; on_goal 1 => first | apply State.illegalFrame_does)
    | refine State.when_does (fun s => ?_) ?_
    | refine Does.ite ?_ ?_
    | refine Does.iteSnd ?_ ?_
    | dsimp only

theorem execStatus_does (addr n s) : ∀ t, execStatus addr n s = .next t → Does [.one SPI_STAT, .one SPI_HERR, .one SPI_MW_STAT, .one MGT_LOG_STAT, .faults, .reel, .intg, .mgt, .can, .spi, .chn, .drawn] s t := by
  unfold execStatus
  refine whenPowered_does ?_
  repeat' with_reducible first
    | assumption
    | decide
    | exact Does.refl _ _
    | (intro x; first | (have _h : State := x; clear _h; clear_value (hx : x = _); refine Does.bind (l := [.one SPI_STAT, .one SPI_HERR, .one SPI_MW_STAT, .one MGT_LOG_STAT, .faults, .reel, .intg, .mgt, .can, .spi, .chn, .drawn]) (s := s) hx ?_ (fun _ => ?_)) | clear_value x)
    | lift_lets
    | refine State.hostFrame_does (fun s => ?_) (by decide)
    | (apply Does.step; on_goal 1 => first | apply State.illegalFrame_does | apply State.giveWord_does | apply State.modFrame_does)
    | refine State.when_does (fun s => ?_) ?_
    | refine Does.ite ?_ ?_
    | refine Does.iteSnd ?_ ?_
    | dsimp only

theorem execWrite_does (addr n data ev s) : ∀ t, execWrite addr n data ev s = .next t → Does Parts.bus s t := by
  unfold execWrite
  refine whenPowered_does ?_
  repeat' with_reducible first
    | assumption
    | decide
    | exact Does.refl _ _
    | refine State.hostFrame_does (fun s => ?_) (by decide)
    | (apply Does.step; on_goal 1 => first | apply State.writeFrame_does)
    | refine State.when_does (fun s => ?_) ?_
    | refine Does.ite ?_ ?_
    | refine Does.iteSnd ?_ ?_
    | dsimp only

theorem execRead_does (addr n take begun waits ev s) : ∀ t, execRead addr n take begun waits ev s = .next t → Does Parts.read s t := by
  unfold execRead
  refine whenPowered_does ?_
  repeat' with_reducible first
    | assumption
    | decide
    | exact Does.refl _ _
    | refine State.hostFrame_does (fun s => ?_) (by decide)
    | (apply Does.step; on_goal 1 => first | apply State.readFrame_does)
    | refine State.when_does (fun s => ?_) ?_
    | refine Does.ite ?_ ?_
    | refine Does.iteSnd ?_ ?_
    | dsimp only

theorem execWriteFix_does (addr n data ev s) : ∀ t, execWriteFix addr n data ev s = .next t → Does Parts.bus s t := by
  unfold execWriteFix
  refine whenPowered_does ?_
  repeat' with_reducible first
    | assumption
    | decide
    | exact Does.refl _ _
    | refine State.hostFrame_does (fun s => ?_) (by decide)
    | (apply Does.step; on_goal 1 => first | apply State.writeFrame_does)
    | refine State.when_does (fun s => ?_) ?_
    | refine Does.ite ?_ ?_
    | refine Does.iteSnd ?_ ?_
    | dsimp only

theorem execReadFix_does (addr n take begun waits ev s) : ∀ t, execReadFix addr n take begun waits ev s = .next t → Does Parts.read s t := by
  unfold execReadFix
  refine whenPowered_does ?_
  repeat' with_reducible first
    | assumption
    | decide
    | exact Does.refl _ _
    | refine State.hostFrame_does (fun s => ?_) (by decide)
    | (apply Does.step; on_goal 1 => first | apply State.readFrame_does)
    | refine State.when_does (fun s => ?_) ?_
    | refine Does.ite ?_ ?_
    | refine Does.iteSnd ?_ ?_
    | dsimp only

theorem execHostFrameEnd_does (k s) : ∀ t, execHostFrameEnd k s = .next t → Does [.one SPI_STAT, .one SPI_HCNT, .one SPI_HERR, .one SPI_MW_STAT, .one MGT_LOG_STAT, .faults, .reel, .intg, .mgt, .can, .spi] s t := by
  unfold execHostFrameEnd
  refine whenPowered_does ?_
  repeat' with_reducible first
    | assumption
    | decide
    | exact Does.refl _ _
    | (intro x; first | (have _h : State := x; clear _h; clear_value (hx : x = _); refine Does.bind (l := [.one SPI_STAT, .one SPI_HCNT, .one SPI_HERR, .one SPI_MW_STAT, .one MGT_LOG_STAT, .faults, .reel, .intg, .mgt, .can, .spi]) (s := s) hx ?_ (fun _ => ?_)) | clear_value x)
    | lift_lets
    | (apply Does.step; on_goal 1 => first | apply State.waitedOut_does | apply State.frameClose_does)
    | refine State.when_does (fun s => ?_) ?_
    | refine Does.ite ?_ ?_
    | refine Does.iteSnd ?_ ?_
    | split
    | (apply Does.step; on_goal 1 => first | apply Does.spi)
    | dsimp only

theorem State.lateArrive_does (s a w) : Does [.one SPI_LATE, .one SPI_HERR, .one MGT_LOG_STAT, .faults, .reel, .mgt, .can, .spi] s (State.lateArrive s a w) := by
  unfold State.lateArrive
  repeat' with_reducible first
    | assumption
    | decide
    | exact Does.refl _ _
    | (intro x; first | (have _h : State := x; clear _h; clear_value (hx : x = _); refine Does.bind (l := [.one SPI_LATE, .one SPI_HERR, .one MGT_LOG_STAT, .faults, .reel, .mgt, .can, .spi]) (s := s) hx ?_ (fun _ => ?_)) | clear_value x)
    | lift_lets
    | (apply Does.step; on_goal 1 => first | apply State.placeLate_does)
    | refine Does.ite ?_ ?_
    | refine Does.iteSnd ?_ ?_
    | (apply Does.step; on_goal 1 => first | apply Does.spi)
    | dsimp only

theorem execLateArrival_does (s) : ∀ t, execLateArrival s = .next t → Does Parts.lateArrival s t := by
  unfold execLateArrival
  refine whenPowered_does ?_
  repeat' with_reducible first
    | assumption
    | decide
    | exact Does.refl _ _
    | (intro x; first | (have _h : State := x; clear _h; clear_value (hx : x = _); refine Does.bind (l := Parts.lateArrival) (s := s) hx ?_ (fun _ => ?_)) | (have _h : _ × State := x; clear _h; clear_value (hx : x = _); refine Does.bindSnd (l := Parts.lateArrival) (s := s) hx ?_ (fun _ => ?_)) | clear_value x)
    | lift_lets
    | (apply Does.step; on_goal 1 => first | apply State.lateArrive_does | apply State.busRead_does)
    | refine State.when_does (fun s => ?_) ?_
    | refine Does.ite ?_ ?_
    | refine Does.iteSnd ?_ ?_
    | split
    | refine Does.ofPair (by assumption) ?_
    | (apply Does.step; on_goal 1 => first | apply Does.spi)
    | dsimp only

theorem State.daisyRun_does (s cmd a v late x) : Does Parts.daisyFrame s (State.daisyRun s cmd a v late x) := by
  unfold State.daisyRun
  repeat' with_reducible first
    | assumption
    | decide
    | exact Does.refl _ _
    | (intro x; first | (have _h : State := x; clear _h; clear_value (hx : x = _); refine Does.bind (l := Parts.daisyFrame) (s := s) hx ?_ (fun _ => ?_)) | (have _h : _ × State := x; clear _h; clear_value (hx : x = _); refine Does.bindSnd (l := Parts.daisyFrame) (s := s) hx ?_ (fun _ => ?_)) | (have _h : _ → State → State := x; clear _h; clear_value (hx : x = _); refine Does.bindFun2' (l := Parts.daisyFrame) hx (fun b s => ?_) (fun hf => ?_)) | clear_value x)
    | lift_lets
    | (apply Does.trans; on_goal 2 => apply hf)
    | (apply Does.step; on_goal 1 => first | exact State.setWord_does _ SPI_LATE _ (by with_unfolding_all exact Field.has_one SPI_LATE) | apply State.illegalFrame_does | apply State.hostWrite_does | apply State.dropLate_does | apply State.busRead_does)
    | refine Does.ite ?_ ?_
    | refine Does.iteSnd ?_ ?_
    | split
    | refine Does.ofPair (by assumption) ?_
    | (apply Does.step; on_goal 1 => first | apply Does.spi)
    | dsimp only

theorem execDaisyFrame_does (cycles v late x s) : ∀ t, execDaisyFrame cycles v late x s = .next t → Does Parts.daisyFrame s t := by
  unfold execDaisyFrame
  refine whenPowered_does ?_
  repeat' with_reducible first
    | assumption
    | decide
    | exact Does.refl _ _
    | (intro x; first | (have _h : State := x; clear _h; clear_value (hx : x = _); refine Does.bind (l := Parts.daisyFrame) (s := s) hx ?_ (fun _ => ?_)) | clear_value x)
    | lift_lets
    | refine State.hostFrame_does (fun s => ?_) (by decide)
    | (apply Does.step; on_goal 1 => first | exact State.bump_does _ SPI_HERR.LATE _ (by with_unfolding_all exact Field.has_one SPI_HERR) | apply State.raise_does | apply State.frameClose_does | apply State.daisyRun_does)
    | refine State.when_does (fun s => ?_) ?_
    | refine Does.ite ?_ ?_
    | refine Does.iteSnd ?_ ?_
    | (apply Does.step; on_goal 1 => first | apply Does.spi)
    | dsimp only

theorem execBusyNRelease_does (s) : ∀ t, execBusyNRelease s = .next t → Does [.intg, .spi] s t := by
  unfold execBusyNRelease
  refine whenPowered_does ?_
  repeat' with_reducible first
    | assumption
    | decide
    | exact Does.refl _ _
    | (intro x; first | (have _h : State := x; clear _h; clear_value (hx : x = _); refine Does.bind (l := [.intg, .spi]) (s := s) hx ?_ (fun _ => ?_)) | clear_value x)
    | lift_lets
    | refine State.when_does (fun s => ?_) ?_
    | refine Does.ite ?_ ?_
    | refine Does.iteSnd ?_ ?_
    | (apply Does.step; on_goal 1 => first | apply Does.spi)
    | dsimp only

theorem execFlashWindowRead_does (o ecc s) : ∀ t, execFlashWindowRead o ecc s = .next t → Does [.one SPI_HERR, .one MGT_LOG_STAT, .faults, .reel, .intg, .mgt, .can, .spi, .flashFlaws, .drawn] s t := by
  unfold execFlashWindowRead
  refine hostAccess_does ?_
  repeat' with_reducible first
    | assumption
    | decide
    | exact Does.refl _ _
    | (intro x; first | (have _h : State := x; clear _h; clear_value (hx : x = _); refine Does.bind (l := [.one SPI_HERR, .one MGT_LOG_STAT, .faults, .reel, .intg, .mgt, .can, .spi, .flashFlaws, .drawn]) (s := s) hx ?_ (fun _ => ?_)) | (have _h : _ × State := x; clear _h; clear_value (hx : x = _); refine Does.bindSnd (l := [.one SPI_HERR, .one MGT_LOG_STAT, .faults, .reel, .intg, .mgt, .can, .spi, .flashFlaws, .drawn]) (s := s) hx ?_ (fun _ => ?_)) | clear_value x)
    | lift_lets
    | (apply Does.step; on_goal 1 => first | apply State.readLate_does | apply State.flashRead_does)
    | refine Does.ite ?_ ?_
    | refine Does.iteSnd ?_ ?_
    | (apply Does.step; on_goal 1 => first | apply Does.spi)
    | dsimp only

end Sys2Proof.Machine
end

