-- ==== Sys2Proof/Laws/CanMap.lean ====
section
/-!
SUPPORT. What each operation of Sys2Proof/Machine/CanMap.lean can do at most.
-/

-- One proof after the other: as one text the package would otherwise ask for more threads than there is memory for.
set_option Elab.async false
namespace Sys2Proof.Machine

theorem State.rxOverrun_does (s) : Does [.one CAN_IRQ, .one MGT_LOG_STAT, .faults, .reel, .mgt, .can] s (State.rxOverrun s) := by
  unfold State.rxOverrun
  repeat' with_reducible first
    | assumption
    | decide
    | exact Does.refl _ _
    | (apply Does.step; on_goal 1 => first | exact State.put_does _ CAN_IRQ.RXOVR _ (by with_unfolding_all exact Field.has_one CAN_IRQ) | apply State.raise_does)
    | dsimp only

theorem State.storeBuf_does (s n b) : Does [.one CAN_IRQ, .one CAN_RXNEW, .one CAN_RXOVR, .one CAN_CNT, .one MGT_LOG_STAT, .faults, .reel, .mgt, .can] s (State.storeBuf s n b) := by
  unfold State.storeBuf
  repeat' with_reducible first
    | assumption
    | decide
    | exact Does.refl _ _
    | (intro x; first | (have _h : State := x; clear _h; clear_value (hx : x = _); refine Does.bind (l := [.one CAN_IRQ, .one CAN_RXNEW, .one CAN_RXOVR, .one CAN_CNT, .one MGT_LOG_STAT, .faults, .reel, .mgt, .can]) (s := s) hx ?_ (fun _ => ?_)) | (have _h : Can := x; clear _h; clear_value (hx : x = _); subst hx) | clear_value x)
    | lift_lets
    | (apply Does.step; on_goal 1 => first | exact State.put_does _ CAN_IRQ.RXNEW _ (by with_unfolding_all exact Field.has_one CAN_IRQ) | exact State.setWord_does _ CAN_RXNEW _ (by with_unfolding_all exact Field.has_one CAN_RXNEW) | exact State.put_does _ CAN_IRQ.HPB _ (by with_unfolding_all exact Field.has_one CAN_IRQ) | exact State.bump_does _ CAN_CNT.RX _ (by with_unfolding_all exact Field.has_one CAN_CNT) | exact State.setWord_does _ CAN_RXOVR _ (by with_unfolding_all exact Field.has_one CAN_RXOVR) | apply State.rxOverrun_does)
    | refine State.when_does (fun s => ?_) ?_
    | (apply Does.step; on_goal 1 => first | (apply Does.can <;> first | rfl | exact id | simp))
    | dsimp only

theorem State.storeFifo_does (s b) : Does [.one CAN_IRQ, .one CAN_RXF, .one CAN_CNT, .one MGT_LOG_STAT, .faults, .reel, .mgt, .can] s (State.storeFifo s b) := by
  unfold State.storeFifo
  repeat' with_reducible first
    | assumption
    | decide
    | exact Does.refl _ _
    | (intro x; first | (have _h : State := x; clear _h; clear_value (hx : x = _); refine Does.bind (l := [.one CAN_IRQ, .one CAN_RXF, .one CAN_CNT, .one MGT_LOG_STAT, .faults, .reel, .mgt, .can]) (s := s) hx ?_ (fun _ => ?_)) | (have _h : Can := x; clear _h; clear_value (hx : x = _); subst hx) | clear_value x)
    | lift_lets
    | (apply Does.step; on_goal 1 => first | exact State.bump_does _ CAN_RXF.OVR _ (by with_unfolding_all exact Field.has_one CAN_RXF) | exact State.bump_does _ CAN_CNT.RX _ (by with_unfolding_all exact Field.has_one CAN_CNT) | exact State.put_does _ CAN_IRQ.FIFO _ (by with_unfolding_all exact Field.has_one CAN_IRQ) | exact State.put_does _ CAN_RXF.LEVEL _ (by with_unfolding_all exact Field.has_one CAN_RXF) | apply State.rxOverrun_does)
    | refine Does.ite ?_ ?_
    | refine Does.iteSnd ?_ ?_
    | (apply Does.step; on_goal 1 => first | (apply Does.can <;> first | rfl | exact id | simp))
    | dsimp only

theorem State.modStore_does (s m f) : Does [.can] s (State.modStore s m f) := by
  unfold State.modStore
  repeat' with_reducible first
    | assumption
    | decide
    | exact Does.refl _ _
    | (intro x; first | (have _h : State := x; clear _h; clear_value (hx : x = _); refine Does.bind (l := [.can]) (s := s) hx ?_ (fun _ => ?_)) | (have _h : Can := x; clear _h; clear_value (hx : x = _); subst hx) | clear_value x)
    | lift_lets
    | (apply Does.step; on_goal 1 => first | (apply Does.can <;> first | rfl | exact id | simp))
    | dsimp only

theorem State.rxCheck_does (s) : Does [.one CAN_IRQ, .one CAN_MAP_ERR, .one MGT_LOG_STAT, .faults, .reel, .mgt, .can] s (State.rxCheck s) := by
  unfold State.rxCheck
  repeat' with_reducible first
    | assumption
    | decide
    | exact Does.refl _ _
    | (apply Does.step; on_goal 1 => first | exact State.put_does _ CAN_IRQ.MAP _ (by with_unfolding_all exact Field.has_one CAN_IRQ) | exact State.bump_does _ CAN_MAP_ERR.CHECK _ (by with_unfolding_all exact Field.has_one CAN_MAP_ERR) | apply State.raise_does)
    | dsimp only

theorem State.writeRxReg_does (s m v) : Does Parts.bus s (State.writeRxReg s m v) := by
  unfold State.writeRxReg
  repeat' with_reducible first
    | assumption
    | decide
    | exact Does.refl _ _
    | (intro x; first | (have _h : State := x; clear _h; clear_value (hx : x = _); refine Does.bind (l := Parts.bus) (s := s) hx ?_ (fun _ => ?_)) | (have _h : _ × State := x; clear _h; clear_value (hx : x = _); refine Does.bindSnd (l := Parts.bus) (s := s) hx ?_ (fun _ => ?_)) | clear_value x)
    | lift_lets
    | (apply Does.step; on_goal 1 => first | exact State.bump_does _ CAN_MAP_ERR.STALE _ (by with_unfolding_all exact Field.has_one CAN_MAP_ERR) | refine State.apart_does (l := Parts.bus) (fun s => ?_) (by decide) | apply State.busWrite_does | apply State.mwFlush_does)
    | refine Does.ite ?_ ?_
    | refine Does.iteSnd ?_ ?_
    | dsimp only

theorem State.rxDatum_does (s m e l) : Does Parts.bus s (State.rxDatum s m e l) := by
  unfold State.rxDatum
  repeat' with_reducible first
    | assumption
    | decide
    | exact Does.refl _ _
    | (intro x; first | (have _h : State := x; clear _h; clear_value (hx : x = _); refine Does.bind (l := Parts.bus) (s := s) hx ?_ (fun _ => ?_)) | (have _h : Can := x; clear _h; clear_value (hx : x = _); subst hx) | clear_value x)
    | lift_lets
    | (apply Does.step; on_goal 1 => first | exact State.bump_does _ CAN_CNT.RX _ (by with_unfolding_all exact Field.has_one CAN_CNT) | exact State.put_does _ CAN_IRQ.MAP _ (by with_unfolding_all exact Field.has_one CAN_IRQ) | exact State.bump_does _ CAN_MAP_ERR.STALE _ (by with_unfolding_all exact Field.has_one CAN_MAP_ERR) | apply State.rxCheck_does | apply State.modStore_does | apply State.writeRxReg_does | apply State.raise_does)
    | refine Does.ite ?_ ?_
    | refine Does.iteSnd ?_ ?_
    | (apply Does.step; on_goal 1 => first | (apply Does.can <;> first | rfl | exact id | simp))
    | dsimp only

theorem State.answer_does (s st v) : Does [.can] s (State.answer s st v) := by
  unfold State.answer
  repeat' with_reducible first
    | assumption
    | decide
    | exact Does.refl _ _
    | (intro x; first | (have _h : State := x; clear _h; clear_value (hx : x = _); refine Does.bind (l := [.can]) (s := s) hx ?_ (fun _ => ?_)) | (have _h : Can := x; clear _h; clear_value (hx : x = _); subst hx) | clear_value x)
    | lift_lets
    | (apply Does.step; on_goal 1 => first | (apply Does.can <;> first | rfl | exact id | simp))
    | dsimp only

theorem State.answerOpen_does (s st) : Does [.can, .drawn] s (State.answerOpen s st) := by
  unfold State.answerOpen
  repeat' with_reducible first
    | assumption
    | decide
    | exact Does.refl _ _
    | (apply Does.step; on_goal 1 => first | apply State.answer_does | apply State.drawWord_does)
    | dsimp only

theorem State.serviceRequest_does (s l) : Does [.one CAN_IRQ, .one CAN_CNT, .one CAN_MAP_ERR, .one MGT_LOG_STAT, .faults, .reel, .mgt, .can, .drawn] s (State.serviceRequest s l) := by
  unfold State.serviceRequest
  repeat' with_reducible first
    | assumption
    | decide
    | exact Does.refl _ _
    | (intro x; first | (have _h : State := x; clear _h; clear_value (hx : x = _); refine Does.bind (l := [.one CAN_IRQ, .one CAN_CNT, .one CAN_MAP_ERR, .one MGT_LOG_STAT, .faults, .reel, .mgt, .can, .drawn]) (s := s) hx ?_ (fun _ => ?_)) | (have _h : Can := x; clear _h; clear_value (hx : x = _); subst hx) | clear_value x)
    | lift_lets
    | (apply Does.step; on_goal 1 => first | exact State.bump_does _ CAN_CNT.RX _ (by with_unfolding_all exact Field.has_one CAN_CNT) | apply State.rxCheck_does | apply State.answerOpen_does)
    | refine Does.ite ?_ ?_
    | refine Does.iteSnd ?_ ?_
    | (apply Does.step; on_goal 1 => first | (apply Does.can <;> first | rfl | exact id | simp))
    | dsimp only

theorem State.svcRead_does (s a) : Does Parts.ofBusRead s (State.svcRead s a) := by
  unfold State.svcRead
  repeat' with_reducible first
    | assumption
    | decide
    | exact Does.refl _ _
    | (intro x; first | (have _h : State := x; clear _h; clear_value (hx : x = _); refine Does.bind (l := Parts.ofBusRead) (s := s) hx ?_ (fun _ => ?_)) | (have _h : _ × State := x; clear _h; clear_value (hx : x = _); refine Does.bindSnd (l := Parts.ofBusRead) (s := s) hx ?_ (fun _ => ?_)) | clear_value x)
    | lift_lets
    | (apply Does.step; on_goal 1 => first | apply State.answerOpen_does | apply State.busRead_does | apply State.answer_does)
    | refine Does.ite ?_ ?_
    | refine Does.iteSnd ?_ ?_
    | split
    | refine Does.ofPair (by assumption) ?_
    | (apply Does.step; on_goal 1 => first | apply Does.spi)
    | dsimp only

theorem State.svcWrite_does (s en a v) : Does Parts.bus s (State.svcWrite s en a v) := by
  unfold State.svcWrite
  repeat' with_reducible first
    | assumption
    | decide
    | exact Does.refl _ _
    | (intro x; first | (have _h : State := x; clear _h; clear_value (hx : x = _); refine Does.bind (l := Parts.bus) (s := s) hx ?_ (fun _ => ?_)) | (have _h : _ × State := x; clear _h; clear_value (hx : x = _); refine Does.bindSnd (l := Parts.bus) (s := s) hx ?_ (fun _ => ?_)) | clear_value x)
    | lift_lets
    | (apply Does.step; on_goal 1 => first | apply State.answerOpen_does | refine State.apart_does (l := Parts.bus) (fun s => ?_) (by decide) | apply State.busWrite_does | apply State.answer_does | apply State.mwFlush_does)
    | refine Does.ite ?_ ?_
    | refine Does.iteSnd ?_ ?_
    | dsimp only

theorem State.svcLogRead_does (s a v) : Does [.can, .drawn] s (State.svcLogRead s a v) := by
  unfold State.svcLogRead
  repeat' with_reducible first
    | assumption
    | decide
    | exact Does.refl _ _
    | (apply Does.step; on_goal 1 => first | apply State.answerOpen_does | apply State.answer_does)
    | refine Does.ite ?_ ?_
    | refine Does.iteSnd ?_ ?_
    | dsimp only

theorem State.svcUpdWrite_does (s en a v) : Does [.one MGT_UPD_STAT, .mgt, .can, .drawn] s (State.svcUpdWrite s en a v) := by
  unfold State.svcUpdWrite
  repeat' with_reducible first
    | assumption
    | decide
    | exact Does.refl _ _
    | (intro x; first | (have _h : State := x; clear _h; clear_value (hx : x = _); refine Does.bind (l := [.one MGT_UPD_STAT, .mgt, .can, .drawn]) (s := s) hx ?_ (fun _ => ?_)) | (have _h : _ × State := x; clear _h; clear_value (hx : x = _); refine Does.bindSnd (l := [.one MGT_UPD_STAT, .mgt, .can, .drawn]) (s := s) hx ?_ (fun _ => ?_)) | clear_value x)
    | lift_lets
    | (apply Does.step; on_goal 1 => first | apply State.answerOpen_does | apply State.updWriteAt_does | apply State.answer_does)
    | refine Does.ite ?_ ?_
    | refine Does.iteSnd ?_ ?_
    | dsimp only

theorem State.svcUpdCmd_does (s en v) : Does [.one REEL_SLOT_A, .one REEL_SLOT_B, .one MGT_FW, .one MGT_FW_SLOT_A, .one MGT_FW_SLOT_B, .one MGT_UPD_CTRL, .one MGT_UPD_STAT, .one MGT_UPD_ADDR, .one MGT_LOG_STAT, .faults, .sys, .reel, .mgt, .can, .spi, .flash, .drawn] s (State.svcUpdCmd s en v) := by
  unfold State.svcUpdCmd
  repeat' with_reducible first
    | assumption
    | decide
    | exact Does.refl _ _
    | (intro x; first | (have _h : State := x; clear _h; clear_value (hx : x = _); refine Does.bind (l := [.one REEL_SLOT_A, .one REEL_SLOT_B, .one MGT_FW, .one MGT_FW_SLOT_A, .one MGT_FW_SLOT_B, .one MGT_UPD_CTRL, .one MGT_UPD_STAT, .one MGT_UPD_ADDR, .one MGT_LOG_STAT, .faults, .sys, .reel, .mgt, .can, .spi, .flash, .drawn]) (s := s) hx ?_ (fun _ => ?_)) | (have _h : _ × State := x; clear _h; clear_value (hx : x = _); refine Does.bindSnd (l := [.one REEL_SLOT_A, .one REEL_SLOT_B, .one MGT_FW, .one MGT_FW_SLOT_A, .one MGT_FW_SLOT_B, .one MGT_UPD_CTRL, .one MGT_UPD_STAT, .one MGT_UPD_ADDR, .one MGT_LOG_STAT, .faults, .sys, .reel, .mgt, .can, .spi, .flash, .drawn]) (s := s) hx ?_ (fun _ => ?_)) | clear_value x)
    | lift_lets
    | (apply Does.step; on_goal 1 => first | apply State.answerOpen_does | refine State.apart_does (l := [.one REEL_SLOT_A, .one REEL_SLOT_B, .one MGT_FW, .one MGT_FW_SLOT_A, .one MGT_FW_SLOT_B, .one MGT_UPD_CTRL, .one MGT_UPD_STAT, .one MGT_UPD_ADDR, .one MGT_LOG_STAT, .faults, .sys, .reel, .mgt, .can, .spi, .flash, .drawn]) (fun s => ?_) (by decide) | apply State.updCtrl_does | apply State.answer_does)
    | refine Does.ite ?_ ?_
    | refine Does.iteSnd ?_ ?_
    | dsimp only

theorem State.svcDo_does (s op en a v) : Does Parts.daisyFrame s (State.svcDo s op en a v) := by
  unfold State.svcDo
  repeat' with_reducible first
    | assumption
    | decide
    | exact Does.refl _ _
    | (apply Does.step; on_goal 1 => first | apply State.svcRead_does | apply State.svcWrite_does | apply State.svcLogRead_does | apply State.svcUpdWrite_does | apply State.svcUpdCmd_does)
    | split
    | dsimp only

theorem State.serve_does (s op) : Does Parts.daisyFrame s (State.serve s op) := by
  unfold State.serve
  split
  · refine Does.ite (Does.refl _ _) (Does.ite ?_ ?_)
    · exact Does.weaken (Does.can s _ rfl rfl id) rfl
    · exact Does.weaken (State.svcDo_does ..) rfl
  · exact Does.refl _ _

theorem State.serveHeld_does (s) : Does Parts.daisyFrame s (State.serveHeld s) := by
  unfold State.serveHeld
  repeat' with_reducible first
    | assumption
    | decide
    | exact Does.refl _ _
    | (apply Does.step; on_goal 1 => first | apply State.serve_does)
    | split
    | dsimp only

theorem State.recDown_does (s) : Does [.one CAN_ERR, .drawn] s (State.recDown s) := by
  unfold State.recDown
  repeat' with_reducible first
    | assumption
    | decide
    | exact Does.refl _ _
    | (intro x; first | (have _h : State := x; clear _h; clear_value (hx : x = _); refine Does.bind (l := [.one CAN_ERR, .drawn]) (s := s) hx ?_ (fun _ => ?_)) | (have _h : _ × State := x; clear _h; clear_value (hx : x = _); refine Does.bindSnd (l := [.one CAN_ERR, .drawn]) (s := s) hx ?_ (fun _ => ?_)) | clear_value x)
    | lift_lets
    | (apply Does.step; on_goal 1 => first | exact State.put_does _ CAN_ERR.REC _ (by with_unfolding_all exact Field.has_one CAN_ERR) | apply State.draw_does)
    | refine Does.ite ?_ ?_
    | refine Does.iteSnd ?_ ?_
    | dsimp only

theorem State.reach_does (s f flt dest stamp) : Does Parts.bus s (State.reach s f flt dest stamp) := by
  unfold State.reach
  repeat' with_reducible first
    | assumption
    | decide
    | exact Does.refl _ _
    | (intro x; first | (have _h : State := x; clear _h; clear_value (hx : x = _); refine Does.bind (l := Parts.bus) (s := s) hx ?_ (fun _ => ?_)) | clear_value x)
    | lift_lets
    | (apply Does.step; on_goal 1 => first | apply State.storeBuf_does | apply State.storeFifo_does | apply State.serviceRequest_does | apply State.rxDatum_does)
    | refine State.each_does (fun s b => ?_) ?_
    | refine Does.ite ?_ ?_
    | refine Does.iteSnd ?_ ?_
    | dsimp only

theorem execCanRxFrame_does (f back s) : ∀ t, execCanRxFrame f back s = .next t → Does Parts.bus s t := by
  unfold execCanRxFrame
  refine whenPowered_does ?_
  repeat' with_reducible first
    | assumption
    | decide
    | exact Does.refl _ _
    | (intro x; first | (have _h : State := x; clear _h; clear_value (hx : x = _); refine Does.bind (l := Parts.bus) (s := s) hx ?_ (fun _ => ?_)) | (have _h : _ × State := x; clear _h; clear_value (hx : x = _); refine Does.bindSnd (l := Parts.bus) (s := s) hx ?_ (fun _ => ?_)) | (have _h : Can := x; clear _h; clear_value (hx : x = _); subst hx) | clear_value x)
    | lift_lets
    | (apply Does.step; on_goal 1 => first | exact State.bump_does _ CAN_DROP.UNMATCHED _ (by with_unfolding_all exact Field.has_one CAN_DROP) | apply State.canJudge_does | apply State.recDown_does | apply State.notAlone_does | apply State.draw_does | apply State.storeFifo_does | apply State.reach_does)
    | refine State.when_does (fun s => ?_) ?_
    | refine State.each_does (fun s b => ?_) ?_
    | refine Does.ite ?_ ?_
    | refine Does.iteSnd ?_ ?_
    | split
    | (apply Does.step; on_goal 1 => first | (apply Does.can <;> first | rfl | exact id | simp))
    | dsimp only

theorem execRxMapTimeout_does (m s) : ∀ t, execRxMapTimeout m s = .next t → Does [.row AX_CTRL, .one CAN_IRQ, .one MGT_LOG_STAT, .faults, .reel, .intg, .mgt, .can] s t := by
  unfold execRxMapTimeout
  refine whenPowered_does ?_
  repeat' with_reducible first
    | assumption
    | decide
    | exact Does.refl _ _
    | (intro x; first | (have _h : State := x; clear _h; clear_value (hx : x = _); refine Does.bind (l := [.row AX_CTRL, .one CAN_IRQ, .one MGT_LOG_STAT, .faults, .reel, .intg, .mgt, .can]) (s := s) hx ?_ (fun _ => ?_)) | clear_value x)
    | lift_lets
    | (apply Does.step; on_goal 1 => first | exact State.put_does _ CAN_IRQ.MAP _ (by with_unfolding_all exact Field.has_one CAN_IRQ) | exact State.put_does _ (AX_CTRL.HALT _) _ (by with_unfolding_all exact Field.has_row AX_CTRL (fun _ => rfl) _) | apply State.raise_does | apply State.modStore_does)
    | refine State.when_does (fun s => ?_) ?_
    | refine Does.ite ?_ ?_
    | refine Does.iteSnd ?_ ?_
    | dsimp only

theorem execServiceRequest_does (l s) : ∀ t, execServiceRequest l s = .next t → Does [.one CAN_IRQ, .one CAN_CNT, .one CAN_MAP_ERR, .one MGT_LOG_STAT, .faults, .reel, .intg, .mgt, .can, .drawn] s t := by
  unfold execServiceRequest
  refine whenPowered_does ?_
  repeat' with_reducible first
    | assumption
    | decide
    | exact Does.refl _ _
    | (apply Does.step; on_goal 1 => first | apply State.serviceRequest_does)
    | refine State.when_does (fun s => ?_) ?_
    | refine Does.ite ?_ ?_
    | refine Does.iteSnd ?_ ?_
    | dsimp only

theorem execSvcRead_does (s) : ∀ t, execSvcRead s = .next t → Does Parts.daisyFrame s t := by
  unfold execSvcRead
  refine whenPowered_does ?_
  repeat' with_reducible first
    | assumption
    | decide
    | exact Does.refl _ _
    | (apply Does.step; on_goal 1 => first | apply State.serve_does)
    | refine State.when_does (fun s => ?_) ?_
    | dsimp only

theorem execSvcWrite_does (s) : ∀ t, execSvcWrite s = .next t → Does Parts.daisyFrame s t := by
  unfold execSvcWrite
  refine whenPowered_does ?_
  repeat' with_reducible first
    | assumption
    | decide
    | exact Does.refl _ _
    | (apply Does.step; on_goal 1 => first | apply State.serve_does)
    | refine State.when_does (fun s => ?_) ?_
    | dsimp only

theorem execLogRead_does (s) : ∀ t, execLogRead s = .next t → Does Parts.daisyFrame s t := by
  unfold execLogRead
  refine whenPowered_does ?_
  repeat' with_reducible first
    | assumption
    | decide
    | exact Does.refl _ _
    | (apply Does.step; on_goal 1 => first | apply State.serve_does)
    | refine State.when_does (fun s => ?_) ?_
    | dsimp only

theorem execUpdWrite_does (s) : ∀ t, execUpdWrite s = .next t → Does Parts.daisyFrame s t := by
  unfold execUpdWrite
  refine whenPowered_does ?_
  repeat' with_reducible first
    | assumption
    | decide
    | exact Does.refl _ _
    | (apply Does.step; on_goal 1 => first | apply State.serve_does)
    | refine State.when_does (fun s => ?_) ?_
    | dsimp only

theorem execUpdCmd_does (s) : ∀ t, execUpdCmd s = .next t → Does Parts.daisyFrame s t := by
  unfold execUpdCmd
  refine whenPowered_does ?_
  repeat' with_reducible first
    | assumption
    | decide
    | exact Does.refl _ _
    | (apply Does.step; on_goal 1 => first | apply State.serve_does)
    | refine State.when_does (fun s => ?_) ?_
    | dsimp only

theorem execServiceResponse_does (s) : ∀ t, execServiceResponse s = .next t → Does [.one CAN_TXSTAT, .intg, .can] s t := by
  unfold execServiceResponse
  refine whenPowered_does ?_
  split
  · split
    · exact Does.step (State.setTbSt_does ..) rfl
        (Does.step (State.modTb_does ..) rfl (Does.weaken (Does.can s _ rfl rfl id) rfl))
    · exact Does.refl _ _
  · exact Does.refl _ _

theorem execMcRestart_does (s) : ∀ t, execMcRestart s = .next t → Does Parts.daisyFrame s t := by
  unfold execMcRestart
  refine whenPowered_does ?_
  repeat' with_reducible first
    | assumption
    | decide
    | exact Does.refl _ _
    | (apply Does.step; on_goal 1 => first | apply State.serveHeld_does | apply State.frameResume_does | apply State.mcRestart_does)
    | refine State.when_does (fun s => ?_) ?_
    | dsimp only

theorem State.targetCut_does (s m e) : Does [.engs, .can] s (State.targetCut s m e) := by
  unfold State.targetCut
  repeat' with_reducible first
    | assumption
    | decide
    | exact Does.refl _ _
    | (intro x; first | (have _h : State := x; clear _h; clear_value (hx : x = _); refine Does.bind (l := [.engs, .can]) (s := s) hx ?_ (fun _ => ?_)) | (have _h : _ → State → State := x; clear _h; clear_value (hx : x = _); refine Does.bindFun2' (l := [.engs, .can]) hx (fun b s => ?_) (fun hf => ?_)) | clear_value x)
    | lift_lets
    | (apply Does.trans; on_goal 2 => apply hf)
    | (apply Does.step; on_goal 1 => first | apply State.giveInput_does | apply State.modStore_does)
    | refine State.when_does (fun s => ?_) ?_
    | refine Does.ite ?_ ?_
    | refine Does.iteSnd ?_ ?_
    | split
    | dsimp only

theorem State.txStatus_does (s m e lists) : Does [.one CAN_TXSTAT, .one CAN_DROP, .one MGT_LOG_STAT, .faults, .reel, .mgt, .can] s (State.txStatus s m e lists) := by
  unfold State.txStatus
  repeat' with_reducible first
    | assumption
    | decide
    | exact Does.refl _ _
    | (apply Does.step; on_goal 1 => first | exact State.bump_does _ CAN_DROP.TX _ (by with_unfolding_all exact Field.has_one CAN_DROP) | apply State.mapMessage_does | apply State.raise_does)
    | refine Does.ite ?_ ?_
    | refine Does.iteSnd ?_ ?_
    | split
    | dsimp only

theorem State.txFault_does (s m e) : Does [.one CAN_TXSTAT, .one CAN_DROP, .one MGT_LOG_STAT, .faults, .reel, .mgt, .can] s (State.txFault s m e) := by
  unfold State.txFault
  repeat' with_reducible first
    | assumption
    | decide
    | exact Does.refl _ _
    | (intro x; first | (have _h : State := x; clear _h; clear_value (hx : x = _); refine Does.bind (l := [.one CAN_TXSTAT, .one CAN_DROP, .one MGT_LOG_STAT, .faults, .reel, .mgt, .can]) (s := s) hx ?_ (fun _ => ?_)) | (have _h : Can := x; clear _h; clear_value (hx : x = _); subst hx) | clear_value x)
    | lift_lets
    | (apply Does.step; on_goal 1 => first | apply State.mapMessage_does)
    | refine Does.ite ?_ ?_
    | refine Does.iteSnd ?_ ?_
    | (apply Does.step; on_goal 1 => first | (apply Does.can <;> first | rfl | exact id | simp))
    | dsimp only

theorem State.mapCut_does (s lists) : Does [.one CAN_TXSTAT, .one CAN_DROP, .one MGT_LOG_STAT, .faults, .reel, .engs, .intg, .mgt, .can] s (State.mapCut s lists) := by
  unfold State.mapCut
  repeat' with_reducible first
    | assumption
    | decide
    | exact Does.refl _ _
    | (intro x; first | (have _h : State := x; clear _h; clear_value (hx : x = _); refine Does.bind (l := [.one CAN_TXSTAT, .one CAN_DROP, .one MGT_LOG_STAT, .faults, .reel, .engs, .intg, .mgt, .can]) (s := s) hx ?_ (fun _ => ?_)) | clear_value x)
    | lift_lets
    | (apply Does.step; on_goal 1 => first | apply State.modStore_does | apply State.targetCut_does | apply State.txStatus_does | apply State.txFault_does)
    | refine State.each_does (fun s b => ?_) ?_
    | refine Does.ite ?_ ?_
    | refine Does.iteSnd ?_ ?_
    | split
    | (apply Does.step; on_goal 1 => first | apply Does.intg)
    | dsimp only

theorem State.releaseHeld_does (s) : Does Parts.daisyFrame s (State.releaseHeld s) := by
  unfold State.releaseHeld
  repeat' with_reducible first
    | assumption
    | decide
    | exact Does.refl _ _
    | (intro x; first | (have _h : State := x; clear _h; clear_value (hx : x = _); refine Does.bind (l := Parts.daisyFrame) (s := s) hx ?_ (fun _ => ?_)) | (have _h : _ × State := x; clear _h; clear_value (hx : x = _); refine Does.bindSnd (l := Parts.daisyFrame) (s := s) hx ?_ (fun _ => ?_)) | (have _h : Can := x; clear _h; clear_value (hx : x = _); subst hx) | clear_value x)
    | lift_lets
    | (apply Does.step; on_goal 1 => first | apply State.busWrite_does | apply State.busRead_does | apply State.readLate_does | apply State.mwFlush_does | apply State.frameResume_does | apply State.writeRxReg_does | apply State.serveHeld_does)
    | refine State.each_does (fun s b => ?_) ?_
    | split
    | refine Does.ofPair (by assumption) ?_
    | (apply Does.step; on_goal 1 => first | (apply Does.can <;> first | rfl | exact id | simp) | apply Does.spi)
    | with_unfolding_all exact Does.ofOnly (by rintro ⟨⟩ hk <;> first | rfl | trivial | exact absurd (by decide) hk) (fun _ _ => rfl) (fun h => { h with })
    | (refine Does.trans (by assumption) ?_; with_unfolding_all exact Does.ofOnly (by rintro ⟨⟩ hk <;> first | rfl | trivial | exact absurd (by decide) hk) (fun _ _ => rfl) (fun h => { h with }))
    | dsimp only

end Sys2Proof.Machine
end

