-- ==== Sys2Proof/Laws/Reel.lean ====
section
/-!
SUPPORT. What each operation of Sys2Proof/Machine/Reel.lean can do at most.
-/

-- One proof after the other: as one text the package would otherwise ask for more threads than there is memory for.
set_option Elab.async false
namespace Sys2Proof.Machine

theorem State.applied_does (s a old) : Does [.one POS_LIM, .row POS_QD_STAT, .row POS_SN_COUNT, .row POS_SN_STAT, .row POS_EE_COUNT, .row POS_EE_STAT, .row ADC_CH_CNT, .one INT_DEG_CAUSE, .one MGT_LOG_STAT, .one CHN_STAT, .faults, .reel, .mgt, .can, .adc, .pos, .chn] s (State.applied s a old) := by
  unfold State.applied
  repeat' with_reducible first
    | assumption
    | decide
    | exact Does.refl _ _
    | (apply Does.step; on_goal 1 => first | apply State.canApplied_does | apply State.chnApplied_does | apply State.adcApplied_does | apply State.posApplied_does)
    | dsimp only

theorem State.disableNow_does (s a) : Does [.regs, .reel, .mgt, .can, .adc, .pos, .chn] s (State.disableNow s a) := by
  unfold State.disableNow
  repeat' with_reducible first
    | assumption
    | decide
    | exact Does.refl _ _
    | (intro x; first | (have _h : State := x; clear _h; clear_value (hx : x = _); refine Does.bind (l := [.regs, .reel, .mgt, .can, .adc, .pos, .chn]) (s := s) hx ?_ (fun _ => ?_)) | clear_value x)
    | lift_lets
    | (apply Does.step; on_goal 1 => first | exact State.setWord_does (x := .regs) _ _ _ (by with_unfolding_all exact trivial) | apply State.applied_does)
    | refine Does.ite ?_ ?_
    | refine Does.iteSnd ?_ ?_
    | split
    | dsimp only

theorem State.disableAll_does (s) : Does [.regs, .reel, .mgt, .can, .adc, .pos, .chn] s (State.disableAll s) := by
  unfold State.disableAll
  repeat' with_reducible first
    | assumption
    | decide
    | exact Does.refl _ _
    | (apply Does.step; on_goal 1 => first | apply State.disableNow_does)
    | refine State.each_does (fun s b => ?_) ?_
    | dsimp only

theorem State.heldBack_does (s a) : Does [.can] s (State.heldBack s a) := by
  unfold State.heldBack
  repeat' with_reducible first
    | assumption
    | decide
    | exact Does.refl _ _
    | (intro x; first | (have _h : State := x; clear _h; clear_value (hx : x = _); refine Does.bind (l := [.can]) (s := s) hx ?_ (fun _ => ?_)) | (have _h : Can := x; clear _h; clear_value (hx : x = _); subst hx) | clear_value x)
    | lift_lets
    | refine Does.ite ?_ ?_
    | refine Does.iteSnd ?_ ?_
    | (apply Does.step; on_goal 1 => first | (apply Does.can <;> first | rfl | exact id | simp))
    | dsimp only

theorem State.takeWaiting_does (s a) : Does [.regs, .waiting, .reel, .mgt, .can, .adc, .pos, .chn] s (State.takeWaiting s a) := by
  unfold State.takeWaiting
  repeat' with_reducible first
    | assumption
    | decide
    | exact Does.refl _ _
    | (intro x; first | (have _h : State := x; clear _h; clear_value (hx : x = _); refine Does.bind (l := [.regs, .waiting, .reel, .mgt, .can, .adc, .pos, .chn]) (s := s) hx ?_ (fun _ => ?_)) | clear_value x)
    | lift_lets
    | (apply Does.step; on_goal 1 => first | exact State.setWord_does (x := .regs) _ _ _ (by with_unfolding_all exact trivial) | apply State.heldBack_does | apply State.applyWaits_does | apply State.applied_does)
    | refine Does.ite ?_ ?_
    | refine Does.iteSnd ?_ ?_
    | split
    | (apply Does.step; on_goal 1 => first | apply Does.waiting)
    | dsimp only

theorem State.takeAllWaiting_does (s) : Does [.regs, .waiting, .reel, .mgt, .can, .adc, .pos, .chn] s (State.takeAllWaiting s) := by
  unfold State.takeAllWaiting
  repeat' with_reducible first
    | assumption
    | decide
    | exact Does.refl _ _
    | (apply Does.step; on_goal 1 => first | apply State.takeWaiting_does)
    | refine State.each_does (fun s b => ?_) ?_
    | dsimp only

theorem State.spliceCtrl_does (s n v) : Does [.row AX_CTRL, .spi] s (State.spliceCtrl s n v) := by
  unfold State.spliceCtrl
  repeat' with_reducible first
    | assumption
    | decide
    | exact Does.refl _ _
    | (apply Does.step; on_goal 1 => first | exact State.setWord_does _ (AX_CTRL _) _ (by with_unfolding_all exact Field.has_row AX_CTRL (fun _ => rfl) _) | apply State.refuse_does)
    | refine Does.ite ?_ ?_
    | refine Does.iteSnd ?_ ?_
    | dsimp only

theorem State.pairWrite_does (s splice a v) : Does Parts.bus s (State.pairWrite s splice a v) := by
  unfold State.pairWrite
  repeat' with_reducible first
    | assumption
    | decide
    | exact Does.refl _ _
    | (apply Does.step; on_goal 1 => first | apply State.spliceCtrl_does | apply State.busWrite_does)
    | split
    | dsimp only

theorem State.loadPair_does (s splice a v) : Does Parts.bus s (State.loadPair s splice a v).2 := by
  unfold State.loadPair
  repeat' with_reducible first
    | assumption
    | decide
    | exact Does.refl _ _
    | (intro x; first | (have _h : State := x; clear _h; clear_value (hx : x = _); refine Does.bind (l := Parts.bus) (s := s) hx ?_ (fun _ => ?_)) | (have _h : _ × State := x; clear _h; clear_value (hx : x = _); refine Does.bindSnd (l := Parts.bus) (s := s) hx ?_ (fun _ => ?_)) | clear_value x)
    | lift_lets
    | (apply Does.step; on_goal 1 => first | refine State.apart_does (l := Parts.bus) (fun s => ?_) (by decide) | apply State.pairWrite_does | apply State.takeWaiting_does)
    | refine Does.ite ?_ ?_
    | refine Does.iteSnd ?_ ?_
    | split
    | (apply Does.step; on_goal 1 => first | apply Does.waiting)
    | dsimp only

theorem State.loadPairs_does (s splice a1) : Does Parts.bus s (State.loadPairs s splice a1).2.2 := by
  induction a1 generalizing s with
  | nil => exact Does.refl _ _
  | cons w t ih =>
    unfold State.loadPairs
    repeat' with_reducible first
      | assumption
      | decide
      | exact Does.refl _ _
      | (intro x; first | (have _h : State := x; clear _h; clear_value (hx : x = _); refine Does.bind (l := Parts.bus) (s := s) hx ?_ (fun _ => ?_)) | (have _h : _ × State := x; clear _h; clear_value (hx : x = _); refine Does.bindSnd (l := Parts.bus) (s := s) hx ?_ (fun _ => ?_)) | clear_value x)
      | (apply Does.trans; on_goal 2 => apply ih)
      | lift_lets
      | (apply Does.step; on_goal 1 => first | apply State.loadPair_does | apply State.raise_does)
      | refine Does.ite ?_ ?_
      | refine Does.iteSnd ?_ ?_
      | split
      | dsimp only

theorem State.loadParams_does (s splice n l) : Does Parts.bus s (State.loadParams s splice n l).2.2 := by
  unfold State.loadParams
  repeat' with_reducible first
    | assumption
    | decide
    | exact Does.refl _ _
    | (intro x; first | (have _h : State := x; clear _h; clear_value (hx : x = _); refine Does.bind (l := Parts.bus) (s := s) hx ?_ (fun _ => ?_)) | (have _h : _ × _ × State := x; clear _h; clear_value (hx : x = _); refine Does.bindThird (l := Parts.bus) (s := s) hx ?_ (fun _ => ?_)) | clear_value x)
    | lift_lets
    | (apply Does.step; on_goal 1 => first | exact State.setWord_does (x := .regs) _ _ _ (by with_unfolding_all exact trivial) | exact State.setWord_does _ (AX_CTRL _) _ (by with_unfolding_all exact Field.has_row AX_CTRL (fun _ => rfl) _) | exact State.put_does (x := .regs) _ _ _ (by with_unfolding_all exact trivial) | apply State.markParam_does | apply State.loadPairs_does)
    | refine State.when_does (fun s => ?_) ?_
    | refine State.each_does (fun s b => ?_) ?_
    | refine Does.ite ?_ ?_
    | refine Does.iteSnd ?_ ?_
    | dsimp only

theorem State.loadAxes_does (s splice l) : Does Parts.bus s (State.loadAxes s splice l).2.2 := by
  induction l generalizing s with
  | nil => exact Does.refl _ _
  | cons n t ih => exact Does.trans (State.loadParams_does ..) (ih _)

theorem State.loadRegs_does (s splice) : Does Parts.bus s (State.loadRegs s splice).2 := by
  unfold State.loadRegs
  repeat' with_reducible first
    | assumption
    | decide
    | exact Does.refl _ _
    | (intro x; first | (have _h : State := x; clear _h; clear_value (hx : x = _); refine Does.bind (l := Parts.bus) (s := s) hx ?_ (fun _ => ?_)) | (have _h : _ × _ × State := x; clear _h; clear_value (hx : x = _); refine Does.bindThird (l := Parts.bus) (s := s) hx ?_ (fun _ => ?_)) | clear_value x)
    | lift_lets
    | (apply Does.step; on_goal 1 => first | apply State.loadAxes_does | apply State.loadPairs_does | apply State.arm_does)
    | refine State.each_does (fun s b => ?_) ?_
    | dsimp only

theorem State.showTake_does (s) : Does [.one REEL_STAT, .one REEL_STRUCT_SIG, .one REEL_STATE_SIG, .one REEL_LEN, .row ENG_E_LIST, .row ENG_E_FETCH_CHK, .row CAM_AX_SET] s (State.showTake s) := by
  unfold State.showTake
  repeat' with_reducible first
    | assumption
    | decide
    | exact Does.refl _ _
    | (intro x; first | (have _h : State := x; clear _h; clear_value (hx : x = _); refine Does.bind (l := [.one REEL_STAT, .one REEL_STRUCT_SIG, .one REEL_STATE_SIG, .one REEL_LEN, .row ENG_E_LIST, .row ENG_E_FETCH_CHK, .row CAM_AX_SET]) (s := s) hx ?_ (fun _ => ?_)) | (have _h : State → _ → _ → State := x; clear _h; clear_value (hx : x = _); refine Does.bindFun3 (l := [.one REEL_STAT, .one REEL_STRUCT_SIG, .one REEL_STATE_SIG, .one REEL_LEN, .row ENG_E_LIST, .row ENG_E_FETCH_CHK, .row CAM_AX_SET]) hx (fun s a b => ?_) (fun hf => ?_)) | clear_value x)
    | lift_lets
    | (apply Does.trans; on_goal 2 => apply hf)
    | (apply Does.step; on_goal 1 => first | exact State.setWord_does _ REEL_STATE_SIG _ (by with_unfolding_all exact Field.has_one REEL_STATE_SIG) | exact State.setWord_does _ REEL_STRUCT_SIG _ (by with_unfolding_all exact Field.has_one REEL_STRUCT_SIG) | exact State.put_does _ REEL_LEN.FRAME_LEN _ (by with_unfolding_all exact Field.has_one REEL_LEN) | exact State.put_does _ REEL_LEN.MIN_LEN _ (by with_unfolding_all exact Field.has_one REEL_LEN) | exact State.put_does _ REEL_STAT.ACTIVE_TAKE _ (by with_unfolding_all exact Field.has_one REEL_STAT) | exact State.setWord_does _ (ENG_E_FETCH_CHK _) _ (by with_unfolding_all exact Field.has_row ENG_E_FETCH_CHK (fun _ => rfl) _) | exact State.setWord_does _ (ENG_E_LIST _) _ (by with_unfolding_all exact Field.has_row ENG_E_LIST (fun _ => rfl) _) | exact State.setWord_does _ (CAM_AX_SET _) _ (by with_unfolding_all exact Field.has_row CAM_AX_SET (fun _ => rfl) _))
    | refine State.when_does (fun s => ?_) ?_
    | refine State.each_does (fun s b => ?_) ?_
    | dsimp only

theorem State.loadOwners_does (s st) : Does [.row MEM_B_OWN] s (State.loadOwners s st) := by
  unfold State.loadOwners
  repeat' with_reducible first
    | assumption
    | decide
    | exact Does.refl _ _
    | (apply Does.step; on_goal 1 => first | exact State.put_does _ (MEM_B_OWN.OWNER _) _ (by with_unfolding_all exact Field.has_row MEM_B_OWN (fun _ => rfl) _))
    | refine State.each_does (fun s b => ?_) ?_
    | split
    | dsimp only

theorem State.loadBanks_does (s) : Does [.row MEM_B_OWN] s (State.loadBanks s) := by
  unfold State.loadBanks
  repeat' with_reducible first
    | assumption
    | decide
    | exact Does.refl _ _
    | (apply Does.step; on_goal 1 => first | exact State.put_does _ (MEM_B_OWN.IMAGE _) _ (by with_unfolding_all exact Field.has_row MEM_B_OWN (fun _ => rfl) _) | exact State.put_does _ (MEM_B_OWN.TEST_EN _) _ (by with_unfolding_all exact Field.has_row MEM_B_OWN (fun _ => rfl) _) | exact State.put_does _ (MEM_B_OWN.RETAIN _) _ (by with_unfolding_all exact Field.has_row MEM_B_OWN (fun _ => rfl) _))
    | refine State.each_does (fun s b => ?_) ?_
    | split
    | dsimp only

theorem State.ownersWait_does (s) : Does [.waiting] s (State.ownersWait s) := by
  unfold State.ownersWait
  repeat' with_reducible first
    | assumption
    | decide
    | exact Does.refl _ _
    | (intro x; first | (have _h : State := x; clear _h; clear_value (hx : x = _); refine Does.bind (l := [.waiting]) (s := s) hx ?_ (fun _ => ?_)) | clear_value x)
    | lift_lets
    | refine State.each_does (fun s b => ?_) ?_
    | split
    | (apply Does.step; on_goal 1 => first | apply Does.waiting)
    | dsimp only

theorem State.loadEngines_does (s) : Does [.one ENG_STAT, .row ENG_E_STAT] s (State.loadEngines s) := by
  unfold State.loadEngines
  repeat' with_reducible first
    | assumption
    | decide
    | exact Does.refl _ _
    | (intro x; first | (have _h : State := x; clear _h; clear_value (hx : x = _); refine Does.bind (l := [.one ENG_STAT, .row ENG_E_STAT]) (s := s) hx ?_ (fun _ => ?_)) | clear_value x)
    | lift_lets
    | (apply Does.step; on_goal 1 => first | exact State.put_does _ ENG_STAT.ES_OK _ (by with_unfolding_all exact Field.has_one ENG_STAT) | apply State.setEngState_does)
    | refine State.each_does (fun s b => ?_) ?_
    | refine Does.ite ?_ ?_
    | refine Does.iteSnd ?_ ?_
    | dsimp only

theorem State.reelLoaded_does (s c k) : Does [.one REEL_STAT, .sys, .reel] s (State.reelLoaded s c k) := by
  unfold State.reelLoaded
  repeat' with_reducible first
    | assumption
    | decide
    | exact Does.refl _ _
    | (intro x; first | (have _h : State := x; clear _h; clear_value (hx : x = _); refine Does.bind (l := [.one REEL_STAT, .sys, .reel]) (s := s) hx ?_ (fun _ => ?_)) | clear_value x)
    | lift_lets
    | (apply Does.step; on_goal 1 => first | exact State.put_does _ REEL_STAT.ACTIVE_TAKE _ (by with_unfolding_all exact Field.has_one REEL_STAT) | exact State.put_does _ REEL_STAT.IMAGE _ (by with_unfolding_all exact Field.has_one REEL_STAT) | exact State.put_does _ REEL_STAT.ACTIVE_SLOT _ (by with_unfolding_all exact Field.has_one REEL_STAT))
    | (apply Does.step; on_goal 1 => first | apply Does.sys | apply Does.reel)
    | with_unfolding_all exact Does.ofOnly (by rintro ⟨⟩ hk <;> first | rfl | trivial | exact absurd (by decide) hk) (fun _ _ => rfl) (fun h => { h with })
    | (refine Does.trans (by assumption) ?_; with_unfolding_all exact Does.ofOnly (by rintro ⟨⟩ hk <;> first | rfl | trivial | exact absurd (by decide) hk) (fun _ _ => rfl) (fun h => { h with }))
    | dsimp only

/-- What `State.pickReel` and its like may change. -/
def Parts.ofPickReel : List Field :=
  [.one REEL_STAT, .one REEL_SLOT_A, .one REEL_SLOT_B, .row MEM_B_STAT, .row MEM_B_ECC, .row MEM_B_REPAIR,
    .one INT_DEG_CAUSE, .one MGT_FW_SLOT_A, .one MGT_FW_SLOT_B, .one MGT_LOG_STAT, .faults, .sys, .reel, .mgt, .can,
    .mem, .flash, .drawn, .cells]

theorem State.pickReel_does (s a1) : Does Parts.ofPickReel s (State.pickReel s a1) := by
  induction a1 generalizing s with
  | nil => with_unfolding_all exact Does.step (State.bootStuck_does ..) rfl (Does.weaken (State.raise_does ..) rfl)
  | cons w t ih =>
    unfold State.pickReel
    repeat' with_reducible first
      | assumption
      | decide
      | exact Does.refl _ _
      | (intro x; first | (have _h : State := x; clear _h; clear_value (hx : x = _); refine Does.bind (l := Parts.ofPickReel) (s := s) hx ?_ (fun _ => ?_)) | (have _h : _ × State := x; clear _h; clear_value (hx : x = _); refine Does.bindSnd (l := Parts.ofPickReel) (s := s) hx ?_ (fun _ => ?_)) | clear_value x)
      | (apply Does.trans; on_goal 2 => apply ih)
      | lift_lets
      | (apply Does.step; on_goal 1 => first | apply State.bootStuck_does | apply State.raise_does | apply State.reelNotice_does | apply State.setSlot_does | apply State.loadTables_does | apply State.tablesOk_does | apply State.reelLoaded_does)
      | refine Does.ite ?_ ?_
      | refine Does.iteSnd ?_ ?_
      | split
      | dsimp only

theorem State.headNotice_does (s k) : Does [.one MGT_LOG_STAT, .faults, .reel, .mgt, .can] s (State.headNotice s k) := by
  unfold State.headNotice
  repeat' with_reducible first
    | assumption
    | decide
    | exact Does.refl _ _
    | (apply Does.step; on_goal 1 => first | apply State.flashNotice_does)
    | refine State.when_does (fun s => ?_) ?_
    | dsimp only

theorem State.reelDropped_does (s) : Does Parts.ofPickReel s (State.reelDropped s) := by
  unfold State.reelDropped
  repeat' with_reducible first
    | assumption
    | decide
    | exact Does.refl _ _
    | (intro x; first | (have _h : State := x; clear _h; clear_value (hx : x = _); refine Does.bind (l := Parts.ofPickReel) (s := s) hx ?_ (fun _ => ?_)) | clear_value x)
    | lift_lets
    | (apply Does.step; on_goal 1 => first | exact State.put_does _ REEL_STAT.ACTIVE_TAKE _ (by with_unfolding_all exact Field.has_one REEL_STAT) | exact State.put_does _ REEL_STAT.ACTIVE_SLOT _ (by with_unfolding_all exact Field.has_one REEL_STAT) | apply State.raise_does | apply State.setSlot_does | apply State.pickReel_does | apply State.resetRecord_does)
    | refine State.when_does (fun s => ?_) ?_
    | refine Does.ite ?_ ?_
    | refine Does.iteSnd ?_ ?_
    | (apply Does.step; on_goal 1 => first | apply Does.reel)
    | dsimp only

theorem execReelSelect_does (s) : ∀ t, execReelSelect s = .next t → Does Parts.reelSelect s t := by
  unfold execReelSelect
  refine whenPowered_does ?_
  repeat' with_reducible first
    | assumption
    | decide
    | exact Does.refl _ _
    | (intro x; first | (have _h : State := x; clear _h; clear_value (hx : x = _); refine Does.bind (l := Parts.reelSelect) (s := s) hx ?_ (fun _ => ?_)) | clear_value x)
    | lift_lets
    | (apply Does.step; on_goal 1 => first | apply State.rejectTrial_does | apply State.headNotice_does | apply State.pickReel_does | apply State.resetRecord_does)
    | refine State.when_does (fun s => ?_) ?_
    | refine State.each_does (fun s b => ?_) ?_
    | refine Does.ite ?_ ?_
    | refine Does.iteSnd ?_ ?_
    | dsimp only

/-- What `State.bootLoad` and its like may change. -/
def Parts.ofBootLoad : List Field :=
  [.one REEL_STAT, .one REEL_STRUCT_SIG, .one REEL_STATE_SIG, .one REEL_LEN, .one ENG_STAT, .row ENG_E_STAT,
    .row ENG_E_LIST, .row ENG_E_FETCH_CHK, .row CAM_AX_SET, .one MOD_STAT, .one MOD_CMT_PEND, .one MOD_ILOCK_CNT,
    .row MOD_AX_STAT, .row MOD_AX_FORCE, .one PWR_STAT, .one PWR_THERM, .row PWR_AX_LIVE, .row ADC_CH_CFG,
    .row ADC_CH_CORR, .row ADC_TS_CORR, .row ADC_TS_CFG, .one CAN_NBT, .one CAN_DBT, .one CAN_TDC, .one CAN_TXSTAT,
    .one CAN_RXF, .row MEM_B_OWN, .one INT_AXCAUSE_LO, .one INT_AXCAUSE_HI, .one MGT_LOG_STAT, .faults, .waiting, .reel,
    .intg, .mgt, .can, .mods, .modg, .pwr]

theorem State.bootLoad_does (s) : Does Parts.ofBootLoad s (State.bootLoad s) := by
  unfold State.bootLoad
  repeat' with_reducible first
    | assumption
    | decide
    | exact Does.refl _ _
    | (intro x; first | (have _h : State := x; clear _h; clear_value (hx : x = _); refine Does.bind (l := Parts.ofBootLoad) (s := s) hx ?_ (fun _ => ?_)) | clear_value x)
    | lift_lets
    | (apply Does.step; on_goal 1 => first | apply State.loadEngines_does | apply State.loadBanks_does | apply State.ownersWait_does | apply State.loadOwners_does | apply State.thermalBoot_does | apply State.canBoot_does | apply State.showTake_does | apply State.adcLoad_does | apply State.modStandby_does)
    | refine State.each_does (fun s b => ?_) ?_
    | dsimp only

theorem State.bootHeader_does (s first) : Does [.one CLK_CTRL, .one CLK_STAT, .one CLK_FRAME_LEN, .row AX_PARAM_STAT, .clk, .sys, .mots] s (State.bootHeader s first) := by
  unfold State.bootHeader
  repeat' with_reducible first
    | assumption
    | decide
    | exact Does.refl _ _
    | (intro x; first | (have _h : State := x; clear _h; clear_value (hx : x = _); refine Does.bind (l := [.one CLK_CTRL, .one CLK_STAT, .one CLK_FRAME_LEN, .row AX_PARAM_STAT, .clk, .sys, .mots]) (s := s) hx ?_ (fun _ => ?_)) | clear_value x)
    | lift_lets
    | (apply Does.step; on_goal 1 => first | exact State.put_does _ CLK_FRAME_LEN.LEN _ (by with_unfolding_all exact Field.has_one CLK_FRAME_LEN) | exact State.put_does _ (AX_PARAM_STAT.PEND _) _ (by with_unfolding_all exact Field.has_row AX_PARAM_STAT (fun _ => rfl) _) | apply State.bootXtal_does | apply State.modMot_does)
    | refine State.each_does (fun s b => ?_) ?_
    | refine Does.ite ?_ ?_
    | refine Does.iteSnd ?_ ?_
    | (apply Does.step; on_goal 1 => first | apply Does.clk | apply Does.sys)
    | with_unfolding_all exact Does.ofOnly (by rintro ⟨⟩ hk <;> first | rfl | trivial | exact absurd (by decide) hk) (fun _ _ => rfl) (fun h => { h with })
    | (refine Does.trans (by assumption) ?_; with_unfolding_all exact Does.ofOnly (by rintro ⟨⟩ hk <;> first | rfl | trivial | exact absurd (by decide) hk) (fun _ _ => rfl) (fun h => { h with }))
    | dsimp only

theorem execBootEnd_does (x s) : ∀ t, execBootEnd x s = .next t → Does Parts.bus s t := by
  unfold execBootEnd
  refine whenPowered_does ?_
  repeat' with_reducible first
    | assumption
    | decide
    | exact Does.refl _ _
    | (intro x; first | (have _h : State := x; clear _h; clear_value (hx : x = _); refine Does.bind (l := Parts.bus) (s := s) hx ?_ (fun _ => ?_)) | (have _h : _ × State := x; clear _h; clear_value (hx : x = _); refine Does.bindSnd (l := Parts.bus) (s := s) hx ?_ (fun _ => ?_)) | clear_value x)
    | lift_lets
    | (apply Does.step; on_goal 1 => first | apply State.reelDropped_does | apply State.loadRegs_does | apply State.bootLoad_does | apply State.resetRecord_does | apply State.bootStuck_does | apply State.raise_does | apply State.bootHeader_does)
    | refine State.when_does (fun s => ?_) ?_
    | refine Does.ite ?_ ?_
    | refine Does.iteSnd ?_ ?_
    | dsimp only

theorem State.spliceRecord_does (s aux new old) : Does [.one MGT_LOG_STAT, .faults, .mgt, .can] s (State.spliceRecord s aux new old) := by
  unfold State.spliceRecord
  repeat' with_reducible first
    | assumption
    | decide
    | exact Does.refl _ _
    | (apply Does.step; on_goal 1 => first | apply State.logRec_does)
    | dsimp only

/-- What `State.replaceStruct` and its like may change. -/
def Parts.ofReplaceStruct : List Field :=
  [.one ENG_STAT, .row ENG_E_STAT, .one MOD_STAT, .one MOD_CMT_PEND, .one MOD_ILOCK_CNT, .row MOD_AX_STAT,
    .row MOD_AX_FORCE, .row PWR_AX_LIVE, .row ADC_CH_CFG, .row ADC_CH_CNT, .row ADC_TS_CFG, .one CAN_STAT, .one CAN_NBT,
    .one CAN_DBT, .one CAN_TDC, .row MEM_B_OWN, .one INT_AXCAUSE_LO, .one INT_AXCAUSE_HI, .one MGT_LOG_STAT, .faults,
    .reel, .intg, .mgt, .can, .mods, .modg, .pwr, .adc, .pos]

theorem State.replaceStruct_does (s st) : Does Parts.ofReplaceStruct s (State.replaceStruct s st) := by
  unfold State.replaceStruct
  repeat' with_reducible first
    | assumption
    | decide
    | exact Does.refl _ _
    | (intro x; first | (have _h : State := x; clear _h; clear_value (hx : x = _); refine Does.bind (l := Parts.ofReplaceStruct) (s := s) hx ?_ (fun _ => ?_)) | (have _h : Pos := x; clear _h; clear_value (hx : x = _); subst hx) | clear_value x)
    | lift_lets
    | (apply Does.step; on_goal 1 => first | exact State.put_does _ (ADC_TS_CFG.FILT _) _ (by with_unfolding_all exact Field.has_row ADC_TS_CFG (fun _ => rfl) _) | exact State.put_does _ (ADC_CH_CFG.FILT _) _ (by with_unfolding_all exact Field.has_row ADC_CH_CFG (fun _ => rfl) _) | exact State.put_does _ (ADC_CH_CFG.GAIN _) _ (by with_unfolding_all exact Field.has_row ADC_CH_CFG (fun _ => rfl) _) | apply State.canRejudge_does | apply State.canTimingLoad_does | apply State.loadEngines_does | apply State.loadBanks_does | apply State.adcApplied_does | apply State.modStandby_does)
    | refine State.each_does (fun s b => ?_) ?_
    | refine Does.ite ?_ ?_
    | refine Does.iteSnd ?_ ?_
    | (apply Does.step; on_goal 1 => first | apply Does.reel | (apply Does.pos <;> first | rfl | exact id | simp))
    | with_unfolding_all exact Does.ofOnly (by rintro ⟨⟩ hk <;> first | rfl | trivial | exact absurd (by decide) hk) (fun _ _ => rfl) (fun h => { h with })
    | (refine Does.trans (by assumption) ?_; with_unfolding_all exact Does.ofOnly (by rintro ⟨⟩ hk <;> first | rfl | trivial | exact absurd (by decide) hk) (fun _ _ => rfl) (fun h => { h with }))
    | dsimp only

theorem State.spliceApply_does (s c st) : Does Parts.bus s (State.spliceApply s c st) := by
  unfold State.spliceApply
  repeat' with_reducible first
    | assumption
    | decide
    | exact Does.refl _ _
    | (intro x; first | (have _h : State := x; clear _h; clear_value (hx : x = _); refine Does.bind (l := Parts.bus) (s := s) hx ?_ (fun _ => ?_)) | (have _h : _ × State := x; clear _h; clear_value (hx : x = _); refine Does.bindSnd (l := Parts.bus) (s := s) hx ?_ (fun _ => ?_)) | clear_value x)
    | lift_lets
    | (apply Does.step; on_goal 1 => first | exact State.put_does _ REEL_STAT.SPLICE_STATE _ (by with_unfolding_all exact Field.has_one REEL_STAT) | exact State.put_does _ REEL_STAT.ACTIVE_SLOT _ (by with_unfolding_all exact Field.has_one REEL_STAT) | exact State.put_does _ REEL_STAT.IMAGE _ (by with_unfolding_all exact Field.has_one REEL_STAT) | exact State.bump_does _ REEL_SPLICE_CNT.DONE _ (by with_unfolding_all exact Field.has_one REEL_SPLICE_CNT) | exact State.put_does _ REEL_STAT.TRIAL _ (by with_unfolding_all exact Field.has_one REEL_STAT) | exact State.put_does _ PWR_STAT.ROW _ (by with_unfolding_all exact Field.has_one PWR_STAT) | apply State.replaceStruct_does | apply State.showTake_does | apply State.canMapLoad_does | apply State.loadRegs_does | apply State.modMot_does | apply State.spliceRecord_does)
    | refine State.when_does (fun s => ?_) ?_
    | refine State.each_does (fun s b => ?_) ?_
    | refine Does.ite ?_ ?_
    | refine Does.iteSnd ?_ ?_
    | (apply Does.step; on_goal 1 => first | apply Does.reel)
    | dsimp only

theorem State.reloadApply_does (s) : Does Parts.bus s (State.reloadApply s) := by
  unfold State.reloadApply
  repeat' with_reducible first
    | assumption
    | decide
    | exact Does.refl _ _
    | (intro x; first | (have _h : State := x; clear _h; clear_value (hx : x = _); refine Does.bind (l := Parts.bus) (s := s) hx ?_ (fun _ => ?_)) | (have _h : _ × State := x; clear _h; clear_value (hx : x = _); refine Does.bindSnd (l := Parts.bus) (s := s) hx ?_ (fun _ => ?_)) | clear_value x)
    | lift_lets
    | (apply Does.step; on_goal 1 => first | exact State.bump_does _ REEL_CHECK.MISMATCH _ (by with_unfolding_all exact Field.has_one REEL_CHECK) | exact State.put_does _ REEL_STAT.IMAGE _ (by with_unfolding_all exact Field.has_one REEL_STAT) | apply State.spliceRecord_does | apply State.loadRegs_does)
    | (apply Does.step; on_goal 1 => first | apply Does.reel)
    | dsimp only

theorem State.spliceStep_does (s) : Does Parts.bus s (State.spliceStep s) := by
  unfold State.spliceStep
  repeat' with_reducible first
    | assumption
    | decide
    | exact Does.refl _ _
    | (apply Does.step; on_goal 1 => first | apply State.spliceRefuse_does | apply State.applyWaits_does | apply State.spliceApply_does | apply State.reloadApply_does)
    | refine Does.ite ?_ ?_
    | refine Does.iteSnd ?_ ?_
    | split
    | dsimp only

end Sys2Proof.Machine
end

