-- ==== Sys2Proof/Laws/Cut.lean ====
section
/-!
SUPPORT. What each operation of Sys2Proof/Machine/Cut.lean can do at most.
-/

-- One proof after the other: as one text the package would otherwise ask for more threads than there is memory for.
set_option Elab.async false
namespace Sys2Proof.Machine

theorem State.toPhase_does (s n p) : Does [.clk] s (State.toPhase s n p) := by
  unfold State.toPhase
  repeat' with_reducible first
    | assumption
    | decide
    | exact Does.refl _ _
    | (intro x; first | (have _h : State := x; clear _h; clear_value (hx : x = _); refine Does.bind (l := [.clk]) (s := s) hx ?_ (fun _ => ?_)) | clear_value x)
    | lift_lets
    | (apply Does.step; on_goal 1 => first | apply State.advanceTo_does)
    | (apply Does.step; on_goal 1 => first | apply Does.clk)
    | dsimp only

theorem State.overrun_does (s e) : Does Parts.engineFault s (State.overrun s e) := by
  unfold State.overrun
  repeat' with_reducible first
    | assumption
    | decide
    | exact Does.refl _ _
    | (intro x; first | (have _h : State := x; clear _h; clear_value (hx : x = _); refine Does.bind (l := Parts.engineFault) (s := s) hx ?_ (fun _ => ?_)) | clear_value x)
    | lift_lets
    | (apply Does.step; on_goal 1 => first | exact State.setWord_does _ (ENG_E_WATCH _) _ (by with_unfolding_all exact Field.has_row ENG_E_WATCH (fun _ => rfl) _) | apply State.engineFault_does)
    | refine Does.ite ?_ ?_
    | refine Does.iteSnd ?_ ?_
    | dsimp only

theorem execCutClose_does (s) : ∀ t, execCutClose s = .next t → Does Parts.cutClose s t := by
  unfold execCutClose
  refine whenPowered_does ?_
  repeat' with_reducible first
    | assumption
    | decide
    | exact Does.refl _ _
    | (apply Does.step; on_goal 1 => first | apply State.toPhase_does | apply State.overrun_does)
    | refine State.when_does (fun s => ?_) ?_
    | refine State.each_does (fun s b => ?_) ?_
    | refine Does.ite ?_ ?_
    | refine Does.iteSnd ?_ ?_
    | dsimp only

theorem State.lateIsland_does (s again i) : Does Parts.cutClose s (State.lateIsland s again i) := by
  unfold State.lateIsland
  repeat' with_reducible first
    | assumption
    | decide
    | exact Does.refl _ _
    | (intro x; first | (have _h : State := x; clear _h; clear_value (hx : x = _); refine Does.bind (l := Parts.cutClose) (s := s) hx ?_ (fun _ => ?_)) | clear_value x)
    | lift_lets
    | (apply Does.step; on_goal 1 => first | apply State.raise_does | apply State.islandFault_does | apply State.safeCause_does)
    | refine Does.ite ?_ ?_
    | refine Does.iteSnd ?_ ?_
    | dsimp only

theorem State.drainAll_does (s late) : Does Parts.drainCheck s (State.drainAll s late) := by
  unfold State.drainAll
  repeat' with_reducible first
    | assumption
    | decide
    | exact Does.refl _ _
    | (intro x; first | (have _h : State := x; clear _h; clear_value (hx : x = _); refine Does.bind (l := Parts.drainCheck) (s := s) hx ?_ (fun _ => ?_)) | clear_value x)
    | lift_lets
    | (apply Does.step; on_goal 1 => first | exact State.bump_does _ CLK_CUT_ERR.DISCARD_CNT _ (by with_unfolding_all exact Field.has_one CLK_CUT_ERR) | exact State.put_does _ CLK_CUT_STAT.LATE_ISL _ (by with_unfolding_all exact Field.has_one CLK_CUT_STAT) | apply State.drain_does | apply State.lateIsland_does)
    | refine State.when_does (fun s => ?_) ?_
    | refine State.each_does (fun s b => ?_) ?_
    | refine Does.ite ?_ ?_
    | refine Does.iteSnd ?_ ?_
    | (apply Does.step; on_goal 1 => first | apply Does.clk | apply Does.queues)
    | with_unfolding_all exact Does.ofOnly (by rintro ⟨⟩ hk <;> first | rfl | trivial | exact absurd (by decide) hk) (fun _ _ => rfl) (fun h => { h with })
    | (refine Does.trans (by assumption) ?_; with_unfolding_all exact Does.ofOnly (by rintro ⟨⟩ hk <;> first | rfl | trivial | exact absurd (by decide) hk) (fun _ _ => rfl) (fun h => { h with }))
    | dsimp only

theorem execDrainCheck_does (late s) : ∀ t, execDrainCheck late s = .next t → Does Parts.drainCheck s t := by
  unfold execDrainCheck
  refine whenPowered_does ?_
  repeat' with_reducible first
    | assumption
    | decide
    | exact Does.refl _ _
    | (apply Does.step; on_goal 1 => first | apply State.drainAll_does | apply State.toPhase_does)
    | refine State.when_does (fun s => ?_) ?_
    | refine Does.ite ?_ ?_
    | refine Does.iteSnd ?_ ?_
    | dsimp only

theorem State.handover_does (s map) : Does [.row MEM_B_OWN, .row MEM_B_STAT] s (State.handover s map) := by
  unfold State.handover
  repeat' with_reducible first
    | assumption
    | decide
    | exact Does.refl _ _
    | (intro x; first | (have _h : State := x; clear _h; clear_value (hx : x = _); refine Does.bind (l := [.row MEM_B_OWN, .row MEM_B_STAT]) (s := s) hx ?_ (fun _ => ?_)) | clear_value x)
    | lift_lets
    | (apply Does.step; on_goal 1 => first | exact State.put_does _ (MEM_B_OWN.OWNER _) _ (by with_unfolding_all exact Field.has_row MEM_B_OWN (fun _ => rfl) _) | apply State.loadOwners_does | apply State.recoveryApply_does)
    | refine State.each_does (fun s b => ?_) ?_
    | split
    | dsimp only

theorem State.firmwareStop_does (s) : Does [.reel, .mgt] s (State.firmwareStop s) := by
  unfold State.firmwareStop
  repeat' with_reducible first
    | assumption
    | decide
    | exact Does.refl _ _
    | (intro x; first | (have _h : State := x; clear _h; clear_value (hx : x = _); refine Does.bind (l := [.reel, .mgt]) (s := s) hx ?_ (fun _ => ?_)) | clear_value x)
    | lift_lets
    | refine Does.ite ?_ ?_
    | refine Does.iteSnd ?_ ?_
    | (apply Does.step; on_goal 1 => first | apply Does.reel | apply Does.mgt)
    | with_unfolding_all exact Does.ofOnly (by rintro ⟨⟩ hk <;> first | rfl | trivial | exact absurd (by decide) hk) (fun _ _ => rfl) (fun h => { h with })
    | (refine Does.trans (by assumption) ?_; with_unfolding_all exact Does.ofOnly (by rintro ⟨⟩ hk <;> first | rfl | trivial | exact absurd (by decide) hk) (fun _ _ => rfl) (fun h => { h with }))
    | dsimp only

theorem State.applyMiddle_does (s map) : Does [.one ADC_STAT, .row ADC_CORE_TRIM, .row MEM_B_OWN, .row MEM_B_STAT, .row MEM_B_ECC, .one INT_DEG_CAUSE, .one INT_SAFE_CAUSE, .one MGT_LOG_STAT, .faults, .sys, .reel, .mgt, .can, .mem, .adc, .drawn] s (State.applyMiddle s map) := by
  unfold State.applyMiddle
  repeat' with_reducible first
    | assumption
    | decide
    | exact Does.refl _ _
    | (apply Does.step; on_goal 1 => first | apply State.adcApply_does | apply State.handover_does | apply State.mapRepair_does)
    | refine State.each_does (fun s b => ?_) ?_
    | dsimp only

theorem State.applySteps_does (s) : Does Parts.bus s (State.applySteps s) := by
  unfold State.applySteps
  repeat' with_reducible first
    | assumption
    | decide
    | exact Does.refl _ _
    | (intro x; first | (have _h : State := x; clear _h; clear_value (hx : x = _); refine Does.bind (l := Parts.bus) (s := s) hx ?_ (fun _ => ?_)) | clear_value x)
    | lift_lets
    | (apply Does.step; on_goal 1 => first | apply State.disableAll_does | apply State.applyMiddle_does | apply State.firmwareStop_does | apply State.retainCut_does | apply State.takeAllWaiting_does | apply State.spliceStep_does)
    | refine Does.ite ?_ ?_
    | refine Does.iteSnd ?_ ?_
    | dsimp only

theorem execCutApply_does (s) : ∀ t, execCutApply s = .next t → Does Parts.bus s t := by
  unfold execCutApply
  refine whenPowered_does ?_
  repeat' with_reducible first
    | assumption
    | decide
    | exact Does.refl _ _
    | (intro x; first | (have _h : State := x; clear _h; clear_value (hx : x = _); refine Does.bind (l := Parts.bus) (s := s) hx ?_ (fun _ => ?_)) | clear_value x)
    | lift_lets
    | (apply Does.step; on_goal 1 => first | exact State.put_does _ CLK_CUT_STAT.APPLY_WAIT _ (by with_unfolding_all exact Field.has_one CLK_CUT_STAT) | apply State.modeApply_does | apply State.toPhase_does | apply State.applySteps_does)
    | refine State.when_does (fun s => ?_) ?_
    | refine Does.ite ?_ ?_
    | refine Does.iteSnd ?_ ?_
    | dsimp only

theorem State.sealEngine_does (s e) : Does [.row ENG_E_CNT, .row ENG_E_MISS, .engs] s (State.sealEngine s e) := by
  unfold State.sealEngine
  repeat' with_reducible first
    | assumption
    | decide
    | exact Does.refl _ _
    | (intro x; first | (have _h : State := x; clear _h; clear_value (hx : x = _); refine Does.bind (l := [.row ENG_E_CNT, .row ENG_E_MISS, .engs]) (s := s) hx ?_ (fun _ => ?_)) | clear_value x)
    | lift_lets
    | (apply Does.step; on_goal 1 => first | exact State.bump_does _ (ENG_E_CNT.SAT _) _ (by with_unfolding_all exact Field.has_row ENG_E_CNT (fun _ => rfl) _) | exact State.bump_does _ (ENG_E_MISS.MISS _) _ (by with_unfolding_all exact Field.has_row ENG_E_MISS (fun _ => rfl) _) | refine State.modEng_does _ _ (fun g hg => by first | exact ⟨hg.1, hg.2⟩ | exact ⟨rfl, rfl⟩ | simpa using hg | simpa [Eng.Shaped] using hg))
    | refine State.when_does (fun s => ?_) ?_
    | dsimp only

theorem execCutSeal_does (s) : ∀ t, execCutSeal s = .next t → Does [.row ENG_E_CNT, .row ENG_E_MISS, .clk, .engs, .intg, .pos, .queues] s t := by
  unfold execCutSeal
  refine whenPowered_does ?_
  repeat' with_reducible first
    | assumption
    | decide
    | exact Does.refl _ _
    | (intro x; first | (have _h : State := x; clear _h; clear_value (hx : x = _); refine Does.bind (l := [.row ENG_E_CNT, .row ENG_E_MISS, .clk, .engs, .intg, .pos, .queues]) (s := s) hx ?_ (fun _ => ?_)) | (have _h : Pos := x; clear _h; clear_value (hx : x = _); subst hx) | clear_value x)
    | lift_lets
    | (apply Does.step; on_goal 1 => first | apply State.toPhase_does | apply State.sealEngine_does)
    | refine State.when_does (fun s => ?_) ?_
    | refine State.each_does (fun s b => ?_) ?_
    | refine Does.ite ?_ ?_
    | refine Does.iteSnd ?_ ?_
    | (apply Does.step; on_goal 1 => first | (apply Does.pos <;> first | rfl | exact id | simp) | apply Does.queues)
    | with_unfolding_all exact Does.ofOnly (by rintro ⟨⟩ hk <;> first | rfl | trivial | exact absurd (by decide) hk) (fun _ _ => rfl) (fun h => { h with })
    | (refine Does.trans (by assumption) ?_; with_unfolding_all exact Does.ofOnly (by rintro ⟨⟩ hk <;> first | rfl | trivial | exact absurd (by decide) hk) (fun _ _ => rfl) (fun h => { h with }))
    | dsimp only

theorem State.countCut_does (s) : Does [.clk] s (State.countCut s) := by
  unfold State.countCut
  repeat' with_reducible first
    | assumption
    | decide
    | exact Does.refl _ _
    | (intro x; first | (have _h : State := x; clear _h; clear_value (hx : x = _); refine Does.bind (l := [.clk]) (s := s) hx ?_ (fun _ => ?_)) | clear_value x)
    | lift_lets
    | (apply Does.step; on_goal 1 => first | apply Does.clk)
    | dsimp only

theorem State.uncertainCut_does (s) : Does [.sys, .intg, .mots] s (State.uncertainCut s) := by
  unfold State.uncertainCut
  repeat' with_reducible first
    | assumption
    | decide
    | exact Does.refl _ _
    | (intro x; first | (have _h : State := x; clear _h; clear_value (hx : x = _); refine Does.bind (l := [.sys, .intg, .mots]) (s := s) hx ?_ (fun _ => ?_)) | clear_value x)
    | lift_lets
    | (apply Does.step; on_goal 1 => first | apply State.ovCut_does | apply State.modMot_does)
    | refine State.each_does (fun s b => ?_) ?_
    | (apply Does.step; on_goal 1 => first | apply Does.intg)
    | dsimp only

theorem State.standstillCopy_does (s n) : Does [.mods] s (State.standstillCopy s n) := by
  unfold State.standstillCopy
  repeat' with_reducible first
    | assumption
    | decide
    | exact Does.refl _ _
    | (intro x; first | (have _h : State := x; clear _h; clear_value (hx : x = _); refine Does.bind (l := [.mods]) (s := s) hx ?_ (fun _ => ?_)) | clear_value x)
    | lift_lets
    | (apply Does.step; on_goal 1 => first | refine State.modMod_does _ _ (fun m hm => by first | exact ModAx.shaped_of hm rfl | (split <;> exact ModAx.shaped_of hm rfl) | (unfold ModAx.modPhase; split <;> exact ModAx.shaped_of hm rfl) | exact ModAx.shaped_map hm rfl (fun x hx => by first | exact HalfBridge.sound_of hx rfl rfl rfl | exact HalfBridge.sound_off rfl rfl rfl)))
    | dsimp only

/-- What `State.modulatorCut` and its like may change. -/
def Parts.ofModulatorCut : List Field :=
  [.one MOD_STAT, .one MOD_ILOCK_CNT, .row MOD_AX_SPW0, .row MOD_AX_SPW1, .row MOD_AX_STAT, .row MOD_AX_FORCE,
    .row MOD_AX_CNT, .row PWR_AX_LIVE, .row PWR_AX_DIAG, .one INT_AXCAUSE_LO, .one INT_AXCAUSE_HI, .one MGT_LOG_STAT,
    .faults, .sys, .reel, .intg, .mgt, .can, .mods, .modg, .pwr]

theorem State.modulatorCut_does (s lists fcnt) : Does Parts.ofModulatorCut s (State.modulatorCut s lists fcnt) := by
  unfold State.modulatorCut
  repeat' with_reducible first
    | assumption
    | decide
    | exact Does.refl _ _
    | (intro x; first | (have _h : State := x; clear _h; clear_value (hx : x = _); refine Does.bind (l := Parts.ofModulatorCut) (s := s) hx ?_ (fun _ => ?_)) | clear_value x)
    | lift_lets
    | (apply Does.step; on_goal 1 => first | apply State.modFrameEnd_does | apply State.standstillCopy_does | apply State.safeAxes_does | apply State.commitDecision_does | refine State.modMod_does _ _ (fun m hm => by first | exact ModAx.shaped_of hm rfl | (split <;> exact ModAx.shaped_of hm rfl) | (unfold ModAx.modPhase; split <;> exact ModAx.shaped_of hm rfl) | exact ModAx.shaped_map hm rfl (fun x hx => by first | exact HalfBridge.sound_of hx rfl rfl rfl | exact HalfBridge.sound_off rfl rfl rfl)))
    | refine State.each_does (fun s b => ?_) ?_
    | refine Does.ite ?_ ?_
    | refine Does.iteSnd ?_ ?_
    | dsimp only

theorem State.engineCut_does (s e) : Does [.row ENG_E_WATCH, .engs] s (State.engineCut s e) := by
  unfold State.engineCut
  repeat' with_reducible first
    | assumption
    | decide
    | exact Does.refl _ _
    | (intro x; first | (have _h : State := x; clear _h; clear_value (hx : x = _); refine Does.bind (l := [.row ENG_E_WATCH, .engs]) (s := s) hx ?_ (fun _ => ?_)) | clear_value x)
    | lift_lets
    | (apply Does.step; on_goal 1 => first | exact State.setWord_does _ (ENG_E_WATCH _) _ (by with_unfolding_all exact Field.has_row ENG_E_WATCH (fun _ => rfl) _) | refine State.modEng_does _ _ (fun g hg => by first | exact ⟨hg.1, hg.2⟩ | exact ⟨rfl, rfl⟩ | simpa using hg | simpa [Eng.Shaped] using hg))
    | refine State.when_does (fun s => ?_) ?_
    | dsimp only

theorem State.camEmpty_does (s n) : Does [.mots] s (State.camEmpty s n) := by
  unfold State.camEmpty
  repeat' with_reducible first
    | assumption
    | decide
    | exact Does.refl _ _
    | (intro x; first | (have _h : State := x; clear _h; clear_value (hx : x = _); refine Does.bind (l := [.mots]) (s := s) hx ?_ (fun _ => ?_)) | clear_value x)
    | lift_lets
    | (apply Does.step; on_goal 1 => first | apply State.modMot_does)
    | refine State.when_does (fun s => ?_) ?_
    | dsimp only

/-- What `State.endFrame` and its like may change. -/
def Parts.ofEndFrame : List Field :=
  [.one SYS_MODE, .one CLK_STAT, .one ENG_STAT, .row ENG_E_STAT, .row ENG_E_LIST, .row ENG_E_WATCH, .row ENG_E_FETCH_CHK,
    .row AX_CTRL, .row AX_STAT, .row AX_TARGET, .row AX_POS, .row AX_VEL, .row AX_DIST, .row AX_PLAN, .row AX_PARAM_STAT,
    .row CAM_AX_CTRL, .row CAM_AX_STAT, .row CAM_AX_ERR, .row CAM_AX_MPOS, .row CAM_AX_OFF_EFF, .one MOD_CTRL,
    .one MOD_STAT, .one MOD_CMT_PEND, .one MOD_ILOCK_CNT, .row MOD_AX_SPW0, .row MOD_AX_SPW1, .row MOD_AX_STAT,
    .row MOD_AX_FORCE, .row MOD_AX_CNT, .one PWR_STAT, .row PWR_AX_LIVE, .row PWR_AX_DIAG, .one LAS_STAT,
    .row LAS_AX_STAT, .row LAS_AX_ANGLE, .row LAS_AX_EMF, .row LAS_AX_SLIP, .row LAS_AX_LOSS, .row LAS_AX_HOME,
    .row LAS_AX_HOME_RAW, .row LAS_AX_EOFS, .row POS_AX_DEV, .row MEM_B_STAT, .one INT_STAT, .one INT_REC,
    .one INT_REC_CNT, .one INT_CHK_CNT, .one INT_DEG_CAUSE, .one INT_SAFE_CAUSE, .one INT_AXCAUSE_LO,
    .one INT_AXCAUSE_HI, .one INT_EVT_CNT, .row INT_EVT_A, .row INT_EVT_T, .one MGT_LOG_STAT, .faults, .clk, .sys, .reel,
    .engs, .intg, .mgt, .can, .mem, .mods, .modg, .pwr, .adc, .mots, .drawn]

theorem State.endFrame_does (s lists fcnt) : Does Parts.ofEndFrame s (State.endFrame s lists fcnt) := by
  unfold State.endFrame
  repeat' with_reducible first
    | assumption
    | decide
    | exact Does.refl _ _
    | (intro x; first | (have _h : State := x; clear _h; clear_value (hx : x = _); refine Does.bind (l := Parts.ofEndFrame) (s := s) hx ?_ (fun _ => ?_)) | clear_value x)
    | lift_lets
    | (apply Does.step; on_goal 1 => first | apply State.modulatorCut_does | apply State.uncertainCut_does | apply State.mirrorCut_does | apply State.axesCut_does | apply State.camEmpty_does | apply State.recoveryCut_does | apply State.engineCut_does | apply State.modeEffects_does | apply State.autoRunCut_does | apply State.degradeCut_does | apply State.releaseCut_does)
    | refine State.when_does (fun s => ?_) ?_
    | refine State.each_does (fun s b => ?_) ?_
    | dsimp only

/-- What `State.openBlocks` and its like may change. -/
def Parts.ofOpenBlocks : List Field :=
  [.row CAM_SI_COUNT, .row CAM_SI_TIME, .one PWR_STAT, .row PWR_AX_STAT, .row POS_QD_COUNT, .row POS_QD_ANGLE,
    .row POS_QD_TURNS, .row POS_QD_TIME, .row POS_QD_STAT, .row POS_LT_POS, .row POS_LT_TIME, .row POS_LT_STAT,
    .row POS_EE_COUNT, .row POS_EE_STAT, .one MGT_LOG_STAT, .faults, .reel, .mgt, .can, .mods, .adc, .pos, .drawn]

theorem State.openBlocks_does (s) : Does Parts.ofOpenBlocks s (State.openBlocks s) := by
  unfold State.openBlocks
  repeat' with_reducible first
    | assumption
    | decide
    | exact Does.refl _ _
    | (intro x; first | (have _h : State := x; clear _h; clear_value (hx : x = _); refine Does.bind (l := Parts.ofOpenBlocks) (s := s) hx ?_ (fun _ => ?_)) | clear_value x)
    | lift_lets
    | (apply Does.step; on_goal 1 => first | apply State.posCut_does | apply State.posClears_does | apply State.misfitCheck_does | apply State.adcFrame_does | apply State.admission_does | apply State.thermalRow_does)
    | refine State.each_does (fun s b => ?_) ?_
    | dsimp only

theorem State.openWords_does (s lists) : Does [.row AX_STAT, .row AX_TARGET, .row AX_PARAM_STAT, .one CAN_TXSTAT, .one CAN_DROP, .one MGT_LOG_STAT, .one CHN_STAT, .one CHN_PHASE, .faults, .reel, .engs, .intg, .mgt, .can, .pos, .mots, .chn] s (State.openWords s lists) := by
  unfold State.openWords
  repeat' with_reducible first
    | assumption
    | decide
    | exact Does.refl _ _
    | (intro x; first | (have _h : State := x; clear _h; clear_value (hx : x = _); refine Does.bind (l := [.row AX_STAT, .row AX_TARGET, .row AX_PARAM_STAT, .one CAN_TXSTAT, .one CAN_DROP, .one MGT_LOG_STAT, .one CHN_STAT, .one CHN_PHASE, .faults, .reel, .engs, .intg, .mgt, .can, .pos, .mots, .chn]) (s := s) hx ?_ (fun _ => ?_)) | clear_value x)
    | lift_lets
    | (apply Does.step; on_goal 1 => first | apply State.snapshot_does | apply State.feedbackTaken_does | apply State.feedbackDelivery_does | apply State.chnCut_does | apply State.masterDelivery_does | apply State.mapCut_does | apply State.committedDelivery_does)
    | refine State.each_does (fun s b => ?_) ?_
    | dsimp only

theorem State.newFrame_does (s) : Does [.reel, .intg, .mem] s (State.newFrame s) := by
  unfold State.newFrame
  repeat' with_reducible first
    | assumption
    | decide
    | exact Does.refl _ _
    | (intro x; first | (have _h : State := x; clear _h; clear_value (hx : x = _); refine Does.bind (l := [.reel, .intg, .mem]) (s := s) hx ?_ (fun _ => ?_)) | (have _h : Mem := x; clear _h; clear_value (hx : x = _); subst hx) | clear_value x)
    | lift_lets
    | refine Does.ite ?_ ?_
    | refine Does.iteSnd ?_ ?_
    | (apply Does.step; on_goal 1 => first | apply Does.reel | apply Does.intg | (apply Does.mem <;> first | rfl | exact id | simp))
    | with_unfolding_all exact Does.ofOnly (by rintro ⟨⟩ hk <;> first | rfl | trivial | exact absurd (by decide) hk) (fun _ _ => rfl) (fun h => { h with })
    | (refine Does.trans (by assumption) ?_; with_unfolding_all exact Does.ofOnly (by rintro ⟨⟩ hk <;> first | rfl | trivial | exact absurd (by decide) hk) (fun _ _ => rfl) (fun h => { h with }))
    | dsimp only

/-- What `State.frameCut` and its like may change. -/
def Parts.ofFrameCut : List Field :=
  [.one SYS_MODE, .one CLK_STAT, .one REEL_STAT, .one REEL_SPLICE, .one REEL_SPLICE_CNT, .one ENG_STAT, .row ENG_E_STAT,
    .row ENG_E_LIST, .row ENG_E_WATCH, .row ENG_E_FETCH_CHK, .row AX_CTRL, .row AX_STAT, .row AX_TARGET, .row AX_POS,
    .row AX_VEL, .row AX_DIST, .row AX_PLAN, .row AX_PARAM_STAT, .row CAM_AX_CTRL, .row CAM_AX_STAT, .row CAM_AX_ERR,
    .row CAM_AX_MPOS, .row CAM_AX_OFF_EFF, .row CAM_SI_COUNT, .row CAM_SI_TIME, .one MOD_CTRL, .one MOD_STAT,
    .one MOD_CMT_PEND, .one MOD_ILOCK_CNT, .row MOD_AX_SPW0, .row MOD_AX_SPW1, .row MOD_AX_STAT, .row MOD_AX_FORCE,
    .row MOD_AX_CNT, .one PWR_STAT, .one PWR_THERM, .row PWR_AX_LIVE, .row PWR_AX_STAT, .row PWR_AX_DIAG, .one LAS_STAT,
    .row LAS_AX_STAT, .row LAS_AX_ANGLE, .row LAS_AX_EMF, .row LAS_AX_SLIP, .row LAS_AX_LOSS, .row LAS_AX_HOME,
    .row LAS_AX_HOME_RAW, .row LAS_AX_EOFS, .row POS_QD_COUNT, .row POS_QD_ANGLE, .row POS_QD_TURNS, .row POS_QD_TIME,
    .row POS_QD_STAT, .row POS_AX_DEV, .row POS_LT_POS, .row POS_LT_TIME, .row POS_LT_STAT, .row POS_EE_COUNT,
    .row POS_EE_STAT, .one CAN_STAT, .one CAN_TXSTAT, .one CAN_DROP, .row MEM_B_STAT, .one INT_STAT, .one INT_REC,
    .one INT_REC_CNT, .one INT_CHK_CNT, .one INT_DEG_CAUSE, .one INT_SAFE_CAUSE, .one INT_AXCAUSE_LO,
    .one INT_AXCAUSE_HI, .one INT_EVT_CNT, .row INT_EVT_A, .row INT_EVT_T, .one MGT_LOG_STAT, .one CHN_STAT,
    .one CHN_PHASE, .faults, .clk, .sys, .reel, .engs, .intg, .mgt, .can, .mem, .mods, .modg, .pwr, .adc, .pos, .mots,
    .chn, .drawn]

theorem State.frameCut_does (s) : Does Parts.ofFrameCut s (State.frameCut s) := by
  unfold State.frameCut
  repeat' with_reducible first
    | assumption
    | decide
    | exact Does.refl _ _
    | (intro x; first | (have _h : State := x; clear _h; clear_value (hx : x = _); refine Does.bind (l := Parts.ofFrameCut) (s := s) hx ?_ (fun _ => ?_)) | clear_value x)
    | lift_lets
    | (apply Does.step; on_goal 1 => first | apply State.refCut_does | apply State.countCut_does | apply State.safeEntry_does | apply State.advanceTo_does | apply State.openBlocks_does | apply State.sensorWatch_does | apply State.endFrame_does | apply State.newFrame_does | apply State.fallbackStart_does | apply State.openWords_does)
    | dsimp only

theorem State.abandonWake_does (s) : Does [.one SYS_RESET, .one MGT_LOG_STAT, .faults, .sys, .reel, .mgt, .can] s (State.abandonWake s) := by
  unfold State.abandonWake
  repeat' with_reducible first
    | assumption
    | decide
    | exact Does.refl _ _
    | (intro x; first | (have _h : State := x; clear _h; clear_value (hx : x = _); refine Does.bind (l := [.one SYS_RESET, .one MGT_LOG_STAT, .faults, .sys, .reel, .mgt, .can]) (s := s) hx ?_ (fun _ => ?_)) | clear_value x)
    | lift_lets
    | (apply Does.step; on_goal 1 => first | exact State.putBit_does _ SYS_RESET.ALL _ _ (by with_unfolding_all exact Field.has_one SYS_RESET) | exact State.put_does _ SYS_RESET.CAUSE _ (by with_unfolding_all exact Field.has_one SYS_RESET) | apply State.raise_does)
    | (apply Does.step; on_goal 1 => first | apply Does.sys)
    | dsimp only

theorem State.resumeSlate_does (s) : Does [.one CLK_STAT, .clk] s (State.resumeSlate s) := by
  unfold State.resumeSlate
  repeat' with_reducible first
    | assumption
    | decide
    | exact Does.refl _ _
    | (intro x; first | (have _h : State := x; clear _h; clear_value (hx : x = _); refine Does.bind (l := [.one CLK_STAT, .clk]) (s := s) hx ?_ (fun _ => ?_)) | clear_value x)
    | lift_lets
    | (apply Does.step; on_goal 1 => first | exact State.put_does _ CLK_STAT.SLATE_EST _ (by with_unfolding_all exact Field.has_one CLK_STAT) | exact State.put_does _ CLK_STAT.SLEEP_SAT _ (by with_unfolding_all exact Field.has_one CLK_STAT))
    | refine State.when_does (fun s => ?_) ?_
    | (apply Does.step; on_goal 1 => first | apply Does.clk)
    | dsimp only

theorem State.bootPositions_does (s restore) : Does [.one SYS_STAT, .row AX_TARGET, .row AX_PARAM_STAT, .mots] s (State.bootPositions s restore) := by
  unfold State.bootPositions
  repeat' with_reducible first
    | assumption
    | decide
    | exact Does.refl _ _
    | (intro x; first | (have _h : State := x; clear _h; clear_value (hx : x = _); refine Does.bind (l := [.one SYS_STAT, .row AX_TARGET, .row AX_PARAM_STAT, .mots]) (s := s) hx ?_ (fun _ => ?_)) | clear_value x)
    | lift_lets
    | (apply Does.step; on_goal 1 => first | exact State.put_does _ SYS_STAT.RESTORED _ (by with_unfolding_all exact Field.has_one SYS_STAT) | apply State.setTarget_does | apply State.issueSetpos_does | apply State.modMot_does)
    | refine State.when_does (fun s => ?_) ?_
    | refine State.each_does (fun s b => ?_) ?_
    | refine Does.ite ?_ ?_
    | refine Does.iteSnd ?_ ?_
    | dsimp only

theorem State.bootSelfTest_does (s) : Does [.one PWR_ST_CTRL, .one PWR_ST_RESULT, .spi, .pwr] s (State.bootSelfTest s) := by
  unfold State.bootSelfTest
  repeat' with_reducible first
    | assumption
    | decide
    | exact Does.refl _ _
    | (apply Does.step; on_goal 1 => first | apply State.selftestStart_does)
    | refine State.when_does (fun s => ?_) ?_
    | dsimp only

theorem State.firstCut_does (s) : Does Parts.cut s (State.firstCut s) := by
  unfold State.firstCut
  repeat' with_reducible first
    | assumption
    | decide
    | exact Does.refl _ _
    | (intro x; first | (have _h : State := x; clear _h; clear_value (hx : x = _); refine Does.bind (l := Parts.cut) (s := s) hx ?_ (fun _ => ?_)) | (have _h : Can := x; clear _h; clear_value (hx : x = _); subst hx) | (have _h : Pos := x; clear _h; clear_value (hx : x = _); subst hx) | clear_value x)
    | lift_lets
    | (apply Does.step; on_goal 1 => first | apply State.advanceTo_does | apply State.abandonWake_does | apply State.resumeSlate_does | apply State.raise_does | apply State.resetRecord_does | apply State.enter_does | apply State.countCut_does | apply State.takeAllWaiting_does | apply State.canStart_does | apply State.adcApply_does | apply State.bootPositions_does | apply State.openWords_does | apply State.openBlocks_does | apply State.autoRunCut_does | apply State.refCut_does | apply State.axesCut_does | apply State.bootSelfTest_does | apply State.enterStandby_does | apply State.newFrame_does)
    | refine State.when_does (fun s => ?_) ?_
    | refine Does.ite ?_ ?_
    | refine Does.iteSnd ?_ ?_
    | (apply Does.step; on_goal 1 => first | apply Does.sys | apply Does.keep | (apply Does.can <;> first | rfl | exact id | simp) | (apply Does.pos <;> first | rfl | exact id | simp))
    | with_unfolding_all exact Does.ofOnly (by rintro ⟨⟩ hk <;> first | rfl | trivial | exact absurd (by decide) hk) (fun _ _ => rfl) (fun h => { h with })
    | (refine Does.trans (by assumption) ?_; with_unfolding_all exact Does.ofOnly (by rintro ⟨⟩ hk <;> first | rfl | trivial | exact absurd (by decide) hk) (fun _ _ => rfl) (fun h => { h with }))
    | dsimp only

theorem execCut_does (s) : ∀ t, execCut s = .next t → Does Parts.cut s t := by
  unfold execCut
  refine whenPowered_does ?_
  repeat' with_reducible first
    | assumption
    | decide
    | exact Does.refl _ _
    | (apply Does.step; on_goal 1 => first | apply State.frameCut_does | apply State.firstCut_does)
    | refine State.when_does (fun s => ?_) ?_
    | refine Does.ite ?_ ?_
    | refine Does.iteSnd ?_ ?_
    | dsimp only

theorem execHostHoldRelease_does (s) : ∀ t, execHostHoldRelease s = .next t → Does Parts.daisyFrame s t := by
  unfold execHostHoldRelease
  refine whenPowered_does ?_
  repeat' with_reducible first
    | assumption
    | decide
    | exact Does.refl _ _
    | (intro x; first | (have _h : State := x; clear _h; clear_value (hx : x = _); refine Does.bind (l := Parts.daisyFrame) (s := s) hx ?_ (fun _ => ?_)) | clear_value x)
    | lift_lets
    | (apply Does.step; on_goal 1 => first | apply State.advanceTo_does | refine State.modEng_does _ _ (fun g hg => by first | exact ⟨hg.1, hg.2⟩ | exact ⟨rfl, rfl⟩ | simpa using hg | simpa [Eng.Shaped] using hg) | apply State.releaseHeld_does | apply State.restoreAll_does)
    | refine State.when_does (fun s => ?_) ?_
    | refine State.each_does (fun s b => ?_) ?_
    | refine Does.ite ?_ ?_
    | refine Does.iteSnd ?_ ?_
    | (apply Does.step; on_goal 1 => first | apply Does.clk)
    | dsimp only

end Sys2Proof.Machine
end

