-- ==== Sys2Proof/Laws/Regs.lean ====
section
/-!
SUPPORT. Reading a register or a field after another one was written.
-/

-- One proof after the other: as one text the package would otherwise ask for more threads than there is memory for.
set_option Elab.async false

namespace Sys2Proof.Machine

variable (s : State)

@[simp] theorem State.word_setWord_same (a : Nat) (v : Word) : (s.setWord a v).word a = v :=
  Store.get_put_same ..

theorem State.word_setWord_other {a b : Nat} (v : Word) (h : b ≠ a) : (s.setWord a v).word b = s.word b :=
  Store.get_put_other _ _ _ h

theorem State.word_setWord (a b : Nat) (v : Word) : (s.setWord a v).word b = if b = a then v else s.word b := by
  split
  · subst b; exact s.word_setWord_same a v
  · exact s.word_setWord_other v ‹_›

theorem Fld.getLsbD_mask (f : Fld) (i : Nat) : f.mask.getLsbD i = (decide (i < 32) && decide (f.lo ≤ i) && decide (i < f.lo + f.w)) := by
  unfold Fld.mask
  rw [BitVec.getLsbD_shiftLeft, BitVec.getLsbD_ofNat, Nat.testBit_two_pow_sub_one]
  by_cases h1 : i < 32 <;> by_cases h2 : f.lo ≤ i <;> by_cases h3 : i < f.lo + f.w <;> simp [h1, h2, h3] <;> omega

/-- Bit `i` of the value of a field. -/
theorem Fld.testBit_of (f : Fld) (w : Word) (i : Nat) : (f.of w).testBit i = (decide (i < f.w) && w.getLsbD (f.lo + i)) := by
  unfold Fld.of
  rw [Nat.testBit_mod_two_pow, BitVec.testBit_toNat, BitVec.getLsbD_ushiftRight]

/-- Bit `i` of a word with a field written. -/
theorem Fld.getLsbD_into (f : Fld) (w : Word) (v i : Nat) :
    (f.into w v).getLsbD i =
      if f.lo ≤ i ∧ i < f.lo + f.w ∧ i < 32 then v.testBit (i - f.lo) else w.getLsbD i := by
  unfold Fld.into
  rw [BitVec.getLsbD_or, BitVec.getLsbD_and, BitVec.getLsbD_and, BitVec.getLsbD_not, BitVec.getLsbD_shiftLeft,
    BitVec.getLsbD_ofNat, Fld.getLsbD_mask]
  by_cases h1 : i < 32
  · have h4 : i - f.lo < 32 := by omega
    by_cases h2 : f.lo ≤ i <;> by_cases h3 : i < f.lo + f.w <;> simp [h1, h2, h3, h4]
  · simp [h1, BitVec.getLsbD_of_ge w i (by omega)]

/-- A field written reads as the value, wrapped to its width. -/
theorem Fld.of_into (f : Fld) (w : Word) (v : Nat) (h : f.lo + f.w ≤ 32) : f.of (f.into w v) = v % 2 ^ f.w := by
  apply Nat.eq_of_testBit_eq
  intro i
  rw [Fld.testBit_of, Fld.getLsbD_into, Nat.testBit_mod_two_pow]
  by_cases hi : i < f.w
  · rw [if_pos ⟨Nat.le_add_right .., by omega, by omega⟩]; simp
  · simp [hi]

/-- A field apart from the one written keeps its value. -/
theorem Fld.of_into_other (f g : Fld) (w : Word) (v : Nat) (h : g.lo + g.w ≤ f.lo ∨ f.lo + f.w ≤ g.lo) :
    g.of (f.into w v) = g.of w := by
  apply Nat.eq_of_testBit_eq
  intro i
  rw [Fld.testBit_of, Fld.testBit_of, Fld.getLsbD_into]
  by_cases hi : i < g.w
  · rw [if_neg (by omega)]
  · simp [hi]

theorem State.word_put_same (f : Fld) (v : Nat) : (s.put f v).word f.addr = f.into (s.word f.addr) v :=
  s.word_setWord_same ..

theorem State.word_put_other {f : Fld} {b : Nat} (v : Nat) (h : b ≠ f.addr) : (s.put f v).word b = s.word b :=
  s.word_setWord_other _ h

theorem State.fld_put_same (f : Fld) (v : Nat) (h : f.lo + f.w ≤ 32) : (s.put f v).fld f = v % 2 ^ f.w := by
  unfold State.fld
  rw [s.word_put_same, Fld.of_into _ _ _ h]

theorem State.fld_put_other {f g : Fld} (v : Nat) (h : g.addr ≠ f.addr ∨ g.lo + g.w ≤ f.lo ∨ f.lo + f.w ≤ g.lo) :
    (s.put f v).fld g = s.fld g := by
  unfold State.fld
  by_cases e : g.addr = f.addr
  · rw [e, s.word_put_same, Fld.of_into_other _ _ _ _ (h.resolve_left (fun n => n e))]
  · rw [s.word_put_other v e]

theorem State.flag_put_other {f g : Fld} (v : Nat) (h : g.addr ≠ f.addr ∨ g.lo + g.w ≤ f.lo ∨ f.lo + f.w ≤ g.lo) :
    (s.put f v).flag g = s.flag g := by
  unfold State.flag
  rw [s.fld_put_other v h]

theorem State.fld_setWord_same (f : Fld) (v : Word) : (s.setWord f.addr v).fld f = f.of v := by
  unfold State.fld
  rw [s.word_setWord_same]

theorem State.fld_setWord_other {a : Nat} {f : Fld} (v : Word) (h : f.addr ≠ a) : (s.setWord a v).fld f = s.fld f := by
  unfold State.fld
  rw [s.word_setWord_other v h]

theorem State.fld_lt (f : Fld) : s.fld f < 2 ^ f.w := Nat.mod_lt _ (Nat.two_pow_pos _)

end Sys2Proof.Machine
end

