-- ==== Sys2Proof/Laws/Raise.lean ====
section
/-!
SUPPORT. A raised fault shows in the fault register of its block, and the log record that follows clears no flag.
-/

-- One proof after the other: as one text the package would otherwise ask for more threads than there is memory for.
set_option Elab.async false

namespace Sys2Proof.Machine

/-- No bit of the register at `r` is cleared from `s` to `t`. -/
def Grows (r : Nat) (s t : State) : Prop := ∀ b, (s.word r).getLsbD b = true → (t.word r).getLsbD b = true

theorem Grows.refl (r : Nat) (s : State) : Grows r s s := fun _ h => h

theorem Grows.trans {r : Nat} {s t u : State} (h : Grows r s t) (h' : Grows r t u) : Grows r s u := fun b x => h' b (h b x)

theorem Does.grows {l : List Field} {r : Nat} {s t : State} (h : Does l s t) (hr : l.all (fun k => !k.covers r) = true) :
    Grows r s t := fun b x => by rw [h.word hr]; exact x

theorem State.setFault_grows (s : State) {r flagReg codeReg : Nat} (bit unitBits code unit : Nat) (h : r ≠ codeReg) :
    Grows r s (s.setFault flagReg bit codeReg unitBits code unit) := by
  intro b hb
  unfold State.setFault
  dsimp only
  have e : ∀ (c : Can) (u : State), ({ u with can := c } : State).word r = u.word r := fun _ _ => rfl
  rw [e, State.bump, State.word_put_other _ _ h, State.word_put_other _ _ h, State.word_put_other _ _ h, State.word_setWord]
  split
  · subst r; simp [hb]
  · exact hb

theorem State.setFault_sets (s : State) {flagReg codeReg : Nat} (bit unitBits code unit : Nat) (h : flagReg ≠ codeReg)
    (hb : bit < 32) : ((s.setFault flagReg bit codeReg unitBits code unit).word flagReg).getLsbD bit = true := by
  unfold State.setFault
  dsimp only
  have e : ∀ (c : Can) (u : State), ({ u with can := c } : State).word flagReg = u.word flagReg := fun _ _ => rfl
  rw [e, State.bump, State.word_put_other _ _ h, State.word_put_other _ _ h, State.word_put_other _ _ h,
    State.word_setWord_same]
  simp [hb]

theorem State.pushRec_grows (s : State) (x : LogRec) {r : Nat} (h : r ≠ MGT_LOG_STAT) : Grows r s (s.pushRec x).2 := by
  intro b hb
  have := (State.pushRec_does s x).1.2 r (by
    intro k hk
    fin_cases hk
    · rintro ⟨n, hn⟩; exact h (by omega)
    · exact id)
  rw [this]; exact hb

theorem State.faultRec_grows {s : State} {enter : State → LogRec → Bool × State} {r : Nat} (code aux : Nat)
    (h : ∀ s x, Grows r s (enter s x).2) : Grows r s (s.faultRec enter code aux) := by
  unfold State.faultRec
  dsimp only
  repeat' split
  all_goals first
    | exact (h s _)
    | exact Grows.refl _ _

theorem State.enterRec_grows (s : State) (x : LogRec) {r : Nat} (h : r ≠ MGT_LOG_STAT) (h' : r ≠ MGT_FAULT_CODE) :
    Grows r s (s.enterRec x).2 := by
  have p := fun s x => State.pushRec_grows s x h
  unfold State.enterRec
  dsimp only
  split
  · exact Grows.refl _ _
  · split
    · exact p _ _
    · refine Grows.trans (Grows.trans (Grows.trans ?_ (State.setFault_grows _ _ _ _ _ h')) (State.faultRec_grows _ _ p)) (p _ _)
      refine Grows.trans ?_ (p _ _)
      exact fun _ hb => hb

theorem State.logFault_grows (s : State) (code aux : Nat) {r : Nat} (h : r ≠ MGT_LOG_STAT) (h' : r ≠ MGT_FAULT_CODE) :
    Grows r s (s.logFault code aux) := State.faultRec_grows _ _ (fun s x => State.enterRec_grows s x h h')

theorem faultReg_ne (b u : Nat) : faultReg b u ≠ MGT_LOG_STAT ∧ faultReg b u ≠ MGT_FAULT_CODE := by
  unfold faultReg
  split <;> first | exact ⟨by decide, by decide⟩ | (constructor <;> simp [AX_FAULT, MGT_LOG_STAT, MGT_FAULT_CODE] <;> omega)

/-- A fault raised shows its flag. -/
theorem State.raise_raised (s : State) (code unit : Nat) (h : code % 256 ≤ 16) (h0 : 1 ≤ code % 256) :
    (s.raise code unit).raised code unit = true := by
  unfold State.raise State.raised
  refine State.logFault_grows _ _ _ (faultReg_ne _ _).1 (faultReg_ne _ _).2 _ ?_
  have key := State.setFault_sets s (flagReg := faultReg (code / 256) unit) (codeReg := faultReg (code / 256) unit + 4)
    (code % 256 - 1 + (if code / 256 = 0x12 then 16 else 0)) (faultUnitBits (code / 256)) code unit (by omega) (by split <;> omega)
  dsimp only
  split <;> exact key

theorem faultReg_ne_code (b u b' u' : Nat) : faultReg b u ≠ faultReg b' u' + 4 := by
  have h : ∀ b u, faultReg b u = AX_FAULT u ∨ faultReg b u ∈ [SYS_FAULT, CLK_FAULT, REEL_FAULT, ENG_FAULT, CAM_FAULT,
      MOD_FAULT, PWR_FAULT, LAS_FAULT, POS_FAULT, ADC_FAULT, CAN_FAULT, SPI_FAULT, MEM_FAULT, INT_FAULT, MGT_FAULT,
      CHN_FAULT, GPM_FAULT] := by
    intro b u
    unfold faultReg
    split <;> first | exact .inl rfl | exact .inr (by decide)
  have k : ∀ x ∈ [SYS_FAULT, CLK_FAULT, REEL_FAULT, ENG_FAULT, CAM_FAULT, MOD_FAULT, PWR_FAULT, LAS_FAULT, POS_FAULT,
      ADC_FAULT, CAN_FAULT, SPI_FAULT, MEM_FAULT, INT_FAULT, MGT_FAULT, CHN_FAULT, GPM_FAULT],
      x % 0x100 ≠ 0x64 ∧ (x + 4) % 0x100 ≠ 0x60 := by decide
  have m : ∀ x ∈ [SYS_FAULT, CLK_FAULT, REEL_FAULT, ENG_FAULT, CAM_FAULT, MOD_FAULT, PWR_FAULT, LAS_FAULT, POS_FAULT,
      ADC_FAULT, CAN_FAULT, SPI_FAULT, MEM_FAULT, INT_FAULT, MGT_FAULT, CHN_FAULT, GPM_FAULT],
      ∀ y ∈ [SYS_FAULT, CLK_FAULT, REEL_FAULT, ENG_FAULT, CAM_FAULT, MOD_FAULT, PWR_FAULT, LAS_FAULT, POS_FAULT,
      ADC_FAULT, CAN_FAULT, SPI_FAULT, MEM_FAULT, INT_FAULT, MGT_FAULT, CHN_FAULT, GPM_FAULT], x ≠ y + 4 := by decide
  intro e
  rcases h b u with hb | hb <;> rcases h b' u' with hb' | hb'
  · rw [hb, hb'] at e; simp only [AX_FAULT] at e; omega
  · have := (k _ hb').2; rw [← e, hb] at this; simp only [AX_FAULT] at this; omega
  · have := (k _ hb).1; rw [e, hb'] at this; simp only [AX_FAULT] at this; omega
  · exact m _ hb _ hb' e

/-- Raising a fault clears no fault flag. -/
theorem State.raise_grows (s : State) (code unit b u : Nat) : Grows (faultReg b u) s (s.raise code unit) := by
  unfold State.raise
  refine Grows.trans ?_ (State.logFault_grows _ _ _ (faultReg_ne _ _).1 (faultReg_ne _ _).2)
  have key := State.setFault_grows s (flagReg := faultReg (code / 256) unit)
    (code % 256 - 1 + (if code / 256 = 0x12 then 16 else 0)) (faultUnitBits (code / 256)) code unit
    (faultReg_ne_code b u (code / 256) unit)
  dsimp only
  split <;> exact key

theorem State.raised_of_raise (s : State) {c u : Nat} (code unit : Nat) (h : s.raised c u = true) :
    (s.raise code unit).raised c u = true := State.raise_grows _ _ _ _ _ _ h

theorem State.logRec_raised (s : State) {c u : Nat} (x : LogRec) (h : s.raised c u = true) : (s.logRec x).raised c u = true :=
  State.enterRec_grows _ _ (faultReg_ne _ _).1 (faultReg_ne _ _).2 _ h

/-- A recovery event clears no fault flag. -/
theorem State.event_raised (s : State) {c u : Nat} (ev eng : Nat) (axes : BitVec 12) (cause : Nat) (t : Nat)
    (h : s.raised c u = true) : (s.event ev eng axes cause t).raised c u = true := by
  unfold State.event
  refine State.logRec_raised _ _ ?_
  have n : ∀ a i, (a = INT_EVT_A i ∨ a = INT_EVT_T i ∨ a = INT_EVT_CNT ∨ a = INT_STAT) → i < 8 → faultReg (c / 256) u ≠ a := by
    intro a i ha hi e
    have h1 := faultAddr_of (b := c / 256) (u := u)
    rw [e] at h1
    have h2 : ∀ i < 8, faultAddr (INT_EVT_A i) = false ∧ faultAddr (INT_EVT_T i) = false := by decide
    rcases ha with rfl | rfl | rfl | rfl
    · simp [(h2 i hi).1] at h1
    · simp [(h2 i hi).2] at h1
    · exact absurd h1.1 (by decide)
    · exact absurd h1.1 (by decide)
  have hi : s.fld INT_EVT_CNT.TOTAL % 8 < 8 := Nat.mod_lt _ (by decide)
  unfold State.raised at h ⊢
  rw [State.word_put_other _ _ (n INT_STAT 0 (by simp) (by decide)), State.word_put_other _ _ (n INT_EVT_CNT 0 (by simp) (by decide)),
    State.incr, State.word_put_other _ _ (n INT_EVT_CNT 0 (by simp) (by decide)), State.word_setWord_other _ _ (n _ _ (.inr (.inl rfl)) hi),
    State.word_setWord_other _ _ (n _ _ (.inl rfl) hi)]
  exact h

end Sys2Proof.Machine
end

