-- ==== Sys2Proof/Laws/State.lean ====
section
/-!
SUPPORT. The fields of the state after each of the small updates that the meanings are written over: one lemma per field
and update, so that no proof unfolds a record update.
-/

-- One proof after the other: as one text the package would otherwise ask for more threads than there is memory for.
set_option Elab.async false
namespace Sys2Proof.Machine

variable (s : State)

@[simp] theorem State.part_setWord (a : Nat) (v : Word) : (s.setWord a v).part = s.part := rfl
@[simp] theorem State.waiting_setWord (a : Nat) (v : Word) : (s.setWord a v).waiting = s.waiting := rfl
@[simp] theorem State.latched_setWord (a : Nat) (v : Word) : (s.setWord a v).latched = s.latched := rfl
@[simp] theorem State.clk_setWord (a : Nat) (v : Word) : (s.setWord a v).clk = s.clk := rfl
@[simp] theorem State.sys_setWord (a : Nat) (v : Word) : (s.setWord a v).sys = s.sys := rfl
@[simp] theorem State.keep_setWord (a : Nat) (v : Word) : (s.setWord a v).keep = s.keep := rfl
@[simp] theorem State.reel_setWord (a : Nat) (v : Word) : (s.setWord a v).reel = s.reel := rfl
@[simp] theorem State.engs_setWord (a : Nat) (v : Word) : (s.setWord a v).engs = s.engs := rfl
@[simp] theorem State.intg_setWord (a : Nat) (v : Word) : (s.setWord a v).intg = s.intg := rfl
@[simp] theorem State.mgt_setWord (a : Nat) (v : Word) : (s.setWord a v).mgt = s.mgt := rfl
@[simp] theorem State.can_setWord (a : Nat) (v : Word) : (s.setWord a v).can = s.can := rfl
@[simp] theorem State.mem_setWord (a : Nat) (v : Word) : (s.setWord a v).mem = s.mem := rfl
@[simp] theorem State.spi_setWord (a : Nat) (v : Word) : (s.setWord a v).spi = s.spi := rfl
@[simp] theorem State.mods_setWord (a : Nat) (v : Word) : (s.setWord a v).mods = s.mods := rfl
@[simp] theorem State.modg_setWord (a : Nat) (v : Word) : (s.setWord a v).modg = s.modg := rfl
@[simp] theorem State.pwr_setWord (a : Nat) (v : Word) : (s.setWord a v).pwr = s.pwr := rfl
@[simp] theorem State.adc_setWord (a : Nat) (v : Word) : (s.setWord a v).adc = s.adc := rfl
@[simp] theorem State.pos_setWord (a : Nat) (v : Word) : (s.setWord a v).pos = s.pos := rfl
@[simp] theorem State.mots_setWord (a : Nat) (v : Word) : (s.setWord a v).mots = s.mots := rfl
@[simp] theorem State.chn_setWord (a : Nat) (v : Word) : (s.setWord a v).chn = s.chn := rfl
@[simp] theorem State.queues_setWord (a : Nat) (v : Word) : (s.setWord a v).queues = s.queues := rfl
@[simp] theorem State.flash_setWord (a : Nat) (v : Word) : (s.setWord a v).flash = s.flash := rfl
@[simp] theorem State.flashFlaws_setWord (a : Nat) (v : Word) : (s.setWord a v).flashFlaws = s.flashFlaws := rfl
@[simp] theorem State.drawn_setWord (a : Nat) (v : Word) : (s.setWord a v).drawn = s.drawn := rfl
@[simp] theorem State.pending_setWord (a : Nat) (v : Word) : (s.setWord a v).pending = s.pending := rfl

@[simp] theorem State.part_put (f : Fld) (v : Nat) : (s.put f v).part = s.part := rfl
@[simp] theorem State.waiting_put (f : Fld) (v : Nat) : (s.put f v).waiting = s.waiting := rfl
@[simp] theorem State.latched_put (f : Fld) (v : Nat) : (s.put f v).latched = s.latched := rfl
@[simp] theorem State.clk_put (f : Fld) (v : Nat) : (s.put f v).clk = s.clk := rfl
@[simp] theorem State.sys_put (f : Fld) (v : Nat) : (s.put f v).sys = s.sys := rfl
@[simp] theorem State.keep_put (f : Fld) (v : Nat) : (s.put f v).keep = s.keep := rfl
@[simp] theorem State.reel_put (f : Fld) (v : Nat) : (s.put f v).reel = s.reel := rfl
@[simp] theorem State.engs_put (f : Fld) (v : Nat) : (s.put f v).engs = s.engs := rfl
@[simp] theorem State.intg_put (f : Fld) (v : Nat) : (s.put f v).intg = s.intg := rfl
@[simp] theorem State.mgt_put (f : Fld) (v : Nat) : (s.put f v).mgt = s.mgt := rfl
@[simp] theorem State.can_put (f : Fld) (v : Nat) : (s.put f v).can = s.can := rfl
@[simp] theorem State.mem_put (f : Fld) (v : Nat) : (s.put f v).mem = s.mem := rfl
@[simp] theorem State.spi_put (f : Fld) (v : Nat) : (s.put f v).spi = s.spi := rfl
@[simp] theorem State.mods_put (f : Fld) (v : Nat) : (s.put f v).mods = s.mods := rfl
@[simp] theorem State.modg_put (f : Fld) (v : Nat) : (s.put f v).modg = s.modg := rfl
@[simp] theorem State.pwr_put (f : Fld) (v : Nat) : (s.put f v).pwr = s.pwr := rfl
@[simp] theorem State.adc_put (f : Fld) (v : Nat) : (s.put f v).adc = s.adc := rfl
@[simp] theorem State.pos_put (f : Fld) (v : Nat) : (s.put f v).pos = s.pos := rfl
@[simp] theorem State.mots_put (f : Fld) (v : Nat) : (s.put f v).mots = s.mots := rfl
@[simp] theorem State.chn_put (f : Fld) (v : Nat) : (s.put f v).chn = s.chn := rfl
@[simp] theorem State.queues_put (f : Fld) (v : Nat) : (s.put f v).queues = s.queues := rfl
@[simp] theorem State.flash_put (f : Fld) (v : Nat) : (s.put f v).flash = s.flash := rfl
@[simp] theorem State.flashFlaws_put (f : Fld) (v : Nat) : (s.put f v).flashFlaws = s.flashFlaws := rfl
@[simp] theorem State.drawn_put (f : Fld) (v : Nat) : (s.put f v).drawn = s.drawn := rfl
@[simp] theorem State.pending_put (f : Fld) (v : Nat) : (s.put f v).pending = s.pending := rfl

@[simp] theorem State.part_putBit (f : Fld) (i : Nat) (b : Bool) : (s.putBit f i b).part = s.part := rfl
@[simp] theorem State.waiting_putBit (f : Fld) (i : Nat) (b : Bool) : (s.putBit f i b).waiting = s.waiting := rfl
@[simp] theorem State.latched_putBit (f : Fld) (i : Nat) (b : Bool) : (s.putBit f i b).latched = s.latched := rfl
@[simp] theorem State.clk_putBit (f : Fld) (i : Nat) (b : Bool) : (s.putBit f i b).clk = s.clk := rfl
@[simp] theorem State.sys_putBit (f : Fld) (i : Nat) (b : Bool) : (s.putBit f i b).sys = s.sys := rfl
@[simp] theorem State.keep_putBit (f : Fld) (i : Nat) (b : Bool) : (s.putBit f i b).keep = s.keep := rfl
@[simp] theorem State.reel_putBit (f : Fld) (i : Nat) (b : Bool) : (s.putBit f i b).reel = s.reel := rfl
@[simp] theorem State.engs_putBit (f : Fld) (i : Nat) (b : Bool) : (s.putBit f i b).engs = s.engs := rfl
@[simp] theorem State.intg_putBit (f : Fld) (i : Nat) (b : Bool) : (s.putBit f i b).intg = s.intg := rfl
@[simp] theorem State.mgt_putBit (f : Fld) (i : Nat) (b : Bool) : (s.putBit f i b).mgt = s.mgt := rfl
@[simp] theorem State.can_putBit (f : Fld) (i : Nat) (b : Bool) : (s.putBit f i b).can = s.can := rfl
@[simp] theorem State.mem_putBit (f : Fld) (i : Nat) (b : Bool) : (s.putBit f i b).mem = s.mem := rfl
@[simp] theorem State.spi_putBit (f : Fld) (i : Nat) (b : Bool) : (s.putBit f i b).spi = s.spi := rfl
@[simp] theorem State.mods_putBit (f : Fld) (i : Nat) (b : Bool) : (s.putBit f i b).mods = s.mods := rfl
@[simp] theorem State.modg_putBit (f : Fld) (i : Nat) (b : Bool) : (s.putBit f i b).modg = s.modg := rfl
@[simp] theorem State.pwr_putBit (f : Fld) (i : Nat) (b : Bool) : (s.putBit f i b).pwr = s.pwr := rfl
@[simp] theorem State.adc_putBit (f : Fld) (i : Nat) (b : Bool) : (s.putBit f i b).adc = s.adc := rfl
@[simp] theorem State.pos_putBit (f : Fld) (i : Nat) (b : Bool) : (s.putBit f i b).pos = s.pos := rfl
@[simp] theorem State.mots_putBit (f : Fld) (i : Nat) (b : Bool) : (s.putBit f i b).mots = s.mots := rfl
@[simp] theorem State.chn_putBit (f : Fld) (i : Nat) (b : Bool) : (s.putBit f i b).chn = s.chn := rfl
@[simp] theorem State.queues_putBit (f : Fld) (i : Nat) (b : Bool) : (s.putBit f i b).queues = s.queues := rfl
@[simp] theorem State.flash_putBit (f : Fld) (i : Nat) (b : Bool) : (s.putBit f i b).flash = s.flash := rfl
@[simp] theorem State.flashFlaws_putBit (f : Fld) (i : Nat) (b : Bool) : (s.putBit f i b).flashFlaws = s.flashFlaws := rfl
@[simp] theorem State.drawn_putBit (f : Fld) (i : Nat) (b : Bool) : (s.putBit f i b).drawn = s.drawn := rfl
@[simp] theorem State.pending_putBit (f : Fld) (i : Nat) (b : Bool) : (s.putBit f i b).pending = s.pending := rfl

@[simp] theorem State.part_bump (f : Fld) (n : Nat) : (s.bump f n).part = s.part := rfl
@[simp] theorem State.waiting_bump (f : Fld) (n : Nat) : (s.bump f n).waiting = s.waiting := rfl
@[simp] theorem State.latched_bump (f : Fld) (n : Nat) : (s.bump f n).latched = s.latched := rfl
@[simp] theorem State.clk_bump (f : Fld) (n : Nat) : (s.bump f n).clk = s.clk := rfl
@[simp] theorem State.sys_bump (f : Fld) (n : Nat) : (s.bump f n).sys = s.sys := rfl
@[simp] theorem State.keep_bump (f : Fld) (n : Nat) : (s.bump f n).keep = s.keep := rfl
@[simp] theorem State.reel_bump (f : Fld) (n : Nat) : (s.bump f n).reel = s.reel := rfl
@[simp] theorem State.engs_bump (f : Fld) (n : Nat) : (s.bump f n).engs = s.engs := rfl
@[simp] theorem State.intg_bump (f : Fld) (n : Nat) : (s.bump f n).intg = s.intg := rfl
@[simp] theorem State.mgt_bump (f : Fld) (n : Nat) : (s.bump f n).mgt = s.mgt := rfl
@[simp] theorem State.can_bump (f : Fld) (n : Nat) : (s.bump f n).can = s.can := rfl
@[simp] theorem State.mem_bump (f : Fld) (n : Nat) : (s.bump f n).mem = s.mem := rfl
@[simp] theorem State.spi_bump (f : Fld) (n : Nat) : (s.bump f n).spi = s.spi := rfl
@[simp] theorem State.mods_bump (f : Fld) (n : Nat) : (s.bump f n).mods = s.mods := rfl
@[simp] theorem State.modg_bump (f : Fld) (n : Nat) : (s.bump f n).modg = s.modg := rfl
@[simp] theorem State.pwr_bump (f : Fld) (n : Nat) : (s.bump f n).pwr = s.pwr := rfl
@[simp] theorem State.adc_bump (f : Fld) (n : Nat) : (s.bump f n).adc = s.adc := rfl
@[simp] theorem State.pos_bump (f : Fld) (n : Nat) : (s.bump f n).pos = s.pos := rfl
@[simp] theorem State.mots_bump (f : Fld) (n : Nat) : (s.bump f n).mots = s.mots := rfl
@[simp] theorem State.chn_bump (f : Fld) (n : Nat) : (s.bump f n).chn = s.chn := rfl
@[simp] theorem State.queues_bump (f : Fld) (n : Nat) : (s.bump f n).queues = s.queues := rfl
@[simp] theorem State.flash_bump (f : Fld) (n : Nat) : (s.bump f n).flash = s.flash := rfl
@[simp] theorem State.flashFlaws_bump (f : Fld) (n : Nat) : (s.bump f n).flashFlaws = s.flashFlaws := rfl
@[simp] theorem State.drawn_bump (f : Fld) (n : Nat) : (s.bump f n).drawn = s.drawn := rfl
@[simp] theorem State.pending_bump (f : Fld) (n : Nat) : (s.bump f n).pending = s.pending := rfl

@[simp] theorem State.part_incr (f : Fld) : (s.incr f).part = s.part := rfl
@[simp] theorem State.waiting_incr (f : Fld) : (s.incr f).waiting = s.waiting := rfl
@[simp] theorem State.latched_incr (f : Fld) : (s.incr f).latched = s.latched := rfl
@[simp] theorem State.clk_incr (f : Fld) : (s.incr f).clk = s.clk := rfl
@[simp] theorem State.sys_incr (f : Fld) : (s.incr f).sys = s.sys := rfl
@[simp] theorem State.keep_incr (f : Fld) : (s.incr f).keep = s.keep := rfl
@[simp] theorem State.reel_incr (f : Fld) : (s.incr f).reel = s.reel := rfl
@[simp] theorem State.engs_incr (f : Fld) : (s.incr f).engs = s.engs := rfl
@[simp] theorem State.intg_incr (f : Fld) : (s.incr f).intg = s.intg := rfl
@[simp] theorem State.mgt_incr (f : Fld) : (s.incr f).mgt = s.mgt := rfl
@[simp] theorem State.can_incr (f : Fld) : (s.incr f).can = s.can := rfl
@[simp] theorem State.mem_incr (f : Fld) : (s.incr f).mem = s.mem := rfl
@[simp] theorem State.spi_incr (f : Fld) : (s.incr f).spi = s.spi := rfl
@[simp] theorem State.mods_incr (f : Fld) : (s.incr f).mods = s.mods := rfl
@[simp] theorem State.modg_incr (f : Fld) : (s.incr f).modg = s.modg := rfl
@[simp] theorem State.pwr_incr (f : Fld) : (s.incr f).pwr = s.pwr := rfl
@[simp] theorem State.adc_incr (f : Fld) : (s.incr f).adc = s.adc := rfl
@[simp] theorem State.pos_incr (f : Fld) : (s.incr f).pos = s.pos := rfl
@[simp] theorem State.mots_incr (f : Fld) : (s.incr f).mots = s.mots := rfl
@[simp] theorem State.chn_incr (f : Fld) : (s.incr f).chn = s.chn := rfl
@[simp] theorem State.queues_incr (f : Fld) : (s.incr f).queues = s.queues := rfl
@[simp] theorem State.flash_incr (f : Fld) : (s.incr f).flash = s.flash := rfl
@[simp] theorem State.flashFlaws_incr (f : Fld) : (s.incr f).flashFlaws = s.flashFlaws := rfl
@[simp] theorem State.drawn_incr (f : Fld) : (s.incr f).drawn = s.drawn := rfl
@[simp] theorem State.pending_incr (f : Fld) : (s.incr f).pending = s.pending := rfl

@[simp] theorem State.part_await (a : Nat) (v : Word) : (s.await a v).part = s.part := rfl
@[simp] theorem State.regs_await (a : Nat) (v : Word) : (s.await a v).regs = s.regs := rfl
@[simp] theorem State.latched_await (a : Nat) (v : Word) : (s.await a v).latched = s.latched := rfl
@[simp] theorem State.clk_await (a : Nat) (v : Word) : (s.await a v).clk = s.clk := rfl
@[simp] theorem State.sys_await (a : Nat) (v : Word) : (s.await a v).sys = s.sys := rfl
@[simp] theorem State.keep_await (a : Nat) (v : Word) : (s.await a v).keep = s.keep := rfl
@[simp] theorem State.reel_await (a : Nat) (v : Word) : (s.await a v).reel = s.reel := rfl
@[simp] theorem State.engs_await (a : Nat) (v : Word) : (s.await a v).engs = s.engs := rfl
@[simp] theorem State.intg_await (a : Nat) (v : Word) : (s.await a v).intg = s.intg := rfl
@[simp] theorem State.mgt_await (a : Nat) (v : Word) : (s.await a v).mgt = s.mgt := rfl
@[simp] theorem State.can_await (a : Nat) (v : Word) : (s.await a v).can = s.can := rfl
@[simp] theorem State.mem_await (a : Nat) (v : Word) : (s.await a v).mem = s.mem := rfl
@[simp] theorem State.spi_await (a : Nat) (v : Word) : (s.await a v).spi = s.spi := rfl
@[simp] theorem State.mods_await (a : Nat) (v : Word) : (s.await a v).mods = s.mods := rfl
@[simp] theorem State.modg_await (a : Nat) (v : Word) : (s.await a v).modg = s.modg := rfl
@[simp] theorem State.pwr_await (a : Nat) (v : Word) : (s.await a v).pwr = s.pwr := rfl
@[simp] theorem State.adc_await (a : Nat) (v : Word) : (s.await a v).adc = s.adc := rfl
@[simp] theorem State.pos_await (a : Nat) (v : Word) : (s.await a v).pos = s.pos := rfl
@[simp] theorem State.mots_await (a : Nat) (v : Word) : (s.await a v).mots = s.mots := rfl
@[simp] theorem State.chn_await (a : Nat) (v : Word) : (s.await a v).chn = s.chn := rfl
@[simp] theorem State.queues_await (a : Nat) (v : Word) : (s.await a v).queues = s.queues := rfl
@[simp] theorem State.flash_await (a : Nat) (v : Word) : (s.await a v).flash = s.flash := rfl
@[simp] theorem State.flashFlaws_await (a : Nat) (v : Word) : (s.await a v).flashFlaws = s.flashFlaws := rfl
@[simp] theorem State.drawn_await (a : Nat) (v : Word) : (s.await a v).drawn = s.drawn := rfl
@[simp] theorem State.pending_await (a : Nat) (v : Word) : (s.await a v).pending = s.pending := rfl

@[simp] theorem State.word_await (a : Nat) (v : Word) (r : Nat) : (s.await a v).word r = s.word r := rfl
@[simp] theorem State.fld_await (a : Nat) (v : Word) (f : Fld) : (s.await a v).fld f = s.fld f := rfl
@[simp] theorem State.flag_await (a : Nat) (v : Word) (f : Fld) : (s.await a v).flag f = s.flag f := rfl

@[simp] theorem State.part_setQueue (x : Xing) (l : List Msg) : (s.setQueue x l).part = s.part := rfl
@[simp] theorem State.regs_setQueue (x : Xing) (l : List Msg) : (s.setQueue x l).regs = s.regs := rfl
@[simp] theorem State.waiting_setQueue (x : Xing) (l : List Msg) : (s.setQueue x l).waiting = s.waiting := rfl
@[simp] theorem State.latched_setQueue (x : Xing) (l : List Msg) : (s.setQueue x l).latched = s.latched := rfl
@[simp] theorem State.clk_setQueue (x : Xing) (l : List Msg) : (s.setQueue x l).clk = s.clk := rfl
@[simp] theorem State.sys_setQueue (x : Xing) (l : List Msg) : (s.setQueue x l).sys = s.sys := rfl
@[simp] theorem State.keep_setQueue (x : Xing) (l : List Msg) : (s.setQueue x l).keep = s.keep := rfl
@[simp] theorem State.reel_setQueue (x : Xing) (l : List Msg) : (s.setQueue x l).reel = s.reel := rfl
@[simp] theorem State.engs_setQueue (x : Xing) (l : List Msg) : (s.setQueue x l).engs = s.engs := rfl
@[simp] theorem State.intg_setQueue (x : Xing) (l : List Msg) : (s.setQueue x l).intg = s.intg := rfl
@[simp] theorem State.mgt_setQueue (x : Xing) (l : List Msg) : (s.setQueue x l).mgt = s.mgt := rfl
@[simp] theorem State.can_setQueue (x : Xing) (l : List Msg) : (s.setQueue x l).can = s.can := rfl
@[simp] theorem State.mem_setQueue (x : Xing) (l : List Msg) : (s.setQueue x l).mem = s.mem := rfl
@[simp] theorem State.spi_setQueue (x : Xing) (l : List Msg) : (s.setQueue x l).spi = s.spi := rfl
@[simp] theorem State.mods_setQueue (x : Xing) (l : List Msg) : (s.setQueue x l).mods = s.mods := rfl
@[simp] theorem State.modg_setQueue (x : Xing) (l : List Msg) : (s.setQueue x l).modg = s.modg := rfl
@[simp] theorem State.pwr_setQueue (x : Xing) (l : List Msg) : (s.setQueue x l).pwr = s.pwr := rfl
@[simp] theorem State.adc_setQueue (x : Xing) (l : List Msg) : (s.setQueue x l).adc = s.adc := rfl
@[simp] theorem State.pos_setQueue (x : Xing) (l : List Msg) : (s.setQueue x l).pos = s.pos := rfl
@[simp] theorem State.mots_setQueue (x : Xing) (l : List Msg) : (s.setQueue x l).mots = s.mots := rfl
@[simp] theorem State.chn_setQueue (x : Xing) (l : List Msg) : (s.setQueue x l).chn = s.chn := rfl
@[simp] theorem State.flash_setQueue (x : Xing) (l : List Msg) : (s.setQueue x l).flash = s.flash := rfl
@[simp] theorem State.flashFlaws_setQueue (x : Xing) (l : List Msg) : (s.setQueue x l).flashFlaws = s.flashFlaws := rfl
@[simp] theorem State.drawn_setQueue (x : Xing) (l : List Msg) : (s.setQueue x l).drawn = s.drawn := rfl
@[simp] theorem State.pending_setQueue (x : Xing) (l : List Msg) : (s.setQueue x l).pending = s.pending := rfl

@[simp] theorem State.word_setQueue (x : Xing) (l : List Msg) (r : Nat) : (s.setQueue x l).word r = s.word r := rfl
@[simp] theorem State.fld_setQueue (x : Xing) (l : List Msg) (f : Fld) : (s.setQueue x l).fld f = s.fld f := rfl
@[simp] theorem State.flag_setQueue (x : Xing) (l : List Msg) (f : Fld) : (s.setQueue x l).flag f = s.flag f := rfl

@[simp] theorem State.part_modEng (e : Nat) (f : Eng → Eng) : (s.modEng e f).part = s.part := rfl
@[simp] theorem State.regs_modEng (e : Nat) (f : Eng → Eng) : (s.modEng e f).regs = s.regs := rfl
@[simp] theorem State.waiting_modEng (e : Nat) (f : Eng → Eng) : (s.modEng e f).waiting = s.waiting := rfl
@[simp] theorem State.latched_modEng (e : Nat) (f : Eng → Eng) : (s.modEng e f).latched = s.latched := rfl
@[simp] theorem State.clk_modEng (e : Nat) (f : Eng → Eng) : (s.modEng e f).clk = s.clk := rfl
@[simp] theorem State.sys_modEng (e : Nat) (f : Eng → Eng) : (s.modEng e f).sys = s.sys := rfl
@[simp] theorem State.keep_modEng (e : Nat) (f : Eng → Eng) : (s.modEng e f).keep = s.keep := rfl
@[simp] theorem State.reel_modEng (e : Nat) (f : Eng → Eng) : (s.modEng e f).reel = s.reel := rfl
@[simp] theorem State.intg_modEng (e : Nat) (f : Eng → Eng) : (s.modEng e f).intg = s.intg := rfl
@[simp] theorem State.mgt_modEng (e : Nat) (f : Eng → Eng) : (s.modEng e f).mgt = s.mgt := rfl
@[simp] theorem State.can_modEng (e : Nat) (f : Eng → Eng) : (s.modEng e f).can = s.can := rfl
@[simp] theorem State.mem_modEng (e : Nat) (f : Eng → Eng) : (s.modEng e f).mem = s.mem := rfl
@[simp] theorem State.spi_modEng (e : Nat) (f : Eng → Eng) : (s.modEng e f).spi = s.spi := rfl
@[simp] theorem State.mods_modEng (e : Nat) (f : Eng → Eng) : (s.modEng e f).mods = s.mods := rfl
@[simp] theorem State.modg_modEng (e : Nat) (f : Eng → Eng) : (s.modEng e f).modg = s.modg := rfl
@[simp] theorem State.pwr_modEng (e : Nat) (f : Eng → Eng) : (s.modEng e f).pwr = s.pwr := rfl
@[simp] theorem State.adc_modEng (e : Nat) (f : Eng → Eng) : (s.modEng e f).adc = s.adc := rfl
@[simp] theorem State.pos_modEng (e : Nat) (f : Eng → Eng) : (s.modEng e f).pos = s.pos := rfl
@[simp] theorem State.mots_modEng (e : Nat) (f : Eng → Eng) : (s.modEng e f).mots = s.mots := rfl
@[simp] theorem State.chn_modEng (e : Nat) (f : Eng → Eng) : (s.modEng e f).chn = s.chn := rfl
@[simp] theorem State.queues_modEng (e : Nat) (f : Eng → Eng) : (s.modEng e f).queues = s.queues := rfl
@[simp] theorem State.flash_modEng (e : Nat) (f : Eng → Eng) : (s.modEng e f).flash = s.flash := rfl
@[simp] theorem State.flashFlaws_modEng (e : Nat) (f : Eng → Eng) : (s.modEng e f).flashFlaws = s.flashFlaws := rfl
@[simp] theorem State.drawn_modEng (e : Nat) (f : Eng → Eng) : (s.modEng e f).drawn = s.drawn := rfl
@[simp] theorem State.pending_modEng (e : Nat) (f : Eng → Eng) : (s.modEng e f).pending = s.pending := rfl

@[simp] theorem State.word_modEng (e : Nat) (f : Eng → Eng) (r : Nat) : (s.modEng e f).word r = s.word r := rfl
@[simp] theorem State.fld_modEng (e : Nat) (g : Eng → Eng) (f : Fld) : (s.modEng e g).fld f = s.fld f := rfl
@[simp] theorem State.flag_modEng (e : Nat) (g : Eng → Eng) (f : Fld) : (s.modEng e g).flag f = s.flag f := rfl

@[simp] theorem State.part_modMod (n : Nat) (f : ModAx → ModAx) : (s.modMod n f).part = s.part := rfl
@[simp] theorem State.regs_modMod (n : Nat) (f : ModAx → ModAx) : (s.modMod n f).regs = s.regs := rfl
@[simp] theorem State.waiting_modMod (n : Nat) (f : ModAx → ModAx) : (s.modMod n f).waiting = s.waiting := rfl
@[simp] theorem State.latched_modMod (n : Nat) (f : ModAx → ModAx) : (s.modMod n f).latched = s.latched := rfl
@[simp] theorem State.clk_modMod (n : Nat) (f : ModAx → ModAx) : (s.modMod n f).clk = s.clk := rfl
@[simp] theorem State.sys_modMod (n : Nat) (f : ModAx → ModAx) : (s.modMod n f).sys = s.sys := rfl
@[simp] theorem State.keep_modMod (n : Nat) (f : ModAx → ModAx) : (s.modMod n f).keep = s.keep := rfl
@[simp] theorem State.reel_modMod (n : Nat) (f : ModAx → ModAx) : (s.modMod n f).reel = s.reel := rfl
@[simp] theorem State.engs_modMod (n : Nat) (f : ModAx → ModAx) : (s.modMod n f).engs = s.engs := rfl
@[simp] theorem State.intg_modMod (n : Nat) (f : ModAx → ModAx) : (s.modMod n f).intg = s.intg := rfl
@[simp] theorem State.mgt_modMod (n : Nat) (f : ModAx → ModAx) : (s.modMod n f).mgt = s.mgt := rfl
@[simp] theorem State.can_modMod (n : Nat) (f : ModAx → ModAx) : (s.modMod n f).can = s.can := rfl
@[simp] theorem State.mem_modMod (n : Nat) (f : ModAx → ModAx) : (s.modMod n f).mem = s.mem := rfl
@[simp] theorem State.spi_modMod (n : Nat) (f : ModAx → ModAx) : (s.modMod n f).spi = s.spi := rfl
@[simp] theorem State.modg_modMod (n : Nat) (f : ModAx → ModAx) : (s.modMod n f).modg = s.modg := rfl
@[simp] theorem State.pwr_modMod (n : Nat) (f : ModAx → ModAx) : (s.modMod n f).pwr = s.pwr := rfl
@[simp] theorem State.adc_modMod (n : Nat) (f : ModAx → ModAx) : (s.modMod n f).adc = s.adc := rfl
@[simp] theorem State.pos_modMod (n : Nat) (f : ModAx → ModAx) : (s.modMod n f).pos = s.pos := rfl
@[simp] theorem State.mots_modMod (n : Nat) (f : ModAx → ModAx) : (s.modMod n f).mots = s.mots := rfl
@[simp] theorem State.chn_modMod (n : Nat) (f : ModAx → ModAx) : (s.modMod n f).chn = s.chn := rfl
@[simp] theorem State.queues_modMod (n : Nat) (f : ModAx → ModAx) : (s.modMod n f).queues = s.queues := rfl
@[simp] theorem State.flash_modMod (n : Nat) (f : ModAx → ModAx) : (s.modMod n f).flash = s.flash := rfl
@[simp] theorem State.flashFlaws_modMod (n : Nat) (f : ModAx → ModAx) : (s.modMod n f).flashFlaws = s.flashFlaws := rfl
@[simp] theorem State.drawn_modMod (n : Nat) (f : ModAx → ModAx) : (s.modMod n f).drawn = s.drawn := rfl
@[simp] theorem State.pending_modMod (n : Nat) (f : ModAx → ModAx) : (s.modMod n f).pending = s.pending := rfl

@[simp] theorem State.word_modMod (n : Nat) (f : ModAx → ModAx) (r : Nat) : (s.modMod n f).word r = s.word r := rfl
@[simp] theorem State.fld_modMod (n : Nat) (g : ModAx → ModAx) (f : Fld) : (s.modMod n g).fld f = s.fld f := rfl
@[simp] theorem State.flag_modMod (n : Nat) (g : ModAx → ModAx) (f : Fld) : (s.modMod n g).flag f = s.flag f := rfl

@[simp] theorem State.part_modMot (n : Nat) (f : MotAx → MotAx) : (s.modMot n f).part = s.part := rfl
@[simp] theorem State.regs_modMot (n : Nat) (f : MotAx → MotAx) : (s.modMot n f).regs = s.regs := rfl
@[simp] theorem State.waiting_modMot (n : Nat) (f : MotAx → MotAx) : (s.modMot n f).waiting = s.waiting := rfl
@[simp] theorem State.latched_modMot (n : Nat) (f : MotAx → MotAx) : (s.modMot n f).latched = s.latched := rfl
@[simp] theorem State.clk_modMot (n : Nat) (f : MotAx → MotAx) : (s.modMot n f).clk = s.clk := rfl
@[simp] theorem State.sys_modMot (n : Nat) (f : MotAx → MotAx) : (s.modMot n f).sys = s.sys := rfl
@[simp] theorem State.keep_modMot (n : Nat) (f : MotAx → MotAx) : (s.modMot n f).keep = s.keep := rfl
@[simp] theorem State.reel_modMot (n : Nat) (f : MotAx → MotAx) : (s.modMot n f).reel = s.reel := rfl
@[simp] theorem State.engs_modMot (n : Nat) (f : MotAx → MotAx) : (s.modMot n f).engs = s.engs := rfl
@[simp] theorem State.intg_modMot (n : Nat) (f : MotAx → MotAx) : (s.modMot n f).intg = s.intg := rfl
@[simp] theorem State.mgt_modMot (n : Nat) (f : MotAx → MotAx) : (s.modMot n f).mgt = s.mgt := rfl
@[simp] theorem State.can_modMot (n : Nat) (f : MotAx → MotAx) : (s.modMot n f).can = s.can := rfl
@[simp] theorem State.mem_modMot (n : Nat) (f : MotAx → MotAx) : (s.modMot n f).mem = s.mem := rfl
@[simp] theorem State.spi_modMot (n : Nat) (f : MotAx → MotAx) : (s.modMot n f).spi = s.spi := rfl
@[simp] theorem State.mods_modMot (n : Nat) (f : MotAx → MotAx) : (s.modMot n f).mods = s.mods := rfl
@[simp] theorem State.modg_modMot (n : Nat) (f : MotAx → MotAx) : (s.modMot n f).modg = s.modg := rfl
@[simp] theorem State.pwr_modMot (n : Nat) (f : MotAx → MotAx) : (s.modMot n f).pwr = s.pwr := rfl
@[simp] theorem State.adc_modMot (n : Nat) (f : MotAx → MotAx) : (s.modMot n f).adc = s.adc := rfl
@[simp] theorem State.pos_modMot (n : Nat) (f : MotAx → MotAx) : (s.modMot n f).pos = s.pos := rfl
@[simp] theorem State.chn_modMot (n : Nat) (f : MotAx → MotAx) : (s.modMot n f).chn = s.chn := rfl
@[simp] theorem State.queues_modMot (n : Nat) (f : MotAx → MotAx) : (s.modMot n f).queues = s.queues := rfl
@[simp] theorem State.flash_modMot (n : Nat) (f : MotAx → MotAx) : (s.modMot n f).flash = s.flash := rfl
@[simp] theorem State.flashFlaws_modMot (n : Nat) (f : MotAx → MotAx) : (s.modMot n f).flashFlaws = s.flashFlaws := rfl
@[simp] theorem State.drawn_modMot (n : Nat) (f : MotAx → MotAx) : (s.modMot n f).drawn = s.drawn := rfl
@[simp] theorem State.pending_modMot (n : Nat) (f : MotAx → MotAx) : (s.modMot n f).pending = s.pending := rfl

@[simp] theorem State.word_modMot (n : Nat) (f : MotAx → MotAx) (r : Nat) : (s.modMot n f).word r = s.word r := rfl
@[simp] theorem State.fld_modMot (n : Nat) (g : MotAx → MotAx) (f : Fld) : (s.modMot n g).fld f = s.fld f := rfl
@[simp] theorem State.flag_modMot (n : Nat) (g : MotAx → MotAx) (f : Fld) : (s.modMot n g).flag f = s.flag f := rfl

@[simp] theorem State.part_modBank (b : Nat) (f : Bank → Bank) : (s.modBank b f).part = s.part := rfl
@[simp] theorem State.regs_modBank (b : Nat) (f : Bank → Bank) : (s.modBank b f).regs = s.regs := rfl
@[simp] theorem State.waiting_modBank (b : Nat) (f : Bank → Bank) : (s.modBank b f).waiting = s.waiting := rfl
@[simp] theorem State.latched_modBank (b : Nat) (f : Bank → Bank) : (s.modBank b f).latched = s.latched := rfl
@[simp] theorem State.clk_modBank (b : Nat) (f : Bank → Bank) : (s.modBank b f).clk = s.clk := rfl
@[simp] theorem State.sys_modBank (b : Nat) (f : Bank → Bank) : (s.modBank b f).sys = s.sys := rfl
@[simp] theorem State.keep_modBank (b : Nat) (f : Bank → Bank) : (s.modBank b f).keep = s.keep := rfl
@[simp] theorem State.reel_modBank (b : Nat) (f : Bank → Bank) : (s.modBank b f).reel = s.reel := rfl
@[simp] theorem State.engs_modBank (b : Nat) (f : Bank → Bank) : (s.modBank b f).engs = s.engs := rfl
@[simp] theorem State.intg_modBank (b : Nat) (f : Bank → Bank) : (s.modBank b f).intg = s.intg := rfl
@[simp] theorem State.mgt_modBank (b : Nat) (f : Bank → Bank) : (s.modBank b f).mgt = s.mgt := rfl
@[simp] theorem State.can_modBank (b : Nat) (f : Bank → Bank) : (s.modBank b f).can = s.can := rfl
@[simp] theorem State.spi_modBank (b : Nat) (f : Bank → Bank) : (s.modBank b f).spi = s.spi := rfl
@[simp] theorem State.mods_modBank (b : Nat) (f : Bank → Bank) : (s.modBank b f).mods = s.mods := rfl
@[simp] theorem State.modg_modBank (b : Nat) (f : Bank → Bank) : (s.modBank b f).modg = s.modg := rfl
@[simp] theorem State.pwr_modBank (b : Nat) (f : Bank → Bank) : (s.modBank b f).pwr = s.pwr := rfl
@[simp] theorem State.adc_modBank (b : Nat) (f : Bank → Bank) : (s.modBank b f).adc = s.adc := rfl
@[simp] theorem State.pos_modBank (b : Nat) (f : Bank → Bank) : (s.modBank b f).pos = s.pos := rfl
@[simp] theorem State.mots_modBank (b : Nat) (f : Bank → Bank) : (s.modBank b f).mots = s.mots := rfl
@[simp] theorem State.chn_modBank (b : Nat) (f : Bank → Bank) : (s.modBank b f).chn = s.chn := rfl
@[simp] theorem State.queues_modBank (b : Nat) (f : Bank → Bank) : (s.modBank b f).queues = s.queues := rfl
@[simp] theorem State.flash_modBank (b : Nat) (f : Bank → Bank) : (s.modBank b f).flash = s.flash := rfl
@[simp] theorem State.flashFlaws_modBank (b : Nat) (f : Bank → Bank) : (s.modBank b f).flashFlaws = s.flashFlaws := rfl
@[simp] theorem State.drawn_modBank (b : Nat) (f : Bank → Bank) : (s.modBank b f).drawn = s.drawn := rfl
@[simp] theorem State.pending_modBank (b : Nat) (f : Bank → Bank) : (s.modBank b f).pending = s.pending := rfl

@[simp] theorem State.word_modBank (b : Nat) (f : Bank → Bank) (r : Nat) : (s.modBank b f).word r = s.word r := rfl
@[simp] theorem State.fld_modBank (b : Nat) (g : Bank → Bank) (f : Fld) : (s.modBank b g).fld f = s.fld f := rfl
@[simp] theorem State.flag_modBank (b : Nat) (g : Bank → Bank) (f : Fld) : (s.modBank b g).flag f = s.flag f := rfl

@[simp] theorem State.part_modSi (k : Nat) (f : SiCh → SiCh) : (s.modSi k f).part = s.part := rfl
@[simp] theorem State.regs_modSi (k : Nat) (f : SiCh → SiCh) : (s.modSi k f).regs = s.regs := rfl
@[simp] theorem State.waiting_modSi (k : Nat) (f : SiCh → SiCh) : (s.modSi k f).waiting = s.waiting := rfl
@[simp] theorem State.latched_modSi (k : Nat) (f : SiCh → SiCh) : (s.modSi k f).latched = s.latched := rfl
@[simp] theorem State.clk_modSi (k : Nat) (f : SiCh → SiCh) : (s.modSi k f).clk = s.clk := rfl
@[simp] theorem State.sys_modSi (k : Nat) (f : SiCh → SiCh) : (s.modSi k f).sys = s.sys := rfl
@[simp] theorem State.keep_modSi (k : Nat) (f : SiCh → SiCh) : (s.modSi k f).keep = s.keep := rfl
@[simp] theorem State.reel_modSi (k : Nat) (f : SiCh → SiCh) : (s.modSi k f).reel = s.reel := rfl
@[simp] theorem State.engs_modSi (k : Nat) (f : SiCh → SiCh) : (s.modSi k f).engs = s.engs := rfl
@[simp] theorem State.intg_modSi (k : Nat) (f : SiCh → SiCh) : (s.modSi k f).intg = s.intg := rfl
@[simp] theorem State.mgt_modSi (k : Nat) (f : SiCh → SiCh) : (s.modSi k f).mgt = s.mgt := rfl
@[simp] theorem State.can_modSi (k : Nat) (f : SiCh → SiCh) : (s.modSi k f).can = s.can := rfl
@[simp] theorem State.mem_modSi (k : Nat) (f : SiCh → SiCh) : (s.modSi k f).mem = s.mem := rfl
@[simp] theorem State.spi_modSi (k : Nat) (f : SiCh → SiCh) : (s.modSi k f).spi = s.spi := rfl
@[simp] theorem State.mods_modSi (k : Nat) (f : SiCh → SiCh) : (s.modSi k f).mods = s.mods := rfl
@[simp] theorem State.modg_modSi (k : Nat) (f : SiCh → SiCh) : (s.modSi k f).modg = s.modg := rfl
@[simp] theorem State.pwr_modSi (k : Nat) (f : SiCh → SiCh) : (s.modSi k f).pwr = s.pwr := rfl
@[simp] theorem State.adc_modSi (k : Nat) (f : SiCh → SiCh) : (s.modSi k f).adc = s.adc := rfl
@[simp] theorem State.mots_modSi (k : Nat) (f : SiCh → SiCh) : (s.modSi k f).mots = s.mots := rfl
@[simp] theorem State.chn_modSi (k : Nat) (f : SiCh → SiCh) : (s.modSi k f).chn = s.chn := rfl
@[simp] theorem State.queues_modSi (k : Nat) (f : SiCh → SiCh) : (s.modSi k f).queues = s.queues := rfl
@[simp] theorem State.flash_modSi (k : Nat) (f : SiCh → SiCh) : (s.modSi k f).flash = s.flash := rfl
@[simp] theorem State.flashFlaws_modSi (k : Nat) (f : SiCh → SiCh) : (s.modSi k f).flashFlaws = s.flashFlaws := rfl
@[simp] theorem State.drawn_modSi (k : Nat) (f : SiCh → SiCh) : (s.modSi k f).drawn = s.drawn := rfl
@[simp] theorem State.pending_modSi (k : Nat) (f : SiCh → SiCh) : (s.modSi k f).pending = s.pending := rfl

@[simp] theorem State.word_modSi (k : Nat) (f : SiCh → SiCh) (r : Nat) : (s.modSi k f).word r = s.word r := rfl
@[simp] theorem State.fld_modSi (k : Nat) (g : SiCh → SiCh) (f : Fld) : (s.modSi k g).fld f = s.fld f := rfl
@[simp] theorem State.flag_modSi (k : Nat) (g : SiCh → SiCh) (f : Fld) : (s.modSi k g).flag f = s.flag f := rfl

@[simp] theorem State.part_modQd (k : Nat) (f : QdCh → QdCh) : (s.modQd k f).part = s.part := rfl
@[simp] theorem State.regs_modQd (k : Nat) (f : QdCh → QdCh) : (s.modQd k f).regs = s.regs := rfl
@[simp] theorem State.waiting_modQd (k : Nat) (f : QdCh → QdCh) : (s.modQd k f).waiting = s.waiting := rfl
@[simp] theorem State.latched_modQd (k : Nat) (f : QdCh → QdCh) : (s.modQd k f).latched = s.latched := rfl
@[simp] theorem State.clk_modQd (k : Nat) (f : QdCh → QdCh) : (s.modQd k f).clk = s.clk := rfl
@[simp] theorem State.sys_modQd (k : Nat) (f : QdCh → QdCh) : (s.modQd k f).sys = s.sys := rfl
@[simp] theorem State.keep_modQd (k : Nat) (f : QdCh → QdCh) : (s.modQd k f).keep = s.keep := rfl
@[simp] theorem State.reel_modQd (k : Nat) (f : QdCh → QdCh) : (s.modQd k f).reel = s.reel := rfl
@[simp] theorem State.engs_modQd (k : Nat) (f : QdCh → QdCh) : (s.modQd k f).engs = s.engs := rfl
@[simp] theorem State.intg_modQd (k : Nat) (f : QdCh → QdCh) : (s.modQd k f).intg = s.intg := rfl
@[simp] theorem State.mgt_modQd (k : Nat) (f : QdCh → QdCh) : (s.modQd k f).mgt = s.mgt := rfl
@[simp] theorem State.can_modQd (k : Nat) (f : QdCh → QdCh) : (s.modQd k f).can = s.can := rfl
@[simp] theorem State.mem_modQd (k : Nat) (f : QdCh → QdCh) : (s.modQd k f).mem = s.mem := rfl
@[simp] theorem State.spi_modQd (k : Nat) (f : QdCh → QdCh) : (s.modQd k f).spi = s.spi := rfl
@[simp] theorem State.mods_modQd (k : Nat) (f : QdCh → QdCh) : (s.modQd k f).mods = s.mods := rfl
@[simp] theorem State.modg_modQd (k : Nat) (f : QdCh → QdCh) : (s.modQd k f).modg = s.modg := rfl
@[simp] theorem State.pwr_modQd (k : Nat) (f : QdCh → QdCh) : (s.modQd k f).pwr = s.pwr := rfl
@[simp] theorem State.adc_modQd (k : Nat) (f : QdCh → QdCh) : (s.modQd k f).adc = s.adc := rfl
@[simp] theorem State.mots_modQd (k : Nat) (f : QdCh → QdCh) : (s.modQd k f).mots = s.mots := rfl
@[simp] theorem State.chn_modQd (k : Nat) (f : QdCh → QdCh) : (s.modQd k f).chn = s.chn := rfl
@[simp] theorem State.queues_modQd (k : Nat) (f : QdCh → QdCh) : (s.modQd k f).queues = s.queues := rfl
@[simp] theorem State.flash_modQd (k : Nat) (f : QdCh → QdCh) : (s.modQd k f).flash = s.flash := rfl
@[simp] theorem State.flashFlaws_modQd (k : Nat) (f : QdCh → QdCh) : (s.modQd k f).flashFlaws = s.flashFlaws := rfl
@[simp] theorem State.drawn_modQd (k : Nat) (f : QdCh → QdCh) : (s.modQd k f).drawn = s.drawn := rfl
@[simp] theorem State.pending_modQd (k : Nat) (f : QdCh → QdCh) : (s.modQd k f).pending = s.pending := rfl

@[simp] theorem State.word_modQd (k : Nat) (f : QdCh → QdCh) (r : Nat) : (s.modQd k f).word r = s.word r := rfl
@[simp] theorem State.fld_modQd (k : Nat) (g : QdCh → QdCh) (f : Fld) : (s.modQd k g).fld f = s.fld f := rfl
@[simp] theorem State.flag_modQd (k : Nat) (g : QdCh → QdCh) (f : Fld) : (s.modQd k g).flag f = s.flag f := rfl

@[simp] theorem State.part_modSn (k : Nat) (f : SnCh → SnCh) : (s.modSn k f).part = s.part := rfl
@[simp] theorem State.regs_modSn (k : Nat) (f : SnCh → SnCh) : (s.modSn k f).regs = s.regs := rfl
@[simp] theorem State.waiting_modSn (k : Nat) (f : SnCh → SnCh) : (s.modSn k f).waiting = s.waiting := rfl
@[simp] theorem State.latched_modSn (k : Nat) (f : SnCh → SnCh) : (s.modSn k f).latched = s.latched := rfl
@[simp] theorem State.clk_modSn (k : Nat) (f : SnCh → SnCh) : (s.modSn k f).clk = s.clk := rfl
@[simp] theorem State.sys_modSn (k : Nat) (f : SnCh → SnCh) : (s.modSn k f).sys = s.sys := rfl
@[simp] theorem State.keep_modSn (k : Nat) (f : SnCh → SnCh) : (s.modSn k f).keep = s.keep := rfl
@[simp] theorem State.reel_modSn (k : Nat) (f : SnCh → SnCh) : (s.modSn k f).reel = s.reel := rfl
@[simp] theorem State.engs_modSn (k : Nat) (f : SnCh → SnCh) : (s.modSn k f).engs = s.engs := rfl
@[simp] theorem State.intg_modSn (k : Nat) (f : SnCh → SnCh) : (s.modSn k f).intg = s.intg := rfl
@[simp] theorem State.mgt_modSn (k : Nat) (f : SnCh → SnCh) : (s.modSn k f).mgt = s.mgt := rfl
@[simp] theorem State.can_modSn (k : Nat) (f : SnCh → SnCh) : (s.modSn k f).can = s.can := rfl
@[simp] theorem State.mem_modSn (k : Nat) (f : SnCh → SnCh) : (s.modSn k f).mem = s.mem := rfl
@[simp] theorem State.spi_modSn (k : Nat) (f : SnCh → SnCh) : (s.modSn k f).spi = s.spi := rfl
@[simp] theorem State.mods_modSn (k : Nat) (f : SnCh → SnCh) : (s.modSn k f).mods = s.mods := rfl
@[simp] theorem State.modg_modSn (k : Nat) (f : SnCh → SnCh) : (s.modSn k f).modg = s.modg := rfl
@[simp] theorem State.pwr_modSn (k : Nat) (f : SnCh → SnCh) : (s.modSn k f).pwr = s.pwr := rfl
@[simp] theorem State.adc_modSn (k : Nat) (f : SnCh → SnCh) : (s.modSn k f).adc = s.adc := rfl
@[simp] theorem State.mots_modSn (k : Nat) (f : SnCh → SnCh) : (s.modSn k f).mots = s.mots := rfl
@[simp] theorem State.chn_modSn (k : Nat) (f : SnCh → SnCh) : (s.modSn k f).chn = s.chn := rfl
@[simp] theorem State.queues_modSn (k : Nat) (f : SnCh → SnCh) : (s.modSn k f).queues = s.queues := rfl
@[simp] theorem State.flash_modSn (k : Nat) (f : SnCh → SnCh) : (s.modSn k f).flash = s.flash := rfl
@[simp] theorem State.flashFlaws_modSn (k : Nat) (f : SnCh → SnCh) : (s.modSn k f).flashFlaws = s.flashFlaws := rfl
@[simp] theorem State.drawn_modSn (k : Nat) (f : SnCh → SnCh) : (s.modSn k f).drawn = s.drawn := rfl
@[simp] theorem State.pending_modSn (k : Nat) (f : SnCh → SnCh) : (s.modSn k f).pending = s.pending := rfl

@[simp] theorem State.word_modSn (k : Nat) (f : SnCh → SnCh) (r : Nat) : (s.modSn k f).word r = s.word r := rfl
@[simp] theorem State.fld_modSn (k : Nat) (g : SnCh → SnCh) (f : Fld) : (s.modSn k g).fld f = s.fld f := rfl
@[simp] theorem State.flag_modSn (k : Nat) (g : SnCh → SnCh) (f : Fld) : (s.modSn k g).flag f = s.flag f := rfl

@[simp] theorem State.part_modEe (e : Nat) (f : EeCh → EeCh) : (s.modEe e f).part = s.part := rfl
@[simp] theorem State.regs_modEe (e : Nat) (f : EeCh → EeCh) : (s.modEe e f).regs = s.regs := rfl
@[simp] theorem State.waiting_modEe (e : Nat) (f : EeCh → EeCh) : (s.modEe e f).waiting = s.waiting := rfl
@[simp] theorem State.latched_modEe (e : Nat) (f : EeCh → EeCh) : (s.modEe e f).latched = s.latched := rfl
@[simp] theorem State.clk_modEe (e : Nat) (f : EeCh → EeCh) : (s.modEe e f).clk = s.clk := rfl
@[simp] theorem State.sys_modEe (e : Nat) (f : EeCh → EeCh) : (s.modEe e f).sys = s.sys := rfl
@[simp] theorem State.keep_modEe (e : Nat) (f : EeCh → EeCh) : (s.modEe e f).keep = s.keep := rfl
@[simp] theorem State.reel_modEe (e : Nat) (f : EeCh → EeCh) : (s.modEe e f).reel = s.reel := rfl
@[simp] theorem State.engs_modEe (e : Nat) (f : EeCh → EeCh) : (s.modEe e f).engs = s.engs := rfl
@[simp] theorem State.intg_modEe (e : Nat) (f : EeCh → EeCh) : (s.modEe e f).intg = s.intg := rfl
@[simp] theorem State.mgt_modEe (e : Nat) (f : EeCh → EeCh) : (s.modEe e f).mgt = s.mgt := rfl
@[simp] theorem State.can_modEe (e : Nat) (f : EeCh → EeCh) : (s.modEe e f).can = s.can := rfl
@[simp] theorem State.mem_modEe (e : Nat) (f : EeCh → EeCh) : (s.modEe e f).mem = s.mem := rfl
@[simp] theorem State.spi_modEe (e : Nat) (f : EeCh → EeCh) : (s.modEe e f).spi = s.spi := rfl
@[simp] theorem State.mods_modEe (e : Nat) (f : EeCh → EeCh) : (s.modEe e f).mods = s.mods := rfl
@[simp] theorem State.modg_modEe (e : Nat) (f : EeCh → EeCh) : (s.modEe e f).modg = s.modg := rfl
@[simp] theorem State.pwr_modEe (e : Nat) (f : EeCh → EeCh) : (s.modEe e f).pwr = s.pwr := rfl
@[simp] theorem State.adc_modEe (e : Nat) (f : EeCh → EeCh) : (s.modEe e f).adc = s.adc := rfl
@[simp] theorem State.mots_modEe (e : Nat) (f : EeCh → EeCh) : (s.modEe e f).mots = s.mots := rfl
@[simp] theorem State.chn_modEe (e : Nat) (f : EeCh → EeCh) : (s.modEe e f).chn = s.chn := rfl
@[simp] theorem State.queues_modEe (e : Nat) (f : EeCh → EeCh) : (s.modEe e f).queues = s.queues := rfl
@[simp] theorem State.flash_modEe (e : Nat) (f : EeCh → EeCh) : (s.modEe e f).flash = s.flash := rfl
@[simp] theorem State.flashFlaws_modEe (e : Nat) (f : EeCh → EeCh) : (s.modEe e f).flashFlaws = s.flashFlaws := rfl
@[simp] theorem State.drawn_modEe (e : Nat) (f : EeCh → EeCh) : (s.modEe e f).drawn = s.drawn := rfl
@[simp] theorem State.pending_modEe (e : Nat) (f : EeCh → EeCh) : (s.modEe e f).pending = s.pending := rfl

@[simp] theorem State.word_modEe (e : Nat) (f : EeCh → EeCh) (r : Nat) : (s.modEe e f).word r = s.word r := rfl
@[simp] theorem State.fld_modEe (e : Nat) (g : EeCh → EeCh) (f : Fld) : (s.modEe e g).fld f = s.fld f := rfl
@[simp] theorem State.flag_modEe (e : Nat) (g : EeCh → EeCh) (f : Fld) : (s.modEe e g).flag f = s.flag f := rfl

@[simp] theorem State.part_modCore (k : Nat) (f : AdcCore → AdcCore) : (s.modCore k f).part = s.part := rfl
@[simp] theorem State.regs_modCore (k : Nat) (f : AdcCore → AdcCore) : (s.modCore k f).regs = s.regs := rfl
@[simp] theorem State.waiting_modCore (k : Nat) (f : AdcCore → AdcCore) : (s.modCore k f).waiting = s.waiting := rfl
@[simp] theorem State.latched_modCore (k : Nat) (f : AdcCore → AdcCore) : (s.modCore k f).latched = s.latched := rfl
@[simp] theorem State.clk_modCore (k : Nat) (f : AdcCore → AdcCore) : (s.modCore k f).clk = s.clk := rfl
@[simp] theorem State.sys_modCore (k : Nat) (f : AdcCore → AdcCore) : (s.modCore k f).sys = s.sys := rfl
@[simp] theorem State.keep_modCore (k : Nat) (f : AdcCore → AdcCore) : (s.modCore k f).keep = s.keep := rfl
@[simp] theorem State.reel_modCore (k : Nat) (f : AdcCore → AdcCore) : (s.modCore k f).reel = s.reel := rfl
@[simp] theorem State.engs_modCore (k : Nat) (f : AdcCore → AdcCore) : (s.modCore k f).engs = s.engs := rfl
@[simp] theorem State.intg_modCore (k : Nat) (f : AdcCore → AdcCore) : (s.modCore k f).intg = s.intg := rfl
@[simp] theorem State.mgt_modCore (k : Nat) (f : AdcCore → AdcCore) : (s.modCore k f).mgt = s.mgt := rfl
@[simp] theorem State.can_modCore (k : Nat) (f : AdcCore → AdcCore) : (s.modCore k f).can = s.can := rfl
@[simp] theorem State.mem_modCore (k : Nat) (f : AdcCore → AdcCore) : (s.modCore k f).mem = s.mem := rfl
@[simp] theorem State.spi_modCore (k : Nat) (f : AdcCore → AdcCore) : (s.modCore k f).spi = s.spi := rfl
@[simp] theorem State.mods_modCore (k : Nat) (f : AdcCore → AdcCore) : (s.modCore k f).mods = s.mods := rfl
@[simp] theorem State.modg_modCore (k : Nat) (f : AdcCore → AdcCore) : (s.modCore k f).modg = s.modg := rfl
@[simp] theorem State.pwr_modCore (k : Nat) (f : AdcCore → AdcCore) : (s.modCore k f).pwr = s.pwr := rfl
@[simp] theorem State.pos_modCore (k : Nat) (f : AdcCore → AdcCore) : (s.modCore k f).pos = s.pos := rfl
@[simp] theorem State.mots_modCore (k : Nat) (f : AdcCore → AdcCore) : (s.modCore k f).mots = s.mots := rfl
@[simp] theorem State.chn_modCore (k : Nat) (f : AdcCore → AdcCore) : (s.modCore k f).chn = s.chn := rfl
@[simp] theorem State.queues_modCore (k : Nat) (f : AdcCore → AdcCore) : (s.modCore k f).queues = s.queues := rfl
@[simp] theorem State.flash_modCore (k : Nat) (f : AdcCore → AdcCore) : (s.modCore k f).flash = s.flash := rfl
@[simp] theorem State.flashFlaws_modCore (k : Nat) (f : AdcCore → AdcCore) : (s.modCore k f).flashFlaws = s.flashFlaws := rfl
@[simp] theorem State.drawn_modCore (k : Nat) (f : AdcCore → AdcCore) : (s.modCore k f).drawn = s.drawn := rfl
@[simp] theorem State.pending_modCore (k : Nat) (f : AdcCore → AdcCore) : (s.modCore k f).pending = s.pending := rfl

@[simp] theorem State.word_modCore (k : Nat) (f : AdcCore → AdcCore) (r : Nat) : (s.modCore k f).word r = s.word r := rfl
@[simp] theorem State.fld_modCore (k : Nat) (g : AdcCore → AdcCore) (f : Fld) : (s.modCore k g).fld f = s.fld f := rfl
@[simp] theorem State.flag_modCore (k : Nat) (g : AdcCore → AdcCore) (f : Fld) : (s.modCore k g).flag f = s.flag f := rfl

@[simp] theorem State.part_modUnit (u : Nat) (f : AdcUnit → AdcUnit) : (s.modUnit u f).part = s.part := rfl
@[simp] theorem State.regs_modUnit (u : Nat) (f : AdcUnit → AdcUnit) : (s.modUnit u f).regs = s.regs := rfl
@[simp] theorem State.waiting_modUnit (u : Nat) (f : AdcUnit → AdcUnit) : (s.modUnit u f).waiting = s.waiting := rfl
@[simp] theorem State.latched_modUnit (u : Nat) (f : AdcUnit → AdcUnit) : (s.modUnit u f).latched = s.latched := rfl
@[simp] theorem State.clk_modUnit (u : Nat) (f : AdcUnit → AdcUnit) : (s.modUnit u f).clk = s.clk := rfl
@[simp] theorem State.sys_modUnit (u : Nat) (f : AdcUnit → AdcUnit) : (s.modUnit u f).sys = s.sys := rfl
@[simp] theorem State.keep_modUnit (u : Nat) (f : AdcUnit → AdcUnit) : (s.modUnit u f).keep = s.keep := rfl
@[simp] theorem State.reel_modUnit (u : Nat) (f : AdcUnit → AdcUnit) : (s.modUnit u f).reel = s.reel := rfl
@[simp] theorem State.engs_modUnit (u : Nat) (f : AdcUnit → AdcUnit) : (s.modUnit u f).engs = s.engs := rfl
@[simp] theorem State.intg_modUnit (u : Nat) (f : AdcUnit → AdcUnit) : (s.modUnit u f).intg = s.intg := rfl
@[simp] theorem State.mgt_modUnit (u : Nat) (f : AdcUnit → AdcUnit) : (s.modUnit u f).mgt = s.mgt := rfl
@[simp] theorem State.can_modUnit (u : Nat) (f : AdcUnit → AdcUnit) : (s.modUnit u f).can = s.can := rfl
@[simp] theorem State.mem_modUnit (u : Nat) (f : AdcUnit → AdcUnit) : (s.modUnit u f).mem = s.mem := rfl
@[simp] theorem State.spi_modUnit (u : Nat) (f : AdcUnit → AdcUnit) : (s.modUnit u f).spi = s.spi := rfl
@[simp] theorem State.mods_modUnit (u : Nat) (f : AdcUnit → AdcUnit) : (s.modUnit u f).mods = s.mods := rfl
@[simp] theorem State.modg_modUnit (u : Nat) (f : AdcUnit → AdcUnit) : (s.modUnit u f).modg = s.modg := rfl
@[simp] theorem State.pwr_modUnit (u : Nat) (f : AdcUnit → AdcUnit) : (s.modUnit u f).pwr = s.pwr := rfl
@[simp] theorem State.pos_modUnit (u : Nat) (f : AdcUnit → AdcUnit) : (s.modUnit u f).pos = s.pos := rfl
@[simp] theorem State.mots_modUnit (u : Nat) (f : AdcUnit → AdcUnit) : (s.modUnit u f).mots = s.mots := rfl
@[simp] theorem State.chn_modUnit (u : Nat) (f : AdcUnit → AdcUnit) : (s.modUnit u f).chn = s.chn := rfl
@[simp] theorem State.queues_modUnit (u : Nat) (f : AdcUnit → AdcUnit) : (s.modUnit u f).queues = s.queues := rfl
@[simp] theorem State.flash_modUnit (u : Nat) (f : AdcUnit → AdcUnit) : (s.modUnit u f).flash = s.flash := rfl
@[simp] theorem State.flashFlaws_modUnit (u : Nat) (f : AdcUnit → AdcUnit) : (s.modUnit u f).flashFlaws = s.flashFlaws := rfl
@[simp] theorem State.drawn_modUnit (u : Nat) (f : AdcUnit → AdcUnit) : (s.modUnit u f).drawn = s.drawn := rfl
@[simp] theorem State.pending_modUnit (u : Nat) (f : AdcUnit → AdcUnit) : (s.modUnit u f).pending = s.pending := rfl

@[simp] theorem State.word_modUnit (u : Nat) (f : AdcUnit → AdcUnit) (r : Nat) : (s.modUnit u f).word r = s.word r := rfl
@[simp] theorem State.fld_modUnit (u : Nat) (g : AdcUnit → AdcUnit) (f : Fld) : (s.modUnit u g).fld f = s.fld f := rfl
@[simp] theorem State.flag_modUnit (u : Nat) (g : AdcUnit → AdcUnit) (f : Fld) : (s.modUnit u g).flag f = s.flag f := rfl

@[simp] theorem State.part_modTb (i : Nat) (f : CanBuf → CanBuf) : (s.modTb i f).part = s.part := rfl
@[simp] theorem State.regs_modTb (i : Nat) (f : CanBuf → CanBuf) : (s.modTb i f).regs = s.regs := rfl
@[simp] theorem State.waiting_modTb (i : Nat) (f : CanBuf → CanBuf) : (s.modTb i f).waiting = s.waiting := rfl
@[simp] theorem State.latched_modTb (i : Nat) (f : CanBuf → CanBuf) : (s.modTb i f).latched = s.latched := rfl
@[simp] theorem State.clk_modTb (i : Nat) (f : CanBuf → CanBuf) : (s.modTb i f).clk = s.clk := rfl
@[simp] theorem State.sys_modTb (i : Nat) (f : CanBuf → CanBuf) : (s.modTb i f).sys = s.sys := rfl
@[simp] theorem State.keep_modTb (i : Nat) (f : CanBuf → CanBuf) : (s.modTb i f).keep = s.keep := rfl
@[simp] theorem State.reel_modTb (i : Nat) (f : CanBuf → CanBuf) : (s.modTb i f).reel = s.reel := rfl
@[simp] theorem State.engs_modTb (i : Nat) (f : CanBuf → CanBuf) : (s.modTb i f).engs = s.engs := rfl
@[simp] theorem State.intg_modTb (i : Nat) (f : CanBuf → CanBuf) : (s.modTb i f).intg = s.intg := rfl
@[simp] theorem State.mgt_modTb (i : Nat) (f : CanBuf → CanBuf) : (s.modTb i f).mgt = s.mgt := rfl
@[simp] theorem State.mem_modTb (i : Nat) (f : CanBuf → CanBuf) : (s.modTb i f).mem = s.mem := rfl
@[simp] theorem State.spi_modTb (i : Nat) (f : CanBuf → CanBuf) : (s.modTb i f).spi = s.spi := rfl
@[simp] theorem State.mods_modTb (i : Nat) (f : CanBuf → CanBuf) : (s.modTb i f).mods = s.mods := rfl
@[simp] theorem State.modg_modTb (i : Nat) (f : CanBuf → CanBuf) : (s.modTb i f).modg = s.modg := rfl
@[simp] theorem State.pwr_modTb (i : Nat) (f : CanBuf → CanBuf) : (s.modTb i f).pwr = s.pwr := rfl
@[simp] theorem State.adc_modTb (i : Nat) (f : CanBuf → CanBuf) : (s.modTb i f).adc = s.adc := rfl
@[simp] theorem State.pos_modTb (i : Nat) (f : CanBuf → CanBuf) : (s.modTb i f).pos = s.pos := rfl
@[simp] theorem State.mots_modTb (i : Nat) (f : CanBuf → CanBuf) : (s.modTb i f).mots = s.mots := rfl
@[simp] theorem State.chn_modTb (i : Nat) (f : CanBuf → CanBuf) : (s.modTb i f).chn = s.chn := rfl
@[simp] theorem State.queues_modTb (i : Nat) (f : CanBuf → CanBuf) : (s.modTb i f).queues = s.queues := rfl
@[simp] theorem State.flash_modTb (i : Nat) (f : CanBuf → CanBuf) : (s.modTb i f).flash = s.flash := rfl
@[simp] theorem State.flashFlaws_modTb (i : Nat) (f : CanBuf → CanBuf) : (s.modTb i f).flashFlaws = s.flashFlaws := rfl
@[simp] theorem State.drawn_modTb (i : Nat) (f : CanBuf → CanBuf) : (s.modTb i f).drawn = s.drawn := rfl
@[simp] theorem State.pending_modTb (i : Nat) (f : CanBuf → CanBuf) : (s.modTb i f).pending = s.pending := rfl

@[simp] theorem State.word_modTb (i : Nat) (f : CanBuf → CanBuf) (r : Nat) : (s.modTb i f).word r = s.word r := rfl
@[simp] theorem State.fld_modTb (i : Nat) (g : CanBuf → CanBuf) (f : Fld) : (s.modTb i g).fld f = s.fld f := rfl
@[simp] theorem State.flag_modTb (i : Nat) (g : CanBuf → CanBuf) (f : Fld) : (s.modTb i g).flag f = s.flag f := rfl

@[simp] theorem State.part_modStore (m : Nat) (f : MapStore → MapStore) : (s.modStore m f).part = s.part := rfl
@[simp] theorem State.regs_modStore (m : Nat) (f : MapStore → MapStore) : (s.modStore m f).regs = s.regs := rfl
@[simp] theorem State.waiting_modStore (m : Nat) (f : MapStore → MapStore) : (s.modStore m f).waiting = s.waiting := rfl
@[simp] theorem State.latched_modStore (m : Nat) (f : MapStore → MapStore) : (s.modStore m f).latched = s.latched := rfl
@[simp] theorem State.clk_modStore (m : Nat) (f : MapStore → MapStore) : (s.modStore m f).clk = s.clk := rfl
@[simp] theorem State.sys_modStore (m : Nat) (f : MapStore → MapStore) : (s.modStore m f).sys = s.sys := rfl
@[simp] theorem State.keep_modStore (m : Nat) (f : MapStore → MapStore) : (s.modStore m f).keep = s.keep := rfl
@[simp] theorem State.reel_modStore (m : Nat) (f : MapStore → MapStore) : (s.modStore m f).reel = s.reel := rfl
@[simp] theorem State.engs_modStore (m : Nat) (f : MapStore → MapStore) : (s.modStore m f).engs = s.engs := rfl
@[simp] theorem State.intg_modStore (m : Nat) (f : MapStore → MapStore) : (s.modStore m f).intg = s.intg := rfl
@[simp] theorem State.mgt_modStore (m : Nat) (f : MapStore → MapStore) : (s.modStore m f).mgt = s.mgt := rfl
@[simp] theorem State.mem_modStore (m : Nat) (f : MapStore → MapStore) : (s.modStore m f).mem = s.mem := rfl
@[simp] theorem State.spi_modStore (m : Nat) (f : MapStore → MapStore) : (s.modStore m f).spi = s.spi := rfl
@[simp] theorem State.mods_modStore (m : Nat) (f : MapStore → MapStore) : (s.modStore m f).mods = s.mods := rfl
@[simp] theorem State.modg_modStore (m : Nat) (f : MapStore → MapStore) : (s.modStore m f).modg = s.modg := rfl
@[simp] theorem State.pwr_modStore (m : Nat) (f : MapStore → MapStore) : (s.modStore m f).pwr = s.pwr := rfl
@[simp] theorem State.adc_modStore (m : Nat) (f : MapStore → MapStore) : (s.modStore m f).adc = s.adc := rfl
@[simp] theorem State.pos_modStore (m : Nat) (f : MapStore → MapStore) : (s.modStore m f).pos = s.pos := rfl
@[simp] theorem State.mots_modStore (m : Nat) (f : MapStore → MapStore) : (s.modStore m f).mots = s.mots := rfl
@[simp] theorem State.chn_modStore (m : Nat) (f : MapStore → MapStore) : (s.modStore m f).chn = s.chn := rfl
@[simp] theorem State.queues_modStore (m : Nat) (f : MapStore → MapStore) : (s.modStore m f).queues = s.queues := rfl
@[simp] theorem State.flash_modStore (m : Nat) (f : MapStore → MapStore) : (s.modStore m f).flash = s.flash := rfl
@[simp] theorem State.flashFlaws_modStore (m : Nat) (f : MapStore → MapStore) : (s.modStore m f).flashFlaws = s.flashFlaws := rfl
@[simp] theorem State.drawn_modStore (m : Nat) (f : MapStore → MapStore) : (s.modStore m f).drawn = s.drawn := rfl
@[simp] theorem State.pending_modStore (m : Nat) (f : MapStore → MapStore) : (s.modStore m f).pending = s.pending := rfl

@[simp] theorem State.word_modStore (m : Nat) (f : MapStore → MapStore) (r : Nat) : (s.modStore m f).word r = s.word r := rfl
@[simp] theorem State.fld_modStore (m : Nat) (g : MapStore → MapStore) (f : Fld) : (s.modStore m g).fld f = s.fld f := rfl
@[simp] theorem State.flag_modStore (m : Nat) (g : MapStore → MapStore) (f : Fld) : (s.modStore m g).flag f = s.flag f := rfl

@[simp] theorem State.part_modChDev (k : Nat) (f : ChnDev → ChnDev) : (s.modChDev k f).part = s.part := rfl
@[simp] theorem State.regs_modChDev (k : Nat) (f : ChnDev → ChnDev) : (s.modChDev k f).regs = s.regs := rfl
@[simp] theorem State.waiting_modChDev (k : Nat) (f : ChnDev → ChnDev) : (s.modChDev k f).waiting = s.waiting := rfl
@[simp] theorem State.latched_modChDev (k : Nat) (f : ChnDev → ChnDev) : (s.modChDev k f).latched = s.latched := rfl
@[simp] theorem State.clk_modChDev (k : Nat) (f : ChnDev → ChnDev) : (s.modChDev k f).clk = s.clk := rfl
@[simp] theorem State.sys_modChDev (k : Nat) (f : ChnDev → ChnDev) : (s.modChDev k f).sys = s.sys := rfl
@[simp] theorem State.keep_modChDev (k : Nat) (f : ChnDev → ChnDev) : (s.modChDev k f).keep = s.keep := rfl
@[simp] theorem State.reel_modChDev (k : Nat) (f : ChnDev → ChnDev) : (s.modChDev k f).reel = s.reel := rfl
@[simp] theorem State.engs_modChDev (k : Nat) (f : ChnDev → ChnDev) : (s.modChDev k f).engs = s.engs := rfl
@[simp] theorem State.intg_modChDev (k : Nat) (f : ChnDev → ChnDev) : (s.modChDev k f).intg = s.intg := rfl
@[simp] theorem State.mgt_modChDev (k : Nat) (f : ChnDev → ChnDev) : (s.modChDev k f).mgt = s.mgt := rfl
@[simp] theorem State.can_modChDev (k : Nat) (f : ChnDev → ChnDev) : (s.modChDev k f).can = s.can := rfl
@[simp] theorem State.mem_modChDev (k : Nat) (f : ChnDev → ChnDev) : (s.modChDev k f).mem = s.mem := rfl
@[simp] theorem State.spi_modChDev (k : Nat) (f : ChnDev → ChnDev) : (s.modChDev k f).spi = s.spi := rfl
@[simp] theorem State.mods_modChDev (k : Nat) (f : ChnDev → ChnDev) : (s.modChDev k f).mods = s.mods := rfl
@[simp] theorem State.modg_modChDev (k : Nat) (f : ChnDev → ChnDev) : (s.modChDev k f).modg = s.modg := rfl
@[simp] theorem State.pwr_modChDev (k : Nat) (f : ChnDev → ChnDev) : (s.modChDev k f).pwr = s.pwr := rfl
@[simp] theorem State.adc_modChDev (k : Nat) (f : ChnDev → ChnDev) : (s.modChDev k f).adc = s.adc := rfl
@[simp] theorem State.pos_modChDev (k : Nat) (f : ChnDev → ChnDev) : (s.modChDev k f).pos = s.pos := rfl
@[simp] theorem State.mots_modChDev (k : Nat) (f : ChnDev → ChnDev) : (s.modChDev k f).mots = s.mots := rfl
@[simp] theorem State.queues_modChDev (k : Nat) (f : ChnDev → ChnDev) : (s.modChDev k f).queues = s.queues := rfl
@[simp] theorem State.flash_modChDev (k : Nat) (f : ChnDev → ChnDev) : (s.modChDev k f).flash = s.flash := rfl
@[simp] theorem State.flashFlaws_modChDev (k : Nat) (f : ChnDev → ChnDev) : (s.modChDev k f).flashFlaws = s.flashFlaws := rfl
@[simp] theorem State.drawn_modChDev (k : Nat) (f : ChnDev → ChnDev) : (s.modChDev k f).drawn = s.drawn := rfl
@[simp] theorem State.pending_modChDev (k : Nat) (f : ChnDev → ChnDev) : (s.modChDev k f).pending = s.pending := rfl

@[simp] theorem State.word_modChDev (k : Nat) (f : ChnDev → ChnDev) (r : Nat) : (s.modChDev k f).word r = s.word r := rfl
@[simp] theorem State.fld_modChDev (k : Nat) (g : ChnDev → ChnDev) (f : Fld) : (s.modChDev k g).fld f = s.fld f := rfl
@[simp] theorem State.flag_modChDev (k : Nat) (g : ChnDev → ChnDev) (f : Fld) : (s.modChDev k g).flag f = s.flag f := rfl

@[simp] theorem State.part_outcome (code : Nat) : (s.outcome code).part = s.part := rfl
@[simp] theorem State.regs_outcome (code : Nat) : (s.outcome code).regs = s.regs := rfl
@[simp] theorem State.waiting_outcome (code : Nat) : (s.outcome code).waiting = s.waiting := rfl
@[simp] theorem State.latched_outcome (code : Nat) : (s.outcome code).latched = s.latched := rfl
@[simp] theorem State.clk_outcome (code : Nat) : (s.outcome code).clk = s.clk := rfl
@[simp] theorem State.sys_outcome (code : Nat) : (s.outcome code).sys = s.sys := rfl
@[simp] theorem State.keep_outcome (code : Nat) : (s.outcome code).keep = s.keep := rfl
@[simp] theorem State.reel_outcome (code : Nat) : (s.outcome code).reel = s.reel := rfl
@[simp] theorem State.engs_outcome (code : Nat) : (s.outcome code).engs = s.engs := rfl
@[simp] theorem State.intg_outcome (code : Nat) : (s.outcome code).intg = s.intg := rfl
@[simp] theorem State.mgt_outcome (code : Nat) : (s.outcome code).mgt = s.mgt := rfl
@[simp] theorem State.can_outcome (code : Nat) : (s.outcome code).can = s.can := rfl
@[simp] theorem State.mem_outcome (code : Nat) : (s.outcome code).mem = s.mem := rfl
@[simp] theorem State.mods_outcome (code : Nat) : (s.outcome code).mods = s.mods := rfl
@[simp] theorem State.modg_outcome (code : Nat) : (s.outcome code).modg = s.modg := rfl
@[simp] theorem State.pwr_outcome (code : Nat) : (s.outcome code).pwr = s.pwr := rfl
@[simp] theorem State.adc_outcome (code : Nat) : (s.outcome code).adc = s.adc := rfl
@[simp] theorem State.pos_outcome (code : Nat) : (s.outcome code).pos = s.pos := rfl
@[simp] theorem State.mots_outcome (code : Nat) : (s.outcome code).mots = s.mots := rfl
@[simp] theorem State.chn_outcome (code : Nat) : (s.outcome code).chn = s.chn := rfl
@[simp] theorem State.queues_outcome (code : Nat) : (s.outcome code).queues = s.queues := rfl
@[simp] theorem State.flash_outcome (code : Nat) : (s.outcome code).flash = s.flash := rfl
@[simp] theorem State.flashFlaws_outcome (code : Nat) : (s.outcome code).flashFlaws = s.flashFlaws := rfl
@[simp] theorem State.drawn_outcome (code : Nat) : (s.outcome code).drawn = s.drawn := rfl
@[simp] theorem State.pending_outcome (code : Nat) : (s.outcome code).pending = s.pending := rfl

@[simp] theorem State.word_outcome (code : Nat) (r : Nat) : (s.outcome code).word r = s.word r := rfl
@[simp] theorem State.fld_outcome (code : Nat) (f : Fld) : (s.outcome code).fld f = s.fld f := rfl
@[simp] theorem State.flag_outcome (code : Nat) (f : Fld) : (s.outcome code).flag f = s.flag f := rfl

@[simp] theorem State.part_settle  : (s.settle).part = s.part := rfl
@[simp] theorem State.regs_settle  : (s.settle).regs = s.regs := rfl
@[simp] theorem State.waiting_settle  : (s.settle).waiting = s.waiting := rfl
@[simp] theorem State.latched_settle  : (s.settle).latched = s.latched := rfl
@[simp] theorem State.clk_settle  : (s.settle).clk = s.clk := rfl
@[simp] theorem State.sys_settle  : (s.settle).sys = s.sys := rfl
@[simp] theorem State.keep_settle  : (s.settle).keep = s.keep := rfl
@[simp] theorem State.reel_settle  : (s.settle).reel = s.reel := rfl
@[simp] theorem State.engs_settle  : (s.settle).engs = s.engs := rfl
@[simp] theorem State.mgt_settle  : (s.settle).mgt = s.mgt := rfl
@[simp] theorem State.can_settle  : (s.settle).can = s.can := rfl
@[simp] theorem State.mem_settle  : (s.settle).mem = s.mem := rfl
@[simp] theorem State.spi_settle  : (s.settle).spi = s.spi := rfl
@[simp] theorem State.mods_settle  : (s.settle).mods = s.mods := rfl
@[simp] theorem State.modg_settle  : (s.settle).modg = s.modg := rfl
@[simp] theorem State.pwr_settle  : (s.settle).pwr = s.pwr := rfl
@[simp] theorem State.adc_settle  : (s.settle).adc = s.adc := rfl
@[simp] theorem State.pos_settle  : (s.settle).pos = s.pos := rfl
@[simp] theorem State.mots_settle  : (s.settle).mots = s.mots := rfl
@[simp] theorem State.chn_settle  : (s.settle).chn = s.chn := rfl
@[simp] theorem State.queues_settle  : (s.settle).queues = s.queues := rfl
@[simp] theorem State.flash_settle  : (s.settle).flash = s.flash := rfl
@[simp] theorem State.flashFlaws_settle  : (s.settle).flashFlaws = s.flashFlaws := rfl
@[simp] theorem State.drawn_settle  : (s.settle).drawn = s.drawn := rfl
@[simp] theorem State.pending_settle  : (s.settle).pending = s.pending := rfl

@[simp] theorem State.word_settle (r : Nat) : (s.settle).word r = s.word r := rfl
@[simp] theorem State.fld_settle (f : Fld) : (s.settle).fld f = s.fld f := rfl
@[simp] theorem State.flag_settle (f : Fld) : (s.settle).flag f = s.flag f := rfl

@[simp] theorem State.part_withPending (l : List Instr) : (s.withPending l).part = s.part := rfl
@[simp] theorem State.regs_withPending (l : List Instr) : (s.withPending l).regs = s.regs := rfl
@[simp] theorem State.waiting_withPending (l : List Instr) : (s.withPending l).waiting = s.waiting := rfl
@[simp] theorem State.latched_withPending (l : List Instr) : (s.withPending l).latched = s.latched := rfl
@[simp] theorem State.clk_withPending (l : List Instr) : (s.withPending l).clk = s.clk := rfl
@[simp] theorem State.sys_withPending (l : List Instr) : (s.withPending l).sys = s.sys := rfl
@[simp] theorem State.keep_withPending (l : List Instr) : (s.withPending l).keep = s.keep := rfl
@[simp] theorem State.reel_withPending (l : List Instr) : (s.withPending l).reel = s.reel := rfl
@[simp] theorem State.engs_withPending (l : List Instr) : (s.withPending l).engs = s.engs := rfl
@[simp] theorem State.intg_withPending (l : List Instr) : (s.withPending l).intg = s.intg := rfl
@[simp] theorem State.mgt_withPending (l : List Instr) : (s.withPending l).mgt = s.mgt := rfl
@[simp] theorem State.can_withPending (l : List Instr) : (s.withPending l).can = s.can := rfl
@[simp] theorem State.mem_withPending (l : List Instr) : (s.withPending l).mem = s.mem := rfl
@[simp] theorem State.spi_withPending (l : List Instr) : (s.withPending l).spi = s.spi := rfl
@[simp] theorem State.mods_withPending (l : List Instr) : (s.withPending l).mods = s.mods := rfl
@[simp] theorem State.modg_withPending (l : List Instr) : (s.withPending l).modg = s.modg := rfl
@[simp] theorem State.pwr_withPending (l : List Instr) : (s.withPending l).pwr = s.pwr := rfl
@[simp] theorem State.adc_withPending (l : List Instr) : (s.withPending l).adc = s.adc := rfl
@[simp] theorem State.pos_withPending (l : List Instr) : (s.withPending l).pos = s.pos := rfl
@[simp] theorem State.mots_withPending (l : List Instr) : (s.withPending l).mots = s.mots := rfl
@[simp] theorem State.chn_withPending (l : List Instr) : (s.withPending l).chn = s.chn := rfl
@[simp] theorem State.queues_withPending (l : List Instr) : (s.withPending l).queues = s.queues := rfl
@[simp] theorem State.flash_withPending (l : List Instr) : (s.withPending l).flash = s.flash := rfl
@[simp] theorem State.flashFlaws_withPending (l : List Instr) : (s.withPending l).flashFlaws = s.flashFlaws := rfl
@[simp] theorem State.drawn_withPending (l : List Instr) : (s.withPending l).drawn = s.drawn := rfl

@[simp] theorem State.word_withPending (l : List Instr) (r : Nat) : (s.withPending l).word r = s.word r := rfl
@[simp] theorem State.fld_withPending (l : List Instr) (f : Fld) : (s.withPending l).fld f = s.fld f := rfl
@[simp] theorem State.flag_withPending (l : List Instr) (f : Fld) : (s.withPending l).flag f = s.flag f := rfl

end Sys2Proof.Machine
end

