-- ==== Sys2Proof/Laws/Runs.lean ====
section
/-!
SUPPORT. How a command comes to run: from a meaning and its frame to `Runs`, the reads of a record update written out, what
loops and conditions leave alone, and the run of a ready shot.
-/

-- One proof after the other: as one text the package would otherwise ask for more threads than there is memory for.
set_option Elab.async false

namespace Sys2Proof.Machine

/-- A meaning that acts on a powered block runs to the settled result of its effect. -/
theorem runs_of {i : Instr} {s : State} {l : List Field} {P : State → Prop} {f : State → State}
    (he : exec i s = whenPowered s f) (hp : s.powered = true)
    (hd : ∀ t, exec i s = .next t → Does l s t) (h : P (f s).settle) : Runs i s l P := by
  have e : exec i s = .next (f s).settle := by rw [he, whenPowered, if_pos hp]; rfl
  exact ⟨_, e, (hd _ e).1, h⟩

/-- A host access that is not held runs to the settled result of its effect. -/
theorem runs_host {i : Instr} {s : State} {l : List Field} {P : State → Prop} {f : State → State} {a v x}
    (he : exec i s = hostAccess s a v f x) (hp : s.hostOpen)
    (hd : ∀ t, exec i s = .next t → Does l s t) (h : P (f s).settle) : Runs i s l P := by
  refine runs_of he hp.1 hd ?_
  simp only [hp.2]; exact h

/-- A meaning that always acts runs to its settled result. -/
theorem runs_done {i : Instr} {s : State} {l : List Field} {P : State → Prop} {u : State}
    (he : exec i s = done u) (hd : ∀ t, exec i s = .next t → Does l s t) (h : P u.settle) : Runs i s l P :=
  ⟨_, he, (hd _ he).1, h⟩

@[simp] theorem when_true (s : State) (f : State → State) : s.when true f = f s := rfl
@[simp] theorem when_false (s : State) (f : State → State) : s.when false f = s := rfl

/-- The register at `a` of the register file `r`. -/
def rword (r : List (Nat × Word)) (a : Nat) : Word := Store.get regReset r a

/-- The field `f` of the register file `r`. -/
def rfld (r : List (Nat × Word)) (f : Fld) : Nat := f.of (rword r f.addr)

/-- The flag `f` of the register file `r`. -/
def rflag (r : List (Nat × Word)) (f : Fld) : Bool := rfld r f == 1
@[simp] theorem rword_regs (s : State) (a : Nat) : rword s.regs a = s.word a := rfl
@[simp] theorem rfld_regs (s : State) (f : Fld) : rfld s.regs f = s.fld f := rfl
@[simp] theorem rflag_regs (s : State) (f : Fld) : rflag s.regs f = s.flag f := rfl
@[simp] theorem word_mk (a b c d e f g h i j k l m n o p q r u v w x y z z2 z3 : _) (t : Nat) : State.word (State.mk a b c d e f g h i j k l m n o p q r u v w x y z z2 z3) t = rword b t := rfl
@[simp] theorem fld_mk (a b c d e f g h i j k l m n o p q r u v w x y z z2 z3 : _) (t : Fld) : State.fld (State.mk a b c d e f g h i j k l m n o p q r u v w x y z z2 z3) t = rfld b t := rfl
@[simp] theorem flag_mk (a b c d e f g h i j k l m n o p q r u v w x y z z2 z3 : _) (t : Fld) : State.flag (State.mk a b c d e f g h i j k l m n o p q r u v w x y z z2 z3) t = rflag b t := rfl

/-- The flag of the fault `c` of unit `u` in the register file `r`. -/
def rraised (r : List (Nat × Word)) (c u : Nat) : Bool := (rword r (faultReg (c / 256) u)).getLsbD (c % 256 - 1 + (if c / 256 = 0x12 then 16 else 0))
@[simp] theorem rraised_regs (s : State) (c u : Nat) : rraised s.regs c u = s.raised c u := rfl
@[simp] theorem raised_mk (a b c d e f g h i j k l m n o p q r u v w x y z z2 z3 : _) (t u' : Nat) : State.raised (State.mk a b c d e f g h i j k l m n o p q r u v w x y z z2 z3) t u' = rraised b t u' := rfl
@[simp] theorem raised_settle (s : State) (c u : Nat) : s.settle.raised c u = s.raised c u := rfl
@[simp] theorem fld_put_same' (s : State) (f : Fld) (v : Nat) (h : f.lo + f.w ≤ 32) : (s.put f v).fld f = v % 2 ^ f.w := s.fld_put_same f v h
@[simp] theorem flag_put_same' (s : State) (f : Fld) (v : Nat) (h : f.lo + f.w ≤ 32) : (s.put f v).flag f = (v % 2 ^ f.w == 1) := by
  unfold State.flag; rw [s.fld_put_same f v h]
@[simp] theorem fld_put_ne (s : State) (f g : Fld) (v : Nat) (h : g.addr ≠ f.addr ∨ g.lo + g.w ≤ f.lo ∨ f.lo + f.w ≤ g.lo) : (s.put f v).fld g = s.fld g := s.fld_put_other v h
@[simp] theorem flag_put_ne (s : State) (f g : Fld) (v : Nat) (h : g.addr ≠ f.addr ∨ g.lo + g.w ≤ f.lo ∨ f.lo + f.w ≤ g.lo) : (s.put f v).flag g = s.flag g := s.flag_put_other v h
@[simp] theorem word_put_ne (s : State) (f : Fld) (a : Nat) (v : Nat) (h : a ≠ f.addr) : (s.put f v).word a = s.word a := s.word_put_other v h
@[simp] theorem word_setWord_ne (s : State) (a b : Nat) (v) (h : b ≠ a) : (s.setWord a v).word b = s.word b := s.word_setWord_other v h
@[simp] theorem fld_setWord_ne (s : State) (a : Nat) (f : Fld) (v) (h : f.addr ≠ a) : (s.setWord a v).fld f = s.fld f := s.fld_setWord_other v h
@[simp] theorem flag_setWord_ne (s : State) (a : Nat) (f : Fld) (v) (h : f.addr ≠ a) : (s.setWord a v).flag f = s.flag f := by unfold State.flag; rw [s.fld_setWord_other v h]
@[simp] theorem raised_raise (s : State) (c u : Nat) (h : c % 256 ≤ 16 ∧ 1 ≤ c % 256) : (s.raise c u).raised c u = true := s.raise_raised c u h.1 h.2
@[simp] theorem raised_put (s : State) (f : Fld) (v c u : Nat) (h : faultReg (c / 256) u ≠ f.addr) : (s.put f v).raised c u = s.raised c u := by
  unfold State.raised; rw [s.word_put_other v h]
@[simp] theorem raised_raise' (s : State) (c u code unit : Nat) (h : s.raised c u = true) : (s.raise code unit).raised c u = true := s.raised_of_raise code unit h
@[simp] theorem raised_raise_when (s : State) (b : Bool) (c u code unit : Nat) (h : s.raised c u = true) : (s.when b (fun s => s.raise code unit)).raised c u = true := by
  unfold State.when; split
  · exact s.raised_of_raise code unit h
  · exact h
@[simp] theorem putBit_eq (s : State) (f : Fld) (i b) : s.putBit f i b = s.put ⟨f.addr, f.lo + i, 1⟩ b.toNat := rfl
@[simp] theorem bump_eq (s : State) (f : Fld) (n) : s.bump f n = s.put f (min (s.fld f + n) (2 ^ f.w - 1)) := rfl
@[simp] theorem incr_eq (s : State) (f : Fld) : s.incr f = s.put f (s.fld f + 1) := rfl
@[simp] theorem testBit_put_same (s : State) (f : Fld) (i v : Nat) (hi : i < f.w) (h : f.lo + f.w ≤ 32) : ((s.put ⟨f.addr, f.lo + i, 1⟩ v).fld f).testBit i = decide (v % 2 = 1) := by
  show (f.of _).testBit i = _
  rw [Fld.testBit_of]
  have e := s.word_put_same ⟨f.addr, f.lo + i, 1⟩ v
  simp only at e
  rw [e, Fld.getLsbD_into]
  have : f.lo + i < 32 := by omega
  simp [hi, this, Nat.testBit_zero]
@[simp] theorem event_raised' (s : State) (c u : Nat) (ev eng axes cause t) (h : s.raised c u = true) : (s.event ev eng axes cause t).raised c u = true := s.event_raised ev eng axes cause t h
@[simp] theorem eng_mk (a b c d e f g h i j k l m n o p q r u v w x y z z2 z3 : _) (t : Nat) : State.eng (State.mk a b c d e f g h i j k l m n o p q r u v w x y z z2 z3) t = Tbl.get {} i t := rfl

/-- What each step of a loop leaves alone, the loop leaves alone. -/
theorem each_pres {α β : Type} (g : State → α) {f : State → β → State} (h : ∀ s b, g (f s b) = g s) (s : State) (l : List β) : g (s.each l f) = g s := by
  induction l generalizing s with
  | nil => rfl
  | cons b t ih => exact (ih (f s b)).trans (h s b)

/-- What a conditional effect leaves alone. -/
theorem when_pres {α : Type} (g : State → α) {f : State → State} (s : State) (b : Bool) (h : g (f s) = g s) : g (s.when b f) = g s := by
  unfold State.when; split
  · exact h
  · rfl
@[simp] theorem each_part {β : Type} (s : State) (l : List β) (f : State → β → State) (h : ∀ s b, (f s b).part = s.part) : (s.each l f).part = s.part := each_pres State.part h s l
@[simp] theorem when_part (s : State) (b : Bool) (f : State → State) (h : (f s).part = s.part) : (s.when b f).part = s.part := when_pres State.part s b h
@[simp] theorem each_waiting {β : Type} (s : State) (l : List β) (f : State → β → State) (h : ∀ s b, (f s b).waiting = s.waiting) : (s.each l f).waiting = s.waiting := each_pres State.waiting h s l
@[simp] theorem when_waiting (s : State) (b : Bool) (f : State → State) (h : (f s).waiting = s.waiting) : (s.when b f).waiting = s.waiting := when_pres State.waiting s b h
@[simp] theorem each_latched {β : Type} (s : State) (l : List β) (f : State → β → State) (h : ∀ s b, (f s b).latched = s.latched) : (s.each l f).latched = s.latched := each_pres State.latched h s l
@[simp] theorem when_latched (s : State) (b : Bool) (f : State → State) (h : (f s).latched = s.latched) : (s.when b f).latched = s.latched := when_pres State.latched s b h
@[simp] theorem each_clk {β : Type} (s : State) (l : List β) (f : State → β → State) (h : ∀ s b, (f s b).clk = s.clk) : (s.each l f).clk = s.clk := each_pres State.clk h s l
@[simp] theorem when_clk (s : State) (b : Bool) (f : State → State) (h : (f s).clk = s.clk) : (s.when b f).clk = s.clk := when_pres State.clk s b h
@[simp] theorem each_sys {β : Type} (s : State) (l : List β) (f : State → β → State) (h : ∀ s b, (f s b).sys = s.sys) : (s.each l f).sys = s.sys := each_pres State.sys h s l
@[simp] theorem when_sys (s : State) (b : Bool) (f : State → State) (h : (f s).sys = s.sys) : (s.when b f).sys = s.sys := when_pres State.sys s b h
@[simp] theorem each_keep {β : Type} (s : State) (l : List β) (f : State → β → State) (h : ∀ s b, (f s b).keep = s.keep) : (s.each l f).keep = s.keep := each_pres State.keep h s l
@[simp] theorem when_keep (s : State) (b : Bool) (f : State → State) (h : (f s).keep = s.keep) : (s.when b f).keep = s.keep := when_pres State.keep s b h
@[simp] theorem each_reel {β : Type} (s : State) (l : List β) (f : State → β → State) (h : ∀ s b, (f s b).reel = s.reel) : (s.each l f).reel = s.reel := each_pres State.reel h s l
@[simp] theorem when_reel (s : State) (b : Bool) (f : State → State) (h : (f s).reel = s.reel) : (s.when b f).reel = s.reel := when_pres State.reel s b h
@[simp] theorem each_engs {β : Type} (s : State) (l : List β) (f : State → β → State) (h : ∀ s b, (f s b).engs = s.engs) : (s.each l f).engs = s.engs := each_pres State.engs h s l
@[simp] theorem when_engs (s : State) (b : Bool) (f : State → State) (h : (f s).engs = s.engs) : (s.when b f).engs = s.engs := when_pres State.engs s b h
@[simp] theorem each_intg {β : Type} (s : State) (l : List β) (f : State → β → State) (h : ∀ s b, (f s b).intg = s.intg) : (s.each l f).intg = s.intg := each_pres State.intg h s l
@[simp] theorem when_intg (s : State) (b : Bool) (f : State → State) (h : (f s).intg = s.intg) : (s.when b f).intg = s.intg := when_pres State.intg s b h
@[simp] theorem each_mgt {β : Type} (s : State) (l : List β) (f : State → β → State) (h : ∀ s b, (f s b).mgt = s.mgt) : (s.each l f).mgt = s.mgt := each_pres State.mgt h s l
@[simp] theorem when_mgt (s : State) (b : Bool) (f : State → State) (h : (f s).mgt = s.mgt) : (s.when b f).mgt = s.mgt := when_pres State.mgt s b h
@[simp] theorem each_can {β : Type} (s : State) (l : List β) (f : State → β → State) (h : ∀ s b, (f s b).can = s.can) : (s.each l f).can = s.can := each_pres State.can h s l
@[simp] theorem when_can (s : State) (b : Bool) (f : State → State) (h : (f s).can = s.can) : (s.when b f).can = s.can := when_pres State.can s b h
@[simp] theorem each_mem {β : Type} (s : State) (l : List β) (f : State → β → State) (h : ∀ s b, (f s b).mem = s.mem) : (s.each l f).mem = s.mem := each_pres State.mem h s l
@[simp] theorem when_mem (s : State) (b : Bool) (f : State → State) (h : (f s).mem = s.mem) : (s.when b f).mem = s.mem := when_pres State.mem s b h
@[simp] theorem each_spi {β : Type} (s : State) (l : List β) (f : State → β → State) (h : ∀ s b, (f s b).spi = s.spi) : (s.each l f).spi = s.spi := each_pres State.spi h s l
@[simp] theorem when_spi (s : State) (b : Bool) (f : State → State) (h : (f s).spi = s.spi) : (s.when b f).spi = s.spi := when_pres State.spi s b h
@[simp] theorem each_mods {β : Type} (s : State) (l : List β) (f : State → β → State) (h : ∀ s b, (f s b).mods = s.mods) : (s.each l f).mods = s.mods := each_pres State.mods h s l
@[simp] theorem when_mods (s : State) (b : Bool) (f : State → State) (h : (f s).mods = s.mods) : (s.when b f).mods = s.mods := when_pres State.mods s b h
@[simp] theorem each_modg {β : Type} (s : State) (l : List β) (f : State → β → State) (h : ∀ s b, (f s b).modg = s.modg) : (s.each l f).modg = s.modg := each_pres State.modg h s l
@[simp] theorem when_modg (s : State) (b : Bool) (f : State → State) (h : (f s).modg = s.modg) : (s.when b f).modg = s.modg := when_pres State.modg s b h
@[simp] theorem each_pwr {β : Type} (s : State) (l : List β) (f : State → β → State) (h : ∀ s b, (f s b).pwr = s.pwr) : (s.each l f).pwr = s.pwr := each_pres State.pwr h s l
@[simp] theorem when_pwr (s : State) (b : Bool) (f : State → State) (h : (f s).pwr = s.pwr) : (s.when b f).pwr = s.pwr := when_pres State.pwr s b h
@[simp] theorem each_adc {β : Type} (s : State) (l : List β) (f : State → β → State) (h : ∀ s b, (f s b).adc = s.adc) : (s.each l f).adc = s.adc := each_pres State.adc h s l
@[simp] theorem when_adc (s : State) (b : Bool) (f : State → State) (h : (f s).adc = s.adc) : (s.when b f).adc = s.adc := when_pres State.adc s b h
@[simp] theorem each_pos {β : Type} (s : State) (l : List β) (f : State → β → State) (h : ∀ s b, (f s b).pos = s.pos) : (s.each l f).pos = s.pos := each_pres State.pos h s l
@[simp] theorem when_pos (s : State) (b : Bool) (f : State → State) (h : (f s).pos = s.pos) : (s.when b f).pos = s.pos := when_pres State.pos s b h
@[simp] theorem each_mots {β : Type} (s : State) (l : List β) (f : State → β → State) (h : ∀ s b, (f s b).mots = s.mots) : (s.each l f).mots = s.mots := each_pres State.mots h s l
@[simp] theorem when_mots (s : State) (b : Bool) (f : State → State) (h : (f s).mots = s.mots) : (s.when b f).mots = s.mots := when_pres State.mots s b h
@[simp] theorem each_chn {β : Type} (s : State) (l : List β) (f : State → β → State) (h : ∀ s b, (f s b).chn = s.chn) : (s.each l f).chn = s.chn := each_pres State.chn h s l
@[simp] theorem when_chn (s : State) (b : Bool) (f : State → State) (h : (f s).chn = s.chn) : (s.when b f).chn = s.chn := when_pres State.chn s b h
@[simp] theorem each_queues {β : Type} (s : State) (l : List β) (f : State → β → State) (h : ∀ s b, (f s b).queues = s.queues) : (s.each l f).queues = s.queues := each_pres State.queues h s l
@[simp] theorem when_queues (s : State) (b : Bool) (f : State → State) (h : (f s).queues = s.queues) : (s.when b f).queues = s.queues := when_pres State.queues s b h
@[simp] theorem each_flash {β : Type} (s : State) (l : List β) (f : State → β → State) (h : ∀ s b, (f s b).flash = s.flash) : (s.each l f).flash = s.flash := each_pres State.flash h s l
@[simp] theorem when_flash (s : State) (b : Bool) (f : State → State) (h : (f s).flash = s.flash) : (s.when b f).flash = s.flash := when_pres State.flash s b h
@[simp] theorem each_drawn {β : Type} (s : State) (l : List β) (f : State → β → State) (h : ∀ s b, (f s b).drawn = s.drawn) : (s.each l f).drawn = s.drawn := each_pres State.drawn h s l
@[simp] theorem when_drawn (s : State) (b : Bool) (f : State → State) (h : (f s).drawn = s.drawn) : (s.when b f).drawn = s.drawn := when_pres State.drawn s b h
@[simp] theorem each_pending {β : Type} (s : State) (l : List β) (f : State → β → State) (h : ∀ s b, (f s b).pending = s.pending) : (s.each l f).pending = s.pending := each_pres State.pending h s l
@[simp] theorem when_pending (s : State) (b : Bool) (f : State → State) (h : (f s).pending = s.pending) : (s.when b f).pending = s.pending := when_pres State.pending s b h
@[simp] theorem each_fld {β : Type} (s : State) (l : List β) (f : State → β → State) (x : Fld) (h : ∀ s b, (f s b).fld x = s.fld x) : (s.each l f).fld x = s.fld x := each_pres (fun s => s.fld x) h s l
@[simp] theorem when_fld (s : State) (b : Bool) (f : State → State) (x : Fld) (h : (f s).fld x = s.fld x) : (s.when b f).fld x = s.fld x := when_pres (fun s => s.fld x) s b h
@[simp] theorem each_flag {β : Type} (s : State) (l : List β) (f : State → β → State) (x : Fld) (h : ∀ s b, (f s b).flag x = s.flag x) : (s.each l f).flag x = s.flag x := each_pres (fun s => s.flag x) h s l
@[simp] theorem when_flag (s : State) (b : Bool) (f : State → State) (x : Fld) (h : (f s).flag x = s.flag x) : (s.when b f).flag x = s.flag x := when_pres (fun s => s.flag x) s b h
@[simp] theorem each_word {β : Type} (s : State) (l : List β) (f : State → β → State) (x : Nat) (h : ∀ s b, (f s b).word x = s.word x) : (s.each l f).word x = s.word x := each_pres (fun s => s.word x) h s l
@[simp] theorem when_word (s : State) (b : Bool) (f : State → State) (x : Nat) (h : (f s).word x = s.word x) : (s.when b f).word x = s.word x := when_pres (fun s => s.word x) s b h

/-! ### Shots -/

/-- The engine that is changed. -/
theorem eng_modEng_same (s : State) (e : Nat) (F : Eng → Eng) (h : e < s.engs.length) : (s.modEng e F).eng e = F (s.eng e) := by
  unfold State.modEng State.eng
  exact Tbl.get_mod_same {} s.engs e F h
theorem pageOf_modEng (s : State) (e e' : Nat) (F : Eng → Eng) : (s.modEng e' F).pageOf e = s.pageOf e := rfl

/-- What a ready shot has. -/
theorem ready_unpack {s : State} {op : Nat} {e : Fin 9} {f : Fetch} (h : s.shotReady op e f = true) :
    s.powered = true ∧ s.engs.length = 9 ∧ (s.eng e).exec = true ∧ (s.eng e).ops.length = 32 ∧ f = {} ∧
    (s.shotOf e f).b 0 = op ∧ (s.shotOf e f).b 1 < 4 ∧ (s.shotOf e f).ctx < (s.engineAxes (s.serves e)).length ∧
    (s.shotOf e f).legal op = true ∧ (s.eng e).shots + 1 < (s.pageOf e).shots.length := by
  unfold State.shotReady at h
  simp only [Bool.and_eq_true, beq_iff_eq, decide_eq_true_eq] at h
  tauto

/-- A ready shot runs to its effect and its end. -/
theorem runShot_ready {s : State} {op : Nat} {e : Fin 9} {f : Fetch} {eff : Effect} (h : s.shotReady op e f = true) :
    s.runShot op e f eff = (match eff (s.shotOf e f) (s.reading e f) with
      | (some k, u) => u.shotFault e k | (none, u) => u.shotEnd e ((s.shotOf e f).cycles op)) := by
  obtain ⟨hp, hl, hx, ho, hc, h0, h1, h2, h3, h4⟩ := ready_unpack h
  subst hc
  have a1 : ((s.reading e {}).engineAxes ((s.reading e {}).serves e)).length = (s.engineAxes (s.serves e)).length := rfl
  have hz : (s.modEng e (fun g => { g with fetch := u32 (crc32Reg g.fetch.toNat (dwordBytes (s.shotOf e {}).w)) })) = s.reading e {} := rfl
  have n1 : decide (4 ≤ (s.shotOf e {}).b 1) = false := by simp; omega
  have n2 : decide (((s.reading e {}).engineAxes ((s.reading e {}).serves e)).length ≤ (s.shotOf e {}).ctx) = false := by
    simp only [a1]; simpa using h2
  unfold State.runShot
  have c0 : State.corrected s e [Ecc.clean, Ecc.clean] = s := rfl
  have c1 : State.corrected (s.reading e {}) e [] = s.reading e {} := rfl
  simp only [hx, h0, c0, hz, n1, n2, h3, List.take_nil, c1]
  simp only [State.each]
  simp
  all_goals rfl

/-- The end of a shot that is not the last counts it and its cycles. -/
theorem shotEnd_eng {u : State} {e : Fin 9} {k : Nat} (hs : (u.eng e).shots + 1 < (u.pageOf e).shots.length) :
    (u.shotEnd e k) = u.modEng e (fun g => { g with shots := g.shots + 1, cycles := g.cycles + k }) := by
  unfold State.shotEnd
  rw [if_pos hs]
theorem reading_eng {s : State} {e : Fin 9} {f : Fetch} (hl : s.engs.length = 9) :
    (s.reading e f).eng e = { s.eng e with fetch := u32 (crc32Reg (s.eng e).fetch.toNat (dwordBytes (s.fetched e f))) } :=
  eng_modEng_same s e _ (by omega)

/-- The same for the effect in its plain form. -/
theorem inner_ready {s : State} {op : Nat} {e : Fin 9} {f : Fetch} {F : Shot → Eng → Eng} (h : s.shotReady op e f = true)
    (hk : ∀ c g, (F c g).shots = g.shots ∧ (F c g).cycles = g.cycles) :
    ∃ r, (s.runShot op e f (inner F)).settle.eng e = { F (s.shotOf e f) { s.eng e with fetch := r } with
      shots := (s.eng e).shots + 1, cycles := (s.eng e).cycles + (s.shotOf e f).cycles op } := by
  obtain ⟨hp, hl, hx, ho, hc, h0, h1, h2, h3, h4⟩ := ready_unpack h
  have he : e.val < (s.reading e f).engs.length := by
    have : (s.reading e f).engs.length = s.engs.length := by simp [State.reading, State.modEng]
    omega
  refine ⟨u32 (crc32Reg (s.eng e).fetch.toNat (dwordBytes (s.fetched e f))), ?_⟩
  rw [runShot_ready h]
  show State.eng (State.shotEnd (State.modEng (s.reading e f) e (F (s.shotOf e f))) e _) e = _
  have q : ((s.reading e f).modEng e (F (s.shotOf e f))).eng e = F (s.shotOf e f) { s.eng e with fetch := u32 (crc32Reg (s.eng e).fetch.toNat (dwordBytes (s.fetched e f))) } := by
    rw [eng_modEng_same _ _ _ he, reading_eng hl]
  have l9 : ((s.reading e f).modEng e (F (s.shotOf e f))).engs.length = 9 := by
    simp [State.modEng, State.reading, hl]
  have hs : ((((s.reading e f).modEng e (F (s.shotOf e f)))).eng e).shots + 1 < (((s.reading e f).modEng e (F (s.shotOf e f))).pageOf e).shots.length := by
    rw [q, (hk _ _).1]; exact h4
  rw [shotEnd_eng hs, eng_modEng_same _ _ _ (by omega), q, (hk _ _).1, (hk _ _).2]

/-- A ready shot whose effect stays inside the engine. -/
theorem inner_ready' {s : State} {op : Nat} {e : Fin 9} {f : Fetch} {eff : Effect} {F : Shot → Eng → Eng} (hf : eff = inner F)
    (h : s.shotReady op e f = true) (hk : ∀ c g, (F c g).shots = g.shots ∧ (F c g).cycles = g.cycles) :
    ∃ r, (s.runShot op e f eff).settle.eng e = { F (s.shotOf e f) { s.eng e with fetch := r } with
      shots := (s.eng e).shots + 1, cycles := (s.eng e).cycles + (s.shotOf e f).cycles op } := by
  subst hf; exact inner_ready h hk
theorem op_setOp (g : Eng) (i : Nat) (v : Word) (h : i < g.ops.length) : (g.setOp i v).op i = v :=
  Tbl.get_mod_same 0 g.ops i (fun _ => v) h
theorem op_setOp_ne (g : Eng) (i j : Nat) (v : Word) (h : j ≠ i) : (g.setOp i v).op j = g.op j :=
  Tbl.get_mod_other 0 g.ops (fun _ => v) h
theorem slot_lt {c : Shot} {i n : Nat} (h : c.slots i n = true) : c.b i < 32 := by
  unfold Shot.slots at h; simp at h; omega

end Sys2Proof.Machine
end

