-- ==== Sys2Proof/Tests/Slice0.lean ====
section
/-!
SUPPORT. Tests: ill-formed commands that well-formedness refuses, worked examples of the spec, and for each statement with
hypotheses a state and operands that meet them, clause by clause.
-/

-- One proof after the other: as one text the package would otherwise ask for more threads than there is memory for.
set_option Elab.async false

namespace Sys2Proof.Tests
open Sys2Proof.Machine

/-- Out of reset, in RUN. -/
def up : State := { State.reset with sys := { mode := .run, inReset := false } }
def serviceUp : State := { State.reset with sys := { mode := .service, inReset := false } }
def standbyUp : State := { State.reset with sys := { mode := .standby, inReset := false } }
def atPhase (p : CutPhase) : State := { up with clk := { cutsOn := true, phase := p } }
/-- In RUN at START, E7 unlocked and running, ES ready. -/
def engStart : State := { ((up.put (ENG_E_STAT.STATE 7) 2).put ENG_STAT.ES_OK 1) with clk := { cutsOn := true, phase := .start } }
def engUp : State := (up.put (ENG_E_STAT.STATE 7) 2).put ENG_STAT.ES_OK 1
def serviceEngs : State := ((serviceUp.setWord (ENG_E_STAT 7) 2).put ENG_STAT.ES_BUSY 1).each (List.range 8) fun s e => s.put (ENG_E_STAT.STATE e) 1
def covered : State := up.put (ENG_E_STAT.STATE 0) 4
def returning : State := ((up.put INT_REC.VALID 1).put INT_REC.ENGINE 3).put (ENG_E_STAT.STATE 3) 5
/-- Reel slot B is VERIFIED and holds a header of take 1. -/
def takeOne : List Host.Cell := ((List.range 124).map fun i => (0x60000 + i, if i = 8 then (1 : Byte) else 0)) ++
  [(0x6007C, 0xD2), (0x6007D, 0xA1), (0x6007E, 0x8F), (0x6007F, 0xC1), (0xBFF00, 0x5A), (0xBFF01, 0x5A)]
def reelB : State := { up with flash := takeOne }
/-- In RUN with a list of two shots on E0, which serves axis 0 and owns bank 0; `k` are its constants. -/
def shotUp (w : DWord) (k : List Word) (ops : List (Nat × Word)) (inp : List (Nat × Word)) : State :=
  let g : Eng := { exec := true }
  let g := ops.foldl (fun g p => g.setOp p.1 p.2) g
  let g := { g with inp := inp.foldl (fun l p => Tbl.mod l p.1 fun _ => ⟨p.2, true⟩) g.inp }
  { up.put (MEM_B_OWN.OWNER 0) 7 with
    engs := g :: List.replicate 8 {}
    reel := { active := { pages := [{ shots := [w, 0], consts := k }] }
              struct := { engines := [{ axis := 0, engine := 0, pos := 0 }] } } }

/-- `shotUp` with the bytes `m` in the banks, and the samples of axis 0 valid. -/
def cellsUp (w : DWord) (m : List Host.Cell) (k : List Word) (ops : List (Nat × Word)) : State :=
  { shotUp w k ops [(4, 0x10000), (5, 0x10000), (6, 0x10000), (7, 0x10000)] with mem := { cells := m } }

/-! ### A small reel -/

def half (n : Nat) : List Byte := [BitVec.ofNat 8 n, BitVec.ofNat 8 (n / 256)]
def word (n : Nat) : List Byte := half n ++ half (n / 65536)
/-- One bit of R71 without a choice, and one byte. -/
def crcBit (c : Nat) : Nat := Nat.xor (Nat.div c 2) (Nat.mul 0x82F63B78 (Nat.mod c 2))
def crcByte (c : Nat) (b : Byte) : Nat :=
  crcBit (crcBit (crcBit (crcBit (crcBit (crcBit (crcBit (crcBit (Nat.xor c b.toNat))))))))
theorem crcBit_eq (k c : Nat) : crc32Bit (k + 1) c = crc32Bit k (crcBit c) := by
  have h : (if c % 2 = 1 then (c / 2) ^^^ 0x82F63B78 else c / 2) = crcBit c := by
    show _ = (c / 2) ^^^ (0x82F63B78 * (c % 2))
    rcases Nat.mod_two_eq_zero_or_one c with h | h <;> simp [h]
  rw [crc32Bit, h]
theorem crcByte_eq (c : Nat) (b : Byte) : crc32Byte c b = crcByte c b := by
  simp only [crc32Byte, crcBit_eq]; rfl
/-- The register of R71 over bytes, told apart at 0 so that the kernel evaluates it at every byte. -/
def crcStep : Nat → List Byte → Nat
  | c, [] => c
  | c, b :: t => match crcByte c b with
    | 0 => crcStep 0 t
    | n + 1 => crcStep (n + 1) t
theorem crc32Reg_eq (c : Nat) (l : List Byte) : crc32Reg c l = crcStep c l := by
  induction l generalizing c with
  | nil => rfl
  | cons b t ih =>
    show crc32Reg (crc32Byte c b) t = _
    rw [crcStep, crcByte_eq]; split <;> rename_i h <;> rw [ih, h]
def crc (l : List Byte) : List Byte := wordBytes (u32 (crcStep 0xFFFFFFFF l ^^^ 0xFFFFFFFF))
def sealed (l : List Byte) : List Byte := l ++ crc l
/-- A ramp table of slope 0 everywhere (R183). -/
def flatRamp : List Byte := word 256 ++ List.replicate 1028 0
/-- The sections of a reel that uses the heavy axis A0 on E0 and runs one PAD shot (R77, R79). -/
def sections : List (Nat × Nat × List Byte) :=
  [(1, 0, [0, 0, 0, 1, 2, 3, 0x10, 2]), (2, 0, (List.range 15).flatMap fun p => [BitVec.ofNat 8 p, 0, 0, 0]),
   (3, 0, word 1 ++ half 300 ++ [4, 48, 0, 0, 0, 0]),
   (4, 0, (List.range 17).flatMap fun b => [BitVec.ofNat 8 b, 7, 0, if b = 1 ∨ b = 2 then 2 else 0]),
   (5, 0, word 0), (0x10, 0, half 1 ++ half 1 ++ half 1 ++ half 0 ++ word 1 ++ word 0 ++ word 0), (0x11, 0, flatRamp),
   (0x13, 0, List.replicate 64 0),
   (0x14, 0, [0x100, 1, 0x100, 1, 0x100, 1, 1, 0x100, 0, 0, 1, 0, 1, 0, 0, 0].flatMap word)]
/-- A reel of take `take` for firmware from `fw` on, with what its sections hold (R72 to R76). -/
def reelOf (take fw : Nat) : List Byte :=
  let dir := (sections.foldl (fun (r : List Byte × Nat) x =>
    (r.1 ++ [BitVec.ofNat 8 x.1, BitVec.ofNat 8 x.2.1, 0, 0] ++ word r.2 ++ word x.2.2.length
      ++ word (if x.1 = 0x11 then 0x4000 else if x.1 = 0x13 then 0x4800 else 0) ++ crc x.2.2 ++ word 0,
      r.2 + x.2.2.length)) ([], 0x80 + 24 * sections.length + 4)).1
  let body := sections.flatMap fun x => x.2.2
  let sig := crc ((sections.filter fun x => x.1 < 7).flatMap fun x => x.2.2)
  let head := word 0x4C455253 ++ half 1 ++ half 0x80 ++ half take ++ half sections.length
    ++ word (0x80 + dir.length + 4 + body.length + 4) ++ half 1 ++ half 8000 ++ half 800 ++ half 0 ++ sig
    ++ word 0 ++ word 0x4000 ++ half fw ++ half 0 ++ word 0 ++ word 0 ++ List.replicate 76 0
  sealed (sealed head ++ sealed dir ++ body)
def placed (o : Nat) (l : List Byte) : List Host.Cell := (l.zipIdx.map fun p => (o + p.2, p.1)).filter fun p => p.2 ≠ 0xFF
/-- A reel slot that holds `l` and is GOOD (R69). -/
def goodSlot (k : Nat) (l : List Byte) : List Host.Cell :=
  placed (slotBase k) l ++ placed (slotBase k + slotRoom k) (wordBytes (slotWord slGood))
/-- In BOOT before the reel is selected, with a reel in slot A. -/
def bootGood : State :=
  { up with sys := { mode := .boot, inReset := false, boot := .firmware }, flash := goodSlot 0 (reelOf 1 0) }
/-- The same with a header alone in slot B, of a newer take. -/
def bootTwo : State := { bootGood with flash := goodSlot 0 (reelOf 1 0) ++ goodSlot 1 ((reelOf 2 0).take 0x80) }
/-- With that header alone. -/
def bootBad : State := { bootGood with flash := goodSlot 1 ((reelOf 2 0).take 0x80) }
/-- A firmware header that passes, of version `v`, over an image of zeros (R558). -/
def fwHeader (v : Nat) : List Byte :=
  let h := word 0x49574653 ++ half 1 ++ half v ++ word 0x100 ++ word 7 ++ crc (List.replicate 0x80 0) ++ List.replicate 40 0
  sealed h ++ List.replicate 0xC0 0
def fwSlot (k v : Nat) : List Host.Cell := placed (slotBase k) (fwHeader v) ++ placed (slotBase k + slotRoom k) (wordBytes (slotWord slGood))
def fwOne : State := { up with sys := { mode := .boot, inReset := false, boot := .rails }, flash := fwSlot 3 2 }
def fwTwo : State := { fwOne with flash := fwSlot 2 1 ++ fwSlot 3 2 }

/-! ### Well-formedness: each check refuses an ill-formed command -/

/-- R27: there is no unit 7. -/
theorem test_wf_unit : (Instr.crossingDeliver (.oldest ⟨1, 7⟩)).wf = false ∧ (Instr.crossingDeliver (.oldest ⟨19, 6⟩)).wf = false := by decide

/-- R29: a crossing joins two different units. -/
theorem test_wf_crossing : (Instr.crossingDeliver (.oldest ⟨6, 6⟩)).wf = false ∧ (Instr.crossingDeliver (.oldest ⟨10, 6⟩)).wf = true := by decide

/-- R524: a bank has 256 rows, the mailbox 64. -/
theorem test_wf_rows : (Instr.regulatorsReady [(16, 64)]).wf = false ∧ (Instr.regulatorsReady [(15, 255)]).wf = true := by
  decide

/-- R15: errors arise in aligned bank words. -/
theorem test_wf_bank_word :
    (Instr.pad 0 { bank := [(0x41000, .clean)] }).wf = false ∧ (Instr.pad 0 { bank := [(2, .clean)] }).wf = false := by decide

/-- R36: a slate is sampled at most three ticks late. -/
theorem test_wf_lag :
    (Instr.stepEdge 0 true true false 4).wf = false ∧ (Instr.qdEdge 0 true true false 4).wf = false
      ∧ (Instr.qdIndex 0 true 4).wf = false ∧ (Instr.capEdge 0 true 4).wf = false ∧ (Instr.latchHostTrig 1 4).wf = false
      ∧ (Instr.stepEdge 0 true true false 3).wf = true := by decide

/-- R360: a SENT frame has a calibration pulse and at most eleven more intervals, none empty. -/
theorem test_wf_sent :
    (Instr.sentFrame 0 0 0 [12]).wf = false ∧ (Instr.sentFrame 0 0 56 (List.replicate 12 12)).wf = false
      ∧ (Instr.sentFrame 0 0 56 [0]).wf = false ∧ (Instr.sentFrame 0 0 56 [12, 12, 12, 24, 18]).wf = true := by decide

/-- R401: each sum of a calibration has 32 codes. -/
theorem test_wf_calibration :
    (Instr.calDone 0 131041 0).wf = false ∧ (Instr.calDone 0 0 131041).wf = false ∧ (Instr.calDone 0 131040 0).wf = true := by
  decide

/-- R408: a frame has the bytes of its DLC, a base identifier in its upper bits, and BRS and ESI only with FDF. -/
theorem test_wf_frame :
    (Instr.canRxFrame { id := 0, dlc := 9, data := List.replicate 8 0, fdf := true } 0).wf = false
      ∧ (Instr.canRxFrame { id := 1 } 0).wf = false ∧ (Instr.canRxFrame { id := 0, brs := true } 0).wf = false
      ∧ (Instr.canRxFrame { id := 0, fdf := true, rtr := true } 0).wf = false
      ∧ (Instr.canRxFrame { id := 0, dlc := 9, data := List.replicate 12 0, fdf := true } 0).wf = true := by decide

/-- R436: a request has at most 64 bytes. -/
theorem test_wf_service : (Instr.serviceRequest (List.replicate 65 0)).wf = false := by decide

/-- R44: the sleep counter has 40 bits. -/
theorem test_wf_wake :
    (Instr.wakePin true (2 ^ 40)).wf = false ∧ (Instr.busWake (2 ^ 40)).wf = false ∧ (Instr.busWake (2 ^ 40 - 1)).wf = true := by
  decide

/-- R450: a frame transfers no more words than its command names, each with at most one access. -/
theorem test_wf_transfer :
    (Instr.write 0 0 [1, 2] []).wf = false ∧ (Instr.write 0 0 [1] [{}, {}]).wf = false
      ∧ (Instr.write 0 0 [1] [{ lag := 4 }]).wf = false ∧ (Instr.writeFix 0 0 [1, 2] []).wf = false
      ∧ (Instr.read 0 0 2 false [] []).wf = false ∧ (Instr.read 0 0 1 true [] []).wf = false
      ∧ (Instr.readFix 0 0 1 false [] [{}, {}]).wf = false ∧ (Instr.readFix 0 1 1 true [] [{}, {}]).wf = true := by decide

/-- R36, R460: a daisy frame brings one bit a cycle, and its access lags as a bus access does. -/
theorem test_wf_daisy :
    (Instr.daisyFrame 0 0 false { lag := 4 }).wf = false ∧ (Instr.daisyFrame 2 4 false {}).wf = false
      ∧ (Instr.daisyFrame 2 3 false {}).wf = true := by decide

/-- R487: a chain record has at most 16 bytes. -/
theorem test_wf_chain : (Instr.chainRecord 1 (List.replicate 17 0)).wf = false := by decide

/-- R461: port A writes a word of the mailbox. -/
theorem test_wf_mailbox :
    (Instr.mbPortAWrite 0x3FFFC (.write 0)).wf = false ∧ (Instr.mbPortAWrite 0x41000 (.write 0)).wf = false
      ∧ (Instr.mbPortAWrite 0x40002 (.write 0)).wf = false ∧ (Instr.mbPortAWrite 0x40004 (.write 0)).wf = true := by decide

/-- R559: a slot has 96 sectors at most. -/
theorem test_wf_erase : (Instr.eraseDone (some 96)).wf = false ∧ (Instr.eraseDone (some 95)).wf = true := by decide

/-- The state that a command leaves. -/
def after (i : Instr) (s : State) : State :=
  match exec i s with
  | .next t => t
  | _ => s

/-! ### The spec's worked examples, one step or one computation each -/

/-- Chapter 04, RAMP from rest: frame 1 of the example. -/
theorem test_ramp_first_frame : rampEval 0 0 0 21475 0x51EB8 = ([0, 0x53, 0x29F1E3], false, false) := by decide

/-- Chapter 04, RAMP from rest: frame 4000 meets the limit. -/
theorem test_ramp_limit_frame :
    rampEval 10234 0x51E66 0xF55D42FD 21475 0x51EB8 = ([10240, 0x51EB8, 0x13ECC000], true, false) := by decide

/-- Chapter 04: the set-point of A9 and its CRC-8. -/
theorem test_setpoint_words :
    setpW0 9 10240 0x800 0 = 0x09800800 ∧ setpW1 0x09800800 0x51EB8 5 = 0xF3A0051E := by decide +kernel

/-- Chapter 05: the first frame of the turn-back brakes with D2 in the reversal arm. -/
theorem test_plan_reversal :
    (planEval 100000 0x100000 0 60000 [0x8000, 0x40000, 0x80000, 0x20000, 0x100000, 0x20000, 0x40000, 0x10000, 0, 0] 0 65536).1.map
      BitVec.toNat = [0xFFFE0000, 0xFFE00, 0x25, 0xFFFF63C0] := by decide

/-- Chapter 05: the braking distance from full speed is 14304 microsteps. -/
theorem test_plan_brake :
    PlanPar.brake ⟨16 * 2 ^ 24, 8 * 2 ^ 24, 2 ^ 24, 2 ^ 23, 2 ^ 18, 2 ^ 17, 2 ^ 17, 2 ^ 18, 0, 0⟩ (16 * 2 ^ 24) = 14304 * 2 ^ 24 := by
  decide

/-- Chapter 07: the cosine of the example, and its neighbours in the four quadrants. -/
theorem test_sine : cosM 2048 = -32767 ∧ sinM 0 = 0 ∧ sinM 1024 = 32767 ∧ sinM 3072 = -32767 := by decide +kernel

/-- A9 of the modulator example of chapter 07, at its sample of phase A. -/
def sampler : State :=
  let c : Cmt := { cfg := 0, per := 8000, dutyA := 7936, dutyB := 7936 }
  let m : ModAx := { act := c, iamp := 0x800, bmode := 0, vel := 1310, beta := 524288, carrier := true
                     pa := { integ := -81000000, len := 8000 } }
  let s := ((up.put (MOD_AX_GAIN.KP 9) 2400).put (MOD_AX_GAIN.KI 9) 96).put (MOD_AX_SCALE.ISCALE 9) 48013
  let s := (s.put (MOD_AX_SCALE.VNOM 9) 27000).put (MOD_AX_STAT.FIRST_WAIT 9) 0
  { s with modg := { vbat := some 25000 }, mods := Tbl.mod s.mods 9 fun _ => m }

/-- Chapter 07: the sample of the example reads -11500. -/
def sampled : State := after (.currentSample 9 false (resultWord (-11500) true false false)) sampler

theorem test_current_loop : ((sampled.mod 9).pa.u, (sampled.mod 9).pa.integ) = (-20071, -81048288) := by decide +kernel

theorem test_duty : sampled.dutyOf 9 false (-21676) = 5249 ∧ sampler.compensate 9 (-20071) = -21676 := by decide +kernel

/-- Chapter 10: the deviations of the index example. -/
theorem test_index_deviation : idxDev 2213 1000 4000 = 1213 ∧ idxDev 997 1000 4000 = -3 ∧ idxDev 1020 1000 4000 = 20 := by
  decide

/-- Chapter 10: the CRC nibble of the valve sensor's frame. -/
theorem test_sent_crc : sentCrc false [0, 0, 0xC] = 6 := by decide

/-- Chapter 11: the corrected value of the shunt example. -/
theorem test_adc_correction :
    ((((State.reset.put (ADC_CORE_TRIM.OFS 0) 24).put (ADC_CORE_TRIM.GAIN 0) 16220).put (ADC_CH_CORR.OFS 2)
      (65536 - 18)).put (ADC_CH_CORR.GAIN 2) 16700).correct 0 2 0 2867 = (13217, false) := by decide +kernel

/-- Chapter 12: the thirty-second failed attempt takes TEC above 255, and the node is bus-off. -/
theorem test_bus_off :
    let u := (up.put CAN_CTRL.EN 1).put CAN_ERR.TEC 248
    let s := after (.canError (.frame 0 false false)) (u.setTbSt 1 txActive)
    s.raised 0x0C03 = true ∧ s.can.busOff = true := by decide +kernel

/-- Chapter 16: the record word of E5's fault. -/
theorem test_fault_event : (up.event 1 5 0xE00 5 0x345600000000).word (INT_EVT_A 0) = 0x05E00501 := by decide +kernel
/-- Chapter 17: an erased slot B reads EMPTY. -/
theorem test_erased_slot :
    (after (.eraseDone none) { up with mgt := { running := some (1, 1) } }).word (REEL_SLOT_B) = 1 := by decide +kernel

/-- Chapter 18: the wake of the weekend example. -/
theorem test_wake :
    let s := after (.bootStart true false) { State.reset with
      sys := { mode := .sleep, inReset := false }, keep := { seen := 2, wakeCfg := 9 } }
    (s.word SYS_RESET, s.word SYS_WAKE, s.sys.mode) = (0x00014007, 0x2200, .boot) := by decide +kernel

/-- The reel of slot A passes every check and reads back, alone and beside another. -/
theorem good_reads : ∀ s, s = bootGood →
    ((s.verifyReel 0).toOption.map fun c => ((s.loadTables c.copy 0).tablesOk c.copy 0).1) = some true := by
  intro s h
  unfold State.tablesOk State.readBack
  simp only [State.verifyReel, State.readReel, readContainer, crc32c, crc32Reg_eq]
  rw [h]
  decide +kernel

theorem good_reads_of_two : ∀ s, s = bootTwo →
    ((s.verifyReel 0).toOption.map fun c => ((s.loadTables c.copy 0).tablesOk c.copy 0).1) = some true := by
  intro s h
  unfold State.tablesOk State.readBack
  simp only [State.verifyReel, State.readReel, readContainer, crc32c, crc32Reg_eq]
  rw [h]
  decide +kernel

/-- Structure and active take are the same. -/
def Held (s t : State) : Prop := t.reel.struct = s.reel.struct ∧ t.reel.active = s.reel.active
theorem Held.trans {s t u : State} (h : Held s t) (h' : Held t u) : Held s u := ⟨h'.1.trans h.1, h'.2.trans h.2⟩
theorem Held.of {l : List Field} {s t : State} (h : Does l s t) (hl : .reel ∉ l := by decide) : Held s t := by
  have e : t.reel = s.reel := h.1.1 .reel hl
  exact ⟨by rw [e], by rw [e]⟩
theorem Held.ite {s t u : State} {c : Prop} [Decidable c] (h : Held s t) (h' : Held s u) : Held s (if c then t else u) := by
  split <;> assumption
theorem raise_held (s : State) (c u : Nat) : Held s (s.raise c u) := by
  have h := State.setFault_does s (faultReg (c / 256) u) (c % 256 - 1 + (if c / 256 = 0x12 then 16 else 0))
    (faultReg (c / 256) u + 4) (faultUnitBits (c / 256)) c u ⟨_, _, .inl rfl⟩ ⟨_, _, .inr rfl⟩
  unfold State.raise
  refine .trans (.trans (.of h) ?_) (.of (State.logFault_does _ _ _))
  exact .ite ⟨rfl, rfl⟩ ⟨rfl, rfl⟩
theorem each_held {β : Type} (l : List β) (f : State → β → State) (h : ∀ s b, Held s (f s b)) (s : State) : Held s (s.each l f) := by
  induction l generalizing s with
  | nil => exact ⟨rfl, rfl⟩
  | cons b l ih => exact (h s b).trans (ih _)
theorem put_held (s : State) (f : Fld) (v : Nat) : Held s (s.put f v) := ⟨rfl, rfl⟩
theorem interlock_held (s : State) (n k : Nat) : Held s (s.interlock n k) := by
  unfold State.interlock
  dsimp only
  split
  · refine .trans ?_ (.of (State.enterSafe_does _ _ _))
    refine .trans (put_held _ _ _ |> .trans ?_) (put_held _ _ _)
    refine .trans (t := State.raise _ _ _) ?_ ⟨rfl, rfl⟩
    refine .trans ?_ (raise_held _ _ _)
    exact ⟨rfl, rfl⟩
  · exact ⟨rfl, rfl⟩
theorem driveChecked_held (s : State) (n : Nat) : Held s (s.driveChecked n) := by
  unfold State.driveChecked
  refine each_held _ _ (fun s k => ?_) s
  dsimp only
  split
  · exact .trans (.of (State.driveHb_does _ _ _)) (interlock_held _ _ _)
  · exact .of (State.driveHb_does _ _ _)
theorem cmtTransfer_held (s : State) (n : Nat) : Held s (s.cmtTransfer n) := by
  unfold State.cmtTransfer
  split
  · exact ⟨rfl, rfl⟩
  · dsimp only
    repeat' split
    all_goals first | exact ⟨rfl, rfl⟩ | (refine .trans ?_ (raise_held _ _ _); exact ⟨rfl, rfl⟩)
theorem modStandby_held (s : State) (n : Nat) : Held s (s.modStandby n) :=
  by
  refine .trans ?_ (driveChecked_held _ _)
  refine .trans (t := s.cmtTransfer n) (cmtTransfer_held s n) ?_
  exact ⟨rfl, rfl⟩
theorem thermalBoot_held (s : State) : Held s s.thermalBoot := by
  unfold State.thermalBoot State.thermalLook
  dsimp only
  refine .trans ?_ (put_held _ _ _)
  split
  · refine .trans ?_ (raise_held _ _ _)
    exact ⟨rfl, rfl⟩
  · split <;> exact ⟨rfl, rfl⟩
/-- Loading at BOOT keeps the reel that was loaded. -/
theorem bootLoad_held (s : State) : Held s s.bootLoad := by
  unfold State.bootLoad
  dsimp only
  refine .trans (.trans ?_ (thermalBoot_held _)) (each_held _ _ modStandby_held _)
  exact .trans (.of (State.loadOwners_does _ _)) (.trans (.of (State.ownersWait_does _)) (.trans (.of (State.loadBanks_does _))
    (.trans (.of (State.loadEngines_does _)) (.trans (.of (State.adcLoad_does _)) (.trans (.of (State.showTake_does _))
      (.of (State.canBoot_does _)))))))
theorem registers_load (s : State) (h : s.reel.struct.engines = []) (k : s.reel.active.regInit = []) :
    (s.bootLoad.loadRegs false).1 = true := by
  have u : s.bootLoad.usedAxes = [] := by
    simp [State.usedAxes, State.axisUsed, State.axisEntry, (bootLoad_held s).1, h]
  simp [State.loadRegs, u, State.loadAxes, (bootLoad_held s).2, k, State.loadPairs]
theorem short_frame_refused (s : State) : (s.loadPair false CLK_FRAME_LEN 799).1 = false := by
  have e : (s.apart fun s => s.pairWrite false CLK_FRAME_LEN 799).1 = 1 := by with_unfolding_all rfl
  unfold State.loadPair
  rw [if_neg (by simp)]
  dsimp only
  rw [if_pos (by rw [e]; decide)]
theorem registers_fail (s : State) (h : s.reel.struct.engines = [])
    (k : s.reel.active.regInit = [(CLK_FRAME_LEN, 799)]) : (s.bootLoad.loadRegs false).1 = false := by
  have u : s.bootLoad.usedAxes = [] := by
    simp [State.usedAxes, State.axisUsed, State.axisEntry, (bootLoad_held s).1, h]
  simp only [State.loadRegs, u, State.loadAxes, (bootLoad_held s).2, k, State.loadPairs, short_frame_refused]
  rfl

/-! ### The hypotheses of the statements can be met -/

theorem witness_slateWrapsToZero : ∃ (s : State), s.powered = true :=
  ⟨up, by decide⟩

theorem witness_crystalMonitorJudges :
    (∃ (p : Nat) (s : State), s.powered = true ∧ s.clk.xtalRun = true ∧ 15 ≤ p ∧ p ≤ 17 ∧ s.clk.goodRun < 1023) ∧
    (∃ (p : Nat) (s : State), s.powered = true ∧ s.clk.xtalRun = true ∧ ((p < 15 ∨ 17 < p)) ∧ s.clk.badRun = 0) ∧
    (∃ (s : State), s.powered = true ∧ s.clk.xtalRun = true ∧ s.flag CLK_STAT.QUALIFYING = true ∧
      s.flag CLK_STAT.REF_XTAL = false) ∧
    (∃ (s : State), s.powered = true ∧ s.flag CLK_STAT.REF_XTAL = true) ∧
    (∃ (s : State), s.powered = true ∧ s.flag CLK_STAT.REF_XTAL = true ∧ s.flag CLK_STAT.HOLDOVER = true ∧
      s.clk.rcOk = true) ∧
    (∃ (s : State), s.powered = true ∧ s.flag CLK_CTRL.XTAL_EN = true ∧ s.flag CLK_STAT.QUALIFYING = true) :=
  ⟨⟨15, { up with clk := { xtalRun := true } }, by decide⟩,
   ⟨18, { up with clk := { xtalRun := true } }, by decide⟩,
   ⟨{ up.put CLK_STAT.QUALIFYING 1 with clk := { xtalRun := true } }, by decide⟩,
   ⟨up.put CLK_STAT.REF_XTAL 1, by decide⟩,
   ⟨(up.put CLK_STAT.REF_XTAL 1).put CLK_STAT.HOLDOVER 1, by decide⟩,
   ⟨(up.put CLK_CTRL.XTAL_EN 1).put CLK_STAT.QUALIFYING 1, by decide⟩⟩

theorem witness_clockIslandsJudged :
    (∃ (isls : BitVec 12) (isl : Fin 12) (s : State), s.powered = true ∧ isls.getLsbD isl = true ∧ 1 ≤ isl.val ∧
      isl.val ≤ 6) ∧
    (∃ (isls : BitVec 12) (isl e : Nat) (s : State), s.powered = true ∧ isls.getLsbD isl = true ∧ 7 ≤ isl ∧ isl ≤ 10 ∧
      isl = 7 + e / 2 ∧ s.islandStopped isl = false ∧ s.engState e = stRunning ∧ s.engs.length = 9) ∧
    (∃ (isls : BitVec 12) (s : State), s.powered = true ∧ isls.getLsbD 11 = true ∧ s.islandStopped 11 = false ∧
      s.engState 8 = stRunning ∧ s.engs.length = 9) ∧
    (∃ (isls : BitVec 12) (s : State), s.powered = true ∧ (∀ i < 12, isls.getLsbD i = true → 7 ≤ i ∧
      s.islandStopped i = true)) ∧
    (∃ (isl : Fin 12) (s : State), s.powered = true ∧ 1 ≤ isl.val) ∧
    (∃ (s : State), s.powered = true ∧ s.clk.rcOk = true) ∧
    (∃ (s : State), s.powered = true) ∧
    (∃ (s : State), s.powered = true ∧ s.sys.mode = .standby ∧ s.mgt.mcOk = true ∧ s.mgt.stopped = false) ∧
    (∃ (s : State), s.hostOpen) ∧
    (∃ (per : Word) (s : State), s.powered = true ∧ s.flag CLK_STAT.LPO_BUSY = true) ∧
    (∃ (s : State), s.sys.mode = .sleep ∧ s.sys.inReset = false) :=
  ⟨⟨0x42, 6, up, by decide⟩,
   ⟨0x780, 10, 7, engUp, by decide⟩,
   ⟨0x800, engUp.put (ENG_E_STAT.STATE 8) 2, by decide⟩,
   ⟨0x780, { up with clk := { stopped := 0x780 } }, by decide⟩,
   ⟨11, up, by decide⟩,
   ⟨up, by decide⟩,
   ⟨up, by decide⟩,
   ⟨{ standbyUp with mgt := { mcOk := true } }, by decide⟩,
   ⟨up, by decide⟩,
   ⟨0, up.put CLK_STAT.LPO_BUSY 1, by decide⟩,
   ⟨{ State.reset with sys := { mode := .sleep, inReset := false } }, by decide⟩⟩

theorem witness_clockRegisterWrites :
    (∃ (s : State), s.hostOpen ∧ s.flag CLK_CTRL.XTAL_EN = false) ∧
    (∃ (s : State), s.hostOpen ∧ s.flag CLK_CTRL.XTAL_EN = true) ∧
    (∃ (s : State), s.hostOpen ∧ s.flag CLK_CTRL.XTAL_EN = false) ∧
    (∃ (s : State), s.hostOpen ∧ s.flag CLK_CTRL.XTAL_EN = true ∧ s.flag CLK_STAT.REF_XTAL = false) ∧
    (∃ (s : State), s.hostOpen ∧ s.flag CLK_CTRL.XTAL_EN = true ∧ s.flag CLK_STAT.REF_XTAL = true) ∧
    (∃ (s : State), s.hostOpen ∧ s.flag CLK_CTRL.XTAL_EN = true ∧ s.flag CLK_STAT.REF_XTAL = false) ∧
    (∃ (s : State), s.hostOpen ∧ s.flag CLK_CTRL.XTAL_EN = true ∧ s.flag CLK_STAT.REF_XTAL = true) ∧
    (∃ (s : State), s.hostOpen ∧ s.flag CLK_CTRL.XTAL_EN = false) ∧
    (∃ (v : Word) (s : State), s.hostOpen ∧ s.frameLenRefused v = false) ∧
    (∃ (v : Word) (s : State), s.hostOpen ∧ s.frameLenRefused v = true) ∧
    (∃ (v : Word) (s : State), s.hostOpen ∧ (∀ b < 9, s.clkCondition b = false)) ∧
    (∃ (v : Word) (b : Nat) (s : State), s.hostOpen ∧ b < 9 ∧ v.getLsbD b = true ∧
      (s.word CLK_FAULT).getLsbD b = true ∧ s.clkCondition b = true) ∧
    (∃ (s : State), s.powered = true) ∧
    (∃ (s : State), s.powered = true) :=
  ⟨⟨up, by decide⟩,
   ⟨up.put CLK_CTRL.XTAL_EN 1, by decide⟩,
   ⟨up, by decide⟩,
   ⟨up.put CLK_CTRL.XTAL_EN 1, by decide⟩,
   ⟨(up.put CLK_CTRL.XTAL_EN 1).put CLK_STAT.REF_XTAL 1, by decide⟩,
   ⟨up.put CLK_CTRL.XTAL_EN 1, by decide⟩,
   ⟨(up.put CLK_CTRL.XTAL_EN 1).put CLK_STAT.REF_XTAL 1, by decide⟩,
   ⟨up, by decide⟩,
   ⟨800, { up with sys := { mode := .standby, inReset := false, cascM := true } }, by decide⟩,
   ⟨799, up, by decide⟩,
   ⟨0, ((up.put CLK_STAT.XTAL_GOOD 1).put CLK_STAT.ISL_OK 0xFFF), by decide⟩,
   ⟨1, 0, up.setWord CLK_FAULT 1, by decide⟩,
   ⟨up, by decide⟩,
   ⟨{ up with reel := { struct := { engines := [{ axis := 3, engine := 0, pos := 0 }] } } }, by decide⟩⟩

theorem witness_cutWindowPhases :
    (∃ (s : State), s.powered = true ∧ s.atPhase .frame = true) ∧
    (∃ (late : BitVec 12) (s : State), s.powered = true ∧ s.atPhase .close = true ∧ late &&& s.drains = 0#12) ∧
    (∃ (s : State), s.powered = true ∧ s.atPhase .drained = true ∧ s.sys.safeNew = 0 ∧ s.fld SYS_MODE.PEND = 0 ∧
      s.reel.staged = none ∧ s.reel.reloaded = false) ∧
    (∃ (v : Word) (s : State), s.powered = true ∧ s.atPhase .drained = true ∧ s.sys.safeNew = 0 ∧
      s.fld SYS_MODE.PEND = 0 ∧ s.reel.staged = none ∧ s.reel.reloaded = false ∧ s.waiting = [(CLK_FRAME_LEN, v)]) ∧
    (∃ (r : Nat) (m : Mode) (s : State), s.powered = true ∧ s.atPhase .drained = true ∧ s.sys.safeNew = 0 ∧
      r = s.fld SYS_MODE.PEND ∧ ((r = 1 ∧ m = .standby) ∨ (r = 2 ∧ m = s.runMode) ∨ (r = 3 ∧ m = .safe) ∨ (r = 4 ∧
      m = .service)) ∧ s.modeReason r = 0 ∧ (s.sys.mode = .standby → s.allOn = true)) ∧
    (∃ (s : State), s.powered = true ∧ s.atPhase .drained = true ∧ s.sys.safeNew = 0 ∧ s.fld SYS_MODE.PEND ≠ 0 ∧
      s.modeReason (s.fld SYS_MODE.PEND) ≠ 0) ∧
    (∃ (s : State), s.powered = true ∧ s.atPhase .drained = true ∧ s.sys.safeNew = 0 ∧ s.sys.mode = .standby ∧
      2 ≤ s.fld SYS_MODE.PEND ∧ s.fld SYS_MODE.PEND ≤ 4 ∧ s.modeReason (s.fld SYS_MODE.PEND) = 0 ∧ s.allOn = false) ∧
    (∃ (s : State), s.powered = true ∧ s.atPhase .drained = true ∧ s.sys.safeNew ≠ 0 ∧
      (s.sys.mode = .standby ∨ s.sys.mode = .run ∨ s.sys.mode = .degraded ∨ s.sys.mode = .service)) ∧
    (∃ (s : State), s.powered = true ∧ s.atPhase .drained = true ∧ s.sys.safeNew = 0 ∧ s.fld SYS_MODE.PEND = 5 ∧
      s.modeReason 5 = 0 ∧ s.mgt.queue = []) ∧
    (∃ (c : Copy) (st : Struct) (s : State), s.powered = true ∧ s.atPhase .drained = true ∧ s.sys.safeNew = 0 ∧
      s.fld SYS_MODE.PEND = 0 ∧ s.reel.staged = some (c, st) ∧ s.waiting = [] ∧ s.sys.mode ≠ .standby ∧
      s.spliceFault c.hdr = 0 ∧ s.switchHeld = false ∧ s.spliceWait = 0 ∧ c.regInit = [] ∧
      (∀ n < 12, Tbl.get [] c.axisParam n = [])) ∧
    (∃ (c : Copy) (st : Struct) (s : State), s.powered = true ∧ s.atPhase .drained = true ∧ s.sys.safeNew = 0 ∧
      s.fld SYS_MODE.PEND = 0 ∧ s.reel.staged = some (c, st) ∧ s.waiting = [] ∧ s.spliceFault c.hdr ≠ 0) ∧
    (∃ (c : Copy) (st : Struct) (s : State), s.powered = true ∧ s.atPhase .drained = true ∧ s.sys.safeNew = 0 ∧
      s.fld SYS_MODE.PEND = 0 ∧ s.reel.staged = some (c, st) ∧ s.waiting = [] ∧ s.spliceFault c.hdr = 0 ∧
      (s.switchHeld = true ∨ s.spliceWait ≠ 0)) ∧
    (∃ (s : State), s.powered = true ∧ s.atPhase .drained = true ∧ s.sys.safeNew = 0 ∧ s.fld SYS_MODE.PEND = 0 ∧
      s.reel.staged = none ∧ s.reel.reloaded = true ∧ s.switchHeld = false ∧ s.waiting = [] ∧
      s.reel.active.regInit = [] ∧ (∀ n < 12, Tbl.get [] s.reel.active.axisParam n = [])) ∧
    (∃ (b : Fin 17) (v : Word) (s : State), s.powered = true ∧ s.atPhase .drained = true ∧ s.sys.safeNew = 0 ∧
      s.fld SYS_MODE.PEND = 0 ∧ s.reel.staged = none ∧ s.reel.reloaded = false ∧ s.intg.takeover = none ∧
      s.flag INT_REC.VALID = false ∧ s.waiting = [(MEM_B_OWN b, v)]) ∧
    (∃ (e : Nat) (s : State), s.powered = true ∧ s.atPhase .drained = true ∧ s.sys.safeNew = 0 ∧
      s.fld SYS_MODE.PEND = 0 ∧ s.reel.staged = none ∧ s.reel.reloaded = false ∧ s.intg.takeover = some e ∧
      s.waiting = []) ∧
    (∃ (s : State), s.powered = true ∧ s.atPhase .applied = true ∧ s.engs.length = 9) ∧
    (∃ (s : State), s.powered = true ∧ s.atPhase .sealed = true) ∧
    (∃ (s : State), s.powered = true ∧ s.atPhase .start = true ∧ s.spi.held = [] ∧ s.spi.writes = [] ∧
      s.can.heldRegs = [] ∧ s.can.svc = none ∧ s.spi.frame = none) ∧
    (∃ (x : Xing) (e b : Nat) (a : Half) (rest : List Msg) (s : State), s.powered = true ∧
      s.queue x = .endWord e a b :: rest ∧ x.dst = 6) ∧
    (∃ (x : Xing) (e i : Nat) (w : Word) (rest : List Msg) (s : State), s.powered = true ∧ s.engs.length = 9 ∧
      (s.eng e).inp.length = 64 ∧ e < 9 ∧ i < 64 ∧ x.dst = 10 + e ∧ s.queue x = .input i w :: rest) ∧
    (∃ (e : Fin 8) (w : Word) (s : State), s.powered = true ∧ s.engs.length = 9 ∧ (s.eng e).inp.length = 64 ∧
      s.covering = false) ∧
    (∃ (e : Fin 8) (w : Word) (s : State), s.powered = true ∧ s.engs.length = 9 ∧ (s.eng 8).inp.length = 64 ∧
      s.covering = true ∧ s.fld ENG_STAT.ES_COVER = e.val) :=
  ⟨⟨atPhase .frame, by decide⟩,
   ⟨1#12, atPhase .close, by decide⟩,
   ⟨atPhase .drained, by decide⟩,
   ⟨8000, { atPhase .drained with waiting := [(CLK_FRAME_LEN, 8000)] }, by decide⟩,
   ⟨1, .standby, (atPhase .drained).put SYS_MODE.PEND 1, by decide⟩,
   ⟨(atPhase .drained).put SYS_MODE.PEND 2, by decide⟩,
   ⟨{ ((atPhase .drained).put SYS_MODE.PEND 3).put (MEM_B_STAT.PWR 4) 1 with sys := { mode := .standby, inReset := false } }, by decide⟩,
   ⟨{ (atPhase .drained).put SYS_MODE.PEND 1 with sys := { mode := .run, inReset := false, safeNew := 2 } }, by decide⟩,
   ⟨{ ((atPhase .drained).put SYS_MODE.PEND 5).put CAN_WAKE.PIN_EN 1 with sys := { mode := .standby, inReset := false } }, by decide⟩,
   ⟨{}, {}, { (atPhase .drained).put REEL_STAT.SPLICE_STATE 2 with reel := { staged := some ({}, {}) } }, by decide⟩,
   ⟨{ hdr := { structSig := 1 } }, {},
     { (atPhase .drained).put REEL_STAT.SPLICE_STATE 2 with reel := { staged := some ({ hdr := { structSig := 1 } }, {}) } }, by decide⟩,
   ⟨{}, {},
     { (atPhase .drained).put REEL_STAT.SPLICE_STATE 2 with reel := { spliceAt := some 5, staged := some ({}, {}) } }, by decide⟩,
   ⟨{ (atPhase .drained) with reel := { reloaded := true } }, by decide⟩,
   ⟨16, 0x302, { (atPhase .drained) with waiting := [(MEM_B_OWN 16, 0x302)] }, by decide⟩,
   ⟨3, { (atPhase .drained) with intg := { takeover := some 3 } }, by decide⟩,
   ⟨atPhase .applied, by decide⟩,
   ⟨atPhase .sealed, by decide⟩,
   ⟨atPhase .start, by decide⟩,
   ⟨⟨10, 6⟩, 0, 0, 0, [], { up with queues := [(⟨10, 6⟩, [.endWord 0 0 0])] }, by decide⟩,
   ⟨⟨0, 18⟩, 8, 63, 5, [], { up with queues := [(⟨0, 18⟩, [.input 63 5])] }, by decide⟩,
   ⟨7, 5, up, by decide⟩,
   ⟨7, 5, (up.put ENG_STAT.ES_BUSY 1).put ENG_STAT.ES_COVER 7, by decide⟩⟩

theorem witness_engineFaultTakesOver :
    (∃ (e : Fin 9) (c : Fin 11) (s : State), s.powered = true ∧ s.sys.mode.lists = true ∧ e.val < 8 ∧
      s.engState e = stRunning ∧ s.engs.length = 9 ∧ (s.eng e).undo = none ∧ s.flag INT_STAT.WINDOW = false ∧
      s.covering = false ∧ s.flag ENG_STAT.ES_OK = true) ∧
    (∃ (e : Fin 9) (c : Fin 11) (s : State), s.powered = true ∧ s.sys.mode.lists = true ∧ e.val < 8 ∧
      s.engState e = stRunning ∧ s.engs.length = 9 ∧ (s.eng e).undo = none ∧
      (s.flag INT_STAT.WINDOW = true ∨ s.covering = true ∨ s.flag ENG_STAT.ES_OK = false)) ∧
    (∃ (e : Fin 9) (c : Fin 11) (s : State), s.powered = true ∧ s.sys.mode.lists = true ∧ e.val = 8 ∧
      s.engState 8 = stRunning ∧ s.engs.length = 9 ∧ (s.eng 8).undo = none ∧ s.flag INT_STAT.WINDOW = false ∧
      s.covering = false) ∧
    (∃ (e e2 : Fin 9) (c c2 : Fin 11) (s : State), s.powered = true ∧ s.sys.mode.lists = true ∧ e.val < 8 ∧
      s.engState e = stRunning ∧ s.engs.length = 9 ∧ (s.eng e).undo = none ∧ e2.val < e.val ∧
      s.engState e2 = stRunning ∧ s.intg.takeover = none ∧ (s.eng e2).undo = none ∧ s.flag INT_STAT.WINDOW = false ∧
      s.covering = false ∧ s.flag ENG_STAT.ES_OK = true) ∧
    (∃ (e : Fin 9) (s : State), s.powered = true ∧ e.val < 8 ∧ s.engs.length = 9 ∧ s.clk.cutsOn = true ∧
      s.clk.phase = .start ∧ s.sys.mode.lists = true ∧ (s.eng e).started = false ∧ s.engState e = stRunning ∧
      (s.eng e).undo = none ∧ s.flag INT_STAT.WINDOW = false ∧ s.covering = false ∧ s.flag ENG_STAT.ES_OK = true) ∧
    (∃ (e : Nat) (s : State), s.powered = true ∧ s.atPhase .sealed = true ∧ s.intg.takeover = some e ∧ e < 8 ∧
      s.sys.mode.lists = true ∧ s.sys.cutFrom = none ∧ s.sys.safeNew = 0) :=
  ⟨⟨7, 10, engUp, by decide +kernel⟩,
   ⟨0, 10, (engUp.put (ENG_E_STAT.STATE 0) 2).put INT_STAT.WINDOW 1, by decide +kernel⟩,
   ⟨8, 10, engUp.put (ENG_E_STAT.STATE 8) 2, by decide +kernel⟩,
   ⟨7, 6, 0, 1, engUp.put (ENG_E_STAT.STATE 6) 2, by decide +kernel⟩,
   ⟨7, engStart, by decide +kernel⟩,
   ⟨7,
     ((atPhase .sealed).put (ENG_E_STAT.STATE 8) 2).put INT_STAT.WINDOW 1 |> fun s => { s with intg := { takeover := some 7, recAxes := 0x800 } }, by decide +kernel⟩⟩

theorem witness_engineRecoveryRequests :
    (∃ (e : Fin 9) (lo hi : Ecc) (s : State), s.powered = true ∧ e.val < 8 ∧ s.engs.length = 9 ∧ s.clk.cutsOn = true ∧
      s.clk.phase = .start ∧ s.sys.mode.lists = true ∧ s.engState e = stRunning ∧ (s.eng e).started = false ∧
      (s.eng e).force = false ∧ lo ≠ .uncorr ∧ hi ≠ .uncorr) ∧
    (∃ (m : BitVec 8) (s : State), s.hostOpen ∧ s.sys.mode = .service ∧ s.engs.length = 9 ∧
      (∀ e < 8, s.engState e ≠ stUnused)) ∧
    (∃ (s : State), s.hostOpen ∧ s.sys.mode = .service ∧ s.engs.length = 9 ∧ s.covering = true) ∧
    (∃ (m : BitVec 8) (s : State), s.hostOpen ∧ (∀ e < 8, m.getLsbD e = true → s.engState e = stCovered) ∧ m ≠ 0#8) ∧
    (∃ (s : State), s.powered = true ∧ s.flag INT_REC.VALID = true ∧ s.engState (s.fld INT_REC.ENGINE) = stReturning ∧
      s.engs.length = 9 ∧ s.fld INT_REC.ENGINE < 9) :=
  ⟨⟨7, .corr, .clean, engStart, by decide⟩,
   ⟨0x80#8, serviceEngs, by decide⟩,
   ⟨serviceEngs, by decide⟩,
   ⟨1#8, covered, by decide⟩,
   ⟨returning, by decide⟩⟩

theorem witness_reelSelectedAtBoot_1 : ∃ (k : Fin 2) (s : State), s.powered = true ∧ s.sys.boot = .firmware ∧
    s.flashFlaws = [] ∧ (∀ j < 2, s.slotState j ≠ slTrial) ∧ s.slotState k = slGood ∧ s.headOk k = true ∧
    (s.slotState (1 - k.val) ≠ slGood ∨ s.headOk (1 - k.val) = false) ∧
    (((s.verifyReel k).toOption.map fun c => ((s.loadTables c.copy 0).tablesOk c.copy 0).1) = some true) :=
  ⟨0, bootGood, by exact ⟨by decide +kernel, by decide +kernel, by decide +kernel, by decide +kernel, by decide +kernel, by decide +kernel, by decide +kernel, good_reads _ rfl⟩⟩

theorem witness_reelSelectedAtBoot_2 : ∃ (k d : Nat) (s : State), s.powered = true ∧ s.sys.boot = .firmware ∧
    s.flashFlaws = [] ∧ (∀ j < 2, s.slotState j ≠ slTrial) ∧ s.sys.wake = false ∧ s.slotState 0 = slGood ∧
    s.headOk 0 = true ∧ s.slotState 1 = slGood ∧ s.headOk 1 = true ∧
    d = (BitVec.ofNat 16 (le16 (s.slotHead 1) 8) - BitVec.ofNat 16 (le16 (s.slotHead 0) 8)).toNat ∧ (k = if 1 ≤ d ∧
    d ≤ 0x7FFF then 1 else 0) :=
  ⟨1, 1, bootTwo, by decide +kernel⟩

theorem witness_reelSelectedAtBoot_3 : ∃ (k : Nat) (s : State), s.powered = true ∧ s.sys.boot = .firmware ∧
    s.flashFlaws = [] ∧ (∀ j < 2, s.slotState j ≠ slTrial) ∧ s.sys.wake = true ∧ s.keep.slot = k ∧ k < 2 ∧
    s.slotState 0 = slGood ∧ s.headOk 0 = true ∧ s.slotState 1 = slGood ∧ s.headOk 1 = true :=
  ⟨0,
    { bootTwo with sys := { mode := .boot, inReset := false, boot := .firmware, wake := true }, keep := { slot := 0 } }, by decide +kernel⟩

theorem witness_reelSelectedAtBoot_4 : ∃ (k : Fin 2) (code : Nat) (s : State), s.powered = true ∧
    s.sys.boot = .firmware ∧ s.flashFlaws = [] ∧ (∀ j < 2, s.slotState j ≠ slTrial) ∧
    Store.wf (fun _ => (0xFF : Byte)) s.flash = true ∧ s.slotState k = slGood ∧ s.headOk k = true ∧
    (s.slotState (1 - k.val) ≠ slGood ∨ s.headOk (1 - k.val) = false) ∧ s.reelFault k = some (code, true) :=
  ⟨1, 0x304, bootBad, by decide +kernel⟩

theorem witness_reelSelectedAtBoot_5 : ∃ (k d code : Nat) (s : State), s.powered = true ∧ s.sys.boot = .firmware ∧
    s.flashFlaws = [] ∧ (∀ j < 2, s.slotState j ≠ slTrial) ∧ Store.wf (fun _ => (0xFF : Byte)) s.flash = true ∧
    s.sys.wake = false ∧ s.slotState 0 = slGood ∧ s.headOk 0 = true ∧ s.slotState 1 = slGood ∧ s.headOk 1 = true ∧
    d = (BitVec.ofNat 16 (le16 (s.slotHead 1) 8) - BitVec.ofNat 16 (le16 (s.slotHead 0) 8)).toNat ∧ (k = if 1 ≤ d ∧
    d ≤ 0x7FFF then 1 else 0) ∧ s.reelFault k = some (code, true) ∧
    (((s.verifyReel (1 - k)).toOption.map fun c => ((s.loadTables c.copy 0).tablesOk c.copy 0).1) = some true) :=
  ⟨1, 1, 0x304, bootTwo, by exact ⟨by decide +kernel, by decide +kernel, by decide +kernel, by decide +kernel, by decide +kernel, by decide +kernel, by decide +kernel, by decide +kernel, by decide +kernel, by decide +kernel, by decide +kernel, by decide +kernel, by decide +kernel, good_reads_of_two _ rfl⟩⟩

theorem witness_reelSelectedAtBoot_6 : ∃ (k : Fin 2) (s : State), s.powered = true ∧ s.sys.boot = .firmware ∧
    s.flashFlaws = [] ∧ (∀ j < 2, s.slotState j ≠ slTrial) ∧ s.slotState k = slGood ∧ s.headOk k = true ∧
    (s.slotState (1 - k.val) ≠ slGood ∨ s.headOk (1 - k.val) = false) :=
  ⟨1, bootBad, by decide +kernel⟩

theorem witness_reelSelectedAtBoot_7 : ∃ (k : Fin 2) (s : State), s.powered = true ∧ s.sys.boot = .firmware ∧
    Store.wf (fun _ => (0xFF : Byte)) s.flash = true ∧ s.slotState k = slTrial :=
  ⟨0,
    { up with sys := { mode := .boot, inReset := false, boot := .firmware }, flash := [(0x5FF00, 0x5A), (0x5FF01, 0x5A), (0x5FF02, 0x5A)] }, by decide +kernel⟩

theorem witness_reelSelectedAtBoot_8 : ∃ (s : State), s.powered = true ∧ s.sys.boot = .firmware ∧
    (∀ k < 2, s.slotState k ≠ slGood ∧ s.slotState k ≠ slTrial) :=
  ⟨{ up with sys := { mode := .boot, inReset := false, boot := .firmware } }, by decide +kernel⟩

theorem witness_reelSelectedAtBoot_9 : ∃ (late : Nat) (s : State), s.powered = true ∧ s.sys.boot = .reel ∧
    (s.bootLoad.loadRegs false).1 = true :=
  ⟨0, { up with sys := { mode := .boot, inReset := false, boot := .reel } }, by exact ⟨by decide, by decide, registers_load _ rfl rfl⟩⟩

theorem witness_reelSelectedAtBoot_10 : ∃ (late : Nat) (s : State), s.powered = true ∧ s.sys.boot = .reel ∧
    (s.bootLoad.loadRegs false).1 = false :=
  ⟨0,
    { up with sys := { mode := .boot, inReset := false, boot := .reel }, reel := { active := { regInit := [(CLK_FRAME_LEN, 799)] } } }, by exact ⟨by decide, by decide, registers_fail _ rfl rfl⟩⟩

theorem witness_reelSelectedAtBoot_11 : ∃ (late k : Nat) (s : State), s.powered = true ∧ s.sys.boot = .reel ∧
    s.flashFlaws = [] ∧ Store.wf (fun _ => (0xFF : Byte)) s.flash = true ∧ k = s.activeReel ∧ s.slotState k = slGood ∧
    (s.slotState (1 - k) ≠ slGood ∨ s.headOk (1 - k) = false) :=
  ⟨0, 1, { bootBad.put REEL_STAT.ACTIVE_SLOT 1 with sys := { mode := .boot, inReset := false, boot := .reel } }, by decide +kernel⟩

theorem witness_reelSelectedAtBoot_12 : ∃ (late k : Nat) (s : State), s.powered = true ∧ s.sys.boot = .reel ∧
    s.flashFlaws = [] ∧ Store.wf (fun _ => (0xFF : Byte)) s.flash = true ∧ k = s.activeReel ∧ s.slotState k = slGood ∧
    s.slotState (1 - k) = slGood ∧ s.headOk (1 - k) = true :=
  ⟨0, 1, { bootTwo.put REEL_STAT.ACTIVE_SLOT 1 with sys := { mode := .boot, inReset := false, boot := .reel } }, by decide +kernel⟩

theorem witness_spliceStagesOrRefuses :
    (∃ (v : Word) (s : State), s.hostOpen ∧ s.splicing = false ∧ REEL_SPLICE.TAKE.of v ≠ 0 ∧
      s.spliceReason (v &&& rwMask REEL_SPLICE) = 0) ∧
    (∃ (v : Word) (s : State), s.hostOpen ∧ s.splicing = false ∧ REEL_SPLICE.TAKE.of v ≠ 0 ∧
      s.spliceReason (v &&& rwMask REEL_SPLICE) ≠ 0) ∧
    (∃ (v : Word) (s : State), s.hostOpen ∧ (s.splicing = true ∨ REEL_SPLICE.TAKE.of v = 0)) ∧
    (∃ (bad : Bool) (s : State), s.powered = true ∧ s.mgt.mcOk = true ∧ s.mgt.stopped = false ∧
      s.fld REEL_STAT.SPLICE_STATE = 1) ∧
    (∃ (s : State), s.powered = true ∧ s.mgt.mcOk = true ∧ s.mgt.stopped = false ∧ s.reel.repairCheck = true ∧
      s.reel.staged.isSome = true) ∧
    (∃ (s : State), s.powered = true ∧ s.mgt.mcOk = true ∧ s.mgt.stopped = false ∧ s.reel.repairCheck = true ∧
      s.reel.staged = none) ∧
    (∃ (s : State), s.hostOpen ∧ s.splicing = true) :=
  ⟨⟨0x10001, reelB, by decide +kernel⟩,
   ⟨0x10001, up, by decide +kernel⟩,
   ⟨0, up, by decide +kernel⟩,
   ⟨false, { up.put REEL_STAT.SPLICE_STATE 1 with mgt := { mcOk := true } }, by decide +kernel⟩,
   ⟨{ up with mgt := { mcOk := true }, reel := { repairCheck := true, staged := some ({}, {}) } }, by decide +kernel⟩,
   ⟨{ up with mgt := { mcOk := true }, reel := { repairCheck := true } }, by decide +kernel⟩,
   ⟨up.put REEL_STAT.SPLICE_STATE 1, by decide +kernel⟩⟩

theorem witness_trialEnds :
    (∃ (s : State), s.hostOpen ∧ s.flag REEL_STAT.TRIAL = true ∧ Store.wf (fun _ => (0xFF : Byte)) s.flash = true ∧
      s.slotState s.activeReel = slTrial) ∧
    (∃ (s : State), s.hostOpen ∧ s.flag REEL_STAT.TRIAL = true) ∧
    (∃ (s : State), s.hostOpen) ∧
    (∃ (s : State), s.powered = true ∧ s.mgt.mcOk = true ∧ s.mgt.stopped = false ∧ s.reel.toTrial = some 1 ∧
      s.reel.toReject = none ∧ s.slotState 1 = slVerified ∧ Store.wf (fun _ => (0xFF : Byte)) s.flash = true) ∧
    (∃ (s : State), s.powered = true ∧ s.mgt.mcOk = true ∧ s.mgt.stopped = false ∧ s.reel.toTrial = some 0 ∧
      s.reel.toReject = none ∧ s.slotState 0 = slVerified ∧ Store.wf (fun _ => (0xFF : Byte)) s.flash = true) ∧
    (∃ (s : State), s.powered = true ∧ s.mgt.mcOk = true ∧ s.mgt.stopped = false ∧ s.flag REEL_STAT.TRIAL = true ∧
      s.reel.active.hdr.trialFrames ≠ 0 ∧ s.reel.active.hdr.trialFrames ≤ s.reel.trialCuts ∧
      s.reel.trialFault = false ∧ Store.wf (fun _ => (0xFF : Byte)) s.flash = true ∧
      s.slotState s.activeReel = slTrial) ∧
    (∃ (s : State), s.powered = true ∧ s.mgt.mcOk = true ∧ s.mgt.stopped = false ∧
      (s.sys.mode = .standby ∨ s.sys.mode = .run ∨ s.sys.mode = .degraded ∨ s.sys.mode = .safe ∨ s.sys.mode =
      .service) ∧ s.hasTake = true ∧ s.reel.reloading = false ∧ s.reel.reloaded = false) ∧
    (∃ (bad : Bool) (s : State), s.powered = true ∧ s.mgt.mcOk = true ∧ s.mgt.stopped = false ∧
      s.reel.reloading = true ∧ s.splicing = false) :=
  ⟨⟨{ up.put REEL_STAT.TRIAL 1 with flash := [(0x5FF00, 0x5A), (0x5FF01, 0x5A), (0x5FF02, 0x5A)] }, by decide +kernel⟩,
   ⟨up.put REEL_STAT.TRIAL 1, by decide +kernel⟩,
   ⟨up, by decide +kernel⟩,
   ⟨{ reelB with mgt := { mcOk := true }, reel := { toTrial := some 1 } }, by decide +kernel⟩,
   ⟨{ up with flash := [(0x5FF00, 0x5A), (0x5FF01, 0x5A)], mgt := { mcOk := true }, reel := { toTrial := some 0 } }, by decide +kernel⟩,
   ⟨{ up.put REEL_STAT.TRIAL 1 with flash := [(0x5FF00, 0x5A), (0x5FF01, 0x5A), (0x5FF02, 0x5A)], mgt := { mcOk := true }, reel := { trialCuts := 3, active := { hdr := { trialFrames := 3 } } } }, by decide +kernel⟩,
   ⟨{ up.put REEL_STAT.ACTIVE_TAKE 1 with mgt := { mcOk := true } }, by decide +kernel⟩,
   ⟨false, { up with mgt := { mcOk := true }, reel := { reloading := true } }, by decide +kernel⟩⟩

theorem witness_modeRequestTaken :
    (∃ (s : State), s.hostOpen ∧ s.modeReason 1 = 0) ∧
    (∃ (s : State), s.hostOpen ∧ s.modeReason 2 = 0) ∧
    (∃ (s : State), s.hostOpen ∧ s.modeReason 3 = 0) ∧
    (∃ (s : State), s.hostOpen ∧ s.modeReason 4 = 0) ∧
    (∃ (s : State), s.hostOpen ∧ s.modeReason 5 = 0) ∧
    (∃ (s : State), s.hostOpen ∧ s.modeReason 1 ≠ 0) ∧
    (∃ (s : State), s.hostOpen ∧ s.modeReason 2 ≠ 0) ∧
    (∃ (s : State), s.hostOpen ∧ s.modeReason 3 ≠ 0) ∧
    (∃ (s : State), s.hostOpen ∧ s.modeReason 4 ≠ 0) ∧
    (∃ (s : State), s.hostOpen ∧ s.modeReason 5 ≠ 0) ∧
    (∃ (key : Byte) (s : State), s.hostOpen ∧ key ≠ 0) ∧
    (∃ (key : Byte) (s : State), s.hostOpen ∧ key ≠ 0) ∧
    (∃ (key : Byte) (s : State), s.hostOpen ∧ key ≠ 0) ∧
    (∃ (key : Byte) (s : State), s.hostOpen ∧ key ≠ 0) ∧
    (∃ (key : Byte) (s : State), s.hostOpen ∧ key ≠ 0) ∧
    (∃ (key : Byte) (s : State), s.hostOpen ∧ key ≠ 0xA5#8) ∧
    (∃ (s : State), s.hostOpen) :=
  ⟨⟨up, by decide⟩,
   ⟨standbyUp, by decide⟩,
   ⟨up, by decide⟩,
   ⟨up, by decide⟩,
   ⟨standbyUp.put CAN_WAKE.PIN_EN 1, by decide⟩,
   ⟨standbyUp, by decide⟩,
   ⟨up, by decide⟩,
   ⟨{ State.reset with sys := { mode := .safe, inReset := false } }, by decide⟩,
   ⟨serviceUp, by decide⟩,
   ⟨up, by decide⟩,
   ⟨0xA5, up, by decide⟩,
   ⟨0xA5, up, by decide⟩,
   ⟨0xA5, up, by decide⟩,
   ⟨0xA5, up, by decide⟩,
   ⟨0xA5, up, by decide⟩,
   ⟨0xA4, up, by decide⟩,
   ⟨up, by decide⟩⟩

theorem witness_resetCausesRecorded :
    (∃ (s : State), s.sys.mode ≠ .off ∧ s.sys.mode ≠ .sleep ∧ s.sys.inReset = false) ∧
    (∃ (s : State), s.powered = true) ∧
    (∃ (s : State), s.powered = true) ∧
    (∃ (s : State), s.powered = true ∧ s.clk.rcOk = false ∧ s.flag CLK_STAT.HOLDOVER = true) ∧
    (∃ (s : State), s.sys.mode = .sleep ∧ s.sys.inReset = false) ∧
    (∃ (s : State), s.sys.mode ≠ .off ∧ s.sys.inReset = true) ∧
    (∃ (s : State), s.sys.inReset = true) ∧
    (∃ (s : State), s.sys.inReset = true) ∧
    (∃ (s : State), s.sys.mode = .off) :=
  ⟨⟨up, by decide⟩,
   ⟨up, by decide⟩,
   ⟨up, by decide⟩,
   ⟨{ up.put CLK_STAT.HOLDOVER 1 with clk := { rcOk := false } }, by decide⟩,
   ⟨{ State.reset with sys := { mode := .sleep, inReset := false } }, by decide⟩,
   ⟨State.reset, by decide⟩,
   ⟨State.reset, by decide⟩,
   ⟨State.reset, by decide⟩,
   ⟨{ State.reset with sys := { mode := .off, inReset := false } }, by decide⟩⟩

theorem witness_supplyMonitors :
    (∃ (s : State), s.powered = true ∧ s.flag SYS_STAT.LV = false) ∧
    (∃ (s : State), s.powered = true) ∧
    (∃ (s : State), s.powered = true ∧ s.flag SYS_STAT.OV = false ∧ s.mods.length = 12) ∧
    (∃ (s : State), s.powered = true) ∧
    (∃ (s : State), s.powered = true ∧ s.sys.vioLow = false) ∧
    (∃ (s : State), s.powered = true) :=
  ⟨⟨up, by decide⟩,
   ⟨up, by decide⟩,
   ⟨up, by decide⟩,
   ⟨up.put SYS_STAT.OV 1, by decide⟩,
   ⟨up, by decide⟩,
   ⟨up, by decide⟩⟩

theorem witness_sleepAndWake :
    (∃ (s : State), s.sys.mode = .sleep ∧ s.sys.sleepEntry = true) ∧
    (∃ (n : Nat) (s : State), s.sys.mode = .sleep ∧ s.sys.inReset = false ∧ s.keep.wakeCfg = 1 ∧ s.keep.seen = 0 ∧
      s.keep.sat = false ∧ n < 2 ^ 40) ∧
    (∃ (rising : Bool) (n : Nat) (s : State), s.powered = true) ∧
    (∃ (n : Nat) (s : State), s.sys.mode = .sleep ∧ s.sys.inReset = false ∧ s.keep.wakeCfg = 8 ∧ s.keep.seen = 0 ∧
      s.keep.sat = false ∧ n < 2 ^ 40) ∧
    (∃ (p : Nat) (s : State), s.sys.mode = .sleep ∧ s.sys.inReset = false ∧ s.keep.timer = some p ∧ s.keep.seen = 0 ∧
      s.keep.sat = false ∧ p < 2 ^ 30) ∧
    (∃ (cascM : Bool) (s : State), s.sys.inReset = true ∧ s.sys.mode ≠ .off ∧ s.flag SYS_STAT.LV = false ∧
      s.flag SYS_STAT.OV = false ∧ s.sys.vioLow = false) ∧
    (∃ (cascM : Bool) (s : State), s.sys.mode = .sleep ∧ s.sys.inReset = false ∧ s.sys.sleepEntry = false ∧
      s.keep.seen ≠ 0 ∧ s.flag SYS_STAT.LV = false ∧ s.flag SYS_STAT.OV = false ∧ s.sys.vioLow = false) :=
  ⟨⟨{ State.reset with sys := { mode := .sleep, inReset := false, sleepEntry := true } }, by decide⟩,
   ⟨5, { State.reset with sys := { mode := .sleep, inReset := false }, keep := { wakeCfg := 1 } }, by decide⟩,
   ⟨true, 0, up, by decide⟩,
   ⟨5, { State.reset with sys := { mode := .sleep, inReset := false }, keep := { wakeCfg := 8 } }, by decide⟩,
   ⟨5, { State.reset with sys := { mode := .sleep, inReset := false }, keep := { timer := some 5 } }, by decide⟩,
   ⟨true, State.reset, by decide⟩,
   ⟨true, { State.reset with sys := { mode := .sleep, inReset := false }, keep := { seen := 6 } }, by decide⟩⟩

theorem witness_bootSteps :
    (∃ (bad : List (Fin 17 × Fin 256)) (s : State), s.powered = true ∧ s.sys.boot = .started) ∧
    (∃ (s : State), s.powered = true ∧ s.sys.boot = .rails ∧ s.flag SYS_STAT.TEST = true) ∧
    (∃ (k : Fin 4) (s : State), s.powered = true ∧ s.sys.boot = .rails ∧ s.flag SYS_STAT.TEST = false ∧
      s.flashFlaws = [] ∧ (∀ j < 4, 2 ≤ j → s.slotState j ≠ slTrial) ∧
      Store.wf (fun _ => (0xFF : Byte)) s.flash = true ∧ 2 ≤ k.val ∧ s.fwCandidate k = true ∧
      s.fwCandidate (5 - k.val) = false) ∧
    (∃ (k d : Nat) (s : State), s.powered = true ∧ s.sys.boot = .rails ∧ s.flag SYS_STAT.TEST = false ∧
      s.flashFlaws = [] ∧ (∀ j < 4, 2 ≤ j → s.slotState j ≠ slTrial) ∧ s.fwCandidate 2 = true ∧
      s.fwCandidate 3 = true ∧ d = (BitVec.ofNat 16 (s.fwVersion 3) - BitVec.ofNat 16 (s.fwVersion 2)).toNat ∧
      (k = if 1 ≤ d ∧ d ≤ 0x7FFF then 3 else 2)) ∧
    (∃ (s : State), s.powered = true ∧ s.sys.boot = .rails ∧ s.flag SYS_STAT.TEST = false ∧ (∀ k < 4, 2 ≤ k →
      s.slotState k ≠ slGood ∧ s.slotState k ≠ slTrial)) :=
  ⟨⟨[(3, 5)], { up with sys := { mode := .boot, inReset := false, boot := .started } }, by decide +kernel⟩,
   ⟨{ up.put SYS_STAT.TEST 1 with sys := { mode := .boot, inReset := false, boot := .rails } }, by decide +kernel⟩,
   ⟨3, fwOne, by decide +kernel⟩,
   ⟨3, 1, fwTwo, by decide +kernel⟩,
   ⟨{ up with sys := { mode := .boot, inReset := false, boot := .rails } }, by decide +kernel⟩⟩

theorem witness_registerWrites :
    (∃ (v : Word) (s : State), s.hostOpen) ∧
    (∃ (a : BitVec 24) (v : Word) (x : Nat) (r : RegRow) (s : State), s.hostOpen ∧ x = a.toNat / 4 * 4 ∧
      0x100000 ≤ x ∧ s.absent x = false ∧ s.actTop .host x v = none ∧ s.actMotion .host x v = none ∧
      s.actAnalog .host x v {} = none ∧ s.actLinks .host x v {} = none ∧ regRow x = some r ∧ s.spi.writes = [] ∧
      s.illegal .host x v = false ∧ s.clearHeld x v = false) ∧
    (∃ (a : BitVec 24) (v : Word) (x : Nat) (r : RegRow) (s : State), s.hostOpen ∧ x = a.toNat / 4 * 4 ∧
      0x100000 ≤ x ∧ s.absent x = false ∧ s.actTop .host x v = none ∧ s.actMotion .host x v = none ∧
      s.actAnalog .host x v {} = none ∧ s.actLinks .host x v {} = none ∧ regRow x = some r ∧ s.spi.writes = [] ∧
      (s.illegal .host x v = true ∨ s.clearHeld x v = true)) ∧
    (∃ (a : BitVec 24) (v : Word) (s : State), s.hostOpen ∧ a.toNat < 0x41000) ∧
    (∃ (b : Fin 17) (v : Word) (s : State), s.hostOpen ∧ s.illegal .host (MEM_B_OWN b) v = false) ∧
    (∃ (b : Fin 17) (v : Word) (s : State), s.hostOpen ∧ s.illegal .host (MEM_B_OWN b) v = true) ∧
    (∃ (j : Fin 8) (s : State), s.powered = true ∧ s.pos.stamped.getLsbD j = true) ∧
    (∃ (n : Fin 16) (s : State), s.powered = true ∧ s.can.rbs.length = 17) ∧
    (∃ (s : State), s.powered = true ∧ s.can.rbs.length = 17) :=
  ⟨⟨5, up, by decide⟩,
   ⟨BitVec.ofNat 24 CAN_IRQ, 5, CAN_IRQ, (regRow CAN_IRQ).getD ⟨0, 0, 0, 0, 0, 0, 0, 0, 0⟩, up.setWord CAN_IRQ 7, by decide⟩,
   ⟨BitVec.ofNat 24 SYS_WAKE, 1, SYS_WAKE, (regRow SYS_WAKE).getD ⟨0, 0, 0, 0, 0, 0, 0, 0, 0⟩, up, by decide⟩,
   ⟨0x40FFF, 7, up, by decide⟩,
   ⟨16, up.word (MEM_B_OWN 16), up, by decide⟩,
   ⟨16, 0, up, by decide⟩,
   ⟨7, { up with pos := { stamped := 0x80 } }, by decide⟩,
   ⟨15, up, by decide⟩,
   ⟨up, by decide⟩⟩

theorem witness_shotsMoveValues :
    (∃ (e : Fin 9) (f : Fetch) (c : Shot) (g : Eng) (s : State), s.shotReady 0x01 e f = true ∧ c = s.shotOf e f ∧
      g = s.eng e) ∧
    (∃ (e : Fin 9) (f : Fetch) (c : Shot) (g : Eng) (s : State), s.shotReady 0x02 e f = true ∧ c = s.shotOf e f ∧
      g = s.eng e) ∧
    (∃ (e : Fin 9) (f : Fetch) (c : Shot) (g : Eng) (s : State), s.shotReady 0x03 e f = true ∧ c = s.shotOf e f ∧
      g = s.eng e ∧ c.b 4 = 0) ∧
    (∃ (e : Fin 9) (f : Fetch) (c : Shot) (g : Eng) (i : Nat) (s : State), s.shotReady 0x03 e f = true ∧
      c = s.shotOf e f ∧ g = s.eng e ∧ c.b 4 = 1 ∧ i = (g.op (c.b 5)).toNat % 32 ∧ i < c.b 6) ∧
    (∃ (e : Fin 9) (f : Fetch) (c : Shot) (g : Eng) (i : Nat) (s : State), s.shotReady 0x03 e f = true ∧
      c = s.shotOf e f ∧ g = s.eng e ∧ c.b 4 = 1 ∧ i = (g.op (c.b 5)).toNat % 32 ∧ c.b 6 ≤ i) ∧
    (∃ (e : Fin 9) (f : Fetch) (c : Shot) (g : Eng) (i : Nat) (s : State), s.shotReady 0x04 e f = true ∧
      c = s.shotOf e f ∧ g = s.eng e ∧ c.inputOf (c.b 3) = some i) :=
  ⟨⟨0, {}, (shotUp 0x0000000003FF0001 [] [] []).shotOf 0 {}, (shotUp 0x0000000003FF0001 [] [] []).eng 0,
     shotUp 0x0000000003FF0001 [] [] [], by decide⟩,
   ⟨0, {}, (shotUp 0x00000000031F0002 [1, 2, 3, 4] [] []).shotOf 0 {},
     (shotUp 0x00000000031F0002 [1, 2, 3, 4] [] []).eng 0, shotUp 0x00000000031F0002 [1, 2, 3, 4] [] [], by decide⟩,
   ⟨0, {}, (shotUp 0x0000000040010003 [] [] []).shotOf 0 {}, (shotUp 0x0000000040010003 [] [] []).eng 0,
     shotUp 0x0000000040010003 [] [] [], by decide⟩,
   ⟨0, {}, (shotUp 0x0003090140010003 [] [(9, 2)] []).shotOf 0 {},
     (shotUp 0x0003090140010003 [] [(9, 2)] []).eng 0, 2, shotUp 0x0003090140010003 [] [(9, 2)] [], by decide⟩,
   ⟨0, {}, (shotUp 0x0003090140010003 [] [(9, 3)] []).shotOf 0 {},
     (shotUp 0x0003090140010003 [] [(9, 3)] []).eng 0, 3, shotUp 0x0003090140010003 [] [(9, 3)] [], by decide⟩,
   ⟨0, {}, (shotUp 0x0000020144000004 [] [] [(4, 0x10000), (5, 0x10000)]).shotOf 0 {},
     (shotUp 0x0000020144000004 [] [] [(4, 0x10000), (5, 0x10000)]).eng 0, 4,
     shotUp 0x0000020144000004 [] [] [(4, 0x10000), (5, 0x10000)], by decide⟩⟩

theorem witness_shotsCompute :
    (∃ (e : Fin 9) (f : Fetch) (c : Shot) (g : Eng) (s : State), s.shotReady 0x08 e f = true ∧ c = s.shotOf e f ∧
      g = s.eng e ∧ c.b 5 = 0) ∧
    (∃ (e : Fin 9) (f : Fetch) (c : Shot) (g : Eng) (s : State), s.shotReady 0x08 e f = true ∧ c = s.shotOf e f ∧
      g = s.eng e ∧ c.b 5 = 1) ∧
    (∃ (e : Fin 9) (f : Fetch) (c : Shot) (g : Eng) (s : State), s.shotReady 0x08 e f = true ∧ c = s.shotOf e f ∧
      g = s.eng e ∧ c.b 5 = 2) ∧
    (∃ (e : Fin 9) (f : Fetch) (c : Shot) (g : Eng) (s : State), s.shotReady 0x08 e f = true ∧ c = s.shotOf e f ∧
      g = s.eng e ∧ c.b 5 = 3) ∧
    (∃ (e : Fin 9) (f : Fetch) (c : Shot) (g : Eng) (s : State), s.shotReady 0x08 e f = true ∧ c = s.shotOf e f ∧
      g = s.eng e ∧ c.b 5 = 4) ∧
    (∃ (e : Fin 9) (f : Fetch) (c : Shot) (g : Eng) (s : State), s.shotReady 0x08 e f = true ∧ c = s.shotOf e f ∧
      g = s.eng e ∧ c.b 5 = 5) ∧
    (∃ (e : Fin 9) (f : Fetch) (c : Shot) (g : Eng) (s : State), s.shotReady 0x09 e f = true ∧ c = s.shotOf e f ∧
      g = s.eng e ∧ c.b 4 = 0) ∧
    (∃ (e : Fin 9) (f : Fetch) (c : Shot) (g : Eng) (s : State), s.shotReady 0x09 e f = true ∧ c = s.shotOf e f ∧
      g = s.eng e ∧ c.b 4 = 7) ∧
    (∃ (e : Fin 9) (f : Fetch) (c : Shot) (g : Eng) (p r : Int) (s : State), s.shotReady 0x09 e f = true ∧
      c = s.shotOf e f ∧ g = s.eng e ∧ (p =
      if (c.b 4).testBit 2 then ((c.src g (c.b 2)).toNat * (c.src g (c.b 3)).toNat : Int) else (c.src g (c.b 2)).toInt
      * (c.src g (c.b 3)).toInt) ∧ r =
      (if (c.b 4).testBit 0 then g.acc.toInt else 0) + (if (c.b 4).testBit 1 then -p else p)) ∧
    (∃ (e : Fin 9) (f : Fetch) (c : Shot) (g : Eng) (s : State), s.shotReady 0x0A e f = true ∧ c = s.shotOf e f ∧
      g = s.eng e ∧ c.b 4 = 0) ∧
    (∃ (e : Fin 9) (f : Fetch) (c : Shot) (g : Eng) (s : State), s.shotReady 0x0A e f = true ∧ c = s.shotOf e f ∧
      g = s.eng e ∧ c.b 4 = 1 ∧ 0 < c.b 3) ∧
    (∃ (e : Fin 9) (f : Fetch) (c : Shot) (g : Eng) (s : State), s.shotReady 0x0A e f = true ∧ c = s.shotOf e f ∧
      g = s.eng e ∧ c.b 4 = 1 ∧ c.b 3 = 0) ∧
    (∃ (e : Fin 9) (f : Fetch) (c : Shot) (g : Eng) (r : Int) (s : State), s.shotReady 0x0A e f = true ∧
      c = s.shotOf e f ∧ g = s.eng e ∧ (c.b 4 = 2 ∨ c.b 4 = 3) ∧ (r = (g.acc.toInt + if c.b 4 = 3 ∧
      0 < c.b 3 then 2 ^ (c.b 3 - 1) else 0) >>> (c.b 3))) ∧
    (∃ (e : Fin 9) (f : Fetch) (c : Shot) (g : Eng) (s : State), s.shotReady 0x0F e f = true ∧ c = s.shotOf e f ∧
      g = s.eng e) ∧
    (∃ (e : Fin 9) (f : Fetch) (c : Shot) (g : Eng) (s : State), s.shotReady 0x10 e f = true ∧ c = s.shotOf e f ∧
      g = s.eng e ∧ c.b 4 = 0) ∧
    (∃ (e : Fin 9) (f : Fetch) (c : Shot) (g : Eng) (s : State), s.shotReady 0x10 e f = true ∧ c = s.shotOf e f ∧
      g = s.eng e ∧ c.b 4 = 1) ∧
    (∃ (e : Fin 9) (f : Fetch) (c : Shot) (g : Eng) (s : State), s.shotReady 0x10 e f = true ∧ c = s.shotOf e f ∧
      g = s.eng e ∧ c.b 4 = 2) :=
  ⟨⟨0, {}, (shotUp 0x0000000100020008 [] [(0, 0xFFFFFFFF), (1, 2)] []).shotOf 0 {},
     (shotUp 0x0000000100020008 [] [(0, 0xFFFFFFFF), (1, 2)] []).eng 0,
     shotUp 0x0000000100020008 [] [(0, 0xFFFFFFFF), (1, 2)] [], by decide⟩,
   ⟨0, {}, (shotUp 0x0000010100000008 [] [(1, 2)] []).shotOf 0 {},
     (shotUp 0x0000010100000008 [] [(1, 2)] []).eng 0, shotUp 0x0000010100000008 [] [(1, 2)] [], by decide⟩,
   ⟨0, {}, (shotUp 0x0000020100020008 [] [(0, 0x7FFFFFFF), (1, 2)] []).shotOf 0 {},
     (shotUp 0x0000020100020008 [] [(0, 0x7FFFFFFF), (1, 2)] []).eng 0,
     shotUp 0x0000020100020008 [] [(0, 0x7FFFFFFF), (1, 2)] [], by decide⟩,
   ⟨0, {}, (shotUp 0x0000030100020008 [] [(0, 0x80000000), (1, 2)] []).shotOf 0 {},
     (shotUp 0x0000030100020008 [] [(0, 0x80000000), (1, 2)] []).eng 0,
     shotUp 0x0000030100020008 [] [(0, 0x80000000), (1, 2)] [], by decide⟩,
   ⟨0, {}, (shotUp 0x0000040100020008 [] [(0, 0xFFFFFFFF), (1, 2)] []).shotOf 0 {},
     (shotUp 0x0000040100020008 [] [(0, 0xFFFFFFFF), (1, 2)] []).eng 0,
     shotUp 0x0000040100020008 [] [(0, 0xFFFFFFFF), (1, 2)] [], by decide⟩,
   ⟨0, {}, (shotUp 0x0000050100020008 [] [(0, 1), (1, 2)] []).shotOf 0 {},
     (shotUp 0x0000050100020008 [] [(0, 1), (1, 2)] []).eng 0, shotUp 0x0000050100020008 [] [(0, 1), (1, 2)] [], by decide⟩,
   ⟨0, {}, (shotUp 0x0000000001000009 [] [(0, 0x80000000), (1, 0x80000000)] []).shotOf 0 {},
     (shotUp 0x0000000001000009 [] [(0, 0x80000000), (1, 0x80000000)] []).eng 0,
     shotUp 0x0000000001000009 [] [(0, 0x80000000), (1, 0x80000000)] [], by decide⟩,
   ⟨0, {}, (shotUp 0x0000000701000009 [] [(0, 0x80000000), (1, 0x80000000)] []).shotOf 0 {},
     (shotUp 0x0000000701000009 [] [(0, 0x80000000), (1, 0x80000000)] []).eng 0,
     shotUp 0x0000000701000009 [] [(0, 0x80000000), (1, 0x80000000)] [], by decide⟩,
   ⟨0, {}, (shotUp 0x0000000501000009 [] [(0, 0x80000000), (1, 0x80000000)] []).shotOf 0 {},
     (shotUp 0x0000000501000009 [] [(0, 0x80000000), (1, 0x80000000)] []).eng 0, 0x4000000000000000,
     0x4000000000000000, shotUp 0x0000000501000009 [] [(0, 0x80000000), (1, 0x80000000)] [], by decide⟩,
   ⟨0, {}, (shotUp 0x000000003F02000A [] [] []).shotOf 0 {}, (shotUp 0x000000003F02000A [] [] []).eng 0,
     shotUp 0x000000003F02000A [] [] [], by decide⟩,
   ⟨0, {}, (shotUp 0x000000013F02000A [] [] []).shotOf 0 {}, (shotUp 0x000000013F02000A [] [] []).eng 0,
     shotUp 0x000000013F02000A [] [] [], by decide⟩,
   ⟨0, {}, (shotUp 0x000000010002000A [] [] []).shotOf 0 {}, (shotUp 0x000000010002000A [] [] []).eng 0,
     shotUp 0x000000010002000A [] [] [], by decide⟩,
   ⟨0, {}, (shotUp 0x000000033F02000A [] [] []).shotOf 0 {}, (shotUp 0x000000033F02000A [] [] []).eng 0, 0,
     shotUp 0x000000033F02000A [] [] [], by decide⟩,
   ⟨0, {}, (shotUp 0x000003010002000F [] [(0, 5), (1, 9), (3, 7)] []).shotOf 0 {},
     (shotUp 0x000003010002000F [] [(0, 5), (1, 9), (3, 7)] []).eng 0,
     shotUp 0x000003010002000F [] [(0, 5), (1, 9), (3, 7)] [], by decide⟩,
   ⟨0, {}, (shotUp 0x0000000000020010 [] [(0, 0x80000000)] []).shotOf 0 {},
     (shotUp 0x0000000000020010 [] [(0, 0x80000000)] []).eng 0, shotUp 0x0000000000020010 [] [(0, 0x80000000)] [], by decide⟩,
   ⟨0, {}, (shotUp 0x0000000100020010 [] [(0, 0x80000000)] []).shotOf 0 {},
     (shotUp 0x0000000100020010 [] [(0, 0x80000000)] []).eng 0, shotUp 0x0000000100020010 [] [(0, 0x80000000)] [], by decide⟩,
   ⟨0, {}, (shotUp 0x0000000200020010 [] [(0, 0x80000000)] []).shotOf 0 {},
     (shotUp 0x0000000200020010 [] [(0, 0x80000000)] []).eng 0, shotUp 0x0000000200020010 [] [(0, 0x80000000)] [], by decide⟩⟩

theorem witness_divTruncates :
    (∃ (e : Fin 9) (f : Fetch) (c : Shot) (g : Eng) (s : State), s.shotReady 0x11 e f = true ∧ c = s.shotOf e f ∧
      g = s.eng e ∧ (c.src g (c.b 4)) ≠ 0) ∧
    (∃ (e : Fin 9) (f : Fetch) (c : Shot) (g : Eng) (s : State), s.shotReady 0x11 e f = true ∧ c = s.shotOf e f ∧
      g = s.eng e ∧ (c.src g (c.b 4)) = 0) :=
  ⟨⟨0, {}, (shotUp 0x00001F0100020011 [] [(0, 0x80000000), (1, 1)] []).shotOf 0 {},
     (shotUp 0x00001F0100020011 [] [(0, 0x80000000), (1, 1)] []).eng 0,
     shotUp 0x00001F0100020011 [] [(0, 0x80000000), (1, 1)] [], by decide⟩,
   ⟨0, {}, (shotUp 0x00001F0100020011 [] [(0, 0x80000000)] []).shotOf 0 {},
     (shotUp 0x00001F0100020011 [] [(0, 0x80000000)] []).eng 0, shotUp 0x00001F0100020011 [] [(0, 0x80000000)] [], by decide⟩⟩

theorem witness_isqrtFloor :
    (∃ (e : Fin 9) (f : Fetch) (c : Shot) (g : Eng) (s : State), s.shotReady 0x12 e f = true ∧ c = s.shotOf e f ∧
      g = s.eng e) ∧
    (∃ (e : Fin 9) (f : Fetch) (s : State), s.powered = true ∧ (s.eng e).exec = true ∧ s.engState e = stRunning ∧
      f.lo ≠ .uncorr ∧ f.hi ≠ .uncorr ∧ (s.shotOf e f).b 0 = 0x12 ∧ (s.shotOf e f).b 4 % 2 = 1 ∧ e.val < 8) :=
  ⟨⟨0, {}, (shotUp 0x0000001E00020012 [] [(0, 0xFFFFFFFF)] []).shotOf 0 {},
     (shotUp 0x0000001E00020012 [] [(0, 0xFFFFFFFF)] []).eng 0, shotUp 0x0000001E00020012 [] [(0, 0xFFFFFFFF)] [], by decide⟩,
   ⟨0, {}, (shotUp 0x0000001D00020012 [] [] []).put (ENG_E_STAT.STATE 0) 2, by decide⟩⟩

theorem witness_shotsSelect :
    (∃ (e : Fin 9) (f : Fetch) (c : Shot) (g : Eng) (s : State), s.shotReady 0x0B e f = true ∧ c = s.shotOf e f ∧
      g = s.eng e) ∧
    (∃ (e : Fin 9) (f : Fetch) (c : Shot) (g : Eng) (s : State), s.shotReady 0x0C e f = true ∧ c = s.shotOf e f ∧
      g = s.eng e) ∧
    (∃ (e : Fin 9) (f : Fetch) (c : Shot) (g : Eng) (s : State), s.shotReady 0x0D e f = true ∧ c = s.shotOf e f ∧
      g = s.eng e) ∧
    (∃ (e : Fin 9) (f : Fetch) (c : Shot) (g : Eng) (s : State), s.shotReady 0x0E e f = true ∧ c = s.shotOf e f ∧
      g = s.eng e) :=
  ⟨⟨0, {}, (shotUp 0x000003010002000B [] [(0, 7), (1, 2)] []).shotOf 0 {},
     (shotUp 0x000003010002000B [] [(0, 7), (1, 2)] []).eng 0, shotUp 0x000003010002000B [] [(0, 7), (1, 2)] [], by decide⟩,
   ⟨0, {}, (shotUp 0x000003010002000C [] [(0, 7), (1, 33)] []).shotOf 0 {},
     (shotUp 0x000003010002000C [] [(0, 7), (1, 33)] []).eng 0, shotUp 0x000003010002000C [] [(0, 7), (1, 33)] [], by decide⟩,
   ⟨0, {}, (shotUp 0x000008010002000D [] [(0, 7), (1, 33)] []).shotOf 0 {},
     (shotUp 0x000008010002000D [] [(0, 7), (1, 33)] []).eng 0, shotUp 0x000008010002000D [] [(0, 7), (1, 33)] [], by decide⟩,
   ⟨0, {}, (shotUp 0x000001000302000E [] [(0, 7), (1, 33), (3, 0xFF)] []).shotOf 0 {},
     (shotUp 0x000001000302000E [] [(0, 7), (1, 33), (3, 0xFF)] []).eng 0,
     shotUp 0x000001000302000E [] [(0, 7), (1, 33), (3, 0xFF)] [], by decide⟩⟩

theorem witness_shotsRotateAndRamp :
    (∃ (e : Fin 9) (f : Fetch) (c : Shot) (g : Eng) (s : State), s.shotReady 0x14 e f = true ∧ c = s.shotOf e f ∧
      g = s.eng e ∧ c.b 6 = 0 ∧ 0 ≤ (c.src g (c.b 3)).toInt) ∧
    (∃ (e : Fin 9) (f : Fetch) (c : Shot) (g : Eng) (s : State), s.shotReady 0x14 e f = true ∧ c = s.shotOf e f ∧
      g = s.eng e ∧ c.b 6 = 0 ∧ (c.src g (c.b 3)).toInt < 0) ∧
    (∃ (e : Fin 9) (f : Fetch) (c : Shot) (g : Eng) (r : Int × Int) (s : State), s.shotReady 0x14 e f = true ∧
      c = s.shotOf e f ∧ g = s.eng e ∧ c.b 6 = 1 ∧ 0x40000000 ≤ (c.src g (c.b 5)).toNat ∧
      (c.src g (c.b 5)).toNat < 0xC0000000 ∧
      r =
      cordicRotate arctans 0 (-(c.src g (c.b 3)).toInt) (-(c.src g (c.b 4)).toInt) (((c.src g (c.b 5)).toNat : Int) -
      0x80000000)) ∧
    (∃ (e : Fin 9) (f : Fetch) (c : Shot) (g : Eng) (s : State), s.shotReady 0x14 e f = true ∧ c = s.shotOf e f ∧
      g = s.eng e ∧ c.b 6 = 1 ∧ ((c.src g (c.b 5)).toNat < 0x40000000 ∨ 0xC0000000 ≤ (c.src g (c.b 5)).toNat)) ∧
    (∃ (e : Fin 9) (f : Fetch) (c : Shot) (g : Eng) (v p l x y q : Int) (s : State), s.shotReady 0x17 e f = true ∧
      c = s.shotOf e f ∧ g = s.eng e ∧ (c.b 5 < c.b 2 ∨ c.b 2 + 3 ≤ c.b 5) ∧
      v = (g.op (c.b 2 + 1)).toInt * 256 + ((g.op (c.b 2 + 2)).toNat % 256 : Nat) ∧
      p = (g.op (c.b 2)).toInt * 2 ^ 24 + ((g.op (c.b 2 + 2)).toNat / 256 : Nat) ∧ l = (c.src g (c.b 4)).toInt * 256 ∧
      (x = if (0 < (c.src g (c.b 3)).toInt ∧ l < v + (c.src g (c.b 3)).toInt) ∨ ((c.src g (c.b 3)).toInt < 0 ∧
      v + (c.src g (c.b 3)).toInt < l) then l else v + (c.src g (c.b 3)).toInt) ∧ y = satS 40 x ∧
      q = p + (v + y) >>> (1 : Nat)) ∧
    (∃ (e : Fin 9) (f : Fetch) (c : Shot) (g : Eng) (s : State), s.shotReady 0x19 e f = true ∧ c = s.shotOf e f ∧
      g = s.eng e ∧ (g.input (16 * c.ctx + 8)).tag = false ∧ (g.input (16 * c.ctx + 9)).tag = false) ∧
    (∃ (e : Fin 9) (f : Fetch) (c : Shot) (g : Eng) (s : State), s.shotReady 0x19 e f = true ∧ c = s.shotOf e f ∧
      g = s.eng e ∧ (g.input (16 * c.ctx + 8)).tag = true ∧ (g.input (16 * c.ctx + 9)).tag = true ∧
      (g.input (16 * c.ctx + 9)).w.toNat / 65536 % 32768 = 0x7FFF ∧ (c.src g (c.b 3)) = 0) ∧
    (∃ (e : Fin 9) (f : Fetch) (c : Shot) (g : Eng) (tw p sc : Nat) (s : State), s.shotReady 0x19 e f = true ∧
      c = s.shotOf e f ∧ g = s.eng e ∧ (g.input (16 * c.ctx + 8)).tag = true ∧ (g.input (16 * c.ctx + 9)).tag = true ∧
      tw = (g.input (16 * c.ctx + 9)).w.toNat ∧ p = tw / 65536 % 32768 ∧ p ≠ 0 ∧ p ≠ 0x7FFF ∧
      (sc = if (c.src g (c.b 3)).toNat % 2048 =
      0 ∨ 1024 < (c.src g (c.b 3)).toNat % 2048 then 1024 else (c.src g (c.b 3)).toNat % 2048)) :=
  ⟨⟨0, {}, (shotUp 0x0000000100020014 [] [(0, 7), (1, 33)] []).shotOf 0 {},
     (shotUp 0x0000000100020014 [] [(0, 7), (1, 33)] []).eng 0, shotUp 0x0000000100020014 [] [(0, 7), (1, 33)] [], by decide⟩,
   ⟨0, {}, (shotUp 0x0000000100020014 [] [(0, 0x80000000), (1, 33)] []).shotOf 0 {},
     (shotUp 0x0000000100020014 [] [(0, 0x80000000), (1, 33)] []).eng 0,
     shotUp 0x0000000100020014 [] [(0, 0x80000000), (1, 33)] [], by decide⟩,
   ⟨0, {}, (shotUp 0x0001040100020014 [] [(0, 7), (1, 33), (4, 0x80000000)] []).shotOf 0 {},
     (shotUp 0x0001040100020014 [] [(0, 7), (1, 33), (4, 0x80000000)] []).eng 0,
     cordicRotate arctans 0 (-7) (-33) 0, shotUp 0x0001040100020014 [] [(0, 7), (1, 33), (4, 0x80000000)] [], by decide⟩,
   ⟨0, {}, (shotUp 0x0001040100020014 [] [(0, 7), (1, 33)] []).shotOf 0 {},
     (shotUp 0x0001040100020014 [] [(0, 7), (1, 33)] []).eng 0, shotUp 0x0001040100020014 [] [(0, 7), (1, 33)] [], by decide⟩,
   ⟨0, {}, (shotUp 0x00001F0100020017 [] [(0, 0xFFFFFE00), (1, 5), (2, 5), (3, 6), (4, 7)] []).shotOf 0 {},
     (shotUp 0x00001F0100020017 [] [(0, 0xFFFFFE00), (1, 5), (2, 5), (3, 6), (4, 7)] []).eng 0, 1543, 5 * 2 ^ 24,
     1280, 1280, 1280, 5 * 2 ^ 24 + 1411,
     shotUp 0x00001F0100020017 [] [(0, 0xFFFFFE00), (1, 5), (2, 5), (3, 6), (4, 7)] [], by decide⟩,
   ⟨0, {}, (shotUp 0x0000000000020019 [] [(0, 5)] []).shotOf 0 {},
     (shotUp 0x0000000000020019 [] [(0, 5)] []).eng 0, shotUp 0x0000000000020019 [] [(0, 5)] [], by decide⟩,
   ⟨0, {}, (shotUp 0x0000000000020019 [] [] [(8, 5), (9, 0x7FFF0000)]).shotOf 0 {},
     (shotUp 0x0000000000020019 [] [] [(8, 5), (9, 0x7FFF0000)]).eng 0,
     shotUp 0x0000000000020019 [] [] [(8, 5), (9, 0x7FFF0000)], by decide⟩,
   ⟨0, {}, (shotUp 0x0000000000020019 [] [(0, 1000)] [(8, 5), (9, 0x80640032)]).shotOf 0 {},
     (shotUp 0x0000000000020019 [] [(0, 1000)] [(8, 5), (9, 0x80640032)]).eng 0, 0x80640032, 100, 1000,
     shotUp 0x0000000000020019 [] [(0, 1000)] [(8, 5), (9, 0x80640032)], by decide⟩⟩

theorem witness_shotsReadTables :
    (∃ (e : Fin 9) (f : Fetch) (c : Shot) (g : Eng) (T h N F : Nat) (x i y : Int) (s : State), s.shotReady 0x13 e f =
      true ∧ c = s.shotOf e f ∧ g = s.eng e ∧ s.mem.flaws = [] ∧ T = c.table (c.kidx 4) ∧
      h = (memWord s.mem.cells (T + 0)).toNat ∧ (N = if 2 ≤ h % 2048 ∧ h % 2048 ≤ 1024 then h % 2048 else 2) ∧
      F = min (h / 65536 % 32) 16 ∧ (∀ k < N + 2, s.ownerFault e (T + 4 * k) = none) ∧
      x = (c.src g (c.b 3)).toInt - (memWord s.mem.cells (T + 4)).toInt ∧ i = x >>> F ∧
      (y =
      if i < 0 then (memWord s.mem.cells (T + 8 + 4 * 0)).toInt else if N - 1 ≤ i then (memWord s.mem.cells (T + 8 + 4
      * (N - 1))).toInt else if c.b 6 =
      1 then (memWord s.mem.cells (T + 8 + 4 * i.toNat)).toInt + (((memWord s.mem.cells (T + 8 + 4 * (i.toNat +
      1))).toInt - (memWord s.mem.cells (T + 8 + 4 * i.toNat)).toInt) * (x - i * 2 ^ F)) >>> F else (memWord
      s.mem.cells (T + 8 + 4 * i.toNat)).toInt)) ∧
    (∃ (e : Fin 9) (f : Fetch) (c : Shot) (g : Eng) (T h N i : Nat) (m y : Int) (s : State), s.shotReady 0x18 e f =
      true ∧ c = s.shotOf e f ∧ g = s.eng e ∧ s.mem.flaws = [] ∧ T = c.table (c.kidx 4) ∧
      h = (memWord s.mem.cells (T + 0)).toNat ∧ (N = if h % 512 < 2 then 2 else min (h % 512) 256) ∧
      (∀ k < 2 * N + 1, s.ownerFault e (T + 4 * k) = none) ∧
      (∀ k < N - 1, (memWord s.mem.cells (T + 4 + 8 * k)).toInt < (memWord s.mem.cells (T + 4 + 8 * (k + 1))).toInt) ∧
      (m = if h / 65536 % 2 =
      1 then (memWord s.mem.cells (T + 4 + 8 * 0)).toInt + ((c.src g (c.b 3)).toInt - (memWord s.mem.cells (T + 4 + 8
      * 0)).toInt) % ((memWord s.mem.cells (T + 4 + 8 * (N - 1))).toInt - (memWord s.mem.cells (T + 4 + 8 * 0)).toInt)
      else (c.src g (c.b 3)).toInt) ∧ i < N ∧ (m < (memWord s.mem.cells (T + 4 + 8 * 0)).toInt → i = 0) ∧
      ((memWord s.mem.cells (T + 4 + 8 * 0)).toInt ≤ m → (memWord s.mem.cells (T + 4 + 8 * i)).toInt ≤ m) ∧
      (i + 1 < N → m < (memWord s.mem.cells (T + 4 + 8 * (i + 1))).toInt) ∧
      (y =
      if m < (memWord s.mem.cells (T + 4 + 8 * 0)).toInt then (memWord s.mem.cells (T + 8 + 8 * 0)).toInt else if (memWord
      s.mem.cells (T + 4 + 8 * (N - 1))).toInt ≤ m then (memWord s.mem.cells (T + 8 + 8 * (N - 1))).toInt else
      (memWord s.mem.cells (T + 8 + 8 * i)).toInt + Int.tdiv (((memWord s.mem.cells (T + 8 + 8 * (i + 1))).toInt -
      (memWord s.mem.cells (T + 8 + 8 * i)).toInt) * (m - (memWord s.mem.cells (T + 4 + 8 * i)).toInt)) ((memWord
      s.mem.cells (T + 4 + 8 * (i + 1))).toInt - (memWord s.mem.cells (T + 4 + 8 * i)).toInt))) ∧
    (∃ (e : Fin 9) (f : Fetch) (c : Shot) (g : Eng) (T : Nat) (r0 r1 r2 r3 : Int) (s : State), s.shotReady 0x15 e f =
      true ∧ c = s.shotOf e f ∧ g = s.eng e ∧ s.mem.flaws = [] ∧ T = c.table (c.kidx 4) ∧
      (∀ k < 16, s.ownerFault e (T + 4 * k) = none) ∧
      r0 =
      ((memWord s.mem.cells (T + 0)).toInt * (g.op (c.b 2 + 0)).toInt + (memWord s.mem.cells (T + 4)).toInt * (g.op
      (c.b 2 + 1)).toInt + (memWord s.mem.cells (T + 16)).toInt * (((g.input (16 * c.ctx + 4)).w.extractLsb' 0
      16).toInt * 2 ^ 15) + (memWord s.mem.cells (T + 20)).toInt * (((g.input (16 * c.ctx + 6)).w.extractLsb' 0
      16).toInt * 2 ^ 15) + 2 ^ 29) >>> (30 : Nat) ∧
      r1 =
      ((memWord s.mem.cells (T + 8)).toInt * (g.op (c.b 2 + 0)).toInt + (memWord s.mem.cells (T + 12)).toInt * (g.op
      (c.b 2 + 1)).toInt + (memWord s.mem.cells (T + 24)).toInt * (((g.input (16 * c.ctx + 4)).w.extractLsb' 0
      16).toInt * 2 ^ 15) + (memWord s.mem.cells (T + 28)).toInt * (((g.input (16 * c.ctx + 6)).w.extractLsb' 0
      16).toInt * 2 ^ 15) + 2 ^ 29) >>> (30 : Nat) ∧
      r2 =
      ((memWord s.mem.cells (T + 32)).toInt * (g.op (c.b 2 + 2)).toInt + (memWord s.mem.cells (T + 36)).toInt * (g.op
      (c.b 2 + 3)).toInt + (memWord s.mem.cells (T + 48)).toInt * (((g.input (16 * c.ctx + 5)).w.extractLsb' 0
      16).toInt * 2 ^ 15) + (memWord s.mem.cells (T + 52)).toInt * (((g.input (16 * c.ctx + 7)).w.extractLsb' 0
      16).toInt * 2 ^ 15) + 2 ^ 29) >>> (30 : Nat) ∧
      r3 =
      ((memWord s.mem.cells (T + 40)).toInt * (g.op (c.b 2 + 2)).toInt + (memWord s.mem.cells (T + 44)).toInt * (g.op
      (c.b 2 + 3)).toInt + (memWord s.mem.cells (T + 56)).toInt * (((g.input (16 * c.ctx + 5)).w.extractLsb' 0
      16).toInt * 2 ^ 15) + (memWord s.mem.cells (T + 60)).toInt * (((g.input (16 * c.ctx + 7)).w.extractLsb' 0
      16).toInt * 2 ^ 15) + 2 ^ 29) >>> (30 : Nat)) ∧
    (∃ (e : Fin 9) (f : Fetch) (c : Shot) (g : Eng) (n T h N F : Nat) (v x i y : Int) (l : List Word) (s : State),
      s.shotReady 0x16 e f = true ∧ c = s.shotOf e f ∧ g = s.eng e ∧ s.mem.flaws = [] ∧ n = s.shotAxis e c.ctx ∧
      T = c.table (c.kidx 6) ∧ v = (g.op (c.b 2 + 1)).toInt * 256 + ((g.op (c.b 2 + 2)).toNat % 256 : Nat) ∧
      h = (memWord s.mem.cells (T + 0)).toNat ∧ (N = if 2 ≤ h % 2048 ∧ h % 2048 ≤ 1024 then h % 2048 else 2) ∧
      F = min (h / 65536 % 32) 16 ∧ (∀ k < N + 2, s.ownerFault e (T + 4 * k) = none) ∧
      x = ((v.natAbs / 256 : Nat) : Int) - (memWord s.mem.cells (T + 4)).toInt ∧ i = x >>> F ∧
      (y =
      if i < 0 then (max 0 (min (memWord s.mem.cells (T + 8 + 4 * 0)).toInt 65536)) else if N - 1 ≤ i then (max 0 (min
      (memWord s.mem.cells (T + 8 + 4 * (N - 1))).toInt 65536)) else (max 0 (min (memWord s.mem.cells (T + 8 + 4 *
      i.toNat)).toInt 65536)) + (((max 0 (min (memWord s.mem.cells (T + 8 + 4 * (i.toNat + 1))).toInt 65536)) - (max 0
      (min (memWord s.mem.cells (T + 8 + 4 * i.toNat)).toInt 65536))) * (x - i * 2 ^ F)) >>> F) ∧
      (l =
      (planEval (g.op (c.b 2)) (g.op (c.b 2 + 1)) (g.op (c.b 2 + 2)) (g.op (c.b 2 + 3)) ((List.range 10).map fun i =>
      g.op (c.b 3 + i)) (c.src g (c.b 5)) y).1)) ∧
    (∃ (pos vel frac tgt c : Word) (p l : List Word) (sc v vm w1 w0 : Int), v =
      vel.toInt * 256 + (frac.toNat % 256 : Nat) ∧ vm = ((Tbl.get 0 p 4).toNat : Int) * 256 ∧
      w1 = min (((Tbl.get 0 p 2).toNat : Int) * 256) vm ∧ w0 = min (((Tbl.get 0 p 7).toNat : Int) * 256) w1 ∧
      l = (planEval pos vel frac tgt p c sc).1 ∧ c.getLsbD 2 = true ∧ (v ≠ 0 ∨ frac.toNat / 256 ≠ 0)) ∧
    (∃ (pos vel frac tgt c : Word) (p l : List Word) (sc v vm w1 w0 : Int), v =
      vel.toInt * 256 + (frac.toNat % 256 : Nat) ∧ vm = ((Tbl.get 0 p 4).toNat : Int) * 256 ∧
      w1 = min (((Tbl.get 0 p 2).toNat : Int) * 256) vm ∧ w0 = min (((Tbl.get 0 p 7).toNat : Int) * 256) w1 ∧
      l = (planEval pos vel frac tgt p c sc).1 ∧ c.getLsbD 2 = true ∧ v = 0 ∧ frac.toNat / 256 = 0) ∧
    (∃ (pos vel frac tgt c : Word) (p l : List Word) (sc v vm w1 w0 : Int), v =
      vel.toInt * 256 + (frac.toNat % 256 : Nat) ∧ vm = ((Tbl.get 0 p 4).toNat : Int) * 256 ∧
      w1 = min (((Tbl.get 0 p 2).toNat : Int) * 256) vm ∧ w0 = min (((Tbl.get 0 p 7).toNat : Int) * 256) w1 ∧
      l = (planEval pos vel frac tgt p c sc).1 ∧ c.getLsbD 2 = false ∧ c.getLsbD 3 = false ∧ c.toNat % 4 = 2 ∧
      c.toNat / 512 % 8 = 4) ∧
    (∃ (pos vel frac tgt c : Word) (p l : List Word) (sc v vm w1 w0 : Int) (g d : Int), v =
      vel.toInt * 256 + (frac.toNat % 256 : Nat) ∧ vm = ((Tbl.get 0 p 4).toNat : Int) * 256 ∧
      w1 = min (((Tbl.get 0 p 2).toNat : Int) * 256) vm ∧ w0 = min (((Tbl.get 0 p 7).toNat : Int) * 256) w1 ∧
      l = (planEval pos vel frac tgt p c sc).1 ∧ c.getLsbD 2 = false ∧ c.getLsbD 3 = false ∧
      ((c.toNat % 4 = 0 ∨ c.toNat % 4 = 3) ∧ c.getLsbD 8 = false ∧ c.toNat / 512 % 8 ≠ 2 ∧
      c.toNat / 512 % 8 ≠ 3 ∨ c.toNat % 4 = 2 ∧ c.toNat / 512 % 8 = 1) ∧
      (Tbl.get 0 p 8).toInt ≤ (Tbl.get 0 p 9).toInt ∧
      (g = if c.getLsbD 5 then max (Tbl.get 0 p 8).toInt (min tgt.toInt (Tbl.get 0 p 9).toInt) else tgt.toInt) ∧
      d = Int.bmod (g * 2 ^ 24 - (pos.toInt * 2 ^ 24 + (frac.toNat / 256 : Nat))) (2 ^ 56) ∧ v = 0 ∧ d = 0) ∧
    (∃ (pos vel frac tgt c : Word) (p l : List Word) (sc v vm w1 w0 : Int) (g d : Int), v =
      vel.toInt * 256 + (frac.toNat % 256 : Nat) ∧ vm = ((Tbl.get 0 p 4).toNat : Int) * 256 ∧
      w1 = min (((Tbl.get 0 p 2).toNat : Int) * 256) vm ∧ w0 = min (((Tbl.get 0 p 7).toNat : Int) * 256) w1 ∧
      l = (planEval pos vel frac tgt p c sc).1 ∧ c.getLsbD 2 = false ∧ c.getLsbD 3 = false ∧
      ((c.toNat % 4 = 0 ∨ c.toNat % 4 = 3) ∧ c.getLsbD 8 = false ∧ c.toNat / 512 % 8 ≠ 2 ∧
      c.toNat / 512 % 8 ≠ 3 ∨ c.toNat % 4 = 2 ∧ c.toNat / 512 % 8 = 1) ∧
      (Tbl.get 0 p 8).toInt ≤ (Tbl.get 0 p 9).toInt ∧
      (g = if c.getLsbD 5 then max (Tbl.get 0 p 8).toInt (min tgt.toInt (Tbl.get 0 p 9).toInt) else tgt.toInt) ∧
      d = Int.bmod (g * 2 ^ 24 - (pos.toInt * 2 ^ 24 + (frac.toNat / 256 : Nat))) (2 ^ 56) ∧ (v ≠ 0 ∨ d ≠ 0) ∧
      ((v.natAbs : Int) ≤ w0 ∧ (d.natAbs : Int) ≤ w0 ∧ (v = 0 →
      (d.natAbs : Int) ≤ ((Tbl.get 0 p 0).toNat : Int) * 256))) ∧
    (∃ (pos vel frac tgt c : Word) (p l : List Word) (sc v vm w1 w0 : Int) (g d v' : Int), v =
      vel.toInt * 256 + (frac.toNat % 256 : Nat) ∧ vm = ((Tbl.get 0 p 4).toNat : Int) * 256 ∧
      w1 = min (((Tbl.get 0 p 2).toNat : Int) * 256) vm ∧ w0 = min (((Tbl.get 0 p 7).toNat : Int) * 256) w1 ∧
      l = (planEval pos vel frac tgt p c sc).1 ∧ c.getLsbD 2 = false ∧ c.getLsbD 3 = false ∧
      ((c.toNat % 4 = 0 ∨ c.toNat % 4 = 3) ∧ c.getLsbD 8 = false ∧ c.toNat / 512 % 8 ≠ 2 ∧
      c.toNat / 512 % 8 ≠ 3 ∨ c.toNat % 4 = 2 ∧ c.toNat / 512 % 8 = 1) ∧
      (Tbl.get 0 p 8).toInt ≤ (Tbl.get 0 p 9).toInt ∧
      (g = if c.getLsbD 5 then max (Tbl.get 0 p 8).toInt (min tgt.toInt (Tbl.get 0 p 9).toInt) else tgt.toInt) ∧
      d = Int.bmod (g * 2 ^ 24 - (pos.toInt * 2 ^ 24 + (frac.toNat / 256 : Nat))) (2 ^ 56) ∧
      (¬ ((v.natAbs : Int) ≤ w0 ∧ (d.natAbs : Int) ≤ w0 ∧ (v = 0 →
      (d.natAbs : Int) ≤ ((Tbl.get 0 p 0).toNat : Int) * 256))) ∧ v ≠ 0 ∧ d.sign ≠ v.sign ∧
      (v' =
      v.sign * (if (v.natAbs : Int) ≤ w0 then 0 else if w1 < (v.natAbs : Int) then max (max ((v.natAbs : Int) - ((Tbl.get
      0 p 5).toNat : Int)) w1) 0 else max (max ((v.natAbs : Int) - ((Tbl.get 0 p 6).toNat : Int)) w0) 0))) ∧
    (∃ (pos vel frac tgt c : Word) (p l : List Word) (sc v vm w1 w0 : Int) (g d vs a1 a2 u s cru acc dec ba bc u' v' :
      Int), v = vel.toInt * 256 + (frac.toNat % 256 : Nat) ∧ vm = ((Tbl.get 0 p 4).toNat : Int) * 256 ∧
      w1 = min (((Tbl.get 0 p 2).toNat : Int) * 256) vm ∧ w0 = min (((Tbl.get 0 p 7).toNat : Int) * 256) w1 ∧
      l = (planEval pos vel frac tgt p c sc).1 ∧ c.getLsbD 2 = false ∧ c.getLsbD 3 = false ∧
      ((c.toNat % 4 = 0 ∨ c.toNat % 4 = 3) ∧ c.getLsbD 8 = false ∧ c.toNat / 512 % 8 ≠ 2 ∧
      c.toNat / 512 % 8 ≠ 3 ∨ c.toNat % 4 = 2 ∧ c.toNat / 512 % 8 = 1) ∧
      (Tbl.get 0 p 8).toInt ≤ (Tbl.get 0 p 9).toInt ∧
      (g = if c.getLsbD 5 then max (Tbl.get 0 p 8).toInt (min tgt.toInt (Tbl.get 0 p 9).toInt) else tgt.toInt) ∧
      d = Int.bmod (g * 2 ^ 24 - (pos.toInt * 2 ^ 24 + (frac.toNat / 256 : Nat))) (2 ^ 56) ∧
      (¬ ((v.natAbs : Int) ≤ w0 ∧ (d.natAbs : Int) ≤ w0 ∧ (v = 0 →
      (d.natAbs : Int) ≤ ((Tbl.get 0 p 0).toNat : Int) * 256))) ∧ d ≠ 0 ∧ (v = 0 ∨ d.sign = v.sign) ∧
      0 < ((Tbl.get 0 p 5).toNat : Int) ∧ 0 < ((Tbl.get 0 p 6).toNat : Int) ∧
      vs = min (((Tbl.get 0 p 0).toNat : Int) * 256) w0 ∧
      a1 = (((Tbl.get 0 p 1).toNat : Int) * (max 0 (min sc 65536))) >>> (16 : Nat) ∧
      a2 = (((Tbl.get 0 p 3).toNat : Int) * (max 0 (min sc 65536))) >>> (16 : Nat) ∧ u = v.natAbs ∧
      (s = if v = 0 then d.sign else v.sign) ∧
      (cru =
      if u ≤ vm then u else if u ≤ w0 then vm else if w1 < u then max (max (u - ((Tbl.get 0 p 5).toNat : Int)) w1) vm
      else max (max (u - ((Tbl.get 0 p 6).toNat : Int)) w0) vm) ∧
      (acc =
      if u < vm then (if u < vs then min vs vm else if u < w1 then min (min (u + a1) w1) vm else min (u + a2) vm) else
      cru) ∧ (dec =
      if u ≤ w0 then u else if u ≤ w0 then w0 else if w1 < u then max (max (u - ((Tbl.get 0 p 5).toNat : Int)) w1) w0
      else max (max (u - ((Tbl.get 0 p 6).toNat : Int)) w0) w0) ∧
      (ba = if acc ≤ w0 then 0 else if acc ≤ w1 then ((fun k : Int =>
      2 * k * acc - ((Tbl.get 0 p 6).toNat : Int) * k * (k - 1) - (acc - w0)) ((acc - w0 + ((Tbl.get 0 p 6).toNat :
      Int) - 1) / ((Tbl.get 0 p 6).toNat : Int)) + 1) / 2 else ((fun k : Int =>
      2 * k * acc - ((Tbl.get 0 p 5).toNat : Int) * k * (k - 1) - (acc - w1)) ((acc - w1 + ((Tbl.get 0 p 5).toNat :
      Int) - 1) / ((Tbl.get 0 p 5).toNat : Int)) + (fun k : Int =>
      2 * k * w1 - ((Tbl.get 0 p 6).toNat : Int) * k * (k - 1) - (w1 - w0)) ((w1 - w0 + ((Tbl.get 0 p 6).toNat : Int)
      - 1) / ((Tbl.get 0 p 6).toNat : Int)) + 1) / 2) ∧
      (bc = if cru ≤ w0 then 0 else if cru ≤ w1 then ((fun k : Int =>
      2 * k * cru - ((Tbl.get 0 p 6).toNat : Int) * k * (k - 1) - (cru - w0)) ((cru - w0 + ((Tbl.get 0 p 6).toNat :
      Int) - 1) / ((Tbl.get 0 p 6).toNat : Int)) + 1) / 2 else ((fun k : Int =>
      2 * k * cru - ((Tbl.get 0 p 5).toNat : Int) * k * (k - 1) - (cru - w1)) ((cru - w1 + ((Tbl.get 0 p 5).toNat :
      Int) - 1) / ((Tbl.get 0 p 5).toNat : Int)) + (fun k : Int =>
      2 * k * w1 - ((Tbl.get 0 p 6).toNat : Int) * k * (k - 1) - (w1 - w0)) ((w1 - w0 + ((Tbl.get 0 p 6).toNat : Int)
      - 1) / ((Tbl.get 0 p 6).toNat : Int)) + 1) / 2) ∧
      (u' =
      if ba ≤ s * (d - (v + s * acc) >>> (1 : Nat)) then acc else if bc ≤ s * (d - (v + s * cru) >>> (1 : Nat)) then
      cru else dec) ∧ v' = s * u') ∧
    (∃ (pos vel frac tgt c : Word) (p l : List Word) (sc v vm w1 w0 : Int) (vs a1 a2 u w u' v' : Int), v =
      vel.toInt * 256 + (frac.toNat % 256 : Nat) ∧ vm = ((Tbl.get 0 p 4).toNat : Int) * 256 ∧
      w1 = min (((Tbl.get 0 p 2).toNat : Int) * 256) vm ∧ w0 = min (((Tbl.get 0 p 7).toNat : Int) * 256) w1 ∧
      l = (planEval pos vel frac tgt p c sc).1 ∧ c.getLsbD 2 = false ∧ c.getLsbD 5 = false ∧
      vs = min (((Tbl.get 0 p 0).toNat : Int) * 256) w0 ∧
      a1 = (((Tbl.get 0 p 1).toNat : Int) * (max 0 (min sc 65536))) >>> (16 : Nat) ∧
      a2 = (((Tbl.get 0 p 3).toNat : Int) * (max 0 (min sc 65536))) >>> (16 : Nat) ∧ u = v.natAbs ∧
      (w = if c.getLsbD 3 = false ∧ c.toNat % 4 = 1 then max (-vm) (min vm (tgt.toInt * 256)) else 0) ∧
      (c.getLsbD 3 = true ∨ c.toNat % 4 = 1 ∨ c.toNat % 4 = 2 ∧ c.toNat / 512 % 8 ≠ 1 ∧ c.toNat / 512 % 8 ≠ 2 ∧
      c.toNat / 512 % 8 ≠ 4 ∨ c.toNat % 4 ≠ 2 ∧ c.getLsbD 8 = true) ∧ (u' = if v ≠ 0 ∧
      w.sign ≠ v.sign then (if u ≤ w0 then 0 else if w1 < u then max (max (u - ((Tbl.get 0 p 5).toNat : Int)) w1) 0
      else max (max (u - ((Tbl.get 0 p 6).toNat : Int)) w0) 0) else if u < w.natAbs then (if u < vs then min vs
      (w.natAbs : Int) else if u < w1 then min (min (u + a1) w1) (w.natAbs : Int) else min (u + a2) (w.natAbs : Int))
      else if (w.natAbs : Int) < u then (if u ≤ w0 then (w.natAbs : Int) else if w1 < u then max (max (u - ((Tbl.get 0
      p 5).toNat : Int)) w1) (w.natAbs : Int) else max (max (u - ((Tbl.get 0 p 6).toNat : Int)) w0) (w.natAbs : Int))
      else u) ∧ v' = (if v = 0 then w.sign else v.sign) * u') :=
  ⟨⟨0, {},
     (cellsUp 0x0001000000020013 [(0x100, 3), (0x102, 1), (0x10C, 10), (0x110, 20)] [0x100] [(0, 3)]).shotOf 0 {},
     (cellsUp 0x0001000000020013 [(0x100, 3), (0x102, 1), (0x10C, 10), (0x110, 20)] [0x100] [(0, 3)]).eng 0,
     0x100, 0x00010003, 3, 1, 3, 1, 15,
     cellsUp 0x0001000000020013 [(0x100, 3), (0x102, 1), (0x10C, 10), (0x110, 20)] [0x100] [(0, 3)], by decide +kernel⟩,
   ⟨0, {},
     (cellsUp 0x0000000000020018 [(0x100, 3), (0x10C, 4), (0x110, 8), (0x114, 8), (0x118, 12)] [0x100] [(0, 5)]).shotOf 0 {},
     (cellsUp 0x0000000000020018 [(0x100, 3), (0x10C, 4), (0x110, 8), (0x114, 8), (0x118, 12)] [0x100] [(0, 5)]).eng 0,
     0x100, 3, 3, 1, 5, 9,
     cellsUp 0x0000000000020018 [(0x100, 3), (0x10C, 4), (0x110, 8), (0x114, 8), (0x118, 12)] [0x100] [(0, 5)], by decide +kernel⟩,
   ⟨0, {}, (cellsUp 0x0000000004000015 [(0x103, 0x40)] [0x100] [(0, 5), (1, 6)]).shotOf 0 {},
     (cellsUp 0x0000000004000015 [(0x103, 0x40)] [0x100] [(0, 5), (1, 6)]).eng 0, 0x100, 5, 0, 0, 0,
     cellsUp 0x0000000004000015 [(0x103, 0x40)] [0x100] [(0, 5), (1, 6)], by decide +kernel⟩,
   ⟨0, {}, (cellsUp 0x0000001004000016 [(0x100, 2), (0x108, 9)] [0x100] []).shotOf 0 {},
     (cellsUp 0x0000001004000016 [(0x100, 2), (0x108, 9)] [0x100] []).eng 0, 0, 0x100, 2, 2, 0, 0, 0, 0, 9,
     (planEval 0 0 0 0 (List.replicate 10 0) 0 9).1,
     cellsUp 0x0000001004000016 [(0x100, 2), (0x108, 9)] [0x100] [], by decide +kernel⟩,
   ⟨7, 0xFFFFFED4, 0, 9, 4, [100, 5000, 30000, 4000, 60000, 3000, 2000, 200, 0xFFFFFC18, 1000],
     (planEval 0x7 0xFFFFFED4 0x0 0x9 [100, 5000, 30000, 4000, 60000, 3000, 2000, 200, 0xFFFFFC18, 1000] 0x4 65536).1,
     65536, -76800, 15360000, 7680000, 51200, by decide +kernel⟩,
   ⟨7, 0, 0, 7, 4, [100, 5000, 30000, 4000, 60000, 3000, 2000, 200, 0xFFFFFC18, 1000],
     (planEval 0x7 0x0 0x0 0x7 [100, 5000, 30000, 4000, 60000, 3000, 2000, 200, 0xFFFFFC18, 1000] 0x4 65536).1,
     65536, 0, 15360000, 7680000, 51200, by decide +kernel⟩,
   ⟨7, 300, 0, 9, 2050, [100, 5000, 30000, 4000, 60000, 3000, 2000, 200, 0xFFFFFC18, 1000],
     (planEval 0x7 0x12C 0x0 0x9 [100, 5000, 30000, 4000, 60000, 3000, 2000, 200, 0xFFFFFC18, 1000] 0x802 65536).1,
     65536, 76800, 15360000, 7680000, 51200, by decide +kernel⟩,
   ⟨7, 0, 0, 7, 0, [100, 5000, 30000, 4000, 60000, 3000, 2000, 200, 0xFFFFFC18, 1000],
     (planEval 0x7 0x0 0x0 0x7 [100, 5000, 30000, 4000, 60000, 3000, 2000, 200, 0xFFFFFC18, 1000] 0x0 65536).1,
     65536, 0, 15360000, 7680000, 51200, 7, 0, by decide +kernel⟩,
   ⟨999, 0, 4294967040, 1001, 32, [100, 5000, 30000, 4000, 60000, 3000, 2000, 200, 0xFFFFFC18, 1000],
     (planEval 0x3E7 0x0 0xFFFFFF00 0x3E9 [100, 5000, 30000, 4000, 60000, 3000, 2000, 200, 0xFFFFFC18, 1000] 0x20 65536).1,
     65536, 0, 15360000, 7680000, 51200, 1000, 1, by decide +kernel⟩,
   ⟨500, 300, 0, 9, 0, [100, 5000, 30000, 4000, 60000, 3000, 2000, 200, 0xFFFFFC18, 1000],
     (planEval 0x1F4 0x12C 0x0 0x9 [100, 5000, 30000, 4000, 60000, 3000, 2000, 200, 0xFFFFFC18, 1000] 0x0 65536).1,
     65536, 76800, 15360000, 7680000, 51200, 9, -8237613056, 74800, by decide +kernel⟩,
   ⟨9, 0, 0, 900, 0, [100, 5000, 30000, 4000, 60000, 3000, 2000, 200, 0xFFFFFC18, 1000],
     (planEval 0x9 0x0 0x0 0x384 [100, 5000, 30000, 4000, 60000, 3000, 2000, 200, 0xFFFFFC18, 1000] 0x0 65536).1,
     65536, 0, 15360000, 7680000, 51200, 900, 14948499456, 25600, 5000, 4000, 0, 1, 0, 25600, 0, 0, 0, 25600,
     25600, by decide +kernel⟩,
   ⟨9, 0xFFFFFED4, 0, 4294901760, 1, [100, 5000, 30000, 4000, 60000, 3000, 2000, 200, 0xFFFFFC18, 1000],
     (planEval 0x9 0xFFFFFED4 0x0 0xFFFF0000 [100, 5000, 30000, 4000, 60000, 3000, 2000, 200, 0xFFFFFC18, 1000] 0x1 65536).1,
     65536, -76800, 15360000, 7680000, 51200, 25600, 5000, 4000, 76800, -15360000, 81800, -81800, by decide +kernel⟩⟩

theorem witness_blocksLoadAndStore :
    (∃ (e : Fin 9) (f : Fetch) (c : Shot) (g : Eng) (a : Nat) (s : State), s.shotReady 0x05 e f = true ∧
      c = s.shotOf e f ∧ g = s.eng e ∧ s.mem.flaws = [] ∧ a = c.block 3 ∧
      (∀ k < 8, s.ownerFault e (a + 4 * k) = none) ∧
      (blockOk ((List.range 8).map fun k => memWord s.mem.cells (a + 4 * k)) = true)) ∧
    (∃ (e : Fin 9) (f : Fetch) (c : Shot) (g : Eng) (a : Nat) (s : State), s.shotReady 0x06 e f = true ∧
      c = s.shotOf e f ∧ g = s.eng e ∧ s.mem.flaws = [] ∧ a = c.block 3 ∧
      (∀ k < 8, s.ownerFault e (a + 4 * k) = none)) ∧
    (∃ (e : Fin 9) (f : Fetch) (c : Shot) (g : Eng) (a i : Nat) (x : InWord) (l : List Word) (s : State),
      s.shotReady 0x07 e f = true ∧ c = s.shotOf e f ∧ g = s.eng e ∧ s.mem.flaws = [] ∧ a = c.block 4 ∧
      (∀ k < 8, s.ownerFault e (a + 4 * k) = none) ∧
      (l = (List.range 8).map fun k => memWord s.mem.cells (a + 4 * k)) ∧ blockOk l = true ∧
      c.inputOf (c.b 3) = some i ∧ x = g.input i ∧ x.tag = true ∧ (g.input (i + 1)).tag = true ∧
      crc16 x.w ((g.input (i + 1)).w.toNat % 65536) = (g.input (i + 1)).w.toNat / 65536 ∧
      newer (BitVec.ofNat 16 (g.input (i + 1)).w.toNat) (BitVec.ofNat 16 (Tbl.get 0 l (2 * ((Tbl.get 0 l 4).toNat % 2)
      + 1)).toNat) = true) :=
  ⟨⟨0, {}, (shotUp 0x0000000001000005 [0x100] [] []).shotOf 0 {},
     (shotUp 0x0000000001000005 [0x100] [] []).eng 0, 0x120, shotUp 0x0000000001000005 [0x100] [] [], by decide +kernel⟩,
   ⟨0, {}, (shotUp 0x0000000001000006 [0x100] [(3, 9)] []).shotOf 0 {},
     (shotUp 0x0000000001000006 [0x100] [(3, 9)] []).eng 0, 0x120, shotUp 0x0000000001000006 [0x100] [(3, 9)] [], by decide +kernel⟩,
   ⟨0, {}, (shotUp 0x000000014A000007 [0x100] [] [(10, 9), (11, 0x75c30001)]).shotOf 0 {},
     (shotUp 0x000000014A000007 [0x100] [] [(10, 9), (11, 0x75c30001)]).eng 0, 0x120, 10, ⟨9, true⟩,
     List.replicate 8 0, shotUp 0x000000014A000007 [0x100] [] [(10, 9), (11, 0x75c30001)], by decide +kernel⟩⟩

theorem witness_shotsLaunchWords :
    (∃ (e : Fin 9) (f : Fetch) (c : Shot) (g : Eng) (n : Nat) (w : Word) (s : State), s.shotReady 0x1A e f = true ∧
      c = s.shotOf e f ∧ g = s.eng e ∧ n = s.shotAxis e c.ctx ∧
      w = setpW0 n (g.op (c.b 2)) (g.op (c.b 2 + 2)) (g.op (c.b 2 + 3)) ∧ (s.queue ⟨engUnit e, 6⟩).length ≤ 2 ∧
      (s.queue ⟨engUnit e, 18⟩).length ≤ 2) ∧
    (∃ (e : Fin 9) (f : Fetch) (c : Shot) (g : Eng) (x : Xing) (s : State), s.shotReady 0x1B e f = true ∧
      c = s.shotOf e f ∧ g = s.eng e ∧ (x = ⟨engUnit e, if c.b 4 = 0 then 1 else 2⟩) ∧ (s.queue x).length + c.b 3 ≤ 4) ∧
    (∃ (e : Fin 9) (f : Fetch) (c : Shot) (g : Eng) (x : Xing) (s : State), s.shotReady 0x1C e f = true ∧
      c = s.shotOf e f ∧ g = s.eng e ∧ x = ⟨engUnit e, 18⟩ ∧ (s.queue x).length + c.b 3 ≤ 4) :=
  ⟨⟨0, {}, (shotUp 0x000000000000001A [] [] []).shotOf 0 {}, (shotUp 0x000000000000001A [] [] []).eng 0, 0, 0,
     shotUp 0x000000000000001A [] [] [], by decide⟩,
   ⟨0, {}, (shotUp 0x00000C010403001B [] [] []).shotOf 0 {}, (shotUp 0x00000C010403001B [] [] []).eng 0,
     ⟨engUnit 0, 2⟩, shotUp 0x00000C010403001B [] [] [], by decide⟩,
   ⟨0, {}, (shotUp 0x0000000C0403001C [] [] []).shotOf 0 {}, (shotUp 0x0000000C0403001C [] [] []).eng 0,
     ⟨engUnit 0, 18⟩, shotUp 0x0000000C0403001C [] [] [], by decide⟩⟩

theorem witness_parametersTaken :
    (∃ (n : Fin 12) (i : Fin 31) (v w : Word) (s : State), s.hostOpen ∧ s.hasAxis n = true ∧
      w = v &&& rwMask (paramReg n i) ∧ s.paramRefused n i w = false) ∧
    (∃ (n : Fin 12) (i : Fin 31) (v : Word) (s : State), s.hostOpen ∧ s.hasAxis n = true ∧
      s.paramRefused n i (v &&& rwMask (paramReg n i)) = true) ∧
    (∃ (n : Fin 12) (v : Word) (s : State), s.hostOpen ∧ s.hasAxis n = true ∧ s.mots.length = 12 ∧
      s.setposRefused n = false) ∧
    (∃ (n : Fin 12) (v : Word) (s : State), s.hostOpen ∧ s.hasAxis n = true ∧ s.mots.length = 12 ∧
      s.ctrlRefused n ((v &&& ~~~3#32) ||| 2#32) = false) ∧
    (∃ (n : Fin 12) (v : Word) (s : State), s.hostOpen ∧ s.hasAxis n = true ∧ s.setposRefused n = true) ∧
    (∃ (n : Fin 12) (v : Word) (s : State), s.hostOpen ∧ s.hasAxis n = true ∧
      s.ctrlRefused n ((v &&& ~~~3#32) ||| 2#32) = true) ∧
    (∃ (n : Fin 12) (v : Word) (s : State), s.hostOpen ∧ s.camCtrlRefused n v = true) ∧
    (∃ (n : Fin 12) (v : Word) (s : State), s.hostOpen ∧ s.mots.length = 12 ∧ s.camCtrlRefused n v = false) ∧
    (∃ (n : Fin 12) (v : Word) (s : State), s.hostOpen ∧ s.bindRefused n v = false) ∧
    (∃ (n : Fin 12) (v : Word) (s : State), s.hostOpen ∧ s.bindRefused n v = true) :=
  ⟨⟨11, 1, 5, 5, up, by decide⟩,
   ⟨11, 1, 0, up, by decide⟩,
   ⟨11, 5, up.put (AX_STAT.AT_REST 11) 1, by decide⟩,
   ⟨11, 0, ((up.put (AX_STAT.AT_REST 11) 1).setWord (paramReg 11 21) 0x20000).setWord (paramReg 11 4) 0x20000, by decide⟩,
   ⟨11, 5, up, by decide⟩,
   ⟨11, 0, up, by decide⟩,
   ⟨3, 1, up, by decide⟩,
   ⟨3, 1,
     { (up.put (CAM_AX_BIND.SRC 3) 1).setWord (CAM_AX_SET 3) 0x80 with reel := { struct := { engines := [{ axis := 3, engine := 0, pos := 0 }] } } }, by decide⟩,
   ⟨3, 0, up, by decide⟩,
   ⟨3, 0xC0, up, by decide⟩⟩

theorem witness_setpointPairStored :
    (∃ (n : Fin 12) (p : SpPair) (w1 : Word) (s : State), s.powered = true ∧ s.atPhase .sealed = true ∧
      s.mods.length = 12 ∧ s.axisUsed n = true ∧ s.ranLists = true ∧ s.sys.mode = .run ∧ s.sys.safeNew = 0 ∧
      s.sys.cutFrom = none ∧ s.intg.release = 0 ∧ s.firstWait n = true ∧ s.isSafe n = false ∧
      s.bitOf INT_STAT.PARKED_AX n = false ∧ (s.mod n).pairs = [p] ∧ p.w1 = some w1 ∧
      s.intg.endD6.getLsbD p.eng = true ∧ s.servingEngine n = some p.eng ∧ p.ok = true ∧ spCrc p.w0 w1 = p.resident ∧
      spFcnt w1 = s.clk.frames.toNat % 8) ∧
    (∃ (s : State) (n fcnt : Nat) (p : SpPair) (w1 : Word), s.mods.length = 12 ∧ n < 12 ∧ s.parkedOut n = false ∧
      s.bitOf INT_STAT.PARKED_AX n = false ∧ (s.mod n).pairs = [p] ∧ p.w1 = some w1 ∧
      s.intg.endD6.getLsbD p.eng = true ∧ s.servingEngine n = some p.eng ∧ p.ok = true ∧ spCrc p.w0 w1 = p.resident ∧
      spFcnt w1 = fcnt ∧ s.checksOnly n = false) ∧
    (∃ (s : State) (n fcnt : Nat) (c : Nat), s.mods.length = 12 ∧ n < 12 ∧ s.parkedOut n = false ∧
      s.bitOf INT_STAT.PARKED_AX n = false ∧ (s.mod n).pairs = [] ∧ s.firstWait n = false ∧ s.checksOnly n = false ∧
      c = s.fld (MOD_AX_STAT.COAST n) ∧ c < 8 ∧
      (c = 0 ∨ spCrc (s.committed n).1 (s.committed n).2 = (s.mod n).resident)) ∧
    (∃ (s : State) (n fcnt : Nat) (c : Nat), s.mods.length = 12 ∧ n < 12 ∧ s.parkedOut n = false ∧
      s.bitOf INT_STAT.PARKED_AX n = false ∧ (s.mod n).pairs = [] ∧ s.firstWait n = false ∧ s.checksOnly n = false ∧
      c = s.fld (MOD_AX_STAT.COAST n) ∧ c ≠ 0 ∧ c ≤ 8 ∧
      (c = 8 ∨ spCrc (s.committed n).1 (s.committed n).2 ≠ (s.mod n).resident) ∧ (s.mod n).hbs.length = 4 ∧
      (∀ k < 4, (s.hb n k).events < 15)) ∧
    (∃ (s : State) (n fcnt : Nat) (p : SpPair) (w1 : Word), s.mods.length = 12 ∧ n < 12 ∧ s.parkedOut n = false ∧
      s.bitOf INT_STAT.PARKED_AX n = false ∧ (s.mod n).pairs = [p] ∧ p.w1 = some w1 ∧
      s.intg.endD6.getLsbD p.eng = true ∧ s.servingEngine n = some p.eng ∧ p.ok = true ∧ spCrc p.w0 w1 = p.resident ∧
      spFcnt w1 = fcnt ∧ s.checksOnly n = true) ∧
    (∃ (n : Fin 12) (s : State), s.powered = true ∧ s.atPhase .sealed = true ∧ s.mods.length = 12 ∧
      s.axisUsed n = true ∧ s.ranLists = true ∧ s.sys.mode = .run ∧ s.sys.safeNew = 0 ∧ s.sys.cutFrom = none ∧
      s.intg.release = 0 ∧ s.isSafe n = false ∧ s.bitOf INT_STAT.PARKED_AX n = false ∧ (s.mod n).pairs = [] ∧
      (s.firstWait n = true ∨ s.fld (MOD_AX_STAT.COAST n) = 15)) ∧
    (∃ (n : Fin 12) (p : SpPair) (rest : List SpPair) (s : State), s.powered = true ∧ s.atPhase .sealed = true ∧
      s.mods.length = 12 ∧ s.axisUsed n = true ∧ s.ranLists = true ∧ s.sys.mode = .run ∧ s.sys.safeNew = 0 ∧
      s.sys.cutFrom = none ∧ s.intg.release = 0 ∧ s.isSafe n = false ∧ s.bitOf INT_STAT.PARKED_AX n = false ∧
      (s.mod n).pairs = p :: rest ∧ s.intg.endD6.getLsbD p.eng = false ∧ s.firstWait n = false ∧
      s.checksOnly n = false ∧ s.fld (MOD_AX_STAT.COAST n) = 0) ∧
    (∃ (n : Fin 12) (p : SpPair) (rest : List SpPair) (s : State), s.powered = true ∧ s.atPhase .sealed = true ∧
      s.mods.length = 12 ∧ s.axisUsed n = true ∧ s.ranLists = true ∧ s.sys.mode = .run ∧ s.sys.safeNew = 0 ∧
      s.sys.cutFrom = none ∧ s.intg.release = 0 ∧ s.isSafe n = false ∧ s.bitOf INT_STAT.PARKED_AX n = false ∧
      (s.mod n).pairs = p :: rest ∧ s.intg.endD6.getLsbD p.eng = true ∧ s.servingEngine n = some p.eng ∧
      (rest ≠ [] ∨ p.w1 = none) ∧ s.firstWait n = false ∧ s.checksOnly n = false ∧ s.fld (MOD_AX_STAT.COAST n) = 0) ∧
    (∃ (n : Fin 12) (p : SpPair) (w1 : Word) (s : State), s.powered = true ∧ s.atPhase .sealed = true ∧
      s.mods.length = 12 ∧ s.axisUsed n = true ∧ s.ranLists = true ∧ s.sys.mode = .run ∧ s.sys.safeNew = 0 ∧
      s.sys.cutFrom = none ∧ s.intg.release = 0 ∧ s.isSafe n = false ∧ s.bitOf INT_STAT.PARKED_AX n = false ∧
      (s.mod n).pairs = [p] ∧ p.w1 = some w1 ∧ s.intg.endD6.getLsbD p.eng = true ∧ s.servingEngine n = some p.eng ∧
      p.ok = false ∧ s.firstWait n = false ∧ s.checksOnly n = false ∧ s.fld (MOD_AX_STAT.COAST n) = 0) ∧
    (∃ (n : Fin 12) (p : SpPair) (w1 : Word) (s : State), s.powered = true ∧ s.atPhase .sealed = true ∧
      s.mods.length = 12 ∧ s.axisUsed n = true ∧ s.ranLists = true ∧ s.sys.mode = .run ∧ s.sys.safeNew = 0 ∧
      s.sys.cutFrom = none ∧ s.intg.release = 0 ∧ s.isSafe n = false ∧ s.bitOf INT_STAT.PARKED_AX n = false ∧
      (s.mod n).pairs = [p] ∧ p.w1 = some w1 ∧ s.intg.endD6.getLsbD p.eng = true ∧ s.servingEngine n = some p.eng ∧
      p.ok = true ∧ spCrc p.w0 w1 ≠ p.resident ∧ s.firstWait n = false ∧ s.checksOnly n = false ∧
      s.fld (MOD_AX_STAT.COAST n) = 0) ∧
    (∃ (n : Fin 12) (p : SpPair) (w1 : Word) (s : State), s.powered = true ∧ s.atPhase .sealed = true ∧
      s.mods.length = 12 ∧ s.axisUsed n = true ∧ s.ranLists = true ∧ s.sys.mode = .run ∧ s.sys.safeNew = 0 ∧
      s.sys.cutFrom = none ∧ s.intg.release = 0 ∧ s.isSafe n = false ∧ s.bitOf INT_STAT.PARKED_AX n = false ∧
      (s.mod n).pairs = [p] ∧ p.w1 = some w1 ∧ s.intg.endD6.getLsbD p.eng = true ∧ s.servingEngine n = some p.eng ∧
      p.ok = true ∧ spCrc p.w0 w1 = p.resident ∧ spFcnt w1 ≠ s.clk.frames.toNat % 8 ∧ s.firstWait n = false ∧
      s.checksOnly n = false ∧ s.fld (MOD_AX_STAT.COAST n) = 0) ∧
    (∃ (n : Fin 12) (c : Nat) (s : State), s.powered = true ∧ s.atPhase .sealed = true ∧ s.mods.length = 12 ∧
      s.axisUsed n = true ∧ s.ranLists = true ∧ s.sys.mode = .run ∧ s.sys.safeNew = 0 ∧ s.sys.cutFrom = none ∧
      s.intg.release = 0 ∧ s.isSafe n = false ∧ s.bitOf INT_STAT.PARKED_AX n = false ∧ (s.mod n).pairs = [] ∧
      s.firstWait n = false ∧ s.checksOnly n = false ∧ c = s.fld (MOD_AX_STAT.COAST n) ∧ c < 8 ∧
      (c = 0 ∨ spCrc (s.committed n).1 (s.committed n).2 = (s.mod n).resident)) ∧
    (∃ (n : Fin 12) (c : Nat) (s : State), s.powered = true ∧ s.atPhase .sealed = true ∧ s.mods.length = 12 ∧
      s.axisUsed n = true ∧ s.ranLists = true ∧ s.sys.mode = .run ∧ s.sys.safeNew = 0 ∧ s.sys.cutFrom = none ∧
      s.intg.release = 0 ∧ s.isSafe n = false ∧ s.bitOf INT_STAT.PARKED_AX n = false ∧ (s.mod n).pairs = [] ∧
      s.firstWait n = false ∧ s.checksOnly n = false ∧ c = s.fld (MOD_AX_STAT.COAST n) ∧ c ≠ 0 ∧ c ≤ 8 ∧
      (c = 8 ∨ spCrc (s.committed n).1 (s.committed n).2 ≠ (s.mod n).resident)) ∧
    (∃ (n : Fin 12) (s : State), s.powered = true ∧ s.atPhase .sealed = true ∧ s.mods.length = 12 ∧
      s.axisUsed n = true ∧ s.sys.safeNew = 0 ∧ s.intg.release = 0 ∧ s.isSafe n = true) ∧
    (∃ (e : Fin 9) (a : Nat) (w0 w1 : Word) (rest : List Msg) (s : State), s.powered = true ∧ s.mods.length = 12 ∧
      a < 12 ∧ s.queue ⟨engUnit e, 6⟩ = .setpoint e a 0 w0 :: .setpoint e a 1 w1 :: rest ∧ (s.mod a).pairs = []) :=
  ⟨⟨3, ⟨0, 5, some 0, spCrc 5 0, true⟩, 0,
     { (atPhase .sealed) with intg := { endD6 := 1 }, mods := List.replicate 12 { pairs := [⟨0, 5, some 0, spCrc 5 0, true⟩] }, reel := { struct := { engines := [{ axis := 3, engine := 0, pos := 0 }] } } }, by decide +kernel⟩,
   ⟨{ up.put (MOD_AX_STAT.FIRST_WAIT 3) 0 with intg := { endD6 := 1 }, mods := List.replicate 12 { pairs := [⟨0, 0, some 0, spCrc 0 0, true⟩] }, reel := { struct := { engines := [{ axis := 3, engine := 0, pos := 0 }] } } },
     3, 0, ⟨0, 0, some 0, spCrc 0 0, true⟩, 0, by decide +kernel⟩,
   ⟨{ up.put (MOD_AX_STAT.FIRST_WAIT 3) 0 with intg := { endD6 := 1 }, mods := List.replicate 12 {  }, reel := { struct := { engines := [{ axis := 3, engine := 0, pos := 0 }] } } },
     3, 0, 0, by decide +kernel⟩,
   ⟨{ (up.put (MOD_AX_STAT.FIRST_WAIT 3) 0).put (MOD_AX_STAT.COAST 3) 8 with intg := { endD6 := 1 }, mods := List.replicate 12 { hbs := List.replicate 4 {} }, reel := { struct := { engines := [{ axis := 3, engine := 0, pos := 0 }] } } },
     3, 0, 8, by decide +kernel⟩,
   ⟨{ up.put (MOD_AX_STAT.SAFE 3) 1 with intg := { endD6 := 1 }, mods := List.replicate 12 { pairs := [⟨0, 0, some 0, spCrc 0 0, true⟩] }, reel := { struct := { engines := [{ axis := 3, engine := 0, pos := 0 }] } } },
     3, 0, ⟨0, 0, some 0, spCrc 0 0, true⟩, 0, by decide +kernel⟩,
   ⟨3,
     { (atPhase .sealed) with intg := { endD6 := 1 }, mods := List.replicate 12 {  }, reel := { struct := { engines := [{ axis := 3, engine := 0, pos := 0 }] } } }, by decide +kernel⟩,
   ⟨3, ⟨0, 5, some 0, spCrc 5 0, true⟩, [],
     { ((atPhase .sealed).put (MOD_AX_STAT.FIRST_WAIT 3) 0) with intg := {  }, mods := List.replicate 12 { pairs := [⟨0, 5, some 0, spCrc 5 0, true⟩] }, reel := { struct := { engines := [{ axis := 3, engine := 0, pos := 0 }] } } }, by decide +kernel⟩,
   ⟨3, ⟨0, 0, none, 0, true⟩, [],
     { ((atPhase .sealed).put (MOD_AX_STAT.FIRST_WAIT 3) 0) with intg := { endD6 := 1 }, mods := List.replicate 12 { pairs := [⟨0, 0, none, 0, true⟩] }, reel := { struct := { engines := [{ axis := 3, engine := 0, pos := 0 }] } } }, by decide +kernel⟩,
   ⟨3, ⟨0, 0, some 0, 0, false⟩, 0,
     { ((atPhase .sealed).put (MOD_AX_STAT.FIRST_WAIT 3) 0) with intg := { endD6 := 1 }, mods := List.replicate 12 { pairs := [⟨0, 0, some 0, 0, false⟩] }, reel := { struct := { engines := [{ axis := 3, engine := 0, pos := 0 }] } } }, by decide +kernel⟩,
   ⟨3, ⟨0, 0, some 0, 999, true⟩, 0,
     { ((atPhase .sealed).put (MOD_AX_STAT.FIRST_WAIT 3) 0) with intg := { endD6 := 1 }, mods := List.replicate 12 { pairs := [⟨0, 0, some 0, 999, true⟩] }, reel := { struct := { engines := [{ axis := 3, engine := 0, pos := 0 }] } } }, by decide +kernel⟩,
   ⟨3, ⟨0, 0, some 0, spCrc 0 0, true⟩, 0,
     { { ((atPhase .sealed).put (MOD_AX_STAT.FIRST_WAIT 3) 0) with intg := { endD6 := 1 }, mods := List.replicate 12 { pairs := [⟨0, 0, some 0, spCrc 0 0, true⟩] }, reel := { struct := { engines := [{ axis := 3, engine := 0, pos := 0 }] } } } with clk := { cutsOn := true, phase := .sealed, frames := 3 } }, by decide +kernel⟩,
   ⟨3, 0,
     { ((atPhase .sealed).put (MOD_AX_STAT.FIRST_WAIT 3) 0) with intg := { endD6 := 1 }, mods := List.replicate 12 {  }, reel := { struct := { engines := [{ axis := 3, engine := 0, pos := 0 }] } } }, by decide +kernel⟩,
   ⟨3, 8,
     { (((atPhase .sealed).put (MOD_AX_STAT.FIRST_WAIT 3) 0).put (MOD_AX_STAT.COAST 3) 8) with intg := { endD6 := 1 }, mods := List.replicate 12 { hbs := List.replicate 4 {} }, reel := { struct := { engines := [{ axis := 3, engine := 0, pos := 0 }] } } }, by decide +kernel⟩,
   ⟨3,
     { ((atPhase .sealed).put (MOD_AX_STAT.SAFE 3) 1) with intg := { endD6 := 1 }, mods := List.replicate 12 { pairs := [⟨0, 5, some 0, spCrc 5 0, true⟩] }, reel := { struct := { engines := [{ axis := 3, engine := 0, pos := 0 }] } } }, by decide +kernel⟩,
   ⟨8, 11, 5, 6, [], { up with queues := [(⟨engUnit 8, 6⟩, [.setpoint 8 11 0 5, .setpoint 8 11 1 6])] }, by decide +kernel⟩⟩

theorem witness_carrierAndCurrentLoop :
    (∃ (n : Fin 12) (s : State), s.powered = true ∧ s.mods.length = 12 ∧ s.sys.mode.lists = true ∧
      s.axisUsed n = true ∧ s.carrierLeft n = true) ∧
    (∃ (n : Fin 12) (b : Bool) (s : State), s.powered = true ∧ s.mods.length = 12 ∧ s.sys.mode.lists = true ∧
      (s.mod n).carrier = true ∧ ((s.mod n).phase b).refresh = false ∧ ((s.mod n).phase b).d ≠ 0 ∧
      ((s.mod n).phase b).risen = false) ∧
    (∃ (n : Fin 12) (b : Bool) (s : State), s.powered = true ∧ s.mods.length = 12 ∧ s.sys.mode.lists = true ∧
      (s.mod n).carrier = true ∧ ((s.mod n).phase b).risen = true ∧ ((s.mod n).phase b).fallen = false) ∧
    (∃ (n : Fin 12) (b : TurnOn) (s : State), s.powered = true ∧ s.mods.length = 12 ∧ (s.mod n).hbs.length = 4 ∧
      (s.hb n b.k).turnOn = some true ∧ b.held = false ∧ (s.hb n b.k).lo = false) ∧
    (∃ (n : Fin 12) (b : TurnOn) (s : State), s.powered = true ∧ s.mods.length = 12 ∧ (s.mod n).hbs.length = 4 ∧
      (s.hb n b.k).turnOn = some false ∧ b.held = false ∧ (s.hb n b.k).hi = false) ∧
    (∃ (n : Fin 12) (b : TurnOn) (hi : Bool) (s : State), s.powered = true ∧ s.mods.length = 12 ∧
      (s.mod n).hbs.length = 4 ∧ (s.hb n b.k).turnOn = some hi ∧
      (b.held = true ∨ (if hi = true then (s.hb n b.k).lo else (s.hb n b.k).hi) = true)) ∧
    (∃ (n : Fin 12) (b : Bool) (w : Word) (e raw : Int) (s : State), s.powered = true ∧ s.mods.length = 12 ∧
      s.queue ⟨5, 6⟩ = [] ∧ w.getLsbD 16 = true ∧ w.getLsbD 17 = false ∧ w.getLsbD 18 = false ∧ (s.mod n).bmode = 0 ∧
      (s.mod n).act.voltage = false ∧ s.sys.mode.lists = true ∧ s.firstWait n = false ∧ s.isSafe n = false ∧
      s.flag SYS_STAT.OV = false ∧ e = s.phaseRef n b - (w.extractLsb' 0 16).toInt ∧
      raw = (s.fld (MOD_AX_GAIN.KP n) * e + ((s.mod n).phase b).integ) >>> (12 : Nat)) ∧
    (∃ (n : Fin 12) (b : Bool) (s : State), s.powered = true ∧ s.mods.length = 12 ∧ s.voltageSlots n b ≠ [] ∧
      (s.mod n).act.shoEn = true ∧ (s.mod n).bmode = 0 ∧ ((s.mod n).phase b).hold = false ∧
      ((s.mod n).phase b).risen = true ∧ ((s.mod n).phase b).fallen = false) :=
  ⟨⟨3, { up with reel := { struct := { engines := [{ axis := 3, engine := 0, pos := 0 }] } } }, by decide⟩,
   ⟨11, true, { up with mods := List.replicate 12 { carrier := true, pb := { d := 5 } } }, by decide⟩,
   ⟨11, true, { up with mods := List.replicate 12 { carrier := true, pb := { d := 5, risen := true } } }, by decide⟩,
   ⟨11, ⟨3, false⟩, { up with mods := List.replicate 12 { hbs := List.replicate 4 { turnOn := some true } } }, by decide⟩,
   ⟨11, ⟨3, false⟩, { up with mods := List.replicate 12 { hbs := List.replicate 4 { turnOn := some false } } }, by decide⟩,
   ⟨11, ⟨3, true⟩, false,
     { up with mods := List.replicate 12 { hbs := List.replicate 4 { turnOn := some false } } }, by decide⟩,
   ⟨11, true, 0x10005, -5, (((up.fld (MOD_AX_GAIN.KP 11) : Int) * -5) >>> (12 : Nat)),
     { up.put (MOD_AX_STAT.FIRST_WAIT 11) 0 with mods := List.replicate 12 { bmode := 0 } }, by decide⟩,
   ⟨11, false,
     { up with mods := List.replicate 12 { bmode := 0, act := { cfg := 0xFFFFFFFF }, pa := { risen := true } }, reel := { struct := { slots := [⟨0, 0, 46, 0, 0, 0, false⟩] } } }, by decide⟩⟩

theorem witness_modulatorWrites :
    (∃ (v : Word) (s : State), s.hostOpen ∧ s.mods.length = 12 ∧ s.sys.mode.lists = true ∧
      (∀ n < 12, (v.getLsbD n = true ∨ (v.getLsbD 16 = true ∧ s.axisUsed n = true)) → s.commitRefused n = false)) ∧
    (∃ (v : Word) (s : State), s.hostOpen ∧ s.mods.length = 12 ∧ s.sys.mode.lists = false ∧
      (∀ n < 12, (v.getLsbD n = true ∨ (v.getLsbD 16 = true ∧ s.axisUsed n = true)) → s.commitRefused n = false)) ∧
    (∃ (v : Word) (s : State), s.hostOpen ∧ (∃ n < 12, (v.getLsbD n = true ∨ (v.getLsbD 16 = true ∧
      s.axisUsed n = true)) ∧ s.commitRefused n = true)) ∧
    (∃ (n : Fin 12) (s : State), s.hostOpen ∧ s.part.hasAxis n = true ∧ s.flag MOD_CTRL.FORCE_EN = true ∧
      s.isSafe n = false ∧ s.mods.length = 12) ∧
    (∃ (n : Fin 12) (v : Word) (s : State), s.hostOpen ∧ s.part.hasAxis n = true ∧ v.getLsbD 8 = true ∧
      (s.flag MOD_CTRL.FORCE_EN = false ∨ s.isSafe n = true)) ∧
    (∃ (n : Fin 12) (s : State), s.hostOpen ∧ s.part.hasAxis n = true ∧ s.sys.mode.lists = true ∧
      s.flag (PWR_AX_DIAG.BUSY n) = false ∧ s.flag MOD_CTRL.FORCE_EN = true ∧ s.isSafe n = false ∧
      s.flag SYS_STAT.OV = false ∧ s.mods.length = 12 ∧ (s.mod n).hbs.length = 4 ∧ (∀ k < 4, s.isolated n k = false ∧
      (s.hb n k).conflict = false ∧ (s.hb n k).events < 15)) :=
  ⟨⟨0x10000,
     { up.setWord (MOD_AX_CFG 3) 2 with reel := { struct := { engines := [{ axis := 3, engine := 0, pos := 0 }] } } }, by decide +kernel⟩,
   ⟨8,
     { standbyUp.setWord (MOD_AX_CFG 3) 2 with reel := { struct := { engines := [{ axis := 3, engine := 0, pos := 0 }] } } }, by decide +kernel⟩,
   ⟨8, up, by decide +kernel⟩,
   ⟨11, up.put MOD_CTRL.FORCE_EN 1, by decide +kernel⟩,
   ⟨11, 0x100, up, by decide +kernel⟩,
   ⟨11, up.put MOD_CTRL.FORCE_EN 1, by decide +kernel⟩⟩

theorem witness_tripIsolates :
    (∃ (n : Fin 12) (src : Fin 18) (s : State), s.powered = true ∧ s.axisUsed n = true ∧ tripExists n src = true ∧
      (s.sourceActive n src = true ∨ s.sameCycle n src = true) ∧ s.underTest n = false ∧ s.mods.length = 12 ∧
      (s.mod n).hbs.length = 4) ∧
    (∃ (n : Fin 12) (src : Fin 18) (s : State), s.powered = true ∧ s.sourceActive n src = false ∧
      s.sameCycle n src = false) ∧
    (∃ (s : State) (n k : Nat), s.sys.mode.lists = false) ∧
    (∃ (n : Fin 12) (src : Fin 18) (s : State), s.powered = true ∧ s.axisUsed n = true ∧ tripExists n src = true) ∧
    (∃ (n : Fin 12) (m : Word) (s : State), s.hostOpen ∧ s.part.hasAxis n = true ∧ (∀ b < 19, m.getLsbD b = true →
      s.tripMayClear n b = true)) ∧
    (∃ (n : Fin 12) (m : Word) (s : State), s.hostOpen ∧ s.part.hasAxis n = true ∧ (∃ b < 19, m.getLsbD b = true ∧
      s.tripMayClear n b = false)) ∧
    (∃ (n : Fin 12) (k : Fin 4) (s : State), s.powered = true ∧ s.axisUsed n = true ∧ s.sys.mode.lists = true ∧
      s.bitOf (PWR_AX_STAT.BST_UV n) k = true ∧ 4 ≤ ((s.mod n).phase (2 ≤ k.val)).refreshes ∧ s.underTest n = false ∧
      s.mods.length = 12 ∧ (s.mod n).hbs.length = 4) ∧
    (∃ (n : Fin 12) (k : Fin 4) (s : State), s.powered = true ∧
      (s.sys.mode.lists = false ∨ s.bitOf (PWR_AX_STAT.BST_UV n) k =
      false ∨ ((s.mod n).phase (2 ≤ k.val)).refreshes < 4)) ∧
    (∃ (n : Fin 12) (src : Fin 18) (s : State), s.powered = true ∧ (s.axisUsed n = false ∨ tripExists n src = false)) :=
  ⟨⟨3, 1,
     { { up with mods := List.replicate 12 { hbs := List.replicate 4 { lo := true } } } with reel := { struct := { engines := [{ axis := 3, engine := 0, pos := 0 }] } } }, by decide⟩,
   ⟨3, 1, { up with reel := { struct := { engines := [{ axis := 3, engine := 0, pos := 0 }] } } }, by decide⟩,
   ⟨standbyUp, 3, 1, by decide⟩,
   ⟨3, 1, { up with reel := { struct := { engines := [{ axis := 3, engine := 0, pos := 0 }] } } }, by decide⟩,
   ⟨3, 0, up, by decide⟩,
   ⟨3, 2, (up.setWord (PWR_AX_TRIP 3) 2).setWord (PWR_AX_LIVE 3) 2, by decide⟩,
   ⟨3, 1,
     { { up.putBit (PWR_AX_STAT.BST_UV 3) 1 true with reel := { struct := { engines := [{ axis := 3, engine := 0, pos := 0 }] } } } with mods := List.replicate 12 { pa := { refreshes := 4 } } }, by decide⟩,
   ⟨3, 1, { up with reel := { struct := { engines := [{ axis := 3, engine := 0, pos := 0 }] } } }, by decide⟩,
   ⟨3, 1, up, by decide⟩⟩

theorem witness_bootstrapAndDiagnosis :
    (∃ (n : Fin 12) (k : Fin 4) (s : State), s.powered = true ∧ s.axisUsed n = true ∧ heavy n = true ∧
      s.bitOf (PWR_AX_STAT.BST_UV n) k = false) ∧
    (∃ (n : Fin 12) (k : Fin 4) (s : State), s.powered = true ∧ s.mods.length = 12 ∧
      s.bitOf (PWR_AX_STAT.BST_UV n) k = true) ∧
    (∃ (n : Fin 12) (s : State), s.hostOpen ∧ s.part.hasAxis n = true ∧ s.phasesOpen n = true ∧
      s.fld (PWR_AX_STAT.ISOL n) = 0 ∧ s.flag PWR_STAT.LV = false ∧ s.flag (PWR_AX_DIAG.BUSY n) = false ∧
      s.pwr.selfTest.contains n.val = false) ∧
    (∃ (n : Fin 12) (v : DiagVolts) (s : State), s.powered = true ∧ s.flag (PWR_AX_DIAG.BUSY n) = true) ∧
    (∃ (m : BitVec 12) (s : State), s.hostOpen ∧ s.flag PWR_ST_RESULT.BUSY = false ∧ (∀ n < 12, m.getLsbD n = true →
      s.axisUsed n = true ∧ (s.sys.mode = .standby ∨ (s.sys.mode = .service ∧ s.isSafe n = true))) ∧ m ≠ 0#12) ∧
    (∃ (n : Fin 12) (rest : List Nat) (s : State), s.powered = true ∧ s.pwr.selfTest = n.val :: rest) ∧
    (∃ (n : Fin 12) (c : Fin 18) (rest : List Nat) (s : State), s.powered = true ∧ s.pwr.selfTest = n.val :: rest) :=
  ⟨⟨3, 1, { up with reel := { struct := { engines := [{ axis := 3, engine := 0, pos := 0 }] } } }, by decide⟩,
   ⟨3, 1, up.putBit (PWR_AX_STAT.BST_UV 3) 1 true, by decide⟩,
   ⟨3, standbyUp, by decide⟩,
   ⟨3, ⟨4001, 999, 4000, 3500⟩, up.put (PWR_AX_DIAG.BUSY 3) 1, by decide⟩,
   ⟨8, { standbyUp with reel := { struct := { engines := [{ axis := 3, engine := 0, pos := 0 }] } } }, by decide⟩,
   ⟨3, [4], { up with pwr := { selfTest := [3, 4] } }, by decide⟩,
   ⟨3, 2, [4], { up with pwr := { selfTest := [3, 4] } }, by decide⟩⟩

theorem witness_supplyAndThermalShutdown :
    (∃ (s : State), s.powered = true ∧ s.flag PWR_STAT.OT_SHUT = false) ∧
    (∃ (s : State), s.powered = true ∧ s.flag PWR_STAT.OT_SHUT = true) ∧
    (∃ (s : State), s.powered = true) ∧
    (∃ (s : State), s.powered = true) ∧
    (∃ (s : State), s.powered = true ∧ s.sys.mode ≠ .standby) ∧
    (∃ (s : State), s.powered = true) ∧
    (∃ (s : State), s.powered = true) :=
  ⟨⟨{ up with reel := { struct := { engines := [{ axis := 3, engine := 0, pos := 0 }] } } }, by decide⟩,
   ⟨up.put PWR_STAT.OT_SHUT 1, by decide⟩,
   ⟨{ up with reel := { struct := { engines := [{ axis := 3, engine := 0, pos := 0 }] } } }, by decide⟩,
   ⟨up, by decide⟩,
   ⟨up, by decide⟩,
   ⟨up, by decide⟩,
   ⟨up, by decide⟩⟩

theorem witness_conversionsDelivered :
    (∃ (i : Fin 256) (r : BitVec 12) (x : Slot) (s : State), s.powered = true ∧ s.sys.mode.lists = true ∧
      s.reel.struct.slots[i.val]? = some x ∧ s.flag (ADC_CH_CFG.EN x.channel) = true ∧ s.carrier x.core = x.core ∧
      (s.core x.core).uncovered = false ∧ s.flag (ADC_CORE_CHK.FAILED x.core) = false ∧ x.interleave = false ∧
      x.channel < 48) ∧
    (∃ (r : BitVec 12) (s : State), s.powered = true ∧ s.sys.mode = .standby ∧ s.flag (ADC_CH_CFG.EN 48) = true ∧
      s.carrier 4 = 4 ∧ (s.core 4).uncovered = false ∧ s.flag (ADC_CORE_CHK.FAILED 4) = false) ∧
    (∃ (k : Fin 6) (r : BitVec 12) (v : Int) (s : State), s.powered = true ∧ s.sys.mode.lists = true ∧
      s.clk.frames.toNat % 128 = k.val ∧ s.flag (ADC_CORE_CHK.FAILED k) = false ∧ (s.core k).calRuns = false ∧
      k.val < 5 ∧ v = (s.correct k 54 0 r.toNat).1 ∧ v.natAbs ≤ 64) ∧
    (∃ (k : Fin 6) (s : State), s.powered = true ∧ s.sys.mode.lists = true ∧ s.clk.frames.toNat % 64 = k.val ∧
      s.flag (ADC_CORE_CHK.FAILED k) = false ∧ (s.core k).calRuns = false ∧ k.val < 5) ∧
    (∃ (v : Word) (s : State), s.hostOpen ∧ s.injectRefused (v ||| 0x10000#32) = false) ∧
    (∃ (r : BitVec 12) (k core : Nat) (s : State), s.powered = true ∧ s.adc.inj = some ⟨48, k, core, false⟩ ∧
      s.flag (ADC_CH_CFG.EN 48) = true ∧ s.flag (ADC_CORE_CHK.FAILED core) = false ∧
      (s.unit (adcUnit 48 k)).gainLeft = 0 ∧ (s.unit (adcUnit 48 k)).filtLeft = 0) ∧
    (∃ (m : BitVec 6) (s : State), s.hostOpen ∧ s.adc.cores.length = 6 ∧ s.calRefused m.toNat = false) ∧
    (∃ (k : Fin 6) (mid hi : Nat) (s : State), s.powered = true ∧ s.sys.mode ≠ .boot ∧ s.adc.cores.length = 6 ∧
      (s.core k).calRuns = true) ∧
    (∃ (s : State) (mid hi : Nat) (o g : Int), (s.calTrims mid hi).1 = some (o, g)) ∧
    (∃ (s : State) (mid hi : Nat), (s.calTrims mid hi).1 = none) :=
  ⟨⟨0, 5, ⟨0, 0, 8, 0, 0, 0, false⟩,
     { up.put (ADC_CH_CFG.EN 8) 1 with reel := { struct := { slots := [⟨0, 0, 8, 0, 0, 0, false⟩] } } }, by decide⟩,
   ⟨5, standbyUp.put (ADC_CH_CFG.EN 48) 1, by decide⟩,
   ⟨0, 2048, 0, up, by decide⟩,
   ⟨0, up, by decide⟩,
   ⟨48, up.put (ADC_CH_CFG.EN 48) 1, by decide⟩,
   ⟨5, 0, 0, { up.put (ADC_CH_CFG.EN 48) 1 with adc := { inj := some ⟨48, 0, 0, false⟩ } }, by decide⟩,
   ⟨0x1F, up, by decide⟩,
   ⟨5, 65536, 114688, { up with adc := { cores := List.replicate 6 { calRuns := true } } }, by decide⟩,
   ⟨up, 65536, 114688, 0, 16384, by decide⟩,
   ⟨up, 131072, 114688, by decide⟩⟩

theorem witness_quadratureCounts :
    (∃ (k : Fin 4) (a b i : Bool) (lag : Nat) (s : State), s.powered = true ∧ s.pos.qd.length = 4 ∧
      s.flag (POS_QD_CFG.EN k) = true ∧ s.vioOk = true ∧ s.flag (POS_QD_CFG.DIR_INV k) = false ∧
      (i && s.inputOn 0x03 k) = (s.qd k).i ∧ (qdPlace a b + 4 - qdPlace (s.qd k).a (s.qd k).b) % 4 = 1) ∧
    (∃ (k : Fin 4) (a b i : Bool) (lag : Nat) (s : State), s.powered = true ∧ s.pos.qd.length = 4 ∧
      s.flag (POS_QD_CFG.EN k) = true ∧ s.vioOk = true ∧ s.flag (POS_QD_CFG.DIR_INV k) = true ∧
      (i && s.inputOn 0x03 k) = (s.qd k).i ∧ (qdPlace a b + 4 - qdPlace (s.qd k).a (s.qd k).b) % 4 = 1) ∧
    (∃ (k : Fin 4) (a b i : Bool) (lag : Nat) (s : State), s.powered = true ∧ s.pos.qd.length = 4 ∧
      s.flag (POS_QD_CFG.EN k) = true ∧ s.vioOk = true ∧ s.flag (POS_QD_CFG.DIR_INV k) = false ∧
      (i && s.inputOn 0x03 k) = (s.qd k).i ∧ (qdPlace a b + 4 - qdPlace (s.qd k).a (s.qd k).b) % 4 = 3) ∧
    (∃ (k : Fin 4) (a b i : Bool) (lag : Nat) (s : State), s.powered = true ∧ s.pos.qd.length = 4 ∧
      s.flag (POS_QD_CFG.EN k) = true ∧ s.vioOk = true ∧ s.flag (POS_QD_CFG.DIR_INV k) = true ∧
      (i && s.inputOn 0x03 k) = (s.qd k).i ∧ (qdPlace a b + 4 - qdPlace (s.qd k).a (s.qd k).b) % 4 = 3) ∧
    (∃ (k : Fin 4) (i : Bool) (lag : Nat) (s : State), s.powered = true ∧ s.pos.qd.length = 4 ∧
      s.flag (POS_QD_CFG.EN k) = true ∧ s.vioOk = true ∧ s.inputOn 0x03 k = true ∧ s.qdGate k (s.qd k).i i = true ∧
      s.fld (POS_QD_CPR.CPR k) = 0) ∧
    (∃ (k : Fin 4) (i : Bool) (lag c : Nat) (x d : Int) (s : State), s.powered = true ∧ s.pos.qd.length = 4 ∧
      s.flag (POS_QD_CFG.EN k) = true ∧ s.vioOk = true ∧ s.inputOn 0x03 k = true ∧ s.qdGate k (s.qd k).i i = true ∧
      c = s.fld (POS_QD_CPR.CPR k) ∧ 0 < c ∧ x = (((s.qd k).angle : Int) - s.fld (POS_QD_IDX.IPOS k)) % c ∧
      (d = if (c / 2 : Nat) ≤ x then x - c else x) ∧ s.flag (POS_QD_STAT.REFD k) = false ∧
      s.flag (POS_QD_CFG.FIRST_SNAP k) = true) ∧
    (∃ (k : Fin 4) (i : Bool) (lag c : Nat) (x d : Int) (s : State), s.powered = true ∧ s.pos.qd.length = 4 ∧
      s.flag (POS_QD_CFG.EN k) = true ∧ s.vioOk = true ∧ s.inputOn 0x03 k = true ∧ s.qdGate k (s.qd k).i i = true ∧
      c = s.fld (POS_QD_CPR.CPR k) ∧ 0 < c ∧ x = (((s.qd k).angle : Int) - s.fld (POS_QD_IDX.IPOS k)) % c ∧
      (d = if (c / 2 : Nat) ≤ x then x - c else x) ∧
      (s.flag (POS_QD_STAT.REFD k) = true ∨ s.flag (POS_QD_CFG.FIRST_SNAP k) = false) ∧ d = 0) ∧
    (∃ (k : Fin 4) (i : Bool) (lag c : Nat) (x d : Int) (s : State), s.powered = true ∧ s.pos.qd.length = 4 ∧
      s.flag (POS_QD_CFG.EN k) = true ∧ s.vioOk = true ∧ s.inputOn 0x03 k = true ∧ s.qdGate k (s.qd k).i i = true ∧
      c = s.fld (POS_QD_CPR.CPR k) ∧ 0 < c ∧ x = (((s.qd k).angle : Int) - s.fld (POS_QD_IDX.IPOS k)) % c ∧
      (d = if (c / 2 : Nat) ≤ x then x - c else x) ∧
      (s.flag (POS_QD_STAT.REFD k) = true ∨ s.flag (POS_QD_CFG.FIRST_SNAP k) = false) ∧ d ≠ 0 ∧
      d.natAbs ≤ s.fld (POS_QD_IDX.TOL k) ∧ s.flag (POS_QD_CFG.SNAP k) = true) ∧
    (∃ (k : Fin 4) (i : Bool) (lag c : Nat) (x d : Int) (s : State), s.powered = true ∧ s.pos.qd.length = 4 ∧
      s.flag (POS_QD_CFG.EN k) = true ∧ s.vioOk = true ∧ s.inputOn 0x03 k = true ∧ s.qdGate k (s.qd k).i i = true ∧
      c = s.fld (POS_QD_CPR.CPR k) ∧ 0 < c ∧ x = (((s.qd k).angle : Int) - s.fld (POS_QD_IDX.IPOS k)) % c ∧
      (d = if (c / 2 : Nat) ≤ x then x - c else x) ∧
      (s.flag (POS_QD_STAT.REFD k) = true ∨ s.flag (POS_QD_CFG.FIRST_SNAP k) = false) ∧ d ≠ 0 ∧
      d.natAbs ≤ s.fld (POS_QD_IDX.TOL k) ∧ s.flag (POS_QD_CFG.SNAP k) = false) ∧
    (∃ (k : Fin 4) (i : Bool) (lag c : Nat) (x d : Int) (s : State), s.powered = true ∧ s.pos.qd.length = 4 ∧
      s.flag (POS_QD_CFG.EN k) = true ∧ s.vioOk = true ∧ s.inputOn 0x03 k = true ∧ s.qdGate k (s.qd k).i i = true ∧
      c = s.fld (POS_QD_CPR.CPR k) ∧ 0 < c ∧ x = (((s.qd k).angle : Int) - s.fld (POS_QD_IDX.IPOS k)) % c ∧
      (d = if (c / 2 : Nat) ≤ x then x - c else x) ∧
      (s.flag (POS_QD_STAT.REFD k) = true ∨ s.flag (POS_QD_CFG.FIRST_SNAP k) = false) ∧ d ≠ 0 ∧
      s.fld (POS_QD_IDX.TOL k) < d.natAbs) ∧
    (∃ (k : Fin 4) (i : Bool) (lag : Nat) (s : State), s.powered = true ∧ s.inputOn 0x03 k = false) ∧
    (∃ (k : Fin 4) (v : Word) (s : State), s.hostOpen ∧ s.pos.qd.length = 4 ∧ s.presetRefused k = false) :=
  ⟨⟨3, true, false, false, 2, up.put (POS_QD_CFG.EN 3) 1, by decide⟩,
   ⟨3, true, false, false, 2, (up.put (POS_QD_CFG.EN 3) 1).put (POS_QD_CFG.DIR_INV 3) 1, by decide⟩,
   ⟨3, false, true, false, 2, up.put (POS_QD_CFG.EN 3) 1, by decide⟩,
   ⟨3, false, true, false, 2, (up.put (POS_QD_CFG.EN 3) 1).put (POS_QD_CFG.DIR_INV 3) 1, by decide⟩,
   ⟨3, true, 2,
     { up.put (POS_QD_CFG.EN 3) 1 with pos := { pinsOn := true }, reel := { struct := { pins := [⟨0x03, 3, 0⟩] } } }, by decide⟩,
   ⟨3, true, 2, 4000, 3990, -10,
     { ((up.put (POS_QD_CFG.EN 3) 1).put (POS_QD_CPR.CPR 3) 4000).put (POS_QD_CFG.FIRST_SNAP 3) 1 with pos := { pinsOn := true, qd := List.replicate 4 { angle := 3990 } }, reel := { struct := { pins := [⟨0x03, 3, 0⟩] } } }, by decide⟩,
   ⟨3, true, 2, 4000, 0, 0,
     { ((up.put (POS_QD_CFG.EN 3) 1).put (POS_QD_CPR.CPR 3) 4000) with pos := { pinsOn := true, qd := List.replicate 4 { angle := 0 } }, reel := { struct := { pins := [⟨0x03, 3, 0⟩] } } }, by decide⟩,
   ⟨3, true, 2, 4000, 2000, -2000,
     { (((up.put (POS_QD_CFG.EN 3) 1).put (POS_QD_CPR.CPR 3) 4000).put (POS_QD_IDX.TOL 3) 2000 |>.put (POS_QD_CFG.SNAP 3) 1) with pos := { pinsOn := true, qd := List.replicate 4 { angle := 2000 } }, reel := { struct := { pins := [⟨0x03, 3, 0⟩] } } }, by decide⟩,
   ⟨3, true, 2, 4000, 1999, 1999,
     { ((up.put (POS_QD_CFG.EN 3) 1).put (POS_QD_CPR.CPR 3) 4000).put (POS_QD_IDX.TOL 3) 1999 with pos := { pinsOn := true, qd := List.replicate 4 { angle := 1999 } }, reel := { struct := { pins := [⟨0x03, 3, 0⟩] } } }, by decide⟩,
   ⟨3, true, 2, 4000, 1, 1,
     { ((up.put (POS_QD_CFG.EN 3) 1).put (POS_QD_CPR.CPR 3) 4000) with pos := { pinsOn := true, qd := List.replicate 4 { angle := 1 } }, reel := { struct := { pins := [⟨0x03, 3, 0⟩] } } }, by decide⟩,
   ⟨3, true, 2, up.put (POS_QD_CFG.EN 3) 1, by decide⟩,
   ⟨3, 7, up, by decide⟩⟩

theorem witness_illegalTransitionIgnored : ∃ (k : Fin 4) (a b i : Bool) (lag : Nat) (s : State), s.powered = true ∧
    s.pos.qd.length = 4 ∧ s.flag (POS_QD_CFG.EN k) = true ∧ s.vioOk = true ∧
    (qdPlace a b + 4 - qdPlace (s.qd k).a (s.qd k).b) % 4 = 2 :=
  ⟨3, true, true, true, 2, up.put (POS_QD_CFG.EN 3) 1, by decide⟩

theorem witness_stepsAndSentReceived :
    (∃ (k : Fin 4) (rising dir : Bool) (lag : Nat) (s : State), s.powered = true ∧ s.pos.si.length = 4 ∧
      s.flag (CAM_SI_CFG.EN k) = true ∧ s.vioOk = true ∧ s.sys.mode ≠ .boot ∧ rising ≠ s.flag (CAM_SI_CFG.EDGE k)) ∧
    (∃ (k : Fin 4) (s : State), s.hostOpen ∧ s.pos.si.length = 4) ∧
    (∃ (k : Fin 4) (back cal n : Nat) (ivs : List Nat) (s : State), s.powered = true ∧ s.pos.sn.length = 4 ∧
      s.flag (POS_SN_CFG.EN k) = true ∧ s.vioOk = true ∧ s.flag (POS_SN_CFG.PAUSE k) = false ∧
      n = s.fld (POS_SN_CFG.NIB k) + 2 ∧ n ≤ ivs.length ∧ 3 * (896 * s.fld (POS_SN_CFG.TICK k)) ≤ 4 * cal ∧
      4 * cal ≤ 5 * (896 * s.fld (POS_SN_CFG.TICK k)) ∧ 0 < cal ∧ (s.sn k).cal = none ∧
      (∀ v ∈ (s.snNibbles cal (ivs.take n)).1, 0 ≤ v ∧ v ≤ 15)) ∧
    (∃ (k : Fin 4) (back cal n : Nat) (ivs : List Nat) (l : List Int) (s : State), s.powered = true ∧
      s.pos.sn.length = 4 ∧ s.flag (POS_SN_CFG.EN k) = true ∧ s.vioOk = true ∧ s.flag (POS_SN_CFG.PAUSE k) = false ∧
      n = s.fld (POS_SN_CFG.NIB k) + 2 ∧ n ≤ ivs.length ∧ 3 * (896 * s.fld (POS_SN_CFG.TICK k)) ≤ 4 * cal ∧
      4 * cal ≤ 5 * (896 * s.fld (POS_SN_CFG.TICK k)) ∧ 0 < cal ∧ (s.sn k).cal = some cal ∧
      l = (s.snNibbles cal (ivs.take n)).1 ∧ (∀ v ∈ l, 0 ≤ v ∧ v ≤ 15) ∧
      sentCrc (s.flag (POS_SN_CFG.CRC_LEGACY k)) (((l.map Int.toNat).drop 1).take (n - 2)) =
      (Tbl.get 0 l (n - 1)).toNat ∧ s.fld (POS_SN_CFG.STERR k) = 0) ∧
    (∃ (k : Fin 4) (s : State), s.powered = true ∧ s.flag (POS_SN_CFG.EN k) = true) ∧
    (∃ (e : Fin 2) (s : State), s.hostOpen ∧ s.pos.ee.length = 2) :=
  ⟨⟨3, true, true, 2, up.put (CAM_SI_CFG.EN 3) 1, by decide⟩,
   ⟨3, up, by decide⟩,
   ⟨3, 0, 26880, 5, [5760, 5760, 5760, 5760, 5760], up.put (POS_SN_CFG.EN 3) 1, by decide⟩,
   ⟨3, 0, 26880, 5, [5760, 5760, 5760, 5760, 10080], [0, 0, 0, 0, 9],
     { up.put (POS_SN_CFG.EN 3) 1 with pos := { sn := List.replicate 4 { cal := some 26880 } } }, by decide⟩,
   ⟨3, up.put (POS_SN_CFG.EN 3) 1, by decide⟩,
   ⟨1, up, by decide⟩⟩

theorem witness_emulationMoves :
    (∃ (e : Fin 2) (p n : Nat) (s : State), s.powered = true ∧ s.pos.ee.length = 2 ∧ s.flag (POS_EE_CFG.EN e) = true ∧
      s.flag (POS_EE_CFG.SRC e) = false ∧ (s.ee e).theta = some p ∧ n = s.theta (s.fld (POS_EE_CFG.NUM e))) ∧
    (∃ (e : Fin 2) (s : State), s.powered = true ∧ s.pos.ee.length = 2 ∧ s.flag (POS_EE_CFG.EN e) = true ∧
      (s.ee e).moved = none ∧ (s.ee e).out < s.eeTarget e ∧ s.eeTarget e - (s.ee e).out ≤ 4096) ∧
    (∃ (e : Fin 2) (s : State), s.powered = true ∧ s.pos.ee.length = 2 ∧ s.flag (POS_EE_CFG.EN e) = true ∧
      (s.ee e).moved = none ∧ s.eeTarget e < (s.ee e).out ∧ (s.ee e).out - s.eeTarget e ≤ 4096) ∧
    (∃ (m : Fin 4) (s : State), s.powered = true) ∧
    (∃ (m : Fin 4) (v : Word) (s : State), s.hostOpen) :=
  ⟨⟨1, 0, 0, { up.put (POS_EE_CFG.EN 1) 1 with pos := { ee := List.replicate 2 { theta := some 0 } } }, by decide⟩,
   ⟨1, { up.put (POS_EE_CFG.EN 1) 1 with pos := { ee := List.replicate 2 { out := -4096 } } }, by decide⟩,
   ⟨1, { up.put (POS_EE_CFG.EN 1) 1 with pos := { ee := List.replicate 2 { out := 4096 } } }, by decide⟩,
   ⟨3, up, by decide⟩,
   ⟨3, 7, up, by decide⟩⟩

theorem witness_limitsAndLatches :
    (∃ (n : Fin 12) (level : Bool) (s : State), s.powered = true ∧ s.inputOn 0x07 n = true) ∧
    (∃ (n : Fin 12) (level : Bool) (s : State), s.powered = true ∧ s.inputOn 0x08 n = true) ∧
    (∃ (c : Fin 4) (rising : Bool) (lag : Nat) (j : Fin 8) (s : State), s.powered = true ∧ s.inputOn 0x09 c = true ∧
      s.fld (POS_LT_CFG.TRIG j) = 1 ∧ s.fld (POS_LT_CFG.TINST j) = c.val ∧ s.fld (POS_LT_CFG.EDGE j) = 2 ∧
      s.flag (POS_LT_STAT.FULL j) = false) ∧
    (∃ (m : BitVec 8) (lag : Nat) (j : Fin 8) (s : State), s.hostOpen ∧ m.getLsbD j = true ∧
      s.fld (POS_LT_CFG.TRIG j) = 4 ∧ s.flag (POS_LT_STAT.FULL j) = false) ∧
    (∃ (j : Fin 8) (s : State), s.hostOpen) ∧
    (∃ (p : Fin 15) (level : Bool) (s : State), s.powered = true ∧ s.pos.pinsOn = true ∧ s.vioOk = true ∧
      s.driven p = some !level ∧ (Tbl.get (⟨0, 0, 0⟩ : PinEntry) s.reel.struct.pins p).opt.testBit 7 = false) :=
  ⟨⟨11, true, { up with pos := { pinsOn := true }, reel := { struct := { pins := [⟨0x07, 11, 0⟩] } } }, by decide⟩,
   ⟨11, true, { up with pos := { pinsOn := true }, reel := { struct := { pins := [⟨0x08, 11, 0⟩] } } }, by decide⟩,
   ⟨0, true, 2, 7,
     { (up.put (POS_LT_CFG.TRIG 7) 1).put (POS_LT_CFG.EDGE 7) 2 with pos := { pinsOn := true }, reel := { struct := { pins := [⟨0x09, 0, 0⟩] } } }, by decide⟩,
   ⟨0x80, 2, 7, up.put (POS_LT_CFG.TRIG 7) 4, by decide⟩,
   ⟨7, up.put (POS_LT_STAT.FULL 7) 1, by decide⟩,
   ⟨0, true, { up with pos := { pinsOn := true }, reel := { struct := { pins := [⟨0x0A, 0, 0⟩] } } }, by decide⟩⟩

theorem witness_canTransmits :
    (∃ (lag : Nat) (i : Fin 3) (s : State), s.powered = true ∧ s.onBus = true ∧ s.canNormal = true ∧
      (∀ j < 3, s.tbSt j ≠ txActive) ∧ s.disabling = false ∧ s.tbSt i = txHeld ∧ (∀ j < i.val, s.tbSt j ≠ txHeld)) ∧
    (∃ (lag : Nat) (i : Fin 3) (s : State), s.powered = true ∧ s.onBus = true ∧ s.canNormal = true ∧
      (∀ j < 3, s.tbSt j ≠ txActive) ∧ s.disabling = false ∧ s.flag CAN_CTRL.PRIO = true ∧
      (∀ j < 3, s.tbSt j ≠ txHeld) ∧ s.tbSt i = txPending ∧ (∀ j < i.val, s.tbSt j ≠ txPending)) ∧
    (∃ (lag : Nat) (i : Fin 3) (s : State), s.powered = true ∧ s.onBus = true ∧ s.canNormal = true ∧
      (∀ j < 3, s.tbSt j ≠ txActive) ∧ s.disabling = false ∧ s.flag CAN_CTRL.PRIO = false ∧
      (∀ j < 3, s.tbSt j ≠ txHeld) ∧ s.tbSt i = txPending ∧ (∀ j < 3, s.tbSt j = txPending →
      (s.tb i).arb < (s.tb j).arb ∨ ((s.tb i).arb = (s.tb j).arb ∧ i.val ≤ j))) ∧
    (∃ (i : Fin 3) (v : Option (BitVec 7)) (s : State), s.powered = true ∧ s.canNormal = true ∧ s.can.tbs.length = 3 ∧
      (∀ j < 3, (s.tbSt j = txActive ↔ j = i.val)) ∧ (s.tbOwner i = 1 → s.can.waitMsgs = [])) ∧
    (∃ (i : Fin 3) (s : State), s.powered = true ∧ (∀ j < 3, (s.tbSt j = txActive ↔ j = i.val)) ∧
      s.can.abort.getLsbD i = false ∧ s.flag CAN_CTRL.ONESHOT = false) ∧
    (∃ (i : Fin 3) (s : State), s.powered = true ∧ (∀ j < 3, (s.tbSt j = txActive ↔ j = i.val)) ∧
      s.can.abort.getLsbD i = false ∧ s.flag CAN_CTRL.ONESHOT = true ∧ (s.tbOwner i = 1 → s.can.waitMsgs = [])) ∧
    (∃ (i : Fin 3) (s : State), s.powered = true ∧ (∀ j < 3, (s.tbSt j = txActive ↔ j = i.val)) ∧
      s.can.abort.getLsbD i = true ∧ (s.tbOwner i = 1 → s.can.waitMsgs = [])) ∧
    (∃ (i : Fin 3) (lec : Fin 6) (data : Bool) (v : Option (BitVec 7)) (s : State), s.powered = true ∧
      s.onBus = true ∧ s.canNormal = true ∧ (∀ j < 3, (s.tbSt j = txActive ↔ j = i.val)) ∧
      s.can.abort.getLsbD i = false ∧ s.flag CAN_CTRL.ONESHOT = false ∧ s.fld CAN_ERR.TEC + 8 ≤ 255) ∧
    (∃ (i : Fin 3) (lec : Fin 6) (data : Bool) (v : Option (BitVec 7)) (s : State), s.powered = true ∧
      s.onBus = true ∧ s.canNormal = true ∧ (∀ j < 3, (s.tbSt j = txActive ↔ j = i.val)) ∧
      s.can.abort.getLsbD i = false ∧ s.flag CAN_CTRL.ONESHOT = false ∧ 255 < s.fld CAN_ERR.TEC + 8) ∧
    (∃ (m : BitVec 3) (s : State), s.hostOpen ∧ (∀ i < 3, m.getLsbD i = true → s.tbOwner i = 0)) ∧
    (∃ (m : BitVec 3) (s : State), s.hostOpen ∧ s.can.waitMsgs = []) ∧
    (∃ (l : List Byte) (held : Bool) (st : Nat) (v : Word) (e : MapEntry) (i : Fin 3) (s : State), s.powered = true ∧
      s.can.tbs.length = 3 ∧ s.can.svc = some ⟨l, held, some (st, v), none⟩ ∧ s.serviceEntry = some e ∧
      s.tbOwner i = 2 ∧ s.tbBusy i = false ∧ (∀ j < i.val, s.tbOwner j ≠ 2 ∨ s.tbBusy j = true)) :=
  ⟨⟨7, 2, ((up.put CAN_CTRL.EN 1).setTbSt 2 txHeld).setTbSt 0 txPending, by decide⟩,
   ⟨7, 1, ((up.put CAN_CTRL.EN 1).put CAN_CTRL.PRIO 1).setTbSt 1 txPending, by decide⟩,
   ⟨7, 1, ((up.put CAN_CTRL.EN 1).setTbSt 1 txPending).setTbSt 2 txPending, by decide⟩,
   ⟨2, some 3, (up.put CAN_CTRL.EN 1).setTbSt 2 txActive, by decide⟩,
   ⟨2, (up.put CAN_CTRL.EN 1).setTbSt 2 txActive, by decide⟩,
   ⟨2, ((up.put CAN_CTRL.EN 1).put CAN_CTRL.ONESHOT 1).setTbSt 2 txActive, by decide⟩,
   ⟨2, { ((up.put CAN_CTRL.EN 1).setTbSt 2 txActive) with can := { abort := 4 } }, by decide⟩,
   ⟨2, 5, true, some 3, (up.put CAN_CTRL.EN 1).setTbSt 2 txActive, by decide⟩,
   ⟨2, 5, true, none,
     { (((up.put CAN_CTRL.EN 1).setTbSt 2 txActive).put CAN_ERR.TEC 255) with can := { passive := true } }, by decide⟩,
   ⟨7, up, by decide⟩,
   ⟨7, ((up.put CAN_CTRL.EN 1).setTbSt 2 txActive).setTbSt 0 txPending, by decide⟩,
   ⟨List.replicate 16 1, false, 1, 3, ⟨5, 0, 0, 10, 0x123, 0, 10⟩, 2,
     { (up.put CAN_TXSTAT.OWN_TB2 2) with can := { svc := some ⟨List.replicate 16 1, false, some (1, 3), none⟩ }, reel := { active := { canMap := [0x00210100, 0x0A000005, 0x123, 0x000A0000, 0] } } }, by decide⟩⟩

theorem witness_canErrorsAndStates :
    (∃ (lec : Fin 6) (data x : Bool) (s : State), s.powered = true ∧ s.onBus = true ∧ s.canNormal = true ∧
      (∀ j < 3, s.tbSt j ≠ txActive) ∧ s.fld CAN_ERR.REC < 255) ∧
    (∃ (s : State), s.powered = true ∧ s.onBus = true ∧ s.canNormal = true ∧ s.can.lastTx = false ∧
      s.fld CAN_ERR.REC ≤ 247) ∧
    (∃ (s : State), s.powered = true ∧ s.onBus = true ∧ s.canNormal = true ∧ s.can.lastTx = false ∧
      s.fld CAN_ERR.REC ≤ 247) ∧
    (∃ (s : State), s.powered = true ∧ s.onBus = true ∧ s.canNormal = true ∧ s.can.lastTx = true ∧
      s.fld CAN_ERR.TEC + 8 ≤ 255) ∧
    (∃ (s : State), s.powered = true ∧ s.flag CAN_CTRL.EN = true) ∧
    (∃ (s : State), s.powered = true ∧ s.onBus = true ∧ s.bitOf CAN_TDC.FLAGS 2 = true) ∧
    (∃ (s : State), s.powered = true ∧ s.canState = 1) ∧
    (∃ (s : State), s.hostOpen ∧ s.canState = 4) ∧
    (∃ (s : State), s.hostOpen ∧ s.canState ≠ 4) ∧
    (∃ (s : State), s.powered = true ∧ s.canState = 5) ∧
    (∃ (s : State), s.powered = true ∧ s.flag CLK_STAT.REF_XTAL = true) :=
  ⟨⟨5, true, true, (up.put CAN_CTRL.EN 1).put CAN_ERR.REC 95, by decide⟩,
   ⟨(up.put CAN_CTRL.EN 1).put CAN_ERR.REC 247, by decide⟩,
   ⟨(up.put CAN_CTRL.EN 1), by decide⟩,
   ⟨{ (up.put CAN_CTRL.EN 1) with can := { lastTx := true } }, by decide⟩,
   ⟨(up.put CAN_CTRL.EN 1), by decide⟩,
   ⟨(up.put CAN_CTRL.EN 1).put CAN_TDC.FLAGS 4, by decide⟩,
   ⟨{ (up.put CAN_CTRL.EN 1) with can := { integrating := true } }, by decide⟩,
   ⟨{ (up.put CAN_CTRL.EN 1) with can := { busOff := true } }, by decide⟩,
   ⟨up, by decide⟩,
   ⟨{ ((up.put CAN_CTRL.EN 1).put CAN_ERR.TEC 300) with can := { busOff := true, recovering := true, passive := true } }, by decide⟩,
   ⟨(up.put CLK_STAT.REF_XTAL 1).put CAN_STAT.RC_RESTRICT 1, by decide⟩⟩

theorem witness_canReceives :
    (∃ (f : CanFrame) (back i n : Nat) (s : State), s.powered = true ∧ s.onBus = true ∧
      (∀ j < 3, s.tbSt j ≠ txActive) ∧ (f.fdf = true → f.rtr = false ∧ s.bitOf CAN_TDC.FLAGS 0 = true) ∧
      s.can.rbs.length = 17 ∧ i < mapFilters s.reel.active.canMap ∧ filterMatches s.reel.active.canMap f i = true ∧
      (∀ j < i, filterMatches s.reel.active.canMap f j = false) ∧ n ≤ 16 ∧
      byteAt s.reel.active.canMap (4 + 12 * i + 8) = n) ∧
    (∃ (f : CanFrame) (back i n : Nat) (s : State), s.powered = true ∧ s.onBus = true ∧
      (∀ j < 3, s.tbSt j ≠ txActive) ∧ (f.fdf = true → f.rtr = false ∧ s.bitOf CAN_TDC.FLAGS 0 = true) ∧
      s.can.rbs.length = 17 ∧ i < mapFilters s.reel.active.canMap ∧ filterMatches s.reel.active.canMap f i = true ∧
      (∀ j < i, filterMatches s.reel.active.canMap f j = false) ∧
      byteAt s.reel.active.canMap (4 + 12 * i + 8) = 0x11 ∧ s.fld CAN_RXF.LEVEL < 16 - s.fifoBase ∧
      n = s.fifoBase + (s.fld CAN_RXF.HEAD - s.fifoBase + s.fld CAN_RXF.LEVEL) % (16 - s.fifoBase)) ∧
    (∃ (f : CanFrame) (back i : Nat) (s : State), s.powered = true ∧ s.onBus = true ∧ (∀ j < 3, s.tbSt j ≠ txActive) ∧
      (f.fdf = true → f.rtr = false ∧ s.bitOf CAN_TDC.FLAGS 0 = true) ∧ i < mapFilters s.reel.active.canMap ∧
      filterMatches s.reel.active.canMap f i = true ∧ (∀ j < i, filterMatches s.reel.active.canMap f j = false) ∧
      byteAt s.reel.active.canMap (4 + 12 * i + 8) = 0x11 ∧ 16 - s.fifoBase ≤ s.fld CAN_RXF.LEVEL) ∧
    (∃ (f : CanFrame) (back : Nat) (s : State), s.powered = true ∧ s.onBus = true ∧ (∀ j < 3, s.tbSt j ≠ txActive) ∧
      (f.fdf = true → f.rtr = false ∧ s.bitOf CAN_TDC.FLAGS 0 = true) ∧ s.reel.active.canMap ≠ [] ∧
      (∀ j < mapFilters s.reel.active.canMap, filterMatches s.reel.active.canMap f j = false)) ∧
    (∃ (s : State), s.hostOpen ∧ 0 < s.fld CAN_RXF.LEVEL) ∧
    (∃ (n : Fin 17) (s : State), s.hostOpen) ∧
    (∃ (m : Fin 32) (e : MapEntry) (s : State), s.powered = true ∧ m.val < mapCount s.reel.active.canMap ∧
      e = mapEntry s.reel.active.canMap m ∧ (e.kind = 1 ∨ e.kind = 2) ∧ 0 < e.per ∧ e.axis < 12 ∧
      s.can.entries.length = 32 ∧ (s.store m).timedOut = false ∧ e.per ≤ (s.store m).age) :=
  ⟨⟨{ id := 0x4AFFFFF, dlc := 3, data := [1, 2, 3] }, 7, 0, 16,
     { (up.put CAN_CTRL.EN 1) with reel := { active := { canMap := [0x08000001, 0, 0, 0x10] } } }, by decide⟩,
   ⟨{ id := 0x4AFFFFF, dlc := 3, data := [1, 2, 3] }, 7, 0, 8,
     { (up.put CAN_CTRL.EN 1) with reel := { active := { canMap := [0x08000001, 0, 0, 0x11] } } }, by decide⟩,
   ⟨{ id := 0x4AFFFFF, dlc := 3, data := [1, 2, 3] }, 7, 0,
     { ((up.put CAN_CTRL.EN 1).put CAN_RXF.LEVEL 8) with reel := { active := { canMap := [0x08000001, 0, 0, 0x11] } } }, by decide⟩,
   ⟨{ id := 0x4AFFFFF, dlc := 3, data := [1, 2, 3] }, 7,
     { (up.put CAN_CTRL.EN 1) with reel := { active := { canMap := [0x08000001, 1, 0x1FFFFFFF, 0] } } }, by decide⟩,
   ⟨(up.put CAN_RXF.LEVEL 3).put CAN_RXF.HEAD 15, by decide⟩,
   ⟨16, up, by decide⟩,
   ⟨0, ⟨1, 11, 0, 1, 0, 4, 0⟩,
     { up with can := { entries := List.replicate 32 { age := 4 } }, reel := { active := { canMap := [0x00000100, 0x01000B01, 0, 4, 0] } } }, by decide⟩⟩

theorem witness_canServiceChannel :
    (∃ (l : List Byte) (e : MapEntry) (op : Byte) (s : State), s.powered = true ∧ s.onBus = true ∧
      s.serviceEntry = some e ∧ s.can.svc = none ∧ 16 ≤ l.length ∧
      crcMsb 16 0x1021 0xFFFF (l.take 12) = (bytesWord (l.drop 12)).toNat % 2 ^ 16 ∧ Tbl.get 0 l 0 = op ∧
      serviceOps.contains op.toNat = true) ∧
    (∃ (l : List Byte) (e : MapEntry) (s : State), s.powered = true ∧ s.onBus = true ∧ s.serviceEntry = some e ∧
      (s.can.svc ≠ none ∨ l.length < 16 ∨ crcMsb 16 0x1021 0xFFFF (l.take 12) ≠ (bytesWord (l.drop 12)).toNat % 2 ^
      16)) ∧
    (∃ (l : List Byte) (held : Bool) (a : Nat) (s : State), s.powered = true ∧
      s.can.svc = some ⟨l, held, none, none⟩ ∧ Tbl.get 0 l 0 = 0x01 ∧ s.svcFetching = false ∧ s.holding = false ∧
      a = (bytesWord (l.drop 4)).toNat % 2 ^ 24 ∧ s.mcAway a = false ∧ a = CAN_NBT) ∧
    (∃ (l : List Byte) (held : Bool) (a : Nat) (s : State), s.powered = true ∧
      s.can.svc = some ⟨l, held, none, none⟩ ∧ Tbl.get 0 l 0 = 0x01 ∧ s.svcFetching = false ∧ s.holding = false ∧
      a = (bytesWord (l.drop 4)).toNat % 2 ^ 24 ∧ s.mcAway a = false ∧ 0x100000 ≤ a ∧ a % 4 = 0 ∧
      ((a < 0x10C800 ∨ 0x10D000 ≤ a)) ∧ canWord 0x10B100 3 a = none ∧ canWord 0x10B400 17 a = none ∧
      rsPlace a = none ∧ a ≠ CLK_SLATE_LO ∧ (regRow a).isSome = true) ∧
    (∃ (l : List Byte) (held : Bool) (a : Nat) (s : State), s.powered = true ∧
      s.can.svc = some ⟨l, held, none, none⟩ ∧ Tbl.get 0 l 0 = 0x01 ∧ s.svcFetching = false ∧ s.holding = false ∧
      a = (bytesWord (l.drop 4)).toNat % 2 ^ 24 ∧ s.mcAway a = false ∧ a % 4 ≠ 0) ∧
    (∃ (l : List Byte) (held : Bool) (a : Nat) (s : State), s.powered = true ∧
      s.can.svc = some ⟨l, held, none, none⟩ ∧ Tbl.get 0 l 0 = 0x02 ∧ s.svcFetching = false ∧ s.holding = false ∧
      a = (bytesWord (l.drop 4)).toNat % 2 ^ 24 ∧ s.mcAway a = false ∧
      s.serviceEntry.any (fun e => e.flags.testBit 1) = false) ∧
    (∃ (l : List Byte) (held : Bool) (a : Nat) (s : State), s.powered = true ∧
      s.can.svc = some ⟨l, held, none, none⟩ ∧ Tbl.get 0 l 0 = 0x02 ∧ s.svcFetching = false ∧ s.holding = false ∧
      a = (bytesWord (l.drop 4)).toNat % 2 ^ 24 ∧ s.mcAway a = false ∧
      s.serviceEntry.any (fun e => e.flags.testBit 1) = true ∧ a % 4 ≠ 0) ∧
    (∃ (l : List Byte) (held : Bool) (a : Nat) (s : State), s.powered = true ∧
      s.can.svc = some ⟨l, held, none, none⟩ ∧ Tbl.get 0 l 0 = 0x02 ∧ s.svcFetching = false ∧ s.holding = false ∧
      a = (bytesWord (l.drop 4)).toNat % 2 ^ 24 ∧ s.mcAway a = false ∧
      s.serviceEntry.any (fun e => e.flags.testBit 1) = true ∧ a = CAN_IRQ_EN ∧ s.spi.writes = []) ∧
    (∃ (l : List Byte) (held : Bool) (a : Nat) (v : Word) (r : RegRow) (s : State), s.powered = true ∧
      s.can.svc = some ⟨l, held, none, none⟩ ∧ Tbl.get 0 l 0 = 0x02 ∧ s.svcFetching = false ∧ s.holding = false ∧
      a = (bytesWord (l.drop 4)).toNat % 2 ^ 24 ∧ s.mcAway a = false ∧
      s.serviceEntry.any (fun e => e.flags.testBit 1) = true ∧ 0x100000 ≤ a ∧ a % 4 = 0 ∧ v = bytesWord (l.drop 8) ∧
      s.absent a = false ∧ s.actTop .can a v = none ∧ s.actMotion .can a v = none ∧ s.actAnalog .can a v {} = none ∧
      s.actLinks .can a v {} = none ∧ regRow a = some r ∧ s.spi.writes = [] ∧ s.illegal .can a v = false ∧
      s.clearHeld a v = false) ∧
    (∃ (l : List Byte) (held : Bool) (a : Nat) (s : State), s.powered = true ∧
      s.can.svc = some ⟨l, held, none, none⟩ ∧ Tbl.get 0 l 0 = 0x02 ∧ s.svcFetching = false ∧ s.holding = false ∧
      a = (bytesWord (l.drop 4)).toNat % 2 ^ 24 ∧ s.mcAway a = false ∧
      s.serviceEntry.any (fun e => e.flags.testBit 1) = true ∧ a = CLK_FRAME_LEN ∧
      s.frameLenRefused (bytesWord (l.drop 8)) = true ∧ s.spi.writes = []) ∧
    (∃ (l : List Byte) (held : Bool) (a : Nat) (s : State), s.powered = true ∧
      s.can.svc = some ⟨l, held, none, none⟩ ∧ Tbl.get 0 l 0 = 0x10 ∧ s.svcFetching = false ∧ s.holding = false ∧
      s.mgt.stopped = false ∧ a = (bytesWord (l.drop 4)).toNat % 2 ^ 24 ∧ s.mcAway a = false ∧
      (bytesWord (l.drop 8)).toNat % 256 ≤ 7) ∧
    (∃ (l : List Byte) (held : Bool) (a : Nat) (s : State), s.powered = true ∧
      s.can.svc = some ⟨l, held, none, none⟩ ∧ Tbl.get 0 l 0 = 0x11 ∧ s.svcFetching = false ∧ s.holding = false ∧
      s.mgt.stopped = false ∧ a = (bytesWord (l.drop 4)).toNat % 2 ^ 24 ∧ s.mcAway a = false ∧
      s.serviceEntry.any (fun e => e.flags.testBit 1) = true ∧ a % 4 = 0 ∧ s.dataReason a = 0 ∧
      s.mgt.pages.contains (a / 256) = false) ∧
    (∃ (l : List Byte) (held : Bool) (a : Nat) (s : State), s.powered = true ∧
      s.can.svc = some ⟨l, held, none, none⟩ ∧ Tbl.get 0 l 0 = 0x11 ∧ s.svcFetching = false ∧ s.holding = false ∧
      s.mgt.stopped = false ∧ a = (bytesWord (l.drop 4)).toNat % 2 ^ 24 ∧ s.mcAway a = false ∧
      s.serviceEntry.any (fun e => e.flags.testBit 1) = false) ∧
    (∃ (l : List Byte) (held : Bool) (a : Nat) (s : State), s.powered = true ∧
      s.can.svc = some ⟨l, held, none, none⟩ ∧ Tbl.get 0 l 0 = 0x12 ∧ s.svcFetching = false ∧ s.holding = false ∧
      s.mgt.stopped = false ∧ a = (bytesWord (l.drop 4)).toNat % 2 ^ 24 ∧ s.mcAway a = false ∧
      s.serviceEntry.any (fun e => e.flags.testBit 1) = true ∧
      ((s.apart fun s => s.updCtrl (bytesWord (l.drop 8))).1 = 0)) ∧
    (∃ (l : List Byte) (held : Bool) (a : Nat) (s : State), s.powered = true ∧
      s.can.svc = some ⟨l, held, none, none⟩ ∧ Tbl.get 0 l 0 = 0x12 ∧ s.svcFetching = false ∧ s.holding = false ∧
      s.mgt.stopped = false ∧ a = (bytesWord (l.drop 4)).toNat % 2 ^ 24 ∧ s.mcAway a = false ∧
      s.serviceEntry.any (fun e => e.flags.testBit 1) = false) ∧
    (∃ (k : Nat) (s : State), s.powered = true ∧ s.mgt.stopped = true ∧ s.mgt.fwSplice = some k ∧ (k = 2 ∨ k = 3) ∧
      s.mgt.held = [] ∧ s.spi.frame = none ∧ s.can.svc = none) :=
  ⟨⟨[1, 7, 0, 0, 0, 176, 16, 0, 0, 0, 0, 0, 193, 70, 0, 0], ⟨5, 0, 0, 10, 0x123, 0, 10⟩, 1,
     { (up.put CAN_CTRL.EN 1) with reel := { active := { canMap := [0x00210100, 0x0A000005, 0x123, 0x000A0000, 0] } } }, by decide +kernel⟩,
   ⟨[1, 7, 0, 0, 0, 176, 16, 0, 0, 0, 0, 0, 192, 70, 0, 0], ⟨5, 0, 0, 10, 0x123, 0, 10⟩,
     { (up.put CAN_CTRL.EN 1) with reel := { active := { canMap := [0x00210100, 0x0A000005, 0x123, 0x000A0000, 0] } } }, by decide +kernel⟩,
   ⟨[1, 7, 0, 0, 32, 176, 16, 0, 0, 0, 0, 0, 169, 61, 0, 0], false, 1093664,
     { (up.put CAN_CTRL.EN 1) with can := { svc := some { bytes := [1, 7, 0, 0, 32, 176, 16, 0, 0, 0, 0, 0, 169, 61, 0, 0] } }, reel := { active := { canMap := [0x00210100, 0x0A000005, 0x123, 0x000A0000, 0] } } }, by decide +kernel⟩,
   ⟨[1, 7, 0, 0, 20, 32, 16, 0, 0, 0, 0, 0, 154, 232, 0, 0], false, 1056788,
     { (up.put CAN_CTRL.EN 1) with can := { svc := some { bytes := [1, 7, 0, 0, 20, 32, 16, 0, 0, 0, 0, 0, 154, 232, 0, 0] } }, reel := { active := { canMap := [0x00210100, 0x0A000005, 0x123, 0x000A0000, 0] } } }, by decide +kernel⟩,
   ⟨[1, 7, 0, 0, 33, 176, 16, 0, 0, 0, 0, 0, 122, 122, 0, 0], false, 1093665,
     { (up.put CAN_CTRL.EN 1) with can := { svc := some { bytes := [1, 7, 0, 0, 33, 176, 16, 0, 0, 0, 0, 0, 122, 122, 0, 0] } }, reel := { active := { canMap := [0x00210100, 0x0A000005, 0x123, 0x000A0000, 0] } } }, by decide +kernel⟩,
   ⟨[2, 7, 0, 0, 20, 176, 16, 0, 5, 0, 0, 0, 194, 205, 0, 0], false, 1093652,
     { (up.put CAN_CTRL.EN 1) with can := { svc := some { bytes := [2, 7, 0, 0, 20, 176, 16, 0, 5, 0, 0, 0, 194, 205, 0, 0] } }, reel := { active := { canMap := [0x00210100, 0x08000005, 0x123, 0x000A0000, 0] } } }, by decide +kernel⟩,
   ⟨[2, 7, 0, 0, 21, 176, 16, 0, 5, 0, 0, 0, 17, 138, 0, 0], false, 1093653,
     { (up.put CAN_CTRL.EN 1) with can := { svc := some { bytes := [2, 7, 0, 0, 21, 176, 16, 0, 5, 0, 0, 0, 17, 138, 0, 0] } }, reel := { active := { canMap := [0x00210100, 0x0A000005, 0x123, 0x000A0000, 0] } } }, by decide +kernel⟩,
   ⟨[2, 7, 0, 0, 20, 176, 16, 0, 5, 0, 0, 0, 194, 205, 0, 0], false, 1093652,
     { (up.put CAN_CTRL.EN 1) with can := { svc := some { bytes := [2, 7, 0, 0, 20, 176, 16, 0, 5, 0, 0, 0, 194, 205, 0, 0] } }, reel := { active := { canMap := [0x00210100, 0x0A000005, 0x123, 0x000A0000, 0] } } }, by decide +kernel⟩,
   ⟨[2, 7, 0, 0, 20, 32, 16, 0, 5, 0, 0, 0, 64, 81, 0, 0], false, 1056788, 5,
     (regRow 1056788).getD ⟨0, 0, 0, 0, 0, 0, 0, 0, 0⟩,
     { (up.put CAN_CTRL.EN 1) with can := { svc := some { bytes := [2, 7, 0, 0, 20, 32, 16, 0, 5, 0, 0, 0, 64, 81, 0, 0] } }, reel := { active := { canMap := [0x00210100, 0x0A000005, 0x123, 0x000A0000, 0] } } }, by decide +kernel⟩,
   ⟨[2, 7, 0, 0, 24, 16, 16, 0, 31, 3, 0, 0, 38, 51, 0, 0], false, 1052696,
     { (up.put CAN_CTRL.EN 1) with can := { svc := some { bytes := [2, 7, 0, 0, 24, 16, 16, 0, 31, 3, 0, 0, 38, 51, 0, 0] } }, reel := { active := { canMap := [0x00210100, 0x0A000005, 0x123, 0x000A0000, 0] } } }, by decide +kernel⟩,
   ⟨[16, 7, 0, 0, 0, 0, 0, 0, 7, 0, 0, 0, 57, 203, 0, 0], false, 0,
     { (up.put CAN_CTRL.EN 1) with can := { svc := some { bytes := [16, 7, 0, 0, 0, 0, 0, 0, 7, 0, 0, 0, 57, 203, 0, 0] } }, reel := { active := { canMap := [0x00210100, 0x0A000005, 0x123, 0x000A0000, 0] } } }, by decide +kernel⟩,
   ⟨[17, 7, 0, 0, 4, 0, 0, 0, 5, 0, 0, 0, 73, 42, 0, 0], false, 4,
     { (up.put CAN_CTRL.EN 1) with can := { svc := some { bytes := [17, 7, 0, 0, 4, 0, 0, 0, 5, 0, 0, 0, 73, 42, 0, 0] } }, reel := { active := { canMap := [0x00210100, 0x0A000005, 0x123, 0x000A0000, 0] } }, mgt := { opened := some 0, bootRom := true } }, by decide +kernel⟩,
   ⟨[17, 7, 0, 0, 4, 0, 0, 0, 5, 0, 0, 0, 73, 42, 0, 0], false, 4,
     { (up.put CAN_CTRL.EN 1) with can := { svc := some { bytes := [17, 7, 0, 0, 4, 0, 0, 0, 5, 0, 0, 0, 73, 42, 0, 0] } }, reel := { active := { canMap := [0x00210100, 0x08000005, 0x123, 0x000A0000, 0] } } }, by decide +kernel⟩,
   ⟨[18, 7, 0, 0, 0, 0, 0, 0, 0, 0, 0, 0, 254, 156, 0, 0], false, 0,
     { (up.put CAN_CTRL.EN 1) with can := { svc := some { bytes := [18, 7, 0, 0, 0, 0, 0, 0, 0, 0, 0, 0, 254, 156, 0, 0] } }, reel := { active := { canMap := [0x00210100, 0x0A000005, 0x123, 0x000A0000, 0] } } }, by decide +kernel⟩,
   ⟨[18, 7, 0, 0, 0, 0, 0, 0, 1, 0, 0, 0, 74, 234, 0, 0], false, 0,
     { (up.put CAN_CTRL.EN 1) with can := { svc := some { bytes := [18, 7, 0, 0, 0, 0, 0, 0, 1, 0, 0, 0, 74, 234, 0, 0] } }, reel := { active := { canMap := [0x00210100, 0x08000005, 0x123, 0x000A0000, 0] } } }, by decide +kernel⟩,
   ⟨3, { up with mgt := { stopped := true, fwSplice := some 3 } }, by decide +kernel⟩⟩

theorem witness_hostFramesOpen :
    (∃ (s : State), s.powered = true ∧ s.flag SPI_CFG.DAISY = false ∧ s.spi.frame = none ∧ s.spi.ignored = false ∧
      s.hostLink = true ∧ s.mastering = false ∧ s.inChainWindow = false) ∧
    (∃ (c : Byte) (s : State), s.powered = true ∧ s.flag SPI_CFG.DAISY = false ∧ s.spi.frame = none ∧
      s.spi.ignored = false ∧ s.hostLink = true ∧ s.mastering = false ∧ s.inChainWindow = false ∧
      hostCommand c = false) ∧
    (∃ (a : BitVec 24) (n : Fin 16) (s : State), s.powered = true ∧ s.flag SPI_CFG.DAISY = false ∧
      s.spi.frame = none ∧ s.spi.ignored = false ∧ s.hostLink = true ∧ s.mastering = false ∧ s.inChainWindow = false ∧
      n = 0 ∧ a.toNat % 4 = 0) ∧
    (∃ (a : BitVec 24) (n : Fin 16) (s : State), s.powered = true ∧ s.flag SPI_CFG.DAISY = false ∧
      s.spi.frame = none ∧ s.spi.ignored = false ∧ s.hostLink = true ∧ s.mastering = false ∧ s.inChainWindow = false ∧
      (n ≠ 0 ∨ a.toNat % 4 ≠ 0)) ∧
    (∃ (a : BitVec 24) (n : Fin 16) (take : Nat) (begun : Bool) (ws : List Nat) (ev : List Access) (s : State),
      s.powered = true ∧ s.flag SPI_CFG.DAISY = false ∧ s.spi.frame = none ∧ s.spi.ignored = false ∧
      s.hostLink = true ∧ s.mastering = false ∧ s.inChainWindow = false ∧ s.holding = false ∧
      s.flag SPI_LATE.VALID = false ∧ a.toNat % 4 = 0 ∧ n.val < take ∧
      (∀ i ≤ n.val, Tbl.get 0 ws i ≤ s.fld SPI_CFG.WMAX) ∧ 0x100000 ≤ a.toNat ∧ a.toNat + 4 * n.val < 2 ^ 24 ∧
      (∀ i ≤ n.val, (a.toNat + 4 * i < 0x10C800 ∨ 0x10D000 ≤ a.toNat + 4 * i)) ∧
      (∀ i ≤ n.val, canWord 0x10B100 3 (a.toNat + 4 * i) = none) ∧
      (∀ i ≤ n.val, canWord 0x10B400 17 (a.toNat + 4 * i) = none) ∧ (∀ i ≤ n.val, a.toNat + 4 * i ≠ CLK_SLATE_LO) ∧
      (∀ i ≤ n.val, (regRow (a.toNat + 4 * i)).isSome = true) ∧ (∀ i ≤ n.val, s.mcAway (a.toNat + 4 * i) = false) ∧
      (∀ i ≤ n.val, rsPlace (a.toNat + 4 * i) = none) ∧ (∀ i ≤ n.val, n.val = 0 ∨ a.toNat + 4 * i ≠ GPM_LEVEL)) ∧
    (∃ (a : BitVec 24) (n : Fin 16) (take : Nat) (begun : Bool) (ws : List Nat) (s : State), s.powered = true ∧
      s.flag SPI_CFG.DAISY = false ∧ s.spi.frame = none ∧ s.spi.ignored = false ∧ s.hostLink = true ∧
      s.mastering = false ∧ s.inChainWindow = false ∧ s.holding = false ∧ s.flag SPI_LATE.VALID = false ∧
      a.toNat % 4 = 0 ∧ n.val < take ∧ (∀ i ≤ n.val, Tbl.get 0 ws i ≤ s.fld SPI_CFG.WMAX) ∧
      a.toNat + 4 * n.val < 0x41000 ∧ s.mem.flaws = []) ∧
    (∃ (a : BitVec 24) (h m : Nat) (ws : List Nat) (ev : List Access) (s : State), s.powered = true ∧
      s.flag SPI_CFG.DAISY = false ∧ s.spi.frame = none ∧ s.spi.ignored = false ∧ s.hostLink = true ∧
      s.mastering = false ∧ s.inChainWindow = false ∧ s.holding = false ∧ s.flag SPI_LATE.VALID = false ∧
      Tbl.get 0 ws 0 ≤ s.fld SPI_CFG.WMAX ∧ 0x100000 ≤ a.toNat ∧ a.toNat % 4 = 0 ∧
      ((a.toNat < 0x10C800 ∨ 0x10D000 ≤ a.toNat)) ∧ canWord 0x10B100 3 a.toNat = none ∧
      canWord 0x10B400 17 (a.toNat) = none ∧ a.toNat ≠ CLK_SLATE_LO ∧ (regRow (a.toNat)).isSome = true ∧
      s.mcAway (a.toNat) = false ∧ rsPlace a.toNat = some (h, 0, m) ∧ groupIx (POS_LT_POS 0) 0x10 8 a.toNat = none) ∧
    (∃ (a : BitVec 24) (h j m : Nat) (ws : List Nat) (ev : List Access) (s : State), s.powered = true ∧
      s.flag SPI_CFG.DAISY = false ∧ s.spi.frame = none ∧ s.spi.ignored = false ∧ s.hostLink = true ∧
      s.mastering = false ∧ s.inChainWindow = false ∧ s.holding = false ∧ s.flag SPI_LATE.VALID = false ∧
      Tbl.get 0 ws 0 ≤ s.fld SPI_CFG.WMAX ∧ 0x100000 ≤ a.toNat ∧ a.toNat % 4 = 0 ∧
      ((a.toNat < 0x10C800 ∨ 0x10D000 ≤ a.toNat)) ∧ canWord 0x10B100 3 a.toNat = none ∧
      canWord 0x10B400 17 (a.toNat) = none ∧ a.toNat ≠ CLK_SLATE_LO ∧ (regRow (a.toNat)).isSome = true ∧
      s.mcAway (a.toNat) = false ∧ rsPlace a.toNat = some (h, j, m) ∧ 0 < j) ∧
    (∃ (a : BitVec 24) (n : Fin 16) (take : Nat) (begun : Bool) (ws : List Nat) (ev : List Access) (s : State),
      s.powered = true ∧ s.flag SPI_CFG.DAISY = false ∧ s.spi.frame = none ∧ s.spi.ignored = false ∧
      s.hostLink = true ∧ s.mastering = false ∧ s.inChainWindow = false ∧ a.toNat % 4 ≠ 0) ∧
    (∃ (a : BitVec 24) (take : Nat) (begun : Bool) (ws : List Nat) (ev : List Access) (s : State), s.powered = true ∧
      s.flag SPI_CFG.DAISY = false ∧ s.spi.frame = none ∧ s.spi.ignored = false ∧ s.hostLink = true ∧
      s.mastering = false ∧ s.inChainWindow = false ∧ a.toNat % 4 = 0 ∧ 0 < take ∧ s.flag SPI_LATE.VALID = false ∧
      s.fld SPI_CFG.WMAX < Tbl.get 0 ws 0) ∧
    (∃ (a : BitVec 24) (ws : List Nat) (ev : List Access) (s : State), s.powered = true ∧
      s.flag SPI_CFG.DAISY = false ∧ s.spi.frame = none ∧ s.spi.ignored = false ∧ s.hostLink = true ∧
      s.mastering = false ∧ s.inChainWindow = false ∧ a.toNat % 4 = 0 ∧ s.flag SPI_LATE.VALID = true ∧
      s.fld SPI_LATE.ADDR = a.toNat) ∧
    (∃ (a : BitVec 24) (n : Fin 16) (take : Nat) (begun : Bool) (ws : List Nat) (ev : List Access) (s : State),
      s.powered = true ∧ s.flag SPI_CFG.DAISY = false ∧ s.spi.frame = none ∧ s.spi.ignored = false ∧
      s.hostLink = true ∧ s.mastering = false ∧ s.inChainWindow = false ∧ s.holding = false ∧
      s.flag SPI_LATE.VALID = false ∧ n.val < take ∧ (∀ i ≤ n.val, Tbl.get 0 ws i ≤ s.fld SPI_CFG.WMAX) ∧
      0x100000 ≤ a.toNat ∧ a.toNat % 4 = 0 ∧ ((a.toNat < 0x10C800 ∨ 0x10D000 ≤ a.toNat)) ∧
      canWord 0x10B100 3 a.toNat = none ∧ canWord 0x10B400 17 (a.toNat) = none ∧ a.toNat ≠ CLK_SLATE_LO ∧
      (regRow (a.toNat)).isSome = true ∧ s.mcAway (a.toNat) = false ∧ rsPlace a.toNat = none ∧
      (n.val = 0 ∨ a.toNat ≠ GPM_LEVEL)) ∧
    (∃ (a : BitVec 24) (n : Fin 16) (take : Nat) (begun : Bool) (ws : List Nat) (ev : List Access) (s : State),
      s.powered = true ∧ s.flag SPI_CFG.DAISY = false ∧ s.spi.frame = none ∧ s.spi.ignored = false ∧
      s.hostLink = true ∧ s.mastering = false ∧ s.inChainWindow = false ∧ a.toNat % 4 ≠ 0) ∧
    (∃ (v : Word) (ev : List Access) (s : State), s.powered = true ∧ s.flag SPI_CFG.DAISY = false ∧
      s.spi.frame = none ∧ s.spi.ignored = false ∧ s.hostLink = true ∧ s.mastering = false ∧ s.inChainWindow = false ∧
      s.holding = false) ∧
    (∃ (a : BitVec 24) (n : Fin 16) (l : List Word) (ev : List Access) (s : State), s.powered = true ∧
      s.flag SPI_CFG.DAISY = false ∧ s.spi.frame = none ∧ s.spi.ignored = false ∧ s.hostLink = true ∧
      s.mastering = false ∧ s.inChainWindow = false ∧ s.holding = false ∧ a.toNat % 4 = 0 ∧ n.val < l.length ∧
      a.toNat + 4 * n.val < 0x41000) ∧
    (∃ (a : BitVec 24) (v : Word) (ev : List Access) (x : Nat) (r : RegRow) (s : State), s.powered = true ∧
      s.flag SPI_CFG.DAISY = false ∧ s.spi.frame = none ∧ s.spi.ignored = false ∧ s.hostLink = true ∧
      s.mastering = false ∧ s.inChainWindow = false ∧ s.holding = false ∧ s.flag SPI_LATE.VALID = false ∧
      x = a.toNat ∧ 0x100000 ≤ x ∧ x % 4 = 0 ∧ s.frameOpen.absent x = false ∧ s.frameOpen.actTop .host x v = none ∧
      s.frameOpen.actMotion .host x v = none ∧ s.frameOpen.actAnalog .host x v (Tbl.get {} ev 0) = none ∧
      s.frameOpen.actLinks .host x v (Tbl.get {} ev 0) = none ∧ regRow x = some r ∧
      s.frameOpen.illegal .host x v = false ∧ s.frameOpen.clearHeld x v = false) ∧
    (∃ (a : BitVec 24) (n : Fin 16) (l : List Word) (ev : List Access) (s : State), s.powered = true ∧
      s.flag SPI_CFG.DAISY = false ∧ s.spi.frame = none ∧ s.spi.ignored = false ∧ s.hostLink = true ∧
      s.mastering = false ∧ s.inChainWindow = false ∧ s.holding = false ∧ s.flag SPI_LATE.VALID = false ∧
      a.toNat % 4 = 0 ∧ n.val < l.length) ∧
    (∃ (a : BitVec 24) (n : Fin 16) (l : List Word) (ev : List Access) (s : State), s.powered = true ∧
      s.flag SPI_CFG.DAISY = false ∧ s.spi.frame = none ∧ s.spi.ignored = false ∧ s.hostLink = true ∧
      s.mastering = false ∧ s.inChainWindow = false ∧ a.toNat % 4 ≠ 0) ∧
    (∃ (v w : Word) (ev : List Access) (s : State), s.powered = true ∧ s.flag SPI_CFG.DAISY = false ∧
      s.spi.frame = none ∧ s.spi.ignored = false ∧ s.hostLink = true ∧ s.mastering = false ∧ s.inChainWindow = false ∧
      s.holding = false) ∧
    (∃ (a : BitVec 24) (n : Fin 16) (l : List Word) (ev : List Access) (s : State), s.powered = true ∧
      s.flag SPI_CFG.DAISY = false ∧ s.spi.frame = none ∧ s.spi.ignored = false ∧ s.hostLink = true ∧
      s.mastering = false ∧ s.inChainWindow = false ∧ s.holding = false ∧ a.toNat % 4 = 0 ∧ n.val < l.length ∧
      a.toNat < 0x41000) ∧
    (∃ (a : BitVec 24) (v : Word) (ev : List Access) (x : Nat) (r : RegRow) (s : State), s.powered = true ∧
      s.flag SPI_CFG.DAISY = false ∧ s.spi.frame = none ∧ s.spi.ignored = false ∧ s.hostLink = true ∧
      s.mastering = false ∧ s.inChainWindow = false ∧ s.holding = false ∧ s.flag SPI_LATE.VALID = false ∧
      x = a.toNat ∧ 0x100000 ≤ x ∧ x % 4 = 0 ∧ s.frameOpen.absent x = false ∧ s.frameOpen.actTop .host x v = none ∧
      s.frameOpen.actMotion .host x v = none ∧ s.frameOpen.actAnalog .host x v (Tbl.get {} ev 0) = none ∧
      s.frameOpen.actLinks .host x v (Tbl.get {} ev 0) = none ∧ regRow x = some r ∧
      s.frameOpen.illegal .host x v = false ∧ s.frameOpen.clearHeld x v = false) ∧
    (∃ (a : BitVec 24) (n : Fin 16) (l : List Word) (ev : List Access) (s : State), s.powered = true ∧
      s.flag SPI_CFG.DAISY = false ∧ s.spi.frame = none ∧ s.spi.ignored = false ∧ s.hostLink = true ∧
      s.mastering = false ∧ s.inChainWindow = false ∧ s.holding = false ∧ s.flag SPI_LATE.VALID = false ∧
      a.toNat % 4 = 0 ∧ n.val < l.length) ∧
    (∃ (a : BitVec 24) (n : Fin 16) (l : List Word) (ev : List Access) (s : State), s.powered = true ∧
      s.flag SPI_CFG.DAISY = false ∧ s.spi.frame = none ∧ s.spi.ignored = false ∧ s.hostLink = true ∧
      s.mastering = false ∧ s.inChainWindow = false ∧ a.toNat % 4 ≠ 0) :=
  ⟨⟨up, by decide +kernel⟩,
   ⟨0x01, up, by decide +kernel⟩,
   ⟨8, 0, up, by decide +kernel⟩,
   ⟨8, 1, up, by decide +kernel⟩,
   ⟨0x102008, 3, 5, false, [], [], up, by decide +kernel⟩,
   ⟨0x3FFF8, 3, 4, true, [1, 2], { up with mem := { cells := [(0x40003, 7)] } }, by decide +kernel⟩,
   ⟨BitVec.ofNat 24 (AX_POS 11), AX_POS 11, 3, [], [], up, by decide +kernel⟩,
   ⟨BitVec.ofNat 24 (AX_POS 11 + 12), AX_POS 11, 3, 3, [], [], up, by decide +kernel⟩,
   ⟨2, 0, 1, false, [], [], up, by decide +kernel⟩,
   ⟨8, 1, false, [999], [], up, by decide +kernel⟩,
   ⟨0x10B020, [999], [], up.setWord SPI_LATE 0x8010B020, by decide +kernel⟩,
   ⟨0x10B020, 15, 16, false, [], [], up, by decide +kernel⟩,
   ⟨2, 0, 1, false, [], [], up, by decide +kernel⟩,
   ⟨5, [], up.setWord SPI_LATE 0x8010B020, by decide +kernel⟩,
   ⟨0x40FF8, 1, [5, 6], [], up, by decide +kernel⟩,
   ⟨BitVec.ofNat 24 CAN_IRQ, 5, [], CAN_IRQ, (regRow CAN_IRQ).getD ⟨0, 0, 0, 0, 0, 0, 0, 0, 0⟩,
     up.setWord CAN_IRQ 7, by decide +kernel⟩,
   ⟨0x10B010, 1, [5, 6], [], up, by decide +kernel⟩,
   ⟨2, 0, [1], [], up, by decide +kernel⟩,
   ⟨5, 6, [], up, by decide +kernel⟩,
   ⟨0x40FFC, 2, [5, 6, 7], [], up, by decide +kernel⟩,
   ⟨BitVec.ofNat 24 CAN_IRQ, 5, [], CAN_IRQ, (regRow CAN_IRQ).getD ⟨0, 0, 0, 0, 0, 0, 0, 0, 0⟩,
     up.setWord CAN_IRQ 7, by decide +kernel⟩,
   ⟨0x10B014, 1, [5, 6], [], up, by decide +kernel⟩,
   ⟨2, 0, [1], [], up, by decide +kernel⟩⟩

theorem witness_hostFramesEnd :
    (∃ (k : FrameClock) (f : HostFrame) (s : State), s.powered = true ∧ s.spi.ignored = false ∧ s.spi.frame = some f ∧
      f.wait = [] ∧ (f.illegal = true ∨ (k.cycles = s.exactLength f ∧ f.whole = true))) ∧
    (∃ (k : FrameClock) (f : HostFrame) (s : State), s.powered = true ∧ s.spi.ignored = false ∧ s.spi.frame = some f ∧
      f.illegal = false ∧ f.wait = [] ∧ (k.cycles ≠ s.exactLength f ∨ f.whole = false)) ∧
    (∃ (k : FrameClock) (f : HostFrame) (q : Asked) (w : Nat) (r : List (Asked × Nat)) (s : State), s.powered = true ∧
      s.spi.ignored = false ∧ s.spi.frame = some f ∧ f.illegal = false ∧ f.wait = (q, w) :: r ∧
      k.waited < s.fld SPI_CFG.WMAX) ∧
    (∃ (k : FrameClock) (f : HostFrame) (q : Asked) (w : Nat) (r : List (Asked × Nat)) (s : State), s.powered = true ∧
      s.spi.ignored = false ∧ s.spi.frame = some f ∧ f.wait = (q, w) :: r ∧ s.fld SPI_CFG.WMAX ≤ k.waited) ∧
    (∃ (k : FrameClock) (s : State), s.powered = true ∧ s.spi.ignored = true) ∧
    (∃ (a : Nat) (x : Access) (w : Word) (rest : List Asked) (s : State), s.powered = true ∧
      s.flag SPI_CFG.DAISY = false ∧ s.spi.late = ⟨a, x, some w⟩ :: rest ∧ a < 2 ^ 24) ∧
    (∃ (x : Access) (rest : List Asked) (s : State), s.powered = true ∧ s.flag SPI_CFG.DAISY = false ∧
      s.spi.late = ⟨CAN_NBT, x, none⟩ :: rest ∧ s.holding = false) ∧
    (∃ (o : BitVec 19) (a : Nat) (s : State), s.hostOpen ∧ s.mgt.stopped = false ∧
      a = 0x80000 * s.fld MGT_FWIN.PAGE + o.toNat / 4 * 4 ∧ s.regionBusy a = false ∧
      Assoc.get s.flashFlaws (a / 8 * 8) = none) ∧
    (∃ (o : BitVec 19) (ecc : Ecc) (s : State), s.hostOpen ∧ s.mgt.stopped = true) ∧
    (∃ (s : State), s.powered = true ∧ s.spi.frame = none ∧ s.spi.ignored = false) ∧
    (∃ (n v : Nat) (bits : List Bool) (late : Bool) (x : Access) (p : Word) (s : State), s.powered = true ∧
      bits = msbFirst n v ∧ s.flag SPI_CFG.DAISY = true ∧ s.spi.frame = none ∧ s.spi.ignored = false ∧
      s.hostLink = true ∧ s.mastering = false ∧ s.inChainWindow = false ∧ s.spi.prevWord = some p ∧
      (bits = [] ∨ bits.length % 64 ≠ 0)) ∧
    (∃ (n v : Nat) (bits : List Bool) (w : DWord) (late : Bool) (x : Access) (p : Word) (s : State), s.powered =
      true ∧ bits = msbFirst n v ∧ s.flag SPI_CFG.DAISY = true ∧ s.spi.frame = none ∧ s.spi.ignored = false ∧
      s.hostLink = true ∧ s.mastering = false ∧ s.inChainWindow = false ∧ s.spi.prevWord = some p ∧ bits ≠ [] ∧
      bits.length % 64 = 0 ∧ w = BitVec.ofNat 64 v ∧ w.extractLsb' 56 8 = 0x30#8 ∧ w.extractLsb' 32 24 = 0x10B020#24 ∧
      s.holding = false ∧ late = false ∧ s.flag SPI_LATE.VALID = false) ∧
    (∃ (s : State), s.powered = true ∧ s.mastering = true ∧ s.spi.job = none) ∧
    (∃ (a : Nat) (s : State), s.powered = true ∧ s.mastering = true ∧ s.spi.job = some .writes ∧
      s.spi.polling = some a ∧ a < 2 ^ 24 ∧ s.mayMaster = true) :=
  ⟨⟨⟨32, 0⟩, {}, { up with spi := { frame := some {} } }, by decide +kernel⟩,
   ⟨⟨31, 0⟩, {}, { up with spi := { frame := some {} } }, by decide +kernel⟩,
   ⟨⟨31, 3⟩, { wait := [({ addr := 4 }, 2)] }, { addr := 4 }, 2, [],
     { up with spi := { frame := some { wait := [({ addr := 4 }, 2)] } } }, by decide +kernel⟩,
   ⟨⟨31, 999⟩, { wait := [({ addr := 4 }, 2)] }, { addr := 4 }, 2, [],
     { up with spi := { frame := some { wait := [({ addr := 4 }, 2)] } } }, by decide +kernel⟩,
   ⟨⟨32, 0⟩, { up with spi := { ignored := true } }, by decide +kernel⟩,
   ⟨8, {}, 9, [], { up.setWord SPI_LATE 0x8010B020 with spi := { late := [⟨8, {}, some 9⟩] } }, by decide +kernel⟩,
   ⟨{}, [], { up with spi := { late := [⟨CAN_NBT, {}, none⟩] } }, by decide +kernel⟩,
   ⟨0x7FFFF, 0x7FFFC, up, by decide +kernel⟩,
   ⟨4, .clean, { up with mgt := { stopped := true } }, by decide +kernel⟩,
   ⟨{ up with spi := { busyN := true } }, by decide +kernel⟩,
   ⟨1, 1, [true], false, {}, 0, up.put SPI_CFG.DAISY 1, by decide +kernel⟩,
   ⟨64, 0x3010B02000000000, msbFirst 64 0x3010B02000000000, 0x3010B02000000000, false, {}, 7,
     { up.put SPI_CFG.DAISY 1 with spi := { prevWord := some 7 } }, by decide +kernel⟩,
   ⟨{ up.put CHN_CTRL.EN 1 with sys := { mode := .run, inReset := false, cascM := true }, chn := { windowEnd := some 1000 } }, by decide +kernel⟩,
   ⟨32, { up with spi := { job := some .writes, polling := some 32 } }, by decide +kernel⟩⟩

theorem witness_memoryWindow :
    (∃ (o : Fin 512) (l : List Word) (s : State), s.hostOpen ∧ s.mwFree = true ∧
      s.spi.line = some (s.mwExt o / 32 * 32, l)) ∧
    (∃ (o : Fin 512) (s : State), s.hostOpen ∧ s.mwFree = true ∧ s.spi.line = none) ∧
    (∃ (o : Fin 512) (s : State), s.hostOpen ∧ s.mwFree = false) ∧
    (∃ (d : BitVec 256) (ext host : Nat) (s : State), s.powered = true ∧ s.spi.job = some (.line ext host false) ∧
      s.spi.writes = [] ∧ s.mayMaster = true ∧ host < 2 ^ 24 ∧ ext < 2 ^ 24) ∧
    (∃ (o : Fin 512) (v : Word) (s : State), s.hostOpen ∧ s.mwFree = true ∧ s.spi.frame = none ∧ s.spi.job = none) ∧
    (∃ (o : Fin 512) (v : Word) (s : State), s.hostOpen ∧ s.mwFree = false) ∧
    (∃ (v : Word) (s : State), s.hostOpen ∧ s.mwFree = true) ∧
    (∃ (v : Word) (s : State), s.hostOpen ∧ s.mwFree = false) ∧
    (∃ (v : Word) (s : State), s.hostOpen ∧ s.mwFree = true ∧ s.mayMaster = true ∧ s.spi.writes = [] ∧
      v.getLsbD 10 = false ∧ v.getLsbD 9 = false ∧ v.getLsbD 8 = true) ∧
    (∃ (v : Word) (s : State), s.hostOpen ∧ s.mwFree = false) ∧
    (∃ (a : Nat) (v : Word) (s : State), s.powered = true ∧ s.mayMaster = true ∧ s.spi.polling = none ∧
      s.spi.job = some .writes ∧ s.spi.writes = [(a, v)] ∧ s.flag SPI_MW_CFG.POLL = false ∧ s.fld SPI_MW_OPS.WREN ≠ 0) ∧
    (∃ (a : Nat) (v w : Word) (s : State), s.powered = true ∧ s.mayMaster = true ∧ s.spi.polling = none ∧
      s.spi.job = some .writes ∧ s.spi.writes = [(a + 4, w), (a, v)] ∧
      (a + 4) / 2 ^ (s.fld SPI_MW_CFG.PAGE + 5) = a / 2 ^ (s.fld SPI_MW_CFG.PAGE + 5) ∧
      s.flag SPI_MW_CFG.SELW = false ∧ s.flag SPI_MW_CFG.POLL = true ∧ s.fld SPI_MW_OPS.WREN = 0) ∧
    (∃ (st : Byte) (a : Nat) (s : State), s.powered = true ∧ s.mayMaster = true ∧ s.spi.polling = some a ∧
      st.getLsbD (s.fld SPI_MW_CFG.BUSY_BIT) ≠ s.flag SPI_MW_CFG.BUSY_POL) ∧
    (∃ (st : Byte) (a : Nat) (s : State), s.powered = true ∧ s.mayMaster = true ∧ s.spi.polling = some a ∧
      a < 2 ^ 24 ∧ (s.spi.job = some .writes ∨ s.spi.writes = []) ∧
      st.getLsbD (s.fld SPI_MW_CFG.BUSY_BIT) = s.flag SPI_MW_CFG.BUSY_POL ∧ s.flag SPI_MW_CFG.ERR_EN = true ∧
      st.getLsbD (s.fld SPI_MW_CFG.ERR_BIT) = true) ∧
    (∃ (st : Byte) (a : Nat) (s : State), s.powered = true ∧ s.mayMaster = true ∧ s.spi.polling = some a ∧
      st.getLsbD (s.fld SPI_MW_CFG.BUSY_BIT) = s.flag SPI_MW_CFG.BUSY_POL ∧ s.flag SPI_MW_CFG.ERR_EN = false ∧
      s.spi.writes = []) ∧
    (∃ (a : Nat) (s : State), s.powered = true ∧ s.spi.polling = some a ∧ a < 2 ^ 24 ∧
      (s.spi.job = some .writes ∨ s.spi.writes = [])) :=
  ⟨⟨7, [1, 2, 3, 4, 5, 6, 7, 8],
     { (up.put SPI_CTRL.MW_EN 1) with spi := { line := some (0, [1, 2, 3, 4, 5, 6, 7, 8]) } }, by decide⟩,
   ⟨511, (up.put SPI_CTRL.MW_EN 1), by decide⟩,
   ⟨511, up, by decide⟩,
   ⟨2 ^ 250, 28, 0x10C81C, { (up.put SPI_CTRL.MW_EN 1) with spi := { job := some (.line 28 0x10C81C false) } }, by decide⟩,
   ⟨511, 7, { (up.put SPI_CTRL.MW_EN 1) with spi := { line := some (0, [1, 2, 3, 4, 5, 6, 7, 8]) } }, by decide⟩,
   ⟨511, 7, up, by decide⟩,
   ⟨0x800, { (up.put SPI_CTRL.MW_EN 1) with spi := { line := some (0, [1, 2, 3, 4, 5, 6, 7, 8]) } }, by decide⟩,
   ⟨0x800, up, by decide⟩,
   ⟨0x1C7, (up.put SPI_CTRL.MW_EN 1), by decide⟩,
   ⟨0x1C7, up, by decide⟩,
   ⟨32, 7,
     { (((up.put SPI_CTRL.MW_EN 1).put SPI_MW_CFG.POLL 0).setWord SPI_MW_OPS 0x05060203) with spi := { job := some .writes, writes := [(32, 7)] } }, by decide⟩,
   ⟨32, 7, 8,
     { (up.put SPI_MW_CFG.POLL 1).setWord SPI_MW_OPS 2 with spi := { job := some .writes, writes := [(36, 8), (32, 7)] } }, by decide⟩,
   ⟨1, 32, { up with spi := { job := some .raw, polling := some 32 } }, by decide⟩,
   ⟨0x80, 32,
     { (up.put SPI_MW_CFG.ERR_EN 1).put SPI_MW_CFG.ERR_BIT 7 with spi := { job := some .raw, polling := some 32 } }, by decide⟩,
   ⟨0, 32, { up with spi := { job := some .raw, polling := some 32 } }, by decide⟩,
   ⟨32, { up with spi := { job := some .raw, polling := some 32 } }, by decide⟩⟩

theorem witness_chainClaps :
    (∃ (s : State), s.powered = true ∧ s.clk.cutsOn = true ∧ s.sys.cascM = true ∧ s.flag CHN_CTRL.EN = true ∧
      s.vioOk = true) ∧
    (∃ (cut : Slate) (e : Int) (s : State), s.powered = true ∧ s.clk.cutsOn = true ∧ s.sys.cascM = false ∧
      s.vioOk = true ∧ s.clk.phase = .frame ∧ s.chn.clapped = false ∧
      cut = s.clk.slate + 128 - BitVec.ofNat 48 (s.fld CHN_CFG.DLY) ∧ e = (cut - s.chPredicted).toInt ∧
      s.chState = chLocked ∧ e.natAbs ≤ s.fld CHN_CFG.ADJ) ∧
    (∃ (cut : Slate) (e : Int) (s : State), s.powered = true ∧ s.clk.cutsOn = true ∧ s.sys.cascM = false ∧
      s.vioOk = true ∧ s.clk.phase = .frame ∧ s.chn.clapped = false ∧
      cut = s.clk.slate + 128 - BitVec.ofNat 48 (s.fld CHN_CFG.DLY) ∧ e = (cut - s.chPredicted).toInt ∧
      s.chState = chLocked ∧ s.fld CHN_CFG.ADJ < e.natAbs) ∧
    (∃ (cut : Slate) (e : Int) (s : State), s.powered = true ∧ s.clk.cutsOn = true ∧ s.sys.cascM = false ∧
      s.vioOk = true ∧ s.clk.phase = .frame ∧ s.chn.clapped = false ∧
      cut = s.clk.slate + 128 - BitVec.ofNat 48 (s.fld CHN_CFG.DLY) ∧ e = (cut - s.chPredicted).toInt ∧
      s.chState = chAcquire ∧ s.sys.mode ≠ .standby ∧ e.natAbs ≤ 2 ∧ s.chn.good = 7) ∧
    (∃ (cut : Slate) (e : Int) (s : State), s.powered = true ∧ s.clk.cutsOn = true ∧ s.sys.cascM = false ∧
      s.vioOk = true ∧ s.clk.phase = .frame ∧ s.chn.clapped = false ∧
      cut = s.clk.slate + 128 - BitVec.ofNat 48 (s.fld CHN_CFG.DLY) ∧ e = (cut - s.chPredicted).toInt ∧
      s.chState = chAcquire ∧ s.sys.mode = .standby ∧ s.chn.intervals = [] ∧ s.chn.lastClap = none ∧
      800 ≤ (cut - s.clk.lastCut).toNat ∧ (cut - s.clk.lastCut).toNat < 2 ^ 47) ∧
    (∃ (cut : Slate) (e : Int) (s : State), s.powered = true ∧ s.clk.cutsOn = true ∧ s.sys.cascM = false ∧
      s.vioOk = true ∧ s.clk.phase = .frame ∧ s.chn.clapped = false ∧
      cut = s.clk.slate + 128 - BitVec.ofNat 48 (s.fld CHN_CFG.DLY) ∧ e = (cut - s.chPredicted).toInt ∧
      (s.chState = chHoldover ∨ s.chState = chLost) ∧ 2 < e.natAbs) ∧
    (∃ (cut : Slate) (e : Int) (s : State), s.powered = true ∧ s.clk.cutsOn = true ∧ s.sys.cascM = false ∧
      s.vioOk = true ∧ s.clk.phase = .frame ∧ s.chn.clapped = false ∧
      cut = s.clk.slate + 128 - BitVec.ofNat 48 (s.fld CHN_CFG.DLY) ∧ e = (cut - s.chPredicted).toInt ∧
      (s.chState = chHoldover ∨ s.chState = chLost) ∧ e.natAbs ≤ 2) ∧
    (∃ (s : State), s.powered = true ∧ s.sys.cascM = false ∧ s.chState = chLocked ∧ s.chn.clapped = false) ∧
    (∃ (s : State), s.powered = true ∧ s.sys.cascM = false ∧ s.chState = chHoldover ∧
      s.fld CHN_CTRL.CLAP_HOLD ≤ s.chn.held) :=
  ⟨⟨{ up.put CHN_CTRL.EN 1 with sys := { mode := .run, inReset := false, cascM := true }, clk := { cutsOn := true, nextCut := 8000 } }, by decide⟩,
   ⟨8005, 5,
     { ((up.setWord CLK_FRAME_LEN 8000).put CHN_CFG.ADJ 10).put CHN_STAT.STATE 2 with clk := { cutsOn := true, phase := .frame, slate := 7879 } }, by decide⟩,
   ⟨8011, 11,
     { ((up.setWord CLK_FRAME_LEN 8000).put CHN_CFG.ADJ 10).put CHN_STAT.STATE 2 with clk := { cutsOn := true, phase := .frame, slate := 7885 } }, by decide⟩,
   ⟨8002, 2,
     { ((up.setWord CLK_FRAME_LEN 8000).put CHN_CFG.ADJ 10).put CHN_STAT.STATE 1 with clk := { cutsOn := true, phase := .frame, slate := 7876 }, chn := { good := 7 } }, by decide⟩,
   ⟨9000, 1000,
     { ((standbyUp.setWord CLK_FRAME_LEN 8000).put CHN_CFG.ADJ 10).put CHN_STAT.STATE 1 with clk := { cutsOn := true, phase := .frame, slate := 8874 } }, by decide⟩,
   ⟨8011, 11,
     { ((up.setWord CLK_FRAME_LEN 8000).put CHN_CFG.ADJ 10).put CHN_STAT.STATE 3 with clk := { cutsOn := true, phase := .frame, slate := 7885 } }, by decide⟩,
   ⟨7998, -2,
     { ((up.setWord CLK_FRAME_LEN 8000).put CHN_CFG.ADJ 10).put CHN_STAT.STATE 4 with clk := { cutsOn := true, phase := .frame, slate := 7872 } }, by decide⟩,
   ⟨up.put CHN_STAT.STATE 2, by decide⟩,
   ⟨{ up.put CHN_STAT.STATE 3 with chn := { held := 255 } }, by decide⟩⟩

theorem witness_chainRecords :
    (∃ (s : State), s.powered = true ∧ s.clk.cutsOn = true ∧ s.chActive = true ∧ s.flag CHN_STAT.TX_OFF = false ∧
      s.chainPos ≤ s.fld CHN_CFG.NDEV) ∧
    (∃ (c : BitVec 4) (k : Fin 4) (n : Nat) (s : State), s.powered = true ∧ s.clk.cutsOn = true ∧ s.chActive = true ∧
      c.getLsbD k = true ∧ slotAxis (s.word CHN_PUB) k = some n ∧ s.flag CHN_STAT.TX_OFF = false ∧
      s.chainPos ≤ s.fld CHN_CFG.NDEV ∧ s.chn.record.length = 15) ∧
    (∃ (k : Fin 8) (l : List Byte) (s : State), s.powered = true ∧ s.clk.cutsOn = true ∧ s.chActive = true ∧
      k.val ≤ s.fld CHN_CFG.NDEV ∧ l.length < 16) ∧
    (∃ (k : Fin 8) (l : List Byte) (s : State), s.powered = true ∧ s.clk.cutsOn = true ∧ s.chActive = true ∧
      k.val ≤ s.fld CHN_CFG.NDEV ∧ l.length = 16 ∧ recordCrc (l.take 15) = Tbl.get 0 l 15 ∧ s.chn.devs.length = 8) ∧
    (∃ (k : Fin 8) (l : List Byte) (j p : Nat) (q : Option Word) (s : State), s.powered = true ∧ s.clk.cutsOn = true ∧
      s.chActive = true ∧ k.val ≤ s.fld CHN_CFG.NDEV ∧ l.length = 16 ∧ recordCrc (l.take 15) = Tbl.get 0 l 15 ∧
      s.chn.devs.length = 8 ∧ j < 4 ∧ (Tbl.get 0 l 2).getLsbD j = true ∧ Tbl.get none (s.chDev k).q j = q ∧
      p =
      (Tbl.get 0 l (3 + 3 * j)).toNat + 256 * (Tbl.get 0 l (4 + 3 * j)).toNat + 65536 * (Tbl.get 0 l (5 + 3 * j)).toNat
      ∧ ((Tbl.get 0 l 0).toNat % 4 ≠ j ∨ s.learned k j = 0xF ∨ s.learned k j = (Tbl.get 0 l 2).toNat / 16)) ∧
    (∃ (k : Fin 8) (l : List Byte) (s : State), s.powered = true ∧ s.clk.cutsOn = true ∧ s.chActive = true ∧
      k.val ≤ s.fld CHN_CFG.NDEV ∧ l.length = 16 ∧ recordCrc (l.take 15) ≠ Tbl.get 0 l 15 ∧
      s.bitOf CHN_STAT.SEEN k = true) ∧
    (∃ (k : Fin 8) (l : List Byte) (s : State), s.powered = true ∧ s.clk.cutsOn = true ∧ s.chActive = true ∧
      k.val ≤ s.fld CHN_CFG.NDEV ∧ l.length = 16 ∧ recordCrc (l.take 15) ≠ Tbl.get 0 l 15 ∧
      s.bitOf CHN_STAT.SEEN k = false) ∧
    (∃ (s : State), s.powered = true ∧ s.chActive = true ∧ s.flag CHN_STAT.TX_OFF = false) ∧
    (∃ (s : State), s.powered = true ∧ s.sys.cascM = false ∧ s.flag CHN_CTRL.EN = true ∧ s.vioOk = true) ∧
    (∃ (k : Fin 8) (s : State), s.powered = true ∧ s.chn.devs.length = 8 ∧ 1024 ≤ (s.chDev k).silent) :=
  ⟨⟨{ (up.put CHN_STAT.STATE 2).put CHN_CFG.NDEV 7 with clk := { cutsOn := true, phase := .frame } }, by decide +kernel⟩,
   ⟨8, 3, 11,
     { ((up.setWord CHN_PUB 0xBFFF).put CHN_STAT.STATE 2).put CHN_CFG.NDEV 7 with chn := { record := List.replicate 15 255 }, clk := { cutsOn := true, phase := .frame } }, by decide +kernel⟩,
   ⟨7, [], { (up.put CHN_STAT.STATE 2).put CHN_CFG.NDEV 7 with clk := { cutsOn := true, phase := .frame } }, by decide +kernel⟩,
   ⟨7, List.replicate 15 0 ++ [recordCrc (List.replicate 15 0)],
     { (up.put CHN_STAT.STATE 2).put CHN_CFG.NDEV 7 with clk := { cutsOn := true, phase := .frame } }, by decide +kernel⟩,
   ⟨7, [0, 0, 1, 5, 0, 0, 0, 0, 0, 0, 0, 0, 0, 0, 0, recordCrc [0, 0, 1, 5, 0, 0, 0, 0, 0, 0, 0, 0, 0, 0, 0]], 0,
     5, none, { (up.put CHN_STAT.STATE 2).put CHN_CFG.NDEV 7 with clk := { cutsOn := true, phase := .frame } }, by decide +kernel⟩,
   ⟨7, List.replicate 16 0,
     { ((up.put CHN_STAT.STATE 2).put CHN_STAT.SEEN 255).put CHN_CFG.NDEV 7 with clk := { cutsOn := true, phase := .frame } }, by decide +kernel⟩,
   ⟨7, List.replicate 16 0,
     { (up.put CHN_STAT.STATE 2).put CHN_CFG.NDEV 7 with clk := { cutsOn := true, phase := .frame } }, by decide +kernel⟩,
   ⟨{ (up.put CHN_STAT.STATE 2).put CHN_CFG.NDEV 7 with clk := { cutsOn := true, phase := .frame } }, by decide +kernel⟩,
   ⟨up.put CHN_CTRL.EN 1, by decide +kernel⟩,
   ⟨7, { up with chn := { devs := List.replicate 8 { q := List.replicate 4 none, silent := 1024 } } }, by decide +kernel⟩⟩

theorem witness_bankTestsAndRepairs :
    (∃ (b : Fin 17) (s : State), s.powered = true ∧ s.mem.banks.length = 17 ∧ (s.bank b).repairs ≠ []) ∧
    (∃ (b : Fin 17) (s : State), s.powered = true ∧ s.sys.mode ≠ .boot ∧ s.flag MEM_TEST_CTRL.EN = true ∧
      s.flag (MEM_B_OWN.TEST_EN b) = true ∧ s.bankOn b = true ∧ s.flag (MEM_B_STAT.SAVE_HELD b) = false ∧
      (s.bank b).exhaust = none) ∧
    (∃ (b : Fin 17) (s : State), s.powered = true ∧ s.flag (MEM_B_STAT.TEST_BUSY b) = true ∧
      s.patternsFail b (s.fld (MEM_B_STAT.TEST_ROW b)) = false) ∧
    (∃ (b : Fin 17) (bad : Bool) (s : State), s.powered = true ∧ s.mem.banks.length = 17 ∧
      s.flag (MEM_B_STAT.TEST_BUSY b) = true ∧
      (bad = true ∨ s.patternsFail b (s.fld (MEM_B_STAT.TEST_ROW b)) = true) ∧ s.bank b = {} ∧
      s.flag (MEM_B_REPAIR.USED0 b) = false) ∧
    (∃ (b : Fin 17) (bad : Bool) (s : State), s.powered = true ∧ s.mem.banks.length = 17 ∧
      s.flag (MEM_B_STAT.TEST_BUSY b) = true ∧
      (bad = true ∨ s.patternsFail b (s.fld (MEM_B_STAT.TEST_ROW b)) = true) ∧ s.bank b = {} ∧
      s.flag (MEM_B_REPAIR.USED0 b) = true ∧ s.flag (MEM_B_REPAIR.USED1 b) = true) ∧
    (∃ (b : Fin 17) (s : State), s.powered = true ∧ s.flag (MEM_B_STAT.TEST_BUSY b) = true) ∧
    (∃ (b : Fin 17) (s : State), s.powered = true ∧ s.fld (MEM_B_STAT.PWR b) = 2) ∧
    (∃ (b : Fin 17) (s : State), s.powered = true ∧ s.retaining = true ∧ s.flag (MEM_B_OWN.RETAIN b) = true ∧
      s.bankOn b = true ∧ s.flag (MEM_B_STAT.REPAIR_PEND b) = false) :=
  ⟨⟨16, { up with mem := { banks := List.replicate 17 { repairs := [(63, 0)] } } }, by decide⟩,
   ⟨16, (up.put MEM_TEST_CTRL.EN 1).put (MEM_B_OWN.TEST_EN 16) 1, by decide⟩,
   ⟨16, (up.put (MEM_B_STAT.TEST_BUSY 16) 1).put (MEM_B_STAT.TEST_ROW 16) 63, by decide⟩,
   ⟨16, true, (up.put (MEM_B_STAT.TEST_BUSY 16) 1).put (MEM_B_STAT.TEST_ROW 16) 63, by decide⟩,
   ⟨0, true, ((up.put (MEM_B_STAT.TEST_BUSY 0) 1).put (MEM_B_REPAIR.USED0 0) 1).put (MEM_B_REPAIR.USED1 0) 1, by decide⟩,
   ⟨16, up.put (MEM_B_STAT.TEST_BUSY 16) 1, by decide⟩,
   ⟨16, up.put (MEM_B_STAT.PWR 16) 2, by decide⟩,
   ⟨16, (standbyUp.put (MEM_B_OWN.RETAIN 16) 1).put (MEM_B_STAT.TEST_BUSY 16) 1, by decide⟩⟩

theorem witness_bankWordsStored :
    (∃ (m : Word) (a : Nat) (s : State), s.hostOpen ∧ a = s.fld MEM_AT_ADDR.ADDR ∧ Assoc.get s.mem.flaws a = none) ∧
    (∃ (m : Word) (a : Nat) (s : State), s.hostOpen ∧ a = s.fld MEM_AT_ADDR.ADDR ∧ Assoc.get s.mem.flaws a = none) ∧
    (∃ (m : Word) (a : Nat) (s : State), s.hostOpen ∧ a = s.fld MEM_AT_ADDR.ADDR ∧ a < 0x41000 ∧
      s.fld (MEM_B_STAT.TEST_BUSY ((bankOf a).getD 0)) = 0) ∧
    (∃ (m : Word) (a : Nat) (s : State), s.hostOpen ∧ a = s.fld MEM_AT_ADDR.ADDR ∧ a < 0x41000 ∧
      s.fld (MEM_B_STAT.TEST_BUSY ((bankOf a).getD 0)) = 0) ∧
    (∃ (a : Nat) (v : Word) (s : State), s.powered = true ∧ 0x40000 ≤ a ∧ a < 0x41000) ∧
    (∃ (a : Nat) (set : Bool) (m w : Word) (s : State), s.powered = true ∧ 0x40000 ≤ a ∧ a < 0x41000 ∧
      s.mem.flaws = [] ∧ w = memWord s.mem.cells (a / 4 * 4)) ∧
    (∃ (a : Nat) (op : PortAOp) (s : State), s.powered = true ∧ (a < 0x40000 ∨ 0x41000 ≤ a)) :=
  ⟨⟨0xF0, 0x40FFC, { up.put MEM_AT_ADDR.ADDR 0x40FFC with mem := { cells := [(0x40FFC, 3)] } }, by decide⟩,
   ⟨1, 0x40FFC, { up.put MEM_AT_ADDR.ADDR 0x40FFC with mem := { cells := [(0x40FFC, 3)] } }, by decide⟩,
   ⟨0xF0, 0, up, by decide⟩,
   ⟨0xF0, 0, up, by decide⟩,
   ⟨0x40FFF, 7, up, by decide⟩,
   ⟨0x40FFF, false, 7, 0, up, by decide⟩,
   ⟨0x41000, .write 7, up, by decide⟩⟩

theorem witness_axisSafeRequests :
    (∃ (m : BitVec 12) (s : State), s.hostOpen ∧ (∀ n < 12, m.getLsbD n = true → s.axisUsed n = true)) ∧
    (∃ (m : BitVec 12) (n : Fin 12) (s : State), s.hostOpen ∧ m.getLsbD n = true ∧ s.axisUsed n = false) ∧
    (∃ (m : BitVec 12) (s : State), s.hostOpen ∧ (∀ n < 12, m.getLsbD n = true → s.releaseRefused n = false)) ∧
    (∃ (m : BitVec 12) (n : Fin 12) (s : State), s.hostOpen ∧ m.getLsbD n = true ∧ s.releaseRefused n = true) ∧
    (∃ (s : State), s.powered = true) ∧
    (∃ (s : State), s.powered = true) :=
  ⟨⟨0x800, { up with reel := { struct := { engines := [{ axis := 11, engine := 0, pos := 0 }] } } }, by decide⟩,
   ⟨0x800, 11, up, by decide⟩,
   ⟨0x800,
     { (up.put (MOD_AX_STAT.SAFE 11) 1).put (ENG_E_STAT.STATE 0) 2 with reel := { struct := { engines := [{ axis := 11, engine := 0, pos := 0 }] } } }, by decide⟩,
   ⟨0x800, 11, up, by decide⟩,
   ⟨up, by decide⟩,
   ⟨up, by decide⟩⟩

theorem witness_updateCommands :
    (∃ (k : Fin 4) (s : State), s.hostOpen ∧ s.mgt.stopped = false ∧ s.updReason 1 k = 0) ∧
    (∃ (k : Fin 4) (s : State), s.hostOpen ∧ s.mgt.stopped = false ∧ s.updReason 2 k = 0) ∧
    (∃ (k : Fin 4) (s : State), s.hostOpen ∧ s.mgt.stopped = false ∧ s.updReason 3 k = 0 ∧ s.mgt.bufs = []) ∧
    (∃ (k : Fin 4) (s : State), s.hostOpen ∧ s.mgt.stopped = false ∧ s.updReason 3 k = 0 ∧ s.mgt.bufs ≠ []) ∧
    (∃ (k : Fin 4) (s : State), s.hostOpen ∧ s.mgt.stopped = false ∧ s.updReason 7 k = 0) ∧
    (∃ (k : Fin 4) (s : State), s.hostOpen ∧ s.mgt.stopped = false ∧ s.updReason 4 k = 0 ∧
      Store.wf (fun _ => (0xFF : Byte)) s.flash = true ∧ k.val < 2) ∧
    (∃ (k : Fin 4) (s : State), s.hostOpen ∧ s.mgt.stopped = false ∧ s.updReason 4 k = 0 ∧
      Store.wf (fun _ => (0xFF : Byte)) s.flash = true ∧ 2 ≤ k.val) ∧
    (∃ (k : Fin 4) (s : State), s.hostOpen ∧ s.mgt.stopped = false ∧ s.updReason 5 k = 0) ∧
    (∃ (k : Fin 4) (s : State), s.hostOpen ∧ s.mgt.stopped = false ∧ s.updReason 6 k = 0 ∧
      Store.wf (fun _ => (0xFF : Byte)) s.flash = true ∧ s.slotState k = slTrial) ∧
    (∃ (k : Fin 4) (s : State), s.hostOpen ∧ s.mgt.stopped = false ∧ s.updReason 1 k ≠ 0) ∧
    (∃ (k : Fin 4) (s : State), s.hostOpen ∧ s.mgt.stopped = false ∧ s.updReason 2 k ≠ 0) ∧
    (∃ (k : Fin 4) (s : State), s.hostOpen ∧ s.mgt.stopped = false ∧ s.updReason 3 k ≠ 0) ∧
    (∃ (k : Fin 4) (s : State), s.hostOpen ∧ s.mgt.stopped = false ∧ s.updReason 4 k ≠ 0) ∧
    (∃ (k : Fin 4) (s : State), s.hostOpen ∧ s.mgt.stopped = false ∧ s.updReason 5 k ≠ 0) ∧
    (∃ (k : Fin 4) (s : State), s.hostOpen ∧ s.mgt.stopped = false ∧ s.updReason 6 k ≠ 0) ∧
    (∃ (k : Fin 4) (s : State), s.hostOpen ∧ s.mgt.stopped = false ∧ s.updReason 7 k ≠ 0) :=
  ⟨⟨1, up, by decide +kernel⟩,
   ⟨1, up, by decide +kernel⟩,
   ⟨1, { up with mgt := { opened := some 1 } }, by decide +kernel⟩,
   ⟨1, { up with mgt := { opened := some 1, bufs := [{ page := 3 }] } }, by decide +kernel⟩,
   ⟨1, { up with mgt := { opened := some 1, bufs := [{ page := 3 }] } }, by decide +kernel⟩,
   ⟨1, { up with flash := [(786176, 0x5A)] }, by decide +kernel⟩,
   ⟨3, { up with flash := [(982784, 0x5A)] }, by decide +kernel⟩,
   ⟨3, { up with flash := [(982784, 0x5A), (982785, 0x5A)] }, by decide +kernel⟩,
   ⟨2, { up.put MGT_FW.TRIAL 1 with flash := [(884480, 0x5A), (884481, 0x5A), (884482, 0x5A)] }, by decide +kernel⟩,
   ⟨3, { up with mgt := { opened := some 0, running := some (1, 1) } }, by decide +kernel⟩,
   ⟨3, { up with mgt := { opened := some 0, running := some (1, 1) } }, by decide +kernel⟩,
   ⟨3, { up with mgt := { opened := some 0, running := some (1, 1) } }, by decide +kernel⟩,
   ⟨3, { up with mgt := { opened := some 0, running := some (1, 1) } }, by decide +kernel⟩,
   ⟨3, { up with mgt := { opened := some 0, running := some (1, 1) } }, by decide +kernel⟩,
   ⟨3, { up with mgt := { opened := some 0, running := some (1, 1) } }, by decide +kernel⟩,
   ⟨3, { up with mgt := { opened := some 0, running := some (1, 1) } }, by decide +kernel⟩⟩

theorem witness_updateTransfers :
    (∃ (v : Word) (a : Nat) (s : State), s.hostOpen ∧ s.mgt.stopped = false ∧ a = s.fld MGT_UPD_ADDR.ADDR ∧
      s.dataReason a = 0) ∧
    (∃ (v : Word) (s : State), s.hostOpen ∧ s.mgt.stopped = false ∧ s.dataReason (s.fld MGT_UPD_ADDR.ADDR) ≠ 0) ∧
    (∃ (k : Fin 4) (s : State), s.powered = true ∧ Store.wf (fun _ => (0xFF : Byte)) s.flash = true ∧
      s.mgt.running = some (1, k.val)) ∧
    (∃ (k : Fin 4) (i : Nat) (s : State), s.powered = true ∧ s.mgt.running = some (1, k.val) ∧
      i < (slotRoom k + 0x100) / 0x1000) ∧
    (∃ (k : Fin 4) (p : Nat) (l : List Word) (s : State), s.powered = true ∧
      Store.wf (fun _ => (0xFF : Byte)) s.flash = true ∧ s.mgt.opened = some k.val ∧ s.mgt.bufs = [⟨p, l, true⟩] ∧
      s.mgt.running = none ∧ l.length = 64 ∧ 256 * p + 256 ≤ slotRoom k ∧
      (∀ j < 256, s.flashByte (slotBase k + 256 * p + j) = 0xFF) ∧ s.slotState k = slErased) ∧
    (∃ (k : Fin 4) (p : Nat) (l : List Word) (s : State), s.powered = true ∧ s.mgt.opened = some k.val ∧
      s.mgt.bufs = [⟨p, l, true⟩] ∧ s.mgt.running = none) :=
  ⟨⟨7, 0, { up with mgt := { opened := some 1, mcOk := true } }, by decide +kernel⟩,
   ⟨7, up, by decide +kernel⟩,
   ⟨3, { up with mgt := { running := some (1, 3) }, flash := [(0xD8000, 5)] }, by decide +kernel⟩,
   ⟨3, 0, { up with mgt := { running := some (1, 3) }, flash := [(0xD8000, 5)] }, by decide +kernel⟩,
   ⟨1, 5, List.replicate 64 7, { up with mgt := { opened := some 1, bufs := [⟨5, List.replicate 64 7, true⟩] } }, by decide +kernel⟩,
   ⟨1, 5, List.replicate 64 7, { up with mgt := { opened := some 1, bufs := [⟨5, List.replicate 64 7, true⟩] } }, by decide +kernel⟩⟩

theorem witness_logAndManagementWork :
    (∃ (r : LogRec) (rest : List LogRec) (q : Word) (s : State), s.powered = true ∧ s.mcRuns = true ∧
      s.mgt.logOpen = true ∧ s.mgt.queue = r :: rest ∧ s.mgt.logCount < 127 ∧ s.mgt.logSector < 16 ∧
      q = s.word MGT_LOG_SEQ + 1 ∧ q ≠ 0 ∧ (∀ j < 32,
      s.flashByte (logBase s.mgt.logSector + 32 + 32 * s.mgt.logCount + j) = 0xFF)) ∧
    (∃ (r : LogRec) (rest : List LogRec) (s : State), s.powered = true ∧ s.mcRuns = true ∧ s.mgt.logOpen = true ∧
      s.mgt.queue = r :: rest ∧ s.mgt.logCount < 127) ∧
    (∃ (i : Nat) (s : State), s.powered = true ∧ s.mcRuns = true ∧ s.mgt.logOpen = true ∧ s.mgt.logNext = none ∧
      i = s.nextSector s.mgt.logSector) ∧
    (∃ (i : Nat) (s : State), s.powered = true ∧ s.mcRuns = true ∧ s.mgt.logOpen = true ∧ s.mgt.logNext = none ∧
      i = s.nextSector s.mgt.logSector ∧ i < 16) ∧
    (∃ (s : State), s.powered = true ∧ s.mcRuns = true ∧ Store.wf (fun _ => (0xFF : Byte)) s.flash = true ∧
      s.flag MGT_FW.TRIAL = true ∧ s.fld MGT_POLICY.FW_TRIAL ≠ 0 ∧ s.slotState s.activeFw = slTrial) ∧
    (∃ (s : State), s.powered = true ∧ s.mcRuns = true ∧ s.flag MGT_FW.TRIAL = false ∧ s.mgt.running = none) ∧
    (∃ (s : State), s.powered = true ∧ s.mcRuns = true ∧ s.flag MGT_FW.TRIAL = true) ∧
    (∃ (c k : Nat) (s : State), s.powered = true ∧ s.mcRuns = true ∧ s.flag MGT_FW.TRIAL = false ∧
      s.mgt.running = some (c, k)) ∧
    (∃ (k : Nat) (s : State), s.powered = true ∧ s.mcRuns = true ∧ Store.wf (fun _ => (0xFF : Byte)) s.flash = true ∧
      s.sys.mode.supervises = true ∧ k < 4 ∧ s.slotState k = slGood ∧
      (if k < 2 then s.activeReel else s.activeFw) ≠ k ∧ (if k < 2 then (s.readReel k).isOk else s.fwOk k) = false) :=
  ⟨⟨{}, [], 1, { up with mgt := { mcOk := true, logOpen := true, queue := [{}] } }, by decide⟩,
   ⟨{}, [], { up with mgt := { mcOk := true, logOpen := true, queue := [{}] } }, by decide⟩,
   ⟨1, { up with mgt := { mcOk := true, logOpen := true } }, by decide⟩,
   ⟨1, { up with mgt := { mcOk := true, logOpen := true } }, by decide⟩,
   ⟨{ (up.put MGT_FW.TRIAL 1).put MGT_POLICY.FW_TRIAL 5 with mgt := { mcOk := true }, flash := [(884480, 0x5A), (884481, 0x5A), (884482, 0x5A)] }, by decide⟩,
   ⟨{ up with mgt := { mcOk := true } }, by decide⟩,
   ⟨{ up.put MGT_FW.TRIAL 1 with mgt := { mcOk := true } }, by decide⟩,
   ⟨1, 1, { up with mgt := { mcOk := true, running := some (1, 1) } }, by decide⟩,
   ⟨3,
     { up with mgt := { mcOk := true }, flash := [(982784, 0x5A), (982785, 0x5A), (982786, 0x5A), (982787, 0x5A)] }, by decide⟩⟩

theorem witness_emptyQueueTicks : ∃ (s : State), s.pending = [] ∧ s.powered = true ∧ s.sys.wake = false :=
  ⟨up, by decide⟩


/-- The invariant holds in RUN with nothing loaded, whatever waits. -/
theorem up_inv (l : List Instr) : State.Inv { up with pending := l } :=
  { regs := rfl, cells := rfl, flash := rfl, engs := rfl
    eng := fun g h => by obtain rfl := List.eq_of_mem_replicate h; constructor <;> decide
    mods := rfl
    mod := fun m h => by
      obtain rfl := List.eq_of_mem_replicate h
      exact ⟨rfl, fun b hb => by obtain rfl := List.eq_of_mem_replicate hb; unfold HalfBridge.Sound; decide⟩
    mots := rfl, banks := rfl, tbs := rfl, rbs := rfl, entries := rfl, si := rfl, qd := rfl, sn := rfl, ee := rfl
    cores := rfl, units := rfl, devs := rfl }

theorem witness_stepKeepsInv : ∃ s t : State, s.Inv ∧ step s = .next t :=
  ⟨_, _, up_inv [.trip 0 0], rfl⟩

theorem witness_noShootThrough : ∃ s t : State, s.Inv ∧ step s = .next t :=
  ⟨_, _, up_inv [.carrierStart 0], rfl⟩

theorem witness_flashHasFewWriters : ∃ (i : Instr) (s t : State), mayWriteFlash i = false ∧ exec i s = .next t :=
  ⟨.slateWrap, up, _, rfl, rfl⟩

end Sys2Proof.Tests
end

namespace Sys2Proof.Machine

-- One proof after the other: the text as a whole would otherwise ask for more threads than there is memory for.
set_option Elab.async false

/-! ### Every command answers (R19, R54) -/

/-- A meaning answers a next state: neither a fault nor a refusal. -/
def Answers (o : Out) : Prop := ∃ t, o = .next t

theorem next_answers (s : State) : Answers (.next s) := ⟨s, rfl⟩

theorem done_answers (s : State) : Answers (done s) := next_answers s.settle

theorem Answers.ite {c : Prop} [Decidable c] {x y : Out} (h : Answers x) (h' : Answers y) :
    Answers (if c then x else y) := by
  split <;> assumption

theorem whenPowered_answers (s : State) (f : State → State) : Answers (whenPowered s f) :=
  (done_answers (f s)).ite (next_answers s)

theorem hostAccess_answers (s : State) (a : Nat) (v : Option Word) (f : State → State) (x : Access) :
    Answers (hostAccess s a v f x) := whenPowered_answers s _

theorem execWakeTimer_answers (s : State) : Answers (execWakeTimer s) := by
  unfold execWakeTimer
  split
  · exact (done_answers _).ite (next_answers s)
  · exact next_answers s

/-- A frame that names neither the queue of waiting commands nor the variant of the part leaves both. -/
theorem Does.queue_part {l : List Field} {s t : State} (h : Does l s t)
    (hl : l.all (fun k => k != .pending && k != .part) = true) : t.pending = s.pending ∧ t.part = s.part := by
  have out : ∀ k ∈ l, k ≠ .pending ∧ k ≠ .part := fun k hk => by simpa using List.all_eq_true.mp hl k hk
  exact ⟨h.1.1 .pending (fun m => (out _ m).1 rfl), h.1.1 .part (fun m => (out _ m).2 rfl)⟩

/-- A meaning that answers, by default one under `whenPowered`, and whose frame names neither the queue nor the
variant. -/
theorem answers_keeping (o : Out) {l : List Field} {s : State} (hd : ∀ t, o = .next t → Does l s t)
    (ha : Answers o := by exact whenPowered_answers _ _)
    (hl : l.all (fun k => k != .pending && k != .part) = true := by rfl) :
    ∃ t, o = .next t ∧ t.pending = s.pending ∧ t.part = s.part := by
  obtain ⟨t, h⟩ := ha
  exact ⟨t, h, (hd t h).queue_part hl⟩

/-- Settles O56, command by command: what the command changes at most names neither the queue nor the variant, and its
meaning stands under `whenPowered` (the default of `answers_keeping`), under `hostAccess`, or, for the commands of D0,
which runs while the islands are not powered (R27), under conditions of its own. -/
theorem everyCommandAnswers : Obligations.EveryCommandAnswers := by
  intro i s
  cases i with
  | slateWrap => exact answers_keeping (execSlateWrap s) (execSlateWrap_does s)
  | crossingDeliver => exact answers_keeping (execCrossingDeliver _ s) (execCrossingDeliver_does _ s)
  | cutClose => exact answers_keeping (execCutClose s) (execCutClose_does s)
  | drainCheck => exact answers_keeping (execDrainCheck _ s) (execDrainCheck_does _ s)
  | cutApply => exact answers_keeping (execCutApply s) (execCutApply_does s)
  | cutSeal => exact answers_keeping (execCutSeal s) (execCutSeal_does s)
  | cut => exact answers_keeping (execCut s) (execCut_does s)
  | engineStart => exact answers_keeping (execEngineStart _ s) (execEngineStart_does _ s)
  | hostHoldRelease => exact answers_keeping (execHostHoldRelease s) (execHostHoldRelease_does s)
  | cutMissed => exact answers_keeping (execCutMissed s) (execCutMissed_does s)
  | slateDecode => exact answers_keeping (execSlateDecode s) (execSlateDecode_does s)
  | xtalMonitorWindow => exact answers_keeping (execXtalMonitorWindow _ s) (execXtalMonitorWindow_does _ s)
  | xtalQualified => exact answers_keeping (execXtalQualified s) (execXtalQualified_does s)
  | xtalLost => exact answers_keeping (execXtalLost s) (execXtalLost_does s)
  | refSwitch => exact answers_keeping (execRefSwitch s) (execRefSwitch_does s)
  | fllRelock => exact answers_keeping (execFllRelock _ s) (execFllRelock_does _ s)
  | fllUnlock => exact answers_keeping (execFllUnlock _ s) (execFllUnlock_does _ s)
  | xtalStart => exact answers_keeping (execXtalStart s) (execXtalStart_does s)
  | rcLost => exact answers_keeping (execRcLost s) (execRcLost_does s)
  | refAbsentReset => exact answers_keeping (execRefAbsentReset s) (execRefAbsentReset_does s)
  | lpoMeasure => exact answers_keeping (execLpoMeasure s) (execLpoMeasure_does s)
  | lpoCal => exact answers_keeping (execLpoCal s) (execLpoCal_does s) (hostAccess_answers ..)
  | lpoMeasureDone => exact answers_keeping (execLpoMeasureDone _ s) (execLpoMeasureDone_does _ s)
  | xtalEnable => exact answers_keeping (execXtalEnable _ s) (execXtalEnable_does _ s) (hostAccess_answers ..)
  | xtalRetry => exact answers_keeping (execXtalRetry s) (execXtalRetry_does s) (hostAccess_answers ..)
  | frameLenWrite => exact answers_keeping (execFrameLenWrite _ s) (execFrameLenWrite_does _ s) (hostAccess_answers ..)
  | clkFaultClear => exact answers_keeping (execClkFaultClear _ s) (execClkFaultClear_does _ s) (hostAccess_answers ..)
  | sleepSat => exact answers_keeping (execSleepSat s) (execSleepSat_does s) ((done_answers _).ite (next_answers s))
  | stampStale => exact answers_keeping (execStampStale _ s) (execStampStale_does _ s)
  | residentRecheck => exact answers_keeping (execResidentRecheck _ s) (execResidentRecheck_does _ s)
  | reloadDone => exact answers_keeping (execReloadDone _ s) (execReloadDone_does _ s)
  | recheck => exact answers_keeping (execRecheck s) (execRecheck_does s) (hostAccess_answers ..)
  | reelSplice => exact answers_keeping (execReelSplice _ s) (execReelSplice_does _ s) (hostAccess_answers ..)
  | stagingEnd => exact answers_keeping (execStagingEnd _ s) (execStagingEnd_does _ s)
  | stagedRecheck => exact answers_keeping (execStagedRecheck _ s) (execStagedRecheck_does _ s)
  | confirm => exact answers_keeping (execConfirm s) (execConfirm_does s) (hostAccess_answers ..)
  | cancel => exact answers_keeping (execCancel s) (execCancel_does s) (hostAccess_answers ..)
  | trialProgram => exact answers_keeping (execTrialProgram s) (execTrialProgram_does s)
  | trialFramesExpire => exact answers_keeping (execTrialFramesExpire s) (execTrialFramesExpire_does s)
  | bootStart =>
    exact answers_keeping (execBootStart _ _ s) (execBootStart_does _ _ s)
      ((done_answers _).ite ((done_answers _).ite (next_answers s)))
  | regulatorsReady => exact answers_keeping (execRegulatorsReady _ s) (execRegulatorsReady_does _ s)
  | firmwareSelect => exact answers_keeping (execFirmwareSelect s) (execFirmwareSelect_does s)
  | reelSelect => exact answers_keeping (execReelSelect s) (execReelSelect_does s)
  | bootEnd => exact answers_keeping (execBootEnd _ s) (execBootEnd_does _ s)
  | noStart => exact answers_keeping (execNoStart _ s) (execNoStart_does _ s)
  | force => exact answers_keeping (execForce _ s) (execForce_does _ s) (hostAccess_answers ..)
  | forceEs => exact answers_keeping (execForceEs s) (execForceEs_does s) (hostAccess_answers ..)
  | restore => exact answers_keeping (execRestore _ s) (execRestore_does _ s) (hostAccess_answers ..)
  | returnReloadDone => exact answers_keeping (execReturnReloadDone s) (execReturnReloadDone_does s)
  | pad => exact answers_keeping (execPad _ _ s) (execPad_does _ _ s)
  | ldk => exact answers_keeping (execLdk _ _ s) (execLdk_does _ _ s)
  | mov => exact answers_keeping (execMov _ _ s) (execMov_does _ _ s)
  | tagm => exact answers_keeping (execTagm _ _ s) (execTagm_does _ _ s)
  | bld => exact answers_keeping (execBld _ _ s) (execBld_does _ _ s)
  | bst => exact answers_keeping (execBst _ _ s) (execBst_does _ _ s)
  | acpt => exact answers_keeping (execAcpt _ _ s) (execAcpt_does _ _ s)
  | add => exact answers_keeping (execAdd _ _ s) (execAdd_does _ _ s)
  | mul => exact answers_keeping (execMul _ _ s) (execMul_does _ _ s)
  | accx => exact answers_keeping (execAccx _ _ s) (execAccx_does _ _ s)
  | logic => exact answers_keeping (execLogic _ _ s) (execLogic_does _ _ s)
  | shift => exact answers_keeping (execShift _ _ s) (execShift_does _ _ s)
  | cmp => exact answers_keeping (execCmp _ _ s) (execCmp_does _ _ s)
  | sel => exact answers_keeping (execSel _ _ s) (execSel_does _ _ s)
  | clamp => exact answers_keeping (execClamp _ _ s) (execClamp_does _ _ s)
  | absn => exact answers_keeping (execAbsn _ _ s) (execAbsn_does _ _ s)
  | div => exact answers_keeping (execDiv _ _ s) (execDiv_does _ _ s)
  | isqrt => exact answers_keeping (execIsqrt _ _ s) (execIsqrt_does _ _ s)
  | tbl => exact answers_keeping (execTbl _ _ s) (execTbl_does _ _ s)
  | rot => exact answers_keeping (execRot _ _ s) (execRot_does _ _ s)
  | obsv => exact answers_keeping (execObsv _ _ s) (execObsv_does _ _ s)
  | plan => exact answers_keeping (execPlan _ _ s) (execPlan_does _ _ s)
  | ramp => exact answers_keeping (execRamp _ _ s) (execRamp_does _ _ s)
  | cami => exact answers_keeping (execCami _ _ s) (execCami_does _ _ s)
  | stepi => exact answers_keeping (execStepi _ _ s) (execStepi_does _ _ s)
  | setp => exact answers_keeping (execSetp _ _ s) (execSetp_does _ _ s)
  | stat => exact answers_keeping (execStat _ _ s) (execStat_does _ _ s)
  | mirr => exact answers_keeping (execMirr _ _ s) (execMirr_does _ _ s)
  | engineFault => exact answers_keeping (execEngineFault _ _ s) (execEngineFault_does _ _ s)
  | paramWrite => exact answers_keeping (execParamWrite _ _ _ s) (execParamWrite_does _ _ _ s) (hostAccess_answers ..)
  | axSetpos => exact answers_keeping (execAxSetpos _ _ s) (execAxSetpos_does _ _ s) (hostAccess_answers ..)
  | homingRequest =>
    exact answers_keeping (execHomingRequest _ _ s) (execHomingRequest_does _ _ s) (hostAccess_answers ..)
  | camEngage => exact answers_keeping (execCamEngage _ _ s) (execCamEngage_does _ _ s) (hostAccess_answers ..)
  | camBind => exact answers_keeping (execCamBind _ _ s) (execCamBind_does _ _ s) (hostAccess_answers ..)
  | stepEdge => exact answers_keeping (execStepEdge _ _ _ _ _ s) (execStepEdge_does _ _ _ _ _ s)
  | stepClear => exact answers_keeping (execStepClear _ s) (execStepClear_does _ s) (hostAccess_answers ..)
  | setpointArrive => exact answers_keeping (execSetpointArrive _ s) (execSetpointArrive_does _ s)
  | carrierStart => exact answers_keeping (execCarrierStart _ s) (execCarrierStart_does _ s)
  | carrierEdge => exact answers_keeping (execCarrierEdge _ _ s) (execCarrierEdge_does _ _ s)
  | deadTimeExpire => exact answers_keeping (execDeadTimeExpire _ _ s) (execDeadTimeExpire_does _ _ s)
  | currentSample => exact answers_keeping (execCurrentSample _ _ _ s) (execCurrentSample_does _ _ _ s)
  | sampleHoldoff => exact answers_keeping (execSampleHoldoff _ _ _ s) (execSampleHoldoff_does _ _ _ s)
  | modCommit => exact answers_keeping (execModCommit _ s) (execModCommit_does _ s) (hostAccess_answers ..)
  | modForce => exact answers_keeping (execModForce _ _ s) (execModForce_does _ _ s) (hostAccess_answers ..)
  | trip => exact answers_keeping (execTrip _ _ s) (execTrip_does _ _ s)
  | bstUvAssert => exact answers_keeping (execBstUvAssert _ _ s) (execBstUvAssert_does _ _ s)
  | bstUvRelease => exact answers_keeping (execBstUvRelease _ _ s) (execBstUvRelease_does _ _ s)
  | bstExhaust => exact answers_keeping (execBstExhaust _ _ s) (execBstExhaust_does _ _ s)
  | tripClear => exact answers_keeping (execTripClear _ _ s) (execTripClear_does _ _ s) (hostAccess_answers ..)
  | diagStart => exact answers_keeping (execDiagStart _ s) (execDiagStart_does _ s) (hostAccess_answers ..)
  | diagDone => exact answers_keeping (execDiagDone _ _ s) (execDiagDone_does _ _ s)
  | selftestStart => exact answers_keeping (execSelftestStart _ s) (execSelftestStart_does _ s) (hostAccess_answers ..)
  | selftestDone => exact answers_keeping (execSelftestDone _ s) (execSelftestDone_does _ s)
  | otShut => exact answers_keeping (execOtShut s) (execOtShut_does s)
  | otShutRelease => exact answers_keeping (execOtShutRelease s) (execOtShutRelease_does s)
  | supplyGate => exact answers_keeping (execSupplyGate s) (execSupplyGate_does s)
  | qdEdge => exact answers_keeping (execQdEdge _ _ _ _ _ s) (execQdEdge_does _ _ _ _ _ s)
  | qdIndex => exact answers_keeping (execQdIndex _ _ _ s) (execQdIndex_does _ _ _ s)
  | qdPreset => exact answers_keeping (execQdPreset _ _ s) (execQdPreset_does _ _ s) (hostAccess_answers ..)
  | sentFrame => exact answers_keeping (execSentFrame _ _ _ _ s) (execSentFrame_does _ _ _ _ s)
  | sentTimeout => exact answers_keeping (execSentTimeout _ s) (execSentTimeout_does _ s)
  | limitEdge => exact answers_keeping (execLimitEdge _ _ _ s) (execLimitEdge_does _ _ _ s)
  | capEdge => exact answers_keeping (execCapEdge _ _ _ s) (execCapEdge_does _ _ _ s)
  | latchHostTrig =>
    exact answers_keeping (execLatchHostTrig _ _ s) (execLatchHostTrig_does _ _ s) (hostAccess_answers ..)
  | latchRead => exact answers_keeping (execLatchRead _ s) (execLatchRead_does _ s) (hostAccess_answers ..)
  | compareValWrite =>
    exact answers_keeping (execCompareValWrite _ _ s) (execCompareValWrite_does _ _ s) (hostAccess_answers ..)
  | cmpPulseEnd => exact answers_keeping (execCmpPulseEnd _ s) (execCmpPulseEnd_does _ s)
  | emuThetaSample => exact answers_keeping (execEmuThetaSample _ s) (execEmuThetaSample_does _ s)
  | emuStep => exact answers_keeping (execEmuStep _ s) (execEmuStep_does _ s)
  | emuClear => exact answers_keeping (execEmuClear _ s) (execEmuClear_does _ s) (hostAccess_answers ..)
  | outMismatch => exact answers_keeping (execOutMismatch _ _ s) (execOutMismatch_does _ _ s)
  | adcSlot => exact answers_keeping (execAdcSlot _ _ _ s) (execAdcSlot_does _ _ _ s)
  | refCheck => exact answers_keeping (execRefCheck _ _ s) (execRefCheck_does _ _ s)
  | inject => exact answers_keeping (execInject _ s) (execInject_does _ s) (hostAccess_answers ..)
  | injectRun => exact answers_keeping (execInjectRun _ s) (execInjectRun_does _ s)
  | calRequest => exact answers_keeping (execCalRequest _ s) (execCalRequest_does _ s) (hostAccess_answers ..)
  | calDone => exact answers_keeping (execCalDone _ _ _ s) (execCalDone_does _ _ _ s)
  | standbyConversion => exact answers_keeping (execStandbyConversion _ _ s) (execStandbyConversion_does _ _ s)
  | canRxFrame => exact answers_keeping (execCanRxFrame _ _ s) (execCanRxFrame_does _ _ s)
  | canArbitration => exact answers_keeping (execCanArbitration _ s) (execCanArbitration_does _ s)
  | canTxEnd => exact answers_keeping (execCanTxEnd _ s) (execCanTxEnd_does _ s)
  | canError => exact answers_keeping (execCanError _ s) (execCanError_does _ s)
  | boReq => exact answers_keeping (execBoReq s) (execBoReq_does s) (hostAccess_answers ..)
  | busOffRecovered => exact answers_keeping (execBusOffRecovered s) (execBusOffRecovered_does s)
  | canIntegrated => exact answers_keeping (execCanIntegrated s) (execCanIntegrated_does s)
  | canTxreq => exact answers_keeping (execCanTxreq _ s) (execCanTxreq_does _ s) (hostAccess_answers ..)
  | canTxabort => exact answers_keeping (execCanTxabort _ s) (execCanTxabort_does _ s) (hostAccess_answers ..)
  | canRxfAck => exact answers_keeping (execCanRxfAck s) (execCanRxfAck_does s) (hostAccess_answers ..)
  | rxBufferRead => exact answers_keeping (execRxBufferRead _ s) (execRxBufferRead_does _ s) (hostAccess_answers ..)
  | rxMapTimeout => exact answers_keeping (execRxMapTimeout _ s) (execRxMapTimeout_does _ s)
  | serviceRequest => exact answers_keeping (execServiceRequest _ s) (execServiceRequest_does _ s)
  | svcRead => exact answers_keeping (execSvcRead s) (execSvcRead_does s)
  | svcWrite => exact answers_keeping (execSvcWrite s) (execSvcWrite_does s)
  | logRead => exact answers_keeping (execLogRead s) (execLogRead_does s)
  | updWrite => exact answers_keeping (execUpdWrite s) (execUpdWrite_does s)
  | updCmd => exact answers_keeping (execUpdCmd s) (execUpdCmd_does s)
  | serviceResponse => exact answers_keeping (execServiceResponse s) (execServiceResponse_does s)
  | domTimeout => exact answers_keeping (execDomTimeout s) (execDomTimeout_does s)
  | canResume => exact answers_keeping (execCanResume s) (execCanResume_does s)
  | wakePin =>
    exact answers_keeping (execWakePin _ _ s) (execWakePin_does _ _ s) ((done_answers _).ite (next_answers _))
  | busWake => exact answers_keeping (execBusWake _ s) (execBusWake_does _ s) ((done_answers _).ite (next_answers s))
  | wakeTimer => exact answers_keeping (execWakeTimer s) (execWakeTimer_does s) (execWakeTimer_answers s)
  | nop => exact answers_keeping (execNop _ s) (execNop_does _ s)
  | status => exact answers_keeping (execStatus _ _ s) (execStatus_does _ _ s)
  | write => exact answers_keeping (execWrite _ _ _ _ s) (execWrite_does _ _ _ _ s)
  | read => exact answers_keeping (execRead _ _ _ _ _ _ s) (execRead_does _ _ _ _ _ _ s)
  | writeFix => exact answers_keeping (execWriteFix _ _ _ _ s) (execWriteFix_does _ _ _ _ s)
  | readFix => exact answers_keeping (execReadFix _ _ _ _ _ _ s) (execReadFix_does _ _ _ _ _ _ s)
  | hostFrameEnd => exact answers_keeping (execHostFrameEnd _ s) (execHostFrameEnd_does _ s)
  | lateArrival => exact answers_keeping (execLateArrival s) (execLateArrival_does s)
  | daisyFrame => exact answers_keeping (execDaisyFrame _ _ _ _ s) (execDaisyFrame_does _ _ _ _ s)
  | busyNRelease => exact answers_keeping (execBusyNRelease s) (execBusyNRelease_does s)
  | mwApertureRead =>
    exact answers_keeping (execMwApertureRead _ s) (execMwApertureRead_does _ s) (hostAccess_answers ..)
  | mwApertureWrite =>
    exact answers_keeping (execMwApertureWrite _ _ s) (execMwApertureWrite_does _ _ s) (hostAccess_answers ..)
  | mwBaseWrite => exact answers_keeping (execMwBaseWrite _ s) (execMwBaseWrite_does _ s) (hostAccess_answers ..)
  | mwLineRead => exact answers_keeping (execMwLineRead _ s) (execMwLineRead_does _ s)
  | mwWriteOut => exact answers_keeping (execMwWriteOut s) (execMwWriteOut_does s)
  | mwPoll => exact answers_keeping (execMwPoll _ s) (execMwPoll_does _ s)
  | mwTimeout => exact answers_keeping (execMwTimeout s) (execMwTimeout_does s)
  | mwRawGo => exact answers_keeping (execMwRawGo _ s) (execMwRawGo_does _ s) (hostAccess_answers ..)
  | mmFault => exact answers_keeping (execMmFault s) (execMmFault_does s)
  | clap => exact answers_keeping (execClap s) (execClap_does s)
  | clapEdge => exact answers_keeping (execClapEdge s) (execClapEdge_does s)
  | clapMiss => exact answers_keeping (execClapMiss s) (execClapMiss_does s)
  | clapLost => exact answers_keeping (execClapLost s) (execClapLost_does s)
  | chainWindow => exact answers_keeping (execChainWindow _ s) (execChainWindow_does _ s)
  | chainRecord => exact answers_keeping (execChainRecord _ _ s) (execChainRecord_does _ _ s)
  | posConflict => exact answers_keeping (execPosConflict s) (execPosConflict_does s)
  | hostInWindow => exact answers_keeping (execHostInWindow s) (execHostInWindow_does s)
  | qTimeout => exact answers_keeping (execQTimeout _ s) (execQTimeout_does _ s)
  | repairCopyDone => exact answers_keeping (execRepairCopyDone _ s) (execRepairCopyDone_does _ s)
  | testWindow => exact answers_keeping (execTestWindow _ s) (execTestWindow_does _ s)
  | testWindowEnd => exact answers_keeping (execTestWindowEnd _ _ s) (execTestWindowEnd_does _ _ s)
  | testWindowTimeout => exact answers_keeping (execTestWindowTimeout _ s) (execTestWindowTimeout_does _ s)
  | bankWake => exact answers_keeping (execBankWake _ s) (execBankWake_does _ s)
  | bankRetain => exact answers_keeping (execBankRetain _ s) (execBankRetain_does _ s)
  | atSet => exact answers_keeping (execAtSet _ _ s) (execAtSet_does _ _ s) (hostAccess_answers ..)
  | atClr => exact answers_keeping (execAtClr _ _ s) (execAtClr_does _ _ s) (hostAccess_answers ..)
  | ownWrite => exact answers_keeping (execOwnWrite _ _ s) (execOwnWrite_does _ _ s) (hostAccess_answers ..)
  | mbPortAWrite => exact answers_keeping (execMbPortAWrite _ _ s) (execMbPortAWrite_does _ _ s)
  | axSafe => exact answers_keeping (execAxSafe _ s) (execAxSafe_does _ s) (hostAccess_answers ..)
  | axRelease => exact answers_keeping (execAxRelease _ s) (execAxRelease_does _ s) (hostAccess_answers ..)
  | pinHoldEnd =>
    exact answers_keeping (execPinHoldEnd _ s) (execPinHoldEnd_does _ s)
      ((next_answers s).ite ((done_answers _).ite (done_answers _)))
  | updErase => exact answers_keeping (execUpdErase _ s) (execUpdErase_does _ s) (hostAccess_answers ..)
  | eraseDone => exact answers_keeping (execEraseDone _ s) (execEraseDone_does _ s)
  | updOpen => exact answers_keeping (execUpdOpen _ s) (execUpdOpen_does _ s) (hostAccess_answers ..)
  | updData => exact answers_keeping (execUpdData _ s) (execUpdData_does _ s) (hostAccess_answers ..)
  | pageProgrammed => exact answers_keeping (execPageProgrammed _ s) (execPageProgrammed_does _ s)
  | updFlush => exact answers_keeping (execUpdFlush _ s) (execUpdFlush_does _ s) (hostAccess_answers ..)
  | updVerify => exact answers_keeping (execUpdVerify _ s) (execUpdVerify_does _ s) (hostAccess_answers ..)
  | updFwSplice => exact answers_keeping (execUpdFwSplice _ s) (execUpdFwSplice_does _ s) (hostAccess_answers ..)
  | updFwConfirm => exact answers_keeping (execUpdFwConfirm _ s) (execUpdFwConfirm_does _ s) (hostAccess_answers ..)
  | updAbort => exact answers_keeping (execUpdAbort _ s) (execUpdAbort_does _ s) (hostAccess_answers ..)
  | mcRestart => exact answers_keeping (execMcRestart s) (execMcRestart_does s)
  | fwTrialExpire => exact answers_keeping (execFwTrialExpire s) (execFwTrialExpire_does s)
  | mcWatchdog => exact answers_keeping (execMcWatchdog s) (execMcWatchdog_does s)
  | scrub => exact answers_keeping (execScrub s) (execScrub_does s)
  | logRecordWrite => exact answers_keeping (execLogRecordWrite _ s) (execLogRecordWrite_does _ s)
  | flashWindowRead =>
    exact answers_keeping (execFlashWindowRead _ _ s) (execFlashWindowRead_does _ _ s) (hostAccess_answers ..)
  | modeReqStandby =>
    exact answers_keeping (execModeReqStandby _ s) (execModeReqStandby_does _ s) (hostAccess_answers ..)
  | modeReqRun => exact answers_keeping (execModeReqRun _ s) (execModeReqRun_does _ s) (hostAccess_answers ..)
  | modeReqSafe => exact answers_keeping (execModeReqSafe _ s) (execModeReqSafe_does _ s) (hostAccess_answers ..)
  | modeReqService =>
    exact answers_keeping (execModeReqService _ s) (execModeReqService_does _ s) (hostAccess_answers ..)
  | modeReqSleep => exact answers_keeping (execModeReqSleep _ s) (execModeReqSleep_does _ s) (hostAccess_answers ..)
  | modeReqReset => exact answers_keeping (execModeReqReset _ s) (execModeReqReset_does _ s) (hostAccess_answers ..)
  | sleepEntryDone =>
    exact answers_keeping (execSleepEntryDone s) (execSleepEntryDone_does s) ((done_answers _).ite (next_answers s))
  | powerOn => exact answers_keeping (execPowerOn s) (execPowerOn_does s) ((done_answers _).ite (next_answers s))
  | vbatOff => exact answers_keeping (execVbatOff s) (execVbatOff_does s) (done_answers _)
  | brownout => exact answers_keeping (execBrownout s) (execBrownout_does s) ((next_answers s).ite (done_answers _))
  | regulator => exact answers_keeping (execRegulator s) (execRegulator_does s) ((done_answers _).ite (next_answers s))
  | pinReset => exact answers_keeping (execPinReset s) (execPinReset_does s) ((done_answers _).ite (next_answers s))
  | lowVoltage =>
    exact answers_keeping (execLowVoltage s) (execLowVoltage_does s) ((next_answers s).ite (done_answers _))
  | overvoltage =>
    exact answers_keeping (execOvervoltage s) (execOvervoltage_does s) ((next_answers s).ite (done_answers _))
  | overvoltageRelease =>
    exact answers_keeping (execOvervoltageRelease s) (execOvervoltageRelease_does s)
      ((next_answers s).ite (done_answers _))
  | vioLow => exact answers_keeping (execVioLow s) (execVioLow_does s) ((next_answers s).ite (done_answers _))
  | vioRelease =>
    exact answers_keeping (execVioRelease s) (execVioRelease_does s) ((next_answers s).ite (done_answers _))
  | registerWrite =>
    exact answers_keeping (execRegisterWrite _ _ s) (execRegisterWrite_does _ _ s) (hostAccess_answers ..)
  | lowVoltageRelease =>
    exact answers_keeping (execLowVoltageRelease s) (execLowVoltageRelease_does s)
      ((next_answers s).ite (done_answers _))
  | rcReturn => exact answers_keeping (execRcReturn s) (execRcReturn_does s)
  | supplyGateRelease => exact answers_keeping (execSupplyGateRelease s) (execSupplyGateRelease_does s)
  | chargePumpReady => exact answers_keeping (execChargePumpReady s) (execChargePumpReady_does s)
  | hv => exact answers_keeping (execHv s) (execHv_does s) ((next_answers s).ite (done_answers _))
  | hvRelease => exact answers_keeping (execHvRelease s) (execHvRelease_does s) ((next_answers s).ite (done_answers _))
  | protocolExc => exact answers_keeping (execProtocolExc s) (execProtocolExc_does s)
  | logSectorErase => exact answers_keeping (execLogSectorErase _ s) (execLogSectorErase_does _ s)
  | sourceInactive => exact answers_keeping (execSourceInactive _ _ s) (execSourceInactive_does _ _ s)

end Sys2Proof.Machine

namespace Sys2Proof.Machine

set_option Elab.async false

/-! ### Mode requests of the host (R585, R586) -/

/-- A part outside the frame stays as it is. -/
theorem Does.same {l : List Field} {s t : State} (h : Does l s t) (k : Field) (hk : k ∉ l := by decide) : k.same s t :=
  h.1.1 k hk

theorem reqWord_req {req : Nat} (key : Byte) (h : req < 8) : SYS_MODE_REQ.REQ.of (reqWord req key) = req := by
  have hk := key.isLt
  simp only [Fld.of, SYS_MODE_REQ.REQ, reqWord, u32, BitVec.toNat_ushiftRight, BitVec.toNat_ofNat, Nat.shiftRight_zero]
  omega

theorem reqWord_key {req : Nat} (key : Byte) (h : req < 8) : SYS_MODE_REQ.KEY.of (reqWord req key) = key.toNat := by
  have hk := key.isLt
  simp only [Fld.of, SYS_MODE_REQ.KEY, reqWord, u32, BitVec.toNat_ushiftRight, BitVec.toNat_ofNat,
    Nat.shiftRight_eq_div_pow]
  omega

/-- A refused mode request shows its reason and raises MODE_REFUSED; the mode and the pending request stay. -/
theorem modeRefuse_shows (s : State) (r : Nat) :
    (s.modeRefuse r).fld SYS_MODE.REASON = r % 16 ∧ (s.modeRefuse r).raised 0x0106 = true ∧
      (s.modeRefuse r).sys = s.sys ∧ (s.modeRefuse r).fld SYS_MODE.PEND = s.fld SYS_MODE.PEND := by
  have d := State.raise_does (s.put SYS_MODE.REASON r) 0x0106 0
  refine ⟨?_, State.raise_raised _ _ _ (by decide) (by decide), d.same .sys, ?_⟩
  · exact (d.fld (by decide)).trans (s.fld_put_same _ _ (by decide))
  · exact (d.fld (by decide)).trans (s.fld_put_other _ (by decide))

/-- An accepted request waits for its cut, and one that leaves STANDBY wakes the banks (R518). -/
def State.pendRequest (s : State) (req : Nat) : State :=
  let u : State := { s.put SYS_MODE.PEND req with sys := { s.sys with pendPath := .host } }
  if s.sys.mode == .standby && req != 5 then u.wakeAll else u

/-- The fate of a request of another mode than RESET. -/
theorem hostRequest_eq (s : State) {req : Nat} (key : Byte) (h0 : 0 < req) (h6 : req < 6) :
    s.hostRequest req key =
      if key ≠ 0 then s.refuse
      else if s.modeReason req ≠ 0 then s.modeRefuse (s.modeReason req) else s.pendRequest req := by
  have n0 : req ≠ 0 := by omega
  have n6 : req ≠ 6 := by omega
  have n7 : req ≠ 7 := by omega
  unfold State.hostRequest State.modeRequest
  simp only [reqWord_req key (by omega : req < 8), reqWord_key key (by omega : req < 8)]
  by_cases hk : key = 0
  · rw [if_neg (c := key ≠ 0) (fun h => h hk), if_neg (by simp [n0, n7, hk]), if_neg n6]
    by_cases hr : s.modeReason req = 0
    · rw [if_neg (c := s.modeReason req ≠ 0) (fun h => h hr), if_neg (by simp [hr])]
      rfl
    · rw [if_pos (c := s.modeReason req ≠ 0) hr, if_pos (by simp [hr])]
  · have hb : key.toNat ≠ 0 := fun h => hk (BitVec.eq_of_toNat_eq h)
    rw [if_pos (c := key ≠ 0) hk, if_pos (by simp [n6, hb])]

/-- Waking the banks touches neither SYS_MODE nor what SYS holds beside its registers. -/
theorem pendRequest_shows (s : State) {req : Nat} (h6 : req < 6) :
    (s.pendRequest req).fld SYS_MODE.PEND = req ∧ (s.pendRequest req).sys = { s.sys with pendPath := .host } := by
  have p : (s.put SYS_MODE.PEND req).fld SYS_MODE.PEND = req :=
    (s.fld_put_same _ _ (by decide)).trans (Nat.mod_eq_of_lt (by simp only [SYS_MODE.PEND]; omega))
  unfold State.pendRequest
  dsimp only
  split
  · have d := State.wakeAll_does { s.put SYS_MODE.PEND req with sys := { s.sys with pendPath := .host } }
    exact ⟨(d.fld (by decide)).trans p, d.same .sys⟩
  · exact ⟨p, rfl⟩

/-- A request of RESET is carried out with its key, and else refused with reason 10. -/
theorem hostRequest_reset (s : State) (key : Byte) :
    s.hostRequest 6 key = if key = 0xA5#8 then s.resetBy 6 else s.modeRefuse 10 := by
  have n : key.toNat = 0xA5 ↔ key = 0xA5#8 := ⟨fun h => BitVec.eq_of_toNat_eq h, fun h => h ▸ rfl⟩
  unfold State.hostRequest State.modeRequest
  simp [reqWord_req key (by decide : 6 < 8), reqWord_key key (by decide : 6 < 8), n]

/-- `i` is the command of a request of STANDBY, RUN, SAFE, SERVICE or SLEEP with code `req`. -/
structure ModeCommand (i : Byte → Instr) (req : Nat) : Prop where
  pos : 0 < req
  lt : req < 6
  exec_eq : ∀ key s, exec (i key) s =
    hostAccess s SYS_MODE_REQ (some (reqWord req key)) (fun s => s.hostRequest req key)
  does : ∀ key s t, exec (i key) s = .next t → Does Parts.reset s t

theorem standby_command : ModeCommand .modeReqStandby 1 :=
  ⟨by decide, by decide, fun _ _ => rfl, execModeReqStandby_does⟩

theorem run_command : ModeCommand .modeReqRun 2 := ⟨by decide, by decide, fun _ _ => rfl, execModeReqRun_does⟩

theorem safe_command : ModeCommand .modeReqSafe 3 := ⟨by decide, by decide, fun _ _ => rfl, execModeReqSafe_does⟩

theorem service_command : ModeCommand .modeReqService 4 :=
  ⟨by decide, by decide, fun _ _ => rfl, execModeReqService_does⟩

theorem sleep_command : ModeCommand .modeReqSleep 5 := ⟨by decide, by decide, fun _ _ => rfl, execModeReqSleep_does⟩

section
variable {i : Byte → Instr} {req : Nat} {s : State}

theorem ModeCommand.pends (c : ModeCommand i req) (h : s.hostOpen) (hr : s.modeReason req = 0) :
    Runs (i 0) s Parts.reset (fun t => t.fld SYS_MODE.PEND = req ∧ t.sys.pendPath = .host ∧
      t.sys.mode = s.sys.mode) := by
  refine runs_host (c.exec_eq 0 s) h (c.does 0 s) ?_
  rw [hostRequest_eq s 0 c.pos c.lt, if_neg (fun n => n rfl), if_neg (fun n => n hr)]
  obtain ⟨pend, sys⟩ := pendRequest_shows s c.lt
  exact ⟨pend, by simp [sys], by simp [sys]⟩

theorem ModeCommand.refused (c : ModeCommand i req) (h : s.hostOpen) (hr : s.modeReason req ≠ 0) :
    Runs (i 0) s Parts.reset (fun t => t.fld SYS_MODE.REASON = s.modeReason req % 16 ∧ t.raised 0x0106 = true ∧
      t.sys = s.sys ∧ t.fld SYS_MODE.PEND = s.fld SYS_MODE.PEND) := by
  refine runs_host (c.exec_eq 0 s) h (c.does 0 s) ?_
  rw [hostRequest_eq s 0 c.pos c.lt, if_neg (fun n => n rfl), if_pos hr]
  exact modeRefuse_shows s _

theorem ModeCommand.badKey (c : ModeCommand i req) (key : Byte) (h : s.hostOpen) (hk : key ≠ 0) :
    Runs (i key) s Parts.reset (fun t => t.sys = s.sys ∧ t.word SYS_MODE = s.word SYS_MODE ∧
      t.raised 0x0106 = s.raised 0x0106 ∧ s.spi.result ≤ t.spi.result ∧ 1 ≤ t.spi.result) := by
  refine runs_host (c.exec_eq key s) h (c.does key s) ?_
  rw [hostRequest_eq s key c.pos c.lt, if_pos hk]
  exact ⟨rfl, rfl, rfl, Nat.le_max_left .., Nat.le_max_right ..⟩

end

theorem exec_modeReqReset (key : Byte) (s : State) : exec (.modeReqReset key) s =
    hostAccess s SYS_MODE_REQ (some (reqWord 6 key)) (fun s => s.hostRequest 6 key) := rfl

theorem modeReqReset_refused (key : Byte) (s : State) (h : s.hostOpen) (hk : key ≠ 0xA5#8) :
    Runs (.modeReqReset key) s Parts.reset (fun t => t.fld SYS_MODE.REASON = 10 ∧ t.raised 0x0106 = true ∧
      t.sys = s.sys ∧ t.fld SYS_MODE.PEND = s.fld SYS_MODE.PEND) := by
  refine runs_host (exec_modeReqReset _ s) h (execModeReqReset_does key s) ?_
  rw [hostRequest_reset, if_neg hk]
  exact modeRefuse_shows s 10

theorem modeReqReset_resets (s : State) (h : s.hostOpen) :
    Runs (.modeReqReset 0xA5) s Parts.reset (fun t => t.sys.inReset = true ∧ t.sys.causes = 0x20 ∧
      t.keep.resets = s.keep.resets) := by
  refine runs_host (exec_modeReqReset _ s) h (execModeReqReset_does _ s) ?_
  obtain ⟨hp, -, -⟩ := h
  have out : s.sys.inReset = false := by
    simp only [State.powered, Bool.and_eq_true, Bool.not_eq_true'] at hp
    exact hp.1
  rw [hostRequest_reset, if_pos (c := (0xA5 : Byte) = 0xA5#8) rfl]
  unfold State.resetBy
  rw [if_neg (by simp [out])]
  refine ⟨rfl, rfl, ?_⟩
  show (if s.sys.mode == .sleep then s.keep else s.keep.discarded).resets = s.keep.resets
  split <;> rfl

/-- Settles O11: what the five requests have in common is `ModeCommand`, with one theorem for each fate of a request;
RESET has its own two. -/
theorem modeRequestTaken : Obligations.ModeRequestTaken :=
  ⟨fun _ => standby_command.pends, fun _ => run_command.pends, fun _ => safe_command.pends,
    fun _ => service_command.pends, fun _ => sleep_command.pends, fun _ => standby_command.refused,
    fun _ => run_command.refused, fun _ => safe_command.refused, fun _ => service_command.refused,
    fun _ => sleep_command.refused, fun key _ => standby_command.badKey key, fun key _ => run_command.badKey key,
    fun key _ => safe_command.badKey key, fun key _ => service_command.badKey key,
    fun key _ => sleep_command.badKey key, modeReqReset_refused, modeReqReset_resets⟩

end Sys2Proof.Machine

namespace Sys2Proof.Machine

set_option Elab.async false

/-! ### Bytes and words of the banks (R11, R499) -/

theorem bankOf_some {a : Nat} (h : a < 0x41000) : ∃ b, bankOf a = some b := by
  by_cases hb : a < 0x40000
  · exact ⟨_, if_pos hb⟩
  · exact ⟨16, (if_neg hb).trans (if_pos h)⟩

theorem bankOf_none {a : Nat} (h : 0x41000 ≤ a) : bankOf a = none :=
  (if_neg (by omega)).trans (if_neg (by omega))

theorem memByte_putByte (c : List Host.Cell) (a y : Nat) (v : Byte) :
    memByte (putByte c a v) y = if y = a then v else memByte c y := Store.get_put ..

/-- A word is its four bytes, the lowest first. -/
theorem bytesWord_wordBytes (v : Word) : bytesWord (wordBytes v) = v := by
  show v.extractLsb' 24 8 ++ v.extractLsb' 16 8 ++ v.extractLsb' 8 8 ++ v.extractLsb' 0 8 = v
  rw [BitVec.extractLsb'_append_extractLsb'_eq_extractLsb' (by rfl),
    BitVec.extractLsb'_append_extractLsb'_eq_extractLsb' (by rfl),
    BitVec.extractLsb'_append_extractLsb'_eq_extractLsb' (by rfl)]
  simp

/-- The cells `c'` are `c` with the word `v` written at `a`: it reads back, and no other byte has changed. -/
def WroteWord (c c' : List Host.Cell) (a : Nat) (v : Word) : Prop :=
  memWord c' a = v ∧ ∀ y, (y < a ∨ a + 4 ≤ y) → memByte c' y = memByte c y

theorem putWord_wrote (c : List Host.Cell) (a : Nat) (v : Word) : WroteWord c (putWord c a v) a v := by
  constructor
  · simp only [memWord, putWord, wordBytes, putBytes, memByte_putByte, Nat.add_assoc, Nat.reduceAdd, Nat.left_eq_add,
      Nat.add_left_cancel_iff, OfNat.ofNat_ne_zero, Nat.reduceEqDiff, if_false, if_true]
    exact bytesWord_wordBytes v
  · intro y hy
    have n0 : y ≠ a := by omega
    have n1 : y ≠ a + 1 := by omega
    have n2 : y ≠ a + 1 + 1 := by omega
    have n3 : y ≠ a + 1 + 1 + 1 := by omega
    simp only [putWord, wordBytes, putBytes, memByte_putByte, if_neg n0, if_neg n1, if_neg n2, if_neg n3]

/-- A word that was written at the same place before is overwritten. -/
theorem WroteWord.after {c c' c'' : List Host.Cell} {a : Nat} {v w : Word} (h : WroteWord c c' a w)
    (h' : WroteWord c' c'' a v) : WroteWord c c'' a v :=
  ⟨h'.1, fun y hy => (h'.2 y hy).trans (h.2 y hy)⟩

/-- A word apart from the one written stands. -/
theorem WroteWord.word_apart {c c' : List Host.Cell} {a b : Nat} {v : Word} (h : WroteWord c c' a v)
    (hb : b + 4 ≤ a ∨ a + 4 ≤ b) : memWord c' b = memWord c b := by
  unfold memWord
  rw [h.2 b (by omega), h.2 (b + 1) (by omega), h.2 (b + 2) (by omega), h.2 (b + 3) (by omega)]

/-! ### Writes of bank words (R461, R507, R521) -/

/-- A test window that is aborted has no part in the cells (R515). -/
theorem writeMem_cells (s : State) (a : Nat) (v : Word) :
    (s.writeMem a v).mem.cells = putWord s.mem.cells a v := by
  unfold State.writeMem
  dsimp only
  split
  · split
    · exact (State.abortWindow_does ..).same .cells
    · rfl
  · rfl

theorem writeMem_wrote (s : State) (a : Nat) (v : Word) : WroteWord s.mem.cells (s.writeMem a v).mem.cells a v :=
  writeMem_cells s a v ▸ putWord_wrote ..

/-- What a bank write leaves alone: of the serial port all but BUSY_N, and the clock and the values that wait. -/
structure BankStep (s t : State) : Prop where
  spi : ∃ b, t.spi = { s.spi with busyN := b }
  clk : t.clk = s.clk
  waiting : t.waiting = s.waiting

theorem BankStep.refl (s : State) : BankStep s s := ⟨⟨_, rfl⟩, rfl, rfl⟩

theorem BankStep.trans {s t u : State} (h : BankStep s t) (h' : BankStep t u) : BankStep s u := by
  obtain ⟨b, hb⟩ := h.spi
  obtain ⟨b', hb'⟩ := h'.spi
  exact ⟨⟨b', by rw [hb', hb]⟩, h'.clk.trans h.clk, h'.waiting.trans h.waiting⟩

theorem Does.bankStep {l : List Field} {s t : State} (h : Does l s t)
    (hl : l.all (fun k => k != .spi && k != .clk && k != .waiting) = true := by rfl) : BankStep s t := by
  have out : ∀ k ∈ l, (k ≠ .spi ∧ k ≠ .clk) ∧ k ≠ .waiting := fun k hk => by
    simpa [and_assoc] using List.all_eq_true.mp hl k hk
  exact ⟨⟨s.spi.busyN, h.same .spi (fun m => (out _ m).1.1 rfl)⟩, h.same .clk (fun m => (out _ m).1.2 rfl),
    h.same .waiting (fun m => (out _ m).2 rfl)⟩

theorem collide_bankStep (s : State) : BankStep s s.collide := by
  have d := State.raise_does ((({ s with spi := { s.spi with busyN := s.spi.busyN || s.sys.mode != Mode.boot } }).bump
    SPI_HERR.MB_COLL 1)) 0x0D07 0
  exact ⟨⟨_, d.same .spi⟩, d.same .clk, d.same .waiting⟩

/-- Port A's word goes first, so that it is the access's own that stands (R461). -/
theorem writeBank_wrote (s : State) (b a : Nat) (v : Word) (x : Access) :
    WroteWord s.mem.cells (s.writeBank b a v x).mem.cells a v ∧ BankStep s (s.writeBank b a v x) := by
  have wake : BankStep s (s.wakeBank b) ∧ (s.wakeBank b).mem.cells = s.mem.cells :=
    ⟨(State.wakeBank_does s b).bankStep, (State.wakeBank_does s b).same .cells⟩
  have first : BankStep (s.wakeBank b) ((s.wakeBank b).collided a x.coll) ∧
      (((s.wakeBank b).collided a x.coll).mem.cells = s.mem.cells ∨
        ∃ w, WroteWord s.mem.cells ((s.wakeBank b).collided a x.coll).mem.cells a w) := by
    unfold State.collided
    split
    · split
      · rename_i w _ _
        refine ⟨(State.portA_does ..).bankStep.trans (collide_bankStep _), .inr ⟨w, ?_⟩⟩
        have c : ((s.wakeBank b).portA a w).collide.mem.cells = ((s.wakeBank b).writeMem a w).mem.cells :=
          (State.collide_does _).same .cells
        rw [c, ← wake.2]
        exact writeMem_wrote ..
      · exact ⟨.refl _, .inl wake.2⟩
    · exact ⟨.refl _, .inl wake.2⟩
  have last := writeMem_wrote ((s.wakeBank b).collided a x.coll) a v
  have both : WroteWord s.mem.cells (((s.wakeBank b).collided a x.coll).writeMem a v).mem.cells a v := by
    rcases first.2 with h | ⟨w, h⟩
    · exact h ▸ last
    · exact h.after last
  have step := (wake.1.trans first.1).trans (State.writeMem_does ((s.wakeBank b).collided a x.coll) a v).bankStep
  unfold State.writeBank
  dsimp only
  split
  · exact ⟨both, step.trans (State.incr_does _ MEM_MB_CNT.B_WR (Field.has_one MEM_MB_CNT)).bankStep⟩
  · exact ⟨both, step⟩

/-- A write below 0x4_1000 reaches a bank or the mailbox (R15, R499). -/
theorem busWrite_wrote (s : State) (p : Path) {a : Nat} (v : Word) (x : Access) (h : a < 0x41000) :
    WroteWord s.mem.cells (s.busWrite p a v x).mem.cells a v ∧ BankStep s (s.busWrite p a v x) := by
  obtain ⟨b, hb⟩ := bankOf_some h
  have e : s.busWrite p a v x = s.writeBank b a v x := by unfold State.busWrite; rw [hb]
  exact e ▸ writeBank_wrote s b a v x

end Sys2Proof.Machine

namespace Sys2Proof.Machine

set_option Elab.async false

/-! ### Writes of registers (R18 to R20) -/

section
variable (s : State) (r : RegRow) (p : Path) {a : Nat} (v : Word)

/-- What the register at `a` with row `r` shows after a write of `v` by its access codes (R18). -/
def RegRow.written (r : RegRow) (w v : Word) : Word :=
  ((w &&& ~~~BitVec.ofNat 32 (r.rw + r.cmt)) ||| (v &&& BitVec.ofNat 32 (r.rw + r.cmt))) &&& ~~~(v &&&
    BitVec.ofNat 32 r.w1c)

theorem plainWrite_eq : s.plainWrite r a v =
    if r.cut = 0 then s.setWord a (r.written (s.word a) v) else (s.setWord a (r.written (s.word a) v)).await a v := rfl

theorem word_plainWrite_same : (s.plainWrite r a v).word a = r.written (s.word a) v := by
  rw [plainWrite_eq]
  split
  · exact s.word_setWord_same ..
  · exact s.word_setWord_same ..

theorem word_plainWrite_other {y : Nat} (h : y ≠ a) : (s.plainWrite r a v).word y = s.word y := by
  rw [plainWrite_eq]
  split
  · exact s.word_setWord_other _ h
  · exact s.word_setWord_other _ h

theorem waiting_plainWrite (h : regRow a = some r) : (s.plainWrite r a v).waiting =
    if r.cut = 0 then s.waiting else Assoc.put s.waiting a (v &&& BitVec.ofNat 32 r.cut) := by
  rw [plainWrite_eq]
  split
  · rfl
  · simp [State.await, cutMask, h]

theorem spi_plainWrite : (s.plainWrite r a v).spi = s.spi := by
  rw [plainWrite_eq]
  split <;> rfl

theorem checkedWrite_ok (hr : regRow a = some r) (hi : s.illegal p a v = false) (hc : s.clearHeld a v = false) :
    s.checkedWrite p a v = s.plainWrite r a v := by
  simp [State.checkedWrite, hr, hi, hc]

theorem checkedWrite_refused (hr : regRow a = some r) (h : s.illegal p a v = true ∨ s.clearHeld a v = true) :
    s.checkedWrite p a v = s.refuse := by
  simp [State.checkedWrite, hr, h]

/-- Only fault registers have flags that refuse clearing (R66, R283, R346, R443, R497, R600). -/
theorem clearHeld_of_not_fault
    (h : a ∉ [SYS_FAULT, CLK_FAULT, MOD_FAULT, PWR_FAULT, CAN_FAULT, CHN_FAULT]) : s.clearHeld a v = false := by
  have none : ∀ bit, s.flagHolds a bit = false := by
    intro bit
    simp only [List.mem_cons, List.not_mem_nil, or_false, not_or] at h
    obtain ⟨h1, h2, h3, h4, h5, h6⟩ := h
    simp only [State.flagHolds, if_neg h1, if_neg h2, if_neg h3, if_neg h4, if_neg h5, if_neg h6]
  simp [State.clearHeld, none]

/-- The write of the register at `a` starts no action of its own, and the variant has the register. -/
structure State.NoAction (s : State) (p : Path) (a : Nat) (v : Word) (x : Access) : Prop where
  present : s.absent a = false
  top : s.actTop p a v = none
  motion : s.actMotion p a v = none
  analog : s.actAnalog p a v x = none
  links : s.actLinks p a v x = none

/-- A register whose write starts no action is written by its access codes (R18). -/
theorem busWrite_plain {x : Access} (ha : 0x100000 ≤ a) (h : s.NoAction p a v x) :
    s.busWrite p a v x = s.checkedWrite p a v := by
  unfold State.busWrite
  rw [bankOf_none (by omega)]
  simp [State.writeReg, h.present, h.top, h.motion, h.analog, h.links, if_neg (by omega : ¬a < 0x100000)]

theorem mwFlush_idle (h : s.spi.writes = []) : s.mwFlush = s := by
  simp [State.mwFlush, State.when, h]

end

end Sys2Proof.Machine

namespace Sys2Proof.Machine

set_option Elab.async false

/-! ### Register writes outside a frame (R19, R20, R40, R499, R502) -/

theorem and_ones (v : Word) : v &&& 0xFFFFFFFF#32 = v := BitVec.and_allOnes

section
variable {s : State}

/-- The effect of REGISTER_WRITE on the aligned address (R15). -/
theorem registerWrite_runs {P : State → Prop} (a : BitVec 24) (v : Word) (h : s.hostOpen)
    (hP : P ((s.busWrite .host (a.toNat / 4 * 4) v {}).mwFlush).settle) : Runs (.registerWrite a v) s Parts.bus P :=
  runs_host (f := fun s => (s.busWrite .host (a.toNat / 4 * 4) v {}).mwFlush) (x := {}) rfl h
    (execRegisterWrite_does a v s) hP

theorem spliceAt_noAction (s : State) (v : Word) : s.NoAction .host REEL_SPLICE_AT v {} := ⟨rfl, rfl, rfl, rfl, rfl⟩

theorem registerWrite_spliceAt (v : Word) (h : s.hostOpen) :
    Runs (.registerWrite 0x102014#24 v) s Parts.bus (fun t => t.word REEL_SPLICE_AT = v ∧ t.waiting = s.waiting) := by
  have row : regRow REEL_SPLICE_AT = some ⟨0x102014, 0x0, 1, 0, 0xFFFFFFFF, 0, 0, 0, 0⟩ := by decide
  have e : s.busWrite .host REEL_SPLICE_AT v {} = _ :=
    (busWrite_plain s .host v (by decide) (spliceAt_noAction s v)).trans
      (checkedWrite_ok s _ .host v row rfl (clearHeld_of_not_fault s v (by decide)))
  have d := State.mwFlush_does (s.busWrite .host REEL_SPLICE_AT v {})
  refine registerWrite_runs 0x102014#24 v h ⟨(d.word (by decide)).trans ?_, (d.same .waiting).trans ?_⟩
  · rw [e, word_plainWrite_same]
    simp [RegRow.written, and_ones]
  · rw [e, waiting_plainWrite s _ v row]
    rfl

theorem registerWrite_plain {a : BitVec 24} {v : Word} {x : Nat} {r : RegRow} (h : s.hostOpen)
    (hx : x = a.toNat / 4 * 4) (hb : 0x100000 ≤ x) (hn : s.NoAction .host x v {}) (hr : regRow x = some r)
    (hw : s.spi.writes = []) (hi : s.illegal .host x v = false) (hc : s.clearHeld x v = false) :
    Runs (.registerWrite a v) s Parts.bus (fun t => t.word x = r.written (s.word x) v ∧
      (t.waiting = if r.cut = 0 then s.waiting else Assoc.put s.waiting x (v &&& BitVec.ofNat 32 r.cut)) ∧
      ∀ y : Nat, y ≠ x → t.word y = s.word y) := by
  subst hx
  refine registerWrite_runs a v h ?_
  rw [busWrite_plain s .host v hb hn, checkedWrite_ok s r .host v hr hi hc,
    mwFlush_idle _ (by rw [spi_plainWrite]; exact hw)]
  exact ⟨word_plainWrite_same s r v, waiting_plainWrite s r v hr, fun y hy => word_plainWrite_other s r v hy⟩

theorem registerWrite_refused {a : BitVec 24} {v : Word} {x : Nat} {r : RegRow} (h : s.hostOpen)
    (hx : x = a.toNat / 4 * 4) (hb : 0x100000 ≤ x) (hn : s.NoAction .host x v {}) (hr : regRow x = some r)
    (hw : s.spi.writes = []) (hi : s.illegal .host x v = true ∨ s.clearHeld x v = true) :
    Runs (.registerWrite a v) s Parts.bus (fun t => t.regs = s.regs ∧ t.waiting = s.waiting ∧
      t.spi.result = max s.spi.result 1) := by
  subst hx
  refine registerWrite_runs a v h ?_
  rw [busWrite_plain s .host v hb hn, checkedWrite_refused s r .host v hr hi, mwFlush_idle s.refuse hw]
  exact ⟨rfl, rfl, rfl⟩

theorem registerWrite_bank (a : BitVec 24) (v : Word) (h : s.hostOpen) (ha : a.toNat < 0x41000) :
    Runs (.registerWrite a v) s Parts.bus (fun t => memWord t.mem.cells (a.toNat / 4 * 4) = v ∧
      ∀ x : Nat, (x < a.toNat / 4 * 4 ∨ a.toNat / 4 * 4 + 4 ≤ x) → t.byteAt x = s.byteAt x) := by
  refine registerWrite_runs a v h ?_
  have w := (busWrite_wrote s .host v {} (by omega : a.toNat / 4 * 4 < 0x41000)).1
  have e : ((s.busWrite .host (a.toNat / 4 * 4) v {}).mwFlush).mem.cells = _ := (State.mwFlush_does _).same .cells
  rw [← e] at w
  exact w

/-- The row of every ownership register (R526): its fields all wait for the cut. -/
def ownRow : RegRow := ⟨0x10D100, 0x10, 17, 0x10001, 0, 0x30F, 0, 0, 0⟩

theorem regRow_own : ∀ b : Fin 17, regRow (MEM_B_OWN b) = some ownRow := by decide

theorem clearHeld_own (s : State) (b : Fin 17) (v : Word) : s.clearHeld (MEM_B_OWN b) v = false := by
  refine clearHeld_of_not_fault s v ?_
  revert b
  decide

theorem ownWrite_waits (b : Fin 17) (v : Word) (h : s.hostOpen) (hi : s.illegal .host (MEM_B_OWN b) v = false) :
    Runs (.ownWrite b v) s [.regs, .waiting, .intg, .spi] (fun t => t.waiting =
      Assoc.put s.waiting (MEM_B_OWN b) (v &&& cutMask (MEM_B_OWN b)) ∧
      t.word (MEM_B_OWN b) = s.word (MEM_B_OWN b)) := by
  refine runs_host (a := MEM_B_OWN b) (v := some v) (f := fun s => s.checkedWrite .host (MEM_B_OWN b) v) (x := {}) rfl h
    (execOwnWrite_does b v s) ?_
  have mask : cutMask (MEM_B_OWN b) = BitVec.ofNat 32 ownRow.cut := by simp [cutMask, regRow_own b]
  rw [checkedWrite_ok s ownRow .host v (regRow_own b) hi (clearHeld_own s b v), mask]
  refine ⟨waiting_plainWrite s ownRow v (regRow_own b), (word_plainWrite_same s ownRow v).trans ?_⟩
  simp [RegRow.written, ownRow, and_ones]

theorem ownWrite_refused (b : Fin 17) (v : Word) (h : s.hostOpen) (hi : s.illegal .host (MEM_B_OWN b) v = true) :
    Runs (.ownWrite b v) s [.regs, .waiting, .intg, .spi] (fun t => t.waiting = s.waiting ∧ t.regs = s.regs ∧
      t.spi.result = max s.spi.result 1) := by
  refine runs_host (a := MEM_B_OWN b) (v := some v) (f := fun s => s.checkedWrite .host (MEM_B_OWN b) v) (x := {}) rfl h
    (execOwnWrite_does b v s) ?_
  rw [checkedWrite_refused s ownRow .host v (regRow_own b) (.inl hi)]
  exact ⟨rfl, rfl, rfl⟩

/-! ### Stale stamps (R40) -/

theorem stampStale_latch (j : Fin 8) (hp : s.powered = true) (hj : s.pos.stamped.getLsbD j = true) :
    Runs (.stampStale (.latch j)) s [.row POS_LT_STAT, .intg, .can] (fun t => t.flag (POS_LT_STAT.STALE j) = true) := by
  refine runs_of (f := fun s => if s.pos.stamped.getLsbD j then s.put (POS_LT_STAT.STALE j) 1 else s) rfl hp
    (execStampStale_does (.latch j) s) ?_
  rw [if_pos hj]
  have one : (s.put (POS_LT_STAT.STALE j) 1).fld (POS_LT_STAT.STALE j) = 1 :=
    s.fld_put_same _ 1 (by simp [POS_LT_STAT.STALE])
  exact beq_iff_eq.mpr one

/-- STALE is bit 7 of the control word of a receive buffer. -/
theorem stale_bit (s : State) {n : Nat} (hn : n < s.can.rbs.length) :
    (Tbl.get {} (Tbl.mod s.can.rbs n (fun b => { b with ctl := b.ctl ||| 0x80 })) n).ctl.getLsbD 7 = true := by
  rw [Tbl.get_mod_same _ _ _ _ hn]
  simp

theorem stampStale_buffer (n : Fin 16) (hp : s.powered = true) (hl : s.can.rbs.length = 17) :
    Runs (.stampStale (.rb n)) s [.row POS_LT_STAT, .intg, .can] (fun t =>
      (Tbl.get {} t.can.rbs n.val).ctl.getLsbD 7 = true) :=
  runs_of (f := fun s => { s with can := { s.can with
    rbs := Tbl.mod s.can.rbs n (fun b => { b with ctl := b.ctl ||| 0x80 }) } }) rfl hp
    (execStampStale_does (.rb n) s) (stale_bit s (by omega))

theorem stampStale_priority (hp : s.powered = true) (hl : s.can.rbs.length = 17) :
    Runs (.stampStale .hpb) s [.row POS_LT_STAT, .intg, .can] (fun t =>
      (Tbl.get {} t.can.rbs 16).ctl.getLsbD 7 = true) :=
  runs_of (f := fun s => { s with can := { s.can with
    rbs := Tbl.mod s.can.rbs 16 (fun b => { b with ctl := b.ctl ||| 0x80 }) } }) rfl hp
    (execStampStale_does .hpb s) (stale_bit s (by omega))

end

/-- Settles O16, one theorem for each clause. -/
theorem registerWrites : Obligations.RegisterWrites :=
  ⟨fun v _ h => registerWrite_spliceAt v h,
    fun _ _ _ _ _ h hx hb h1 h2 h3 h4 h5 hr hw hi hc =>
      registerWrite_plain h hx hb ⟨h1, h2, h3, h4, h5⟩ hr hw hi hc,
    fun _ _ _ _ _ h hx hb h1 h2 h3 h4 h5 hr hw hi => registerWrite_refused h hx hb ⟨h1, h2, h3, h4, h5⟩ hr hw hi,
    fun a v _ h ha => registerWrite_bank a v h ha,
    fun b v _ h hi => ownWrite_waits b v h hi,
    fun b v _ h hi => ownWrite_refused b v h hi,
    fun j _ hp hj => stampStale_latch j hp hj,
    fun n _ hp hl => stampStale_buffer n hp hl,
    fun _ hp hl => stampStale_priority hp hl⟩

end Sys2Proof.Machine

namespace Sys2Proof.Machine

set_option Elab.async false

/-! ### No write begins the hold of host accesses (R54) -/

theorem Does.holding {l : List Field} {s t : State} (h : Does l s t) (hk : .clk ∉ l := by decide) :
    t.holding = s.holding := by
  unfold State.holding
  rw [show t.clk = s.clk from h.same .clk hk]

/-- A reset clears the whole of D1's clock state, and with it the cuts. -/
theorem resetBy_unheld {s : State} (c : Nat) (h : s.holding = false) : (s.resetBy c).holding = false := by
  unfold State.resetBy
  dsimp only
  split
  · exact h
  · rfl

theorem modeRequest_unheld {s : State} (p : Path) (v : Word) (h : s.holding = false) :
    (s.modeRequest p v).holding = false := by
  unfold State.modeRequest
  dsimp only
  split
  · exact h
  · split
    · split
      · exact resetBy_unheld _ h
      · exact (State.modeRefuse_does ..).holding.trans h
    · split
      · exact (State.modeRefuse_does ..).holding.trans h
      · split
        · exact (State.wakeAll_does _).holding.trans h
        · exact h

theorem writeXtalRetry_holding (s : State) : s.writeXtalRetry.holding = s.holding := by
  unfold State.writeXtalRetry
  split
  · rfl
  · split <;> rfl

theorem writeXtalEn_holding (s : State) (en : Bool) : (s.writeXtalEn en).holding = s.holding := by
  unfold State.writeXtalEn
  dsimp only
  split
  · split <;> rfl
  · split
    · rfl
    · split <;> rfl

/-- The crystal's switches are no part of the cut. -/
theorem writeClkCtrl_holding (s : State) (v : Word) : (s.writeClkCtrl v).holding = s.holding := by
  unfold State.writeClkCtrl
  split
  · rfl
  · dsimp only
    rw [when_pres State.holding _ _ rfl]
    split
    · exact when_pres State.holding _ _ (writeXtalRetry_holding s)
    · exact (writeXtalEn_holding ..).trans (when_pres State.holding _ _ (writeXtalRetry_holding s))

theorem actTop_unheld {s t : State} {p : Path} {a : Nat} {v : Word} (h : s.holding = false)
    (ht : s.actTop p a v = some t) : t.holding = false := by
  unfold State.actTop at ht
  split at ht
  · exact Option.some.inj ht ▸ modeRequest_unheld p v h
  split at ht
  · exact Option.some.inj ht ▸ (writeClkCtrl_holding s v).trans h
  split at ht
  · exact Option.some.inj ht ▸ (State.clearClkFault_does s v).holding.trans h
  split at ht
  · exact Option.some.inj ht ▸ (State.writeReelCtrl_does s v).holding.trans h
  split at ht
  · exact Option.some.inj ht ▸ (State.writeSplice_does s v).holding.trans h
  split at ht
  · exact Option.some.inj ht ▸ (State.writeEngCtrl_does s v).holding.trans h
  · exact nomatch ht

theorem writeReg_unheld {s : State} (p : Path) (a : Nat) (v : Word) (x : Access) (h : s.holding = false) :
    (s.writeReg p a v x).holding = false := by
  unfold State.writeReg
  split
  · exact h
  · split
    · exact actTop_unheld h (by assumption)
    · exact (State.actMotion_does s p a v _ (by assumption)).holding.trans h
    · exact (State.actAnalog_does s p a v x _ (by assumption)).holding.trans h
    · exact (State.actLinks_does s p a v x _ (by assumption)).holding.trans h
    · exact (State.checkedWrite_does ..).holding.trans h

theorem busWrite_unheld {s : State} (p : Path) (a : Nat) (v : Word) (x : Access) (h : s.holding = false) :
    (s.busWrite p a v x).holding = false := by
  unfold State.busWrite
  split
  · exact (State.writeBank_does ..).holding.trans h
  · split
    · exact h
    · exact writeReg_unheld p a v x h

/-! ### The opening of a host frame (R449 to R453) -/

/-- The device sees SEL0_N fall, and opens a frame: it is powered, in no daisy chain, no frame is open, the link is on,
and the port masters no bus (R449, R471). -/
structure State.FrameReady (s : State) : Prop where
  powered : s.powered = true
  daisy : s.flag SPI_CFG.DAISY = false
  closed : s.spi.frame = none
  heard : s.spi.ignored = false
  link : s.hostLink = true
  slave : s.mastering = false
  noWindow : s.inChainWindow = false

/-- What the status byte reported is reported no more (R453). -/
def Reported (s t : State) : Prop :=
  t.spi.status = s.statusByte ∧ t.spi.result = 0 ∧ t.spi.mwErr = false ∧ t.spi.frameErr = false

section
variable {s : State}

theorem hostFrame_opens (h : s.FrameReady) (f : State → State) : s.hostFrame f = f s.frameOpen := by
  simp [State.hostFrame, h.closed, h.heard, h.link, h.slave, h.noWindow]

/-- A frame of a device outside a daisy chain runs to the settled result of its content. -/
theorem frame_runs {i : Instr} {l : List Field} {P : State → Prop} {f : State → State} (h : s.FrameReady)
    (he : exec i s = whenPowered s (fun s => if s.flag SPI_CFG.DAISY then s else s.hostFrame f))
    (hd : ∀ t, exec i s = .next t → Does l s t) (hP : P (f s.frameOpen).settle) : Runs i s l P := by
  refine runs_of he h.powered hd ?_
  rw [if_neg (by simp [h.daisy]), hostFrame_opens h]
  exact hP

/-- NOP and the illegal command bytes. -/
theorem nop_runs {c : Byte} {P : State → Prop} (h : s.FrameReady) (hc : c = 0 ∨ hostCommand c = false)
    (hP : P (if c = 0 then s.frameOpen else s.frameOpen.illegalFrame).settle) :
    Runs (.nop c) s [.one SPI_STAT, .one SPI_HERR, .one SPI_MW_STAT, .one MGT_LOG_STAT,
    .faults, .reel, .intg, .mgt, .can, .spi, .chn, .drawn] P := by
  refine runs_of (f := fun s => if s.flag SPI_CFG.DAISY || (c != 0 && hostCommand c) then s
    else s.hostFrame (fun s => if c = 0 then s else s.illegalFrame)) rfl h.powered (execNop_does c s) ?_
  have n : ¬(s.flag SPI_CFG.DAISY || (c != 0 && hostCommand c)) = true := by
    rcases hc with rfl | hc
    · simp [h.daisy]
    · simp [h.daisy, hc]
  rw [if_neg n, hostFrame_opens h]
  exact hP

theorem statusByte_bits (a b c d : Bool) (r : Nat) :
    let v : Byte := BitVec.ofNat 8 (0x80 + a.toNat * 0x20 + b.toNat * 0x10 + c.toNat * 8 + d.toNat * 4 + r % 4)
    v.getLsbD 7 = true ∧ v.getLsbD 6 = false ∧ v.getLsbD 5 = a ∧ v.getLsbD 4 = b ∧ v.getLsbD 3 = c ∧ v.getLsbD 2 = d ∧
      v.toNat % 4 = r % 4 := by
  have finite : ∀ (a b c d : Bool) (k : Fin 4),
      let v : Byte := BitVec.ofNat 8 (0x80 + a.toNat * 0x20 + b.toNat * 0x10 + c.toNat * 8 + d.toNat * 4 + k.val)
      v.getLsbD 7 = true ∧ v.getLsbD 6 = false ∧ v.getLsbD 5 = a ∧ v.getLsbD 4 = b ∧ v.getLsbD 3 = c ∧
        v.getLsbD 2 = d ∧ v.toNat % 4 = k.val := by decide
  exact finite a b c d ⟨r % 4, Nat.mod_lt _ (by decide)⟩

/-- An illegal frame is marked, counted and raised (R451), and the next status byte reads 1 at least. -/
theorem illegalFrame_shows (s : State) (f : HostFrame) (hf : s.spi.frame = some f) :
    s.illegalFrame.spi = { s.spi with frame := some { f with illegal := true }, result := max s.spi.result 1 } ∧
      s.illegalFrame.raised 0x0D02 = true ∧
      s.illegalFrame.fld SPI_HERR.ILLEGAL = min (s.fld SPI_HERR.ILLEGAL + 1) 255 := by
  have d := State.raise_does ((s.modFrame (fun f => { f with illegal := true })).bump SPI_HERR.ILLEGAL 1) 0x0D02 0
  have spi : (((s.modFrame (fun f => { f with illegal := true })).bump SPI_HERR.ILLEGAL 1).raise 0x0D02).spi =
      { s.spi with frame := some { f with illegal := true } } :=
    (d.same .spi).trans (by simp [State.modFrame, hf])
  refine ⟨?_, State.raise_raised _ _ _ (by decide) (by decide), (d.fld (by decide)).trans ?_⟩
  · unfold State.illegalFrame State.outcome
    rw [spi]
  · have small : min (s.fld SPI_HERR.ILLEGAL + 1) 255 < 256 := by omega
    exact (State.fld_put_same _ _ _ (by decide)).trans (Nat.mod_eq_of_lt small)

/-- What an illegal frame shows as the first of its content. -/
theorem illegal_first (s : State) : s.frameOpen.illegalFrame.spi.frame.any (fun f => f.illegal) = true ∧
    s.frameOpen.illegalFrame.raised 0x0D02 = true ∧ s.frameOpen.illegalFrame.spi.result = 1 ∧
    s.frameOpen.illegalFrame.fld SPI_HERR.ILLEGAL = min (s.fld SPI_HERR.ILLEGAL + 1) 255 ∧
    s.frameOpen.illegalFrame.spi.status = s.statusByte ∧ s.frameOpen.illegalFrame.spi.out = [] := by
  obtain ⟨spi, raised, count⟩ := illegalFrame_shows s.frameOpen {} rfl
  rw [spi]
  exact ⟨rfl, raised, rfl, count, rfl, rfl⟩

end

end Sys2Proof.Machine

namespace Sys2Proof.Machine

set_option Elab.async false

/-! ### What a frame shows of a register (R20 to R22, R454) -/

/-- The state in an open frame: the frame itself, and the words given so far. -/
def State.during (s : State) (f : HostFrame) (o : List Word) : State :=
  { s with spi := { s.spi with frame := some f, out := o } }

theorem frameOpen_modFrame (s : State) (g : HostFrame → HostFrame) :
    s.frameOpen.modFrame g = s.frameOpen.during (g {}) [] := rfl

theorem during_giveWord (s : State) (f : HostFrame) (o : List Word) (a : Nat) (w : Word) :
    (s.during f o).giveWord true a w = s.during f (o ++ [w]) := rfl

section
variable (s : State) (f g : HostFrame) (o q : List Word) (a : Nat)

theorem during_shownTop : (s.during f o).shownTop a = (s.during g q).shownTop a := rfl

theorem during_shownMotion : (s.during f o).shownMotion a = (s.during g q).shownMotion a := rfl

theorem during_shownRest : (s.during f o).shownRest a = (s.during g q).shownRest a := rfl

/-- A register shows the same whatever the open frame's command, and whatever words it has given. -/
theorem during_shown : ((s.during f o).shown a).1 = ((s.during g q).shown a).1 := by
  unfold State.shown
  rw [during_shownTop s f g o q, during_shownMotion s f g o q, during_shownRest s f g o q,
    show (s.during f o).absent a = (s.during g q).absent a from rfl]
  split
  · rfl
  · split
    · rfl
    · split <;> rfl

/-- Showing a register draws an open value for GPM_LEVEL alone. -/
theorem shown_state (h : a ≠ GPM_LEVEL) : (s.shown a).2 = s := by
  unfold State.shown
  rw [if_neg h]
  split
  · rfl
  · split <;> rfl

/-! ### Reads of words (R452, R454) -/

/-- The register at `a` is read as it stands: it lies in no window, no CAN buffer, and is not the slate (R15, R445,
R462). -/
structure PlainRead (a : Nat) : Prop where
  high : 0x100000 ≤ a
  window : a < 0x10C800 ∨ 0x10D000 ≤ a
  tb : canWord 0x10B100 3 a = none
  rb : canWord 0x10B400 17 a = none
  slate : a ≠ CLK_SLATE_LO
  row : (regRow a).isSome = true

variable {a}

theorem busRead_plain (p : Path) (x : Access) (h : PlainRead a) :
    s.busRead p a x = (some (s.readReg p a).1, (s.readReg p a).2) := by
  obtain ⟨high, window, tb, rb, slate, row⟩ := h
  have noflash : ¬(0x80000 ≤ a && a < 0x100000) = true := by simp; omega
  have nowindow : ¬(0x10C800 ≤ a && a < 0x10D000) = true := by simp; omega
  unfold State.busRead
  simp only [bankOf_none (by omega : 0x41000 ≤ a), if_neg noflash, if_neg nowindow, tb, rb, if_neg slate, row, if_true]

theorem readReg_shown (p : Path) (h : rsPlace a = none) : s.readReg p a = s.shown a := by
  simp [State.readReg, h]

/-- A word of a bank without errors, read with nothing else going on (R461, R507). -/
theorem busRead_bank (p : Path) (h : a < 0x41000) (hf : s.mem.flaws = []) :
    ∃ u, s.busRead p a {} = (some (memWord s.mem.cells a), u) ∧ Does [.row MEM_B_STAT, .mem] s u ∧
      u.mem.flaws = [] := by
  obtain ⟨b, hb⟩ := bankOf_some h
  have wake := State.wakeBank_does s b
  have cells : (s.wakeBank b).mem.cells = s.mem.cells := wake.same .cells
  have flaws : (s.wakeBank b).mem.flaws = [] := by unfold State.wakeBank; split <;> exact hf
  let u : State := { s.wakeBank b with mem := { (s.wakeBank b).mem with
    corrected := (s.wakeBank b).mem.corrected.filter (fun x => x != a) } }
  have e : (s.wakeBank b).readMem a = (memWord (s.wakeBank b).mem.cells a, false, u) := by
    simp [State.readMem, State.flawAt, flaws, Assoc.get, u]
  refine ⟨u, ?_, ?_, flaws⟩
  · have r : s.readBank b a {} = (memWord s.mem.cells a, u) := by
      show (((s.wakeBank b).readMem a).1, ((s.wakeBank b).readMem a).2.2) = _
      rw [e, cells]
    unfold State.busRead
    simp only [hb, r]
  · exact Does.step (Does.mem _ _ rfl rfl) rfl (wake.weaken rfl)

end

/-! ### The words of a read (R454 to R456) -/

/-- A word that is there in time and not held is given, where the host clocks it in full. -/
theorem readWords_cons {t u : State} {q : Asked} {w left : Nat} {v : Word} (l : List (Asked × Nat))
    (inTime : w ≤ t.fld SPI_CFG.WMAX) (free : t.holding = false) (here : t.mcAway q.addr = false) (pos : 0 < left)
    (hu : t.busRead .host q.addr q.acc = (some v, u)) :
    t.readWords ((q, w) :: l) left = (u.giveWord true q.addr v).readWords l (left - 1) := by
  rw [State.readWords, if_neg (by omega)]
  simp [free, here, hu, pos]

/-- Words of which each is there in time and none is held are given in their order: `I o` holds of the state after the
words `o`, and `val` is what each word reads. -/
theorem readWords_gives {I : List Word → State → Prop} (val : Asked → Word) {l : List (Asked × Nat)}
    (h : ∀ p ∈ l, ∀ o t, I o t → p.2 ≤ t.fld SPI_CFG.WMAX ∧ t.holding = false ∧ t.mcAway p.1.addr = false ∧
      ∃ u, t.busRead .host p.1.addr p.1.acc = (some (val p.1), u) ∧
        I (o ++ [val p.1]) (u.giveWord true p.1.addr (val p.1)))
    {o : List Word} {t : State} {left : Nat} (hl : l.length ≤ left) (ht : I o t) :
    I (o ++ l.map (fun p => val p.1)) (t.readWords l left) := by
  induction l generalizing o t left with
  | nil => simpa [State.readWords] using ht
  | cons p l ih =>
    obtain ⟨inTime, free, here, u, hu, hI⟩ := h p List.mem_cons_self o t ht
    simp only [List.length_cons] at hl
    rw [readWords_cons l inTime free here (by omega) hu]
    have rest := ih (left := left - 1) (fun p hp => h p (List.mem_cons_of_mem _ hp)) (by omega) hI
    simpa using rest

end Sys2Proof.Machine

namespace Sys2Proof.Machine

set_option Elab.async false

/-! ### Reading frames (R450, R454 to R456) -/

/-- The open frame of a read of `n` words that the host clocks in full. -/
def readingFrame (n : Nat) (ws : List Nat) : HostFrame := { kind := .read, words := n, whole := true, waits := ws }

/-- The words that a read of `n` words asks for, the address rising by `step`. -/
def asked (a step n : Nat) (ws : List Nat) (ev : List Access) : List (Asked × Nat) :=
  (List.range n).map (fun i => ({ addr := (a + step * i) % 2 ^ 24, acc := Tbl.get {} ev i }, Tbl.get 0 ws i))

section
variable {s : State} {a step n take : Nat} {begun : Bool} {ws : List Nat} {ev : List Access}

theorem readFrame_illegal (ha : a % 4 ≠ 0) : s.readFrame a step n take begun ws ev = s.illegalFrame := if_pos ha

/-- A read of `n` words that the host clocks in full, with no late word kept (R454). -/
theorem readFrame_whole (ha : a % 4 = 0) (hn : n ≤ take) (hv : s.flag SPI_LATE.VALID = false) :
    s.frameOpen.readFrame a step n take begun ws ev =
      (s.frameOpen.during (readingFrame n ws) []).readWords (asked a step n ws ev) n := by
  have v : s.frameOpen.flag SPI_LATE.VALID = false := hv
  have d : (s.frameOpen.during (readingFrame n ws) []).dropLate = s.frameOpen.during (readingFrame n ws) [] :=
    if_neg (by rw [show (s.frameOpen.during (readingFrame n ws) []).flag SPI_LATE.VALID = false from hv]; decide)
  unfold State.readFrame
  simp only [ha, v, Bool.false_and, if_false, ne_eq, not_true_eq_false, frameOpen_modFrame, decide_eq_true hn,
    min_eq_left hn, min_eq_left (show n ≤ take + 1 + begun.toNat by omega)]
  exact congrArg (fun u => State.readWords u (asked a step n ws ev) n) d

/-- Registers outside the snapshot groups are given as they show, and nothing else changes. GPM_LEVEL draws an open
value, and is read alone. -/
theorem readFrame_registers (ha : a % 4 = 0) (hn : n ≤ take) (hv : s.flag SPI_LATE.VALID = false)
    (hh : s.holding = false) (h : ∀ i < n, Tbl.get 0 ws i ≤ s.fld SPI_CFG.WMAX ∧
      PlainRead ((a + step * i) % 2 ^ 24) ∧ rsPlace ((a + step * i) % 2 ^ 24) = none ∧
      (a + step * i) % 2 ^ 24 ≠ GPM_LEVEL ∧ s.mcAway ((a + step * i) % 2 ^ 24) = false) :
    s.frameOpen.readFrame a step n take begun ws ev = s.frameOpen.during (readingFrame n ws)
      ((List.range n).map (fun i => (s.frameOpen.shown ((a + step * i) % 2 ^ 24)).1)) := by
  rw [readFrame_whole ha hn hv]
  have all := readWords_gives (I := fun o t => t = s.frameOpen.during (readingFrame n ws) o)
    (fun q => (s.frameOpen.shown q.addr).1) (l := asked a step n ws ev) (o := [])
    (t := s.frameOpen.during (readingFrame n ws) []) (left := n) ?_ (by simp [asked]) rfl
  · rw [all, asked, List.map_map]
    rfl
  · intro p hp o t ht
    obtain ⟨i, hi, rfl⟩ := List.mem_map.mp hp
    obtain ⟨inTime, plain, alone, noDraw, here⟩ := h i (List.mem_range.mp hi)
    subst ht
    refine ⟨inTime, hh, here, s.frameOpen.during (readingFrame n ws) o, ?_, during_giveWord ..⟩
    rw [busRead_plain _ _ _ plain, readReg_shown _ _ alone, shown_state _ _ noDraw]
    exact congrArg (fun w => (some w, _)) (during_shown s.frameOpen _ {} o [] _)

/-- One word of a register, snapshot groups included. -/
theorem readFrame_register (ha : a % 4 = 0) (hb : a < 2 ^ 24) (ht : 1 ≤ take) (hv : s.flag SPI_LATE.VALID = false)
    (hh : s.holding = false) (inTime : Tbl.get 0 ws 0 ≤ s.fld SPI_CFG.WMAX) (plain : PlainRead a)
    (here : s.mcAway a = false) :
    s.frameOpen.readFrame a step 1 take begun ws ev =
      ((s.frameOpen.during (readingFrame 1 ws) []).readReg .host a).2.giveWord true a
        ((s.frameOpen.during (readingFrame 1 ws) []).readReg .host a).1 := by
  have e : (a + step * 0) % 2 ^ 24 = a := by rw [Nat.mul_zero, Nat.add_zero, Nat.mod_eq_of_lt hb]
  rw [readFrame_whole ha ht hv]
  show State.readWords _ [({ addr := (a + step * 0) % 2 ^ 24, acc := Tbl.get {} ev 0 }, Tbl.get 0 ws 0)] 1 = _
  rw [e]
  exact readWords_cons (t := s.frameOpen.during (readingFrame 1 ws) []) [] inTime hh here (by decide)
    (busRead_plain _ _ _ plain)

/-- The serial port and the latches after one word was read: it is given, and what the status byte reported is gone. -/
theorem given_spi {u : State} {f : HostFrame} {v : Word} (h : u.spi = (s.frameOpen.during f []).spi) :
    (u.giveWord true a v).spi = (s.frameOpen.during f [v]).spi := by
  unfold State.giveWord
  rw [if_pos rfl, h]
  rfl

theorem readReg_spi (u : State) (p : Path) (a : Nat) : (u.readReg p a).2.spi = u.spi :=
  (State.readReg_does u p a).same .spi

/-- A word of a snapshot group after its first is what was latched (log entry 22). -/
theorem readReg_latched {u : State} {p : Path} {h j m : Nat} (hr : rsPlace a = some (h, j, m)) (hj : 0 < j) :
    u.readReg p a = ((Assoc.get u.latched (p, a)).getD 0, u) := by
  simp [State.readReg, hr, if_neg (by omega : ¬j = 0)]

/-- The first word of a snapshot group, other than that of a position latch, takes the others with it (R20). -/
theorem readReg_takes {u : State} {p : Path} {h m : Nat} (hr : rsPlace a = some (h, 0, m))
    (hl : groupIx (POS_LT_POS 0) 0x10 8 a = none) :
    u.readReg p a = ((u.shown a).1, (u.shown a).2.latchGroup p h m) := by
  simp [State.readReg, hr, hl]

/-- Where the snapshot groups lie (R20): all of them below GPM. -/
theorem rsPlace_below {h i m : Nat} (hr : rsPlace a = some (h, i, m)) : h + 4 * m < GPM_LEVEL := by
  obtain ⟨g, hg, e⟩ := List.exists_of_findSome?_eq_some hr
  have below : ∀ g ∈ rsGroups, g.1 + g.2.1 * g.2.2.1 + 4 * g.2.2.2 < GPM_LEVEL := by decide
  have hg := below g hg
  dsimp only at e
  split at e
  · rename_i c
    simp only [Bool.and_eq_true, decide_eq_true_eq] at c
    obtain ⟨⟨⟨-, hi⟩, -⟩, -⟩ := c
    simp only [Option.some.injEq, Prod.mk.injEq] at e
    obtain ⟨rfl, -, rfl⟩ := e
    have := Nat.mul_le_mul_left g.2.1 hi.le
    omega
  · exact nomatch e

theorem rsPlace_ne_gpm {p : Nat × Nat × Nat} (hr : rsPlace a = some p) : a ≠ GPM_LEVEL := by
  rintro rfl
  rw [show rsPlace GPM_LEVEL = none by decide] at hr
  exact nomatch hr

/-- What a register shows does not hang on the latches. -/
theorem latched_shown (u : State) (l : List ((Path × Nat) × Word)) (a : Nat) :
    (({ u with latched := l } : State).shown a).1 = (u.shown a).1 := by
  unfold State.shown
  rw [show ({ u with latched := l } : State).shownTop a = u.shownTop a from rfl,
    show ({ u with latched := l } : State).shownMotion a = u.shownMotion a from rfl,
    show ({ u with latched := l } : State).shownRest a = u.shownRest a from rfl,
    show ({ u with latched := l } : State).absent a = u.absent a from rfl]
  split
  · rfl
  · split
    · rfl
    · split <;> rfl

/-- The words after the first of a group are latched as they show, one after the other, and nothing else changes. -/
theorem latchGroup_takes (u : State) (p : Path) (h m : Nat) (hm : h + 4 * m < GPM_LEVEL) :
    ∃ l, u.latchGroup p h m = { u with latched := l } ∧
      ∀ j < m, Assoc.get l (p, h + 4 * (j + 1)) = some (u.shown (h + 4 * (j + 1))).1 := by
  induction m with
  | zero => exact ⟨u.latched, rfl, fun j hj => absurd hj (Nat.not_lt_zero j)⟩
  | succ m ih =>
    obtain ⟨l, e, hl⟩ := ih (by omega)
    have ne : h + 4 * (m + 1) ≠ GPM_LEVEL := by omega
    refine ⟨Assoc.put l (p, h + 4 * (m + 1)) (u.shown (h + 4 * (m + 1))).1, ?_, fun j hj => ?_⟩
    · unfold State.latchGroup State.each at e ⊢
      rw [List.range_succ, List.foldl_append, e, List.foldl_cons, List.foldl_nil]
      simp only [shown_state _ _ ne, latched_shown]
    · by_cases hjm : j = m
      · subst hjm; exact Assoc.get_put_same ..
      · rw [Assoc.get_put_other _ _ (by simp [hjm])]
        exact hl j (by omega)

end

end Sys2Proof.Machine

namespace Sys2Proof.Machine

set_option Elab.async false

/-! ### Reads of banks and late words (R454 to R456, R507) -/

section
variable {s : State} {a step n take : Nat} {begun : Bool} {ws : List Nat} {ev : List Access}

/-- Neither the flash window nor MGT is asked (R563). -/
theorem mcAway_bank (u : State) (h : a < 0x41000) : u.mcAway a = false := by
  have h1 : ¬0x80000 ≤ a := by omega
  have h2 : a / 0x1000 ≠ 0x10F := by omega
  simp [State.mcAway, h1, h2]

/-- What a read of banks without errors keeps, after the words `o`: of the serial port all but those words, and all
that the next word hangs on. -/
structure BankRead (s : State) (o : List Word) (t : State) : Prop where
  spi : t.spi = { s.spi with out := o }
  clk : t.clk = s.clk
  cells : t.mem.cells = s.mem.cells
  flaws : t.mem.flaws = []
  wmax : t.fld SPI_CFG.WMAX = s.fld SPI_CFG.WMAX

theorem BankRead.next {o : List Word} {t u : State} {w : Word} (h : BankRead s o t) (a : Nat)
    (d : Does [.row MEM_B_STAT, .mem] t u) (hf : u.mem.flaws = []) : BankRead s (o ++ [w]) (u.giveWord true a w) where
  spi := by
    have e : u.spi = t.spi := d.same .spi
    unfold State.giveWord
    rw [if_pos rfl, e, h.spi]
  clk := (d.same .clk).trans h.clk
  cells := (d.same .cells).trans h.cells
  flaws := hf
  wmax := (d.fld (by decide)).trans h.wmax

theorem readFrame_banks (ha : a % 4 = 0) (hn : n ≤ take) (hv : s.flag SPI_LATE.VALID = false) (hh : s.holding = false)
    (hf : s.mem.flaws = []) (h : ∀ i < n, Tbl.get 0 ws i ≤ s.fld SPI_CFG.WMAX ∧ a + step * i < 0x41000) :
    BankRead (s.frameOpen.during (readingFrame n ws) [])
      ((List.range n).map (fun i => memWord s.mem.cells (a + step * i)))
      (s.frameOpen.readFrame a step n take begun ws []) := by
  have e : asked a step n ws [] = (List.range n).map (fun i => ({ addr := a + step * i }, Tbl.get 0 ws i)) := by
    refine List.map_congr_left (fun i hi => ?_)
    have small := (h i (List.mem_range.mp hi)).2
    rw [Nat.mod_eq_of_lt (by omega)]
    rfl
  rw [readFrame_whole ha hn hv, e]
  have all := readWords_gives (I := BankRead (s.frameOpen.during (readingFrame n ws) []))
    (fun q => memWord s.mem.cells q.addr)
    (l := (List.range n).map (fun i => (({ addr := a + step * i } : Asked), Tbl.get 0 ws i))) (o := [])
    (t := s.frameOpen.during (readingFrame n ws) []) (left := n) ?_ (by simp) ⟨rfl, rfl, rfl, hf, rfl⟩
  · rw [List.map_map] at all
    exact all
  · intro p hp o t ht
    obtain ⟨i, hi, rfl⟩ := List.mem_map.mp hp
    obtain ⟨inTime, low⟩ := h i (List.mem_range.mp hi)
    have free : t.holding = false := by
      unfold State.holding
      rw [ht.clk]
      exact hh
    obtain ⟨u, hu, d, hf'⟩ := busRead_bank t .host low ht.flaws
    refine ⟨ht.wmax ▸ inTime, free, mcAway_bank t low, u, ?_, ht.next _ d hf'⟩
    rw [ht.cells] at hu
    exact hu

/-- A first word that needs too many wait cycles is late: 0 is driven, and the word is asked for again (R455). -/
theorem readFrame_late (ha : a % 4 = 0) (hb : a < 2 ^ 24) (ht : 0 < take) (hv : s.flag SPI_LATE.VALID = false)
    (hw : s.fld SPI_CFG.WMAX < Tbl.get 0 ws 0) :
    (s.frameOpen.readFrame a step 1 take begun ws ev).spi.out = [0] ∧
      (s.frameOpen.readFrame a step 1 take begun ws ev).raised 0x0D08 = true ∧
      (s.frameOpen.readFrame a step 1 take begun ws ev).spi.result = 3 ∧
      (s.frameOpen.readFrame a step 1 take begun ws ev).spi.late =
        s.spi.late ++ [{ addr := a, acc := Tbl.get {} ev 0 }] := by
  have e : (a + step * 0) % 2 ^ 24 = a := by rw [Nat.mul_zero, Nat.add_zero, Nat.mod_eq_of_lt hb]
  let base := s.frameOpen.during (readingFrame 1 ws) []
  have spi : base.readLate.spi = { base.spi with result := 3 } :=
    (State.raise_does ((base.outcome 3).bump SPI_HERR.LATE 1) 0x0D08 0).same .spi
  have raised : base.readLate.raised 0x0D08 = true := State.raise_raised _ _ _ (by decide) (by decide)
  have given : s.frameOpen.readFrame a step 1 take begun ws ev =
      ({ base.readLate with spi := { base.readLate.spi with
        late := base.readLate.spi.late ++ [{ addr := a, acc := Tbl.get {} ev 0 }] } } : State).giveZeros 1 := by
    rw [readFrame_whole ha ht hv]
    show State.readWords base [({ addr := (a + step * 0) % 2 ^ 24, acc := Tbl.get {} ev 0 }, Tbl.get 0 ws 0)] 1 = _
    rw [e, State.readWords, if_pos (show base.fld SPI_CFG.WMAX < Tbl.get 0 ws 0 from hw)]
  rw [given, spi]
  exact ⟨rfl, raised, rfl, rfl⟩

/-- The late word of this address is given from the late buffer (R456). -/
theorem readFrame_hit (ha : a % 4 = 0) (hv : s.flag SPI_LATE.VALID = true) (hl : s.fld SPI_LATE.ADDR = a) :
    ∃ f, s.frameOpen.readFrame a step 1 1 false ws ev =
      ((s.frameOpen.during f []).setWord SPI_LATE 0).giveWord true a s.spi.lateWord := by
  have hit : (s.frameOpen.flag SPI_LATE.VALID && s.frameOpen.fld SPI_LATE.ADDR == a) = true := by
    rw [show s.frameOpen.flag SPI_LATE.VALID = true from hv, show s.frameOpen.fld SPI_LATE.ADDR = a from hl]
    simp
  refine ⟨readingFrame 1 (0 :: ws.drop 1), ?_⟩
  unfold State.readFrame
  rw [if_neg (by simp [ha])]
  simp only [hit, if_true]
  rfl

end

end Sys2Proof.Machine

namespace Sys2Proof.Machine

set_option Elab.async false

/-! ### Writing frames (R450, R459) -/

/-- The open frame of a write of `n` words that the host clocked. -/
def writingFrame (n : Nat) : HostFrame := { kind := .write, words := n, whole := true }

section
variable {s : State} {a step n : Nat} {l : List Word} {ev : List Access}

theorem writeFrame_illegal (ha : a % 4 ≠ 0) : s.writeFrame a step n l ev = s.illegalFrame := if_pos ha

/-- What is not held is written, word by word, and no write begins a hold. -/
theorem each_hostWrite {t : State} (hh : t.holding = false) (k : List Nat) (addr : Nat → Nat) (val : Nat → Word)
    (acc : Nat → Access) : t.each k (fun u i => u.hostWrite (addr i) (val i) (acc i)) =
      k.foldl (fun u i => u.busWrite .host (addr i) (val i) (acc i)) t := by
  induction k generalizing t with
  | nil => rfl
  | cons i k ih =>
    have first : t.hostWrite (addr i) (val i) (acc i) = t.busWrite .host (addr i) (val i) (acc i) :=
      if_neg (by simp [hh])
    show (t.hostWrite (addr i) (val i) (acc i)).each k _ = _
    rw [first, List.foldl_cons]
    exact ih (busWrite_unheld .host _ _ _ hh)

/-- A write of `n` words: the late word is dropped (R456), and the words are written in their order. -/
theorem writeFrame_writes (ha : a % 4 = 0) (hn : n ≤ l.length) (hh : s.holding = false) :
    s.frameOpen.writeFrame a step n l ev =
      (List.range n).foldl (fun u i => u.busWrite .host ((a + step * i) % 2 ^ 24) (Tbl.get 0 l i) (Tbl.get {} ev i))
        (s.frameOpen.during (writingFrame n) []).dropLate := by
  have free : (s.frameOpen.during (writingFrame n) []).dropLate.holding = false :=
    (State.dropLate_does _).holding.trans hh
  rw [← each_hostWrite free]
  unfold State.writeFrame
  simp only [ha, ne_eq, not_true_eq_false, if_false, frameOpen_modFrame, decide_eq_true hn, min_eq_left hn]
  rfl

theorem dropLate_none (u : State) (h : u.flag SPI_LATE.VALID = false) : u.dropLate = u := if_neg (by simp [h])

/-- A late word that is dropped is reported as lost (R456). -/
theorem dropLate_lost {u : State} (h : u.flag SPI_LATE.VALID = true) :
    u.dropLate.raised 0x0D06 = true ∧ u.dropLate.flag SPI_LATE.VALID = false := by
  have e : u.dropLate = ((u.setWord SPI_LATE 0).bump SPI_HERR.LOST 1).raise 0x0D06 := if_pos h
  have d := State.raise_does ((u.setWord SPI_LATE 0).bump SPI_HERR.LOST 1) 0x0D06 0
  rw [e]
  refine ⟨State.raise_raised _ _ _ (by decide) (by decide), (d.flag (by decide)).trans ?_⟩
  unfold State.bump
  rw [State.flag_put_other _ _ (by decide)]
  unfold State.flag
  rw [show (u.setWord SPI_LATE 0).fld SPI_LATE.VALID = _ from u.fld_setWord_same SPI_LATE.VALID 0]
  rfl

/-! ### Words written to banks -/

/-- Writes to rising words of the banks: each word reads as written, and no other byte changes. -/
theorem foldl_busWrite_rising (t : State) (val : Nat → Word) (acc : Nat → Access) (k : Nat)
    (h : a + 4 * k ≤ 0x41000) : ∃ u, (List.range k).foldl (fun u i => u.busWrite .host ((a + 4 * i) % 2 ^ 24) (val i)
      (acc i)) t = u ∧ BankStep t u ∧ (∀ i < k, memWord u.mem.cells (a + 4 * i) = val i) ∧
      ∀ y, (y < a ∨ a + 4 * k ≤ y) → memByte u.mem.cells y = memByte t.mem.cells y := by
  induction k with
  | zero => exact ⟨t, rfl, .refl t, fun i hi => absurd hi (Nat.not_lt_zero i), fun _ _ => rfl⟩
  | succ k ih =>
    obtain ⟨u, e, step, words, bytes⟩ := ih (by omega)
    have last := busWrite_wrote u .host (val k) (acc k) (by omega : a + 4 * k < 0x41000)
    refine ⟨u.busWrite .host (a + 4 * k) (val k) (acc k), ?_, step.trans last.2, fun i hi => ?_, fun y hy => ?_⟩
    · rw [List.range_succ, List.foldl_append, e, List.foldl_cons, List.foldl_nil, Nat.mod_eq_of_lt (by omega)]
    · by_cases hik : i = k
      · subst hik; exact last.1.1
      · rw [last.1.word_apart (by omega)]
        exact words i (by omega)
    · rw [last.1.2 y (by omega)]
      exact bytes y (by omega)

/-- Writes to one word of the banks: the last one stands, and no other byte changes. -/
theorem foldl_busWrite_fixed (t : State) (val : Nat → Word) (acc : Nat → Access) (k : Nat) (h : a < 0x41000) :
    ∃ u, (List.range (k + 1)).foldl (fun u i => u.busWrite .host a (val i) (acc i)) t = u ∧ BankStep t u ∧
      WroteWord t.mem.cells u.mem.cells a (val k) := by
  induction k with
  | zero => exact ⟨_, rfl, (busWrite_wrote t .host (val 0) (acc 0) h).2, (busWrite_wrote t .host (val 0) (acc 0) h).1⟩
  | succ k ih =>
    obtain ⟨u, e, step, wrote⟩ := ih
    have last := busWrite_wrote u .host (val (k + 1)) (acc (k + 1)) h
    refine ⟨u.busWrite .host a (val (k + 1)) (acc (k + 1)), ?_, step.trans last.2, wrote.after last.1⟩
    rw [List.range_succ, List.foldl_append, e, List.foldl_cons, List.foldl_nil]

/-! ### Registers written in a frame -/

section
variable (f g : HostFrame) (o q : List Word) (p : Path) (v : Word) (x : Access) (u w : State)

theorem isSome_some_eq (u w : State) : (some u).isSome = (some w).isSome := rfl

theorem isSome_ite_eq {c : Prop} [Decidable c] {y z y' z' : Option State} (h : y.isSome = y'.isSome)
    (h' : z.isSome = z'.isSome) : (if c then y else z).isSome = (if c then y' else z').isSome := by
  split <;> assumption

/-- Whether a write starts an action hangs on the address alone. -/
theorem actTop_isSome : (u.actTop p a v).isSome = (w.actTop p a v).isSome := by
  simp only [State.actTop, apply_ite Option.isSome, Option.isSome_some]

theorem actMotion_isSome : (u.actMotion p a v).isSome = (w.actMotion p a v).isSome := by
  unfold State.actMotion
  split
  · exact isSome_some_eq ..
  · split
    · simp only [apply_ite Option.isSome, Option.isSome_some]
    · split <;> simp only [Option.isSome_some]
    · rfl

theorem actAnalog_isSome : (u.actAnalog p a v x).isSome = (w.actAnalog p a v x).isSome := by
  unfold State.actAnalog
  split
  · simp only [apply_ite Option.isSome, Option.isSome_some, Option.isSome_map]
  · refine isSome_ite_eq (isSome_some_eq ..) (isSome_ite_eq (isSome_some_eq ..) ?_)
    split <;> simp only [Option.isSome_some]
  · refine isSome_ite_eq (isSome_some_eq ..) ?_
    split <;> simp only [Option.isSome_some]
  · refine isSome_ite_eq (isSome_some_eq ..) (isSome_ite_eq (isSome_some_eq ..) ?_)
    split <;> simp only [apply_ite Option.isSome, Option.isSome_some]
  · rfl

theorem actLinks_isSome : (u.actLinks p a v x).isSome = (w.actLinks p a v x).isSome := by
  unfold State.actLinks
  split
  · refine isSome_ite_eq (isSome_some_eq ..) (isSome_ite_eq (isSome_some_eq ..) (isSome_ite_eq (isSome_some_eq ..)
      (isSome_ite_eq (isSome_some_eq ..) ?_)))
    split <;> simp only [Option.isSome_some]
  · simp only [apply_ite Option.isSome, Option.isSome_some]
  · simp only [apply_ite Option.isSome, Option.isSome_some]
  · simp only [apply_ite Option.isSome, Option.isSome_some]
  · exact isSome_some_eq ..
  · rfl

/-- A register whose write starts no action starts none in an open frame either. -/
theorem during_noAction (h : (s.during f o).NoAction p a v x) : (s.during g q).NoAction p a v x where
  present := h.present
  top := Option.not_isSome_iff_eq_none.mp (by rw [actTop_isSome p v _ (s.during f o), h.top]; decide)
  motion := Option.not_isSome_iff_eq_none.mp (by rw [actMotion_isSome p v _ (s.during f o), h.motion]; decide)
  analog := Option.not_isSome_iff_eq_none.mp (by rw [actAnalog_isSome p v x _ (s.during f o), h.analog]; decide)
  links := Option.not_isSome_iff_eq_none.mp (by rw [actLinks_isSome p v x _ (s.during f o), h.links]; decide)

end

end

end Sys2Proof.Machine

namespace Sys2Proof.Machine

set_option Elab.async false

/-! ### The commands of a host frame (R450 to R459, R528) -/

/-- What a frame without an access may change. -/
def Parts.bareFrame : List Field :=
  [.one SPI_STAT, .one SPI_HERR, .one SPI_MW_STAT, .one MGT_LOG_STAT, .faults, .reel, .intg, .mgt, .can, .spi, .chn,
    .drawn]

/-- The frame is illegal (R451): it is marked, counted and raised, and the next status byte reads REFUSED. -/
def ShowsIllegal (s t : State) : Prop :=
  t.spi.frame.any (fun f => f.illegal) = true ∧ t.raised 0x0D02 = true ∧ t.spi.result = 1 ∧
    t.fld SPI_HERR.ILLEGAL = min (s.fld SPI_HERR.ILLEGAL + 1) 255

theorem illegalFrame_showsIllegal (s : State) : ShowsIllegal s s.frameOpen.illegalFrame.settle := by
  obtain ⟨marked, raised, result, count, -, -⟩ := illegal_first s
  exact ⟨marked, raised, result, count⟩

section
variable {s : State}

theorem nop_opens (h : s.FrameReady) :
    Runs (.nop 0) s Parts.bareFrame (fun t => t.spi.frame = some {} ∧ Reported s t) := by
  refine nop_runs h (.inl rfl) ?_
  rw [if_pos rfl]
  exact ⟨rfl, rfl, rfl, rfl, rfl⟩

theorem nop_illegal {c : Byte} (h : s.FrameReady) (hc : hostCommand c = false) :
    Runs (.nop c) s Parts.bareFrame (fun t => t.spi.frame.any (fun f => f.illegal) = true ∧ t.raised 0x0D02 = true ∧
      t.spi.result = 1 ∧ t.fld SPI_HERR.ILLEGAL = min (s.fld SPI_HERR.ILLEGAL + 1) 255 ∧
      t.spi.status = s.statusByte) := by
  have n : c ≠ 0 := by
    rintro rfl
    exact absurd hc (by decide)
  obtain ⟨marked, raised, result, count, status, -⟩ := illegal_first s
  refine nop_runs h (.inr hc) ?_
  rw [if_neg n]
  exact ⟨marked, raised, result, count, status⟩

/-! ### STATUS -/

theorem status_runs {P : State → Prop} (a : BitVec 24) (n : Fin 16) (h : s.FrameReady)
    (hP : P (if n.val ≠ 0 || a.toNat % 4 ≠ 0 then s.frameOpen.illegalFrame
      else (s.frameOpen.modFrame (fun f => { f with kind := .status, words := 1 })).giveWord true a.toNat
        s.frameOpen.spiStat).settle) : Runs (.status a n) s Parts.bareFrame P :=
  frame_runs (f := fun s => if n.val ≠ 0 || a.toNat % 4 ≠ 0 then s.illegalFrame
    else (s.modFrame (fun f => { f with kind := .status, words := 1 })).giveWord true a.toNat s.spiStat)
    h rfl (execStatus_does a n s) hP

theorem status_answers {a : BitVec 24} {n : Fin 16} (h : s.FrameReady) (hn : n = 0) (ha : a.toNat % 4 = 0) :
    Runs (.status a n) s Parts.bareFrame (fun t => t.spi.out = [s.frameOpen.spiStat] ∧ Reported s t) := by
  refine status_runs a n h ?_
  rw [if_neg (by simp [hn, ha])]
  exact ⟨rfl, rfl, rfl, rfl, rfl⟩

theorem status_illegal {a : BitVec 24} {n : Fin 16} (h : s.FrameReady) (hn : n ≠ 0 ∨ a.toNat % 4 ≠ 0) :
    Runs (.status a n) s Parts.bareFrame (ShowsIllegal s) := by
  refine status_runs a n h ?_
  have nz : n.val ≠ 0 ∨ a.toNat % 4 ≠ 0 := hn.imp_left (fun h e => h (Fin.ext e))
  rw [if_pos (by simpa using nz)]
  exact illegalFrame_showsIllegal s

/-! ### READ and READ_FIX -/

section
variable {a : BitVec 24} {n : Fin 16} {take : Nat} {begun : Bool} {ws : List Nat} {ev : List Access}

theorem read_runs {P : State → Prop} (h : s.FrameReady)
    (hP : P (s.frameOpen.readFrame a.toNat 4 (n + 1) take begun ws ev).settle) :
    Runs (.read a n take begun ws ev) s Parts.read P :=
  frame_runs (f := fun s => s.readFrame a.toNat 4 (n + 1) take begun ws ev) h rfl
    (execRead_does a n take begun ws ev s) hP

theorem readFix_runs {P : State → Prop} (h : s.FrameReady)
    (hP : P (s.frameOpen.readFrame a.toNat 0 (n + 1) take begun ws ev).settle) :
    Runs (.readFix a n take begun ws ev) s Parts.read P :=
  frame_runs (f := fun s => s.readFrame a.toNat 0 (n + 1) take begun ws ev) h rfl
    (execReadFix_does a n take begun ws ev s) hP

/-- The words given, and the report of a read that went well. -/
def Gives (s t : State) (o : List Word) : Prop :=
  t.spi.out = o ∧ t.spi.late = s.spi.late ∧ t.spi.frame.any (fun f => f.whole) = true ∧ Reported s t

theorem gives_of_spi {t : State} {o : List Word} {k : Nat}
    (h : t.spi = (s.frameOpen.during (readingFrame k ws) o).spi) : Gives s t o := by
  unfold Gives Reported
  rw [h]
  exact ⟨rfl, rfl, rfl, rfl, rfl, rfl, rfl⟩

/-- One register outside the snapshot groups, GPM_LEVEL included. -/
theorem readFrame_shown {step : Nat} (ha : a.toNat % 4 = 0) (ht : 0 < take) (hv : s.flag SPI_LATE.VALID = false)
    (hh : s.holding = false) (inTime : Tbl.get 0 ws 0 ≤ s.fld SPI_CFG.WMAX) (plain : PlainRead a.toNat)
    (here : s.mcAway a.toNat = false) (alone : rsPlace a.toNat = none) :
    Gives s (s.frameOpen.readFrame a.toNat step 1 take begun ws ev) [(s.frameOpen.shown a.toNat).1] := by
  rw [readFrame_register ha a.isLt ht hv hh inTime plain here]
  refine gives_of_spi (ws := ws) (k := 1) ((given_spi (readReg_spi ..)).trans ?_)
  rw [readReg_shown _ _ alone, during_shown s.frameOpen _ {} [] []]
  rfl

theorem read_registers (h : s.FrameReady) (hh : s.holding = false) (hv : s.flag SPI_LATE.VALID = false)
    (ha : a.toNat % 4 = 0) (hn : n.val < take) (inTime : ∀ i ≤ n.val, Tbl.get 0 ws i ≤ s.fld SPI_CFG.WMAX)
    (hb : a.toNat + 4 * n.val < 2 ^ 24) (plain : ∀ i ≤ n.val, PlainRead (a.toNat + 4 * i))
    (here : ∀ i ≤ n.val, s.mcAway (a.toNat + 4 * i) = false)
    (alone : ∀ i ≤ n.val, rsPlace (a.toNat + 4 * i) = none)
    (noDraw : ∀ i ≤ n.val, n.val = 0 ∨ a.toNat + 4 * i ≠ GPM_LEVEL) :
    Runs (.read a n take begun ws ev) s Parts.read (fun t =>
      Gives s t ((List.range (n.val + 1)).map fun i => (s.frameOpen.shown (a.toNat + 4 * i)).1)) := by
  refine read_runs h ?_
  by_cases hn0 : n.val = 0
  · have zero : 0 ≤ n.val := Nat.zero_le _
    rw [hn0]
    exact readFrame_shown ha (by omega) hv hh (inTime 0 zero) (plain 0 zero) (here 0 zero) (alone 0 zero)
  · have e : ∀ i, i < n.val + 1 → (a.toNat + 4 * i) % 2 ^ 24 = a.toNat + 4 * i :=
      fun i hi => Nat.mod_eq_of_lt (by omega)
    rw [readFrame_registers ha hn hv hh (fun i hi => by
      have hi' : i ≤ n.val := by omega
      rw [e i hi]
      exact ⟨inTime i hi', plain i hi', alone i hi', (noDraw i hi').resolve_left hn0, here i hi'⟩)]
    rw [List.map_congr_left (fun i hi => by rw [e i (List.mem_range.mp hi)])]
    exact gives_of_spi rfl

theorem readFix_register (h : s.FrameReady) (hh : s.holding = false) (hv : s.flag SPI_LATE.VALID = false)
    (hn : n.val < take) (inTime : ∀ i ≤ n.val, Tbl.get 0 ws i ≤ s.fld SPI_CFG.WMAX) (ha : a.toNat % 4 = 0)
    (plain : PlainRead a.toNat) (here : s.mcAway a.toNat = false) (alone : rsPlace a.toNat = none)
    (noDraw : n.val = 0 ∨ a.toNat ≠ GPM_LEVEL) :
    Runs (.readFix a n take begun ws ev) s Parts.read (fun t =>
      t.spi.out = List.replicate (n.val + 1) (s.frameOpen.shown a.toNat).1 ∧ t.spi.late = s.spi.late ∧
      Reported s t) := by
  have given : Gives s (s.frameOpen.readFrame a.toNat 0 (n.val + 1) take begun ws ev)
      (List.replicate (n.val + 1) (s.frameOpen.shown a.toNat).1) := by
    by_cases hn0 : n.val = 0
    · rw [hn0]
      exact readFrame_shown ha (by omega) hv hh (inTime 0 (Nat.zero_le _)) plain here alone
    · have e : ∀ i, (a.toNat + 0 * i) % 2 ^ 24 = a.toNat := fun i => by
        rw [Nat.zero_mul, Nat.add_zero, Nat.mod_eq_of_lt a.isLt]
      rw [readFrame_registers ha hn hv hh (fun i hi => by
        rw [e i]
        exact ⟨inTime i (by omega), plain, alone, noDraw.resolve_left hn0, here⟩)]
      simp only [e, List.map_const', List.length_range]
      exact gives_of_spi rfl
  obtain ⟨out, late, -, report⟩ := given
  exact readFix_runs h ⟨out, late, report⟩

theorem read_banks (h : s.FrameReady) (hh : s.holding = false) (hv : s.flag SPI_LATE.VALID = false)
    (ha : a.toNat % 4 = 0) (hn : n.val < take) (inTime : ∀ i ≤ n.val, Tbl.get 0 ws i ≤ s.fld SPI_CFG.WMAX)
    (hb : a.toNat + 4 * n.val < 0x41000) (hf : s.mem.flaws = []) :
    Runs (.read a n take begun ws []) s Parts.read (fun t =>
      (t.spi.out = (List.range (n.val + 1)).map fun i => memWord s.mem.cells (a.toNat + 4 * i)) ∧
      t.spi.frame.any (fun f => f.whole) = true ∧ Reported s t) := by
  refine read_runs h ?_
  have r := readFrame_banks (step := 4) (begun := begun) ha hn hv hh hf
    (fun i hi => ⟨inTime i (by omega), by omega⟩)
  have given : Gives s _ _ := gives_of_spi (ws := ws) (k := n.val + 1) r.spi
  obtain ⟨out, -, whole, report⟩ := given
  exact ⟨out, whole, report⟩

theorem read_snapshot {g m : Nat} (h : s.FrameReady) (hh : s.holding = false) (hv : s.flag SPI_LATE.VALID = false)
    (inTime : Tbl.get 0 ws 0 ≤ s.fld SPI_CFG.WMAX) (ha : a.toNat % 4 = 0) (plain : PlainRead a.toNat)
    (here : s.mcAway a.toNat = false) (hr : rsPlace a.toNat = some (g, 0, m))
    (hl : groupIx (POS_LT_POS 0) 0x10 8 a.toNat = none) :
    Runs (.read a 0 1 false ws ev) s Parts.read (fun t => t.spi.out = [(s.frameOpen.shown a.toNat).1] ∧
      (∀ j < m, Assoc.get t.latched (.host, g + 4 * (j + 1)) = some (s.frameOpen.shown (g + 4 * (j + 1))).1) ∧
      Reported s t) := by
  refine read_runs h ?_
  show _ ∧ _
  rw [show ((0 : Fin 16).val + 1) = 1 from rfl,
    readFrame_register ha a.isLt (le_refl 1) hv hh inTime plain here]
  obtain ⟨out, -, -, report⟩ := gives_of_spi (s := s) (ws := ws) (k := 1)
    (given_spi (a := a.toNat) (readReg_spi (s.frameOpen.during (readingFrame 1 ws) []) .host a.toNat))
  obtain ⟨l, taken, latched⟩ :=
    latchGroup_takes (s.frameOpen.during (readingFrame 1 ws) []) .host g m (rsPlace_below hr)
  refine ⟨out.trans ?_, fun j hj => ?_, report⟩
  · rw [readReg_takes hr hl, during_shown s.frameOpen _ {} [] []]
    rfl
  · rw [readReg_takes hr hl, shown_state _ _ (rsPlace_ne_gpm hr), taken]
    exact (latched j hj).trans (congrArg some (during_shown s.frameOpen _ {} [] [] _))

theorem read_latched {g j m : Nat} (h : s.FrameReady) (hh : s.holding = false) (hv : s.flag SPI_LATE.VALID = false)
    (inTime : Tbl.get 0 ws 0 ≤ s.fld SPI_CFG.WMAX) (ha : a.toNat % 4 = 0) (plain : PlainRead a.toNat)
    (here : s.mcAway a.toNat = false) (hr : rsPlace a.toNat = some (g, j, m)) (hj : 0 < j) :
    Runs (.read a 0 1 false ws ev) s Parts.read (fun t =>
      t.spi.out = [(Assoc.get s.latched (.host, a.toNat)).getD 0] ∧ t.latched = s.latched ∧ Reported s t) := by
  refine read_runs h ?_
  rw [show ((0 : Fin 16).val + 1) = 1 from rfl,
    readFrame_register ha a.isLt (le_refl 1) hv hh inTime plain here, readReg_latched hr hj, during_giveWord]
  exact ⟨rfl, rfl, rfl, rfl, rfl, rfl⟩

/-- An illegal READ or READ_FIX gives no word. -/
def ShowsIllegalRead (s t : State) : Prop :=
  t.spi.frame.any (fun f => f.illegal) = true ∧ t.raised 0x0D02 = true ∧ t.spi.result = 1 ∧
    t.fld SPI_HERR.ILLEGAL = min (s.fld SPI_HERR.ILLEGAL + 1) 255 ∧ t.spi.out = []

theorem illegalFrame_showsIllegalRead (s : State) : ShowsIllegalRead s s.frameOpen.illegalFrame.settle := by
  obtain ⟨marked, raised, result, count, -, out⟩ := illegal_first s
  exact ⟨marked, raised, result, count, out⟩

theorem read_illegal (h : s.FrameReady) (ha : a.toNat % 4 ≠ 0) :
    Runs (.read a n take begun ws ev) s Parts.read (ShowsIllegalRead s) := by
  refine read_runs h ?_
  rw [readFrame_illegal ha]
  exact illegalFrame_showsIllegalRead s

theorem readFix_illegal (h : s.FrameReady) (ha : a.toNat % 4 ≠ 0) :
    Runs (.readFix a n take begun ws ev) s Parts.read (ShowsIllegalRead s) := by
  refine readFix_runs h ?_
  rw [readFrame_illegal ha]
  exact illegalFrame_showsIllegalRead s

theorem read_late (h : s.FrameReady) (ha : a.toNat % 4 = 0) (ht : 0 < take) (hv : s.flag SPI_LATE.VALID = false)
    (hw : s.fld SPI_CFG.WMAX < Tbl.get 0 ws 0) :
    Runs (.read a 0 take begun ws ev) s Parts.read (fun t => t.spi.out = [0] ∧ t.raised 0x0D08 = true ∧
      t.spi.result = 3 ∧ t.spi.late = s.spi.late ++ [{ addr := a.toNat, acc := Tbl.get {} ev 0 }]) :=
  read_runs h (readFrame_late ha a.isLt ht hv hw)

theorem read_hit (h : s.FrameReady) (ha : a.toNat % 4 = 0) (hv : s.flag SPI_LATE.VALID = true)
    (hl : s.fld SPI_LATE.ADDR = a.toNat) :
    Runs (.read a 0 1 false ws ev) s Parts.read (fun t => t.spi.out = [s.spi.lateWord] ∧
      t.flag SPI_LATE.VALID = false ∧ t.spi.late = s.spi.late) := by
  refine read_runs h ?_
  obtain ⟨f, e⟩ := readFrame_hit (step := 4) (ws := ws) (ev := ev) ha hv hl
  rw [show ((0 : Fin 16).val + 1) = 1 from rfl, e]
  have cleared : ((s.frameOpen.during f []).setWord SPI_LATE 0).flag SPI_LATE.VALID = false :=
    congrArg (· == 1) ((s.frameOpen.during f []).fld_setWord_same SPI_LATE.VALID 0)
  exact ⟨rfl, cleared, rfl⟩

end

end

end Sys2Proof.Machine

namespace Sys2Proof.Machine

set_option Elab.async false

/-! ### WRITE and WRITE_FIX (R450, R459) -/

section
variable {s : State} {a : BitVec 24} {n : Fin 16} {l : List Word} {ev : List Access}

theorem write_runs {P : State → Prop} (h : s.FrameReady)
    (hP : P (s.frameOpen.writeFrame a.toNat 4 (n + 1) l ev).settle) : Runs (.write a n l ev) s Parts.bus P :=
  frame_runs (f := fun s => s.writeFrame a.toNat 4 (n + 1) l ev) h rfl (execWrite_does a n l ev s) hP

theorem writeFix_runs {P : State → Prop} (h : s.FrameReady)
    (hP : P (s.frameOpen.writeFrame a.toNat 0 (n + 1) l ev).settle) : Runs (.writeFix a n l ev) s Parts.bus P :=
  frame_runs (f := fun s => s.writeFrame a.toNat 0 (n + 1) l ev) h rfl (execWriteFix_does a n l ev s) hP

/-- The state in which the words of a write of `k` words arrive: the frame is open, and a late word is dropped. -/
def State.writing (s : State) (k : Nat) : State := (s.frameOpen.during (writingFrame k) []).dropLate

theorem writing_spi (s : State) (k : Nat) : (s.writing k).spi = (s.frameOpen.during (writingFrame k) []).spi :=
  (State.dropLate_does _).same .spi

theorem writing_cells (s : State) (k : Nat) : (s.writing k).mem.cells = s.mem.cells :=
  (State.dropLate_does _).same .cells

theorem writing_kept (k : Nat) (hv : s.flag SPI_LATE.VALID = false) :
    s.writing k = s.frameOpen.during (writingFrame k) [] := dropLate_none _ hv

theorem reported_of_spi {t : State} {k : Nat} (h : t.spi = (s.writing k).spi) : Reported s t := by
  unfold Reported
  rw [h, writing_spi]
  exact ⟨rfl, rfl, rfl, rfl⟩

theorem reported_of_bankStep {t : State} {k : Nat} (h : BankStep (s.writing k) t) : Reported s t.settle := by
  obtain ⟨b, hb⟩ := h.spi
  unfold Reported
  rw [State.spi_settle, hb, writing_spi]
  exact ⟨rfl, rfl, rfl, rfl⟩

/-- The words of a frame that carries them all are written one after the other. -/
theorem writeFrame_folds {k step : Nat} (ha : a.toNat % 4 = 0) (hk : k ≤ l.length) (hh : s.holding = false) :
    s.frameOpen.writeFrame a.toNat step k l ev = (List.range k).foldl (fun u i =>
      u.busWrite .host ((a.toNat + step * i) % 2 ^ 24) (Tbl.get 0 l i) (Tbl.get {} ev i)) (s.writing k) :=
  writeFrame_writes ha hk hh

theorem write_illegal (h : s.FrameReady) (ha : a.toNat % 4 ≠ 0) :
    Runs (.write a n l ev) s Parts.bus (ShowsIllegal s) := by
  refine write_runs h ?_
  rw [writeFrame_illegal ha]
  exact illegalFrame_showsIllegal s

theorem writeFix_illegal (h : s.FrameReady) (ha : a.toNat % 4 ≠ 0) :
    Runs (.writeFix a n l ev) s Parts.bus (ShowsIllegal s) := by
  refine writeFix_runs h ?_
  rw [writeFrame_illegal ha]
  exact illegalFrame_showsIllegal s

/-- The words in their order, one after the other. -/
theorem write_folds (h : s.FrameReady) (hh : s.holding = false) (hv : s.flag SPI_LATE.VALID = false)
    (ha : a.toNat % 4 = 0) (hn : n.val < l.length) :
    Runs (.write a n l ev) s Parts.bus (fun t => t = State.settle ((List.range (n.val + 1)).foldl (fun u i =>
      u.busWrite .host ((a.toNat + 4 * i) % 2 ^ 24) (Tbl.get 0 l i) (Tbl.get {} ev i)) (s.frameOpen.modFrame fun f =>
      { f with kind := .write, words := n.val + 1, whole := true }))) := by
  refine write_runs h ?_
  rw [writeFrame_folds ha hn hh, writing_kept _ hv]
  rfl

theorem fixed_address (a : BitVec 24) (i : Nat) : (a.toNat + 0 * i) % 2 ^ 24 = a.toNat := by
  rw [Nat.zero_mul, Nat.add_zero, Nat.mod_eq_of_lt a.isLt]

theorem writeFix_folds (h : s.FrameReady) (hh : s.holding = false) (hv : s.flag SPI_LATE.VALID = false)
    (ha : a.toNat % 4 = 0) (hn : n.val < l.length) :
    Runs (.writeFix a n l ev) s Parts.bus (fun t => t = State.settle ((List.range (n.val + 1)).foldl (fun u i =>
      u.busWrite .host a.toNat (Tbl.get 0 l i) (Tbl.get {} ev i)) (s.frameOpen.modFrame fun f =>
      { f with kind := .write, words := n.val + 1, whole := true }))) := by
  refine writeFix_runs h ?_
  rw [writeFrame_folds ha hn hh, writing_kept _ hv]
  simp only [fixed_address]
  rfl

theorem write_banks (h : s.FrameReady) (hh : s.holding = false) (ha : a.toNat % 4 = 0) (hn : n.val < l.length)
    (hb : a.toNat + 4 * n.val < 0x41000) :
    Runs (.write a n l ev) s Parts.bus (fun t =>
      (∀ i ≤ n.val, memWord t.mem.cells (a.toNat + 4 * i) = Tbl.get 0 l i) ∧
      (∀ x : Nat, (x < a.toNat ∨ a.toNat + 4 * n.val + 4 ≤ x) → t.byteAt x = s.byteAt x) ∧ Reported s t) := by
  refine write_runs h ?_
  obtain ⟨u, e, step, words, bytes⟩ := foldl_busWrite_rising (a := a.toNat) (s.writing (n.val + 1)) (Tbl.get 0 l)
    (Tbl.get {} ev) (n.val + 1) (by omega)
  rw [writeFrame_folds ha hn hh]
  show _ ∧ _
  rw [e]
  refine ⟨fun i hi => words i (by omega), fun x hx => ?_, reported_of_bankStep step⟩
  exact (bytes x (by omega)).trans (by rw [writing_cells]; rfl)

theorem writeFix_bank (h : s.FrameReady) (hh : s.holding = false) (ha : a.toNat % 4 = 0) (hn : n.val < l.length)
    (hb : a.toNat < 0x41000) :
    Runs (.writeFix a n l ev) s Parts.bus (fun t => memWord t.mem.cells a.toNat = Tbl.get 0 l n.val ∧
      (∀ x : Nat, (x < a.toNat ∨ a.toNat + 4 ≤ x) → t.byteAt x = s.byteAt x) ∧ Reported s t) := by
  refine writeFix_runs h ?_
  obtain ⟨u, e, step, wrote⟩ := foldl_busWrite_fixed (a := a.toNat) (s.writing (n.val + 1)) (Tbl.get 0 l)
    (Tbl.get {} ev) n.val hb
  rw [writeFrame_folds ha hn hh]
  simp only [fixed_address]
  show _ ∧ _
  rw [e]
  refine ⟨wrote.1, fun x hx => ?_, reported_of_bankStep step⟩
  exact (wrote.2 x hx).trans (by rw [writing_cells]; rfl)

/-- A register that no rule refuses and whose write starts no action takes the word by its access codes (R18). -/
theorem frame_writes_register {step : Nat} {v : Word} {r : RegRow} (hh : s.holding = false)
    (hv : s.flag SPI_LATE.VALID = false) (ha : a.toNat % 4 = 0) (hb : 0x100000 ≤ a.toNat)
    (hn : s.frameOpen.NoAction .host a.toNat v (Tbl.get {} ev 0)) (hr : regRow a.toNat = some r)
    (hi : s.frameOpen.illegal .host a.toNat v = false) (hc : s.frameOpen.clearHeld a.toNat v = false) :
    s.frameOpen.writeFrame a.toNat step 1 [v] ev =
      (s.frameOpen.during (writingFrame 1) []).plainWrite r a.toNat v := by
  have e : (a.toNat + step * 0) % 2 ^ 24 = a.toNat := by rw [Nat.mul_zero, Nat.add_zero, Nat.mod_eq_of_lt a.isLt]
  rw [writeFrame_folds ha (le_refl 1) hh, writing_kept _ hv]
  show State.busWrite _ .host ((a.toNat + step * 0) % 2 ^ 24) v (Tbl.get {} ev 0) = _
  rw [e, busWrite_plain _ .host v hb (during_noAction (s := s.frameOpen) {} _ [] _ _ _ _ hn)]
  exact checkedWrite_ok _ r .host v hr hi hc

/-- The register at `x` took the word `v` by its access codes (R18), and no other register changed. -/
def TookWord (s : State) (x : Nat) (v : Word) (r : RegRow) (t : State) : Prop :=
  t.word x = r.written (s.word x) v ∧
    (t.waiting = if r.cut = 0 then s.waiting else Assoc.put s.waiting x (v &&& BitVec.ofNat 32 r.cut)) ∧
    (∀ y : Nat, y ≠ x → t.word y = s.word y) ∧ Reported s t

theorem written_register {v : Word} {r : RegRow} (hr : regRow a.toNat = some r) :
    TookWord s a.toNat v r ((s.frameOpen.during (writingFrame 1) []).plainWrite r a.toNat v).settle := by
  refine ⟨word_plainWrite_same _ r v, waiting_plainWrite _ r v hr, fun y hy => word_plainWrite_other _ r v hy, ?_⟩
  unfold Reported
  rw [State.spi_settle, spi_plainWrite]
  exact ⟨rfl, rfl, rfl, rfl⟩

theorem write_register {v : Word} {r : RegRow} (h : s.FrameReady) (hh : s.holding = false)
    (hv : s.flag SPI_LATE.VALID = false) (ha : a.toNat % 4 = 0) (hb : 0x100000 ≤ a.toNat)
    (hn : s.frameOpen.NoAction .host a.toNat v (Tbl.get {} ev 0)) (hr : regRow a.toNat = some r)
    (hi : s.frameOpen.illegal .host a.toNat v = false) (hc : s.frameOpen.clearHeld a.toNat v = false) :
    Runs (.write a 0 [v] ev) s Parts.bus (TookWord s a.toNat v r) :=
  write_runs h (by
    rw [show ((0 : Fin 16).val + 1) = 1 from rfl, frame_writes_register hh hv ha hb hn hr hi hc]
    exact written_register hr)

theorem writeFix_register {v : Word} {r : RegRow} (h : s.FrameReady) (hh : s.holding = false)
    (hv : s.flag SPI_LATE.VALID = false) (ha : a.toNat % 4 = 0) (hb : 0x100000 ≤ a.toNat)
    (hn : s.frameOpen.NoAction .host a.toNat v (Tbl.get {} ev 0)) (hr : regRow a.toNat = some r)
    (hi : s.frameOpen.illegal .host a.toNat v = false) (hc : s.frameOpen.clearHeld a.toNat v = false) :
    Runs (.writeFix a 0 [v] ev) s Parts.bus (TookWord s a.toNat v r) :=
  writeFix_runs h (by
    rw [show ((0 : Fin 16).val + 1) = 1 from rfl, frame_writes_register hh hv ha hb hn hr hi hc]
    exact written_register hr)

/-! ### CAN_IRQ_EN, a register of RW bits alone -/

/-- The row of CAN_IRQ_EN (R444). -/
def irqEnRow : RegRow := ⟨0x10B014, 0x0, 1, 0, 0x1FFF, 0, 0, 0, 0⟩

theorem regRow_irqEn : regRow CAN_IRQ_EN = some irqEnRow := by decide

theorem busWrite_irqEn (u : State) (v : Word) (x : Access) :
    u.busWrite .host CAN_IRQ_EN v x = u.plainWrite irqEnRow CAN_IRQ_EN v :=
  (busWrite_plain u .host v (by decide) ⟨rfl, rfl, rfl, rfl, rfl⟩).trans
    (checkedWrite_ok u irqEnRow .host v regRow_irqEn rfl (clearHeld_of_not_fault u v (by decide)))

theorem irqEnRow_written_getLsbD (w v : Word) {i : Nat} (h : i < 13) :
    (irqEnRow.written w v).getLsbD i = v.getLsbD i := by
  have masks : ∀ j < 13, (BitVec.ofNat 32 (irqEnRow.rw + irqEnRow.cmt)).getLsbD j = true ∧
      (BitVec.ofNat 32 irqEnRow.w1c).getLsbD j = false := by decide
  obtain ⟨set, keep⟩ := masks i h
  have h32 : i < 32 := by omega
  simp only [RegRow.written, BitVec.getLsbD_and, BitVec.getLsbD_or, BitVec.getLsbD_not, set, keep]
  simp [h32]

theorem plainWrite_irqEn (u : State) (v : Word) :
    (u.plainWrite irqEnRow CAN_IRQ_EN v).fld CAN_IRQ_EN.EN = v.toNat % 2 ^ 13 := by
  have e : (u.plainWrite irqEnRow CAN_IRQ_EN v).fld CAN_IRQ_EN.EN =
      CAN_IRQ_EN.EN.of (irqEnRow.written (u.word CAN_IRQ_EN) v) :=
    congrArg CAN_IRQ_EN.EN.of (word_plainWrite_same u irqEnRow v)
  rw [e]
  apply Nat.eq_of_testBit_eq
  intro i
  rw [Fld.testBit_of, Nat.testBit_mod_two_pow]
  by_cases h : i < 13
  · have bit : (irqEnRow.written (u.word CAN_IRQ_EN) v).getLsbD i = v.getLsbD i := irqEnRow_written_getLsbD _ _ h
    simp only [CAN_IRQ_EN.EN, h, Nat.zero_add]
    exact congrArg (true && ·) bit
  · simp [CAN_IRQ_EN.EN, h]

theorem write_irqEn {v : Word} (h : s.FrameReady) (hh : s.holding = false) :
    Runs (.write 0x10B014 0 [v] ev) s Parts.bus (fun t => t.fld CAN_IRQ_EN.EN = v.toNat % 2 ^ 13 ∧
      t.spi.frame.any (fun f => f.whole) = true ∧ (s.flag SPI_LATE.VALID = true → t.raised 0x0D06 = true ∧
      t.flag SPI_LATE.VALID = false) ∧ Reported s t) := by
  refine write_runs h ?_
  have e : s.frameOpen.writeFrame CAN_IRQ_EN 4 1 [v] ev = (s.writing 1).plainWrite irqEnRow CAN_IRQ_EN v :=
    (writeFrame_writes (by decide) (le_refl 1) hh).trans (busWrite_irqEn (s.writing 1) v (Tbl.get {} ev 0))
  show _ ∧ _
  rw [show s.frameOpen.writeFrame (0x10B014 : BitVec 24).toNat 4 ((0 : Fin 16) + 1) [v] ev = _ from e]
  have spi : ((s.writing 1).plainWrite irqEnRow CAN_IRQ_EN v).spi = (s.writing 1).spi := spi_plainWrite ..
  refine ⟨plainWrite_irqEn .., ?_, fun lost => ?_, reported_of_spi spi⟩
  · rw [State.spi_settle, spi, writing_spi]
    rfl
  · obtain ⟨raised, cleared⟩ := dropLate_lost (u := s.frameOpen.during (writingFrame 1) []) lost
    have keeps (y : Nat) (hy : y ≠ CAN_IRQ_EN) :
        ((s.writing 1).plainWrite irqEnRow CAN_IRQ_EN v).word y = (s.writing 1).word y := word_plainWrite_other _ _ v hy
    constructor
    · rw [← raised]
      exact congrArg (BitVec.getLsbD · _) (keeps SPI_FAULT (by decide))
    · rw [← cleared]
      exact congrArg (fun w => SPI_LATE.VALID.of w == 1) (keeps SPI_LATE (by decide))

theorem writeFix_irqEn {v w : Word} (h : s.FrameReady) (hh : s.holding = false) :
    Runs (.writeFix 0x10B014 1 [v, w] ev) s Parts.bus (fun t => t.fld CAN_IRQ_EN.EN = w.toNat % 2 ^ 13 ∧
      Reported s t) := by
  refine writeFix_runs h ?_
  have e : s.frameOpen.writeFrame CAN_IRQ_EN 0 2 [v, w] ev =
      ((s.writing 2).plainWrite irqEnRow CAN_IRQ_EN v).plainWrite irqEnRow CAN_IRQ_EN w := by
    refine (writeFrame_writes (by decide) (le_refl 2) hh).trans ?_
    show ((s.writing 2).busWrite .host CAN_IRQ_EN v (Tbl.get {} ev 0)).busWrite .host CAN_IRQ_EN w (Tbl.get {} ev 1) = _
    rw [busWrite_irqEn, busWrite_irqEn]
  show _ ∧ _
  rw [show s.frameOpen.writeFrame (0x10B014 : BitVec 24).toNat 0 ((1 : Fin 16) + 1) [v, w] ev = _ from e]
  exact ⟨plainWrite_irqEn .., reported_of_spi ((spi_plainWrite ..).trans (spi_plainWrite ..))⟩

end

end Sys2Proof.Machine

namespace Sys2Proof.Machine

set_option Elab.async false

/-- Settles O43, each clause by the lemma about its command: the frame opens, its words are read or written one after
the other, and the state settles. -/
theorem hostFramesOpen : Obligations.HostFramesOpen := by
  unfold Obligations.HostFramesOpen
  exact ⟨fun _ => statusByte_bits _ _ _ _ _,
    fun _ p d c q l m w => nop_opens ⟨p, d, c, q, l, m, w⟩,
    fun _ _ p d c q l m w => nop_illegal ⟨p, d, c, q, l, m, w⟩,
    fun _ _ _ p d c q l m w => status_answers ⟨p, d, c, q, l, m, w⟩,
    fun _ _ _ p d c q l m w => status_illegal ⟨p, d, c, q, l, m, w⟩,
    fun _ _ _ _ _ _ _ p d c q l m w free valid aligned carried inTime high low window tb rb slate row here alone draw =>
      read_registers ⟨p, d, c, q, l, m, w⟩ free valid aligned carried inTime low
        (fun i hi => ⟨by omega, window i hi, tb i hi, rb i hi, slate i hi, row i hi⟩) here alone draw,
    fun _ _ _ _ _ _ p d c q l m w => read_banks ⟨p, d, c, q, l, m, w⟩,
    fun _ _ _ _ _ _ p d c q l m w free valid inTime high aligned window tb rb slate row =>
      read_snapshot ⟨p, d, c, q, l, m, w⟩ free valid inTime aligned
        ⟨high, window, tb, rb, slate, row⟩,
    fun _ _ _ _ _ _ _ p d c q l m w free valid inTime high aligned window tb rb slate row =>
      read_latched ⟨p, d, c, q, l, m, w⟩ free valid inTime aligned
        ⟨high, window, tb, rb, slate, row⟩,
    fun _ _ _ _ _ _ _ p d c q l m w => read_illegal ⟨p, d, c, q, l, m, w⟩,
    fun _ _ _ _ _ _ p d c q l m w => read_late ⟨p, d, c, q, l, m, w⟩,
    fun _ _ _ _ p d c q l m w => read_hit ⟨p, d, c, q, l, m, w⟩,
    fun _ _ _ _ _ _ _ p d c q l m w free valid carried inTime high aligned window tb rb slate row =>
      readFix_register ⟨p, d, c, q, l, m, w⟩ free valid carried inTime aligned
        ⟨high, window, tb, rb, slate, row⟩,
    fun _ _ _ _ _ _ _ p d c q l m w => readFix_illegal ⟨p, d, c, q, l, m, w⟩,
    fun _ _ _ p d c q l m w => write_irqEn ⟨p, d, c, q, l, m, w⟩,
    fun _ _ _ _ _ p d c q l m w => write_banks ⟨p, d, c, q, l, m, w⟩,
    fun _ _ _ _ _ _ p d c q l m w free valid e high aligned present top motion analog links => by
      subst e
      exact write_register ⟨p, d, c, q, l, m, w⟩ free valid aligned high
        ⟨present, top, motion, analog, links⟩,
    fun _ _ _ _ _ p d c q l m w => write_folds ⟨p, d, c, q, l, m, w⟩,
    fun _ _ _ _ _ p d c q l m w => write_illegal ⟨p, d, c, q, l, m, w⟩,
    fun _ _ _ _ p d c q l m w => writeFix_irqEn ⟨p, d, c, q, l, m, w⟩,
    fun _ _ _ _ _ p d c q l m w => writeFix_bank ⟨p, d, c, q, l, m, w⟩,
    fun _ _ _ _ _ _ p d c q l m w free valid e high aligned present top motion analog links => by
      subst e
      exact writeFix_register ⟨p, d, c, q, l, m, w⟩ free valid aligned high
        ⟨present, top, motion, analog, links⟩,
    fun _ _ _ _ _ p d c q l m w => writeFix_folds ⟨p, d, c, q, l, m, w⟩,
    fun _ _ _ _ _ p d c q l m w => writeFix_illegal ⟨p, d, c, q, l, m, w⟩⟩

end Sys2Proof.Machine

namespace Sys2Proof.Machine

set_option Elab.async false

/-! ### The slate (R37) -/

/-- `runs_of`, with the meaning `x` of the command told by its frame. -/
theorem runs_meaning {i : Instr} {s : State} {l : List Field} {P : State → Prop} {x : Out} {f : State → State}
    (hd : ∀ t, x = .next t → Does l s t) (hp : s.powered = true) (h : P (f s).settle)
    (he : exec i s = x := by rfl) (hx : x = whenPowered s f := by rfl) : Runs i s l P := by
  subst he
  exact runs_of hx hp hd h

/-- `runs_host`, with the meaning `x` of the command told by its frame. -/
theorem runs_hostMeaning {i : Instr} {s : State} {l : List Field} {P : State → Prop} {x : Out} {f : State → State}
    {a : Nat} {v : Option Word} {c : Access}
    (hd : ∀ t, x = .next t → Does l s t) (hp : s.hostOpen) (h : P (f s).settle)
    (he : exec i s = x := by rfl) (hx : x = hostAccess s a v f c := by rfl) : Runs i s l P := by
  subst he
  exact runs_host hx hp hd h

/-- Settles O1: the meaning of SLATE_WRAP writes nothing but these two. -/
theorem slateWrapsToZero : Obligations.SlateWrapsToZero :=
  fun s h => runs_meaning (execSlateWrap_does s) h ⟨rfl, rfl⟩

/-! ### The crystal (R56 to R58, R64) -/

theorem Does.bitOf {l : List Field} {s t : State} (h : Does l s t) {f : Fld} (i : Nat)
    (ha : l.all (fun k => !k.covers f.addr) = true := by decide) : t.bitOf f i = s.bitOf f i := by
  unfold State.bitOf
  rw [h.fld ha]

theorem Does.raised {l : List Field} {s t : State} (h : Does l s t) {c u : Nat}
    (ha : l.all (fun k => !k.covers (faultReg (c / 256) u)) = true := by decide) : t.raised c u = s.raised c u := by
  unfold State.raised
  rw [h.word ha]

theorem flag_put_one (s : State) (f : Fld) (h : f.w = 1 ∧ f.lo + f.w ≤ 32 := by decide) :
    (s.put f 1).flag f = true := by
  rw [flag_put_same' s f 1 h.2, h.1]; rfl

theorem flag_put_zero (s : State) (f : Fld) (h : f.lo + f.w ≤ 32 := by decide) : (s.put f 0).flag f = false := by
  rw [flag_put_same' s f 0 h, Nat.zero_mod]; rfl

section
variable {s : State} (p : Nat) (hp : s.powered = true) (hr : s.clk.xtalRun = true)
include hp hr

theorem xtalMonitorWindow_good (h : 15 ≤ p) (h' : p ≤ 17) (hn : s.clk.goodRun < 1023) :
    Runs (.xtalMonitorWindow p) s [.one CLK_STAT, .one INT_DEG_CAUSE, .one INT_SAFE_CAUSE, .one MGT_LOG_STAT, .faults,
      .clk, .sys, .reel, .intg, .mgt, .can] (fun t => t.flag CLK_STAT.XTAL_GOOD = true ∧
      t.clk.goodRun = s.clk.goodRun + 1 ∧ t.clk.badRun = 0) := by
  refine runs_meaning (execXtalMonitorWindow_does p s) hp ?_
  have n : min 1024 (s.clk.goodRun + 1) = s.clk.goodRun + 1 := by omega
  have n' : s.clk.goodRun + 1 ≠ 1024 := by omega
  simp only [hr, h, h', n, n', decide_true, Bool.and_self, Bool.not_true, Bool.false_eq_true, if_false, if_true,
    State.clk_put]
  exact ⟨flag_put_one s _, rfl, rfl⟩

theorem xtalMonitorWindow_firstBad (h : p < 15 ∨ 17 < p) (hn : s.clk.badRun = 0) :
    Runs (.xtalMonitorWindow p) s [.one CLK_STAT, .one INT_DEG_CAUSE, .one INT_SAFE_CAUSE, .one MGT_LOG_STAT, .faults,
      .clk, .sys, .reel, .intg, .mgt, .can] (fun t => t.flag CLK_STAT.XTAL_GOOD = false ∧ t.clk.goodRun = 0 ∧
      t.clk.badRun = 1) := by
  refine runs_meaning (execXtalMonitorWindow_does p s) hp ?_
  have g : (decide (15 ≤ p) && decide (p ≤ 17)) = false := by
    simp only [Bool.and_eq_false_iff, decide_eq_false_iff_not]; omega
  simp only [hr, g, hn, State.clk_put, Bool.not_true, Bool.false_eq_true, if_false, Nat.reduceAdd, Nat.reduceLeDiff]
  exact ⟨flag_put_zero s _, rfl, rfl⟩

end

theorem xtalPass_qualifies {s : State} (hq : s.flag CLK_STAT.QUALIFYING = true)
    (hx : s.flag CLK_STAT.REF_XTAL = false) :
    s.xtalPass.clk.qualified = true ∧ s.xtalPass.flag CLK_STAT.QUALIFYING = false := by
  unfold State.xtalPass
  rw [if_pos (by simp [hq, hx])]
  exact ⟨rfl, flag_put_zero _ _⟩

theorem xtalQualified_passes {s : State} (hp : s.powered = true) (hr : s.clk.xtalRun = true)
    (hq : s.flag CLK_STAT.QUALIFYING = true) (hx : s.flag CLK_STAT.REF_XTAL = false) :
    Runs .xtalQualified s [.one CLK_STAT, .clk, .intg] (fun t => t.clk.qualified = true ∧
      t.flag CLK_STAT.QUALIFYING = false) := by
  refine runs_meaning (execXtalQualified_does s) hp ?_
  rw [if_pos hr]
  exact xtalPass_qualifies ((flag_put_ne _ _ _ _ (by decide)).trans hq) ((flag_put_ne _ _ _ _ (by decide)).trans hx)

/-- A crystal lost as the reference, before the loss is reported. -/
def State.crystalGone (s : State) : State :=
  let u := (s.put CLK_STAT.XTAL_GOOD 0).holdover
  { u with clk := { u.clk with goodRun := 0, badRun := 0, qualified := false, toRc := false } }

theorem crystalGone_shows (s : State) : s.crystalGone.flag CLK_STAT.XTAL_GOOD = false ∧
    s.crystalGone.flag CLK_STAT.HOLDOVER = true ∧ s.crystalGone.clk.holdover = 0xFFE :=
  ⟨(flag_put_ne (s.put CLK_STAT.XTAL_GOOD 0) _ _ _ (by decide)).trans (flag_put_zero s _),
    flag_put_one (s.put CLK_STAT.XTAL_GOOD 0) CLK_STAT.HOLDOVER, rfl⟩

/-- After the loss its report touches neither CLK_STAT nor the clock. -/
theorem xtalLoss_reports {s : State} (hx : s.flag CLK_STAT.REF_XTAL = true) :
    Does [.one INT_DEG_CAUSE, .one INT_SAFE_CAUSE, .sys] (s.crystalGone.raise 0x0201) s.xtalLoss := by
  have e : s.xtalLoss = if (s.crystalGone.raise 0x0201).clk.rcOk
      then (s.crystalGone.raise 0x0201).putBit INT_DEG_CAUSE.CAUSE 3 true
      else (s.crystalGone.raise 0x0201).safeCause 3 := if_neg (by simp [hx])
  rw [e]
  exact .ite ((State.putBit_does _ _ _ _ (Field.has_one _)).weaken (by decide))
    ((State.safeCause_does _ _).weaken (by decide))

theorem xtalLoss_shows {s : State} (hx : s.flag CLK_STAT.REF_XTAL = true) :
    s.xtalLoss.raised 0x0201 = true ∧ s.xtalLoss.flag CLK_STAT.XTAL_GOOD = false ∧
      s.xtalLoss.flag CLK_STAT.HOLDOVER = true ∧ s.xtalLoss.clk.holdover = 0xFFE := by
  obtain ⟨good, hold, clk⟩ := crystalGone_shows s
  have raised := State.raise_raised s.crystalGone 0x0201 0 (by decide) (by decide)
  have d := State.raise_does s.crystalGone 0x0201 0
  have r := xtalLoss_reports hx
  exact ⟨r.raised.trans raised, (r.flag (by decide)).trans ((d.flag (by decide)).trans good),
    (r.flag (by decide)).trans ((d.flag (by decide)).trans hold),
    (congrArg Clk.holdover ((r.same .clk).trans (d.same .clk))).trans clk⟩

theorem refSwitch_takes {s : State} (hp : s.powered = true) (hx : s.flag CLK_STAT.REF_XTAL = true)
    (hh : s.flag CLK_STAT.HOLDOVER = true) (hr : s.clk.rcOk = true) :
    Runs .refSwitch s [.one CLK_STAT, .one CAN_STAT, .one MGT_LOG_STAT, .faults, .reel, .intg, .mgt, .can]
      (fun t => t.flag CLK_STAT.REF_XTAL = false) := by
  refine runs_meaning (execRefSwitch_does s) hp ?_
  rw [if_pos (by simp [hx, hh, hr])]
  exact ((State.canRestrict_does _ true).flag (by decide)).trans (flag_put_zero s _)

theorem xtalStart_raises {s : State} (hp : s.powered = true) (he : s.flag CLK_CTRL.XTAL_EN = true)
    (hq : s.flag CLK_STAT.QUALIFYING = true) :
    Runs .xtalStart s [.one MGT_LOG_STAT, .faults, .reel, .intg, .mgt, .can] (fun t => t.raised 0x0202 = true) := by
  refine runs_meaning (execXtalStart_does s) hp ?_
  rw [if_pos (by simp [he, hq])]
  exact raised_raise_when _ _ _ _ _ _ (State.raise_raised _ _ _ (by decide) (by decide))

/-- Settles O2, command by command. -/
theorem crystalMonitorJudges : Obligations.CrystalMonitorJudges :=
  ⟨fun p _ => xtalMonitorWindow_good p, fun p _ => xtalMonitorWindow_firstBad p, fun _ => xtalQualified_passes,
    fun s hp hx => runs_meaning (execXtalLost_does s) hp (xtalLoss_shows hx), fun _ => refSwitch_takes,
    fun _ => xtalStart_raises⟩

end Sys2Proof.Machine

namespace Sys2Proof.Machine

set_option Elab.async false

/-! ### The clock registers (R55 to R67) -/

theorem flag_put_toNat (s : State) (f : Fld) (b : Bool) (h : f.w = 1 ∧ f.lo + f.w ≤ 32 := by decide) :
    (s.put f b.toNat).flag f = b := by
  cases b
  · exact flag_put_zero s f h.2
  · exact flag_put_one s f h

section
variable {s : State}

theorem writeXtalEn_same {en : Bool} (h : s.flag CLK_CTRL.XTAL_EN = en) : s.writeXtalEn en = s := by
  cases en <;> simp [State.writeXtalEn, h]

theorem writeXtalEn_starts (h : s.flag CLK_CTRL.XTAL_EN = false) :
    (s.writeXtalEn true).flag CLK_CTRL.XTAL_EN = true ∧
      (s.writeXtalEn true).flag CLK_STAT.QUALIFYING = !s.flag CLK_STAT.REF_XTAL ∧
      (s.writeXtalEn true).clk.xtalRun = true ∧ (s.writeXtalEn true).clk.goodRun = 0 := by
  unfold State.writeXtalEn
  rw [if_pos rfl, if_neg (by simp [h])]
  exact ⟨(flag_put_ne (s.put CLK_CTRL.XTAL_EN 1) _ _ _ (by decide)).trans (flag_put_one s _), flag_put_toNat (s.put CLK_CTRL.XTAL_EN 1) _ _, rfl, rfl⟩

theorem writeXtalEn_stops (h : s.flag CLK_CTRL.XTAL_EN = true) (hx : s.flag CLK_STAT.REF_XTAL = false) :
    (s.writeXtalEn false).flag CLK_CTRL.XTAL_EN = false ∧ (s.writeXtalEn false).flag CLK_STAT.QUALIFYING = false ∧
      (s.writeXtalEn false).flag CLK_STAT.XTAL_GOOD = false ∧ (s.writeXtalEn false).clk.xtalRun = false := by
  have e : s.writeXtalEn false = ((s.put CLK_CTRL.XTAL_EN 0).put CLK_STAT.QUALIFYING 0).xtalStop := by
    simp [State.writeXtalEn, h, hx]
  have d := State.xtalStop_does ((s.put CLK_CTRL.XTAL_EN 0).put CLK_STAT.QUALIFYING 0)
  rw [e]
  refine ⟨(d.flag (by decide)).trans ((flag_put_ne _ _ _ _ (by decide)).trans (flag_put_zero s _)), ?_,
    flag_put_zero _ _, rfl⟩
  exact (flag_put_ne _ _ _ _ (by decide)).trans (flag_put_zero _ _)

theorem writeXtalEn_toRc (h : s.flag CLK_CTRL.XTAL_EN = true) (hx : s.flag CLK_STAT.REF_XTAL = true) :
    (s.writeXtalEn false).flag CLK_CTRL.XTAL_EN = false ∧ (s.writeXtalEn false).clk.toRc = true := by
  have e : s.writeXtalEn false =
      let u := (s.put CLK_CTRL.XTAL_EN 0).put CLK_STAT.QUALIFYING 0
      { u with clk := { u.clk with toRc := true, qualified := false } } := by
    simp [State.writeXtalEn, h, hx]
  rw [e]
  exact ⟨(flag_put_ne (s.put CLK_CTRL.XTAL_EN 0) _ _ _ (by decide)).trans (flag_put_zero s _), rfl⟩

variable (h : s.hostOpen)
include h

theorem xtalEnable_runs {P : State → Prop} (en : Bool) (hP : P (s.writeXtalEn en).settle) :
    Runs (.xtalEnable en) s [.one CLK_CTRL, .one CLK_STAT, .clk, .intg, .spi] P :=
  runs_hostMeaning (execXtalEnable_does en s) h hP

theorem xtalEnable_same {en : Bool} (he : s.flag CLK_CTRL.XTAL_EN = en) :
    Runs (.xtalEnable en) s [.one CLK_CTRL, .one CLK_STAT, .clk, .intg, .spi]
      (fun t => t.regs = s.regs ∧ t.clk = s.clk) :=
  xtalEnable_runs h en (by rw [writeXtalEn_same he]; exact ⟨rfl, rfl⟩)

theorem xtalRetry_runs {P : State → Prop} (hP : P s.writeXtalRetry.settle) :
    Runs .xtalRetry s [.one CLK_STAT, .clk, .intg, .spi] P :=
  runs_hostMeaning (execXtalRetry_does s) h hP

theorem xtalRetry_restarts (he : s.flag CLK_CTRL.XTAL_EN = true) (hx : s.flag CLK_STAT.REF_XTAL = false) :
    Runs .xtalRetry s [.one CLK_STAT, .clk, .intg, .spi] (fun t => t.flag CLK_STAT.QUALIFYING = true ∧
      t.clk.goodRun = 0) := by
  refine xtalRetry_runs h ?_
  unfold State.writeXtalRetry
  rw [if_neg (by simp [he]), if_neg (by simp [hx])]
  constructor
  · exact flag_put_one _ CLK_STAT.QUALIFYING
  · rfl

theorem xtalRetry_onCrystal (he : s.flag CLK_CTRL.XTAL_EN = true) (hx : s.flag CLK_STAT.REF_XTAL = true) :
    Runs .xtalRetry s [.one CLK_STAT, .clk, .intg, .spi] (fun t => t.regs = s.regs ∧ t.clk = s.clk) := by
  refine xtalRetry_runs h ?_
  unfold State.writeXtalRetry
  rw [if_neg (by simp [he]), if_pos hx]
  exact ⟨rfl, rfl⟩

theorem xtalRetry_refused (he : s.flag CLK_CTRL.XTAL_EN = false) :
    Runs .xtalRetry s [.one CLK_STAT, .clk, .intg, .spi] (fun t => t.regs = s.regs ∧ t.clk = s.clk ∧
      t.spi.result = max s.spi.result 1) := by
  refine xtalRetry_runs h ?_
  unfold State.writeXtalRetry
  rw [if_pos (by simp [he])]
  exact ⟨rfl, rfl, rfl⟩

theorem frameLenWrite_waits {v : Word} (hv : s.frameLenRefused v = false) :
    Runs (.frameLenWrite v) s [.waiting, .intg, .spi] (fun t => t.waiting =
      Assoc.put s.waiting CLK_FRAME_LEN (v &&& cutMask CLK_FRAME_LEN)) := by
  refine runs_hostMeaning (execFrameLenWrite_does v s) h ?_
  rw [if_neg (by simp [hv])]
  rfl

theorem frameLenWrite_refused {v : Word} (hv : s.frameLenRefused v = true) :
    Runs (.frameLenWrite v) s [.waiting, .intg, .spi] (fun t => t.waiting = s.waiting ∧ t.regs = s.regs ∧
      t.spi.result = max s.spi.result 1) := by
  refine runs_hostMeaning (execFrameLenWrite_does v s) h ?_
  rw [if_pos hv]
  exact ⟨rfl, rfl, rfl⟩

theorem clkFaultClear_clears {v : Word} (hc : ∀ b < 9, s.clkCondition b = false) :
    Runs (.clkFaultClear v) s [.one CLK_FAULT, .intg, .spi] (fun t => t.word CLK_FAULT =
      s.word CLK_FAULT &&& ~~~v) := by
  refine runs_hostMeaning (execClkFaultClear_does v s) h ?_
  have none : ¬(List.range 9).any (fun b => v.getLsbD b && (s.word CLK_FAULT).getLsbD b && s.clkCondition b) = true := by
    simp only [List.any_eq_true, List.mem_range, Bool.and_eq_true, not_exists]
    rintro b ⟨hb, -, hcond⟩
    rw [hc b hb] at hcond
    contradiction
  unfold State.clearClkFault
  rw [if_neg none]
  exact s.word_setWord_same ..

theorem clkFaultClear_refused {v : Word} {b : Nat} (hb : b < 9) (hv : v.getLsbD b = true)
    (hf : (s.word CLK_FAULT).getLsbD b = true) (hc : s.clkCondition b = true) :
    Runs (.clkFaultClear v) s [.one CLK_FAULT, .intg, .spi] (fun t => t.regs = s.regs ∧
      t.spi.result = max s.spi.result 1) := by
  refine runs_hostMeaning (execClkFaultClear_does v s) h ?_
  unfold State.clearClkFault
  rw [if_pos (List.any_eq_true.mpr ⟨b, List.mem_range.mpr hb, by simp [hv, hf, hc]⟩)]
  exact ⟨rfl, rfl⟩

end

theorem cutMissed_raises {s : State} (hp : s.powered = true) :
    Runs .cutMissed s [.one MGT_LOG_STAT, .faults, .reel, .intg, .mgt, .can] (fun t => t.raised 0x0208 = true) := by
  refine runs_meaning (execCutMissed_does s) hp ?_
  exact State.raise_raised s 0x0208 0 (by decide) (by decide)

/-! ### The safe state of every axis (R278, R545) -/

/-- A fault of another block than REEL, ENG and ES leaves the reel alone (R103). -/
theorem raise_reel (s : State) (code unit : Nat)
    (h : ¬((code / 256 = 3 ∨ code / 256 = 4) ∨ code / 256 = 0x11) := by decide) :
    (s.raise code unit).reel = s.reel := by
  unfold State.raise
  dsimp only
  rw [if_neg (by simpa using h)]
  exact ((State.logFault_does _ _ _).same .reel).trans
    ((State.setFault_does _ _ _ _ _ _ _ ⟨_, _, .inl rfl⟩ ⟨_, _, .inr rfl⟩).same .reel)

theorem axisUsed_of_reel {s t : State} (h : t.reel = s.reel) (n : Nat) : t.axisUsed n = s.axisUsed n := by
  unfold State.axisUsed State.axisEntry
  rw [h]

/-- What changes neither MOD_AX_STAT nor all registers leaves every axis of the device in its safe state. -/
theorem Does.isSafe {l : List Field} {s t : State} (h : Does l s t) {m : Nat} (hm : m < 12)
    (hl : ∀ m < 12, l.all (fun k => !k.covers (MOD_AX_STAT m)) = true := by decide) : t.isSafe m = s.isSafe m :=
  h.flag (hl m hm)

theorem setAxCause_isSafe (s : State) (n c : Nat) {m : Nat} (hm : m < 12) :
    (s.setAxCause n c).isSafe m = s.isSafe m := (State.setAxCause_does s n c).isSafe hm

/-- The bits that show an axis in its safe state (R278, R545). -/
def State.showSafe (s : State) (n : Nat) : State :=
  ((s.put (MOD_AX_STAT.SAFE n) 1).putBit MOD_STAT.SAFE n true).setCoast n 0

/-- MOD_STAT is none of the axis registers of its block. -/
theorem modAxStat_ne (m : Nat) : MOD_AX_STAT m ≠ MOD_STAT := by
  unfold MOD_AX_STAT MOD_STAT
  omega

theorem showSafe_isSafe (s : State) (n m : Nat) (h : s.isSafe m = true ∨ m = n) : (s.showSafe n).isSafe m = true := by
  have shown : (s.put (MOD_AX_STAT.SAFE n) 1).isSafe m = true := by
    by_cases e : m = n
    · subst e; exact flag_put_one _ _ ⟨rfl, by simp [ MOD_AX_STAT.SAFE]⟩
    · refine (s.flag_put_other 1 (.inl fun a => e ?_)).trans (h.resolve_right e)
      simp only [ MOD_AX_STAT.SAFE, MOD_AX_STAT] at a
      omega
  refine (State.flag_put_other _ _ (.inl (modAxStat_ne m))).trans ?_
  refine (State.flag_put_other _ _ (.inr (.inr (by simp [ MOD_AX_STAT.SAFE, MOD_AX_STAT.COAST])))).trans ?_
  exact (State.flag_put_other _ _ (.inl (modAxStat_ne m))).trans shown

theorem enterSafe_isSafe (s : State) (c : Nat) {n m : Nat} (hm : m < 12)
    (h : s.isSafe m = true ∨ m = n ∧ s.axisUsed n = true) : (s.enterSafe n c).isSafe m = true := by
  unfold State.enterSafe
  by_cases hu : s.axisUsed n = true
  · by_cases hs : s.isSafe n = true
    · have safe : s.isSafe m = true := h.elim id fun e => e.1 ▸ hs
      rw [if_neg (by simp [hu]), if_pos hs]
      split
      · exact (setAxCause_isSafe _ _ _ hm).trans safe
      · exact safe
    · rw [if_neg (by simp [hu]), if_neg hs]
      refine ((State.drive_does _ n).isSafe hm).trans ?_
      have fast : ∀ i : State → Intg, (s.when (s.aboveStop n) fun s => { s with intg := i s }).isSafe m = true ∨ m = n := fun i =>
        h.imp (fun safe => (when_flag s (s.aboveStop n) (fun s => { s with intg := i s }) (MOD_AX_STAT.SAFE m) rfl).trans safe)
          And.left
      have shown : ∀ u : State, (u.isSafe m = true ∨ m = n) → ((u.showSafe n).setAxCause n c).isSafe m = true :=
        fun u hu => (setAxCause_isSafe _ _ _ hm).trans (showSafe_isSafe u n m hu)
      split
      · exact shown _ (fast _)
      · exact shown _ (fast _)
  · rw [if_pos (by simp [hu])]
    exact h.elim id fun e => absurd e.2 hu

/-- Every axis of a list enters its safe state, and one that is there stays. -/
theorem eachEnterSafe_isSafe (c : Nat) {m : Nat} (hm : m < 12) (l : List Nat) (s : State)
    (h : s.isSafe m = true ∨ m ∈ l ∧ s.axisUsed m = true) :
    (s.each l (fun s n => s.enterSafe n c)).isSafe m = true := by
  induction l generalizing s with
  | nil => exact h.resolve_right (by simp)
  | cons n l ih =>
    have used : (s.enterSafe n c).axisUsed m = s.axisUsed m :=
      axisUsed_of_reel ((State.enterSafe_does s n c).same .reel) m
    refine ih (s.enterSafe n c) ?_
    obtain safe | ⟨mem, hu⟩ := h
    · exact .inl (enterSafe_isSafe s c hm (.inl safe))
    · obtain rfl | mem := List.mem_cons.mp mem
      · exact .inl (enterSafe_isSafe s c hm (.inr ⟨rfl, hu⟩))
      · exact .inr ⟨mem, used.trans hu⟩

theorem allSafe_isSafe (s : State) (c : Nat) {n : Nat} (hn : n < 12) (hu : s.axisUsed n = true) :
    (s.allSafe c).isSafe n = true :=
  eachEnterSafe_isSafe c hn _ s (.inr ⟨List.mem_filter.mpr ⟨List.mem_range.mpr hn, hu⟩, hu⟩)

theorem bitOf_putBit_same (s : State) (f : Fld) (i : Nat) (b : Bool)
    (h : i < f.w ∧ f.lo + f.w ≤ 32 := by decide) : (s.putBit f i b).bitOf f i = b := by
  unfold State.bitOf
  rw [putBit_eq, testBit_put_same s f i _ h.1 h.2]
  cases b <;> rfl

theorem slateDecode_makesSafe {s : State} (hp : s.powered = true) :
    Runs .slateDecode s [.one MOD_STAT, .row MOD_AX_STAT, .row PWR_AX_LIVE,
      .one INT_SAFE_CAUSE, .one INT_AXCAUSE_LO, .one INT_AXCAUSE_HI, .one MGT_LOG_STAT, .faults, .sys, .reel, .intg,
      .mgt, .can, .mods, .pwr] (fun t => t.raised 0x0206 = true ∧ t.bitOf INT_SAFE_CAUSE.CAUSE 2 = true ∧
      (∀ n < 12, s.axisUsed n = true → t.isSafe n = true)) := by
  refine runs_meaning (execSlateDecode_does s) hp ?_
  have raised := State.raise_raised s 0x0206 0 (by decide) (by decide)
  have cause := State.safeCause_does (s.raise 0x0206) 2
  have safe := State.allSafe_does ((s.raise 0x0206).safeCause 2) 9
  have reel : ((s.raise 0x0206).safeCause 2).reel = s.reel := (cause.same .reel).trans (raise_reel s 0x0206 0)
  refine ⟨safe.raised.trans (cause.raised.trans raised), (safe.bitOf 2).trans ?_, fun n hn hu => ?_⟩
  · exact bitOf_putBit_same (s.raise 0x0206) INT_SAFE_CAUSE.CAUSE 2 true
  · exact allSafe_isSafe _ 9 hn ((axisUsed_of_reel reel n).trans hu)

/-- Settles O4, command by command. -/
theorem clockRegisterWrites : Obligations.ClockRegisterWrites :=
  ⟨fun _ h he => xtalEnable_runs h true (writeXtalEn_starts he), fun _ h he => xtalEnable_same h he,
    fun _ h he => xtalEnable_same h he, fun _ h he hx => xtalEnable_runs h false (writeXtalEn_stops he hx),
    fun _ h he hx => xtalEnable_runs h false (writeXtalEn_toRc he hx), fun _ h => xtalRetry_restarts h,
    fun _ h => xtalRetry_onCrystal h, fun _ h => xtalRetry_refused h, fun _ _ h => frameLenWrite_waits h,
    fun _ _ h => frameLenWrite_refused h, fun _ _ h => clkFaultClear_clears h,
    fun _ _ _ h => clkFaultClear_refused h, fun _ => cutMissed_raises, fun _ => slateDecode_makesSafe⟩

end Sys2Proof.Machine

namespace Sys2Proof.Machine

set_option Elab.async false

/-! ### The reel at the end of BOOT (R79, R91, R585) -/

section
variable (s : State) (n : Nat)

theorem interlock_reel (k : Nat) : (s.interlock n k).reel = s.reel := by
  unfold State.interlock
  dsimp only
  split
  · exact ((State.enterSafe_does _ _ _).same .reel).trans (raise_reel _ 0x0708 0)
  · rfl

theorem driveChecked_reel : (s.driveChecked n).reel = s.reel := by
  refine each_reel s _ _ fun s k => ?_
  dsimp only
  split
  · exact (interlock_reel _ n k).trans ((State.driveHb_does s n k).same .reel)
  · exact (State.driveHb_does s n k).same .reel

theorem cmtTransfer_reel : (s.cmtTransfer n).reel = s.reel := by
  have cleared : ∀ b : Bool, (if b then s.clearLoops n else s).reel = s.reel := fun b => by cases b <;> rfl
  unfold State.cmtTransfer
  split
  · rfl
  · dsimp only
    split
    · exact (raise_reel _ 0x070A 0).trans (cleared _)
    · exact cleared _

theorem modStandby_reel : (s.modStandby n).reel = s.reel :=
  (driveChecked_reel _ n).trans (cmtTransfer_reel s n)

theorem thermalBoot_reel : s.thermalBoot.reel = s.reel := by
  show s.thermalLook.reel = s.reel
  unfold State.thermalLook
  dsimp only
  split
  · exact raise_reel _ 0x080B 0
  · split <;> rfl

/-- Its sections reach what they configure, and the loaded reel itself stays. -/
theorem bootLoad_reel : s.bootLoad.reel = s.reel := by
  refine (each_reel _ _ _ modStandby_reel).trans ((thermalBoot_reel _).trans ?_)
  refine ((State.canBoot_does _).same .reel).trans (((State.showTake_does _).same .reel).trans ?_)
  refine ((State.adcLoad_does _).same .reel).trans (((State.loadEngines_does _).same .reel).trans ?_)
  refine ((State.loadBanks_does _).same .reel).trans (((State.ownersWait_does _).same .reel).trans ?_)
  exact (State.loadOwners_does s _).same .reel

end

/-- A request of RESET with its key over the bus is carried out on every path. -/
theorem busWrite_reset (s : State) (p : Path) (x : Access) :
    s.busWrite p SYS_MODE_REQ (reqWord 6 0xA5) x = s.resetBy 6 := by
  have there : s.absent SYS_MODE_REQ = false := rfl
  have request : s.modeRequest p (reqWord 6 0xA5) = s.resetBy 6 := by
    have req : SYS_MODE_REQ.REQ.of (reqWord 6 0xA5) = 6 := reqWord_req _ (by decide)
    have key : SYS_MODE_REQ.KEY.of (reqWord 6 0xA5) = 0xA5 := reqWord_key _ (by decide)
    unfold State.modeRequest
    dsimp only
    rw [req, key, if_neg (by decide), if_pos rfl, if_pos rfl]
  have act : s.actTop p SYS_MODE_REQ (reqWord 6 0xA5) = some (s.resetBy 6) := by
    unfold State.actTop
    rw [if_pos rfl, request]
  have bank : bankOf SYS_MODE_REQ = none := by decide
  unfold State.busWrite
  rw [bank]
  show (if SYS_MODE_REQ < 0x100000 then s else s.writeReg p SYS_MODE_REQ (reqWord 6 0xA5) x) = _
  unfold State.writeReg
  rw [if_neg (by decide), if_neg (by simp [there]), act]

theorem loadPair_reset {s : State} (h : s.sys.inReset = false) :
    (s.loadPair false SYS_MODE_REQ (reqWord 6 0xA5)).1 = true ∧
      (s.loadPair false SYS_MODE_REQ (reqWord 6 0xA5)).2.reel = {} := by
  have value : ∀ u : State, u.pairValue false SYS_MODE_REQ (reqWord 6 0xA5) = reqWord 6 0xA5 := fun u => by
    unfold State.pairValue
    dsimp only
    rw [if_neg (by simp), if_neg (by decide)]
  have write : ∀ u : State, u.pairWrite false SYS_MODE_REQ (reqWord 6 0xA5) = u.resetBy 6 := fun u => by
    show u.busWrite .mc SYS_MODE_REQ (u.pairValue false SYS_MODE_REQ (reqWord 6 0xA5)) {} = _
    rw [value u, busWrite_reset]
  have reset : ∀ u : State, u.sys.inReset = false → (u.resetBy 6).spi.result = 0 ∧ (u.resetBy 6).reel = {} := by
    intro u hu
    unfold State.resetBy
    rw [if_neg (by simp [hu])]
    exact ⟨rfl, rfl⟩
  obtain ⟨result, reel⟩ := reset { s with spi := { s.spi with result := 0 } } h
  unfold State.loadPair
  rw [if_neg (by simp)]
  simp only [State.apart, write, result]
  exact ⟨rfl, reel⟩

theorem loadPairs_reset {s : State} (h : s.sys.inReset = false) :
    s.loadPairs false [(SYS_MODE_REQ, reqWord 6 0xA5)] =
      (true, 0, (s.loadPair false SYS_MODE_REQ (reqWord 6 0xA5)).2) := by
  have axis : cmtAxis SYS_MODE_REQ = none := by decide
  simp only [State.loadPairs, (loadPair_reset h).1, axis, Bool.not_true, Bool.false_eq_true, if_false, Bool.and_self,
    BitVec.or_self]

/-- A request of RESET as the one REG_INIT pair of a reel that uses no axis: every register takes its value, and after
it no reel is active. -/
theorem loadRegs_reset {s : State} (hr : s.sys.inReset = false) (hu : s.reel.struct.engines = [])
    (hi : s.reel.active.regInit = [(SYS_MODE_REQ, reqWord 6 0xA5)]) :
    (s.loadRegs false).1 = true ∧ (s.loadRegs false).2.reel = {} := by
  have used : s.usedAxes = [] := by simp [State.usedAxes, State.axisUsed, State.axisEntry, hu]
  have none : (List.range 12).filter (fun n => inMask (0 ||| 0) n && s.part.hasAxis n) = [] :=
    List.filter_eq_nil_iff.mpr fun n _ => by simp [inMask]
  unfold State.loadRegs
  simp only [used, State.loadAxes, hi, loadPairs_reset hr, none]
  exact ⟨rfl, (loadPair_reset hr).2⟩

/-- In BOOT with a reel loaded whose one REG_INIT pair is a request of RESET with its key. -/
def resettingReel : State :=
  { State.reset with
    sys := { mode := .boot, inReset := false, boot := .reel }
    reel := { active := { regInit := [(SYS_MODE_REQ, reqWord 6 0xA5)] } } }

theorem bootHeader_reel (s : State) (first : Nat) : (s.bootHeader first).settle.reel = s.reel :=
  (State.bootHeader_does s first).same .reel

/-- BOOT_END of a loaded reel whose registers take their values leaves the reel as loading the registers left it. -/
theorem bootEnd_reel {s t : State} {late : Nat} (hp : s.powered = true) (hb : s.sys.boot = .reel)
    (hl : (s.bootLoad.loadRegs false).1 = true) (h : exec (.bootEnd ⟨late, false⟩) s = .next t) :
    t.reel = (s.bootLoad.loadRegs false).2.reel := by
  have e : execBootEnd ⟨late, false⟩ s = .next t := h
  unfold execBootEnd whenPowered done at e
  rw [if_pos hp] at e
  dsimp only at e
  rw [if_neg (by simp [hb]), if_neg (by simp), if_neg (by simp [hl])] at e
  obtain rfl := Host.Outcome.next.inj e
  exact bootHeader_reel _ _

/-- Refutes O8, at its clause on BOOT_END. A REG_INIT pair that addresses SYS fails check 9 of R88, but the clause does
not ask that the loaded reel passed it: the request of RESET of `resettingReel` is taken, and after it the reel is no
longer the active one. -/
theorem not_reelSelectedAtBoot : ¬ Obligations.ReelSelectedAtBoot := by
  rintro ⟨-, -, -, -, -, -, -, -, ended, -⟩
  have reel := bootLoad_reel resettingReel
  have out : resettingReel.bootLoad.sys.inReset = false :=
    congrArg Sys.inReset ((State.bootLoad_does resettingReel).same .sys)
  obtain ⟨loads, gone⟩ := loadRegs_reset out (congrArg (·.struct.engines) reel) (congrArg (·.active.regInit) reel)
  obtain ⟨t, run, -, -, -, -, active⟩ := ended 0 resettingReel rfl rfl loads
  have none : t.reel = {} := (bootEnd_reel rfl rfl loads run).trans gone
  rw [none] at active
  exact absurd (congrArg Copy.regInit active) (by decide)

end Sys2Proof.Machine

namespace Sys2Proof.Machine

set_option Elab.async false

/-! ### The FLLs, the RC oscillator and LPO (R44, R61 to R65) -/

theorem bitOf_put_ne (s : State) (f g : Fld) (v i : Nat)
    (h : g.addr ≠ f.addr ∨ g.lo + g.w ≤ f.lo ∨ f.lo + f.w ≤ g.lo) : (s.put f v).bitOf g i = s.bitOf g i := by
  unfold State.bitOf
  rw [fld_put_ne s f g v h]

theorem fllRelock_locks (isl : Fin 12) {s : State} (hp : s.powered = true) (h : 1 ≤ isl.val) :
    Runs (.fllRelock isl) s [.one CLK_STAT, .clk, .intg] (fun t => t.bitOf CLK_STAT.ISL_OK isl = true ∧
      t.clk.holdover = s.clk.holdover &&& ~~~(1#12 <<< isl.val)) := by
  have shown : ∀ (u : State) (v : Nat),
      ((u.putBit CLK_STAT.ISL_OK isl true).put CLK_STAT.HOLDOVER v).bitOf CLK_STAT.ISL_OK isl = true := fun u v =>
    (bitOf_put_ne _ CLK_STAT.HOLDOVER CLK_STAT.ISL_OK v isl (by decide)).trans
      (bitOf_putBit_same u CLK_STAT.ISL_OK isl true ⟨isl.isLt, by decide⟩)
  refine runs_meaning (execFllRelock_does isl s) hp ?_
  rw [if_neg (by omega)]
  exact ⟨shown _ _, rfl⟩

/-- What a lost RC leads to: DEGRADED, or holdover and SAFE (R61, R543, R544). -/
def State.rcGone (u : State) : State :=
  if u.flag CLK_STAT.REF_XTAL && !u.flag CLK_STAT.HOLDOVER then u.putBit INT_DEG_CAUSE.CAUSE 4 true
  else u.holdover.safeCause 3

theorem rcGone_keeps (u : State) : u.rcGone.raised 0x0203 = u.raised 0x0203 ∧ u.rcGone.clk.rcOk = u.clk.rcOk := by
  unfold State.rcGone
  split
  · exact ⟨(State.putBit_does u INT_DEG_CAUSE.CAUSE 4 true (Field.has_one _)).raised, rfl⟩
  · exact ⟨((State.safeCause_does _ 3).raised).trans (State.holdover_does u).raised, rfl⟩

theorem rcLost_raises {s : State} (hp : s.powered = true) (h : s.clk.rcOk = true) :
    Runs .rcLost s [.one CLK_STAT, .one INT_DEG_CAUSE, .one INT_SAFE_CAUSE, .one MGT_LOG_STAT, .faults, .clk, .sys,
      .reel, .intg, .mgt, .can] (fun t => t.raised 0x0203 = true ∧ t.clk.rcOk = false) := by
  have shown : ∀ u : State, u.clk.rcOk = false →
      (u.raise 0x0203).rcGone.raised 0x0203 = true ∧ (u.raise 0x0203).rcGone.clk.rcOk = false := fun u hu => by
    obtain ⟨flag, rc⟩ := rcGone_keeps (u.raise 0x0203)
    have clk := (State.raise_does u 0x0203 0).same .clk
    exact ⟨flag.trans (State.raise_raised u 0x0203 0 (by decide) (by decide)),
      rc.trans ((congrArg Clk.rcOk clk).trans hu)⟩
  refine runs_meaning (execRcLost_does s) hp ?_
  rw [if_neg (by simp [h])]
  exact shown { s with clk := { s.clk with rcOk := false } } rfl

theorem rcReturn_ends {s : State} (hp : s.powered = true) :
    Runs .rcReturn s [.one INT_DEG_CAUSE, .clk, .intg] (fun t => t.clk.rcOk = true ∧
      t.bitOf INT_DEG_CAUSE.CAUSE 4 = false) := by
  refine runs_meaning (execRcReturn_does s) hp ?_
  exact ⟨rfl, bitOf_putBit_same { s with clk := { s.clk with rcOk := true } } INT_DEG_CAUSE.CAUSE 4 false⟩

theorem lpoMeasure_starts {s : State} (hp : s.powered = true) (hm : s.sys.mode = .standby)
    (hc : s.mgt.mcOk = true) (hs : s.mgt.stopped = false) :
    Runs .lpoMeasure s [.one CLK_STAT, .intg] (fun t => t.flag CLK_STAT.LPO_BUSY = true) := by
  refine runs_meaning (execLpoMeasure_does s) hp ?_
  rw [if_pos (by simp [hm, State.mcRuns, hc, hs, Mode.supervises])]
  exact flag_put_one s CLK_STAT.LPO_BUSY

theorem lpoCal_starts {s : State} (h : s.hostOpen) :
    Runs .lpoCal s [.one CLK_STAT, .intg, .spi] (fun t => t.flag CLK_STAT.LPO_BUSY = true) := by
  refine runs_hostMeaning (execLpoCal_does s) h ?_
  exact flag_put_one s CLK_STAT.LPO_BUSY

/-- The registers and the clock as a measurement leaves them that found `per`. -/
def State.lpoMeasured (s : State) (per : Word) : State :=
  let u := (s.put CLK_STAT.LPO_BUSY 0).setWord CLK_LPO_PER per
  { u with clk := { u.clk with lpoOk := lpoInRange per } }

theorem lpoMeasured_shows (s : State) (per : Word) : (s.lpoMeasured per).flag CLK_STAT.LPO_BUSY = false ∧
    (s.lpoMeasured per).word CLK_LPO_PER = per ∧ (s.lpoMeasured per).clk.lpoOk = lpoInRange per :=
  ⟨(flag_setWord_ne (s.put CLK_STAT.LPO_BUSY 0) _ _ _ (by decide)).trans (flag_put_zero s _),
    State.word_setWord_same .., rfl⟩

theorem lpoJudged_raises (u : State) (ok : Bool) :
    let t := u.when (!ok) (fun s => s.raise 0x0205)
    t.flag CLK_STAT.LPO_BUSY = u.flag CLK_STAT.LPO_BUSY ∧ t.word CLK_LPO_PER = u.word CLK_LPO_PER ∧ t.clk = u.clk ∧
      (ok = false → t.raised 0x0205 = true) := by
  have d := State.raise_does u 0x0205 0
  cases ok
  · exact ⟨d.flag (by decide), d.word (by decide), d.same .clk,
      fun _ => State.raise_raised u 0x0205 0 (by decide) (by decide)⟩
  · exact ⟨rfl, rfl, rfl, fun h => by contradiction⟩

theorem lpoMeasureDone_judges (per : Word) {s : State} (hp : s.powered = true)
    (hb : s.flag CLK_STAT.LPO_BUSY = true) :
    Runs (.lpoMeasureDone per) s [.one CLK_STAT, .one CLK_LPO_PER, .one MGT_LOG_STAT, .faults, .clk, .reel, .intg,
      .mgt, .can] (fun t => t.flag CLK_STAT.LPO_BUSY = false ∧ t.word CLK_LPO_PER = per ∧
      t.clk.lpoOk = lpoInRange per ∧ (lpoInRange per = false → t.raised 0x0205 = true)) := by
  refine runs_meaning (execLpoMeasureDone_does per s) hp ?_
  rw [if_neg (by simp [hb])]
  obtain ⟨busy, period, ok⟩ := lpoMeasured_shows s per
  obtain ⟨flag, word, clk, raises⟩ := lpoJudged_raises (s.lpoMeasured per) (lpoInRange per)
  exact ⟨flag.trans busy, word.trans period, (congrArg Clk.lpoOk clk).trans ok, raises⟩

theorem sleepSat_saturates {s : State} (hm : s.sys.mode = .sleep) (hr : s.sys.inReset = false) :
    Runs .sleepSat s [.keep, .intg] (fun t => t.keep.count = 0xFFFFFFFFFF ∧ t.keep.sat = true) := by
  refine runs_done (u := { s with keep := { s.keep with count := 0xFFFFFFFFFF, sat := true } }) ?_
    (execSleepSat_does s) ⟨rfl, rfl⟩
  show execSleepSat s = _
  unfold execSleepSat
  rw [if_pos (by simp [hm, hr])]

end Sys2Proof.Machine

namespace Sys2Proof.Machine

set_option Elab.async false

/-! ### What no fault of an engine takes back (R24, R544) -/

/-- The fault codes of CLK, of the engines and of ES. -/
def clockBlock (c : Nat) : Prop := c / 256 = 0x02 ∨ c / 256 = 0x04 ∨ c / 256 = 0x11

/-- From `s` to `t` no such fault flag and no cause of SAFE is cleared. -/
def Stands (s t : State) : Prop :=
  (∀ c, clockBlock c → s.raised c = true → t.raised c = true) ∧
    ∀ i, s.bitOf INT_SAFE_CAUSE.CAUSE i = true → t.bitOf INT_SAFE_CAUSE.CAUSE i = true

theorem Stands.refl (s : State) : Stands s s := ⟨fun _ _ => id, fun _ => id⟩

theorem Stands.trans {s t u : State} (h : Stands s t) (h' : Stands t u) : Stands s u :=
  ⟨fun c hc x => h'.1 c hc (h.1 c hc x), fun i x => h'.2 i (h.2 i x)⟩

theorem clockBlock.faultReg {c : Nat} (h : clockBlock c) :
    faultReg (c / 256) 0 = CLK_FAULT ∨ faultReg (c / 256) 0 = ENG_FAULT := by
  rcases h with h | h | h <;> rw [h]
  · exact .inl rfl
  · exact .inr rfl
  · exact .inr rfl

theorem Does.stands {l : List Field} {s t : State} (h : Does l s t)
    (hl : [CLK_FAULT, ENG_FAULT, INT_SAFE_CAUSE].all (fun r => l.all (fun k => !k.covers r)) = true := by decide) :
    Stands s t := by
  have apart : ∀ r ∈ [CLK_FAULT, ENG_FAULT, INT_SAFE_CAUSE], l.all (fun k => !k.covers r) = true :=
    List.all_eq_true.mp hl
  refine ⟨fun c hc x => ?_, fun i x => (h.bitOf i (apart INT_SAFE_CAUSE (by simp))).trans x⟩
  refine (h.raised ?_).trans x
  obtain e | e := hc.faultReg
  · rw [e]; exact apart CLK_FAULT (by simp)
  · rw [e]; exact apart ENG_FAULT (by simp)

theorem raise_stands (s : State) (code unit : Nat) : Stands s (s.raise code unit) :=
  ⟨fun _ _ => State.raised_of_raise s code unit, fun i x => ((State.raise_does s code unit).bitOf i).trans x⟩

theorem event_stands (s : State) (ev eng : Nat) (axes : BitVec 12) (cause t : Nat) :
    Stands s (s.event ev eng axes cause t) :=
  ⟨fun _ _ => State.event_raised s ev eng axes cause t,
    fun i x => ((State.event_does s ev eng axes cause t).bitOf i).trans x⟩

theorem each_stands {β : Type} (l : List β) (f : State → β → State) (h : ∀ s b, Stands s (f s b)) (s : State) :
    Stands s (s.each l f) := by
  induction l generalizing s with
  | nil => exact .refl s
  | cons b l ih => exact (h s b).trans (ih _)

theorem Stands.ofRegs {s t : State} (h : t.regs = s.regs) : Stands s t := by
  have word : ∀ a, t.word a = s.word a := fun a => congrArg (Store.get regReset · a) h
  have same : ∀ c, t.raised c = s.raised c := fun c => by unfold State.raised; rw [word]
  have bits : ∀ f i, t.bitOf f i = s.bitOf f i := fun f i => by unfold State.bitOf State.fld; rw [word]
  exact ⟨fun c _ x => (same c).trans x, fun i x => (bits _ i).trans x⟩

theorem put_stands (s : State) (f : Fld) (v : Nat)
    (h : CLK_FAULT ≠ f.addr ∧ ENG_FAULT ≠ f.addr ∧ INT_SAFE_CAUSE ≠ f.addr := by decide) : Stands s (s.put f v) := by
  obtain ⟨clk, eng, cause⟩ := h
  refine ⟨fun c hc x => (raised_put s f v c 0 ?_).trans x, fun i x => (bitOf_put_ne s f _ v i (.inl cause)).trans x⟩
  obtain e | e := hc.faultReg
  · rw [e]; exact clk
  · rw [e]; exact eng

theorem putBit_stands (s : State) (f : Fld) (i : Nat) (b : Bool)
    (h : CLK_FAULT ≠ f.addr ∧ ENG_FAULT ≠ f.addr ∧ INT_SAFE_CAUSE ≠ f.addr := by decide) :
    Stands s (s.putBit f i b) := put_stands s ⟨f.addr, _, 1⟩ _ h

theorem bump_stands (s : State) (f : Fld) (n : Nat)
    (h : CLK_FAULT ≠ f.addr ∧ ENG_FAULT ≠ f.addr ∧ INT_SAFE_CAUSE ≠ f.addr := by decide) :
    Stands s (s.bump f n) := put_stands s f _ h

theorem when_stands (s : State) (b : Bool) (f : State → State) (h : ∀ s, Stands s (f s)) : Stands s (s.when b f) := by
  cases b
  · exact .refl s
  · exact h s

section
variable (s : State) (n : Nat)

theorem interlock_stands (k : Nat) : Stands s (s.interlock n k) := by
  have force : CLK_FAULT ≠ MOD_AX_FORCE n ∧ ENG_FAULT ≠ MOD_AX_FORCE n ∧ INT_SAFE_CAUSE ≠ MOD_AX_FORCE n := by
    simp only [CLK_FAULT, ENG_FAULT, INT_SAFE_CAUSE, MOD_AX_FORCE]; omega
  have counted : ∀ u : State, Stands u ((u.bump MOD_ILOCK_CNT.EVENTS 1).put MOD_ILOCK_CNT.LAST_HB (u.hbCode n k)) :=
    fun u => (bump_stands u MOD_ILOCK_CNT.EVENTS 1).trans (put_stands _ MOD_ILOCK_CNT.LAST_HB _)
  unfold State.interlock
  dsimp only
  refine .trans (.ofRegs (t := s.modHb n k fun h => { h with events := h.events + 1 }) rfl) (.trans (counted _) ?_)
  split
  · refine .trans ?_ (State.enterSafe_does _ n 2).stands
    refine .trans ?_ (put_stands _ MOD_STAT.FORCE_ACTIVE _)
    refine .trans ?_ (put_stands _ (MOD_AX_FORCE.ACTIVE n) 0 force)
    exact (raise_stands _ 0x0708 0).trans (.ofRegs rfl)
  · exact .refl _

theorem driveChecked_stands : Stands s (s.driveChecked n) := by
  refine each_stands _ _ (fun s k => ?_) s
  dsimp only
  split
  · exact (State.driveHb_does s n k).stands.trans (interlock_stands _ n k)
  · exact (State.driveHb_does s n k).stands

theorem follow_stands : Stands s (s.follow n) := by
  unfold State.follow
  dsimp only
  split
  · refine (each_stands _ _ (fun s b => ?_) s).trans (driveChecked_stands _ n)
    exact (State.voltageOut_does s n b).stands.trans (State.place_does _ n b false).stands
  · exact .refl s

theorem raiseVisible_stands (code : Nat) : Stands s (s.raiseVisible n code) := by
  unfold State.raiseVisible
  dsimp only
  split
  · exact (raise_stands s code 0).trans (.ofRegs rfl)
  · exact raise_stands s code 0

theorem coastStop_stands : Stands s (s.coastStop n) := by
  unfold State.coastStop
  split
  · exact .refl s
  · dsimp only
    refine .trans ?_ (follow_stands _ n)
    refine .trans ?_ (driveChecked_stands _ n)
    refine .trans ?_ (raiseVisible_stands _ n _)
    refine .trans ?_ (State.setCoast_does _ n 15).stands
    split <;> exact .ofRegs rfl

theorem parkAxis_stands : Stands s (s.parkAxis n) :=
  ((putBit_stands s INT_STAT.PARKED_AX n true).trans
    (when_stands _ _ _ fun u => (State.loseTrack_does u n).stands)).trans (coastStop_stands _ n)

end

theorem park_stands (s : State) (e : Nat) (axes : List Nat) (cause t : Nat) : Stands s (s.park e axes cause t) := by
  refine (each_stands axes _ parkAxis_stands s).trans (.trans ?_ (event_stands _ _ _ _ _ _))
  exact ((bump_stands _ INT_REC_CNT.PARKS 1).trans (raise_stands _ _ _)).trans (putBit_stands _ INT_DEG_CAUSE.CAUSE 1 true)

theorem takeOver_stands (s : State) (e cause t : Nat) : Stands s (s.takeOver e cause t) := by
  refine .trans ?_ (event_stands _ _ _ _ _ _)
  refine .trans ?_ (raise_stands _ _ _)
  exact ((put_stands s INT_STAT.WINDOW 1).trans (bump_stands _ INT_REC_CNT.TAKEOVERS 1)).trans (.ofRegs rfl)

/-- The registers of an engine hold none of these flags. -/
theorem engStat_apart (e : Nat) :
    CLK_FAULT ≠ ENG_E_STAT e ∧ ENG_FAULT ≠ ENG_E_STAT e ∧ INT_SAFE_CAUSE ≠ ENG_E_STAT e := by
  simp only [CLK_FAULT, ENG_FAULT, INT_SAFE_CAUSE, ENG_E_STAT]
  omega

theorem bitOf_putBit_ne (s : State) (f : Fld) {i j : Nat} (b : Bool) (h : i ≠ j) :
    (s.putBit f j b).bitOf f i = s.bitOf f i := by
  show (f.of _).testBit i = (f.of _).testBit i
  rw [Fld.testBit_of, Fld.testBit_of]
  show (_ && (State.word (s.put ⟨f.addr, f.lo + j, 1⟩ b.toNat) f.addr).getLsbD _) = _
  have e := s.word_put_same ⟨f.addr, f.lo + j, 1⟩ b.toNat
  simp only at e
  rw [e, Fld.getLsbD_into, if_neg (by dsimp only; omega)]

theorem safeCause_stands (s : State) {b : Nat} (hb : b < 8) : Stands s (s.safeCause b) := by
  refine ⟨fun c hc x => ?_, fun i x => ?_⟩
  · refine (raised_put s ⟨INT_SAFE_CAUSE, _, 1⟩ _ c 0 ?_).trans x
    obtain e | e := hc.faultReg
    · rw [e]; exact (by decide : CLK_FAULT ≠ INT_SAFE_CAUSE)
    · rw [e]; exact (by decide : ENG_FAULT ≠ INT_SAFE_CAUSE)
  · by_cases e : i = b
    · subst e; exact bitOf_putBit_same s INT_SAFE_CAUSE.CAUSE i true ⟨hb, by decide⟩
    · exact (bitOf_putBit_ne s INT_SAFE_CAUSE.CAUSE true e).trans x

theorem returnFail_stands (s : State) (e t : Nat) : Stands s (s.returnFail e t) := by
  refine .trans ?_ (event_stands _ _ _ _ _ _)
  refine .trans ?_ (raise_stands _ _ _)
  refine .trans (t := ((s.setEngState e stCovered).lend e true).put INT_REC.PHASE 3) ?_ (.ofRegs rfl)
  refine .trans ?_ (put_stands _ INT_REC.PHASE 3)
  exact (State.setEngState_does s e stCovered).stands.trans (State.lend_does _ e true).stands

/-! ### Cover that is lost (R540) -/

/-- What its loss brings about at once: safe states, a cause of SAFE, and the event. -/
def State.coverAlarm (s : State) (axes : List Nat) : State :=
  let u := s.each axes (fun s n => (s.when (s.aboveStop n && !s.isSafe n) (fun s => s.loseTrack n)).enterSafe n 8)
  let u := (u.raise 0x0F03).safeCause 0
  let d := u.stampD1
  d.2.event 0x08 8 (axisMask axes) 0 d.1

/-- What ES shows after it: engine `eng` stays FAULTED where it was covered, and ES covers none. -/
def State.coverEnd (s : State) (eng : Nat) (covered : Bool) : State :=
  let u := if covered then s.setEngState eng stFaulted else s
  let u := ((u.lend eng false).put ENG_STAT.ES_BUSY 0).notCovering
  ((u.put INT_STAT.WINDOW 0).putBit INT_DEG_CAUSE.CAUSE 0 false).setWord INT_REC 0

/-- The axes that ES covers or restores and that are not parked. -/
def State.coverAxes (s : State) : List Nat :=
  (List.range 12).filter (fun n => inMask s.intg.recAxes n && !s.axisParked n)

/-- The engine that a takeover is for, or that ES covers. -/
def State.coveredEngine (s : State) : Nat :=
  match s.intg.takeover with
  | some e => e
  | none => s.fld INT_REC.ENGINE

theorem coverLost_regs (s : State) : let u := s.coverAlarm s.coverAxes
    s.coverLost.regs = (u.coverEnd u.coveredEngine (u.covering || u.intg.takeover.isSome)).regs := by
  rfl

theorem coverAlarm_does (s : State) (axes : List Nat) :
    Does (.one INT_SAFE_CAUSE :: .sys :: .drawn :: Parts.ofPark) s (s.coverAlarm axes) := by
  unfold State.coverAlarm
  refine .step (State.event_does _ _ _ _ _ _) (by decide) (.step (State.stampD1_does _) (by decide) ?_)
  refine .step (State.safeCause_does _ _) (by decide) (.step (State.raise_does _ _ _) (by decide) ?_)
  refine State.each_does (fun s n => ?_) (.refl _ _)
  refine .step (State.enterSafe_does _ _ _) (by decide) (State.when_does (fun s => ?_) (.refl _ _))
  exact (State.loseTrack_does s n).weaken (by decide)

theorem coverEnd_does (s : State) (eng : Nat) (covered : Bool) :
    Does [.one ENG_STAT, .row ENG_E_STAT, .row ENG_E_LIST, .row ENG_E_FETCH_CHK, .row MEM_B_STAT, .one INT_STAT,
      .one INT_DEG_CAUSE, .one INT_REC] s (s.coverEnd eng covered) := by
  unfold State.coverEnd
  refine .step (State.setWord_does _ INT_REC 0 (Field.has_one _)) (by decide) ?_
  refine .step (State.putBit_does _ INT_DEG_CAUSE.CAUSE 0 false (Field.has_one _)) (by decide) ?_
  refine .step (State.put_does _ INT_STAT.WINDOW 0 (Field.has_one _)) (by decide) ?_
  refine .step (State.notCovering_does _) (by decide) ?_
  refine .step (State.put_does _ ENG_STAT.ES_BUSY 0 (Field.has_one _)) (by decide) ?_
  refine .step (State.lend_does _ eng false) (by decide) (.ite ?_ (.refl _ _))
  exact (State.setEngState_does s eng stFaulted).weaken (by decide)

theorem coverLost_stands (s : State) : Stands s s.coverLost := by
  refine .trans (.trans ?_ (coverEnd_does _ _ _).stands) (.ofRegs (coverLost_regs s))
  unfold State.coverAlarm
  refine .trans ?_ (event_stands _ _ _ _ _ _)
  refine .trans ?_ (State.stampD1_does _).stands
  refine .trans ?_ (safeCause_stands _ (by decide))
  refine .trans (each_stands _ _ (fun s n => ?_) s) (raise_stands _ _ _)
  exact (when_stands _ _ _ fun u => (State.loseTrack_does u n).stands).trans (State.enterSafe_does _ n 8).stands

end Sys2Proof.Machine

namespace Sys2Proof.Machine

set_option Elab.async false

/-! ### What a fault leaves of another engine (R132, R137) -/

/-- Registers and table of engine `e`, and the device mode, are the same. -/
def Aside (e : Nat) (s t : State) : Prop :=
  t.word (ENG_E_STAT e) = s.word (ENG_E_STAT e) ∧ t.eng e = s.eng e ∧ t.sys.mode = s.sys.mode

theorem Aside.refl (e : Nat) (s : State) : Aside e s s := ⟨rfl, rfl, rfl⟩

theorem Aside.trans {e : Nat} {s t u : State} (h : Aside e s t) (h' : Aside e t u) : Aside e s u :=
  ⟨h'.1.trans h.1, h'.2.1.trans h.2.1, h'.2.2.trans h.2.2⟩

theorem Aside.fld {e : Nat} {s t : State} (h : Aside e s t) {f : Fld} (hf : f.addr = ENG_E_STAT e) :
    t.fld f = s.fld f := by
  unfold State.fld
  rw [hf, h.1]

theorem eng_of_engs {s t : State} (h : t.engs = s.engs) (e : Nat) : t.eng e = s.eng e :=
  congrArg (fun l => Tbl.get ({} : Eng) l e) h

theorem Does.aside {e : Nat} (he : e < 9) {l : List Field} {s t : State} (h : Does l s t)
    (hl : ∀ e < 9, l.all (fun k => !k.covers (ENG_E_STAT e)) = true := by decide)
    (hg : .engs ∉ l := by decide) (hm : .sys ∉ l := by decide) : Aside e s t :=
  ⟨h.word (hl e he), eng_of_engs (h.same .engs hg) e, congrArg Sys.mode (h.same .sys hm)⟩

theorem engStat_ne {e e' : Nat} (h : e ≠ e') : ENG_E_STAT e ≠ ENG_E_STAT e' := by
  unfold ENG_E_STAT
  omega

theorem engStat_ne_engStat (e : Nat) : ENG_E_STAT e ≠ ENG_STAT := by
  unfold ENG_E_STAT ENG_STAT
  omega

theorem put_aside {e e' : Nat} (h : e ≠ e') (s : State) (f : Fld) (v : Nat)
    (hf : f.addr = ENG_E_STAT e' := by rfl) : Aside e s (s.put f v) :=
  ⟨State.word_put_other _ _ (hf ▸ engStat_ne h), rfl, rfl⟩

theorem modEng_aside {e e' : Nat} (h : e ≠ e') (s : State) (f : Eng → Eng) : Aside e s (s.modEng e' f) :=
  ⟨rfl, Tbl.get_mod_other ({} : Eng) s.engs f h, rfl⟩

/-! ### The state of an engine (R137) -/

theorem setEngState_frame (s : State) (e st : Nat) :
    Does [.one ENG_STAT] (s.put (ENG_E_STAT.STATE e) st) (s.setEngState e st) := by
  unfold State.setEngState
  dsimp only
  split
  · exact State.putBit_does _ ENG_STAT.FAULTED _ _ (Field.has_one _)
  · exact .refl _ _

theorem setEngState_aside {e e' : Nat} (he : e < 9) (h : e ≠ e') (s : State) (st : Nat) :
    Aside e s (s.setEngState e' st) :=
  (put_aside h s (ENG_E_STAT.STATE e') st).trans ((setEngState_frame s e' st).aside he)

theorem setEngState_same {e st : Nat} (he : e < 9) (hst : st < 8) (s : State) :
    (s.setEngState e st).engState e = st := by
  refine (((setEngState_frame s e st).aside he).fld rfl).trans ?_
  rw [fld_put_same' _ (ENG_E_STAT.STATE e) _ (by simp [ENG_E_STAT.STATE])]
  exact Nat.mod_eq_of_lt hst

theorem setEngState_cause {e : Nat} (he : e < 9) (s : State) (e' st : Nat) :
    (s.setEngState e' st).fld (ENG_E_STAT.CAUSE e) = s.fld (ENG_E_STAT.CAUSE e) :=
  (((setEngState_frame s e' st).aside he).fld rfl).trans
    (fld_put_ne s (ENG_E_STAT.STATE e') _ _ (.inr (.inr (by simp [ENG_E_STAT.STATE, ENG_E_STAT.CAUSE]))))

theorem setEngState_esOk (s : State) (e st : Nat) :
    (s.setEngState e st).flag ENG_STAT.ES_OK = s.flag ENG_STAT.ES_OK := by
  have state := flag_put_ne s (ENG_E_STAT.STATE e) ENG_STAT.ES_OK st (.inl (engStat_ne_engStat e).symm)
  unfold State.setEngState
  dsimp only
  by_cases h : e < 8
  · have apart : (20 : Nat) + 1 ≤ 8 + e ∨ 8 + e + 1 ≤ 20 := .inr (by omega)
    rw [if_pos h]
    exact (flag_put_ne _ ⟨ENG_STAT, 8 + e, 1⟩ ENG_STAT.ES_OK _ (.inr apart)).trans state
  · rw [if_neg h]
    exact state

/-- An engine that has faulted with CLOCK. -/
def Down (e : Nat) (s : State) : Prop :=
  s.engState e = stFaulted ∧ s.fld (ENG_E_STAT.CAUSE e) = 0x0A ∧ (s.eng e).exec = false

theorem Aside.down {e : Nat} {s t : State} (h : Aside e s t) (hd : Down e s) : Down e t := by
  obtain ⟨state, cause, exec⟩ := hd
  exact ⟨(h.fld rfl).trans state, (h.fld rfl).trans cause, (congrArg Eng.exec h.2.1).trans exec⟩

theorem setEngState_down {e : Nat} (he : e < 9) {s : State} (e' : Nat) (h : Down e s) :
    Down e (s.setEngState e' stFaulted) := by
  by_cases n : e = e'
  · subst n
    refine ⟨setEngState_same he (by decide) s, (setEngState_cause he s e _).trans h.2.1, ?_⟩
    exact (congrArg Eng.exec (eng_of_engs ((State.setEngState_does s e _).same .engs) e)).trans h.2.2
  · exact (setEngState_aside he n s _).down h

/-! ### Cover that is lost leaves the cause (R540) -/

theorem notCovering_down {e : Nat} (he : e < 9) {s : State} (h : Down e s) : Down e s.notCovering := by
  have put : ∀ (u : State) (f : Fld), f.addr = ENG_E_STAT 8 → 3 ≤ f.lo ∧ f.lo + f.w ≤ 8 ∨ 16 ≤ f.lo → Down e u →
      Down e (u.put f 0) := fun u f ha hf hu => by
    obtain ⟨state, cause, exec⟩ := hu
    refine ⟨(fld_put_ne u f _ 0 (.inr ?_)).trans state, (fld_put_ne u f _ 0 (.inr ?_)).trans cause, exec⟩
    · simp only [ENG_E_STAT.STATE]; omega
    · simp only [ENG_E_STAT.CAUSE]; omega
  have list := fun u : State => (State.setWord_does u (ENG_E_LIST 8) 0 (Field.has_one _)).aside he
  have check := fun u : State => (State.setWord_does u (ENG_E_FETCH_CHK 8) 0 (Field.has_one _)).aside he
  unfold State.notCovering
  refine (check _).down ((list _).down ?_)
  exact put _ _ rfl (by decide) (put _ _ rfl (by decide) (put _ _ rfl (by decide) h))

theorem coverEnd_down {e : Nat} (he : e < 9) {s : State} (eng : Nat) (covered : Bool) (h : Down e s) :
    Down e (s.coverEnd eng covered) := by
  unfold State.coverEnd
  dsimp only
  refine ((State.setWord_does _ INT_REC 0 (Field.has_one _)).aside he).down ?_
  refine ((State.putBit_does _ INT_DEG_CAUSE.CAUSE 0 false (Field.has_one _)).aside he).down ?_
  refine ((State.put_does _ INT_STAT.WINDOW 0 (Field.has_one _)).aside he).down (notCovering_down he ?_)
  refine ((State.put_does _ ENG_STAT.ES_BUSY 0 (Field.has_one _)).aside he).down ?_
  refine ((State.lend_does _ eng false).aside he).down ?_
  cases covered
  · exact h
  · exact setEngState_down he eng h

theorem Down.ofRegs {e : Nat} {s t : State} (hr : t.regs = s.regs) (he : t.engs = s.engs) (h : Down e s) :
    Down e t := by
  have word : t.word (ENG_E_STAT e) = s.word (ENG_E_STAT e) := congrArg (Store.get regReset · (ENG_E_STAT e)) hr
  obtain ⟨state, cause, exec⟩ := h
  refine ⟨Eq.trans ?_ state, Eq.trans ?_ cause, (congrArg Eng.exec (eng_of_engs he e)).trans exec⟩
  · exact congrArg (ENG_E_STAT.STATE e).of word
  · exact congrArg (ENG_E_STAT.CAUSE e).of word

theorem coverAlarm_down {e : Nat} (he : e < 9) {s : State} (axes : List Nat) (h : Down e s) :
    Down e (s.coverAlarm axes) := by
  have d := coverAlarm_does s axes
  have apart : ∀ e < 9, (Field.one INT_SAFE_CAUSE :: .sys :: .drawn :: Parts.ofPark).all
      (fun k => !k.covers (ENG_E_STAT e)) = true := by decide
  obtain ⟨state, cause, exec⟩ := h
  exact ⟨(d.fld (apart e he)).trans state, (d.fld (apart e he)).trans cause,
    (congrArg Eng.exec (eng_of_engs (d.same .engs) e)).trans exec⟩

theorem coverLost_down {e : Nat} (he : e < 9) {s : State} (h : Down e s) : Down e s.coverLost := by
  refine Down.ofRegs (s := State.coverEnd _ _ _) (coverLost_regs s) ?_
    (coverEnd_down he _ _ (coverAlarm_down he s.coverAxes h))
  exact ((State.coverLost_does s).same .engs).trans
    (((coverEnd_does _ _ _).same .engs).trans ((coverAlarm_does s _).same .engs)).symm

theorem coverLost_esOk (s : State) : s.coverLost.flag ENG_STAT.ES_OK = s.flag ENG_STAT.ES_OK := by
  have ended : ∀ (u : State) (eng : Nat) (covered : Bool),
      (u.coverEnd eng covered).flag ENG_STAT.ES_OK = u.flag ENG_STAT.ES_OK := fun u eng covered => by
    unfold State.coverEnd
    dsimp only
    refine ((State.setWord_does _ INT_REC 0 (Field.has_one _)).flag (by decide)).trans ?_
    refine ((State.putBit_does _ INT_DEG_CAUSE.CAUSE 0 false (Field.has_one _)).flag (by decide)).trans ?_
    refine ((State.put_does _ INT_STAT.WINDOW 0 (Field.has_one _)).flag (by decide)).trans ?_
    refine ((State.notCovering_does _).flag (by decide)).trans ?_
    refine (flag_put_ne _ ENG_STAT.ES_BUSY ENG_STAT.ES_OK 0 (by decide)).trans ?_
    refine ((State.lend_does _ eng false).flag (by decide)).trans ?_
    cases covered
    · rfl
    · exact setEngState_esOk u eng stFaulted
  have regs : ∀ {t u : State}, t.regs = u.regs → t.flag ENG_STAT.ES_OK = u.flag ENG_STAT.ES_OK := fun h =>
    congrArg (fun r => ENG_STAT.ES_OK.of (Store.get regReset r ENG_STAT) == 1) h
  exact (regs (coverLost_regs s)).trans ((ended _ _ _).trans ((coverAlarm_does s _).flag (by decide)))

end Sys2Proof.Machine

namespace Sys2Proof.Machine

set_option Elab.async false

/-! ### A fault of an engine, step by step (R132, R135, R535) -/

/-- The block undo buffer of engine `e` written back. -/
def State.undone (s : State) (e : Nat) : State :=
  match (s.eng e).undo with
  | some u => s.undoBack e u.addr u.words
  | none => s

/-- Engine `e` stops, and its registers and the fault flag show cause `c`. -/
def State.faultShown (s : State) (e c : Nat) : State :=
  let u := ((s.undone e).modEng e (fun g => { g with exec := false, undo := none })).put (ENG_E_STAT.CAUSE e) c
  (u.bump (ENG_E_MISS.FAULTS e) 1).raise ((if e = 8 then 0x1100 else 0x0400) + c)

/-- ES counts as FAULTED, with the engine whose words it had sent to their end. -/
def State.esShown (s : State) (ended : Bool) : State :=
  let u := (s.put ENG_STAT.ES_OK 0).setEngState 8 stFaulted
  if ended && u.covering then { u with intg := { u.intg with esLast := some (u.fld INT_REC.ENGINE) } } else u

/-- The outcome of a fault of ES. -/
def State.esOut (s : State) (ended : Bool) : State :=
  let u := s.esShown ended
  if u.covering || u.flag INT_STAT.WINDOW then u.coverLost
  else (u.raise 0x0F08).putBit INT_DEG_CAUSE.CAUSE 2 true

/-- The outcome of a fault of a running engine: parking, or a takeover. -/
def State.engineOut (s : State) (e c : Nat) (ended : Bool) (t : Nat) : State :=
  if s.flag INT_STAT.WINDOW || s.covering || !s.flag ENG_STAT.ES_OK then
    let late := if ended then axisMask (s.engineAxes e) else 0
    let u := { s with intg := { s.intg with lastWords := s.intg.lastWords ||| late } }
    (u.putBit INT_STAT.PARKED e true).park e (s.engineAxes e) c t
  else s.takeOver e c t

/-- An engine that may fault: it runs, or returns. -/
def State.faultable (s : State) (e : Nat) : Prop := s.engState e = stRunning ∨ s.engState e = stReturning

theorem engineFault_idle {s : State} {e : Nat} (h : ¬s.faultable e) (c : Nat) : s.engineFault e c = s := by
  unfold State.engineFault
  exact if_pos (by simpa [State.faultable] using h)

theorem faultable_guard {s : State} {e : Nat} (h : s.faultable e) :
    ¬(s.engState e != stRunning && s.engState e != stReturning) = true := by
  rcases h with h | h <;> simp [h]

theorem engineFault_es {s : State} (h : s.faultable 8) (c : Nat) :
    ∃ ended, s.engineFault 8 c = (s.faultShown 8 c).esOut ended := by
  unfold State.engineFault
  exact ⟨_, if_neg (faultable_guard h)⟩

theorem engineFault_returning {s : State} {e : Nat} (he : e ≠ 8) (h : s.engState e = stReturning) (c : Nat) :
    s.engineFault e c = (s.faultShown e c).stampD1.2.returnFail e (s.faultShown e c).stampD1.1 := by
  unfold State.engineFault
  refine (if_neg (faultable_guard (.inr h))).trans ((if_neg he).trans (if_pos h))

theorem engineFault_running {s : State} {e : Nat} (he : e ≠ 8) (h : s.engState e = stRunning) (c : Nat) :
    ∃ ended, s.engineFault e c = ((s.faultShown e c).stampD1.2.setEngState e stFaulted).engineOut e c ended
      (s.faultShown e c).stampD1.1 := by
  have other : s.engState e ≠ stReturning := by rw [h]; decide
  unfold State.engineFault
  exact ⟨_, (if_neg (faultable_guard (.inl h))).trans ((if_neg he).trans (if_neg other))⟩

theorem undone_does (s : State) (e : Nat) :
    Does [.one MEM_MB_CNT, .row MEM_B_STAT, .row MEM_B_ECC, .mem, .drawn, .cells] s (s.undone e) := by
  unfold State.undone
  split
  · exact State.undoBack_does s e _ _
  · exact .refl _ s

theorem missFaults_does (s : State) (e : Nat) : Does [.row ENG_E_MISS] s (s.bump (ENG_E_MISS.FAULTS e) 1) :=
  State.bump_does s _ 1 (Field.has_row ENG_E_MISS (fun _ => rfl) e)

section
variable (s : State) (e c : Nat)

theorem faultShown_stands : Stands s (s.faultShown e c) := by
  unfold State.faultShown
  refine .trans ?_ (raise_stands _ _ _)
  refine .trans ?_ (missFaults_does _ e).stands
  refine .trans ?_ (put_stands _ (ENG_E_STAT.CAUSE e) c (engStat_apart e))
  exact (undone_does s e).stands.trans (.ofRegs rfl)

/-- The counter and the fault flag leave every engine's state and cause. -/
theorem faultCounted_aside {i : Nat} (hi : i < 9) :
    Aside i s ((s.bump (ENG_E_MISS.FAULTS e) 1).raise ((if e = 8 then 0x1100 else 0x0400) + c)) :=
  ((missFaults_does s e).aside hi).trans ((State.raise_does _ _ 0).aside hi)

theorem faultShown_aside {i : Nat} (hi : i < 9) (h : i ≠ e) : Aside i s (s.faultShown e c) := by
  refine .trans ?_ (faultCounted_aside _ e c hi)
  refine .trans ?_ (put_aside h _ (ENG_E_STAT.CAUSE e) c)
  exact ((undone_does s e).aside hi).trans (modEng_aside h _ _)

/-- An engine past the end of the table executes nothing, as in the table's default. -/
theorem exec_modEng (f : Eng → Eng) (hf : ∀ g, (f g).exec = false) : ((s.modEng e f).eng e).exec = false := by
  show (Tbl.get ({} : Eng) (Tbl.mod s.engs e f) e).exec = false
  generalize s.engs = l
  induction l generalizing e with
  | nil => rfl
  | cons g l ih =>
    cases e with
    | zero => exact hf g
    | succ e => exact ih e

theorem faultShown_shows (he : e < 9) (hc : c < 256) : (s.faultShown e c).fld (ENG_E_STAT.CAUSE e) = c ∧
    ((s.faultShown e c).eng e).exec = false := by
  refine ⟨((faultCounted_aside _ e c he).fld rfl).trans ?_,
    (congrArg Eng.exec (faultCounted_aside _ e c he).2.1).trans ?_⟩
  · rw [fld_put_same' _ (ENG_E_STAT.CAUSE e) _ (by simp [ENG_E_STAT.CAUSE])]
    exact Nat.mod_eq_of_lt hc
  · exact exec_modEng _ e _ fun _ => rfl

theorem faultShown_raised (h : 1 ≤ c ∧ c ≤ 16) :
    (s.faultShown e c).raised ((if e = 8 then 0x1100 else 0x0400) + c) = true := by
  unfold State.faultShown
  refine State.raise_raised _ _ 0 ?_ ?_ <;> split <;> omega

end

/-! ### The outcome -/

theorem engineOut_does (s : State) (e c : Nat) (ended : Bool) (t : Nat) :
    Does Parts.ofPark s (s.engineOut e c ended t) := by
  unfold State.engineOut
  refine .ite ?_ ((State.takeOver_does s e c t).weaken (by decide))
  refine .step (State.park_does _ e _ c t) (by decide) ?_
  exact .step (State.putBit_does _ INT_STAT.PARKED e true (Field.has_one _)) (by decide) ((Does.intg s _).weaken (by decide))

theorem engineOut_stands (s : State) (e c : Nat) (ended : Bool) (t : Nat) : Stands s (s.engineOut e c ended t) := by
  unfold State.engineOut
  split
  · refine .trans (.trans (.ofRegs ?_) (putBit_stands _ INT_STAT.PARKED e true)) (park_stands _ e _ c t)
    rfl
  · exact takeOver_stands s e c t

theorem returnFail_aside {i e : Nat} (hi : i < 9) (h : i ≠ e) (s : State) (t : Nat) : Aside i s (s.returnFail e t) := by
  unfold State.returnFail
  dsimp only
  refine .trans ?_ ((State.event_does _ _ _ _ _ _).aside hi)
  refine .trans ?_ ((State.raise_does _ _ _).aside hi)
  refine .trans ?_ (modEng_aside h _ _)
  refine .trans ?_ ((State.put_does _ INT_REC.PHASE 3 (Field.has_one _)).aside hi)
  exact (setEngState_aside hi h s stCovered).trans ((State.lend_does _ e true).aside hi)

theorem esShown_does (s : State) (ended : Bool) :
    Does [.intg] ((s.put ENG_STAT.ES_OK 0).setEngState 8 stFaulted) (s.esShown ended) := by
  unfold State.esShown
  exact .ite (Does.intg _ _) (.refl _ _)

theorem esOut_stands (s : State) (ended : Bool) : Stands s (s.esOut ended) := by
  have shown : Stands s (s.esShown ended) :=
    (put_stands s ENG_STAT.ES_OK 0).trans ((State.setEngState_does _ 8 stFaulted).stands.trans
      (esShown_does s ended).stands)
  refine shown.trans ?_
  unfold State.esOut
  dsimp only
  split
  · exact coverLost_stands _
  · exact (raise_stands _ _ _).trans (putBit_stands _ INT_DEG_CAUSE.CAUSE 2 true)

theorem esOut_downOf {e : Nat} (he : e < 9) {s : State} {ended : Bool} (h : Down e (s.esShown ended)) :
    Down e (s.esOut ended) := by
  unfold State.esOut
  dsimp only
  split
  · exact coverLost_down he h
  · refine Aside.down ?_ h
    exact ((State.raise_does _ 0x0F08 0).aside he).trans
      ((State.putBit_does _ INT_DEG_CAUSE.CAUSE 2 true (Field.has_one _)).aside he)

/-- An engine that is down stays so when ES faults. -/
theorem esOut_down {e : Nat} (he : e < 9) {s : State} (ended : Bool) (h : Down e s) : Down e (s.esOut ended) := by
  have cleared := (State.put_does s ENG_STAT.ES_OK 0 (Field.has_one _)).aside he
  exact esOut_downOf he (((esShown_does s ended).aside he).down (setEngState_down he 8 (cleared.down h)))

/-- ES itself is down once its cause shows. -/
theorem esOut_faults {s : State} (ended : Bool) (hc : s.fld (ENG_E_STAT.CAUSE 8) = 0x0A)
    (hx : (s.eng 8).exec = false) : Down 8 (s.esOut ended) := by
  have cleared := (State.put_does s ENG_STAT.ES_OK 0 (Field.has_one _)).aside (e := 8) (by decide)
  have state := State.setEngState_does (s.put ENG_STAT.ES_OK 0) 8 stFaulted
  refine esOut_downOf (by decide) (((esShown_does s ended).aside (by decide)).down ?_)
  refine ⟨setEngState_same (by decide) (by decide) _, ?_, ?_⟩
  · exact (setEngState_cause (by decide) _ 8 stFaulted).trans ((cleared.fld rfl).trans hc)
  · exact (congrArg Eng.exec ((eng_of_engs (state.same .engs) 8).trans cleared.2.1)).trans hx

theorem esOut_esOk (s : State) (ended : Bool) : (s.esOut ended).flag ENG_STAT.ES_OK = false := by
  have shown : (s.esShown ended).flag ENG_STAT.ES_OK = false :=
    ((esShown_does s ended).flag (by decide)).trans ((setEngState_esOk _ 8 stFaulted).trans
      (flag_put_zero s ENG_STAT.ES_OK))
  unfold State.esOut
  dsimp only
  split
  · exact (coverLost_esOk _).trans shown
  · refine ((State.putBit_does _ INT_DEG_CAUSE.CAUSE 2 true (Field.has_one _)).flag (by decide)).trans ?_
    exact ((State.raise_does _ 0x0F08 0).flag (by decide)).trans shown

/-! ### A fault of an engine, as a whole -/

theorem engineFault_stands (s : State) (e c : Nat) : Stands s (s.engineFault e c) := by
  by_cases f : s.faultable e
  · refine (faultShown_stands s e c).trans ?_
    by_cases es : e = 8
    · subst es
      obtain ⟨ended, out⟩ := engineFault_es f c
      exact out ▸ esOut_stands _ ended
    · refine (State.stampD1_does _).stands.trans ?_
      obtain run | ret := f
      · obtain ⟨ended, out⟩ := engineFault_running es run c
        exact out ▸ (State.setEngState_does _ e stFaulted).stands.trans (engineOut_stands _ e c ended _)
      · exact engineFault_returning es ret c ▸ returnFail_stands _ e _
  · rw [engineFault_idle f c]
    exact .refl s

/-- A fault of an engine other than ES leaves the others alone. -/
theorem engineFault_aside {i e : Nat} (hi : i < 9) (h : i ≠ e) (es : e ≠ 8) (s : State) (c : Nat) :
    Aside i s (s.engineFault e c) := by
  by_cases f : s.faultable e
  · refine (faultShown_aside s e c hi h).trans (((State.stampD1_does _).aside hi).trans ?_)
    obtain run | ret := f
    · obtain ⟨ended, out⟩ := engineFault_running es run c
      exact out ▸ (setEngState_aside hi h _ stFaulted).trans ((engineOut_does _ e c ended _).aside hi)
    · exact engineFault_returning es ret c ▸ returnFail_aside hi h _ _
  · rw [engineFault_idle f c]
    exact .refl i s

theorem Down.not_faultable {e : Nat} {s : State} (h : Down e s) : ¬s.faultable e := by
  unfold State.faultable
  rw [h.1]
  decide

/-- An engine that is down stays so, whichever engine faults. -/
theorem engineFault_down {i : Nat} (hi : i < 9) {s : State} (e c : Nat) (h : Down i s) :
    Down i (s.engineFault e c) := by
  by_cases f : s.faultable e
  · have other : i ≠ e := fun x => h.not_faultable (x ▸ f)
    by_cases es : e = 8
    · subst es
      obtain ⟨ended, out⟩ := engineFault_es f c
      exact out ▸ esOut_down hi ended ((faultShown_aside s 8 c hi other).down h)
    · exact (engineFault_aside hi other es s c).down h
  · rw [engineFault_idle f c]
    exact h

/-- A running engine whose clock fails is down, and its fault raised. -/
theorem engineFault_clock {s : State} {e : Nat} (he : e < 9) (h : s.engState e = stRunning) :
    Down e (s.engineFault e 0x0A) ∧
      (s.engineFault e 0x0A).raised ((if e = 8 then 0x1100 else 0x0400) + 0x0A) = true := by
  have raised := faultShown_raised s e 0x0A (by decide)
  have block : clockBlock ((if e = 8 then 0x1100 else 0x0400) + 0x0A) := by
    split
    · exact .inr (.inr rfl)
    · exact .inr (.inl rfl)
  obtain ⟨cause, exec⟩ := faultShown_shows s e 0x0A he (by decide)
  by_cases es : e = 8
  · subst es
    obtain ⟨ended, out⟩ := engineFault_es (.inl h) 0x0A
    exact out ▸ ⟨esOut_faults ended cause exec, (esOut_stands _ ended).1 _ block raised⟩
  · obtain ⟨ended, out⟩ := engineFault_running es h 0x0A
    have time := (State.stampD1_does (s.faultShown e 0x0A)).aside he
    have state := State.setEngState_does (s.faultShown e 0x0A).stampD1.2 e stFaulted
    rw [out]
    refine ⟨((engineOut_does _ e 0x0A ended _).aside he).down ⟨setEngState_same he (by decide) _, ?_, ?_⟩, ?_⟩
    · exact (setEngState_cause he _ e stFaulted).trans ((time.fld rfl).trans cause)
    · exact (congrArg Eng.exec ((eng_of_engs (state.same .engs) e).trans time.2.1)).trans exec
    · refine (engineOut_stands _ e 0x0A ended _).1 _ block (state.stands.1 _ block ?_)
      exact (State.stampD1_does _).stands.1 _ block raised

end Sys2Proof.Machine

namespace Sys2Proof.Machine

set_option Elab.async false

/-! ### A fault of an engine island (R62, R130) -/

/-- Engine `e` loses its clock. -/
def State.clockFault (s : State) (e : Nat) : State :=
  let g := s.eng e
  let u := if s.engState e = stRunning then s.setWord (ENG_E_WATCH e) (u32 (g.shots % 512 + g.cycles * 65536)) else s
  u.engineFault e 0x0A

/-- The clock of island `isl` counts as faulty. -/
def State.markFaulty (s : State) (isl : Nat) : State :=
  { s with clk := { s.clk with faulty := s.clk.faulty ||| (1#12 <<< isl) } }

/-- The engines of an engine island, the lower-numbered first. -/
def islandEngines (isl : Nat) : List Nat := if isl = 11 then [8] else [2 * (isl - 7), 2 * (isl - 7) + 1]

theorem islandFault_each (s : State) (isl : Nat) :
    s.islandFault isl = (s.markFaulty isl).each (islandEngines isl) State.clockFault := by
  have pair : s.islandFault isl = if isl = 11 then (s.markFaulty isl).clockFault 8
      else ((s.markFaulty isl).clockFault (2 * (isl - 7))).clockFault (2 * (isl - 7) + 1) := by
    unfold State.islandFault
    rfl
  rw [pair]
  unfold islandEngines
  split <;> rfl

/-- What shows how far the list of engine `e` had come. -/
theorem watch_does (s : State) (e : Nat) (v : Word) :
    Does [.row ENG_E_WATCH] s (if s.engState e = stRunning then s.setWord (ENG_E_WATCH e) v else s) :=
  .ite (State.setWord_does s _ v (Field.has_row ENG_E_WATCH (fun _ => rfl) e)) (.refl _ s)

section
variable (s : State) (e : Nat)

theorem clockFault_does : Does Parts.engineFault s (s.clockFault e) :=
  .step (State.engineFault_does _ e 0x0A) (by decide) ((watch_does s e _).weaken (by decide))

theorem clockFault_stands : Stands s (s.clockFault e) :=
  (watch_does s e _).stands.trans (engineFault_stands _ e 0x0A)

variable {i : Nat} (hi : i < 9)
include hi

theorem clockFault_aside (h : i ≠ e) (es : e ≠ 8) : Aside i s (s.clockFault e) :=
  ((watch_does s e _).aside hi).trans (engineFault_aside hi h es _ 0x0A)

theorem clockFault_down (h : Down i s) : Down i (s.clockFault e) :=
  engineFault_down hi e 0x0A (((watch_does s e _).aside hi).down h)

end

/-- The code of the fault CLOCK of engine `e`, or of ES. -/
def clockCode (e : Nat) : Nat := (if e = 8 then 0x1100 else 0x0400) + 0x0A

theorem clockCode_block (e : Nat) : clockBlock (clockCode e) := by
  unfold clockCode
  split
  · exact .inr (.inr rfl)
  · exact .inr (.inl rfl)

theorem clockFault_faults {s : State} {e : Nat} (he : e < 9) (h : s.engState e = stRunning) :
    Down e (s.clockFault e) ∧ (s.clockFault e).raised (clockCode e) = true :=
  engineFault_clock he ((((watch_does s e _).aside he).fld rfl).trans h)

theorem clockFault_esOk {s : State} (h : s.engState 8 = stRunning) :
    (s.clockFault 8).flag ENG_STAT.ES_OK = false := by
  unfold State.clockFault
  dsimp only
  obtain ⟨ended, out⟩ := engineFault_es (.inl ((((watch_does s 8 _).aside (by decide)).fld rfl).trans h)) 0x0A
  rw [out]
  exact esOut_esOk _ ended

/-! ### An FLL that leaves its range (R62) -/

/-- The status and the fault of an island's FLL. -/
def State.fllShown (s : State) (isl : Nat) : State := (s.putBit CLK_STAT.ISL_OK isl false).raise 0x0204

/-- The FLL of the island is judged. -/
def State.fllJudged (s : State) (isl : Nat) : Prop := isl ≠ 0 ∧ (7 ≤ isl → s.islandStopped isl = false)

theorem fllUnlock_idle {s : State} {isl : Nat} (h : ¬s.fllJudged isl) : s.fllUnlock isl = s := by
  unfold State.fllUnlock
  refine if_pos ?_
  by_cases z : isl = 0
  · simp [z]
  · simpa [State.fllJudged, z] using h

theorem fllUnlock_judged {s : State} {isl : Nat} (h : s.fllJudged isl) :
    s.fllUnlock isl = if 7 ≤ isl then (s.fllShown isl).islandFault isl else (s.fllShown isl).safeCause 1 := by
  unfold State.fllUnlock
  obtain ⟨z, run⟩ := h
  refine if_neg ?_
  simp only [Bool.or_eq_true, Bool.and_eq_true, decide_eq_true_eq, not_or, not_and, Bool.not_eq_true]
  exact ⟨z, run⟩

end Sys2Proof.Machine

namespace Sys2Proof.Machine

set_option Elab.async false

/-! ### What FLLs that leave their ranges keep -/

section
variable (s : State) (isl : Nat)

theorem fllShown_stands : Stands s (s.fllShown isl) :=
  (putBit_stands s CLK_STAT.ISL_OK isl false).trans (raise_stands _ _ _)

theorem islandFault_stands : Stands s (s.islandFault isl) := by
  rw [islandFault_each]
  exact .trans (.ofRegs (t := s.markFaulty isl) rfl) (each_stands _ _ clockFault_stands _)

theorem islandFault_clk : (s.islandFault isl).clk = (s.markFaulty isl).clk := by
  rw [islandFault_each]
  exact each_clk _ _ _ fun u e => (clockFault_does u e).same .clk

theorem islandFault_down {i : Nat} (hi : i < 9) (h : Down i s) : Down i (s.islandFault isl) := by
  rw [islandFault_each]
  have marked : Down i (s.markFaulty isl) := Down.ofRegs rfl rfl h
  exact List.foldlRecOn _ _ marked fun u hu e _ => clockFault_down u e hi hu

/-- The FLL of island `isl` is lost, and the status and the fault show it. -/
def FllLost (isl : Nat) (s : State) : Prop := s.raised 0x0204 = true ∧ s.bitOf CLK_STAT.ISL_OK isl = false

theorem clkFault_block : clockBlock 0x0204 := .inl rfl

theorem bitOf_putBit_false (f : Fld) (i j : Nat) (h : f.lo + f.w ≤ 32) (hs : s.bitOf f i = false ∨ i = j ∧ i < f.w) :
    (s.putBit f j false).bitOf f i = false := by
  by_cases e : i = j
  · subst e
    by_cases w : i < f.w
    · exact bitOf_putBit_same s f i false ⟨w, h⟩
    · unfold State.bitOf
      show (f.of _).testBit i = false
      rw [Fld.testBit_of]
      simp [w]
  · exact (bitOf_putBit_ne s f false e).trans (hs.resolve_right fun x => e x.1)

theorem fllShown_isl {i : Nat} (h : s.bitOf CLK_STAT.ISL_OK i = false ∨ i = isl ∧ i < 12) :
    (s.fllShown isl).bitOf CLK_STAT.ISL_OK i = false :=
  ((State.raise_does _ 0x0204 0).bitOf i).trans (bitOf_putBit_false s CLK_STAT.ISL_OK i isl (by decide) h)

theorem fllUnlock_stands : Stands s (s.fllUnlock isl) := by
  by_cases j : s.fllJudged isl
  · rw [fllUnlock_judged j]
    split
    · exact (fllShown_stands s isl).trans (islandFault_stands _ isl)
    · exact (fllShown_stands s isl).trans (safeCause_stands _ (by decide))
  · rw [fllUnlock_idle j]
    exact .refl s

/-- What follows the status leaves CLK_STAT alone. -/
theorem fllUnlock_isl_eq {s : State} {isl : Nat} (j : s.fllJudged isl) (i : Nat) :
    (s.fllUnlock isl).bitOf CLK_STAT.ISL_OK i = (s.fllShown isl).bitOf CLK_STAT.ISL_OK i := by
  rw [fllUnlock_judged j]
  split
  · exact (State.islandFault_does _ isl).bitOf i
  · exact (State.safeCause_does _ 1).bitOf i

theorem fllUnlock_lost {s : State} {isl : Nat} (h : isl < 12) (j : s.fllJudged isl) : FllLost isl (s.fllUnlock isl) := by
  refine ⟨?_, (fllUnlock_isl_eq j isl).trans (fllShown_isl s isl (.inr ⟨rfl, h⟩))⟩
  have raised : (s.fllShown isl).raised 0x0204 = true := State.raise_raised _ _ _ (by decide) (by decide)
  rw [fllUnlock_judged j]
  split
  · exact (islandFault_stands _ isl).1 _ clkFault_block raised
  · exact (safeCause_stands _ (by decide)).1 _ clkFault_block raised

theorem fllUnlock_keepsLost {i : Nat} (h : FllLost i s) : FllLost i (s.fllUnlock isl) := by
  refine ⟨(fllUnlock_stands s isl).1 _ clkFault_block h.1, ?_⟩
  by_cases j : s.fllJudged isl
  · exact (fllUnlock_isl_eq j i).trans (fllShown_isl s isl (.inl h.2))
  · rw [fllUnlock_idle j]
    exact h.2

theorem fllShown_clk : (s.fllShown isl).clk = s.clk := (State.raise_does _ 0x0204 0).same .clk

/-- The clock state changes in the islands that count as faulty alone. -/
theorem fllUnlock_clk : (s.fllUnlock isl).clk = s.clk ∨ (s.fllUnlock isl).clk = (s.markFaulty isl).clk := by
  by_cases j : s.fllJudged isl
  · rw [fllUnlock_judged j]
    split
    · refine .inr ((islandFault_clk _ isl).trans ?_)
      unfold State.markFaulty
      rw [fllShown_clk]
    · exact .inl (fllShown_clk s isl)
  · rw [fllUnlock_idle j]
    exact .inl rfl

theorem fllUnlock_faulty {i : Nat} (h : s.clk.faulty.getLsbD i = true) :
    (s.fllUnlock isl).clk.faulty.getLsbD i = true := by
  obtain e | e := fllUnlock_clk s isl
  · rw [e]; exact h
  · rw [e]; simp [State.markFaulty, h]

theorem fllShown_aside {i : Nat} (hi : i < 9) : Aside i s (s.fllShown isl) :=
  ((State.putBit_does s CLK_STAT.ISL_OK isl false (Field.has_one _)).aside hi).trans
    ((State.raise_does _ 0x0204 0).aside hi)

theorem safeCause_aside {i : Nat} (hi : i < 9) (b : Nat) : Aside i s (s.safeCause b) := by
  have apart : ∀ i < 9, [Field.one INT_SAFE_CAUSE, .sys].all (fun k => !k.covers (ENG_E_STAT i)) = true := by decide
  have d := State.safeCause_does s b
  exact ⟨d.word (apart i hi), eng_of_engs (d.same .engs) i, rfl⟩

theorem fllUnlock_down {i : Nat} (hi : i < 9) (h : Down i s) : Down i (s.fllUnlock isl) := by
  by_cases j : s.fllJudged isl
  · have shown := (fllShown_aside s isl hi).down h
    rw [fllUnlock_judged j]
    split
    · exact islandFault_down _ isl hi shown
    · exact (safeCause_aside _ hi 1).down shown
  · rw [fllUnlock_idle j]
    exact h

end

/-! ### The island of a running engine (R62, R130) -/

/-- Engine `e` runs, and the clock of its island `isl` does. -/
def Clocked (e isl : Nat) (s : State) : Prop :=
  s.engState e = stRunning ∧ s.sys.mode.lists = true ∧ s.clk.stopped.getLsbD isl = false

theorem markFaulty_aside (e : Nat) (s : State) (isl : Nat) : Aside e s (s.markFaulty isl) := ⟨rfl, rfl, rfl⟩

theorem clocked_of {e isl : Nat} {s : State} (h : s.islandStopped isl = false) (hs : s.engState e = stRunning) :
    Clocked e isl s := by
  simp only [State.islandStopped, Bool.or_eq_false_iff, Bool.not_eq_false'] at h
  obtain ⟨⟨lists, clock⟩, -⟩ := h
  exact ⟨hs, lists, clock⟩

theorem Clocked.judged {e : Nat} (he : e < 9) {s : State} (h : Clocked e (7 + e / 2) s) : s.fllJudged (7 + e / 2) := by
  obtain ⟨run, lists, clock⟩ := h
  refine ⟨by omega, fun _ => ?_⟩
  have used : ¬(7 + e / 2 < 11 ∧ s.engState (2 * (7 + e / 2 - 7)) = stUnused ∧
      s.engState (2 * (7 + e / 2 - 7) + 1) = stUnused) := fun ⟨_, first, second⟩ => by
    have one : e = 2 * (7 + e / 2 - 7) ∨ e = 2 * (7 + e / 2 - 7) + 1 := by omega
    obtain x | x := one
    · rw [← x, run] at first; exact absurd first (by decide)
    · rw [← x, run] at second; exact absurd second (by decide)
  unfold State.islandStopped
  rw [lists, clock]
  simpa [and_assoc] using used

/-- A list of engines without ES and without engine `e` leaves it aside. -/
theorem eachClock_aside {e : Nat} (he : e < 9) (l : List Nat) (h : ∀ x ∈ l, e ≠ x ∧ x ≠ 8) (s : State) :
    Aside e s (s.each l State.clockFault) :=
  List.foldlRecOn (motive := Aside e s) l _ (.refl e s) fun _ hu x hx =>
    hu.trans (clockFault_aside _ x he (h x hx).1 (h x hx).2)

/-- Before the turn of the island of an engine, its clock stays as it is. -/
theorem fllUnlock_clocked {e j : Nat} (he : e < 9) (hj : j < 7 + e / 2) {s : State} (h : Clocked e (7 + e / 2) s) :
    Clocked e (7 + e / 2) (s.fllUnlock j) := by
  have aside : Aside e s (s.fllUnlock j) := by
    by_cases i : s.fllJudged j
    · refine fllUnlock_judged i ▸ (fllShown_aside s j he).trans ?_
      split
      · rw [islandFault_each]
        have others : ∀ x ∈ islandEngines j, e ≠ x ∧ x ≠ 8 := by
          unfold islandEngines
          rw [if_neg (by omega)]
          simp only [List.mem_cons, List.not_mem_nil, or_false]
          omega
        exact (markFaulty_aside e _ j).trans (eachClock_aside he _ others _)
      · exact safeCause_aside _ he 1
    · rw [fllUnlock_idle i]
      exact .refl e s
  obtain ⟨run, lists, clock⟩ := h
  refine ⟨(aside.fld rfl).trans run, (congrArg Mode.lists aside.2.2).trans lists, ?_⟩
  obtain same | same := fllUnlock_clk s j
  · rw [same]; exact clock
  · rw [same]; exact clock

end Sys2Proof.Machine

namespace Sys2Proof.Machine

set_option Elab.async false

/-! ### FLL_UNLOCK (R62, R130, R542) -/

theorem each_one {β : Type} (s : State) (x : β) (f : State → β → State) : s.each [x] f = f s x := rfl

theorem each_two {β : Type} (s : State) (x y : β) (f : State → β → State) : s.each [x, y] f = f (f s x) y := rfl

theorem islandFault_faults {s : State} {e : Nat} (he : e < 9) (h : s.engState e = stRunning) :
    Down e (s.islandFault (7 + e / 2)) ∧ (s.islandFault (7 + e / 2)).raised (clockCode e) = true := by
  have run : (s.markFaulty (7 + e / 2)).engState e = stRunning := ((markFaulty_aside e s _).fld rfl).trans h
  rw [islandFault_each]
  by_cases es : e = 8
  · subst es
    rw [show islandEngines (7 + 8 / 2) = [8] from rfl, each_one]
    exact clockFault_faults he run
  · have pair : islandEngines (7 + e / 2) = [2 * (e / 2), 2 * (e / 2) + 1] := by
      unfold islandEngines
      rw [if_neg (by omega), Nat.add_sub_cancel_left]
    rw [pair, each_two]
    have even : e = 2 * (e / 2) ∨ e = 2 * (e / 2) + 1 := by omega
    obtain x | x := even
    · obtain ⟨down, raised⟩ := clockFault_faults he run
      rw [← x]
      exact ⟨clockFault_down _ (e + 1) he down, (clockFault_stands _ (e + 1)).1 _ (clockCode_block e) raised⟩
    · have first := clockFault_aside (s.markFaulty (7 + e / 2)) (2 * (e / 2)) he (by omega) (by omega)
      rw [← x]
      exact clockFault_faults he ((first.fld rfl).trans run)

/-- Engine `e` lost its clock: its island's FLL, its clock, the engine and its fault show it. -/
def ClockLost (e : Nat) (s : State) : Prop :=
  FllLost (7 + e / 2) s ∧ s.clk.faulty.getLsbD (7 + e / 2) = true ∧ Down e s ∧ s.raised (clockCode e) = true

theorem fllUnlock_keepsClockLost {e : Nat} (he : e < 9) (s : State) (j : Nat) (h : ClockLost e s) :
    ClockLost e (s.fllUnlock j) := by
  obtain ⟨lost, faulty, down, raised⟩ := h
  exact ⟨fllUnlock_keepsLost s j lost, fllUnlock_faulty s j faulty, fllUnlock_down s j he down,
    (fllUnlock_stands s j).1 _ (clockCode_block e) raised⟩

theorem fllUnlock_engine {e : Nat} (he : e < 9) {s : State} (h : Clocked e (7 + e / 2) s) :
    s.fllUnlock (7 + e / 2) = (s.fllShown (7 + e / 2)).islandFault (7 + e / 2) := by
  rw [fllUnlock_judged (h.judged he), if_pos (by omega)]

theorem fllUnlock_losesClock {e : Nat} (he : e < 9) {s : State} (h : Clocked e (7 + e / 2) s) :
    ClockLost e (s.fllUnlock (7 + e / 2)) := by
  have run := ((fllShown_aside s (7 + e / 2) he).fld rfl).trans h.1
  obtain ⟨down, raised⟩ := islandFault_faults he run
  refine ⟨fllUnlock_lost (by omega) (h.judged he), ?_⟩
  rw [fllUnlock_engine he h]
  refine ⟨?_, down, raised⟩
  rw [islandFault_clk]
  have isl : 7 + e / 2 < 12 := by omega
  simp [State.markFaulty, isl]

/-- The islands that a mask names, in their order. -/
def islandsOf (isls : BitVec 12) : List Nat := (List.range 12).filter (fun i => isls.getLsbD i)

theorem islandsOf_split {isls : BitVec 12} {isl : Nat} (h : isls.getLsbD isl = true) (hl : isl < 12) :
    ∃ a b, islandsOf isls = a ++ isl :: b ∧ (∀ j ∈ a, j < isl) ∧ ∀ j ∈ b, isl < j ∧ j < 12 := by
  have mem : isl ∈ islandsOf isls := List.mem_filter.mpr ⟨List.mem_range.mpr hl, h⟩
  obtain ⟨a, b, e⟩ := List.append_of_mem mem
  have sorted : (islandsOf isls).Pairwise (· < ·) := List.pairwise_lt_range.filter _
  have bound : ∀ j ∈ islandsOf isls, j < 12 := fun j hj => List.mem_range.mp (List.mem_filter.mp hj).1
  rw [e] at sorted bound
  obtain ⟨_, later, before⟩ := List.pairwise_append.mp sorted
  exact ⟨a, b, e, fun j hj => before j hj isl List.mem_cons_self,
    fun j hj => ⟨(List.pairwise_cons.mp later).1 j hj, bound j (by simp [hj])⟩⟩

theorem each_append {β : Type} (s : State) (a b : List β) (x : β) (f : State → β → State) :
    s.each (a ++ x :: b) f = (f (s.each a f) x).each b f := by
  unfold State.each
  rw [List.foldl_append, List.foldl_cons]

/-- What the turn of one island brings about, and the islands after it keep, stands in the end. -/
theorem eachUnlock_reaches {isls : BitVec 12} {isl : Nat} (h : isls.getLsbD isl = true) (hl : isl < 12) {s : State}
    {before after : State → Prop} (h0 : before s) (step : ∀ u, ∀ j < isl, before u → before (u.fllUnlock j))
    (turn : ∀ u, before u → after (u.fllUnlock isl)) (keep : ∀ u j, isl < j → j < 12 → after u → after (u.fllUnlock j)) :
    after (s.each (islandsOf isls) State.fllUnlock) := by
  obtain ⟨a, b, e, ha, hb⟩ := islandsOf_split h hl
  rw [e, each_append]
  have start : before (s.each a State.fllUnlock) :=
    List.foldlRecOn a _ h0 fun u hu j hj => step u j (ha j hj) hu
  exact List.foldlRecOn b _ (turn _ start) fun u hu j hj => keep u j (hb j hj).1 (hb j hj).2 hu

theorem fllUnlock_runs {isls : BitVec 12} {s : State} {P : State → Prop} (hp : s.powered = true)
    (h : P (s.each (islandsOf isls) State.fllUnlock).settle) : Runs (.fllUnlock isls) s Parts.fllUnlock P :=
  runs_meaning (execFllUnlock_does isls s) hp h

theorem fllUnlock_device {isls : BitVec 12} {isl : Fin 12} {s : State} (hp : s.powered = true)
    (h : isls.getLsbD isl = true) (h1 : 1 ≤ isl.val) (h6 : isl.val ≤ 6) :
    Runs (.fllUnlock isls) s Parts.fllUnlock (fun t => t.raised 0x0204 = true ∧
      t.bitOf CLK_STAT.ISL_OK isl = false ∧ t.bitOf INT_SAFE_CAUSE.CAUSE 1 = true) := by
  have turn : ∀ u : State, FllLost isl (u.fllUnlock isl) ∧ (u.fllUnlock isl).bitOf INT_SAFE_CAUSE.CAUSE 1 = true :=
    fun u => by
      have j : u.fllJudged isl := ⟨by omega, fun _ => by omega⟩
      refine ⟨fllUnlock_lost isl.isLt j, ?_⟩
      rw [fllUnlock_judged j, if_neg (by omega)]
      exact bitOf_putBit_same (u.fllShown isl) INT_SAFE_CAUSE.CAUSE 1 true
  obtain ⟨⟨raised, lost⟩, cause⟩ := eachUnlock_reaches (before := fun _ => True)
    (after := fun u => FllLost isl u ∧ u.bitOf INT_SAFE_CAUSE.CAUSE 1 = true) h isl.isLt trivial
    (fun _ _ _ => id) (fun u _ => turn u)
    (fun u j _ _ hu => ⟨fllUnlock_keepsLost u j hu.1, (fllUnlock_stands u j).2 1 hu.2⟩) (s := s)
  exact fllUnlock_runs hp ⟨raised, lost, cause⟩

/-- A running engine whose island is named loses its clock. -/
theorem eachUnlock_losesClock {isls : BitVec 12} {e : Nat} (he : e < 9) {s : State}
    (h : isls.getLsbD (7 + e / 2) = true) (hs : s.islandStopped (7 + e / 2) = false)
    (hr : s.engState e = stRunning) : ClockLost e (s.each (islandsOf isls) State.fllUnlock) :=
  eachUnlock_reaches h (by omega) (clocked_of hs hr) (fun _ _ hj hu => fllUnlock_clocked he hj hu)
    (fun _ => fllUnlock_losesClock he) (fun u j _ _ hu => fllUnlock_keepsClockLost he u j hu)

theorem fllUnlock_engineIsland {isls : BitVec 12} {isl e : Nat} {s : State} (hp : s.powered = true)
    (h : isls.getLsbD isl = true) (h10 : isl ≤ 10) (hi : isl = 7 + e / 2) (hs : s.islandStopped isl = false)
    (hr : s.engState e = stRunning) :
    Runs (.fllUnlock isls) s Parts.fllUnlock (fun t => t.raised 0x0204 = true ∧ t.bitOf CLK_STAT.ISL_OK isl = false ∧
      t.clk.faulty.getLsbD isl = true ∧ t.engState e = stFaulted ∧ t.fld (ENG_E_STAT.CAUSE e) = 0x0A ∧
      (t.eng e).exec = false ∧ t.raised 0x040A = true) := by
  subst hi
  obtain ⟨⟨raised, lost⟩, faulty, ⟨state, cause, exec⟩, clock⟩ := eachUnlock_losesClock (by omega) h hs hr
  have code : clockCode e = 0x040A := by
    unfold clockCode
    rw [if_neg (by omega)]
  exact fllUnlock_runs hp ⟨raised, lost, faulty, state, cause, exec, code ▸ clock⟩

theorem fllUnlock_esOk {s : State} (h : Clocked 8 11 s) : (s.fllUnlock 11).flag ENG_STAT.ES_OK = false := by
  have run := ((fllShown_aside s 11 (i := 8) (by decide)).fld rfl).trans h.1
  refine (congrArg (State.flag · ENG_STAT.ES_OK) (fllUnlock_engine (e := 8) (by decide) h)).trans ?_
  show ((s.fllShown 11).islandFault 11).flag ENG_STAT.ES_OK = false
  rw [islandFault_each, show islandEngines 11 = [8] from rfl, each_one]
  exact clockFault_esOk (((markFaulty_aside 8 _ 11).fld rfl).trans run)

theorem fllUnlock_es {isls : BitVec 12} {s : State} (hp : s.powered = true) (h : isls.getLsbD 11 = true)
    (hs : s.islandStopped 11 = false) (hr : s.engState 8 = stRunning) :
    Runs (.fllUnlock isls) s Parts.fllUnlock (fun t => t.raised 0x0204 = true ∧ t.bitOf CLK_STAT.ISL_OK 11 = false ∧
      t.clk.faulty.getLsbD 11 = true ∧ t.engState 8 = stFaulted ∧ t.flag ENG_STAT.ES_OK = false ∧
      (t.eng 8).exec = false ∧ t.raised 0x110A = true) := by
  obtain ⟨⟨raised, lost⟩, faulty, ⟨state, _, exec⟩, clock⟩ := eachUnlock_losesClock (e := 8) (by decide) h hs hr
  have ok : (s.each (islandsOf isls) State.fllUnlock).flag ENG_STAT.ES_OK = false :=
    eachUnlock_reaches (after := fun u => u.flag ENG_STAT.ES_OK = false) h (by decide) (clocked_of hs hr)
      (fun _ _ hj hu => fllUnlock_clocked (e := 8) (by decide) hj hu) (fun _ => fllUnlock_esOk)
      (fun _ _ late bound => absurd late (by omega))
  exact fllUnlock_runs hp ⟨raised, lost, faulty, state, ok, exec, clock⟩

theorem fllUnlock_unjudged {isls : BitVec 12} {s : State} (hp : s.powered = true)
    (h : ∀ i < 12, isls.getLsbD i = true → 7 ≤ i ∧ s.islandStopped i = true) :
    Runs (.fllUnlock isls) s Parts.fllUnlock (fun t => t.regs = s.regs ∧ t.clk = s.clk ∧ t.engs = s.engs) := by
  have same : s.each (islandsOf isls) State.fllUnlock = s := by
    refine List.foldlRecOn (motive := (· = s)) (islandsOf isls) _ rfl fun u hu i hi => ?_
    obtain ⟨range, named⟩ := List.mem_filter.mp hi
    obtain ⟨engine, stopped⟩ := h i (List.mem_range.mp range) named
    rw [hu]
    exact fllUnlock_idle fun j => absurd (j.2 engine) (by simp [stopped])
  refine fllUnlock_runs hp ?_
  rw [same]
  exact ⟨rfl, rfl, rfl⟩

/-- Settles O3, command by command; the FLLs are judged in the order of their islands, and what the turn of one shows
the later ones keep. -/
theorem clockIslandsJudged : Obligations.ClockIslandsJudged :=
  ⟨fun _ _ _ hp h h1 h6 => fllUnlock_device hp h h1 h6,
    fun _ _ _ _ hp h _ h10 hi hs hr _ => fllUnlock_engineIsland hp h h10 hi hs hr,
    fun _ _ hp h hs hr _ => fllUnlock_es hp h hs hr, fun _ _ hp h => fllUnlock_unjudged hp h,
    fun isl _ hp h => fllRelock_locks isl hp h, fun _ hp h => rcLost_raises hp h, fun _ hp => rcReturn_ends hp,
    fun _ hp hm hc hs => lpoMeasure_starts hp hm hc hs, fun _ h => lpoCal_starts h,
    fun per _ hp hb => lpoMeasureDone_judges per hp hb, fun _ hm hr => sleepSat_saturates hm hr⟩

end Sys2Proof.Machine

namespace Sys2Proof.Machine

set_option Elab.async false

/-! ### A splice whose pairs request a reset (R79, R88, R585) -/

section
variable {s : State}

/-- A pair that requests a reset with its key is carried out as one, at a splice as at the end of BOOT. -/
theorem pairWrite_reset (s : State) : s.pairWrite true SYS_MODE_REQ (reqWord 6 0xA5) = s.resetBy 6 := by
  have value : s.pairValue true SYS_MODE_REQ (reqWord 6 0xA5) = reqWord 6 0xA5 := by
    unfold State.pairValue
    dsimp only
    rw [if_neg (by decide), if_neg (by decide)]
  show s.busWrite .mc SYS_MODE_REQ (s.pairValue true SYS_MODE_REQ (reqWord 6 0xA5)) {} = _
  rw [value, busWrite_reset]

theorem resetBy_mode (c : Nat) (h : s.sys.inReset = false) : (s.resetBy c).sys.mode = .boot := by
  unfold State.resetBy
  rw [if_neg (by simp [h])]
  rfl

theorem apart_sys (s : State) (f : State → State) :
    (s.apart f).2.sys = (f { s with spi := { s.spi with result := 0 } }).sys := rfl

/-- Whatever becomes of a value that waited for the register, the device is back in BOOT. -/
theorem splicePair_reset_mode (h : s.sys.inReset = false) :
    (s.loadPair true SYS_MODE_REQ (reqWord 6 0xA5)).2.sys.mode = .boot := by
  have kept : s.keptBySplice SYS_MODE_REQ = false := by
    have motion : ((List.range 12).any fun n => SYS_MODE_REQ == AX_TARGET n || SYS_MODE_REQ == AX_VTARGET n ||
      SYS_MODE_REQ == AX_SETPOS n) = false := by decide
    have atomic : (SYS_MODE_REQ == MEM_AT_SET || SYS_MODE_REQ == MEM_AT_CLR) = false := by decide
    unfold State.keptBySplice
    rw [motion, atomic]
    rfl
  have now : cutMask SYS_MODE_REQ = 0 := by decide
  have mode : (s.apart fun u => u.pairWrite true SYS_MODE_REQ (reqWord 6 0xA5)).2.sys.mode = .boot := by
    rw [apart_sys, pairWrite_reset]
    exact resetBy_mode 6 h
  unfold State.loadPair
  rw [if_neg (by simp [kept])]
  dsimp only
  rw [if_pos now]
  split
  · exact mode
  · rw [if_neg (by decide)]
    split <;> exact mode

theorem splicePairs_reset_mode (h : s.sys.inReset = false) :
    (s.loadPairs true [(SYS_MODE_REQ, reqWord 6 0xA5)]).2.2.sys.mode = .boot := by
  have mode := splicePair_reset_mode h
  unfold State.loadPairs
  dsimp only [State.loadPairs]
  split
  · exact (congrArg Sys.mode ((State.raise_does _ _ _).same .sys)).trans mode
  · exact mode

theorem spliceRegs_reset_mode (hr : s.sys.inReset = false) (hu : s.usedAxes = [])
    (hi : s.reel.active.regInit = [(SYS_MODE_REQ, reqWord 6 0xA5)]) : (s.loadRegs true).2.sys.mode = .boot := by
  unfold State.loadRegs
  dsimp only
  rw [each_sys _ _ _ fun u n => (State.arm_does u n).same .sys]
  simp only [hu, State.loadAxes, hi]
  exact splicePairs_reset_mode hr

/-- A splice outside STANDBY to a take of that one pair, in a device that uses no axis. -/
theorem spliceApply_reset_mode {c : Copy} {st : Struct} (hr : s.sys.inReset = false) (hm : s.sys.mode ≠ .standby)
    (hu : s.reel.struct.engines = []) (ht : c.thermal = []) (hi : c.regInit = [(SYS_MODE_REQ, reqWord 6 0xA5)]) :
    (s.spliceApply c st).sys.mode = .boot := by
  have axes : ∀ u : State, u.reel.struct = s.reel.struct → u.usedAxes = [] := fun u h => by
    simp [State.usedAxes, State.axisUsed, State.axisEntry, h, hu]
  have shown : ∀ u : State, (u.showTake.canMapLoad (some s.fifoBase)).sys = u.sys ∧
      (u.showTake.canMapLoad (some s.fifoBase)).reel = u.reel := fun u =>
    ⟨((State.canMapLoad_does _ _).same .sys).trans ((State.showTake_does u).same .sys),
      ((State.canMapLoad_does _ _).same .reel).trans ((State.showTake_does u).same .reel)⟩
  unfold State.spliceApply
  dsimp only
  rw [(State.spliceRecord_does _ _ _ _).same .sys,
    when_sys _ _ _ (each_sys _ _ _ fun u n => (State.modMot_does u n _).same .sys), if_neg (by simpa using hm), ht]
  refine spliceRegs_reset_mode ?_ (axes _ ?_) ?_
  · exact (congrArg Sys.inReset (shown _).1).trans hr
  · exact Eq.trans (congrArg Reel.struct (shown _).2) rfl
  · exact Eq.trans (congrArg (·.active.regInit) (shown _).2) hi

theorem spliceStep_applies {c : Copy} {st : Struct} (hs : s.reel.staged = some (c, st)) (hf : s.spliceFault c.hdr = 0)
    (hh : s.switchHeld = false) (hw : s.spliceWait = 0) : s.spliceStep = s.spliceApply c st := by
  unfold State.spliceStep
  rw [hs]
  dsimp only
  rw [if_neg (by simp [hf]), if_neg (by simp [hh, hw])]

/-- Outside STANDBY, with no disable waiting, the splice is the last step of APPLY that can change the mode. -/
theorem applySteps_sys (hw : s.waiting = []) (hm : s.sys.mode ≠ .standby) :
    s.applySteps.sys = (s.applyMiddle none).spliceStep.sys := by
  have disable : s.disableAll = s := by
    unfold State.disableAll
    rw [hw]
    rfl
  unfold State.applySteps
  dsimp only
  rw [(State.firmwareStop_does _).same .sys, (State.retainCut_does _).same .sys, (State.takeAllWaiting_does _).same .sys,
    disable, if_neg (by simpa using hm)]
  rfl

/-- The state once step 1 of APPLY has acted on the mode. -/
def State.modeTaken (s : State) : State := ((s.toPhase 28 .applied).put CLK_CUT_STAT.APPLY_WAIT 0).modeApply

/-- The steps that follow, unless the device goes to SLEEP, end the command. -/
theorem cutApply_sys {t : State} (hp : s.powered = true) (hd : s.atPhase .drained = true)
    (hm : s.modeTaken.sys.mode ≠ .sleep) (h : exec .cutApply s = .next t) : t.sys = s.modeTaken.applySteps.sys := by
  have e : execCutApply s = .next t := h
  unfold execCutApply whenPowered done at e
  dsimp only at e
  rw [if_pos hp, if_neg (by simp [hd])] at e
  obtain rfl := Host.Outcome.next.inj e
  exact congrArg (fun u : State => u.settle.sys) (if_neg hm)

/-- A loop whose steps find nothing to do. -/
theorem each_idle {β : Type} {l : List β} {f : State → β → State} (h : ∀ b ∈ l, f s b = s) : s.each l f = s :=
  List.foldlRecOn (motive := (· = s)) l f rfl fun _ hu b hb => hu ▸ h b hb

theorem handover_idle (hw : s.waiting = []) (ht : s.intg.takeover = none) (hv : s.flag INT_REC.VALID = false) :
    s.handover none = s := by
  have owners : (s.each (List.range 17) fun u b => match Assoc.get u.waiting (MEM_B_OWN b) with
      | some v => u.put (MEM_B_OWN.OWNER b) ((MEM_B_OWN.OWNER b).of v)
      | none => u) = s := each_idle fun b _ => by rw [hw]; rfl
  refine (congrArg State.recoveryApply owners).trans ?_
  unfold State.recoveryApply
  rw [ht]
  simp [hv]

theorem adcApply_idle (hs : s.adc.standFor = none)
    (hc : ∀ k < 6, (s.core k).trim = none ∧ (s.core k).calWaits = false ∧ s.flag (ADC_CORE_CHK.FAILED k) = false) :
    s.adcApply = s := by
  have resume : s.each (List.range 6) State.calResume = s := each_idle fun k hk => by
    simp [State.calResume, hs, hc k (List.mem_range.mp hk)]
  have take : s.each (List.range 5) State.takeCore = s := each_idle fun k hk => by
    simp [State.takeCore, hc k (by have := List.mem_range.mp hk; omega)]
  have next : s.each (List.range 5) State.calNext = s := each_idle fun k hk => by
    simp [State.calNext, hc k (by have := List.mem_range.mp hk; omega)]
  unfold State.adcApply
  dsimp only
  rw [resume, take, next]

/-- APPLY steps 2 and 3 where no owner, no repair and no converter core waits for them. -/
theorem applyMiddle_idle (hw : s.waiting = []) (ht : s.intg.takeover = none) (hv : s.flag INT_REC.VALID = false)
    (hb : ∀ b < 17, (s.bank b).repairs = []) (hs : s.adc.standFor = none)
    (hc : ∀ k < 6, (s.core k).trim = none ∧ (s.core k).calWaits = false ∧ s.flag (ADC_CORE_CHK.FAILED k) = false) :
    s.applyMiddle none = s := by
  have repairs : s.each (List.range 17) State.mapRepair = s := each_idle fun b h => by
    simp [State.mapRepair, hb b (List.mem_range.mp h)]
  unfold State.applyMiddle
  rw [handover_idle hw ht hv, repairs, adcApply_idle hs hc]

end

/-- In RUN at the end of DRAIN, with a request of SAFE pending and a splice ARMED; the one REG_INIT pair of the staged
copy is a request of RESET with its key. -/
def resettingSplice : State :=
  { (State.reset.put SYS_MODE.PEND 3).put REEL_STAT.SPLICE_STATE 2 with
    sys := { mode := .run, inReset := false }
    clk := { cutsOn := true, phase := .drained }
    reel := { staged := some ({ regInit := [(SYS_MODE_REQ, reqWord 6 0xA5)] }, {}) } }

theorem resettingSplice_safe :
    resettingSplice.modeTaken.sys.mode = .safe ∧ resettingSplice.modeTaken.sys.inReset = false := by decide

/-- Nothing waits for the steps before the splice. -/
theorem resettingSplice_middle : resettingSplice.modeTaken.applyMiddle none = resettingSplice.modeTaken :=
  applyMiddle_idle (by decide) (by decide) (by decide) (by decide) (by decide) (by decide)

/-- No reason refuses the splice, and nothing puts it off. -/
theorem resettingSplice_splices : resettingSplice.modeTaken.spliceStep =
    resettingSplice.modeTaken.spliceApply { regInit := [(SYS_MODE_REQ, reqWord 6 0xA5)] } {} :=
  spliceStep_applies (by decide) (by decide) (by decide) (by decide)

theorem resettingSplice_boots : resettingSplice.modeTaken.applySteps.sys.mode = .boot := by
  obtain ⟨mode, out⟩ := resettingSplice_safe
  have running : resettingSplice.modeTaken.sys.mode ≠ .standby := by simp [mode]
  rw [applySteps_sys (by decide) running, resettingSplice_middle, resettingSplice_splices]
  exact spliceApply_reset_mode out running (by decide) rfl rfl

/-- Refutes O5, at its clause on a mode change that is due, which leaves open what is staged. A REG_INIT pair that
addresses SYS fails check 9 of R88, but the clause does not ask that the staged copy passed it: at the cut that takes the
request of SAFE the splice takes place too, its request of RESET is carried out, and the device ends the cut in BOOT. -/
theorem not_cutWindowPhases : ¬ Obligations.CutWindowPhases := by
  rintro ⟨-, -, -, -, modes, -⟩
  obtain ⟨t, run, -, safe, -⟩ := modes 3 .safe resettingSplice (by decide) (by decide) rfl (by decide) (by decide)
    (by decide) (by decide)
  have awake : resettingSplice.modeTaken.sys.mode ≠ .sleep := by simp [resettingSplice_safe]
  rw [cutApply_sys (by decide) (by decide) awake run, resettingSplice_boots] at safe
  exact absurd safe (by decide)

end Sys2Proof.Machine

namespace Sys2Proof.Machine

set_option Elab.async false

/-! ### The end of a reload (R85, R86) -/

/-- The tables of the active take, loaded into the image that is not active, read back with their checks. -/
def State.reloadReadsBack (s : State) : Bool :=
  let u := s.loadTables s.reel.active s.otherImage
  (u.tablesOk u.reel.active u.otherImage).1

/-- The copies are left to be switched to where the tables in the banks read back, and every copy outside them does. -/
theorem reloadDone_reloaded {s t : State} {bad : Bool} (hp : s.powered = true) (hm : s.mcRuns = true)
    (hr : s.reel.reloading = true) (hs : s.splicing = false) (h : exec (.reloadDone bad) s = .next t) :
    t.reel.reloaded = (s.reloadReadsBack && !bad) := by
  have e : execReloadDone bad s = .next t := h
  unfold execReloadDone whenPowered done at e
  dsimp only at e
  rw [if_pos hp, if_neg (by simp [hm, hr, hs])] at e
  obtain rfl := Host.Outcome.next.inj e
  rfl

/-- In RUN with a reload that has loaded every section; the one table of the take, a RAMP of four bytes of 0, holds the
check 0, where their CRC-32C is 0x48674BC7. -/
def unsoundTable : State :=
  { State.reset with
    sys := { mode := .run, inReset := false }
    mgt := { mcOk := true }
    reel := {
      reloading := true
      active := { tables := [{ typ := 0x11, inst := 0, at0 := 0, bytes := List.replicate 4 0, crc := 0 }] } } }

theorem unsoundTable_fails : unsoundTable.reloadReadsBack = false := by decide

/-- Refutes O10, at its clause on the end of a reload. The operand `bad` tells of the copies outside the banks alone: a
table in the banks that does not read back with its check leaves nothing to switch to either (R85), and the clause does
not ask that the tables of the active take have their checks. -/
theorem not_trialEnds : ¬ Obligations.TrialEnds := by
  rintro ⟨-, -, -, -, -, -, -, reload⟩
  obtain ⟨t, run, -, -, reloaded⟩ := reload false unsoundTable (by decide) rfl rfl rfl (by decide)
  rw [reloadDone_reloaded (by decide) (by decide) rfl (by decide) run, unsoundTable_fails] at reloaded
  exact absurd reloaded (by decide)

end Sys2Proof.Machine

namespace Sys2Proof.Machine

set_option Elab.async false

/-! ### What a takeover waits with (R534, R536) -/

/-- The engine of a takeover that waits for its first cut, and the axes of the recovery. -/
def State.awaited (s : State) : Option Nat × BitVec 12 := (s.intg.takeover, s.intg.recAxes)

theorem Does.awaited {l : List Field} {s t : State} (h : Does l s t) (hl : .intg ∉ l := by decide) :
    t.awaited = s.awaited :=
  congrArg (fun i : Intg => (i.takeover, i.recAxes)) (h.same .intg hl)

theorem put_awaited (s : State) (f : Fld) (v : Nat) : (s.put f v).awaited = s.awaited := rfl

section
variable (s : State) (n : Nat)

theorem enterSafe_awaited (c : Nat) : (s.enterSafe n c).awaited = s.awaited := by
  unfold State.enterSafe
  dsimp only
  split
  · rfl
  split
  · split
    · exact (State.setAxCause_does _ n c).awaited
    · rfl
  refine (State.drive_does _ n).awaited.trans ?_
  refine Eq.trans (b := (State.setAxCause _ n c).awaited) (by split <;> rfl) ?_
  refine (State.setAxCause_does _ n c).awaited.trans ((State.setCoast_does _ n 0).awaited.trans ?_)
  refine (put_awaited _ ⟨MOD_STAT, _, 1⟩ _).trans ((put_awaited _ (MOD_AX_STAT.SAFE n) 1).trans ?_)
  exact when_pres State.awaited s _ rfl

theorem interlock_awaited (k : Nat) : (s.interlock n k).awaited = s.awaited := by
  unfold State.interlock
  dsimp only
  split
  · refine (enterSafe_awaited _ n 2).trans ?_
    exact (State.raise_does ((State.bump _ MOD_ILOCK_CNT.EVENTS 1).put MOD_ILOCK_CNT.LAST_HB _) 0x0708 0).awaited
  · rfl

theorem driveChecked_awaited : (s.driveChecked n).awaited = s.awaited := by
  refine each_pres State.awaited (fun u k => ?_) s _
  dsimp only
  split
  · exact (interlock_awaited _ n k).trans (State.driveHb_does u n k).awaited
  · exact (State.driveHb_does u n k).awaited

theorem follow_awaited : (s.follow n).awaited = s.awaited := by
  unfold State.follow
  dsimp only
  split
  · refine (driveChecked_awaited _ n).trans (each_pres State.awaited (fun u b => ?_) s _)
    exact (State.place_does _ n b false).awaited.trans (State.voltageOut_does u n b).awaited
  · rfl

theorem raiseVisible_awaited (code : Nat) : (s.raiseVisible n code).awaited = s.awaited := by
  have raised := (State.raise_does s code 0).awaited
  unfold State.raiseVisible
  dsimp only
  split <;> exact raised

theorem coastStop_awaited : (s.coastStop n).awaited = s.awaited := by
  unfold State.coastStop
  split
  · rfl
  · refine (follow_awaited _ n).trans ((driveChecked_awaited _ n).trans ((raiseVisible_awaited _ n _).trans ?_))
    refine (State.setCoast_does _ n 15).awaited.trans ?_
    split <;> rfl

theorem parkAxis_awaited : (s.parkAxis n).awaited = s.awaited :=
  (coastStop_awaited _ n).trans (when_pres State.awaited _ _ rfl)

theorem park_awaited (axes : List Nat) (cause t : Nat) : (s.park n axes cause t).awaited = s.awaited := by
  refine (State.event_does _ _ _ _ _ _).awaited.trans ?_
  refine Eq.trans ?_ (each_pres State.awaited parkAxis_awaited s axes)
  exact (State.raise_does (State.bump _ INT_REC_CNT.PARKS 1) 0x0F02 0).awaited

end

end Sys2Proof.Machine

namespace Sys2Proof.Machine

set_option Elab.async false

/-! ### What a fault of an engine leaves until its outcome (R132, R535) -/

theorem struct_unless (p : Bool) (s : State) (r : Reel) (h : r.struct = s.reel.struct) :
    (if p then { s with reel := r } else s).reel.struct = s.reel.struct := by
  cases p
  · rfl
  · exact h

/-- A fault may touch the trial of the reel in force, never its structure (R103). -/
theorem raise_struct (s : State) (code unit : Nat) : (s.raise code unit).reel.struct = s.reel.struct := by
  have logged : ∀ (u : State) (x : Nat), (u.logFault code x).reel = u.reel := fun u x =>
    (State.logFault_does u code x).same .reel
  have set : ∀ b bit ub : Nat,
      (s.setFault (faultReg b unit) bit (faultReg b unit + 4) ub code unit).reel = s.reel := fun b bit ub =>
    (State.setFault_does s _ bit _ ub code unit ⟨b, unit, .inl rfl⟩ ⟨b, unit, .inr rfl⟩).same .reel
  unfold State.raise
  dsimp only
  rw [logged, struct_unless, set]
  rfl

theorem engineAxes_of_struct {s t : State} (h : t.reel.struct = s.reel.struct) (e : Nat) :
    t.engineAxes e = s.engineAxes e := by
  unfold State.engineAxes State.axisAt
  rw [h]

theorem axesOf_of_struct {s t : State} (h : t.reel.struct = s.reel.struct) {e : Nat} (he : e ≠ 8) :
    t.axesOf e = s.axesOf e := by
  unfold State.axesOf
  rw [if_neg he, if_neg he, engineAxes_of_struct h]

/-- The registers that tell whether a fault may be taken over, and what a takeover shows at once. -/
def windowRegs : List Nat := [INT_STAT, INT_REC, INT_REC_CNT, ENG_STAT]

theorem windowRegs_apart {e a : Nat} (he : e < 9) (ha : a ∈ windowRegs) :
    a ≠ ENG_E_STAT e ∧ a ≠ ENG_E_MISS e ∧ a ≠ ENG_E_WATCH e := by
  have apart : ∀ e < 9, ∀ a ∈ windowRegs, a ≠ ENG_E_STAT e ∧ a ≠ ENG_E_MISS e ∧ a ≠ ENG_E_WATCH e := by decide
  exact apart e he a ha

theorem Does.windowWord {l : List Field} {s t : State} (h : Does l s t) {a : Nat} (ha : a ∈ windowRegs)
    (hl : ∀ a ∈ windowRegs, l.all (fun k => !k.covers a) = true := by decide) : t.word a = s.word a :=
  h.word (hl a ha)

section
variable (s : State) {e : Nat} (he : e < 9) (c : Nat)

theorem faultShown_struct (e : Nat) : (s.faultShown e c).reel.struct = s.reel.struct :=
  (raise_struct _ _ 0).trans (congrArg Reel.struct ((undone_does s e).same .reel))

theorem faultShown_awaited (e : Nat) : (s.faultShown e c).awaited = s.awaited :=
  (State.raise_does _ _ 0).awaited.trans (undone_does s e).awaited

include he

theorem faultShown_word {a : Nat} (ha : a ∈ windowRegs) : (s.faultShown e c).word a = s.word a := by
  obtain ⟨stat, miss, -⟩ := windowRegs_apart he ha
  refine ((State.raise_does _ _ 0).windowWord ha).trans ?_
  refine (State.word_put_other _ _ miss).trans ((State.word_put_other _ _ stat).trans ?_)
  exact (undone_does s e).windowWord ha

theorem faultShown_counts :
    (s.faultShown e c).fld (ENG_E_MISS.FAULTS e) = min (s.fld (ENG_E_MISS.FAULTS e) + 1) 0xFFFF := by
  have apart : ∀ e < 9, [Field.one MGT_LOG_STAT, .faults, .reel, .mgt, .can].all
      (fun k => !k.covers (ENG_E_MISS e)) = true := by decide
  have clear : ∀ e < 9, [Field.one MEM_MB_CNT, .row MEM_B_STAT, .row MEM_B_ECC, .mem, .drawn, .cells].all
      (fun k => !k.covers (ENG_E_MISS e)) = true := by decide
  have before : ∀ f : Eng → Eng, (((s.undone e).modEng e f).put (ENG_E_STAT.CAUSE e) c).fld (ENG_E_MISS.FAULTS e) =
      s.fld (ENG_E_MISS.FAULTS e) := fun f => by
    refine (fld_put_ne _ _ _ _ (.inl ?_)).trans ((undone_does s e).fld (clear e he))
    simp only [ENG_E_MISS.FAULTS, ENG_E_STAT.CAUSE, ENG_E_MISS, ENG_E_STAT]
    omega
  refine ((State.raise_does _ _ 0).fld (apart e he)).trans ?_
  rw [bump_eq, fld_put_same' _ (ENG_E_MISS.FAULTS e) _ (by simp [ENG_E_MISS.FAULTS]), before]
  simp only [ENG_E_MISS.FAULTS]
  omega

end

/-- The flags of ES in ENG_STAT stand beside those of the engines. -/
theorem setEngState_es (s : State) (e st : Nat) {f : Fld} (hf : f.addr = ENG_STAT ∧ 16 ≤ f.lo) :
    (s.setEngState e st).fld f = s.fld f := by
  obtain ⟨addr, lo⟩ := hf
  have state := fld_put_ne s (ENG_E_STAT.STATE e) f st (.inl (addr ▸ (engStat_ne_engStat e).symm))
  unfold State.setEngState
  dsimp only
  by_cases h : e < 8
  · rw [if_pos h]
    refine (fld_put_ne _ ⟨ENG_STAT, 8 + e, 1⟩ f _ (.inr (.inr ?_))).trans state
    show 8 + e + 1 ≤ f.lo
    omega
  · rw [if_neg h]
    exact state

theorem setEngState_window (s : State) {e : Nat} (he : e < 9) (st : Nat) {a : Nat} (ha : a ∈ windowRegs)
    (h : a ≠ ENG_STAT) : (s.setEngState e st).word a = s.word a := by
  refine ((setEngState_frame s e st).word ?_).trans (State.word_put_other _ _ (windowRegs_apart he ha).1)
  revert a
  decide

/-- Engine `e` stopped and shown FAULTED, as the outcome of its fault finds it. -/
def State.faultStopped (s : State) (e c : Nat) : State := (s.faultShown e c).stampD1.2.setEngState e stFaulted

section
variable (s : State) {e : Nat} (he : e < 9) (c : Nat)

theorem faultStopped_struct (e : Nat) : (s.faultStopped e c).reel.struct = s.reel.struct := by
  refine Eq.trans ?_ (faultShown_struct s c e)
  exact congrArg Reel.struct (((State.setEngState_does _ e stFaulted).same .reel).trans
    ((State.stampD1_does _).same .reel))

theorem faultStopped_awaited (e : Nat) : (s.faultStopped e c).awaited = s.awaited :=
  (State.setEngState_does _ e stFaulted).awaited.trans
    ((State.stampD1_does _).awaited.trans (faultShown_awaited s c e))

include he

theorem faultStopped_word {a : Nat} (ha : a ∈ windowRegs) (h : a ≠ ENG_STAT) :
    (s.faultStopped e c).word a = s.word a :=
  (setEngState_window _ he stFaulted ha h).trans
    (((State.stampD1_does _).windowWord ha).trans (faultShown_word s he c ha))

theorem faultStopped_es {f : Fld} (hf : f.addr = ENG_STAT ∧ 16 ≤ f.lo) : (s.faultStopped e c).fld f = s.fld f := by
  have words := ((State.stampD1_does (s.faultShown e c)).windowWord (a := ENG_STAT) (by decide)).trans
    (faultShown_word s he c (by decide))
  refine (setEngState_es _ e stFaulted hf).trans ?_
  unfold State.fld
  rw [hf.1, words]

end

theorem fld_of_word {s t : State} {f : Fld} (h : t.word f.addr = s.word f.addr) : t.fld f = s.fld f :=
  congrArg f.of h

theorem flag_of_fld {s t : State} {f : Fld} (h : t.fld f = s.fld f) : t.flag f = s.flag f :=
  congrArg (· == 1) h

/-! ### The outcomes (R534, R535, R539, R542) -/

/-- A fault is taken over: no window is open, ES covers none, and ES is ready. -/
structure State.MayTakeOver (s : State) : Prop where
  window : s.flag INT_STAT.WINDOW = false
  free : s.covering = false
  ready : s.flag ENG_STAT.ES_OK = true

theorem parks_iff (s : State) :
    (s.flag INT_STAT.WINDOW || s.covering || !s.flag ENG_STAT.ES_OK) = true ↔ ¬s.MayTakeOver := by
  constructor
  · rintro h ⟨window, free, ready⟩
    simp [window, free, ready] at h
  · intro h
    by_contra n
    simp only [Bool.or_eq_true, Bool.not_eq_true', not_or, Bool.not_eq_true, Bool.not_eq_false] at n
    exact h ⟨n.1.1, n.1.2, n.2⟩

/-- Whether a fault may be taken over is read from INT_STAT and from the flags of ES. -/
theorem mayTakeOver_congr {s t : State} (hi : t.word INT_STAT = s.word INT_STAT)
    (he : ∀ f : Fld, f.addr = ENG_STAT ∧ 16 ≤ f.lo → t.fld f = s.fld f) : t.MayTakeOver ↔ s.MayTakeOver := by
  have window : t.flag INT_STAT.WINDOW = s.flag INT_STAT.WINDOW := flag_of_fld (fld_of_word hi)
  have free : t.covering = s.covering := flag_of_fld (he ENG_STAT.ES_BUSY (by decide))
  have ready : t.flag ENG_STAT.ES_OK = s.flag ENG_STAT.ES_OK := flag_of_fld (he ENG_STAT.ES_OK (by decide))
  exact ⟨fun h => ⟨window ▸ h.window, free ▸ h.free, ready ▸ h.ready⟩,
    fun h => ⟨window ▸ h.window, free ▸ h.free, ready ▸ h.ready⟩⟩

/-- From `s` to `t` engine `e` is taken over: its recovery window is open, and INT_REC is as it was. -/
structure TakenOver (e : Nat) (s t : State) : Prop where
  raised : t.raised 0x0F01 = true
  awaited : t.awaited = (some e, s.axesOf e)
  window : t.flag INT_STAT.WINDOW = true
  record : t.word INT_REC = s.word INT_REC
  counts : t.fld INT_REC_CNT.TAKEOVERS = min (s.fld INT_REC_CNT.TAKEOVERS + 1) 0xFF

/-- From `s` to `t` engine `e` is parked: the recovery that may be open goes on. -/
structure Parked (e : Nat) (s t : State) : Prop where
  raised : t.raised 0x0F02 = true
  awaited : t.awaited = s.awaited
  window : t.flag INT_STAT.WINDOW = s.flag INT_STAT.WINDOW
  shown : t.bitOf INT_STAT.PARKED e = true

/-- A recovery event leaves PARKED and WINDOW of INT_STAT as they stand (R552). -/
theorem event_stat (s : State) (ev eng : Nat) (axes : BitVec 12) (cause t : Nat) {f : Fld}
    (hf : f.addr = INT_STAT ∧ f.lo + f.w ≤ 9) : (s.event ev eng axes cause t).fld f = s.fld f := by
  obtain ⟨addr, hi⟩ := hf
  have apart : ∀ i < 8, INT_STAT ≠ INT_EVT_A i ∧ INT_STAT ≠ INT_EVT_T i := by decide
  obtain ⟨evA, evT⟩ := apart _ (Nat.mod_lt (s.fld INT_EVT_CNT.TOTAL) (by decide : 0 < 8))
  refine ((State.logRec_does _ _).fld (by rw [addr]; decide)).trans ?_
  refine (fld_put_ne _ INT_STAT.REC_EVT f 1 (.inr (.inl (by simp only [INT_STAT.REC_EVT]; omega)))).trans ?_
  have count : f.addr ≠ INT_EVT_CNT := by rw [addr]; decide
  refine (fld_put_ne _ INT_EVT_CNT.NEWEST f _ (.inl count)).trans ?_
  refine (fld_put_ne _ INT_EVT_CNT.TOTAL f _ (.inl count)).trans ?_
  exact (fld_setWord_ne _ _ f _ (addr ▸ evT)).trans (fld_setWord_ne _ _ f _ (addr ▸ evA))

theorem takeOver_shows (s : State) (e cause t : Nat) : TakenOver e s (s.takeOver e cause t) := by
  have raise := fun u : State => State.raise_does u 0x0F01 0
  refine ⟨State.event_raised _ _ _ _ _ _ (State.raise_raised _ _ 0 (by decide) (by decide)), ?_, ?_, ?_, ?_⟩
  · exact (State.event_does _ _ _ _ _ _).awaited.trans (raise _).awaited
  · refine (flag_of_fld (event_stat _ _ _ _ _ _ (by decide))).trans (((raise _).flag (by decide)).trans ?_)
    exact (flag_put_ne (s.put INT_STAT.WINDOW 1) INT_REC_CNT.TAKEOVERS INT_STAT.WINDOW _ (.inl (by decide))).trans
      (flag_put_one s _)
  · refine ((State.event_does _ _ _ _ _ _).word (by decide)).trans (((raise _).word (by decide)).trans ?_)
    exact (word_put_ne (s.put INT_STAT.WINDOW 1) INT_REC_CNT.TAKEOVERS _ _ (by decide)).trans
      (word_put_ne s INT_STAT.WINDOW _ _ (by decide))
  · refine ((State.event_does _ _ _ _ _ _).fld (by decide)).trans (((raise _).fld (by decide)).trans ?_)
    refine (fld_put_same' (s.put INT_STAT.WINDOW 1) INT_REC_CNT.TAKEOVERS _ (by decide)).trans ?_
    rw [fld_put_ne s INT_STAT.WINDOW INT_REC_CNT.TAKEOVERS 1 (.inl (by decide))]
    simp only [INT_REC_CNT.TAKEOVERS]
    omega

/-- An axis that is parked shows beside the engines that are, and beside the window (R539). -/
theorem parkAxis_stat (s : State) (n : Nat) {f : Fld} (hf : f.addr = INT_STAT ∧ f.lo + f.w ≤ 9) :
    (s.parkAxis n).fld f = s.fld f := by
  obtain ⟨addr, hi⟩ := hf
  refine ((State.coastStop_does _ n).fld (by rw [addr]; decide)).trans ?_
  refine (when_pres (State.fld · f) _ _ rfl).trans (fld_put_ne s ⟨INT_STAT, 12 + n, 1⟩ f _ (.inr (.inl ?_)))
  show f.lo + f.w ≤ 12 + n
  omega

theorem park_stat (s : State) (e : Nat) (axes : List Nat) (cause t : Nat) {f : Fld}
    (hf : f.addr = INT_STAT ∧ f.lo + f.w ≤ 9) : (s.park e axes cause t).fld f = s.fld f := by
  obtain ⟨addr, hi⟩ := hf
  refine (event_stat _ _ _ _ _ _ ⟨addr, hi⟩).trans ?_
  refine (fld_put_ne _ ⟨INT_DEG_CAUSE, 0 + 1, 1⟩ f _ (.inl (by rw [addr]; decide))).trans ?_
  refine ((State.raise_does _ 0x0F02 0).fld (by rw [addr]; decide)).trans ?_
  refine (fld_put_ne _ INT_REC_CNT.PARKS f _ (.inl (by rw [addr]; decide))).trans ?_
  exact each_pres (State.fld · f) (fun u n => parkAxis_stat u n ⟨addr, hi⟩) s axes

theorem park_raised (s : State) (e : Nat) (axes : List Nat) (cause t : Nat) :
    (s.park e axes cause t).raised 0x0F02 = true := by
  refine State.event_raised _ _ _ _ _ _ ?_
  refine (raised_put _ ⟨INT_DEG_CAUSE, 0 + 1, 1⟩ _ 0x0F02 0 (by decide)).trans ?_
  exact State.raise_raised _ 0x0F02 0 (by decide) (by decide)

section
variable {s : State} {e : Nat} (c : Nat) (ended : Bool) (t : Nat)

theorem engineOut_takesOver (h : s.MayTakeOver) : TakenOver e s (s.engineOut e c ended t) := by
  have out : s.engineOut e c ended t = s.takeOver e c t := if_neg (fun p => (parks_iff s).mp p h)
  exact out ▸ takeOver_shows s e c t

theorem engineOut_parks (he : e < 8) (h : ¬s.MayTakeOver) : Parked e s (s.engineOut e c ended t) := by
  have out : ∃ w : BitVec 12, s.engineOut e c ended t =
      (State.putBit { s with intg := { s.intg with lastWords := w } } INT_STAT.PARKED e true).park e
        (s.engineAxes e) c t := ⟨_, if_pos ((parks_iff s).mpr h)⟩
  obtain ⟨w, out⟩ := out
  rw [out]
  refine ⟨park_raised _ _ _ _ _, park_awaited _ _ _ _ _, ?_, ?_⟩
  · refine (flag_of_fld (park_stat _ _ _ _ _ (by decide))).trans ?_
    refine flag_put_ne _ ⟨INT_STAT, 0 + e, 1⟩ INT_STAT.WINDOW _ (.inr (.inr ?_))
    show 0 + e + 1 ≤ 8
    omega
  · unfold State.bitOf
    rw [park_stat _ _ _ _ _ (by decide)]
    exact bitOf_putBit_same _ INT_STAT.PARKED e true ⟨he, by decide⟩

end

end Sys2Proof.Machine

namespace Sys2Proof.Machine

set_option Elab.async false

/-! ### What a fault of a running engine shows (R132, R135) -/

/-- The fault code of cause `c` of engine `e`. -/
def engineCode (e c : Nat) : Nat := (if e = 8 then 0x1100 else 0x0400) + c

theorem engineCode_block {c : Nat} (hc : c ≤ 16) (e : Nat) : clockBlock (engineCode e c) := by
  unfold engineCode clockBlock
  split <;> omega

/-- From `s` to `t` engine `e` has faulted with cause `c`. -/
structure Faulted (e c : Nat) (s t : State) : Prop where
  raised : t.raised (engineCode e c) = true
  cause : t.fld (ENG_E_STAT.CAUSE e) = c
  state : t.engState e = stFaulted
  exec : (t.eng e).exec = false
  counts : t.fld (ENG_E_MISS.FAULTS e) = min (s.fld (ENG_E_MISS.FAULTS e) + 1) 0xFFFF
  others : ∀ k < 9, k ≠ e → t.eng k = s.eng k

/-- What leaves engines, fault flags and fault counters as they are. -/
structure Follows (s t : State) : Prop where
  stands : Stands s t
  aside : ∀ e < 9, Aside e s t
  misses : ∀ e < 9, t.word (ENG_E_MISS e) = s.word (ENG_E_MISS e)

theorem Follows.trans {s t u : State} (h : Follows s t) (h' : Follows t u) : Follows s u :=
  ⟨h.stands.trans h'.stands, fun e he => (h.aside e he).trans (h'.aside e he),
    fun e he => (h'.misses e he).trans (h.misses e he)⟩

theorem Does.follows {l : List Field} {s t : State} (h : Does l s t) (stands : Stands s t)
    (ha : ∀ e < 9, l.all (fun k => !k.covers (ENG_E_STAT e)) = true := by decide)
    (hm : ∀ e < 9, l.all (fun k => !k.covers (ENG_E_MISS e)) = true := by decide)
    (hg : .engs ∉ l := by decide) (hs : .sys ∉ l := by decide) : Follows s t :=
  ⟨stands, fun _ he => h.aside he ha hg hs, fun e he => h.word (hm e he)⟩

section
variable {s : State} {e c : Nat} (he : e < 9) (hc : 1 ≤ c ∧ c ≤ 16)
include he hc

theorem Faulted.follows {t u : State} (h : Faulted e c s t) (n : Follows t u) : Faulted e c s u := by
  have aside := n.aside e he
  refine ⟨n.stands.1 _ (engineCode_block hc.2 e) h.raised, (aside.fld rfl).trans h.cause,
    (aside.fld rfl).trans h.state, (congrArg Eng.exec aside.2.1).trans h.exec, ?_, ?_⟩
  · exact (fld_of_word (f := ENG_E_MISS.FAULTS e) (n.misses e he)).trans h.counts
  · exact fun k hk ne => (n.aside k hk).2.1.trans (h.others k hk ne)

/-- Once the cause shows, the state FAULTED makes the fault whole. -/
theorem faultShown_faulted {u : State} (n : Follows (s.faultShown e c) u) :
    Faulted e c s (u.setEngState e stFaulted) := by
  have state := State.setEngState_does u e stFaulted
  have engs := eng_of_engs (state.same .engs)
  have apart : ∀ e < 9, [Field.one ENG_STAT, .row ENG_E_STAT].all (fun k => !k.covers (ENG_E_MISS e)) = true := by
    decide
  obtain ⟨cause, exec⟩ := faultShown_shows s e c he (by omega)
  have aside := n.aside e he
  refine ⟨state.stands.1 _ (engineCode_block hc.2 e) ?_, ?_, setEngState_same he (by decide) u, ?_, ?_, ?_⟩
  · exact n.stands.1 _ (engineCode_block hc.2 e) (faultShown_raised s e c hc)
  · exact (setEngState_cause he u e stFaulted).trans ((aside.fld rfl).trans cause)
  · exact (congrArg Eng.exec ((engs e).trans aside.2.1)).trans exec
  · refine (state.fld (apart e he)).trans ?_
    exact (fld_of_word (f := ENG_E_MISS.FAULTS e) (n.misses e he)).trans (faultShown_counts s he c)
  · exact fun k hk ne => (engs k).trans ((n.aside k hk).2.1.trans (faultShown_aside s e c hk ne).2.1)

theorem faultStopped_faulted : Faulted e c s (s.faultStopped e c) :=
  faultShown_faulted he hc ((State.stampD1_does _).follows (State.stampD1_does _).stands)

/-- A fault of a running engine, other than ES, with its outcome. -/
theorem engineFault_faulted (es : e ≠ 8) (run : s.engState e = stRunning) : Faulted e c s (s.engineFault e c) := by
  obtain ⟨ended, out⟩ := engineFault_running es run c
  rw [out]
  refine (faultStopped_faulted he hc).follows he hc ?_
  exact (engineOut_does _ e c ended _).follows (engineOut_stands _ e c ended _)

end

/-! ### A fault of ES that covers no engine (R540) -/

/-- From `s` to `t` ES is lost while it covers none. -/
structure EsLost (t : State) : Prop where
  down : t.flag ENG_STAT.ES_OK = false
  raised : t.raised 0x0F08 = true

section
variable {s : State} (ended : Bool) (free : s.covering = false)
include free

/-- ES that stops covers no engine that it did not cover. -/
theorem esStopped_free : ((s.put ENG_STAT.ES_OK 0).setEngState 8 stFaulted).covering = false :=
  (flag_of_fld (setEngState_es _ 8 stFaulted (by decide))).trans
    ((flag_put_ne s ENG_STAT.ES_OK ENG_STAT.ES_BUSY 0 (by decide)).trans free)

theorem esShown_free : s.esShown ended = (s.put ENG_STAT.ES_OK 0).setEngState 8 stFaulted := by
  unfold State.esShown
  dsimp only
  rw [esStopped_free free, Bool.and_false]
  rfl

theorem esOut_free (window : s.flag INT_STAT.WINDOW = false) : s.esOut ended =
    (((s.put ENG_STAT.ES_OK 0).setEngState 8 stFaulted).raise 0x0F08).putBit INT_DEG_CAUSE.CAUSE 2 true := by
  have closed : ((s.put ENG_STAT.ES_OK 0).setEngState 8 stFaulted).flag INT_STAT.WINDOW = false := by
    refine (flag_of_fld (fld_of_word (setEngState_window _ (by decide) stFaulted (by decide) (by decide)))).trans ?_
    exact (flag_put_ne s ENG_STAT.ES_OK INT_STAT.WINDOW 0 (by decide)).trans window
  unfold State.esOut
  rw [esShown_free ended free]
  dsimp only
  rw [esStopped_free free, closed]
  rfl

end

theorem esFault_lost {s : State} {c : Nat} (hc : 1 ≤ c ∧ c ≤ 16) (run : s.engState 8 = stRunning)
    (free : s.covering = false) (window : s.flag INT_STAT.WINDOW = false) :
    Faulted 8 c s (s.engineFault 8 c) ∧ EsLost (s.engineFault 8 c) := by
  obtain ⟨ended, out⟩ := engineFault_es (.inl run) c
  have word := fun a => faultShown_word s (e := 8) (by decide) c (a := a)
  have free' := (flag_of_fld (f := ENG_STAT.ES_BUSY) (fld_of_word (word _ (by decide)))).trans free
  have window' := (flag_of_fld (f := INT_STAT.WINDOW) (fld_of_word (word _ (by decide)))).trans window
  have lost := esOut_esOk (s.faultShown 8 c) ended
  have down := State.put_does (s.faultShown 8 c) ENG_STAT.ES_OK 0 (Field.has_one _)
  have raised := fun u : State => State.raise_does u 0x0F08 0
  have shown := fun u : State => State.putBit_does u INT_DEG_CAUSE.CAUSE 2 true (Field.has_one _)
  rw [esOut_free ended free' window'] at out lost
  rw [out]
  refine ⟨?_, lost, ?_⟩
  · refine (faultShown_faulted (by decide) hc (down.follows down.stands)).follows (by decide) hc ?_
    exact ((raised _).follows (raise_stands _ _ _)).trans ((shown _).follows (shown _).stands)
  · refine (raised_put _ ⟨INT_DEG_CAUSE, 0 + 2, 1⟩ _ 0x0F08 0 (by decide)).trans ?_
    exact State.raise_raised _ 0x0F08 0 (by decide) (by decide)

/-! ### A fault of another engine, with its outcome (R534, R535) -/

section
variable {s : State} {e : Nat} (he : e < 8) (c : Nat) (run : s.engState e = stRunning)
include he

theorem faultStopped_mayTakeOver : (s.faultStopped e c).MayTakeOver ↔ s.MayTakeOver :=
  mayTakeOver_congr (faultStopped_word s (by omega) c (by decide) (by decide))
    fun _ hf => faultStopped_es s (by omega) c hf

include run

theorem engineFault_takesOver (h : s.MayTakeOver) : TakenOver e s (s.engineFault e c) := by
  obtain ⟨ended, out⟩ := engineFault_running (by omega) run c
  have word := fun a ha => faultStopped_word s (e := e) (by omega) c (a := a) ha
  have taken : TakenOver e (s.faultStopped e c) (s.engineFault e c) :=
    out ▸ engineOut_takesOver c ended _ ((faultStopped_mayTakeOver he c).mpr h)
  refine ⟨taken.raised, taken.awaited.trans ?_, taken.window, taken.record.trans (word _ (by decide) (by decide)), ?_⟩
  · rw [axesOf_of_struct (faultStopped_struct s c e) (by omega)]
  · rw [taken.counts, fld_of_word (f := INT_REC_CNT.TAKEOVERS) (word _ (by decide) (by decide))]

theorem engineFault_parks (h : ¬s.MayTakeOver) : Parked e s (s.engineFault e c) := by
  obtain ⟨ended, out⟩ := engineFault_running (by omega) run c
  have park : Parked e (s.faultStopped e c) (s.engineFault e c) :=
    out ▸ engineOut_parks c ended _ he (fun m => h ((faultStopped_mayTakeOver he c).mp m))
  refine ⟨park.raised, park.awaited.trans (faultStopped_awaited s c e), park.window.trans ?_, park.shown⟩
  exact flag_of_fld (fld_of_word (f := INT_STAT.WINDOW) (faultStopped_word s (by omega) c (by decide) (by decide)))

end

/-! ### Detection: WATCH first (R137) -/

/-- WATCH of engine `e` shows `w`, and the engine faults with cause `c`. -/
def State.watchedFault (s : State) (e : Nat) (w : Word) (c : Nat) : State :=
  (s.setWord (ENG_E_WATCH e) w).engineFault e c

section
variable (s : State) {e : Nat} (he : e < 9) (w : Word)

theorem watched_does (e : Nat) : Does [.row ENG_E_WATCH] s (s.setWord (ENG_E_WATCH e) w) :=
  State.setWord_does s _ w (Field.has_row ENG_E_WATCH (fun _ => rfl) e)

include he

theorem watched_word {a : Nat} (ha : a ∈ windowRegs) : (s.setWord (ENG_E_WATCH e) w).word a = s.word a :=
  State.word_setWord_other s w (windowRegs_apart he ha).2.2

theorem watched_engState (e' : Nat) : (s.setWord (ENG_E_WATCH e') w).engState e = s.engState e :=
  ((watched_does s w e').aside he).fld rfl

theorem watched_mayTakeOver : (s.setWord (ENG_E_WATCH e) w).MayTakeOver ↔ s.MayTakeOver := by
  refine mayTakeOver_congr (watched_word s he w (by decide)) fun f hf => fld_of_word ?_
  rw [hf.1]
  exact watched_word s he w (by decide)

end

section
variable {s : State} {e c : Nat} (w : Word)

theorem watchedFault_of_faulted (h : Faulted e c (s.setWord (ENG_E_WATCH e) w) (s.watchedFault e w c)) :
    Faulted e c s (s.watchedFault e w c) := by
  have apart : ENG_E_MISS e ≠ ENG_E_WATCH e := by
    unfold ENG_E_MISS ENG_E_WATCH
    omega
  have misses := State.word_setWord_other s w apart
  refine ⟨h.raised, h.cause, h.state, h.exec, h.counts.trans ?_, h.others⟩
  rw [fld_of_word (f := ENG_E_MISS.FAULTS e) misses]

theorem watchedFault_esLost (hc : 1 ≤ c ∧ c ≤ 16) (run : s.engState 8 = stRunning) (free : s.covering = false)
    (window : s.flag INT_STAT.WINDOW = false) :
    Faulted 8 c s (s.watchedFault 8 w c) ∧ EsLost (s.watchedFault 8 w c) := by
  have word := fun a => watched_word s (e := 8) (by decide) w (a := a)
  have free' := (flag_of_fld (f := ENG_STAT.ES_BUSY) (fld_of_word (word _ (by decide)))).trans free
  have window' := (flag_of_fld (f := INT_STAT.WINDOW) (fld_of_word (word _ (by decide)))).trans window
  obtain ⟨faulted, lost⟩ := esFault_lost hc ((watched_engState s (by decide) w 8).trans run) free' window'
  exact ⟨watchedFault_of_faulted w faulted, lost⟩

variable (he : e < 8) (run : s.engState e = stRunning)
include he run

theorem watchedFault_faulted (hc : 1 ≤ c ∧ c ≤ 16) : Faulted e c s (s.watchedFault e w c) :=
  watchedFault_of_faulted w
    (engineFault_faulted (by omega) hc (by omega) ((watched_engState s (by omega) w e).trans run))

theorem watchedFault_takesOver (c : Nat) (h : s.MayTakeOver) : TakenOver e s (s.watchedFault e w c) := by
  have word := fun a => watched_word s (e := e) (by omega) w (a := a)
  obtain ⟨raised, awaited, window, record, counts⟩ := engineFault_takesOver he c
    ((watched_engState s (by omega) w e).trans run) ((watched_mayTakeOver s (by omega) w).mpr h)
  refine ⟨raised, awaited, window, record.trans (word _ (by decide)), counts.trans ?_⟩
  rw [fld_of_word (f := INT_REC_CNT.TAKEOVERS) (word _ (by decide))]

theorem watchedFault_parks (c : Nat) (h : ¬s.MayTakeOver) : Parked e s (s.watchedFault e w c) := by
  obtain ⟨raised, awaited, window, shown⟩ := engineFault_parks he c
    ((watched_engState s (by omega) w e).trans run) (fun m => h ((watched_mayTakeOver s (by omega) w).mp m))
  refine ⟨raised, awaited, window.trans ?_, shown⟩
  exact flag_of_fld (fld_of_word (f := INT_STAT.WINDOW) (watched_word s (by omega) w (by decide)))

omit he in
theorem faultSeen_running (c : Nat) : s.faultSeen e c = s.watchedFault e (s.faultWatch e c) c := by
  unfold State.faultSeen State.when
  dsimp only
  rw [if_pos (decide_eq_true run)]
  rfl

end

/-- WATCH stays as the detection set it: the fault itself touches no WATCH. -/
theorem watchedFault_watch (s : State) {e : Nat} (he : e < 9) (w : Word) (c : Nat) :
    (s.watchedFault e w c).word (ENG_E_WATCH e) = w := by
  have apart : ∀ e < 9, Parts.ofEngineFault.all (fun k => !k.covers (ENG_E_WATCH e)) = true := by decide
  exact ((State.engineFault_does _ e c).word (apart e he)).trans (State.word_setWord_same s (ENG_E_WATCH e) w)

theorem watchedFault_stands (s : State) (e : Nat) (w : Word) (c : Nat) : Stands s (s.watchedFault e w c) :=
  (watched_does s w e).stands.trans (engineFault_stands _ e c)

theorem watchedFault_aside {i e : Nat} (hi : i < 9) (h : i ≠ e) (es : e ≠ 8) (s : State) (w : Word) (c : Nat) :
    Aside i s (s.watchedFault e w c) :=
  ((watched_does s w e).aside hi).trans (engineFault_aside hi h es _ c)

/-! ### Detections of one cycle, the lower-numbered engine first (R542) -/

section
variable (s : State) (e e' : Fin 9) (c c' : EngCause)

/-- Detections, ordered as they count. -/
def State.detections (s : State) (all : List (Fin 9 × EngCause)) : State :=
  s.each (List.range 9) fun s k => s.each (all.filter fun p => p.1.val == k) fun s p => s.detected p.1 p.2

theorem detections_one : s.detections [(e, c)] = s.detected e c := by
  fin_cases e <;> rfl

theorem detections_two (h : e'.val < e.val) :
    s.detections [(e, c), (e', c')] = (s.detected e' c').detected e c := by
  fin_cases e <;> fin_cases e' <;> simp at h <;> rfl

end

end Sys2Proof.Machine

namespace Sys2Proof.Machine

set_option Elab.async false

/-! ### The pins settle after a command, and show no part of a fault (R551) -/

theorem Runs.mono {i : Instr} {s : State} {l : List Field} {P Q : State → Prop} (h : Runs i s l P)
    (hq : ∀ t, P t → Q t) : Runs i s l Q := by
  obtain ⟨t, next, only, p⟩ := h
  exact ⟨t, next, only, hq t p⟩

section
variable {e c : Nat} {s t : State}

theorem Faulted.settle (h : Faulted e c s t) : Faulted e c s t.settle :=
  ⟨h.raised, h.cause, h.state, h.exec, h.counts, h.others⟩

theorem TakenOver.settle (h : TakenOver e s t) : TakenOver e s t.settle :=
  ⟨h.raised, h.awaited, h.window, h.record, h.counts⟩

theorem Parked.settle (h : Parked e s t) : Parked e s t.settle := ⟨h.raised, h.awaited, h.window, h.shown⟩

theorem EsLost.settle (h : EsLost t) : EsLost t.settle := ⟨h.down, h.raised⟩

end

theorem engineCode_eng {e : Nat} (he : e < 8) (c : Nat) : engineCode e c = 0x0400 + c := by
  unfold engineCode
  rw [if_neg (by omega)]

/-! ### ENGINE_FAULT and NO_START (R132, R137, R542) -/

section
variable {s : State} (hp : s.powered = true) (hm : s.sys.mode.lists = true)
include hp hm

/-- ENGINE_FAULT carries out its detections in the order in which they count. -/
theorem runs_engineFault {e : Fin 9} {d : Detection} {P : State → Prop}
    (h : P (s.detections ((e, d.cause) :: d.also)).settle) : Runs (.engineFault e d) s Parts.engineFault P := by
  refine runs_meaning (execEngineFault_does e d s) hp ?_
  rw [if_neg (by simp [hm])]
  exact h

theorem runs_engineFault_one {e : Fin 9} {c : Fin 11} {P : State → Prop} (run : s.engState e = stRunning)
    (h : ∀ w, P (s.watchedFault e w (c.val + 1)).settle) :
    Runs (.engineFault e ⟨.fault c, []⟩) s Parts.engineFault P := by
  refine runs_engineFault hp hm ?_
  rw [detections_one]
  show P (s.faultSeen e (c.val + 1)).settle
  rw [faultSeen_running run]
  exact h _

variable {e : Fin 9} (c : Fin 11)

theorem engineFault_takeover (he : e.val < 8) (run : s.engState e = stRunning) (free : s.MayTakeOver) :
    Runs (.engineFault e ⟨.fault c, []⟩) s Parts.engineFault
      (fun t => Faulted e (c.val + 1) s t ∧ TakenOver e s t) :=
  runs_engineFault_one hp hm run fun w =>
    ⟨(watchedFault_faulted w he run (by omega)).settle, (watchedFault_takesOver w he run _ free).settle⟩

theorem engineFault_parking (he : e.val < 8) (run : s.engState e = stRunning) (busy : ¬s.MayTakeOver) :
    Runs (.engineFault e ⟨.fault c, []⟩) s Parts.engineFault
      (fun t => Faulted e (c.val + 1) s t ∧ Parked e s t) :=
  runs_engineFault_one hp hm run fun w =>
    ⟨(watchedFault_faulted w he run (by omega)).settle, (watchedFault_parks w he run _ busy).settle⟩

theorem engineFault_esLost (run : s.engState 8 = stRunning) (free : s.covering = false)
    (window : s.flag INT_STAT.WINDOW = false) :
    Runs (.engineFault 8 ⟨.fault c, []⟩) s Parts.engineFault (fun t => Faulted 8 (c.val + 1) s t ∧ EsLost t) :=
  runs_engineFault_one hp hm run fun w => by
    obtain ⟨faulted, lost⟩ := watchedFault_esLost (c := c.val + 1) w (by omega) run free window
    exact ⟨faulted.settle, lost.settle⟩

end

/-- From `s` to `t` engine `e'` has faulted with cause `c'` and is taken over, and then, from `u` on, engine `e` has
faulted with cause `c` and is parked. -/
structure FaultedPair (e c e' c' : Nat) (s u t : State) : Prop where
  lower : Faulted e' c' s u
  taken : TakenOver e' s u
  higher : Faulted e c u t
  parked : Parked e u t
  stands : Stands u t
  aside : Aside e' u t

theorem FaultedPair.settle {e c e' c' : Nat} {s u t : State} (h : FaultedPair e c e' c' s u t) :
    FaultedPair e c e' c' s u t.settle :=
  ⟨h.lower, h.taken, h.higher.settle, h.parked.settle, h.stands.trans (.ofRegs rfl), h.aside.trans ⟨rfl, rfl, rfl⟩⟩

/-- Of two engines that fault in one cycle the lower-numbered one is taken over, and the other parked (R542). -/
theorem watchedFault_pair {s : State} {e e' c c' : Nat} (w w' : Word) (he : e < 8) (lt : e' < e)
    (hc : 1 ≤ c ∧ c ≤ 16) (hc' : 1 ≤ c' ∧ c' ≤ 16) (run : s.engState e = stRunning) (run' : s.engState e' = stRunning)
    (free : s.MayTakeOver) :
    FaultedPair e c e' c' s (s.watchedFault e' w' c') ((s.watchedFault e' w' c').watchedFault e w c) := by
  have taken := watchedFault_takesOver w' (by omega) run' c' free
  have left := watchedFault_aside (i := e) (e := e') (by omega) (by omega) (by omega) s w' c'
  have run : (s.watchedFault e' w' c').engState e = stRunning := (left.fld rfl).trans run
  have busy : ¬(s.watchedFault e' w' c').MayTakeOver := fun m =>
    absurd (m.window.symm.trans taken.window) (by decide)
  exact ⟨watchedFault_faulted w' (by omega) run' hc', taken, watchedFault_faulted w he run hc,
    watchedFault_parks w he run c busy, watchedFault_stands _ e w c,
    watchedFault_aside (by omega) (by omega) (by omega) _ w c⟩

/-- Two running engines: each shows in WATCH how far its list had come. -/
theorem faultSeen_two {s : State} {e e' : Nat} (c c' : Nat) (he : e < 9) (ne : e ≠ e') (es : e' ≠ 8)
    (run : s.engState e = stRunning) (run' : s.engState e' = stRunning) :
    ∃ w w', (s.faultSeen e' c').faultSeen e c = (s.watchedFault e' w' c').watchedFault e w c := by
  rw [faultSeen_running run']
  have left := watchedFault_aside he ne es s (s.faultWatch e' c') c'
  exact ⟨_, _, faultSeen_running ((left.fld rfl).trans run) c⟩

section
variable {s : State} (hp : s.powered = true) (hm : s.sys.mode.lists = true)
include hp hm

theorem engineFault_pair {e e' : Fin 9} (c c' : Fin 11) (he : e.val < 8) (lt : e'.val < e.val)
    (run : s.engState e = stRunning) (run' : s.engState e' = stRunning) (free : s.MayTakeOver) :
    Runs (.engineFault e ⟨.fault c, [(e', .fault c')]⟩) s Parts.engineFault
      (fun t => ∃ u, FaultedPair e (c.val + 1) e' (c'.val + 1) s u t) := by
  obtain ⟨w, w', seen⟩ := faultSeen_two (c.val + 1) (c'.val + 1) e.isLt (by omega) (by omega) run run'
  refine runs_engineFault hp hm ⟨s.watchedFault e' w' (c'.val + 1), FaultedPair.settle ?_⟩
  rw [detections_two _ _ _ _ _ lt]
  show FaultedPair _ _ _ _ _ _ ((s.faultSeen e' (c'.val + 1)).faultSeen e (c.val + 1))
  exact seen ▸ watchedFault_pair w w' he lt (by omega) (by omega) run run' free

end

/-- NO_START: a list that should run has begun no shot (R132). -/
theorem noStart_takeover {s : State} (hp : s.powered = true) (hm : s.sys.mode.lists = true) {e : Fin 9}
    (he : e.val < 8) (cuts : s.clk.cutsOn = true) (start : s.clk.phase = .start) (idle : (s.eng e).started = false)
    (run : s.engState e = stRunning) (free : s.MayTakeOver) :
    Runs (.noStart e) s Parts.engineFault
      (fun t => Faulted e 9 s t ∧ TakenOver e s t ∧ t.word (ENG_E_WATCH e) = 0) := by
  have runs : s.willRun e = true := by
    unfold State.willRun
    rw [if_neg (by omega), hm, run]
    rfl
  refine runs_meaning (execNoStart_does e s) hp ?_
  rw [if_pos (by simp [cuts, start, runs, idle])]
  have watch := watchedFault_watch s (e := e) (by omega) 0 9
  exact ⟨(watchedFault_faulted 0 he run (by omega)).settle, (watchedFault_takesOver 0 he run 9 free).settle, watch⟩

end Sys2Proof.Machine

namespace Sys2Proof.Machine

set_option Elab.async false

/-! ### The cut up to the recovery keeps what a takeover waits with (R536) -/

theorem ite_awaited {p : Prop} [Decidable p] {u v : State} (h : u.awaited = v.awaited) :
    (if p then u else v).awaited = v.awaited := by
  split
  · exact h
  · rfl

/-- What a takeover at the cut is given: what waits, and the modes. -/
def State.underway (s : State) : (Option Nat × BitVec 12) × Mode × Option Mode :=
  (s.awaited, s.sys.mode, s.sys.cutFrom)

section
variable {s t : State}

theorem underway_congr (ha : t.awaited = s.awaited) (hm : t.sys.mode = s.sys.mode)
    (hf : t.sys.cutFrom = s.sys.cutFrom) : t.underway = s.underway := by
  unfold State.underway
  rw [ha, hm, hf]

theorem underway_parts (h : t.underway = s.underway) :
    t.awaited = s.awaited ∧ t.sys.mode = s.sys.mode ∧ t.sys.cutFrom = s.sys.cutFrom := by
  simpa [State.underway] using h

theorem Does.underwayOf {l : List Field} (h : Does l s t) (ha : t.awaited = s.awaited) (hs : .sys ∉ l := by decide) :
    t.underway = s.underway :=
  underway_congr ha (congrArg Sys.mode (h.same .sys hs)) (congrArg Sys.cutFrom (h.same .sys hs))

theorem Does.underway {l : List Field} (h : Does l s t) (hi : .intg ∉ l := by decide) (hs : .sys ∉ l := by decide) :
    t.underway = s.underway := h.underwayOf (h.awaited hi) hs

end

section
variable (s : State) (n : Nat)

theorem coastAxis_awaited : (s.coastAxis n).awaited = s.awaited := by
  unfold State.coastAxis
  dsimp only
  split
  · rfl
  split
  · rfl
  split
  · refine (coastStop_awaited _ n).trans ?_
    exact (State.raise_does (s.bump (MOD_AX_CNT.DISCARD n) 1) 0x0704 0).awaited
  split
  · exact coastStop_awaited s n
  · have coast := (State.setCoast_does (s.modMod n fun m =>
      { m with beta := s.thetaAt n (4 * s.frameLen), since := s.clk.slate }) n
        (s.fld (MOD_AX_STAT.COAST n) + 1)).awaited
    split
    · exact (State.raise_does _ 0x0705 0).awaited.trans coast
    · exact coast

/-- An axis whose pairs are discarded, with or without a fault, does not commit (R264). -/
theorem discarded_awaited (code : Nat) : (((s.discardPairs n).raise code).coastAxis n).awaited = s.awaited :=
  (coastAxis_awaited _ n).trans ((State.raise_does _ code 0).awaited.trans (State.discardPairs_does s n).awaited)

theorem commitAxis_awaited (p : SpPair) : (s.commitAxis n p).awaited = s.awaited := by
  unfold State.commitAxis
  extract_lets w1 m c th j jump jumped enters cleared given words ready tested old marked
  have jumps : jumped.awaited = s.awaited := by
    unfold jumped
    split
    · rfl
    · exact ite_awaited (raiseVisible_awaited _ n 0x0707)
  have clears : cleared.awaited = jumped.awaited := ite_awaited rfl
  have writes : words.awaited = cleared.awaited := rfl
  have takes : ready.awaited = words.awaited :=
    (State.setCoast_does _ n 0).awaited.trans (put_awaited words (MOD_AX_STAT.FIRST_WAIT n) 0)
  have ends : ∀ u : State, (((u.put (PWR_AX_DIAG.BUSY n) 0).put (PWR_AX_DIAG.RESULT_A n) 0).put
      (PWR_AX_DIAG.RESULT_B n) 0).awaited = u.awaited := fun _ => rfl
  have tests : tested.awaited = ready.awaited := ite_awaited (ends ready)
  have marks : marked.awaited = tested.awaited := ite_awaited rfl
  refine (follow_awaited _ n).trans ((driveChecked_awaited _ n).trans ?_)
  exact marks.trans (tests.trans (takes.trans (writes.trans (clears.trans jumps))))

theorem judgePairs_awaited (fcnt : Nat) (ps : List SpPair) : (s.judgePairs n fcnt ps).awaited = s.awaited := by
  unfold State.judgePairs
  split
  · exact coastAxis_awaited s n
  dsimp only
  split
  · exact (coastAxis_awaited _ n).trans (State.discardPairs_does s n).awaited
  split
  · exact discarded_awaited s n _
  split
  · exact discarded_awaited s n _
  split
  · exact discarded_awaited s n _
  split
  · exact discarded_awaited s n _
  split
  · rfl
  · exact commitAxis_awaited s n _

theorem commitDecision_awaited (fcnt : Nat) : (s.commitDecision n fcnt).awaited = s.awaited := by
  have dropped : (s.modMod n fun m => { m with pairs := [] }).awaited = s.awaited := rfl
  unfold State.commitDecision
  dsimp only
  split
  · exact dropped
  split
  · exact (coastStop_awaited _ n).trans ((judgePairs_awaited _ n fcnt _).trans dropped)
  · exact (judgePairs_awaited _ n fcnt _).trans dropped

theorem modFrameEnd_awaited : (s.modFrameEnd n).awaited = s.awaited := by
  unfold State.modFrameEnd
  dsimp only
  refine (ite_awaited ?samples).trans ((ite_awaited (raiseVisible_awaited _ n 0x070B)).trans ?_)
  case samples => exact (enterSafe_awaited _ n 3).trans (raiseVisible_awaited _ n 0x0709)
  rfl

theorem allSafe_awaited (c : Nat) : (s.allSafe c).awaited = s.awaited :=
  each_pres State.awaited (fun u n => enterSafe_awaited u n c) s _

theorem safeAxes_underway : s.safeAxes.underway = s.underway := by
  unfold State.safeAxes
  dsimp only
  split
  · exact (State.allSafe_does _ 9).underwayOf (allSafe_awaited _ 9)
  · rfl

theorem uncertainCut_underway : s.uncertainCut.underway = s.underway := by
  have ov : s.ovCut.underway = s.underway := by
    unfold State.ovCut
    split <;> rfl
  unfold State.uncertainCut
  refine (each_pres State.underway ?_ _ _).trans ov
  exact fun _ _ => rfl

theorem modulatorCut_underway (lists : Bool) (fcnt : Nat) : (s.modulatorCut lists fcnt).underway = s.underway := by
  have ended := fun (u : State) n => (State.modFrameEnd_does u n).underwayOf (modFrameEnd_awaited u n)
  have decided := fun (u : State) n => (State.commitDecision_does u n fcnt).underwayOf (commitDecision_awaited u n fcnt)
  have frame : ((s.each s.usedAxes State.modFrameEnd).each s.usedAxes State.standstillCopy).safeAxes.underway =
      s.underway := by
    refine (safeAxes_underway _).trans ((each_pres State.underway ?_ _ _).trans (each_pres State.underway ended s _))
    exact fun _ _ => rfl
  unfold State.modulatorCut
  dsimp only
  split
  · exact (each_pres State.underway decided _ _).trans frame
  · refine (each_pres State.underway ?_ _ _).trans frame
    exact fun _ _ => rfl

theorem mirrorCut_awaited : s.mirrorCut.awaited = s.awaited := by
  have bump := fun u : State => (State.bump_does u INT_CHK_CNT.MIRROR 1 (Field.has_one _)).awaited
  unfold State.mirrorCut
  dsimp only
  refine Eq.trans (b := State.awaited (State.when _ _ _)) rfl ?_
  refine (when_pres State.awaited _ _ (State.raise_does _ 0x0F09 0).awaited).trans ?_
  refine each_pres State.awaited (fun u n => ?_) s _
  split
  · split
    · rfl
    · exact bump u
  · exact bump u

theorem mirrorCut_underway : s.mirrorCut.underway = s.underway :=
  (State.mirrorCut_does s).underwayOf (mirrorCut_awaited s)

end

end Sys2Proof.Machine

namespace Sys2Proof.Machine

set_option Elab.async false

/-! ### The cut that takes engine `e` over (R536) -/

/-- The registers that show a recovery of engine `e`. -/
def recoveryRegs (e : Nat) : List Nat := [INT_REC, INT_DEG_CAUSE, ENG_STAT, ENG_E_STAT e]

/-- INT_REC of a takeover: the engine, VALID, PHASE 1, four window frames, and the axes. -/
def recoveryWord (e : Nat) (axes : BitVec 12) : Word := u32 (e + 8 + 1 * 16 + 4 * 256 + axes.toNat * 4096)

theorem recoveryWord_fields {e : Nat} (he : e < 8) (axes : BitVec 12) :
    INT_REC.ENGINE.of (recoveryWord e axes) = e ∧ INT_REC.VALID.of (recoveryWord e axes) = 1 ∧
      INT_REC.PHASE.of (recoveryWord e axes) = 1 ∧ INT_REC.WFRAMES.of (recoveryWord e axes) = 4 ∧
      INT_REC.AXES.of (recoveryWord e axes) = axes.toNat := by
  have bound := axes.isLt
  simp only [Fld.of, INT_REC.ENGINE, INT_REC.VALID, INT_REC.PHASE, INT_REC.WFRAMES, INT_REC.AXES, recoveryWord, u32,
    BitVec.toNat_ushiftRight, BitVec.toNat_ofNat, Nat.shiftRight_eq_div_pow]
  omega

/-- ES is at work on engine `e`. -/
structure Recovering (e : Nat) (axes : BitVec 12) (s : State) : Prop where
  state : s.engState e = stCovered
  takeover : s.intg.takeover = none
  busy : s.flag ENG_STAT.ES_BUSY = true
  cover : s.fld ENG_STAT.ES_COVER = e
  cause : s.bitOf INT_DEG_CAUSE.CAUSE 0 = true
  record : s.word INT_REC = recoveryWord e axes

/-- Engine `e` shows as covered, and ES as busy with it. -/
def State.covered (s : State) (e : Nat) : State :=
  (((s.setEngState e stCovered).put ENG_STAT.ES_COVER e).put ENG_STAT.ES_BUSY 1).putBit INT_DEG_CAUSE.CAUSE 0 true

/-- ES shows the page that it runs for engine `e`. -/
def State.pageShown (s : State) (e axes : Nat) (list check : Word) : State :=
  let u := (s.put (ENG_E_STAT.COVER 8) e).put (ENG_E_STAT.COVER_VALID 8) 1
  ((u.put (ENG_E_STAT.AXES 8) axes).setWord (ENG_E_LIST 8) list).setWord (ENG_E_FETCH_CHK 8) check

/-- The window is open, and the commands of the last parameters are pending again. -/
def State.windowOpened (s : State) (e : Nat) (axes : BitVec 12) (t : Nat) : State :=
  let u := { s with intg := { s.intg with takeover := none, restoring := true, windowCuts := 1, relaunch := axes } }
  let u := u.each (u.engineAxes e) fun u n =>
    match Tbl.get none u.intg.lastParam n with
    | some i => u.putBit (AX_PARAM_STAT.PEND n) i true
    | none => u
  (u.event 0x02 e axes 0 t).event 0x03 e axes 0 t

theorem takeoverCut_eq (s : State) (e t : Nat) : ∃ axes list check, s.takeoverCut e t =
    (((((s.lend e true).covered e).pageShown e axes list check).setWord INT_REC
      (recoveryWord e s.intg.recAxes)).windowOpened e s.intg.recAxes t) := by
  unfold State.takeoverCut
  exact ⟨_, _, _, rfl⟩

section
variable (s : State) {e : Nat} (he : e < 8)
include he

theorem covered_shows : (s.covered e).engState e = stCovered ∧ (s.covered e).flag ENG_STAT.ES_BUSY = true ∧
    (s.covered e).fld ENG_STAT.ES_COVER = e ∧ (s.covered e).bitOf INT_DEG_CAUSE.CAUSE 0 = true := by
  have cause := fun u : State => State.putBit_does u INT_DEG_CAUSE.CAUSE 0 true (Field.has_one _)
  have eng := engStat_ne_engStat e
  refine ⟨?_, ?_, ?_, bitOf_putBit_same _ INT_DEG_CAUSE.CAUSE 0 true⟩
  · have apart : ∀ e < 8, [Field.one INT_DEG_CAUSE].all (fun k => !k.covers (ENG_E_STAT e)) = true := by decide
    refine ((cause _).fld (f := ENG_E_STAT.STATE e) (apart e he)).trans ?_
    refine (fld_put_ne _ ENG_STAT.ES_BUSY _ 1 (.inl eng)).trans ?_
    refine (fld_put_ne _ ENG_STAT.ES_COVER _ e (.inl eng)).trans ?_
    exact setEngState_same (by omega) (by decide) s
  · exact ((cause _).flag (by decide)).trans (flag_put_one _ ENG_STAT.ES_BUSY)
  · refine ((cause _).fld (by decide)).trans ((fld_put_ne _ ENG_STAT.ES_BUSY ENG_STAT.ES_COVER 1 (by decide)).trans ?_)
    refine (fld_put_same' _ ENG_STAT.ES_COVER e (by decide)).trans (Nat.mod_eq_of_lt ?_)
    exact he

theorem pageShown_word (axes : Nat) (list check : Word) {a : Nat} (ha : a ∈ recoveryRegs e) :
    (s.pageShown e axes list check).word a = s.word a := by
  have apart : ∀ e < 8, ∀ a ∈ recoveryRegs e, a ≠ ENG_E_STAT 8 ∧ a ≠ ENG_E_LIST 8 ∧ a ≠ ENG_E_FETCH_CHK 8 := by decide
  obtain ⟨stat, list, check⟩ := apart e he a ha
  unfold State.pageShown
  dsimp only
  rw [State.word_setWord_other _ _ check, State.word_setWord_other _ _ list, State.word_put_other _ _ stat,
    State.word_put_other _ _ stat, State.word_put_other _ _ stat]

theorem windowOpened_word (axes : BitVec 12) (t : Nat) {a : Nat} (ha : a ∈ recoveryRegs e) :
    (s.windowOpened e axes t).word a = s.word a := by
  have event : ∀ e < 8, ∀ a ∈ recoveryRegs e, [Field.one INT_STAT, .one INT_EVT_CNT, .row INT_EVT_A, .row INT_EVT_T,
      .one MGT_LOG_STAT, .faults, .mgt, .can].all (fun k => !k.covers a) = true := by decide
  have param : ∀ e < 8, ∀ a ∈ recoveryRegs e, [Field.row AX_PARAM_STAT].all (fun k => !k.covers a) = true := by decide
  refine ((State.event_does _ _ _ _ _ _).word (event e he a ha)).trans ?_
  refine ((State.event_does _ _ _ _ _ _).word (event e he a ha)).trans ?_
  refine each_pres (State.word · a) (fun u n => ?_) _ _
  split
  · exact (State.putBit_does u (AX_PARAM_STAT.PEND n) _ true (Field.has_row AX_PARAM_STAT (fun _ => rfl) n)).word
      (param e he a ha)
  · rfl

omit he in
theorem windowOpened_takeover (axes : BitVec 12) (t : Nat) : (s.windowOpened e axes t).intg.takeover = none := by
  have opened : (s.windowOpened e axes t).intg =
      { s.intg with takeover := none, restoring := true, windowCuts := 1, relaunch := axes } := by
    refine ((State.event_does _ _ _ _ _ _).same .intg).trans (((State.event_does _ _ _ _ _ _).same .intg).trans ?_)
    refine each_pres State.intg (fun u n => ?_) _ _
    split <;> rfl
  rw [opened]

theorem takeoverCut_recovering (t : Nat) : Recovering e s.intg.recAxes (s.takeoverCut e t) := by
  obtain ⟨axes, list, check, eq⟩ := takeoverCut_eq s e t
  obtain ⟨state, busy, cover, cause⟩ := covered_shows (s.lend e true) he
  have word : ∀ a ∈ recoveryRegs e, a ≠ INT_REC → (s.takeoverCut e t).word a = ((s.lend e true).covered e).word a := by
    intro a ha ne
    rw [eq, windowOpened_word _ he _ _ ha, State.word_setWord_other _ _ ne, pageShown_word _ he _ _ _ ha]
  have field : ∀ f : Fld, f.addr ∈ recoveryRegs e → f.addr ≠ INT_REC →
      (s.takeoverCut e t).fld f = ((s.lend e true).covered e).fld f := fun f hf ne => fld_of_word (word _ hf ne)
  have stat : ENG_E_STAT e ≠ INT_REC := by
    unfold ENG_E_STAT INT_REC
    omega
  refine ⟨?_, ?_, ?_, ?_, ?_, ?_⟩
  · exact (field (ENG_E_STAT.STATE e) (by simp [recoveryRegs, ENG_E_STAT.STATE]) stat).trans state
  · rw [eq, windowOpened_takeover]
  · exact (flag_of_fld (field ENG_STAT.ES_BUSY (by simp [recoveryRegs, ENG_STAT.ES_BUSY]) (by decide))).trans busy
  · exact (field ENG_STAT.ES_COVER (by simp [recoveryRegs, ENG_STAT.ES_COVER]) (by decide)).trans cover
  · unfold State.bitOf at cause ⊢
    rwa [field INT_DEG_CAUSE.CAUSE (by simp [recoveryRegs, INT_DEG_CAUSE.CAUSE]) (by decide)]
  · rw [eq, windowOpened_word _ he _ _ (by simp [recoveryRegs]), State.word_setWord_same]

end

end Sys2Proof.Machine

namespace Sys2Proof.Machine

set_option Elab.async false

/-! ### What shows a recovery, through the rest of the cut -/

/-- The registers that show a recovery of engine `e`, and the takeover that waits. -/
def State.recovery (s : State) (e : Nat) : List Word × Option Nat := ((recoveryRegs e).map s.word, s.intg.takeover)

theorem recovery_congr {e : Nat} {s t : State} (hw : ∀ a ∈ recoveryRegs e, t.word a = s.word a)
    (ht : t.intg.takeover = s.intg.takeover) : t.recovery e = s.recovery e :=
  Prod.ext (List.map_congr_left hw) ht

theorem word_of_recovery {e : Nat} {s t : State} (h : t.recovery e = s.recovery e) {a : Nat}
    (ha : a ∈ recoveryRegs e) : t.word a = s.word a :=
  List.map_inj_left.mp (congrArg Prod.fst h) a ha

theorem Recovering.of_recovery {e : Nat} {axes : BitVec 12} {s t : State} (h : Recovering e axes s)
    (k : t.recovery e = s.recovery e) : Recovering e axes t := by
  have field : ∀ f : Fld, f.addr ∈ recoveryRegs e → t.fld f = s.fld f := fun f hf => fld_of_word (word_of_recovery k hf)
  obtain ⟨state, takeover, busy, cover, cause, record⟩ := h
  refine ⟨(field (ENG_E_STAT.STATE e) ?_).trans state, (congrArg Prod.snd k).trans takeover,
    (flag_of_fld (field ENG_STAT.ES_BUSY ?_)).trans busy, (field ENG_STAT.ES_COVER ?_).trans cover,
    (congrArg (Nat.testBit · 0) (field INT_DEG_CAUSE.CAUSE ?_)).trans cause, (word_of_recovery k ?_).trans record⟩ <;>
  simp [recoveryRegs, ENG_E_STAT.STATE, ENG_STAT.ES_BUSY, ENG_STAT.ES_COVER, INT_DEG_CAUSE.CAUSE]

/-- No part of `l` holds a register that shows a recovery, however far its rows go on. -/
abbrev ClearOfRecovery (l : List Field) : Prop := ∀ e < 8, ∀ a ∈ recoveryRegs e, l.all (fun k => !k.covers a) = true

section
variable {e : Nat} (he : e < 8) {s t : State}
include he

theorem Does.recovery {l : List Field} (h : Does l s t) (hl : ClearOfRecovery l := by decide)
    (hi : .intg ∉ l := by decide) : t.recovery e = s.recovery e :=
  recovery_congr (fun a ha => h.word (hl e he a ha)) (congrArg Intg.takeover (h.same .intg hi))

theorem Does.recoveryOf {l : List Field} (h : Does l s t) (aw : t.awaited = s.awaited)
    (hl : ClearOfRecovery l := by decide) : t.recovery e = s.recovery e :=
  recovery_congr (fun a ha => h.word (hl e he a ha)) (congrArg Prod.fst aw)

/-- The registers from POS on up to those of recovery are none of these. -/
theorem setWord_recovery (s : State) {a : Nat} (ha : 0x104000 ≤ a ∧ a < 0x10E000) (v : Word) :
    (s.setWord a v).recovery e = s.recovery e := by
  refine recovery_congr (fun b hb => State.word_setWord_other s v ?_) rfl
  have far : ∀ e < 8, ∀ b ∈ recoveryRegs e, b < 0x104000 ∨ 0x10E000 ≤ b := by decide
  have := far e he b hb
  omega

theorem put_recovery (s : State) (f : Fld) (hf : 0x104000 ≤ f.addr ∧ f.addr < 0x10E000) (v : Nat) :
    (s.put f v).recovery e = s.recovery e := setWord_recovery he s hf _

end

/-- What every element of a list leaves alone, all of them do. -/
theorem each_keeps {α β : Type} (g : State → α) {f : State → β → State} {l : List β}
    (h : ∀ b ∈ l, ∀ s, g (f s b) = g s) (s : State) : g (s.each l f) = g s := by
  induction l generalizing s with
  | nil => rfl
  | cons b t ih =>
    exact (ih (fun b hb => h b (List.mem_cons_of_mem _ hb)) (f s b)).trans (h b List.mem_cons_self s)

theorem ite_recovery {e : Nat} {p : Prop} [Decidable p] {u v : State} (h : u.recovery e = v.recovery e) :
    (if p then u else v).recovery e = v.recovery e := by
  split
  · exact h
  · rfl

theorem pos_recovery (s : State) (p : Pos) (e : Nat) : { s with pos := p }.recovery e = s.recovery e := rfl

/-! ### The modulator and the power stages (R276, R545, R546) -/

section
variable {e : Nat} (he : e < 8) (s : State) {n : Nat} (hn : n < 12)
include he hn

theorem driveHb_recovery (k : Nat) : (s.driveHb n k).recovery e = s.recovery e := by
  have here : 0x104000 ≤ PWR_AX_LIVE n ∧ PWR_AX_LIVE n < 0x10E000 := by unfold PWR_AX_LIVE; omega
  have off : ∀ (u : State) (src : Nat), (u.sourceOff n src).recovery e = u.recovery e := fun u src =>
    put_recovery he u ⟨PWR_AX_LIVE n, 0 + src, 1⟩ here _
  refine (each_pres (State.recovery · e) (fun u c => off u (4 * k + c)) _ _).trans ?_
  rfl

theorem drive_recovery : (s.drive n).recovery e = s.recovery e :=
  each_pres (State.recovery · e) (fun u k => driveHb_recovery he u hn k) s _

theorem enterSafe_recovery (c : Nat) : (s.enterSafe n c).recovery e = s.recovery e := by
  have cause := fun u : State => (State.setAxCause_does u n c).recovery he
  unfold State.enterSafe
  dsimp only
  split
  · rfl
  split
  · split
    · exact cause _
    · rfl
  refine (drive_recovery he _ hn).trans ((ite_recovery ?_).trans ((cause _).trans ?_))
  · rfl
  refine ((State.setCoast_does _ n 0).recovery he).trans ?_
  refine ((State.putBit_does _ MOD_STAT.SAFE n true (Field.has_one _)).recovery he).trans ?_
  refine ((State.put_does _ (MOD_AX_STAT.SAFE n) 1 (Field.has_row MOD_AX_STAT (fun _ => rfl) n)).recovery he).trans ?_
  exact when_pres (State.recovery · e) s _ rfl

theorem interlock_recovery (k : Nat) : (s.interlock n k).recovery e = s.recovery e := by
  have shown : (((s.modHb n k fun h => { h with events := h.events + 1 }).bump MOD_ILOCK_CNT.EVENTS 1).put
      MOD_ILOCK_CNT.LAST_HB (s.hbCode n k)).recovery e = s.recovery e :=
    ((State.put_does _ MOD_ILOCK_CNT.LAST_HB _ (Field.has_one _)).recovery he).trans
      ((State.bump_does _ MOD_ILOCK_CNT.EVENTS 1 (Field.has_one _)).recovery he)
  unfold State.interlock
  dsimp only
  refine (ite_recovery ?_).trans shown
  refine (enterSafe_recovery he _ hn 2).trans ?_
  refine ((State.put_does _ MOD_STAT.FORCE_ACTIVE _ (Field.has_one _)).recovery he).trans ?_
  have active := Field.has_row MOD_AX_FORCE (fun _ => rfl) n
  refine ((State.put_does _ (MOD_AX_FORCE.ACTIVE n) 0 active).recovery he).trans ?_
  exact (State.raise_does _ 0x0708 0).recovery he

theorem driveChecked_recovery : (s.driveChecked n).recovery e = s.recovery e := by
  refine each_pres (State.recovery · e) (fun u k => ?_) s _
  dsimp only
  split
  · exact (interlock_recovery he _ hn k).trans (driveHb_recovery he u hn k)
  · exact driveHb_recovery he u hn k

end

theorem releaseCut_recovery {e : Nat} (he : e < 8) (s : State) : s.releaseCut.recovery e = s.recovery e := by
  unfold State.releaseCut
  refine (each_keeps (State.recovery · e) (fun n hn u => ?_) _).trans ?_
  · have hn : n < 12 := List.mem_range.mp (List.mem_filter.mp hn).1
    have stat := Field.has_row MOD_AX_STAT (fun _ => rfl) n
    refine (driveChecked_recovery he _ hn).trans (((State.setCoast_does _ n 0).recovery he).trans ?_)
    refine ((State.put_does _ (MOD_AX_STAT.FIRST_WAIT n) 1 stat).recovery he).trans ?_
    refine ((State.putBit_does _ MOD_STAT.SAFE n false (Field.has_one _)).recovery he).trans ?_
    exact (State.put_does _ (MOD_AX_STAT.SAFE n) 0 stat).recovery he
  · rfl

/-! ### The sensors (R248, R376, R383) -/

section
variable {e : Nat} (he : e < 8) (s : State)
include he

omit he in
theorem lt_of_mem_outputs {o : Nat} (h : o ∈ [0, 1]) : o < 2 := by
  obtain rfl | rfl := List.mem_pair.mp h <;> decide

theorem eeLook_recovery {o : Nat} (ho : o < 2) : (s.eeLook o).recovery e = s.recovery e := by
  have stat : 0x104000 ≤ POS_EE_STAT o ∧ POS_EE_STAT o < 0x10E000 := by unfold POS_EE_STAT; omega
  have count : 0x104000 ≤ POS_EE_COUNT o ∧ POS_EE_COUNT o < 0x10E000 := by unfold POS_EE_COUNT; omega
  unfold State.eeLook
  dsimp only
  refine (put_recovery he _ (POS_EE_STAT.BACKLOG o) stat _).trans ((setWord_recovery he _ count _).trans ?_)
  split
  · refine ((State.raise_does _ 0x0A0C o).recovery he).trans ?_
    refine (put_recovery he _ (POS_EE_STAT.LOST o) stat 1).trans ?_
    exact (State.modEe_does s o _).recovery he
  · rfl

theorem eeFollow_recovery (k : Nat) (d : Int) : (s.eeFollow k d).recovery e = s.recovery e := by
  refine each_keeps (State.recovery · e) (fun o ho u => ?_) s
  split
  · exact (eeLook_recovery he _ (lt_of_mem_outputs ho)).trans ((State.modEe_does u o _).recovery he)
  · rfl

theorem posClears_recovery : s.posClears.recovery e = s.recovery e := by
  unfold State.posClears
  refine (each_keeps (State.recovery · e) (fun o ho u => ?_) _).trans ?_
  · split
    · exact (eeLook_recovery he _ (lt_of_mem_outputs ho)).trans ((State.modEe_does u o _).recovery he)
    · rfl
  refine each_keeps (State.recovery · e) (fun k hk u => ?_) s
  have stat : 0x104000 ≤ POS_QD_STAT k ∧ POS_QD_STAT k < 0x10E000 := by
    have hk : k < 4 := List.mem_range.mp hk
    unfold POS_QD_STAT
    omega
  extract_lets cleared
  have clears : cleared.recovery e = u.recovery e := ite_recovery ((State.modSi_does u k _).recovery he)
  split
  · exact clears
  · refine (eeFollow_recovery he _ k _).trans ((put_recovery he _ (POS_QD_STAT.REFD k) stat 0).trans ?_)
    exact ((State.modQd_does cleared k _).recovery he).trans clears

theorem capture_recovery {j : Nat} (hj : j < 8) (stamp : Word) : (s.capture j stamp).recovery e = s.recovery e := by
  have pos : 0x104000 ≤ POS_LT_POS j ∧ POS_LT_POS j < 0x10E000 := by unfold POS_LT_POS; omega
  have time : 0x104000 ≤ POS_LT_TIME j ∧ POS_LT_TIME j < 0x10E000 := by unfold POS_LT_TIME; omega
  have stat : 0x104000 ≤ POS_LT_STAT j ∧ POS_LT_STAT j < 0x10E000 := by unfold POS_LT_STAT; omega
  unfold State.capture
  extract_lets full counted old judged src tw read placed marked old' stamped
  have judges : judged.recovery e = s.recovery e := by
    have counts : counted.recovery e = s.recovery e := put_recovery he s (POS_LT_STAT.OVR j) stat _
    unfold judged
    split
    · split
      · exact counts
      · exact ((State.raise_does _ 0x0A0B j).recovery he).trans counts
    · rfl
  have reads : read.recovery e = judged.recovery e := (State.srcTime_does judged src).recovery he
  have places : placed.recovery e = read.recovery e :=
    (setWord_recovery he _ time _).trans (setWord_recovery he read pos _)
  have marks : marked.recovery e = placed.recovery e :=
    (put_recovery he _ (POS_LT_STAT.STALE j) stat 0).trans (put_recovery he placed (POS_LT_STAT.FULL j) stat 1)
  split
  · exact judges
  · refine (put_recovery he _ (POS_LT_STAT.DIR j) stat _).trans ?_
    refine (put_recovery he stamped (POS_LT_STAT.PERIOD j) stat _).trans ?_
    exact (pos_recovery marked _ e).trans (marks.trans (places.trans (reads.trans judges)))

theorem trigger_recovery (stamp : Word) (p : Nat → Bool) : (s.trigger stamp p).recovery e = s.recovery e := by
  refine each_keeps (State.recovery · e) (fun j hj u => capture_recovery he u ?_ stamp) s
  exact List.mem_range.mp (List.mem_filter.mp hj).1

theorem posCut_recovery : s.posCut.recovery e = s.recovery e := by
  unfold State.posCut
  extract_lets t u v
  refine Eq.trans (b := v.recovery e) rfl ((trigger_recovery he u _ _).trans ?_)
  refine each_keeps (State.recovery · e) (fun k hk u => ?_) s
  have hk : k < 4 := List.mem_range.mp hk
  have here : ∀ a ∈ [CAM_SI_COUNT k, CAM_SI_TIME k, POS_QD_COUNT k, POS_QD_ANGLE k, POS_QD_TURNS k, POS_QD_TIME k],
      0x104000 ≤ a ∧ a < 0x10E000 := by
    simp only [List.forall_mem_cons, CAM_SI_COUNT, CAM_SI_TIME, POS_QD_COUNT, POS_QD_ANGLE, POS_QD_TURNS, POS_QD_TIME]
    refine ⟨?_, ?_, ?_, ?_, ?_, ?_, by simp⟩ <;> omega
  extract_lets counted w timed q turned w'
  have counts : counted.recovery e = u.recovery e := setWord_recovery he u (here _ (by simp)) _
  have times : timed.recovery e = counted.recovery e :=
    (setWord_recovery he w.2 (here _ (by simp)) _).trans ((State.timeWord_does counted _ t).recovery he)
  have turns : turned.recovery e = timed.recovery e :=
    (setWord_recovery he _ (here _ (by simp)) _).trans
      ((setWord_recovery he _ (here _ (by simp)) _).trans (setWord_recovery he timed (here _ (by simp)) _))
  refine (ite_recovery ?_).trans (turns.trans (times.trans counts))
  exact (setWord_recovery he w'.2 (here _ (by simp)) _).trans ((State.timeWord_does turned _ t).recovery he)


theorem openBlocks_recovery : s.openBlocks.recovery e = s.recovery e := by
  unfold State.openBlocks
  dsimp only
  refine ((State.adcFrame_does _).recovery he).trans (((State.admission_does _).recovery he).trans ?_)
  refine ((State.thermalRow_does _).recovery he).trans ?_
  refine (each_pres (State.recovery · e) (fun u n => (State.misfitCheck_does u n).recovery he) _ _).trans ?_
  exact (posCut_recovery he _).trans (posClears_recovery he s)

end

end Sys2Proof.Machine

namespace Sys2Proof.Machine

set_option Elab.async false

/-! ### The words for the frame that opens leave the takeover alone -/

section
variable (s : State)

theorem snapshot_awaited (n : Nat) : (s.snapshot n).awaited = s.awaited := by
  have give := fun (u : State) (i : Nat) (w : Word) => (State.giveInput_does u n i w).awaited
  unfold State.snapshot
  extract_lets m old none' w1 w0 ix w3 given target pending old' informed
  have gives : given.awaited = s.awaited :=
    (give _ 3 w3).trans ((give _ 2 _).trans ((give _ 1 w1).trans (give s 0 w0)))
  have targets : target.awaited = given.awaited := by
    unfold target
    split
    · exact (put_awaited _ (AX_PARAM_STAT.SETPOS_PEND n) 0).trans (State.setTarget_does given n _).awaited
    · rfl
  have pends : pending.awaited = target.awaited := by
    unfold pending
    clear_value ix
    split
    · exact put_awaited target ⟨AX_PARAM_STAT n, _, 1⟩ _
    · rfl
  split
  · exact ite_awaited rfl
  · exact (State.modMot_does informed n _).awaited.trans (pends.trans (targets.trans gives))

theorem mapCut_awaited (lists : Bool) : (s.mapCut lists).awaited = s.awaited := by
  have entry := fun (u : State) (m : Nat) (f : MapStore → MapStore) => (State.modStore_does u m f).awaited
  unfold State.mapCut
  extract_lets l mapped relaunched
  have maps : mapped.awaited = s.awaited := by
    refine each_pres State.awaited (fun u m => ?_) s _
    split
    · split
      · exact (entry _ m _).trans (State.targetCut_does u m _).awaited
      split
      · exact entry u m _
      split
      · exact (State.txStatus_does u m _ lists).awaited
      split
      · exact (State.txFault_does u m _).awaited
      · rfl
    · rfl
  split
  · exact maps
  · exact maps

theorem openWords_awaited (lists : Bool) : (s.openWords lists).awaited = s.awaited := by
  unfold State.openWords
  dsimp only
  refine (each_pres State.awaited (fun u n => (State.committedDelivery_does u n).awaited) _ _).trans ?_
  refine (mapCut_awaited _ lists).trans ((State.chnCut_does _).awaited.trans ?_)
  refine (each_pres State.awaited (fun u n => (State.masterDelivery_does u n).awaited) _ _).trans ?_
  refine (State.feedbackTaken_does _).awaited.trans ?_
  refine (each_pres State.awaited (fun u n => (State.feedbackDelivery_does u n).awaited) _ _).trans ?_
  exact each_pres State.awaited snapshot_awaited s _

end

/-! ### The modes at a cut that takes an engine over (R543, R587) -/

/-- The mode runs lists, and so did the mode that a change at this cut left, if there was one. -/
structure ListsStay (s : State) : Prop where
  lists : s.sys.mode.lists = true
  left : ∀ old, s.sys.cutFrom = some old → old = .run ∨ old = .degraded

theorem changeMode_sys {s : State} (m : Mode) (cause : Nat) (safe : s.sys.mode ≠ .safe) (new : s.sys.cutFrom = none) :
    (s.changeMode m cause).sys.mode = m ∧ (s.changeMode m cause).sys.cutFrom = some s.sys.mode := by
  have entered : ∀ u : State, (u.enter m cause).sys = { u.sys with mode := m } := fun u =>
    (State.logRec_does _ _).same .sys
  have stays : (s.sys.mode == Mode.safe) = false := by simpa using safe
  unfold State.changeMode
  rw [entered, stays]
  exact ⟨rfl, congrArg some (congrArg (Option.getD · s.sys.mode) new)⟩

theorem degradeCut_listsStay {s : State} (hm : s.sys.mode.lists = true) (hf : s.sys.cutFrom = none) :
    ListsStay s.degradeCut := by
  unfold State.degradeCut
  dsimp only
  split
  next change =>
    have run : s.sys.mode = .run := by
      simp only [Bool.and_eq_true, beq_iff_eq] at change
      exact change.1
    obtain ⟨mode, left⟩ := changeMode_sys .degraded (0x10 + lowestBit 8 (s.fld INT_DEG_CAUSE.CAUSE)) (by simp [run]) hf
    exact ⟨by rw [mode]; rfl, fun old h => .inl ((Option.some.inj (left.symm.trans h)).symm.trans run)⟩
  split
  next change =>
    have degraded : s.sys.mode = .degraded := by
      simp only [Bool.and_eq_true, beq_iff_eq] at change
      exact change.1
    obtain ⟨mode, left⟩ := changeMode_sys .run 0x30 (by simp [degraded]) hf
    exact ⟨by rw [mode]; rfl, fun old h => .inr ((Option.some.inj (left.symm.trans h)).symm.trans degraded)⟩
  · exact ⟨hm, fun old h => by simp [hf] at h⟩

theorem autoRunCut_listsStay {s : State} (h : ListsStay s) : ListsStay s.autoRunCut := by
  have standby : s.sys.mode ≠ .standby := fun m => by simpa [m, Mode.lists] using h.lists
  unfold State.autoRunCut
  split
  · exact h
  · dsimp only
    rw [if_pos (by simp [standby])]
    exact ⟨h.lists, h.left⟩

theorem modeEffects_recovery {s : State} (h : ListsStay s) (e : Nat) : s.modeEffects.recovery e = s.recovery e := by
  have standby : s.sys.mode ≠ .standby := fun m => by simpa [m, Mode.lists] using h.lists
  unfold State.modeEffects
  split
  · rfl
  next old from' =>
    have runs : old.lists = true ∧ (old == .service) = false := by
      obtain rfl | rfl := h.left old from'
      · exact ⟨rfl, rfl⟩
      · exact ⟨rfl, rfl⟩
    have still : (s.sys.mode == .standby) = false := by simpa using standby
    dsimp only
    rw [runs.2, runs.1]
    simp only [Bool.false_and, Bool.not_true, Bool.false_eq_true, if_false, still]
    rfl

/-! ### The cut (R536) -/

/-- The state that the recovery's part of the cut finds. -/
def State.frameEnded (s : State) (lists : Bool) (fcnt : Nat) : State :=
  let u := (s.uncertainCut.modulatorCut lists fcnt).when lists State.mirrorCut
  (u.axesCut.each (List.range 12) State.camEmpty).each (List.range 9) State.engineCut

/-- The state in which the slate stands at the cut. -/
def State.cutReached (s : State) : State := (s.advanceTo s.clk.nextCut).countCut.refCut

/-- The cut after the recovery's part. -/
def State.frameOpened (s : State) (lists : Bool) : State :=
  let u := s.releaseCut.degradeCut.autoRunCut.modeEffects
  (u.sensorWatch.openBlocks.openWords lists).fallbackStart.newFrame

theorem advanceTo_sys (s : State) (t : Slate) : (s.advanceTo t).sys = s.sys := (State.advanceTo_does s t).same .sys

theorem endFrame_eq (s : State) (lists : Bool) (fcnt : Nat) : ∃ t, s.endFrame lists fcnt =
    (((s.frameEnded lists fcnt).recoveryCut t).releaseCut.degradeCut.autoRunCut).modeEffects := by
  unfold State.endFrame State.frameEnded
  exact ⟨_, rfl⟩

theorem frameCut_eq {s : State} (safe : s.sys.safeNew = 0) : ∃ lists fcnt t,
    s.frameCut = ((s.cutReached.frameEnded lists fcnt).recoveryCut t).frameOpened lists := by
  have reached : (s.advanceTo s.clk.nextCut).safeEntry = s.advanceTo s.clk.nextCut := by
    unfold State.safeEntry
    exact if_pos (by simp [advanceTo_sys, safe])
  obtain ⟨t, ended⟩ := endFrame_eq s.cutReached s.ranLists (s.clk.frames.toNat % 8)
  refine ⟨s.ranLists, s.clk.frames.toNat % 8, t, ?_⟩
  unfold State.cutReached at ended ⊢
  unfold State.frameCut
  dsimp only
  rw [reached, ended]
  rfl

theorem newFrame_recovery (s : State) (e : Nat) : s.newFrame.recovery e = s.recovery e := rfl

theorem settle_recovery (s : State) (e : Nat) : s.settle.recovery e = s.recovery e := rfl

section
variable (s : State)

theorem cutReached_underway : s.cutReached.underway = s.underway :=
  (State.refCut_does _).underway.trans ((State.countCut_does _).underway.trans (State.advanceTo_does s _).underway)

theorem frameEnded_underway (lists : Bool) (fcnt : Nat) : (s.frameEnded lists fcnt).underway = s.underway := by
  unfold State.frameEnded
  refine (each_pres State.underway (fun u k => (State.engineCut_does u k).underway) _ _).trans ?_
  refine (each_pres State.underway (fun u n => (State.camEmpty_does u n).underway) _ _).trans ?_
  refine (State.axesCut_does _).underway.trans ((when_pres State.underway _ _ (mirrorCut_underway _)).trans ?_)
  exact (modulatorCut_underway _ lists fcnt).trans (uncertainCut_underway s)

end

theorem frameOpened_recovery {s : State} {e : Nat} (he : e < 8) (lists : Bool) (hm : s.sys.mode.lists = true)
    (hf : s.sys.cutFrom = none) : (s.frameOpened lists).recovery e = s.recovery e := by
  have released : s.releaseCut.sys = s.sys := (State.releaseCut_does s).same .sys
  have stay : ListsStay s.releaseCut.degradeCut.autoRunCut :=
    autoRunCut_listsStay (degradeCut_listsStay (released ▸ hm) (released ▸ hf))
  unfold State.frameOpened
  refine (newFrame_recovery _ e).trans (((State.fallbackStart_does _).recovery he).trans ?_)
  refine ((State.openWords_does _ lists).recoveryOf he (openWords_awaited _ lists)).trans ?_
  refine (openBlocks_recovery he _).trans ?_
  refine ((State.sensorWatch_does _).recovery he).trans ((modeEffects_recovery stay e).trans ?_)
  refine ((State.autoRunCut_does _).recovery he).trans (((State.degradeCut_does _).recovery he).trans ?_)
  exact releaseCut_recovery he s

theorem frameCut_recovering {s : State} {e : Nat} (he : e < 8) (takeover : s.intg.takeover = some e)
    (hm : s.sys.mode.lists = true) (hf : s.sys.cutFrom = none) (safe : s.sys.safeNew = 0) :
    Recovering e s.intg.recAxes s.frameCut := by
  obtain ⟨lists, fcnt, t, eq⟩ := frameCut_eq safe
  have kept := (frameEnded_underway s.cutReached lists fcnt).trans (cutReached_underway s)
  generalize s.cutReached.frameEnded lists fcnt = u at eq kept
  obtain ⟨awaited, mode, left⟩ := underway_parts kept
  have waits : u.intg.takeover = some e := (congrArg Prod.fst awaited).trans takeover
  have axes : u.intg.recAxes = s.intg.recAxes := congrArg Prod.snd awaited
  have taken : u.recoveryCut t = u.takeoverCut e t := by
    unfold State.recoveryCut
    rw [waits]
  have sys : (u.takeoverCut e t).sys = u.sys := (State.takeoverCut_does u e t).same .sys
  rw [eq, taken, ← axes]
  refine (takeoverCut_recovering u he t).of_recovery (frameOpened_recovery he lists ?_ ?_)
  · rw [sys, mode, hm]
  · rw [sys, left, hf]

theorem cut_recovering {s : State} {e : Nat} (hp : s.powered = true) (sealed : s.atPhase .sealed = true) (he : e < 8)
    (takeover : s.intg.takeover = some e) (hm : s.sys.mode.lists = true) (hf : s.sys.cutFrom = none)
    (safe : s.sys.safeNew = 0) : Runs .cut s Parts.cut (Recovering e s.intg.recAxes) := by
  refine runs_meaning (execCut_does s) hp ?_
  rw [if_pos sealed]
  exact (frameCut_recovering he takeover hm hf safe).of_recovery (settle_recovery _ e)

end Sys2Proof.Machine

namespace Sys2Proof.Machine

set_option Elab.async false

/-! ### Obligation O6 -/

/-- A register that shows a recovery of engine `e` shows its fields. -/
theorem Recovering.record_fields {e : Nat} {axes : BitVec 12} {s : State} (h : Recovering e axes s) (he : e < 8) :
    s.fld INT_REC.ENGINE = e ∧ s.flag INT_REC.VALID = true ∧ s.fld INT_REC.PHASE = 1 ∧ s.fld INT_REC.WFRAMES = 4 ∧
      s.fld INT_REC.AXES = axes.toNat := by
  have field : ∀ f : Fld, f.addr = INT_REC → s.fld f = f.of (recoveryWord e axes) := fun f hf => by
    unfold State.fld
    rw [hf, h.record]
  obtain ⟨engine, valid, phase, frames, axes'⟩ := recoveryWord_fields he axes
  refine ⟨(field _ rfl).trans engine, ?_, (field _ rfl).trans phase, (field _ rfl).trans frames,
    (field _ rfl).trans axes'⟩
  exact beq_iff_eq.mpr ((field INT_REC.VALID rfl).trans valid)

/-- Settles O6: a fault is shown, then its outcome follows from INT_STAT.WINDOW and the flags of ES; the cut keeps the
takeover that waits up to the recovery, and what the recovery shows up to its end. -/
theorem engineFaultTakesOver : Obligations.EngineFaultTakesOver := by
  refine ⟨?takeover, ?parking, ?es, ?pair, ?noStart, ?cut⟩
  case takeover =>
    intro e c s hp hm he run _ _ window free ready
    refine (engineFault_takeover hp hm c he run ⟨window, free, ready⟩).mono fun t h => ?_
    obtain ⟨fault, raised, awaited, opened, record, counts⟩ := h
    exact ⟨engineCode_eng he _ ▸ fault.raised, fault.cause, fault.state, fault.exec, fault.counts, raised,
      congrArg Prod.fst awaited, congrArg Prod.snd awaited, opened, record, counts, fault.others⟩
  case parking =>
    intro e c s hp hm he run _ _ busy
    have busy : ¬s.MayTakeOver := fun m => by simp [m.window, m.free, m.ready] at busy
    refine (engineFault_parking hp hm c he run busy).mono fun t h => ?_
    obtain ⟨fault, raised, awaited, -, shown⟩ := h
    exact ⟨engineCode_eng he _ ▸ fault.raised, fault.cause, fault.state, fault.exec, fault.counts, shown, raised,
      congrArg Prod.fst awaited, fault.others⟩
  case es =>
    intro e c s hp hm he run _ _ window free
    obtain rfl : e = 8 := Fin.ext he
    refine (engineFault_esLost hp hm c run free window).mono fun t h => ?_
    obtain ⟨fault, down, raised⟩ := h
    exact ⟨fault.raised, fault.cause, fault.state, fault.exec, down, raised, fault.others⟩
  case pair =>
    intro e e' c c' s hp hm he run _ _ lt run' _ _ window free ready
    refine (engineFault_pair hp hm c c' he lt run run' ⟨window, free, ready⟩).mono fun t h => ?_
    obtain ⟨u, lower, taken, higher, parked, stands, aside⟩ := h
    have code : ∀ k < 8, ∀ c : Fin 11, engineCode k (c.val + 1) = 0x0401 + c.val := fun k hk c => by
      rw [engineCode_eng hk]
      omega
    have raised' := stands.1 _ (engineCode_block (by omega) _) lower.raised
    exact ⟨(congrArg Prod.fst parked.awaited).trans (congrArg Prod.fst taken.awaited),
      (aside.fld rfl).trans lower.state, higher.state, higher.cause, (aside.fld rfl).trans lower.cause, higher.exec,
      (congrArg Eng.exec aside.2.1).trans lower.exec, parked.window.trans taken.window, parked.shown,
      code e he c ▸ higher.raised, code e' (by omega) c' ▸ raised',
      fun k hk ne ne' => (higher.others k hk ne).trans (lower.others k hk ne')⟩
  case noStart =>
    intro e s hp he _ cuts start hm idle run _ window free ready
    refine (noStart_takeover hp hm he cuts start idle run ⟨window, free, ready⟩).mono fun t h => ?_
    obtain ⟨fault, ⟨raised, awaited, opened, record, counts⟩, watch⟩ := h
    exact ⟨engineCode_eng he _ ▸ fault.raised, fault.cause, fault.state, fault.exec, fault.counts, raised,
      congrArg Prod.fst awaited, congrArg Prod.snd awaited, opened, record, counts, watch, fault.others⟩
  case cut =>
    intro e s hp sealed takeover he hm from' safe
    refine (cut_recovering hp sealed he takeover hm from' safe).mono fun t h => ?_
    exact ⟨h.state, h.takeover, h.busy, h.cover, h.cause, h.record_fields he⟩

end Sys2Proof.Machine

namespace Sys2Proof.Machine

set_option Elab.async false

/-! ### What a shot that runs leaves of the engines (R110, R120, R125, R133) -/

/-- From `s` to `t` engine `e` has done one more shot, of `n` cycles, which leaves it with the slots, the accumulator,
the flags and the input area of `h`, and no other engine has changed. -/
structure ShotDone (s : State) (e : Fin 9) (n : Nat) (h : Eng) (t : State) : Prop where
  ops : (t.eng e).ops = h.ops
  acc : (t.eng e).acc = h.acc
  sat : (t.eng e).sat = h.sat
  miss : (t.eng e).miss = h.miss
  inp : (t.eng e).inp = h.inp
  shots : (t.eng e).shots = (s.eng e).shots + 1
  cycles : (t.eng e).cycles = (s.eng e).cycles + n
  others : ∀ k < 9, k ≠ e.val → t.eng k = s.eng k

/-- The engine with the fetch check `r`. -/
def Eng.fetching (g : Eng) (r : Word) : Eng := { g with fetch := r }

section
variable (g : Eng) (r : Word)

@[simp] theorem Eng.op_fetching (i : Nat) : (g.fetching r).op i = g.op i := rfl
@[simp] theorem Eng.input_fetching (i : Nat) : (g.fetching r).input i = g.input i := rfl
@[simp] theorem Shot.src_fetching (c : Shot) (v : Nat) : c.src (g.fetching r) v = c.src g v := rfl

@[simp] theorem Eng.length_ops_setOp (i : Nat) (v : Word) : (g.setOp i v).ops.length = g.ops.length :=
  Tbl.length_mod _ _ _

end

section
variable {i : Instr} {op : Nat} {e : Fin 9} {f : Fetch} {s : State}

theorem State.eng_modEng_ne (s : State) {e k : Nat} (F : Eng → Eng) (h : k ≠ e) : (s.modEng e F).eng k = s.eng k := by
  unfold State.modEng State.eng
  exact Tbl.get_mod_other {} s.engs F h

/-- A ready shot whose effect meets no fault, leaves the engine as `g` and the other engines and the page alone: the
command runs, the shot is counted, and what else the effect left stays. -/
theorem shot_runs {l : List Field} {x : Out} {eff : Effect} {g : Eng} {u : State}
    (hd : ∀ t, x = .next t → Does l s t) (h : s.shotReady op e f = true)
    (hu : eff (s.shotOf e f) (s.reading e f) = (none, u)) (own : u.eng e = g) (len : u.engs.length = 9)
    (others : ∀ k ≠ e.val, u.eng k = s.eng k) (page : u.pageOf e = s.pageOf e)
    (shots : g.shots = (s.eng e).shots) (cycles : g.cycles = (s.eng e).cycles)
    (he : exec i s = x := by rfl) (hx : x = whenPowered s fun s => s.runShot op e f eff := by rfl) :
    Runs i s l fun t => ShotDone s e ((s.shotOf e f).cycles op) g t ∧ t.queues = u.queues ∧ t.mem = u.mem := by
  obtain ⟨powered, -, -, -, -, -, -, -, -, more⟩ := ready_unpack h
  have ended : s.runShot op e f eff = u.modEng e fun g =>
      { g with shots := g.shots + 1, cycles := g.cycles + (s.shotOf e f).cycles op } := by
    rw [runShot_ready h, hu]
    refine shotEnd_eng ?_
    rw [own, shots, page]
    exact more
  have last := eng_modEng_same u e (fun g =>
    { g with shots := g.shots + 1, cycles := g.cycles + (s.shotOf e f).cycles op }) (len.symm ▸ e.isLt)
  rw [own, shots, cycles] at last
  refine runs_meaning hd powered ?_ he hx
  rw [ended]
  have field : ∀ {α : Type} (p : Eng → α), p ((u.modEng e _).settle.eng e) = p _ := fun p => congrArg p last
  exact ⟨⟨field Eng.ops, field Eng.acc, field Eng.sat, field Eng.miss, field Eng.inp, field Eng.shots,
    field Eng.cycles, fun k _ ne => (State.eng_modEng_ne u _ ne).trans (others k ne)⟩, rfl, rfl⟩

theorem reading_ne (f : Fetch) {k : Nat} (ne : k ≠ e.val) : (s.reading e f).eng k = s.eng k :=
  State.eng_modEng_ne s _ ne

theorem reading_length (h : s.shotReady op e f = true) : (s.reading e f).engs.length = 9 :=
  (Tbl.length_mod s.engs _ _).trans (ready_unpack h).2.1

/-- A ready shot whose effect meets no fault and, beside what is no engine and no page, changes its engine by `F`. -/
theorem modEng_runs {l : List Field} {x : Out} {eff : Effect} {F : Eng → Eng} {u : State}
    (hd : ∀ t, x = .next t → Does l s t) (h : s.shotReady op e f = true)
    (hu : eff (s.shotOf e f) (s.reading e f) = (none, u.modEng e F))
    (engs : u.engs = (s.reading e f).engs) (page : u.pageOf e = s.pageOf e)
    (hF : ∀ g, (F g).shots = g.shots ∧ (F g).cycles = g.cycles)
    (he : exec i s = x := by rfl) (hx : x = whenPowered s fun s => s.runShot op e f eff := by rfl) :
    Runs i s l fun t => (∃ r, ShotDone s e ((s.shotOf e f).cycles op) (F ((s.eng e).fetching r)) t) ∧
      t.queues = u.queues ∧ t.mem = u.mem := by
  have len : u.engs.length = 9 := engs ▸ reading_length h
  have read : u.eng e = (s.eng e).fetching _ := (eng_of_engs engs e).trans (reading_eng (ready_unpack h).2.1)
  refine (shot_runs hd h hu ((eng_modEng_same u e F (len.symm ▸ e.isLt)).trans (congrArg F read))
    ((Tbl.length_mod u.engs _ _).trans len) (fun k ne => ?_) page (hF _).1 (hF _).2 he hx).mono
    fun t ⟨done, queues, mem⟩ => ⟨⟨_, done⟩, queues, mem⟩
  exact (State.eng_modEng_ne u F ne).trans ((eng_of_engs engs k).trans (reading_ne f ne))

/-- A ready shot that only touches its engine. -/
theorem inner_runs {x : Out} {F : Shot → Eng → Eng} (hd : ∀ t, x = .next t → Does Parts.shot s t)
    (hx : x = whenPowered s fun s => s.runShot op e f (inner F)) (h : s.shotReady op e f = true)
    (hF : ∀ c g, (F c g).shots = g.shots ∧ (F c g).cycles = g.cycles := by intros; exact ⟨rfl, rfl⟩)
    (he : exec i s = x := by rfl) :
    Runs i s Parts.shot fun t =>
      ∃ r, ShotDone s e ((s.shotOf e f).cycles op) (F (s.shotOf e f) ((s.eng e).fetching r)) t :=
  (modEng_runs (u := s.reading e f) hd h rfl rfl rfl (hF _) he hx).mono fun _ done => done.1

/-- Engine `e` has done one more shot, which writes no slot but `d`, and neither the input area nor the accumulator. -/
def WroteSlot (s : State) (e : Fin 9) (d : Nat) (t : State) : Prop :=
  (t.eng e).shots = (s.eng e).shots + 1 ∧ (∀ k < 9, k ≠ e.val → t.eng k = s.eng k) ∧ (t.eng e).inp = (s.eng e).inp ∧
    (t.eng e).acc = (s.eng e).acc ∧ ∀ j < 32, j ≠ d → (t.eng e).op j = (s.eng e).op j

theorem ShotDone.op_eq {n : Nat} {h : Eng} {t : State} (d : ShotDone s e n h t) (j : Nat) : (t.eng e).op j = h.op j :=
  congrArg (Tbl.get 0 · j) d.ops

theorem ShotDone.wroteSlot {n d : Nat} {h : Eng} {t : State} (done : ShotDone s e n h t)
    (inp : h.inp = (s.eng e).inp) (acc : h.acc = (s.eng e).acc) (ops : ∀ j ≠ d, h.op j = (s.eng e).op j) :
    WroteSlot s e d t :=
  ⟨done.shots, done.others, done.inp.trans inp, done.acc.trans acc, fun j _ ne => (done.op_eq j).trans (ops j ne)⟩

/-- The words of the selectors at the bytes `sels`. -/
def Shot.words (c : Shot) (g : Eng) (sels : List Nat) : List Word := sels.map fun i => c.src g (c.b i)

/-- A ready shot that writes one slot with a value computed from words that selectors name. -/
theorem compute_runs {x : Out} {sels : List Nat} {F : Shot → Eng → List Word → Word × Bool}
    (hd : ∀ t, x = .next t → Does Parts.shot s t)
    (hx : x = whenPowered s fun s => s.runShot op e f (compute sels F)) (h : s.shotReady op e f = true)
    (slot : (s.shotOf e f).b 2 < 32) (he : exec i s = x := by rfl)
    (blind : ∀ c g r l, F c (Eng.fetching g r) l = F c g l := by intros; rfl) :
    Runs i s Parts.shot fun t =>
      (t.eng e).op ((s.shotOf e f).b 2) = (F (s.shotOf e f) (s.eng e) ((s.shotOf e f).words (s.eng e) sels)).1 ∧
      (t.eng e).sat = ((s.eng e).sat || (F (s.shotOf e f) (s.eng e) ((s.shotOf e f).words (s.eng e) sels)).2) ∧
      WroteSlot s e ((s.shotOf e f).b 2) t := by
  have len := (ready_unpack h).2.2.2.1
  refine (inner_runs hd hx h (fun _ _ => ⟨rfl, rfl⟩) he).mono fun t ⟨r, done⟩ => ⟨?_, ?_, ?_⟩
  · exact (done.op_eq _).trans ((op_setOp _ _ _ (len.symm ▸ slot)).trans (congrArg Prod.fst (blind _ _ r _)))
  · exact done.sat.trans (congrArg ((s.eng e).sat || ·) (congrArg Prod.snd (blind _ _ r _)))
  · exact done.wroteSlot rfl rfl fun j ne => op_setOp_ne _ _ _ _ ne

end

end Sys2Proof.Machine

namespace Sys2Proof.Machine

set_option Elab.async false

/-! ### PAD, LDK, MOV and TAGM (R149 to R151) -/

section
variable {op : Nat} {e : Fin 9} {f : Fetch} {s : State}

theorem ready_legal (h : s.shotReady op e f = true) : (s.shotOf e f).legal op = true :=
  (ready_unpack h).2.2.2.2.2.2.2.2.1

theorem ready_slots (h : s.shotReady op e f = true) : (s.eng e).ops.length = 32 := (ready_unpack h).2.2.2.1

theorem Shot.slots_le {c : Shot} {i n : Nat} (h : c.slots i n = true) : c.b i + n ≤ 32 := by
  unfold Shot.slots at h
  simp only [Bool.and_eq_true, decide_eq_true_eq] at h
  exact h.1

theorem pad_runs (h : s.shotReady 0x01 e f = true) : Runs (.pad e f) s Parts.shot fun t =>
    ∃ r, ShotDone s e ((s.shotOf e f).cycles 0x01) ((s.eng e).fetching r) t :=
  (shot_runs (execPad_does e f s) h (eff := shotPad) rfl (reading_eng (ready_unpack h).2.1) (reading_length h)
    (fun _ => reading_ne f) rfl rfl rfl).mono fun _ done => ⟨_, done.1⟩

theorem ldk_writes (h : s.shotReady 0x02 e f = true) : Runs (.ldk e f) s Parts.shot fun t =>
    (t.eng e).op ((s.shotOf e f).b 2) = (s.shotOf e f).k ((s.shotOf e f).kidx 3) ∧
      WroteSlot s e ((s.shotOf e f).b 2) t := by
  have legal := ready_legal h
  simp only [Shot.legal, Bool.and_eq_true] at legal
  have slot : (s.shotOf e f).b 2 < (s.eng e).ops.length := ready_slots h ▸ slot_lt legal.1.1
  refine (inner_runs (execLdk_does e f s) rfl h).mono fun t ⟨r, done⟩ => ⟨?_, ?_⟩
  · exact (done.op_eq _).trans (op_setOp _ _ _ slot)
  · exact done.wroteSlot rfl rfl fun j ne => op_setOp_ne _ _ _ _ ne

/-- MOV on the engine `g`. -/
def movEng (c : Shot) (g : Eng) : Eng :=
  let a := c.src g (c.b 3)
  let i := (g.op (c.b 5)).toNat % 32
  let g := g.missIf (c.untagged g (c.b 3))
  if c.b 4 = 0 then g.setOp (c.b 2) a else if i < c.b 6 then g.setOp (c.b 2 + i) a else g

theorem movEng_direct {c : Shot} (g : Eng) (h : c.b 4 = 0) :
    movEng c g = (g.missIf (c.untagged g (c.b 3))).setOp (c.b 2) (c.src g (c.b 3)) := if_pos h

theorem movEng_within {c : Shot} (g : Eng) (h : c.b 4 = 1) (below : (g.op (c.b 5)).toNat % 32 < c.b 6) : movEng c g =
    (g.missIf (c.untagged g (c.b 3))).setOp (c.b 2 + (g.op (c.b 5)).toNat % 32) (c.src g (c.b 3)) :=
  (if_neg (by rw [h]; decide)).trans (if_pos below)

theorem movEng_beyond {c : Shot} (g : Eng) (h : c.b 4 = 1) (above : c.b 6 ≤ (g.op (c.b 5)).toNat % 32) :
    movEng c g = g.missIf (c.untagged g (c.b 3)) :=
  (if_neg (by rw [h]; decide)).trans (if_neg (Nat.not_lt.mpr above))

theorem movEng_counts (c : Shot) (g : Eng) : (movEng c g).shots = g.shots ∧ (movEng c g).cycles = g.cycles := by
  unfold movEng
  dsimp only
  split
  · exact ⟨rfl, rfl⟩
  · split <;> exact ⟨rfl, rfl⟩

theorem mov_runs (h : s.shotReady 0x03 e f = true) : Runs (.mov e f) s Parts.shot fun t =>
    ∃ r, ShotDone s e ((s.shotOf e f).cycles 0x03) (movEng (s.shotOf e f) ((s.eng e).fetching r)) t :=
  inner_runs (execMov_does e f s) rfl h movEng_counts

theorem tagm_writes {i : Nat} (h : s.shotReady 0x04 e f = true)
    (hi : (s.shotOf e f).inputOf ((s.shotOf e f).b 3) = some i) : Runs (.tagm e f) s Parts.shot fun t =>
    (t.eng e).op ((s.shotOf e f).b 2) = maskOf ((List.range ((s.shotOf e f).b 5)).all fun k =>
      ((s.eng e).input (i + k)).tag && ((s.shotOf e f).b 4 == 0 ||
        (((s.eng e).input (i + k)).w.getLsbD 16 && !((s.eng e).input (i + k)).w.getLsbD 18))) ∧
      (t.eng e).miss = (s.eng e).miss ∧ WroteSlot s e ((s.shotOf e f).b 2) t := by
  have legal := ready_legal h
  simp only [Shot.legal, Bool.and_eq_true] at legal
  have slot : (s.shotOf e f).b 2 < (s.eng e).ops.length := ready_slots h ▸ slot_lt legal.1.1.1.1.1
  refine (inner_runs (execTagm_does e f s) rfl h).mono fun t ⟨r, done⟩ => ⟨?_, done.miss, ?_⟩
  · refine (done.op_eq _).trans ((op_setOp _ _ _ slot).trans ?_)
    refine congrArg (fun p => maskOf (List.all _ p)) (funext fun k => ?_)
    rw [hi]
    by_cases mode : (s.shotOf e f).b 4 = 0
    · simp [mode]
    · simp [mode, beq_false_of_ne mode, InWord.valid, Bool.and_assoc]
  · exact done.wroteSlot rfl rfl fun j ne => op_setOp_ne _ _ _ _ ne

end

/-- Settles O17, each clause by what its shot does to the engine. -/
theorem shotsMoveValues : Obligations.ShotsMoveValues := by
  refine ⟨?pad, ?ldk, ?mov, ?movAt, ?movNot, ?tagm⟩
  case pad =>
    rintro e f _ _ s h rfl rfl
    exact (pad_runs h).mono fun t ⟨_, d⟩ => ⟨d.ops, d.cycles, d.shots, d.others, d.inp, d.acc⟩
  case ldk =>
    rintro e f _ _ s h rfl rfl
    exact (ldk_writes h).mono fun t ⟨val, shots, others, inp, acc, rest⟩ => ⟨val, shots, others, inp, acc, rest⟩
  case mov =>
    rintro e f _ _ s h rfl rfl mode
    have legal := ready_legal h
    simp only [Shot.legal, Bool.and_eq_true] at legal
    have slot : (s.shotOf e f).b 2 < (s.eng e).ops.length := ready_slots h ▸ slot_lt legal.1.1.1
    refine (mov_runs h).mono fun t ⟨r, done⟩ => ?_
    rw [movEng_direct _ mode] at done
    exact ⟨(done.op_eq _).trans (op_setOp _ _ _ slot), done.miss,
      done.wroteSlot rfl rfl fun j ne => op_setOp_ne _ _ _ _ ne⟩
  case movAt =>
    rintro e f _ _ i s h rfl rfl mode rfl below
    have legal := ready_legal h
    simp [Shot.legal, mode] at legal
    have slot := Nat.lt_of_lt_of_le (Nat.add_lt_add_left below _)
      ((Shot.slots_le legal.2.2).trans_eq (ready_slots h).symm)
    refine (mov_runs h).mono fun t ⟨r, done⟩ => ?_
    rw [movEng_within (Eng.fetching _ r) mode below] at done
    exact ⟨(done.op_eq _).trans (op_setOp _ _ _ slot), done.wroteSlot rfl rfl fun j ne => op_setOp_ne _ _ _ _ ne⟩
  case movNot =>
    rintro e f _ _ i s h rfl rfl mode rfl above
    refine (mov_runs h).mono fun t ⟨r, done⟩ => ?_
    rw [movEng_beyond (Eng.fetching _ r) mode above] at done
    exact ⟨done.ops, done.shots, done.others, done.inp, done.acc⟩
  case tagm =>
    rintro e f _ _ i s h rfl rfl hi
    exact tagm_writes h hi

end Sys2Proof.Machine

namespace Sys2Proof.Machine

set_option Elab.async false

/-! ### ADD, MUL, ACCX, CLAMP and ABSN (R123, R124, R152) -/

theorem wrd_sgn_add (a b : Word) : wrd (sgn a + sgn b) = a + b := by
  unfold wrd sgn
  rw [BitVec.ofInt_add, BitVec.ofInt_toInt, BitVec.ofInt_toInt]

theorem wrd_sgn_sub (a b : Word) : wrd (sgn a - sgn b) = a - b := by
  unfold wrd sgn
  rw [Int.sub_eq_add_neg, BitVec.ofInt_add, BitVec.ofInt_neg, BitVec.ofInt_toInt, BitVec.ofInt_toInt,
    ← BitVec.sub_eq_add_neg]

theorem clampZ_eq {lo hi : Int} (h : lo ≤ hi) (z : Int) : clampZ lo hi z = max lo (min z hi) := by
  unfold clampZ
  split
  · omega
  · split <;> omega

theorem shr_eq (z : Int) (n : Nat) : shr z n = z >>> n := (Int.shiftRight_eq_div_pow z n).symm

/-- The word that ADD writes by FN, and whether it saturated. -/
def addResult (fn : Nat) (a b : Word) : Word × Bool :=
  if fn.testBit 2 then
    let r : Int := if fn.testBit 0 then (a.toNat : Int) - b.toNat else (a.toNat : Int) + b.toNat
    (wrd (satU 32 r), outU 32 r)
  else
    let r : Int := if fn.testBit 0 then sgn a - sgn b else sgn a + sgn b
    if fn.testBit 1 then sat32 r else (wrd r, false)

theorem addResult_unsigned (a b : Word) : addResult 4 a b =
    (BitVec.ofNat 32 (min (a.toNat + b.toNat) 0xFFFFFFFF), decide (0xFFFFFFFF < a.toNat + b.toNat)) := by
  have clamp : satU 32 ((a.toNat : Int) + b.toNat) = ((min (a.toNat + b.toNat) 0xFFFFFFFF : Nat) : Int) := by
    unfold satU
    rw [clampZ_eq (by decide)]
    omega
  have out : outU 32 ((a.toNat : Int) + b.toNat) = decide (0xFFFFFFFF < a.toNat + b.toNat) := by
    unfold outU
    rw [decide_eq_false (by omega), Bool.false_or]
    exact decide_eq_decide.mpr (by omega)
  show (wrd (satU 32 ((a.toNat : Int) + b.toNat)), outU 32 ((a.toNat : Int) + b.toNat)) = _
  rw [clamp, out]
  rfl

theorem subResult_unsigned (a b : Word) : addResult 5 a b =
    (BitVec.ofNat 32 (a.toNat - b.toNat), decide (a.toNat < b.toNat)) := by
  have clamp : satU 32 ((a.toNat : Int) - b.toNat) = ((a.toNat - b.toNat : Nat) : Int) := by
    unfold satU
    rw [clampZ_eq (by decide)]
    omega
  have out : outU 32 ((a.toNat : Int) - b.toNat) = decide (a.toNat < b.toNat) := by
    unfold outU
    rw [decide_eq_false (p := (2 : Int) ^ 32 - 1 < _) (by omega), Bool.or_false]
    exact decide_eq_decide.mpr (by omega)
  show (wrd (satU 32 ((a.toNat : Int) - b.toNat)), outU 32 ((a.toNat : Int) - b.toNat)) = _
  rw [clamp, out]
  rfl

section
variable {e : Fin 9} {f : Fetch} {s : State}

theorem add_runs {fn : Nat} (h : s.shotReady 0x08 e f = true) (hfn : (s.shotOf e f).b 5 = fn) {v : Word} {b : Bool}
    (hv : addResult fn ((s.shotOf e f).src (s.eng e) ((s.shotOf e f).b 3))
      ((s.shotOf e f).src (s.eng e) ((s.shotOf e f).b 4)) = (v, b)) : Runs (.add e f) s Parts.shot fun t =>
    (t.eng e).op ((s.shotOf e f).b 2) = v ∧ (t.eng e).sat = ((s.eng e).sat || b) ∧
      WroteSlot s e ((s.shotOf e f).b 2) t := by
  subst hfn
  have legal := ready_legal h
  simp only [Shot.legal, Bool.and_eq_true] at legal
  refine (compute_runs (execAdd_does e f s) rfl h (slot_lt legal.1.1.1.1)).mono fun t ⟨val, sat, tail⟩ => ⟨?_, ?_, tail⟩
  · exact val.trans (congrArg Prod.fst hv)
  · exact sat.trans (congrArg ((s.eng e).sat || ·) (congrArg Prod.snd hv))

end
end Sys2Proof.Machine

namespace Sys2Proof.Machine

set_option Elab.async false

section
variable {e : Fin 9} {f : Fetch} {s : State}

/-- The product of MUL, negated by FN bit 1. -/
def mulProduct (fn : Nat) (a b : Word) : Int :=
  let p : Int := if fn.testBit 2 then (a.toNat : Int) * b.toNat else sgn a * sgn b
  if fn.testBit 1 then -p else p

/-- What MUL would set the accumulator to, before saturation. -/
def mulSum (fn : Nat) (acc : DWord) (a b : Word) : Int :=
  if fn.testBit 0 then acc.toInt + mulProduct fn a b else mulProduct fn a b

/-- Engine `e` has done one more shot, which writes no slot and no word of the input area. -/
def WroteNoSlot (s : State) (e : Fin 9) (t : State) : Prop :=
  (t.eng e).shots = (s.eng e).shots + 1 ∧ (∀ k < 9, k ≠ e.val → t.eng k = s.eng k) ∧ (t.eng e).inp = (s.eng e).inp ∧
    (t.eng e).ops = (s.eng e).ops

theorem mul_runs {r : Int} (h : s.shotReady 0x09 e f = true)
    (hr : mulSum ((s.shotOf e f).b 4) (s.eng e).acc ((s.shotOf e f).src (s.eng e) ((s.shotOf e f).b 2))
      ((s.shotOf e f).src (s.eng e) ((s.shotOf e f).b 3)) = r) : Runs (.mul e f) s Parts.shot fun t =>
    (t.eng e).acc = BitVec.ofInt 64 (satS 64 r) ∧ (t.eng e).sat = ((s.eng e).sat || outS 64 r) ∧ WroteNoSlot s e t := by
  subst hr
  refine (inner_runs (execMul_does e f s) rfl h).mono fun t ⟨r, done⟩ => ?_
  exact ⟨done.acc, done.sat, done.shots, done.others, done.inp, done.ops⟩

/-- What ACCX shifts out of the accumulator, before saturation. -/
def accxValue (acc : DWord) (sh fn : Nat) : Int :=
  shr (acc.toInt + (if fn.testBit 0 && 0 < sh then 2 ^ (sh - 1) else 0)) sh

/-- The word that ACCX writes, and whether it saturated. -/
def accxResult (fn : Nat) (r : Int) : Word × Bool :=
  if fn.testBit 1 then (wrd (satU 32 r), outU 32 r) else sat32 r

theorem accx_runs {v : Word} {b : Bool} (h : s.shotReady 0x0A e f = true)
    (hv : accxResult ((s.shotOf e f).b 4)
      (accxValue (s.eng e).acc ((s.shotOf e f).b 3) ((s.shotOf e f).b 4)) = (v, b)) :
    Runs (.accx e f) s Parts.shot fun t =>
    (t.eng e).op ((s.shotOf e f).b 2) = v ∧ (t.eng e).sat = ((s.eng e).sat || b) ∧
      WroteSlot s e ((s.shotOf e f).b 2) t := by
  have legal := ready_legal h
  simp only [Shot.legal, Bool.and_eq_true] at legal
  have slot : (s.shotOf e f).b 2 < (s.eng e).ops.length := ready_slots h ▸ slot_lt legal.1.1.1
  refine (inner_runs (F := fun c g => let r := accxResult (c.b 4) (accxValue g.acc (c.b 3) (c.b 4))
    (g.setOp (c.b 2) r.1).satIf r.2) (execAccx_does e f s) ?_ h).mono
    fun t ⟨r, done⟩ => ⟨?_, ?_, ?_⟩
  · unfold execAccx
    congr!
    unfold shotAccx accxResult
    dsimp only
    congr!
    split <;> rfl
  · exact (done.op_eq _).trans ((op_setOp _ _ _ slot).trans (congrArg Prod.fst hv))
  · exact done.sat.trans (congrArg ((s.eng e).sat || ·) (congrArg Prod.snd hv))
  · exact done.wroteSlot rfl rfl fun j ne => op_setOp_ne _ _ _ _ ne

end
end Sys2Proof.Machine

namespace Sys2Proof.Machine

set_option Elab.async false

theorem mulSum_eq (fn : Nat) (acc : DWord) (a b : Word) : mulSum fn acc a b =
    (if fn.testBit 0 then acc.toInt else 0) + mulProduct fn a b := by
  unfold mulSum
  split
  · rfl
  · exact (Int.zero_add _).symm

theorem accxValue_plain (acc : DWord) (sh : Nat) {fn : Nat} (h : fn.testBit 0 = false) :
    accxValue acc sh fn = acc.toInt >>> sh := by
  unfold accxValue
  rw [h, shr_eq]
  show (acc.toInt + 0) >>> sh = _
  rw [Int.add_zero]

theorem accxValue_rounded (acc : DWord) {sh fn : Nat} (h : fn.testBit 0 = true) (pos : 0 < sh) :
    accxValue acc sh fn = (acc.toInt + 2 ^ (sh - 1)) >>> sh := by
  unfold accxValue
  rw [h, shr_eq, decide_eq_true pos]
  rfl

theorem accxValue_zero (acc : DWord) (fn : Nat) : accxValue acc 0 fn = acc.toInt := by
  unfold accxValue
  rw [shr_eq, decide_eq_false (Nat.lt_irrefl 0), Bool.and_false, Int.shiftRight_zero]
  exact Int.add_zero _

theorem accxResult_unsigned {fn : Nat} (h : fn.testBit 1 = true) (r : Int) : accxResult fn r =
    (BitVec.ofInt 32 (max 0 (min r 0xFFFFFFFF)), decide (r < 0) || decide (0xFFFFFFFF < r)) := by
  unfold accxResult satU
  rw [h, clampZ_eq (by decide)]
  rfl

section
variable {e : Fin 9} {f : Fetch} {s : State}

theorem clamp_runs (h : s.shotReady 0x0F e f = true) {a lo hi : Int}
    (ha : ((s.shotOf e f).src (s.eng e) ((s.shotOf e f).b 3)).toInt = a)
    (hlo : ((s.shotOf e f).src (s.eng e) ((s.shotOf e f).b 4)).toInt = lo)
    (hhi : ((s.shotOf e f).src (s.eng e) ((s.shotOf e f).b 5)).toInt = hi) : Runs (.clamp e f) s Parts.shot fun t =>
    (t.eng e).op ((s.shotOf e f).b 2) = BitVec.ofInt 32 (min (max a lo) hi) ∧
      (t.eng e).sat = ((s.eng e).sat || decide (min (max a lo) hi ≠ a)) ∧ WroteSlot s e ((s.shotOf e f).b 2) t := by
  subst ha hlo hhi
  have legal := ready_legal h
  simp only [Shot.legal, Bool.and_eq_true] at legal
  refine (compute_runs (execClamp_does e f s) rfl h (slot_lt legal.1.1.1.1)).mono
    fun t ⟨val, sat, tail⟩ => ⟨val, sat.trans ?_, tail⟩
  exact congrArg ((s.eng e).sat || ·) (by simp [bne, Shot.words, Tbl.get, sgn]; rfl)

/-- The word that ABSN writes by FN, and whether it saturated. -/
def absnResult (fn : Nat) (a : Int) : Word × Bool :=
  match fn with
  | 0 => sat32 a.natAbs
  | 1 => sat32 (-a)
  | _ => (wrd a.sign, false)

theorem absn_runs {fn : Nat} (h : s.shotReady 0x10 e f = true) (hfn : (s.shotOf e f).b 4 = fn) :
    Runs (.absn e f) s Parts.shot fun t =>
    (t.eng e).op ((s.shotOf e f).b 2) =
        (absnResult fn ((s.shotOf e f).src (s.eng e) ((s.shotOf e f).b 3)).toInt).1 ∧
      (t.eng e).sat =
        ((s.eng e).sat || (absnResult fn ((s.shotOf e f).src (s.eng e) ((s.shotOf e f).b 3)).toInt).2) ∧
      WroteSlot s e ((s.shotOf e f).b 2) t := by
  subst hfn
  have legal := ready_legal h
  simp only [Shot.legal, Bool.and_eq_true] at legal
  exact compute_runs (execAbsn_does e f s) rfl h (slot_lt legal.1.1.1)

end

/-- Settles O18, each clause by the result of its function field. -/
theorem shotsCompute : Obligations.ShotsCompute := by
  refine ⟨?add, ?sub, ?addS, ?subS, ?addU, ?subU, ?mulSet, ?mulTake, ?mul, ?accx, ?accxRound, ?accxWhole, ?accxU,
    ?clamp, ?abs, ?neg, ?sign⟩
  case add =>
    rintro e f _ _ s h rfl rfl fn
    refine (add_runs h fn (Prod.ext (wrd_sgn_add _ _) rfl)).mono fun t ⟨val, sat, tail⟩ => ⟨val, ?_, tail⟩
    exact sat.trans (Bool.or_false _)
  case sub =>
    rintro e f _ _ s h rfl rfl fn
    refine (add_runs h fn (Prod.ext (wrd_sgn_sub _ _) rfl)).mono fun t ⟨val, sat, tail⟩ => ⟨val, ?_, tail⟩
    exact sat.trans (Bool.or_false _)
  case addS =>
    rintro e f _ _ s h rfl rfl fn
    exact add_runs h fn rfl
  case subS =>
    rintro e f _ _ s h rfl rfl fn
    exact add_runs h fn rfl
  case addU =>
    rintro e f _ _ s h rfl rfl fn
    exact add_runs h fn (addResult_unsigned _ _)
  case subU =>
    rintro e f _ _ s h rfl rfl fn
    exact add_runs h fn (subResult_unsigned _ _)
  case mulSet =>
    rintro e f _ _ s h rfl rfl fn
    exact (mul_runs h (by rw [fn]; rfl)).mono fun t ⟨acc, _, tail⟩ => ⟨acc, tail⟩
  case mulTake =>
    rintro e f _ _ s h rfl rfl fn
    exact (mul_runs h (by rw [fn]; exact Int.sub_eq_add_neg.symm)).mono fun t ⟨acc, _, tail⟩ => ⟨acc, tail⟩
  case mul =>
    rintro e f _ _ p r s h rfl rfl rfl rfl
    exact mul_runs h (mulSum_eq _ _ _ _)
  case accx =>
    rintro e f _ _ s h rfl rfl fn
    have value : accxResult ((s.shotOf e f).b 4) (accxValue (s.eng e).acc ((s.shotOf e f).b 3) ((s.shotOf e f).b 4)) =
        sat32 ((s.eng e).acc.toInt >>> (s.shotOf e f).b 3) := by
      rw [fn, accxValue_plain _ _ rfl]
      rfl
    refine (accx_runs h value).mono fun t ⟨val, sat, tail⟩ => ?_
    exact ⟨val, tail.2.2.2.1, sat, tail.1, tail.2.1, tail.2.2.1, tail.2.2.2.2⟩
  case accxRound =>
    rintro e f _ _ s h rfl rfl fn pos
    exact accx_runs h (by rw [fn, accxValue_rounded _ rfl pos]; rfl)
  case accxWhole =>
    rintro e f _ _ s h rfl rfl fn whole
    exact accx_runs h (by rw [fn, whole, accxValue_zero]; rfl)
  case accxU =>
    rintro e f _ _ r s h rfl rfl fn rfl
    have bit : ((s.shotOf e f).b 4).testBit 1 = true := by rcases fn with fn | fn <;> rw [fn] <;> rfl
    have value : accxValue (s.eng e).acc ((s.shotOf e f).b 3) ((s.shotOf e f).b 4) = ((s.eng e).acc.toInt +
        if (s.shotOf e f).b 4 = 3 ∧ 0 < (s.shotOf e f).b 3 then 2 ^ ((s.shotOf e f).b 3 - 1) else 0) >>>
        ((s.shotOf e f).b 3) := by
      unfold accxValue
      rw [shr_eq]
      rcases fn with fn | fn <;> rw [fn] <;> simp
    refine (accx_runs h (accxResult_unsigned bit _)).mono fun t ⟨val, sat, tail⟩ => ?_
    rw [value] at val sat
    exact ⟨val, sat.trans (Bool.or_assoc _ _ _).symm, tail.2.2.2.1, tail.1, tail.2.1, tail.2.2.1, tail.2.2.2.2⟩
  case clamp =>
    rintro e f _ _ s h rfl rfl
    exact clamp_runs h rfl rfl rfl
  case abs =>
    rintro e f _ _ s h rfl rfl fn
    exact absn_runs h fn
  case neg =>
    rintro e f _ _ s h rfl rfl fn
    exact absn_runs h fn
  case sign =>
    rintro e f _ _ s h rfl rfl fn
    exact (absn_runs h fn).mono fun t ⟨val, sat, tail⟩ => ⟨val, sat.trans (Bool.or_false _), tail⟩

end Sys2Proof.Machine

namespace Sys2Proof.Machine

set_option Elab.async false

/-! ### DIV and ISQRT (R153, R154) -/

/-- The word that DIV writes by SH, and whether it saturated. -/
def divResult (sh : Nat) (a b : Int) : Word × Bool :=
  if b = 0 then (wrd (if 0 < a then 0x7FFFFFFF else if a < 0 then -0x80000000 else 0), true)
  else sat32 (quotZ (a * 2 ^ sh) b)

theorem div_runs {e : Fin 9} {f : Fetch} {s : State} (h : s.shotReady 0x11 e f = true) {v : Word} {b : Bool}
    (hv : divResult ((s.shotOf e f).b 5) ((s.shotOf e f).src (s.eng e) ((s.shotOf e f).b 3)).toInt
      ((s.shotOf e f).src (s.eng e) ((s.shotOf e f).b 4)).toInt = (v, b)) : Runs (.div e f) s Parts.shot fun t =>
    (t.eng e).op ((s.shotOf e f).b 2) = v ∧ (t.eng e).sat = ((s.eng e).sat || b) ∧
      WroteSlot s e ((s.shotOf e f).b 2) t := by
  have legal := ready_legal h
  simp only [Shot.legal, Bool.and_eq_true] at legal
  refine (compute_runs (execDiv_does e f s) rfl h (slot_lt legal.1.1.1.1)).mono fun t ⟨val, sat, tail⟩ => ⟨?_, ?_, tail⟩
  · exact val.trans (congrArg Prod.fst hv)
  · exact sat.trans (congrArg ((s.eng e).sat || ·) (congrArg Prod.snd hv))

theorem divResult_zero (sh : Nat) (a : Int) : divResult sh a 0 =
    (if 0 < a then 0x7FFFFFFF else if a < 0 then 0x80000000 else 0, true) := by
  refine (if_pos rfl).trans (Prod.ext ?_ rfl)
  show wrd _ = _
  split
  · rfl
  · split <;> rfl

/-- Settles O19: a divisor of 0 gives the largest number of the sign of A, and another one the truncated quotient. -/
theorem divTruncates : Obligations.DivTruncates := by
  refine ⟨?quotient, ?zero⟩
  case quotient =>
    rintro e f _ _ s h rfl rfl divisor
    refine div_runs h (if_neg fun z => divisor ?_)
    exact BitVec.eq_of_toInt_eq z
  case zero =>
    rintro e f _ _ s h rfl rfl divisor
    have result := divResult_zero ((s.shotOf e f).b 5) ((s.shotOf e f).src (s.eng e) ((s.shotOf e f).b 3)).toInt
    have saturated := (congrArg (fun b : Word => divResult _ _ b.toInt) divisor).trans result
    refine (div_runs h saturated).mono fun t ⟨val, sat, tail⟩ => ⟨val, ?_, tail⟩
    exact sat.trans (Bool.or_true _)

/-- The bits of the root from `k` down: what lies below the square of `r + 2 ^ k` ends at its integer root. -/
theorem isqrtFrom_spec (n k r : Nat) (low : r ^ 2 ≤ n) (high : n < (r + 2 ^ k) ^ 2) :
    isqrtFrom n k r ^ 2 ≤ n ∧ n < (isqrtFrom n k r + 1) ^ 2 := by
  induction k generalizing r with
  | zero => exact ⟨low, high⟩
  | succ k ih =>
    have half : r + 2 ^ (k + 1) = r + 2 ^ k + 2 ^ k := by rw [Nat.pow_succ]; omega
    unfold isqrtFrom
    split
    next fits => exact ih _ (Nat.pow_two _ ▸ fits) (half ▸ high)
    next large => exact ih _ low (Nat.pow_two _ ▸ Nat.lt_of_not_le large)

theorem isqrt_spec {n : Nat} (h : n < 2 ^ 96) : isqrt n ^ 2 ≤ n ∧ n < (isqrt n + 1) ^ 2 :=
  isqrtFrom_spec n 48 0 (Nat.zero_le n) h

theorem isqrt_lt {n k : Nat} (h : n < (2 ^ k) ^ 2) (big : n < 2 ^ 96) : isqrt n < 2 ^ k :=
  lt_of_pow_lt_pow_left₀ 2 (Nat.zero_le _) ((isqrt_spec big).1.trans_lt h)

section
variable {e : Fin 9} {f : Fetch} {s : State}

theorem isqrt_runs (h : s.shotReady 0x12 e f = true) : Runs (.isqrt e f) s Parts.shot fun t =>
    (t.eng e).op ((s.shotOf e f).b 2) = u32 (isqrt (((s.shotOf e f).src (s.eng e) ((s.shotOf e f).b 3)).toNat *
      2 ^ (s.shotOf e f).b 4)) ∧ WroteSlot s e ((s.shotOf e f).b 2) t := by
  have legal := ready_legal h
  simp only [Shot.legal, Bool.and_eq_true] at legal
  exact (compute_runs (execIsqrt_does e f s) rfl h (slot_lt legal.1.1.1.1)).mono fun t ⟨val, _, tail⟩ => ⟨val, tail⟩

/-- A shot word of another form than its opcode's raises ILLEGAL_SHOT, found by an engine in the same state (R132,
R138). -/
theorem runShot_illegal {op : Nat} (eff : Effect) (run : (s.eng e).exec = true) (lo : f.lo ≠ .uncorr)
    (hi : f.hi ≠ .uncorr) (code : (s.shotOf e f).b 0 = op) (form : (s.shotOf e f).legal op = false) :
    ∃ u : State, u.engState e = s.engState e ∧ s.runShot op e f eff = u.shotFault e 1 := by
  refine ⟨(s.corrected e [f.lo, f.hi]).modEng e fun g =>
    { g with fetch := u32 (crc32Reg g.fetch.toNat (dwordBytes (s.shotOf e f).w)) }, ?_, ?_⟩
  · exact ((State.corrected_does s e [f.lo, f.hi]).aside e.isLt).fld rfl
  · unfold State.runShot
    simp only [run, lo, hi, code, form, beq_iff_eq, Bool.not_true, Bool.false_eq_true, if_false, Bool.or_eq_true,
      or_self, ne_eq, not_true_eq_false, decide_false, Bool.false_and, Bool.not_false, Bool.or_true, if_true]

/-- What a fault found by a shot does to a running engine other than ES. -/
theorem shotFault_faulted {s : State} {e c : Nat} (he : e < 8) (run : s.engState e = stRunning) (hc : 1 ≤ c ∧ c ≤ 16) :
    Faulted e c s (s.shotFault e c) := watchedFault_faulted _ he run hc

theorem isqrt_odd (powered : s.powered = true) (exec : (s.eng e).exec = true) (run : s.engState e = stRunning)
    (lo : f.lo ≠ .uncorr) (hi : f.hi ≠ .uncorr) (code : (s.shotOf e f).b 0 = 0x12) (odd : (s.shotOf e f).b 4 % 2 = 1)
    (es : e.val < 8) : Runs (.isqrt e f) s Parts.shot fun t => t.raised 0x0401 = true ∧ (t.eng e).exec = false := by
  have form : (s.shotOf e f).legal 0x12 = false := by simp [Shot.legal, odd]
  refine runs_meaning (execIsqrt_does e f s) powered ?_
  obtain ⟨u, still, fault⟩ := runShot_illegal shotIsqrt exec lo hi code form
  rw [fault]
  have fault := shotFault_faulted (c := 1) es (still.trans run) (by decide)
  have raised := fault.raised
  rw [engineCode_eng es] at raised
  exact ⟨raised, fault.exec⟩

end

/-- Settles O20: the root is the floor by the invariant of the bitwise search, and an odd SH is no legal word. -/
theorem isqrtFloor : Obligations.IsqrtFloor := by
  refine ⟨?root, ?odd⟩
  case root =>
    rintro e f _ _ s h rfl rfl
    have legal := ready_legal h
    simp only [Shot.legal, Bool.and_eq_true, decide_eq_true_eq] at legal
    have bound : ((s.shotOf e f).src (s.eng e) ((s.shotOf e f).b 3)).toNat * 2 ^ (s.shotOf e f).b 4 < (2 ^ 31) ^ 2 :=
      calc _ < 2 ^ 32 * 2 ^ (s.shotOf e f).b 4 := Nat.mul_lt_mul_of_pos_right (BitVec.isLt _) (Nat.two_pow_pos _)
        _ ≤ 2 ^ 32 * 2 ^ 30 := Nat.mul_le_mul_left _ (Nat.pow_le_pow_right (by decide) legal.1.1.2)
    have big := bound.trans (by decide : (2 ^ 31) ^ 2 < 2 ^ 96)
    have small := isqrt_lt bound big
    refine (isqrt_runs h).mono fun t ⟨val, tail⟩ => ?_
    have root : ((t.eng e).op ((s.shotOf e f).b 2)).toNat = isqrt _ :=
      (congrArg BitVec.toNat val).trans (BitVec.toNat_ofNat _ _ |>.trans (Nat.mod_eq_of_lt (small.trans (by decide))))
    rw [root]
    exact ⟨(isqrt_spec big).1, (isqrt_spec big).2, small, tail⟩
  case odd =>
    intro e f s powered exec run lo hi code odd es
    exact isqrt_odd powered exec run lo hi code odd es

end Sys2Proof.Machine

namespace Sys2Proof.Machine

set_option Elab.async false

/-! ### LOGIC, SHIFT, CMP and SEL (R147, R152) -/

section
variable {e : Fin 9} {f : Fetch} {s : State}

/-- The word that LOGIC writes by FN. -/
def logicResult (fn : Nat) (a b : Word) : Word :=
  match fn with | 0 => a &&& b | 1 => a ||| b | 2 => a ^^^ b | _ => a &&& ~~~b

/-- The word that SHIFT writes by FN. -/
def shiftResult (fn : Nat) (a : Word) (k : Nat) : Word :=
  match fn with | 0 => a <<< k | 1 => a >>> k | 2 => a.sshiftRight k | _ => a.rotateRight (k % 32)

/-- What CMP tests by FN. -/
def cmpResult (fn : Nat) (a b : Word) : Bool :=
  match fn with
  | 0 => a == b | 1 => a != b | 2 => decide (sgn a < sgn b) | 3 => decide (sgn a ≤ sgn b)
  | 4 => decide (sgn b < sgn a) | 5 => decide (sgn b ≤ sgn a) | 6 => decide (a.toNat < b.toNat)
  | 7 => decide (b.toNat ≤ a.toNat) | _ => a.msb == b.msb

theorem logicResult_eq (fn : Nat) (a b : Word) : logicResult fn a b =
    if fn = 0 then a &&& b else if fn = 1 then a ||| b else if fn = 2 then a ^^^ b else a &&& ~~~b :=
  match fn with
  | 0 => rfl
  | 1 => rfl
  | 2 => rfl
  | _ + 3 => rfl

theorem shiftResult_eq (fn : Nat) (a b : Word) : shiftResult fn a (b.toNat % 64) =
    if fn = 0 then a <<< (b.toNat % 64) else if fn = 1 then a >>> (b.toNat % 64)
    else if fn = 2 then a.sshiftRight (b.toNat % 64) else a.rotateRight (b.toNat % 32) :=
  match fn with
  | 0 => rfl
  | 1 => rfl
  | 2 => rfl
  | _ + 3 => congrArg a.rotateRight (Nat.mod_mod_of_dvd _ (by decide : 32 ∣ 64))

theorem cmpResult_eq (fn : Nat) (a b : Word) : cmpResult fn a b =
    if fn = 0 then a == b else if fn = 1 then a != b else if fn = 2 then a.slt b else if fn = 3 then a.sle b
    else if fn = 4 then b.slt a else if fn = 5 then b.sle a else if fn = 6 then a.ult b
    else if fn = 7 then b.ule a else a.msb == b.msb :=
  match fn with
  | 0 => rfl
  | 1 => rfl
  | 2 => rfl
  | 3 => rfl
  | 4 => rfl
  | 5 => rfl
  | 6 => rfl
  | 7 => rfl
  | _ + 8 => rfl

theorem logic_writes (h : s.shotReady 0x0B e f = true) : Runs (.logic e f) s Parts.shot fun t =>
    (t.eng e).op ((s.shotOf e f).b 2) = logicResult ((s.shotOf e f).b 5)
      ((s.shotOf e f).src (s.eng e) ((s.shotOf e f).b 3)) ((s.shotOf e f).src (s.eng e) ((s.shotOf e f).b 4)) ∧
      WroteSlot s e ((s.shotOf e f).b 2) t := by
  have legal := ready_legal h
  simp only [Shot.legal, Bool.and_eq_true] at legal
  exact (compute_runs (execLogic_does e f s) rfl h (slot_lt legal.1.1.1.1)).mono
    fun t ⟨val, _, tail⟩ => ⟨val, tail⟩

theorem shift_writes (h : s.shotReady 0x0C e f = true) : Runs (.shift e f) s Parts.shot fun t =>
    (t.eng e).op ((s.shotOf e f).b 2) = shiftResult ((s.shotOf e f).b 5)
      ((s.shotOf e f).src (s.eng e) ((s.shotOf e f).b 3))
      (((s.shotOf e f).src (s.eng e) ((s.shotOf e f).b 4)).toNat % 64) ∧
      WroteSlot s e ((s.shotOf e f).b 2) t := by
  have legal := ready_legal h
  simp only [Shot.legal, Bool.and_eq_true] at legal
  exact (compute_runs (execShift_does e f s) rfl h (slot_lt legal.1.1.1.1)).mono
    fun t ⟨val, _, tail⟩ => ⟨val, tail⟩

theorem cmp_writes (h : s.shotReady 0x0D e f = true) : Runs (.cmp e f) s Parts.shot fun t =>
    (t.eng e).op ((s.shotOf e f).b 2) = maskOf (cmpResult ((s.shotOf e f).b 5)
      ((s.shotOf e f).src (s.eng e) ((s.shotOf e f).b 3)) ((s.shotOf e f).src (s.eng e) ((s.shotOf e f).b 4))) ∧
      WroteSlot s e ((s.shotOf e f).b 2) t := by
  have legal := ready_legal h
  simp only [Shot.legal, Bool.and_eq_true] at legal
  exact (compute_runs (execCmp_does e f s) rfl h (slot_lt legal.1.1.1.1)).mono
    fun t ⟨val, _, tail⟩ => ⟨val, tail⟩

theorem sel_writes (h : s.shotReady 0x0E e f = true) : Runs (.sel e f) s Parts.shot fun t =>
    (t.eng e).op ((s.shotOf e f).b 2) =
      (((s.shotOf e f).src (s.eng e) ((s.shotOf e f).b 4)) &&& (s.eng e).op ((s.shotOf e f).b 3)) |||
        (((s.shotOf e f).src (s.eng e) ((s.shotOf e f).b 5)) &&& ~~~(s.eng e).op ((s.shotOf e f).b 3)) ∧
      WroteSlot s e ((s.shotOf e f).b 2) t := by
  have legal := ready_legal h
  simp only [Shot.legal, Bool.and_eq_true] at legal
  exact (compute_runs (execSel_does e f s) rfl h (slot_lt legal.1.1.1.1)).mono
    fun t ⟨val, _, tail⟩ => ⟨val, tail⟩

end

/-- Settles O21, each shot by the word that its function field names. -/
theorem shotsSelect : Obligations.ShotsSelect := by
  refine ⟨?logic, ?shift, ?cmp, ?sel⟩
  case logic =>
    rintro e f _ _ s h rfl rfl
    exact (logic_writes h).mono fun t ⟨val, tail⟩ => ⟨val.trans (logicResult_eq _ _ _), tail⟩
  case shift =>
    rintro e f _ _ s h rfl rfl
    exact (shift_writes h).mono fun t ⟨val, tail⟩ => ⟨val.trans (shiftResult_eq _ _ _), tail⟩
  case cmp =>
    rintro e f _ _ s h rfl rfl
    exact (cmp_writes h).mono fun t ⟨val, tail⟩ => ⟨val.trans (congrArg maskOf (cmpResult_eq _ _ _)), tail⟩
  case sel =>
    rintro e f _ _ s h rfl rfl
    exact sel_writes h

end Sys2Proof.Machine

namespace Sys2Proof.Machine

set_option Elab.async false

/-! ### The words of ES toward D11 (R27, R30, R175) -/

/-- ES runs a list whose next shot is a MIRR of one word. -/
def esMirroring : State :=
  { State.reset with
    sys := { mode := .run, inReset := false }
    engs := List.replicate 8 {} ++ [{ exec := true }]
    reel := { active := { esPages := [{ shots := [0x000000000100001C, 0] }] }
              struct := { engines := [{ axis := 0, engine := 0, pos := 0 }] } } }

theorem esMirroring_ready : esMirroring.shotReady 0x1C 8 {} = true := by decide +kernel

theorem esMirroring_waits : (esMirroring.runShot 0x1C 8 {} shotMirr).settle.queue ⟨18, 18⟩ = [] := by decide +kernel

/-- Refutes O25, at its clause on MIRR, for ES: the clause has the words of each engine wait in its crossing to D11, and
ES, which stands in D11, has none (R27, R30), so its word reaches the mirror at once. -/
theorem not_shotsLaunchWords : ¬ Obligations.ShotsLaunchWords := by
  intro ⟨_, _, mirr⟩
  obtain ⟨t, next, -, queue, -⟩ := mirr 8 {} _ _ _ esMirroring esMirroring_ready rfl rfl rfl (by decide +kernel)
  obtain rfl : (esMirroring.runShot 0x1C 8 {} shotMirr).settle = t := Host.Outcome.next.inj next
  have one : ((esMirroring.runShot 0x1C 8 {} shotMirr).settle.queue ⟨18, 18⟩).length = 1 := by
    rw [show (⟨18, 18⟩ : Xing) = ⟨engUnit (8 : Fin 9), 18⟩ from rfl, queue]
    decide +kernel
  rw [esMirroring_waits] at one
  exact absurd one (by decide)

/-! ### A test window with a word saved twice (R512, R515) -/

/-- E0 runs a list whose next shot is a BST of slots 0 to 6 to a block at 0x120 of its bank. No word carries an error,
and the test window on the row of the block holds the word at 0x120 corrected, listed twice. -/
def storingInWindow : State :=
  let s := { State.reset with
    sys := { mode := .run, inReset := false }
    engs := { exec := true } :: List.replicate 8 {}
    mem := { banks := [{ healed := [0x120, 0x120] }] }
    reel := { active := { pages := [{ shots := [0x0000000001000006, 0], consts := [0x100] }] }
              struct := { engines := [{ axis := 0, engine := 0, pos := 0 }] } } }
  ((s.put (MEM_B_OWN.OWNER 0) 7).put (MEM_B_STAT.TEST_BUSY 0) 1).put (MEM_B_STAT.TEST_ROW 0) 4

theorem storingInWindow_faults : ((storingInWindow.runShot 0x06 0 {} shotBst).settle.eng 0).shots = 0 := by
  decide +kernel

/-- Refutes O24, at its clause on BST: the store leaves the test window, which plants the corrected word's error once
per entry of its list, and two of them make the word dead; so the block does not read back, and the shot faults (R512, R515)
though no word carried an error before it. -/
theorem not_blocksLoadAndStore : ¬ Obligations.BlocksLoadAndStore := by
  intro ⟨_, bst, _⟩
  obtain ⟨t, next, -, -, -, -, shots, -⟩ :=
    bst 0 {} _ _ _ storingInWindow (by decide +kernel) rfl rfl rfl rfl (by decide +kernel)
  obtain rfl : (storingInWindow.runShot 0x06 0 {} shotBst).settle = t := Host.Outcome.next.inj next
  rw [show ((0 : Fin 9) : Nat) = 0 from rfl, storingInWindow_faults] at shots
  exact absurd shots (by decide)

end Sys2Proof.Machine

namespace Sys2Proof.Machine

set_option Elab.async false

/-! ### A cut at which an axis without samples enters its safe state (R264, R265, R279) -/

/-- D6 has judged the frame just ended. -/
def State.judged (s : State) : State :=
  (s.advanceTo s.clk.nextCut).safeEntry.countCut.refCut.uncertainCut.modulatorCut s.ranLists (s.clk.frames.toNat % 8)

/-- After D6's decisions nothing of a cut counts a discarded pair. -/
theorem frameCut_discard (s : State) :
    s.frameCut.fld (MOD_AX_CNT.DISCARD 3) = s.judged.fld (MOD_AX_CNT.DISCARD 3) := by
  unfold State.frameCut State.endFrame State.judged
  dsimp only
  refine ((State.newFrame_does _).fld (by decide)).trans (((State.fallbackStart_does _).fld (by decide)).trans ?_)
  refine ((State.openWords_does _ _).fld (by decide)).trans (((State.openBlocks_does _).fld (by decide)).trans ?_)
  refine ((State.sensorWatch_does _).fld (by decide)).trans (((State.modeEffects_does _).fld (by decide)).trans ?_)
  refine ((State.autoRunCut_does _).fld (by decide)).trans (((State.degradeCut_does _).fld (by decide)).trans ?_)
  refine ((State.releaseCut_does _).fld (by decide)).trans (((State.recoveryCut_does _ _).fld (by decide)).trans ?_)
  refine (each_pres (fun u => u.fld (MOD_AX_CNT.DISCARD 3))
    (fun u e => (State.engineCut_does u e).fld (by decide)) _ _).trans ?_
  refine (each_pres (fun u => u.fld (MOD_AX_CNT.DISCARD 3))
    (fun u n => (State.camEmpty_does u n).fld (by decide)) _ _).trans ?_
  refine ((State.axesCut_does _).fld (by decide)).trans ?_
  exact when_pres (fun u => u.fld (MOD_AX_CNT.DISCARD 3)) _ _ ((State.mirrorCut_does _).fld (by decide))

/-- The end of a frame in RUN: axis 3, in DRIVE, has got no sample for three frames and none in this one, and D6 holds a
set-point pair for it whose END is missing. -/
def missingSamples : State :=
  { State.reset with
    sys := { mode := .run, inReset := false }
    clk := { cutsOn := true, phase := .sealed }
    mods := List.replicate 12 { bmode := 0, pa := { missRun := 3 }, pairs := [{ eng := 0, w0 := 0 }] }
    reel := { struct := { engines := [{ axis := 3, engine := 0, pos := 0 }] } } }.put (MOD_AX_STAT.FIRST_WAIT 3) 0

/-- The fourth frame without a sample puts axis 3 into its safe state before its pair is judged. -/
theorem missingSamples_judged : missingSamples.judged.fld (MOD_AX_CNT.DISCARD 3) = 0 := by decide +kernel

/-- Refutes O27, at its clause on a pair whose END is missing: at the cut that ends the fourth frame without a sample
the axis enters its safe state (NO_SAMPLE) before the pair is judged, and a pair of an axis in its safe state does not count
as discarded. -/
theorem not_setpointPairStored : ¬ Obligations.SetpointPairStored := by
  intro ⟨_, _, _, _, _, _, endMissing, _⟩
  obtain ⟨t, next, -, -, discard, -⟩ := endMissing 3 _ _ missingSamples rfl rfl rfl (by decide +kernel)
    (by decide +kernel) rfl rfl rfl rfl (by decide +kernel) (by decide +kernel) rfl rfl (by decide +kernel)
    (by decide +kernel) (by decide +kernel)
  obtain rfl : missingSamples.frameCut.settle = t := Host.Outcome.next.inj next
  rw [show ((3 : Fin 12) : Nat) = 3 from rfl, (State.settle_does _).fld (by decide), frameCut_discard,
    missingSamples_judged] at discard
  exact absurd discard (by decide +kernel)

end Sys2Proof.Machine

namespace Sys2Proof.Machine

set_option Elab.async false

/-! ### Several slots written in order (R144) -/

section
variable (l : List Word) (g : Eng) (d : Nat)

/-- What of an engine is not its slots passes through the writing of several. -/
theorem Eng.setOps_pres {α : Type} (p : Eng → α) (h : ∀ g i v, p (Eng.setOp g i v) = p g) : p (g.setOps d l) = p g := by
  induction l generalizing g d with
  | nil => rfl
  | cons v l ih => exact (ih _ _).trans (h g d v)

@[simp] theorem Eng.acc_setOps : (g.setOps d l).acc = g.acc := Eng.setOps_pres l g d Eng.acc fun _ _ _ => rfl
@[simp] theorem Eng.sat_setOps : (g.setOps d l).sat = g.sat := Eng.setOps_pres l g d Eng.sat fun _ _ _ => rfl
@[simp] theorem Eng.inp_setOps : (g.setOps d l).inp = g.inp := Eng.setOps_pres l g d Eng.inp fun _ _ _ => rfl
@[simp] theorem Eng.shots_setOps : (g.setOps d l).shots = g.shots := Eng.setOps_pres l g d Eng.shots fun _ _ _ => rfl
@[simp] theorem Eng.cycles_setOps : (g.setOps d l).cycles = g.cycles :=
  Eng.setOps_pres l g d Eng.cycles fun _ _ _ => rfl
@[simp] theorem Eng.length_ops_setOps : (g.setOps d l).ops.length = g.ops.length :=
  Eng.setOps_pres l g d (fun g => g.ops.length) fun g i v => Eng.length_ops_setOp g i v

end

theorem op_setOps_ne (l : List Word) (g : Eng) {d j : Nat} (h : j < d ∨ d + l.length ≤ j) :
    (g.setOps d l).op j = g.op j := by
  induction l generalizing g d with
  | nil => rfl
  | cons v l ih =>
    rw [List.length_cons] at h
    exact (ih _ (by omega)).trans (op_setOp_ne g d j v (by omega))

theorem op_setOps (l : List Word) (g : Eng) {d k : Nat} (hk : k < l.length) (room : d + l.length ≤ g.ops.length) :
    (g.setOps d l).op (d + k) = Tbl.get 0 l k := by
  induction l generalizing g d k with
  | nil => exact absurd hk (Nat.not_lt_zero k)
  | cons v l ih =>
    rw [List.length_cons] at hk room
    cases k with
    | zero => exact (op_setOps_ne l _ (.inl (Nat.lt_succ_self d))).trans (op_setOp g d v (by omega))
    | succ k =>
      have next := ih (g.setOp d v) (d := d + 1) (k := k) (by omega) (by rw [Eng.length_ops_setOp]; omega)
      rw [show d + (k + 1) = d + 1 + k by omega]
      exact next

theorem ops_setOps_congr (l : List Word) {g g' : Eng} (d : Nat) (h : g.ops = g'.ops) :
    (g.setOps d l).ops = (g'.setOps d l).ops := by
  induction l generalizing g g' d with
  | nil => exact h
  | cons v l ih => exact ih (d + 1) (congrArg (Tbl.mod · d fun _ => v) h)

/-- Engine `e` has done one more shot, which writes neither the input area nor the accumulator. -/
def ShotCounted (s : State) (e : Fin 9) (t : State) : Prop :=
  (t.eng e).shots = (s.eng e).shots + 1 ∧ (∀ k < 9, k ≠ e.val → t.eng k = s.eng k) ∧ (t.eng e).inp = (s.eng e).inp ∧
    (t.eng e).acc = (s.eng e).acc

/-- From slot `d` on engine `e` holds the words `l`, and the other slots are as they were. -/
structure WroteSlots (s : State) (e : Fin 9) (d : Nat) (l : List Word) (t : State) : Prop where
  here : ∀ k < l.length, (t.eng e).op (d + k) = Tbl.get 0 l k
  rest : ∀ j, j < d ∨ d + l.length ≤ j → (t.eng e).op j = (s.eng e).op j

section
variable {s t : State} {e : Fin 9} {n : Nat} {h : Eng}

theorem ShotDone.counted (done : ShotDone s e n h t) (inp : h.inp = (s.eng e).inp) (acc : h.acc = (s.eng e).acc) :
    ShotCounted s e t :=
  ⟨done.shots, done.others, done.inp.trans inp, done.acc.trans acc⟩

theorem ShotDone.wroteSlots {d : Nat} {l : List Word} (done : ShotDone s e n h t)
    (ops : h.ops = ((s.eng e).setOps d l).ops) (room : d + l.length ≤ (s.eng e).ops.length) : WroteSlots s e d l t := by
  have op : ∀ j, (t.eng e).op j = ((s.eng e).setOps d l).op j := fun j => congrArg (Tbl.get 0 · j) (done.ops.trans ops)
  exact ⟨fun k hk => (op _).trans (op_setOps l _ hk room), fun j out => (op j).trans (op_setOps_ne l _ out)⟩

end

/-! ### ROT (R157) -/

theorem cordicVector_step (a : Int) (l : List Int) (i : Nat) (x y z : Int) :
    (0 ≤ y → cordicVector (a :: l) i x y z = cordicVector l (i + 1) (x + y >>> i) (y - x >>> i) (z + a)) ∧
    (y < 0 → cordicVector (a :: l) i x y z = cordicVector l (i + 1) (x - y >>> i) (y + x >>> i) (z - a)) := by
  rw [← shr_eq, ← shr_eq]
  exact ⟨fun h => if_pos h, fun h => if_neg (Int.not_le.mpr h)⟩

theorem lowS_eq (z : Int) : lowS 32 z = (BitVec.ofInt 32 z).toInt := (BitVec.toInt_ofInt z).symm

theorem cordicRotate_step (a : Int) (l : List Int) (i : Nat) (x y z : Int) :
    (0 ≤ (BitVec.ofInt 32 z).toInt →
      cordicRotate (a :: l) i x y z = cordicRotate l (i + 1) (x - y >>> i) (y + x >>> i) (z - a)) ∧
    ((BitVec.ofInt 32 z).toInt < 0 →
      cordicRotate (a :: l) i x y z = cordicRotate l (i + 1) (x + y >>> i) (y - x >>> i) (z + a)) := by
  rw [← shr_eq, ← shr_eq, ← lowS_eq]
  exact ⟨fun h => if_pos h, fun h => if_neg (Int.not_le.mpr h)⟩

theorem cordicScale_eq (x : Int) : cordicScale x = (x * 0x9B74EDA8) >>> (32 : Nat) := shr_eq _ _

/-- The vector that VECTOR starts from, turned by half a turn for a negative `a`, and its result. -/
def rotVector (a b : Int) : Int × Int :=
  if a < 0 then cordicVector arctans 0 (-a) (-b) 0x80000000 else cordicVector arctans 0 a b 0

/-- ROTATE of the vector by the angle `z`, turned by half a turn where `z` lies beyond a quarter. -/
def rotRotate (a b z : Int) : Int × Int :=
  if 0x40000000 ≤ z ∧ z < 0xC0000000 then cordicRotate arctans 0 (-a) (-b) (z - 0x80000000)
  else cordicRotate arctans 0 a b z

/-- The two words that ROT writes, and whether one was saturated. -/
def rotResult (mode : Nat) (a b z : Int) : List Word × Bool :=
  if mode = 0 then
    let r := rotVector a b
    ([wrd r.2, wrd (satS 32 (cordicScale r.1))], outS 32 (cordicScale r.1))
  else
    let r := rotRotate a b z
    ([wrd (satS 32 (cordicScale r.1)), wrd (satS 32 (cordicScale r.2))],
      outS 32 (cordicScale r.1) || outS 32 (cordicScale r.2))

theorem rotResult_length (mode : Nat) (a b z : Int) : (rotResult mode a b z).1.length = 2 := by
  unfold rotResult
  split <;> rfl

/-- ROT on the engine `g`. -/
def rotEng (c : Shot) (g : Eng) : Eng :=
  let r := rotResult (c.b 6) (c.src g (c.b 3)).toInt (c.src g (c.b 4)).toInt (c.src g (c.b 5)).toNat
  ((g.missIf (c.untagged g (c.b 3) || c.untagged g (c.b 4) || (c.b 6 == 1 && c.untagged g (c.b 5)))).setOps (c.b 2)
    r.1).satIf r.2

theorem shotRot_eq : shotRot = inner rotEng := by
  unfold shotRot rotEng rotResult
  congr
  funext c g
  dsimp only
  split
  · rfl
  · unfold rotRotate
    simp only [Bool.and_eq_true, decide_eq_true_eq]
    rfl

section
variable {e : Fin 9} {f : Fetch} {s : State}

theorem rot_runs {l : List Word} (h : s.shotReady 0x14 e f = true)
    (hl : (rotResult ((s.shotOf e f).b 6) ((s.shotOf e f).src (s.eng e) ((s.shotOf e f).b 3)).toInt
      ((s.shotOf e f).src (s.eng e) ((s.shotOf e f).b 4)).toInt
      ((s.shotOf e f).src (s.eng e) ((s.shotOf e f).b 5)).toNat).1 = l) : Runs (.rot e f) s Parts.shot fun t =>
    ShotCounted s e t ∧ WroteSlots s e ((s.shotOf e f).b 2) l t := by
  subst hl
  have legal := ready_legal h
  simp only [Shot.legal, Bool.and_eq_true] at legal
  refine (inner_runs (F := rotEng) (execRot_does e f s) (by rw [← shotRot_eq]; rfl) h
    fun c g => ⟨Eng.shots_setOps _ _ _, Eng.cycles_setOps _ _ _⟩).mono fun t ⟨r, done⟩ => ⟨?_, ?_⟩
  · exact done.counted (Eng.inp_setOps _ _ _) (Eng.acc_setOps _ _ _)
  · refine done.wroteSlots (ops_setOps_congr _ _ rfl) ?_
    rw [rotResult_length, ready_slots h]
    exact Shot.slots_le legal.1.1.1.1

theorem rotVector_ahead {a : Int} (b : Int) (h : 0 ≤ a) : rotVector a b = cordicVector arctans 0 a b 0 :=
  if_neg (Int.not_lt.mpr h)

theorem rotVector_behind {a : Int} (b : Int) (h : a < 0) :
    rotVector a b = cordicVector arctans 0 (-a) (-b) 0x80000000 := if_pos h

theorem rotRotate_behind (a b : Int) {z : Nat} (low : 0x40000000 ≤ z) (high : z < 0xC0000000) :
    rotRotate a b z = cordicRotate arctans 0 (-a) (-b) ((z : Int) - 0x80000000) := if_pos (by omega)

theorem rotRotate_ahead (a b : Int) {z : Nat} (h : z < 0x40000000 ∨ 0xC0000000 ≤ z) :
    rotRotate a b z = cordicRotate arctans 0 a b z := if_neg (by omega)

theorem rotResult_vector {mode : Nat} {a b z : Int} {r : Int × Int} (h : mode = 0) (hr : rotVector a b = r) :
    (rotResult mode a b z).1 =
      [BitVec.ofInt 32 r.2, BitVec.ofInt 32 (satS 32 ((r.1 * 0x9B74EDA8) >>> (32 : Nat)))] := by
  unfold rotResult
  rw [if_pos h, hr, ← cordicScale_eq]
  rfl

theorem rotResult_rotate {mode : Nat} {a b z : Int} {r : Int × Int} (h : mode = 1) (hr : rotRotate a b z = r) :
    (rotResult mode a b z).1 = [BitVec.ofInt 32 (satS 32 ((r.1 * 0x9B74EDA8) >>> (32 : Nat))),
      BitVec.ofInt 32 (satS 32 ((r.2 * 0x9B74EDA8) >>> (32 : Nat)))] := by
  unfold rotResult
  rw [if_neg (by rw [h]; decide), hr, ← cordicScale_eq, ← cordicScale_eq]
  rfl

/-- A shot that wrote two slots, in the words of the obligations. -/
theorem WroteSlots.two {d : Nat} {v w : Word} {t : State} (h : WroteSlots s e d [v, w] t)
    (counted : ShotCounted s e t) :
    (t.eng e).op d = v ∧ (t.eng e).op (d + 1) = w ∧ (t.eng e).shots = (s.eng e).shots + 1 ∧
      (∀ k < 9, k ≠ e.val → t.eng k = s.eng k) ∧ (t.eng e).inp = (s.eng e).inp ∧ (t.eng e).acc = (s.eng e).acc ∧
      ∀ j < 32, j ≠ d → j ≠ d + 1 → (t.eng e).op j = (s.eng e).op j := by
  obtain ⟨shots, others, inp, acc⟩ := counted
  refine ⟨h.here 0 (by decide : 0 < 2), h.here 1 (by decide : 1 < 2), shots, others, inp, acc, fun j _ ne ne' => ?_⟩
  exact h.rest j (show j < d ∨ d + 2 ≤ j by omega)

end

/-! ### RAMP (R161) -/

section
variable {e : Fin 9} {f : Fetch} {s : State}

theorem rampEval_eq {pos vel frac a b : Word} {v p l x y q : Int} (hv : v = vel.toInt * 256 + (frac.toNat % 256 : Nat))
    (hp : p = pos.toInt * 2 ^ 24 + (frac.toNat / 256 : Nat)) (hl : l = b.toInt * 256)
    (hx : x = if (0 < a.toInt ∧ l < v + a.toInt) ∨ (a.toInt < 0 ∧ v + a.toInt < l) then l else v + a.toInt)
    (hy : y = satS 40 x) (hq : q = p + (v + y) >>> (1 : Nat)) : rampEval pos vel frac a b =
      ([BitVec.ofInt 32 (q >>> (24 : Nat)), BitVec.ofInt 32 (y >>> (8 : Nat)),
        BitVec.ofInt 32 (q % 2 ^ 24 * 256 + y % 256)], y == l, outS 40 x) := by
  subst hq hy hx hp hl hv
  unfold rampEval
  simp only [shr_eq, Bool.or_eq_true, Bool.and_eq_true, decide_eq_true_eq]
  rfl

theorem ramp_runs {l : List Word} {m sat : Bool} (h : s.shotReady 0x17 e f = true) (three : l.length = 3)
    (hr : rampEval ((s.eng e).op ((s.shotOf e f).b 2)) ((s.eng e).op ((s.shotOf e f).b 2 + 1))
      ((s.eng e).op ((s.shotOf e f).b 2 + 2)) ((s.shotOf e f).src (s.eng e) ((s.shotOf e f).b 3))
      ((s.shotOf e f).src (s.eng e) ((s.shotOf e f).b 4)) = (l, m, sat))
    (apart : (s.shotOf e f).b 5 < (s.shotOf e f).b 2 ∨ (s.shotOf e f).b 2 + 3 ≤ (s.shotOf e f).b 5) :
    Runs (.ramp e f) s Parts.shot fun t =>
      (∀ k < 3, (t.eng e).op ((s.shotOf e f).b 2 + k) = Tbl.get 0 l k) ∧ (t.eng e).op ((s.shotOf e f).b 5) = maskOf m ∧
      (t.eng e).sat = ((s.eng e).sat || sat) ∧ ShotCounted s e t ∧
      ∀ j < 32, j < (s.shotOf e f).b 2 ∨ (s.shotOf e f).b 2 + 3 ≤ j → j ≠ (s.shotOf e f).b 5 →
        (t.eng e).op j = (s.eng e).op j := by
  have legal := ready_legal h
  simp only [Shot.legal, Bool.and_eq_true] at legal
  obtain ⟨⟨⟨⟨slots, -⟩, -⟩, mask⟩, -⟩ := legal
  have room := Shot.slots_le slots
  have slot := slot_lt mask
  have len := ready_slots h
  refine (inner_runs (execRamp_does e f s) rfl h
    fun c g => ⟨Eng.shots_setOps _ _ _, Eng.cycles_setOps _ _ _⟩).mono fun t ⟨r, done⟩ => ?_
  simp only [Eng.op_fetching, Shot.src_fetching, hr] at done
  refine ⟨fun k hk => ?_, ?_, ?_, ?_, fun j _ out ne => ?_⟩
  · refine (done.op_eq _).trans ((op_setOp_ne _ _ _ _ (by omega)).trans (op_setOps l _ (three.symm ▸ hk) ?_))
    exact three.symm ▸ room.trans_eq len.symm
  · refine (done.op_eq _).trans (op_setOp _ _ _ ?_)
    rw [Eng.length_ops_setOps]
    exact slot.trans_eq len.symm
  · exact done.sat.trans (congrArg (· || sat) (Eng.sat_setOps _ _ _))
  · exact done.counted (Eng.inp_setOps _ _ _) (Eng.acc_setOps _ _ _)
  · exact (done.op_eq _).trans ((op_setOp_ne _ _ _ _ ne).trans (op_setOps_ne l _ (three.symm ▸ out)))

end

/-! ### STEPI (R163) -/

section
variable {e : Fin 9} {f : Fetch} {s : State}

/-- A word of the feedback as STEPI reads it. -/
def stepiRead (x : InWord) : Word := if x.tag then x.w else 0

/-- The step count of STEPI from the words of the feedback by the scale `sc`. -/
def stepiValue (x y : InWord) (sc : Int) : Int :=
  let t := (stepiRead y).toNat
  let age : Int := (t % 65536 : Nat)
  let period : Int := (t / 65536 % 32768 : Nat)
  let part : Int := if period = 0x7FFF || period = 0 then 0 else min (quotZ (sc * age) period) (sc - 1)
  sgn (stepiRead x) * sc + (if !(x.tag && y.tag) then 0 else if t.testBit 31 then -part else part)

/-- The scale of STEPI by its operand. -/
def stepiScale (n : Nat) : Int := if n = 0 || 1024 < n then 1024 else (n : Int)

theorem stepiValue_untagged {x y : InWord} (hx : x.tag = false) (hy : y.tag = false) (sc : Int) :
    stepiValue x y sc = 0 := by
  simp [stepiValue, stepiRead, hx, hy, sgn]

theorem stepiValue_still {x y : InWord} (hx : x.tag = true) (hy : y.tag = true)
    (period : y.w.toNat / 65536 % 32768 = 0x7FFF) (sc : Int) : stepiValue x y sc = x.w.toInt * sc := by
  simp [stepiValue, stepiRead, hx, hy, sgn, period]

theorem stepiValue_moving {x y : InWord} {p sc : Nat} (hx : x.tag = true) (hy : y.tag = true)
    (hp : p = y.w.toNat / 65536 % 32768) (zero : p ≠ 0) (still : p ≠ 0x7FFF) (pos : 1 ≤ sc) : stepiValue x y sc =
    x.w.toInt * sc + (if 32768 ≤ y.w.toNat / 65536 then -1 else 1) *
      (min (sc * (y.w.toNat % 65536) / p) (sc - 1) : Nat) := by
  have part : min (quotZ ((sc : Int) * (y.w.toNat % 65536 : Nat)) p) ((sc : Int) - 1) =
      ((min (sc * (y.w.toNat % 65536) / p) (sc - 1) : Nat) : Int) := by
    unfold quotZ
    rw [← Int.natCast_mul, ← Int.ofNat_tdiv, ← Int.natCast_one, ← Int.natCast_sub pos, ← Nat.cast_min]
  have sign : y.w.toNat.testBit 31 = decide (32768 ≤ y.w.toNat / 65536) := by
    rw [Nat.testBit_eq_decide_div_mod_eq]
    exact decide_eq_decide.mpr (by omega)
  have moves : ((p : Int) = 0x7FFF || (p : Int) = 0) = false := by
    simp only [Bool.or_eq_false_iff, decide_eq_false_iff_not]
    omega
  unfold stepiValue stepiRead
  rw [if_pos hx, if_pos hy, hx, hy]
  dsimp only
  rw [← hp, moves, part, sign]
  by_cases neg : 32768 ≤ y.w.toNat / 65536 <;> simp [neg, sgn]

theorem stepi_runs (h : s.shotReady 0x19 e f = true) {x y : InWord}
    (hx : (s.eng e).input (16 * (s.shotOf e f).ctx + 8) = x) (hy : (s.eng e).input (16 * (s.shotOf e f).ctx + 9) = y) :
    Runs (.stepi e f) s Parts.shot fun t =>
      (t.eng e).op ((s.shotOf e f).b 2) =
        wrd (stepiValue x y (stepiScale (((s.shotOf e f).src (s.eng e) ((s.shotOf e f).b 3)).toNat % 2048))) ∧
      (t.eng e).miss = ((s.eng e).miss ||
        ((s.shotOf e f).untagged (s.eng e) ((s.shotOf e f).b 3) || !(x.tag && y.tag))) ∧
      WroteSlot s e ((s.shotOf e f).b 2) t := by
  subst hx hy
  have legal := ready_legal h
  simp only [Shot.legal, Bool.and_eq_true] at legal
  have slot : (s.shotOf e f).b 2 < (s.eng e).ops.length := ready_slots h ▸ slot_lt legal.1.1
  refine (inner_runs (execStepi_does e f s) rfl h).mono fun t ⟨r, done⟩ => ⟨?_, done.miss, ?_⟩
  · exact (done.op_eq _).trans (op_setOp _ _ _ slot)
  · exact done.wroteSlot rfl rfl fun j ne => op_setOp_ne _ _ _ _ ne

end

/-- Settles O22: the tables and steps of the iterations, then each shot by the words that it writes. -/
theorem shotsRotateAndRamp : Obligations.ShotsRotateAndRamp := by
  refine ⟨rfl, fun a l i x y z => ⟨rfl, cordicVector_step a l i x y z⟩,
    fun a l i x y z => ⟨rfl, cordicRotate_step a l i x y z⟩, ?vector, ?vectorBehind, ?rotateBehind, ?rotate, ?ramp,
    ?untagged, ?still, ?moving⟩
  case vector =>
    rintro e f _ _ s h rfl rfl mode ahead
    refine (rot_runs h (rotResult_vector mode (rotVector_ahead _ ahead))).mono fun t ⟨counted, wrote⟩ => ?_
    exact wrote.two counted
  case vectorBehind =>
    rintro e f _ _ s h rfl rfl mode behind
    refine (rot_runs h (rotResult_vector mode (rotVector_behind _ behind))).mono fun t ⟨counted, wrote⟩ => ?_
    exact wrote.two counted
  case rotateBehind =>
    rintro e f _ _ r s h rfl rfl mode low high rfl
    refine (rot_runs h (rotResult_rotate mode (rotRotate_behind _ _ low high))).mono fun t ⟨counted, wrote⟩ => ?_
    exact wrote.two counted
  case rotate =>
    rintro e f _ _ s h rfl rfl mode ahead
    refine (rot_runs h (rotResult_rotate mode (rotRotate_ahead _ _ ahead))).mono fun t ⟨counted, wrote⟩ => ?_
    exact wrote.two counted
  case ramp =>
    rintro e f _ _ v p l x y q s h rfl rfl apart hv hp hl hx hy hq
    refine (ramp_runs h rfl (rampEval_eq hv hp hl hx hy hq) apart).mono
      fun t ⟨words, mask, sat, ⟨shots, others, inp, acc⟩, rest⟩ => ?_
    exact ⟨words 0 (by decide), words 1 (by decide), words 2 (by decide), mask, sat, shots, others, inp, acc, rest⟩
  case untagged =>
    rintro e f _ _ s h rfl rfl steps time
    refine (stepi_runs h rfl rfl).mono fun t ⟨val, miss, tail⟩ => ⟨?_, ?_, tail⟩
    · rw [val, stepiValue_untagged steps time]
      rfl
    · rw [miss, steps]
      simp
  case still =>
    rintro e f _ _ s h rfl rfl steps time period scale
    refine (stepi_runs h rfl rfl).mono fun t ⟨val, _, tail⟩ => ⟨?_, tail⟩
    rw [val, stepiValue_still steps time period, scale]
    rfl
  case moving =>
    rintro e f _ _ _ _ sc s h rfl rfl steps time rfl rfl zero still hsc
    have scale : stepiScale (((s.shotOf e f).src (s.eng e) ((s.shotOf e f).b 3)).toNat % 2048) = sc := by
      rw [hsc]
      unfold stepiScale
      simp only [Bool.or_eq_true, decide_eq_true_eq]
      split <;> rfl
    have pos : 1 ≤ sc := by
      rw [hsc]
      split <;> omega
    refine (stepi_runs h rfl rfl).mono fun t ⟨val, _, tail⟩ => ⟨?_, tail⟩
    rw [val, scale, stepiValue_moving steps time rfl zero still pos]
    rfl

end Sys2Proof.Machine

namespace Sys2Proof.Machine

set_option Elab.async false

/-! ### The words of a plan (R160, R209) -/

/-- The parameters of PLAN from their ten words and the derating `scale` (R180, R202). -/
def planPar (par : List Word) (scale : Int) : PlanPar :=
  let word (i : Nat) : Int := (Tbl.get 0 par i).toNat
  let vmax := word 4 * 256
  let w1 := min (word 2 * 256) vmax
  let w0 := min (word 7 * 256) w1
  { vmax := vmax, w1 := w1, w0 := w0, vstart := min (word 0 * 256) w0
    acc1 := shr (word 1 * clampZ 0 65536 scale) 16, acc2 := shr (word 3 * clampZ 0 65536 scale) 16
    d2 := word 5, d1 := word 6, softMin := sgn (Tbl.get 0 par 8), softMax := sgn (Tbl.get 0 par 9) }

/-- The four speeds are out of order (R180). -/
def planOrder (par : List Word) (q : PlanPar) : Bool :=
  q.w1 ≠ ((Tbl.get 0 par 2).toNat : Int) * 256 || q.w0 ≠ ((Tbl.get 0 par 7).toNat : Int) * 256 ||
    q.vstart ≠ ((Tbl.get 0 par 0).toNat : Int) * 256

/-- The flag word of a plan from the speed `v`. -/
def planFlags (q : PlanPar) (order : Bool) (v : Int) (r : PlanOut) : Nat :=
  r.arm + r.flags + (if (r.v.natAbs : Int) = q.vmax then fAtVlimit else 0)
    + (if q.vmax < (v.natAbs : Int) then fOverspeed else 0) + (if order then fParamOrder else 0)

/-- The speed that RAMP may not pass. -/
def planLimit (v : Int) (r : PlanOut) : Int :=
  if r.arm = 9 then 0 else if v < r.v then -(shr (-r.v) 8) else if r.v < v then shr r.v 8 else shr v 8

/-- The four words of the plan `r` from the speed `v` with the target `gap` ahead. -/
def planWords (q : PlanPar) (order : Bool) (v gap : Int) (r : PlanOut) : List Word :=
  [wrd (satS 32 (r.v - v)), wrd (planLimit v r), u32 (planFlags q order v r),
    wrd (match r.snap with | some k => k | none => gap)]

/-- The words of a plan that `planEval` yields. -/
def planned (pos vel frac target : Word) (par : List Word) (scale : Int) (r : PlanOut) : List Word :=
  planWords (planPar par scale) (planOrder par (planPar par scale)) (sgn vel * 256 + (frac.toNat % 256 : Nat))
    (sgn target - sgn pos) r

/-! ### Which plan the command word asks for (R160) -/

/-- The plan toward the target, clamped where soft limits hold (R187, R191). -/
def PlanPar.toTarget (q : PlanPar) (soft : Bool) (v p pw tgt : Int) : PlanOut :=
  let t := if soft then clampZ q.softMin q.softMax tgt else tgt
  let r := q.position v (distTo t p) (lowS 32 (t - pw))
  { r with flags := r.flags + (if t ≠ tgt then fTgtClamp else 0) }

/-- The plan toward the speed `w`, under soft limits or not (R190, R191). -/
def PlanPar.toSpeed (q : PlanPar) (soft : Bool) (v p pw w : Int) : PlanOut :=
  if soft then q.soft v w p pw else q.velocity v w

/-- The plan toward the commanded speed (R190). -/
def PlanPar.toCommand (q : PlanPar) (soft : Bool) (v p pw tgt : Int) : PlanOut :=
  let w := clampZ (-q.vmax) q.vmax (tgt * 256)
  let r := q.toSpeed soft v p pw w
  { r with flags := r.flags + (if r.v = w && r.v.natAbs ≠ q.vmax then fAtVlimit else 0) }

/-- A FREEZE frame (R193). -/
def freezePlan (unc : Bool) : PlanOut := ⟨0, 9, fSnap + (if unc then fUncMark else 0), some 0⟩

/-- The plan by mode and CMD, where neither STOP nor HALT is set. -/
def planByMode (q : PlanPar) (v p : Int) (pos target : Word) (c : Word) (mode cmd : Nat) : PlanOut :=
  match mode, cmd with
  | 2, 1 => q.toTarget (c.getLsbD 5) v p (sgn pos) (sgn target)
  | 2, 2 => q.toCommand false v p (sgn pos) (sgn target)
  | 2, 4 => freezePlan false
  | 2, _ => q.toSpeed false v p (sgn pos) 0
  | 1, _ => q.toCommand (c.getLsbD 5) v p (sgn pos) (sgn target)
  | _, k =>
    if c.getLsbD 8 then
      let r := q.toSpeed false v p (sgn pos) 0
      { r with flags := r.flags + (if target ≠ pos then fTgtBlocked else 0) }
    else match k with
      | 2 => q.toCommand (c.getLsbD 5) v p (sgn pos) (sgn target)
      | 3 => q.toSpeed (c.getLsbD 5) v p (sgn pos) 0
      | _ => q.toTarget (c.getLsbD 5) v p (sgn pos) (sgn target)

/-- The plan by the command word, `p` being the position, `pos` its word, and `part` what the axis stands past it of a
microstep. -/
def planChoice (q : PlanPar) (v p : Int) (pos target : Word) (part : Nat) (c : Word) : PlanOut :=
  if c.getLsbD 2 then
    if (v.natAbs : Int) = 0 && part = 0 then ⟨0, 0, 0, none⟩ else freezePlan (decide (q.w0 < (v.natAbs : Int)))
  else if c.getLsbD 3 then q.toSpeed (c.getLsbD 5) v p (sgn pos) 0
  else planByMode q v p pos target c (planCommand c).1 (planCommand c).2.1

theorem planEval_eq (pos vel frac target c : Word) (par : List Word) (scale : Int) :
    (planEval pos vel frac target par c scale).1 = planned pos vel frac target par scale
      (planChoice (planPar par scale) (sgn vel * 256 + (frac.toNat % 256 : Nat))
        (sgn pos * 2 ^ 24 + (frac.toNat / 256 : Nat)) pos target (frac.toNat / 256) c) := rfl

section
variable {q : PlanPar} {v p : Int} {pos target c : Word} {part : Nat}

theorem planCommand_mode (c : Word) : (planCommand c).1 = if c.toNat % 4 = 3 then 0 else c.toNat % 4 := rfl

theorem planCommand_cmd (c : Word) : (planCommand c).2.1 =
    if 4 < c.toNat / 512 % 8 || (c.toNat / 512 % 8 = 4 && (planCommand c).1 ≠ 2) then 0 else c.toNat / 512 % 8 := rfl

theorem planChoice_rest (stop : c.getLsbD 2 = true) : planChoice q 0 p pos target 0 c = ⟨0, 0, 0, none⟩ :=
  if_pos stop

theorem planChoice_freeze (stop : c.getLsbD 2 = true) (moves : v ≠ 0 ∨ part ≠ 0) :
    planChoice q v p pos target part c = freezePlan (decide (q.w0 < (v.natAbs : Int))) := by
  refine (if_pos stop).trans (if_neg ?_)
  simp only [Bool.and_eq_true, decide_eq_true_eq]
  omega

theorem planChoice_halt (stop : c.getLsbD 2 = false) (halt : c.getLsbD 3 = true) :
    planChoice q v p pos target part c = q.toSpeed (c.getLsbD 5) v p (sgn pos) 0 :=
  (if_neg (Bool.eq_false_iff.mp stop)).trans (if_pos halt)

theorem planChoice_run (stop : c.getLsbD 2 = false) (halt : c.getLsbD 3 = false) :
    planChoice q v p pos target part c = planByMode q v p pos target c (planCommand c).1 (planCommand c).2.1 :=
  (if_neg (Bool.eq_false_iff.mp stop)).trans (if_neg (Bool.eq_false_iff.mp halt))

theorem planByMode_certain {k : Nat} (certain : c.getLsbD 8 = false) (two : k ≠ 2) (three : k ≠ 3) :
    planByMode q v p pos target c 0 k = q.toTarget (c.getLsbD 5) v p (sgn pos) (sgn target) := by
  refine (if_neg (Bool.eq_false_iff.mp certain)).trans ?_
  split
  · exact absurd rfl two
  · exact absurd rfl three
  · rfl

theorem planByMode_uncertain (uncertain : c.getLsbD 8 = true) (k : Nat) : planByMode q v p pos target c 0 k =
    { q.velocity v 0 with flags := (q.velocity v 0).flags + (if target ≠ pos then fTgtBlocked else 0) } :=
  if_pos uncertain

theorem planByMode_homing {k : Nat} (one : k ≠ 1) (two : k ≠ 2) (four : k ≠ 4) :
    planByMode q v p pos target c 2 k = q.velocity v 0 := by
  unfold planByMode
  split
  · exact absurd rfl one
  · exact absurd rfl two
  · exact absurd rfl four
  · rfl
  all_goals contradiction

theorem planByMode_speed (hard : c.getLsbD 5 = false) (k : Nat) : planByMode q v p pos target c 1 k =
    q.toCommand false v p (sgn pos) (sgn target) := by
  rw [← hard]
  rfl

theorem planChoice_target (stop : c.getLsbD 2 = false) (halt : c.getLsbD 3 = false)
    (h : (c.toNat % 4 = 0 ∨ c.toNat % 4 = 3) ∧ c.getLsbD 8 = false ∧ c.toNat / 512 % 8 ≠ 2 ∧ c.toNat / 512 % 8 ≠ 3 ∨
      c.toNat % 4 = 2 ∧ c.toNat / 512 % 8 = 1) :
    planChoice q v p pos target part c = q.toTarget (c.getLsbD 5) v p (sgn pos) (sgn target) := by
  rw [planChoice_run stop halt]
  have cmd := planCommand_cmd c
  have mode := planCommand_mode c
  generalize (planCommand c).1 = m at *
  generalize (planCommand c).2.1 = k at *
  obtain ⟨still, certain, two, three⟩ | ⟨homing, one⟩ := h
  · obtain rfl : m = 0 := by rw [mode]; split <;> omega
    have ne : k ≠ 2 ∧ k ≠ 3 := by
      rw [cmd]
      split
      · exact ⟨by decide, by decide⟩
      · exact ⟨two, three⟩
    exact planByMode_certain certain ne.1 ne.2
  · obtain rfl : m = 2 := by rw [mode, homing]; rfl
    obtain rfl : k = 1 := by rw [cmd, one]; rfl
    rfl

theorem planChoice_stopHoming (stop : c.getLsbD 2 = false) (halt : c.getLsbD 3 = false) (homing : c.toNat % 4 = 2)
    (four : c.toNat / 512 % 8 = 4) : planChoice q v p pos target part c = freezePlan false := by
  rw [planChoice_run stop halt, planCommand_cmd, planCommand_mode, homing, four]
  rfl

/-- A plan toward a speed without soft limits: its speed `w` and the flags beside the plan's. -/
theorem planChoice_speed (stop : c.getLsbD 2 = false) (hard : c.getLsbD 5 = false)
    (h : c.getLsbD 3 = true ∨ c.toNat % 4 = 1 ∨ c.toNat % 4 = 2 ∧ c.toNat / 512 % 8 ≠ 1 ∧ c.toNat / 512 % 8 ≠ 2 ∧
      c.toNat / 512 % 8 ≠ 4 ∨ c.toNat % 4 ≠ 2 ∧ c.getLsbD 8 = true) {w : Int}
    (hw : w = if c.getLsbD 3 = false ∧ c.toNat % 4 = 1 then clampZ (-q.vmax) q.vmax (sgn target * 256) else 0) :
    ∃ n, planChoice q v p pos target part c =
      { q.velocity v w with flags := (q.velocity v w).flags + 128 * n } := by
  by_cases halt : c.getLsbD 3 = true
  · rw [if_neg (by simp [halt])] at hw
    rw [planChoice_halt stop halt, hard, hw]
    exact ⟨0, rfl⟩
  have halt := Bool.eq_false_iff.mpr halt
  rw [planChoice_run stop halt]
  by_cases speed : c.toNat % 4 = 1
  · rw [if_pos ⟨halt, speed⟩] at hw
    rw [planCommand_mode, speed]
    refine ⟨if (q.velocity v w).v = w && (q.velocity v w).v.natAbs ≠ q.vmax then 1 else 0, ?_⟩
    refine (planByMode_speed hard _).trans ?_
    subst hw
    unfold PlanPar.toCommand fAtVlimit
    rw [mul_ite]
    rfl
  rw [if_neg (fun h => speed h.2)] at hw
  subst hw
  obtain ⟨homing, other⟩ | ⟨homing, uncertain⟩ :=
    (h.resolve_left (Bool.eq_false_iff.mp halt)).resolve_left speed
  · have mode : (planCommand c).1 = 2 := by rw [planCommand_mode, homing]; rfl
    have cmd := planCommand_cmd c
    rw [mode] at cmd ⊢
    generalize (planCommand c).2.1 = k at cmd
    have ne : k ≠ 1 ∧ k ≠ 2 ∧ k ≠ 4 := by
      subst cmd
      split
      · exact ⟨by omega, by omega, by omega⟩
      · exact other
    exact ⟨0, planByMode_homing ne.1 ne.2.1 ne.2.2⟩
  · have mode : (planCommand c).1 = 0 := by
      rw [planCommand_mode]
      split <;> omega
    rw [mode]
    refine ⟨if target ≠ pos then 4 else 0, (planByMode_uncertain uncertain _).trans ?_⟩
    rw [mul_ite]
    rfl

end

/-! ### The flag word (R209) -/

section
variable (q : PlanPar) (order : Bool) (v : Int) (r : PlanOut)

/-- Beside ARM and the plan's flags the flag word holds bits 7, 10 and 11 at the most. -/
theorem planFlags_eq : ∃ a b d : Nat, a ≤ 1 ∧ b ≤ 1 ∧ d ≤ 1 ∧
    planFlags q order v r = r.arm + r.flags + 128 * a + 1024 * b + 2048 * d := by
  refine ⟨if (r.v.natAbs : Int) = q.vmax then 1 else 0, if q.vmax < (v.natAbs : Int) then 1 else 0,
    if order then 1 else 0, by split <;> decide, by split <;> decide, by split <;> decide, ?_⟩
  rw [mul_ite, mul_ite, mul_ite]
  rfl

theorem planFlags_low : (u32 (planFlags q order v r)).toNat % 128 = (r.arm + r.flags) % 128 := by
  obtain ⟨a, b, d, -, -, -, flags⟩ := planFlags_eq q order v r
  unfold u32
  rw [flags, BitVec.toNat_ofNat]
  omega

theorem u32_bit {i : Nat} (n : Nat) (h : i < 32) : (u32 n).getLsbD i = decide (n / 2 ^ i % 2 = 1) := by
  unfold u32
  rw [BitVec.getLsbD_ofNat, decide_eq_true h, Bool.true_and, Nat.testBit_eq_decide_div_mod_eq]

theorem planFlags_bit5 : (u32 (planFlags q order v r)).getLsbD 5 = decide ((r.arm + r.flags) / 32 % 2 = 1) := by
  obtain ⟨a, b, d, -, -, -, flags⟩ := planFlags_eq q order v r
  rw [u32_bit _ (by decide), flags]
  exact decide_eq_decide.mpr (by omega)

theorem planFlags_bit8 (h : (r.arm + r.flags) % 256 < 128) :
    (u32 (planFlags q order v r)).getLsbD 8 = decide ((r.arm + r.flags) / 256 % 2 = 1) := by
  obtain ⟨a, b, d, ha, hb, hd, flags⟩ := planFlags_eq q order v r
  rw [u32_bit _ (by decide), flags]
  exact decide_eq_decide.mpr (by omega)

theorem planFlags_bit13 (h : (r.arm + r.flags) % 8192 < 1024) :
    (u32 (planFlags q order v r)).getLsbD 13 = decide ((r.arm + r.flags) / 8192 % 2 = 1) := by
  obtain ⟨a, b, d, ha, hb, hd, flags⟩ := planFlags_eq q order v r
  rw [u32_bit _ (by decide), flags]
  exact decide_eq_decide.mpr (by omega)

/-! ### The words of each kind of plan -/

theorem planLimit_stand (h : r.v = 0) : planLimit v r = 0 := by
  unfold planLimit
  rw [h]
  split
  · rfl
  · split
    · rfl
    · split
      · rfl
      · rw [show v = 0 by omega]
        rfl

theorem planLimit_eq (h : r.arm ≠ 9) : planLimit v r =
    if v < r.v then -((-r.v) >>> (8 : Nat)) else if r.v < v then r.v >>> (8 : Nat) else v >>> (8 : Nat) := by
  rw [← shr_eq, ← shr_eq, ← shr_eq]
  exact if_neg h

theorem armOf_le (u u' : Int) : q.armOf u u' ≤ 7 := by
  unfold PlanPar.armOf
  split
  · split
    · decide
    · split <;> decide
  · split
    · split <;> decide
    · split
      · decide
      · split <;> decide

end

end Sys2Proof.Machine

namespace Sys2Proof.Machine

set_option Elab.async false

/-! ### The position and velocity plans (R184 to R190) -/

section
variable (q : PlanPar)

theorem PlanPar.armOf_eq (u u' : Int) : q.armOf u u' =
    if u < u' then (if u < q.vstart then 1 else if u < q.w1 then 2 else 3) else if u' = u then (if u = 0 then 0 else 4)
    else if u' = 0 ∧ u ≤ q.w0 then 7 else if q.w1 < u then 5 else 6 := by
  unfold PlanPar.armOf
  simp only [Bool.and_eq_true, decide_eq_true_eq]

/-- The axis is slow enough and close enough to the target for a frame that ends on it (R188). -/
def PlanPar.near (v d : Int) : Prop :=
  (v.natAbs : Int) ≤ q.w0 ∧ (d.natAbs : Int) ≤ q.w0 ∧ (v = 0 → (d.natAbs : Int) ≤ q.vstart)

/-- The speed that an axis which is to keep its speed `u` reaches (R189). -/
def PlanPar.cruise (u : Int) : Int := if u ≤ q.vmax then u else q.down u q.vmax

/-- The speed that an axis which is to gain speed reaches (R189). -/
def PlanPar.faster (u : Int) : Int := if u < q.vmax then q.up u q.vmax else q.cruise u

/-- The speed that an axis which is to lose speed reaches (R189). -/
def PlanPar.slower (u : Int) : Int := if u ≤ q.w0 then u else q.down u q.w0

/-- At the speed `c` in the direction `s` the axis can still stop within the distance (R187). -/
def PlanPar.canStop (s v d c : Int) : Bool := decide (q.brake c ≤ s * (d - shr (v + s * c) 1))

/-- The fastest of the three speeds at which the axis can still stop (R189). -/
def PlanPar.fastest (s v d : Int) : Int :=
  if q.canStop s v d (q.faster v.natAbs) then q.faster v.natAbs
  else if q.canStop s v d (q.cruise v.natAbs) then q.cruise v.natAbs else q.slower v.natAbs

theorem PlanPar.fastest_eq (s v d : Int) : q.fastest s v d =
    if q.brake (q.faster v.natAbs) ≤ s * (d - (v + s * q.faster v.natAbs) >>> (1 : Nat)) then q.faster v.natAbs
    else if q.brake (q.cruise v.natAbs) ≤ s * (d - (v + s * q.cruise v.natAbs) >>> (1 : Nat)) then q.cruise v.natAbs
    else q.slower v.natAbs := by
  unfold PlanPar.fastest PlanPar.canStop
  simp only [decide_eq_true_eq, shr_eq]

/-- The plan of a change of speed to `u'` in the direction `s`. -/
def PlanPar.change (s v u' : Int) (flags : Nat) : PlanOut := ⟨s * u', q.armOf v.natAbs u', flags, none⟩

/-- The frame that ends on the target `whole` ahead (R188). -/
def arrivePlan (whole : Int) : PlanOut := ⟨0, 8, fSnap + fAtTarget, some whole⟩

variable {q} {v d : Int}

theorem PlanPar.position_moves (moves : v ≠ 0 ∨ d ≠ 0) (whole : Int) : q.position v d whole =
    if (v.natAbs : Int) ≤ q.w0 && (d.natAbs : Int) ≤ q.w0 && ((v.natAbs : Int) ≠ 0 || (d.natAbs : Int) ≤ q.vstart)
    then arrivePlan whole
    else if v ≠ 0 && (d.sign ≠ signOf v d || d = 0) then q.change (signOf v d) v (q.down v.natAbs 0) fReversal
    else q.change (signOf v d) v (q.fastest (signOf v d) v d) 0 := by
  refine (if_neg ?_).trans rfl
  simp only [Bool.and_eq_true, decide_eq_true_eq]
  omega

theorem PlanPar.near_iff : ((v.natAbs : Int) ≤ q.w0 && (d.natAbs : Int) ≤ q.w0 &&
    ((v.natAbs : Int) ≠ 0 || (d.natAbs : Int) ≤ q.vstart)) = true ↔ q.near v d := by
  unfold PlanPar.near
  simp only [Bool.and_eq_true, Bool.or_eq_true, decide_eq_true_eq, and_assoc]
  have zero : ((v.natAbs : Int) ≠ 0 ∨ (d.natAbs : Int) ≤ q.vstart) ↔ (v = 0 → (d.natAbs : Int) ≤ q.vstart) := by
    omega
  rw [zero]

theorem PlanPar.position_arrive (moves : v ≠ 0 ∨ d ≠ 0) (near : q.near v d) (whole : Int) :
    q.position v d whole = arrivePlan whole :=
  (PlanPar.position_moves moves whole).trans (if_pos (PlanPar.near_iff.mpr near))

theorem PlanPar.position_reversal (far : ¬q.near v d) (moves : v ≠ 0) (away : d.sign ≠ v.sign) (whole : Int) :
    q.position v d whole = q.change v.sign v (q.down v.natAbs 0) fReversal := by
  have s : signOf v d = v.sign := if_neg moves
  rw [PlanPar.position_moves (.inl moves), if_neg (mt PlanPar.near_iff.mp far), s, if_pos]
  simp [moves, away]

theorem PlanPar.position_ahead (far : ¬q.near v d) (some' : d ≠ 0) (ahead : v = 0 ∨ d.sign = v.sign) (whole : Int) :
    q.position v d whole = q.change (signOf v d) v (q.fastest (signOf v d) v d) 0 := by
  rw [PlanPar.position_moves (.inr some'), if_neg (mt PlanPar.near_iff.mp far), if_neg]
  simp only [Bool.and_eq_true, Bool.or_eq_true, decide_eq_true_eq]
  rintro ⟨moves, away | zero⟩
  · exact away ((ahead.resolve_left moves).trans (if_neg moves).symm)
  · exact some' zero

theorem PlanPar.velocity_eq (w : Int) : q.velocity v w = q.change (signOf v w) v
    (if v ≠ 0 ∧ w.sign ≠ v.sign then q.down v.natAbs 0 else if (v.natAbs : Int) < w.natAbs then q.up v.natAbs w.natAbs
      else if (w.natAbs : Int) < v.natAbs then q.down v.natAbs w.natAbs else v.natAbs) 0 := by
  unfold PlanPar.velocity
  dsimp only
  have turns : ((v ≠ 0 && (w = 0 || w.sign ≠ signOf v w)) = true) ↔ (v ≠ 0 ∧ w.sign ≠ v.sign) := by
    simp only [Bool.and_eq_true, Bool.or_eq_true, decide_eq_true_eq]
    refine and_congr_right fun moves => ?_
    rw [show signOf v w = v.sign from if_neg moves]
    refine or_iff_right_of_imp fun zero same => moves ?_
    rw [zero] at same
    exact Int.sign_eq_zero_iff_zero.mp same.symm
  simp only [turns]
  rfl

/-! ### The braking distance (R185, R186) -/

theorem brakeForm_falls {u w k : Int} (hd : 0 < k) (h : w ≤ u) : brakeForm u w k =
    (fun n : Int => 2 * n * u - k * n * (n - 1) - (u - w)) ((u - w + k - 1) / k) := by
  unfold brakeForm
  split
  next stands =>
    obtain rfl : u = w := by omega
    have none : (u - u + k - 1) / k = 0 := by
      rw [show u - u + k - 1 = k - 1 by omega]
      exact Int.ediv_eq_zero_of_lt (by omega) (by omega)
    rw [none]
    simp
  · rw [if_neg (by omega)]

theorem PlanPar.brake_eq (h1 : 0 < q.d1) (h2 : 0 < q.d2) (order : q.w0 ≤ q.w1) (u : Int) : q.brake u =
    if u ≤ q.w0 then 0 else if u ≤ q.w1 then
      ((fun n : Int => 2 * n * u - q.d1 * n * (n - 1) - (u - q.w0)) ((u - q.w0 + q.d1 - 1) / q.d1) + 1) / 2
    else ((fun n : Int => 2 * n * u - q.d2 * n * (n - 1) - (u - q.w1)) ((u - q.w1 + q.d2 - 1) / q.d2) +
      (fun n : Int => 2 * n * q.w1 - q.d1 * n * (n - 1) - (q.w1 - q.w0)) ((q.w1 - q.w0 + q.d1 - 1) / q.d1) + 1) /
        2 := by
  unfold PlanPar.brake
  split
  · rfl
  next above =>
    split
    · rw [brakeForm_falls h1 (by omega)]
    next fast => rw [brakeForm_falls h2 (by omega), brakeForm_falls h1 order]

end

/-! ### The words of the position plan -/

section
variable {q : PlanPar} {order : Bool} {v gap : Int}

theorem planWords_freeze (unc : Bool) (l : List Word) (hl : l = planWords q order v gap (freezePlan unc)) :
    Tbl.get 0 l 0 = BitVec.ofInt 32 (satS 32 (-v)) ∧ Tbl.get 0 l 1 = 0 ∧ (Tbl.get 0 l 2).toNat % 64 = 0x19 ∧
      (Tbl.get 0 l 2).getLsbD 13 = unc ∧ Tbl.get 0 l 3 = 0 := by
  subst hl
  have flags : (freezePlan unc).arm + (freezePlan unc).flags = 0x19 + if unc then 0x2000 else 0 := by cases unc <;> rfl
  have low := planFlags_low q order v (freezePlan unc)
  refine ⟨congrArg (fun z => BitVec.ofInt 32 (satS 32 z)) (Int.zero_sub v), rfl, ?_, ?_, rfl⟩
  · show (u32 _).toNat % 64 = _
    rw [flags] at low
    cases unc
    · simp at low; omega
    · simp at low; omega
  · refine (planFlags_bit13 q order v _ ?_).trans ?_
    · rw [flags]
      cases unc <;> decide
    · rw [flags]
      cases unc <;> decide

theorem planWords_flags {r : PlanOut} {n : Nat} {l : List Word} (hn : r.arm + r.flags = n)
    (hl : l = planWords q order v gap r) :
    (Tbl.get 0 l 2).toNat % 128 = n % 128 ∧ (Tbl.get 0 l 2).getLsbD 5 = decide (n / 32 % 2 = 1) := by
  subst hl hn
  exact ⟨planFlags_low q order v r, planFlags_bit5 q order v r⟩

/-- A plan toward a target, with the flag that tells whether the target was clamped. -/
def PlanOut.toward (r : PlanOut) (clamped : Bool) : PlanOut :=
  { r with flags := r.flags + if clamped then fTgtClamp else 0 }

/-- The words of a plan toward a target, beside its speeds and its distance. -/
theorem planWords_toward {r : PlanOut} (clamped : Bool) (low : r.arm + r.flags < 128) {l : List Word}
    (hl : l = planWords q order v gap (r.toward clamped)) :
    Tbl.get 0 l 0 = BitVec.ofInt 32 (satS 32 (r.v - v)) ∧ (Tbl.get 0 l 2).toNat % 128 = r.arm + r.flags ∧
      (Tbl.get 0 l 2).getLsbD 5 = decide ((r.arm + r.flags) / 32 % 2 = 1) ∧ (Tbl.get 0 l 2).getLsbD 8 = clamped := by
  subst hl
  have flags : (r.toward clamped).arm + (r.toward clamped).flags = r.arm + r.flags + 256 * clamped.toNat :=
    (Nat.add_assoc _ _ _).symm.trans (congrArg (r.arm + r.flags + ·) (by cases clamped <;> rfl))
  have bit := clamped.toNat_le
  obtain ⟨word, bit5⟩ := planWords_flags flags (rfl : _ = planWords q order v gap _)
  refine ⟨rfl, ?_, ?_, ?_⟩
  · rw [word]
    omega
  · rw [bit5]
    exact decide_eq_decide.mpr (by omega)
  · refine (planFlags_bit8 q order v _ ?_).trans ?_
    · rw [flags]
      omega
    · rw [flags]
      cases clamped
      · exact decide_eq_false (by simp; omega)
      · exact decide_eq_true (by simp; omega)

/-- The words of a plan of a change of speed, beside its flags. -/
theorem planWords_change {r : PlanOut} {s u' : Int} {l : List Word}
    (hr : r.v = s * u' ∧ r.arm = q.armOf v.natAbs u' ∧ r.snap = none) (hl : l = planWords q order v gap r) :
    Tbl.get 0 l 0 = BitVec.ofInt 32 (satS 32 (s * u' - v)) ∧ Tbl.get 0 l 1 = BitVec.ofInt 32
      (if v < s * u' then -((-(s * u')) >>> (8 : Nat)) else if s * u' < v then (s * u') >>> (8 : Nat)
        else v >>> (8 : Nat)) ∧ Tbl.get 0 l 3 = wrd gap := by
  subst hl
  obtain ⟨speed, arm, snap⟩ := hr
  have changes : r.arm ≠ 9 := by
    have := armOf_le q v.natAbs u'
    omega
  rw [← speed, ← planLimit_eq v r changes]
  refine ⟨rfl, rfl, ?_⟩
  show wrd (match r.snap with | some k => k | none => gap) = _
  rw [snap]

end

end Sys2Proof.Machine

namespace Sys2Proof.Machine

set_option Elab.async false

/-! ### What PLAN's evaluation yields by its command (R160, R187 to R194) -/

theorem planPar_acc1 (p : List Word) (sc : Int) :
    (planPar p sc).acc1 = (((Tbl.get 0 p 1).toNat : Int) * max 0 (min sc 65536)) >>> (16 : Nat) := by
  rw [← clampZ_eq (by decide), ← shr_eq]
  rfl

theorem planPar_acc2 (p : List Word) (sc : Int) :
    (planPar p sc).acc2 = (((Tbl.get 0 p 3).toNat : Int) * max 0 (min sc 65536)) >>> (16 : Nat) := by
  rw [← clampZ_eq (by decide), ← shr_eq]
  rfl

theorem planPar_ordered (p : List Word) (sc : Int) : (planPar p sc).w0 ≤ (planPar p sc).w1 := min_le_right _ _

theorem planPar_near {p : List Word} {sc v d : Int} (near : (v.natAbs : Int) ≤ (planPar p sc).w0 ∧
    (d.natAbs : Int) ≤ (planPar p sc).w0 ∧ (v = 0 → (d.natAbs : Int) ≤ ((Tbl.get 0 p 0).toNat : Int) * 256)) :
    (planPar p sc).near v d :=
  ⟨near.1, near.2.1, fun still => le_min (near.2.2 still) near.2.1⟩

theorem planPar_far {p : List Word} {sc v d : Int} (far : ¬((v.natAbs : Int) ≤ (planPar p sc).w0 ∧
    (d.natAbs : Int) ≤ (planPar p sc).w0 ∧ (v = 0 → (d.natAbs : Int) ≤ ((Tbl.get 0 p 0).toNat : Int) * 256))) :
    ¬(planPar p sc).near v d :=
  fun ⟨slow, close, start⟩ => far ⟨slow, close, fun still => (start still).trans (min_le_left _ _)⟩

theorem toTarget_eq {q : PlanPar} {soft : Bool} {v p pw tgt g d : Int} (limits : q.softMin ≤ q.softMax)
    (hg : g = if soft then max q.softMin (min tgt q.softMax) else tgt) (hd : d = distTo g p) :
    q.toTarget soft v p pw tgt = (q.position v d (lowS 32 (g - pw))).toward (decide (g ≠ tgt)) := by
  rw [← clampZ_eq limits] at hg
  subst hg hd
  unfold PlanPar.toTarget PlanOut.toward
  simp only [decide_eq_true_eq]

section
variable {pos vel frac tgt c : Word} {p l : List Word} {sc v : Int}
  (hv : v = vel.toInt * 256 + (frac.toNat % 256 : Nat)) (hl : l = (planEval pos vel frac tgt p c sc).1)
include hv hl

theorem planEval_of {r : PlanOut} (hr : planChoice (planPar p sc) v (pos.toInt * 2 ^ 24 + (frac.toNat / 256 : Nat)) pos
    tgt (frac.toNat / 256) c = r) :
    l = planWords (planPar p sc) (planOrder p (planPar p sc)) v (sgn tgt - sgn pos) r := by
  subst hv hr
  exact hl.trans (planEval_eq pos vel frac tgt c p sc)

theorem planEval_freeze (stop : c.getLsbD 2 = true) (moves : v ≠ 0 ∨ frac.toNat / 256 ≠ 0) :
    Tbl.get 0 l 0 = BitVec.ofInt 32 (satS 32 (-v)) ∧ Tbl.get 0 l 1 = 0 ∧ (Tbl.get 0 l 2).toNat % 64 = 0x19 ∧
      (Tbl.get 0 l 2).getLsbD 13 = decide ((planPar p sc).w0 < v.natAbs) ∧ Tbl.get 0 l 3 = 0 :=
  planWords_freeze _ l (planEval_of hv hl (planChoice_freeze stop moves))

theorem planEval_stopHoming (stop : c.getLsbD 2 = false) (halt : c.getLsbD 3 = false) (homing : c.toNat % 4 = 2)
    (four : c.toNat / 512 % 8 = 4) :
    Tbl.get 0 l 0 = BitVec.ofInt 32 (satS 32 (-v)) ∧ Tbl.get 0 l 1 = 0 ∧ (Tbl.get 0 l 2).toNat % 64 = 0x19 ∧
      (Tbl.get 0 l 2).getLsbD 13 = false ∧ Tbl.get 0 l 3 = 0 :=
  planWords_freeze _ l (planEval_of hv hl (planChoice_stopHoming stop halt homing four))

theorem planEval_stand (stop : c.getLsbD 2 = true) (still : v = 0) (whole : frac.toNat / 256 = 0) :
    Tbl.get 0 l 0 = 0 ∧ Tbl.get 0 l 1 = 0 ∧ (Tbl.get 0 l 2).toNat % 128 = 0 ∧ Tbl.get 0 l 3 = tgt - pos := by
  have words := planEval_of hv hl (r := ⟨0, 0, 0, none⟩) (by rw [still, whole]; exact planChoice_rest stop)
  obtain ⟨acc, flags, -, -⟩ := planWords_toward (r := ⟨0, 0, 0, none⟩) false (by decide) words
  refine ⟨?_, ?_, flags, ?_⟩
  · rw [acc, still]
    rfl
  · rw [words]
    exact congrArg wrd (planLimit_stand v _ rfl)
  · rw [words]
    exact wrd_sgn_sub tgt pos

section
variable {g d : Int} (stop : c.getLsbD 2 = false) (halt : c.getLsbD 3 = false)
  (target : (c.toNat % 4 = 0 ∨ c.toNat % 4 = 3) ∧ c.getLsbD 8 = false ∧ c.toNat / 512 % 8 ≠ 2 ∧
    c.toNat / 512 % 8 ≠ 3 ∨ c.toNat % 4 = 2 ∧ c.toNat / 512 % 8 = 1)
  (limits : (Tbl.get 0 p 8).toInt ≤ (Tbl.get 0 p 9).toInt)
  (hg : g = if c.getLsbD 5 then max (Tbl.get 0 p 8).toInt (min tgt.toInt (Tbl.get 0 p 9).toInt) else tgt.toInt)
  (hd : d = Int.bmod (g * 2 ^ 24 - (pos.toInt * 2 ^ 24 + (frac.toNat / 256 : Nat))) (2 ^ 56))
include stop halt target limits hg hd

/-- A plan toward the target is the position plan over the distance to the target as clamped. -/
theorem planEval_target {r : PlanOut} (hr : (planPar p sc).position v d (lowS 32 (g - pos.toInt)) = r) :
    l = planWords (planPar p sc) (planOrder p (planPar p sc)) v (sgn tgt - sgn pos)
      (r.toward (decide (g ≠ tgt.toInt))) := by
  subst hr
  refine planEval_of hv hl ((planChoice_target stop halt target).trans ?_)
  exact toTarget_eq (q := planPar p sc) limits hg hd

theorem planEval_rest (still : v = 0) (reached : d = 0) :
    Tbl.get 0 l 0 = 0 ∧ Tbl.get 0 l 1 = 0 ∧ (Tbl.get 0 l 2).toNat % 128 = 0x40 ∧ Tbl.get 0 l 3 = tgt - pos ∧
      (Tbl.get 0 l 2).getLsbD 8 = decide (g ≠ tgt.toInt) := by
  have words := planEval_target hv hl stop halt target limits hg hd (r := ⟨0, 0, fAtTarget, none⟩)
    (by rw [still, reached]; rfl)
  obtain ⟨acc, flags, -, clamped⟩ := planWords_toward _ (by decide) words
  refine ⟨?_, ?_, flags, ?_, clamped⟩
  · rw [acc, still]
    rfl
  · rw [words]
    exact congrArg wrd (planLimit_stand v _ rfl)
  · rw [words]
    exact wrd_sgn_sub tgt pos

theorem planEval_arrive (moves : v ≠ 0 ∨ d ≠ 0) (near : (planPar p sc).near v d) :
    Tbl.get 0 l 0 = BitVec.ofInt 32 (satS 32 (-v)) ∧ Tbl.get 0 l 1 = 0 ∧ (Tbl.get 0 l 2).toNat % 128 = 0x58 ∧
      Tbl.get 0 l 3 = BitVec.ofInt 32 (g - pos.toInt) ∧ (Tbl.get 0 l 2).getLsbD 8 = decide (g ≠ tgt.toInt) := by
  have words := planEval_target hv hl stop halt target limits hg hd (PlanPar.position_arrive moves near _)
  obtain ⟨acc, flags, -, clamped⟩ := planWords_toward _ (r := arrivePlan _) (show 0x58 < 128 by decide) words
  refine ⟨?_, ?_, flags, ?_, clamped⟩
  · rw [acc]
    exact congrArg (fun z => BitVec.ofInt 32 (satS 32 z)) (Int.zero_sub v)
  · rw [words]
    exact congrArg wrd (planLimit_stand v _ rfl)
  · rw [words]
    show BitVec.ofInt 32 (lowS 32 (g - pos.toInt)) = _
    rw [lowS_eq, BitVec.ofInt_toInt]

/-- A plan toward the target that changes the speed to `u'` in the direction `s`, with the flags `f`. -/
theorem planEval_change {s u' : Int} {f : Nat} (low : f < 0x60 ∧ f % 32 = 0)
    (hr : (planPar p sc).position v d (lowS 32 (g - pos.toInt)) = (planPar p sc).change s v u' f) :
    Tbl.get 0 l 0 = BitVec.ofInt 32 (satS 32 (s * u' - v)) ∧ Tbl.get 0 l 1 = BitVec.ofInt 32
      (if v < s * u' then -((-(s * u')) >>> (8 : Nat)) else if s * u' < v then (s * u') >>> (8 : Nat)
        else v >>> (8 : Nat)) ∧ Tbl.get 0 l 3 = tgt - pos ∧ (Tbl.get 0 l 2).getLsbD 5 = decide (f / 32 % 2 = 1) ∧
      (Tbl.get 0 l 2).getLsbD 8 = decide (g ≠ tgt.toInt) ∧
      (Tbl.get 0 l 2).toNat % 16 = (planPar p sc).armOf v.natAbs u' := by
  have words := planEval_target hv hl stop halt target limits hg hd hr
  have arm := armOf_le (planPar p sc) v.natAbs u'
  have sum : ((planPar p sc).change s v u' f).arm + ((planPar p sc).change s v u' f).flags =
      (planPar p sc).armOf v.natAbs u' + f := rfl
  obtain ⟨-, flags, reversal, clamped⟩ := planWords_toward _ (sum ▸ by omega) words
  obtain ⟨acc, limit, gap⟩ := planWords_change ⟨rfl, rfl, rfl⟩ words
  rw [sum] at flags reversal
  refine ⟨acc, limit, gap.trans (wrd_sgn_sub tgt pos), ?_, clamped, by omega⟩
  rw [reversal]
  exact decide_eq_decide.mpr (by omega)

end

/-- A plan toward the speed `w` without soft limits. -/
theorem planEval_speed {w u' : Int} (stop : c.getLsbD 2 = false) (hard : c.getLsbD 5 = false)
    (h : c.getLsbD 3 = true ∨ c.toNat % 4 = 1 ∨ c.toNat % 4 = 2 ∧ c.toNat / 512 % 8 ≠ 1 ∧ c.toNat / 512 % 8 ≠ 2 ∧
      c.toNat / 512 % 8 ≠ 4 ∨ c.toNat % 4 ≠ 2 ∧ c.getLsbD 8 = true)
    (hw : w = if c.getLsbD 3 = false ∧ c.toNat % 4 = 1
      then max (-(planPar p sc).vmax) (min (planPar p sc).vmax (tgt.toInt * 256)) else 0)
    (hu : u' = if v ≠ 0 ∧ w.sign ≠ v.sign then (planPar p sc).down v.natAbs 0
      else if (v.natAbs : Int) < w.natAbs then (planPar p sc).up v.natAbs w.natAbs
      else if (w.natAbs : Int) < v.natAbs then (planPar p sc).down v.natAbs w.natAbs else v.natAbs) :
    Tbl.get 0 l 0 = BitVec.ofInt 32 (satS 32 (signOf v w * u' - v)) ∧ Tbl.get 0 l 1 = BitVec.ofInt 32
      (if v < signOf v w * u' then -((-(signOf v w * u')) >>> (8 : Nat))
        else if signOf v w * u' < v then (signOf v w * u') >>> (8 : Nat) else v >>> (8 : Nat)) ∧
      Tbl.get 0 l 3 = tgt - pos ∧ (Tbl.get 0 l 2).getLsbD 5 = false ∧
      (Tbl.get 0 l 2).toNat % 16 = (planPar p sc).armOf v.natAbs u' := by
  have positive : -(planPar p sc).vmax ≤ (planPar p sc).vmax := by
    show -(((Tbl.get 0 p 4).toNat : Int) * 256) ≤ ((Tbl.get 0 p 4).toNat : Int) * 256
    omega
  rw [min_comm, ← clampZ_eq positive] at hw
  obtain ⟨n, choice⟩ := planChoice_speed (v := v) (p := pos.toInt * 2 ^ 24 + (frac.toNat / 256 : Nat)) (pos := pos)
    (part := frac.toNat / 256) stop hard h hw
  rw [PlanPar.velocity_eq, ← hu] at choice
  have words := planEval_of hv hl choice
  have arm := armOf_le (planPar p sc) v.natAbs u'
  obtain ⟨acc, limit, gap⟩ := planWords_change ⟨rfl, rfl, rfl⟩ words
  obtain ⟨flags, reversal⟩ := planWords_flags (n := (planPar p sc).armOf v.natAbs u' + (0 + 128 * n)) rfl words
  refine ⟨acc, limit, gap.trans (wrd_sgn_sub tgt pos), ?_, by omega⟩
  rw [reversal]
  exact decide_eq_false (by omega)

end

end Sys2Proof.Machine

namespace Sys2Proof.Machine

set_option Elab.async false

/-! ### Reads of a bank without flaws (R112, R507) -/

/-- The state after reads of words that carry no error: `x` is what the banks note of words corrected before. -/
def State.readBy (s : State) (x : List Nat) : State := { s with mem := { s.mem with corrected := x } }

/-- The words at `a` of the banks, as a signed number. -/
def State.bankInt (s : State) (a : Nat) : Int := (memWord s.mem.cells a).toInt

section
variable {s : State}

theorem readMem_clean (clean : s.mem.flaws = []) (a : Nat) :
    ∃ x, s.readMem a = (memWord s.mem.cells a, false, s.readBy x) := by
  have none : s.flawAt a = none := by
    unfold State.flawAt
    rw [clean]
    rfl
  unfold State.readMem
  rw [none]
  exact ⟨_, rfl⟩

theorem tableWord_clean (clean : s.mem.flaws = []) (x : List Nat) {e a : Nat} (own : s.ownerFault e a = none) :
    ∃ y, (s.readBy x).tableWord e a = (s.bankInt a, none, s.readBy y) := by
  obtain ⟨y, read⟩ := readMem_clean (s := s.readBy x) clean a
  have own' : (s.readBy x).ownerFault e a = none := own
  unfold State.tableWord State.engReads
  rw [own', read]
  exact ⟨y, rfl⟩

theorem tableWords_clean (clean : s.mem.flaws = []) (x : List Nat) {e : Nat} (l : List Nat)
    (own : ∀ a ∈ l, s.ownerFault e a = none) :
    ∃ y, (s.readBy x).tableWords e l = (l.map s.bankInt, none, s.readBy y) := by
  induction l generalizing x with
  | nil => exact ⟨x, rfl⟩
  | cons a l ih =>
    obtain ⟨y, first⟩ := tableWord_clean clean x (own a List.mem_cons_self)
    obtain ⟨z, rest⟩ := ih y fun b hb => own b (List.mem_cons_of_mem a hb)
    unfold State.tableWords
    rw [first]
    dsimp only
    rw [rest]
    exact ⟨z, rfl⟩

/-! ### TBL's table (R156) -/

/-- A table of TBL over its entries `E`, read or interpolated at `x` past its first place, the places `2 ^ f` apart. -/
def tblValue (E : Nat → Int) (n f : Nat) (interp : Bool) (x : Int) : Int :=
  if x >>> f < 0 then E 0 else if (n : Int) - 1 ≤ x >>> f then E (n - 1)
  else if interp then E (x >>> f).toNat + ((E ((x >>> f).toNat + 1) - E (x >>> f).toNat) * (x - x >>> f * 2 ^ f)) >>> f
  else E (x >>> f).toNat

/-- The place lies outside the table. -/
def tblOut (n f : Nat) (x : Int) : Bool :=
  decide (x >>> f < 0 ∨ (n : Int) - 1 < x >>> f ∨ (x >>> f = (n : Int) - 1 ∧ x >>> f * 2 ^ f < x))

/-- What TBL answers at `x`: the value, and SAT, which `bad` alone sets within the table. -/
def tblPick (E : Nat → Int) (n f : Nat) (interp bad : Bool) (x : Int) : Int × Bool :=
  let i := x >>> f
  let j := (clampZ 0 ((n : Int) - 1) i).toNat
  if i < 0 then (E j, true)
  else if (n : Int) - 1 < i || (i == (n : Int) - 1 && decide (0 < x - i * 2 ^ f)) then (E j, true)
  else if i = (n : Int) - 1 || !interp then (E j, bad)
  else (E j + shr ((E (min (j + 1) (n - 1)) - E j) * (x - i * 2 ^ f)) f, bad)

section
variable {E : Nat → Int} {n f : Nat} {interp bad : Bool} {x : Int}

/-- What is made of TBL's answer is made of it in each of its cases. -/
theorem tblPick_answer {α : Type} (F : Int × Bool → α) : F (tblPick E n f interp bad x) =
    if x >>> f < 0 then F (E (clampZ 0 ((n : Int) - 1) (x >>> f)).toNat, true)
    else if (n : Int) - 1 < x >>> f || (x >>> f == (n : Int) - 1 && decide (0 < x - x >>> f * 2 ^ f)) then
      F (E (clampZ 0 ((n : Int) - 1) (x >>> f)).toNat, true)
    else if x >>> f = (n : Int) - 1 || !interp then F (E (clampZ 0 ((n : Int) - 1) (x >>> f)).toNat, bad)
    else F (E (clampZ 0 ((n : Int) - 1) (x >>> f)).toNat +
      shr ((E (min ((clampZ 0 ((n : Int) - 1) (x >>> f)).toNat + 1) (n - 1)) -
        E (clampZ 0 ((n : Int) - 1) (x >>> f)).toNat) * (x - x >>> f * 2 ^ f)) f, bad) := by
  unfold tblPick
  rw [apply_ite F, apply_ite F, apply_ite F]

theorem tblPick_eq (two : 2 ≤ n) : tblPick E n f interp bad x = (tblValue E n f interp x, tblOut n f x || bad) := by
  unfold tblPick tblValue tblOut
  dsimp only
  rw [clampZ_eq (by omega), shr_eq]
  generalize x >>> f = i
  have past : ((n : Int) - 1 < i || i == (n : Int) - 1 && decide (0 < x - i * 2 ^ f)) =
      decide ((n : Int) - 1 < i ∨ (i = (n : Int) - 1 ∧ i * 2 ^ f < x)) := by
    simp only [beq_eq_decide, Bool.decide_or, Bool.decide_and, sub_pos]
  rw [past]
  by_cases below : i < 0
  · rw [if_pos below, if_pos below, decide_eq_true (.inl below),
      show (max 0 (min i ((n : Int) - 1))).toNat = 0 by omega]
    rfl
  by_cases last : (n : Int) - 1 ≤ i
  · rw [if_neg below, if_neg below, if_pos last, show (max 0 (min i ((n : Int) - 1))).toNat = n - 1 by omega]
    by_cases beyond : (n : Int) - 1 < i ∨ (i = (n : Int) - 1 ∧ i * 2 ^ f < x)
    · rw [if_pos (decide_eq_true beyond), decide_eq_true (.inr beyond)]
      rfl
    · have at' : i = (n : Int) - 1 := by omega
      rw [if_neg (by simpa using beyond), if_pos (by simp [at']), decide_eq_false (not_or.mpr ⟨below, beyond⟩)]
      rfl
  · have within : ¬((n : Int) - 1 < i ∨ (i = (n : Int) - 1 ∧ i * 2 ^ f < x)) := by omega
    have between : i ≠ (n : Int) - 1 := by omega
    rw [if_neg below, if_neg below, if_neg last, if_neg (by simpa using within),
      decide_eq_false (not_or.mpr ⟨below, within⟩), show (max 0 (min i ((n : Int) - 1))).toNat = i.toNat by omega,
      show min (i.toNat + 1) (n - 1) = i.toNat + 1 by omega]
    cases interp
    · exact if_pos (by simp)
    · exact if_neg (by simp [between])

end

theorem sgn_header (w : Word) : (sgn w % 4294967296).toNat = w.toNat := by
  have := w.isLt
  unfold sgn
  rw [BitVec.toInt_eq_toNat_cond]
  split <;> omega

theorem tbl_clean (clean : s.mem.flaws = []) (x₀ : List Nat) {e T h n f : Nat} {a : Int}
    {interp : Bool} {entry : Int → Int} (hh : h = (memWord s.mem.cells (T + 0)).toNat)
    (hn : n = if 2 ≤ h % 2048 ∧ h % 2048 ≤ 1024 then h % 2048 else 2) (hf : f = min (h / 65536 % 32) 16)
    (own : ∀ k < n + 2, s.ownerFault e (T + 4 * k) = none) {x : Int} (hx : x = a - (memWord s.mem.cells (T + 4)).toInt) :
    ∃ y, (s.readBy x₀).tbl e T a interp entry = (tblValue (fun j => entry (s.bankInt (T + 8 + 4 * j))) n f interp x,
      tblOut n f x || decide (n ≠ h % 2048 ∨ f ≠ h / 65536 % 32), none, s.readBy y) := by
  have two : 2 ≤ n := by rw [hn]; split <;> omega
  have ownAt : ∀ j < n, s.ownerFault e (T + 8 + 4 * j) = none := fun j hj => by
    rw [show T + 8 + 4 * j = T + 4 * (j + 2) by omega]
    exact own _ (by omega)
  obtain ⟨y, head⟩ := tableWords_clean clean x₀ (e := e) [T, T + 4] (by
    simp only [List.mem_cons, List.not_mem_nil, or_false]
    rintro b (rfl | rfl)
    · exact own 0 (by omega)
    · exact own 1 (by omega))
  unfold State.tbl
  rw [head]
  dsimp only
  have header : (Tbl.get 0 (List.map s.bankInt [T, T + 4]) 0 % 4294967296).toNat = h := hh ▸ sgn_header _
  have count : (if (decide (2 ≤ h % 2048) && decide (h % 2048 ≤ 1024)) = true then h % 2048 else 2) = n := by
    rw [hn]
    simp only [Bool.and_eq_true, decide_eq_true_eq]
  have place : a - Tbl.get 0 (List.map s.bankInt [T, T + 4]) 1 = x := hx.symm
  rw [header, count, ← hf, place, shr_eq]
  obtain ⟨z, entries⟩ := tableWords_clean clean y (e := e)
    [T + 8 + 4 * (clampZ 0 ((n : Int) - 1) (x >>> f)).toNat,
      T + 8 + 4 * min ((clampZ 0 ((n : Int) - 1) (x >>> f)).toNat + 1) (n - 1)] (by
    rw [clampZ_eq (by omega)]
    simp only [List.mem_cons, List.not_mem_nil, or_false]
    rintro b (rfl | rfl)
    · exact ownAt _ (by omega)
    · exact ownAt _ (by omega))
  rw [entries]
  have bad : (n != h % 2048 || f != h / 65536 % 32) = decide (n ≠ h % 2048 ∨ f ≠ h / 65536 % 32) := by
    simp only [bne, beq_eq_decide, ne_eq, Bool.decide_or, decide_not]
  have answer := tblPick_answer (E := fun j => entry (s.bankInt (T + 8 + 4 * j))) (n := n) (f := f) (interp := interp)
    (bad := decide (n ≠ h % 2048 ∨ f ≠ h / 65536 % 32)) (x := x)
    (fun r => ((r.1, r.2, none, s.readBy z) : Int × Bool × Option Nat × State))
  rw [tblPick_eq two] at answer
  rw [bad]
  exact ⟨z, answer.symm⟩

end

end Sys2Proof.Machine

namespace Sys2Proof.Machine

set_option Elab.async false

/-! ### CAMI's bisection (R162) -/

/-- The bisection over the keyframes `K` of a table of `n`. -/
def bisect (K : Nat → Int) (n : Nat) (m : Int) : Nat → Nat → Nat
  | 0, i => i
  | k + 1, i => if i + 2 ^ k ≤ n - 1 ∧ K (i + 2 ^ k) ≤ m then bisect K n m k (i + 2 ^ k) else bisect K n m k i

/-- Index `i` is that of the last keyframe at or below `m`, or 0. -/
def LastBelow (K : Nat → Int) (n : Nat) (m : Int) (i : Nat) : Prop :=
  i < n ∧ (m < K 0 → i = 0) ∧ (K 0 ≤ m → K i ≤ m) ∧ (i + 1 < n → m < K (i + 1))

/-- The keyframes ascend. -/
def Ascending (K : Nat → Int) (n : Nat) : Prop := ∀ i j, i < j → j < n → K i < K j

theorem ascending_of_step {K : Nat → Int} {n : Nat} (h : ∀ k < n - 1, K k < K (k + 1)) : Ascending K n := by
  intro i j hij
  induction hij with
  | refl => exact fun hj => h i (by omega)
  | @step j _ ih => exact fun hj => (ih (by omega)).trans (h j (by omega))

section
variable {K : Nat → Int} {n : Nat} {m : Int}

/-- The bisection ends at the last keyframe at or below `m` where the keyframes out of its reach lie above `m`. -/
theorem bisect_spec (asc : Ascending K n) (k i : Nat) (hi : i < n) (low : i = 0 ∨ K i ≤ m)
    (high : ∀ j, i + 2 ^ k ≤ j → j < n → m < K j) :
    bisect K n m k i < n ∧ (bisect K n m k i = 0 ∨ K (bisect K n m k i) ≤ m) ∧
      ∀ j, bisect K n m k i < j → j < n → m < K j := by
  induction k generalizing i with
  | zero => exact ⟨hi, low, fun j hj => high j hj⟩
  | succ k ih =>
    have double : i + 2 ^ (k + 1) = i + 2 ^ k + 2 ^ k := by rw [Nat.pow_succ]; omega
    unfold bisect
    split
    next reached => exact ih _ (by omega) (.inr reached.2) fun j hj => high j (double ▸ hj)
    next above =>
      refine ih i hi low fun j hj hn => ?_
      have past : m < K (i + 2 ^ k) := by
        by_contra below
        exact above ⟨by omega, not_lt.mp below⟩
      obtain rfl | lt := Nat.eq_or_lt_of_le hj
      · exact past
      · exact past.trans (asc _ _ lt hn)

theorem bisect_eq (asc : Ascending K n) (hn : n ≤ 256) {i : Nat} (h : LastBelow K n m i) : bisect K n m 8 0 = i := by
  obtain ⟨hi, first, below, above⟩ := h
  obtain ⟨lt, low, high⟩ := bisect_spec (m := m) asc 8 0 (by omega) (.inl rfl) fun j hj hlt => by omega
  generalize bisect K n m 8 0 = r at *
  by_cases start : m < K 0
  · rw [first start]
    obtain zero | low := low
    · exact zero
    · by_contra ne
      exact absurd (asc 0 r (by omega) lt) (by omega)
  · have ki := below (not_lt.mp start)
    obtain less | rfl | more := Nat.lt_trichotomy r i
    · exact absurd (high i less hi) (by omega)
    · rfl
    · have next := above (by omega)
      obtain zero | low := low
      · omega
      · obtain same | lt' := Nat.eq_or_lt_of_le (show i + 1 ≤ r from more)
        · subst same
          omega
        · exact absurd (asc _ _ lt' lt) (by omega)

end

/-- Keyframe `k` of the table at `T`, and its value. -/
def State.camiKey (s : State) (T k : Nat) : Int := s.bankInt (T + 4 + 8 * k)
def State.camiVal (s : State) (T k : Nat) : Int := s.bankInt (T + 8 + 8 * k)

section
variable {s : State} {e T n : Nat}

theorem probes_clean (clean : s.mem.flaws = []) (hn : 1 ≤ n) (own : ∀ k < n, s.ownerFault e (T + 4 + 8 * k) = none)
    (m : Int) (k i : Nat) (x : List Nat) :
    ∃ y, (s.readBy x).probes e T n m k i = (bisect (s.camiKey T) n m k i, none, s.readBy y) := by
  induction k generalizing i x with
  | zero => exact ⟨x, rfl⟩
  | succ k ih =>
    obtain ⟨y, probe⟩ := tableWord_clean clean x (own (min (i + 2 ^ k) (n - 1)) (by omega))
    unfold State.probes bisect
    dsimp only
    rw [probe]
    have key : i + 2 ^ k ≤ n - 1 → s.bankInt (T + 4 + 8 * min (i + 2 ^ k) (n - 1)) = s.camiKey T (i + 2 ^ k) :=
      fun h => by rw [Nat.min_eq_left h]; rfl
    by_cases reached : i + 2 ^ k ≤ n - 1 ∧ s.camiKey T (i + 2 ^ k) ≤ m
    · obtain ⟨z, rest⟩ := ih (i + 2 ^ k) y
      rw [if_pos reached]
      refine ⟨z, (if_pos ?_).trans rest⟩
      simpa only [key reached.1, Bool.and_eq_true, decide_eq_true_eq] using reached
    · obtain ⟨z, rest⟩ := ih i y
      rw [if_neg reached]
      refine ⟨z, (if_neg fun h => ?_).trans rest⟩
      simp only [Bool.and_eq_true, decide_eq_true_eq] at h
      exact reached ⟨h.1, key h.1 ▸ h.2⟩

end

/-- The value that CAMI reads or interpolates at `m`, index `i` being that of the last keyframe at or below it. -/
def camiValue (K V : Nat → Int) (n i : Nat) (m : Int) : Int :=
  if m < K 0 then V 0 else if K (n - 1) ≤ m then V (n - 1)
  else V i + Int.tdiv ((V (i + 1) - V i) * (m - K i)) (K (i + 1) - K i)

/-- What CAMI answers at `m` over the keyframes `K` and values `V` from the index `i`: value, index and SAT. -/
def camiPick (K V : Nat → Int) (n i : Nat) (m : Int) (bad : Bool) : Int × Nat × Bool :=
  let j := min (i + 1) (n - 1)
  if m < K 0 then (V 0, 0, true)
  else if K (n - 1) < m then (V (n - 1), n - 1, true)
  else if i = n - 1 then (V (n - 1), i, bad)
  else if K j - K i = 0 then (V i, i, true)
  else (V i + quotZ ((V j - V i) * (m - K i)) (K j - K i), i, bad)

section
variable {K V : Nat → Int} {n i : Nat} {m : Int}

theorem LastBelow.below_end (asc : Ascending K n) (h : LastBelow K n m i) (inner : i + 1 < n) : m < K (n - 1) := by
  have next := h.2.2.2 inner
  obtain last | lt := Nat.eq_or_lt_of_le (show i + 1 ≤ n - 1 by omega)
  · exact last ▸ next
  · exact next.trans (asc _ _ lt (by omega))

/-- What is made of CAMI's answer is made of it in each of its cases. -/
theorem camiPick_answer {α : Type} {bad : Bool} (F : Int × Nat × Bool → α) : F (camiPick K V n i m bad) =
    if m < K 0 then F (V 0, 0, true) else if K (n - 1) < m then F (V (n - 1), n - 1, true)
    else if i = n - 1 then F (V (n - 1), i, bad)
    else if K (min (i + 1) (n - 1)) - K i = 0 then F (V i, i, true)
    else F (V i + quotZ ((V (min (i + 1) (n - 1)) - V i) * (m - K i)) (K (min (i + 1) (n - 1)) - K i), i, bad) := by
  unfold camiPick
  rw [apply_ite F, apply_ite F, apply_ite F, apply_ite F]

theorem camiPick_eq (asc : Ascending K n) (h : LastBelow K n m i) (bad : Bool) :
    camiPick K V n i m bad = (camiValue K V n i m, i, decide (m < K 0 ∨ K (n - 1) < m) || bad) := by
  have inside := h.below_end asc
  obtain ⟨lt, first, reached, -⟩ := h
  unfold camiPick camiValue
  by_cases before : m < K 0
  · rw [if_pos before, if_pos before, decide_eq_true (.inl before), first before]
    rfl
  by_cases after : K (n - 1) < m
  · have last : i = n - 1 := by
      by_contra ne
      exact absurd (inside (by omega)) (by omega)
    rw [if_neg before, if_neg before, if_pos after, if_pos after.le, decide_eq_true (.inr after), last]
    rfl
  rw [if_neg before, if_neg before, if_neg after, decide_eq_false (not_or.mpr ⟨before, after⟩), Bool.false_or]
  by_cases last : i = n - 1
  · rw [if_pos last, if_pos (last ▸ reached (not_lt.mp before))]
  · have next : min (i + 1) (n - 1) = i + 1 := by omega
    have rises := asc i (i + 1) (by omega) (by omega)
    rw [if_neg last, if_neg (not_le.mpr (inside (by omega))), next, if_neg (by omega)]
    rfl

end

section
variable {s : State} {e T n : Nat}

theorem cami_clean (clean : s.mem.flaws = []) (x₀ : List Nat) {h i : Nat} {a m : Int}
    (hh : h = (memWord s.mem.cells (T + 0)).toNat) (hn : n = if h % 512 < 2 then 2 else min (h % 512) 256)
    (own : ∀ k < 2 * n + 1, s.ownerFault e (T + 4 * k) = none)
    (asc : ∀ k < n - 1, s.camiKey T k < s.camiKey T (k + 1))
    (hm : m = if h / 65536 % 2 = 1 then s.camiKey T 0 + (a - s.camiKey T 0) % (s.camiKey T (n - 1) - s.camiKey T 0)
      else a) (hi : LastBelow (s.camiKey T) n m i) :
    ∃ x, (s.readBy x₀).cami e T a = (camiValue (s.camiKey T) (s.camiVal T) n i m, i,
      decide (m < s.camiKey T 0 ∨ s.camiKey T (n - 1) < m) || decide (n ≠ h % 512), none, s.readBy x) := by
  have size : 2 ≤ n ∧ n ≤ 256 := by rw [hn]; split <;> omega
  have ascends := ascending_of_step asc
  have ownKey : ∀ k < n, s.ownerFault e (T + 4 + 8 * k) = none := fun k hk => by
    rw [show T + 4 + 8 * k = T + 4 * (2 * k + 1) by omega]
    exact own _ (by omega)
  have ownVal : ∀ k < n, s.ownerFault e (T + 8 + 8 * k) = none := fun k hk => by
    rw [show T + 8 + 8 * k = T + 4 * (2 * k + 2) by omega]
    exact own _ (by omega)
  obtain ⟨x, head⟩ := tableWord_clean clean x₀ (a := T) (own 0 (by omega))
  obtain ⟨y, ends⟩ := tableWords_clean clean x (e := e) [T + 4, T + 4 + 8 * (n - 1)] (by
    simp only [List.mem_cons, List.not_mem_nil, or_false]
    rintro b (rfl | rfl)
    · exact ownKey 0 (by omega)
    · exact ownKey _ (by omega))
  have ascent : 0 < s.camiKey T (n - 1) - s.camiKey T 0 := sub_pos.mpr (ascends 0 (n - 1) (by omega) (by omega))
  have folded : (if (h / 65536 % 2 == 1 && decide (0 < s.camiKey T (n - 1) - s.camiKey T 0)) = true
      then s.camiKey T 0 + (a - s.camiKey T 0) % (s.camiKey T (n - 1) - s.camiKey T 0) else a) = m := by
    rw [hm, decide_eq_true ascent, Bool.and_true]
    simp only [beq_iff_eq]
  have bad : (n != h % 512 || (h / 65536 % 2 == 1 && decide (s.camiKey T (n - 1) - s.camiKey T 0 ≤ 0))) =
      decide (n ≠ h % 512) := by
    rw [decide_eq_false (not_le.mpr ascent), Bool.and_false, Bool.or_false]
    simp only [bne, beq_eq_decide, ne_eq, decide_not]
  obtain ⟨z, probes⟩ := probes_clean clean (by omega) ownKey m 8 0 y
  rw [bisect_eq ascends size.2 hi] at probes
  obtain ⟨u, words⟩ := tableWords_clean clean z (e := e)
    [T + 4, T + 8, T + 4 + 8 * i, T + 8 + 8 * i, T + 4 + 8 * min (i + 1) (n - 1), T + 8 + 8 * min (i + 1) (n - 1),
      T + 8 + 8 * (n - 1)] (by
    have below := hi.1
    simp only [List.mem_cons, List.not_mem_nil, or_false]
    rintro b (rfl | rfl | rfl | rfl | rfl | rfl | rfl)
    · exact ownKey 0 (by omega)
    · exact ownVal 0 (by omega)
    · exact ownKey _ below
    · exact ownVal _ below
    · exact ownKey _ (by omega)
    · exact ownVal _ (by omega)
    · exact ownVal _ (by omega))
  have header : (s.bankInt T % 4294967296).toNat = h := hh ▸ sgn_header _
  have key0 : Tbl.get 0 (List.map s.bankInt [T + 4, T + 4 + 8 * (n - 1)]) 0 = s.camiKey T 0 := rfl
  have key1 : Tbl.get 0 (List.map s.bankInt [T + 4, T + 4 + 8 * (n - 1)]) 1 = s.camiKey T (n - 1) := rfl
  unfold State.cami
  rw [head]
  dsimp only
  rw [header, ← hn, ends]
  dsimp only
  rw [key0, key1, folded, bad, probes]
  dsimp only
  rw [words]
  have answer := camiPick_answer (K := s.camiKey T) (V := s.camiVal T) (n := n) (i := i) (m := m)
    (bad := decide (n ≠ h % 512))
    (fun r => ((r.1, r.2.1, r.2.2, none, s.readBy u) : Int × Nat × Bool × Option Nat × State))
  rw [camiPick_eq ascends hi] at answer
  exact ⟨u, answer.symm⟩

end

end Sys2Proof.Machine

namespace Sys2Proof.Machine

set_option Elab.async false

/-! ### TBL, CAMI, OBSV and PLAN on their engine (R155 to R162) -/

/-- TBL on the engine `g` with what it read, and whether that set SAT. -/
def tblEng (c : Shot) (y : Int) (st : Bool) (g : Eng) : Eng :=
  ((g.setOp (c.b 2) (wrd (satS 32 y))).satIf (st || outS 32 y)).missIf (c.untagged g (c.b 3))

/-- CAMI on the engine `g` with what it read, its index, and whether that set SAT. -/
def camiEng (c : Shot) (y : Int) (i : Nat) (st : Bool) (g : Eng) : Eng :=
  ((g.setOps (c.b 2) [wrd (satS 32 y), u32 i]).satIf (st || outS 32 y)).missIf (c.untagged g (c.b 3))

section
variable {c : Shot} {s u : State}

theorem shotTbl_read {y : Int} {st : Bool}
    (h : s.tbl c.e (c.table (c.kidx 4)) (sgn (c.src (s.eng c.e) (c.b 3))) (c.b 6 == 1) id = (y, st, none, u)) :
    shotTbl c s = (none, u.modEng c.e (tblEng c y st)) := by
  unfold shotTbl
  dsimp only
  rw [h]
  rfl

theorem shotCami_read {y : Int} {i : Nat} {st : Bool}
    (h : s.cami c.e (c.table (c.kidx 4)) (sgn (c.src (s.eng c.e) (c.b 3))) = (y, i, st, none, u)) :
    shotCami c s = (none, u.modEng c.e (camiEng c y i st)) := by
  unfold shotCami
  dsimp only
  rw [h]
  rfl

end

section
variable {e : Fin 9} {f : Fetch} {s : State}

/-- A word that a selector names reads the same once the shot is fetched. -/
theorem src_reading (h : s.engs.length = 9) (c : Shot) (v : Nat) :
    c.src ((s.reading e f).eng e) v = c.src (s.eng e) v := by
  rw [reading_eng h]
  rfl

/-- A ready shot that reads words without errors and then touches only its engine. -/
theorem tableShot_runs {i : Instr} {op : Nat} {x : Out} {eff : Effect} {F : Eng → Eng} {z : List Nat}
    (hd : ∀ t, x = .next t → Does Parts.shotStore s t) (h : s.shotReady op e f = true)
    (hu : eff (s.shotOf e f) (s.reading e f) = (none, ((s.reading e f).readBy z).modEng e F))
    (hF : ∀ g, (F g).shots = g.shots ∧ (F g).cycles = g.cycles) (he : exec i s = x := by rfl)
    (hx : x = whenPowered s fun s => s.runShot op e f eff := by rfl) : Runs i s Parts.shotStore fun t =>
      ∃ r, ShotDone s e ((s.shotOf e f).cycles op) (F ((s.eng e).fetching r)) t :=
  (modEng_runs hd h hu rfl rfl hF he hx).mono fun _ done => done.1

theorem tbl_runs {T hd n F : Nat} {x y : Int} (h : s.shotReady 0x13 e f = true) (clean : s.mem.flaws = [])
    (hT : T = (s.shotOf e f).table ((s.shotOf e f).kidx 4)) (hh : hd = (memWord s.mem.cells (T + 0)).toNat)
    (hn : n = if 2 ≤ hd % 2048 ∧ hd % 2048 ≤ 1024 then hd % 2048 else 2) (hF : F = min (hd / 65536 % 32) 16)
    (own : ∀ k < n + 2, s.ownerFault e (T + 4 * k) = none)
    (hx : x = ((s.shotOf e f).src (s.eng e) ((s.shotOf e f).b 3)).toInt - (memWord s.mem.cells (T + 4)).toInt)
    (hy : tblValue (fun j => s.bankInt (T + 8 + 4 * j)) n F ((s.shotOf e f).b 6 == 1) x = y) :
    Runs (.tbl e f) s Parts.shotStore fun t =>
      (t.eng e).op ((s.shotOf e f).b 2) = wrd (satS 32 y) ∧ (t.eng e).sat =
        ((s.eng e).sat || (tblOut n F x || decide (n ≠ hd % 2048 ∨ F ≠ hd / 65536 % 32) || outS 32 y)) ∧
      WroteSlot s e ((s.shotOf e f).b 2) t := by
  subst hy hT
  have legal := ready_legal h
  simp only [Shot.legal, Bool.and_eq_true] at legal
  have slot : (s.shotOf e f).b 2 < (s.eng e).ops.length := ready_slots h ▸ slot_lt legal.1.1.1.1
  rw [← src_reading (f := f) (ready_unpack h).2.1] at hx
  obtain ⟨z, found⟩ := tbl_clean (s := s.reading e f) clean s.mem.corrected (interp := (s.shotOf e f).b 6 == 1)
    (entry := id) hh hn hF own hx
  refine (tableShot_runs (execTbl_does e f s) h (shotTbl_read found) fun _ => ⟨rfl, rfl⟩).mono
    fun t ⟨r, done⟩ => ⟨?_, done.sat, ?_⟩
  · exact (done.op_eq _).trans (op_setOp _ _ _ slot)
  · exact done.wroteSlot rfl rfl fun j ne => op_setOp_ne _ _ _ _ ne

theorem cami_runs {T hd n i : Nat} {m : Int} (h : s.shotReady 0x18 e f = true) (clean : s.mem.flaws = [])
    (hT : T = (s.shotOf e f).table ((s.shotOf e f).kidx 4)) (hh : hd = (memWord s.mem.cells (T + 0)).toNat)
    (hn : n = if hd % 512 < 2 then 2 else min (hd % 512) 256)
    (own : ∀ k < 2 * n + 1, s.ownerFault e (T + 4 * k) = none)
    (asc : ∀ k < n - 1, s.camiKey T k < s.camiKey T (k + 1))
    (hm : m = if hd / 65536 % 2 = 1 then s.camiKey T 0 +
      (((s.shotOf e f).src (s.eng e) ((s.shotOf e f).b 3)).toInt - s.camiKey T 0) %
        (s.camiKey T (n - 1) - s.camiKey T 0) else ((s.shotOf e f).src (s.eng e) ((s.shotOf e f).b 3)).toInt)
    (hi : LastBelow (s.camiKey T) n m i) {y : Int} (hy : camiValue (s.camiKey T) (s.camiVal T) n i m = y) :
    Runs (.cami e f) s Parts.shotStore fun t =>
      WroteSlots s e ((s.shotOf e f).b 2) [wrd (satS 32 y), u32 i] t ∧ (t.eng e).sat =
        ((s.eng e).sat ||
          (decide (m < s.camiKey T 0 ∨ s.camiKey T (n - 1) < m) || decide (n ≠ hd % 512) || outS 32 y)) ∧
      ShotCounted s e t := by
  subst hy hT
  have legal := ready_legal h
  simp only [Shot.legal, Bool.and_eq_true] at legal
  have room := Shot.slots_le legal.1.1.1
  rw [← src_reading (f := f) (ready_unpack h).2.1] at hm
  obtain ⟨z, found⟩ := cami_clean (s := s.reading e f) clean s.mem.corrected hh hn own asc hm hi
  refine (tableShot_runs (execCami_does e f s) h (shotCami_read found) fun _ => ⟨rfl, rfl⟩).mono
    fun t ⟨r, done⟩ => ⟨?_, done.sat, done.counted rfl rfl⟩
  refine done.wroteSlots (ops_setOps_congr _ _ rfl) ?_
  exact room.trans_eq (ready_slots h).symm

end

/-! ### OBSV (R158, R159) -/

/-- One phase of OBSV on the engine `g`, by the coefficients `t` and the input words `input`. -/
def obsvPhase (c : Shot) (t : List Int) (input : Nat → InWord) (g : Eng) (b : Nat) : Eng × Bool :=
  let val (i : Nat) : Int := (((input i).w.extractLsb' 0 16).toInt) * 2 ^ 15
  if (input (4 + b)).valid && (input (6 + b)).valid then
    let d := c.b 2 + 2 * b
    let r := observe (sgn (g.op d)) (sgn (g.op (d + 1))) (val (4 + b)) (val (6 + b)) (fun j => Tbl.get 0 t (8 * b + j))
    ((g.setOps d [wrd (satS 32 r.1), wrd (satS 32 r.2)]).satIf (outS 32 r.1 || outS 32 r.2), true)
  else (g, false)

/-- The input words that OBSV takes. -/
def obsvInput (c : Shot) (g : Eng) (i : Nat) : InWord := g.input (16 * c.ctx + i)

/-- OBSV on the engine `g`, by the coefficients `t`. -/
def obsvEng (c : Shot) (t : List Int) (g : Eng) : Eng :=
  let a := obsvPhase c t (obsvInput c g) g 0
  let b := obsvPhase c t (obsvInput c g) a.1 1
  (b.1.setOp (c.b 3) (maskOf (a.2 && b.2))).missIf ([4, 5, 6, 7].any (fun i => !(obsvInput c g i).tag))

theorem shotObsv_read {c : Shot} {s u : State} {t : List Int}
    (h : s.tableWords c.e (wordAddrs (c.table (c.kidx 4)) 16) = (t, none, u)) :
    shotObsv c s = (none, u.modEng c.e (obsvEng c t)) := by
  unfold shotObsv
  rw [h]
  rfl

/-- The two states that a phase of OBSV reaches from those of the engine `g`. -/
def obsvStates (c : Shot) (t : List Int) (input : Nat → InWord) (g : Eng) (b : Nat) : Int × Int :=
  let val (i : Nat) : Int := (((input i).w.extractLsb' 0 16).toInt) * 2 ^ 15
  observe (sgn (g.op (c.b 2 + 2 * b))) (sgn (g.op (c.b 2 + 2 * b + 1))) (val (4 + b)) (val (6 + b))
    (fun j => Tbl.get 0 t (8 * b + j))

section
variable (c : Shot) (t : List Int) (input : Nat → InWord) (g : Eng) (b : Nat)

/-- What of an engine is neither its slots nor SAT passes through a phase of OBSV. -/
theorem obsvPhase_pres {α : Type} (p : Eng → α) (h : ∀ g i v, p (Eng.setOp g i v) = p g)
    (h' : ∀ g v, p (Eng.satIf g v) = p g) : p (obsvPhase c t input g b).1 = p g := by
  unfold obsvPhase
  dsimp only
  split
  · exact (h' _ _).trans (Eng.setOps_pres _ _ _ p h)
  · rfl

theorem obsvPhase_moved : (obsvPhase c t input g b).2 = ((input (4 + b)).valid && (input (6 + b)).valid) := by
  unfold obsvPhase
  dsimp only
  split
  next valid => exact valid.symm
  next invalid => exact (Bool.eq_false_iff.mpr invalid).symm

theorem obsvPhase_rest {j : Nat} (h : j < c.b 2 + 2 * b ∨ c.b 2 + 2 * b + 2 ≤ j) :
    (obsvPhase c t input g b).1.op j = g.op j := by
  unfold obsvPhase
  dsimp only
  split
  · exact op_setOps_ne _ _ h
  · rfl

theorem obsvPhase_here {k : Nat} (hk : k < 2) (room : c.b 2 + 2 * b + 2 ≤ g.ops.length) :
    (obsvPhase c t input g b).1.op (c.b 2 + 2 * b + k) =
      if (input (4 + b)).valid && (input (6 + b)).valid then
        Tbl.get 0 [wrd (satS 32 (obsvStates c t input g b).1), wrd (satS 32 (obsvStates c t input g b).2)] k
      else g.op (c.b 2 + 2 * b + k) := by
  unfold obsvPhase
  dsimp only
  split
  · exact op_setOps _ _ hk room
  · rfl

end

/-- What OBSV leaves in the slot `k` of its phase `b`. -/
def obsvSlot (c : Shot) (t : List Int) (g : Eng) (b k : Nat) : Word :=
  if (obsvInput c g (4 + b)).valid && (obsvInput c g (6 + b)).valid then
    Tbl.get 0 [wrd (satS 32 (obsvStates c t (obsvInput c g) g b).1),
      wrd (satS 32 (obsvStates c t (obsvInput c g) g b).2)] k
  else g.op (c.b 2 + 2 * b + k)

section
variable (c : Shot) (t : List Int) (g : Eng)

theorem obsvEng_pres {α : Type} (p : Eng → α) (h : ∀ g i v, p (Eng.setOp g i v) = p g)
    (h' : ∀ g v, p (Eng.satIf g v) = p g) (h'' : ∀ g v, p (Eng.missIf g v) = p g) : p (obsvEng c t g) = p g := by
  unfold obsvEng
  dsimp only
  rw [h'', h, obsvPhase_pres _ _ _ _ _ p h h', obsvPhase_pres _ _ _ _ _ p h h']

theorem obsvEng_mask (slot : c.b 3 < g.ops.length) : (obsvEng c t g).op (c.b 3) =
    maskOf (((obsvInput c g 4).valid && (obsvInput c g 6).valid) &&
      ((obsvInput c g 5).valid && (obsvInput c g 7).valid)) := by
  have length := fun h b => obsvPhase_pres c t (obsvInput c g) h b (fun g => g.ops.length)
    (fun g i v => Eng.length_ops_setOp g i v) fun _ _ => rfl
  refine (op_setOp _ _ _ ?_).trans ?_
  · exact slot.trans_eq ((length _ 1).trans (length g 0)).symm
  · rw [obsvPhase_moved, obsvPhase_moved]

theorem obsvEng_phase {b k : Nat} (hb : b < 2) (hk : k < 2) (room : c.b 2 + 4 ≤ g.ops.length)
    (away : c.b 2 + 4 ≤ c.b 3 ∨ c.b 3 + 1 ≤ c.b 2) : (obsvEng c t g).op (c.b 2 + 2 * b + k) = obsvSlot c t g b k := by
  refine (op_setOp_ne _ _ _ _ (by omega)).trans ?_
  obtain rfl | rfl : b = 0 ∨ b = 1 := by omega
  · exact (obsvPhase_rest _ _ _ _ 1 (by omega)).trans (obsvPhase_here _ _ _ _ 0 hk (by omega))
  · have kept : ∀ k < 2, (obsvPhase c t (obsvInput c g) g 0).1.op (c.b 2 + 2 * 1 + k) = g.op (c.b 2 + 2 * 1 + k) :=
      fun k _ => obsvPhase_rest _ _ _ _ 0 (by omega)
    have length := obsvPhase_pres c t (obsvInput c g) g 0 (fun g => g.ops.length)
      (fun g i v => Eng.length_ops_setOp g i v) fun _ _ => rfl
    refine (obsvPhase_here _ _ _ _ 1 hk (by rw [length]; omega)).trans ?_
    have states : obsvStates c t (obsvInput c g) (obsvPhase c t (obsvInput c g) g 0).1 1 =
        obsvStates c t (obsvInput c g) g 1 := by
      unfold obsvStates
      rw [← Nat.add_zero (c.b 2 + 2 * 1), kept 0 (by decide), kept 1 (by decide)]
    unfold obsvSlot
    rw [kept k hk, ← states]

theorem obsvEng_rest {j : Nat} (out : j < c.b 2 ∨ c.b 2 + 4 ≤ j) (ne : j ≠ c.b 3) :
    (obsvEng c t g).op j = g.op j :=
  (op_setOp_ne _ _ _ _ ne).trans ((obsvPhase_rest _ _ _ _ 1 (by omega)).trans (obsvPhase_rest _ _ _ _ 0 (by omega)))

end

section
variable {e : Fin 9} {f : Fetch} {s : State}

theorem obsv_runs {T : Nat} {t : List Int} (h : s.shotReady 0x15 e f = true) (clean : s.mem.flaws = [])
    (hT : T = (s.shotOf e f).table ((s.shotOf e f).kidx 4)) (own : ∀ k < 16, s.ownerFault e (T + 4 * k) = none)
    (ht : (wordAddrs T 16).map s.bankInt = t) : Runs (.obsv e f) s Parts.shotStore fun u =>
      (∀ b < 2, ∀ k < 2, (u.eng e).op ((s.shotOf e f).b 2 + 2 * b + k) =
        obsvSlot (s.shotOf e f) t (s.eng e) b k) ∧
      (u.eng e).op ((s.shotOf e f).b 3) = maskOf (
        ((obsvInput (s.shotOf e f) (s.eng e) 4).valid && (obsvInput (s.shotOf e f) (s.eng e) 6).valid) &&
        ((obsvInput (s.shotOf e f) (s.eng e) 5).valid && (obsvInput (s.shotOf e f) (s.eng e) 7).valid)) ∧
      ShotCounted s e u ∧
      ∀ j < 32, j < (s.shotOf e f).b 2 ∨ (s.shotOf e f).b 2 + 4 ≤ j → j ≠ (s.shotOf e f).b 3 →
        (u.eng e).op j = (s.eng e).op j := by
  subst hT ht
  have legal := ready_legal h
  simp only [Shot.legal, apart, Bool.and_eq_true, Bool.or_eq_true, decide_eq_true_eq] at legal
  obtain ⟨⟨⟨⟨states, mask⟩, -⟩, -⟩, away⟩ := legal
  have len := ready_slots h
  have room := (Shot.slots_le states).trans_eq len.symm
  have slot := (slot_lt mask).trans_eq len.symm
  obtain ⟨z, words⟩ := tableWords_clean (s := s.reading e f) clean s.mem.corrected (e := e)
    (wordAddrs ((s.shotOf e f).table ((s.shotOf e f).kidx 4)) 16) (by
      unfold wordAddrs
      simp only [List.mem_map, List.mem_range]
      rintro _ ⟨k, hk, rfl⟩
      exact own k hk)
  refine (tableShot_runs (execObsv_does e f s) h (shotObsv_read words) fun g => ⟨?_, ?_⟩).mono
    fun u ⟨r, done⟩ => ⟨fun b hb k hk => ?_, ?_, ?_, fun j _ out ne => ?_⟩
  · exact obsvEng_pres _ _ g Eng.shots (fun _ _ _ => rfl) (fun _ _ => rfl) fun _ _ => rfl
  · exact obsvEng_pres _ _ g Eng.cycles (fun _ _ _ => rfl) (fun _ _ => rfl) fun _ _ => rfl
  · exact (done.op_eq _).trans (obsvEng_phase _ _ _ hb hk room away)
  · exact (done.op_eq _).trans (obsvEng_mask _ _ _ slot)
  · exact done.counted (obsvEng_pres _ _ _ Eng.inp (fun _ _ _ => rfl) (fun _ _ => rfl) fun _ _ => rfl)
      (obsvEng_pres _ _ _ Eng.acc (fun _ _ _ => rfl) (fun _ _ => rfl) fun _ _ => rfl)
  · exact (done.op_eq _).trans (obsvEng_rest _ _ _ out ne)

end

/-! ### PLAN (R160) -/

/-- PLAN on the engine `g`: `o` are its operands, `sc` and `st` what it read of its table, and with `order` the hold
current lies above the run current. -/
def planEng (c : Shot) (o : Nat → Word) (sc : Int) (st order : Bool) (g : Eng) : Eng :=
  let par := (List.range 10).map (fun i => g.op (c.b 3 + i))
  let r := planEval (o 0) (o 1) (o 2) (o 3) par (c.src g (c.b 5)) sc
  ((g.setOps (c.b 4) (Tbl.mod r.1 2 (fun w => if order then w ||| u32 fParamOrder else w))).satIf (st || r.2)).missIf
    (c.untagged g (c.b 5))

theorem shotPlan_read {c : Shot} {s u : State} {sc : Int} {st : Bool} {o : Nat → Word}
    (ho : (fun i => (s.eng c.e).op (c.b 2 + i)) = o)
    (h : s.tbl c.e (c.table (c.kidx 6)) ((sgn (o 1) * 256 + ((o 2).toNat % 256 : Nat)).natAbs / 256 : Nat) true
      (clampZ 0 65536) = (sc, st, none, u)) :
    shotPlan c s = (none, u.modEng c.e (planEng c o sc st (u.holdAbove (u.shotAxis c.e c.ctx)))) := by
  subst ho
  unfold shotPlan
  dsimp only
  rw [h]
  rfl

theorem planEval_length (pos vel frac target c : Word) (par : List Word) (scale : Int) :
    (planEval pos vel frac target par c scale).1.length = 4 := by
  rw [planEval_eq]
  rfl

section
variable {e : Fin 9} {f : Fetch} {s : State}

/-- The four words that PLAN writes: those of its evaluation, with PARAM_ORDER also where the hold current lies above
the run current (R180). -/
theorem plan_runs {T hd n F : Nat} {v x y : Int} {l : List Word} (h : s.shotReady 0x16 e f = true)
    (clean : s.mem.flaws = []) (hT : T = (s.shotOf e f).table ((s.shotOf e f).kidx 6))
    (hv : v = ((s.eng e).op ((s.shotOf e f).b 2 + 1)).toInt * 256 +
      (((s.eng e).op ((s.shotOf e f).b 2 + 2)).toNat % 256 : Nat))
    (hh : hd = (memWord s.mem.cells (T + 0)).toNat)
    (hn : n = if 2 ≤ hd % 2048 ∧ hd % 2048 ≤ 1024 then hd % 2048 else 2) (hF : F = min (hd / 65536 % 32) 16)
    (own : ∀ k < n + 2, s.ownerFault e (T + 4 * k) = none)
    (hx : x = ((v.natAbs / 256 : Nat) : Int) - (memWord s.mem.cells (T + 4)).toInt)
    (hy : tblValue (fun j => clampZ 0 65536 (s.bankInt (T + 8 + 4 * j))) n F true x = y)
    (hl : l = (planEval ((s.eng e).op ((s.shotOf e f).b 2)) ((s.eng e).op ((s.shotOf e f).b 2 + 1))
      ((s.eng e).op ((s.shotOf e f).b 2 + 2)) ((s.eng e).op ((s.shotOf e f).b 2 + 3))
      ((List.range 10).map fun i => (s.eng e).op ((s.shotOf e f).b 3 + i))
      ((s.shotOf e f).src (s.eng e) ((s.shotOf e f).b 5)) y).1) :
    Runs (.plan e f) s Parts.shotStore fun t => WroteSlots s e ((s.shotOf e f).b 4)
      (Tbl.mod l 2 fun w => if s.holdAbove (s.shotAxis e (s.shotOf e f).ctx) then w ||| u32 fParamOrder else w) t ∧
      ShotCounted s e t := by
  subst hT hv hy hl
  have legal := ready_legal h
  simp only [Shot.legal, Bool.and_eq_true] at legal
  obtain ⟨⟨⟨⟨⟨⟨⟨-, -⟩, slots⟩, -⟩, -⟩, -⟩, -⟩, -⟩ := legal
  have same : (fun i => ((s.reading e f).eng e).op ((s.shotOf e f).b 2 + i)) =
      fun i => (s.eng e).op ((s.shotOf e f).b 2 + i) := by
    rw [reading_eng (ready_unpack h).2.1]
    rfl
  obtain ⟨z, found⟩ := tbl_clean (s := s.reading e f) clean s.mem.corrected (interp := true) (entry := clampZ 0 65536)
    hh hn hF own hx
  refine (tableShot_runs (execPlan_does e f s) h (shotPlan_read same found) fun g => ⟨?_, ?_⟩).mono
    fun t ⟨r, done⟩ => ⟨?_, ?_⟩
  · exact Eng.shots_setOps _ _ _
  · exact Eng.cycles_setOps _ _ _
  · refine done.wroteSlots (ops_setOps_congr _ _ rfl) ?_
    rw [Tbl.length_mod, planEval_length, ready_slots h]
    exact Shot.slots_le slots
  · exact done.counted (Eng.inp_setOps _ _ _) (Eng.acc_setOps _ _ _)

end

end Sys2Proof.Machine

namespace Sys2Proof.Machine

set_option Elab.async false

/-! ### Obligation O23 -/

/-- The words of a plan with PARAM_ORDER added where the hold current lies `above` the run current. -/
theorem planWord_get {l : List Word} (four : l.length = 4) {order : Bool} {above : Prop} [Decidable above]
    (ho : order = decide above) {k : Nat} (hk : k < 4) :
    Tbl.get 0 (Tbl.mod l 2 fun w => if order then w ||| u32 fParamOrder else w) k =
      Tbl.get 0 l k ||| (if k = 2 ∧ above then 0x800 else 0) := by
  subst ho
  by_cases flags : k = 2
  · subst flags
    rw [Tbl.get_mod_same 0 l 2 _ (by omega)]
    by_cases h : above
    · rw [if_pos (decide_eq_true h), if_pos ⟨rfl, h⟩]
      rfl
    · rw [if_neg (by simp [h]), if_neg (fun x => h x.2)]
      exact BitVec.or_zero.symm
  · rw [Tbl.get_mod_other 0 l _ flags, if_neg (fun h => flags h.1)]
    exact BitVec.or_zero.symm

/-- Settles O23: the four shots by what they read of their tables, and PLAN's evaluation by the command it follows. -/
theorem shotsReadTables : Obligations.ShotsReadTables := by
  refine ⟨?tbl, ?cami, ?obsv, ?plan, ?freeze, ?stand, ?stopHoming, ?rest, ?arrive, ?reversal, ?ahead, ?speed⟩
  case tbl =>
    rintro e f _ _ T hd n F x i y s h rfl rfl clean hT hh hn hF own hx rfl hy
    refine (tbl_runs h clean hT hh hn hF own hx (y := y) ?_).mono fun t ⟨val, sat, tail⟩ => ⟨val, ?_, tail⟩
    · rw [hy]
      unfold tblValue
      simp only [beq_iff_eq]
      rfl
    · rw [sat, ← Bool.or_assoc, ← Bool.or_assoc, Bool.or_right_comm _ (decide _)]
      rfl
  case cami =>
    rintro e f _ _ T hd n i m y s h rfl rfl clean hT hh hn own asc hm hi first below above rfl
    refine (cami_runs h clean hT hh hn own asc hm ⟨hi, first, below, above⟩ rfl).mono fun t ⟨wrote, sat, counted⟩ => ?_
    obtain ⟨val, index, tail⟩ := wrote.two counted
    refine ⟨val, index, ?_, tail⟩
    rw [sat, ← Bool.or_assoc, ← Bool.or_assoc, Bool.or_right_comm _ (decide _)]
    rfl
  case obsv =>
    rintro e f _ _ T r0 r1 r2 r3 s h rfl rfl clean hT own hr0 hr1 hr2 hr3
    refine (obsv_runs h clean hT own rfl).mono
      fun t ⟨phases, mask, ⟨shots, others, inp, acc⟩, rest⟩ => ?_
    rw [← shr_eq] at hr0 hr1 hr2 hr3
    subst hr0 hr1 hr2 hr3
    refine ⟨phases 0 (by decide) 0 (by decide), phases 0 (by decide) 1 (by decide), phases 1 (by decide) 0 (by decide),
      phases 1 (by decide) 1 (by decide), mask.trans (congrArg maskOf ?_), shots, others, inp, acc, rest⟩
    simp only [List.all_cons, List.all_nil, Bool.and_true, obsvInput]
    ac_rfl
  case plan =>
    rintro e f _ _ n T hd N F v x i y l s h rfl rfl clean rfl hT hv hh hn hF own hx rfl hy hl
    refine (plan_runs h clean hT hv hh hn hF own hx (y := y) ?_ hl).mono
      fun t ⟨wrote, shots, others, inp, acc⟩ => ?_
    · rw [hy]
      unfold tblValue
      simp only [clampZ_eq (show (0 : Int) ≤ 65536 by decide), if_true]
      rfl
    have four : l.length = 4 := by rw [hl, planEval_length]
    have length := (Tbl.length_mod l 2 fun w =>
      if s.holdAbove (s.shotAxis e (s.shotOf e f).ctx) then w ||| u32 fParamOrder else w).trans four
    refine ⟨fun k hk => ?_, shots, others, inp, acc, fun j _ out => wrote.rest j (length.symm ▸ out)⟩
    exact (wrote.here k (length.symm ▸ hk)).trans (planWord_get four rfl hk)
  case freeze =>
    rintro pos vel frac tgt c p l sc v _ _ _ hv rfl rfl rfl hl stop moves
    exact planEval_freeze hv hl stop moves
  case stand =>
    rintro pos vel frac tgt c p l sc v _ _ _ hv rfl rfl rfl hl stop still whole
    exact planEval_stand hv hl stop still whole
  case stopHoming =>
    rintro pos vel frac tgt c p l sc v _ _ _ hv rfl rfl rfl hl stop halt homing four
    exact planEval_stopHoming hv hl stop halt homing four
  case rest =>
    rintro pos vel frac tgt c p l sc v _ _ _ g d hv rfl rfl rfl hl stop halt target limits hg hd still reached
    exact planEval_rest hv hl stop halt target limits hg hd still reached
  case arrive =>
    rintro pos vel frac tgt c p l sc v _ _ _ g d hv rfl rfl rfl hl stop halt target limits hg hd moves near
    exact planEval_arrive hv hl stop halt target limits hg hd moves (planPar_near near)
  case reversal =>
    rintro pos vel frac tgt c p l sc v _ _ _ g d v' hv rfl rfl rfl hl stop halt target limits hg hd far moves away rfl
    have reversal := PlanPar.position_reversal (planPar_far (sc := sc) far) moves away (lowS 32 (g - pos.toInt))
    obtain ⟨acc, limit, gap, turns, clamped, -⟩ :=
      planEval_change hv hl stop halt target limits hg hd (by decide) reversal
    exact ⟨acc, limit, gap, turns, clamped⟩
  case ahead =>
    intro pos vel frac tgt c p l sc v _ _ _ g d vs a1 a2 u s cru acc dec ba bc u' v' hv hvm hw1 hw0 hl stop halt target
      limits hg hd far some' ahead d2 d1 hvs ha1 ha2 hu hs hcru hacc hdec hba hbc hu' hv'
    obtain rfl := ha1.trans (planPar_acc1 p sc).symm
    obtain rfl := ha2.trans (planPar_acc2 p sc).symm
    subst hvm hw1 hw0 hvs hu
    obtain rfl : s = signOf v d := hs
    obtain rfl : cru = (planPar p sc).cruise v.natAbs := hcru
    obtain rfl : acc = (planPar p sc).faster v.natAbs := hacc
    obtain rfl : dec = (planPar p sc).slower v.natAbs := hdec
    have brake := PlanPar.brake_eq (q := planPar p sc) d1 d2 (planPar_ordered p sc)
    obtain rfl : ba = (planPar p sc).brake _ := hba.trans (brake _).symm
    obtain rfl : bc = (planPar p sc).brake _ := hbc.trans (brake _).symm
    obtain rfl : u' = (planPar p sc).fastest (signOf v d) v d := hu'.trans (PlanPar.fastest_eq _ _ v d).symm
    subst hv'
    have forward := PlanPar.position_ahead (planPar_far (sc := sc) far) some' ahead (lowS 32 (g - pos.toInt))
    obtain ⟨acc, limit, gap, turns, clamped, arm⟩ :=
      planEval_change hv hl stop halt target limits hg hd (by decide) forward
    exact ⟨acc, limit, gap, turns, clamped, arm.trans (PlanPar.armOf_eq _ _ _)⟩
  case speed =>
    intro pos vel frac tgt c p l sc v _ _ _ vs a1 a2 u w u' v' hv hvm hw1 hw0 hl stop hard hvs ha1 ha2 hu hw mode hu'
      hv'
    obtain rfl := ha1.trans (planPar_acc1 p sc).symm
    obtain rfl := ha2.trans (planPar_acc2 p sc).symm
    subst hvm hw1 hw0 hvs hu hv'
    obtain ⟨acc, limit, gap, turns, arm⟩ := planEval_speed hv hl stop hard mode hw hu'
    exact ⟨acc, limit, gap, turns, arm.trans (PlanPar.armOf_eq _ _ _)⟩

end Sys2Proof.Machine

namespace Sys2Proof.Machine

set_option Elab.async false

/-! ### Parameters, positions, homing and cams (R178 to R181, R204, R231, R233, R302) -/

/-- No parameter has its register at AXn_PARAM_STAT. -/
theorem paramReg_ne_paramStat : ∀ (n : Fin 12) (i : Fin 31), paramReg n i ≠ AX_PARAM_STAT n := by decide

theorem rwMask_axCtrl : ∀ n : Fin 12, rwMask (AX_CTRL n) = 0x3F#32 := by decide

/-- HOMING_REQUEST writes MODE = HOMING, whatever the other bits of its word. -/
theorem homingWord_mode (v : Word) : ((v &&& ~~~3#32) ||| 2#32).toNat % 4 = 2 := by
  have low : ((v &&& ~~~3#32) ||| 2#32).setWidth 2 = 2#2 := by
    rw [BitVec.setWidth_or, BitVec.setWidth_and, show (~~~3#32).setWidth 2 = 0#2 from rfl, BitVec.and_zero]
    rfl
  rw [show (4 : Nat) = 2 ^ 2 from rfl, ← BitVec.toNat_setWidth, low]
  rfl

/-- The write mask of AXn_CTRL lets MODE through. -/
theorem axCtrlMode_of_masked (n : Fin 12) (v : Word) :
    (AX_CTRL.MODE n).of (v &&& rwMask (AX_CTRL n)) = v.toNat % 4 := by
  have low : (v &&& 0x3F#32).toNat = v.toNat % 2 ^ 6 := by
    rw [BitVec.toNat_and, show (0x3F#32).toNat = 2 ^ 6 - 1 from rfl, Nat.and_two_pow_sub_one_eq_mod]
  rw [rwMask_axCtrl, Fld.of, AX_CTRL.MODE, BitVec.ushiftRight_zero, low]
  exact Nat.mod_mod_of_dvd _ (show 2 ^ 2 ∣ 2 ^ 6 by decide)

section
variable {s : State}

theorem mot_modMot_same {n : Nat} (f : MotAx → MotAx) (h : n < s.mots.length) : (s.modMot n f).mot n = f (s.mot n) :=
  Tbl.get_mod_same _ s.mots n f h

theorem mot_modMot_other {n m : Nat} (f : MotAx → MotAx) (h : m ≠ n) : (s.modMot n f).mot m = s.mot m :=
  Tbl.get_mod_other _ s.mots f h

/-! #### What the writes do -/

theorem writeParam_refused {n i : Nat} {v : Word} (h : s.paramRefused n i (v &&& rwMask (paramReg n i)) = true) :
    s.writeParam n i v = s.refuse := if_pos h

theorem writeParam_taken (n : Fin 12) (i : Fin 31) {v : Word}
    (h : s.paramRefused n i (v &&& rwMask (paramReg n i)) = false) :
    (s.writeParam n i v).word (paramReg n i) = v &&& rwMask (paramReg n i) ∧
      (s.writeParam n i v).bitOf (AX_PARAM_STAT.PEND n) i = true := by
  have e : s.writeParam n i v = (s.setWord (paramReg n i) (v &&& rwMask (paramReg n i))).markParam n i :=
    if_neg (ne_true_of_eq_false h)
  rw [e]
  constructor
  · exact (State.word_put_other _ _ (paramReg_ne_paramStat n i)).trans (s.word_setWord_same ..)
  · exact bitOf_putBit_same _ (AX_PARAM_STAT.PEND n) i true ⟨i.isLt, (by decide : 0 + 31 ≤ 32)⟩

theorem writeSetpos_refused {n : Nat} {v : Word} (h : s.setposRefused n = true) : s.writeSetpos n v = s.refuse :=
  if_pos h

theorem writeSetpos_taken {n : Nat} {v : Word} (hn : n < s.mots.length) (h : s.setposRefused n = false) :
    ((s.writeSetpos n v).mot n).setpos = some v ∧ (s.writeSetpos n v).flag (AX_PARAM_STAT.SETPOS_PEND n) = true ∧
      ∀ m, m ≠ n → (s.writeSetpos n v).mot m = s.mot m := by
  have e : s.writeSetpos n v = s.issueSetpos n v := if_neg (ne_true_of_eq_false h)
  rw [e]
  refine ⟨?_, ?_, fun m hm => mot_modMot_other _ hm⟩
  · exact congrArg MotAx.setpos (mot_modMot_same (fun m => { m with setpos := some v }) hn)
  · exact flag_put_one _ (AX_PARAM_STAT.SETPOS_PEND n) ⟨rfl, (by decide : 31 + 1 ≤ 32)⟩

theorem writeAxCtrl_refused {n : Nat} {v : Word} (h : s.ctrlRefused n v = true) : s.writeAxCtrl n v = s.refuse :=
  if_pos h

/-- An accepted MODE = HOMING (R302, R306). -/
theorem writeAxCtrl_homing (n : Fin 12) {v : Word} (hn : n.val < s.mots.length) (h : s.ctrlRefused n v = false)
    (homing : v.toNat % 4 = 2) :
    (s.writeAxCtrl n v).fld (AX_CTRL.MODE n) = 2 ∧ ((s.writeAxCtrl n v).mot n).homeStart = true ∧
      ∀ m, m ≠ n.val → (s.writeAxCtrl n v).mot m = s.mot m := by
  unfold State.writeAxCtrl
  rw [if_neg (ne_true_of_eq_false h), if_pos homing]
  refine ⟨?_, ?_, fun m hm => mot_modMot_other _ hm⟩
  · exact (s.fld_setWord_same (AX_CTRL.MODE n) _).trans ((axCtrlMode_of_masked n v).trans homing)
  · rw [mot_modMot_same _ (by exact hn)]

theorem writeCamCtrl_refused {n : Nat} {v : Word} (h : s.camCtrlRefused n v = true) : s.writeCamCtrl n v = s.refuse :=
  if_pos h

theorem writeCamCtrl_taken {n : Nat} {v : Word} (h : s.camCtrlRefused n v = false) :
    (s.writeCamCtrl n v).word (CAM_AX_CTRL n) = v &&& rwMask (CAM_AX_CTRL n) ∧
      ∀ m, m ≠ n → (s.writeCamCtrl n v).mot m = s.mot m := by
  unfold State.writeCamCtrl
  rw [if_neg (ne_true_of_eq_false h)]
  dsimp only
  split
  case isTrue => exact ⟨s.word_setWord_same .., fun m hm => mot_modMot_other _ hm⟩
  case isFalse => exact ⟨s.word_setWord_same .., fun _ _ => rfl⟩

theorem writeBind_refused {n : Nat} {v : Word} (h : s.bindRefused n v = true) : s.writeBind n v = s.refuse :=
  if_pos h

theorem writeBind_waits {n : Nat} {v : Word} (h : s.bindRefused n v = false) :
    s.writeBind n v = s.await (CAM_AX_BIND n) v := if_neg (ne_true_of_eq_false h)

/-! #### The commands run to those writes -/

variable {P : State → Prop} (h : s.hostOpen)
include h

theorem paramWrite_runs {n : Fin 12} {i : Fin 31} {v : Word} (ax : s.hasAxis n = true)
    (hP : P (s.writeParam n i v).settle) : Runs (.paramWrite n i v) s [.regs, .intg, .spi] P := by
  refine runs_hostMeaning (execParamWrite_does n i v s) h ?_
  rwa [ax, Bool.true_or, if_pos rfl]

theorem axSetpos_runs {n : Fin 12} {v : Word} (ax : s.hasAxis n = true) (hP : P (s.writeSetpos n v).settle) :
    Runs (.axSetpos n v) s [.row AX_PARAM_STAT, .intg, .spi, .mots] P := by
  refine runs_hostMeaning (execAxSetpos_does n v s) h ?_
  rwa [if_pos ax]

theorem homingRequest_runs {n : Fin 12} {v : Word} (ax : s.hasAxis n = true)
    (hP : P (s.writeAxCtrl n ((v &&& ~~~3#32) ||| 2#32)).settle) :
    Runs (.homingRequest n v) s [.row AX_CTRL, .intg, .spi, .mots] P := by
  refine runs_hostMeaning (execHomingRequest_does n v s) h ?_
  rwa [if_pos ax]

theorem camEngage_runs {n : Fin 12} {v : Word} (hP : P (s.writeCamCtrl n v).settle) :
    Runs (.camEngage n v) s [.row CAM_AX_CTRL, .intg, .spi, .mots] P :=
  runs_hostMeaning (execCamEngage_does n v s) h hP

theorem camBind_runs {n : Fin 12} {v : Word} (hP : P (s.writeBind n v).settle) :
    Runs (.camBind n v) s [.waiting, .intg, .spi] P :=
  runs_hostMeaning (execCamBind_does n v s) h hP

end

/-- Settles O26: each command runs to its write, which is taken or refused as a whole. -/
theorem parametersTaken : Obligations.ParametersTaken := by
  refine ⟨?param, ?paramRefused, ?setpos, ?homing, ?setposRefused, ?homingRefused, ?camRefused, ?cam, ?bind,
    ?bindRefused⟩
  case param =>
    rintro n i v _ s h ax rfl ok
    exact paramWrite_runs h ax (writeParam_taken n i ok)
  case paramRefused =>
    intro n i v s h ax no
    refine paramWrite_runs h ax ?_
    rw [writeParam_refused no]
    exact ⟨rfl, rfl⟩
  case setpos =>
    intro n v s h ax twelve ok
    obtain ⟨set, pend, others⟩ := writeSetpos_taken (v := v) (n.isLt.trans_eq twelve.symm) ok
    exact axSetpos_runs h ax ⟨set, pend, fun m _ => others m⟩
  case homing =>
    intro n v s h ax twelve ok
    obtain ⟨mode, start, others⟩ := writeAxCtrl_homing n (n.isLt.trans_eq twelve.symm) ok (homingWord_mode v)
    exact homingRequest_runs h ax ⟨mode, start, fun m _ => others m⟩
  case setposRefused =>
    intro n v s h ax no
    refine axSetpos_runs h ax ?_
    rw [writeSetpos_refused no]
    exact ⟨rfl, rfl, rfl, fun _ _ _ => rfl⟩
  case homingRefused =>
    intro n v s h ax no
    refine homingRequest_runs h ax ?_
    rw [writeAxCtrl_refused no]
    exact ⟨rfl, rfl, rfl, fun _ _ _ => rfl⟩
  case camRefused =>
    intro n v s h no
    refine camEngage_runs h ?_
    rw [writeCamCtrl_refused no]
    exact ⟨rfl, rfl, rfl, fun _ _ _ => rfl⟩
  case cam =>
    intro n v s h _ ok
    obtain ⟨word, others⟩ := writeCamCtrl_taken ok
    exact camEngage_runs h ⟨word, fun m _ => others m⟩
  case bind =>
    intro n v s h ok
    refine camBind_runs h ?_
    rw [writeBind_waits ok]
    rfl
  case bindRefused =>
    intro n v s h no
    refine camBind_runs h ?_
    rw [writeBind_refused no]
    exact ⟨rfl, rfl, rfl⟩

end Sys2Proof.Machine

namespace Sys2Proof.Machine

set_option Elab.async false

/-! ### What the position channels keep (chapter 10) -/

/-- The state of the step, quadrature, SENT and emulation channels that no register shows. -/
def State.channels (s : State) : List SiCh × List QdCh × List SnCh × List EeCh :=
  (s.pos.si, s.pos.qd, s.pos.sn, s.pos.ee)

section
variable {s t : State}

theorem Does.channels {l : List Field} (h : Does l s t) (hl : .pos ∉ l := by decide) : t.channels = s.channels := by
  unfold State.channels
  rw [show t.pos = s.pos from h.same .pos hl]

/-- A register of one of four channels outside a frame. -/
theorem Does.rowWord {l : List Field} (h : Does l s t) (r : Nat → Nat) (k : Fin 4)
    (hl : ∀ k : Fin 4, l.all (fun p => !p.covers (r k)) = true := by decide) : t.word (r k) = s.word (r k) :=
  h.word (hl k)

theorem Does.rowFlag {l : List Field} (h : Does l s t) (f : Nat → Fld) (k : Fin 4)
    (hl : ∀ k : Fin 4, l.all (fun p => !p.covers (f k).addr) = true := by decide) : t.flag (f k) = s.flag (f k) :=
  h.flag (hl k)

theorem Does.rowFld {l : List Field} (h : Does l s t) (f : Nat → Fld) (k : Fin 4)
    (hl : ∀ k : Fin 4, l.all (fun p => !p.covers (f k).addr) = true := by decide) : t.fld (f k) = s.fld (f k) :=
  h.fld (hl k)

theorem channels_parts (h : t.channels = s.channels) :
    t.pos.si = s.pos.si ∧ t.pos.qd = s.pos.qd ∧ t.pos.sn = s.pos.sn ∧ t.pos.ee = s.pos.ee := by
  simpa [State.channels] using h

/-! #### Latches and compare units reach no channel (R370 to R374) -/

/-- A trigger that meets the full latch `j` (R372). -/
def State.overrunLatch (s : State) (j : Nat) : State :=
  let u := s.bump (POS_LT_STAT.OVR j) 1
  if u.pos.overrun.getLsbD j then u
  else ({ u with pos := { u.pos with overrun := u.pos.overrun ||| (1#8 <<< j) } }).raise 0x0A0B j

/-- Latch `j` takes the count and the time of its source (R370). -/
def State.fillLatch (s : State) (j : Nat) (stamp : Word) : State :=
  let src := s.fld (POS_LT_CFG.SRC j)
  let tw := s.srcTime src
  let u := (tw.2.setWord (POS_LT_POS j) (tw.2.srcCount src)).setWord (POS_LT_TIME j)
    (if 4 ≤ src && src < 8 then tw.2.word (POS_SN_TIME (src - 4)) else stamp)
  let u := (u.put (POS_LT_STAT.FULL j) 1).put (POS_LT_STAT.STALE j) 0
  let u := { u with pos := { u.pos with stamped := u.pos.stamped ||| (1#8 <<< j) } }
  (u.put (POS_LT_STAT.PERIOD j) ((tw.1 >>> 16).toNat % 2 ^ 15)).put (POS_LT_STAT.DIR j) (tw.1.toNat / 2 ^ 31)

theorem capture_eq (s : State) (j : Nat) (stamp : Word) : s.capture j stamp =
    (let full := s.flag (POS_LT_STAT.FULL j)
     let u := if full then s.overrunLatch j else s
     if full && !u.flag (POS_LT_CFG.OVW j) then u else u.fillLatch j stamp) := rfl

theorem overrunLatch_channels (s : State) (j : Nat) : (s.overrunLatch j).channels = s.channels := by
  unfold State.overrunLatch
  dsimp only
  split
  · rfl
  · exact (State.raise_does _ _ _).channels

/-- A trigger reads the channels and moves the marks of its latch alone. -/
theorem capture_channels (s : State) (j : Nat) (stamp : Word) : (s.capture j stamp).channels = s.channels := by
  have fill : ∀ u : State, (u.fillLatch j stamp).channels = u.channels := fun u =>
    (State.srcTime_does u (u.fld (POS_LT_CFG.SRC j))).channels
  rw [capture_eq]
  cases s.flag (POS_LT_STAT.FULL j)
  case false => exact fill s
  case true =>
    simp only [if_true]
    split
    · exact overrunLatch_channels s j
    · exact (fill _).trans (overrunLatch_channels s j)

theorem trigger_channels (s : State) (stamp : Word) (p : Nat → Bool) : (s.trigger stamp p).channels = s.channels :=
  each_pres State.channels (fun u j => capture_channels u j stamp) s _

/-- A compare unit that fires starts its pulse and triggers latches. -/
theorem fire_channels (s : State) (m : Nat) (stamp : Word) : (s.fire m stamp).channels = s.channels := by
  unfold State.fire
  dsimp only
  split <;> split <;> exact trigger_channels ((s.incr (POS_CP_STAT.FIRES m)).put (POS_CP_STAT.FIRED m) 1) _ _

theorem compareChange_channels (s : State) (src : Nat) (before after stamp : Word) :
    (s.compareChange src before after stamp).channels = s.channels :=
  each_pres State.channels (fun u m => by
    split
    · exact fire_channels u m stamp
    · rfl) s _

/-! ### Step channels (R239, R248) -/

theorem si_modSi_same {k : Nat} (f : SiCh → SiCh) (h : k < s.pos.si.length) : (s.modSi k f).si k = f (s.si k) :=
  Tbl.get_mod_same _ s.pos.si k f h

theorem si_modSi_other {k j : Nat} (f : SiCh → SiCh) (h : j ≠ k) : (s.modSi k f).si j = s.si j :=
  Tbl.get_mod_other _ s.pos.si f h

/-- After its count an edge marks a reversal and is compared; neither reaches a channel. -/
theorem siCount_channels (s : State) (k : Nat) (neg : Bool) (lag : Nat) :
    (s.siCount k neg lag).channels = (s.modSi k fun x => { x with
      count := (s.si k).count + wrd (if neg then -1 else 1)
      hist := (s.si k).hist.next s.time (s.time - max 1 (min 2 lag)) neg
      dir := some neg }).channels := by
  unfold State.siCount
  dsimp only
  exact (compareChange_channels ..).trans (when_pres State.channels _ _ rfl)

theorem siCount_count {k : Nat} (h : k < s.pos.si.length) (neg : Bool) (lag : Nat) :
    ((s.siCount k neg lag).si k).count = (s.si k).count + (if neg then 0xFFFFFFFF else 1) := by
  obtain ⟨si, -⟩ := channels_parts (siCount_channels s k neg lag)
  rw [State.si, si]
  refine (congrArg SiCh.count (si_modSi_same _ h)).trans ?_
  cases neg <;> rfl

theorem siCount_others (k : Nat) (neg : Bool) (lag : Nat) :
    (∀ j, j ≠ k → (s.siCount k neg lag).si j = s.si j) ∧ (s.siCount k neg lag).pos.qd = s.pos.qd ∧
      (s.siCount k neg lag).pos.sn = s.pos.sn ∧ (s.siCount k neg lag).pos.ee = s.pos.ee := by
  obtain ⟨si, rest⟩ := channels_parts (siCount_channels s k neg lag)
  refine ⟨fun j h => ?_, rest⟩
  rw [State.si, si]
  exact si_modSi_other _ h

theorem stepEdge_counts {k : Fin 4} {rising dir : Bool} {lag : Nat} (hp : s.powered = true)
    (four : s.pos.si.length = 4) (en : s.flag (CAM_SI_CFG.EN k) = true) (vio : s.vioOk = true)
    (up : s.sys.mode ≠ .boot) (active : rising ≠ s.flag (CAM_SI_CFG.EDGE k)) :
    Runs (.stepEdge k rising dir false lag) s [.row CAM_SI_ERR, .row POS_LT_POS, .row POS_LT_TIME, .row POS_LT_STAT,
      .row POS_CP_VAL, .row POS_CP_STAT, .one MGT_LOG_STAT, .faults, .reel, .intg, .mgt, .can, .pos, .drawn] (fun t =>
      (t.si k).count = (s.si k).count + (if dir = s.flag (CAM_SI_CFG.DIR_INV k) then 1 else 0xFFFFFFFF) ∧
      (∀ j < 4, j ≠ k.val → t.si j = s.si j) ∧ t.pos.qd = s.pos.qd ∧ t.pos.sn = s.pos.sn ∧ t.pos.ee = s.pos.ee) := by
  refine runs_meaning (execStepEdge_does k rising dir false lag s) hp ?_
  rw [if_neg (by simp [en, vio, up]), if_neg (by simpa using active), when_false]
  have count := siCount_count (k.isLt.trans_eq four.symm) (dir != s.flag (CAM_SI_CFG.DIR_INV k)) lag
  obtain ⟨others, rest⟩ := siCount_others (s := s) k (dir != s.flag (CAM_SI_CFG.DIR_INV k)) lag
  generalize s.siCount k (dir != s.flag (CAM_SI_CFG.DIR_INV k)) lag = u at count others rest ⊢
  refine ⟨?_, fun j _ => others j, rest⟩
  refine count.trans ?_
  by_cases forward : dir = s.flag (CAM_SI_CFG.DIR_INV k)
  · simp [forward]
  · simp [forward]

theorem stepClear_waits {k : Fin 4} (h : s.hostOpen) (four : s.pos.si.length = 4) :
    Runs (.stepClear k) s [.intg, .spi, .pos] (fun t => (t.si k).clear = true ∧
      (∀ j < 4, j ≠ k.val → t.si j = s.si j) ∧ t.pos.qd = s.pos.qd ∧ t.pos.sn = s.pos.sn ∧ t.pos.ee = s.pos.ee) := by
  refine runs_hostMeaning (execStepClear_does k s) h ?_
  exact ⟨congrArg SiCh.clear (si_modSi_same _ (k.isLt.trans_eq four.symm)), fun _ _ => si_modSi_other _, rfl, rfl, rfl⟩

/-! ### Emulation outputs (R383) -/

theorem ee_modEe_same {e : Nat} (f : EeCh → EeCh) (h : e < s.pos.ee.length) : (s.modEe e f).ee e = f (s.ee e) :=
  Tbl.get_mod_same _ s.pos.ee e f h

theorem ee_modEe_other {e j : Nat} (f : EeCh → EeCh) (h : j ≠ e) : (s.modEe e f).ee j = s.ee j :=
  Tbl.get_mod_other _ s.pos.ee f h

theorem emuClear_waits {e : Fin 2} (h : s.hostOpen) (two : s.pos.ee.length = 2) :
    Runs (.emuClear e) s [.intg, .spi, .pos] (fun t => (t.ee e).clear = true ∧
      (∀ j < 2, j ≠ e.val → t.ee j = s.ee j) ∧ t.pos.si = s.pos.si ∧ t.pos.qd = s.pos.qd ∧ t.pos.sn = s.pos.sn) := by
  refine runs_hostMeaning (execEmuClear_does e s) h ?_
  exact ⟨congrArg EeCh.clear (ee_modEe_same _ (e.isLt.trans_eq two.symm)), fun _ _ => ee_modEe_other _, rfl, rfl, rfl⟩

end

/-! ### SENT channels (R360 to R364) -/

section
variable {s t u : State} {k : Nat}

theorem sn_modSn_same (f : SnCh → SnCh) (h : k < s.pos.sn.length) : (s.modSn k f).sn k = f (s.sn k) :=
  Tbl.get_mod_same _ s.pos.sn k f h

theorem sn_modSn_other {j : Nat} (f : SnCh → SnCh) (h : j ≠ k) : (s.modSn k f).sn j = s.sn j :=
  Tbl.get_mod_other _ s.pos.sn f h

/-- What the change of an element keeps of it, the table keeps of every element. -/
theorem Tbl.get_mod_field {β γ : Type} (g : β → γ) {d : β} (l : List β) (i : Nat) {f : β → β}
    (hf : ∀ b, g (f b) = g b) (j : Nat) : g (Tbl.get d (Tbl.mod l i f) j) = g (Tbl.get d l j) := by
  by_cases h : j = i
  · subst h
    induction l generalizing j with
    | nil => rfl
    | cons b t ih =>
      cases j with
      | zero => exact hf b
      | succ j => exact ih j
  · rw [Tbl.get_mod_other d l f h]

/-- A change of SENT channel `k` that reaches no other channel of any kind. -/
structure OnlySent (k : Nat) (s t : State) : Prop where
  others : ∀ j, j ≠ k → t.sn j = s.sn j
  si : t.pos.si = s.pos.si
  qd : t.pos.qd = s.pos.qd
  ee : t.pos.ee = s.pos.ee

/-- One that keeps the calibration pulse, which the next one is held against (R360), as well. -/
structure KeepsCal (k : Nat) (s t : State) : Prop extends OnlySent k s t where
  cal : (t.sn k).cal = (s.sn k).cal

theorem OnlySent.trans (h : OnlySent k s t) (h' : OnlySent k t u) : OnlySent k s u :=
  ⟨fun j x => (h'.others j x).trans (h.others j x), h'.si.trans h.si, h'.qd.trans h.qd, h'.ee.trans h.ee⟩

theorem KeepsCal.trans (h : KeepsCal k s t) (h' : KeepsCal k t u) : KeepsCal k s u :=
  ⟨h.toOnlySent.trans h'.toOnlySent, h'.cal.trans h.cal⟩

theorem KeepsCal.of_channels (h : t.channels = s.channels) : KeepsCal k s t := by
  obtain ⟨si, qd, sn, ee⟩ := channels_parts h
  have same : ∀ j, t.sn j = s.sn j := fun j => by rw [State.sn, sn]; rfl
  exact ⟨⟨fun j _ => same j, si, qd, ee⟩, congrArg SnCh.cal (same k)⟩

theorem Does.keepsCal {l : List Field} (h : Does l s t) (hl : .pos ∉ l := by decide) : KeepsCal k s t :=
  .of_channels (h.channels hl)

theorem OnlySent.modSn (s : State) (f : SnCh → SnCh) : OnlySent k s (s.modSn k f) :=
  ⟨fun _ => sn_modSn_other f, rfl, rfl, rfl⟩

theorem KeepsCal.modSn (s : State) {f : SnCh → SnCh} (hf : ∀ c, (f c).cal = c.cal) : KeepsCal k s (s.modSn k f) where
  toOnlySent := .modSn s f
  cal := Tbl.get_mod_field SnCh.cal s.pos.sn k hf k

theorem KeepsCal.refl (s : State) : KeepsCal k s s := .of_channels rfl

/-- A fault raised after fields of registers were written keeps every channel. -/
theorem raise_keepsCal {u : State} (h : u.channels = s.channels) (code unit : Nat) :
    KeepsCal k s (u.raise code unit) := .of_channels ((State.raise_does u code unit).channels.trans h)

theorem put_channels (s : State) (f : Fld) (v : Nat) : (s.put f v).channels = s.channels := rfl

/-! #### Decoding -/

/-- The message in progress is the channel's own; a complete one shows in registers. -/
theorem snSerial_keepsCal (s : State) (k status : Nat) : KeepsCal k s (s.snSerial k status) := by
  have put : ∀ l, KeepsCal k s (s.modSn k fun c => { c with serial := l }) := fun l => .modSn s fun _ => rfl
  unfold State.snSerial
  dsimp only
  split
  · split
    · exact (put []).trans (State.snShort_does _ _ _).keepsCal
    · exact put _
  · split
    · split
      · exact (put []).trans (State.snEnhanced_does _ _ _).keepsCal
      · exact put _
    · exact .refl s

/-- A jump is reported after the frame was taken. -/
def State.snJump (s : State) (k : Nat) : State := ((s.put (POS_SN_STAT.JUMP_SEEN k) 1).raise 0x0A09 k).markFeedback 2 k

theorem snJump_keepsCal (s : State) (k : Nat) : KeepsCal k s (s.snJump k) :=
  (raise_keepsCal (put_channels s _ _) _ _).trans (State.markFeedback_does _ _ _).keepsCal

/-- A used frame shows its count, its stamp and its nibbles, makes the channel valid and changes it by `f` (R362, R363). -/
def State.snTake (s : State) (k : Nat) (count stamp nibbles : Word) (f : SnCh → SnCh) : State :=
  ((((s.setWord (POS_SN_COUNT k) count).setWord (POS_SN_TIME k) stamp).setWord (POS_SN_DATA k) nibbles).put
    (POS_SN_STAT.VALID k) 1).modSn k f

/-- After that its count is compared, and a jump reported. -/
theorem snUse_takes (s : State) (k : Nat) (start : Slate) (v data status crc : Nat) :
    ∃ count nibbles f jump, (∀ c, SnCh.cal (f c) = c.cal) ∧ s.snUse k start v data status crc =
      ((s.snTake k count (start.setWidth 32) nibbles f).compareChange (4 + k) (s.word (POS_SN_COUNT k)) count
        (start.setWidth 32)).when jump (State.snJump · k) := by
  unfold State.snUse
  extract_lets c bits old d wrap new jump dir stamp
  exact ⟨new, _, fun c => { c with started := true, last := v, dir := dir, fresh := true, stamp := stamp }, jump,
    fun _ => rfl, rfl⟩

theorem snTake_keepsCal (s : State) (k : Nat) (count stamp nibbles : Word) {f : SnCh → SnCh}
    (hf : ∀ c, (f c).cal = c.cal) : KeepsCal k s (s.snTake k count stamp nibbles f) := by
  have shown : KeepsCal k s ((((s.setWord (POS_SN_COUNT k) count).setWord (POS_SN_TIME k) stamp).setWord
    (POS_SN_DATA k) nibbles).put (POS_SN_STAT.VALID k) 1) := .of_channels rfl
  exact shown.trans (.modSn _ hf)

theorem snUse_keepsCal (s : State) (k : Nat) (start : Slate) (v data status crc : Nat) :
    KeepsCal k s (s.snUse k start v data status crc) := by
  obtain ⟨count, nibbles, f, jump, hf, e⟩ := snUse_takes s k start v data status crc
  rw [e]
  have watched := (snTake_keepsCal s k count (start.setWidth 32) nibbles hf).trans
    (.of_channels (compareChange_channels _ (4 + k) (s.word (POS_SN_COUNT k)) count (start.setWidth 32)))
  cases jump
  case false => exact watched
  case true => exact watched.trans (snJump_keepsCal _ k)

/-- A wrong CRC (R361). -/
def State.snCrcFault (s : State) (k : Nat) : State :=
  let u := (s.put (POS_SN_STAT.CRC_SEEN k) 1).bump (POS_SN_ERR.CRC k) 1
  let u := if (u.sn k).crcSeen then u else u.raise 0x0A04 k
  u.modSn k (fun c => { c with crcSeen := true, serial := [] })

/-- A status bit that STERR names as an error. -/
def State.snStatusFault (s : State) (k : Nat) : State := (s.put (POS_SN_STAT.STATUS_SEEN k) 1).raise 0x0A07 k

/-- The CRC nibble of a frame is that of its data nibbles (R361). -/
def State.snCrcHolds (s : State) (k : Nat) (l : List Nat) : Prop :=
  sentCrc (s.flag (POS_SN_CFG.CRC_LEGACY k)) ((l.drop 1).take (s.fld (POS_SN_CFG.NIB k))) =
    Tbl.get 0 l (s.fld (POS_SN_CFG.NIB k) + 1)

theorem snDecode_crcFault {start : Slate} {l : List Nat} {use : Bool} (h : ¬ s.snCrcHolds k l) :
    s.snDecode k start l use = s.snCrcFault k := if_pos h

/-- With its CRC right a frame joins the serial message, and is used unless its status tells of an error. -/
theorem snDecode_crcHolds {start : Slate} {l : List Nat} {use : Bool} (h : s.snCrcHolds k l) :
    ∃ v data status crc, s.snDecode k start l use = (let u := s.snSerial k (Tbl.get 0 l 0)
      if Tbl.get 0 l 0 % 4 &&& u.fld (POS_SN_CFG.STERR k) ≠ 0 then u.snStatusFault k
      else if use then u.snUse k start v data status crc else u) :=
  ⟨_, _, _, _, if_neg (not_not_intro h)⟩

theorem snCrcFault_keepsCal (s : State) (k : Nat) : KeepsCal k s (s.snCrcFault k) := by
  have counted : KeepsCal k s ((s.put (POS_SN_STAT.CRC_SEEN k) 1).bump (POS_SN_ERR.CRC k) 1) := .of_channels rfl
  unfold State.snCrcFault
  dsimp only
  split
  · exact counted.trans (.modSn _ fun _ => rfl)
  · exact (counted.trans (State.raise_does _ _ _).keepsCal).trans (.modSn _ fun _ => rfl)

theorem snDecode_keepsCal (s : State) (k : Nat) (start : Slate) (l : List Nat) (use : Bool) :
    KeepsCal k s (s.snDecode k start l use) := by
  have serial := snSerial_keepsCal s k (Tbl.get 0 l 0)
  by_cases h : s.snCrcHolds k l
  · obtain ⟨v, data, status, crc, e⟩ := snDecode_crcHolds (start := start) (use := use) h
    rw [e]
    dsimp only
    split
    · exact serial.trans (raise_keepsCal (put_channels _ _ _) _ _)
    · split
      · exact serial.trans (snUse_keepsCal ..)
      · exact serial
  · rw [snDecode_crcFault h]
    exact snCrcFault_keepsCal s k

/-- What decoding a frame that is not used may change: neither COUNT nor DATA. -/
def Parts.sentUnused : List Field :=
  [.row POS_SN_SER, .row POS_SN_STAT, .row POS_SN_ERR, .one MGT_LOG_STAT, .faults, .reel, .mgt, .can, .pos]

theorem snStat_row (k : Nat) : (Field.row POS_SN_STAT).has (POS_SN_STAT k) := Field.has_row _ (fun _ => rfl) k

theorem snCrcFault_does (s : State) (k : Nat) : Does Parts.sentUnused s (s.snCrcFault k) := by
  have counted : Does Parts.sentUnused s ((s.put (POS_SN_STAT.CRC_SEEN k) 1).bump (POS_SN_ERR.CRC k) 1) :=
    .step (State.bump_does _ (POS_SN_ERR.CRC k) 1 (Field.has_row POS_SN_ERR (fun _ => rfl) k)) (by decide)
      (.weaken (State.put_does s (POS_SN_STAT.CRC_SEEN k) 1 (snStat_row k)) (by decide))
  unfold State.snCrcFault
  dsimp only
  refine .step (State.modSn_does _ _ _) (by decide) (.ite counted ?_)
  exact .step (State.raise_does _ _ _) (by decide) counted

theorem snStatusFault_does (s : State) (k : Nat) : Does Parts.sentUnused s (s.snStatusFault k) :=
  .step (State.raise_does _ _ _) (by decide)
    (.weaken (State.put_does s (POS_SN_STAT.STATUS_SEEN k) 1 (snStat_row k)) (by decide))

theorem snDecode_unused_does (s : State) (k : Nat) (start : Slate) (l : List Nat) :
    Does Parts.sentUnused s (s.snDecode k start l false) := by
  have serial : Does Parts.sentUnused s (s.snSerial k (Tbl.get 0 l 0)) :=
    (State.snSerial_does s k _).weaken (by decide)
  by_cases h : s.snCrcHolds k l
  · obtain ⟨v, data, status, crc, e⟩ := snDecode_crcHolds (start := start) (use := false) h
    rw [e]
    exact .ite (serial.trans (snStatusFault_does _ k)) serial
  · rw [snDecode_crcFault h]
    exact snCrcFault_does s k

end

/-! #### VALID -/

section
variable {s : State} {k : Fin 4}

theorem snJump_valid (s : State) (k : Fin 4) :
    (s.snJump k).flag (POS_SN_STAT.VALID k) = s.flag (POS_SN_STAT.VALID k) :=
  ((State.markFeedback_does _ 2 k).rowFlag POS_SN_STAT.VALID k).trans
    (((State.raise_does _ 0x0A09 k).rowFlag POS_SN_STAT.VALID k).trans
      (flag_put_ne s (POS_SN_STAT.JUMP_SEEN k) (POS_SN_STAT.VALID k) 1 (.inr (.inl (by decide : 0 + 1 ≤ 5)))))

theorem snTake_valid (s : State) (k : Fin 4) (count stamp nibbles : Word) (f : SnCh → SnCh) :
    (s.snTake k count stamp nibbles f).flag (POS_SN_STAT.VALID k) = true :=
  flag_put_one _ (POS_SN_STAT.VALID k) ⟨rfl, (by decide : 0 + 1 ≤ 32)⟩

theorem snUse_valid (s : State) (k : Fin 4) (start : Slate) (v data status crc : Nat) :
    (s.snUse k start v data status crc).flag (POS_SN_STAT.VALID k) = true := by
  obtain ⟨count, nibbles, f, jump, -, e⟩ := snUse_takes s k start v data status crc
  rw [e]
  have watched := ((State.compareChange_does (s.snTake k count (start.setWidth 32) nibbles f) (4 + k)
    (s.word (POS_SN_COUNT k)) count (start.setWidth 32)).rowFlag POS_SN_STAT.VALID k).trans (snTake_valid ..)
  cases jump
  case false => exact watched
  case true => exact (snJump_valid _ k).trans watched

/-- A good frame that is used makes its channel valid, where no status bit counts as an error. -/
theorem snDecode_valid {start : Slate} {l : List Nat} (h : s.snCrcHolds k l)
    (quiet : s.fld (POS_SN_CFG.STERR k) = 0) :
    (s.snDecode k start l true).flag (POS_SN_STAT.VALID k) = true := by
  obtain ⟨v, data, status, crc, e⟩ := snDecode_crcHolds (start := start) (use := true) h
  have sterr := ((State.snSerial_does s k (Tbl.get 0 l 0)).rowFld POS_SN_CFG.STERR k).trans quiet
  rw [e]
  have unflagged : ¬(Tbl.get 0 l 0 % 4 &&& (s.snSerial k (Tbl.get 0 l 0)).fld (POS_SN_CFG.STERR k) ≠ 0) := by
    rw [sterr, Nat.and_zero, not_not]
  dsimp only
  rw [if_neg unflagged, if_pos rfl]
  exact snUse_valid ..

/-- A timeout ends VALID and is reported (R364). -/
theorem sentTimeout_raises (hp : s.powered = true) (en : s.flag (POS_SN_CFG.EN k) = true) :
    Runs (.sentTimeout k) s [.row POS_SN_STAT, .one MGT_LOG_STAT, .faults, .reel, .intg, .mgt, .can, .pos] (fun t =>
      t.flag (POS_SN_STAT.VALID k) = false ∧ t.flag (POS_SN_STAT.TIMEOUT k) = true ∧ t.raised 0x0A06 k = true ∧
      (∀ j < 4, j ≠ k.val → t.sn j = s.sn j) ∧ t.pos.si = s.pos.si ∧ t.pos.qd = s.pos.qd ∧ t.pos.ee = s.pos.ee) := by
  refine runs_meaning (execSentTimeout_does k s) hp ?_
  rw [en, Bool.not_true, if_neg Bool.false_ne_true]
  dsimp only
  have only := OnlySent.modSn (k := k) s fun c => { c with cal := none }
  generalize s.modSn k (fun c => { c with cal := none }) = u at only ⊢
  have kept := only.trans (raise_keepsCal (k := k) (s := u)
    (u := (u.put (POS_SN_STAT.VALID k) 0).put (POS_SN_STAT.TIMEOUT k) 1) rfl 0x0A06 k).toOnlySent
  have report := State.raise_does ((u.put (POS_SN_STAT.VALID k) 0).put (POS_SN_STAT.TIMEOUT k) 1) 0x0A06 k
  have valid : ((u.put (POS_SN_STAT.VALID k) 0).put (POS_SN_STAT.TIMEOUT k) 1).flag (POS_SN_STAT.VALID k) = false :=
    (flag_put_ne _ (POS_SN_STAT.TIMEOUT k) (POS_SN_STAT.VALID k) 1 (.inr (.inl (by decide : 0 + 1 ≤ 1)))).trans
      (flag_put_zero u (POS_SN_STAT.VALID k) (by decide : 0 + 1 ≤ 32))
  exact ⟨(report.rowFlag POS_SN_STAT.VALID k).trans valid,
    (report.rowFlag POS_SN_STAT.TIMEOUT k).trans
      (flag_put_one _ (POS_SN_STAT.TIMEOUT k) ⟨rfl, (by decide : 1 + 1 ≤ 32)⟩),
    State.raise_raised _ 0x0A06 k (by decide) (by decide), fun j _ => kept.others j, kept.si, kept.qd, kept.ee⟩

end

/-! #### Frames -/

theorem Tbl.get_map {β γ : Type} (g : β → γ) (d : β) (l : List β) (i : Nat) :
    Tbl.get (g d) (l.map g) i = g (Tbl.get d l i) := by
  induction l generalizing i with
  | nil => rfl
  | cons b t ih =>
    cases i with
    | zero => rfl
    | succ i => exact ih i

/-- A frame of channel `k` without a pause pulse, its first `n` intervals those of its nibbles: the calibration pulse is
within a quarter of its nominal length, and every nibble in range (R360). -/
structure State.FrameFits (s : State) (k cal n : Nat) (ivs : List Nat) : Prop where
  pause : s.flag (POS_SN_CFG.PAUSE k) = false
  nibbles : n = s.fld (POS_SN_CFG.NIB k) + 2
  enough : n ≤ ivs.length
  low : 3 * (896 * s.fld (POS_SN_CFG.TICK k)) ≤ 4 * cal
  high : 4 * cal ≤ 5 * (896 * s.fld (POS_SN_CFG.TICK k))
  positive : 0 < cal
  range : ∀ v ∈ (s.snNibbles cal (ivs.take n)).1, 0 ≤ v ∧ v ≤ 15

/-- The channel once the calibration pulse is accepted, the nibbles read. -/
def State.calibrated (s : State) (k cal n : Nat) (ivs : List Nat) : State :=
  (s.snNibbles cal (ivs.take n)).2.modSn k (fun c => { c with cal := some cal })

/-- The nibbles that the first `n` intervals spell. -/
def State.frameNibbles (s : State) (cal n : Nat) (ivs : List Nat) : List Nat :=
  (s.snNibbles cal (ivs.take n)).1.map Int.toNat

section
variable {s : State} {k cal n : Nat} {ivs : List Nat}

/-- Such a frame is decoded where the pulse accepted before it, if any, had the same length. -/
theorem sentFrame_decodes (h : s.FrameFits k cal n ivs) (old : ∀ p, (s.sn k).cal = some p → p = cal) (start : Slate) :
    s.sentFrame k start cal ivs = (s.calibrated k cal n ivs).snDecode k start (s.frameNibbles cal n ivs)
      (s.sn k).cal.isSome := by
  obtain ⟨pause, nibbles, enough, low, high, positive, range⟩ := h
  unfold State.sentFrame
  dsimp only
  rw [pause, ← nibbles, if_neg (by simpa using enough),
    if_neg (by simp only [Bool.or_eq_true, decide_eq_true_eq]; omega)]
  refine (if_neg ?near).trans ((if_neg (by simpa using range)).trans rfl)
  cases e : (s.sn k).cal with
  | none => exact Bool.false_ne_true
  | some p => simp [old p e]

theorem calibrated_only (s : State) (k cal n : Nat) (ivs : List Nat) : OnlySent k s (s.calibrated k cal n ivs) :=
  (State.snNibbles_does s cal (ivs.take n)).keepsCal.toOnlySent.trans (.modSn _ _)

theorem calibrated_cal (h : k < s.pos.sn.length) : ((s.calibrated k cal n ivs).sn k).cal = some cal := by
  refine congrArg SnCh.cal (sn_modSn_same (fun c => { c with cal := some cal }) ?_)
  rwa [show (s.snNibbles cal (ivs.take n)).2.pos = s.pos from (State.snNibbles_does s cal _).same .pos]

theorem calibrated_word (r : Nat) : (s.calibrated k cal n ivs).word r = s.word r :=
  (State.snNibbles_does s cal (ivs.take n)).word rfl

end

/-- The operands' conditions are those of the frame, at the state that its decoding begins from. -/
theorem calibrated_crcHolds {s : State} {k : Fin 4} {cal n : Nat} {ivs : List Nat} (h : s.FrameFits k cal n ivs)
    (crc : sentCrc (s.flag (POS_SN_CFG.CRC_LEGACY k))
      (((s.frameNibbles cal n ivs).drop 1).take (n - 2)) = (Tbl.get 0 (s.snNibbles cal (ivs.take n)).1 (n - 1)).toNat) :
    (s.calibrated k cal n ivs).snCrcHolds k (s.frameNibbles cal n ivs) := by
  have legacy : (s.calibrated k cal n ivs).flag (POS_SN_CFG.CRC_LEGACY k) = s.flag (POS_SN_CFG.CRC_LEGACY k) := by
    rw [State.flag, State.fld, calibrated_word]; rfl
  have nib : (s.calibrated k cal n ivs).fld (POS_SN_CFG.NIB k) = s.fld (POS_SN_CFG.NIB k) := by
    rw [State.fld, calibrated_word]; rfl
  unfold State.snCrcHolds
  rw [legacy, nib, show s.fld (POS_SN_CFG.NIB k) = n - 2 by have := h.nibbles; omega,
    show n - 2 + 1 = n - 1 by have := h.nibbles; omega, crc]
  exact (Tbl.get_map Int.toNat 0 _ _).symm

section
variable {s : State} {k : Fin 4} {back cal n : Nat} {ivs : List Nat} (hp : s.powered = true)
  (en : s.flag (POS_SN_CFG.EN k) = true) (vio : s.vioOk = true) (h : s.FrameFits k cal n ivs)
include hp en vio h

/-- A frame within its limits runs to its decoding, which reaches no other channel. -/
theorem sentFrame_runs {P : State → Prop} (old : ∀ p, (s.sn k).cal = some p → p = cal)
    (hP : P ((s.calibrated k cal n ivs).snDecode k (s.sampledBack back) (s.frameNibbles cal n ivs)
      (s.sn k).cal.isSome).settle) :
    Runs (.sentFrame k back cal ivs) s Parts.sentFrame (fun t => P t ∧ (∀ j < 4, j ≠ k.val → t.sn j = s.sn j) ∧
      t.pos.si = s.pos.si ∧ t.pos.qd = s.pos.qd ∧ t.pos.ee = s.pos.ee) := by
  refine runs_meaning (execSentFrame_does k back cal ivs s) hp ?_
  rw [if_pos (by simp [en, vio]), sentFrame_decodes h old]
  have only := (calibrated_only s k cal n ivs).trans (snDecode_keepsCal _ k (s.sampledBack back)
    (s.frameNibbles cal n ivs) (s.sn k).cal.isSome).toOnlySent
  exact ⟨hP, fun j _ => only.others j, only.si, only.qd, only.ee⟩

/-- Without an accepted predecessor the frame leaves its calibration pulse and writes neither COUNT nor DATA (R360). -/
theorem sentFrame_first (four : s.pos.sn.length = 4) (first : (s.sn k).cal = none) :
    Runs (.sentFrame k back cal ivs) s Parts.sentFrame (fun t => ((t.sn k).cal = some cal ∧
      t.word (POS_SN_COUNT k) = s.word (POS_SN_COUNT k) ∧ t.word (POS_SN_DATA k) = s.word (POS_SN_DATA k)) ∧
      (∀ j < 4, j ≠ k.val → t.sn j = s.sn j) ∧ t.pos.si = s.pos.si ∧ t.pos.qd = s.pos.qd ∧ t.pos.ee = s.pos.ee) := by
  refine sentFrame_runs hp en vio h (fun p e => absurd (first.symm.trans e) nofun) ?_
  rw [first]
  have does := snDecode_unused_does (s.calibrated k cal n ivs) k (s.sampledBack back)
    (s.frameNibbles cal n ivs)
  have keeps := snDecode_keepsCal (s.calibrated k cal n ivs) k (s.sampledBack back)
    (s.frameNibbles cal n ivs) false
  exact ⟨keeps.cal.trans (calibrated_cal (k.isLt.trans_eq four.symm)),
    (does.rowWord POS_SN_COUNT k).trans (calibrated_word _), (does.rowWord POS_SN_DATA k).trans (calibrated_word _)⟩

theorem sentFrame_good (same : (s.sn k).cal = some cal) (crc : sentCrc (s.flag (POS_SN_CFG.CRC_LEGACY k))
      (((s.frameNibbles cal n ivs).drop 1).take (n - 2)) = (Tbl.get 0 (s.snNibbles cal (ivs.take n)).1 (n - 1)).toNat)
    (quiet : s.fld (POS_SN_CFG.STERR k) = 0) :
    Runs (.sentFrame k back cal ivs) s Parts.sentFrame (fun t => t.flag (POS_SN_STAT.VALID k) = true ∧
      (∀ j < 4, j ≠ k.val → t.sn j = s.sn j) ∧ t.pos.si = s.pos.si ∧ t.pos.qd = s.pos.qd ∧ t.pos.ee = s.pos.ee) := by
  refine sentFrame_runs hp en vio h (fun p e => Option.some.inj (e.symm.trans same)) ?_
  rw [same]
  refine snDecode_valid (calibrated_crcHolds h crc) ?_
  rw [State.fld, calibrated_word]
  exact quiet

end

/-- Settles O36: step edges by the count they leave, SENT frames by what their decoding comes to. -/
theorem stepsAndSentReceived : Obligations.StepsAndSentReceived := by
  refine ⟨?edge, ?clear, ?first, ?good, ?timeout, ?emulation⟩
  case edge =>
    intro k rising dir lag s hp four en vio up active
    exact stepEdge_counts hp four en vio up active
  case clear =>
    intro k s h four
    exact stepClear_waits h four
  case first =>
    intro k back cal n ivs s hp four en vio pause nibbles enough low high positive first range
    refine (sentFrame_first hp en vio ⟨pause, nibbles, enough, low, high, positive, range⟩ four first).mono ?_
    rintro t ⟨⟨cal, count, data⟩, rest⟩
    exact ⟨cal, count, data, rest⟩
  case good =>
    rintro k back cal n ivs _ s hp _ en vio pause nibbles enough low high positive same rfl range crc quiet
    exact sentFrame_good hp en vio ⟨pause, nibbles, enough, low, high, positive, range⟩ same crc quiet
  case timeout =>
    intro k s hp en
    exact sentTimeout_raises hp en
  case emulation =>
    intro e s h two
    exact emuClear_waits h two

end Sys2Proof.Machine

namespace Sys2Proof.Machine

-- One proof after the other: the text as a whole would otherwise ask for more threads than there is memory for.
set_option Elab.async false

/-! ### No step turns both switches of a half-bridge on (R250, R276) -/

/-- What a command that answers `t` has done stands in the frame of its meaning, which keeps the invariant. -/
theorem exec_does {i : Instr} {s t : State} (h : exec i s = .next t) : ∃ l, Does l s t := by
  cases i with
  | slateWrap => exact ⟨_, execSlateWrap_does s t h⟩
  | crossingDeliver => exact ⟨_, execCrossingDeliver_does _ s t h⟩
  | cutClose => exact ⟨_, execCutClose_does s t h⟩
  | drainCheck => exact ⟨_, execDrainCheck_does _ s t h⟩
  | cutApply => exact ⟨_, execCutApply_does s t h⟩
  | cutSeal => exact ⟨_, execCutSeal_does s t h⟩
  | cut => exact ⟨_, execCut_does s t h⟩
  | engineStart => exact ⟨_, execEngineStart_does _ s t h⟩
  | hostHoldRelease => exact ⟨_, execHostHoldRelease_does s t h⟩
  | cutMissed => exact ⟨_, execCutMissed_does s t h⟩
  | slateDecode => exact ⟨_, execSlateDecode_does s t h⟩
  | xtalMonitorWindow => exact ⟨_, execXtalMonitorWindow_does _ s t h⟩
  | xtalQualified => exact ⟨_, execXtalQualified_does s t h⟩
  | xtalLost => exact ⟨_, execXtalLost_does s t h⟩
  | refSwitch => exact ⟨_, execRefSwitch_does s t h⟩
  | fllRelock => exact ⟨_, execFllRelock_does _ s t h⟩
  | fllUnlock => exact ⟨_, execFllUnlock_does _ s t h⟩
  | xtalStart => exact ⟨_, execXtalStart_does s t h⟩
  | rcLost => exact ⟨_, execRcLost_does s t h⟩
  | refAbsentReset => exact ⟨_, execRefAbsentReset_does s t h⟩
  | lpoMeasure => exact ⟨_, execLpoMeasure_does s t h⟩
  | lpoCal => exact ⟨_, execLpoCal_does s t h⟩
  | lpoMeasureDone => exact ⟨_, execLpoMeasureDone_does _ s t h⟩
  | xtalEnable => exact ⟨_, execXtalEnable_does _ s t h⟩
  | xtalRetry => exact ⟨_, execXtalRetry_does s t h⟩
  | frameLenWrite => exact ⟨_, execFrameLenWrite_does _ s t h⟩
  | clkFaultClear => exact ⟨_, execClkFaultClear_does _ s t h⟩
  | sleepSat => exact ⟨_, execSleepSat_does s t h⟩
  | stampStale => exact ⟨_, execStampStale_does _ s t h⟩
  | residentRecheck => exact ⟨_, execResidentRecheck_does _ s t h⟩
  | reloadDone => exact ⟨_, execReloadDone_does _ s t h⟩
  | recheck => exact ⟨_, execRecheck_does s t h⟩
  | reelSplice => exact ⟨_, execReelSplice_does _ s t h⟩
  | stagingEnd => exact ⟨_, execStagingEnd_does _ s t h⟩
  | stagedRecheck => exact ⟨_, execStagedRecheck_does _ s t h⟩
  | confirm => exact ⟨_, execConfirm_does s t h⟩
  | cancel => exact ⟨_, execCancel_does s t h⟩
  | trialProgram => exact ⟨_, execTrialProgram_does s t h⟩
  | trialFramesExpire => exact ⟨_, execTrialFramesExpire_does s t h⟩
  | bootStart => exact ⟨_, execBootStart_does _ _ s t h⟩
  | regulatorsReady => exact ⟨_, execRegulatorsReady_does _ s t h⟩
  | firmwareSelect => exact ⟨_, execFirmwareSelect_does s t h⟩
  | reelSelect => exact ⟨_, execReelSelect_does s t h⟩
  | bootEnd => exact ⟨_, execBootEnd_does _ s t h⟩
  | noStart => exact ⟨_, execNoStart_does _ s t h⟩
  | force => exact ⟨_, execForce_does _ s t h⟩
  | forceEs => exact ⟨_, execForceEs_does s t h⟩
  | restore => exact ⟨_, execRestore_does _ s t h⟩
  | returnReloadDone => exact ⟨_, execReturnReloadDone_does s t h⟩
  | pad => exact ⟨_, execPad_does _ _ s t h⟩
  | ldk => exact ⟨_, execLdk_does _ _ s t h⟩
  | mov => exact ⟨_, execMov_does _ _ s t h⟩
  | tagm => exact ⟨_, execTagm_does _ _ s t h⟩
  | bld => exact ⟨_, execBld_does _ _ s t h⟩
  | bst => exact ⟨_, execBst_does _ _ s t h⟩
  | acpt => exact ⟨_, execAcpt_does _ _ s t h⟩
  | add => exact ⟨_, execAdd_does _ _ s t h⟩
  | mul => exact ⟨_, execMul_does _ _ s t h⟩
  | accx => exact ⟨_, execAccx_does _ _ s t h⟩
  | logic => exact ⟨_, execLogic_does _ _ s t h⟩
  | shift => exact ⟨_, execShift_does _ _ s t h⟩
  | cmp => exact ⟨_, execCmp_does _ _ s t h⟩
  | sel => exact ⟨_, execSel_does _ _ s t h⟩
  | clamp => exact ⟨_, execClamp_does _ _ s t h⟩
  | absn => exact ⟨_, execAbsn_does _ _ s t h⟩
  | div => exact ⟨_, execDiv_does _ _ s t h⟩
  | isqrt => exact ⟨_, execIsqrt_does _ _ s t h⟩
  | tbl => exact ⟨_, execTbl_does _ _ s t h⟩
  | rot => exact ⟨_, execRot_does _ _ s t h⟩
  | obsv => exact ⟨_, execObsv_does _ _ s t h⟩
  | plan => exact ⟨_, execPlan_does _ _ s t h⟩
  | ramp => exact ⟨_, execRamp_does _ _ s t h⟩
  | cami => exact ⟨_, execCami_does _ _ s t h⟩
  | stepi => exact ⟨_, execStepi_does _ _ s t h⟩
  | setp => exact ⟨_, execSetp_does _ _ s t h⟩
  | stat => exact ⟨_, execStat_does _ _ s t h⟩
  | mirr => exact ⟨_, execMirr_does _ _ s t h⟩
  | engineFault => exact ⟨_, execEngineFault_does _ _ s t h⟩
  | paramWrite => exact ⟨_, execParamWrite_does _ _ _ s t h⟩
  | axSetpos => exact ⟨_, execAxSetpos_does _ _ s t h⟩
  | homingRequest => exact ⟨_, execHomingRequest_does _ _ s t h⟩
  | camEngage => exact ⟨_, execCamEngage_does _ _ s t h⟩
  | camBind => exact ⟨_, execCamBind_does _ _ s t h⟩
  | stepEdge => exact ⟨_, execStepEdge_does _ _ _ _ _ s t h⟩
  | stepClear => exact ⟨_, execStepClear_does _ s t h⟩
  | setpointArrive => exact ⟨_, execSetpointArrive_does _ s t h⟩
  | carrierStart => exact ⟨_, execCarrierStart_does _ s t h⟩
  | carrierEdge => exact ⟨_, execCarrierEdge_does _ _ s t h⟩
  | deadTimeExpire => exact ⟨_, execDeadTimeExpire_does _ _ s t h⟩
  | currentSample => exact ⟨_, execCurrentSample_does _ _ _ s t h⟩
  | sampleHoldoff => exact ⟨_, execSampleHoldoff_does _ _ _ s t h⟩
  | modCommit => exact ⟨_, execModCommit_does _ s t h⟩
  | modForce => exact ⟨_, execModForce_does _ _ s t h⟩
  | trip => exact ⟨_, execTrip_does _ _ s t h⟩
  | bstUvAssert => exact ⟨_, execBstUvAssert_does _ _ s t h⟩
  | bstUvRelease => exact ⟨_, execBstUvRelease_does _ _ s t h⟩
  | bstExhaust => exact ⟨_, execBstExhaust_does _ _ s t h⟩
  | tripClear => exact ⟨_, execTripClear_does _ _ s t h⟩
  | diagStart => exact ⟨_, execDiagStart_does _ s t h⟩
  | diagDone => exact ⟨_, execDiagDone_does _ _ s t h⟩
  | selftestStart => exact ⟨_, execSelftestStart_does _ s t h⟩
  | selftestDone => exact ⟨_, execSelftestDone_does _ s t h⟩
  | otShut => exact ⟨_, execOtShut_does s t h⟩
  | otShutRelease => exact ⟨_, execOtShutRelease_does s t h⟩
  | supplyGate => exact ⟨_, execSupplyGate_does s t h⟩
  | qdEdge => exact ⟨_, execQdEdge_does _ _ _ _ _ s t h⟩
  | qdIndex => exact ⟨_, execQdIndex_does _ _ _ s t h⟩
  | qdPreset => exact ⟨_, execQdPreset_does _ _ s t h⟩
  | sentFrame => exact ⟨_, execSentFrame_does _ _ _ _ s t h⟩
  | sentTimeout => exact ⟨_, execSentTimeout_does _ s t h⟩
  | limitEdge => exact ⟨_, execLimitEdge_does _ _ _ s t h⟩
  | capEdge => exact ⟨_, execCapEdge_does _ _ _ s t h⟩
  | latchHostTrig => exact ⟨_, execLatchHostTrig_does _ _ s t h⟩
  | latchRead => exact ⟨_, execLatchRead_does _ s t h⟩
  | compareValWrite => exact ⟨_, execCompareValWrite_does _ _ s t h⟩
  | cmpPulseEnd => exact ⟨_, execCmpPulseEnd_does _ s t h⟩
  | emuThetaSample => exact ⟨_, execEmuThetaSample_does _ s t h⟩
  | emuStep => exact ⟨_, execEmuStep_does _ s t h⟩
  | emuClear => exact ⟨_, execEmuClear_does _ s t h⟩
  | outMismatch => exact ⟨_, execOutMismatch_does _ _ s t h⟩
  | adcSlot => exact ⟨_, execAdcSlot_does _ _ _ s t h⟩
  | refCheck => exact ⟨_, execRefCheck_does _ _ s t h⟩
  | inject => exact ⟨_, execInject_does _ s t h⟩
  | injectRun => exact ⟨_, execInjectRun_does _ s t h⟩
  | calRequest => exact ⟨_, execCalRequest_does _ s t h⟩
  | calDone => exact ⟨_, execCalDone_does _ _ _ s t h⟩
  | standbyConversion => exact ⟨_, execStandbyConversion_does _ _ s t h⟩
  | canRxFrame => exact ⟨_, execCanRxFrame_does _ _ s t h⟩
  | canArbitration => exact ⟨_, execCanArbitration_does _ s t h⟩
  | canTxEnd => exact ⟨_, execCanTxEnd_does _ s t h⟩
  | canError => exact ⟨_, execCanError_does _ s t h⟩
  | boReq => exact ⟨_, execBoReq_does s t h⟩
  | busOffRecovered => exact ⟨_, execBusOffRecovered_does s t h⟩
  | canIntegrated => exact ⟨_, execCanIntegrated_does s t h⟩
  | canTxreq => exact ⟨_, execCanTxreq_does _ s t h⟩
  | canTxabort => exact ⟨_, execCanTxabort_does _ s t h⟩
  | canRxfAck => exact ⟨_, execCanRxfAck_does s t h⟩
  | rxBufferRead => exact ⟨_, execRxBufferRead_does _ s t h⟩
  | rxMapTimeout => exact ⟨_, execRxMapTimeout_does _ s t h⟩
  | serviceRequest => exact ⟨_, execServiceRequest_does _ s t h⟩
  | svcRead => exact ⟨_, execSvcRead_does s t h⟩
  | svcWrite => exact ⟨_, execSvcWrite_does s t h⟩
  | logRead => exact ⟨_, execLogRead_does s t h⟩
  | updWrite => exact ⟨_, execUpdWrite_does s t h⟩
  | updCmd => exact ⟨_, execUpdCmd_does s t h⟩
  | serviceResponse => exact ⟨_, execServiceResponse_does s t h⟩
  | domTimeout => exact ⟨_, execDomTimeout_does s t h⟩
  | canResume => exact ⟨_, execCanResume_does s t h⟩
  | wakePin => exact ⟨_, execWakePin_does _ _ s t h⟩
  | busWake => exact ⟨_, execBusWake_does _ s t h⟩
  | wakeTimer => exact ⟨_, execWakeTimer_does s t h⟩
  | nop => exact ⟨_, execNop_does _ s t h⟩
  | status => exact ⟨_, execStatus_does _ _ s t h⟩
  | write => exact ⟨_, execWrite_does _ _ _ _ s t h⟩
  | read => exact ⟨_, execRead_does _ _ _ _ _ _ s t h⟩
  | writeFix => exact ⟨_, execWriteFix_does _ _ _ _ s t h⟩
  | readFix => exact ⟨_, execReadFix_does _ _ _ _ _ _ s t h⟩
  | hostFrameEnd => exact ⟨_, execHostFrameEnd_does _ s t h⟩
  | lateArrival => exact ⟨_, execLateArrival_does s t h⟩
  | daisyFrame => exact ⟨_, execDaisyFrame_does _ _ _ _ s t h⟩
  | busyNRelease => exact ⟨_, execBusyNRelease_does s t h⟩
  | mwApertureRead => exact ⟨_, execMwApertureRead_does _ s t h⟩
  | mwApertureWrite => exact ⟨_, execMwApertureWrite_does _ _ s t h⟩
  | mwBaseWrite => exact ⟨_, execMwBaseWrite_does _ s t h⟩
  | mwLineRead => exact ⟨_, execMwLineRead_does _ s t h⟩
  | mwWriteOut => exact ⟨_, execMwWriteOut_does s t h⟩
  | mwPoll => exact ⟨_, execMwPoll_does _ s t h⟩
  | mwTimeout => exact ⟨_, execMwTimeout_does s t h⟩
  | mwRawGo => exact ⟨_, execMwRawGo_does _ s t h⟩
  | mmFault => exact ⟨_, execMmFault_does s t h⟩
  | clap => exact ⟨_, execClap_does s t h⟩
  | clapEdge => exact ⟨_, execClapEdge_does s t h⟩
  | clapMiss => exact ⟨_, execClapMiss_does s t h⟩
  | clapLost => exact ⟨_, execClapLost_does s t h⟩
  | chainWindow => exact ⟨_, execChainWindow_does _ s t h⟩
  | chainRecord => exact ⟨_, execChainRecord_does _ _ s t h⟩
  | posConflict => exact ⟨_, execPosConflict_does s t h⟩
  | hostInWindow => exact ⟨_, execHostInWindow_does s t h⟩
  | qTimeout => exact ⟨_, execQTimeout_does _ s t h⟩
  | repairCopyDone => exact ⟨_, execRepairCopyDone_does _ s t h⟩
  | testWindow => exact ⟨_, execTestWindow_does _ s t h⟩
  | testWindowEnd => exact ⟨_, execTestWindowEnd_does _ _ s t h⟩
  | testWindowTimeout => exact ⟨_, execTestWindowTimeout_does _ s t h⟩
  | bankWake => exact ⟨_, execBankWake_does _ s t h⟩
  | bankRetain => exact ⟨_, execBankRetain_does _ s t h⟩
  | atSet => exact ⟨_, execAtSet_does _ _ s t h⟩
  | atClr => exact ⟨_, execAtClr_does _ _ s t h⟩
  | ownWrite => exact ⟨_, execOwnWrite_does _ _ s t h⟩
  | mbPortAWrite => exact ⟨_, execMbPortAWrite_does _ _ s t h⟩
  | axSafe => exact ⟨_, execAxSafe_does _ s t h⟩
  | axRelease => exact ⟨_, execAxRelease_does _ s t h⟩
  | pinHoldEnd => exact ⟨_, execPinHoldEnd_does _ s t h⟩
  | updErase => exact ⟨_, execUpdErase_does _ s t h⟩
  | eraseDone => exact ⟨_, execEraseDone_does _ s t h⟩
  | updOpen => exact ⟨_, execUpdOpen_does _ s t h⟩
  | updData => exact ⟨_, execUpdData_does _ s t h⟩
  | pageProgrammed => exact ⟨_, execPageProgrammed_does _ s t h⟩
  | updFlush => exact ⟨_, execUpdFlush_does _ s t h⟩
  | updVerify => exact ⟨_, execUpdVerify_does _ s t h⟩
  | updFwSplice => exact ⟨_, execUpdFwSplice_does _ s t h⟩
  | updFwConfirm => exact ⟨_, execUpdFwConfirm_does _ s t h⟩
  | updAbort => exact ⟨_, execUpdAbort_does _ s t h⟩
  | mcRestart => exact ⟨_, execMcRestart_does s t h⟩
  | fwTrialExpire => exact ⟨_, execFwTrialExpire_does s t h⟩
  | mcWatchdog => exact ⟨_, execMcWatchdog_does s t h⟩
  | scrub => exact ⟨_, execScrub_does s t h⟩
  | logRecordWrite => exact ⟨_, execLogRecordWrite_does _ s t h⟩
  | flashWindowRead => exact ⟨_, execFlashWindowRead_does _ _ s t h⟩
  | modeReqStandby => exact ⟨_, execModeReqStandby_does _ s t h⟩
  | modeReqRun => exact ⟨_, execModeReqRun_does _ s t h⟩
  | modeReqSafe => exact ⟨_, execModeReqSafe_does _ s t h⟩
  | modeReqService => exact ⟨_, execModeReqService_does _ s t h⟩
  | modeReqSleep => exact ⟨_, execModeReqSleep_does _ s t h⟩
  | modeReqReset => exact ⟨_, execModeReqReset_does _ s t h⟩
  | sleepEntryDone => exact ⟨_, execSleepEntryDone_does s t h⟩
  | powerOn => exact ⟨_, execPowerOn_does s t h⟩
  | vbatOff => exact ⟨_, execVbatOff_does s t h⟩
  | brownout => exact ⟨_, execBrownout_does s t h⟩
  | regulator => exact ⟨_, execRegulator_does s t h⟩
  | pinReset => exact ⟨_, execPinReset_does s t h⟩
  | lowVoltage => exact ⟨_, execLowVoltage_does s t h⟩
  | overvoltage => exact ⟨_, execOvervoltage_does s t h⟩
  | overvoltageRelease => exact ⟨_, execOvervoltageRelease_does s t h⟩
  | vioLow => exact ⟨_, execVioLow_does s t h⟩
  | vioRelease => exact ⟨_, execVioRelease_does s t h⟩
  | registerWrite => exact ⟨_, execRegisterWrite_does _ _ s t h⟩
  | lowVoltageRelease => exact ⟨_, execLowVoltageRelease_does s t h⟩
  | rcReturn => exact ⟨_, execRcReturn_does s t h⟩
  | supplyGateRelease => exact ⟨_, execSupplyGateRelease_does s t h⟩
  | chargePumpReady => exact ⟨_, execChargePumpReady_does s t h⟩
  | hv => exact ⟨_, execHv_does s t h⟩
  | hvRelease => exact ⟨_, execHvRelease_does s t h⟩
  | protocolExc => exact ⟨_, execProtocolExc_does s t h⟩
  | logSectorErase => exact ⟨_, execLogSectorErase_does _ s t h⟩
  | sourceInactive => exact ⟨_, execSourceInactive_does _ _ s t h⟩

/-- A tick moves the slate on, takes the edges that follow the angle, and may end a wake that found nothing. -/
theorem tick_keepsInv {s t : State} (h : tick s = .next t) (inv : s.Inv) : t.Inv := by
  unfold tick whenPowered at h
  split at h
  case isFalse => cases h; exact inv
  case isTrue =>
    cases h
    have moved := (State.advanceTo_does s (s.clk.slate + 1)).2 inv
    have followed (u : State) (hu : u.Inv) : (u.when u.sys.mode.lists fun v => v.each v.usedAxes State.follow).Inv :=
      (State.when_does (fun v => State.each_does State.follow_does (Does.refl _ v)) (Does.refl _ u)).2 hu
    exact (State.settle_does _).2 ((State.when_does State.abandonWake_does (Does.refl _ _)).2 (followed _ moved))

/-- One step keeps the invariant, whether it takes the front command or lets a tick pass. -/
theorem step_keepsInv {s t : State} (h : step s = .next t) (inv : s.Inv) : t.Inv := by
  unfold step at h
  split at h
  · obtain ⟨l, does⟩ := exec_does h
    exact does.2 ((Does.pending s _).2 inv)
  · exact tick_keepsInv h inv

theorem Tbl.get_all {β : Type} {P : β → Prop} {d : β} {l : List β} (h : ∀ x ∈ l, P x) (hd : P d) (i : Nat) :
    P (Tbl.get d l i) := by
  induction l generalizing i with
  | nil => exact hd
  | cons x t ih =>
    cases i with
    | zero => exact h x List.mem_cons_self
    | succ i => exact ih (fun y hy => h y (List.mem_cons_of_mem x hy)) i

theorem HalfBridge.sound_default : HalfBridge.Sound {} := HalfBridge.sound_off rfl rfl rfl

theorem ModAx.sound_default : ∀ h ∈ ({} : ModAx).hbs, h.Sound :=
  fun _ hh => List.eq_of_mem_replicate hh ▸ HalfBridge.sound_default

/-- Under the invariant every half-bridge is sound; one that the tables do not list reads as off. -/
theorem State.Inv.hb_sound {s : State} (inv : s.Inv) (n k : Nat) : (s.hb n k).Sound := by
  have listed : ∀ h ∈ (s.mod n).hbs, h.Sound :=
    Tbl.get_all (P := fun m => ∀ h ∈ m.hbs, h.Sound) (fun m hm => (inv.mod m hm).2) ModAx.sound_default n
  exact Tbl.get_all listed HalfBridge.sound_default k

/-- Settles O58: a step keeps the invariant, and the invariant says that every half-bridge is sound. -/
theorem noShootThrough : Obligations.NoShootThrough :=
  fun _ _ n k inv h => (step_keepsInv h inv).hb_sound n k

end Sys2Proof.Machine

namespace Sys2Proof.Machine

set_option Elab.async false

/-! ### An edge that the angle takes away (R256, R258) -/

/-- Where the output that follows the angle leaves a phase without a duty, its rising edge does not come. -/
theorem carrierEdge_withoutDuty {n : Fin 12} {b : Bool} {s t : State} (next : exec (.carrierEdge n b) s = .next t)
    (hp : s.powered = true) (lists : s.sys.mode.lists = true) (runs : (s.mod n).carrier = true) {p q : Phase}
    (before : (s.mod n).phase b = p) (after : ((s.follow n).mod n).phase b = q)
    (risen : p.risen = false ∧ q.risen = false) (fallen : q.fallen = p.fallen) (full : q.refresh = false)
    (zero : q.d = 0) : (t.mod n).phase b = q := by
  have stays : exec (.carrierEdge n b) s = .next (s.follow n).settle := by
    show execCarrierEdge n b s = _
    simp [execCarrierEdge, whenPowered, done, hp, lists, runs, before, after, risen, fallen, full, zero]
  obtain rfl : (s.follow n).settle = t := Host.Outcome.next.inj (stays.symm.trans next)
  exact after

/-- In RUN, a carrier period of axis 0 in DRIVE with LOOP = VOLTAGE and amplitude 0, in which phase A still has a rising
edge for a duty of 1 tick. -/
def fadedVoltage : State :=
  { State.reset with
    sys := { mode := .run, inReset := false }
    mods := { carrier := true, bmode := 0, act := { cfg := 0x10 }, pa := { d := 1, rise := 100, fall := 101 } } ::
      List.replicate 11 {} }

/-- The output follows the amplitude down to 0, and the edges are placed from it anew. -/
theorem fadedVoltage_follow : ((fadedVoltage.follow 0).mod 0).phase false = {} := by decide +kernel

/-- Refutes O28, at its clause on the rising edge: the clause has every edge due in a carrier period taken, and with
LOOP = VOLTAGE the output follows the angle and the amplitude up to the edge (R256, R258), so where it has come to 0 the
phase has no on-interval left. -/
theorem not_carrierAndCurrentLoop : ¬ Obligations.CarrierAndCurrentLoop := by
  intro ⟨_, rising, _⟩
  obtain ⟨t, next, -, risen, -⟩ := rising 0 false fadedVoltage rfl rfl rfl rfl rfl (by decide) rfl
  have faded : (t.mod (0 : Fin 12)).phase false = {} :=
    carrierEdge_withoutDuty next rfl rfl rfl rfl fadedVoltage_follow ⟨rfl, rfl⟩ rfl rfl rfl
  rw [faded] at risen
  exact absurd risen (by decide)

end Sys2Proof.Machine

namespace Sys2Proof.Machine

set_option Elab.async false

/-! ### Loops -/

theorem each_kept {β : Type} {P : State → Prop} {f : State → β → State} {l : List β}
    (h : ∀ s, ∀ b ∈ l, P s → P (f s b)) {s : State} (hs : P s) : P (s.each l f) := by
  unfold State.each
  induction l generalizing s with
  | nil => exact hs
  | cons b t ih => exact ih (fun s c hc => h s c (List.mem_cons_of_mem b hc)) (h s b List.mem_cons_self hs)

/-- What a loop establishes for each element of its list, in states of the kind `P`, and no other element takes back. -/
theorem each_marks {β : Type} {P : State → Prop} {Q : β → State → Prop} {f : State → β → State} {l : List β}
    (kind : ∀ s, ∀ b ∈ l, P s → P (f s b)) (mark : ∀ s, ∀ b ∈ l, P s → Q b (f s b))
    (keep : ∀ s, ∀ b ∈ l, P s → ∀ c, c ≠ b → Q c s → Q c (f s b)) {s : State} (hs : P s) {c : β}
    (hc : c ∈ l ∨ Q c s) : Q c (s.each l f) := by
  unfold State.each
  induction l generalizing s with
  | nil => exact hc.resolve_left List.not_mem_nil
  | cons b t ih =>
    refine ih (fun s c hc => kind s c (List.mem_cons_of_mem b hc)) (fun s c hc => mark s c (List.mem_cons_of_mem b hc))
      (fun s c hc => keep s c (List.mem_cons_of_mem b hc)) (kind s b List.mem_cons_self hs) ?_
    by_cases e : c = b
    · exact .inr (e ▸ mark s b List.mem_cons_self hs)
    · exact hc.imp (fun h => (List.mem_cons.mp h).resolve_left e) (keep s b List.mem_cons_self hs c e)

/-! ### Registers of an axis, of its power stage and of its modulator -/

section
variable {l : List Field} {s t : State} {n : Nat}

theorem Does.axisWord (h : Does l s t) (r : Nat → Nat) (hn : n < 12)
    (hl : ∀ n < 12, l.all (fun k => !k.covers (r n)) = true := by decide) : t.word (r n) = s.word (r n) :=
  h.word (hl n hn)

theorem Does.axisFld (h : Does l s t) (f : Nat → Fld) (hn : n < 12)
    (hl : ∀ n < 12, l.all (fun k => !k.covers (f n).addr) = true := by decide) : t.fld (f n) = s.fld (f n) :=
  h.fld (hl n hn)

theorem Does.axisFlag (h : Does l s t) (f : Nat → Fld) (hn : n < 12)
    (hl : ∀ n < 12, l.all (fun k => !k.covers (f n).addr) = true := by decide) : t.flag (f n) = s.flag (f n) :=
  h.flag (hl n hn)

theorem Does.axisBit (h : Does l s t) (f : Nat → Fld) (hn : n < 12) (i : Nat)
    (hl : ∀ n < 12, l.all (fun k => !k.covers (f n).addr) = true := by decide) :
    t.bitOf (f n) i = s.bitOf (f n) i := h.bitOf i (hl n hn)

end

/-! ### The axes beside the one that a command names -/

/-- From `s` to `t` the modulator changes no axis but `n`. -/
def Beside (n : Nat) (s t : State) : Prop := ∀ m, m ≠ n → t.mod m = s.mod m

section
variable {n : Nat} {s t u : State}

theorem mod_of_mods (h : t.mods = s.mods) (m : Nat) : t.mod m = s.mod m := by
  unfold State.mod
  rw [h]

theorem mod_modMod_same (f : ModAx → ModAx) (h : n < s.mods.length) : (s.modMod n f).mod n = f (s.mod n) := by
  unfold State.mod State.modMod
  exact Tbl.get_mod_same {} s.mods n f h

theorem mod_modMod_other {m : Nat} (f : ModAx → ModAx) (h : m ≠ n) : (s.modMod n f).mod m = s.mod m := by
  unfold State.mod State.modMod
  exact Tbl.get_mod_other {} s.mods f h

theorem Beside.trans (h : Beside n s t) (h' : Beside n t u) : Beside n s u := fun m hm => (h' m hm).trans (h m hm)

theorem Beside.ofMods (h : t.mods = s.mods) : Beside n s t := fun m _ => mod_of_mods h m

theorem Beside.refl (n : Nat) (s : State) : Beside n s s := .ofMods rfl

theorem Beside.settle (h : Beside n s t) : Beside n s t.settle := h.trans (.ofMods t.mods_settle)

theorem Does.beside {l : List Field} (h : Does l s t) (hl : .mods ∉ l := by decide) : Beside n s t :=
  .ofMods (h.same .mods hl)

theorem Beside.modMod (s : State) (n : Nat) (f : ModAx → ModAx) : Beside n s (s.modMod n f) :=
  fun _ hm => mod_modMod_other f hm

theorem Beside.each {β : Type} {f : State → β → State} (h : ∀ s b, Beside n s (f s b)) (l : List β) :
    Beside n s (s.each l f) :=
  each_kept (P := Beside n s) (fun u b _ hu => hu.trans (h u b)) (.refl n s)

theorem Beside.ite {c : Prop} [Decidable c] (h : Beside n s t) (h' : Beside n s u) :
    Beside n s (if c then t else u) := by
  split <;> assumption

end

section
variable (s : State) (n : Nat)

theorem driveHb_beside (k : Nat) : Beside n s (s.driveHb n k) :=
  (Beside.modMod s n _).trans (State.switchSourcesOff_does _ n k).beside

theorem drive_beside : Beside n s (s.drive n) := .each (fun s k => driveHb_beside s n k) _

/-- The parts that show an axis entering its safe state. -/
def Parts.safeShown : List Field :=
  [.one MOD_STAT, .row MOD_AX_STAT, .one INT_AXCAUSE_LO, .one INT_AXCAUSE_HI, .intg]

theorem showSafe_does (c : Nat) : Does Parts.safeShown s ((s.showSafe n).setAxCause n c) :=
  have safe := State.put_does s (MOD_AX_STAT.SAFE n) 1 (Field.has_row MOD_AX_STAT (fun _ => rfl) n)
  have bit := State.putBit_does (s.put (MOD_AX_STAT.SAFE n) 1) MOD_STAT.SAFE n true (Field.has_one MOD_STAT)
  ((safe.weaken rfl).trans ((bit.weaken rfl).trans ((State.setCoast_does _ n 0).weaken rfl))).trans
    ((State.setAxCause_does _ n c).weaken rfl)

/-- An axis that enters its safe state: what shows it, and then the drive of its switches; or no drive, where the axis is
not used or there already (R278). -/
theorem enterSafe_cases (c : Nat) :
    ∃ u, Does Parts.safeShown s u ∧ (s.enterSafe n c = u ∨ s.enterSafe n c = u.drive n) := by
  unfold State.enterSafe
  split
  · exact ⟨s, .refl _ s, .inl rfl⟩
  split
  · split
    · exact ⟨_, ((Does.intg s _).weaken rfl).trans ((State.setAxCause_does _ n c).weaken rfl), .inl rfl⟩
    · exact ⟨s, .refl _ s, .inl rfl⟩
  · refine ⟨_, ?_, .inr rfl⟩
    have fast (i : State → Intg) : Does Parts.safeShown s (s.when (s.aboveStop n) fun s => { s with intg := i s }) :=
      State.when_does (fun s => (Does.intg s _).weaken rfl) (.refl _ s)
    split
    · exact ((fast _).trans (showSafe_does _ n c)).trans ((Does.intg _ _).weaken rfl)
    · exact (fast _).trans (showSafe_does _ n c)

/-- The parts that count an interlock event and raise the sixteenth of a frame. -/
def Parts.interlockCounted : List Field :=
  [.one MOD_STAT, .one MOD_ILOCK_CNT, .row MOD_AX_FORCE, .one MGT_LOG_STAT, .faults, .reel, .mgt, .can, .modg]

/-- The count of a half-bridge's interlock events goes up by one (R277). -/
def HalfBridge.countEvent (h : HalfBridge) : HalfBridge := { h with events := h.events + 1 }

theorem interlockCounted_does (k : Nat) : Does [.one MOD_ILOCK_CNT] s
    ((s.bump MOD_ILOCK_CNT.EVENTS 1).put MOD_ILOCK_CNT.LAST_HB (s.hbCode n k)) :=
  (State.bump_does s MOD_ILOCK_CNT.EVENTS 1 (Field.has_one MOD_ILOCK_CNT)).trans
    (State.put_does _ MOD_ILOCK_CNT.LAST_HB _ (Field.has_one MOD_ILOCK_CNT))

/-- An interlock event is counted on its half-bridge; the sixteenth of a frame is raised, ends FORCE and takes the axis
into its safe state (R276, R277). -/
theorem interlock_cases (k : Nat) : ∃ u, Does Parts.interlockCounted (s.modHb n k HalfBridge.countEvent) u ∧
    (s.interlock n k = u ∨ s.interlock n k = u.enterSafe n 2) := by
  have counted := (interlockCounted_does (s.modHb n k HalfBridge.countEvent) n k).weaken (l := Parts.interlockCounted) rfl
  unfold State.interlock
  dsimp only
  split
  · refine ⟨_, counted.trans ?_, .inr rfl⟩
    have raised (u : State) : Does Parts.interlockCounted u (u.raise 0x0708) := (State.raise_does u 0x0708 0).weaken rfl
    have marked (u : State) (g : ModG) : Does Parts.interlockCounted u { u with modg := g } :=
      (Does.modg u g).weaken rfl
    have ended (u : State) : Does Parts.interlockCounted u (u.put (MOD_AX_FORCE.ACTIVE n) 0) :=
      (State.put_does u _ 0 (Field.has_row MOD_AX_FORCE (fun _ => rfl) n)).weaken rfl
    have shown (u : State) (v : Nat) : Does Parts.interlockCounted u (u.put MOD_STAT.FORCE_ACTIVE v) :=
      (State.put_does u _ v (Field.has_one MOD_STAT)).weaken rfl
    exact (raised _).trans ((marked _ _).trans ((ended _).trans (shown _ _)))
  · exact ⟨_, counted, .inl rfl⟩

/-- One half-bridge as `driveChecked` drives it. -/
def State.driveOne (s : State) (n k : Nat) : State :=
  if ((s.driveHb n k).hb n k).conflict && !(s.hb n k).conflict then (s.driveHb n k).interlock n k else s.driveHb n k

theorem driveChecked_eq : s.driveChecked n = s.each [0, 1, 2, 3] (fun s k => s.driveOne n k) := rfl

theorem enterSafe_beside (c : Nat) : Beside n s (s.enterSafe n c) := by
  obtain ⟨u, shown, e | e⟩ := enterSafe_cases s n c <;> rw [e]
  · exact shown.beside
  · exact shown.beside.trans (drive_beside u n)

theorem interlock_beside (k : Nat) : Beside n s (s.interlock n k) := by
  obtain ⟨u, counted, e | e⟩ := interlock_cases s n k <;> rw [e]
  · exact (Beside.modMod s n _).trans counted.beside
  · exact ((Beside.modMod s n _).trans counted.beside).trans (enterSafe_beside u n 2)

theorem driveChecked_beside : Beside n s (s.driveChecked n) :=
  .each (fun s k => ((driveHb_beside s n k).trans (interlock_beside _ n k)).ite (driveHb_beside s n k)) _

end
end Sys2Proof.Machine

namespace Sys2Proof.Machine

set_option Elab.async false

/-! ### The half-bridges of the axis that a command names -/

theorem Tbl.get_beyond {β : Type} (d : β) (l : List β) {i : Nat} (h : l.length ≤ i) : Tbl.get d l i = d := by
  induction l generalizing i with
  | nil => rfl
  | cons x t ih =>
    cases i with
    | zero => exact absurd h (by simp)
    | succ i => exact ih (by simpa using h)

section
variable (s : State) (n k : Nat)

theorem hb_of_mods {t : State} (h : t.mods = s.mods) : t.hb n k = s.hb n k := by
  unfold State.hb
  rw [mod_of_mods h]

theorem hb_modHb_other {j : Nat} (f : HalfBridge → HalfBridge) (h : j ≠ k) : (s.modHb n k f).hb n j = s.hb n j := by
  unfold State.hb State.modHb State.modMod State.mod
  exact Tbl.get_mod_field (f := fun m => { m with hbs := Tbl.mod m.hbs k f }) (fun m => Tbl.get {} m.hbs j) s.mods n
    (fun m => Tbl.get_mod_other {} m.hbs f h) n

theorem hb_modHb_same (f : HalfBridge → HalfBridge) (hn : n < s.mods.length) (hk : k < (s.mod n).hbs.length) :
    (s.modHb n k f).hb n k = f (s.hb n k) := by
  unfold State.hb State.modHb
  rw [mod_modMod_same _ hn]
  exact Tbl.get_mod_same {} _ k f hk

/-- What holds of the change of a half-bridge, and of one that is off, holds after the change, in the tables or not. -/
theorem modHb_hb {P : HalfBridge → Prop} {f : HalfBridge → HalfBridge} (hf : P (f (s.hb n k))) (off : P {}) :
    P ((s.modHb n k f).hb n k) := by
  by_cases hn : n < s.mods.length
  · by_cases hk : k < (s.mod n).hbs.length
    · rw [hb_modHb_same s n k f hn hk]
      exact hf
    · unfold State.hb State.modHb
      rw [mod_modMod_same _ hn, Tbl.get_beyond _ _ (by simpa using hk)]
      exact off
  · have none : (s.modHb n k f).mod n = {} := Tbl.get_beyond _ _ (by simpa [State.modHb, State.modMod] using hn)
    unfold State.hb
    rw [none]
    exact Tbl.get_all (fun h hh => List.eq_of_mem_replicate hh ▸ off) off k

theorem hb_driveHb_other {j : Nat} (h : j ≠ k) : (s.driveHb n k).hb n j = s.hb n j :=
  (hb_of_mods _ n j ((State.switchSourcesOff_does _ n k).same .mods)).trans (hb_modHb_other s n k _ h)

/-- What a half-bridge is driven to by its isolation, its dead time and its request (R250, R276). -/
def State.drivenHb : HalfBridge :=
  (s.hb n k).apply (s.isolated n k) (s.mod n).act.dtTicks (s.request n k)

theorem hb_driveHb_same (hn : n < s.mods.length) (hk : k < (s.mod n).hbs.length) :
    (s.driveHb n k).hb n k = s.drivenHb n k :=
  (hb_of_mods _ n k ((State.switchSourcesOff_does _ n k).same .mods)).trans (hb_modHb_same s n k _ hn hk)

theorem driveHb_hb {P : HalfBridge → Prop} (hf : P (s.drivenHb n k)) (off : P {}) : P ((s.driveHb n k).hb n k) := by
  have same := hb_of_mods _ n k ((State.switchSourcesOff_does (s.modHb n k fun h =>
    h.apply (s.isolated n k) (s.mod n).act.dtTicks (s.request n k)) n k).same .mods)
  unfold State.driveHb
  rw [same]
  exact modHb_hb s n k hf off

end

/-! ### Isolated half-bridges stay off (R327) -/

/-- Both switches are off, and none waits to turn on. -/
def HalfBridge.Off (h : HalfBridge) : Prop := h.hi = false ∧ h.lo = false ∧ h.turnOn = none

/-- Half-bridge `k` of axis `n` is isolated and off. -/
def HeldOff (n k : Nat) (s : State) : Prop := s.isolated n k = true ∧ (s.hb n k).Off

section
variable {s t : State} {n k : Nat}

theorem Does.isolated {l : List Field} (h : Does l s t) (hn : n < 12)
    (hl : ∀ n < 12, l.all (fun k => !k.covers (PWR_AX_STAT n)) = true := by decide) :
    t.isolated n k = s.isolated n k := h.axisBit PWR_AX_STAT.ISOL hn k hl

theorem Does.heldOff {l : List Field} (h : Does l s t) (hn : n < 12) (held : HeldOff n k s)
    (hl : ∀ n < 12, l.all (fun k => !k.covers (PWR_AX_STAT n)) = true := by decide) (hm : .mods ∉ l := by decide) :
    HeldOff n k t :=
  ⟨(h.isolated hn hl).trans held.1, hb_of_mods s n k (h.same .mods hm) ▸ held.2⟩

theorem driveHb_heldOff (hn : n < 12) (j : Nat) (held : HeldOff n k s) : HeldOff n k (s.driveHb n j) := by
  refine ⟨((State.driveHb_does s n j).isolated hn).trans held.1, ?_⟩
  by_cases e : k = j
  · subst e
    refine driveHb_hb s n k ?_ ⟨rfl, rfl, rfl⟩
    unfold State.drivenHb
    rw [held.1]
    exact ⟨rfl, rfl, rfl⟩
  · rw [hb_driveHb_other s n j e]
    exact held.2

theorem enterSafe_heldOff (hn : n < 12) (c : Nat) (held : HeldOff n k s) : HeldOff n k (s.enterSafe n c) := by
  obtain ⟨u, shown, e | e⟩ := enterSafe_cases s n c <;> rw [e]
  · exact shown.heldOff hn held
  · exact each_kept (fun u j _ hu => driveHb_heldOff hn j hu) (shown.heldOff hn held)

theorem interlock_heldOff (hn : n < 12) (j : Nat) (held : HeldOff n k s) : HeldOff n k (s.interlock n j) := by
  obtain ⟨u, counted, e⟩ := interlock_cases s n j
  have mark : HeldOff n k (s.modHb n j HalfBridge.countEvent) := by
    refine ⟨held.1, ?_⟩
    by_cases h : k = j
    · subst h
      exact modHb_hb s n k held.2 ⟨rfl, rfl, rfl⟩
    · rw [hb_modHb_other s n j _ h]
      exact held.2
  rcases e with e | e <;> rw [e]
  · exact counted.heldOff hn mark
  · exact enterSafe_heldOff hn 2 (counted.heldOff hn mark)

theorem driveChecked_heldOff (hn : n < 12) (held : HeldOff n k s) : HeldOff n k (s.driveChecked n) := by
  rw [driveChecked_eq]
  refine each_kept (fun u j _ hu => ?_) held
  unfold State.driveOne
  split
  · exact interlock_heldOff hn j (driveHb_heldOff hn j hu)
  · exact driveHb_heldOff hn j hu

end

/-! ### Requests of both switches (R276) -/

/-- The parts that a drive of the switches changes. -/
def Parts.driven : List Field := [.row PWR_AX_LIVE, .mods, .pwr]

theorem HalfBridge.apply_calm (h : HalfBridge) (i : Bool) (dt : Nat) {r : Bool × Bool} (hr : r ≠ (true, true)) :
    (h.apply i dt r).conflict = false := by
  unfold HalfBridge.apply
  split
  · rfl
  match r, hr with
  | (true, true), hr => exact absurd rfl hr
  | (false, false), _ => rfl
  | (true, false), _ => dsimp only; split_ifs <;> rfl
  | (false, true), _ => dsimp only; split_ifs <;> rfl

/-- Where no request asks both switches of a half-bridge on, no interlock event arises. -/
theorem driveChecked_calm {s : State} {n : Nat}
    (calm : ∀ u k, Does Parts.driven s u → u.request n k ≠ (true, true)) : Does Parts.driven s (s.driveChecked n) := by
  rw [driveChecked_eq]
  refine each_kept (P := Does Parts.driven s) (fun u k _ hu => ?_) (.refl _ s)
  have off : ((u.driveHb n k).hb n k).conflict = false :=
    driveHb_hb (P := fun h => h.conflict = false) u n k (HalfBridge.apply_calm _ _ _ (calm u k hu)) rfl
  unfold State.driveOne
  rw [off]
  exact hu.trans (State.driveHb_does u n k)

end Sys2Proof.Machine

namespace Sys2Proof.Machine

set_option Elab.async false

/-! ### The parts of a trip (R327 to R330) -/

/-- The number whose bits are the four answers of `p`. -/
theorem testBit_sum (p : Nat → Bool) {k : Nat} (hk : k < 4) :
    ((List.range 4).foldl (fun m k => if p k then m + 2 ^ k else m) 0).testBit k = p k := by
  have bits : ∀ a b c d : Bool, ∀ k < 4, ([(a, 0), (b, 1), (c, 2), (d, 3)].foldl
      (fun (m : Nat) (x : Bool × Nat) => if x.1 then m + 2 ^ x.2 else m) 0).testBit k = [a, b, c, d].getD k false := by
    decide
  refine (bits (p 0) (p 1) (p 2) (p 3) k hk).trans ?_
  interval_cases k <;> rfl

section
variable (s : State) {n k src : Nat}

theorem showIsolation_isolated (hk : k < 4) :
    (s.showIsolation n).isolated n k = tripHolds (s.word (PWR_AX_TRIP n)) k := by
  unfold State.isolated State.bitOf State.showIsolation
  rw [fld_put_same' _ _ _ (by decide : 4 + 4 ≤ 32)]
  refine (Nat.testBit_mod_two_pow ..).trans ?_
  rw [testBit_sum _ hk, decide_eq_true (show k < (PWR_AX_STAT.ISOL n).w from hk), Bool.true_and]

theorem tripHolds_of {w : Word} (hs : src < 18) (bit : w.getLsbD src = true)
    (names : (tripBridges src).contains k = true) : tripHolds w k = true :=
  List.any_eq_true.mpr ⟨src, List.mem_range.mpr hs, by rw [bit, names]; rfl⟩

/-- The trip bit and the isolation that follows from it. -/
def State.tripMarked (s : State) (n src : Nat) : State := (s.putBit ⟨PWR_AX_TRIP n, 0, 18⟩ src true).showIsolation n

theorem tripMarked_does : Does [.row PWR_AX_TRIP, .row PWR_AX_STAT] s (s.tripMarked n src) :=
  ((State.putBit_does s ⟨PWR_AX_TRIP n, 0, 18⟩ src true (Field.has_row PWR_AX_TRIP (fun _ => rfl) n)).weaken rfl).trans
    ((State.showIsolation_does _ n).weaken rfl)

theorem tripMarked_bit (hn : n < 12) (hs : src < 18) :
    ((s.tripMarked n src).word (PWR_AX_TRIP n)).getLsbD src = true := by
  have kept : (s.tripMarked n src).word (PWR_AX_TRIP n) = _ := (State.showIsolation_does _ n).axisWord PWR_AX_TRIP hn
  have set := s.word_put_same ⟨PWR_AX_TRIP n, 0 + src, 1⟩ true.toNat
  rw [kept, putBit_eq, set, Fld.getLsbD_into, if_pos (by dsimp only; omega)]
  simp

theorem tripMarked_isolated (hs : src < 18) (hk : k < 4) (names : (tripBridges src).contains k = true)
    (hn : n < 12) : (s.tripMarked n src).isolated n k = true := by
  have bit := tripMarked_bit s hn hs
  have kept : (s.tripMarked n src).word (PWR_AX_TRIP n) = _ := (State.showIsolation_does _ n).axisWord PWR_AX_TRIP hn
  rw [kept] at bit
  exact (showIsolation_isolated _ hk).trans (tripHolds_of hs bit names)

/-- Both switches off, and no turn-on pending. -/
def HalfBridge.switchedOff (h : HalfBridge) : HalfBridge := { h with hi := false, lo := false, turnOn := none }

theorem allOff_off (hn : n < s.mods.length) : ((s.allOff n).hb n k).Off := by
  have mods : (s.allOff n).mods = (s.modMod n fun m => { m with hbs := m.hbs.map HalfBridge.switchedOff }).mods :=
    (State.each_does (fun u k => State.switchSourcesOff_does u n k) (.refl _ _)).same .mods
  have cut : (s.allOff n).hb n k = (s.hb n k).switchedOff := by
    rw [hb_of_mods _ n k mods]
    unfold State.hb
    rw [mod_modMod_same _ hn]
    exact Tbl.get_map HalfBridge.switchedOff {} _ k
  rw [cut]
  exact ⟨rfl, rfl, rfl⟩

theorem tripCode_block (src : Nat) :
    tripCode src / 256 = 0x08 ∧ tripCode src % 256 ≤ 16 ∧ 1 ≤ tripCode src % 256 := by
  unfold tripCode
  split
  · decide
  · split <;> decide

/-- The safe pattern asks no half-bridge for both its switches. -/
theorem request_safe (h : s.isSafe n = true) : s.request n k ≠ (true, true) := by
  unfold State.request State.safePattern
  rw [if_pos h]
  split
  · simp
  split
  · simp
  split
  · simp
  split
  · simp
  · split <;> simp
  · simp

theorem driveChecked_safe (hn : n < 12) (h : s.isSafe n = true) : Does Parts.driven s (s.driveChecked n) :=
  driveChecked_calm fun u _ hu => request_safe u ((hu.isSafe hn).trans h)

end

/-! ### A trip -/

theorem fld_bump_same (s : State) (f : Fld) (n : Nat) (h : f.lo + f.w ≤ 32) :
    (s.bump f n).fld f = min (s.fld f + n) (2 ^ f.w - 1) :=
  (s.fld_put_same f _ h).trans (Nat.mod_eq_of_lt (by have := Nat.two_pow_pos f.w; omega))

/-- What a trip of source `src` of axis `n` leaves beside the safe state. -/
structure Tripped (n src : Nat) (s t : State) : Prop where
  bit : (t.word (PWR_AX_TRIP n)).getLsbD src = true
  count : t.fld (PWR_AX_CNT.TRIPS n) = min (s.fld (PWR_AX_CNT.TRIPS n) + 1) (2 ^ (PWR_AX_CNT.TRIPS n).w - 1)
  raised : t.raised (tripCode src) n = true
  held : ∀ k < 4, (tripBridges src).contains k = true → HeldOff n k t
  others : Beside n s t

section
variable {s t u : State} {n src : Nat}

/-- What drives the switches of the axis without a trip of its own takes nothing of it back. -/
theorem Tripped.after {l : List Field} (h : Tripped n src s t) (does : Does l t u) (hn : n < 12)
    (held : ∀ k, HeldOff n k t → HeldOff n k u) (others : Beside n t u)
    (trip : ∀ n < 12, l.all (fun k => !k.covers (PWR_AX_TRIP n)) = true := by decide)
    (count : ∀ n < 12, l.all (fun k => !k.covers (PWR_AX_CNT n)) = true := by decide)
    (fault : l.all (fun k => !k.covers PWR_FAULT) = true := by decide) : Tripped n src s u where
  bit := does.axisWord PWR_AX_TRIP hn trip ▸ h.bit
  count := (does.axisFld PWR_AX_CNT.TRIPS hn count).trans h.count
  raised := (does.raised (by rw [(tripCode_block src).1]; exact fault)).trans h.raised
  held := fun k hk names => held k (h.held k hk names)
  others := h.others.trans others

/-- A trip up to its fault: its bit, the switches off, its count. -/
def State.tripRaised (s : State) (n src : Nat) : State :=
  ((((s.tripMarked n src).noteCycle n).allOff n).bump (PWR_AX_CNT.TRIPS n) 1).raise (tripCode src) n

theorem trip_eq (free : s.underTest n = false) :
    s.trip n src = ((s.tripRaised n src).enterSafe n 1).driveChecked n := by
  unfold State.trip
  rw [free]
  rfl

theorem tripRaised_reel (s : State) (n src : Nat) : (s.tripRaised n src).reel = s.reel := by
  have block : ¬((tripCode src / 256 = 3 ∨ tripCode src / 256 = 4) ∨ tripCode src / 256 = 0x11) := by
    rw [(tripCode_block src).1]
    decide
  have marked := (tripMarked_does s (n := n) (src := src)).same .reel
  have noted := (State.noteCycle_does (s.tripMarked n src) n).same .reel
  have cut := (State.allOff_does ((s.tripMarked n src).noteCycle n) n).same .reel
  exact (raise_reel _ _ n block).trans ((State.reel_bump _ _ _).trans (cut.trans (noted.trans marked)))

theorem tripRaised_tripped (hn : n < 12) (hs : src < 18) (listed : n < s.mods.length) :
    Tripped n src s (s.tripRaised n src) := by
  have marked := tripMarked_does s (n := n) (src := src)
  have noted := State.noteCycle_does (s.tripMarked n src) n
  have cut := State.allOff_does ((s.tripMarked n src).noteCycle n) n
  have bumped := State.bump_does (((s.tripMarked n src).noteCycle n).allOff n) (PWR_AX_CNT.TRIPS n) 1
    (Field.has_row PWR_AX_CNT (fun _ => rfl) n)
  have raised : Does _ _ (s.tripRaised n src) := State.raise_does
    ((((s.tripMarked n src).noteCycle n).allOff n).bump (PWR_AX_CNT.TRIPS n) 1) (tripCode src) n
  have stays := (noted.same .mods).trans (marked.same .mods)
  constructor
  case bit =>
    rw [raised.axisWord PWR_AX_TRIP hn, bumped.axisWord PWR_AX_TRIP hn, cut.axisWord PWR_AX_TRIP hn,
      noted.axisWord PWR_AX_TRIP hn]
    exact tripMarked_bit s hn hs
  case count =>
    rw [raised.axisFld PWR_AX_CNT.TRIPS hn, fld_bump_same _ _ _ (by decide : 0 + 16 ≤ 32),
      cut.axisFld PWR_AX_CNT.TRIPS hn, noted.axisFld PWR_AX_CNT.TRIPS hn, marked.axisFld PWR_AX_CNT.TRIPS hn]
  case raised => exact raised_raise _ _ _ (tripCode_block src).2
  case held =>
    intro k hk names
    have off : ((((s.tripMarked n src).noteCycle n).allOff n).hb n k).Off :=
      allOff_off _ (stays ▸ listed)
    have isolated := ((cut.isolated hn).trans (noted.isolated hn)).trans (tripMarked_isolated s hs hk names hn)
    exact raised.heldOff hn (bumped.heldOff hn ⟨isolated, off⟩)
  case others =>
    have off : Beside n ((s.tripMarked n src).noteCycle n) (((s.tripMarked n src).noteCycle n).allOff n) :=
      (Beside.modMod _ n _).trans (.each (fun u k => (State.switchSourcesOff_does u n k).beside) _)
    exact ((Beside.ofMods stays).trans off).trans (bumped.beside.trans raised.beside)

theorem trip_tripped (hn : n < 12) (hs : src < 18) (used : s.axisUsed n = true) (free : s.underTest n = false)
    (listed : n < s.mods.length) : Tripped n src s (s.trip n src) ∧ (s.trip n src).isSafe n = true := by
  have seen := tripRaised_tripped hn hs listed
  have safe : ((s.tripRaised n src).enterSafe n 1).isSafe n = true :=
    enterSafe_isSafe _ 1 hn (.inr ⟨rfl, (axisUsed_of_reel (tripRaised_reel s n src) n).trans used⟩)
  have entered := seen.after (State.enterSafe_does _ n 1) hn (fun _ => enterSafe_heldOff hn 1) (enterSafe_beside _ n 1)
  have drives := driveChecked_safe _ hn safe
  rw [trip_eq free]
  exact ⟨entered.after drives hn (fun _ => driveChecked_heldOff hn) (driveChecked_beside _ n),
    (drives.isSafe hn).trans safe⟩

/-- A source that trips shows as active first. -/
theorem liveTrip_tripped (hn : n < 12) (hs : src < 18) (used : s.axisUsed n = true) (free : s.underTest n = false)
    (listed : n < s.mods.length) : let t := (s.putBit (PWR_AX_LIVE.SRC n) src true).trip n src
    Tripped n src s t ∧ t.isSafe n = true := by
  have live := State.putBit_does s (PWR_AX_LIVE.SRC n) src true (Field.has_row PWR_AX_LIVE (fun _ => rfl) n)
  obtain ⟨trip, safe⟩ := trip_tripped (s := s.putBit (PWR_AX_LIVE.SRC n) src true) hn hs used free listed
  have same := live.axisFld PWR_AX_CNT.TRIPS hn
  exact ⟨{ trip with count := same ▸ trip.count }, safe⟩

theorem Tripped.settle (h : Tripped n src s t) : Tripped n src s t.settle :=
  ⟨h.bit, h.count, h.raised, h.held, h.others⟩

end

end Sys2Proof.Machine

namespace Sys2Proof.Machine

set_option Elab.async false

/-! ### The commands of trips (R323 to R331) -/

theorem hostAxis_runs {i : Instr} {n : Nat} {s : State} {l : List Field} {P : State → Prop} {x : Out} {a : Nat}
    {v : Option Word} {f : State → State} (hd : ∀ t, x = .next t → Does l s t) (h : s.hostOpen)
    (axis : s.part.hasAxis n = true) (hP : P (f s).settle) (he : exec i s = x := by rfl)
    (hx : x = hostAccess s a v (fun s => if s.part.hasAxis n then f s else s) {} := by rfl) : Runs i s l P := by
  refine runs_hostMeaning hd h ?_ he hx
  rw [if_pos axis]
  exact hP

section
variable {s : State} {n : Fin 12}

/-- What the statement on trips asks of a trip of source `src`. -/
def TripIsolated (n : Fin 12) (src : Nat) (s t : State) : Prop :=
  (t.word (PWR_AX_TRIP n)).getLsbD src = true ∧
    t.fld (PWR_AX_CNT.TRIPS n) = min (s.fld (PWR_AX_CNT.TRIPS n) + 1) (2 ^ (PWR_AX_CNT.TRIPS n).w - 1) ∧
    t.raised (tripCode src) n = true ∧ t.isSafe n = true ∧
    (∀ k < 4, (tripBridges src).contains k = true →
      t.isolated n k = true ∧ (t.hb n k).hi = false ∧ (t.hb n k).lo = false ∧ (t.hb n k).turnOn = none) ∧
    (∀ m < 12, m ≠ n.val → t.mod m = s.mod m)

theorem liveTrip_isolated {src : Nat} (hs : src < 18) (used : s.axisUsed n = true) (free : s.underTest n = false)
    (twelve : s.mods.length = 12) : TripIsolated n src s ((s.putBit (PWR_AX_LIVE.SRC n) src true).trip n src).settle := by
  obtain ⟨trip, safe⟩ := liveTrip_tripped n.isLt hs used free (n.isLt.trans_eq twelve.symm)
  exact ⟨trip.bit, trip.count, trip.raised, safe, trip.held, fun m _ => trip.others m⟩

theorem trip_runs {src : Fin 18} (hp : s.powered = true) (used : s.axisUsed n = true)
    (source : tripExists n src = true) (active : s.sourceActive n src = true ∨ s.sameCycle n src = true)
    (free : s.underTest n = false) (twelve : s.mods.length = 12) :
    Runs (.trip n src) s Parts.bstExhaust (TripIsolated n src s) := by
  refine runs_meaning (execTrip_does n src s) hp ?_
  rw [if_neg (by rcases active with h | h <;> simp [used, source, h])]
  exact liveTrip_isolated src.isLt used free twelve

theorem trip_inactive {src : Fin 18} (hp : s.powered = true) (inactive : s.sourceActive n src = false)
    (other : s.sameCycle n src = false) : Runs (.trip n src) s Parts.bstExhaust (fun t =>
      t.regs = s.regs ∧ t.mods = s.mods ∧ (∀ m < 12, m ≠ n.val → t.mod m = s.mod m)) := by
  refine runs_meaning (execTrip_does n src s) hp ?_
  rw [if_pos (by simp [inactive, other])]
  exact ⟨rfl, rfl, fun _ _ _ => rfl⟩

theorem bstSource : ∀ k : Fin 4, tripCode (4 * k + 3) = 0x0806 ∧ (tripBridges (4 * k + 3)).contains k.val = true := by
  decide

theorem bstExhaust_runs {k : Fin 4} (hp : s.powered = true) (used : s.axisUsed n = true)
    (lists : s.sys.mode.lists = true) (low : s.bitOf (PWR_AX_STAT.BST_UV n) k = true)
    (fourth : 4 ≤ ((s.mod n).phase (2 ≤ k.val)).refreshes) (free : s.underTest n = false)
    (twelve : s.mods.length = 12) : Runs (.bstExhaust n k) s Parts.bstExhaust (TripIsolated n (4 * k + 3) s) := by
  refine runs_meaning (execBstExhaust_does n k s) hp ?_
  rw [if_pos (by simp [used, lists, State.exhausted, low, fourth])]
  exact liveTrip_isolated (by omega) used free twelve

theorem bstExhaust_waits {k : Fin 4} (hp : s.powered = true) (waits : s.sys.mode.lists = false ∨
      s.bitOf (PWR_AX_STAT.BST_UV n) k = false ∨ ((s.mod n).phase (2 ≤ k.val)).refreshes < 4) :
    Runs (.bstExhaust n k) s Parts.bstExhaust (fun t => t.regs = s.regs ∧ t.mods = s.mods ∧ t.pwr = s.pwr ∧
      (∀ m < 12, m ≠ n.val → t.mod m = s.mod m)) := by
  refine runs_meaning (execBstExhaust_does n k s) hp ?_
  rw [if_neg (by rcases waits with h | h | h <;> simp [State.exhausted, h])]
  exact ⟨rfl, rfl, rfl, fun _ _ _ => rfl⟩

/-! #### A source that becomes inactive -/

theorem sourceInactive_runs {src : Fin 18} (hp : s.powered = true) (used : s.axisUsed n = true)
    (source : tripExists n src = true) : Runs (.sourceInactive n src) s [.row PWR_AX_LIVE, .intg, .pwr] (fun t =>
      t.bitOf (PWR_AX_LIVE.SRC n) src = false ∧ Assoc.get t.pwr.off (n.val, src.val) = some s.time) := by
  refine runs_meaning (execSourceInactive_does n src s) hp ?_
  rw [if_neg (by simp [used, source])]
  exact ⟨bitOf_putBit_same s (PWR_AX_LIVE.SRC n) src false ⟨src.isLt, (by decide : 0 + 18 ≤ 32)⟩,
    Assoc.get_put_same ..⟩

theorem sourceInactive_absent {src : Fin 18} (hp : s.powered = true)
    (absent : s.axisUsed n = false ∨ tripExists n src = false) :
    Runs (.sourceInactive n src) s [.row PWR_AX_LIVE, .intg, .pwr] (fun t => t.regs = s.regs ∧ t.pwr = s.pwr) := by
  refine runs_meaning (execSourceInactive_does n src s) hp ?_
  rw [if_pos (by rcases absent with h | h <;> simp [h])]
  exact ⟨rfl, rfl⟩

/-! #### Clearing trips -/

/-- The TRIP_CLEAR record of a write to PWR_AXn_TRIP (R570, R571). -/
def State.clearLogged (s : State) (n : Nat) (mask : Word) (outcome : Word) : State :=
  s.logRec (s.mkRec 0x07 0 n mask outcome (s.word (PWR_AX_LIVE n)))

theorem clearLogged_does (mask outcome : Word) :
    Does [.one MGT_LOG_STAT, .faults, .mgt, .can] s (s.clearLogged n mask outcome) := State.logRec_does s _

/-- The trip bits with the named ones cleared, and the axis no longer in the cycle of its last trip. -/
def State.bitsCleared (s : State) (n : Nat) (mask : Word) : State :=
  let s := s.setWord (PWR_AX_TRIP n) (s.word (PWR_AX_TRIP n) &&& ~~~mask)
  { s with pwr := { s.pwr with cycle := Assoc.del s.pwr.cycle n } }

theorem bitsCleared_does (mask : Word) : Does [.row PWR_AX_TRIP, .pwr] s (s.bitsCleared n mask) :=
  ((State.setWord_does s _ _ (Field.has_row PWR_AX_TRIP (fun _ => rfl) n)).weaken rfl).trans
    ((Does.pwr _ _).weaken rfl)

theorem bitsCleared_word (mask : Word) :
    (s.bitsCleared n mask).word (PWR_AX_TRIP n) = s.word (PWR_AX_TRIP n) &&& ~~~mask := State.word_setWord_same _ _ _

theorem tripClear_may {mask : Word} (may : ∀ b < 19, mask.getLsbD b = true → s.tripMayClear n b = true) :
    s.tripClear n mask = (((s.clearLogged n mask 0).bitsCleared n mask).showIsolation n).driveChecked n := by
  have ok : ((List.range 19).filter fun b => mask.getLsbD b).all (s.tripMayClear n) = true :=
    List.all_eq_true.mpr fun b hb => may b (List.mem_range.mp (List.mem_filter.mp hb).1) (List.mem_filter.mp hb).2
  unfold State.tripClear
  dsimp only
  rw [ok]
  rfl

theorem tripClear_held {mask : Word} (held : ∃ b < 19, mask.getLsbD b = true ∧ s.tripMayClear n b = false) :
    s.tripClear n mask =
      ((s.clearLogged n mask 2).when ((s.clearLogged n mask 2).tripLocked n) fun s => s.raise 0x080F n).outcome 2 := by
  obtain ⟨b, hb, bit, stays⟩ := held
  have no : ((List.range 19).filter fun b => mask.getLsbD b).all (s.tripMayClear n) = false :=
    List.all_eq_false.mpr ⟨b, List.mem_filter.mpr ⟨List.mem_range.mpr hb, bit⟩, by simp [stays]⟩
  unfold State.tripClear
  dsimp only
  rw [no]
  rfl

theorem tripClear_clears {mask : Word} (h : s.hostOpen) (axis : s.part.hasAxis n = true)
    (may : ∀ b < 19, mask.getLsbD b = true → s.tripMayClear n b = true) :
    Runs (.tripClear n mask) s Parts.tripClear (fun t => t.word (PWR_AX_TRIP n) = s.word (PWR_AX_TRIP n) &&& ~~~mask ∧
      (∀ m < 12, m ≠ n.val → t.mod m = s.mod m)) := by
  refine hostAxis_runs (execTripClear_does n mask s) h axis ?_
  rw [tripClear_may may]
  have logged := clearLogged_does (s := s) (n := n) mask 0
  have cleared := bitsCleared_does (s := s.clearLogged n mask 0) (n := n) mask
  have shown := State.showIsolation_does ((s.clearLogged n mask 0).bitsCleared n mask) n
  have driven := State.driveChecked_does (((s.clearLogged n mask 0).bitsCleared n mask).showIsolation n) n
  have others := logged.beside.trans (cleared.beside.trans (shown.beside.trans (driveChecked_beside _ n))) |>.settle
  constructor
  · rw [State.word_settle, driven.axisWord PWR_AX_TRIP n.isLt, shown.axisWord PWR_AX_TRIP n.isLt, bitsCleared_word,
      logged.axisWord PWR_AX_TRIP n.isLt]
  · exact fun m _ => others m

theorem tripClear_refused {mask : Word} (h : s.hostOpen) (axis : s.part.hasAxis n = true)
    (held : ∃ b < 19, mask.getLsbD b = true ∧ s.tripMayClear n b = false) :
    Runs (.tripClear n mask) s Parts.tripClear (fun t => t.word (PWR_AX_TRIP n) = s.word (PWR_AX_TRIP n) ∧
      t.spi.result = max s.spi.result 2 ∧ (∀ m < 12, m ≠ n.val → t.mod m = s.mod m)) := by
  refine hostAxis_runs (execTripClear_does n mask s) h axis ?_
  rw [tripClear_held held]
  have logged := (clearLogged_does (s := s) (n := n) mask 2).weaken
    (l := [.one MGT_LOG_STAT, .faults, .reel, .mgt, .can]) rfl
  have told := State.when_does (b := (s.clearLogged n mask 2).tripLocked n) (fun u => State.raise_does u 0x080F n) logged
  have others := (told.beside (n := n)).trans (.ofMods (State.mods_outcome _ 2)) |>.settle
  exact ⟨told.axisWord PWR_AX_TRIP n.isLt, congrArg (fun x : Spi => max x.result 2) (told.same .spi),
    fun m _ => others m⟩

end

/-! ### Obligation O30 -/

/-- Settles O30: a trip by what each of its steps leaves, BST_EXHAUST as the trip of its source, and a clear by whether
every named bit may clear. -/
theorem tripIsolates : Obligations.TripIsolates := by
  refine ⟨?trip, ?inactive, ?quiet, ?ends, ?clears, ?refused, ?exhaust, ?waits, ?absent⟩
  case trip =>
    intro n src s hp used source active free twelve _
    exact trip_runs hp used source active free twelve
  case inactive =>
    intro n src s hp inactive other
    exact trip_inactive hp inactive other
  case quiet =>
    intro s n k lists
    unfold State.request
    rw [if_pos (by simp [lists])]
  case ends =>
    intro n src s hp used source
    exact sourceInactive_runs hp used source
  case clears =>
    intro n m s h axis may
    exact tripClear_clears h axis may
  case refused =>
    intro n m s h axis held
    exact tripClear_refused h axis held
  case exhaust =>
    intro n k s hp used lists low fourth free twelve _
    refine (bstExhaust_runs hp used lists low fourth free twelve).mono ?_
    rintro t ⟨bit, count, raised, safe, held, others⟩
    obtain ⟨code, names⟩ := bstSource k
    obtain ⟨isolated, hi, lo, turnOn⟩ := held k k.isLt names
    exact ⟨bit, count, code ▸ raised, safe, isolated, hi, lo, turnOn, others⟩
  case waits =>
    intro n k s hp waits
    exact bstExhaust_waits hp waits
  case absent =>
    intro n src s hp absent
    exact sourceInactive_absent hp absent

end Sys2Proof.Machine

namespace Sys2Proof.Machine

set_option Elab.async false

/-! ### Armed copies and their transfer (R271 to R273) -/

section
variable {s t : State} {n : Nat}

/-- The parts that arming an axis changes, its transfer included. -/
def Parts.armed : List Field :=
  [.one MOD_CMT_PEND, .row MOD_AX_STAT, .one MGT_LOG_STAT, .faults, .reel, .mgt, .can, .mods]

theorem Does.cmtBuffer {l : List Field} (h : Does l s t) (hn : n < 12)
    (hl : ∀ n < 12, ∀ r ∈ [ MOD_AX_CFG, MOD_AX_PER, MOD_AX_DUTYA, MOD_AX_DUTYB, MOD_AX_TOFF, MOD_AX_TON, MOD_AX_DT],
      l.all (fun k => !k.covers (r n)) = true := by decide) : t.cmtBuffer n = s.cmtBuffer n := by
  have same (r : Nat → Nat) (hr : r ∈ [ MOD_AX_CFG, MOD_AX_PER, MOD_AX_DUTYA, MOD_AX_DUTYB, MOD_AX_TOFF, MOD_AX_TON,
      MOD_AX_DT]) : t.word (r n) = s.word (r n) := h.word (hl n hn r hr)
  unfold State.cmtBuffer
  rw [same MOD_AX_CFG (by simp), same MOD_AX_PER (by simp), same MOD_AX_DUTYA (by simp), same MOD_AX_DUTYB (by simp),
    same MOD_AX_TOFF (by simp), same MOD_AX_TON (by simp), same MOD_AX_DT (by simp)]

/-- The armed copy `c` with its duty ceilings held within the bound of R273. -/
def Cmt.clamped (c : Cmt) : Cmt := { c with dutyA := c.clampCeil c.dutyA, dutyB := c.clampCeil c.dutyB }

/-- A duty ceiling of `c` lies above the bound of R273. -/
def Cmt.above (c : Cmt) : Bool :=
  decide (c.period - c.toffMin < c.dutyA.toNat) || decide (c.period - c.toffMin < c.dutyB.toNat)

theorem Cmt.above_iff (c : Cmt) :
    c.above = true ↔ c.period - c.toffMin < c.dutyA.toNat ∨ c.period - c.toffMin < c.dutyB.toNat := by
  unfold Cmt.above
  rw [Bool.or_eq_true, decide_eq_true_iff, decide_eq_true_iff]

theorem Cmt.clampCeil_toNat (c : Cmt) (w : Word) : (c.clampCeil w).toNat = min w.toNat (c.period - c.toffMin) := by
  have short : c.period < 65536 := Nat.mod_lt _ (by decide)
  unfold Cmt.clampCeil
  split
  · rw [u32, BitVec.toNat_ofNat, Nat.mod_eq_of_lt (by omega)]
    omega
  · omega

/-- What a transfer of the armed copy shows of axis `n`. -/
structure Transferred (c : Cmt) (n : Nat) (t : State) : Prop where
  armed : (t.mod n).armed = none
  pend : t.bitOf MOD_CMT_PEND.ARMED n = false
  act : (t.mod n).act = c.clamped
  clamp : c.above = true → t.flag (MOD_AX_STAT.DUTY_CLAMP n) = true ∧ t.raised 0x070A = true

/-- With SHO_EN 0 no phase is held (R262). -/
def Cmt.freed (c : Cmt) (p : Phase) : Phase := if c.shoEn then p else { p with hold := false }

/-- The copy `c` in force on axis `n`. -/
def ModAx.taken (m : ModAx) (c : Cmt) : ModAx :=
  { m with armed := none, act := c.clamped, pa := c.freed m.pa, pb := c.freed m.pb }

/-- A change of the carrier mode clears the loops (R266). -/
def State.loopsFor (s : State) (n : Nat) (c : Cmt) : State :=
  if c.cmode != (s.mod n).act.cmode then s.clearLoops n else s

/-- The copy `c` in force on axis `n`, before DUTY_CLAMP. -/
def State.takenOver (s : State) (n : Nat) (c : Cmt) : State :=
  ((s.loopsFor n c).modMod n fun m => m.taken c).putBit MOD_CMT_PEND.ARMED n false

/-- DUTY_CLAMP set and raised (R273). -/
def State.dutyClamped (s : State) (n : Nat) : State := (s.put (MOD_AX_STAT.DUTY_CLAMP n) 1).raise 0x070A

theorem cmtTransfer_some {c : Cmt} (h : (s.mod n).armed = some c) :
    s.cmtTransfer n = (s.takenOver n c).when c.above fun s => s.dutyClamped n := by
  unfold State.cmtTransfer
  rw [h]
  rfl

theorem loopsFor_regs (s : State) (n : Nat) (c : Cmt) :
    (s.loopsFor n c).regs = s.regs ∧ (s.loopsFor n c).mods.length = s.mods.length := by
  unfold State.loopsFor
  split
  · exact ⟨rfl, Tbl.length_mod _ _ _⟩
  · exact ⟨rfl, rfl⟩

theorem dutyClamped_does (s : State) (n : Nat) :
    Does [.row MOD_AX_STAT, .one MGT_LOG_STAT, .faults, .reel, .mgt, .can] s (s.dutyClamped n) :=
  ((State.put_does s (MOD_AX_STAT.DUTY_CLAMP n) 1 (Field.has_row MOD_AX_STAT (fun _ => rfl) n)).weaken rfl).trans
    ((State.raise_does _ 0x070A 0).weaken rfl)

theorem dutyClamped_shows (hn : n < 12) (s : State) :
    (s.dutyClamped n).flag (MOD_AX_STAT.DUTY_CLAMP n) = true ∧ (s.dutyClamped n).raised 0x070A = true :=
  ⟨((State.raise_does _ 0x070A 0).axisFlag MOD_AX_STAT.DUTY_CLAMP hn).trans
    (flag_put_one s (MOD_AX_STAT.DUTY_CLAMP n) ⟨rfl, (by decide : 6 + 1 ≤ 32)⟩), raised_raise _ _ _ (by decide)⟩

theorem when_does_self {l : List Field} {b : Bool} {f : State → State} (h : ∀ s, Does l s (f s)) (s : State) :
    Does l s (s.when b f) := State.when_does h (.refl l s)

theorem cmtTransfer_shows {c : Cmt} (hn : n < 12) (listed : n < s.mods.length) (h : (s.mod n).armed = some c) :
    Transferred c n (s.cmtTransfer n) := by
  have after := when_does_self (b := c.above) (fun u => dutyClamped_does u n) (s.takenOver n c)
  have here : (s.takenOver n c).mod n = ((s.loopsFor n c).mod n).taken c :=
    mod_modMod_same _ ((loopsFor_regs s n c).2 ▸ listed)
  rw [cmtTransfer_some h]
  have mod := (mod_of_mods (after.same .mods) n).trans here
  constructor
  case armed => rw [mod]; rfl
  case act => rw [mod]; rfl
  case pend => exact (after.bitOf n).trans (bitOf_putBit_same _ MOD_CMT_PEND.ARMED n false ⟨hn, by decide⟩)
  case clamp =>
    intro above
    rw [above]
    exact dutyClamped_shows hn _

theorem cmtTransfer_length {c : Cmt} (h : (s.mod n).armed = some c) :
    (s.cmtTransfer n).mods.length = s.mods.length := by
  have after := when_does_self (b := c.above) (fun u => dutyClamped_does u n) (s.takenOver n c)
  rw [cmtTransfer_some h, after.same .mods]
  exact (Tbl.length_mod _ _ _).trans (loopsFor_regs s n c).2

end

/-! ### What arming an axis leaves of another one -/

/-- The copy, its bit and DUTY_CLAMP of axis `m` stay, and the fault once raised. -/
structure KeepsArmed (m : Nat) (s t : State) : Prop where
  mod : t.mod m = s.mod m
  pend : t.bitOf MOD_CMT_PEND.ARMED m = s.bitOf MOD_CMT_PEND.ARMED m
  clamp : t.flag (MOD_AX_STAT.DUTY_CLAMP m) = s.flag (MOD_AX_STAT.DUTY_CLAMP m)
  raised : s.raised 0x070A = true → t.raised 0x070A = true

/-- The copy `c` armed on axis `n`. -/
def State.armedWith (s : State) (n : Nat) (c : Cmt) : State :=
  (s.modMod n fun m => { m with armed := some c }).putBit MOD_CMT_PEND.ARMED n true

section
variable {s t u : State} {n m : Nat} {c : Cmt}

theorem KeepsArmed.trans (h : KeepsArmed m s t) (h' : KeepsArmed m t u) : KeepsArmed m s u :=
  ⟨h'.mod.trans h.mod, h'.pend.trans h.pend, h'.clamp.trans h.clamp, fun r => h'.raised (h.raised r)⟩

/-- A change of axis `n` and its bit in MOD_CMT_PEND. -/
theorem KeepsArmed.putBit (ne : m ≠ n) (mod : u.mod m = s.mod m) (regs : u.regs = s.regs) (b : Bool) :
    KeepsArmed m s (u.putBit MOD_CMT_PEND.ARMED n b) := by
  have words (r : Nat) : u.word r = s.word r := congrArg (fun x => Store.get regReset x r) regs
  refine ⟨mod, (bitOf_putBit_ne u _ b ne).trans ?_, (flag_put_ne _ _ _ _ (.inl ?_)).trans ?_, fun r => ?_⟩
  · exact congrArg (fun w => (MOD_CMT_PEND.ARMED.of w).testBit m) (words MOD_CMT_PEND)
  · simp only [ MOD_AX_STAT.DUTY_CLAMP, MOD_AX_STAT, MOD_CMT_PEND.ARMED, MOD_CMT_PEND]
    omega
  · exact congrArg (fun w => (MOD_AX_STAT.DUTY_CLAMP m).of w == 1) (words (MOD_AX_STAT m))
  · have apart : faultReg (0x070A / 256) 0 ≠ MOD_CMT_PEND := by decide
    refine (raised_put u ⟨MOD_CMT_PEND, MOD_CMT_PEND.ARMED.lo + n, 1⟩ b.toNat 0x070A 0 apart).trans ?_
    unfold State.raised at r ⊢
    rw [words]
    exact r

theorem armedWith_keeps (ne : m ≠ n) : KeepsArmed m s (s.armedWith n c) :=
  .putBit ne (mod_modMod_other _ ne) rfl true

theorem takenOver_keeps (ne : m ≠ n) : KeepsArmed m s (s.takenOver n c) :=
  .putBit ne (((Beside.modMod s n _).ite (.refl n s)).trans (.modMod _ n _) m ne) (loopsFor_regs s n c).1 false

theorem dutyClamped_keeps (hm : m < 12) (ne : m ≠ n) : KeepsArmed m s (s.dutyClamped n) := by
  have does := dutyClamped_does s n
  refine ⟨mod_of_mods (does.same .mods) m, does.bitOf m, ?_, fun r => ?_⟩
  · refine ((State.raise_does _ 0x070A 0).axisFlag MOD_AX_STAT.DUTY_CLAMP hm).trans (flag_put_ne _ _ _ _ (.inl ?_))
    simp only [ MOD_AX_STAT.DUTY_CLAMP, MOD_AX_STAT]
    omega
  · exact raised_raise _ _ _ (by decide)

theorem cmtTransfer_keeps (hm : m < 12) (ne : m ≠ n) (h : (s.mod n).armed = some c) :
    KeepsArmed m s (s.cmtTransfer n) := by
  rw [cmtTransfer_some h]
  cases c.above with
  | false => exact takenOver_keeps ne
  | true => exact (takenOver_keeps ne).trans (dutyClamped_keeps hm ne)

theorem Transferred.kept (h : Transferred c m s) (k : KeepsArmed m s t) : Transferred c m t where
  armed := k.mod ▸ h.armed
  pend := k.pend.trans h.pend
  act := k.mod ▸ h.act
  clamp := fun above => ⟨k.clamp.trans (h.clamp above).1, k.raised (h.clamp above).2⟩

/-! ### Arming -/

theorem armedWith_mod (h : n < s.mods.length) : ((s.armedWith n c).mod n).armed = some c := by
  have e : (s.armedWith n c).mod n = _ := mod_modMod_same (s := s) (fun m => { m with armed := some c }) h
  rw [e]

theorem arm_lists (lists : s.sys.mode.lists = true) : s.arm n = s.armedWith n (s.cmtBuffer n) :=
  if_pos lists

theorem arm_idle (idle : s.sys.mode.lists = false) :
    s.arm n = (s.armedWith n (s.cmtBuffer n)).cmtTransfer n := if_neg (by simp [idle])

/-- An armed copy that waits for its carrier start. -/
structure Armed (c : Cmt) (n : Nat) (t : State) : Prop where
  armed : (t.mod n).armed = some c
  pend : t.bitOf MOD_CMT_PEND.ARMED n = true

theorem Armed.kept (h : Armed c m s) (k : KeepsArmed m s t) : Armed c m t := ⟨k.mod ▸ h.armed, k.pend.trans h.pend⟩

theorem armedWith_armed (hn : n < 12) (h : n < s.mods.length) : Armed c n (s.armedWith n c) :=
  ⟨armedWith_mod h, bitOf_putBit_same _ MOD_CMT_PEND.ARMED n true ⟨hn, by decide⟩⟩

theorem armedWith_length : (s.armedWith n c).mods.length = s.mods.length := Tbl.length_mod _ _ _

end

/-! ### MOD_COMMIT (R271 to R274) -/

section
variable {s : State} {v : Word} {n : Nat}

/-- A MOD_COMMIT of `v` names axis `n`. -/
abbrev State.Names (s : State) (v : Word) (n : Nat) : Prop :=
  v.getLsbD n = true ∨ (v.getLsbD 16 = true ∧ s.axisUsed n = true)

/-- The axes that a MOD_COMMIT names, in the order in which they are armed. -/
def State.named (s : State) (v : Word) : List Nat :=
  if v.getLsbD 16 then s.usedAxes ++ (List.range 12).filter (fun n => v.getLsbD n && !s.axisUsed n)
  else (List.range 12).filter (fun n => v.getLsbD n)

theorem mem_named : n ∈ s.named v ↔ n < 12 ∧ s.Names v n := by
  unfold State.named State.usedAxes State.Names
  generalize v.getLsbD 16 = all
  cases all with
  | false => simp
  | true => by_cases used : s.axisUsed n = true <;> simp [used]

theorem writeCommit_accepted (h : ∀ n < 12, s.Names v n → s.commitRefused n = false) :
    s.writeCommit v = s.each (s.named v) State.arm := by
  have none : (s.named v).any s.commitRefused = false :=
    List.any_eq_false.mpr fun n hn => by simp [h n (mem_named.mp hn).1 (mem_named.mp hn).2]
  exact if_neg (by rw [Bool.not_eq_true]; exact none)

theorem writeCommit_refused (h : ∃ n < 12, s.Names v n ∧ s.commitRefused n = true) : s.writeCommit v = s.refuse := by
  obtain ⟨n, hn, names, refused⟩ := h
  exact if_pos (List.any_eq_true.mpr ⟨n, mem_named.mpr ⟨hn, names⟩, refused⟩)

/-- The states that arming leads to from `s`: the modulator keeps its axes, and the CMT buffers stay. -/
def Arming (s u : State) : Prop := Does Parts.armed s u ∧ u.mods.length = s.mods.length

theorem Arming.cmtBuffer {u : State} (h : Arming s u) (hn : n < 12) : u.cmtBuffer n = s.cmtBuffer n := h.1.cmtBuffer hn

theorem Arming.sys {u : State} (h : Arming s u) : u.sys = s.sys := h.1.same .sys

theorem Arming.arm {u : State} (h : Arming s u) (hn : n < u.mods.length) : Arming s (u.arm n) := by
  refine ⟨h.1.trans (State.arm_does u n), Eq.trans ?_ h.2⟩
  by_cases lists : u.sys.mode.lists = true
  · rw [arm_lists lists]
    exact armedWith_length
  · rw [arm_idle (Bool.eq_false_iff.mpr lists), cmtTransfer_length (armedWith_mod hn)]
    exact armedWith_length

theorem arm_keeps {u : State} {m : Nat} (hm : m < 12) (hn : n < u.mods.length) (ne : m ≠ n) :
    KeepsArmed m u (u.arm n) := by
  by_cases lists : u.sys.mode.lists = true
  · rw [arm_lists lists]
    exact armedWith_keeps ne
  · rw [arm_idle (Bool.eq_false_iff.mpr lists)]
    exact (armedWith_keeps ne).trans (cmtTransfer_keeps hm ne (armedWith_mod hn))

/-- An axis that no MOD_COMMIT names keeps its modulator as it is. -/
theorem commit_apart (hn : n < 12) (twelve : s.mods.length = 12) (out : ¬s.Names v n) :
    (s.each (s.named v) State.arm).mod n = s.mod n := by
  refine (each_kept (P := fun u => Arming s u ∧ u.mod n = s.mod n) (fun u m hm hu => ?_)
    (s := s) ⟨⟨.refl _ s, rfl⟩, rfl⟩).2
  have listed : m < u.mods.length := (mem_named.mp hm).1.trans_eq (twelve.symm.trans hu.1.2.symm)
  have ne : n ≠ m := fun e => out (e ▸ (mem_named.mp hm).2)
  exact ⟨hu.1.arm listed, (arm_keeps hn listed ne).mod.trans hu.2⟩

/-- What arming each named axis by itself establishes, arming them all establishes. -/
theorem commit_marks {Q : Cmt → Nat → State → Prop} (twelve : s.mods.length = 12)
    (mark : ∀ u n, Arming s u → n < 12 → n < u.mods.length → Q (s.cmtBuffer n) n (u.arm n))
    (kept : ∀ {c n u t}, Q c n u → KeepsArmed n u t → Q c n t) (hn : n < 12) (names : s.Names v n) :
    Q (s.cmtBuffer n) n (s.each (s.named v) State.arm) := by
  have listed {u : State} {m : Nat} (hu : Arming s u) (hm : m ∈ s.named v) : m < u.mods.length :=
    (mem_named.mp hm).1.trans_eq (twelve.symm.trans hu.2.symm)
  refine each_marks (P := Arming s) (Q := fun n u => n < 12 → Q (s.cmtBuffer n) n u)
    (fun u m hm hu => hu.arm (listed hu hm))
    (fun u m hm hu h12 => mark u m hu h12 (listed hu hm))
    (fun u m hm hu k ne h h12 => kept (h h12) (arm_keeps h12 (listed hu hm) ne)) ⟨.refl _ s, rfl⟩
    (.inl (mem_named.mpr ⟨hn, names⟩)) hn

theorem commit_arms (twelve : s.mods.length = 12) (lists : s.sys.mode.lists = true) (hn : n < 12)
    (names : s.Names v n) : Armed (s.cmtBuffer n) n (s.each (s.named v) State.arm) := by
  refine commit_marks twelve (fun u n hu h12 listed => ?_) Armed.kept hn names
  rw [arm_lists (hu.sys ▸ lists), hu.cmtBuffer h12]
  exact armedWith_armed h12 listed

theorem commit_transfers (twelve : s.mods.length = 12) (idle : s.sys.mode.lists = false) (hn : n < 12)
    (names : s.Names v n) : Transferred (s.cmtBuffer n) n (s.each (s.named v) State.arm) := by
  refine commit_marks twelve (fun u n hu h12 listed => ?_) Transferred.kept hn names
  rw [arm_idle (hu.sys ▸ idle), hu.cmtBuffer h12]
  exact cmtTransfer_shows h12 (armedWith_length.symm ▸ listed) (armedWith_mod listed)

end

end Sys2Proof.Machine

namespace Sys2Proof.Machine

set_option Elab.async false

/-! ### MOD_AXn_FORCE (R276, R283) -/

section
variable {s t : State} {n k : Nat}

/-- The value of MOD_AXn_FORCE, shown in MOD_STAT. -/
def State.forced (s : State) (n : Nat) (v : Word) : State :=
  let s := s.setWord (MOD_AX_FORCE n) (v &&& 0x1FF)
  s.put MOD_STAT.FORCE_ACTIVE ((List.range 12).any (fun j => s.flag (MOD_AX_FORCE.ACTIVE j))).toNat

theorem writeForce_refused {v : Word} (active : v.getLsbD 8 = true)
    (h : s.flag MOD_CTRL.FORCE_EN = false ∨ s.isSafe n = true) : s.writeForce n v = s.refuse :=
  if_pos (by rcases h with h | h <;> rw [active, h] <;> simp)

theorem writeForce_taken {v : Word} (enabled : s.flag MOD_CTRL.FORCE_EN = true) (free : s.isSafe n = false) :
    s.writeForce n v = (s.forced n v).driveChecked n := if_neg (by rw [enabled, free]; simp)

theorem forced_does (v : Word) : Does [.one MOD_STAT, .row MOD_AX_FORCE] s (s.forced n v) :=
  ((State.setWord_does s _ _ (Field.has_row MOD_AX_FORCE (fun _ => rfl) n)).weaken rfl).trans
    ((State.put_does _ MOD_STAT.FORCE_ACTIVE _ (Field.has_one MOD_STAT)).weaken rfl)

theorem forced_word (v : Word) : (s.forced n v).word (MOD_AX_FORCE n) = v &&& 0x1FF := by
  refine (State.word_put_other _ _ ?_).trans (State.word_setWord_same _ _ _)
  simp only [ MOD_AX_FORCE, MOD_STAT.FORCE_ACTIVE, MOD_STAT]
  omega

/-- In `s` FORCE drives axis `n` with the word `v`. -/
structure Forces (n : Nat) (v : Word) (s : State) : Prop where
  word : s.word (MOD_AX_FORCE n) = v
  free : s.isSafe n = false
  active : (MOD_AX_FORCE.ACTIVE n).of v = 1

theorem Forces.after {v : Word} {l : List Field} (h : Forces n v s) (does : Does l s t) (hn : n < 12)
    (force : ∀ n < 12, l.all (fun k => !k.covers (MOD_AX_FORCE n)) = true := by decide)
    (stat : ∀ n < 12, l.all (fun k => !k.covers (MOD_AX_STAT n)) = true := by decide) : Forces n v t :=
  ⟨(does.axisWord MOD_AX_FORCE hn force).trans h.word, (does.isSafe hn stat).trans h.free, h.active⟩

theorem Forces.flag {v : Word} (h : Forces n v s) : s.flag (MOD_AX_FORCE.ACTIVE n) = true := by
  unfold State.flag State.fld
  rw [show (MOD_AX_FORCE.ACTIVE n).addr = MOD_AX_FORCE n from rfl, h.word, h.active]
  rfl

/-- FORCE with ACTIVE alone asks for no switch. -/
theorem Forces.calm (h : Forces n 0x100 s) (k : Nat) : s.request n k ≠ (true, true) := by
  unfold State.request
  split
  · decide
  rw [if_neg (by simp [h.free]), if_pos h.flag]
  have none : s.fld (MOD_AX_FORCE.SW n) = 0 := (congrArg (MOD_AX_FORCE.SW n).of h.word).trans
    (by decide : (MOD_AX_FORCE.SW 0).of 0x100 = 0)
  unfold State.bitOf
  rw [none, Nat.zero_testBit]
  exact fun e => Bool.noConfusion (congrArg Prod.fst e)

theorem forced_forces {v : Word} (hn : n < 12) (free : s.isSafe n = false) (low : v &&& 0x1FF = v)
    (active : (MOD_AX_FORCE.ACTIVE n).of v = 1) : Forces n v (s.forced n v) :=
  ⟨(forced_word v).trans low, ((forced_does v).isSafe hn).trans free, active⟩

/-- FORCE_ACTIVE shows that some axis is forced. -/
theorem forced_shows {v : Word} (hn : n < 12) (low : v &&& 0x1FF = v) (active : (MOD_AX_FORCE.ACTIVE n).of v = 1) :
    (s.forced n v).flag MOD_STAT.FORCE_ACTIVE = true := by
  have fld : (s.setWord (MOD_AX_FORCE n) (v &&& 0x1FF)).fld (MOD_AX_FORCE.ACTIVE n) = 1 :=
    (State.fld_setWord_same s (MOD_AX_FORCE.ACTIVE n) (v &&& 0x1FF)).trans (low.symm ▸ active)
  have any : ((List.range 12).any fun j => (s.setWord (MOD_AX_FORCE n) (v &&& 0x1FF)).flag (MOD_AX_FORCE.ACTIVE j)) =
      true := List.any_eq_true.mpr ⟨n, List.mem_range.mpr hn, beq_iff_eq.mpr fld⟩
  unfold State.forced
  dsimp only
  rw [any]
  exact flag_put_one _ MOD_STAT.FORCE_ACTIVE

/-! #### A request of both switches -/

/-- Axis `n` stands in the tables with its four half-bridges. -/
def Tabled (n : Nat) (s : State) : Prop := n < s.mods.length ∧ (s.mod n).hbs.length = 4

theorem Tabled.ofMods (h : Tabled n s) (same : t.mods = s.mods) : Tabled n t := by
  refine ⟨same ▸ h.1, ?_⟩
  rw [mod_of_mods same]
  exact h.2

theorem Tabled.modHb (h : Tabled n s) (k : Nat) (f : HalfBridge → HalfBridge) : Tabled n (s.modHb n k f) := by
  refine ⟨(Tbl.length_mod _ _ _).symm ▸ h.1, ?_⟩
  unfold State.modHb
  rw [mod_modMod_same _ h.1]
  exact (Tbl.length_mod _ _ _).trans h.2

/-- A half-bridge of which both switches are asked for: both off, in conflict (R276). -/
def HalfBridge.clashed (h : HalfBridge) : HalfBridge :=
  { h with hi := false, lo := false, turnOn := none, conflict := true }

theorem HalfBridge.apply_clash (h : HalfBridge) (dt : Nat) : h.apply false dt (true, true) = h.clashed := rfl

/-- The parts that an interlock event short of the sixteenth changes, with the drive that starts it. -/
def Parts.struck : List Field := [.one MOD_ILOCK_CNT, .row PWR_AX_LIVE, .mods, .pwr]

theorem modHb_countEvent_does (s : State) (n k : Nat) : Does [.mods] s (s.modHb n k HalfBridge.countEvent) :=
  State.modHb_does s n k fun _ hs => HalfBridge.sound_of hs rfl rfl rfl

theorem interlock_few (few : ((s.modHb n k HalfBridge.countEvent).hb n k).events ≠ 16) : s.interlock n k =
    ((s.modHb n k HalfBridge.countEvent).bump MOD_ILOCK_CNT.EVENTS 1).put MOD_ILOCK_CNT.LAST_HB
      ((s.modHb n k HalfBridge.countEvent).hbCode n k) := if_neg few

/-- FORCE asks both switches of every half-bridge of axis `n` on. -/
structure Clashing (n : Nat) (s : State) : Prop where
  forces : Forces n 0x1FF s
  lists : s.sys.mode.lists = true
  volts : s.flag SYS_STAT.OV = false
  quiet : s.flag (PWR_AX_DIAG.BUSY n) = false

theorem Clashing.request (h : Clashing n s) (hk : k < 4) : s.request n k = (true, true) := by
  unfold State.request
  rw [if_neg (by simp [h.volts, h.lists, h.quiet]), if_neg (by simp [h.forces.free]), if_pos h.forces.flag]
  have bits : ∀ k < 4, ((MOD_AX_FORCE.SW 0).of 0x1FF).testBit (2 * k) = true ∧
      ((MOD_AX_FORCE.SW 0).of 0x1FF).testBit (2 * k + 1) = true := by decide
  obtain ⟨hi, lo⟩ := bits k hk
  have word : ∀ i, s.bitOf (MOD_AX_FORCE.SW n) i = ((MOD_AX_FORCE.SW 0).of 0x1FF).testBit i :=
    fun i => congrArg (fun w => ((MOD_AX_FORCE.SW n).of w).testBit i) h.forces.word
  rw [word, word, hi, lo]

theorem Clashing.after (h : Clashing n s) (does : Does Parts.struck s t) (hn : n < 12) : Clashing n t :=
  ⟨h.forces.after does hn, does.same .sys ▸ h.lists, (does.flag (f := SYS_STAT.OV) (by decide)).trans h.volts,
    (does.axisFlag PWR_AX_DIAG.BUSY hn).trans h.quiet⟩

/-- A half-bridge that the next request of both switches brings into conflict, short of the sixteenth event. -/
def Fresh (n k : Nat) (s : State) : Prop :=
  s.isolated n k = false ∧ (s.hb n k).conflict = false ∧ (s.hb n k).events < 15

theorem Fresh.after (h : Fresh n k s) (does : Does Parts.struck s t) (hn : n < 12) (same : t.hb n k = s.hb n k) :
    Fresh n k t := ⟨(does.isolated hn).trans h.1, same ▸ h.2⟩

/-- What one drive leaves of a half-bridge that is asked for both switches. -/
structure Strikes (n k : Nat) (s t : State) : Prop where
  does : Does Parts.struck s t
  tabled : Tabled n t
  others : ∀ j, j ≠ k → t.hb n j = s.hb n j
  here : t.hb n k = (s.hb n k).clashed.countEvent

theorem driveOne_strikes (h : Tabled n s) (hk : k < 4) (both : s.request n k = (true, true)) (fresh : Fresh n k s) :
    Strikes n k s (s.driveOne n k) := by
  obtain ⟨free, calm, few⟩ := fresh
  have drives := (State.driveHb_does s n k).weaken (l := Parts.struck) rfl
  have driven : (s.driveHb n k).hb n k = (s.hb n k).clashed := by
    rw [hb_driveHb_same s n k h.1 (h.2.symm ▸ hk), State.drivenHb, free, both]
    exact HalfBridge.apply_clash _ _
  have tabled : Tabled n (s.driveHb n k) :=
    (h.modHb k _).ofMods ((State.switchSourcesOff_does _ n k).same .mods)
  have counted : ((s.driveHb n k).modHb n k HalfBridge.countEvent).hb n k = (s.hb n k).clashed.countEvent := by
    rw [hb_modHb_same _ n k _ tabled.1 (tabled.2.symm ▸ hk), driven]
  have short : (((s.driveHb n k).modHb n k HalfBridge.countEvent).hb n k).events ≠ 16 := by
    rw [counted]
    exact fun e => absurd (Nat.succ.inj e) (Nat.ne_of_lt few)
  unfold State.driveOne
  rw [if_pos (by rw [driven, calm]; rfl), interlock_few short]
  constructor
  case does =>
    exact drives.trans (((modHb_countEvent_does _ n k).weaken rfl).trans ((interlockCounted_does _ n k).weaken rfl))
  case tabled => exact (tabled.modHb k _).ofMods rfl
  case others => exact fun j hj => (hb_modHb_other _ n k _ hj).trans (hb_driveHb_other s n k hj)
  case here => exact counted

/-- Half-bridges driven one after another: each is struck once, and the others stay. -/
theorem each_strikes {l : List Nat} (hn : n < 12) (clash : Clashing n s) (h : Tabled n s) (once : l.Nodup)
    (fresh : ∀ k ∈ l, k < 4 ∧ Fresh n k s) (k : Nat) : (s.each l fun s k => s.driveOne n k).hb n k =
      if k ∈ l then (s.hb n k).clashed.countEvent else s.hb n k := by
  induction l generalizing s with
  | nil => rfl
  | cons j l ih =>
    obtain ⟨out, once⟩ := List.nodup_cons.mp once
    obtain ⟨hj, new⟩ := fresh j List.mem_cons_self
    have strikes := driveOne_strikes h hj (clash.request hj) new
    have later : ∀ i ∈ l, i < 4 ∧ Fresh n i (s.driveOne n j) := fun i hi =>
      have hi' := fresh i (List.mem_cons_of_mem j hi)
      ⟨hi'.1, hi'.2.after strikes.does hn (strikes.others i fun e => out (e ▸ hi))⟩
    refine (ih (clash.after strikes.does hn) strikes.tabled once later).trans ?_
    by_cases e : k = j
    · subst e
      rw [if_neg out, if_pos List.mem_cons_self, strikes.here]
    · simp only [List.mem_cons, e, false_or, strikes.others k e]

theorem driveChecked_strikes (hn : n < 12) (clash : Clashing n s) (h : Tabled n s)
    (fresh : ∀ k < 4, Fresh n k s) (hk : k < 4) :
    (s.driveChecked n).hb n k = (s.hb n k).clashed.countEvent := by
  have four : ∀ k, k ∈ [0, 1, 2, 3] ↔ k < 4 := by
    intro k
    simp only [List.mem_cons, List.not_mem_nil, or_false]
    omega
  rw [driveChecked_eq, each_strikes hn clash h (by decide) (fun k hk => ⟨(four k).mp hk, fresh k ((four k).mp hk)⟩),
    if_pos ((four k).mpr hk)]

end
end Sys2Proof.Machine

namespace Sys2Proof.Machine

set_option Elab.async false

/-! ### Writes of the modulator as commands -/

/-- The parts that a MOD_COMMIT changes. -/
def Parts.modCommit : List Field :=
  [.one MOD_CMT_PEND, .row MOD_AX_STAT, .one MGT_LOG_STAT, .faults, .reel, .intg, .mgt, .can, .spi, .mods]

/-- The parts that a write of MOD_AXn_FORCE changes. -/
def Parts.modForce : List Field :=
  [.one MOD_STAT, .one MOD_ILOCK_CNT, .row MOD_AX_STAT, .row MOD_AX_FORCE, .row PWR_AX_LIVE, .one INT_AXCAUSE_LO,
    .one INT_AXCAUSE_HI, .one MGT_LOG_STAT, .faults, .reel, .intg, .mgt, .can, .spi, .mods, .modg, .pwr]

section
variable {s : State} {v : Word} {n : Fin 12}

/-! #### MOD_COMMIT -/

theorem modCommit_arms (h : s.hostOpen) (twelve : s.mods.length = 12) (lists : s.sys.mode.lists = true)
    (accepted : ∀ n < 12, s.Names v n → s.commitRefused n = false) : Runs (.modCommit v) s Parts.modCommit (fun t =>
      ∀ n < 12, if s.Names v n then Armed (s.cmtBuffer n) n t else t.mod n = s.mod n) := by
  refine runs_hostMeaning (execModCommit_does v s) h ?_
  rw [writeCommit_accepted accepted]
  intro n hn
  split
  case isTrue names =>
    obtain ⟨armed, pend⟩ := commit_arms twelve lists hn names
    exact ⟨armed, pend⟩
  case isFalse out => exact (mod_of_mods (State.mods_settle _) n).trans (commit_apart hn twelve out)

theorem Transferred.settle {c : Cmt} {n : Nat} (h : Transferred c n s) : Transferred c n s.settle :=
  ⟨h.armed, h.pend, h.act, h.clamp⟩

theorem modCommit_transfers (h : s.hostOpen) (twelve : s.mods.length = 12) (idle : s.sys.mode.lists = false)
    (accepted : ∀ n < 12, s.Names v n → s.commitRefused n = false) : Runs (.modCommit v) s Parts.modCommit (fun t =>
      ∀ n < 12, if s.Names v n then Transferred (s.cmtBuffer n) n t else t.mod n = s.mod n) := by
  refine runs_hostMeaning (execModCommit_does v s) h ?_
  rw [writeCommit_accepted accepted]
  intro n hn
  split
  case isTrue names => exact (commit_transfers twelve idle hn names).settle
  case isFalse out => exact (mod_of_mods (State.mods_settle _) n).trans (commit_apart hn twelve out)

theorem modCommit_refused (h : s.hostOpen) (refused : ∃ n < 12, s.Names v n ∧ s.commitRefused n = true) :
    Runs (.modCommit v) s Parts.modCommit (fun t => t.mods = s.mods ∧ t.spi.result = max s.spi.result 1) := by
  refine runs_hostMeaning (execModCommit_does v s) h ?_
  rw [writeCommit_refused refused]
  exact ⟨(State.mods_settle _).trans (State.mods_outcome s 1), rfl⟩

/-! #### MOD_FORCE -/

theorem modForce_refused (h : s.hostOpen) (axis : s.part.hasAxis n = true) (active : v.getLsbD 8 = true)
    (no : s.flag MOD_CTRL.FORCE_EN = false ∨ s.isSafe n = true) : Runs (.modForce n v) s Parts.modForce (fun t =>
      t.regs = s.regs ∧ t.spi.result = max s.spi.result 1 ∧ t.mods = s.mods ∧
        (∀ m < 12, m ≠ n.val → t.mod m = s.mod m)) := by
  refine hostAxis_runs (execModForce_does n v s) h axis ?_
  rw [writeForce_refused active no]
  exact ⟨rfl, rfl, rfl, fun _ _ _ => rfl⟩

theorem modForce_others (v : Word) (n : Nat) (s : State) : Beside n s ((s.forced n v).driveChecked n).settle :=
  ((forced_does v).beside.trans (driveChecked_beside _ n)).settle

theorem modForce_open (h : s.hostOpen) (axis : s.part.hasAxis n = true) (enabled : s.flag MOD_CTRL.FORCE_EN = true)
    (free : s.isSafe n = false) : Runs (.modForce n 0x100) s Parts.modForce (fun t =>
      t.word (MOD_AX_FORCE n) = 0x100 ∧ t.flag MOD_STAT.FORCE_ACTIVE = true ∧
        (∀ m < 12, m ≠ n.val → t.mod m = s.mod m)) := by
  refine hostAxis_runs (execModForce_does n 0x100 s) h axis ?_
  rw [writeForce_taken enabled free]
  have forces : Forces n 0x100 (s.forced n 0x100) := forced_forces n.isLt free (by decide) rfl
  have driven := driveChecked_calm fun u k (does : Does Parts.driven (s.forced n 0x100) u) =>
    (forces.after does n.isLt).calm k
  refine ⟨?_, ?_, fun m _ => modForce_others _ n s m⟩
  · rw [State.word_settle, driven.axisWord MOD_AX_FORCE n.isLt, forces.word]
  · rw [State.flag_settle, driven.flag (by decide)]
    exact forced_shows n.isLt (by decide) rfl

theorem modForce_clashes (h : s.hostOpen) (axis : s.part.hasAxis n = true) (lists : s.sys.mode.lists = true)
    (quiet : s.flag (PWR_AX_DIAG.BUSY n) = false) (enabled : s.flag MOD_CTRL.FORCE_EN = true)
    (free : s.isSafe n = false) (volts : s.flag SYS_STAT.OV = false) (tabled : Tabled n s)
    (fresh : ∀ k < 4, Fresh n k s) : Runs (.modForce n 0x1FF) s Parts.modForce (fun t =>
      (∀ k < 4, t.hb n k = (s.hb n k).clashed.countEvent) ∧ (∀ m < 12, m ≠ n.val → t.mod m = s.mod m)) := by
  refine hostAxis_runs (execModForce_does n 0x1FF s) h axis ?_
  rw [writeForce_taken enabled free]
  have shown := forced_does (s := s) (n := n) 0x1FF
  have mods := shown.same .mods
  have clash : Clashing n (s.forced n 0x1FF) :=
    ⟨forced_forces n.isLt free (by decide) rfl, shown.same .sys ▸ lists,
      (shown.flag (f := SYS_STAT.OV) (by decide)).trans volts, (shown.axisFlag PWR_AX_DIAG.BUSY n.isLt).trans quiet⟩
  refine ⟨fun k hk => ?_, fun m _ => modForce_others _ n s m⟩
  have still (k : Nat) : (s.forced n 0x1FF).hb n k = s.hb n k := hb_of_mods s n k mods
  have new : ∀ k < 4, Fresh n k (s.forced n 0x1FF) := fun k hk =>
    ⟨(shown.isolated n.isLt).trans (fresh k hk).1, still k ▸ (fresh k hk).2⟩
  calc ((s.forced n 0x1FF).driveChecked n).settle.hb n k
      = ((s.forced n 0x1FF).driveChecked n).hb n k := hb_of_mods _ n k (State.mods_settle _)
    _ = ((s.forced n 0x1FF).hb n k).clashed.countEvent :=
        driveChecked_strikes n.isLt clash (tabled.ofMods mods) new hk
    _ = (s.hb n k).clashed.countEvent := by rw [still]

end

/-! ### Obligation O29 -/

/-- Settles O29: a MOD_COMMIT axis by axis over the axes that it names, and MOD_FORCE half-bridge by half-bridge. -/
theorem modulatorWrites : Obligations.ModulatorWrites := by
  refine ⟨?arms, ?transfers, ?refused, ?opens, ?denied, ?clashes⟩
  case arms =>
    intro v s h twelve lists accepted
    refine (modCommit_arms h twelve lists accepted).mono fun t ht n hn => ?_
    have axis := ht n hn
    split at axis
    case isTrue names => exact (if_pos names).mpr ⟨axis.armed, axis.pend⟩
    case isFalse out => exact (if_neg out).mpr axis
  case transfers =>
    intro v s h twelve idle accepted
    refine (modCommit_transfers h twelve idle accepted).mono fun t ht => ⟨fun n hn => ?_, fun n hn names above => ?_⟩
    · have axis := ht n hn
      split at axis
      case isTrue names =>
        obtain ⟨armed, pend, act, -⟩ := axis
        rw [if_pos names, act]
        exact ⟨armed, pend, rfl, rfl, rfl, rfl, rfl, Cmt.clampCeil_toNat _ _, Cmt.clampCeil_toNat _ _⟩
      case isFalse out => rwa [if_neg out]
    · have axis := ht n hn
      rw [if_pos names] at axis
      exact axis.clamp ((Cmt.above_iff _).mpr above)
  case refused =>
    intro v s h refused
    exact modCommit_refused h refused
  case opens =>
    intro n s h axis enabled free _
    exact modForce_open h axis enabled free
  case denied =>
    intro n v s h axis active no
    exact modForce_refused h axis active no
  case clashes =>
    intro n s h axis lists quiet enabled free volts twelve four fresh
    refine (modForce_clashes h axis lists quiet enabled free volts ⟨n.isLt.trans_eq twelve.symm, four⟩ fresh).mono ?_
    rintro t ⟨struck, others⟩
    refine ⟨fun k hk => ?_, others⟩
    rw [struck k hk]
    exact ⟨rfl, rfl, rfl, rfl⟩

end Sys2Proof.Machine

namespace Sys2Proof.Machine

set_option Elab.async false

/-! ### Axes that a shutdown puts into their safe state (R278, R544) -/

/-- The parts that an axis changes on its way into its safe state, its OT bit and its drive included. -/
def Parts.shutDown : List Field :=
  [.one MOD_STAT, .row MOD_AX_STAT, .row PWR_AX_TRIP, .row PWR_AX_LIVE, .one INT_AXCAUSE_LO, .one INT_AXCAUSE_HI, .intg,
    .mods, .pwr]

section
variable {s : State} {n m c : Nat}

/-- A used axis is in its safe state when its switches are driven, so no interlock event arises. -/
theorem enterSafeDriven_does (hn : n < 12) (used : s.axisUsed n = true) :
    Does Parts.shutDown s ((s.enterSafe n c).driveChecked n) :=
  have safe := enterSafe_isSafe s c hn (.inr ⟨rfl, used⟩)
  ((State.enterSafe_does s n c).weaken rfl).trans ((driveChecked_safe _ hn safe).weaken rfl)

theorem enterSafeDriven_isSafe (hn : n < 12) (used : s.axisUsed n = true) (hm : m < 12)
    (h : s.isSafe m = true ∨ m = n) : ((s.enterSafe n c).driveChecked n).isSafe m = true := by
  have entered (m : Nat) (hm : m < 12) (h : s.isSafe m = true ∨ m = n) : (s.enterSafe n c).isSafe m = true :=
    enterSafe_isSafe s c hm (h.imp id fun e => ⟨e, used⟩)
  exact ((driveChecked_safe _ hn (entered n hn (.inr rfl))).isSafe hm).trans (entered m hm h)

/-- A shutdown of the axes `l`: `pre` marks each of them, then it enters its safe state. -/
theorem eachShutDown {pre : State → Nat → State} (marks : ∀ u n, Does [.row PWR_AX_TRIP] u (pre u n)) {l : List Nat}
    (used : ∀ n ∈ l, n < 12 ∧ s.axisUsed n = true) :
    Does Parts.shutDown s (s.each l fun u n => ((pre u n).enterSafe n c).driveChecked n) ∧
      ∀ n ∈ l, (s.each l fun u n => ((pre u n).enterSafe n c).driveChecked n).isSafe n = true := by
  have here {u : State} {n : Nat} (hn : n ∈ l) (hu : Does Parts.shutDown s u) :
      n < 12 ∧ (pre u n).axisUsed n = true :=
    ⟨(used n hn).1, (axisUsed_of_reel (((marks u n).same .reel).trans (hu.same .reel)) n).trans (used n hn).2⟩
  have kind (u : State) (n : Nat) (hn : n ∈ l) (hu : Does Parts.shutDown s u) :
      Does Parts.shutDown s (((pre u n).enterSafe n c).driveChecked n) := by
    obtain ⟨h12, uses⟩ := here hn hu
    exact (hu.trans ((marks u n).weaken rfl)).trans (enterSafeDriven_does h12 uses)
  refine ⟨each_kept kind (.refl _ s), fun n hn => ?_⟩
  refine each_marks (Q := fun n u => n < 12 → u.isSafe n = true) kind (fun u n hn hu h12 => ?_)
    (fun u n hn hu m _ safe h12 => ?_) (.refl _ s) (.inl hn) (used n hn).1
  · exact enterSafeDriven_isSafe h12 (here hn hu).2 h12 (.inr rfl)
  · obtain ⟨hn12, uses⟩ := here hn hu
    exact enterSafeDriven_isSafe hn12 uses h12 (.inl (((marks u n).isSafe h12).trans (safe h12)))

theorem mem_usedAxes : n ∈ s.usedAxes ↔ n < 12 ∧ s.axisUsed n = true := by
  unfold State.usedAxes
  rw [List.mem_filter, List.mem_range]

theorem mem_heavyAxes : n ∈ s.heavyAxes ↔ (n < 12 ∧ s.axisUsed n = true) ∧ heavy n = true := by
  unfold State.heavyAxes
  rw [List.mem_filter, mem_usedAxes]

/-! ### A cause of SAFE with its flag and its fault (R339, R345, R544) -/

/-- A flag of PWR_STAT changes, a fault of the power stage is raised, and a cause of SAFE arises. -/
def State.shutCause (s : State) (f : Fld) (v code bit : Nat) : State := ((s.put f v).raise code).safeCause bit

theorem shutCause_shows {f : Fld} {v code bit : Nat} (addr : f.addr = PWR_STAT)
    (block : code / 256 = 8 ∧ code % 256 ≤ 16 ∧ 1 ≤ code % 256) (hb : bit < 8) :
    (s.shutCause f v code bit).flag f = (s.put f v).flag f ∧ (s.shutCause f v code bit).raised code = true ∧
      (s.shutCause f v code bit).bitOf INT_SAFE_CAUSE.CAUSE bit = true ∧ (s.shutCause f v code bit).reel = s.reel := by
  obtain ⟨eight, fault⟩ := block
  have raises := State.raise_does (s.put f v) code 0
  have causes : Does _ _ (s.shutCause f v code bit) := State.safeCause_does ((s.put f v).raise code) bit
  refine ⟨?flag, ?raised, ?cause, ?reel⟩
  case flag => exact (causes.flag (by rw [addr]; decide)).trans (raises.flag (by rw [addr]; decide))
  case raised => exact (causes.raised (by rw [eight]; decide)).trans (raised_raise _ code 0 fault)
  case cause => exact bitOf_putBit_same _ INT_SAFE_CAUSE.CAUSE bit true ⟨hb, by decide⟩
  case reel => exact (causes.same .reel).trans (raise_reel (s.put f v) code 0 (by omega))

theorem otShut_shuts (hp : s.powered = true) (out : s.flag PWR_STAT.OT_SHUT = false) :
    Runs .otShut s Parts.otShut (fun t => t.flag PWR_STAT.OT_SHUT = true ∧ t.raised 0x080C = true ∧
      t.bitOf INT_SAFE_CAUSE.CAUSE 5 = true ∧ (∀ n < 12, s.axisUsed n = true → t.isSafe n = true)) := by
  refine runs_meaning (execOtShut_does s) hp ?_
  rw [if_neg (by simp [out])]
  obtain ⟨flag, raised, cause, reel⟩ :=
    shutCause_shows (s := s) (f := PWR_STAT.OT_SHUT) (v := 1) (code := 0x080C) (bit := 5) rfl (by decide) (by decide)
  obtain ⟨does, safe⟩ := eachShutDown (s := s.shutCause PWR_STAT.OT_SHUT 1 0x080C 5) (c := 6)
    (fun u n => State.put_does u (PWR_AX_TRIP.OT n) 1 (Field.has_row PWR_AX_TRIP (fun _ => rfl) n))
    (fun n hn => mem_usedAxes.mp hn)
  refine ⟨?_, does.raised.trans raised, (does.bitOf 5).trans cause, fun n hn used => ?_⟩
  · exact (does.flag (by decide)).trans (flag.trans (flag_put_one s PWR_STAT.OT_SHUT))
  · exact safe n (mem_usedAxes.mpr ⟨hn, (axisUsed_of_reel reel n).trans used⟩)

theorem supplyGate_shuts (hp : s.powered = true) :
    Runs .supplyGate s Parts.supplyGate (fun t => t.flag PWR_STAT.VGL_OK = false ∧ t.raised 0x080E = true ∧
      t.bitOf INT_SAFE_CAUSE.CAUSE 6 = true ∧
      (∀ n < 12, s.axisUsed n = true → heavy n = true → t.isSafe n = true)) := by
  refine runs_meaning (execSupplyGate_does s) hp ?_
  obtain ⟨flag, raised, cause, reel⟩ :=
    shutCause_shows (s := s) (f := PWR_STAT.VGL_OK) (v := 0) (code := 0x080E) (bit := 6) rfl (by decide) (by decide)
  obtain ⟨does, safe⟩ := eachShutDown (s := s.shutCause PWR_STAT.VGL_OK 0 0x080E 6) (c := 7) (pre := fun u _ => u)
    (fun u _ => .refl _ u) (fun n hn => (mem_heavyAxes.mp hn).1)
  refine ⟨?_, does.raised.trans raised, (does.bitOf 6).trans cause, fun n hn used strong => ?_⟩
  · exact (does.flag (by decide)).trans (flag.trans (flag_put_zero s PWR_STAT.VGL_OK))
  · exact safe n (mem_heavyAxes.mpr ⟨⟨hn, (axisUsed_of_reel reel n).trans used⟩, strong⟩)

/-! ### The ends of these causes (R339, R544) -/

/-- The parts that the end of a shutdown changes. -/
def Parts.shutReleased : List Field :=
  [.one MOD_STAT, .one MOD_ILOCK_CNT, .row MOD_AX_STAT, .row MOD_AX_FORCE, .one PWR_STAT, .row PWR_AX_LIVE,
    .one INT_SAFE_CAUSE, .one INT_AXCAUSE_LO, .one INT_AXCAUSE_HI, .one MGT_LOG_STAT, .faults, .reel, .intg, .mgt, .can,
    .mods, .modg, .pwr]

/-- A cause of SAFE that has ended stays so, and a flag of PWR_STAT as it is, while the axes `l` are driven again. -/
theorem safeCauseEnd_driven (s : State) {bit : Nat} (hb : bit < 8) (l : List Nat) (f : Fld) (addr : f.addr = PWR_STAT) :
    let t := (s.safeCauseEnd bit).each l fun s n => s.driveChecked n
    t.flag f = s.flag f ∧ t.bitOf INT_SAFE_CAUSE.CAUSE bit = false := by
  intro t
  have ends := State.safeCauseEnd_does s bit
  have drives := State.each_does (m := l) (fun u n => State.driveChecked_does u n) (.refl _ (s.safeCauseEnd bit))
  constructor
  · exact (drives.flag (by rw [addr]; decide)).trans (ends.flag (by rw [addr]; decide))
  · exact (drives.bitOf bit).trans (bitOf_putBit_same s INT_SAFE_CAUSE.CAUSE bit false ⟨hb, by decide⟩)

theorem otShutRelease_ends (hp : s.powered = true) (shut : s.flag PWR_STAT.OT_SHUT = true) :
    Runs .otShutRelease s Parts.shutReleased (fun t =>
      t.flag PWR_STAT.OT_SHUT = false ∧ t.bitOf INT_SAFE_CAUSE.CAUSE 5 = false) := by
  refine runs_meaning (execOtShutRelease_does s) hp ?_
  rw [if_neg (by simp [shut])]
  obtain ⟨flag, cause⟩ := safeCauseEnd_driven ((s.put PWR_STAT.OT_SHUT 0).cooledSince s) (bit := 5) (by decide)
    s.usedAxes PWR_STAT.OT_SHUT rfl
  have cooled := State.cooledSince_does (s.put PWR_STAT.OT_SHUT 0) s
  exact ⟨flag.trans ((cooled.flag (by decide)).trans (flag_put_zero s PWR_STAT.OT_SHUT)), cause⟩

theorem supplyGateRelease_ends (hp : s.powered = true) :
    Runs .supplyGateRelease s Parts.shutReleased (fun t =>
      t.flag PWR_STAT.VGL_OK = true ∧ t.bitOf INT_SAFE_CAUSE.CAUSE 6 = false) := by
  refine runs_meaning (execSupplyGateRelease_does s) hp ?_
  obtain ⟨flag, cause⟩ := safeCauseEnd_driven (s.put PWR_STAT.VGL_OK 1) (bit := 6) (by decide)
    s.heavyAxes PWR_STAT.VGL_OK rfl
  exact ⟨flag.trans (flag_put_one s PWR_STAT.VGL_OK), cause⟩

/-! ### The charge pump and the gate supply (R317, R344) -/

theorem chargePumpReady_shows (hp : s.powered = true) (mode : s.sys.mode ≠ .standby) :
    Runs .chargePumpReady s [.one PWR_STAT, .intg] (fun t => t.flag PWR_STAT.VCP_OK = true) := by
  refine runs_meaning (execChargePumpReady_does s) hp ?_
  rw [if_pos (by simp [mode])]
  exact flag_put_one s PWR_STAT.VCP_OK

theorem mode_ne_off (hp : s.powered = true) : s.sys.mode ≠ .off := by
  intro off
  simp [State.powered, off] at hp

theorem highVoltage_shows (hp : s.powered = true) (high : Bool) :
    (s.highVoltage high).settle.flag PWR_STAT.HV = high := by
  have on : ({ s with sys := { s.sys with hvRow := high } } : State).powered = true := hp
  rw [State.flag_settle, State.highVoltage, State.gateHigh, on]
  exact flag_put_toNat _ PWR_STAT.HV high

theorem hv_shows (hp : s.powered = true) :
    Runs .hv s [.one PWR_STAT, .sys, .intg] (fun t => t.flag PWR_STAT.HV = true) :=
  runs_done (if_neg (mode_ne_off hp)) (execHv_does s) (highVoltage_shows hp true)

theorem hvRelease_shows (hp : s.powered = true) :
    Runs .hvRelease s [.one PWR_STAT, .sys, .intg] (fun t => t.flag PWR_STAT.HV = false) :=
  runs_done (if_neg (mode_ne_off hp)) (execHvRelease_does s) (highVoltage_shows hp false)

end

/-! ### Obligation O32 -/

/-- Settles O32: a shutdown by its cause and by the axes that it takes into their safe state, one after the other, and
its end by the flag and the cause alone; the supplies by their bit of PWR_STAT. -/
theorem supplyAndThermalShutdown : Obligations.SupplyAndThermalShutdown :=
  ⟨fun _ => otShut_shuts, fun _ => otShutRelease_ends, fun _ => supplyGate_shuts, fun _ => supplyGateRelease_ends,
    fun _ => chargePumpReady_shows, fun _ => hv_shows, fun _ => hvRelease_shows⟩

end Sys2Proof.Machine

namespace Sys2Proof.Machine

set_option Elab.async false

/-! ### What driving the switches of an axis leaves alone -/

section
variable {s : State} {n : Nat}

theorem modHb_phase (s : State) (n k : Nat) (f : HalfBridge → HalfBridge) (b : Bool) :
    ((s.modHb n k f).mod n).phase b = (s.mod n).phase b :=
  Tbl.get_mod_field (f := fun m => { m with hbs := Tbl.mod m.hbs k f }) (fun m => m.phase b) s.mods n (fun _ => rfl) n

theorem Does.phase {l : List Field} {t : State} (h : Does l s t) (b : Bool) (hl : .mods ∉ l := by decide) :
    (t.mod n).phase b = (s.mod n).phase b := congrArg (fun m => m.phase b) (mod_of_mods (h.same .mods hl) n)

theorem driveHb_phase (s : State) (n k : Nat) (b : Bool) : ((s.driveHb n k).mod n).phase b = (s.mod n).phase b :=
  ((State.switchSourcesOff_does _ n k).phase b).trans (modHb_phase s n k _ b)

theorem drive_phase (s : State) (n : Nat) (b : Bool) : ((s.drive n).mod n).phase b = (s.mod n).phase b := by
  unfold State.drive
  exact each_pres (fun s => (s.mod n).phase b) (fun s k => driveHb_phase s n k b) s _

theorem enterSafe_phase (s : State) (n c : Nat) (b : Bool) :
    ((s.enterSafe n c).mod n).phase b = (s.mod n).phase b := by
  obtain ⟨u, shown, e | e⟩ := enterSafe_cases s n c <;> rw [e]
  · exact shown.phase b
  · exact (drive_phase u n b).trans (shown.phase b)

theorem interlock_phase (s : State) (n k : Nat) (b : Bool) :
    ((s.interlock n k).mod n).phase b = (s.mod n).phase b := by
  obtain ⟨u, counted, e | e⟩ := interlock_cases s n k <;> rw [e]
  · exact (counted.phase b).trans (modHb_phase s n k _ b)
  · exact (enterSafe_phase u n 2 b).trans ((counted.phase b).trans (modHb_phase s n k _ b))

theorem driveChecked_phase (s : State) (n : Nat) (b : Bool) :
    ((s.driveChecked n).mod n).phase b = (s.mod n).phase b := by
  rw [driveChecked_eq]
  refine each_pres (fun s => (s.mod n).phase b) (fun s k => ?_) s _
  unfold State.driveOne
  split
  · exact (interlock_phase _ n k b).trans (driveHb_phase s n k b)
  · exact driveHb_phase s n k b

theorem drive_selfTest (s : State) (n : Nat) : (s.drive n).pwr.selfTest = s.pwr.selfTest := by
  unfold State.drive
  refine each_pres (fun s => s.pwr.selfTest) (fun s k => ?_) s _
  unfold State.driveHb State.switchSourcesOff
  exact each_pres (f := fun s c => s.sourceOff n (4 * k + c)) (fun s => s.pwr.selfTest) (fun _ _ => rfl) _ _

theorem enterSafe_selfTest (s : State) (n c : Nat) : (s.enterSafe n c).pwr.selfTest = s.pwr.selfTest := by
  obtain ⟨u, shown, e | e⟩ := enterSafe_cases s n c <;> rw [e]
  · exact congrArg Pwr.selfTest (shown.same .pwr)
  · exact (drive_selfTest u n).trans (congrArg Pwr.selfTest (shown.same .pwr))

/-- What leaves PWR_FAULT alone leaves the faults of the power stage. -/
theorem Does.powerRaised {l : List Field} {t : State} (h : Does l s t) {c a : Nat} (block : c / 256 = 8)
    (hl : l.all (fun k => !k.covers PWR_FAULT) = true := by decide) : t.raised c a = s.raised c a :=
  h.raised (by rw [block]; exact hl)

/-- An interlock event raises its own fault and clears none of the power stage. -/
theorem interlock_powerRaised {c a : Nat} (block : c / 256 = 8) (k : Nat) (h : s.raised c a = true) :
    (s.interlock n k).raised c a = true := by
  have counted := ((interlockCounted_does (s.modHb n k HalfBridge.countEvent) n k).powerRaised block).trans h
  have unforced (u : State) : (u.put (MOD_AX_FORCE.ACTIVE n) 0).raised c a = u.raised c a :=
    (State.put_does u _ 0 (Field.has_row MOD_AX_FORCE (fun _ => rfl) n)).powerRaised block
  have shown (u : State) (v : Nat) : (u.put MOD_STAT.FORCE_ACTIVE v).raised c a = u.raised c a :=
    (State.put_does u _ v (Field.has_one MOD_STAT)).powerRaised block
  unfold State.interlock
  dsimp only
  split
  · refine ((State.enterSafe_does _ n 2).powerRaised block).trans ?_
    refine (shown _ _).trans ((unforced _).trans ?_)
    exact State.raised_of_raise _ 0x0708 0 counted
  · exact counted

theorem driveChecked_powerRaised {c a : Nat} (block : c / 256 = 8) (h : s.raised c a = true) :
    (s.driveChecked n).raised c a = true := by
  rw [driveChecked_eq]
  refine each_kept (P := fun u => u.raised c a = true) (fun u k _ hu => ?_) h
  have driven := ((State.driveHb_does u n k).powerRaised block).trans hu
  unfold State.driveOne
  split
  · exact interlock_powerRaised block k driven
  · exact driven

/-- In the safe state a drive of the switches changes no more than they show. -/
theorem driveIfSafe_does {b : Bool} (hn : n < 12) (safe : b = true → s.isSafe n = true) :
    Does Parts.driven s (s.when b fun s => s.driveChecked n) := by
  cases b with
  | false => rw [when_false]; exact .refl _ s
  | true => rw [when_true]; exact driveChecked_safe s hn (safe rfl)

theorem driveIfSafe_phase (s : State) (n : Nat) (b c : Bool) :
    ((s.when b fun s => s.driveChecked n).mod n).phase c = (s.mod n).phase c := by
  cases b with
  | false => rfl
  | true => rw [when_true]; exact driveChecked_phase s n c

theorem Beside.when {f : State → State} (s : State) (b : Bool) (h : Beside n s (f s)) : Beside n s (s.when b f) := by
  cases b with
  | false => exact .refl n s
  | true => exact h

end

end Sys2Proof.Machine

namespace Sys2Proof.Machine

set_option Elab.async false

/-! ### Bootstrap undervoltage (R321, R323) -/

/-- The parts that an undervoltage of a bootstrap capacitor and its end change. -/
def Parts.bstUv : List Field :=
  [.one MOD_STAT, .one MOD_ILOCK_CNT, .row MOD_AX_STAT, .row MOD_AX_FORCE, .row PWR_AX_LIVE, .row PWR_AX_STAT,
    .one INT_AXCAUSE_LO, .one INT_AXCAUSE_HI, .one MGT_LOG_STAT, .faults, .reel, .intg, .mgt, .can, .mods, .modg, .pwr]

section
variable {s : State} {n : Fin 12} {k : Fin 4}

theorem bstUvBit (s : State) (n : Nat) (k : Fin 4) (b : Bool) :
    (s.putBit (PWR_AX_STAT.BST_UV n) k b).bitOf (PWR_AX_STAT.BST_UV n) k = b :=
  bitOf_putBit_same s (PWR_AX_STAT.BST_UV n) k b ⟨k.isLt, (by decide : 0 + 4 ≤ 32)⟩

theorem bstUvBit_does (s : State) (n k : Nat) (b : Bool) :
    Does [.row PWR_AX_STAT] s (s.putBit (PWR_AX_STAT.BST_UV n) k b) :=
  State.putBit_does s _ k b (Field.has_row PWR_AX_STAT (fun _ => rfl) n)

/-- The carrier starts of a phase count from the first undervoltage of the phase (R322). -/
def State.periodsFrom (s : State) (n : Nat) (b : Bool) : State :=
  s.when (!s.phaseUv n b) fun s => s.modPhase n b fun p => { p with uvPeriods := 0 }

theorem periodsFrom_beside (s : State) (n : Nat) (b : Bool) : Beside n s (s.periodsFrom n b) :=
  .when s _ (.modMod s n _)

/-- An undervoltage shows and is raised, and where the axis is in its safe state its switches follow (R321, R333). -/
def State.uvShown (s : State) (n k : Nat) : State :=
  ((s.putBit (PWR_AX_STAT.BST_UV n) k true).raise 0x0805 n).when (s.isSafe n) fun s => s.driveChecked n

theorem uvShown_shows (s : State) (n : Fin 12) (k : Fin 4) :
    (s.uvShown n k).bitOf (PWR_AX_STAT.BST_UV n) k = true ∧ (s.uvShown n k).raised 0x0805 n = true ∧
      Beside n s (s.uvShown n k) := by
  have marks := bstUvBit_does s n k true
  have raises := State.raise_does (s.putBit (PWR_AX_STAT.BST_UV n) k true) 0x0805 n
  have drives : Does Parts.driven _ (s.uvShown n k) := driveIfSafe_does n.isLt fun safe =>
    (raises.isSafe n.isLt).trans ((marks.isSafe n.isLt).trans safe)
  refine ⟨?bit, ?raised, ?others⟩
  case bit =>
    exact (drives.axisBit PWR_AX_STAT.BST_UV n.isLt k).trans
      ((raises.axisBit PWR_AX_STAT.BST_UV n.isLt k).trans (bstUvBit s n k true))
  case raised => exact (drives.powerRaised rfl).trans (raised_raise _ 0x0805 n (by decide))
  case others => exact marks.beside.trans (raises.beside.trans (.when _ _ (driveChecked_beside _ n)))

theorem bstUvAssert_raises (hp : s.powered = true) (used : s.axisUsed n = true) (strong : heavy n = true)
    (first : s.bitOf (PWR_AX_STAT.BST_UV n) k = false) :
    Runs (.bstUvAssert n k) s Parts.bstUv (fun t => t.bitOf (PWR_AX_STAT.BST_UV n) k = true ∧
      t.raised 0x0805 n = true ∧ (∀ m < 12, m ≠ n.val → t.mod m = s.mod m)) := by
  refine runs_meaning (execBstUvAssert_does n k s) hp ?_
  rw [if_neg (by simp [used, strong, first])]
  have counts := periodsFrom_beside s n (2 ≤ k.val)
  obtain ⟨bit, raised, others⟩ := uvShown_shows (s.periodsFrom n (2 ≤ k.val)) n k
  exact ⟨bit, raised, fun m _ => (counts.trans others).settle m⟩

theorem modPhase_phase (m : ModAx) (b : Bool) (f : Phase → Phase) : (m.modPhase b f).phase b = f (m.phase b) := by
  cases b <;> rfl

theorem showRefreshes_bstUv (s : State) (n k : Nat) :
    (s.showRefreshes n).bitOf (PWR_AX_STAT.BST_UV n) k = s.bitOf (PWR_AX_STAT.BST_UV n) k :=
  bitOf_put_ne s (PWR_AX_STAT.REF_CNT n) _ _ k (.inr (.inl (by decide : 0 + 4 ≤ 8)))

/-- The consecutive refresh periods of a phase return to 0 and show, and where the axis is in its safe state its
switches follow (R323, R333). -/
def State.refreshesEnd (s : State) (n : Nat) (b : Bool) : State :=
  let s := s.modPhase n b fun p => { p with refreshes := 0 }
  (s.showRefreshes n).when (s.isSafe n) fun s => s.driveChecked n

theorem refreshesEnd_shows (s : State) (n : Fin 12) (k : Nat) (b : Bool) (h : n < s.mods.length) :
    (s.refreshesEnd n b).bitOf (PWR_AX_STAT.BST_UV n) k = s.bitOf (PWR_AX_STAT.BST_UV n) k ∧
      (((s.refreshesEnd n b).mod n).phase b).refreshes = 0 ∧ Beside n s (s.refreshesEnd n b) := by
  unfold State.refreshesEnd
  generalize hu : s.modPhase n b (fun p => { p with refreshes := 0 }) = u
  dsimp only
  have ends : Does [.mods] s u := hu ▸ State.modPhase_does s n b _
  have shows := State.showRefreshes_does u n
  have drives : Does Parts.driven _ ((u.showRefreshes n).when (u.isSafe n) fun s => s.driveChecked n) :=
    driveIfSafe_does n.isLt fun safe => (shows.isSafe n.isLt).trans safe
  refine ⟨?bit, ?count, ?others⟩
  case bit =>
    exact (drives.axisBit PWR_AX_STAT.BST_UV n.isLt k).trans
      ((showRefreshes_bstUv u n k).trans (ends.axisBit PWR_AX_STAT.BST_UV n.isLt k))
  case count =>
    have ended : ((u.mod n).phase b).refreshes = 0 := by
      rw [← hu, State.modPhase, mod_modMod_same _ h, modPhase_phase]
    rw [driveIfSafe_phase, shows.phase b]
    exact ended
  case others =>
    have here : Beside n s u := hu ▸ Beside.modMod s n _
    exact here.trans (shows.beside.trans (.when _ _ (driveChecked_beside _ n)))

theorem bstUvRelease_ends (hp : s.powered = true) (twelve : s.mods.length = 12)
    (low : s.bitOf (PWR_AX_STAT.BST_UV n) k = true) :
    Runs (.bstUvRelease n k) s Parts.bstUv (fun t => t.bitOf (PWR_AX_STAT.BST_UV n) k = false ∧
      ((t.mod n).phase (2 ≤ k.val)).refreshes = 0 ∧ (∀ m < 12, m ≠ n.val → t.mod m = s.mod m)) := by
  refine runs_meaning (execBstUvRelease_does n k s) hp ?_
  rw [if_neg (by simp [low])]
  have marks := bstUvBit_does s n k false
  have quiet := State.sourceOff_does (s.putBit (PWR_AX_STAT.BST_UV n) k false) n (4 * k + 3)
  obtain ⟨bit, count, others⟩ := refreshesEnd_shows
    ((s.putBit (PWR_AX_STAT.BST_UV n) k false).sourceOff n (4 * k + 3)) n k (2 ≤ k.val) (n.isLt.trans_eq twelve.symm)
  refine ⟨bit.trans ?_, count, fun m _ => (marks.beside.trans (quiet.beside.trans others)).settle m⟩
  exact (quiet.axisBit PWR_AX_STAT.BST_UV n.isLt k).trans (bstUvBit s n k false)

end

/-! ### Off-state diagnosis (R335) -/

section
variable {s : State} {n : Fin 12}

/-- BUSY and the classes of the two phases, as PWR_AXn_DIAG shows them. -/
def State.diagShown (s : State) (n busy a b : Nat) : State :=
  ((s.put (PWR_AX_DIAG.BUSY n) busy).put (PWR_AX_DIAG.RESULT_A n) a).put (PWR_AX_DIAG.RESULT_B n) b

theorem diagShown_does (s : State) (n busy a b : Nat) : Does [.row PWR_AX_DIAG] s (s.diagShown n busy a b) :=
  have put (u : State) (f : Fld) (v : Nat) (hf : f.addr = PWR_AX_DIAG n) : Does [.row PWR_AX_DIAG] u (u.put f v) :=
    State.put_does u f v (hf ▸ Field.has_row PWR_AX_DIAG (fun _ => rfl) n)
  ((put s _ busy rfl).trans (put _ _ a rfl)).trans (put _ _ b rfl)

theorem diagShown_busy (s : State) (n busy a b : Nat) :
    (s.diagShown n busy a b).flag (PWR_AX_DIAG.BUSY n) = (s.put (PWR_AX_DIAG.BUSY n) busy).flag (PWR_AX_DIAG.BUSY n) :=
  (flag_put_ne _ (PWR_AX_DIAG.RESULT_B n) (PWR_AX_DIAG.BUSY n) b (.inr (.inl (by decide : 1 + 1 ≤ 8)))).trans
    (flag_put_ne _ (PWR_AX_DIAG.RESULT_A n) (PWR_AX_DIAG.BUSY n) a (.inr (.inl (by decide : 1 + 1 ≤ 4))))

theorem diagShown_first (s : State) (n busy b : Nat) {a : Nat} (ha : a < 8) :
    (s.diagShown n busy a b).fld (PWR_AX_DIAG.RESULT_A n) = a := by
  have apart : 4 + 3 ≤ 8 := by decide
  refine (fld_put_ne _ (PWR_AX_DIAG.RESULT_B n) (PWR_AX_DIAG.RESULT_A n) b (.inr (.inl apart))).trans ?_
  exact (fld_put_same' _ (PWR_AX_DIAG.RESULT_A n) a (by decide : 4 + 3 ≤ 32)).trans (Nat.mod_eq_of_lt ha)

theorem diagShown_second (s : State) (n busy a : Nat) {b : Nat} (hb : b < 8) :
    (s.diagShown n busy a b).fld (PWR_AX_DIAG.RESULT_B n) = b :=
  (fld_put_same' _ (PWR_AX_DIAG.RESULT_B n) b (by decide : 8 + 3 ≤ 32)).trans (Nat.mod_eq_of_lt hb)

theorem diagStart_runs (h : s.hostOpen) (axis : s.part.hasAxis n = true) (opened : s.phasesOpen n = true)
    (joined : s.fld (PWR_AX_STAT.ISOL n) = 0) (volts : s.flag PWR_STAT.LV = false)
    (idle : s.flag (PWR_AX_DIAG.BUSY n) = false) (free : s.pwr.selfTest.contains n.val = false) :
    Runs (.diagStart n) s [.row PWR_AX_DIAG, .intg, .spi] (fun t => t.flag (PWR_AX_DIAG.BUSY n) = true) := by
  refine hostAxis_runs (execDiagStart_does n s) h axis ?_
  have starts : s.diagStart n = s.diagShown n 1 0 0 := if_neg (by rw [opened, joined, volts, idle, free]; decide)
  rw [starts, State.flag_settle]
  exact (diagShown_busy s n 1 0 0).trans (flag_put_one s (PWR_AX_DIAG.BUSY n) ⟨rfl, (by decide : 1 + 1 ≤ 32)⟩)

theorem diagClass_lt (p m : Nat) : diagClass p m < 8 := by
  unfold diagClass
  split_ifs <;> decide

/-- The end of a diagnosis with the classes `a` and `b`: any but 1 is raised, and the switches are driven again. -/
def State.classified (s : State) (n a b : Nat) : State :=
  ((s.diagShown n 0 a b).when (a != 1 || b != 1) fun s => s.raise 0x0808 n).driveChecked n

/-- From `s` to `t` a diagnosis of axis `n` ends with the classes `a` and `b`. -/
structure Classified (n a b : Nat) (s t : State) : Prop where
  busy : t.flag (PWR_AX_DIAG.BUSY n) = false
  first : t.fld (PWR_AX_DIAG.RESULT_A n) = a
  second : t.fld (PWR_AX_DIAG.RESULT_B n) = b
  raised : a ≠ 1 ∨ b ≠ 1 → t.raised 0x0808 n = true
  others : Beside n s t

theorem Classified.settle {n a b : Nat} {s t : State} (h : Classified n a b s t) : Classified n a b s t.settle :=
  ⟨h.busy, h.first, h.second, h.raised, h.others.settle⟩

theorem classified_shows (s : State) (n : Fin 12) {a b : Nat} (ha : a < 8) (hb : b < 8) :
    Classified n a b s (s.classified n a b) := by
  have ends := diagShown_does s n 0 a b
  have tells := when_does_self (b := a != 1 || b != 1) (fun u => State.raise_does u 0x0808 n) (s.diagShown n 0 a b)
  have drives : Does _ _ (s.classified n a b) :=
    State.driveChecked_does ((s.diagShown n 0 a b).when (a != 1 || b != 1) fun s => s.raise 0x0808 n) n
  constructor
  case busy =>
    refine (drives.axisFlag PWR_AX_DIAG.BUSY n.isLt).trans ((tells.axisFlag PWR_AX_DIAG.BUSY n.isLt).trans ?_)
    exact (diagShown_busy s n 0 a b).trans (flag_put_zero s (PWR_AX_DIAG.BUSY n) (by decide : 1 + 1 ≤ 32))
  case first =>
    exact (drives.axisFld PWR_AX_DIAG.RESULT_A n.isLt).trans
      ((tells.axisFld PWR_AX_DIAG.RESULT_A n.isLt).trans (diagShown_first s n 0 b ha))
  case second =>
    exact (drives.axisFld PWR_AX_DIAG.RESULT_B n.isLt).trans
      ((tells.axisFld PWR_AX_DIAG.RESULT_B n.isLt).trans (diagShown_second s n 0 a hb))
  case raised =>
    intro bad
    have told : (a != 1 || b != 1) = true := by simpa using bad
    unfold State.classified
    rw [told]
    exact driveChecked_powerRaised rfl (raised_raise _ 0x0808 n (by decide))
  case others => exact ends.beside.trans (tells.beside.trans (driveChecked_beside _ n))

theorem diagDone_classifies {v : DiagVolts} (hp : s.powered = true) (busy : s.flag (PWR_AX_DIAG.BUSY n) = true) :
    Runs (.diagDone n v) s [.one MOD_STAT, .one MOD_ILOCK_CNT, .row MOD_AX_STAT, .row MOD_AX_FORCE, .row PWR_AX_LIVE,
      .row PWR_AX_DIAG, .one INT_AXCAUSE_LO, .one INT_AXCAUSE_HI, .one MGT_LOG_STAT, .faults, .reel, .intg, .mgt, .can,
      .mods, .modg, .pwr] (Classified n (diagClass v.aPlus v.aMinus) (diagClass v.bPlus v.bMinus) s) := by
  have meaning : execDiagDone n v s = whenPowered s fun s => if !s.flag (PWR_AX_DIAG.BUSY n) then s
    else s.classified n (diagClass v.aPlus v.aMinus) (diagClass v.bPlus v.bMinus) := rfl
  refine runs_meaning (execDiagDone_does n v s) hp ?_ rfl meaning
  rw [if_neg (by simp [busy])]
  exact (classified_shows s n (diagClass_lt _ _) (diagClass_lt _ _)).settle

end

/-! ### Self-test of the comparators (R336, R337) -/

section
variable {s : State}

/-- The axes that a self-test names, in the order in which they are tested. -/
def testedAxes (sel : BitVec 12) : List Nat := (List.range 12).filter fun n => inMask sel n

theorem mem_testedAxes {sel : BitVec 12} {n : Nat} : n ∈ testedAxes sel ↔ n < 12 ∧ sel.getLsbD n = true := by
  unfold testedAxes inMask
  rw [List.mem_filter, List.mem_range]

/-- A self-test of the axes that `sel` names begins (R336). -/
def State.testing (s : State) (sel : BitVec 12) : State :=
  let s := s.put PWR_ST_CTRL.SEL sel.toNat
  let s := (((s.put PWR_ST_RESULT.FAILED 0).put PWR_ST_RESULT.CMP 0).put PWR_ST_RESULT.AXIS 0)
  let s := s.put PWR_ST_RESULT.BUSY (!(testedAxes sel).isEmpty).toNat
  { s with pwr := { s.pwr with selfTest := testedAxes sel } }

theorem testing_busy (s : State) (sel : BitVec 12) :
    (s.testing sel).flag PWR_ST_RESULT.BUSY = !(testedAxes sel).isEmpty :=
  ((Does.pwr _ _).flag (by decide)).trans (flag_put_toNat _ PWR_ST_RESULT.BUSY _)

theorem selftestStart_accepted {sel : BitVec 12} (idle : s.flag PWR_ST_RESULT.BUSY = false)
    (used : ∀ n ∈ testedAxes sel, s.axisUsed n = true)
    (mode : s.sys.mode = .standby ∨ s.sys.mode = .service ∧ ∀ n ∈ testedAxes sel, s.isSafe n = true) :
    s.selftestStart sel = s.testing sel := by
  have serves : (testedAxes sel).any (fun n => !s.axisUsed n) = false :=
    List.any_eq_false.mpr fun n hn => by simp [used n hn]
  have allowed : (s.sys.mode != .standby && (s.sys.mode != .service || (testedAxes sel).any fun n => !s.isSafe n)) =
      false := by
    obtain standby | ⟨service, safe⟩ := mode
    · simp [standby]
    · have held : (testedAxes sel).any (fun n => !s.isSafe n) = false :=
        List.any_eq_false.mpr fun n hn => by simp [safe n hn]
      simp [service, held]
  have accepted : (s.flag PWR_ST_RESULT.BUSY || (testedAxes sel).any (fun n => !s.axisUsed n) ||
      (s.sys.mode != .standby && (s.sys.mode != .service || (testedAxes sel).any fun n => !s.isSafe n))) = false := by
    rw [idle, serves, allowed]
    rfl
  exact if_neg (Bool.eq_false_iff.mp accepted)

theorem selftestStart_runs {sel : BitVec 12} (h : s.hostOpen) (idle : s.flag PWR_ST_RESULT.BUSY = false)
    (may : ∀ n < 12, sel.getLsbD n = true →
      s.axisUsed n = true ∧ (s.sys.mode = .standby ∨ (s.sys.mode = .service ∧ s.isSafe n = true))) (some : sel ≠ 0#12) :
    Runs (.selftestStart sel) s [.one PWR_ST_CTRL, .one PWR_ST_RESULT, .intg, .spi, .pwr] (fun t =>
      t.flag PWR_ST_RESULT.BUSY = true ∧ t.pwr.selfTest = testedAxes sel) := by
  have named {n : Nat} (hn : n ∈ testedAxes sel) := may n (mem_testedAxes.mp hn).1 (mem_testedAxes.mp hn).2
  obtain ⟨n, hn⟩ : ∃ n, n ∈ testedAxes sel := by
    by_contra none
    exact some (BitVec.eq_of_getLsbD_eq fun i hi => by
      simpa using fun bit => none ⟨i, mem_testedAxes.mpr ⟨hi, bit⟩⟩)
  have mode : s.sys.mode = .standby ∨ s.sys.mode = .service ∧ ∀ n ∈ testedAxes sel, s.isSafe n = true := by
    by_cases standby : s.sys.mode = .standby
    · exact .inl standby
    · exact .inr ⟨((named hn).2.resolve_left standby).1, fun m hm => ((named hm).2.resolve_left standby).2⟩
  refine runs_hostMeaning (execSelftestStart_does sel s) h ?_
  have nonempty : (!(testedAxes sel).isEmpty) = true := by simp [List.ne_nil_of_mem hn]
  rw [selftestStart_accepted idle (fun m hm => (named hm).1) mode]
  rw [State.flag_settle, State.pwr_settle]
  exact ⟨(testing_busy s sel).trans nonempty, rfl⟩

/-- The parts that the end of the self-test of an axis changes. -/
def Parts.selftestDone : List Field :=
  [.one MOD_STAT, .row MOD_AX_STAT, .one PWR_ST_RESULT, .row PWR_AX_LIVE, .row PWR_AX_STAT, .one INT_AXCAUSE_LO,
    .one INT_AXCAUSE_HI, .one MGT_LOG_STAT, .faults, .reel, .intg, .mgt, .can, .mods, .pwr]

/-- The self-test goes on with the axes `rest`. -/
def State.testsOn (s : State) (rest : List Nat) : State :=
  ({ s with pwr := { s.pwr with selfTest := rest } }).put PWR_ST_RESULT.BUSY (!rest.isEmpty).toNat

/-- An axis fails its self-test; the first failing comparator of the test is recorded (R337). -/
def State.testFailed (s : State) (n c : Nat) : State :=
  let s := if s.flag PWR_ST_RESULT.FAILED then s else (s.put PWR_ST_RESULT.CMP c).put PWR_ST_RESULT.AXIS n
  (s.put PWR_ST_RESULT.FAILED 1).putBit PWR_ST_RESULT.PASS n false

theorem passBit (s : State) {n : Nat} (hn : n < 12) (b : Bool) :
    (s.putBit PWR_ST_RESULT.PASS n b).bitOf PWR_ST_RESULT.PASS n = b :=
  bitOf_putBit_same s PWR_ST_RESULT.PASS n b ⟨hn, by decide⟩

theorem stHold_does (s : State) (n v : Nat) : Does [.row PWR_AX_STAT] s (s.put (PWR_AX_STAT.ST_HOLD n) v) :=
  State.put_does s _ v (Field.has_row PWR_AX_STAT (fun _ => rfl) n)

theorem testFailed_pwr (s : State) (n c : Nat) : (s.testFailed n c).pwr = s.pwr := by
  unfold State.testFailed
  dsimp only
  split <;> rfl

variable {n : Fin 12} {rest : List Nat}

theorem selftestDone_passes (hp : s.powered = true) (axes : s.pwr.selfTest = n.val :: rest) :
    Runs (.selftestDone none) s Parts.selftestDone (fun t => t.pwr.selfTest = rest ∧
      t.bitOf PWR_ST_RESULT.PASS n = true ∧ t.flag (PWR_AX_STAT.ST_HOLD n) = false ∧
      t.flag PWR_ST_RESULT.BUSY = !rest.isEmpty) := by
  refine runs_meaning (execSelftestDone_does none s) hp ?_
  rw [axes]
  have holds := stHold_does ((s.testsOn rest).putBit PWR_ST_RESULT.PASS n true) n 0
  refine ⟨rfl, ?pass, ?hold, ?busy⟩
  case pass => exact (holds.bitOf n).trans (passBit _ n.isLt true)
  case hold => exact flag_put_zero _ (PWR_AX_STAT.ST_HOLD n) (by decide : 15 + 1 ≤ 32)
  case busy =>
    have apart : 0 + n.val + 1 ≤ 28 := by omega
    refine (holds.flag (by decide)).trans ((flag_put_ne _ _ PWR_ST_RESULT.BUSY _ (.inr (.inr apart))).trans ?_)
    exact flag_put_toNat _ PWR_ST_RESULT.BUSY _

theorem selftestDone_fails {c : Fin 18} (hp : s.powered = true) (axes : s.pwr.selfTest = n.val :: rest) :
    Runs (.selftestDone (some c)) s Parts.selftestDone (fun t => t.pwr.selfTest = rest ∧
      t.bitOf PWR_ST_RESULT.PASS n = false ∧ t.flag (PWR_AX_STAT.ST_HOLD n) = true ∧ t.raised 0x0809 n = true) := by
  refine runs_meaning (execSelftestDone_does (some c) s) hp ?_
  rw [axes]
  have raises := State.raise_does ((s.testsOn rest).testFailed n c) 0x0809 n
  have enters := State.enterSafe_does (((s.testsOn rest).testFailed n c).raise 0x0809 n) n 5
  have holds := stHold_does ((((s.testsOn rest).testFailed n c).raise 0x0809 n).enterSafe n 5) n 1
  rw [State.pwr_settle, State.flag_settle, raised_settle]
  refine ⟨?axes, ((State.settle_does _).bitOf n).trans ?pass, ?hold, ?raised⟩
  case axes =>
    have kept := (raises.same .pwr).trans (testFailed_pwr (s.testsOn rest) n c)
    exact (enterSafe_selfTest _ n 5).trans (congrArg Pwr.selfTest kept)
  case pass =>
    exact (holds.bitOf n).trans ((enters.bitOf n).trans ((raises.bitOf n).trans (passBit _ n.isLt false)))
  case hold => exact flag_put_one _ (PWR_AX_STAT.ST_HOLD n) ⟨rfl, (by decide : 15 + 1 ≤ 32)⟩
  case raised =>
    exact (holds.powerRaised rfl).trans ((enters.powerRaised rfl).trans (raised_raise _ 0x0809 n (by decide)))

end

/-! ### Obligation O31 -/

/-- Settles O31: an undervoltage by its bit and what a drive of the switches leaves alone, a diagnosis by the classes
that it stores, and a self-test axis by axis. -/
theorem bootstrapAndDiagnosis : Obligations.BootstrapAndDiagnosis := by
  refine ⟨?asserts, ?releases, ?starts, ?classifies, ?tests, ?passes, ?fails⟩
  case asserts =>
    intro n k s hp used strong first
    exact bstUvAssert_raises hp used strong first
  case releases =>
    intro n k s hp twelve low
    exact bstUvRelease_ends hp twelve low
  case starts =>
    intro n s h axis opened joined volts idle free
    exact diagStart_runs h axis opened joined volts idle free
  case classifies =>
    intro n v s hp busy
    exact (diagDone_classifies hp busy).mono fun t ht =>
      ⟨ht.busy, ht.first, ht.second, fun bad => ht.raised (.inl bad), fun m _ => ht.others m⟩
  case tests =>
    intro sel s h idle may some
    exact selftestStart_runs h idle may some
  case passes =>
    intro n rest s hp axes
    exact selftestDone_passes hp axes
  case fails =>
    intro n c rest s hp axes
    exact selftestDone_fails hp axes

end Sys2Proof.Machine

namespace Sys2Proof.Machine

set_option Elab.async false

/-! ### The registers that a raised fault writes (R24, R571, R572)

The frame of `State.raise` names the fault registers of every axis, and with them, for axes that no device has, some
registers of the position channels. A fault of one block writes those of that block and of the log alone. -/

section
variable {r : Nat}

theorem setFault_word_ne (s : State) {flagReg codeReg : Nat} (bit unitBits code unit : Nat) (flags : r ≠ flagReg)
    (codes : r ≠ codeReg) : (s.setFault flagReg bit codeReg unitBits code unit).word r = s.word r := by
  unfold State.setFault
  extract_lets flagged coded united counted
  have units : united.word r = flagged.word r :=
    (word_put_ne _ ⟨codeReg, 16, unitBits⟩ r unit codes).trans (word_put_ne flagged ⟨codeReg, 0, 16⟩ r code codes)
  have counts : counted.word r = united.word r := word_put_ne united ⟨codeReg, 16 + unitBits, 16 - unitBits⟩ r _ codes
  exact counts.trans (units.trans (word_setWord_ne s flagReg r _ flags))

theorem faultRec_word_ne (s : State) {enter : State → LogRec → Bool × State} (code aux : Nat)
    (h : ∀ s x, (enter s x).2.word r = s.word r) : (s.faultRec enter code aux).word r = s.word r := by
  unfold State.faultRec
  extract_lets now q soon entered
  split
  · rfl
  · split <;> exact h s _

theorem pushRec_word_ne (s : State) (x : LogRec) (stat : r ≠ MGT_LOG_STAT) : (s.pushRec x).2.word r = s.word r := by
  unfold State.pushRec
  split
  · exact word_put_ne _ MGT_LOG_STAT.DROPPED r _ stat
  · rfl

theorem enterRec_word_ne (s : State) (x : LogRec) (stat : r ≠ MGT_LOG_STAT) (fault : r ≠ MGT_FAULT)
    (code : r ≠ MGT_FAULT_CODE) : (s.enterRec x).2.word r = s.word r := by
  have push (s : State) (x : LogRec) := pushRec_word_ne s x stat
  unfold State.enterRec
  split
  · rfl
  split
  · exact push s x
  · refine (push _ x).trans ((faultRec_word_ne _ 0x1002 0xFF push).trans ?_)
    exact (setFault_word_ne _ 1 0 0x1002 0 fault code).trans (push _ _)

/-- A fault of the position block reaches no register of its channels. -/
theorem raise_word_position (s : State) {code : Nat} (unit : Nat) (block : code / 256 = 0x0A)
    (here : 0x109100 ≤ r ∧ r < 0x10F000) : (s.raise code unit).word r = s.word r := by
  have log (u : State) (x : LogRec) : (u.enterRec x).2.word r = u.word r :=
    enterRec_word_ne u x (by unfold MGT_LOG_STAT; omega) (by unfold MGT_FAULT; omega) (by unfold MGT_FAULT_CODE; omega)
  unfold State.raise
  rw [block]
  refine (faultRec_word_ne _ code _ log).trans ?_
  exact setFault_word_ne s _ _ code unit (by show r ≠ POS_FAULT; unfold POS_FAULT; omega)
    (by show r ≠ POS_FAULT + 4; unfold POS_FAULT; omega)

/-- What the position channels keep beside their registers is in none of them. -/
theorem word_withPos (s : State) (p : Pos) (r : Nat) : { s with pos := p }.word r = s.word r := rfl

theorem flag_withPos (s : State) (p : Pos) (f : Fld) : { s with pos := p }.flag f = s.flag f := rfl

end

end Sys2Proof.Machine

namespace Sys2Proof.Machine

set_option Elab.async false

/-! ### Changes of one channel -/

section
variable {β : Type}

/-- Two changes of one element are one. -/
theorem Tbl.mod_mod (l : List β) (i : Nat) (f g : β → β) :
    Tbl.mod (Tbl.mod l i f) i g = Tbl.mod l i (fun x => g (f x)) := by
  induction l generalizing i with
  | nil => rfl
  | cons b t ih =>
    cases i with
    | zero => rfl
    | succ i => exact congrArg (b :: ·) (ih i)

/-- A change that leaves its element leaves the table. -/
theorem Tbl.mod_eq_self {d : β} {l : List β} {i : Nat} {f : β → β} (h : f (Tbl.get d l i) = Tbl.get d l i) :
    Tbl.mod l i f = l := by
  induction l generalizing i with
  | nil => rfl
  | cons b t ih =>
    cases i with
    | zero => exact congrArg (· :: t) h
    | succ i => exact congrArg (b :: ·) (ih h)

end

section
variable {s t : State} {k e : Nat}

theorem qd_modQd_same (f : QdCh → QdCh) (h : k < s.pos.qd.length) : (s.modQd k f).qd k = f (s.qd k) :=
  Tbl.get_mod_same _ s.pos.qd k f h

theorem qd_modQd_other {j : Nat} (f : QdCh → QdCh) (h : j ≠ k) : (s.modQd k f).qd j = s.qd j :=
  Tbl.get_mod_other _ s.pos.qd f h

theorem channels_modQd (s : State) (k : Nat) (f : QdCh → QdCh) :
    (s.modQd k f).channels = (s.pos.si, Tbl.mod s.pos.qd k f, s.pos.sn, s.pos.ee) := rfl

theorem channels_modEe (s : State) (e : Nat) (f : EeCh → EeCh) :
    (s.modEe e f).channels = (s.pos.si, s.pos.qd, s.pos.sn, Tbl.mod s.pos.ee e f) := rfl

theorem modQd_modQd (s : State) (k : Nat) (f g : QdCh → QdCh) :
    ((s.modQd k f).modQd k g).channels = (s.modQd k fun q => g (f q)).channels :=
  congrArg (s.pos.si, ·, s.pos.sn, s.pos.ee) (Tbl.mod_mod ..)

theorem modEe_modEe (s : State) (e : Nat) (f g : EeCh → EeCh) :
    ((s.modEe e f).modEe e g).channels = (s.modEe e fun x => g (f x)).channels :=
  congrArg (s.pos.si, s.pos.qd, s.pos.sn, ·) (Tbl.mod_mod ..)

/-- What a state holds whose channels are those of `s` but for a change of quadrature channel `k`. -/
theorem parts_of_modQd {f : QdCh → QdCh} (h : t.channels = (s.modQd k f).channels) (hk : k < s.pos.qd.length) :
    t.qd k = f (s.qd k) ∧ (∀ j, j ≠ k → t.qd j = s.qd j) ∧ t.pos.si = s.pos.si ∧ t.pos.sn = s.pos.sn ∧
      t.pos.ee = s.pos.ee := by
  obtain ⟨si, qd, sn, ee⟩ := channels_parts h
  refine ⟨?_, fun j ne => ?_, si, sn, ee⟩
  · rw [State.qd, qd]
    exact qd_modQd_same f hk
  · rw [State.qd, qd]
    exact qd_modQd_other f ne

/-- The same for a change of emulation output `e`. -/
theorem parts_of_modEe {f : EeCh → EeCh} (h : t.channels = (s.modEe e f).channels) (he : e < s.pos.ee.length) :
    t.ee e = f (s.ee e) ∧ (∀ j, j ≠ e → t.ee j = s.ee j) ∧ t.pos.si = s.pos.si ∧ t.pos.qd = s.pos.qd ∧
      t.pos.sn = s.pos.sn := by
  obtain ⟨si, qd, sn, ee⟩ := channels_parts h
  refine ⟨?_, fun j ne => ?_, si, qd, sn⟩
  · rw [State.ee, ee]
    exact ee_modEe_same f he
  · rw [State.ee, ee]
    exact ee_modEe_other f ne

end

/-! ### Encoder emulation (R376, R378) -/

section
variable {s : State}

/-- The output count once a backlog above 4096 counts is given up (R378). -/
def State.eeOut (s : State) (e : Nat) : Int :=
  if 4096 < (s.eeTarget e - (s.ee e).out).natAbs then s.eeTarget e else (s.ee e).out

theorem eeOut_near {e : Nat} (near : (s.eeTarget e - (s.ee e).out).natAbs ≤ 4096) : s.eeOut e = (s.ee e).out :=
  if_neg (by omega)

/-- The registers of an output show its channel, and only a backlog given up changes that. -/
theorem eeLook_channels (s : State) (e : Nat) :
    (s.eeLook e).channels = (s.modEe e fun x => { x with out := s.eeOut e }).channels := by
  unfold State.eeLook State.eeOut
  extract_lets target lost
  refine Eq.trans (b := lost.channels) rfl ?_
  unfold lost
  split
  · exact (State.raise_does _ 0x0A0C e).channels
  · exact ((channels_modEe ..).trans (congrArg (s.pos.si, s.pos.qd, s.pos.sn, ·) (Tbl.mod_eq_self (d := {}) rfl))).symm

/-- The source of an output moves its accumulator, and the backlog is looked at. -/
theorem eeMove_channels (s : State) (e : Nat) (d : Int) : ∃ o, (s.eeMove e d).channels =
    (s.modEe e fun x => { x with acc := x.acc + d, out := o }).channels :=
  ⟨(s.modEe e fun x => { x with acc := x.acc + d }).eeOut e, (eeLook_channels _ e).trans (modEe_modEe ..)⟩

variable {e : Fin 2}

/-- An angle sample after another moves the accumulator by their difference. -/
theorem emuThetaSample_moves {p : Nat} (hp : s.powered = true) (two : s.pos.ee.length = 2)
    (en : s.flag (POS_EE_CFG.EN e) = true) (angle : s.flag (POS_EE_CFG.SRC e) = false)
    (before : (s.ee e).theta = some p) :
    Runs (.emuThetaSample e) s [.row POS_EE_COUNT, .row POS_EE_STAT, .one MGT_LOG_STAT, .faults, .reel, .intg, .mgt,
      .can, .pos] (fun t => (t.ee e).theta = some (s.theta (s.fld (POS_EE_CFG.NUM e))) ∧
      (t.ee e).acc = (s.ee e).acc + lowS 20 ((s.theta (s.fld (POS_EE_CFG.NUM e)) : Int) - p) ∧
      (∀ j < 2, j ≠ e.val → t.ee j = s.ee j) ∧ t.pos.si = s.pos.si ∧ t.pos.qd = s.pos.qd ∧ t.pos.sn = s.pos.sn) := by
  refine runs_meaning (execEmuThetaSample_does e s) hp ?_
  rw [if_neg (by simp [en, angle])]
  dsimp only
  rw [before]
  generalize s.theta (s.fld (POS_EE_CFG.NUM e)) = n
  obtain ⟨o, looked⟩ := eeMove_channels (s.modEe e fun x => { x with theta := some n }) e (lowS 20 ((n : Int) - p))
  obtain ⟨output, others, rest⟩ := parts_of_modEe (looked.trans (modEe_modEe ..)) (e.isLt.trans_eq two.symm)
  exact ⟨congrArg EeCh.theta output, congrArg EeCh.acc output, fun j _ => others j, rest⟩

/-- The output count one count nearer to the target. -/
def State.eeNext (s : State) (e : Nat) : Int :=
  if (s.ee e).out < s.eeTarget e then (s.ee e).out + 1 else (s.ee e).out - 1

/-- The first move of an output that lies within 4096 counts of its target. -/
theorem emuStep_moves (hp : s.powered = true) (two : s.pos.ee.length = 2) (en : s.flag (POS_EE_CFG.EN e) = true)
    (first : (s.ee e).moved = none) (away : s.eeTarget e ≠ (s.ee e).out)
    (near : (s.eeTarget e - s.eeNext e).natAbs ≤ 4096) :
    Runs (.emuStep e) s [.row POS_EE_COUNT, .row POS_EE_STAT, .one MGT_LOG_STAT, .faults, .reel, .intg, .mgt, .can,
      .pos] (fun t => (t.ee e).out = s.eeNext e ∧ (t.ee e).moved = some s.time ∧
      (∀ j < 2, j ≠ e.val → t.ee j = s.ee j) ∧ t.pos.si = s.pos.si ∧ t.pos.qd = s.pos.qd ∧ t.pos.sn = s.pos.sn) := by
  have within : e.val < s.pos.ee.length := e.isLt.trans_eq two.symm
  refine runs_meaning (execEmuStep_does e s) hp ?_
  dsimp only
  rw [first, if_neg (by simp [en, away]), ← State.eeNext]
  have stepped := ee_modEe_same (fun x => { x with out := s.eeNext e, moved := some s.time }) within
  have target : (s.modEe e fun x => { x with out := s.eeNext e, moved := some s.time }).eeTarget e = s.eeTarget e := by
    unfold State.eeTarget
    rw [stepped]
    rfl
  have kept := eeOut_near (s := s.modEe e fun x => { x with out := s.eeNext e, moved := some s.time }) (e := e)
    (by rw [target, stepped]; exact near)
  obtain ⟨output, others, rest⟩ := parts_of_modEe ((eeLook_channels _ e).trans (modEe_modEe ..)) within
  have out := (congrArg EeCh.out output).trans (kept.trans (congrArg EeCh.out stepped))
  exact ⟨out, congrArg EeCh.moved output, fun j _ => others j, rest⟩

end

/-! ### Compare units (R373 to R375) -/

theorem cmpPulseEnd_ends {m : Fin 4} {s : State} (hp : s.powered = true) :
    Runs (.cmpPulseEnd m) s [.intg, .pos] (fun t => t.pos.pulse.getLsbD m = false ∧
      (∀ j < 4, j ≠ m.val → t.pos.pulse.getLsbD j = s.pos.pulse.getLsbD j)) := by
  refine runs_meaning (execCmpPulseEnd_does m s) hp ?_
  rw [State.pos_settle]
  refine ⟨by simp, fun j hj ne => ?_⟩
  have apart : j < m.val ∨ ¬j - m.val = 0 := by omega
  simp [hj, apart]

/-- A source moves on from `v` in the direction in which it last counted (R375). -/
def State.movesAway (s : State) (m : Nat) (v : Word) : Bool :=
  (s.srcDir (s.fld (POS_CP_CFG.SRC m))).any fun neg =>
    (sgn (s.srcCount (s.fld (POS_CP_CFG.SRC m)) - v)).sign == (if neg then -1 else 1)

/-- A write of VAL reads no source's count from VAL itself. -/
theorem srcCount_setVal (s : State) (m src : Nat) (v : Word) :
    (s.setWord (POS_CP_VAL m) v).srcCount src = s.srcCount src := by
  unfold State.srcCount
  split
  · rfl
  · split
    · exact s.word_setWord_other v (by unfold POS_SN_COUNT POS_CP_VAL; omega)
    · rfl

theorem writeVal_eq (s : State) (m : Nat) (v : Word) : s.writeVal m v =
    ((s.setWord (POS_CP_VAL m) v).put (POS_CP_STAT.BEHIND m) (s.movesAway m v).toNat).when (s.movesAway m v)
      (fun u => u.raise 0x0A0A m) := by
  have src : (s.setWord (POS_CP_VAL m) v).fld (POS_CP_CFG.SRC m) = s.fld (POS_CP_CFG.SRC m) :=
    s.fld_setWord_other v (by show POS_CP_CFG m ≠ POS_CP_VAL m; unfold POS_CP_CFG POS_CP_VAL; omega)
  have dir (src : Nat) : (s.setWord (POS_CP_VAL m) v).srcDir src = s.srcDir src := rfl
  unfold State.writeVal State.movesAway
  dsimp only
  rw [src, dir, srcCount_setVal]
  cases s.srcDir (s.fld (POS_CP_CFG.SRC m)) <;> rfl

theorem compareValWrite_behind {m : Fin 4} {v : Word} {s : State} (h : s.hostOpen) :
    Runs (.compareValWrite m v) s [.row POS_CP_VAL, .row POS_CP_STAT, .one MGT_LOG_STAT, .faults, .reel, .intg, .mgt,
      .can, .spi] (fun t => t.word (POS_CP_VAL m) = v ∧ t.flag (POS_CP_STAT.BEHIND m) = s.movesAway m v) := by
  refine runs_hostMeaning (execCompareValWrite_does m v s) h ?_
  rw [writeVal_eq]
  have apart : POS_CP_VAL m ≠ POS_CP_STAT m := by unfold POS_CP_VAL POS_CP_STAT; omega
  have val := (word_put_ne (s.setWord (POS_CP_VAL m) v) (POS_CP_STAT.BEHIND m) (POS_CP_VAL m) (s.movesAway m v).toNat
    apart).trans (s.word_setWord_same _ v)
  have behind := flag_put_toNat (s.setWord (POS_CP_VAL m) v) (POS_CP_STAT.BEHIND m) (s.movesAway m v)
    ⟨rfl, (by decide : 0 + 1 ≤ 32)⟩
  generalize (s.setWord (POS_CP_VAL m) v).put (POS_CP_STAT.BEHIND m) (s.movesAway m v).toNat = u at val behind ⊢
  have report := State.when_does (b := s.movesAway m v) (fun u => State.raise_does u 0x0A0A m) (Does.refl _ u)
  exact ⟨(report.rowWord POS_CP_VAL m).trans val, (report.rowFlag POS_CP_STAT.BEHIND m).trans behind⟩

/-- Settles O37: an emulation output by what the look at its registers keeps of it, and a compare unit by its write. -/
theorem emulationMoves : Obligations.EmulationMoves := by
  refine ⟨?sample, ?up, ?down, ?pulse, ?val⟩
  case sample =>
    rintro e p _ s hp two en angle before rfl
    exact emuThetaSample_moves hp two en angle before
  case up =>
    intro e s hp two en first below near
    have next : s.eeNext e = (s.ee e).out + 1 := if_pos below
    rw [← next]
    exact emuStep_moves hp two en first (by omega) (by omega)
  case down =>
    intro e s hp two en first above near
    have next : s.eeNext e = (s.ee e).out - 1 := if_neg (by omega)
    rw [← next]
    exact emuStep_moves hp two en first (by omega) (by omega)
  case pulse =>
    intro m s hp
    exact cmpPulseEnd_ends hp
  case val =>
    intro m v s h
    exact compareValWrite_behind h

end Sys2Proof.Machine

namespace Sys2Proof.Machine

set_option Elab.async false

/-! ### Illegal transitions of a quadrature channel (R352) -/

section
variable {s t : State} {k : Nat}

/-- An illegal transition as its channel's registers show it, before it is reported. -/
def State.qdMarked (s : State) (k : Nat) : State :=
  (s.put (POS_QD_STAT.ILLEGAL_SEEN k) 1).bump (POS_QD_ERR.ILLEGAL k) 1

/-- The first illegal transition of a channel in a frame is reported. -/
def State.qdReported (s : State) (k : Nat) : State :=
  (s.modQd k fun q => { q with illegal := true }).raise 0x0A01 k

theorem qdReported_word (s : State) (k : Nat) {r : Nat} (here : 0x109100 ≤ r ∧ r < 0x10F000) :
    (s.qdReported k).word r = s.word r :=
  (raise_word_position _ k (by decide) here).trans (State.word_modQd s k _ r)

theorem qdIllegal_eq (s : State) (k : Nat) :
    s.qdIllegal k = if (s.qd k).illegal then s.qdMarked k else (s.qdMarked k).qdReported k := rfl

theorem qdIllegal_again (h : (s.qd k).illegal = true) : s.qdIllegal k = s.qdMarked k :=
  (qdIllegal_eq s k).trans (if_pos h)

theorem qdIllegal_first (h : (s.qd k).illegal = false) : s.qdIllegal k = (s.qdMarked k).qdReported k :=
  (qdIllegal_eq s k).trans (if_neg (by simp [h]))

/-- Of the channels an illegal transition changes no more than the mark that it was reported in this frame. -/
theorem qdIllegal_channels (s : State) (k : Nat) :
    (s.qdIllegal k).channels = (s.modQd k fun q => { q with illegal := true }).channels := by
  cases h : (s.qd k).illegal with
  | false =>
    rw [qdIllegal_first h]
    exact (State.raise_does _ 0x0A01 k).channels
  | true =>
    have same : { s.qd k with illegal := true } = s.qd k := by rw [← h]
    rw [qdIllegal_again h, channels_modQd]
    exact congrArg (s.pos.si, ·, s.pos.sn, s.pos.ee) (Tbl.mod_eq_self (d := {}) same).symm

/-- What an illegal transition of channel `k` shows. -/
structure IllegalShown (k : Nat) (s t : State) : Prop where
  seen : t.flag (POS_QD_STAT.ILLEGAL_SEEN k) = true
  counted : t.fld (POS_QD_ERR.ILLEGAL k) = min (s.fld (POS_QD_ERR.ILLEGAL k) + 1) 0xFFFF
  index : t.fld (POS_QD_STAT.INDEX k) = s.fld (POS_QD_STAT.INDEX k)

theorem qdMarked_shown (s : State) (k : Nat) : IllegalShown k s (s.qdMarked k) := by
  have apart : POS_QD_ERR k ≠ POS_QD_STAT k := by unfold POS_QD_ERR POS_QD_STAT; omega
  refine ⟨?seen, ?counted, ?index⟩
  case seen =>
    refine (flag_put_ne _ (POS_QD_ERR.ILLEGAL k) (POS_QD_STAT.ILLEGAL_SEEN k) _ (.inl apart.symm)).trans ?_
    exact flag_put_one s (POS_QD_STAT.ILLEGAL_SEEN k) ⟨rfl, (by decide : 1 + 1 ≤ 32)⟩
  case counted =>
    refine (fld_bump_same _ (POS_QD_ERR.ILLEGAL k) 1 (by decide : 0 + 16 ≤ 32)).trans ?_
    rw [fld_put_ne s (POS_QD_STAT.ILLEGAL_SEEN k) (POS_QD_ERR.ILLEGAL k) 1 (.inl apart)]
    rfl
  case index =>
    refine (fld_put_ne _ (POS_QD_ERR.ILLEGAL k) (POS_QD_STAT.INDEX k) _ (.inl apart.symm)).trans ?_
    exact fld_put_ne s (POS_QD_STAT.ILLEGAL_SEEN k) (POS_QD_STAT.INDEX k) 1 (.inr (.inr (by decide : 1 + 1 ≤ 16)))

theorem IllegalShown.of_words {u : State} (h : IllegalShown k s t)
    (stat : u.word (POS_QD_STAT k) = t.word (POS_QD_STAT k)) (err : u.word (POS_QD_ERR k) = t.word (POS_QD_ERR k)) :
    IllegalShown k s u where
  seen := (congrArg (fun w => (POS_QD_STAT.ILLEGAL_SEEN k).of w == 1) stat).trans h.seen
  counted := (congrArg (POS_QD_ERR.ILLEGAL k).of err).trans h.counted
  index := (congrArg (POS_QD_STAT.INDEX k).of stat).trans h.index

/-- The marks write no register of a fault. -/
theorem qdMarked_word (s : State) (k : Nat) {r : Nat} (h : r < 0x109100) : (s.qdMarked k).word r = s.word r :=
  (word_put_ne _ (POS_QD_ERR.ILLEGAL k) r _ (by show r ≠ POS_QD_ERR k; unfold POS_QD_ERR; omega)).trans
    (word_put_ne s (POS_QD_STAT.ILLEGAL_SEEN k) r 1 (by show r ≠ POS_QD_STAT k; unfold POS_QD_STAT; omega))

end

section
variable {s : State} {k : Fin 4}

theorem qdIllegal_shown (s : State) (k : Fin 4) : IllegalShown k s (s.qdIllegal k) := by
  have marked := qdMarked_shown s k
  cases h : (s.qd k).illegal with
  | true => exact qdIllegal_again h ▸ marked
  | false =>
    rw [qdIllegal_first h]
    exact marked.of_words (qdReported_word _ k (by unfold POS_QD_STAT; omega))
      (qdReported_word _ k (by unfold POS_QD_ERR; omega))

/-- The recognised levels of a channel's lines are the reference for the next transition. -/
def State.qdTaken (s : State) (k : Nat) (a b i : Bool) : State :=
  s.modQd k fun q => { q with a := a, b := b, i := i && s.inputOn 0x03 k }

/-- Both lines of an enabled channel have changed: its new levels are taken, and the transition is illegal. -/
theorem qdEdge_runsIllegal {P : State → Prop} {a b i : Bool} {lag : Nat} (hp : s.powered = true)
    (en : s.flag (POS_QD_CFG.EN k) = true) (vio : s.vioOk = true)
    (skips : (qdPlace a b + 4 - qdPlace (s.qd k).a (s.qd k).b) % 4 = 2)
    (h : P ((s.qdTaken k a b i).qdIllegal k).settle) :
    Runs (.qdEdge k a b i lag) s Parts.qdEdge P := by
  refine runs_meaning (execQdEdge_does k a b i lag s) hp ?_
  dsimp only
  rw [if_neg (by simp [en, show (s.modQd k _).vioOk = true from vio]), if_pos skips]
  exact h

/-- Settles O35: what the transition shows, what it leaves of the channels, and its report by whether one was made in
the frame. -/
theorem illegalTransitionIgnored : Obligations.IllegalTransitionIgnored := by
  intro k a b i lag s hp four en vio skips
  refine qdEdge_runsIllegal hp en vio skips ?_
  have within : k.val < s.pos.qd.length := k.isLt.trans_eq four.symm
  have taken : ((s.qdTaken k a b i).qd k).illegal = (s.qd k).illegal := by
    rw [State.qdTaken, qd_modQd_same _ within]
  have channels := (qdIllegal_channels (s.qdTaken k a b i) k).trans (modQd_modQd s ..)
  obtain ⟨channel, others, si, sn, ee⟩ := parts_of_modQd channels within
  have shown := qdIllegal_shown (s.qdTaken k a b i) k
  refine ⟨(congrArg QdCh.count channel :), (congrArg QdCh.angle channel :), (congrArg QdCh.turns channel :),
    (congrArg QdCh.a channel :), (congrArg QdCh.b channel :), shown.seen, shown.counted, shown.index,
    fun first => ⟨?raised, (congrArg QdCh.illegal channel :)⟩, fun again => ?quiet, fun j _ => others j, si, sn, ee⟩
  case raised =>
    rw [raised_settle, qdIllegal_first (taken.trans first)]
    exact State.raise_raised _ 0x0A01 k (by decide) (by decide)
  case quiet =>
    rw [State.word_settle, State.word_settle, qdIllegal_again (taken.trans again)]
    exact ⟨qdMarked_word _ k (by decide), qdMarked_word _ k (by decide)⟩

end

end Sys2Proof.Machine

namespace Sys2Proof.Machine

set_option Elab.async false

/-! ### A quadrature channel that an emulation output follows (R376) -/

/-- In RUN, quadrature channel 0 is enabled, and emulation output 0, enabled, has it as its source. -/
def followedChannel : State :=
  let s := { State.reset with sys := { mode := .run, inReset := false } }.put (POS_QD_CFG.EN 0) 1
  (s.put (POS_EE_CFG.EN 0) 1).put (POS_EE_CFG.SRC 0) 1

/-- A forward edge of the channel, from the levels (0, 0) to (1, 0). -/
def followedEdge : State :=
  (followedChannel.modQd 0 fun q => { q with a := true }).qdCount 0 false 1

/-- The output follows: its accumulator moves by the count. -/
theorem followedEdge_acc : (followedEdge.ee 0).acc = (followedChannel.ee 0).acc + 1 := by decide +kernel

/-- Refutes O34, at its first clause: the clause has a counted edge leave every emulation output as it was, but an
output whose source is the channel follows its COUNT (R376), so its accumulator moves. -/
theorem not_quadratureCounts : ¬ Obligations.QuadratureCounts := by
  intro ⟨forward, _⟩
  obtain ⟨t, next, -, -, -, -, -, -, -, still⟩ := forward 0 true false false 1 followedChannel rfl rfl
    (by decide +kernel) rfl (by decide +kernel) rfl rfl
  obtain rfl : followedEdge.settle = t := Host.Outcome.next.inj next
  have same : (followedEdge.ee 0).acc = (followedChannel.ee 0).acc :=
    congrArg (fun l => (Tbl.get ({} : EeCh) l 0).acc) still
  rw [followedEdge_acc] at same
  omega

end Sys2Proof.Machine

namespace Sys2Proof.Machine

set_option Elab.async false

/-! ### Limit inputs (R368) -/

/-- The bits that show the levels of the limit inputs of one side. -/
def limitLevels (positive : Bool) : Fld := if positive then POS_LIM.POS_ACT else POS_LIM.NEG_ACT

/-- The bits that keep the limit edges seen on one side. -/
def limitsSeen (positive : Bool) : Fld := if positive then POS_LIM_SEEN.POS else POS_LIM_SEEN.NEG

/-- The level that is the inactive one of a limit input. -/
def State.limitRest (s : State) (n : Nat) (positive : Bool) : Bool :=
  s.flag (if positive then POS_AX_LIMCFG.POL_POS n else POS_AX_LIMCFG.POL_NEG n)

/-- A limit edge is seen, and its axis hears of it. -/
def State.limitSeen (s : State) (n : Nat) (positive : Bool) : State :=
  (s.putBit (limitsSeen positive) n true).modMot n fun m =>
    if positive then { m with edgePos := true } else { m with edgeNeg := true }

/-- The debounced level of a limit input is shown, and a change to the active level is seen. -/
def State.limitTaken (s : State) (n : Nat) (positive level : Bool) : State :=
  let active := level != s.limitRest n positive
  let u := s.putBit (limitLevels positive) n active
  if !active || s.bitOf (limitLevels positive) n then u else u.limitSeen n positive

section
variable {s : State} {n : Fin 12} {positive level : Bool}

theorem limitLevels_fits (positive : Bool) : (limitLevels positive).w = 12 ∧
    (limitLevels positive).lo + (limitLevels positive).w ≤ 32 := by
  cases positive <;> decide

theorem limitsSeen_fits (positive : Bool) : (limitsSeen positive).w = 12 ∧
    (limitsSeen positive).lo + (limitsSeen positive).w ≤ 32 := by
  cases positive <;> decide

theorem limitsSeen_apart (positive : Bool) : (limitLevels positive).addr ≠ (limitsSeen positive).addr := by
  cases positive <;> decide

theorem limitEdge_runs {P : State → Prop} (hp : s.powered = true) (pin : s.inputOn (limitFn positive) n = true)
    (h : P (s.limitTaken n positive level).settle) :
    Runs (.limitEdge n positive level) s [.one POS_LIM, .one POS_LIM_SEEN, .intg, .mots] P := by
  refine runs_meaning (execLimitEdge_does n positive level s) hp ?_
  rw [pin, Bool.not_true, if_neg Bool.false_ne_true]
  cases positive <;> exact h

/-- An edge shows its level, and one to the active level of an inactive input is seen. -/
theorem limitEdge_shows (hp : s.powered = true) (pin : s.inputOn (limitFn positive) n = true) :
    Runs (.limitEdge n positive level) s [.one POS_LIM, .one POS_LIM_SEEN, .intg, .mots] (fun t =>
      t.bitOf (limitLevels positive) n = (level != s.limitRest n positive) ∧
      (level ≠ s.limitRest n positive → s.bitOf (limitLevels positive) n = false →
        t.bitOf (limitsSeen positive) n = true) ∧
      (∀ m < 12, m ≠ n.val → t.mot m = s.mot m)) := by
  obtain ⟨levels, low⟩ := limitLevels_fits positive
  obtain ⟨marks, low'⟩ := limitsSeen_fits positive
  have shown (b : Bool) := bitOf_putBit_same s (limitLevels positive) n b ⟨n.isLt.trans_eq levels.symm, low⟩
  refine limitEdge_runs hp pin ?_
  unfold State.limitTaken
  dsimp only
  generalize s.limitRest n positive = rest
  split
  case isTrue calm =>
    refine ⟨shown _, fun active idle => ?_, fun _ _ _ => rfl⟩
    rw [idle, Bool.or_false, Bool.not_eq_true', bne_eq_false_iff_eq] at calm
    exact absurd calm active
  case isFalse edge =>
    have kept := bitOf_put_ne (s.putBit (limitLevels positive) n (level != rest))
      ⟨(limitsSeen positive).addr, (limitsSeen positive).lo + n, 1⟩ (limitLevels positive) 1 n
      (.inl (limitsSeen_apart positive))
    exact ⟨kept.trans (shown _), fun _ _ => bitOf_putBit_same _ (limitsSeen positive) n true
      ⟨n.isLt.trans_eq marks.symm, low'⟩, fun m _ ne => mot_modMot_other _ ne⟩

end

/-! ### Latches (R370 to R372) -/

section
variable {s t : State} {j : Nat}

/-- The count of a source is read off its channel, or off COUNT of a SENT channel. -/
theorem srcCount_congr (h : t.channels = s.channels)
    (sent : ∀ k : Fin 4, t.word (POS_SN_COUNT k) = s.word (POS_SN_COUNT k)) (src : Nat) :
    t.srcCount src = s.srcCount src := by
  obtain ⟨si, qd, -, -⟩ := channels_parts h
  unfold State.srcCount State.qd State.si
  rw [si, qd]
  split
  · rfl
  · split
    · exact sent ⟨src - 4, by omega⟩
    · rfl

/-- A latch filled is full and shows the count of its source. -/
theorem fillLatch_fills (s : State) (j : Nat) (stamp : Word) : (s.fillLatch j stamp).flag (POS_LT_STAT.FULL j) = true ∧
    (s.fillLatch j stamp).word (POS_LT_POS j) = s.srcCount (s.fld (POS_LT_CFG.SRC j)) := by
  have time : POS_LT_POS j ≠ POS_LT_TIME j := by unfold POS_LT_POS POS_LT_TIME; omega
  have stat : POS_LT_POS j ≠ POS_LT_STAT j := by unfold POS_LT_POS POS_LT_STAT; omega
  unfold State.fillLatch
  extract_lets src tw placed full old stamped
  constructor
  · have timed : stamped.flag (POS_LT_STAT.FULL j) = full.flag (POS_LT_STAT.FULL j) := flag_withPos full _ _
    have marked : full.flag (POS_LT_STAT.FULL j) = true :=
      (flag_put_ne _ (POS_LT_STAT.STALE j) (POS_LT_STAT.FULL j) 0 (.inr (.inl (by decide : 0 + 1 ≤ 1)))).trans
        (flag_put_one placed (POS_LT_STAT.FULL j) ⟨rfl, (by decide : 0 + 1 ≤ 32)⟩)
    have shows := (flag_put_ne _ (POS_LT_STAT.DIR j) (POS_LT_STAT.FULL j) (tw.1.toNat / 2 ^ 31)
      (.inr (.inl (by decide : 0 + 1 ≤ 31)))).trans (flag_put_ne stamped (POS_LT_STAT.PERIOD j) (POS_LT_STAT.FULL j)
        ((tw.1 >>> 16).toNat % 2 ^ 15) (.inr (.inl (by decide : 0 + 1 ≤ 16))))
    exact shows.trans (timed.trans marked)
  · have timed : stamped.word (POS_LT_POS j) = full.word (POS_LT_POS j) := word_withPos full _ _
    have marks : full.word (POS_LT_POS j) = placed.word (POS_LT_POS j) :=
      (word_put_ne _ (POS_LT_STAT.STALE j) _ _ stat).trans (word_put_ne placed (POS_LT_STAT.FULL j) _ _ stat)
    have places : placed.word (POS_LT_POS j) = tw.2.srcCount src :=
      (word_setWord_ne _ (POS_LT_TIME j) _ _ time).trans (State.word_setWord_same ..)
    have shows := (word_put_ne _ (POS_LT_STAT.DIR j) (POS_LT_POS j) (tw.1.toNat / 2 ^ 31) stat).trans
      (word_put_ne stamped (POS_LT_STAT.PERIOD j) (POS_LT_POS j) ((tw.1 >>> 16).toNat % 2 ^ 15) stat)
    have read := State.srcTime_does s src
    have source := srcCount_congr read.channels (fun k => read.rowWord POS_SN_COUNT k) src
    exact shows.trans (timed.trans (marks.trans (places.trans source)))

/-- Filling a latch writes its own registers. -/
theorem fillLatch_word_ne {r : Nat} (s : State) (stamp : Word) (pos : r ≠ POS_LT_POS j) (time : r ≠ POS_LT_TIME j)
    (stat : r ≠ POS_LT_STAT j) : (s.fillLatch j stamp).word r = s.word r := by
  unfold State.fillLatch
  extract_lets src tw placed full old stamped
  have timed : stamped.word r = full.word r := word_withPos full _ r
  have marks : full.word r = placed.word r :=
    (word_put_ne _ (POS_LT_STAT.STALE j) _ _ stat).trans (word_put_ne placed (POS_LT_STAT.FULL j) _ _ stat)
  have places : placed.word r = tw.2.word r :=
    (word_setWord_ne _ (POS_LT_TIME j) _ _ time).trans (word_setWord_ne tw.2 (POS_LT_POS j) _ _ pos)
  have shows := (word_put_ne _ (POS_LT_STAT.DIR j) r (tw.1.toNat / 2 ^ 31) stat).trans
    (word_put_ne stamped (POS_LT_STAT.PERIOD j) r ((tw.1 >>> 16).toNat % 2 ^ 15) stat)
  exact shows.trans (timed.trans (marks.trans (places.trans ((State.srcTime_does s src).word rfl))))

theorem overrunLatch_word_ne {r : Nat} (s : State) (stat : r ≠ POS_LT_STAT j) (here : 0x109100 ≤ r ∧ r < 0x10F000) :
    (s.overrunLatch j).word r = s.word r := by
  unfold State.overrunLatch
  extract_lets counted
  have counts : counted.word r = s.word r := word_put_ne s (POS_LT_STAT.OVR j) r _ stat
  split
  · exact counts
  · exact (raise_word_position _ j (by decide) here).trans ((word_withPos counted _ r).trans counts)

/-- A trigger of latch `j` writes no other register of the position channels. -/
theorem capture_word_ne {r : Nat} (s : State) (stamp : Word) (own : r ∉ [POS_LT_POS j, POS_LT_TIME j, POS_LT_STAT j])
    (here : 0x109100 ≤ r ∧ r < 0x10F000) : (s.capture j stamp).word r = s.word r := by
  obtain ⟨pos, time, stat⟩ : r ≠ POS_LT_POS j ∧ r ≠ POS_LT_TIME j ∧ r ≠ POS_LT_STAT j := by simpa using own
  have overrun := overrunLatch_word_ne s stat here
  rw [capture_eq]
  cases s.flag (POS_LT_STAT.FULL j)
  case false => exact fillLatch_word_ne s stamp pos time stat
  case true =>
    simp only [if_true]
    split
    · exact overrun
    · exact (fillLatch_word_ne _ stamp pos time stat).trans overrun

/-- CFG, POS and STAT of latch `j`. -/
def State.latchWords (s : State) (j : Nat) : Word × Word × Word :=
  (s.word (POS_LT_CFG j), s.word (POS_LT_POS j), s.word (POS_LT_STAT j))

theorem latchWords_parts (h : t.latchWords j = s.latchWords j) :
    t.fld (POS_LT_CFG.SRC j) = s.fld (POS_LT_CFG.SRC j) ∧ t.word (POS_LT_POS j) = s.word (POS_LT_POS j) ∧
      t.flag (POS_LT_STAT.FULL j) = s.flag (POS_LT_STAT.FULL j) := by
  obtain ⟨cfg, rest⟩ := Prod.mk.inj h
  obtain ⟨pos, stat⟩ := Prod.mk.inj rest
  exact ⟨congrArg (POS_LT_CFG.SRC j).of cfg, pos, congrArg (fun w => (POS_LT_STAT.FULL j).of w == 1) stat⟩

/-- A trigger of another latch does not reach this one. -/
theorem capture_latchWords {i : Nat} (hj : j < 8) (ne : j ≠ i) (s : State) (stamp : Word) :
    (s.capture i stamp).latchWords j = s.latchWords j := by
  have same (r : Nat) (hr : r = POS_LT_CFG j ∨ r = POS_LT_POS j ∨ r = POS_LT_STAT j) :
      (s.capture i stamp).word r = s.word r := by
    unfold POS_LT_CFG POS_LT_POS POS_LT_STAT at hr
    refine capture_word_ne s stamp ?_ (by omega)
    simp only [List.mem_cons, List.not_mem_nil, or_false, POS_LT_POS, POS_LT_TIME, POS_LT_STAT]
    omega
  unfold State.latchWords
  rw [same _ (.inl rfl), same _ (.inr (.inl rfl)), same _ (.inr (.inr rfl))]

/-- The latches `l` are triggered in turn. -/
def State.captures (s : State) (stamp : Word) (l : List Nat) : State := s.each l fun u j => u.capture j stamp

theorem captures_latchWords {l : List Nat} (hj : j < 8) (out : j ∉ l) (s : State) (stamp : Word) :
    (s.captures stamp l).latchWords j = s.latchWords j :=
  each_keeps (State.latchWords · j) (fun _ hi u => capture_latchWords hj (fun e => out (e ▸ hi)) u stamp) s

theorem captures_srcCount (s : State) (stamp : Word) (l : List Nat) (src : Nat) :
    (s.captures stamp l).srcCount src = s.srcCount src := by
  have does := State.each_does (fun u i => State.capture_does u i stamp) (Does.refl _ s) (m := l)
  have channels := each_pres State.channels (fun u i => capture_channels u i stamp) s l
  exact srcCount_congr channels (fun k => does.rowWord POS_SN_COUNT k) src

/-- A latch that a trigger chooses is triggered once, between others. -/
theorem trigger_splits (s : State) (stamp : Word) {p : Nat → Bool} (hj : j < 8) (hit : p j = true) :
    ∃ before after, j ∉ before ∧ j ∉ after ∧
      s.trigger stamp p = ((s.captures stamp before).capture j stamp).captures stamp after := by
  have mem : j ∈ (List.range 8).filter p := List.mem_filter.mpr ⟨List.mem_range.mpr hj, hit⟩
  obtain ⟨before, after, e⟩ := List.append_of_mem mem
  have once : (before ++ j :: after).Nodup := e ▸ List.nodup_range.filter p
  obtain ⟨notBefore, notAfter⟩ : j ∉ before ∧ j ∉ after := by
    simpa using (List.nodup_middle.mp once).notMem
  refine ⟨before, after, notBefore, notAfter, ?_⟩
  unfold State.trigger State.captures State.each
  rw [e, List.foldl_append, List.foldl_cons]

/-- Of the latches triggered together, each that is empty captures the count of its source. -/
theorem trigger_captures (s : State) (stamp : Word) {p : Nat → Bool} (hj : j < 8) (hit : p j = true)
    (empty : s.flag (POS_LT_STAT.FULL j) = false) : (s.trigger stamp p).flag (POS_LT_STAT.FULL j) = true ∧
      (s.trigger stamp p).word (POS_LT_POS j) = s.srcCount (s.fld (POS_LT_CFG.SRC j)) := by
  obtain ⟨before, after, notBefore, notAfter, split⟩ := trigger_splits s stamp hj hit
  have source := captures_srcCount s stamp before (s.fld (POS_LT_CFG.SRC j))
  obtain ⟨choice, -, still⟩ := latchWords_parts (captures_latchWords hj notBefore s stamp)
  rw [split]
  generalize s.captures stamp before = u at source choice still ⊢
  obtain ⟨-, pos, full⟩ := latchWords_parts (captures_latchWords hj notAfter (u.capture j stamp) stamp)
  have filled : u.capture j stamp = u.fillLatch j stamp := by
    rw [capture_eq, still.trans empty]
    rfl
  obtain ⟨isFull, count⟩ := fillLatch_fills u j stamp
  rw [full, pos, filled, count, choice, source]
  exact ⟨isFull, rfl⟩

end

section
variable {s : State} {j : Fin 8}

theorem capEdge_captures {c : Fin 4} {rising : Bool} {lag : Nat} (hp : s.powered = true)
    (pin : s.inputOn 0x09 c = true) (trig : s.fld (POS_LT_CFG.TRIG j) = 1) (input : s.fld (POS_LT_CFG.TINST j) = c.val)
    (both : s.fld (POS_LT_CFG.EDGE j) = 2) (empty : s.flag (POS_LT_STAT.FULL j) = false) :
    Runs (.capEdge c rising lag) s [.row POS_LT_POS, .row POS_LT_TIME, .row POS_LT_STAT, .one MGT_LOG_STAT, .faults,
      .reel, .intg, .mgt, .can, .pos, .drawn] (fun t => t.flag (POS_LT_STAT.FULL j) = true ∧
      t.word (POS_LT_POS j) = s.srcCount (s.fld (POS_LT_CFG.SRC j))) := by
  refine runs_meaning (execCapEdge_does c rising lag s) hp ?_
  rw [State.flag_settle, State.word_settle, pin, Bool.not_true, if_neg Bool.false_ne_true]
  exact trigger_captures s _ j.isLt (by simp [trig, input, both]) empty

theorem latchHostTrig_captures {m : BitVec 8} {lag : Nat} (h : s.hostOpen) (chosen : m.getLsbD j = true)
    (trig : s.fld (POS_LT_CFG.TRIG j) = 4) (empty : s.flag (POS_LT_STAT.FULL j) = false) :
    Runs (.latchHostTrig m lag) s [.row POS_LT_POS, .row POS_LT_TIME, .row POS_LT_STAT, .one MGT_LOG_STAT, .faults,
      .reel, .intg, .mgt, .can, .spi, .pos, .drawn] (fun t => t.flag (POS_LT_STAT.FULL j) = true ∧
      t.word (POS_LT_POS j) = s.srcCount (s.fld (POS_LT_CFG.SRC j))) := by
  refine runs_hostMeaning (execLatchHostTrig_does m lag s) h ?_
  rw [State.flag_settle, State.word_settle]
  exact trigger_captures s _ j.isLt (by simp [trig, chosen]) empty

theorem latchRead_empties (h : s.hostOpen) :
    Runs (.latchRead j) s [.row POS_LT_STAT, .latched, .intg, .spi] (fun t => t.flag (POS_LT_STAT.FULL j) = false ∧
      t.fld (POS_LT_STAT.OVR j) = 0 ∧ Assoc.get t.latched (.host, POS_LT_TIME j) = some (s.word (POS_LT_TIME j)) ∧
      Assoc.get t.latched (.host, POS_LT_STAT j) = some (s.word (POS_LT_STAT j))) := by
  have apart : POS_LT_TIME j ≠ POS_LT_STAT j := by unfold POS_LT_TIME POS_LT_STAT; omega
  refine runs_hostMeaning (execLatchRead_does j s) h ?_
  rw [State.flag_settle, State.fld_settle, State.latched_settle]
  refine ⟨?_, State.fld_put_same _ (POS_LT_STAT.OVR j) 0 (by decide : 8 + 8 ≤ 32), ?_, Assoc.get_put_same ..⟩
  · refine (flag_put_ne _ (POS_LT_STAT.OVR j) (POS_LT_STAT.FULL j) 0 (.inr (.inl (by decide : 0 + 1 ≤ 8)))).trans ?_
    exact flag_put_zero _ (POS_LT_STAT.FULL j) (by decide : 0 + 1 ≤ 32)
  · exact (Assoc.get_put_other _ _ (by simpa using apart)).trans (Assoc.get_put_same ..)

end

/-! ### Output pins (R385) -/

theorem outMismatch_raises {p : Fin 15} {level : Bool} {s : State} (hp : s.powered = true)
    (drives : s.driven p = some !level) : Runs (.outMismatch p level) s [.one MGT_LOG_STAT, .faults, .reel, .intg, .mgt,
      .can, .pos] (fun t => t.raised 0x1401 = true) := by
  refine runs_meaning (execOutMismatch_does p level s) hp ?_
  rw [drives]
  dsimp only
  rw [show (level != !level) = true by cases level <;> rfl, when_true]
  exact State.raise_raised _ 0x1401 0 (by decide) (by decide)

/-- Settles O38: a limit edge by its side, and the latches by the one trigger that all of them share. -/
theorem limitsAndLatches : Obligations.LimitsAndLatches := by
  refine ⟨?positive, ?negative, ?capture, ?host, ?read, ?mismatch⟩
  case positive =>
    intro n level s hp pin
    exact limitEdge_shows (positive := true) hp pin
  case negative =>
    intro n level s hp pin
    exact limitEdge_shows (positive := false) hp pin
  case capture =>
    intro c rising lag j s hp pin trig input both empty
    exact capEdge_captures hp pin trig input both empty
  case host =>
    intro m lag j s h chosen trig empty
    exact latchHostTrig_captures h chosen trig empty
  case read =>
    intro j s h
    exact latchRead_empties h
  case mismatch =>
    intro p level s hp _ _ drives _
    exact outMismatch_raises hp drives

end Sys2Proof.Machine
